-- ==== Sys2Proof/Word.lean ====
section
/-!
DEFINITION. Sys2Proof/Word.lean: the words the part computes with, and the names of its dies.

A register is 32 bits wide (R29), a memory cell one byte.  A die is a name, not a number; where a table of the spec
codes it (R568, the MAINT block, CONF_UNIT), the code is `Die.code`.
-/

namespace Sys2Proof

/-- One register word (R29: a register block accepts 32-bit accesses only). -/
abbrev Word := BitVec 32

/-- One byte of a memory window. -/
abbrev Byte := BitVec 8

/-- The eight dies (chapter "Eight dies, one part", table "The dies"). -/
inductive Die where
  | c0 | c1 | d0 | d1 | d2 | d3 | n | s
deriving DecidableEq, Repr, Inhabited

/-- The code of a die: 0 C0, 1 C1, 2-5 D0-D3, 6 N, 7 S (R568, MAINT block; 8 is the keeper). -/
def Die.code : Die → Nat
  | .c0 => 0 | .c1 => 1 | .d0 => 2 | .d1 => 3 | .d2 => 4 | .d3 => 5 | .n => 6 | .s => 7

end Sys2Proof
end

