-- ==== Sys2Proof/Syntax.lean ====
section
/-!
DEFINITION. Sys2Proof/Syntax.lean: the commands of the part, one constructor for each row of the table of operations and
events, and the types of their operands.

Operands name the unit (d a drive die, k a group, core or link, j a port, m a metering point, ...) or carry what the world
outside the model determines (levels, times, received words).
-/

namespace Sys2Proof

/-- A regular sequence of a core that has reached N (R197): the core within its drive die, the TTIME of its stamp, its result words in the
order of its entries. -/
structure SampleSeq where
  core : Fin 4
  ttime : BitVec 48
  words : List Word
deriving DecidableEq, Repr, Inhabited

/-- Where a restart acknowledgement comes from, the mailbox apart (R393): a safe input with FUNC = 8, or the command word. -/
inductive AckSource where
  | input (n : Fin 8)
  | control
deriving DecidableEq, Repr, Inhabited

/-- The levels at the balls of S that a channel samples (R386): both pins of SI0-SI7 (bit n: A, bit 8 + n: B), the wheel tracks (WS0A, WS0B,
WS1A, WS1B), the voltages at SAIN0-SAIN7 as the 10-bit codes of R418, SO0A-SO3A, SO0B-SO3B, STO_A and STO_B. -/
structure SafetyPins where
  si : BitVec 16
  ws : BitVec 4
  scmp : Vector (BitVec 10) 8
  so : BitVec 8
  sto : BitVec 2
deriving DecidableEq, Repr, Inhabited

/-- A CAN frame (R497): extended identifier, identifier, FD format, remote frame, data, bit-rate switching. -/
structure CanFrame where
  ide : Bool
  id : Nat
  fd : Bool
  rtr : Bool
  data : List Nat
  brs : Bool := false
deriving DecidableEq, Repr, Inhabited

/-- A received CAN frame with the time of its SOF, the LT nanoseconds [31:0] (R500). -/
structure CanReceived extends CanFrame where
  sof : BitVec 32
deriving DecidableEq, Repr, Inhabited

/-- VKIN and HVIN as the keeper samples them, in mV (R546). -/
structure KeeperInputs where
  vkin : BitVec 16
  hvin : BitVec 16
deriving DecidableEq, Repr, Inhabited

/-- How the transmission of a CAN frame ends (R499). -/
inductive CanTxEnd where
  | done | arbitrationLost | error
deriving DecidableEq, Repr, Inhabited

/-- What an Announce message says of a grandmaster and of UTC (R477, R490); the base-2 logarithm of its interval in s. -/
structure PtpAnnounce where
  priority1 : BitVec 8
  clockClass : BitVec 8
  accuracy : BitVec 8
  variance : BitVec 16
  priority2 : BitVec 8
  gm : BitVec 64
  steps : BitVec 16
  utcOfs : Int
  utcValid : Bool
  leap61 : Bool
  leap59 : Bool
  logInterval : Int
deriving DecidableEq, Repr, Inhabited

/-- The body of a PTP message for the ordinary clock; times of the master in 2^-16 ns. -/
inductive PtpBody where
  | sync (twoStep : Bool) (origin : Int)
  | followUp (origin : Int)
  | announce (a : PtpAnnounce)
  | delayResp (receipt : Int)
  | pdelayResp (twoStep : Bool) (receipt : Int)
  | pdelayRespFollowUp (departure : Int)
deriving DecidableEq, Repr, Inhabited

/-- A PTP message: domain number, sourcePortIdentity, sequenceId, correctionField (2^-16 ns). -/
structure PtpMsg where
  domain : BitVec 8
  sender : BitVec 80
  seq : BitVec 16
  correction : Int
  body : PtpBody
deriving DecidableEq, Repr, Inhabited

/-- A client of the dictionary (R522, R523): over UDP by port of receipt, MAC address, IP address, UDP port and 802.1Q tag;
client `c` of CANn. -/
inductive DictClient where
  | udp (port : Fin 3) (mac ip udp : Nat) (tag : Option Nat)
  | can (n : Fin 4) (c : Fin 16)
deriving DecidableEq, Repr, Inhabited

/-- A dictionary request (R524) as it reaches the engine; its service is the command. -/
structure DictReq where
  client : DictClient
  flags : BitVec 8
  session : BitVec 8
  gen : BitVec 8
  tid : BitVec 16
  index : BitVec 16
  sub : BitVec 8
  segno : BitVec 16
  len : BitVec 16
  data : List (BitVec 8)
deriving DecidableEq, Repr, Inhabited

/-- An ABORT message to the engine (R525): a client's, with its abort word; or a message with a service code that a table of services may not
hold (R530). -/
inductive AbortMsg where
  | word (w : BitVec 32)
  | service (svc : BitVec 8)
deriving DecidableEq, Repr, Inhabited

/-- Who writes a register: an application core of a command die, or an engine of the part (the dictionary engine, a die's own
engines), which no role judges. -/
inductive RegWriter where
  | core (c : Fin 2) (k : Fin 4)
  | engine
deriving DecidableEq, Repr

/-- A slot of a command die's boot flash (section "Boot images"): the eight header words and the bytes behind them. -/
structure ImageSlot where
  header : Vector (BitVec 32) 8
  payload : List (BitVec 8)
deriving DecidableEq, Repr, Inhabited

/-- What the JESD216 parameter tables of a boot flash state, as far as R613 uses it: an 8D-8D-8D read of the octal profile 1.0 is
offered, and the highest clock, in MHz. -/
structure FlashTable where
  octal : Bool
  mhz : BitVec 16
deriving DecidableEq, Repr, Inhabited

/-- What the steps of a start meet (R449).  Step 4: the band, junction temperature in 1/1000 degree and cover of each PLL's search, by die
code, and the dies at 60 degrees or above.  Step 5: the dies and CLEs that fail (N, S, D0-D3; CLE 2d+c).  Step 6: lanes that fail, by
receiving end.  Steps 7-9: the delay words found for each port (7d+j), the comparators that fail, the ACAL words found for each core.
Step 12: the tables of the flash of C0 and C1 (R613); slots 0 and 1 of
C0, then of C1.  Step 13: the acknowledges of the four branches. -/
structure StartInput where
  bands : Vector (BitVec 6 × Int × Bool) 8
  hot : BitVec 8
  bistN : Bool
  bistS : Bool
  bistDies : BitVec 4
  bistCles : BitVec 8
  lanes : List (Die × Fin 7 × Fin 4)
  delays : Vector (Option (BitVec 16 × BitVec 16 × Vector (BitVec 8) 64)) 28
  cmps : BitVec 64
  acal : Vector (Option (BitVec 32 × BitVec 32)) 16
  flash : Vector FlashTable 2
  images : Vector ImageSlot 4
  ack : BitVec 4
deriving DecidableEq, Repr
/-- The commands: one constructor for each row of the table of operations and events. -/
inductive Instr where
  /-- LANE_CODE_ERROR (R15): A receiving endpoint sees a symbol without exactly one rail asserted and retires that lane. -/
  | laneCodeError (e : Die) (k : Fin 7) (lane : Fin 4) (cut : Option (BitVec 72))
  /-- LANE_TIMEOUT (R15): A handshake begun on a lane has not completed within 1 µs, and the receiving endpoint retires the lane. -/
  | laneTimeout (e : Die) (k : Fin 7) (lane : Fin 4) (cut : Option (BitVec 72))
  /-- DRIVE_WRITE_ARRIVAL (R21): The last flit of a write reaches a drive die, which judges it by the role net and applies or discards it. -/
  | driveWriteArrival (d : Fin 4) (src : Option (Fin 2)) (off : BitVec 24) (w : BitVec 32)
  /-- N_WRITE_FROM_COMMAND_DIE (R339): A command-die write reaches N, which accepts it only if the latest verdict names that die shell. -/
  | nWriteFromCommandDie (c : Fin 2) (off : BitVec 26) (w : BitVec 32)
  /-- CORE_ACCESS_FAULT (R26): An application core accesses an address outside its map, or writes the S window outside the mailbox, and takes an
  access fault. -/
  | coreAccessFault (c : Fin 2) (k : Fin 4) (a : BitVec 32) (write : Bool) (size : Fin 9)
  /-- REGISTER_WRITE (R32): A 32-bit write through the normal, set, clear or toggle alias to a register with no row of its own acts on each field by
  its access code. -/
  | registerWrite (by_ : RegWriter) (a : BitVec 32) (w : BitVec 32)
  /-- RWP_READ (R37): A read of an RWP register checks its byte parity and returns the stored content. -/
  | rwpRead (c : Fin 2) (a : BitVec 32) (clr : BitVec 3)
  /-- MA3_SCRUB (R37): The always-running scrub checks the parity of an RWP register of the die. -/
  | ma3Scrub (a : Nat) (bits : BitVec 32) (last : Bool) (clr : BitVec 3)
  /-- RS_REGISTER_WRITE (R47): A write to an RS register is accepted and handed to the source domain by handshake, setting PEND. -/
  | rsRegisterWrite (b : Fin 9) (off : Fin 0x4000) (w : BitVec 32)
  /-- RS_WRITE_COMPLETE (R49): A handshaken write completes in the source domain on the live value. -/
  | rsWriteComplete (b : Fin 9)
  /-- RS_STALE_TIMEOUT (R51): No refresh edge for four source periods sets STALE. -/
  | rsStaleTimeout (b : Fin 9)
  /-- RS_WRITE_LOST (R52): A handshaken write not completed within eight source periods is discarded and WR_LOST is set. -/
  | rsWriteLost (b : Fin 9)
  /-- RS_LOW_WORD_READ (R46): A read of the low word of a 64-bit RS quantity captures the matching high word for the next read. -/
  | rsLowWordRead
  /-- PLL_LOCK (R62): A PLL's phase error has stayed in the lock window for LOCK_N reference cycles, and it declares lock. -/
  | pllLock (e : Die) (hot : Bool)
  /-- PLL_LOSS_OF_LOCK (R63): After LOSS_M cycles outside the window, a PLL clears LOCK, counts LOL_CNT and reports the event. -/
  | pllLossOfLock (e : Die)
  /-- PLL_HOLDOVER (R64): No reference edge for 200 ns puts the PLL in holdover with REF_LOST set. -/
  | pllHoldover (e : Die)
  /-- BAND_SEARCH_COMPLETE (R61): A band search ends and writes the chosen band into the band-table entries of the slots it covers. -/
  | bandSearchComplete (e : Die) (band : BitVec 6) (tj : Int) (covers : Bool)
  /-- HOP_EN_SET (R68): HOP_EN changing from 0 to 1 latches the hop configuration or refuses it with HOP_CFG_ERR or HOP_BAND_ERR. -/
  | hopEnSet (d : Fin 4)
  /-- HOP_EN_CLEAR (R74): A write clearing HOP_EN schedules the return of the timebase to SLOT0. -/
  | hopEnClear (d : Fin 4)
  /-- HOP_BOUNDARY (R71): The hop-master group ends carrier period k × HOP_DIV, and the die advances the LFSR and changes the divider word to the next
  slot. -/
  | hopBoundary (d : Fin 4)
  /-- HOP_SETTLE_END (R72): The 1 µs after a hop elapses and lock evaluation resumes. -/
  | hopSettleEnd (e : Die)
  /-- CKMON_LOSS (R75): No monitor edge from a source for 40 RC cycles sets LOSS for it. -/
  | ckmonLoss (k : Fin 10)
  /-- CKMON_WINDOW_END (R75): A 256-cycle RC measurement window ends and sets or clears OOR and LOSS for each source. -/
  | ckmonWindowEnd (meas : Vector (BitVec 16 × Bool) 10)
  /-- RTC_TRIM (R77): Every 32 s the RTC adds or removes TRIM counts. -/
  | rtcTrim
  /-- RTC_XTAL_FAIL (R78): The keeper crystal has stopped for 4 ms, and the RTC continues from its RC oscillator with the fail flag set. -/
  | rtcXtalFail
  /-- RTC_SYNC (R79): A write of 0x2120:03 requests setting the RTC from locked domain A, or is aborted if A is not locked. -/
  | rtcSync
  /-- RTC_SYNC_APPLY (R79): At the next whole UTC second of domain A the keeper sets SEC and clears SUB. -/
  | rtcSyncApply (sec : Nat)
  /-- PWM_GROUP_ENABLE (R84): EN of a PWM group changes from 0 to 1, and the group latches its configuration or refuses with GRP_CFG_ERR. -/
  | pwmGroupEnable (d k : Fin 4)
  /-- PWM_GROUP_START (R623): A group's counter starts at PHASE, with the start transfer of its shadow set. -/
  | pwmGroupStart (d k : Fin 4)
  /-- PWM_GROUP_DISABLE (R88): EN changes from 1 to 0, and the group completes its carrier period or stops at once if waiting. -/
  | pwmGroupDisable (d k : Fin 4)
  /-- PWM_GROUP_STOP (R88): At the end of its carrier period the group turns its ports off, stops its counter and shows RUN = 0. -/
  | pwmGroupStop (d k : Fin 4)
  /-- TIME_EVENT_ARRIVAL (R86): A time event from N reaches a drive die and acts as start event and ADC trigger source 10. -/
  | timeEventArrival (d : Fin 4)
  /-- CONTROL_PERIOD_BOUNDARY (R95): A group reaches a control-period boundary, increments PCNT and triggers everything keyed to the period start. -/
  | controlPeriodBoundary (d k : Fin 4)
  /-- WRITE_POINT_DELIVERY (R246): At the write point each scheduled CLE delivers its produced slots and commits where a shadow field was written. -/
  | writePointDelivery (d k : Fin 4)
  /-- PWM_COMMIT (R100): A write of 1 to COMMIT marks the shadow set for transfer at the next boundary. -/
  | pwmCommit (d k : Fin 4)
  /-- VP_TRIGGER_EDGE (R91): A trigger comparator edge after the fixed phase ends a variable period. -/
  | vpTriggerEdge (d k : Fin 4)
  /-- VP_TIMEOUT (R92): No trigger edge by PER ticks ends the variable period at PER and sets VP_TIMEOUT. -/
  | vpTimeout (d k : Fin 4)
  /-- COMMAND_EDGE (R109): A port's command rises or falls, turning the opposite output off and starting the dead time. -/
  | commandEdge (d : Fin 4) (j : Fin 7)
  /-- DEAD_TIME_END (R109): The dead time after a command edge ends and the port turns its output on. -/
  | deadTimeEnd (d : Fin 4) (j : Fin 7)
  /-- PMODE_WRITE (R618): A change of PMODE turns the port off or takes effect at its next command edge. -/
  | pmodeWrite (d : Fin 4) (j : Fin 7) (m : Fin 4)
  /-- DLY_MON_UPDATE (R115): The delay monitor publishes a new DLY_MON, and each port compares it with DLY_REF. -/
  | dlyMonUpdate (d : Fin 4) (mon : BitVec 16)
  /-- DRIVE_DIE_HALT (R119): A drive die halts for debug, freezing its counters and outputs, and the halt guard starts timing. -/
  | driveDieHalt (d : Fin 4)
  /-- DRIVE_DIE_HALT_RELEASE (R119): A debug halt of a drive die is released and its counters continue from their frozen values. -/
  | driveDieHaltRelease (d : Fin 4)
  /-- HALT_GUARD_EXPIRE (R120): The guard time of a halted or clock-lost drive die elapses and the halt guard asserts its STO branch. -/
  | haltGuardExpire (d : Fin 4)
  /-- STO_BRANCH_ASSERT (R121): A die's STO branch is asserted, driving every output off without a clock and activating the STO trip source. -/
  | stoBranchAssert (d : Fin 4)
  /-- STO_BRANCH_RELEASE (R392): A branch of the STO net is released when both channels release it and the halt guard does not assert it. -/
  | stoBranchRelease (d : Fin 4)
  /-- FLT_FALL (R127): FLTn goes low and the die begins measuring a fault pulse. -/
  | fltFall (d : Fin 4) (j : Fin 6)
  /-- FLT_PULSE_END (R127): FLTn has been high for 400 ticks, the pulse width is decoded and FLT_CODE, FLT_CNT and FLTWID are updated. -/
  | fltPulseEnd (d : Fin 4) (j : Fin 6) (width : Nat)
  /-- FLT_CODE5 (R127): FLTn has been low for 1,800 ticks and code 5 is declared. -/
  | fltCode5 (d : Fin 4) (j : Fin 6)
  /-- FLT_CODE6 (R127): FLTn has been low for 4,000 ticks and code 6, line broken, replaces code 5. -/
  | fltCode6 (d : Fin 4) (j : Fin 6)
  /-- FLT_EARLY (R132): With FLT_EARLY = 1, FLTn low for 80 ticks trips the group and writes the pending code 7. -/
  | fltEarly (d : Fin 4) (j : Fin 6)
  /-- FLT_CLR (R130): A write of 1 to FLT_CLR clears FLT_CODE if FLTn is high and no pulse is measured. -/
  | fltClr (d : Fin 4) (j : Fin 6)
  /-- FLT_USE_WRITE (R131): A change of FLT_USE stops or starts fault decoding for the port. -/
  | fltUseWrite (d : Fin 4) (j : Fin 6) (use : Bool)
  /-- TRIP_GROUP_TRIP (R137): A mapped source is active in a tick and the untripped group trips, overriding its member ports. -/
  | tripGroupTrip (d : Fin 4) (k : Fin 2)
  /-- ASC_SHORT_SIDE_ON (R142): The ASC interval after a trip elapses and the port turns its short-side output on. -/
  | ascShortSideOn (d : Fin 4) (j : Fin 7)
  /-- CUFF_EXPIRE (R146): The cuff of a cuffed comparator ends and an output of 1 makes its trip source active. -/
  | cuffExpire (d : Fin 4) (i : Fin 16)
  /-- TRIP_INPUT_ACTIVE (R158): A TRIPx level has held for FILT ticks and passes the filter. -/
  | tripInputActive (d x : Fin 4) (level : Bool)
  /-- MEMBERS_WRITE (R135): A write to MEMBERS is applied only while both groups are tripped, otherwise refused with TG_CFG_ERR. -/
  | membersWrite (d : Fin 4) (m : BitVec 7)
  /-- SRC_MASK_WRITE (R139): A write to SRC_MASK that would clear a bit during a trip keeps the bit and sets TG_CFG_ERR. -/
  | srcMaskWrite (d : Fin 4) (k : Fin 2) (w : Word)
  /-- TG_MODE_WRITE (R164): A write to TG_MODE is refused from 0 during a trip and fixed at 3 in a recovery start. -/
  | tgModeWrite (d : Fin 4) (k : Fin 2) (m : Fin 4)
  /-- EN_PIN_RISE (R161): A synchronised rising edge of a selected ENx after at least 800 ticks low attempts a clear of the group. -/
  | enPinRise (d x : Fin 4) (lowTicks : Nat)
  /-- CHOPPER_SWITCH (R169): A chopper port turns its output on or off from the chopper comparator and its minimum times. -/
  | chopperSwitch (d : Fin 4) (j : Fin 6)
  /-- CHOP_MIN_TIME_END (R170): A chopper minimum on- or off-time ends and the delayed switching takes place. -/
  | chopMinTimeEnd (d : Fin 4) (j : Fin 6)
  /-- CHOP_EN_WRITE (R620): A change of CHOP_EN from 1 to 0 turns both outputs off until the port's next command edge. -/
  | chopEnWrite (d : Fin 4) (j : Fin 6) (en : Bool)
  /-- AP_BOOT_UV (R173): The bootstrap falls through its threshold, AHGd turns off, AP_BOOT_UV sets and the duty is forced to 0. -/
  | apBootUv (d : Fin 4)
  /-- BOOT_OK_RISE (R172): The bootstrap rises above the rising threshold and BOOT_OK becomes 1. -/
  | bootOkRise (d : Fin 4)
  /-- AP_BOOT_UV_CLEAR (R174): A write of 1 to AP_BOOT_UV clears it only while BOOT_OK = 1. -/
  | apBootUvClear (d : Fin 4)
  /-- AP_REFRESH_START (R176): The refresh count reaches REF_INT and the port turns AHGd off to begin a refresh. -/
  | apRefreshStart (d : Fin 4)
  /-- AP_REFRESH_LOW_ON (R176): DT_FALL after the start of a refresh, ALGd turns on for REF_W ticks. -/
  | apRefreshLowOn (d : Fin 4)
  /-- AP_REFRESH_END (R176): REF_W ticks elapse, ALGd turns off, AHGd returns after DT_RISE if the command is high, and the count restarts. -/
  | apRefreshEnd (d : Fin 4)
  /-- ADC_REGULAR_TRIGGER (R188): A regular trigger starts, defers or is ignored for a core's regular sequence. -/
  | adcRegularTrigger (d k : Fin 4) (src : Fin 16)
  /-- ADC_INJECTED_TRIGGER (R189): An injected trigger starts the injected sequence, pre-empting a regular conversion, or is ignored. -/
  | adcInjectedTrigger (d k : Fin 4) (src : Fin 16)
  /-- SW_REG (R187): A write of 1 to SW_REG triggers the regular sequence. -/
  | swReg (d k : Fin 4)
  /-- SW_INJ (R187): A write of 1 to SW_INJ triggers the injected sequence. -/
  | swInj (d k : Fin 4)
  /-- ADC_CONVERSION_COMPLETE (R184): A conversion completes, its result word is written with VALID = 1, and the next entry or deferred sequence is
  held. -/
  | adcConversionComplete (d k : Fin 4) (code : Int) (ovr : Bool)
  /-- ADC_CONVERSION_TIMEOUT (R195): A conversion not complete within 96 ticks of its hold retires the core. -/
  | adcConversionTimeout (d k : Fin 4)
  /-- ADC_DISABLE (R194): EN of a core changes to 0 and the core completes its conversion and stops the sequence. -/
  | adcDisable (d k : Fin 4)
  /-- CMP_OUT_CHANGE (R199): A comparator input crosses a level and OUT changes, with latch, capture, interrupt and wake effects. -/
  | cmpOutChange (d : Fin 4) (i : Fin 16) (vin : Int)
  /-- CMP_IRQ_EVENT (R207): The die sends a comparator interrupt event, at most one per comparator in 1 µs. -/
  | cmpIrqEvent (d : Fin 4) (i : Fin 16)
  /-- CMP_ENABLE (R202): EN of a comparator changes to 1 and OUT takes INIT for the settling time. -/
  | cmpEnable (d : Fin 4) (i : Fin 16)
  /-- CMP_SETTLING_END (R202): The settling time ends and the comparator evaluates its input once. -/
  | cmpSettlingEnd (d : Fin 4) (i : Fin 16) (vin : Int)
  /-- CMP_DISABLE (R203): EN of a comparator changes to 0 and OUT and LAT fall to 0 without an edge. -/
  | cmpDisable (d : Fin 4) (i : Fin 16)
  /-- CMP_LAT_WRITE (R204): A write of 1 to LAT sets LAT to the present OUT. -/
  | cmpLatWrite (d : Fin 4) (i : Fin 16)
  /-- CMP_CHK_WRITE (R210): A write of CHK starts, changes, ends or is refused for a comparator check. -/
  | cmpChkWrite (d : Fin 4) (i : Fin 16) (v : Fin 8) (free : Bool)
  /-- PI_ENABLE (R212): EN of a position interface changes to 1 and it latches its configuration. -/
  | piEnable (d : Fin 4) (p : Fin 2)
  /-- ENCODER_EDGE (R216): An A or B change accepted after the filter counts POS or sets ENC_ERR. -/
  | encoderEdge (d : Fin 4) (p : Fin 2) (a b : Bool)
  /-- ENCODER_Z_EDGE (R218): An accepted rising Z with A and B high copies POS to ZCAP and may reset POS. -/
  | encoderZEdge (d : Fin 4) (p : Fin 2)
  /-- CLE_ENABLE (R220): EN of a CLE changes to 1, clearing its registers and latching SCHED. -/
  | cleEnable (d : Fin 4) (c : Fin 2)
  /-- CLE_DISABLE (R621): EN of a CLE changes to 0 and it stops at once, delivering nothing further. -/
  | cleDisable (d : Fin 4) (c : Fin 2)
  /-- CLE_PROGRAM_START (R227): START ticks after the period start, the CLE begins executing at ENTRY. -/
  | cleProgramStart (d : Fin 4) (c : Fin 2)
  /-- CLE_NOP (R239): The CLE executes NOP. -/
  | cleNop (d : Fin 4) (c : Fin 2)
  /-- CLE_END (R228): END stops the program and records LAST_CYC. -/
  | cleEnd (d : Fin 4) (c : Fin 2)
  /-- CLE_LD (R239): LD loads a data-memory word into a register. -/
  | cleLd (d : Fin 4) (c : Fin 2)
  /-- CLE_LDX (R239): LDX loads an indexed data-memory word into a register. -/
  | cleLdx (d : Fin 4) (c : Fin 2)
  /-- CLE_ST (R240): ST stores a register to the output or working area or sets ST_ERR. -/
  | cleSt (d : Fin 4) (c : Fin 2)
  /-- CLE_STX (R240): STX stores a register to an indexed address or sets ST_ERR. -/
  | cleStx (d : Fin 4) (c : Fin 2)
  /-- CLE_LDI (R239): LDI loads a sign-extended immediate. -/
  | cleLdi (d : Fin 4) (c : Fin 2)
  /-- CLE_LDC (R239): LDC loads the value of a coefficient of the selected bank. -/
  | cleLdc (d : Fin 4) (c : Fin 2)
  /-- CLE_EXT (R239): EXT extends a half-word of a register to a scaled 32-bit value. -/
  | cleExt (d : Fin 4) (c : Fin 2)
  /-- CLE_ADD (R239): ADD adds two registers with saturation. -/
  | cleAdd (d : Fin 4) (c : Fin 2)
  /-- CLE_SUB (R239): SUB subtracts two registers with saturation. -/
  | cleSub (d : Fin 4) (c : Fin 2)
  /-- CLE_ABS (R239): ABS forms the saturated magnitude of a register. -/
  | cleAbs (d : Fin 4) (c : Fin 2)
  /-- CLE_MIN (R239): MIN selects the smaller of two registers. -/
  | cleMin (d : Fin 4) (c : Fin 2)
  /-- CLE_MAX (R239): MAX selects the larger of two registers. -/
  | cleMax (d : Fin 4) (c : Fin 2)
  /-- CLE_ASH (R239): ASH shifts a register arithmetically left with saturation or right. -/
  | cleAsh (d : Fin 4) (c : Fin 2)
  /-- CLE_AND (R239): AND forms the bitwise AND of two registers. -/
  | cleAnd (d : Fin 4) (c : Fin 2)
  /-- CLE_SEL (R239): SEL selects one of two registers by the sign of a third. -/
  | cleSel (d : Fin 4) (c : Fin 2)
  /-- CLE_MUL (R238): MUL multiplies two registers and rounds by a shift. -/
  | cleMul (d : Fin 4) (c : Fin 2)
  /-- CLE_MULC (R238): MULC multiplies a register by a coefficient, shifted by its SH. -/
  | cleMulc (d : Fin 4) (c : Fin 2)
  /-- CLE_MAC (R239): MAC adds a shifted product of two registers to an accumulator. -/
  | cleMac (d : Fin 4) (c : Fin 2)
  /-- CLE_MACC (R239): MACC adds a shifted register-coefficient product to an accumulator. -/
  | cleMacc (d : Fin 4) (c : Fin 2)
  /-- CLE_LDA (R239): LDA loads an accumulator from a scaled register. -/
  | cleLda (d : Fin 4) (c : Fin 2)
  /-- CLE_MOVA (R238): MOVA moves a rounded, shifted accumulator into a register. -/
  | cleMova (d : Fin 4) (c : Fin 2)
  /-- CLE_SINCOS (R239): SINCOS writes sine and cosine of an angle into a register pair. -/
  | cleSincos (d : Fin 4) (c : Fin 2)
  /-- CLE_PARK (R239): PARK rotates a register pair by a sine-cosine pair. -/
  | clePark (d : Fin 4) (c : Fin 2)
  /-- CLE_IPARK (R239): IPARK applies the inverse rotation to a register pair. -/
  | cleIpark (d : Fin 4) (c : Fin 2)
  /-- CLE_LUT (R242): LUT interpolates in table T0 or T1, or returns 0 if the table is disabled. -/
  | cleLut (d : Fin 4) (c : Fin 2)
  /-- CLE_RCP (R239): RCP forms the truncated reciprocal 2^60 / Va. -/
  | cleRcp (d : Fin 4) (c : Fin 2)
  /-- CLE_BR (R243): BR branches within the page on a register condition and cancels an active loop if taken. -/
  | cleBr (d : Fin 4) (c : Fin 2)
  /-- CLE_LOOP (R239): LOOP repeats the following words up to its end word cnt times without cost per pass. -/
  | cleLoop (d : Fin 4) (c : Fin 2)
  /-- CLE_ILLEGAL_OP (R241): An illegal instruction stops the program, sets ILL_OP and acts as an overrun. -/
  | cleIllegalOp (d : Fin 4) (c : Fin 2)
  /-- CLE_OVERRUN_STOP (R229): Cycle LEN − 1 completes without END, the program stops, CLE_OVERRUN sets and nothing is delivered. -/
  | cleOverrunStop (d : Fin 4) (c : Fin 2)
  /-- CLE_ECC_CORRECT (R244): A single-bit error in a CLE memory is corrected, written back and counted. -/
  | cleEccCorrect (d : Fin 4) (c : Fin 2)
  /-- CLE_ECC_UNCORRECTABLE (R244): An uncorrectable memory error retires the CLE with ECC_UE and UE_ADDR. -/
  | cleEccUncorrectable (d : Fin 4) (c : Fin 2) (m : Fin 4) (a : BitVec 12)
  /-- CLE_MEMORY_WRITE (R249): A link write to CLE memory is applied or refused with CLE_WR_REJ by the command buffer in force. -/
  | cleMemoryWrite (d : Fin 4) (c : Fin 2) (m : Fin 4) (w : BitVec 12) (x : Word)
  /-- CW_COMMIT (R18): A write of 1 to COMMIT of a command window marks the pending buffer for the next control-period start. -/
  | cwCommit (d : Fin 4) (c : Fin 2)
  /-- GRID_ENABLE (R254): GRID_EN changing from 0 to 1 is accepted or refused with GRID_CFG_ERR. -/
  | gridEnable (d : Fin 4)
  /-- GRID_DISABLE (R255): GRID_EN changing from 1 to 0 is accepted only with the contactors open and member groups tripped. -/
  | gridDisable (d : Fin 4)
  /-- GSU_COAST_TIMEOUT (R265): A coast lasting 100 ms sets LOCKED = 0. -/
  | gsuCoastTimeout (d : Fin 4)
  /-- RT_EVALUATION (R271): Every 1 ms the supervisor evaluates its curves, sets REGION and updates IQ_RT and IN_RT. -/
  | rtEvaluation (d : Fin 4)
  /-- ARM_WRITE (R273): A change of ARM to 1 is refused with RT_CFG_ERR on bad curves, and ARM clears only with GRID_EN = 0. -/
  | armWrite (d : Fin 4) (v : Bool)
  /-- CURVE_WRITE (R273): A write to the curve memory while ARM = 1 is refused with RT_WR_REJ. -/
  | curveWrite (d : Fin 4) (c : Fin 16) (pt : Option (Fin 16)) (level : BitVec 16) (t : Word)
  /-- GRID_ZERO_CROSSING (R283): At a positive-going zero of ANG_P the probe window is evaluated, cessations end and a cycle flit is sent. -/
  | gridZeroCrossing (d : Fin 4)
  /-- ROCOF_EVALUATION (R279): At each half-cycle the ROCOF check counts exceedances and may declare an island. -/
  | rocofEvaluation (d : Fin 4)
  /-- VOTE_SEND (R290): A member die sends its vote to S every 1 ms and at every change. -/
  | voteSend (d : Fin 4)
  /-- VOTE_OPEN_DELAY (R290): GCON_DLY after a TRIPPED, ISLAND or DISCONNECT decision the vote becomes OPEN. -/
  | voteOpenDelay (d : Fin 4)
  /-- GCON_UPDATE (R291): S asserts or de-asserts GCON0 and GCON1 when its conditions come to hold or cease. -/
  | gconUpdate
  /-- VOTE_MISSING_TIMEOUT (R291): A member die's votes have been missing for 5 ms. -/
  | voteMissingTimeout (d : Fin 4)
  /-- GFB_CHANGE (R292): A contactor feedback input changes and S recomputes GCON_CLOSED. -/
  | gfbChange (which level : Bool)
  /-- GCON_WELD (R292): A feedback still closed 100 ms after its output fell sets GCON_WELD. -/
  | gconWeld (which : Bool)
  /-- RC_SECOND (R293): Each second the reconnection count advances or restarts and RC_READY follows. -/
  | rcSecond (d : Fin 4)
  /-- CONNECT (R294): CONNECT is accepted, clearing TRIPPED, ISLAND and PROBE_FAIL and voting CLOSE, or refused with CONN_REJ. -/
  | connect (d : Fin 4)
  /-- DISCONNECT (R295): DISCONNECT asserts the grid block and votes OPEN after GCON_DLY. -/
  | disconnect (d : Fin 4)
  /-- METER_SAMPLE (R305): A lead-core stamp reaches N and the meter engine forms one weighted metering sample. -/
  | meterSample (m : Fin 3) (ttime : BitVec 48) (hop : BitVec 16) (arrived : List SampleSeq)
  /-- METER_CYCLE_FLIT (R311): A cycle flit reaches N, ending an MP0 window and yielding the cycle's fundamental quantities. -/
  | meterCycleFlit (zero : BitVec 56)
  /-- METER_WINDOW_END (R320): A metering window ends, its sums are committed or suppressed and readings are published. -/
  | meterWindowEnd (m : Fin 3)
  /-- FUND_VOID_TIMEOUT (R312): A cycle flit more than 30 ms overdue puts MP0 into 20 ms windows with FUND_VOID. -/
  | fundVoidTimeout
  /-- METER_SRC_LOST (R309): No stamp of a used core for 1 ms sets SRC_LOST. -/
  | meterSrcLost (m : Fin 3) (k : Fin 4)
  /-- METER_ENABLE (R303): EN of a metering point changes to 1 and is accepted or refused with MP_CFG_ERR. -/
  | meterEnable (m : Fin 3)
  /-- METER_DISABLE (R332): EN of a metering point changes to 0, closing the interval with GAP = 1 after the window. -/
  | meterDisable (m : Fin 3)
  /-- METER_COMMIT (R333): At least every 60 s the engine commits its state to the keeper. -/
  | meterCommit (m : Fin 3)
  /-- COMMAND_PERIOD_TICK (R343): A command die receives a command-period tick and counts CPN. -/
  | commandPeriodTick (c : Fin 2) (d : Fin 4)
  /-- SNAPSHOT_CLOSE (R345): SNAP_WIN after the tick a command die closes its snapshot and sends its descriptor. -/
  | snapshotClose (c : Fin 2) (din : BitVec 16)
  /-- DRIVE_RECORD_ARRIVAL (R346): A drive-die record reaches a command die and enters a snapshot or counts as late. -/
  | driveRecordArrival (c : Fin 2) (d : Fin 4) (tick : Nat) (words : List Word)
  /-- EVENT_FLIT_ARRIVAL (R347): An event flit reaches a command die and enters the next snapshot's event list. -/
  | eventFlitArrival (c : Fin 2) (words : List Word)
  /-- INPUT_FRAME_ARRIVAL (R521): An input frame with its BSN reaches a command die. -/
  | inputFrameArrival (c : Fin 2)
  /-- DESCRIPTOR_RECEIVED (R349): A die receives the other's descriptor, compares it and may start its period. -/
  | descriptorReceived (c : Fin 2)
  /-- DESCRIPTOR_WAIT_TIMEOUT (R349): 2 µs after its close the shell starts its period without the liner's descriptor. -/
  | descriptorWaitTimeout (c : Fin 2)
  /-- FETCH_COMPLETE (R350): The liner holds every item the shell's descriptor names and starts its period. -/
  | fetchComplete (c : Fin 2)
  /-- DONE_WRITE (R344): A core writes DONE, and when all CP_CORES are done the period ends and the heartbeat is sent. -/
  | doneWrite (c : Fin 2) (core : Fin 4)
  /-- HEALTH_CHANGE (R357): A change of health bits [15:0] sends a heartbeat with SIG_VALID = 0 within 1 µs. -/
  | healthChange (c : Fin 2) (eccUe wdog : Bool) (ce : Nat)
  /-- HEARTBEAT_RECEIVED (R359): The arbiter receives a heartbeat and judges the dies when signatures differ or a liner heartbeat is late. -/
  | heartbeatReceived (c : Fin 2) (late : Bool)
  /-- HEARTBEAT_TIMEOUT (R359): No heartbeat from a die for HB_TMO, and the arbiter judges the dies. -/
  | heartbeatTimeout (c : Fin 2)
  /-- ROLE_WIRE_CHANGE (R367): A drive die sees its role wires change and, with none asserted, returns its windows to committed state. -/
  | roleWireChange (d : Fin 4)
  /-- VERDICT_RECEIVED (R338): A command die receives an arbiter verdict and applies its role change. -/
  | verdictReceived (c : Fin 2)
  /-- FAILOVER_AT_N (R368): N receives FAILOVER and discards the old shell's unreleased transmit frames. -/
  | failoverAtN
  /-- CLAIM (R369): A liner's CLAIM reaches S, which asserts its role wire and returns GRANT. -/
  | claim (c : Fin 2) (len : Nat)
  /-- GRANT (R369): GRANT reaches the new shell, whose software starts with FAILOVER = 1. -/
  | grant (c : Fin 2)
  /-- CLAIM_TIMEOUT (R370): No CLAIM within 2 × HB_TMO, so the arbiter keeps the mitten, removes the liner and requests SS1. -/
  | claimTimeout
  /-- JOIN_REPLAY_COMPLETE (R374): The joining die's replay reaches the shell's period and it enters LINER at the next window. -/
  | joinReplayComplete (c : Fin 2)
  /-- JOIN_FAIL (R375): A join fails by overflow or signature mismatch and restarts, or holds the die OFF after eight failures. -/
  | joinFail (c : Fin 2)
  /-- COMMAND_DIE_RESTART_DONE (R464): A removed command die completes its lone restart and requests to join. -/
  | commandDieRestartDone (c : Fin 2) (slot : Vector ImageSlot 2) (hot : Bool)
  /-- HOLDOFF_EXPIRE (R376): A HOME liner has matched for HOLDOFF and the arbiter sends SWAP. -/
  | holdoffExpire (c : Fin 2)
  /-- SWAP (R377): At period n the roles change, both wires switching in one cycle after CLAIM and the old shell's heartbeat. -/
  | swap
  /-- SWAP_TIMEOUT (R378): The swap messages are not both held within 2 × HB_TMO and the swap is cancelled. -/
  | swapTimeout
  /-- DEBUG_ATTACH (R380): A debug attach to the shell is accepted, or refused with DBG_REJ unless DBG_ALLOW = 1. -/
  | debugAttach (c : Fin 2)
  /-- SHELL_DEBUG_HALT (R382): The shell halts for debug and the liner runs to the same instruction counts. -/
  | shellDebugHalt (c : Fin 2) (counts : List Nat)
  /-- DEBUGGER_WRITE (R383): A debugger write is applied and journalled while the shell is halted, or refused. -/
  | debuggerWrite (c : Fin 2) (a : BitVec 32) (w : BitVec 32)
  /-- SHELL_DEBUG_RESUME (R384): The shell resumes and both dies run the latest snapshot with RESUMED = 1. -/
  | shellDebugResume (c : Fin 2)
  /-- SAFETY_CYCLE_A (R386): Channel A evaluates every enabled function in its 1 ms cycle and exchanges function states. -/
  | safetyCycleA (bad : Bool)
  /-- SAFETY_CYCLE_B (R386): Channel B evaluates every enabled function in its 250 µs cycle. -/
  | safetyCycleB (bad : Bool)
  /-- XDISC (R388): The channel states have differed for 16 ms, so both assert STO and enter LOCKED. -/
  | xdisc
  /-- SS1_STANDSTILL (R401): Every valid source has stayed below SST_V for SST_T and SS1 ends in STO. -/
  | ss1Standstill
  /-- SS1_TMAX_EXPIRE (R401): SS1_TMAX has elapsed since SS1 entry and SS1 ends in STO. -/
  | ss1TmaxExpire
  /-- DISC_V_TIMEOUT (R397): The two speeds of an axis have differed by more than DISC_V for DISC_T and a discrepancy is declared. -/
  | discVTimeout (k : Fin 4)
  /-- DEG_TIMEOUT (R409): The degraded timer expires, SS1 starts and LOCKED follows. -/
  | degTimeout
  /-- RESTART_ACK (R393): A restart acknowledgement arrives and, with R392 holding, the channel releases STO. -/
  | restartAck (src : AckSource)
  /-- PI_RECORD_SEND (R394): Every 250 µs a drive die sends a position record for each enabled interface to S. -/
  | piRecordSend (d : Fin 4)
  /-- PI_RECORD_RECEIVED (R394): S receives a position record, checks CRC and sequence and updates the PI position and speed. -/
  | piRecordReceived (p : Fin 8) (angle : BitVec 16) (los : Bool) (seq : BitVec 8) (crcOk : Bool)
  /-- PI_RECORD_TIMEOUT (R396): No valid record for 2 ms makes the PI source invalid. -/
  | piRecordTimeout (p : Fin 8)
  /-- SI_DISC (R411): An invalid pin combination lasting DT × 10 ms sets SI_DISC. -/
  | siDisc (n : Fin 8)
  /-- TEST_PULSE (R413): A test-pulse output gives its low pulse and the fed inputs are checked, setting SI_TPF on failure. -/
  | testPulse (tp : Fin 4) (pins : BitVec 16)
  /-- SO_TEST_PULSE (R416): A channel pulses its half of a safe output low for 500 µs. -/
  | soTestPulse (n : Fin 4) (b : Bool)
  /-- SO_FLT (R417): A safe-output half reads back wrongly for more than 1 ms and both halves go low with SO_FLT. -/
  | soFlt (n : Fin 4)
  /-- SCMP_WINDOW_VIOLATION (R418): A safety comparator input outside its window for FILT µs sets SCMP_WIN and acts by REACT. -/
  | scmpWindowViolation (n : Fin 8)
  /-- GT_DUE (R422): Powered hours since the last guard test reach 720 h and GT_DUE is set. -/
  | gtDue
  /-- GUARD_TEST (R424): The guard test asserts each STO branch in turn and retires a die whose acknowledge fails. -/
  | guardTest (ack : BitVec 4)
  /-- SAFETY_LOGIN (R425): A write of 0x68E0:01 checks the password and opens the safety session or counts a failure. -/
  | safetyLogin (ctx : Fin 128) (pw : List (BitVec 8))
  /-- SAFETY_LOGOUT (R428): A write of 0x68E0:02 closes the safety session and discards pending changes. -/
  | safetyLogout
  /-- SAFETY_SESSION_TIMEOUT (R428): SESS_TMO without a request closes the safety session. -/
  | safetySessionTimeout
  /-- NEW_PASSWORD (R425): A write of NEW_PASSWORD stores a new salted hash and logs the change. -/
  | newPassword (pw : List (BitVec 8))
  /-- APPLY (R429): A write of APPLY takes the pending safety set into both channels or aborts. -/
  | apply (v : BitVec 32)
  /-- SAFETY_FRAME_RECEIVED (R434): A frame of a consumed connection is checked for length, sequence, CRC and age and accepted or rejected. -/
  | safetyFrameReceived (c : Fin 48) (payload : List (BitVec 8))
  /-- SAFETY_CONN_TIMEOUT (R435): No frame accepted for WDG ms, so the connection goes LOST, reacts by REACT and returns to SYNC. -/
  | safetyConnTimeout (c : Fin 48)
  /-- SAFETY_FRAME_SEND (R439): Every TX_PER a produced connection forms, checks and sends a status frame. -/
  | safetyFrameSend (c : Fin 48) (pass : Bool)
  /-- S_STATE_PUBLISH (R440): S sends S_STATE to both command dies every 250 µs and on every change. -/
  | sStatePublish
  /-- MBX_STO_REQ (R441): A mailbox write of STO_REQ from the shell requests STO, other writers being counted in MBX_REJ. -/
  | mbxStoReq (c : Fin 2) (v : Bool)
  /-- MBX_SS1_REQ (R441): A mailbox write of SS1_REQ from the shell requests SS1. -/
  | mbxSs1Req (c : Fin 2) (v : Bool)
  /-- MBX_RESET (R393): A mailbox write of RESET acknowledges a restart when RST_MBX = 1. -/
  | mbxReset (c : Fin 2)
  /-- MAIN_DOMAINS_GOOD (R443): Every main supply has stayed above its rising threshold for 2 ms. -/
  | mainDomainsGood
  /-- MAIN_SUPPLY_FALL (R445): A main supply falls below its falling threshold and a main reset occurs. -/
  | mainSupplyFall (vdd18 : Bool)
  /-- RESET_N_LOW (R445): RESET_N held low for 10 µs causes a main reset. -/
  | resetNLow
  /-- START (R449): With the main domains good and PG_K = 1, the device decides the start kind and performs the start steps. -/
  | start (x : StartInput)
  /-- COMMAND_DIE_RELEASE (R452): The arbiter releases the command dies to the image entry with their roles. -/
  | commandDieRelease (ms : BitVec 32)
  /-- BOOT_OK (R453): A write of BOOT_OK closes the boot attempt as a success. -/
  | bootOk
  /-- BOOT_TMO_EXPIRE (R454): BOOT_TMO elapses without BOOT_OK, the attempt fails and the keeper issues an internal reset. -/
  | bootTmoExpire
  /-- STOP (R457): A write of STOP with BOOT_DONE = 1 begins a controlled stop, otherwise sets STOP_REJ. -/
  | stop
  /-- RESTART (R458): A RESTART performs a controlled stop, then an internal reset and a new start. -/
  | restart (v : BitVec 8)
  /-- CONTROLLED_STOP_COMMIT (R457): With STO reached, the stop commits metering, checkpoint and a lifetime merge. -/
  | controlledStopCommit
  /-- CONTROLLED_STOP_COMPLETE (R457): The commits are done, the stop is recorded as controlled and PWR_HOLD goes low. -/
  | controlledStopComplete
  /-- CHECKPOINT_TIMER (R459): Every CKPT_INT the keeper commits the checkpoint. -/
  | checkpointTimer
  /-- ETH_FRAME_RECEIVED (R467): A frame received on a port is checked, forwarded and delivered to N as its address and flow require. -/
  | ethFrameReceived (p : Fin 3) (bytes : List (BitVec 8)) (good : Bool) (ts : Int)
  /-- ETH_TRANSMIT_START (R472): An idle port starts the head frame of the highest open queue that fits its gate. -/
  | ethTransmitStart (p : Fin 3) (ts : Int)
  /-- ETH_TRANSMIT_END (R472): A port finishes a frame and becomes idle. -/
  | ethTransmitEnd (p : Fin 3)
  /-- RING_CHECK_SEND (R468): Every RCHK_PER the manager sends check frames and blocks or unblocks P1 by what arrived. -/
  | ringCheckSend
  /-- PORT_LINK_DOWN (R470): A ring port goes down and, as manager, N unblocks P1 and sets RING_OPEN. -/
  | portLinkDown (p : Fin 3)
  /-- PORT_LINK_UP (R470): A port's PHY reports link up and its lane is synchronised. -/
  | portLinkUp (p : Fin 3)
  /-- GATE_INTERVAL_END (R473): A gate-control interval or cycle ends and the next entry's gates apply. -/
  | gateIntervalEnd (p : Fin 3)
  /-- GATE_APPLY (R474): A write of APPLY copies the admin list into the pending list or refuses with GATE_CFG_ERR. -/
  | gateApply (p : Fin 3)
  /-- GATE_LIST_SWITCH (R474): The pending list becomes the operating list at its first eligible cycle start. -/
  | gateListSwitch (p : Fin 3)
  /-- PTP_MESSAGE_RECEIVED (R477): N's ordinary clock processes a Sync, Follow_Up, Announce or delay message of domain A or B. -/
  | ptpMessageReceived (p : Fin 3) (m : PtpMsg) (ts : Int)
  /-- DOMAIN_TIMEOUT (R484): A domain's Announce or Sync is overdue and it becomes invalid, changing the selection. -/
  | domainTimeout (x : Fin 2) (announce : Bool)
  /-- DOMAIN_RETURN (R487): Domain A has been valid for RET_S with one grandmaster and N returns from B to A. -/
  | domainReturn
  /-- LT_TO_S (R489): Every 1 ms N passes LT and SYNCED to S. -/
  | ltToS
  /-- LEAP_SECOND (R490): At the end of a flagged UTC day N changes its UTC offset. -/
  | leapSecond
  /-- TU_ENABLE (R492): EN of a time unit changes to 1 and arms it in compare mode. -/
  | tuEnable (u : Fin 16)
  /-- TU_TARGET_WRITE (R494): A write of TARGET arms the unit or replaces an advanced target. -/
  | tuTargetWrite (u : Fin 16) (w : Word)
  /-- TU_FIRE (R495): A compare unit fires, sends time events, drives its pin and advances or disarms. -/
  | tuFire (u : Fin 16)
  /-- TIO_PULSE_END (R495): PW × 10 ns after a firing the TIO pulse ends. -/
  | tioPulseEnd (u : Fin 16)
  /-- TU_CAPTURE (R496): A selected TIOx edge is captured in CAPT, setting FIRED or CAP_OVR. -/
  | tuCapture (u : Fin 16) (rising : Bool)
  /-- CAN_FRAME_RECEIVED (R500): A CAN frame is accepted by the lowest matching filter and passed to its flow. -/
  | canFrameReceived (n : Fin 4) (f : CanReceived)
  /-- CAN_TRANSMIT_END (R499): A CAN frame completes, loses arbitration or meets an error and is retried. -/
  | canTransmitEnd (n : Fin 4) (how : CanTxEnd)
  /-- CAN_BUS_OFF (R501): A controller enters bus-off, counts BOFF_CNT and begins recovery if AUTO_RECOV = 1. -/
  | canBusOff (n : Fin 4)
  /-- RECOVER (R501): A write of 1 to RECOVER begins bus-off recovery. -/
  | recover (n : Fin 4)
  /-- CAN_RECOVERY_COMPLETE (R501): 128 occurrences of 11 recessive bits end the bus-off recovery. -/
  | canRecoveryComplete (n : Fin 4)
  /-- OPEN (R516): OPEN takes the lowest free context as a new observer session or aborts with NO_RESOURCE. -/
  | dictOpen (r : DictReq)
  /-- CLOSE (R513): CLOSE ends a session and frees its context. -/
  | dictClose (r : DictReq)
  /-- NOP (R525): NOP keeps a session open and is answered without data. -/
  | dictNop (r : DictReq)
  /-- READ (R526): READ returns an entry's value whole or announces a segmented transfer. -/
  | dictRead (r : DictReq)
  /-- SEG_UP (R526): SEG_UP returns the next segment of a segmented read. -/
  | dictSegUp (r : DictReq)
  /-- WRITE (R527): WRITE checks and applies an entry value by its route, or announces a segmented write. -/
  | dictWrite (r : DictReq)
  /-- SEG_DN (R527): SEG_DN supplies a segment of a write, applied as one access at LAST. -/
  | dictSegDn (r : DictReq)
  /-- ABORT (R530): An ABORT message carries an abort word for a request. -/
  | dictAbort (r : DictReq) (word : AbortMsg)
  /-- PERSIST_TIMEOUT (R508): A P-entry commit not complete within 500 ms aborts with PERSIST. -/
  | persistTimeout (app : Bool)
  /-- LOGIN (R511): LOGIN checks an operator or maintainer password and changes role or aborts. -/
  | dictLogin (r : DictReq)
  /-- LOGOUT (R512): LOGOUT returns the session to observer and discards a pending safety set. -/
  | dictLogout (r : DictReq)
  /-- OP_PASSWORD (R511): A write of OP_PASSWORD sets or removes the operator password. -/
  | opPassword (r : DictReq)
  /-- MNT_PASSWORD (R511): A write of MNT_PASSWORD sets the maintainer password. -/
  | mntPassword (r : DictReq)
  /-- SESSION_TIMEOUT (R513): SESS_TMO without a request closes a dictionary session. -/
  | sessionTimeout (f : Fin 128)
  /-- XFER_TIMEOUT (R528): A segmented transfer waits more than XFER_TMO and aborts with TIMEOUT. -/
  | xferTimeout (f : Fin 128)
  /-- RESTORE (R509): A write of RESTORE makes the next start return persisted values to defaults. -/
  | restore (r : DictReq)
  /-- PROCESS_TX_SLOT (R519): At a slot time a process transmit flow sends its last released buffer. -/
  | processTxSlot (f : Fin 128)
  /-- TX_REL (R519): A write of TX_REL releases a flow's transmit buffer. -/
  | txRel (w : Fin 4) (m : BitVec 32)
  /-- PROCESS_RX_LOST (R520): No frame for 3 × PERIOD sets RX_LOST and delivers a receive-loss input frame. -/
  | processRxLost (f : Fin 128)
  /-- DECL_COMMIT (R531): A write of DECL_COMMIT commits the application declaration or refuses it with DECL_ERR. -/
  | declCommit
  /-- RESP_GO (R532): A write of RESP_GO sends the shell's answer to an application request. -/
  | respGo
  /-- APP_TIMEOUT (R533): An application request unanswered within APP_TMO aborts with APP_TIMEOUT. -/
  | appTimeout (f : Fin 128) (tid : BitVec 16)
  /-- VKIN_CHANGE (R537): VKIN crosses its threshold and VKIN_ON changes the keeper rail. -/
  | vkinChange (on : Bool)
  /-- KEEPER_POWER_ON (R540): The keeper rail rises through the power-on threshold and the keeper resets with PG_K = 0. -/
  | keeperPowerOn
  /-- KEEPER_BROWN_OUT (R540): The keeper rail falls below the brown-out threshold and the keeper powers off. -/
  | keeperBrownOut
  /-- KEEPER_EVALUATION (R546): The keeper samples its references and evaluates thresholds, stores, PG_K and the energy account. -/
  | keeperEvaluation (vkin : KeeperInputs) (vstq vstl : BitVec 16)
  /-- LEAN_VOC_MEASURE (R543): Every 16 s in lean mode the keeper measures Voc and sets the HVIN target. -/
  | leanVocMeasure (voc : BitVec 16)
  /-- RICH_MPPT_STEP (R544): Every 2 s in rich mode the keeper moves the HVIN target by charge comparison. -/
  | richMpptStep (charge : Nat) (voc : Option (BitVec 16))
  /-- HARVESTER_IDLE_CHECK (R545): An idle harvester checks HVIN every 16 s and resumes if no idle condition remains. -/
  | harvesterIdleCheck (present : Bool)
  /-- BURST_REQUEST (R553): A commit or pulse request joins the burst queue or replaces waiting content. -/
  | burstRequest (c : Fin 10)
  /-- BURST_START (R552): The keeper starts the lowest waiting class whose cost passes R550, deferring others. -/
  | burstStart
  /-- BURST_COMPLETE (R555): A burst ends, writing the committed copy's header as its last write. -/
  | burstComplete
  /-- WAKE_REQUEST (R554): A comparator wake request queues a wake pulse burst. -/
  | wakeRequest (d : Fin 4) (i : Fin 16)
  /-- WAKE_ALARM (R554): The RTC reaches WAKE_AT, queues a wake pulse and clears WAKE_AT. -/
  | wakeAlarm
  /-- WAKE_PULSE_END (R551): The 10 ms WAKE_OUT pulse ends. -/
  | wakePulseEnd
  /-- RTC_SECOND (R560): At each RTC second the keeper adds time to the HOURS counters whose condition held. -/
  | rtcSecond (temps : List Int)
  /-- DCL_HIST_SECOND (R562): Once per second N bins the DC-link voltage or counts DCL_MISS. -/
  | dclHistSecond (res : Option (BitVec 32))
  /-- LIFETIME_MERGE (R567): At every 600 s, controlled stop or die retirement, N collects lifetime increments for the keeper. -/
  | lifetimeMerge
  /-- PARKED_MERGE (R567): While PARKED the keeper commits its lifetime counters at the merge seconds. -/
  | parkedMerge
  /-- MERGE_COMMIT_REPORT (R566): N reports the keeper's commit of a merge and drive dies subtract the merged increments. -/
  | mergeCommitReport
  /-- CRC_START (R578): A write of START sets VAL to INIT and COUNT to 0 and starts the computation. -/
  | crcStart (u : Fin 8)
  /-- CRC_STOP (R578): A write of STOP ends the computation after the item in progress. -/
  | crcStop (u : Fin 8)
  /-- CRC_RESUME (R578): A write of RESUME continues the computation from VAL and COUNT. -/
  | crcResume (u : Fin 8)
  /-- CRC_DATA (R579): A write to DATA folds four bytes. -/
  | crcData (u : Fin 8) (w : BitVec 32)
  /-- CRC_DATA_H (R579): A write to DATA_H folds two bytes. -/
  | crcDataH (u : Fin 8) (w : BitVec 16)
  /-- CRC_DATA_B (R579): A write to DATA_B folds one byte. -/
  | crcDataB (u : Fin 8) (w : BitVec 8)
  /-- CRC_VAL_WRITE (R580): A write to VAL sets the running value when allowed, otherwise sets CRC_CFG_ERR. -/
  | crcValWrite (u : Fin 8) (w : BitVec 32)
  /-- FEED (R579): A dictionary write of FEED folds its bytes in order as byte writes. -/
  | feed (u : Fin 8) (b : List (BitVec 8))
  /-- SCAN_READ_RETURN (R576): A scan read flit returns and its bytes are folded, or a fault ends the scan with SCAN_ERR. -/
  | scanReadReturn (u : Fin 8) (fault : Bool)
  /-- CRC_DONE (R584): A computation ends, DONE sets and a completion event goes to both command dies. -/
  | crcDone (u : Fin 8)
  /-- MAINT_REQUEST (R587): A maintenance request is accepted into a slot or refused with its outcome. -/
  | maintRequest (unit : BitVec 8) (die code : BitVec 4)
  /-- CANCEL (R596): A CANCEL ends an activity at its next safe point with result ABORTED. -/
  | cancel (k : Fin 16)
  /-- MA0_CHECK_END (R591): A comparator check of MA0 ends, judging CHK_OUT and retiring a failing comparator. -/
  | ma0CheckEnd (k : Fin 16) (out : Bool)
  /-- MA1_CALIBRATION_END (R118): MA1 finishes calibrating a port, to load at the next boundary or failing without a load. -/
  | ma1CalibrationEnd (k : Fin 16) (found : Option (BitVec 16 × BitVec 16 × Vector (BitVec 8) 64))
  /-- MA2_CORE_CALIBRATION_END (R593): MA2 finishes a core, writing new ACAL values or retiring it. -/
  | ma2CoreCalibrationEnd (k : Fin 16) (found : Option (BitVec 32 × BitVec 32))
  /-- MA4_SEARCH_END (R594): An MA4 band search ends and the band is applied or the result is FAIL. -/
  | ma4SearchEnd (k : Fin 16) (band : BitVec 6) (tj : Int) (covers : Bool)
  /-- MA4_BAND_APPLY (R594): A drive die applies the new band at the next carrier boundary of its hop-master group. -/
  | ma4BandApply (d : Fin 4)
  /-- MA5_RETRAIN_END (R17): MA5 finishes retraining a lane, returning it to service or leaving it retired. -/
  | ma5RetrainEnd (k : Fin 16) (ok : Bool)
  /-- MA7_END (R559): MA7 has sunk 40 mV or 600 s from VSTL and sets LCAP and CAP_VALID. -/
  | ma7End (dv t : Nat)
  /-- DRIVE_DIE_RETIRE (R24): A drive die is retired, its STO branch asserted and its roles such as tick sender and probe passed on. -/
  | driveDieRetire (d : Fin 4)
  /-- TTIME_LO_READ (R156): A read of TTIME_LO captures TTIME_HI of the same tick. -/
  | ttimeLoRead (d : Fin 4)
  /-- ACC_LO_READ (R324): A read of ACCa_LO captures ACCa_HI of the same commit. -/
  | accLoRead (m : Fin 3) (a : Fin 13)
  /-- LT_NS_READ (R482): A read of LT_NS captures LT_SEC of the same tick. -/
  | ltNsRead
  /-- RS_COPY_REFRESH (R44): An edge of the source domain's clock refreshes every RS copy of a block, clearing STALE and, once all accepted writes are
  included, PEND. -/
  | rsCopyRefresh (b : Fin 9)
  /-- SAFETY_INPUT_SAMPLE (R386): Every 50 µs each safety channel samples safe inputs, wheel-speed inputs, safety comparators and output read-backs,
  counting wheel-speed edges and detecting quadrature errors. -/
  | safetyInputSample (p : Vector SafetyPins 2)
  /-- N_LINK_SILENT (R420): N silent on the N–S link for 10 ms is detected as a fault of S, making the PI sources invalid. -/
  | nLinkSilent
  /-- PTP_DELAY_REQ_SEND (R481): N periodically sends Delay_Req or Pdelay_Req messages to measure the link or path delay of its ports. -/
  | ptpDelayReqSend (p : Fin 3)
  /-- TEST_EN_CHANGE (R603): The TEST_EN pin changes level, holding the main domains in reset while it is high. -/
  | testEnChange (level : Bool)
  /-- DRIVE_DIE_CLOCK_STOP (R119): A drive die's clock stops, freezing its PWM counters and holding every gate output at its level. -/
  | driveDieClockStop (d : Fin 4)
  /-- DRIVE_DIE_CLOCK_RESUME (R423): A stopped drive-die clock runs again, and the die's counters and CLEs continue from their frozen state. -/
  | driveDieClockResume (d : Fin 4)
deriving DecidableEq, Repr

end Sys2Proof
end

