-- ==== Sys2Proof/WellFormed.lean ====
section
/-!
DEFINITION. Sys2Proof/WellFormed.lean: which commands name something the part has.  Most operands are well formed by their types; the
checks here are those that a type does not make.  A meaning is defined on every command all the same.
-/

namespace Sys2Proof

/-- Does a die terminate a link with this number (section "Topology"): seven at a command die and at N, three at a drive die and at S? -/
def Die.hasLink (e : Die) (k : Fin 7) : Bool :=
  match e with
  | .c0 | .c1 | .n => true
  | .d0 | .d1 | .d2 | .d3 | .s => decide (k.val < 3)

/-- A CAN frame as the bus carries it (R497): an identifier of 11 or 29 bits, at most 8 or (FD) 64 bytes, no remote FD frame, no data in
a remote frame, bit-rate switching in FD frames only. -/
def CanFrame.wellFormed (f : CanFrame) : Bool :=
  decide (f.id < 2 ^ (if f.ide then 29 else 11)) && decide (f.data.length ≤ (if f.fd then 64 else 8)) &&
    f.data.all (fun b => decide (b < 256)) && !(f.fd && f.rtr) && !(f.brs && !f.fd) && (!f.rtr || f.data.isEmpty)

/-- Is a command well formed? -/
def Instr.wellFormed (i : Instr) : Bool :=
  match i with
  | .laneCodeError e k _ _ => e.hasLink k
  | .laneTimeout e k _ _ => e.hasLink k
  | .canFrameReceived _ f => f.toCanFrame.wellFormed
  | .rtcSecond temps => decide (temps.length = 9)
  | .feed _ b => decide (b.length ≤ 1024)
  | .driveWriteArrival .. | .nWriteFromCommandDie .. | .coreAccessFault .. | .registerWrite .. | .rwpRead .. | .ma3Scrub .. | .rsRegisterWrite .. 
  | .rsWriteComplete .. | .rsStaleTimeout .. | .rsWriteLost .. | .rsLowWordRead .. | .pllLock .. | .pllLossOfLock .. | .pllHoldover .. 
  | .bandSearchComplete .. | .hopEnSet .. | .hopEnClear .. | .hopBoundary .. | .hopSettleEnd .. | .ckmonLoss .. | .ckmonWindowEnd .. | .rtcTrim .. 
  | .rtcXtalFail .. | .rtcSync .. | .rtcSyncApply .. | .pwmGroupEnable .. | .pwmGroupStart .. | .pwmGroupDisable .. | .pwmGroupStop .. 
  | .timeEventArrival .. | .controlPeriodBoundary .. | .writePointDelivery .. | .pwmCommit .. | .vpTriggerEdge .. | .vpTimeout .. 
  | .commandEdge .. | .deadTimeEnd .. | .pmodeWrite .. | .dlyMonUpdate .. | .driveDieHalt .. | .driveDieHaltRelease .. | .haltGuardExpire .. 
  | .stoBranchAssert .. | .stoBranchRelease .. | .fltFall .. | .fltPulseEnd .. | .fltCode5 .. | .fltCode6 .. | .fltEarly .. | .fltClr .. 
  | .fltUseWrite .. | .tripGroupTrip .. | .ascShortSideOn .. | .cuffExpire .. | .tripInputActive .. | .membersWrite .. | .srcMaskWrite .. 
  | .tgModeWrite .. | .enPinRise .. | .chopperSwitch .. | .chopMinTimeEnd .. | .chopEnWrite .. | .apBootUv .. | .bootOkRise .. | .apBootUvClear .. 
  | .apRefreshStart .. | .apRefreshLowOn .. | .apRefreshEnd .. | .adcRegularTrigger .. | .adcInjectedTrigger .. | .swReg .. | .swInj .. 
  | .adcConversionComplete .. | .adcConversionTimeout .. | .adcDisable .. | .cmpOutChange .. | .cmpIrqEvent .. | .cmpEnable .. 
  | .cmpSettlingEnd .. | .cmpDisable .. | .cmpLatWrite .. | .cmpChkWrite .. | .piEnable .. | .encoderEdge .. | .encoderZEdge .. | .cleEnable .. 
  | .cleDisable .. | .cleProgramStart .. | .cleNop .. | .cleEnd .. | .cleLd .. | .cleLdx .. | .cleSt .. | .cleStx .. | .cleLdi .. | .cleLdc .. 
  | .cleExt .. | .cleAdd .. | .cleSub .. | .cleAbs .. | .cleMin .. | .cleMax .. | .cleAsh .. | .cleAnd .. | .cleSel .. | .cleMul .. | .cleMulc .. 
  | .cleMac .. | .cleMacc .. | .cleLda .. | .cleMova .. | .cleSincos .. | .clePark .. | .cleIpark .. | .cleLut .. | .cleRcp .. | .cleBr .. 
  | .cleLoop .. | .cleIllegalOp .. | .cleOverrunStop .. | .cleEccCorrect .. | .cleEccUncorrectable .. | .cleMemoryWrite .. | .cwCommit .. 
  | .gridEnable .. | .gridDisable .. | .gsuCoastTimeout .. | .rtEvaluation .. | .armWrite .. | .curveWrite .. | .gridZeroCrossing .. 
  | .rocofEvaluation .. | .voteSend .. | .voteOpenDelay .. | .gconUpdate .. | .voteMissingTimeout .. | .gfbChange .. | .gconWeld .. | .rcSecond .. 
  | .connect .. | .disconnect .. | .meterSample .. | .meterCycleFlit .. | .meterWindowEnd .. | .fundVoidTimeout .. | .meterSrcLost .. 
  | .meterEnable .. | .meterDisable .. | .meterCommit .. | .commandPeriodTick .. | .snapshotClose .. | .driveRecordArrival .. 
  | .eventFlitArrival .. | .inputFrameArrival .. | .descriptorReceived .. | .descriptorWaitTimeout .. | .fetchComplete .. | .doneWrite .. 
  | .healthChange .. | .heartbeatReceived .. | .heartbeatTimeout .. | .roleWireChange .. | .verdictReceived .. | .failoverAtN .. | .claim .. 
  | .grant .. | .claimTimeout .. | .joinReplayComplete .. | .joinFail .. | .commandDieRestartDone .. | .holdoffExpire .. | .swap .. 
  | .swapTimeout .. | .debugAttach .. | .shellDebugHalt .. | .debuggerWrite .. | .shellDebugResume .. | .safetyCycleA .. | .safetyCycleB .. 
  | .xdisc .. | .ss1Standstill .. | .ss1TmaxExpire .. | .discVTimeout .. | .degTimeout .. | .restartAck .. | .piRecordSend .. 
  | .piRecordReceived .. | .piRecordTimeout .. | .siDisc .. | .testPulse .. | .soTestPulse .. | .soFlt .. | .scmpWindowViolation .. | .gtDue .. 
  | .guardTest .. | .safetyLogin .. | .safetyLogout .. | .safetySessionTimeout .. | .newPassword .. | .apply .. | .safetyFrameReceived .. 
  | .safetyConnTimeout .. | .safetyFrameSend .. | .sStatePublish .. | .mbxStoReq .. | .mbxSs1Req .. | .mbxReset .. | .mainDomainsGood .. 
  | .mainSupplyFall .. | .resetNLow .. | .start .. | .commandDieRelease .. | .bootOk .. | .bootTmoExpire .. | .stop .. | .restart .. 
  | .controlledStopCommit .. | .controlledStopComplete .. | .checkpointTimer .. | .ethFrameReceived .. | .ethTransmitStart .. | .ethTransmitEnd .. 
  | .ringCheckSend .. | .portLinkDown .. | .portLinkUp .. | .gateIntervalEnd .. | .gateApply .. | .gateListSwitch .. | .ptpMessageReceived .. 
  | .domainTimeout .. | .domainReturn .. | .ltToS .. | .leapSecond .. | .tuEnable .. | .tuTargetWrite .. | .tuFire .. | .tioPulseEnd .. 
  | .tuCapture .. | .canTransmitEnd .. | .canBusOff .. | .recover .. | .canRecoveryComplete .. | .dictOpen .. | .dictClose .. | .dictNop .. 
  | .dictRead .. | .dictSegUp .. | .dictWrite .. | .dictSegDn .. | .dictAbort .. | .persistTimeout .. | .dictLogin .. | .dictLogout .. 
  | .opPassword .. | .mntPassword .. | .sessionTimeout .. | .xferTimeout .. | .restore .. | .processTxSlot .. | .txRel .. | .processRxLost .. 
  | .declCommit .. | .respGo .. | .appTimeout .. | .vkinChange .. | .keeperPowerOn .. | .keeperBrownOut .. | .keeperEvaluation .. 
  | .leanVocMeasure .. | .richMpptStep .. | .harvesterIdleCheck .. | .burstRequest .. | .burstStart .. | .burstComplete .. | .wakeRequest .. 
  | .wakeAlarm .. | .wakePulseEnd .. | .dclHistSecond .. | .lifetimeMerge .. | .parkedMerge .. | .mergeCommitReport .. | .crcStart .. 
  | .crcStop .. | .crcResume .. | .crcData .. | .crcDataH .. | .crcDataB .. | .crcValWrite .. | .scanReadReturn .. | .crcDone .. 
  | .maintRequest .. | .cancel .. | .ma0CheckEnd .. | .ma1CalibrationEnd .. | .ma2CoreCalibrationEnd .. | .ma4SearchEnd .. | .ma4BandApply .. 
  | .ma5RetrainEnd .. | .ma7End .. | .driveDieRetire .. | .ttimeLoRead .. | .accLoRead .. | .ltNsRead .. | .rsCopyRefresh .. 
  | .safetyInputSample .. | .nLinkSilent .. | .ptpDelayReqSend .. | .testEnChange .. | .driveDieClockStop .. | .driveDieClockResume .. => true

end Sys2Proof
end

