-- ==== Sys2Proof/Config.lean ====
section
/-!
DEFINITION. Sys2Proof/Config.lean: what a part fixes at manufacture and the free values of the model.

Every constant here is opaque: no proof can see a value of it, so a statement about the model holds whatever it is.
A value that the spec leaves open at each use is one of these constants applied to the operands it depends on, or to
the counter `State.freeCnt`, which the step reads and advances.
-/

namespace Sys2Proof.Config

/-- MAC address bytes 2-5 and 0-1 of Ethernet port `p`, written at manufacture ("identity" in the ETH register table). -/
opaque macLo (p : Nat) : Nat

/-- See `macLo`; 16 bits. -/
opaque macHi (p : Nat) : Nat

/-- The way an exact quotient n / d that is no whole number of units goes to a neighbouring unit where the spec gives neither the rounding
nor a finer unit (R214, R305, R317, R559): up or down. -/
opaque roundUp (n : Int) (d : Nat) : Bool

/-- A product with the loop error of R214 step 3 while AMP is 0, where the spec's quotient has no value. -/
opaque noAngle (k : Nat) (sD cD : Int) : Int

/-- The `n`-th free bit of the excitation stream on pin A of a position interface whose control period is `k` mod EXC_DIV (R213: the stream of a
sine is given, the modulator that forms its bits is not). -/
opaque excBit (n k : Nat) : Bool

/-- What SINCOS gives for an angle, as sine (`false`) or cosine (`true`) in Q1.31; the model keeps it within the error
the spec allows (R239). -/
opaque sincos (cosine : Bool) (angle : Nat) : Int

/-- What the GSU of a die finds in the sets of the last grid cycles (R263; each set its three inputs, three phase voltages, three currents, the
advance of ANG_P and the time that follow it), as the `n`-th free value: field 0 FREQ, 1 ROCOF before a whole cycle has been seen, 2 VPOS and
3 VNEG (Q2.30), 4-6 VPH0-VPH2, 7 ANG_P, 8 ANG_N, 10 ZMAG where the probe's current is 0, 12 the fraction of a zero's tick.  The spec states what
they are and how far they may err while the grid is steady, and not the filter that gives them; the model keeps them within those errors then. -/
opaque gsu (sets : List (List Int)) (n field : Nat) : Nat

/-- The code of channel `c` at a time for which N holds no results of the channel on both sides, `t` ticks from the stamp with TTIME `ttime`
(a quarter window before the first results, R314). -/
opaque noResult (c ttime : Nat) (t : Rat) : Rat

/-- Byte `i` of the `n`-th random salt that S draws (R425). -/
opaque randomByte (n i : Nat) : Nat

/-- By how much the servo pushes LT's rate towards OFS beyond the measured rate of the domain, in 2^-32 ns for a tick, before the limit SLEW_MAX
(R488: the spec gives its aim and its limit). -/
opaque servo (n : Nat) : Int

/-- Fields of the IP headers that N sends and the spec does not state: 0 identification, 1 time to live. -/
opaque ipField (field : Nat) : Nat

/-- LCAP in mF where t / dv gives no number that the register holds (R559). -/
opaque lcapOpen (t dv : Nat) : Nat

/-- What the identity entries 0x1000:03-:06 hold, by subindex ("per device"). -/
opaque deviceNumber (sub : Nat) : Nat

/-- The comparator output that a check shows when CHK is written through its register and neither R209 nor R199 gives it: an input of the
part, as the `n`-th free value. -/
opaque checkOut (n : Nat) : Bool

/-- The `n`-th small value that the spec names and does not state (the context, GEN and TID of a frame that restores a value). -/
opaque unstated (n : Nat) : Nat

end Sys2Proof.Config
end

