-- ==== Sys2Proof/Machine/RegMap.lean ====
section
/-!
DEFINITION. Sys2Proof/Machine/RegMap.lean: every register of the part: its address, its fields, its row in the table
that the generic write and the reset value are taken from.

`BLOCK.REG i j` is the address of a register (for core maps the spec shares between C0 and C1 see `Die.base`), and
`BLOCK.REG_FIELD i j` one of its fields.  The names, places, access codes and reset values are those of the register
tables of the chapters; a register that a table gives no name carries the name of its field or of its role.
-/

namespace Sys2Proof

/-- Drive die `d`. -/
def Die.drive : Nat → Die
  | 0 => .d0 | 1 => .d1 | 2 => .d2 | _ => .d3

/-- Command die `c`. -/
def Die.command : Nat → Die
  | 0 => .c0 | _ => .c1

/-- All dies, by code. -/
def Die.all : List Die := [.c0, .c1, .d0, .d1, .d2, .d3, .n, .s]

/-- The number of a drive die among D0-D3 (0 for the other dies, which no rule asks about). -/
def Die.driveNo : Die → Nat
  | .d1 => 1 | .d2 => 2 | .d3 => 3 | _ => 0

/-- Is it a drive die? -/
def Die.isDrive : Die → Bool
  | .d0 | .d1 | .d2 | .d3 => true
  | _ => false

/-- Is it a command die? -/
def Die.isCommand : Die → Bool
  | .c0 | .c1 => true
  | _ => false

/-- Where a die's window begins in the core address map (R26).  The own-die peripherals of C1 answer at the same
addresses as those of C0, on C1 only; the model keys them 2^32 higher. -/
def Die.base : Die → Nat
  | .c0 => 0x50000000 | .c1 => 0x150000000
  | .d0 => 0x40000000 | .d1 => 0x41000000 | .d2 => 0x42000000 | .d3 => 0x43000000
  | .n => 0x48000000 | .s => 0x4C000000

/-- How many Eoken links the die terminates (section "Topology"). -/
def Die.linkCount : Die → Nat
  | .c0 | .c1 | .n => 7
  | _ => 3

/-- The far end of link `k` of a die: the other die and the number the link has there (section "Topology"). -/
def Die.farEnd (e : Die) (k : Nat) : Option (Die × Nat) :=
  match e with
  | .c0 => if k = 0 then some (.c1, 0) else if k ≤ 4 then some (Die.drive (k - 1), 0)
           else if k = 5 then some (.n, 0) else if k = 6 then some (.s, 0) else none
  | .c1 => if k = 0 then some (.c0, 0) else if k ≤ 4 then some (Die.drive (k - 1), 1)
           else if k = 5 then some (.n, 1) else if k = 6 then some (.s, 1) else none
  | .n => if k = 0 then some (.c0, 5) else if k = 1 then some (.c1, 5)
          else if k ≤ 5 then some (Die.drive (k - 2), 2) else if k = 6 then some (.s, 2) else none
  | .s => if k = 0 then some (.c0, 6) else if k = 1 then some (.c1, 6) else if k = 2 then some (.n, 6) else none
  | e => if k = 0 then some (.c0, 1 + e.driveNo) else if k = 1 then some (.c1, 1 + e.driveNo)
         else if k = 2 then some (.n, 2 + e.driveNo) else none

end Sys2Proof

namespace Sys2Proof.Machine

/-- A field of a register: the register's address, the lowest bit, the width. -/
structure RF where
  addr : Nat
  lo : Nat
  w : Nat
deriving DecidableEq, Repr

/-- The points (T in ms, level) of curve c = 4 x side + region index by default (section "Quantities and curves"):
voltages in Q2.14 pu rounded to nearest, frequencies in mHz. -/
def curveDefault : Nat → List (Nat × Nat)
  | 0 => [(2000, 8192), (21000, 14418)]
  | 1 => [(0, 8192), (1000, 0)]
  | 2 => [(1000, 8192), (10000, 11469), (20000, 14418)]
  | 3 => [(0, 14418)]
  | 4 => [(160, 19661), (13000, 18022)]
  | 5 => [(0, 18022), (12000, 0xFFFF)]
  | 6 => [(12000, 18022)]
  | 8 => [(160, 47000), (300000, 48500)]
  | 11 => [(0, 49000)]
  | 12 => [(160, 52000), (300000, 51200)]
  | 15 => [(0, 51000)]
  | _ => []

/-- The access codes of the register tables ("Notation" in the scope chapter). -/
inductive Acc where
  | rw | ro | wo | w1c | w1s
deriving DecidableEq, Repr

/-- One field in a row of a register table. -/
structure FieldRow where
  lo : Nat
  w : Nat
  acc : Acc
deriving DecidableEq, Repr

/-- One register, or a family of them at `off + s1 * i + s2 * j`: whether it carries parity (RWP), its fields, and its
reset word by block instance and indices (the Reset column, R8). -/
structure RegRow where
  name : String
  off : Nat
  s1 : Nat
  n1 : Nat
  s2 : Nat
  n2 : Nat
  rwp : Bool
  fields : List FieldRow
  reset : Nat → Nat → Nat → Nat

/-- Which dies hold a block. -/
inductive DieKind where
  | all | cmd | drive | n | s
deriving DecidableEq, Repr

/-- One register block (R28). -/
structure BlockRow where
  name : String
  kind : DieKind
  off : Nat
  count : Nat
  rs : Bool
  regs : List RegRow

/-! ### ELINK : ELINK link status (chapter 1) -/
def ELINK.STAT (e : Die) (k : Nat) : Nat := e.base + 0x20000 + 0x10 * k
def ELINK.STAT_RETRAIN_CNT (e : Die) (k : Nat) : RF := ⟨ELINK.STAT e k, 24, 8⟩
def ELINK.STAT_RETIRE_CNT (e : Die) (k : Nat) : RF := ⟨ELINK.STAT e k, 16, 8⟩
def ELINK.STAT_LANE_TIMEOUT (e : Die) (k : Nat) : RF := ⟨ELINK.STAT e k, 10, 1⟩
def ELINK.STAT_LANE_CODE (e : Die) (k : Nat) : RF := ⟨ELINK.STAT e k, 9, 1⟩
def ELINK.STAT_LINK_DOWN (e : Die) (k : Nat) : RF := ⟨ELINK.STAT e k, 8, 1⟩
def ELINK.STAT_LANE_UP_RX (e : Die) (k : Nat) : RF := ⟨ELINK.STAT e k, 4, 4⟩
def ELINK.STAT_LANE_UP_TX (e : Die) (k : Nat) : RF := ⟨ELINK.STAT e k, 0, 4⟩

/-! ### REGCTL : REGCTL parity record (R36-R43) -/
def REGCTL.PAR_STAT (e : Die) : Nat := e.base + 0x10000
def REGCTL.PAR_STAT_ERR_CNT (e : Die) : RF := ⟨REGCTL.PAR_STAT e, 16, 16⟩
def REGCTL.PAR_STAT_BY_READ (e : Die) : RF := ⟨REGCTL.PAR_STAT e, 2, 1⟩
def REGCTL.PAR_STAT_BY_SCRUB (e : Die) : RF := ⟨REGCTL.PAR_STAT e, 1, 1⟩
def REGCTL.PAR_STAT_CFG_PARITY (e : Die) : RF := ⟨REGCTL.PAR_STAT e, 0, 1⟩
def REGCTL.PAR_FIRST (e : Die) : Nat := e.base + 0x10004
def REGCTL.PAR_FIRST_FIRST_ADDR (e : Die) : RF := ⟨REGCTL.PAR_FIRST e, 0, 32⟩
def REGCTL.PAR_LAST (e : Die) : Nat := e.base + 0x10008
def REGCTL.PAR_LAST_LAST_ADDR (e : Die) : RF := ⟨REGCTL.PAR_LAST e, 0, 32⟩
def REGCTL.SCRUB (e : Die) : Nat := e.base + 0x1000C
def REGCTL.SCRUB_PASS_CNT (e : Die) : RF := ⟨REGCTL.SCRUB e, 16, 16⟩

/-! ### CLK : CLK, PLL, bands and hopping (chapter 3) -/
def CLK.LOCK_CFG (e : Die) : Nat := e.base + 0x30000
def CLK.LOCK_CFG_LOCK_WIN (e : Die) : RF := ⟨CLK.LOCK_CFG e, 16, 4⟩
def CLK.LOCK_CFG_LOSS_M (e : Die) : RF := ⟨CLK.LOCK_CFG e, 12, 4⟩
def CLK.LOCK_CFG_LOCK_N (e : Die) : RF := ⟨CLK.LOCK_CFG e, 0, 12⟩
def CLK.PLL_STAT (e : Die) : Nat := e.base + 0x30004
def CLK.PLL_STAT_LOL_CNT (e : Die) : RF := ⟨CLK.PLL_STAT e, 16, 16⟩
def CLK.PLL_STAT_SLOT_NOW (e : Die) : RF := ⟨CLK.PLL_STAT e, 13, 3⟩
def CLK.PLL_STAT_SEARCH_ACT (e : Die) : RF := ⟨CLK.PLL_STAT e, 12, 1⟩
def CLK.PLL_STAT_REF_LOST (e : Die) : RF := ⟨CLK.PLL_STAT e, 11, 1⟩
def CLK.PLL_STAT_HOLDOVER (e : Die) : RF := ⟨CLK.PLL_STAT e, 10, 1⟩
def CLK.PLL_STAT_LOCK (e : Die) : RF := ⟨CLK.PLL_STAT e, 9, 1⟩
def CLK.PLL_STAT_BAND (e : Die) : RF := ⟨CLK.PLL_STAT e, 0, 6⟩
def CLK.HOP_CFG (e : Die) : Nat := e.base + 0x30008
def CLK.HOP_CFG_HOP_SEED (e : Die) : RF := ⟨CLK.HOP_CFG e, 16, 16⟩
def CLK.HOP_CFG_HOP_DIV (e : Die) : RF := ⟨CLK.HOP_CFG e, 8, 8⟩
def CLK.HOP_CFG_HOP_LEN (e : Die) : RF := ⟨CLK.HOP_CFG e, 4, 4⟩
def CLK.HOP_CFG_HOP_MODE (e : Die) : RF := ⟨CLK.HOP_CFG e, 1, 1⟩
def CLK.HOP_CFG_HOP_EN (e : Die) : RF := ⟨CLK.HOP_CFG e, 0, 1⟩
def CLK.HOP_STAT (e : Die) : Nat := e.base + 0x3000C
def CLK.HOP_STAT_HOP_NEXT (e : Die) : RF := ⟨CLK.HOP_STAT e, 16, 16⟩
def CLK.HOP_STAT_HOP_NOW (e : Die) : RF := ⟨CLK.HOP_STAT e, 0, 16⟩
def CLK.HOP_FLAG (e : Die) : Nat := e.base + 0x30010
def CLK.HOP_FLAG_SLOT0_SUB (e : Die) : RF := ⟨CLK.HOP_FLAG e, 6, 1⟩
def CLK.HOP_FLAG_SLOT_NEXT (e : Die) : RF := ⟨CLK.HOP_FLAG e, 3, 3⟩
def CLK.HOP_FLAG_HOP_ACTIVE (e : Die) : RF := ⟨CLK.HOP_FLAG e, 2, 1⟩
def CLK.HOP_FLAG_HOP_BAND_ERR (e : Die) : RF := ⟨CLK.HOP_FLAG e, 1, 1⟩
def CLK.HOP_FLAG_HOP_CFG_ERR (e : Die) : RF := ⟨CLK.HOP_FLAG e, 0, 1⟩
def CLK.SLOT (e : Die) (k : Nat) : Nat := e.base + 0x30040 + 0x4 * k
def CLK.SLOT_INT (e : Die) (k : Nat) : RF := ⟨CLK.SLOT e k, 24, 8⟩
def CLK.SLOT_FRAC (e : Die) (k : Nat) : RF := ⟨CLK.SLOT e k, 0, 24⟩
def CLK.BAND (e : Die) (k : Nat) : Nat := e.base + 0x30080 + 0x4 * k
def CLK.BAND_VALID (e : Die) (k : Nat) : RF := ⟨CLK.BAND e k, 31, 1⟩
def CLK.BAND_TJ (e : Die) (k : Nat) : RF := ⟨CLK.BAND e k, 8, 8⟩
def CLK.BAND_BAND (e : Die) (k : Nat) : RF := ⟨CLK.BAND e k, 0, 6⟩

/-! ### CKMON : CKMON clock monitor (chapter 3) -/
def CKMON.MON (k : Nat) : Nat := 0x4C000000 + 0x40000 + 0x4 * k
def CKMON.MON_LOSS (k : Nat) : RF := ⟨CKMON.MON k, 17, 1⟩
def CKMON.MON_OOR (k : Nat) : RF := ⟨CKMON.MON k, 16, 1⟩
def CKMON.MON_MEAS (k : Nat) : RF := ⟨CKMON.MON k, 0, 16⟩
def CKMON.WR_PEND : Nat := 0x4C000000 + 0x40FFC
def CKMON.WR_PEND_STALE : RF := ⟨CKMON.WR_PEND, 31, 1⟩
def CKMON.WR_PEND_WR_LOST : RF := ⟨CKMON.WR_PEND, 30, 1⟩
def CKMON.WR_PEND_PEND : RF := ⟨CKMON.WR_PEND, 8, 1⟩
def CKMON.WR_PEND_PEND_CNT : RF := ⟨CKMON.WR_PEND, 0, 3⟩

/-! ### RTC : RTC of the keeper (chapter 3) -/
def RTC.RTC_SUB : Nat := 0x4C000000 + 0x50000
def RTC.RTC_SUB_SUB : RF := ⟨RTC.RTC_SUB, 0, 15⟩
def RTC.RTC_SEC : Nat := 0x4C000000 + 0x50004
def RTC.RTC_SEC_SEC : RF := ⟨RTC.RTC_SEC, 0, 32⟩
def RTC.RTC_TRIM : Nat := 0x4C000000 + 0x50008
def RTC.RTC_TRIM_TRIM : RF := ⟨RTC.RTC_TRIM, 0, 11⟩
def RTC.RTC_FLAG : Nat := 0x4C000000 + 0x5000C
def RTC.RTC_FLAG_RTC_XTAL_FAIL : RF := ⟨RTC.RTC_FLAG, 0, 1⟩
def RTC.WR_PEND : Nat := 0x4C000000 + 0x50FFC
def RTC.WR_PEND_STALE : RF := ⟨RTC.WR_PEND, 31, 1⟩
def RTC.WR_PEND_WR_LOST : RF := ⟨RTC.WR_PEND, 30, 1⟩
def RTC.WR_PEND_PEND : RF := ⟨RTC.WR_PEND, 8, 1⟩
def RTC.WR_PEND_PEND_CNT : RF := ⟨RTC.WR_PEND, 0, 3⟩

/-! ### PWM : PWM groups (chapter 4) -/
def PWM.GCFG (d : Nat) (k : Nat) : Nat := (d * 0x1000000 + 0x40000000) + 0x100000 + 0x100 * k
def PWM.GCFG_PORTS (d : Nat) (k : Nat) : RF := ⟨PWM.GCFG d k, 16, 7⟩
def PWM.GCFG_TRIG_POL (d : Nat) (k : Nat) : RF := ⟨PWM.GCFG d k, 12, 1⟩
def PWM.GCFG_TRIG_SEL (d : Nat) (k : Nat) : RF := ⟨PWM.GCFG d k, 8, 4⟩
def PWM.GCFG_START_SRC (d : Nat) (k : Nat) : RF := ⟨PWM.GCFG d k, 5, 2⟩
def PWM.GCFG_COMMIT_MODE (d : Nat) (k : Nat) : RF := ⟨PWM.GCFG d k, 4, 1⟩
def PWM.GCFG_DBL_UPD (d : Nat) (k : Nat) : RF := ⟨PWM.GCFG d k, 3, 1⟩
def PWM.GCFG_MODE (d : Nat) (k : Nat) : RF := ⟨PWM.GCFG d k, 1, 2⟩
def PWM.GCFG_EN (d : Nat) (k : Nat) : RF := ⟨PWM.GCFG d k, 0, 1⟩
def PWM.PER (d : Nat) (k : Nat) : Nat := (d * 0x1000000 + 0x40000000) + 0x100004 + 0x100 * k
def PWM.PER_PER (d : Nat) (k : Nat) : RF := ⟨PWM.PER d k, 0, 20⟩
def PWM.PHASE (d : Nat) (k : Nat) : Nat := (d * 0x1000000 + 0x40000000) + 0x100008 + 0x100 * k
def PWM.PHASE_PHASE (d : Nat) (k : Nat) : RF := ⟨PWM.PHASE d k, 0, 20⟩
def PWM.MIN_OFF (d : Nat) (k : Nat) : Nat := (d * 0x1000000 + 0x40000000) + 0x10000C + 0x100 * k
def PWM.MIN_OFF_MIN_OFF (d : Nat) (k : Nat) : RF := ⟨PWM.MIN_OFF d k, 0, 13⟩
def PWM.PER_MIN (d : Nat) (k : Nat) : Nat := (d * 0x1000000 + 0x40000000) + 0x100010 + 0x100 * k
def PWM.PER_MIN_PER_MIN (d : Nat) (k : Nat) : RF := ⟨PWM.PER_MIN d k, 0, 20⟩
def PWM.WRPT (d : Nat) (k : Nat) : Nat := (d * 0x1000000 + 0x40000000) + 0x100014 + 0x100 * k
def PWM.WRPT_WRPT (d : Nat) (k : Nat) : RF := ⟨PWM.WRPT d k, 0, 20⟩
def PWM.COMMIT (d : Nat) (k : Nat) : Nat := (d * 0x1000000 + 0x40000000) + 0x100018 + 0x100 * k
def PWM.COMMIT_COMMIT (d : Nat) (k : Nat) : RF := ⟨PWM.COMMIT d k, 0, 1⟩
def PWM.CNT (d : Nat) (k : Nat) : Nat := (d * 0x1000000 + 0x40000000) + 0x10001C + 0x100 * k
def PWM.CNT_PCNT (d : Nat) (k : Nat) : RF := ⟨PWM.CNT d k, 24, 8⟩
def PWM.CNT_DIR (d : Nat) (k : Nat) : RF := ⟨PWM.CNT d k, 20, 1⟩
def PWM.CNT_COUNT (d : Nat) (k : Nat) : RF := ⟨PWM.CNT d k, 0, 20⟩
def PWM.STAT (d : Nat) (k : Nat) : Nat := (d * 0x1000000 + 0x40000000) + 0x100020 + 0x100 * k
def PWM.STAT_PER_TAG (d : Nat) (k : Nat) : RF := ⟨PWM.STAT d k, 24, 8⟩
def PWM.STAT_FROZEN (d : Nat) (k : Nat) : RF := ⟨PWM.STAT d k, 9, 1⟩
def PWM.STAT_RUN (d : Nat) (k : Nat) : RF := ⟨PWM.STAT d k, 8, 1⟩
def PWM.STAT_PULSE_DROP (d : Nat) (k : Nat) : RF := ⟨PWM.STAT d k, 5, 1⟩
def PWM.STAT_GRP_CFG_ERR (d : Nat) (k : Nat) : RF := ⟨PWM.STAT d k, 4, 1⟩
def PWM.STAT_VP_TIMEOUT (d : Nat) (k : Nat) : RF := ⟨PWM.STAT d k, 3, 1⟩
def PWM.STAT_SPLIT_UPDATE (d : Nat) (k : Nat) : RF := ⟨PWM.STAT d k, 2, 1⟩
def PWM.STAT_SET_CLAMPED (d : Nat) (k : Nat) : RF := ⟨PWM.STAT d k, 1, 1⟩
def PWM.STAT_SET_INVALID (d : Nat) (k : Nat) : RF := ⟨PWM.STAT d k, 0, 1⟩
def PWM.SPLIT_LOG (d : Nat) (k : Nat) : Nat := (d * 0x1000000 + 0x40000000) + 0x100024 + 0x100 * k
def PWM.SPLIT_LOG_SPLIT_CNT (d : Nat) (k : Nat) : RF := ⟨PWM.SPLIT_LOG d k, 24, 8⟩
def PWM.SPLIT_LOG_PORT (d : Nat) (k : Nat) : RF := ⟨PWM.SPLIT_LOG d k, 16, 3⟩
def PWM.SPLIT_LOG_DUTY_TAG (d : Nat) (k : Nat) : RF := ⟨PWM.SPLIT_LOG d k, 8, 8⟩
def PWM.SPLIT_LOG_PER_TAG (d : Nat) (k : Nat) : RF := ⟨PWM.SPLIT_LOG d k, 0, 8⟩
def PWM.DLY_MON (d : Nat) : Nat := (d * 0x1000000 + 0x40000000) + 0x100800
def PWM.DLY_MON_MON_TPT (d : Nat) : RF := ⟨PWM.DLY_MON d, 0, 16⟩

/-! ### PORT : gate ports GP(6d+j), j = 0-5 (chapters 4, 5) -/
def PORT.DUTY (d : Nat) (j : Nat) : Nat := (d * 0x1000000 + 0x40000000) + 0x110000 + 0x4000 * j
def PORT.DUTY_DUTY_T (d : Nat) (j : Nat) : RF := ⟨PORT.DUTY d j, 6, 20⟩
def PORT.DUTY_DUTY_F (d : Nat) (j : Nat) : RF := ⟨PORT.DUTY d j, 0, 6⟩
def PORT.DT_RISE (d : Nat) (j : Nat) : Nat := (d * 0x1000000 + 0x40000000) + 0x110004 + 0x4000 * j
def PORT.DT_RISE_DTR_T (d : Nat) (j : Nat) : RF := ⟨PORT.DT_RISE d j, 6, 13⟩
def PORT.DT_RISE_DTR_F (d : Nat) (j : Nat) : RF := ⟨PORT.DT_RISE d j, 0, 6⟩
def PORT.DT_FALL (d : Nat) (j : Nat) : Nat := (d * 0x1000000 + 0x40000000) + 0x110008 + 0x4000 * j
def PORT.DT_FALL_DTF_T (d : Nat) (j : Nat) : RF := ⟨PORT.DT_FALL d j, 6, 13⟩
def PORT.DT_FALL_DTF_F (d : Nat) (j : Nat) : RF := ⟨PORT.DT_FALL d j, 0, 6⟩
def PORT.PMODE (d : Nat) (j : Nat) : Nat := (d * 0x1000000 + 0x40000000) + 0x11000C + 0x4000 * j
def PORT.PMODE_PMODE (d : Nat) (j : Nat) : RF := ⟨PORT.PMODE d j, 0, 2⟩
def PORT.TAGS (d : Nat) (j : Nat) : Nat := (d * 0x1000000 + 0x40000000) + 0x11001C + 0x4000 * j
def PORT.TAGS_DTF_TAG (d : Nat) (j : Nat) : RF := ⟨PORT.TAGS d j, 16, 8⟩
def PORT.TAGS_DTR_TAG (d : Nat) (j : Nat) : RF := ⟨PORT.TAGS d j, 8, 8⟩
def PORT.TAGS_DUTY_TAG (d : Nat) (j : Nat) : RF := ⟨PORT.TAGS d j, 0, 8⟩
def PORT.DLY_CAL (d : Nat) (j : Nat) : Nat := (d * 0x1000000 + 0x40000000) + 0x110040 + 0x4000 * j
def PORT.DLY_CAL_DLY_REF (d : Nat) (j : Nat) : RF := ⟨PORT.DLY_CAL d j, 16, 16⟩
def PORT.DLY_CAL_DLY_TPT (d : Nat) (j : Nat) : RF := ⟨PORT.DLY_CAL d j, 0, 16⟩
def PORT.DLY_CTL (d : Nat) (j : Nat) : Nat := (d * 0x1000000 + 0x40000000) + 0x110044 + 0x4000 * j
def PORT.DLY_CTL_DLY_TOL (d : Nat) (j : Nat) : RF := ⟨PORT.DLY_CTL d j, 0, 8⟩
def PORT.DLY_STAT (d : Nat) (j : Nat) : Nat := (d * 0x1000000 + 0x40000000) + 0x110048 + 0x4000 * j
def PORT.DLY_STAT_DLY_COARSE (d : Nat) (j : Nat) : RF := ⟨PORT.DLY_STAT d j, 1, 1⟩
def PORT.DLY_STAT_DLY_DRIFT (d : Nat) (j : Nat) : RF := ⟨PORT.DLY_STAT d j, 0, 1⟩
def PORT.LIN (d : Nat) (j : Nat) (k : Nat) : Nat := (d * 0x1000000 + 0x40000000) + 0x110200 + 0x4000 * j + 0x4 * k
def PORT.LIN_ELEM (d : Nat) (j : Nat) (k : Nat) : RF := ⟨PORT.LIN d j k, 0, 8⟩
def PORT.ACT_DUTY (d : Nat) (j : Nat) : Nat := (d * 0x1000000 + 0x40000000) + 0x110010 + 0x4000 * j
def PORT.ACT_DUTY_DUTY_T (d : Nat) (j : Nat) : RF := ⟨PORT.ACT_DUTY d j, 6, 20⟩
def PORT.ACT_DUTY_DUTY_F (d : Nat) (j : Nat) : RF := ⟨PORT.ACT_DUTY d j, 0, 6⟩
def PORT.ACT_DT_RISE (d : Nat) (j : Nat) : Nat := (d * 0x1000000 + 0x40000000) + 0x110014 + 0x4000 * j
def PORT.ACT_DT_RISE_DTR_T (d : Nat) (j : Nat) : RF := ⟨PORT.ACT_DT_RISE d j, 6, 13⟩
def PORT.ACT_DT_RISE_DTR_F (d : Nat) (j : Nat) : RF := ⟨PORT.ACT_DT_RISE d j, 0, 6⟩
def PORT.ACT_DT_FALL (d : Nat) (j : Nat) : Nat := (d * 0x1000000 + 0x40000000) + 0x110018 + 0x4000 * j
def PORT.ACT_DT_FALL_DTF_T (d : Nat) (j : Nat) : RF := ⟨PORT.ACT_DT_FALL d j, 6, 13⟩
def PORT.ACT_DT_FALL_DTF_F (d : Nat) (j : Nat) : RF := ⟨PORT.ACT_DT_FALL d j, 0, 6⟩
def PORT.PCFG (d : Nat) (j : Nat) : Nat := (d * 0x1000000 + 0x40000000) + 0x110100 + 0x4000 * j
def PORT.PCFG_CHOP_CMP (d : Nat) (j : Nat) : RF := ⟨PORT.PCFG d j, 8, 4⟩
def PORT.PCFG_CHOP_IN_TRIP (d : Nat) (j : Nat) : RF := ⟨PORT.PCFG d j, 3, 1⟩
def PORT.PCFG_CHOP_SIDE (d : Nat) (j : Nat) : RF := ⟨PORT.PCFG d j, 2, 1⟩
def PORT.PCFG_CHOP_EN (d : Nat) (j : Nat) : RF := ⟨PORT.PCFG d j, 1, 1⟩
def PORT.PCFG_FLT_USE (d : Nat) (j : Nat) : RF := ⟨PORT.PCFG d j, 0, 1⟩
def PORT.CHOP_TON (d : Nat) (j : Nat) : Nat := (d * 0x1000000 + 0x40000000) + 0x110104 + 0x4000 * j
def PORT.CHOP_TON_TON (d : Nat) (j : Nat) : RF := ⟨PORT.CHOP_TON d j, 0, 20⟩
def PORT.CHOP_TOFF (d : Nat) (j : Nat) : Nat := (d * 0x1000000 + 0x40000000) + 0x110108 + 0x4000 * j
def PORT.CHOP_TOFF_TOFF (d : Nat) (j : Nat) : RF := ⟨PORT.CHOP_TOFF d j, 0, 20⟩
def PORT.FLTSTAT (d : Nat) (j : Nat) : Nat := (d * 0x1000000 + 0x40000000) + 0x11010C + 0x4000 * j
def PORT.FLTSTAT_FLT_CNT (d : Nat) (j : Nat) : RF := ⟨PORT.FLTSTAT d j, 24, 8⟩
def PORT.FLTSTAT_GLITCH_CNT (d : Nat) (j : Nat) : RF := ⟨PORT.FLTSTAT d j, 16, 8⟩
def PORT.FLTSTAT_FLT_CLR (d : Nat) (j : Nat) : RF := ⟨PORT.FLTSTAT d j, 4, 1⟩
def PORT.FLTSTAT_FLT_LINE (d : Nat) (j : Nat) : RF := ⟨PORT.FLTSTAT d j, 3, 1⟩
def PORT.FLTSTAT_FLT_CODE (d : Nat) (j : Nat) : RF := ⟨PORT.FLTSTAT d j, 0, 3⟩
def PORT.FLTWID (d : Nat) (j : Nat) : Nat := (d * 0x1000000 + 0x40000000) + 0x110110 + 0x4000 * j
def PORT.FLTWID_WIDTH (d : Nat) (j : Nat) : RF := ⟨PORT.FLTWID d j, 0, 20⟩
def PORT.CHOP_STAT (d : Nat) (j : Nat) : Nat := (d * 0x1000000 + 0x40000000) + 0x110114 + 0x4000 * j
def PORT.CHOP_STAT_CHOP_ON (d : Nat) (j : Nat) : RF := ⟨PORT.CHOP_STAT d j, 0, 1⟩

/-! ### APB : auxiliary port APd, j = 6 (chapters 4, 5) -/
def APB.APCFG (d : Nat) : Nat := (d * 0x1000000 + 0x40000000) + 0x128100
def APB.APCFG_REF_EN (d : Nat) : RF := ⟨APB.APCFG d, 0, 1⟩
def APB.APREF_W (d : Nat) : Nat := (d * 0x1000000 + 0x40000000) + 0x128104
def APB.APREF_W_REF_W (d : Nat) : RF := ⟨APB.APREF_W d, 0, 13⟩
def APB.APREF_INT (d : Nat) : Nat := (d * 0x1000000 + 0x40000000) + 0x128108
def APB.APREF_INT_REF_INT (d : Nat) : RF := ⟨APB.APREF_INT d, 0, 24⟩
def APB.APSTAT (d : Nat) : Nat := (d * 0x1000000 + 0x40000000) + 0x12810C
def APB.APSTAT_UV_CNT (d : Nat) : RF := ⟨APB.APSTAT d, 16, 16⟩
def APB.APSTAT_REF_ACT (d : Nat) : RF := ⟨APB.APSTAT d, 2, 1⟩
def APB.APSTAT_BOOT_OK (d : Nat) : RF := ⟨APB.APSTAT d, 1, 1⟩
def APB.APSTAT_AP_BOOT_UV (d : Nat) : RF := ⟨APB.APSTAT d, 0, 1⟩

/-! ### TRIP : trip groups (chapter 5) -/
def TRIP.SRCACT (d : Nat) (k : Nat) : Nat := (d * 0x1000000 + 0x40000000) + 0x130010 + 0x100 * k
def TRIP.SRCACT_STO (d : Nat) (k : Nat) : RF := ⟨TRIP.SRCACT d k, 31, 1⟩
def TRIP.SRCACT_PARITY (d : Nat) (k : Nat) : RF := ⟨TRIP.SRCACT d k, 30, 1⟩
def TRIP.SRCACT_CLE (d : Nat) (k : Nat) : RF := ⟨TRIP.SRCACT d k, 28, 2⟩
def TRIP.SRCACT_TRIP (d : Nat) (k : Nat) : RF := ⟨TRIP.SRCACT d k, 24, 4⟩
def TRIP.SRCACT_PORTSRC (d : Nat) (k : Nat) : RF := ⟨TRIP.SRCACT d k, 16, 7⟩
def TRIP.SRCACT_CMP (d : Nat) (k : Nat) : RF := ⟨TRIP.SRCACT d k, 0, 16⟩
def TRIP.FCVEC (d : Nat) (k : Nat) : Nat := (d * 0x1000000 + 0x40000000) + 0x130014 + 0x100 * k
def TRIP.FCVEC_STO (d : Nat) (k : Nat) : RF := ⟨TRIP.FCVEC d k, 31, 1⟩
def TRIP.FCVEC_PARITY (d : Nat) (k : Nat) : RF := ⟨TRIP.FCVEC d k, 30, 1⟩
def TRIP.FCVEC_CLE (d : Nat) (k : Nat) : RF := ⟨TRIP.FCVEC d k, 28, 2⟩
def TRIP.FCVEC_TRIP (d : Nat) (k : Nat) : RF := ⟨TRIP.FCVEC d k, 24, 4⟩
def TRIP.FCVEC_PORTSRC (d : Nat) (k : Nat) : RF := ⟨TRIP.FCVEC d k, 16, 7⟩
def TRIP.FCVEC_CMP (d : Nat) (k : Nat) : RF := ⟨TRIP.FCVEC d k, 0, 16⟩
def TRIP.TGCFG (d : Nat) (k : Nat) : Nat := (d * 0x1000000 + 0x40000000) + 0x130000 + 0x100 * k
def TRIP.TGCFG_EN_SEL (d : Nat) (k : Nat) : RF := ⟨TRIP.TGCFG d k, 8, 4⟩
def TRIP.TGCFG_FLT_SC_OPEN (d : Nat) (k : Nat) : RF := ⟨TRIP.TGCFG d k, 5, 1⟩
def TRIP.TGCFG_FLT_EARLY (d : Nat) (k : Nat) : RF := ⟨TRIP.TGCFG d k, 4, 1⟩
def TRIP.TGCFG_SUP_SEL (d : Nat) (k : Nat) : RF := ⟨TRIP.TGCFG d k, 2, 2⟩
def TRIP.TGCFG_SAFE (d : Nat) (k : Nat) : RF := ⟨TRIP.TGCFG d k, 0, 2⟩
def TRIP.SRCMASK (d : Nat) (k : Nat) : Nat := (d * 0x1000000 + 0x40000000) + 0x130004 + 0x100 * k
def TRIP.SRCMASK_STO (d : Nat) (k : Nat) : RF := ⟨TRIP.SRCMASK d k, 31, 1⟩
def TRIP.SRCMASK_PARITY (d : Nat) (k : Nat) : RF := ⟨TRIP.SRCMASK d k, 30, 1⟩
def TRIP.SRCMASK_CLE (d : Nat) (k : Nat) : RF := ⟨TRIP.SRCMASK d k, 28, 2⟩
def TRIP.SRCMASK_TRIP (d : Nat) (k : Nat) : RF := ⟨TRIP.SRCMASK d k, 24, 4⟩
def TRIP.SRCMASK_PORTSRC (d : Nat) (k : Nat) : RF := ⟨TRIP.SRCMASK d k, 16, 7⟩
def TRIP.SRCMASK_CMP (d : Nat) (k : Nat) : RF := ⟨TRIP.SRCMASK d k, 0, 16⟩
def TRIP.TGCTL (d : Nat) (k : Nat) : Nat := (d * 0x1000000 + 0x40000000) + 0x130008 + 0x100 * k
def TRIP.TGCTL_TG_MODE (d : Nat) (k : Nat) : RF := ⟨TRIP.TGCTL d k, 0, 2⟩
def TRIP.TGSTAT (d : Nat) (k : Nat) : Nat := (d * 0x1000000 + 0x40000000) + 0x13000C + 0x100 * k
def TRIP.TGSTAT_TRIP_CNT (d : Nat) (k : Nat) : RF := ⟨TRIP.TGSTAT d k, 16, 16⟩
def TRIP.TGSTAT_FC_NUM (d : Nat) (k : Nat) : RF := ⟨TRIP.TGSTAT d k, 8, 8⟩
def TRIP.TGSTAT_FC_OVF (d : Nat) (k : Nat) : RF := ⟨TRIP.TGSTAT d k, 4, 1⟩
def TRIP.TGSTAT_TG_CFG_ERR (d : Nat) (k : Nat) : RF := ⟨TRIP.TGSTAT d k, 3, 1⟩
def TRIP.TGSTAT_TRIP_CLR_REJ (d : Nat) (k : Nat) : RF := ⟨TRIP.TGSTAT d k, 2, 1⟩
def TRIP.TGSTAT_ASC_ACT (d : Nat) (k : Nat) : RF := ⟨TRIP.TGSTAT d k, 1, 1⟩
def TRIP.TGSTAT_TRIPPED (d : Nat) (k : Nat) : RF := ⟨TRIP.TGSTAT d k, 0, 1⟩
def TRIP.FCTIME_LO (d : Nat) (k : Nat) : Nat := (d * 0x1000000 + 0x40000000) + 0x130018 + 0x100 * k
def TRIP.FCTIME_LO_FCT_LO (d : Nat) (k : Nat) : RF := ⟨TRIP.FCTIME_LO d k, 0, 32⟩
def TRIP.FCTIME_HI (d : Nat) (k : Nat) : Nat := (d * 0x1000000 + 0x40000000) + 0x13001C + 0x100 * k
def TRIP.FCTIME_HI_FCT_HI (d : Nat) (k : Nat) : RF := ⟨TRIP.FCTIME_HI d k, 0, 16⟩
def TRIP.FCENT (d : Nat) (k : Nat) (i : Nat) : Nat := (d * 0x1000000 + 0x40000000) + 0x130020 + 0x100 * k + 0x4 * i
def TRIP.FCENT_VALID (d : Nat) (k : Nat) (i : Nat) : RF := ⟨TRIP.FCENT d k i, 31, 1⟩
def TRIP.FCENT_SRC (d : Nat) (k : Nat) (i : Nat) : RF := ⟨TRIP.FCENT d k i, 8, 6⟩
def TRIP.FCENT_PORT (d : Nat) (k : Nat) (i : Nat) : RF := ⟨TRIP.FCENT d k i, 0, 3⟩
def TRIP.CSRC (d : Nat) (k : Nat) : Nat := (d * 0x1000000 + 0x40000000) + 0x130200 + 0x4 * k
def TRIP.CSRC_CUFF_OK (d : Nat) (k : Nat) : RF := ⟨TRIP.CSRC d k, 20, 1⟩
def TRIP.CSRC_PARTNER (d : Nat) (k : Nat) : RF := ⟨TRIP.CSRC d k, 16, 4⟩
def TRIP.CSRC_CUFF (d : Nat) (k : Nat) : RF := ⟨TRIP.CSRC d k, 4, 10⟩
def TRIP.CSRC_FORCE_OPEN (d : Nat) (k : Nat) : RF := ⟨TRIP.CSRC d k, 3, 1⟩
def TRIP.CSRC_PORT (d : Nat) (k : Nat) : RF := ⟨TRIP.CSRC d k, 0, 3⟩
def TRIP.TTIME_LO (d : Nat) : Nat := (d * 0x1000000 + 0x40000000) + 0x130300
def TRIP.TTIME_LO_TT_LO (d : Nat) : RF := ⟨TRIP.TTIME_LO d, 0, 32⟩
def TRIP.TTIME_HI (d : Nat) : Nat := (d * 0x1000000 + 0x40000000) + 0x130304
def TRIP.TTIME_HI_TT_HI (d : Nat) : RF := ⟨TRIP.TTIME_HI d, 0, 16⟩
def TRIP.TRIPIN (d : Nat) : Nat := (d * 0x1000000 + 0x40000000) + 0x130308
def TRIP.TRIPIN_FILT (d : Nat) : RF := ⟨TRIP.TRIPIN d, 8, 8⟩
def TRIP.TRIPIN_POL (d : Nat) : RF := ⟨TRIP.TRIPIN d, 0, 4⟩
def TRIP.PINSTAT (d : Nat) : Nat := (d * 0x1000000 + 0x40000000) + 0x13030C
def TRIP.PINSTAT_EN_LVL (d : Nat) : RF := ⟨TRIP.PINSTAT d, 4, 4⟩
def TRIP.PINSTAT_TRIP_LVL (d : Nat) : RF := ⟨TRIP.PINSTAT d, 0, 4⟩
def TRIP.MEMBERS (d : Nat) : Nat := (d * 0x1000000 + 0x40000000) + 0x130310
def TRIP.MEMBERS_MEMB1 (d : Nat) : RF := ⟨TRIP.MEMBERS d, 0, 7⟩

/-! ### ADC : ADC cores (chapter 6) -/
def ADC.ACFG (d : Nat) (j : Nat) : Nat := (d * 0x1000000 + 0x40000000) + 0x140000 + 0x4000 * j
def ADC.ACFG_FWD_N (d : Nat) (j : Nat) : RF := ⟨ADC.ACFG d j, 6, 1⟩
def ADC.ACFG_CLE_DST (d : Nat) (j : Nat) : RF := ⟨ADC.ACFG d j, 4, 2⟩
def ADC.ACFG_RES (d : Nat) (j : Nat) : RF := ⟨ADC.ACFG d j, 2, 2⟩
def ADC.ACFG_ALIGN (d : Nat) (j : Nat) : RF := ⟨ADC.ACFG d j, 1, 1⟩
def ADC.ACFG_EN (d : Nat) (j : Nat) : RF := ⟨ADC.ACFG d j, 0, 1⟩
def ADC.SEQCFG (d : Nat) (j : Nat) : Nat := (d * 0x1000000 + 0x40000000) + 0x140004 + 0x4000 * j
def ADC.SEQCFG_INJ_TRIG (d : Nat) (j : Nat) : RF := ⟨ADC.SEQCFG d j, 20, 4⟩
def ADC.SEQCFG_REG_TRIG (d : Nat) (j : Nat) : RF := ⟨ADC.SEQCFG d j, 16, 4⟩
def ADC.SEQCFG_INJ_LEN (d : Nat) (j : Nat) : RF := ⟨ADC.SEQCFG d j, 8, 3⟩
def ADC.SEQCFG_REG_LEN (d : Nat) (j : Nat) : RF := ⟨ADC.SEQCFG d j, 0, 5⟩
def ADC.RTRIG (d : Nat) (j : Nat) : Nat := (d * 0x1000000 + 0x40000000) + 0x140008 + 0x4000 * j
def ADC.RTRIG_CMP (d : Nat) (j : Nat) : RF := ⟨ADC.RTRIG d j, 20, 4⟩
def ADC.RTRIG_CNT (d : Nat) (j : Nat) : RF := ⟨ADC.RTRIG d j, 0, 20⟩
def ADC.ITRIG (d : Nat) (j : Nat) : Nat := (d * 0x1000000 + 0x40000000) + 0x14000C + 0x4000 * j
def ADC.ITRIG_CMP (d : Nat) (j : Nat) : RF := ⟨ADC.ITRIG d j, 20, 4⟩
def ADC.ITRIG_CNT (d : Nat) (j : Nat) : RF := ⟨ADC.ITRIG d j, 0, 20⟩
def ADC.ACTL (d : Nat) (j : Nat) : Nat := (d * 0x1000000 + 0x40000000) + 0x140010 + 0x4000 * j
def ADC.ACTL_SW_INJ (d : Nat) (j : Nat) : RF := ⟨ADC.ACTL d j, 1, 1⟩
def ADC.ACTL_SW_REG (d : Nat) (j : Nat) : RF := ⟨ADC.ACTL d j, 0, 1⟩
def ADC.ASTAT (d : Nat) (j : Nat) : Nat := (d * 0x1000000 + 0x40000000) + 0x140014 + 0x4000 * j
def ADC.ASTAT_LOST_CNT (d : Nat) (j : Nat) : RF := ⟨ADC.ASTAT d j, 16, 16⟩
def ADC.ASTAT_CUR_ENTRY (d : Nat) (j : Nat) : RF := ⟨ADC.ASTAT d j, 12, 4⟩
def ADC.ASTAT_RETIRED (d : Nat) (j : Nat) : RF := ⟨ADC.ASTAT d j, 11, 1⟩
def ADC.ASTAT_REG_BUSY (d : Nat) (j : Nat) : RF := ⟨ADC.ASTAT d j, 10, 1⟩
def ADC.ASTAT_INJ_BUSY (d : Nat) (j : Nat) : RF := ⟨ADC.ASTAT d j, 9, 1⟩
def ADC.ASTAT_PREEMPT (d : Nat) (j : Nat) : RF := ⟨ADC.ASTAT d j, 5, 1⟩
def ADC.ASTAT_REG_LATE (d : Nat) (j : Nat) : RF := ⟨ADC.ASTAT d j, 4, 1⟩
def ADC.ASTAT_INJ_LOST (d : Nat) (j : Nat) : RF := ⟨ADC.ASTAT d j, 3, 1⟩
def ADC.ASTAT_TRIG_LOST (d : Nat) (j : Nat) : RF := ⟨ADC.ASTAT d j, 2, 1⟩
def ADC.ASTAT_SEQ_EMPTY (d : Nat) (j : Nat) : RF := ⟨ADC.ASTAT d j, 0, 2⟩
def ADC.ACAL_SE (d : Nat) (j : Nat) : Nat := (d * 0x1000000 + 0x40000000) + 0x140020 + 0x4000 * j
def ADC.ACAL_SE_GAIN (d : Nat) (j : Nat) : RF := ⟨ADC.ACAL_SE d j, 16, 16⟩
def ADC.ACAL_SE_OFFS (d : Nat) (j : Nat) : RF := ⟨ADC.ACAL_SE d j, 0, 16⟩
def ADC.ACAL_DIFF (d : Nat) (j : Nat) : Nat := (d * 0x1000000 + 0x40000000) + 0x140024 + 0x4000 * j
def ADC.ACAL_DIFF_GAIN (d : Nat) (j : Nat) : RF := ⟨ADC.ACAL_DIFF d j, 16, 16⟩
def ADC.ACAL_DIFF_OFFS (d : Nat) (j : Nat) : RF := ⟨ADC.ACAL_DIFF d j, 0, 16⟩
def ADC.RENT (d : Nat) (j : Nat) (k : Nat) : Nat := (d * 0x1000000 + 0x40000000) + 0x140040 + 0x4000 * j + 0x4 * k
def ADC.RENT_DEC (d : Nat) (j : Nat) (k : Nat) : RF := ⟨ADC.RENT d j k, 8, 1⟩
def ADC.RENT_SEL (d : Nat) (j : Nat) (k : Nat) : RF := ⟨ADC.RENT d j k, 0, 5⟩
def ADC.IENT (d : Nat) (j : Nat) (k : Nat) : Nat := (d * 0x1000000 + 0x40000000) + 0x140080 + 0x4000 * j + 0x4 * k
def ADC.IENT_DEC (d : Nat) (j : Nat) (k : Nat) : RF := ⟨ADC.IENT d j k, 8, 1⟩
def ADC.IENT_SEL (d : Nat) (j : Nat) (k : Nat) : RF := ⟨ADC.IENT d j k, 0, 5⟩
def ADC.RRES (d : Nat) (j : Nat) (k : Nat) : Nat := (d * 0x1000000 + 0x40000000) + 0x140100 + 0x4000 * j + 0x4 * k
def ADC.RRES_RESULT (d : Nat) (j : Nat) (k : Nat) : RF := ⟨ADC.RRES d j k, 0, 32⟩
def ADC.IRES (d : Nat) (j : Nat) (k : Nat) : Nat := (d * 0x1000000 + 0x40000000) + 0x140140 + 0x4000 * j + 0x4 * k
def ADC.IRES_RESULT (d : Nat) (j : Nat) (k : Nat) : RF := ⟨ADC.IRES d j k, 0, 32⟩

/-! ### CMP : comparators (chapter 6) -/
def CMP.CCFG (d : Nat) (k : Nat) : Nat := (d * 0x1000000 + 0x40000000) + 0x150000 + 0x40 * k
def CMP.CCFG_EN (d : Nat) (k : Nat) : RF := ⟨CMP.CCFG d k, 17, 1⟩
def CMP.CCFG_CAP_EDGE (d : Nat) (k : Nat) : RF := ⟨CMP.CCFG d k, 15, 2⟩
def CMP.CCFG_WAKE_EN (d : Nat) (k : Nat) : RF := ⟨CMP.CCFG d k, 14, 1⟩
def CMP.CCFG_IRQ_EN (d : Nat) (k : Nat) : RF := ⟨CMP.CCFG d k, 13, 1⟩
def CMP.CCFG_TRIP_LAT (d : Nat) (k : Nat) : RF := ⟨CMP.CCFG d k, 12, 1⟩
def CMP.CCFG_CGRP (d : Nat) (k : Nat) : RF := ⟨CMP.CCFG d k, 10, 2⟩
def CMP.CCFG_LAT_MODE (d : Nat) (k : Nat) : RF := ⟨CMP.CCFG d k, 8, 2⟩
def CMP.CCFG_INIT (d : Nat) (k : Nat) : RF := ⟨CMP.CCFG d k, 7, 1⟩
def CMP.CCFG_INV (d : Nat) (k : Nat) : RF := ⟨CMP.CCFG d k, 6, 1⟩
def CMP.CCFG_MODE (d : Nat) (k : Nat) : RF := ⟨CMP.CCFG d k, 4, 2⟩
def CMP.CCFG_INSEL (d : Nat) (k : Nat) : RF := ⟨CMP.CCFG d k, 0, 4⟩
def CMP.CTHR (d : Nat) (k : Nat) : Nat := (d * 0x1000000 + 0x40000000) + 0x150004 + 0x40 * k
def CMP.CTHR_HYST (d : Nat) (k : Nat) : RF := ⟨CMP.CTHR d k, 16, 10⟩
def CMP.CTHR_THRESH (d : Nat) (k : Nat) : RF := ⟨CMP.CTHR d k, 0, 12⟩
def CMP.CSTAT (d : Nat) (k : Nat) : Nat := (d * 0x1000000 + 0x40000000) + 0x150008 + 0x40 * k
def CMP.CSTAT_EDGE_CNT (d : Nat) (k : Nat) : RF := ⟨CMP.CSTAT d k, 16, 16⟩
def CMP.CSTAT_CHK_ACT (d : Nat) (k : Nat) : RF := ⟨CMP.CSTAT d k, 6, 1⟩
def CMP.CSTAT_CHK_REJ (d : Nat) (k : Nat) : RF := ⟨CMP.CSTAT d k, 5, 1⟩
def CMP.CSTAT_CHK_OUT (d : Nat) (k : Nat) : RF := ⟨CMP.CSTAT d k, 4, 1⟩
def CMP.CSTAT_INBAND_AT_START (d : Nat) (k : Nat) : RF := ⟨CMP.CSTAT d k, 3, 1⟩
def CMP.CSTAT_SETTLING (d : Nat) (k : Nat) : RF := ⟨CMP.CSTAT d k, 2, 1⟩
def CMP.CSTAT_LAT (d : Nat) (k : Nat) : RF := ⟨CMP.CSTAT d k, 1, 1⟩
def CMP.CSTAT_OUT (d : Nat) (k : Nat) : RF := ⟨CMP.CSTAT d k, 0, 1⟩
def CMP.CTEST (d : Nat) (k : Nat) : Nat := (d * 0x1000000 + 0x40000000) + 0x15000C + 0x40 * k
def CMP.CTEST_CHK (d : Nat) (k : Nat) : RF := ⟨CMP.CTEST d k, 0, 3⟩
def CMP.CCAPT (d : Nat) (k : Nat) : Nat := (d * 0x1000000 + 0x40000000) + 0x150010 + 0x40 * k
def CMP.CCAPT_CAP_T (d : Nat) (k : Nat) : RF := ⟨CMP.CCAPT d k, 0, 32⟩
def CMP.CCAPC (d : Nat) (k : Nat) : Nat := (d * 0x1000000 + 0x40000000) + 0x150014 + 0x40 * k
def CMP.CCAPC_CAP_NEW (d : Nat) (k : Nat) : RF := ⟨CMP.CCAPC d k, 31, 1⟩
def CMP.CCAPC_CAP_RISE (d : Nat) (k : Nat) : RF := ⟨CMP.CCAPC d k, 30, 1⟩
def CMP.CCAPC_CAP_DIR (d : Nat) (k : Nat) : RF := ⟨CMP.CCAPC d k, 20, 1⟩
def CMP.CCAPC_CAP_CNT (d : Nat) (k : Nat) : RF := ⟨CMP.CCAPC d k, 0, 20⟩

/-! ### PI : position interfaces (chapter 6) -/
def PI.PICFG (d : Nat) (j : Nat) : Nat := (d * 0x1000000 + 0x40000000) + 0x160000 + 0x4000 * j
def PI.PICFG_FILT (d : Nat) (j : Nat) : RF := ⟨PI.PICFG d j, 12, 4⟩
def PI.PICFG_ZRST (d : Nat) (j : Nat) : RF := ⟨PI.PICFG d j, 10, 1⟩
def PI.PICFG_EXC_DIV (d : Nat) (j : Nat) : RF := ⟨PI.PICFG d j, 4, 6⟩
def PI.PICFG_GRP (d : Nat) (j : Nat) : RF := ⟨PI.PICFG d j, 2, 2⟩
def PI.PICFG_TYPE (d : Nat) (j : Nat) : RF := ⟨PI.PICFG d j, 1, 1⟩
def PI.PICFG_EN (d : Nat) (j : Nat) : RF := ⟨PI.PICFG d j, 0, 1⟩
def PI.PISRC (d : Nat) (j : Nat) : Nat := (d * 0x1000000 + 0x40000000) + 0x160004 + 0x4000 * j
def PI.PISRC_EXC_DLY (d : Nat) (j : Nat) : RF := ⟨PI.PISRC d j, 16, 16⟩
def PI.PISRC_COS_ENT (d : Nat) (j : Nat) : RF := ⟨PI.PISRC d j, 10, 4⟩
def PI.PISRC_COS_CORE (d : Nat) (j : Nat) : RF := ⟨PI.PISRC d j, 8, 2⟩
def PI.PISRC_SIN_ENT (d : Nat) (j : Nat) : RF := ⟨PI.PISRC d j, 2, 4⟩
def PI.PISRC_SIN_CORE (d : Nat) (j : Nat) : RF := ⟨PI.PISRC d j, 0, 2⟩
def PI.PIGAIN (d : Nat) (j : Nat) : Nat := (d * 0x1000000 + 0x40000000) + 0x160008 + 0x4000 * j
def PI.PIGAIN_KI (d : Nat) (j : Nat) : RF := ⟨PI.PIGAIN d j, 16, 16⟩
def PI.PIGAIN_KP (d : Nat) (j : Nat) : RF := ⟨PI.PIGAIN d j, 0, 16⟩
def PI.PICPR (d : Nat) (j : Nat) : Nat := (d * 0x1000000 + 0x40000000) + 0x16000C + 0x4000 * j
def PI.PICPR_CPR (d : Nat) (j : Nat) : RF := ⟨PI.PICPR d j, 0, 24⟩
def PI.PIAMP (d : Nat) (j : Nat) : Nat := (d * 0x1000000 + 0x40000000) + 0x160010 + 0x4000 * j
def PI.PIAMP_AMP_MAX (d : Nat) (j : Nat) : RF := ⟨PI.PIAMP d j, 16, 16⟩
def PI.PIAMP_AMP_MIN (d : Nat) (j : Nat) : RF := ⟨PI.PIAMP d j, 0, 16⟩
def PI.PIANG (d : Nat) (j : Nat) : Nat := (d * 0x1000000 + 0x40000000) + 0x160014 + 0x4000 * j
def PI.PIANG_SPEED (d : Nat) (j : Nat) : RF := ⟨PI.PIANG d j, 16, 16⟩
def PI.PIANG_ANGLE (d : Nat) (j : Nat) : RF := ⟨PI.PIANG d j, 0, 16⟩
def PI.PIPOS (d : Nat) (j : Nat) : Nat := (d * 0x1000000 + 0x40000000) + 0x160018 + 0x4000 * j
def PI.PIPOS_POS (d : Nat) (j : Nat) : RF := ⟨PI.PIPOS d j, 0, 32⟩
def PI.PIZCAP (d : Nat) (j : Nat) : Nat := (d * 0x1000000 + 0x40000000) + 0x16001C + 0x4000 * j
def PI.PIZCAP_ZCAP (d : Nat) (j : Nat) : RF := ⟨PI.PIZCAP d j, 0, 32⟩
def PI.PISTAT (d : Nat) (j : Nat) : Nat := (d * 0x1000000 + 0x40000000) + 0x160020 + 0x4000 * j
def PI.PISTAT_ERR_CNT (d : Nat) (j : Nat) : RF := ⟨PI.PISTAT d j, 16, 16⟩
def PI.PISTAT_MISS (d : Nat) (j : Nat) : RF := ⟨PI.PISTAT d j, 4, 1⟩
def PI.PISTAT_CPR_ERR (d : Nat) (j : Nat) : RF := ⟨PI.PISTAT d j, 3, 1⟩
def PI.PISTAT_Z_SEEN (d : Nat) (j : Nat) : RF := ⟨PI.PISTAT d j, 2, 1⟩
def PI.PISTAT_ENC_ERR (d : Nat) (j : Nat) : RF := ⟨PI.PISTAT d j, 1, 1⟩
def PI.PISTAT_LOS (d : Nat) (j : Nat) : RF := ⟨PI.PISTAT d j, 0, 1⟩
def PI.PIAMPS (d : Nat) (j : Nat) : Nat := (d * 0x1000000 + 0x40000000) + 0x160024 + 0x4000 * j
def PI.PIAMPS_AMP (d : Nat) (j : Nat) : RF := ⟨PI.PIAMPS d j, 0, 16⟩

/-! ### CLE : control-law engines (chapter 7) -/
def CLE.CLECFG (d : Nat) (j : Nat) : Nat := (d * 0x1000000 + 0x40000000) + 0x170000 + 0x4000 * j
def CLE.CLECFG_RPT_EN (d : Nat) (j : Nat) : RF := ⟨CLE.CLECFG d j, 20, 1⟩
def CLE.CLECFG_START (d : Nat) (j : Nat) : RF := ⟨CLE.CLECFG d j, 4, 16⟩
def CLE.CLECFG_SCHED (d : Nat) (j : Nat) : RF := ⟨CLE.CLECFG d j, 1, 2⟩
def CLE.CLECFG_EN (d : Nat) (j : Nat) : RF := ⟨CLE.CLECFG d j, 0, 1⟩
def CLE.FLAGS (d : Nat) (j : Nat) : Nat := (d * 0x1000000 + 0x40000000) + 0x170004 + 0x4000 * j
def CLE.FLAGS_OVR_CNT (d : Nat) (j : Nat) : RF := ⟨CLE.FLAGS d j, 16, 16⟩
def CLE.FLAGS_RETIRED (d : Nat) (j : Nat) : RF := ⟨CLE.FLAGS d j, 9, 1⟩
def CLE.FLAGS_RUNNING (d : Nat) (j : Nat) : RF := ⟨CLE.FLAGS d j, 8, 1⟩
def CLE.FLAGS_CONFLICT (d : Nat) (j : Nat) : RF := ⟨CLE.FLAGS d j, 7, 1⟩
def CLE.FLAGS_ST_ERR (d : Nat) (j : Nat) : RF := ⟨CLE.FLAGS d j, 6, 1⟩
def CLE.FLAGS_CLE_WR_REJ (d : Nat) (j : Nat) : RF := ⟨CLE.FLAGS d j, 5, 1⟩
def CLE.FLAGS_ILL_OP (d : Nat) (j : Nat) : RF := ⟨CLE.FLAGS d j, 4, 1⟩
def CLE.FLAGS_ECC_UE (d : Nat) (j : Nat) : RF := ⟨CLE.FLAGS d j, 3, 1⟩
def CLE.FLAGS_CFG_ERR (d : Nat) (j : Nat) : RF := ⟨CLE.FLAGS d j, 2, 1⟩
def CLE.FLAGS_CLE_OVERRUN (d : Nat) (j : Nat) : RF := ⟨CLE.FLAGS d j, 0, 1⟩
def CLE.CYC (d : Nat) (j : Nat) : Nat := (d * 0x1000000 + 0x40000000) + 0x170008 + 0x4000 * j
def CLE.CYC_LAST_CYC (d : Nat) (j : Nat) : RF := ⟨CLE.CYC d j, 16, 16⟩
def CLE.CYC_MAX_CYC (d : Nat) (j : Nat) : RF := ⟨CLE.CYC d j, 0, 16⟩
def CLE.ECC (d : Nat) (j : Nat) : Nat := (d * 0x1000000 + 0x40000000) + 0x17000C + 0x4000 * j
def CLE.ECC_ECC_CNT (d : Nat) (j : Nat) : RF := ⟨CLE.ECC d j, 16, 16⟩
def CLE.ECC_UE_MEM (d : Nat) (j : Nat) : RF := ⟨CLE.ECC d j, 12, 2⟩
def CLE.ECC_UE_ADDR (d : Nat) (j : Nat) : RF := ⟨CLE.ECC d j, 0, 12⟩
def CLE.REPORT (d : Nat) (j : Nat) (k : Nat) : Nat := (d * 0x1000000 + 0x40000000) + 0x170040 + 0x4000 * j + 0x4 * k
def CLE.REPORT_VALUE (d : Nat) (j : Nat) (k : Nat) : RF := ⟨CLE.REPORT d j k, 0, 32⟩
def CLE.CWP (d : Nat) (j : Nat) (k : Nat) : Nat := (d * 0x1000000 + 0x40000000) + 0x170400 + 0x4000 * j + 0x4 * k
def CLE.CWP_PEND (d : Nat) (j : Nat) (k : Nat) : RF := ⟨CLE.CWP d j k, 0, 32⟩
def CLE.CWC (d : Nat) (j : Nat) (k : Nat) : Nat := (d * 0x1000000 + 0x40000000) + 0x170500 + 0x4000 * j + 0x4 * k
def CLE.CWC_COMM (d : Nat) (j : Nat) (k : Nat) : RF := ⟨CLE.CWC d j k, 0, 32⟩
def CLE.CW_COMMIT (d : Nat) (j : Nat) : Nat := (d * 0x1000000 + 0x40000000) + 0x170600 + 0x4000 * j
def CLE.CW_COMMIT_CW_TAKEN (d : Nat) (j : Nat) : RF := ⟨CLE.CW_COMMIT d j, 24, 8⟩
def CLE.CW_COMMIT_COMMIT (d : Nat) (j : Nat) : RF := ⟨CLE.CW_COMMIT d j, 0, 1⟩

/-! ### GSU : grid synchronisation unit (chapter 8) -/
def GSU.GCFG (d : Nat) : Nat := (d * 0x1000000 + 0x40000000) + 0x1B0000
def GSU.GCFG_GGRP (d : Nat) : RF := ⟨GSU.GCFG d, 6, 2⟩
def GSU.GCFG_FNOM (d : Nat) : RF := ⟨GSU.GCFG d, 4, 1⟩
def GSU.GCFG_VTYPE (d : Nat) : RF := ⟨GSU.GCFG d, 3, 1⟩
def GSU.GCFG_BRIDGES (d : Nat) : RF := ⟨GSU.GCFG d, 1, 2⟩
def GSU.GCFG_GRID_EN (d : Nat) : RF := ⟨GSU.GCFG d, 0, 1⟩
def GSU.VSRC (d : Nat) : Nat := (d * 0x1000000 + 0x40000000) + 0x1B0004
def GSU.VSRC_VSRC (d : Nat) : RF := ⟨GSU.VSRC d, 0, 22⟩
def GSU.ISRC (d : Nat) : Nat := (d * 0x1000000 + 0x40000000) + 0x1B0008
def GSU.ISRC_ISRC (d : Nat) : RF := ⟨GSU.ISRC d, 0, 22⟩
def GSU.VGAIN (d : Nat) : Nat := (d * 0x1000000 + 0x40000000) + 0x1B000C
def GSU.VGAIN_VGAIN (d : Nat) : RF := ⟨GSU.VGAIN d, 0, 32⟩
def GSU.IGAIN (d : Nat) : Nat := (d * 0x1000000 + 0x40000000) + 0x1B0010
def GSU.IGAIN_IGAIN (d : Nat) : RF := ⟨GSU.IGAIN d, 0, 32⟩
def GSU.VLOCK (d : Nat) : Nat := (d * 0x1000000 + 0x40000000) + 0x1B0014
def GSU.VLOCK_VLOCK (d : Nat) : RF := ⟨GSU.VLOCK d, 0, 16⟩
def GSU.PROBE (d : Nat) : Nat := (d * 0x1000000 + 0x40000000) + 0x1B0018
def GSU.PROBE_PN (d : Nat) : RF := ⟨GSU.PROBE d, 16, 8⟩
def GSU.PROBE_PD (d : Nat) : RF := ⟨GSU.PROBE d, 8, 4⟩
def GSU.PROBE_PAMP (d : Nat) : RF := ⟨GSU.PROBE d, 0, 8⟩
def GSU.ZTH (d : Nat) : Nat := (d * 0x1000000 + 0x40000000) + 0x1B001C
def GSU.ZTH_ZTH (d : Nat) : RF := ⟨GSU.ZTH d, 0, 32⟩
def GSU.ISLCFG (d : Nat) : Nat := (d * 0x1000000 + 0x40000000) + 0x1B0020
def GSU.ISLCFG_PROBE_EN (d : Nat) : RF := ⟨GSU.ISLCFG d, 12, 1⟩
def GSU.ISLCFG_PFAIL_ACT (d : Nat) : RF := ⟨GSU.ISLCFG d, 11, 1⟩
def GSU.ISLCFG_FS_EN (d : Nat) : RF := ⟨GSU.ISLCFG d, 10, 1⟩
def GSU.ISLCFG_VS_EN (d : Nat) : RF := ⟨GSU.ISLCFG d, 9, 1⟩
def GSU.ISLCFG_ROCOF_EN (d : Nat) : RF := ⟨GSU.ISLCFG d, 8, 1⟩
def GSU.ISLCFG_ROCOF_N (d : Nat) : RF := ⟨GSU.ISLCFG d, 4, 4⟩
def GSU.ISLCFG_ISL_N (d : Nat) : RF := ⟨GSU.ISLCFG d, 0, 4⟩
def GSU.ROCOF_TH (d : Nat) : Nat := (d * 0x1000000 + 0x40000000) + 0x1B0024
def GSU.ROCOF_TH_ROCOF_TH (d : Nat) : RF := ⟨GSU.ROCOF_TH d, 0, 32⟩
def GSU.VS_TH (d : Nat) : Nat := (d * 0x1000000 + 0x40000000) + 0x1B0028
def GSU.VS_TH_VS_TH (d : Nat) : RF := ⟨GSU.VS_TH d, 0, 16⟩
def GSU.FSCFG (d : Nat) : Nat := (d * 0x1000000 + 0x40000000) + 0x1B002C
def GSU.FSCFG_FS_MAX (d : Nat) : RF := ⟨GSU.FSCFG d, 16, 16⟩
def GSU.FSCFG_K_FS (d : Nat) : RF := ⟨GSU.FSCFG d, 0, 16⟩
def GSU.FREQ (d : Nat) : Nat := (d * 0x1000000 + 0x40000000) + 0x1B0040
def GSU.FREQ_FREQ (d : Nat) : RF := ⟨GSU.FREQ d, 0, 32⟩
def GSU.ROCOF (d : Nat) : Nat := (d * 0x1000000 + 0x40000000) + 0x1B0044
def GSU.ROCOF_ROCOF (d : Nat) : RF := ⟨GSU.ROCOF d, 0, 32⟩
def GSU.VSEQ (d : Nat) : Nat := (d * 0x1000000 + 0x40000000) + 0x1B0048
def GSU.VSEQ_VNEG (d : Nat) : RF := ⟨GSU.VSEQ d, 16, 16⟩
def GSU.VSEQ_VPOS (d : Nat) : RF := ⟨GSU.VSEQ d, 0, 16⟩
def GSU.VPH01 (d : Nat) : Nat := (d * 0x1000000 + 0x40000000) + 0x1B004C
def GSU.VPH01_VPH1 (d : Nat) : RF := ⟨GSU.VPH01 d, 16, 16⟩
def GSU.VPH01_VPH0 (d : Nat) : RF := ⟨GSU.VPH01 d, 0, 16⟩
def GSU.VPH2R (d : Nat) : Nat := (d * 0x1000000 + 0x40000000) + 0x1B0050
def GSU.VPH2R_VPH2 (d : Nat) : RF := ⟨GSU.VPH2R d, 0, 16⟩
def GSU.ANG (d : Nat) : Nat := (d * 0x1000000 + 0x40000000) + 0x1B0054
def GSU.ANG_ANG_N (d : Nat) : RF := ⟨GSU.ANG d, 16, 16⟩
def GSU.ANG_ANG_P (d : Nat) : RF := ⟨GSU.ANG d, 0, 16⟩
def GSU.JUMP (d : Nat) : Nat := (d * 0x1000000 + 0x40000000) + 0x1B0058
def GSU.JUMP_JUMP_CNT (d : Nat) : RF := ⟨GSU.JUMP d, 16, 16⟩
def GSU.JUMP_VSHIFT (d : Nat) : RF := ⟨GSU.JUMP d, 0, 16⟩
def GSU.ZMAG (d : Nat) : Nat := (d * 0x1000000 + 0x40000000) + 0x1B005C
def GSU.ZMAG_ZMAG (d : Nat) : RF := ⟨GSU.ZMAG d, 0, 32⟩
def GSU.GSTAT (d : Nat) : Nat := (d * 0x1000000 + 0x40000000) + 0x1B0060
def GSU.GSTAT_GCYC (d : Nat) : RF := ⟨GSU.GSTAT d, 24, 8⟩
def GSU.GSTAT_ISL_CNT (d : Nat) : RF := ⟨GSU.GSTAT d, 16, 4⟩
def GSU.GSTAT_GRID_CFG_ERR (d : Nat) : RF := ⟨GSU.GSTAT d, 13, 1⟩
def GSU.GSTAT_PROBE_CFG_ERR (d : Nat) : RF := ⟨GSU.GSTAT d, 12, 1⟩
def GSU.GSTAT_PROBE_FAIL (d : Nat) : RF := ⟨GSU.GSTAT d, 11, 1⟩
def GSU.GSTAT_PROBE_LOW (d : Nat) : RF := ⟨GSU.GSTAT d, 10, 1⟩
def GSU.GSTAT_PHASE_JUMP (d : Nat) : RF := ⟨GSU.GSTAT d, 9, 1⟩
def GSU.GSTAT_ISL_SRC (d : Nat) : RF := ⟨GSU.GSTAT d, 6, 3⟩
def GSU.GSTAT_ISLAND (d : Nat) : RF := ⟨GSU.GSTAT d, 5, 1⟩
def GSU.GSTAT_PROBE_DIE (d : Nat) : RF := ⟨GSU.GSTAT d, 4, 1⟩
def GSU.GSTAT_BLOCK (d : Nat) : RF := ⟨GSU.GSTAT d, 3, 1⟩
def GSU.GSTAT_GSU_FAIL (d : Nat) : RF := ⟨GSU.GSTAT d, 2, 1⟩
def GSU.GSTAT_COAST (d : Nat) : RF := ⟨GSU.GSTAT d, 1, 1⟩
def GSU.GSTAT_LOCKED (d : Nat) : RF := ⟨GSU.GSTAT d, 0, 1⟩

/-! ### RTS : ride-through supervisor (chapter 8) -/
def RTS.RTCFG (d : Nat) : Nat := (d * 0x1000000 + 0x40000000) + 0x1B4000
def RTS.RTCFG_RST_MS (d : Nat) : RF := ⟨RTS.RTCFG d, 16, 16⟩
def RTS.RTCFG_PJ_ACT (d : Nat) : RF := ⟨RTS.RTCFG d, 5, 2⟩
def RTS.RTCFG_NEG_EN (d : Nat) : RF := ⟨RTS.RTCFG d, 4, 1⟩
def RTS.RTCFG_DRC_EN (d : Nat) : RF := ⟨RTS.RTCFG d, 3, 1⟩
def RTS.RTCFG_MAY_ACT (d : Nat) : RF := ⟨RTS.RTCFG d, 1, 2⟩
def RTS.RTCFG_ARM (d : Nat) : RF := ⟨RTS.RTCFG d, 0, 1⟩
def RTS.DRC (d : Nat) : Nat := (d * 0x1000000 + 0x40000000) + 0x1B4004
def RTS.DRC_DB (d : Nat) : RF := ⟨RTS.DRC d, 16, 16⟩
def RTS.DRC_K_DRC (d : Nat) : RF := ⟨RTS.DRC d, 0, 16⟩
def RTS.NEG (d : Nat) : Nat := (d * 0x1000000 + 0x40000000) + 0x1B4008
def RTS.NEG_K_NEG (d : Nat) : RF := ⟨RTS.NEG d, 16, 16⟩
def RTS.NEG_IQ_MAX (d : Nat) : RF := ⟨RTS.NEG d, 0, 16⟩
def RTS.PJ_MAX (d : Nat) : Nat := (d * 0x1000000 + 0x40000000) + 0x1B400C
def RTS.PJ_MAX_PJ_MAX (d : Nat) : RF := ⟨RTS.PJ_MAX d, 0, 16⟩
def RTS.ILIM (d : Nat) : Nat := (d * 0x1000000 + 0x40000000) + 0x1B4010
def RTS.ILIM_ILIM (d : Nat) : RF := ⟨RTS.ILIM d, 0, 16⟩
def RTS.RCD (d : Nat) : Nat := (d * 0x1000000 + 0x40000000) + 0x1B4014
def RTS.RCD_GCON_DLY (d : Nat) : RF := ⟨RTS.RCD d, 16, 6⟩
def RTS.RCD_RC_DELAY (d : Nat) : RF := ⟨RTS.RCD d, 0, 16⟩
def RTS.RCV (d : Nat) : Nat := (d * 0x1000000 + 0x40000000) + 0x1B4018
def RTS.RCV_RC_VMAX (d : Nat) : RF := ⟨RTS.RCV d, 16, 16⟩
def RTS.RCV_RC_VMIN (d : Nat) : RF := ⟨RTS.RCV d, 0, 16⟩
def RTS.RCF (d : Nat) : Nat := (d * 0x1000000 + 0x40000000) + 0x1B401C
def RTS.RCF_RC_FMAX (d : Nat) : RF := ⟨RTS.RCF d, 16, 16⟩
def RTS.RCF_RC_FMIN (d : Nat) : RF := ⟨RTS.RCF d, 0, 16⟩
def RTS.RTCTL (d : Nat) : Nat := (d * 0x1000000 + 0x40000000) + 0x1B4020
def RTS.RTCTL_DISCONNECT (d : Nat) : RF := ⟨RTS.RTCTL d, 1, 1⟩
def RTS.RTCTL_CONNECT (d : Nat) : RF := ⟨RTS.RTCTL d, 0, 1⟩
def RTS.RTSTAT (d : Nat) : Nat := (d * 0x1000000 + 0x40000000) + 0x1B4040
def RTS.RTSTAT_GTRIP_CNT (d : Nat) : RF := ⟨RTS.RTSTAT d, 16, 16⟩
def RTS.RTSTAT_GCON_WELD (d : Nat) : RF := ⟨RTS.RTSTAT d, 14, 1⟩
def RTS.RTSTAT_CONN_REJ (d : Nat) : RF := ⟨RTS.RTSTAT d, 13, 1⟩
def RTS.RTSTAT_RT_WR_REJ (d : Nat) : RF := ⟨RTS.RTSTAT d, 12, 1⟩
def RTS.RTSTAT_RT_CFG_ERR (d : Nat) : RF := ⟨RTS.RTSTAT d, 11, 1⟩
def RTS.RTSTAT_GCON_CLOSED (d : Nat) : RF := ⟨RTS.RTSTAT d, 10, 1⟩
def RTS.RTSTAT_VOTE (d : Nat) : RF := ⟨RTS.RTSTAT d, 8, 2⟩
def RTS.RTSTAT_RC_READY (d : Nat) : RF := ⟨RTS.RTSTAT d, 7, 1⟩
def RTS.RTSTAT_TRIPPED (d : Nat) : RF := ⟨RTS.RTSTAT d, 6, 1⟩
def RTS.RTSTAT_SIDE (d : Nat) : RF := ⟨RTS.RTSTAT d, 4, 2⟩
def RTS.RTSTAT_REGION (d : Nat) : RF := ⟨RTS.RTSTAT d, 0, 3⟩
def RTS.TDIST (d : Nat) : Nat := (d * 0x1000000 + 0x40000000) + 0x1B4044
def RTS.TDIST_TDIST (d : Nat) : RF := ⟨RTS.TDIST d, 0, 32⟩
def RTS.RTOUT (d : Nat) : Nat := (d * 0x1000000 + 0x40000000) + 0x1B4048
def RTS.RTOUT_IN_RT (d : Nat) : RF := ⟨RTS.RTOUT d, 16, 16⟩
def RTS.RTOUT_IQ_RT (d : Nat) : RF := ⟨RTS.RTOUT d, 0, 16⟩
def RTS.RC_SEC (d : Nat) : Nat := (d * 0x1000000 + 0x40000000) + 0x1B404C
def RTS.RC_SEC_RC_SEC (d : Nat) : RF := ⟨RTS.RC_SEC d, 0, 16⟩

/-! ### CURVE : curve memory of the ride-through supervisor (R300) -/
def CURVE.HEAD (d : Nat) (k : Nat) : Nat := (d * 0x1000000 + 0x40000000) + 0x1C0000 + 0x100 * k
def CURVE.HEAD_NPTS (d : Nat) (k : Nat) : RF := ⟨CURVE.HEAD d k, 0, 5⟩
def CURVE.LEVEL (d : Nat) (k : Nat) (i : Nat) : Nat := (d * 0x1000000 + 0x40000000) + 0x1C0008 + 0x100 * k + 0x8 * i
def CURVE.LEVEL_LEVEL (d : Nat) (k : Nat) (i : Nat) : RF := ⟨CURVE.LEVEL d k i, 0, 16⟩
def CURVE.TIME (d : Nat) (k : Nat) (i : Nat) : Nat := (d * 0x1000000 + 0x40000000) + 0x1C000C + 0x100 * k + 0x8 * i
def CURVE.TIME_T (d : Nat) (k : Nat) (i : Nat) : RF := ⟨CURVE.TIME d k i, 0, 32⟩

/-! ### GCON : grid contactors (chapter 8) -/
def GCON.GCSTAT : Nat := 0x4C000000 + 0x60000
def GCON.GCSTAT_VOTES : RF := ⟨GCON.GCSTAT, 16, 16⟩
def GCON.GCSTAT_WELD : RF := ⟨GCON.GCSTAT, 4, 1⟩
def GCON.GCSTAT_GFB1 : RF := ⟨GCON.GCSTAT, 3, 1⟩
def GCON.GCSTAT_GFB0 : RF := ⟨GCON.GCSTAT, 2, 1⟩
def GCON.GCSTAT_GCON1 : RF := ⟨GCON.GCSTAT, 1, 1⟩
def GCON.GCSTAT_GCON0 : RF := ⟨GCON.GCSTAT, 0, 1⟩
def GCON.WR_PEND : Nat := 0x4C000000 + 0x60FFC
def GCON.WR_PEND_STALE : RF := ⟨GCON.WR_PEND, 31, 1⟩
def GCON.WR_PEND_WR_LOST : RF := ⟨GCON.WR_PEND, 30, 1⟩
def GCON.WR_PEND_PEND : RF := ⟨GCON.WR_PEND, 8, 1⟩
def GCON.WR_PEND_PEND_CNT : RF := ⟨GCON.WR_PEND, 0, 3⟩

/-! ### MP : metering points (chapter 9) -/
def MP.MCFG (u : Nat) : Nat := 0x48000000 + 0x80000 + 0x4000 * u
def MP.MCFG_DIE (u : Nat) : RF := ⟨MP.MCFG u, 4, 2⟩
def MP.MCFG_VTYPE (u : Nat) : RF := ⟨MP.MCFG u, 2, 1⟩
def MP.MCFG_TYPE (u : Nat) : RF := ⟨MP.MCFG u, 1, 1⟩
def MP.MCFG_EN (u : Nat) : RF := ⟨MP.MCFG u, 0, 1⟩
def MP.INTCFG (u : Nat) : Nat := 0x48000000 + 0x80004 + 0x4000 * u
def MP.INTCFG_INT_LEN (u : Nat) : RF := ⟨MP.INTCFG u, 0, 17⟩
def MP.NL_I (u : Nat) : Nat := 0x48000000 + 0x80008 + 0x4000 * u
def MP.NL_I_NL_I (u : Nat) : RF := ⟨MP.NL_I u, 0, 32⟩
def MP.NL_P (u : Nat) : Nat := 0x48000000 + 0x8000C + 0x4000 * u
def MP.NL_P_NL_P (u : Nat) : RF := ⟨MP.NL_P u, 0, 32⟩
def MP.MSTAT (u : Nat) : Nat := 0x48000000 + 0x80010 + 0x4000 * u
def MP.MSTAT_WIN_CNT (u : Nat) : RF := ⟨MP.MSTAT u, 16, 16⟩
def MP.MSTAT_FUND_VOID (u : Nat) : RF := ⟨MP.MSTAT u, 8, 1⟩
def MP.MSTAT_MP_CFG_ERR (u : Nat) : RF := ⟨MP.MSTAT u, 7, 1⟩
def MP.MSTAT_SRC_LOST (u : Nat) : RF := ⟨MP.MSTAT u, 6, 1⟩
def MP.MSTAT_NOLOAD (u : Nat) : RF := ⟨MP.MSTAT u, 4, 1⟩
def MP.MSTAT_OVR_SEEN (u : Nat) : RF := ⟨MP.MSTAT u, 3, 1⟩
def MP.MSTAT_MISS (u : Nat) : RF := ⟨MP.MSTAT u, 2, 1⟩
def MP.MSTAT_DIR (u : Nat) : RF := ⟨MP.MSTAT u, 1, 1⟩
def MP.MSTAT_RUN (u : Nat) : RF := ⟨MP.MSTAT u, 0, 1⟩
def MP.MCNT (u : Nat) : Nat := 0x48000000 + 0x80014 + 0x4000 * u
def MP.MCNT_MISS_CNT (u : Nat) : RF := ⟨MP.MCNT u, 16, 16⟩
def MP.MCNT_OVR_CNT (u : Nat) : RF := ⟨MP.MCNT u, 0, 16⟩
def MP.CHSEL (u : Nat) (k : Nat) : Nat := 0x48000000 + 0x80040 + 0x4000 * u + 0x10 * k
def MP.CHSEL_UNI (u : Nat) (k : Nat) : RF := ⟨MP.CHSEL u k, 6, 1⟩
def MP.CHSEL_ENTRY (u : Nat) (k : Nat) : RF := ⟨MP.CHSEL u k, 2, 4⟩
def MP.CHSEL_CORE (u : Nat) (k : Nat) : RF := ⟨MP.CHSEL u k, 0, 2⟩
def MP.CGAIN (u : Nat) (k : Nat) : Nat := 0x48000000 + 0x80044 + 0x4000 * u + 0x10 * k
def MP.CGAIN_CGAIN (u : Nat) (k : Nat) : RF := ⟨MP.CGAIN u k, 0, 32⟩
def MP.COFFS (u : Nat) (k : Nat) : Nat := 0x48000000 + 0x80048 + 0x4000 * u + 0x10 * k
def MP.COFFS_COFFS (u : Nat) (k : Nat) : RF := ⟨MP.COFFS u k, 0, 32⟩
def MP.CDLY (u : Nat) (k : Nat) : Nat := 0x48000000 + 0x8004C + 0x4000 * u + 0x10 * k
def MP.CDLY_CDLY (u : Nat) (k : Nat) : RF := ⟨MP.CDLY u k, 0, 16⟩
def MP.QGAIN (u : Nat) (k : Nat) : Nat := 0x48000000 + 0x80100 + 0x4000 * u + 0x8 * k
def MP.QGAIN_QGAIN (u : Nat) (k : Nat) : RF := ⟨MP.QGAIN u k, 0, 32⟩
def MP.QOFFS (u : Nat) (k : Nat) : Nat := 0x48000000 + 0x80104 + 0x4000 * u + 0x8 * k
def MP.QOFFS_QOFFS (u : Nat) (k : Nat) : RF := ⟨MP.QOFFS u k, 0, 32⟩
def MP.VRMS (u : Nat) (k : Nat) : Nat := 0x48000000 + 0x80200 + 0x4000 * u + 0x4 * k
def MP.VRMS_VAL (u : Nat) (k : Nat) : RF := ⟨MP.VRMS u k, 0, 32⟩
def MP.IRMS (u : Nat) (k : Nat) : Nat := 0x48000000 + 0x8020C + 0x4000 * u + 0x4 * k
def MP.IRMS_VAL (u : Nat) (k : Nat) : RF := ⟨MP.IRMS u k, 0, 32⟩
def MP.P (u : Nat) (k : Nat) : Nat := 0x48000000 + 0x80218 + 0x4000 * u + 0x4 * k
def MP.P_VAL (u : Nat) (k : Nat) : RF := ⟨MP.P u k, 0, 32⟩
def MP.Q (u : Nat) (k : Nat) : Nat := 0x48000000 + 0x80224 + 0x4000 * u + 0x4 * k
def MP.Q_VAL (u : Nat) (k : Nat) : RF := ⟨MP.Q u k, 0, 32⟩
def MP.S (u : Nat) (k : Nat) : Nat := 0x48000000 + 0x80230 + 0x4000 * u + 0x4 * k
def MP.S_VAL (u : Nat) (k : Nat) : RF := ⟨MP.S u k, 0, 32⟩
def MP.PF (u : Nat) (k : Nat) : Nat := 0x48000000 + 0x8023C + 0x4000 * u + 0x4 * k
def MP.PF_VAL (u : Nat) (k : Nat) : RF := ⟨MP.PF u k, 0, 16⟩
def MP.P1 (u : Nat) : Nat := 0x48000000 + 0x80248 + 0x4000 * u
def MP.P1_VAL (u : Nat) : RF := ⟨MP.P1 u, 0, 32⟩
def MP.Q1 (u : Nat) : Nat := 0x48000000 + 0x8024C + 0x4000 * u
def MP.Q1_VAL (u : Nat) : RF := ⟨MP.Q1 u, 0, 32⟩
def MP.WDUR (u : Nat) : Nat := 0x48000000 + 0x80250 + 0x4000 * u
def MP.WDUR_VAL (u : Nat) : RF := ⟨MP.WDUR u, 0, 32⟩
def MP.ACC_LO (u : Nat) (k : Nat) : Nat := 0x48000000 + 0x80400 + 0x4000 * u + 0x8 * k
def MP.ACC_LO_VAL (u : Nat) (k : Nat) : RF := ⟨MP.ACC_LO u k, 0, 32⟩
def MP.ACC_HI (u : Nat) (k : Nat) : Nat := 0x48000000 + 0x80404 + 0x4000 * u + 0x8 * k
def MP.ACC_HI_VAL (u : Nat) (k : Nat) : RF := ⟨MP.ACC_HI u k, 0, 32⟩
def MP.INTV (u : Nat) (k : Nat) : Nat := 0x48000000 + 0x80500 + 0x4000 * u + 0x4 * k
def MP.INTV_VAL (u : Nat) (k : Nat) : RF := ⟨MP.INTV u k, 0, 32⟩
def MP.INTV_WRAP (u : Nat) : Nat := 0x48000000 + 0x80540 + 0x4000 * u
def MP.INTV_WRAP_VAL (u : Nat) : RF := ⟨MP.INTV_WRAP u, 0, 13⟩
def MP.IW_CNT (u : Nat) (k : Nat) : Nat := 0x48000000 + 0x80544 + 0x4000 * u + 0x4 * k
def MP.IW_CNT_B0 (u : Nat) (k : Nat) : RF := ⟨MP.IW_CNT u k, 0, 8⟩
def MP.IW_CNT_B1 (u : Nat) (k : Nat) : RF := ⟨MP.IW_CNT u k, 8, 8⟩
def MP.IW_CNT_B2 (u : Nat) (k : Nat) : RF := ⟨MP.IW_CNT u k, 16, 8⟩
def MP.IW_CNT_B3 (u : Nat) (k : Nat) : RF := ⟨MP.IW_CNT u k, 24, 8⟩
def MP.ISTART (u : Nat) : Nat := 0x48000000 + 0x80560 + 0x4000 * u
def MP.ISTART_VAL (u : Nat) : RF := ⟨MP.ISTART u, 0, 32⟩
def MP.RSTAT (u : Nat) : Nat := 0x48000000 + 0x80564 + 0x4000 * u
def MP.RSTAT_VAL (u : Nat) : RF := ⟨MP.RSTAT u, 0, 32⟩

/-! ### CMD : command die (chapter 10) -/
def CMD.CMDCFG (c : Nat) : Nat := (c * 0x100000000 + 0x50000000) + 0x40000
def CMD.CMDCFG_CP_CORES (c : Nat) : RF := ⟨CMD.CMDCFG c, 28, 4⟩
def CMD.CMDCFG_SIG_WIN (c : Nat) : RF := ⟨CMD.CMDCFG c, 24, 4⟩
def CMD.CMDCFG_CMD_N (c : Nat) : RF := ⟨CMD.CMDCFG c, 16, 7⟩
def CMD.CMDCFG_SNAP_WIN (c : Nat) : RF := ⟨CMD.CMDCFG c, 0, 16⟩
def CMD.CMDSTAT (c : Nat) : Nat := (c * 0x100000000 + 0x50000000) + 0x40004
def CMD.CMDSTAT_SWAP_PEND (c : Nat) : RF := ⟨CMD.CMDSTAT c, 4, 1⟩
def CMD.CMDSTAT_TAKE (c : Nat) : RF := ⟨CMD.CMDSTAT c, 3, 1⟩
def CMD.CMDSTAT_HOME (c : Nat) : RF := ⟨CMD.CMDSTAT c, 2, 1⟩
def CMD.CMDSTAT_ROLE (c : Nat) : RF := ⟨CMD.CMDSTAT c, 0, 2⟩
def CMD.CPN (c : Nat) : Nat := (c * 0x100000000 + 0x50000000) + 0x40008
def CMD.CPN_CPN (c : Nat) : RF := ⟨CMD.CPN c, 0, 32⟩
def CMD.HEALTH (c : Nat) : Nat := (c * 0x100000000 + 0x50000000) + 0x4000C
def CMD.HEALTH_HEALTH (c : Nat) : RF := ⟨CMD.HEALTH c, 0, 32⟩
def CMD.DONE (c : Nat) : Nat := (c * 0x100000000 + 0x50000000) + 0x40010
def CMD.DONE_DONE (c : Nat) : RF := ⟨CMD.DONE c, 0, 4⟩
def CMD.SIG_LO (c : Nat) : Nat := (c * 0x100000000 + 0x50000000) + 0x40014
def CMD.SIG_LO_SIG_LO (c : Nat) : RF := ⟨CMD.SIG_LO c, 0, 32⟩
def CMD.SIG_HI (c : Nat) : Nat := (c * 0x100000000 + 0x50000000) + 0x40018
def CMD.SIG_HI_SIG_HI (c : Nat) : RF := ⟨CMD.SIG_HI c, 0, 32⟩
def CMD.SNAPCNT (c : Nat) : Nat := (c * 0x100000000 + 0x50000000) + 0x4001C
def CMD.SNAPCNT_DIFF_CNT (c : Nat) : RF := ⟨CMD.SNAPCNT c, 16, 16⟩
def CMD.SNAPCNT_FETCH_CNT (c : Nat) : RF := ⟨CMD.SNAPCNT c, 0, 16⟩
def CMD.SNAP_LOG (c : Nat) : Nat := (c * 0x100000000 + 0x50000000) + 0x40020
def CMD.SNAP_LOG_SNAP_LOG (c : Nat) : RF := ⟨CMD.SNAP_LOG c, 0, 11⟩
def CMD.SKIPCNT (c : Nat) : Nat := (c * 0x100000000 + 0x50000000) + 0x40024
def CMD.SKIPCNT_SKIP_CNT (c : Nat) : RF := ⟨CMD.SKIPCNT c, 16, 16⟩
def CMD.SKIPCNT_REC_LATE_CNT (c : Nat) : RF := ⟨CMD.SKIPCNT c, 0, 16⟩
def CMD.PV (c : Nat) (k : Nat) : Nat := (c * 0x100000000 + 0x50000000) + 0x40030 + 0x4 * k
def CMD.PV_PVk (c : Nat) (k : Nat) : RF := ⟨CMD.PV c k, 0, 32⟩
def CMD.SNAP_RGN (c : Nat) : Nat := (c * 0x100000000 + 0x50000000) + 0x40040
def CMD.SNAP_RGN_SNAP_BASE (c : Nat) : RF := ⟨CMD.SNAP_RGN c, 20, 9⟩
def CMD.SNAP_RGN_SNAP_LEN (c : Nat) : RF := ⟨CMD.SNAP_RGN c, 0, 9⟩
def CMD.CBUF_RGN (c : Nat) : Nat := (c * 0x100000000 + 0x50000000) + 0x40044
def CMD.CBUF_RGN_CBUF_BASE (c : Nat) : RF := ⟨CMD.CBUF_RGN c, 20, 9⟩
def CMD.CBUF_RGN_CBUF_LEN (c : Nat) : RF := ⟨CMD.CBUF_RGN c, 0, 9⟩
def CMD.JRNL_RGN (c : Nat) : Nat := (c * 0x100000000 + 0x50000000) + 0x40048
def CMD.JRNL_RGN_JRNL_BASE (c : Nat) : RF := ⟨CMD.JRNL_RGN c, 20, 9⟩
def CMD.JRNL_RGN_JRNL_LEN (c : Nat) : RF := ⟨CMD.JRNL_RGN c, 0, 9⟩
def CMD.DBGSTAT (c : Nat) : Nat := (c * 0x100000000 + 0x50000000) + 0x4004C
def CMD.DBGSTAT_DBG_DROP (c : Nat) : RF := ⟨CMD.DBGSTAT c, 3, 1⟩
def CMD.DBGSTAT_DBG_REJ (c : Nat) : RF := ⟨CMD.DBGSTAT c, 2, 1⟩
def CMD.DBGSTAT_HALTED (c : Nat) : RF := ⟨CMD.DBGSTAT c, 1, 1⟩
def CMD.DBGSTAT_ATTACHED (c : Nat) : RF := ⟨CMD.DBGSTAT c, 0, 1⟩

/-! ### DCMD : command input of a drive die (chapter 10) -/
def DCMD.DCMDCFG (d : Nat) : Nat := (d * 0x1000000 + 0x40000000) + 0x1D0000
def DCMD.DCMDCFG_CMD_N (d : Nat) : RF := ⟨DCMD.DCMDCFG d, 0, 7⟩
def DCMD.DCMDSTAT (d : Nat) : Nat := (d * 0x1000000 + 0x40000000) + 0x1D0004
def DCMD.DCMDSTAT_STRAY_CNT (d : Nat) : RF := ⟨DCMD.DCMDSTAT d, 16, 16⟩
def DCMD.DCMDSTAT_MITTEN_CNT (d : Nat) : RF := ⟨DCMD.DCMDSTAT d, 8, 8⟩
def DCMD.DCMDSTAT_ROLE_C1 (d : Nat) : RF := ⟨DCMD.DCMDSTAT d, 7, 1⟩
def DCMD.DCMDSTAT_ROLE_C0 (d : Nat) : RF := ⟨DCMD.DCMDSTAT d, 6, 1⟩
def DCMD.DCMDSTAT_CPC (d : Nat) : RF := ⟨DCMD.DCMDSTAT d, 0, 6⟩

/-! ### ARB : arbiter (chapter 10) -/
def ARB.ARBSTAT : Nat := 0x4C000000 + 0x70000
def ARB.ARBSTAT_SS1_REQ : RF := ⟨ARB.ARBSTAT, 9, 1⟩
def ARB.ARBSTAT_JOIN_FAIL_C1 : RF := ⟨ARB.ARBSTAT, 8, 1⟩
def ARB.ARBSTAT_JOIN_FAIL_C0 : RF := ⟨ARB.ARBSTAT, 7, 1⟩
def ARB.ARBSTAT_SWAP_PEND : RF := ⟨ARB.ARBSTAT, 6, 1⟩
def ARB.ARBSTAT_HOME : RF := ⟨ARB.ARBSTAT, 5, 1⟩
def ARB.ARBSTAT_MITTEN : RF := ⟨ARB.ARBSTAT, 4, 1⟩
def ARB.ARBSTAT_ROLE_C1 : RF := ⟨ARB.ARBSTAT, 2, 2⟩
def ARB.ARBSTAT_ROLE_C0 : RF := ⟨ARB.ARBSTAT, 0, 2⟩
def ARB.ARBSTAT_LOCKOUT_C1 : RF := ⟨ARB.ARBSTAT, 11, 1⟩
def ARB.ARBSTAT_LOCKOUT_C0 : RF := ⟨ARB.ARBSTAT, 10, 1⟩
def ARB.ARBCNT : Nat := 0x4C000000 + 0x70004
def ARB.ARBCNT_FO_CNT : RF := ⟨ARB.ARBCNT, 24, 8⟩
def ARB.ARBCNT_RET_CNT : RF := ⟨ARB.ARBCNT, 16, 8⟩
def ARB.ARBCNT_MM_CNT : RF := ⟨ARB.ARBCNT, 8, 8⟩
def ARB.ARBCNT_MM_UNRES : RF := ⟨ARB.ARBCNT, 0, 8⟩
def ARB.ARBDEC : Nat := 0x4C000000 + 0x70008
def ARB.ARBDEC_DEC_CPN : RF := ⟨ARB.ARBDEC, 8, 24⟩
def ARB.ARBDEC_VERDICT : RF := ⟨ARB.ARBDEC, 4, 4⟩
def ARB.ARBDEC_CAUSE : RF := ⟨ARB.ARBDEC, 0, 4⟩
def ARB.MIT_LEN : Nat := 0x4C000000 + 0x7000C
def ARB.MIT_LEN_MIT_LEN : RF := ⟨ARB.MIT_LEN, 0, 32⟩
def ARB.HOLD_REM : Nat := 0x4C000000 + 0x70010
def ARB.HOLD_REM_HOLD_REM : RF := ⟨ARB.HOLD_REM, 0, 32⟩
def ARB.HW_C0 : Nat := 0x4C000000 + 0x70014
def ARB.HW_C0_HW_C0 : RF := ⟨ARB.HW_C0, 0, 32⟩
def ARB.HW_C1 : Nat := 0x4C000000 + 0x70018
def ARB.HW_C1_HW_C1 : RF := ⟨ARB.HW_C1, 0, 32⟩
def ARB.WR_PEND : Nat := 0x4C000000 + 0x70FFC
def ARB.WR_PEND_STALE : RF := ⟨ARB.WR_PEND, 31, 1⟩
def ARB.WR_PEND_WR_LOST : RF := ⟨ARB.WR_PEND, 30, 1⟩
def ARB.WR_PEND_PEND : RF := ⟨ARB.WR_PEND, 8, 1⟩
def ARB.WR_PEND_PEND_CNT : RF := ⟨ARB.WR_PEND, 0, 3⟩

/-! ### HGRD : halt guard (chapter 11) -/
def HGRD.HGSTAT : Nat := 0x4C000000 + 0xD0000
def HGRD.HGSTAT_GT_FAIL : RF := ⟨HGRD.HGSTAT, 20, 4⟩
def HGRD.HGSTAT_ACK : RF := ⟨HGRD.HGSTAT, 16, 4⟩
def HGRD.HGSTAT_HALT : RF := ⟨HGRD.HGSTAT, 12, 4⟩
def HGRD.HGSTAT_CLK_LOST : RF := ⟨HGRD.HGSTAT, 8, 4⟩
def HGRD.HGSTAT_TIMING : RF := ⟨HGRD.HGSTAT, 4, 4⟩
def HGRD.HGSTAT_ASSERT : RF := ⟨HGRD.HGSTAT, 0, 4⟩
def HGRD.GUARD_US : Nat := 0x4C000000 + 0xD0004
def HGRD.GUARD_US_GUARD_US : RF := ⟨HGRD.GUARD_US, 0, 16⟩
def HGRD.EXTEND_MS : Nat := 0x4C000000 + 0xD0008
def HGRD.EXTEND_MS_EXTEND_MS : RF := ⟨HGRD.EXTEND_MS, 0, 32⟩
def HGRD.ELAPSED (k : Nat) : Nat := 0x4C000000 + 0xD0010 + 0x4 * k
def HGRD.ELAPSED_ELAPSEDd (k : Nat) : RF := ⟨HGRD.ELAPSED k, 0, 32⟩
def HGRD.HGCNT : Nat := 0x4C000000 + 0xD0020
def HGRD.HGCNT_HG_CNT3 : RF := ⟨HGRD.HGCNT, 24, 8⟩
def HGRD.HGCNT_HG_CNT2 : RF := ⟨HGRD.HGCNT, 16, 8⟩
def HGRD.HGCNT_HG_CNT1 : RF := ⟨HGRD.HGCNT, 8, 8⟩
def HGRD.HGCNT_HG_CNT0 : RF := ⟨HGRD.HGCNT, 0, 8⟩
def HGRD.WR_PEND : Nat := 0x4C000000 + 0xD0FFC
def HGRD.WR_PEND_STALE : RF := ⟨HGRD.WR_PEND, 31, 1⟩
def HGRD.WR_PEND_WR_LOST : RF := ⟨HGRD.WR_PEND, 30, 1⟩
def HGRD.WR_PEND_PEND : RF := ⟨HGRD.WR_PEND, 8, 1⟩
def HGRD.WR_PEND_PEND_CNT : RF := ⟨HGRD.WR_PEND, 0, 3⟩

/-! ### MBX : mailbox (chapter 11) -/
def MBX.MBXREQ : Nat := 0x4C000000 + 0x80000
def MBX.MBXREQ_RESET : RF := ⟨MBX.MBXREQ, 2, 1⟩
def MBX.MBXREQ_SS1_REQ : RF := ⟨MBX.MBXREQ, 1, 1⟩
def MBX.MBXREQ_STO_REQ : RF := ⟨MBX.MBXREQ, 0, 1⟩
def MBX.MBXSTAT : Nat := 0x4C000000 + 0x80004
def MBX.MBXSTAT_MBX_REJ : RF := ⟨MBX.MBXSTAT, 0, 16⟩

/-! ### SFN : safety functions (chapter 11) -/
def SFN.S_STATE : Nat := 0x4C000000 + 0x90000
def SFN.S_STATE_FAULT : RF := ⟨SFN.S_STATE, 31, 1⟩
def SFN.S_STATE_CONN_LOST : RF := ⟨SFN.S_STATE, 30, 1⟩
def SFN.S_STATE_SESSION : RF := ⟨SFN.S_STATE, 29, 1⟩
def SFN.S_STATE_TOS_PEND : RF := ⟨SFN.S_STATE, 28, 1⟩
def SFN.S_STATE_SI_VAL : RF := ⟨SFN.S_STATE, 20, 8⟩
def SFN.S_STATE_VIOL : RF := ⟨SFN.S_STATE, 16, 4⟩
def SFN.S_STATE_SLP_ACT : RF := ⟨SFN.S_STATE, 12, 4⟩
def SFN.S_STATE_SDI_ACT : RF := ⟨SFN.S_STATE, 8, 4⟩
def SFN.S_STATE_SLS_ACT : RF := ⟨SFN.S_STATE, 4, 4⟩
def SFN.S_STATE_LOCKED : RF := ⟨SFN.S_STATE, 3, 1⟩
def SFN.S_STATE_DEG : RF := ⟨SFN.S_STATE, 2, 1⟩
def SFN.S_STATE_SS1 : RF := ⟨SFN.S_STATE, 1, 1⟩
def SFN.S_STATE_STO : RF := ⟨SFN.S_STATE, 0, 1⟩
def SFN.SFSTAT : Nat := 0x4C000000 + 0x90004
def SFN.SFSTAT_LOCK_CAUSE : RF := ⟨SFN.SFSTAT, 20, 4⟩
def SFN.SFSTAT_GT_DUE : RF := ⟨SFN.SFSTAT, 16, 1⟩
def SFN.SFSTAT_GT_DONE : RF := ⟨SFN.SFSTAT, 15, 1⟩
def SFN.SFSTAT_B_FAIL : RF := ⟨SFN.SFSTAT, 14, 1⟩
def SFN.SFSTAT_A_FAIL : RF := ⟨SFN.SFSTAT, 13, 1⟩
def SFN.SFSTAT_XDISC : RF := ⟨SFN.SFSTAT, 12, 1⟩
def SFN.SFSTAT_HG : RF := ⟨SFN.SFSTAT, 8, 4⟩
def SFN.SFSTAT_NET : RF := ⟨SFN.SFSTAT, 4, 4⟩
def SFN.SFSTAT_B_REQ : RF := ⟨SFN.SFSTAT, 3, 1⟩
def SFN.SFSTAT_A_REQ : RF := ⟨SFN.SFSTAT, 2, 1⟩
def SFN.SFSTAT_STO_B : RF := ⟨SFN.SFSTAT, 1, 1⟩
def SFN.SFSTAT_STO_A : RF := ⟨SFN.SFSTAT, 0, 1⟩
def SFN.SFREM : Nat := 0x4C000000 + 0x90008
def SFN.SFREM_DEG_REM : RF := ⟨SFN.SFREM, 16, 16⟩
def SFN.SFREM_SS1_REM : RF := ⟨SFN.SFREM, 0, 16⟩
def SFN.SFCNT : Nat := 0x4C000000 + 0x9000C
def SFN.SFCNT_STO_CNT : RF := ⟨SFN.SFCNT, 24, 8⟩
def SFN.SFCNT_SS1_CNT : RF := ⟨SFN.SFCNT, 16, 8⟩
def SFN.SFCNT_DEG_CNT : RF := ⟨SFN.SFCNT, 8, 8⟩
def SFN.SFCNT_VIOL_CNT : RF := ⟨SFN.SFCNT, 0, 8⟩
def SFN.VAX (k : Nat) : Nat := 0x4C000000 + 0x90040 + 0x10 * k
def SFN.VAX_V_WS (k : Nat) : RF := ⟨SFN.VAX k, 16, 16⟩
def SFN.VAX_V_PI (k : Nat) : RF := ⟨SFN.VAX k, 0, 16⟩
def SFN.AXSTAT (k : Nat) : Nat := 0x4C000000 + 0x90044 + 0x10 * k
def SFN.AXSTAT_VCAUSE (k : Nat) : RF := ⟨SFN.AXSTAT k, 5, 3⟩
def SFN.AXSTAT_DISC_P (k : Nat) : RF := ⟨SFN.AXSTAT k, 4, 1⟩
def SFN.AXSTAT_DISC_V (k : Nat) : RF := ⟨SFN.AXSTAT k, 3, 1⟩
def SFN.AXSTAT_REF (k : Nat) : RF := ⟨SFN.AXSTAT k, 2, 1⟩
def SFN.AXSTAT_WS_OK (k : Nat) : RF := ⟨SFN.AXSTAT k, 1, 1⟩
def SFN.AXSTAT_PI_OK (k : Nat) : RF := ⟨SFN.AXSTAT k, 0, 1⟩
def SFN.POS_PI (k : Nat) : Nat := 0x4C000000 + 0x90048 + 0x10 * k
def SFN.POS_PI_POS_PI (k : Nat) : RF := ⟨SFN.POS_PI k, 0, 32⟩
def SFN.POS_WS (k : Nat) : Nat := 0x4C000000 + 0x9004C + 0x10 * k
def SFN.POS_WS_POS_WS (k : Nat) : RF := ⟨SFN.POS_WS k, 0, 32⟩
def SFN.WR_PEND : Nat := 0x4C000000 + 0x90FFC
def SFN.WR_PEND_STALE : RF := ⟨SFN.WR_PEND, 31, 1⟩
def SFN.WR_PEND_WR_LOST : RF := ⟨SFN.WR_PEND, 30, 1⟩
def SFN.WR_PEND_PEND : RF := ⟨SFN.WR_PEND, 8, 1⟩
def SFN.WR_PEND_PEND_CNT : RF := ⟨SFN.WR_PEND, 0, 3⟩

/-! ### SIO : safety inputs and outputs (chapter 11) -/
def SIO.SISTAT : Nat := 0x4C000000 + 0xA0000
def SIO.SISTAT_TOS_DONE : RF := ⟨SIO.SISTAT, 24, 8⟩
def SIO.SISTAT_SI_TPF : RF := ⟨SIO.SISTAT, 16, 8⟩
def SIO.SISTAT_SI_DISC : RF := ⟨SIO.SISTAT, 8, 8⟩
def SIO.SISTAT_SI_VAL : RF := ⟨SIO.SISTAT, 0, 8⟩
def SIO.SOSTAT : Nat := 0x4C000000 + 0xA0004
def SIO.SOSTAT_TP_LVL : RF := ⟨SIO.SOSTAT, 16, 4⟩
def SIO.SOSTAT_SOB : RF := ⟨SIO.SOSTAT, 12, 4⟩
def SIO.SOSTAT_SOA : RF := ⟨SIO.SOSTAT, 8, 4⟩
def SIO.SOSTAT_SO_FLT : RF := ⟨SIO.SOSTAT, 4, 4⟩
def SIO.SOSTAT_SO_CMD : RF := ⟨SIO.SOSTAT, 0, 4⟩
def SIO.WS0 : Nat := 0x4C000000 + 0xA0008
def SIO.WS0_WS0_CNT : RF := ⟨SIO.WS0, 0, 32⟩
def SIO.WS1 : Nat := 0x4C000000 + 0xA000C
def SIO.WS1_WS1_CNT : RF := ⟨SIO.WS1, 0, 32⟩
def SIO.SCMP : Nat := 0x4C000000 + 0xA0010
def SIO.SCMP_SCMP_OUT : RF := ⟨SIO.SCMP, 8, 8⟩
def SIO.SCMP_SCMP_WIN : RF := ⟨SIO.SCMP, 0, 8⟩
def SIO.WR_PEND : Nat := 0x4C000000 + 0xA0FFC
def SIO.WR_PEND_STALE : RF := ⟨SIO.WR_PEND, 31, 1⟩
def SIO.WR_PEND_WR_LOST : RF := ⟨SIO.WR_PEND, 30, 1⟩
def SIO.WR_PEND_PEND : RF := ⟨SIO.WR_PEND, 8, 1⟩
def SIO.WR_PEND_PEND_CNT : RF := ⟨SIO.WR_PEND, 0, 3⟩

/-! ### SCONN : safety connections (chapter 11) -/
def SCONN.SCST (k : Nat) : Nat := 0x4C000000 + 0xB0000 + 0x10 * k
def SCONN.SCST_ACC_CNT (k : Nat) : RF := ⟨SCONN.SCST k, 16, 16⟩
def SCONN.SCST_LOST_CNT (k : Nat) : RF := ⟨SCONN.SCST k, 8, 8⟩
def SCONN.SCST_DIR (k : Nat) : RF := ⟨SCONN.SCST k, 2, 1⟩
def SCONN.SCST_STATE (k : Nat) : RF := ⟨SCONN.SCST k, 0, 2⟩
def SCONN.SCSEQ (k : Nat) : Nat := 0x4C000000 + 0xB0004 + 0x10 * k
def SCONN.SCSEQ_SEQ (k : Nat) : RF := ⟨SCONN.SCSEQ k, 0, 32⟩
def SCONN.SCREJ (k : Nat) : Nat := 0x4C000000 + 0xB0008 + 0x10 * k
def SCONN.SCREJ_REJ_LEN (k : Nat) : RF := ⟨SCONN.SCREJ k, 24, 8⟩
def SCONN.SCREJ_REJ_AGE (k : Nat) : RF := ⟨SCONN.SCREJ k, 16, 8⟩
def SCONN.SCREJ_REJ_SEQ (k : Nat) : RF := ⟨SCONN.SCREJ k, 8, 8⟩
def SCONN.SCREJ_REJ_CRC (k : Nat) : RF := ⟨SCONN.SCREJ k, 0, 8⟩
def SCONN.SCAGE (k : Nat) : Nat := 0x4C000000 + 0xB000C + 0x10 * k
def SCONN.SCAGE_SINCE (k : Nat) : RF := ⟨SCONN.SCAGE k, 16, 16⟩
def SCONN.SCAGE_AGE (k : Nat) : RF := ⟨SCONN.SCAGE k, 0, 16⟩
def SCONN.WR_PEND : Nat := 0x4C000000 + 0xB0FFC
def SCONN.WR_PEND_STALE : RF := ⟨SCONN.WR_PEND, 31, 1⟩
def SCONN.WR_PEND_WR_LOST : RF := ⟨SCONN.WR_PEND, 30, 1⟩
def SCONN.WR_PEND_PEND : RF := ⟨SCONN.WR_PEND, 8, 1⟩
def SCONN.WR_PEND_PEND_CNT : RF := ⟨SCONN.WR_PEND, 0, 3⟩

/-! ### START : starts and stops (chapter 12) -/
def START.STSTAT : Nat := 0x48000000 + 0x40000
def START.STSTAT_ATT_FAIL : RF := ⟨START.STSTAT, 24, 4⟩
def START.STSTAT_COLD_WHY : RF := ⟨START.STSTAT, 20, 4⟩
def START.STSTAT_SLOT : RF := ⟨START.STSTAT, 16, 2⟩
def START.STSTAT_IMG_UNAPPR : RF := ⟨START.STSTAT, 15, 1⟩
def START.STSTAT_ALONE : RF := ⟨START.STSTAT, 14, 1⟩
def START.STSTAT_GT_SKIPPED : RF := ⟨START.STSTAT, 13, 1⟩
def START.STSTAT_CKPT_OK : RF := ⟨START.STSTAT, 12, 1⟩
def START.STSTAT_STOP_REJ : RF := ⟨START.STSTAT, 11, 1⟩
def START.STSTAT_STOPPING : RF := ⟨START.STSTAT, 10, 1⟩
def START.STSTAT_BOOT_DONE : RF := ⟨START.STSTAT, 9, 1⟩
def START.STSTAT_RECOV : RF := ⟨START.STSTAT, 8, 1⟩
def START.STSTAT_KIND : RF := ⟨START.STSTAT, 0, 2⟩
def START.STCTL : Nat := 0x48000000 + 0x40004
def START.STCTL_STOP : RF := ⟨START.STCTL, 1, 1⟩
def START.STCTL_BOOT_OK : RF := ⟨START.STCTL, 0, 1⟩
def START.START_SEC : Nat := 0x48000000 + 0x40008
def START.START_SEC_START_SEC : RF := ⟨START.START_SEC, 0, 32⟩
def START.SMS : Nat := 0x48000000 + 0x4000C
def START.SMS_OK_MS : RF := ⟨START.SMS, 16, 16⟩
def START.SMS_REL_MS : RF := ⟨START.SMS, 0, 16⟩

/-! ### ETH : Ethernet ports (chapter 13) -/
def ETH.PCFG (u : Nat) : Nat := 0x48000000 + 0x200000 + 0x4000 * u
def ETH.PCFG_RING_MGR (u : Nat) : RF := ⟨ETH.PCFG u, 4, 1⟩
def ETH.PCFG_DELAY_MECH (u : Nat) : RF := ⟨ETH.PCFG u, 1, 2⟩
def ETH.PCFG_PTP_EN (u : Nat) : RF := ⟨ETH.PCFG u, 3, 1⟩
def ETH.PCFG_EN (u : Nat) : RF := ⟨ETH.PCFG u, 0, 1⟩
def ETH.MAC_LO (u : Nat) : Nat := 0x48000000 + 0x200004 + 0x4000 * u
def ETH.MAC_LO_MAC_LO (u : Nat) : RF := ⟨ETH.MAC_LO u, 0, 32⟩
def ETH.MAC_HI (u : Nat) : Nat := 0x48000000 + 0x200008 + 0x4000 * u
def ETH.MAC_HI_MAC_HI (u : Nat) : RF := ⟨ETH.MAC_HI u, 0, 16⟩
def ETH.PCP (u : Nat) : Nat := 0x48000000 + 0x20000C + 0x4000 * u
def ETH.PCP_DEF_PCP (u : Nat) : RF := ⟨ETH.PCP u, 24, 3⟩
def ETH.PCP_PCPMAP (u : Nat) : RF := ⟨ETH.PCP u, 0, 24⟩
def ETH.ING_ASYM (u : Nat) : Nat := 0x48000000 + 0x200010 + 0x4000 * u
def ETH.ING_ASYM_ING_ASYM (u : Nat) : RF := ⟨ETH.ING_ASYM u, 0, 32⟩
def ETH.EGR_ASYM (u : Nat) : Nat := 0x48000000 + 0x200014 + 0x4000 * u
def ETH.EGR_ASYM_EGR_ASYM (u : Nat) : RF := ⟨ETH.EGR_ASYM u, 0, 32⟩
def ETH.LINK_DLY (u : Nat) : Nat := 0x48000000 + 0x200018 + 0x4000 * u
def ETH.LINK_DLY_LINK_DLY (u : Nat) : RF := ⟨ETH.LINK_DLY u, 0, 32⟩
def ETH.PSTAT (u : Nat) : Nat := 0x48000000 + 0x20001C + 0x4000 * u
def ETH.PSTAT_PTP_CFG_ERR (u : Nat) : RF := ⟨ETH.PSTAT u, 3, 1⟩
def ETH.PSTAT_RING_OPEN (u : Nat) : RF := ⟨ETH.PSTAT u, 2, 1⟩
def ETH.PSTAT_BLOCKED (u : Nat) : RF := ⟨ETH.PSTAT u, 1, 1⟩
def ETH.PSTAT_LINK_UP (u : Nat) : RF := ⟨ETH.PSTAT u, 0, 1⟩
def ETH.DROPCNT (u : Nat) : Nat := 0x48000000 + 0x200020 + 0x4000 * u
def ETH.DROPCNT_TX_DROP_CNT (u : Nat) : RF := ⟨ETH.DROPCNT u, 16, 16⟩
def ETH.DROPCNT_RX_DROP_CNT (u : Nat) : RF := ⟨ETH.DROPCNT u, 0, 16⟩
def ETH.OVERSIZE (u : Nat) : Nat := 0x48000000 + 0x200024 + 0x4000 * u
def ETH.OVERSIZE_OVERSIZE_CNT (u : Nat) : RF := ⟨ETH.OVERSIZE u, 0, 16⟩

/-! ### GATE : gate control (chapter 13) -/
def GATE.GCFG (u : Nat) : Nat := 0x48000000 + 0x210000 + 0x4000 * u
def GATE.GCFG_ADM_LEN (u : Nat) : RF := ⟨GATE.GCFG u, 16, 7⟩
def GATE.GCFG_GATE_EN (u : Nat) : RF := ⟨GATE.GCFG u, 0, 1⟩
def GATE.ADM_CYCLE (u : Nat) : Nat := 0x48000000 + 0x210004 + 0x4000 * u
def GATE.ADM_CYCLE_ADM_CYCLE (u : Nat) : RF := ⟨GATE.ADM_CYCLE u, 0, 32⟩
def GATE.ADM_BASE_NS (u : Nat) : Nat := 0x48000000 + 0x210008 + 0x4000 * u
def GATE.ADM_BASE_NS_ADM_BASE_NS (u : Nat) : RF := ⟨GATE.ADM_BASE_NS u, 0, 30⟩
def GATE.ADM_BASE_SEC (u : Nat) : Nat := 0x48000000 + 0x21000C + 0x4000 * u
def GATE.ADM_BASE_SEC_ADM_BASE_SEC (u : Nat) : RF := ⟨GATE.ADM_BASE_SEC u, 0, 32⟩
def GATE.GCTL (u : Nat) : Nat := 0x48000000 + 0x210010 + 0x4000 * u
def GATE.GCTL_APPLY (u : Nat) : RF := ⟨GATE.GCTL u, 0, 1⟩
def GATE.GSTAT (u : Nat) : Nat := 0x48000000 + 0x210014 + 0x4000 * u
def GATE.GSTAT_OPER_LEN (u : Nat) : RF := ⟨GATE.GSTAT u, 16, 16⟩
def GATE.GSTAT_GATE_CFG_ERR (u : Nat) : RF := ⟨GATE.GSTAT u, 2, 1⟩
def GATE.GSTAT_OPER_ACTIVE (u : Nat) : RF := ⟨GATE.GSTAT u, 1, 1⟩
def GATE.GSTAT_PENDING (u : Nat) : RF := ⟨GATE.GSTAT u, 0, 1⟩
def GATE.ADM_GATES (u : Nat) (k : Nat) : Nat := 0x48000000 + 0x210100 + 0x4000 * u + 0x8 * k
def GATE.ADM_GATES_GATES (u : Nat) (k : Nat) : RF := ⟨GATE.ADM_GATES u k, 0, 8⟩
def GATE.ADM_INT (u : Nat) (k : Nat) : Nat := 0x48000000 + 0x210104 + 0x4000 * u + 0x8 * k
def GATE.ADM_INT_INTERVAL (u : Nat) (k : Nat) : RF := ⟨GATE.ADM_INT u k, 0, 24⟩
def GATE.OPER_GATES (u : Nat) (k : Nat) : Nat := 0x48000000 + 0x210400 + 0x4000 * u + 0x8 * k
def GATE.OPER_GATES_GATES (u : Nat) (k : Nat) : RF := ⟨GATE.OPER_GATES u k, 0, 8⟩
def GATE.OPER_INT (u : Nat) (k : Nat) : Nat := 0x48000000 + 0x210404 + 0x4000 * u + 0x8 * k
def GATE.OPER_INT_INTERVAL (u : Nat) (k : Nat) : RF := ⟨GATE.OPER_INT u k, 0, 24⟩

/-! ### TIME : network time (chapter 13) -/
def TIME.TCFG : Nat := 0x48000000 + 0x220000
def TIME.TCFG_A_PREF : RF := ⟨TIME.TCFG, 17, 1⟩
def TIME.TCFG_B_EN : RF := ⟨TIME.TCFG, 16, 1⟩
def TIME.TCFG_DOM_B : RF := ⟨TIME.TCFG, 8, 8⟩
def TIME.TCFG_DOM_A : RF := ⟨TIME.TCFG, 0, 8⟩
def TIME.SVCFG : Nat := 0x48000000 + 0x220004
def TIME.SVCFG_LOCK_NS : RF := ⟨TIME.SVCFG, 16, 16⟩
def TIME.SVCFG_SLEW_MAX : RF := ⟨TIME.SVCFG, 0, 16⟩
def TIME.UTCCFG : Nat := 0x48000000 + 0x220008
def TIME.UTCCFG_UTC_OFS : RF := ⟨TIME.UTCCFG, 0, 16⟩
def TIME.RETCFG : Nat := 0x48000000 + 0x22000C
def TIME.RETCFG_RET_S : RF := ⟨TIME.RETCFG, 0, 16⟩
def TIME.TSTAT : Nat := 0x48000000 + 0x220010
def TIME.TSTAT_SWITCH_CNT : RF := ⟨TIME.TSTAT, 16, 16⟩
def TIME.TSTAT_TU_STEP : RF := ⟨TIME.TSTAT, 9, 1⟩
def TIME.TSTAT_STEPPED : RF := ⟨TIME.TSTAT, 8, 1⟩
def TIME.TSTAT_UTC_VALID : RF := ⟨TIME.TSTAT, 7, 1⟩
def TIME.TSTAT_SYNCED : RF := ⟨TIME.TSTAT, 6, 1⟩
def TIME.TSTAT_VALID_B : RF := ⟨TIME.TSTAT, 5, 1⟩
def TIME.TSTAT_VALID_A : RF := ⟨TIME.TSTAT, 4, 1⟩
def TIME.TSTAT_LOCK_B : RF := ⟨TIME.TSTAT, 3, 1⟩
def TIME.TSTAT_LOCK_A : RF := ⟨TIME.TSTAT, 2, 1⟩
def TIME.TSTAT_SEL : RF := ⟨TIME.TSTAT, 0, 2⟩
def TIME.OFS_A : Nat := 0x48000000 + 0x220014
def TIME.OFS_A_OFS_A : RF := ⟨TIME.OFS_A, 0, 32⟩
def TIME.OFS_B : Nat := 0x48000000 + 0x220018
def TIME.OFS_B_OFS_B : RF := ⟨TIME.OFS_B, 0, 32⟩
def TIME.RATE_A : Nat := 0x48000000 + 0x22001C
def TIME.RATE_A_RATE_A : RF := ⟨TIME.RATE_A, 0, 32⟩
def TIME.RATE_B : Nat := 0x48000000 + 0x220020
def TIME.RATE_B_RATE_B : RF := ⟨TIME.RATE_B, 0, 32⟩
def TIME.LT_NS : Nat := 0x48000000 + 0x220030
def TIME.LT_NS_LT_NS : RF := ⟨TIME.LT_NS, 0, 30⟩
def TIME.LT_SEC_LO : Nat := 0x48000000 + 0x220034
def TIME.LT_SEC_LO_LT_SEC_LO : RF := ⟨TIME.LT_SEC_LO, 0, 32⟩
def TIME.LT_SEC_HI : Nat := 0x48000000 + 0x220038
def TIME.LT_SEC_HI_LT_SEC_HI : RF := ⟨TIME.LT_SEC_HI, 0, 16⟩
def TIME.GM_A0 : Nat := 0x48000000 + 0x220040
def TIME.GM_A0_GM_A : RF := ⟨TIME.GM_A0, 0, 32⟩
def TIME.GM_A1 : Nat := 0x48000000 + 0x220044
def TIME.GM_A1_GM_A : RF := ⟨TIME.GM_A1, 0, 32⟩
def TIME.GM_B0 : Nat := 0x48000000 + 0x220048
def TIME.GM_B0_GM_B : RF := ⟨TIME.GM_B0, 0, 32⟩
def TIME.GM_B1 : Nat := 0x48000000 + 0x22004C
def TIME.GM_B1_GM_B : RF := ⟨TIME.GM_B1, 0, 32⟩

/-! ### TU : time units (chapter 13) -/
def TU.TUCFG (k : Nat) : Nat := 0x48000000 + 0x230000 + 0x10 * k
def TU.TUCFG_PW (k : Nat) : RF := ⟨TU.TUCFG k, 16, 16⟩
def TU.TUCFG_EDGE (k : Nat) : RF := ⟨TU.TUCFG k, 12, 2⟩
def TU.TUCFG_PIN (k : Nat) : RF := ⟨TU.TUCFG k, 10, 2⟩
def TU.TUCFG_PIN_EN (k : Nat) : RF := ⟨TU.TUCFG k, 9, 1⟩
def TU.TUCFG_DST (k : Nat) : RF := ⟨TU.TUCFG k, 4, 4⟩
def TU.TUCFG_PERIODIC (k : Nat) : RF := ⟨TU.TUCFG k, 2, 1⟩
def TU.TUCFG_MODE (k : Nat) : RF := ⟨TU.TUCFG k, 1, 1⟩
def TU.TUCFG_EN (k : Nat) : RF := ⟨TU.TUCFG k, 0, 1⟩
def TU.TARGET (k : Nat) : Nat := 0x48000000 + 0x230004 + 0x10 * k
def TU.TARGET_TARGET (k : Nat) : RF := ⟨TU.TARGET k, 0, 32⟩
def TU.PERIOD (k : Nat) : Nat := 0x48000000 + 0x230008 + 0x10 * k
def TU.PERIOD_PERIOD (k : Nat) : RF := ⟨TU.PERIOD k, 0, 32⟩
def TU.CAPT (k : Nat) : Nat := 0x48000000 + 0x23000C + 0x10 * k
def TU.CAPT_CAPT (k : Nat) : RF := ⟨TU.CAPT k, 0, 32⟩
def TU.TUSTAT (k : Nat) : Nat := 0x48000000 + 0x230100 + 0x4 * k
def TU.TUSTAT_EVT_CNT (k : Nat) : RF := ⟨TU.TUSTAT k, 16, 16⟩
def TU.TUSTAT_ARMED (k : Nat) : RF := ⟨TU.TUSTAT k, 3, 1⟩
def TU.TUSTAT_CAP_OVR (k : Nat) : RF := ⟨TU.TUSTAT k, 2, 1⟩
def TU.TUSTAT_ARM_LATE (k : Nat) : RF := ⟨TU.TUSTAT k, 1, 1⟩
def TU.TUSTAT_FIRED (k : Nat) : RF := ⟨TU.TUSTAT k, 0, 1⟩

/-! ### CAN : CAN controllers (chapter 13) -/
def CAN.CCFG (u : Nat) : Nat := 0x48000000 + 0x240000 + 0x4000 * u
def CAN.CCFG_TDC_EN (u : Nat) : RF := ⟨CAN.CCFG u, 5, 1⟩
def CAN.CCFG_LISTEN_ONLY (u : Nat) : RF := ⟨CAN.CCFG u, 4, 1⟩
def CAN.CCFG_AUTO_RECOV (u : Nat) : RF := ⟨CAN.CCFG u, 3, 1⟩
def CAN.CCFG_BRS_EN (u : Nat) : RF := ⟨CAN.CCFG u, 2, 1⟩
def CAN.CCFG_FD_EN (u : Nat) : RF := ⟨CAN.CCFG u, 1, 1⟩
def CAN.CCFG_EN (u : Nat) : RF := ⟨CAN.CCFG u, 0, 1⟩
def CAN.NBT (u : Nat) : Nat := 0x48000000 + 0x240004 + 0x4000 * u
def CAN.NBT_SJW (u : Nat) : RF := ⟨CAN.NBT u, 23, 7⟩
def CAN.NBT_TSEG2 (u : Nat) : RF := ⟨CAN.NBT u, 16, 7⟩
def CAN.NBT_TSEG1 (u : Nat) : RF := ⟨CAN.NBT u, 8, 8⟩
def CAN.NBT_BRP (u : Nat) : RF := ⟨CAN.NBT u, 0, 8⟩
def CAN.DBT (u : Nat) : Nat := 0x48000000 + 0x240008 + 0x4000 * u
def CAN.DBT_DSJW (u : Nat) : RF := ⟨CAN.DBT u, 24, 4⟩
def CAN.DBT_DTSEG2 (u : Nat) : RF := ⟨CAN.DBT u, 16, 4⟩
def CAN.DBT_DTSEG1 (u : Nat) : RF := ⟨CAN.DBT u, 8, 5⟩
def CAN.DBT_DBRP (u : Nat) : RF := ⟨CAN.DBT u, 0, 5⟩
def CAN.TDC (u : Nat) : Nat := 0x48000000 + 0x24000C + 0x4000 * u
def CAN.TDC_TDC_OFS (u : Nat) : RF := ⟨CAN.TDC u, 0, 8⟩
def CAN.CSTAT (u : Nat) : Nat := 0x48000000 + 0x240010 + 0x4000 * u
def CAN.CSTAT_TEC (u : Nat) : RF := ⟨CAN.CSTAT u, 16, 8⟩
def CAN.CSTAT_REC (u : Nat) : RF := ⟨CAN.CSTAT u, 8, 8⟩
def CAN.CSTAT_STATE (u : Nat) : RF := ⟨CAN.CSTAT u, 0, 2⟩
def CAN.CCTL (u : Nat) : Nat := 0x48000000 + 0x240014 + 0x4000 * u
def CAN.CCTL_RECOVER (u : Nat) : RF := ⟨CAN.CCTL u, 0, 1⟩
def CAN.CCNT (u : Nat) : Nat := 0x48000000 + 0x240018 + 0x4000 * u
def CAN.CCNT_BOFF_CNT (u : Nat) : RF := ⟨CAN.CCNT u, 16, 16⟩
def CAN.CCNT_RX_LOST_CNT (u : Nat) : RF := ⟨CAN.CCNT u, 0, 16⟩
def CAN.FLT_ID (u : Nat) (k : Nat) : Nat := 0x48000000 + 0x240100 + 0x4000 * u + 0x8 * k
def CAN.FLT_ID_F_EN (u : Nat) (k : Nat) : RF := ⟨CAN.FLT_ID u k, 30, 1⟩
def CAN.FLT_ID_IDE (u : Nat) (k : Nat) : RF := ⟨CAN.FLT_ID u k, 29, 1⟩
def CAN.FLT_ID_FID (u : Nat) (k : Nat) : RF := ⟨CAN.FLT_ID u k, 0, 29⟩
def CAN.FLT_MASK (u : Nat) (k : Nat) : Nat := 0x48000000 + 0x240104 + 0x4000 * u + 0x8 * k
def CAN.FLT_MASK_FMASK (u : Nat) (k : Nat) : RF := ⟨CAN.FLT_MASK u k, 0, 29⟩
def CAN.FLT_FLOW (u : Nat) (k : Nat) : Nat := 0x48000000 + 0x240200 + 0x4000 * u + 0x4 * k
def CAN.FLT_FLOW_FFLOW (u : Nat) (k : Nat) : RF := ⟨CAN.FLT_FLOW u k, 0, 8⟩

/-! ### DICT : dictionary engine (chapter 14) -/
def DICT.DSTAT : Nat := 0x48000000 + 0x250000
def DICT.DSTAT_SESS_CNT : RF := ⟨DICT.DSTAT, 24, 8⟩
def DICT.DSTAT_SC_CNT : RF := ⟨DICT.DSTAT, 16, 8⟩
def DICT.DSTAT_PF_CNT : RF := ⟨DICT.DSTAT, 8, 8⟩
def DICT.DSTAT_RESP_STALE : RF := ⟨DICT.DSTAT, 3, 1⟩
def DICT.DSTAT_RESP_BUSY : RF := ⟨DICT.DSTAT, 2, 1⟩
def DICT.DSTAT_DECL_DONE : RF := ⟨DICT.DSTAT, 1, 1⟩
def DICT.DSTAT_DECL_ERR : RF := ⟨DICT.DSTAT, 0, 1⟩
def DICT.DECL : Nat := 0x48000000 + 0x250004
def DICT.DECL_DECL_LEN : RF := ⟨DICT.DECL, 16, 10⟩
def DICT.DECL_DECL_BAD : RF := ⟨DICT.DECL, 4, 9⟩
def DICT.DECL_DECL_COMMIT : RF := ⟨DICT.DECL, 0, 1⟩
def DICT.RESP : Nat := 0x48000000 + 0x250008
def DICT.RESP_TID : RF := ⟨DICT.RESP, 16, 16⟩
def DICT.RESP_GEN : RF := ⟨DICT.RESP, 8, 8⟩
def DICT.RESP_SESSION : RF := ⟨DICT.RESP, 0, 8⟩
def DICT.RESP_ABORT : Nat := 0x48000000 + 0x25000C
def DICT.RESP_ABORT_RESP_ABORT : RF := ⟨DICT.RESP_ABORT, 0, 32⟩
def DICT.RESP_LEN : Nat := 0x48000000 + 0x250010
def DICT.RESP_LEN_RESP_LEN : RF := ⟨DICT.RESP_LEN, 0, 11⟩
def DICT.RESP_GO : Nat := 0x48000000 + 0x250014
def DICT.RESP_GO_RESP_GO : RF := ⟨DICT.RESP_GO, 0, 1⟩
def DICT.DCNT : Nat := 0x48000000 + 0x250018
def DICT.DCNT_APP_TMO_CNT : RF := ⟨DICT.DCNT, 16, 16⟩
def DICT.DCNT_FOREIGN_CNT : RF := ⟨DICT.DCNT, 0, 16⟩
def DICT.TX_REL (k : Nat) : Nat := 0x48000000 + 0x250020 + 0x4 * k
def DICT.TX_REL_TX_REL (k : Nat) : RF := ⟨DICT.TX_REL k, 0, 32⟩

/-! ### KPR : keeper (chapter 15) -/
def KPR.KCFG : Nat := 0x4C000000 + 0xC0000
def KPR.KCFG_K_FOC : RF := ⟨KPR.KCFG, 24, 8⟩
def KPR.KCFG_SRC_TYPE : RF := ⟨KPR.KCFG, 8, 2⟩
def KPR.KCFG_VK_HV : RF := ⟨KPR.KCFG, 1, 1⟩
def KPR.KCFG_HV_EN : RF := ⟨KPR.KCFG, 0, 1⟩
def KPR.KV : Nat := 0x4C000000 + 0xC0004
def KPR.KV_VSTL_MAX : RF := ⟨KPR.KV, 16, 16⟩
def KPR.KV_V_RICH : RF := ⟨KPR.KV, 0, 16⟩
def KPR.KPG : Nat := 0x4C000000 + 0xC0008
def KPR.KPG_V_PGL : RF := ⟨KPR.KPG, 16, 16⟩
def KPR.KPG_V_PGH : RF := ⟨KPR.KPG, 0, 16⟩
def KPR.KRES : Nat := 0x4C000000 + 0xC000C
def KPR.KRES_E_RES : RF := ⟨KPR.KRES, 16, 16⟩
def KPR.KRES_STL_CAP : RF := ⟨KPR.KRES, 0, 16⟩
def KPR.WAKE_AT : Nat := 0x4C000000 + 0xC0010
def KPR.WAKE_AT_WAKE_AT : RF := ⟨KPR.WAKE_AT, 0, 32⟩
def KPR.KSTAT : Nat := 0x4C000000 + 0xC0014
def KPR.KSTAT_CAP_VALID : RF := ⟨KPR.KSTAT, 9, 1⟩
def KPR.KSTAT_STL_FULL : RF := ⟨KPR.KSTAT, 8, 1⟩
def KPR.KSTAT_CHG_SW : RF := ⟨KPR.KSTAT, 7, 1⟩
def KPR.KSTAT_HV_PRES : RF := ⟨KPR.KSTAT, 6, 1⟩
def KPR.KSTAT_VKIN_ON : RF := ⟨KPR.KSTAT, 5, 1⟩
def KPR.KSTAT_PG_K : RF := ⟨KPR.KSTAT, 4, 1⟩
def KPR.KSTAT_BURST : RF := ⟨KPR.KSTAT, 3, 1⟩
def KPR.KSTAT_HMODE : RF := ⟨KPR.KSTAT, 0, 2⟩
def KPR.VST : Nat := 0x4C000000 + 0xC0018
def KPR.VST_VSTQ_MV : RF := ⟨KPR.VST, 16, 16⟩
def KPR.VST_VSTL_MV : RF := ⟨KPR.VST, 0, 16⟩
def KPR.KVOC : Nat := 0x4C000000 + 0xC001C
def KPR.KVOC_VOC_MV : RF := ⟨KPR.KVOC, 16, 16⟩
def KPR.KVOC_HVREG_MV : RF := ⟨KPR.KVOC, 0, 16⟩
def KPR.E_ST : Nat := 0x4C000000 + 0xC0020
def KPR.E_ST_E_ST : RF := ⟨KPR.E_ST, 0, 32⟩
def KPR.LCAP : Nat := 0x4C000000 + 0xC0024
def KPR.LCAP_LCAP : RF := ⟨KPR.LCAP, 0, 16⟩
def KPR.KQ : Nat := 0x4C000000 + 0xC0028
def KPR.KQ_DEFER_CNT : RF := ⟨KPR.KQ, 16, 16⟩
def KPR.KQ_QUEUE : RF := ⟨KPR.KQ, 0, 10⟩
def KPR.KQ_LAST_DEFER : RF := ⟨KPR.KQ, 10, 4⟩
def KPR.WR_PEND : Nat := 0x4C000000 + 0xC0FFC
def KPR.WR_PEND_STALE : RF := ⟨KPR.WR_PEND, 31, 1⟩
def KPR.WR_PEND_WR_LOST : RF := ⟨KPR.WR_PEND, 30, 1⟩
def KPR.WR_PEND_PEND : RF := ⟨KPR.WR_PEND, 8, 1⟩
def KPR.WR_PEND_PEND_CNT : RF := ⟨KPR.WR_PEND, 0, 3⟩

/-! ### LTN : lifetime engine of N (chapter 15) -/
def LTN.LTMODE : Nat := 0x48000000 + 0x2C0000
def LTN.LTMODE_APP_MODE : RF := ⟨LTN.LTMODE, 0, 2⟩
def LTN.DCLSRC : Nat := 0x48000000 + 0x2C0004
def LTN.DCLSRC_DIE : RF := ⟨LTN.DCLSRC, 6, 2⟩
def LTN.DCLSRC_CORE : RF := ⟨LTN.DCLSRC, 4, 2⟩
def LTN.DCLSRC_ENTRY : RF := ⟨LTN.DCLSRC, 0, 4⟩
def LTN.DCL_GAIN : Nat := 0x48000000 + 0x2C0008
def LTN.DCL_GAIN_DCL_GAIN : RF := ⟨LTN.DCL_GAIN, 0, 32⟩
def LTN.DCL_BIN : Nat := 0x48000000 + 0x2C000C
def LTN.DCL_BIN_DCL_BIN : RF := ⟨LTN.DCL_BIN, 0, 16⟩
def LTN.LTCNT : Nat := 0x48000000 + 0x2C0010
def LTN.LTCNT_DCL_MISS : RF := ⟨LTN.LTCNT, 16, 16⟩
def LTN.LTCNT_MERGE_CNT : RF := ⟨LTN.LTCNT, 0, 16⟩

/-! ### CYC : cycle counter (chapter 15) -/
def CYC.RF0 (d : Nat) : Nat := (d * 0x1000000 + 0x40000000) + 0x1E0000
def CYC.RF0_RF_RBIN (d : Nat) : RF := ⟨CYC.RF0 d, 16, 16⟩
def CYC.RF0_RF_HYST (d : Nat) : RF := ⟨CYC.RF0 d, 0, 16⟩
def CYC.RF1 (d : Nat) : Nat := (d * 0x1000000 + 0x40000000) + 0x1E0004
def CYC.RF1_RF_MBIN (d : Nat) : RF := ⟨CYC.RF1 d, 16, 16⟩
def CYC.RF1_RF_MBASE (d : Nat) : RF := ⟨CYC.RF1 d, 0, 16⟩
def CYC.RFSTAT (d : Nat) : Nat := (d * 0x1000000 + 0x40000000) + 0x1E0008
def CYC.RFSTAT_RF_SAT (d : Nat) : RF := ⟨CYC.RFSTAT d, 16, 7⟩
def CYC.RFSTAT_RF_OVF (d : Nat) : RF := ⟨CYC.RFSTAT d, 0, 7⟩
def CYC.DEPTH (d : Nat) (k : Nat) : Nat := (d * 0x1000000 + 0x40000000) + 0x1E0010 + 0x4 * k
def CYC.DEPTH_DEPTH (d : Nat) (k : Nat) : RF := ⟨CYC.DEPTH d k, 0, 6⟩

/-! ### CRC : check-value units (chapter 16) -/
def CRC.CCFG (u : Nat) : Nat := 0x48000000 + 0x300000 + 0x4000 * u
def CRC.CCFG_TAG (u : Nat) : RF := ⟨CRC.CCFG u, 24, 8⟩
def CRC.CCFG_SEL (u : Nat) : RF := ⟨CRC.CCFG u, 16, 8⟩
def CRC.CCFG_WIDTH (u : Nat) : RF := ⟨CRC.CCFG u, 8, 6⟩
def CRC.CCFG_REFLECT (u : Nat) : RF := ⟨CRC.CCFG u, 4, 1⟩
def CRC.CCFG_SRC (u : Nat) : RF := ⟨CRC.CCFG u, 1, 3⟩
def CRC.CCFG_EN (u : Nat) : RF := ⟨CRC.CCFG u, 0, 1⟩
def CRC.POLY (u : Nat) : Nat := 0x48000000 + 0x300004 + 0x4000 * u
def CRC.POLY_POLY (u : Nat) : RF := ⟨CRC.POLY u, 0, 32⟩
def CRC.INIT (u : Nat) : Nat := 0x48000000 + 0x300008 + 0x4000 * u
def CRC.INIT_INIT (u : Nat) : RF := ⟨CRC.INIT u, 0, 32⟩
def CRC.XOROUT (u : Nat) : Nat := 0x48000000 + 0x30000C + 0x4000 * u
def CRC.XOROUT_XOROUT (u : Nat) : RF := ⟨CRC.XOROUT u, 0, 32⟩
def CRC.BASE (u : Nat) : Nat := 0x48000000 + 0x300010 + 0x4000 * u
def CRC.BASE_BASE (u : Nat) : RF := ⟨CRC.BASE u, 0, 32⟩
def CRC.LEN (u : Nat) : Nat := 0x48000000 + 0x300014 + 0x4000 * u
def CRC.LEN_LEN (u : Nat) : RF := ⟨CRC.LEN u, 0, 24⟩
def CRC.CCTL (u : Nat) : Nat := 0x48000000 + 0x300018 + 0x4000 * u
def CRC.CCTL_RESUME (u : Nat) : RF := ⟨CRC.CCTL u, 2, 1⟩
def CRC.CCTL_STOP (u : Nat) : RF := ⟨CRC.CCTL u, 1, 1⟩
def CRC.CCTL_START (u : Nat) : RF := ⟨CRC.CCTL u, 0, 1⟩
def CRC.VAL (u : Nat) : Nat := 0x48000000 + 0x30001C + 0x4000 * u
def CRC.VAL_VAL (u : Nat) : RF := ⟨CRC.VAL u, 0, 32⟩
def CRC.RESULT (u : Nat) : Nat := 0x48000000 + 0x300020 + 0x4000 * u
def CRC.RESULT_RESULT (u : Nat) : RF := ⟨CRC.RESULT u, 0, 32⟩
def CRC.COUNT (u : Nat) : Nat := 0x48000000 + 0x300024 + 0x4000 * u
def CRC.COUNT_COUNT (u : Nat) : RF := ⟨CRC.COUNT u, 0, 32⟩
def CRC.CSTAT (u : Nat) : Nat := 0x48000000 + 0x300028 + 0x4000 * u
def CRC.CSTAT_DONE_CNT (u : Nat) : RF := ⟨CRC.CSTAT u, 16, 16⟩
def CRC.CSTAT_CONF_CODE (u : Nat) : RF := ⟨CRC.CSTAT u, 8, 4⟩
def CRC.CSTAT_MAINT_BUSY (u : Nat) : RF := ⟨CRC.CSTAT u, 5, 1⟩
def CRC.CSTAT_INCOMPLETE (u : Nat) : RF := ⟨CRC.CSTAT u, 4, 1⟩
def CRC.CSTAT_SCAN_ERR (u : Nat) : RF := ⟨CRC.CSTAT u, 3, 1⟩
def CRC.CSTAT_CRC_CFG_ERR (u : Nat) : RF := ⟨CRC.CSTAT u, 2, 1⟩
def CRC.CSTAT_DONE (u : Nat) : RF := ⟨CRC.CSTAT u, 1, 1⟩
def CRC.CSTAT_BUSY (u : Nat) : RF := ⟨CRC.CSTAT u, 0, 1⟩
def CRC.DATA (u : Nat) : Nat := 0x48000000 + 0x300030 + 0x4000 * u
def CRC.DATA_DATA (u : Nat) : RF := ⟨CRC.DATA u, 0, 32⟩
def CRC.DATA_H (u : Nat) : Nat := 0x48000000 + 0x300034 + 0x4000 * u
def CRC.DATA_H_DATA_H (u : Nat) : RF := ⟨CRC.DATA_H u, 0, 16⟩
def CRC.DATA_B (u : Nat) : Nat := 0x48000000 + 0x300038 + 0x4000 * u
def CRC.DATA_B_DATA_B (u : Nat) : RF := ⟨CRC.DATA_B u, 0, 8⟩

/-! ### MAINT : maintenance scheduler (chapter 16) -/
def MAINT.MREQ : Nat := 0x48000000 + 0x340000
def MAINT.MREQ_GO : RF := ⟨MAINT.MREQ, 31, 1⟩
def MAINT.MREQ_UNIT : RF := ⟨MAINT.MREQ, 8, 8⟩
def MAINT.MREQ_DIE : RF := ⟨MAINT.MREQ, 4, 4⟩
def MAINT.MREQ_CODE : RF := ⟨MAINT.MREQ, 0, 4⟩
def MAINT.MRES : Nat := 0x48000000 + 0x340004
def MAINT.MRES_CONF_CODE : RF := ⟨MAINT.MRES, 20, 4⟩
def MAINT.MRES_OUTCOME : RF := ⟨MAINT.MRES, 16, 3⟩
def MAINT.MRES_SLOT : RF := ⟨MAINT.MRES, 8, 5⟩
def MAINT.MRES_MAINT_BUSY : RF := ⟨MAINT.MRES, 0, 1⟩
def MAINT.MRUN : Nat := 0x48000000 + 0x340008
def MAINT.MRUN_RUN : RF := ⟨MAINT.MRUN, 0, 10⟩
def MAINT.MCAN : Nat := 0x48000000 + 0x34000C
def MAINT.MCAN_GO : RF := ⟨MAINT.MCAN, 31, 1⟩
def MAINT.MCAN_SLOT : RF := ⟨MAINT.MCAN, 0, 5⟩
def MAINT.SLOTS (k : Nat) : Nat := 0x48000000 + 0x340040 + 0x8 * k
def MAINT.SLOTS_DEFERRED (k : Nat) : RF := ⟨MAINT.SLOTS k, 17, 1⟩
def MAINT.SLOTS_ACTIVE (k : Nat) : RF := ⟨MAINT.SLOTS k, 16, 1⟩
def MAINT.SLOTS_UNIT (k : Nat) : RF := ⟨MAINT.SLOTS k, 8, 8⟩
def MAINT.SLOTS_DIE (k : Nat) : RF := ⟨MAINT.SLOTS k, 4, 4⟩
def MAINT.SLOTS_CODE (k : Nat) : RF := ⟨MAINT.SLOTS k, 0, 4⟩
def MAINT.ELAPSED (k : Nat) : Nat := 0x48000000 + 0x340044 + 0x8 * k
def MAINT.ELAPSED_ELAPSED (k : Nat) : RF := ⟨MAINT.ELAPSED k, 0, 32⟩
def MAINT.RES (k : Nat) : Nat := 0x48000000 + 0x340100 + 0x8 * k
def MAINT.RES_RSEQ (k : Nat) : RF := ⟨MAINT.RES k, 24, 8⟩
def MAINT.RES_RESULT (k : Nat) : RF := ⟨MAINT.RES k, 16, 2⟩
def MAINT.RES_UNIT (k : Nat) : RF := ⟨MAINT.RES k, 8, 8⟩
def MAINT.RES_DIE (k : Nat) : RF := ⟨MAINT.RES k, 4, 4⟩
def MAINT.RES_CODE (k : Nat) : RF := ⟨MAINT.RES k, 0, 4⟩
def MAINT.RESU (k : Nat) : Nat := 0x48000000 + 0x340104 + 0x8 * k
def MAINT.RESU_SKIPPED (k : Nat) : RF := ⟨MAINT.RESU k, 16, 16⟩
def MAINT.RESU_FAILED (k : Nat) : RF := ⟨MAINT.RESU k, 0, 16⟩

/-- ELINK link status (chapter 1), on a die that terminates `n` links. -/
def regRows_ELINK (n : Nat) : List RegRow := [
  ⟨"STAT", 0x0, 0x10, n, 0x0, 1, false, [⟨24, 8, .ro⟩, ⟨16, 8, .ro⟩, ⟨10, 1, .w1c⟩, ⟨9, 1, .w1c⟩, ⟨8, 1, .ro⟩, ⟨4, 4, .ro⟩, ⟨0, 4, .ro⟩], fun _ _ _ => 0xFF⟩]

/-- REGCTL parity record (R36-R43). -/
def regRows_REGCTL : List RegRow := [
  ⟨"PAR_STAT", 0x0, 0x0, 1, 0x0, 1, false, [⟨16, 16, .ro⟩, ⟨2, 1, .w1c⟩, ⟨1, 1, .w1c⟩, ⟨0, 1, .w1c⟩], fun _ _ _ => 0x0⟩,
  ⟨"PAR_FIRST", 0x4, 0x0, 1, 0x0, 1, false, [⟨0, 32, .ro⟩], fun _ _ _ => 0x0⟩,
  ⟨"PAR_LAST", 0x8, 0x0, 1, 0x0, 1, false, [⟨0, 32, .ro⟩], fun _ _ _ => 0x0⟩,
  ⟨"SCRUB", 0xC, 0x0, 1, 0x0, 1, false, [⟨16, 16, .ro⟩], fun _ _ _ => 0x0⟩]

/-- CLK: PLL and bands of every die (chapter 3). -/
def regRows_CLK : List RegRow := [
  ⟨"LOCK_CFG", 0x0, 0x0, 1, 0x0, 1, true, [⟨16, 4, .rw⟩, ⟨12, 4, .rw⟩, ⟨0, 12, .rw⟩], fun _ _ _ => 0x34040⟩,
  ⟨"PLL_STAT", 0x4, 0x0, 1, 0x0, 1, false, [⟨16, 16, .ro⟩, ⟨13, 3, .ro⟩, ⟨12, 1, .ro⟩, ⟨11, 1, .w1c⟩, ⟨10, 1, .ro⟩, ⟨9, 1, .ro⟩, ⟨0, 6, .ro⟩], fun _ _ _ => 0x0⟩,
  ⟨"HOP_FLAG", 0x10, 0x0, 1, 0x0, 1, false, [⟨6, 1, .ro⟩, ⟨3, 3, .ro⟩, ⟨2, 1, .ro⟩, ⟨1, 1, .w1c⟩, ⟨0, 1, .w1c⟩], fun _ _ _ => 0x0⟩,
  ⟨"BAND", 0x80, 0x4, 16, 0x0, 1, false, [⟨31, 1, .ro⟩, ⟨8, 8, .ro⟩, ⟨0, 6, .ro⟩], fun _ _ _ => 0x0⟩]

/-- CLK of a drive die: HOP_CFG, HOP_STAT and SLOTk exist on the drive dies only. -/
def regRows_CLKD : List RegRow := regRows_CLK ++ [
  ⟨"HOP_CFG", 0x8, 0x0, 1, 0x0, 1, true, [⟨16, 16, .rw⟩, ⟨8, 8, .rw⟩, ⟨4, 4, .rw⟩, ⟨1, 1, .rw⟩, ⟨0, 1, .rw⟩], fun _ _ _ => 0x1000⟩,
  ⟨"HOP_STAT", 0xC, 0x0, 1, 0x0, 1, false, [⟨16, 16, .ro⟩, ⟨0, 16, .ro⟩], fun _ _ _ => 0x80008000⟩,
  ⟨"SLOT", 0x40, 0x4, 8, 0x0, 1, true, [⟨24, 8, .rw⟩, ⟨0, 24, .rw⟩], fun _ _ _ => 0x80000000⟩]

/-- CKMON clock monitor (chapter 3). -/
def regRows_CKMON : List RegRow := [
  ⟨"MON", 0x0, 0x4, 10, 0x0, 1, false, [⟨17, 1, .ro⟩, ⟨16, 1, .ro⟩, ⟨0, 16, .ro⟩], fun _ _ _ => 0x0⟩,
  ⟨"WR_PEND", 0xFFC, 0x0, 1, 0x0, 1, false, [⟨31, 1, .ro⟩, ⟨30, 1, .w1c⟩, ⟨8, 1, .ro⟩, ⟨0, 3, .ro⟩], fun _ _ _ => 0x0⟩]

/-- RTC of the keeper (chapter 3). -/
def regRows_RTC : List RegRow := [
  ⟨"RTC_SUB", 0x0, 0x0, 1, 0x0, 1, false, [⟨0, 15, .ro⟩], fun _ _ _ => 0x0⟩,
  ⟨"RTC_SEC", 0x4, 0x0, 1, 0x0, 1, false, [⟨0, 32, .ro⟩], fun _ _ _ => 0x0⟩,
  ⟨"RTC_TRIM", 0x8, 0x0, 1, 0x0, 1, true, [⟨0, 11, .rw⟩], fun _ _ _ => 0x0⟩,
  ⟨"RTC_FLAG", 0xC, 0x0, 1, 0x0, 1, false, [⟨0, 1, .w1c⟩], fun _ _ _ => 0x0⟩,
  ⟨"WR_PEND", 0xFFC, 0x0, 1, 0x0, 1, false, [⟨31, 1, .ro⟩, ⟨30, 1, .w1c⟩, ⟨8, 1, .ro⟩, ⟨0, 3, .ro⟩], fun _ _ _ => 0x0⟩]

/-- PWM groups (chapter 4). -/
def regRows_PWM : List RegRow := [
  ⟨"GCFG", 0x0, 0x100, 4, 0x0, 1, true, [⟨16, 7, .rw⟩, ⟨12, 1, .rw⟩, ⟨8, 4, .rw⟩, ⟨5, 2, .rw⟩, ⟨4, 1, .rw⟩, ⟨3, 1, .rw⟩, ⟨1, 2, .rw⟩, ⟨0, 1, .rw⟩], fun _ _ _ => 0x2⟩,
  ⟨"PER", 0x4, 0x100, 4, 0x0, 1, true, [⟨0, 20, .rw⟩], fun _ _ _ => 0x0⟩,
  ⟨"PHASE", 0x8, 0x100, 4, 0x0, 1, true, [⟨0, 20, .rw⟩], fun _ _ _ => 0x0⟩,
  ⟨"MIN_OFF", 0xC, 0x100, 4, 0x0, 1, true, [⟨0, 13, .rw⟩], fun _ _ _ => 0x0⟩,
  ⟨"PER_MIN", 0x10, 0x100, 4, 0x0, 1, true, [⟨0, 20, .rw⟩], fun _ _ _ => 0x10⟩,
  ⟨"WRPT", 0x14, 0x100, 4, 0x0, 1, true, [⟨0, 20, .rw⟩], fun _ _ _ => 0x10⟩,
  ⟨"COMMIT", 0x18, 0x100, 4, 0x0, 1, false, [⟨0, 1, .w1s⟩], fun _ _ _ => 0x0⟩,
  ⟨"CNT", 0x1C, 0x100, 4, 0x0, 1, false, [⟨24, 8, .ro⟩, ⟨20, 1, .ro⟩, ⟨0, 20, .ro⟩], fun _ _ _ => 0x0⟩,
  ⟨"STAT", 0x20, 0x100, 4, 0x0, 1, false, [⟨24, 8, .ro⟩, ⟨9, 1, .ro⟩, ⟨8, 1, .ro⟩, ⟨5, 1, .w1c⟩, ⟨4, 1, .w1c⟩, ⟨3, 1, .w1c⟩, ⟨2, 1, .w1c⟩, ⟨1, 1, .w1c⟩, ⟨0, 1, .w1c⟩], fun _ _ _ => 0x0⟩,
  ⟨"SPLIT_LOG", 0x24, 0x100, 4, 0x0, 1, false, [⟨24, 8, .ro⟩, ⟨16, 3, .ro⟩, ⟨8, 8, .ro⟩, ⟨0, 8, .ro⟩], fun _ _ _ => 0x0⟩,
  ⟨"DLY_MON", 0x800, 0x0, 1, 0x0, 1, false, [⟨0, 16, .ro⟩], fun _ _ _ => 0x6400⟩]

/-- gate ports GP(6d+j), j = 0-5 (chapters 4, 5). -/
def regRows_PORT : List RegRow := [
  ⟨"DUTY", 0x0, 0x0, 1, 0x0, 1, true, [⟨6, 20, .rw⟩, ⟨0, 6, .rw⟩], fun _ _ _ => 0x0⟩,
  ⟨"DT_RISE", 0x4, 0x0, 1, 0x0, 1, true, [⟨6, 13, .rw⟩, ⟨0, 6, .rw⟩], fun _ _ _ => 0x1000⟩,
  ⟨"DT_FALL", 0x8, 0x0, 1, 0x0, 1, true, [⟨6, 13, .rw⟩, ⟨0, 6, .rw⟩], fun _ _ _ => 0x1000⟩,
  ⟨"PMODE", 0xC, 0x0, 1, 0x0, 1, true, [⟨0, 2, .rw⟩], fun _ _ _ => 0x0⟩,
  ⟨"TAGS", 0x1C, 0x0, 1, 0x0, 1, false, [⟨16, 8, .ro⟩, ⟨8, 8, .ro⟩, ⟨0, 8, .ro⟩], fun _ _ _ => 0x0⟩,
  ⟨"DLY_CAL", 0x40, 0x0, 1, 0x0, 1, true, [⟨16, 16, .rw⟩, ⟨0, 16, .rw⟩], fun _ _ _ => 0x64006400⟩,
  ⟨"DLY_CTL", 0x44, 0x0, 1, 0x0, 1, true, [⟨0, 8, .rw⟩], fun _ _ _ => 0x20⟩,
  ⟨"DLY_STAT", 0x48, 0x0, 1, 0x0, 1, false, [⟨1, 1, .ro⟩, ⟨0, 1, .w1c⟩], fun _ _ _ => 0x0⟩,
  ⟨"LIN", 0x200, 0x4, 64, 0x0, 1, true, [⟨0, 8, .rw⟩], fun _ f _ => (25 * f + 8) / 16⟩,
  ⟨"ACT_DUTY", 0x10, 0x0, 1, 0x0, 1, false, [⟨6, 20, .ro⟩, ⟨0, 6, .ro⟩], fun _ _ _ => 0x0⟩,
  ⟨"ACT_DT_RISE", 0x14, 0x0, 1, 0x0, 1, false, [⟨6, 13, .ro⟩, ⟨0, 6, .ro⟩], fun _ _ _ => 0x0⟩,
  ⟨"ACT_DT_FALL", 0x18, 0x0, 1, 0x0, 1, false, [⟨6, 13, .ro⟩, ⟨0, 6, .ro⟩], fun _ _ _ => 0x0⟩,
  ⟨"PCFG", 0x100, 0x0, 1, 0x0, 1, true, [⟨8, 4, .rw⟩, ⟨3, 1, .rw⟩, ⟨2, 1, .rw⟩, ⟨1, 1, .rw⟩, ⟨0, 1, .rw⟩], fun _ _ _ => 0x9⟩,
  ⟨"CHOP_TON", 0x104, 0x0, 1, 0x0, 1, true, [⟨0, 20, .rw⟩], fun _ _ _ => 0x190⟩,
  ⟨"CHOP_TOFF", 0x108, 0x0, 1, 0x0, 1, true, [⟨0, 20, .rw⟩], fun _ _ _ => 0x190⟩,
  ⟨"FLTSTAT", 0x10C, 0x0, 1, 0x0, 1, false, [⟨24, 8, .ro⟩, ⟨16, 8, .ro⟩, ⟨4, 1, .wo⟩, ⟨3, 1, .ro⟩, ⟨0, 3, .ro⟩], fun _ _ _ => 0x0⟩,
  ⟨"FLTWID", 0x110, 0x0, 1, 0x0, 1, false, [⟨0, 20, .ro⟩], fun _ _ _ => 0x0⟩,
  ⟨"CHOP_STAT", 0x114, 0x0, 1, 0x0, 1, false, [⟨0, 1, .ro⟩], fun _ _ _ => 0x0⟩]

/-- auxiliary port APd, j = 6 (chapters 4, 5). -/
def regRows_APB : List RegRow := [
  ⟨"DUTY", 0x0, 0x0, 1, 0x0, 1, true, [⟨6, 20, .rw⟩, ⟨0, 6, .rw⟩], fun _ _ _ => 0x0⟩,
  ⟨"DT_RISE", 0x4, 0x0, 1, 0x0, 1, true, [⟨6, 13, .rw⟩, ⟨0, 6, .rw⟩], fun _ _ _ => 0x1000⟩,
  ⟨"DT_FALL", 0x8, 0x0, 1, 0x0, 1, true, [⟨6, 13, .rw⟩, ⟨0, 6, .rw⟩], fun _ _ _ => 0x1000⟩,
  ⟨"PMODE", 0xC, 0x0, 1, 0x0, 1, true, [⟨0, 2, .rw⟩], fun _ _ _ => 0x0⟩,
  ⟨"TAGS", 0x1C, 0x0, 1, 0x0, 1, false, [⟨16, 8, .ro⟩, ⟨8, 8, .ro⟩, ⟨0, 8, .ro⟩], fun _ _ _ => 0x0⟩,
  ⟨"DLY_CAL", 0x40, 0x0, 1, 0x0, 1, true, [⟨16, 16, .rw⟩, ⟨0, 16, .rw⟩], fun _ _ _ => 0x64006400⟩,
  ⟨"DLY_CTL", 0x44, 0x0, 1, 0x0, 1, true, [⟨0, 8, .rw⟩], fun _ _ _ => 0x20⟩,
  ⟨"DLY_STAT", 0x48, 0x0, 1, 0x0, 1, false, [⟨1, 1, .ro⟩, ⟨0, 1, .w1c⟩], fun _ _ _ => 0x0⟩,
  ⟨"LIN", 0x200, 0x4, 64, 0x0, 1, true, [⟨0, 8, .rw⟩], fun _ f _ => (25 * f + 8) / 16⟩,
  ⟨"ACT_DUTY", 0x10, 0x0, 1, 0x0, 1, false, [⟨6, 20, .ro⟩, ⟨0, 6, .ro⟩], fun _ _ _ => 0x0⟩,
  ⟨"ACT_DT_RISE", 0x14, 0x0, 1, 0x0, 1, false, [⟨6, 13, .ro⟩, ⟨0, 6, .ro⟩], fun _ _ _ => 0x0⟩,
  ⟨"ACT_DT_FALL", 0x18, 0x0, 1, 0x0, 1, false, [⟨6, 13, .ro⟩, ⟨0, 6, .ro⟩], fun _ _ _ => 0x0⟩,
  ⟨"APCFG", 0x100, 0x0, 1, 0x0, 1, true, [⟨0, 1, .rw⟩], fun _ _ _ => 0x1⟩,
  ⟨"APREF_W", 0x104, 0x0, 1, 0x0, 1, true, [⟨0, 13, .rw⟩], fun _ _ _ => 0x100⟩,
  ⟨"APREF_INT", 0x108, 0x0, 1, 0x0, 1, true, [⟨0, 24, .rw⟩], fun _ _ _ => 0x9C40⟩,
  ⟨"APSTAT", 0x10C, 0x0, 1, 0x0, 1, false, [⟨16, 16, .ro⟩, ⟨2, 1, .ro⟩, ⟨1, 1, .ro⟩, ⟨0, 1, .w1c⟩], fun _ _ _ => 0x0⟩]

/-- trip groups (chapter 5). -/
def regRows_TRIP : List RegRow := [
  ⟨"SRCACT", 0x10, 0x100, 2, 0x0, 1, false, [⟨31, 1, .ro⟩, ⟨30, 1, .ro⟩, ⟨28, 2, .ro⟩, ⟨24, 4, .ro⟩, ⟨16, 7, .ro⟩, ⟨0, 16, .ro⟩], fun _ _ _ => 0x0⟩,
  ⟨"FCVEC", 0x14, 0x100, 2, 0x0, 1, false, [⟨31, 1, .ro⟩, ⟨30, 1, .ro⟩, ⟨28, 2, .ro⟩, ⟨24, 4, .ro⟩, ⟨16, 7, .ro⟩, ⟨0, 16, .ro⟩], fun _ _ _ => 0x0⟩,
  ⟨"TGCFG", 0x0, 0x100, 2, 0x0, 1, true, [⟨8, 4, .rw⟩, ⟨5, 1, .rw⟩, ⟨4, 1, .rw⟩, ⟨2, 2, .rw⟩, ⟨0, 2, .rw⟩], fun _ _ _ => 0x128⟩,
  ⟨"SRCMASK", 0x4, 0x100, 2, 0x0, 1, true, [⟨31, 1, .ro⟩, ⟨30, 1, .rw⟩, ⟨28, 2, .rw⟩, ⟨24, 4, .rw⟩, ⟨16, 7, .ro⟩, ⟨0, 16, .rw⟩], fun _ k _ => if k = 0 then 0xC07F0000 else 0xC0000000⟩,
  ⟨"TGCTL", 0x8, 0x100, 2, 0x0, 1, false, [⟨0, 2, .rw⟩], fun _ _ _ => 0x1⟩,
  ⟨"TGSTAT", 0xC, 0x100, 2, 0x0, 1, false, [⟨16, 16, .ro⟩, ⟨8, 8, .ro⟩, ⟨4, 1, .ro⟩, ⟨3, 1, .w1c⟩, ⟨2, 1, .w1c⟩, ⟨1, 1, .ro⟩, ⟨0, 1, .ro⟩], fun _ _ _ => 0x101⟩,
  ⟨"FCTIME_LO", 0x18, 0x100, 2, 0x0, 1, false, [⟨0, 32, .ro⟩], fun _ _ _ => 0x0⟩,
  ⟨"FCTIME_HI", 0x1C, 0x100, 2, 0x0, 1, false, [⟨0, 16, .ro⟩], fun _ _ _ => 0x0⟩,
  ⟨"FCENT", 0x20, 0x100, 2, 0x4, 8, false, [⟨31, 1, .ro⟩, ⟨8, 6, .ro⟩, ⟨0, 3, .ro⟩], fun _ _ i => if i = 0 then 0x80002007 else 0x7⟩,
  ⟨"CSRC", 0x200, 0x4, 16, 0x0, 1, true, [⟨20, 1, .ro⟩, ⟨16, 4, .rw⟩, ⟨4, 10, .rw⟩, ⟨3, 1, .rw⟩, ⟨0, 3, .rw⟩], fun _ _ _ => 0x7⟩,
  ⟨"TTIME_LO", 0x300, 0x0, 1, 0x0, 1, false, [⟨0, 32, .ro⟩], fun _ _ _ => 0x0⟩,
  ⟨"TTIME_HI", 0x304, 0x0, 1, 0x0, 1, false, [⟨0, 16, .ro⟩], fun _ _ _ => 0x0⟩,
  ⟨"TRIPIN", 0x308, 0x0, 1, 0x0, 1, true, [⟨8, 8, .rw⟩, ⟨0, 4, .rw⟩], fun _ _ _ => 0x400⟩,
  ⟨"PINSTAT", 0x30C, 0x0, 1, 0x0, 1, false, [⟨4, 4, .ro⟩, ⟨0, 4, .ro⟩], fun _ _ _ => 0xF⟩,
  ⟨"MEMBERS", 0x310, 0x0, 1, 0x0, 1, true, [⟨0, 7, .rw⟩], fun _ _ _ => 0x0⟩]

/-- ADC cores (chapter 6). -/
def regRows_ADC : List RegRow := [
  ⟨"ACFG", 0x0, 0x0, 1, 0x0, 1, true, [⟨6, 1, .rw⟩, ⟨4, 2, .rw⟩, ⟨2, 2, .rw⟩, ⟨1, 1, .rw⟩, ⟨0, 1, .rw⟩], fun _ _ _ => 0x0⟩,
  ⟨"SEQCFG", 0x4, 0x0, 1, 0x0, 1, true, [⟨20, 4, .rw⟩, ⟨16, 4, .rw⟩, ⟨8, 3, .rw⟩, ⟨0, 5, .rw⟩], fun _ _ _ => 0x0⟩,
  ⟨"RTRIG", 0x8, 0x0, 1, 0x0, 1, true, [⟨20, 4, .rw⟩, ⟨0, 20, .rw⟩], fun _ _ _ => 0x0⟩,
  ⟨"ITRIG", 0xC, 0x0, 1, 0x0, 1, true, [⟨20, 4, .rw⟩, ⟨0, 20, .rw⟩], fun _ _ _ => 0x0⟩,
  ⟨"ACTL", 0x10, 0x0, 1, 0x0, 1, false, [⟨1, 1, .wo⟩, ⟨0, 1, .wo⟩], fun _ _ _ => 0x0⟩,
  ⟨"ASTAT", 0x14, 0x0, 1, 0x0, 1, false, [⟨16, 16, .ro⟩, ⟨12, 4, .ro⟩, ⟨11, 1, .ro⟩, ⟨10, 1, .ro⟩, ⟨9, 1, .ro⟩, ⟨5, 1, .w1c⟩, ⟨4, 1, .w1c⟩, ⟨3, 1, .w1c⟩, ⟨2, 1, .w1c⟩, ⟨0, 2, .w1c⟩], fun _ _ _ => 0x0⟩,
  ⟨"ACAL_SE", 0x20, 0x0, 1, 0x0, 1, true, [⟨16, 16, .rw⟩, ⟨0, 16, .rw⟩], fun _ _ _ => 0x80000000⟩,
  ⟨"ACAL_DIFF", 0x24, 0x0, 1, 0x0, 1, true, [⟨16, 16, .rw⟩, ⟨0, 16, .rw⟩], fun _ _ _ => 0x80000000⟩,
  ⟨"RENT", 0x40, 0x4, 16, 0x0, 1, true, [⟨8, 1, .rw⟩, ⟨0, 5, .rw⟩], fun _ _ _ => 0x1A⟩,
  ⟨"IENT", 0x80, 0x4, 4, 0x0, 1, true, [⟨8, 1, .rw⟩, ⟨0, 5, .rw⟩], fun _ _ _ => 0x1A⟩,
  ⟨"RRES", 0x100, 0x4, 16, 0x0, 1, false, [⟨0, 32, .ro⟩], fun _ _ _ => 0x0⟩,
  ⟨"IRES", 0x140, 0x4, 4, 0x0, 1, false, [⟨0, 32, .ro⟩], fun _ _ _ => 0x0⟩]

/-- comparators (chapter 6). -/
def regRows_CMP : List RegRow := [
  ⟨"CCFG", 0x0, 0x40, 16, 0x0, 1, true, [⟨17, 1, .rw⟩, ⟨15, 2, .rw⟩, ⟨14, 1, .rw⟩, ⟨13, 1, .rw⟩, ⟨12, 1, .rw⟩, ⟨10, 2, .rw⟩, ⟨8, 2, .rw⟩, ⟨7, 1, .rw⟩, ⟨6, 1, .rw⟩, ⟨4, 2, .rw⟩, ⟨0, 4, .rw⟩], fun _ _ _ => 0x1010⟩,
  ⟨"CTHR", 0x4, 0x40, 16, 0x0, 1, true, [⟨16, 10, .rw⟩, ⟨0, 12, .rw⟩], fun _ _ _ => 0x80800⟩,
  ⟨"CSTAT", 0x8, 0x40, 16, 0x0, 1, false, [⟨16, 16, .ro⟩, ⟨6, 1, .ro⟩, ⟨5, 1, .w1c⟩, ⟨4, 1, .ro⟩, ⟨3, 1, .w1c⟩, ⟨2, 1, .ro⟩, ⟨1, 1, .w1c⟩, ⟨0, 1, .ro⟩], fun _ _ _ => 0x0⟩,
  ⟨"CTEST", 0xC, 0x40, 16, 0x0, 1, false, [⟨0, 3, .rw⟩], fun _ _ _ => 0x0⟩,
  ⟨"CCAPT", 0x10, 0x40, 16, 0x0, 1, false, [⟨0, 32, .ro⟩], fun _ _ _ => 0x0⟩,
  ⟨"CCAPC", 0x14, 0x40, 16, 0x0, 1, false, [⟨31, 1, .w1c⟩, ⟨30, 1, .ro⟩, ⟨20, 1, .ro⟩, ⟨0, 20, .ro⟩], fun _ _ _ => 0x0⟩]

/-- position interfaces (chapter 6). -/
def regRows_PI : List RegRow := [
  ⟨"PICFG", 0x0, 0x0, 1, 0x0, 1, true, [⟨12, 4, .rw⟩, ⟨10, 1, .rw⟩, ⟨4, 6, .rw⟩, ⟨2, 2, .rw⟩, ⟨1, 1, .rw⟩, ⟨0, 1, .rw⟩], fun _ _ _ => 0x3080⟩,
  ⟨"PISRC", 0x4, 0x0, 1, 0x0, 1, true, [⟨16, 16, .rw⟩, ⟨10, 4, .rw⟩, ⟨8, 2, .rw⟩, ⟨2, 4, .rw⟩, ⟨0, 2, .rw⟩], fun _ _ _ => 0x400⟩,
  ⟨"PIGAIN", 0x8, 0x0, 1, 0x0, 1, true, [⟨16, 16, .rw⟩, ⟨0, 16, .rw⟩], fun _ _ _ => 0x801000⟩,
  ⟨"PICPR", 0xC, 0x0, 1, 0x0, 1, true, [⟨0, 24, .rw⟩], fun _ _ _ => 0x1000⟩,
  ⟨"PIAMP", 0x10, 0x0, 1, 0x0, 1, true, [⟨16, 16, .rw⟩, ⟨0, 16, .rw⟩], fun _ _ _ => 0x70000800⟩,
  ⟨"PIANG", 0x14, 0x0, 1, 0x0, 1, false, [⟨16, 16, .ro⟩, ⟨0, 16, .ro⟩], fun _ _ _ => 0x0⟩,
  ⟨"PIPOS", 0x18, 0x0, 1, 0x0, 1, false, [⟨0, 32, .ro⟩], fun _ _ _ => 0x0⟩,
  ⟨"PIZCAP", 0x1C, 0x0, 1, 0x0, 1, false, [⟨0, 32, .ro⟩], fun _ _ _ => 0x0⟩,
  ⟨"PISTAT", 0x20, 0x0, 1, 0x0, 1, false, [⟨16, 16, .ro⟩, ⟨4, 1, .w1c⟩, ⟨3, 1, .w1c⟩, ⟨2, 1, .w1c⟩, ⟨1, 1, .w1c⟩, ⟨0, 1, .w1c⟩], fun _ _ _ => 0x0⟩,
  ⟨"PIAMPS", 0x24, 0x0, 1, 0x0, 1, false, [⟨0, 16, .ro⟩], fun _ _ _ => 0x0⟩]

/-- control-law engines (chapter 7). -/
def regRows_CLE : List RegRow := [
  ⟨"CLECFG", 0x0, 0x0, 1, 0x0, 1, true, [⟨20, 1, .rw⟩, ⟨4, 16, .rw⟩, ⟨1, 2, .rw⟩, ⟨0, 1, .rw⟩], fun _ _ _ => 0x100⟩,
  ⟨"FLAGS", 0x4, 0x0, 1, 0x0, 1, false, [⟨16, 16, .ro⟩, ⟨9, 1, .ro⟩, ⟨8, 1, .ro⟩, ⟨7, 1, .w1c⟩, ⟨6, 1, .w1c⟩, ⟨5, 1, .w1c⟩, ⟨4, 1, .w1c⟩, ⟨3, 1, .ro⟩, ⟨2, 1, .w1c⟩, ⟨0, 1, .w1c⟩], fun _ _ _ => 0x0⟩,
  ⟨"CYC", 0x8, 0x0, 1, 0x0, 1, false, [⟨16, 16, .ro⟩, ⟨0, 16, .ro⟩], fun _ _ _ => 0x0⟩,
  ⟨"ECC", 0xC, 0x0, 1, 0x0, 1, false, [⟨16, 16, .ro⟩, ⟨12, 2, .ro⟩, ⟨0, 12, .ro⟩], fun _ _ _ => 0x0⟩,
  ⟨"REPORT", 0x40, 0x4, 8, 0x0, 1, false, [⟨0, 32, .ro⟩], fun _ _ _ => 0x0⟩,
  ⟨"CWP", 0x400, 0x4, 64, 0x0, 1, false, [⟨0, 32, .rw⟩], fun _ _ _ => 0x0⟩,
  ⟨"CWC", 0x500, 0x4, 64, 0x0, 1, false, [⟨0, 32, .ro⟩], fun _ _ _ => 0x0⟩,
  ⟨"CW_COMMIT", 0x600, 0x0, 1, 0x0, 1, false, [⟨24, 8, .ro⟩, ⟨0, 1, .w1s⟩], fun _ _ _ => 0x0⟩]

/-- grid synchronisation unit (chapter 8). -/
def regRows_GSU : List RegRow := [
  ⟨"GCFG", 0x0, 0x0, 1, 0x0, 1, true, [⟨6, 2, .rw⟩, ⟨4, 1, .rw⟩, ⟨3, 1, .rw⟩, ⟨1, 2, .rw⟩, ⟨0, 1, .rw⟩], fun _ _ _ => 0x0⟩,
  ⟨"VSRC", 0x4, 0x0, 1, 0x0, 1, true, [⟨0, 22, .rw⟩], fun _ _ _ => 0x0⟩,
  ⟨"ISRC", 0x8, 0x0, 1, 0x0, 1, true, [⟨0, 22, .rw⟩], fun _ _ _ => 0x0⟩,
  ⟨"VGAIN", 0xC, 0x0, 1, 0x0, 1, true, [⟨0, 32, .rw⟩], fun _ _ _ => 0x0⟩,
  ⟨"IGAIN", 0x10, 0x0, 1, 0x0, 1, true, [⟨0, 32, .rw⟩], fun _ _ _ => 0x0⟩,
  ⟨"VLOCK", 0x14, 0x0, 1, 0x0, 1, true, [⟨0, 16, .rw⟩], fun _ _ _ => 0xCCD⟩,
  ⟨"PROBE", 0x18, 0x0, 1, 0x0, 1, true, [⟨16, 8, .rw⟩, ⟨8, 4, .rw⟩, ⟨0, 8, .rw⟩], fun _ _ _ => 0x302C8⟩,
  ⟨"ZTH", 0x1C, 0x0, 1, 0x0, 1, true, [⟨0, 32, .rw⟩], fun _ _ _ => 0x4CCD⟩,
  ⟨"ISLCFG", 0x20, 0x0, 1, 0x0, 1, true, [⟨12, 1, .rw⟩, ⟨11, 1, .rw⟩, ⟨10, 1, .rw⟩, ⟨9, 1, .rw⟩, ⟨8, 1, .rw⟩, ⟨4, 4, .rw⟩, ⟨0, 4, .rw⟩], fun _ _ _ => 0x1842⟩,
  ⟨"ROCOF_TH", 0x24, 0x0, 1, 0x0, 1, true, [⟨0, 32, .rw⟩], fun _ _ _ => 0x20000⟩,
  ⟨"VS_TH", 0x28, 0x0, 1, 0x0, 1, true, [⟨0, 16, .rw⟩], fun _ _ _ => 0x2AAB⟩,
  ⟨"FSCFG", 0x2C, 0x0, 1, 0x0, 1, true, [⟨16, 16, .rw⟩, ⟨0, 16, .rw⟩], fun _ _ _ => 0x5B00000⟩,
  ⟨"FREQ", 0x40, 0x0, 1, 0x0, 1, false, [⟨0, 32, .ro⟩], fun _ _ _ => 0x0⟩,
  ⟨"ROCOF", 0x44, 0x0, 1, 0x0, 1, false, [⟨0, 32, .ro⟩], fun _ _ _ => 0x0⟩,
  ⟨"VSEQ", 0x48, 0x0, 1, 0x0, 1, false, [⟨16, 16, .ro⟩, ⟨0, 16, .ro⟩], fun _ _ _ => 0x0⟩,
  ⟨"VPH01", 0x4C, 0x0, 1, 0x0, 1, false, [⟨16, 16, .ro⟩, ⟨0, 16, .ro⟩], fun _ _ _ => 0x0⟩,
  ⟨"VPH2R", 0x50, 0x0, 1, 0x0, 1, false, [⟨0, 16, .ro⟩], fun _ _ _ => 0x0⟩,
  ⟨"ANG", 0x54, 0x0, 1, 0x0, 1, false, [⟨16, 16, .ro⟩, ⟨0, 16, .ro⟩], fun _ _ _ => 0x0⟩,
  ⟨"JUMP", 0x58, 0x0, 1, 0x0, 1, false, [⟨16, 16, .ro⟩, ⟨0, 16, .ro⟩], fun _ _ _ => 0x0⟩,
  ⟨"ZMAG", 0x5C, 0x0, 1, 0x0, 1, false, [⟨0, 32, .ro⟩], fun _ _ _ => 0x0⟩,
  ⟨"GSTAT", 0x60, 0x0, 1, 0x0, 1, false, [⟨24, 8, .ro⟩, ⟨16, 4, .ro⟩, ⟨13, 1, .w1c⟩, ⟨12, 1, .w1c⟩, ⟨11, 1, .ro⟩, ⟨10, 1, .w1c⟩, ⟨9, 1, .w1c⟩, ⟨6, 3, .ro⟩, ⟨5, 1, .ro⟩, ⟨4, 1, .ro⟩, ⟨3, 1, .ro⟩, ⟨2, 1, .ro⟩, ⟨1, 1, .ro⟩, ⟨0, 1, .ro⟩], fun _ _ _ => 0x0⟩]

/-- ride-through supervisor (chapter 8). -/
def regRows_RTS : List RegRow := [
  ⟨"RTCFG", 0x0, 0x0, 1, 0x0, 1, true, [⟨16, 16, .rw⟩, ⟨5, 2, .rw⟩, ⟨4, 1, .rw⟩, ⟨3, 1, .rw⟩, ⟨1, 2, .rw⟩, ⟨0, 1, .rw⟩], fun _ _ _ => 0x140038⟩,
  ⟨"DRC", 0x4, 0x0, 1, 0x0, 1, true, [⟨16, 16, .rw⟩, ⟨0, 16, .rw⟩], fun _ _ _ => 0x6662000⟩,
  ⟨"NEG", 0x8, 0x0, 1, 0x0, 1, true, [⟨16, 16, .rw⟩, ⟨0, 16, .rw⟩], fun _ _ _ => 0x20007FFF⟩,
  ⟨"PJ_MAX", 0xC, 0x0, 1, 0x0, 1, true, [⟨0, 16, .rw⟩], fun _ _ _ => 0x2AAB⟩,
  ⟨"ILIM", 0x10, 0x0, 1, 0x0, 1, true, [⟨0, 16, .rw⟩], fun _ _ _ => 0x7FFF⟩,
  ⟨"RCD", 0x14, 0x0, 1, 0x0, 1, true, [⟨16, 6, .rw⟩, ⟨0, 16, .rw⟩], fun _ _ _ => 0x12C⟩,
  ⟨"RCV", 0x18, 0x0, 1, 0x0, 1, true, [⟨16, 16, .rw⟩, ⟨0, 16, .rw⟩], fun _ _ _ => 0x43333AB0⟩,
  ⟨"RCF", 0x1C, 0x0, 1, 0x0, 1, true, [⟨16, 16, .rw⟩, ⟨0, 16, .rw⟩], fun _ _ _ => 0xC3B4C15C⟩,
  ⟨"RTCTL", 0x20, 0x0, 1, 0x0, 1, false, [⟨1, 1, .w1s⟩, ⟨0, 1, .w1s⟩], fun _ _ _ => 0x0⟩,
  ⟨"RTSTAT", 0x40, 0x0, 1, 0x0, 1, false, [⟨16, 16, .ro⟩, ⟨14, 1, .ro⟩, ⟨13, 1, .w1c⟩, ⟨12, 1, .w1c⟩, ⟨11, 1, .w1c⟩, ⟨10, 1, .ro⟩, ⟨8, 2, .ro⟩, ⟨7, 1, .ro⟩, ⟨6, 1, .ro⟩, ⟨4, 2, .ro⟩, ⟨0, 3, .ro⟩], fun _ _ _ => 0x200⟩,
  ⟨"TDIST", 0x44, 0x0, 1, 0x0, 1, false, [⟨0, 32, .ro⟩], fun _ _ _ => 0x0⟩,
  ⟨"RTOUT", 0x48, 0x0, 1, 0x0, 1, false, [⟨16, 16, .ro⟩, ⟨0, 16, .ro⟩], fun _ _ _ => 0x0⟩,
  ⟨"RC_SEC", 0x4C, 0x0, 1, 0x0, 1, false, [⟨0, 16, .ro⟩], fun _ _ _ => 0x0⟩]

/-- curve memory of the ride-through supervisor (R300). -/
def regRows_CURVE : List RegRow := [
  ⟨"HEAD", 0x0, 0x100, 16, 0x0, 1, true, [⟨0, 5, .rw⟩], fun _ c _ => (curveDefault c).length⟩,
  ⟨"LEVEL", 0x8, 0x100, 16, 0x8, 16, true, [⟨0, 16, .rw⟩], fun _ c i => ((curveDefault c).getD i (0, 0)).2⟩,
  ⟨"TIME", 0xC, 0x100, 16, 0x8, 16, true, [⟨0, 32, .rw⟩], fun _ c i => ((curveDefault c).getD i (0, 0)).1⟩]

/-- grid contactors (chapter 8). -/
def regRows_GCON : List RegRow := [
  ⟨"GCSTAT", 0x0, 0x0, 1, 0x0, 1, false, [⟨16, 16, .ro⟩, ⟨4, 1, .ro⟩, ⟨3, 1, .ro⟩, ⟨2, 1, .ro⟩, ⟨1, 1, .ro⟩, ⟨0, 1, .ro⟩], fun _ _ _ => 0x0⟩,
  ⟨"WR_PEND", 0xFFC, 0x0, 1, 0x0, 1, false, [⟨31, 1, .ro⟩, ⟨30, 1, .w1c⟩, ⟨8, 1, .ro⟩, ⟨0, 3, .ro⟩], fun _ _ _ => 0x0⟩]

/-- metering points (chapter 9). -/
def regRows_MP : List RegRow := [
  ⟨"MCFG", 0x0, 0x0, 1, 0x0, 1, true, [⟨4, 2, .rw⟩, ⟨2, 1, .rw⟩, ⟨1, 1, .ro⟩, ⟨0, 1, .rw⟩], fun m _ _ => if m = 0 then 0 else 2⟩,
  ⟨"INTCFG", 0x4, 0x0, 1, 0x0, 1, true, [⟨0, 17, .rw⟩], fun _ _ _ => 0x384⟩,
  ⟨"NL_I", 0x8, 0x0, 1, 0x0, 1, true, [⟨0, 32, .rw⟩], fun _ _ _ => 0x0⟩,
  ⟨"NL_P", 0xC, 0x0, 1, 0x0, 1, true, [⟨0, 32, .rw⟩], fun _ _ _ => 0x0⟩,
  ⟨"MSTAT", 0x10, 0x0, 1, 0x0, 1, false, [⟨16, 16, .ro⟩, ⟨8, 1, .ro⟩, ⟨7, 1, .w1c⟩, ⟨6, 1, .ro⟩, ⟨4, 1, .ro⟩, ⟨3, 1, .w1c⟩, ⟨2, 1, .w1c⟩, ⟨1, 1, .ro⟩, ⟨0, 1, .ro⟩], fun _ _ _ => 0x0⟩,
  ⟨"MCNT", 0x14, 0x0, 1, 0x0, 1, false, [⟨16, 16, .ro⟩, ⟨0, 16, .ro⟩], fun _ _ _ => 0x0⟩,
  ⟨"CHSEL", 0x40, 0x10, 6, 0x0, 1, true, [⟨6, 1, .rw⟩, ⟨2, 4, .rw⟩, ⟨0, 2, .rw⟩], fun _ _ _ => 0x0⟩,
  ⟨"CGAIN", 0x44, 0x10, 6, 0x0, 1, true, [⟨0, 32, .rw⟩], fun _ _ _ => 0x0⟩,
  ⟨"COFFS", 0x48, 0x10, 6, 0x0, 1, true, [⟨0, 32, .rw⟩], fun _ _ _ => 0x0⟩,
  ⟨"CDLY", 0x4C, 0x10, 6, 0x0, 1, true, [⟨0, 16, .rw⟩], fun _ _ _ => 0x0⟩,
  ⟨"QGAIN", 0x100, 0x8, 12, 0x0, 1, true, [⟨0, 32, .rw⟩], fun _ _ _ => 0x40000000⟩,
  ⟨"QOFFS", 0x104, 0x8, 12, 0x0, 1, true, [⟨0, 32, .rw⟩], fun _ _ _ => 0x0⟩,
  ⟨"VRMS", 0x200, 0x4, 3, 0x0, 1, false, [⟨0, 32, .ro⟩], fun _ _ _ => 0x0⟩,
  ⟨"IRMS", 0x20C, 0x4, 3, 0x0, 1, false, [⟨0, 32, .ro⟩], fun _ _ _ => 0x0⟩,
  ⟨"P", 0x218, 0x4, 3, 0x0, 1, false, [⟨0, 32, .ro⟩], fun _ _ _ => 0x0⟩,
  ⟨"Q", 0x224, 0x4, 3, 0x0, 1, false, [⟨0, 32, .ro⟩], fun _ _ _ => 0x0⟩,
  ⟨"S", 0x230, 0x4, 3, 0x0, 1, false, [⟨0, 32, .ro⟩], fun _ _ _ => 0x0⟩,
  ⟨"PF", 0x23C, 0x4, 3, 0x0, 1, false, [⟨0, 16, .ro⟩], fun _ _ _ => 0x0⟩,
  ⟨"P1", 0x248, 0x0, 1, 0x0, 1, false, [⟨0, 32, .ro⟩], fun _ _ _ => 0x0⟩,
  ⟨"Q1", 0x24C, 0x0, 1, 0x0, 1, false, [⟨0, 32, .ro⟩], fun _ _ _ => 0x0⟩,
  ⟨"WDUR", 0x250, 0x0, 1, 0x0, 1, false, [⟨0, 32, .ro⟩], fun _ _ _ => 0x0⟩,
  ⟨"ACC_LO", 0x400, 0x8, 13, 0x0, 1, false, [⟨0, 32, .ro⟩], fun _ _ _ => 0x0⟩,
  ⟨"ACC_HI", 0x404, 0x8, 13, 0x0, 1, false, [⟨0, 32, .ro⟩], fun _ _ _ => 0x0⟩,
  ⟨"INTV", 0x500, 0x4, 13, 0x0, 1, false, [⟨0, 32, .ro⟩], fun _ _ _ => 0x0⟩,
  ⟨"INTV_WRAP", 0x540, 0x0, 1, 0x0, 1, false, [⟨0, 13, .w1c⟩], fun _ _ _ => 0x0⟩,
  ⟨"IW_CNT", 0x544, 0x4, 4, 0x0, 1, false, [⟨0, 8, .ro⟩, ⟨8, 8, .ro⟩, ⟨16, 8, .ro⟩, ⟨24, 8, .ro⟩], fun _ _ _ => 0x0⟩,
  ⟨"ISTART", 0x560, 0x0, 1, 0x0, 1, false, [⟨0, 32, .ro⟩], fun _ _ _ => 0x0⟩,
  ⟨"RSTAT", 0x564, 0x0, 1, 0x0, 1, false, [⟨0, 32, .ro⟩], fun _ _ _ => 0x0⟩]

/-- command die (chapter 10). -/
def regRows_CMD : List RegRow := [
  ⟨"CMDCFG", 0x0, 0x0, 1, 0x0, 1, true, [⟨28, 4, .rw⟩, ⟨24, 4, .rw⟩, ⟨16, 7, .ro⟩, ⟨0, 16, .rw⟩], fun _ _ _ => 0xF10401F4⟩,
  ⟨"CMDSTAT", 0x4, 0x0, 1, 0x0, 1, false, [⟨4, 1, .ro⟩, ⟨3, 1, .ro⟩, ⟨2, 1, .ro⟩, ⟨0, 2, .ro⟩], fun c _ _ => if c = 0 then 3 else 2⟩,
  ⟨"CPN", 0x8, 0x0, 1, 0x0, 1, false, [⟨0, 32, .ro⟩], fun _ _ _ => 0x0⟩,
  ⟨"HEALTH", 0xC, 0x0, 1, 0x0, 1, false, [⟨0, 32, .ro⟩], fun _ _ _ => 0x0⟩,
  ⟨"DONE", 0x10, 0x0, 1, 0x0, 1, false, [⟨0, 4, .w1s⟩], fun _ _ _ => 0x0⟩,
  ⟨"SIG_LO", 0x14, 0x0, 1, 0x0, 1, false, [⟨0, 32, .ro⟩], fun _ _ _ => 0x0⟩,
  ⟨"SIG_HI", 0x18, 0x0, 1, 0x0, 1, false, [⟨0, 32, .ro⟩], fun _ _ _ => 0x0⟩,
  ⟨"SNAPCNT", 0x1C, 0x0, 1, 0x0, 1, false, [⟨16, 16, .ro⟩, ⟨0, 16, .ro⟩], fun _ _ _ => 0x0⟩,
  ⟨"SNAP_LOG", 0x20, 0x0, 1, 0x0, 1, false, [⟨0, 11, .w1c⟩], fun _ _ _ => 0x0⟩,
  ⟨"SKIPCNT", 0x24, 0x0, 1, 0x0, 1, false, [⟨16, 16, .ro⟩, ⟨0, 16, .ro⟩], fun _ _ _ => 0x0⟩,
  ⟨"PV", 0x30, 0x4, 4, 0x0, 1, false, [⟨0, 32, .rw⟩], fun _ _ _ => 0x0⟩,
  ⟨"SNAP_RGN", 0x40, 0x0, 1, 0x0, 1, true, [⟨20, 9, .rw⟩, ⟨0, 9, .rw⟩], fun _ _ _ => 0x0⟩,
  ⟨"CBUF_RGN", 0x44, 0x0, 1, 0x0, 1, true, [⟨20, 9, .rw⟩, ⟨0, 9, .rw⟩], fun _ _ _ => 0x0⟩,
  ⟨"JRNL_RGN", 0x48, 0x0, 1, 0x0, 1, true, [⟨20, 9, .rw⟩, ⟨0, 9, .rw⟩], fun _ _ _ => 0x0⟩,
  ⟨"DBGSTAT", 0x4C, 0x0, 1, 0x0, 1, false, [⟨3, 1, .w1c⟩, ⟨2, 1, .w1c⟩, ⟨1, 1, .ro⟩, ⟨0, 1, .ro⟩], fun _ _ _ => 0x0⟩]

/-- command input of a drive die (chapter 10). -/
def regRows_DCMD : List RegRow := [
  ⟨"DCMDCFG", 0x0, 0x0, 1, 0x0, 1, true, [⟨0, 7, .rw⟩], fun _ _ _ => 0x4⟩,
  ⟨"DCMDSTAT", 0x4, 0x0, 1, 0x0, 1, false, [⟨16, 16, .ro⟩, ⟨8, 8, .ro⟩, ⟨7, 1, .ro⟩, ⟨6, 1, .ro⟩, ⟨0, 6, .ro⟩], fun _ _ _ => 0x40⟩]

/-- arbiter (chapter 10). -/
def regRows_ARB : List RegRow := [
  ⟨"ARBSTAT", 0x0, 0x0, 1, 0x0, 1, false, [⟨9, 1, .ro⟩, ⟨8, 1, .ro⟩, ⟨7, 1, .ro⟩, ⟨6, 1, .ro⟩, ⟨5, 1, .ro⟩, ⟨4, 1, .ro⟩, ⟨2, 2, .ro⟩, ⟨0, 2, .ro⟩, ⟨11, 1, .ro⟩, ⟨10, 1, .ro⟩], fun _ _ _ => 0xB⟩,
  ⟨"ARBCNT", 0x4, 0x0, 1, 0x0, 1, false, [⟨24, 8, .ro⟩, ⟨16, 8, .ro⟩, ⟨8, 8, .ro⟩, ⟨0, 8, .ro⟩], fun _ _ _ => 0x0⟩,
  ⟨"ARBDEC", 0x8, 0x0, 1, 0x0, 1, false, [⟨8, 24, .ro⟩, ⟨4, 4, .ro⟩, ⟨0, 4, .ro⟩], fun _ _ _ => 0x0⟩,
  ⟨"MIT_LEN", 0xC, 0x0, 1, 0x0, 1, false, [⟨0, 32, .ro⟩], fun _ _ _ => 0x0⟩,
  ⟨"HOLD_REM", 0x10, 0x0, 1, 0x0, 1, false, [⟨0, 32, .ro⟩], fun _ _ _ => 0x0⟩,
  ⟨"HW_C0", 0x14, 0x0, 1, 0x0, 1, false, [⟨0, 32, .ro⟩], fun _ _ _ => 0x0⟩,
  ⟨"HW_C1", 0x18, 0x0, 1, 0x0, 1, false, [⟨0, 32, .ro⟩], fun _ _ _ => 0x0⟩,
  ⟨"WR_PEND", 0xFFC, 0x0, 1, 0x0, 1, false, [⟨31, 1, .ro⟩, ⟨30, 1, .w1c⟩, ⟨8, 1, .ro⟩, ⟨0, 3, .ro⟩], fun _ _ _ => 0x0⟩]

/-- halt guard (chapter 11). -/
def regRows_HGRD : List RegRow := [
  ⟨"HGSTAT", 0x0, 0x0, 1, 0x0, 1, false, [⟨20, 4, .ro⟩, ⟨16, 4, .ro⟩, ⟨12, 4, .ro⟩, ⟨8, 4, .ro⟩, ⟨4, 4, .ro⟩, ⟨0, 4, .ro⟩], fun _ _ _ => 0xF0000⟩,
  ⟨"GUARD_US", 0x4, 0x0, 1, 0x0, 1, false, [⟨0, 16, .ro⟩], fun _ _ _ => 0x32⟩,
  ⟨"EXTEND_MS", 0x8, 0x0, 1, 0x0, 1, false, [⟨0, 32, .ro⟩], fun _ _ _ => 0x0⟩,
  ⟨"ELAPSED", 0x10, 0x4, 4, 0x0, 1, false, [⟨0, 32, .ro⟩], fun _ _ _ => 0x0⟩,
  ⟨"HGCNT", 0x20, 0x0, 1, 0x0, 1, false, [⟨24, 8, .ro⟩, ⟨16, 8, .ro⟩, ⟨8, 8, .ro⟩, ⟨0, 8, .ro⟩], fun _ _ _ => 0x0⟩,
  ⟨"WR_PEND", 0xFFC, 0x0, 1, 0x0, 1, false, [⟨31, 1, .ro⟩, ⟨30, 1, .w1c⟩, ⟨8, 1, .ro⟩, ⟨0, 3, .ro⟩], fun _ _ _ => 0x0⟩]

/-- mailbox (chapter 11). -/
def regRows_MBX : List RegRow := [
  ⟨"MBXREQ", 0x0, 0x0, 1, 0x0, 1, false, [⟨2, 1, .w1s⟩, ⟨1, 1, .rw⟩, ⟨0, 1, .rw⟩], fun _ _ _ => 0x0⟩,
  ⟨"MBXSTAT", 0x4, 0x0, 1, 0x0, 1, false, [⟨0, 16, .ro⟩], fun _ _ _ => 0x0⟩]

/-- safety functions (chapter 11). -/
def regRows_SFN : List RegRow := [
  ⟨"S_STATE", 0x0, 0x0, 1, 0x0, 1, false, [⟨31, 1, .ro⟩, ⟨30, 1, .ro⟩, ⟨29, 1, .ro⟩, ⟨28, 1, .ro⟩, ⟨20, 8, .ro⟩, ⟨16, 4, .ro⟩, ⟨12, 4, .ro⟩, ⟨8, 4, .ro⟩, ⟨4, 4, .ro⟩, ⟨3, 1, .ro⟩, ⟨2, 1, .ro⟩, ⟨1, 1, .ro⟩, ⟨0, 1, .ro⟩], fun _ _ _ => 0x1⟩,
  ⟨"SFSTAT", 0x4, 0x0, 1, 0x0, 1, false, [⟨20, 4, .ro⟩, ⟨16, 1, .ro⟩, ⟨15, 1, .ro⟩, ⟨14, 1, .ro⟩, ⟨13, 1, .ro⟩, ⟨12, 1, .ro⟩, ⟨8, 4, .ro⟩, ⟨4, 4, .ro⟩, ⟨3, 1, .ro⟩, ⟨2, 1, .ro⟩, ⟨1, 1, .ro⟩, ⟨0, 1, .ro⟩], fun _ _ _ => 0xFC⟩,
  ⟨"SFREM", 0x8, 0x0, 1, 0x0, 1, false, [⟨16, 16, .ro⟩, ⟨0, 16, .ro⟩], fun _ _ _ => 0x0⟩,
  ⟨"SFCNT", 0xC, 0x0, 1, 0x0, 1, false, [⟨24, 8, .ro⟩, ⟨16, 8, .ro⟩, ⟨8, 8, .ro⟩, ⟨0, 8, .ro⟩], fun _ _ _ => 0x0⟩,
  ⟨"VAX", 0x40, 0x10, 4, 0x0, 1, false, [⟨16, 16, .ro⟩, ⟨0, 16, .ro⟩], fun _ _ _ => 0x0⟩,
  ⟨"AXSTAT", 0x44, 0x10, 4, 0x0, 1, false, [⟨5, 3, .ro⟩, ⟨4, 1, .ro⟩, ⟨3, 1, .ro⟩, ⟨2, 1, .ro⟩, ⟨1, 1, .ro⟩, ⟨0, 1, .ro⟩], fun _ _ _ => 0x0⟩,
  ⟨"POS_PI", 0x48, 0x10, 4, 0x0, 1, false, [⟨0, 32, .ro⟩], fun _ _ _ => 0x0⟩,
  ⟨"POS_WS", 0x4C, 0x10, 4, 0x0, 1, false, [⟨0, 32, .ro⟩], fun _ _ _ => 0x0⟩,
  ⟨"WR_PEND", 0xFFC, 0x0, 1, 0x0, 1, false, [⟨31, 1, .ro⟩, ⟨30, 1, .w1c⟩, ⟨8, 1, .ro⟩, ⟨0, 3, .ro⟩], fun _ _ _ => 0x0⟩]

/-- safety inputs and outputs (chapter 11). -/
def regRows_SIO : List RegRow := [
  ⟨"SISTAT", 0x0, 0x0, 1, 0x0, 1, false, [⟨24, 8, .ro⟩, ⟨16, 8, .ro⟩, ⟨8, 8, .ro⟩, ⟨0, 8, .ro⟩], fun _ _ _ => 0x0⟩,
  ⟨"SOSTAT", 0x4, 0x0, 1, 0x0, 1, false, [⟨16, 4, .ro⟩, ⟨12, 4, .ro⟩, ⟨8, 4, .ro⟩, ⟨4, 4, .ro⟩, ⟨0, 4, .ro⟩], fun _ _ _ => 0xF0000⟩,
  ⟨"WS0", 0x8, 0x0, 1, 0x0, 1, false, [⟨0, 32, .ro⟩], fun _ _ _ => 0x0⟩,
  ⟨"WS1", 0xC, 0x0, 1, 0x0, 1, false, [⟨0, 32, .ro⟩], fun _ _ _ => 0x0⟩,
  ⟨"SCMP", 0x10, 0x0, 1, 0x0, 1, false, [⟨8, 8, .ro⟩, ⟨0, 8, .ro⟩], fun _ _ _ => 0x0⟩,
  ⟨"WR_PEND", 0xFFC, 0x0, 1, 0x0, 1, false, [⟨31, 1, .ro⟩, ⟨30, 1, .w1c⟩, ⟨8, 1, .ro⟩, ⟨0, 3, .ro⟩], fun _ _ _ => 0x0⟩]

/-- safety connections (chapter 11). -/
def regRows_SCONN : List RegRow := [
  ⟨"SCST", 0x0, 0x10, 48, 0x0, 1, false, [⟨16, 16, .ro⟩, ⟨8, 8, .ro⟩, ⟨2, 1, .ro⟩, ⟨0, 2, .ro⟩], fun _ _ _ => 0x0⟩,
  ⟨"SCSEQ", 0x4, 0x10, 48, 0x0, 1, false, [⟨0, 32, .ro⟩], fun _ _ _ => 0x0⟩,
  ⟨"SCREJ", 0x8, 0x10, 48, 0x0, 1, false, [⟨24, 8, .ro⟩, ⟨16, 8, .ro⟩, ⟨8, 8, .ro⟩, ⟨0, 8, .ro⟩], fun _ _ _ => 0x0⟩,
  ⟨"SCAGE", 0xC, 0x10, 48, 0x0, 1, false, [⟨16, 16, .ro⟩, ⟨0, 16, .ro⟩], fun _ _ _ => 0x0⟩,
  ⟨"WR_PEND", 0xFFC, 0x0, 1, 0x0, 1, false, [⟨31, 1, .ro⟩, ⟨30, 1, .w1c⟩, ⟨8, 1, .ro⟩, ⟨0, 3, .ro⟩], fun _ _ _ => 0x0⟩]

/-- starts and stops (chapter 12). -/
def regRows_START : List RegRow := [
  ⟨"STSTAT", 0x0, 0x0, 1, 0x0, 1, false, [⟨24, 4, .ro⟩, ⟨20, 4, .ro⟩, ⟨16, 2, .ro⟩, ⟨15, 1, .ro⟩, ⟨14, 1, .ro⟩, ⟨13, 1, .ro⟩, ⟨12, 1, .ro⟩, ⟨11, 1, .w1c⟩, ⟨10, 1, .ro⟩, ⟨9, 1, .ro⟩, ⟨8, 1, .ro⟩, ⟨0, 2, .ro⟩], fun _ _ _ => 0x100000⟩,
  ⟨"STCTL", 0x4, 0x0, 1, 0x0, 1, false, [⟨1, 1, .w1s⟩, ⟨0, 1, .w1s⟩], fun _ _ _ => 0x0⟩,
  ⟨"START_SEC", 0x8, 0x0, 1, 0x0, 1, false, [⟨0, 32, .ro⟩], fun _ _ _ => 0x0⟩,
  ⟨"SMS", 0xC, 0x0, 1, 0x0, 1, false, [⟨16, 16, .ro⟩, ⟨0, 16, .ro⟩], fun _ _ _ => 0x0⟩]

/-- Ethernet ports (chapter 13). -/
def regRows_ETH : List RegRow := [
  ⟨"PCFG", 0x0, 0x0, 1, 0x0, 1, true, [⟨4, 1, .rw⟩, ⟨1, 2, .rw⟩, ⟨3, 1, .rw⟩, ⟨0, 1, .rw⟩], fun _ _ _ => 0x8⟩,
  ⟨"MAC_LO", 0x4, 0x0, 1, 0x0, 1, true, [⟨0, 32, .rw⟩], fun p _ _ => Config.macLo p⟩,
  ⟨"MAC_HI", 0x8, 0x0, 1, 0x0, 1, true, [⟨0, 16, .rw⟩], fun p _ _ => Config.macHi p⟩,
  ⟨"PCP", 0xC, 0x0, 1, 0x0, 1, true, [⟨24, 3, .rw⟩, ⟨0, 24, .rw⟩], fun _ _ _ => 0xFAC688⟩,
  ⟨"ING_ASYM", 0x10, 0x0, 1, 0x0, 1, true, [⟨0, 32, .rw⟩], fun _ _ _ => 0x0⟩,
  ⟨"EGR_ASYM", 0x14, 0x0, 1, 0x0, 1, true, [⟨0, 32, .rw⟩], fun _ _ _ => 0x0⟩,
  ⟨"LINK_DLY", 0x18, 0x0, 1, 0x0, 1, false, [⟨0, 32, .ro⟩], fun _ _ _ => 0x0⟩,
  ⟨"PSTAT", 0x1C, 0x0, 1, 0x0, 1, false, [⟨3, 1, .w1c⟩, ⟨2, 1, .ro⟩, ⟨1, 1, .ro⟩, ⟨0, 1, .ro⟩], fun _ _ _ => 0x0⟩,
  ⟨"DROPCNT", 0x20, 0x0, 1, 0x0, 1, false, [⟨16, 16, .ro⟩, ⟨0, 16, .ro⟩], fun _ _ _ => 0x0⟩,
  ⟨"OVERSIZE", 0x24, 0x0, 1, 0x0, 1, false, [⟨0, 16, .ro⟩], fun _ _ _ => 0x0⟩]

/-- gate control (chapter 13). -/
def regRows_GATE : List RegRow := [
  ⟨"GCFG", 0x0, 0x0, 1, 0x0, 1, true, [⟨16, 7, .rw⟩, ⟨0, 1, .rw⟩], fun _ _ _ => 0x0⟩,
  ⟨"ADM_CYCLE", 0x4, 0x0, 1, 0x0, 1, true, [⟨0, 32, .rw⟩], fun _ _ _ => 0x0⟩,
  ⟨"ADM_BASE_NS", 0x8, 0x0, 1, 0x0, 1, true, [⟨0, 30, .rw⟩], fun _ _ _ => 0x0⟩,
  ⟨"ADM_BASE_SEC", 0xC, 0x0, 1, 0x0, 1, true, [⟨0, 32, .rw⟩], fun _ _ _ => 0x0⟩,
  ⟨"GCTL", 0x10, 0x0, 1, 0x0, 1, false, [⟨0, 1, .w1s⟩], fun _ _ _ => 0x0⟩,
  ⟨"GSTAT", 0x14, 0x0, 1, 0x0, 1, false, [⟨16, 16, .ro⟩, ⟨2, 1, .w1c⟩, ⟨1, 1, .ro⟩, ⟨0, 1, .ro⟩], fun _ _ _ => 0x0⟩,
  ⟨"ADM_GATES", 0x100, 0x8, 64, 0x0, 1, true, [⟨0, 8, .rw⟩], fun _ _ _ => 0xFF⟩,
  ⟨"ADM_INT", 0x104, 0x8, 64, 0x0, 1, true, [⟨0, 24, .rw⟩], fun _ _ _ => 0x0⟩,
  ⟨"OPER_GATES", 0x400, 0x8, 64, 0x0, 1, false, [⟨0, 8, .ro⟩], fun _ _ _ => 0x0⟩,
  ⟨"OPER_INT", 0x404, 0x8, 64, 0x0, 1, false, [⟨0, 24, .ro⟩], fun _ _ _ => 0x0⟩]

/-- network time (chapter 13). -/
def regRows_TIME : List RegRow := [
  ⟨"TCFG", 0x0, 0x0, 1, 0x0, 1, true, [⟨17, 1, .rw⟩, ⟨16, 1, .rw⟩, ⟨8, 8, .rw⟩, ⟨0, 8, .rw⟩], fun _ _ _ => 0x20100⟩,
  ⟨"SVCFG", 0x4, 0x0, 1, 0x0, 1, true, [⟨16, 16, .rw⟩, ⟨0, 16, .rw⟩], fun _ _ _ => 0x3E800C8⟩,
  ⟨"UTCCFG", 0x8, 0x0, 1, 0x0, 1, true, [⟨0, 16, .rw⟩], fun _ _ _ => 0x25⟩,
  ⟨"RETCFG", 0xC, 0x0, 1, 0x0, 1, true, [⟨0, 16, .rw⟩], fun _ _ _ => 0x3C⟩,
  ⟨"TSTAT", 0x10, 0x0, 1, 0x0, 1, false, [⟨16, 16, .ro⟩, ⟨9, 1, .w1c⟩, ⟨8, 1, .ro⟩, ⟨7, 1, .ro⟩, ⟨6, 1, .ro⟩, ⟨5, 1, .ro⟩, ⟨4, 1, .ro⟩, ⟨3, 1, .ro⟩, ⟨2, 1, .ro⟩, ⟨0, 2, .ro⟩], fun _ _ _ => 0x0⟩,
  ⟨"OFS_A", 0x14, 0x0, 1, 0x0, 1, false, [⟨0, 32, .ro⟩], fun _ _ _ => 0x0⟩,
  ⟨"OFS_B", 0x18, 0x0, 1, 0x0, 1, false, [⟨0, 32, .ro⟩], fun _ _ _ => 0x0⟩,
  ⟨"RATE_A", 0x1C, 0x0, 1, 0x0, 1, false, [⟨0, 32, .ro⟩], fun _ _ _ => 0x0⟩,
  ⟨"RATE_B", 0x20, 0x0, 1, 0x0, 1, false, [⟨0, 32, .ro⟩], fun _ _ _ => 0x0⟩,
  ⟨"LT_NS", 0x30, 0x0, 1, 0x0, 1, false, [⟨0, 30, .ro⟩], fun _ _ _ => 0x0⟩,
  ⟨"LT_SEC_LO", 0x34, 0x0, 1, 0x0, 1, false, [⟨0, 32, .ro⟩], fun _ _ _ => 0x0⟩,
  ⟨"LT_SEC_HI", 0x38, 0x0, 1, 0x0, 1, false, [⟨0, 16, .ro⟩], fun _ _ _ => 0x0⟩,
  ⟨"GM_A0", 0x40, 0x0, 1, 0x0, 1, false, [⟨0, 32, .ro⟩], fun _ _ _ => 0x0⟩,
  ⟨"GM_A1", 0x44, 0x0, 1, 0x0, 1, false, [⟨0, 32, .ro⟩], fun _ _ _ => 0x0⟩,
  ⟨"GM_B0", 0x48, 0x0, 1, 0x0, 1, false, [⟨0, 32, .ro⟩], fun _ _ _ => 0x0⟩,
  ⟨"GM_B1", 0x4C, 0x0, 1, 0x0, 1, false, [⟨0, 32, .ro⟩], fun _ _ _ => 0x0⟩]

/-- time units (chapter 13). -/
def regRows_TU : List RegRow := [
  ⟨"TUCFG", 0x0, 0x10, 16, 0x0, 1, true, [⟨16, 16, .rw⟩, ⟨12, 2, .rw⟩, ⟨10, 2, .rw⟩, ⟨9, 1, .rw⟩, ⟨4, 4, .rw⟩, ⟨2, 1, .rw⟩, ⟨1, 1, .rw⟩, ⟨0, 1, .rw⟩], fun _ _ _ => 0x641000⟩,
  ⟨"TARGET", 0x4, 0x10, 16, 0x0, 1, false, [⟨0, 32, .rw⟩], fun _ _ _ => 0x0⟩,
  ⟨"PERIOD", 0x8, 0x10, 16, 0x0, 1, true, [⟨0, 32, .rw⟩], fun _ _ _ => 0x0⟩,
  ⟨"CAPT", 0xC, 0x10, 16, 0x0, 1, false, [⟨0, 32, .ro⟩], fun _ _ _ => 0x0⟩,
  ⟨"TUSTAT", 0x100, 0x4, 16, 0x0, 1, false, [⟨16, 16, .ro⟩, ⟨3, 1, .ro⟩, ⟨2, 1, .w1c⟩, ⟨1, 1, .w1c⟩, ⟨0, 1, .w1c⟩], fun _ _ _ => 0x0⟩]

/-- CAN controllers (chapter 13). -/
def regRows_CAN : List RegRow := [
  ⟨"CCFG", 0x0, 0x0, 1, 0x0, 1, true, [⟨5, 1, .rw⟩, ⟨4, 1, .rw⟩, ⟨3, 1, .rw⟩, ⟨2, 1, .rw⟩, ⟨1, 1, .rw⟩, ⟨0, 1, .rw⟩], fun _ _ _ => 0x2E⟩,
  ⟨"NBT", 0x4, 0x0, 1, 0x0, 1, true, [⟨23, 7, .rw⟩, ⟨16, 7, .rw⟩, ⟨8, 8, .rw⟩, ⟨0, 8, .rw⟩], fun _ _ _ => 0x0F9F7E00⟩,
  ⟨"DBT", 0x8, 0x0, 1, 0x0, 1, true, [⟨24, 4, .rw⟩, ⟨16, 4, .rw⟩, ⟨8, 5, .rw⟩, ⟨0, 5, .rw⟩], fun _ _ _ => 0x07071E00⟩,
  ⟨"TDC", 0xC, 0x0, 1, 0x0, 1, true, [⟨0, 8, .rw⟩], fun _ _ _ => 0x20⟩,
  ⟨"CSTAT", 0x10, 0x0, 1, 0x0, 1, false, [⟨16, 8, .ro⟩, ⟨8, 8, .ro⟩, ⟨0, 2, .ro⟩], fun _ _ _ => 0x3⟩,
  ⟨"CCTL", 0x14, 0x0, 1, 0x0, 1, false, [⟨0, 1, .w1s⟩], fun _ _ _ => 0x0⟩,
  ⟨"CCNT", 0x18, 0x0, 1, 0x0, 1, false, [⟨16, 16, .ro⟩, ⟨0, 16, .ro⟩], fun _ _ _ => 0x0⟩,
  ⟨"FLT_ID", 0x100, 0x8, 32, 0x0, 1, true, [⟨30, 1, .rw⟩, ⟨29, 1, .rw⟩, ⟨0, 29, .rw⟩], fun _ _ _ => 0x0⟩,
  ⟨"FLT_MASK", 0x104, 0x8, 32, 0x0, 1, true, [⟨0, 29, .rw⟩], fun _ _ _ => 0x1FFFFFFF⟩,
  ⟨"FLT_FLOW", 0x200, 0x4, 32, 0x0, 1, true, [⟨0, 8, .rw⟩], fun _ _ _ => 0xFF⟩]

/-- dictionary engine (chapter 14). -/
def regRows_DICT : List RegRow := [
  ⟨"DSTAT", 0x0, 0x0, 1, 0x0, 1, false, [⟨24, 8, .ro⟩, ⟨16, 8, .ro⟩, ⟨8, 8, .ro⟩, ⟨3, 1, .w1c⟩, ⟨2, 1, .ro⟩, ⟨1, 1, .ro⟩, ⟨0, 1, .w1c⟩], fun _ _ _ => 0x0⟩,
  ⟨"DECL", 0x4, 0x0, 1, 0x0, 1, false, [⟨16, 10, .rw⟩, ⟨4, 9, .ro⟩, ⟨0, 1, .w1s⟩], fun _ _ _ => 0x0⟩,
  ⟨"RESP", 0x8, 0x0, 1, 0x0, 1, false, [⟨16, 16, .rw⟩, ⟨8, 8, .rw⟩, ⟨0, 8, .rw⟩], fun _ _ _ => 0x0⟩,
  ⟨"RESP_ABORT", 0xC, 0x0, 1, 0x0, 1, false, [⟨0, 32, .rw⟩], fun _ _ _ => 0x0⟩,
  ⟨"RESP_LEN", 0x10, 0x0, 1, 0x0, 1, false, [⟨0, 11, .rw⟩], fun _ _ _ => 0x0⟩,
  ⟨"RESP_GO", 0x14, 0x0, 1, 0x0, 1, false, [⟨0, 1, .w1s⟩], fun _ _ _ => 0x0⟩,
  ⟨"DCNT", 0x18, 0x0, 1, 0x0, 1, false, [⟨16, 16, .ro⟩, ⟨0, 16, .ro⟩], fun _ _ _ => 0x0⟩,
  ⟨"TX_REL", 0x20, 0x4, 4, 0x0, 1, false, [⟨0, 32, .w1s⟩], fun _ _ _ => 0x0⟩]

/-- keeper (chapter 15). -/
def regRows_KPR : List RegRow := [
  ⟨"KCFG", 0x0, 0x0, 1, 0x0, 1, true, [⟨24, 8, .rw⟩, ⟨8, 2, .rw⟩, ⟨1, 1, .rw⟩, ⟨0, 1, .rw⟩], fun _ _ _ => 0x1⟩,
  ⟨"KV", 0x4, 0x0, 1, 0x0, 1, true, [⟨16, 16, .rw⟩, ⟨0, 16, .rw⟩], fun _ _ _ => 0xE1007D0⟩,
  ⟨"KPG", 0x8, 0x0, 1, 0x0, 1, true, [⟨16, 16, .rw⟩, ⟨0, 16, .rw⟩], fun _ _ _ => 0x8340BB8⟩,
  ⟨"KRES", 0xC, 0x0, 1, 0x0, 1, true, [⟨16, 16, .rw⟩, ⟨0, 16, .rw⟩], fun _ _ _ => 0x3E803E8⟩,
  ⟨"WAKE_AT", 0x10, 0x0, 1, 0x0, 1, true, [⟨0, 32, .rw⟩], fun _ _ _ => 0x0⟩,
  ⟨"KSTAT", 0x14, 0x0, 1, 0x0, 1, false, [⟨9, 1, .ro⟩, ⟨8, 1, .ro⟩, ⟨7, 1, .ro⟩, ⟨6, 1, .ro⟩, ⟨5, 1, .ro⟩, ⟨4, 1, .ro⟩, ⟨3, 1, .ro⟩, ⟨0, 2, .ro⟩], fun _ _ _ => 0x0⟩,
  ⟨"VST", 0x18, 0x0, 1, 0x0, 1, false, [⟨16, 16, .ro⟩, ⟨0, 16, .ro⟩], fun _ _ _ => 0x0⟩,
  ⟨"KVOC", 0x1C, 0x0, 1, 0x0, 1, false, [⟨16, 16, .ro⟩, ⟨0, 16, .ro⟩], fun _ _ _ => 0x0⟩,
  ⟨"E_ST", 0x20, 0x0, 1, 0x0, 1, false, [⟨0, 32, .ro⟩], fun _ _ _ => 0x0⟩,
  ⟨"LCAP", 0x24, 0x0, 1, 0x0, 1, false, [⟨0, 16, .ro⟩], fun _ _ _ => 0x0⟩,
  ⟨"KQ", 0x28, 0x0, 1, 0x0, 1, false, [⟨16, 16, .ro⟩, ⟨0, 10, .ro⟩, ⟨10, 4, .ro⟩], fun _ _ _ => 0x0⟩,
  ⟨"WR_PEND", 0xFFC, 0x0, 1, 0x0, 1, false, [⟨31, 1, .ro⟩, ⟨30, 1, .w1c⟩, ⟨8, 1, .ro⟩, ⟨0, 3, .ro⟩], fun _ _ _ => 0x0⟩]

/-- lifetime engine of N (chapter 15). -/
def regRows_LTN : List RegRow := [
  ⟨"LTMODE", 0x0, 0x0, 1, 0x0, 1, false, [⟨0, 2, .rw⟩], fun _ _ _ => 0x0⟩,
  ⟨"DCLSRC", 0x4, 0x0, 1, 0x0, 1, true, [⟨6, 2, .rw⟩, ⟨4, 2, .rw⟩, ⟨0, 4, .rw⟩], fun _ _ _ => 0x0⟩,
  ⟨"DCL_GAIN", 0x8, 0x0, 1, 0x0, 1, true, [⟨0, 32, .rw⟩], fun _ _ _ => 0x0⟩,
  ⟨"DCL_BIN", 0xC, 0x0, 1, 0x0, 1, true, [⟨0, 16, .rw⟩], fun _ _ _ => 0x32⟩,
  ⟨"LTCNT", 0x10, 0x0, 1, 0x0, 1, false, [⟨16, 16, .ro⟩, ⟨0, 16, .ro⟩], fun _ _ _ => 0x0⟩]

/-- cycle counter (chapter 15). -/
def regRows_CYC : List RegRow := [
  ⟨"RF0", 0x0, 0x0, 1, 0x0, 1, true, [⟨16, 16, .rw⟩, ⟨0, 16, .rw⟩], fun _ _ _ => 0x1000040⟩,
  ⟨"RF1", 0x4, 0x0, 1, 0x0, 1, true, [⟨16, 16, .rw⟩, ⟨0, 16, .rw⟩], fun _ _ _ => 0x280FB00⟩,
  ⟨"RFSTAT", 0x8, 0x0, 1, 0x0, 1, false, [⟨16, 7, .w1c⟩, ⟨0, 7, .w1c⟩], fun _ _ _ => 0x0⟩,
  ⟨"DEPTH", 0x10, 0x4, 7, 0x0, 1, false, [⟨0, 6, .ro⟩], fun _ _ _ => 0x0⟩]

/-- check-value units (chapter 16). -/
def regRows_CRC : List RegRow := [
  ⟨"CCFG", 0x0, 0x0, 1, 0x0, 1, true, [⟨24, 8, .rw⟩, ⟨16, 8, .rw⟩, ⟨8, 6, .rw⟩, ⟨4, 1, .rw⟩, ⟨1, 3, .rw⟩, ⟨0, 1, .rw⟩], fun _ _ _ => 0x2000⟩,
  ⟨"POLY", 0x4, 0x0, 1, 0x0, 1, true, [⟨0, 32, .rw⟩], fun _ _ _ => 0x4C11DB7⟩,
  ⟨"INIT", 0x8, 0x0, 1, 0x0, 1, true, [⟨0, 32, .rw⟩], fun _ _ _ => 0xFFFFFFFF⟩,
  ⟨"XOROUT", 0xC, 0x0, 1, 0x0, 1, true, [⟨0, 32, .rw⟩], fun _ _ _ => 0xFFFFFFFF⟩,
  ⟨"BASE", 0x10, 0x0, 1, 0x0, 1, false, [⟨0, 32, .rw⟩], fun _ _ _ => 0x0⟩,
  ⟨"LEN", 0x14, 0x0, 1, 0x0, 1, false, [⟨0, 24, .rw⟩], fun _ _ _ => 0x0⟩,
  ⟨"CCTL", 0x18, 0x0, 1, 0x0, 1, false, [⟨2, 1, .w1s⟩, ⟨1, 1, .w1s⟩, ⟨0, 1, .w1s⟩], fun _ _ _ => 0x0⟩,
  ⟨"VAL", 0x1C, 0x0, 1, 0x0, 1, false, [⟨0, 32, .rw⟩], fun _ _ _ => 0x0⟩,
  ⟨"RESULT", 0x20, 0x0, 1, 0x0, 1, false, [⟨0, 32, .ro⟩], fun _ _ _ => 0x0⟩,
  ⟨"COUNT", 0x24, 0x0, 1, 0x0, 1, false, [⟨0, 32, .ro⟩], fun _ _ _ => 0x0⟩,
  ⟨"CSTAT", 0x28, 0x0, 1, 0x0, 1, false, [⟨16, 16, .ro⟩, ⟨8, 4, .ro⟩, ⟨5, 1, .w1c⟩, ⟨4, 1, .ro⟩, ⟨3, 1, .w1c⟩, ⟨2, 1, .w1c⟩, ⟨1, 1, .w1c⟩, ⟨0, 1, .ro⟩], fun _ _ _ => 0x0⟩,
  ⟨"DATA", 0x30, 0x0, 1, 0x0, 1, false, [⟨0, 32, .wo⟩], fun _ _ _ => 0x0⟩,
  ⟨"DATA_H", 0x34, 0x0, 1, 0x0, 1, false, [⟨0, 16, .wo⟩], fun _ _ _ => 0x0⟩,
  ⟨"DATA_B", 0x38, 0x0, 1, 0x0, 1, false, [⟨0, 8, .wo⟩], fun _ _ _ => 0x0⟩]

/-- maintenance scheduler (chapter 16). -/
def regRows_MAINT : List RegRow := [
  ⟨"MREQ", 0x0, 0x0, 1, 0x0, 1, false, [⟨31, 1, .wo⟩, ⟨8, 8, .wo⟩, ⟨4, 4, .wo⟩, ⟨0, 4, .wo⟩], fun _ _ _ => 0x0⟩,
  ⟨"MRES", 0x4, 0x0, 1, 0x0, 1, false, [⟨20, 4, .ro⟩, ⟨16, 3, .ro⟩, ⟨8, 5, .ro⟩, ⟨0, 1, .w1c⟩], fun _ _ _ => 0x1F00⟩,
  ⟨"MRUN", 0x8, 0x0, 1, 0x0, 1, false, [⟨0, 10, .ro⟩], fun _ _ _ => 0x8⟩,
  ⟨"MCAN", 0xC, 0x0, 1, 0x0, 1, false, [⟨31, 1, .wo⟩, ⟨0, 5, .wo⟩], fun _ _ _ => 0x0⟩,
  ⟨"SLOTS", 0x40, 0x8, 16, 0x0, 1, false, [⟨17, 1, .ro⟩, ⟨16, 1, .ro⟩, ⟨8, 8, .ro⟩, ⟨4, 4, .ro⟩, ⟨0, 4, .ro⟩], fun _ _ _ => 0x0⟩,
  ⟨"ELAPSED", 0x44, 0x8, 16, 0x0, 1, false, [⟨0, 32, .ro⟩], fun _ _ _ => 0x0⟩,
  ⟨"RES", 0x100, 0x8, 8, 0x0, 1, false, [⟨24, 8, .ro⟩, ⟨16, 2, .ro⟩, ⟨8, 8, .ro⟩, ⟨4, 4, .ro⟩, ⟨0, 4, .ro⟩], fun _ _ _ => 0x0⟩,
  ⟨"RESU", 0x104, 0x8, 8, 0x0, 1, false, [⟨16, 16, .ro⟩, ⟨0, 16, .ro⟩], fun _ _ _ => 0x0⟩]

/-- Every register block of the part (R28): its name, the dies that hold it, its offset inside the die's window,
how many instances follow one another every 16 KiB, whether its registers are RS copies, its rows. -/
def regBlocks : List BlockRow := [
  ⟨"ELINK", .cmd, 0x20000, 1, false, regRows_ELINK 7⟩,
  ⟨"ELINK", .n, 0x20000, 1, false, regRows_ELINK 7⟩,
  ⟨"ELINK", .all, 0x20000, 1, false, regRows_ELINK 3⟩,
  ⟨"REGCTL", .all, 0x10000, 1, false, regRows_REGCTL⟩,
  ⟨"CLK", .drive, 0x30000, 1, false, regRows_CLKD⟩,
  ⟨"CLK", .all, 0x30000, 1, false, regRows_CLK⟩,
  ⟨"CKMON", .s, 0x40000, 1, true, regRows_CKMON⟩,
  ⟨"RTC", .s, 0x50000, 1, true, regRows_RTC⟩,
  ⟨"PWM", .drive, 0x100000, 1, false, regRows_PWM⟩,
  ⟨"PORT", .drive, 0x110000, 6, false, regRows_PORT⟩,
  ⟨"APB", .drive, 0x128000, 1, false, regRows_APB⟩,
  ⟨"TRIP", .drive, 0x130000, 1, false, regRows_TRIP⟩,
  ⟨"ADC", .drive, 0x140000, 4, false, regRows_ADC⟩,
  ⟨"CMP", .drive, 0x150000, 1, false, regRows_CMP⟩,
  ⟨"PI", .drive, 0x160000, 2, false, regRows_PI⟩,
  ⟨"CLE", .drive, 0x170000, 2, false, regRows_CLE⟩,
  ⟨"GSU", .drive, 0x1B0000, 1, false, regRows_GSU⟩,
  ⟨"RTS", .drive, 0x1B4000, 1, false, regRows_RTS⟩,
  ⟨"CURVE", .drive, 0x1C0000, 1, false, regRows_CURVE⟩,
  ⟨"GCON", .s, 0x60000, 1, true, regRows_GCON⟩,
  ⟨"MP", .n, 0x80000, 3, false, regRows_MP⟩,
  ⟨"CMD", .cmd, 0x40000, 1, false, regRows_CMD⟩,
  ⟨"DCMD", .drive, 0x1D0000, 1, false, regRows_DCMD⟩,
  ⟨"ARB", .s, 0x70000, 1, true, regRows_ARB⟩,
  ⟨"HGRD", .s, 0xD0000, 1, true, regRows_HGRD⟩,
  ⟨"MBX", .s, 0x80000, 1, false, regRows_MBX⟩,
  ⟨"SFN", .s, 0x90000, 1, true, regRows_SFN⟩,
  ⟨"SIO", .s, 0xA0000, 1, true, regRows_SIO⟩,
  ⟨"SCONN", .s, 0xB0000, 1, true, regRows_SCONN⟩,
  ⟨"START", .n, 0x40000, 1, false, regRows_START⟩,
  ⟨"ETH", .n, 0x200000, 3, false, regRows_ETH⟩,
  ⟨"GATE", .n, 0x210000, 3, false, regRows_GATE⟩,
  ⟨"TIME", .n, 0x220000, 1, false, regRows_TIME⟩,
  ⟨"TU", .n, 0x230000, 1, false, regRows_TU⟩,
  ⟨"CAN", .n, 0x240000, 4, false, regRows_CAN⟩,
  ⟨"DICT", .n, 0x250000, 1, false, regRows_DICT⟩,
  ⟨"KPR", .s, 0xC0000, 1, true, regRows_KPR⟩,
  ⟨"LTN", .n, 0x2C0000, 1, false, regRows_LTN⟩,
  ⟨"CYC", .drive, 0x1E0000, 1, false, regRows_CYC⟩,
  ⟨"CRC", .n, 0x300000, 8, false, regRows_CRC⟩,
  ⟨"MAINT", .n, 0x340000, 1, false, regRows_MAINT⟩]

end Sys2Proof.Machine
end

