-- ==== Sys2Proof/Machine/State.lean ====
section
/-!
DEFINITION. Sys2Proof/Machine/State.lean: the whole state of the part, as plain data, and the state after reset.

Every register bit lives in `State.regs` (one home; see RegMap.lean for the addresses and Ops.lean for the access).
The structures below hold what the chapters give the part beside its registers: latched configuration, active sets,
measurements in progress, queues, non-volatile content.  `State.reset` is the part as it stands after a cold start with
nothing commanded yet (R8: the Reset columns).
-/

namespace Sys2Proof.Machine

/-- The content of one register: the word and one parity bit for each byte (R36). -/
structure RegCell where
  val : Word
  par : BitVec 4
deriving DecidableEq, Repr, Inhabited

/-- A memory window's cells: addresses strictly rising, no cell holding 0 (an unlisted cell reads 0). -/
abbrev Memory := List Host.Cell

/-- Why the machine stops with a fault. -/
inductive Fault where
  /-- Raised by a meaning whose operand names a unit the part does not have (a link the die does not terminate).
  Safe: no such event can happen on the part. -/
  | noSuchUnit
deriving DecidableEq, Repr

/-- Why a command is refused. -/
inductive Refusal where
  /-- Raised by an arm of `exec` whose command has no meaning yet.  Safe. -/
  | notModelled (mnemonic : String)
deriving DecidableEq, Repr

/-! ### Chapters 1 and 2: links, core accesses, RS blocks -/

/-- The sending side of one direction of a link as its receiving endpoint sees it: a flit that was incomplete when a
lane was retired and that no lane is left to resend (R16). -/
structure LinkEnd where
  waiting : Option (BitVec 72) := none
deriving DecidableEq, Repr, Inhabited

/-- A handshaken write on its way to an RS source domain: the address as issued, alias included, and the data (R47); a write of the
dictionary engine to one field carries the field's place and replaces only it. -/
structure RsWrite where
  addr : Nat
  data : Word
  part : Option (Nat × Nat) := none
deriving DecidableEq, Repr, Inhabited

/-- The interface of a block of RS registers: up to four writes in flight, the stalled sources behind them (R48), the
captured high word with the address it answers at (R46). -/
structure RsBlock where
  inflight : List RsWrite := []
  stalled : List RsWrite := []
  hold : Option (Nat × Word) := none
deriving DecidableEq, Repr, Inhabited

/-- An access fault an application core has taken: the address, and whether it was a write (R26, R27, R29). -/
structure AccessFault where
  addr : Nat
  write : Bool
deriving DecidableEq, Repr, Inhabited

/-! ### Chapter 3: PLLs and hopping -/

/-- A PLL beside its registers: lock evaluation suspended for the microsecond after a hop (R72). -/
structure Pll where
  settling : Bool := false
deriving DecidableEq, Repr, Inhabited

/-- The hop schedule of a drive die: whether a list is latched and its values (R68), whether the timebase hops and the divider word it then
runs at, the LFSR, the slot of the last hop boundary, a return to SLOT0 that waits for a carrier boundary (R74), and a new band that waits
for one with the slots it was chosen for (R594, R65), with the hop-master group and its carrier when the band was found. -/
structure Hop where
  latched : Bool := false
  active : Bool := false
  mode : Nat := 0
  div : Nat := 16
  len : Nat := 0
  seed : Nat := 0
  slots : Vector Nat 8 := Vector.replicate 8 0x80000000
  word : Nat := 0x80000000
  lfsr : Nat := 0xACE1
  last : Nat := 0
  returning : Bool := false
  newBand : Option (Nat × Int × List Nat) := none
  bandAt : Option (Nat × Nat) := none
deriving DecidableEq, Repr, Inhabited

/-! ### Chapters 4 and 5: PWM groups, ports, trip groups -/

/-- A PWM group beside its registers: whether it is enabled in the sense of R84, waits for its start event, is due to
start, or completes its carrier after EN was cleared (R88); the configuration latched at enable (R83); the active PER (bit 0 is 0 in
up-down mode, R89) and PHASE, the PER that governs the carrier in progress (R624); PER written since the last transfer (R103); the write
point and the minimum period in force, and for each whether it or PER has been written and its limit not been flagged since (R97, R106);
an early trigger edge held until PER_MIN (R91); the control periods and the carrier periods ended since the start (R340, R71), the
carrier count whose hop boundary has been taken. -/
structure Group where
  enabled : Bool := false
  waiting : Bool := false
  due : Bool := false
  stopping : Bool := false
  mode : Nat := 1
  dbl : Bool := false
  auto : Bool := false
  ports : Nat := 0
  trigSel : Nat := 0
  trigPol : Bool := false
  aPer : Nat := 0
  aPhase : Nat := 0
  carrierPer : Nat := 0
  perWritten : Bool := false
  wrpt : Nat := 16
  perMin : Nat := 16
  wrptPend : Bool := false
  perMinPend : Bool := false
  early : Bool := false
  periods : Nat := 0
  carriers : Nat := 0
  hopTaken : Nat := 0
deriving DecidableEq, Repr, Inhabited

/-- What overrides the PWM generator at a port: nothing, OPEN, an active short circuit (R141), the chopper that goes on
in a trip (R171), the auxiliary port's low side (R175). -/
inductive PortSafe where
  | none | opened | ascLow | ascHigh | chopper | auxLow
deriving DecidableEq, Repr, Inhabited

/-- New delay registers that MA1 has found and not loaded yet (R118). -/
structure DelaySet where
  ref : Nat
  tpt : Nat
  lin : List Nat
deriving DecidableEq, Repr, Inhabited

/-- A turn-on that waits: which output (true: GH), whole ticks still to pass, fine taps (R109, R142). -/
structure TurnOn where
  high : Bool
  ticks : Nat
  fine : Nat
deriving DecidableEq, Repr, Inhabited

/-- A gate port or auxiliary port beside its registers: its two outputs and the ticks since each changed last (saturated), the level of
its command (none before its first command edge since the group's start) and the tap of its carrier period from which the next edge is
looked for, the turn-on that a dead time delays, the turn-offs that fell due while the die was frozen (R119; bit 0 GL, bit 1 GH), the
PMODE in force (R618), the active DUTY taken in (R173), its safe state and whether it only keeps it after a clear (R163), an ASC turn-on
that waits (R142), the fault-pulse measurement (R127-R132), the refresh phase (R176), the ticks and taps it still waits and the ticks since ALG
last stayed on, the tap of the present carrier at which a command pulse of the one before falls (R108), the element the last edge was placed at (R113) and whether coarse placement moved it to the next tick (R116), MA1's result that
waits, the grid block, the switching count (R563). -/
structure Port where
  gh : Bool := false
  gl : Bool := false
  sinceH : Nat := 0xFFFFF
  sinceL : Nat := 0xFFFFF
  level : Option Bool := none
  edgeTap : Nat := 0
  pendOn : Option TurnOn := none
  dueOff : Nat := 0
  mode : Nat := 0
  duty : Nat := 0
  safe : PortSafe := .opened
  held : Bool := false
  ascWait : Option TurnOn := none
  measuring : Bool := false
  declared : Bool := false
  own5 : Bool := false
  refresh : Nat := 0
  refWait : Nat := 0
  refFine : Nat := 0
  lateFall : Option Nat := none
  refCount : Nat := 0
  elem : Nat := 0
  late : Bool := false
  newDelay : Option DelaySet := none
  blocked : Bool := false
  switches : Nat := 0
deriving DecidableEq, Repr, Inhabited

/-- The ports at a start: FLT_USE of a gate port is reset to 1 and its FLTn reads low, which is measured as a pulse that began with the start
(R126, R127; a DESIGN CHOICE for the missing falling edge, assumption 63). -/
def Port.initial : Vector Port 28 := Vector.ofFn (fun i => { measuring := decide (i.val % 7 ≠ 6) })

/-- A trip group beside its registers: the conditions of R619 that hold, as a bit mask, and TG_MODE fixed by a recovery
start (R165). -/
structure TripGroup where
  cfgConds : Nat := 0
  modeFixed : Bool := false
deriving DecidableEq, Repr, Inhabited

/-- A drive die as a whole: halted for debug, clock stopped, retired; TRIPx inputs active after
the filter (bit x), the ticks that the cuff of each comparator still runs and the cuffs that begin anew with the next tick (bit i; R142, R146), CMD_N as latched (R341), the captured TTIME_HI (R156);
what ELAPSED of the halt guard showed when the halt and the loss of the clock were detected (R120), the channels (bit 0 A) that have released
since the die ran again behind the guard's assertion (R423). -/
structure DriveDie where
  halted : Bool := false
  clockStopped : Bool := false
  retired : Bool := false
  tripIn : Nat := 0
  cuffs : Vector Nat 16 := Vector.replicate 16 0
  cuffNext : Nat := 0
  cmdN : Nat := 4
  ttHold : Option Nat := none
  haltAt : Nat := 0
  lostAt : Nat := 0
  released : Nat := 0
deriving DecidableEq, Repr, Inhabited

/-! ### Chapter 6: ADC cores, comparators, position interfaces -/

/-- What an entry of the decimated record has gathered since the last record (R198): the sum of the data of the VALID
results, their number, the OR of their OVR bits. -/
structure DecAcc where
  sum : Int := 0
  n : Nat := 0
  ovr : Bool := false
deriving DecidableEq, Repr, Inhabited

/-- An ADC core beside its registers: the regular and injected entries latched at their triggers as entry words (R186),
the entry each sequence stands at while it is in progress, a deferred regular start (R192), the tick of the conversion's
hold, the tick of the last accepted trigger while forwarding (R197), the first half of a flit that waits, the entries
latched for the decimated record by the last trigger and by the one before it (R625) and what they have gathered, EN cleared during a conversion
(R194), the TTIME at which a source has given the regular and the injected trigger (R187), the TTIME of the rising OUT edge of the comparator that
each trigger names while it waits to trigger (R187), and the VALID bits that the regular start of the present tick has cleared: entry, result
register, copies in the two CLEs (R192). -/
structure AdcCore where
  reg : List Nat := []
  inj : List Nat := []
  regAt : Option Nat := none
  injAt : Option Nat := none
  deferred : Bool := false
  holdTick : Nat := 0
  lastTrig : Option Nat := none
  half : Option Word := none
  decReg : Option (List Nat) := none
  dec : Vector DecAcc 16 := Vector.replicate 16 {}
  decPrev : Option (List Nat) := none
  stopping : Bool := false
  regMark : Option Nat := none
  injMark : Option Nat := none
  regEdge : Option Nat := none
  injEdge : Option Nat := none
  cleared : List (Nat × Bool × Bool × Bool) := []
deriving DecidableEq, Repr, Inhabited

/-- A comparator beside its registers: MODE, INSEL and INV as latched (R200), the edges captured since its last interrupt
event (R207), retired by MA0 (R591), the trip source and the wake request of the tick before a check began (R209), and CTHR as it was in force
before its last write, with the TTIME of that write (R200). -/
structure Comparator where
  mode : Nat := 1
  insel : Nat := 0
  inv : Bool := false
  edges : Nat := 0
  retired : Bool := false
  heldTrip : Bool := false
  heldWake : Bool := false
  thrOld : Word := 0
  thrAt : Option Nat := none
deriving DecidableEq, Repr, Inhabited

/-- A position interface beside its registers: the configuration latched at enable (R212); k mod EXC_DIV of the control period in progress, whose
start finds the excitation on pins A and B at phase 2 pi (k + 0.5) / EXC_DIV (R213); the demodulator's sums, count and last results scaled by
2^64 (R214); the loop's angle and speed with 16 fraction bits (R214), the skipped pairs in a row (R215), the accepted levels of A and B (R216), and
the TTIME at which Z has reset POS (R218); the levels that pins A and B carry with TYPE = 0: a bit of the stream and its complement (R213). -/
structure PosIf where
  encoder : Bool := false
  grp : Nat := 0
  excDiv : Nat := 8
  zrst : Bool := false
  src : Word := 0x400
  filt : Nat := 3
  exc : Nat := 0
  sAcc : Int := 0
  cAcc : Int := 0
  n : Nat := 0
  sD : Int := 0
  cD : Int := 0
  amp : Nat := 0
  theta : Int := 0
  omega : Int := 0
  skipped : Nat := 0
  a : Bool := false
  b : Bool := false
  zTick : Option Nat := none
  outA : Bool := false
  outB : Bool := true
deriving DecidableEq, Repr, Inhabited

/-! ### Chapter 7: control-law engines -/

/-- A LOOP in progress: its first word, its end word, the passes left. -/
structure CleLoop where
  start : Nat
  stop : Nat
  left : Nat
deriving DecidableEq, Repr, Inhabited

/-- A control-law engine (R220) beside its registers and memories: V0-V31, ACC0-ACC3, the program counter, the cycles
used, the loop in progress, the schedule group latched at enable (R223), whether it runs in this control period and what
it produced is still to be delivered, the produced marks of words 0x0A0 on (R245), FIRST still to be shown (R230), ENTRY
and CBANK of the last period, PCNT of the last delivery (R248), RPT_EN in force (R223). -/
structure CleCore where
  v : Vector (BitVec 32) 32 := Vector.replicate 32 0
  acc : Vector (BitVec 64) 4 := Vector.replicate 4 0
  pc : Nat := 0
  cyc : Nat := 0
  loop : Option CleLoop := none
  sched : Nat := 0
  scheduled : Bool := false
  deliver : Bool := false
  marks : Nat := 0
  first : Bool := false
  entry : Nat := 0
  cbank : Bool := false
  lastPcnt : Nat := 0
  rptEn : Bool := false
deriving DecidableEq, Repr, Inhabited

/-! ### Chapter 14: the object dictionary -/

/-- A dictionary value: a number (fixed-size types) or bytes (strings and domains). -/
inductive DictVal where
  | num (x : Int)
  | bytes (b : List Nat)
deriving DecidableEq, Repr, Inhabited

/-- A password as the keeper holds it (R425, R426, R511): the hash and the salt, consecutive failed checks, lockouts since
the last success, the RTC second at which a lock ends. -/
structure Password where
  hash : Option (List Nat) := none
  salt : List Nat := []
  fails : Nat := 0
  locks : Nat := 0
  lockEnd : Nat := 0
deriving DecidableEq, Repr, Inhabited

/-! ### Chapter 8: grid port -/

/-- One side of a ride-through supervisor (R272): its time in ms while a disturbance lasts, the ms it has been CONT. -/
structure RideSide where
  t : Option Nat := none
  cont : Nat := 0
deriving DecidableEq, Repr, Inhabited

/-- One control period as the GSU has seen it (R260-R264): the three voltage inputs in 2^-32 pu, the phase voltages in 1/3 of that, the currents
in 2^-32 pu, all empty for a discarded set; FREQ and the advance of ANG_P for the period that its publication begins, that period's
length in 2^-40 s, and whether the grid was steady (assumption 74). -/
structure GsuSet where
  inputs : List Int := []
  phases : List Int := []
  currents : List Int := []
  freq : Nat := 0
  adv : Nat := 0
  dt : Nat := 0
  steady : Bool := false
deriving DecidableEq, Repr, Inhabited

/-- The grid port of a drive die beside its registers: ANG_P below its integer part, DTHETA, VPOS and VNEG in Q2.30, sets
discarded in a row (R262), grid cycles with FREQ in range (R265), ANG_P stepped at the last control-period start (R266), a
phase-jump cessation that runs (R277), the four sides, DRC, a DISCONNECT in force and an OPEN decision that waits (R290,
R295), ROCOF exceedances in a row, the probe: cycles of the window, window void, windows with low current in a row (R284),
running; reconnection seconds, a window held since the last second, complete cycles in it (R293); the sets of the last grid cycles, the newest
first (R263, R283); the probe waits for the next positive-going zero after it has been taken over (R299); the block has stood in the control
period in progress (R283). -/
structure GridDie where
  angFrac : Nat := 0
  dtheta : Int := 0
  vpos : Nat := 0
  vneg : Nat := 0
  discards : Nat := 0
  freqCycles : Nat := 0
  stepped : Bool := false
  jumpCease : Bool := false
  sides : Vector RideSide 4 := Vector.replicate 4 {}
  drc : Bool := false
  discon : Bool := false
  openWait : Bool := false
  rocofHits : Nat := 0
  cycles : Nat := 0
  voidWin : Bool := false
  lowWins : Nat := 0
  rcFailed : Bool := false
  rcCycles : Nat := 0
  hist : List GsuSet := []
  probeWait : Bool := false
  blockSeen : Bool := false
deriving DecidableEq, Repr, Inhabited

/-- S's view of the grid port: 0x5000:01 as passed to it (R301), the member dies whose votes are missing (R291), the dies
that N has reported retired. -/
structure GridS where
  members : Nat := 0
  missing : Nat := 0
  retired : Nat := 0
deriving DecidableEq, Repr, Inhabited

/-! ### Chapter 9: metering -/

/-- The configuration a metering point works with in the present window (R332): per channel CGAIN, COFFS, CDLY; per
quantity QGAIN and QOFFS; NL_I and NL_P. -/
structure MeterCfg where
  cgain : List Int := []
  coffs : List Int := []
  cdly : List Int := []
  qgain : List Nat := []
  qoffs : List Int := []
  nlI : Nat := 0
  nlP : Nat := 0
deriving DecidableEq, Repr, Inhabited

/-- What the engine carries from window to window and commits (R333): the residues of the accumulators in milli-units
(R322) and of the interval registers in units (R327), the pre-step sum (R313), the interval length in force with the next
boundary in UTC seconds (R330), whether an interval is in progress, the direction of the last window with net energy
(R321), the flags and reversals of windows before the step of LT (R313), whether the point has written a record (R336). -/
structure MeterAcc where
  res : List Rat := List.replicate 13 0
  frac : List Rat := List.replicate 13 0
  pre : List Rat := List.replicate 13 0
  len : Nat := 0
  bound : Nat := 0
  opened : Bool := false
  export_ : Option Bool := none
  preFlags : Nat := 0
  preRev : Nat := 0
  anyRec : Bool := false
deriving DecidableEq, Repr, Inhabited

/-- What a commit of a metering point holds: the engine's carried state, the words ACC0-ACC12, INTV0-INTV12, INTV_WRAP, the
IW_CNT words, ISTART and RSTAT, and the record ring (R333). -/
structure MeterSaved where
  acc : MeterAcc := {}
  words : List Word := []
  ring : Memory := []
deriving DecidableEq, Repr, Inhabited

/-- A stamp of the lead core as N holds it (R305-R310): TTIME, HOP_NOW, its time on N's LT in ns, its place in ns on the sample
stream's own time (R307), and the ticks to the next stamp once that has come. -/
structure MeterStamp where
  ttime : Nat
  hop : Nat
  time : Int
  pos : Rat
  interval : Nat := 0
deriving DecidableEq, Repr, Inhabited

/-- A forwarded sequence as N holds it. -/
structure MeterSeq where
  core : Nat
  ttime : Nat
  words : List Word
deriving DecidableEq, Repr, Inhabited

/-- The end of a metering window: the place of the zero that began the grid cycle that it is, its time on LT in ns, its length in ns, and the
configuration at the end, which the next window starts with (R312, R332). -/
structure MeterDue where
  cyc : Option Rat
  endNs : Int
  len : Rat
  cfg : MeterCfg
deriving DecidableEq, Repr, Inhabited

/-- A metering point beside its registers: EN changed and the next window start waited for, the latched DIE and VTYPE and
UNI-CORE-ENTRY words (R303) and those of an enable that waits for a stop (R332), the configuration of the window, the last stamp (its weight
is not known yet), the sequences of the used cores that N holds, the results with OVR = 1 that have been counted (core, TTIME, entry; R308),
the weighted samples not yet committed and the last ones that were (R318), the cores whose stamps stay out and the times in which some did
(R309, R319), the start of the window on LT in ns (of an engine that does not run yet the time of its enable), the place of the zero that began the
grid cycle (R312), an end of a window that waits for the weight of its last sample, the times at which INT_LEN changed with what it was before
(R330), the high word a read of ACCa_LO captured (R324), a commit that waits and the last completed one. -/
structure MeterPoint where
  starting : Bool := false
  stopping : Bool := false
  die : Nat := 0
  ll : Bool := false
  csrc : List Word := []
  next : Option (Nat × Bool × List Word) := none
  cfg : MeterCfg := {}
  last : Option MeterStamp := none
  seqs : List MeterSeq := []
  ovrDone : List (Nat × Nat × Nat) := []
  samples : List (MeterStamp × Rat) := []
  past : List MeterStamp := []
  lost : Nat := 0
  gaps : List (Int × Option Int) := []
  winStart : Int := 0
  cyc : Option Rat := none
  due : Option MeterDue := none
  lens : List (Int × Nat) := []
  hold : Vector (Option Word) 13 := Vector.replicate 13 none
  acc : MeterAcc := {}
  waiting : Option MeterSaved := none
  saved : MeterSaved := {}
deriving DecidableEq, Repr, Inhabited
/-! ### Chapter 10: shell and liner -/

/-- A heartbeat record on its way to S (R357): CPN, health word, the signature of a window that closed, PV0-PV3. -/
structure Heartbeat where
  cpn : Nat
  health : Word
  sig : Option (BitVec 64)
  pv : List Word
deriving DecidableEq, Repr, Inhabited

/-- An input frame (R521): BSN, flow context, KIND, LT nanoseconds at receipt, payload. -/
structure InputFrame where
  bsn : Nat
  fc : Nat
  kind : Nat
  lt : Nat
  payload : List Nat
deriving DecidableEq, Repr, Inhabited

/-- A drive-die record as a command die holds it: the CPN of its tick, the die, its words (the decimated record, then the
report records). -/
structure DriveRecord where
  tick : Nat
  die : Nat
  words : List Word
deriving DecidableEq, Repr, Inhabited

/-- A closed snapshot: its descriptor (R345) and the records, frames and events that it names (R350). -/
structure Snapshot where
  desc : List Word
  recs : List DriveRecord := []
  frames : List InputFrame := []
  events : List (List Word) := []
deriving DecidableEq, Repr, Inhabited

/-- A command die beside its registers: the fold registers M_c, the last CPN of the window that is open, whether the die runs that window from
its first period (R355, R356, R374); the tick whose
snapshot is still open, and whether the next tick is one that CPN has counted (R343, R373); records, events and frames received, frames in
transit from N; the last BSN of a closed snapshot; snapshots closed and
not run, whether the newest may start, own closed snapshots kept for the comparison, the other die's descriptors in
transit and received, the shell's run snapshots that a liner still has to run (a joining die's journal, R374), the shell's window signatures in
it; the period in progress, the CPN of the period run last; S_STATE as last
received; the role that waits for a period start, CLAIM sent and GRANT awaited, writes held until GRANT, the period a SWAP
names, FAILOVER and RESUMED due in the next period's descriptor; the health events since the last heartbeat (R358) and heartbeats in transit; a
join: requested, failures in a row; the instruction counts and the CPN of a debug halt, the writes that each core has issued in its period, the
period and the writes of each core at which a liner is to halt (R382); debugger writes that the liner has yet to apply (R383); writes held
until GRANT (core, address, word), oldest first (R369), and the cores whose DONE write waits for them (R344); the access fault each core has
taken last (R26); the pages of the state region that a joining die is still to be sent, and those of them that stand in the copy buffer (R373); the
window signatures of a joining die (R374). -/
structure CmdDie where
  m : Vector (BitVec 64) 4 := Vector.replicate 4 0xFFFFFFFFFFFFFFFF
  win : Option Nat := none
  whole : Bool := true
  tick : Option Nat := none
  counted : Bool := false
  recs : List DriveRecord := []
  events : List (List Word) := []
  inFrames : List InputFrame := []
  frames : List InputFrame := []
  bsnLast : Nat := 0
  closed : List Snapshot := []
  ready : Bool := false
  own : List Snapshot := []
  inbox : List (List Word) := []
  received : List (List Word) := []
  toRun : List Snapshot := []
  sigs : List (Nat × BitVec 64) := []
  run : Option Snapshot := none
  lastCpn : Nat := 0
  sState : Word := 0
  nextRole : Option Nat := none
  claim : Bool := false
  held : Bool := false
  swapAt : Option Nat := none
  failover : Bool := false
  resumed : Bool := false
  eccUe : Bool := false
  wdog : Bool := false
  ce : Nat := 0
  late : Bool := false
  diff : Bool := false
  fetch : Bool := false
  hb : List Heartbeat := []
  joinWait : Bool := false
  joinFails : Nat := 0
  counts : List Nat := []
  haltCpn : Nat := 0
  issued : Vector Nat 4 := Vector.replicate 4 0
  haltAt : Option (Nat × Vector Nat 4) := none
  debugWrites : List (Nat × Word) := []
  heldWrites : List (Nat × Nat × Word) := []
  doneWait : List Nat := []
  faults : Vector (Option AccessFault) 4 := Vector.replicate 4 none
  sending : List Nat := []
  copied : List Nat := []
  joinSigs : List (Nat × BitVec 64) := []
deriving DecidableEq, Repr, Inhabited

/-- The arbiter beside its registers: the last heartbeat's CPN and plausibility vectors of each die, heartbeats lost,
signatures not yet matched (die, CPN, G); the channel B cycles at which MM_UNRES counted (R363) and at which each die was
removed (R364); the asserted role wire; the liner that has been sent TAKE and has not claimed; the period a SWAP names with
CLAIM and the old shell's heartbeat held; the shell that N's latest verdict names (R339); a FAILOVER on its way to N; whether heartbeats are
timed: since the shell's first one (R452). -/
structure Arbiter where
  cpn : Vector Nat 2 := Vector.replicate 2 0
  pv : Vector (List Word) 2 := Vector.replicate 2 []
  lost : Vector Bool 2 := Vector.replicate 2 false
  sigs : List (Nat × Nat × BitVec 64) := []
  unres : List Nat := []
  removals : Vector (List Nat) 2 := Vector.replicate 2 []
  wire : Option Nat := some 0
  takeTo : Option Nat := none
  swapN : Option Nat := none
  swapClaim : Bool := false
  swapHb : Bool := false
  nShell : Option Nat := some 0
  failN : Bool := false
  timed : Bool := false
deriving DecidableEq, Repr, Inhabited

/-! ### Chapter 11: safety functions -/

/-- A safe input as one channel samples it (R411, R412, R415): the filtered pins and the samples that each has differed, the value, SI_DISC and
SI_TPF, held at 0 until the valid 0 and then the valid 1, the valid 0 seen meanwhile; TOS: the value 0 seen since the start, the test done; the
samples that the value 1 has lasted, the length of the last pulse of 1 that may acknowledge (R393); the value at the channel's last cycle, none
before the filters have seen the pins for their time (R405). -/
structure SafeInput where
  a : Bool := false
  b : Bool := false
  cntA : Nat := 0
  cntB : Nat := 0
  value : Bool := false
  disc : Bool := false
  tpf : Bool := false
  heldZero : Bool := false
  seenZero : Bool := false
  tosZero : Bool := false
  tosDone : Bool := false
  high : Nat := 0
  pulse : Nat := 0
  was : Option Bool := none
deriving DecidableEq, Repr, Inhabited

/-- A wheel-speed input as one channel counts it (R395): its tracks, the count since the start, the sample numbers of the latest quadrature
errors, the counts at the channel's latest cycles, newest first. -/
structure WheelInput where
  a : Bool := false
  b : Bool := false
  total : Int := 0
  errs : List Nat := []
  hist : List Int := []
deriving DecidableEq, Repr, Inhabited

/-- An axis as its PI records give it (R394, R396): the last ANGLE, the unwrapped angle and its last values newest first, records in a row that
failed, the source has failed at this start. -/
structure SafeAxis where
  angle : Option Nat := none
  rev : Int := 0
  hist : List Int := []
  bad : Nat := 0
  piFail : Bool := false
deriving DecidableEq, Repr, Inhabited

/-- A speed limit that runs on an axis in one channel (R403): 250 us units since activation, the speeds of both sources
then. -/
structure RampRef where
  t : Nat
  vPi : Int
  vWs : Int
deriving DecidableEq, Repr, Inhabited

/-- The positions that an active SDI refers to in one channel (R406): of the PI and the WS source. -/
structure DirRef where
  pi : Int
  ws : Int
deriving DecidableEq, Repr, Inhabited

/-- One axis as one channel monitors it: the speed limits of SLS, of DEG and of an unreferenced SLP (R403, R405, R408) and the SDI references in
force (SDI+: highest position, SDI-: lowest, both: the position at activation), v0 at SS1 entry, violated since the last release and the cause
(R407); referenced, the offsets that referencing gave each position (R405), discrepancies declared (R397), the WS source failed at this start. -/
structure AxisMon where
  ramps : Vector (Option RampRef) 3 := Vector.replicate 3 none
  dirP : Option DirRef := none
  dirN : Option DirRef := none
  dirB : Option DirRef := none
  v0 : DirRef := ⟨0, 0⟩
  viol : Bool := false
  vcause : Nat := 0
  ref : Bool := false
  ofsPi : Int := 0
  ofsWs : Int := 0
  discV : Bool := false
  discP : Bool := false
  wsFail : Bool := false
deriving DecidableEq, Repr, Inhabited

/-- The states of the function state machine. -/
inductive SafState where
  | sto | run | ss1 | locked
deriving DecidableEq, Repr, Inhabited

/-- A channel with its own input stage (R386): its state, stopped by a copy mismatch (R387), LOCKED due when SS1 completes (R409), 250 us units
since SS1 entry, the axes, the safe and wheel-speed inputs, the safety comparators outside their window and those latched (R418); a RESET edge of
the command word that may acknowledge (R393); the axis that caused DEG while DEG is set, the 250 us units since and whether DEG_T has elapsed
(R408); the safe outputs that it commands (R416). -/
structure SafeChannel where
  st : SafState := .sto
  stopped : Bool := false
  thenLock : Bool := false
  t : Nat := 0
  axes : Vector AxisMon 4 := Vector.replicate 4 {}
  inputs : Vector SafeInput 8 := Vector.replicate 8 {}
  wheels : Vector WheelInput 2 := Vector.replicate 2 {}
  scmpOut : Nat := 0
  scmpWin : Nat := 0
  resetEdge : Bool := false
  degAxis : Option Nat := none
  degT : Nat := 0
  degOver : Bool := false
  so : Nat := 0
deriving DecidableEq, Repr, Inhabited

/-- A safety connection beside its registers (R431-R439): timed out and not yet accepted again, the next sequence number
to send, the last accepted safety data. -/
structure SafeConn where
  timedOut : Bool := false
  next : Nat := 0
  data : List Nat := []
deriving DecidableEq, Repr, Inhabited

/-- A change-log entry (R430; its CRC follows from the rest). -/
structure LogEntry where
  lseq : Nat
  sec : Nat
  session : Nat
  index : Nat
  sub : Nat
  flags : Nat
  oldCrc : Nat
  newCrc : Nat
  paramCrc : Nat
deriving DecidableEq, Repr, Inhabited

/-- What S has asked the keeper to commit for the engine (R429, R508): the APPLY of the pending set, or a password; which write it answers; whether
a burst that runs writes it.  Neither of the two: an APPLY whose session has closed meanwhile. -/
structure SafeAsk where
  apply : Bool := false
  pw : Option Password := none
  reply : Option (Nat × DictReq) := none
  taken : Bool := false
deriving DecidableEq, Repr, Inhabited

/-- The safety side of S beside its registers: samples and channel B cycles since the start, axes, channels (A, B), channel A cycles at which
the channels' states have differed without a break (R388), the test-pulse output that pulsed last and the samples that its pulse still lasts
(R413), the same of each half of the safe outputs (A: 0-3, B: 4-7; R416), connections, the LT that N passed in us and whether N was locked, whether
the reference is lost and N silent (R420), sequence numbers of the PI records; the safety session (its flow context), sessions opened since
manufacture, the password, the pending set, what the keeper has been asked to commit, the change log. -/
structure Safety where
  samples : Nat := 0
  cycles : Nat := 0
  axes : Vector SafeAxis 4 := Vector.replicate 4 {}
  chans : Vector SafeChannel 2 := Vector.replicate 2 {}
  diff : Nat := 0
  tpNow : Nat := 0
  tpLeft : Nat := 0
  soLeft : Vector Nat 8 := Vector.replicate 8 0
  conns : Vector SafeConn 48 := Vector.replicate 48 {}
  lt : Nat := 0
  ltLocked : Bool := false
  refLost : Bool := false
  nSilent : Bool := false
  recSeq : Vector Nat 8 := Vector.replicate 8 0
  lastSeq : Vector (Option Nat) 8 := Vector.replicate 8 none
  session : Option Nat := none
  opened : Nat := 0
  pw : Password := {}
  pend : List (Nat × DictVal) := []
  asked : Option SafeAsk := none
  log : List LogEntry := []
  nextLog : Nat := 0
deriving DecidableEq, Repr, Inhabited

/-! ### Chapter 13: ports, time, CAN -/

/-- A frame that waits at a port or leaves by it: its bytes without the frame check sequence, the flow context whose frame
it is, the corrected ingress timestamp of a PTP event message that N passes on (2^-16 ns) with the time to add beside the
residence, the delay request it is (0 domain A, 1 domain B, 2 peer), the check-value units that fold its payload. -/
structure NetFrame where
  bytes : List Nat
  flow : Option Nat := none
  ptp : Option Int := none
  extra : Int := 0
  req : Option Nat := none
  crcs : Nat := 0
deriving DecidableEq, Repr, Inhabited

/-- A gate control list (R473): base and cycle in ns of LT, entries (gates, interval). -/
structure GateList where
  base : Nat
  cycle : Nat
  entries : List (Nat × Nat)
deriving DecidableEq, Repr, Inhabited

/-- An Ethernet port beside its registers: the frames in its queues, oldest first, each with its queue's number; the frame
that it sends; the operating list; the pending list with the LT at which it takes over, the LT 1 ms after its APPLY; the gates in force; the peer delay
measurement: sequence number, time of the request, time of the response and of its receipt. -/
structure EthPort where
  queue : List (Nat × NetFrame) := []
  tx : Option NetFrame := none
  oper : Option GateList := none
  pend : Option (Nat × GateList) := none
  pendMin : Nat := 0
  gates : Nat := 255
  pSeq : Nat := 0
  pReq : Option Int := none
  pResp : Option (Int × Int) := none
deriving DecidableEq, Repr, Inhabited

/-- The ring manager (R468): a check frame has arrived in this period, consecutive periods with and without one, the
sequence number. -/
structure Ring where
  seen : Bool := false
  hits : Nat := 0
  misses : Nat := 0
  seq : Nat := 0
deriving DecidableEq, Repr, Inhabited

/-- A master that Announce messages show: its rank in the order of the best master clock algorithm (smaller is better), the
sending port's identity, the port it was heard on, the grandmaster identity, the UTC offset it marks valid, the leap second it flags; the LT of its
latest Announce and of the one before, its announce interval (both in 2^-32 ns), and whether it is qualified (IEEE 1588-2019, 9.3.2.5). -/
structure PtpMaster where
  rank : List Nat
  sender : Nat
  port : Nat
  gm : Nat
  utc : Option Int
  leap : Int
  heard : Int
  before : Option Int
  interval : Nat
  qual : Bool
deriving DecidableEq, Repr, Inhabited

/-- A time domain (R484, R485): the masters heard, a Sync of the best one within four intervals, Sync messages in a row
within LOCK_NS, a two-step Sync that waits for its Follow_Up (sequence number, receipt, correction), the last Sync's
receipt minus its origin, the mean path delay, the delay request in flight (sequence number, departure), the domain's time and the receipt of the
last Sync (R485); times in 2^-16 ns. -/
structure PtpDomain where
  masters : List PtpMaster := []
  sync : Bool := false
  good : Nat := 0
  twoStep : Option (Nat × Int × Int) := none
  msDiff : Int := 0
  delay : Int := 0
  dSeq : Nat := 0
  dReq : Option Int := none
  prev : Option (Int × Int) := none
  ofs : Int := 0
deriving DecidableEq, Repr, Inhabited

/-- A time unit beside its registers: the LT at which it was armed last; its pulse is high. -/
structure TimeUnit where
  armedAt : Nat := 0
  high : Bool := false
deriving DecidableEq, Repr, Inhabited

/-- A transmit buffer of a CAN controller: the frame, its flow context. -/
structure CanBuf where
  frame : CanFrame
  flow : Option Nat
deriving DecidableEq, Repr, Inhabited

/-- A CAN controller beside its registers: its 16 transmit buffers, a bus-off recovery in progress. -/
structure CanCtl where
  bufs : Vector (Option CanBuf) 16 := Vector.replicate 16 none
  recovering : Bool := false
deriving DecidableEq, Repr, Inhabited

/-- N's network side: ports, ring manager, LT and the ns it gains in a tick (both in 2^-32 ns), the captured halves of LT_SEC (R482), the UTC
offset held and the leap seconds that it has taken beside UTC_OFS (R490), the domains A and B, the time units, the ticks at which each drive die got its last time event, CAN, a setting of the
RTC that waits for the next second of domain A (R79), the blocks whose function marks its outputs invalid after a parity failure (R42). -/
structure Net where
  ports : Vector EthPort 3 := Vector.replicate 3 {}
  ring : Ring := {}
  lt : Nat := 0
  rate : Nat := 10737418240
  holdLo : Option Nat := none
  holdHi : Option Nat := none
  utc : Option Int := none
  leapAdj : Int := 0
  doms : Vector PtpDomain 2 := Vector.replicate 2 {}
  units : Vector TimeUnit 16 := Vector.replicate 16 {}
  lastEvent : Vector (Option Nat) 4 := Vector.replicate 4 none
  cans : Vector CanCtl 4 := Vector.replicate 4 {}
  rtcSync : Bool := false
  invalid : List Nat := []
deriving DecidableEq, Repr, Inhabited

/-- A segmented transfer (R526, R527): upwards, or downwards to an entry; its transaction, the value or what has come of it, the
total length, the next segment. -/
structure Transfer where
  down : Bool
  tid : Nat
  key : Nat
  data : List Nat
  total : Nat
  next : Nat
deriving DecidableEq, Repr, Inhabited

/-- A dictionary session (R510, R512, R528): its client, its role (0 observer, 1 operator, 2 maintainer, 3 safety), the role
before the safety LOGIN, the last completed request (service, TID, SEGNO) with its response, the transfer in progress. -/
structure Session where
  client : DictClient
  role : Nat := 0
  prior : Nat := 0
  last : Option (Nat × Nat × Nat × List Nat) := none
  xfer : Option Transfer := none
deriving DecidableEq, Repr, Inhabited

/-- A flow context beside its entries: openings counted (GEN), its session, frames and length errors, STALE_TX, RX_LOST, the
content last released and whether a slot has sent it, a transmit frame begun and not released (R368). -/
structure FlowCtx where
  gen : Nat := 0
  session : Option Session := none
  frames : Nat := 0
  lenErr : Nat := 0
  stale : Bool := false
  rxLost : Bool := false
  released : Option (List Nat) := none
  fresh : Bool := false
  begun : Bool := false
deriving DecidableEq, Repr, Inhabited

/-- A write that waits for the keeper's commit (R508): entry, value (of a password what the keeper is to hold), and the request it
answers (service, header); whether a burst that runs writes it; whether the engine that asked still runs (no main reset since). -/
structure DictCommit where
  key : Nat
  val : DictVal
  svc : Nat
  req : DictReq
  pw : Password := {}
  taken : Bool := false
  live : Bool := true
deriving DecidableEq, Repr, Inhabited

/-- An application request that waits for the shell's answer, or whose value waits for the store (R532, R533), with the declared
type's code. -/
structure AppReq where
  svc : Nat
  req : DictReq
  write : Bool
  val : List Nat
  persist : Bool
  ty : Nat
deriving DecidableEq, Repr, Inhabited

/-- A declaration entry (R531). -/
structure DeclEntry where
  index : Nat
  nsub : Nat
  ty : Nat
  acc : Nat
  m : Bool
  p : Bool
  f : Nat
  max : Nat
  dflt : Nat
deriving DecidableEq, Repr, Inhabited

/-- The dictionary engine: the write that waits for its commit and the requests that
wait behind it (R507), the command-route write whose frame both command dies must receive (its BSN, R521), the next BSN, the declaration committed, application requests outstanding and values that wait for
the store, the application store (entry, type code, value), RESTORE written. -/
structure Dict where
  commit : Option DictCommit := none
  waiting : List (Nat × DictReq) := []
  cmdWait : Option (Nat × Nat × DictReq) := none
  bsn : Nat := 1
  decl : Option (List DeclEntry) := none
  appReqs : List AppReq := []
  appCommits : List AppReq := []
  appStore : List (Nat × Nat × List Nat) := []
  restore : Bool := false
deriving DecidableEq, Repr, Inhabited

/-! ### Chapter 12: starts and stops -/

/-- A boot attempt (R453, R454, R465): RTC second, kind, result (0: none recorded), COLD_WHY, still open, counted among the
failed ones (a RESTART in a recovery start clears that record). -/
structure BootAttempt where
  sec : Nat
  kind : Nat
  result : Nat
  why : Nat
  opened : Bool
  counts : Bool := true
deriving DecidableEq, Repr, Inhabited

/-- The system region of the MRAM (section "MRAM"): the band tables by register, the boot attempts newest first, the recovery latch,
COLD_NEXT, the end of the last run (the second of a controlled stop, none when it was uncontrolled), seconds of powered
operation since the last cold start, a safety fault recorded since the last passed guard test (R450), powered seconds since
that test (R422), the operator and maintainer passwords (R511). -/
structure SysRegion where
  bands : List (Nat × Word) := []
  attempts : List BootAttempt := []
  latch : Bool := false
  coldNext : Bool := false
  stopSec : Option Nat := none
  powered : Nat := 0
  safetyFault : Bool := false
  gtSecs : Nat := 0
  opPw : Password := {}
  mntPw : Password := {}
deriving DecidableEq, Repr, Inhabited

/-- The checkpoint (section "Stopping"): the counters since the last cold start in the order of the model's list of them; the
delay and ACAL registers, LINK words and other registers that show a retirement; the retired drive dies and comparators as
masks; the safety-fault record; the maintenance results so far (RSEQ); the number of the device it belongs to (R448). -/
structure Checkpoint where
  counters : List Nat
  regs : List (Nat × Word)
  dies : Nat
  cmps : Nat
  safetyFault : Bool
  results : Nat
  device : Nat
deriving DecidableEq, Repr, Inhabited

/-- The xSPI port of a command die (R613): the JESD216 tables it read at the last start, whether it runs 8D-8D-8D (else 1S-1S-1S), and its clock
in MHz. -/
structure FlashPort where
  table : Option FlashTable := none
  octal : Bool := false
  mhz : Nat := 25
deriving DecidableEq, Repr, Inhabited

/-- What has the main domains in its hand: every main supply good (R443); VDD18 above its threshold (R125); in reset until a start; TEST_EN high (R603); PWR_HOLD; the
drive dies in standby (STOP_KIND = 1); the step of the controlled stop in progress (0 none, 1 STO awaited, 2 commits, 3 complete),
whether a RESTART asked for it; the command dies released (R452) and the ms since then; the command dies that
have an image to run (bit 0 C0); the digests of the images that they run; their xSPI ports. -/
structure Power where
  good : Bool := true
  vdd18 : Bool := true
  reset : Bool := false
  test : Bool := false
  hold : Bool := true
  standby : Bool := false
  stopStep : Nat := 0
  restart : Bool := false
  released : Bool := true
  ms : Nat := 0
  runs : Nat := 3
  digests : Vector (List Nat) 2 := Vector.replicate 2 (List.replicate 32 0)
  flash : Vector FlashPort 2 := Vector.replicate 2 {}
deriving DecidableEq, Repr, Inhabited

/-! ### Chapter 15, the lifetime record: events and fault history -/

/-- One fault-history entry (R568, the byte table): FSEQ, RTC SEC, code, source die (8: keeper), unit number (0xFF:
none), two details, REPEAT, the crystal mark, the starts since manufacture.  Its CRC is what makes it readable; the model
lists readable entries only (R557). -/
structure FaultEntry where
  seq : Nat
  sec : Nat
  code : Nat
  die : Nat
  unit : Nat
  d1 : Nat
  d2 : Nat
  rep : Nat
  xtal : Bool
  starts : Nat
deriving DecidableEq, Repr, Inhabited

/-- The event counters of R568. -/
inductive EvCounter where
  | trip (t : Fin 8)
  | retire | parity | failover | ret | unres | safety | bootFail | stopUnc | kpor | defer | cold | warm | recov | stopCtl
deriving DecidableEq, Repr, Inhabited

/-- The lifetime counters (R560-R563, R568): hours 0-7; temperature bins by 32 x histogram + bin; DC-link bins; events;
switching counts by port; rainflow cells by 256 x port + cell; the second of the last committed merge. -/
structure LifeCounts where
  hours : Vector Nat 8 := Vector.replicate 8 0
  temps : List (Nat × Nat) := []
  dcl : List (Nat × Nat) := []
  ev : Vector Nat 24 := Vector.replicate 24 0
  sw : Vector Nat 28 := Vector.replicate 28 0
  rain : List (Nat × Nat) := []
  lastMerge : Nat := 0
deriving DecidableEq, Repr, Inhabited

/-- Increments of the lifetime counters that dies hold or a merge has collected (R566, R567). -/
structure LifeInc where
  temps : List (Nat × Nat) := []
  dcl : List (Nat × Nat) := []
  sw : List (Nat × Nat) := []
  rain : List (Nat × Nat) := []
deriving DecidableEq, Repr, Inhabited

/-- The lifetime record: the fault history committed and waiting (newest first), a new REPEAT for the newest committed entry, FSEQ
to come, starts since manufacture; the keeper's working copy and the committed copy of the counters; the increments of
temperature and DC link that the dies and N hold; the merge that waits for its commits, what the class 8 and class 9 bursts
in progress write of it, and what they have committed and N has not reported. -/
structure Life where
  hist : List FaultEntry := []
  histWait : List FaultEntry := []
  repWait : Option Nat := none
  nextSeq : Nat := 0
  starts : Nat := 0
  work : LifeCounts := {}
  comm : LifeCounts := {}
  inc : LifeInc := {}
  merge : Option LifeInc := none
  snap8 : Option LifeInc := none
  snap9 : Option LifeInc := none
  done8 : Option LifeInc := none
  done9 : Option LifeInc := none
deriving DecidableEq, Repr, Inhabited

/-- The safety region of the MRAM: the parameter set, the password. -/
structure SafRegion where
  params : List (Nat × DictVal) := []
  pw : Password := {}
deriving DecidableEq, Repr, Inhabited

/-- The committed content of the MRAM's regions (section "MRAM"), as the valid copy of each gives it (R556); what other fields hold
already (persisted values, application store, meters, fault history, lifetime counters) is not repeated here. -/
structure Mram where
  sys : SysRegion := {}
  ckpt : Option Checkpoint := none
  saf : SafRegion := {}
  log : List LogEntry := []
deriving DecidableEq, Repr, Inhabited

/-- The two copies of a double-copy region (R555): SEQ in the header of each, and whether its CRC-32C is correct. -/
structure RegionCopies where
  seqA : Word := 1
  seqB : Word := 0
  okA : Bool := true
  okB : Bool := true
deriving DecidableEq, Repr, Inhabited

/-- The double-copy regions in the order of their offsets: system, checkpoint, persisted values, safety, MP0-MP2, application store,
lifetime counters, rainflow; no checkpoint has been committed at first. -/
def RegionCopies.initial : Vector RegionCopies 10 :=
  (Vector.replicate 10 {}).set 1 { seqA := 0, okA := false, okB := false }

/-- The keeper beside its registers: powered; the stored energy of its last evaluation in uJ times 20,000 (R549); the burst being written, the classes requested again meanwhile (R553), the waiting
classes that have been counted as deferred (R552); no start yet since keeper power-on, or PG_K lost while the main domains ran
(R448); the entry of a keeper power-on that waits for the first class 3 burst (R568); rich mode, the direction, the last charge and the HVIN
target in mV of its tracking (R542-R544); the cold-start oscillator charges VSTQ (R541); WAKE_OUT; a region commit of class 1 waits; the meter whose commit runs and its content; application values in the burst that
runs; the MRAM, the content that waiting requests have brought, the content of the burst that runs; the waiting classes that only MA6 asked for, whether the burst that
runs writes unchanged content for it, the bursts MA6 still waits for (R558); an MA7 that waits (R559); codes and results of MA6 and MA7
that ended while the main domains were in reset (R597); the copies of the double-copy regions, and the regions that the burst writes (R555).
-/
structure Keeper where
  powered : Bool := true
  est : Nat := 0
  running : Option Nat := none
  again : Nat := 0
  deferred : Nat := 0
  first : Bool := true
  rich : Bool := false
  up : Bool := true
  charge : Nat := 0
  target : Rat := 0
  starting : Bool := false
  wakeOut : Bool := false
  safRegion : Bool := false
  meter : Nat := 0
  appTaken : Nat := 0
  mram : Mram := {}
  wait : Mram := {}
  snap : Mram := {}
  snapLife : LifeCounts := {}
  snapMeter : Option MeterSaved := none
  rewrite : Nat := 0
  rewriting : Bool := false
  ma6 : List Nat := []
  capTest : Bool := false
  maintDone : List (Nat × Nat) := []
  regions : Vector RegionCopies 10 := RegionCopies.initial
  writing : List Nat := []
deriving DecidableEq, Repr, Inhabited

/-- The cycle counter of one port (R563-R566): the extreme and direction of the reversal detection, the stack of
reversals (newest first), the increments of rainflow cells by cell 16r + m in half-cycles, and what a merge in progress
has taken of the cells and of the switching count (R566). -/
structure CycleCounter where
  e : Option Int := none
  dir : Int := 0
  stack : List Int := []
  cells : List (Nat × Nat) := []
  takenCells : List (Nat × Nat) := []
  takenSwitches : Nat := 0
deriving DecidableEq, Repr, Inhabited

/-! ### Chapter 16: check-value units and maintenance activities -/

/-- A check-value unit beside its registers: the configuration latched at START or RESUME (R577), and a computation that
has met its end and sets DONE next (R584). -/
structure CrcUnit where
  cfg : Word := 0x2000
  poly : Word := 0x04C11DB7
  start : Word := 0xFFFFFFFF
  xorout : Word := 0xFFFFFFFF
  base : Nat := 0
  len : Nat := 0
  ended : Bool := false
  failed : Bool := false
deriving DecidableEq, Repr, Inhabited

/-- A maintenance activity in a slot beside its registers: the units (comparators, ports, cores, lanes) still to do, the
checks of the unit in hand still to run, whether any check was judged, the units that failed and were skipped, whether a
CANCEL waits for the activity's safe point (R596), the lanes that MA5 has retrained. -/
structure Activity where
  units : List Nat := []
  checks : List Nat := []
  judged : Bool := false
  failed : Nat := 0
  skipped : Nat := 0
  cancel : Bool := false
  passed : Nat := 0
deriving DecidableEq, Repr, Inhabited

/-- What the part sends: to other dies inside the package, to the network, to a requester, to its pins. -/
inductive MsgKind where
  /-- A flit resent on the remaining lanes (R16). -/
  | flitResend
  /-- An event flit to both command dies: settings of PWM, delay, comparator and PLL flags. -/
  | flagEvent
  /-- A trip event to both command dies and N (R140). -/
  | tripEvent
  /-- A stamp flit or a flit of two result words from an ADC core to N (R197). -/
  | sampleFlit
  /-- A decimated state record to both command dies (R198). -/
  | stateRecord
  /-- A comparator's interrupt event to both command dies (R207). -/
  | cmpEvent
  /-- The completion event of a check-value unit (R584). -/
  | crcDone
  /-- The result of a maintenance activity, to both command dies (R590). -/
  | maintResult
  /-- A report record of a CLE to both command dies (R248). -/
  | reportRecord
  /-- A member die's vote to S (R290). -/
  | gridVote
  /-- A cycle flit of a member die to N (R311). -/
  | gridCycle
  /-- A descriptor to the other command die (R348). -/
  | descriptor
  /-- CLAIM to S (R369). -/
  | claim
  /-- GRANT to the new shell (R369). -/
  | grant
  /-- The state region and CMD configuration to a joining die (R373). -/
  | joinSnapshot
  /-- A verdict of the arbiter: FAILOVER to N, TAKE, SWAP (R366, R377). -/
  | verdict
  /-- An SS1 request of the arbiter to both safety channels (R363). -/
  | arbSs1
  /-- A position record to S (R394). -/
  | piRecord
  /-- A safety frame to N (R439). -/
  | safetyFrame
  /-- S_STATE to both command dies (R440). -/
  | sState
  /-- A pulse of a test-pulse output or of a safe output (R413, R416). -/
  | testPulse
  /-- A frame that a port has sent, without its check sequence (R472). -/
  | etherFrame
  /-- A time event to the drive dies named (R495). -/
  | timeEvent
  /-- A TIO pin is driven high for PW x 10 ns (R495). -/
  | tioPulse
  /-- A frame that a CAN controller has sent (R499). -/
  | canFrame
  /-- A dictionary message for the engine (R522, R523). -/
  | dictRequest
  /-- A PTP message for N's ordinary clock (R477). -/
  | toClock
  /-- The payload of a safety frame for S (R438). -/
  | toSafety
  /-- A response or ABORT message to a dictionary client (R524). -/
  | dictResponse
  /-- A parity event of N to both command dies and S (R42). -/
  | parityEvent
  /-- A command-period tick to both command dies (R340). -/
  | commandTick
  /-- A machine-level interrupt on AC0 of a command die (R42). -/
  | machineIrq
  /-- The word that a register read returns: address, word (R39, R46). -/
  | readReturn
deriving DecidableEq, Repr, Inhabited

/-- One message: its kind, the code of the die (or unit) it comes from, its words. -/
structure Msg where
  kind : MsgKind
  src : Nat
  data : List Nat
deriving DecidableEq, Repr, Inhabited

/-- The state of the part. -/
structure State where
  pending : List Instr := []
  regs : List (Nat × RegCell) := []
  copies : List (Nat × Word) := []
  mem : Memory := []
  out : List Msg := []
  freeCnt : Nat := 0
  linkEnds : Vector LinkEnd 56 := Vector.replicate 56 {}
  rsBlocks : Vector RsBlock 9 := Vector.replicate 9 {}
  plls : Vector Pll 8 := Vector.replicate 8 {}
  hops : Vector Hop 4 := Vector.replicate 4 {}
  groups : Vector Group 16 := Vector.replicate 16 {}
  ports : Vector Port 28 := Port.initial
  tgs : Vector TripGroup 8 := Vector.replicate 8 {}
  drives : Vector DriveDie 4 := Vector.replicate 4 {}
  adcs : Vector AdcCore 16 := Vector.replicate 16 {}
  cmps : Vector Comparator 64 := Vector.replicate 64 {}
  pis : Vector PosIf 8 := Vector.replicate 8 {}
  cles : Vector CleCore 8 := Vector.replicate 8 {}
  life : Life := {}
  sys : SysRegion := {}
  power : Power := {}
  keeper : Keeper := {}
  grids : Vector GridDie 4 := Vector.replicate 4 {}
  gridS : GridS := {}
  cycles : Vector CycleCounter 28 := Vector.replicate 28 {}
  crcs : Vector CrcUnit 8 := Vector.replicate 8 {}
  acts : Vector Activity 16 := Vector.replicate 16 {}
  maintSeq : Nat := 0
  meters : Vector MeterPoint 3 := Vector.replicate 3 {}
  vars : List (Nat × DictVal) := []
  cmds : Vector CmdDie 2 := Vector.replicate 2 {}
  arb : Arbiter := {}
  safety : Safety := {}
  net : Net := {}
  flows : Vector FlowCtx 128 := Vector.replicate 128 {}
  dict : Dict := {}
  persist : List (Nat × DictVal) := []
deriving DecidableEq, Repr

/-- The boot attempt of the start before the state that `State.reset` is (R453). -/
def firstAttempt : BootAttempt := { sec := 0, kind := 0, result := 0, why := 1, opened := true }

/-- The part after reset: a cold start has ended with the release of the command dies, and nothing has been commanded.  Every register holds
its Reset column (R8), every memory window 0; the boot attempt is open (R453); the keeper is powered; the command dies run the start period, in signature window 0 (R452). -/
def State.reset : State where
  cmds := Vector.replicate 2 { run := some ⟨[], [], [], []⟩, win := some 0 }
  sys := { attempts := [firstAttempt] }
  keeper := { first := false, mram := { sys := { attempts := [firstAttempt] } } }

end Sys2Proof.Machine
end

