-- ==== Sys2Proof/Machine/Ops.lean ====
section
/-!
DEFINITION. Sys2Proof/Machine/Ops.lean: the named operations over registers, register copies, memory windows and
messages.  Every register bit of the part is read and written here and nowhere else.
-/

namespace Sys2Proof.Machine

/-! ### Sorted association lists -/

/-- The value at key `a`. -/
def Assoc.get {α : Type} : List (Nat × α) → Nat → Option α
  | [], _ => none
  | (k, v) :: r, a => if k = a then some v else Assoc.get r a

/-- Put `v` at key `a`, in the place its key has in the order. -/
def Assoc.put {α : Type} : List (Nat × α) → Nat → α → List (Nat × α)
  | [], a, v => [(a, v)]
  | (k, w) :: r, a, v =>
    if a < k then (a, v) :: (k, w) :: r
    else if a = k then (a, v) :: r
    else (k, w) :: Assoc.put r a v

/-- Remove key `a`. -/
def Assoc.del {α : Type} (m : List (Nat × α)) (a : Nat) : List (Nat × α) := m.filter (fun p => p.1 ≠ a)

/-- The keys rise strictly. -/
def Assoc.sorted {α : Type} : List (Nat × α) → Bool
  | [] => true
  | [_] => true
  | (a, _) :: (b, w) :: r => decide (a < b) && Assoc.sorted ((b, w) :: r)

/-! ### Real quantities -/

/-- The exact quotient `n / d` in whole units: a quotient between two units becomes one of them, which the spec leaves open. -/
def openRound (n : Int) (d : Nat) : Int :=
  if n % d = 0 then n / d else if Config.roundUp n d then n / d + 1 else n / d

/-- A real quantity in whole units of its register. -/
def openRead (x : Rat) : Int := openRound x.num x.den

/-- pi scaled by 2^64. -/
def pi64 : Int := 57952155664616982739

/-- The Taylor terms of sin from term `t` (an odd power with its sign) on, `x2` the square, all scaled by 2^64. -/
def sinSum (x2 : Int) : Nat → Nat → Int → Int
  | 0, _, _ => 0
  | n + 1, k, t => t + sinSum x2 n (k + 2) (-(t * x2 / 2 ^ 64) / ((k + 1) * (k + 2) : Nat))

/-- sin(2 pi n / d) scaled by 2^64, the angle folded into a quarter turn either side of 0. -/
def sinTurn (n d : Nat) : Int :=
  let m := n % d
  let p : Int := if d < 2 * m then 2 * ((m : Int) - d) else 2 * (m : Int)
  let q : Int := if (d : Int) < 2 * p then d - p else if 2 * p < -(d : Int) then -d - p else p
  let x := q * pi64 / d
  sinSum (x * x / 2 ^ 64) 12 1 x

/-- One bit of a square root: bit `k` is kept where the square stays within `x`. -/
def rootBit (x r k : Nat) : Nat := if (r + 2 ^ k) * (r + 2 ^ k) ≤ x then r + 2 ^ k else r

/-- The whole part of the square root of a number below 2^(2 bits). -/
def isqrt (bits x : Nat) : Nat := (List.range bits).foldl (fun r i => rootBit x r (bits - 1 - i)) 0

/-- The square root of a quantity below 2^128, in units of 2^-32: exact, or one of the two neighbours. -/
def openRoot (x : Rat) : Rat :=
  let y := (x.num * 2 ^ 64 / x.den).toNat
  let r := isqrt 96 y
  if ((r * r : Nat) : Rat) = x * 2 ^ 64 then (r : Rat) / 2 ^ 32
  else if Config.roundUp x.num x.den then ((r + 1 : Nat) : Rat) / 2 ^ 32 else (r : Rat) / 2 ^ 32

/-! ### Bits of a word -/

/-- The mask of a field of `n` bits at `lo`. -/
def maskOf (lo n : Nat) : Word := BitVec.ofNat 32 (2 ^ n - 1) <<< lo

/-- The `n` bits of `w` from bit `lo`, as a number. -/
def getBits (w : Word) (lo n : Nat) : Nat := (w.toNat >>> lo) % 2 ^ n

/-- `w` with the `n` bits from bit `lo` replaced by `x` modulo 2^n. -/
def putBits (w : Word) (lo n x : Nat) : Word :=
  (w &&& ~~~(maskOf lo n)) ||| (BitVec.ofNat 32 (x % 2 ^ n) <<< lo)

/-- The even-parity bit of a byte. -/
def byteParity (b : Nat) : Nat :=
  let x := b ^^^ (b >>> 4)
  let y := x ^^^ (x >>> 2)
  (y ^^^ (y >>> 1)) % 2

/-- One even-parity bit for each of the four bytes (R36), bit `i` for byte `i`. -/
def parityOf (w : Word) : BitVec 4 :=
  BitVec.ofNat 4 (byteParity (getBits w 0 8) + 2 * byteParity (getBits w 8 8)
    + 4 * byteParity (getBits w 16 8) + 8 * byteParity (getBits w 24 8))

/-! ### Where an address lies (R26, R28) -/

/-- The die whose window holds a key of the register store. -/
def dieOfKey (a : Nat) : Option Die :=
  if 0x150000000 ≤ a then (if a < 0x151000000 then some .c1 else none)
  else if a < 0x40000000 then none
  else if a < 0x44000000 then some (Die.drive ((a - 0x40000000) / 0x1000000))
  else if a < 0x48000000 then none
  else if a < 0x4C000000 then some .n
  else if a < 0x50000000 then some .s
  else if a < 0x51000000 then some .c0
  else none

/-- Does a die of this kind hold the block? -/
def DieKind.holds : DieKind → Die → Bool
  | .all, _ => true
  | .cmd, e => e.isCommand
  | .drive, e => e.isDrive
  | .n, e => e = .n
  | .s, e => e = .s

/-- The block that an offset of a die's window lies in, with the instance and the offset inside the 16 KiB window. -/
def findBlock (e : Die) (off : Nat) : List BlockRow → Option (BlockRow × Nat × Nat)
  | [] => none
  | b :: r =>
    if b.kind.holds e && decide (b.off ≤ off) && decide ((off - b.off) / 0x4000 < b.count)
    then some (b, (off - b.off) / 0x4000, (off - b.off) % 0x4000)
    else findBlock e off r

/-- The indices of a register at offset `o`, if the row has one there. -/
def RegRow.indices (r : RegRow) (o : Nat) : Option (Nat × Nat) :=
  if o < r.off then none else
    let x := o - r.off
    let i := if r.n1 ≤ 1 then 0 else x / r.s1
    let y := x - i * r.s1
    let j := if r.n2 ≤ 1 then 0 else y / r.s2
    if decide (i < r.n1) && decide (j < r.n2) && decide (y = j * r.s2) then some (i, j) else none

/-- The register at an offset of a block, with its indices. -/
def findReg (o : Nat) : List RegRow → Option (RegRow × Nat × Nat)
  | [] => none
  | r :: rs =>
    match r.indices o with
    | some (i, j) => some (r, i, j)
    | none => findReg o rs

/-- What the register tables say of a normal-alias address: block, instance, row, indices. -/
structure RegInfo where
  block : BlockRow
  inst : Nat
  row : RegRow
  i : Nat
  j : Nat

/-- The register at a normal-alias key, if one is implemented there. -/
def regInfo (a : Nat) : Option RegInfo :=
  match dieOfKey a with
  | none => none
  | some e =>
    match findBlock e (a - e.base) regBlocks with
    | none => none
    | some (b, inst, o) =>
      match findReg o b.regs with
      | none => none
      | some (r, i, j) => some ⟨b, inst, r, i, j⟩

/-- The instance number the reset word depends on: the command die for a block that only command dies hold, the
instance in the block otherwise. -/
def RegInfo.resetInst (r : RegInfo) (a : Nat) : Nat :=
  match r.block.kind with
  | .cmd => if 0x150000000 ≤ a then 1 else 0
  | _ => r.inst

/-- The reset word of the register at `a` (the Reset column, R8); 0 where no register is implemented (R30). -/
def resetWord (a : Nat) : Word :=
  match regInfo a with
  | some r => BitVec.ofNat 32 (r.row.reset (r.resetInst a) r.i r.j)
  | none => 0

/-! ### The register store -/

/-- The stored content of a register with its parity bits. -/
def State.cell (s : State) (a : Nat) : RegCell :=
  match Assoc.get s.regs a with
  | some c => c
  | none => ⟨resetWord a, parityOf (resetWord a)⟩

/-- The stored content of a register. -/
def State.reg (s : State) (a : Nat) : Word := (s.cell a).val

/-- Store a word and its parity (R36: recomputed on every write, whatever its source).  The store lists no register
that holds its reset word with correct parity. -/
def State.setReg (s : State) (a : Nat) (w : Word) : State :=
  { s with regs := if w = resetWord a then Assoc.del s.regs a else Assoc.put s.regs a ⟨w, parityOf w⟩ }

/-- A field of a register, as a number. -/
def State.get (s : State) (f : RF) : Nat := getBits (s.reg f.addr) f.lo f.w

/-- A one-bit field, or whether a field is not 0. -/
def State.flag (s : State) (f : RF) : Bool := decide (s.get f ≠ 0)

/-- Store a field of a register; the other bits stay. -/
def State.set (s : State) (f : RF) (x : Nat) : State :=
  s.setReg f.addr (putBits (s.reg f.addr) f.lo f.w x)

/-- Set or clear a one-bit field. -/
def State.setB (s : State) (f : RF) (b : Bool) : State := s.set f (if b then 1 else 0)

/-- Store the content and parity bits of a register as they are. -/
def State.putCell (s : State) (a : Nat) (c : RegCell) : State :=
  { s with regs := if c = ⟨resetWord a, parityOf (resetWord a)⟩ then Assoc.del s.regs a else Assoc.put s.regs a c }

/-- A status bit that hardware shows in a configuration register: the parity bits follow the change and give a corrupted content no fresh
parity, since no write takes place (R36, R38; assumption 12). -/
def State.showB (s : State) (f : RF) (b : Bool) : State :=
  let c := s.cell f.addr
  let w := putBits c.val f.lo f.w (if b then 1 else 0)
  s.putCell f.addr ⟨w, c.par ^^^ parityOf (c.val ^^^ w)⟩

/-- Add to a counter that saturates at the largest value of its field. -/
def State.addSat (s : State) (f : RF) (k : Nat) : State := s.set f (min (s.get f + k) (2 ^ f.w - 1))

/-- Count one in a counter that saturates. -/
def State.incSat (s : State) (f : RF) : State := s.addSat f 1

/-- Count one in a counter modulo its width. -/
def State.incMod (s : State) (f : RF) : State := s.set f (s.get f + 1)

/-- OR a mask into a field. -/
def State.orBits (s : State) (f : RF) (m : Nat) : State := s.set f (s.get f ||| m)

/-- Clear the bits of a mask in a field. -/
def State.clrBits (s : State) (f : RF) (m : Nat) : State := s.set f (s.get f &&& ((2 ^ f.w - 1) ^^^ (m % 2 ^ f.w)))

/-- Set or clear bit `i` of a field. -/
def State.setBit (s : State) (f : RF) (i : Nat) (b : Bool) : State :=
  if b then s.orBits f (2 ^ i) else s.clrBits f (2 ^ i)

/-- Bit `i` of a field. -/
def State.bit (s : State) (f : RF) (i : Nat) : Bool := (s.get f).testBit i

/-- Does the register's stored parity fit its content (R37)? -/
def State.parityOk (s : State) (a : Nat) : Bool := (s.cell a).par = parityOf (s.cell a).val

/-! ### Signed numbers in fields -/

/-- The signed value of an `n`-bit pattern. -/
def toSigned (n x : Nat) : Int := if x % 2 ^ n < 2 ^ (n - 1) then (x % 2 ^ n : Nat) else (x % 2 ^ n : Nat) - (2 ^ n : Nat)

/-- The `n`-bit pattern of a signed number. -/
def ofSigned (n : Nat) (i : Int) : Nat := (i % ((2 ^ n : Nat) : Int)).toNat

/-- A signed field. -/
def State.getS (s : State) (f : RF) : Int := toSigned f.w (s.get f)

/-- Store a signed number in a field, saturated to its range. -/
def State.setSat (s : State) (f : RF) (i : Int) : State :=
  s.set f (ofSigned f.w (max (-(2 ^ (f.w - 1) : Nat)) (min i ((2 ^ (f.w - 1) : Nat) - 1))))

/-- Floor-free rounding to nearest of `a / b` for `b > 0`, halves away from zero. -/
def roundDiv (a : Int) (b : Nat) : Int :=
  if b = 0 then 0 else if 0 ≤ a then (2 * a + b) / (2 * b) else -((2 * (-a) + b) / (2 * b))

/-! ### Memory windows -/

/-- A byte of a memory window; a cell that is not listed holds 0 (memories are cleared to 0, section "What survives"). -/
def Memory.read (m : Memory) (a : Nat) : Byte := (Assoc.get m a).getD 0

/-- Write one byte.  Writing 0 removes the cell, so equal memories are equal lists. -/
def Memory.write (m : Memory) (a : Nat) (b : Byte) : Memory :=
  if b = 0 then Assoc.del m a else Assoc.put m a b

/-- The canonical form: addresses strictly rising, no listed cell equal to what an unlisted one reads as. -/
def Memory.wf (m : Memory) : Bool := Assoc.sorted m && m.all (fun c => decide (c.2 ≠ 0))

/-- Write bytes at rising addresses. -/
def Memory.writeBytes (m : Memory) (a : Nat) : List Byte → Memory
  | [] => m
  | b :: r => Memory.writeBytes (Memory.write m a b) (a + 1) r

/-- Read `n` bytes. -/
def Memory.readBytes (m : Memory) (a : Nat) : Nat → List Byte
  | 0 => []
  | n + 1 => Memory.read m a :: Memory.readBytes m (a + 1) n

/-- Write `n` zero bytes: remove the cells of a range. -/
def Memory.clear (m : Memory) (a n : Nat) : Memory := m.filter (fun c => decide (c.1 < a) || decide (a + n ≤ c.1))

/-- Read a little-endian word of `n` bytes (byte 0 of a value is bits [7:0]). -/
def Memory.readLE (m : Memory) (a : Nat) : Nat → Nat
  | 0 => 0
  | n + 1 => (Memory.read m a).toNat + 256 * Memory.readLE m (a + 1) n

/-- The `n` bytes of a number, least significant first. -/
def bytesLE (x : Nat) : Nat → List Byte
  | 0 => []
  | n + 1 => BitVec.ofNat 8 x :: bytesLE (x / 256) n

/-- The number that bytes spell, least significant first. -/
def ofBytesLE : List Byte → Nat
  | [] => 0
  | b :: r => b.toNat + 256 * ofBytesLE r

/-- A 32-bit word of a memory window. -/
def State.memWord (s : State) (a : Nat) : Word := BitVec.ofNat 32 (Memory.readLE s.mem a 4)

/-- Write a 32-bit word of a memory window. -/
def State.setMemWord (s : State) (a : Nat) (w : Word) : State :=
  { s with mem := Memory.writeBytes s.mem a (bytesLE w.toNat 4) }

/-! ### Units by number -/

/-- The unit with number `i`; the default where the part has none. -/
def vget {α : Type} [Inhabited α] {n : Nat} (v : Vector α n) (i : Nat) : α := v[i]?.getD default

/-- Replace the unit with number `i`. -/
def vset {α : Type} {n : Nat} (v : Vector α n) (i : Nat) (x : α) : Vector α n := v.setIfInBounds i x

/-- Change the unit with number `i`. -/
def vmod {α : Type} [Inhabited α] {n : Nat} (v : Vector α n) (i : Nat) (f : α → α) : Vector α n := vset v i (f (vget v i))

/-! ### Messages, free values, the read-back word -/

/-- Send a message: the newest stands first. -/
def State.send (s : State) (m : Msg) : State := { s with out := m :: s.out }

/-- Take one fresh free value: its number, and the state in which the next one differs. -/
def State.fresh (s : State) : Nat × State := (s.freeCnt, { s with freeCnt := s.freeCnt + 1 })

/-- Fold an operation over a list of unit numbers. -/
def foldOver (l : List Nat) (f : Nat → State → State) (s : State) : State := l.foldl (fun t i => f i t) s

/-- The numbers 0 to n - 1 whose bit is set in a mask. -/
def bitsOf (n m : Nat) : List Nat := (List.range n).filter (fun i => m.testBit i)

end Sys2Proof.Machine
end

