-- ==== Sys2Proof/Machine/Checkpoint.lean ====
section
/-!
DEFINITION. Sys2Proof/Machine/Checkpoint.lean: what the checkpoint and the safety region hold, as a request for their commit
captures it.
-/

namespace Sys2Proof.Machine

/-- The counters that count since the last cold start (R451), by their fields. -/
def coldCounters : List RF :=
  let ds := List.range 4
  let per (n : Nat) (f : Nat → Nat → List RF) : List RF := ds.flatMap (fun d => (List.range n).flatMap (f d))
  Die.all.flatMap (fun e => (List.range 7).flatMap (fun k => [ELINK.STAT_RETRAIN_CNT e k, ELINK.STAT_RETIRE_CNT e k]))
  ++ Die.all.flatMap (fun e => [REGCTL.PAR_STAT_ERR_CNT e, CLK.PLL_STAT_LOL_CNT e])
  ++ per 4 (fun d k => [PWM.SPLIT_LOG_SPLIT_CNT d k, ADC.ASTAT_LOST_CNT d k])
  ++ per 2 (fun d k => [TRIP.TGSTAT_TRIP_CNT d k, PI.PISTAT_ERR_CNT d k, CLE.FLAGS_OVR_CNT d k, CLE.ECC_ECC_CNT d k])
  ++ per 6 (fun d j => [PORT.FLTSTAT_FLT_CNT d j, PORT.FLTSTAT_GLITCH_CNT d j])
  ++ per 16 (fun d i => [CMP.CSTAT_EDGE_CNT d i])
  ++ ds.flatMap (fun d => [APB.APSTAT_UV_CNT d, GSU.JUMP_JUMP_CNT d, RTS.RTSTAT_GTRIP_CNT d, DCMD.DCMDSTAT_STRAY_CNT d])
  ++ [0, 1, 2].flatMap (fun m => [MP.MCNT_MISS_CNT m, MP.MCNT_OVR_CNT m, ETH.DROPCNT_TX_DROP_CNT m, ETH.DROPCNT_RX_DROP_CNT m])
  ++ [0, 1].flatMap (fun c => [CMD.SNAPCNT_DIFF_CNT c, CMD.SNAPCNT_FETCH_CNT c, CMD.SKIPCNT_SKIP_CNT c])
  ++ [ARB.ARBCNT_FO_CNT, HGRD.HGCNT_HG_CNT0, HGRD.HGCNT_HG_CNT1, HGRD.HGCNT_HG_CNT2, HGRD.HGCNT_HG_CNT3, MBX.MBXSTAT_MBX_REJ,
      SFN.SFCNT_STO_CNT, SFN.SFCNT_SS1_CNT, SFN.SFCNT_DEG_CNT, SFN.SFCNT_VIOL_CNT, TIME.TSTAT_SWITCH_CNT, LTN.LTCNT_DCL_MISS, LTN.LTCNT_MERGE_CNT]
  ++ (List.range 48).map (fun c => SCONN.SCST_LOST_CNT c)

/-- The fields that show lanes in service. -/
def laneFields : List RF :=
  Die.all.flatMap (fun e => (List.range 7).flatMap (fun k => [ELINK.STAT_LANE_UP_RX e k, ELINK.STAT_LANE_UP_TX e k]))

/-- The fields that show links down, and retired ADC cores and CLEs. -/
def retiredFields : List RF :=
  Die.all.flatMap (fun e => (List.range 7).map (fun k => ELINK.STAT_LINK_DOWN e k))
  ++ (List.range 4).flatMap (fun d => (List.range 4).map (fun k => ADC.ASTAT_RETIRED d k) ++ (List.range 2).map (fun k => CLE.FLAGS_RETIRED d k))

/-- The registers the checkpoint holds whole: the delay and ACAL registers. -/
def checkpointRegs : List Nat :=
  let ds := List.range 4
  ds.flatMap (fun d => (List.range 7).flatMap (fun j => PORT.DLY_CAL d j :: (List.range 64).map (fun k => PORT.LIN d j k)))
  ++ ds.flatMap (fun d => (List.range 4).flatMap (fun k => [ADC.ACAL_SE d k, ADC.ACAL_DIFF d k]))

/-- The checkpoint now. -/
def State.checkpointNow (s : State) : Checkpoint where
  counters := (coldCounters ++ laneFields ++ retiredFields).map (fun f => s.get f)
  regs := checkpointRegs.map (fun a => (a, s.reg a))
  dies := (List.range 4).foldl (fun m d => if (vget s.drives d).retired then m + 2 ^ d else m) 0
  cmps := (List.range 64).foldl (fun m i => if (vget s.cmps i).retired then m + 2 ^ i else m) 0
  safetyFault := s.sys.safetyFault
  results := s.maintSeq
  device := Config.deviceNumber 4

/-- The safety region as a commit asked for now writes it: the parameter set, with the pending set over it while an APPLY waits, and the
password, the one that waits for its commit; HALT_EXTEND and DBG_ALLOW, which are no persistent entries (R123, R385), are not in it. -/
def State.safNow (s : State) : SafRegion where
  params :=
    let now := s.vars.filter (fun (v : Nat × DictVal) => decide (0x680000 ≤ v.1) && decide (v.1 < 0x700000) && decide (v.1 ≠ 0x684202) && decide (v.1 ≠ 0x684404))
    if s.safety.asked.any (fun a => a.apply) then s.safety.pend.foldl (fun m (v : Nat × DictVal) => Assoc.put m v.1 v.2) now else now
  pw := match s.safety.asked.bind (fun a => a.pw) with | some p => { s.safety.pw with hash := p.hash, salt := p.salt } | none => s.safety.pw

/-- The burst class that commits a persistent entry: the system region holds COLD_NEXT and the passwords (section "MRAM"). -/
def commitClass (key : Nat) : Nat := if key = 0x200004 ∨ key = 0x140004 ∨ key = 0x140005 then 2 else 6

/-- The system region with a write of one of its entries in it. -/
def SysRegion.with (y : SysRegion) (c : DictCommit) : SysRegion :=
  if c.key = 0x200004 then { y with coldNext := decide (c.val = .num 1) }
  else if c.key = 0x140004 then { y with opPw := c.pw }
  else if c.key = 0x140005 then { y with mntPw := c.pw }
  else y

/-- The system region as a commit asked for now writes it: a write that waits for its commit included. -/
def State.sysNow (s : State) : SysRegion := match s.dict.commit with | some c => s.sys.with c | none => s.sys

/-- The content that a request for class `c` brings. -/
def State.capture (s : State) (c : Nat) : Mram :=
  let w := s.keeper.wait
  match c with
  | 1 => { w with saf := s.safNow }
  | 2 => { w with sys := s.sysNow }
  | 4 => { w with ckpt := some s.checkpointNow }
  | _ => w

end Sys2Proof.Machine
end

