-- ==== Sys2Proof/Machine/DictMap.lean ====
section
/-!
DEFINITION. Sys2Proof/Machine/DictMap.lean: the object dictionary's entries (chapters 3-16, their dictionary tables):
index, number of consecutive indices, subindex, type, access, attributes, default, the values a write may have where the
table states a range.

`DP.TAG_NAME` is the key of an entry, index x 256 + subindex.
-/

namespace Sys2Proof.Machine

/-- The types of R505. -/
inductive DictType where
  | bool | u8 | u16 | u32 | u64 | i8 | i16 | i32 | i64 | q16 | q32 | str | domain
deriving DecidableEq, Repr, Inhabited

/-- Access codes (R506). -/
inductive DictAccess where
  | ro | rw | wo | const
deriving DecidableEq, Repr, Inhabited

/-- One row: the first index, how many indices share it, subindex, name, type, access, attributes M, P, S, L (letters in
`att`), default, stated ranges ([]: all values of the type), largest length of a string or domain. -/
structure DictRow where
  ix : Nat
  n : Nat
  sub : Nat
  name : String
  ty : DictType
  acc : DictAccess
  att : List Char
  dflt : Int
  ranges : List (Int × Int)
  max : Nat
deriving Repr, Inhabited

/-- Part 0 of the rows. -/
def dictRows0 : List DictRow := [
  ⟨0x2100, 1, 1, "LOCK_WIN", .u8, .rw, ['P'], 3, [], 0⟩,
  ⟨0x2100, 1, 2, "LOCK_N", .u16, .rw, ['P'], 64, [], 0⟩,
  ⟨0x2100, 1, 3, "LOSS_M", .u8, .rw, ['P'], 4, [], 0⟩,
  ⟨0x2110, 4, 1, "HOP_EN", .bool, .rw, ['P'], 0, [], 0⟩,
  ⟨0x2110, 4, 2, "HOP_MODE", .u8, .rw, ['P'], 0, [], 0⟩,
  ⟨0x2110, 4, 3, "HOP_LEN", .u8, .rw, ['P'], 0, [], 0⟩,
  ⟨0x2110, 4, 4, "HOP_DIV", .u8, .rw, ['P'], 16, [], 0⟩,
  ⟨0x2110, 4, 5, "SLOT0", .u32, .rw, ['P'], 2147483648, [], 0⟩,
  ⟨0x2110, 4, 6, "SLOT1", .u32, .rw, ['P'], 2147483648, [], 0⟩,
  ⟨0x2110, 4, 7, "SLOT2", .u32, .rw, ['P'], 2147483648, [], 0⟩,
  ⟨0x2110, 4, 8, "SLOT3", .u32, .rw, ['P'], 2147483648, [], 0⟩,
  ⟨0x2110, 4, 9, "SLOT4", .u32, .rw, ['P'], 2147483648, [], 0⟩,
  ⟨0x2110, 4, 10, "SLOT5", .u32, .rw, ['P'], 2147483648, [], 0⟩,
  ⟨0x2110, 4, 11, "SLOT6", .u32, .rw, ['P'], 2147483648, [], 0⟩,
  ⟨0x2110, 4, 12, "SLOT7", .u32, .rw, ['P'], 2147483648, [], 0⟩,
  ⟨0x2110, 4, 13, "HOP_SEED", .u16, .rw, ['P'], 0, [], 0⟩,
  ⟨0x2120, 1, 1, "RTC_TIME", .u64, .ro, [], 0, [], 0⟩,
  ⟨0x2120, 1, 2, "RTC_TRIM", .i16, .rw, ['M', 'P'], 0, [], 0⟩,
  ⟨0x2120, 1, 3, "RTC_SYNC", .bool, .wo, ['M'], 0, [], 0⟩,
  ⟨0x6840, 1, 1, "CKMON_WIN", .u8, .rw, ['P', 'S'], 10, [(10, 25)], 0⟩,
  ⟨0x3000, 16, 1, "MODE", .u8, .rw, ['P'], 1, [], 0⟩,
  ⟨0x3000, 16, 2, "DBL_UPD", .bool, .rw, ['P'], 0, [], 0⟩,
  ⟨0x3000, 16, 3, "COMMIT_MODE", .u8, .rw, ['P'], 0, [], 0⟩,
  ⟨0x3000, 16, 4, "PORTS", .u8, .rw, ['P'], 0, [], 0⟩,
  ⟨0x3000, 16, 5, "START_SRC", .u8, .rw, ['P'], 0, [], 0⟩,
  ⟨0x3000, 16, 6, "TRIGGER", .u8, .rw, ['P'], 0, [], 0⟩,
  ⟨0x3000, 16, 7, "PER", .u32, .rw, ['P', 'L'], 0, [], 0⟩,
  ⟨0x3000, 16, 8, "PHASE", .u32, .rw, ['P', 'L'], 0, [], 0⟩,
  ⟨0x3000, 16, 9, "MIN_OFF", .u16, .rw, ['P'], 0, [], 0⟩,
  ⟨0x3000, 16, 10, "PER_MIN", .u32, .rw, ['P'], 16, [], 0⟩,
  ⟨0x3000, 16, 11, "WRPT", .u32, .rw, ['P'], 16, [], 0⟩,
  ⟨0x3000, 16, 12, "EN", .bool, .rw, [], 0, [], 0⟩,
  ⟨0x3000, 16, 13, "STATUS", .u32, .ro, [], 0, [], 0⟩,
  ⟨0x3040, 28, 1, "DT_RISE", .u32, .rw, ['P', 'L'], 4096, [], 0⟩,
  ⟨0x3040, 28, 2, "DT_FALL", .u32, .rw, ['P', 'L'], 4096, [], 0⟩,
  ⟨0x3040, 28, 3, "PMODE", .u8, .rw, ['P'], 0, [], 0⟩,
  ⟨0x3040, 28, 4, "DLY_TOL", .u8, .rw, ['P'], 32, [], 0⟩,
  ⟨0x3040, 28, 5, "DLY_STATUS", .u32, .ro, [], 0, [], 0⟩,
  ⟨0x6842, 1, 1, "HALT_GUARD", .u16, .rw, ['P', 'S'], 50, [(0, 1000)], 0⟩,
  ⟨0x6842, 1, 2, "HALT_EXTEND", .u32, .rw, ['S'], 0, [(0, 3600000)], 0⟩]

/-- Part 1 of the rows. -/
def dictRows1 : List DictRow := [
  ⟨0x3080, 8, 1, "SAFE", .u8, .rw, ['P'], 0, [], 0⟩,
  ⟨0x3080, 8, 2, "SUP_SEL", .u8, .rw, ['P'], 2, [], 0⟩,
  ⟨0x3080, 8, 3, "FLT_EARLY", .bool, .rw, ['P'], 0, [], 0⟩,
  ⟨0x3080, 8, 4, "FLT_SC_OPEN", .bool, .rw, ['P'], 1, [], 0⟩,
  ⟨0x3080, 8, 5, "EN_SEL", .u8, .rw, ['P'], 1, [], 0⟩,
  ⟨0x3080, 8, 6, "SRC_MASK", .u32, .rw, ['P'], 1073741824, [], 0⟩,
  ⟨0x3080, 8, 7, "TG_MODE", .u8, .rw, ['M'], 1, [], 0⟩,
  ⟨0x3080, 8, 8, "STATUS", .u32, .ro, [], 257, [], 0⟩,
  ⟨0x3080, 8, 9, "SRC_ACTIVE", .u32, .ro, [], 0, [], 0⟩,
  ⟨0x3080, 8, 10, "FIRST_CAUSE", .domain, .ro, [], 0, [], 0⟩,
  ⟨0x30A0, 4, 1, "MEMBERS", .u8, .rw, ['P'], 0, [], 0⟩,
  ⟨0x30A0, 4, 2, "TRIP_POL", .u8, .rw, ['P'], 0, [], 0⟩,
  ⟨0x30A0, 4, 3, "TRIP_FILT", .u8, .rw, ['P'], 4, [], 0⟩,
  ⟨0x30C0, 24, 1, "FLT_USE", .bool, .rw, ['P'], 1, [], 0⟩,
  ⟨0x30C0, 24, 2, "CHOP_EN", .bool, .rw, ['P'], 0, [], 0⟩,
  ⟨0x30C0, 24, 3, "CHOP_SIDE", .u8, .rw, ['P'], 0, [], 0⟩,
  ⟨0x30C0, 24, 4, "CHOP_IN_TRIP", .bool, .rw, ['P'], 1, [], 0⟩,
  ⟨0x30C0, 24, 5, "CHOP_CMP", .u8, .rw, ['P'], 0, [], 0⟩,
  ⟨0x30C0, 24, 6, "CHOP_TON", .u32, .rw, ['P'], 400, [], 0⟩,
  ⟨0x30C0, 24, 7, "CHOP_TOFF", .u32, .rw, ['P'], 400, [], 0⟩,
  ⟨0x30C0, 24, 8, "FLT_STATUS", .u32, .ro, [], 0, [], 0⟩,
  ⟨0x30E0, 64, 1, "PORT", .u8, .rw, ['P'], 7, [], 0⟩,
  ⟨0x30E0, 64, 2, "FORCE_OPEN", .bool, .rw, ['P'], 0, [], 0⟩,
  ⟨0x30E0, 64, 3, "CUFF", .u16, .rw, ['P'], 0, [], 0⟩,
  ⟨0x30E0, 64, 4, "PARTNER", .u8, .rw, ['P'], 0, [], 0⟩,
  ⟨0x3120, 4, 1, "REF_EN", .bool, .rw, ['P'], 1, [], 0⟩,
  ⟨0x3120, 4, 2, "REF_W", .u16, .rw, ['P'], 256, [], 0⟩,
  ⟨0x3120, 4, 3, "REF_INT", .u32, .rw, ['P'], 40000, [], 0⟩,
  ⟨0x3120, 4, 4, "AP_STATUS", .u32, .ro, [], 0, [], 0⟩,
  ⟨0x4000, 16, 1, "EN", .bool, .rw, ['P'], 0, [], 0⟩,
  ⟨0x4000, 16, 2, "RES", .u8, .rw, ['P'], 0, [], 0⟩,
  ⟨0x4000, 16, 3, "ALIGN", .bool, .rw, ['P'], 0, [], 0⟩,
  ⟨0x4000, 16, 4, "CLE_DST", .u8, .rw, ['P'], 0, [], 0⟩,
  ⟨0x4000, 16, 5, "FWD_N", .bool, .rw, ['P'], 0, [], 0⟩,
  ⟨0x4000, 16, 6, "REG_LEN", .u8, .rw, ['P'], 0, [], 0⟩,
  ⟨0x4000, 16, 7, "INJ_LEN", .u8, .rw, ['P'], 0, [], 0⟩,
  ⟨0x4000, 16, 8, "REG_TRIG", .u8, .rw, ['P'], 0, [], 0⟩,
  ⟨0x4000, 16, 9, "REG_TRIG_PAR", .u32, .rw, ['P'], 0, [], 0⟩,
  ⟨0x4000, 16, 10, "INJ_TRIG", .u8, .rw, ['P'], 0, [], 0⟩,
  ⟨0x4000, 16, 11, "INJ_TRIG_PAR", .u32, .rw, ['P'], 0, [], 0⟩]

/-- Part 2 of the rows. -/
def dictRows2 : List DictRow := [
  ⟨0x4000, 16, 12, "STATUS", .u32, .ro, [], 0, [], 0⟩,
  ⟨0x4010, 16, 1, "REG_ENT0", .u16, .rw, ['P'], 26, [], 0⟩,
  ⟨0x4010, 16, 2, "REG_ENT1", .u16, .rw, ['P'], 26, [], 0⟩,
  ⟨0x4010, 16, 3, "REG_ENT2", .u16, .rw, ['P'], 26, [], 0⟩,
  ⟨0x4010, 16, 4, "REG_ENT3", .u16, .rw, ['P'], 26, [], 0⟩,
  ⟨0x4010, 16, 5, "REG_ENT4", .u16, .rw, ['P'], 26, [], 0⟩,
  ⟨0x4010, 16, 6, "REG_ENT5", .u16, .rw, ['P'], 26, [], 0⟩,
  ⟨0x4010, 16, 7, "REG_ENT6", .u16, .rw, ['P'], 26, [], 0⟩,
  ⟨0x4010, 16, 8, "REG_ENT7", .u16, .rw, ['P'], 26, [], 0⟩,
  ⟨0x4010, 16, 9, "REG_ENT8", .u16, .rw, ['P'], 26, [], 0⟩,
  ⟨0x4010, 16, 10, "REG_ENT9", .u16, .rw, ['P'], 26, [], 0⟩,
  ⟨0x4010, 16, 11, "REG_ENT10", .u16, .rw, ['P'], 26, [], 0⟩,
  ⟨0x4010, 16, 12, "REG_ENT11", .u16, .rw, ['P'], 26, [], 0⟩,
  ⟨0x4010, 16, 13, "REG_ENT12", .u16, .rw, ['P'], 26, [], 0⟩,
  ⟨0x4010, 16, 14, "REG_ENT13", .u16, .rw, ['P'], 26, [], 0⟩,
  ⟨0x4010, 16, 15, "REG_ENT14", .u16, .rw, ['P'], 26, [], 0⟩,
  ⟨0x4010, 16, 16, "REG_ENT15", .u16, .rw, ['P'], 26, [], 0⟩,
  ⟨0x4010, 16, 17, "INJ_ENT0", .u16, .rw, ['P'], 26, [], 0⟩,
  ⟨0x4010, 16, 18, "INJ_ENT1", .u16, .rw, ['P'], 26, [], 0⟩,
  ⟨0x4010, 16, 19, "INJ_ENT2", .u16, .rw, ['P'], 26, [], 0⟩,
  ⟨0x4010, 16, 20, "INJ_ENT3", .u16, .rw, ['P'], 26, [], 0⟩,
  ⟨0x4040, 64, 1, "EN", .bool, .rw, ['P'], 0, [], 0⟩,
  ⟨0x4040, 64, 2, "MODE", .u8, .rw, ['P'], 1, [], 0⟩,
  ⟨0x4040, 64, 3, "INSEL", .u8, .rw, ['P'], 0, [], 0⟩,
  ⟨0x4040, 64, 4, "THRESH", .u16, .rw, ['P'], 2048, [], 0⟩,
  ⟨0x4040, 64, 5, "HYST", .u16, .rw, ['P'], 8, [], 0⟩,
  ⟨0x4040, 64, 6, "INV", .bool, .rw, ['P'], 0, [], 0⟩,
  ⟨0x4040, 64, 7, "INIT", .bool, .rw, ['P'], 0, [], 0⟩,
  ⟨0x4040, 64, 8, "LAT_MODE", .u8, .rw, ['P'], 0, [], 0⟩,
  ⟨0x4040, 64, 9, "CGRP", .u8, .rw, ['P'], 0, [], 0⟩,
  ⟨0x4040, 64, 10, "TRIP_LAT", .bool, .rw, ['P'], 1, [], 0⟩,
  ⟨0x4040, 64, 11, "IRQ_EN", .bool, .rw, ['P'], 0, [], 0⟩,
  ⟨0x4040, 64, 12, "WAKE_EN", .bool, .rw, ['P'], 0, [], 0⟩,
  ⟨0x4040, 64, 13, "CAP_EDGE", .u8, .rw, ['P'], 0, [], 0⟩,
  ⟨0x4040, 64, 14, "STATUS", .u32, .ro, [], 0, [], 0⟩,
  ⟨0x40C0, 8, 1, "EN", .bool, .rw, ['P'], 0, [], 0⟩,
  ⟨0x40C0, 8, 2, "TYPE", .u8, .rw, ['P'], 0, [], 0⟩,
  ⟨0x40C0, 8, 3, "GRP", .u8, .rw, ['P'], 0, [], 0⟩,
  ⟨0x40C0, 8, 4, "EXC_DIV", .u8, .rw, ['P'], 8, [], 0⟩,
  ⟨0x40C0, 8, 5, "EXC_DLY", .u16, .rw, ['P'], 0, [], 0⟩]

/-- Part 3 of the rows. -/
def dictRows3 : List DictRow := [
  ⟨0x40C0, 8, 6, "SOURCES", .u16, .rw, ['P'], 1024, [], 0⟩,
  ⟨0x40C0, 8, 7, "KP", .u16, .rw, ['P'], 4096, [], 0⟩,
  ⟨0x40C0, 8, 8, "KI", .u16, .rw, ['P'], 128, [], 0⟩,
  ⟨0x40C0, 8, 9, "CPR", .u32, .rw, ['P'], 4096, [], 0⟩,
  ⟨0x40C0, 8, 10, "ZRST", .bool, .rw, ['P'], 0, [], 0⟩,
  ⟨0x40C0, 8, 11, "FILT", .u8, .rw, ['P'], 3, [], 0⟩,
  ⟨0x40C0, 8, 12, "AMP_MIN", .u16, .rw, ['P'], 2048, [], 0⟩,
  ⟨0x40C0, 8, 13, "AMP_MAX", .u16, .rw, ['P'], 28672, [], 0⟩,
  ⟨0x40C0, 8, 14, "STATUS", .u32, .ro, [], 0, [], 0⟩,
  ⟨0x4800, 8, 1, "EN", .bool, .rw, ['P'], 0, [], 0⟩,
  ⟨0x4800, 8, 2, "SCHED", .u8, .rw, ['P'], 0, [], 0⟩,
  ⟨0x4800, 8, 3, "START", .u16, .rw, ['P'], 16, [], 0⟩,
  ⟨0x4800, 8, 4, "RPT_EN", .bool, .rw, ['P'], 0, [], 0⟩,
  ⟨0x4800, 8, 5, "FLAGS", .u32, .ro, [], 0, [], 0⟩,
  ⟨0x4800, 8, 6, "CYCLES", .u32, .ro, [], 0, [], 0⟩,
  ⟨0x4800, 8, 7, "ECC", .u32, .ro, [], 0, [], 0⟩,
  ⟨0x5000, 1, 1, "MEMBERS", .u8, .rw, ['P'], 0, [], 0⟩,
  ⟨0x5000, 1, 2, "GRID_EN", .bool, .rw, [], 0, [], 0⟩,
  ⟨0x5000, 1, 3, "FNOM", .u8, .rw, ['P'], 0, [], 0⟩,
  ⟨0x5000, 1, 4, "VTYPE", .u8, .rw, ['P'], 0, [], 0⟩,
  ⟨0x5000, 1, 5, "CONNECT", .bool, .wo, [], 0, [], 0⟩,
  ⟨0x5000, 1, 6, "DISCONNECT", .bool, .wo, [], 0, [], 0⟩,
  ⟨0x5010, 4, 1, "GGRP", .u8, .rw, ['P'], 0, [], 0⟩,
  ⟨0x5010, 4, 2, "VSRC", .u32, .rw, ['P'], 0, [], 0⟩,
  ⟨0x5010, 4, 3, "ISRC", .u32, .rw, ['P'], 0, [], 0⟩,
  ⟨0x5010, 4, 4, "VGAIN", .u32, .rw, ['P'], 0, [], 0⟩,
  ⟨0x5010, 4, 5, "IGAIN", .u32, .rw, ['P'], 0, [], 0⟩,
  ⟨0x5010, 4, 6, "VLOCK", .u16, .rw, ['P'], 3277, [], 0⟩,
  ⟨0x5010, 4, 7, "ILIM", .u16, .rw, ['P'], 32767, [], 0⟩,
  ⟨0x5010, 4, 8, "GSU_STATUS", .u32, .ro, [], 0, [], 0⟩,
  ⟨0x5010, 4, 9, "RT_STATUS", .u32, .ro, [], 512, [], 0⟩,
  ⟨0x5020, 1, 1, "ARM", .u8, .rw, ['M', 'P'], 0, [], 0⟩,
  ⟨0x5020, 1, 2, "MAY_ACT", .u8, .rw, ['M', 'P'], 0, [], 0⟩,
  ⟨0x5020, 1, 3, "DRC_EN", .u8, .rw, ['M', 'P'], 1, [], 0⟩,
  ⟨0x5020, 1, 4, "NEG_EN", .u8, .rw, ['M', 'P'], 1, [], 0⟩,
  ⟨0x5020, 1, 5, "PJ_ACT", .u8, .rw, ['M', 'P'], 1, [], 0⟩,
  ⟨0x5020, 1, 6, "RST_MS", .u16, .rw, ['M', 'P'], 20, [], 0⟩,
  ⟨0x5020, 1, 7, "K_DRC", .u16, .rw, ['M', 'P'], 8192, [], 0⟩,
  ⟨0x5020, 1, 8, "DB", .u16, .rw, ['M', 'P'], 1638, [], 0⟩,
  ⟨0x5020, 1, 9, "IQ_MAX", .u16, .rw, ['M', 'P'], 32767, [], 0⟩]

/-- Part 4 of the rows. -/
def dictRows4 : List DictRow := [
  ⟨0x5020, 1, 10, "K_NEG", .u16, .rw, ['M', 'P'], 8192, [], 0⟩,
  ⟨0x5020, 1, 11, "PJ_MAX", .u16, .rw, ['M', 'P'], 10923, [], 0⟩,
  ⟨0x5030, 1, 1, "PROBE_EN", .u8, .rw, ['M', 'P'], 1, [], 0⟩,
  ⟨0x5030, 1, 2, "PAMP", .u8, .rw, ['M', 'P'], 200, [], 0⟩,
  ⟨0x5030, 1, 3, "PD", .u8, .rw, ['M', 'P'], 2, [], 0⟩,
  ⟨0x5030, 1, 4, "PN", .u8, .rw, ['M', 'P'], 3, [], 0⟩,
  ⟨0x5030, 1, 5, "ZTH", .u32, .rw, ['M', 'P'], 19661, [], 0⟩,
  ⟨0x5030, 1, 6, "ISL_N", .u8, .rw, ['M', 'P'], 2, [], 0⟩,
  ⟨0x5030, 1, 7, "ROCOF_EN", .u8, .rw, ['M', 'P'], 0, [], 0⟩,
  ⟨0x5030, 1, 8, "ROCOF_N", .u8, .rw, ['M', 'P'], 4, [], 0⟩,
  ⟨0x5030, 1, 9, "ROCOF_TH", .u32, .rw, ['M', 'P'], 131072, [], 0⟩,
  ⟨0x5030, 1, 10, "VS_EN", .u16, .rw, ['M', 'P'], 0, [], 0⟩,
  ⟨0x5030, 1, 11, "VS_TH", .u16, .rw, ['M', 'P'], 10923, [], 0⟩,
  ⟨0x5030, 1, 12, "FS_EN", .u16, .rw, ['M', 'P'], 0, [], 0⟩,
  ⟨0x5030, 1, 13, "K_FS", .u16, .rw, ['M', 'P'], 0, [], 0⟩,
  ⟨0x5030, 1, 14, "FS_MAX", .u16, .rw, ['M', 'P'], 1456, [], 0⟩,
  ⟨0x5030, 1, 15, "PFAIL_ACT", .u16, .rw, ['M', 'P'], 1, [], 0⟩,
  ⟨0x5040, 1, 1, "RC_DELAY", .u16, .rw, ['M', 'P'], 300, [], 0⟩,
  ⟨0x5040, 1, 2, "GCON_DLY", .u16, .rw, ['M', 'P'], 0, [], 0⟩,
  ⟨0x5040, 1, 3, "RC_VMIN", .u16, .rw, ['M', 'P'], 15024, [], 0⟩,
  ⟨0x5040, 1, 4, "RC_VMAX", .u16, .rw, ['M', 'P'], 17203, [], 0⟩,
  ⟨0x5040, 1, 5, "RC_FMIN", .u16, .rw, ['M', 'P'], 49500, [], 0⟩,
  ⟨0x5040, 1, 6, "RC_FMAX", .u16, .rw, ['M', 'P'], 50100, [], 0⟩,
  ⟨0x5100, 16, 1, "NPTS", .u8, .rw, ['M', 'P'], 0, [], 0⟩,
  ⟨0x5100, 16, 2, "POINT0", .u64, .rw, ['M', 'P'], 0, [], 0⟩,
  ⟨0x5100, 16, 3, "POINT1", .u64, .rw, ['M', 'P'], 0, [], 0⟩,
  ⟨0x5100, 16, 4, "POINT2", .u64, .rw, ['M', 'P'], 0, [], 0⟩,
  ⟨0x5100, 16, 5, "POINT3", .u64, .rw, ['M', 'P'], 0, [], 0⟩,
  ⟨0x5100, 16, 6, "POINT4", .u64, .rw, ['M', 'P'], 0, [], 0⟩,
  ⟨0x5100, 16, 7, "POINT5", .u64, .rw, ['M', 'P'], 0, [], 0⟩,
  ⟨0x5100, 16, 8, "POINT6", .u64, .rw, ['M', 'P'], 0, [], 0⟩,
  ⟨0x5100, 16, 9, "POINT7", .u64, .rw, ['M', 'P'], 0, [], 0⟩,
  ⟨0x5100, 16, 10, "POINT8", .u64, .rw, ['M', 'P'], 0, [], 0⟩,
  ⟨0x5100, 16, 11, "POINT9", .u64, .rw, ['M', 'P'], 0, [], 0⟩,
  ⟨0x5100, 16, 12, "POINT10", .u64, .rw, ['M', 'P'], 0, [], 0⟩,
  ⟨0x5100, 16, 13, "POINT11", .u64, .rw, ['M', 'P'], 0, [], 0⟩,
  ⟨0x5100, 16, 14, "POINT12", .u64, .rw, ['M', 'P'], 0, [], 0⟩,
  ⟨0x5100, 16, 15, "POINT13", .u64, .rw, ['M', 'P'], 0, [], 0⟩,
  ⟨0x5100, 16, 16, "POINT14", .u64, .rw, ['M', 'P'], 0, [], 0⟩,
  ⟨0x5100, 16, 17, "POINT15", .u64, .rw, ['M', 'P'], 0, [], 0⟩]

/-- Part 5 of the rows. -/
def dictRows5 : List DictRow := [
  ⟨0x5800, 3, 1, "EN", .bool, .rw, ['M', 'P'], 0, [], 0⟩,
  ⟨0x5800, 3, 2, "DIE", .u8, .rw, ['M', 'P'], 0, [], 0⟩,
  ⟨0x5800, 3, 3, "VTYPE", .u8, .rw, ['M', 'P'], 0, [], 0⟩,
  ⟨0x5800, 3, 4, "INT_LEN", .u32, .rw, ['M', 'P'], 900, [], 0⟩,
  ⟨0x5800, 3, 5, "NL_I", .u32, .rw, ['M', 'P'], 0, [], 0⟩,
  ⟨0x5800, 3, 6, "NL_P", .u32, .rw, ['M', 'P'], 0, [], 0⟩,
  ⟨0x5800, 3, 7, "STATUS", .u32, .ro, [], 0, [], 0⟩,
  ⟨0x5800, 3, 8, "COUNTS", .u32, .ro, [], 0, [], 0⟩,
  ⟨0x5810, 3, 1, "CSRC0", .u8, .rw, ['M', 'P'], 0, [], 0⟩,
  ⟨0x5810, 3, 2, "CSRC1", .u8, .rw, ['M', 'P'], 0, [], 0⟩,
  ⟨0x5810, 3, 3, "CSRC2", .u8, .rw, ['M', 'P'], 0, [], 0⟩,
  ⟨0x5810, 3, 4, "CSRC3", .u8, .rw, ['M', 'P'], 0, [], 0⟩,
  ⟨0x5810, 3, 5, "CSRC4", .u8, .rw, ['M', 'P'], 0, [], 0⟩,
  ⟨0x5810, 3, 6, "CSRC5", .u8, .rw, ['M', 'P'], 0, [], 0⟩,
  ⟨0x5810, 3, 7, "CGAIN0", .i32, .rw, ['M', 'P'], 0, [], 0⟩,
  ⟨0x5810, 3, 8, "CGAIN1", .i32, .rw, ['M', 'P'], 0, [], 0⟩,
  ⟨0x5810, 3, 9, "CGAIN2", .i32, .rw, ['M', 'P'], 0, [], 0⟩,
  ⟨0x5810, 3, 10, "CGAIN3", .i32, .rw, ['M', 'P'], 0, [], 0⟩,
  ⟨0x5810, 3, 11, "CGAIN4", .i32, .rw, ['M', 'P'], 0, [], 0⟩,
  ⟨0x5810, 3, 12, "CGAIN5", .i32, .rw, ['M', 'P'], 0, [], 0⟩,
  ⟨0x5810, 3, 13, "COFFS0", .i32, .rw, ['M', 'P'], 0, [], 0⟩,
  ⟨0x5810, 3, 14, "COFFS1", .i32, .rw, ['M', 'P'], 0, [], 0⟩,
  ⟨0x5810, 3, 15, "COFFS2", .i32, .rw, ['M', 'P'], 0, [], 0⟩,
  ⟨0x5810, 3, 16, "COFFS3", .i32, .rw, ['M', 'P'], 0, [], 0⟩,
  ⟨0x5810, 3, 17, "COFFS4", .i32, .rw, ['M', 'P'], 0, [], 0⟩,
  ⟨0x5810, 3, 18, "COFFS5", .i32, .rw, ['M', 'P'], 0, [], 0⟩,
  ⟨0x5810, 3, 19, "CDLY0", .i16, .rw, ['M', 'P'], 0, [], 0⟩,
  ⟨0x5810, 3, 20, "CDLY1", .i16, .rw, ['M', 'P'], 0, [], 0⟩,
  ⟨0x5810, 3, 21, "CDLY2", .i16, .rw, ['M', 'P'], 0, [], 0⟩,
  ⟨0x5810, 3, 22, "CDLY3", .i16, .rw, ['M', 'P'], 0, [], 0⟩,
  ⟨0x5810, 3, 23, "CDLY4", .i16, .rw, ['M', 'P'], 0, [], 0⟩,
  ⟨0x5810, 3, 24, "CDLY5", .i16, .rw, ['M', 'P'], 0, [], 0⟩,
  ⟨0x5820, 3, 1, "QGAIN0", .u32, .rw, ['M', 'P'], 1073741824, [], 0⟩,
  ⟨0x5820, 3, 2, "QGAIN1", .u32, .rw, ['M', 'P'], 1073741824, [], 0⟩,
  ⟨0x5820, 3, 3, "QGAIN2", .u32, .rw, ['M', 'P'], 1073741824, [], 0⟩,
  ⟨0x5820, 3, 4, "QGAIN3", .u32, .rw, ['M', 'P'], 1073741824, [], 0⟩,
  ⟨0x5820, 3, 5, "QGAIN4", .u32, .rw, ['M', 'P'], 1073741824, [], 0⟩,
  ⟨0x5820, 3, 6, "QGAIN5", .u32, .rw, ['M', 'P'], 1073741824, [], 0⟩,
  ⟨0x5820, 3, 7, "QGAIN6", .u32, .rw, ['M', 'P'], 1073741824, [], 0⟩,
  ⟨0x5820, 3, 8, "QGAIN7", .u32, .rw, ['M', 'P'], 1073741824, [], 0⟩]

/-- Part 6 of the rows. -/
def dictRows6 : List DictRow := [
  ⟨0x5820, 3, 9, "QGAIN8", .u32, .rw, ['M', 'P'], 1073741824, [], 0⟩,
  ⟨0x5820, 3, 10, "QGAIN9", .u32, .rw, ['M', 'P'], 1073741824, [], 0⟩,
  ⟨0x5820, 3, 11, "QGAIN10", .u32, .rw, ['M', 'P'], 1073741824, [], 0⟩,
  ⟨0x5820, 3, 12, "QGAIN11", .u32, .rw, ['M', 'P'], 1073741824, [], 0⟩,
  ⟨0x5820, 3, 13, "QOFFS0", .i32, .rw, ['M', 'P'], 0, [], 0⟩,
  ⟨0x5820, 3, 14, "QOFFS1", .i32, .rw, ['M', 'P'], 0, [], 0⟩,
  ⟨0x5820, 3, 15, "QOFFS2", .i32, .rw, ['M', 'P'], 0, [], 0⟩,
  ⟨0x5820, 3, 16, "QOFFS3", .i32, .rw, ['M', 'P'], 0, [], 0⟩,
  ⟨0x5820, 3, 17, "QOFFS4", .i32, .rw, ['M', 'P'], 0, [], 0⟩,
  ⟨0x5820, 3, 18, "QOFFS5", .i32, .rw, ['M', 'P'], 0, [], 0⟩,
  ⟨0x5820, 3, 19, "QOFFS6", .i32, .rw, ['M', 'P'], 0, [], 0⟩,
  ⟨0x5820, 3, 20, "QOFFS7", .i32, .rw, ['M', 'P'], 0, [], 0⟩,
  ⟨0x5820, 3, 21, "QOFFS8", .i32, .rw, ['M', 'P'], 0, [], 0⟩,
  ⟨0x5820, 3, 22, "QOFFS9", .i32, .rw, ['M', 'P'], 0, [], 0⟩,
  ⟨0x5820, 3, 23, "QOFFS10", .i32, .rw, ['M', 'P'], 0, [], 0⟩,
  ⟨0x5820, 3, 24, "QOFFS11", .i32, .rw, ['M', 'P'], 0, [], 0⟩,
  ⟨0x5830, 3, 1, "TOTALS", .domain, .ro, [], 0, [], 0⟩,
  ⟨0x5830, 3, 2, "INTERVAL", .domain, .ro, [], 0, [], 0⟩,
  ⟨0x5830, 3, 3, "READINGS", .domain, .ro, [], 0, [], 0⟩,
  ⟨0x5840, 3, 1, "REC_LAST", .u16, .ro, [], 0, [], 0⟩,
  ⟨0x5840, 3, 2, "REC_SEL", .u16, .rw, [], 0, [], 0⟩,
  ⟨0x5840, 3, 3, "RECORD", .domain, .ro, [], 0, [], 0⟩,
  ⟨0x6000, 1, 1, "CMD_N", .u8, .rw, ['P'], 4, [(1, 64)], 0⟩,
  ⟨0x6000, 1, 2, "SIG_WIN", .u8, .rw, ['P'], 1, [(1, 16)], 0⟩,
  ⟨0x6000, 1, 3, "SNAP_WIN", .u16, .rw, ['P'], 500, [(200, 20000)], 0⟩,
  ⟨0x6000, 1, 4, "CP_CORES", .u8, .rw, ['P'], 15, [(1, 255)], 0⟩,
  ⟨0x6000, 1, 5, "STATE_REGION", .u32, .rw, ['M', 'P'], 0, [], 0⟩,
  ⟨0x6000, 1, 6, "COPY_BUFFER", .u32, .rw, ['M', 'P'], 0, [], 0⟩,
  ⟨0x6000, 1, 7, "JOURNAL", .u32, .rw, ['M', 'P'], 0, [], 0⟩,
  ⟨0x6844, 1, 1, "HB_TMO", .u16, .rw, ['P', 'S'], 100, [(10, 10000)], 0⟩,
  ⟨0x6844, 1, 2, "HOLDOFF", .u16, .rw, ['P', 'S'], 30, [(1, 3600)], 0⟩,
  ⟨0x6844, 1, 3, "AUTO_RETURN", .bool, .rw, ['P', 'S'], 1, [], 0⟩,
  ⟨0x6844, 1, 4, "DBG_ALLOW", .bool, .rw, ['S'], 0, [], 0⟩,
  ⟨0x6844, 1, 5, "HW_MASK", .u32, .rw, ['P', 'S'], 40711, [], 0⟩,
  ⟨0x6844, 1, 6, "ENV_EN", .u8, .rw, ['P', 'S'], 0, [], 0⟩,
  ⟨0x6844, 1, 7, "ENV_MAP", .u8, .rw, ['P', 'S'], 0, [], 0⟩,
  ⟨0x6844, 1, 8, "ENV_SPD", .u16, .rw, ['P', 'S'], 0, [], 0⟩,
  ⟨0x6844, 1, 9, "ENV_I", .u16, .rw, ['P', 'S'], 0, [], 0⟩,
  ⟨0x6848, 1, 1, "ARB_STATUS", .u32, .ro, [], 11, [], 0⟩,
  ⟨0x6848, 1, 2, "ARB_COUNTS", .u32, .ro, [], 0, [], 0⟩]

/-- Part 7 of the rows. -/
def dictRows7 : List DictRow := [
  ⟨0x6848, 1, 3, "LAST_DECISION", .u32, .ro, [], 0, [], 0⟩,
  ⟨0x6848, 1, 4, "HEALTH_C0", .u32, .ro, [], 0, [], 0⟩,
  ⟨0x6848, 1, 5, "HEALTH_C1", .u32, .ro, [], 0, [], 0⟩,
  ⟨0x6800, 1, 1, "SS1_DEC", .u32, .rw, ['P', 'S'], 5000, [], 0⟩,
  ⟨0x6800, 1, 2, "SS1_TOL", .u16, .rw, ['P', 'S'], 50, [], 0⟩,
  ⟨0x6800, 1, 3, "SS1_TMAX", .u32, .rw, ['P', 'S'], 10000, [(100, 600000)], 0⟩,
  ⟨0x6800, 1, 4, "SST_V", .u16, .rw, ['P', 'S'], 5, [], 0⟩,
  ⟨0x6800, 1, 5, "SST_T", .u16, .rw, ['P', 'S'], 50, [(1, 1000)], 0⟩,
  ⟨0x6800, 1, 6, "DEG_T", .u16, .rw, ['P', 'S'], 60, [(0, 900)], 0⟩,
  ⟨0x6800, 1, 7, "RST_MBX", .bool, .rw, ['P', 'S'], 0, [], 0⟩,
  ⟨0x6800, 1, 8, "CTRL_CONN", .u8, .rw, ['P', 'S'], 255, [(0, 47), (255, 255)], 0⟩,
  ⟨0x6800, 1, 9, "TP_PER", .u16, .rw, ['P', 'S'], 100, [(10, 1000)], 0⟩,
  ⟨0x6800, 1, 10, "TP_W", .u16, .rw, ['P', 'S'], 400, [(200, 1000)], 0⟩,
  ⟨0x6810, 4, 1, "AX_EN", .bool, .rw, ['P', 'S'], 0, [], 0⟩,
  ⟨0x6810, 4, 2, "PI", .u8, .rw, ['P', 'S'], 15, [(0, 7), (15, 15)], 0⟩,
  ⟨0x6810, 4, 3, "WS", .u8, .rw, ['P', 'S'], 3, [(0, 1), (3, 3)], 0⟩,
  ⟨0x6810, 4, 4, "GEAR", .u32, .rw, ['P', 'S'], 65536, [], 0⟩,
  ⟨0x6810, 4, 5, "WS_PPR", .u16, .rw, ['P', 'S'], 4, [(1, 65535)], 0⟩,
  ⟨0x6810, 4, 6, "WS_WIN", .u16, .rw, ['P', 'S'], 8, [(1, 64)], 0⟩,
  ⟨0x6810, 4, 7, "DISC_V", .u16, .rw, ['P', 'S'], 100, [], 0⟩,
  ⟨0x6810, 4, 8, "DISC_T", .u16, .rw, ['P', 'S'], 200, [(1, 5000)], 0⟩,
  ⟨0x6810, 4, 9, "DISC_P", .u32, .rw, ['P', 'S'], 65536, [], 0⟩,
  ⟨0x6810, 4, 10, "SLS_LIM", .u32, .rw, ['P', 'S'], 0, [], 0⟩,
  ⟨0x6810, 4, 11, "SLS_DEC", .u32, .rw, ['P', 'S'], 5000, [], 0⟩,
  ⟨0x6810, 4, 12, "DEG_LIM", .u16, .rw, ['P', 'S'], 0, [], 0⟩,
  ⟨0x6810, 4, 13, "SLP_MIN", .i32, .rw, ['P', 'S'], 0, [], 0⟩,
  ⟨0x6810, 4, 14, "SLP_MAX", .i32, .rw, ['P', 'S'], 0, [], 0⟩,
  ⟨0x6810, 4, 15, "SLP_DEC", .i32, .rw, ['P', 'S'], 5000, [], 0⟩,
  ⟨0x6810, 4, 16, "SLP_HOME", .i32, .rw, ['P', 'S'], 0, [], 0⟩,
  ⟨0x6810, 4, 17, "SLP_REFV", .u16, .rw, ['P', 'S'], 0, [], 0⟩,
  ⟨0x6810, 4, 18, "SDI_TOL", .u32, .rw, ['P', 'S'], 655, [], 0⟩,
  ⟨0x6810, 4, 19, "REACT", .u8, .rw, ['P', 'S'], 0, [], 0⟩,
  ⟨0x6820, 8, 1, "FUNC", .u8, .rw, ['P', 'S'], 0, [], 0⟩,
  ⟨0x6820, 8, 2, "TYPE", .u8, .rw, ['P', 'S'], 0, [], 0⟩,
  ⟨0x6820, 8, 3, "TOS", .u8, .rw, ['P', 'S'], 0, [], 0⟩,
  ⟨0x6820, 8, 4, "TPA", .u8, .rw, ['P', 'S'], 0, [], 0⟩,
  ⟨0x6820, 8, 5, "TPB", .u8, .rw, ['P', 'S'], 1, [], 0⟩,
  ⟨0x6820, 8, 6, "TP_EN", .u8, .rw, ['P', 'S'], 0, [], 0⟩,
  ⟨0x6820, 8, 7, "AXES", .u8, .rw, ['P', 'S'], 0, [], 0⟩,
  ⟨0x6820, 8, 8, "FILT", .u8, .rw, ['P', 'S'], 3, [], 0⟩]

/-- Part 8 of the rows. -/
def dictRows8 : List DictRow := [
  ⟨0x6820, 8, 9, "DT", .u8, .rw, ['P', 'S'], 10, [], 0⟩,
  ⟨0x6830, 4, 1, "SRC", .u8, .rw, ['P', 'S'], 0, [], 0⟩,
  ⟨0x6830, 4, 2, "AX", .u8, .rw, ['P', 'S'], 0, [], 0⟩,
  ⟨0x6830, 4, 3, "TEST", .u8, .rw, ['P', 'S'], 1, [], 0⟩,
  ⟨0x6838, 8, 1, "EN", .bool, .rw, ['P', 'S'], 0, [], 0⟩,
  ⟨0x6838, 8, 2, "LO", .u16, .rw, ['P', 'S'], 0, [], 0⟩,
  ⟨0x6838, 8, 3, "HI", .u16, .rw, ['P', 'S'], 1023, [], 0⟩,
  ⟨0x6838, 8, 4, "FILT", .u16, .rw, ['P', 'S'], 10, [], 0⟩,
  ⟨0x6838, 8, 5, "REACT", .u8, .rw, ['P', 'S'], 0, [], 0⟩,
  ⟨0x6860, 48, 1, "EN", .u8, .rw, ['P', 'S'], 0, [], 0⟩,
  ⟨0x6860, 48, 2, "DIR", .u8, .rw, ['P', 'S'], 0, [], 0⟩,
  ⟨0x6860, 48, 3, "FLOW", .u8, .rw, ['P', 'S'], 0, [(0, 127)], 0⟩,
  ⟨0x6860, 48, 4, "CONN_ID", .u32, .rw, ['P', 'S'], 0, [], 0⟩,
  ⟨0x6860, 48, 5, "WDG", .u16, .rw, ['P', 'S'], 100, [(1, 65535)], 0⟩,
  ⟨0x6860, 48, 6, "MAX_AGE", .u16, .rw, ['P', 'S'], 0, [], 0⟩,
  ⟨0x6860, 48, 7, "SEQ_WIN", .u8, .rw, ['P', 'S'], 8, [(1, 255)], 0⟩,
  ⟨0x6860, 48, 8, "REACT", .u8, .rw, ['P', 'S'], 0, [], 0⟩,
  ⟨0x6860, 48, 9, "TX_PER", .u16, .rw, ['P', 'S'], 10, [], 0⟩,
  ⟨0x6860, 48, 10, "LEN", .u16, .rw, ['P', 'S'], 12, [(0, 32)], 0⟩,
  ⟨0x68E0, 1, 1, "LOGIN", .domain, .wo, [], 0, [], 64⟩,
  ⟨0x68E0, 1, 2, "LOGOUT", .bool, .wo, [], 0, [], 0⟩,
  ⟨0x68E0, 1, 3, "NEW_PASSWORD", .domain, .wo, ['P', 'S'], 0, [], 64⟩,
  ⟨0x68E0, 1, 4, "APPLY", .u32, .wo, ['S'], 0, [], 0⟩,
  ⟨0x68E0, 1, 5, "PARAM_CRC", .u32, .ro, [], 0, [], 0⟩,
  ⟨0x68E0, 1, 6, "SESS_TMO", .u16, .rw, ['P', 'S'], 300, [(30, 3600)], 0⟩,
  ⟨0x68E0, 1, 7, "LOCK_REM", .u32, .ro, [], 0, [], 0⟩,
  ⟨0x68E0, 1, 8, "FAIL_CNT", .u32, .ro, [], 0, [], 0⟩,
  ⟨0x68F0, 1, 1, "S_STATE", .u32, .ro, [], 1, [], 0⟩,
  ⟨0x68F0, 1, 2, "CHSTAT", .u32, .ro, [], 252, [], 0⟩,
  ⟨0x68F0, 1, 3, "LOG_COUNT", .u32, .ro, [], 0, [], 0⟩,
  ⟨0x68F0, 1, 4, "LOG_SEL", .u32, .rw, [], 0, [], 0⟩,
  ⟨0x68F0, 1, 5, "LOG_ENTRY", .domain, .ro, [], 0, [], 0⟩,
  ⟨0x68F0, 1, 6, "CTRL_DATA", .domain, .ro, [], 0, [], 0⟩,
  ⟨0x2000, 1, 1, "START_STATUS", .u32, .ro, [], 1048576, [], 0⟩,
  ⟨0x2000, 1, 2, "STOP", .bool, .wo, [], 0, [], 0⟩,
  ⟨0x2000, 1, 3, "RESTART", .u8, .wo, ['M'], 0, [], 0⟩,
  ⟨0x2000, 1, 4, "COLD_NEXT", .bool, .rw, ['M', 'P'], 0, [], 0⟩,
  ⟨0x2000, 1, 5, "COLD_INT", .u16, .rw, ['M', 'P'], 720, [], 0⟩,
  ⟨0x2000, 1, 6, "BOOT_TMO", .u16, .rw, ['P'], 10000, [(100, 60000)], 0⟩,
  ⟨0x2000, 1, 7, "CKPT_INT", .u16, .rw, ['P'], 60, [(10, 600)], 0⟩]

/-- Part 9 of the rows. -/
def dictRows9 : List DictRow := [
  ⟨0x2000, 1, 8, "BOOT_HIST", .domain, .ro, [], 0, [], 0⟩,
  ⟨0x2000, 1, 9, "STOP_KIND", .u8, .rw, ['P'], 0, [], 0⟩,
  ⟨0x2020, 1, 1, "APPROVED0", .domain, .rw, ['M', 'P'], 0, [], 32⟩,
  ⟨0x2020, 1, 2, "APPROVED1", .domain, .rw, ['M', 'P'], 0, [], 32⟩,
  ⟨0x2020, 1, 3, "SLOT_SEL", .u8, .rw, ['M', 'P'], 0, [(0, 1)], 0⟩,
  ⟨0x2020, 1, 4, "DIGEST_C0", .domain, .ro, [], 0, [], 0⟩,
  ⟨0x2020, 1, 5, "DIGEST_C1", .domain, .ro, [], 0, [], 0⟩,
  ⟨0x7000, 3, 1, "EN", .bool, .rw, ['P'], 1, [], 0⟩,
  ⟨0x7000, 3, 2, "MAC", .u64, .rw, ['M', 'P'], 0, [], 0⟩,
  ⟨0x7000, 3, 3, "PTP_EN", .u8, .rw, ['P'], 1, [], 0⟩,
  ⟨0x7000, 3, 4, "DELAY_MECH", .u8, .rw, ['P'], 0, [], 0⟩,
  ⟨0x7000, 3, 5, "ING_ASYM", .i32, .rw, ['M', 'P'], 0, [], 0⟩,
  ⟨0x7000, 3, 6, "EGR_ASYM", .i32, .rw, ['M', 'P'], 0, [], 0⟩,
  ⟨0x7000, 3, 7, "PCPMAP", .u32, .rw, ['P'], 16434824, [], 0⟩,
  ⟨0x7000, 3, 8, "DEF_PCP", .u32, .rw, ['P'], 0, [], 0⟩,
  ⟨0x7000, 3, 9, "STATUS", .u32, .ro, [], 0, [], 0⟩,
  ⟨0x7010, 1, 1, "RING_MGR", .bool, .rw, ['P'], 0, [], 0⟩,
  ⟨0x7010, 1, 2, "RCHK_PER", .u16, .rw, ['P'], 10, [(1, 1000)], 0⟩,
  ⟨0x7010, 1, 3, "RCHK_LOSS", .u8, .rw, ['P'], 3, [(1, 255)], 0⟩,
  ⟨0x7020, 3, 1, "GATE_EN", .bool, .rw, ['P'], 0, [], 0⟩,
  ⟨0x7020, 3, 2, "CYCLE", .u32, .rw, ['P'], 0, [], 0⟩,
  ⟨0x7020, 3, 3, "BASE", .u64, .rw, ['P'], 0, [], 0⟩,
  ⟨0x7020, 3, 4, "LIST", .domain, .rw, ['P'], 0, [], 512⟩,
  ⟨0x7020, 3, 5, "APPLY", .bool, .wo, [], 0, [], 0⟩,
  ⟨0x7020, 3, 6, "GATE_STATUS", .u32, .ro, [], 0, [], 0⟩,
  ⟨0x7040, 1, 1, "DOM_A", .u8, .rw, ['P'], 0, [], 0⟩,
  ⟨0x7040, 1, 2, "DOM_B", .u8, .rw, ['P'], 1, [], 0⟩,
  ⟨0x7040, 1, 3, "B_EN", .bool, .rw, ['P'], 0, [], 0⟩,
  ⟨0x7040, 1, 4, "A_PREF", .bool, .rw, ['P'], 1, [], 0⟩,
  ⟨0x7040, 1, 5, "RET_S", .u16, .rw, ['P'], 60, [], 0⟩,
  ⟨0x7040, 1, 6, "SLEW_MAX", .u16, .rw, ['P'], 200, [], 0⟩,
  ⟨0x7040, 1, 7, "LOCK_NS", .u16, .rw, ['P'], 1000, [], 0⟩,
  ⟨0x7040, 1, 8, "UTC_OFS", .i16, .rw, ['M', 'P'], 37, [], 0⟩,
  ⟨0x7050, 1, 1, "TIME_STATUS", .u32, .ro, [], 0, [], 0⟩,
  ⟨0x7050, 1, 2, "LOCAL_TIME", .u64, .ro, [], 0, [], 0⟩,
  ⟨0x7050, 1, 3, "OFS_A", .i32, .ro, [], 0, [], 0⟩,
  ⟨0x7050, 1, 4, "OFS_B", .i32, .ro, [], 0, [], 0⟩,
  ⟨0x7050, 1, 5, "GM_A", .domain, .ro, [], 0, [], 0⟩,
  ⟨0x7050, 1, 6, "GM_B", .domain, .ro, [], 0, [], 0⟩,
  ⟨0x7050, 1, 7, "UTC_TIME", .u32, .ro, [], 0, [], 0⟩]

/-- Part 10 of the rows. -/
def dictRows10 : List DictRow := [
  ⟨0x7060, 16, 1, "EN", .bool, .rw, [], 0, [], 0⟩,
  ⟨0x7060, 16, 2, "MODE", .u8, .rw, ['P'], 0, [], 0⟩,
  ⟨0x7060, 16, 3, "DST", .u8, .rw, ['P'], 0, [], 0⟩,
  ⟨0x7060, 16, 4, "TARGET", .u32, .rw, [], 0, [], 0⟩,
  ⟨0x7060, 16, 5, "PERIOD", .u32, .rw, ['P'], 0, [], 0⟩,
  ⟨0x7060, 16, 6, "PIN_CFG", .u8, .rw, ['P'], 16, [], 0⟩,
  ⟨0x7060, 16, 7, "PW", .u16, .rw, ['P'], 100, [], 0⟩,
  ⟨0x7060, 16, 8, "STATUS", .u32, .ro, [], 0, [], 0⟩,
  ⟨0x7080, 4, 1, "EN", .bool, .rw, ['P'], 0, [], 0⟩,
  ⟨0x7080, 4, 2, "FD_EN", .bool, .rw, ['P'], 1, [], 0⟩,
  ⟨0x7080, 4, 3, "BRS_EN", .bool, .rw, ['P'], 1, [], 0⟩,
  ⟨0x7080, 4, 4, "AUTO_RECOV", .bool, .rw, ['P'], 1, [], 0⟩,
  ⟨0x7080, 4, 5, "TDC_EN", .bool, .rw, ['P'], 1, [], 0⟩,
  ⟨0x7080, 4, 6, "NBT", .u32, .rw, ['P'], 262110720, [], 0⟩,
  ⟨0x7080, 4, 7, "DBT", .u32, .rw, ['P'], 117906944, [], 0⟩,
  ⟨0x7080, 4, 8, "TDC_OFS", .u8, .rw, ['P'], 32, [], 0⟩,
  ⟨0x7080, 4, 9, "STATUS", .u32, .ro, [], 3, [], 0⟩,
  ⟨0x7090, 4, 1, "FILTER0", .u64, .rw, ['P'], 2305843004918726656, [], 0⟩,
  ⟨0x7090, 4, 2, "FILTER1", .u64, .rw, ['P'], 2305843004918726656, [], 0⟩,
  ⟨0x7090, 4, 3, "FILTER2", .u64, .rw, ['P'], 2305843004918726656, [], 0⟩,
  ⟨0x7090, 4, 4, "FILTER3", .u64, .rw, ['P'], 2305843004918726656, [], 0⟩,
  ⟨0x7090, 4, 5, "FILTER4", .u64, .rw, ['P'], 2305843004918726656, [], 0⟩,
  ⟨0x7090, 4, 6, "FILTER5", .u64, .rw, ['P'], 2305843004918726656, [], 0⟩,
  ⟨0x7090, 4, 7, "FILTER6", .u64, .rw, ['P'], 2305843004918726656, [], 0⟩,
  ⟨0x7090, 4, 8, "FILTER7", .u64, .rw, ['P'], 2305843004918726656, [], 0⟩,
  ⟨0x7090, 4, 9, "FILTER8", .u64, .rw, ['P'], 2305843004918726656, [], 0⟩,
  ⟨0x7090, 4, 10, "FILTER9", .u64, .rw, ['P'], 2305843004918726656, [], 0⟩,
  ⟨0x7090, 4, 11, "FILTER10", .u64, .rw, ['P'], 2305843004918726656, [], 0⟩,
  ⟨0x7090, 4, 12, "FILTER11", .u64, .rw, ['P'], 2305843004918726656, [], 0⟩,
  ⟨0x7090, 4, 13, "FILTER12", .u64, .rw, ['P'], 2305843004918726656, [], 0⟩,
  ⟨0x7090, 4, 14, "FILTER13", .u64, .rw, ['P'], 2305843004918726656, [], 0⟩,
  ⟨0x7090, 4, 15, "FILTER14", .u64, .rw, ['P'], 2305843004918726656, [], 0⟩,
  ⟨0x7090, 4, 16, "FILTER15", .u64, .rw, ['P'], 2305843004918726656, [], 0⟩,
  ⟨0x7090, 4, 17, "FILTER16", .u64, .rw, ['P'], 2305843004918726656, [], 0⟩,
  ⟨0x7090, 4, 18, "FILTER17", .u64, .rw, ['P'], 2305843004918726656, [], 0⟩,
  ⟨0x7090, 4, 19, "FILTER18", .u64, .rw, ['P'], 2305843004918726656, [], 0⟩,
  ⟨0x7090, 4, 20, "FILTER19", .u64, .rw, ['P'], 2305843004918726656, [], 0⟩,
  ⟨0x7090, 4, 21, "FILTER20", .u64, .rw, ['P'], 2305843004918726656, [], 0⟩,
  ⟨0x7090, 4, 22, "FILTER21", .u64, .rw, ['P'], 2305843004918726656, [], 0⟩,
  ⟨0x7090, 4, 23, "FILTER22", .u64, .rw, ['P'], 2305843004918726656, [], 0⟩]

/-- Part 11 of the rows. -/
def dictRows11 : List DictRow := [
  ⟨0x7090, 4, 24, "FILTER23", .u64, .rw, ['P'], 2305843004918726656, [], 0⟩,
  ⟨0x7090, 4, 25, "FILTER24", .u64, .rw, ['P'], 2305843004918726656, [], 0⟩,
  ⟨0x7090, 4, 26, "FILTER25", .u64, .rw, ['P'], 2305843004918726656, [], 0⟩,
  ⟨0x7090, 4, 27, "FILTER26", .u64, .rw, ['P'], 2305843004918726656, [], 0⟩,
  ⟨0x7090, 4, 28, "FILTER27", .u64, .rw, ['P'], 2305843004918726656, [], 0⟩,
  ⟨0x7090, 4, 29, "FILTER28", .u64, .rw, ['P'], 2305843004918726656, [], 0⟩,
  ⟨0x7090, 4, 30, "FILTER29", .u64, .rw, ['P'], 2305843004918726656, [], 0⟩,
  ⟨0x7090, 4, 31, "FILTER30", .u64, .rw, ['P'], 2305843004918726656, [], 0⟩,
  ⟨0x7090, 4, 32, "FILTER31", .u64, .rw, ['P'], 2305843004918726656, [], 0⟩,
  ⟨0x7090, 4, 33, "FLOW0", .u8, .rw, ['P'], 255, [], 0⟩,
  ⟨0x7090, 4, 34, "FLOW1", .u8, .rw, ['P'], 255, [], 0⟩,
  ⟨0x7090, 4, 35, "FLOW2", .u8, .rw, ['P'], 255, [], 0⟩,
  ⟨0x7090, 4, 36, "FLOW3", .u8, .rw, ['P'], 255, [], 0⟩,
  ⟨0x7090, 4, 37, "FLOW4", .u8, .rw, ['P'], 255, [], 0⟩,
  ⟨0x7090, 4, 38, "FLOW5", .u8, .rw, ['P'], 255, [], 0⟩,
  ⟨0x7090, 4, 39, "FLOW6", .u8, .rw, ['P'], 255, [], 0⟩,
  ⟨0x7090, 4, 40, "FLOW7", .u8, .rw, ['P'], 255, [], 0⟩,
  ⟨0x7090, 4, 41, "FLOW8", .u8, .rw, ['P'], 255, [], 0⟩,
  ⟨0x7090, 4, 42, "FLOW9", .u8, .rw, ['P'], 255, [], 0⟩,
  ⟨0x7090, 4, 43, "FLOW10", .u8, .rw, ['P'], 255, [], 0⟩,
  ⟨0x7090, 4, 44, "FLOW11", .u8, .rw, ['P'], 255, [], 0⟩,
  ⟨0x7090, 4, 45, "FLOW12", .u8, .rw, ['P'], 255, [], 0⟩,
  ⟨0x7090, 4, 46, "FLOW13", .u8, .rw, ['P'], 255, [], 0⟩,
  ⟨0x7090, 4, 47, "FLOW14", .u8, .rw, ['P'], 255, [], 0⟩,
  ⟨0x7090, 4, 48, "FLOW15", .u8, .rw, ['P'], 255, [], 0⟩,
  ⟨0x7090, 4, 49, "FLOW16", .u8, .rw, ['P'], 255, [], 0⟩,
  ⟨0x7090, 4, 50, "FLOW17", .u8, .rw, ['P'], 255, [], 0⟩,
  ⟨0x7090, 4, 51, "FLOW18", .u8, .rw, ['P'], 255, [], 0⟩,
  ⟨0x7090, 4, 52, "FLOW19", .u8, .rw, ['P'], 255, [], 0⟩,
  ⟨0x7090, 4, 53, "FLOW20", .u8, .rw, ['P'], 255, [], 0⟩,
  ⟨0x7090, 4, 54, "FLOW21", .u8, .rw, ['P'], 255, [], 0⟩,
  ⟨0x7090, 4, 55, "FLOW22", .u8, .rw, ['P'], 255, [], 0⟩,
  ⟨0x7090, 4, 56, "FLOW23", .u8, .rw, ['P'], 255, [], 0⟩,
  ⟨0x7090, 4, 57, "FLOW24", .u8, .rw, ['P'], 255, [], 0⟩,
  ⟨0x7090, 4, 58, "FLOW25", .u8, .rw, ['P'], 255, [], 0⟩,
  ⟨0x7090, 4, 59, "FLOW26", .u8, .rw, ['P'], 255, [], 0⟩,
  ⟨0x7090, 4, 60, "FLOW27", .u8, .rw, ['P'], 255, [], 0⟩,
  ⟨0x7090, 4, 61, "FLOW28", .u8, .rw, ['P'], 255, [], 0⟩,
  ⟨0x7090, 4, 62, "FLOW29", .u8, .rw, ['P'], 255, [], 0⟩,
  ⟨0x7090, 4, 63, "FLOW30", .u8, .rw, ['P'], 255, [], 0⟩]

/-- Part 12 of the rows. -/
def dictRows12 : List DictRow := [
  ⟨0x7090, 4, 64, "FLOW31", .u8, .rw, ['P'], 255, [], 0⟩,
  ⟨0x1000, 1, 1, "VENDOR", .str, .const, [], 0, [], 8⟩,
  ⟨0x1000, 1, 2, "PRODUCT", .str, .const, [], 0, [], 13⟩,
  ⟨0x1000, 1, 3, "SILICON", .u16, .const, [], 0, [], 0⟩,
  ⟨0x1000, 1, 4, "SERIAL", .u64, .const, [], 0, [], 0⟩,
  ⟨0x1000, 1, 5, "SAFETY_FW", .u32, .const, [], 0, [], 0⟩,
  ⟨0x1000, 1, 6, "NET_UCODE", .u32, .const, [], 0, [], 0⟩,
  ⟨0x1000, 1, 7, "DICT_VER", .u32, .const, [], 65536, [], 0⟩,
  ⟨0x1000, 1, 8, "ENTRIES", .u16, .ro, [], 0, [], 0⟩,
  ⟨0x1000, 1, 9, "NAME", .str, .rw, ['M', 'P'], 0, [], 32⟩,
  ⟨0x1000, 1, 10, "RESTORE", .u8, .wo, ['M'], 0, [(1, 1)], 0⟩,
  ⟨0x1100, 1, 1, "IP_ADDR", .u32, .rw, ['M', 'P'], 3232235530, [], 0⟩,
  ⟨0x1100, 1, 2, "UDP_PORT", .u16, .rw, ['M', 'P'], 48310, [], 0⟩,
  ⟨0x1100, 1, 3, "UDP_ON", .u8, .rw, ['M', 'P'], 4, [], 0⟩,
  ⟨0x1100, 1, 4, "DICT_Q", .u8, .rw, ['P'], 2, [(0, 7)], 0⟩,
  ⟨0x1120, 4, 1, "DREQ_BASE", .u16, .rw, ['M', 'P'], 1760, [(0, 2016)], 0⟩,
  ⟨0x1120, 4, 2, "CLIENTS", .u8, .rw, ['M', 'P'], 0, [(0, 16)], 0⟩,
  ⟨0x1400, 1, 1, "ROLE", .u8, .ro, [], 0, [], 0⟩,
  ⟨0x1400, 1, 2, "LOGIN", .domain, .wo, [], 0, [], 65⟩,
  ⟨0x1400, 1, 3, "LOGOUT", .bool, .wo, [], 0, [], 0⟩,
  ⟨0x1400, 1, 4, "OP_PASSWORD", .domain, .wo, ['M', 'P'], 0, [], 64⟩,
  ⟨0x1400, 1, 5, "MNT_PASSWORD", .domain, .wo, ['M', 'P'], 0, [], 64⟩,
  ⟨0x1400, 1, 6, "SESS_TMO", .u16, .rw, ['M', 'P'], 60, [(5, 3600)], 0⟩,
  ⟨0x1400, 1, 7, "XFER_TMO", .u16, .rw, ['M', 'P'], 1000, [(100, 10000)], 0⟩,
  ⟨0x1400, 1, 8, "APP_TMO", .u16, .rw, ['M', 'P'], 100, [(10, 5000)], 0⟩,
  ⟨0x1400, 1, 9, "SESSIONS", .domain, .ro, [], 0, [], 0⟩,
  ⟨0x1400, 1, 10, "LOGIN_STATE", .domain, .ro, [], 0, [], 0⟩,
  ⟨0x1800, 128, 1, "TYPE", .u8, .rw, ['P'], 0, [], 0⟩,
  ⟨0x1800, 128, 2, "TRANSPORT", .u8, .rw, ['P'], 2, [(0, 2), (16, 19)], 0⟩,
  ⟨0x1800, 128, 3, "QUEUE", .u8, .rw, ['P'], 7, [(0, 7)], 0⟩,
  ⟨0x1800, 128, 4, "TAG", .u16, .rw, ['P'], 0, [], 0⟩,
  ⟨0x1800, 128, 5, "PEER", .u64, .rw, ['P'], 0, [], 0⟩,
  ⟨0x1800, 128, 6, "ETYPE", .u16, .rw, ['P'], 34998, [], 0⟩,
  ⟨0x1800, 128, 7, "LEN", .u16, .rw, ['P'], 0, [], 0⟩,
  ⟨0x1800, 128, 8, "PERIOD", .u32, .rw, ['P'], 0, [], 0⟩,
  ⟨0x1800, 128, 9, "PHASE", .u32, .rw, ['P'], 0, [], 0⟩,
  ⟨0x1800, 128, 10, "STATUS", .u32, .ro, [], 0, [], 0⟩,
  ⟨0x1A00, 1, 1, "DICT_STATUS", .u32, .ro, [], 0, [], 0⟩,
  ⟨0x1A00, 1, 2, "DECLARED", .u16, .ro, [], 0, [], 0⟩,
  ⟨0x1A00, 1, 3, "APP_STORE", .u32, .ro, [], 0, [], 0⟩]

/-- Part 13 of the rows. -/
def dictRows13 : List DictRow := [
  ⟨0x7800, 1, 1, "SRC_TYPE", .u8, .rw, ['M', 'P'], 0, [], 0⟩,
  ⟨0x7800, 1, 2, "K_FOC", .u8, .rw, ['M', 'P'], 0, [], 0⟩,
  ⟨0x7800, 1, 3, "HV_EN", .bool, .rw, ['M', 'P'], 1, [], 0⟩,
  ⟨0x7800, 1, 4, "VK_HV", .bool, .rw, ['M', 'P'], 0, [], 0⟩,
  ⟨0x7800, 1, 5, "V_RICH", .u16, .rw, ['M', 'P'], 2000, [(1600, 3000)], 0⟩,
  ⟨0x7800, 1, 6, "VSTL_MAX", .u16, .rw, ['M', 'P'], 3600, [(2500, 5000)], 0⟩,
  ⟨0x7800, 1, 7, "V_PGH", .u16, .rw, ['M', 'P'], 3000, [], 0⟩,
  ⟨0x7800, 1, 8, "V_PGL", .u16, .rw, ['M', 'P'], 2100, [], 0⟩,
  ⟨0x7800, 1, 9, "STL_CAP", .u16, .rw, ['M', 'P'], 1000, [(100, 12000)], 0⟩,
  ⟨0x7800, 1, 10, "E_RES", .u16, .rw, ['M', 'P'], 1000, [], 0⟩,
  ⟨0x7800, 1, 11, "WAKE_AT", .u32, .rw, ['P'], 0, [], 0⟩,
  ⟨0x7810, 1, 1, "KEEPER_STATUS", .u32, .ro, [], 0, [], 0⟩,
  ⟨0x7810, 1, 2, "VOLTAGES", .u32, .ro, [], 0, [], 0⟩,
  ⟨0x7810, 1, 3, "HARVEST", .u32, .ro, [], 0, [], 0⟩,
  ⟨0x7810, 1, 4, "E_STORED", .u32, .ro, [], 0, [], 0⟩,
  ⟨0x7810, 1, 5, "LCAP", .u16, .ro, [], 0, [], 0⟩,
  ⟨0x7810, 1, 6, "DEFER", .u32, .ro, [], 0, [], 0⟩,
  ⟨0x7820, 1, 1, "DCL_SRC", .u8, .rw, ['M', 'P'], 0, [], 0⟩,
  ⟨0x7820, 1, 2, "DCL_GAIN", .i32, .rw, ['M', 'P'], 0, [], 0⟩,
  ⟨0x7820, 1, 3, "DCL_BIN", .u16, .rw, ['M', 'P'], 50, [], 0⟩,
  ⟨0x7820, 1, 4, "RF_HYST", .u16, .rw, ['M', 'P'], 64, [], 0⟩,
  ⟨0x7820, 1, 5, "RF_RBIN", .u16, .rw, ['M', 'P'], 256, [], 0⟩,
  ⟨0x7820, 1, 6, "RF_MBASE", .i16, .rw, ['M', 'P'], (-1280), [], 0⟩,
  ⟨0x7820, 1, 7, "RF_MBIN", .u16, .rw, ['M', 'P'], 640, [], 0⟩,
  ⟨0x7830, 1, 1, "HOURS", .domain, .ro, [], 0, [], 0⟩,
  ⟨0x7830, 1, 2, "EVENTS", .domain, .ro, [], 0, [], 0⟩,
  ⟨0x7830, 1, 3, "DCL_HIST", .domain, .ro, [], 0, [], 0⟩,
  ⟨0x7830, 1, 4, "LAST_MERGE", .u32, .ro, [], 0, [], 0⟩,
  ⟨0x7840, 9, 1, "TEMP_HIST", .domain, .ro, [], 0, [], 0⟩,
  ⟨0x7860, 28, 1, "SW_COUNT", .u64, .ro, [], 0, [], 0⟩,
  ⟨0x7860, 28, 2, "RAINFLOW", .domain, .ro, [], 0, [], 0⟩,
  ⟨0x7880, 1, 1, "FH_LAST", .u32, .ro, [], 0, [], 0⟩,
  ⟨0x7880, 1, 2, "FH_SEL", .u32, .rw, [], 0, [], 0⟩,
  ⟨0x7880, 1, 3, "FH_ENTRY", .domain, .ro, [], 0, [], 0⟩,
  ⟨0x7C00, 8, 1, "CONFIG", .u32, .rw, [], 8192, [], 0⟩,
  ⟨0x7C00, 8, 2, "POLY", .u32, .rw, [], 79764919, [], 0⟩,
  ⟨0x7C00, 8, 3, "INIT", .u32, .rw, [], 4294967295, [], 0⟩,
  ⟨0x7C00, 8, 4, "XOROUT", .u32, .rw, [], 4294967295, [], 0⟩,
  ⟨0x7C00, 8, 5, "BASE", .u32, .rw, [], 0, [], 0⟩,
  ⟨0x7C00, 8, 6, "LEN", .u32, .rw, [], 0, [], 0⟩]

/-- Part 14 of the rows. -/
def dictRows14 : List DictRow := [
  ⟨0x7C00, 8, 7, "CONTROL", .u8, .wo, [], 0, [(1, 1), (2, 2), (4, 4)], 0⟩,
  ⟨0x7C00, 8, 8, "VALUE", .u32, .rw, [], 0, [], 0⟩,
  ⟨0x7C00, 8, 9, "RESULT", .u32, .ro, [], 0, [], 0⟩,
  ⟨0x7C00, 8, 10, "FEED", .domain, .wo, [], 0, [], 1024⟩,
  ⟨0x7C00, 8, 11, "STATUS", .u32, .ro, [], 0, [], 0⟩,
  ⟨0x7C20, 1, 1, "REQUEST", .u32, .wo, ['M'], 0, [], 0⟩,
  ⟨0x7C20, 1, 2, "REQ_STATUS", .u32, .ro, [], 7936, [], 0⟩,
  ⟨0x7C20, 1, 3, "RUNNING", .u16, .ro, [], 8, [], 0⟩,
  ⟨0x7C20, 1, 4, "CANCEL", .u8, .wo, ['M'], 0, [(0, 15)], 0⟩,
  ⟨0x7C20, 1, 5, "SLOTS", .domain, .ro, [], 0, [], 0⟩,
  ⟨0x7C20, 1, 6, "RESULTS", .domain, .ro, [], 0, [], 0⟩]

/-- The dictionary of the device. -/
def dictRows : List DictRow :=
  dictRows0 ++ dictRows1 ++ dictRows2 ++ dictRows3 ++ dictRows4 ++ dictRows5 ++ dictRows6 ++ dictRows7 ++ dictRows8 ++ dictRows9 ++ dictRows10 ++ dictRows11 ++ dictRows12 ++ dictRows13 ++ dictRows14

def DP.CLKP_LOCK_WIN : Nat := 0x210001
def DP.CLKP_LOCK_N : Nat := 0x210002
def DP.CLKP_LOSS_M : Nat := 0x210003
def DP.HOPP_HOP_EN (k : Nat) : Nat := (0x2110 + k) * 256 + 0x01
def DP.HOPP_HOP_MODE (k : Nat) : Nat := (0x2110 + k) * 256 + 0x02
def DP.HOPP_HOP_LEN (k : Nat) : Nat := (0x2110 + k) * 256 + 0x03
def DP.HOPP_HOP_DIV (k : Nat) : Nat := (0x2110 + k) * 256 + 0x04
def DP.HOPP_SLOT0 (k : Nat) : Nat := (0x2110 + k) * 256 + 0x05
def DP.HOPP_SLOT1 (k : Nat) : Nat := (0x2110 + k) * 256 + 0x06
def DP.HOPP_SLOT2 (k : Nat) : Nat := (0x2110 + k) * 256 + 0x07
def DP.HOPP_SLOT3 (k : Nat) : Nat := (0x2110 + k) * 256 + 0x08
def DP.HOPP_SLOT4 (k : Nat) : Nat := (0x2110 + k) * 256 + 0x09
def DP.HOPP_SLOT5 (k : Nat) : Nat := (0x2110 + k) * 256 + 0x0A
def DP.HOPP_SLOT6 (k : Nat) : Nat := (0x2110 + k) * 256 + 0x0B
def DP.HOPP_SLOT7 (k : Nat) : Nat := (0x2110 + k) * 256 + 0x0C
def DP.HOPP_HOP_SEED (k : Nat) : Nat := (0x2110 + k) * 256 + 0x0D
def DP.RTCP_RTC_TIME : Nat := 0x212001
def DP.RTCP_RTC_TRIM : Nat := 0x212002
def DP.RTCP_RTC_SYNC : Nat := 0x212003
def DP.CKM_CKMON_WIN : Nat := 0x684001
def DP.PG_MODE (k : Nat) : Nat := (0x3000 + k) * 256 + 0x01
def DP.PG_DBL_UPD (k : Nat) : Nat := (0x3000 + k) * 256 + 0x02
def DP.PG_COMMIT_MODE (k : Nat) : Nat := (0x3000 + k) * 256 + 0x03
def DP.PG_PORTS (k : Nat) : Nat := (0x3000 + k) * 256 + 0x04
def DP.PG_START_SRC (k : Nat) : Nat := (0x3000 + k) * 256 + 0x05
def DP.PG_TRIGGER (k : Nat) : Nat := (0x3000 + k) * 256 + 0x06
def DP.PG_PER (k : Nat) : Nat := (0x3000 + k) * 256 + 0x07
def DP.PG_PHASE (k : Nat) : Nat := (0x3000 + k) * 256 + 0x08
def DP.PG_MIN_OFF (k : Nat) : Nat := (0x3000 + k) * 256 + 0x09
def DP.PG_PER_MIN (k : Nat) : Nat := (0x3000 + k) * 256 + 0x0A
def DP.PG_WRPT (k : Nat) : Nat := (0x3000 + k) * 256 + 0x0B
def DP.PG_EN (k : Nat) : Nat := (0x3000 + k) * 256 + 0x0C
def DP.PG_STATUS (k : Nat) : Nat := (0x3000 + k) * 256 + 0x0D
def DP.GPT_DT_RISE (k : Nat) : Nat := (0x3040 + k) * 256 + 0x01
def DP.GPT_DT_FALL (k : Nat) : Nat := (0x3040 + k) * 256 + 0x02
def DP.GPT_PMODE (k : Nat) : Nat := (0x3040 + k) * 256 + 0x03
def DP.GPT_DLY_TOL (k : Nat) : Nat := (0x3040 + k) * 256 + 0x04
def DP.GPT_DLY_STATUS (k : Nat) : Nat := (0x3040 + k) * 256 + 0x05
def DP.HG_HALT_GUARD : Nat := 0x684201
def DP.HG_HALT_EXTEND : Nat := 0x684202
def DP.TG_SAFE (k : Nat) : Nat := (0x3080 + k) * 256 + 0x01
def DP.TG_SUP_SEL (k : Nat) : Nat := (0x3080 + k) * 256 + 0x02
def DP.TG_FLT_EARLY (k : Nat) : Nat := (0x3080 + k) * 256 + 0x03
def DP.TG_FLT_SC_OPEN (k : Nat) : Nat := (0x3080 + k) * 256 + 0x04
def DP.TG_EN_SEL (k : Nat) : Nat := (0x3080 + k) * 256 + 0x05
def DP.TG_SRC_MASK (k : Nat) : Nat := (0x3080 + k) * 256 + 0x06
def DP.TG_TG_MODE (k : Nat) : Nat := (0x3080 + k) * 256 + 0x07
def DP.TG_STATUS (k : Nat) : Nat := (0x3080 + k) * 256 + 0x08
def DP.TG_SRC_ACTIVE (k : Nat) : Nat := (0x3080 + k) * 256 + 0x09
def DP.TG_FIRST_CAUSE (k : Nat) : Nat := (0x3080 + k) * 256 + 0x0A
def DP.TGM_MEMBERS (k : Nat) : Nat := (0x30A0 + k) * 256 + 0x01
def DP.TGM_TRIP_POL (k : Nat) : Nat := (0x30A0 + k) * 256 + 0x02
def DP.TGM_TRIP_FILT (k : Nat) : Nat := (0x30A0 + k) * 256 + 0x03
def DP.GPF_FLT_USE (k : Nat) : Nat := (0x30C0 + k) * 256 + 0x01
def DP.GPF_CHOP_EN (k : Nat) : Nat := (0x30C0 + k) * 256 + 0x02
def DP.GPF_CHOP_SIDE (k : Nat) : Nat := (0x30C0 + k) * 256 + 0x03
def DP.GPF_CHOP_IN_TRIP (k : Nat) : Nat := (0x30C0 + k) * 256 + 0x04
def DP.GPF_CHOP_CMP (k : Nat) : Nat := (0x30C0 + k) * 256 + 0x05
def DP.GPF_CHOP_TON (k : Nat) : Nat := (0x30C0 + k) * 256 + 0x06
def DP.GPF_CHOP_TOFF (k : Nat) : Nat := (0x30C0 + k) * 256 + 0x07
def DP.GPF_FLT_STATUS (k : Nat) : Nat := (0x30C0 + k) * 256 + 0x08
def DP.CSR_PORT (k : Nat) : Nat := (0x30E0 + k) * 256 + 0x01
def DP.CSR_FORCE_OPEN (k : Nat) : Nat := (0x30E0 + k) * 256 + 0x02
def DP.CSR_CUFF (k : Nat) : Nat := (0x30E0 + k) * 256 + 0x03
def DP.CSR_PARTNER (k : Nat) : Nat := (0x30E0 + k) * 256 + 0x04
def DP.APP_REF_EN (k : Nat) : Nat := (0x3120 + k) * 256 + 0x01
def DP.APP_REF_W (k : Nat) : Nat := (0x3120 + k) * 256 + 0x02
def DP.APP_REF_INT (k : Nat) : Nat := (0x3120 + k) * 256 + 0x03
def DP.APP_AP_STATUS (k : Nat) : Nat := (0x3120 + k) * 256 + 0x04
def DP.ADCP_EN (k : Nat) : Nat := (0x4000 + k) * 256 + 0x01
def DP.ADCP_RES (k : Nat) : Nat := (0x4000 + k) * 256 + 0x02
def DP.ADCP_ALIGN (k : Nat) : Nat := (0x4000 + k) * 256 + 0x03
def DP.ADCP_CLE_DST (k : Nat) : Nat := (0x4000 + k) * 256 + 0x04
def DP.ADCP_FWD_N (k : Nat) : Nat := (0x4000 + k) * 256 + 0x05
def DP.ADCP_REG_LEN (k : Nat) : Nat := (0x4000 + k) * 256 + 0x06
def DP.ADCP_INJ_LEN (k : Nat) : Nat := (0x4000 + k) * 256 + 0x07
def DP.ADCP_REG_TRIG (k : Nat) : Nat := (0x4000 + k) * 256 + 0x08
def DP.ADCP_REG_TRIG_PAR (k : Nat) : Nat := (0x4000 + k) * 256 + 0x09
def DP.ADCP_INJ_TRIG (k : Nat) : Nat := (0x4000 + k) * 256 + 0x0A
def DP.ADCP_INJ_TRIG_PAR (k : Nat) : Nat := (0x4000 + k) * 256 + 0x0B
def DP.ADCP_STATUS (k : Nat) : Nat := (0x4000 + k) * 256 + 0x0C
def DP.ADCE_REG_ENT0 (k : Nat) : Nat := (0x4010 + k) * 256 + 0x01
def DP.ADCE_REG_ENT1 (k : Nat) : Nat := (0x4010 + k) * 256 + 0x02
def DP.ADCE_REG_ENT2 (k : Nat) : Nat := (0x4010 + k) * 256 + 0x03
def DP.ADCE_REG_ENT3 (k : Nat) : Nat := (0x4010 + k) * 256 + 0x04
def DP.ADCE_REG_ENT4 (k : Nat) : Nat := (0x4010 + k) * 256 + 0x05
def DP.ADCE_REG_ENT5 (k : Nat) : Nat := (0x4010 + k) * 256 + 0x06
def DP.ADCE_REG_ENT6 (k : Nat) : Nat := (0x4010 + k) * 256 + 0x07
def DP.ADCE_REG_ENT7 (k : Nat) : Nat := (0x4010 + k) * 256 + 0x08
def DP.ADCE_REG_ENT8 (k : Nat) : Nat := (0x4010 + k) * 256 + 0x09
def DP.ADCE_REG_ENT9 (k : Nat) : Nat := (0x4010 + k) * 256 + 0x0A
def DP.ADCE_REG_ENT10 (k : Nat) : Nat := (0x4010 + k) * 256 + 0x0B
def DP.ADCE_REG_ENT11 (k : Nat) : Nat := (0x4010 + k) * 256 + 0x0C
def DP.ADCE_REG_ENT12 (k : Nat) : Nat := (0x4010 + k) * 256 + 0x0D
def DP.ADCE_REG_ENT13 (k : Nat) : Nat := (0x4010 + k) * 256 + 0x0E
def DP.ADCE_REG_ENT14 (k : Nat) : Nat := (0x4010 + k) * 256 + 0x0F
def DP.ADCE_REG_ENT15 (k : Nat) : Nat := (0x4010 + k) * 256 + 0x10
def DP.ADCE_INJ_ENT0 (k : Nat) : Nat := (0x4010 + k) * 256 + 0x11
def DP.ADCE_INJ_ENT1 (k : Nat) : Nat := (0x4010 + k) * 256 + 0x12
def DP.ADCE_INJ_ENT2 (k : Nat) : Nat := (0x4010 + k) * 256 + 0x13
def DP.ADCE_INJ_ENT3 (k : Nat) : Nat := (0x4010 + k) * 256 + 0x14
def DP.CMPP_EN (k : Nat) : Nat := (0x4040 + k) * 256 + 0x01
def DP.CMPP_MODE (k : Nat) : Nat := (0x4040 + k) * 256 + 0x02
def DP.CMPP_INSEL (k : Nat) : Nat := (0x4040 + k) * 256 + 0x03
def DP.CMPP_THRESH (k : Nat) : Nat := (0x4040 + k) * 256 + 0x04
def DP.CMPP_HYST (k : Nat) : Nat := (0x4040 + k) * 256 + 0x05
def DP.CMPP_INV (k : Nat) : Nat := (0x4040 + k) * 256 + 0x06
def DP.CMPP_INIT (k : Nat) : Nat := (0x4040 + k) * 256 + 0x07
def DP.CMPP_LAT_MODE (k : Nat) : Nat := (0x4040 + k) * 256 + 0x08
def DP.CMPP_CGRP (k : Nat) : Nat := (0x4040 + k) * 256 + 0x09
def DP.CMPP_TRIP_LAT (k : Nat) : Nat := (0x4040 + k) * 256 + 0x0A
def DP.CMPP_IRQ_EN (k : Nat) : Nat := (0x4040 + k) * 256 + 0x0B
def DP.CMPP_WAKE_EN (k : Nat) : Nat := (0x4040 + k) * 256 + 0x0C
def DP.CMPP_CAP_EDGE (k : Nat) : Nat := (0x4040 + k) * 256 + 0x0D
def DP.CMPP_STATUS (k : Nat) : Nat := (0x4040 + k) * 256 + 0x0E
def DP.PIP_EN (k : Nat) : Nat := (0x40C0 + k) * 256 + 0x01
def DP.PIP_TYPE (k : Nat) : Nat := (0x40C0 + k) * 256 + 0x02
def DP.PIP_GRP (k : Nat) : Nat := (0x40C0 + k) * 256 + 0x03
def DP.PIP_EXC_DIV (k : Nat) : Nat := (0x40C0 + k) * 256 + 0x04
def DP.PIP_EXC_DLY (k : Nat) : Nat := (0x40C0 + k) * 256 + 0x05
def DP.PIP_SOURCES (k : Nat) : Nat := (0x40C0 + k) * 256 + 0x06
def DP.PIP_KP (k : Nat) : Nat := (0x40C0 + k) * 256 + 0x07
def DP.PIP_KI (k : Nat) : Nat := (0x40C0 + k) * 256 + 0x08
def DP.PIP_CPR (k : Nat) : Nat := (0x40C0 + k) * 256 + 0x09
def DP.PIP_ZRST (k : Nat) : Nat := (0x40C0 + k) * 256 + 0x0A
def DP.PIP_FILT (k : Nat) : Nat := (0x40C0 + k) * 256 + 0x0B
def DP.PIP_AMP_MIN (k : Nat) : Nat := (0x40C0 + k) * 256 + 0x0C
def DP.PIP_AMP_MAX (k : Nat) : Nat := (0x40C0 + k) * 256 + 0x0D
def DP.PIP_STATUS (k : Nat) : Nat := (0x40C0 + k) * 256 + 0x0E
def DP.CLEP_EN (k : Nat) : Nat := (0x4800 + k) * 256 + 0x01
def DP.CLEP_SCHED (k : Nat) : Nat := (0x4800 + k) * 256 + 0x02
def DP.CLEP_START (k : Nat) : Nat := (0x4800 + k) * 256 + 0x03
def DP.CLEP_RPT_EN (k : Nat) : Nat := (0x4800 + k) * 256 + 0x04
def DP.CLEP_FLAGS (k : Nat) : Nat := (0x4800 + k) * 256 + 0x05
def DP.CLEP_CYCLES (k : Nat) : Nat := (0x4800 + k) * 256 + 0x06
def DP.CLEP_ECC (k : Nat) : Nat := (0x4800 + k) * 256 + 0x07
def DP.GRD_MEMBERS : Nat := 0x500001
def DP.GRD_GRID_EN : Nat := 0x500002
def DP.GRD_FNOM : Nat := 0x500003
def DP.GRD_VTYPE : Nat := 0x500004
def DP.GRD_CONNECT : Nat := 0x500005
def DP.GRD_DISCONNECT : Nat := 0x500006
def DP.GRDD_GGRP (k : Nat) : Nat := (0x5010 + k) * 256 + 0x01
def DP.GRDD_VSRC (k : Nat) : Nat := (0x5010 + k) * 256 + 0x02
def DP.GRDD_ISRC (k : Nat) : Nat := (0x5010 + k) * 256 + 0x03
def DP.GRDD_VGAIN (k : Nat) : Nat := (0x5010 + k) * 256 + 0x04
def DP.GRDD_IGAIN (k : Nat) : Nat := (0x5010 + k) * 256 + 0x05
def DP.GRDD_VLOCK (k : Nat) : Nat := (0x5010 + k) * 256 + 0x06
def DP.GRDD_ILIM (k : Nat) : Nat := (0x5010 + k) * 256 + 0x07
def DP.GRDD_GSU_STATUS (k : Nat) : Nat := (0x5010 + k) * 256 + 0x08
def DP.GRDD_RT_STATUS (k : Nat) : Nat := (0x5010 + k) * 256 + 0x09
def DP.RTP_ARM : Nat := 0x502001
def DP.RTP_MAY_ACT : Nat := 0x502002
def DP.RTP_DRC_EN : Nat := 0x502003
def DP.RTP_NEG_EN : Nat := 0x502004
def DP.RTP_PJ_ACT : Nat := 0x502005
def DP.RTP_RST_MS : Nat := 0x502006
def DP.RTP_K_DRC : Nat := 0x502007
def DP.RTP_DB : Nat := 0x502008
def DP.RTP_IQ_MAX : Nat := 0x502009
def DP.RTP_K_NEG : Nat := 0x50200A
def DP.RTP_PJ_MAX : Nat := 0x50200B
def DP.ISL_PROBE_EN : Nat := 0x503001
def DP.ISL_PAMP : Nat := 0x503002
def DP.ISL_PD : Nat := 0x503003
def DP.ISL_PN : Nat := 0x503004
def DP.ISL_ZTH : Nat := 0x503005
def DP.ISL_ISL_N : Nat := 0x503006
def DP.ISL_ROCOF_EN : Nat := 0x503007
def DP.ISL_ROCOF_N : Nat := 0x503008
def DP.ISL_ROCOF_TH : Nat := 0x503009
def DP.ISL_VS_EN : Nat := 0x50300A
def DP.ISL_VS_TH : Nat := 0x50300B
def DP.ISL_FS_EN : Nat := 0x50300C
def DP.ISL_K_FS : Nat := 0x50300D
def DP.ISL_FS_MAX : Nat := 0x50300E
def DP.ISL_PFAIL_ACT : Nat := 0x50300F
def DP.RCP_RC_DELAY : Nat := 0x504001
def DP.RCP_GCON_DLY : Nat := 0x504002
def DP.RCP_RC_VMIN : Nat := 0x504003
def DP.RCP_RC_VMAX : Nat := 0x504004
def DP.RCP_RC_FMIN : Nat := 0x504005
def DP.RCP_RC_FMAX : Nat := 0x504006
def DP.CRV_NPTS (k : Nat) : Nat := (0x5100 + k) * 256 + 0x01
def DP.CRV_POINT0 (k : Nat) : Nat := (0x5100 + k) * 256 + 0x02
def DP.CRV_POINT1 (k : Nat) : Nat := (0x5100 + k) * 256 + 0x03
def DP.CRV_POINT2 (k : Nat) : Nat := (0x5100 + k) * 256 + 0x04
def DP.CRV_POINT3 (k : Nat) : Nat := (0x5100 + k) * 256 + 0x05
def DP.CRV_POINT4 (k : Nat) : Nat := (0x5100 + k) * 256 + 0x06
def DP.CRV_POINT5 (k : Nat) : Nat := (0x5100 + k) * 256 + 0x07
def DP.CRV_POINT6 (k : Nat) : Nat := (0x5100 + k) * 256 + 0x08
def DP.CRV_POINT7 (k : Nat) : Nat := (0x5100 + k) * 256 + 0x09
def DP.CRV_POINT8 (k : Nat) : Nat := (0x5100 + k) * 256 + 0x0A
def DP.CRV_POINT9 (k : Nat) : Nat := (0x5100 + k) * 256 + 0x0B
def DP.CRV_POINT10 (k : Nat) : Nat := (0x5100 + k) * 256 + 0x0C
def DP.CRV_POINT11 (k : Nat) : Nat := (0x5100 + k) * 256 + 0x0D
def DP.CRV_POINT12 (k : Nat) : Nat := (0x5100 + k) * 256 + 0x0E
def DP.CRV_POINT13 (k : Nat) : Nat := (0x5100 + k) * 256 + 0x0F
def DP.CRV_POINT14 (k : Nat) : Nat := (0x5100 + k) * 256 + 0x10
def DP.CRV_POINT15 (k : Nat) : Nat := (0x5100 + k) * 256 + 0x11
def DP.MPP_EN (k : Nat) : Nat := (0x5800 + k) * 256 + 0x01
def DP.MPP_DIE (k : Nat) : Nat := (0x5800 + k) * 256 + 0x02
def DP.MPP_VTYPE (k : Nat) : Nat := (0x5800 + k) * 256 + 0x03
def DP.MPP_INT_LEN (k : Nat) : Nat := (0x5800 + k) * 256 + 0x04
def DP.MPP_NL_I (k : Nat) : Nat := (0x5800 + k) * 256 + 0x05
def DP.MPP_NL_P (k : Nat) : Nat := (0x5800 + k) * 256 + 0x06
def DP.MPP_STATUS (k : Nat) : Nat := (0x5800 + k) * 256 + 0x07
def DP.MPP_COUNTS (k : Nat) : Nat := (0x5800 + k) * 256 + 0x08
def DP.MPC_CSRC0 (k : Nat) : Nat := (0x5810 + k) * 256 + 0x01
def DP.MPC_CSRC1 (k : Nat) : Nat := (0x5810 + k) * 256 + 0x02
def DP.MPC_CSRC2 (k : Nat) : Nat := (0x5810 + k) * 256 + 0x03
def DP.MPC_CSRC3 (k : Nat) : Nat := (0x5810 + k) * 256 + 0x04
def DP.MPC_CSRC4 (k : Nat) : Nat := (0x5810 + k) * 256 + 0x05
def DP.MPC_CSRC5 (k : Nat) : Nat := (0x5810 + k) * 256 + 0x06
def DP.MPC_CGAIN0 (k : Nat) : Nat := (0x5810 + k) * 256 + 0x07
def DP.MPC_CGAIN1 (k : Nat) : Nat := (0x5810 + k) * 256 + 0x08
def DP.MPC_CGAIN2 (k : Nat) : Nat := (0x5810 + k) * 256 + 0x09
def DP.MPC_CGAIN3 (k : Nat) : Nat := (0x5810 + k) * 256 + 0x0A
def DP.MPC_CGAIN4 (k : Nat) : Nat := (0x5810 + k) * 256 + 0x0B
def DP.MPC_CGAIN5 (k : Nat) : Nat := (0x5810 + k) * 256 + 0x0C
def DP.MPC_COFFS0 (k : Nat) : Nat := (0x5810 + k) * 256 + 0x0D
def DP.MPC_COFFS1 (k : Nat) : Nat := (0x5810 + k) * 256 + 0x0E
def DP.MPC_COFFS2 (k : Nat) : Nat := (0x5810 + k) * 256 + 0x0F
def DP.MPC_COFFS3 (k : Nat) : Nat := (0x5810 + k) * 256 + 0x10
def DP.MPC_COFFS4 (k : Nat) : Nat := (0x5810 + k) * 256 + 0x11
def DP.MPC_COFFS5 (k : Nat) : Nat := (0x5810 + k) * 256 + 0x12
def DP.MPC_CDLY0 (k : Nat) : Nat := (0x5810 + k) * 256 + 0x13
def DP.MPC_CDLY1 (k : Nat) : Nat := (0x5810 + k) * 256 + 0x14
def DP.MPC_CDLY2 (k : Nat) : Nat := (0x5810 + k) * 256 + 0x15
def DP.MPC_CDLY3 (k : Nat) : Nat := (0x5810 + k) * 256 + 0x16
def DP.MPC_CDLY4 (k : Nat) : Nat := (0x5810 + k) * 256 + 0x17
def DP.MPC_CDLY5 (k : Nat) : Nat := (0x5810 + k) * 256 + 0x18
def DP.MPQ_QGAIN0 (k : Nat) : Nat := (0x5820 + k) * 256 + 0x01
def DP.MPQ_QGAIN1 (k : Nat) : Nat := (0x5820 + k) * 256 + 0x02
def DP.MPQ_QGAIN2 (k : Nat) : Nat := (0x5820 + k) * 256 + 0x03
def DP.MPQ_QGAIN3 (k : Nat) : Nat := (0x5820 + k) * 256 + 0x04
def DP.MPQ_QGAIN4 (k : Nat) : Nat := (0x5820 + k) * 256 + 0x05
def DP.MPQ_QGAIN5 (k : Nat) : Nat := (0x5820 + k) * 256 + 0x06
def DP.MPQ_QGAIN6 (k : Nat) : Nat := (0x5820 + k) * 256 + 0x07
def DP.MPQ_QGAIN7 (k : Nat) : Nat := (0x5820 + k) * 256 + 0x08
def DP.MPQ_QGAIN8 (k : Nat) : Nat := (0x5820 + k) * 256 + 0x09
def DP.MPQ_QGAIN9 (k : Nat) : Nat := (0x5820 + k) * 256 + 0x0A
def DP.MPQ_QGAIN10 (k : Nat) : Nat := (0x5820 + k) * 256 + 0x0B
def DP.MPQ_QGAIN11 (k : Nat) : Nat := (0x5820 + k) * 256 + 0x0C
def DP.MPQ_QOFFS0 (k : Nat) : Nat := (0x5820 + k) * 256 + 0x0D
def DP.MPQ_QOFFS1 (k : Nat) : Nat := (0x5820 + k) * 256 + 0x0E
def DP.MPQ_QOFFS2 (k : Nat) : Nat := (0x5820 + k) * 256 + 0x0F
def DP.MPQ_QOFFS3 (k : Nat) : Nat := (0x5820 + k) * 256 + 0x10
def DP.MPQ_QOFFS4 (k : Nat) : Nat := (0x5820 + k) * 256 + 0x11
def DP.MPQ_QOFFS5 (k : Nat) : Nat := (0x5820 + k) * 256 + 0x12
def DP.MPQ_QOFFS6 (k : Nat) : Nat := (0x5820 + k) * 256 + 0x13
def DP.MPQ_QOFFS7 (k : Nat) : Nat := (0x5820 + k) * 256 + 0x14
def DP.MPQ_QOFFS8 (k : Nat) : Nat := (0x5820 + k) * 256 + 0x15
def DP.MPQ_QOFFS9 (k : Nat) : Nat := (0x5820 + k) * 256 + 0x16
def DP.MPQ_QOFFS10 (k : Nat) : Nat := (0x5820 + k) * 256 + 0x17
def DP.MPQ_QOFFS11 (k : Nat) : Nat := (0x5820 + k) * 256 + 0x18
def DP.MPV_TOTALS (k : Nat) : Nat := (0x5830 + k) * 256 + 0x01
def DP.MPV_INTERVAL (k : Nat) : Nat := (0x5830 + k) * 256 + 0x02
def DP.MPV_READINGS (k : Nat) : Nat := (0x5830 + k) * 256 + 0x03
def DP.MPR_REC_LAST (k : Nat) : Nat := (0x5840 + k) * 256 + 0x01
def DP.MPR_REC_SEL (k : Nat) : Nat := (0x5840 + k) * 256 + 0x02
def DP.MPR_RECORD (k : Nat) : Nat := (0x5840 + k) * 256 + 0x03
def DP.CMDP_CMD_N : Nat := 0x600001
def DP.CMDP_SIG_WIN : Nat := 0x600002
def DP.CMDP_SNAP_WIN : Nat := 0x600003
def DP.CMDP_CP_CORES : Nat := 0x600004
def DP.CMDP_STATE_REGION : Nat := 0x600005
def DP.CMDP_COPY_BUFFER : Nat := 0x600006
def DP.CMDP_JOURNAL : Nat := 0x600007
def DP.ARBP_HB_TMO : Nat := 0x684401
def DP.ARBP_HOLDOFF : Nat := 0x684402
def DP.ARBP_AUTO_RETURN : Nat := 0x684403
def DP.ARBP_DBG_ALLOW : Nat := 0x684404
def DP.ARBP_HW_MASK : Nat := 0x684405
def DP.ARBP_ENV_EN : Nat := 0x684406
def DP.ARBP_ENV_MAP : Nat := 0x684407
def DP.ARBP_ENV_SPD : Nat := 0x684408
def DP.ARBP_ENV_I : Nat := 0x684409
def DP.ARBS_ARB_STATUS : Nat := 0x684801
def DP.ARBS_ARB_COUNTS : Nat := 0x684802
def DP.ARBS_LAST_DECISION : Nat := 0x684803
def DP.ARBS_HEALTH_C0 : Nat := 0x684804
def DP.ARBS_HEALTH_C1 : Nat := 0x684805
def DP.SAF_SS1_DEC : Nat := 0x680001
def DP.SAF_SS1_TOL : Nat := 0x680002
def DP.SAF_SS1_TMAX : Nat := 0x680003
def DP.SAF_SST_V : Nat := 0x680004
def DP.SAF_SST_T : Nat := 0x680005
def DP.SAF_DEG_T : Nat := 0x680006
def DP.SAF_RST_MBX : Nat := 0x680007
def DP.SAF_CTRL_CONN : Nat := 0x680008
def DP.SAF_TP_PER : Nat := 0x680009
def DP.SAF_TP_W : Nat := 0x68000A
def DP.AX_AX_EN (k : Nat) : Nat := (0x6810 + k) * 256 + 0x01
def DP.AX_PI (k : Nat) : Nat := (0x6810 + k) * 256 + 0x02
def DP.AX_WS (k : Nat) : Nat := (0x6810 + k) * 256 + 0x03
def DP.AX_GEAR (k : Nat) : Nat := (0x6810 + k) * 256 + 0x04
def DP.AX_WS_PPR (k : Nat) : Nat := (0x6810 + k) * 256 + 0x05
def DP.AX_WS_WIN (k : Nat) : Nat := (0x6810 + k) * 256 + 0x06
def DP.AX_DISC_V (k : Nat) : Nat := (0x6810 + k) * 256 + 0x07
def DP.AX_DISC_T (k : Nat) : Nat := (0x6810 + k) * 256 + 0x08
def DP.AX_DISC_P (k : Nat) : Nat := (0x6810 + k) * 256 + 0x09
def DP.AX_SLS_LIM (k : Nat) : Nat := (0x6810 + k) * 256 + 0x0A
def DP.AX_SLS_DEC (k : Nat) : Nat := (0x6810 + k) * 256 + 0x0B
def DP.AX_DEG_LIM (k : Nat) : Nat := (0x6810 + k) * 256 + 0x0C
def DP.AX_SLP_MIN (k : Nat) : Nat := (0x6810 + k) * 256 + 0x0D
def DP.AX_SLP_MAX (k : Nat) : Nat := (0x6810 + k) * 256 + 0x0E
def DP.AX_SLP_DEC (k : Nat) : Nat := (0x6810 + k) * 256 + 0x0F
def DP.AX_SLP_HOME (k : Nat) : Nat := (0x6810 + k) * 256 + 0x10
def DP.AX_SLP_REFV (k : Nat) : Nat := (0x6810 + k) * 256 + 0x11
def DP.AX_SDI_TOL (k : Nat) : Nat := (0x6810 + k) * 256 + 0x12
def DP.AX_REACT (k : Nat) : Nat := (0x6810 + k) * 256 + 0x13
def DP.SI_FUNC (k : Nat) : Nat := (0x6820 + k) * 256 + 0x01
def DP.SI_TYPE (k : Nat) : Nat := (0x6820 + k) * 256 + 0x02
def DP.SI_TOS (k : Nat) : Nat := (0x6820 + k) * 256 + 0x03
def DP.SI_TPA (k : Nat) : Nat := (0x6820 + k) * 256 + 0x04
def DP.SI_TPB (k : Nat) : Nat := (0x6820 + k) * 256 + 0x05
def DP.SI_TP_EN (k : Nat) : Nat := (0x6820 + k) * 256 + 0x06
def DP.SI_AXES (k : Nat) : Nat := (0x6820 + k) * 256 + 0x07
def DP.SI_FILT (k : Nat) : Nat := (0x6820 + k) * 256 + 0x08
def DP.SI_DT (k : Nat) : Nat := (0x6820 + k) * 256 + 0x09
def DP.SO_SRC (k : Nat) : Nat := (0x6830 + k) * 256 + 0x01
def DP.SO_AX (k : Nat) : Nat := (0x6830 + k) * 256 + 0x02
def DP.SO_TEST (k : Nat) : Nat := (0x6830 + k) * 256 + 0x03
def DP.SCMP_EN (k : Nat) : Nat := (0x6838 + k) * 256 + 0x01
def DP.SCMP_LO (k : Nat) : Nat := (0x6838 + k) * 256 + 0x02
def DP.SCMP_HI (k : Nat) : Nat := (0x6838 + k) * 256 + 0x03
def DP.SCMP_FILT (k : Nat) : Nat := (0x6838 + k) * 256 + 0x04
def DP.SCMP_REACT (k : Nat) : Nat := (0x6838 + k) * 256 + 0x05
def DP.CONN_EN (k : Nat) : Nat := (0x6860 + k) * 256 + 0x01
def DP.CONN_DIR (k : Nat) : Nat := (0x6860 + k) * 256 + 0x02
def DP.CONN_FLOW (k : Nat) : Nat := (0x6860 + k) * 256 + 0x03
def DP.CONN_CONN_ID (k : Nat) : Nat := (0x6860 + k) * 256 + 0x04
def DP.CONN_WDG (k : Nat) : Nat := (0x6860 + k) * 256 + 0x05
def DP.CONN_MAX_AGE (k : Nat) : Nat := (0x6860 + k) * 256 + 0x06
def DP.CONN_SEQ_WIN (k : Nat) : Nat := (0x6860 + k) * 256 + 0x07
def DP.CONN_REACT (k : Nat) : Nat := (0x6860 + k) * 256 + 0x08
def DP.CONN_TX_PER (k : Nat) : Nat := (0x6860 + k) * 256 + 0x09
def DP.CONN_LEN (k : Nat) : Nat := (0x6860 + k) * 256 + 0x0A
def DP.SES_LOGIN : Nat := 0x68E001
def DP.SES_LOGOUT : Nat := 0x68E002
def DP.SES_NEW_PASSWORD : Nat := 0x68E003
def DP.SES_APPLY : Nat := 0x68E004
def DP.SES_PARAM_CRC : Nat := 0x68E005
def DP.SES_SESS_TMO : Nat := 0x68E006
def DP.SES_LOCK_REM : Nat := 0x68E007
def DP.SES_FAIL_CNT : Nat := 0x68E008
def DP.SST_S_STATE : Nat := 0x68F001
def DP.SST_CHSTAT : Nat := 0x68F002
def DP.SST_LOG_COUNT : Nat := 0x68F003
def DP.SST_LOG_SEL : Nat := 0x68F004
def DP.SST_LOG_ENTRY : Nat := 0x68F005
def DP.SST_CTRL_DATA : Nat := 0x68F006
def DP.SYS_START_STATUS : Nat := 0x200001
def DP.SYS_STOP : Nat := 0x200002
def DP.SYS_RESTART : Nat := 0x200003
def DP.SYS_COLD_NEXT : Nat := 0x200004
def DP.SYS_COLD_INT : Nat := 0x200005
def DP.SYS_BOOT_TMO : Nat := 0x200006
def DP.SYS_CKPT_INT : Nat := 0x200007
def DP.SYS_BOOT_HIST : Nat := 0x200008
def DP.SYS_STOP_KIND : Nat := 0x200009
def DP.IMG_APPROVED0 : Nat := 0x202001
def DP.IMG_APPROVED1 : Nat := 0x202002
def DP.IMG_SLOT_SEL : Nat := 0x202003
def DP.IMG_DIGEST_C0 : Nat := 0x202004
def DP.IMG_DIGEST_C1 : Nat := 0x202005
def DP.ETHP_EN (k : Nat) : Nat := (0x7000 + k) * 256 + 0x01
def DP.ETHP_MAC (k : Nat) : Nat := (0x7000 + k) * 256 + 0x02
def DP.ETHP_PTP_EN (k : Nat) : Nat := (0x7000 + k) * 256 + 0x03
def DP.ETHP_DELAY_MECH (k : Nat) : Nat := (0x7000 + k) * 256 + 0x04
def DP.ETHP_ING_ASYM (k : Nat) : Nat := (0x7000 + k) * 256 + 0x05
def DP.ETHP_EGR_ASYM (k : Nat) : Nat := (0x7000 + k) * 256 + 0x06
def DP.ETHP_PCPMAP (k : Nat) : Nat := (0x7000 + k) * 256 + 0x07
def DP.ETHP_DEF_PCP (k : Nat) : Nat := (0x7000 + k) * 256 + 0x08
def DP.ETHP_STATUS (k : Nat) : Nat := (0x7000 + k) * 256 + 0x09
def DP.RING_RING_MGR : Nat := 0x701001
def DP.RING_RCHK_PER : Nat := 0x701002
def DP.RING_RCHK_LOSS : Nat := 0x701003
def DP.GATEP_GATE_EN (k : Nat) : Nat := (0x7020 + k) * 256 + 0x01
def DP.GATEP_CYCLE (k : Nat) : Nat := (0x7020 + k) * 256 + 0x02
def DP.GATEP_BASE (k : Nat) : Nat := (0x7020 + k) * 256 + 0x03
def DP.GATEP_LIST (k : Nat) : Nat := (0x7020 + k) * 256 + 0x04
def DP.GATEP_APPLY (k : Nat) : Nat := (0x7020 + k) * 256 + 0x05
def DP.GATEP_GATE_STATUS (k : Nat) : Nat := (0x7020 + k) * 256 + 0x06
def DP.TIMEP_DOM_A : Nat := 0x704001
def DP.TIMEP_DOM_B : Nat := 0x704002
def DP.TIMEP_B_EN : Nat := 0x704003
def DP.TIMEP_A_PREF : Nat := 0x704004
def DP.TIMEP_RET_S : Nat := 0x704005
def DP.TIMEP_SLEW_MAX : Nat := 0x704006
def DP.TIMEP_LOCK_NS : Nat := 0x704007
def DP.TIMEP_UTC_OFS : Nat := 0x704008
def DP.TIMES_TIME_STATUS : Nat := 0x705001
def DP.TIMES_LOCAL_TIME : Nat := 0x705002
def DP.TIMES_OFS_A : Nat := 0x705003
def DP.TIMES_OFS_B : Nat := 0x705004
def DP.TIMES_GM_A : Nat := 0x705005
def DP.TIMES_GM_B : Nat := 0x705006
def DP.TIMES_UTC_TIME : Nat := 0x705007
def DP.TUP_EN (k : Nat) : Nat := (0x7060 + k) * 256 + 0x01
def DP.TUP_MODE (k : Nat) : Nat := (0x7060 + k) * 256 + 0x02
def DP.TUP_DST (k : Nat) : Nat := (0x7060 + k) * 256 + 0x03
def DP.TUP_TARGET (k : Nat) : Nat := (0x7060 + k) * 256 + 0x04
def DP.TUP_PERIOD (k : Nat) : Nat := (0x7060 + k) * 256 + 0x05
def DP.TUP_PIN_CFG (k : Nat) : Nat := (0x7060 + k) * 256 + 0x06
def DP.TUP_PW (k : Nat) : Nat := (0x7060 + k) * 256 + 0x07
def DP.TUP_STATUS (k : Nat) : Nat := (0x7060 + k) * 256 + 0x08
def DP.CANP_EN (k : Nat) : Nat := (0x7080 + k) * 256 + 0x01
def DP.CANP_FD_EN (k : Nat) : Nat := (0x7080 + k) * 256 + 0x02
def DP.CANP_BRS_EN (k : Nat) : Nat := (0x7080 + k) * 256 + 0x03
def DP.CANP_AUTO_RECOV (k : Nat) : Nat := (0x7080 + k) * 256 + 0x04
def DP.CANP_TDC_EN (k : Nat) : Nat := (0x7080 + k) * 256 + 0x05
def DP.CANP_NBT (k : Nat) : Nat := (0x7080 + k) * 256 + 0x06
def DP.CANP_DBT (k : Nat) : Nat := (0x7080 + k) * 256 + 0x07
def DP.CANP_TDC_OFS (k : Nat) : Nat := (0x7080 + k) * 256 + 0x08
def DP.CANP_STATUS (k : Nat) : Nat := (0x7080 + k) * 256 + 0x09
def DP.CANF_FILTER0 (k : Nat) : Nat := (0x7090 + k) * 256 + 0x01
def DP.CANF_FILTER1 (k : Nat) : Nat := (0x7090 + k) * 256 + 0x02
def DP.CANF_FILTER2 (k : Nat) : Nat := (0x7090 + k) * 256 + 0x03
def DP.CANF_FILTER3 (k : Nat) : Nat := (0x7090 + k) * 256 + 0x04
def DP.CANF_FILTER4 (k : Nat) : Nat := (0x7090 + k) * 256 + 0x05
def DP.CANF_FILTER5 (k : Nat) : Nat := (0x7090 + k) * 256 + 0x06
def DP.CANF_FILTER6 (k : Nat) : Nat := (0x7090 + k) * 256 + 0x07
def DP.CANF_FILTER7 (k : Nat) : Nat := (0x7090 + k) * 256 + 0x08
def DP.CANF_FILTER8 (k : Nat) : Nat := (0x7090 + k) * 256 + 0x09
def DP.CANF_FILTER9 (k : Nat) : Nat := (0x7090 + k) * 256 + 0x0A
def DP.CANF_FILTER10 (k : Nat) : Nat := (0x7090 + k) * 256 + 0x0B
def DP.CANF_FILTER11 (k : Nat) : Nat := (0x7090 + k) * 256 + 0x0C
def DP.CANF_FILTER12 (k : Nat) : Nat := (0x7090 + k) * 256 + 0x0D
def DP.CANF_FILTER13 (k : Nat) : Nat := (0x7090 + k) * 256 + 0x0E
def DP.CANF_FILTER14 (k : Nat) : Nat := (0x7090 + k) * 256 + 0x0F
def DP.CANF_FILTER15 (k : Nat) : Nat := (0x7090 + k) * 256 + 0x10
def DP.CANF_FILTER16 (k : Nat) : Nat := (0x7090 + k) * 256 + 0x11
def DP.CANF_FILTER17 (k : Nat) : Nat := (0x7090 + k) * 256 + 0x12
def DP.CANF_FILTER18 (k : Nat) : Nat := (0x7090 + k) * 256 + 0x13
def DP.CANF_FILTER19 (k : Nat) : Nat := (0x7090 + k) * 256 + 0x14
def DP.CANF_FILTER20 (k : Nat) : Nat := (0x7090 + k) * 256 + 0x15
def DP.CANF_FILTER21 (k : Nat) : Nat := (0x7090 + k) * 256 + 0x16
def DP.CANF_FILTER22 (k : Nat) : Nat := (0x7090 + k) * 256 + 0x17
def DP.CANF_FILTER23 (k : Nat) : Nat := (0x7090 + k) * 256 + 0x18
def DP.CANF_FILTER24 (k : Nat) : Nat := (0x7090 + k) * 256 + 0x19
def DP.CANF_FILTER25 (k : Nat) : Nat := (0x7090 + k) * 256 + 0x1A
def DP.CANF_FILTER26 (k : Nat) : Nat := (0x7090 + k) * 256 + 0x1B
def DP.CANF_FILTER27 (k : Nat) : Nat := (0x7090 + k) * 256 + 0x1C
def DP.CANF_FILTER28 (k : Nat) : Nat := (0x7090 + k) * 256 + 0x1D
def DP.CANF_FILTER29 (k : Nat) : Nat := (0x7090 + k) * 256 + 0x1E
def DP.CANF_FILTER30 (k : Nat) : Nat := (0x7090 + k) * 256 + 0x1F
def DP.CANF_FILTER31 (k : Nat) : Nat := (0x7090 + k) * 256 + 0x20
def DP.CANF_FLOW0 (k : Nat) : Nat := (0x7090 + k) * 256 + 0x21
def DP.CANF_FLOW1 (k : Nat) : Nat := (0x7090 + k) * 256 + 0x22
def DP.CANF_FLOW2 (k : Nat) : Nat := (0x7090 + k) * 256 + 0x23
def DP.CANF_FLOW3 (k : Nat) : Nat := (0x7090 + k) * 256 + 0x24
def DP.CANF_FLOW4 (k : Nat) : Nat := (0x7090 + k) * 256 + 0x25
def DP.CANF_FLOW5 (k : Nat) : Nat := (0x7090 + k) * 256 + 0x26
def DP.CANF_FLOW6 (k : Nat) : Nat := (0x7090 + k) * 256 + 0x27
def DP.CANF_FLOW7 (k : Nat) : Nat := (0x7090 + k) * 256 + 0x28
def DP.CANF_FLOW8 (k : Nat) : Nat := (0x7090 + k) * 256 + 0x29
def DP.CANF_FLOW9 (k : Nat) : Nat := (0x7090 + k) * 256 + 0x2A
def DP.CANF_FLOW10 (k : Nat) : Nat := (0x7090 + k) * 256 + 0x2B
def DP.CANF_FLOW11 (k : Nat) : Nat := (0x7090 + k) * 256 + 0x2C
def DP.CANF_FLOW12 (k : Nat) : Nat := (0x7090 + k) * 256 + 0x2D
def DP.CANF_FLOW13 (k : Nat) : Nat := (0x7090 + k) * 256 + 0x2E
def DP.CANF_FLOW14 (k : Nat) : Nat := (0x7090 + k) * 256 + 0x2F
def DP.CANF_FLOW15 (k : Nat) : Nat := (0x7090 + k) * 256 + 0x30
def DP.CANF_FLOW16 (k : Nat) : Nat := (0x7090 + k) * 256 + 0x31
def DP.CANF_FLOW17 (k : Nat) : Nat := (0x7090 + k) * 256 + 0x32
def DP.CANF_FLOW18 (k : Nat) : Nat := (0x7090 + k) * 256 + 0x33
def DP.CANF_FLOW19 (k : Nat) : Nat := (0x7090 + k) * 256 + 0x34
def DP.CANF_FLOW20 (k : Nat) : Nat := (0x7090 + k) * 256 + 0x35
def DP.CANF_FLOW21 (k : Nat) : Nat := (0x7090 + k) * 256 + 0x36
def DP.CANF_FLOW22 (k : Nat) : Nat := (0x7090 + k) * 256 + 0x37
def DP.CANF_FLOW23 (k : Nat) : Nat := (0x7090 + k) * 256 + 0x38
def DP.CANF_FLOW24 (k : Nat) : Nat := (0x7090 + k) * 256 + 0x39
def DP.CANF_FLOW25 (k : Nat) : Nat := (0x7090 + k) * 256 + 0x3A
def DP.CANF_FLOW26 (k : Nat) : Nat := (0x7090 + k) * 256 + 0x3B
def DP.CANF_FLOW27 (k : Nat) : Nat := (0x7090 + k) * 256 + 0x3C
def DP.CANF_FLOW28 (k : Nat) : Nat := (0x7090 + k) * 256 + 0x3D
def DP.CANF_FLOW29 (k : Nat) : Nat := (0x7090 + k) * 256 + 0x3E
def DP.CANF_FLOW30 (k : Nat) : Nat := (0x7090 + k) * 256 + 0x3F
def DP.CANF_FLOW31 (k : Nat) : Nat := (0x7090 + k) * 256 + 0x40
def DP.ID_VENDOR : Nat := 0x100001
def DP.ID_PRODUCT : Nat := 0x100002
def DP.ID_SILICON : Nat := 0x100003
def DP.ID_SERIAL : Nat := 0x100004
def DP.ID_SAFETY_FW : Nat := 0x100005
def DP.ID_NET_UCODE : Nat := 0x100006
def DP.ID_DICT_VER : Nat := 0x100007
def DP.ID_ENTRIES : Nat := 0x100008
def DP.ID_NAME : Nat := 0x100009
def DP.ID_RESTORE : Nat := 0x10000A
def DP.IP_IP_ADDR : Nat := 0x110001
def DP.IP_UDP_PORT : Nat := 0x110002
def DP.IP_UDP_ON : Nat := 0x110003
def DP.IP_DICT_Q : Nat := 0x110004
def DP.CANC_DREQ_BASE (k : Nat) : Nat := (0x1120 + k) * 256 + 0x01
def DP.CANC_CLIENTS (k : Nat) : Nat := (0x1120 + k) * 256 + 0x02
def DP.SESS_ROLE : Nat := 0x140001
def DP.SESS_LOGIN : Nat := 0x140002
def DP.SESS_LOGOUT : Nat := 0x140003
def DP.SESS_OP_PASSWORD : Nat := 0x140004
def DP.SESS_MNT_PASSWORD : Nat := 0x140005
def DP.SESS_SESS_TMO : Nat := 0x140006
def DP.SESS_XFER_TMO : Nat := 0x140007
def DP.SESS_APP_TMO : Nat := 0x140008
def DP.SESS_SESSIONS : Nat := 0x140009
def DP.SESS_LOGIN_STATE : Nat := 0x14000A
def DP.FC_TYPE (k : Nat) : Nat := (0x1800 + k) * 256 + 0x01
def DP.FC_TRANSPORT (k : Nat) : Nat := (0x1800 + k) * 256 + 0x02
def DP.FC_QUEUE (k : Nat) : Nat := (0x1800 + k) * 256 + 0x03
def DP.FC_TAG (k : Nat) : Nat := (0x1800 + k) * 256 + 0x04
def DP.FC_PEER (k : Nat) : Nat := (0x1800 + k) * 256 + 0x05
def DP.FC_ETYPE (k : Nat) : Nat := (0x1800 + k) * 256 + 0x06
def DP.FC_LEN (k : Nat) : Nat := (0x1800 + k) * 256 + 0x07
def DP.FC_PERIOD (k : Nat) : Nat := (0x1800 + k) * 256 + 0x08
def DP.FC_PHASE (k : Nat) : Nat := (0x1800 + k) * 256 + 0x09
def DP.FC_STATUS (k : Nat) : Nat := (0x1800 + k) * 256 + 0x0A
def DP.DST_DICT_STATUS : Nat := 0x1A0001
def DP.DST_DECLARED : Nat := 0x1A0002
def DP.DST_APP_STORE : Nat := 0x1A0003
def DP.KPRP_SRC_TYPE : Nat := 0x780001
def DP.KPRP_K_FOC : Nat := 0x780002
def DP.KPRP_HV_EN : Nat := 0x780003
def DP.KPRP_VK_HV : Nat := 0x780004
def DP.KPRP_V_RICH : Nat := 0x780005
def DP.KPRP_VSTL_MAX : Nat := 0x780006
def DP.KPRP_V_PGH : Nat := 0x780007
def DP.KPRP_V_PGL : Nat := 0x780008
def DP.KPRP_STL_CAP : Nat := 0x780009
def DP.KPRP_E_RES : Nat := 0x78000A
def DP.KPRP_WAKE_AT : Nat := 0x78000B
def DP.KPRS_KEEPER_STATUS : Nat := 0x781001
def DP.KPRS_VOLTAGES : Nat := 0x781002
def DP.KPRS_HARVEST : Nat := 0x781003
def DP.KPRS_E_STORED : Nat := 0x781004
def DP.KPRS_LCAP : Nat := 0x781005
def DP.KPRS_DEFER : Nat := 0x781006
def DP.LTNP_DCL_SRC : Nat := 0x782001
def DP.LTNP_DCL_GAIN : Nat := 0x782002
def DP.LTNP_DCL_BIN : Nat := 0x782003
def DP.LTNP_RF_HYST : Nat := 0x782004
def DP.LTNP_RF_RBIN : Nat := 0x782005
def DP.LTNP_RF_MBASE : Nat := 0x782006
def DP.LTNP_RF_MBIN : Nat := 0x782007
def DP.LIFE_HOURS : Nat := 0x783001
def DP.LIFE_EVENTS : Nat := 0x783002
def DP.LIFE_DCL_HIST : Nat := 0x783003
def DP.LIFE_LAST_MERGE : Nat := 0x783004
def DP.TEMPH_TEMP_HIST (k : Nat) : Nat := (0x7840 + k) * 256 + 0x01
def DP.CYCP_SW_COUNT (k : Nat) : Nat := (0x7860 + k) * 256 + 0x01
def DP.CYCP_RAINFLOW (k : Nat) : Nat := (0x7860 + k) * 256 + 0x02
def DP.FH_FH_LAST : Nat := 0x788001
def DP.FH_FH_SEL : Nat := 0x788002
def DP.FH_FH_ENTRY : Nat := 0x788003
def DP.CRCP_CONFIG (k : Nat) : Nat := (0x7C00 + k) * 256 + 0x01
def DP.CRCP_POLY (k : Nat) : Nat := (0x7C00 + k) * 256 + 0x02
def DP.CRCP_INIT (k : Nat) : Nat := (0x7C00 + k) * 256 + 0x03
def DP.CRCP_XOROUT (k : Nat) : Nat := (0x7C00 + k) * 256 + 0x04
def DP.CRCP_BASE (k : Nat) : Nat := (0x7C00 + k) * 256 + 0x05
def DP.CRCP_LEN (k : Nat) : Nat := (0x7C00 + k) * 256 + 0x06
def DP.CRCP_CONTROL (k : Nat) : Nat := (0x7C00 + k) * 256 + 0x07
def DP.CRCP_VALUE (k : Nat) : Nat := (0x7C00 + k) * 256 + 0x08
def DP.CRCP_RESULT (k : Nat) : Nat := (0x7C00 + k) * 256 + 0x09
def DP.CRCP_FEED (k : Nat) : Nat := (0x7C00 + k) * 256 + 0x0A
def DP.CRCP_STATUS (k : Nat) : Nat := (0x7C00 + k) * 256 + 0x0B
def DP.MNT_REQUEST : Nat := 0x7C2001
def DP.MNT_REQ_STATUS : Nat := 0x7C2002
def DP.MNT_RUNNING : Nat := 0x7C2003
def DP.MNT_CANCEL : Nat := 0x7C2004
def DP.MNT_SLOTS : Nat := 0x7C2005
def DP.MNT_RESULTS : Nat := 0x7C2006

end Sys2Proof.Machine
end

