-- ==== Sys2Proof/Machine/Events.lean ====
section
/-!
DEFINITION. Sys2Proof/Machine/Events.lean: what many chapters share: events sent to other dies, keeper bursts requested,
event counters and fault-history entries (R568).
-/

namespace Sys2Proof.Machine

/-- The place of an event counter in the working copy. -/
def EvCounter.index : EvCounter → Nat
  | .trip t => t.val
  | .retire => 8 | .parity => 9 | .failover => 10 | .ret => 11 | .unres => 12 | .safety => 13 | .bootFail => 14
  | .stopUnc => 15 | .kpor => 16 | .defer => 17 | .cold => 18 | .warm => 19 | .recov => 20 | .stopCtl => 21

/-- A request for a keeper burst of a class: it joins the queue; while the class is being written it waits for the end
of that write and is then queued anew (R552, R553).  A keeper without power takes none. -/
def State.burstRequest (s : State) (c : Nat) : State :=
  if !s.keeper.powered then s else
  let w := s.capture c
  let s := { s with keeper := { s.keeper with rewrite := s.keeper.rewrite &&& (1023 ^^^ 2 ^ c), wait := w } }
  if s.keeper.running = some c then { s with keeper := { s.keeper with again := s.keeper.again ||| 2 ^ c } }
  else s.orBits KPR.KQ_QUEUE (2 ^ c)

/-- Count an event in the keeper's working copy (R568). -/
def State.countEvent (s : State) (e : EvCounter) : State :=
  { s with life := { s.life with work := { s.life.work with ev := vmod s.life.work.ev e.index (fun n => n + 1) } } }

/-- The newest fault-history entry, waiting or committed. -/
def State.newestFault (s : State) : Option FaultEntry :=
  match s.life.histWait with
  | e :: _ => some e
  | [] => s.life.hist.head?

/-- Enter a fault-history event (R568): an event with the code and unit of the newest entry within 10 s of it counts in
that entry's REPEAT, which saturates at 65,535 and is rewritten with the next class 3 burst; any other event appends an
entry, written by a class 3 burst.  Two units of different kinds (code 0x0002) are different units. -/
def State.enterFault (s : State) (code die unit d1 d2 : Nat) : State :=
  let sec := s.get RTC.RTC_SEC_SEC
  let fresh : State :=
    let e : FaultEntry := ⟨s.life.nextSeq, sec, code, die, unit, d1, d2, 0, s.flag RTC.RTC_FLAG_RTC_XTAL_FAIL, s.life.starts⟩
    { s with life := { s.life with histWait := e :: s.life.histWait, nextSeq := s.life.nextSeq + 1 } }
  let t := match s.life.histWait, s.life.hist with
    | e :: r, _ =>
      if e.code = code ∧ e.die = die ∧ e.unit = unit ∧ (code = 2 → e.d1 = d1) ∧ sec ≤ e.sec + 10 ∧ e.sec ≤ sec + 10
      then { s with life := { s.life with histWait := { e with rep := min (e.rep + 1) 65535 } :: r } } else fresh
    | [], e :: _ =>
      if e.code = code ∧ e.die = die ∧ e.unit = unit ∧ (code = 2 → e.d1 = d1) ∧ sec ≤ e.sec + 10 ∧ e.sec ≤ sec + 10
      then { s with life := { s.life with repWait := some (min (s.life.repWait.getD e.rep + 1) 65535) } } else fresh
    | [], [] => fresh
  t.burstRequest 3

/-- The unit kinds of fault-history code 0x0002. -/
inductive UnitKind where
  | lane | adcCore | cle | comparator | driveDie | gridMember
deriving DecidableEq, Repr

/-- Their codes in detail 1. -/
def UnitKind.code : UnitKind → Nat
  | .lane => 1 | .adcCore => 2 | .cle => 3 | .comparator => 4 | .driveDie => 5 | .gridMember => 6

/-- A retirement is recorded (R25): event counter RETIRE and fault-history code 0x0002; the keeper commits the checkpoint (section
"Stopping"). -/
def State.recordRetire (s : State) (k : UnitKind) (e : Die) (unit : Nat) : State :=
  ((s.countEvent .retire).enterFault 2 e.code unit k.code 0).burstRequest 4

/-- The core-map address of a register's key. -/
def coreAddr (a : Nat) : Nat := if 0x150000000 ≤ a then a - 0x100000000 else a

/-- A parity failure of a register of die `e` is recorded (R38): CFG_PARITY, the two addresses, the count, what found it, the fault history; the
content stays as it is. -/
def State.parityRecord (s : State) (e : Die) (a : Nat) (byRead : Bool) : State :=
  let was := s.flag (REGCTL.PAR_STAT_CFG_PARITY e)
  let s := s.setB (REGCTL.PAR_STAT_CFG_PARITY e) true
  let s := if was then s else s.setReg (REGCTL.PAR_FIRST e) (BitVec.ofNat 32 (coreAddr a))
  let s := (s.setReg (REGCTL.PAR_LAST e) (BitVec.ofNat 32 (coreAddr a))).incSat (REGCTL.PAR_STAT_ERR_CNT e)
  let s := s.setB (if byRead then REGCTL.PAR_STAT_BY_READ e else REGCTL.PAR_STAT_BY_SCRUB e) true
  (s.countEvent .parity).enterFault 3 e.code 0xFF (coreAddr a) (s.get (REGCTL.PAR_STAT_ERR_CNT e))

/-- An event flit to both command dies: the kind, the die it comes from, its words. -/
def State.event (s : State) (k : MsgKind) (e : Die) (data : List Nat) : State := s.send ⟨k, e.code, data⟩

/-- Do the main domains run: supplied and out of reset? -/
def State.mainRuns (s : State) : Bool := s.power.good && !s.power.reset

/-- What a command does in the main domains: held in reset they change nothing (R443). -/
def State.whileRuns (s : State) (o : Host.Outcome State Fault Refusal) : Host.Outcome State Fault Refusal := if s.mainRuns then o else .next s

/-- TTIME of a drive die (R156). -/
def State.ttime (s : State) (d : Nat) : Nat := s.get (TRIP.TTIME_LO_TT_LO d) + 2 ^ 32 * s.get (TRIP.TTIME_HI_TT_HI d)

/-- Set TTIME, modulo 2^48. -/
def State.setTtime (s : State) (d t : Nat) : State :=
  (s.set (TRIP.TTIME_LO_TT_LO d) t).set (TRIP.TTIME_HI_TT_HI d) (t / 2 ^ 32)

/-- A drive die whose counters run: not halted for debug, its clock running (R119, R233). -/
def State.dieRuns (s : State) (d : Nat) : Bool :=
  !(vget s.drives d).halted && !(vget s.drives d).clockStopped

/-- A port of a drive die: `j` = 0-5 its gate ports, 6 its auxiliary port. -/
def State.port (s : State) (d j : Nat) : Port := vget s.ports (7 * d + j)

/-- Change a port. -/
def State.modPort (s : State) (d j : Nat) (f : Port → Port) : State := { s with ports := vmod s.ports (7 * d + j) f }

/-- A PWM group, PG(4d+k). -/
def State.grp (s : State) (d k : Nat) : Group := vget s.groups (4 * d + k)

/-- Change a PWM group. -/
def State.modGrp (s : State) (d k : Nat) (f : Group → Group) : State := { s with groups := vmod s.groups (4 * d + k) f }

/-- Change a drive die. -/
def State.modDrive (s : State) (d : Nat) (f : DriveDie → DriveDie) : State := { s with drives := vmod s.drives d f }

/-- Change a trip group, TG(2d+k). -/
def State.modTg (s : State) (d k : Nat) (f : TripGroup → TripGroup) : State := { s with tgs := vmod s.tgs (2 * d + k) f }

/-- Comparator CMP(16d+i). -/
def State.cmp (s : State) (d i : Nat) : Comparator := vget s.cmps (16 * d + i)

/-- Change a comparator. -/
def State.modCmp (s : State) (d i : Nat) (f : Comparator → Comparator) : State := { s with cmps := vmod s.cmps (16 * d + i) f }

/-- Core ADC(4d+k). -/
def State.adc (s : State) (d k : Nat) : AdcCore := vget s.adcs (4 * d + k)

/-- Change an ADC core. -/
def State.modAdc (s : State) (d k : Nat) (f : AdcCore → AdcCore) : State := { s with adcs := vmod s.adcs (4 * d + k) f }

/-- Does the group's counter run? -/
def State.grpRuns (s : State) (d k : Nat) : Bool := s.flag (PWM.STAT_RUN d k)

/-- The local ports that a group latched (R83). -/
def State.members (s : State) (d k : Nat) : List Nat := bitsOf 7 (s.grp d k).ports

/-- The running group of the die that a port is a member of, if any. -/
def State.groupOf (s : State) (d j : Nat) : Option Nat :=
  (List.range 4).find? (fun k => s.grpRuns d k && (s.grp d k).ports.testBit j)

/-- The hop-master group of a drive die: its lowest-numbered running group. -/
def State.hopMaster (s : State) (d : Nat) : Option Nat := (List.range 4).find? (fun k => s.grpRuns d k)

/-! ### Dictionary values in force -/

/-- The row of an entry by key. -/
def dictRow? (key : Nat) : Option DictRow :=
  dictRows.find? (fun r => decide (r.ix ≤ key / 256) && decide (key / 256 < r.ix + r.n) && decide (r.sub = key % 256))

/-- The default of an entry: the table's number, or no bytes for a string or domain. -/
def dictDefault (key : Nat) : DictVal :=
  match dictRow? key with
  | some r => (match r.ty with | .str | .domain => .bytes [] | _ => .num r.dflt)
  | none => .num 0

/-- The value in force of an entry that no register holds. -/
def State.dval (s : State) (key : Nat) : DictVal := (Assoc.get s.vars key).getD (dictDefault key)

/-- Its number. -/
def State.dint (s : State) (key : Nat) : Int := match s.dval key with | .num x => x | .bytes _ => 0

/-- Its number as a natural number. -/
def State.dnat (s : State) (key : Nat) : Nat := (s.dint key).toNat

/-- Its bytes. -/
def State.dbytes (s : State) (key : Nat) : List Nat := match s.dval key with | .bytes b => b | .num _ => []

/-- Put a value in force; the list holds no entry at its default. -/
def State.setDval (s : State) (key : Nat) (v : DictVal) : State :=
  { s with vars := if v = dictDefault key then Assoc.del s.vars key else Assoc.put s.vars key v }

end Sys2Proof.Machine
end

