-- ==== Sys2Proof/Machine/Rainflow.lean ====
section
/-!
DEFINITION. Sys2Proof/Machine/Rainflow.lean: the cycle counter block of a drive die (R564-R566).
-/

namespace Sys2Proof.Machine

/-- The cycle counter of local port `j`. -/
def State.cyc (s : State) (d j : Nat) : CycleCounter := vget s.cycles (7 * d + j)

/-- Change it. -/
def State.modCyc (s : State) (d j : Nat) (f : CycleCounter → CycleCounter) : State :=
  { s with cycles := vmod s.cycles (7 * d + j) f }

/-- The rainflow cell of a range and of twice a mean (R564): the mean of two reversals may be a half. -/
def State.rainCell (s : State) (d : Nat) (range : Nat) (mean2 : Int) : Nat :=
  let rbin := max 1 (s.get (CYC.RF0_RF_RBIN d))
  let mbin := max 1 (s.get (CYC.RF1_RF_MBIN d))
  let m := (mean2 - 2 * s.getS (CYC.RF1_RF_MBASE d)) / (2 * (mbin : Int))
  16 * min (range / rbin) 15 + (max 0 (min 15 m)).toNat

/-- Add half-cycles to a cell; a counter that saturates sets RF_SAT (R566). -/
def State.countCycle (s : State) (d j : Nat) (a b : Int) (k : Nat) : State :=
  let cell := s.rainCell d (a - b).natAbs (a + b)
  let was := (Assoc.get (s.cyc d j).cells cell).getD 0
  let s := if 2 ^ 32 ≤ was + k then s.setBit (CYC.RFSTAT_RF_SAT d) j true else s
  s.modCyc d j (fun c => { c with cells := Assoc.put c.cells cell (min (was + k) (2 ^ 32 - 1)) })

/-- Remove closed cycles from the stack, newest first (the while of R564); `fuel` bounds the passes by the depth. -/
def State.closeCycles (s : State) (d j : Nat) : Nat → State
  | 0 => s
  | fuel + 1 =>
    match (s.cyc d j).stack with
    | a :: b :: c :: e :: r =>
      if (b - c).natAbs ≤ (a - b).natAbs ∧ (b - c).natAbs ≤ (c - e).natAbs then
        ((s.countCycle d j b c 2).modCyc d j (fun x => { x with stack := a :: e :: r })).closeCycles d j fuel
      else s
    | _ => s

/-- Push a reversal (R564, R565). -/
def State.pushReversal (s : State) (d j : Nat) (x : Int) : State :=
  let st := (s.cyc d j).stack
  let s := if st.length < 32 then s else
    match st.reverse with
    | a :: b :: _ => ((s.countCycle d j a b 1).modCyc d j (fun c => { c with stack := c.stack.dropLast })).setBit (CYC.RFSTAT_RF_OVF d) j true
    | _ => s
  let s := s.modCyc d j (fun c => { c with stack := x :: c.stack })
  let s := s.closeCycles d j 16
  s.set (CYC.DEPTH_DEPTH d j) (s.cyc d j).stack.length

/-- The half-cycles of a stack's adjacent pairs (R565). -/
def State.countPairs (s : State) (d j : Nat) : List Int → State
  | a :: b :: r => (s.countCycle d j a b 1).countPairs d j (b :: r)
  | _ => s

/-- The stack at a controlled stop: each adjacent pair is a half-cycle, and it is cleared (R565). -/
def State.flushStack (s : State) (d j : Nat) : State :=
  ((s.countPairs d j (s.cyc d j).stack).modCyc d j (fun c => { c with stack := [] })).set (CYC.DEPTH_DEPTH d j) 0

/-- A delivered THERMj (R564). -/
def State.rainflow (s : State) (d j : Nat) (x : Int) : State :=
  let h : Int := max 1 (s.get (CYC.RF0_RF_HYST d))
  let c := s.cyc d j
  match c.e with
  | none => s.modCyc d j (fun c => { c with e := some x, dir := 0 })
  | some e =>
    let turn (dir : Int) : State := (s.pushReversal d j e).modCyc d j (fun c => { c with e := some x, dir := dir })
    let go : State := s.modCyc d j (fun c => { c with e := some x })
    if c.dir = 0 then (if h ≤ x - e then turn 1 else if h ≤ e - x then turn (-1) else s)
    else if c.dir = 1 then (if e < x then go else if h ≤ e - x then turn (-1) else s)
    else (if x < e then go else if h ≤ x - e then turn 1 else s)

end Sys2Proof.Machine
end

