-- ==== Sys2Proof/Machine/Outputs.lean ====
section
/-!
DEFINITION. Sys2Proof/Machine/Outputs.lean: the outputs of a port (turning them on and off, the cuff, the switching count)
and the grid block that suppresses them, with the vote it depends on (chapters 5 and 8).
-/

namespace Sys2Proof.Machine

/-! ### Cuffed comparators (R146-R149) -/

/-- Is comparator `i` mapped in trip group `k` of the die? -/
def State.cmpMapped (s : State) (d k i : Nat) : Bool := s.bit (TRIP.SRCMASK_CMP d k) i

/-- INSEL in force: as latched while EN = 1, as written otherwise (R200). -/
def State.cmpInsel (s : State) (d i : Nat) : Nat :=
  if s.flag (CMP.CCFG_EN d i) then (s.cmp d i).insel else s.get (CMP.CCFG_INSEL d i)

/-- R148: CUFF above 0, a port, and its PARTNER mapped in the same group with CUFF = 0 and the same input selection in force.  A comparator
mapped in both groups of its die has one bit CUFF_OK, so the model asks that its PARTNER be mapped in both (DESIGN CHOICE, assumption 62). -/
def State.cuffed (s : State) (d i : Nat) : Bool :=
  let q := s.get (TRIP.CSRC_PARTNER d i)
  decide (0 < s.get (TRIP.CSRC_CUFF d i)) && decide (s.get (TRIP.CSRC_PORT d i) ≠ 7)
  && decide (s.get (TRIP.CSRC_CUFF d q) = 0)
  && decide (s.cmpInsel d i = s.cmpInsel d q)
  && (s.cmpMapped d 0 i || s.cmpMapped d 1 i)
  && (!s.cmpMapped d 0 i || s.cmpMapped d 0 q) && (!s.cmpMapped d 1 i || s.cmpMapped d 1 q)

/-- CUFF_OK shows whether the cuff of each comparator of the die is in force (R148).  Called after every write that
bears on it. -/
def State.refreshCuffs (s : State) (d : Nat) : State :=
  foldOver (List.range 16) (fun i t => t.showB (TRIP.CSRC_CUFF_OK d i) (t.cuffed d i)) s

/-- The ticks that a cuff lasts: a CUFF above 800 acts as 800 (R147). -/
def State.cuffTicks (s : State) (d i : Nat) : Nat := min 800 (s.get (TRIP.CSRC_CUFF d i))

/-- The comparators that an output edge of local port `j` blanks (R146). -/
def State.cuffsOf (s : State) (d j : Nat) : List Nat :=
  (List.range 16).filter (fun i => decide (s.get (TRIP.CSRC_PORT d i) = j) && s.cuffed d i)

/-- An output edge of a port begins, or restarts, the cuff of every cuffed comparator that names the port (R146): at once, or with the next
tick for an edge that lies in it (`next`). -/
def State.outputEdge (s : State) (d j : Nat) (next : Bool) : State :=
  let l := s.cuffsOf d j
  if next then s.modDrive d (fun x => { x with cuffNext := l.foldl (fun m i => m ||| 2 ^ i) x.cuffNext })
  else s.modDrive d (fun x => { x with cuffs := l.foldl (fun v i => vset v i (s.cuffTicks d i)) x.cuffs })

/-! ### Outputs -/

/-- Does the port hold the chopper role (PCFG.CHOP_EN)?  An auxiliary port has no PCFG. -/
def State.chopperRole (s : State) (d j : Nat) : Bool := decide (j < 6) && s.flag (PORT.PCFG_CHOP_EN d j)

/-- The output whose turn-ons R563 counts: GH, the chopper's own output, AHG. -/
def State.countedSide (s : State) (d j : Nat) : Bool :=
  if s.chopperRole d j then !s.flag (PORT.PCFG_CHOP_SIDE d j) else true

/-- Is the output the one that the chopper switches (R169)? -/
def State.chopperSide (s : State) (d j : Nat) (high : Bool) : Bool :=
  s.chopperRole d j && decide (high = !s.flag (PORT.PCFG_CHOP_SIDE d j))

/-- Is the STO branch of the die asserted (SFN.NET)? -/
def State.stoBranch (s : State) (d : Nat) : Bool := s.bit SFN.SFSTAT_NET d

/-- One output of a port is off, from the next tick on for `next`: the ticks since its change, CHOP_ON of a chopper, the cuffs (R146). -/
def State.outputOff (s : State) (d j : Nat) (high next : Bool) : State :=
  let t := if s.chopperSide d j high then s.setB (PORT.CHOP_STAT_CHOP_ON d j) false else s
  (t.modPort d j (fun p => if high then { p with gh := false, sinceH := 0 } else { p with gl := false, sinceL := 0 })).outputEdge d j next

/-- Turn one output of a port off (`high`: GH, otherwise GL), with the edge in the present tick or in the next one.  Turning off what is off is
no edge.  A die that is halted or without a clock holds its outputs (R119); the turn-off is then made when it runs again. -/
def State.turnOffIn (s : State) (d j : Nat) (high next : Bool) : State :=
  let p := s.port d j
  if !(if high then p.gh else p.gl) then s
  else if !s.dieRuns d then s.modPort d j (fun p => { p with dueOff := p.dueOff ||| (if high then 2 else 1) })
  else s.outputOff d j high next

/-- Turn one output off in the present tick. -/
def State.turnOff (s : State) (d j : Nat) (high : Bool) : State := s.turnOffIn d j high false

/-- Turn one output of a port on, unless the STO branch (R121), the grid block (R257) or a frozen die (R119) suppresses it; a turn-on of the
counted output is counted (R563, R566). -/
def State.turnOn (s : State) (d j : Nat) (high : Bool) : State :=
  let p := s.port d j
  if !s.dieRuns d || p.blocked || s.stoBranch d then s
  else if (if high then p.gh else p.gl) then s
  else
    let c := if s.countedSide d j = high then 1 else 0
    let t := if s.chopperSide d j high then s.setB (PORT.CHOP_STAT_CHOP_ON d j) true else s
    let t := if 2 ^ 32 ≤ p.switches + c then t.setBit (CYC.RFSTAT_RF_SAT d) j true else t
    (t.modPort d j (fun p => { p with
      gh := p.gh || high, gl := p.gl || !high, switches := min (p.switches + c) (2 ^ 32 - 1)
      sinceH := if high then 0 else p.sinceH, sinceL := if high then p.sinceL else 0 })).outputEdge d j false

/-- Turn both outputs off, in the present tick or the next one, and drop a turn-on that waits. -/
def State.bothOffIn (s : State) (d j : Nat) (next : Bool) : State :=
  (((s.turnOffIn d j true next).turnOffIn d j false next)).modPort d j (fun p => { p with pendOn := none, ascWait := none })

/-- Turn both outputs off in the present tick. -/
def State.bothOff (s : State) (d j : Nat) : State := s.bothOffIn d j false

/-- What a gate output shows at its balls (R125, R606). -/
inductive GateLevel where
  | highZ | off | on
deriving DecidableEq, Repr

/-- An output has no supply to drive from while VDD18 is below its falling threshold. -/
def State.gateLevel (s : State) (d j : Nat) (high : Bool) : GateLevel :=
  if !s.power.vdd18 then .highZ else if (if high then (s.port d j).gh else (s.port d j).gl) then .on else .off

/-- The trip group of a local port (R134): its number on the die. -/
def State.tgOf (s : State) (d j : Nat) : Nat := if s.bit (TRIP.MEMBERS_MEMB1 d) j then 1 else 0

/-! ### The grid block and the vote (R257-R259, R290, R298) -/

/-- The grid port of a die. -/
def State.grid (s : State) (d : Nat) : GridDie := vget s.grids d

/-- Change it. -/
def State.modGrid (s : State) (d : Nat) (f : GridDie → GridDie) : State := { s with grids := vmod s.grids d f }

/-- The member ports: GP(6d)-GP(6d+2) for bridge 2d, GP(6d+3)-GP(6d+5) for bridge 2d+1 (R252, R253). -/
def State.gridPorts (s : State) (d : Nat) : List Nat :=
  (bitsOf 2 (s.get (GSU.GCFG_BRIDGES d))).flatMap (fun b => [3 * b, 3 * b + 1, 3 * b + 2])

/-- Is bridge `b` of the die out of the grid port: a trip group of its ports tripped, its CLE or its die retired (R298)? -/
def State.bridgeOut (s : State) (d b : Nat) : Bool :=
  [3 * b, 3 * b + 1, 3 * b + 2].any (fun j => s.flag (TRIP.TGSTAT_TRIPPED d (s.tgOf d j)))
  || s.flag (CLE.FLAGS_RETIRED d b) || (vget s.drives d).retired

/-- A bridge leaves an enabled grid port for good, with its CLE or its die: the member's retirement is recorded (R25, R298, R568). -/
def State.recordMember (s : State) (d b : Nat) : State :=
  if s.flag (GSU.GCFG_GRID_EN d) && s.bit (GSU.GCFG_BRIDGES d) b then s.recordRetire .gridMember (Die.drive d) b else s

/-- Does the die vote OUT (R290)? -/
def State.votesOut (s : State) (d : Nat) : Bool :=
  s.flag (GSU.GSTAT_GSU_FAIL d) || (bitsOf 2 (s.get (GSU.GCFG_BRIDGES d))).all (fun b => s.bridgeOut d b)

/-- The reconnection count restarts (R293). -/
def State.rcRestart (s : State) (d : Nat) : State :=
  ((s.set (RTS.RC_SEC_RC_SEC d) 0).setB (RTS.RTSTAT_RC_READY d) false).modGrid d (fun g => { g with rcCycles := 0, rcFailed := true })

/-- The vote of the die takes a value (0 OUT, 1 CLOSE, 2 OPEN); a change to OPEN restarts the reconnection count. -/
def State.setVote (s : State) (d v : Nat) : State :=
  if s.get (RTS.RTSTAT_VOTE d) = v then s
  else
    let s := s.set (RTS.RTSTAT_VOTE d) v
    if v = 2 then s.rcRestart d else s

/-- OUT while its conditions hold; a die leaving OUT votes OPEN (R290). -/
def State.refreshVote (s : State) (d : Nat) : State :=
  if !s.flag (GSU.GCFG_GRID_EN d) then s
  else if s.votesOut d then s.setVote d 0
  else if s.get (RTS.RTSTAT_VOTE d) = 0 then s.setVote d 2
  else s

/-- The region the die acts by: MAY as MAND, CEASE or TRIP by MAY_ACT (R274). -/
def State.actRegion (s : State) (d : Nat) : Nat :=
  if s.get (RTS.RTSTAT_REGION d) = 2 then
    (match s.get (RTS.RTCFG_MAY_ACT d) with | 0 => 1 | 1 => 3 | _ => 4)
  else s.get (RTS.RTSTAT_REGION d)

/-- R259: does a condition of the grid block hold? -/
def State.blockWanted (s : State) (d : Nat) : Bool :=
  s.flag (GSU.GCFG_GRID_EN d) &&
    (decide (3 ≤ s.actRegion d) || (s.grid d).jumpCease || s.flag (RTS.RTSTAT_TRIPPED d) || s.flag (GSU.GSTAT_ISLAND d)
      || !s.flag (GSU.GSTAT_LOCKED d) || !s.flag (RTS.RTSTAT_GCON_CLOSED d) || decide (s.get (RTS.RTSTAT_VOTE d) ≠ 1)
      || (s.grid d).discon)

/-- Assert or release the block (R257, R259): asserted, it turns both outputs of every member port off in the next tick and suppresses
turn-ons; after a release each port waits for its own next command edge. -/
def State.refreshBlock (s : State) (d : Nat) : State :=
  let want := s.blockWanted d
  let ports := s.gridPorts d
  let s := s.setB (GSU.GSTAT_BLOCK d) want
  let s := if want then s.modGrid d (fun g => { g with voidWin := true, blockSeen := true }) else s
  foldOver (List.range 7) (fun j t =>
    let b := want && decide (j ∈ ports)
    let t := if b && !(t.port d j).blocked then ((t.turnOffIn d j true true).turnOffIn d j false true).modPort d j (fun p => { p with pendOn := none }) else t
    t.modPort d j (fun p => { p with blocked := b })) s

/-- Vote, then block. -/
def State.refreshGrid (s : State) (d : Nat) : State := (s.refreshVote d).refreshBlock d

end Sys2Proof.Machine
end

