-- ==== Sys2Proof/Machine/Ports.lean ====
section
/-!
DEFINITION. Sys2Proof/Machine/Ports.lean: the trip groups (chapter 5) as shared operations: the mapped sources, a trip,
its safe states, a clear.
-/

namespace Sys2Proof.Machine

/-! ### Trip sources (R136) -/

/-- The local ports of a trip group. -/
def State.tgPorts (s : State) (d k : Nat) : List Nat := (List.range 7).filter (fun j => s.tgOf d j = k)

/-- Does the group select the over-voltage and chopper scheme?  SUP_SEL = 0 acts as 0b10 (R166). -/
def State.selectsOv (s : State) (d k : Nat) : Bool := s.bit (TRIP.TGCFG_SUP_SEL d k) 0

/-- Does the group select under-voltage lock-out (R166)? -/
def State.selectsUvlo (s : State) (d k : Nat) : Bool :=
  s.bit (TRIP.TGCFG_SUP_SEL d k) 1 || decide (s.get (TRIP.TGCFG_SUP_SEL d k) = 0)

/-- Does a fault code trip the port's group (R127, R132, R167)? -/
def State.codeTrips (s : State) (d k code : Nat) : Bool :=
  match code with
  | 1 | 3 | 5 | 6 | 7 => true
  | 2 | 4 => s.selectsUvlo d k
  | _ => false

/-- The trip source of a comparator (R149, R205): a cuffed one gives OUT outside its cuff, any other LAT or OUT; a retired
one is active as long as it is retired (R591), one with EN = 0 never is (R203); under a check the source holds (R209). -/
def State.cmpTrips (s : State) (d i : Nat) : Bool :=
  if (s.cmp d i).retired then true
  else if !s.flag (CMP.CCFG_EN d i) then false
  else if s.flag (CMP.CSTAT_CHK_ACT d i) then (s.cmp d i).heldTrip
  else if s.cuffed d i then s.flag (CMP.CSTAT_OUT d i) && decide (vget (vget s.drives d).cuffs i = 0)
  else if s.flag (CMP.CCFG_TRIP_LAT d i) then s.flag (CMP.CSTAT_LAT d i) else s.flag (CMP.CSTAT_OUT d i)

/-- Is source `n` of the die active now, for group `k` (R136)? -/
def State.sourceActive (s : State) (d k n : Nat) : Bool :=
  if n < 0x10 then s.cmpTrips d n
  else if n < 0x16 then s.codeTrips d k (s.get (PORT.FLTSTAT_FLT_CODE d (n - 0x10)))
  else if n = 0x16 then s.flag (APB.APSTAT_AP_BOOT_UV d) && s.selectsUvlo d k
  else if n < 0x18 then false
  else if n < 0x1C then (vget s.drives d).tripIn.testBit (n - 0x18)
  else if n < 0x1E then s.flag (CLE.FLAGS_CLE_OVERRUN d (n - 0x1C))
  else if n = 0x1E then s.flag (REGCTL.PAR_STAT_CFG_PARITY (Die.drive d))
  else if n = 0x1F then s.stoBranch d
  else false

/-- The mapped sources active now, as the word SRC_ACT shows. -/
def State.activeSources (s : State) (d k : Nat) : Nat :=
  ((bitsOf 32 (s.reg (TRIP.SRCMASK d k)).toNat).filter (fun n => s.sourceActive d k n)).foldl (fun m n => m ||| 2 ^ n) 0

/-- The associated port of a source, 7 for none (R153). -/
def State.sourcePort (s : State) (d n : Nat) : Nat :=
  if n < 0x10 then s.get (TRIP.CSRC_PORT d n) else if n < 0x17 then n - 0x10 else 7

/-- The conditions of R619 that hold for a group: SAFE = 3, SUP_SEL = 0, each mapped comparator with CUFF above 0 that is
not cuffed (bits 2-17), each member port in the chopper role without the over-voltage scheme (bits 18-23). -/
def State.cfgConds (s : State) (d k : Nat) : Nat :=
  (if s.get (TRIP.TGCFG_SAFE d k) = 3 then 1 else 0)
  ||| (if s.get (TRIP.TGCFG_SUP_SEL d k) = 0 then 2 else 0)
  ||| ((bitsOf 16 (s.get (TRIP.SRCMASK_CMP d k))).filter
        (fun i => decide (0 < s.get (TRIP.CSRC_CUFF d i)) && !s.cuffed d i)).foldl (fun m i => m ||| 2 ^ (i + 2)) 0
  ||| ((s.tgPorts d k).filter (fun j => s.chopperRole d j && !s.selectsOv d k)).foldl (fun m j => m ||| 2 ^ (j + 18)) 0

/-- TG_CFG_ERR is set when a condition of R619 begins to hold. -/
def State.refreshCfgErr (s : State) (d k : Nat) : State :=
  let now := s.cfgConds d k
  let was := (vget s.tgs (2 * d + k)).cfgConds
  let t := s.modTg d k (fun g => { g with cfgConds := now })
  if (List.range 24).any (fun i => now.testBit i && !was.testBit i) then t.setB (TRIP.TGSTAT_TG_CFG_ERR d k) true else t

/-! ### Safe states (R141-R145, R171, R175) -/

/-- Does a cause of R143 force OPEN on a port that is neither the auxiliary port nor in the chopper role?  The two sources that stand behind
it whatever the mapping are STO and, for the chopper, configuration parity (R171). -/
def State.forcedOpen (s : State) (d k j act : Nat) : Bool :=
  s.sourceActive d k 0x1F
  || decide (s.get (PORT.PMODE_PMODE d j) = 0) || (s.groupOf d j).isNone
  || (bitsOf 16 act).any (fun i => s.flag (TRIP.CSRC_FORCE_OPEN d i))
  || (s.flag (TRIP.TGCFG_FLT_SC_OPEN d k) && (s.tgPorts d k).any (fun q =>
      decide (q < 6) && (decide (s.get (PORT.FLTSTAT_FLT_CODE d q) = 1) || decide (s.get (PORT.FLTSTAT_FLT_CODE d q) = 7))))

/-- R171: may a chopper port of a tripped group go on by R169?  Without the over-voltage scheme it stays off meanwhile (R168). -/
def State.chopsInTrip (s : State) (d k j : Nat) : Bool :=
  s.flag (PORT.PCFG_CHOP_IN_TRIP d j) && !s.sourceActive d k 0x1F && !s.sourceActive d k 0x1E
    && decide (s.get (PORT.FLTSTAT_FLT_CODE d j) = 0)

/-- R175: what a tripped group's auxiliary port takes. -/
def State.auxTarget (s : State) (d act : Nat) : PortSafe :=
  if s.flag (APB.APSTAT_AP_BOOT_UV d) && decide (act &&& (2 ^ 32 - 1 - 2 ^ 0x16) = 0) then .auxLow else .opened

/-- The safe state a trip gives a member port, by the sources active now (R141, R143, R171, R175). -/
def State.safeTarget (s : State) (d k j act : Nat) : PortSafe :=
  if j = 6 then s.auxTarget d act
  else if s.chopperRole d j then (if s.chopsInTrip d k j then .chopper else .opened)
  else if s.forcedOpen d k j act then .opened
  else match s.get (TRIP.TGCFG_SAFE d k) with
    | 1 => .ascLow
    | 2 => .ascHigh
    | _ => .opened

/-- The ASC interval max(T_dt, 8 ticks) in taps, from the tick after the trip tick (R142). -/
def State.ascInterval (s : State) (d j : Nat) (high : Bool) : Nat :=
  max (8 * 64) (s.reg (if high then PORT.ACT_DT_RISE d j else PORT.ACT_DT_FALL d j)).toNat

/-- The short-side turn-on of an ASC: none where the output is on already (R142). -/
def State.ascTurnOn (s : State) (d j : Nat) (high : Bool) : Option TurnOn :=
  if (if high then (s.port d j).gh else (s.port d j).gl) then none
  else some ⟨high, 1 + s.ascInterval d j high / 64, s.ascInterval d j high % 64⟩

/-- Put a port into a safe state: every output it requires off goes off in the next tick, a dead time that ran ends without its turn-on
(R151), a short-side output that is on stays on and one that is off waits for the ASC interval (R142).  The rule of the auxiliary port names
no dead time between AHG off and ALG on, and the model puts none (R175; DESIGN CHOICE, assumption 64). -/
def State.enterSafe (s : State) (d j : Nat) (t : PortSafe) : State :=
  let s := s.modPort d j (fun p => { p with pendOn := none, ascWait := none, safe := t, held := false, refresh := 0 })
  let s := if j = 6 then s.setB (APB.APSTAT_REF_ACT d) false else s
  match t with
  | .ascLow =>
    let w := s.ascTurnOn d j false
    (s.turnOffIn d j true true).modPort d j (fun p => { p with ascWait := w })
  | .ascHigh =>
    let w := s.ascTurnOn d j true
    (s.turnOffIn d j false true).modPort d j (fun p => { p with ascWait := w })
  | .auxLow => (s.turnOffIn d j true true).turnOn d j false
  | .chopper | .none => s
  | .opened => (s.turnOffIn d j true true).turnOffIn d j false true

/-- Is a port in an active short circuit, held after a clear included (R150, R163)? -/
def PortSafe.isAsc : PortSafe → Bool
  | .ascLow | .ascHigh => true
  | _ => false

/-- ASC_ACT: at least one member port is in ASC. -/
def State.refreshAsc (s : State) (d k : Nat) : State :=
  s.setB (TRIP.TGSTAT_ASC_ACT d k) ((s.tgPorts d k).any (fun j => (s.port d j).safe.isAsc))

/-- The safe state a port of a tripped group takes now: fixed at the trip tick (R145), but OPEN when a cause of R143 or R171 appears
(R144), and the auxiliary port's as R175 states at every moment. -/
def State.safeNow (s : State) (d k j act : Nat) : PortSafe :=
  let p := (s.port d j).safe
  if j = 6 then s.auxTarget d act
  else if p = .chopper then (if s.chopsInTrip d k j then p else .opened)
  else if p.isAsc && s.forcedOpen d k j act then .opened
  else p

/-- Bring the ports of a tripped group to the safe states they take now. -/
def State.recheckSafe (s : State) (d k act : Nat) : State :=
  (foldOver (s.tgPorts d k) (fun j t =>
    let now := t.safeNow d k j act
    if now = (t.port d j).safe then t else t.enterSafe d j now) s).refreshAsc d k

/-- Bring SRC_ACT, TG_CFG_ERR and the ports of a tripped group up to date for one group of the die.  The turn-offs of ports that change to
OPEN lie in the next tick (R144), and so do the cuffs that they begin.  A die whose clock is stopped evaluates nothing (R119). -/
def State.refreshGroup (s : State) (d k : Nat) : State :=
  let act := s.activeSources d k
  let s := (s.setReg (TRIP.SRCACT d k) (BitVec.ofNat 32 act)).refreshCfgErr d k
  if s.flag (TRIP.TGSTAT_TRIPPED d k) then s.recheckSafe d k act else s

/-- The same for both groups of the die. -/
def State.refreshTrips (s : State) (d : Nat) : State :=
  if (vget s.drives d).clockStopped then s else (s.refreshGroup d 0).refreshGroup d 1

/-! ### A trip (R137, R140, R152) -/

/-- The sources of a trip tick in the order of the first-cause entries: those with a port by port and number, then the
others by number (R152). -/
def State.causeOrder (s : State) (d act : Nat) : List Nat :=
  (List.range 8).flatMap (fun p => (bitsOf 32 act).filter (fun n => s.sourcePort d n = p))

/-- First-cause entry `i` of a record. -/
def State.writeCause (s : State) (d k : Nat) (order : List Nat) (i : Nat) : State :=
  match order[i]? with
  | some n => s.setReg (TRIP.FCENT d k i) (BitVec.ofNat 32 (2 ^ 31 + 256 * n + s.sourcePort d n))
  | none => s.setReg (TRIP.FCENT d k i) 7

/-- The first-cause record of a trip tick (R152-R154). -/
def State.recordCauses (s : State) (d k act : Nat) : State :=
  let order := s.causeOrder d act
  let t := s.setReg (TRIP.FCVEC d k) (BitVec.ofNat 32 act)
  let t := (t.set (TRIP.FCTIME_LO_FCT_LO d k) (s.ttime d)).set (TRIP.FCTIME_HI_FCT_HI d k) (s.ttime d / 2 ^ 32)
  let t := (t.set (TRIP.TGSTAT_FC_NUM d k) (min order.length 255)).setB (TRIP.TGSTAT_FC_OVF d k) (decide (8 < order.length))
  foldOver (List.range 8) (fun i u => u.writeCause d k order i) t

/-- A group trips by the mapped sources `act` of the trip tick: the record, the count, the event to both command dies and N, the
fault-history entry, the safe state of every member port. -/
def State.trip (s : State) (d k act : Nat) : State :=
  let s := s.setReg (TRIP.SRCACT d k) (BitVec.ofNat 32 act)
  let s := (s.setB (TRIP.TGSTAT_TRIPPED d k) true).recordCauses d k act
  let s := s.incSat (TRIP.TGSTAT_TRIP_CNT d k)
  let s := s.send ⟨.tripEvent, (Die.drive d).code, [2 * d + k, act, s.ttime d]⟩
  let s := (s.countEvent (.trip (Fin.ofNat 8 (2 * d + k)))).enterFault 1 (Die.drive d).code (2 * d + k) act (s.get (TRIP.FCTIME_LO_FCT_LO d k))
  ((foldOver (s.tgPorts d k) (fun j t => t.enterSafe d j (t.safeTarget d k j act)) s).refreshAsc d k).refreshGrid d

/-- The sources by which a group trips in this tick: none for a group that is tripped already or whose die has no clock (R137, R119). -/
def State.tripCause (s : State) (d k : Nat) : Nat :=
  if s.flag (TRIP.TGSTAT_TRIPPED d k) || (vget s.drives d).clockStopped then 0 else s.activeSources d k

/-- R137, R154: both groups of a die are judged by the sources of the same tick; the turn-offs that one trip forces lie in the next tick
(R142) and blank nothing in this one. -/
def State.tripDie (s : State) (d : Nat) : State :=
  let a := s.tripCause d 0
  let b := s.tripCause d 1
  let t := if a = 0 then s else s.trip d 0 a
  let t := if b = 0 then t else t.trip d 1 b
  if a = 0 ∧ b = 0 then t else t.refreshTrips d

/-! ### Clearing (R160, R163) -/

/-- A clear attempt: refused with TRIP_CLR_REJ while a source is active or a used FLTn of a member is low; otherwise the
group is cleared and its ports keep their safe states, an ASC interval that runs included, until their own next command edge (R150); a
chopper port, which has none, is free at once (R169). -/
def State.clearAttempt (s : State) (d k : Nat) : State :=
  if !s.flag (TRIP.TGSTAT_TRIPPED d k) then s
  else if decide (s.activeSources d k ≠ 0) || (s.tgPorts d k).any (fun j =>
      decide (j < 6) && s.flag (PORT.PCFG_FLT_USE d j) && !s.flag (PORT.FLTSTAT_FLT_LINE d j)) then
    s.setB (TRIP.TGSTAT_TRIP_CLR_REJ d k) true
  else
    (foldOver (s.tgPorts d k) (fun j t =>
      if t.chopperRole d j then t.modPort d j (fun p => { p with held := false, safe := .none })
      else t.modPort d j (fun p => { p with held := true }))
      (s.setB (TRIP.TGSTAT_TRIPPED d k) false)).refreshGrid d

/-- Is the port driven by the generator now: no safe state, held or in force? -/
def State.follows (s : State) (d j : Nat) : Bool := decide ((s.port d j).safe = .none)

end Sys2Proof.Machine
end

