-- ==== Sys2Proof/Machine/Pwm.lean ====
section
/-!
DEFINITION. Sys2Proof/Machine/Pwm.lean: the PWM generator (chapter 4): enabling and starting a group, the shadow transfer,
command edges and dead times, the delay monitor, and hopping back to SLOT0, which a boundary or a stop may bring about.
-/

namespace Sys2Proof.Machine

/-! ### The timebase at SLOT0 (R73, R616) -/

/-- Does a divider word lie within 380-420 MHz: 25 MHz x (INT + FRAC / 2^24) / 8 (R616, R69)? -/
def slotInRange (w : Nat) : Bool := decide (1216 * 2 ^ 24 ≤ 10 * w) && decide (10 * w ≤ 1344 * 2 ^ 24)

/-- The hop factor of a divider word: round(2^22 / (INT + FRAC / 2^24)) (R73). -/
def hopFactor (w : Nat) : Nat := if w = 0 then 0 else (2 ^ 47 + w) / (2 * w)

/-- The word a drive die runs at SLOT0: SLOT0 as written, or the nominal word in its place (R616). -/
def State.slot0Word (s : State) (d : Nat) : Nat :=
  let w := (s.reg (CLK.SLOT (Die.drive d) 0)).toNat
  if slotInRange w then w else 0x80000000

/-- The timebase runs at SLOT0: slot, factors, SLOT0_SUB (R616), hopping not active. -/
def State.runAtSlot0 (s : State) (d : Nat) : State :=
  let e := Die.drive d
  let w := s.slot0Word d
  let s := (s.set (CLK.PLL_STAT_SLOT_NOW e) 0).setB (CLK.HOP_FLAG_HOP_ACTIVE e) false
  let s := (s.set (CLK.HOP_STAT_HOP_NOW e) (hopFactor w)).set (CLK.HOP_STAT_HOP_NEXT e) (hopFactor w)
  (s.set (CLK.HOP_FLAG_SLOT_NEXT e) 0).setB (CLK.HOP_FLAG_SLOT0_SUB e) (!slotInRange (s.reg (CLK.SLOT e 0)).toNat)

/-- The return to SLOT0 that clearing HOP_EN schedules (R74); lock evaluation is suspended as after a hop (R72).  A list latched meanwhile
stays latched. -/
def State.hopReturn (s : State) (d : Nat) : State :=
  let s := if s.get (CLK.PLL_STAT_SLOT_NOW (Die.drive d)) = 0 then s
           else { s with plls := vmod s.plls (Die.drive d).code (fun p => { p with settling := true }) }
  let s := s.runAtSlot0 d
  { s with hops := vmod s.hops d (fun h => { h with active := false, returning := false, last := 0 }) }

/-- The hop-master group of the die starts: the LFSR is seeded and i_0 is 0 (R71); the timebase stays where it is until a hop boundary. -/
def State.seedHops (s : State) (d : Nat) : State :=
  let q := s.get (CLK.HOP_CFG_HOP_SEED (Die.drive d))
  { s with hops := vmod s.hops d (fun h =>
      let seed := if h.latched then h.seed else q
      { h with lfsr := if seed = 0 then 0xACE1 else seed, last := 0 }) }

/-- The hop schedule of a drive die. -/
def State.hop (s : State) (d : Nat) : Hop := vget s.hops d

/-- Change it. -/
def State.modHop (s : State) (d : Nat) (f : Hop → Hop) : State := { s with hops := vmod s.hops d f }

/-- The length of the latched list (R70). -/
def Hop.n (h : Hop) : Nat := min 8 h.len

/-- HOP_DIV in force: as latched, as written before; 0 means 256 (R71). -/
def State.hopDiv (s : State) (d : Nat) : Nat :=
  let v := if (s.hop d).latched then (s.hop d).div else s.get (CLK.HOP_CFG_HOP_DIV (Die.drive d))
  if v = 0 then 256 else v

/-- The carrier periods that the hop-master group has ended since its own start (R71); where the hop-master group stops and another one takes
its part, the count is the other's and the LFSR goes on from where it stands (DEDUCED, assumption 19). -/
def State.hopCarriers (s : State) (d : Nat) : Nat :=
  match s.hopMaster d with
  | some k => (s.grp d k).carriers
  | none => 0

/-- The carrier count of the hop-master group whose hop boundary has been taken. -/
def State.hopTaken (s : State) (d : Nat) : Nat :=
  match s.hopMaster d with
  | some k => (s.grp d k).hopTaken
  | none => 0

/-- One step of the LFSR (R71). -/
def lfsrStep (x : Nat) : Nat :=
  let b := (x >>> 15 ^^^ x >>> 13 ^^^ x >>> 12 ^^^ x >>> 10) % 2
  (2 * x + b) % 65536

/-- The schedule after hop boundary `k` (R71). -/
def Hop.step (h : Hop) (k : Nat) : Hop :=
  let l := lfsrStep h.lfsr
  let r := l % h.n
  let hops := h.latched && decide (2 ≤ h.n)
  let i := if h.mode = 0 then k % h.n else if r ≠ h.last then r else (r + 1) % h.n
  { h with lfsr := l, active := hops, last := if hops then i else 0, word := if hops then vget h.slots i else h.word }

/-- Does a hop boundary lie at the end of carrier period `c`, when those up to `taken` have been taken (R71)? -/
def State.hopDue (s : State) (d c taken : Nat) : Bool := decide (c ≠ 0) && decide (c % s.hopDiv d = 0) && decide (taken < c)

/-- The schedule once the carrier period with number `c` has ended. -/
def State.hopAfter (s : State) (d c taken : Nat) (h : Hop) : Hop := if s.hopDue d c taken then h.step (c / s.hopDiv d) else h

/-- The factor that a schedule runs at (R73). -/
def State.hopSlotFactor (s : State) (d : Nat) (h : Hop) : Nat := hopFactor (if h.active then h.word else s.slot0Word d)

/-- The schedule as the present tick leaves it: a hop boundary that lies in it included. -/
def State.hopPresent (s : State) (d : Nat) : Hop := s.hopAfter d (s.hopCarriers d) (s.hopTaken d) (s.hop d)

/-- The schedule when the next `n` carrier periods of the hop-master group have ended after carrier `c`, from the schedule `h`: a return that
waits takes place at the first of these boundaries, before a hop boundary there (R74). -/
def State.hopAhead (s : State) (d : Nat) (h : Hop) (c n : Nat) : Hop :=
  (List.range n).foldl (fun h i =>
    s.hopAfter d (c + i + 1) (c + i) (if h.returning then { h with active := false, returning := false, last := 0 } else h)) h

/-- The ticks of a running group's carrier period that have passed. -/
def State.carrierPos (s : State) (d k : Nat) : Nat :=
  let c := s.get (PWM.CNT_COUNT d k)
  if (s.grp d k).mode = 1 ∧ s.flag (PWM.CNT_DIR d k) then 2 * ((s.grp d k).carrierPer / 2) - c else c

/-- The length of a control period in ticks: by the PER that governs the carrier in progress (R624), whose bit 0 up-down mode ignores. -/
def Group.periodLength (g : Group) : Nat := if g.dbl then g.carrierPer / 2 else g.carrierPer

/-- How many carrier periods of the hop-master group end up to the end of the control period that PG(4d+k) begins in the present tick. -/
def State.carriersAhead (s : State) (d k : Nat) : Nat :=
  match s.hopMaster d with
  | none => 0
  | some m =>
    let left := (s.grp d m).carrierPer - s.carrierPos d m
    let len := (s.grp d k).periodLength
    if len < left then 0 else 1 + (len - left) / max 1 (s.grp d m).aPer

/-- HOP_NEXT of a sample set (R73): the factor of the period in which the outputs of PG(4d+k)'s engines become active, which begins when the
control period does that begins now. -/
def State.hopOut (s : State) (d k : Nat) : Nat :=
  s.hopSlotFactor d (s.hopAhead d (s.hopPresent d) (s.hopCarriers d) (s.carriersAhead d k))

/-- HOP_NOW of what is taken at this tick (R73): the factor of the carrier period that the tick belongs to.  At a hop boundary that is the
new slot's already, which HOP_BOUNDARY shows in HOP_STAT after the control-period boundaries of the tick. -/
def State.hopNow (s : State) (d : Nat) : Nat := s.hopSlotFactor d (s.hopPresent d)

/-- HOP_NEXT and SLOT_NEXT of the CLK block: the factor of the next carrier period, the slot after the next hop; slot 0 where a return waits and
no list is latched (R74). -/
def State.refreshHopNext (s : State) (d : Nat) : State :=
  let h := s.hop d
  let c := s.hopCarriers d
  let back := h.returning && !h.latched
  let next := s.hopSlotFactor d (s.hopAhead d h c 1)
  let s := s.set (CLK.HOP_STAT_HOP_NEXT (Die.drive d)) next
  s.set (CLK.HOP_FLAG_SLOT_NEXT (Die.drive d)) (if back then 0 else (h.step (c / s.hopDiv d + 1)).last)

/-! ### Enabling and disabling a group -/

/-- Is the mode a variable-period mode: one that no CLE can be scheduled by and that ignores WRPT (R94)? -/
def variableMode (m : Nat) : Bool := decide (2 ≤ m)

/-- R84: does the group refuse to start, by its configuration as written? -/
def State.enableRefused (s : State) (d k : Nat) : Bool :=
  let ports := s.get (PWM.GCFG_PORTS d k)
  let others := (List.range 4).filter (fun q => q ≠ k)
  others.any (fun q => (s.grp d q).enabled && decide ((s.grp d q).ports &&& ports ≠ 0))
  || (variableMode (s.get (PWM.GCFG_MODE d k)) && decide (1 < (bitsOf 7 ports).length)
      && others.any (fun q => s.grpRuns d q && variableMode (s.grp d q).mode
          && decide ((s.grp d q).trigSel = s.get (PWM.GCFG_TRIG_SEL d k))))

/-- EN changes from 0 to 1 at a stopped group: it latches its configuration (R83) and waits for its start tick or start
event (R86), or refuses with GRP_CFG_ERR (R84). -/
def State.groupEnable (s : State) (d k : Nat) : State :=
  if s.enableRefused d k then s.setB (PWM.STAT_GRP_CFG_ERR d k) true
  else
    let onEvent := decide (s.get (PWM.GCFG_START_SRC d k) = 1)
    let mode := s.get (PWM.GCFG_MODE d k)
    s.modGrp d k (fun g => { g with
      enabled := true, waiting := onEvent, due := !onEvent, stopping := false
      mode := mode, dbl := s.flag (PWM.GCFG_DBL_UPD d k) && decide (mode = 1), auto := s.flag (PWM.GCFG_COMMIT_MODE d k)
      ports := s.get (PWM.GCFG_PORTS d k), trigSel := s.get (PWM.GCFG_TRIG_SEL d k), trigPol := s.flag (PWM.GCFG_TRIG_POL d k) })

/-- EN changes from 1 to 0: a running group completes its carrier period, a waiting one stops at once (R88). -/
def State.groupDisable (s : State) (d k : Nat) : State :=
  if s.grpRuns d k then s.modGrp d k (fun g => { g with stopping := true })
  else s.modGrp d k (fun g => { g with enabled := false, waiting := false, due := false })

/-- The new content of GCFG is applied: a change of EN enables, disables, or cancels a stop (R83, R88). -/
def State.gcfgApply (s : State) (d k : Nat) (w : Word) : State :=
  let was := s.flag (PWM.GCFG_EN d k)
  let t := s.setReg (PWM.GCFG d k) w
  let now := t.flag (PWM.GCFG_EN d k)
  if was = now then t
  else if now then (if (s.grp d k).stopping then t.modGrp d k (fun g => { g with stopping := false }) else t.groupEnable d k)
  else t.groupDisable d k

/-! ### The shadow transfer (R98-R106) -/

/-- The largest DUTY a transfer lets through, in taps, for a period and MIN_OFF in ticks (R104). -/
def dutyLimit (per minOff : Nat) : Nat := if per ≤ minOff then 0 else 64 * (per - minOff)

/-- The active set takes in one member port; whether its DUTY was clamped. -/
def State.transferPort (s : State) (d k j per : Nat) : State :=
  let duty := (s.reg (PORT.DUTY d j)).toNat
  let lim := dutyLimit per (s.get (PWM.MIN_OFF_MIN_OFF d k))
  let act := min duty lim
  let s := if lim < duty then s.setB (PWM.STAT_SET_CLAMPED d k) true else s
  let s := s.modPort d j (fun p => { p with duty := act })
  let s := s.setReg (PORT.ACT_DUTY d j) (BitVec.ofNat 32 (if j = 6 && s.flag (APB.APSTAT_AP_BOOT_UV d) then 0 else act))
  (s.setReg (PORT.ACT_DT_RISE d j) (s.reg (PORT.DT_RISE d j))).setReg (PORT.ACT_DT_FALL d j) (s.reg (PORT.DT_FALL d j))

/-- R103: PER written since the last transfer and a member's DUTY under another tag; the first such port. -/
def State.splitPort (s : State) (d k : Nat) : Option Nat :=
  if (s.grp d k).perWritten then
    (s.members d k).find? (fun j => s.get (PORT.TAGS_DUTY_TAG d j) ≠ s.get (PWM.STAT_PER_TAG d k))
  else none

/-- Log a split transfer. -/
def State.logSplit (s : State) (d k : Nat) : State :=
  match s.splitPort d k with
  | none => s
  | some j =>
    let s := (s.setB (PWM.STAT_SPLIT_UPDATE d k) true).incSat (PWM.SPLIT_LOG_SPLIT_CNT d k)
    let s := (s.set (PWM.SPLIT_LOG_PORT d k) j).set (PWM.SPLIT_LOG_DUTY_TAG d k) (s.get (PORT.TAGS_DUTY_TAG d j))
    s.set (PWM.SPLIT_LOG_PER_TAG d k) (s.get (PWM.STAT_PER_TAG d k))

/-- The PER that acts: at least 16 ticks (R106), and in up-down mode without bit 0, which the generator ignores (R89). -/
def perActs (mode per : Nat) : Nat := let p := max per 16; if mode = 1 then p - p % 2 else p

/-- A transfer of the shadow set to the active registers (R98): rejected with SET_INVALID when PER is 0 (R105), else
every field as the table of R106 states, a split logged (R103), COMMIT cleared in committed mode (R100). -/
def State.transferSet (s : State) (d k : Nat) : State :=
  let per := s.get (PWM.PER_PER d k)
  if per = 0 then (s.setB (PWM.STAT_SET_INVALID d k) true).setB (PWM.COMMIT_COMMIT d k) false
  else
    let perA := perActs (s.grp d k).mode per
    let phase := s.get (PWM.PHASE_PHASE d k)
    let phaseA := if perA ≤ phase then perA - 1 else phase
    let s := s.logSplit d k
    let s := if per < 16 ∨ phaseA ≠ phase then s.setB (PWM.STAT_SET_CLAMPED d k) true else s
    let s := foldOver (s.members d k) (fun j t => t.transferPort d k j perA) s
    let s := if (s.grp d k).auto then s else s.setB (PWM.COMMIT_COMMIT d k) false
    s.modGrp d k (fun g => { g with aPer := perA, aPhase := phaseA, perWritten := false })

/-- A transfer, with the flag event to both command dies when a flag of STAT [2:0] sets (section "Transfer timing"). -/
def State.transfer (s : State) (d k : Nat) : State :=
  let t := s.transferSet d k
  let was := getBits (s.reg (PWM.STAT d k)) 0 3
  let now := getBits (t.reg (PWM.STAT d k)) 0 3
  if was = now then t else t.event .flagEvent (Die.drive d) [PWM.STAT d k, now]

/-- Does a transfer take place at a boundary: a commit waits, or the group is in auto-commit mode (R100, R102)? -/
def State.transferDue (s : State) (d k : Nat) : Bool := (s.grp d k).auto || s.flag (PWM.COMMIT_COMMIT d k)

/-! ### Static fields at a boundary (R97, R106) -/

/-- The write point that a value of WRPT gives in a control period of `l` ticks (R97). -/
def wrptLimit (l w : Nat) : Nat := if l < 32 then l / 2 else max 16 (min w (l - 16))

/-- The write point in force. -/
def State.wrptActs (s : State) (d k : Nat) : Nat := (s.grp d k).wrpt

/-- The minimum period that a value of PER_MIN gives in the variable modes (R106). -/
def perMinLimit (per w : Nat) : Nat := min (max 16 w) per

/-- The minimum period in force. -/
def State.perMinActs (s : State) (d k : Nat) : Nat := (s.grp d k).perMin

/-- A static field, or PER, is written: its limit is flagged at the first boundary at which the field acts as another value (R97, R106). -/
def State.staticWrite (s : State) (d k : Nat) (wrpt perMin : Bool) : State :=
  s.modGrp d k (fun g => { g with wrptPend := g.wrptPend || wrpt, perMinPend := g.perMinPend || perMin })

/-- A boundary puts the static fields in force and judges those that were written, or limited anew by PER (R97, R106).  A control period
below 32 ticks sets GRP_CFG_ERR whatever WRPT holds. -/
def State.checkStatics (s : State) (d k : Nat) : State :=
  let g := s.grp d k
  let l := g.periodLength
  let w := s.get (PWM.WRPT_WRPT d k)
  let m := s.get (PWM.PER_MIN_PER_MIN d k)
  let s := s.modGrp d k (fun g => { g with wrpt := wrptLimit l w, perMin := perMinLimit g.carrierPer m })
  let s := if !variableMode g.mode && g.wrptPend && (decide (l < 32) || decide (wrptLimit l w ≠ w))
           then (s.setB (PWM.STAT_GRP_CFG_ERR d k) true).modGrp d k (fun g => { g with wrptPend := false }) else s
  if variableMode g.mode && g.perMinPend && decide (g.carrierPer < m)
  then (s.setB (PWM.STAT_SET_CLAMPED d k) true).modGrp d k (fun g => { g with perMinPend := false }) else s

/-! ### The delay monitor (R115-R117) -/

/-- One port compares DLY_MON with its DLY_REF, continuously: at every new reading and every write of what the comparison rests on; each flag that sets is reported to both command dies. -/
def State.compareDelay (s : State) (d j : Nat) : State :=
  let mon := s.get (PWM.DLY_MON_MON_TPT d)
  let ref := s.get (PORT.DLY_CAL_DLY_REF d j)
  let tol := max 1 (s.get (PORT.DLY_CTL_DLY_TOL d j))
  let diff := max (mon - ref) (ref - mon)
  let drift := decide (16 * tol < diff)
  let coarse := decide (64 * tol < diff)
  let e := Die.drive d
  let s := if drift && !s.flag (PORT.DLY_STAT_DLY_DRIFT d j)
    then (s.setB (PORT.DLY_STAT_DLY_DRIFT d j) true).event .flagEvent e [PORT.DLY_STAT d j, 1] else s
  if coarse && !s.flag (PORT.DLY_STAT_DLY_COARSE d j)
    then (s.setB (PORT.DLY_STAT_DLY_COARSE d j) true).event .flagEvent e [PORT.DLY_STAT d j, 2] else s

/-! ### MA1's new delay registers (R118) -/

/-- Load a port's new delay registers all together and clear DLY_DRIFT and DLY_COARSE. -/
def State.loadDelays (s : State) (d j : Nat) : State :=
  match (s.port d j).newDelay with
  | none => s
  | some n =>
    let s := (s.set (PORT.DLY_CAL_DLY_REF d j) n.ref).set (PORT.DLY_CAL_DLY_TPT d j) n.tpt
    let s := foldOver (List.range 64) (fun f t => t.set (PORT.LIN_ELEM d j f) (n.lin.getD f 0)) s
    let s := (s.setB (PORT.DLY_STAT_DLY_DRIFT d j) false).setB (PORT.DLY_STAT_DLY_COARSE d j) false
    (s.modPort d j (fun p => { p with newDelay := none })).compareDelay d j

/-! ### Start and stop of a counter -/

/-- Is the counter at a boundary position of its mode (R623): 0, or PER/2 counting down with DBL_UPD = 1? -/
def State.atBoundary (s : State) (d k : Nat) : Bool :=
  let g := s.grp d k
  let c := s.get (PWM.CNT_COUNT d k)
  decide (c = 0) || (g.dbl && decide (c = g.aPer / 2) && s.flag (PWM.CNT_DIR d k))

/-- The counter is set going at PHASE (R90), without the effects of a boundary.  The carrier period that a start at another place than 0
leaves counts as carrier period 1 at its end (R71; DESIGN CHOICE, assumption 19). -/
def State.startCounter (s : State) (d k : Nat) : State :=
  let g := s.grp d k
  let h := g.aPer / 2
  let down := decide (g.mode = 1) && decide (h ≤ g.aPhase)
  let c := if down then 2 * h - g.aPhase else g.aPhase
  let first := (List.range k).all (fun q => !s.grpRuns d q)
  let s := (s.set (PWM.CNT_COUNT d k) c).setB (PWM.CNT_DIR d k) down
  let s := s.setB (PWM.STAT_RUN d k) true
  let s := s.modGrp d k (fun g => { g with
    waiting := false, due := false, carrierPer := g.aPer, early := false, periods := 0, carriers := 0, hopTaken := 0 })
  let s := foldOver (s.members d k) (fun j t => t.modPort d j (fun p => { p with level := none, edgeTap := 0, lateFall := none })) s
  if first then (s.seedHops d).refreshHopNext d else s

/-- The counter stops at the end of its carrier period (R88): the outputs of every member port go off but for a chopper's and those that a
tripped group drives, a safe state kept after a clear included; waiting delay registers are loaded (R118); with no group running a return to
SLOT0 takes place (R74), and one that waits while another group runs waits for that group's next carrier boundary (DESIGN CHOICE, assumption
19); an active short circuit of a member of a tripped group becomes OPEN (R143, R144). -/
def State.stopCounter (s : State) (d k : Nat) : State :=
  let s := foldOver (s.members d k) (fun j t =>
    let t := t.loadDelays d j
    let t := t.modPort d j (fun p => { p with level := none, edgeTap := 0, lateFall := none, refresh := 0 })
    let t := if j = 6 then t.setB (APB.APSTAT_REF_ACT d) false else t
    if t.chopperRole d j || t.flag (TRIP.TGSTAT_TRIPPED d (t.tgOf d j)) then t
    else (t.bothOff d j).modPort d j (fun p => { p with safe := if p.safe = .none then .none else .opened })) s
  let s := s.setB (PWM.STAT_RUN d k) false
  let s := s.modGrp d k (fun g => { g with enabled := false, stopping := false, early := false })
  let s := if (s.hopMaster d).isNone && (vget s.hops d).returning then (s.hopReturn d).refreshHopNext d else s
  s.refreshTrips d

/-! ### Where the command edges lie (R91, R107, R108) -/

/-- The level of a command `t` taps into a carrier period with half `h` taps and active DUTY `duty`: high from the start for DUTY in
up-count mode (R107) and in constant on-time mode, low for DUTY in constant off-time mode (R91), high from H - floor(D/2) to H + ceil(D/2)
in up-down mode (R108). -/
def commandLevel (mode h duty t : Nat) : Bool :=
  if mode = 1 then (if t < h then decide (h - duty / 2 ≤ t) else decide (t < h + (duty + 1) / 2))
  else if mode = 3 then decide (duty ≤ t)
  else decide (t < duty)

/-- The taps of a carrier period at which the command can change. -/
def commandTaps (mode h duty : Nat) : List Nat := if mode = 1 then [h - duty / 2, h, h + (duty + 1) / 2] else [duty]

/-- Half a carrier period in taps, by the PER that governs it (R624). -/
def Group.halfTaps (g : Group) : Nat := 64 * (g.carrierPer / 2)

/-- The carrier period in taps. -/
def Group.carrierTaps (g : Group) : Nat := if g.mode = 1 then 2 * g.halfTaps else 64 * g.carrierPer

/-- The active DUTY of a port, in taps. -/
def State.actDuty (s : State) (d j : Nat) : Nat := (s.reg (PORT.ACT_DUTY d j)).toNat

/-- The least number of a list. -/
def least : List Nat → Option Nat
  | [] => none
  | a :: l => some (l.foldl min a)

/-- The level of a command with a pulse of the carrier period before that falls at tap `x` (R108): high up to there; low from there on where
the new period's rise has come before, since that rise changed nothing (R111; DEDUCED, assumption 65). -/
def lateLevel (late : Option Nat) (level : Nat → Bool) (rise t : Nat) : Bool :=
  match late with
  | none => level t
  | some x => if t < x then true else if rise < x then false else level t

/-- The level that the generator gives the command of a member port at tap `t` of the carrier period, with the active DUTY `duty`. -/
def State.commandBy (s : State) (d k j duty t : Nat) : Bool :=
  let g := s.grp d k
  lateLevel (s.port d j).lateFall (commandLevel g.mode g.halfTaps duty) (g.halfTaps - duty / 2) t

/-- The same with the active DUTY as it stands. -/
def State.commandAt (s : State) (d k j t : Nat) : Bool := s.commandBy d k j (s.actDuty d j) t

/-- The taps of the carrier period at which a port's command can change. -/
def State.edgeTaps (s : State) (d k j duty : Nat) : List Nat :=
  let g := s.grp d k
  (s.port d j).lateFall.toList ++ commandTaps g.mode g.halfTaps duty

/-- A carrier period of up-down mode ends: a fall that lies past the valley, by a DUTY of the peak that is longer than the carrier, stays due in
the next one (R108; DEDUCED, assumption 65). -/
def State.keepFalls (s : State) (d k : Nat) : State :=
  let g := s.grp d k
  if g.mode ≠ 1 then s
  else foldOver (s.members d k) (fun j t =>
    let fall := g.halfTaps + (t.actDuty d j + 1) / 2
    t.modPort d j (fun p => { p with lateFall := if p.level = some true ∧ g.carrierTaps < fall then some (fall - g.carrierTaps) else none })) s

/-- The port's next command edge, if it lies in the present tick: its tap and direction.  It is the first tap of the tick, behind the last
edge made, at which the command's level is another than the one it has; a command that has none yet takes its level at once, so that a
DUTY of 0 from the start turns the low side on (R106; DEDUCED, assumption 65).  An edge to the level that the command has is none (R111):
nothing attempts a clear then and a port that keeps its safe state goes on keeping it (R162, R163; DEDUCED, assumption 65). -/
def State.edgeDue (s : State) (d k j : Nat) : Option (Nat × Bool) :=
  let p := s.port d j
  let first := 64 * s.carrierPos d k
  let taps := first :: (s.edgeTaps d k j (s.actDuty d j)).filter (fun t => decide (first < t) && decide (t < first + 64))
  match least (taps.filter (fun t => decide (p.edgeTap ≤ t) && decide (p.level ≠ some (s.commandAt d k j t)))) with
  | some t => some (t, s.commandAt d k j t)
  | none => none

/-- The active DUTY that a port has from its group's next boundary on, by the shadow set as it stands (R98, R104, R173). -/
def State.nextDuty (s : State) (d k j : Nat) : Nat :=
  let per := s.get (PWM.PER_PER d k)
  if !s.transferDue d k || decide (per = 0) then s.actDuty d j
  else if j = 6 && s.flag (APB.APSTAT_AP_BOOT_UV d) then 0
  else min (s.reg (PORT.DUTY d j)).toNat (dutyLimit (perActs (s.grp d k).mode per) (s.get (PWM.MIN_OFF_MIN_OFF d k)))

/-- The active PER from the group's next boundary on. -/
def State.nextPer (s : State) (d k : Nat) : Nat :=
  let per := s.get (PWM.PER_PER d k)
  if !s.transferDue d k || decide (per = 0) then (s.grp d k).aPer else perActs (s.grp d k).mode per

/-- Where the carrier period in progress ends, in taps: at PER, or at PER_MIN after an early trigger edge.  A trigger still to come decides
otherwise, and the model takes none (R91, R112; DESIGN CHOICE, assumption 65). -/
def State.carrierEnd (s : State) (d k : Nat) : Nat :=
  if (s.grp d k).early then 64 * s.perMinActs d k else (s.grp d k).carrierTaps

/-- The taps from tap `t` of the carrier period to the next command edge that gives the command another level than `level`, each edge by the
set that places it: the active one, the one that the next boundary takes in beyond that boundary (R110, R112); none where no edge comes. -/
def State.edgeWidth (s : State) (d k j t : Nat) (level : Bool) : Option Nat :=
  let g := s.grp d k
  let next := s.nextDuty d k j
  let duty (u : Nat) : Nat := if g.dbl ∧ t < g.halfTaps ∧ g.halfTaps ≤ u then next else s.actDuty d j
  let ahead := (s.edgeTaps d k j (s.actDuty d j) ++ commandTaps g.mode g.halfTaps next).filter (fun u =>
    decide (t ≤ u) && decide (u < s.carrierEnd d k) && decide (s.commandBy d k j (duty u) u ≠ level))
  match least ahead with
  | some u => some (u - t)
  | none =>
    let half := 64 * (s.nextPer d k / 2)
    match (0 :: commandTaps g.mode half next).find? (fun u => decide (commandLevel g.mode half next u ≠ level)) with
    | some u => some (s.carrierEnd d k - t + u)
    | none => none

/-! ### Command edges and dead time (R109-R112, R618) -/

/-- The turn-on of an output at tap `t` of the carrier period: a pulse whose width up to the next command edge is zero or negative is not produced,
one below 2 ticks is dropped with PULSE_DROP (R112; judged at the turn-on, DEDUCED, assumption 65). -/
def State.pulseOn (s : State) (d k j t : Nat) (high : Bool) : State :=
  match s.edgeWidth d k j t high with
  | none => s.turnOn d j high
  | some 0 => s
  | some w => if w < 128 then s.setB (PWM.STAT_PULSE_DROP d k) true else s.turnOn d j high

/-- What becomes of a turn-on after a command edge at tap `t`, `dt` taps later: the end of the dead time is fixed here, wholly by the set active
at the edge (R110). -/
def State.planTurnOn (s : State) (d k j t dt : Nat) (high : Bool) : State :=
  if (s.port d j).blocked then s
  else if dt = 0 then s.pulseOn d k j t high
  else s.modPort d j (fun p => { p with pendOn := some ⟨high, (t % 64 + dt) / 64, (t % 64 + dt) % 64⟩ })

/-- A command edge at tap `t` ends a dead time: a turn-on due in the same tick before it would make a pulse below 2 ticks (R112). -/
def State.dropPlanned (s : State) (d k j t : Nat) : State :=
  let s := match (s.port d j).pendOn with
    | some w => if w.ticks = 0 ∧ w.fine < t % 64 then s.setB (PWM.STAT_PULSE_DROP d k) true else s
    | none => s
  s.modPort d j (fun p => { p with pendOn := none })

/-- An edge's fine part: placed at element LINf (R113), or in coarse fallback at the nearest whole tick, the next one from 32 taps on
(R116). -/
def State.placeEdge (s : State) (d j fine : Nat) : State :=
  if s.flag (PORT.DLY_STAT_DLY_COARSE d j) then s.modPort d j (fun p => { p with elem := 0, late := decide (32 ≤ fine) })
  else
    let e := s.get (PORT.LIN_ELEM d j fine)
    s.modPort d j (fun p => { p with elem := e, late := false })

/-- The outputs at a command edge of a port that follows the generator, under the PMODE in force. -/
def State.edgeOutputs (s : State) (d k j t : Nat) (rise : Bool) : State :=
  let dtr := (s.reg (PORT.ACT_DT_RISE d j)).toNat
  let dtf := (s.reg (PORT.ACT_DT_FALL d j)).toNat
  let s := s.dropPlanned d k j t
  match (s.port d j).mode, rise with
  | 1, true => (s.turnOff d j false).planTurnOn d k j t dtr true
  | 1, false => (s.turnOff d j true).planTurnOn d k j t dtf false
  | 2, true => (s.turnOff d j false).planTurnOn d k j t dtr true
  | 2, false => (s.turnOff d j true).turnOff d j false
  | 3, true => (s.turnOff d j true).turnOff d j false
  | 3, false => (s.turnOff d j true).planTurnOn d k j t dtf false
  | _, _ => (s.turnOff d j true).turnOff d j false

/-- A command edge of a port in a running group, where one is due: the clear attempt of modes 1-3 (R162), the level (R111), the PMODE taken
up (R618), the outputs unless a safe state, the STO branch (R121) or the chopper role drives them (R150, R169).  While a refresh runs, an edge of
the auxiliary port gives its command the new level only, which the refresh's end looks at (R176; DEDUCED, assumption 66). -/
def State.commandEdge (s : State) (d j : Nat) : State :=
  match s.groupOf d j with
  | none => s
  | some k =>
    match (if s.dieRuns d then s.edgeDue d k j else none) with
    | none => s
    | some (t, rise) =>
      let tg := s.tgOf d j
      let s := if decide (s.get (TRIP.TGCTL_TG_MODE d tg) ≠ 0) then s.clearAttempt d tg else s
      let s := (s.modPort d j (fun p => { p with level := some rise, edgeTap := t + 1 })).placeEdge d j (t % 64)
      if s.chopperRole d j || s.flag (TRIP.TGSTAT_TRIPPED d tg) || s.stoBranch d || decide ((s.port d j).refresh ≠ 0) then s
      else
        let s := s.modPort d j (fun p => { p with safe := .none, held := false, ascWait := none, mode := s.get (PORT.PMODE_PMODE d j) })
        ((s.edgeOutputs d k j t rise).refreshAsc d tg).refreshTrips d

/-- The dead time ends: the turn-on it delayed takes place unless the port has been overridden meanwhile (R150, R151) or its pulse is too short
(R112). -/
def State.deadTimeEnd (s : State) (d j : Nat) : State :=
  match (s.port d j).pendOn with
  | none => s
  | some w =>
    if !s.dieRuns d || decide (w.ticks ≠ 0) then s
    else
      let s := (s.modPort d j (fun p => { p with pendOn := none })).placeEdge d j w.fine
      if !s.follows d j || s.chopperRole d j then s
      else if w.high && decide (j = 6) && s.flag (APB.APSTAT_AP_BOOT_UV d) then s
      else match s.groupOf d j with
        | some k => (s.pulseOn d k j (64 * s.carrierPos d k + w.fine) w.high).refreshTrips d
        | none => s

/-- PMODE is written (R618): a change to 0 turns a port that follows the generator off in the next tick and ends a refresh that runs, another
change waits for the port's next command edge; in a trip, a PMODE of 0 ends an active short circuit (R143, R144). -/
def State.pmodeApply (s : State) (d j : Nat) (w : Word) : State :=
  let was := s.get (PORT.PMODE_PMODE d j)
  let s := s.setReg (PORT.PMODE d j) w
  let now := s.get (PORT.PMODE_PMODE d j)
  let s := if now = 0 ∧ was ≠ 0 ∧ s.follows d j ∧ !s.chopperRole d j then
      let t := (s.bothOffIn d j true).modPort d j (fun p => { p with mode := 0, refresh := 0, refWait := 0, refFine := 0 })
      if j = 6 then t.setB (APB.APSTAT_REF_ACT d) false else t
    else s
  s.refreshTrips d

/-! ### The delay monitor's reading (R115) -/

/-- The monitor publishes a reading and every port of the die compares it. -/
def State.delayMonitor (s : State) (d mon : Nat) : State :=
  foldOver (List.range 7) (fun j t => t.compareDelay d j) (s.set (PWM.DLY_MON_MON_TPT d) mon)

end Sys2Proof.Machine
end

