-- ==== Sys2Proof/Machine/Crc.lean ====
section
/-!
DEFINITION. Sys2Proof/Machine/Crc.lean: the check-value units (R572-R585) and the part of the maintenance scheduler that
every activity shares: conflicts, slots, results (R586-R590).
-/

namespace Sys2Proof.Machine

/-! ### The fold (R573) -/

/-- The `n` low bits of a number in reverse order. -/
def reflectBits (x : Nat) : Nat → Nat
  | 0 => 0
  | n + 1 => (if x.testBit 0 then 2 ^ n else 0) + reflectBits (x / 2) n

/-- One shift of a normal-form check of `w` bits. -/
def crcShift (w poly v : Nat) : Nat :=
  let x := (2 * v) % 2 ^ w
  if v.testBit (w - 1) then x ^^^ (poly % 2 ^ w) else x

/-- One shift of a reflected check; `rpoly` is the reflected polynomial. -/
def crcShiftR (rpoly v : Nat) : Nat := if v.testBit 0 then (v / 2) ^^^ rpoly else v / 2

/-- Repeat a function. -/
def iter {α : Type} (f : α → α) : Nat → α → α
  | 0, x => x
  | n + 1, x => iter f n (f x)

/-- Fold one byte (R573). -/
def crcByte (w poly : Nat) (refl : Bool) (v b : Nat) : Nat :=
  if refl then iter (crcShiftR (reflectBits poly w)) 8 (v ^^^ b)
  else iter (crcShift w poly) 8 ((v ^^^ (b * 2 ^ (w - 8))) % 2 ^ w)

/-- The WIDTH that acts (R572). -/
def crcWidth (cfg : Word) : Nat := min 32 (max 8 (getBits cfg 8 6))

/-- The source that acts: 5-7 act as 0 (table after R574). -/
def crcSource (cfg : Word) : Nat := let x := getBits cfg 1 3; if 5 ≤ x then 0 else x

/-! ### Check-value units -/

/-- A check-value unit. -/
def State.crcUnit (s : State) (u : Nat) : CrcUnit := vget s.crcs u

/-- Change one. -/
def State.modCrc (s : State) (u : Nat) (f : CrcUnit → CrcUnit) : State := { s with crcs := vmod s.crcs u f }

/-- CRC_CFG_ERR. -/
def State.crcErr (s : State) (u : Nat) : State := s.setB (CRC.CSTAT_CRC_CFG_ERR u) true

/-- RESULT from VAL and the latched configuration (R573). -/
def State.crcResult (s : State) (u : Nat) : State :=
  s.set (CRC.RESULT_RESULT u)
    ((s.get (CRC.VAL_VAL u) ^^^ (s.crcUnit u).xorout.toNat) % 2 ^ crcWidth (s.crcUnit u).cfg)

/-- Fold bytes into VAL; COUNT counts them modulo 2^32; RESULT follows VAL (R573). -/
def State.crcFold (s : State) (u : Nat) (bytes : List Nat) : State :=
  let c := s.crcUnit u
  let v := bytes.foldl (crcByte (crcWidth c.cfg) c.poly.toNat (getBits c.cfg 4 1 = 1)) (s.get (CRC.VAL_VAL u))
  ((s.set (CRC.VAL_VAL u) v).set (CRC.COUNT_COUNT u) (s.get (CRC.COUNT_COUNT u) + bytes.length)).crcResult u

/-- Does the unit compute and take in more? -/
def State.crcOpen (s : State) (u : Nat) : Bool := s.flag (CRC.CSTAT_BUSY u) && !(s.crcUnit u).ended

/-- A whole item of a stream passes (R581): every unit that computes over that stream folds it. -/
def State.crcItem (s : State) (src sel : Nat) (bytes : List Nat) : State :=
  foldOver (List.range 8) (fun u t =>
    if t.crcOpen u && decide (crcSource (t.crcUnit u).cfg = src) && decide (getBits (t.crcUnit u).cfg 16 8 = sel)
    then t.crcFold u bytes else t) s

/-- The memory windows a scan can read: CLE program, data and table memories and the curve memory of each drive die, and
on N the metering record rings, the declaration and response windows and the transmit buffers. -/
def memWindows : List (Nat × Nat) :=
  ([0x40000000, 0x41000000, 0x42000000, 0x43000000].flatMap (fun b =>
    [(b + 0x180000, 0x4000), (b + 0x184000, 0x4000), (b + 0x190000, 0x800), (b + 0x190800, 0x800),
     (b + 0x1A0000, 0x1000), (b + 0x1A1000, 0x1000), (b + 0x1A2000, 0x1000), (b + 0x1A3000, 0x1000), (b + 0x1C0000, 0x1000)]))
  ++ [(0x480C0000, 0x2000), (0x480C2000, 0x2000), (0x480C4000, 0x2000), (0x48260000, 0x2000), (0x48270000, 0x400),
      (0x48280000, 0x40000)]

/-- Does a range lie wholly within one memory window (R575)? -/
def inOneWindow (base len : Nat) : Bool := memWindows.any (fun w => decide (w.1 ≤ base) && decide (base + len ≤ w.1 + w.2))

/-- A unit latches its configuration (R577), with the WIDTH check of R572, and is busy. -/
def State.crcBegin (s : State) (u : Nat) : State :=
  let w := getBits (s.reg (CRC.CCFG u)) 8 6
  let s := if w < 8 ∨ 32 < w then s.crcErr u else s
  let s := s.modCrc u (fun _ => {
    cfg := s.reg (CRC.CCFG u), poly := s.reg (CRC.POLY u), start := s.reg (CRC.INIT u)
    xorout := s.reg (CRC.XOROUT u), base := (s.reg (CRC.BASE u)).toNat, len := s.get (CRC.LEN_LEN u), ended := false })
  (s.setB (CRC.CSTAT_BUSY u) true).setB (CRC.CSTAT_INCOMPLETE u) false

/-- START loads INIT into VAL and 0 into COUNT (R578). -/
def State.crcLoadInit (s : State) (u : Nat) : State :=
  ((s.set (CRC.VAL_VAL u) (s.crcUnit u).start.toNat).set (CRC.COUNT_COUNT u) 0).crcResult u

/-! ### The scheduler's shared part -/

/-- The activity of a slot. -/
def State.activity (s : State) (k : Nat) : Activity := vget s.acts k

/-- Change one. -/
def State.modAct (s : State) (k : Nat) (f : Activity → Activity) : State := { s with acts := vmod s.acts k f }

/-- An activity as the conflict rule sees it: code, die, unit. -/
structure ActKey where
  code : Nat
  die : Nat
  unit : Nat
deriving DecidableEq, Repr

/-- What runs in a slot, if it is active. -/
def State.slotKey (s : State) (k : Nat) : Option ActKey :=
  if s.flag (MAINT.SLOTS_ACTIVE k) then
    some ⟨s.get (MAINT.SLOTS_CODE k), s.get (MAINT.SLOTS_DIE k), s.get (MAINT.SLOTS_UNIT k)⟩ else none

/-- The die with a code of the DIE field. -/
def dieOfCode (c : Nat) : Option Die := Die.all.find? (fun e => e.code = c)

/-- The link that an activity occupies, as one number whichever end names it: MA5 names it, MA9 uses the link from N to
the die of the range (R586). -/
def ActKey.link (a : ActKey) : Option Nat :=
  let canon (e : Die) (k : Nat) : Option Nat :=
    match e.farEnd k with
    | some (f, q) => some (min (8 * e.code + k) (8 * f.code + q))
    | none => none
  match dieOfCode a.die with
  | none => none
  | some e =>
    if a.code = 5 then canon e a.unit
    else if a.code = 9 then (match e with
      | .d0 | .d1 | .d2 | .d3 => canon .n (2 + e.driveNo)
      | .s => canon .n 6
      | _ => none)
    else none

/-- R586: do two activities conflict? -/
def ActKey.conflicts (a b : ActKey) : Bool :=
  let mux (c : Nat) : Bool := decide (c ≤ 4) && decide (c ≠ 3)
  (mux a.code && mux b.code && decide (a.die = b.die))
  || ((decide (a.code = 5 ∧ b.code = 9) || decide (a.code = 9 ∧ b.code = 5)) && a.link.isSome && decide (a.link = b.link))
  || decide (a.code = 6 ∧ b.code = 7) || decide (a.code = 7 ∧ b.code = 6)
  || (decide (a.code = b.code) && (decide (a.die = b.die ∧ (a.unit = b.unit ∨ a.code = 6 ∨ a.code = 7))
      || (decide (a.code = 5) && a.link.isSome && decide (a.link = b.link))))

/-- The code of a running activity that conflicts, lowest slot first. -/
def State.conflictWith (s : State) (a : ActKey) : Option Nat :=
  (List.range 16).findSome? (fun k => match s.slotKey k with
    | some b => if a.conflicts b then some b.code else none
    | none => none)

/-- The lowest-numbered free slot (R587). -/
def State.freeSlot (s : State) : Option Nat := (List.range 16).find? (fun k => !s.flag (MAINT.SLOTS_ACTIVE k))

/-- RUN shows the activities that run; MA3 always does, MA8 while a safety input has its test pulses enabled. -/
def State.refreshRun (s : State) : State :=
  let m := (List.range 16).foldl (fun m k => match s.slotKey k with | some a => m ||| 2 ^ a.code | none => m) 8
  let pulses := (List.range 8).any (fun n => decide (s.dnat (DP.SI_TP_EN n) ≠ 0))
  s.set MAINT.MRUN_RUN (m ||| (if pulses then 0x100 else 0))

/-- An accepted activity takes a slot. -/
def State.takeSlot (s : State) (k : Nat) (a : ActKey) (act : Activity) : State :=
  let s := s.setReg (MAINT.SLOTS k) (BitVec.ofNat 32 (2 ^ 16 + 256 * (a.unit % 256) + 16 * (a.die % 16) + a.code % 16))
  let s := s.setReg (MAINT.ELAPSED k) 0
  (s.modAct k (fun _ => act)).refreshRun

/-- R590: an activity ends: its slot is freed, a result entry written over the oldest, the result sent to both command
dies. -/
def State.endActivity (s : State) (k result : Nat) : State :=
  match s.slotKey k with
  | none => s
  | some a =>
    let r := s.maintSeq % 8
    let act := s.activity k
    let w := 2 ^ 24 * (s.maintSeq % 256) + 2 ^ 16 * result + 256 * a.unit + 16 * a.die + a.code
    let s := s.setReg (MAINT.RES r) (BitVec.ofNat 32 w)
    let s := s.setReg (MAINT.RESU r) (BitVec.ofNat 32 (2 ^ 16 * act.skipped + act.failed))
    let s := { s with maintSeq := s.maintSeq + 1 }
    let s := (s.setReg (MAINT.SLOTS k) 0).modAct k (fun _ => {})
    (s.refreshRun).send ⟨.maintResult, Die.n.code, [w, act.failed, act.skipped]⟩

/-- MA1 of a drive die ends once every port is calibrated and every new set of delay registers loaded (R118, R595). -/
def State.ma1Finish (s : State) (d : Nat) : State :=
  match (List.range 16).find? (fun k => match s.slotKey k with | some a => decide (a.code = 1 ∧ a.die = d + 2) | none => false) with
  | none => s
  | some k =>
    let act := s.activity k
    if act.units = [] ∧ (List.range 7).all (fun j => (s.port d j).newDelay.isNone) then s.endActivity k (if act.failed = 0 then 0 else 1)
    else s

/-! ### The end of a computation (R584) -/

/-- The slot of a unit's scan. -/
def State.crcSlot (s : State) (u : Nat) : Option Nat :=
  (List.range 16).find? (fun k => match s.slotKey k with | some a => decide (a.code = 9 ∧ a.unit = u) | none => false)

/-- The completion event: unit, TAG as latched (R577), RESULT, COUNT, STAT bits [4:2]. -/
def State.crcEvent (s : State) (u : Nat) : Msg :=
  ⟨.crcDone, Die.n.code, [u, getBits (s.crcUnit u).cfg 24 8, s.get (CRC.RESULT_RESULT u), s.get (CRC.COUNT_COUNT u),
    getBits (s.reg (CRC.CSTAT u)) 2 3]⟩

/-- R584: a computation ends; the MA9 slot of a scan is freed with its result in the same tick (R583): FAIL after a read
that faulted, ABORTED after a STOP or CANCEL, PASS otherwise. -/
def State.crcFinish (s : State) (u : Nat) : State :=
  let s := (s.setB (CRC.CSTAT_BUSY u) false).setB (CRC.CSTAT_DONE u) true
  let s := (s.incMod (CRC.CSTAT_DONE_CNT u)).modCrc u (fun c => { c with ended := false })
  let s := s.send (s.crcEvent u)
  match s.crcSlot u with
  | none => s
  | some k => s.endActivity k
      (if (s.crcUnit u).failed then 1
       else if s.flag (CRC.CSTAT_INCOMPLETE u) then 2 else 0)

/-- The die whose memory window holds a range, as its code. -/
def scanDie (base : Nat) : Nat := match dieOfKey base with | some e => e.code | none => 6

/-- A scan asks for a slot (R587): MAINT_BUSY and CONF_CODE in STAT when it is refused. -/
def State.crcScanStart (s : State) (u : Nat) : State :=
  let base := (s.reg (CRC.BASE u)).toNat
  let len := s.get (CRC.LEN_LEN u)
  if len = 0 then ((s.crcBegin u).crcLoadInit u).crcFinish u
  else if !inOneWindow base len then s.crcErr u
  else
    let a : ActKey := ⟨9, scanDie base, u⟩
    match s.conflictWith a with
    | some c => (s.setB (CRC.CSTAT_MAINT_BUSY u) true).set (CRC.CSTAT_CONF_CODE u) c
    | none =>
      match s.freeSlot with
      | none => s.setB (CRC.CSTAT_MAINT_BUSY u) true
      | some k =>
        if !s.mainRuns then s.setB (CRC.CSTAT_MAINT_BUSY u) true
        else ((s.crcBegin u).crcLoadInit u).takeSlot k a {}

/-- START or RESUME (R578). -/
def State.crcStart (s : State) (u : Nat) (resume : Bool) : State :=
  if s.flag (CRC.CSTAT_BUSY u) || !s.flag (CRC.CCFG_EN u) then s.crcErr u
  else if crcSource (s.reg (CRC.CCFG u)) = 1 then s.crcScanStart u
  else if resume then (s.crcBegin u).crcResult u
  else (s.crcBegin u).crcLoadInit u

/-- STOP (R578, R583): a scan ends incomplete; the unit sets DONE next. -/
def State.crcStop (s : State) (u : Nat) : State :=
  if !s.flag (CRC.CSTAT_BUSY u) then s.crcErr u
  else if (s.crcUnit u).ended then s
  else
    let s := if crcSource (s.crcUnit u).cfg = 1 then s.setB (CRC.CSTAT_INCOMPLETE u) true else s
    s.modCrc u (fun c => { c with ended := true })

/-- A write to DATA, DATA_H or DATA_B (R579). -/
def State.crcFeed (s : State) (u : Nat) (bytes : List Nat) : State :=
  if s.crcOpen u && decide (crcSource (s.crcUnit u).cfg = 0) then s.crcFold u bytes else s.crcErr u

/-- A write to VAL (R580). -/
def State.crcVal (s : State) (u : Nat) (w : Nat) : State :=
  if !s.flag (CRC.CSTAT_BUSY u) || decide (crcSource (s.crcUnit u).cfg = 0) then (s.set (CRC.VAL_VAL u) w).crcResult u else s.crcErr u

/-- A write to the control register: more than one bit acts as none (R578). -/
def State.crcControl (s : State) (u w : Nat) : State :=
  match w % 8 with
  | 0 => s
  | 1 => s.crcStart u false
  | 2 => s.crcStop u
  | 4 => s.crcStart u true
  | _ => s.crcErr u

/-- A byte of a memory window; the curve memory's words are registers. -/
def State.byteAt (s : State) (a : Nat) : Nat :=
  if 0x40000000 ≤ a ∧ a < 0x44000000 ∧ 0x1C0000 ≤ a % 0x1000000 ∧ a % 0x1000000 < 0x1C1000 then
    getBits (s.reg (a - a % 4)) (8 * (a % 4)) 8
  else (Memory.read s.mem a).toNat

/-- The bytes of a scan still to fold, at most `n`. -/
def State.scanNext (s : State) (u n : Nat) : List Nat :=
  let c := s.crcUnit u
  let done := s.get (CRC.COUNT_COUNT u)
  (List.range (min n (c.len - done))).map (fun i => s.byteAt (c.base + done + i))

/-- A scan ends early: SCAN_ERR and INCOMPLETE (R583). -/
def State.scanFail (s : State) (u : Nat) : State :=
  ((s.setB (CRC.CSTAT_SCAN_ERR u) true).setB (CRC.CSTAT_INCOMPLETE u) true).modCrc u (fun c => { c with ended := true, failed := true })

/-- A read flit of a scan returns with 8 bytes, folded with the content the memory holds at this step (R575, R576), or
meets an access fault. -/
def State.scanReturn (s : State) (u : Nat) (fault : Bool) : State :=
  if !s.crcOpen u || decide (crcSource (s.crcUnit u).cfg ≠ 1) then s
  else if fault then s.scanFail u
  else
    let s := s.crcFold u (s.scanNext u 8)
    if (s.crcUnit u).len ≤ s.get (CRC.COUNT_COUNT u) then s.modCrc u (fun c => { c with ended := true }) else s

end Sys2Proof.Machine
end

