-- ==== Sys2Proof/Machine/Gate.lean ====
section
/-!
DEFINITION. Sys2Proof/Machine/Gate.lean: the commands of gate ports, trip groups, halt guard and auxiliary ports
(chapters 4 and 5), and those of the PWM generator that need no control-period boundary.
-/

namespace Sys2Proof.Machine

/-- The outcome of a command. -/
abbrev Out := Host.Outcome State Fault Refusal

/-! ### STO branches and the halt guard (R119-R122, R423) -/

/-- The acknowledge line of a die follows its branch (R424), but for one that has failed the guard test. -/
def State.setBranchAck (s : State) (d : Nat) (level : Bool) : State :=
  if s.bit HGRD.HGSTAT_GT_FAIL d then s else s.setBit HGRD.HGSTAT_ACK d level

/-- An STO branch is asserted: both outputs of every port of the die go off by a path that needs no clock (R121), the
ports take OPEN, and the STO source becomes active where the die's clock runs.  The turn-offs count as output edges in the STO source's trip
tick, the next one (R146). -/
def State.branchAssert (s : State) (d : Nat) : State :=
  let s := (s.setBit SFN.SFSTAT_NET d true).setBranchAck d true
  let s := foldOver (List.range 7) (fun j t =>
    let p := t.port d j
    let t := if p.gh then t.outputOff d j true true else t
    let t := if p.gl then t.outputOff d j false true else t
    let t := if j = 6 then t.setB (APB.APSTAT_REF_ACT d) false else t
    t.modPort d j (fun p => { p with pendOn := none, ascWait := none, dueOff := 0, safe := .opened, held := false, refresh := 0 })) s
  s.refreshTrips d

/-- The halt guard asserts the branch of a die, and counts it (R120). -/
def State.guardAssert (s : State) (d : Nat) : State :=
  let s := ((s.setBit HGRD.HGSTAT_ASSERT d true).setBit HGRD.HGSTAT_TIMING d false).set (HGRD.ELAPSED_ELAPSEDd d) 0
  let s := (s.setBit SFN.SFSTAT_HG d true).modDrive d (fun x => { x with released := 0 })
  let s := s.incSat (match d with
    | 0 => HGRD.HGCNT_HG_CNT0 | 1 => HGRD.HGCNT_HG_CNT1 | 2 => HGRD.HGCNT_HG_CNT2 | _ => HGRD.HGCNT_HG_CNT3)
  s.branchAssert d

/-- The guard time of a debug halt: 0x6842:02 if that is not 0, otherwise 0x6842:01 (R120); in us. -/
def State.haltGuardTime (s : State) : Nat :=
  if s.get HGRD.EXTEND_MS_EXTEND_MS ≠ 0 then 1000 * s.get HGRD.EXTEND_MS_EXTEND_MS else s.get HGRD.GUARD_US_GUARD_US

/-- The halt guard starts timing a cause from its detection, `halt` a debug halt, otherwise the loss of the clock; a guard time
of 0 has elapsed at once (R120).  ELAPSED runs from the first of two causes.  Where the branch is asserted already, releases before this cause no
longer count (R423). -/
def State.guardStart (s : State) (d : Nat) (halt : Bool) : State :=
  if s.bit HGRD.HGSTAT_ASSERT d then s.modDrive d (fun x => { x with released := 0 })
  else
    let s := if s.bit HGRD.HGSTAT_TIMING d then s else s.set (HGRD.ELAPSED_ELAPSEDd d) 0
    let now := s.get (HGRD.ELAPSED_ELAPSEDd d)
    let s := s.modDrive d (fun x => if halt then { x with haltAt := now } else { x with lostAt := now })
    if (if halt then s.haltGuardTime else s.get HGRD.GUARD_US_GUARD_US) = 0 then s.guardAssert d
    else s.setBit HGRD.HGSTAT_TIMING d true

/-- The timing of a cause ends; the other one, if it holds, goes on from its own detection. -/
def State.guardStop (s : State) (d : Nat) (halt : Bool) : State :=
  if !s.bit HGRD.HGSTAT_TIMING d then s
  else
    let x := vget s.drives d
    let other := if halt then s.bit HGRD.HGSTAT_CLK_LOST d else s.bit HGRD.HGSTAT_HALT d
    if other then
      let from_ := if halt then x.lostAt else x.haltAt
      let s := s.set (HGRD.ELAPSED_ELAPSEDd d) (s.get (HGRD.ELAPSED_ELAPSEDd d) - from_)
      s.modDrive d (fun x => { x with haltAt := 0, lostAt := 0 })
    else (s.setBit HGRD.HGSTAT_TIMING d false).set (HGRD.ELAPSED_ELAPSEDd d) 0

/-- R120: the timings in progress of a die judged against the guard times in force. -/
def State.guardJudge (s : State) (d : Nat) : State :=
  let e := s.get (HGRD.ELAPSED_ELAPSEDd d)
  let x := vget s.drives d
  let lost := s.bit HGRD.HGSTAT_CLK_LOST d && decide (s.get HGRD.GUARD_US_GUARD_US ≤ e - x.lostAt)
  let halt := s.bit HGRD.HGSTAT_HALT d && decide (s.haltGuardTime ≤ e - x.haltAt)
  if s.bit HGRD.HGSTAT_TIMING d && (lost || halt) then s.guardAssert d else s

/-- DRIVE_DIE_HALT (R119, R120): the die's counters and outputs freeze and the halt guard learns of it at once. -/
def execDriveDieHalt (d : Fin 4) (s : State) : Out := s.whileRuns <|
  let s := s.modDrive d (fun x => { x with halted := true })
  let s := foldOver (List.range 4) (fun k t => if t.grpRuns d k then t.setB (PWM.STAT_FROZEN d k) true else t) s
  .next ((s.setBit HGRD.HGSTAT_HALT d true).guardStart d true)

/-- A die runs again: the turn-offs that fell due while its outputs held their levels are made (R119, R125), ALG of an auxiliary port that
R175 holds on goes on.  The rule leaves open whether they are made, and the model makes them in the first tick (DESIGN CHOICE, assumption
68). -/
def State.thaw (s : State) (d : Nat) : State :=
  if !s.dieRuns d then s
  else
    let s := foldOver (List.range 7) (fun j t =>
      let due := (t.port d j).dueOff
      let t := t.modPort d j (fun p => { p with dueOff := 0 })
      let t := if due.testBit 1 then t.turnOff d j true else t
      let t := if due.testBit 0 then t.turnOff d j false else t
      if (t.port d j).safe = .auxLow then t.turnOn d j false else t) s
    s.refreshTrips d

/-- DRIVE_DIE_HALT_RELEASE (R119): the counters go on from their frozen values; the guard's timing of the halt ends. -/
def execDriveDieHaltRelease (d : Fin 4) (s : State) : Out := s.whileRuns <|
  let s := s.modDrive d (fun x => { x with halted := false })
  let s := foldOver (List.range 4) (fun k t => t.setB (PWM.STAT_FROZEN d k) false) s
  .next (((s.setBit HGRD.HGSTAT_HALT d false).guardStop d true).thaw d)

/-- HALT_GUARD_EXPIRE (R120): the guard time of a die that is timed has elapsed. -/
def execHaltGuardExpire (d : Fin 4) (s : State) : Out := s.whileRuns <|
  .next (if s.bit HGRD.HGSTAT_TIMING d then s.guardAssert d else s)

/-- STO_BRANCH_ASSERT (R121). -/
def execStoBranchAssert (d : Fin 4) (s : State) : Out := s.whileRuns <| .next (s.branchAssert d)

/-- STO_BRANCH_RELEASE (R392, R423): with both channels released the halt guard releases a branch whose die runs and is not halted, once both
have released since then, and the branch is released when the guard does not assert it; the branch of a retired die stays asserted (R24,
R424). -/
def execStoBranchRelease (d : Fin 4) (s : State) : Out := s.whileRuns <|
  .next <|
    if s.flag SFN.SFSTAT_A_REQ || s.flag SFN.SFSTAT_B_REQ then s
    else if (vget s.drives d).retired || (s.bit HGRD.HGSTAT_ASSERT d
        && (s.bit HGRD.HGSTAT_HALT d || s.bit HGRD.HGSTAT_CLK_LOST d || decide ((vget s.drives d).released ≠ 3))) then s
    else
      let s := (s.setBit HGRD.HGSTAT_ASSERT d false).setBit SFN.SFSTAT_HG d false
      ((s.setBit SFN.SFSTAT_NET d false).setBranchAck d false).refreshTrips d

/-- DRIVE_DIE_CLOCK_STOP (R119): counters stop, outputs hold. -/
def execDriveDieClockStop (d : Fin 4) (s : State) : Out := s.whileRuns <|
  .next (s.modDrive d (fun x => { x with clockStopped := true }))

/-- DRIVE_DIE_CLOCK_RESUME (R423): counters and CLEs go on from their frozen state; the trip groups see their sources. -/
def execDriveDieClockResume (d : Fin 4) (s : State) : Out := s.whileRuns <|
  .next (((s.modDrive d (fun x => { x with clockStopped := false })).refreshTrips d).thaw d)

/-! ### PWM groups -/

/-- PWM_GROUP_STOP (R88): a group that completes its carrier reaches its end. -/
def execPwmGroupStop (d k : Fin 4) (s : State) : Out := s.whileRuns <|
  .next (if s.grpRuns d k && (s.grp d k).stopping && s.dieRuns d then (s.stopCounter d k).ma1Finish d else s)

/-- PWM_COMMIT (R100). -/
def execPwmCommit (d k : Fin 4) (s : State) : Out := s.whileRuns <| .next (s.setB (PWM.COMMIT_COMMIT d k) true)

/-- COMMAND_EDGE (R91, R107-R112): the present tick is the one in which the generator places the next command edge of local port `j`. -/
def execCommandEdge (d : Fin 4) (j : Fin 7) (s : State) : Out := s.whileRuns <| .next (s.commandEdge d j)

/-- DEAD_TIME_END (R109, R110): the tick in which the dead time of local port `j` ends. -/
def execDeadTimeEnd (d : Fin 4) (j : Fin 7) (s : State) : Out := s.whileRuns <| .next (s.deadTimeEnd d j)

/-- PMODE_WRITE (R618). -/
def execPmodeWrite (d : Fin 4) (j : Fin 7) (m : Fin 4) (s : State) : Out := s.whileRuns <|
  .next (s.pmodeApply d j (putBits (s.reg (PORT.PMODE d j)) 0 2 m))

/-- DLY_MON_UPDATE (R115): the monitor's new reading, Q8.8. -/
def execDlyMonUpdate (d : Fin 4) (mon : BitVec 16) (s : State) : Out := s.whileRuns <| .next (s.delayMonitor d mon.toNat)

/-! ### Driver fault returns (R126-R133) -/

/-- Does FLTn of the port get decoded (R131)? -/
def State.faultUsed (s : State) (d j : Nat) : Bool := s.flag (PORT.PCFG_FLT_USE d j)

/-- The code of a pulse width in ticks (R127); 0 for a glitch. -/
def codeOfWidth (w : Nat) : Nat :=
  if w < 200 then 0 else if w < 600 then 1 else if w < 1000 then 2 else if w < 1400 then 3 else if w < 1800 then 4 else 5

/-- A decoded code reaches FLT_CODE by the rules of R129: it replaces none, the pending code 7, and, if it trips, a code
that does not. -/
def State.writeFaultCode (s : State) (d j code : Nat) : State :=
  let tg := s.tgOf d j
  let cur := s.get (PORT.FLTSTAT_FLT_CODE d j)
  if cur = 0 ∨ cur = 7 ∨ (s.codeTrips d tg code ∧ ¬ s.codeTrips d tg cur) then
    (s.set (PORT.FLTSTAT_FLT_CODE d j) code).modPort d j (fun p => { p with own5 := decide (code = 5) })
  else s

/-- FLT_FALL (R127): the measurement of a pulse begins, unless one is in progress. -/
def execFltFall (d : Fin 4) (j : Fin 6) (s : State) : Out := s.whileRuns <|
  let s := s.setB (PORT.FLTSTAT_FLT_LINE d j) false
  .next (if s.faultUsed d j && !(s.port d j).measuring
    then s.modPort d j (fun p => { p with measuring := true, declared := false, own5 := false }) else s)

/-- FLT_PULSE_END (R127): FLTn has been high for 400 ticks; the pulse from its first fall was `width` ticks long.  A width of 0 says that
there was no pulse: the line was high from the start on. -/
def execFltPulseEnd (d : Fin 4) (j : Fin 6) (width : Nat) (s : State) : Out := s.whileRuns <|
  let s := s.setB (PORT.FLTSTAT_FLT_LINE d j) true
  let p := s.port d j
  let s := s.modPort d j (fun p => { p with measuring := false, declared := false, own5 := false })
  .next <|
    if !p.measuring || !s.faultUsed d j || decide (width = 0) then s
    else if !p.declared && decide (codeOfWidth width = 0) then s.incSat (PORT.FLTSTAT_GLITCH_CNT d j)
    else
      let s := s.set (PORT.FLTWID_WIDTH d j) (min width 0xFFFFF)
      if p.declared then s
      else (((s.incSat (PORT.FLTSTAT_FLT_CNT d j)).writeFaultCode d j (codeOfWidth width)).modPort d j
        (fun p => { p with own5 := false })).refreshTrips d

/-- FLT_CODE5 (R127): low for 1,800 ticks, the pulse not ended. -/
def execFltCode5 (d : Fin 4) (j : Fin 6) (s : State) : Out := s.whileRuns <|
  let p := s.port d j
  .next <|
    if p.measuring && !p.declared && s.faultUsed d j then
      let s := s.modPort d j (fun p => { p with declared := true })
      ((s.incSat (PORT.FLTSTAT_FLT_CNT d j)).writeFaultCode d j 5).refreshTrips d
    else s

/-- FLT_CODE6 (R127, R129): low for 4,000 ticks continuously; code 6 replaces code 5 of the same pulse, and what R129 lets any code replace;
it is not counted again. -/
def execFltCode6 (d : Fin 4) (j : Fin 6) (s : State) : Out := s.whileRuns <|
  let p := s.port d j
  .next <|
    if p.measuring && p.declared && s.faultUsed d j then
      (if p.own5 then (s.set (PORT.FLTSTAT_FLT_CODE d j) 6).modPort d j (fun p => { p with own5 := false })
       else s.writeFaultCode d j 6).refreshTrips d
    else s

/-- FLT_EARLY (R132): FLTn low for 80 ticks continuously in a group with FLT_EARLY = 1. -/
def execFltEarly (d : Fin 4) (j : Fin 6) (s : State) : Out := s.whileRuns <|
  let tg := s.tgOf d j
  let cur := s.get (PORT.FLTSTAT_FLT_CODE d j)
  .next <|
    if s.flag (TRIP.TGCFG_FLT_EARLY d tg) && s.faultUsed d j && (s.port d j).measuring then
      if s.codeTrips d tg cur then s.refreshTrips d
      else (s.set (PORT.FLTSTAT_FLT_CODE d j) 7).refreshTrips d
    else s

/-- A write of 1 to FLT_CLR (R130). -/
def State.faultClear (s : State) (d j : Nat) : State :=
  if s.flag (PORT.FLTSTAT_FLT_LINE d j) && !(s.port d j).measuring
  then (s.set (PORT.FLTSTAT_FLT_CODE d j) 0).refreshTrips d else s

/-- FLT_CLR (R130). -/
def execFltClr (d : Fin 4) (j : Fin 6) (s : State) : Out := s.whileRuns <| .next (s.faultClear d j)

/-- CHOP_EN, CHOP_SIDE or FLT_USE of PCFG is written (R131, R168, R169, R620).  A port that gains the role, or whose switched side changes,
turns both outputs off and follows its comparator from there (DESIGN CHOICE, assumption 69: the rule states only the loss of the role); in a
trip it takes the safe state of R171, and without one it is free at once, since it has no command edge to wait for. -/
def State.pcfgApply (s : State) (d j : Nat) (w : Word) : State :=
  let use := s.faultUsed d j
  let chop := s.chopperRole d j
  let side := s.flag (PORT.PCFG_CHOP_SIDE d j)
  let s := s.setReg (PORT.PCFG d j) w
  let s := if use && !s.faultUsed d j then
      (s.set (PORT.FLTSTAT_FLT_CODE d j) 0).modPort d j (fun p => { p with measuring := false, declared := false, own5 := false })
    else if !use && s.faultUsed d j && !s.flag (PORT.FLTSTAT_FLT_LINE d j) then
      s.modPort d j (fun p => { p with measuring := true, declared := false, own5 := false })
    else s
  let k := s.tgOf d j
  let s := if chop && !s.chopperRole d j then
      ((s.bothOffIn d j true).setB (PORT.CHOP_STAT_CHOP_ON d j) false).modPort d j (fun p => { p with
        mode := 0, safe := if p.safe = .chopper then .opened else p.safe })
    else if !chop && s.chopperRole d j then
      let t := s.bothOffIn d j true
      if t.stoBranch d then t
      else if t.flag (TRIP.TGSTAT_TRIPPED d k) then t.enterSafe d j (t.safeTarget d k j (t.activeSources d k))
      else t.modPort d j (fun p => { p with safe := .none, held := false })
    else if chop && decide (s.flag (PORT.PCFG_CHOP_SIDE d j) ≠ side) then
      (s.bothOffIn d j true).setB (PORT.CHOP_STAT_CHOP_ON d j) false
    else s
  s.refreshTrips d

/-! ### Trip groups -/

/-- TRIP_GROUP_TRIP (R137, R154): the first tick with a mapped source of the group active; the die's other group is judged by the same
tick. -/
def execTripGroupTrip (d : Fin 4) (k : Fin 2) (s : State) : Out := s.whileRuns <| .next (if s.tripCause d k = 0 then s else s.tripDie d)

/-- ASC_SHORT_SIDE_ON (R142): the tick in which the ASC interval ends; its fine part is placed (R113). -/
def execAscShortSideOn (d : Fin 4) (j : Fin 7) (s : State) : Out := s.whileRuns <|
  .next (match (s.port d j).ascWait with
    | none => s
    | some w =>
      if !s.dieRuns d || decide (w.ticks ≠ 0) then s
      else (((s.modPort d j (fun p => { p with ascWait := none })).placeEdge d j w.fine).turnOn d j w.high).refreshTrips d)

/-- CUFF_EXPIRE (R146): the last tick e + CUFF - 1 of a cuff has passed; an output of 1 makes the source active in the present tick. -/
def execCuffExpire (d : Fin 4) (i : Fin 16) (s : State) : Out := s.whileRuns <|
  .next (if vget (vget s.drives d).cuffs i ≠ 0 then s else s.refreshTrips d)

/-- TRIP_INPUT_ACTIVE (R158): a level of TRIPx has held for FILT ticks and passes the filter. -/
def execTripInputActive (d x : Fin 4) (level : Bool) (s : State) : Out := s.whileRuns <|
  let s := s.setBit (TRIP.PINSTAT_TRIP_LVL d) x level
  let active := decide (level = s.bit (TRIP.TRIPIN_POL d) x)
  .next ((s.modDrive d (fun q => { q with tripIn := (q.tripIn &&& (15 ^^^ 2 ^ (x : Nat))) ||| (if active then 2 ^ (x : Nat) else 0) })).refreshTrips d)

/-- A write to MEMBERS is applied only while both groups are tripped (R135); the fault sources follow the ports. -/
def State.membersApply (s : State) (d : Nat) (w : Word) : State :=
  if s.flag (TRIP.TGSTAT_TRIPPED d 0) && s.flag (TRIP.TGSTAT_TRIPPED d 1) then
    let m := getBits w 0 7
    let s := s.set (TRIP.MEMBERS_MEMB1 d) m
    let s := (s.set (TRIP.SRCMASK_PORTSRC d 1) m).set (TRIP.SRCMASK_PORTSRC d 0) (0x7F ^^^ m)
    s.refreshTrips d
  else (s.setB (TRIP.TGSTAT_TG_CFG_ERR d 0) true).setB (TRIP.TGSTAT_TG_CFG_ERR d 1) true

/-- MEMBERS_WRITE (R135). -/
def execMembersWrite (d : Fin 4) (m : BitVec 7) (s : State) : Out := s.whileRuns <| .next (s.membersApply d (BitVec.ofNat 32 m.toNat))

/-- A write to SRC_MASK: bits that it would clear during a trip stay set, with TG_CFG_ERR (R139). -/
def State.srcMaskApply (s : State) (d k : Nat) (w : Word) : State :=
  let was := s.reg (TRIP.SRCMASK d k)
  if s.flag (TRIP.TGSTAT_TRIPPED d k) then
    let s := (s.setReg (TRIP.SRCMASK d k) (was ||| w))
    let s := if was &&& ~~~w = 0 then s else s.setB (TRIP.TGSTAT_TG_CFG_ERR d k) true
    (s.refreshCuffs d).refreshTrips d
  else ((s.setReg (TRIP.SRCMASK d k) w).refreshCuffs d).refreshTrips d

/-- The bits of SRC_MASK that a write can change: PARITY, CLE, TRIP and CMP. -/
def srcMaskRw : Word := 0x7F00FFFF

/-- SRC_MASK_WRITE (R139): a word written to SRC_MASK through the normal alias. -/
def execSrcMaskWrite (d : Fin 4) (k : Fin 2) (w : Word) (s : State) : Out := s.whileRuns <|
  .next (s.srcMaskApply d k ((s.reg (TRIP.SRCMASK d k) &&& ~~~srcMaskRw) ||| (w &&& srcMaskRw)))

/-- A write to TG_MODE (R164, R165). -/
def State.tgModeApply (s : State) (d k m : Nat) : State :=
  if (vget s.tgs (2 * d + k)).modeFixed then s
  else
    let now := if m = 3 then 1 else m
    if s.flag (TRIP.TGSTAT_TRIPPED d k) ∧ s.get (TRIP.TGCTL_TG_MODE d k) = 0 ∧ now ≠ 0
    then s.setB (TRIP.TGSTAT_TRIP_CLR_REJ d k) true
    else s.set (TRIP.TGCTL_TG_MODE d k) now

/-- TG_MODE_WRITE (R164). -/
def execTgModeWrite (d : Fin 4) (k : Fin 2) (m : Fin 4) (s : State) : Out := s.whileRuns <| .next (s.tgModeApply d k m)

/-- EN_PIN_RISE (R161): the synchronised rising edge of ENx on a die, after `lowTicks` ticks low. -/
def execEnPinRise (d x : Fin 4) (lowTicks : Nat) (s : State) : Out := s.whileRuns <|
  let s := s.setBit (TRIP.PINSTAT_EN_LVL d) x true
  .next <|
    if lowTicks < 800 || (vget s.drives d).clockStopped then s
    else foldOver [0, 1] (fun k t => if t.bit (TRIP.TGCFG_EN_SEL d k) x then t.clearAttempt d k else t) s

/-! ### The brake chopper (R168-R171, R620) -/

/-- May the chopper switch: its role, its group's scheme, no safe state but its own? -/
def State.chopperFree (s : State) (d j : Nat) : Bool :=
  s.chopperRole d j && s.selectsOv d (s.tgOf d j) && s.dieRuns d
    && (decide ((s.port d j).safe = .none) || decide ((s.port d j).safe = .chopper))

/-- The chopper follows the unlatched output of its comparator once its output has been on for CHOP_TON ticks or off for CHOP_TOFF ticks,
whatever turned it off (R169, R170). -/
def State.chopperFollow (s : State) (d j : Nat) : State :=
  let want := s.flag (CMP.CSTAT_OUT d (s.get (PORT.PCFG_CHOP_CMP d j)))
  let high := !s.flag (PORT.PCFG_CHOP_SIDE d j)
  let p := s.port d j
  let on := if high then p.gh else p.gl
  let since := if high then p.sinceH else p.sinceL
  let least := if on then s.get (PORT.CHOP_TON_TON d j) else s.get (PORT.CHOP_TOFF_TOFF d j)
  if !s.chopperFree d j || decide (want = on) || decide (since < least) then s
  else
    let s := s.turnOff d j (!high)
    (if want then s.turnOn d j high else s.turnOff d j high).refreshTrips d

/-- CHOPPER_SWITCH (R169). -/
def execChopperSwitch (d : Fin 4) (j : Fin 6) (s : State) : Out := s.whileRuns <| .next (s.chopperFollow d j)

/-- CHOP_MIN_TIME_END (R170): the tick in which the minimum time that delays the chopper ends. -/
def execChopMinTimeEnd (d : Fin 4) (j : Fin 6) (s : State) : Out := s.whileRuns <| .next (s.chopperFollow d j)

/-! ### Auxiliary ports (R172-R177) -/

/-- AP_BOOT_UV (R173). -/
def execApBootUv (d : Fin 4) (s : State) : Out := s.whileRuns <|
  let s := (s.turnOff d 6 true).modPort d 6 (fun p => { p with pendOn := p.pendOn.filter (fun w => !w.high) })
  let s := (s.setB (APB.APSTAT_AP_BOOT_UV d) true).setB (APB.APSTAT_BOOT_OK d) false
  let s := (s.incSat (APB.APSTAT_UV_CNT d)).setReg (PORT.ACT_DUTY d 6) 0
  .next (s.refreshTrips d)

/-- BOOT_OK_RISE (R172). -/
def execBootOkRise (d : Fin 4) (s : State) : Out := s.whileRuns <| .next (s.setB (APB.APSTAT_BOOT_OK d) true)

/-- A write of 1 to AP_BOOT_UV (R174); the active DUTY is forced no longer (R173). -/
def State.bootUvClear (s : State) (d : Nat) : State :=
  if s.flag (APB.APSTAT_BOOT_OK d) then
    let duty := (s.port d 6).duty
    ((s.setB (APB.APSTAT_AP_BOOT_UV d) false).setReg (PORT.ACT_DUTY d 6) (BitVec.ofNat 32 duty)).refreshTrips d
  else s

/-- AP_BOOT_UV_CLEAR (R174). -/
def execApBootUvClear (d : Fin 4) (s : State) : Out := s.whileRuns <| .next (s.bootUvClear d)

/-- REF_W in force: 0-15 act as 16 (R177). -/
def State.refW (s : State) (d : Nat) : Nat := max 16 (s.get (APB.APREF_W_REF_W d))

/-- REF_INT in force: below 2 x REF_W it acts as 2 x REF_W (R177). -/
def State.refInt (s : State) (d : Nat) : Nat := max (2 * s.refW d) (s.get (APB.APREF_INT_REF_INT d))

/-- Does a refresh fall due: REF_EN, a running group, no safe state, a PMODE that drives outputs (R176; DEDUCED, assumption 66)? -/
def State.refreshWanted (s : State) (d : Nat) : Bool :=
  s.flag (APB.APCFG_REF_EN d) && s.follows d 6 && s.dieRuns d && (s.groupOf d 6).isSome && decide ((s.port d 6).mode ≠ 0)
    && decide ((s.port d 6).refresh = 0) && decide (s.refInt d ≤ (s.port d 6).refCount)

/-- AP_REFRESH_START (R176, step 1): the count has reached REF_INT; ALGd is due DT_FALL later, its fine part included (R113). -/
def execApRefreshStart (d : Fin 4) (s : State) : Out := s.whileRuns <|
  .next <|
    if s.refreshWanted d then
      let dt := (s.reg (PORT.ACT_DT_FALL d 6)).toNat
      (((s.turnOff d 6 true).setB (APB.APSTAT_REF_ACT d) true).modPort d 6 (fun p => { p with
        refresh := 1, refWait := dt / 64, refFine := dt % 64, pendOn := none })).refreshTrips d
    else s

/-- AP_REFRESH_LOW_ON (R176, step 2): ALGd on for REF_W ticks, its edge placed by the fine part of the dead time (R113). -/
def execApRefreshLowOn (d : Fin 4) (s : State) : Out := s.whileRuns <|
  .next <|
    if decide ((s.port d 6).refresh = 1) && decide ((s.port d 6).refWait = 0) && s.follows d 6 && s.dieRuns d then
      let w := s.refW d
      (((s.placeEdge d 6 (s.port d 6).refFine).turnOn d 6 false).modPort d 6 (fun p => { p with refresh := 2, refWait := w })).refreshTrips d
    else s

/-- AP_REFRESH_END (R176, steps 3 and 4): ALGd off, as far into its tick as it went on; with the command still high, and a PMODE that drives the
high side, AHGd on DT_RISE after that edge.  The count restarts. -/
def execApRefreshEnd (d : Fin 4) (s : State) : Out := s.whileRuns <|
  .next <|
    if decide ((s.port d 6).refresh = 2) && decide ((s.port d 6).refWait = 0) && s.follows d 6 && s.dieRuns d then
      let fine := (s.port d 6).refFine
      let s := (((s.placeEdge d 6 fine).turnOff d 6 false).setB (APB.APSTAT_REF_ACT d) false).modPort d 6 (fun p => { p with
        refresh := 0, refCount := 0, refFine := 0 })
      let dt := (s.reg (PORT.ACT_DT_RISE d 6)).toNat
      let drives := decide ((s.port d 6).mode = 1) || decide ((s.port d 6).mode = 2)
      let s := if decide ((s.port d 6).level = some true) && drives && !s.flag (APB.APSTAT_AP_BOOT_UV d) then
          if dt = 0 then s.turnOn d 6 true else s.modPort d 6 (fun p => { p with pendOn := some ⟨true, (fine + dt) / 64, (fine + dt) % 64⟩ })
        else s
      s.refreshTrips d
    else s

end Sys2Proof.Machine
end

