-- ==== Sys2Proof/Machine/Sensing.lean ====
section
/-!
DEFINITION. Sys2Proof/Machine/Sensing.lean: ADC cores, comparators and position interfaces (chapter 6): operations and
commands.
-/

namespace Sys2Proof.Machine

/-! ### CLE data memory, as the die writes it -/

/-- The address of word `w` of the data memory of CLE(2d+c). -/
def cleDataAddr (d c w : Nat) : Nat := 0x40190000 + 0x1000000 * d + 0x800 * c + 4 * w

/-- A word of a CLE's data memory. -/
def State.cleData (s : State) (d c w : Nat) : Word := s.memWord (cleDataAddr d c w)

/-- Store a word of a CLE's data memory. -/
def State.setCleData (s : State) (d c w : Nat) (x : Word) : State := s.setMemWord (cleDataAddr d c w) x

/-- Word 0x050 in both CLEs: OUT of the 16 comparators, LAT above them (R196). -/
def State.publishCmps (s : State) (d : Nat) : State :=
  let word := (List.range 16).foldl (fun m i =>
    m ||| (if s.flag (CMP.CSTAT_OUT d i) then 2 ^ i else 0) ||| (if s.flag (CMP.CSTAT_LAT d i) then 2 ^ (i + 16) else 0)) 0
  (s.setCleData d 0 0x50 (BitVec.ofNat 32 word)).setCleData d 1 0x50 (BitVec.ofNat 32 word)

/-! ### Conversion (R179-R183) -/

/-- Is a source differential (R179)? -/
def selDiff (sel : Nat) : Bool := decide (0x10 ≤ sel) && decide (sel < 0x18)

/-- The code of a conversion within the range of its mode. -/
def satCode (diff : Bool) (x : Int) : Int :=
  if diff then max (-32768) (min 32767 x) else max 0 (min 65535 x)

/-- The calibrated code (R180): the product rounded by 2^14 and an arithmetic shift of 15, then OFFS, saturated again. -/
def calibrate (cal : Word) (diff : Bool) (code : Int) : Int :=
  satCode diff ((satCode diff code * (getBits cal 16 16 : Nat) + 2 ^ 14) / 2 ^ 15 + toSigned 16 (getBits cal 0 16))

/-- The data field of a result (R182): RES 0-3, ALIGN. -/
def resultData (res : Nat) (left : Bool) (code : Int) : Nat :=
  let drop := match res with | 0 => 0 | 1 => 2 | _ => 4
  let q := code / (2 ^ drop : Nat)
  ofSigned 16 (if left then q * (2 ^ drop : Nat) else q)

/-- A result word (R183). -/
def resultWord (ovr inj : Bool) (sel entry data : Nat) : Word :=
  BitVec.ofNat 32 ((if ovr then 2 ^ 31 else 0) + 2 ^ 30 + (if inj then 2 ^ 29 else 0) + 2 ^ 24 * (sel % 32)
    + 2 ^ 20 * (entry % 16) + data % 65536)

/-- The number a result word's data stand for: signed for a differential source. -/
def dataValue (sel data : Nat) : Int := if selDiff sel then toSigned 16 data else (data : Int)

/-! ### Sequences (R184-R194) -/

/-- The CLE word of a result slot of core `k`. -/
def slotWord (k : Nat) (inj : Bool) (e : Nat) : Nat := if inj then 0x40 + 4 * k + e else 16 * k + e

/-- The result register of a slot. -/
def slotReg (d k : Nat) (inj : Bool) (e : Nat) : Nat := if inj then ADC.IRES d k e else ADC.RRES d k e

/-- Clear VALID in a result slot and in its CLE copies; the data stay (R185). -/
def State.clearValid (s : State) (d k : Nat) (inj : Bool) (e : Nat) : State :=
  let clr (w : Word) : Word := putBits w 30 1 0
  let s := s.setReg (slotReg d k inj e) (clr (s.reg (slotReg d k inj e)))
  let s := s.setCleData d 0 (slotWord k inj e) (clr (s.cleData d 0 (slotWord k inj e)))
  s.setCleData d 1 (slotWord k inj e) (clr (s.cleData d 1 (slotWord k inj e)))

/-- The entries that a trigger latches (R186, R193). -/
def State.regEntries (s : State) (d k : Nat) : List Nat :=
  (List.range (min 16 (s.get (ADC.SEQCFG_REG_LEN d k)))).map (fun e => (s.reg (ADC.RENT d k e)).toNat)

/-- The injected entries that a trigger latches. -/
def State.injEntries (s : State) (d k : Nat) : List Nat :=
  (List.range (min 4 (s.get (ADC.SEQCFG_INJ_LEN d k)))).map (fun e => (s.reg (ADC.IENT d k e)).toNat)

/-- A flit of an ADC core to N: the core, two words (R197). -/
def State.sendSamples (s : State) (d k : Nat) (a b : Nat) : State :=
  s.send ⟨.sampleFlit, (Die.drive d).code, [4 * d + k, a, b]⟩

/-- The VALID bits of regular slots, in the result register and in both CLEs. -/
def State.validBits (s : State) (d k : Nat) (es : List Nat) : List (Nat × Bool × Bool × Bool) :=
  let v (w : Word) : Bool := decide (getBits w 30 1 = 1)
  es.map (fun e => (e, v (s.reg (slotReg d k false e)), v (s.cleData d 0 (slotWord k false e)), v (s.cleData d 1 (slotWord k false e))))

/-- The regular sequence begins: VALID of its slots clears and entry 0 is held. -/
def State.startRegular (s : State) (d k : Nat) : State :=
  let es := List.range (s.adc d k).reg.length
  let had := s.validBits d k es
  let s := foldOver es (fun e t => t.clearValid d k false e) s
  (s.modAdc d k (fun c => { c with regAt := some 0, deferred := false, holdTick := s.ttime d, cleared := had })).set (ADC.ASTAT_CUR_ENTRY d k) 0

/-- A regular start of this tick that an injected trigger of the same tick defers has not cleared VALID yet (R185, R192). -/
def State.restoreValid (s : State) (d k : Nat) : State :=
  let put (w : Word) (v : Bool) : Word := putBits w 30 1 (if v then 1 else 0)
  let s := (s.adc d k).cleared.foldl (fun t (b : Nat × Bool × Bool × Bool) =>
    let t := t.setReg (slotReg d k false b.1) (put (t.reg (slotReg d k false b.1)) b.2.1)
    let t := t.setCleData d 0 (slotWord k false b.1) (put (t.cleData d 0 (slotWord k false b.1)) b.2.2.1)
    t.setCleData d 1 (slotWord k false b.1) (put (t.cleData d 1 (slotWord k false b.1)) b.2.2.2)) s
  s.modAdc d k (fun c => { c with cleared := [] })

/-- An ignored trigger counts (R188, R191, R197). -/
def State.triggerLost (s : State) (d k : Nat) (f : RF) : State := (s.setB f true).incSat (ADC.ASTAT_LOST_CNT d k)

/-- A regular trigger (R186, R188, R192-R194, R197). -/
def State.regTrigger (s : State) (d k : Nat) : State :=
  let c := s.adc d k
  if s.flag (ADC.ASTAT_RETIRED d k) || !s.flag (ADC.ACFG_EN d k) then s
  else if s.get (ADC.SEQCFG_REG_LEN d k) = 0 then s.setBit (ADC.ASTAT_SEQ_EMPTY d k) 0 true
  else if s.flag (ADC.ASTAT_REG_BUSY d k) then s.triggerLost d k (ADC.ASTAT_TRIG_LOST d k)
  else if s.flag (ADC.ACFG_FWD_N d k) && (match c.lastTrig with | some t => decide ((s.ttime d + (2 ^ 48 - t)) % 2 ^ 48 < 1600) | none => false)
    then s.triggerLost d k (ADC.ASTAT_TRIG_LOST d k)
  else
    let es := s.regEntries d k
    let s := s.modAdc d k (fun c => { c with
      reg := es, decPrev := if c.lastTrig = some (s.ttime d) then c.decPrev else c.decReg, decReg := some es, lastTrig := some (s.ttime d), half := none })
    let s := s.setB (ADC.ASTAT_REG_BUSY d k) true
    let s := if s.flag (ADC.ACFG_FWD_N d k)
      then s.sendSamples d k (s.ttime d) (s.hopNow d) else s
    if c.injAt.isSome then (s.modAdc d k (fun c => { c with deferred := true })).setB (ADC.ASTAT_REG_LATE d k) true
    else s.startRegular d k

/-- An injected trigger (R189-R191, R193, R194).  A regular conversion held in this same tick is not aborted: its entry
waits (R190); the first entry of a sequence triggered in this tick starts late (R192). -/
def State.injTrigger (s : State) (d k : Nat) : State :=
  let c := s.adc d k
  if s.flag (ADC.ASTAT_RETIRED d k) || !s.flag (ADC.ACFG_EN d k) then s
  else if s.get (ADC.SEQCFG_INJ_LEN d k) = 0 then s.setBit (ADC.ASTAT_SEQ_EMPTY d k) 1 true
  else if c.injAt.isSome then s.triggerLost d k (ADC.ASTAT_INJ_LOST d k)
  else
    let now := s.ttime d
    let es := s.injEntries d k
    let s := match c.regAt with
      | none => s
      | some e =>
        if c.holdTick = now then
          (if e = 0 ∧ c.lastTrig = some now
           then ((s.restoreValid d k).modAdc d k (fun c => { c with regAt := none, deferred := true })).setB (ADC.ASTAT_REG_LATE d k) true else s)
        else
          let s := s.setB (ADC.ASTAT_PREEMPT d k) true
          if c.stopping then (s.modAdc d k (fun c => { c with regAt := none, stopping := false })).setB (ADC.ASTAT_REG_BUSY d k) false else s
    let s := foldOver (List.range es.length) (fun e t => t.clearValid d k true e) s
    (s.modAdc d k (fun c => { c with inj := es, injAt := some 0, holdTick := now })).setB (ADC.ASTAT_INJ_BUSY d k) true

/-- Forward a result word of the regular sequence: two to a flit, the last flit of an odd sequence filled with 0; the
stream units fold the word (R197, table after R574). -/
def State.forward (s : State) (d k : Nat) (w : Word) (isLast : Bool) : State :=
  let s := s.crcItem 4 (4 * d + k) ((bytesLE w.toNat 4).map BitVec.toNat)
  match (s.adc d k).half with
  | some a => (s.sendSamples d k a.toNat w.toNat).modAdc d k (fun c => { c with half := none })
  | none => if isLast then s.sendSamples d k w.toNat 0 else s.modAdc d k (fun c => { c with half := some w })

/-- Write a result word to its register and to the data memory of every CLE named in CLE_DST (R184). -/
def State.writeResult (s : State) (d k : Nat) (inj : Bool) (e : Nat) (w : Word) : State :=
  let s := s.setReg (slotReg d k inj e) w
  foldOver (bitsOf 2 (s.get (ADC.ACFG_CLE_DST d k))) (fun c t => t.setCleData d c (slotWord k inj e) w) s

/-- The result word of a conversion: the calibration of its mode, RES and ALIGN as they stand. -/
def State.formResult (s : State) (d k : Nat) (inj : Bool) (ent e : Nat) (code : Int) (ovr : Bool) : Word :=
  let sel := ent % 32
  let diff := selDiff sel
  let cal := s.reg (if diff then ADC.ACAL_DIFF d k else ADC.ACAL_SE d k)
  resultWord ovr inj sel e (resultData (s.get (ADC.ACFG_RES d k)) (s.flag (ADC.ACFG_ALIGN d k)) (calibrate cal diff code))

/-- The decimated record takes in a result (R198). -/
def State.gatherDec (s : State) (d k e : Nat) (w : Word) (ent : Nat) : State :=
  s.modAdc d k (fun c => { c with dec := vmod c.dec e (fun a =>
    { sum := a.sum + dataValue (ent % 32) (getBits w 0 16), n := a.n + 1, ovr := a.ovr || getBits w 31 1 = 1 }) })

/-- The conversion in progress has been completed after EN changed from 1 to 0, and its sequence stops (R194).  A regular sequence that a
trigger after a new enable has deferred begins.  A result word that waits for the second half of its flit is not sent (R197 does not say;
DESIGN CHOICE, assumption 73). -/
def State.stopSequence (s : State) (d k : Nat) : State :=
  let s := if (s.adc d k).injAt.isSome then s.setB (ADC.ASTAT_INJ_BUSY d k) false else s.setB (ADC.ASTAT_REG_BUSY d k) false
  let s := s.modAdc d k (fun c => { c with regAt := none, injAt := none, stopping := false, half := none })
  if (s.adc d k).deferred then s.startRegular d k else s

/-- Both sequences stop (R195). -/
def State.stopSequences (s : State) (d k : Nat) : State :=
  let s := s.modAdc d k (fun c => { c with regAt := none, injAt := none, deferred := false, stopping := false, half := none })
  (s.setB (ADC.ASTAT_REG_BUSY d k) false).setB (ADC.ASTAT_INJ_BUSY d k) false

/-- What follows a completed injected conversion: the next entry, the deferred or pre-empted regular sequence. -/
def State.afterInjected (s : State) (d k i : Nat) : State :=
  let c := s.adc d k
  if c.stopping then s.stopSequence d k
  else if i + 1 < c.inj.length then s.modAdc d k (fun c => { c with injAt := some (i + 1), holdTick := s.ttime d })
  else
    let s := (s.modAdc d k (fun c => { c with injAt := none, holdTick := s.ttime d })).setB (ADC.ASTAT_INJ_BUSY d k) false
    if c.deferred then s.startRegular d k else s

/-- What follows a completed regular conversion. -/
def State.afterRegular (s : State) (d k e : Nat) : State :=
  let c := s.adc d k
  if c.stopping then s.stopSequence d k
  else if e + 1 < c.reg.length then
    (s.modAdc d k (fun c => { c with regAt := some (e + 1), holdTick := s.ttime d })).set (ADC.ASTAT_CUR_ENTRY d k) (e + 1)
  else (s.modAdc d k (fun c => { c with regAt := none })).setB (ADC.ASTAT_REG_BUSY d k) false

/-- The conversion in progress completes with the code round(V x 65,536 / 3.3 V) or round(V x 32,768 / 1.65 V) before
calibration, and the window detector's OVR (R180, R181, R184).  FWD_N is asked at each result: set while a regular sequence runs, it forwards the
remaining words without a stamp (R197 does not say; DESIGN CHOICE, assumption 73). -/
def State.conversionComplete (s : State) (d k : Nat) (code : Int) (ovr : Bool) : State :=
  let c := s.adc d k
  match c.injAt, c.regAt with
  | some i, _ =>
    let w := s.formResult d k true (c.inj.getD i 0x1A) i code ovr
    (s.writeResult d k true i w).afterInjected d k i
  | none, some e =>
    let ent := c.reg.getD e 0x1A
    let w := s.formResult d k false ent e code ovr
    let s := (s.writeResult d k false e w).gatherDec d k e w ent
    let s := if s.flag (ADC.ACFG_FWD_N d k) then s.forward d k w (decide (e + 1 = c.reg.length)) else s
    s.afterRegular d k e
  | none, none => s

/-- A core is retired (R195): no further results, VALID = 0 in every slot, the retirement recorded (R25). -/
def State.retireCore (s : State) (d k : Nat) : State :=
  let s := (s.stopSequences d k).setB (ADC.ASTAT_RETIRED d k) true
  let s := foldOver (List.range 16) (fun e t => t.clearValid d k false e) s
  let s := foldOver (List.range 4) (fun e t => t.clearValid d k true e) s
  s.recordRetire .adcCore (Die.drive d) k

/-- A write to ACFG: EN from 1 to 0 lets the conversion in progress complete and stops the sequence (R194), which a new enable does not
undo; a regular sequence that waits behind an injected conversion stops at once.  EN from 0 to 1 begins anew for the decimated record
(R625). -/
def State.acfgApply (s : State) (d k : Nat) (w : Word) : State :=
  let was := s.flag (ADC.ACFG_EN d k)
  let s := s.setReg (ADC.ACFG d k) w
  let now := s.flag (ADC.ACFG_EN d k)
  let c := s.adc d k
  if was && !now then
    (if c.injAt.isSome then
       (s.modAdc d k (fun c => { c with stopping := true, regAt := none, deferred := false, half := none })).setB (ADC.ASTAT_REG_BUSY d k) false
     else if c.regAt.isSome then s.modAdc d k (fun c => { c with stopping := true }) else s)
  else if !was && now then s.modAdc d k (fun c => { c with decReg := none, decPrev := none })
  else s

/-- The tick of source `src` (1-4 a control-period start, 10 a time event) at a core, which the boundary or the time event itself brings: the
injected trigger before the regular one (R187, R192); a core whose trigger names another source is untouched. -/
def State.sourceTick (s : State) (d k src : Nat) : State :=
  let s := if s.get (ADC.SEQCFG_INJ_TRIG d k) = src then s.injTrigger d k else s
  if s.get (ADC.SEQCFG_REG_TRIG d k) = src then s.regTrigger d k else s

/-- The tick of a source at every core of a die. -/
def State.sourceTicks (s : State) (d src : Nat) : State := foldOver (List.range 4) (fun k t => t.sourceTick d k src) s

/-- Is this a trigger tick of the counter match with `trig`, the RTRIG or ITRIG of a core (R187): the counter of the group runs and stands at
CNT? -/
def State.counterMatch (s : State) (d src : Nat) (trig : Word) : Bool :=
  s.grpRuns d (src - 5) && decide (s.get (PWM.CNT_COUNT d (src - 5)) = getBits trig 0 20)

/-- Is this the trigger tick of a rising OUT edge that the named comparator had at TTIME `t` (R187): 1 to 3 ticks after it? -/
def State.edgeTick (s : State) (d : Nat) (t : Option Nat) : Bool :=
  match t with
  | some t => let n := (s.ttime d + (2 ^ 48 - t)) % 2 ^ 48; decide (1 ≤ n) && decide (n ≤ 3)
  | none => false

/-- ADC_REGULAR_TRIGGER (R187, R188): the tick of source `src`; a core whose REG_TRIG names another is untouched.  A counter match (5-8) and a
comparator edge (9) are looked for, and one tick of a match triggers once.  A control-period start (1-4) and a time event (10) have given their
trigger with the command that brought them (`State.sourceTick`), so no second one follows (assumption 73). -/
def execAdcRegularTrigger (d k : Fin 4) (src : Fin 16) (s : State) : Out := s.whileRuns <|
  .next (
    let now := some (s.ttime d)
    let c := s.adc d k
    if s.get (ADC.SEQCFG_REG_TRIG d k) ≠ src.val then s
    else if src.val = 9 then
      (if s.edgeTick d c.regEdge then (s.modAdc d k (fun c => { c with regEdge := none })).regTrigger d k else s)
    else if decide (5 ≤ src.val) && decide (src.val ≤ 8) && decide (c.regMark ≠ now) && s.counterMatch d src (s.reg (ADC.RTRIG d k)) then
      (s.modAdc d k (fun c => { c with regMark := now })).regTrigger d k
    else s)

/-- ADC_INJECTED_TRIGGER (R187, R189), in the same way. -/
def execAdcInjectedTrigger (d k : Fin 4) (src : Fin 16) (s : State) : Out := s.whileRuns <|
  .next (
    let now := some (s.ttime d)
    let c := s.adc d k
    if s.get (ADC.SEQCFG_INJ_TRIG d k) ≠ src.val then s
    else if src.val = 9 then
      (if s.edgeTick d c.injEdge then (s.modAdc d k (fun c => { c with injEdge := none })).injTrigger d k else s)
    else if decide (5 ≤ src.val) && decide (src.val ≤ 8) && decide (c.injMark ≠ now) && s.counterMatch d src (s.reg (ADC.ITRIG d k)) then
      (s.modAdc d k (fun c => { c with injMark := now })).injTrigger d k
    else s)

/-- SW_REG (R187). -/
def execSwReg (d k : Fin 4) (s : State) : Out := s.whileRuns <| .next (s.regTrigger d k)

/-- SW_INJ (R187). -/
def execSwInj (d k : Fin 4) (s : State) : Out := s.whileRuns <| .next (s.injTrigger d k)

/-- ADC_CONVERSION_COMPLETE (R184). -/
def execAdcConversionComplete (d k : Fin 4) (code : Int) (ovr : Bool) (s : State) : Out := s.whileRuns <|
  .next (s.conversionComplete d k code ovr)

/-- ADC_CONVERSION_TIMEOUT (R195): 96 ticks after its hold the conversion has not completed. -/
def execAdcConversionTimeout (d k : Fin 4) (s : State) : Out := s.whileRuns <|
  .next (if (s.adc d k).regAt.isSome || (s.adc d k).injAt.isSome then s.retireCore d k else s)

/-! ### The decimated state record (R198, R625) -/

/-- The words of one core: by the entries latched at its last regular trigger before the boundary, that of this tick left out (R625). -/
def State.decWords (s : State) (d k : Nat) : List Nat :=
  let c := s.adc d k
  let latched := if c.lastTrig = some (s.ttime d) then c.decPrev else c.decReg
  let es := latched.getD (s.regEntries d k)
  let chosen := ((List.range es.length).filter (fun e => (es.getD e 0).testBit 8)).take 4
  chosen.map (fun e =>
    let sel := es.getD e 0 % 32
    let a := vget c.dec e
    let ok := latched.isSome && decide (0 < a.n)
    (if ok && a.ovr then 2 ^ 31 else 0) + (if ok then 2 ^ 30 else 0) + 2 ^ 24 * sel + 2 ^ 20 * e
      + (if ok then ofSigned 16 (roundDiv a.sum a.n) else 0))

/-- The record of the die, formed in the control period that begins now; it holds the TTIME of that start (R157). -/
def State.stateRecord (s : State) (d : Nat) : List Nat :=
  let flags (n : Nat) (f : Nat → Bool) : Nat := (List.range n).foldl (fun m i => m ||| (if f i then 2 ^ i else 0)) 0
  [s.ttime d % 2 ^ 32,
   s.ttime d / 2 ^ 32 % 2 ^ 16 + 2 ^ 16 * flags 4 (fun k => s.flag (ADC.ASTAT_RETIRED d k)),
   s.hopNow d,
   flags 16 (fun i => s.flag (CMP.CSTAT_OUT d i)) + 2 ^ 16 * flags 16 (fun i => s.flag (CMP.CSTAT_LAT d i)),
   (s.reg (PI.PIANG d 0)).toNat, (s.reg (PI.PIANG d 1)).toNat]
  ++ (List.range 4).flatMap (fun k => s.decWords d k)

/-- Send the record to both command dies; the means begin anew. -/
def State.sendStateRecord (s : State) (d : Nat) : State :=
  foldOver (List.range 4) (fun k t => t.modAdc d k (fun c => { c with dec := Vector.replicate 16 {} }))
    (s.send ⟨.stateRecord, (Die.drive d).code, s.stateRecord d⟩)

/-! ### Comparators (R199-R211) -/

/-- In every tick LAT takes LAT OR OUT (R204); the CLEs and the trip groups see the comparator. -/
def State.cmpSettle (s : State) (d i : Nat) : State :=
  let s := if s.flag (CMP.CSTAT_OUT d i) then s.setB (CMP.CSTAT_LAT d i) true else s
  (s.publishCmps d).refreshTrips d

/-- A rising OUT edge waits to trigger the sequences whose trigger names the comparator (R187). -/
def State.armTriggers (s : State) (d i : Nat) : State :=
  let now := some (s.ttime d)
  foldOver (List.range 4) (fun k t =>
    let reg := decide (t.get (ADC.SEQCFG_REG_TRIG d k) = 9) && decide (getBits (t.reg (ADC.RTRIG d k)) 20 4 = i)
    let inj := decide (t.get (ADC.SEQCFG_INJ_TRIG d k) = 9) && decide (getBits (t.reg (ADC.ITRIG d k)) 20 4 = i)
    t.modAdc d k (fun c => { c with regEdge := if reg then now else c.regEdge, injEdge := if inj then now else c.injEdge })) s

/-- An OUT edge: counted if rising, captured if CAP_EDGE selects it (R206). -/
def State.cmpEdge (s : State) (d i : Nat) (v : Bool) : State :=
  let s := s.setB (CMP.CSTAT_OUT d i) v
  let s := if v then (s.incSat (CMP.CSTAT_EDGE_CNT d i)).armTriggers d i else s
  let s := if (s.get (CMP.CCFG_CAP_EDGE d i)).testBit (if v then 0 else 1) then
      let k := s.get (CMP.CCFG_CGRP d i)
      let s := (s.set (CMP.CCAPT_CAP_T d i) (s.ttime d)).setB (CMP.CCAPC_CAP_NEW d i) true
      let s := (s.setB (CMP.CCAPC_CAP_RISE d i) v).setB (CMP.CCAPC_CAP_DIR d i) (s.flag (PWM.CNT_DIR d k))
      (s.set (CMP.CCAPC_CAP_CNT d i) (s.get (PWM.CNT_COUNT d k))).modCmp d i (fun c => { c with edges := c.edges + 1 })
    else s
  s.cmpSettle d i

/-- INV in force: as latched while EN = 1, as written otherwise (R200). -/
def State.cmpInv (s : State) (d i : Nat) : Bool :=
  if s.flag (CMP.CCFG_EN d i) then (s.cmp d i).inv else s.flag (CMP.CCFG_INV d i)

/-- Where an input voltage in nV lies against a level code, whose level is code x 3.3 V / 4,096 and which acts within 0-4,095 (R199). -/
def levelSide (vin code : Int) : Ordering := compare (4096 * vin) (3300000000 * max 0 (min 4095 code))

/-- CTHR in force: a write acts from the tick after it (R200). -/
def State.cthr (s : State) (d i : Nat) : Word :=
  let c := s.cmp d i
  if c.thrAt = some (s.ttime d) then c.thrOld else s.reg (CMP.CTHR d i)

/-- A write to CTHR (R200). -/
def State.cthrApply (s : State) (d i : Nat) (w : Word) : State :=
  let old := s.cthr d i
  (s.modCmp d i (fun c => { c with thrOld := old, thrAt := some (s.ttime d) })).setReg (CMP.CTHR d i) w

/-- THRESH in force. -/
def State.thresh (s : State) (d i : Nat) : Nat := getBits (s.cthr d i) 0 12

/-- What a comparator's input says of OUT (R199): 1 or 0 beyond one of its two levels, nothing in its hysteresis band. -/
def State.cmpSense (s : State) (d i : Nat) (vin : Int) : Option Bool :=
  let th : Int := s.thresh d i
  let hy : Int := getBits (s.cthr d i) 16 10
  if s.cmpInv d i then
    (if levelSide vin th = .lt then some true else if levelSide vin (th + hy) = .gt then some false else none)
  else if levelSide vin th = .gt then some true
  else if levelSide vin (th - hy) = .lt then some false
  else none

/-- CMP_OUT_CHANGE (R199): the input of the comparator, as it sees it, is at `vin` nV.  With the main domains in reset only a comparator that
standby keeps powered is at work, and none of the clocked logic behind it (R208); under a check with the inputs swapped CHK_OUT follows the
input (R209). -/
def execCmpOutChange (d : Fin 4) (i : Fin 16) (vin : Int) (s : State) : Out :=
  .next (match s.cmpSense d i vin with
    | none => s
    | some v =>
      if s.flag (CMP.CSTAT_CHK_ACT d i) then (if s.get (CMP.CTEST_CHK d i) = 1 then s.setB (CMP.CSTAT_CHK_OUT d i) (!v) else s)
      else if !s.flag (CMP.CCFG_EN d i) || s.flag (CMP.CSTAT_SETTLING d i) || decide (s.flag (CMP.CSTAT_OUT d i) = v) then s
      else if s.mainRuns then s.cmpEdge d i v else s.setB (CMP.CSTAT_OUT d i) v)

/-- CMP_IRQ_EVENT (R207). -/
def execCmpIrqEvent (d : Fin 4) (i : Fin 16) (s : State) : Out := s.whileRuns <|
  .next (if s.flag (CMP.CCFG_IRQ_EN d i) && decide (0 < (s.cmp d i).edges) then
      (s.event .cmpEvent (Die.drive d) [16 * d.val + i.val, min (s.cmp d i).edges 255,
        (s.reg (CMP.CCAPT d i)).toNat, (s.reg (CMP.CCAPC d i)).toNat]).modCmp d i (fun c => { c with edges := 0 })
    else s)

/-- A write to CCFG: EN from 0 to 1 latches and settles at INIT without an edge (R200, R202); EN from 1 to 0 drops OUT and
LAT without an edge (R203).  Under a check OUT and LAT hold their values from before it when EN becomes 1 (R209 before R202: the comparator settles
as the check ends, R211), and drop when EN becomes 0 (R203 before R209); DESIGN CHOICE, assumption 73. -/
def State.ccfgApply (s : State) (d i : Nat) (w : Word) : State :=
  let was := s.flag (CMP.CCFG_EN d i)
  let s := s.setReg (CMP.CCFG d i) w
  let now := s.flag (CMP.CCFG_EN d i)
  let s :=
    if !was && now then
      let s := s.modCmp d i (fun c => { c with
        mode := s.get (CMP.CCFG_MODE d i), insel := s.get (CMP.CCFG_INSEL d i)
        inv := s.flag (CMP.CCFG_INV d i) })
      if s.flag (CMP.CSTAT_CHK_ACT d i) then s else
      let s := (s.setB (CMP.CSTAT_OUT d i) (s.flag (CMP.CCFG_INIT d i))).setB (CMP.CSTAT_SETTLING d i) true
      s.cmpSettle d i
    else if was && !now then
      let s := ((s.setB (CMP.CSTAT_OUT d i) false).setB (CMP.CSTAT_LAT d i) false).setB (CMP.CSTAT_SETTLING d i) false
      s.publishCmps d
    else s
  (s.refreshCuffs d).refreshTrips d

/-- CMP_SETTLING_END (R202, R211): the input, at `vin` nV, is evaluated once: beyond the level opposite to the held OUT, in the
hysteresis band, or beyond the level on OUT's own side. -/
def execCmpSettlingEnd (d : Fin 4) (i : Fin 16) (vin : Int) (s : State) : Out := s.whileRuns <|
  .next <|
    if !s.flag (CMP.CSTAT_SETTLING d i) || s.flag (CMP.CSTAT_CHK_ACT d i) then s
    else
      let s := s.setB (CMP.CSTAT_SETTLING d i) false
      match s.cmpSense d i vin with
      | some v => if v = s.flag (CMP.CSTAT_OUT d i) then s else s.cmpEdge d i v
      | none => s.setB (CMP.CSTAT_INBAND_AT_START d i) true

/-- A write of 1 to LAT (R204); under a check LAT holds (R209). -/
def State.latWrite (s : State) (d i : Nat) : State :=
  if s.flag (CMP.CSTAT_CHK_ACT d i) then s
  else ((s.setB (CMP.CSTAT_LAT d i) (s.flag (CMP.CSTAT_OUT d i))).publishCmps d).refreshTrips d

/-- CMP_LAT_WRITE (R204). -/
def execCmpLatWrite (d : Fin 4) (i : Fin 16) (s : State) : Out := s.whileRuns <| .next (s.latWrite d i)

/-- R210: may a check of the comparator begin? -/
def State.checkAllowed (s : State) (d i : Nat) : Bool :=
  let q := s.get (TRIP.CSRC_PARTNER d i)
  let maps := [0, 1].filter (fun k => s.cmpMapped d k i)
  (decide (q ≠ i) && s.flag (CMP.CCFG_EN d q) && !s.flag (CMP.CSTAT_CHK_ACT d q) && decide (s.cmpInsel d q = s.cmpInsel d i)
    && decide (s.cmpInv d q = s.cmpInv d i) && maps.all (fun k => s.cmpMapped d k q))
  || (maps.all (fun k => s.flag (TRIP.TGSTAT_TRIPPED d k))
    && !(List.range 6).any (fun j => s.chopperRole d j && decide (s.get (PORT.PCFG_CHOP_CMP d j) = i))
    && !(List.range 4).any (fun k => s.grpRuns d k && variableMode (s.grp d k).mode && decide ((s.grp d k).trigSel = i)))

/-- CHK_OUT under a check that begins (R209): with the inputs swapped the complement of the normal OUT for the same input, which is OUT as it
was before a first check; with the input tied what the table gives, or what R199 gives at that voltage; in the hysteresis band `free`. -/
def State.checkShows (s : State) (d i v : Nat) (free : Bool) : Bool :=
  let inRange := !s.cmpInv d i && decide (levelSide 300000000 (s.thresh d i) = .lt)
    && decide (levelSide 3000000000 (s.thresh d i) = .gt)
  match v with
  | 1 => if s.flag (CMP.CSTAT_CHK_ACT d i) then free else !s.flag (CMP.CSTAT_OUT d i)
  | 2 => if inRange then true else (s.cmpSense d i 3000000000).getD free
  | 3 => if inRange then false else (s.cmpSense d i 300000000).getD free
  | _ => if inRange then false else (s.cmpSense d i 0).getD free

/-- A write of CHK (R209-R211): OUT, LAT, the trip source and the wake request hold their values from before the check; `out` is what
the comparator shows under the check. -/
def State.chkWrite (s : State) (d i v : Nat) (out : Bool) : State :=
  if v = 0 ∨ 4 < v then
    let s := s.set (CMP.CTEST_CHK d i) 0
    if s.flag (CMP.CSTAT_CHK_ACT d i) then
      ((s.setB (CMP.CSTAT_CHK_ACT d i) false).setB (CMP.CSTAT_SETTLING d i) (s.flag (CMP.CCFG_EN d i))).refreshTrips d
    else s
  else if !s.checkAllowed d i then s.setB (CMP.CSTAT_CHK_REJ d i) true
  else
    let trip := s.cmpTrips d i
    let wake := s.flag (CMP.CCFG_WAKE_EN d i) && s.flag (CMP.CSTAT_OUT d i)
    let s := if s.flag (CMP.CSTAT_CHK_ACT d i) then s else s.modCmp d i (fun c => { c with heldTrip := trip, heldWake := wake })
    ((s.set (CMP.CTEST_CHK d i) v).setB (CMP.CSTAT_CHK_ACT d i) true).setB (CMP.CSTAT_CHK_OUT d i) out

/-- CMP_CHK_WRITE (R210): `free` is CHK_OUT where neither R209 nor R199 gives it. -/
def execCmpChkWrite (d : Fin 4) (i : Fin 16) (v : Fin 8) (free : Bool) (s : State) : Out := s.whileRuns <| .next (s.chkWrite d i v (s.checkShows d i v free))

/-- The start of a carrier period of PG(4d+k) clears the latches that LAT_MODE = 1 names (R204). -/
def State.carrierLatches (s : State) (d k : Nat) : State :=
  let s := foldOver (List.range 16) (fun i t =>
    if decide (t.get (CMP.CCFG_LAT_MODE d i) = 1) && decide (t.get (CMP.CCFG_CGRP d i) = k) && !t.flag (CMP.CSTAT_CHK_ACT d i)
      then t.setB (CMP.CSTAT_LAT d i) (t.flag (CMP.CSTAT_OUT d i)) else t) s
  (s.publishCmps d).refreshTrips d

/-! ### Position interfaces (R212-R218) -/

/-- Interface PI(2d+p). -/
def State.pi (s : State) (d p : Nat) : PosIf := vget s.pis (2 * d + p)

/-- Change one. -/
def State.modPi (s : State) (d p : Nat) (f : PosIf → PosIf) : State := { s with pis := vmod s.pis (2 * d + p) f }

/-- The EXC_DIV that acts (R213). -/
def excDivActs (x : Nat) : Nat := if x < 2 then 2 else if 32 < x then 32 else 2 * (x / 2)

/-- A write to PICFG: EN from 0 to 1 latches the configuration (R212). -/
def State.picfgApply (s : State) (d p : Nat) (w : Word) : State :=
  let was := s.flag (PI.PICFG_EN d p)
  let s := s.setReg (PI.PICFG d p) w
  if was || !s.flag (PI.PICFG_EN d p) then s
  else s.modPi d p (fun x => { x with
    encoder := s.flag (PI.PICFG_TYPE d p), grp := s.get (PI.PICFG_GRP d p), excDiv := excDivActs (s.get (PI.PICFG_EXC_DIV d p))
    zrst := s.flag (PI.PICFG_ZRST d p), src := s.reg (PI.PISRC d p), filt := s.get (PI.PICFG_FILT d p)
    exc := 0, sAcc := 0, cAcc := 0, n := 0, skipped := 0 })

/-- LOS, ENC_ERR or CPR_ERR is set and counted. -/
def State.piError (s : State) (d p : Nat) (f : RF) : State := (s.setB f true).incSat (PI.PISTAT_ERR_CNT d p)

/-- A sample of the pair: signed when its entry is differential, code - 32,768 when single-ended; `none` without VALID. -/
def State.piSample (s : State) (d core e : Nat) : Option Int :=
  let w := s.reg (ADC.RRES d core e)
  if getBits w 30 1 = 0 then none
  else some (if selDiff (getBits w 24 5) then toSigned 16 (getBits w 0 16) else (getBits w 0 16 : Int) - 32768)

/-- r of step 1 of R214, scaled by 2^64: the sine of the excitation phase of control period `k` and of EXC_DLY. -/
def excitation (k excDiv dly : Nat) : Int := sinTurn (65536 * (2 * (k % excDiv) + 1) + 2 * excDiv * dly) (2 * 65536 * excDiv)

/-- Step 1 of R214, with the skipped pair of R215. -/
def State.piGather (s : State) (d p k : Nat) : State :=
  let x := s.pi d p
  match s.piSample d (getBits x.src 0 2) (getBits x.src 2 4), s.piSample d (getBits x.src 8 2) (getBits x.src 10 4) with
  | some a, some b =>
    let r := excitation k x.excDiv (getBits x.src 16 16)
    s.modPi d p (fun x => { x with sAcc := x.sAcc + a * r, cAcc := x.cAcc + b * r, n := x.n + 1, skipped := 0 })
  | _, _ =>
    let s := (s.setB (PI.PISTAT_MISS d p) true).modPi d p (fun x => { x with skipped := x.skipped + 1 })
    if (s.pi d p).skipped = 16 then s.piError d p (PI.PISTAT_LOS d p)
    else if 16 < (s.pi d p).skipped then s.setB (PI.PISTAT_LOS d p) true else s

/-- Step 2 of R214, with the amplitude window of R215. -/
def State.piDemod (s : State) (d p k : Nat) : State :=
  let x := s.pi d p
  if k % x.excDiv ≠ x.excDiv - 1 then s
  else
    let s := if x.n = 0 then s else
      let sD := x.sAcc / x.n
      let cD := x.cAcc / x.n
      let a := isqrt 84 (sD * sD + cD * cD).toNat
      (s.modPi d p (fun x => { x with sD := sD, cD := cD, amp := a })).set (PI.PIAMPS_AMP d p) (min (openRound a (2 ^ 64)).toNat 65535)
    let s := s.modPi d p (fun x => { x with sAcc := 0, cAcc := 0, n := 0 })
    let a := (s.pi d p).amp
    if a < 2 ^ 64 * s.get (PI.PIAMP_AMP_MIN d p) ∨ 2 ^ 64 * s.get (PI.PIAMP_AMP_MAX d p) < a then s.piError d p (PI.PISTAT_LOS d p) else s

/-- K x e / 2^16 with 16 fraction bits, e the error of step 3 of R214 in angle LSB; where AMP is 0 the error has no value. -/
def PosIf.gainTerm (x : PosIf) (k : Nat) : Int :=
  if x.amp = 0 then Config.noAngle k x.sD x.cD
  else
    let th := (x.theta % (2 ^ 32 : Nat)).toNat
    let e := (x.sD * sinTurn (th + 2 ^ 30) (2 ^ 32) - x.cD * sinTurn th (2 ^ 32)) * 2 ^ 16 * (k : Int)
    openRound e (x.amp * (2 * pi64).toNat)

/-- Steps 3 and 4 of R214: theta and omega in angle LSB with 16 fraction bits. -/
def State.piTrack (s : State) (d p : Nat) : State :=
  let x := s.pi d p
  let om := x.omega + x.gainTerm (s.get (PI.PIGAIN_KI d p))
  let th := (x.theta + om + x.gainTerm (s.get (PI.PIGAIN_KP d p))) % (2 ^ 32 : Nat)
  let s := s.modPi d p (fun x => { x with omega := om, theta := th })
  (s.set (PI.PIANG_ANGLE d p) (ofSigned 16 (th / 2 ^ 16))).set (PI.PIANG_SPEED d p)
    (ofSigned 16 (max (-32767) (min 32767 (om / 2 ^ 16))))

/-- What an encoder interface publishes (R217). -/
def State.piEncoder (s : State) (d p : Nat) : State :=
  let cpr := s.get (PI.PICPR_CPR d p)
  if cpr = 0 then ((s.set (PI.PIANG_ANGLE d p) 0).set (PI.PIANG_SPEED d p) 0).piError d p (PI.PISTAT_CPR_ERR d p)
  else
    let a := ((s.getS (PI.PIPOS_POS d p) % (cpr : Int)).toNat * 65536) / cpr
    let was := s.get (PI.PIANG_ANGLE d p)
    (s.set (PI.PIANG_ANGLE d p) a).set (PI.PIANG_SPEED d p) (ofSigned 16 ((a : Int) - was))

/-- A position interface at the start of control period `k + 1` of its group. -/
def State.piPeriod (s : State) (d p k : Nat) : State :=
  if (s.pi d p).encoder then s.piEncoder d p
  else ((s.piGather d p k).piDemod d p k).piTrack d p

/-- The interfaces that a group paces, at the start of its control period `k + 1`: the excitation's phase goes on (R213). -/
def State.piBoundary (s : State) (d g k : Nat) : State :=
  foldOver [0, 1] (fun p t => if t.flag (PI.PICFG_EN d p) && decide ((t.pi d p).grp = g)
    then (t.modPi d p (fun x => { x with exc := (k + 1) % x.excDiv })).piPeriod d p k else t) s

/-- The excitation stream (R213): with TYPE = 0 pin A carries the next bit and pin B its complement. -/
def State.excite (s : State) (d p : Nat) : State :=
  if s.flag (PI.PICFG_EN d p) && !(s.pi d p).encoder then
    let (n, s) := s.fresh
    s.modPi d p (fun x => { x with outA := Config.excBit n x.exc, outB := !Config.excBit n x.exc })
  else s

/-- The count that a change of one of A and B means: A leading B counts up. -/
def quadStep (a b a' b' : Bool) : Int :=
  let phase (x y : Bool) : Int := match x, y with | false, false => 0 | true, false => 1 | true, true => 2 | false, true => 3
  if (phase a' b' - phase a b) % 4 = 1 then 1 else -1

/-- ENCODER_EDGE (R216): the levels of A and B accepted after the filter; a count edge in the tick in which Z has reset POS gives way to the
reset (R218). -/
def execEncoderEdge (d : Fin 4) (p : Fin 2) (a b : Bool) (s : State) : Out := s.whileRuns <|
  let x := s.pi d p
  .next <|
    if !s.flag (PI.PICFG_EN d p) || !x.encoder || decide (x.a = a ∧ x.b = b) then s
    else
      let t := s.modPi d p (fun x => { x with a := a, b := b })
      if x.a ≠ a ∧ x.b ≠ b then t.piError d p (PI.PISTAT_ENC_ERR d p)
      else if x.zTick = some (s.ttime d) then t
      else t.set (PI.PIPOS_POS d p) (ofSigned 32 (s.getS (PI.PIPOS_POS d p) + quadStep x.a x.b a b))

/-- ENCODER_Z_EDGE (R218). -/
def execEncoderZEdge (d : Fin 4) (p : Fin 2) (s : State) : Out := s.whileRuns <|
  let x := s.pi d p
  .next <|
    if s.flag (PI.PICFG_EN d p) && x.encoder && x.a && x.b then
      let s := (s.set (PI.PIZCAP_ZCAP d p) (s.get (PI.PIPOS_POS d p))).setB (PI.PISTAT_Z_SEEN d p) true
      if x.zrst then (s.modPi d p (fun x => { x with zTick := some (s.ttime d) })).set (PI.PIPOS_POS d p) 0 else s
    else s

end Sys2Proof.Machine
end

