-- ==== Sys2Proof/Machine/Cle.lean ====
section
/-!
DEFINITION. Sys2Proof/Machine/Cle.lean: the control-law engines (chapter 7): scheduling, the instruction set, delivery,
memory writes, command window.
-/

namespace Sys2Proof.Machine

/-! ### Access -/

/-- CLE(2d+c). -/
def State.cle (s : State) (d c : Nat) : CleCore := vget s.cles (2 * d + c)

/-- Change one. -/
def State.modCle (s : State) (d c : Nat) (f : CleCore → CleCore) : State := { s with cles := vmod s.cles (2 * d + c) f }

/-- Word `w` of program memory. -/
def State.cleProg (s : State) (d c w : Nat) : Word := s.memWord (0x40180000 + 0x1000000 * d + 0x4000 * c + 4 * w)

/-- Entry `i` of table T0 or T1. -/
def State.cleTab (s : State) (d c t i : Nat) : Word := s.memWord (0x401A0000 + 0x1000000 * d + 0x2000 * c + 0x1000 * t + 4 * i)

/-- Word 0 of the command buffer in force (R235). -/
def State.cb0 (s : State) (d c : Nat) : Word := s.cleData d c 0x60

/-- Word 1 of it. -/
def State.cb1 (s : State) (d c : Nat) : Word := s.cleData d c 0x61

/-- RUN of the command buffer. -/
def State.cbRun (s : State) (d c : Nat) : Bool := getBits (s.cb0 d c) 0 1 = 1

/-- CBANK of the command buffer. -/
def State.cbBank (s : State) (d c : Nat) : Bool := getBits (s.cb0 d c) 1 1 = 1

/-- ENTRY of the command buffer. -/
def State.cbEntry (s : State) (d c : Nat) : Nat := getBits (s.cb1 d c) 0 12

/-- LEN of the command buffer. -/
def State.cbLen (s : State) (d c : Nat) : Nat := getBits (s.cb1 d c) 16 16

/-- The START that acts (R226). -/
def State.cleStart (s : State) (d c : Nat) : Nat := max 4 (s.get (CLE.CLECFG_START d c))

/-- The address of the value of coefficient `k` in the bank in force; its shift follows (R221). -/
def State.coefWord (s : State) (d c k : Nat) : Nat := (if s.cbBank d c then 0x120 else 0xD0) + 2 * k

/-! ### Enable and disable (R220, R621) -/

/-- A write to CLECFG: EN from 0 to 1 clears the registers and latches SCHED; EN from 1 to 0 stops the engine at once. -/
def State.clecfgApply (s : State) (d c : Nat) (w : Word) : State :=
  let was := s.flag (CLE.CLECFG_EN d c)
  let s := s.setReg (CLE.CLECFG d c) w
  let now := s.flag (CLE.CLECFG_EN d c)
  if !was && now then
    (s.modCle d c (fun x => { sched := s.get (CLE.CLECFG_SCHED d c), first := true, lastPcnt := x.lastPcnt, rptEn := x.rptEn })).set
      (CLE.CYC_MAX_CYC d c) 0
  else if was && !now then
    (s.setB (CLE.FLAGS_RUNNING d c) false).modCle d c (fun x => { x with scheduled := false, deliver := false, loop := none })
  else s

/-! ### The command window and the schedule check at a control-period start (R18, R224-R226, R230) -/

/-- The schedule group of an engine: as latched while EN = 1, as written otherwise. -/
def State.cleSched (s : State) (d c : Nat) : Nat :=
  if s.flag (CLE.CLECFG_EN d c) then (s.cle d c).sched else s.get (CLE.CLECFG_SCHED d c)

/-- CW_COMMIT set: the pending buffer becomes the committed one (R18, R19). -/
def State.takeCommit (s : State) (d c : Nat) : State :=
  if s.flag (CLE.CW_COMMIT_COMMIT d c) then
    let s := foldOver (List.range 64) (fun w t => t.setReg (CLE.CWC d c w) (t.reg (CLE.CWP d c w))) s
    (s.setB (CLE.CW_COMMIT_COMMIT d c) false).incMod (CLE.CW_COMMIT_CW_TAKEN d c)
  else s

/-- The committed buffer is copied into the command buffer that the program reads. -/
def State.copyCommand (s : State) (d c : Nat) : State :=
  let s := s.takeCommit d c
  foldOver (List.range 64) (fun w t => t.setCleData d c (0x60 + w) (t.reg (CLE.CWC d c w))) s

/-- The overrun actions of R229: flags, LAST_CYC, nothing delivered; the trip source of R231. -/
def State.overrun (s : State) (d c : Nat) : State :=
  let s := (s.setB (CLE.FLAGS_CLE_OVERRUN d c) true).incSat (CLE.FLAGS_OVR_CNT d c)
  let s := (s.set (CLE.CYC_LAST_CYC d c) 0xFFFF).setB (CLE.FLAGS_RUNNING d c) false
  (s.modCle d c (fun x => { x with scheduled := false, deliver := false, loop := none })).refreshTrips d

/-- R224, R225: the conditions of a control period, evaluated against the command buffer just copied.  A retired CLE does not run (R244), and R224
and R225 are not evaluated for it: it sets no CFG_ERR and counts no overrun (the spec does not say; DESIGN CHOICE, assumption 73). -/
def State.scheduleCheck (s : State) (d c k : Nat) : State :=
  let len := s.cbLen d c
  let s := s.modCle d c (fun x => { x with marks := 0, scheduled := false, deliver := false })
  if !s.cbRun d c || s.flag (CLE.FLAGS_RETIRED d c) || !s.grpRuns d k then s
  else
    let s := if s.get (CLE.CLECFG_START d c) < 4 then s.setB (CLE.FLAGS_CFG_ERR d c) true else s
    let never := variableMode (s.grp d k).mode || decide (len = 0)
    let s := if never then s.setB (CLE.FLAGS_CFG_ERR d c) true else s
    if s.wrptActs d k < s.cleStart d c + len then (s.setB (CLE.FLAGS_CFG_ERR d c) true).overrun d c
    else if never then s
    else s.modCle d c (fun x => { x with scheduled := true, deliver := true })

/-- FIRST (R230): after EN, or after a change of ENTRY or CBANK; held until a period in which the program runs. -/
def State.updateFirst (s : State) (d c : Nat) : State :=
  let x := s.cle d c
  let changed := decide (x.entry ≠ s.cbEntry d c) || decide (x.cbank ≠ s.cbBank d c)
  s.modCle d c (fun y => { y with first := y.first || changed, entry := s.cbEntry d c, cbank := s.cbBank d c })

/-- PSTAT, word 0x055 (R221): FIRST only in a period in which the program runs (R230). -/
def State.pstat (s : State) (d c k : Nat) : Word :=
  let ret := (List.range 4).foldl (fun m q => m ||| (if s.flag (ADC.ASTAT_RETIRED d q) then 2 ^ (q + 12) else 0)) 0
  BitVec.ofNat 32 (s.get (PWM.CNT_PCNT d k) + (if s.flag (PWM.CNT_DIR d k) then 256 else 0) + ret
    + (if (s.cle d c).first && (s.cle d c).scheduled then 2 ^ 16 else 0))

/-- round(2^30 / factor), 16 bits (word 0x054). -/
def hopInverse (f : Nat) : Nat := if f = 0 then 0 else ((2 ^ 31 + f) / (2 * f)) % 65536

/-- Words 0x051-0x056 of one engine at a control-period start of its schedule group. -/
def State.periodWords (s : State) (d c k : Nat) : State :=
  let now := s.hopNow d
  let nxt := s.hopOut d k
  let s := s.setCleData d c 0x51 (s.reg (PI.PIANG d 0))
  let s := s.setCleData d c 0x52 (s.reg (PI.PIANG d 1))
  let s := s.setCleData d c 0x53 (BitVec.ofNat 32 (now + 65536 * nxt))
  let s := s.setCleData d c 0x54 (BitVec.ofNat 32 (hopInverse now + 65536 * hopInverse nxt))
  let s := s.setCleData d c 0x55 (s.pstat d c k)
  s.setCleData d c 0x56 (BitVec.ofNat 32 (s.ttime d))

/-- Everything an engine does at a control-period start of PG(4d+k); RPT_EN takes effect (R223). -/
def State.cleBoundary (s : State) (d c k : Nat) : State :=
  if s.cleSched d c ≠ k then s
  else
    let s := (s.copyCommand d c).modCle d c (fun x => { x with rptEn := s.flag (CLE.CLECFG_RPT_EN d c) })
    if !s.flag (CLE.CLECFG_EN d c) then s.periodWords d c k
    else
      let s := (s.updateFirst d c).scheduleCheck d c k
      let s := s.periodWords d c k
      if (s.cle d c).scheduled then s.modCle d c (fun x => { x with first := false }) else s

/-- CLE_PROGRAM_START (R227): tick START of a period in which the engine runs. -/
def execCleProgramStart (d : Fin 4) (c : Fin 2) (s : State) : Out := s.whileRuns <|
  .next (if (s.cle d c).scheduled && s.flag (CLE.CLECFG_EN d c) && s.dieRuns d then
      (s.setB (CLE.FLAGS_RUNNING d c) true).modCle d c (fun x => { x with
        scheduled := false, pc := s.cbEntry d c, cyc := 0, loop := none })
    else s)

/-! ### Arithmetic (R237, R238) -/

/-- Saturation to 32 bits. -/
def sat32 (x : Int) : BitVec 32 := BitVec.ofInt 32 (max (-(2 ^ 31)) (min (2 ^ 31 - 1) x))

/-- Saturation to 64 bits. -/
def sat64 (x : Int) : BitVec 64 := BitVec.ofInt 64 (max (-(2 ^ 63)) (min (2 ^ 63 - 1) x))

/-- An exact product or accumulator shifted right by `n` with the rounding of R238. -/
def shiftRound (x : Int) (n : Nat) : Int := if n = 0 then x else (x + 2 ^ (n - 1)) / 2 ^ n

/-- Register V`i`. -/
def CleCore.reg (x : CleCore) (i : Nat) : BitVec 32 := vget x.v i

/-- Its signed value. -/
def CleCore.val (x : CleCore) (i : Nat) : Int := (x.reg i).toInt

/-- Write register V`i`. -/
def CleCore.setReg (x : CleCore) (i : Nat) (w : BitVec 32) : CleCore := { x with v := vset x.v i w }

/-- Accumulator ACC`i`. -/
def CleCore.accVal (x : CleCore) (i : Nat) : Int := (vget x.acc i).toInt

/-- Write accumulator ACC`i`. -/
def CleCore.setAcc (x : CleCore) (i : Nat) (w : BitVec 64) : CleCore := { x with acc := vset x.acc i w }

/-- sin(2 pi a / 65,536) or the cosine, scaled by 2^64. -/
def sin64 (cosine : Bool) (a : Nat) : Int := sinTurn (if cosine then a + 16384 else a) 65536

/-- What SINCOS gives: a free value within 2^-26 of full scale of the exact one, +1.0 saturated (R239).  A unit of Q1.31 is 2^33 of those
of `sin64`, 2^-26 of full scale is 32 of them; at each of the 65,536 angles the bounds are those of the real sine. -/
def sincosValue (cosine : Bool) (a : Nat) : Int :=
  let r := sin64 cosine a
  let lo := -((2 ^ 38 - r) / 2 ^ 33)
  let hi := (r + 2 ^ 38) / 2 ^ 33
  min (2 ^ 31 - 1) (max (-(2 ^ 31)) (max lo (min hi (Config.sincos cosine (a % 65536)))))

/-! ### One instruction -/

/-- The cycles of an opcode (R239); 0 for an illegal one. -/
def cleCost (op : Nat) : Nat :=
  match op with
  | 0x02 | 0x03 | 0x07 | 0x11 | 0x12 | 0x13 | 0x14 | 0x1C => 2
  | 0x17 => 4
  | 0x18 | 0x19 | 0x1A => 3
  | 0x1B => 6
  | _ => if op ≤ 0x1D then 1 else 0

/-- The instruction word at the program counter. -/
def State.cleWord (s : State) (d c : Nat) : Word := s.cleProg d c (s.cle d c).pc

/-- Its opcode. -/
def opcodeOf (w : Word) : Nat := getBits w 26 6

/-- R241: is the instruction at the program counter illegal? -/
def State.cleIllegal (s : State) (d c : Nat) : Bool :=
  let w := s.cleWord d c
  let op := opcodeOf w
  let x := s.cle d c
  decide (0x1E ≤ op)
  || (decide (op = 0x07 ∨ op = 0x12 ∨ op = 0x14) && decide (40 ≤ getBits w 0 6))
  || (decide (op = 0x1D) && (x.loop.isSome || decide (getBits w 0 11 ≤ x.pc % 2048)))

/-- Does the instruction with opcode `op` execute now: the engine runs, stands at such an instruction, and the last cycle
of it falls within LEN (R229)? -/
def State.cleReady (s : State) (d c op : Nat) : Bool :=
  s.flag (CLE.FLAGS_RUNNING d c) && s.dieRuns d && decide (opcodeOf (s.cleWord d c) = op) && !s.cleIllegal d c
    && decide ((s.cle d c).cyc + cleCost op ≤ s.cbLen d c)

/-- The word after `pc` within its page (R236). -/
def nextPc (pc : Nat) : Nat := 2048 * (pc / 2048) + (pc + 1) % 2048

/-- The program counter after an instruction that does not branch: back to the start of the loop body at its end while
passes are left (R239). -/
def CleCore.advance (x : CleCore) : CleCore :=
  match x.loop with
  | none => { x with pc := nextPc x.pc }
  | some l =>
    if x.pc % 2048 = l.stop then
      (if 1 < l.left then { x with pc := 2048 * (x.pc / 2048) + l.start, loop := some { l with left := l.left - 1 } }
       else { x with pc := nextPc x.pc, loop := none })
    else { x with pc := nextPc x.pc }

/-- An instruction that changes the engine alone: its effect, then the cycles and the program counter. -/
def State.cleRun (s : State) (d c op : Nat) (f : Word → CleCore → CleCore) : State :=
  if s.cleReady d c op then
    s.modCle d c (fun x => let y := f (s.cleWord d c) x; { y with cyc := y.cyc + cleCost op }.advance)
  else s

/-- Field d [25:21]. -/
def fD (w : Word) : Nat := getBits w 21 5
/-- Field a [20:16]. -/
def fA (w : Word) : Nat := getBits w 16 5
/-- Field b [15:11]. -/
def fB (w : Word) : Nat := getBits w 11 5
/-- Field n [22:21]. -/
def fN (w : Word) : Nat := getBits w 21 2
/-- Field s [4:0]. -/
def fS (w : Word) : Nat := getBits w 0 5
/-- Field k [5:0]. -/
def fK (w : Word) : Nat := getBits w 0 6
/-- Field m [8:0]. -/
def fM (w : Word) : Nat := getBits w 0 9
/-- The first register of a pair: bit 0 of the field is ignored. -/
def pairOf (r : Nat) : Nat := 2 * (r / 2)

/-- A store (R240): the output area but for 0x0C8-0x0CF, and the working area; a store to an output slot sets its mark. -/
def State.cleStore (s : State) (d c m : Nat) (w : BitVec 32) : State :=
  if 0xA0 ≤ m ∧ m < 0xC8 then
    (s.setCleData d c m w).modCle d c (fun x => { x with marks := x.marks ||| 2 ^ (m - 0xA0) })
  else if 0x170 ≤ m ∧ m < 0x200 then s.setCleData d c m w
  else s.setB (CLE.FLAGS_ST_ERR d c) true

/-- CLE_NOP. -/
def execCleNop (d : Fin 4) (c : Fin 2) (s : State) : Out := s.whileRuns <| .next (s.cleRun d c 0x00 (fun _ x => x))

/-- CLE_END (R228): LAST_CYC takes the cycle of END. -/
def execCleEnd (d : Fin 4) (c : Fin 2) (s : State) : Out := s.whileRuns <|
  .next <|
    if s.cleReady d c 0x01 then
      let n := (s.cle d c).cyc
      let s := (s.setB (CLE.FLAGS_RUNNING d c) false).set (CLE.CYC_LAST_CYC d c) n
      let s := if n < 0xFFFF ∧ s.get (CLE.CYC_MAX_CYC d c) < n then s.set (CLE.CYC_MAX_CYC d c) n else s
      s.modCle d c (fun x => { x with cyc := n + 1, loop := none })
    else s

/-- CLE_LD. -/
def execCleLd (d : Fin 4) (c : Fin 2) (s : State) : Out := s.whileRuns <|
  .next (s.cleRun d c 0x02 (fun w x => x.setReg (fD w) (s.cleData d c (fM w))))

/-- CLE_LDX. -/
def execCleLdx (d : Fin 4) (c : Fin 2) (s : State) : Out := s.whileRuns <|
  .next (s.cleRun d c 0x03 (fun w x => x.setReg (fD w) (s.cleData d c ((getBits (x.reg (fA w)) 0 9 + fM w) % 512))))

/-- CLE_ST (R240). -/
def execCleSt (d : Fin 4) (c : Fin 2) (s : State) : Out := s.whileRuns <|
  .next <|
    if s.cleReady d c 0x04 then
      (s.cleStore d c (fM (s.cleWord d c)) ((s.cle d c).reg (fA (s.cleWord d c)))).modCle d c
        (fun x => { x with cyc := x.cyc + 1 }.advance)
    else s

/-- CLE_STX (R240). -/
def execCleStx (d : Fin 4) (c : Fin 2) (s : State) : Out := s.whileRuns <|
  .next <|
    if s.cleReady d c 0x05 then
      let w := s.cleWord d c
      let x := s.cle d c
      (s.cleStore d c ((getBits (x.reg (fB w)) 0 9 + fM w) % 512) (x.reg (fA w))).modCle d c
        (fun x => { x with cyc := x.cyc + 1 }.advance)
    else s

/-- CLE_LDI. -/
def execCleLdi (d : Fin 4) (c : Fin 2) (s : State) : Out := s.whileRuns <|
  .next (s.cleRun d c 0x06 (fun w x => x.setReg (fD w) (BitVec.ofInt 32 (toSigned 16 (getBits w 0 16)))))

/-- CLE_LDC. -/
def execCleLdc (d : Fin 4) (c : Fin 2) (s : State) : Out := s.whileRuns <|
  .next (s.cleRun d c 0x07 (fun w x => x.setReg (fD w) (s.cleData d c (s.coefWord d c (fK w)))))

/-- EXT by its variant: the high or low half, signed by 2^16 or unsigned by 2^15. -/
def extValue (x : Nat) (w : BitVec 32) : Int :=
  let h := if x < 2 then getBits w 0 16 else getBits w 16 16
  if x % 2 = 0 then toSigned 16 h * 2 ^ 16 else (h : Int) * 2 ^ 15

/-- CLE_EXT. -/
def execCleExt (d : Fin 4) (c : Fin 2) (s : State) : Out := s.whileRuns <|
  .next (s.cleRun d c 0x08 (fun w x => x.setReg (fD w) (sat32 (extValue (getBits w 0 2) (x.reg (fA w))))))

/-- CLE_ADD. -/
def execCleAdd (d : Fin 4) (c : Fin 2) (s : State) : Out := s.whileRuns <|
  .next (s.cleRun d c 0x09 (fun w x => x.setReg (fD w) (sat32 (x.val (fA w) + x.val (fB w)))))

/-- CLE_SUB. -/
def execCleSub (d : Fin 4) (c : Fin 2) (s : State) : Out := s.whileRuns <|
  .next (s.cleRun d c 0x0A (fun w x => x.setReg (fD w) (sat32 (x.val (fA w) - x.val (fB w)))))

/-- CLE_ABS. -/
def execCleAbs (d : Fin 4) (c : Fin 2) (s : State) : Out := s.whileRuns <|
  .next (s.cleRun d c 0x0B (fun w x => x.setReg (fD w) (sat32 (x.val (fA w)).natAbs)))

/-- CLE_MIN. -/
def execCleMin (d : Fin 4) (c : Fin 2) (s : State) : Out := s.whileRuns <|
  .next (s.cleRun d c 0x0C (fun w x => x.setReg (fD w) (sat32 (min (x.val (fA w)) (x.val (fB w))))))

/-- CLE_MAX. -/
def execCleMax (d : Fin 4) (c : Fin 2) (s : State) : Out := s.whileRuns <|
  .next (s.cleRun d c 0x0D (fun w x => x.setReg (fD w) (sat32 (max (x.val (fA w)) (x.val (fB w))))))

/-- ASH: left with saturation, right without rounding (R238). -/
def ashValue (v s : Int) : Int := if 0 ≤ s then v * 2 ^ s.toNat else v / 2 ^ (-s).toNat

/-- CLE_ASH. -/
def execCleAsh (d : Fin 4) (c : Fin 2) (s : State) : Out := s.whileRuns <|
  .next (s.cleRun d c 0x0E (fun w x => x.setReg (fD w) (sat32 (ashValue (x.val (fA w)) (toSigned 6 (getBits w 0 6))))))

/-- CLE_AND. -/
def execCleAnd (d : Fin 4) (c : Fin 2) (s : State) : Out := s.whileRuns <|
  .next (s.cleRun d c 0x0F (fun w x => x.setReg (fD w) (x.reg (fA w) &&& x.reg (fB w))))

/-- CLE_SEL. -/
def execCleSel (d : Fin 4) (c : Fin 2) (s : State) : Out := s.whileRuns <|
  .next (s.cleRun d c 0x10 (fun w x => x.setReg (fD w) (if 0 ≤ x.val (getBits w 6 5) then x.reg (fA w) else x.reg (fB w))))

/-- CLE_MUL (R238). -/
def execCleMul (d : Fin 4) (c : Fin 2) (s : State) : Out := s.whileRuns <|
  .next (s.cleRun d c 0x11 (fun w x => x.setReg (fD w) (sat32 (shiftRound (x.val (fA w) * x.val (fB w)) (fS w)))))

/-- The product of a register and a coefficient, shifted by the coefficient's SH. -/
def State.coefProduct (s : State) (d c : Nat) (w : Word) (x : CleCore) : Int :=
  shiftRound (x.val (fA w) * (s.cleData d c (s.coefWord d c (fK w))).toInt)
    (getBits (s.cleData d c (s.coefWord d c (fK w) + 1)) 0 5)

/-- CLE_MULC (R238). -/
def execCleMulc (d : Fin 4) (c : Fin 2) (s : State) : Out := s.whileRuns <|
  .next (s.cleRun d c 0x12 (fun w x => x.setReg (fD w) (sat32 (s.coefProduct d c w x))))

/-- CLE_MAC. -/
def execCleMac (d : Fin 4) (c : Fin 2) (s : State) : Out := s.whileRuns <|
  .next (s.cleRun d c 0x13 (fun w x =>
    x.setAcc (fN w) (sat64 (x.accVal (fN w) + shiftRound (x.val (fA w) * x.val (fB w)) (fS w)))))

/-- CLE_MACC. -/
def execCleMacc (d : Fin 4) (c : Fin 2) (s : State) : Out := s.whileRuns <|
  .next (s.cleRun d c 0x14 (fun w x => x.setAcc (fN w) (sat64 (x.accVal (fN w) + s.coefProduct d c w x))))

/-- CLE_LDA. -/
def execCleLda (d : Fin 4) (c : Fin 2) (s : State) : Out := s.whileRuns <|
  .next (s.cleRun d c 0x15 (fun w x => x.setAcc (fN w) (sat64 (x.val (fA w) * 2 ^ fS w))))

/-- CLE_MOVA (R238). -/
def execCleMova (d : Fin 4) (c : Fin 2) (s : State) : Out := s.whileRuns <|
  .next (s.cleRun d c 0x16 (fun w x => x.setReg (fD w) (sat32 (shiftRound (x.accVal (getBits w 16 2)) (fS w)))))

/-- CLE_SINCOS. -/
def execCleSincos (d : Fin 4) (c : Fin 2) (s : State) : Out := s.whileRuns <|
  .next (s.cleRun d c 0x17 (fun w x =>
    let a := getBits (x.reg (fA w)) 0 16
    (x.setReg (pairOf (fD w)) (sat32 (sincosValue false a))).setReg (pairOf (fD w) + 1) (sat32 (sincosValue true a))))

/-- The two results of PARK (`sign` = 1) and IPARK (`sign` = -1), from the registers before the instruction. -/
def parkPair (sign : Int) (w : Word) (x : CleCore) : CleCore :=
  let a := x.val (pairOf (fA w))
  let b := x.val (pairOf (fA w) + 1)
  let sn := x.val (pairOf (fB w))
  let co := x.val (pairOf (fB w) + 1)
  (x.setReg (pairOf (fD w)) (sat32 (shiftRound (a * co + sign * (b * sn)) 31))).setReg (pairOf (fD w) + 1)
    (sat32 (shiftRound (-sign * (a * sn) + b * co) 31))

/-- CLE_PARK. -/
def execClePark (d : Fin 4) (c : Fin 2) (s : State) : Out := s.whileRuns <| .next (s.cleRun d c 0x18 (parkPair 1))

/-- CLE_IPARK. -/
def execCleIpark (d : Fin 4) (c : Fin 2) (s : State) : Out := s.whileRuns <| .next (s.cleRun d c 0x19 (parkPair (-1)))

/-- LUT (R242); a table that is not enabled returns 0. -/
def State.lutValue (s : State) (d c t p : Nat) : Int :=
  if getBits (s.cb0 d c) (2 + t) 1 = 0 then 0
  else
    let i := p / 64 % 1024
    let a := (s.cleTab d c t i).toInt
    let b := (s.cleTab d c t ((i + 1) % 1024)).toInt
    a + ((b - a) * (p % 64 : Nat) + 2 ^ 5) / 2 ^ 6

/-- CLE_LUT (R242). -/
def execCleLut (d : Fin 4) (c : Fin 2) (s : State) : Out := s.whileRuns <|
  .next (s.cleRun d c 0x1A (fun w x => x.setReg (fD w) (sat32 (s.lutValue d c (getBits w 0 1) (getBits (x.reg (fA w)) 0 16)))))

/-- CLE_RCP. -/
def execCleRcp (d : Fin 4) (c : Fin 2) (s : State) : Out := s.whileRuns <|
  .next (s.cleRun d c 0x1B (fun w x =>
    x.setReg (fD w) (sat32 (if x.val (fA w) ≤ 0 then 2 ^ 31 - 1 else 2 ^ 60 / x.val (fA w)))))

/-- The condition of BR. -/
def brTaken (q : Nat) (v : Int) : Bool :=
  match q with
  | 0 => decide (v = 0) | 1 => decide (v ≠ 0) | 2 => decide (v < 0) | _ => decide (0 ≤ v)

/-- CLE_BR (R243): a taken branch stays in the page and cancels an active loop. -/
def execCleBr (d : Fin 4) (c : Fin 2) (s : State) : Out := s.whileRuns <|
  .next <|
    if s.cleReady d c 0x1C then
      let w := s.cleWord d c
      s.modCle d c (fun x =>
        let y := { x with cyc := x.cyc + 2 }
        if brTaken (getBits w 24 2) (x.val (fA w)) then { y with pc := 2048 * (x.pc / 2048) + getBits w 0 11, loop := none }
        else y.advance)
    else s

/-- CLE_LOOP: the body begins at the next word; passes cnt = field + 1. -/
def execCleLoop (d : Fin 4) (c : Fin 2) (s : State) : Out := s.whileRuns <|
  .next <|
    if s.cleReady d c 0x1D then
      let w := s.cleWord d c
      s.modCle d c (fun x => { x with
        cyc := x.cyc + 1, pc := nextPc x.pc
        loop := some ⟨(x.pc + 1) % 2048, getBits w 0 11, getBits w 16 10 + 1⟩ })
    else s

/-- CLE_ILLEGAL_OP (R241). -/
def execCleIllegalOp (d : Fin 4) (c : Fin 2) (s : State) : Out := s.whileRuns <|
  .next (if s.flag (CLE.FLAGS_RUNNING d c) && s.dieRuns d && s.cleIllegal d c && decide ((s.cle d c).cyc < s.cbLen d c)
    then (s.setB (CLE.FLAGS_ILL_OP d c) true).overrun d c else s)

/-- CLE_OVERRUN_STOP (R229): the instruction at the program counter no longer fits into LEN. -/
def execCleOverrunStop (d : Fin 4) (c : Fin 2) (s : State) : Out := s.whileRuns <|
  .next (if s.flag (CLE.FLAGS_RUNNING d c) && s.dieRuns d
      && (decide (s.cbLen d c ≤ (s.cle d c).cyc)
        || (!s.cleIllegal d c && decide (s.cbLen d c < (s.cle d c).cyc + cleCost (opcodeOf (s.cleWord d c)))))
    then s.overrun d c else s)

/-! ### Memory errors and memory writes (R244, R249) -/

/-- CLE_ECC_CORRECT (R244): the word is corrected in place; the model's memory holds corrected words. -/
def execCleEccCorrect (d : Fin 4) (c : Fin 2) (s : State) : Out := s.whileRuns <| .next (s.incSat (CLE.ECC_ECC_CNT d c))

/-- What a retired engine shows and holds: RETIRED, ECC_UE, CLE_OVERRUN, and it does not run (R244). -/
def State.cleRetired (s : State) (d c : Nat) : State :=
  let s := (s.setB (CLE.FLAGS_ECC_UE d c) true).setB (CLE.FLAGS_RETIRED d c) true
  let s := (s.setB (CLE.FLAGS_CLE_OVERRUN d c) true).setB (CLE.FLAGS_RUNNING d c) false
  s.modCle d c (fun x => { x with scheduled := false, deliver := false, loop := none })

/-- An engine is retired, by an uncorrectable error or a failed test (R24, R244), and the retirement recorded (R25). -/
def State.retireCle (s : State) (d c : Nat) : State :=
  if s.flag (CLE.FLAGS_RETIRED d c) then s.cleRetired d c
  else (((((s.cleRetired d c).recordRetire .cle (Die.drive d) c).recordMember d c).refreshTrips d).refreshGrid d)

/-- A write to FLAGS: CLE_OVERRUN of a retired engine holds against it (R244). -/
def State.cleFlagsApply (s : State) (d c : Nat) (w : Word) : State :=
  let keep := if s.flag (CLE.FLAGS_RETIRED d c) then putBits w 0 1 1 else w
  (s.setReg (CLE.FLAGS d c) keep).refreshTrips d

/-- CLE_ECC_UNCORRECTABLE (R244): the engine is retired; `mem` is 0 program, 1 data, 2 T0, 3 T1. -/
def execCleEccUncorrectable (d : Fin 4) (c : Fin 2) (m : Fin 4) (a : BitVec 12) (s : State) : Out := s.whileRuns <|
  .next (((s.set (CLE.ECC_UE_MEM d c) m).set (CLE.ECC_UE_ADDR d c) a.toNat).retireCle d c)

/-- R249: is a link write to a word of CLE memory refused? -/
def State.cleWriteRefused (s : State) (d c m w : Nat) : Bool :=
  match m with
  | 0 => s.cbRun d c && decide (w / 2048 = s.cbEntry d c / 2048)
  | 1 =>
    if w < 0xD0 then true
    else if w < 0x120 then s.cbRun d c && !s.cbBank d c
    else if w < 0x170 then s.cbRun d c && s.cbBank d c
    else s.cbRun d c
  | m => decide (getBits (s.cb0 d c) m 1 = 1)

/-- The size of a CLE memory in words. -/
def cleMemWords (m : Nat) : Nat := match m with | 0 => 4096 | 1 => 512 | _ => 1024

/-- The address of a CLE memory. -/
def cleMemBase (d c m : Nat) : Nat :=
  0x1000000 * d + (match m with
    | 0 => 0x40180000 + 0x4000 * c
    | 1 => 0x40190000 + 0x800 * c
    | m => 0x401A0000 + 0x2000 * c + 0x1000 * (m - 2))

/-- A link write of one word to CLE memory (R249). -/
def State.cleMemWrite (s : State) (d c m w : Nat) (x : Word) : State :=
  if cleMemWords m ≤ w then s
  else if s.cleWriteRefused d c m w then s.setB (CLE.FLAGS_CLE_WR_REJ d c) true
  else s.setMemWord (cleMemBase d c m + 4 * w) x

/-- CLE_MEMORY_WRITE (R249): memory 0 program, 1 data, 2 T0, 3 T1, a word address. -/
def execCleMemoryWrite (d : Fin 4) (c : Fin 2) (m : Fin 4) (w : BitVec 12) (x : Word) (s : State) : Out := s.whileRuns <|
  .next (s.cleMemWrite d c m w.toNat x)

/-- CW_COMMIT (R18): COMMIT is written 1. -/
def execCwCommit (d : Fin 4) (c : Fin 2) (s : State) : Out := s.whileRuns <| .next (s.setB (CLE.CW_COMMIT_COMMIT d c) true)

/-! ### Shadow writes and delivery (R96, R99, R245-R248) -/

/-- The PCNT a write to a port's shadow fields is tagged with: that of the group the port is a member of; 0 for a port that no enabled group
has, for which R99 names no PCNT (DESIGN CHOICE, assumption 67). -/
def State.portPcnt (s : State) (d j : Nat) : Nat :=
  match (List.range 4).find? (fun k => (s.grp d k).enabled && (s.grp d k).ports.testBit j) with
  | some k => s.get (PWM.CNT_PCNT d k)
  | none => 0

/-- Field `f` (0 DUTY, 1 DT_RISE, 2 DT_FALL) of a port's shadow set is written and tagged (R99). -/
def State.portShadow (s : State) (d j f : Nat) (w : Word) : State :=
  let tag := s.portPcnt d j
  match f with
  | 0 => (s.setReg (PORT.DUTY d j) (w &&& 0x3FFFFFF)).set (PORT.TAGS_DUTY_TAG d j) tag
  | 1 => (s.setReg (PORT.DT_RISE d j) (w &&& 0x7FFFF)).set (PORT.TAGS_DTR_TAG d j) tag
  | _ => (s.setReg (PORT.DT_FALL d j) (w &&& 0x7FFFF)).set (PORT.TAGS_DTF_TAG d j) tag

/-- PER of a group's shadow set is written and tagged (R99, R103, R106). -/
def State.perShadow (s : State) (d k : Nat) (w : Word) : State :=
  (((s.setReg (PWM.PER d k) (w &&& 0xFFFFF)).set (PWM.STAT_PER_TAG d k) (s.get (PWM.CNT_PCNT d k))).modGrp d k
    (fun g => { g with perWritten := true })).staticWrite d k true true

/-- Does an engine deliver slot `m` (a bit of its marks) as a shadow field of the group? -/
def State.deliversShadow (s : State) (d c k m : Nat) : Bool :=
  (s.cle d c).deliver && (s.cle d c).marks.testBit m
    && (if m < 21 then (s.grp d k).ports.testBit (m / 3) else decide (m = 21 ∨ m = 22))

/-- One slot reaches its target (R245, R246). -/
def State.deliverSlot (s : State) (d c k m : Nat) : State :=
  let w := s.cleData d c (0xA0 + m)
  if m < 21 then (if (s.grp d k).ports.testBit (m / 3) then s.portShadow d (m / 3) (m % 3) w else s)
  else if m = 21 then s.perShadow d k w
  else if m = 22 then s.setReg (PWM.PHASE d k) (w &&& 0xFFFFF)
  else if 24 ≤ m ∧ m < 31 then s.rainflow d (m - 24) w.toInt
  else if 32 ≤ m ∧ m < 40 then s.setReg (CLE.REPORT d c (m - 32)) w
  else s

/-- One engine delivers every produced slot; in committed mode a delivered shadow field commits the set (R246). -/
def State.deliverCle (s : State) (d c k : Nat) : State :=
  let x := s.cle d c
  if !x.deliver || decide (x.marks = 0) then s.modCle d c (fun x => { x with deliver := false })
  else
    let wrote := (List.range 23).any (fun m => s.deliversShadow d c k m)
    let s := foldOver (bitsOf 40 x.marks) (fun m t => t.deliverSlot d c k m) s
    let s := if wrote && !(s.grp d k).auto then s.setB (PWM.COMMIT_COMMIT d k) true else s
    s.modCle d c (fun x => { x with deliver := false, lastPcnt := s.get (PWM.CNT_PCNT d k) })

/-- WRITE_POINT_DELIVERY (R246, R247): the write point of a fixed-period group that runs; CLE(2d+1) is applied last. -/
def execWritePointDelivery (d k : Fin 4) (s : State) : Out := s.whileRuns <|
  .next <|
    if !s.grpRuns d k || variableMode (s.grp d k).mode || !s.dieRuns d then s
    else
      let mine (c : Nat) : Bool := s.flag (CLE.CLECFG_EN d c) && decide ((s.cle d c).sched = k.val)
      let clash := mine 0 && mine 1 && (List.range 23).any (fun m => s.deliversShadow d 0 k m && s.deliversShadow d 1 k m)
      let t := if mine 0 then s.deliverCle d 0 k else s
      let t := if mine 1 then t.deliverCle d 1 k else t
      if clash then (t.setB (CLE.FLAGS_CONFLICT d 0) true).setB (CLE.FLAGS_CONFLICT d 1) true else t

/-- The report record of an engine (R248). -/
def State.reportRecord (s : State) (d c : Nat) : List Nat :=
  ((2 * d + c) + 256 * (s.cle d c).lastPcnt + (if s.flag (CLE.FLAGS_CLE_OVERRUN d c) then 2 ^ 16 else 0)
    + (if s.flag (CLE.FLAGS_RETIRED d c) then 2 ^ 17 else 0))
  :: (List.range 8).map (fun r => (s.reg (CLE.REPORT d c r)).toNat)

/-- At a command-period boundary the die sends the report records that RPT_EN, as taken at the engine's last period start (R223), asks for. -/
def State.sendReports (s : State) (d : Nat) : State :=
  foldOver [0, 1] (fun c t => if (t.cle d c).rptEn then t.event .reportRecord (Die.drive d) (t.reportRecord d c) else t) s

end Sys2Proof.Machine
end

