-- ==== Sys2Proof/Machine/Grid.lean ====
section
/-!
DEFINITION. Sys2Proof/Machine/Grid.lean: the grid port (chapter 8): GSU, ride-through supervisor, islanding detection,
votes, contactors and reconnection.
-/

namespace Sys2Proof.Machine

/-! ### Decisions -/

/-- A TRIPPED, ISLAND or DISCONNECT decision: the vote becomes OPEN after GCON_DLY, at once where it is 0 (R290). -/
def State.openDecision (s : State) (d : Nat) : State :=
  if s.get (RTS.RCD_GCON_DLY d) = 0 then (if s.get (RTS.RTSTAT_VOTE d) = 0 then s else s.setVote d 2)
  else s.modGrid d (fun g => { g with openWait := true })

/-- An island is declared (R286): 1 probe, 2 ROCOF, 3 vector shift, 4 probe failure. -/
def State.declareIsland (s : State) (d src : Nat) : State :=
  if s.flag (GSU.GSTAT_ISLAND d) then s
  else (((s.setB (GSU.GSTAT_ISLAND d) true).set (GSU.GSTAT_ISL_SRC d) src).openDecision d).refreshGrid d

/-- The action of TRIP (R274): only a die whose vote is CLOSE latches TRIPPED. -/
def State.latchTripped (s : State) (d : Nat) : State :=
  if s.get (RTS.RTSTAT_VOTE d) = 1 ∧ !s.flag (RTS.RTSTAT_TRIPPED d) then
    ((s.setB (RTS.RTSTAT_TRIPPED d) true).incSat (RTS.RTSTAT_GTRIP_CNT d)).openDecision d
  else s

/-! ### GSU (R260-R267) -/

/-- FNOM in 2^-16 Hz. -/
def State.fnom (s : State) (d : Nat) : Nat := if s.flag (GSU.GCFG_FNOM d) then 60 * 65536 else 50 * 65536

/-- The result words of the three entries that VSRC or ISRC names (R260). -/
def State.gridEntries (s : State) (d : Nat) (names : Word) : List Word :=
  [0, 8, 16].map (fun lo => let n := getBits names lo 6; s.reg (ADC.RRES d (n / 16) (n % 16)))

/-- The result words of the three voltage entries (R260). -/
def State.gridVolts (s : State) (d : Nat) : List Word := s.gridEntries d (s.reg (GSU.VSRC d))

/-- The number a result stands for: signed for a differential source, code - 32,768 for a single-ended one (R260). -/
def gridData (w : Word) : Int := if selDiff (getBits w 24 5) then toSigned 16 (getBits w 0 16) else (getBits w 0 16 : Int) - 32768

/-- Three phase-to-neutral voltages times three: of three line voltages v_ab, v_bc, v_ca without a zero-sequence component (R261). -/
def phaseThree (line : Bool) (v : List Int) : List Int :=
  let a := v.getD 0 0
  let b := v.getD 1 0
  let c := v.getD 2 0
  if line then [a - c, b - a, c - b] else [3 * a, 3 * b, 3 * c]

/-- The set that a control-period start takes (R261, R262). -/
def State.gridSet (s : State) (d : Nat) : GsuSet :=
  let v := (s.gridVolts d).map (fun w => gridData w * ((s.reg (GSU.VGAIN d)).toNat : Int))
  { inputs := v, phases := phaseThree (s.flag (GSU.GCFG_VTYPE d)) v
    currents := (s.gridEntries d (s.reg (GSU.ISRC d))).map (fun w => gridData w * ((s.reg (GSU.IGAIN d)).toNat : Int)) }

/-- Is the set discarded (R262)? -/
def State.setDiscarded (s : State) (d : Nat) : Bool :=
  (s.gridVolts d).any (fun w => decide (getBits w 30 1 = 0) || decide (getBits w 31 1 = 1))

/-- The divider word the timebase runs at in the control period that the present tick begins (R264): a hop boundary of the tick included. -/
def State.wordNow (s : State) (d : Nat) : Nat :=
  let h := s.hopPresent d
  if h.active then h.word else s.slot0Word d

/-- The advance of ANG_P over a control period of `len` ticks at FREQ and the slot in use, angle LSB with 16 fraction
bits (R264): a tick lasts 8 / (25 MHz x W / 2^24) at divider word W. -/
def State.angleAdvance (s : State) (d len : Nat) : Nat :=
  let w := s.wordNow d
  if w = 0 then 0 else s.get (GSU.FREQ_FREQ d) * len * 8 * 2 ^ 40 / (25000000 * w)

/-- The length of a control period of `len` ticks in 2^-40 s, by the actual duration of each tick (R264). -/
def State.periodTime (s : State) (d len : Nat) : Nat :=
  let w := s.wordNow d
  if w = 0 then 0 else len * 8 * 2 ^ 64 / (25000000 * w)

/-- The sets that reach back over `left` of the advance of ANG_P, the one that completes it included. -/
def keepCycles : List GsuSet → Nat → List GsuSet
  | [], _ => []
  | x :: r, left => if left ≤ x.adv then [x] else x :: keepCycles r (left - x.adv)

/-- FREQ one grid cycle ago, and the time since then. -/
def cycleAgo : List GsuSet → Nat → Nat → Option (Nat × Nat)
  | [], _, _ => none
  | x :: r, a, t => if 2 ^ 32 ≤ a + x.adv then some (x.freq, t + x.dt) else cycleAgo r (a + x.adv) (t + x.dt)

/-- The set of this control-period start joins those of the last four grid cycles, with what is published for the period that begins. -/
def State.pushSet (s : State) (d k : Nat) (x : GsuSet) : State :=
  let len := (s.grp d k).periodLength
  let y := { x with freq := s.get (GSU.FREQ_FREQ d), adv := s.angleAdvance d len, dt := s.periodTime d len }
  s.modGrid d (fun g => { g with hist := keepCycles (y :: g.hist) (2 ^ 34 + 2 ^ 32) })

/-- Sets as the operands of a free value. -/
def gsuList (l : List GsuSet) : List (List Int) := l.map (fun x => x.inputs ++ x.phases ++ x.currents ++ [(x.adv : Int), (x.dt : Int)])

/-- The sets an estimate rests on. -/
def State.gsuSets (s : State) (d : Nat) : List (List Int) := gsuList (s.grid d).hist

/-! ### Phasors (R263, R283) -/

/-- A complex number turned by `n` / `d` of a turn. -/
def cxTurn (z : Int × Int) (n d : Nat) : Int × Int :=
  let c := sinTurn (4 * n + d) (4 * d)
  let s := sinTurn n d
  ((z.1 * c - z.2 * s) / 2 ^ 64, (z.1 * s + z.2 * c) / 2 ^ 64)

/-- A set in a window of the last grid cycles: its angle before the newest set, the angle it stands for, and the time. -/
structure WindowSet where
  set : GsuSet
  back : Nat
  weight : Nat
  time : Nat
deriving DecidableEq, Repr

/-- The sets from angle `lo` to `hi` (2^32 to a grid cycle) before set `x`, older sets following it; each stands for the advance of ANG_P
before it (DESIGN CHOICE, assumption 74). -/
def windowSets (lo hi : Nat) : GsuSet → List GsuSet → Nat → List WindowSet
  | _, [], _ => []
  | x, y :: r, back =>
    let a := max lo back
    let b := min hi (back + y.adv)
    (if a < b then [⟨x, back, b - a, y.dt * (b - a) / y.adv⟩] else []) ++ windowSets lo hi y r (back + y.adv)

/-- A window is whole: it spans `n` and holds no discarded set. -/
def windowWhole (ws : List WindowSet) (n : Nat) : Bool :=
  decide ((ws.map (fun x => x.weight)).foldl (· + ·) 0 = n) && ws.all (fun x => decide (x.set.inputs ≠ []))

/-- The component of a quantity at PN/PD times the fundamental frequency over a window, times half the window's angle. -/
def gridPhasor (ws : List WindowSet) (f : GsuSet → Int) (pn pd : Nat) : Int × Int :=
  ws.foldl (fun z x =>
    let t := cxTurn (f x.set * (x.weight : Int), 0) (x.back * pn % (2 ^ 32 * pd)) (2 ^ 32 * pd)
    (z.1 + t.1, z.2 + t.2)) (0, 0)

/-- Three times the positive-sequence (`neg` = false) or negative-sequence component of three phases. -/
def seqPhasor (ws : List WindowSet) (f : GsuSet → List Int) (neg : Bool) (pn pd : Nat) : Int × Int :=
  let p (k : Nat) : Int × Int := gridPhasor ws (fun x => (f x).getD k 0) pn pd
  let b := cxTurn (p 1) (if neg then 2 else 1) 3
  let c := cxTurn (p 2) (if neg then 1 else 2) 3
  ((p 0).1 + b.1 + c.1, (p 0).2 + b.2 + c.2)

/-- The magnitude of a complex number. -/
def cxAbs (z : Int × Int) : Nat := isqrt 96 (z.1 * z.1 + z.2 * z.2).toNat

/-- The amplitude of a component over a window. -/
def amplitude (ws : List WindowSet) (z : Int × Int) : Nat :=
  2 * cxAbs z / (ws.map (fun x => x.weight)).foldl (· + ·) 0

/-- The amplitude of a sequence voltage in 2^-32 of the nominal phase peak: line voltages stand for sqrt 3 times as much (R261; DEDUCED,
assumption 74). -/
def seqVolt (line : Bool) (ws : List WindowSet) (neg : Bool) (pn pd : Nat) : Nat :=
  let a := amplitude ws (seqPhasor ws GsuSet.phases neg pn pd)
  (if line then isqrt 96 (3 * a * a) else a) / 9

/-- Is the grid steady, as the error table after R266 asks: the last two grid cycles give each input the same fundamental to 2^-10 pu
(DESIGN CHOICE, assumption 74)? -/
def steadySets (x : GsuSet) (hist : List GsuSet) : Bool :=
  let now := windowSets 0 (2 ^ 32) x hist 0
  let was := windowSets (2 ^ 32) (2 ^ 33) x hist 0
  windowWhole now (2 ^ 32) && windowWhole was (2 ^ 32) && [0, 1, 2].all (fun k =>
    let a := gridPhasor now (fun y => y.inputs.getD k 0) 1 1
    let b := gridPhasor was (fun y => y.inputs.getD k 0) 1 1
    decide ((a.1 - b.1).natAbs ≤ 2 ^ 53) && decide ((a.2 - b.2).natAbs ≤ 2 ^ 53))

/-- A free value within `err` of `x`. -/
def near (free : Nat) (x : Int) (err : Nat) : Int := x - (err : Int) + ((free % (2 * err + 1) : Nat) : Int)

/-- An amplitude as the GSU finds it: within 0.2 % while the grid is steady. -/
def foundAmplitude (steady : Bool) (x free : Nat) : Nat := if steady then (near free x (x / 500)).toNat else free % 2 ^ 32

/-- The frequency of two steady grid cycles in 2^-16 Hz: two turns and twice the slip of the positive sequence against ANG_P, by the time they
took. -/
def cycleFreq (now was : List WindowSet) : Int :=
  let a := seqPhasor now GsuSet.phases false 1 1
  let b := seqPhasor was GsuSet.phases false 1 1
  let slip := (a.2 * b.1 - a.1 * b.2) * 2 ^ 95 / ((cxAbs a * cxAbs b : Nat) * pi64)
  let time : Nat := ((now ++ was).map (fun x => x.time)).foldl (· + ·) 0
  (2 ^ 33 + 2 * slip) * 2 ^ 24 / time

/-- ROCOF over the last grid cycle in 2^-16 Hz/s (R263, R264); a free value before a whole cycle has been seen. -/
def State.rocofNow (s : State) (d n : Nat) (sets : List (List Int)) (f : Nat) : Int :=
  match cycleAgo (s.grid d).hist 0 0 with
  | some (f0, t) => if t = 0 then Config.gsu sets n 1 else openRound (((f : Int) - f0) * 2 ^ 40) t
  | none => Config.gsu sets n 1

/-- ANG_P advances at the last FREQ over the control period that has ended, by the DTHETA published for it; FREQ is held, ROCOF = 0 (coast, R265;
discarded sets, R262). -/
def State.coastAdvance (s : State) (d k : Nat) : State :=
  let a := (s.get (GSU.ANG_ANG_P d) * 65536 + (s.grid d).angFrac : Nat) + (s.grid d).dtheta
  let s := (s.set (GSU.ANG_ANG_P d) (ofSigned 16 (a / 65536))).setReg (GSU.ROCOF d) 0
  let adv := s.angleAdvance d (s.grp d k).periodLength
  s.modGrid d (fun g => { g with angFrac := (a % 65536).toNat, dtheta := adv })

/-- A step of ANG_P to the measured angle: VSHIFT, JUMP_CNT, PHASE_JUMP (R266), PJ_ACT (R277), the vector-shift check
(R280). -/
def State.phaseJump (s : State) (d : Nat) (diff : Int) : State :=
  let s := (s.set (GSU.JUMP_VSHIFT d) (ofSigned 16 diff)).incSat (GSU.JUMP_JUMP_CNT d)
  let s := (s.setB (GSU.GSTAT_PHASE_JUMP d) true).modGrid d (fun g => { g with stepped := true })
  let big := decide (s.get (RTS.PJ_MAX_PJ_MAX d) < diff.natAbs)
  let s := if !big then s else
    match s.get (RTS.RTCFG_PJ_ACT d) with
    | 0 => s
    | 1 => s.modGrid d (fun g => { g with jumpCease := true })
    | _ => s.latchTripped d
  if big && s.flag (GSU.ISLCFG_VS_EN d) && decide (s.get (GSU.VS_TH_VS_TH d) < diff.natAbs) then s.declareIsland d 3 else s

/-- The estimates of a set `x` with VPOS at or above VLOCK: FREQ, ROCOF, ANG_N, DTHETA as the advance of ANG_P over the period that begins, and
ANG_P, stepped where it differs from the tracked angle by more than 5 degrees (R263, R266).  While the grid is steady FREQ errs by 2 mHz at most, and
ANG_P by 0.1 degree, so that it meets the tracked angle within twice that where the set before was steady too. -/
def State.trackSet (s : State) (d k n : Nat) (x : GsuSet) : State :=
  let g := s.grid d
  let sets := gsuList (x :: g.hist)
  let fine := x.steady && decide (2 ^ 29 ≤ g.vpos) && decide (g.vneg * 20 ≤ 2 ^ 30)
  let tracked := (s.get (GSU.ANG_ANG_P d) * 65536 + g.angFrac : Nat) + g.dtheta
  let free := Config.gsu sets n 7
  let m := if fine && (g.hist.head?.elim false GsuSet.steady) then ofSigned 16 (near free (tracked / 65536) 37) else free % 65536
  let diff := toSigned 16 (ofSigned 16 ((m : Int) - tracked / 65536))
  let f := if fine then (near (Config.gsu sets n 0) (cycleFreq (windowSets 0 (2 ^ 32) x g.hist 0) (windowSets (2 ^ 32) (2 ^ 33) x g.hist 0)) 131).toNat
    else Config.gsu sets n 0 % 2 ^ 32
  let rocof := s.rocofNow d n sets f
  let s := (s.setReg (GSU.FREQ d) (BitVec.ofNat 32 f)).setReg (GSU.ROCOF d) (BitVec.ofInt 32 rocof)
  let s := (s.set (GSU.ANG_ANG_P d) m).set (GSU.ANG_ANG_N d) (Config.gsu sets n 8)
  let adv := s.angleAdvance d (s.grp d k).periodLength
  let s := s.modGrid d (fun g => { g with angFrac := 0, dtheta := adv })
  if 5 * 65536 < 360 * diff.natAbs then s.phaseJump d diff else s

/-- An accepted set (R263, R265): amplitudes over the last grid cycle, then coast or tracking; with VGAIN = 0 every voltage reads 0 (R261). -/
def State.acceptSet (s : State) (d k : Nat) : State :=
  let (n, s) := s.fresh
  let hist := (s.grid d).hist
  let x := s.gridSet d
  let x := { x with steady := steadySets x hist }
  let w := windowSets 0 (2 ^ 32) x hist 0
  let v (f est : Nat) : Nat :=
    if s.reg (GSU.VGAIN d) = 0 then 0 else foundAmplitude x.steady est (Config.gsu (gsuList (x :: hist)) n f)
  let seq (neg : Bool) : Nat := seqVolt (s.flag (GSU.GCFG_VTYPE d)) w neg 1 1 / 4
  let vpos := v 2 (seq false)
  let vneg := v 3 (seq true)
  let vph (i : Nat) : Nat := v (4 + i) (amplitude w (gridPhasor w (fun y => y.inputs.getD i 0) 1 1) / 2 ^ 18)
  let s := s.modGrid d (fun g => { g with discards := 0, vpos := vpos, vneg := vneg })
  let s := (s.set (GSU.VSEQ_VPOS d) (vpos / 65536)).set (GSU.VSEQ_VNEG d) (vneg / 65536)
  let s := (s.set (GSU.VPH01_VPH0 d) (vph 0)).set (GSU.VPH01_VPH1 d) (vph 1)
  let s := s.set (GSU.VPH2R_VPH2 d) (vph 2)
  let coast := decide (s.get (GSU.VSEQ_VPOS d) < s.get (GSU.VLOCK_VLOCK d))
  let s := s.setB (GSU.GSTAT_COAST d) coast
  (if coast then s.coastAdvance d k else s.trackSet d k n x).pushSet d k x

/-- A discarded set (R262): eight in a row set GSU_FAIL and LOCKED = 0; the probe window is void (R283). -/
def State.discardSet (s : State) (d k : Nat) : State :=
  let s := ((s.coastAdvance d k).modGrid d (fun g => { g with discards := g.discards + 1, voidWin := true })).pushSet d k {}
  if (s.grid d).discards = 8 then (s.setB (GSU.GSTAT_GSU_FAIL d) true).setB (GSU.GSTAT_LOCKED d) false else s

/-- LOCKED becomes 1 (R265): VPOS at least VLOCK + 0.02 pu, FREQ within 20 % of FNOM for 5 complete grid cycles, which end at the sixth
positive-going zero, and no run of 8 discarded sets that goes on (R262). -/
def State.checkLock (s : State) (d : Nat) : State :=
  let f := s.get (GSU.FREQ_FREQ d)
  let inRange := decide (4 * s.fnom d ≤ 5 * f) && decide (5 * f ≤ 6 * s.fnom d)
  let s := if inRange then s else s.modGrid d (fun g => { g with freqCycles := 0 })
  if !s.flag (GSU.GSTAT_LOCKED d) && decide (6 ≤ (s.grid d).freqCycles) && decide ((s.grid d).discards < 8)
      && decide (s.get (GSU.VLOCK_VLOCK d) * 65536 + 21474837 ≤ (s.grid d).vpos)
  then (s.setB (GSU.GSTAT_LOCKED d) true).setB (GSU.GSTAT_GSU_FAIL d) false else s

/-! ### Reconnection (R293) -/

/-- Do the conditions of R293 hold now? -/
def State.rcHolds (s : State) (d : Nat) : Bool :=
  let lo := s.get (RTS.RCV_RC_VMIN d)
  let hi := s.get (RTS.RCV_RC_VMAX d)
  let mhz := s.get (GSU.FREQ_FREQ d) * 1000
  [s.get (GSU.VPH01_VPH0 d), s.get (GSU.VPH01_VPH1 d), s.get (GSU.VPH2R_VPH2 d)].all (fun v => decide (lo ≤ v) && decide (v ≤ hi))
  && decide (s.get (RTS.RCF_RC_FMIN d) * 65536 ≤ mhz) && decide (mhz ≤ s.get (RTS.RCF_RC_FMAX d) * 65536)
  && s.flag (GSU.GSTAT_LOCKED d)

/-- RC_READY: the count has reached RC_DELAY, or with RC_DELAY = 0 one complete grid cycle lies within the window. -/
def State.refreshReady (s : State) (d : Nat) : State :=
  let delay := s.get (RTS.RCD_RC_DELAY d)
  s.setB (RTS.RTSTAT_RC_READY d)
    (if delay = 0 then decide (2 ≤ (s.grid d).rcCycles) else decide (delay ≤ s.get (RTS.RC_SEC_RC_SEC d)))

/-- The count restarts whenever a condition fails. -/
def State.rcCheck (s : State) (d : Nat) : State := if s.rcHolds d then s else s.rcRestart d

/-! ### Probe and words (R267, R281, R282, R287) -/

/-- Are PD and PN within their limits (R282)? -/
def State.probeLegal (s : State) (d : Nat) : Bool :=
  let pd := s.get (GSU.PROBE_PD d)
  let pn := s.get (GSU.PROBE_PN d)
  decide (1 ≤ pd) && decide (pd ≤ 4) && decide (pd ≤ pn) && decide (pn ≤ 8 * pd) && decide (pn % pd ≠ 0)

/-- Does the probe run on this die? -/
def State.probeRuns (s : State) (d : Nat) : Bool :=
  s.flag (GSU.GSTAT_PROBE_DIE d) && s.flag (GSU.ISLCFG_PROBE_EN d) && s.probeLegal d && decide (0 < s.get (GSU.PROBE_PAMP d))
    && !(s.grid d).probeWait

/-- PROBE_AMP: round(PAMP x 32,768 / 100,000), PAMP above 200 acting as 200. -/
def State.probeAmp (s : State) (d : Nat) : Nat :=
  if s.probeRuns d then (2 * min 200 (s.get (GSU.PROBE_PAMP d)) * 32768 + 100000) / 200000 else 0

/-- ANG_PR: PN/PD times as fast as ANG_P, 0 where GCYC is a multiple of PD. -/
def State.angPr (s : State) (d : Nat) : Nat :=
  let pd := s.get (GSU.PROBE_PD d)
  if s.probeRuns d then
    (((s.get (GSU.GSTAT_GCYC d) % pd) * 65536 + s.get (GSU.ANG_ANG_P d)) * s.get (GSU.PROBE_PN d) / pd) % 65536
  else 0

/-- The frequency-shift angle (R287). -/
def State.shiftAngle (s : State) (d : Nat) : Int :=
  if s.flag (GSU.ISLCFG_FS_EN d) then
    let m : Int := s.get (GSU.FSCFG_FS_MAX d)
    let x := s.getS (GSU.FSCFG_K_FS d) * ((s.get (GSU.FREQ_FREQ d) : Int) - s.fnom d)
    max (-m) (min m ((x + 32768) / 65536))
  else 0

/-- Word 0x05F. -/
def State.gridStatus (s : State) (d : Nat) : Nat :=
  let b (f : Bool) (n : Nat) : Nat := if f then 2 ^ n else 0
  s.get (RTS.RTSTAT_REGION d) + b (s.flag (GSU.GSTAT_LOCKED d)) 3 + b (s.flag (GSU.GSTAT_COAST d)) 4
    + b (s.flag (GSU.GSTAT_BLOCK d)) 5 + b (s.grid d).drc 6 + b (s.grid d).stepped 7 + b (s.flag (GSU.GSTAT_ISLAND d)) 8
    + b (s.flag (GSU.GSTAT_GSU_FAIL d)) 9 + 2 ^ 16 * s.get (GSU.GSTAT_GCYC d)

/-- The eight grid words of one CLE (R267). -/
def State.gridWords (s : State) (d : Nat) : List Nat :=
  let g := s.grid d
  [s.get (GSU.ANG_ANG_P d) + 65536 * ofSigned 16 ((s.get (GSU.ANG_ANG_P d) : Int) + s.shiftAngle d),
   s.angPr d + 65536 * s.get (GSU.ANG_ANG_N d), g.vpos, g.vneg, ofSigned 32 g.dtheta, (s.reg (RTS.RTOUT d)).toNat,
   s.probeAmp d + 65536 * s.get (RTS.ILIM_ILIM d), s.gridStatus d]

/-- Write them to both CLEs. -/
def State.writeGridWords (s : State) (d : Nat) : State :=
  let ws := s.gridWords d
  foldOver (List.range 8) (fun i t =>
    (t.setCleData d 0 (0x58 + i) (BitVec.ofNat 32 (ws.getD i 0))).setCleData d 1 (0x58 + i) (BitVec.ofNat 32 (ws.getD i 0))) s

/-- Everything the GSU does at a control-period start of PG(4d + GGRP); that of a retired die does nothing (R24). -/
def State.gsuBoundary (s : State) (d k : Nat) : State :=
  if s.get (GSU.GCFG_GGRP d) ≠ k ∨ (vget s.drives d).retired then s
  else
    let block := s.flag (GSU.GSTAT_BLOCK d)
    let s := s.modGrid d (fun g => { g with stepped := false, voidWin := g.voidWin || block, blockSeen := block })
    let s := if s.setDiscarded d then s.discardSet d k else s.acceptSet d k
    let s := (s.checkLock d).rcCheck d
    let s := if s.flag (GSU.GSTAT_PROBE_DIE d) && s.flag (GSU.ISLCFG_PROBE_EN d) && !s.probeLegal d
      then s.setB (GSU.GSTAT_PROBE_CFG_ERR d) true else s
    (s.refreshGrid d).writeGridWords d

/-- N tells every member die which die runs the probe: the lowest-numbered member die in service (R281); a die that
becomes the probe die starts with ISL_CNT = 0, in place of a retired one at its next positive-going zero (R299).  A member die is in service while
its GRID_EN is 1 (DESIGN CHOICE, assumption 73). -/
def State.refreshProbeDie (s : State) : State :=
  let low := (List.range 4).find? (fun d => decide (s.get (GSU.GCFG_BRIDGES d) ≠ 0) && s.flag (GSU.GCFG_GRID_EN d) && !(vget s.drives d).retired)
  let after := (List.range 4).any (fun e => (vget s.drives e).retired && s.flag (GSU.GSTAT_PROBE_DIE e))
  foldOver (List.range 4) (fun d t =>
    let now := decide (low = some d)
    let t := if now && !t.flag (GSU.GSTAT_PROBE_DIE d)
      then (t.set (GSU.GSTAT_ISL_CNT d) 0).modGrid d (fun g => { g with cycles := 0, lowWins := 0, probeWait := after }) else t
    t.setB (GSU.GSTAT_PROBE_DIE d) now) s

/-! ### GRID_EN, ARM, curves (R254-R256, R273) -/

/-- The trip groups that hold a member port. -/
def State.gridTgs (s : State) (d : Nat) : List Nat := [0, 1].filter (fun k => (s.gridPorts d).any (fun j => decide (s.tgOf d j = k)))

/-- R254, against GCFG as it would stand. -/
def State.gridRefused (s : State) (d : Nat) : Bool :=
  let k := s.get (GSU.GCFG_GGRP d)
  decide (s.get (GSU.GCFG_BRIDGES d) = 0)
  || (s.gridPorts d).any (fun j => !(s.grp d k).ports.testBit j || decide (s.get (PORT.PMODE_PMODE d j) ≠ 1) || s.chopperRole d j)
  || !s.grpRuns d k || variableMode (s.grp d k).mode
  || (s.gridTgs d).any (fun q => !s.flag (TRIP.TGSTAT_TRIPPED d q) || decide (s.get (TRIP.TGCFG_SAFE d q) ≠ 0))
  || !s.flag (RTS.RTCFG_ARM d)

/-- A write to GCFG: a change of GRID_EN is accepted or refused with GRID_CFG_ERR (R254, R255). -/
def State.gcfgGridApply (s : State) (d : Nat) (w : Word) : State :=
  let was := s.flag (GSU.GCFG_GRID_EN d)
  let t := s.setReg (GSU.GCFG d) w
  let now := t.flag (GSU.GCFG_GRID_EN d)
  let t :=
    if !was && now then
      (if t.gridRefused d then (t.setB (GSU.GCFG_GRID_EN d) false).setB (GSU.GSTAT_GRID_CFG_ERR d) true
       else (t.set (RTS.RTSTAT_VOTE d) 2).rcRestart d)
    else if was && !now && (s.flag (RTS.RTSTAT_GCON_CLOSED d) || (s.gridTgs d).any (fun q => !s.flag (TRIP.TGSTAT_TRIPPED d q))) then
      (t.setB (GSU.GCFG_GRID_EN d) true).setB (GSU.GSTAT_GRID_CFG_ERR d) true
    else t
  t.refreshProbeDie.refreshGrid d

/-- GSU_COAST_TIMEOUT (R265): 100 ms of coast. -/
def execGsuCoastTimeout (d : Fin 4) (s : State) : Out := s.whileRuns <|
  .next (if s.flag (GSU.GSTAT_COAST d) then ((s.setB (GSU.GSTAT_LOCKED d) false).rcCheck d).refreshGrid d else s)

/-- The points of curve `c`: T, level. -/
def State.curve (s : State) (d c : Nat) : List (Nat × Nat) :=
  (List.range (min 16 (s.get (CURVE.HEAD_NPTS d c)))).map (fun i => (s.get (CURVE.TIME_T d c i), s.get (CURVE.LEVEL_LEVEL d c i)))

/-- Do the times of the points strictly increase? -/
def timesRise : List (Nat × Nat) → Bool
  | [] => true
  | [_] => true
  | a :: b :: r => decide (a.1 < b.1) && timesRise (b :: r)

/-- A write to RTCFG: ARM is refused on bad curves and clears only while GRID_EN = 0 (R273). -/
def State.rtcfgApply (s : State) (d : Nat) (w : Word) : State :=
  let was := s.flag (RTS.RTCFG_ARM d)
  let t := s.setReg (RTS.RTCFG d) w
  let now := t.flag (RTS.RTCFG_ARM d)
  let t :=
    if !was && now && (List.range 16).any (fun c => decide (16 < s.get (CURVE.HEAD_NPTS d c)) || !timesRise (s.curve d c)) then
      (t.setB (RTS.RTCFG_ARM d) false).setB (RTS.RTSTAT_RT_CFG_ERR d) true
    else if was && !now && s.flag (GSU.GCFG_GRID_EN d) then t.setB (RTS.RTCFG_ARM d) true
    else t
  t.refreshBlock d

/-- A write to a word of the curve memory (R273, R300); `w` holds the bits the register has. -/
def State.curveApply (s : State) (d a : Nat) (w : Word) : State :=
  if s.flag (RTS.RTCFG_ARM d) then s.setB (RTS.RTSTAT_RT_WR_REJ d) true else s.setReg a w

/-- CURVE_WRITE (R273): NPTS of curve `c` (`pt` = none), or LEVEL and T of a point. -/
def execCurveWrite (d : Fin 4) (c : Fin 16) (pt : Option (Fin 16)) (level : BitVec 16) (t : Word) (s : State) : Out := s.whileRuns <|
  .next (match pt with
    | none => s.curveApply d (CURVE.HEAD d c) (BitVec.ofNat 32 (level.toNat % 32))
    | some i => (s.curveApply d (CURVE.LEVEL d c i) (BitVec.ofNat 32 level.toNat)).curveApply d (CURVE.TIME d c i) t)

/-! ### The supervisor's evaluation (R269-R276) -/

/-- A curve's level at time `t`: that of its last point with T at or before `t` (R270). -/
def levelAt (pts : List (Nat × Nat)) (t : Nat) : Option Nat :=
  ((pts.filter (fun p => decide (p.1 ≤ t))).getLast?).map (fun p => p.2)

/-- Is side `q` inside a level (R269)? -/
def State.inside (s : State) (d q level : Nat) : Bool :=
  let a := s.get (GSU.VPH01_VPH0 d)
  let b := s.get (GSU.VPH01_VPH1 d)
  let c := s.get (GSU.VPH2R_VPH2 d)
  let mhz := s.get (GSU.FREQ_FREQ d) * 1000
  match q with
  | 0 => decide (min a (min b c) < level)
  | 1 => decide (level < max a (max b c))
  | 2 => decide (mhz < level * 65536)
  | _ => decide (level * 65536 < mhz)

/-- The region of a side at time `t`: 4 TRIP, 3 CEASE, 2 MAY, 1 MAND, 0 CONT (R271). -/
def State.sideRegion (s : State) (d q t : Nat) : Nat :=
  match (List.range 4).find? (fun r => match levelAt (s.curve d (4 * q + r)) t with | some l => s.inside d q l | none => false) with
  | some r => 4 - r
  | none => 0

/-- A side's time after an evaluation that gave `region` (R272). -/
def RideSide.step (x : RideSide) (region rst : Nat) : RideSide :=
  if region ≠ 0 then { t := some (match x.t with | some t => t + 1 | none => 1), cont := 0 }
  else match x.t with
    | none => x
    | some t => if rst ≤ x.cont + 1 then {} else { t := some (t + 1), cont := x.cont + 1 }

/-- IQ_RT (R275): Q1.15, and whether it is in force. -/
def State.iqRt (s : State) (d : Nat) : Int × Bool :=
  let one : Int := 2 ^ 30
  let db : Int := s.get (RTS.DRC_DB d) * 65536
  let v : Int := (s.grid d).vpos
  let lim (x : Int) : Int := max 0 (min (s.get (RTS.NEG_IQ_MAX d)) (((s.get (RTS.DRC_K_DRC d) : Int) * x + 2 ^ 26) / 2 ^ 27))
  if s.actRegion d ≠ 1 || !s.flag (RTS.RTCFG_DRC_EN d) then (0, false)
  else if v < one - db then (lim (one - db - v), true)
  else if one + db < v then (-lim (v - one - db), true)
  else (0, false)

/-- IN_RT (R276). -/
def State.inRt (s : State) (d : Nat) : Nat :=
  if s.flag (RTS.RTCFG_NEG_EN d) then min (s.get (RTS.NEG_IQ_MAX d)) ((s.get (RTS.NEG_K_NEG d) * (s.grid d).vneg + 2 ^ 26) / 2 ^ 27) else 0

/-- RT_EVALUATION (R271); with RST_MS = 0 the time of a side that is CONT is 0 at once (R272). -/
def State.rtEvaluate (s : State) (d : Nat) : State :=
  let g := s.grid d
  let time (q : Nat) : Nat := ((vget g.sides q).t).getD 0
  let regions := (List.range 4).map (fun q => s.sideRegion d q (time q))
  let top := regions.foldl max 0
  let side := (regions.findIdx? (fun r => decide (r = top))).getD 0
  let rst := s.get (RTS.RTCFG_RST_MS d)
  let s := (s.set (RTS.RTSTAT_REGION d) top).set (RTS.RTSTAT_SIDE d) side
  let s := s.set (RTS.TDIST_TDIST d) (if rst = 0 ∧ top = 0 then 0 else time side)
  let s := foldOver (List.range 4) (fun q t => t.modGrid d (fun g =>
    { g with sides := vmod g.sides q (fun x => x.step (regions.getD q 0) rst) })) s
  let iq := s.iqRt d
  let s := s.modGrid d (fun g => { g with drc := iq.2 })
  let s := (s.set (RTS.RTOUT_IQ_RT d) (ofSigned 16 iq.1)).set (RTS.RTOUT_IN_RT d) (s.inRt d)
  let s := if s.actRegion d = 4 then s.latchTripped d else s
  s.refreshGrid d

/-- RT_EVALUATION (R271): every 1 ms; the supervisor of a retired die evaluates nothing (R24). -/
def execRtEvaluation (d : Fin 4) (s : State) : Out := s.whileRuns <| .next (if (vget s.drives d).retired then s else s.rtEvaluate d)

/-! ### Islanding (R279, R283-R286) -/

/-- The last `n` grid cycles of sets. -/
def State.lastCycles (s : State) (d n : Nat) : List WindowSet :=
  match (s.grid d).hist with
  | [] => []
  | x :: r => windowSets 0 (n * 2 ^ 32) x r 0

/-- A probe window that met its bounds (R283-R285): ZMAG = |V_p| / |I_p| in Q16.16, the positive-sequence components at PN/PD times the
fundamental frequency over the last PD grid cycles, in 2^-32 pu. -/
def State.probeWindow (s : State) (d n : Nat) : State :=
  let pn := s.get (GSU.PROBE_PN d)
  let pd := s.get (GSU.PROBE_PD d)
  let w := s.lastCycles d pd
  let v := seqVolt (s.flag (GSU.GCFG_VTYPE d)) w false pn pd
  let i := amplitude w (seqPhasor w GsuSet.currents false pn pd) / 3
  if 2 * i < s.probeAmp d * 2 ^ 17 then
    let s := ((s.setB (GSU.GSTAT_PROBE_LOW d) true).set (GSU.GSTAT_ISL_CNT d) 0).modGrid d (fun g => { g with lowWins := g.lowWins + 1 })
    if (s.grid d).lowWins = 3 then
      let s := s.setB (GSU.GSTAT_PROBE_FAIL d) true
      if s.flag (GSU.ISLCFG_PFAIL_ACT d) then s.declareIsland d 4 else s
    else s
  else
    let s := (s.setReg (GSU.ZMAG d) (BitVec.ofInt 32 (if i = 0 then Config.gsu (s.gsuSets d) n 10 else min (2 ^ 32 - 1) (openRound (65536 * (v : Int)) i)))).modGrid d (fun g => { g with lowWins := 0 })
    if s.flag (GSU.GSTAT_PROBE_FAIL d) then s
    else if s.get (GSU.ZTH_ZTH d) < s.get (GSU.ZMAG_ZMAG d) then
      let s := s.incSat (GSU.GSTAT_ISL_CNT d)
      if max 1 (s.get (GSU.ISLCFG_ISL_N d)) ≤ s.get (GSU.GSTAT_ISL_CNT d) then s.declareIsland d 1 else s
    else s.set (GSU.GSTAT_ISL_CNT d) 0

/-- The probe's evaluation at a positive-going zero: the last PD grid cycles, void where one of them holds a blocked or
discarded control period (R283). -/
def State.probeEvaluate (s : State) (d : Nat) : State :=
  let g := s.grid d
  let ran := s.probeRuns d
  let s := s.modGrid d (fun g => { g with cycles := if g.voidWin then 0 else g.cycles + 1, voidWin := g.blockSeen, probeWait := false })
  if !ran then s.modGrid d (fun g => { g with cycles := 0 })
  else if g.voidWin || decide ((s.grid d).cycles < s.get (GSU.PROBE_PD d)) then
    (s.set (GSU.GSTAT_ISL_CNT d) 0).modGrid d (fun g => { g with lowWins := 0 })
  else let (n, s) := s.fresh; s.probeWindow d n

/-- A cycle flit to N (R311): TTIME of the zero with 8 fraction bits, which are a free value, and GCYC. -/
def State.cycleFlit (s : State) (d : Nat) : State :=
  let (n, s) := s.fresh
  s.send ⟨.gridCycle, (Die.drive d).code, [256 * s.ttime d + Config.gsu (s.gsuSets d) n 12 % 256, s.get (GSU.GSTAT_GCYC d)]⟩

/-- A positive-going zero of ANG_P: GCYC, the cycle flit to N (R311), the end of a phase-jump cessation (R277), the
cycles that R265 and R293 count (a zero outside the window of R293 begins none), the probe.  The die that MP0 names is the one it latched with its
last enable, die 0 before its first (DESIGN CHOICE, assumption 73). -/
def State.zeroCrossing (s : State) (d : Nat) : State :=
  let s := s.incMod (GSU.GSTAT_GCYC d)
  let held := s.rcHolds d
  let s := s.modGrid d (fun g => { g with
    jumpCease := false, freqCycles := min 6 (g.freqCycles + 1), rcCycles := if held then min 2 (g.rcCycles + 1) else 0 })
  let s := if (vget s.meters 0).die = d && s.flag (GSU.GSTAT_LOCKED d) then s.cycleFlit d else s
  let s := (s.probeEvaluate d).checkLock d
  let s := if s.get (RTS.RCD_RC_DELAY d) = 0 then s.refreshReady d else s
  s.refreshGrid d

/-- GRID_ZERO_CROSSING (R283); the GSU of a retired die finds none (R24). -/
def execGridZeroCrossing (d : Fin 4) (s : State) : Out := s.whileRuns <| .next (if (vget s.drives d).retired then s else s.zeroCrossing d)

/-- ROCOF_EVALUATION (R279): at each half-cycle. -/
def execRocofEvaluation (d : Fin 4) (s : State) : Out := s.whileRuns <|
  .next <|
    if (vget s.drives d).retired then s
    else if !s.flag (GSU.ISLCFG_ROCOF_EN d) then s.modGrid d (fun g => { g with rocofHits := 0 })
    else if (s.getS (GSU.ROCOF_ROCOF d)).natAbs ≤ s.get (GSU.ROCOF_TH_ROCOF_TH d) then s.modGrid d (fun g => { g with rocofHits := 0 })
    else
      let s := s.modGrid d (fun g => { g with rocofHits := g.rocofHits + 1 })
      if max 1 (s.get (GSU.ISLCFG_ROCOF_N d)) ≤ (s.grid d).rocofHits then s.declareIsland d 2 else s

/-! ### Votes and contactors (R290-R292) -/

/-- Is a drive die a member die of S's list (0x5000:01)? -/
def State.gridMember (s : State) (d : Nat) : Bool := s.gridS.members.testBit (2 * d) || s.gridS.members.testBit (2 * d + 1)

/-- The vote that S holds of a die. -/
def State.voteAtS (s : State) (d : Nat) : Nat := getBits (s.reg GCON.GCSTAT) (16 + 2 * d) 2

/-- VOTE_SEND (R290): the vote reaches S through N. -/
def execVoteSend (d : Fin 4) (s : State) : Out := s.whileRuns <|
  .next <|
    if (vget s.drives d).retired then s else
    let s := s.refreshGrid d
    if !s.flag (GSU.GCFG_GRID_EN d) then s
    else
      let v := s.get (RTS.RTSTAT_VOTE d)
      let s := s.setReg GCON.GCSTAT (putBits (s.reg GCON.GCSTAT) (16 + 2 * d) 2 v)
      let s := { s with gridS := { s.gridS with missing := s.gridS.missing &&& (15 ^^^ 2 ^ (d : Nat)) } }
      s.event .gridVote (Die.drive d) [v]

/-- VOTE_OPEN_DELAY (R290): GCON_DLY after a decision. -/
def execVoteOpenDelay (d : Fin 4) (s : State) : Out := s.whileRuns <|
  .next <|
    if (s.grid d).openWait then
      let s := s.modGrid d (fun g => { g with openWait := false })
      ((if s.get (RTS.RTSTAT_VOTE d) = 0 then s else s.setVote d 2)).refreshGrid d
    else s

/-- The conditions of R291; a die that N has reported retired, whose branch stays asserted, does not hold the contactors open (R298). -/
def State.gconHolds (s : State) : Bool :=
  let ds := (List.range 4).filter (fun d => s.gridMember d)
  let service (d : Nat) : Bool := !s.gridS.retired.testBit d
  !s.flag SFN.S_STATE_STO && !s.flag SFN.S_STATE_SS1 && !s.flag SFN.S_STATE_LOCKED
  && (List.range 4).all (fun d => !service d || !s.bit SFN.SFSTAT_NET d)
  && ds.all (fun d => !service d || decide (s.voteAtS d ≠ 2))
  && ds.any (fun d => service d && decide (s.voteAtS d = 1))
  && ds.all (fun d => !service d || !s.gridS.missing.testBit d)
  && !s.flag GCON.GCSTAT_WELD

/-- S reports GCON_CLOSED to each member die (R292). -/
def State.reportGcon (s : State) : State :=
  let closed := decide (getBits (s.reg GCON.GCSTAT) 0 4 = 15)
  foldOver (List.range 4) (fun d t =>
    if t.gridMember d || t.flag (GSU.GCFG_GRID_EN d) then
      ((t.setB (RTS.RTSTAT_GCON_CLOSED d) closed).setB (RTS.RTSTAT_GCON_WELD d) (t.flag GCON.GCSTAT_WELD)).refreshGrid d
    else t) s

/-- GCON0 and GCON1 follow the conditions. -/
def State.gconUpdate (s : State) : State :=
  let v := s.gconHolds
  ((s.setB GCON.GCSTAT_GCON0 v).setB GCON.GCSTAT_GCON1 v).reportGcon

/-- GCON_UPDATE (R291). -/
def execGconUpdate (s : State) : Out := s.whileRuns <| .next s.gconUpdate

/-- VOTE_MISSING_TIMEOUT (R291): 5 ms without a vote of die `d`. -/
def execVoteMissingTimeout (d : Fin 4) (s : State) : Out := s.whileRuns <|
  .next { s with gridS := { s.gridS with missing := s.gridS.missing ||| 2 ^ (d : Nat) } }

/-- GFB_CHANGE (R292): the level of GFB0 (`false`) or GFB1. -/
def execGfbChange (which level : Bool) (s : State) : Out := s.whileRuns <|
  .next (s.setB (if which then GCON.GCSTAT_GFB1 else GCON.GCSTAT_GFB0) level).reportGcon

/-- GCON_WELD (R292): 100 ms after its output fell a feedback still shows closed. -/
def execGconWeld (which : Bool) (s : State) : Out := s.whileRuns <|
  .next <|
    let fb := s.flag (if which then GCON.GCSTAT_GFB1 else GCON.GCSTAT_GFB0)
    let o := s.flag (if which then GCON.GCSTAT_GCON1 else GCON.GCSTAT_GCON0)
    if fb && !o && !s.flag GCON.GCSTAT_WELD then
      let s := (s.setB GCON.GCSTAT_WELD true).reportGcon
      s.enterFault 10 Die.s.code 0xFF (s.reg GCON.GCSTAT).toNat 0
    else s

/-- RC_SECOND (R293). -/
def execRcSecond (d : Fin 4) (s : State) : Out := s.whileRuns <|
  .next <|
    if (vget s.drives d).retired then s else
    let s := s.rcCheck d
    let s := if (s.grid d).rcFailed then s else s.incSat (RTS.RC_SEC_RC_SEC d)
    let fails := !s.rcHolds d
    (s.modGrid d (fun g => { g with rcFailed := fails })).refreshReady d

/-- CONNECT at one die (R294). -/
def State.connect (s : State) (d : Nat) : State :=
  if s.flag (RTS.RTSTAT_RC_READY d) && decide (s.get (RTS.RTSTAT_REGION d) = 0) && !s.flag (GSU.GSTAT_GSU_FAIL d)
      && !s.flag (RTS.RTSTAT_GCON_WELD d) then
    let s := ((s.setB (RTS.RTSTAT_TRIPPED d) false).setB (GSU.GSTAT_ISLAND d) false).setB (GSU.GSTAT_PROBE_FAIL d) false
    let s := (s.set (GSU.GSTAT_ISL_CNT d) 0).modGrid d (fun g => { g with discon := false, openWait := false, lowWins := 0 })
    (s.setVote d 1).refreshGrid d
  else s.setB (RTS.RTSTAT_CONN_REJ d) true

/-- CONNECT (R294). -/
def execConnect (d : Fin 4) (s : State) : Out := s.whileRuns <| .next (s.connect d)

/-- DISCONNECT at one die (R295). -/
def State.disconnect (s : State) (d : Nat) : State :=
  ((s.modGrid d (fun g => { g with discon := true })).openDecision d).refreshGrid d

/-- DISCONNECT (R295). -/
def execDisconnect (d : Fin 4) (s : State) : Out := s.whileRuns <| .next (s.disconnect d)

end Sys2Proof.Machine
end

