-- ==== Sys2Proof/Machine/Metering.lean ====
section
/-!
DEFINITION. Sys2Proof/Machine/Metering.lean: the meter engine on N (chapter 9).  Its arithmetic is exact: values, energies and
residues are rational numbers, and only what a register holds is a whole number.
-/

namespace Sys2Proof.Machine

/-! ### Shared access -/

/-- A metering point. -/
def State.meter (s : State) (m : Nat) : MeterPoint := vget s.meters m

/-- Change one. -/
def State.modMeter (s : State) (m : Nat) (f : MeterPoint → MeterPoint) : State := { s with meters := vmod s.meters m f }

/-- Change what it carries. -/
def State.modMeterAcc (s : State) (m : Nat) (f : MeterAcc → MeterAcc) : State := s.modMeter m (fun p => { p with acc := f p.acc })

/-- Is the point an AC point (TYPE)? -/
def meterAc (m : Nat) : Bool := decide (m = 0)

/-- The channels a point uses (R302). -/
def meterChannels (m : Nat) : List Nat := if meterAc m then [0, 1, 2, 3, 4, 5] else [0, 3]

/-- The phases of a point: DC points have one. -/
def meterPhases (m : Nat) : List Nat := if meterAc m then [0, 1, 2] else [0]

/-- Set flag bit `b` (24-31) of the record in progress (R331); before the step of LT the flag waits for the interval that the pre-step sum
joins (R313), and without an interval it marks nothing. -/
def State.recordFlag (s : State) (m b : Nat) : State :=
  if !s.flag TIME.TSTAT_STEPPED then s.modMeterAcc m (fun c => { c with preFlags := c.preFlags ||| 2 ^ b })
  else if (s.meter m).acc.opened then s.setReg (MP.RSTAT m) (s.reg (MP.RSTAT m) ||| BitVec.ofNat 32 (2 ^ b))
  else s

/-- UNSYNC (R331): with N's time locked to no domain, which is SYNCED = 0 (R489), every interval in progress takes the flag. -/
def State.meterUnsync (s : State) : State :=
  if s.flag TIME.TSTAT_SYNCED then s else foldOver [0, 1, 2] (fun m t => if (t.meter m).acc.opened then t.recordFlag m 27 else t) s

/-- The nanosecond time of LT. -/
def State.ltNs (s : State) : Nat := s.net.lt / 2 ^ 32

/-- The UTC offset in force (R490): the one held, UTC_OFS before any domain has been selected. -/
def State.utcOfs (s : State) : Int := s.net.utc.getD (s.getS TIME.UTCCFG_UTC_OFS)

/-- The UTC second of a time on LT. -/
def State.utcOf (s : State) (ns : Int) : Nat := (ns / 10 ^ 9 - s.utcOfs).toNat

/-- The time on LT of a UTC second. -/
def State.ltOf (s : State) (sec : Nat) : Int := ((sec : Int) + s.utcOfs) * 10 ^ 9

/-- Entry `i` of a list of numbers. -/
def nthRat (l : List Rat) (i : Nat) : Rat := l.getD i 0

/-- Add two lists of 13 sums. -/
def addSums (a b : List Rat) : List Rat := (List.range 13).map (fun i => nthRat a i + nthRat b i)

/-- The configuration as the registers hold it. -/
def State.meterCfg (s : State) (m : Nat) : MeterCfg where
  cgain := (List.range 6).map (fun c => s.getS (MP.CGAIN_CGAIN m c))
  coffs := (List.range 6).map (fun c => s.getS (MP.COFFS_COFFS m c))
  cdly := (List.range 6).map (fun c => s.getS (MP.CDLY_CDLY m c))
  qgain := (List.range 12).map (fun q => s.get (MP.QGAIN_QGAIN m q))
  qoffs := (List.range 12).map (fun q => s.getS (MP.QOFFS_QOFFS m q))
  nlI := s.get (MP.NL_I_NL_I m)
  nlP := s.get (MP.NL_P_NL_P m)

/-! ### Values of a sample (R305, R306, R314) -/

/-- The ticks from a TTIME to another one, modulo 2^48. -/
def ticksFrom (ref t : Nat) : Int := (((t : Int) - ref + 2 ^ 47) % 2 ^ 48) - 2 ^ 47

/-- A result as a metering point uses it: the core, TTIME and entry that name it, its ticks from a stamp, its word. -/
structure MeterRes where
  id : Nat × Nat × Nat
  place : Int
  word : Word

/-- CORE, ENTRY and UNI of a channel as latched. -/
def MeterPoint.core (p : MeterPoint) (c : Nat) : Nat := getBits (p.csrc.getD c 0) 0 2

/-- See `core`. -/
def MeterPoint.entry (p : MeterPoint) (c : Nat) : Nat := getBits (p.csrc.getD c 0) 2 4

/-- See `core`. -/
def MeterPoint.uni (p : MeterPoint) (c : Nat) : Bool := decide (getBits (p.csrc.getD c 0) 6 1 = 1)

/-- The results of channel `c` that N holds, each at its stamp plus 80 ticks for each entry before it (R305), from a stamp with TTIME `ref`. -/
def MeterPoint.results (p : MeterPoint) (ref c : Nat) : List MeterRes :=
  (p.seqs.filter (fun q => decide (q.core = p.core c) && decide (p.entry c < q.words.length))).map
    (fun q => ⟨(q.core, q.ttime, p.entry c), ticksFrom ref q.ttime + (80 * p.entry c : Nat), q.words.getD (p.entry c) 0⟩)

/-- The two results that bracket an instant; a result that lies at it stands for both. -/
def bracket (l : List MeterRes) (t : Rat) : Option (MeterRes × MeterRes) :=
  match (l.filter (fun r => decide ((r.place : Rat) ≤ t))).getLast?, l.find? (fun r => decide (t ≤ (r.place : Rat))) with
  | some a, some b => some (if (a.place : Rat) = t then (a, a) else (a, b))
  | _, _ => none

/-- The code of a result: signed when differential; the code, or the code less 32,768, when single-ended (R306). -/
def meterCode (uni : Bool) (w : Word) : Rat :=
  let x := getBits w 0 16
  if selDiff (getBits w 24 5) then (toSigned 16 x : Int) else if uni then (x : Nat) else ((x : Int) - 32768 : Int)

/-- Linear interpolation between the bracketing results (R305). -/
def bracketValue (b : MeterRes × MeterRes) (uni : Bool) (t : Rat) : Rat :=
  let v0 := meterCode uni b.1.word
  if b.2.place = b.1.place then v0
  else v0 + (meterCode uni b.2.word - v0) * (t - b.1.place) / ((b.2.place : Rat) - b.1.place)

/-- The instant at which channel `c` is taken, in ticks from the stamp: the hold of the ch3 entry, less CDLY times the lead
sample interval. -/
def MeterPoint.instant (p : MeterPoint) (st : MeterStamp) (c : Nat) : Rat :=
  (80 * p.entry 3 : Nat) - (p.cfg.cdly.getD c 0 : Rat) / 32768 * st.interval

/-- A quarter of a window of `len` ns in ticks at the stamp's slot (R307, R314). -/
def MeterStamp.quarter (st : MeterStamp) (len : Rat) : Rat := len / 4 / (5 / 2 * st.hop / 32768)

/-- The results that channel `c` of a sample uses, `back` ticks before its instant. -/
def MeterPoint.uses (p : MeterPoint) (st : MeterStamp) (c : Nat) (back : Rat) : Option (MeterRes × MeterRes) :=
  bracket (p.results st.ttime c) (p.instant st c - back)

/-- x of channel `c` in mV or mA (R306), `back` ticks earlier. -/
def MeterPoint.chan (p : MeterPoint) (st : MeterStamp) (c : Nat) (back : Rat) : Rat :=
  let code := match p.uses st c back with
    | some b => bracketValue b (p.uni c) (p.instant st c - back)
    | none => Config.noResult c st.ttime (p.instant st c - back)
  (code - (p.cfg.coffs.getD c 0 : Rat) / 256) * (p.cfg.cgain.getD c 0) / 65536

/-- The voltage of phase `k` in mV (R314, VTYPE). -/
def MeterPoint.volt (p : MeterPoint) (st : MeterStamp) (k : Nat) (back : Rat) : Rat :=
  if p.ll then (p.chan st k back - p.chan st ((k + 2) % 3) back) / 3 else p.chan st k back

/-- R316 for a value in units 1000 times finer than QOFFS (`fine` = 1000) or in its units (1). -/
def MeterCfg.correct (c : MeterCfg) (q : Nat) (fine : Rat) (x : Rat) : Rat :=
  x * (c.qgain.getD q 0) / 2 ^ 30 + (c.qoffs.getD q 0) * fine

/-- p of phase `k` in microwatts. -/
def MeterPoint.power (p : MeterPoint) (st : MeterStamp) (k : Nat) : Rat :=
  p.cfg.correct k 1000 (p.volt st k 0 * p.chan st (3 + k) 0)

/-- q of phase `k` in microvars, in a window of `len` ns. -/
def MeterPoint.reactive (p : MeterPoint) (len : Rat) (st : MeterStamp) (k : Nat) : Rat :=
  p.cfg.correct (3 + k) 1000 (p.volt st k (st.quarter len) * p.chan st (3 + k) 0)

/-- The sum of a function over a list. -/
def sumOver {α : Type} (l : List α) (f : α → Rat) : Rat := l.foldl (fun a x => a + f x) 0

/-- The quadrant accumulator of a pair of signs: Q1-Q4 at `base` to `base` + 3 (R315); none for q = 0. -/
def quadrant (base : Nat) (p q : Rat) : Option Nat :=
  if q = 0 then none
  else if 0 < q then some (if 0 ≤ p then base else base + 1) else some (if 0 ≤ p then base + 3 else base + 2)

/-- Sums with an amount at one accumulator. -/
def oneSum (a : Nat) (x : Rat) : List Rat := (List.range 13).map (fun i => if i = a then x else 0)

/-- What a weighted sample adds, in milli-units: microwatts times nanoseconds over 10^12 (R315). -/
def MeterPoint.sampleSums (p : MeterPoint) (m : Nat) (len : Rat) (x : MeterStamp × Rat) : List Rat :=
  let pw := sumOver (meterPhases m) (p.power x.1)
  let e := pw * x.2 / 10 ^ 12
  let a := if 0 ≤ pw then oneSum 0 e else oneSum 1 (-e)
  if !meterAc m then a
  else
    let qv := sumOver [0, 1, 2] (p.reactive len x.1)
    let r := qv * x.2 / 10 ^ 12
    match quadrant 4 pw qv with
    | some i => addSums a (oneSum i (if r < 0 then -r else r))
    | none => a

/-- The results that a sample uses (R308): those of every used channel, and those of the voltages a quarter window earlier; none where N
holds no results around an instant. -/
def MeterPoint.used (p : MeterPoint) (m : Nat) (len : Rat) (st : MeterStamp) : Option (List MeterRes) :=
  let now := (meterChannels m).map (fun c => p.uses st c 0)
  if now.any (fun b => b.isNone) then none
  else
    let back := if meterAc m then [0, 1, 2].map (fun c => p.uses st c (st.quarter len)) else []
    some ((now ++ back).flatMap (fun b => match b with | some (a, b) => [a, b] | none => []))

/-- Does a sample contribute (R308): does every result it uses have VALID = 1?  A sample with no results around an instant does not. -/
def MeterPoint.contributes (p : MeterPoint) (m : Nat) (len : Rat) (st : MeterStamp) : Bool :=
  match p.used m len st with
  | some l => l.all (fun r => decide (getBits r.word 30 1 = 1))
  | none => false

/-! ### METER_SAMPLE -/

/-- The last stamp gets its weight from this one (R307). -/
def stampWeight (a b : MeterStamp) : Rat := (ticksFrom a.ttime b.ttime : Rat) * (5 / 2) * a.hop / 32768

/-- Sequences of cores have reached N: a core whose stamps stayed out is back (R309). -/
def State.takeSeqs (s : State) (m lead : Nat) (l : List MeterSeq) (time : Int) : State :=
  let lost := (lead :: l.map (fun q => q.core)).foldl (fun x k => x &&& (15 ^^^ 2 ^ k)) (s.meter m).lost
  let s := s.modMeter m (fun p => { p with
    seqs := p.seqs ++ l, lost := lost
    gaps := if p.lost ≠ 0 ∧ lost = 0 then p.gaps.map (fun g => (g.1, some (g.2.getD time))) else p.gaps })
  s.setB (MP.MSTAT_SRC_LOST m) (decide (lost ≠ 0))

/-- A stamp of the lead core: it gives the last one its weight, and is the last one now; while the stamps of another used core stay out
its sample is lost.  The lead sample interval that R305 multiplies with CDLY is the one that begins with the stamp (DESIGN CHOICE, assumption 73). -/
def State.leadStamp (s : State) (m : Nat) (st : MeterStamp) : State :=
  s.modMeter m (fun p =>
    let (st, samples) := match p.last with
      | none => (st, p.samples)
      | some a =>
        let w := stampWeight a st
        ({ st with pos := a.pos + w }, p.samples ++ [({ a with interval := (ticksFrom a.ttime st.ttime).toNat }, w)])
    { p with samples := samples, last := if p.lost = 0 then some st else none })

/-! ### Accumulators and intervals (R322-R331) -/

/-- The largest integer not above a rational number. -/
def ratFloor (x : Rat) : Int := x.num / x.den

/-- Accumulator `a`. -/
def State.acc (s : State) (m a : Nat) : Nat := s.get (MP.ACC_LO_VAL m a) + 2 ^ 32 * s.get (MP.ACC_HI_VAL m a)

/-- Commit milli-units to an accumulator; what is below 1 stays as residue (R322). -/
def State.accAdd (s : State) (m a : Nat) (x : Rat) : State :=
  let t := nthRat (s.meter m).acc.res a + x
  let n := ratFloor t
  let v := (s.acc m a + n.toNat) % 2 ^ 64
  let s := (s.set (MP.ACC_LO_VAL m a) v).set (MP.ACC_HI_VAL m a) (v / 2 ^ 32)
  s.modMeterAcc m (fun c => { c with res := c.res.set a (t - n) })

/-- The count byte IW_CNTa. -/
def iwCnt (m a : Nat) : RF := ⟨MP.IW_CNT m (a / 4), 8 * (a % 4), 8⟩

/-- Add milli-units to an interval register (R327, R328). -/
def State.intvAdd (s : State) (m a : Nat) (x : Rat) : State :=
  let t := nthRat (s.meter m).acc.frac a + x / 1000
  let n := ratFloor t
  let v := s.get (MP.INTV_VAL m a) + n.toNat
  let s := s.set (MP.INTV_VAL m a) v
  let s := if v < 2 ^ 32 then s else (s.setBit (MP.INTV_WRAP_VAL m) a true).set (iwCnt m a) (min 255 (s.get (iwCnt m a) + v / 2 ^ 32))
  s.modMeterAcc m (fun c => { c with frac := c.frac.set a (t - n) })

/-- Add sums to the interval in progress, if one is. -/
def State.intvSums (s : State) (m : Nat) (x : List Rat) : State :=
  if (s.meter m).acc.opened then foldOver (List.range 13) (fun a t => t.intvAdd m a (nthRat x a)) s else s

/-- Add sums to the accumulators. -/
def State.accSums (s : State) (m : Nat) (x : List Rat) : State := foldOver (List.range 13) (fun a t => t.accAdd m a (nthRat x a)) s

/-- CRC-32C over bytes: the reflected check of R573 with polynomial 0x1EDC6F41, INIT and XOROUT all ones. -/
def crc32c (bytes : List Nat) : Nat := (bytes.foldl (crcByte 32 0x1EDC6F41 true) 0xFFFFFFFF) ^^^ 0xFFFFFFFF

/-- Where the record with a sequence number stands. -/
def ringSlot (m rseq : Nat) : Nat := 0x480C0000 + 0x2000 * m + 80 * (rseq % 96)

/-- Words 0-18 of the record in progress (R331). -/
def State.recordWords (s : State) (m : Nat) : List Word :=
  [s.reg (MP.ISTART m), s.reg (MP.RSTAT m)] ++ (List.range 13).map (fun a => s.reg (MP.INTV m a))
    ++ (List.range 4).map (fun w => s.reg (MP.IW_CNT m w))

/-- The words a commit holds, in the order of `meterRegs`. -/
def meterRegs (m : Nat) : List Nat :=
  (List.range 13).flatMap (fun a => [MP.ACC_LO m a, MP.ACC_HI m a]) ++ (List.range 13).map (MP.INTV m) ++ [MP.INTV_WRAP m]
    ++ (List.range 4).map (MP.IW_CNT m) ++ [MP.ISTART m, MP.RSTAT m]

/-- R333: a commit of the point is requested; its content is the engine's state at the request. -/
def State.meterCommit (s : State) (m : Nat) : State :=
  let lo := 0x480C0000 + 0x2000 * m
  let saved : MeterSaved := {
    acc := (s.meter m).acc, words := (meterRegs m).map s.reg
    ring := s.mem.filter (fun c => decide (lo ≤ c.1) && decide (c.1 < lo + 0x2000)) }
  (s.modMeter m (fun p => { p with waiting := some saved })).burstRequest 5

/-- An interval closes (R331): the record goes to its slot; the interval registers return to 0, the unit fractions carry on;
the records' sequence number runs on.  The commit of R333 follows once the next interval stands. -/
def State.intervalClose (s : State) (m : Nat) : State :=
  let ws := s.recordWords m
  let bytes := ws.flatMap (fun w => bytesLE w.toNat 4)
  let crc := crc32c (bytes.map BitVec.toNat)
  let rseq := getBits (s.reg (MP.RSTAT m)) 0 16
  let s := { s with mem := Memory.writeBytes s.mem (ringSlot m rseq) (bytes ++ bytesLE crc 4) }
  let s := foldOver (List.range 13) (fun a t => t.setReg (MP.INTV m a) 0) s
  let s := foldOver (List.range 4) (fun w t => t.setReg (MP.IW_CNT m w) 0) s
  let s := s.setReg (MP.RSTAT m) (BitVec.ofNat 32 ((rseq + 1) % 65536))
  s.modMeterAcc m (fun c => { c with opened := false, anyRec := true })

/-- The INT_LEN that acts (R325). -/
def State.intLen (s : State) (m : Nat) : Nat := min 86400 (s.get (MP.INTCFG_INT_LEN m))

/-- The INT_LEN that acted at time `t` on LT. -/
def State.intLenAt (s : State) (m : Nat) (t : Int) : Nat :=
  match (s.meter m).lens.find? (fun x => decide (t < x.1)) with
  | some x => x.2
  | none => s.intLen m

/-- The conditions that last into a new interval mark it too: SRC_LOST, and N's time locked to no domain (R331). -/
def State.lastingFlags (s : State) (m : Nat) : State :=
  let s := if s.flag (MP.MSTAT_SRC_LOST m) then s.recordFlag m 29 else s
  if s.flag TIME.TSTAT_SYNCED then s else s.recordFlag m 27

/-- Open an interval that starts at UTC second `start`, of length `l`. -/
def State.intervalOpen (s : State) (m start l : Nat) : State :=
  if l = 0 then s.modMeterAcc m (fun c => { c with len := 0, opened := false })
  else (s.setReg (MP.ISTART m) (BitVec.ofNat 32 start)).modMeterAcc m (fun c => { c with len := l, bound := (start / l + 1) * l, opened := true }) |>.lastingFlags m

/-- The boundary at `bound` has been reached (R326, R330): the interval in progress closes and the next opens, with the length that INT_LEN gave
then. -/
def State.boundary (s : State) (m : Nat) : State :=
  let b := (s.meter m).acc.bound
  let l := s.intLenAt m (s.ltOf b)
  let s := if (s.meter m).acc.opened then s.intervalClose m else s
  s.intervalOpen m b l

/-- With no interval in progress, INT_LEN changed from 0 waits for the next multiple of the new length after its change (R330). -/
def State.awaitLen (s : State) (m : Nat) : State :=
  let l := s.intLen m
  let now := s.utcOf (match (s.meter m).lens.getLast? with | some x => x.1 | none => s.ltNs)
  if (s.meter m).acc.opened || decide ((s.meter m).acc.len = l) then s
  else s.modMeterAcc m (fun c => { c with len := l, bound := if l = 0 then 0 else (now / l + 1) * l })

/-- A write to INTCFG (R330). -/
def State.intcfgApply (s : State) (m : Nat) (w : Word) : State :=
  let old := s.intLen m
  let t := (s.setReg (MP.INTCFG m) w).modMeter m (fun p => { p with lens := p.lens ++ [((s.ltNs : Int), old)] })
  if t.flag TIME.TSTAT_STEPPED then t.awaitLen m else t

/-! ### The end of a window (R317, R320, R321) -/

/-- The weighted mean of a function over samples. -/
def meanOf (xs : List (MeterStamp × Rat)) (f : MeterStamp → Rat) : Rat :=
  let w := sumOver xs (fun x => x.2)
  if w = 0 then 0 else sumOver xs (fun x => f x.1 * x.2) / w

/-- What a window gives: per phase V_RMS, I_RMS (mV, mA), P and Q (uW, uvar). -/
structure WindowMeans where
  v : List Rat
  i : List Rat
  p : List Rat
  q : List Rat

/-- Compute them (R316, R317): the RMS value of each used channel, corrected. -/
def MeterPoint.means (p : MeterPoint) (m : Nat) (len : Rat) (xs : List (MeterStamp × Rat)) : WindowMeans where
  v := (meterPhases m).map (fun k => p.cfg.correct (6 + k) 1 (openRoot (meanOf xs (fun x => p.chan x k 0 * p.chan x k 0))))
  i := (meterPhases m).map (fun k => p.cfg.correct (9 + k) 1 (openRoot (meanOf xs (fun x => p.chan x (3 + k) 0 * p.chan x (3 + k) 0))))
  p := (meterPhases m).map (fun k => meanOf xs (fun x => p.power x k))
  q := if meterAc m then [0, 1, 2].map (fun k => meanOf xs (fun x => p.reactive len x k)) else []

/-- R320: is the window suppressed? -/
def MeterPoint.suppressed (p : MeterPoint) (w : WindowMeans) : Bool :=
  let top := w.i.foldl max 0
  let total := sumOver w.p id
  let mag := if total < 0 then -total else total
  decide (top < p.cfg.nlI) || decide (mag < (p.cfg.nlP : Rat) * 10 ^ 6)

/-- Publish the readings of a window (R317): mV, mA, W, var, VA, Q1.15. -/
def State.publishWindow (s : State) (m : Nat) (w : WindowMeans) (len : Rat) : State :=
  let s := foldOver (meterPhases m) (fun k t =>
    let vv := nthRat w.v k
    let ii := nthRat w.i k
    let t := (t.set (MP.VRMS_VAL m k) (openRead vv).toNat).set (MP.IRMS_VAL m k) (openRead ii).toNat
    let t := t.setSat (MP.P_VAL m k) (openRead (nthRat w.p k / 10 ^ 6))
    if !meterAc m then t
    else
      let sk := vv * ii / 10 ^ 6
      let t := (t.setSat (MP.Q_VAL m k) (openRead (nthRat w.q k / 10 ^ 6))).set (MP.S_VAL m k) (openRead sk).toNat
      t.setSat (MP.PF_VAL m k) (if vv * ii = 0 then 0 else openRead (nthRat w.p k / (vv * ii) * 32768))) s
  s.set (MP.WDUR_VAL m) (openRead len).toNat

/-- R321: the direction of a window, and a reversal; before the step of LT it waits for the interval that the pre-step sum joins. -/
def State.countDirection (s : State) (m : Nat) (net : Rat) : State :=
  if net = 0 then s
  else
    let e := decide (net < 0)
    let rev := match (s.meter m).acc.export_ with | some x => decide (x ≠ e) | none => false
    let s := (s.setB (MP.MSTAT_DIR m) e).modMeterAcc m (fun c => { c with export_ := some e })
    if !rev then s
    else if !s.flag TIME.TSTAT_STEPPED then s.modMeterAcc m (fun c => { c with preRev := c.preRev + 1 })
    else if (s.meter m).acc.opened then s.incSat ⟨MP.RSTAT m, 16, 8⟩ else s

/-! ### Fundamental quantities (R318) -/

/-- The value at `t` of the cubic through four points. -/
def lagrange4 (l : List (Rat × Rat)) (t : Rat) : Rat :=
  sumOver l (fun a => l.foldl (fun y b => if b.1 = a.1 then y else y * (t - b.1) / (a.1 - b.1)) a.2)

/-- The four samples around `t`: two before it and two from it on, as far as there are. -/
def aroundFour (l : List MeterStamp) (t : Rat) : List MeterStamp :=
  let n := (l.filter (fun a => decide (a.pos ≤ t))).length
  (l.drop (min (n - 2) (l.length - 4))).take 4

/-- The peak phasor of a quantity over a cycle from `t0` of `len` ns: (2 / 256) times the sum of x[n] (cos, -sin) of 2 pi n / 256. -/
def phasor (l : List MeterStamp) (x : MeterStamp → Rat) (t0 len : Rat) : Rat × Rat :=
  (List.range 256).foldl (fun (z : Rat × Rat) (n : Nat) =>
    let t := t0 + n * len / 256
    let v := lagrange4 ((aroundFour l t).map (fun a => (a.pos, x a))) t / 128
    (z.1 + v * (sinTurn (n + 64) 256 : Int) / 2 ^ 64, z.2 - v * (sinTurn n 256 : Int) / 2 ^ 64)) (0, 0)

/-- P1 and Q1 of phase `k` of a cycle in milliwatts and millivars: half the real and the imaginary part of V I*. -/
def MeterPoint.fundamental (p : MeterPoint) (l : List MeterStamp) (t0 len : Rat) (k : Nat) : Rat × Rat :=
  let v := phasor l (fun a => p.volt a k 0) t0 len
  let i := phasor l (fun a => p.chan a (3 + k) 0) t0 len
  ((v.1 * i.1 + v.2 * i.2) / 2000, (v.2 * i.1 - v.1 * i.2) / 2000)

/-- The fundamental quantities of a cycle from `t0` of `len` ns (R318): P1 and Q1 published, the energies as sums. -/
def State.cycleFund (s : State) (m : Nat) (l : List MeterStamp) (t0 len : Rat) : List Rat × State :=
  let p := s.meter m
  let f := [0, 1, 2].map (p.fundamental l t0 len)
  let p1 := sumOver [0, 1, 2] (fun k => p.cfg.correct k 1 (f.getD k (0, 0)).1)
  let q1 := sumOver [0, 1, 2] (fun k => p.cfg.correct (3 + k) 1 (f.getD k (0, 0)).2)
  let e := p1 * len / 10 ^ 9
  let r := q1 * len / 10 ^ 9
  let sums := if 0 ≤ p1 then oneSum 2 e else oneSum 3 (-e)
  let sums := match quadrant 8 p1 q1 with
    | some i => addSums sums (oneSum i (if r < 0 then -r else r))
    | none => sums
  (sums, (s.setSat (MP.P1_VAL m) (openRead (p1 / 1000))).setSat (MP.Q1_VAL m) (openRead (q1 / 1000)))

/-! ### The commit of a window (R308, R319-R326) -/

/-- The sums of a list of samples. -/
def MeterPoint.totals (p : MeterPoint) (m : Nat) (len : Rat) (xs : List (MeterStamp × Rat)) : List Rat :=
  xs.foldl (fun a x => addSums a (p.sampleSums m len x)) (List.replicate 13 0)

/-- The results with OVR = 1 that a sample uses. -/
def MeterPoint.overs (p : MeterPoint) (m : Nat) (len : Rat) (st : MeterStamp) : List (Nat × Nat × Nat) :=
  (((p.used m len st).getD []).filter (fun r => decide (getBits r.word 31 1 = 1))).map (fun r => r.id)

/-- The samples of a window that contribute (R308): each excluded one is counted, and each result with OVR = 1 that one uses, once. -/
def State.sift (s : State) (m : Nat) (len : Rat) (xs : List (MeterStamp × Rat)) : List (MeterStamp × Rat) × State :=
  let p := s.meter m
  let good := xs.filter (fun x => p.contributes m len x.1)
  let bad := xs.length - good.length
  let ids := (good.flatMap (fun x => p.overs m len x.1)).dedup
  let new := ids.filter (fun i => !p.ovrDone.contains i)
  let s := if bad = 0 then s else
    (s.set (MP.MCNT_MISS_CNT m) (min 65535 (s.get (MP.MCNT_MISS_CNT m) + bad))).setB (MP.MSTAT_MISS m) true
  let s := if ids.isEmpty then s else
    (s.set (MP.MCNT_OVR_CNT m) (min 65535 (s.get (MP.MCNT_OVR_CNT m) + new.length))).setB (MP.MSTAT_OVR_SEEN m) true
  (good, s.modMeter m (fun p => { p with ovrDone := p.ovrDone ++ new }))

/-- MISSING and OVR of the interval in progress (R331) for samples of a window whose time lies in it. -/
def State.siftFlags (s : State) (m : Nat) (len : Rat) (xs : List (MeterStamp × Rat)) : State :=
  let p := s.meter m
  let s := if xs.all (fun x => p.contributes m len x.1) then s else s.recordFlag m 26
  if xs.any (fun x => p.contributes m len x.1 && !(p.overs m len x.1).isEmpty) then s.recordFlag m 25 else s

/-- A window is committed (R320-R326): `raw` its samples, `xs` those that contribute, `fund` the place of its beginning where it is a grid cycle that gives
fundamental quantities, `endNs` its end on LT, `len` its length in ns, `hold` that its interval sums join the pre-step sum (R313). -/
def State.commitWindow (s : State) (m : Nat) (raw xs : List (MeterStamp × Rat)) (fund : Option Rat) (endNs : Int) (len : Rat) (hold : Bool) : State :=
  let p := s.meter m
  let b := s.ltOf p.acc.bound
  let crosses := !hold && decide (p.acc.len ≠ 0) && decide (b ≤ endNs)
  let late := decide (b < endNs)
  let s := s.siftFlags m len (if crosses then raw.filter (fun x => decide (x.1.time < b)) else raw)
  let means := p.means m len xs
  let quiet := p.suppressed means
  let s := s.setB (MP.MSTAT_NOLOAD m) quiet
  let s := if quiet then s.recordFlag m 28 else s
  let before := if quiet then [] else if crosses then xs.filter (fun x => decide (x.1.time < b)) else xs
  let after := if quiet || !crosses then [] else xs.filter (fun x => decide (b ≤ x.1.time))
  let tBefore := p.totals m len before
  let tAfter := p.totals m len after
  let around := p.past ++ p.samples.map (fun x => x.1)
  let (fSums, s) := match quiet, fund with
    | false, some t0 => s.cycleFund m around t0 len
    | _, _ => (List.replicate 13 0, s)
  let app := if quiet || !meterAc m then List.replicate 13 0
    else oneSum 12 (sumOver [0, 1, 2] (fun k => nthRat means.v k * nthRat means.i k / 1000) * len / 10 ^ 9)
  let endSums := addSums fSums app
  let all := addSums (addSums tBefore tAfter) endSums
  let net := nthRat all 0 - nthRat all 1
  let s := if quiet then s else ((s.accSums m all).publishWindow m means len).incMod (MP.MSTAT_WIN_CNT m)
  if hold then
    (if quiet then s else s.countDirection m net).modMeterAcc m (fun c => { c with pre := addSums c.pre all })
  else
    let s := s.intvSums m (if crosses && late then tBefore else addSums tBefore endSums)
    let s := if crosses && late then s else if quiet then s else s.countDirection m net
    let s := if crosses then (s.boundary m).siftFlags m len (raw.filter (fun x => decide (b ≤ x.1.time))) else s
    let s := if crosses && late then
        let s := s.intvSums m (addSums tAfter endSums)
        if quiet then s else s.countDirection m net
      else s
    if crosses then s.meterCommit m else s

/-- The pre-step sum joins the interval in progress, with the flags and reversals of its windows, GAP and UNSYNC (R313); with no interval in
progress (INT_LEN = 0) it ends, since no interval holds its time. -/
def State.joinPre (s : State) (m : Nat) : State :=
  let c := (s.meter m).acc
  let s := (s.intvSums m c.pre).modMeterAcc m (fun c => { c with pre := List.replicate 13 0, preFlags := 0, preRev := 0 })
  if !c.opened then s
  else
    let s := s.setReg (MP.RSTAT m) (s.reg (MP.RSTAT m) ||| BitVec.ofNat 32 c.preFlags)
    let s := s.set ⟨MP.RSTAT m, 16, 8⟩ (min 255 (s.get ⟨MP.RSTAT m, 16, 8⟩ + c.preRev))
    (s.recordFlag m 24).recordFlag m 27

/-- Is there a pre-step sum, or a flag or a reversal of its windows? -/
def MeterAcc.holdsPre (c : MeterAcc) : Bool := c.pre.any (fun x => decide (x ≠ 0)) || decide (c.preFlags ≠ 0) || decide (c.preRev ≠ 0)

/-- The interval that a stop interrupted goes on if UTC second `utc` lies in it; otherwise it closes with GAP, and the one that holds `utc`
opens where `opens` (R313, R334). -/
def State.settleInterval (s : State) (m utc : Nat) (opens : Bool) : State :=
  let a := (s.meter m).acc
  let within := a.opened && decide ((s.reg (MP.ISTART m)).toNat ≤ utc) && decide (utc < a.bound)
  if within then s
  else
    let s := if a.opened then (s.recordFlag m 24).intervalClose m else s
    let l := s.intLen m
    let s := if opens then s.intervalOpen m (if l = 0 then 0 else utc / l * l) l else s
    if a.opened then s.meterCommit m else s

/-- The engine starts at this window start (R332): what the enable latched and the configuration are in force; with N's time stepped an interval
is in progress with GAP and CFG_CHG, the one interrupted by a stop or a new one. -/
def State.meterStart (s : State) (m : Nat) (endNs : Int) : State :=
  let s := (s.setB (MP.MSTAT_RUN m) true).modMeter m (fun p =>
    let p := match p.next with | some (d, ll, c) => { p with die := d, ll := ll, csrc := c, next := none } | none => p
    { p with starting := false, winStart := endNs, samples := p.samples.filter (fun x => decide (endNs ≤ x.1.time)) })
  if !s.flag TIME.TSTAT_STEPPED then (s.recordFlag m 24).recordFlag m 31
  else
    let s := s.settleInterval m (s.utcOf endNs) true
    let s := if (s.meter m).acc.holdsPre then s.joinPre m else s
    (s.recordFlag m 24).recordFlag m 31

/-- Did a metering sample of the window that ends at `endNs` fall to SRC_LOST (R319)? -/
def MeterPoint.sourceGap (p : MeterPoint) (endNs : Int) : Bool :=
  p.gaps.any (fun g => decide (g.1 < endNs) && (match g.2 with | some t => decide (p.winStart < t) | none => true))

/-- What lies behind a window that has ended is dropped: gaps, samples but the last four (R318), sequences but those of the last
window and the time it looks back (R314). -/
def MeterPoint.prune (p : MeterPoint) (endNs : Int) (len : Rat) (xs : List (MeterStamp × Rat)) : MeterPoint :=
  let past := p.past ++ xs.map (fun x => x.1)
  let keep := match past.getLast? with
    | some a => p.seqs.filter (fun q => decide (-(len / (5 / 2 * a.hop / 32768) + 2 * a.interval + 2560) ≤ (ticksFrom a.ttime q.ttime : Rat)))
    | none => p.seqs
  { p with
    gaps := p.gaps.filter (fun g => match g.2 with | some t => decide (endNs < t) | none => true)
    past := past.drop (past.length - 4)
    seqs := keep
    ovrDone := p.ovrDone.filter (fun i => keep.any (fun q => decide (q.core = i.1) && decide (q.ttime = i.2.1))) }

/-- The window of a running engine is committed at its end: its samples, FUND_VOID's flag and what the engine still holds of it (R312, R319). -/
def State.windowClose (s : State) (m : Nat) (cyc : Option Rat) (endNs : Int) (len : Rat) : State :=
  let xs := (s.meter m).samples.filter (fun x => decide (x.1.time < endNs))
  let good := (s.sift m len xs).1
  let t := (s.sift m len xs).2
  let void := (s.meter m).sourceGap endNs || decide (good.length ≠ xs.length) || cyc.isNone
  let t := if meterAc m && void then t.recordFlag m 30 else t
  (t.commitWindow m xs good (if void then none else cyc) endNs len (!t.flag TIME.TSTAT_STEPPED)).modMeter m (fun p =>
    { (p.prune endNs len xs) with samples := p.samples.filter (fun x => decide (endNs ≤ x.1.time)), winStart := endNs })

/-- The interval in progress closes with GAP = 1 (R332). -/
def State.closeGap (s : State) (m : Nat) : State :=
  if (s.meter m).acc.opened then ((s.recordFlag m 24).intervalClose m).meterCommit m else s

/-- The engine stops with the window that has just ended: the interval in progress closes with GAP and CFG_CHG (R332); before the step of LT no
interval closes, and the flags wait for the interval that the step gives (R313). -/
def State.meterStop (s : State) (m : Nat) : State :=
  let s := s.recordFlag m 31
  let s := if s.flag TIME.TSTAT_STEPPED then s.closeGap m else s.recordFlag m 24
  (s.setB (MP.MSTAT_RUN m) false).modMeter m (fun p => { p with
    stopping := false, last := none, samples := [], past := [], seqs := [], ovrDone := [], lost := 0, gaps := [], due := none })

/-- A configuration is taken over at a window start, with CFG_CHG where it differs from the one in force (R332). -/
def State.meterReload (s : State) (m : Nat) (cfg : MeterCfg) : State :=
  if cfg = (s.meter m).cfg then s else (s.modMeter m (fun p => { p with cfg := cfg })).recordFlag m 31

/-- A window ends, all its samples weighted: it is committed and the next one starts. -/
def State.windowEnd (s : State) (m : Nat) (x : MeterDue) : State :=
  let s :=
    if s.flag (MP.MSTAT_RUN m) then
      let s := s.windowClose m x.cyc x.endNs x.len
      let s := if (s.meter m).stopping then s.meterStop m else if s.flag TIME.TSTAT_STEPPED then s.awaitLen m else s
      s.modMeter m (fun p => { p with lens := p.lens.filter (fun y => decide (x.endNs < y.1)) })
    else s
  let s := if (s.meter m).starting && decide ((s.meter m).winStart ≤ x.endNs) then s.meterStart m x.endNs else s
  s.meterReload m x.cfg

/-- The end of a window that has waited for the weight of its last sample comes (R307, R312). -/
def State.windowFlush (s : State) (m : Nat) : State :=
  match (s.meter m).due with
  | some x => (s.modMeter m (fun p => { p with due := none })).windowEnd m x
  | none => s

/-- A window ends at `endNs` on LT after `len` ns; `cyc` is where the grid cycle that it is began.  A last sample of the window whose weight
the next stamp gives keeps the end waiting: it belongs to this window (R312). -/
def State.windowEndAt (s : State) (m : Nat) (cyc : Option Rat) (endNs : Int) (len : Rat) : State :=
  let s := s.windowFlush m
  let x : MeterDue := ⟨cyc, endNs, len, s.meterCfg m⟩
  if s.flag (MP.MSTAT_RUN m) && (s.meter m).last.any (fun a => decide (a.time < endNs))
  then s.modMeter m (fun p => { p with due := some x }) else s.windowEnd m x

/-- METER_SAMPLE (R305-R310): a stamp of the lead core reaches N, which places it 30 ns before its arrival; `arrived`: the sequences of used
cores that have reached N since the stamp before. -/
def execMeterSample (m : Fin 3) (ttime : BitVec 48) (hop : BitVec 16) (arrived : List SampleSeq) (s : State) : Out := s.whileRuns <|
  .next <|
    if !s.flag (MP.MSTAT_RUN m) && !(s.meter m).starting then s
    else
      let time := (s.ltNs : Int) - 30
      let l := arrived.map (fun q => ⟨q.core, q.ttime.toNat, q.words⟩)
      (s.takeSeqs m ((s.meter m).core 3) l time).leadStamp m ⟨ttime.toNat, hop.toNat, time, time, 0⟩ |>.windowFlush m

/-- METER_SRC_LOST (R309): 1 ms without a stamp of core `k`.  The lead samples from its last stamp on are lost, for no energy is accumulated for
the time without stamps. -/
def execMeterSrcLost (m : Fin 3) (k : Fin 4) (s : State) : Out := s.whileRuns <|
  .next <|
    if !s.flag (MP.MSTAT_RUN m) then s
    else
      let p := s.meter m
      let end_ := (p.seqs.filter (fun q => decide (q.core = k.val))).getLast?
      let keep (a : MeterStamp) : Bool := decide (k.val = p.core 3) || end_.any (fun q => decide (ticksFrom q.ttime a.ttime < 0))
      let lost := (p.samples.map (fun x => x.1) ++ p.last.toList).filter (fun a => !keep a)
      let from_ := match lost.head?, p.last with | some a, _ => a.time | none, some a => a.time | none, none => s.ltNs
      (((s.setB (MP.MSTAT_SRC_LOST m) true).recordFlag m 29).modMeter m (fun p => { p with
        samples := p.samples.filter (fun x => keep x.1), last := none
        lost := p.lost ||| 2 ^ (k : Nat), gaps := if p.lost = 0 then p.gaps ++ [(from_, none)] else p.gaps })).windowFlush m

/-- 20 ms in ns. -/
def windowNs : Int := 20000000

/-- The start of the window in progress: the end of the one before, also where that one still waits for its last weight. -/
def MeterPoint.started (p : MeterPoint) : Int := match p.due with | some x => x.endNs | none => p.winStart

/-- The end of the window that no cycle flit ends, once N's time has reached it (R312, R313): the next multiple of 20 ms, or 20 ms after the
start of an MP0 window once LT has been stepped; of an engine that does not run yet the first multiple after its enable. -/
def State.windowDue (s : State) (m : Nat) : Option Int :=
  let start := (s.meter m).started
  let e := if s.flag (MP.MSTAT_RUN m) && meterAc m && s.flag TIME.TSTAT_STEPPED then start + windowNs else (start / windowNs + 1) * windowNs
  if e ≤ (s.ltNs : Int) then some e else none

/-- METER_WINDOW_END (R312, R320): a window that no cycle flit ends; MP0 has such windows while FUND_VOID = 1. -/
def execMeterWindowEnd (m : Fin 3) (s : State) : Out := s.whileRuns <|
  .next (if meterAc m && !s.flag (MP.MSTAT_FUND_VOID 0) then s
    else match s.windowDue m with
      | none => s
      | some e =>
        let len : Int := if s.flag (MP.MSTAT_RUN m) then e - (s.meter m).started else windowNs
        s.windowEndAt m none e len)

/-- Where a zero with TTIME `z` lies: in ns on the sample stream's own time and on LT, by the last stamp at or before it; without any stamp
as a flit that arrives now (R310). -/
def State.zeroPlace (s : State) (z : Rat) : Rat × Int :=
  let p := s.meter 0
  let all := p.past ++ p.samples.map (fun x => x.1) ++ p.last.toList
  let diff (a : MeterStamp) : Rat := (ticksFrom a.ttime ⌊z⌋.toNat : Rat) + (z - ⌊z⌋)
  match (match (all.filter (fun a => decide (0 ≤ diff a))).getLast? with | some a => some a | none => all.head?) with
  | some a =>
    let ns := diff a * (5 / 2) * a.hop / 32768
    (a.pos + ns, a.time + ⌊ns⌋)
  | none => ((s.ltNs : Int) - 30, (s.ltNs : Int) - 30)

/-- METER_CYCLE_FLIT (R311, R312, R318): the flit of a zero, its TTIME with 8 fraction bits, ends a cycle of MP0; after FUND_VOID the windows are
grid cycles again. -/
def execMeterCycleFlit (zero : BitVec 56) (s : State) : Out := s.whileRuns <|
  .next <|
    let p := s.meter 0
    let (pos, time) := s.zeroPlace (zero.toNat / 256)
    let void := s.flag (MP.MSTAT_FUND_VOID 0)
    let cyc := if void then none else p.cyc
    let len := match cyc with | some t0 => pos - t0 | none => time - p.started
    ((s.windowEndAt 0 cyc time len).setB (MP.MSTAT_FUND_VOID 0) false).modMeter 0 (fun p => { p with cyc := some pos })

/-- FUND_VOID_TIMEOUT (R312). -/
def execFundVoidTimeout (s : State) : Out := s.whileRuns <|
  .next (if s.flag (MP.MSTAT_RUN 0) || (s.meter 0).starting
    then ((s.setB (MP.MSTAT_FUND_VOID 0) true).recordFlag 0 30).modMeter 0 (fun p => { p with cyc := none }) else s)

/-! ### EN, the step of LT, commits -/

/-- A write to MCFG: a change of EN is refused on a core without FWD_N or an entry beyond REG_LEN (R303, R332).  An enable while the engine
still completes the window of a stop takes effect behind that stop. -/
def State.mcfgApply (s : State) (m : Nat) (w : Word) : State :=
  let was := s.flag (MP.MCFG_EN m)
  let w := putBits w 1 1 (if meterAc m then 0 else 1)
  let t := s.setReg (MP.MCFG m) w
  let now := t.flag (MP.MCFG_EN m)
  let d := t.get (MP.MCFG_DIE m)
  if !was && now then
    if (meterChannels m).any (fun c =>
        let core := s.get (MP.CHSEL_CORE m c)
        !s.flag (ADC.ACFG_FWD_N d core) || decide (s.get (ADC.SEQCFG_REG_LEN d core) ≤ s.get (MP.CHSEL_ENTRY m c))) then
      (t.setB (MP.MCFG_EN m) false).setB (MP.MSTAT_MP_CFG_ERR m) true
    else
      let ll := meterAc m && t.flag (MP.MCFG_VTYPE m)
      let csrc := (List.range 6).map (fun c => s.reg (MP.CHSEL m c))
      t.modMeter m (fun p => if s.flag (MP.MSTAT_RUN m) then { p with starting := true, next := some (d, ll, csrc) }
        else { p with starting := true, die := d, ll := ll, csrc := csrc, winStart := s.ltNs })
  else if was && !now then
    t.modMeter m (fun p => { p with stopping := s.flag (MP.MSTAT_RUN m), starting := false, next := none })
  else t

/-- METER_COMMIT (R333). -/
def execMeterCommit (m : Fin 3) (s : State) : Out := s.whileRuns <| .next (s.meterCommit m)

/-- A read of ACCa_LO captures ACCa_HI of the same commit (R324). -/
def State.captureAcc (s : State) (m a : Nat) : State :=
  let w := s.reg (MP.ACC_HI m a)
  s.modMeter m (fun p => { p with hold := vset p.hold a (some w) })

/-- ACC_LO_READ (R324). -/
def execAccLoRead (m : Fin 3) (a : Fin 13) (s : State) : Out := s.whileRuns <|
  .next ((s.captureAcc m a).send ⟨.readReturn, Die.n.code, [MP.ACC_LO m a, (s.reg (MP.ACC_LO m a)).toNat]⟩)

/-- Just before the step of LT the window in progress closes into the pre-step sum (R313). -/
def State.meterPause (s : State) (m : Nat) : State :=
  if !s.flag (MP.MSTAT_RUN m) then s
  else
    let s := s.windowFlush m
    let xs := (s.meter m).samples
    let len := sumOver xs (fun x => x.2)
    let (good, s) := s.sift m len xs
    (s.commitWindow m xs good none s.ltNs len true).modMeter m (fun p => { p with samples := [], past := [], cyc := none })

/-- The step of LT at a start (R313): the interval that was in progress continues if UTC just after the step lies in it, or closes with
GAP; the pre-step sum joins the interval in progress, which ends there where the engine has been stopped since (R332).  Windows begin anew on the
stepped time. -/
def State.meterStep (s : State) (m : Nat) : State :=
  let now : Int := s.ltNs
  let run := s.flag (MP.MSTAT_RUN m)
  let waits := (s.meter m).starting
  let s := s.modMeter m (fun p => { p with
    gaps := p.gaps.map (fun g => (now, g.2.map (fun _ => now)))
    winStart := if run && !meterAc m then now / windowNs * windowNs else now
    last := p.last.map (fun a => { a with time := now }), lens := [] })
  let had := run || (!waits && (s.meter m).acc.holdsPre)
  let s := s.settleInterval m (s.utcOf now) had
  let s := if had then s.joinPre m else s
  if run || waits then s else s.closeGap m

/-- The engine at a start (R334): accumulators, residues, ring and the interval in progress come back from the last
completed commit, the interval with GAP = 1; nothing of a window survives. -/
def State.meterRestore (s : State) (m : Nat) : State :=
  let sv := (s.meter m).saved
  let lo := 0x480C0000 + 0x2000 * m
  let s := { s with mem := sv.ring.foldl (fun x (c : Host.Cell) => Memory.write x c.1 c.2) (Memory.clear s.mem lo 0x2000) }
  let s := ((meterRegs m).zip sv.words).foldl (fun t x => t.setReg x.1 x.2) s
  let s := s.modMeter m (fun p => { saved := p.saved, acc := sv.acc })
  if sv.acc.opened then s.recordFlag m 24 else s

end Sys2Proof.Machine
end

