-- ==== Sys2Proof/Machine/Shell.lean ====
section
/-!
DEFINITION. Sys2Proof/Machine/Shell.lean: shell and liner (chapter 10): snapshots and descriptors, signatures and heartbeats,
the arbiter, fail-over, rejoining and return, debug; and the retirement of a drive die, which many steps share.
-/

namespace Sys2Proof.Machine

/-! ### Shared access -/

/-- Command die `c`. -/
def State.cmd (s : State) (c : Nat) : CmdDie := vget s.cmds c

/-- Change it. -/
def State.modCmd (s : State) (c : Nat) (f : CmdDie → CmdDie) : State := { s with cmds := vmod s.cmds c f }

/-- Change the arbiter. -/
def State.modArb (s : State) (f : Arbiter → Arbiter) : State := { s with arb := f s.arb }

/-- The role that a command die has taken: 0 OFF, 1 JOIN, 2 LINER, 3 SHELL. -/
def State.role (s : State) (c : Nat) : Nat := s.get (CMD.CMDSTAT_ROLE c)

/-- The arbiter's role of a die. -/
def arbRole (c : Nat) : RF := if c = 0 then ARB.ARBSTAT_ROLE_C0 else ARB.ARBSTAT_ROLE_C1

/-- LOCKOUT of a die. -/
def arbLockout (c : Nat) : RF := if c = 0 then ARB.ARBSTAT_LOCKOUT_C0 else ARB.ARBSTAT_LOCKOUT_C1

/-- JOIN_FAIL of a die. -/
def arbJoinFail (c : Nat) : RF := if c = 0 then ARB.ARBSTAT_JOIN_FAIL_C0 else ARB.ARBSTAT_JOIN_FAIL_C1

/-- The last health word register of a die. -/
def arbHealth (c : Nat) : RF := if c = 0 then ARB.HW_C0_HW_C0 else ARB.HW_C1_HW_C1

/-- The other command die. -/
def otherCmd (c : Nat) : Nat := 1 - c

/-- The die that the arbiter holds as shell. -/
def State.arbShell (s : State) : Option Nat := [0, 1].find? (fun c => decide (s.get (arbRole c) = 3))

/-- SIG_WIN in command periods (R356). -/
def State.sigWin (s : State) (c : Nat) : Nat := let n := s.get (CMD.CMDCFG_SIG_WIN c); if n = 0 then 16 else n

/-! ### Signatures (R355) -/

/-- fold(M, X). -/
def sigFold (m x : BitVec 64) : BitVec 64 := (m <<< 1) ^^^ (if m.getLsbD 63 then 0x1B else 0) ^^^ x

/-- Is an address in a fold range (R355)? -/
def foldRange (a : Nat) : Bool :=
  (decide (0x40000000 ≤ a) && decide (a < 0x44000000)) || (decide (0x48000000 ≤ a) && decide (a < 0x4C000000))
  || (decide (0x4C080000 ≤ a) && decide (a < 0x4C084000))

/-- A write by core `k` of a command die is folded, whatever the die's role. -/
def State.foldWrite (s : State) (c k a : Nat) (w : Word) : State :=
  if foldRange a then s.modCmd c (fun x => { x with m := vmod x.m k (fun m => sigFold m (BitVec.ofNat 64 (a * 2 ^ 32 + w.toNat))) })
  else s

/-- G at a window's close. -/
def CmdDie.signature (x : CmdDie) : BitVec 64 := [0, 1, 2, 3].foldl (fun g k => sigFold g (vget x.m k)) 0

/-! ### Health and heartbeats (R357, R358) -/

/-- The health word now. -/
def State.healthWord (s : State) (c : Nat) : Word :=
  let e := Die.command c
  let x := s.cmd c
  let down (k : Nat) : Bool := decide (s.get (ELINK.STAT_LANE_UP_RX e k) = 0) && decide (s.get (ELINK.STAT_LANE_UP_TX e k) = 0)
  let bit (f : Bool) (n : Nat) : Nat := if f then 2 ^ n else 0
  BitVec.ofNat 32 (bit x.eccUe 0 + bit (s.flag (REGCTL.PAR_STAT_CFG_PARITY e)) 1 + bit x.wdog 2 + bit x.late 3 + bit x.diff 4
    + bit x.fetch 5 + bit (s.flag (CMD.DBGSTAT_ATTACHED c)) 6
    + bit (down 1 && !(vget s.drives 0).retired) 8 + bit (down 2 && !(vget s.drives 1).retired) 9
    + bit (down 3 && !(vget s.drives 2).retired) 10 + bit (down 4 && !(vget s.drives 3).retired) 11
    + bit (down 5) 12 + bit (down 0) 13
    + bit ((List.range 7).any (fun k => decide (0 < s.get (ELINK.STAT_RETIRE_CNT e k)))) 14
    + bit (!s.flag (CLK.PLL_STAT_LOCK e)) 15 + 2 ^ 16 * min 255 x.ce)

/-- HEARTBEAT_SEND (R357): word 0 is the CPN of the period that runs or ran last. -/
def State.sendHeartbeat (s : State) (c : Nat) (sig : Option (BitVec 64)) : State :=
  let h := s.healthWord c
  let hb : Heartbeat := { cpn := (s.cmd c).lastCpn, health := h, sig := sig, pv := [0, 1, 2, 3].map (fun k => s.reg (CMD.PV c k)) }
  (s.setReg (CMD.HEALTH c) h).modCmd c (fun x => { x with hb := x.hb ++ [hb], eccUe := false, wdog := false, ce := 0 })

/-- HEALTH_CHANGE (R357): an uncorrectable SRAM error, a watchdog, corrected errors arise on the die; a change of bits
[15:0] sends a heartbeat. -/
def execHealthChange (c : Fin 2) (eccUe wdog : Bool) (ce : Nat) (s : State) : Out := s.whileRuns <|
  .next <|
    let s := s.modCmd c (fun x => { x with eccUe := x.eccUe || eccUe, wdog := x.wdog || wdog, ce := x.ce + ce })
    if getBits (s.healthWord c) 0 16 = getBits (s.reg (CMD.HEALTH c)) 0 16 then s else s.sendHeartbeat c none

/-! ### Starting a command period (R349-R352, R369, R377) -/

/-- Is the die the shell without a liner, or does it hold TAKE (R352)? -/
def State.runsAlone (s : State) (c : Nat) : Bool :=
  s.flag (CMD.CMDSTAT_TAKE c) || (decide (s.role c = 3) && decide (s.role (otherCmd c) ≠ 2))

/-- The CMD block's fields of the command-route entries 0x6000:02-:07 (R385). -/
def cmdEntry (c sub : Nat) : Option RF :=
  match sub with
  | 2 => some (CMD.CMDCFG_SIG_WIN c)
  | 3 => some (CMD.CMDCFG_SNAP_WIN c)
  | 4 => some (CMD.CMDCFG_CP_CORES c)
  | 5 => some ⟨CMD.SNAP_RGN c, 0, 29⟩
  | 6 => some ⟨CMD.CBUF_RGN c, 0, 29⟩
  | 7 => some ⟨CMD.JRNL_RGN c, 0, 29⟩
  | _ => none

/-- The value of a command-route entry as its field takes it: the bits [19:9] and [31:29] of a region's register, which its table does not list,
read 0 whichever way it is written (R7; DESIGN CHOICE, assumption 17). -/
def cmdValue (sub v : Nat) : Nat := if 5 ≤ sub then v % 2 ^ 9 + (v / 2 ^ 20 % 2 ^ 9) * 2 ^ 20 else v

/-- A command die changes one field of an RWP register of its own: the change begins with a read of the others, which checks the parity
(R37, R41, R42). -/
def State.checkOwn (s : State) (c a : Nat) : State :=
  if s.parityOk a then s
  else
    let e : Die := if c = 0 then .c0 else .c1
    (s.parityRecord e a true).send ⟨.machineIrq, e.code, [0, coreAddr a]⟩

/-- Apply a frame of kind 4: the request header, then the value. -/
def State.applyDeviceFrame (s : State) (c : Nat) (f : InputFrame) : State :=
  let ix := f.payload.getD 4 0 + 256 * f.payload.getD 5 0
  let sub := f.payload.getD 6 0
  let e : Die := if c = 0 then .c0 else .c1
  let home := if ix = 0x6000 then cmdEntry c sub
    else if ix ≠ 0x2100 then none
    else match sub with
      | 1 => some (CLK.LOCK_CFG_LOCK_WIN e)
      | 2 => some (CLK.LOCK_CFG_LOCK_N e)
      | 3 => some (CLK.LOCK_CFG_LOSS_M e)
      | _ => none
  match home with
  | some r =>
    if f.kind = 4 then
      let v := ((f.payload.drop 8).zipIdx.map (fun b => b.1 * 256 ^ b.2)).foldl (· + ·) 0
      (s.checkOwn c r.addr).set r (if ix = 0x6000 then cmdValue sub v else v)
    else s
  | none => s

/-- Is CPN `a` at or beyond `b`, modulo 2^32? -/
def cpnReached (a b : Nat) : Bool := decide ((a + 2 ^ 32 - b % 2 ^ 32) % 2 ^ 32 < 2 ^ 31)

/-- Word `i` of a snapshot's descriptor. -/
def Snapshot.word (q : Snapshot) (i : Nat) : Word := q.desc.getD i 0

/-- Its CPN. -/
def Snapshot.cpn (q : Snapshot) : Nat := (q.word 0).toNat

/-- R381: at every role change the debug connection is dropped, with DBG_DROP in both dies; a halt ends with it. -/
def State.dropDebug (s : State) : State :=
  foldOver [0, 1] (fun c t =>
    (((t.setB (CMD.DBGSTAT_ATTACHED c) false).setB (CMD.DBGSTAT_HALTED c) false).setB (CMD.DBGSTAT_DBG_DROP c) true).modCmd c
      (fun x => { x with haltAt := none, counts := [] })) s

/-- A command die takes a role. -/
def State.takeRole (s : State) (c r : Nat) : State := if r = s.role c then s else (s.set (CMD.CMDSTAT_ROLE c) r).dropDebug

/-- The hold-off of a HOME liner restarts at a mismatch or a lost heartbeat (R376). -/
def State.restartHoldoff (s : State) : State := s.set ARB.HOLD_REM_HOLD_REM (1000 * s.dnat DP.ARBP_HOLDOFF)

/-- A joining die enters LINER (R374): the arbiter holds it as liner from then on, and a HOME liner starts its hold-off (R376). -/
def State.joined (s : State) (c : Nat) : State :=
  let s := s.set (arbRole c) 2
  if s.get ARB.ARBSTAT_HOME = c then s.restartHoldoff else s

/-- The role change that a period start applies (R338, R374, R378): a joining die enters LINER at a window's first period only. -/
def State.applyRole (s : State) (c : Nat) : State :=
  match (s.cmd c).nextRole with
  | none => s
  | some r =>
    if r = 2 ∧ s.role c = 1 ∧ (s.cmd c).win.isSome then s
    else
      let s := if r = 2 ∧ s.role c = 1 then s.joined c else s
      (s.takeRole c r).modCmd c (fun x => { x with nextRole := none, held := false, heldWrites := [] })

/-- The SWAP of period n (R377): the old shell suppresses from here on; the new one sends CLAIM and holds its writes. -/
def State.applySwap (s : State) (c cpn : Nat) : State :=
  if (s.cmd c).swapAt = some cpn then
    let s := s.modCmd c (fun x => { x with swapAt := none })
    if s.role c = 3 then s.takeRole c 2
    else if s.role c = 2 then
      ((s.takeRole c 3).modCmd c (fun x => { x with claim := true, held := true })).send ⟨.claim, c, [cpn]⟩
    else s
  else s

/-- The frames of a period: what waits up to its BSN_LAST, and what only the shell's snapshot names (R350). -/
def CmdDie.framesFor (x : CmdDie) (q : Snapshot) : List InputFrame :=
  let mine := x.frames.filter (fun f => decide (f.bsn ≤ (q.word 4).toNat))
  mine ++ q.frames.filter (fun f => mine.all (fun g => decide (g.bsn ≠ f.bsn)))

/-- A period starts on a snapshot: DONE bits cleared, device entries (R385) and roles applied, the signature window opened by the SIG_WIN then
in force (R356). -/
def State.beginPeriod (s : State) (c : Nat) (q : Snapshot) : State :=
  let s := (s.cmd c).framesFor q |>.foldl (fun t f => t.applyDeviceFrame c f) (s.setReg (CMD.DONE c) 0)
  let s := (s.applyRole c).applySwap c q.cpn
  let n := s.sigWin c
  s.modCmd c (fun x => { x with
    run := some q, lastCpn := q.cpn, fetch := false
    frames := x.frames.filter (fun f => decide ((q.word 4).toNat < f.bsn))
    issued := Vector.replicate 4 0
    win := some (x.win.getD (min (2 ^ 32 - 1) (q.cpn / n * n + (n - 1))))
    m := if x.win.isSome then x.m else Vector.replicate 4 0xFFFFFFFFFFFFFFFF })

/-- CRC-32C over words, little-endian. -/
def crcWords (ws : List Word) : Nat := crc32c (ws.flatMap (fun w => (bytesLE w.toNat 4).map BitVec.toNat))

/-- The descriptor of the period that runs it: FAILOVER in a die's first period as shell after a fail-over, RESUMED in the first after a debug
halt (R345, R369, R384), though the snapshot closed before. -/
def Snapshot.mark (q : Snapshot) (failover resumed : Bool) : Snapshot :=
  if failover || resumed then
    let bit (f : Bool) (n : Nat) : Word := if f then BitVec.ofNat 32 (2 ^ n) else 0
    let ws := (q.desc.take 10).set 1 (q.word 1 ||| bit failover 8 ||| bit resumed 10)
    { q with desc := ws ++ [BitVec.ofNat 32 (crcWords ws)] }
  else q

/-- Has the C0-C1 link no lane left? -/
def State.peerGone (s : State) (c : Nat) : Bool := s.flag (ELINK.STAT_LINK_DOWN (Die.command c) 0)

/-- The shell starts its period on its latest closed snapshot and skips earlier ones (R351); a die that holds TAKE sends
CLAIM instead and waits for GRANT (R369).  The other die, as liner or joining, is to run the same (R351, R374). -/
def State.tryStart (s : State) (c : Nat) : State :=
  let x := s.cmd c
  match x.run, x.closed.getLast? with
  | none, some d =>
    if !(x.ready || s.runsAlone c) || x.claim || s.flag (CMD.DBGSTAT_HALTED c) then s
    else if s.flag (CMD.CMDSTAT_TAKE c) then (s.modCmd c (fun x => { x with claim := true })).send ⟨.claim, c, [d.cpn]⟩
    else if s.role c = 3 ∨ x.nextRole = some 3 then
      let skipped := x.closed.length - 1
      let q := d.mark x.failover x.resumed
      let s := s.addSat (CMD.SKIPCNT_SKIP_CNT c) skipped
      let s := s.modCmd c (fun x => { x with closed := [], ready := false, late := decide (0 < skipped), failover := false, resumed := false })
      let l := otherCmd c
      let s := if s.role l = 0 || (s.cmd l).joinWait || s.peerGone c then s else s.modCmd l (fun x => { x with toRun := x.toRun ++ [q] })
      s.beginPeriod c q
    else s
  | _, _ => s

/-! ### Decisions -/

/-- A decision is recorded: DEC_CPN, VERDICT, CAUSE; every verdict other than 0 enters the fault history. -/
def State.decide' (s : State) (verdict cause : Nat) (ev : Option EvCounter) : State :=
  let cpn := match s.arbShell with | some c => vget s.arb.cpn c | none => s.get ARB.ARBDEC_DEC_CPN
  let s := ((s.set ARB.ARBDEC_DEC_CPN cpn).set ARB.ARBDEC_VERDICT verdict).set ARB.ARBDEC_CAUSE cause
  let s := match ev with | some e => s.countEvent e | none => s
  if verdict = 0 then s else s.enterFault 4 Die.s.code 0xFF (s.reg ARB.ARBDEC).toNat 0

/-- A join fails (R375): it begins again at the next boundary; after eight failures in a row the die is held OFF. -/
def State.joinFailed (s : State) (c : Nat) : State :=
  let n := (s.cmd c).joinFails + 1
  let s := (s.modCmd (otherCmd c) (fun x => { x with sending := [], copied := [] })).modCmd c (fun x => { x with joinSigs := [] })
  if 8 ≤ n then
    let s := (s.decide' 1 5 none).setB (arbJoinFail c) true
    (s.set (arbRole c) 0).modCmd c (fun x => { x with joinFails := 0, joinWait := false, nextRole := none })
  else (s.set (arbRole c) 1).modCmd c (fun x => { x with joinFails := n, joinWait := true, nextRole := none })

/-! ### Ticks, records, events, frames -/

/-- JOIN_SNAPSHOT_SEND (R373): at the first boundary after a join request the joining die is sent CPN, the CMD configuration and the pages of the
state region, which the copy buffer holds as they stand now until the joining die has loaded them.  A tick of this boundary that it has yet to
receive is in that CPN already; where the shell's window is open, the joining die does not run that window from its first period. -/
def State.joinSnapshot (s : State) (c : Nat) : State :=
  let j := otherCmd c
  if s.role c = 3 && decide (s.role j = 1) && (s.cmd j).joinWait then
    if s.get (CMD.JRNL_RGN_JRNL_LEN c) = 0 then s.joinFailed j
    else
      let x := s.cmd c
      let s := s.modCmd j (fun y => { y with
        joinWait := false, run := none, toRun := [], sigs := [], joinSigs := [], bsnLast := x.bsnLast, win := none, counted := y.tick.isNone
        whole := x.win.isNone, frames := y.frames.filter (fun f => decide (x.bsnLast < f.bsn)) })
      let s := s.set (CMD.CPN_CPN j) (s.get (CMD.CPN_CPN c))
      let s := [CMD.CMDCFG, CMD.SNAP_RGN, CMD.CBUF_RGN, CMD.JRNL_RGN].foldl (fun t f => t.setReg (f j) (t.reg (f c))) s
      let first := s.get (CMD.SNAP_RGN_SNAP_BASE c)
      let n := s.get (CMD.SNAP_RGN_SNAP_LEN c)
      let s := s.modCmd c (fun y => { y with sending := (List.range n).map (fun p => first + p), copied := [] })
      s.send ⟨.joinSnapshot, c, [s.get (CMD.CPN_CPN c), 4096 * first, 4096 * n]⟩
  else s

/-- The bytes of a 4 KiB page of a command die's SRAM, moved to another address. -/
def pageTo (m : Memory) (src dst : Nat) : Memory :=
  let part := (m.filter (fun x => decide (src ≤ x.1) && decide (x.1 < src + 4096))).map (fun (x : Host.Cell) => (x.1 - src + dst, x.2))
  part.foldl (fun m (x : Host.Cell) => Memory.write m x.1 x.2) (Memory.clear m dst 4096)

/-- Where page `p` of die `c` goes in its copy buffer. -/
def State.copyPage (s : State) (c i : Nat) : Nat := c * 2 ^ 32 + 4096 * (s.get (CMD.CBUF_RGN_CBUF_BASE c) + i)

/-- The software of die `c` is about to write address `a` of its SRAM: a page that a joining die is still to be sent is first copied into the copy
buffer (R373); where that is full the join fails (R375). -/
def State.keepPage (s : State) (c a : Nat) : State :=
  let x := s.cmd c
  let p := a / 4096
  if !x.sending.contains p || x.copied.contains p then s
  else if s.get (CMD.CBUF_RGN_CBUF_LEN c) ≤ x.copied.length then s.joinFailed (otherCmd c)
  else
    let s := { s with mem := pageTo s.mem (c * 2 ^ 32 + 4096 * p) (s.copyPage c x.copied.length) }
    s.modCmd c (fun x => { x with copied := x.copied ++ [p] })

/-- The joining die `j` loads the state region as it stood at the boundary (R373, R374). -/
def State.joinLoad (s : State) (j : Nat) : State :=
  let c := otherCmd j
  let x := s.cmd c
  let mem := x.sending.foldl (fun m p =>
    pageTo m (match x.copied.findIdx? (fun q => decide (q = p)) with | some i => s.copyPage c i | none => c * 2 ^ 32 + 4096 * p)
      (j * 2 ^ 32 + 4096 * p)) s.mem
  ({ s with mem := mem }).modCmd c (fun x => { x with sending := [], copied := [] })

/-- COMMAND_PERIOD_TICK (R343): a tick of drive die `d`. -/
def execCommandPeriodTick (c : Fin 2) (d : Fin 4) (s : State) : Out := s.whileRuns <|
  .next <|
    if s.role c = 0 then s
    else
      let s := if (s.cmd c).counted then s else s.incMod (CMD.CPN_CPN c)
      (s.modCmd c (fun x => { x with tick := some d, counted := false })).joinSnapshot c

/-- DRIVE_RECORD_ARRIVAL (R346): a record of the tick that CPN `tick` counts; late after its snapshot's close. -/
def execDriveRecordArrival (c : Fin 2) (d : Fin 4) (tick : Nat) (words : List Word) (s : State) : Out := s.whileRuns <|
  .next <|
    let cpn := s.get (CMD.CPN_CPN c)
    let closed := if tick = cpn then (s.cmd c).tick.isNone else cpnReached cpn tick
    if closed then s.incSat (CMD.SKIPCNT_REC_LATE_CNT c)
    else s.modCmd c (fun x => { x with recs := x.recs ++ [⟨tick, d, words⟩] })

/-- EVENT_FLIT_ARRIVAL (R347). -/
def execEventFlitArrival (c : Fin 2) (words : List Word) (s : State) : Out := s.whileRuns <|
  .next (s.modCmd c (fun x => { x with events := x.events ++ [words] }))

/-- The oldest frame that N has sent to a command die arrives, in BSN order (R521); one that a snapshot has covered already was fetched
(R350). -/
def State.inputFrameArrival (s : State) (c : Nat) : State :=
  match (s.cmd c).inFrames with
  | [] => s
  | f :: r => s.modCmd c (fun x => { x with inFrames := r, frames := if f.bsn ≤ x.bsnLast then x.frames else x.frames ++ [f] })

/-- The words of an input frame (R521). -/
def InputFrame.bytes (f : InputFrame) : List Nat :=
  let hdr := [f.bsn, f.fc + 256 * f.kind + 65536 * f.payload.length, f.lt].flatMap (fun w => (bytesLE w 4).map BitVec.toNat)
  hdr ++ f.payload ++ List.replicate ((4 - f.payload.length % 4) % 4) 0

/-- The highest BSN with every frame up to it received. -/
def bsnReach (fs : List InputFrame) : Nat → Nat → Nat
  | 0, b => b
  | n + 1, b => if fs.any (fun f => decide (f.bsn = b + 1)) then bsnReach fs n (b + 1) else b

/-- The open snapshot as it closes (R345): its items and the descriptor, whose CRC is last. -/
def State.snapshot (s : State) (c tick : Nat) (din : BitVec 16) : Snapshot :=
  let x := s.cmd c
  let cpn := s.get (CMD.CPN_CPN c)
  let here := x.recs.filter (fun r => decide (r.tick = cpn))
  let recs := (List.range 4).flatMap (fun d => here.filter (fun r => decide (r.die = d)))
  let of (d : Nat) : List Word := (recs.filter (fun r => decide (r.die = d))).flatMap (fun r => r.words)
  let present := (List.range 4).foldl (fun m d => if (of d).isEmpty then m else m + 2 ^ d) 0
  let bit (f : Bool) (n : Nat) : Nat := if f then 2 ^ n else 0
  let last := bsnReach x.frames x.frames.length x.bsnLast
  let frs := (List.range (last - x.bsnLast)).filterMap (fun i => x.frames.find? (fun f => decide (f.bsn = x.bsnLast + 1 + i)))
  let w1 := present + 16 * tick + bit (s.flag (CMD.CMDSTAT_TAKE c) || x.failover) 8 + bit (decide (x.swapAt = some cpn)) 9 + bit x.resumed 10
  let ws : List Word := [BitVec.ofNat 32 cpn, BitVec.ofNat 32 w1, (of tick).getD 0 0,
    BitVec.ofNat 32 (getBits ((of tick).getD 1 0) 0 16 + 65536 * din.toNat), BitVec.ofNat 32 last,
    BitVec.ofNat 32 (crcWords ((List.range 4).flatMap of)), BitVec.ofNat 32 (crc32c (frs.flatMap InputFrame.bytes)),
    BitVec.ofNat 32 (x.events.length % 65536), BitVec.ofNat 32 (crcWords (x.events.flatMap id)), x.sState]
  { desc := ws ++ [BitVec.ofNat 32 (crcWords ws)], recs := recs, frames := frs, events := x.events }

/-- R353: two descriptors of one tick are compared at one die. -/
def State.compareDescriptors (s : State) (c : Nat) (a b : List Word) : State :=
  let bad := (List.range 10).filter (fun i => decide (a.getD i 0 ≠ b.getD i 0))
  let s := s.modCmd c (fun x => { x with diff := !bad.isEmpty })
  if bad.isEmpty then s
  else (s.incSat (CMD.SNAPCNT_DIFF_CNT c)).orBits (CMD.SNAP_LOG_SNAP_LOG c) (bad.foldl (fun m i => m + 2 ^ i) 0)

/-- SNAPSHOT_CLOSE (R345, R348): the snapshot of the last tick closes with the digital inputs as sampled; its descriptor
goes to the other die. -/
def execSnapshotClose (c : Fin 2) (din : BitVec 16) (s : State) : Out := s.whileRuns <|
  .next <|
    match (s.cmd c).tick with
    | none => s
    | some t =>
      let q := s.snapshot c t din
      let s := s.modCmd c (fun x => { x with
        tick := none, events := [], bsnLast := (q.word 4).toNat
        recs := x.recs.filter (fun r => !cpnReached q.cpn r.tick)
        closed := x.closed ++ [q], own := (x.own ++ [q]).drop (x.own.length - 7), ready := false })
      let s := if s.peerGone c then s
        else (s.modCmd (otherCmd c) (fun x => { x with inbox := x.inbox ++ [q.desc] })).send ⟨.descriptor, c, q.desc.map BitVec.toNat⟩
      let s := match (s.cmd c).received.find? (fun r => decide (r.getD 0 0 = q.word 0)) with
        | some r => (s.compareDescriptors c q.desc r).modCmd c (fun x => { x with ready := true })
        | none => s
      s.tryStart c

/-- DESCRIPTOR_RECEIVED (R349, R353): the oldest descriptor in transit arrives. -/
def execDescriptorReceived (c : Fin 2) (s : State) : Out := s.whileRuns <|
  .next <|
    match (s.cmd c).inbox with
    | [] => s
    | d :: rest =>
      let s := s.modCmd c (fun x => { x with inbox := rest, received := (x.received ++ [d]).drop (x.received.length - 7) })
      match (s.cmd c).own.find? (fun r => decide (r.word 0 = d.getD 0 0)) with
      | some r =>
        let s := s.compareDescriptors c r.desc d
        let newest := match (s.cmd c).closed.getLast? with | some q => decide (q.word 0 = d.getD 0 0) | none => false
        (if newest then s.modCmd c (fun x => { x with ready := true }) else s).tryStart c
      | none => s

/-- DESCRIPTOR_WAIT_TIMEOUT (R349): 2 us after its close the shell goes on alone. -/
def execDescriptorWaitTimeout (c : Fin 2) (s : State) : Out := s.whileRuns <|
  .next (if s.role c = 3 then (s.modCmd c (fun x => { x with ready := !x.closed.isEmpty })).tryStart c else s)

/-- What the liner runs in place of the shell's snapshot `d`: the shell's words; each item its own where the digest of its own snapshot is the
same, else the shell's, fetched (R350); with the number of fetched items. -/
def CmdDie.fetch' (x : CmdDie) (d : Snapshot) : Snapshot × Nat :=
  match x.own.find? (fun r => decide (r.word 0 = d.word 0)) with
  | none => (d, 3)
  | some m =>
    let same (i : Nat) : Bool := decide (m.word i = d.word i)
    ({ d with recs := if same 5 then m.recs else d.recs, frames := if same 6 then m.frames else d.frames
              events := if same 8 then m.events else d.events },
      ([5, 6, 8].filter (fun i => !same i)).length)

/-- A liner that is to rejoin takes JOIN at its next period start, without a restart, and requests the join (R338, R372). -/
def State.enterJoin (s : State) (c : Nat) : State :=
  (s.takeRole c 1).modCmd c (fun x => { x with nextRole := none, joinWait := true, toRun := [], win := none })

/-- A liner halts for debug where the shell did (R382): in the period that the shell's halt names, each core after as many writes as the shell's core
had issued there (DESIGN CHOICE, assumption 75: no command counts the instructions between them). -/
def State.haltCheck (s : State) (c : Nat) : State :=
  let x := s.cmd c
  match x.haltAt with
  | some (n, v) =>
    if decide (x.lastCpn = n) && [0, 1, 2, 3].all (fun k => decide (vget v k ≤ vget x.issued k)) then
      (s.setB (CMD.DBGSTAT_HALTED c) true).modCmd c (fun x => { x with haltAt := none })
    else s
  | none => s

/-- May core `k` of a command die run on: the die is neither OFF nor halted, and the core has not reached the count of a halt (R337, R382)? -/
def State.coreRuns (s : State) (c k : Nat) : Bool :=
  let x := s.cmd c
  decide (s.role c ≠ 0) && !s.flag (CMD.DBGSTAT_HALTED c)
  && (match x.haltAt with | some (n, v) => decide (x.lastCpn ≠ n) || decide (vget x.issued k < vget v k) | none => true)

/-- A core has issued a write. -/
def State.coreIssued (s : State) (c k : Nat) : State := (s.modCmd c (fun x => { x with issued := vmod x.issued k (· + 1) })).haltCheck c

/-- FETCH_COMPLETE (R350): the liner holds the shell's descriptor and every item that it names, and starts its period; a joining die runs the
next period of the journal (R374).  A die that holds TAKE no longer follows the shell (R352). -/
def execFetchComplete (c : Fin 2) (s : State) : Out := s.whileRuns <|
  .next <|
    let x := s.cmd c
    match x.run, x.toRun with
    | none, d :: rest =>
      let follows := decide (s.role c = 1) || ((decide (s.role c = 2) || decide (x.nextRole = some 2)) && x.received.any (fun r => decide (r.getD 0 0 = d.word 0)))
      if !follows || s.flag (CMD.CMDSTAT_TAKE c) || s.flag (CMD.DBGSTAT_HALTED c) then s
      else if x.nextRole = some 1 then s.enterJoin c
      else
        let (q, n) := x.fetch' d
        let s := if s.role c = 1 then s.joinLoad c else s
        let s := s.addSat (CMD.SNAPCNT_FETCH_CNT c) n
        let s := s.modCmd c (fun x => { x with
          toRun := rest, closed := x.closed.filter (fun r => !cpnReached d.cpn r.cpn)
          bsnLast := if x.own.any (fun r => !cpnReached d.cpn r.cpn) then x.bsnLast else (d.word 4).toNat })
        ((s.beginPeriod c q).modCmd c (fun x => { x with fetch := decide (0 < n), late := false, resumed := false })).haltCheck c
    | _, _ => s

/-- A window of a die closes (R356): SIG shows G; the shell journals it for a joining die, which compares the windows that it has run whole,
whichever die closes them first (R374, R375). -/
def State.closeWindow (s : State) (c : Nat) (g : BitVec 64) : State :=
  let x := s.cmd c
  let s := (s.set (CMD.SIG_LO_SIG_LO c) g.toNat).set (CMD.SIG_HI_SIG_HI c) (g.toNat / 2 ^ 32)
  let s := s.modCmd c (fun x => { x with win := none, whole := true })
  let l := otherCmd c
  let differs (l : List (Nat × BitVec 64)) : Bool := l.any (fun y => decide (y.1 = x.lastCpn) && decide (y.2 ≠ g))
  if s.role c = 3 && decide (s.role l = 1) && !(s.cmd l).joinWait then
    let s := s.modCmd l (fun y => { y with sigs := y.sigs ++ [(x.lastCpn, g)] })
    if differs (s.cmd l).joinSigs then s.joinFailed l else s
  else if s.role c = 1 && x.whole then
    let s := s.modCmd c (fun y => { y with joinSigs := y.joinSigs ++ [(x.lastCpn, g)] })
    if differs x.sigs then s.joinFailed c else s
  else s

/-- DONE_WRITE (R344): core `k` ends its part, once the writes that it has issued and GRANT holds back have completed; with every DONE bit of
CP_CORES set the period ends, a window that ends with it closes, the heartbeat leaves. -/
def State.doneWrite (s : State) (c k : Nat) : State :=
  if (s.cmd c).claim && (s.cmd c).heldWrites.any (fun w => decide (w.1 = k)) then s.modCmd c (fun x => { x with doneWait := x.doneWait ++ [k] })
  else
    let s := s.setBit (CMD.DONE_DONE c) k true
    let cores := s.get (CMD.CMDCFG_CP_CORES c)
    if (s.cmd c).run.isNone || decide (s.get (CMD.DONE_DONE c) &&& cores ≠ cores) then s
    else
      let x := s.cmd c
      let s := s.modCmd c (fun x => { x with run := none })
      let s := if cpnReached x.lastCpn (x.win.getD x.lastCpn) then (s.closeWindow c x.signature).sendHeartbeat c (some x.signature)
        else s.sendHeartbeat c none
      s.tryStart c

/-- DONE writes that held writes have kept waiting complete (R344). -/
def State.doneRelease (s : State) (c : Nat) : State :=
  (s.cmd c).doneWait.foldl (fun t k => t.doneWrite c k) (s.modCmd c (fun x => { x with doneWait := [], heldWrites := [] }))

/-- DONE_WRITE (R344), by a core that runs. -/
def execDoneWrite (c : Fin 2) (core : Fin 4) (s : State) : Out := s.whileRuns <|
  .next (if s.coreRuns c core then (s.coreIssued c core).doneWrite c core else s)

/-! ### Judgement (R359-R364) -/

/-- The speed of a wheel-speed input in 0.1 rpm, with WS_PPR and WS_WIN of the lowest-numbered axis that names it, or 4
counts per revolution (R395, R398). -/
def State.wheelSpeed (s : State) (n : Nat) : Int :=
  let ax := (List.range 4).find? (fun k => decide (s.dnat (DP.AX_WS k) = n))
  let ppr := match ax with | some k => s.dnat (DP.AX_WS_PPR k) | none => 4
  let win := match ax with | some k => s.dnat (DP.AX_WS_WIN k) | none => 8
  let h := (vget (vget s.safety.chans 1).wheels n).hist
  let adv := h.getD 0 0 - h.getD (min (4 * win) (h.length - 1)) 0
  max (-32767) (min 32767 (openRead ((adv * 600000 : Int) / ((ppr * win : Nat) : Rat))))

/-- R361: is the last plausibility vector of a die inside the envelope? -/
def State.insideEnvelope (s : State) (c : Nat) : Bool :=
  (bitsOf 4 (s.dnat DP.ARBP_ENV_EN)).all (fun k =>
    let v := (vget s.arb.pv c).getD k 0
    let n := if (s.dnat DP.ARBP_ENV_MAP).testBit k then 1 else 0
    decide ((toSigned 16 (getBits v 0 16) - s.wheelSpeed n).natAbs ≤ s.dnat DP.ARBP_ENV_SPD)
    && decide ((toSigned 16 (getBits v 16 16)).natAbs ≤ s.dnat DP.ARBP_ENV_I))

/-- R360. -/
def State.sound (s : State) (c : Nat) : Bool :=
  !(vget s.arb.lost c) && decide (s.get (arbHealth c) &&& s.dnat DP.ARBP_HW_MASK = 0) && s.insideEnvelope c

/-- The arbiter requests SS1 (R363, R370); the channels take it at their next evaluation. -/
def State.requestArbSs1 (s : State) : State := (s.setB ARB.ARBSTAT_SS1_REQ true).send ⟨.arbSs1, Die.s.code, []⟩

/-- A die is removed (R364): OFF; held there from the third removal within 10 min (2,400,000 channel B cycles). -/
def State.removeDie (s : State) (c : Nat) : State :=
  let now := s.safety.cycles
  let old := (vget s.arb.removals c).filter (fun t => decide (now < t + 2400000))
  let s := (s.set (arbRole c) 0).modArb (fun a => { a with
    removals := vset a.removals c (now :: old), sigs := a.sigs.filter (fun x => decide (x.1 ≠ c)) })
  let s := if s.arb.swapN.isSome then (s.setB ARB.ARBSTAT_SWAP_PEND false).modArb (fun a => { a with swapN := none, swapClaim := false, swapHb := false }) else s
  if 2 ≤ old.length then s.setB (arbLockout c) true else s

/-- FAILOVER (R366). -/
def State.failover (s : State) (shell cause : Nat) : State :=
  let liner := otherCmd shell
  let s := s.decide' 2 cause (some .failover)
  let s := (s.incSat ARB.ARBCNT_FO_CNT).setB ARB.ARBSTAT_MITTEN true
  let s := s.set ARB.ARBSTAT_HOME shell
  let s := (s.setB (CMD.CMDSTAT_HOME shell) true).setB (CMD.CMDSTAT_HOME liner) false
  let s := (s.removeDie shell).modArb (fun a => { a with wire := none, takeTo := some liner, failN := true })
  s.send ⟨.verdict, Die.s.code, [2, shell, liner]⟩

/-- The table of R362 (a liner that rejoins takes JOIN at its next period start, R338, R372); `cause` 1 mismatch, 2 shell heartbeat lost, 3 liner heartbeat lost. -/
def State.judge (s : State) (cause : Nat) : State :=
  match s.arbShell with
  | none => s
  | some c =>
    let l := otherCmd c
    let ls := s.sound l
    if s.sound c then
      if ls then
        let now := s.safety.cycles
        let old := s.arb.unres.filter (fun t => decide (now < t + 4000))
        let s := ((s.decide' 0 1 (some .unres)).incSat ARB.ARBCNT_MM_UNRES).modArb (fun a => { a with unres := now :: old })
        let s := if s.get (arbRole l) = 2 then s.set (arbRole l) 1 else s
        if 2 ≤ old.length then s.requestArbSs1.modArb (fun a => { a with unres := [] }) else s
      else (s.decide' 1 (if cause = 1 then 1 else 3) none).removeDie l
    else if ls && decide (s.get (arbRole l) = 2) then s.failover c (if cause = 1 then 1 else 2)
    else
      let s := s.decide' 3 (if cause = 1 then 1 else 2) none
      let s := if s.get (arbRole l) = 0 then s else s.removeDie l
      ((s.setB ARB.ARBSTAT_MITTEN true).modArb (fun a => { a with wire := none })).requestArbSs1

/-- Does the arbiter judge now?  Not while the shell is halted for debug (R384). -/
def State.arbActive (s : State) : Bool := !([0, 1].any (fun c => decide (s.get (arbRole c) = 3) && s.flag (CMD.DBGSTAT_HALTED c)))

/-- Both signatures of a window are present and differ (R359); while the shell is halted for debug none are compared (R384). -/
def State.matchSignatures (s : State) : State :=
  if !s.arbActive then s else
  match s.arb.sigs.find? (fun x => decide (x.1 = 0) && s.arb.sigs.any (fun y => decide (y.1 = 1) && decide (y.2.1 = x.2.1))) with
  | none => s
  | some x =>
    match s.arb.sigs.find? (fun y => decide (y.1 = 1) && decide (y.2.1 = x.2.1)) with
    | none => s
    | some y =>
      let s := s.modArb (fun a => { a with sigs := a.sigs.filter (fun z => !cpnReached x.2.1 z.2.1) })
      if x.2.2 = y.2.2 then s
      else
        ((s.incSat ARB.ARBCNT_MM_CNT).restartHoldoff).judge 1

/-- HEARTBEAT_RECEIVED (R359): the oldest heartbeat of a die in transit reaches the arbiter; `late` that it is the
liner's and more than HB_TMO behind the shell's for the same CPN. -/
def execHeartbeatReceived (c : Fin 2) (late : Bool) (s : State) : Out := s.whileRuns <|
  .next <|
    match (s.cmd c).hb with
    | [] => s
    | h :: rest =>
      let s := s.modCmd c (fun x => { x with hb := rest })
      let s := s.setReg (arbHealth c).addr h.health
      let s := s.modArb (fun a => { a with
        cpn := vset a.cpn c h.cpn, pv := vset a.pv c h.pv, lost := vset a.lost c false
        timed := a.timed || decide (s.get (arbRole c) = 3)
        sigs := match h.sig with | some g => if 2 ≤ s.get (arbRole c) then a.sigs ++ [((c : Nat), h.cpn, g)] else a.sigs | none => a.sigs })
      let s := match s.arb.swapN with
        | some n => if s.get (arbRole c) = 3 ∧ (h.cpn + 1) % 2 ^ 32 = n then s.modArb (fun a => { a with swapHb := true }) else s
        | none => s
      if late && decide (s.get (arbRole c) = 2) && s.arbActive then
        ((s.modArb (fun a => { a with lost := vset a.lost c true })).restartHoldoff).judge 3
      else s.matchSignatures

/-- A die has lost its heartbeat: HB_TMO without one, or LOSS or OOR of its clock (R359); not while the shell is halted for debug (R384). -/
def State.heartbeatLost (s : State) (c : Nat) : State :=
  if s.get (arbRole c) < 2 ∨ !s.arbActive then s
  else ((s.modArb (fun a => { a with lost := vset a.lost c true })).restartHoldoff).judge (if s.get (arbRole c) = 3 then 2 else 3)

/-- HEARTBEAT_TIMEOUT (R359): heartbeats are timed from the shell's first one on (R452). -/
def execHeartbeatTimeout (c : Fin 2) (s : State) : Out := s.whileRuns <| .next (if s.arb.timed then s.heartbeatLost c else s)

/-! ### Fail-over, join, return -/

/-- ROLE_WIRE_CHANGE (R367): the wires as they stand reach a drive die; where none is asserted any more, its command windows
return to their committed state. -/
def execRoleWireChange (d : Fin 4) (s : State) : Out := s.whileRuns <|
  .next <|
    let was := s.flag (DCMD.DCMDSTAT_ROLE_C0 d) || s.flag (DCMD.DCMDSTAT_ROLE_C1 d)
    let s := (s.setB (DCMD.DCMDSTAT_ROLE_C0 d) (decide (s.arb.wire = some 0))).setB (DCMD.DCMDSTAT_ROLE_C1 d) (decide (s.arb.wire = some 1))
    if was && s.arb.wire.isNone then
      let s := foldOver [0, 1] (fun k t =>
        (foldOver (List.range 64) (fun w u => u.setReg (CLE.CWP d k w) (u.reg (CLE.CWC d k w))) t).setB (CLE.CW_COMMIT_COMMIT d k) false) s
      s.incSat (DCMD.DCMDSTAT_MITTEN_CNT d)
    else s

/-- VERDICT_RECEIVED (R338, R369, R377): the arbiter's latest word on a die reaches it; OFF acts at once; a die that takes
TAKE between two periods goes on by its own snapshot (R352). -/
def execVerdictReceived (c : Fin 2) (s : State) : Out := s.whileRuns <|
  .next <|
    let r := s.get (arbRole c)
    let take := decide (s.arb.takeTo = some (c : Nat))
    let s := if take then s.setB (CMD.CMDSTAT_TAKE c) true else s
    let s := match s.arb.swapN with
      | some n => (s.setB (CMD.CMDSTAT_SWAP_PEND c) true).modCmd c (fun x => { x with swapAt := some n })
      | none => (s.setB (CMD.CMDSTAT_SWAP_PEND c) false).modCmd c (fun x => { x with swapAt := none })
    let s :=
      if r = s.role c then s.modCmd c (fun x => { x with nextRole := if r = 1 ∧ x.nextRole = some 2 then some 2 else none })
      else if r = 0 then
        ((s.setB (CMD.CMDSTAT_TAKE c) false).takeRole c 0).modCmd c (fun x => { x with
          run := none, closed := [], ready := false, toRun := [], sigs := [], received := [], own := [], tick := none, claim := false, sending := [], copied := [], joinSigs := []
          held := false, heldWrites := [], doneWait := [], debugWrites := [], swapAt := none, nextRole := none, win := none, failover := false, resumed := false })
      else s.modCmd c (fun x => { x with nextRole := some r })
    if take then s.tryStart c else s

/-- CLAIM (R369, R377), which the die has sent, reaches S; `len` is the mitten's length in 10 ns units.  In a return it counts for period n only. -/
def execClaim (c : Fin 2) (len : Nat) (s : State) : Out := s.whileRuns <|
  .next <|
    if !(s.cmd c).claim then s
    else if s.arb.takeTo = some (c : Nat) then
      let s := ((s.set (arbRole c) 3).setB ARB.ARBSTAT_MITTEN false).setReg ARB.MIT_LEN (BitVec.ofNat 32 len)
      (s.modArb (fun a => { a with takeTo := none, wire := some c, nShell := some c })).send ⟨.grant, Die.s.code, [c]⟩
    else if s.arb.swapN = some (s.cmd c).lastCpn ∧ s.arbShell ≠ some c.val then s.modArb (fun a => { a with swapClaim := true })
    else s

/-- GRANT (R369, R377) reaches the new shell: after TAKE it starts on its own descriptor; after a SWAP its held writes may go. -/
def State.grant (s : State) (c : Nat) : State :=
  if !(s.cmd c).claim then s
  else if s.flag (CMD.CMDSTAT_TAKE c) then
    let s := (s.setB (CMD.CMDSTAT_TAKE c) false).takeRole c 3
    (s.modCmd c (fun x => { x with claim := false, nextRole := none, toRun := [], failover := true })).tryStart c
  else s.modCmd c (fun x => { x with claim := false, held := false })

/-- CLAIM_TIMEOUT (R370). -/
def execClaimTimeout (s : State) : Out := s.whileRuns <|
  .next <|
    match s.arb.takeTo with
    | none => s
    | some l => (((s.decide' 3 4 none).removeDie l).modArb (fun a => { a with takeTo := none })).requestArbSs1

/-- JOIN_REPLAY_COMPLETE (R374): with no journalled period left to run the joining die has reached the shell's; it enters LINER at the next
window start (`State.applyRole`). -/
def execJoinReplayComplete (c : Fin 2) (s : State) : Out := s.whileRuns <|
  .next <|
    if s.get (arbRole c) ≠ 1 ∨ (s.cmd c).joinWait ∨ (s.cmd c).toRun ≠ [] then s
    else (s.joinLoad c).modCmd c (fun x => { x with nextRole := some 2, joinFails := 0 })

/-- JOIN_FAIL (R375): the copy buffer or the journal overflows; a journal of no pages fails at its boundary, a signature that differs at its
window's close. -/
def execJoinFail (c : Fin 2) (s : State) : Out := s.whileRuns <| .next (if s.get (arbRole c) ≠ 1 then s else s.joinFailed c)

/-- HOLDOFF_EXPIRE (R376, R377): no hold-off remains; SWAP names the first window start at least two command periods on. -/
def execHoldoffExpire (c : Fin 2) (s : State) : Out := s.whileRuns <|
  .next <|
    if decide (s.get (arbRole c) = 2) && decide (s.get ARB.ARBSTAT_HOME = (c : Nat)) && decide (s.dnat DP.ARBP_AUTO_RETURN = 1)
        && s.arb.swapN.isNone && decide (s.get ARB.HOLD_REM_HOLD_REM = 0) then
      let w := s.sigWin (otherCmd c)
      let p := (s.get (CMD.CPN_CPN (otherCmd c)) + 2) % 2 ^ 32
      let n := if 2 ^ 32 ≤ (p + w - 1) / w * w then 0 else (p + w - 1) / w * w
      let s := s.setB ARB.ARBSTAT_SWAP_PEND true
      (s.modArb (fun a => { a with swapN := some n, swapClaim := false, swapHb := false })).send ⟨.verdict, Die.s.code, [4, c, n]⟩
    else s

/-- SWAP (R377): with CLAIM for n and the old shell's heartbeat for n - 1 held, both wires switch in one cycle and GRANT
leaves. -/
def execSwap (s : State) : Out := s.whileRuns <|
  .next <|
    match s.arb.swapN, s.arbShell with
    | some _, some o =>
      if s.arb.swapClaim && s.arb.swapHb then
        let n := otherCmd o
        let s := (s.decide' 4 6 (some .ret)).incSat ARB.ARBCNT_RET_CNT
        let s := ((s.set (arbRole o) 2).set (arbRole n) 3).setB ARB.ARBSTAT_SWAP_PEND false
        let s := (s.setB (CMD.CMDSTAT_SWAP_PEND o) false).setB (CMD.CMDSTAT_SWAP_PEND n) false
        let s := s.dropDebug
        (s.modArb (fun a => { a with swapN := none, swapClaim := false, swapHb := false, wire := some n, nShell := some n })).send ⟨.grant, Die.s.code, [n]⟩
      else s
    | _, _ => s

/-- SWAP_TIMEOUT (R378): with one of the two messages missing the swap is cancelled; the old shell delivers again from the next period; what the
other die has held in period n is not delivered. -/
def execSwapTimeout (s : State) : Out := s.whileRuns <|
  .next <|
    match s.arb.swapN, s.arbShell with
    | some _, some o =>
      if s.arb.swapClaim && s.arb.swapHb then s else
      let n := otherCmd o
      let s := (s.decide' 5 6 none).setB ARB.ARBSTAT_SWAP_PEND false
      let s := (s.setB (CMD.CMDSTAT_SWAP_PEND o) false).setB (CMD.CMDSTAT_SWAP_PEND n) false
      let s := s.modCmd o (fun x => { x with nextRole := if s.role o = 3 then none else some 3, swapAt := none })
      let s := s.modCmd n (fun x => { x with nextRole := if s.role n = 3 then some 2 else none, swapAt := none, claim := false })
      let s := s.doneRelease n
      (s.modArb (fun a => { a with swapN := none, swapClaim := false, swapHb := false })).tryStart o
    | _, _ => s

/-! ### Debug (R380-R384) -/

/-- DEBUG_ATTACH (R380). -/
def execDebugAttach (c : Fin 2) (s : State) : Out := s.whileRuns <|
  .next <|
    if s.role c = 3 ∧ s.dnat DP.ARBP_DBG_ALLOW = 1 then s.setB (CMD.DBGSTAT_ATTACHED c) true else s.setB (CMD.DBGSTAT_DBG_REJ c) true

/-- SHELL_DEBUG_HALT (R382): the shell halts at the instruction counts of its cores, recorded with the CPN; the liner halts where it has run as far in
that period. -/
def execShellDebugHalt (c : Fin 2) (counts : List Nat) (s : State) : Out := s.whileRuns <|
  .next <|
    if decide (s.role c = 3) && s.flag (CMD.DBGSTAT_ATTACHED c) && !s.flag (CMD.DBGSTAT_HALTED c) then
      let x := s.cmd c
      let s := (s.setB (CMD.DBGSTAT_HALTED c) true).modCmd c (fun x => { x with counts := counts, haltCpn := x.lastCpn })
      let l := otherCmd c
      if s.role l = 2 then (s.modCmd l (fun y => { y with counts := counts, haltCpn := x.lastCpn, haltAt := some (x.lastCpn, x.issued) })).haltCheck l
      else s
    else s

/-- The debugger writes that a die has yet to apply are applied (R383). -/
def State.applyDebugWrites (s : State) (l : Nat) (apply : State → Nat → Word → State) : State :=
  (s.cmd l).debugWrites.foldl (fun t w => apply t w.1 w.2) (s.modCmd l (fun x => { x with debugWrites := [] }))

/-- SHELL_DEBUG_RESUME (R383, R384): the liner applies the journalled debugger writes first; both dies go on with RESUMED. -/
def State.debugResume (s : State) (c : Nat) (apply : State → Nat → Word → State) : State :=
  if !s.flag (CMD.DBGSTAT_HALTED c) then s
  else
    let l := otherCmd c
    let was := s.flag (CMD.DBGSTAT_HALTED l)
    let s := s.applyDebugWrites l apply
    let s := (s.setB (CMD.DBGSTAT_HALTED c) false).setB (CMD.DBGSTAT_HALTED l) false
    let s := s.modCmd c (fun x => { x with resumed := true, counts := [] })
    (s.modCmd l (fun x => { x with counts := [], haltAt := none, resumed := x.resumed || was })).tryStart c

/-! ### A drive die is retired (R24) -/

/-- A drive die out of service (R24): the halt guard asserts its STO branch, so that its gate ports and its auxiliary port are off; both its
engines are retired with it; its GSU and its supervisor stop (`gsuBoundary`, `rtEvaluate`); S knows it. -/
def State.dieOut (s : State) (d : Nat) : State :=
  let s := s.modDrive d (fun x => { x with retired := true })
  let s := if s.bit HGRD.HGSTAT_ASSERT d then s.branchAssert d else s.guardAssert d
  let s := (s.cleRetired d 0).cleRetired d 1
  { s with gridS := { s.gridS with retired := s.gridS.retired ||| 2 ^ d } }

/-- DRIVE_DIE_RETIRE (R24, R25): one retirement, recorded as the die's; the grid port passes it over; a scan of its memory cannot go on. -/
def State.retireDie (s : State) (d : Nat) : State :=
  if (vget s.drives d).retired then s
  else
    let s := (((s.dieOut d).recordRetire .driveDie (Die.drive d) 0xFF).recordMember d 0).recordMember d 1
    let s := (s.refreshProbeDie).refreshGrid d
    foldOver (List.range 8) (fun u t =>
      if t.crcOpen u && decide (crcSource (t.crcUnit u).cfg = 1) && decide (scanDie (t.crcUnit u).base = (Die.drive d).code)
      then t.scanFail u else t) s

end Sys2Proof.Machine
end

