-- ==== Sys2Proof/Machine/Safety.lean ====
section
/-!
DEFINITION. Sys2Proof/Machine/Safety.lean: the safety functions of S (chapter 11): the STO wire, axes, the function state
machine in two channels, safe inputs and outputs, the safety session, the safety layer, the mailbox.
-/

namespace Sys2Proof.Machine

/-! ### Shared access -/

/-- Change the safety side of S. -/
def State.modSafety (s : State) (f : Safety → Safety) : State := { s with safety := f s.safety }

/-- A channel: 0 A, 1 B. -/
def State.chan (s : State) (ch : Nat) : SafeChannel := vget s.safety.chans ch

/-- Change a channel. -/
def State.modChan (s : State) (ch : Nat) (f : SafeChannel → SafeChannel) : State :=
  s.modSafety (fun x => { x with chans := vmod x.chans ch f })

/-- Axis `k` as a channel monitors it. -/
def State.mon (s : State) (ch k : Nat) : AxisMon := vget (s.chan ch).axes k

/-- Change what a channel holds of an axis. -/
def State.modMon (s : State) (ch k : Nat) (f : AxisMon → AxisMon) : State :=
  s.modChan ch (fun c => { c with axes := vmod c.axes k f })

/-- Safe input `n` as a channel samples it. -/
def State.safeInput (s : State) (ch n : Nat) : SafeInput := vget (s.chan ch).inputs n

/-- Change what a channel holds of a safe input. -/
def State.modInput (s : State) (ch n : Nat) (f : SafeInput → SafeInput) : State :=
  s.modChan ch (fun c => { c with inputs := vmod c.inputs n f })

/-- Wheel-speed input `n` as a channel counts it. -/
def State.wheel (s : State) (ch n : Nat) : WheelInput := vget (s.chan ch).wheels n

/-- Change an axis. -/
def State.modAxis (s : State) (k : Nat) (f : SafeAxis → SafeAxis) : State := s.modSafety (fun x => { x with axes := vmod x.axes k f })

/-- Change a connection. -/
def State.modConn (s : State) (c : Nat) (f : SafeConn → SafeConn) : State := s.modSafety (fun x => { x with conns := vmod x.conns c f })

/-- Is the axis monitored (AX_EN)? -/
def State.axEn (s : State) (k : Nat) : Bool := decide (s.dnat (DP.AX_AX_EN k) = 1)

/-- A number spelt little-endian by bytes. -/
def leNum (b : List Nat) : Nat := b.foldr (fun x a => x + 256 * a) 0

/-- The command word (R437) in the last accepted safety data of the connection that CTRL_CONN names: missing bytes read 0, and so does all of
it before the first frame (DEDUCED, assumption 70); with no connection named, bits 17:0 read 1. -/
def State.commandWord (s : State) : Nat :=
  let c := s.dnat DP.SAF_CTRL_CONN
  if c < 48 then leNum ((vget s.safety.conns c).data.take 4) else 0x3FFFF

/-- A bit of the command word. -/
def State.wordBit (s : State) (i : Nat) : Bool := s.commandWord.testBit i

/-- Has a safe input with a FUNC the value 0 in a channel? -/
def State.inputLow (s : State) (ch func : Nat) (p : Nat → Bool) : Bool :=
  (List.range 8).any (fun n => decide (s.dnat (DP.SI_FUNC n) = func) && p n && !(s.safeInput ch n).value)

/-- Is bit `k` of AXES of input `n` set? -/
def State.inputAxis (s : State) (n k : Nat) : Bool := (s.dnat (DP.SI_AXES n)).testBit k

/-! ### Activation of SLS, SLP, SDI (R403-R406) -/

/-- SLS requested on axis `k`. -/
def State.slsOn (s : State) (ch k : Nat) : Bool := s.inputLow ch 3 (fun n => s.inputAxis n k) || !s.wordBit (2 + k)

/-- SDI+ requested. -/
def State.sdipOn (s : State) (ch k : Nat) : Bool := s.inputLow ch 4 (fun n => s.inputAxis n k) || !s.wordBit (6 + k)

/-- SDI- requested. -/
def State.sdinOn (s : State) (ch k : Nat) : Bool := s.inputLow ch 5 (fun n => s.inputAxis n k) || !s.wordBit (10 + k)

/-- SLP requested. -/
def State.slpOn (s : State) (ch k : Nat) : Bool := s.inputLow ch 6 (fun n => s.inputAxis n k) || !s.wordBit (14 + k)

/-! ### Sources of an axis (R394-R396) -/

/-- Is a source valid in a channel: `wheel` the WS source, which is configured and has not failed? -/
def State.srcOk (s : State) (ch k : Nat) (wheel : Bool) : Bool :=
  if wheel then decide (s.dnat (DP.AX_WS k) < 2) && !(s.mon ch k).wsFail else s.flag (SFN.AXSTAT_PI_OK k)

/-- Speeds saturate at 32,767. -/
def satSpeed (v : Int) : Int := max (-32767) (min 32767 v)

/-- Its speed in a channel, 0.1 rpm: of the PI the advance over the last four records (1 ms), of the WS the count over the last WS_WIN ms of the
channel's cycles (R394, R395). -/
def State.srcV (s : State) (ch k : Nat) (wheel : Bool) : Int :=
  if wheel then
    let ppr := max 1 (s.dnat (DP.AX_WS_PPR k))
    let win := s.dnat (DP.AX_WS_WIN k)
    let h := (s.wheel ch (s.dnat (DP.AX_WS k))).hist
    let adv := h.getD 0 0 - h.getD (min (if ch = 0 then win else 4 * win) (h.length - 1)) 0
    if s.dnat (DP.AX_WS k) < 2 then satSpeed (openRead ((adv * 600000 : Int) / ((ppr * win : Nat) : Rat))) else 0
  else
    let h := (vget s.safety.axes k).hist
    let adv := h.getD 0 0 - h.getD (min 4 (h.length - 1)) 0
    satSpeed (openRead ((adv * 600000 : Int) / (max 1 (s.dnat (DP.AX_GEAR k)) : Nat)))

/-- Its position in a channel (R394, R395): the unwrapped angle by GEAR PI revolutions per axis revolution, or the count by WS_PPR, with the
offset of the channel's referencing; 32 bits, signed. -/
def State.srcP (s : State) (ch k : Nat) (wheel : Bool) : Int :=
  toSigned 32 (ofSigned 32 (
    if wheel then
      (if s.dnat (DP.AX_WS k) < 2 then
        openRead (((s.wheel ch (s.dnat (DP.AX_WS k))).total * 65536 : Int) / (max 1 (s.dnat (DP.AX_WS_PPR k)) : Nat)) else 0) + (s.mon ch k).ofsWs
    else openRead (((vget s.safety.axes k).rev * 65536 : Int) / (max 1 (s.dnat (DP.AX_GEAR k)) : Nat)) + (s.mon ch k).ofsPi))

/-- The valid sources of an axis. -/
def State.sources (s : State) (ch k : Nat) : List Bool := [false, true].filter (fun w => s.srcOk ch k w)

/-- The registers of axis `k`, in the domain of channel B, show what channel B holds; VCAUSE that of either channel, B's first (assumption 76). -/
def State.showAxis (s : State) (k : Nat) : State :=
  let m := s.mon 1 k
  let v := ofSigned 16 (s.srcV 1 k false)
  let w := ofSigned 16 (s.srcV 1 k true)
  let p := ofSigned 32 (s.srcP 1 k false)
  let q := ofSigned 32 (s.srcP 1 k true)
  let ok := s.srcOk 1 k true
  let cause := if m.vcause ≠ 0 then m.vcause else (s.mon 0 k).vcause
  let s := ((s.set (SFN.VAX_V_PI k) v).set (SFN.VAX_V_WS k) w).setB (SFN.AXSTAT_WS_OK k) ok
  let s := ((s.set (SFN.POS_PI_POS_PI k) p).set (SFN.POS_WS_POS_WS k) q).set (SFN.AXSTAT_VCAUSE k) cause
  ((s.setB (SFN.AXSTAT_REF k) m.ref).setB (SFN.AXSTAT_DISC_V k) m.discV).setB (SFN.AXSTAT_DISC_P k) m.discP

/-- The registers of every axis. -/
def State.showAxes (s : State) : State := foldOver (List.range 4) (fun k t => t.showAxis k) s

/-- The PI source of an axis fails for this start (R396). -/
def State.failPi (s : State) (p : Nat) : State :=
  foldOver (List.range 4) (fun k t =>
    if t.dnat (DP.AX_PI k) = p then (t.modAxis k (fun a => { a with piFail := true })).setB (SFN.AXSTAT_PI_OK k) false else t) s

/-- Every PI source fails: LINK_DOWN on the N-S link, or N silent (R396, R420). -/
def State.failAllPi (s : State) : State := foldOver (List.range 8) (fun p t => t.failPi p) s

/-- The wheel-speed input `n` fails for this start in a channel (R396). -/
def State.failWs (s : State) (ch n : Nat) : State :=
  (foldOver (List.range 4) (fun k t => if t.dnat (DP.AX_WS k) = n then t.modMon ch k (fun m => { m with wsFail := true }) else t) s).showAxes

/-! ### The limit checks (R400-R407) -/

/-- The speed limits on axis `k` in 0.1 rpm that a channel monitors: SLS (R403), DEG with the lower of DEG_LIM and SLS_LIM (R408), SLP on an
unreferenced axis (R405). -/
def State.speedLimits (s : State) (ch k : Nat) : List (Option Nat) :=
  let sls := s.dnat (DP.AX_SLS_LIM k)
  let deg := s.dnat (DP.AX_DEG_LIM k)
  [if s.slsOn ch k then some sls else none,
   if (s.chan ch).degAxis.isSome then some (if s.slsOn ch k then min deg sls else deg) else none,
   if s.slpOn ch k && !(s.mon ch k).ref then some (s.dnat (DP.AX_SLP_REFV k)) else none]

/-- R403: a speed above the ramped limit. -/
def overLimit (lim dec t : Nat) (v va : Int) : Bool :=
  decide (max (lim * 4000 : Int) (va.natAbs * 4000 - dec * t) < v.natAbs * 4000)

/-- R404: a position or its stopping distance beyond SLP_MIN or SLP_MAX; `dec` is SLP_DEC, a negative one included, by which the rule's
distance is multiplied out. -/
def slpViolated (lo hi dec p v : Int) : Bool :=
  let den := 1200 * dec.natAbs
  let num := 65536 * v * v * (if dec < 0 then -1 else 1)
  decide (p < lo) || decide (hi < p)
  || (decide (0 < v) && decide (hi * den < p * den + num))
  || (decide (v < 0) && decide (p * den - num < lo * den))

/-- Put the references of an axis in one channel up to date: set at an activation, dropped at its end, the SDI extremes
moved (R403, R406). -/
def State.trackAxis (s : State) (ch k : Nat) (dt : Nat) : State :=
  let here : DirRef := ⟨s.srcP ch k false, s.srcP ch k true⟩
  let up (r : DirRef) : DirRef := ⟨max r.pi here.pi, max r.ws here.ws⟩
  let down (r : DirRef) : DirRef := ⟨min r.pi here.pi, min r.ws here.ws⟩
  let limits := s.speedLimits ch k
  let p := s.sdipOn ch k
  let n := s.sdinOn ch k
  let vp := s.srcV ch k false
  let vw := s.srcV ch k true
  s.modMon ch k (fun m => { m with
    ramps := Vector.ofFn (fun (i : Fin 3) =>
      if (limits.getD i none).isSome then some (match vget m.ramps i with | some r => { r with t := r.t + dt } | none => ⟨0, vp, vw⟩) else none)
    dirP := if p then some (match m.dirP with | some r => up r | none => here) else none
    dirN := if n then some (match m.dirN with | some r => down r | none => here) else none
    dirB := if p && n then some (m.dirB.getD here) else none })

/-- The causes of violations of axis `k` by one source now, each function by itself (R398): 1 SLS, 2 SLP, 3 SDI. -/
def State.sourceCauses (s : State) (ch k : Nat) (w : Bool) : List Nat :=
  let m := s.mon ch k
  let v := s.srcV ch k w
  let p := s.srcP ch k w
  let pick (r : DirRef) : Int := if w then r.ws else r.pi
  let tol : Int := s.dnat (DP.AX_SDI_TOL k)
  let limits := s.speedLimits ch k
  let sls := (List.range 3).any (fun i => match limits.getD i none, vget m.ramps i with
    | some l, some r => overLimit l (s.dnat (DP.AX_SLS_DEC k)) r.t v (if w then r.vWs else r.vPi)
    | _, _ => false)
  let slp := s.slpOn ch k && m.ref
    && slpViolated (s.dint (DP.AX_SLP_MIN k)) (s.dint (DP.AX_SLP_MAX k)) (s.dint (DP.AX_SLP_DEC k)) p v
  let sdi := match m.dirB, m.dirP, m.dirN with
    | some r, _, _ => decide (tol < (p - pick r).natAbs)
    | none, some r, _ => decide (p < pick r - tol)
    | none, none, some r => decide (pick r + tol < p)
    | none, none, none => false
  (if sls then [1] else []) ++ (if slp then [2] else []) ++ (if sdi then [3] else [])

/-- The violations in a channel: axis and cause, by any valid source of an enabled axis (R398). -/
def State.violations (s : State) (ch : Nat) : List (Nat × Nat) :=
  (List.range 4).flatMap (fun k =>
    if s.axEn k then
      let cs := (s.sources ch k).flatMap (fun w => s.sourceCauses ch k w)
      ([1, 2, 3].filter (fun c => decide (c ∈ cs))).map (fun c => (k, c))
    else [])

/-- Does a cause react with SS1 (REACT field 1; 2 and 3 act as 0)? -/
def State.reactsSs1 (s : State) (k cause : Nat) : Bool :=
  decide (s.dnat (DP.AX_REACT k) / 4 ^ (cause - 1) % 4 = 1)

/-- The SS1 envelope is violated on an axis by a source (R400). -/
def State.envelopeBroken (s : State) (ch k : Nat) : Bool :=
  let c := s.chan ch
  let m := s.mon ch k
  s.axEn k && (s.sources ch k).any (fun w =>
    let v0 := if w then m.v0.ws else m.v0.pi
    decide (max ((v0.natAbs : Int) * 4000 - s.dnat DP.SAF_SS1_DEC * c.t) 0 + s.dnat DP.SAF_SS1_TOL * 4000 < (s.srcV ch k w).natAbs * 4000))

/-- VIOL and the cause of a violation in a channel (R407). -/
def State.markViolation (s : State) (ch k cause : Nat) : State :=
  let s := if s.bit SFN.S_STATE_VIOL k then s else s.incSat SFN.SFCNT_VIOL_CNT
  (s.setBit SFN.S_STATE_VIOL k true).modMon ch k (fun m => { m with viol := true, vcause := cause })

/-! ### The STO wire and the state machine (R388-R401) -/

/-- Is drive energy permitted by a channel? -/
def SafeChannel.permits (c : SafeChannel) : Bool := !c.stopped && (decide (c.st = .run) || decide (c.st = .ss1))

/-- The outputs of both channels follow their states: A_REQ, B_REQ, the STO pins, the net (a branch is asserted at once;
its release is STO_BRANCH_RELEASE). -/
def State.driveSto (s : State) : State :=
  let a := (s.chan 0).permits
  let b := (s.chan 1).permits
  let s := (s.setB SFN.SFSTAT_A_REQ (!a)).setB SFN.SFSTAT_B_REQ (!b)
  let s := (s.setB SFN.SFSTAT_STO_A a).setB SFN.SFSTAT_STO_B b
  if a && b then s
  else foldOver (List.range 4) (fun d t => if t.stoBranch d then t else t.branchAssert d) s

/-- A mask over four axes. -/
def axisMask (f : Nat → Bool) : Nat := (List.range 4).foldl (fun m k => if f k then m + 2 ^ k else m) 0

/-- The function states of a channel as it sees them: bits 19:0 of S_STATE (R388). -/
def State.chanWord (s : State) (ch : Nat) : Nat :=
  let c := s.chan ch
  (if c.st = .sto ∨ c.st = .locked ∨ c.stopped then 1 else 0) + (if c.st = .ss1 then 2 else 0) + (if c.degAxis.isSome then 4 else 0)
  + (if c.st = .locked then 8 else 0)
  + 2 ^ 4 * axisMask (fun k => s.axEn k && s.slsOn ch k)
  + 2 ^ 8 * axisMask (fun k => s.axEn k && (s.sdipOn ch k || s.sdinOn ch k))
  + 2 ^ 12 * axisMask (fun k => s.axEn k && s.slpOn ch k)
  + 2 ^ 16 * axisMask (fun k => (s.mon ch k).viol)

/-- S_STATE: a function state that stands in either channel shows (assumption 76), the rest from what it shows. -/
def State.refreshSState (s : State) : State :=
  let word := s.chanWord 0 ||| s.chanWord 1
  let s := s.setReg SFN.S_STATE ((s.reg SFN.S_STATE &&& 0xFFF00000) ||| BitVec.ofNat 32 word)
  let s := s.setB SFN.S_STATE_CONN_LOST ((List.range 48).any (fun c => (vget s.safety.conns c).timedOut))
  let s := s.setB SFN.S_STATE_SESSION s.safety.session.isSome
  let s := s.setB SFN.S_STATE_TOS_PEND ((List.range 8).any (fun n => decide (s.dnat (DP.SI_TOS n) = 1) && !(s.safeInput 1 n).tosDone))
  s.setB SFN.S_STATE_FAULT (s.flag (REGCTL.PAR_STAT_CFG_PARITY .s) || s.flag SFN.SFSTAT_A_FAIL || s.flag SFN.SFSTAT_B_FAIL
    || s.safety.refLost || s.safety.nSilent || decide (s.get SIO.SOSTAT_SO_FLT ≠ 0))

/-- A safety fault is recorded (R450, R568 code 0x0005). -/
def State.safetyFault (s : State) : State :=
  let s := s.countEvent .safety
  let s := { s with sys := { s.sys with safetyFault := true } }
  (s.enterFault 5 Die.s.code 0xFF (s.reg SFN.SFSTAT).toNat 0).burstRequest 2

/-- A channel goes to a state of removed energy: LOCKED where degraded operation ends (R409). -/
def State.chanSto (s : State) (ch : Nat) : State :=
  let c := s.chan ch
  if c.st = .run ∨ c.st = .ss1 then
    let s := if ch = 1 then s.incSat SFN.SFCNT_STO_CNT else s
    let s := if c.thenLock && decide (s.get SFN.SFSTAT_LOCK_CAUSE = 0) then s.set SFN.SFSTAT_LOCK_CAUSE 5 else s
    s.modChan ch (fun c => { c with st := if c.thenLock then .locked else .sto, thenLock := false })
  else s

/-- SS1_ENTRY (R399, R400): from RUN only; v0 of each source is recorded. -/
def State.chanSs1 (s : State) (ch : Nat) : State :=
  if (s.chan ch).st = .run then
    let s := if ch = 1 then s.incSat SFN.SFCNT_SS1_CNT else s
    let s := s.set SFN.SFREM_SS1_REM (min 65535 (s.dnat DP.SAF_SS1_TMAX / 10))
    s.modChan ch (fun c => { c with
      st := .ss1, t := 0
      axes := Vector.ofFn (fun k => { vget c.axes k with v0 := ⟨s.srcV ch k false, s.srcV ch k true⟩ }) })
  else s

/-- LOCKED (R388, R409, R420): both channels; the first cause stays. -/
def State.lock (s : State) (cause : Nat) : State :=
  let s := if s.get SFN.SFSTAT_LOCK_CAUSE = 0 then s.set SFN.SFSTAT_LOCK_CAUSE cause else s
  (((s.modChan 0 (fun c => { c with st := .locked })).modChan 1 (fun c => { c with st := .locked })).driveSto).refreshSState

/-- Has a safety comparator with one of the REACT values `p` left its window in a channel (R418)? -/
def State.scmpActs (s : State) (ch : Nat) (p : Nat → Bool) : Bool :=
  let c := s.chan ch
  (List.range 8).any (fun n => c.scmpWin.testBit n && c.scmpOut.testBit n && decide (s.dnat (DP.SCMP_EN n) = 1) && p (s.dnat (DP.SCMP_REACT n) % 4))

/-- Does a request of R391 hold that is not a limit violation of this channel? -/
def State.stoRequested (s : State) (ch : Nat) : Bool :=
  s.inputLow ch 1 (fun _ => true) || !s.wordBit 0 || s.flag MBX.MBXREQ_STO_REQ
  || (List.range 48).any (fun c => (vget s.safety.conns c).timedOut && decide (s.dnat (DP.CONN_REACT c) % 4 ≠ 1) && decide (s.dnat (DP.CONN_REACT c) % 4 ≠ 2))
  || s.scmpActs ch (fun r => decide (r % 2 = 1))
  || s.safety.refLost || s.flag (REGCTL.PAR_STAT_CFG_PARITY .s) || s.flag SFN.SFSTAT_A_FAIL || s.flag SFN.SFSTAT_B_FAIL
  || (List.range 4).any (fun n => s.bit SIO.SOSTAT_SO_FLT n && decide (s.dnat (DP.SO_SRC n) = 1))
  || decide (s.get START.STSTAT_KIND = 2)

/-- Does an SS1 cause of R399 hold that is a level? -/
def State.ss1Requested (s : State) (ch : Nat) : Bool :=
  s.inputLow ch 2 (fun _ => true) || !s.wordBit 1 || s.flag MBX.MBXREQ_SS1_REQ || s.flag ARB.ARBSTAT_SS1_REQ
  || s.scmpActs ch (fun r => decide (r = 2))

/-- Standstill of an axis, at the level of R401: every valid source shows it; an axis without one does not (R398). -/
def State.standstill (s : State) (ch k : Nat) : Bool :=
  !(s.sources ch k).isEmpty && (s.sources ch k).all (fun w => decide ((s.srcV ch k w).natAbs ≤ s.dnat DP.SAF_SST_V))

/-- The condition of SOn as a channel sees it (the SRC table). -/
def State.soWanted (s : State) (ch n : Nat) : Bool :=
  let ax := s.dnat (DP.SO_AX n)
  let quiet := !(s.mon ch ax).viol
  if s.bit SIO.SOSTAT_SO_FLT n then false
  else match s.dnat (DP.SO_SRC n) with
    | 1 => (s.chan ch).permits
    | 2 => decide ((s.chan ch).st ≠ .ss1)
    | 3 => s.slsOn ch ax && quiet
    | 4 => s.standstill ch ax
    | 5 => (s.sdipOn ch ax || s.sdinOn ch ax) && quiet
    | 6 => s.slpOn ch ax && (s.mon ch ax).ref && quiet
    | 7 => (s.chan ch).degAxis.isNone
    | 8 => s.wordBit (18 + n)
    | _ => false

/-- A channel commands its half of the safe outputs (R416); SO_CMD shows what both command (assumption 76). -/
def State.driveSo (s : State) (ch : Nat) : State :=
  let m := axisMask (fun n => s.soWanted ch n)
  (s.modChan ch (fun c => { c with so := m })).set SIO.SOSTAT_SO_CMD (m &&& (s.chan (1 - ch)).so)

/-- The release of R392: the conditions in a channel. -/
def State.mayRelease (s : State) (ch : Nat) : Bool :=
  let c := s.chan ch
  !c.stopped && decide (c.st = .sto) && !s.stoRequested ch && (s.violations ch).all (fun v => s.reactsSs1 v.1 v.2)
  && !decide ((s.chan (1 - ch)).st = .ss1) && !decide ((s.chan (1 - ch)).st = .locked)
  && (List.range 8).all (fun n => decide (s.dnat (DP.SI_TOS n) ≠ 1) || (s.safeInput ch n).tosDone)
  && (s.flag SFN.SFSTAT_GT_DONE || s.flag START.STSTAT_GT_SKIPPED)

/-- An acknowledgement that a channel has not taken is discarded where the conditions do not hold (R393). -/
def State.dropAck (s : State) (ch : Nat) : State :=
  if s.mayRelease ch then s
  else s.modChan ch (fun c => { c with resetEdge := false, inputs := c.inputs.map (fun x => { x with pulse := 0 }) })

/-- One evaluation of a channel, `dt` 250 us units after the last (R386, R391, R399-R407): STO prevails over SS1. -/
def State.evaluate (s : State) (ch dt : Nat) : State :=
  if (s.chan ch).stopped then s
  else
    let s := s.modChan ch (fun c => { c with t := c.t + dt })
    let s := foldOver (List.range 4) (fun k t => t.trackAxis ch k dt) s
    let vs := s.violations ch
    let s := vs.reverse.foldl (fun t v => t.markViolation ch v.1 v.2) s
    let inSs1 := decide ((s.chan ch).st = .ss1)
    let broken := if inSs1 then (List.range 4).filter (fun k => s.envelopeBroken ch k) else []
    let s := broken.foldl (fun t k => t.markViolation ch k 4) s
    let s :=
      if s.stoRequested ch || vs.any (fun v => !s.reactsSs1 v.1 v.2) || !broken.isEmpty then s.chanSto ch
      else if s.ss1Requested ch || !vs.isEmpty then s.chanSs1 ch
      else s
    ((((s.dropAck ch).driveSto).driveSo ch).refreshSState).showAxes

/-- Both channels evaluate at once: what a step does that is itself a request. -/
def State.evaluateBoth (s : State) : State := (s.evaluate 0 0).evaluate 1 0

/-- A channel releases (R392): its violations and their causes clear (R407); for the halt guard the release counts on the branches of dies whose
clock runs and whose halt has ended (R423). -/
def State.release (s : State) (ch : Nat) : State :=
  let s := s.modChan ch (fun c => { c with st := .run, axes := c.axes.map (fun m => { m with viol := false, vcause := 0 }) })
  foldOver (List.range 4) (fun d t =>
    if t.bit HGRD.HGSTAT_ASSERT d && !t.bit HGRD.HGSTAT_HALT d && !t.bit HGRD.HGSTAT_CLK_LOST d
    then t.modDrive d (fun x => { x with released := x.released ||| 2 ^ ch }) else t) s

/-- A restart acknowledgement in the channels `chs` (R393): each whose conditions hold releases STO; elsewhere it is discarded. -/
def State.acknowledge (s : State) (chs : List Nat) : State :=
  let ok := chs.filter (fun ch => s.mayRelease ch)
  if ok.isEmpty then s
  else
    let s := (foldOver ok (fun ch t => t.release ch) s).setB ARB.ARBSTAT_SS1_REQ false
    ((((s.driveSto).driveSo 0).driveSo 1).refreshSState).showAxes

/-- RESTART_ACK (R393): a restart input has held 1 for 100 ms to 3 s (in samples of 50 us) and fallen, or RESET of the command word has risen;
each channel takes either once. -/
def execRestartAck (src : AckSource) (s : State) : Out := s.whileRuns <|
  .next (match src with
    | .input n =>
      let good (ch : Nat) : Bool := decide (2000 ≤ (s.safeInput ch n).pulse) && decide ((s.safeInput ch n).pulse ≤ 60000)
      let chs := [0, 1].filter good
      let s := foldOver [0, 1] (fun ch t => t.modInput ch n (fun y => { y with pulse := 0 })) s
      if s.dnat (DP.SI_FUNC n) = 8 then s.acknowledge chs else s
    | .control =>
      let chs := [0, 1].filter (fun ch => (s.chan ch).resetEdge)
      (foldOver [0, 1] (fun ch t => t.modChan ch (fun c => { c with resetEdge := false })) s).acknowledge chs)

/-! ### Degraded mode (R408-R410) -/

/-- Has a channel a single-channel discrepancy on an axis: a configured source has failed while the other is valid, or a discrepancy is
declared? -/
def State.singleDisc (s : State) (ch k : Nat) : Bool :=
  let pi := (vget s.safety.axes k).piFail && decide (s.dnat (DP.AX_PI k) < 8)
  let ws := (s.mon ch k).wsFail && decide (s.dnat (DP.AX_WS k) < 2)
  s.axEn k && ((s.mon ch k).discV || (s.mon ch k).discP || (pi && s.srcOk ch k true) || (ws && s.srcOk ch k false))

/-- Have both configured sources failed? -/
def State.bothLost (s : State) (ch k : Nat) : Bool :=
  s.axEn k && (vget s.safety.axes k).piFail && (s.mon ch k).wsFail && decide (s.dnat (DP.AX_PI k) < 8) && decide (s.dnat (DP.AX_WS k) < 2)

/-- SS1 starts at once and LOCKED follows its completion (R409). -/
def State.degEnd (s : State) : State :=
  if (s.chan 0).thenLock then s
  else
    let s := (s.modChan 0 (fun c => { c with thenLock := true })).modChan 1 (fun c => { c with thenLock := true })
    ((s.chanSs1 0).chanSs1 1).refreshSState

/-- Both channels set DEG and start DEG_T (R408). -/
def State.degEntry (s : State) (axis : Option Nat) : State :=
  let s := (s.incSat SFN.SFCNT_DEG_CNT).set SFN.SFREM_DEG_REM (s.dnat DP.SAF_DEG_T)
  foldOver [0, 1] (fun ch t => t.modChan ch (fun c => { c with degAxis := axis, degT := 0 })) s

/-- DEG_ENTRY and the ends of R409 as a channel judges them at its cycle, in RUN or SS1. -/
def State.degCheck (s : State) (ch : Nat) : State :=
  let c := s.chan ch
  let bad := (List.range 4).filter (fun k => s.singleDisc ch k || s.bothLost ch k)
  if c.st ≠ .run ∧ c.st ≠ .ss1 then s
  else match c.degAxis with
    | some k => if c.degOver || bad.any (fun j => decide (j ≠ k)) || s.bothLost ch k then s.degEnd else s
    | none =>
      if bad.isEmpty then s
      else if s.dnat DP.SAF_DEG_T = 0 then s.degEnd
      else if c.st ≠ .run then s
      else
        let s := s.degEntry bad.head?
        if 2 ≤ bad.length ∨ bad.any (fun k => s.bothLost ch k) then s.degEnd else s

/-- DEG_TIMEOUT (R409): a channel's timer of DEG has reached DEG_T; out of RUN and SS1 that shows when the device runs again. -/
def execDegTimeout (s : State) : Out := s.whileRuns <|
  .next (
    let due := [0, 1].filter (fun ch => (s.chan ch).degAxis.isSome && decide (4000 * s.dnat DP.SAF_DEG_T ≤ (s.chan ch).degT))
    if due.isEmpty then s
    else
      let s := foldOver due (fun ch t => t.modChan ch (fun c => { c with degOver := true })) (s.set SFN.SFREM_DEG_REM 0)
      if due.any (fun ch => decide ((s.chan ch).st = .run) || decide ((s.chan ch).st = .ss1)) then s.degEnd else s)

/-! ### Cycles (R386-R388) -/

/-- COPY_MISMATCH (R387, R420): the channel stops, its pin low; the device is locked. -/
def State.copyMismatch (s : State) (ch : Nat) : State :=
  let s := s.setB (if ch = 0 then SFN.SFSTAT_A_FAIL else SFN.SFSTAT_B_FAIL) true
  let s := s.modChan ch (fun c => { c with stopped := true, st := .locked })
  let s := if s.get SFN.SFSTAT_LOCK_CAUSE = 0 then s.set SFN.SFSTAT_LOCK_CAUSE 4 else s
  ((s.driveSto.driveSo ch).refreshSState).safetyFault

/-- The remaining times that SFREM shows, of channel B. -/
def State.refreshRemaining (s : State) : State :=
  let c := s.chan 1
  let s := if c.st = .ss1 then s.set SFN.SFREM_SS1_REM (min 65535 ((s.dnat DP.SAF_SS1_TMAX - c.t / 4) / 10)) else s.set SFN.SFREM_SS1_REM 0
  if c.degAxis.isSome && !c.degOver then s.set SFN.SFREM_DEG_REM (s.dnat DP.SAF_DEG_T - c.degT / 4000) else s

/-- The positions have drifted apart by more than DISC_P in a channel (R397). -/
def State.checkDrift (s : State) (ch : Nat) : State :=
  foldOver (List.range 4) (fun k t =>
    if t.axEn k && t.srcOk ch k false && t.srcOk ch k true
      && decide (t.dnat (DP.AX_DISC_P k) < (toSigned 32 (ofSigned 32 (t.srcP ch k false - t.srcP ch k true))).natAbs)
    then t.modMon ch k (fun m => { m with discP := true }) else t) s

/-- Both positions of an axis are set to SLP_HOME in a channel (R405); what SDI refers to moves with them, since the axis has not. -/
def State.reference (s : State) (ch k : Nat) : State :=
  let home := s.dint (DP.AX_SLP_HOME k)
  let dp := home - s.srcP ch k false
  let dw := home - s.srcP ch k true
  let move (r : Option DirRef) : Option DirRef := r.map (fun x => ⟨x.pi + dp, x.ws + dw⟩)
  s.modMon ch k (fun m => { m with
    ref := true, ofsPi := m.ofsPi + dp, ofsWs := m.ofsWs + dw, dirP := move m.dirP, dirN := move m.dirN, dirB := move m.dirB })

/-- AXIS_REFERENCED (R405): a referencing input has changed from 0 to 1 since the channel's last cycle; before the filters have seen the pins for
their time it has no value to change from (DEDUCED, assumption 76). -/
def State.referencing (s : State) (ch : Nat) : State :=
  let rose := (List.range 8).filter (fun n => decide (s.dnat (DP.SI_FUNC n) = 7) && (s.safeInput ch n).value && decide ((s.safeInput ch n).was = some false))
  let seen (n : Nat) : Bool := decide (20 * max 1 (s.dnat (DP.SI_FILT n)) ≤ s.safety.samples)
  let s := s.modChan ch (fun c => { c with inputs := Vector.ofFn (fun n =>
    { vget c.inputs n with was := if seen n then some (vget c.inputs n).value else none }) })
  foldOver ((List.range 4).filter (fun k => rose.any (fun n => s.inputAxis n k))) (fun k t => t.reference ch k) s

/-- A cycle of a channel, `dt` 250 us units (R386): its wheel counts' history, DEG's time, referencing, the discrepancies, the functions. -/
def State.cycle (s : State) (ch dt : Nat) : State :=
  let s := s.modChan ch (fun c => { c with
    degT := if c.degAxis.isSome then c.degT + dt else c.degT
    wheels := c.wheels.map (fun w => { w with hist := (w.total :: w.hist).take 257 }) })
  (((s.referencing ch).checkDrift ch).degCheck ch).evaluate ch dt

/-- SAFETY_CYCLE_A (R386): 1 ms; `bad`: a variable's copies differ (R387); the channels exchange their states (R388). -/
def execSafetyCycleA (bad : Bool) (s : State) : Out := s.whileRuns <|
  .next <|
    let differ := decide (s.chanWord 0 ≠ s.chanWord 1)
    let s := s.modSafety (fun x => { x with diff := if differ then x.diff + 1 else 0 })
    let s := foldOver (List.range 48) (fun c t =>
        if t.dnat (DP.CONN_EN c) = 1 ∧ t.dnat (DP.CONN_DIR c) = 0 then t.incSat (SCONN.SCAGE_SINCE c) else t) s
    if (s.chan 0).stopped then s
    else if bad then s.copyMismatch 0
    else s.cycle 0 4

/-- The time that channel B's cycle carries beside its functions: the hold-off (R376), the halt guard's elapsed times. -/
def State.passCycle (s : State) : State :=
  let s := s.modSafety (fun x => { x with cycles := x.cycles + 1 })
  let s := if s.safety.cycles % 4 = 0 ∧ 0 < s.get ARB.HOLD_REM_HOLD_REM then s.set ARB.HOLD_REM_HOLD_REM (s.get ARB.HOLD_REM_HOLD_REM - 1) else s
  foldOver (List.range 4) (fun d t => if t.bit HGRD.HGSTAT_TIMING d then t.addSat (HGRD.ELAPSED_ELAPSEDd d) 250 else t) s

/-- SAFETY_CYCLE_B (R386): 250 us. -/
def execSafetyCycleB (bad : Bool) (s : State) : Out := s.whileRuns <|
  .next <|
    let s := s.passCycle
    if (s.chan 1).stopped then s
    else if bad then s.copyMismatch 1
    else (s.cycle 1 1).refreshRemaining

/-- XDISC (R388): the channels' states have differed over 16 ms of channel A's cycles. -/
def execXdisc (s : State) : Out := s.whileRuns <|
  .next (if 16 < s.safety.diff then ((s.setB SFN.SFSTAT_XDISC true).lock 1).safetyFault else s)

/-- The end of SS1 in the channels `chs`, in STO, or in LOCKED after R409. -/
def State.ss1Complete (s : State) (chs : List Nat) : State :=
  let chs := chs.filter (fun ch => decide ((s.chan ch).st = .ss1))
  if chs.isEmpty then s
  else
    let lockNow := chs.any (fun ch => (s.chan ch).thenLock)
    let s := foldOver chs (fun ch t => t.chanSto ch) s
    let s := if lockNow then s.lock 5 else s
    ((((s.set SFN.SFREM_SS1_REM 0).driveSto).driveSo 0).driveSo 1).refreshSState

/-- SS1_STANDSTILL (R401): every enabled axis has stood still for SST_T; one without a valid source is monitored by SS1_TMAX alone. -/
def execSs1Standstill (s : State) : Out := s.whileRuns <|
  .next (s.ss1Complete ([0, 1].filter (fun ch => (List.range 4).all (fun k => !s.axEn k || s.standstill ch k))))

/-- SS1_TMAX_EXPIRE (R401): SS1_TMAX has elapsed since a channel entered SS1. -/
def execSs1TmaxExpire (s : State) : Out := s.whileRuns <|
  .next (s.ss1Complete ([0, 1].filter (fun ch => decide (4 * s.dnat DP.SAF_SS1_TMAX ≤ (s.chan ch).t))))

/-- DISC_V_TIMEOUT (R397): the speeds of axis `k` have differed by more than DISC_V for DISC_T. -/
def execDiscVTimeout (k : Fin 4) (s : State) : Out := s.whileRuns <|
  let far (ch : Nat) : Bool :=
    s.axEn k && s.srcOk ch k false && s.srcOk ch k true && decide (s.dnat (DP.AX_DISC_V k) < (s.srcV ch k false - s.srcV ch k true).natAbs)
  .next ((foldOver ([0, 1].filter far) (fun ch t => t.modMon ch k (fun m => { m with discV := true })) s).showAxes)

/-! ### Inputs (R395, R411-R415) -/

/-- One pin through its filter of `n` samples. -/
def filterPin (acc : Bool) (cnt n : Nat) (pin : Bool) : Bool × Nat :=
  if pin = acc then (acc, 0) else if n ≤ cnt + 1 then (pin, 0) else (acc, cnt + 1)

/-- The value of a pair of pins by TYPE: some when valid (R411). -/
def pairValue (anti a b : Bool) : Option Bool :=
  if anti then (if a && !b then some true else if !a && b then some false else none)
  else if a && b then some true else if !a && !b then some false else none

/-- The registers of safe input `n` show what channel B holds. -/
def State.showInput (s : State) (n : Nat) : State :=
  let x := s.safeInput 1 n
  let s := ((s.setBit SIO.SISTAT_SI_VAL n x.value).setBit SFN.S_STATE_SI_VAL n x.value).setBit SIO.SISTAT_SI_DISC n x.disc
  (s.setBit SIO.SISTAT_SI_TPF n x.tpf).setBit SIO.SISTAT_TOS_DONE n x.tosDone

/-- An input held at 0 by SI_DISC or SI_TPF (R412). -/
def SafeInput.hold (x : SafeInput) : SafeInput := { x with value := false, heldZero := true, seenZero := false }

/-- Is a pin of a tested input fed from the test-pulse output whose pulse runs (R414)? -/
def State.fedLow (s : State) (n src : Nat) : Bool :=
  decide (s.dnat (DP.SI_TP_EN n) = 1) && decide (s.safety.tpLeft ≠ 0) && decide (src % 4 = s.safety.tpNow)

/-- One sample of input `n` in a channel (R411, R412, R414, R415): a pin's filter disregards the pulse of its own source; a filtered pin that goes
low while the other stays high sets SI_TPF (DEDUCED, assumption 76); the 0 of the test on start counts once the filters have seen the pins for
their time; a pulse of 1 that ends is measured, and may acknowledge where the conditions of the release hold (R393). -/
def State.sampleInput (s : State) (ch n : Nat) (pa pb : Bool) : State :=
  let x := s.safeInput ch n
  let filt := 20 * max 1 (s.dnat (DP.SI_FILT n))
  let a := if s.fedLow n (s.dnat (DP.SI_TPA n)) then (x.a, x.cntA) else filterPin x.a x.cntA filt pa
  let b := if s.fedLow n (s.dnat (DP.SI_TPB n)) then (x.b, x.cntB) else filterPin x.b x.cntB filt pb
  let v := pairValue (decide (s.dnat (DP.SI_TYPE n) = 1)) a.1 b.1
  let fell := decide (s.dnat (DP.SI_TP_EN n) = 1) && ((x.a && !a.1 && x.b && b.1) || (x.b && !b.1 && x.a && a.1))
  let seenZero := x.seenZero || (x.heldZero && decide (v = some false))
  let free := x.heldZero && x.seenZero && decide (v = some true)
  let held := x.heldZero && !free
  let value := decide (v = some true) && !held
  let tosZero := x.tosZero || (!value && decide (filt ≤ s.safety.samples))
  let done := x.tosDone || (tosZero && value && decide (s.dnat (DP.SI_TOS n) = 1))
  let pulse := if value then 0 else if x.value then (if s.mayRelease ch then x.high else 0) else x.pulse
  s.modInput ch n (fun _ =>
    let y := { x with
      a := a.1, cntA := a.2, b := b.1, cntB := b.2, value := value, heldZero := held, seenZero := if free then false else seenZero
      disc := x.disc && !free, tpf := x.tpf && !free, tosZero := tosZero, tosDone := done
      high := if value then x.high + 1 else 0, pulse := pulse }
    if fell then { y.hold with tpf := true } else y)

/-- One sample of wheel-speed input `n` in a channel (R395, R396): one track changed counts by the quadrature direction (A leading B
counts up), both changed are a quadrature error; three within 100 ms (2,000 samples) fail the source. -/
def State.sampleWheel (s : State) (ch n : Nat) (pa pb : Bool) : State :=
  let x := s.wheel ch n
  let ca := decide (pa ≠ x.a)
  let cb := decide (pb ≠ x.b)
  let now := s.safety.samples
  let put (y : WheelInput) : State := s.modChan ch (fun c => { c with wheels := vset c.wheels n y })
  if ca && cb then
    let errs := (now :: x.errs).filter (fun t => decide (now < t + 2000))
    let s := put { x with a := pa, b := pb, errs := errs }
    if 3 ≤ errs.length then s.failWs ch n else s
  else if ca || cb then
    let up := if ca then decide (pa ≠ pb) else decide (pa = pb)
    let total := if up then x.total + 1 else x.total - 1
    let s := put { x with a := pa, b := pb, total := total }
    if ch = 1 then s.setReg (if n = 0 then SIO.WS0 else SIO.WS1) (BitVec.ofInt 32 total) else s
  else s

/-- Is a voltage at SAINn, as a 10-bit code, outside the window of SCMPn (R418)? -/
def State.scmpOutside (s : State) (n code : Nat) : Bool :=
  let lo := s.dnat (DP.SCMP_LO n)
  let hi := s.dnat (DP.SCMP_HI n)
  decide (hi ≤ lo) || decide (code < lo) || decide (hi < code)

/-- The input stage of a channel samples the balls (R386). -/
def State.samplePins (s : State) (ch : Nat) (p : SafetyPins) : State :=
  let s := foldOver (List.range 8) (fun n t => t.sampleInput ch n (p.si.getLsbD n) (p.si.getLsbD (8 + n))) s
  let s := (s.sampleWheel ch 0 (p.ws.getLsbD 0) (p.ws.getLsbD 1)).sampleWheel ch 1 (p.ws.getLsbD 2) (p.ws.getLsbD 3)
  let out := (List.range 8).foldl (fun m n => if s.scmpOutside n (vget p.scmp n).toNat then m + 2 ^ n else m) 0
  s.modChan ch (fun c => { c with scmpOut := out })

/-- SAFETY_INPUT_SAMPLE (R386): every 50 us each channel samples by its own input stage, `p` what it finds at the balls; the registers, in the
domain of channel B, show what B finds. -/
def execSafetyInputSample (p : Vector SafetyPins 2) (s : State) : Out := s.whileRuns <|
  .next <|
    let s := s.modSafety (fun x => { x with samples := x.samples + 1, tpLeft := x.tpLeft - 1, soLeft := x.soLeft.map (fun n => n - 1) })
    let s := if s.safety.tpLeft = 0 then s.set SIO.SOSTAT_TP_LVL 15 else s
    let s := (s.samplePins 0 (vget p 0)).samplePins 1 (vget p 1)
    let b := vget p 1
    let s := foldOver (List.range 8) (fun n t => t.showInput n) (s.set SIO.SCMP_SCMP_OUT (s.chan 1).scmpOut)
    let s := (s.set SIO.SOSTAT_SOA b.so.toNat).set SIO.SOSTAT_SOB (b.so.toNat / 16)
    let s := (s.setB SFN.SFSTAT_STO_A (b.sto.getLsbD 0)).setB SFN.SFSTAT_STO_B (b.sto.getLsbD 1)
    s.refreshSState

/-- SI_DISC (R411): an invalid combination has lasted DT x 10 ms. -/
def execSiDisc (n : Fin 8) (s : State) : Out := s.whileRuns <|
  let bad (ch : Nat) : Bool := (pairValue (decide (s.dnat (DP.SI_TYPE n) = 1)) (s.safeInput ch n).a (s.safeInput ch n).b).isNone
  .next ((foldOver ([0, 1].filter bad) (fun ch t => t.modInput ch n (fun x => { x.hold with disc := true })) s).showInput n)

/-- TEST_PULSE (R413, R414): TP`tp` gives its low pulse of TP_W; `pins` are the levels of SI0A-SI7A and SI0B-SI7B meanwhile.  A pin
fed by it that is not low, or a pin fed by another that goes low while its partner stays high, sets SI_TPF. -/
def execTestPulse (tp : Fin 4) (pins : BitVec 16) (s : State) : Out := s.whileRuns <|
  .next <|
    if !(List.range 8).any (fun n => decide (s.dnat (DP.SI_TP_EN n) = 1)) then s
    else
      let bad (ch n : Nat) : Bool :=
        let x := s.safeInput ch n
        let a := pins.getLsbD n
        let b := pins.getLsbD (8 + n)
        let fa := decide (s.dnat (DP.SI_TPA n) % 4 = (tp : Nat))
        let fb := decide (s.dnat (DP.SI_TPB n) % 4 = (tp : Nat))
        decide (s.dnat (DP.SI_TP_EN n) = 1) && ((fa && a) || (fb && b) || (!fa && x.a && !a && b) || (!fb && x.b && !b && a))
      let s := foldOver [0, 1] (fun ch t => foldOver ((List.range 8).filter (bad ch)) (fun n u => u.modInput ch n (fun x => { x.hold with tpf := true })) t) s
      let s := s.modSafety (fun x => { x with tpNow := tp, tpLeft := (s.dnat DP.SAF_TP_W + 49) / 50 })
      let s := foldOver (List.range 8) (fun n t => t.showInput n) (s.set SIO.SOSTAT_TP_LVL (15 - 2 ^ (tp : Nat)))
      s.send ⟨.testPulse, Die.s.code, [tp]⟩

/-! ### Safe outputs, comparators, guard test -/

/-- SO_TEST_PULSE (R416): a half of SOn (`b`: SOnB) is driven low for 500 us (10 samples), unless the other half's pulse runs. -/
def execSoTestPulse (n : Fin 4) (b : Bool) (s : State) : Out := s.whileRuns <|
  let half := (n : Nat) + (if b then 4 else 0)
  let other := (n : Nat) + (if b then 0 else 4)
  .next (if s.dnat (DP.SO_TEST n) = 1 ∧ vget s.safety.soLeft other = 0
    then (s.modSafety (fun x => { x with soLeft := vset x.soLeft half 10 })).send ⟨.testPulse, Die.s.code, [4 + half]⟩ else s)

/-- Does a half of SOn (0 A, 1 B) read back differently from its command, outside its test pulse (R417)? -/
def State.soDiffers (s : State) (n half : Nat) : Bool :=
  decide (vget s.safety.soLeft (n + 4 * half) = 0)
  && (s.bit (if half = 0 then SIO.SOSTAT_SOA else SIO.SOSTAT_SOB) n != (s.chan half).so.testBit n)

/-- SO_FLT (R417): a half of SOn has read back wrongly for more than 1 ms. -/
def execSoFlt (n : Fin 4) (s : State) : Out := s.whileRuns <|
  .next (if s.soDiffers n 0 || s.soDiffers n 1 then
      let s := (s.setBit SIO.SOSTAT_SO_FLT n true).safetyFault
      ((s.evaluateBoth.driveSo 0).driveSo 1).refreshSState
    else s)

/-- SCMP_WINDOW_VIOLATION (R418): the input of SCMPn has lain outside its window for FILT. -/
def execScmpWindowViolation (n : Fin 8) (s : State) : Out := s.whileRuns <|
  .next <|
    let chs := [0, 1].filter (fun ch => (s.chan ch).scmpOut.testBit n)
    if s.dnat (DP.SCMP_EN n) ≠ 1 ∨ chs.isEmpty then s
    else
      let s := foldOver chs (fun ch t => t.modChan ch (fun c => { c with scmpWin := c.scmpWin ||| 2 ^ (n : Nat) })) (s.setBit SIO.SCMP_SCMP_WIN n true)
      match s.dnat (DP.SCMP_REACT n) % 4 with
      | 0 => s
      | 2 => ((foldOver chs (fun ch t => t.chanSs1 ch) s).driveSto).refreshSState
      | _ => s.evaluateBoth

/-- GT_DUE (R422): 720 h of powered operation since the last passed guard test. -/
def execGtDue (s : State) : Out := s.whileRuns <| .next (if 2592000 ≤ s.sys.gtSecs then s.setB SFN.SFSTAT_GT_DUE true else s)

/-- The guard test (R424): each branch is asserted in turn; `ack` holds the acknowledges.  A die that does not acknowledge
is retired, its branch stays asserted; a test that did not pass locks S and records a safety fault (section "Boot
attempts and recovery"). -/
def State.guardTest (s : State) (ack : BitVec 4) : State :=
  let service := (List.range 4).filter (fun d => !(vget s.drives d).retired)
  let bad := service.filter (fun d => !ack.getLsbD d)
  let s := foldOver service (fun d t => t.branchAssert d) s
  let s := service.foldl (fun t d => t.setBit HGRD.HGSTAT_ACK d (ack.getLsbD d)) s
  let s := bad.foldl (fun t d => ((t.setBit HGRD.HGSTAT_GT_FAIL d true).setBit HGRD.HGSTAT_ASSERT d true).setBit SFN.SFSTAT_HG d true) s
  let s := bad.foldl (fun t d => t.retireDie d) s
  if bad.isEmpty then
    let s := (s.setB SFN.SFSTAT_GT_DONE true).setB SFN.SFSTAT_GT_DUE false
    ({ s with sys := { s.sys with safetyFault := false, gtSecs := 0 } }).burstRequest 2
  else (s.lock 0).safetyFault

/-! ### Position records (R394, R396) -/

/-- PI_RECORD_SEND (R394): a record for each enabled interface of the die. -/
def execPiRecordSend (d : Fin 4) (s : State) : Out := s.whileRuns <|
  .next <|
    foldOver [0, 1] (fun p t =>
      if t.flag (PI.PICFG_EN d p) then
        let q := 2 * (d : Nat) + p
        let seq := vget t.safety.recSeq q
        let t := t.modSafety (fun x => { x with recSeq := vset x.recSeq q ((seq + 1) % 256) })
        let b := [t.get (PI.PIANG_ANGLE d p) % 256, t.get (PI.PIANG_ANGLE d p) / 256, if t.flag (PI.PISTAT_LOS d p) then 1 else 0, seq]
        t.send ⟨.piRecord, (Die.drive d).code, q :: b ++ [crc32c b]⟩
      else t) s

/-- PI_RECORD_RECEIVED (R394, R396): the record of PI`p`, with whether its CRC matches; one that fails
its CRC counts as the next in the sequence (DEDUCED, assumption 70). -/
def execPiRecordReceived (p : Fin 8) (angle : BitVec 16) (los : Bool) (seq : BitVec 8) (crcOk : Bool) (s : State) : Out := s.whileRuns <|
  .next <|
    let inSeq := match vget s.safety.lastSeq p with | some l => decide ((l + 1) % 256 = seq.toNat) | none => true
    let next := if crcOk then seq.toNat else match vget s.safety.lastSeq p with | some l => (l + 1) % 256 | none => seq.toNat
    let s := s.modSafety (fun x => { x with lastSeq := vset x.lastSeq p (some next) })
    foldOver (List.range 4) (fun k t =>
      if t.dnat (DP.AX_PI k) ≠ (p : Nat) then t
      else if !crcOk || !inSeq then
        let n := (vget t.safety.axes k).bad + 1
        let t := t.modAxis k (fun a => { a with bad := n })
        if 3 ≤ n then t.failPi p else t
      else if los then t.failPi p
      else
        let a := vget t.safety.axes k
        let rev := match a.angle with
          | some l => a.rev + toSigned 16 (ofSigned 16 ((angle.toNat : Int) - l))
          | none => a.rev
        let t := t.modAxis k (fun a => { a with angle := some angle.toNat, rev := rev, hist := (rev :: a.hist).take 5, bad := 0 })
        (t.setB (SFN.AXSTAT_PI_OK k) (!a.piFail)).showAxis k) s

/-- PI_RECORD_TIMEOUT (R396). -/
def execPiRecordTimeout (p : Fin 8) (s : State) : Out := s.whileRuns <| .next (s.failPi p)

/-- N_LINK_SILENT (R420): a fault of S that the keeper records (R450); the PI sources are invalid. -/
def execNLinkSilent (s : State) : Out := s.whileRuns <|
  .next (((s.failAllPi).modSafety (fun x => { x with nSilent := true })).refreshSState).safetyFault

/-- N is heard again on the N–S link (assumption 70). -/
def State.nHeard (s : State) : State :=
  if s.safety.nSilent then (s.modSafety (fun x => { x with nSilent := false })).refreshSState else s

/-! ### Passwords (R425, R426) -/

/-- Is the password locked at an RTC second? -/
def Password.locked (p : Password) (sec : Nat) : Bool := decide (sec < p.lockEnd)

/-- Does a password open: length 0 while none is set, otherwise the salted hash (R425, R427)? -/
def Password.matches (p : Password) (b : List Nat) : Bool :=
  match p.hash with
  | none => b.isEmpty
  | some h => decide (sha256 (p.salt ++ b) = h)

/-- Is a password refused without being checked or counted: no password is set and it is not empty, or its length is none that a password
has (R425, R427)? -/
def Password.unchecked (p : Password) (b : List Nat) : Bool :=
  if p.hash.isNone then !b.isEmpty else decide (b.length < 8) || decide (64 < b.length)

/-- A failed check: the fifth in a row locks for 15 min x 2^r (R426). -/
def Password.fail (p : Password) (sec : Nat) : Password :=
  if 5 ≤ p.fails + 1 then { p with fails := 0, locks := p.locks + 1, lockEnd := sec + 900 * 2 ^ min p.locks 7 }
  else { p with fails := p.fails + 1 }

/-- A password is set with a fresh random salt. -/
def setPassword (p : Password) (n : Nat) (b : List Nat) : Password :=
  let salt := (List.range 16).map (fun i => Config.randomByte n i % 256)
  { p with hash := some (sha256 (salt ++ b)), salt := salt }

/-- A commit of the safety region is requested (class 1). -/
def State.safRegionRequest (s : State) : State := ({ s with keeper := { s.keeper with safRegion := true } }).burstRequest 1

/-! ### The safety session (R425-R430) -/

/-- The keys of the safety parameters in ascending order (R429): the persistent entries with S. -/
def safetyKeys : List Nat :=
  let rows := dictRows.filter (fun r => r.att.contains 'S' && r.att.contains 'P' && decide (r.acc = .rw))
  let bases := ((rows.map (fun r => r.ix)).dedup).insertionSort (· ≤ ·)
  bases.flatMap (fun b =>
    let g := (rows.filter (fun r => decide (r.ix = b))).insertionSort (fun x y => x.sub ≤ y.sub)
    (List.range ((g.head?.map (fun r => r.n)).getD 0)).flatMap (fun i => g.map (fun r => (b + i) * 256 + r.sub)))

/-- The size of a fixed type in bytes. -/
def DictType.size : DictType → Nat
  | .bool | .u8 | .i8 => 1
  | .u16 | .i16 | .q16 => 2
  | .u32 | .i32 | .q32 => 4
  | .u64 | .i64 => 8
  | .str | .domain => 0

/-- The bytes of a value of an entry. -/
def dictBytes (key : Nat) (v : DictVal) : List Nat :=
  match v with
  | .bytes b => b
  | .num x =>
    let n := match dictRow? key with | some r => r.ty.size | none => 0
    (bytesLE (ofSigned (8 * n) x) n).map BitVec.toNat

/-- CRC-32C over the safety set, with pending values in place (R429). -/
def State.safetyCrc (s : State) (pend : List (Nat × DictVal)) : Nat :=
  crc32c (safetyKeys.flatMap (fun k => dictBytes k ((Assoc.get pend k).getD (s.dval k))))

/-- CHANGE_LOG_ENTRY (R430) of the session that is open, or else of flow context `ctx`: with 1,024 entries held the one with the lowest LSEQ gives way. -/
def State.logEntry (s : State) (ctx index sub flags oldCrc newCrc paramCrc : Nat) : State :=
  let x := s.safety
  let e : LogEntry := {
    lseq := x.nextLog, sec := s.get RTC.RTC_SEC_SEC, session := x.session.getD ctx * 2 ^ 24 + x.opened % 2 ^ 24
    index := index, sub := sub
    flags := flags + (if s.flag RTC.RTC_FLAG_RTC_XTAL_FAIL then 1 else 0)
    oldCrc := oldCrc, newCrc := newCrc, paramCrc := paramCrc }
  (s.modSafety (fun x => { x with log := (e :: x.log).take 1024, nextLog := x.nextLog + 1 })).burstRequest 1

/-- An APPLY is given up: the active set is committed again, and what of its log entries no burst has taken goes (DESIGN CHOICE, assumption 76). -/
def State.applyWithdraw (s : State) : State :=
  let kept := (if s.keeper.running = some 1 then s.keeper.snap.log else s.keeper.mram.log).head?
  let gone (e : LogEntry) : Bool := decide (e.index ≠ 0x68E0) && (match kept with | some x => decide (x.lseq < e.lseq) | none => true)
  let log := s.safety.log.filter (fun e => !gone e)
  let s := s.modSafety (fun x => { x with
    asked := x.asked.map (fun a => { a with apply := false }), pend := [], log := log
    nextLog := match log.head? with | some e => e.lseq + 1 | none => 0 })
  let s := { s with keeper := { s.keeper with snap := { s.keeper.snap with saf := s.safNow } } }
  s.safRegionRequest

/-- The safety session closes: pending changes are discarded (R428), an APPLY among them whose commit is outstanding; the dictionary session
returns to its role before (R512). -/
def State.safetyClose (s : State) : State :=
  let s := match s.safety.session with
    | some f => { s with flows := vmod s.flows f (fun x => { x with
        session := x.session.map (fun (y : Session) => if y.role = 3 then { y with role := y.prior } else y) }) }
    | none => s
  let s := if s.safety.asked.any (fun a => a.apply) then s.applyWithdraw else s
  (s.modSafety (fun x => { x with session := none, pend := [] })).refreshSState

/-- The check of a safety password from a flow context: the abort code, 0 when the session opens (R425-R428).  A length that
no password has is refused without being checked or counted. -/
def State.safetyLogin (s : State) (ctx : Nat) (b : List Nat) : Nat × State :=
  let sec := s.get RTC.RTC_SEC_SEC
  let p := s.safety.pw
  if s.safety.session.isSome then (0x0403, s)
  else if p.locked sec then (0x0304, s)
  else if p.unchecked b then (0x0305, s)
  else if p.matches b then
    let s := s.modSafety (fun x => { x with session := some ctx, opened := x.opened + 1, pw := { p with fails := 0, locks := 0 } })
    let s := { s with flows := vmod s.flows ctx (fun x => { x with session := x.session.map (fun (y : Session) => { y with prior := y.role, role := 3 }) }) }
    (0, (s.logEntry ctx 0x68E0 1 16 0 0 (s.safetyCrc [])).refreshSState.safRegionRequest)
  else
    let q := p.fail sec
    let s := s.modSafety (fun x => { x with pw := q })
    let s := s.logEntry ctx 0x68E0 1 2 0 0 (s.safetyCrc [])
    (0x0305, (if q.fails = 0 then s.logEntry ctx 0x68E0 1 4 0 0 (s.safetyCrc []) else s).safRegionRequest)

/-- A write of NEW_PASSWORD in the safety session (R425, R427): the keeper commits the salted hash first (R508). -/
def State.newPassword (s : State) (reply : Option (Nat × DictReq)) (b : List Nat) : Nat × State :=
  if s.safety.session.isNone then (0x0303, s)
  else if b.length < 8 ∨ 64 < b.length then (0x0402, s)
  else
    let (n, s) := s.fresh
    (0, (s.modSafety (fun x => { x with asked := some { pw := some (setPassword x.pw n b), reply := reply } })).safRegionRequest)

/-- A password that the keeper has committed is set, and logged (R430). -/
def State.passwordCommitted (s : State) (p : Password) : State :=
  let s := s.modSafety (fun x => { x with pw := { x.pw with hash := p.hash, salt := p.salt } })
  s.logEntry 0 0x68E0 3 8 0 (crc32c (p.hash.getD [])) (s.safetyCrc [])

/-- The halt guard's times in force follow their entries; timings in progress are judged against them at once (R120). -/
def State.guardTimes (s : State) : State :=
  let s := (s.set HGRD.GUARD_US_GUARD_US (s.dnat DP.HG_HALT_GUARD)).set HGRD.EXTEND_MS_EXTEND_MS (s.dnat DP.HG_HALT_EXTEND)
  foldOver (List.range 4) (fun d t => t.guardJudge d) s

/-- The entries whose writes take effect at once and that no start keeps (R429, R449): HALT_EXTEND and DBG_ALLOW. -/
def unkept : List Nat := [DP.HG_HALT_EXTEND, DP.ARBP_DBG_ALLOW]

/-- A write of a safety parameter, with a password set (R427) and the session open: it goes to the pending set (R429), or takes effect at
once where the entry is excepted. -/
def State.pendWrite (s : State) (key : Nat) (v : DictVal) : Nat × State :=
  if s.safety.session.isNone then (0x0303, s)
  else if s.safety.pw.hash.isNone then (0x0403, s)
  else if unkept.contains key then (0, (s.setDval key v).guardTimes)
  else (0, s.modSafety (fun x => { x with pend := Assoc.put x.pend key v }))

/-- The flow contexts that enabled connections would name with the pending set. -/
def State.connFlows (s : State) (pend : List (Nat × DictVal)) : List Nat :=
  let val (k : Nat) : Nat := match (Assoc.get pend k).getD (s.dval k) with | .num x => x.toNat | .bytes _ => 0
  ((List.range 48).filter (fun c => decide (val (DP.CONN_EN c) = 1))).map (fun c => val (DP.CONN_FLOW c))

/-- A write of APPLY (R429, R515): the checks; then the keeper is asked for the commit of the log entries of what changes and of the set. -/
def State.applyRequest (s : State) (reply : Option (Nat × DictReq)) (v : Nat) : Nat × State :=
  let x := s.safety
  let removed (c : SafeChannel) : Bool := decide (c.st = .sto) || decide (c.st = .locked)
  let flows := s.connFlows x.pend
  if x.session.isNone then (0x0303, s)
  else if x.pw.hash.isNone then (0x0403, s)
  else if !removed (s.chan 0) || !removed (s.chan 1) then (0x0403, s)
  else if flows.any (fun f => let u := s.dnat (DP.FC_TYPE f); decide (u = 1 ∨ u = 2 ∨ u = 4)) || !decide flows.Nodup then (0x0403, s)
  else if v ≠ s.safetyCrc x.pend then (0x0404, s)
  else
    let newCrc := s.safetyCrc x.pend
    let s := x.pend.foldl (fun t (kv : Nat × DictVal) =>
      let old := t.dval kv.1
      if old = kv.2 then t
      else t.logEntry 0 (kv.1 / 256) (kv.1 % 256) 0 (crc32c (dictBytes kv.1 old)) (crc32c (dictBytes kv.1 kv.2)) newCrc) s
    (0, (s.modSafety (fun x => { x with asked := some { apply := true, reply := reply } })).safRegionRequest)

/-- A produced or consumed connection is opened (R433, R435). -/
def State.openConn (s : State) (c : Nat) : State :=
  let on := decide (s.dnat (DP.CONN_EN c) = 1)
  let dir := s.dnat (DP.CONN_DIR c) % 2
  let s := s.modConn c (fun _ => {})
  let s := (s.set (SCONN.SCST_STATE c) (if on then (if dir = 1 then 2 else 1) else 0)).set (SCONN.SCST_DIR c) dir
  (s.setReg (SCONN.SCSEQ c) 0).setReg (SCONN.SCAGE c) 0

/-- Contexts named by enabled connections are in use 3; others no longer (R514). -/
def State.refreshUses (s : State) : State :=
  let flows := s.connFlows []
  foldOver (List.range 128) (fun f t =>
    if f ∈ flows then t.setDval (DP.FC_TYPE f) (.num 3)
    else if t.dnat (DP.FC_TYPE f) = 3 then t.setDval (DP.FC_TYPE f) (.num 0) else t) s

/-- An axis whose PI entry has changed knows no angle of its new source yet. -/
def State.dropPi (s : State) (k : Nat) : State :=
  (s.modAxis k (fun a => { a with angle := none, rev := 0, hist := [], bad := 0 })).setB (SFN.AXSTAT_PI_OK k) false

/-- The keeper has committed the set and its log (R429): both channels take it at one channel A cycle. -/
def State.applyCommitted (s : State) : State :=
  let pend := s.safety.pend
  let s := pend.foldl (fun t (kv : Nat × DictVal) => t.setDval kv.1 kv.2) s
  let s := s.modSafety (fun x => { x with pend := [] })
  let moved := ((pend.map (fun (kv : Nat × DictVal) => kv.1)).filter (fun k => decide (k % 256 = 2) && decide (0x6810 ≤ k / 256) && decide (k / 256 < 0x6814))).dedup
  let s := moved.foldl (fun t k => t.dropPi (k / 256 - 0x6810)) s
  let touched := ((pend.map (fun (kv : Nat × DictVal) => kv.1 / 256)).filter (fun i => decide (0x6860 ≤ i) && decide (i < 0x6890))).dedup
  let s := touched.foldl (fun t i => t.openConn (i - 0x6860)) s
  ((((s.refreshUses).guardTimes).showAxes).refreshSState).refreshRun

/-- What the keeper has committed for S takes effect. -/
def State.askDone (s : State) (a : SafeAsk) : State :=
  if a.apply then s.applyCommitted else match a.pw with | some p => s.passwordCommitted p | none => s

/-- SAFETY_LOGIN (R425): a write of 0x68E0:01 from flow context `ctx`. -/
def execSafetyLogin (ctx : Fin 128) (pw : List (BitVec 8)) (s : State) : Out := s.whileRuns <|
  .next (s.safetyLogin ctx (pw.map BitVec.toNat)).2

/-- SAFETY_LOGOUT (R428). -/
def execSafetyLogout (s : State) : Out := s.whileRuns <| .next s.safetyClose

/-- SAFETY_SESSION_TIMEOUT (R428). -/
def execSafetySessionTimeout (s : State) : Out := s.whileRuns <| .next s.safetyClose

/-- NEW_PASSWORD (R425): one access at a time (R507, assumption 76). -/
def execNewPassword (pw : List (BitVec 8)) (s : State) : Out := s.whileRuns <|
  .next (if s.safety.asked.isSome then s else (s.newPassword none (pw.map BitVec.toNat)).2)

/-- APPLY (R429): one access at a time (R507, assumption 76). -/
def execApply (v : BitVec 32) (s : State) : Out := s.whileRuns <| .next (if s.safety.asked.isSome then s else (s.applyRequest none v.toNat).2)

/-! ### The safety layer (R431-R440) -/

/-- The check value of a safety frame (R432). -/
def frameCheck (connId seqHi : Nat) (bytes : List Nat) : Nat :=
  (([seqHi % 256, seqHi / 256 % 256] ++ bytes).foldl (crcByte 32 0x1EDC6F41 true) (0xFFFFFFFF ^^^ connId)) ^^^ 0xFFFFFFFF

/-- The safety data of an accepted frame: a heartbeat leaves them (R436, R437); a change of RESET in the command word from 0 to 1 is a restart
acknowledgement (R393) where the conditions of the release hold. -/
def State.takeData (s : State) (c : Nat) (data : List Nat) : State :=
  let was := s.wordBit 22
  let s := s.modConn c (fun x => { x with timedOut := false, data := if data.isEmpty then x.data else data })
  if !was && s.wordBit 22 then
    foldOver ([0, 1].filter (fun ch => s.mayRelease ch)) (fun ch t => t.modChan ch (fun c => { c with resetEdge := true })) s
  else s

/-- The checks of R434 on a frame of consumed connection `c`, and its acceptance. -/
def State.safetyFrame (s : State) (c : Nat) (b : List Nat) : State :=
  let len := b.getD 0 0
  let st := s.get (SCONN.SCST_STATE c)
  let last := s.get (SCONN.SCSEQ_SEQ c)
  let seq := leNum ((b.drop 2).take 2)
  let d := (seq + 65536 - last % 65536) % 65536
  let e := if st = 2 then (last + d) % 2 ^ 32 else seq
  let age := toSigned 32 (s.safety.lt + 2 ^ 32 - leNum ((b.drop 4).take 4))
  let maxAge := s.dnat (DP.CONN_MAX_AGE c)
  if b.length ≠ 12 + len ∨ 32 < len ∨ b.getD 1 0 ≠ 1 then s.incSat (SCONN.SCREJ_REJ_LEN c)
  else if st = 2 ∧ (d = 0 ∨ s.dnat (DP.CONN_SEQ_WIN c) < d) then s.incSat (SCONN.SCREJ_REJ_SEQ c)
  else if frameCheck (s.dnat (DP.CONN_CONN_ID c)) (if st = 2 then e / 65536 else 0) (b.take (8 + len)) ≠ leNum ((b.drop (8 + len)).take 4) then
    s.incSat (SCONN.SCREJ_REJ_CRC c)
  else if maxAge ≠ 0 ∧ (age < -1000 ∨ (maxAge : Int) * 1000 < age ∨ !s.safety.ltLocked) then s.incSat (SCONN.SCREJ_REJ_AGE c)
  else
    let data := (b.drop 8).take len
    let s := (s.setReg (SCONN.SCSEQ c) (BitVec.ofNat 32 e)).set (SCONN.SCST_STATE c) 2
    let s := (s.incMod (SCONN.SCST_ACC_CNT c)).set (SCONN.SCAGE_SINCE c) 0
    let s := s.set (SCONN.SCAGE_AGE c) (min 65535 (age.toNat / 100))
    (s.takeData c data).refreshSState

/-- SAFETY_FRAME_RECEIVED (R434). -/
def execSafetyFrameReceived (c : Fin 48) (payload : List (BitVec 8)) (s : State) : Out := s.whileRuns <|
  .next (if s.dnat (DP.CONN_EN c) = 1 ∧ s.dnat (DP.CONN_DIR c) % 2 = 0 then s.safetyFrame c (payload.map BitVec.toNat) else s)

/-- SAFETY_CONN_TIMEOUT (R435): LOST, the reaction, back to SYNC. -/
def execSafetyConnTimeout (c : Fin 48) (s : State) : Out := s.whileRuns <|
  .next <|
    if s.dnat (DP.CONN_EN c) ≠ 1 ∨ s.dnat (DP.CONN_DIR c) % 2 ≠ 0 then s
    else
      let s := (s.incSat (SCONN.SCST_LOST_CNT c)).modConn c (fun x => { x with timedOut := true })
      let s := s.set (SCONN.SCST_STATE c) 1
      match s.dnat (DP.CONN_REACT c) % 4 with
      | 2 => s.refreshSState
      | 1 => (((s.chanSs1 0).chanSs1 1).driveSto).refreshSState
      | _ => s.evaluateBoth

/-- The status image of a produced connection (R439), which channel A forms. -/
def State.statusImage (s : State) : List Nat :=
  let speed (k : Nat) : Nat :=
    match s.sources 0 k with
    | [] => 0x8000
    | w :: r => ofSigned 16 (r.foldl (fun v w => if v.natAbs < (s.srcV 0 k w).natAbs then s.srcV 0 k w else v) (s.srcV 0 k w))
  (bytesLE (s.reg SFN.S_STATE).toNat 4).map BitVec.toNat
    ++ (List.range 4).flatMap (fun k => (bytesLE (speed k) 2).map BitVec.toNat) ++ List.replicate 20 0

/-- S_STATE_PUBLISH (R440). -/
def execSStatePublish (s : State) : Out := s.whileRuns <|
  .next <|
    let w := s.reg SFN.S_STATE
    ((s.modCmd 0 (fun x => { x with sState := w })).modCmd 1 (fun x => { x with sState := w })).send ⟨.sState, Die.s.code, [w.toNat]⟩

/-! ### Mailbox (R393, R441) -/

/-- A write of the request word by die `c` that reaches S: taken from the shell only, counted otherwise. -/
def State.mailbox (s : State) (c : Nat) (w : Word) : State :=
  if s.get (arbRole c) ≠ 3 then s.incSat MBX.MBXSTAT_MBX_REJ
  else
    let s := (s.setB MBX.MBXREQ_STO_REQ (w.getLsbD 0)).setB MBX.MBXREQ_SS1_REQ (w.getLsbD 1)
    let s := s.evaluateBoth
    if w.getLsbD 2 && decide (s.dnat DP.SAF_RST_MBX = 1) then s.acknowledge [0, 1] else s

/-- MBX_STO_REQ (R441). -/
def execMbxStoReq (c : Fin 2) (v : Bool) (s : State) : Out := s.whileRuns <|
  .next (s.mailbox c (putBits (putBits (s.reg MBX.MBXREQ) 2 1 0) 0 1 (if v then 1 else 0)))

/-- MBX_SS1_REQ (R441). -/
def execMbxSs1Req (c : Fin 2) (v : Bool) (s : State) : Out := s.whileRuns <|
  .next (s.mailbox c (putBits (putBits (s.reg MBX.MBXREQ) 2 1 0) 1 1 (if v then 1 else 0)))

/-- MBX_RESET (R393). -/
def execMbxReset (c : Fin 2) (s : State) : Out := s.whileRuns <| .next (s.mailbox c (putBits (s.reg MBX.MBXREQ) 2 1 1))

end Sys2Proof.Machine
end

