-- ==== Sys2Proof/Machine/Network.lean ====
section
/-!
DEFINITION. Sys2Proof/Machine/Network.lean: Ethernet ports, ring manager and gating, IEEE 1588 and LT, compare and capture units,
CAN FD, and the flow contexts that frames belong to (chapter 13, R514-R523).
-/

namespace Sys2Proof.Machine

/-! ### Shared access -/

/-- Change N's network side. -/
def State.modNet (s : State) (f : Net → Net) : State := { s with net := f s.net }

/-- Ethernet port `p`. -/
def State.eth (s : State) (p : Nat) : EthPort := vget s.net.ports p

/-- Change it. -/
def State.modEth (s : State) (p : Nat) (f : EthPort → EthPort) : State := s.modNet (fun n => { n with ports := vmod n.ports p f })

/-- Change a domain: 0 A, 1 B. -/
def State.modDom (s : State) (x : Nat) (f : PtpDomain → PtpDomain) : State := s.modNet (fun n => { n with doms := vmod n.doms x f })

/-- A domain. -/
def State.dom (s : State) (x : Nat) : PtpDomain := vget s.net.doms x

/-- Change a CAN controller. -/
def State.modCan (s : State) (n : Nat) (f : CanCtl → CanCtl) : State := s.modNet (fun x => { x with cans := vmod x.cans n f })

/-- Change a flow context. -/
def State.modFlow (s : State) (f : Nat) (g : FlowCtx → FlowCtx) : State := { s with flows := vmod s.flows f g }

/-- The use of a flow context (R514). -/
def State.use (s : State) (f : Nat) : Nat := s.dnat (DP.FC_TYPE f)

/-- The number that bytes spell, most significant first. -/
def beNum (b : List Nat) : Nat := b.foldl (fun a x => 256 * a + x) 0

/-- The `n` bytes of a number, most significant first. -/
def beBytes (x n : Nat) : List Nat := ((bytesLE x n).map BitVec.toNat).reverse

/-- The address of a port, byte 0 most significant. -/
def State.mac (s : State) (p : Nat) : Nat := s.get (ETH.MAC_HI_MAC_HI p) * 2 ^ 32 + s.get (ETH.MAC_LO_MAC_LO p)

/-- Is a port up and enabled? -/
def State.portUp (s : State) (p : Nat) : Bool := s.flag (ETH.PCFG_EN p) && s.flag (ETH.PSTAT_LINK_UP p)

/-- Is N the ring manager? -/
def State.manager (s : State) : Bool := s.flag (ETH.PCFG_RING_MGR 0)

/-- Show BLOCKED and RING_OPEN in both ring ports. -/
def State.setRing (s : State) (blocked opened : Bool) : State :=
  foldOver [0, 1] (fun p t => (t.setB (ETH.PSTAT_BLOCKED p) blocked).setB (ETH.PSTAT_RING_OPEN p) opened) s

/-! ### LT -/

/-- LT takes a value, in 2^-32 ns; its registers follow. -/
def State.setLt (s : State) (lt : Nat) : State :=
  let ns := lt / 2 ^ 32
  let sec := ns / 10 ^ 9
  let s := s.modNet (fun n => { n with lt := lt })
  ((s.set TIME.LT_NS_LT_NS (ns % 10 ^ 9)).set TIME.LT_SEC_LO_LT_SEC_LO sec).set TIME.LT_SEC_HI_LT_SEC_HI (sec / 2 ^ 32)

/-- One tick of N's 400 MHz clock (R482). -/
def State.ltTick (s : State) : State := s.setLt (s.net.lt + s.net.rate)

/-- N's UTC time in seconds. -/
def State.utcSec (s : State) : Nat := ((s.ltNs / 10 ^ 9 : Nat) - s.utcOfs : Int).toNat

/-- A read of LT_NS captures LT_SEC of the same tick (R482). -/
def State.captureLt (s : State) : State :=
  let sec := s.ltNs / 10 ^ 9
  s.modNet (fun n => { n with holdLo := some (sec % 2 ^ 32), holdHi := some (sec / 2 ^ 32) })

/-- LT_NS_READ (R482). -/
def execLtNsRead (s : State) : Out := s.whileRuns <|
  .next (s.captureLt.send ⟨.readReturn, Die.n.code, [TIME.LT_NS, s.get TIME.LT_NS_LT_NS]⟩)

/-! ### Frames -/

/-- What N reads of an Ethernet frame: addresses, 802.1Q tag, EtherType, payload. -/
structure EthView where
  dst : Nat
  src : Nat
  tag : Option Nat
  etype : Nat
  payload : List Nat

/-- The view of a frame's bytes. -/
def ethView (b : List Nat) : EthView :=
  let t := beNum ((b.drop 12).take 2)
  if t = 0x8100 then ⟨beNum (b.take 6), beNum ((b.drop 6).take 6), some (beNum ((b.drop 14).take 2)), beNum ((b.drop 16).take 2), b.drop 18⟩
  else ⟨beNum (b.take 6), beNum ((b.drop 6).take 6), none, t, b.drop 14⟩

/-- The bytes of a frame, padded with zeros to the minimum frame. -/
def ethBytes (dst src : Nat) (tag : Option Nat) (etype : Nat) (payload : List Nat) : List Nat :=
  let b := beBytes dst 6 ++ beBytes src 6 ++ (match tag with | some t => beBytes 0x8100 2 ++ beBytes t 2 | none => []) ++ beBytes etype 2 ++ payload
  b ++ List.replicate (60 - b.length) 0

/-- The queue of a frame by its tag (R471). -/
def State.queueOf (s : State) (p : Nat) (tag : Option Nat) : Nat :=
  let pcp := match tag with | some t => t / 2 ^ 13 | none => s.get (ETH.PCP_DEF_PCP p)
  s.get (ETH.PCP_PCPMAP p) / 8 ^ pcp % 8

/-- A frame enters a queue of 16; a full one drops it (R471). -/
def State.enqueue (s : State) (p q : Nat) (f : NetFrame) : State :=
  if 16 ≤ ((s.eth p).queue.filter (fun x => decide (x.1 = q))).length then s.incSat (ETH.DROPCNT_TX_DROP_CNT p)
  else s.modEth p (fun x => { x with queue := x.queue ++ [(q, f)] })

/-- The ports by which N sends a frame that it originates for port `p` (R469): a ring frame leaves by P0 only while N is manager of
a closed ring, by both ring ports otherwise. -/
def State.originPorts (s : State) (p : Nat) : List Nat :=
  if 2 ≤ p then [p] else if s.manager && !s.flag (ETH.PSTAT_RING_OPEN 0) then [0] else [0, 1]

/-- N originates a frame: one copy by each port, with that port's source address. -/
def State.originate (s : State) (p : Nat) (q : Nat → Nat) (dst : Nat) (tag : Option Nat) (etype : Nat) (payload : List Nat) (flow : Option Nat) : State :=
  foldOver (s.originPorts p) (fun r t => t.enqueue r (q r) { bytes := ethBytes dst (t.mac r) tag etype payload, flow := flow }) s

/-! ### CAN frames (R499, R500) -/

/-- The next payload length of the FD format. -/
def canLen (n : Nat) : Nat := ([12, 16, 20, 24, 32, 48, 64].find? (fun l => decide (n ≤ l))).getD 64

/-- The CAN frame that carries `b` (R517): classical up to 8 bytes, otherwise FD padded with zeros, `brs` its bit-rate switching. -/
def canFrame (ide : Bool) (id : Nat) (b : List Nat) (brs : Bool) : CanFrame :=
  if b.length ≤ 8 then ⟨ide, id, false, false, b, false⟩ else ⟨ide, id, true, false, b ++ List.replicate (canLen b.length - b.length) 0, brs⟩

/-- The format of a frame as a message shows it: IDE, FD, RTR, BRS. -/
def canFlags (f : CanFrame) : Nat :=
  (if f.ide then 1 else 0) + (if f.fd then 2 else 0) + (if f.rtr then 4 else 0) + (if f.brs then 8 else 0)

/-- The bits a frame shows in arbitration, as a number: the smaller wins. -/
def canRank (f : CanFrame) : Nat :=
  let rtr := if f.rtr then 1 else 0
  if f.ide then f.id / 2 ^ 18 * 2 ^ 21 + 2 ^ 20 + 2 ^ 19 + f.id % 2 ^ 18 * 2 + rtr else f.id * 2 ^ 21 + rtr * 2 ^ 20

/-- A transmit buffer of a controller. -/
def State.canBuf (s : State) (n i : Nat) : Option CanBuf := (vget s.net.cans n).bufs[i]?.getD none

/-- The buffer that the controller offers for arbitration (R499). -/
def State.canOffer (s : State) (n : Nat) : Option (Nat × CanBuf) :=
  (List.range 16).foldl (fun best i => match s.canBuf n i with
    | none => best
    | some b => (match best with
      | some (j, c) => if canRank b.frame < canRank c.frame then some (i, b) else some (j, c)
      | none => some (i, b))) none

/-- A frame takes the lowest-numbered free transmit buffer; a controller without FD_EN sends no FD frame (DEDUCED, assumption 77). -/
def State.canSend (s : State) (n : Nat) (f : CanFrame) (flow : Option Nat) : State :=
  if f.fd && !s.flag (CAN.CCFG_FD_EN n) then s
  else match (List.range 16).find? (fun i => (s.canBuf n i).isNone) with
  | some i => s.modCan n (fun c => { c with bufs := vset c.bufs i (some ⟨f, flow⟩) })
  | none => s

/-! ### Flow contexts (R517-R520) -/

/-- The check-value units that are open on a stream, as a mask. -/
def State.streamUnits (s : State) (src sel : Nat) : Nat :=
  (List.range 8).foldl (fun m u =>
    if s.crcOpen u && decide (crcSource (s.crcUnit u).cfg = src) && decide (getBits (s.crcUnit u).cfg 16 8 = sel) then m + 2 ^ u else m) 0

/-- The units of a mask fold an item that has passed whole; one that a STOP awaits folds it too (R581). -/
def State.streamFold (s : State) (mask : Nat) (bytes : List Nat) : State :=
  foldOver (bitsOf 8 mask) (fun u t => if t.flag (CRC.CSTAT_BUSY u) then t.crcFold u bytes else t) s

/-- A frame leaves on the transport of a flow context (R517): `b` its payload; the 802.1Q tag holds PCP in [15:13] and VID in [11:0]. -/
def State.sendOnFlow (s : State) (f : Nat) (b : List Nat) : State :=
  let tr := s.dnat (DP.FC_TRANSPORT f)
  let peer := s.dnat (DP.FC_PEER f)
  let tag := s.dnat (DP.FC_TAG f)
  let s := s.modFlow f (fun x => { x with frames := (x.frames + 1) % 65536 })
  if tr < 3 then
    s.originate tr (fun _ => s.dnat (DP.FC_QUEUE f) % 8) (peer % 2 ^ 48) (if tag.testBit 15 then some (tag / 2 ^ 12 % 8 * 2 ^ 13 + tag % 2 ^ 12) else none)
      (s.dnat (DP.FC_ETYPE f)) b (some f)
  else if 16 ≤ tr ∧ tr < 20 then
    s.canSend (tr - 16) (canFrame (peer.testBit 29) (if peer.testBit 29 then peer % 2 ^ 29 else peer % 2 ^ 11) b (s.flag (CAN.CCFG_BRS_EN (tr - 16)))) (some f)
  else s

/-- An input frame is numbered and sent to both command dies (R521), `at0` the LT ns [31:0] of its receipt. -/
def State.inputFrameAt (s : State) (fc kind : Nat) (payload : List Nat) (at0 : Nat) : State :=
  let fr : InputFrame := { bsn := s.dict.bsn, fc := fc, kind := kind, lt := at0, payload := payload }
  let s := { s with dict := { s.dict with bsn := s.dict.bsn + 1 } }
  foldOver [0, 1] (fun c t => t.modCmd c (fun x => { x with inFrames := x.inFrames ++ [fr] })) s

/-- An input frame that N completes now. -/
def State.inputFrame (s : State) (fc kind : Nat) (payload : List Nat) : State := s.inputFrameAt fc kind payload (s.ltNs % 2 ^ 32)

/-- A frame of a receiving flow context, received at `at0` (its SOF on CAN, R500): its payload as it came (R518, R520, R438).  A process frame must carry LEN bytes, or what
the transport pads them to; of a safety frame only such padding is cut (R434). -/
def State.flowReceive (s : State) (f : Nat) (payload : List Nat) (padded : Nat → Nat) (at0 : Nat) : State :=
  if s.use f = 3 then
    let len := 12 + payload.getD 0 0
    let b := if payload.length = padded len then payload.take len else payload
    let s := s.modFlow f (fun x => { x with frames := (x.frames + 1) % 65536, rxLost := false })
    (s.streamFold (s.streamUnits 2 f) b).send ⟨.toSafety, f, b⟩
  else
    let len := s.dnat (DP.FC_LEN f)
    if payload.length ≠ len ∧ payload.length ≠ padded len then s.modFlow f (fun x => { x with lenErr := min 255 (x.lenErr + 1) })
    else
      let b := payload.take len
      let s := s.modFlow f (fun x => { x with frames := (x.frames + 1) % 65536, rxLost := false })
      (s.streamFold (s.streamUnits 2 f) b).inputFrameAt f 0 b at0

/-- Has LT reached a slot k x PERIOD + PHASE of a transmit flow in this tick (R519)?  PHASE at or above PERIOD acts as PERIOD - 1. -/
def State.slotNow (s : State) (f : Nat) : Bool :=
  let per := s.dnat (DP.FC_PERIOD f)
  let at0 : Int := (min (s.dnat (DP.FC_PHASE f)) (per - 1) : Nat) * 2 ^ 32
  let k (t : Int) : Int := (t - at0) / (per * 2 ^ 32 : Nat)
  decide (at0 ≤ s.net.lt) && decide (k s.net.lt ≠ k ((s.net.lt : Int) - s.net.rate))

/-- PROCESS_TX_SLOT (R519): a slot of a transmit flow, or a release with PERIOD = 0. -/
def execProcessTxSlot (f : Fin 128) (s : State) : Out := s.whileRuns <|
  .next <|
    let x := vget s.flows f
    match x.released with
    | none => s
    | some b =>
      if s.use f ≠ 2 then s
      else if (if s.dnat (DP.FC_PERIOD f) = 0 then !x.fresh else !s.slotNow f) then s
      else (s.modFlow f (fun x => { x with stale := !x.fresh, fresh := false })).sendOnFlow f b

/-- A write of TX_REL (R519): the buffers of the transmit flows FC(32w + i) with bit i set are released. -/
def State.releaseTx (s : State) (w : Nat) (m : Nat) : State :=
  foldOver (bitsOf 32 m) (fun i t =>
    let f := 32 * w + i
    if t.use f = 2 then
      let b := (Memory.readBytes t.mem (0x48280000 + 0x800 * f) (t.dnat (DP.FC_LEN f))).map BitVec.toNat
      t.modFlow f (fun x => { x with released := some b, fresh := true, begun := false })
    else t) s

/-- TX_REL. -/
def execTxRel (w : Fin 4) (m : BitVec 32) (s : State) : Out := s.whileRuns <| .next (s.releaseTx w m.toNat)

/-- PROCESS_RX_LOST (R520). -/
def execProcessRxLost (f : Fin 128) (s : State) : Out := s.whileRuns <|
  .next <|
    if s.use f = 1 ∧ s.dnat (DP.FC_PERIOD f) ≠ 0 ∧ !(vget s.flows f).rxLost
    then (s.modFlow f (fun x => { x with rxLost := true })).inputFrame f 1 [] else s

/-- FAILOVER_AT_N (R368): N takes the verdict; what the old shell had begun in a transmit buffer and not released is replaced by
the content last released. -/
def execFailoverAtN (s : State) : Out := s.whileRuns <|
  .next <|
    if !s.arb.failN then s
    else
      let s := s.modArb (fun a => { a with failN := false, nShell := none })
      foldOver (List.range 128) (fun f t =>
        let x := vget t.flows f
        if x.begun then
          let a := 0x48280000 + 0x800 * f
          let m := Memory.writeBytes (Memory.clear t.mem a 0x800) a ((x.released.getD []).map (BitVec.ofNat 8))
          ({ t with mem := m }).modFlow f (fun x => { x with begun := false })
        else t) s

/-- SAFETY_FRAME_SEND (R433, R439): a produced connection forms a frame; `pass` is channel B's check of it. -/
def execSafetyFrameSend (c : Fin 48) (pass : Bool) (s : State) : Out := s.whileRuns <|
  .next <|
    if s.dnat (DP.CONN_EN c) ≠ 1 ∨ s.dnat (DP.CONN_DIR c) % 2 ≠ 1 then s
    else
      let n := (vget s.safety.conns c).next
      let len := min 32 (s.dnat (DP.CONN_LEN c))
      let body := [len, 1, n % 256, n / 256 % 256] ++ (bytesLE s.safety.lt 4).map BitVec.toNat ++ s.statusImage.take len
      let crc := frameCheck (s.dnat (DP.CONN_CONN_ID c)) (n / 65536) body
      let s := s.modConn c (fun x => { x with next := (n + 1) % 2 ^ 32 })
      if pass then
        let s := (s.incMod (SCONN.SCST_ACC_CNT c)).setReg (SCONN.SCSEQ c) (BitVec.ofNat 32 n)
        s.sendOnFlow (s.dnat (DP.CONN_FLOW c)) (body ++ (bytesLE crc 4).map BitVec.toNat)
      else s

/-! ### Receiving on Ethernet (R466, R467, R480, R481, R518, R522) -/

/-- The delay mechanism of a port in force: peer delay?  Ring ports that differ act as end-to-end (R481). -/
def State.peerDelay (s : State) (p : Nat) : Bool :=
  let one (q : Nat) : Bool := decide (s.get (ETH.PCFG_DELAY_MECH q) = 1)
  if p < 2 then one 0 && one 1 else one p

/-- PTP_CFG_ERR follows a difference (R481). -/
def State.checkMech (s : State) : State :=
  if decide (s.get (ETH.PCFG_DELAY_MECH 0) = 1) != decide (s.get (ETH.PCFG_DELAY_MECH 1) = 1)
  then foldOver [0, 1] (fun p t => t.setB (ETH.PSTAT_PTP_CFG_ERR p) true) s else s

/-- The domain with a number: 0 A, 1 B. -/
def State.domainOf (s : State) (n : Nat) : Option Nat :=
  if s.get TIME.TCFG_DOM_A = n then some 0 else if s.get TIME.TCFG_DOM_B = n then some 1 else none

/-- The rate ratio less 1 of a domain, 2^-40. -/
def State.domainRate (s : State) (x : Nat) : Int := s.getS (if x = 0 then TIME.RATE_A_RATE_A else TIME.RATE_B_RATE_B)

/-- Replace bytes of a list from place `i`. -/
def putBytes (b : List Nat) (i : Nat) (c : List Nat) : List Nat := b.take i ++ c ++ b.drop (i + c.length)

/-- The correctionField of a PTP frame grows by the residence time times the domain's rate ratio, and by what is to be added
beside it (R480, R481); `egress` is the corrected egress timestamp. -/
def State.ptpCorrect (s : State) (f : NetFrame) (egress : Int) : List Nat :=
  match f.ptp with
  | none => f.bytes
  | some ingress =>
    let at0 := f.bytes.length - (ethView f.bytes).payload.length
    let n := f.bytes.getD (at0 + 4) 0
    let res := match s.domainOf n with
      | some x => roundDiv ((egress - ingress) * (2 ^ 40 + s.domainRate x)) (2 ^ 40)
      | none => egress - ingress
    let old := toSigned 64 (beNum ((f.bytes.drop (at0 + 8)).take 8))
    putBytes f.bytes (at0 + 8) (beBytes (ofSigned 64 (old + res + f.extra)) 8)

/-- The answer to a Pdelay_Req (R481), as a one-step Pdelay_Resp whose correctionField takes the turnaround time. -/
def State.pdelayResponse (s : State) (p : Nat) (v : EthView) (ingress : Int) : State :=
  let r := v.payload
  let clock := beBytes (s.mac 0 / 2 ^ 24) 3 ++ [0xFF, 0xFE] ++ beBytes (s.mac 0 % 2 ^ 24) 3
  let body := [r.getD 0 0 / 16 * 16 + 3, r.getD 1 0, 0, 54, r.getD 4 0, r.getD 5 0, 0, 0] ++ (r.drop 8).take 8 ++ [0, 0, 0, 0]
    ++ clock ++ beBytes (p + 1) 2 ++ (r.drop 30).take 2 ++ [5, 0x7F] ++ List.replicate 10 0 ++ (r.drop 20).take 10
  s.enqueue p (s.queueOf p none) { bytes := ethBytes 0x0180C200000E (s.mac p) none 0x88F7 body, ptp := some ingress }

/-- R518: the flow context that a frame belongs to. -/
def State.flowOf (s : State) (p : Nat) (v : EthView) : Option Nat :=
  (List.range 128).find? (fun f =>
    (decide (s.use f = 1) || decide (s.use f = 3)) && decide (s.dnat (DP.FC_TRANSPORT f) = p) && decide (s.dnat (DP.FC_ETYPE f) = v.etype)
    && (decide (s.dnat (DP.FC_PEER f) % 2 ^ 48 = 0) || decide (s.dnat (DP.FC_PEER f) % 2 ^ 48 = v.src))
    && (!(s.dnat (DP.FC_TAG f)).testBit 15 || (match v.tag with | some t => decide (t % 2 ^ 12 = s.dnat (DP.FC_TAG f) % 2 ^ 12) | none => false)))

/-- The one's-complement sum of bytes taken as 16-bit words. -/
def onesSum : List Nat → Nat
  | [] => 0
  | [a] => 256 * a
  | a :: b :: r => let x := 256 * a + b + onesSum r; x % 65536 + x / 65536

/-- A UDP datagram for the engine in an IPv4 payload (R522): unfragmented, without options, to IP_ADDR and UDP_PORT, with a UDP
checksum of 0 or one that fits. -/
def State.udpMessage (s : State) (r : List Nat) : Option (List Nat) :=
  let total := beNum ((r.drop 2).take 2)
  let u := (r.take total).drop 20
  let len := beNum ((u.drop 4).take 2)
  let sum := beNum ((u.drop 6).take 2)
  let pseudo := (r.drop 12).take 8 ++ [0, 17] ++ beBytes len 2
  if decide (r.getD 0 0 = 0x45) && decide (r.getD 9 0 = 17) && decide (beNum ((r.drop 6).take 2) % 0x4000 = 0)
      && decide (beNum ((r.drop 16).take 4) = s.dnat DP.IP_IP_ADDR) && decide (beNum ((u.drop 2).take 2) = s.dnat DP.IP_UDP_PORT)
      && decide (8 ≤ len) && decide (len ≤ u.length) && (decide (sum = 0) || decide (onesSum (pseudo ++ u.take len) = 0xFFFF))
  then some ((u.take len).drop 8) else none

/-- ARP, ICMP echo and UDP on a port whose bit of UDP_ON is set (R522): a datagram for the engine is handed to it. -/
def State.ipReceive (s : State) (p : Nat) (v : EthView) : State :=
  let r := v.payload
  let ip := s.dnat DP.IP_IP_ADDR
  let q (x : Nat) : Nat := s.queueOf x v.tag
  if !(s.dnat DP.IP_UDP_ON).testBit p then s
  else if v.etype = 0x0806 then
    if beNum ((r.drop 6).take 2) = 1 ∧ beNum ((r.drop 24).take 4) = ip then
      let reply (x : Nat) : List Nat := r.take 6 ++ [0, 2] ++ beBytes (s.mac x) 6 ++ beBytes ip 4 ++ (r.drop 8).take 10
      foldOver (s.originPorts p) (fun x t => t.enqueue x (q x) { bytes := ethBytes v.src (t.mac x) v.tag 0x0806 (reply x) }) s
    else s
  else if v.etype ≠ 0x0800 ∨ beNum ((r.drop 16).take 4) ≠ ip then s
  else
    let b := r.take (beNum ((r.drop 2).take 2))
    if r.getD 9 0 = 1 ∧ r.getD 0 0 = 0x45 ∧ r.getD 20 0 = 8 then
      let icmp0 := [0, 0, 0, 0] ++ b.drop 24
      let icmp := putBytes icmp0 2 (beBytes (0xFFFF - onesSum icmp0) 2)
      let hdr0 := b.take 8 ++ [Config.ipField 1 % 256, 1, 0, 0] ++ (r.drop 16).take 4 ++ (r.drop 12).take 4
      let hdr := putBytes hdr0 10 (beBytes (0xFFFF - onesSum hdr0) 2)
      s.originate p q v.src v.tag 0x0800 (hdr ++ icmp) none
    else match s.udpMessage r with
      | some m => s.send ⟨.dictRequest, p, m⟩
      | none => s

/-- The ring check frame (table "Ring check frame field"). -/
def State.checkFrame (s : State) (p : Nat) : List Nat :=
  ethBytes 0x03434D000001 (s.mac p) none 0x88B5
    (beBytes (s.mac 0) 6 ++ beBytes s.net.ring.seq 4 ++ beBytes (s.dnat DP.RING_RCHK_PER) 2 ++ List.replicate 34 0)

/-- A frame is delivered to N. -/
def State.deliver (s : State) (p : Nat) (v : EthView) (ingress : Int) : State :=
  if v.etype = 0x88B5 ∧ v.dst = 0x03434D000001 then
    if s.manager && decide (beNum (v.payload.take 6) = s.mac 0) && decide (p < 2) && decide (v.src = s.mac (1 - p))
    then s.modNet (fun n => { n with ring := { n.ring with seen := true } }) else s
  else if v.etype = 0x88F7 then
    if !s.flag (ETH.PCFG_PTP_EN p) then s
    else if v.payload.getD 0 0 % 16 = 2 then (if s.peerDelay p then s.pdelayResponse p v ingress else s)
    else s.send ⟨.toClock, p, v.payload⟩
  else
    let s := s.ipReceive p v
    match s.flowOf p v with
    | some f => s.flowReceive f v.payload (fun n => max n (if v.tag.isSome then 42 else 46)) (s.ltNs % 2 ^ 32)
    | none => s

/-- Forwarding to the other ring port (R467, R480, R481). -/
def State.forwardFrame (s : State) (p : Nat) (b : List Nat) (v : EthView) (ingress : Int) : State :=
  let o := 1 - p
  let kind := v.payload.getD 0 0 % 16
  let ptp := decide (v.etype = 0x88F7)
  if 2 ≤ p || decide (v.dst = s.mac p) || [0, 1, 2].any (fun q => decide (v.src = s.mac q))
      || s.flag (ETH.PSTAT_BLOCKED o) && decide (o = 1) || !s.portUp o
      || (ptp && s.peerDelay p && (decide (kind = 2) || decide (kind = 3) || decide (kind = 10))) then s
  else
    s.enqueue o (s.queueOf o v.tag)
      { bytes := b, ptp := if ptp && decide (kind < 4) then some ingress else none
        extra := if ptp && decide (kind = 0) && s.peerDelay p then s.getS (ETH.LINK_DLY_LINK_DLY p) else 0 }

/-- ETH_FRAME_RECEIVED (R466, R467): the bytes of a frame without its check sequence, whether it came without error, and the time of
its message timestamp point in 2^-16 ns of LT. -/
def execEthFrameReceived (p : Fin 3) (bytes : List (BitVec 8)) (good : Bool) (ts : Int) (s : State) : Out := s.whileRuns <|
  .next <|
    let b := bytes.map BitVec.toNat
    let v := ethView b
    let ingress := ts - s.getS (ETH.ING_ASYM_ING_ASYM p)
    if !s.portUp p then s
    else if !good || b.length + 4 < 64 || 1522 < b.length + 4 || (v.tag.isSome && decide (v.etype = 0x8100)) then
      s.incSat (ETH.DROPCNT_RX_DROP_CNT p)
    else
      let quiet := decide ((p : Nat) = 1) && s.flag (ETH.PSTAT_BLOCKED 1)
      let own := [0, 1, 2].any (fun q => decide (v.src = s.mac q))
      let group := decide (v.dst / 2 ^ 40 % 2 = 1)
      let check := decide (v.etype = 0x88B5 ∧ v.dst = 0x03434D000001)
      let s := if quiet then s else s.forwardFrame p b v ingress
      if check || ((decide (v.dst = s.mac p) || group) && !own && (!quiet || decide (v.etype = 0x88F7))) then s.deliver p v ingress else s

/-! ### Gating and transmission (R471-R476) -/

/-- The entries of a list as they apply in one cycle: skipped, cut at the cycle's end, the last one extended to it. -/
def GateList.slots (g : GateList) : List (Nat × Nat) :=
  let es := g.entries.filter (fun e => decide (e.2 ≠ 0))
  let cut := es.foldl (fun (a : List (Nat × Nat) × Nat) e => (a.1 ++ [(e.1, min e.2 (g.cycle - a.2))], min g.cycle (a.2 + e.2))) ([], 0)
  let l := cut.1.filter (fun e => decide (e.2 ≠ 0))
  match l.getLast? with
  | some e => if cut.2 < g.cycle then l.dropLast ++ [(e.1, e.2 + (g.cycle - cut.2))] else l
  | none => []

/-- The slots from an instant on, one whole cycle: what is left of the slot in progress, those after it, and those before. -/
def rotateSlots : List (Nat × Nat) → List (Nat × Nat) → Nat → List (Nat × Nat)
  | [], before, _ => before
  | e :: r, before, t => if t < e.2 then (e.1, e.2 - t) :: r ++ before ++ [(e.1, t)] else rotateSlots r (before ++ [e]) (t - e.2)

/-- The list in force at a port; none leaves all gates open. -/
def State.gateList (s : State) (p : Nat) : Option GateList :=
  if s.flag (GATE.GCFG_GATE_EN p) then (match (s.eth p).oper with | some g => if g.slots.isEmpty then none else some g | none => none) else none

/-- The time since the start of the cycle in progress. -/
def GateList.phase (g : GateList) (now : Nat) : Nat := ((now : Int) - g.base).emod (max 1 g.cycle) |>.toNat

/-- The gates at an instant of LT. -/
def State.gatesNow (s : State) (p : Nat) : Nat :=
  match s.gateList p with
  | none => 255
  | some g => ((rotateSlots g.slots [] (g.phase s.ltNs)).head?.map (fun e => e.1)).getD 255

/-- How long the gate of a queue stays open over slots. -/
def openRun (q : Nat) : List (Nat × Nat) → Nat
  | [] => 0
  | e :: r => if e.1.testBit q then e.2 + openRun q r else 0

/-- The longest open interval of a queue in a list of slots. -/
def longestRun (q : Nat) : List (Nat × Nat) → Nat
  | [] => 0
  | e :: r => max (openRun q (e :: r)) (longestRun q r)

/-- How long the gate of a queue stays open from the start of slots that repeat; none: it does not close. -/
def openFor (q : Nat) (l : List (Nat × Nat)) : Option Nat := if l.all (fun e => e.1.testBit q) then none else some (openRun q (l ++ l))

/-- Does a frame of `n` bytes (check sequence included) fit before the gate of `q` next closes (R475), by the list in force and, from the time at
which it takes over, by the pending one? -/
def State.gateFits (s : State) (p q n : Nat) : Bool :=
  let need := (n + 20) * 8
  let now := match s.gateList p with | some g => openFor q (rotateSlots g.slots [] (g.phase s.ltNs)) | none => none
  let fits (o : Option Nat) (t : Nat) : Bool := match o with | some w => decide (t ≤ w) | none => true
  match if s.flag (GATE.GCFG_GATE_EN p) then (s.eth p).pend else none with
  | none => fits now need
  | some (at0, g) =>
    let left := at0 - s.ltNs
    if need ≤ left || !fits now left then fits now need
    else fits (if g.slots.isEmpty then none else openFor q g.slots) (need - left)

/-- Does it fit no open interval of its queue in the cycle? -/
def State.gateNever (s : State) (p q n : Nat) : Bool :=
  match s.gateList p with
  | none => false
  | some g => !g.slots.all (fun e => e.1.testBit q) && decide (longestRun q (g.slots ++ g.slots) < (n + 20) * 8)

/-- Take the oldest frame of queue `q` out of a port's queues. -/
def takeHead (q : Nat) : List (Nat × NetFrame) → List (Nat × NetFrame)
  | [] => []
  | x :: r => if x.1 = q then r else x :: takeHead q r

/-- Drop the head frames that no open interval of their queue holds (R475). -/
def State.dropOversize (s : State) (p q : Nat) : Nat → State
  | 0 => s
  | n + 1 =>
    match (s.eth p).queue.find? (fun x => decide (x.1 = q)) with
    | some x =>
      if s.gateNever p q (x.2.bytes.length + 4)
      then ((s.modEth p (fun y => { y with queue := takeHead q y.queue })).incSat (ETH.OVERSIZE_OVERSIZE_CNT p)).dropOversize p q n
      else s
    | none => s

/-- ETH_TRANSMIT_START (R472, R475, R478, R480): an idle port starts the head frame of the highest queue that may start; its message
timestamp point crosses the SGMII interface at `ts`. -/
def execEthTransmitStart (p : Fin 3) (ts : Int) (s : State) : Out := s.whileRuns <|
  .next <|
    if !s.portUp p || (s.eth p).tx.isSome then s
    else
      let s := foldOver (List.range 8) (fun q t => t.dropOversize p q 16) s
      let s := s.modEth p (fun x => { x with gates := s.gatesNow p })
      match [7, 6, 5, 4, 3, 2, 1, 0].findSome? (fun q =>
          if !(s.gatesNow p).testBit q then none
          else match (s.eth p).queue.find? (fun x => decide (x.1 = q)) with
            | some x => if s.gateFits p q (x.2.bytes.length + 4) then some x else none
            | none => none) with
      | none => s
      | some (q, f) =>
        let egress := ts + s.getS (ETH.EGR_ASYM_EGR_ASYM p)
        let sent : NetFrame := { f with
          bytes := s.ptpCorrect f egress, ptp := none, crcs := match f.flow with | some c => s.streamUnits 3 c | none => 0 }
        let s := s.modEth p (fun x => { x with queue := takeHead q x.queue, tx := some sent })
        match f.req with
        | some 2 => s.modEth p (fun x => { x with pReq := some egress, pResp := none })
        | some x => s.modDom x (fun d => { d with dReq := some egress })
        | none => s

/-- ETH_TRANSMIT_END (R472): the frame has left; a transmit stream folds its payload (R581). -/
def execEthTransmitEnd (p : Fin 3) (s : State) : Out := s.whileRuns <|
  .next <|
    match (s.eth p).tx with
    | none => s
    | some f =>
      let s := (s.modEth p (fun x => { x with tx := none })).send ⟨.etherFrame, p, f.bytes⟩
      match f.flow with
      | some c => s.streamFold f.crcs ((ethView f.bytes).payload.take (if s.use c = 3 then 12 + (ethView f.bytes).payload.getD 0 0 else s.dnat (DP.FC_LEN c)))
      | none => s

/-- GATE_INTERVAL_END (R473): the gates of the next entry, or of the next cycle's first, apply. -/
def execGateIntervalEnd (p : Fin 3) (s : State) : Out := s.whileRuns <| .next (s.modEth p (fun x => { x with gates := s.gatesNow p }))

/-- The admin list of a port. -/
def State.adminList (s : State) (p : Nat) : GateList where
  base := s.get (GATE.ADM_BASE_SEC_ADM_BASE_SEC p) * 10 ^ 9 + s.get (GATE.ADM_BASE_NS_ADM_BASE_NS p)
  cycle := s.get (GATE.ADM_CYCLE_ADM_CYCLE p)
  entries := (List.range (s.get (GATE.GCFG_ADM_LEN p))).map (fun i => (s.get (GATE.ADM_GATES_GATES p i), s.get (GATE.ADM_INT_INTERVAL p i)))

/-- The first cycle start of a list at or after an instant. -/
def GateList.nextStart (g : GateList) (t : Nat) : Nat := if g.phase t = 0 then t else t + (max 1 g.cycle - g.phase t)

/-- When a pending list takes over: at its own first cycle start from `least` on that is not before the end of the operating cycle in progress. -/
def State.takeover (s : State) (p : Nat) (g : GateList) (least : Nat) : Nat :=
  g.nextStart (max least (match (s.eth p).oper with | some o => s.ltNs + (max 1 o.cycle - o.phase s.ltNs) | none => 0))

/-- A write of 1 to APPLY (R474). -/
def State.gateApply (s : State) (p : Nat) : State :=
  let g := s.adminList p
  if g.cycle < 1000 ∨ 64 < s.get (GATE.GCFG_ADM_LEN p) then s.setB (GATE.GSTAT_GATE_CFG_ERR p) true
  else
    (s.modEth p (fun x => { x with pend := some (s.takeover p g (s.ltNs + 1000000), g), pendMin := s.ltNs + 1000000 })).setB (GATE.GSTAT_PENDING p) true

/-- GATE_APPLY (R474). -/
def execGateApply (p : Fin 3) (s : State) : Out := s.whileRuns <| .next (s.gateApply p)

/-- GATE_LIST_SWITCH (R474): the pending list's first eligible cycle start is reached. -/
def execGateListSwitch (p : Fin 3) (s : State) : Out := s.whileRuns <|
  .next <|
    match (s.eth p).pend with
    | none => s
    | some (at0, g) =>
      if s.ltNs < at0 then s
      else
        let s := (s.modEth p (fun x => { x with oper := some g, pend := none })).setB (GATE.GSTAT_PENDING p) false
        let s := (s.set (GATE.GSTAT_OPER_LEN p) g.entries.length).setB (GATE.GSTAT_OPER_ACTIVE p) true
        let s := foldOver (List.range 64) (fun i t =>
          let e := g.entries.getD i (0, 0)
          (t.setReg (GATE.OPER_GATES p i) (BitVec.ofNat 32 e.1)).setReg (GATE.OPER_INT p i) (BitVec.ofNat 32 e.2)) s
        s.modEth p (fun x => { x with gates := s.gatesNow p })

/-! ### Ring manager (R468-R470) -/

/-- RING_CHECK_SEND (R468): a period of the manager ends: what arrived in it blocks or unblocks P1; the next check frames leave. -/
def execRingCheckSend (s : State) : Out := s.whileRuns <|
  .next <|
    if !s.manager then s
    else
      let r := s.net.ring
      let n := max 1 (s.dnat DP.RING_RCHK_LOSS)
      let hits := if r.seen then r.hits + 1 else 0
      let misses := if r.seen then 0 else r.misses + 1
      let isOpen := s.flag (ETH.PSTAT_RING_OPEN 0)
      let s :=
        if n ≤ misses then s.setRing false true
        else if n ≤ hits || (r.seen && !isOpen) then s.setRing true false
        else s
      let s := s.modNet (fun x => { x with ring := ⟨false, hits, misses, (r.seq + 1) % 2 ^ 32⟩ })
      foldOver [0, 1] (fun p t => t.enqueue p (t.queueOf p none) { bytes := t.checkFrame p }) s

/-- PORT_LINK_DOWN (R470). -/
def execPortLinkDown (p : Fin 3) (s : State) : Out := s.whileRuns <|
  .next <|
    let s := (s.setB (ETH.PSTAT_LINK_UP p) false).modEth p (fun x => { x with tx := none })
    if decide ((p : Nat) < 2) && s.manager then (s.setRing false true).modNet (fun n => { n with ring := { n.ring with hits := 0 } }) else s

/-- PORT_LINK_UP. -/
def execPortLinkUp (p : Fin 3) (s : State) : Out := s.whileRuns <| .next (s.setB (ETH.PSTAT_LINK_UP p) true)

/-! ### Domains, servo, LT (R477-R490) -/

/-- Is rank `a` below rank `b` in the order of the best master clock algorithm? -/
def rankLt : List Nat → List Nat → Bool
  | [], [] => false
  | [], _ => true
  | _, [] => false
  | x :: r, y :: t => decide (x < y) || (decide (x = y) && rankLt r t)

/-- The best master of a domain among the qualified ones. -/
def PtpDomain.best (d : PtpDomain) : Option PtpMaster :=
  (d.masters.filter (fun m => m.qual)).foldl (fun b m => match b with | some c => if rankLt m.rank c.rank then some m else some c | none => some m) none

/-- The masters of a domain as they stand at an instant of LT (IEEE 1588-2019, 9.3.2.5): one not heard within four announce intervals goes, one is
qualified by two Announce messages within them; the best one stays until its own timeout (R484). -/
def PtpDomain.judge (d : PtpDomain) (now : Int) : PtpDomain :=
  let best := d.best
  let near (m : PtpMaster) (t : Int) : Bool := decide (now - t ≤ 4 * m.interval)
  { d with masters := (d.masters.filter (fun m => decide (some m = best) || near m m.heard)).map (fun m =>
      { m with qual := decide (some m = best) || m.before.any (near m) }) }

/-- VALID of a domain (R484). -/
def PtpDomain.valid (d : PtpDomain) : Bool := d.best.isSome && d.sync

/-- LOCK of a domain (R485). -/
def PtpDomain.locked (d : PtpDomain) : Bool := d.valid && decide (16 ≤ d.good)

/-- The domain selected: SEL. -/
def State.sel (s : State) : Nat := s.get TIME.TSTAT_SEL

/-- What a domain holds in times of LT moves with LT, by `d` in 2^-16 ns. -/
def PtpDomain.moved (y : PtpDomain) (d : Int) : PtpDomain :=
  { y with
    ofs := y.ofs - d, msDiff := y.msDiff + d, dReq := y.dReq.map (fun t => t + d)
    twoStep := y.twoStep.map (fun t => (t.1, t.2.1 + d, t.2.2)), prev := y.prev.map (fun t => (t.1, t.2 + d))
    masters := y.masters.map (fun m => { m with heard := m.heard + d * 2 ^ 16, before := m.before.map (fun t => t + d * 2 ^ 16) }) }

/-- What a port holds in times of LT moves with it. -/
def EthPort.moved (x : EthPort) (d : Int) : EthPort :=
  let frame (f : NetFrame) : NetFrame := { f with ptp := f.ptp.map (fun t => t + d) }
  { x with
    pReq := x.pReq.map (fun t => t + d), pResp := x.pResp.map (fun t => (t.1, t.2 + d))
    queue := x.queue.map (fun e => (e.1, frame e.2)) }

/-- The UTC offset of the selected domain (R490): UTC_OFS, with the leap seconds taken beside it, where the Announce marks none valid. -/
def State.takeUtc (s : State) : State :=
  if s.sel = 0 then s
  else
    let off := match (s.dom (s.sel - 1)).best with | some m => m.utc | none => none
    (s.modNet (fun n => { n with utc := some (off.getD (s.getS TIME.UTCCFG_UTC_OFS + s.net.leapAdj)) })).setB TIME.TSTAT_UTC_VALID off.isSome

/-- The step of LT (R483), once in a start: to the time of the domain; the compare units are disarmed; the meters close what is
in progress, by the UTC offset of the domain (R313); a pending gate list keeps its time from now (R474). -/
def State.ltStep (s : State) (x : Nat) : State :=
  if s.flag TIME.TSTAT_STEPPED then s
  else
    let d := s.dom x
    let lt := ((s.net.lt : Int) + d.ofs * 2 ^ 16).toNat
    let s := foldOver [0, 1, 2] (fun m t => t.meterPause m) s
    let was := s.ltNs
    let s := s.modNet (fun n => { n with doms := n.doms.map (fun y => y.moved d.ofs), ports := n.ports.map (fun x => x.moved d.ofs) })
    let s := (((s.setLt lt).setB TIME.TSTAT_STEPPED true).setB TIME.TSTAT_TU_STEP true).takeUtc
    let s := foldOver [0, 1, 2] (fun p t => match (t.eth p).pend with
      | some (_, g) =>
        let least := t.ltNs + ((t.eth p).pendMin - was)
        t.modEth p (fun x => { x with pend := some (t.takeover p g least, g), pendMin := least })
      | none => t) s
    let s := foldOver (List.range 16) (fun u t =>
      if t.get (TU.TUCFG_MODE u) = 0 then (t.setB (TU.TUCFG_EN u) false).setB (TU.TUSTAT_ARMED u) false else t) s
    foldOver [0, 1, 2] (fun m t => t.meterStep m) s

/-- Select a domain: 0 none, 1 A, 2 B. -/
def State.selectDomain (s : State) (x : Nat) : State :=
  if s.sel = x then s
  else
    let s := (s.set TIME.TSTAT_SEL x).incSat TIME.TSTAT_SWITCH_CNT
    if x = 0 then s else s.ltStep (x - 1)

/-- DOMAIN_SELECT (R486, R487): `gmChanged`: the grandmaster of A has changed. -/
def State.domainSelect (s : State) (gmChanged : Bool) : State :=
  let a := (s.dom 0).valid
  let b := s.flag TIME.TCFG_B_EN && (s.dom 1).valid
  match s.sel with
  | 1 => if !a || gmChanged then (if b then s.selectDomain 2 else if a then s else s.selectDomain 0) else s
  | 2 =>
    if !(s.dom 1).valid then s.selectDomain (if a then 1 else 0)
    else if a && s.flag TIME.TCFG_A_PREF && decide (s.get TIME.RETCFG_RET_S = 0) && !gmChanged then s.selectDomain 1
    else s
  | _ => if a then s.selectDomain 1 else if b then s.selectDomain 2 else s

/-- VALID, LOCK, SYNCED, GM, OFS, UTC_VALID as they follow (R484-R490). -/
def State.refreshTime (s : State) : State :=
  let a := s.dom 0
  let b := s.dom 1
  let s := (s.setB TIME.TSTAT_VALID_A a.valid).setB TIME.TSTAT_VALID_B b.valid
  let s := (s.setB TIME.TSTAT_LOCK_A a.locked).setB TIME.TSTAT_LOCK_B b.locked
  let s := (s.setB TIME.TSTAT_SYNCED ((decide (s.sel = 1) && a.locked) || (decide (s.sel = 2) && b.locked))).meterUnsync
  let s := (s.setSat TIME.OFS_A_OFS_A (openRound a.ofs 65536)).setSat TIME.OFS_B_OFS_B (openRound b.ofs 65536)
  let gm (d : PtpDomain) (old : Nat) : Nat := match d.best with | some m => m.gm | none => old
  let ga := gm a (s.get TIME.GM_A0_GM_A * 2 ^ 32 + s.get TIME.GM_A1_GM_A)
  let gb := gm b (s.get TIME.GM_B0_GM_B * 2 ^ 32 + s.get TIME.GM_B1_GM_B)
  let s := (s.set TIME.GM_A0_GM_A (ga / 2 ^ 32)).set TIME.GM_A1_GM_A ga
  let s := (s.set TIME.GM_B0_GM_B (gb / 2 ^ 32)).set TIME.GM_B1_GM_B gb
  s.takeUtc

/-- The servo (R488): LT follows the measured rate of the selected domain with a push towards its OFS, whose size is free, within SLEW_MAX ppm of
the reference rate. -/
def State.servo (s : State) (x : Nat) : State :=
  if s.sel = x + 1 then
    let (n, s) := s.fresh
    let slew : Int := max 1 (min 500 (s.get TIME.SVCFG_SLEW_MAX))
    let lim := 10737418240 * slew / 1000000
    let push := (s.dom x).ofs.sign * (1 + (Config.servo n).natAbs)
    let want := (s.net.rate : Int) + s.net.rate * s.domainRate x / 2 ^ 40 + push
    s.modNet (fun y => { y with rate := ((10737418240 : Int) + max (-lim) (min lim (want - 10737418240))).toNat })
  else s

/-- A Sync of the best master, its origin and correction known (R485, R488): OFS, the rate ratio as the domain's time has advanced against LT since
the Sync before (DESIGN CHOICE, assumption 77), the lock count. -/
def State.syncMeasured (s : State) (x p : Nat) (origin receipt correction : Int) : State :=
  let d := s.dom x
  let path := if s.peerDelay p then s.getS (ETH.LINK_DLY_LINK_DLY p) else d.delay
  let ofs := origin + correction + path - receipt
  let near := decide (ofs.natAbs ≤ max 10 (s.get TIME.SVCFG_LOCK_NS) * 65536)
  let s := match d.prev with
    | some (m0, r0) =>
      if r0 < receipt then
        let ratio : Rat := ((origin + correction - m0 - (receipt - r0)) * 2 ^ 40 : Int) / (receipt - r0 : Int)
        s.setSat (if x = 0 then TIME.RATE_A_RATE_A else TIME.RATE_B_RATE_B) (openRead ratio)
      else s
    | none => s
  let s := s.modDom x (fun d => { d.judge s.net.lt with
    sync := true, prev := some (origin + correction, receipt), twoStep := none, msDiff := receipt - origin - correction, ofs := ofs, good := if near then d.good + 1 else 0 })
  ((s.domainSelect false).servo x).refreshTime

/-- An announce interval of 2^e s in 2^-32 ns. -/
def announceIvl (e : Int) : Nat := if 0 ≤ e then 10 ^ 9 * 2 ^ 32 * 2 ^ e.toNat else 10 ^ 9 * 2 ^ 32 / 2 ^ e.natAbs

/-- The rank of an announced master. -/
def announceRank (a : PtpAnnounce) (sender : Nat) (p : Nat) : List Nat :=
  [a.priority1.toNat, a.clockClass.toNat, a.accuracy.toNat, a.variance.toNat, a.priority2.toNat, a.gm.toNat, a.steps.toNat, sender, p]

/-- An Announce (R477, R484, R486, R490); one with 255 steps or more qualifies no master (IEEE 1588-2019, 9.3.2.5).  A change of the best master
leaves what Syncs of the domain have shown. -/
def State.announce (s : State) (x p sender : Nat) (a : PtpAnnounce) : State :=
  let old := (s.dom x).best
  let mine (y : PtpMaster) : Bool := decide (y.sender = sender ∧ y.port = p)
  let known := (s.dom x).masters.find? mine
  let m : PtpMaster := {
    rank := announceRank a sender p, sender := sender, port := p, gm := a.gm.toNat
    utc := if a.utcValid then some a.utcOfs else none, leap := if a.leap61 then 1 else if a.leap59 then -1 else 0
    heard := s.net.lt, before := known.map (fun y => y.heard), interval := announceIvl a.logInterval, qual := known.any (fun y => y.qual) }
  let rest (d : PtpDomain) : List PtpMaster := d.masters.filter (fun y => !mine y)
  let s := s.modDom x (fun d => ({ d with masters := if 255 ≤ a.steps.toNat then rest d else rest d ++ [m] }).judge s.net.lt)
  let new := (s.dom x).best
  let moved := match old, new with | some o, some b => decide (o.sender ≠ b.sender ∨ o.port ≠ b.port) | _, _ => false
  let gm := match old, new with | some o, some b => decide (o.gm ≠ b.gm) | _, _ => false
  let s := if moved then s.modDom x (fun d => { d with twoStep := none, dReq := none, prev := none }) else s
  (s.domainSelect (decide (x = 0) && gm)).refreshTime

/-- PTP_MESSAGE_RECEIVED (R477): a message for the ordinary clock by port `p`; `ts` is its message timestamp point in 2^-16 ns of LT,
for an event message. -/
def execPtpMessageReceived (p : Fin 3) (m : PtpMsg) (ts : Int) (s : State) : Out := s.whileRuns <|
  .next <|
    let ingress := ts - s.getS (ETH.ING_ASYM_ING_ASYM p)
    if !s.flag (ETH.PCFG_PTP_EN p) then s
    else match m.body with
      | .pdelayResp two receipt =>
        if !s.peerDelay p ∨ m.seq.toNat ≠ (s.eth p).pSeq then s
        else match (s.eth p).pReq with
          | none => s
          | some t1 =>
            if two then s.modEth p (fun x => { x with pResp := some (receipt - m.correction, ingress) })
            else (s.setSat (ETH.LINK_DLY_LINK_DLY p) (openRead (((ingress - t1 - m.correction : Int) : Rat) / 2))).modEth p (fun x => { x with pReq := none })
      | .pdelayRespFollowUp departure =>
        (match (s.eth p).pReq, (s.eth p).pResp with
        | some t1, some (t2, t4) =>
          if m.seq.toNat = (s.eth p).pSeq then
            (s.setSat (ETH.LINK_DLY_LINK_DLY p) (openRead (((t4 - t1 - (departure + m.correction - t2) : Int) : Rat) / 2))).modEth p
              (fun x => { x with pReq := none, pResp := none })
          else s
        | _, _ => s)
      | body =>
        match s.domainOf m.domain.toNat with
        | none => s
        | some x =>
          let d := s.dom x
          let fromBest := match d.best with | some b => decide (b.sender = m.sender.toNat ∧ b.port = (p : Nat)) | none => false
          match body with
          | .announce a => s.announce x p m.sender.toNat a
          | .sync two origin =>
            if !fromBest then s
            else if two then s.modDom x (fun d => { d with twoStep := some (m.seq.toNat, ingress, m.correction) })
            else s.syncMeasured x p origin ingress m.correction
          | .followUp origin =>
            (match d.twoStep with
            | some (q, t2, c) => if fromBest ∧ q = m.seq.toNat then s.syncMeasured x p origin t2 (c + m.correction) else s
            | none => s)
          | .delayResp receipt =>
            (match d.dReq with
            | some t3 =>
              if fromBest ∧ m.seq.toNat = d.dSeq then
                s.modDom x (fun d => { d with dReq := none, delay := openRead (((d.msDiff + (receipt - t3 - m.correction) : Int) : Rat) / 2) })
              else s
            | none => s)
          | _ => s

/-- PTP_DELAY_REQ_SEND (R481): a Pdelay_Req, which no port forwards, or a Delay_Req to each domain whose best master the port hears, by the ports
of R469; the departure at the port that hears the master is the one measured (DEDUCED, assumption 77). -/
def execPtpDelayReqSend (p : Fin 3) (s : State) : Out := s.whileRuns <|
  .next <|
    if !s.flag (ETH.PCFG_PTP_EN p) then s
    else
      let clock := beBytes (s.mac 0 / 2 ^ 24) 3 ++ [0xFF, 0xFE] ++ beBytes (s.mac 0 % 2 ^ 24) 3 ++ beBytes (p + 1) 2
      let head (kind len dom seq : Nat) : List Nat :=
        [kind, 2, 0, len, dom, 0, 0, 0] ++ List.replicate 12 0 ++ clock ++ beBytes seq 2 ++ [0, 0x7F] ++ List.replicate (len - 34) 0
      if s.peerDelay p then
        let n := ((s.eth p).pSeq + 1) % 65536
        (s.modEth p (fun x => { x with pSeq := n, pReq := none, pResp := none })).enqueue p (s.queueOf p none)
          { bytes := ethBytes 0x0180C200000E (s.mac p) none 0x88F7 (head 2 54 0 n), req := some 2 }
      else
        foldOver [0, 1] (fun x t =>
          match (t.dom x).best with
          | some b =>
            if b.port = (p : Nat) then
              let n := ((t.dom x).dSeq + 1) % 65536
              let ports := t.originPorts p
              let timed := if (p : Nat) ∈ ports then (p : Nat) else 0
              foldOver ports (fun r u => u.enqueue r (u.queueOf r none)
                { bytes := ethBytes 0x011B19000000 (u.mac r) none 0x88F7 (head 1 44 (u.get (if x = 0 then TIME.TCFG_DOM_A else TIME.TCFG_DOM_B)) n)
                  req := if r = timed then some x else none }) (t.modDom x (fun d => { d with dSeq := n, dReq := none }))
            else t
          | none => t) s

/-- DOMAIN_TIMEOUT (R484, R486): of domain `x` the Announce messages of the best master (`announce`) or the Sync messages are overdue. -/
def execDomainTimeout (x : Fin 2) (announce : Bool) (s : State) : Out := s.whileRuns <|
  .next <|
    let old := (s.dom x).best
    let s := s.modDom x (fun d =>
      if announce then ({ d with twoStep := none, dReq := none, prev := none, masters := d.masters.filter (fun m => some m ≠ old) }).judge s.net.lt
      else { d with sync := false, good := 0, twoStep := none, prev := none })
    let gm := match old, (s.dom x).best with | some o, some b => decide (o.gm ≠ b.gm) | _, _ => false
    (s.domainSelect (decide ((x : Nat) = 0) && gm)).refreshTime

/-- The masters heard by a port are no longer heard: a domain whose best one was among them starts anew with the next. -/
def State.portUnheard (s : State) (p : Nat) : State :=
  let lost (x : Nat) : Bool := match (s.dom x).best with | some m => decide (m.port = p) | none => false
  let gm := (s.dom 0).best.map (fun m => m.gm)
  let s := foldOver ([0, 1].filter lost) (fun x t => t.modDom x (fun d => { d with sync := false, good := 0, twoStep := none, dReq := none, prev := none })) s
  let s := foldOver [0, 1] (fun x t => t.modDom x (fun d => ({ d with masters := d.masters.filter (fun m => decide (m.port ≠ p)) }).judge t.net.lt)) s
  (s.domainSelect (decide ((s.dom 0).best.map (fun m => m.gm) ≠ gm))).refreshTime

/-- PCFG of a port is written: without RING_MGR no port is blocked; the clock hears no master by a port without
PTP_EN (R477). -/
def State.ethCfgApply (s : State) (p : Nat) (w : Word) : State :=
  let was := s.manager
  let s := s.setReg (ETH.PCFG p) w
  let s := if p = 0 ∧ was ≠ s.manager then (s.setRing false false).modNet (fun n => { n with ring := { seq := n.ring.seq } }) else s
  let s := if s.portUp p then s else s.modEth p (fun x => { x with tx := none })
  if s.flag (ETH.PCFG_PTP_EN p) then s.checkMech else s.checkMech.portUnheard p

/-- DOMAIN_RETURN (R487). -/
def execDomainReturn (s : State) : Out := s.whileRuns <|
  .next <|
    if decide (s.sel = 2) && s.flag TIME.TCFG_A_PREF && (s.dom 0).valid then (s.selectDomain 1).refreshTime else s

/-- TCFG and its neighbours are written: a domain with a new number starts anew; the selection and the status follow. -/
def State.timeCfgApply (s : State) (a : Nat) (w : Word) : State :=
  let da := s.get TIME.TCFG_DOM_A
  let db := s.get TIME.TCFG_DOM_B
  let utc := s.get TIME.UTCCFG_UTC_OFS
  let s := s.setReg a w
  let s := if s.get TIME.UTCCFG_UTC_OFS = utc then s else s.modNet (fun n => { n with leapAdj := 0 })
  let s := if s.get TIME.TCFG_DOM_A = da then s else s.modDom 0 (fun _ => {})
  let s := if s.get TIME.TCFG_DOM_B = db then s else s.modDom 1 (fun _ => {})
  (s.domainSelect false).refreshTime

/-- ELAPSED of the activities that run (MAINT block): 1 ms more. -/
def State.ageActivities (s : State) : State :=
  foldOver (List.range 16) (fun k t => if t.flag (MAINT.SLOTS_ACTIVE k) then t.incSat (MAINT.ELAPSED_ELAPSED k) else t) s

/-- LT_TO_S (R489): every 1 ms LT in us and SYNCED; ELAPSED of the maintenance activities and the time since the release of the
command dies take their millisecond here. -/
def execLtToS (s : State) : Out := s.whileRuns <|
  let s := if s.power.released then { s with power := { s.power with ms := s.power.ms + 1 } } else s
  .next ((s.modSafety (fun x => { x with lt := s.ltNs / 1000 % 2 ^ 32, ltLocked := s.flag TIME.TSTAT_SYNCED })).nHeard.ageActivities)

/-- LEAP_SECOND (R490): the flagged UTC day ends. -/
def execLeapSecond (s : State) : Out := s.whileRuns <|
  .next <|
    if s.sel = 0 then s
    else match (s.dom (s.sel - 1)).best with
      | none => s
      | some m =>
        if m.leap = 0 then s
        else
          let s := s.modDom (s.sel - 1) (fun d => { d with masters := d.masters.map (fun y => { y with
            leap := if y.sender = m.sender ∧ y.port = m.port then 0 else y.leap
            utc := if y.sender = m.sender ∧ y.port = m.port then y.utc.map (fun u => u + m.leap) else y.utc }) })
          s.modNet (fun n => { n with utc := some (s.utcOfs + m.leap), leapAdj := if m.utc.isSome then n.leapAdj else n.leapAdj + m.leap })

/-! ### Time units (R491-R496) -/

/-- Arm a unit (R492). -/
def State.armUnit (s : State) (u : Nat) : State :=
  if s.get (TU.TUCFG_MODE u) = 0 then
    (s.setB (TU.TUSTAT_ARMED u) true).modNet (fun n => { n with units := vmod n.units u (fun x => { x with armedAt := n.lt }) })
  else s.setB (TU.TUSTAT_ARMED u) false

/-- TUCFG is written: a change of EN from 0 to 1 arms the unit, EN = 0 disarms it. -/
def State.tuCfgApply (s : State) (u : Nat) (w : Word) : State :=
  let was := s.flag (TU.TUCFG_EN u)
  let s := s.setReg (TU.TUCFG u) w
  if !s.flag (TU.TUCFG_EN u) then s.setB (TU.TUSTAT_ARMED u) false
  else if was then (if s.get (TU.TUCFG_MODE u) = 0 then s else s.setB (TU.TUSTAT_ARMED u) false)
  else s.armUnit u

/-- Has the target been reached: (now - TARGET) as a signed 32-bit value (R491)? -/
def State.tuReached (s : State) (u : Nat) : Bool :=
  decide (0 ≤ toSigned 32 (s.ltNs % 2 ^ 32 + 2 ^ 32 - s.get (TU.TARGET_TARGET u)))

/-- Does a unit fire in this tick? -/
def State.tuDue (s : State) (u : Nat) : Bool :=
  s.flag (TU.TUSTAT_ARMED u) && s.flag (TU.TUCFG_EN u) && decide (s.get (TU.TUCFG_MODE u) = 0) && s.tuReached u

/-- A unit fires (R492, R493, R495). -/
def State.tuFire (s : State) (u : Nat) : State :=
  let now := s.net.lt
  let dies := (bitsOf 4 (s.get (TU.TUCFG_DST u))).filter (fun d => decide (vget s.net.lastEvent d ≠ some now))
  let s := if dies.isEmpty then s else s.send ⟨.timeEvent, Die.n.code, dies⟩
  let s := s.modNet (fun n => { n with lastEvent := dies.foldl (fun v d => vset v d (some now)) n.lastEvent })
  let late := decide ((vget s.net.units u).armedAt = now)
  let s := if late then s.setB (TU.TUSTAT_ARM_LATE u) true else s
  let s :=
    if s.flag (TU.TUCFG_PIN_EN u) then
      (s.modNet (fun n => { n with units := vmod n.units u (fun x => { x with high := true }) })).send
        ⟨.tioPulse, s.get (TU.TUCFG_PIN u), [max 1 (s.get (TU.TUCFG_PW u))]⟩
    else s
  let s := (s.setB (TU.TUSTAT_FIRED u) true).incMod (TU.TUSTAT_EVT_CNT u)
  let per := s.get (TU.PERIOD_PERIOD u)
  if s.flag (TU.TUCFG_PERIODIC u) && decide (per ≠ 0) then
    s.set (TU.TARGET_TARGET u) (s.get (TU.TARGET_TARGET u) + max 1000 per)
  else s.setB (TU.TUSTAT_ARMED u) false

/-- TU_FIRE (R491-R495). -/
def execTuFire (u : Fin 16) (s : State) : Out := s.whileRuns <| .next (if s.tuDue u then s.tuFire u else s)

/-- A write of TARGET (R492); a unit that fires in this tick fires first (R494). -/
def State.tuTarget (s : State) (u : Nat) (w : Word) : State :=
  let s := (if s.tuDue u then s.tuFire u else s).setReg (TU.TARGET u) w
  if s.flag (TU.TUCFG_EN u) then s.armUnit u else s

/-- TU_TARGET_WRITE. -/
def execTuTargetWrite (u : Fin 16) (w : Word) (s : State) : Out := s.whileRuns <| .next (s.tuTarget u w)

/-- TIO_PULSE_END (R495). -/
def execTioPulseEnd (u : Fin 16) (s : State) : Out := s.whileRuns <|
  .next (s.modNet (fun n => { n with units := vmod n.units u (fun x => { x with high := false }) }))

/-- TU_CAPTURE (R496): an edge of the unit's TIO pin passes its synchroniser, two ticks (5 ns) late. -/
def execTuCapture (u : Fin 16) (rising : Bool) (s : State) : Out := s.whileRuns <|
  .next <|
    let e := s.get (TU.TUCFG_EDGE u)
    if s.flag (TU.TUCFG_EN u) && decide (s.get (TU.TUCFG_MODE u) = 1) && (decide (e = 3) || decide (e = if rising then 1 else 2)) then
      let s := if s.flag (TU.TUSTAT_FIRED u) then s.setB (TU.TUSTAT_CAP_OVR u) true else s
      let s := s.set (TU.CAPT_CAPT u) (ofSigned 32 ((s.ltNs : Int) - 5))
      (s.setB (TU.TUSTAT_FIRED u) true).incMod (TU.TUSTAT_EVT_CNT u)
    else s

/-! ### CAN FD (R497-R501) -/

/-- CCFG is written: an enabled controller is error active, a disabled one stopped. -/
def State.canCfgApply (s : State) (n : Nat) (w : Word) : State :=
  let was := s.flag (CAN.CCFG_EN n)
  let s := s.setReg (CAN.CCFG n) w
  let now := s.flag (CAN.CCFG_EN n)
  if was = now then s
  else if now then s.setReg (CAN.CSTAT n) 0
  else (s.setReg (CAN.CSTAT n) 3).modCan n (fun _ => {})

/-- STATE by the error counters (ISO 11898-1). -/
def State.canState (s : State) (n : Nat) : State :=
  if 2 ≤ s.get (CAN.CSTAT_STATE n) then s
  else s.set (CAN.CSTAT_STATE n) (if 128 ≤ s.get (CAN.CSTAT_TEC n) ∨ 128 ≤ s.get (CAN.CSTAT_REC n) then 1 else 0)

/-- The filter that accepts a frame (R500). -/
def State.canFilter (s : State) (n : Nat) (f : CanFrame) : Option Nat :=
  (List.range 32).find? (fun i => s.flag (CAN.FLT_ID_F_EN n i) && decide (s.flag (CAN.FLT_ID_IDE n i) = f.ide)
    && decide ((f.id ^^^ s.get (CAN.FLT_ID_FID n i)) &&& s.get (CAN.FLT_MASK_FMASK n i) = 0))

/-- A received frame's identifier is a client's request (R523): FD, at least 14 bytes, a base identifier. -/
def State.canClient (s : State) (n : Nat) (f : CanFrame) : Option Nat :=
  let base := s.dnat (DP.CANC_DREQ_BASE n)
  if f.fd && decide (14 ≤ f.data.length) && !f.ide && decide (base ≤ f.id) && decide ((f.id - base) % 2 = 0)
      && decide ((f.id - base) / 2 < s.dnat (DP.CANC_CLIENTS n)) then some ((f.id - base) / 2) else none

/-- CAN_FRAME_RECEIVED (R497, R500, R518, R523). -/
def execCanFrameReceived (n : Fin 4) (f : CanReceived) (s : State) : Out := s.whileRuns <|
  .next <|
    if !s.flag (CAN.CCFG_EN n) || decide (2 ≤ s.get (CAN.CSTAT_STATE n)) || (f.fd && !s.flag (CAN.CCFG_FD_EN n)) then s
    else
      let s := (s.set (CAN.CSTAT_REC n) (if 127 < s.get (CAN.CSTAT_REC n) then 127 else s.get (CAN.CSTAT_REC n) - 1)).canState n
      match s.canFilter n f.toCanFrame with
      | none => s
      | some i =>
        let c := s.get (CAN.FLT_FLOW_FFLOW n i)
        if c = 255 then
          (match s.canClient n f.toCanFrame with | some k => s.send ⟨.dictRequest, 0x10 + n, k :: f.data⟩ | none => s)
        else if decide (c < 128) && (decide (s.use c = 1) || decide (s.use c = 3)) then
          s.flowReceive c f.data (fun l => if l ≤ 8 then l else canLen l) f.sof.toNat
        else s.incSat (CAN.CCNT_RX_LOST_CNT n)

/-- CAN_TRANSMIT_END (R499): the frame offered completes, loses arbitration or meets an error and is retried. -/
def execCanTransmitEnd (n : Fin 4) (how : CanTxEnd) (s : State) : Out := s.whileRuns <|
  .next <|
    if !s.flag (CAN.CCFG_EN n) || s.flag (CAN.CCFG_LISTEN_ONLY n) || decide (2 ≤ s.get (CAN.CSTAT_STATE n)) then s
    else match s.canOffer n, how with
      | none, _ => s
      | some _, .arbitrationLost => s
      | some _, .error => (s.addSat (CAN.CSTAT_TEC n) 8).canState n
      | some (i, b), .done =>
        let s := s.modCan n (fun c => { c with bufs := vset c.bufs i none })
        let s := (s.set (CAN.CSTAT_TEC n) (s.get (CAN.CSTAT_TEC n) - 1)).canState n
        let s := s.send ⟨.canFrame, n, b.frame.id :: canFlags b.frame :: b.frame.data⟩
        match b.flow with
        | some f => s.streamFold (s.streamUnits 3 f) (b.frame.data.take (if s.use f = 3 then 12 + b.frame.data.getD 0 0 else s.dnat (DP.FC_LEN f)))
        | none => s

/-- CAN_BUS_OFF (R501). -/
def execCanBusOff (n : Fin 4) (s : State) : Out := s.whileRuns <|
  .next <|
    if !s.flag (CAN.CCFG_EN n) then s
    else ((s.set (CAN.CSTAT_STATE n) 2).incSat (CAN.CCNT_BOFF_CNT n)).modCan n (fun c => { c with recovering := s.flag (CAN.CCFG_AUTO_RECOV n) })

/-- A write of 1 to RECOVER (R501). -/
def State.canRecover (s : State) (n : Nat) : State :=
  if s.get (CAN.CSTAT_STATE n) = 2 then s.modCan n (fun c => { c with recovering := true }) else s

/-- RECOVER. -/
def execRecover (n : Fin 4) (s : State) : Out := s.whileRuns <| .next (s.canRecover n)

/-- CAN_RECOVERY_COMPLETE (R501): the controller is error active with both error counters 0. -/
def execCanRecoveryComplete (n : Fin 4) (s : State) : Out := s.whileRuns <|
  .next <|
    if decide (s.get (CAN.CSTAT_STATE n) = 2) && (vget s.net.cans n).recovering
    then (s.setReg (CAN.CSTAT n) 0).modCan n (fun c => { c with recovering := false }) else s

end Sys2Proof.Machine
end

