-- ==== Sys2Proof/Machine/Keeper.lean ====
section
/-!
DEFINITION. Sys2Proof/Machine/Keeper.lean: the keeper island (chapter 15): rail, harvester, PG_K, the energy account and the
burst queue, what a burst captures, wake requests, the lifetime record and its merges.  The end of a burst stands in
Bursts.lean, since a persisted value is applied there.
-/

namespace Sys2Proof.Machine

/-- Change the dictionary engine. -/
def State.modDict (s : State) (f : Dict → Dict) : State := { s with dict := f s.dict }

/-- Change the keeper. -/
def State.modKeeper (s : State) (f : Keeper → Keeper) : State := { s with keeper := f s.keeper }

/-- Change the lifetime record. -/
def State.modLife (s : State) (f : Life → Life) : State := { s with life := f s.life }

/-- Change the system region's working content and ask for its commit. -/
def State.modSys (s : State) (f : SysRegion → SysRegion) : State := ({ s with sys := f s.sys }).burstRequest 2

/-! ### Stores, harvester, PG_K (R537-R549) -/

/-- R539: the harvester is stopped by VKIN. -/
def State.harvestStopped (s : State) : Bool := s.flag KPR.KSTAT_VKIN_ON && !s.flag KPR.KCFG_VK_HV

/-- HMODE (R539, R542, R545): an idle harvester resumes only at its check (`check`). -/
def State.refreshHarvest (s : State) (check : Bool) : State :=
  let vl := s.get KPR.VST_VSTL_MV
  let rich := if s.keeper.rich then decide (s.get KPR.KV_V_RICH ≤ vl + 50) else decide (s.get KPR.KV_V_RICH ≤ vl)
  let was := s.get KPR.KSTAT_HMODE
  let s := s.modKeeper (fun k => { k with rich := rich })
  if s.harvestStopped then s.set KPR.KSTAT_HMODE 3
  else if !s.flag KPR.KSTAT_HV_PRES || s.flag KPR.KSTAT_STL_FULL || !s.flag KPR.KCFG_HV_EN then s.set KPR.KSTAT_HMODE 0
  else if was = 0 ∨ was = 3 then s.set KPR.KSTAT_HMODE (if check then (if rich then 2 else 1) else 0)
  else s.set KPR.KSTAT_HMODE (if rich then 2 else 1)

/-- VKIN_CHANGE (R537): VKIN has crossed its threshold. -/
def execVkinChange (on : Bool) (s : State) : Out :=
  .next (if s.keeper.powered then (s.setB KPR.KSTAT_VKIN_ON on).refreshHarvest false else s)

/-- Ten times the capacitance that R549 takes, in mF. -/
def State.cap10 (s : State) : Nat := if s.flag KPR.KSTAT_CAP_VALID then 10 * s.get KPR.LCAP_LCAP else 8 * s.get KPR.KRES_STL_CAP

/-- The stored energy in uJ times 20,000 (R549): C in mF/10, voltages in mV. -/
def State.energy (s : State) : Nat :=
  let v := s.get KPR.VST_VSTL_MV
  let p := s.get KPR.KPG_V_PGL
  if v ≤ p then 0 else s.cap10 * (v * v - p * p)

/-- PG_K_CHANGE (R446-R448, R547): PG_K at an evaluation by the rail in mV; lost while the main domains run, it makes the next start
cold. -/
def State.evaluatePg (s : State) (rail : Nat) : State :=
  if s.get KPR.KPG_V_PGH ≤ rail then s.setB KPR.KSTAT_PG_K true
  else if rail < s.get KPR.KPG_V_PGL then
    let s := if s.flag KPR.KSTAT_PG_K && s.mainRuns then s.modKeeper (fun k => { k with first := true }) else s
    s.setB KPR.KSTAT_PG_K false
  else s

/-- The cold-start oscillator charges VSTQ from below 1.0 V up to 1.2 V while VKIN is off (R541). -/
def State.coldStart (s : State) (vstq : Nat) : State :=
  s.modKeeper (fun k => { k with starting := !s.flag KPR.KSTAT_VKIN_ON && (decide (vstq < 1000) || (k.starting && decide (vstq < 1200))) })

/-- VKIN_ON at an evaluation (R537). -/
def State.evaluateVkin (s : State) (vkin : Nat) : State :=
  if 3000 < vkin then s.setB KPR.KSTAT_VKIN_ON true else if vkin < 2900 then s.setB KPR.KSTAT_VKIN_ON false else s

/-- The keeper rail: VKIN while VKIN_ON = 1, VSTQ otherwise (R537). -/
def State.rail (s : State) (vkin vstq : Nat) : Nat := if s.flag KPR.KSTAT_VKIN_ON then vkin else vstq

/-- KEEPER_EVALUATION (R546): VKIN, HVIN, VSTQ and VSTL in mV; before its power-on the keeper evaluates nothing, and only the cold-start oscillator
acts. -/
def execKeeperEvaluation (vkin : KeeperInputs) (vstq vstl : BitVec 16) (s : State) : Out :=
  .next <|
    let q := vstq.toNat
    let l := vstl.toNat
    if !s.keeper.powered then s.coldStart q
    else
      let s := (((s.evaluateVkin vkin.vkin.toNat).coldStart q).set KPR.VST_VSTQ_MV q).set KPR.VST_VSTL_MV l
      let s := if 2400 < q ∧ s.keeper.running ≠ some 10 then s.setB KPR.KSTAT_CHG_SW true else if q < 2300 then s.setB KPR.KSTAT_CHG_SW false else s
      let max := s.get KPR.KV_VSTL_MAX
      let s := if max ≤ l then s.setB KPR.KSTAT_STL_FULL true else if l + 50 < max then s.setB KPR.KSTAT_STL_FULL false else s
      let s := s.setB KPR.KSTAT_HV_PRES (decide (20 ≤ vkin.hvin.toNat))
      let s := (s.evaluatePg (s.rail vkin.vkin.toNat q)).refreshHarvest false
      let s := s.modKeeper (fun k => { k with est := s.energy })
      s.set KPR.E_ST_E_ST (openRead ((s.keeper.est : Rat) / 20000)).toNat

/-- The slot of an activity of the keeper, MA6 or MA7. -/
def State.keeperSlot (s : State) (code : Nat) : Option Nat :=
  (List.range 16).find? (fun k => match s.slotKey k with | some a => decide (a.code = code) | none => false)

/-- An activity of the keeper ends; while the main domains are in reset its result waits for the next start (R597). -/
def State.endKeeper (s : State) (code result : Nat) : State :=
  let s := s.modKeeper (fun k => if code = 6 then { k with ma6 := [] } else { k with capTest := false })
  if s.mainRuns then
    match s.keeperSlot code with
    | some k => s.endActivity k result
    | none => s
  else s.modKeeper (fun k => { k with maintDone := k.maintDone ++ [(code, result)] })

/-- What the keeper held beside the MRAM is lost with its power: every region holds its last committed content. -/
def State.dropWorking (s : State) : State :=
  let m := s.keeper.mram
  let s := { s with sys := m.sys }
  let s := s.modLife (fun l => { l with histWait := [], repWait := none, work := l.comm, merge := none, snap8 := none, snap9 := none
                                        nextSeq := l.nextSeq - l.histWait.length })
  let s := s.modSafety (fun x => { x with log := m.log, pw := m.saf.pw, nextLog := match m.log.head? with | some e => e.lseq + 1 | none => 0 })
  foldOver [0, 1, 2] (fun i t => t.modMeter i (fun p => { p with waiting := none })) s

/-- KEEPER_POWER_ON (R540, R568): the RTC and every keeper register take their reset values, the MRAM stays; what happened without the keeper
is not recorded. -/
def execKeeperPowerOn (s : State) : Out :=
  .next <|
    if s.keeper.powered then s
    else
      let regs := [RTC.RTC_SUB, RTC.RTC_SEC, RTC.RTC_TRIM, RTC.RTC_FLAG, KPR.KCFG, KPR.KV, KPR.KPG, KPR.KRES, KPR.WAKE_AT, KPR.KSTAT, KPR.VST,
        KPR.KVOC, KPR.E_ST, KPR.LCAP, KPR.KQ]
      let s := regs.foldl (fun t a => t.setReg a (resetWord a)) s.dropWorking
      let s := s.modKeeper (fun k => { mram := k.mram, powered := true, first := true, maintDone := k.maintDone, regions := k.regions, starting := k.starting })
      (s.countEvent .kpor).enterFault 9 8 0xFF 0 0

/-- KEEPER_BROWN_OUT (R540, R555): the keeper powers off; what was waiting or being written is lost. -/
def execKeeperBrownOut (s : State) : Out :=
  .next <|
    if !s.keeper.powered then s
    else
      let s := s.dropWorking
      let s := ((s.setB KPR.KSTAT_PG_K false).set KPR.KQ_QUEUE 0).setB KPR.KSTAT_BURST false
      let s := if s.keeper.ma6 = [] then s else s.endKeeper 6 1
      let s := if s.keeper.capTest || decide (s.keeper.running = some 10) then s.endKeeper 7 1 else s
      s.modKeeper (fun k => { mram := k.mram, powered := false, maintDone := k.maintDone, regions := k.regions, starting := k.starting })

/-- A voltage in mV, for its register. -/
def mvOf (x : Rat) : Nat := min 65535 (openRead x).toNat

/-- The HVIN target, exact and as its register shows it. -/
def State.setTarget (s : State) (t : Rat) : State := (s.set KPR.KVOC_HVREG_MV (mvOf t)).modKeeper (fun k => { k with target := t })

/-- LEAN_VOC_MEASURE (R543): Voc in mV; HVIN is regulated at K x Voc. -/
def execLeanVocMeasure (voc : BitVec 16) (s : State) : Out :=
  .next <|
    if !s.keeper.powered || decide (s.get KPR.KSTAT_HMODE ≠ 1) then s
    else
      let f := s.get KPR.KCFG_K_FOC
      let k : Rat := if f ≠ 0 then (f : Rat) / 256 else if s.get KPR.KCFG_SRC_TYPE = 1 then 1 / 2 else 19 / 25
      (s.set KPR.KVOC_VOC_MV voc.toNat).setTarget (k * voc.toNat)

/-- RICH_MPPT_STEP (R544): the charge delivered in the interval that ends; a new Voc every 256 s. -/
def execRichMpptStep (charge : Nat) (voc : Option (BitVec 16)) (s : State) : Out :=
  .next <|
    if !s.keeper.powered || decide (s.get KPR.KSTAT_HMODE ≠ 2) then s
    else
      let s := match voc with | some v => s.set KPR.KVOC_VOC_MV v.toNat | none => s
      let up := if s.keeper.charge < charge then s.keeper.up else !s.keeper.up
      let v : Rat := s.get KPR.KVOC_VOC_MV
      let t : Rat := s.keeper.target + (if up then v / 64 else -(v / 64))
      (s.setTarget (max (v * 3 / 10) (min (v * 9 / 10) t))).modKeeper (fun k => { k with up := up, charge := charge })

/-- HARVESTER_IDLE_CHECK (R545): `present`: HVIN is at or above 20 mV. -/
def execHarvesterIdleCheck (present : Bool) (s : State) : Out :=
  .next (if s.keeper.powered then (s.setB KPR.KSTAT_HV_PRES present).refreshHarvest true else s)

/-! ### Bursts (R550-R557) -/

/-- Has the region a valid copy (R556)? -/
def RegionCopies.valid (r : RegionCopies) : Bool := r.okA || r.okB

/-- Is copy A the one that a commit writes: its CRC fails, or its SEQ is older by signed 32-bit difference while copy B is good (R555)? -/
def RegionCopies.writesA (r : RegionCopies) : Bool := !r.okA || (r.okB && (r.seqA - r.seqB).msb)

/-- A commit begins to write its copy, whose CRC fails from then on. -/
def RegionCopies.begun (r : RegionCopies) : RegionCopies :=
  if r.writesA then { r with okA := false } else { r with okB := false }

/-- The last write of a commit: the header, with the other copy's SEQ + 1. -/
def RegionCopies.closed (r : RegionCopies) : RegionCopies :=
  if r.writesA then { r with okA := true, seqA := r.seqB + 1 } else { r with okB := true, seqB := r.seqA + 1 }

/-- Change the copies of a region. -/
def State.modCopies (s : State) (r : Nat) (f : RegionCopies → RegionCopies) : State :=
  s.modKeeper (fun k => { k with regions := vmod k.regions r f })

/-- Does an entry of the change log wait for its burst (R557)? -/
def State.logWaits (s : State) : Option LogEntry :=
  let top := match s.keeper.mram.log.head? with | some e => e.lseq + 1 | none => 0
  s.safety.log.reverse.find? (fun e => decide (top ≤ e.lseq))

/-- 20,000 times the declared cost of the next burst of a class in uJ (R551 and the table of bursts); 10 is MA7's, C x VSTL x 40 mV
(R559). -/
def State.burstCost (s : State) (c : Nat) : Nat :=
  match c with
  | 0 => 400000
  | 1 => if s.logWaits.isSome then 220000 else 540000
  | 2 => 380000
  | 3 => 220000
  | 4 => 860000
  | 5 => 540000
  | 6 => 1200000
  | 7 => 860000
  | 8 => if s.power.good then 540000 else 600000
  | 9 => 2500000
  | _ => 80 * s.cap10 * s.get KPR.VST_VSTL_MV

/-- R550: does a burst of a cost (times 20,000) start now, by the energy of the last evaluation? -/
def State.affords (s : State) (cost : Nat) : Bool :=
  s.flag KPR.KSTAT_VKIN_ON || decide (cost + 20000 * s.get KPR.KRES_E_RES ≤ s.keeper.est)

/-- DEFERRED of the slot whose burst waits (offset 0x0040). -/
def State.showDeferred (s : State) (c : Nat) (b : Bool) : State :=
  if c = 10 ∨ c ∈ s.keeper.ma6 then
    match s.keeperSlot (if c = 10 then 7 else 6) with
    | some k => s.setB (MAINT.SLOTS_DEFERRED k) b
    | none => s
  else s

/-- A burst that does not pass is deferred: DEFER_CNT and the event counter count it once (R552, R568). -/
def State.deferBurst (s : State) (c : Nat) : State :=
  if s.keeper.deferred.testBit c then s
  else
    let s := ((s.incSat KPR.KQ_DEFER_CNT).set KPR.KQ_LAST_DEFER c).countEvent .defer
    (s.modKeeper (fun k => { k with deferred := k.deferred ||| 2 ^ c })).showDeferred c true

/-- BURST_REQUEST (R553). -/
def execBurstRequest (c : Fin 10) (s : State) : Out := .next (if s.keeper.powered then s.burstRequest c else s)

/-- Add sparse counts. -/
def addCounts (a b : List (Nat × Nat)) : List (Nat × Nat) :=
  b.foldl (fun m x => Assoc.put m x.1 ((Assoc.get m x.1).getD 0 + x.2)) a

/-- Subtract sparse counts. -/
def subCounts (a b : List (Nat × Nat)) : List (Nat × Nat) :=
  (b.foldl (fun m x => Assoc.put m x.1 ((Assoc.get m x.1).getD 0 - x.2)) a).filter (fun x => decide (x.2 ≠ 0))

/-- Counters with a merge's increments of times and switchings. -/
def LifeCounts.merged (c : LifeCounts) (i : LifeInc) (sec : Nat) : LifeCounts :=
  { c with temps := addCounts c.temps i.temps, dcl := addCounts c.dcl i.dcl, lastMerge := sec
           sw := i.sw.foldl (fun v x => vmod v x.1 (fun n => n + x.2)) c.sw }

/-- The bursts that wait: the classes of the queue, then MA7. -/
def State.waitingBursts (s : State) : List Nat := bitsOf 10 (s.get KPR.KQ_QUEUE) ++ (if s.keeper.capTest then [10] else [])

/-- The double-copy regions that a burst of class `c` writes, `m` the metering point of a class 5 burst: one that only MA6 asked for
(`old`) writes MP0, MP1 and MP2 in turn; of the append regions it writes none (R557, R558). -/
def State.burstRegions (s : State) (c m : Nat) (old : Bool) : List Nat :=
  match c with
  | 1 => if old || s.logWaits.isNone then [3] else []
  | 2 => [0]
  | 4 => [1]
  | 5 => [4 + (if old then 3 - min 3 (s.keeper.ma6.count 5) else m)]
  | 6 => [2]
  | 7 => [7]
  | 8 => [8]
  | 9 => [9]
  | _ => []

/-- What a burst takes that is not a rewrite: the answers that wait for its class, and for the safety region the entry to be logged. -/
def State.takeWaiting (s : State) (c : Nat) (regions : List Nat) : State :=
  let s := s.modDict (fun d => { d with commit := d.commit.map (fun w => if commitClass w.key = c then { w with taken := true } else w) })
  if c = 1 ∧ regions ≠ [] then
    (s.modSafety (fun x => { x with asked := x.asked.map (fun a => { a with taken := true }) })).modKeeper (fun k => { k with safRegion := false })
  else s

/-- The content that leaves the working copies with the start of a burst of class `c`. -/
def State.takeContent (s : State) (c meter : Nat) : State :=
  if c = 5 then s.modMeter meter (fun p => { p with waiting := none })
  else if c = 8 then s.modLife (fun l => { l with snap8 := l.merge })
  else if c = 9 then s.modLife (fun l => { l with snap9 := l.merge })
  else s

/-- A burst of class `c` starts with the content that its request brought; one that only MA6 asked for writes what they hold
already. -/
def State.startBurst (s : State) (c : Nat) : State :=
  let log := match s.logWaits with | some e => (e :: s.keeper.mram.log).take 1024 | none => s.keeper.mram.log
  let meter := ([0, 1, 2].find? (fun i => (s.meter i).waiting.isSome)).getD 0
  let sec := s.get RTC.RTC_SEC_SEC
  let old := s.keeper.rewrite.testBit c
  let regions := s.burstRegions c meter old
  let s := regions.foldl (fun t r => t.modCopies r RegionCopies.begun) s
  let s := s.showDeferred c false
  let s := (if c = 10 then s else s.clrBits KPR.KQ_QUEUE (2 ^ c)).setB KPR.KSTAT_BURST true
  let s := s.modKeeper (fun k => { k with
    running := some c, writing := regions, deferred := k.deferred &&& (2047 ^^^ 2 ^ c), snap := { k.wait with log := log }
    meter := meter, wakeOut := k.wakeOut || decide (c = 0)
    appTaken := s.dict.appCommits.length, rewriting := old, rewrite := k.rewrite &&& (1023 ^^^ 2 ^ c)
    capTest := k.capTest && decide (c ≠ 10)
    snapMeter := if c = 5 ∧ !old then (s.meter meter).waiting else k.snapMeter
    snapLife := if c = 8 then s.life.work.merged (s.life.merge.getD {}) (if s.life.merge.isSome then sec else s.life.work.lastMerge) else k.snapLife })
  if c = 10 then (if old then s else s.takeWaiting c regions).setB KPR.KSTAT_CHG_SW false
  else if old then s
  else (s.takeWaiting c regions).takeContent c meter

/-- BURST_START (R550, R552): the lowest waiting class that passes starts, those before it are deferred. -/
def execBurstStart (s : State) : Out :=
  .next <|
    if !s.keeper.powered || s.keeper.running.isSome then s
    else
      let pass := s.waitingBursts.find? (fun c => s.affords (s.burstCost c))
      let held := s.waitingBursts.filter (fun c => match pass with | some p => decide (c < p) | none => true)
      let s := held.foldl (fun t c => t.deferBurst c) s
      match pass with
      | none => s
      | some c => s.startBurst c

/-- The end of a burst: a class asked for again meanwhile is queued anew (R553). -/
def State.burstOver (s : State) : State :=
  let s := (s.orBits KPR.KQ_QUEUE s.keeper.again).setB KPR.KSTAT_BURST false
  s.modKeeper (fun k => { k with running := none, again := 0, rewriting := false, writing := [] })

/-! ### Wake requests (R208, R554) -/

/-- A wake request queues one class 0 burst; requests while a wake pulse is queued or runs join it. -/
def State.wakeRequest (s : State) : State :=
  if !s.keeper.powered || decide (s.keeper.running = some 0) then s else s.orBits KPR.KQ_QUEUE 1

/-- The wake request of a comparator (R208): OUT with WAKE_EN, held under a check (R209); in standby only M2 and M3 stay powered, by the MODE
latched at the enable (R200). -/
def State.cmpWakes (s : State) (d i : Nat) : Bool :=
  (if s.flag (CMP.CSTAT_CHK_ACT d i) then (s.cmp d i).heldWake else s.flag (CMP.CCFG_WAKE_EN d i) && s.flag (CMP.CSTAT_OUT d i))
    && (!s.power.standby || decide (2 ≤ (s.cmp d i).mode))

/-- WAKE_REQUEST (R208, R554): of comparator `i` of die `d`. -/
def execWakeRequest (d : Fin 4) (i : Fin 16) (s : State) : Out := .next (if s.cmpWakes d i then s.wakeRequest else s)

/-- WAKE_ALARM (R554): the RTC reaches WAKE_AT; the persisted value stays (R57), and no start makes an alarm of a second that has passed. -/
def execWakeAlarm (s : State) : Out :=
  .next <|
    let at0 := s.get KPR.WAKE_AT_WAKE_AT
    if s.keeper.powered && decide (at0 ≠ 0) && decide (at0 = s.get RTC.RTC_SEC_SEC) then (s.setReg KPR.WAKE_AT 0).wakeRequest else s

/-- WAKE_PULSE_END (R551). -/
def execWakePulseEnd (s : State) : Out :=
  .next (if s.keeper.running = some 0 then (s.modKeeper (fun k => { k with wakeOut := false })).burstOver else s)

/-! ### The lifetime record (R560-R567) -/

/-- The temperature bin of a temperature in 1/1000 degree (R561). -/
def tempBin (milli : Int) : Nat := (max 0 (min 31 ((milli + 40000) / 5000))).toNat

/-- TEMP_BIN (R561): a histogram gains seconds. -/
def State.addTemp (s : State) (h : Nat) (milli : Int) (secs : Nat) : State :=
  s.modLife (fun l => { l with inc := { l.inc with temps := addCounts l.inc.temps [(32 * h + tempBin milli, secs)] } })

/-- Does the condition of an HOURS counter hold (R560)? -/
def State.hourHolds (s : State) (k : Nat) : Bool :=
  let powered := s.power.good && s.flag START.STSTAT_BOOT_DONE
  match k with
  | 0 => powered
  | 1 => powered && !s.flag SFN.S_STATE_STO && !s.flag SFN.S_STATE_LOCKED
  | 2 => (List.range 4).any (fun d => decide (s.get (GSU.GCFG_BRIDGES d) ≠ 0) && s.flag (RTS.RTSTAT_GCON_CLOSED d))
  | 3 => !s.power.good
  | k + 4 => powered && decide (s.get LTN.LTMODE_APP_MODE = k)

/-- Failed attempts within 10 min of a second (R455). -/
def failedWithin (l : List BootAttempt) (sec : Nat) : Nat :=
  (l.filter (fun a => a.counts && decide (a.result ≠ 0) && decide (sec ≤ a.sec + 600) && decide (a.sec ≤ sec + 600))).length

/-- RTC_SECOND (R560, R561, R422): the second of the RTC; the junction temperatures of the eight dies by their codes, then the keeper's, in
1/1000 degree. -/
def execRtcSecond (temps : List Int) (s : State) : Out :=
  .next <|
    if !s.keeper.powered then s
    else
      let held := (List.range 8).filter (fun k => s.hourHolds k)
      let s := (s.setReg RTC.RTC_SUB 0).setReg RTC.RTC_SEC (s.reg RTC.RTC_SEC + 1)
      let sec := s.get RTC.RTC_SEC_SEC
      let s := s.modLife (fun l => { l with work := { l.work with hours := held.foldl (fun v k => vmod v k (fun n => n + 1)) l.work.hours } })
      if s.power.good then
        let s := foldOver (List.range 8) (fun h t => t.addTemp h (temps.getD h 0) 1) s
        let s := { s with sys := { s.sys with powered := s.sys.powered + 1, gtSecs := s.sys.gtSecs + 1 } }
        let s := if 2592000 ≤ s.sys.gtSecs then s.setB SFN.SFSTAT_GT_DUE true else s
        s.set START.STSTAT_ATT_FAIL (failedWithin s.sys.attempts sec)
      else if sec % 64 = 0 then s.addTemp 8 (temps.getD 8 0) 64
      else s

/-- DCL_HIST_SECOND (R562): the latest forwarded result of DCL_SRC within the second, if there was one. -/
def execDclHistSecond (res : Option (BitVec 32)) (s : State) : Out := s.whileRuns <|
  .next <|
    if !s.power.good then s
    else
      let fwd := s.flag (ADC.ACFG_FWD_N (s.get LTN.DCLSRC_DIE) (s.get LTN.DCLSRC_CORE))
      match res with
      | some w =>
        if fwd && w.getLsbD 30 then
          let code : Int := if selDiff (getBits w 24 5) then toSigned 16 (getBits w 0 16) else (getBits w 0 16 : Nat)
          let mv := code * s.getS LTN.DCL_GAIN_DCL_GAIN / 65536
          let bin := (max 0 (min 31 (mv / (1000 * (max 1 (s.get LTN.DCL_BIN_DCL_BIN) : Nat))))).toNat
          s.modLife (fun l => { l with inc := { l.inc with dcl := addCounts l.inc.dcl [(bin, 1)] } })
        else s.incSat LTN.LTCNT_DCL_MISS
      | none => s.incSat LTN.LTCNT_DCL_MISS

/-- What a merge collects: the increments of every drive die in service, of N and of the command dies (R567). -/
def State.collectMerge (s : State) : LifeInc where
  temps := s.life.inc.temps.filter (fun x => !(decide (2 ≤ x.1 / 32) && decide (x.1 / 32 < 6) && (vget s.drives (x.1 / 32 - 2)).retired))
  dcl := s.life.inc.dcl
  sw := ((List.range 28).filter (fun n => !(vget s.drives (n / 7)).retired && decide ((vget s.ports n).switches ≠ 0))).map
    (fun n => (if n % 7 = 6 then 24 + n / 7 else 6 * (n / 7) + n % 7, (vget s.ports n).switches))
  rain := ((List.range 28).filter (fun n => !(vget s.drives (n / 7)).retired)).flatMap
    (fun n => (vget s.cycles n).cells.map (fun c => (256 * (if n % 7 = 6 then 24 + n / 7 else 6 * (n / 7) + n % 7) + c.1, c.2)))

/-- The dies subtract what a commit of class 8 holds (R566). -/
def State.subtract8 (s : State) (i : LifeInc) : State :=
  let s := s.modLife (fun l => { l with inc := { l.inc with temps := subCounts l.inc.temps i.temps, dcl := subCounts l.inc.dcl i.dcl }, done8 := none })
  i.sw.foldl (fun t x =>
    let n := if 24 ≤ x.1 then 7 * (x.1 - 24) + 6 else 7 * (x.1 / 6) + x.1 % 6
    { t with ports := vmod t.ports n (fun p => { p with switches := p.switches - x.2 }) }) s

/-- The dies subtract what a commit of class 9 holds. -/
def State.subtract9 (s : State) (i : LifeInc) : State :=
  let s := s.modLife (fun l => { l with done9 := none })
  i.rain.foldl (fun t x =>
    let p := x.1 / 256
    let n := if 24 ≤ p then 7 * (p - 24) + 6 else 7 * (p / 6) + p % 6
    { t with cycles := vmod t.cycles n (fun c => { c with cells := subCounts c.cells [(x.1 % 256, x.2)] }) }) s

/-- N reports what the keeper has committed of a merge. -/
def State.reportMerge (s : State) : State :=
  let whole := s.life.done8.isSome && s.life.done9.isSome
  let s := match s.life.done8 with | some i => s.subtract8 i | none => s
  let s := match s.life.done9 with | some i => s.subtract9 i | none => s
  if whole then (s.incMod LTN.LTCNT_MERGE_CNT).modLife (fun l => { l with merge := none }) else s

/-- N starts a merge (R567). -/
def State.startMerge (s : State) : State :=
  let s := s.reportMerge
  let i := s.collectMerge
  ((s.modLife (fun l => { l with merge := some i })).burstRequest 8).burstRequest 9

/-- Is the second of the RTC one of a merge (R567)? -/
def State.mergeSecond (s : State) : Bool := decide (s.get RTC.RTC_SEC_SEC % 600 = 0)

/-- LIFETIME_MERGE (R567): at its seconds; a controlled stop and a retirement start theirs themselves. -/
def execLifetimeMerge (s : State) : Out := .next (if s.mainRuns && s.mergeSecond then s.startMerge else s)

/-- PARKED_MERGE (R567): the keeper commits its own counters. -/
def execParkedMerge (s : State) : Out :=
  .next <|
    if s.power.good || !s.keeper.powered || !s.mergeSecond then s
    else (s.modLife (fun l => { l with merge := some { temps := l.inc.temps, dcl := l.inc.dcl } })).burstRequest 8

/-- MERGE_COMMIT_REPORT (R566): N reports the commit once both bursts of the merge are complete. -/
def execMergeCommitReport (s : State) : Out := s.whileRuns <|
  .next (if s.life.done8.isSome && s.life.done9.isSome then s.reportMerge else s)

end Sys2Proof.Machine
end

