-- ==== Sys2Proof/Machine/Clocks.lean ====
section
/-!
DEFINITION. Sys2Proof/Machine/Clocks.lean: PLLs, band tables, hopping, the clock monitor and the real-time clock (chapter 3).
-/

namespace Sys2Proof.Machine

/-- Change a PLL, by the die's code. -/
def State.modPll (s : State) (e : Die) (f : Pll → Pll) : State := { s with plls := vmod s.plls e.code f }

/-- Is lock evaluation suspended (R72)? -/
def State.settling (s : State) (e : Die) : Bool := (vget s.plls e.code).settling

/-! ### Bands (R61, R65-R67) -/

/-- The slots in use of a die (R61): the latched list while hopping is active, otherwise SLOT0 to SLOT(n - 1). -/
def State.slotsInUse (s : State) (e : Die) : List Nat :=
  if !e.isDrive then [0]
  else
    let h := s.hop e.driveNo
    let n := if h.active then h.n else min 8 (s.get (CLK.HOP_CFG_HOP_LEN e))
    List.range (max 1 n)

/-- The temperature class of a search (R65): 1 at 60 degrees or above. -/
def tempClass (tj : Int) : Nat := if 60 ≤ tj then 1 else 0

/-- What a search writes into an entry: VALID, the temperature, the band. -/
def bandWord (band : Nat) (tj : Int) : Word := BitVec.ofNat 32 (2 ^ 31 + 256 * ofSigned 8 tj + band % 64)

/-- A search has chosen a band for the slots given (R65): their entries of the present class, no other. -/
def State.writeBands (s : State) (e : Die) (slots : List Nat) (band : Nat) (tj : Int) : State :=
  slots.foldl (fun t k => t.setReg (CLK.BAND e (2 * k + tempClass tj)) (bandWord band tj)) s

/-- A band search at a start or at a lock ends (R61): the band for every slot in use, or for SLOT0 alone where no single band
covers them. -/
def State.bandSearch (s : State) (e : Die) (band : Nat) (tj : Int) (covers : Bool) : State :=
  let s := s.writeBands e (if covers then s.slotsInUse e else [0]) band tj
  (s.set (CLK.PLL_STAT_BAND e) band).setB (CLK.PLL_STAT_SEARCH_ACT e) false

/-- The band tables of every die, by register. -/
def State.bandTables (s : State) : List (Nat × Word) :=
  (Die.all.flatMap (fun e => (List.range 16).map (fun k => (CLK.BAND e k, s.reg (CLK.BAND e k))))).filter (fun p => decide (p.2 ≠ 0))

/-- The keeper is asked to commit the band tables (R66). -/
def State.commitBands (s : State) : State :=
  let b := s.bandTables
  s.modSys (fun x => { x with bands := b })

/-- The band that a lock of a slot uses (R67): the entry of the present class, else of the other class. -/
def State.bandFor (s : State) (e : Die) (slot : Nat) (hot : Bool) : Option Nat :=
  let w := if hot then 1 else 0
  if s.flag (CLK.BAND_VALID e (2 * slot + w)) then some (s.get (CLK.BAND_BAND e (2 * slot + w)))
  else if s.flag (CLK.BAND_VALID e (2 * slot + (1 - w))) then some (s.get (CLK.BAND_BAND e (2 * slot + (1 - w))))
  else none

/-- BAND_SEARCH_COMPLETE (R61): a search at a lock under R67 ends. -/
def execBandSearchComplete (e : Die) (band : BitVec 6) (tj : Int) (covers : Bool) (s : State) : Out := s.whileRuns <|
  .next (s.bandSearch e band.toNat tj covers)

/-! ### Lock -/

/-- A PLL declares lock (R62, R64, R67): it leaves holdover; a drive die that does not hop runs at SLOT0 (R616). -/
def State.pllLock (s : State) (e : Die) (hot : Bool) : State :=
  let s := (s.setB (CLK.PLL_STAT_LOCK e) true).setB (CLK.PLL_STAT_HOLDOVER e) false
  let s := match s.bandFor e (s.get (CLK.PLL_STAT_SLOT_NOW e)) hot with
    | some b => s.set (CLK.PLL_STAT_BAND e) b
    | none => s
  if e.isDrive && !(s.hop e.driveNo).active then (s.runAtSlot0 e.driveNo).refreshHopNext e.driveNo else s

/-- PLL_LOCK (R62): `hot`: the junction temperature is 60 degrees or above. -/
def execPllLock (e : Die) (hot : Bool) (s : State) : Out := s.whileRuns <| .next (if s.settling e then s else s.pllLock e hot)

/-- PLL_LOSS_OF_LOCK (R63): counted; a drive die reports it to both command dies. -/
def execPllLossOfLock (e : Die) (s : State) : Out := s.whileRuns <|
  .next (if !s.flag (CLK.PLL_STAT_LOCK e) || s.settling e then s
    else
      let s := (s.setB (CLK.PLL_STAT_LOCK e) false).incSat (CLK.PLL_STAT_LOL_CNT e)
      if e.isDrive then s.event .flagEvent e [CLK.PLL_STAT e, s.get (CLK.PLL_STAT_LOL_CNT e)] else s)

/-- PLL_HOLDOVER (R64). -/
def execPllHoldover (e : Die) (s : State) : Out := s.whileRuns <|
  .next ((s.setB (CLK.PLL_STAT_HOLDOVER e) true).setB (CLK.PLL_STAT_REF_LOST e) true)

/-! ### Hopping (R68-R74) -/

/-- Does an active group differ from the hop-master group in period or phase (R69)?  The phase is where in its carrier period a group
stands; a variable-period group always differs (R94). -/
def State.groupsDiffer (s : State) (d : Nat) : Bool :=
  match s.hopMaster d with
  | none => false
  | some m => (List.range 4).any (fun k => s.grpRuns d k
      && (variableMode (s.grp d k).mode || decide ((s.grp d k).aPer ≠ (s.grp d m).aPer) || decide (s.carrierPos d k ≠ s.carrierPos d m)))

/-- Does a valid entry of a slot name a band? -/
def State.slotHasBand (s : State) (e : Die) (k band : Nat) : Bool :=
  [2 * k, 2 * k + 1].any (fun q => s.flag (CLK.BAND_VALID e q) && decide (s.get (CLK.BAND_BAND e q) = band))

/-- HOP_EN changes from 0 to 1 (R68-R70): the configuration is latched, or refused. -/
def State.hopStart (s : State) (d : Nat) : State :=
  let e := Die.drive d
  let list := List.range (max 1 (min 8 (s.get (CLK.HOP_CFG_HOP_LEN e))))
  let cfgErr := list.any (fun k => !slotInRange (s.reg (CLK.SLOT e k)).toNat) || s.groupsDiffer d
  let bandErr := !(List.range 64).any (fun b => list.all (fun k => s.slotHasBand e k b))
  let s := if cfgErr then s.setB (CLK.HOP_FLAG_HOP_CFG_ERR e) true else s
  let s := if bandErr then s.setB (CLK.HOP_FLAG_HOP_BAND_ERR e) true else s
  if cfgErr || bandErr then s
  else
    let slots := Vector.ofFn (fun k : Fin 8 => (s.reg (CLK.SLOT e k)).toNat)
    let mode := s.get (CLK.HOP_CFG_HOP_MODE e)
    let div := s.get (CLK.HOP_CFG_HOP_DIV e)
    let len := s.get (CLK.HOP_CFG_HOP_LEN e)
    let seed := s.get (CLK.HOP_CFG_HOP_SEED e)
    (s.modHop d (fun h => { h with latched := true, mode := mode, div := div, len := len, seed := seed, slots := slots })).refreshHopNext d

/-- A write clears HOP_EN (R74): back to SLOT0 at the hop-master group's next carrier boundary, at once with no group running.  The latched
values are in use no longer (R68). -/
def State.hopStop (s : State) (d : Nat) : State :=
  let s := s.modHop d (fun h => { h with latched := false })
  if (s.hopMaster d).isNone then s.hopReturn d else (s.modHop d (fun h => { h with returning := true })).refreshHopNext d

/-- HOP_CFG is written; a change of HOP_EN starts or ends hopping. -/
def State.hopCfgApply (s : State) (d : Nat) (w : Word) : State :=
  let was := s.flag (CLK.HOP_CFG_HOP_EN (Die.drive d))
  let s := s.setReg (CLK.HOP_CFG (Die.drive d)) w
  let now := s.flag (CLK.HOP_CFG_HOP_EN (Die.drive d))
  if was = now then s else if now then s.hopStart d else s.hopStop d

/-- A write of SLOTk; SLOT0 as written is what a timebase that does not hop runs at (R616). -/
def State.slotApply (s : State) (d k : Nat) (w : Word) : State :=
  let s := s.setReg (CLK.SLOT (Die.drive d) k) w
  if k = 0 ∧ !(s.hop d).active then (s.runAtSlot0 d).refreshHopNext d else s

/-- What the registers show of the slot a hop goes to: slot, factor, hopping active, no replacement of SLOT0 (R616). -/
def State.runAtSlot (s : State) (d : Nat) : State :=
  let e := Die.drive d
  let h := s.hop d
  let s := (s.set (CLK.PLL_STAT_SLOT_NOW e) h.last).setB (CLK.HOP_FLAG_HOP_ACTIVE e) true
  (s.setB (CLK.HOP_FLAG_SLOT0_SUB e) false).set (CLK.HOP_STAT_HOP_NOW e) (hopFactor h.word)

/-- HOP_BOUNDARY (R71): after the control-period boundaries of its tick.  It takes place where HOP_DIV divides the carriers of the
hop-master group and that boundary has not been taken. -/
def execHopBoundary (d : Fin 4) (s : State) : Out := s.whileRuns <|
  .next (match s.hopMaster d with
    | none => s
    | some k =>
      let c := s.hopCarriers d
      if !s.dieRuns d || !s.hopDue d c (s.hopTaken d) then s
      else
        let was := s.get (CLK.PLL_STAT_SLOT_NOW (Die.drive d))
        let n := (s.hop d).step (c / s.hopDiv d)
        let s := (s.modHop d (fun _ => n)).modGrp d k (fun g => { g with hopTaken := c })
        let s := if !n.active then s
          else
            let s := s.runAtSlot d
            if n.last ≠ was then s.modPll (Die.drive d) (fun p => { p with settling := true }) else s
        s.refreshHopNext d)

/-- HOP_SETTLE_END (R72, R594): 1 us after a hop or a new band, of any die. -/
def execHopSettleEnd (e : Die) (s : State) : Out := s.whileRuns <| .next (s.modPll e (fun p => { p with settling := false }))

/-! ### Clock monitor (R75, R76) -/

/-- What follows from the flags of source `k`, `was` whether one of them stood before: a command die has lost its heartbeat (R359); the
halt guard times a drive die (R120); the reference is lost (R391); a channel's clock locks the device (R420). -/
def State.monitorReact (s : State) (k : Nat) (was : Bool) : State :=
  let now := s.flag (CKMON.MON_LOSS k) || s.flag (CKMON.MON_OOR k)
  if k < 2 then (if now && !was then s.heartbeatLost k else s)
  else if k < 6 then
    if now = was then s
    else
      let s := s.setBit HGRD.HGSTAT_CLK_LOST (k - 2) now
      if now then s.guardStart (k - 2) false else s.guardStop (k - 2) false
  else if k = 7 then
    let lost := s.flag (CKMON.MON_LOSS 7)
    if s.safety.refLost = lost then s
    else
      let s := (s.modSafety (fun x => { x with refLost := lost })).evaluateBoth
      if lost then s.safetyFault else s
  else if decide (8 ≤ k) && now && !was then ((s.setB (if k = 8 then SFN.SFSTAT_A_FAIL else SFN.SFSTAT_B_FAIL) true).lock 3).safetyFault
  else s

/-- CKMON_LOSS (R75): no monitor edge of source `k` for 40 RC cycles. -/
def execCkmonLoss (k : Fin 10) (s : State) : Out := s.whileRuns <|
  .next (
    let was := s.flag (CKMON.MON_LOSS k) || s.flag (CKMON.MON_OOR k)
    (s.setB (CKMON.MON_LOSS k) true).monitorReact k was)

/-- Does a measurement deviate from nominal by more than the window W (R75, R76)? -/
def State.outOfWindow (s : State) (meas : Nat) : Bool :=
  decide (320 * s.dnat DP.CKM_CKMON_WIN < 100 * max (meas - 320) (320 - meas))

/-- The measurement of one source: `full` that its window lies wholly after the first resumed edge. -/
def State.monitorWindow (s : State) (k meas : Nat) (full : Bool) : State :=
  let was := s.flag (CKMON.MON_LOSS k) || s.flag (CKMON.MON_OOR k)
  let s := s.set (CKMON.MON_MEAS k) meas
  let s := if s.outOfWindow meas then s.setB (CKMON.MON_OOR k) true
    else if full then (s.setB (CKMON.MON_OOR k) false).setB (CKMON.MON_LOSS k) false else s
  s.monitorReact k was

/-- CKMON_WINDOW_END (R75): the measurements of the ten sources in sixteenths of an edge, each with whether its window is full. -/
def execCkmonWindowEnd (meas : Vector (BitVec 16 × Bool) 10) (s : State) : Out := s.whileRuns <|
  .next (foldOver (List.range 10) (fun k t => t.monitorWindow k (vget meas k).1.toNat (vget meas k).2) s)

/-! ### Real-time clock (R77-R79) -/

/-- RTC_TRIM (R77): TRIM counts of 1/32,768 s added. -/
def execRtcTrim (s : State) : Out :=
  .next (if !s.keeper.powered then s
    else
      let x := (s.get RTC.RTC_SEC_SEC : Int) * 32768 + s.get RTC.RTC_SUB_SUB + s.getS RTC.RTC_TRIM_TRIM
      let n := ofSigned 47 x
      (s.set RTC.RTC_SEC_SEC (n / 32768)).set RTC.RTC_SUB_SUB (n % 32768))

/-- RTC_XTAL_FAIL (R78). -/
def execRtcXtalFail (s : State) : Out := .next (if s.keeper.powered then s.setB RTC.RTC_FLAG_RTC_XTAL_FAIL true else s)

/-- Is domain A locked? -/
def State.lockA (s : State) : Bool := s.flag TIME.TSTAT_LOCK_A

/-- RTC_SYNC (R79): accepted only while domain A is locked. -/
def execRtcSync (s : State) : Out := s.whileRuns <| .next (if s.lockA then s.modNet (fun n => { n with rtcSync := true }) else s)

/-- The UTC offset of domain A: that of its Announce if marked valid, otherwise UTC_OFS. -/
def State.utcOfsA (s : State) : Int :=
  match (s.dom 0).best with
  | some m => m.utc.getD (s.getS TIME.UTCCFG_UTC_OFS + s.net.leapAdj)
  | none => s.getS TIME.UTCCFG_UTC_OFS + s.net.leapAdj

/-- RTC_SYNC_APPLY (R79): the next whole UTC second of domain A, at PTP second `sec`. -/
def execRtcSyncApply (sec : Nat) (s : State) : Out := s.whileRuns <|
  .next (if !s.net.rtcSync then s
    else
      let s := s.modNet (fun n => { n with rtcSync := false })
      if !s.keeper.powered then s
      else (s.set RTC.RTC_SEC_SEC (ofSigned 32 ((sec : Int) - s.utcOfsA - 946684800))).set RTC.RTC_SUB_SUB 0)

end Sys2Proof.Machine
end

