-- ==== Sys2Proof/Machine/Links.lean ====
section
/-!
DEFINITION. Sys2Proof/Machine/Links.lean: Eoken link lanes (R15-R17), core accesses (R26-R30), parity of configuration registers
(R36-R43) and the interface of RS registers but for a write's effect (R44-R52).
-/

namespace Sys2Proof.Machine

/-! ### Lanes (R15-R17) -/

/-- The place of a die's receiving end of link `k`. -/
def linkIndex (e : Die) (k : Nat) : Nat := 7 * e.code + k

/-- Change a receiving end. -/
def State.modLink (s : State) (e : Die) (k : Nat) (f : LinkEnd → LinkEnd) : State :=
  { s with linkEnds := vmod s.linkEnds (linkIndex e k) f }

/-- LINK_DOWN of one end: no lane is up in at least one direction. -/
def State.refreshLink (s : State) (e : Die) (k : Nat) : State :=
  s.setB (ELINK.STAT_LINK_DOWN e k) (decide (s.get (ELINK.STAT_LANE_UP_RX e k) = 0) || decide (s.get (ELINK.STAT_LANE_UP_TX e k) = 0))

/-- A lane into link end `k` of a die goes up or down: the die's receive lane, the far end's transmit lane. -/
def State.setLane (s : State) (e : Die) (k : Nat) (f : Die) (q : Nat) (lane : Nat) (up : Bool) : State :=
  let s := (s.setBit (ELINK.STAT_LANE_UP_RX e k) lane up).setBit (ELINK.STAT_LANE_UP_TX f q) lane up
  (s.refreshLink e k).refreshLink f q

/-- A flit is resent whole on the lanes that are up; with none left it waits (R16). -/
def State.resend (s : State) (e : Die) (k : Nat) (f : Die) (flit : Option (BitVec 72)) : State :=
  match flit with
  | none => s
  | some x =>
    if s.get (ELINK.STAT_LANE_UP_RX e k) = 0 then s.modLink e k (fun l => { l with waiting := some x })
    else (s.modLink e k (fun l => { l with waiting := none })).send ⟨.flitResend, f.code, [e.code, k, x.toNat]⟩

/-- What the loss of a link means for others: the PI sources of S (R396), scans whose reads use it (R583). -/
def State.linkLost (s : State) (e : Die) (k : Nat) (f : Die) : State :=
  if !s.flag (ELINK.STAT_LINK_DOWN e k) then s
  else
    let s := if decide (e = .n ∧ f = .s) || decide (e = .s ∧ f = .n) then s.failAllPi else s
    let other := if e = .n then some f else if f = .n then some e else none
    match other with
    | none => s
    | some g => foldOver (List.range 8) (fun u t =>
        if t.crcOpen u && decide (crcSource (t.crcUnit u).cfg = 1) && decide (scanDie (t.crcUnit u).base = g.code) then t.scanFail u else t) s

/-- LANE_RETIRE (R15-R17, R25): the receiving end of a lane takes it out of service; `cut` the flit that was incomplete. -/
def State.laneRetire (s : State) (e : Die) (k lane : Nat) (f : Die) (q : Nat) (cut : Option (BitVec 72)) : State :=
  let s := s.setLane e k f q lane false
  let s := (s.incSat (ELINK.STAT_RETIRE_CNT e k)).incSat (ELINK.STAT_RETIRE_CNT f q)
  let s := (s.recordRetire .lane e k).resend e k f cut
  s.linkLost e k f

/-- A lane whose retirement a flag of STAT records; a lane that is retired already stays as it is. -/
def State.laneFault (s : State) (e : Die) (k lane : Nat) (flag : RF) (cut : Option (BitVec 72)) : Out :=
  match e.farEnd k with
  | none => .fault .noSuchUnit
  | some (f, q) =>
    .next (if !s.bit (ELINK.STAT_LANE_UP_RX e k) lane then s else (s.setB flag true).laneRetire e k lane f q cut)

/-- LANE_CODE_ERROR (R15): at end `k` of die `e`. -/
def execLaneCodeError (e : Die) (k : Fin 7) (lane : Fin 4) (cut : Option (BitVec 72)) (s : State) : Out := s.whileRuns <|
  s.laneFault e k lane (ELINK.STAT_LANE_CODE e k) cut

/-- LANE_TIMEOUT (R15). -/
def execLaneTimeout (e : Die) (k : Fin 7) (lane : Fin 4) (cut : Option (BitVec 72)) (s : State) : Out := s.whileRuns <|
  s.laneFault e k lane (ELINK.STAT_LANE_TIMEOUT e k) cut

/-! ### Addresses (R26-R30) -/

/-- Does an address lie in a memory window of a die (section "Alias semantics")? -/
def inMemWindow (a : Nat) : Bool := inOneWindow a 1

/-- The instance window and the offset of its normal alias: the key under which a register of a core-map address stands, on command
die `c` for the own die's blocks.  Memory windows have no aliases (R31). -/
def normalKey (c a : Nat) : Nat :=
  let f := a / 0x4000 * 0x4000 + a % 0x1000
  let n := if inMemWindow a || inMemWindow f then a else f
  if c = 1 ∧ 0x50000000 ≤ a ∧ a < 0x51000000 then n + 0x100000000 else n

/-- The alias of an address: 0 normal, 1 set, 2 clear, 3 toggle (R28). -/
def aliasOf (a : Nat) : Nat := if inMemWindow a then 0 else a % 0x4000 / 0x1000

/-- Does an access by an application core raise an access fault (R26, R27, R29): `size` in bytes? -/
def accessFaults (a size : Nat) (write : Bool) : Bool :=
  let shape := !inMemWindow a && (decide (size ≠ 4) || decide (a % 4 ≠ 0))
  if a < 0x200000 then false
  else if 0x10000000 ≤ a ∧ a < 0x20000000 then write
  else if (0x40000000 ≤ a ∧ a < 0x44000000) ∨ (0x48000000 ≤ a ∧ a < 0x4C000000) ∨ (0x50000000 ≤ a ∧ a < 0x51000000) then shape
  else if 0x4C000000 ≤ a ∧ a < 0x50000000 then
    shape || (write && !(decide (0x4C080000 ≤ a) && decide (a < 0x4C084000)))
  else true

/-- CORE_ACCESS_FAULT (R26, R27, R29): core `k` of die `c` takes an access fault; the access has no effect. -/
def execCoreAccessFault (c : Fin 2) (k : Fin 4) (a : BitVec 32) (write : Bool) (size : Fin 9) (s : State) : Out := s.whileRuns <|
  .next (if accessFaults a.toNat size write then s.modCmd c (fun x => { x with faults := vset x.faults k (some ⟨a.toNat, write⟩) }) else s)

/-! ### Parity (R36-R43) -/

/-- PARITY_FAILURE (R38, R42): recorded in REGCTL of the die that holds the register's domain, in the fault history; the die responds. -/
def State.parityFailure (s : State) (a : Nat) (byRead : Bool) : State :=
  match dieOfKey a with
  | none => s
  | some e =>
    let s := s.parityRecord e a byRead
    if e.isDrive then s.refreshTrips e.driveNo
    else if e = .n then
      let b := a / 0x4000 * 0x4000
      (s.modNet (fun n => { n with invalid := if n.invalid.contains b then n.invalid else b :: n.invalid })).send ⟨.parityEvent, e.code, [coreAddr a]⟩
    else if e = .s then (s.lock 2).safetyFault
    else s.send ⟨.machineIrq, e.code, [0, coreAddr a]⟩

/-- A write clears flags of PAR_STAT, `m` the bits written 1: with CFG_PARITY cleared, the trip source of a drive die falls and N's functions
no longer mark their outputs invalid (R42). -/
def State.parClear (s : State) (e : Die) (m : Nat) : State :=
  if m % 8 = 0 then s
  else
    let s := s.setReg (REGCTL.PAR_STAT e) (s.reg (REGCTL.PAR_STAT e) &&& ~~~(BitVec.ofNat 32 (m % 8)))
    let s := if e = .n ∧ !s.flag (REGCTL.PAR_STAT_CFG_PARITY e) then s.modNet (fun n => { n with invalid := [] }) else s
    if e.isDrive then s.refreshTrips e.driveNo else s

/-- A check of a register's parity: a failure leaves the content as it is (R38). -/
def State.checkParity (s : State) (a : Nat) (byRead : Bool) : State :=
  match regInfo a with
  | none => s
  | some r => if r.row.rwp && !s.parityOk a then s.parityFailure a byRead else s

/-- A check in the clock cycle of a write that clears bits `m` of PAR_STAT (R43): where the check fails, CFG_PARITY stays 1 if it stood, so
that PAR_FIRST keeps the first failure, and the new failure is recorded. -/
def State.checkParityClear (s : State) (a : Nat) (byRead : Bool) (m : Nat) : State :=
  match dieOfKey a with
  | none => s
  | some e =>
    let fails := match regInfo a with | some r => r.row.rwp && !s.parityOk a | none => false
    if fails then (s.parClear e (m &&& 6)).checkParity a byRead else (s.parClear e m).checkParity a byRead

/-- The bits that a register implements (R7): RING_MGR exists in P0 only. -/
def RegInfo.implemented (r : RegInfo) : Word :=
  let w := r.row.fields.foldl (fun w f => w ||| maskOf f.lo f.w) 0
  if r.block.name = "ETH" ∧ r.row.off = 0 ∧ r.inst ≠ 0 then w &&& ~~~0x10#32 else w

/-- The bits of a stored register that upsets have flipped; its parity bits stay, and a reserved bit has no storage. -/
def State.upset (s : State) (a : Nat) (bits : Word) : State :=
  match regInfo a with
  | some r => s.putCell a ⟨s.reg a ^^^ (bits &&& r.implemented), (s.cell a).par⟩
  | none => s

/-- MA3_SCRUB (R37, R43): the scrub reaches the RWP register with key `a`; `bits` are those that upsets have flipped in it since it was
written, `last` that this check ends a pass over the die's registers, `clr` the bits of PAR_STAT that a write clears in the same cycle. -/
def execMa3Scrub (a : Nat) (bits : BitVec 32) (last : Bool) (clr : BitVec 3) (s : State) : Out := s.whileRuns <|
  .next (match regInfo a, dieOfKey a with
    | some r, some e =>
      if !r.row.rwp then s
      else
        let s := (s.upset a bits).checkParityClear a false clr.toNat
        if last then s.incMod (REGCTL.SCRUB_PASS_CNT e) else s
    | _, _ => s)

/-! ### RS registers (R44-R53) -/

/-- The blocks with RS registers: clock monitor, RTC, grid contactor, arbiter, safety functions, safety inputs and outputs, safety
connections, keeper, halt guard. -/
def rsBases : List Nat :=
  [0x4C040000, 0x4C050000, 0x4C060000, 0x4C070000, 0x4C090000, 0x4C0A0000, 0x4C0B0000, 0x4C0C0000, 0x4C0D0000]

/-- The window of an RS block. -/
def rsBase (b : Nat) : Nat := rsBases.getD b 0

/-- Fields of WR_PEND of a block. -/
def rsField (b lo w : Nat) : RF := ⟨rsBase b + 0xFFC, lo, w⟩

/-- Change the interface of a block. -/
def State.modRs (s : State) (b : Nat) (f : RsBlock → RsBlock) : State := { s with rsBlocks := vmod s.rsBlocks b f }

/-- The copy of an RS register that reads return (R44). -/
def State.rsCopy (s : State) (a : Nat) : Word :=
  match Assoc.get s.copies a with
  | some w => w
  | none => resetWord a

/-- PEND_CNT shows the writes in flight. -/
def State.showPend (s : State) (b : Nat) : State := s.set (rsField b 0 3) (vget s.rsBlocks b).inflight.length

/-- A write for the source domain of block `b` (R47, R48): accepted into one of four places, or its source stalls. -/
def State.rsAccept (s : State) (b : Nat) (x : RsWrite) : State :=
  if (vget s.rsBlocks b).inflight.length < 4 then
    ((s.modRs b (fun r => { r with inflight := r.inflight ++ [x] })).setB (rsField b 8 1) true).showPend b
  else s.modRs b (fun r => { r with stalled := r.stalled ++ [x] })

/-- RS_REGISTER_WRITE (R47, R48). -/
def execRsRegisterWrite (b : Fin 9) (off : Fin 0x4000) (w : BitVec 32) (s : State) : Out := s.whileRuns <|
  .next (s.rsAccept b { addr := rsBase b + off, data := w })

/-- The oldest write in flight leaves; a stalled one takes a place. -/
def State.rsPop (s : State) (b : Nat) : State :=
  (s.modRs b (fun r => { r with inflight := r.inflight.drop 1 ++ r.stalled.take 1, stalled := r.stalled.drop 1 })).showPend b

/-- RS_STALE_TIMEOUT (R51). -/
def execRsStaleTimeout (b : Fin 9) (s : State) : Out := s.whileRuns <| .next (s.setB (rsField b 31 1) true)

/-- RS_WRITE_LOST (R52): the oldest write in flight is discarded. -/
def execRsWriteLost (b : Fin 9) (s : State) : Out := s.whileRuns <|
  .next (if (vget s.rsBlocks b).inflight = [] then s else (s.rsPop b).setB (rsField b 30 1) true)

/-- A read of the low word RTC_SUB captures RTC_SEC of the same copy (R46). -/
def State.captureRtc (s : State) : State :=
  let w := s.rsCopy RTC.RTC_SEC
  s.modRs 1 (fun r => { r with hold := some (RTC.RTC_SEC, w) })

/-- RS_LOW_WORD_READ (R46): the word that the read returns is the copy's. -/
def execRsLowWordRead (s : State) : Out := s.whileRuns <|
  .next (s.captureRtc.send ⟨.readReturn, Die.s.code, [RTC.RTC_SUB, (s.rsCopy RTC.RTC_SUB).toNat]⟩)

/-- RS_COPY_REFRESH (R44, R50, R51): every copy of the block is refreshed; STALE clears, and PEND once no accepted write is left. -/
def execRsCopyRefresh (b : Fin 9) (s : State) : Out := s.whileRuns <|
  .next (
    let lo := rsBase b
    let inside (a : Nat) : Bool := decide (lo ≤ a) && decide (a < lo + 0x1000)
    let live := (s.regs.filter (fun (c : Nat × RegCell) => inside c.1)).map (fun c => (c.1, c.2.val))
    let kept := s.copies.filter (fun (c : Nat × Word) => !inside c.1)
    let t := { s with copies := live.foldl (fun m (c : Nat × Word) => Assoc.put m c.1 c.2) kept }
    let s := t.setB (rsField b 31 1) false
    if (vget s.rsBlocks b).inflight.isEmpty then s.setB (rsField b 8 1) false else s)

end Sys2Proof.Machine
end

