-- ==== Sys2Proof/Machine/Fields.lean ====
section
/-!
DEFINITION. Sys2Proof/Machine/Fields.lean: the commands that write one field of a configuration register.  Such a write keeps the register's
other fields, so it begins with a read of them, which checks the parity (R37, R41): a corrupted register receives no fresh parity unnoticed.
-/

namespace Sys2Proof.Machine

/-- HOP_EN_SET (R68): HOP_EN is written 1. -/
def execHopEnSet (d : Fin 4) (s : State) : Out := s.whileRuns <|
  let t := s.checkParity (CLK.HOP_CFG (Die.drive d)) true
  .next (t.hopCfgApply d (putBits (t.reg (CLK.HOP_CFG (Die.drive d))) 0 1 1))

/-- HOP_EN_CLEAR (R74): HOP_EN is written 0. -/
def execHopEnClear (d : Fin 4) (s : State) : Out := s.whileRuns <|
  let t := s.checkParity (CLK.HOP_CFG (Die.drive d)) true
  .next (t.hopCfgApply d (putBits (t.reg (CLK.HOP_CFG (Die.drive d))) 0 1 0))

/-- PWM_GROUP_ENABLE (R84): EN is written 1. -/
def execPwmGroupEnable (d k : Fin 4) (s : State) : Out := s.whileRuns <|
  let t := s.checkParity (PWM.GCFG d k) true
  .next (t.gcfgApply d k (putBits (t.reg (PWM.GCFG d k)) 0 1 1))

/-- PWM_GROUP_DISABLE (R88): EN is written 0. -/
def execPwmGroupDisable (d k : Fin 4) (s : State) : Out := s.whileRuns <|
  let t := s.checkParity (PWM.GCFG d k) true
  .next (t.gcfgApply d k (putBits (t.reg (PWM.GCFG d k)) 0 1 0))

/-- FLT_USE_WRITE (R131). -/
def execFltUseWrite (d : Fin 4) (j : Fin 6) (use : Bool) (s : State) : Out := s.whileRuns <|
  let t := s.checkParity (PORT.PCFG d j) true
  .next (t.pcfgApply d j (putBits (t.reg (PORT.PCFG d j)) 0 1 (if use then 1 else 0)))

/-- CHOP_EN_WRITE (R620). -/
def execChopEnWrite (d : Fin 4) (j : Fin 6) (en : Bool) (s : State) : Out := s.whileRuns <|
  let t := s.checkParity (PORT.PCFG d j) true
  .next (t.pcfgApply d j (putBits (t.reg (PORT.PCFG d j)) 1 1 (if en then 1 else 0)))

/-- ADC_DISABLE (R194): EN is written 0. -/
def execAdcDisable (d k : Fin 4) (s : State) : Out := s.whileRuns <|
  let t := s.checkParity (ADC.ACFG d k) true
  .next (t.acfgApply d k (putBits (t.reg (ADC.ACFG d k)) 0 1 0))

/-- CMP_ENABLE (R202). -/
def execCmpEnable (d : Fin 4) (i : Fin 16) (s : State) : Out := s.whileRuns <|
  let t := s.checkParity (CMP.CCFG d i) true
  .next (t.ccfgApply d i (putBits (t.reg (CMP.CCFG d i)) 17 1 1))

/-- CMP_DISABLE (R203). -/
def execCmpDisable (d : Fin 4) (i : Fin 16) (s : State) : Out := s.whileRuns <|
  let t := s.checkParity (CMP.CCFG d i) true
  .next (t.ccfgApply d i (putBits (t.reg (CMP.CCFG d i)) 17 1 0))

/-- PI_ENABLE (R212). -/
def execPiEnable (d : Fin 4) (p : Fin 2) (s : State) : Out := s.whileRuns <|
  let t := s.checkParity (PI.PICFG d p) true
  .next (t.picfgApply d p (putBits (t.reg (PI.PICFG d p)) 0 1 1))

/-- CLE_ENABLE (R220). -/
def execCleEnable (d : Fin 4) (c : Fin 2) (s : State) : Out := s.whileRuns <|
  let t := s.checkParity (CLE.CLECFG d c) true
  .next (t.clecfgApply d c (putBits (t.reg (CLE.CLECFG d c)) 0 1 1))

/-- CLE_DISABLE (R621). -/
def execCleDisable (d : Fin 4) (c : Fin 2) (s : State) : Out := s.whileRuns <|
  let t := s.checkParity (CLE.CLECFG d c) true
  .next (t.clecfgApply d c (putBits (t.reg (CLE.CLECFG d c)) 0 1 0))

/-- GRID_ENABLE (R254). -/
def execGridEnable (d : Fin 4) (s : State) : Out := s.whileRuns <|
  let t := s.checkParity (GSU.GCFG d) true
  .next (t.gcfgGridApply d (putBits (t.reg (GSU.GCFG d)) 0 1 1))

/-- GRID_DISABLE (R255). -/
def execGridDisable (d : Fin 4) (s : State) : Out := s.whileRuns <|
  let t := s.checkParity (GSU.GCFG d) true
  .next (t.gcfgGridApply d (putBits (t.reg (GSU.GCFG d)) 0 1 0))

/-- ARM_WRITE (R273). -/
def execArmWrite (d : Fin 4) (v : Bool) (s : State) : Out := s.whileRuns <|
  let t := s.checkParity (RTS.RTCFG d) true
  .next (t.rtcfgApply d (putBits (t.reg (RTS.RTCFG d)) 0 1 (if v then 1 else 0)))

/-- METER_ENABLE (R303). -/
def execMeterEnable (m : Fin 3) (s : State) : Out := s.whileRuns <|
  let t := s.checkParity (MP.MCFG m) true
  .next (t.mcfgApply m (putBits (t.reg (MP.MCFG m)) 0 1 1))

/-- METER_DISABLE (R332). -/
def execMeterDisable (m : Fin 3) (s : State) : Out := s.whileRuns <|
  let t := s.checkParity (MP.MCFG m) true
  .next (t.mcfgApply m (putBits (t.reg (MP.MCFG m)) 0 1 0))

/-- TU_ENABLE (R492). -/
def execTuEnable (u : Fin 16) (s : State) : Out := s.whileRuns <|
  let t := s.checkParity (TU.TUCFG u) true
  .next (t.tuCfgApply u (putBits (t.reg (TU.TUCFG u)) 0 1 1))

end Sys2Proof.Machine
end

