-- ==== Sys2Proof/Machine/Maint.lean ====
section
/-!
DEFINITION. Sys2Proof/Machine/Maint.lean: the check-value units' commands and the maintenance scheduler with its activities
(chapter 16).
-/

namespace Sys2Proof.Machine

/-! ### Check-value units (R578-R584) -/

/-- CRC_START (R578). -/
def execCrcStart (u : Fin 8) (s : State) : Out := s.whileRuns <| .next (s.crcControl u 1)

/-- CRC_STOP (R578). -/
def execCrcStop (u : Fin 8) (s : State) : Out := s.whileRuns <| .next (s.crcControl u 2)

/-- CRC_RESUME (R578). -/
def execCrcResume (u : Fin 8) (s : State) : Out := s.whileRuns <| .next (s.crcControl u 4)

/-- The bytes of a word as a write to DATA folds them, the least significant first (R579). -/
def dataBytes (w n : Nat) : List Nat := (bytesLE w n).map BitVec.toNat

/-- CRC_DATA (R579). -/
def execCrcData (u : Fin 8) (w : BitVec 32) (s : State) : Out := s.whileRuns <| .next (s.crcFeed u (dataBytes w.toNat 4))

/-- CRC_DATA_H (R579). -/
def execCrcDataH (u : Fin 8) (w : BitVec 16) (s : State) : Out := s.whileRuns <| .next (s.crcFeed u (dataBytes w.toNat 2))

/-- CRC_DATA_B (R579). -/
def execCrcDataB (u : Fin 8) (w : BitVec 8) (s : State) : Out := s.whileRuns <| .next (s.crcFeed u (dataBytes w.toNat 1))

/-- CRC_VAL_WRITE (R580). -/
def execCrcValWrite (u : Fin 8) (w : BitVec 32) (s : State) : Out := s.whileRuns <| .next (s.crcVal u w.toNat)

/-- FEED (R579): each byte as one write of DATA_B. -/
def State.feed (s : State) (u : Nat) (b : List Nat) : State := b.foldl (fun t x => t.crcFeed u [x]) s

/-- FEED: at most 1,024 bytes. -/
def execFeed (u : Fin 8) (b : List (BitVec 8)) (s : State) : Out := s.whileRuns <| .next (if b.length ≤ 1024 then s.feed u (b.map BitVec.toNat) else s)

/-- SCAN_READ_RETURN (R576, R37: the words of the curve memory are RWP registers): `fault` that the read met an access fault or the link lost its last lane. -/
def execScanReadReturn (u : Fin 8) (fault : Bool) (s : State) : Out := s.whileRuns <|
  .next (if fault || !s.crcOpen u || decide (crcSource (s.crcUnit u).cfg ≠ 1) then s.scanReturn u fault
    else
      let c := s.crcUnit u
      let first := c.base + s.get (CRC.COUNT_COUNT u)
      let words := (List.range (min 8 (c.len - s.get (CRC.COUNT_COUNT u)))).map (fun i => first + i - (first + i) % 4)
      let s := words.eraseDups.foldl (fun t a => t.checkParity a true) s
      s.scanReturn u fault)

/-- Does an item that a unit folds still pass (R581)? -/
def State.itemPasses (s : State) (u : Nat) : Bool :=
  s.net.ports.any (fun e => match e.tx with | some f => f.crcs.testBit u | none => false)

/-- CRC_DONE (R584): the end that a computation has met takes effect, after the item that passes (R581). -/
def execCrcDone (u : Fin 8) (s : State) : Out := s.whileRuns <|
  .next (if s.flag (CRC.CSTAT_BUSY u) && (s.crcUnit u).ended && !s.itemPasses u then s.crcFinish u else s)

/-! ### MA0 (R591) -/

/-- The comparator under test is put back to normal (R211). -/
def State.endCheck (s : State) (d i : Nat) : State := s.chkWrite d i 0 false

/-- The result of an MA0 that has no comparator left. -/
def Activity.ma0Result (a : Activity) : Nat := if a.failed ≠ 0 then 1 else if a.judged then 0 else 3

/-- MA0 goes on with the first comparator of a list that it may test: check 2 begins. -/
def State.ma0Seek (s : State) (k d : Nat) : List Nat → State
  | [] => s.endActivity k (s.activity k).ma0Result
  | i :: rest =>
    if (!s.flag (CMP.CCFG_EN d i) && !(s.cmp d i).retired) || !s.checkAllowed d i then
      (s.modAct k (fun a => { a with skipped := a.skipped ||| 2 ^ i })).ma0Seek k d rest
    else
      let s := s.modAct k (fun a => { a with units := i :: rest, checks := [2, 3, 4, 1] })
      let (n, s) := s.fresh
      s.chkWrite d i 2 (s.checkShows d i 2 (Config.checkOut n))

/-- The expected output of a check (R209), if it is defined: INV = 0 and the level of THRESH between VREF_LO = 0.3 V and
VREF_HI = 3.0 V, in sixteenths of an LSB of 3.3 V / 4,096. -/
def State.checkExpected (s : State) (d i c : Nat) : Option Bool :=
  let t := 16 * s.thresh d i
  if s.cmpInv d i || decide (t ≤ 5958) || decide (59578 ≤ t) then none
  else match c with
    | 1 => some (!s.flag (CMP.CSTAT_OUT d i))
    | 2 => some true
    | _ => some false

/-- A comparator fails MA0: retired, an active source from now on. -/
def State.retireCmp (s : State) (d i : Nat) : State :=
  if (s.cmp d i).retired then s
  else ((s.modCmp d i (fun c => { c with retired := true })).recordRetire .comparator (Die.drive d) i).refreshTrips d

/-- A comparator passes MA0: a retired one returns to service (R25). -/
def State.restoreCmp (s : State) (d i : Nat) : State :=
  if (s.cmp d i).retired then (s.modCmp d i (fun c => { c with retired := false })).refreshTrips d else s

/-- MA0_CHECK_END (R591): the check that activity `k` runs ends with `out` on CHK_OUT. -/
def State.ma0Check (s : State) (k : Nat) (out : Bool) : State :=
  match s.slotKey k with
  | none => s
  | some a =>
    let d := a.die - 2
    let act := s.activity k
    match act.units, act.checks with
    | i :: rest, c :: more =>
      if a.code ≠ 0 then s
      else
        let want := s.checkExpected d i c
        let s := s.setB (CMP.CSTAT_CHK_OUT d i) out
        let s := s.modAct k (fun a => { a with judged := a.judged || want.isSome, checks := more, units := rest })
        if act.cancel then (s.endCheck d i).endActivity k 2
        else if want.isSome ∧ want ≠ some out then
          let s := (s.endCheck d i).retireCmp d i
          (s.modAct k (fun a => { a with failed := a.failed ||| 2 ^ i })).ma0Seek k d rest
        else match more with
          | [] => (if want.isSome then (s.endCheck d i).restoreCmp d i else s.endCheck d i).ma0Seek k d rest
          | c' :: _ =>
            if s.checkAllowed d i then
              let (n, s) := (s.modAct k (fun a => { a with units := i :: rest })).fresh
              s.chkWrite d i c' (s.checkShows d i c' (Config.checkOut n))
            else ((s.endCheck d i).modAct k (fun a => { a with skipped := a.skipped ||| 2 ^ i })).ma0Seek k d rest
    | _, _ => s

/-- MA0_CHECK_END. -/
def execMa0CheckEnd (k : Fin 16) (out : Bool) (s : State) : Out := s.whileRuns <| .next (s.ma0Check k out)

/-! ### MA1, MA2 (R118, R593, R595) -/

/-- The next unit of an activity whose code is `code`, with the activity's die. -/
def State.unitOf (s : State) (k code : Nat) : Option (Nat × Nat) :=
  match s.slotKey k, (s.activity k).units with
  | some a, u :: _ => if a.code = code then some (a.die, u) else none
  | _, _ => none

/-- The unit in hand is done: `fail` that it failed. -/
def State.unitDone (s : State) (k u : Nat) (fail : Bool) : State :=
  s.modAct k (fun a => { a with units := a.units.drop 1, failed := if fail then a.failed ||| 2 ^ u else a.failed })

/-- New delay registers not yet loaded are discarded (R596). -/
def State.dropDelays (s : State) (d : Nat) : State :=
  foldOver (List.range 7) (fun j t => t.modPort d j (fun p => { p with newDelay := none })) s

/-- MA1_CALIBRATION_END (R118, R595): the port that activity `k` calibrates; `none` that it failed. -/
def execMa1CalibrationEnd (k : Fin 16) (found : Option (BitVec 16 × BitVec 16 × Vector (BitVec 8) 64)) (s : State) : Out := s.whileRuns <|
  .next (match s.unitOf k 1 with
    | none => s
    | some (die, j) =>
      let d := die - 2
      let cancel := (s.activity k).cancel
      let s := s.unitDone k j found.isNone
      if cancel then (s.dropDelays d).endActivity k 2
      else
        let s := match found with
          | none => s
          | some (ref, tpt, lin) =>
            let s := s.modPort d j (fun p => { p with newDelay := some ⟨ref.toNat, tpt.toNat, lin.toList.map BitVec.toNat⟩ })
            if (s.groupOf d j).isNone then s.loadDelays d j else s
        s.ma1Finish d)

/-- MA2_CORE_CALIBRATION_END (R593): the new ACAL words of the core that activity `k` calibrates; `none` that it failed. -/
def execMa2CoreCalibrationEnd (k : Fin 16) (found : Option (BitVec 32 × BitVec 32)) (s : State) : Out := s.whileRuns <|
  .next (match s.unitOf k 2 with
    | none => s
    | some (die, c) =>
      let d := die - 2
      let cancel := (s.activity k).cancel
      let s := s.unitDone k c found.isNone
      if cancel then s.endActivity k 2
      else
        let s := match found with
          | none => if s.flag (ADC.ASTAT_RETIRED d c) then s else s.retireCore d c
          | some (se, diff) =>
            ((s.setReg (ADC.ACAL_SE d c) se).setReg (ADC.ACAL_DIFF d c) diff).setB (ADC.ASTAT_RETIRED d c) false
        let act := s.activity k
        if act.units = [] then s.endActivity k (if act.failed = 0 then 0 else 1) else s)

/-! ### MA4 (R594) -/

/-- A new band is applied: the entries of the slots that the search chose it for (R65), the band in use, settling as after a hop; the keeper
commits the tables (R66). -/
def State.applyBand (s : State) (e : Die) (slots : List Nat) (band : Nat) (tj : Int) : State :=
  let s := (s.writeBands e slots band tj).set (CLK.PLL_STAT_BAND e) band
  (s.modPll e (fun p => { p with settling := true })).commitBands

/-- The hop-master group of a drive die with the number of its carrier. -/
def State.hopCarrier (s : State) (d : Nat) : Option (Nat × Nat) := (s.hopMaster d).map (fun g => (g, (s.grp d g).carriers))

/-- MA4_SEARCH_END (R594): the search of activity `k` ends; `covers` that the band covers every slot in use. -/
def execMa4SearchEnd (k : Fin 16) (band : BitVec 6) (tj : Int) (covers : Bool) (s : State) : Out := s.whileRuns <|
  .next (match s.slotKey k with
    | none => s
    | some a =>
      match dieOfCode a.die with
      | none => s
      | some e =>
        if a.code ≠ 4 ∨ !s.flag (CLK.PLL_STAT_SEARCH_ACT e) then s
        else
          let s := s.setB (CLK.PLL_STAT_SEARCH_ACT e) false
          if (s.activity k).cancel then s.endActivity k 2
          else if !covers then s.endActivity k 1
          else if e.isDrive && (s.hopMaster e.driveNo).isSome then s.modHop e.driveNo (fun h => { h with
            newBand := some (band.toNat, tj, (s.activity k).units), bandAt := s.hopCarrier e.driveNo })
          else (s.applyBand e (s.activity k).units band.toNat tj).endActivity k 0)

/-- MA4_BAND_APPLY (R594): a carrier boundary of the hop-master group has come since the search ended, or no group runs any more. -/
def execMa4BandApply (d : Fin 4) (s : State) : Out := s.whileRuns <|
  .next (match (s.hop d).newBand with
    | none => s
    | some (band, tj, slots) =>
      if (s.hopMaster d).isSome && decide (s.hopCarrier d = (s.hop d).bandAt) then s
      else
        let s := (s.modHop d (fun h => { h with newBand := none, bandAt := none })).applyBand (Die.drive d) slots band tj
        match (List.range 16).find? (fun k => match s.slotKey k with | some a => decide (a.code = 4 ∧ a.die = d.val + 2) | none => false) with
        | some k => s.endActivity k 0
        | none => s)

/-! ### MA5 (R17) -/

/-- The retired lanes of a link as units of MA5: receive lanes 0-3 of the end named, its transmit lanes 4-7. -/
def State.retiredLanes (s : State) (e : Die) (k : Nat) : List Nat :=
  ((List.range 4).filter (fun i => !s.bit (ELINK.STAT_LANE_UP_RX e k) i))
  ++ ((List.range 4).filter (fun i => !s.bit (ELINK.STAT_LANE_UP_TX e k) i)).map (fun i => i + 4)

/-- A lane returns to service and RETRAIN_CNT of both its ends counts it (a DESIGN CHOICE, assumption 18: one count for each lane that
comes back, as each is its own retrain); the flit that waited for one is resent (R16, R17). -/
def State.laneReturn (s : State) (e : Die) (k : Nat) (f : Die) (q : Nat) (u : Nat) : State :=
  let s := if u < 4 then s.setLane e k f q u true else s.setLane f q e k (u - 4) true
  let s := (s.incSat (ELINK.STAT_RETRAIN_CNT e k)).incSat (ELINK.STAT_RETRAIN_CNT f q)
  if u < 4 then s.resend e k f (vget s.linkEnds (linkIndex e k)).waiting else s.resend f q e (vget s.linkEnds (linkIndex f q)).waiting

/-- MA5_RETRAIN_END (R17, R595): the lane that activity `k` retrains.  The lanes that passed return when the activity ends, since one that is
cancelled leaves its lanes retired (R596). -/
def execMa5RetrainEnd (k : Fin 16) (ok : Bool) (s : State) : Out := s.whileRuns <|
  .next (match s.unitOf k 5, s.slotKey k with
    | some (die, u), some a =>
      (match dieOfCode die with
      | none => s
      | some e =>
        match e.farEnd a.unit with
        | none => s
        | some (f, q) =>
          let cancel := (s.activity k).cancel
          let s := (s.unitDone k u (!ok)).modAct k (fun x => { x with passed := if ok then x.passed ||| 2 ^ u else x.passed })
          let act := s.activity k
          if cancel then s.endActivity k 2
          else if act.units = [] then
            (foldOver (bitsOf 8 act.passed) (fun v t => t.laneReturn e a.unit f q v) s).endActivity k (if act.failed = 0 then 0 else 1)
          else s)
    | _, _ => s)

/-! ### MA6, MA7 (R558, R559) -/

/-- MA6 asks for a burst of a class with the region's content unchanged; a class that is being written is queued anew (R553). -/
def State.rewriteRequest (s : State) (c : Nat) : State :=
  let waits := s.bit KPR.KQ_QUEUE c
  let s := if waits then s else s.modKeeper (fun k => { k with rewrite := k.rewrite ||| 2 ^ c })
  if s.keeper.running = some c then s.modKeeper (fun k => { k with again := k.again ||| 2 ^ c })
  else s.orBits KPR.KQ_QUEUE (2 ^ c)

/-- The double-copy regions' bursts: class 5 once for each metering point. -/
def ma6Bursts : List Nat := [1, 2, 4, 5, 5, 5, 6, 7, 8, 9]

/-- MA6 begins.  A burst of one of its classes that runs already is none of its own. -/
def State.ma6Start (s : State) : State :=
  let extra := match s.keeper.running with | some c => if c ∈ ma6Bursts then [c] else [] | none => []
  let s := s.modKeeper (fun k => { k with ma6 := extra ++ ma6Bursts })
  ma6Bursts.dedup.foldl (fun t c => t.rewriteRequest c) s

/-- A burst of class `c` is complete: MA6 waits for one burst less; a class it needs once more is requested again. -/
def State.ma6Burst (s : State) (c : Nat) : State :=
  if c ∉ s.keeper.ma6 then s
  else
    let left := s.keeper.ma6.erase c
    let s := s.modKeeper (fun k => { k with ma6 := left })
    let cancelled := match s.keeperSlot 6 with | some k => (s.activity k).cancel | none => false
    if cancelled then s.endKeeper 6 2
    else if left = [] then s.endKeeper 6 0
    else if c ∈ left ∧ !s.bit KPR.KQ_QUEUE c then s.rewriteRequest c else s

/-- The bursts that only MA6 asked for leave the queue (R596). -/
def State.ma6Drop (s : State) : State :=
  let m := s.keeper.rewrite
  let s := s.clrBits KPR.KQ_QUEUE m
  s.modKeeper (fun k => { k with rewrite := 0, again := k.again &&& (1023 ^^^ m) })

/-- MA7_END (R559): VSTL has fallen by `dv` mV in `t` ms; the burst ends once this is 40 mV or 600 s.  The spec states no result for dv = 0 nor for one
beyond the register. -/
def execMa7End (dv t : Nat) (s : State) : Out :=
  .next (if s.keeper.running ≠ some 10 ∨ (dv < 40 ∧ t < 600000) then s
    else
      let c := (roundDiv t dv).toNat
      let c := if dv = 0 ∨ 65535 < c then Config.lcapOpen t dv % 65536 else c
      let s := (s.set KPR.LCAP_LCAP c).setB KPR.KSTAT_CAP_VALID true
      s.burstOver.endKeeper 7 0)

/-! ### The scheduler (R586-R598) -/

/-- Is the target valid for the activity: die by its code (8 the keeper), unit? -/
def targetValid (a : ActKey) : Bool :=
  let drive := decide (2 ≤ a.die) && decide (a.die ≤ 5)
  match a.code with
  | 0 => drive && (decide (a.unit < 16) || decide (a.unit = 255))
  | 1 => drive && (decide (a.unit < 7) || decide (a.unit = 255))
  | 2 => drive && (decide (a.unit < 4) || decide (a.unit = 255))
  | 4 => decide (a.die < 7)
  | 5 => match dieOfCode a.die with | some e => decide (a.unit < e.linkCount) | none => false
  | 6 => decide (a.die = 8)
  | 7 => decide (a.die = 8)
  | _ => decide (a.unit < 8)

/-- The range of a unit's scan: within one memory window, on the die named. -/
def State.scanTarget (s : State) (a : ActKey) : Bool :=
  let base := (s.reg (CRC.BASE a.unit)).toNat
  let len := s.get (CRC.LEN_LEN a.unit)
  (decide (len = 0) || inOneWindow base len) && decide (scanDie base = a.die)

/-- May MA2 calibrate a core (R593)? -/
def State.ma2Core (s : State) (d c : Nat) : Bool := !s.flag (ADC.ACFG_EN d c) || s.flag (ADC.ASTAT_RETIRED d c)

/-- Is the target in a state that allows the activity? -/
def State.targetReady (s : State) (a : ActKey) : Bool :=
  match a.code with
  | 2 => if a.unit = 255 then (List.range 4).any (fun c => s.ma2Core (a.die - 2) c) else s.ma2Core (a.die - 2) a.unit
  | 6 => s.keeper.powered
  | 7 => s.keeper.powered
  | 9 => s.flag (CRC.CCFG_EN a.unit) && !s.flag (CRC.CSTAT_BUSY a.unit) && decide (crcSource (s.reg (CRC.CCFG a.unit)) = 1)
  | _ => true

/-- The units of a request: all of them for 0xFF. -/
def unitList (n u : Nat) : List Nat := if u = 255 then List.range n else [u]

/-- An accepted activity begins in slot `k`. -/
def State.startActivity (s : State) (k : Nat) (a : ActKey) : State :=
  let d := a.die - 2
  match a.code with
  | 0 => (s.takeSlot k a {}).ma0Seek k d (unitList 16 a.unit)
  | 1 => s.takeSlot k a { units := unitList 7 a.unit }
  | 2 =>
    let all := unitList 4 a.unit
    let skip := (all.filter (fun c => !s.ma2Core d c)).foldl (fun m c => m ||| 2 ^ c) 0
    s.takeSlot k a { units := all.filter (fun c => s.ma2Core d c), skipped := skip }
  | 4 => match dieOfCode a.die with
    | some e => (s.takeSlot k a { units := s.slotsInUse e }).setB (CLK.PLL_STAT_SEARCH_ACT e) true
    | none => s
  | 5 => match dieOfCode a.die with
    | some e =>
      let lanes := s.retiredLanes e a.unit
      let s := s.takeSlot k a { units := lanes }
      if lanes = [] then s.endActivity k 0 else s
    | none => s
  | 6 => (s.takeSlot k a {}).ma6Start
  | 7 => (s.takeSlot k a {}).modKeeper (fun x => { x with capTest := true })
  | _ => s.crcStart a.unit false

/-- The outcome of a request that is refused (offset 0x0004), or the slot it gets (R587, R589, R598). -/
def State.judgeRequest (s : State) (a : ActKey) : Nat × Option Nat :=
  if !s.mainRuns then (6, none)
  else if a.code = 3 ∨ a.code = 8 ∨ 10 ≤ a.code then (2, none)
  else if !targetValid a || (decide (a.code = 9) && !s.scanTarget a) then (3, none)
  else if !s.targetReady a then (4, none)
  else if (s.conflictWith a).isSome then (1, none)
  else match s.freeSlot with
    | none => (5, none)
    | some k => (0, some k)

/-- A request (R587): its outcome, and the state with it recorded. -/
def State.maintRequest (s : State) (unit die code : Nat) : Nat × State :=
  let a : ActKey := ⟨code, die, unit⟩
  let (o, slot) := s.judgeRequest a
  let conf := s.conflictWith a
  let s := (s.set MAINT.MRES_OUTCOME o).set MAINT.MRES_SLOT (slot.getD 31)
  let s := if o = 1 then (s.setB MAINT.MRES_MAINT_BUSY true).set MAINT.MRES_CONF_CODE (conf.getD 0) else s
  match slot with
  | some k => (o, s.startActivity k a)
  | none => (o, s)

/-- A word with the layout of REQ. -/
def State.requestWord (s : State) (w : Nat) : Nat × State := s.maintRequest (w / 256 % 256) (w / 16 % 16) (w % 16)

/-- MAINT_REQUEST (R587). -/
def execMaintRequest (unit : BitVec 8) (die code : BitVec 4) (s : State) : Out := s.whileRuns <|
  .next (s.maintRequest unit.toNat die.toNat code.toNat).2

/-- CANCEL of a slot (R596): at once where the activity has nothing in progress, otherwise at its next safe point. -/
def State.cancelSlot (s : State) (k : Nat) : State :=
  match s.slotKey k with
  | none => s
  | some a =>
    let act := s.activity k
    let wait := s.modAct k (fun x => { x with cancel := true })
    match a.code with
    | 1 => if act.units = [] then (s.dropDelays (a.die - 2)).endActivity k 2 else wait
    | 4 => match dieOfCode a.die with
      | some e => if s.flag (CLK.PLL_STAT_SEARCH_ACT e) then wait
                  else (s.modHop e.driveNo (fun h => { h with newBand := none })).endActivity k 2
      | none => s
    | 6 => if s.keeper.running.any (fun c => decide (c ∈ s.keeper.ma6)) && s.keeper.rewriting then wait.ma6Drop
           else s.ma6Drop.endKeeper 6 2
    | 7 => if s.keeper.running = some 10 then (s.burstOver).endKeeper 7 2 else s.endKeeper 7 2
    | 9 => s.crcStop a.unit
    | _ => wait

/-- CANCEL (R596). -/
def execCancel (k : Fin 16) (s : State) : Out := s.whileRuns <| .next (s.cancelSlot k)

/-! ### Retirement of a drive die (R24) -/

/-- A drive die is retired, and N starts a merge (R567). -/
def State.retireDrive (s : State) (d : Nat) : State := if (vget s.drives d).retired then s else (s.retireDie d).startMerge

/-- The guard test, with the merge that a retirement brings about. -/
def State.runGuardTest (s : State) (ack : BitVec 4) : State :=
  let t := s.guardTest ack
  if (List.range 4).any (fun d => (vget t.drives d).retired != (vget s.drives d).retired) then t.startMerge else t

/-- GUARD_TEST (R424): `ack` the acknowledges of the four branches. -/
def execGuardTest (ack : BitVec 4) (s : State) : Out := s.whileRuns <| .next (s.runGuardTest ack)

/-- DRIVE_DIE_RETIRE (R24). -/
def execDriveDieRetire (d : Fin 4) (s : State) : Out := s.whileRuns <| .next (s.retireDrive d)

end Sys2Proof.Machine
end

