-- ==== Sys2Proof/Machine/Period.lean ====
section
/-!
DEFINITION. Sys2Proof/Machine/Period.lean: what happens at a control-period start (R95, R623): the start of a group, its boundaries, the
ends of variable periods, time events, and the command-period boundary (R340).
-/

namespace Sys2Proof.Machine

/-! ### The command period (R23, R340) -/

/-- Does the die send the command-period tick: the lowest-numbered drive die in service (R23)? -/
def State.sendsTick (s : State) (d : Nat) : Bool :=
  !(vget s.drives d).retired && (List.range d).all (fun e => (vget s.drives e).retired)

/-- The control-period start with number `n` since the start of the hop-master group (R340): CPC; at a count of 0 the tick, the state
record and the report records. -/
def State.commandPeriod (s : State) (d n : Nat) : State :=
  let cpc := n % max 1 (vget s.drives d).cmdN
  let s := s.set (DCMD.DCMDSTAT_CPC d) cpc
  if cpc ≠ 0 then s
  else
    let s := if s.sendsTick d then s.send ⟨.commandTick, (Die.drive d).code, []⟩ else s
    (s.sendStateRecord d).sendReports d

/-! ### A control-period start -/

/-- The position interfaces at the start of control period `n`: a resolver takes the pair of the period before (R214). -/
def State.piStart (s : State) (d k n : Nat) : State :=
  if n = 0 then foldOver [0, 1] (fun p t =>
    let t := if t.flag (PI.PICFG_EN d p) && decide ((t.pi d p).grp = k) then t.modPi d p (fun x => { x with exc := 0 }) else t
    if t.flag (PI.PICFG_EN d p) && decide ((t.pi d p).grp = k) && (t.pi d p).encoder then t.piEncoder d p else t) s
  else s.piBoundary d k (n - 1)

/-- What a carrier start does: PER in force for the carrier (R624), latches (R204), the group's carrier count; the boundaries of a group that
is not the hop-master group are no hop boundaries (R71). -/
def State.carrierStart (s : State) (d k : Nat) (first : Bool) : State :=
  let s := s.modGrp d k (fun g => { g with carrierPer := g.aPer, carriers := if first then g.carriers else g.carriers + 1 })
  let s := foldOver (s.members d k) (fun j t => t.modPort d j (fun p => { p with edgeTap := 0 })) s
  let s := s.carrierLatches d k
  if s.hopMaster d = some k then s else s.modGrp d k (fun g => { g with hopTaken := g.carriers })

/-- A carrier boundary of the hop-master group carries out the return to SLOT0 that waits (R74). -/
def State.carrierReturn (s : State) (d k : Nat) : State :=
  if decide (s.hopMaster d = some k) && (s.hop d).returning then s.hopReturn d else s

/-- HOP_NEXT for the carrier that follows; at a hop boundary HOP_BOUNDARY shows it. -/
def State.carrierHop (s : State) (d k : Nat) : State :=
  if s.hopMaster d ≠ some k then s
  else
    if s.hopDue d (s.hopCarriers d) (s.hopTaken d) then s else s.refreshHopNext d

/-- Everything keyed to a control-period start of PG(4d+k) (R95, R623): `carrier` that a carrier period begins too, `first` that it is
the tick in which the counter starts. -/
def State.periodStart (s : State) (d k : Nat) (carrier first : Bool) : State :=
  let n := (s.grp d k).periods
  let s := (s.incMod (PWM.CNT_PCNT d k)).modGrp d k (fun g => { g with periods := n + 1, early := false })
  let s := if carrier then (s.carrierStart d k first).carrierReturn d k else s
  let s := s.checkStatics d k
  let s := (foldOver (s.members d k) (fun j t => t.loadDelays d j) s).ma1Finish d
  let s := (s.piStart d k n).gsuBoundary d k
  let s := foldOver [0, 1] (fun c t => t.cleBoundary d c k) s
  let s := if carrier then s.carrierHop d k else s
  let s := if s.hopMaster d = some k then s.commandPeriod d n else s
  s.sourceTicks d (k + 1)

/-- A boundary that the counter reaches: the transfer if one is due (R98, R100, R102), then everything keyed to it. -/
def State.boundaryAt (s : State) (d k : Nat) (carrier : Bool) : State :=
  let s := if carrier then s.keepFalls d k else s
  let s := if s.transferDue d k then s.transfer d k else s
  s.periodStart d k carrier false

/-- The end of a carrier period of a group that was asked to stop (R88).  It is no hop boundary: with the hop-master group stopped, the count
of the group that takes its part decides (R71; DESIGN CHOICE, assumption 19). -/
def State.stopAt (s : State) (d k : Nat) : State := (s.stopCounter d k).ma1Finish d

/-- PWM_GROUP_START (R85, R86, R623): the counter of a group that is due to start starts at PHASE, with the start transfer; a set with
PER = 0 leaves the group stopped. -/
def execPwmGroupStart (d k : Fin 4) (s : State) : Out := s.whileRuns <|
  .next (if !(s.grp d k).due || s.grpRuns d k || !s.dieRuns d then s
    else
      let t := s.transfer d k
      if s.get (PWM.PER_PER d k) = 0 then t.modGrp d k (fun g => { g with enabled := false, due := false })
      else
        let t := t.startCounter d k
        if t.atBoundary d k then t.periodStart d k (decide (t.get (PWM.CNT_COUNT d k) = 0)) true else t)

/-- CONTROL_PERIOD_BOUNDARY (R95): the counter of a running group reaches its next boundary position: in mode 1 with DBL_UPD = 1 valley
and peak in turn; in a variable mode PER_MIN after an early trigger edge (R91).  A group asked to stop stops where its carrier ends. -/
def execControlPeriodBoundary (d k : Fin 4) (s : State) : Out := s.whileRuns <|
  .next (
    let g := s.grp d k
    if !s.grpRuns d k || !s.dieRuns d then s
    else if variableMode g.mode && !g.early then s
    else
      let peak := decide (g.mode = 1) && g.dbl && !s.flag (PWM.CNT_DIR d k)
      let s := (s.set (PWM.CNT_COUNT d k) (if peak then g.carrierPer / 2 else 0)).setB (PWM.CNT_DIR d k) peak
      if g.stopping && !peak then s.stopAt d k else s.boundaryAt d k (!peak))

/-- A variable period ends. -/
def State.endVariable (s : State) (d k : Nat) : State :=
  let s := s.set (PWM.CNT_COUNT d k) 0
  if (s.grp d k).stopping then s.stopAt d k else s.boundaryAt d k true

/-- The fixed phase of a group in taps: the largest active DUTY among its members (R91). -/
def State.fixedPhase (s : State) (d k : Nat) : Nat :=
  (s.members d k).foldl (fun m j => max m (s.reg (PORT.ACT_DUTY d j)).toNat) 0

/-- VP_TRIGGER_EDGE (R91): an edge of the trigger comparator of the group's polarity; COUNT is how far the period has gone. -/
def execVpTriggerEdge (d k : Fin 4) (s : State) : Out := s.whileRuns <|
  .next (if !s.grpRuns d k || !s.dieRuns d || !variableMode (s.grp d k).mode
        || decide (64 * s.get (PWM.CNT_COUNT d k) < s.fixedPhase d k) then s
    else if s.get (PWM.CNT_COUNT d k) < s.perMinActs d k then s.modGrp d k (fun g => { g with early := true })
    else s.endVariable d k)

/-- VP_TIMEOUT (R92): PER ticks without a trigger edge. -/
def execVpTimeout (d k : Fin 4) (s : State) : Out := s.whileRuns <|
  .next (if !s.grpRuns d k || !s.dieRuns d || !variableMode (s.grp d k).mode then s
    else (s.setB (PWM.STAT_VP_TIMEOUT d k) true).endVariable d k)

/-- TIME_EVENT_ARRIVAL (R86, R187): the groups of the die that wait for a start event are due to start; trigger source 10. -/
def execTimeEventArrival (d : Fin 4) (s : State) : Out := s.whileRuns <|
  .next (if !s.dieRuns d then s
    else
      let s := foldOver (List.range 4) (fun k t =>
        if (t.grp d k).waiting then t.modGrp d k (fun g => { g with waiting := false, due := true }) else t) s
      s.sourceTicks d 10)

/-- A read of TTIME_LO captures TTIME_HI of the same tick for the next read of TTIME_HI (R156). -/
def State.captureTtime (s : State) (d : Nat) : State :=
  let hi := s.ttime d / 2 ^ 32
  s.modDrive d (fun x => { x with ttHold := some hi })

/-- TTIME_LO_READ (R156). -/
def execTtimeLoRead (d : Fin 4) (s : State) : Out := s.whileRuns <|
  .next ((s.captureTtime d).send ⟨.readReturn, (Die.drive d).code, [TRIP.TTIME_LO d, s.ttime d % 2 ^ 32]⟩)

end Sys2Proof.Machine
end

