-- ==== Sys2Proof/Machine/Stops.lean ====
section
/-!
DEFINITION. Sys2Proof/Machine/Stops.lean: resets, boot attempts and stops (chapter 12): what a main reset leaves, BOOT_OK and BOOT_TMO, the
controlled stop, RESTART, the checkpoint timer.
-/

namespace Sys2Proof.Machine

/-- Change what holds the main domains. -/
def State.modPower (s : State) (f : Power → Power) : State := { s with power := f s.power }

/-! ### Main resets (R443-R447) -/

/-- Does a register belong to the keeper or the RTC, whose content outlasts a main reset?  WR_PEND is the interface's (R47). -/
def outlastsReset (a : Nat) : Bool :=
  [RTC.WR_PEND, KPR.WR_PEND].any (fun w => decide (a / 0x4000 = w / 0x4000) && decide (a ≠ w))

/-- Does a register belong to a comparator that stays powered in standby: in M2 or M3 with WAKE_EN = 1 (R208)? -/
def State.standbyReg (s : State) (a : Nat) : Bool :=
  s.power.standby && (List.range 64).any (fun q =>
    decide (2 ≤ (vget s.cmps q).mode) && s.flag (CMP.CCFG_EN (q / 16) (q % 16)) && s.flag (CMP.CCFG_WAKE_EN (q / 16) (q % 16))
      && decide (a / 0x40 = CMP.CCFG (q / 16) (q % 16) / 0x40))

/-- What the keeper holds of the safety side, with the password whose commit it has been asked for. -/
def Safety.kept (x : Safety) : Safety where
  pw := x.pw
  log := x.log
  nextLog := x.nextLog
  opened := x.opened
  asked := (x.asked.filter (fun a => a.pw.isSome)).map (fun a => { a with reply := none })

/-- The main domains are in reset (section "What survives"): all their state is as at reset; the keeper, the RTC, the MRAM's content and what
waits for its commit stay, in standby the comparators that can wake too (R208); so do commands that wait and messages sent. -/
def State.resetMain (s : State) : State :=
  let kept := s.regs.filter (fun (c : Nat × RegCell) => outlastsReset c.1 || s.standbyReg c.1)
  { State.reset with
    cmps := if s.power.standby then s.cmps else State.reset.cmps
    cmds := Vector.replicate 2 {}
    pending := s.pending, out := s.out, freeCnt := s.freeCnt, regs := kept, keeper := s.keeper, sys := s.sys, persist := s.persist
    life := { s.life with inc := { temps := s.life.inc.temps.filter (fun (t : Nat × Nat) => decide (256 ≤ t.1)) } }
    power := { good := s.power.good, vdd18 := s.power.vdd18, reset := true, test := s.power.test, hold := s.power.hold, standby := s.power.standby, released := false }
    safety := s.safety.kept
    meters := s.meters.map (fun p => { waiting := p.waiting, saved := p.saved })
    dict := { appStore := s.dict.appStore, appCommits := s.dict.appCommits, restore := s.dict.restore
              commit := s.dict.commit.map (fun c => { c with live := false }) } }

/-- R447: a reset of running main domains before a controlled stop is recorded (R459) ends the run uncontrolled. -/
def State.recordUncontrolled (s : State) : State :=
  if s.mainRuns && decide (s.power.stopStep < 3) && s.keeper.powered then
    let s := s.modSys (fun y => { y with stopSec := none })
    (s.countEvent .stopUnc).enterFault 8 8 0xFF 0 0
  else s

/-- A main reset (R445). -/
def State.mainReset (s : State) : State := s.recordUncontrolled.resetMain

/-- MAIN_DOMAINS_GOOD (R443). -/
def execMainDomainsGood (s : State) : Out := .next (s.modPower (fun p => { p with good := true, vdd18 := true }))

/-- MAIN_SUPPLY_FALL (R445): a main supply is below its falling threshold, and the outputs hold the reset state; `vdd18`: VDD18 is below its own, so
that the gate outputs have no supply to drive from (R125, R444, R606).  While another supply is still low, the command with VDD18 good again
drives them off. -/
def execMainSupplyFall (vdd18 : Bool) (s : State) : Out :=
  .next (s.mainReset.modPower (fun p => { p with good := false, vdd18 := !vdd18 }))

/-- RESET_N_LOW (R445). -/
def execResetNLow (s : State) : Out := .next s.mainReset

/-- TEST_EN_CHANGE (R603): while it is high the main domains are in reset. -/
def execTestEnChange (level : Bool) (s : State) : Out :=
  .next ((if level then s.mainReset else s).modPower (fun p => { p with test := level }))

/-! ### Boot attempts (R453-R455) -/

/-- Change the newest attempt while it is open. -/
def State.modAttempt (s : State) (f : BootAttempt → BootAttempt) : State :=
  match s.sys.attempts with
  | a :: r => if a.opened then s.modSys (fun y => { y with attempts := f a :: r }) else s
  | [] => s

/-- Do three counted failed attempts lie within 10 min by their RTC times (R455)? -/
def threeFailed (l : List BootAttempt) : Bool :=
  let f := l.filter (fun a => a.counts && decide (a.result ≠ 0))
  f.any (fun a => decide (3 ≤ (f.filter (fun b => decide (a.sec ≤ b.sec) && decide (b.sec ≤ a.sec + 600))).length))

/-- The newest attempt fails with a result (R454); three failed attempts within 10 min set the recovery latch (R455). -/
def State.failAttempt (s : State) (result : Nat) : State :=
  let sec := s.get RTC.RTC_SEC_SEC
  let s := s.modAttempt (fun a => { a with result := result, opened := false })
  let s := (s.countEvent .bootFail).enterFault 6 8 0xFF result 0
  let s := s.set START.STSTAT_ATT_FAIL (failedWithin s.sys.attempts sec)
  if threeFailed s.sys.attempts then (s.modSys (fun y => { y with latch := true })).setB START.STSTAT_RECOV true else s

/-- A write of BOOT_OK (R453): it is accepted once in a run, after the release. -/
def State.bootOk (s : State) : State :=
  if !s.power.released || s.flag START.STSTAT_BOOT_DONE || s.flag START.STSTAT_RECOV then s
  else
    let s := s.modAttempt (fun a => { a with opened := false })
    (s.setB START.STSTAT_BOOT_DONE true).set START.SMS_OK_MS (min 65535 s.power.ms)

/-- BOOT_OK. -/
def execBootOk (s : State) : Out := s.whileRuns <| .next s.bootOk

/-- BOOT_TMO_EXPIRE (R454): result 2, then the keeper's internal reset. -/
def execBootTmoExpire (s : State) : Out :=
  .next (if !s.mainRuns || !s.power.released || s.flag START.STSTAT_BOOT_DONE || decide (s.power.stopStep ≠ 0) then s
    else (s.failAttempt 2).mainReset)

/-! ### The controlled stop (R457-R459) -/

/-- Steps 1 and 2: DISCONNECT in the drive dies with GRID_EN, SS1 in both channels unless they have removed the energy. -/
def State.beginStop (s : State) (restart : Bool) : State :=
  let s := (s.setB START.STSTAT_STOPPING true).modPower (fun p => { p with stopStep := 1, restart := restart })
  let s := foldOver ((List.range 4).filter (fun d => s.flag (GSU.GCFG_GRID_EN d))) (fun d t => t.disconnect d) s
  (foldOver [0, 1] (fun ch t => t.chanSs1 ch) s).driveSto

/-- A write of STOP. -/
def State.stop (s : State) : State :=
  if !s.flag START.STSTAT_BOOT_DONE || s.flag START.STSTAT_STOPPING then s.setB START.STSTAT_STOP_REJ true else s.beginStop false

/-- STOP (R457). -/
def execStop (s : State) : Out := s.whileRuns <| .next s.stop

/-- A write of RESTART (R456, R458): the abort code, 0 when it is accepted. -/
def State.restart (s : State) (v : Nat) : Nat × State :=
  if v ≠ 1 ∧ v ≠ 2 then (0x0401, s)
  else if s.flag START.STSTAT_STOPPING then (0x0403, s.setB START.STSTAT_STOP_REJ true)
  else
    let s := if v = 1 then s.modSys (fun y => { y with coldNext := true }) else s
    let s := if s.sys.latch then
        (s.modSys (fun y => { y with latch := false, attempts := y.attempts.map (fun a => { a with counts := false }) })).set START.STSTAT_ATT_FAIL 0
      else s
    (0, (s.setB START.STSTAT_RECOV s.sys.latch).beginStop true)

/-- RESTART (R458): the value written. -/
def execRestart (v : BitVec 8) (s : State) : Out := s.whileRuns <| .next (s.restart v.toNat).2

/-- Has each channel removed the energy, STO or LOCKED? -/
def State.bothRemoved (s : State) : Bool := [0, 1].all (fun ch => decide ((s.chan ch).st = .sto) || decide ((s.chan ch).st = .locked))

/-- CONTROLLED_STOP_COMMIT (R457, step 3): the metering points, the checkpoint, and a lifetime merge with what the rainflow stacks still held
(R565). -/
def execControlledStopCommit (s : State) : Out := s.whileRuns <|
  .next <|
    if s.power.stopStep ≠ 1 || !s.bothRemoved then s
    else
      let s := foldOver [0, 1, 2] (fun m t => t.meterCommit m) s
      let s := foldOver ((List.range 28).filter (fun n => !(vget s.drives (n / 7)).retired)) (fun n t => t.flushStack (n / 7) (n % 7)) s
      ((s.burstRequest 4).startMerge).modPower (fun p => { p with stopStep := 2 })

/-- Is a burst of one of the classes of step 3 queued or running? -/
def State.stopCommitsWait (s : State) : Bool :=
  [4, 5, 8, 9].any (fun c => (s.get KPR.KQ_QUEUE).testBit c || decide (s.keeper.running = some c))

/-- CONTROLLED_STOP_COMPLETE (R457, steps 4 and 5): recorded; the attempt that is open closes; PWR_HOLD falls, with standby by STOP_KIND
(R459), or the keeper's internal reset follows a RESTART (R458). -/
def execControlledStopComplete (s : State) : Out := s.whileRuns <|
  .next <|
    if s.power.stopStep ≠ 2 || s.stopCommitsWait then s
    else
      let sec := s.get RTC.RTC_SEC_SEC
      let s := (s.modSys (fun y => { y with stopSec := some sec })).modAttempt (fun a => { a with opened := false })
      let s := (s.countEvent .stopCtl).modPower (fun p => { p with stopStep := 3 })
      if s.power.restart then s.mainReset
      else s.modPower (fun p => { p with hold := false, standby := decide (s.dnat DP.SYS_STOP_KIND = 1) })

/-- CHECKPOINT_TIMER (R459): every CKPT_INT while the main domains run. -/
def execCheckpointTimer (s : State) : Out := .next (if s.mainRuns then s.burstRequest 4 else s)

end Sys2Proof.Machine
end

