-- ==== Sys2Proof/Machine/Responses.lean ====
section
/-!
DEFINITION. Sys2Proof/Machine/Responses.lean: the dictionary engine's messages and sessions (R510-R530): responses and ABORT messages on
both transports, segmented reads, the end of a session, the declaration (R531, R534) and the shell's answers (R532, R533).
-/

namespace Sys2Proof

/-- The `n` bytes of a number, little-endian (R505). -/
def leBytes (x n : Nat) : List Nat := (List.range n).map (fun i => x / 256 ^ i % 256)

/-- The key of an entry. -/
def DictReq.key (r : DictReq) : Nat := 256 * r.index.toNat + r.sub.toNat

/-- The data of a request: LEN bytes. -/
def DictReq.bytes (r : DictReq) : List Nat := (r.data.take r.len.toNat).map BitVec.toNat

/-- M: the largest LEN of a client's transport (R524). -/
def DictClient.maxLen : DictClient → Nat
  | .udp .. => 1024
  | .can .. => 50

/-- Are two requests from one client, in the binding of R522 and R523? -/
def DictClient.same : DictClient → DictClient → Bool
  | .udp _ _ x y _, .udp _ _ x' y' _ => decide (x = x') && decide (y = y')
  | .can n c, .can n' c' => decide (n = n') && decide (c = c')
  | _, _ => false

/-- A message that carries a request's header back (R524): service, flags, context, GEN, data. -/
def DictReq.message (r : DictReq) (svc flags ctx gen : Nat) (data : List Nat) : List Nat :=
  [svc, flags, ctx, gen] ++ leBytes r.tid.toNat 2 ++ leBytes r.index.toNat 2 ++ [r.sub.toNat, 0] ++ leBytes r.segno.toNat 2
    ++ leBytes data.length 2 ++ data

end Sys2Proof

namespace Sys2Proof.Machine

/-- Change the session of a flow context. -/
def State.modSession (s : State) (f : Nat) (g : Session → Session) : State :=
  s.modFlow f (fun x => { x with session := x.session.map g })

/-- The IPv4 payload of a UDP datagram from the engine (R522); identification and time to live are not stated. -/
def State.udpPacket (s : State) (ip udp : Nat) (m : List Nat) : List Nat :=
  let own := beBytes (s.dnat DP.IP_IP_ADDR) 4
  let len := 8 + m.length
  let h0 := [0x45, 0] ++ beBytes (20 + len) 2 ++ beBytes (Config.ipField 0) 2 ++ [0, 0, Config.ipField 1 % 256, 17, 0, 0] ++ own ++ beBytes ip 4
  let hdr := putBytes h0 10 (beBytes (0xFFFF - onesSum h0) 2)
  let u0 := beBytes (s.dnat DP.IP_UDP_PORT) 2 ++ beBytes udp 2 ++ beBytes len 2 ++ [0, 0] ++ m
  let sum := 0xFFFF - onesSum (own ++ beBytes ip 4 ++ [0, 17] ++ beBytes len 2 ++ u0)
  hdr ++ putBytes u0 6 (beBytes (if sum = 0 then 0xFFFF else sum) 2)

/-- A message leaves for a client (R522, R523). -/
def State.toClient (s : State) (c : DictClient) (m : List Nat) : State :=
  let s := s.send ⟨.dictResponse, 6, m⟩
  match c with
  | .udp p mac ip udp tag => s.originate p (fun _ => s.dnat DP.IP_DICT_Q % 8) mac tag 0x0800 (s.udpPacket ip udp m) none
  | .can n k =>
    s.canSend n ⟨false, s.dnat (DP.CANC_DREQ_BASE n) + 2 * k + 1, true, false, m ++ List.replicate (canLen m.length - m.length) 0,
      s.flag (CAN.CCFG_BRS_EN n)⟩ none

/-- The engine answers a request of an open session and keeps the answer for a repeat (R528). -/
def State.answerWith (s : State) (svc : Nat) (r : DictReq) (m : List Nat) : State :=
  (s.modSession r.session.toNat (fun x => { x with last := some (svc, r.tid.toNat, r.segno.toNat, m) })).toClient r.client m

/-- A response: flags and data. -/
def State.answer (s : State) (svc : Nat) (r : DictReq) (flags : Nat) (data : List Nat) : State :=
  s.answerWith svc r (r.message (svc + 0x80) flags r.session.toNat r.gen.toNat data)

/-- An ABORT message with an abort word for a request of an open session (R530). -/
def State.abort (s : State) (svc : Nat) (r : DictReq) (word : Nat) : State :=
  s.answerWith svc r (r.message 0x7F 0 r.session.toNat r.gen.toNat (leBytes word 4))

/-- An ABORT message for a request that belongs to no open session. -/
def State.refuse (s : State) (r : DictReq) (word : Nat) : State :=
  s.toClient r.client (r.message 0x7F 0 r.session.toNat r.gen.toNat (leBytes word 4))

/-- The value of a READ: whole, or announced as a segmented transfer (R526). -/
def State.sendValue (s : State) (svc : Nat) (r : DictReq) (v : List Nat) : State :=
  if v.length ≤ r.client.maxLen then s.answer svc r 0 v
  else
    let x : Transfer := { down := false, tid := r.tid.toNat, key := r.key, data := v, total := v.length, next := 1 }
    (s.modSession r.session.toNat (fun y => { y with xfer := some x })).answer svc r 1 (leBytes v.length 4)

/-! ### Flow contexts and sessions (R513-R516) -/

/-- The flow contexts that hold a session. -/
def State.sessions (s : State) : List Nat := (List.range 128).filter (fun f => (vget s.flows f).session.isSome)

/-- SESS_CNT, SC_CNT and PF_CNT. -/
def State.refreshDict (s : State) : State :=
  let n (p : Nat → Bool) : Nat := ((List.range 128).filter (fun f => p (s.use f))).length
  ((s.set DICT.DSTAT_SESS_CNT s.sessions.length).set DICT.DSTAT_SC_CNT (n (fun u => decide (u = 3)))).set DICT.DSTAT_PF_CNT
    (n (fun u => decide (u = 1 ∨ u = 2)))

/-- A session ends (R513): its context is free at once, its transfer ends without a response; what it had asked of the application has
no requester left; a safety session that it held closes (R428). -/
def State.closeSession (s : State) (f : Nat) : State :=
  let s := if s.safety.session = some f then s.safetyClose else s
  let s := (s.modFlow f (fun x => { x with session := none })).setDval (DP.FC_TYPE f) (.num 0)
  (s.modDict (fun d => { d with appReqs := d.appReqs.filter (fun a => decide (a.req.session.toNat ≠ f)) })).refreshDict

/-- The session that a request names, if it is open with the request's GEN (R525). -/
def State.sessionOf (s : State) (r : DictReq) : Option Session :=
  let x := vget s.flows r.session.toNat
  if x.gen % 256 = r.gen.toNat then x.session else none

/-! ### Application objects (R531-R534) -/

/-- Declaration entry `i` as the window holds it. -/
def State.declEntry (s : State) (i : Nat) : DeclEntry :=
  let w (k : Nat) : Word := s.memWord (0x48260000 + 16 * i + 4 * k)
  { index := getBits (w 0) 0 16, nsub := getBits (w 0) 16 8, ty := getBits (w 0) 24 8, acc := getBits (w 1) 0 2, m := (w 1).getLsbD 2
    p := (w 1).getLsbD 3, f := getBits (w 1) 8 5, max := getBits (w 1) 16 11, dflt := (w 2).toNat + 2 ^ 32 * (w 3).toNat }

/-- Is an entry good after the index before it (R531)? -/
def DeclEntry.good (e : DeclEntry) (before : Nat) : Bool :=
  decide (0x8000 ≤ e.index) && decide (e.index < 0xC000) && decide (before < e.index) && decide (e.nsub ≠ 0)
    && decide (1 ≤ e.ty) && decide (e.ty ≤ 13) && decide (e.max ≤ 1024)

/-- The first bad entry of a list: its number. -/
def firstBad : List DeclEntry → Nat → Nat → Option Nat
  | [], _, _ => none
  | e :: r, before, i => if e.good before then firstBad r e.index (i + 1) else some i

/-- Does a stored value fit a declaration: its type, and a length within the maximum (R534)? -/
def DeclEntry.fits (e : DeclEntry) (v : Nat × List Nat) : Bool :=
  decide (v.1 = e.ty) && (decide (e.ty < 12) || decide (v.2.length ≤ e.max))

/-- The restored values that a declaration brings (R534), one frame of kind 3 each; context, GEN and TID are not stated. -/
def State.restoreValues (s : State) (l : List DeclEntry) : State :=
  l.foldl (fun t e =>
    if !e.p then t
    else foldOver ((List.range e.nsub).map (· + 1)) (fun sub u =>
      match Assoc.get u.dict.appStore (256 * e.index + sub) with
      | some v =>
        if e.fits v then
          let (n, u) := u.fresh
          let x := Config.unstated n
          u.inputFrame (x % 256) 3 ([x % 256] ++ leBytes (x / 256) 3 ++ leBytes e.index 2 ++ [sub, 2] ++ v.2)
        else u
      | none => u) t) s

/-- A write of DECL_COMMIT (R531). -/
def State.declCommit (s : State) : State :=
  let n := s.get DICT.DECL_DECL_LEN
  let l := (List.range n).map (fun i => s.declEntry i)
  let refused (bad : Nat) : State := (s.setB DICT.DSTAT_DECL_ERR true).set DICT.DECL_DECL_BAD bad
  if s.flag DICT.DSTAT_DECL_DONE then s.setB DICT.DSTAT_DECL_ERR true
  else if 512 < n then refused 0
  else match firstBad l 0 0 with
    | some i => refused i
    | none => ((s.setB DICT.DSTAT_DECL_DONE true).modDict (fun d => { d with decl := some l })).restoreValues l

/-- DECL_COMMIT. -/
def execDeclCommit (s : State) : Out := s.whileRuns <| .next s.declCommit

/-- Has the application store of 16 KiB, with the values that wait for their commit, no room for a value (R530, R533)? -/
def State.storeFull (s : State) (key len : Nat) : Bool :=
  let waiting := s.dict.appCommits.foldl (fun (m : List (Nat × Nat)) a => Assoc.put m a.req.key a.val.length) (s.dict.appStore.map (fun e => (e.1, e.2.2.length)))
  decide (16384 < ((Assoc.del waiting key).map (fun e => e.2)).foldl (· + ·) 0 + len)

/-- A write of RESP_GO (R532, R533): the answer to the outstanding request that RESP names. -/
def State.respGo (s : State) : State :=
  let mine (a : AppReq) : Bool := decide (a.req.session.toNat = s.get DICT.RESP_SESSION) && decide (a.req.gen.toNat = s.get DICT.RESP_GEN)
    && decide (a.req.tid.toNat = s.get DICT.RESP_TID)
  match s.dict.appReqs.find? mine with
  | none => s.setB DICT.DSTAT_RESP_STALE true
  | some a =>
    let s := s.modDict (fun d => { d with appReqs := d.appReqs.filter (fun x => !mine x) })
    let word := s.get DICT.RESP_ABORT_RESP_ABORT
    if word ≠ 0 then s.abort a.svc a.req word
    else if !a.write then
      let v := (Memory.readBytes s.mem 0x48270000 (min 1024 (s.get DICT.RESP_LEN_RESP_LEN))).map BitVec.toNat
      s.sendValue a.svc a.req v
    else if a.persist then
      if s.storeFull a.req.key a.val.length then s.abort a.svc a.req 0x0504
      else (s.modDict (fun d => { d with appCommits := d.appCommits ++ [a] })).burstRequest 7
    else s.answer a.svc a.req 0 []

/-- RESP_GO. -/
def execRespGo (s : State) : Out := s.whileRuns <| .next s.respGo

/-- APP_TIMEOUT (R533): the request of session `f` with this TID has not been answered. -/
def execAppTimeout (f : Fin 128) (tid : BitVec 16) (s : State) : Out := s.whileRuns <|
  .next <|
    let mine (a : AppReq) : Bool := decide (a.req.session.toNat = f) && decide (a.req.tid = tid)
    match s.dict.appReqs.find? mine with
    | none => s
    | some a =>
      let s := s.modDict (fun d => { d with appReqs := d.appReqs.filter (fun x => !mine x) })
      (s.incSat DICT.DCNT_APP_TMO_CNT).abort a.svc a.req 0x0502

end Sys2Proof.Machine
end

