-- ==== Sys2Proof/Machine/Writes.lean ====
section
/-!
DEFINITION. Sys2Proof/Machine/Writes.lean: writes to registers and memory windows: the aliases (R32-R35), what the write of each register
brings about, and who may write where (R20, R21, R339, R355, R369, R383, R441).
-/

namespace Sys2Proof.Machine

/-! ### The word that a write leaves (R32) -/

/-- One field under a write: `al` the alias (0 normal, 1 set, 2 clear, 3 toggle), V, D. -/
def Acc.written (acc : Acc) (al v d : Nat) : Nat :=
  match acc, al with
  | .rw, 0 => d
  | .rw, 1 => v ||| d
  | .rw, 2 => v ^^^ (v &&& d)
  | .rw, 3 => v ^^^ d
  | .w1c, 0 | .w1c, 2 => v ^^^ (v &&& d)
  | .w1s, 0 | .w1s, 1 => v ||| d
  | _, _ => v

/-- The register's word after a write. -/
def RegRow.written (r : RegRow) (al : Nat) (old d : Word) : Word :=
  r.fields.foldl (fun w f => putBits w f.lo f.w (f.acc.written al (getBits old f.lo f.w) (getBits d f.lo f.w))) old

/-- The bits of a write that act: those of WO and W1S fields, through the normal and the set alias. -/
def RegRow.acting (r : RegRow) (al : Nat) (d : Word) : Word :=
  if al < 2 then r.fields.foldl (fun w f => if f.acc = .wo ∨ f.acc = .w1s then putBits w f.lo f.w (getBits d f.lo f.w) else w) 0 else 0

/-- The bits of a write that clear W1C fields. -/
def RegRow.clearing (r : RegRow) (al : Nat) (d : Word) : Word :=
  if al = 0 ∨ al = 2 then r.fields.foldl (fun w f => if f.acc = .w1c then putBits w f.lo f.w (getBits d f.lo f.w) else w) 0 else 0

/-! ### What the write of a register brings about -/

/-- A register of a port's block: offset, word left, acting and clearing bits. -/
def State.portWrite (s : State) (d j off a : Nat) (w act clr : Word) : State :=
  match off with
  | 0x000 => s.portShadow d j 0 w
  | 0x004 => s.portShadow d j 1 w
  | 0x008 => s.portShadow d j 2 w
  | 0x00C => s.pmodeApply d j w
  | 0x040 | 0x044 | 0x048 => (s.setReg a w).compareDelay d j
  | 0x100 => if j < 6 then s.pcfgApply d j w else s.setReg a w
  | 0x10C =>
    if j < 6 then (if act.getLsbD 4 then s.faultClear d j else s)
    else if clr.getLsbD 0 then s.bootUvClear d else s
  | _ => s.setReg a w

/-- A register of a PWM block, group `k`.  PHASE is a shadow field, but no register holds a tag of it, so none is kept (R99; DESIGN CHOICE,
assumption 67). -/
def State.pwmWrite (s : State) (d k off a : Nat) (w : Word) : State :=
  match off with
  | 0x00 => s.gcfgApply d k w
  | 0x04 => s.perShadow d k w
  | 0x10 => (s.setReg a w).staticWrite d k false true
  | 0x14 => (s.setReg a w).staticWrite d k true false
  | _ => s.setReg a w

/-- A chopper port whose group does not select the over-voltage scheme holds both outputs off (R168). -/
def State.holdChoppers (s : State) (d k : Nat) : State :=
  foldOver (s.tgPorts d k) (fun j t =>
    if t.chopperRole d j && !t.selectsOv d k then t.bothOff d j else t) s

/-- TRIPIN: a filtered level of TRIPx that a change of POL makes active, or inactive, is so at once (R136). -/
def State.tripinApply (s : State) (d : Nat) (w : Word) : State :=
  let was := s.get (TRIP.TRIPIN_POL d)
  let s := s.setReg (TRIP.TRIPIN d) w
  let now := s.get (TRIP.TRIPIN_POL d)
  (s.modDrive d (fun x => { x with tripIn := x.tripIn ^^^ was ^^^ now })).refreshTrips d

/-- TGCFG (R256): while GRID_EN = 1 a write that would set SAFE in a group with a member port is ignored. -/
def State.tgcfgApply (s : State) (d k : Nat) (w : Word) : State :=
  if s.flag (GSU.GCFG_GRID_EN d) && decide (getBits w 0 2 ≠ 0) && decide (k ∈ s.gridTgs d) then s.setB (GSU.GSTAT_GRID_CFG_ERR d) true
  else ((s.setReg (TRIP.TGCFG d k) w).holdChoppers d k).refreshTrips d

/-- A register of a trip block. -/
def State.tripWrite (s : State) (d i off a : Nat) (w : Word) : State :=
  match off with
  | 0x000 => s.tgcfgApply d i w
  | 0x004 => s.srcMaskApply d i w
  | 0x008 => s.tgModeApply d i (getBits w 0 2)
  | 0x200 => ((s.setReg a w).refreshCuffs d).refreshTrips d
  | 0x308 => s.tripinApply d w
  | 0x310 => s.membersApply d w
  | _ => s.setReg a w

/-- A register of a comparator. -/
def State.cmpWrite (s : State) (d i off a : Nat) (w clr : Word) : State :=
  match off with
  | 0x0 => s.ccfgApply d i w
  | 0x4 => s.cthrApply d i w
  | 0x8 =>
    let keep := putBits w 1 1 (getBits (s.reg a) 1 1)
    let s := s.setReg a keep
    if clr.getLsbD 1 then s.latWrite d i else s
  | 0xC =>
    let (n, s) := s.fresh
    s.chkWrite d i (getBits w 0 3) (s.checkShows d i (getBits w 0 3) (Config.checkOut n))
  | _ => s.setReg a w

/-- A register of an ADC core: the injected trigger before the regular one (R192). -/
def State.adcWrite (s : State) (d k off a : Nat) (w act : Word) : State :=
  match off with
  | 0x00 => s.acfgApply d k w
  | 0x10 =>
    let s := if act.getLsbD 1 then s.injTrigger d k else s
    if act.getLsbD 0 then s.regTrigger d k else s
  | _ => s.setReg a w

/-- A register of the ride-through block. -/
def State.rtsWrite (s : State) (d off a : Nat) (w act : Word) : State :=
  match off with
  | 0x00 => s.rtcfgApply d w
  | 0x20 =>
    let s := if act.getLsbD 0 then s.connect d else s
    if act.getLsbD 1 then s.disconnect d else s
  | 0x14 => (s.setReg a w).refreshReady d
  | 0x18 => (s.setReg a w).rcCheck d
  | 0x1C => (s.setReg a w).rcCheck d
  | _ => s.setReg a w

/-- A register of a check-value unit. -/
def State.crcWrite (s : State) (u off a : Nat) (w act : Word) (al : Nat) (d : Word) : State :=
  match off with
  | 0x18 => s.crcControl u act.toNat
  | 0x1C => s.crcVal u w.toNat
  | 0x30 => if al < 2 then s.crcFeed u (dataBytes d.toNat 4) else s
  | 0x34 => if al < 2 then s.crcFeed u (dataBytes d.toNat 2) else s
  | 0x38 => if al < 2 then s.crcFeed u (dataBytes d.toNat 1) else s
  | _ => s.setReg a w

/-- The dictionary block. -/
def State.dictBlockWrite (s : State) (i off a : Nat) (w act : Word) : State :=
  match off with
  | 0x04 =>
    let s := s.setReg a (putBits w 0 1 0)
    if act.getLsbD 0 then s.declCommit else s
  | 0x14 => if act.getLsbD 0 then s.respGo else s
  | 0x20 => s.releaseTx i act.toNat
  | _ => s.setReg a w

/-- The register at key `a` is left with the word `w`; `act` and `clr` are the bits that act and that clear, `al` the alias, `dat` the data. -/
def State.applyReg (s : State) (r : RegInfo) (a : Nat) (w act clr : Word) (al : Nat) (dat : Word) : State :=
  let e := dieOfKey a
  let d := match e with | some e => e.driveNo | none => 0
  let drive := match e with | some e => e.isDrive | none => false
  let off := r.row.off
  match r.block.name with
  | "REGCTL" =>
    match e with
    | some e => if off = 0 then s.parClear e clr.toNat else s.setReg a w
    | none => s
  | "CLK" =>
    if !drive then s.setReg a w
    else if off = 0x08 then s.hopCfgApply d w
    else if off = 0x40 then s.slotApply d r.i w
    else s.setReg a w
  | "PWM" => s.pwmWrite d r.i off a w
  | "PORT" => s.portWrite d r.inst off a w act clr
  | "APB" => s.portWrite d 6 off a w act clr
  | "TRIP" => s.tripWrite d r.i off a w
  | "ADC" => s.adcWrite d r.inst off a w act
  | "CMP" => s.cmpWrite d r.i off a w clr
  | "PI" => if off = 0 then s.picfgApply d r.inst w else s.setReg a w
  | "CLE" => if off = 0 then s.clecfgApply d r.inst w else if off = 4 then s.cleFlagsApply d r.inst w else (s.setReg a w).refreshTrips d
  | "GSU" => if off = 0 then s.gcfgGridApply d w else s.setReg a w
  | "RTS" => s.rtsWrite d off a w act
  | "CURVE" => s.curveApply d a w
  | "MP" => if off = 0 then s.mcfgApply r.inst w else if off = 4 then s.intcfgApply r.inst w else s.setReg a w
  | "CMD" =>
    if off = 0x10 then foldOver (bitsOf 4 act.toNat) (fun k t => t.doneWrite (if 0x150000000 ≤ a then 1 else 0) k) s else s.setReg a w
  | "START" =>
    if off = 4 then
      let s := if act.getLsbD 0 then s.bootOk else s
      if act.getLsbD 1 then s.stop else s
    else s.setReg a w
  | "ETH" => if off = 0 then s.ethCfgApply r.inst w else s.setReg a w
  | "GATE" => if off = 0x10 then (if act.getLsbD 0 then s.gateApply r.inst else s) else s.setReg a w
  | "TIME" => if off < 0x10 then s.timeCfgApply a w else s.setReg a w
  | "TU" => if off = 0 then s.tuCfgApply r.i w else if off = 4 then s.tuTarget r.i w else s.setReg a w
  | "CAN" =>
    if off = 0 then s.canCfgApply r.inst w
    else if off = 0x14 then (if act.getLsbD 0 then s.canRecover r.inst else s)
    else s.setReg a w
  | "DICT" => s.dictBlockWrite r.i off a w act
  | "KPR" => (s.setReg a w).refreshHarvest false
  | "CRC" => s.crcWrite r.inst off a w act al dat
  | "MAINT" =>
    if off = 0 then (if act.getLsbD 31 then (s.requestWord (act.toNat % 2 ^ 31)).2 else s)
    else if off = 0xC then (if act.getLsbD 31 then s.cancelSlot (act.toNat % 16) else s)
    else s.setReg a w
  | _ => s.setReg a w

/-! ### Writes at a block -/

/-- A write of one word to a memory window: CLE memories by R249, the curve memory by R273, a transmit buffer that the shell begins
(R368). -/
def State.windowWrite (s : State) (a : Nat) (w : Word) : State :=
  if a < 0x44000000 then
    let d := (a - 0x40000000) / 0x1000000
    let o := a % 0x1000000
    if o < 0x188000 then s.cleMemWrite d ((o - 0x180000) / 0x4000) 0 (o % 0x4000 / 4) w
    else if o < 0x191000 then s.cleMemWrite d ((o - 0x190000) / 0x800) 1 (o % 0x800 / 4) w
    else if o < 0x1A4000 then s.cleMemWrite d ((o - 0x1A0000) / 0x2000) (2 + (o - 0x1A0000) % 0x2000 / 0x1000) (o % 0x1000 / 4) w
    else match regInfo a with
      | some r => s.curveApply d a (r.row.written 0 (s.reg a) w)
      | none => s
  else if a < 0x48260000 then s
  else
    let s := s.setMemWord a w
    if 0x48280000 ≤ a then s.modFlow ((a - 0x48280000) / 0x800) (fun x => { x with begun := true }) else s

/-- A write of 32 bits that a block accepts: the key of its normal alias, the alias, the data.  Nothing is implemented elsewhere (R30). -/
def State.writeAt (s : State) (a al : Nat) (d : Word) : State :=
  if a % 4 ≠ 0 then s
  else if inMemWindow a then s.windowWrite a d
  else match regInfo a with
    | none => s
    | some r =>
      if al ≠ 0 ∧ d = 0 then s
      else
        let s := if al ≠ 0 then s.checkParity a true else s
        let act := r.row.acting al d
        s.applyReg r a (r.row.written al (s.reg a) d &&& r.implemented) act (r.row.clearing al d) al d

/-- A write by an address of the core map. -/
def State.writeAddr (s : State) (c a : Nat) (d : Word) : State := s.writeAt (normalKey c a) (aliasOf a) d

/-- A write to a command die's own SRAM or own blocks. -/
def State.ownWrite (s : State) (c a : Nat) (d : Word) : State :=
  if a < 0x200000 then s.setMemWord (a + c * 2 ^ 32) d else s.writeAddr c a d

/-! ### Reads -/

/-- A read of the low word of a pair captures the high word of the same moment (R46, R156, R324, R482). -/
def State.captureFor (s : State) (a : Nat) : State :=
  if a = RTC.RTC_SUB then s.captureRtc
  else if a = TIME.LT_NS then s.captureLt
  else match (List.range 4).find? (fun d => decide (a = TRIP.TTIME_LO d)) with
    | some d => s.captureTtime d
    | none =>
      match (List.range 39).find? (fun i => decide (a = MP.ACC_LO (i / 13) (i % 13))) with
      | some i => s.captureAcc (i / 13) (i % 13)
      | none => s

/-- The captured word that a read of key `a` returns and uses up, if one is held (R46, R156, R324, R482). -/
def State.heldWord (s : State) (a : Nat) : Option (Nat × State) :=
  if a = RTC.RTC_SEC then
    (vget s.rsBlocks 1).hold.map (fun x => (x.2.toNat, s.modRs 1 (fun r => { r with hold := none })))
  else if a = TIME.LT_SEC_LO then s.net.holdLo.map (fun x => (x, s.modNet (fun n => { n with holdLo := none })))
  else if a = TIME.LT_SEC_HI then s.net.holdHi.map (fun x => (x, s.modNet (fun n => { n with holdHi := none })))
  else match (List.range 4).find? (fun d => decide (a = TRIP.TTIME_HI d)) with
    | some d => (vget s.drives d).ttHold.map (fun x => (x, s.modDrive d (fun y => { y with ttHold := none })))
    | none =>
      match (List.range 39).find? (fun i => decide (a = MP.ACC_HI (i / 13) (i % 13))) with
      | some i => (vget (vget s.meters (i / 13)).hold (i % 13)).map
          (fun x => (x.toNat, s.modMeter (i / 13) (fun p => { p with hold := vset p.hold (i % 13) none })))
      | none => none

/-- The word stored behind key `a` as a read sees it: a memory window's, whose curve memory is registers (R300); nothing where no register is
implemented (R30), the copy of an RS register (R44; WR_PEND belongs to the block's interface), the stored content otherwise (R39). -/
def State.shownWord (s : State) (a : Nat) : Word :=
  match regInfo a with
  | none => if inMemWindow a then s.memWord a else 0
  | some r => if r.block.rs && decide (r.row.off ≠ 0xFFC) then s.rsCopy a else s.reg a

/-- The word that a read of 32 bits at key `a` returns (R31), with what the read captures and uses up. -/
def State.readWord (s : State) (a : Nat) : Nat × State :=
  let s := s.captureFor a
  match s.heldWord a with
  | some x => x
  | none => ((s.shownWord a).toNat, s)

/-- RWP_READ (R30, R31, R37, R39, R43, R44): a core of command die `c` reads a register; `clr` are the bits of PAR_STAT that a write clears
in the same clock cycle. -/
def execRwpRead (c : Fin 2) (a : BitVec 32) (clr : BitVec 3) (s : State) : Out := s.whileRuns <|
  .next (
    let k := normalKey c a.toNat
    let s := s.checkParityClear k true clr.toNat
    let (w, s) := s.readWord k
    s.send ⟨.readReturn, (Die.command c).code, [a.toNat, w]⟩)

/-! ### Arrivals from a command die -/

/-- Has the link over which command die `c` reaches the die of address `a` no lane left (R24, R25)? -/
def State.linkGone (s : State) (c a : Nat) : Bool :=
  s.flag (ELINK.STAT_LINK_DOWN (Die.command c)
    (if a < 0x44000000 then 1 + (a - 0x40000000) / 0x1000000 else if a < 0x4C000000 then 5 else 6))

/-- A write of a command die reaches a drive die (R21), N (R339) or the mailbox of S (R441); with every lane of the link retired it reaches
nothing (R24). -/
def State.arrive (s : State) (c a : Nat) (w : Word) : State :=
  if s.linkGone c a then s
  else if a < 0x44000000 then
    let d := (a - 0x40000000) / 0x1000000
    if s.flag (if c = 0 then DCMD.DCMDSTAT_ROLE_C0 d else DCMD.DCMDSTAT_ROLE_C1 d) then s.writeAddr c a w
    else s.incSat (DCMD.DCMDSTAT_STRAY_CNT d)
  else if a < 0x4C000000 then (if s.arb.nShell = some c then s.writeAddr c a w else s)
  else if normalKey c a = MBX.MBXREQ then
    match regInfo MBX.MBXREQ with
    | some r => s.mailbox c (r.row.written (aliasOf a) (s.reg MBX.MBXREQ) w)
    | none => s
  else s

/-- DRIVE_WRITE_ARRIVAL (R21): the last flit of a write from command die `src` reaches drive die `d`; none: it came over the N link and is not
judged. -/
def execDriveWriteArrival (d : Fin 4) (src : Option (Fin 2)) (off : BitVec 24) (w : BitVec 32) (s : State) : Out := s.whileRuns <|
  .next (
    let a := 0x40000000 + d * 0x1000000 + off.toNat
    match src with
    | some c => s.arrive c a w
    | none => if s.flag (ELINK.STAT_LINK_DOWN .n (2 + d)) then s else s.writeAddr 0 a w)

/-- N_WRITE_FROM_COMMAND_DIE (R339). -/
def execNWriteFromCommandDie (c : Fin 2) (off : BitVec 26) (w : BitVec 32) (s : State) : Out := s.whileRuns <|
  .next (s.arrive c (0x48000000 + off.toNat) w)

/-- Debugger writes that a halt has left to a die are applied before its cores go on (R383), also where the debug connection has been dropped. -/
def State.settleDebug (s : State) (c : Nat) : State :=
  if (s.cmd c).haltAt.isSome then s else s.applyDebugWrites c (fun t k w => t.ownWrite c k w)

/-- A core of a command die issues a write of 32 bits, if it runs: folded as issued (R35, R355); own addresses at once; towards the rest of the part only
from the shell (R20), held until GRANT (R377), undelivered where the swap was cancelled (R378). -/
def State.coreWrite (s : State) (c k a : Nat) (w : Word) : State :=
  if !s.coreRuns c k then s
  else if accessFaults a 4 true then s.modCmd c (fun x => { x with faults := vset x.faults k (some ⟨a, true⟩) })
  else
    let s := s.settleDebug c
    let s := (s.foldWrite c k a w).coreIssued c k
    if a < 0x200000 then (s.keepPage c a).ownWrite c a w
    else if 0x50000000 ≤ a then s.ownWrite c a w
    else if s.role c ≠ 3 then s
    else if (s.cmd c).held then
      (if (s.cmd c).claim then s.modCmd c (fun x => { x with heldWrites := x.heldWrites ++ [(k, a, w)] }) else s)
    else s.arrive c a w

/-- REGISTER_WRITE (R32): by an application core, or by an engine of the part that no role judges. -/
def execRegisterWrite (by_ : RegWriter) (a : BitVec 32) (w : BitVec 32) (s : State) : Out := s.whileRuns <|
  .next (match by_ with
    | .core c k => s.coreWrite c k a.toNat w
    | .engine => s.writeAddr 0 a.toNat w)

/-- GRANT (R369, R377): writes that were held go out in their order; DONE writes that waited for them complete (R344). -/
def execGrant (c : Fin 2) (s : State) : Out := s.whileRuns <|
  .next (
    let t := s.grant c
    if (t.cmd c).held then t
    else (((t.cmd c).heldWrites.foldl (fun u (x : Nat × Nat × Word) => u.arrive c x.2.1 x.2.2) t).doneRelease c))

/-- The writable bits of a register that a field does not cover. -/
def RF.others (f : RF) : Word :=
  match regInfo f.addr with
  | some r => r.row.fields.foldl (fun w g => if g.acc = .rw then w ||| maskOf g.lo g.w else w) 0 &&& ~~~(maskOf f.lo f.w)
  | none => 0

/-- A write of one field: the register's other writable bits keep what they hold, so that the write begins with a read of them and its parity
check (R37, R41). -/
def State.writeField (s : State) (f : RF) (v : Nat) : State :=
  let s := if f.others = 0 then s else s.checkParity f.addr true
  s.writeAt f.addr 0 (putBits (s.reg f.addr &&& f.others) f.lo f.w v)

/-- RS_WRITE_COMPLETE (R47, R49): the oldest write in flight acts on the live value.  The keeper's and the RTC's domain need the keeper. -/
def execRsWriteComplete (b : Fin 9) (s : State) : Out := s.whileRuns <|
  .next (match (vget s.rsBlocks b).inflight with
    | [] => s
    | x :: _ =>
      if (b = 1 ∨ b = 7) ∧ !s.keeper.powered then s
      else
        let s := s.rsPop b
        match x.part with
        | none => s.writeAddr 0 x.addr x.data
        | some (lo, w) => s.writeField ⟨x.addr, lo, w⟩ x.data.toNat)

/-! ### The debugger (R382-R384) -/

/-- DEBUGGER_WRITE (R383): accepted while the shell is halted, to its own SRAM or peripheral window; the liner applies it too, before it resumes:
at once where it stands halted, journalled until then otherwise. -/
def execDebuggerWrite (c : Fin 2) (a : BitVec 32) (w : BitVec 32) (s : State) : Out := s.whileRuns <|
  .next (
    let x := a.toNat
    let l := otherCmd c
    let own := decide (x < 0x200000) || (decide (0x50000000 ≤ x) && decide (x < 0x51000000))
    if s.role c = 3 ∧ s.flag (CMD.DBGSTAT_HALTED c) ∧ own ∧ x % 4 = 0 then
      let s := (if x < 0x200000 then s.keepPage c x else s).ownWrite c x w
      if s.flag (CMD.DBGSTAT_HALTED l) then (s.settleDebug l).ownWrite l x w
      else if (s.cmd l).haltAt.isSome then s.modCmd l (fun y => { y with debugWrites := y.debugWrites ++ [(x, w)] })
      else s
    else s.setB (CMD.DBGSTAT_DBG_REJ c) true)

/-- SHELL_DEBUG_RESUME (R383, R384). -/
def execShellDebugResume (c : Fin 2) (s : State) : Out := s.whileRuns <|
  .next (s.debugResume c (fun t k w => t.ownWrite (otherCmd c) k w))

end Sys2Proof.Machine
end

