-- ==== Sys2Proof/Machine/Homes.lean ====
section
/-!
DEFINITION. Sys2Proof/Machine/Homes.lean: where the device entries of the dictionary live (the dictionary tables of chapters 3-16): the
fields of registers that an entry shows and sets, and the entries that no register holds.
-/

namespace Sys2Proof.Machine

/-! ### Entries that registers hold -/

/-- A field that an entry shows and sets, with its place in the value. -/
abbrev Piece := RF × Nat

/-- A register as it stands. -/
def whole (a : Nat) : List Piece := [(⟨a, 0, 32⟩, 0)]

/-- One field at the value's bit 0. -/
def only (f : RF) : List Piece := [(f, 0)]

/-- 0x3000+g (R123). -/
def homePg (g sub : Nat) : List Piece :=
  let d := g / 4
  let k := g % 4
  match sub with
  | 1 => only (PWM.GCFG_MODE d k)
  | 2 => only (PWM.GCFG_DBL_UPD d k)
  | 3 => only (PWM.GCFG_COMMIT_MODE d k)
  | 4 => only (PWM.GCFG_PORTS d k)
  | 5 => only (PWM.GCFG_START_SRC d k)
  | 6 => [(PWM.GCFG_TRIG_SEL d k, 0), (PWM.GCFG_TRIG_POL d k, 4)]
  | 7 => whole (PWM.PER d k)
  | 8 => whole (PWM.PHASE d k)
  | 9 => whole (PWM.MIN_OFF d k)
  | 10 => whole (PWM.PER_MIN d k)
  | 11 => whole (PWM.WRPT d k)
  | 12 => only (PWM.GCFG_EN d k)
  | 13 => whole (PWM.STAT d k)
  | _ => []

/-- 0x3040+n: GPn, and AP(n - 24) from 24 on. -/
def homePort (n sub : Nat) : List Piece :=
  let d := if n < 24 then n / 6 else n - 24
  let j := if n < 24 then n % 6 else 6
  match sub with
  | 1 => whole (PORT.DT_RISE d j)
  | 2 => whole (PORT.DT_FALL d j)
  | 3 => only (PORT.PMODE_PMODE d j)
  | 4 => only (PORT.DLY_CTL_DLY_TOL d j)
  | 5 => whole (PORT.DLY_STAT d j)
  | _ => []

/-- 0x3080+t (R178). -/
def homeTg (t sub : Nat) : List Piece :=
  let d := t / 2
  let k := t % 2
  match sub with
  | 1 => only (TRIP.TGCFG_SAFE d k)
  | 2 => only (TRIP.TGCFG_SUP_SEL d k)
  | 3 => only (TRIP.TGCFG_FLT_EARLY d k)
  | 4 => only (TRIP.TGCFG_FLT_SC_OPEN d k)
  | 5 => only (TRIP.TGCFG_EN_SEL d k)
  | 6 => whole (TRIP.SRCMASK d k)
  | 7 => only (TRIP.TGCTL_TG_MODE d k)
  | 8 => whole (TRIP.TGSTAT d k)
  | 9 => whole (TRIP.SRCACT d k)
  | _ => []

/-- 0x30C0+n. -/
def homeFault (n sub : Nat) : List Piece :=
  let d := n / 6
  let j := n % 6
  match sub with
  | 1 => only (PORT.PCFG_FLT_USE d j)
  | 2 => only (PORT.PCFG_CHOP_EN d j)
  | 3 => only (PORT.PCFG_CHOP_SIDE d j)
  | 4 => only (PORT.PCFG_CHOP_IN_TRIP d j)
  | 5 => only (PORT.PCFG_CHOP_CMP d j)
  | 6 => whole (PORT.CHOP_TON d j)
  | 7 => whole (PORT.CHOP_TOFF d j)
  | 8 => whole (PORT.FLTSTAT d j)
  | _ => []

/-- 0x30E0+c. -/
def homeCmpSrc (c sub : Nat) : List Piece :=
  let d := c / 16
  let i := c % 16
  match sub with
  | 1 => only (TRIP.CSRC_PORT d i)
  | 2 => only (TRIP.CSRC_FORCE_OPEN d i)
  | 3 => only (TRIP.CSRC_CUFF d i)
  | 4 => only (TRIP.CSRC_PARTNER d i)
  | _ => []

/-- 0x30A0+d and 0x3120+a. -/
def homeDie (ix d sub : Nat) : List Piece :=
  match ix, sub with
  | 0x30A0, 1 => only (TRIP.MEMBERS_MEMB1 d)
  | 0x30A0, 2 => only (TRIP.TRIPIN_POL d)
  | 0x30A0, 3 => only (TRIP.TRIPIN_FILT d)
  | 0x3120, 1 => only (APB.APCFG_REF_EN d)
  | 0x3120, 2 => only (APB.APREF_W_REF_W d)
  | 0x3120, 3 => only (APB.APREF_INT_REF_INT d)
  | 0x3120, 4 => whole (APB.APSTAT d)
  | _, _ => []

/-- 0x4000+a (R219). -/
def homeAdc (a sub : Nat) : List Piece :=
  let d := a / 4
  let k := a % 4
  match sub with
  | 1 => only (ADC.ACFG_EN d k)
  | 2 => only (ADC.ACFG_RES d k)
  | 3 => only (ADC.ACFG_ALIGN d k)
  | 4 => only (ADC.ACFG_CLE_DST d k)
  | 5 => only (ADC.ACFG_FWD_N d k)
  | 6 => only (ADC.SEQCFG_REG_LEN d k)
  | 7 => only (ADC.SEQCFG_INJ_LEN d k)
  | 8 => only (ADC.SEQCFG_REG_TRIG d k)
  | 9 => whole (ADC.RTRIG d k)
  | 10 => only (ADC.SEQCFG_INJ_TRIG d k)
  | 11 => whole (ADC.ITRIG d k)
  | 12 => whole (ADC.ASTAT d k)
  | _ => []

/-- 0x4010+a: REG_ENT0-REG_ENT15, INJ_ENT0-INJ_ENT3. -/
def homeEntries (a sub : Nat) : List Piece :=
  if sub ≤ 16 then whole (ADC.RENT (a / 4) (a % 4) (sub - 1)) else whole (ADC.IENT (a / 4) (a % 4) (sub - 17))

/-- 0x4040+c. -/
def homeCmp (c sub : Nat) : List Piece :=
  let d := c / 16
  let i := c % 16
  match sub with
  | 1 => only (CMP.CCFG_EN d i)
  | 2 => only (CMP.CCFG_MODE d i)
  | 3 => only (CMP.CCFG_INSEL d i)
  | 4 => only (CMP.CTHR_THRESH d i)
  | 5 => only (CMP.CTHR_HYST d i)
  | 6 => only (CMP.CCFG_INV d i)
  | 7 => only (CMP.CCFG_INIT d i)
  | 8 => only (CMP.CCFG_LAT_MODE d i)
  | 9 => only (CMP.CCFG_CGRP d i)
  | 10 => only (CMP.CCFG_TRIP_LAT d i)
  | 11 => only (CMP.CCFG_IRQ_EN d i)
  | 12 => only (CMP.CCFG_WAKE_EN d i)
  | 13 => only (CMP.CCFG_CAP_EDGE d i)
  | 14 => whole (CMP.CSTAT d i)
  | _ => []

/-- 0x40C0+p. -/
def homePi (p sub : Nat) : List Piece :=
  let d := p / 2
  let j := p % 2
  match sub with
  | 1 => only (PI.PICFG_EN d j)
  | 2 => only (PI.PICFG_TYPE d j)
  | 3 => only (PI.PICFG_GRP d j)
  | 4 => only (PI.PICFG_EXC_DIV d j)
  | 5 => only (PI.PISRC_EXC_DLY d j)
  | 6 => only ⟨PI.PISRC d j, 0, 16⟩
  | 7 => only (PI.PIGAIN_KP d j)
  | 8 => only (PI.PIGAIN_KI d j)
  | 9 => only (PI.PICPR_CPR d j)
  | 10 => only (PI.PICFG_ZRST d j)
  | 11 => only (PI.PICFG_FILT d j)
  | 12 => only (PI.PIAMP_AMP_MIN d j)
  | 13 => only (PI.PIAMP_AMP_MAX d j)
  | 14 => whole (PI.PISTAT d j)
  | _ => []

/-- 0x4800+n (R251). -/
def homeCle (n sub : Nat) : List Piece :=
  let d := n / 2
  let j := n % 2
  match sub with
  | 1 => only (CLE.CLECFG_EN d j)
  | 2 => only (CLE.CLECFG_SCHED d j)
  | 3 => only (CLE.CLECFG_START d j)
  | 4 => only (CLE.CLECFG_RPT_EN d j)
  | 5 => whole (CLE.FLAGS d j)
  | 6 => whole (CLE.CYC d j)
  | 7 => whole (CLE.ECC d j)
  | _ => []

/-- 0x5010+d (R301). -/
def homeGridDie (d sub : Nat) : List Piece :=
  match sub with
  | 1 => only (GSU.GCFG_GGRP d)
  | 2 => whole (GSU.VSRC d)
  | 3 => whole (GSU.ISRC d)
  | 4 => whole (GSU.VGAIN d)
  | 5 => whole (GSU.IGAIN d)
  | 6 => only (GSU.VLOCK_VLOCK d)
  | 7 => only (RTS.ILIM_ILIM d)
  | 8 => whole (GSU.GSTAT d)
  | 9 => whole (RTS.RTSTAT d)
  | _ => []

/-- 0x5000, 0x5020, 0x5030, 0x5040 and 0x5100+c on one member die. -/
def homeGrid (d ix sub : Nat) : List Piece :=
  if 0x5100 ≤ ix then
    (if sub = 1 then only (CURVE.HEAD_NPTS d (ix - 0x5100))
     else [(CURVE.TIME_T d (ix - 0x5100) (sub - 2), 0), (CURVE.LEVEL_LEVEL d (ix - 0x5100) (sub - 2), 32)])
  else match ix, sub with
    | 0x5000, 2 => only (GSU.GCFG_GRID_EN d)
    | 0x5000, 3 => only (GSU.GCFG_FNOM d)
    | 0x5000, 4 => only (GSU.GCFG_VTYPE d)
    | 0x5020, 1 => only (RTS.RTCFG_ARM d)
    | 0x5020, 2 => only (RTS.RTCFG_MAY_ACT d)
    | 0x5020, 3 => only (RTS.RTCFG_DRC_EN d)
    | 0x5020, 4 => only (RTS.RTCFG_NEG_EN d)
    | 0x5020, 5 => only (RTS.RTCFG_PJ_ACT d)
    | 0x5020, 6 => only (RTS.RTCFG_RST_MS d)
    | 0x5020, 7 => only (RTS.DRC_K_DRC d)
    | 0x5020, 8 => only (RTS.DRC_DB d)
    | 0x5020, 9 => only (RTS.NEG_IQ_MAX d)
    | 0x5020, 10 => only (RTS.NEG_K_NEG d)
    | 0x5020, 11 => only (RTS.PJ_MAX_PJ_MAX d)
    | 0x5030, 1 => only (GSU.ISLCFG_PROBE_EN d)
    | 0x5030, 2 => only (GSU.PROBE_PAMP d)
    | 0x5030, 3 => only (GSU.PROBE_PD d)
    | 0x5030, 4 => only (GSU.PROBE_PN d)
    | 0x5030, 5 => whole (GSU.ZTH d)
    | 0x5030, 6 => only (GSU.ISLCFG_ISL_N d)
    | 0x5030, 7 => only (GSU.ISLCFG_ROCOF_EN d)
    | 0x5030, 8 => only (GSU.ISLCFG_ROCOF_N d)
    | 0x5030, 9 => whole (GSU.ROCOF_TH d)
    | 0x5030, 10 => only (GSU.ISLCFG_VS_EN d)
    | 0x5030, 11 => only (GSU.VS_TH_VS_TH d)
    | 0x5030, 12 => only (GSU.ISLCFG_FS_EN d)
    | 0x5030, 13 => only (GSU.FSCFG_K_FS d)
    | 0x5030, 14 => only (GSU.FSCFG_FS_MAX d)
    | 0x5030, 15 => only (GSU.ISLCFG_PFAIL_ACT d)
    | 0x5040, 1 => only (RTS.RCD_RC_DELAY d)
    | 0x5040, 2 => only (RTS.RCD_GCON_DLY d)
    | 0x5040, 3 => only (RTS.RCV_RC_VMIN d)
    | 0x5040, 4 => only (RTS.RCV_RC_VMAX d)
    | 0x5040, 5 => only (RTS.RCF_RC_FMIN d)
    | 0x5040, 6 => only (RTS.RCF_RC_FMAX d)
    | _, _ => []

/-- 0x5800+m, 0x5810+m, 0x5820+m (R336). -/
def homeMeter (ix m sub : Nat) : List Piece :=
  match ix with
  | 0x5800 =>
    match sub with
    | 1 => only (MP.MCFG_EN m)
    | 2 => only (MP.MCFG_DIE m)
    | 3 => only (MP.MCFG_VTYPE m)
    | 4 => only (MP.INTCFG_INT_LEN m)
    | 5 => whole (MP.NL_I m)
    | 6 => whole (MP.NL_P m)
    | 7 => whole (MP.MSTAT m)
    | 8 => whole (MP.MCNT m)
    | _ => []
  | 0x5810 =>
    if sub ≤ 6 then only ⟨MP.CHSEL m (sub - 1), 0, 8⟩
    else if sub ≤ 12 then only (MP.CGAIN_CGAIN m (sub - 7))
    else if sub ≤ 18 then only (MP.COFFS_COFFS m (sub - 13))
    else only (MP.CDLY_CDLY m (sub - 19))
  | _ => if sub ≤ 12 then only (MP.QGAIN_QGAIN m (sub - 1)) else only (MP.QOFFS_QOFFS m (sub - 13))

/-- 0x7000+p and 0x7020+p (R502). -/
def homeEth (ix p sub : Nat) : List Piece :=
  match ix, sub with
  | 0x7000, 1 => only (ETH.PCFG_EN p)
  | 0x7000, 2 => [(ETH.MAC_LO_MAC_LO p, 0), (ETH.MAC_HI_MAC_HI p, 32)]
  | 0x7000, 3 => only (ETH.PCFG_PTP_EN p)
  | 0x7000, 4 => only (ETH.PCFG_DELAY_MECH p)
  | 0x7000, 5 => only (ETH.ING_ASYM_ING_ASYM p)
  | 0x7000, 6 => only (ETH.EGR_ASYM_EGR_ASYM p)
  | 0x7000, 7 => only (ETH.PCP_PCPMAP p)
  | 0x7000, 8 => only (ETH.PCP_DEF_PCP p)
  | 0x7000, 9 => whole (ETH.PSTAT p)
  | 0x7020, 1 => only (GATE.GCFG_GATE_EN p)
  | 0x7020, 2 => whole (GATE.ADM_CYCLE p)
  | 0x7020, 3 => [(GATE.ADM_BASE_NS_ADM_BASE_NS p, 0), (GATE.ADM_BASE_SEC_ADM_BASE_SEC p, 32)]
  | 0x7020, 6 => whole (GATE.GSTAT p)
  | _, _ => []

/-- 0x7060+u. -/
def homeTu (u sub : Nat) : List Piece :=
  match sub with
  | 1 => only (TU.TUCFG_EN u)
  | 2 => only (TU.TUCFG_MODE u)
  | 3 => only (TU.TUCFG_DST u)
  | 4 => whole (TU.TARGET u)
  | 5 => whole (TU.PERIOD u)
  | 6 => [(TU.TUCFG_PIN_EN u, 0), (TU.TUCFG_PIN u, 1), (TU.TUCFG_PERIODIC u, 3), (TU.TUCFG_EDGE u, 4)]
  | 7 => only (TU.TUCFG_PW u)
  | 8 => whole (TU.TUSTAT u)
  | _ => []

/-- 0x7080+n and 0x7090+n. -/
def homeCan (ix n sub : Nat) : List Piece :=
  match ix with
  | 0x7080 =>
    match sub with
    | 1 => only (CAN.CCFG_EN n)
    | 2 => only (CAN.CCFG_FD_EN n)
    | 3 => only (CAN.CCFG_BRS_EN n)
    | 4 => only (CAN.CCFG_AUTO_RECOV n)
    | 5 => only (CAN.CCFG_TDC_EN n)
    | 6 => whole (CAN.NBT n)
    | 7 => whole (CAN.DBT n)
    | 8 => only (CAN.TDC_TDC_OFS n)
    | 9 => whole (CAN.CSTAT n)
    | _ => []
  | _ =>
    if sub ≤ 32 then [(⟨CAN.FLT_ID n (sub - 1), 0, 32⟩, 0), (CAN.FLT_MASK_FMASK n (sub - 1), 32)]
    else only (CAN.FLT_FLOW_FFLOW n (sub - 33))

/-- 0x7C00+u (R599). -/
def homeCrc (u sub : Nat) : List Piece :=
  match sub with
  | 1 => whole (CRC.CCFG u)
  | 2 => whole (CRC.POLY u)
  | 3 => whole (CRC.INIT u)
  | 4 => whole (CRC.XOROUT u)
  | 5 => whole (CRC.BASE u)
  | 6 => whole (CRC.LEN u)
  | 8 => whole (CRC.VAL u)
  | 9 => whole (CRC.RESULT u)
  | 11 => whole (CRC.CSTAT u)
  | _ => []

/-- The dies that apply 0x2100 on the direct route and over the N-S link (R81). -/
def lockDies : List Die := [.n, .d0, .d1, .d2, .d3, .s]

/-- Indices with one home each. -/
def homeSingle (ix sub : Nat) : List Piece :=
  match ix, sub with
  | 0x2000, 1 => whole START.STSTAT
  | 0x2100, 1 => lockDies.map (fun e => (CLK.LOCK_CFG_LOCK_WIN e, 0))
  | 0x2100, 2 => lockDies.map (fun e => (CLK.LOCK_CFG_LOCK_N e, 0))
  | 0x2100, 3 => lockDies.map (fun e => (CLK.LOCK_CFG_LOSS_M e, 0))
  | 0x2120, 1 => [(RTC.RTC_SUB_SUB, 0), (RTC.RTC_SEC_SEC, 15)]
  | 0x2120, 2 => only RTC.RTC_TRIM_TRIM
  | 0x6000, 1 => (List.range 4).map (fun d => (DCMD.DCMDCFG_CMD_N d, 0))
  | 0x6848, 1 => whole ARB.ARBSTAT
  | 0x6848, 2 => whole ARB.ARBCNT
  | 0x6848, 3 => whole ARB.ARBDEC
  | 0x6848, 4 => whole ARB.HW_C0
  | 0x6848, 5 => whole ARB.HW_C1
  | 0x68F0, 1 => whole SFN.S_STATE
  | 0x68F0, 2 => whole SFN.SFSTAT
  | 0x7010, 1 => only (ETH.PCFG_RING_MGR 0)
  | 0x7040, 1 => only TIME.TCFG_DOM_A
  | 0x7040, 2 => only TIME.TCFG_DOM_B
  | 0x7040, 3 => only TIME.TCFG_B_EN
  | 0x7040, 4 => only TIME.TCFG_A_PREF
  | 0x7040, 5 => only TIME.RETCFG_RET_S
  | 0x7040, 6 => only TIME.SVCFG_SLEW_MAX
  | 0x7040, 7 => only TIME.SVCFG_LOCK_NS
  | 0x7040, 8 => only TIME.UTCCFG_UTC_OFS
  | 0x7050, 1 => whole TIME.TSTAT
  | 0x7050, 3 => whole TIME.OFS_A
  | 0x7050, 4 => whole TIME.OFS_B
  | 0x7800, 1 => only KPR.KCFG_SRC_TYPE
  | 0x7800, 2 => only KPR.KCFG_K_FOC
  | 0x7800, 3 => only KPR.KCFG_HV_EN
  | 0x7800, 4 => only KPR.KCFG_VK_HV
  | 0x7800, 5 => only KPR.KV_V_RICH
  | 0x7800, 6 => only KPR.KV_VSTL_MAX
  | 0x7800, 7 => only KPR.KPG_V_PGH
  | 0x7800, 8 => only KPR.KPG_V_PGL
  | 0x7800, 9 => only KPR.KRES_STL_CAP
  | 0x7800, 10 => only KPR.KRES_E_RES
  | 0x7800, 11 => whole KPR.WAKE_AT
  | 0x7810, 1 => whole KPR.KSTAT
  | 0x7810, 2 => whole KPR.VST
  | 0x7810, 3 => whole KPR.KVOC
  | 0x7810, 4 => whole KPR.E_ST
  | 0x7810, 5 => only KPR.LCAP_LCAP
  | 0x7810, 6 => whole KPR.KQ
  | 0x7820, 1 => only ⟨LTN.DCLSRC, 0, 8⟩
  | 0x7820, 2 => only LTN.DCL_GAIN_DCL_GAIN
  | 0x7820, 3 => only LTN.DCL_BIN_DCL_BIN
  | 0x7820, 4 => (List.range 4).map (fun d => (CYC.RF0_RF_HYST d, 0))
  | 0x7820, 5 => (List.range 4).map (fun d => (CYC.RF0_RF_RBIN d, 0))
  | 0x7820, 6 => (List.range 4).map (fun d => (CYC.RF1_RF_MBASE d, 0))
  | 0x7820, 7 => (List.range 4).map (fun d => (CYC.RF1_RF_MBIN d, 0))
  | 0x7C20, 2 => whole MAINT.MRES
  | 0x7C20, 3 => only MAINT.MRUN_RUN
  | 0x1A00, 1 => whole DICT.DSTAT
  | _, _ => []

/-- 0x5000:01 as the dies hold it: bit b is bridge b, two for each drive die (R54, R253, R301). -/
def State.memberBridges (s : State) : Nat := ((List.range 4).map (fun d => s.get (GSU.GCFG_BRIDGES d) * 4 ^ d)).foldl (· + ·) 0

/-- The member dies of 0x5000:01. -/
def State.memberDies (s : State) : List Nat := (List.range 4).filter (fun d => decide (s.get (GSU.GCFG_BRIDGES d) ≠ 0))

/-- Is the entry one of those written to every member die? -/
def gridEntry (ix sub : Nat) : Bool :=
  decide ((ix = 0x5000 ∧ 2 ≤ sub ∧ sub ≤ 4) ∨ ix = 0x5020 ∨ ix = 0x5030 ∨ ix = 0x5040 ∨ (0x5100 ≤ ix ∧ ix < 0x5110))

/-- The fields of an entry; an entry of several dies names them all, the one that is read first. -/
def dictHome (dies : List Nat) (ix sub : Nat) : List Piece :=
  let within (lo n : Nat) : Bool := decide (lo ≤ ix) && decide (ix < lo + n)
  if gridEntry ix sub then dies.flatMap (fun d => homeGrid d ix sub)
  else if within 0x2110 4 then
    (let e := Die.drive (ix - 0x2110)
     match sub with
     | 1 => only (CLK.HOP_CFG_HOP_EN e)
     | 2 => only (CLK.HOP_CFG_HOP_MODE e)
     | 3 => only (CLK.HOP_CFG_HOP_LEN e)
     | 4 => only (CLK.HOP_CFG_HOP_DIV e)
     | 13 => only (CLK.HOP_CFG_HOP_SEED e)
     | _ => whole (CLK.SLOT e (sub - 5)))
  else if within 0x3000 16 then homePg (ix - 0x3000) sub
  else if within 0x3040 28 then homePort (ix - 0x3040) sub
  else if within 0x3080 8 then homeTg (ix - 0x3080) sub
  else if within 0x30A0 4 then homeDie 0x30A0 (ix - 0x30A0) sub
  else if within 0x30C0 24 then homeFault (ix - 0x30C0) sub
  else if within 0x30E0 64 then homeCmpSrc (ix - 0x30E0) sub
  else if within 0x3120 4 then homeDie 0x3120 (ix - 0x3120) sub
  else if within 0x4000 16 then homeAdc (ix - 0x4000) sub
  else if within 0x4010 16 then homeEntries (ix - 0x4010) sub
  else if within 0x4040 64 then homeCmp (ix - 0x4040) sub
  else if within 0x40C0 8 then homePi (ix - 0x40C0) sub
  else if within 0x4800 8 then homeCle (ix - 0x4800) sub
  else if within 0x5010 4 then homeGridDie (ix - 0x5010) sub
  else if within 0x5800 3 then homeMeter 0x5800 (ix - 0x5800) sub
  else if within 0x5810 3 then homeMeter 0x5810 (ix - 0x5810) sub
  else if within 0x5820 3 then homeMeter 0x5820 (ix - 0x5820) sub
  else if within 0x7000 3 then homeEth 0x7000 (ix - 0x7000) sub
  else if within 0x7020 3 then homeEth 0x7020 (ix - 0x7020) sub
  else if within 0x7060 16 then homeTu (ix - 0x7060) sub
  else if within 0x7080 4 then homeCan 0x7080 (ix - 0x7080) sub
  else if within 0x7090 4 then homeCan 0x7090 (ix - 0x7090) sub
  else if within 0x7C00 8 then homeCrc (ix - 0x7C00) sub
  else homeSingle ix sub

/-- The first piece at each place. -/
def firstPieces : List Piece → List Nat → List Piece
  | [], _ => []
  | p :: r, seen => if p.2 ∈ seen then firstPieces r seen else p :: firstPieces r (p.2 :: seen)

/-- The pieces that a read takes: of the first member die, of D0 where there is none; those of a command-route entry from the shell. -/
def State.readPieces (s : State) (ix sub : Nat) : List Piece :=
  if ix = 0x6000 ∧ 2 ≤ sub then
    match cmdEntry (s.arbShell.getD 0) sub with
    | some f => only f
    | none => []
  else
    let dies := match s.memberDies with | [] => [0] | l => l
    firstPieces (dictHome dies ix sub) []

/-- Is the type signed? -/
def DictType.signed : DictType → Bool
  | .i8 | .i16 | .i32 | .i64 | .q16 | .q32 => true
  | _ => false

/-- The number that an entry's fields hold. -/
def State.homeValue (s : State) (ty : DictType) (l : List Piece) : Int :=
  match l with
  | [p] => if ty.signed then toSigned p.1.w (s.get p.1) else s.get p.1
  | _ => (l.foldl (fun v p => v + s.get p.1 * 2 ^ p.2) 0 : Nat)

/-- A value reaches an entry's fields. -/
def State.writePieces (s : State) (l : List Piece) (v : Int) : State :=
  let x := ofSigned 64 v
  l.foldl (fun t p => t.writeField p.1 (x / 2 ^ p.2)) s

/-- The persistent entries whose registers lie in the keeper's domain (R571, 0x2120:02). -/
def keeperKeys : List Nat := 0x212002 :: (List.range 11).map (fun i => 0x780001 + i)

/-- A value of the keeper route reaches its registers by handshaken writes (R47). -/
def State.handshakePieces (s : State) (l : List Piece) (v : Int) : State :=
  let x := ofSigned 64 v
  l.foldl (fun t p => t.rsAccept (if p.1.addr < 0x4C060000 then 1 else 7)
    { addr := p.1.addr, data := BitVec.ofNat 32 (x / 2 ^ p.2), part := some (p.1.lo, p.1.w) }) s

/-! ### Entries assembled or held elsewhere -/

/-- The bytes of words, little-endian. -/
def wordBytes (l : List Word) : List Nat := l.flatMap (fun w => leBytes w.toNat 4)

/-- Counts as numbers of `n` bytes each. -/
def countBytes (l : List Nat) (n : Nat) : List Nat := l.flatMap (fun x => leBytes x n)

/-- A fault-history entry (table of R568). -/
def FaultEntry.layout (e : FaultEntry) : List Nat :=
  let b := leBytes e.seq 4 ++ leBytes e.sec 4 ++ leBytes e.code 2 ++ [e.die % 256, e.unit % 256] ++ leBytes e.d1 4 ++ leBytes e.d2 4
    ++ leBytes e.rep 2 ++ [if e.xtal then 1 else 0, 0] ++ leBytes e.starts 4
  b ++ leBytes (crc32c b) 4

/-- A change-log entry (R430). -/
def LogEntry.layout (e : LogEntry) : List Nat :=
  let b := leBytes e.lseq 4 ++ leBytes e.sec 4 ++ leBytes e.session 4 ++ leBytes e.index 2 ++ [e.sub % 256, e.flags % 256]
    ++ leBytes e.oldCrc 4 ++ leBytes e.newCrc 4 ++ leBytes e.paramCrc 4
  b ++ leBytes (crc32c b) 4

/-- BOOT_HIST: the last eight attempts, newest first, zeros where there were fewer. -/
def bootHist (l : List BootAttempt) : List Nat :=
  (List.range 8).flatMap (fun i => match l[i]? with
    | some a => leBytes a.sec 4 ++ [a.kind % 256, a.result % 256, a.why % 256, 0]
    | none => List.replicate 8 0)

/-- The remaining lock of a password in s. -/
def State.lockRem (s : State) (p : Password) : Nat := p.lockEnd - s.get RTC.RTC_SEC_SEC

end Sys2Proof.Machine
end

