-- ==== Sys2Proof/Machine/Entries.lean ====
section
/-!
DEFINITION. Sys2Proof/Machine/Entries.lean: reading, checking and applying the entries of the dictionary (R503-R512, R529, R530).
-/

namespace Sys2Proof.Machine

/-! ### Reading -/

/-- The transport of a client: 0-2 Pp, 0x10-0x13 CANn. -/
def clientTransport : DictClient → Nat
  | .udp p _ _ _ _ => p
  | .can n _ => 16 + n

/-- The role of the session of a flow context. -/
def State.sessionRole (s : State) (f : Nat) : Nat := match (vget s.flows f).session with | some x => x.role | none => 0

/-- 0x1000, 0x1400, 0x1800+f, 0x1A00: the entries that the engine itself holds. -/
def State.readEngine (s : State) (f ix sub : Nat) : Option (List Nat) :=
  match ix, sub with
  | 0x1000, 1 => some ("Celmapra".toList.map Char.toNat)
  | 0x1000, 2 => some ("Greino GN8416".toList.map Char.toNat)
  | 0x1000, 3 => some (leBytes (Config.deviceNumber 3) 2)
  | 0x1000, 4 => some (leBytes (Config.deviceNumber 4) 8)
  | 0x1000, 5 => some (leBytes (Config.deviceNumber 5) 4)
  | 0x1000, 6 => some (leBytes (Config.deviceNumber 6) 4)
  | 0x1000, 7 => some (leBytes 0x10000 4)
  | 0x1000, 8 =>
    some (leBytes ((dictRows.map (fun r => r.n)).foldl (· + ·) 0 + ((s.dict.decl.getD []).map (fun e => e.nsub)).foldl (· + ·) 0) 2)
  | 0x1400, 1 => some [s.sessionRole f]
  | 0x1400, 9 =>
    some (s.sessions.flatMap (fun k => [k, (vget s.flows k).gen % 256, s.sessionRole k,
      match (vget s.flows k).session with | some x => clientTransport x.client | none => 0]))
  | 0x1400, 10 =>
    some (countBytes [s.sys.opPw.fails, s.lockRem s.sys.opPw, s.sys.mntPw.fails, s.lockRem s.sys.mntPw] 4)
  | 0x1A00, 2 => some (leBytes (s.dict.decl.getD []).length 2)
  | 0x1A00, 3 => some (leBytes ((s.dict.appStore.map (fun e => e.2.2.length)).foldl (· + ·) 0) 4)
  | _, _ =>
    if 0x1800 ≤ ix ∧ ix < 0x1880 ∧ sub = 10 then
      let x := vget s.flows (ix - 0x1800)
      some (leBytes (65536 * x.frames + 256 * x.lenErr + (if x.stale then 4 else 0) + (if x.rxLost then 2 else 0)
        + (if s.use (ix - 0x1800) ≠ 0 then 1 else 0)) 4)
    else if (ix = 0x1100 ∨ (0x1120 ≤ ix ∧ ix < 0x1124)) then
      let key := 256 * ix + sub
      some (dictBytes key ((Assoc.get s.persist key).getD (dictDefault key)))
    else none

/-- The record that REC_SEL names, while the ring holds it (R336). -/
def State.readRecord (s : State) (m : Nat) : Nat × List Nat :=
  let sel := s.dnat (DP.MPR_REC_SEL m)
  let b := (Memory.readBytes s.mem (ringSlot m sel) 80).map BitVec.toNat
  let held := decide (leNum ((b.drop 4).take 2) = sel) && decide (leNum (b.drop 76) = crc32c (b.take 76))
  if held then (0, b) else (0x0203, [])

/-- The counts of the lifetime record, as last committed (R570). -/
def State.readLife (s : State) (ix sub : Nat) : Option (List Nat) :=
  let c := s.life.comm
  let bins (l : List (Nat × Nat)) (at0 n size : Nat) : List Nat := countBytes ((List.range n).map (fun b => (Assoc.get l (at0 + b)).getD 0)) size
  match ix, sub with
  | 0x7830, 1 => some (countBytes c.hours.toList 4)
  | 0x7830, 2 => some (countBytes (c.ev.toList.take 22) 8)
  | 0x7830, 3 => some (bins c.dcl 0 32 4)
  | 0x7830, 4 => some (leBytes c.lastMerge 4)
  | _, _ =>
    if 0x7840 ≤ ix ∧ ix < 0x7849 then some (bins c.temps (32 * (ix - 0x7840)) 32 4)
    else if 0x7860 ≤ ix ∧ ix < 0x787C then
      some (if sub = 1 then leBytes (vget c.sw (ix - 0x7860)) 8 else bins c.rain (256 * (ix - 0x7860)) 256 8)
    else none

/-- Entries assembled from several registers or held by the keeper and by S: abort code and bytes. -/
def State.readAssembled (s : State) (ix sub : Nat) : Option (Nat × List Nat) :=
  let words (l : List Nat) : Option (Nat × List Nat) := some (0, wordBytes (l.map (fun a => s.reg a)))
  match ix, sub with
  | 0x5000, 1 => some (0, [s.memberBridges])
  | 0x2000, 4 => some (0, [if s.sys.coldNext then 1 else 0])
  | 0x2000, 8 => some (0, bootHist s.sys.attempts)
  | 0x2020, 4 => some (0, vget s.power.digests 0)
  | 0x2020, 5 => some (0, vget s.power.digests 1)
  | 0x68E0, 5 => some (0, leBytes (s.safetyCrc []) 4)
  | 0x68E0, 7 => some (0, leBytes (s.lockRem s.safety.pw) 4)
  | 0x68E0, 8 => some (0, leBytes s.safety.pw.fails 4)
  | 0x68F0, 3 => some (0, leBytes s.safety.nextLog 4)
  | 0x68F0, 5 =>
    match s.safety.log.find? (fun e => decide (e.lseq = s.dnat DP.SST_LOG_SEL)) with
    | some e => some (0, e.layout)
    | none => some (0x0203, [])
  | 0x68F0, 6 => some (0, (vget s.safety.conns (s.dnat DP.SAF_CTRL_CONN)).data)
  | 0x7050, 2 => some (0, leBytes s.ltNs 8)
  | 0x7050, 5 => some (0, beBytes (s.get TIME.GM_A0_GM_A) 4 ++ beBytes (s.get TIME.GM_A1_GM_A) 4)
  | 0x7050, 6 => some (0, beBytes (s.get TIME.GM_B0_GM_B) 4 ++ beBytes (s.get TIME.GM_B1_GM_B) 4)
  | 0x7050, 7 => some (0, leBytes s.utcSec 4)
  | 0x7880, 1 => some (0, leBytes (match s.life.hist.head? with | some e => e.seq | none => 0) 4)
  | 0x7880, 3 =>
    match s.life.hist.find? (fun e => decide (e.seq = s.dnat DP.FH_FH_SEL)) with
    | some e => some (0, e.layout)
    | none => some (0x0203, [])
  | 0x7C20, 5 => words ((List.range 16).flatMap (fun k => [MAINT.SLOTS k, MAINT.ELAPSED k]))
  | 0x7C20, 6 => words ((List.range 8).flatMap (fun k => [MAINT.RES k, MAINT.RESU k]))
  | _, _ =>
    if 0x2020 = ix ∧ (sub = 1 ∨ sub = 2) then
      let b := s.dbytes (256 * ix + sub)
      some (0, if b.isEmpty then List.replicate 32 0 else b)
    else if 0x3080 ≤ ix ∧ ix < 0x3088 ∧ sub = 10 then
      let d := (ix - 0x3080) / 2
      let k := (ix - 0x3080) % 2
      words ([TRIP.FCVEC d k, TRIP.FCTIME_LO d k, TRIP.FCTIME_HI d k] ++ (List.range 8).map (TRIP.FCENT d k))
    else if 0x5830 ≤ ix ∧ ix < 0x5833 then
      let m := ix - 0x5830
      match sub with
      | 1 => words ((List.range 13).flatMap (fun a => [MP.ACC_LO m a, MP.ACC_HI m a]))
      | 2 => words ([MP.ISTART m, MP.RSTAT m] ++ (List.range 13).map (MP.INTV m) ++ (List.range 4).map (MP.IW_CNT m))
      | _ => words ((List.range 21).map (fun i => MP.VRMS m 0 + 4 * i))
    else if 0x5840 ≤ ix ∧ ix < 0x5843 ∧ sub = 1 then
      some (0, leBytes (if (s.meter (ix - 0x5840)).acc.anyRec then (getBits (s.reg (MP.RSTAT (ix - 0x5840))) 0 16 + 65535) % 65536 else 0) 2)
    else if 0x5840 ≤ ix ∧ ix < 0x5843 ∧ sub = 3 then some (s.readRecord (ix - 0x5840))
    else if 0x7020 ≤ ix ∧ ix < 0x7023 ∧ sub = 4 then
      let p := ix - 0x7020
      some (0, (List.range (min 64 (s.get (GATE.GCFG_ADM_LEN p)))).flatMap
        (fun i => [s.get (GATE.ADM_GATES_GATES p i), 0, 0, 0] ++ leBytes (s.get (GATE.ADM_INT_INTERVAL p i)) 4))
    else none

/-- The RWP registers that a read of an assembled entry reads. -/
def State.assembledRegs (s : State) (ix sub : Nat) : List Nat :=
  if 256 * ix + sub = DP.GRD_MEMBERS then (List.range 4).map GSU.GCFG
  else if 0x7020 ≤ ix ∧ ix < 0x7023 ∧ sub = 4 then
    GATE.GCFG (ix - 0x7020) :: (List.range (min 64 (s.get (GATE.GCFG_ADM_LEN (ix - 0x7020))))).flatMap (fun i => [GATE.ADM_GATES (ix - 0x7020) i, GATE.ADM_INT (ix - 0x7020) i])
  else []

/-- The highest subindex of an index of the device; none: not implemented (R503). -/
def nsubOf (ix : Nat) : Option Nat :=
  match (dictRows.filter (fun r => decide (r.ix ≤ ix) && decide (ix < r.ix + r.n))).map (fun r => r.sub) with
  | [] => none
  | l => some (l.foldl max 0)

/-- A read of a device entry that passes the checks: abort code and bytes, and the state with the parity of what it read checked, each register
once (R37-R39). -/
def State.readDevice (s : State) (f : Nat) (r : DictRow) (ix sub : Nat) : Nat × List Nat × State :=
  match s.readEngine f ix sub with
  | some b => (0, b, s)
  | none =>
    match s.readAssembled ix sub with
    | some (c, b) => (c, b, (s.assembledRegs ix sub).foldl (fun t a => t.checkParity a true) s)
    | none =>
      match s.readLife ix sub with
      | some b => (0, b, s)
      | none =>
        let l := s.readPieces ix sub
        if l.isEmpty then (0, dictBytes (256 * ix + sub) (s.dval (256 * ix + sub)), s)
        else
          let t := ((l.map (fun p => p.1.addr)).eraseDups).foldl (fun t a => t.checkParity a true) s
          (0, leBytes (ofSigned (8 * r.ty.size) (t.homeValue r.ty l)) r.ty.size, t)

/-! ### Checking a write (R505, R510, R529, R530) -/

/-- The command-route entries (R81, R385). -/
def commandRoute (ix sub : Nat) : Bool := decide ((ix = 0x6000 ∧ 2 ≤ sub) ∨ ix = 0x2100)

/-- The entries that an observer may write (R510). -/
def observerWrites (key : Nat) : Bool := [0x140002, 0x140003, 0x68E001, 0x68E002].any (fun k => decide (k = key))

/-- May a role write an entry with these attributes? -/
def mayWrite (role key : Nat) (m safe : Bool) : Bool :=
  observerWrites key || (decide (1 ≤ role) && (!m || decide (2 ≤ role)) && (!safe || decide (3 ≤ role)))

/-- Does a length fit the type and the maximum? -/
def lengthFits (ty : DictType) (key max len : Nat) : Bool :=
  match ty with
  | .str | .domain => decide (len ≤ max) && !(decide (0x702004 ≤ key) && decide (key < 0x702304) && decide (key % 256 = 4) && decide (len % 8 ≠ 0))
  | _ => decide (len = ty.size)

/-- The lengths that entries define for themselves. -/
def lengthInRange (key len : Nat) : Bool :=
  match key with
  | 0x140004 => decide (len = 0) || decide (8 ≤ len)
  | 0x68E003 | 0x140005 => decide (8 ≤ len)
  | 0x140002 => decide (1 ≤ len)
  | 0x202001 | 0x202002 => decide (len = 32)
  | _ => true

/-- Ranges that depend on other entries (R253, R523, chapter 15, R517). -/
def State.valueInRange (s : State) (key : Nat) (v : Nat) : Bool :=
  let ix := key / 256
  if 0x1120 ≤ ix ∧ ix < 0x1124 ∧ key % 256 = 1 then decide (v % 2 = 0)
  else if key = DP.KPRP_V_PGL then decide (2000 ≤ v) && decide (v ≤ 3000) && decide (v + 200 ≤ s.get KPR.KPG_V_PGH)
  else if key = DP.KPRP_V_PGH then decide (s.get KPR.KPG_V_PGL + 200 ≤ v) && decide (v ≤ 4500)
  else if key = DP.GRD_MEMBERS then
    decide (v ≠ 0) && decide (((List.range 4).filter (fun d => decide (v / 4 ^ d % 4 ≠ 0))).length ≤ 2)
  else if 0x1800 ≤ ix ∧ ix < 0x1880 ∧ key % 256 = 1 then decide (v ≤ 4)
  else if 0x1800 ≤ ix ∧ ix < 0x1880 ∧ key % 256 = 7 then
    decide (v ≤ if s.dnat (DP.FC_TRANSPORT (ix - 0x1800)) < 3 then 1500 else 64)
  else true

/-- The number that bytes of a fixed type spell. -/
def numOf (ty : DictType) (b : List Nat) : Int := if ty.signed then toSigned (8 * ty.size) (leNum b) else leNum b

/-- Is a value inside the stated range? -/
def State.inRange (s : State) (r : DictRow) (key : Nat) (b : List Nat) : Bool :=
  match r.ty with
  | .str => b.all (fun x => decide (0x20 ≤ x) && decide (x ≤ 0x7E))
  | .domain => lengthInRange key b.length
  | .bool => decide (leNum b ≤ 1)
  | ty =>
    let v := numOf ty b
    (r.ranges.isEmpty || r.ranges.any (fun x => decide (x.1 ≤ v) && decide (v ≤ x.2))) && s.valueInRange key (leNum b)

/-- The present state of the device refuses a write (R530): R515, R79, R273, R456. -/
def State.stateRefuses (s : State) (key : Nat) (v : Nat) : Bool :=
  let ix := key / 256
  if 0x1800 ≤ ix ∧ ix < 0x1880 ∧ key % 256 = 1 then
    let u := s.use (ix - 0x1800)
    decide (v = 3 ∨ v = 4) || (decide (v = 1 ∨ v = 2) && decide (u = 3 ∨ u = 4))
  else if key = DP.RTCP_RTC_SYNC then decide (v = 1) && !s.lockA
  else if 0x5100 ≤ ix ∧ ix < 0x5110 then s.memberDies.any (fun d => s.flag (RTS.RTCFG_ARM d))
  else commandRoute ix (key % 256) && decide (s.get START.STSTAT_KIND = 2)

/-! ### Applying a value -/

/-- 0x7020+p:04: the admin entries and ADM_LEN, whose register holds GATE_EN too (R41). -/
def State.applyGateList (s : State) (p : Nat) (b : List Nat) : State :=
  let n := b.length / 8
  let s := foldOver (List.range n) (fun i t =>
    (t.set (GATE.ADM_GATES_GATES p i) (b.getD (8 * i) 0)).set (GATE.ADM_INT_INTERVAL p i) (leNum ((b.drop (8 * i + 4)).take 4))) s
  (s.checkParity (GATE.GCFG p) true).set (GATE.GCFG_ADM_LEN p) n

/-- 0x5000:01 (R253, R301): BRIDGES of each drive die, and S. -/
def State.applyMembers (s : State) (v : Nat) : State :=
  let s := foldOver (List.range 4) (fun d t => t.writeField (GSU.GCFG_BRIDGES d) (v / 4 ^ d % 4)) s
  let s := ({ s with gridS := { s.gridS with members := v } }).refreshProbeDie
  foldOver (List.range 4) (fun d t => t.refreshGrid d) s

/-- TYPE of a flow context (R515): 0 stops a process flow at once; a safety connection or a session it leaves alone (assumption 42). -/
def State.applyUse (s : State) (f v : Nat) : State :=
  if s.use f = 3 ∨ s.use f = 4 then s else
  let s := s.setDval (DP.FC_TYPE f) (.num v)
  (if v = 0 then s.modFlow f (fun x => { x with released := none, fresh := false, stale := false, rxLost := false }) else s).refreshDict

/-- A value reaches the entry's home on its direct, keeper or safety route. -/
def State.applyDirect (s : State) (key : Nat) (v : DictVal) : State :=
  let ix := key / 256
  let sub := key % 256
  let n := match v with | .num x => x | .bytes _ => 0
  if 0x7020 ≤ ix ∧ ix < 0x7023 ∧ sub = 4 then s.applyGateList (ix - 0x7020) (match v with | .bytes b => b | .num _ => [])
  else if key = DP.GRD_MEMBERS then s.applyMembers n.toNat
  else if 0x1800 ≤ ix ∧ ix < 0x1880 ∧ sub = 1 then s.applyUse (ix - 0x1800) n.toNat
  else if ix = 0x1100 ∨ (0x1120 ≤ ix ∧ ix < 0x1124) then s
  else
    let l := dictHome s.memberDies ix sub
    if l.isEmpty && !gridEntry ix sub then s.setDval key v else s.writePieces l n

/-- What the commit of a persistent entry brings with it: an approved digest is logged (R462). -/
def State.noteCommit (s : State) (key : Nat) (v : DictVal) : State :=
  if key = 0x202001 ∨ key = 0x202002 then
    match v with
    | .bytes b => s.enterFault 7 8 0xFF (key - 0x202001) (leNum (b.take 4))
    | .num _ => s
  else s

/-- LOGIN (R511, R512): the abort code. -/
def State.login (s : State) (f : Nat) (b : List Nat) : Nat × State :=
  let role := b.headD 0
  let word := b.drop 1
  let sec := s.get RTC.RTC_SEC_SEC
  let p := if role = 2 then s.sys.mntPw else s.sys.opPw
  let put (q : Password) : State := s.modSys (fun y => if role = 2 then { y with mntPw := q } else { y with opPw := q })
  if role ≠ 1 ∧ role ≠ 2 then (0x0401, s)
  else if s.sessionRole f = 3 then (0x0403, s)
  else if p.locked sec then (0x0304, s)
  else if p.unchecked word then (0x0305, s)
  else if p.matches word then
    let s := if p.hash.isSome && decide (p.fails ≠ 0 ∨ p.locks ≠ 0) then put { p with fails := 0, locks := 0 } else s
    (0, s.modSession f (fun x => { x with role := role }))
  else (0x0305, put (p.fail sec))

/-- LOGOUT (R512): to observer from any role; a safety session that it held closes and its pending set is discarded. -/
def State.logout (s : State) (f : Nat) : State :=
  let s := if s.safety.session = some f then s.safetyClose else s
  s.modSession f (fun x => { x with role := 0 })

/-- A write of an entry that is not persistent, from session `f`: the abort code. -/
def State.writeNow (s : State) (f : Nat) (key : Nat) (v : DictVal) (b : List Nat) : Nat × State :=
  let n := leNum b
  let ok (t : State) : Nat × State := (0, t)
  match key with
  | 0x10000A => ok (s.modDict (fun d => { d with restore := true }))
  | 0x140002 => s.login f b
  | 0x140003 => ok (if n = 1 then s.logout f else s)
  | 0x200002 => ok (if n = 1 then s.stop else s)
  | 0x200003 => s.restart n
  | 0x212003 => ok (if n = 1 then s.modNet (fun x => { x with rtcSync := true }) else s)
  | 0x500005 => ok (if n = 1 then foldOver s.memberDies (fun d t => t.connect d) s else s)
  | 0x500006 => ok (if n = 1 then foldOver s.memberDies (fun d t => t.disconnect d) s else s)
  | 0x68E001 => s.safetyLogin f b
  | 0x68E002 => ok (if n = 1 ∧ s.safety.session = some f then s.safetyClose else s)
  | 0x7C2001 =>
    let (o, t) := s.requestWord (n % 2 ^ 31)
    (if o = 0 then 0 else 0x0403, t)
  | 0x7C2004 => ok (s.cancelSlot n)
  | _ =>
    let ix := key / 256
    if 0x7020 ≤ ix ∧ ix < 0x7023 ∧ key % 256 = 5 then ok (if n = 1 then s.gateApply (ix - 0x7020) else s)
    else if 0x7C00 ≤ ix ∧ ix < 0x7C08 ∧ key % 256 = 7 then ok (s.crcControl (ix - 0x7C00) n)
    else if 0x7C00 ≤ ix ∧ ix < 0x7C08 ∧ key % 256 = 10 then ok (s.feed (ix - 0x7C00) b)
    else ok (s.applyDirect key v)

end Sys2Proof.Machine
end

