-- ==== Sys2Proof/Machine/Dictionary.lean ====
section
/-!
DEFINITION. Sys2Proof/Machine/Dictionary.lean: the dictionary engine at work (R503-R530): the order of its checks, sessions, whole and
segmented transfers, writes that wait for the keeper or for both command dies, and its commands.
-/

namespace Sys2Proof.Machine

/-! ### The header (R524) -/

/-- Is the service one of R525, and the header consistent with the message's length (R530)?  A UDP datagram holds exactly LEN data bytes, a CAN frame may be padded. -/
def DictReq.headerOk (svc : Nat) (r : Sys2Proof.DictReq) : Bool :=
  let fits := match r.client with
    | .udp .. => decide (r.data.length = r.len.toNat)
    | .can .. => decide (r.len.toNat ≤ r.data.length)
  let empty := decide (svc = 1 ∨ svc = 2 ∨ svc = 3 ∨ svc = 0x10 ∨ svc = 0x11)
  [1, 2, 3, 0x10, 0x11, 0x20, 0x21, 0x7F].contains svc && fits && decide (r.len.toNat ≤ r.client.maxLen) && (!empty || decide (r.len = 0))
    && (decide (svc ≠ 0x20) || !r.flags.getLsbD 0 || decide (r.len = 4)) && (decide (svc ≠ 0x7F) || decide (r.len = 4))

/-! ### What an access finds (R503-R506, R530) -/

/-- An entry as an access finds it: of the device, of the declaration, or an abort code. -/
inductive Found where
  | device (r : DictRow)
  | app (e : DeclEntry)
  | none (code : Nat)
  | nsub (n : Nat)

/-- The entry with an index and subindex. -/
def State.find (s : State) (ix sub : Nat) : Found :=
  if 0xC000 ≤ ix then .none 0x0201
  else if 0x8000 ≤ ix then
    if s.get START.STSTAT_KIND = 2 then .none 0x0403
    else match s.dict.decl with
      | Option.none => .none 0x0403
      | some l =>
        match l.find? (fun e => decide (e.index = ix)) with
        | Option.none => .none 0x0201
        | some e => if sub = 0 then .nsub e.nsub else if sub ≤ e.nsub then .app e else .none 0x0202
  else match nsubOf ix with
    | Option.none => .none 0x0201
    | some n =>
      if sub = 0 then .nsub n
      else match dictRow? (256 * ix + sub) with
        | some r => .device r
        | Option.none => .none 0x0202

/-! ### Reads -/

/-- An application request goes to the command dies as an input frame of kind 2 (R532). -/
def State.appRequest (s : State) (svc : Nat) (r : Sys2Proof.DictReq) (e : DeclEntry) (write : Bool) (b : List Nat) : State :=
  let hdr := [r.session.toNat, r.gen.toNat] ++ leBytes r.tid.toNat 2 ++ leBytes r.index.toNat 2 ++ [r.sub.toNat, if write then 1 else 0]
  let a : AppReq := { svc := svc, req := r, write := write, val := b, persist := write && e.p, ty := e.ty }
  (s.inputFrame r.session.toNat 2 (hdr ++ b)).modDict (fun d => { d with appReqs := d.appReqs ++ [a] })

/-- READ (R526, R529). -/
def State.readReq (s : State) (svc : Nat) (r : Sys2Proof.DictReq) : State :=
  let ix := r.index.toNat
  let sub := r.sub.toNat
  match s.find ix sub with
  | .none c => s.abort svc r c
  | .nsub n => s.answer svc r 0 [n]
  | .app e => if e.acc = 2 then s.abort svc r 0x0302 else s.appRequest svc r e false []
  | .device row =>
    if row.acc = .wo then s.abort svc r 0x0302
    else if ix = 0x6000 && decide (2 ≤ sub) && decide (s.get START.STSTAT_KIND = 2) then s.abort svc r 0x0403
    else
      let (c, b, t) := s.readDevice r.session.toNat row ix sub
      if c ≠ 0 then t.abort svc r c else t.sendValue svc r b

/-! ### Writes -/

/-- Is a session a safety session opened while no password is set?  The only write that it accepts is NEW_PASSWORD, and the two that close it
(R427, R428; DEDUCED, assumption 76). -/
def State.bareSession (s : State) (role : Nat) : Bool := decide (role = 3) && s.safety.pw.hash.isNone

/-- The checks of a write up to rights and size (R530); `len` its whole length. -/
def State.writeCheck (s : State) (r : Sys2Proof.DictReq) (len : Nat) : Nat :=
  let ix := r.index.toNat
  let sub := r.sub.toNat
  let role := s.sessionRole r.session.toNat
  match s.find ix sub with
  | .none c => c
  | .nsub _ => 0x0301
  | .app e =>
    if e.acc = 0 ∨ e.acc = 3 then 0x0301
    else if !mayWrite role r.key e.m false then 0x0303
    else if s.bareSession role then 0x0403
    else
      let size := match e.ty with
        | 1 | 2 | 6 => 1
        | 3 | 7 | 10 => 2
        | 4 | 8 | 11 => 4
        | _ => 8
      if (if 12 ≤ e.ty then decide (len ≤ e.max) else decide (len = size)) then 0 else 0x0402
  | .device row =>
    if row.acc = .ro ∨ row.acc = .const then 0x0301
    else if !mayWrite role r.key (row.att.contains 'M') (row.att.contains 'S') then 0x0303
    else if s.bareSession role && !([0x68E002, 0x68E003, 0x140003] : List Nat).contains r.key then 0x0403
    else if !lengthFits row.ty r.key row.max len then 0x0402
    else 0

/-- A command-route write goes out as a frame of kind 4; its answer waits for both command dies (R521). -/
def State.commandFrame (s : State) (svc : Nat) (r : Sys2Proof.DictReq) (v : DictVal) : State :=
  let hdr := [r.session.toNat, r.gen.toNat] ++ leBytes r.tid.toNat 2 ++ leBytes r.index.toNat 2 ++ [r.sub.toNat, 1]
  let bsn := s.dict.bsn
  (s.inputFrame r.session.toNat 4 (hdr ++ dictBytes r.key v)).modDict (fun d => { d with cmdWait := some (bsn, svc, r) })

/-- The value of a password entry as the keeper is to hold it (R511): a fresh salt and the hash; none for a length of 0. -/
def State.newPasswordOf (s : State) (p : Password) (b : List Nat) : Password × State :=
  if b.isEmpty then ({}, s)
  else
    let (n, s) := s.fresh
    (setPassword p n b, s)

/-- A persistent value is applied once it is committed (R508), and the request is answered; a command-route entry by its frame. -/
def State.applyPersisted (s : State) (svc : Nat) (r : Sys2Proof.DictReq) (key : Nat) (v : DictVal) : State :=
  let n := match v with | .num x => x | .bytes _ => 0
  let s := if keeperKeys.contains key then s.handshakePieces (dictHome [] (key / 256) (key % 256)) n else s.applyDirect key v
  let s := s.noteCommit key v
  if commandRoute (key / 256) (key % 256) then s.commandFrame svc r v else s.answer svc r 0 []

/-- A write of a device entry that has passed the checks up to size: range, state, then its route. -/
def State.writeDevice (s : State) (svc : Nat) (r : Sys2Proof.DictReq) (row : DictRow) (b : List Nat) : State :=
  let key := r.key
  let v : DictVal := match row.ty with | .str | .domain => .bytes b | ty => .num (numOf ty b)
  if !s.inRange row key b then s.abort svc r 0x0401
  else if s.stateRefuses key (leNum b) then s.abort svc r 0x0403
  else if row.att.contains 'S' && decide (row.acc = .rw) then
    let (c, t) := s.pendWrite key v
    if c ≠ 0 then t.abort svc r c else t.answer svc r 0 []
  else if key = 0x68E003 ∨ key = 0x68E004 then
    let (c, t) := if key = 0x68E003 then s.newPassword (some (svc, r)) b else s.applyRequest (some (svc, r)) (leNum b)
    if c ≠ 0 then t.abort svc r c else t
  else if row.att.contains 'P' then
    let (pw, s) := if key = 0x140004 then s.newPasswordOf s.sys.opPw b else if key = 0x140005 then s.newPasswordOf s.sys.mntPw b else ({}, s)
    (s.modDict (fun d => { d with commit := some { key := key, val := v, svc := svc, req := r, pw := pw } })).burstRequest (commitClass key)
  else
    let (c, t) := s.writeNow r.session.toNat key v b
    if c ≠ 0 then t.abort svc r c else t.answer svc r 0 []

/-- A write of a whole value (R507). -/
def State.writeValue (s : State) (svc : Nat) (r : Sys2Proof.DictReq) (b : List Nat) : State :=
  let c := s.writeCheck r b.length
  if c ≠ 0 then s.abort svc r c
  else match s.find r.index.toNat r.sub.toNat with
    | .device row => s.writeDevice svc r row b
    | .app e => if e.p && s.storeFull r.key b.length then s.abort svc r 0x0501 else s.appRequest svc r e true b
    | _ => s

/-- WRITE (R527). -/
def State.writeReq (s : State) (svc : Nat) (r : Sys2Proof.DictReq) : State :=
  if r.flags.getLsbD 0 then
    let total := leNum r.bytes
    if total = 0 then s.writeValue svc r []
    else
      let c := s.writeCheck r total
      if c ≠ 0 then s.abort svc r c
      else
        let x : Transfer := { down := true, tid := r.tid.toNat, key := r.key, data := [], total := total, next := 1 }
        (s.modSession r.session.toNat (fun y => { y with xfer := some x })).answer svc r 0 []
  else s.writeValue svc r r.bytes

/-! ### Segments (R526, R527) -/

/-- The transfer of a session ends. -/
def State.endTransfer (s : State) (f : Nat) : State := s.modSession f (fun y => { y with xfer := none })

/-- SEG_UP: the next segment of a value. -/
def State.segUp (s : State) (svc : Nat) (r : Sys2Proof.DictReq) (x : Transfer) : State :=
  let m := r.client.maxLen
  let b := (x.data.drop (m * (x.next - 1))).take m
  if m * x.next < x.total then
    (s.modSession r.session.toNat (fun y => { y with xfer := some { x with next := x.next + 1 } })).answer svc r 0 b
  else (s.endTransfer r.session.toNat).answer svc r 2 b

/-- SEG_DN: a segment; the value is written at LAST, when its bytes are the ones announced. -/
def State.segDn (s : State) (svc : Nat) (r : Sys2Proof.DictReq) (x : Transfer) : State :=
  let f := r.session.toNat
  let b := x.data ++ r.bytes
  if r.flags.getLsbD 1 then
    (if b.length = x.total then (s.endTransfer f).writeValue svc r b else (s.endTransfer f).abort svc r 0x0101)
  else if r.len.toNat = r.client.maxLen ∧ b.length < x.total then
    (s.modSession f (fun y => { y with xfer := some { x with data := b, next := x.next + 1 } })).answer svc r 0 []
  else (s.endTransfer f).abort svc r 0x0101

/-! ### Sessions (R513, R516, R525, R528) -/

/-- OPEN: an earlier session of the client closes; the lowest free context. -/
def State.openReq (s : State) (r : Sys2Proof.DictReq) : State :=
  let s := match s.sessions.find? (fun f => match (vget s.flows f).session with | some x => x.client.same r.client | none => false) with
    | some f => s.closeSession f
    | none => s
  match (List.range 128).find? (fun f => decide (s.use f = 0)) with
  | some f =>
    if 32 ≤ s.sessions.length then s.refuse r 0x0501
    else
      let gen := (vget s.flows f).gen + 1
      let s := ((s.modFlow f (fun x => { x with gen := gen, session := some { client := r.client } })).setDval (DP.FC_TYPE f) (.num 4)).refreshDict
      s.toClient r.client (r.message 0x81 0 f (gen % 256) [])
  | none => s.refuse r 0x0501

/-- A request of an open session, by its service; a client's ABORT, to which R525 gives no response, ends the transfer under its TID (DESIGN
CHOICE, assumption 77). -/
def State.request (s : State) (svc : Nat) (r : Sys2Proof.DictReq) (x : Session) : State :=
  let f := r.session.toNat
  let same (t : Transfer) : Bool := decide (t.tid = r.tid.toNat)
  let next (t : Transfer) : Bool := decide (svc = if t.down then 0x21 else 0x11) && decide (r.segno.toNat = t.next) && decide (r.key = t.key)
  let replay : Bool := match x.last with | some (_, tid, _, _) => decide (tid = r.tid.toNat) | none => false
  let plain (s : State) : State :=
    match svc with
    | 2 => (s.answer svc r 0 []).closeSession f
    | 3 => s.answer svc r 0 []
    | 0x10 => s.readReq svc r
    | 0x20 => s.writeReq svc r
    | _ => s.abort svc r 0x0102
  if svc = 0x7F then (match x.xfer with | some t => if same t then s.endTransfer f else s | none => s)
  else match x.xfer with
  | some t =>
    if same t then
      (if next t then (if t.down then s.segDn svc r t else s.segUp svc r t)
       else (s.endTransfer f).abort svc r 0x0102)
    else
      let a : Sys2Proof.DictReq := { r with tid := BitVec.ofNat 16 t.tid, index := BitVec.ofNat 16 (t.key / 256), sub := BitVec.ofNat 8 t.key
                                            segno := BitVec.ofNat 16 t.next }
      plain ((s.endTransfer f).toClient r.client (a.message 0x7F 0 f r.gen.toNat (leBytes 0x0102 4)))
  | none => if replay then s.abort svc r 0x0102 else plain s

/-- Process a request (R528, R530). -/
def State.process (s : State) (svc : Nat) (r : Sys2Proof.DictReq) : State :=
  if !DictReq.headerOk svc r then
    (match s.sessionOf r with
     | some x => if svc ≠ 1 && x.client.same r.client then s.abort svc r 0x0101 else s.refuse r 0x0101
     | none => s.refuse r 0x0101)
  else if svc = 1 then s.openReq r
  else match s.sessionOf r with
    | none => s.refuse r 0x0104
    | some x =>
      if !x.client.same r.client then s.incSat DICT.DCNT_FOREIGN_CNT
      else
        let waits (a : AppReq) : Bool := decide (a.svc = svc) && decide (a.req.session = r.session) && decide (a.req.gen = r.gen)
          && decide (a.req.tid = r.tid) && decide (a.req.segno = r.segno)
        match x.last with
        | some (v, tid, seg, m) =>
          if v = svc ∧ tid = r.tid.toNat ∧ seg = r.segno.toNat then s.toClient r.client m
          else if s.dict.appReqs.any waits || s.dict.appCommits.any waits then s
          else s.request svc r x
        | none => if s.dict.appReqs.any waits || s.dict.appCommits.any waits then s else s.request svc r x

/-- Does a request in hand hold up those behind it (R507)? -/
def State.engineWaits (s : State) : Bool := s.dict.commit.isSome || s.dict.cmdWait.isSome || s.safety.asked.isSome

/-- A request reaches the engine. -/
def State.serve (s : State) (svc : Nat) (r : Sys2Proof.DictReq) : State :=
  if s.engineWaits then s.modDict (fun d => { d with waiting := d.waiting ++ [(svc, r)] }) else s.process svc r

/-- The requests that wait, in their order, until one holds up the rest. -/
def State.drain : Nat → State → State
  | 0, s => s
  | n + 1, s =>
    if s.engineWaits then s
    else match s.dict.waiting with
      | [] => s
      | (svc, r) :: rest => ((s.modDict (fun d => { d with waiting := rest })).process svc r).drain n

/-- What waited behind a request that is complete is served. -/
def State.resume (s : State) : State := s.drain (s.dict.waiting.length + 1)

/-- OPEN (R516). -/
def execDictOpen (r : Sys2Proof.DictReq) (s : State) : Out := s.whileRuns <| .next (s.serve 0x01 r)

/-- CLOSE (R513). -/
def execDictClose (r : Sys2Proof.DictReq) (s : State) : Out := s.whileRuns <| .next (s.serve 0x02 r)

/-- NOP (R525). -/
def execDictNop (r : Sys2Proof.DictReq) (s : State) : Out := s.whileRuns <| .next (s.serve 0x03 r)

/-- READ (R526). -/
def execDictRead (r : Sys2Proof.DictReq) (s : State) : Out := s.whileRuns <| .next (s.serve 0x10 r)

/-- SEG_UP (R526). -/
def execDictSegUp (r : Sys2Proof.DictReq) (s : State) : Out := s.whileRuns <| .next (s.serve 0x11 r)

/-- WRITE (R527). -/
def execDictWrite (r : Sys2Proof.DictReq) (s : State) : Out := s.whileRuns <| .next (s.serve 0x20 r)

/-- SEG_DN (R527). -/
def execDictSegDn (r : Sys2Proof.DictReq) (s : State) : Out := s.whileRuns <| .next (s.serve 0x21 r)

/-- ABORT (R525, R530): a client's ABORT message with its abort word reaches the engine, or a message with another service code, to which the
engine answers with an ABORT message that carries MALFORMED where R525 does not list it. -/
def execDictAbort (r : Sys2Proof.DictReq) (word : AbortMsg) (s : State) : Out := s.whileRuns <|
  .next (match word with
    | .word w => s.serve 0x7F { r with len := 4, data := bytesLE w.toNat 4 }
    | .service svc => s.serve svc.toNat r)

/-- A request for one entry, as a WRITE. -/
def DictReq.to (r : Sys2Proof.DictReq) (index : BitVec 16) (sub : BitVec 8) : Sys2Proof.DictReq := { r with index := index, sub := sub }

/-- LOGIN (R511). -/
def execDictLogin (r : Sys2Proof.DictReq) (s : State) : Out := s.whileRuns <| .next (s.serve 0x20 (DictReq.to r 0x1400 2))

/-- LOGOUT (R512). -/
def execDictLogout (r : Sys2Proof.DictReq) (s : State) : Out := s.whileRuns <| .next (s.serve 0x20 (DictReq.to r 0x1400 3))

/-- OP_PASSWORD (R511). -/
def execOpPassword (r : Sys2Proof.DictReq) (s : State) : Out := s.whileRuns <| .next (s.serve 0x20 (DictReq.to r 0x1400 4))

/-- MNT_PASSWORD (R511). -/
def execMntPassword (r : Sys2Proof.DictReq) (s : State) : Out := s.whileRuns <| .next (s.serve 0x20 (DictReq.to r 0x1400 5))

/-- RESTORE (R509). -/
def execRestore (r : Sys2Proof.DictReq) (s : State) : Out := s.whileRuns <| .next (s.serve 0x20 (DictReq.to r 0x1000 10))

/-- SESSION_TIMEOUT (R513): SESS_TMO without a request of session `f`. -/
def execSessionTimeout (f : Fin 128) (s : State) : Out := s.whileRuns <|
  .next (if (vget s.flows f).session.isSome then s.closeSession f else s)

/-- XFER_TIMEOUT (R528): the transfer of session `f` has waited more than XFER_TMO. -/
def execXferTimeout (f : Fin 128) (s : State) : Out := s.whileRuns <|
  .next (
    let x := vget s.flows f
    match x.session with
    | none => s
    | some y =>
      match y.xfer with
      | none => s
      | some t =>
        let r : Sys2Proof.DictReq := {
          client := y.client, flags := 0, session := BitVec.ofNat 8 f, gen := BitVec.ofNat 8 x.gen, tid := BitVec.ofNat 16 t.tid
          index := BitVec.ofNat 16 (t.key / 256), sub := BitVec.ofNat 8 t.key, segno := BitVec.ofNat 16 t.next, len := 0, data := [] }
        (s.endTransfer f).toClient y.client (r.message 0x7F 0 f (x.gen % 256) (leBytes 0x0103 4)))

/-- The commit of a persistent write has not completed: neither value changes (R508). -/
def State.persistFails (s : State) : State :=
  match s.dict.commit with
  | none =>
    match s.safety.asked with
    | none => s
    | some a =>
      let s := if a.apply then s.applyWithdraw else s
      let s := s.modSafety (fun x => { x with asked := none })
      let s := (s.modKeeper (fun k => { k with snap := { k.snap with saf := s.safNow } })).safRegionRequest
      (match a.reply with | some (svc, r) => s.abort svc r 0x0504 | none => s).resume
  | some c =>
    let s := s.modDict (fun d => { d with commit := none })
    let s := if commitClass c.key = 2 then
        s.modKeeper (fun k => { k with wait := { k.wait with sys := s.sys }, snap := if c.taken then { k.snap with sys := s.sys } else k.snap })
      else s
    (if c.live then s.abort c.svc c.req 0x0504 else s).resume

/-- The commit of the oldest application value fails: the store keeps the old value (R533). -/
def State.appPersistFails (s : State) : State :=
  match s.dict.appCommits with
  | [] => s
  | a :: rest =>
    let s := (s.modDict (fun d => { d with appCommits := rest })).modKeeper (fun k => { k with appTaken := k.appTaken - 1 })
    if (s.sessionOf a.req).isSome then s.abort a.svc a.req 0x0504 else s

/-- PERSIST_TIMEOUT (R508, R533): 500 ms without the commit of a device entry's write, or (`app`) of an application value. -/
def execPersistTimeout (app : Bool) (s : State) : Out := s.whileRuns <| .next (if app then s.appPersistFails else s.persistFails)

/-- Has a command die still to receive the frame with this BSN?  A die that is OFF receives none. -/
def State.frameWaits (s : State) (bsn : Nat) : Bool :=
  [0, 1].any (fun c => decide (s.role c ≠ 0) && (s.cmd c).inFrames.any (fun f => decide (f.bsn = bsn)))

/-- A command-route write is answered once both dies have its frame (R521). -/
def State.answerRouted (s : State) : State :=
  match s.dict.cmdWait with
  | some (bsn, svc, r) => if s.frameWaits bsn then s else ((s.modDict (fun d => { d with cmdWait := none })).answer svc r 0 []).resume
  | none => s

/-- INPUT_FRAME_ARRIVAL (R521): the oldest frame on its way to a command die arrives. -/
def execInputFrameArrival (c : Fin 2) (s : State) : Out := s.whileRuns <| .next (s.inputFrameArrival c).answerRouted

end Sys2Proof.Machine
end

