-- ==== Sys2Proof/Machine/Bursts.lean ====
section
/-!
DEFINITION. Sys2Proof/Machine/Bursts.lean: the end of a keeper burst (R553, R555, R557): what its class leaves in the MRAM, and what waited
for it.
-/

namespace Sys2Proof.Machine

/-- The keeper has committed the safety region: what the engine waits for takes effect and is answered (R429, R508); an APPLY whose session has
closed is refused. -/
def State.safCommitted (s : State) : State :=
  match s.safety.asked with
  | none => s
  | some a =>
    if !a.taken then s
    else
      let s := (s.modSafety (fun x => { x with asked := none })).askDone a
      let s := match a.reply with
        | some (svc, r) => if (s.sessionOf r).isNone then s else if a.apply || a.pw.isSome then s.answer svc r 0 [] else s.abort svc r 0x0403
        | none => s
      s.resume

/-- Class 1: one entry of the change log, or the safety region; an APPLY takes effect with the region (R429). -/
def State.endBurst1 (s : State) : State :=
  let k := s.keeper
  let s := if k.snap.log.head? ≠ k.mram.log.head? then s.modKeeper (fun k => { k with mram := { k.mram with log := k.snap.log } })
    else (s.modKeeper (fun k => { k with mram := { k.mram with saf := k.snap.saf } })).safCommitted
  if s.logWaits.isSome || s.keeper.safRegion then s.orBits KPR.KQ_QUEUE 2 else s

/-- The persistent write that the burst carried is applied and answered, unless the engine was reset meanwhile (R508). -/
def State.writeCommitted (s : State) (c : Nat) : State :=
  match s.dict.commit with
  | some w =>
    if w.taken && decide (commitClass w.key = c) then
      let s := s.modDict (fun d => { d with commit := none })
      let s := if c = 2 then { s with sys := s.sys.with w } else { s with persist := Assoc.put s.persist w.key w.val }
      if w.live then ((if c = 2 then s.answer w.svc w.req 0 [] else s.applyPersisted w.svc w.req w.key w.val)).resume else s.noteCommit w.key w.val
    else s
  | none => s

/-- Class 3: a new REPEAT of the newest entry, or the oldest entry that waits (R568, R569). -/
def State.endBurst3 (s : State) : State :=
  let s := s.modLife (fun l =>
    match l.repWait, l.hist with
    | some r, e :: rest => { l with hist := { e with rep := r } :: rest, repWait := none }
    | _, _ =>
      match l.histWait.getLast? with
      | some e => { l with hist := (e :: l.hist).take 1024, histWait := l.histWait.dropLast }
      | none => l)
  if s.life.histWait.isEmpty && s.life.repWait.isNone then s else s.orBits KPR.KQ_QUEUE 8

/-- Class 5: one metering point. -/
def State.endBurst5 (s : State) : State :=
  let s := match s.keeper.snapMeter with
    | some v => s.modMeter s.keeper.meter (fun p => { p with saved := v })
    | none => s
  let s := s.modKeeper (fun k => { k with snapMeter := none })
  if [0, 1, 2].any (fun i => (s.meter i).waiting.isSome) then s.orBits KPR.KQ_QUEUE 32 else s

/-- Class 7: the application values that the burst carried; their writes are answered (R533). -/
def State.endBurst7 (s : State) : State :=
  let l := s.dict.appCommits.take s.keeper.appTaken
  let s := (s.modDict (fun d => { d with appCommits := d.appCommits.drop s.keeper.appTaken })).modKeeper (fun k => { k with appTaken := 0 })
  let s := l.foldl (fun t (a : AppReq) =>
    let t := t.modDict (fun d => { d with appStore := Assoc.put d.appStore a.req.key (a.ty, a.val) })
    if (t.sessionOf a.req).isSome then t.answer a.svc a.req 0 [] else t) s
  if s.dict.appCommits.isEmpty then s else s.orBits KPR.KQ_QUEUE 128

/-- Class 8: the lifetime counters; parked, the keeper takes its own increments back at once (R567). -/
def State.endBurst8 (s : State) : State :=
  let c := s.keeper.snapLife
  let s := s.modLife (fun l => { l with
    comm := c
    work := match l.snap8 with | some i => l.work.merged i c.lastMerge | none => l.work
    done8 := match l.snap8 with | some i => some i | none => l.done8
    snap8 := none })
  if s.power.good then s
  else match s.life.done8 with
    | some i => (s.subtract8 i).modLife (fun l => { l with merge := none })
    | none => s

/-- Class 9: the rainflow cells. -/
def State.endBurst9 (s : State) : State :=
  match s.life.snap9 with
  | some i =>
    s.modLife (fun l => { l with
      comm := { l.comm with rain := addCounts l.comm.rain i.rain }, work := { l.work with rain := addCounts l.work.rain i.rain }
      done9 := some i, snap9 := none })
  | none => s

/-- What a burst of class `c` that carried new content leaves. -/
def State.endBurst (s : State) (c : Nat) : State :=
  match c with
  | 1 => s.endBurst1
  | 2 => (s.modKeeper (fun k => { k with mram := { k.mram with sys := k.snap.sys } })).writeCommitted 2
  | 3 => s.endBurst3
  | 4 => s.modKeeper (fun k => { k with mram := { k.mram with ckpt := k.snap.ckpt } })
  | 5 => s.endBurst5
  | 6 => s.writeCommitted 6
  | 7 => s.endBurst7
  | 8 => s.endBurst8
  | 9 => s.endBurst9
  | _ => s

/-- BURST_COMPLETE (R555): the burst that runs ends with its copy's header; a burst that only MA6 asked for has written what the region
held (R558). -/
def execBurstComplete (s : State) : Out :=
  .next (match s.keeper.running with
    | none => s
    | some c =>
      if c = 0 ∨ c = 10 then s
      else
        let s := s.keeper.writing.foldl (fun t r => t.modCopies r RegionCopies.closed) s
        ((if s.keeper.rewriting then s else s.endBurst c).ma6Burst c).burstOver)

end Sys2Proof.Machine
end

