-- ==== Sys2Proof/Machine/Starts.lean ====
section
/-!
DEFINITION. Sys2Proof/Machine/Starts.lean: the three starts (chapter 12, R448-R456, R460-R464, R617, R622), the release of the command dies and the
restart of one of them.
-/

namespace Sys2Proof.Machine

/-- The persisted value of an entry. -/
def State.persisted (s : State) (key : Nat) : DictVal := (Assoc.get s.persist key).getD (dictDefault key)

/-! ### Kind and boot attempt (R448, R453, R454) -/

/-- The kind of a start and COLD_WHY. -/
def State.startKind (s : State) : Nat × Nat :=
  let int := match s.persisted DP.SYS_COLD_INT with | .num x => x.toNat | .bytes _ => 0
  if s.sys.latch then (2, 0)
  else if s.keeper.first then (0, 1)
  else if s.sys.coldNext then (0, 2)
  else if int ≠ 0 ∧ int * 3600 ≤ s.sys.powered then (0, 3)
  else if !s.keeper.mram.ckpt.any (fun k => decide (k.device = Config.deviceNumber 4)) then (0, 4)
  else (1, 0)

/-- The offset of a double-copy region in the MRAM. -/
def regionOffset (r : Nat) : Nat := [0x1000, 0x3000, 0xB000, 0x17000, 0x23000, 0x27000, 0x2B000, 0x2F000, 0x37000, 0x3B000].getD r 0

/-- A region without a valid copy takes its defaults, zero for counters (R556). -/
def State.regionDefault (s : State) (r : Nat) : State :=
  match r with
  | 0 => { (s.modKeeper (fun k => { k with mram := { k.mram with sys := {} } })) with sys := {} }
  | 1 => s.modKeeper (fun k => { k with mram := { k.mram with ckpt := none } })
  | 2 => { s with persist := [] }
  | 3 => (s.modKeeper (fun k => { k with mram := { k.mram with saf := {} } })).modSafety (fun x => { x with pw := {} })
  | 4 => s.modMeter 0 (fun p => { p with saved := {} })
  | 5 => s.modMeter 1 (fun p => { p with saved := {} })
  | 6 => s.modMeter 2 (fun p => { p with saved := {} })
  | 7 => s.modDict (fun d => { d with appStore := [] })
  | 8 => s.modLife (fun l => { l with comm := { rain := l.comm.rain }, work := { rain := l.work.rain } })
  | 9 => s.modLife (fun l => { l with comm := { l.comm with rain := [] }, work := { l.work with rain := [] } })
  | _ => s

/-- The keeper reads its regions for a start (R556): each without a valid copy takes its defaults and, the checkpoint apart, is entered
as code 0x000D with the region's offset. -/
def State.readRegions (s : State) : State :=
  (List.range 10).foldl (fun t r =>
    if (vget t.keeper.regions r).valid then t
    else if r = 1 then t.regionDefault r
    else (t.regionDefault r).enterFault 0xD 8 0xFF (regionOffset r) 0) s

/-- Before the kind is decided: an attempt that is still open has failed with result 1. -/
def State.closeOpenAttempt (s : State) : State :=
  match s.sys.attempts.head? with
  | some a => if a.opened then s.failAttempt 1 else s
  | none => s

/-- The keeper commits the system region at once, before a start goes on (R453). -/
def State.commitSys (s : State) (f : SysRegion → SysRegion) : State :=
  let s := ({ s with sys := f s.sys }).modCopies 0 (fun r => r.begun.closed)
  s.modKeeper (fun k => { k with mram := { k.mram with sys := s.sys }, wait := { k.wait with sys := s.sysNow }, snap := { k.snap with sys := s.sys } })

/-- Step 1 (R453), and what a start shows of itself. -/
def State.recordStart (s : State) (kind why : Nat) : State :=
  let sec := s.get RTC.RTC_SEC_SEC
  let s := s.modLife (fun l => { l with starts := l.starts + 1 })
  let s := s.countEvent (match kind with | 0 => .cold | 1 => .warm | _ => .recov)
  let a : BootAttempt := { sec := sec, kind := kind, result := 0, why := why, opened := true }
  let s := s.commitSys (fun y =>
    let y := if kind = 2 then y else { y with attempts := (a :: y.attempts).take 8 }
    if kind = 0 then { y with coldNext := false, powered := 0 } else y)
  let s := (((s.set START.STSTAT_KIND kind).set START.STSTAT_COLD_WHY why).setB START.STSTAT_RECOV s.sys.latch).set START.STSTAT_ATT_FAIL
    (failedWithin s.sys.attempts sec)
  (s.set START.START_SEC_START_SEC sec).modKeeper (fun k => { k with first := false })

/-- RESTORE (R509): every persistent entry outside 0x6800-0x6FFF returns to its default, application values are discarded. -/
def State.restoreDefaults (s : State) : State :=
  if !s.dict.restore then s
  else
    let s := (s.modDict (fun d => { d with restore := false, appStore := [] })).modSys (fun y => { y with opPw := {}, mntPw := {}, coldNext := false })
    { s with persist := [] }

/-! ### Steps 2 and 4 -/

/-- Step 2: 0x2100 into every CLK block, 0x2110+d but HOP_EN into the drive dies (R81, R617). -/
def State.loadClocks (s : State) : State :=
  s.persist.foldl (fun t (e : Nat × DictVal) =>
    let n := match e.2 with | .num x => x.toNat | .bytes _ => 0
    if e.1 = DP.CLKP_LOCK_WIN then Die.all.foldl (fun u x => u.set (CLK.LOCK_CFG_LOCK_WIN x) n) t
    else if e.1 = DP.CLKP_LOCK_N then Die.all.foldl (fun u x => u.set (CLK.LOCK_CFG_LOCK_N x) n) t
    else if e.1 = DP.CLKP_LOSS_M then Die.all.foldl (fun u x => u.set (CLK.LOCK_CFG_LOSS_M x) n) t
    else if 0x2110 ≤ e.1 / 256 ∧ e.1 / 256 < 0x2114 ∧ e.1 % 256 ≠ 1 then t.applyDirect e.1 e.2
    else t) s

/-- Step 4: full searches in a cold start; otherwise the tables of the MRAM, and a full search of a PLL with no valid entry of SLOT0 in either
class (R61, R66, R67). -/
def State.lockPlls (s : State) (x : StartInput) (kind : Nat) : State :=
  let s := if kind = 0 then
      (Die.all.foldl (fun t e => let b := vget x.bands e.code; t.bandSearch e b.1.toNat b.2.1 b.2.2) s).commitBands
    else
      let t := s.keeper.mram.sys.bands.foldl (fun t (b : Nat × Word) => t.setReg b.1 b.2) s
      Die.all.foldl (fun t e =>
        let b := vget x.bands e.code
        if (t.bandFor e 0 (x.hot.getLsbD e.code)).isSome then t else t.bandSearch e b.1.toNat b.2.1 b.2.2) t
  Die.all.foldl (fun t e => t.pllLock e (x.hot.getLsbD e.code)) s

/-! ### Steps 5 to 10 -/

/-- What the checkpoint holds of the lanes in service. -/
def Checkpoint.lanes (k : Checkpoint) : List (RF × Nat) := laneFields.zip (k.counters.drop coldCounters.length)

/-- Step 10: the counters, retirements, delay and ACAL registers of the checkpoint (R451); what steps 5 and 6 have retired stays retired. -/
def State.restoreCheckpoint (s : State) (k : Checkpoint) : State :=
  let s := foldOver (bitsOf 4 k.dies) (fun d t => t.dieOut d) s
  let s := (coldCounters.zip k.counters).foldl (fun t (x : RF × Nat) => t.set x.1 x.2) s
  let s := (Checkpoint.lanes k).foldl (fun t (x : RF × Nat) => t.set x.1 (t.get x.1 &&& x.2)) s
  let s := (retiredFields.zip (k.counters.drop (coldCounters.length + laneFields.length))).foldl (fun t (x : RF × Nat) => t.set x.1 (t.get x.1 ||| x.2)) s
  let s := k.regs.foldl (fun t (x : Nat × Word) => t.setReg x.1 x.2) s
  let s := foldOver (List.range 8) (fun n t => if t.flag (CLE.FLAGS_RETIRED (n / 2) (n % 2)) then t.cleRetired (n / 2) (n % 2) else t) s
  let s := foldOver (bitsOf 64 k.cmps) (fun i t => t.modCmp (i / 16) (i % 16) (fun c => { c with retired := true })) s
  ({ s with maintSeq := k.results }).setB START.STSTAT_CKPT_OK true

/-- Is a lane retired by the checkpoint that a start restores, so that step 6 does not check it? -/
def laneGone (k : Option Checkpoint) (e : Die) (p lane : Nat) : Bool :=
  k.any (fun c => ((Checkpoint.lanes c).find? (fun x => decide (x.1 = ELINK.STAT_LANE_UP_RX e p))).any (fun x => !x.2.testBit lane))

/-- Steps 5 and 6: what fails its test is retired; `k`, in a warm or recovery start, tells the lanes that are out of service already. -/
def State.testUnits (s : State) (x : StartInput) (k : Option Checkpoint) : State :=
  let s := foldOver ((bitsOf 4 x.bistDies.toNat).filter (fun d => !k.any (fun c => c.dies.testBit d))) (fun d t => t.retireDrive d) s
  let s := foldOver (bitsOf 8 x.bistCles.toNat) (fun n t => t.retireCle (n / 2) (n % 2)) s
  x.lanes.foldl (fun t (l : Die × Fin 7 × Fin 4) =>
    match l.1.farEnd l.2.1 with
    | some (f, q) => if t.bit (ELINK.STAT_LANE_UP_RX l.1 l.2.1) l.2.2 && !laneGone k l.1 l.2.1 l.2.2 then t.laneRetire l.1 l.2.1 l.2.2 f q none else t
    | none => t) s

/-- Steps 7 to 9 of a cold start, on every drive die in service: MA1 on every port, MA0 on every comparator, MA2 on every core. -/
def State.calibrate (s : State) (x : StartInput) : State :=
  let serves (d : Nat) : Bool := !(vget s.drives d).retired
  let s := foldOver ((List.range 28).filter (fun n => serves (n / 7))) (fun n t =>
    match vget x.delays n with
    | some (ref, tpt, lin) =>
      (t.modPort (n / 7) (n % 7) (fun p => { p with newDelay := some ⟨ref.toNat, tpt.toNat, lin.toList.map BitVec.toNat⟩ })).loadDelays (n / 7) (n % 7)
    | none => t) s
  let s := foldOver ((bitsOf 64 x.cmps.toNat).filter (fun i => serves (i / 16))) (fun i t => t.retireCmp (i / 16) (i % 16)) s
  foldOver ((List.range 16).filter (fun n => serves (n / 4))) (fun n t =>
    match vget x.acal n with
    | some (se, diff) => (t.setReg (ADC.ACAL_SE (n / 4) (n % 4)) se).setReg (ADC.ACAL_DIFF (n / 4) (n % 4)) diff
    | none => t.retireCore (n / 4) (n % 4)) s

/-! ### Step 11 (R57, R476, R617) -/

/-- The entries whose value puts a configuration in force: they are applied after what they latch. -/
def enabling (key : Nat) : Bool :=
  let ix := key / 256
  decide (key % 256 = 1) && [(0x2110, 4), (0x4000, 16), (0x4040, 64), (0x40C0, 8), (0x4800, 8), (0x5020, 1), (0x5800, 3), (0x7000, 3),
    (0x7060, 16), (0x7080, 4)].any (fun b => decide (b.1 ≤ ix) && decide (ix < b.1 + b.2))

/-- One persisted value at a start. -/
def State.startValue (s : State) (key : Nat) (v : DictVal) : State :=
  let ix := key / 256
  let n := match v with | .num x => x.toNat | .bytes _ => 0
  if ix = 0x2100 ∨ (0x2110 ≤ ix ∧ ix < 0x2114 ∧ key % 256 ≠ 1) then s
  else if ix = 0x1100 ∨ (0x1120 ≤ ix ∧ ix < 0x1124) then s.setDval key v
  else if ix = 0x6000 ∧ 2 ≤ key % 256 then
    foldOver [0, 1] (fun c t => match cmdEntry c (key % 256) with | some f => t.set f (cmdValue (key % 256) n) | none => t) s
  else s.applyDirect key v

/-- The persisted values, those that enable last; a keeper-route entry without a stored value has its default, which the registers of the
keeper's domain take too, since they outlast the reset (R57); so has EN of an Ethernet port, whose default is not its Reset value. -/
def State.loadPersisted (s : State) : State :=
  let s := ((keeperKeys ++ [0x700001, 0x700101, 0x700201]).filter (fun k => (Assoc.get s.persist k).isNone)).foldl (fun (t : State) (k : Nat) => t.startValue k (dictDefault k)) s
  let l := s.persist.filter (fun e => !enabling e.1) ++ s.persist.filter (fun e => enabling e.1)
  let s := l.foldl (fun t (e : Nat × DictVal) => t.startValue e.1 e.2) s
  let s := foldOver [0, 1, 2] (fun p t => if t.flag (GATE.GCFG_GATE_EN p) then t.gateApply p else t) s
  let n (d : Nat) : Nat := max 1 (min 64 (s.get (DCMD.DCMDCFG_CMD_N d)))
  let s := foldOver (List.range 4) (fun d t => t.modDrive d (fun x => { x with cmdN := n d })) s
  (s.set (CMD.CMDCFG_CMD_N 0) (n 0)).set (CMD.CMDCFG_CMD_N 1) (n 0)

/-- The safety parameters, and what S does at every start: outputs held in STO, connections opened, GT_DUE from the powered hours. -/
def State.loadSafety (s : State) : State :=
  let s := s.keeper.mram.saf.params.foldl (fun t (e : Nat × DictVal) => t.setDval e.1 e.2) s
  let s := unkept.foldl (fun t k => t.setDval k (.num 0)) s
  let s := foldOver (List.range 48) (fun c t => t.openConn c) s
  let s := if 2592000 ≤ s.sys.gtSecs then s.setB SFN.SFSTAT_GT_DUE true else s
  (((s.refreshUses).guardTimes).showAxes.refreshSState).refreshRun

/-! ### Step 12: the flash (R613) and the boot images (R460-R463) -/

/-- The port that a flash's tables ask for (R613): 8D-8D-8D at the lower of 200 MHz and the highest clock stated, or 1S-1S-1S at 25 MHz as the
tables were read. -/
def FlashPort.opened (k : FlashTable) : FlashPort :=
  if k.octal then ⟨some k, true, min 200 k.mhz.toNat⟩ else ⟨some k, false, 25⟩

/-- Each command die reads its flash's tables and switches its port. -/
def State.openFlash (s : State) (tables : Vector FlashTable 2) : State :=
  s.modPower (fun p => { p with flash := tables.map FlashPort.opened })

/-- The bytes of an image's header. -/
def ImageSlot.headerBytes (i : ImageSlot) : List Nat := wordBytes i.header.toList

/-- LEN. -/
def ImageSlot.size (i : ImageSlot) : Nat := (vget i.header 2).toNat

/-- Is the slot valid (R460)? -/
def ImageSlot.valid (i : ImageSlot) : Bool :=
  let w (k : Nat) : Nat := (vget i.header k).toNat
  decide (w 0 = 0x4D494E47) && decide (w 1 = 1) && decide (w 2 ≠ 0) && decide (w 3 % 4 = 0) && decide (w 3 ≤ w 4) && decide (w 4 < w 3 + w 2)
    && decide (w 6 = 0) && decide (w 7 = crc32c ((headerBytes i).take 28)) && decide (w 3 + w 2 ≤ 0x200000) && decide (w 2 ≤ i.payload.length)

/-- Its digest. -/
def ImageSlot.digest (i : ImageSlot) : List Nat := sha256 (headerBytes i ++ (i.payload.take (size i)).map BitVec.toNat)

/-- APPROVED0 and APPROVED1 without the empty ones. -/
def State.approved (s : State) : List (List Nat) :=
  [s.dbytes DP.IMG_APPROVED0, s.dbytes DP.IMG_APPROVED1].filter (fun b => b.any (fun x => decide (x ≠ 0)))

/-- Is a slot accepted (R461)? -/
def State.accepts (s : State) (i : ImageSlot) : Bool :=
  ImageSlot.valid i && (s.approved.isEmpty || decide (ImageSlot.digest i ∈ s.approved))

/-- The image to run (R463): its slot and the dies that run it (bit 0 C0). -/
def State.chooseImage (s : State) (images : Vector ImageSlot 4) : Option (Nat × Nat) :=
  let sel := s.dnat DP.IMG_SLOT_SEL % 2
  let order := [sel, 1 - sel]
  let ok (c k : Nat) : Bool := s.accepts (vget images (2 * c + k))
  match order.find? (fun k => ok 0 k && ok 1 k && decide (ImageSlot.digest (vget images k) = ImageSlot.digest (vget images (2 + k)))) with
  | some k => some (k, 3)
  | none =>
    match order.find? (fun k => ok 0 k) with
    | some k => some (k, 1)
    | none => (order.find? (fun k => ok 1 k)).map (fun k => (k, 2))

/-- An image is copied to a die's SRAM. -/
def State.loadImage (s : State) (c : Nat) (i : ImageSlot) : State :=
  let s := { s with mem := Memory.writeBytes s.mem (c * 2 ^ 32 + (vget i.header 3).toNat) (i.payload.take (ImageSlot.size i)) }
  s.modPower (fun p => { p with digests := vset p.digests c (ImageSlot.digest i) })

/-- A die reads its two slots, SLOT_SEL first (R460): a header that holds brings the payload to SRAM at LOAD, whichever slot runs (assumption 75). -/
def State.readSlots (s : State) (c : Nat) (slots : List ImageSlot) : State :=
  slots.foldl (fun t i => if ImageSlot.valid i then
    { t with mem := Memory.writeBytes t.mem (c * 2 ^ 32 + (vget i.header 3).toNat) (i.payload.take (ImageSlot.size i)) } else t) s

/-- Step 12: both slots of each die are read, and the image chosen then stands in SRAM. -/
def State.bootImages (s : State) (images : Vector ImageSlot 4) : State :=
  let s := s.setB START.STSTAT_IMG_UNAPPR s.approved.isEmpty
  let sel := s.dnat DP.IMG_SLOT_SEL % 2
  let s := foldOver [0, 1] (fun c t => t.readSlots c [vget images (2 * c + sel), vget images (2 * c + (1 - sel))]) s
  match s.chooseImage images with
  | none => (s.failAttempt 3).modPower (fun p => { p with runs := 0 })
  | some (k, runs) =>
    let s := foldOver (bitsOf 2 runs) (fun c t => t.loadImage c (vget images (2 * c + k))) s
    ((s.set START.STSTAT_SLOT k).setB START.STSTAT_ALONE (decide (runs ≠ 3))).modPower (fun p => { p with runs := runs })

/-! ### Steps 13 and 14, and the start as a whole -/

/-- May a warm start skip the guard test (R450)? -/
def State.mayskipGuard (s : State) (sec : Nat) : Bool :=
  (match s.sys.stopSec with | some t => decide (sec ≤ t + 2) | none => false) && !s.sys.safetyFault && !s.flag SFN.SFSTAT_GT_DUE

/-- Results of MA6 and MA7 that ended in reset are entered; those that still run hold their slots (R597). -/
def State.resumeMaint (s : State) : State :=
  let take (s : State) (code : Nat) : State :=
    match s.freeSlot with
    | some k => s.takeSlot k ⟨code, 8, 0⟩ {}
    | none => s
  let done := s.keeper.maintDone
  let s := done.foldl (fun t (r : Nat × Nat) =>
    let t := take t r.1
    match t.keeperSlot r.1 with
    | some k => t.endActivity k r.2
    | none => t) (s.modKeeper (fun k => { k with maintDone := [] }))
  let s := if s.keeper.ma6.isEmpty then s else take s 6
  if s.keeper.capTest || decide (s.keeper.running = some 10) then take s 7 else s

/-- No command die has a role until the release. -/
def State.holdCommandDies (s : State) : State :=
  let s := foldOver [0, 1] (fun c t => (t.set (arbRole c) 0).set (CMD.CMDSTAT_ROLE c) 0) s
  let s := foldOver (List.range 4) (fun d t => (t.setB (DCMD.DCMDSTAT_ROLE_C0 d) false).setB (DCMD.DCMDSTAT_ROLE_C1 d) false) s
  (s.modArb (fun a => { a with wire := none, nShell := none })).modPower
    (fun p => { p with reset := false, hold := true, standby := false, stopStep := 0, restart := false, released := false, ms := 0
                       digests := Vector.replicate 2 (List.replicate 32 0) })

/-- A start finds the comparators that standby kept powered as at reset. -/
def State.dropStandby (s : State) : State :=
  { s with cmps := State.reset.cmps
           regs := s.regs.filter (fun (c : Nat × RegCell) => (List.range 4).all (fun d => decide (c.1 / 0x4000 ≠ CMP.CCFG d 0 / 0x4000))) }

/-- The steps of a start of a given kind. -/
def State.startSteps (s : State) (x : StartInput) (kind why sec : Nat) : State :=
  let s := (((s.dropStandby).recordStart kind why).restoreDefaults.loadClocks).lockPlls x kind
  if x.bistN || x.bistS then (if kind = 2 then s else s.failAttempt 4).mainReset
  else
    let ckpt := if kind = 0 then none else s.keeper.mram.ckpt
    let s := (s.testUnits x ckpt).openFlash x.flash
    let s := if kind = 0 then s.calibrate x else s
    let s := match ckpt with | some k => s.restoreCheckpoint k | none => s
    let s := foldOver [0, 1, 2] (fun m t => t.meterRestore m) s
    let s := (s.loadSafety).loadPersisted
    let s := foldOver (List.range 4) (fun d t => (t.refreshTrips d).refreshGrid d) s
    let s := s.refreshDict.resumeMaint
    if kind = 2 then
      foldOver (List.range 8) (fun i (t : State) => (t.set (TRIP.TGCTL_TG_MODE (i / 2) (i % 2)) 3).modTg (i / 2) (i % 2) (fun g => { g with modeFixed := true }))
        (s.modPower (fun p => { p with runs := 0 }))
    else
      let s := s.bootImages x.images
      if kind = 1 && s.mayskipGuard sec then s.setB START.STSTAT_GT_SKIPPED true else s.runGuardTest x.ack

/-- May a start begin (R443, R446)? -/
def State.mayStart (s : State) : Bool :=
  s.power.good && s.power.reset && !s.power.test && s.keeper.powered && s.flag KPR.KSTAT_PG_K

/-- START (R449): the keeper reads its regions (R556), then decides the kind. -/
def execStart (x : StartInput) (s : State) : Out :=
  .next (if !s.mayStart then s
    else
      let s := (s.readRegions.closeOpenAttempt).holdCommandDies
      let (kind, why) := s.startKind
      s.startSteps x kind why (s.get RTC.RTC_SEC_SEC))

/-! ### The release and the restart of one command die (R452, R464) -/

/-- The start period: CPN 0, in signature window 0 (R356, R452). -/
def State.startPeriod (s : State) (c : Nat) : State :=
  (s.setReg (CMD.DONE c) 0).modCmd c (fun x => { x with
    run := some ⟨[], [], [], []⟩, lastCpn := 0, win := some (s.sigWin c - 1), m := Vector.replicate 4 0xFFFFFFFFFFFFFFFF })

/-- COMMAND_DIE_RELEASE (R337, R452): `ms` from t0. -/
def execCommandDieRelease (ms : BitVec 32) (s : State) : Out :=
  .next (
    let runs := s.power.runs
    if !s.mainRuns || s.power.released || decide (s.get START.STSTAT_KIND = 2) || decide (runs = 0) then s
    else
      let shell := if runs = 2 then 1 else 0
      let s := foldOver (bitsOf 2 runs) (fun c t =>
        let r := if c = shell then 3 else 2
        (t.set (arbRole c) r).set (CMD.CMDSTAT_ROLE c) r) s
      let s := foldOver (List.range 4) (fun d t =>
        (t.setB (DCMD.DCMDSTAT_ROLE_C0 d) (decide (shell = 0))).setB (DCMD.DCMDSTAT_ROLE_C1 d) (decide (shell = 1))) s
      let s := s.modArb (fun a => { a with wire := some shell, nShell := some shell, timed := false })
      let s := foldOver (bitsOf 2 runs) (fun c t => t.startPeriod c) s
      (s.modPower (fun p => { p with released := true, ms := 0 })).set START.SMS_REL_MS (min 65535 ms.toNat))

/-- The registers that a command die's restart resets: its CMD, REGCTL and CLK blocks, the band tables apart (R464, section "What survives"). -/
def ownBlock (c : Fin 2) (a : Nat) : Bool :=
  let e := Die.command c
  decide (a / 0x4000 = CMD.CMDCFG c / 0x4000) || decide (a / 0x4000 = REGCTL.PAR_STAT e / 0x4000)
    || (decide (a / 0x4000 = CLK.LOCK_CFG e / 0x4000) && decide (a < CLK.BAND e 0))

/-- The persisted values of those blocks, and the counters of the die, its links' among them, from the last checkpoint (R451, R464). -/
def State.restoreOwn (s : State) (c : Fin 2) : State :=
  let e := Die.command c
  let own (f : RF) : Bool := ownBlock c f.addr || decide (f.addr / 0x4000 = ELINK.STAT e 0 / 0x4000)
  let s := s.persist.foldl (fun (t : State) (v : Nat × DictVal) =>
    let field := if v.1 / 256 = 0x6000 then cmdEntry c (v.1 % 256)
      else if v.1 = DP.CLKP_LOCK_WIN then some (CLK.LOCK_CFG_LOCK_WIN e)
      else if v.1 = DP.CLKP_LOCK_N then some (CLK.LOCK_CFG_LOCK_N e)
      else if v.1 = DP.CLKP_LOSS_M then some (CLK.LOCK_CFG_LOSS_M e)
      else none
    match field, v.2 with
    | some f, .num x => t.set f x.toNat
    | _, _ => t) s
  match s.keeper.mram.ckpt with
  | some k => (coldCounters.zip k.counters).foldl (fun (t : State) (x : RF × Nat) => if own x.1 then t.set x.1 x.2 else t) s
  | none => s

/-- Is a slot's image the one that the shell beside die `c` runs (R464)? -/
def State.runsAtShell (s : State) (c : Nat) (i : ImageSlot) : Bool :=
  ImageSlot.valid i && decide (s.arbShell = some (1 - c)) && decide (ImageSlot.digest i = vget s.power.digests (1 - c))

/-- COMMAND_DIE_RESTART_DONE (R372, R464): a removed die has restarted: SRAM cleared, its blocks as after a warm start with its counters from the
last checkpoint and its PLL locked from the band table (`hot`: junction temperature 60 degrees or above); its links' retired lanes stand.  It reads
its two flash slots, `slot`, up to the one whose digest is that of the image the shell runs; with none the join fails, and the die stays OFF
until its next restart ends; otherwise it requests to join.  A die that a lone boot holds OFF does not restart (R337, R463). -/
def execCommandDieRestartDone (c : Fin 2) (slot : Vector ImageSlot 2) (hot : Bool) (s : State) : Out :=
  .next (
    if !s.mainRuns ∨ s.get (arbRole c) ≠ 0 ∨ s.flag (arbLockout c) ∨ s.flag (arbJoinFail c) ∨ !s.power.runs.testBit c then s
    else
      let n := s.get (CMD.CMDCFG_CMD_N c)
      let s := { s with regs := s.regs.filter (fun (x : Nat × RegCell) => !ownBlock c x.1)
                        mem := Memory.clear s.mem (c * 2 ^ 32) 0x200000 }
      let s := foldOver (List.range 7) (fun k t =>
        (t.setB (ELINK.STAT_LANE_CODE (Die.command c) k) false).setB (ELINK.STAT_LANE_TIMEOUT (Die.command c) k) false) s
      let s := (s.restoreOwn c).pllLock (Die.command c) hot
      let s := (s.set (CMD.CMDCFG_CMD_N c) n).modCmd c (fun x => { joinFails := x.joinFails, inFrames := x.inFrames, faults := x.faults })
      let s := (s.set (CMD.CMDSTAT_ROLE c) 0).setB (CMD.CMDSTAT_HOME c) (decide (s.get ARB.ARBSTAT_HOME = (c : Nat)))
      let sel := s.dnat DP.IMG_SLOT_SEL % 2
      let slots := [vget slot sel, vget slot (1 - sel)]
      match slots.findIdx? (s.runsAtShell c) with
      | some i =>
        let s := (s.readSlots c (slots.take (i + 1))).modPower (fun p => { p with digests := vset p.digests c (vget p.digests (1 - c)) })
        ((s.set (arbRole c) 1).takeRole c 1).modCmd c (fun x => { x with joinWait := true })
      | none => ((s.readSlots c slots).joinFailed c).set (arbRole c) 0)

end Sys2Proof.Machine
end

