-- ==== Sys2Proof/Machine/Dispatch.lean ====
section
/-! DEFINITION.  The command table: one arm per command, each one direct call of its meaning. -/

namespace Sys2Proof.Machine

def exec (i : Instr) (s : State) : Host.Outcome State Fault Refusal :=
  match i with
  | .laneCodeError e k lane cut => Sys2Proof.Machine.execLaneCodeError e k lane cut s
  | .laneTimeout e k lane cut => Sys2Proof.Machine.execLaneTimeout e k lane cut s
  | .driveWriteArrival d src off w => Sys2Proof.Machine.execDriveWriteArrival d src off w s
  | .nWriteFromCommandDie c off w => Sys2Proof.Machine.execNWriteFromCommandDie c off w s
  | .coreAccessFault c k a write size => Sys2Proof.Machine.execCoreAccessFault c k a write size s
  | .registerWrite by_ a w => Sys2Proof.Machine.execRegisterWrite by_ a w s
  | .rwpRead c a clr => Sys2Proof.Machine.execRwpRead c a clr s
  | .ma3Scrub a bits last clr => Sys2Proof.Machine.execMa3Scrub a bits last clr s
  | .rsRegisterWrite b off w => Sys2Proof.Machine.execRsRegisterWrite b off w s
  | .rsWriteComplete b => Sys2Proof.Machine.execRsWriteComplete b s
  | .rsStaleTimeout b => Sys2Proof.Machine.execRsStaleTimeout b s
  | .rsWriteLost b => Sys2Proof.Machine.execRsWriteLost b s
  | .rsLowWordRead => Sys2Proof.Machine.execRsLowWordRead s
  | .pllLock e hot => Sys2Proof.Machine.execPllLock e hot s
  | .pllLossOfLock e => Sys2Proof.Machine.execPllLossOfLock e s
  | .pllHoldover e => Sys2Proof.Machine.execPllHoldover e s
  | .bandSearchComplete e band tj covers => Sys2Proof.Machine.execBandSearchComplete e band tj covers s
  | .hopEnSet d => Sys2Proof.Machine.execHopEnSet d s
  | .hopEnClear d => Sys2Proof.Machine.execHopEnClear d s
  | .hopBoundary d => Sys2Proof.Machine.execHopBoundary d s
  | .hopSettleEnd e => Sys2Proof.Machine.execHopSettleEnd e s
  | .ckmonLoss k => Sys2Proof.Machine.execCkmonLoss k s
  | .ckmonWindowEnd meas => Sys2Proof.Machine.execCkmonWindowEnd meas s
  | .rtcTrim => Sys2Proof.Machine.execRtcTrim s
  | .rtcXtalFail => Sys2Proof.Machine.execRtcXtalFail s
  | .rtcSync => Sys2Proof.Machine.execRtcSync s
  | .rtcSyncApply sec => Sys2Proof.Machine.execRtcSyncApply sec s
  | .pwmGroupEnable d k => Sys2Proof.Machine.execPwmGroupEnable d k s
  | .pwmGroupStart d k => Sys2Proof.Machine.execPwmGroupStart d k s
  | .pwmGroupDisable d k => Sys2Proof.Machine.execPwmGroupDisable d k s
  | .pwmGroupStop d k => Sys2Proof.Machine.execPwmGroupStop d k s
  | .timeEventArrival d => Sys2Proof.Machine.execTimeEventArrival d s
  | .controlPeriodBoundary d k => Sys2Proof.Machine.execControlPeriodBoundary d k s
  | .writePointDelivery d k => Sys2Proof.Machine.execWritePointDelivery d k s
  | .pwmCommit d k => Sys2Proof.Machine.execPwmCommit d k s
  | .vpTriggerEdge d k => Sys2Proof.Machine.execVpTriggerEdge d k s
  | .vpTimeout d k => Sys2Proof.Machine.execVpTimeout d k s
  | .commandEdge d j => Sys2Proof.Machine.execCommandEdge d j s
  | .deadTimeEnd d j => Sys2Proof.Machine.execDeadTimeEnd d j s
  | .pmodeWrite d j m => Sys2Proof.Machine.execPmodeWrite d j m s
  | .dlyMonUpdate d mon => Sys2Proof.Machine.execDlyMonUpdate d mon s
  | .driveDieHalt d => Sys2Proof.Machine.execDriveDieHalt d s
  | .driveDieHaltRelease d => Sys2Proof.Machine.execDriveDieHaltRelease d s
  | .haltGuardExpire d => Sys2Proof.Machine.execHaltGuardExpire d s
  | .stoBranchAssert d => Sys2Proof.Machine.execStoBranchAssert d s
  | .stoBranchRelease d => Sys2Proof.Machine.execStoBranchRelease d s
  | .fltFall d j => Sys2Proof.Machine.execFltFall d j s
  | .fltPulseEnd d j width => Sys2Proof.Machine.execFltPulseEnd d j width s
  | .fltCode5 d j => Sys2Proof.Machine.execFltCode5 d j s
  | .fltCode6 d j => Sys2Proof.Machine.execFltCode6 d j s
  | .fltEarly d j => Sys2Proof.Machine.execFltEarly d j s
  | .fltClr d j => Sys2Proof.Machine.execFltClr d j s
  | .fltUseWrite d j use => Sys2Proof.Machine.execFltUseWrite d j use s
  | .tripGroupTrip d k => Sys2Proof.Machine.execTripGroupTrip d k s
  | .ascShortSideOn d j => Sys2Proof.Machine.execAscShortSideOn d j s
  | .cuffExpire d ix => Sys2Proof.Machine.execCuffExpire d ix s
  | .tripInputActive d x level => Sys2Proof.Machine.execTripInputActive d x level s
  | .membersWrite d m => Sys2Proof.Machine.execMembersWrite d m s
  | .srcMaskWrite d k w => Sys2Proof.Machine.execSrcMaskWrite d k w s
  | .tgModeWrite d k m => Sys2Proof.Machine.execTgModeWrite d k m s
  | .enPinRise d x lowTicks => Sys2Proof.Machine.execEnPinRise d x lowTicks s
  | .chopperSwitch d j => Sys2Proof.Machine.execChopperSwitch d j s
  | .chopMinTimeEnd d j => Sys2Proof.Machine.execChopMinTimeEnd d j s
  | .chopEnWrite d j en => Sys2Proof.Machine.execChopEnWrite d j en s
  | .apBootUv d => Sys2Proof.Machine.execApBootUv d s
  | .bootOkRise d => Sys2Proof.Machine.execBootOkRise d s
  | .apBootUvClear d => Sys2Proof.Machine.execApBootUvClear d s
  | .apRefreshStart d => Sys2Proof.Machine.execApRefreshStart d s
  | .apRefreshLowOn d => Sys2Proof.Machine.execApRefreshLowOn d s
  | .apRefreshEnd d => Sys2Proof.Machine.execApRefreshEnd d s
  | .adcRegularTrigger d k src => Sys2Proof.Machine.execAdcRegularTrigger d k src s
  | .adcInjectedTrigger d k src => Sys2Proof.Machine.execAdcInjectedTrigger d k src s
  | .swReg d k => Sys2Proof.Machine.execSwReg d k s
  | .swInj d k => Sys2Proof.Machine.execSwInj d k s
  | .adcConversionComplete d k code ovr => Sys2Proof.Machine.execAdcConversionComplete d k code ovr s
  | .adcConversionTimeout d k => Sys2Proof.Machine.execAdcConversionTimeout d k s
  | .adcDisable d k => Sys2Proof.Machine.execAdcDisable d k s
  | .cmpOutChange d ix vin => Sys2Proof.Machine.execCmpOutChange d ix vin s
  | .cmpIrqEvent d ix => Sys2Proof.Machine.execCmpIrqEvent d ix s
  | .cmpEnable d ix => Sys2Proof.Machine.execCmpEnable d ix s
  | .cmpSettlingEnd d ix vin => Sys2Proof.Machine.execCmpSettlingEnd d ix vin s
  | .cmpDisable d ix => Sys2Proof.Machine.execCmpDisable d ix s
  | .cmpLatWrite d ix => Sys2Proof.Machine.execCmpLatWrite d ix s
  | .cmpChkWrite d ix v free => Sys2Proof.Machine.execCmpChkWrite d ix v free s
  | .piEnable d p => Sys2Proof.Machine.execPiEnable d p s
  | .encoderEdge d p a b => Sys2Proof.Machine.execEncoderEdge d p a b s
  | .encoderZEdge d p => Sys2Proof.Machine.execEncoderZEdge d p s
  | .cleEnable d c => Sys2Proof.Machine.execCleEnable d c s
  | .cleDisable d c => Sys2Proof.Machine.execCleDisable d c s
  | .cleProgramStart d c => Sys2Proof.Machine.execCleProgramStart d c s
  | .cleNop d c => Sys2Proof.Machine.execCleNop d c s
  | .cleEnd d c => Sys2Proof.Machine.execCleEnd d c s
  | .cleLd d c => Sys2Proof.Machine.execCleLd d c s
  | .cleLdx d c => Sys2Proof.Machine.execCleLdx d c s
  | .cleSt d c => Sys2Proof.Machine.execCleSt d c s
  | .cleStx d c => Sys2Proof.Machine.execCleStx d c s
  | .cleLdi d c => Sys2Proof.Machine.execCleLdi d c s
  | .cleLdc d c => Sys2Proof.Machine.execCleLdc d c s
  | .cleExt d c => Sys2Proof.Machine.execCleExt d c s
  | .cleAdd d c => Sys2Proof.Machine.execCleAdd d c s
  | .cleSub d c => Sys2Proof.Machine.execCleSub d c s
  | .cleAbs d c => Sys2Proof.Machine.execCleAbs d c s
  | .cleMin d c => Sys2Proof.Machine.execCleMin d c s
  | .cleMax d c => Sys2Proof.Machine.execCleMax d c s
  | .cleAsh d c => Sys2Proof.Machine.execCleAsh d c s
  | .cleAnd d c => Sys2Proof.Machine.execCleAnd d c s
  | .cleSel d c => Sys2Proof.Machine.execCleSel d c s
  | .cleMul d c => Sys2Proof.Machine.execCleMul d c s
  | .cleMulc d c => Sys2Proof.Machine.execCleMulc d c s
  | .cleMac d c => Sys2Proof.Machine.execCleMac d c s
  | .cleMacc d c => Sys2Proof.Machine.execCleMacc d c s
  | .cleLda d c => Sys2Proof.Machine.execCleLda d c s
  | .cleMova d c => Sys2Proof.Machine.execCleMova d c s
  | .cleSincos d c => Sys2Proof.Machine.execCleSincos d c s
  | .clePark d c => Sys2Proof.Machine.execClePark d c s
  | .cleIpark d c => Sys2Proof.Machine.execCleIpark d c s
  | .cleLut d c => Sys2Proof.Machine.execCleLut d c s
  | .cleRcp d c => Sys2Proof.Machine.execCleRcp d c s
  | .cleBr d c => Sys2Proof.Machine.execCleBr d c s
  | .cleLoop d c => Sys2Proof.Machine.execCleLoop d c s
  | .cleIllegalOp d c => Sys2Proof.Machine.execCleIllegalOp d c s
  | .cleOverrunStop d c => Sys2Proof.Machine.execCleOverrunStop d c s
  | .cleEccCorrect d c => Sys2Proof.Machine.execCleEccCorrect d c s
  | .cleEccUncorrectable d c m a => Sys2Proof.Machine.execCleEccUncorrectable d c m a s
  | .cleMemoryWrite d c m w x => Sys2Proof.Machine.execCleMemoryWrite d c m w x s
  | .cwCommit d c => Sys2Proof.Machine.execCwCommit d c s
  | .gridEnable d => Sys2Proof.Machine.execGridEnable d s
  | .gridDisable d => Sys2Proof.Machine.execGridDisable d s
  | .gsuCoastTimeout d => Sys2Proof.Machine.execGsuCoastTimeout d s
  | .rtEvaluation d => Sys2Proof.Machine.execRtEvaluation d s
  | .armWrite d v => Sys2Proof.Machine.execArmWrite d v s
  | .curveWrite d c pt level t => Sys2Proof.Machine.execCurveWrite d c pt level t s
  | .gridZeroCrossing d => Sys2Proof.Machine.execGridZeroCrossing d s
  | .rocofEvaluation d => Sys2Proof.Machine.execRocofEvaluation d s
  | .voteSend d => Sys2Proof.Machine.execVoteSend d s
  | .voteOpenDelay d => Sys2Proof.Machine.execVoteOpenDelay d s
  | .gconUpdate => Sys2Proof.Machine.execGconUpdate s
  | .voteMissingTimeout d => Sys2Proof.Machine.execVoteMissingTimeout d s
  | .gfbChange which level => Sys2Proof.Machine.execGfbChange which level s
  | .gconWeld which => Sys2Proof.Machine.execGconWeld which s
  | .rcSecond d => Sys2Proof.Machine.execRcSecond d s
  | .connect d => Sys2Proof.Machine.execConnect d s
  | .disconnect d => Sys2Proof.Machine.execDisconnect d s
  | .meterSample m ttime hop arrived => Sys2Proof.Machine.execMeterSample m ttime hop arrived s
  | .meterCycleFlit zero => Sys2Proof.Machine.execMeterCycleFlit zero s
  | .meterWindowEnd m => Sys2Proof.Machine.execMeterWindowEnd m s
  | .fundVoidTimeout => Sys2Proof.Machine.execFundVoidTimeout s
  | .meterSrcLost m k => Sys2Proof.Machine.execMeterSrcLost m k s
  | .meterEnable m => Sys2Proof.Machine.execMeterEnable m s
  | .meterDisable m => Sys2Proof.Machine.execMeterDisable m s
  | .meterCommit m => Sys2Proof.Machine.execMeterCommit m s
  | .commandPeriodTick c d => Sys2Proof.Machine.execCommandPeriodTick c d s
  | .snapshotClose c din => Sys2Proof.Machine.execSnapshotClose c din s
  | .driveRecordArrival c d tick words => Sys2Proof.Machine.execDriveRecordArrival c d tick words s
  | .eventFlitArrival c words => Sys2Proof.Machine.execEventFlitArrival c words s
  | .inputFrameArrival c => Sys2Proof.Machine.execInputFrameArrival c s
  | .descriptorReceived c => Sys2Proof.Machine.execDescriptorReceived c s
  | .descriptorWaitTimeout c => Sys2Proof.Machine.execDescriptorWaitTimeout c s
  | .fetchComplete c => Sys2Proof.Machine.execFetchComplete c s
  | .doneWrite c core => Sys2Proof.Machine.execDoneWrite c core s
  | .healthChange c eccUe wdog ce => Sys2Proof.Machine.execHealthChange c eccUe wdog ce s
  | .heartbeatReceived c late => Sys2Proof.Machine.execHeartbeatReceived c late s
  | .heartbeatTimeout c => Sys2Proof.Machine.execHeartbeatTimeout c s
  | .roleWireChange d => Sys2Proof.Machine.execRoleWireChange d s
  | .verdictReceived c => Sys2Proof.Machine.execVerdictReceived c s
  | .failoverAtN => Sys2Proof.Machine.execFailoverAtN s
  | .claim c len => Sys2Proof.Machine.execClaim c len s
  | .grant c => Sys2Proof.Machine.execGrant c s
  | .claimTimeout => Sys2Proof.Machine.execClaimTimeout s
  | .joinReplayComplete c => Sys2Proof.Machine.execJoinReplayComplete c s
  | .joinFail c => Sys2Proof.Machine.execJoinFail c s
  | .commandDieRestartDone c slot hot => Sys2Proof.Machine.execCommandDieRestartDone c slot hot s
  | .holdoffExpire c => Sys2Proof.Machine.execHoldoffExpire c s
  | .swap => Sys2Proof.Machine.execSwap s
  | .swapTimeout => Sys2Proof.Machine.execSwapTimeout s
  | .debugAttach c => Sys2Proof.Machine.execDebugAttach c s
  | .shellDebugHalt c counts => Sys2Proof.Machine.execShellDebugHalt c counts s
  | .debuggerWrite c a w => Sys2Proof.Machine.execDebuggerWrite c a w s
  | .shellDebugResume c => Sys2Proof.Machine.execShellDebugResume c s
  | .safetyCycleA bad => Sys2Proof.Machine.execSafetyCycleA bad s
  | .safetyCycleB bad => Sys2Proof.Machine.execSafetyCycleB bad s
  | .xdisc => Sys2Proof.Machine.execXdisc s
  | .ss1Standstill => Sys2Proof.Machine.execSs1Standstill s
  | .ss1TmaxExpire => Sys2Proof.Machine.execSs1TmaxExpire s
  | .discVTimeout k => Sys2Proof.Machine.execDiscVTimeout k s
  | .degTimeout => Sys2Proof.Machine.execDegTimeout s
  | .restartAck src => Sys2Proof.Machine.execRestartAck src s
  | .piRecordSend d => Sys2Proof.Machine.execPiRecordSend d s
  | .piRecordReceived p angle los seq crcOk => Sys2Proof.Machine.execPiRecordReceived p angle los seq crcOk s
  | .piRecordTimeout p => Sys2Proof.Machine.execPiRecordTimeout p s
  | .siDisc n => Sys2Proof.Machine.execSiDisc n s
  | .testPulse tp pins => Sys2Proof.Machine.execTestPulse tp pins s
  | .soTestPulse n b => Sys2Proof.Machine.execSoTestPulse n b s
  | .soFlt n => Sys2Proof.Machine.execSoFlt n s
  | .scmpWindowViolation n => Sys2Proof.Machine.execScmpWindowViolation n s
  | .gtDue => Sys2Proof.Machine.execGtDue s
  | .guardTest ack => Sys2Proof.Machine.execGuardTest ack s
  | .safetyLogin ctx pw => Sys2Proof.Machine.execSafetyLogin ctx pw s
  | .safetyLogout => Sys2Proof.Machine.execSafetyLogout s
  | .safetySessionTimeout => Sys2Proof.Machine.execSafetySessionTimeout s
  | .newPassword pw => Sys2Proof.Machine.execNewPassword pw s
  | .apply v => Sys2Proof.Machine.execApply v s
  | .safetyFrameReceived c payload => Sys2Proof.Machine.execSafetyFrameReceived c payload s
  | .safetyConnTimeout c => Sys2Proof.Machine.execSafetyConnTimeout c s
  | .safetyFrameSend c pass => Sys2Proof.Machine.execSafetyFrameSend c pass s
  | .sStatePublish => Sys2Proof.Machine.execSStatePublish s
  | .mbxStoReq c v => Sys2Proof.Machine.execMbxStoReq c v s
  | .mbxSs1Req c v => Sys2Proof.Machine.execMbxSs1Req c v s
  | .mbxReset c => Sys2Proof.Machine.execMbxReset c s
  | .mainDomainsGood => Sys2Proof.Machine.execMainDomainsGood s
  | .mainSupplyFall vdd18 => Sys2Proof.Machine.execMainSupplyFall vdd18 s
  | .resetNLow => Sys2Proof.Machine.execResetNLow s
  | .start x => Sys2Proof.Machine.execStart x s
  | .commandDieRelease ms => Sys2Proof.Machine.execCommandDieRelease ms s
  | .bootOk => Sys2Proof.Machine.execBootOk s
  | .bootTmoExpire => Sys2Proof.Machine.execBootTmoExpire s
  | .stop => Sys2Proof.Machine.execStop s
  | .restart v => Sys2Proof.Machine.execRestart v s
  | .controlledStopCommit => Sys2Proof.Machine.execControlledStopCommit s
  | .controlledStopComplete => Sys2Proof.Machine.execControlledStopComplete s
  | .checkpointTimer => Sys2Proof.Machine.execCheckpointTimer s
  | .ethFrameReceived p bytes good ts => Sys2Proof.Machine.execEthFrameReceived p bytes good ts s
  | .ethTransmitStart p ts => Sys2Proof.Machine.execEthTransmitStart p ts s
  | .ethTransmitEnd p => Sys2Proof.Machine.execEthTransmitEnd p s
  | .ringCheckSend => Sys2Proof.Machine.execRingCheckSend s
  | .portLinkDown p => Sys2Proof.Machine.execPortLinkDown p s
  | .portLinkUp p => Sys2Proof.Machine.execPortLinkUp p s
  | .gateIntervalEnd p => Sys2Proof.Machine.execGateIntervalEnd p s
  | .gateApply p => Sys2Proof.Machine.execGateApply p s
  | .gateListSwitch p => Sys2Proof.Machine.execGateListSwitch p s
  | .ptpMessageReceived p m ts => Sys2Proof.Machine.execPtpMessageReceived p m ts s
  | .domainTimeout x announce => Sys2Proof.Machine.execDomainTimeout x announce s
  | .domainReturn => Sys2Proof.Machine.execDomainReturn s
  | .ltToS => Sys2Proof.Machine.execLtToS s
  | .leapSecond => Sys2Proof.Machine.execLeapSecond s
  | .tuEnable u => Sys2Proof.Machine.execTuEnable u s
  | .tuTargetWrite u w => Sys2Proof.Machine.execTuTargetWrite u w s
  | .tuFire u => Sys2Proof.Machine.execTuFire u s
  | .tioPulseEnd u => Sys2Proof.Machine.execTioPulseEnd u s
  | .tuCapture u rising => Sys2Proof.Machine.execTuCapture u rising s
  | .canFrameReceived n f => Sys2Proof.Machine.execCanFrameReceived n f s
  | .canTransmitEnd n how => Sys2Proof.Machine.execCanTransmitEnd n how s
  | .canBusOff n => Sys2Proof.Machine.execCanBusOff n s
  | .recover n => Sys2Proof.Machine.execRecover n s
  | .canRecoveryComplete n => Sys2Proof.Machine.execCanRecoveryComplete n s
  | .dictOpen r => Sys2Proof.Machine.execDictOpen r s
  | .dictClose r => Sys2Proof.Machine.execDictClose r s
  | .dictNop r => Sys2Proof.Machine.execDictNop r s
  | .dictRead r => Sys2Proof.Machine.execDictRead r s
  | .dictSegUp r => Sys2Proof.Machine.execDictSegUp r s
  | .dictWrite r => Sys2Proof.Machine.execDictWrite r s
  | .dictSegDn r => Sys2Proof.Machine.execDictSegDn r s
  | .dictAbort r word => Sys2Proof.Machine.execDictAbort r word s
  | .persistTimeout app => Sys2Proof.Machine.execPersistTimeout app s
  | .dictLogin r => Sys2Proof.Machine.execDictLogin r s
  | .dictLogout r => Sys2Proof.Machine.execDictLogout r s
  | .opPassword r => Sys2Proof.Machine.execOpPassword r s
  | .mntPassword r => Sys2Proof.Machine.execMntPassword r s
  | .sessionTimeout f => Sys2Proof.Machine.execSessionTimeout f s
  | .xferTimeout f => Sys2Proof.Machine.execXferTimeout f s
  | .restore r => Sys2Proof.Machine.execRestore r s
  | .processTxSlot f => Sys2Proof.Machine.execProcessTxSlot f s
  | .txRel w m => Sys2Proof.Machine.execTxRel w m s
  | .processRxLost f => Sys2Proof.Machine.execProcessRxLost f s
  | .declCommit => Sys2Proof.Machine.execDeclCommit s
  | .respGo => Sys2Proof.Machine.execRespGo s
  | .appTimeout f tid => Sys2Proof.Machine.execAppTimeout f tid s
  | .vkinChange on => Sys2Proof.Machine.execVkinChange on s
  | .keeperPowerOn => Sys2Proof.Machine.execKeeperPowerOn s
  | .keeperBrownOut => Sys2Proof.Machine.execKeeperBrownOut s
  | .keeperEvaluation vkin vstq vstl => Sys2Proof.Machine.execKeeperEvaluation vkin vstq vstl s
  | .leanVocMeasure voc => Sys2Proof.Machine.execLeanVocMeasure voc s
  | .richMpptStep charge voc => Sys2Proof.Machine.execRichMpptStep charge voc s
  | .harvesterIdleCheck present => Sys2Proof.Machine.execHarvesterIdleCheck present s
  | .burstRequest c => Sys2Proof.Machine.execBurstRequest c s
  | .burstStart => Sys2Proof.Machine.execBurstStart s
  | .burstComplete => Sys2Proof.Machine.execBurstComplete s
  | .wakeRequest d ix => Sys2Proof.Machine.execWakeRequest d ix s
  | .wakeAlarm => Sys2Proof.Machine.execWakeAlarm s
  | .wakePulseEnd => Sys2Proof.Machine.execWakePulseEnd s
  | .rtcSecond temps => Sys2Proof.Machine.execRtcSecond temps s
  | .dclHistSecond res => Sys2Proof.Machine.execDclHistSecond res s
  | .lifetimeMerge => Sys2Proof.Machine.execLifetimeMerge s
  | .parkedMerge => Sys2Proof.Machine.execParkedMerge s
  | .mergeCommitReport => Sys2Proof.Machine.execMergeCommitReport s
  | .crcStart u => Sys2Proof.Machine.execCrcStart u s
  | .crcStop u => Sys2Proof.Machine.execCrcStop u s
  | .crcResume u => Sys2Proof.Machine.execCrcResume u s
  | .crcData u w => Sys2Proof.Machine.execCrcData u w s
  | .crcDataH u w => Sys2Proof.Machine.execCrcDataH u w s
  | .crcDataB u w => Sys2Proof.Machine.execCrcDataB u w s
  | .crcValWrite u w => Sys2Proof.Machine.execCrcValWrite u w s
  | .feed u b => Sys2Proof.Machine.execFeed u b s
  | .scanReadReturn u fault => Sys2Proof.Machine.execScanReadReturn u fault s
  | .crcDone u => Sys2Proof.Machine.execCrcDone u s
  | .maintRequest unit die code => Sys2Proof.Machine.execMaintRequest unit die code s
  | .cancel k => Sys2Proof.Machine.execCancel k s
  | .ma0CheckEnd k out => Sys2Proof.Machine.execMa0CheckEnd k out s
  | .ma1CalibrationEnd k found => Sys2Proof.Machine.execMa1CalibrationEnd k found s
  | .ma2CoreCalibrationEnd k found => Sys2Proof.Machine.execMa2CoreCalibrationEnd k found s
  | .ma4SearchEnd k band tj covers => Sys2Proof.Machine.execMa4SearchEnd k band tj covers s
  | .ma4BandApply d => Sys2Proof.Machine.execMa4BandApply d s
  | .ma5RetrainEnd k ok => Sys2Proof.Machine.execMa5RetrainEnd k ok s
  | .ma7End dv t => Sys2Proof.Machine.execMa7End dv t s
  | .driveDieRetire d => Sys2Proof.Machine.execDriveDieRetire d s
  | .ttimeLoRead d => Sys2Proof.Machine.execTtimeLoRead d s
  | .accLoRead m a => Sys2Proof.Machine.execAccLoRead m a s
  | .ltNsRead => Sys2Proof.Machine.execLtNsRead s
  | .rsCopyRefresh b => Sys2Proof.Machine.execRsCopyRefresh b s
  | .safetyInputSample p => Sys2Proof.Machine.execSafetyInputSample p s
  | .nLinkSilent => Sys2Proof.Machine.execNLinkSilent s
  | .ptpDelayReqSend p => Sys2Proof.Machine.execPtpDelayReqSend p s
  | .testEnChange level => Sys2Proof.Machine.execTestEnChange level s
  | .driveDieClockStop d => Sys2Proof.Machine.execDriveDieClockStop d s
  | .driveDieClockResume d => Sys2Proof.Machine.execDriveDieClockResume d s

end Sys2Proof.Machine
end

