-- ==== Sys2Proof/Machine/Tick.lean ====
section
/-! DEFINITION.  What passes between commands: one tick of the clocks.  The block has clocks and the command table has no row for a tick, so
this is what a step does while no command waits (assumption 2).  Everything else that time brings has a command of its own. -/

namespace Sys2Proof.Machine

/-- The tick of a running group's counter (section "Carrier modes", R89).  It never crosses a boundary position: the boundary itself is
CONTROL_PERIOD_BOUNDARY, a variable period's end VP_TRIGGER_EDGE or VP_TIMEOUT. -/
def State.countTick (s : State) (d k : Nat) : State :=
  let g := s.grp d k
  let c := s.get (PWM.CNT_COUNT d k)
  if !s.grpRuns d k then s
  else if g.mode = 1 then
    let h := g.carrierPer / 2
    if s.flag (PWM.CNT_DIR d k) then (if c ≤ 1 then s else s.set (PWM.CNT_COUNT d k) (c - 1))
    else if c + 1 < h then s.set (PWM.CNT_COUNT d k) (c + 1)
    else if g.dbl then s
    else (s.set (PWM.CNT_COUNT d k) h).setB (PWM.CNT_DIR d k) true
  else if c + 1 < g.carrierPer then s.set (PWM.CNT_COUNT d k) (c + 1)
  else s

/-- A turn-on that waits comes one tick nearer. -/
def TurnOn.tick (w : TurnOn) : TurnOn := { w with ticks := w.ticks - 1 }

/-- One tick of a port of a die that runs: the ticks since its outputs changed (R169), the turn-ons that wait (R110, R142), a refresh and
the count to the next one (R176). -/
def Port.tick (p : Port) (refW : Nat) : Port :=
  { p with
    sinceH := min (p.sinceH + 1) 0xFFFFF, sinceL := min (p.sinceL + 1) 0xFFFFF
    pendOn := p.pendOn.map TurnOn.tick, ascWait := p.ascWait.map TurnOn.tick, refWait := p.refWait - 1
    refCount := if p.gl ∧ refW ≤ p.sinceL + 1 then 0 else min (p.refCount + 1) 0xFFFFFF }

/-- One tick of the cuffs of a die (R146): those whose edge lies in this tick begin anew, the others run on; where a source is blanked or seen
again, SRC_ACT follows. -/
def State.cuffTick (s : State) (d : Nat) : State :=
  let x := vget s.drives d
  let now := Vector.ofFn (fun i : Fin 16 => if x.cuffNext.testBit i then s.cuffTicks d i else vget x.cuffs i - 1)
  let t := s.modDrive d (fun x => { x with cuffs := now, cuffNext := 0 })
  if x.cuffNext ≠ 0 ∨ (List.range 16).any (fun i => decide (vget x.cuffs i = 1)) then t.refreshTrips d else t

/-- The position interfaces of a die put the next bits of their excitation streams on their pins (R213): one in each 8 ticks, 50 MHz at the
nominal 400 MHz (DESIGN CHOICE, assumption 73: the spec does not tie the stream's rate to TTIME). -/
def State.excitationTick (s : State) (d : Nat) : State :=
  if s.ttime d % 8 = 0 then foldOver [0, 1] (fun p t => t.excite d p) s else s

/-- One tick of a drive die: TTIME counts while its clock runs (R156), and the cuffs run (R146); the counters and the ports advance while no
debug halt freezes them either (R119), and a trip group with an active mapped source trips (R137, R154). -/
def State.driveTick (s : State) (d : Nat) : State :=
  let s := if (vget s.drives d).clockStopped then s else ((s.setTtime d (s.ttime d + 1)).cuffTick d).excitationTick d
  let s := if s.dieRuns d then
      let w := s.refW d
      foldOver (List.range 7) (fun j t => t.modPort d j (fun p => p.tick w)) (foldOver (List.range 4) (fun k t => t.countTick d k) s)
    else s
  s.tripDie d

/-- One tick (R156, R482): of every drive die, and of the local time of N, where a command-route write does not wait for a die that has gone
OFF (R521). -/
def State.tick (s : State) : State :=
  if s.mainRuns then (foldOver (List.range 4) (fun d t => t.driveTick d) s).ltTick.answerRouted else s

end Sys2Proof.Machine
end

