-- ==== Sys2Proof/Safety.lean ====
section
/-!
DEFINITION. Sys2Proof/Safety.lean: the words that statements about the machine use: a command that completes, the canonical form of
what the state holds, and what a command leaves as it was.
-/

namespace Sys2Proof.Machine

/-- A command completes in a next state with a property. -/
def Completes (o : Out) (P : State → Prop) : Prop := ∃ t : State, o = .next t ∧ P t

/-- A property of every next state that a command answers; it says nothing of a fault or a refusal. -/
def OnNext (o : Out) (P : State → Prop) : Prop := ∀ t : State, o = .next t → P t

/-- The canonical form of the stores: register keys rise strictly and no register is listed at its reset content with correct parity; the
copies of RS registers are in key order; the memory windows list no zero byte and their addresses rise strictly. -/
def State.canonical (s : State) : Prop :=
  Assoc.sorted s.regs = true ∧ (∀ c ∈ s.regs, c.2 ≠ ⟨resetWord c.1, parityOf (resetWord c.1)⟩) ∧
    Assoc.sorted s.copies = true ∧ Memory.wf s.mem = true

/-- The parts of the state, one for each field of State but the queue: all registers together, the copies of RS registers, the memory windows,
the messages sent, and each kind of unit with what it holds beyond its registers. -/
inductive Part where
  | regs
  | copies
  | mem
  | out
  | freeCnt
  | linkEnds
  | rsBlocks
  | plls
  | hops
  | groups
  | ports
  | tgs
  | drives
  | adcs
  | cmps
  | pis
  | cles
  | life
  | sys
  | power
  | keeper
  | grids
  | gridS
  | cycles
  | crcs
  | acts
  | maintSeq
  | meters
  | vars
  | cmds
  | arb
  | safety
  | net
  | flows
  | dict
  | persist
deriving DecidableEq, Repr

/-- A part is the same in two states. -/
def Part.Same : Part → State → State → Prop
  | .regs, s, t => t.regs = s.regs
  | .copies, s, t => t.copies = s.copies
  | .mem, s, t => t.mem = s.mem
  | .out, s, t => t.out = s.out
  | .freeCnt, s, t => t.freeCnt = s.freeCnt
  | .linkEnds, s, t => t.linkEnds = s.linkEnds
  | .rsBlocks, s, t => t.rsBlocks = s.rsBlocks
  | .plls, s, t => t.plls = s.plls
  | .hops, s, t => t.hops = s.hops
  | .groups, s, t => t.groups = s.groups
  | .ports, s, t => t.ports = s.ports
  | .tgs, s, t => t.tgs = s.tgs
  | .drives, s, t => t.drives = s.drives
  | .adcs, s, t => t.adcs = s.adcs
  | .cmps, s, t => t.cmps = s.cmps
  | .pis, s, t => t.pis = s.pis
  | .cles, s, t => t.cles = s.cles
  | .life, s, t => t.life = s.life
  | .sys, s, t => t.sys = s.sys
  | .power, s, t => t.power = s.power
  | .keeper, s, t => t.keeper = s.keeper
  | .grids, s, t => t.grids = s.grids
  | .gridS, s, t => t.gridS = s.gridS
  | .cycles, s, t => t.cycles = s.cycles
  | .crcs, s, t => t.crcs = s.crcs
  | .acts, s, t => t.acts = s.acts
  | .maintSeq, s, t => t.maintSeq = s.maintSeq
  | .meters, s, t => t.meters = s.meters
  | .vars, s, t => t.vars = s.vars
  | .cmds, s, t => t.cmds = s.cmds
  | .arb, s, t => t.arb = s.arb
  | .safety, s, t => t.safety = s.safety
  | .net, s, t => t.net = s.net
  | .flows, s, t => t.flows = s.flows
  | .dict, s, t => t.dict = s.dict
  | .persist, s, t => t.persist = s.persist

/-- From `s` to `t` the queue of waiting commands and every part that `l` does not name are unchanged. -/
def SameBut (l : List Part) (s t : State) : Prop := t.pending = s.pending ∧ ∀ p : Part, p ∉ l → p.Same s t

/-- Every register other than those at the keys `l` holds what it held, parity bits included. -/
def RegsBut (l : List Nat) (s t : State) : Prop := ∀ a : Nat, a ∉ l → t.cell a = s.cell a

/-- Every byte of the memory windows outside `n` bytes from address `a` reads as before. -/
def MemBut (a n : Nat) (s t : State) : Prop := ∀ x : Nat, (x < a ∨ a + n ≤ x) → Memory.read t.mem x = Memory.read s.mem x

end Sys2Proof.Machine
end

