-- ==== Sys2Proof/Certificates/Slice0/Obligations.lean ====
section
/-!
DEFINITION. Sys2Proof/Certificates/Slice0/Obligations.lean: the statements for the provers.  A clause `Completes (exec c s) (fun t => …)` says
that command c answers a next state t from s and what t holds; `OnNext` says what any next state keeps (Sys2Proof/Safety.lean).  A
remark before a clause names the rule of spec/ that it follows.
-/

open Sys2Proof Sys2Proof.Machine

/-- A step runs the command at the front of the queue with the rest of the queue; on an empty queue it is one tick, the model's choice (assumptions 1 and 2). -/
def Obligations.StepRunsTheFrontCommand : Prop :=
  (∀ (c : Instr) (rest : List Instr) (s : State), step { s with pending := c :: rest } = exec c { s with pending := rest }) ∧
  (∀ s : State, s.pending = [] → step s = .next s.tick)

/-- Every command but a lane event answers a next state in every state; a lane event of a running part answers one where the die has the link, and stops where not. -/
def Obligations.EveryCommandCompletes : Prop :=
  (∀ (c : Instr) (s : State), (match c with | .laneCodeError _ _ _ _ => False | .laneTimeout _ _ _ _ => False | _ => True) → ∃ t : State, exec c s = .next t) ∧
  (∀ (e : Die) (k : Fin 7) (lane : Fin 4) (cut : Option (BitVec 72)) (s : State),
      (if (e.farEnd k).isSome ∨ s.mainRuns = false then (∃ t : State, exec (.laneCodeError e k lane cut) s = .next t) ∧ (∃ t : State, exec (.laneTimeout e k lane cut) s = .next t)
       else exec (.laneCodeError e k lane cut) s = .fault .noSuchUnit ∧ exec (.laneTimeout e k lane cut) s = .fault .noSuchUnit))

/-- Some registers at State.reset have the Reset column of their tables; the moment that State.reset stands for is the model's choice (assumption 3). -/
def Obligations.ResetValues : Prop :=
  State.reset.pending = [] ∧ State.reset.mem = [] ∧ State.reset.regs = [] ∧
  (∀ (d : Fin 4) (k : Fin 2), State.reset.flag (TRIP.TGSTAT_TRIPPED d k) = true) ∧
  (∀ d k : Fin 4, State.reset.flag (PWM.GCFG_EN d k) = false ∧ State.reset.flag (PWM.STAT_RUN d k) = false) ∧
  (∀ (d : Fin 4) (i : Fin 16), State.reset.flag (CMP.CCFG_EN d i) = false) ∧
  State.reset.get KPR.KV_VSTL_MAX = 3600 ∧ State.reset.get KPR.KV_V_RICH = 2000 ∧ State.reset.get KPR.KPG_V_PGH = 3000 ∧ State.reset.get KPR.KPG_V_PGL = 2100

/-- State.reset has the canonical form of the stores. -/
def Obligations.ResetIsCanonical : Prop :=
  State.reset.canonical

/-- A lane that fails is retired at both ends; a parity mismatch found by a read or a scrub is recorded.  The model's choices that clauses of it rest on: the counters of both ends (18), by the number of their entry in notes/assumptions. -/
def Obligations.LanesAndParity : Prop :=
  -- R15
  (∀ (e f : Die) (k : Fin 7) (q : Nat) (lane : Fin 4) (cut : Option (BitVec 72)) (s : State), e.farEnd k = some (f, q) →
    s.bit (ELINK.STAT_LANE_UP_RX e k) lane = true → s.mainRuns = true →
      Completes (exec (.laneCodeError e k lane cut) s) (fun t => t.bit (ELINK.STAT_LANE_UP_RX e k) lane = false ∧
        t.bit (ELINK.STAT_LANE_UP_TX f q) lane = false ∧ t.flag (ELINK.STAT_LANE_CODE e k) = true)) ∧
  -- R15
  (∀ (e f : Die) (k : Fin 7) (q : Nat) (lane : Fin 4) (cut : Option (BitVec 72)) (s : State), e.farEnd k = some (f, q) →
    s.bit (ELINK.STAT_LANE_UP_RX e k) lane = true → s.mainRuns = true →
      Completes (exec (.laneTimeout e k lane cut) s) (fun t => t.bit (ELINK.STAT_LANE_UP_RX e k) lane = false ∧
        t.bit (ELINK.STAT_LANE_UP_TX f q) lane = false ∧ t.flag (ELINK.STAT_LANE_TIMEOUT e k) = true)) ∧
  -- R37-R39
  (∀ (c : Fin 2) (u : Fin 8) (clr : BitVec 3) (s : State), s.parityOk (CRC.POLY u) = false → s.flag (REGCTL.PAR_STAT_CFG_PARITY .n) = false →
    s.mainRuns = true →
      Completes (exec (.rwpRead c (BitVec.ofNat 32 (CRC.POLY u)) clr) s) (fun t => t.flag (REGCTL.PAR_STAT_CFG_PARITY .n) = true ∧
        t.flag (REGCTL.PAR_STAT_BY_READ .n) = true ∧ (t.reg (REGCTL.PAR_FIRST .n)).toNat = CRC.POLY u ∧ t.cell (CRC.POLY u) = s.cell (CRC.POLY u))) ∧
  -- R38, R41
  (∀ (d : Fin 4) (j : Fin 6) (use : Bool) (s : State), s.parityOk (PORT.PCFG d j) = false →
    s.flag (REGCTL.PAR_STAT_CFG_PARITY (Die.drive d)) = false → s.mainRuns = true →
      Completes (exec (.fltUseWrite d j use) s) (fun t => t.flag (REGCTL.PAR_STAT_CFG_PARITY (Die.drive d)) = true ∧
        (t.reg (REGCTL.PAR_FIRST (Die.drive d))).toNat = PORT.PCFG d j ∧ t.faultUsed d j = use ∧ t.parityOk (PORT.PCFG d j) = true)) ∧
  -- R30, R37
  (∀ (c : Fin 2) (u : Fin 8) (clr : BitVec 3) (s : State), s.parityOk (CRC.POLY u) = true → s.mainRuns = true →
      Completes (exec (.rwpRead c (BitVec.ofNat 32 (CRC.POLY u)) clr) s) (fun t => t.out = ⟨.readReturn, (Die.command c).code, [CRC.POLY u,
        (s.reg (CRC.POLY u)).toNat]⟩ :: s.out)) ∧
  -- R38, R43
  (∀ (c : Fin 2) (u : Fin 8) (clr : BitVec 3) (s : State), s.parityOk (CRC.POLY u) = false → s.flag (REGCTL.PAR_STAT_CFG_PARITY .n) = true →
    s.mainRuns = true →
      Completes (exec (.rwpRead c (BitVec.ofNat 32 (CRC.POLY u)) clr) s) (fun t => t.flag (REGCTL.PAR_STAT_CFG_PARITY .n) = true ∧
        t.reg (REGCTL.PAR_FIRST .n) = s.reg (REGCTL.PAR_FIRST .n) ∧ (t.reg (REGCTL.PAR_LAST .n)).toNat = CRC.POLY u)) ∧
  -- R37, R38
  (∀ (u : Fin 8) (bits : BitVec 32) (last : Bool) (clr : BitVec 3) (s : State),
    (parityOf (s.reg (CRC.POLY u) ^^^ bits) ≠ (s.cell (CRC.POLY u)).par) → s.mainRuns = true →
      Completes (exec (.ma3Scrub (CRC.POLY u) bits last clr) s) (fun t => t.flag (REGCTL.PAR_STAT_CFG_PARITY .n) = true ∧
        t.flag (REGCTL.PAR_STAT_BY_SCRUB .n) = true ∧ t.reg (CRC.POLY u) = s.reg (CRC.POLY u) ^^^ bits))

/-- Access faults, alias writes and the arrival of writes at a drive die and at N.  The model's choices that clauses of it rest on: a core write as issue and arrival (16), by the number of their entry in notes/assumptions. -/
def Obligations.RegisterAccesses : Prop :=
  -- R27, R29
  (∀ (c : Fin 2) (k : Fin 4) (a : BitVec 32) (write : Bool) (size : Fin 9) (s : State), accessFaults a.toNat size write = true → s.mainRuns = true →
      Completes (exec (.coreAccessFault c k a write size) s) (fun t => vget (t.cmd c).faults k = some ⟨a.toNat, write⟩ ∧ SameBut [.cmds] s t)) ∧
  -- R27
  (∀ (c : Fin 2) (k : Fin 4) (a w : BitVec 32) (s : State), s.coreRuns c k = true → accessFaults a.toNat 4 true = true → s.mainRuns = true →
      Completes (exec (.registerWrite (.core c k) a w) s) (fun t => vget (t.cmd c).faults k = some ⟨a.toNat, true⟩ ∧ SameBut [.cmds] s t)) ∧
  -- R32
  (∀ (u : Fin 8) (w : BitVec 32) (s : State), s.mainRuns = true →
      Completes (exec (.registerWrite .engine (BitVec.ofNat 32 (CRC.POLY u)) w) s) (fun t => t.reg (CRC.POLY u) = w)) ∧
  -- R32
  (∀ (u : Fin 8) (w : BitVec 32) (s : State), w ≠ 0 → s.mainRuns = true →
      Completes (exec (.registerWrite .engine (BitVec.ofNat 32 (CRC.POLY u + 0x1000)) w) s) (fun t => t.reg (CRC.POLY u) = s.reg (CRC.POLY u) ||| w)) ∧
  -- R32
  (∀ (u : Fin 8) (w : BitVec 32) (s : State), w ≠ 0 → s.mainRuns = true →
      Completes (exec (.registerWrite .engine (BitVec.ofNat 32 (CRC.POLY u + 0x2000)) w) s) (fun t => t.reg (CRC.POLY u) = s.reg (CRC.POLY u) &&&
        ~~~w)) ∧
  -- R32
  (∀ (u : Fin 8) (w : BitVec 32) (s : State), w ≠ 0 → s.mainRuns = true →
      Completes (exec (.registerWrite .engine (BitVec.ofNat 32 (CRC.POLY u + 0x3000)) w) s) (fun t => t.reg (CRC.POLY u) = s.reg (CRC.POLY u) ^^^ w)) ∧
  -- R21
  (∀ (d : Fin 4) (c : Fin 2) (i : Fin 16) (w : BitVec 32) (s : State), s.flag (ELINK.STAT_LINK_DOWN (Die.command c) (1 + d)) = false →
    s.flag (if c = 0 then DCMD.DCMDSTAT_ROLE_C0 d else DCMD.DCMDSTAT_ROLE_C1 d) = true → s.mainRuns = true →
      Completes (exec (.driveWriteArrival d (some c) (BitVec.ofNat 24 (CMP.CTHR d i - 0x40000000 - 0x1000000 * d.val)) w) s) (fun t => t.get
        (CMP.CTHR_THRESH d i) = getBits w (CMP.CTHR_THRESH d i).lo (CMP.CTHR_THRESH d i).w)) ∧
  -- R21
  (∀ (d : Fin 4) (c : Fin 2) (off : BitVec 24) (w : BitVec 32) (s : State), s.flag (ELINK.STAT_LINK_DOWN (Die.command c) (1 + d)) = false →
    s.flag (if c = 0 then DCMD.DCMDSTAT_ROLE_C0 d else DCMD.DCMDSTAT_ROLE_C1 d) = false → s.mainRuns = true →
      Completes (exec (.driveWriteArrival d (some c) off w) s) (fun t => t.get (DCMD.DCMDSTAT_STRAY_CNT d) = min (s.get (DCMD.DCMDSTAT_STRAY_CNT d) +
        1) (2 ^ (DCMD.DCMDSTAT_STRAY_CNT d).w - 1) ∧ SameBut [.regs] s t ∧ RegsBut [(DCMD.DCMDSTAT_STRAY_CNT d).addr] s t)) ∧
  -- R339
  (∀ (c : Fin 2) (u : Fin 8) (w : BitVec 32) (s : State), s.flag (ELINK.STAT_LINK_DOWN (Die.command c) 5) = false → s.arb.nShell = some c.val →
    s.mainRuns = true →
      Completes (exec (.nWriteFromCommandDie c (BitVec.ofNat 26 (CRC.POLY u - 0x48000000)) w) s) (fun t => t.reg (CRC.POLY u) = w)) ∧
  -- R24
  (∀ (d : Fin 4) (c : Fin 2) (off : BitVec 24) (w : BitVec 32) (s : State), s.flag (ELINK.STAT_LINK_DOWN (Die.command c) (1 + d)) = true →
    s.mainRuns = true →
      Completes (exec (.driveWriteArrival d (some c) off w) s) (fun t => t = s)) ∧
  -- R339
  (∀ (c : Fin 2) (u : Fin 8) (w : BitVec 32) (s : State), s.arb.nShell ≠ some c.val → s.mainRuns = true →
      Completes (exec (.nWriteFromCommandDie c (BitVec.ofNat 26 (CRC.POLY u - 0x48000000)) w) s) (fun t => t = s))

/-- The interface of RS registers: writes in flight, the copies that reads return, their staleness.  The model's choices that clauses of it rest on: the three commands of a handshaken write (13), by the number of their entry in notes/assumptions. -/
def Obligations.RsInterface : Prop :=
  -- R47
  (∀ (b : Fin 9) (off : Fin 0x4000) (w : BitVec 32) (s : State), (vget s.rsBlocks b).inflight.length < 4 → s.mainRuns = true →
      Completes (exec (.rsRegisterWrite b off w) s) (fun t => (vget t.rsBlocks b).inflight = (vget s.rsBlocks b).inflight ++ [⟨rsBase b + off.val, w,
        none⟩] ∧ t.flag (rsField b 8 1) = true)) ∧
  -- R48
  (∀ (b : Fin 9) (off : Fin 0x4000) (w : BitVec 32) (s : State), 4 ≤ (vget s.rsBlocks b).inflight.length → s.mainRuns = true →
      Completes (exec (.rsRegisterWrite b off w) s) (fun t => (vget t.rsBlocks b).stalled = (vget s.rsBlocks b).stalled ++ [⟨rsBase b + off.val, w,
        none⟩] ∧ t.regs = s.regs)) ∧
  -- R49
  (∀ (b : Fin 9) (x : RsWrite) (l : List RsWrite) (s : State), (vget s.rsBlocks b).inflight = x :: l → s.keeper.powered = true → s.mainRuns = true →
      Completes (exec (.rsWriteComplete b) s) (fun t => (vget t.rsBlocks b).inflight = l ++ (vget s.rsBlocks b).stalled.take 1)) ∧
  -- R44, R47
  (∀ (w : BitVec 32) (l : List RsWrite) (s : State), (vget s.rsBlocks 1).inflight = ⟨RTC.RTC_TRIM, w, none⟩ :: l → s.keeper.powered = true →
    s.mainRuns = true →
      Completes (exec (.rsWriteComplete 1) s) (fun t => t.get RTC.RTC_TRIM_TRIM = getBits w RTC.RTC_TRIM_TRIM.lo RTC.RTC_TRIM_TRIM.w ∧
        t.rsCopy RTC.RTC_TRIM = s.rsCopy RTC.RTC_TRIM)) ∧
  -- R51
  (∀ (b : Fin 9) (s : State), s.mainRuns = true →
      Completes (exec (.rsStaleTimeout b) s) (fun t => t.flag (rsField b 31 1) = true ∧ SameBut [.regs] s t ∧ RegsBut [rsBase b + 0xFFC] s t)) ∧
  -- R52
  (∀ (b : Fin 9) (x : RsWrite) (l : List RsWrite) (s : State), (vget s.rsBlocks b).inflight = x :: l → s.mainRuns = true →
      Completes (exec (.rsWriteLost b) s) (fun t => (vget t.rsBlocks b).inflight = l ++ (vget s.rsBlocks b).stalled.take 1 ∧
        t.flag (rsField b 30 1) = true ∧ RegsBut [rsBase b + 0xFFC] s t)) ∧
  -- R46
  (∀ (s : State), s.mainRuns = true →
      Completes (exec .rsLowWordRead s) (fun t => (vget t.rsBlocks 1).hold = some (RTC.RTC_SEC, s.rsCopy RTC.RTC_SEC) ∧ t.out = ⟨.readReturn,
        Die.s.code, [RTC.RTC_SUB, (s.rsCopy RTC.RTC_SUB).toNat]⟩ :: s.out ∧ SameBut [.rsBlocks, .out] s t)) ∧
  -- R50
  (∀ (b : Fin 9) (s : State), Assoc.sorted s.regs = true → s.mainRuns = true →
      Completes (exec (.rsCopyRefresh b) s) (fun t => t.flag (rsField b 31 1) = false ∧ (∀ a, rsBase b ≤ a → a < rsBase b + 0x1000 →
        t.rsCopy a = s.reg a)))

/-- PLLs, the clock monitor and the real-time clock follow their events.  The model's choices that clauses of it rest on: RTC_SUB at a second (21), by the number of their entry in notes/assumptions. -/
def Obligations.ClocksAndTime : Prop :=
  -- R62, R64
  (∀ (e : Die) (hot : Bool) (s : State), s.settling e = false → s.mainRuns = true →
      Completes (exec (.pllLock e hot) s) (fun t => t.flag (CLK.PLL_STAT_LOCK e) = true ∧ t.flag (CLK.PLL_STAT_HOLDOVER e) = false)) ∧
  -- R63
  (∀ (e : Die) (s : State), s.flag (CLK.PLL_STAT_LOCK e) = true → s.settling e = false → s.mainRuns = true →
      Completes (exec (.pllLossOfLock e) s) (fun t => t.flag (CLK.PLL_STAT_LOCK e) = false ∧
        t.get (CLK.PLL_STAT_LOL_CNT e) = min (s.get (CLK.PLL_STAT_LOL_CNT e) + 1) (2 ^ (CLK.PLL_STAT_LOL_CNT e).w - 1) ∧ SameBut [.regs, .out] s t ∧
        RegsBut [(CLK.PLL_STAT_LOCK e).addr] s t)) ∧
  -- R64
  (∀ (e : Die) (s : State), s.mainRuns = true →
      Completes (exec (.pllHoldover e) s) (fun t => t.flag (CLK.PLL_STAT_HOLDOVER e) = true ∧ t.flag (CLK.PLL_STAT_REF_LOST e) = true ∧
        SameBut [.regs] s t ∧ RegsBut [(CLK.PLL_STAT_HOLDOVER e).addr] s t)) ∧
  -- R61, R65
  (∀ (e : Die) (band : BitVec 6) (tj : Int) (covers : Bool) (s : State), s.mainRuns = true →
      Completes (exec (.bandSearchComplete e band tj covers) s) (fun t => t.get (CLK.PLL_STAT_BAND e) = band.toNat ∧
        t.flag (CLK.PLL_STAT_SEARCH_ACT e) = false ∧ t.flag (CLK.BAND_VALID e (tempClass tj)) = true ∧
        t.get (CLK.BAND_BAND e (tempClass tj)) = band.toNat)) ∧
  -- R75
  (∀ (k : Fin 10) (s : State), s.mainRuns = true →
      Completes (exec (.ckmonLoss k) s) (fun t => t.flag (CKMON.MON_LOSS k) = true)) ∧
  -- R75
  (∀ (meas : Vector (BitVec 16 × Bool) 10) (s : State), s.mainRuns = true →
      Completes (exec (.ckmonWindowEnd meas) s) (fun t => ∀ k : Fin 10, t.get (CKMON.MON_MEAS k) = (vget meas k).1.toNat % 2 ^ (CKMON.MON_MEAS k).w ∧
        (s.outOfWindow (vget meas k).1.toNat = true → t.flag (CKMON.MON_OOR k) = true))) ∧
  -- R77
  (∀ (s : State), s.keeper.powered = true →
      Completes (exec .rtcTrim s) (fun t => (t.get RTC.RTC_SEC_SEC : Int) * 32768 + t.get RTC.RTC_SUB_SUB = ((s.get RTC.RTC_SEC_SEC : Int) * 32768 +
        s.get RTC.RTC_SUB_SUB + s.getS RTC.RTC_TRIM_TRIM) % 2 ^ 47 ∧ SameBut [.regs] s t ∧ RegsBut [RTC.RTC_SEC, RTC.RTC_SUB] s t)) ∧
  -- R78
  (∀ (s : State), s.keeper.powered = true →
      Completes (exec .rtcXtalFail s) (fun t => t.flag RTC.RTC_FLAG_RTC_XTAL_FAIL = true ∧ SameBut [.regs] s t ∧ RegsBut [RTC.RTC_FLAG] s t)) ∧
  -- R79
  (∀ (s : State), s.lockA = true → s.mainRuns = true →
      Completes (exec .rtcSync s) (fun t => t.net.rtcSync = true ∧ SameBut [.net] s t)) ∧
  -- R79
  (∀ (sec : Nat) (s : State), s.net.rtcSync = true → s.keeper.powered = true → s.mainRuns = true →
      Completes (exec (.rtcSyncApply sec) s) (fun t => t.net.rtcSync = false ∧
        (t.get RTC.RTC_SEC_SEC : Int) = ((sec : Int) - s.utcOfsA - 946684800) % 2 ^ 32 ∧ t.get RTC.RTC_SUB_SUB = 0 ∧ SameBut [.regs, .net] s t ∧
        RegsBut [RTC.RTC_SEC, RTC.RTC_SUB] s t))

/-- Hopping is latched or refused when HOP_EN is set, ends when it is cleared, and each hop suspends lock evaluation for its settling.  The model's choices that clauses of it rest on: the order of a hop boundary (19), by the number of their entry in notes/assumptions. -/
def Obligations.Hopping : Prop :=
  -- R68, R69
  (∀ (d : Fin 4) (s : State), s.flag (CLK.HOP_CFG_HOP_EN (Die.drive d)) = false → slotInRange (s.reg (CLK.SLOT (Die.drive d) 0)).toNat = false →
    s.mainRuns = true → s.parityOk (CLK.HOP_CFG (Die.drive d)) = true →
      Completes (exec (.hopEnSet d) s) (fun t => t.flag (CLK.HOP_FLAG_HOP_CFG_ERR (Die.drive d)) = true ∧ t.hops = s.hops)) ∧
  -- R68, R70
  (∀ (d : Fin 4) (s : State), s.flag (CLK.HOP_CFG_HOP_EN (Die.drive d)) = false → s.get (CLK.HOP_CFG_HOP_LEN (Die.drive d)) ≤ 1 →
    slotInRange (s.reg (CLK.SLOT (Die.drive d) 0)).toNat = true → s.hopMaster d = none → s.flag (CLK.BAND_VALID (Die.drive d) 0) = true →
    s.mainRuns = true → s.parityOk (CLK.HOP_CFG (Die.drive d)) = true →
      Completes (exec (.hopEnSet d) s) (fun t => (t.hop d).latched = true ∧ (t.hop d).seed = s.get (CLK.HOP_CFG_HOP_SEED (Die.drive d)) ∧
        vget (t.hop d).slots 0 = (s.reg (CLK.SLOT (Die.drive d) 0)).toNat)) ∧
  -- R74
  (∀ (d : Fin 4) (s : State), s.flag (CLK.HOP_CFG_HOP_EN (Die.drive d)) = true → s.hopMaster d = none → s.mainRuns = true →
    s.parityOk (CLK.HOP_CFG (Die.drive d)) = true →
      Completes (exec (.hopEnClear d) s) (fun t => (t.hop d).latched = false ∧ (t.hop d).active = false ∧
        t.flag (CLK.HOP_CFG_HOP_EN (Die.drive d)) = false)) ∧
  -- R74
  (∀ (d : Fin 4) (m : Nat) (s : State), s.flag (CLK.HOP_CFG_HOP_EN (Die.drive d)) = true → s.hopMaster d = some m → s.mainRuns = true →
    s.parityOk (CLK.HOP_CFG (Die.drive d)) = true →
      Completes (exec (.hopEnClear d) s) (fun t => (t.hop d).returning = true)) ∧
  -- R71-R73
  (∀ (d : Fin 4) (m : Nat) (s : State), s.hopMaster d = some m → s.dieRuns d = true → s.hopDue d (s.hopCarriers d) (s.hopTaken d) = true →
    s.mainRuns = true →
      Completes (exec (.hopBoundary d) s) (fun t => t.hop d = (s.hop d).step (s.hopCarriers d / s.hopDiv d) ∧
        (t.grp d m).hopTaken = (s.grp d m).carriers ∧ ((t.hop d).active = true → t.get (CLK.PLL_STAT_SLOT_NOW (Die.drive d)) = (t.hop d).last % 8 ∧
        t.get (CLK.HOP_STAT_HOP_NOW (Die.drive d)) = hopFactor (t.hop d).word % 2 ^ (CLK.HOP_STAT_HOP_NOW (Die.drive d)).w) ∧
        (((t.hop d).active = true ∧ (t.hop d).last ≠ s.get (CLK.PLL_STAT_SLOT_NOW (Die.drive d))) → t.settling (Die.drive d) = true))) ∧
  -- R72
  (∀ (e : Die) (s : State), s.mainRuns = true →
      Completes (exec (.hopSettleEnd e) s) (fun t => t.settling e = false ∧ t.regs = s.regs))

/-- Enabling a group latches its configuration; disabling lets a running group complete its carrier; a start event makes a waiting group due. -/
def Obligations.PwmGroups : Prop :=
  -- R83, R84, R86
  (∀ (d k : Fin 4) (s : State), s.flag (PWM.GCFG_EN d k) = false → (s.grp d k).stopping = false → s.enableRefused d k = false → s.mainRuns = true →
    s.parityOk (PWM.GCFG d k) = true →
      Completes (exec (.pwmGroupEnable d k) s) (fun t => (t.grp d k).enabled = true ∧ (t.grp d k).mode = s.get (PWM.GCFG_MODE d k) ∧
        (t.grp d k).ports = s.get (PWM.GCFG_PORTS d k) ∧ (t.grp d k).waiting = decide (s.get (PWM.GCFG_START_SRC d k) = 1))) ∧
  -- R84
  (∀ (d k : Fin 4) (s : State), s.flag (PWM.GCFG_EN d k) = false → (s.grp d k).stopping = false → s.enableRefused d k = true → s.mainRuns = true →
    s.parityOk (PWM.GCFG d k) = true →
      Completes (exec (.pwmGroupEnable d k) s) (fun t => t.flag (PWM.STAT_GRP_CFG_ERR d k) = true ∧ t.groups = s.groups)) ∧
  -- R88
  (∀ (d k : Fin 4) (s : State), s.flag (PWM.GCFG_EN d k) = true → s.grpRuns d k = true → s.mainRuns = true → s.parityOk (PWM.GCFG d k) = true →
      Completes (exec (.pwmGroupDisable d k) s) (fun t => (t.grp d k).stopping = true ∧ t.grpRuns d k = true)) ∧
  -- R88
  (∀ (d k : Fin 4) (s : State), s.flag (PWM.GCFG_EN d k) = true → s.grpRuns d k = false → s.mainRuns = true → s.parityOk (PWM.GCFG d k) = true →
      Completes (exec (.pwmGroupDisable d k) s) (fun t => (t.grp d k).enabled = false)) ∧
  -- R88
  (∀ (d k : Fin 4) (s : State), s.grpRuns d k = true → (s.grp d k).stopping = true → s.dieRuns d = true → s.mainRuns = true →
      Completes (exec (.pwmGroupStop d k) s) (fun t => (t.grp d k).enabled = false ∧ (t.grp d k).stopping = false)) ∧
  -- R100
  (∀ (d k : Fin 4) (s : State), s.mainRuns = true →
      Completes (exec (.pwmCommit d k) s) (fun t => t.flag (PWM.COMMIT_COMMIT d k) = true ∧ SameBut [.regs] s t ∧ RegsBut [PWM.COMMIT d k] s t)) ∧
  -- R86
  (∀ (d : Fin 4) (s : State), s.dieRuns d = true → s.mainRuns = true →
      Completes (exec (.timeEventArrival d) s) (fun t => ∀ k : Fin 4, (s.grp d k).waiting = true → (t.grp d k).waiting = false ∧
        (t.grp d k).due = true))

/-- A period of a PWM group starts and ends, and its edges reach the outputs through the dead time. -/
def Obligations.PwmPeriodsAndEdges : Prop :=
  -- R105
  (∀ (d k : Fin 4) (s : State), (s.grp d k).due = true → s.grpRuns d k = false → s.dieRuns d = true → s.get (PWM.PER_PER d k) = 0 →
    s.mainRuns = true →
      Completes (exec (.pwmGroupStart d k) s) (fun t => (t.grp d k).enabled = false ∧ (t.grp d k).due = false ∧ t.grpRuns d k = false ∧
        t.flag (PWM.STAT_SET_INVALID d k) = true)) ∧
  -- R85
  (∀ (d k : Fin 4) (s : State), (s.grp d k).due = true → s.grpRuns d k = false → s.dieRuns d = true → s.get (PWM.PER_PER d k) ≠ 0 →
    s.mainRuns = true →
      Completes (exec (.pwmGroupStart d k) s) (fun t => (t.grp d k).due = false ∧ (t.grp d k).waiting = false ∧ t.grpRuns d k = true ∧
        (t.grp d k).aPer = perActs (s.grp d k).mode (s.get (PWM.PER_PER d k)))) ∧
  -- R95
  (∀ (d k : Fin 4) (s : State), s.grpRuns d k = true → s.dieRuns d = true → (s.grp d k).mode < 2 → (s.grp d k).stopping = false → s.mainRuns = true →
      Completes (exec (.controlPeriodBoundary d k) s) (fun t => (t.grp d k).periods = (s.grp d k).periods + 1 ∧
        t.get (PWM.CNT_PCNT d k) = (s.get (PWM.CNT_PCNT d k) + 1) % 2 ^ (PWM.CNT_PCNT d k).w)) ∧
  -- R91
  (∀ (d k : Fin 4) (s : State), s.grpRuns d k = true → s.dieRuns d = true → 2 ≤ (s.grp d k).mode →
    s.fixedPhase d k ≤ 64 * s.get (PWM.CNT_COUNT d k) → s.perMinActs d k ≤ s.get (PWM.CNT_COUNT d k) → (s.grp d k).stopping = false →
    s.mainRuns = true →
      Completes (exec (.vpTriggerEdge d k) s) (fun t => (t.grp d k).periods = (s.grp d k).periods + 1 ∧ t.get (PWM.CNT_COUNT d k) = 0)) ∧
  -- R91
  (∀ (d k : Fin 4) (s : State), s.grpRuns d k = true → s.dieRuns d = true → 2 ≤ (s.grp d k).mode →
    s.fixedPhase d k ≤ 64 * s.get (PWM.CNT_COUNT d k) → s.get (PWM.CNT_COUNT d k) < s.perMinActs d k → s.mainRuns = true →
      Completes (exec (.vpTriggerEdge d k) s) (fun t => (t.grp d k).early = true ∧ t.regs = s.regs)) ∧
  -- R92
  (∀ (d k : Fin 4) (s : State), s.grpRuns d k = true → s.dieRuns d = true → 2 ≤ (s.grp d k).mode → (s.grp d k).stopping = false → s.mainRuns = true →
      Completes (exec (.vpTimeout d k) s) (fun t => (t.grp d k).periods = (s.grp d k).periods + 1 ∧ t.flag (PWM.STAT_VP_TIMEOUT d k) = true)) ∧
  -- R107, R108, R111
  (∀ (d : Fin 4) (j : Fin 7) (k tap : Nat) (rise : Bool) (s : State), s.groupOf d j = some k → s.dieRuns d = true → s.edgeDue d k j = some (tap,
    rise) → s.mainRuns = true →
      Completes (exec (.commandEdge d j) s) (fun t => (t.port d j).level = some rise ∧ (t.port d j).edgeTap = tap + 1)) ∧
  -- R109, R618
  (∀ (d : Fin 4) (j : Fin 7) (k tap : Nat) (s : State), s.groupOf d j = some k → s.dieRuns d = true → s.edgeDue d k j = some (tap, true) →
    s.get (PORT.PMODE_PMODE d j) = 1 → s.flag (TRIP.TGSTAT_TRIPPED d (s.tgOf d j)) = false → s.stoBranch d = false → s.chopperRole d j = false →
    (s.port d j).refresh = 0 → s.mainRuns = true →
      Completes (exec (.commandEdge d j) s) (fun t => (t.port d j).level = some true ∧ (t.port d j).gl = false ∧ (t.port d j).safe = .none)) ∧
  -- R109, R110
  (∀ (d : Fin 4) (j : Fin 7) (k : Nat) (w : TurnOn) (s : State), (s.port d j).pendOn = some w → w.ticks = 0 → s.dieRuns d = true →
    s.follows d j = true → s.groupOf d j = some k →
    ((match s.edgeWidth d k j (64 * s.carrierPos d k + w.fine) w.high with | some n => decide (128 ≤ n) | none => true) = true) →
    s.chopperRole d j = false → (s.port d j).blocked = false → s.stoBranch d = false → s.flag (TRIP.TGSTAT_TRIPPED d (s.tgOf d j)) = false →
    (s.flag (APB.APSTAT_AP_BOOT_UV d) = false ∨ j ≠ 6) → s.mainRuns = true →
      Completes (exec (.deadTimeEnd d j) s) (fun t => (t.port d j).pendOn = none ∧ (if w.high then (t.port d j).gh else (t.port d j).gl) = true)) ∧
  -- R112
  (∀ (d : Fin 4) (j : Fin 7) (k n : Nat) (w : TurnOn) (s : State), (s.port d j).pendOn = some w → w.ticks = 0 → s.dieRuns d = true →
    s.follows d j = true → s.groupOf d j = some k → s.edgeWidth d k j (64 * s.carrierPos d k + w.fine) w.high = some n → 0 < n → n < 128 →
    s.chopperRole d j = false → s.flag (TRIP.TGSTAT_TRIPPED d (s.tgOf d j)) = false → (s.flag (APB.APSTAT_AP_BOOT_UV d) = false ∨ j ≠ 6) →
    s.mainRuns = true →
      Completes (exec (.deadTimeEnd d j) s) (fun t => (t.port d j).pendOn = none ∧ (t.port d j).gh = (s.port d j).gh ∧
        (t.port d j).gl = (s.port d j).gl ∧ t.flag (PWM.STAT_PULSE_DROP d k) = true)) ∧
  -- R618
  (∀ (d : Fin 4) (j : Fin 7) (m : Fin 4) (s : State), s.mainRuns = true →
      Completes (exec (.pmodeWrite d j m) s) (fun t => t.get (PORT.PMODE_PMODE d j) = m.val)) ∧
  -- R115
  (∀ (d : Fin 4) (mon : BitVec 16) (s : State), s.mainRuns = true →
      Completes (exec (.dlyMonUpdate d mon) s) (fun t => t.get (PWM.DLY_MON_MON_TPT d) = mon.toNat))

/-- The halt guard and the STO branches; clock stop, time capture and retirement of a drive die.  The model's choices that clauses of it rest on: the two causes of the halt guard (23), by the number of their entry in notes/assumptions. -/
def Obligations.HaltGuardAndService : Prop :=
  -- R119, R120
  (∀ (d : Fin 4) (s : State), s.mainRuns = true →
      Completes (exec (.driveDieHalt d) s) (fun t => (vget t.drives d).halted = true ∧ t.bit HGRD.HGSTAT_HALT d = true)) ∧
  -- R119
  (∀ (d : Fin 4) (s : State), s.mainRuns = true →
      Completes (exec (.driveDieHaltRelease d) s) (fun t => (vget t.drives d).halted = false ∧ t.bit HGRD.HGSTAT_HALT d = false)) ∧
  -- R120
  (∀ (d : Fin 4) (s : State), s.bit HGRD.HGSTAT_TIMING d = true → s.mainRuns = true →
      Completes (exec (.haltGuardExpire d) s) (fun t => t.bit HGRD.HGSTAT_ASSERT d = true ∧ t.bit SFN.SFSTAT_NET d = true)) ∧
  -- R121
  (∀ (d : Fin 4) (s : State), s.mainRuns = true →
      Completes (exec (.stoBranchAssert d) s) (fun t => t.bit SFN.SFSTAT_NET d = true ∧ (∀ j : Fin 7, (t.port d j).gh = false ∧
        (t.port d j).gl = false))) ∧
  -- R423
  (∀ (d : Fin 4) (s : State), s.flag SFN.SFSTAT_A_REQ = false → s.flag SFN.SFSTAT_B_REQ = false →
    (s.bit HGRD.HGSTAT_ASSERT d = false ∨ (s.bit HGRD.HGSTAT_HALT d = false ∧ s.bit HGRD.HGSTAT_CLK_LOST d = false ∧
    (vget s.drives d).released = 3)) → (vget s.drives d).retired = false → s.mainRuns = true →
      Completes (exec (.stoBranchRelease d) s) (fun t => t.bit SFN.SFSTAT_NET d = false ∧ t.bit HGRD.HGSTAT_ASSERT d = false)) ∧
  -- R24, R423
  (∀ (d : Fin 4) (s : State), ((vget s.drives d).retired = true ∨ (s.bit HGRD.HGSTAT_ASSERT d = true ∧ (vget s.drives d).released ≠ 3)) →
    s.mainRuns = true →
      Completes (exec (.stoBranchRelease d) s) (fun t => t = s)) ∧
  -- R119
  (∀ (d : Fin 4) (s : State), s.mainRuns = true →
      Completes (exec (.driveDieClockStop d) s) (fun t => (vget t.drives d).clockStopped = true ∧ SameBut [.drives] s t)) ∧
  -- R423
  (∀ (d : Fin 4) (s : State), s.mainRuns = true →
      Completes (exec (.driveDieClockResume d) s) (fun t => (vget t.drives d).clockStopped = false)) ∧
  -- R119
  (∀ (d : Fin 4) (s : State), s.mainRuns = true →
      Completes (exec (.driveDieClockStop d) s) (fun t => (vget t.drives d).clockStopped = true ∧ SameBut [.drives] s t)) ∧
  -- R423
  (∀ (d : Fin 4) (s : State), s.mainRuns = true →
      Completes (exec (.driveDieClockResume d) s) (fun t => (vget t.drives d).clockStopped = false)) ∧
  -- R24
  (∀ (d : Fin 4) (s : State), (vget s.drives d).retired = false → s.mainRuns = true →
      Completes (exec (.driveDieRetire d) s) (fun t => (vget t.drives d).retired = true ∧ t.gridS.retired.testBit d = true)) ∧
  -- R156
  (∀ (d : Fin 4) (s : State), s.mainRuns = true →
      Completes (exec (.ttimeLoRead d) s) (fun t => (vget t.drives d).ttHold = some (s.ttime d / 2 ^ 32) ∧ t.out = ⟨.readReturn, (Die.drive d).code,
        [TRIP.TTIME_LO d, s.ttime d % 2 ^ 32]⟩ :: s.out ∧ SameBut [.drives, .out] s t))

/-- A trip records its sources; writes and pins that bear on a trip group do what their rules say; when a clear is refused. -/
def Obligations.TripsAndClears : Prop :=
  -- R137, R152
  (∀ (d : Fin 4) (k : Fin 2) (s : State), s.flag (TRIP.TGSTAT_TRIPPED d k) = false → (vget s.drives d).clockStopped = false →
    s.activeSources d k ≠ 0 → s.mainRuns = true →
      Completes (exec (.tripGroupTrip d k) s) (fun t => t.flag (TRIP.TGSTAT_TRIPPED d k) = true ∧
        (t.reg (TRIP.FCVEC d k)).toNat = s.activeSources d k % 2 ^ 32)) ∧
  -- R135
  (∀ (d : Fin 4) (m : BitVec 7) (s : State), s.flag (TRIP.TGSTAT_TRIPPED d 0) = true → s.flag (TRIP.TGSTAT_TRIPPED d 1) = true → s.mainRuns = true →
      Completes (exec (.membersWrite d m) s) (fun t => t.get (TRIP.MEMBERS_MEMB1 d) = m.toNat ∧ t.get (TRIP.SRCMASK_PORTSRC d 1) = m.toNat ∧
        t.get (TRIP.SRCMASK_PORTSRC d 0) = 127 - m.toNat)) ∧
  -- R139
  (∀ (d : Fin 4) (k : Fin 2) (w : Word) (s : State), s.flag (TRIP.TGSTAT_TRIPPED d k) = true → s.mainRuns = true →
      Completes (exec (.srcMaskWrite d k w) s) (fun t => t.reg (TRIP.SRCMASK d k) = s.reg (TRIP.SRCMASK d k) ||| (w &&& srcMaskRw))) ∧
  -- R164, R165
  (∀ (d : Fin 4) (k : Fin 2) (m : Fin 4) (s : State), (vget s.tgs (2 * d.val + k.val)).modeFixed = false → s.flag (TRIP.TGSTAT_TRIPPED d k) = false →
    s.mainRuns = true →
      Completes (exec (.tgModeWrite d k m) s) (fun t => t.get (TRIP.TGCTL_TG_MODE d k) = if m = 3 then 1 else m.val)) ∧
  -- R161
  (∀ (d x : Fin 4) (lowTicks : Nat) (s : State), s.mainRuns = true →
      Completes (exec (.enPinRise d x lowTicks) s) (fun t => t.bit (TRIP.PINSTAT_EN_LVL d) x = true)) ∧
  -- R158
  (∀ (d x : Fin 4) (level : Bool) (s : State), s.mainRuns = true →
      Completes (exec (.tripInputActive d x level) s) (fun t => t.bit (TRIP.PINSTAT_TRIP_LVL d) x = level)) ∧
  -- R164
  (∀ (d : Fin 4) (k : Fin 2) (m : Fin 4) (s : State), (vget s.tgs (2 * d.val + k.val)).modeFixed = false → s.flag (TRIP.TGSTAT_TRIPPED d k) = true →
    s.get (TRIP.TGCTL_TG_MODE d k) = 0 → m ≠ 0 → s.mainRuns = true →
      Completes (exec (.tgModeWrite d k m) s) (fun t => t.get (TRIP.TGCTL_TG_MODE d k) = 0 ∧ t.flag (TRIP.TGSTAT_TRIP_CLR_REJ d k) = true)) ∧
  -- R146, R152
  (∀ (d : Fin 4) (i : Fin 16) (k : Fin 2) (s : State), vget (vget s.drives d).cuffs i = 0 → (vget s.drives d).clockStopped = false →
    s.flag (TRIP.TGSTAT_TRIPPED d 0) = false → s.flag (TRIP.TGSTAT_TRIPPED d 1) = false → s.mainRuns = true →
      Completes (exec (.cuffExpire d i) s) (fun t => (t.reg (TRIP.SRCACT d k)).toNat = s.activeSources d k % 2 ^ 32)) ∧
  -- R146
  (∀ (d : Fin 4) (i : Fin 16) (s : State), 0 < vget (vget s.drives d).cuffs i → s.mainRuns = true →
      Completes (exec (.cuffExpire d i) s) (fun t => t = s)) ∧
  -- R142
  (∀ (d : Fin 4) (j : Fin 7) (w : TurnOn) (s : State), (s.port d j).ascWait = some w → w.ticks = 0 → s.dieRuns d = true →
    (s.port d j).blocked = false → s.stoBranch d = false → s.mainRuns = true →
      Completes (exec (.ascShortSideOn d j) s) (fun t => (t.port d j).ascWait = none ∧ ((t.port d j).safe = (s.port d j).safe →
        (if w.high then (t.port d j).gh else (t.port d j).gl) = true) ∧ (s.flag (TRIP.TGSTAT_TRIPPED d (s.tgOf d j)) = false →
        (t.port d j).safe = (s.port d j).safe))) ∧
  -- R160, R161
  (∀ (d x : Fin 4) (lowTicks : Nat) (s : State), 800 ≤ lowTicks → (vget s.drives d).clockStopped = false → s.bit (TRIP.TGCFG_EN_SEL d 0) x = true →
    s.bit (TRIP.TGCFG_EN_SEL d 1) x = false → s.flag (TRIP.TGSTAT_TRIPPED d 0) = true → s.activeSources d 0 ≠ 0 → s.mainRuns = true →
      Completes (exec (.enPinRise d x lowTicks) s) (fun t => t.flag (TRIP.TGSTAT_TRIPPED d 0) = true ∧ t.flag (TRIP.TGSTAT_TRIP_CLR_REJ d 0) = true)) ∧
  -- R160-R163
  (∀ (d x : Fin 4) (lowTicks : Nat) (s : State), 800 ≤ lowTicks → (vget s.drives d).clockStopped = false → s.bit (TRIP.TGCFG_EN_SEL d 0) x = true →
    s.bit (TRIP.TGCFG_EN_SEL d 1) x = false → s.flag (TRIP.TGSTAT_TRIPPED d 0) = true → s.activeSources d 0 = 0 → (∀ j : Fin 6, s.tgOf d j = 0 →
    s.flag (PORT.PCFG_FLT_USE d j) = true → s.flag (PORT.FLTSTAT_FLT_LINE d j) = true) → s.mainRuns = true →
      Completes (exec (.enPinRise d x lowTicks) s) (fun t => t.flag (TRIP.TGSTAT_TRIPPED d 0) = false ∧ (∀ j : Fin 7, s.tgOf d j = 0 →
        s.chopperRole d j = false → (t.port d j).held = true ∧ (t.port d j).safe = (s.port d j).safe))) ∧
  -- R161
  (∀ (d x : Fin 4) (lowTicks : Nat) (s : State), lowTicks < 800 → s.mainRuns = true →
      Completes (exec (.enPinRise d x lowTicks) s) (fun t => t.flag (TRIP.TGSTAT_TRIPPED d 0) = s.flag (TRIP.TGSTAT_TRIPPED d 0) ∧
        t.flag (TRIP.TGSTAT_TRIPPED d 1) = s.flag (TRIP.TGSTAT_TRIPPED d 1)))

/-- The width of a low pulse on a driver fault line gives its code. -/
def Obligations.FaultLine : Prop :=
  -- R127
  (∀ (d : Fin 4) (j : Fin 6) (s : State), s.mainRuns = true →
      Completes (exec (.fltFall d j) s) (fun t => t.flag (PORT.FLTSTAT_FLT_LINE d j) = false)) ∧
  -- R127
  (∀ (d : Fin 4) (j : Fin 6) (s : State), s.faultUsed d j = true → s.mainRuns = true →
      Completes (exec (.fltFall d j) s) (fun t => (t.port d j).measuring = true)) ∧
  -- R127
  (∀ (d : Fin 4) (j : Fin 6) (width : Nat) (s : State), (s.port d j).measuring = true → s.faultUsed d j = true → (s.port d j).declared = false →
    0 < width → width < 200 → s.mainRuns = true →
      Completes (exec (.fltPulseEnd d j width) s) (fun t => t.flag (PORT.FLTSTAT_FLT_LINE d j) = true ∧
        t.get (PORT.FLTSTAT_FLT_CODE d j) = s.get (PORT.FLTSTAT_FLT_CODE d j) ∧
        t.get (PORT.FLTSTAT_GLITCH_CNT d j) = min (s.get (PORT.FLTSTAT_GLITCH_CNT d j) + 1) (2 ^ (PORT.FLTSTAT_GLITCH_CNT d j).w - 1))) ∧
  -- R127
  (∀ (d : Fin 4) (j : Fin 6) (s : State), s.mainRuns = true →
      Completes (exec (.fltPulseEnd d j 0) s) (fun t => t.flag (PORT.FLTSTAT_FLT_LINE d j) = true ∧ (t.port d j).measuring = false ∧
        t.get (PORT.FLTSTAT_FLT_CODE d j) = s.get (PORT.FLTSTAT_FLT_CODE d j))) ∧
  -- R127
  (∀ (d : Fin 4) (j : Fin 6) (width : Nat) (s : State), (s.port d j).measuring = true → s.faultUsed d j = true → (s.port d j).declared = false →
    200 ≤ width → s.get (PORT.FLTSTAT_FLT_CODE d j) = 0 → s.mainRuns = true →
      Completes (exec (.fltPulseEnd d j width) s) (fun t => t.get (PORT.FLTSTAT_FLT_CODE d j) = codeOfWidth width ∧
        t.get (PORT.FLTWID_WIDTH d j) = min width 0xFFFFF)) ∧
  -- R127
  (∀ (d : Fin 4) (j : Fin 6) (s : State), (s.port d j).measuring = true → s.faultUsed d j = true → (s.port d j).declared = false →
    s.get (PORT.FLTSTAT_FLT_CODE d j) = 0 → s.mainRuns = true →
      Completes (exec (.fltCode5 d j) s) (fun t => t.get (PORT.FLTSTAT_FLT_CODE d j) = 5)) ∧
  -- R127, R129
  (∀ (d : Fin 4) (j : Fin 6) (s : State), (s.port d j).measuring = true → s.faultUsed d j = true → (s.port d j).declared = true →
    (s.port d j).own5 = true → s.mainRuns = true →
      Completes (exec (.fltCode6 d j) s) (fun t => t.get (PORT.FLTSTAT_FLT_CODE d j) = 6)) ∧
  -- R129
  (∀ (d : Fin 4) (j : Fin 6) (s : State), (s.port d j).measuring = true → s.faultUsed d j = true → (s.port d j).declared = true →
    (s.port d j).own5 = false → (s.codeTrips d (s.tgOf d j) (s.get (PORT.FLTSTAT_FLT_CODE d j)) = false ∨ s.get (PORT.FLTSTAT_FLT_CODE d j) = 7) →
    s.mainRuns = true →
      Completes (exec (.fltCode6 d j) s) (fun t => t.get (PORT.FLTSTAT_FLT_CODE d j) = 6)) ∧
  -- R132
  (∀ (d : Fin 4) (j : Fin 6) (s : State), s.flag (TRIP.TGCFG_FLT_EARLY d (s.tgOf d j)) = true → s.faultUsed d j = true →
    (s.port d j).measuring = true → s.get (PORT.FLTSTAT_FLT_CODE d j) = 0 → s.mainRuns = true →
      Completes (exec (.fltEarly d j) s) (fun t => t.get (PORT.FLTSTAT_FLT_CODE d j) = 7)) ∧
  -- R130
  (∀ (d : Fin 4) (j : Fin 6) (s : State), s.flag (PORT.FLTSTAT_FLT_LINE d j) = true → (s.port d j).measuring = false → s.mainRuns = true →
      Completes (exec (.fltClr d j) s) (fun t => t.get (PORT.FLTSTAT_FLT_CODE d j) = 0)) ∧
  -- R131
  (∀ (d : Fin 4) (j : Fin 6) (use : Bool) (s : State), s.mainRuns = true → s.parityOk (PORT.PCFG d j) = true →
      Completes (exec (.fltUseWrite d j use) s) (fun t => t.faultUsed d j = use))

/-- The brake chopper follows its comparator; the auxiliary port keeps its boot supply. -/
def Obligations.ChopperAndAuxiliary : Prop :=
  -- R168, R620
  (∀ (d : Fin 4) (j : Fin 6) (en : Bool) (s : State), s.mainRuns = true → s.parityOk (PORT.PCFG d j) = true →
      Completes (exec (.chopEnWrite d j en) s) (fun t => t.chopperRole d j = en)) ∧
  -- R169
  (∀ (d : Fin 4) (j : Fin 6) (high : Bool) (s : State), s.chopperFree d j = true → s.flag (PORT.PCFG_CHOP_SIDE d j) = !high →
    s.flag (TRIP.TGSTAT_TRIPPED d (s.tgOf d j)) = false → (s.port d j).blocked = false → s.stoBranch d = false →
    (if (if high then (s.port d j).gh else (s.port d j).gl) = true then s.get (PORT.CHOP_TON_TON d j) else s.get (PORT.CHOP_TOFF_TOFF d j)) ≤ (if
    high then (s.port d j).sinceH else (s.port d j).sinceL) → s.mainRuns = true →
      Completes (exec (.chopperSwitch d j) s) (fun t => (if high then (t.port d j).gh else (t.port d j).gl) = s.flag (CMP.CSTAT_OUT d (s.get
        (PORT.PCFG_CHOP_CMP d j))) ∧
        ((if high then (s.port d j).gh else (s.port d j).gl) ≠ s.flag (CMP.CSTAT_OUT d (s.get (PORT.PCFG_CHOP_CMP d j))) →
        t.flag (PORT.CHOP_STAT_CHOP_ON d j) = s.flag (CMP.CSTAT_OUT d (s.get (PORT.PCFG_CHOP_CMP d j)))))) ∧
  -- R170
  (∀ (d : Fin 4) (j : Fin 6) (high : Bool) (s : State), s.chopperFree d j = true → s.flag (PORT.PCFG_CHOP_SIDE d j) = !high →
    s.flag (TRIP.TGSTAT_TRIPPED d (s.tgOf d j)) = false → (s.port d j).blocked = false → s.stoBranch d = false →
    (if (if high then (s.port d j).gh else (s.port d j).gl) = true then s.get (PORT.CHOP_TON_TON d j) else s.get (PORT.CHOP_TOFF_TOFF d j)) ≤ (if
    high then (s.port d j).sinceH else (s.port d j).sinceL) → s.mainRuns = true →
      Completes (exec (.chopMinTimeEnd d j) s) (fun t => (if high then (t.port d j).gh else (t.port d j).gl) = s.flag (CMP.CSTAT_OUT d (s.get
        (PORT.PCFG_CHOP_CMP d j))) ∧
        ((if high then (s.port d j).gh else (s.port d j).gl) ≠ s.flag (CMP.CSTAT_OUT d (s.get (PORT.PCFG_CHOP_CMP d j))) →
        t.flag (PORT.CHOP_STAT_CHOP_ON d j) = s.flag (CMP.CSTAT_OUT d (s.get (PORT.PCFG_CHOP_CMP d j)))))) ∧
  -- R170
  (∀ (d : Fin 4) (j : Fin 6) (high : Bool) (s : State), s.flag (PORT.PCFG_CHOP_SIDE d j) = !high →
    (if high then (s.port d j).sinceH else (s.port d j).sinceL) < (if (if high then (s.port d j).gh else (s.port d j).gl) = true then s.get
    (PORT.CHOP_TON_TON d j) else s.get (PORT.CHOP_TOFF_TOFF d j)) → s.mainRuns = true →
      Completes (exec (.chopperSwitch d j) s) (fun t => t = s)) ∧
  -- R173
  (∀ (d : Fin 4) (s : State), s.mainRuns = true →
      Completes (exec (.apBootUv d) s) (fun t => t.flag (APB.APSTAT_AP_BOOT_UV d) = true ∧ t.reg (PORT.ACT_DUTY d 6) = 0 ∧ (s.dieRuns d = true →
        (t.port d 6).gh = false))) ∧
  -- R172
  (∀ (d : Fin 4) (s : State), s.mainRuns = true →
      Completes (exec (.bootOkRise d) s) (fun t => t.flag (APB.APSTAT_BOOT_OK d) = true ∧ SameBut [.regs] s t ∧ RegsBut [APB.APSTAT d] s t)) ∧
  -- R174
  (∀ (d : Fin 4) (s : State), s.flag (APB.APSTAT_BOOT_OK d) = true → s.mainRuns = true →
      Completes (exec (.apBootUvClear d) s) (fun t => t.flag (APB.APSTAT_AP_BOOT_UV d) = false ∧
        (t.reg (PORT.ACT_DUTY d 6)).toNat = (s.port d 6).duty % 2 ^ 32)) ∧
  -- R176, R177
  (∀ (d : Fin 4) (s : State), s.refreshWanted d = true → s.flag (TRIP.TGSTAT_TRIPPED d (s.tgOf d 6)) = false → s.mainRuns = true →
      Completes (exec (.apRefreshStart d) s) (fun t => (t.port d 6).gh = false ∧ (t.port d 6).refresh = 1 ∧ t.flag (APB.APSTAT_REF_ACT d) = true ∧
        (t.port d 6).refWait = (s.reg (PORT.ACT_DT_FALL d 6)).toNat / 64 ∧ (t.port d 6).refFine = (s.reg (PORT.ACT_DT_FALL d 6)).toNat % 64)) ∧
  -- R176, R177
  (∀ (d : Fin 4) (s : State), (s.port d 6).refresh = 1 → (s.port d 6).refWait = 0 → s.follows d 6 = true → s.dieRuns d = true →
    (s.port d 6).blocked = false → s.stoBranch d = false → s.flag (TRIP.TGSTAT_TRIPPED d (s.tgOf d 6)) = false → s.mainRuns = true →
      Completes (exec (.apRefreshLowOn d) s) (fun t => (t.port d 6).gl = true ∧ (t.port d 6).refresh = 2 ∧
        (t.port d 6).refWait = max 16 (s.get (APB.APREF_W_REF_W d)))) ∧
  -- R176
  (∀ (d : Fin 4) (s : State), (s.port d 6).refresh = 2 → (s.port d 6).refWait = 0 → s.follows d 6 = true → s.dieRuns d = true →
    s.flag (TRIP.TGSTAT_TRIPPED d (s.tgOf d 6)) = false → s.mainRuns = true →
      Completes (exec (.apRefreshEnd d) s) (fun t => (t.port d 6).gl = false ∧ (t.port d 6).refresh = 0 ∧ (t.port d 6).refCount = 0 ∧
        t.flag (APB.APSTAT_REF_ACT d) = false))

/-- Triggers start ADC sequences, conversions give results, time-outs retire a core.  The model's choices that clauses of it rest on: triggers that boundaries bring (24), by the number of their entry in notes/assumptions. -/
def Obligations.AdcSequences : Prop :=
  -- R186, R187
  (∀ (d k : Fin 4) (s : State), s.get (ADC.SEQCFG_REG_TRIG d k) = 10 → s.get (ADC.SEQCFG_INJ_TRIG d k) ≠ 10 → s.dieRuns d = true →
    s.flag (ADC.ASTAT_RETIRED d k) = false → s.flag (ADC.ACFG_EN d k) = true → s.get (ADC.SEQCFG_REG_LEN d k) ≠ 0 →
    s.flag (ADC.ASTAT_REG_BUSY d k) = false → s.flag (ADC.ACFG_FWD_N d k) = false → (s.adc d k).injAt = none → s.mainRuns = true →
      Completes (exec (.timeEventArrival d) s) (fun t => (t.adc d k).reg = s.regEntries d k ∧ (t.adc d k).regAt = some 0 ∧
        t.flag (ADC.ASTAT_REG_BUSY d k) = true ∧ t.get (ADC.ASTAT_CUR_ENTRY d k) = 0)) ∧
  -- R186, R187
  (∀ (d k : Fin 4) (s : State), s.get (ADC.SEQCFG_INJ_TRIG d k) = 10 → s.get (ADC.SEQCFG_REG_TRIG d k) ≠ 10 → s.dieRuns d = true →
    s.flag (ADC.ASTAT_RETIRED d k) = false → s.flag (ADC.ACFG_EN d k) = true → s.get (ADC.SEQCFG_INJ_LEN d k) ≠ 0 → (s.adc d k).injAt = none →
    s.mainRuns = true →
      Completes (exec (.timeEventArrival d) s) (fun t => (t.adc d k).inj = s.injEntries d k ∧ (t.adc d k).injAt = some 0 ∧
        t.flag (ADC.ASTAT_INJ_BUSY d k) = true)) ∧
  -- R186, R187
  (∀ (d k : Fin 4) (m : Fin 4) (s : State), s.get (ADC.SEQCFG_REG_TRIG d k) = m.val + 1 → s.get (ADC.SEQCFG_INJ_TRIG d k) ≠ m.val + 1 →
    s.grpRuns d m = true → s.dieRuns d = true → (s.grp d m).mode = 0 → (s.grp d m).stopping = false → s.flag (ADC.ASTAT_RETIRED d k) = false →
    s.flag (ADC.ACFG_EN d k) = true → s.get (ADC.SEQCFG_REG_LEN d k) ≠ 0 → s.flag (ADC.ASTAT_REG_BUSY d k) = false →
    s.flag (ADC.ACFG_FWD_N d k) = false → (s.adc d k).injAt = none → s.mainRuns = true →
      Completes (exec (.controlPeriodBoundary d m) s) (fun t => t.flag (ADC.ASTAT_REG_BUSY d k) = true)) ∧
  -- R187
  (∀ (d k : Fin 4) (src : Fin 16) (s : State), src.val < 5 ∨ 9 < src.val → s.mainRuns = true →
      Completes (exec (.adcRegularTrigger d k src) s) (fun t => t = s)) ∧
  -- R187
  (∀ (d k : Fin 4) (src : Fin 16) (s : State), src.val < 5 ∨ 9 < src.val → s.mainRuns = true →
      Completes (exec (.adcInjectedTrigger d k src) s) (fun t => t = s)) ∧
  -- R186, R187
  (∀ (d k : Fin 4) (src : Fin 16) (s : State), 5 ≤ src.val → src.val ≤ 8 → s.get (ADC.SEQCFG_REG_TRIG d k) = src.val →
    (s.adc d k).regMark ≠ some (s.ttime d) → s.grpRuns d (src.val - 5) = true →
    s.get (PWM.CNT_COUNT d (src.val - 5)) = getBits (s.reg (ADC.RTRIG d k)) 0 20 → s.flag (ADC.ASTAT_RETIRED d k) = false →
    s.flag (ADC.ACFG_EN d k) = true → s.get (ADC.SEQCFG_REG_LEN d k) ≠ 0 → s.flag (ADC.ASTAT_REG_BUSY d k) = false →
    s.flag (ADC.ACFG_FWD_N d k) = false → (s.adc d k).injAt = none → s.mainRuns = true →
      Completes (exec (.adcRegularTrigger d k src) s) (fun t => (t.adc d k).reg = s.regEntries d k ∧ (t.adc d k).regAt = some 0 ∧
        t.flag (ADC.ASTAT_REG_BUSY d k) = true ∧ t.get (ADC.ASTAT_CUR_ENTRY d k) = 0)) ∧
  -- R186, R187
  (∀ (d k : Fin 4) (s : State), s.get (ADC.SEQCFG_REG_TRIG d k) = 9 → s.edgeTick d (s.adc d k).regEdge = true →
    s.flag (ADC.ASTAT_RETIRED d k) = false → s.flag (ADC.ACFG_EN d k) = true → s.get (ADC.SEQCFG_REG_LEN d k) ≠ 0 →
    s.flag (ADC.ASTAT_REG_BUSY d k) = false → s.flag (ADC.ACFG_FWD_N d k) = false → (s.adc d k).injAt = none → s.mainRuns = true →
      Completes (exec (.adcRegularTrigger d k 9) s) (fun t => (t.adc d k).reg = s.regEntries d k ∧ (t.adc d k).regAt = some 0 ∧
        t.flag (ADC.ASTAT_REG_BUSY d k) = true ∧ t.get (ADC.ASTAT_CUR_ENTRY d k) = 0)) ∧
  -- R187
  (∀ (d k : Fin 4) (src : Fin 16) (s : State), src.val ≠ 9 → (s.adc d k).regMark = some (s.ttime d) → s.mainRuns = true →
      Completes (exec (.adcRegularTrigger d k src) s) (fun t => t.regs = s.regs ∧ (t.adc d k).regAt = (s.adc d k).regAt)) ∧
  -- R186, R187
  (∀ (d k : Fin 4) (src : Fin 16) (s : State), 5 ≤ src.val → src.val ≤ 8 → s.get (ADC.SEQCFG_INJ_TRIG d k) = src.val →
    (s.adc d k).injMark ≠ some (s.ttime d) → s.grpRuns d (src.val - 5) = true →
    s.get (PWM.CNT_COUNT d (src.val - 5)) = getBits (s.reg (ADC.ITRIG d k)) 0 20 → s.flag (ADC.ASTAT_RETIRED d k) = false →
    s.flag (ADC.ACFG_EN d k) = true → s.get (ADC.SEQCFG_INJ_LEN d k) ≠ 0 → (s.adc d k).injAt = none → s.mainRuns = true →
      Completes (exec (.adcInjectedTrigger d k src) s) (fun t => (t.adc d k).inj = s.injEntries d k ∧ (t.adc d k).injAt = some 0 ∧
        t.flag (ADC.ASTAT_INJ_BUSY d k) = true)) ∧
  -- R186, R187
  (∀ (d k : Fin 4) (s : State), s.get (ADC.SEQCFG_INJ_TRIG d k) = 9 → s.edgeTick d (s.adc d k).injEdge = true →
    s.flag (ADC.ASTAT_RETIRED d k) = false → s.flag (ADC.ACFG_EN d k) = true → s.get (ADC.SEQCFG_INJ_LEN d k) ≠ 0 → (s.adc d k).injAt = none →
    s.mainRuns = true →
      Completes (exec (.adcInjectedTrigger d k 9) s) (fun t => (t.adc d k).inj = s.injEntries d k ∧ (t.adc d k).injAt = some 0 ∧
        t.flag (ADC.ASTAT_INJ_BUSY d k) = true)) ∧
  -- R187
  (∀ (d k : Fin 4) (src : Fin 16) (s : State), src.val ≠ 9 → (s.adc d k).injMark = some (s.ttime d) → s.mainRuns = true →
      Completes (exec (.adcInjectedTrigger d k src) s) (fun t => t.regs = s.regs ∧ (t.adc d k).injAt = (s.adc d k).injAt)) ∧
  -- R187
  (∀ (d k : Fin 4) (s : State), s.flag (ADC.ASTAT_RETIRED d k) = false → s.flag (ADC.ACFG_EN d k) = true → s.get (ADC.SEQCFG_REG_LEN d k) ≠ 0 →
    s.flag (ADC.ASTAT_REG_BUSY d k) = false → s.flag (ADC.ACFG_FWD_N d k) = false → (s.adc d k).injAt = none → s.mainRuns = true →
      Completes (exec (.swReg d k) s) (fun t => (t.adc d k).reg = s.regEntries d k ∧ (t.adc d k).regAt = some 0 ∧
        t.flag (ADC.ASTAT_REG_BUSY d k) = true ∧ t.get (ADC.ASTAT_CUR_ENTRY d k) = 0)) ∧
  -- R197
  (∀ (d k : Fin 4) (s : State), s.flag (ADC.ASTAT_RETIRED d k) = false → s.flag (ADC.ACFG_EN d k) = true → s.get (ADC.SEQCFG_REG_LEN d k) ≠ 0 →
    s.flag (ADC.ASTAT_REG_BUSY d k) = false → s.flag (ADC.ACFG_FWD_N d k) = true → (s.adc d k).injAt = none → (s.adc d k).lastTrig = none →
    s.mainRuns = true →
      Completes (exec (.swReg d k) s) (fun t => (t.adc d k).reg = s.regEntries d k ∧ (t.adc d k).regAt = some 0 ∧
        t.flag (ADC.ASTAT_REG_BUSY d k) = true ∧ t.get (ADC.ASTAT_CUR_ENTRY d k) = 0 ∧ t.out = ⟨.sampleFlit, (Die.drive d).code, [4 * d.val + k.val,
        s.ttime d, s.hopNow d]⟩ :: s.out)) ∧
  -- R197
  (∀ (d k : Fin 4) (l : Nat) (s : State), s.flag (ADC.ASTAT_RETIRED d k) = false → s.flag (ADC.ACFG_EN d k) = true →
    s.get (ADC.SEQCFG_REG_LEN d k) ≠ 0 → s.flag (ADC.ASTAT_REG_BUSY d k) = false → s.flag (ADC.ACFG_FWD_N d k) = true →
    (s.adc d k).lastTrig = some l → (s.ttime d + (2 ^ 48 - l)) % 2 ^ 48 < 1600 → s.mainRuns = true →
      Completes (exec (.swReg d k) s) (fun t => t.flag (ADC.ASTAT_TRIG_LOST d k) = true ∧ t.adcs = s.adcs)) ∧
  -- R187
  (∀ (d k : Fin 4) (s : State), s.flag (ADC.ASTAT_RETIRED d k) = false → s.flag (ADC.ACFG_EN d k) = true → s.get (ADC.SEQCFG_INJ_LEN d k) ≠ 0 →
    (s.adc d k).injAt = none → s.mainRuns = true →
      Completes (exec (.swInj d k) s) (fun t => (t.adc d k).inj = s.injEntries d k ∧ (t.adc d k).injAt = some 0 ∧
        t.flag (ADC.ASTAT_INJ_BUSY d k) = true)) ∧
  -- R188
  (∀ (d k : Fin 4) (s : State), s.flag (ADC.ASTAT_RETIRED d k) = false → s.flag (ADC.ACFG_EN d k) = true → s.get (ADC.SEQCFG_REG_LEN d k) ≠ 0 →
    s.flag (ADC.ASTAT_REG_BUSY d k) = true → s.mainRuns = true →
      Completes (exec (.swReg d k) s) (fun t => t.flag (ADC.ASTAT_TRIG_LOST d k) = true ∧
        t.get (ADC.ASTAT_LOST_CNT d k) = min (s.get (ADC.ASTAT_LOST_CNT d k) + 1) (2 ^ (ADC.ASTAT_LOST_CNT d k).w - 1) ∧ SameBut [.regs] s t ∧
        RegsBut [ADC.ASTAT d k] s t)) ∧
  -- R194
  (∀ (d k : Fin 4) (s : State), s.flag (ADC.ASTAT_RETIRED d k) = false → s.flag (ADC.ACFG_EN d k) = false → s.mainRuns = true →
      Completes (exec (.swReg d k) s) (fun t => t = s)) ∧
  -- R184
  (∀ (d k : Fin 4) (code : Int) (ovr : Bool) (i : Nat) (s : State), (s.adc d k).injAt = some i → i < 4 → (s.adc d k).deferred = false →
    s.mainRuns = true →
      Completes (exec (.adcConversionComplete d k code ovr) s) (fun t => t.reg (ADC.IRES d k i) = s.formResult d k true ((s.adc d k).inj.getD i 0x1A)
        i code ovr)) ∧
  -- R184
  (∀ (d k : Fin 4) (code : Int) (ovr : Bool) (e : Nat) (s : State), (s.adc d k).injAt = none → (s.adc d k).regAt = some e → e < 16 →
    s.get (ADC.ACFG_CLE_DST d k) = 1 → s.flag (ADC.ACFG_FWD_N d k) = false → s.mainRuns = true →
      Completes (exec (.adcConversionComplete d k code ovr) s) (fun t => t.reg (ADC.RRES d k e) = s.formResult d k false ((s.adc d k).reg.getD e
        0x1A) e code ovr ∧ t.cleData d 0 (16 * k.val + e) = t.reg (ADC.RRES d k e) ∧ MemBut (cleDataAddr d 0 (16 * k.val + e)) 4 s t)) ∧
  -- R195
  (∀ (d k : Fin 4) (s : State), (s.adc d k).regAt.isSome = true → s.mainRuns = true →
      Completes (exec (.adcConversionTimeout d k) s) (fun t => t.flag (ADC.ASTAT_RETIRED d k) = true ∧ (t.adc d k).regAt = none ∧
        (t.adc d k).injAt = none)) ∧
  -- R194
  (∀ (d k : Fin 4) (s : State), s.flag (ADC.ACFG_EN d k) = true → (s.adc d k).regAt.isSome = true → s.mainRuns = true →
    s.parityOk (ADC.ACFG d k) = true →
      Completes (exec (.adcDisable d k) s) (fun t => t.flag (ADC.ACFG_EN d k) = false ∧ (t.adc d k).stopping = true ∧ SameBut [.regs, .adcs] s t ∧
        RegsBut [ADC.ACFG d k] s t))

/-- Comparators follow their outputs, settle, latch and are checked.  The model's choices that clauses of it rest on: the level on CHK_OUT (5), by the number of their entry in notes/assumptions. -/
def Obligations.ComparatorsAndChecks : Prop :=
  -- R199, R204, R206
  (∀ (d : Fin 4) (i : Fin 16) (vin : Int) (v : Bool) (s : State), s.cmpSense d i vin = some v → s.flag (CMP.CCFG_EN d i) = true →
    s.flag (CMP.CSTAT_SETTLING d i) = false → s.flag (CMP.CSTAT_CHK_ACT d i) = false → s.flag (CMP.CSTAT_OUT d i) ≠ v → s.mainRuns = true →
      Completes (exec (.cmpOutChange d i vin) s) (fun t => t.flag (CMP.CSTAT_OUT d i) = v ∧ (v = true → t.flag (CMP.CSTAT_LAT d i) = true ∧
        t.get (CMP.CSTAT_EDGE_CNT d i) = min (s.get (CMP.CSTAT_EDGE_CNT d i) + 1) (2 ^ (CMP.CSTAT_EDGE_CNT d i).w - 1)))) ∧
  -- R199
  (∀ (d : Fin 4) (i : Fin 16) (vin : Int) (s : State), s.cmpSense d i vin = none →
      Completes (exec (.cmpOutChange d i vin) s) (fun t => t = s)) ∧
  -- R199
  (∀ (d : Fin 4) (i : Fin 16) (vin : Int) (s : State), s.cmpInv d i = false → 3300000000 * (s.thresh d i : Int) < 4096 * vin →
    s.flag (CMP.CCFG_EN d i) = true → s.flag (CMP.CSTAT_SETTLING d i) = false → s.flag (CMP.CSTAT_CHK_ACT d i) = false →
      Completes (exec (.cmpOutChange d i vin) s) (fun t => t.flag (CMP.CSTAT_OUT d i) = true)) ∧
  -- R200, R202
  (∀ (d : Fin 4) (i : Fin 16) (s : State), s.flag (CMP.CCFG_EN d i) = false → s.flag (CMP.CSTAT_CHK_ACT d i) = false → s.mainRuns = true →
    s.parityOk (CMP.CCFG d i) = true →
      Completes (exec (.cmpEnable d i) s) (fun t => t.flag (CMP.CCFG_EN d i) = true ∧ t.flag (CMP.CSTAT_OUT d i) = s.flag (CMP.CCFG_INIT d i) ∧
        t.flag (CMP.CSTAT_SETTLING d i) = true ∧ t.get (CMP.CSTAT_EDGE_CNT d i) = s.get (CMP.CSTAT_EDGE_CNT d i))) ∧
  -- R203
  (∀ (d : Fin 4) (i : Fin 16) (s : State), s.flag (CMP.CCFG_EN d i) = true → s.mainRuns = true → s.parityOk (CMP.CCFG d i) = true →
      Completes (exec (.cmpDisable d i) s) (fun t => t.flag (CMP.CCFG_EN d i) = false ∧ t.flag (CMP.CSTAT_OUT d i) = false ∧
        t.flag (CMP.CSTAT_LAT d i) = false ∧ t.get (CMP.CSTAT_EDGE_CNT d i) = s.get (CMP.CSTAT_EDGE_CNT d i))) ∧
  -- R202
  (∀ (d : Fin 4) (i : Fin 16) (vin : Int) (s : State), s.flag (CMP.CSTAT_SETTLING d i) = true → s.flag (CMP.CSTAT_CHK_ACT d i) = false →
    s.mainRuns = true →
      Completes (exec (.cmpSettlingEnd d i vin) s) (fun t => t.flag (CMP.CSTAT_SETTLING d i) = false ∧
        t.flag (CMP.CSTAT_OUT d i) = (s.cmpSense d i vin).getD (s.flag (CMP.CSTAT_OUT d i)) ∧ (s.cmpSense d i vin = none →
        t.flag (CMP.CSTAT_INBAND_AT_START d i) = true))) ∧
  -- R204
  (∀ (d : Fin 4) (i : Fin 16) (s : State), s.flag (CMP.CSTAT_CHK_ACT d i) = false → s.mainRuns = true →
      Completes (exec (.cmpLatWrite d i) s) (fun t => t.flag (CMP.CSTAT_LAT d i) = s.flag (CMP.CSTAT_OUT d i) ∧
        t.flag (CMP.CSTAT_OUT d i) = s.flag (CMP.CSTAT_OUT d i))) ∧
  -- R207
  (∀ (d : Fin 4) (i : Fin 16) (s : State), s.flag (CMP.CCFG_IRQ_EN d i) = true → 0 < (s.cmp d i).edges → s.mainRuns = true →
      Completes (exec (.cmpIrqEvent d i) s) (fun t => (t.cmp d i).edges = 0 ∧ t.out = ⟨.cmpEvent, (Die.drive d).code, [16 * d.val + i.val,
        min (s.cmp d i).edges 255, (s.reg (CMP.CCAPT d i)).toNat, (s.reg (CMP.CCAPC d i)).toNat]⟩ :: s.out ∧ SameBut [.cmps, .out] s t)) ∧
  -- R209
  (∀ (d : Fin 4) (i : Fin 16) (v : Fin 8) (free : Bool) (s : State), 1 ≤ v.val → v.val ≤ 4 → s.checkAllowed d i = true → s.mainRuns = true →
      Completes (exec (.cmpChkWrite d i v free) s) (fun t => t.get (CMP.CTEST_CHK d i) = v.val ∧ t.flag (CMP.CSTAT_CHK_ACT d i) = true ∧
        t.flag (CMP.CSTAT_CHK_OUT d i) = s.checkShows d i v free ∧ t.flag (CMP.CSTAT_OUT d i) = s.flag (CMP.CSTAT_OUT d i) ∧ SameBut [.regs,
        .cmps] s t ∧ RegsBut [(CMP.CTEST_CHK d i).addr, (CMP.CSTAT_CHK_ACT d i).addr, (CMP.CSTAT_CHK_OUT d i).addr] s t)) ∧
  -- R209
  (∀ (d : Fin 4) (i : Fin 16) (v : Fin 8) (free : Bool) (s : State), v = 2 ∨ v = 3 → s.checkAllowed d i = true → s.cmpInv d i = false →
    373 ≤ s.thresh d i → s.thresh d i ≤ 3723 → s.mainRuns = true →
      Completes (exec (.cmpChkWrite d i v free) s) (fun t => t.flag (CMP.CSTAT_CHK_OUT d i) = decide (v = 2))) ∧
  -- R210
  (∀ (d : Fin 4) (i : Fin 16) (v : Fin 8) (free : Bool) (s : State), 1 ≤ v.val → v.val ≤ 4 → s.checkAllowed d i = false → s.mainRuns = true →
      Completes (exec (.cmpChkWrite d i v free) s) (fun t => t.flag (CMP.CSTAT_CHK_REJ d i) = true ∧
        t.get (CMP.CTEST_CHK d i) = s.get (CMP.CTEST_CHK d i) ∧ SameBut [.regs] s t ∧ RegsBut [(CMP.CSTAT_CHK_REJ d i).addr] s t)) ∧
  -- R209, R211
  (∀ (d : Fin 4) (i : Fin 16) (v : Fin 8) (free : Bool) (s : State), 4 < v.val → s.flag (CMP.CSTAT_CHK_ACT d i) = true → s.mainRuns = true →
      Completes (exec (.cmpChkWrite d i v free) s) (fun t => t.get (CMP.CTEST_CHK d i) = 0 ∧ t.flag (CMP.CSTAT_CHK_ACT d i) = false ∧
        t.flag (CMP.CSTAT_SETTLING d i) = s.flag (CMP.CCFG_EN d i)))

/-- An enabled position interface latches its configuration; an encoder counts its edges and captures at Z.  The model's choices that clauses of it rest on: the direction of counting (27) and the resolver terms (26), by the number of their entry in notes/assumptions. -/
def Obligations.PositionInterfaces : Prop :=
  -- R212
  (∀ (d : Fin 4) (p : Fin 2) (s : State), s.flag (PI.PICFG_EN d p) = false → s.mainRuns = true → s.parityOk (PI.PICFG d p) = true →
      Completes (exec (.piEnable d p) s) (fun t => t.flag (PI.PICFG_EN d p) = true ∧ (t.pi d p).encoder = s.flag (PI.PICFG_TYPE d p) ∧
        (t.pi d p).grp = s.get (PI.PICFG_GRP d p) ∧ (t.pi d p).zrst = s.flag (PI.PICFG_ZRST d p) ∧ (t.pi d p).filt = s.get (PI.PICFG_FILT d p) ∧
        (t.pi d p).src = s.reg (PI.PISRC d p) ∧ SameBut [.regs, .pis] s t ∧ RegsBut [PI.PICFG d p] s t)) ∧
  -- R216
  (∀ (d : Fin 4) (p : Fin 2) (a b : Bool) (s : State), s.flag (PI.PICFG_EN d p) = true → (s.pi d p).encoder = true →
    ((s.pi d p).a ≠ a) ≠ ((s.pi d p).b ≠ b) → (s.pi d p).zTick ≠ some (s.ttime d) → s.mainRuns = true →
      Completes (exec (.encoderEdge d p a b) s) (fun t => (t.getS (PI.PIPOS_POS d p) - s.getS (PI.PIPOS_POS d p) - quadStep (s.pi d p).a (s.pi d p).b
        a b) % 2 ^ 32 = 0 ∧ SameBut [.regs, .pis] s t ∧ RegsBut [PI.PIPOS d p] s t)) ∧
  -- R218
  (∀ (d : Fin 4) (p : Fin 2) (a b : Bool) (s : State), ((s.pi d p).a ≠ a) ≠ ((s.pi d p).b ≠ b) → (s.pi d p).zTick = some (s.ttime d) →
    s.mainRuns = true →
      Completes (exec (.encoderEdge d p a b) s) (fun t => t.get (PI.PIPOS_POS d p) = s.get (PI.PIPOS_POS d p))) ∧
  -- R216
  (∀ (d : Fin 4) (p : Fin 2) (a b : Bool) (s : State), s.flag (PI.PICFG_EN d p) = true → (s.pi d p).encoder = true → (s.pi d p).a ≠ a →
    (s.pi d p).b ≠ b → s.mainRuns = true →
      Completes (exec (.encoderEdge d p a b) s) (fun t => t.flag (PI.PISTAT_ENC_ERR d p) = true ∧
        t.get (PI.PIPOS_POS d p) = s.get (PI.PIPOS_POS d p))) ∧
  -- R218
  (∀ (d : Fin 4) (p : Fin 2) (s : State), s.flag (PI.PICFG_EN d p) = true → (s.pi d p).encoder = true → (s.pi d p).a = true → (s.pi d p).b = true →
    s.mainRuns = true →
      Completes (exec (.encoderZEdge d p) s) (fun t => t.get (PI.PIZCAP_ZCAP d p) = s.get (PI.PIPOS_POS d p) ∧ t.flag (PI.PISTAT_Z_SEEN d p) = true ∧
        t.get (PI.PIPOS_POS d p) = (if (s.pi d p).zrst then 0 else s.get (PI.PIPOS_POS d p)) ∧ SameBut [.regs, .pis] s t ∧ RegsBut [PI.PIZCAP d p,
        PI.PISTAT d p, PI.PIPOS d p] s t))

/-- Loads and moves of the control-law engine; its enabling, starts, ends, memory and the commit of commands. -/
def Obligations.CleMovesAndControl : Prop :=
  -- R239
  (∀ (d : Fin 4) (c : Fin 2) (s : State), s.cleReady d c 0x00 = true → s.mainRuns = true →
      Completes (exec (.cleNop d c) s) (fun t => t.cle d c = ({ ((s.cle d c)) with cyc := (s.cle d c).cyc + 1 } : CleCore).advance ∧
        SameBut [.cles] s t ∧ (∀ i : Nat, i ≠ 2 * d.val + c.val → vget t.cles i = vget s.cles i))) ∧
  -- R239
  (∀ (d : Fin 4) (c : Fin 2) (s : State), s.cleReady d c 0x02 = true → s.mainRuns = true →
      Completes (exec (.cleLd d c) s) (fun t => t.cle d c =
        ({ ((s.cle d c).setReg (fD (s.cleWord d c)) (s.cleData d c (fM (s.cleWord d c)))) with cyc := (s.cle d c).cyc + 2 } : CleCore).advance ∧
        SameBut [.cles] s t ∧ (∀ i : Nat, i ≠ 2 * d.val + c.val → vget t.cles i = vget s.cles i))) ∧
  -- R239
  (∀ (d : Fin 4) (c : Fin 2) (s : State), s.cleReady d c 0x03 = true → s.mainRuns = true →
      Completes (exec (.cleLdx d c) s) (fun t => t.cle d c =
        ({ ((s.cle d c).setReg (fD (s.cleWord d c)) (s.cleData d c ((getBits ((s.cle d c).reg (fA (s.cleWord d c))) 0 9 + fM (s.cleWord d c)) % 512))) with cyc := (s.cle d c).cyc + 2 }
        : CleCore).advance ∧ SameBut [.cles] s t ∧ (∀ i : Nat, i ≠ 2 * d.val + c.val → vget t.cles i = vget s.cles i))) ∧
  -- R239
  (∀ (d : Fin 4) (c : Fin 2) (s : State), s.cleReady d c 0x06 = true → s.mainRuns = true →
      Completes (exec (.cleLdi d c) s) (fun t => t.cle d c =
        ({ ((s.cle d c).setReg (fD (s.cleWord d c)) (BitVec.ofInt 32 (toSigned 16 (getBits (s.cleWord d c) 0 16)))) with cyc := (s.cle d c).cyc + 1 }
        : CleCore).advance ∧ SameBut [.cles] s t ∧ (∀ i : Nat, i ≠ 2 * d.val + c.val → vget t.cles i = vget s.cles i))) ∧
  -- R239, R241
  (∀ (d : Fin 4) (c : Fin 2) (s : State), s.cleReady d c 0x07 = true → s.mainRuns = true →
      Completes (exec (.cleLdc d c) s) (fun t => t.cle d c =
        ({ ((s.cle d c).setReg (fD (s.cleWord d c)) (s.cleData d c (s.coefWord d c (fK (s.cleWord d c))))) with cyc := (s.cle d c).cyc + 2 } :
        CleCore).advance ∧ SameBut [.cles] s t ∧ (∀ i : Nat, i ≠ 2 * d.val + c.val → vget t.cles i = vget s.cles i))) ∧
  -- R220
  (∀ (d : Fin 4) (c : Fin 2) (s : State), s.flag (CLE.CLECFG_EN d c) = false → s.mainRuns = true → s.parityOk (CLE.CLECFG d c) = true →
      Completes (exec (.cleEnable d c) s) (fun t => t.flag (CLE.CLECFG_EN d c) = true ∧
        t.cle d c = { sched := s.get (CLE.CLECFG_SCHED d c), first := true, lastPcnt := (s.cle d c).lastPcnt, rptEn := (s.cle d c).rptEn } ∧
        t.get (CLE.CYC_MAX_CYC d c) = 0 ∧ SameBut [.regs, .cles] s t ∧ RegsBut [CLE.CLECFG d c, CLE.CYC d c] s t)) ∧
  -- R621
  (∀ (d : Fin 4) (c : Fin 2) (s : State), s.flag (CLE.CLECFG_EN d c) = true → s.mainRuns = true → s.parityOk (CLE.CLECFG d c) = true →
      Completes (exec (.cleDisable d c) s) (fun t => t.flag (CLE.CLECFG_EN d c) = false ∧ t.flag (CLE.FLAGS_RUNNING d c) = false ∧
        (t.cle d c).deliver = false ∧ (t.cle d c).v = (s.cle d c).v ∧ SameBut [.regs, .cles] s t ∧ RegsBut [CLE.CLECFG d c, CLE.FLAGS d c] s t)) ∧
  -- R227
  (∀ (d : Fin 4) (c : Fin 2) (s : State), (s.cle d c).scheduled = true → s.flag (CLE.CLECFG_EN d c) = true → s.dieRuns d = true → s.mainRuns = true →
      Completes (exec (.cleProgramStart d c) s) (fun t => t.flag (CLE.FLAGS_RUNNING d c) = true ∧ (t.cle d c).pc = s.cbEntry d c ∧
        (t.cle d c).cyc = 0 ∧ SameBut [.regs, .cles] s t ∧ RegsBut [CLE.FLAGS d c] s t)) ∧
  -- R244
  (∀ (d : Fin 4) (c : Fin 2) (s : State), s.mainRuns = true →
      Completes (exec (.cleEccCorrect d c) s) (fun t => t.get (CLE.ECC_ECC_CNT d c) = min (s.get (CLE.ECC_ECC_CNT d c) + 1) (2 ^ (CLE.ECC_ECC_CNT d
        c).w - 1) ∧ SameBut [.regs] s t ∧ RegsBut [CLE.ECC d c] s t)) ∧
  -- R244
  (∀ (d : Fin 4) (c : Fin 2) (m : Fin 4) (a : BitVec 12) (s : State), s.mainRuns = true →
      Completes (exec (.cleEccUncorrectable d c m a) s) (fun t => t.flag (CLE.FLAGS_ECC_UE d c) = true ∧ t.flag (CLE.FLAGS_RETIRED d c) = true ∧
        t.get (CLE.ECC_UE_MEM d c) = m.val ∧ t.flag (CLE.FLAGS_CLE_OVERRUN d c) = true ∧ t.flag (CLE.FLAGS_RUNNING d c) = false)) ∧
  -- R249
  (∀ (d : Fin 4) (c : Fin 2) (m : Fin 4) (w : BitVec 12) (x : Word) (s : State), w.toNat < cleMemWords m → s.cleWriteRefused d c m w.toNat = false →
    s.mainRuns = true →
      Completes (exec (.cleMemoryWrite d c m w x) s) (fun t => t.memWord (cleMemBase d c m + 4 * w.toNat) = x ∧ SameBut [.mem] s t ∧
        MemBut (cleMemBase d c m + 4 * w.toNat) 4 s t)) ∧
  -- R249
  (∀ (d : Fin 4) (c : Fin 2) (m : Fin 4) (w : BitVec 12) (x : Word) (s : State), w.toNat < cleMemWords m → s.cleWriteRefused d c m w.toNat = true →
    s.mainRuns = true →
      Completes (exec (.cleMemoryWrite d c m w x) s) (fun t => t.flag (CLE.FLAGS_CLE_WR_REJ d c) = true ∧ t.mem = s.mem ∧ SameBut [.regs] s t ∧
        RegsBut [CLE.FLAGS d c] s t)) ∧
  -- R18
  (∀ (d : Fin 4) (c : Fin 2) (s : State), s.mainRuns = true →
      Completes (exec (.cwCommit d c) s) (fun t => t.flag (CLE.CW_COMMIT_COMMIT d c) = true ∧ SameBut [.regs] s t ∧ RegsBut [CLE.CW_COMMIT d c] s t)) ∧
  -- R245, R246
  (∀ (d k : Fin 4) (s : State), s.grpRuns d k = true → variableMode (s.grp d k).mode = false → s.dieRuns d = true →
    s.flag (CLE.CLECFG_EN d 0) = true → (s.cle d 0).sched = k.val → s.flag (CLE.CLECFG_EN d 1) = false → (s.cle d 0).deliver = true →
    (s.cle d 0).marks = 2 ^ 32 → s.mainRuns = true →
      Completes (exec (.writePointDelivery d k) s) (fun t => t.reg (CLE.REPORT d 0 0) = s.cleData d 0 0xC0 ∧ (t.cle d 0).deliver = false ∧
        (t.cle d 0).lastPcnt = s.get (PWM.CNT_PCNT d k) ∧ SameBut [.regs, .cles] s t ∧ RegsBut [CLE.REPORT d 0 0] s t))

/-- The register instructions: the saturated result in the destination register, and nothing else of the part. -/
def Obligations.CleArithmetic : Prop :=
  -- R239
  (∀ (d : Fin 4) (c : Fin 2) (s : State), s.cleReady d c 0x08 = true → s.mainRuns = true →
      Completes (exec (.cleExt d c) s) (fun t => t.cle d c =
        ({ ((s.cle d c).setReg (fD (s.cleWord d c)) (sat32 (extValue (getBits (s.cleWord d c) 0 2) ((s.cle d c).reg (fA (s.cleWord d c)))))) with cyc := (s.cle d c).cyc + 1 }
        : CleCore).advance ∧ SameBut [.cles] s t ∧ (∀ i : Nat, i ≠ 2 * d.val + c.val → vget t.cles i = vget s.cles i))) ∧
  -- R239
  (∀ (d : Fin 4) (c : Fin 2) (s : State), s.cleReady d c 0x09 = true → s.mainRuns = true →
      Completes (exec (.cleAdd d c) s) (fun t => t.cle d c =
        ({ ((s.cle d c).setReg (fD (s.cleWord d c)) (sat32 ((s.cle d c).val (fA (s.cleWord d c)) + (s.cle d c).val (fB (s.cleWord d c))))) with cyc := (s.cle d c).cyc + 1 }
        : CleCore).advance ∧ SameBut [.cles] s t ∧ (∀ i : Nat, i ≠ 2 * d.val + c.val → vget t.cles i = vget s.cles i))) ∧
  -- R239
  (∀ (d : Fin 4) (c : Fin 2) (s : State), s.cleReady d c 0x0A = true → s.mainRuns = true →
      Completes (exec (.cleSub d c) s) (fun t => t.cle d c =
        ({ ((s.cle d c).setReg (fD (s.cleWord d c)) (sat32 ((s.cle d c).val (fA (s.cleWord d c)) - (s.cle d c).val (fB (s.cleWord d c))))) with cyc := (s.cle d c).cyc + 1 }
        : CleCore).advance ∧ SameBut [.cles] s t ∧ (∀ i : Nat, i ≠ 2 * d.val + c.val → vget t.cles i = vget s.cles i))) ∧
  -- R239
  (∀ (d : Fin 4) (c : Fin 2) (s : State), s.cleReady d c 0x0B = true → s.mainRuns = true →
      Completes (exec (.cleAbs d c) s) (fun t => t.cle d c =
        ({ ((s.cle d c).setReg (fD (s.cleWord d c)) (sat32 ((s.cle d c).val (fA (s.cleWord d c))).natAbs)) with cyc := (s.cle d c).cyc + 1 } :
        CleCore).advance ∧ SameBut [.cles] s t ∧ (∀ i : Nat, i ≠ 2 * d.val + c.val → vget t.cles i = vget s.cles i))) ∧
  -- R239
  (∀ (d : Fin 4) (c : Fin 2) (s : State), s.cleReady d c 0x0C = true → s.mainRuns = true →
      Completes (exec (.cleMin d c) s) (fun t => t.cle d c =
        ({ ((s.cle d c).setReg (fD (s.cleWord d c)) (sat32 (min ((s.cle d c).val (fA (s.cleWord d c))) ((s.cle d c).val (fB (s.cleWord d c)))))) with cyc := (s.cle d c).cyc + 1 }
        : CleCore).advance ∧ SameBut [.cles] s t ∧ (∀ i : Nat, i ≠ 2 * d.val + c.val → vget t.cles i = vget s.cles i))) ∧
  -- R239
  (∀ (d : Fin 4) (c : Fin 2) (s : State), s.cleReady d c 0x0D = true → s.mainRuns = true →
      Completes (exec (.cleMax d c) s) (fun t => t.cle d c =
        ({ ((s.cle d c).setReg (fD (s.cleWord d c)) (sat32 (max ((s.cle d c).val (fA (s.cleWord d c))) ((s.cle d c).val (fB (s.cleWord d c)))))) with cyc := (s.cle d c).cyc + 1 }
        : CleCore).advance ∧ SameBut [.cles] s t ∧ (∀ i : Nat, i ≠ 2 * d.val + c.val → vget t.cles i = vget s.cles i))) ∧
  -- R239
  (∀ (d : Fin 4) (c : Fin 2) (s : State), s.cleReady d c 0x0E = true → s.mainRuns = true →
      Completes (exec (.cleAsh d c) s) (fun t => t.cle d c =
        ({ ((s.cle d c).setReg (fD (s.cleWord d c)) (sat32 (ashValue ((s.cle d c).val (fA (s.cleWord d c))) (toSigned 6 (getBits (s.cleWord d c) 0 6))))) with cyc := (s.cle d c).cyc + 1 }
        : CleCore).advance ∧ SameBut [.cles] s t ∧ (∀ i : Nat, i ≠ 2 * d.val + c.val → vget t.cles i = vget s.cles i))) ∧
  -- R239
  (∀ (d : Fin 4) (c : Fin 2) (s : State), s.cleReady d c 0x0F = true → s.mainRuns = true →
      Completes (exec (.cleAnd d c) s) (fun t => t.cle d c =
        ({ ((s.cle d c).setReg (fD (s.cleWord d c)) ((s.cle d c).reg (fA (s.cleWord d c)) &&& (s.cle d c).reg (fB (s.cleWord d c)))) with cyc := (s.cle d c).cyc + 1 }
        : CleCore).advance ∧ SameBut [.cles] s t ∧ (∀ i : Nat, i ≠ 2 * d.val + c.val → vget t.cles i = vget s.cles i))) ∧
  -- R239
  (∀ (d : Fin 4) (c : Fin 2) (s : State), s.cleReady d c 0x10 = true → s.mainRuns = true →
      Completes (exec (.cleSel d c) s) (fun t => t.cle d c =
        ({ ((s.cle d c).setReg (fD (s.cleWord d c)) (if 0 ≤ (s.cle d c).val (getBits (s.cleWord d c) 6 5) then (s.cle d c).reg (fA (s.cleWord d c)) else (s.cle d c).reg (fB (s.cleWord d c)))) with cyc := (s.cle d c).cyc + 1 }
        : CleCore).advance ∧ SameBut [.cles] s t ∧ (∀ i : Nat, i ≠ 2 * d.val + c.val → vget t.cles i = vget s.cles i))) ∧
  -- R239
  (∀ (d : Fin 4) (c : Fin 2) (s : State), s.cleReady d c 0x1B = true → s.mainRuns = true →
      Completes (exec (.cleRcp d c) s) (fun t => t.cle d c =
        ({ ((s.cle d c).setReg (fD (s.cleWord d c)) (sat32 (if (s.cle d c).val (fA (s.cleWord d c)) ≤ 0 then 2 ^ 31 - 1 else 2 ^ 60 / (s.cle d c).val (fA (s.cleWord d c))))) with cyc := (s.cle d c).cyc + 6 }
        : CleCore).advance ∧ SameBut [.cles] s t ∧ (∀ i : Nat, i ≠ 2 * d.val + c.val → vget t.cles i = vget s.cles i)))

/-- The multiplies, the accumulators, the rotations and the tables.  The model's choices that clauses of it rest on: SINCOS within its bound and the rounding of PARK (28), by the number of their entry in notes/assumptions. -/
def Obligations.CleMultiply : Prop :=
  -- R239
  (∀ (d : Fin 4) (c : Fin 2) (s : State), s.cleReady d c 0x11 = true → s.mainRuns = true →
      Completes (exec (.cleMul d c) s) (fun t => t.cle d c =
        ({ ((s.cle d c).setReg (fD (s.cleWord d c)) (sat32 (shiftRound ((s.cle d c).val (fA (s.cleWord d c)) * (s.cle d c).val (fB (s.cleWord d c))) (fS (s.cleWord d c))))) with cyc := (s.cle d c).cyc + 2 }
        : CleCore).advance ∧ SameBut [.cles] s t ∧ (∀ i : Nat, i ≠ 2 * d.val + c.val → vget t.cles i = vget s.cles i))) ∧
  -- R239
  (∀ (d : Fin 4) (c : Fin 2) (s : State), s.cleReady d c 0x12 = true → s.mainRuns = true →
      Completes (exec (.cleMulc d c) s) (fun t => t.cle d c =
        ({ ((s.cle d c).setReg (fD (s.cleWord d c)) (sat32 (s.coefProduct d c (s.cleWord d c) (s.cle d c)))) with cyc := (s.cle d c).cyc + 2 } :
        CleCore).advance ∧ SameBut [.cles] s t ∧ (∀ i : Nat, i ≠ 2 * d.val + c.val → vget t.cles i = vget s.cles i))) ∧
  -- R239
  (∀ (d : Fin 4) (c : Fin 2) (s : State), s.cleReady d c 0x13 = true → s.mainRuns = true →
      Completes (exec (.cleMac d c) s) (fun t => t.cle d c =
        ({ ((s.cle d c).setAcc (fN (s.cleWord d c)) (sat64 ((s.cle d c).accVal (fN (s.cleWord d c)) + shiftRound ((s.cle d c).val (fA (s.cleWord d c)) * (s.cle d c).val (fB (s.cleWord d c))) (fS (s.cleWord d c))))) with cyc := (s.cle d c).cyc + 2 }
        : CleCore).advance ∧ SameBut [.cles] s t ∧ (∀ i : Nat, i ≠ 2 * d.val + c.val → vget t.cles i = vget s.cles i))) ∧
  -- R239
  (∀ (d : Fin 4) (c : Fin 2) (s : State), s.cleReady d c 0x14 = true → s.mainRuns = true →
      Completes (exec (.cleMacc d c) s) (fun t => t.cle d c =
        ({ ((s.cle d c).setAcc (fN (s.cleWord d c)) (sat64 ((s.cle d c).accVal (fN (s.cleWord d c)) + s.coefProduct d c (s.cleWord d c) (s.cle d c)))) with cyc := (s.cle d c).cyc + 2 }
        : CleCore).advance ∧ SameBut [.cles] s t ∧ (∀ i : Nat, i ≠ 2 * d.val + c.val → vget t.cles i = vget s.cles i))) ∧
  -- R239
  (∀ (d : Fin 4) (c : Fin 2) (s : State), s.cleReady d c 0x15 = true → s.mainRuns = true →
      Completes (exec (.cleLda d c) s) (fun t => t.cle d c =
        ({ ((s.cle d c).setAcc (fN (s.cleWord d c)) (sat64 ((s.cle d c).val (fA (s.cleWord d c)) * 2 ^ fS (s.cleWord d c)))) with cyc := (s.cle d c).cyc + 1 }
        : CleCore).advance ∧ SameBut [.cles] s t ∧ (∀ i : Nat, i ≠ 2 * d.val + c.val → vget t.cles i = vget s.cles i))) ∧
  -- R239
  (∀ (d : Fin 4) (c : Fin 2) (s : State), s.cleReady d c 0x16 = true → s.mainRuns = true →
      Completes (exec (.cleMova d c) s) (fun t => t.cle d c =
        ({ ((s.cle d c).setReg (fD (s.cleWord d c)) (sat32 (shiftRound ((s.cle d c).accVal (getBits (s.cleWord d c) 16 2)) (fS (s.cleWord d c))))) with cyc := (s.cle d c).cyc + 1 }
        : CleCore).advance ∧ SameBut [.cles] s t ∧ (∀ i : Nat, i ≠ 2 * d.val + c.val → vget t.cles i = vget s.cles i))) ∧
  -- R239
  (∀ (d : Fin 4) (c : Fin 2) (s : State), s.cleReady d c 0x18 = true → s.mainRuns = true →
      Completes (exec (.clePark d c) s) (fun t => t.cle d c = ({ (parkPair 1 (s.cleWord d c) (s.cle d c)) with cyc := (s.cle d c).cyc + 3 } :
        CleCore).advance ∧ SameBut [.cles] s t ∧ (∀ i : Nat, i ≠ 2 * d.val + c.val → vget t.cles i = vget s.cles i))) ∧
  -- R239
  (∀ (d : Fin 4) (c : Fin 2) (s : State), s.cleReady d c 0x19 = true → s.mainRuns = true →
      Completes (exec (.cleIpark d c) s) (fun t => t.cle d c = ({ (parkPair (-1) (s.cleWord d c) (s.cle d c)) with cyc := (s.cle d c).cyc + 3 } :
        CleCore).advance ∧ SameBut [.cles] s t ∧ (∀ i : Nat, i ≠ 2 * d.val + c.val → vget t.cles i = vget s.cles i))) ∧
  -- R239
  (∀ (d : Fin 4) (c : Fin 2) (s : State), s.cleReady d c 0x1A = true → s.mainRuns = true →
      Completes (exec (.cleLut d c) s) (fun t => t.cle d c =
        ({ ((s.cle d c).setReg (fD (s.cleWord d c)) (sat32 (s.lutValue d c (getBits (s.cleWord d c) 0 1) (getBits ((s.cle d c).reg (fA (s.cleWord d c))) 0 16)))) with cyc := (s.cle d c).cyc + 3 }
        : CleCore).advance ∧ SameBut [.cles] s t ∧ (∀ i : Nat, i ≠ 2 * d.val + c.val → vget t.cles i = vget s.cles i))) ∧
  -- R239
  (∀ (d : Fin 4) (c : Fin 2) (s : State), s.cleReady d c 0x17 = true → s.mainRuns = true →
      Completes (exec (.cleSincos d c) s) (fun t => t.cle d c =
        ({ (((s.cle d c).setReg (pairOf (fD (s.cleWord d c))) (sat32 (sincosValue false (getBits ((s.cle d c).reg (fA (s.cleWord d c))) 0 16)))).setReg (pairOf (fD (s.cleWord d c)) + 1) (sat32 (sincosValue true (getBits ((s.cle d c).reg (fA (s.cleWord d c))) 0 16)))) with cyc := (s.cle d c).cyc + 4 }
        : CleCore).advance ∧ SameBut [.cles] s t ∧ (∀ i : Nat, i ≠ 2 * d.val + c.val → vget t.cles i = vget s.cles i))) ∧
  -- R239
  (∀ (cosine : Bool) (a : Nat), (sin64 cosine a).natAbs ≤ 2 ^ 64 →
      (2 ^ 33 * sincosValue cosine a - sin64 cosine a).natAbs ≤ 2 ^ 38)

/-- Stores, END, branches, loops, illegal instructions and overruns. -/
def Obligations.CleStoresAndBranches : Prop :=
  -- R240
  (∀ (d : Fin 4) (c : Fin 2) (s : State), s.cleReady d c 0x04 = true → 0xA0 ≤ fM (s.cleWord d c) → fM (s.cleWord d c) < 0xC8 → s.mainRuns = true →
      Completes (exec (.cleSt d c) s) (fun t => t.cleData d c (fM (s.cleWord d c)) = (s.cle d c).reg (fA (s.cleWord d c)) ∧
        (t.cle d c).marks.testBit (fM (s.cleWord d c) - 0xA0) = true ∧ t.regs = s.regs ∧ SameBut [.mem, .cles] s t ∧
        MemBut (cleDataAddr d c (fM (s.cleWord d c))) 4 s t)) ∧
  -- R240
  (∀ (d : Fin 4) (c : Fin 2) (s : State), s.cleReady d c 0x04 = true → fM (s.cleWord d c) < 0xA0 ∨ (0xC8 ≤ fM (s.cleWord d c) ∧
    fM (s.cleWord d c) < 0x170) → s.mainRuns = true →
      Completes (exec (.cleSt d c) s) (fun t => t.flag (CLE.FLAGS_ST_ERR d c) = true ∧ t.mem = s.mem ∧ (t.cle d c).marks = (s.cle d c).marks ∧
        SameBut [.regs, .cles] s t ∧ RegsBut [CLE.FLAGS d c] s t)) ∧
  -- R240
  (∀ (d : Fin 4) (c : Fin 2) (m : Nat) (s : State), s.cleReady d c 0x05 = true →
    m = (getBits ((s.cle d c).reg (fB (s.cleWord d c))) 0 9 + fM (s.cleWord d c)) % 512 → 0x170 ≤ m → s.mainRuns = true →
      Completes (exec (.cleStx d c) s) (fun t => t.cleData d c m = (s.cle d c).reg (fA (s.cleWord d c)) ∧ t.regs = s.regs ∧ SameBut [.mem,
        .cles] s t ∧ MemBut (cleDataAddr d c m) 4 s t)) ∧
  -- R228
  (∀ (d : Fin 4) (c : Fin 2) (s : State), s.cleReady d c 0x01 = true → (s.cle d c).cyc < 65535 → s.mainRuns = true →
      Completes (exec (.cleEnd d c) s) (fun t => t.flag (CLE.FLAGS_RUNNING d c) = false ∧ t.get (CLE.CYC_LAST_CYC d c) = (s.cle d c).cyc ∧
        t.get (CLE.CYC_MAX_CYC d c) = max (s.get (CLE.CYC_MAX_CYC d c)) (s.cle d c).cyc ∧ SameBut [.regs, .cles] s t ∧ RegsBut [CLE.FLAGS d c,
        CLE.CYC d c] s t)) ∧
  -- R239, R243
  (∀ (d : Fin 4) (c : Fin 2) (s : State), s.cleReady d c 0x1C = true → s.mainRuns = true →
      Completes (exec (.cleBr d c) s) (fun t => t.cle d c = (if brTaken (getBits (s.cleWord d c) 24 2) ((s.cle d c).val (fA (s.cleWord d c))) then
        { s.cle d c with cyc := (s.cle d c).cyc + 2, pc := 2048 * ((s.cle d c).pc / 2048) + getBits (s.cleWord d c) 0 11, loop := none } else
        ({ s.cle d c with cyc := (s.cle d c).cyc + 2 } : CleCore).advance) ∧ SameBut [.cles] s t ∧ (∀ i : Nat, i ≠ 2 * d.val + c.val →
        vget t.cles i = vget s.cles i))) ∧
  -- R239
  (∀ (d : Fin 4) (c : Fin 2) (s : State), s.cleReady d c 0x1D = true → s.mainRuns = true →
      Completes (exec (.cleLoop d c) s) (fun t => t.cle d c =
        { s.cle d c with cyc := (s.cle d c).cyc + 1, pc := nextPc (s.cle d c).pc, loop := some ⟨((s.cle d c).pc + 1) % 2048, getBits (s.cleWord d c) 0 11, getBits (s.cleWord d c) 16 10 + 1⟩ }
        ∧ SameBut [.cles] s t ∧ (∀ i : Nat, i ≠ 2 * d.val + c.val → vget t.cles i = vget s.cles i))) ∧
  -- R241
  (∀ (d : Fin 4) (c : Fin 2) (s : State), s.flag (CLE.FLAGS_RUNNING d c) = true → s.dieRuns d = true → s.cleIllegal d c = true →
    (s.cle d c).cyc < s.cbLen d c → s.mainRuns = true →
      Completes (exec (.cleIllegalOp d c) s) (fun t => t.flag (CLE.FLAGS_ILL_OP d c) = true ∧ t.flag (CLE.FLAGS_CLE_OVERRUN d c) = true ∧
        t.flag (CLE.FLAGS_RUNNING d c) = false ∧ t.get (CLE.CYC_LAST_CYC d c) = 0xFFFF ∧ (t.cle d c).deliver = false)) ∧
  -- R229
  (∀ (d : Fin 4) (c : Fin 2) (s : State), s.flag (CLE.FLAGS_RUNNING d c) = true → s.dieRuns d = true → s.cbLen d c ≤ (s.cle d c).cyc →
    s.mainRuns = true →
      Completes (exec (.cleOverrunStop d c) s) (fun t => t.flag (CLE.FLAGS_CLE_OVERRUN d c) = true ∧ t.flag (CLE.FLAGS_RUNNING d c) = false ∧
        t.get (CLE.CYC_LAST_CYC d c) = 0xFFFF ∧ (t.cle d c).deliver = false))

/-- GRID_EN is taken or refused; curves are written; a die connects, waits out RC and disconnects.  The model's choices that clauses of it rest on: CONNECT and a pending OPEN (29), by the number of their entry in notes/assumptions. -/
def Obligations.GridConnection : Prop :=
  -- R254
  (∀ (d : Fin 4) (s : State), s.flag (GSU.GCFG_GRID_EN d) = false → s.gridRefused d = false → s.mainRuns = true → s.parityOk (GSU.GCFG d) = true →
      Completes (exec (.gridEnable d) s) (fun t => t.flag (GSU.GCFG_GRID_EN d) = true)) ∧
  -- R254
  (∀ (d : Fin 4) (s : State), s.flag (GSU.GCFG_GRID_EN d) = false → s.gridRefused d = true → s.mainRuns = true → s.parityOk (GSU.GCFG d) = true →
      Completes (exec (.gridEnable d) s) (fun t => t.flag (GSU.GCFG_GRID_EN d) = false ∧ t.flag (GSU.GSTAT_GRID_CFG_ERR d) = true)) ∧
  -- R255
  (∀ (d : Fin 4) (s : State), s.flag (GSU.GCFG_GRID_EN d) = true → s.flag (RTS.RTSTAT_GCON_CLOSED d) = false →
    ((s.gridTgs d).any (fun q => !s.flag (TRIP.TGSTAT_TRIPPED d q)) = false) → s.mainRuns = true → s.parityOk (GSU.GCFG d) = true →
      Completes (exec (.gridDisable d) s) (fun t => t.flag (GSU.GCFG_GRID_EN d) = false)) ∧
  -- R255
  (∀ (d : Fin 4) (s : State), s.flag (GSU.GCFG_GRID_EN d) = true → s.flag (RTS.RTSTAT_GCON_CLOSED d) = true → s.mainRuns = true →
    s.parityOk (GSU.GCFG d) = true →
      Completes (exec (.gridDisable d) s) (fun t => t.flag (GSU.GCFG_GRID_EN d) = true ∧ t.flag (GSU.GSTAT_GRID_CFG_ERR d) = true)) ∧
  -- R293
  (∀ (d : Fin 4) (s : State), (vget s.drives d).retired = false → s.rcHolds d = true → (s.grid d).rcFailed = false → s.mainRuns = true →
      Completes (exec (.rcSecond d) s) (fun t => t.get (RTS.RC_SEC_RC_SEC d) = min (s.get (RTS.RC_SEC_RC_SEC d) + 1) (2 ^ (RTS.RC_SEC_RC_SEC d).w -
        1) ∧ SameBut [.regs, .grids] s t ∧ RegsBut [RTS.RC_SEC d, RTS.RTSTAT d] s t)) ∧
  -- R293
  (∀ (d : Fin 4) (s : State), (vget s.drives d).retired = false → s.rcHolds d = false → s.mainRuns = true →
      Completes (exec (.rcSecond d) s) (fun t => t.get (RTS.RC_SEC_RC_SEC d) = 0 ∧ SameBut [.regs, .grids] s t ∧ RegsBut [RTS.RC_SEC d,
        RTS.RTSTAT d] s t)) ∧
  -- R294
  (∀ (d : Fin 4) (s : State), s.flag (RTS.RTSTAT_RC_READY d) = true → s.get (RTS.RTSTAT_REGION d) = 0 → s.flag (GSU.GSTAT_GSU_FAIL d) = false →
    s.flag (RTS.RTSTAT_GCON_WELD d) = false → s.mainRuns = true →
      Completes (exec (.connect d) s) (fun t => t.flag (RTS.RTSTAT_TRIPPED d) = false ∧ t.flag (GSU.GSTAT_ISLAND d) = false ∧
        t.flag (GSU.GSTAT_PROBE_FAIL d) = false ∧ (s.votesOut d = false → t.get (RTS.RTSTAT_VOTE d) = 1))) ∧
  -- R294
  (∀ (d : Fin 4) (s : State), s.flag (RTS.RTSTAT_RC_READY d) = false → s.mainRuns = true →
      Completes (exec (.connect d) s) (fun t => t.flag (RTS.RTSTAT_CONN_REJ d) = true ∧ t.get (RTS.RTSTAT_VOTE d) = s.get (RTS.RTSTAT_VOTE d) ∧
        SameBut [.regs] s t ∧ RegsBut [RTS.RTSTAT d] s t)) ∧
  -- R295, R259
  (∀ (d : Fin 4) (s : State), s.mainRuns = true →
      Completes (exec (.disconnect d) s) (fun t => (t.grid d).discon = true ∧ (s.flag (GSU.GCFG_GRID_EN d) = true →
        t.flag (GSU.GSTAT_BLOCK d) = true)))

/-- Curves are written while the supervisor is not armed; each evaluation gives the region and advances the time of each side.  The model's choices that clauses of it rest on: the estimates and their roundings (29), by the number of their entry in notes/assumptions. -/
def Obligations.RideThrough : Prop :=
  -- R273
  (∀ (d : Fin 4) (s : State), s.flag (RTS.RTCFG_ARM d) = false →
    ((List.range 16).any (fun c => decide (16 < s.get (CURVE.HEAD_NPTS d c)) || !timesRise (s.curve d c)) = false) → s.mainRuns = true →
    s.parityOk (RTS.RTCFG d) = true →
      Completes (exec (.armWrite d true) s) (fun t => t.flag (RTS.RTCFG_ARM d) = true)) ∧
  -- R273
  (∀ (d : Fin 4) (s : State), s.flag (RTS.RTCFG_ARM d) = false →
    ((List.range 16).any (fun c => decide (16 < s.get (CURVE.HEAD_NPTS d c)) || !timesRise (s.curve d c)) = true) → s.mainRuns = true →
    s.parityOk (RTS.RTCFG d) = true →
      Completes (exec (.armWrite d true) s) (fun t => t.flag (RTS.RTCFG_ARM d) = false ∧ t.flag (RTS.RTSTAT_RT_CFG_ERR d) = true)) ∧
  -- R273
  (∀ (d : Fin 4) (s : State), s.flag (RTS.RTCFG_ARM d) = true → s.flag (GSU.GCFG_GRID_EN d) = false → s.mainRuns = true →
    s.parityOk (RTS.RTCFG d) = true →
      Completes (exec (.armWrite d false) s) (fun t => t.flag (RTS.RTCFG_ARM d) = false)) ∧
  -- R273
  (∀ (d : Fin 4) (c i : Fin 16) (level : BitVec 16) (tm : Word) (s : State), s.flag (RTS.RTCFG_ARM d) = false → s.mainRuns = true →
      Completes (exec (.curveWrite d c (some i) level tm) s) (fun t => t.reg (CURVE.LEVEL d c i) = BitVec.ofNat 32 level.toNat ∧
        t.reg (CURVE.TIME d c i) = tm ∧ SameBut [.regs] s t ∧ RegsBut [CURVE.LEVEL d c i, CURVE.TIME d c i] s t)) ∧
  -- R273
  (∀ (d : Fin 4) (c : Fin 16) (pt : Option (Fin 16)) (level : BitVec 16) (tm : Word) (s : State), s.flag (RTS.RTCFG_ARM d) = true →
    s.mainRuns = true →
      Completes (exec (.curveWrite d c pt level tm) s) (fun t => t.flag (RTS.RTSTAT_RT_WR_REJ d) = true ∧ SameBut [.regs] s t ∧
        RegsBut [RTS.RTSTAT d] s t)) ∧
  -- R271, R272
  (∀ (d : Fin 4) (s : State), (vget s.drives d).retired = false → s.mainRuns = true →
      Completes (exec (.rtEvaluation d) s) (fun t => t.get (RTS.RTSTAT_REGION d) = ((List.range 4).map (fun q => s.sideRegion d q (((vget (s.grid
        d).sides q).t).getD 0))).foldl max 0 ∧ ∀ q : Fin 4,
        vget (t.grid d).sides q = (vget (s.grid d).sides q).step (s.sideRegion d q (((vget (s.grid d).sides q).t).getD 0)) (s.get (RTS.RTCFG_RST_MS
        d)))) ∧
  -- R24
  (∀ (d : Fin 4) (s : State), (vget s.drives d).retired = true → s.mainRuns = true →
      Completes (exec (.rtEvaluation d) s) (fun t => t = s)) ∧
  -- R265
  (∀ (d : Fin 4) (s : State), s.flag (GSU.GSTAT_COAST d) = true → s.mainRuns = true →
      Completes (exec (.gsuCoastTimeout d) s) (fun t => t.flag (GSU.GSTAT_LOCKED d) = false))

/-- Islanding detection, the votes of the members and the contactors of S.  The model's choices that clauses of it rest on: the free estimates of a set (29), by the number of their entry in notes/assumptions. -/
def Obligations.IslandingAndContactors : Prop :=
  -- R283
  (∀ (d : Fin 4) (s : State), (vget s.drives d).retired = false → s.mainRuns = true →
      Completes (exec (.gridZeroCrossing d) s) (fun t => t.get (GSU.GSTAT_GCYC d) = (s.get (GSU.GSTAT_GCYC d) + 1) % 2 ^ (GSU.GSTAT_GCYC d).w)) ∧
  -- R279
  (∀ (d : Fin 4) (s : State), (vget s.drives d).retired = false → s.flag (GSU.ISLCFG_ROCOF_EN d) = true →
    s.get (GSU.ROCOF_TH_ROCOF_TH d) < (s.getS (GSU.ROCOF_ROCOF d)).natAbs → (s.grid d).rocofHits + 1 < s.get (GSU.ISLCFG_ROCOF_N d) →
    s.mainRuns = true →
      Completes (exec (.rocofEvaluation d) s) (fun t => (t.grid d).rocofHits = (s.grid d).rocofHits + 1 ∧ SameBut [.grids] s t)) ∧
  -- R279, R286
  (∀ (d : Fin 4) (s : State), (vget s.drives d).retired = false → s.flag (GSU.ISLCFG_ROCOF_EN d) = true →
    s.get (GSU.ROCOF_TH_ROCOF_TH d) < (s.getS (GSU.ROCOF_ROCOF d)).natAbs → max 1 (s.get (GSU.ISLCFG_ROCOF_N d)) ≤ (s.grid d).rocofHits + 1 →
    s.flag (GSU.GSTAT_ISLAND d) = false → s.mainRuns = true →
      Completes (exec (.rocofEvaluation d) s) (fun t => t.flag (GSU.GSTAT_ISLAND d) = true ∧ t.get (GSU.GSTAT_ISL_SRC d) = 2)) ∧
  -- R279
  (∀ (d : Fin 4) (s : State), (vget s.drives d).retired = false → s.flag (GSU.ISLCFG_ROCOF_EN d) = true →
    (s.getS (GSU.ROCOF_ROCOF d)).natAbs ≤ s.get (GSU.ROCOF_TH_ROCOF_TH d) → s.mainRuns = true →
      Completes (exec (.rocofEvaluation d) s) (fun t => (t.grid d).rocofHits = 0 ∧ SameBut [.grids] s t)) ∧
  -- R290
  (∀ (d : Fin 4) (s : State), (vget s.drives d).retired = false → s.flag (GSU.GCFG_GRID_EN d) = true → s.mainRuns = true →
      Completes (exec (.voteSend d) s) (fun t => t.voteAtS d = t.get (RTS.RTSTAT_VOTE d) ∧ t.gridS.missing.testBit d = false)) ∧
  -- R290
  (∀ (d : Fin 4) (s : State), (s.grid d).openWait = true → s.mainRuns = true →
      Completes (exec (.voteOpenDelay d) s) (fun t => (t.grid d).openWait = false ∧ t.get (RTS.RTSTAT_VOTE d) ≠ 1)) ∧
  -- R291
  (∀ (s : State), s.mainRuns = true →
      Completes (exec .gconUpdate s) (fun t => t.flag GCON.GCSTAT_GCON0 = s.gconHolds ∧ t.flag GCON.GCSTAT_GCON1 = s.gconHolds)) ∧
  -- R291
  (∀ (d : Fin 4) (s : State), s.mainRuns = true →
      Completes (exec (.voteMissingTimeout d) s) (fun t => t.gridS.missing = s.gridS.missing ||| 2 ^ d.val ∧ SameBut [.gridS] s t)) ∧
  -- R292
  (∀ (which level : Bool) (s : State), s.mainRuns = true →
      Completes (exec (.gfbChange which level) s) (fun t => t.flag (if which then GCON.GCSTAT_GFB1 else GCON.GCSTAT_GFB0) = level)) ∧
  -- R292
  (∀ (which : Bool) (s : State), s.flag (if which then GCON.GCSTAT_GFB1 else GCON.GCSTAT_GFB0) = true →
    s.flag (if which then GCON.GCSTAT_GCON1 else GCON.GCSTAT_GCON0) = false → s.mainRuns = true →
      Completes (exec (.gconWeld which) s) (fun t => t.flag GCON.GCSTAT_WELD = true))

/-- A metering sample counts or voids its window, and an accumulator loses nothing.  The model's choices that clauses of it rest on: exact sums (30), by the number of their entry in notes/assumptions. -/
def Obligations.MeteringSamples : Prop :=
  -- R310
  (∀ (m : Fin 3) (ttime : BitVec 48) (hop : BitVec 16) (arrived : List SampleSeq) (s : State),
    (s.flag (MP.MSTAT_RUN m) || (s.meter m).starting) = true → (s.meter m).due = none → (s.meter m).lost = 0 → (s.meter m).last = none →
    s.mainRuns = true →
      Completes (exec (.meterSample m ttime hop arrived) s) (fun t => (t.meter m).last = some ⟨ttime.toNat, hop.toNat, s.ltNs - 30,
        ((s.ltNs : Int) - 30 : Int), 0⟩ ∧ (t.meter m).samples = (s.meter m).samples ∧ t.flag (MP.MSTAT_SRC_LOST m) = false ∧
        (t.meter m).seqs = (s.meter m).seqs ++ arrived.map (fun q => ⟨q.core, q.ttime.toNat, q.words⟩) ∧ SameBut [.regs, .meters] s t ∧
        RegsBut [MP.MSTAT m] s t)) ∧
  -- R307
  (∀ (m : Fin 3) (ttime : BitVec 48) (hop : BitVec 16) (arrived : List SampleSeq) (a : MeterStamp) (s : State),
    (s.flag (MP.MSTAT_RUN m) || (s.meter m).starting) = true → (s.meter m).due = none → (s.meter m).lost = 0 → (s.meter m).last = some a →
    s.mainRuns = true →
      Completes (exec (.meterSample m ttime hop arrived) s) (fun t => (t.meter m).samples = (s.meter m).samples ++
        [({ a with interval := (ticksFrom a.ttime ttime.toNat).toNat }, (ticksFrom a.ttime ttime.toNat : Rat) * (5 / 2) * a.hop / 32768)] ∧
        (t.meter m).seqs = (s.meter m).seqs ++ arrived.map (fun q => ⟨q.core, q.ttime.toNat, q.words⟩) ∧ (t.meter m).last = some ⟨ttime.toNat,
        hop.toNat, s.ltNs - 30, a.pos + (ticksFrom a.ttime ttime.toNat : Rat) * (5 / 2) * a.hop / 32768, 0⟩ ∧ SameBut [.regs, .meters] s t ∧
        RegsBut [MP.MSTAT m] s t)) ∧
  -- R309
  (∀ (m : Fin 3) (ttime : BitVec 48) (hop : BitVec 16) (arrived : List SampleSeq) (s : State),
    (s.flag (MP.MSTAT_RUN m) || (s.meter m).starting) = true → (s.meter m).due = none → s.mainRuns = true →
      Completes (exec (.meterSample m ttime hop arrived) s) (fun t => Nat.testBit (t.meter m).lost ((s.meter m).core 3) = false ∧ (∀ q ∈ arrived,
        Nat.testBit (t.meter m).lost q.core = false) ∧ t.flag (MP.MSTAT_SRC_LOST m) = decide ((t.meter m).lost ≠ 0) ∧ ((t.meter m).lost ≠ 0 →
        (t.meter m).last = none) ∧ SameBut [.regs, .meters] s t ∧ RegsBut [MP.MSTAT m] s t)) ∧
  -- R308
  (∀ (m : Fin 3) (e : Int) (s : State), s.flag (MP.MSTAT_RUN m) = true → (s.meter m).due = none → (m = 0 → s.flag (MP.MSTAT_FUND_VOID 0) = true) →
    s.windowDue m = some e → ((s.meter m).last.any (fun a => decide (a.time < e)) = false) →
    (((s.meter m).samples.filter (fun x => decide (x.1.time < e))).any (fun x => !(s.meter m).contributes m (e - (s.meter m).winStart : Int) x.1) =
    true) → s.mainRuns = true →
      Completes (exec (.meterWindowEnd m) s) (fun t => t.flag (MP.MSTAT_MISS m) = true ∧ t.get (MP.MCNT_MISS_CNT m) ≠ 0)) ∧
  -- R309
  (∀ (m : Fin 3) (k : Fin 4) (s : State), s.flag (MP.MSTAT_RUN m) = true → (s.meter m).due = none → s.mainRuns = true →
      Completes (exec (.meterSrcLost m k) s) (fun t => t.flag (MP.MSTAT_SRC_LOST m) = true ∧ (t.meter m).last = none ∧
        Nat.testBit (t.meter m).lost k = true ∧ SameBut [.regs, .meters] s t ∧ RegsBut [MP.MSTAT m, MP.RSTAT m] s t)) ∧
  -- R324
  (∀ (m : Fin 3) (a : Fin 13) (s : State), s.mainRuns = true →
      Completes (exec (.accLoRead m a) s) (fun t => vget (t.meter m).hold a = some (s.reg (MP.ACC_HI m a)) ∧ t.out = ⟨.readReturn, Die.n.code,
        [MP.ACC_LO m a, (s.reg (MP.ACC_LO m a)).toNat]⟩ :: s.out ∧ SameBut [.meters, .out] s t)) ∧
  (∀ (m : Fin 3) (a : Fin 13) (x : Rat) (s : State), (s.meter m).acc.res.length = 13 → 0 ≤ nthRat (s.meter m).acc.res a + x →
      s.acc m a + (ratFloor (nthRat (s.meter m).acc.res a + x)).toNat < 2 ^ 64 →
      ((s.accAdd m a x).acc m a : Rat) + nthRat ((s.accAdd m a x).meter m).acc.res a = (s.acc m a : Rat) + nthRat (s.meter m).acc.res a + x ∧
      0 ≤ nthRat ((s.accAdd m a x).meter m).acc.res a ∧ nthRat ((s.accAdd m a x).meter m).acc.res a < 1)

/-- A window takes every sample before its end, a multiple of 20 ms or the MP0 grid cycle; a point is enabled, starts, is disabled and committed.  The model's choices that clauses of it rest on: exact sums and free roundings (30), by the number of their entry in notes/assumptions. -/
def Obligations.MeterWindows : Prop :=
  -- R312
  (∀ (m : Fin 3) (s : State), s.flag (MP.MSTAT_RUN m) = true → (s.meter m).due = none → m ≠ 0 →
    ((s.meter m).winStart / 20000000 + 1) * 20000000 ≤ (s.ltNs : Int) →
    ((s.meter m).last.any (fun a => decide (a.time < ((s.meter m).winStart / 20000000 + 1) * 20000000)) = true) → s.mainRuns = true →
      Completes (exec (.meterWindowEnd m) s) (fun t => (t.meter m).winStart = (s.meter m).winStart ∧ (t.meter m).due = some ⟨none,
        ((s.meter m).winStart / 20000000 + 1) * 20000000, (((s.meter m).winStart / 20000000 + 1) * 20000000 - (s.meter m).winStart : Int),
        s.meterCfg m⟩ ∧ SameBut [.meters] s t)) ∧
  -- R312
  (∀ (m : Fin 3) (ttime : BitVec 48) (hop : BitVec 16) (arrived : List SampleSeq) (x : MeterDue) (s : State),
    (s.flag (MP.MSTAT_RUN m) || (s.meter m).starting) = true → (s.meter m).due = some x → s.mainRuns = true →
      Completes (exec (.meterSample m ttime hop arrived) s) (fun t => (t.meter m).due = none)) ∧
  -- R312
  (∀ (m : Fin 3) (s : State), s.flag (MP.MSTAT_RUN m) = true → (s.meter m).due = none → m ≠ 0 →
    ((s.meter m).winStart / 20000000 + 1) * 20000000 ≤ (s.ltNs : Int) →
    ((s.meter m).last.any (fun a => decide (a.time < ((s.meter m).winStart / 20000000 + 1) * 20000000)) = false) → s.mainRuns = true →
      Completes (exec (.meterWindowEnd m) s) (fun t => (t.meter m).winStart = ((s.meter m).winStart / 20000000 + 1) * 20000000 ∧
        ∀ x ∈ (t.meter m).samples, ((s.meter m).winStart / 20000000 + 1) * 20000000 ≤ x.1.time)) ∧
  -- R312, R313
  (∀ (s : State), s.flag (MP.MSTAT_RUN 0) = true → (s.meter 0).due = none →
    ((s.meter 0).last.any (fun a => decide (a.time < (s.meter 0).winStart + 20000000)) = false) → s.flag (MP.MSTAT_FUND_VOID 0) = true →
    s.flag TIME.TSTAT_STEPPED = true → (s.meter 0).winStart + 20000000 ≤ (s.ltNs : Int) → s.mainRuns = true →
      Completes (exec (.meterWindowEnd 0) s) (fun t => (t.meter 0).winStart = (s.meter 0).winStart + 20000000 ∧ ∀ x ∈ (t.meter 0).samples,
        (s.meter 0).winStart + 20000000 ≤ x.1.time ∧ t.flag (MP.MSTAT_FUND_VOID 0) = true)) ∧
  -- R312, R332
  (∀ (m : Fin 3) (s : State), s.flag (MP.MSTAT_RUN m) = false → (s.meter m).due = none → (s.meter m).starting = true →
    ((s.meter m).winStart / 20000000 + 1) * 20000000 ≤ (s.ltNs : Int) → (m = 0 → s.flag (MP.MSTAT_FUND_VOID 0) = true) → s.mainRuns = true →
      Completes (exec (.meterWindowEnd m) s) (fun t => t.flag (MP.MSTAT_RUN m) = true ∧ (t.meter m).starting = false ∧
        (t.meter m).winStart = ((s.meter m).winStart / 20000000 + 1) * 20000000 ∧ (t.meter m).cfg = s.meterCfg m)) ∧
  -- R311, R312
  (∀ (zero : BitVec 56) (s : State), s.flag (MP.MSTAT_RUN 0) = true → (s.meter 0).due = none →
    ((s.meter 0).last.any (fun a => decide (a.time < (s.zeroPlace (zero.toNat / 256)).2)) = false) → s.mainRuns = true →
      Completes (exec (.meterCycleFlit zero) s) (fun t => (t.meter 0).winStart = (s.zeroPlace (zero.toNat / 256)).2 ∧ (∀ x ∈ (t.meter 0).samples,
        (s.zeroPlace (zero.toNat / 256)).2 ≤ x.1.time) ∧ (t.meter 0).cyc = some (s.zeroPlace (zero.toNat / 256)).1 ∧
        t.flag (MP.MSTAT_FUND_VOID 0) = false)) ∧
  -- R312
  (∀ (s : State), (s.flag (MP.MSTAT_RUN 0) || (s.meter 0).starting) = true → s.mainRuns = true →
      Completes (exec .fundVoidTimeout s) (fun t => t.flag (MP.MSTAT_FUND_VOID 0) = true ∧ (t.meter 0).cyc = none ∧ SameBut [.regs, .meters] s t ∧
        RegsBut [MP.MSTAT 0, MP.RSTAT 0] s t)) ∧
  -- R303
  (∀ (m : Fin 3) (s : State), s.flag (MP.MCFG_EN m) = false →
    ((meterChannels m).any (fun c => !s.flag (ADC.ACFG_FWD_N (s.get (MP.MCFG_DIE m)) (s.get (MP.CHSEL_CORE m c))) || decide (s.get
    (ADC.SEQCFG_REG_LEN (s.get (MP.MCFG_DIE m)) (s.get (MP.CHSEL_CORE m c))) ≤ s.get (MP.CHSEL_ENTRY m c))) = false) →
    s.flag (MP.MSTAT_RUN m) = false → s.mainRuns = true → s.parityOk (MP.MCFG m) = true →
      Completes (exec (.meterEnable m) s) (fun t => t.flag (MP.MCFG_EN m) = true ∧ (t.meter m).starting = true ∧ (t.meter m).winStart = s.ltNs ∧
        (t.meter m).die = s.get (MP.MCFG_DIE m) ∧ (t.meter m).ll = (meterAc m && s.flag (MP.MCFG_VTYPE m)) ∧
        (t.meter m).csrc = (List.range 6).map (fun c => s.reg (MP.CHSEL m c)) ∧ SameBut [.regs, .meters] s t ∧ RegsBut [MP.MCFG m] s t)) ∧
  -- R332
  (∀ (m : Fin 3) (s : State), s.flag (MP.MCFG_EN m) = false →
    ((meterChannels m).any (fun c => !s.flag (ADC.ACFG_FWD_N (s.get (MP.MCFG_DIE m)) (s.get (MP.CHSEL_CORE m c))) || decide (s.get
    (ADC.SEQCFG_REG_LEN (s.get (MP.MCFG_DIE m)) (s.get (MP.CHSEL_CORE m c))) ≤ s.get (MP.CHSEL_ENTRY m c))) = false) →
    s.flag (MP.MSTAT_RUN m) = true → s.mainRuns = true → s.parityOk (MP.MCFG m) = true →
      Completes (exec (.meterEnable m) s) (fun t => t.flag (MP.MCFG_EN m) = true ∧ (t.meter m).starting = true ∧
        (t.meter m).next = some (s.get (MP.MCFG_DIE m), (meterAc m && s.flag (MP.MCFG_VTYPE m)),
        (List.range 6).map (fun c => s.reg (MP.CHSEL m c))) ∧ (t.meter m).csrc = (s.meter m).csrc ∧ SameBut [.regs, .meters] s t ∧
        RegsBut [MP.MCFG m] s t)) ∧
  -- R303
  (∀ (m : Fin 3) (s : State), s.flag (MP.MCFG_EN m) = false →
    ((meterChannels m).any (fun c => !s.flag (ADC.ACFG_FWD_N (s.get (MP.MCFG_DIE m)) (s.get (MP.CHSEL_CORE m c))) || decide (s.get
    (ADC.SEQCFG_REG_LEN (s.get (MP.MCFG_DIE m)) (s.get (MP.CHSEL_CORE m c))) ≤ s.get (MP.CHSEL_ENTRY m c))) = true) → s.mainRuns = true →
    s.parityOk (MP.MCFG m) = true →
      Completes (exec (.meterEnable m) s) (fun t => t.flag (MP.MCFG_EN m) = false ∧ t.flag (MP.MSTAT_MP_CFG_ERR m) = true ∧ SameBut [.regs] s t ∧
        RegsBut [MP.MCFG m, MP.MSTAT m] s t)) ∧
  -- R332
  (∀ (m : Fin 3) (s : State), s.flag (MP.MCFG_EN m) = true → s.mainRuns = true → s.parityOk (MP.MCFG m) = true →
      Completes (exec (.meterDisable m) s) (fun t => t.flag (MP.MCFG_EN m) = false ∧ (t.meter m).stopping = s.flag (MP.MSTAT_RUN m) ∧
        (t.meter m).starting = false ∧ (t.meter m).next = none ∧ SameBut [.regs, .meters] s t ∧ RegsBut [MP.MCFG m] s t)) ∧
  -- R333
  (∀ (m : Fin 3) (s : State), s.keeper.powered = true → s.keeper.running ≠ some 5 → s.mainRuns = true →
      Completes (exec (.meterCommit m) s) (fun t => (t.meter m).waiting.map (fun c => c.words) = some ((meterRegs m).map s.reg) ∧
        (t.meter m).waiting.map (fun c => c.acc) = some (s.meter m).acc ∧ t.bit KPR.KQ_QUEUE 5 = true ∧ SameBut [.regs, .meters, .keeper] s t ∧
        RegsBut [KPR.KQ] s t))

/-- The command period of a command die: its tick, records, snapshot, descriptor, fetch and DONE.  The model's choices that clauses of it rest on: events as messages (58), by the number of their entry in notes/assumptions. -/
def Obligations.SnapshotsAndPeriods : Prop :=
  -- R343
  (∀ (c : Fin 2) (d : Fin 4) (s : State), s.role c ≠ 0 → (s.cmd c).counted = false → s.mainRuns = true →
      Completes (exec (.commandPeriodTick c d) s) (fun t => t.get (CMD.CPN_CPN c) = (s.get (CMD.CPN_CPN c) + 1) % 2 ^ 32 ∧
        (t.cmd c).tick = some d.val)) ∧
  -- R343, R373
  (∀ (c : Fin 2) (d : Fin 4) (s : State), s.role c ≠ 0 → (s.cmd c).counted = true → s.mainRuns = true →
      Completes (exec (.commandPeriodTick c d) s) (fun t => t.get (CMD.CPN_CPN c) = s.get (CMD.CPN_CPN c) ∧ (t.cmd c).tick = some d.val ∧
        (t.cmd c).counted = false)) ∧
  -- R373
  (∀ (c : Fin 2) (d : Fin 4) (s : State), s.role c = 3 → s.role (otherCmd c) = 1 → (s.cmd (otherCmd c)).joinWait = true →
    s.get (CMD.JRNL_RGN_JRNL_LEN c) ≠ 0 → s.mainRuns = true →
      Completes (exec (.commandPeriodTick c d) s) (fun t => (t.cmd (otherCmd c)).joinWait = false ∧
        t.get (CMD.CPN_CPN (otherCmd c)) = t.get (CMD.CPN_CPN c) ∧ (t.cmd (otherCmd c)).toRun = [])) ∧
  -- R346
  (∀ (c : Fin 2) (d : Fin 4) (tick : Nat) (words : List Word) (s : State), (tick = s.get (CMD.CPN_CPN c) → (s.cmd c).tick.isSome = true) →
    (tick ≠ s.get (CMD.CPN_CPN c) → cpnReached (s.get (CMD.CPN_CPN c)) tick = false) → s.mainRuns = true →
      Completes (exec (.driveRecordArrival c d tick words) s) (fun t => (t.cmd c).recs = (s.cmd c).recs ++ [⟨tick, d, words⟩] ∧ SameBut [.cmds] s t)) ∧
  -- R346
  (∀ (c : Fin 2) (d : Fin 4) (tick : Nat) (words : List Word) (s : State), (tick = s.get (CMD.CPN_CPN c) → (s.cmd c).tick = none) →
    (tick ≠ s.get (CMD.CPN_CPN c) → cpnReached (s.get (CMD.CPN_CPN c)) tick = true) → s.mainRuns = true →
      Completes (exec (.driveRecordArrival c d tick words) s) (fun t => t.get (CMD.SKIPCNT_REC_LATE_CNT c) = min (s.get (CMD.SKIPCNT_REC_LATE_CNT c)
        + 1) (2 ^ (CMD.SKIPCNT_REC_LATE_CNT c).w - 1) ∧ SameBut [.regs] s t ∧ RegsBut [CMD.SKIPCNT c] s t)) ∧
  -- R347
  (∀ (c : Fin 2) (words : List Word) (s : State), s.mainRuns = true →
      Completes (exec (.eventFlitArrival c words) s) (fun t => (t.cmd c).events = (s.cmd c).events ++ [words] ∧ SameBut [.cmds] s t)) ∧
  -- R521
  (∀ (c : Fin 2) (f : InputFrame) (r : List InputFrame) (s : State), (s.cmd c).inFrames = f :: r → s.dict.cmdWait = none →
    (s.cmd c).bsnLast < f.bsn → s.mainRuns = true →
      Completes (exec (.inputFrameArrival c) s) (fun t => (t.cmd c).inFrames = r ∧ (t.cmd c).frames = (s.cmd c).frames ++ [f] ∧ SameBut [.cmds] s t)) ∧
  -- R350
  (∀ (c : Fin 2) (f : InputFrame) (r : List InputFrame) (s : State), (s.cmd c).inFrames = f :: r → s.dict.cmdWait = none →
    f.bsn ≤ (s.cmd c).bsnLast → s.mainRuns = true →
      Completes (exec (.inputFrameArrival c) s) (fun t => (t.cmd c).inFrames = r ∧ (t.cmd c).frames = (s.cmd c).frames ∧ SameBut [.cmds] s t)) ∧
  -- R345, R348
  (∀ (c : Fin 2) (din : BitVec 16) (k : Nat) (s : State), (s.cmd c).tick = some k → s.peerGone c = false → s.mainRuns = true →
      Completes (exec (.snapshotClose c din) s) (fun t => (t.cmd c).tick = none ∧ (t.cmd c).events = [] ∧
        (t.cmd c).own.getLast? = some (s.snapshot c k din) ∧ (t.cmd c).bsnLast = ((s.snapshot c k din).word 4).toNat ∧
        (t.cmd (otherCmd c)).inbox = (s.cmd (otherCmd c)).inbox ++ [(s.snapshot c k din).desc])) ∧
  -- R345, R348
  (∀ (c : Fin 2) (din : BitVec 16) (k : Nat) (s : State), (s.cmd c).tick = some k → s.peerGone c = true → s.mainRuns = true →
      Completes (exec (.snapshotClose c din) s) (fun t => (t.cmd c).tick = none ∧ (t.cmd c).own.getLast? = some (s.snapshot c k din) ∧
        (t.cmd (otherCmd c)).inbox = (s.cmd (otherCmd c)).inbox)) ∧
  -- R353
  (∀ (c : Fin 2) (d : List Word) (r : List (List Word)) (s : State), (s.cmd c).inbox = d :: r → s.mainRuns = true →
      Completes (exec (.descriptorReceived c) s) (fun t => (t.cmd c).inbox = r ∧
        (t.cmd c).received = ((s.cmd c).received ++ [d]).drop ((s.cmd c).received.length - 7))) ∧
  -- R353
  (∀ (c : Fin 2) (d : List Word) (r : List (List Word)) (q : Snapshot) (s : State), (s.cmd c).inbox = d :: r →
    ((s.cmd c).own.find? (fun x => decide (x.word 0 = d.getD 0 0)) = some q) →
    ((List.range 10).any (fun i => decide (q.desc.getD i 0 ≠ d.getD i 0)) = true) → s.mainRuns = true →
      Completes (exec (.descriptorReceived c) s) (fun t => (t.cmd c).diff = true ∧
        t.get (CMD.SNAPCNT_DIFF_CNT c) = min (s.get (CMD.SNAPCNT_DIFF_CNT c) + 1) (2 ^ (CMD.SNAPCNT_DIFF_CNT c).w - 1))) ∧
  -- R349, R351
  (∀ (c : Fin 2) (q : Snapshot) (s : State), s.role c = 3 → (s.cmd c).run = none → (s.cmd c).closed.getLast? = some q → (s.cmd c).claim = false →
    s.flag (CMD.DBGSTAT_HALTED c) = false → s.flag (CMD.CMDSTAT_TAKE c) = false → s.role (otherCmd c) ≠ 0 → (s.cmd (otherCmd c)).joinWait = false →
    s.peerGone c = false → s.mainRuns = true →
      Completes (exec (.descriptorWaitTimeout c) s) (fun t => (t.cmd c).run = some (q.mark (s.cmd c).failover (s.cmd c).resumed) ∧
        (t.cmd c).lastCpn = q.cpn ∧ (t.cmd c).closed = [] ∧ t.reg (CMD.DONE c) = 0 ∧
        (t.cmd (otherCmd c)).toRun = (s.cmd (otherCmd c)).toRun ++ [q.mark (s.cmd c).failover (s.cmd c).resumed])) ∧
  -- R369
  (∀ (c : Fin 2) (q : Snapshot) (s : State), s.role c = 3 → (s.cmd c).run = none → (s.cmd c).closed.getLast? = some q → (s.cmd c).claim = false →
    s.flag (CMD.DBGSTAT_HALTED c) = false → s.flag (CMD.CMDSTAT_TAKE c) = true → s.mainRuns = true →
      Completes (exec (.descriptorWaitTimeout c) s) (fun t => (t.cmd c).claim = true ∧ (t.cmd c).run = none ∧ t.out = ⟨.claim, c, [q.cpn]⟩ :: s.out ∧
        SameBut [.cmds, .out] s t)) ∧
  -- R350, R374
  (∀ (c : Fin 2) (q : Snapshot) (r : List Snapshot) (s : State), (s.role c = 2 ∧
    (s.cmd c).received.any (fun x => decide (x.getD 0 0 = q.word 0)) = true ∨ s.role c = 1) → (s.cmd c).run = none → (s.cmd c).toRun = q :: r →
    s.flag (CMD.CMDSTAT_TAKE c) = false → s.flag (CMD.DBGSTAT_HALTED c) = false → (s.cmd c).nextRole ≠ some 1 → s.mainRuns = true →
      Completes (exec (.fetchComplete c) s) (fun t => (t.cmd c).run = some ((s.cmd c).fetch' q).1 ∧ (t.cmd c).toRun = r ∧ t.reg (CMD.DONE c) = 0 ∧
        t.get (CMD.SNAPCNT_FETCH_CNT c) = min (s.get (CMD.SNAPCNT_FETCH_CNT c) + ((s.cmd c).fetch' q).2) (2 ^ (CMD.SNAPCNT_FETCH_CNT c).w - 1))) ∧
  -- R338, R372
  (∀ (c : Fin 2) (q : Snapshot) (r : List Snapshot) (s : State), s.role c = 2 →
    ((s.cmd c).received.any (fun x => decide (x.getD 0 0 = q.word 0)) = true) → (s.cmd c).run = none → (s.cmd c).toRun = q :: r →
    s.flag (CMD.CMDSTAT_TAKE c) = false → s.flag (CMD.DBGSTAT_HALTED c) = false → (s.cmd c).nextRole = some 1 → s.mainRuns = true →
      Completes (exec (.fetchComplete c) s) (fun t => t.role c = 1 ∧ (t.cmd c).joinWait = true ∧ (t.cmd c).run = none ∧ SameBut [.regs, .cmds] s t)) ∧
  -- R344
  (∀ (c : Fin 2) (core : Fin 4) (s : State), s.coreRuns c core = true →
    (((s.cmd c).claim && (s.cmd c).heldWrites.any (fun w => decide (w.1 = core.val))) = true) → s.mainRuns = true →
      Completes (exec (.doneWrite c core) s) (fun t => (t.cmd c).doneWait = (s.cmd c).doneWait ++ [core.val] ∧ SameBut [.regs, .cmds] s t ∧
        RegsBut [CMD.DBGSTAT c] s t)) ∧
  -- R382
  (∀ (c : Fin 2) (core : Fin 4) (s : State), s.coreRuns c core = false → s.mainRuns = true →
      Completes (exec (.doneWrite c core) s) (fun t => t = s)) ∧
  -- R344
  (∀ (c : Fin 2) (core : Fin 4) (s : State), (((s.cmd c).claim && (s.cmd c).heldWrites.any (fun w => decide (w.1 = core.val))) = false) →
    s.coreRuns c core = true →
    (s.cmd c).run = none ∨ (s.get (CMD.DONE_DONE c) ||| 2 ^ core.val) &&& s.get (CMD.CMDCFG_CP_CORES c) ≠ s.get (CMD.CMDCFG_CP_CORES c) →
    s.mainRuns = true →
      Completes (exec (.doneWrite c core) s) (fun t => t.bit (CMD.DONE_DONE c) core = true ∧ SameBut [.regs, .cmds] s t ∧ RegsBut [CMD.DONE c,
        CMD.DBGSTAT c] s t)) ∧
  -- R344, R357
  (∀ (c : Fin 2) (core : Fin 4) (s : State), (((s.cmd c).claim && (s.cmd c).heldWrites.any (fun w => decide (w.1 = core.val))) = false) →
    s.coreRuns c core = true → (s.cmd c).run.isSome = true →
    (s.get (CMD.DONE_DONE c) ||| 2 ^ core.val) &&& s.get (CMD.CMDCFG_CP_CORES c) = s.get (CMD.CMDCFG_CP_CORES c) → s.mainRuns = true →
      Completes (exec (.doneWrite c core) s) (fun t => (t.cmd c).hb.map (fun h => h.cpn) = (s.cmd c).hb.map (fun h => h.cpn) ++ [(s.cmd c).lastCpn])) ∧
  -- R357
  (∀ (c : Fin 2) (wdog : Bool) (ce : Nat) (s : State), getBits (s.reg (CMD.HEALTH c)) 0 1 = 0 → s.mainRuns = true →
      Completes (exec (.healthChange c true wdog ce) s) (fun t => (t.cmd c).hb.length = (s.cmd c).hb.length + 1 ∧ (t.cmd c).eccUe = false ∧
        (t.cmd c).ce = 0 ∧ SameBut [.regs, .cmds] s t ∧ RegsBut [CMD.HEALTH c] s t))

/-- The arbiter takes heartbeats, claims and verdicts; a lost heartbeat, a missing claim and a failed join are decided.  The model's choices that clauses of it rest on: the cycle of the arbiter checks (31), by the number of their entry in notes/assumptions. -/
def Obligations.Arbiter : Prop :=
  -- R359
  (∀ (c : Fin 2) (h : Heartbeat) (r : List Heartbeat) (s : State), (s.cmd c).hb = h :: r → s.mainRuns = true →
      Completes (exec (.heartbeatReceived c false) s) (fun t => (t.cmd c).hb = r ∧ vget t.arb.cpn c = h.cpn ∧ vget t.arb.pv c = h.pv ∧
        vget t.arb.lost c = false ∧ t.reg (arbHealth c).addr = h.health)) ∧
  -- R359
  (∀ (c : Fin 2) (h : Heartbeat) (r : List Heartbeat) (s : State), (s.cmd c).hb = h :: r → s.get (arbRole c) = 2 → s.arbActive = true →
    s.mainRuns = true →
      Completes (exec (.heartbeatReceived c true) s) (fun t => (t.cmd c).hb = r ∧ vget t.arb.cpn c = h.cpn ∧ vget t.arb.lost c = true)) ∧
  -- R359
  (∀ (c : Fin 2) (s : State), 2 ≤ s.get (arbRole c) → s.arb.timed = true → s.arbActive = true → s.mainRuns = true →
      Completes (exec (.heartbeatTimeout c) s) (fun t => vget t.arb.lost c = true)) ∧
  -- R359, R384, R452
  (∀ (c : Fin 2) (s : State), s.arb.timed = false ∨ s.arbActive = false → s.mainRuns = true →
      Completes (exec (.heartbeatTimeout c) s) (fun t => t = s)) ∧
  -- R367
  (∀ (d : Fin 4) (s : State), s.mainRuns = true →
      Completes (exec (.roleWireChange d) s) (fun t => t.flag (DCMD.DCMDSTAT_ROLE_C0 d) = decide (s.arb.wire = some 0) ∧
        t.flag (DCMD.DCMDSTAT_ROLE_C1 d) = decide (s.arb.wire = some 1))) ∧
  -- R338
  (∀ (c : Fin 2) (s : State), s.get (arbRole c) ≠ s.role c → s.get (arbRole c) ≠ 0 → s.mainRuns = true →
      Completes (exec (.verdictReceived c) s) (fun t => (t.cmd c).nextRole = some (s.get (arbRole c)) ∧ t.role c = s.role c)) ∧
  -- R338
  (∀ (c : Fin 2) (s : State), s.role c ≠ 0 → s.get (arbRole c) = 0 → s.mainRuns = true →
      Completes (exec (.verdictReceived c) s) (fun t => t.role c = 0 ∧ (t.cmd c).run = none ∧ (t.cmd c).claim = false ∧ (t.cmd c).toRun = [])) ∧
  -- R377
  (∀ (c : Fin 2) (n : Nat) (s : State), s.get (arbRole c) ≠ 0 → s.arb.swapN = some n → s.mainRuns = true →
      Completes (exec (.verdictReceived c) s) (fun t => (t.cmd c).swapAt = some n ∧ t.flag (CMD.CMDSTAT_SWAP_PEND c) = true)) ∧
  -- R368
  (∀ (s : State), s.arb.failN = true → s.mainRuns = true →
      Completes (exec .failoverAtN s) (fun t => t.arb.failN = false ∧ t.arb.nShell = none ∧ ∀ f : Fin 128, (vget t.flows f).begun = false ∧
        SameBut [.arb, .mem, .flows] s t)) ∧
  -- R369
  (∀ (c : Fin 2) (len : Nat) (s : State), (s.cmd c).claim = false → s.mainRuns = true →
      Completes (exec (.claim c len) s) (fun t => t = s)) ∧
  -- R377
  (∀ (c : Fin 2) (len : Nat) (s : State), (s.cmd c).claim = true → s.arb.takeTo ≠ some c.val → s.arb.swapN = some (s.cmd c).lastCpn →
    s.arbShell ≠ some c.val → s.mainRuns = true →
      Completes (exec (.claim c len) s) (fun t => t.arb.swapClaim = true ∧ SameBut [.arb] s t)) ∧
  -- R369
  (∀ (c : Fin 2) (len : Nat) (s : State), (s.cmd c).claim = true → s.arb.takeTo = some c.val → s.mainRuns = true →
      Completes (exec (.claim c len) s) (fun t => t.get (arbRole c) = 3 ∧ t.flag ARB.ARBSTAT_MITTEN = false ∧ t.arb.wire = some c.val ∧
        t.arb.takeTo = none ∧ t.reg ARB.MIT_LEN = BitVec.ofNat 32 len ∧ SameBut [.regs, .arb, .out] s t ∧ RegsBut [ARB.ARBSTAT, ARB.MIT_LEN] s t)) ∧
  -- R369
  (∀ (c : Fin 2) (s : State), (s.cmd c).claim = true → s.flag (CMD.CMDSTAT_TAKE c) = true → (s.cmd c).heldWrites = [] → (s.cmd c).doneWait = [] →
    (s.cmd c).swapAt = none → s.mainRuns = true →
      Completes (exec (.grant c) s) (fun t => t.role c = 3 ∧ t.flag (CMD.CMDSTAT_TAKE c) = false ∧ (t.cmd c).claim = false)) ∧
  -- R377
  (∀ (c : Fin 2) (s : State), (s.cmd c).claim = true → s.flag (CMD.CMDSTAT_TAKE c) = false → (s.cmd c).heldWrites = [] → (s.cmd c).doneWait = [] →
    s.mainRuns = true →
      Completes (exec (.grant c) s) (fun t => (t.cmd c).claim = false ∧ (t.cmd c).held = false ∧ SameBut [.cmds] s t)) ∧
  -- R377
  (∀ (c : Fin 2) (s : State), (s.cmd c).claim = true → s.flag (CMD.CMDSTAT_TAKE c) = false → s.mainRuns = true →
      Completes (exec (.grant c) s) (fun t => (t.cmd c).heldWrites = [])) ∧
  -- R370
  (∀ (l : Nat) (s : State), s.arb.takeTo = some l → s.mainRuns = true →
      Completes (exec .claimTimeout s) (fun t => t.arb.takeTo = none ∧ t.flag ARB.ARBSTAT_SS1_REQ = true)) ∧
  -- R374
  (∀ (c : Fin 2) (s : State), s.get (arbRole c) = 1 → (s.cmd c).joinWait = false → (s.cmd c).toRun = [] → s.mainRuns = true →
      Completes (exec (.joinReplayComplete c) s) (fun t => (t.cmd c).nextRole = some 2 ∧ (t.cmd c).joinFails = 0 ∧ SameBut [.mem, .cmds] s t)) ∧
  -- R374
  (∀ (c : Fin 2) (q : Snapshot) (r : List Snapshot) (s : State), s.role c = 1 → (s.cmd c).run = none → (s.cmd c).toRun = q :: r →
    s.flag (CMD.CMDSTAT_TAKE c) = false → s.flag (CMD.DBGSTAT_HALTED c) = false → (s.cmd c).nextRole = some 2 → (s.cmd c).win = none →
    (s.cmd c).swapAt = none → s.mainRuns = true →
      Completes (exec (.fetchComplete c) s) (fun t => t.role c = 2 ∧ t.get (arbRole c) = 2)) ∧
  -- R375
  (∀ (c : Fin 2) (s : State), s.get (arbRole c) = 1 → (s.cmd c).joinFails < 7 → s.mainRuns = true →
      Completes (exec (.joinFail c) s) (fun t => (t.cmd c).joinFails = (s.cmd c).joinFails + 1 ∧ (t.cmd c).joinWait = true ∧ t.get (arbRole c) = 1 ∧
        SameBut [.regs, .cmds] s t ∧ RegsBut [ARB.ARBSTAT] s t)) ∧
  -- R375
  (∀ (c : Fin 2) (s : State), s.get (arbRole c) = 1 → 7 ≤ (s.cmd c).joinFails → s.mainRuns = true →
      Completes (exec (.joinFail c) s) (fun t => t.get (arbRole c) = 0 ∧ t.flag (arbJoinFail c) = true))

/-- A swap is named, done or cancelled; a debugger attaches to the shell only, halts both dies, writes and lets them go on; a removed die restarts into JOIN.  The model's choices that clauses of it rest on: debug and restarts (32), by the number of their entry in notes/assumptions. -/
def Obligations.SwapsAndDebug : Prop :=
  -- R376, R377
  (∀ (c : Fin 2) (s : State), s.get (arbRole c) = 2 → s.get ARB.ARBSTAT_HOME = c.val → s.dnat DP.ARBP_AUTO_RETURN = 1 → s.arb.swapN = none →
    s.get ARB.HOLD_REM_HOLD_REM = 0 → s.mainRuns = true →
      Completes (exec (.holdoffExpire c) s) (fun t => t.arb.swapN = some (if 2 ^ 32 ≤ ((s.get (CMD.CPN_CPN (otherCmd c)) + 2) % 2 ^ 32 + s.sigWin
        (otherCmd c) - 1) / s.sigWin (otherCmd c) * s.sigWin (otherCmd c) then 0 else ((s.get (CMD.CPN_CPN (otherCmd c)) + 2) % 2 ^ 32 + s.sigWin
        (otherCmd c) - 1) / s.sigWin (otherCmd c) * s.sigWin (otherCmd c)) ∧ t.flag ARB.ARBSTAT_SWAP_PEND = true ∧ SameBut [.regs, .arb, .out] s t ∧
        RegsBut [ARB.ARBSTAT] s t)) ∧
  -- R377
  (∀ (n c : Nat) (s : State), s.arb.swapN = some n → s.arbShell = some c → s.arb.swapClaim = true → s.arb.swapHb = true → s.mainRuns = true →
      Completes (exec .swap s) (fun t => t.get (arbRole c) = 2 ∧ t.get (arbRole (otherCmd c)) = 3 ∧ t.arb.swapN = none ∧
        t.arb.wire = some (otherCmd c) ∧ t.flag ARB.ARBSTAT_SWAP_PEND = false)) ∧
  -- R378
  (∀ (n c : Nat) (s : State), s.arb.swapN = some n → s.arbShell = some c → (s.arb.swapClaim && s.arb.swapHb) = false → s.mainRuns = true →
      Completes (exec .swapTimeout s) (fun t => t.arb.swapN = none ∧ t.flag ARB.ARBSTAT_SWAP_PEND = false ∧ (t.cmd c).swapAt = none ∧
        t.flag (CMD.CMDSTAT_SWAP_PEND c) = false)) ∧
  -- R380
  (∀ (c : Fin 2) (s : State), s.role c = 3 → s.dnat DP.ARBP_DBG_ALLOW = 1 → s.mainRuns = true →
      Completes (exec (.debugAttach c) s) (fun t => t.flag (CMD.DBGSTAT_ATTACHED c) = true ∧ SameBut [.regs] s t ∧ RegsBut [CMD.DBGSTAT c] s t)) ∧
  -- R380
  (∀ (c : Fin 2) (s : State), s.role c ≠ 3 ∨ s.dnat DP.ARBP_DBG_ALLOW ≠ 1 → s.mainRuns = true →
      Completes (exec (.debugAttach c) s) (fun t => t.flag (CMD.DBGSTAT_DBG_REJ c) = true ∧
        t.flag (CMD.DBGSTAT_ATTACHED c) = s.flag (CMD.DBGSTAT_ATTACHED c) ∧ SameBut [.regs] s t ∧ RegsBut [CMD.DBGSTAT c] s t)) ∧
  -- R382
  (∀ (c : Fin 2) (counts : List Nat) (s : State), s.role c = 3 → s.flag (CMD.DBGSTAT_ATTACHED c) = true → s.flag (CMD.DBGSTAT_HALTED c) = false →
    s.mainRuns = true →
      Completes (exec (.shellDebugHalt c counts) s) (fun t => t.flag (CMD.DBGSTAT_HALTED c) = true ∧ (t.cmd c).counts = counts ∧
        (t.cmd c).haltCpn = (s.cmd c).lastCpn ∧ (s.role (otherCmd c) = 2 → (t.cmd (otherCmd c)).counts = counts ∧
        (t.cmd (otherCmd c)).haltCpn = (s.cmd c).lastCpn ∧
        t.flag (CMD.DBGSTAT_HALTED (otherCmd c)) = (s.flag (CMD.DBGSTAT_HALTED (otherCmd c)) || (decide ((s.cmd (otherCmd c)).lastCpn = (s.cmd
        c).lastCpn) && [0, 1, 2, 3].all (fun k => decide (vget (s.cmd c).issued k ≤ vget (s.cmd (otherCmd c)).issued k))))) ∧ SameBut [.regs,
        .cmds] s t ∧ RegsBut [CMD.DBGSTAT c, CMD.DBGSTAT (otherCmd c)] s t)) ∧
  -- R383
  (∀ (c : Fin 2) (a : BitVec 32) (w : BitVec 32) (s : State), s.role c = 3 → s.flag (CMD.DBGSTAT_HALTED c) = true → (s.cmd c).sending = [] →
    s.flag (CMD.DBGSTAT_HALTED (otherCmd c)) = false → (s.cmd (otherCmd c)).haltAt.isSome = true → a.toNat < 0x200000 → a.toNat % 4 = 0 →
    s.mainRuns = true →
      Completes (exec (.debuggerWrite c a w) s) (fun t => t.memWord (a.toNat + c.val * 2 ^ 32) = w ∧
        (t.cmd (otherCmd c)).debugWrites = (s.cmd (otherCmd c)).debugWrites ++ [(a.toNat, w)] ∧ SameBut [.mem, .cmds] s t ∧
        MemBut (a.toNat + c.val * 2 ^ 32) 4 s t)) ∧
  -- R383
  (∀ (c : Fin 2) (a : BitVec 32) (w : BitVec 32) (s : State), s.role c = 3 → s.flag (CMD.DBGSTAT_HALTED c) = true → (s.cmd c).sending = [] →
    s.flag (CMD.DBGSTAT_HALTED (otherCmd c)) = true → (s.cmd (otherCmd c)).debugWrites = [] → a.toNat < 0x200000 → a.toNat % 4 = 0 →
    s.mainRuns = true →
      Completes (exec (.debuggerWrite c a w) s) (fun t => t.memWord (a.toNat + c.val * 2 ^ 32) = w ∧ t.memWord (a.toNat + otherCmd c * 2 ^ 32) = w ∧
        SameBut [.mem, .cmds] s t)) ∧
  -- R384
  (∀ (c : Fin 2) (s : State), s.flag (CMD.DBGSTAT_HALTED c) = true → s.mainRuns = true →
      Completes (exec (.shellDebugResume c) s) (fun t => t.flag (CMD.DBGSTAT_HALTED c) = false ∧ t.flag (CMD.DBGSTAT_HALTED (otherCmd c)) = false)) ∧
  -- R372, R464
  (∀ (c : Fin 2) (slot : Vector ImageSlot 2) (hot : Bool) (s : State), s.mainRuns = true → s.get (arbRole c) = 0 → s.flag (arbLockout c) = false →
    s.flag (arbJoinFail c) = false → s.power.runs.testBit c = true → s.arbShell = some (1 - c.val) →
    ImageSlot.valid (vget slot (s.dnat DP.IMG_SLOT_SEL % 2)) = true →
    ImageSlot.digest (vget slot (s.dnat DP.IMG_SLOT_SEL % 2)) = vget s.power.digests (1 - c.val) →
      Completes (exec (.commandDieRestartDone c slot hot) s) (fun t => t.get (arbRole c) = 1 ∧ t.role c = 1 ∧ (t.cmd c).joinWait = true)) ∧
  -- R464, R375
  (∀ (c : Fin 2) (slot : Vector ImageSlot 2) (hot : Bool) (s : State), s.mainRuns = true → s.get (arbRole c) = 0 → s.flag (arbLockout c) = false →
    s.flag (arbJoinFail c) = false → s.power.runs.testBit c = true → (s.cmd c).joinFails < 7 → ImageSlot.valid (vget slot 0) = false →
    ImageSlot.valid (vget slot 1) = false →
      Completes (exec (.commandDieRestartDone c slot hot) s) (fun t => t.get (arbRole c) = 0 ∧ t.role c = 0 ∧
        (t.cmd c).joinFails = (s.cmd c).joinFails + 1)) ∧
  -- R337, R463
  (∀ (c : Fin 2) (slot : Vector ImageSlot 2) (hot : Bool) (s : State), s.power.runs.testBit c = false →
      Completes (exec (.commandDieRestartDone c slot hot) s) (fun t => t = s))

/-- The safety cycles and the position records that they judge.  The model's choices that clauses of it rest on: the conventions of the safety functions (33), by the number of their entry in notes/assumptions. -/
def Obligations.SafetyCyclesAndPositions : Prop :=
  -- R386, R391
  (∀ (s : State), (s.chan 0).stopped = false → (s.inputLow 0 1 (fun _ => true) = true) → s.mainRuns = true →
      Completes (exec (.safetyCycleA false) s) (fun t => (t.chan 0).st ≠ .run ∧ (t.chan 0).st ≠ .ss1 ∧ t.flag SFN.SFSTAT_A_REQ = true)) ∧
  -- R386, R391
  (∀ (s : State), (s.chan 1).stopped = false → (s.inputLow 1 1 (fun _ => true) = true) → s.mainRuns = true →
      Completes (exec (.safetyCycleB false) s) (fun t => (t.chan 1).st ≠ .run ∧ (t.chan 1).st ≠ .ss1 ∧ t.flag SFN.SFSTAT_B_REQ = true)) ∧
  -- R387
  (∀ (s : State), (s.chan 0).stopped = false → s.mainRuns = true →
      Completes (exec (.safetyCycleA true) s) (fun t => (t.chan 0).stopped = true ∧ (t.chan 0).st = .locked ∧ t.flag SFN.SFSTAT_A_FAIL = true)) ∧
  -- R403, R407
  (∀ (k : Fin 4) (r : RampRef) (s : State), (s.chan 1).stopped = false → s.axEn k = true → s.srcOk 1 k false = true → s.slsOn 1 k = true →
    vget (s.mon 1 k).ramps 0 = some r → overLimit (s.dnat (DP.AX_SLS_LIM k)) (s.dnat (DP.AX_SLS_DEC k)) (r.t + 1) (s.srcV 1 k false) r.vPi = true →
    s.mainRuns = true →
      Completes (exec (.safetyCycleB false) s) (fun t => t.bit SFN.S_STATE_VIOL k = true ∧ (t.mon 1 k).viol = true ∧ (t.chan 1).st ≠ .run)) ∧
  -- R388
  (∀ (s : State), 16 < s.safety.diff → s.mainRuns = true →
      Completes (exec .xdisc s) (fun t => (t.chan 0).st = .locked ∧ (t.chan 1).st = .locked ∧ t.flag SFN.SFSTAT_XDISC = true ∧
        t.get SFN.SFSTAT_LOCK_CAUSE = (if s.get SFN.SFSTAT_LOCK_CAUSE = 0 then 1 else s.get SFN.SFSTAT_LOCK_CAUSE))) ∧
  -- R388
  (∀ (s : State), s.safety.diff ≤ 16 → s.mainRuns = true →
      Completes (exec .xdisc s) (fun t => t = s)) ∧
  -- R388
  (∀ (s : State), (s.chan 0).stopped = false → s.chanWord 0 ≠ s.chanWord 1 → s.mainRuns = true →
      Completes (exec (.safetyCycleA true) s) (fun t => t.safety.diff = s.safety.diff + 1)) ∧
  -- R394
  (∀ (d : Fin 4) (s : State), s.mainRuns = true →
      Completes (exec (.piRecordSend d) s) (fun t => ∀ p : Fin 2, s.flag (PI.PICFG_EN d p) = true →
        vget t.safety.recSeq (2 * d.val + p.val) = (vget s.safety.recSeq (2 * d.val + p.val) + 1) % 256 ∧ SameBut [.safety, .out] s t)) ∧
  -- R394
  (∀ (p : Fin 8) (angle : BitVec 16) (seq : BitVec 8) (s : State),
    ((match vget s.safety.lastSeq p with | some l => decide ((l + 1) % 256 = seq.toNat) | none => true) = true) → s.mainRuns = true →
      Completes (exec (.piRecordReceived p angle false seq true) s) (fun t => vget t.safety.lastSeq p = some seq.toNat ∧ ∀ k : Fin 4,
        s.dnat (DP.AX_PI k) = p.val → (vget t.safety.axes k).angle = some angle.toNat ∧ (vget t.safety.axes k).bad = 0)) ∧
  -- R396
  (∀ (p : Fin 8) (angle : BitVec 16) (los : Bool) (seq : BitVec 8) (s : State), s.mainRuns = true →
      Completes (exec (.piRecordReceived p angle los seq false) s) (fun t => ∀ k : Fin 4, s.dnat (DP.AX_PI k) = p.val →
        (vget t.safety.axes k).bad = (vget s.safety.axes k).bad + 1 ∧ (vget t.safety.axes k).angle = (vget s.safety.axes k).angle ∧
        (3 ≤ (vget s.safety.axes k).bad + 1 → (vget t.safety.axes k).piFail = true))) ∧
  -- R396
  (∀ (p : Fin 8) (s : State), s.mainRuns = true →
      Completes (exec (.piRecordTimeout p) s) (fun t => ∀ k : Fin 4, s.dnat (DP.AX_PI k) = p.val → (vget t.safety.axes k).piFail = true ∧
        t.flag (SFN.AXSTAT_PI_OK k) = false ∧ SameBut [.regs, .safety] s t)) ∧
  -- R420
  (∀ (s : State), s.mainRuns = true →
      Completes (exec .nLinkSilent s) (fun t => t.flag SFN.S_STATE_FAULT = true ∧ t.sys.safetyFault = true ∧ ∀ k : Fin 4, s.dnat (DP.AX_PI k) < 8 →
        (vget t.safety.axes k).piFail = true ∧ t.flag (SFN.AXSTAT_PI_OK k) = false ∧ SameBut [.regs, .safety, .sys, .keeper, .life] s t))

/-- SS1 ends in STO, degraded mode in SS1 and LOCKED; acknowledgements release; mailbox requests are taken or counted.  The model's choices that clauses of it rest on: levels and latches of the safety functions (33), by the number of their entry in notes/assumptions. -/
def Obligations.Stops1AndReleases : Prop :=
  -- R401
  (∀ (s : State), (s.chan 0).st = .ss1 → (s.chan 0).thenLock = false → (s.chan 1).thenLock = false →
    ((List.range 4).all (fun k => !s.axEn k || s.standstill 0 k) = true) → s.mainRuns = true →
      Completes (exec .ss1Standstill s) (fun t => (t.chan 0).st = .sto ∧ t.get SFN.SFREM_SS1_REM = 0 ∧ t.flag SFN.SFSTAT_A_REQ = true)) ∧
  -- R401
  (∀ (s : State), (s.chan 0).st = .ss1 → (s.chan 0).thenLock = false → (s.chan 1).thenLock = false → 4 * s.dnat DP.SAF_SS1_TMAX ≤ (s.chan 0).t →
    s.mainRuns = true →
      Completes (exec .ss1TmaxExpire s) (fun t => (t.chan 0).st = .sto ∧ t.get SFN.SFREM_SS1_REM = 0 ∧ t.flag SFN.SFSTAT_A_REQ = true)) ∧
  -- R401
  (∀ (s : State), (s.chan 0).st ≠ .ss1 ∨ (s.chan 0).t < 4 * s.dnat DP.SAF_SS1_TMAX →
    (s.chan 1).st ≠ .ss1 ∨ (s.chan 1).t < 4 * s.dnat DP.SAF_SS1_TMAX → s.mainRuns = true →
      Completes (exec .ss1TmaxExpire s) (fun t => t = s)) ∧
  -- R397
  (∀ (ch : Fin 2) (k : Fin 4) (s : State), s.axEn k = true → s.srcOk ch k false = true → s.srcOk ch k true = true →
    s.dnat (DP.AX_DISC_V k) < (s.srcV ch k false - s.srcV ch k true).natAbs → s.mainRuns = true →
      Completes (exec (.discVTimeout k) s) (fun t => (t.mon ch k).discV = true ∧ (ch = 1 → t.flag (SFN.AXSTAT_DISC_V k) = true) ∧ SameBut [.regs,
        .safety] s t)) ∧
  -- R409
  (∀ (ch : Fin 2) (s : State), (s.chan ch).degAxis.isSome = true → 4000 * s.dnat DP.SAF_DEG_T ≤ (s.chan ch).degT →
    (s.chan ch).st = .run ∨ (s.chan ch).st = .ss1 → (s.chan 0).thenLock = false → s.mainRuns = true →
      Completes (exec .degTimeout s) (fun t => t.get SFN.SFREM_DEG_REM = 0 ∧ (t.chan ch).degOver = true ∧ (t.chan 0).thenLock = true ∧
        (t.chan 1).thenLock = true ∧ (t.chan ch).st = .ss1)) ∧
  -- R409
  (∀ (s : State), (s.chan 0).degAxis.isSome = true → 4000 * s.dnat DP.SAF_DEG_T ≤ (s.chan 0).degT → (s.chan 0).st = .sto ∨ (s.chan 0).st = .locked →
    (s.chan 1).st = .sto ∨ (s.chan 1).st = .locked → s.mainRuns = true →
      Completes (exec .degTimeout s) (fun t => t.get SFN.SFREM_DEG_REM = 0 ∧ (t.chan 0).degOver = true ∧ (t.chan 0).st = (s.chan 0).st ∧
        SameBut [.regs, .safety] s t ∧ RegsBut [SFN.SFREM] s t)) ∧
  -- R409
  (∀ (s : State), (s.chan 0).degAxis = none ∨ (s.chan 0).degT < 4000 * s.dnat DP.SAF_DEG_T →
    (s.chan 1).degAxis = none ∨ (s.chan 1).degT < 4000 * s.dnat DP.SAF_DEG_T → s.mainRuns = true →
      Completes (exec .degTimeout s) (fun t => t = s)) ∧
  -- R393, R407
  (∀ (ch : Fin 2) (s : State), (s.chan ch).resetEdge = true → s.mayRelease ch = true → s.mainRuns = true →
      Completes (exec (.restartAck .control) s) (fun t => (t.chan ch).st = .run ∧ (∀ k : Fin 4, (t.mon ch k).viol = false) ∧
        (t.chan ch).resetEdge = false)) ∧
  -- R393
  (∀ (s : State), (s.chan 0).resetEdge = false → (s.chan 1).resetEdge = false → s.mainRuns = true →
      Completes (exec (.restartAck .control) s) (fun t => (t.chan 0).st = (s.chan 0).st ∧ (t.chan 1).st = (s.chan 1).st ∧ SameBut [.safety] s t)) ∧
  -- R393
  (∀ (ch : Fin 2) (n : Fin 8) (s : State), s.dnat (DP.SI_FUNC n) = 8 → 2000 ≤ (s.safeInput ch n).pulse → (s.safeInput ch n).pulse ≤ 60000 →
    s.mayRelease ch = true → s.mainRuns = true →
      Completes (exec (.restartAck (.input n)) s) (fun t => (t.chan ch).st = .run ∧ (∀ k : Fin 4, (t.mon ch k).viol = false) ∧
        (t.safeInput ch n).pulse = 0)) ∧
  -- R393
  (∀ (n : Fin 8) (s : State), (s.safeInput 0 n).pulse < 2000 ∨ 60000 < (s.safeInput 0 n).pulse →
    (s.safeInput 1 n).pulse < 2000 ∨ 60000 < (s.safeInput 1 n).pulse → s.mainRuns = true →
      Completes (exec (.restartAck (.input n)) s) (fun t => ∀ ch : Fin 2, (t.safeInput ch n).pulse = 0 ∧ (t.chan ch).st = (s.chan ch).st ∧
        SameBut [.safety] s t)) ∧
  -- R441
  (∀ (c : Fin 2) (v : Bool) (s : State), s.get (arbRole c) = 3 → s.mainRuns = true →
      Completes (exec (.mbxStoReq c v) s) (fun t => t.flag MBX.MBXREQ_STO_REQ = v ∧ t.flag MBX.MBXREQ_SS1_REQ = s.flag MBX.MBXREQ_SS1_REQ)) ∧
  -- R441
  (∀ (c : Fin 2) (v : Bool) (s : State), s.get (arbRole c) = 3 → s.mainRuns = true →
      Completes (exec (.mbxSs1Req c v) s) (fun t => t.flag MBX.MBXREQ_SS1_REQ = v ∧ t.flag MBX.MBXREQ_STO_REQ = s.flag MBX.MBXREQ_STO_REQ)) ∧
  -- R393
  (∀ (c : Fin 2) (s : State), s.get (arbRole c) = 3 → s.dnat DP.SAF_RST_MBX = 1 →
    (((s.setB MBX.MBXREQ_STO_REQ (s.flag MBX.MBXREQ_STO_REQ)).setB MBX.MBXREQ_SS1_REQ (s.flag MBX.MBXREQ_SS1_REQ)).evaluateBoth).mayRelease 0 = true
    → s.mainRuns = true →
      Completes (exec (.mbxReset c) s) (fun t => (t.chan 0).st = .run)) ∧
  -- R441
  (∀ (c : Fin 2) (v : Bool) (s : State), s.get (arbRole c) ≠ 3 → s.mainRuns = true →
      Completes (exec (.mbxStoReq c v) s) (fun t => t.get MBX.MBXSTAT_MBX_REJ = min (s.get MBX.MBXSTAT_MBX_REJ + 1) (2 ^ MBX.MBXSTAT_MBX_REJ.w - 1) ∧
        SameBut [.regs] s t ∧ RegsBut [MBX.MBXSTAT] s t))

/-- Safe inputs and outputs: samples, discrepancies, test pulses, faults, comparator windows and the guard test.  The model's choices that clauses of it rest on: the guard test (34), by the number of their entry in notes/assumptions. -/
def Obligations.SafeInputsAndOutputs : Prop :=
  -- R386, R418
  (∀ (p : Vector SafetyPins 2) (s : State), s.mainRuns = true →
      Completes (exec (.safetyInputSample p) s) (fun t => t.safety.samples = s.safety.samples + 1 ∧ (∀ (ch : Fin 2) (n : Fin 8),
        (t.chan ch).scmpOut.testBit n = s.scmpOutside n (vget (vget p ch).scmp n).toNat) ∧ t.get SIO.SCMP_SCMP_OUT = (t.chan 1).scmpOut ∧
        t.get SIO.SOSTAT_SOA = (vget p 1).so.toNat % 16 ∧ t.flag SFN.SFSTAT_STO_A = (vget p 1).sto.getLsbD 0 ∧
        t.flag SFN.SFSTAT_STO_B = (vget p 1).sto.getLsbD 1)) ∧
  -- R411, R412
  (∀ (ch : Fin 2) (n : Fin 8) (s : State), pairValue (decide (s.dnat (DP.SI_TYPE n) = 1)) (s.safeInput ch n).a (s.safeInput ch n).b = none →
    s.mainRuns = true →
      Completes (exec (.siDisc n) s) (fun t => (t.safeInput ch n).disc = true ∧ (t.safeInput ch n).value = false ∧ (ch = 1 →
        t.bit SIO.SISTAT_SI_DISC n = true ∧ t.bit SFN.S_STATE_SI_VAL n = false) ∧ SameBut [.regs, .safety] s t ∧ RegsBut [SIO.SISTAT,
        SFN.S_STATE] s t)) ∧
  -- R413, R414
  (∀ (tp : Fin 4) (pins : BitVec 16) (s : State), ((List.range 8).any (fun n => decide (s.dnat (DP.SI_TP_EN n) = 1)) = true) → s.mainRuns = true →
      Completes (exec (.testPulse tp pins) s) (fun t => t.out = ⟨.testPulse, Die.s.code, [tp.val]⟩ :: s.out ∧
        t.get SIO.SOSTAT_TP_LVL = 15 - 2 ^ tp.val ∧ ∀ n : Fin 8, s.dnat (DP.SI_TP_EN n) = 1 → s.dnat (DP.SI_TPA n) % 4 = tp.val →
        pins.getLsbD n = true → t.bit SIO.SISTAT_SI_TPF n = true)) ∧
  -- R416
  (∀ (n : Fin 4) (b : Bool) (s : State), s.dnat (DP.SO_TEST n) = 1 → vget s.safety.soLeft (n.val + (if b then 0 else 4)) = 0 → s.mainRuns = true →
      Completes (exec (.soTestPulse n b) s) (fun t => t.out = ⟨.testPulse, Die.s.code, [4 + n.val + (if b then 4 else 0)]⟩ :: s.out ∧
        vget t.safety.soLeft (n.val + (if b then 4 else 0)) = 10 ∧ SameBut [.safety, .out] s t)) ∧
  -- R416
  (∀ (n : Fin 4) (b : Bool) (s : State), vget s.safety.soLeft (n.val + (if b then 0 else 4)) ≠ 0 → s.mainRuns = true →
      Completes (exec (.soTestPulse n b) s) (fun t => t = s)) ∧
  -- R417
  (∀ (n : Fin 4) (s : State), (s.soDiffers n 0 || s.soDiffers n 1) = true → s.mainRuns = true →
      Completes (exec (.soFlt n) s) (fun t => t.bit SIO.SOSTAT_SO_FLT n = true ∧ t.sys.safetyFault = true)) ∧
  -- R417
  (∀ (n : Fin 4) (s : State), (s.soDiffers n 0 || s.soDiffers n 1) = false → s.mainRuns = true →
      Completes (exec (.soFlt n) s) (fun t => t = s)) ∧
  -- R418
  (∀ (ch : Fin 2) (n : Fin 8) (s : State), s.dnat (DP.SCMP_EN n) = 1 → (s.chan ch).scmpOut.testBit n = true → s.mainRuns = true →
      Completes (exec (.scmpWindowViolation n) s) (fun t => t.bit SIO.SCMP_SCMP_WIN n = true ∧ (t.chan ch).scmpWin.testBit n = true)) ∧
  -- R418
  (∀ (n : Fin 8) (s : State), s.dnat (DP.SCMP_EN n) ≠ 1 ∨ ((s.chan 0).scmpOut.testBit n = false ∧ (s.chan 1).scmpOut.testBit n = false) →
    s.mainRuns = true →
      Completes (exec (.scmpWindowViolation n) s) (fun t => t = s)) ∧
  -- R422
  (∀ (s : State), 2592000 ≤ s.sys.gtSecs → s.mainRuns = true →
      Completes (exec .gtDue s) (fun t => t.flag SFN.SFSTAT_GT_DUE = true ∧ SameBut [.regs] s t ∧ RegsBut [SFN.SFSTAT] s t)) ∧
  -- R422
  (∀ (s : State), s.sys.gtSecs < 2592000 → s.mainRuns = true →
      Completes (exec .gtDue s) (fun t => t = s)) ∧
  -- R424
  (∀ (ack : BitVec 4) (s : State), (∀ e : Fin 4, (vget s.drives e).retired = false → ack.getLsbD e = true) → s.mainRuns = true →
      Completes (exec (.guardTest ack) s) (fun t => t.flag SFN.SFSTAT_GT_DONE = true ∧ t.flag SFN.SFSTAT_GT_DUE = false ∧ t.sys.gtSecs = 0)) ∧
  -- R424
  (∀ (ack : BitVec 4) (d : Fin 4) (s : State), (vget s.drives d).retired = false → ack.getLsbD d = false → s.mainRuns = true →
      Completes (exec (.guardTest ack) s) (fun t => (vget t.drives d).retired = true ∧ (t.chan 0).st = .locked ∧ (t.chan 1).st = .locked ∧
        t.sys.safetyFault = true))

/-- Safety connections accept and send frames; the safety session, its password and APPLY.  The model's choices that clauses of it rest on: frames and passwords (35, 36), by the number of their entry in notes/assumptions. -/
def Obligations.SafetyLinksAndSession : Prop :=
  -- R434
  (∀ (c : Fin 48) (payload : List (BitVec 8)) (s : State), s.dnat (DP.CONN_EN c) = 1 → s.dnat (DP.CONN_DIR c) % 2 = 0 →
    s.get (SCONN.SCST_STATE c) = 1 → (payload.map BitVec.toNat).length = 12 + (payload.map BitVec.toNat).getD 0 0 →
    (payload.map BitVec.toNat).getD 0 0 ≤ 32 → (payload.map BitVec.toNat).getD 1 0 = 1 → s.dnat (DP.CONN_MAX_AGE c) = 0 →
    frameCheck (s.dnat (DP.CONN_CONN_ID c)) 0 ((payload.map BitVec.toNat).take (8 + (payload.map BitVec.toNat).getD 0 0)) = leNum (((payload.map
    BitVec.toNat).drop (8 + (payload.map BitVec.toNat).getD 0 0)).take 4) → s.mainRuns = true →
      Completes (exec (.safetyFrameReceived c payload) s) (fun t => t.get (SCONN.SCST_STATE c) = 2 ∧
        t.reg (SCONN.SCSEQ c) = BitVec.ofNat 32 (leNum (((payload.map BitVec.toNat).drop 2).take 2)) ∧ (vget t.safety.conns c).timedOut = false ∧
        t.get (SCONN.SCST_ACC_CNT c) = (s.get (SCONN.SCST_ACC_CNT c) + 1) % 2 ^ (SCONN.SCST_ACC_CNT c).w)) ∧
  -- R434
  (∀ (c : Fin 48) (payload : List (BitVec 8)) (s : State), s.dnat (DP.CONN_EN c) = 1 → s.dnat (DP.CONN_DIR c) % 2 = 0 →
    (payload.map BitVec.toNat).length ≠ 12 + (payload.map BitVec.toNat).getD 0 0 → s.mainRuns = true →
      Completes (exec (.safetyFrameReceived c payload) s) (fun t => t.get (SCONN.SCREJ_REJ_LEN c) = min (s.get (SCONN.SCREJ_REJ_LEN c) + 1) (2 ^
        (SCONN.SCREJ_REJ_LEN c).w - 1) ∧ SameBut [.regs] s t ∧ RegsBut [SCONN.SCREJ c] s t)) ∧
  -- R435
  (∀ (c : Fin 48) (s : State), s.dnat (DP.CONN_EN c) = 1 → s.dnat (DP.CONN_DIR c) % 2 = 0 → s.mainRuns = true →
      Completes (exec (.safetyConnTimeout c) s) (fun t => (vget t.safety.conns c).timedOut = true ∧ t.get (SCONN.SCST_STATE c) = 1 ∧
        t.get (SCONN.SCST_LOST_CNT c) = min (s.get (SCONN.SCST_LOST_CNT c) + 1) (2 ^ (SCONN.SCST_LOST_CNT c).w - 1))) ∧
  -- R433, R439
  (∀ (c : Fin 48) (pass : Bool) (s : State), s.dnat (DP.CONN_EN c) = 1 → s.dnat (DP.CONN_DIR c) % 2 = 1 → s.mainRuns = true →
      Completes (exec (.safetyFrameSend c pass) s) (fun t => (vget t.safety.conns c).next = ((vget s.safety.conns c).next + 1) % 2 ^ 32 ∧
        (pass = true → t.reg (SCONN.SCSEQ c) = BitVec.ofNat 32 (vget s.safety.conns c).next))) ∧
  -- R440
  (∀ (s : State), s.mainRuns = true →
      Completes (exec .sStatePublish s) (fun t => (t.cmd 0).sState = s.reg SFN.S_STATE ∧ (t.cmd 1).sState = s.reg SFN.S_STATE ∧ t.out = ⟨.sState,
        Die.s.code, [(s.reg SFN.S_STATE).toNat]⟩ :: s.out ∧ SameBut [.cmds, .out] s t)) ∧
  -- R425
  (∀ (ctx : Fin 128) (pw : List (BitVec 8)) (s : State), s.safety.session = none → s.safety.pw.locked (s.get RTC.RTC_SEC_SEC) = false →
    s.safety.pw.unchecked (pw.map BitVec.toNat) = false → (s.safety.pw.matches (pw.map BitVec.toNat) = true) → s.mainRuns = true →
      Completes (exec (.safetyLogin ctx pw) s) (fun t => t.safety.session = some ctx.val ∧ t.safety.opened = s.safety.opened + 1 ∧
        t.safety.pend = s.safety.pend ∧ t.safety.pw.fails = 0)) ∧
  -- R426
  (∀ (ctx : Fin 128) (pw : List (BitVec 8)) (s : State), s.safety.session = none → s.safety.pw.locked (s.get RTC.RTC_SEC_SEC) = false →
    s.safety.pw.unchecked (pw.map BitVec.toNat) = false → (s.safety.pw.matches (pw.map BitVec.toNat) = false) → s.mainRuns = true →
      Completes (exec (.safetyLogin ctx pw) s) (fun t => t.safety.session = none ∧ t.safety.pw = s.safety.pw.fail (s.get RTC.RTC_SEC_SEC))) ∧
  -- R428
  (∀ (s : State), s.mainRuns = true →
      Completes (exec .safetyLogout s) (fun t => t.safety.session = none ∧ t.safety.pend = [] ∧ t.safety.asked.any (fun a => a.apply) = false)) ∧
  -- R428
  (∀ (s : State), s.mainRuns = true →
      Completes (exec .safetySessionTimeout s) (fun t => t.safety.session = none ∧ t.safety.pend = [] ∧
        t.safety.asked.any (fun a => a.apply) = false)) ∧
  -- R425, R427, R508
  (∀ (pw : List (BitVec 8)) (s : State), s.safety.asked = none → s.safety.session.isSome = true → 8 ≤ pw.length → pw.length ≤ 64 → s.mainRuns = true →
      Completes (exec (.newPassword pw) s) (fun t => t.safety.asked.any (fun a => a.pw.any (fun p => decide (p.hash = some (sha256 (p.salt ++ (pw.map
        BitVec.toNat)))) && decide (p.salt.length = 16))) = true ∧ t.safety.pw = s.safety.pw)) ∧
  -- R507
  (∀ (pw : List (BitVec 8)) (s : State), s.safety.asked.isSome = true → s.mainRuns = true →
      Completes (exec (.newPassword pw) s) (fun t => t = s)) ∧
  -- R429
  (∀ (v : BitVec 32) (s : State), s.safety.asked = none → s.safety.session.isSome = true → s.safety.pw.hash.isSome = true →
    (s.chan 0).st = .sto ∨ (s.chan 0).st = .locked → (s.chan 1).st = .sto ∨ (s.chan 1).st = .locked →
    ((s.connFlows s.safety.pend).any (fun f => decide (s.dnat (DP.FC_TYPE f) = 1 ∨ s.dnat (DP.FC_TYPE f) = 2 ∨ s.dnat (DP.FC_TYPE f) = 4)) = false) →
    (s.connFlows s.safety.pend).Nodup → v.toNat = s.safetyCrc s.safety.pend → s.mainRuns = true →
      Completes (exec (.apply v) s) (fun t => t.safety.asked.any (fun a => a.apply) = true ∧ t.safety.pend = s.safety.pend ∧ t.vars = s.vars)) ∧
  -- R428, R429
  (∀ (v : BitVec 32) (s : State), s.safety.session = none ∨ s.safety.asked.isSome = true → s.mainRuns = true →
      Completes (exec (.apply v) s) (fun t => t = s))

/-- Main resets, a start, the release of the command dies and BOOT_OK.  The model's choices that clauses of it rest on: the order of the steps of a start (53) and what a reset keeps (52), by the number of their entry in notes/assumptions. -/
def Obligations.ResetsAndStarts : Prop :=
  -- R443
  (∀ (s : State),
      Completes (exec .mainDomainsGood s) (fun t => t.power.good = true ∧ t.power.vdd18 = true ∧ SameBut [.power] s t)) ∧
  -- R445
  (∀ (v : Bool) (s : State),
      Completes (exec (.mainSupplyFall v) s) (fun t => t.power.good = false ∧ t.power.reset = true ∧ t.power.vdd18 = (!v) ∧ (∀ a : Nat,
        outlastsReset a = false → s.standbyReg a = false → t.reg a = resetWord a) ∧ t.mem = [] ∧ t.cmds = Vector.replicate 2 {})) ∧
  -- R445
  (∀ (s : State),
      Completes (exec .resetNLow s) (fun t => t.power.reset = true ∧ t.power.good = s.power.good ∧ (∀ a : Nat, outlastsReset a = false →
        s.standbyReg a = false → t.reg a = resetWord a) ∧ t.mem = [] ∧ t.cmds = Vector.replicate 2 {})) ∧
  -- R603
  (∀ (s : State),
      Completes (exec (.testEnChange true) s) (fun t => t.power.test = true ∧ t.power.reset = true ∧ (∀ a : Nat, outlastsReset a = false →
        s.standbyReg a = false → t.reg a = resetWord a) ∧ t.mem = [] ∧ t.cmds = Vector.replicate 2 {})) ∧
  -- R603
  (∀ (s : State),
      Completes (exec (.testEnChange false) s) (fun t => t.power.test = false ∧ SameBut [.power] s t)) ∧
  -- R443
  (∀ (c : Instr) (s : State), s.mainRuns = false →
      (match c with
       | .rtcTrim => True
       | .rtcXtalFail => True
       | .cmpOutChange _ _ _ => True
       | .commandDieRestartDone _ _ _ => True
       | .mainDomainsGood => True
       | .mainSupplyFall _ => True
       | .resetNLow => True
       | .start _ => True
       | .commandDieRelease _ => True
       | .bootTmoExpire => True
       | .checkpointTimer => True
       | .vkinChange _ => True
       | .keeperPowerOn => True
       | .keeperBrownOut => True
       | .keeperEvaluation _ _ _ => True
       | .leanVocMeasure _ => True
       | .richMpptStep _ _ => True
       | .harvesterIdleCheck _ => True
       | .burstRequest _ => True
       | .burstStart => True
       | .burstComplete => True
       | .wakeRequest _ _ => True
       | .wakeAlarm => True
       | .wakePulseEnd => True
       | .rtcSecond _ => True
       | .lifetimeMerge => True
       | .parkedMerge => True
       | .ma7End _ _ => True
       | .testEnChange _ => True
       | _ => exec c s = .next s)) ∧
  -- R449, R613
  (∀ (x : StartInput) (s : State), s.mayStart = true →
      Completes (exec (.start x) s) (fun t => t.power.hold = true ∧ (x.bistN = false → x.bistS = false → t.power.reset = false ∧ ∀ c : Fin 2,
        vget t.power.flash c = if (vget x.flash c).octal then ⟨some (vget x.flash c), true,
        min 200 (vget x.flash c).mhz.toNat⟩ else ⟨some (vget x.flash c), false, 25⟩))) ∧
  -- R452
  (∀ (ms : BitVec 32) (s : State), s.mainRuns = true → s.power.released = false → s.get START.STSTAT_KIND ≠ 2 → s.power.runs ≠ 0 →
      Completes (exec (.commandDieRelease ms) s) (fun t => t.power.released = true ∧ t.get START.SMS_REL_MS = min 65535 ms.toNat ∧
        t.arb.wire = some (if s.power.runs = 2 then 1 else 0))) ∧
  -- R337, R452
  (∀ (ms : BitVec 32) (s : State), s.mainRuns = true → s.power.released = false → s.get START.STSTAT_KIND ≠ 2 → s.power.runs = 3 →
      Completes (exec (.commandDieRelease ms) s) (fun t => t.role 0 = 3 ∧ t.role 1 = 2 ∧ t.get (arbRole 0) = 3 ∧ t.get (arbRole 1) = 2 ∧
        t.arb.wire = some 0 ∧ ∀ c : Fin 2, (t.cmd c).run.isSome = true ∧ (t.cmd c).lastCpn = 0)) ∧
  -- R453
  (∀ (s : State), s.power.released = true → s.flag START.STSTAT_BOOT_DONE = false → s.flag START.STSTAT_RECOV = false → s.mainRuns = true →
      Completes (exec .bootOk s) (fun t => t.flag START.STSTAT_BOOT_DONE = true ∧ t.get START.SMS_OK_MS = min 65535 s.power.ms ∧ SameBut [.regs,
        .sys, .keeper] s t ∧ RegsBut [START.STSTAT, START.SMS, KPR.KQ] s t)) ∧
  -- R454
  (∀ (s : State), s.mainRuns = true → s.power.released = true → s.flag START.STSTAT_BOOT_DONE = false → s.power.stopStep = 0 →
      Completes (exec .bootTmoExpire s) (fun t => t.power.reset = true ∧ (∀ a : Nat, outlastsReset a = false → s.standbyReg a = false →
        t.reg a = resetWord a) ∧ t.mem = [] ∧ t.cmds = Vector.replicate 2 {}))

/-- STOP and RESTART begin the controlled stop; its commits and its end.  The model's choices that clauses of it rest on: what a reset keeps (52), by the number of their entry in notes/assumptions. -/
def Obligations.ControlledStops : Prop :=
  -- R457
  (∀ (s : State), s.flag START.STSTAT_BOOT_DONE = true → s.flag START.STSTAT_STOPPING = false → s.mainRuns = true →
      Completes (exec .stop s) (fun t => t.flag START.STSTAT_STOPPING = true ∧ t.power.stopStep = 1 ∧ t.power.restart = false)) ∧
  -- R457
  (∀ (s : State), s.flag START.STSTAT_BOOT_DONE = false → s.mainRuns = true →
      Completes (exec .stop s) (fun t => t.flag START.STSTAT_STOP_REJ = true ∧ t.flag START.STSTAT_STOPPING = s.flag START.STSTAT_STOPPING ∧
        SameBut [.regs] s t ∧ RegsBut [START.STSTAT] s t)) ∧
  -- R456, R458
  (∀ (v : BitVec 8) (s : State), v.toNat = 1 ∨ v.toNat = 2 → s.flag START.STSTAT_STOPPING = false → s.mainRuns = true →
      Completes (exec (.restart v) s) (fun t => t.flag START.STSTAT_STOPPING = true ∧ t.power.stopStep = 1 ∧ t.power.restart = true ∧ (v.toNat = 1 →
        t.sys.coldNext = true) ∧ t.sys.latch = false)) ∧
  -- R458
  (∀ (v : BitVec 8) (s : State), v.toNat = 1 ∨ v.toNat = 2 → s.flag START.STSTAT_STOPPING = true → s.mainRuns = true →
      Completes (exec (.restart v) s) (fun t => t.flag START.STSTAT_STOP_REJ = true ∧ SameBut [.regs] s t ∧ RegsBut [START.STSTAT] s t)) ∧
  -- R458
  (∀ (v : BitVec 8) (s : State), v.toNat ≠ 1 → v.toNat ≠ 2 → s.mainRuns = true →
      Completes (exec (.restart v) s) (fun t => t = s)) ∧
  -- R457
  (∀ (s : State), s.power.stopStep = 1 → s.bothRemoved = true → s.mainRuns = true →
      Completes (exec .controlledStopCommit s) (fun t => t.power.stopStep = 2 ∧ ∀ m : Fin 3, (t.meter m).waiting.isSome = true)) ∧
  -- R457, R459
  (∀ (s : State), s.power.stopStep = 2 → s.stopCommitsWait = false → s.power.restart = false → s.mainRuns = true →
      Completes (exec .controlledStopComplete s) (fun t => t.power.stopStep = 3 ∧ t.power.hold = false ∧
        t.power.standby = decide (s.dnat DP.SYS_STOP_KIND = 1) ∧ t.sys.stopSec = some (s.get RTC.RTC_SEC_SEC) ∧ SameBut [.regs, .life, .sys, .power,
        .keeper] s t ∧ RegsBut [KPR.KQ] s t)) ∧
  -- R458
  (∀ (s : State), s.power.stopStep = 2 → s.stopCommitsWait = false → s.power.restart = true → s.mainRuns = true →
      Completes (exec .controlledStopComplete s) (fun t => t.power.reset = true ∧ (∀ a : Nat, outlastsReset a = false → s.standbyReg a = false →
        t.reg a = resetWord a) ∧ t.mem = [] ∧ t.cmds = Vector.replicate 2 {})) ∧
  -- R459
  (∀ (s : State), s.mainRuns = true → s.keeper.powered = true → s.keeper.running ≠ some 4 →
      Completes (exec .checkpointTimer s) (fun t => t.bit KPR.KQ_QUEUE 4 = true ∧ SameBut [.regs, .keeper] s t ∧ RegsBut [KPR.KQ] s t))

/-- Frames received are forwarded round the ring or counted as dropped; a queued frame starts and leaves; the ring is checked; links go up and down.  The model's choices that clauses of it rest on: frame limits (37), by the number of their entry in notes/assumptions. -/
def Obligations.EthernetFrames : Prop :=
  -- R466, R467
  (∀ (bytes : List (BitVec 8)) (ts : Int) (s : State), s.portUp 0 = true → s.portUp 1 = true → 60 ≤ bytes.length → bytes.length ≤ 1514 →
    (ethView (bytes.map BitVec.toNat)).tag = none → (ethView (bytes.map BitVec.toNat)).dst ≠ s.mac 0 →
    (ethView (bytes.map BitVec.toNat)).dst / 2 ^ 40 % 2 = 0 → (∀ q : Fin 3, (ethView (bytes.map BitVec.toNat)).src ≠ s.mac q) →
    (ethView (bytes.map BitVec.toNat)).etype ≠ 0x88F7 → s.flag (ETH.PSTAT_BLOCKED 1) = false → (s.eth 1).queue = [] → s.mainRuns = true →
      Completes (exec (.ethFrameReceived 0 bytes true ts) s) (fun t => (t.eth 1).queue = [(s.queueOf 1 none,
        { bytes := (bytes.map BitVec.toNat) })] ∧ SameBut [.net] s t)) ∧
  -- R467
  (∀ (p : Fin 3) (bytes : List (BitVec 8)) (ts : Int) (s : State), s.portUp p = true → s.mainRuns = true →
      Completes (exec (.ethFrameReceived p bytes false ts) s) (fun t => t.get (ETH.DROPCNT_RX_DROP_CNT p) = min (s.get (ETH.DROPCNT_RX_DROP_CNT p) +
        1) (2 ^ (ETH.DROPCNT_RX_DROP_CNT p).w - 1) ∧ SameBut [.regs] s t ∧ RegsBut [ETH.DROPCNT p] s t)) ∧
  -- R472
  (∀ (p : Fin 3) (ts : Int) (q : Fin 8) (f : NetFrame) (s : State), s.portUp p = true → (s.eth p).tx = none → s.gateList p = none →
    (s.eth p).queue = [(q.val, f)] → s.mainRuns = true →
      Completes (exec (.ethTransmitStart p ts) s) (fun t => (t.eth p).tx.map (fun x => x.bytes) = some (s.ptpCorrect f (ts + s.getS
        (ETH.EGR_ASYM_EGR_ASYM p))) ∧ (t.eth p).queue = [] ∧ SameBut [.net] s t)) ∧
  -- R472
  (∀ (p : Fin 3) (f : NetFrame) (s : State), (s.eth p).tx = some f → f.flow = none → s.mainRuns = true →
      Completes (exec (.ethTransmitEnd p) s) (fun t => (t.eth p).tx = none ∧ t.out = ⟨.etherFrame, p.val, f.bytes⟩ :: s.out ∧ SameBut [.net,
        .out] s t)) ∧
  -- R468
  (∀ (s : State), s.manager = true → s.mainRuns = true →
      Completes (exec .ringCheckSend s) (fun t => t.net.ring.seq = (s.net.ring.seq + 1) % 2 ^ 32 ∧ t.net.ring.seen = false)) ∧
  -- R470
  (∀ (p : Fin 3) (s : State), s.mainRuns = true →
      Completes (exec (.portLinkDown p) s) (fun t => t.flag (ETH.PSTAT_LINK_UP p) = false ∧ (t.eth p).tx = none ∧ SameBut [.regs, .net] s t)) ∧
  -- R470
  (∀ (p : Fin 3) (s : State), s.mainRuns = true →
      Completes (exec (.portLinkUp p) s) (fun t => t.flag (ETH.PSTAT_LINK_UP p) = true ∧ SameBut [.regs] s t ∧ RegsBut [ETH.PSTAT p] s t))

/-- Transmission gates switch and process data is sent, released and lost as the rules say.  The model's choices that clauses of it rest on: gates and process frames (41, 42), by the number of their entry in notes/assumptions. -/
def Obligations.GatesAndProcessData : Prop :=
  -- R474
  (∀ (p : Fin 3) (s : State), 1000 ≤ (s.adminList p).cycle → s.get (GATE.GCFG_ADM_LEN p) ≤ 64 → s.mainRuns = true →
      Completes (exec (.gateApply p) s) (fun t => (t.eth p).pend.isSome = true ∧ t.flag (GATE.GSTAT_PENDING p) = true ∧ SameBut [.regs, .net] s t ∧
        RegsBut [GATE.GSTAT p] s t)) ∧
  -- R474
  (∀ (p : Fin 3) (s : State), (s.adminList p).cycle < 1000 → s.mainRuns = true →
      Completes (exec (.gateApply p) s) (fun t => t.flag (GATE.GSTAT_GATE_CFG_ERR p) = true ∧ SameBut [.regs] s t ∧ RegsBut [GATE.GSTAT p] s t)) ∧
  -- R474
  (∀ (p : Fin 3) (g : GateList) (at0 : Nat) (s : State), (s.eth p).pend = some (at0, g) → at0 ≤ s.ltNs → s.mainRuns = true →
      Completes (exec (.gateListSwitch p) s) (fun t => (t.eth p).oper = some g ∧ (t.eth p).pend = none ∧ t.flag (GATE.GSTAT_PENDING p) = false ∧
        t.flag (GATE.GSTAT_OPER_ACTIVE p) = true)) ∧
  -- R473
  (∀ (p : Fin 3) (s : State), s.mainRuns = true →
      Completes (exec (.gateIntervalEnd p) s) (fun t => (t.eth p).gates = s.gatesNow p ∧ SameBut [.net] s t)) ∧
  -- R519
  (∀ (f : Fin 128) (b : List Nat) (s : State), (vget s.flows f).released = some b → s.use f = 2 →
    (if s.dnat (DP.FC_PERIOD f) = 0 then (vget s.flows f).fresh else s.slotNow f) = true → s.mainRuns = true →
      Completes (exec (.processTxSlot f) s) (fun t => (vget t.flows f).stale = !(vget s.flows f).fresh ∧ (vget t.flows f).fresh = false)) ∧
  -- R519
  (∀ (f : Fin 128) (b : List Nat) (s : State), (vget s.flows f).released = some b → s.use f = 2 → s.dnat (DP.FC_PERIOD f) ≠ 0 → s.slotNow f = true →
    s.mainRuns = true →
      Completes (exec (.processTxSlot f) s) (fun t => (vget t.flows f).stale = !(vget s.flows f).fresh)) ∧
  -- R519
  (∀ (f : Fin 128) (s : State), s.dnat (DP.FC_PERIOD f) ≠ 0 → s.slotNow f = false → s.mainRuns = true →
      Completes (exec (.processTxSlot f) s) (fun t => t = s)) ∧
  -- R519
  (∀ (w : Fin 4) (m : BitVec 32) (s : State), s.mainRuns = true →
      Completes (exec (.txRel w m) s) (fun t => ∀ i : Fin 32, m.toNat.testBit i = true → s.use (32 * w.val + i.val) = 2 →
        (vget t.flows (32 * w.val + i.val)).fresh = true ∧ (vget t.flows (32 * w.val + i.val)).begun = false ∧
        (vget t.flows (32 * w.val + i.val)).released = some ((Memory.readBytes s.mem (0x48280000 + 0x800 * (32 * w.val + i.val)) (s.dnat (DP.FC_LEN
        (32 * w.val + i.val)))).map BitVec.toNat) ∧ SameBut [.flows] s t)) ∧
  -- R520
  (∀ (f : Fin 128) (s : State), s.use f = 1 → s.dnat (DP.FC_PERIOD f) ≠ 0 → (vget s.flows f).rxLost = false → s.mainRuns = true →
      Completes (exec (.processRxLost f) s) (fun t => (vget t.flows f).rxLost = true ∧ t.dict.bsn = s.dict.bsn + 1 ∧ SameBut [.flows, .dict,
        .cmds] s t))

/-- PTP messages, overdue masters, the return to domain A, the leap second, and what S is told of LT.  The model's choices that clauses of it rest on: PTP by IEEE 1588 (39), local time (40), by the number of their entry in notes/assumptions. -/
def Obligations.TimeAndDomains : Prop :=
  -- R482
  (∀ (s : State), s.mainRuns = true →
      Completes (exec .ltNsRead s) (fun t => t.net.holdLo = some (s.ltNs / 10 ^ 9 % 2 ^ 32) ∧ t.net.holdHi = some (s.ltNs / 10 ^ 9 / 2 ^ 32) ∧
        t.out = ⟨.readReturn, Die.n.code, [TIME.LT_NS, s.get TIME.LT_NS_LT_NS]⟩ :: s.out ∧ SameBut [.net, .out] s t)) ∧
  -- R477, R481
  (∀ (p : Fin 3) (m : PtpMsg) (ts receipt t1 : Int) (s : State), s.flag (ETH.PCFG_PTP_EN p) = true → m.body = .pdelayResp true receipt →
    s.peerDelay p = true → m.seq.toNat = (s.eth p).pSeq → (s.eth p).pReq = some t1 → s.mainRuns = true →
      Completes (exec (.ptpMessageReceived p m ts) s) (fun t => (t.eth p).pResp = some (receipt - m.correction,
        ts - s.getS (ETH.ING_ASYM_ING_ASYM p)) ∧ SameBut [.net] s t)) ∧
  -- R481
  (∀ (p : Fin 3) (s : State), s.flag (ETH.PCFG_PTP_EN p) = true → s.peerDelay p = true → s.mainRuns = true →
      Completes (exec (.ptpDelayReqSend p) s) (fun t => (t.eth p).pSeq = ((s.eth p).pSeq + 1) % 65536 ∧ (t.eth p).pReq = none)) ∧
  -- R484, R486
  (∀ (x : Fin 2) (s : State), s.mainRuns = true →
      Completes (exec (.domainTimeout x false) s) (fun t => (t.dom x).sync = false ∧ (t.dom x).good = 0 ∧ (t.dom x).twoStep = none)) ∧
  -- R484, R486
  (∀ (x : Fin 2) (m : PtpMaster) (s : State), (s.dom x).best = some m → s.mainRuns = true →
      Completes (exec (.domainTimeout x true) s) (fun t => (t.dom x).twoStep = none ∧ (t.dom x).dReq = none ∧
        (t.dom x).masters.length < (s.dom x).masters.length)) ∧
  -- R487
  (∀ (s : State), s.sel = 2 → s.flag TIME.TCFG_A_PREF = true → (s.dom 0).valid = true → s.mainRuns = true →
      Completes (exec .domainReturn s) (fun t => t.sel = 1)) ∧
  -- R489
  (∀ (s : State), s.mainRuns = true →
      Completes (exec .ltToS s) (fun t => t.safety.lt = s.ltNs / 1000 % 2 ^ 32 ∧ t.safety.ltLocked = s.flag TIME.TSTAT_SYNCED)) ∧
  -- R490
  (∀ (m : PtpMaster) (s : State), s.sel ≠ 0 → (s.dom (s.sel - 1)).best = some m → m.leap ≠ 0 → s.mainRuns = true →
      Completes (exec .leapSecond s) (fun t => t.net.utc = some (s.utcOfs + m.leap) ∧
        t.net.leapAdj = (if m.utc.isSome then s.net.leapAdj else s.net.leapAdj + m.leap) ∧ SameBut [.net] s t))

/-- A compare unit is armed by its enable or its target, fires once its target is reached, and a capture unit takes the time of an edge.  The model's choices that clauses of it rest on: captures and late targets (40), by the number of their entry in notes/assumptions. -/
def Obligations.TimeUnits : Prop :=
  -- R492
  (∀ (u : Fin 16) (s : State), s.flag (TU.TUCFG_EN u) = false → s.mainRuns = true → s.parityOk (TU.TUCFG u) = true →
      Completes (exec (.tuEnable u) s) (fun t => t.flag (TU.TUCFG_EN u) = true ∧ t.flag (TU.TUSTAT_ARMED u) = decide (s.get (TU.TUCFG_MODE u) = 0) ∧
        SameBut [.regs, .net] s t ∧ RegsBut [TU.TUCFG u, TU.TUSTAT u] s t)) ∧
  -- R492
  (∀ (u : Fin 16) (w : Word) (s : State), s.tuDue u = false → s.mainRuns = true →
      Completes (exec (.tuTargetWrite u w) s) (fun t => t.reg (TU.TARGET u) = w ∧ (s.flag (TU.TUCFG_EN u) = true →
        t.flag (TU.TUSTAT_ARMED u) = decide (s.get (TU.TUCFG_MODE u) = 0)) ∧ SameBut [.regs, .net] s t ∧ RegsBut [TU.TARGET u, TU.TUSTAT u] s t)) ∧
  -- R492, R494
  (∀ (u : Fin 16) (w : Word) (s : State), s.tuDue u = true → s.mainRuns = true →
      Completes (exec (.tuTargetWrite u w) s) (fun t => t.reg (TU.TARGET u) = w ∧ t.flag (TU.TUSTAT_FIRED u) = true ∧
        t.flag (TU.TUSTAT_ARMED u) = true ∧ t.get (TU.TUSTAT_EVT_CNT u) = (s.get (TU.TUSTAT_EVT_CNT u) + 1) % 2 ^ (TU.TUSTAT_EVT_CNT u).w ∧
        SameBut [.regs, .net, .out] s t ∧ RegsBut [TU.TARGET u, TU.TUSTAT u] s t)) ∧
  -- R491, R493
  (∀ (u : Fin 16) (s : State), s.flag (TU.TUSTAT_ARMED u) = true → s.flag (TU.TUCFG_EN u) = true → s.get (TU.TUCFG_MODE u) = 0 →
    s.tuReached u = true → s.flag (TU.TUCFG_PERIODIC u) = false → s.mainRuns = true →
      Completes (exec (.tuFire u) s) (fun t => t.flag (TU.TUSTAT_FIRED u) = true ∧ t.flag (TU.TUSTAT_ARMED u) = false ∧
        t.get (TU.TUSTAT_EVT_CNT u) = (s.get (TU.TUSTAT_EVT_CNT u) + 1) % 2 ^ (TU.TUSTAT_EVT_CNT u).w ∧ SameBut [.regs, .net, .out] s t ∧
        RegsBut [TU.TUSTAT u] s t)) ∧
  -- R494
  (∀ (u : Fin 16) (s : State), s.flag (TU.TUSTAT_ARMED u) = true → s.flag (TU.TUCFG_EN u) = true → s.get (TU.TUCFG_MODE u) = 0 →
    s.tuReached u = true → s.flag (TU.TUCFG_PERIODIC u) = true → s.get (TU.PERIOD_PERIOD u) ≠ 0 → s.mainRuns = true →
      Completes (exec (.tuFire u) s) (fun t => t.flag (TU.TUSTAT_FIRED u) = true ∧ t.flag (TU.TUSTAT_ARMED u) = true ∧
        t.get (TU.TARGET_TARGET u) = (s.get (TU.TARGET_TARGET u) + max 1000 (s.get (TU.PERIOD_PERIOD u))) % 2 ^ 32)) ∧
  -- R495
  (∀ (u : Fin 16) (s : State), s.mainRuns = true →
      Completes (exec (.tioPulseEnd u) s) (fun t => (vget t.net.units u).high = false ∧ SameBut [.net] s t)) ∧
  -- R496
  (∀ (u : Fin 16) (rising : Bool) (s : State), s.flag (TU.TUCFG_EN u) = true → s.get (TU.TUCFG_MODE u) = 1 → s.get (TU.TUCFG_EDGE u) = 3 →
    s.mainRuns = true →
      Completes (exec (.tuCapture u rising) s) (fun t => t.flag (TU.TUSTAT_FIRED u) = true ∧
        t.get (TU.CAPT_CAPT u) = ofSigned 32 ((s.ltNs : Int) - 5) ∧
        t.get (TU.TUSTAT_EVT_CNT u) = (s.get (TU.TUSTAT_EVT_CNT u) + 1) % 2 ^ (TU.TUSTAT_EVT_CNT u).w ∧ SameBut [.regs] s t ∧ RegsBut [TU.TUSTAT u,
        TU.CAPT u] s t))

/-- CAN error counters and states: receptions, transmissions, bus-off and recovery.  The model's choices that clauses of it rest on: the steps of the error counters (38), by the number of their entry in notes/assumptions. -/
def Obligations.CanControllers : Prop :=
  -- R497
  (∀ (n : Fin 4) (f : CanReceived) (s : State), s.flag (CAN.CCFG_EN n) = true → s.get (CAN.CSTAT_STATE n) < 2 → (f.fd = true →
    s.flag (CAN.CCFG_FD_EN n) = true) → s.mainRuns = true →
      Completes (exec (.canFrameReceived n f) s) (fun t => t.get (CAN.CSTAT_REC n) = (if 127 < s.get (CAN.CSTAT_REC n) then 127 else s.get
        (CAN.CSTAT_REC n) - 1) ∧ t.get (CAN.CSTAT_TEC n) = s.get (CAN.CSTAT_TEC n))) ∧
  -- R499
  (∀ (n : Fin 4) (i : Nat) (b : CanBuf) (s : State), s.flag (CAN.CCFG_EN n) = true → s.flag (CAN.CCFG_LISTEN_ONLY n) = false →
    s.get (CAN.CSTAT_STATE n) < 2 → s.canOffer n = some (i, b) → s.mainRuns = true →
      Completes (exec (.canTransmitEnd n .done) s) (fun t => s.canBuf n i = some b ∧ t.canBuf n i = none ∧
        t.get (CAN.CSTAT_TEC n) = s.get (CAN.CSTAT_TEC n) - 1)) ∧
  -- R499
  (∀ (n : Fin 4) (s : State), s.flag (CAN.CCFG_EN n) = true → s.flag (CAN.CCFG_LISTEN_ONLY n) = false → s.get (CAN.CSTAT_STATE n) < 2 →
    (s.canOffer n).isSome = true → s.mainRuns = true →
      Completes (exec (.canTransmitEnd n .error) s) (fun t => t.get (CAN.CSTAT_TEC n) = min (s.get (CAN.CSTAT_TEC n) + 8) (2 ^ (CAN.CSTAT_TEC n).w -
        1) ∧ SameBut [.regs] s t ∧ RegsBut [CAN.CSTAT n] s t)) ∧
  -- R501
  (∀ (n : Fin 4) (s : State), s.flag (CAN.CCFG_EN n) = true → s.mainRuns = true →
      Completes (exec (.canBusOff n) s) (fun t => t.get (CAN.CSTAT_STATE n) = 2 ∧ (vget t.net.cans n).recovering = s.flag (CAN.CCFG_AUTO_RECOV n) ∧
        t.get (CAN.CCNT_BOFF_CNT n) = min (s.get (CAN.CCNT_BOFF_CNT n) + 1) (2 ^ (CAN.CCNT_BOFF_CNT n).w - 1) ∧ SameBut [.regs, .net] s t ∧
        RegsBut [CAN.CSTAT n, CAN.CCNT n] s t)) ∧
  -- R501
  (∀ (n : Fin 4) (s : State), s.get (CAN.CSTAT_STATE n) = 2 → s.mainRuns = true →
      Completes (exec (.recover n) s) (fun t => (vget t.net.cans n).recovering = true ∧ SameBut [.net] s t)) ∧
  -- R501
  (∀ (n : Fin 4) (s : State), s.get (CAN.CSTAT_STATE n) = 2 → (vget s.net.cans n).recovering = true → s.mainRuns = true →
      Completes (exec (.canRecoveryComplete n) s) (fun t => t.reg (CAN.CSTAT n) = 0 ∧ (vget t.net.cans n).recovering = false ∧ SameBut [.regs,
        .net] s t ∧ RegsBut [CAN.CSTAT n] s t))

/-- Dictionary sessions open, end and change role; passwords of the roles are set.  The model's choices that clauses of it rest on: checks of a header and of roles (43, 46), by the number of their entry in notes/assumptions. -/
def Obligations.SessionsAndRoles : Prop :=
  -- R516
  (∀ (r : DictReq) (f : Nat) (s : State), s.engineWaits = false → DictReq.headerOk 1 r = true →
    (s.sessions.find? (fun k => match (vget s.flows k).session with | some x => x.client.same r.client | none => false) = none) →
    ((List.range 128).find? (fun k => decide (s.use k = 0)) = some f) → s.sessions.length < 32 → s.mainRuns = true →
      Completes (exec (.dictOpen r) s) (fun t => (vget t.flows f).session = some { client := r.client } ∧
        (vget t.flows f).gen = (vget s.flows f).gen + 1 ∧ t.use f = 4 ∧ t.out = ⟨.dictResponse, 6,
        r.message 0x81 0 f (((vget s.flows f).gen + 1) % 256) []⟩ :: s.out)) ∧
  -- R513
  (∀ (r : DictReq) (x : Session) (s : State), s.engineWaits = false → DictReq.headerOk 2 r = true → s.sessionOf r = some x →
    x.client.same r.client = true → x.last = none → s.dict.appReqs = [] → s.dict.appCommits = [] → x.xfer = none → s.mainRuns = true →
      Completes (exec (.dictClose r) s) (fun t => (vget t.flows r.session.toNat).session = none ∧ t.use r.session.toNat = 0 ∧ t.out = ⟨.dictResponse,
        6, r.message 0x82 0 r.session.toNat r.gen.toNat []⟩ :: s.out)) ∧
  -- R525
  (∀ (r : DictReq) (x : Session) (s : State), s.engineWaits = false → DictReq.headerOk 3 r = true → s.sessionOf r = some x →
    x.client.same r.client = true → x.last = none → s.dict.appReqs = [] → s.dict.appCommits = [] → x.xfer = none → s.mainRuns = true →
      Completes (exec (.dictNop r) s) (fun t => t.out = ⟨.dictResponse, 6, r.message 0x83 0 r.session.toNat r.gen.toNat []⟩ :: s.out ∧
        t.regs = s.regs ∧ t.vars = s.vars)) ∧
  -- R513
  (∀ (f : Fin 128) (s : State), (vget s.flows f).session.isSome = true → s.mainRuns = true →
      Completes (exec (.sessionTimeout f) s) (fun t => (vget t.flows f).session = none ∧ t.use f = 0)) ∧
  -- R528
  (∀ (f : Fin 128) (y : Session) (s : State), (vget s.flows f).session = some y → y.xfer.isSome = true → s.mainRuns = true →
      Completes (exec (.xferTimeout f) s) (fun t => (vget t.flows f).session = some { y with xfer := none })) ∧
  -- R525, R530
  (∀ (r : DictReq) (svc : BitVec 8) (x : Session) (s : State), s.engineWaits = false → [1, 2, 3, 0x10, 0x11, 0x20, 0x21,
    0x7F].contains svc.toNat = false → s.sessionOf r = some x → x.client.same r.client = true → s.mainRuns = true →
      Completes (exec (.dictAbort r (.service svc)) s) (fun t => t.out = ⟨.dictResponse, 6,
        r.message 0x7F 0 r.session.toNat r.gen.toNat (leBytes 0x0101 4)⟩ :: s.out)) ∧
  -- R525
  (∀ (r : DictReq) (word : BitVec 32) (x : Session) (tr : Transfer) (s : State), s.engineWaits = false → s.sessionOf r = some x →
    x.client.same r.client = true → x.last = none → s.dict.appReqs = [] → s.dict.appCommits = [] → x.xfer = some tr → tr.tid = r.tid.toNat →
    s.mainRuns = true →
      Completes (exec (.dictAbort r (.word word)) s) (fun t => (vget t.flows r.session.toNat).session = some { x with xfer := none } ∧ t.out = s.out)) ∧
  -- R511, R512
  (∀ (r : DictReq) (x : Session) (s : State), s.engineWaits = false → DictReq.headerOk 0x20 (DictReq.to r 0x1400 2) = true → s.sessionOf r = some x →
    x.client.same r.client = true → x.last = none → s.dict.appReqs = [] → s.dict.appCommits = [] → x.xfer = none → r.flags.getLsbD 0 = false →
    s.writeCheck (DictReq.to r 0x1400 2) r.bytes.length = 0 → (s.login r.session.toNat r.bytes).1 = 0 → s.mainRuns = true →
      Completes (exec (.dictLogin r) s) (fun t => (vget t.flows r.session.toNat).session.map (fun y => y.role) = some (r.bytes.headD 0))) ∧
  -- R512
  (∀ (r : DictReq) (x : Session) (s : State), s.engineWaits = false → DictReq.headerOk 0x20 (DictReq.to r 0x1400 3) = true → s.sessionOf r = some x →
    x.client.same r.client = true → x.last = none → s.dict.appReqs = [] → s.dict.appCommits = [] → x.xfer = none → r.flags.getLsbD 0 = false →
    r.bytes = [1] → s.writeCheck (DictReq.to r 0x1400 3) 1 = 0 → s.mainRuns = true →
      Completes (exec (.dictLogout r) s) (fun t => (vget t.flows r.session.toNat).session.map (fun y => y.role) = some 0)) ∧
  -- R511
  (∀ (r : DictReq) (x : Session) (s : State), s.engineWaits = false → DictReq.headerOk 0x20 (DictReq.to r 0x1400 4) = true → s.sessionOf r = some x →
    x.client.same r.client = true → x.last = none → s.dict.appReqs = [] → s.dict.appCommits = [] → x.xfer = none → r.flags.getLsbD 0 = false →
    r.bytes.length = 0 ∨ 8 ≤ r.bytes.length → s.writeCheck (DictReq.to r 0x1400 4) r.bytes.length = 0 → s.mainRuns = true →
      Completes (exec (.opPassword r) s) (fun t => t.dict.commit.map (fun c => c.key) = some 0x140004 ∧ t.sys.opPw = s.sys.opPw)) ∧
  -- R511
  (∀ (r : DictReq) (x : Session) (s : State), s.engineWaits = false → DictReq.headerOk 0x20 (DictReq.to r 0x1400 5) = true → s.sessionOf r = some x →
    x.client.same r.client = true → x.last = none → s.dict.appReqs = [] → s.dict.appCommits = [] → x.xfer = none → r.flags.getLsbD 0 = false →
    8 ≤ r.bytes.length → s.writeCheck (DictReq.to r 0x1400 5) r.bytes.length = 0 → s.mainRuns = true →
      Completes (exec (.mntPassword r) s) (fun t => t.dict.commit.map (fun c => c.key) = some 0x140005 ∧ t.sys.mntPw = s.sys.mntPw))

/-- A READ answers with the value; a value longer than the transport carries goes up in segments.  The model's choices that clauses of it rest on: homes of entries (45), by the number of their entry in notes/assumptions. -/
def Obligations.DictionaryReads : Prop :=
  -- R512, R526
  (∀ (r : DictReq) (x : Session) (s : State), s.engineWaits = false → DictReq.headerOk 0x10 r = true → s.sessionOf r = some x →
    x.client.same r.client = true → x.last = none → s.dict.appReqs = [] → s.dict.appCommits = [] → x.xfer = none → r.index = 0x1400 → r.sub = 1 →
    s.mainRuns = true →
      Completes (exec (.dictRead r) s) (fun t => t.out = ⟨.dictResponse, 6, r.message 0x90 0 r.session.toNat r.gen.toNat [x.role]⟩ :: s.out)) ∧
  -- R503, R526
  (∀ (r : DictReq) (x : Session) (n : Nat) (s : State), s.engineWaits = false → DictReq.headerOk 0x10 r = true → s.sessionOf r = some x →
    x.client.same r.client = true → x.last = none → s.dict.appReqs = [] → s.dict.appCommits = [] → x.xfer = none → r.index.toNat < 0x8000 →
    nsubOf r.index.toNat = some n → r.sub = 0 → s.mainRuns = true →
      Completes (exec (.dictRead r) s) (fun t => t.out = ⟨.dictResponse, 6, r.message 0x90 0 r.session.toNat r.gen.toNat [n]⟩ :: s.out)) ∧
  -- R530
  (∀ (r : DictReq) (x : Session) (s : State), s.engineWaits = false → DictReq.headerOk 0x10 r = true → s.sessionOf r = some x →
    x.client.same r.client = true → x.last = none → s.dict.appReqs = [] → s.dict.appCommits = [] → x.xfer = none → r.index.toNat < 0x8000 →
    nsubOf r.index.toNat = none → s.mainRuns = true →
      Completes (exec (.dictRead r) s) (fun t => t.out = ⟨.dictResponse, 6,
        r.message 0x7F 0 r.session.toNat r.gen.toNat (leBytes 0x0201 4)⟩ :: s.out)) ∧
  -- R526
  (∀ (r : DictReq) (x : Session) (tr : Transfer) (s : State), s.engineWaits = false → DictReq.headerOk 0x11 r = true → s.sessionOf r = some x →
    x.client.same r.client = true → x.last = none → s.dict.appReqs = [] → s.dict.appCommits = [] → x.xfer = some tr → tr.tid = r.tid.toNat →
    tr.down = false → r.segno.toNat = tr.next → r.key = tr.key → r.client.maxLen * tr.next < tr.total → s.mainRuns = true →
      Completes (exec (.dictSegUp r) s) (fun t => t.out = ⟨.dictResponse, 6,
        r.message 0x91 0 r.session.toNat r.gen.toNat ((tr.data.drop (r.client.maxLen * (tr.next - 1))).take r.client.maxLen)⟩ :: s.out ∧
        (vget t.flows r.session.toNat).session.map (fun y => y.xfer) = some (some { tr with next := tr.next + 1 }))) ∧
  -- R526
  (∀ (r : DictReq) (x : Session) (tr : Transfer) (s : State), s.engineWaits = false → DictReq.headerOk 0x11 r = true → s.sessionOf r = some x →
    x.client.same r.client = true → x.last = none → s.dict.appReqs = [] → s.dict.appCommits = [] → x.xfer = some tr → tr.tid = r.tid.toNat →
    tr.down = false → r.segno.toNat = tr.next → r.key = tr.key → tr.total ≤ r.client.maxLen * tr.next → s.mainRuns = true →
      Completes (exec (.dictSegUp r) s) (fun t => t.out = ⟨.dictResponse, 6,
        r.message 0x91 2 r.session.toNat r.gen.toNat ((tr.data.drop (r.client.maxLen * (tr.next - 1))).take r.client.maxLen)⟩ :: s.out ∧
        (vget t.flows r.session.toNat).session.map (fun y => y.xfer) = some none))

/-- A segmented WRITE gathers its segments, a refused one is aborted, a commit that does not come is given up, RESTORE is noted.  The model's choices that clauses of it rest on: when a write is answered (47), types (44), by the number of their entry in notes/assumptions. -/
def Obligations.DictionaryWrites : Prop :=
  -- R527
  (∀ (r : DictReq) (x : Session) (s : State), s.engineWaits = false → DictReq.headerOk 0x20 r = true → s.sessionOf r = some x →
    x.client.same r.client = true → x.last = none → s.dict.appReqs = [] → s.dict.appCommits = [] → x.xfer = none → r.flags.getLsbD 0 = true →
    leNum r.bytes ≠ 0 → s.writeCheck r (leNum r.bytes) = 0 → s.mainRuns = true →
      Completes (exec (.dictWrite r) s) (fun t => t.out = ⟨.dictResponse, 6, r.message 0xA0 0 r.session.toNat r.gen.toNat []⟩ :: s.out ∧
        (vget t.flows r.session.toNat).session.map (fun y => y.xfer) = some (some
        { down := true, tid := r.tid.toNat, key := r.key, data := [], total := leNum r.bytes, next := 1 }))) ∧
  -- R530
  (∀ (r : DictReq) (x : Session) (s : State), s.engineWaits = false → DictReq.headerOk 0x20 r = true → s.sessionOf r = some x →
    x.client.same r.client = true → x.last = none → s.dict.appReqs = [] → s.dict.appCommits = [] → x.xfer = none → r.flags.getLsbD 0 = false →
    s.writeCheck r r.bytes.length ≠ 0 → s.mainRuns = true →
      Completes (exec (.dictWrite r) s) (fun t => t.out = ⟨.dictResponse, 6,
        r.message 0x7F 0 r.session.toNat r.gen.toNat (leBytes (s.writeCheck r r.bytes.length) 4)⟩ :: s.out ∧ t.vars = s.vars ∧ t.regs = s.regs)) ∧
  -- R527
  (∀ (r : DictReq) (x : Session) (tr : Transfer) (s : State), s.engineWaits = false → DictReq.headerOk 0x21 r = true → s.sessionOf r = some x →
    x.client.same r.client = true → x.last = none → s.dict.appReqs = [] → s.dict.appCommits = [] → x.xfer = some tr → tr.tid = r.tid.toNat →
    tr.down = true → r.segno.toNat = tr.next → r.key = tr.key → r.flags.getLsbD 1 = false → r.len.toNat = r.client.maxLen →
    (tr.data ++ r.bytes).length < tr.total → s.mainRuns = true →
      Completes (exec (.dictSegDn r) s) (fun t => t.out = ⟨.dictResponse, 6, r.message 0xA1 0 r.session.toNat r.gen.toNat []⟩ :: s.out ∧
        (vget t.flows r.session.toNat).session.map (fun y => y.xfer) = some (some { tr with data := tr.data ++ r.bytes, next := tr.next + 1 }))) ∧
  -- R509
  (∀ (r : DictReq) (x : Session) (s : State), s.engineWaits = false → DictReq.headerOk 0x20 (DictReq.to r 0x1000 10) = true →
    s.sessionOf r = some x → x.client.same r.client = true → x.last = none → s.dict.appReqs = [] → s.dict.appCommits = [] → x.xfer = none →
    r.flags.getLsbD 0 = false → r.bytes = [1] → s.writeCheck (DictReq.to r 0x1000 10) 1 = 0 → s.mainRuns = true →
      Completes (exec (.restore r) s) (fun t => t.dict.restore = true ∧ t.persist = s.persist ∧ t.vars = s.vars)) ∧
  -- R508
  (∀ (c : DictCommit) (s : State), s.dict.commit = some c → s.dict.waiting = [] → s.dict.cmdWait = none → s.mainRuns = true →
      Completes (exec (.persistTimeout false) s) (fun t => t.dict.commit = none ∧ t.persist = s.persist ∧ t.vars = s.vars)) ∧
  -- R508
  (∀ (a : SafeAsk) (s : State), s.dict.commit = none → s.safety.asked = some a → s.dict.waiting = [] → s.mainRuns = true →
      Completes (exec (.persistTimeout false) s) (fun t => t.safety.asked = none ∧ t.safety.pw = s.safety.pw)) ∧
  -- R533
  (∀ (a : AppReq) (l : List AppReq) (s : State), s.dict.appCommits = a :: l → s.mainRuns = true →
      Completes (exec (.persistTimeout true) s) (fun t => t.dict.appCommits = l ∧ t.dict.appStore = s.dict.appStore))

/-- A declaration whose entries are good is taken; the shell answers the request that RESP names; one that is not answered is given up.  The model's choices that clauses of it rest on: application objects (48), by the number of their entry in notes/assumptions. -/
def Obligations.ApplicationObjects : Prop :=
  -- R531
  (∀ (s : State), s.flag DICT.DSTAT_DECL_DONE = false → s.get DICT.DECL_DECL_LEN ≤ 512 →
    (firstBad ((List.range (s.get DICT.DECL_DECL_LEN)).map (fun i => s.declEntry i)) 0 0 = none) → s.mainRuns = true →
      Completes (exec .declCommit s) (fun t => t.flag DICT.DSTAT_DECL_DONE = true ∧
        t.dict.decl = some ((List.range (s.get DICT.DECL_DECL_LEN)).map (fun i => s.declEntry i)))) ∧
  -- R531
  (∀ (i : Nat) (s : State), s.flag DICT.DSTAT_DECL_DONE = false → s.get DICT.DECL_DECL_LEN ≤ 512 →
    (firstBad ((List.range (s.get DICT.DECL_DECL_LEN)).map (fun i => s.declEntry i)) 0 0 = some i) → s.mainRuns = true →
      Completes (exec .declCommit s) (fun t => t.flag DICT.DSTAT_DECL_ERR = true ∧ t.flag DICT.DSTAT_DECL_DONE = false ∧ t.dict = s.dict)) ∧
  -- R532
  (∀ (a : AppReq) (s : State),
    (s.dict.appReqs.find? (fun a => decide (a.req.session.toNat = s.get DICT.RESP_SESSION) && decide (a.req.gen.toNat = s.get DICT.RESP_GEN) &&
    decide (a.req.tid.toNat = s.get DICT.RESP_TID)) = some a) → s.mainRuns = true →
      Completes (exec .respGo s) (fun t => t.dict.appReqs = s.dict.appReqs.filter (fun a => !(decide (a.req.session.toNat = s.get DICT.RESP_SESSION)
        && decide (a.req.gen.toNat = s.get DICT.RESP_GEN) && decide (a.req.tid.toNat = s.get DICT.RESP_TID))))) ∧
  -- R532
  (∀ (s : State), (s.dict.appReqs.find? (fun a => decide (a.req.session.toNat = s.get DICT.RESP_SESSION) && decide (a.req.gen.toNat = s.get
    DICT.RESP_GEN) && decide (a.req.tid.toNat = s.get DICT.RESP_TID)) = none) → s.mainRuns = true →
      Completes (exec .respGo s) (fun t => t.flag DICT.DSTAT_RESP_STALE = true ∧ SameBut [.regs] s t ∧ RegsBut [DICT.DSTAT] s t)) ∧
  -- R533
  (∀ (f : Fin 128) (tid : BitVec 16) (a : AppReq) (s : State),
    (s.dict.appReqs.find? (fun a => decide (a.req.session.toNat = f.val) && decide (a.req.tid = tid)) = some a) → s.mainRuns = true →
      Completes (exec (.appTimeout f tid) s) (fun t => t.dict.appReqs = s.dict.appReqs.filter (fun a => !(decide (a.req.session.toNat = f.val) &&
        decide (a.req.tid = tid))) ∧ t.get DICT.DCNT_APP_TMO_CNT = min (s.get DICT.DCNT_APP_TMO_CNT + 1) (2 ^ DICT.DCNT_APP_TMO_CNT.w - 1)))

/-- The keeper powers on and browns out, and follows VKIN, the stores, PG_K and the harvester by their thresholds.  The model's choices that clauses of it rest on: what a brown-out loses (50), roundings of millivolts (5), by the number of their entry in notes/assumptions. -/
def Obligations.KeeperPower : Prop :=
  -- R540
  (∀ (s : State), s.keeper.powered = false →
      Completes (exec .keeperPowerOn s) (fun t => t.keeper.powered = true ∧ t.flag KPR.KSTAT_PG_K = false ∧ t.reg RTC.RTC_SEC = 0 ∧
        t.keeper.mram = s.keeper.mram ∧ t.keeper.running = none)) ∧
  -- R540, R555
  (∀ (s : State), s.keeper.powered = true →
      Completes (exec .keeperBrownOut s) (fun t => t.keeper.powered = false ∧ t.flag KPR.KSTAT_PG_K = false ∧ t.get KPR.KQ_QUEUE = 0 ∧
        t.keeper.mram = s.keeper.mram ∧ t.sys = s.keeper.mram.sys ∧ t.life.work = s.life.comm)) ∧
  -- R537, R539
  (∀ (on : Bool) (s : State), s.keeper.powered = true →
      Completes (exec (.vkinChange on) s) (fun t => t.flag KPR.KSTAT_VKIN_ON = on ∧ (on = true → s.flag KPR.KCFG_VK_HV = false →
        t.get KPR.KSTAT_HMODE = 3) ∧ SameBut [.regs, .keeper] s t ∧ RegsBut [KPR.KSTAT] s t)) ∧
  -- R537, R538, R547
  (∀ (x : KeeperInputs) (q l : BitVec 16) (s : State), s.keeper.powered = true →
      Completes (exec (.keeperEvaluation x q l) s) (fun t => t.flag KPR.KSTAT_VKIN_ON = (if 3000 < x.vkin.toNat then true else if x.vkin.toNat < 2900
        then false else s.flag KPR.KSTAT_VKIN_ON) ∧ t.flag KPR.KSTAT_HV_PRES = decide (20 ≤ x.hvin.toNat) ∧ t.get KPR.VST_VSTQ_MV = q.toNat ∧
        t.get KPR.VST_VSTL_MV = l.toNat ∧ (2400 < q.toNat → s.keeper.running ≠ some 10 → t.flag KPR.KSTAT_CHG_SW = true) ∧ (q.toNat < 2300 →
        t.flag KPR.KSTAT_CHG_SW = false) ∧ (s.get KPR.KV_VSTL_MAX ≤ l.toNat → t.flag KPR.KSTAT_STL_FULL = true) ∧
        (l.toNat + 50 < s.get KPR.KV_VSTL_MAX → t.flag KPR.KSTAT_STL_FULL = false) ∧
        (s.get KPR.KPG_V_PGH ≤ (if (if 3000 < x.vkin.toNat then true else if x.vkin.toNat < 2900 then false else s.flag KPR.KSTAT_VKIN_ON) then
        x.vkin.toNat else q.toNat) → t.flag KPR.KSTAT_PG_K = true) ∧
        ((if (if 3000 < x.vkin.toNat then true else if x.vkin.toNat < 2900 then false else s.flag KPR.KSTAT_VKIN_ON) then x.vkin.toNat else q.toNat)
        < s.get KPR.KPG_V_PGL →
        (if (if 3000 < x.vkin.toNat then true else if x.vkin.toNat < 2900 then false else s.flag KPR.KSTAT_VKIN_ON) then x.vkin.toNat else q.toNat) <
        s.get KPR.KPG_V_PGH → t.flag KPR.KSTAT_PG_K = false) ∧
        (s.get KPR.KPG_V_PGL ≤ (if (if 3000 < x.vkin.toNat then true else if x.vkin.toNat < 2900 then false else s.flag KPR.KSTAT_VKIN_ON) then
        x.vkin.toNat else q.toNat) →
        (if (if 3000 < x.vkin.toNat then true else if x.vkin.toNat < 2900 then false else s.flag KPR.KSTAT_VKIN_ON) then x.vkin.toNat else q.toNat) <
        s.get KPR.KPG_V_PGH → t.flag KPR.KSTAT_PG_K = s.flag KPR.KSTAT_PG_K) ∧ SameBut [.regs, .keeper] s t ∧ RegsBut [KPR.VST, KPR.KSTAT,
        KPR.E_ST] s t)) ∧
  -- R541
  (∀ (x : KeeperInputs) (q l : BitVec 16) (s : State), s.keeper.powered = false →
      Completes (exec (.keeperEvaluation x q l) s) (fun t => t.keeper.starting = (!s.flag KPR.KSTAT_VKIN_ON && (decide (q.toNat < 1000) ||
        (s.keeper.starting && decide (q.toNat < 1200)))) ∧ SameBut [.keeper] s t)) ∧
  -- R543
  (∀ (voc : BitVec 16) (s : State), s.keeper.powered = true → s.get KPR.KSTAT_HMODE = 1 →
      Completes (exec (.leanVocMeasure voc) s) (fun t => t.get KPR.KVOC_VOC_MV = voc.toNat ∧
        t.get KPR.KVOC_HVREG_MV = mvOf ((if s.get KPR.KCFG_K_FOC ≠ 0 then (s.get KPR.KCFG_K_FOC : Rat) / 256 else if s.get KPR.KCFG_SRC_TYPE = 1 then
        1 / 2 else 19 / 25) * voc.toNat) ∧ SameBut [.regs, .keeper] s t ∧ RegsBut [KPR.KVOC] s t)) ∧
  -- R544
  (∀ (charge : Nat) (voc : BitVec 16) (s : State), s.keeper.powered = true → s.get KPR.KSTAT_HMODE = 2 →
      Completes (exec (.richMpptStep charge (some voc)) s) (fun t => t.get KPR.KVOC_VOC_MV = voc.toNat ∧ t.keeper.charge = charge ∧
        t.keeper.up = (if s.keeper.charge < charge then s.keeper.up else !s.keeper.up) ∧ SameBut [.regs, .keeper] s t ∧ RegsBut [KPR.KVOC] s t)) ∧
  -- R544
  (∀ (charge : Nat) (s : State), s.keeper.powered = true → s.get KPR.KSTAT_HMODE = 2 → s.keeper.charge < charge → s.keeper.up = true →
      Completes (exec (.richMpptStep charge none) s) (fun t => t.keeper.target = max ((s.get KPR.KVOC_VOC_MV : Rat) * 3 / 10) (min ((s.get
        KPR.KVOC_VOC_MV : Rat) * 9 / 10) (s.keeper.target + (s.get KPR.KVOC_VOC_MV : Rat) / 64)) ∧ t.get KPR.KVOC_HVREG_MV = mvOf t.keeper.target ∧
        SameBut [.regs, .keeper] s t ∧ RegsBut [KPR.KVOC] s t)) ∧
  -- R544
  (∀ (charge : Nat) (s : State), s.keeper.powered = true → s.get KPR.KSTAT_HMODE = 2 → charge ≤ s.keeper.charge → s.keeper.up = true →
      Completes (exec (.richMpptStep charge none) s) (fun t => t.keeper.target = max ((s.get KPR.KVOC_VOC_MV : Rat) * 3 / 10) (min ((s.get
        KPR.KVOC_VOC_MV : Rat) * 9 / 10) (s.keeper.target + -((s.get KPR.KVOC_VOC_MV : Rat) / 64))) ∧ t.keeper.up = false ∧ SameBut [.regs,
        .keeper] s t ∧ RegsBut [KPR.KVOC] s t)) ∧
  -- R542, R545
  (∀ (s : State), s.keeper.powered = true → s.harvestStopped = false → s.flag KPR.KSTAT_STL_FULL = false → s.flag KPR.KCFG_HV_EN = true →
    s.keeper.rich = false → s.get KPR.VST_VSTL_MV < s.get KPR.KV_V_RICH →
      Completes (exec (.harvesterIdleCheck true) s) (fun t => t.flag KPR.KSTAT_HV_PRES = true ∧ t.get KPR.KSTAT_HMODE = 1 ∧ SameBut [.regs,
        .keeper] s t ∧ RegsBut [KPR.KSTAT] s t)) ∧
  -- R545
  (∀ (s : State), s.keeper.powered = true → s.harvestStopped = false →
      Completes (exec (.harvesterIdleCheck false) s) (fun t => t.flag KPR.KSTAT_HV_PRES = false ∧ t.get KPR.KSTAT_HMODE = 0 ∧ SameBut [.regs,
        .keeper] s t ∧ RegsBut [KPR.KSTAT] s t))

/-- One burst at a time: the lowest waiting class that can be paid for starts, others are deferred; wake requests join one pulse.  The model's choices that clauses of it rest on: the copies of a region (49), the content at the request and MA7 as class 10 (50, 51), by the number of their entry in notes/assumptions. -/
def Obligations.Bursts : Prop :=
  -- R552
  (∀ (c : Fin 10) (s : State), s.keeper.powered = true → s.keeper.running ≠ some c.val →
      Completes (exec (.burstRequest c) s) (fun t => t.bit KPR.KQ_QUEUE c.val = true ∧ SameBut [.regs, .keeper] s t ∧ RegsBut [KPR.KQ] s t)) ∧
  -- R553
  (∀ (c : Fin 10) (s : State), s.keeper.powered = true → s.keeper.running = some c.val →
      Completes (exec (.burstRequest c) s) (fun t => t.keeper.again.testBit c.val = true ∧ t.get KPR.KQ_QUEUE = s.get KPR.KQ_QUEUE ∧ SameBut [.regs,
        .keeper] s t ∧ RegsBut [KPR.KQ] s t)) ∧
  -- R550, R552
  (∀ (c : Nat) (s : State), s.keeper.powered = true → s.keeper.running = none → c ∈ s.waitingBursts → s.flag KPR.KSTAT_VKIN_ON = true →
    (∀ b ∈ s.waitingBursts, c ≤ b) →
      Completes (exec .burstStart s) (fun t => t.keeper.running = some c ∧ t.flag KPR.KSTAT_BURST = true)) ∧
  -- R550, R555
  (∀ (s : State), s.keeper.powered = true → s.keeper.running = none → s.waitingBursts = [6] → s.flag KPR.KSTAT_VKIN_ON = true →
    (vget s.keeper.regions 2).okA = true → (vget s.keeper.regions 2).okB = true →
    ((vget s.keeper.regions 2).seqA - (vget s.keeper.regions 2).seqB).msb = true →
      Completes (exec .burstStart s) (fun t => t.keeper.running = some 6 ∧ t.keeper.writing = [2] ∧ (vget t.keeper.regions 2).okA = false ∧
        (vget t.keeper.regions 2).okB = true ∧ (vget t.keeper.regions 2).seqB = (vget s.keeper.regions 2).seqB)) ∧
  -- R550, R552
  (∀ (c : Nat) (s : State), s.keeper.powered = true → s.keeper.running = none → s.waitingBursts = [c] → s.flag KPR.KSTAT_VKIN_ON = false →
    s.keeper.est < s.burstCost c + 20000 * s.get KPR.KRES_E_RES → s.keeper.deferred.testBit c = false →
      Completes (exec .burstStart s) (fun t => t.keeper.running = none ∧ t.get KPR.KQ_DEFER_CNT = min (s.get KPR.KQ_DEFER_CNT + 1) 65535 ∧
        t.get KPR.KQ_LAST_DEFER = c % 16 ∧ t.keeper.deferred.testBit c = true ∧ (c < 10 → t.bit KPR.KQ_QUEUE c = true))) ∧
  -- R552, R553
  (∀ (c : Nat) (s : State), s.keeper.running = some c → 1 ≤ c → c ≤ 9 →
      Completes (exec .burstComplete s) (fun t => t.keeper.running = none ∧ t.flag KPR.KSTAT_BURST = false ∧ t.keeper.again = 0)) ∧
  -- R555
  (∀ (c r : Nat) (s : State), s.keeper.running = some c → 1 ≤ c → c ≤ 9 → s.keeper.writing = [r] → r < 10 → (vget s.keeper.regions r).okA = false →
      Completes (exec .burstComplete s) (fun t => (vget t.keeper.regions r).okA = true ∧
        (vget t.keeper.regions r).seqA = (vget s.keeper.regions r).seqB + 1 ∧ (vget t.keeper.regions r).okB = (vget s.keeper.regions r).okB ∧
        (vget t.keeper.regions r).seqB = (vget s.keeper.regions r).seqB)) ∧
  -- R555
  (∀ (c r : Nat) (s : State), s.keeper.running = some c → 1 ≤ c → c ≤ 9 → s.keeper.writing = [r] → r < 10 → (vget s.keeper.regions r).okA = true →
    (vget s.keeper.regions r).okB = false →
      Completes (exec .burstComplete s) (fun t => (vget t.keeper.regions r).okB = true ∧
        (vget t.keeper.regions r).seqB = (vget s.keeper.regions r).seqA + 1 ∧ (vget t.keeper.regions r).okA = true ∧
        (vget t.keeper.regions r).seqA = (vget s.keeper.regions r).seqA)) ∧
  -- R555
  (∀ (s : State), s.keeper.running = some 4 → s.keeper.rewriting = false →
      Completes (exec .burstComplete s) (fun t => t.keeper.mram.ckpt = s.keeper.snap.ckpt)) ∧
  -- R208, R554
  (∀ (d : Fin 4) (i : Fin 16) (s : State), s.keeper.powered = true → s.keeper.running ≠ some 0 → s.flag (CMP.CSTAT_CHK_ACT d i) = false →
    s.flag (CMP.CCFG_WAKE_EN d i) = true → s.flag (CMP.CSTAT_OUT d i) = true → s.power.standby = false →
      Completes (exec (.wakeRequest d i) s) (fun t => t.bit KPR.KQ_QUEUE 0 = true ∧ SameBut [.regs] s t ∧ RegsBut [KPR.KQ] s t)) ∧
  -- R208
  (∀ (d : Fin 4) (i : Fin 16) (s : State), s.flag (CMP.CSTAT_CHK_ACT d i) = false →
    s.flag (CMP.CCFG_WAKE_EN d i) = false ∨ s.flag (CMP.CSTAT_OUT d i) = false →
      Completes (exec (.wakeRequest d i) s) (fun t => t = s)) ∧
  -- R554
  (∀ (s : State), s.keeper.powered = true → s.keeper.running ≠ some 0 → s.get KPR.WAKE_AT_WAKE_AT ≠ 0 →
    s.get KPR.WAKE_AT_WAKE_AT = s.get RTC.RTC_SEC_SEC →
      Completes (exec .wakeAlarm s) (fun t => t.reg KPR.WAKE_AT = 0 ∧ t.bit KPR.KQ_QUEUE 0 = true ∧ SameBut [.regs] s t ∧ RegsBut [KPR.WAKE_AT,
        KPR.KQ] s t)) ∧
  -- R554
  (∀ (s : State), s.get KPR.WAKE_AT_WAKE_AT ≠ s.get RTC.RTC_SEC_SEC →
      Completes (exec .wakeAlarm s) (fun t => t = s)) ∧
  -- R551
  (∀ (s : State), s.keeper.running = some 0 →
      Completes (exec .wakePulseEnd s) (fun t => t.keeper.wakeOut = false ∧ t.keeper.running = none ∧ t.flag KPR.KSTAT_BURST = false ∧
        SameBut [.regs, .keeper] s t ∧ RegsBut [KPR.KQ, KPR.KSTAT] s t))

/-- RTC seconds add to HOURS and histograms; DCL results are binned; merges take increments back only at the commit.  The model's choices that clauses of it rest on: the lifetime operands (57), by the number of their entry in notes/assumptions. -/
def Obligations.LifetimeRecord : Prop :=
  -- R560
  (∀ (temps : List Int) (k : Fin 8) (s : State), s.keeper.powered = true →
      Completes (exec (.rtcSecond temps) s) (fun t => t.reg RTC.RTC_SEC = s.reg RTC.RTC_SEC + 1 ∧
        vget t.life.work.hours k = vget s.life.work.hours k + (if s.hourHolds k then 1 else 0) ∧ SameBut [.regs, .life, .sys] s t ∧
        RegsBut [RTC.RTC_SEC, RTC.RTC_SUB, START.STSTAT, SFN.SFSTAT] s t)) ∧
  -- R561
  (∀ (temps : List Int) (h : Fin 8) (s : State), s.keeper.powered = true → s.power.good = true → temps.length = 9 → s.life.inc.temps = [] →
      Completes (exec (.rtcSecond temps) s) (fun t => Assoc.get t.life.inc.temps (32 * h.val + tempBin (temps.getD h.val 0)) = some 1 ∧
        SameBut [.regs, .life, .sys] s t ∧ RegsBut [RTC.RTC_SEC, RTC.RTC_SUB, START.STSTAT, SFN.SFSTAT] s t)) ∧
  -- R562
  (∀ (s : State), s.power.good = true → s.mainRuns = true →
      Completes (exec (.dclHistSecond none) s) (fun t => t.get LTN.LTCNT_DCL_MISS = min (s.get LTN.LTCNT_DCL_MISS + 1) (2 ^ LTN.LTCNT_DCL_MISS.w - 1)
        ∧ t.life = s.life ∧ SameBut [.regs, .life] s t ∧ RegsBut [LTN.LTCNT] s t)) ∧
  -- R562
  (∀ (w : BitVec 32) (s : State), s.power.good = true → s.flag (ADC.ACFG_FWD_N (s.get LTN.DCLSRC_DIE) (s.get LTN.DCLSRC_CORE)) = true →
    w.getLsbD 30 = true → selDiff (getBits w 24 5) = false → s.life.inc.dcl = [] → s.getS LTN.DCL_GAIN_DCL_GAIN = 65536 →
    s.get LTN.DCL_BIN_DCL_BIN = 1 → s.mainRuns = true →
      Completes (exec (.dclHistSecond (some w)) s) (fun t => t.life.inc.dcl = [(min 31 (getBits w 0 16 / 1000), 1)] ∧ SameBut [.regs, .life] s t ∧
        RegsBut [LTN.LTCNT] s t)) ∧
  -- R567, R566
  (∀ (s : State), s.mainRuns = true → s.keeper.powered = true → s.get RTC.RTC_SEC_SEC % 600 = 0 → s.life.done8 = none → s.life.done9 = none →
    s.keeper.running = none →
      Completes (exec .lifetimeMerge s) (fun t => t.life.merge = some s.collectMerge ∧ t.bit KPR.KQ_QUEUE 8 = true ∧ t.bit KPR.KQ_QUEUE 9 = true ∧
        t.life.inc = s.life.inc ∧ RegsBut [KPR.KQ] s t)) ∧
  -- R567
  (∀ (s : State), s.get RTC.RTC_SEC_SEC % 600 ≠ 0 →
      Completes (exec .lifetimeMerge s) (fun t => t = s)) ∧
  -- R567
  (∀ (s : State), s.power.good = false → s.keeper.powered = true → s.get RTC.RTC_SEC_SEC % 600 = 0 → s.keeper.running = none →
      Completes (exec .parkedMerge s) (fun t => t.bit KPR.KQ_QUEUE 8 = true ∧ t.life.merge.map LifeInc.temps = some s.life.inc.temps ∧
        t.life.inc = s.life.inc ∧ SameBut [.regs, .life, .keeper] s t ∧ RegsBut [KPR.KQ] s t)) ∧
  -- R566
  (∀ (i j : LifeInc) (s : State), s.life.done8 = some i → s.life.done9 = some j → s.mainRuns = true →
      Completes (exec .mergeCommitReport s) (fun t => t.life.done8 = none ∧ t.life.done9 = none ∧ t.life.merge = none ∧
        t.get LTN.LTCNT_MERGE_CNT = (s.get LTN.LTCNT_MERGE_CNT + 1) % 2 ^ LTN.LTCNT_MERGE_CNT.w ∧ RegsBut [LTN.LTCNT] s t))

/-- A check-value unit starts, resumes, folds its data in byte order, stops and reports as its rules say.  The model's choices that clauses of it rest on: the end of a unit after STOP (54), by the number of their entry in notes/assumptions. -/
def Obligations.CheckUnits : Prop :=
  -- R574, R578
  (∀ (u : Fin 8) (s : State), s.flag (CRC.CSTAT_BUSY u) = false → s.flag (CRC.CCFG_EN u) = true → crcSource (s.reg (CRC.CCFG u)) ≠ 1 →
    s.mainRuns = true →
      Completes (exec (.crcStart u) s) (fun t => t.flag (CRC.CSTAT_BUSY u) = true ∧ t.reg (CRC.VAL u) = s.reg (CRC.INIT u) ∧
        t.reg (CRC.COUNT u) = 0 ∧
        (t.reg (CRC.RESULT u)).toNat = ((s.reg (CRC.INIT u)).toNat ^^^ (s.reg (CRC.XOROUT u)).toNat) % 2 ^ crcWidth (s.reg (CRC.CCFG u)) ∧
        SameBut [.regs, .crcs] s t ∧ RegsBut [CRC.CSTAT u, CRC.VAL u, CRC.COUNT u, CRC.RESULT u] s t)) ∧
  -- R578
  (∀ (u : Fin 8) (s : State), s.flag (CRC.CSTAT_BUSY u) = true ∨ s.flag (CRC.CCFG_EN u) = false → s.mainRuns = true →
      Completes (exec (.crcStart u) s) (fun t => t.flag (CRC.CSTAT_CRC_CFG_ERR u) = true ∧ t.reg (CRC.VAL u) = s.reg (CRC.VAL u) ∧ t.crcs = s.crcs ∧
        SameBut [.regs, .crcs] s t ∧ RegsBut [CRC.CSTAT u, CRC.VAL u, CRC.COUNT u, CRC.RESULT u] s t)) ∧
  -- R578
  (∀ (u : Fin 8) (s : State), s.flag (CRC.CSTAT_BUSY u) = false → s.flag (CRC.CCFG_EN u) = true → crcSource (s.reg (CRC.CCFG u)) ≠ 1 →
    s.mainRuns = true →
      Completes (exec (.crcResume u) s) (fun t => t.flag (CRC.CSTAT_BUSY u) = true ∧ t.reg (CRC.VAL u) = s.reg (CRC.VAL u) ∧
        t.reg (CRC.COUNT u) = s.reg (CRC.COUNT u) ∧ SameBut [.regs, .crcs] s t ∧ RegsBut [CRC.CSTAT u, CRC.VAL u, CRC.COUNT u, CRC.RESULT u] s t)) ∧
  -- R578, R583
  (∀ (u : Fin 8) (s : State), s.crcOpen u = true → s.mainRuns = true →
      Completes (exec (.crcStop u) s) (fun t => (t.crcUnit u).ended = true ∧ t.flag (CRC.CSTAT_BUSY u) = true ∧
        t.reg (CRC.VAL u) = s.reg (CRC.VAL u) ∧ (crcSource (s.crcUnit u).cfg = 1 → t.flag (CRC.CSTAT_INCOMPLETE u) = true) ∧ SameBut [.regs,
        .crcs] s t ∧ RegsBut [CRC.CSTAT u] s t)) ∧
  -- R579
  (∀ (u : Fin 8) (w : BitVec 32) (s : State), s.crcOpen u = true → crcSource (s.crcUnit u).cfg = 0 → s.mainRuns = true →
      Completes (exec (.crcData u w) s) (fun t => (t.get (CRC.VAL_VAL u) = (dataBytes w.toNat 4).foldl (crcByte (crcWidth (s.crcUnit u).cfg)
        (s.crcUnit u).poly.toNat (getBits (s.crcUnit u).cfg 4 1 = 1)) (s.get (CRC.VAL_VAL u))) ∧
        t.get (CRC.COUNT_COUNT u) = (s.get (CRC.COUNT_COUNT u) + 4) % 2 ^ (CRC.COUNT_COUNT u).w ∧ t.flag (CRC.CSTAT_BUSY u) = true ∧
        SameBut [.regs] s t ∧ RegsBut [CRC.VAL u, CRC.COUNT u, CRC.RESULT u] s t)) ∧
  -- R579
  (∀ (u : Fin 8) (w : BitVec 16) (s : State), s.crcOpen u = true → crcSource (s.crcUnit u).cfg = 0 → s.mainRuns = true →
      Completes (exec (.crcDataH u w) s) (fun t => (t.get (CRC.VAL_VAL u) = (dataBytes w.toNat 2).foldl (crcByte (crcWidth (s.crcUnit u).cfg)
        (s.crcUnit u).poly.toNat (getBits (s.crcUnit u).cfg 4 1 = 1)) (s.get (CRC.VAL_VAL u))) ∧
        t.get (CRC.COUNT_COUNT u) = (s.get (CRC.COUNT_COUNT u) + 2) % 2 ^ (CRC.COUNT_COUNT u).w ∧ t.flag (CRC.CSTAT_BUSY u) = true ∧
        SameBut [.regs] s t ∧ RegsBut [CRC.VAL u, CRC.COUNT u, CRC.RESULT u] s t)) ∧
  -- R579
  (∀ (u : Fin 8) (w : BitVec 8) (s : State), s.crcOpen u = true → crcSource (s.crcUnit u).cfg = 0 → s.mainRuns = true →
      Completes (exec (.crcDataB u w) s) (fun t => (t.get (CRC.VAL_VAL u) = (dataBytes w.toNat 1).foldl (crcByte (crcWidth (s.crcUnit u).cfg)
        (s.crcUnit u).poly.toNat (getBits (s.crcUnit u).cfg 4 1 = 1)) (s.get (CRC.VAL_VAL u))) ∧
        t.get (CRC.COUNT_COUNT u) = (s.get (CRC.COUNT_COUNT u) + 1) % 2 ^ (CRC.COUNT_COUNT u).w ∧ t.flag (CRC.CSTAT_BUSY u) = true ∧
        SameBut [.regs] s t ∧ RegsBut [CRC.VAL u, CRC.COUNT u, CRC.RESULT u] s t)) ∧
  -- R579
  (∀ (u : Fin 8) (b : List (BitVec 8)) (s : State), b.length ≤ 1024 → s.crcOpen u = true → crcSource (s.crcUnit u).cfg = 0 → s.mainRuns = true →
      Completes (exec (.feed u b) s) (fun t => (t.get (CRC.VAL_VAL u) = (b.map BitVec.toNat).foldl (crcByte (crcWidth (s.crcUnit u).cfg) (s.crcUnit
        u).poly.toNat (getBits (s.crcUnit u).cfg 4 1 = 1)) (s.get (CRC.VAL_VAL u))) ∧
        t.get (CRC.COUNT_COUNT u) = (s.get (CRC.COUNT_COUNT u) + b.length) % 2 ^ (CRC.COUNT_COUNT u).w ∧ t.flag (CRC.CSTAT_BUSY u) = true ∧
        SameBut [.regs] s t ∧ RegsBut [CRC.VAL u, CRC.COUNT u, CRC.RESULT u] s t)) ∧
  -- R580
  (∀ (u : Fin 8) (w : BitVec 32) (s : State), s.flag (CRC.CSTAT_BUSY u) = false ∨ crcSource (s.crcUnit u).cfg = 0 → s.mainRuns = true →
      Completes (exec (.crcValWrite u w) s) (fun t => t.reg (CRC.VAL u) = w ∧ t.reg (CRC.COUNT u) = s.reg (CRC.COUNT u) ∧ SameBut [.regs] s t ∧
        RegsBut [CRC.VAL u, CRC.COUNT u, CRC.RESULT u] s t)) ∧
  -- R583
  (∀ (u : Fin 8) (s : State), s.crcOpen u = true → crcSource (s.crcUnit u).cfg = 1 → s.mainRuns = true →
      Completes (exec (.scanReadReturn u true) s) (fun t => t.flag (CRC.CSTAT_SCAN_ERR u) = true ∧ t.flag (CRC.CSTAT_INCOMPLETE u) = true ∧
        (t.crcUnit u).ended = true ∧ t.reg (CRC.VAL u) = s.reg (CRC.VAL u) ∧ SameBut [.regs, .crcs] s t ∧ RegsBut [CRC.CSTAT u, CRC.VAL u,
        CRC.COUNT u, CRC.RESULT u] s t)) ∧
  -- R575, R576
  (∀ (u : Fin 8) (s : State), s.crcOpen u = true → crcSource (s.crcUnit u).cfg = 1 → s.get (CRC.COUNT_COUNT u) ≤ (s.crcUnit u).len →
    (s.crcUnit u).len < 2 ^ 32 → s.mainRuns = true →
      Completes (exec (.scanReadReturn u false) s) (fun t => t.get (CRC.COUNT_COUNT u) = min (s.get (CRC.COUNT_COUNT u) + 8) (s.crcUnit u).len ∧
        ((t.crcUnit u).ended = true ↔ t.get (CRC.COUNT_COUNT u) = (s.crcUnit u).len))) ∧
  -- R575, R576
  (∀ (u : Fin 8) (s : State), s.crcOpen u = true → crcSource (s.crcUnit u).cfg = 1 → s.get (CRC.COUNT_COUNT u) ≤ (s.crcUnit u).len →
    (s.crcUnit u).len < 2 ^ 32 → (∀ i : Nat, i < 8 → s.parityOk (((s.crcUnit u).base + s.get (CRC.COUNT_COUNT u) + i) / 4 * 4) = true) →
    s.mainRuns = true →
      Completes (exec (.scanReadReturn u false) s) (fun t => t.get (CRC.COUNT_COUNT u) = min (s.get (CRC.COUNT_COUNT u) + 8) (s.crcUnit u).len ∧
        ((t.crcUnit u).ended = true ↔ t.get (CRC.COUNT_COUNT u) = (s.crcUnit u).len) ∧ SameBut [.regs, .crcs] s t ∧ RegsBut [CRC.CSTAT u, CRC.VAL u,
        CRC.COUNT u, CRC.RESULT u] s t)) ∧
  -- R584
  (∀ (u : Fin 8) (s : State), s.flag (CRC.CSTAT_BUSY u) = true → (s.crcUnit u).ended = true → s.itemPasses u = false → s.mainRuns = true →
      Completes (exec (.crcDone u) s) (fun t => t.flag (CRC.CSTAT_BUSY u) = false ∧ t.flag (CRC.CSTAT_DONE u) = true ∧
        t.get (CRC.CSTAT_DONE_CNT u) = (s.get (CRC.CSTAT_DONE_CNT u) + 1) % 2 ^ (CRC.CSTAT_DONE_CNT u).w ∧ t.reg (CRC.VAL u) = s.reg (CRC.VAL u))) ∧
  -- R581
  (∀ (u : Fin 8) (s : State), s.itemPasses u = true → s.mainRuns = true →
      Completes (exec (.crcDone u) s) (fun t => t = s))

/-- The scheduler answers a request with its outcome and slot; an activity ends, is cancelled, retires or returns its unit as its rules say.  The model's choices that clauses of it rest on: the conventions of the activities (51, 55), by the number of their entry in notes/assumptions. -/
def Obligations.Maintenance : Prop :=
  -- R589
  (∀ (unit : BitVec 8) (die code : BitVec 4) (s : State), s.mainRuns = true → code = 3 ∨ code = 8 ∨ 10 ≤ code → s.mainRuns = true →
      Completes (exec (.maintRequest unit die code) s) (fun t => t.get MAINT.MRES_OUTCOME = 2 ∧ t.acts = s.acts ∧ SameBut [.regs] s t ∧
        RegsBut [MAINT.MRES] s t)) ∧
  -- R587
  (∀ (unit : BitVec 8) (k : Nat) (s : State), s.mainRuns = true → s.keeper.powered = true → s.conflictWith ⟨7, 8, unit.toNat⟩ = none →
    s.freeSlot = some k → s.mainRuns = true →
      Completes (exec (.maintRequest unit 8 7) s) (fun t => t.get MAINT.MRES_OUTCOME = 0 ∧ t.get MAINT.MRES_SLOT = k ∧ t.slotKey k = some ⟨7, 8,
        unit.toNat⟩ ∧ t.keeper.capTest = true)) ∧
  -- R586, R587
  (∀ (unit : BitVec 8) (c : Nat) (s : State), s.mainRuns = true → s.keeper.powered = true → s.conflictWith ⟨7, 8, unit.toNat⟩ = some c →
    s.mainRuns = true →
      Completes (exec (.maintRequest unit 8 7) s) (fun t => t.get MAINT.MRES_OUTCOME = 1 ∧ t.flag MAINT.MRES_MAINT_BUSY = true ∧ t.acts = s.acts ∧
        SameBut [.regs] s t ∧ RegsBut [MAINT.MRES] s t)) ∧
  -- R596
  (∀ (k : Fin 16) (die unit : Nat) (s : State), s.slotKey k = some ⟨2, die, unit⟩ → s.mainRuns = true →
      Completes (exec (.cancel k) s) (fun t => (t.activity k).cancel = true ∧ t.slotKey k = some ⟨2, die, unit⟩)) ∧
  -- R596
  (∀ (k : Fin 16) (s : State), s.slotKey k = none → s.mainRuns = true →
      Completes (exec (.cancel k) s) (fun t => t = s)) ∧
  -- R591
  (∀ (k : Fin 16) (d : Fin 4) (i : Fin 16) (unit : Nat) (rest : List Nat) (out : Bool) (s : State), s.slotKey k = some ⟨0, d.val + 2, unit⟩ →
    (s.activity k).units = i.val :: rest → (s.activity k).checks = [1] → (s.activity k).cancel = false → s.checkExpected d i 1 = some (!out) →
    (s.cmp d i).retired = false → s.mainRuns = true →
      Completes (exec (.ma0CheckEnd k out) s) (fun t => (t.cmp d i).retired = true)) ∧
  -- R591
  (∀ (k : Fin 16) (d : Fin 4) (i : Fin 16) (unit : Nat) (rest : List Nat) (out : Bool) (s : State), s.slotKey k = some ⟨0, d.val + 2, unit⟩ →
    (s.activity k).units = i.val :: rest → (s.activity k).checks = [1] → (s.activity k).cancel = false → s.checkExpected d i 1 = some out →
    s.mainRuns = true →
      Completes (exec (.ma0CheckEnd k out) s) (fun t => (t.cmp d i).retired = false)) ∧
  -- R118
  (∀ (k : Fin 16) (d : Fin 4) (j : Fin 7) (ref tpt : BitVec 16) (lin : Vector (BitVec 8) 64) (s : State), s.unitOf k 1 = some (d.val + 2, j.val) →
    (s.activity k).cancel = false → (s.groupOf d j).isSome = true → s.mainRuns = true →
      Completes (exec (.ma1CalibrationEnd k (some (ref, tpt, lin))) s) (fun t => (t.port d j).newDelay = some ⟨ref.toNat, tpt.toNat,
        lin.toList.map BitVec.toNat⟩)) ∧
  -- R595
  (∀ (k : Fin 16) (d : Fin 4) (j : Fin 7) (s : State), s.unitOf k 1 = some (d.val + 2, j.val) → (s.activity k).cancel = false → s.mainRuns = true →
      Completes (exec (.ma1CalibrationEnd k none) s) (fun t => t.reg (PORT.DLY_CAL d j) = s.reg (PORT.DLY_CAL d j) ∧
        t.reg (PORT.DLY_STAT d j) = s.reg (PORT.DLY_STAT d j))) ∧
  -- R593
  (∀ (k : Fin 16) (d c : Fin 4) (se diff : BitVec 32) (s : State), s.unitOf k 2 = some (d.val + 2, c.val) → (s.activity k).cancel = false →
    s.mainRuns = true →
      Completes (exec (.ma2CoreCalibrationEnd k (some (se, diff))) s) (fun t => t.reg (ADC.ACAL_SE d c) = se ∧ t.reg (ADC.ACAL_DIFF d c) = diff ∧
        t.flag (ADC.ASTAT_RETIRED d c) = false)) ∧
  -- R593
  (∀ (k : Fin 16) (d c : Fin 4) (s : State), s.unitOf k 2 = some (d.val + 2, c.val) → (s.activity k).cancel = false → s.mainRuns = true →
      Completes (exec (.ma2CoreCalibrationEnd k none) s) (fun t => t.flag (ADC.ASTAT_RETIRED d c) = true)) ∧
  -- R594
  (∀ (k : Fin 16) (e : Die) (unit : Nat) (band : BitVec 6) (tj : Int) (s : State), s.slotKey k = some ⟨4, e.code, unit⟩ →
    s.flag (CLK.PLL_STAT_SEARCH_ACT e) = true → (s.activity k).cancel = false → s.mainRuns = true →
      Completes (exec (.ma4SearchEnd k band tj false) s) (fun t => t.slotKey k = none ∧ t.flag (CLK.PLL_STAT_SEARCH_ACT e) = false ∧
        t.get (CLK.PLL_STAT_BAND e) = s.get (CLK.PLL_STAT_BAND e))) ∧
  -- R594
  (∀ (k : Fin 16) (e : Die) (unit : Nat) (band : BitVec 6) (tj : Int) (s : State), s.slotKey k = some ⟨4, e.code, unit⟩ →
    s.flag (CLK.PLL_STAT_SEARCH_ACT e) = true → (s.activity k).cancel = false → e.isDrive = false → s.mainRuns = true →
      Completes (exec (.ma4SearchEnd k band tj true) s) (fun t => t.slotKey k = none ∧ t.get (CLK.PLL_STAT_BAND e) = band.toNat)) ∧
  -- R594
  (∀ (k : Fin 16) (d : Fin 4) (unit : Nat) (band : BitVec 6) (tj : Int) (s : State), s.slotKey k = some ⟨4, d.val + 2, unit⟩ →
    s.flag (CLK.PLL_STAT_SEARCH_ACT (Die.drive d)) = true → (s.activity k).cancel = false → (s.hopMaster d).isSome = true → s.mainRuns = true →
      Completes (exec (.ma4SearchEnd k band tj true) s) (fun t => (t.hop d).newBand = some (band.toNat, tj, (s.activity k).units) ∧
        (t.hop d).bandAt = s.hopCarrier d ∧ t.slotKey k = s.slotKey k ∧
        t.get (CLK.PLL_STAT_BAND (Die.drive d)) = s.get (CLK.PLL_STAT_BAND (Die.drive d)))) ∧
  -- R594
  (∀ (d : Fin 4) (band : Nat) (tj : Int) (slots : List Nat) (s : State), (s.hop d).newBand = some (band, tj, slots) →
    s.hopMaster d = none ∨ s.hopCarrier d ≠ (s.hop d).bandAt → band < 64 → s.mainRuns = true →
      Completes (exec (.ma4BandApply d) s) (fun t => (t.hop d).newBand = none ∧ t.get (CLK.PLL_STAT_BAND (Die.drive d)) = band ∧
        t.settling (Die.drive d) = true)) ∧
  -- R594
  (∀ (d : Fin 4) (s : State), (s.hopMaster d).isSome = true → s.hopCarrier d = (s.hop d).bandAt → s.mainRuns = true →
      Completes (exec (.ma4BandApply d) s) (fun t => t = s)) ∧
  -- R17
  (∀ (k : Fin 16) (e f : Die) (l q u : Nat) (s : State), s.unitOf k 5 = some (e.code, u) → s.slotKey k = some ⟨5, e.code, l⟩ → e.farEnd l = some (f,
    q) → (s.activity k).cancel = false → (s.activity k).units = [u] → u < 4 → s.mainRuns = true →
      Completes (exec (.ma5RetrainEnd k true) s) (fun t => t.slotKey k = none ∧ t.bit (ELINK.STAT_LANE_UP_RX e l) u = true ∧
        t.bit (ELINK.STAT_LANE_UP_TX f q) u = true)) ∧
  -- R595
  (∀ (k : Fin 16) (e f : Die) (l q u : Nat) (s : State), s.unitOf k 5 = some (e.code, u) → s.slotKey k = some ⟨5, e.code, l⟩ → e.farEnd l = some (f,
    q) → (s.activity k).cancel = false → (s.activity k).passed = 0 → s.mainRuns = true →
      Completes (exec (.ma5RetrainEnd k false) s) (fun t => t.reg (ELINK.STAT e l) = s.reg (ELINK.STAT e l))) ∧
  -- R17, R595
  (∀ (k : Fin 16) (e f : Die) (l q u v : Nat) (rest : List Nat) (ok : Bool) (s : State), s.slotKey k = some ⟨5, e.code, l⟩ → e.farEnd l = some (f,
    q) → (s.activity k).cancel = false → (s.activity k).units = u :: v :: rest → s.mainRuns = true →
      Completes (exec (.ma5RetrainEnd k ok) s) (fun t => t.reg (ELINK.STAT e l) = s.reg (ELINK.STAT e l) ∧ t.slotKey k = s.slotKey k ∧
        (t.activity k).units = v :: rest ∧ (t.activity k).passed = (if ok then (s.activity k).passed ||| 2 ^ u else (s.activity k).passed))) ∧
  -- R559
  (∀ (dv ms : Nat) (s : State), s.keeper.running = some 10 → 40 ≤ dv ∨ 600000 ≤ ms → 0 < dv → (roundDiv ms dv).toNat ≤ 65535 →
      Completes (exec (.ma7End dv ms) s) (fun t => t.get KPR.LCAP_LCAP = (roundDiv ms dv).toNat ∧ t.flag KPR.KSTAT_CAP_VALID = true ∧
        t.keeper.running = none)) ∧
  -- R559
  (∀ (dv ms : Nat) (s : State), dv < 40 → ms < 600000 →
      Completes (exec (.ma7End dv ms) s) (fun t => t = s))

/-- What the commands of the links, registers, clocks, PWM groups, ports, trips and the ADC leave as it was. -/
def Obligations.FramesOfDriveDies : Prop :=
  (∀ (e : Die) (k : Fin 7) (lane : Fin 4) (cut : Option (BitVec 72)) (s : State), OnNext (exec (.laneCodeError e k lane cut) s) (fun t => SameBut [.regs, .out, .linkEnds, .life, .keeper, .crcs, .safety] s t)) ∧
  (∀ (e : Die) (k : Fin 7) (lane : Fin 4) (cut : Option (BitVec 72)) (s : State), OnNext (exec (.laneTimeout e k lane cut) s) (fun t => SameBut [.regs, .out, .linkEnds, .life, .keeper, .crcs, .safety] s t)) ∧
  (∀ (d : Fin 4) (src : Option (Fin 2)) (off : BitVec 24) (w : BitVec 32) (s : State), OnNext (exec (.driveWriteArrival d src off w) s) (fun t => SameBut [.regs, .mem, .out, .freeCnt, .plls, .hops, .groups, .ports, .tgs, .drives, .adcs, .cmps, .pis, .cles, .life, .sys, .power, .keeper, .grids, .crcs, .acts, .maintSeq, .meters, .cmds, .arb, .safety, .net, .flows, .dict] s t)) ∧
  (∀ (c : Fin 2) (off : BitVec 26) (w : BitVec 32) (s : State), OnNext (exec (.nWriteFromCommandDie c off w) s) (fun t => SameBut [.regs, .mem, .out, .freeCnt, .plls, .hops, .groups, .ports, .tgs, .drives, .adcs, .cmps, .pis, .cles, .life, .sys, .power, .keeper, .grids, .crcs, .acts, .maintSeq, .meters, .cmds, .arb, .safety, .net, .flows, .dict] s t)) ∧
  (∀ (c : Fin 2) (k : Fin 4) (a : BitVec 32) (write : Bool) (size : Fin 9) (s : State), OnNext (exec (.coreAccessFault c k a write size) s) (fun t => SameBut [.cmds] s t)) ∧
  (∀ (by_ : RegWriter) (a : BitVec 32) (w : BitVec 32) (s : State), OnNext (exec (.registerWrite by_ a w) s) (fun t => SameBut [.regs, .mem, .out, .freeCnt, .plls, .hops, .groups, .ports, .tgs, .drives, .adcs, .cmps, .pis, .cles, .life, .sys, .power, .keeper, .grids, .crcs, .acts, .maintSeq, .meters, .cmds, .arb, .safety, .net, .flows, .dict] s t)) ∧
  (∀ (c : Fin 2) (a : BitVec 32) (clr : BitVec 3) (s : State), OnNext (exec (.rwpRead c a clr) s) (fun t => SameBut [.regs, .out, .rsBlocks, .ports, .tgs, .drives, .life, .sys, .keeper, .meters, .safety, .net] s t)) ∧
  (∀ (a : Nat) (bits : BitVec 32) (last : Bool) (clr : BitVec 3) (s : State), OnNext (exec (.ma3Scrub a bits last clr) s) (fun t => SameBut [.regs, .out, .ports, .tgs, .drives, .life, .sys, .keeper, .safety, .net] s t)) ∧
  (∀ (b : Fin 9) (off : Fin 0x4000) (w : BitVec 32) (s : State), OnNext (exec (.rsRegisterWrite b off w) s) (fun t => SameBut [.regs, .rsBlocks] s t)) ∧
  (∀ (b : Fin 9) (s : State), OnNext (exec (.rsWriteComplete b) s) (fun t => SameBut [.regs, .mem, .out, .freeCnt, .rsBlocks, .plls, .hops, .groups, .ports, .tgs, .drives, .adcs, .cmps, .pis, .cles, .life, .sys, .power, .keeper, .grids, .crcs, .acts, .maintSeq, .meters, .cmds, .arb, .safety, .net, .flows, .dict] s t)) ∧
  (∀ (b : Fin 9) (s : State), OnNext (exec (.rsStaleTimeout b) s) (fun t => SameBut [.regs] s t)) ∧
  (∀ (b : Fin 9) (s : State), OnNext (exec (.rsWriteLost b) s) (fun t => SameBut [.regs, .rsBlocks] s t)) ∧
  (∀ (s : State), OnNext (exec .rsLowWordRead s) (fun t => SameBut [.out, .rsBlocks] s t)) ∧
  (∀ (e : Die) (hot : Bool) (s : State), OnNext (exec (.pllLock e hot) s) (fun t => SameBut [.regs] s t ∧ RegsBut ([CLK.HOP_FLAG e, CLK.HOP_STAT e, CLK.PLL_STAT e]) s t)) ∧
  (∀ (e : Die) (s : State), OnNext (exec (.pllLossOfLock e) s) (fun t => SameBut [.regs, .out] s t ∧ RegsBut ([CLK.PLL_STAT e]) s t)) ∧
  (∀ (e : Die) (s : State), OnNext (exec (.pllHoldover e) s) (fun t => SameBut [.regs] s t ∧ RegsBut ([CLK.PLL_STAT e]) s t)) ∧
  (∀ (e : Die) (band : BitVec 6) (tj : Int) (covers : Bool) (s : State), OnNext (exec (.bandSearchComplete e band tj covers) s) (fun t => SameBut [.regs] s t ∧ RegsBut ([CLK.PLL_STAT e] ++ (List.range 64).map (CLK.BAND e)) s t)) ∧
  (∀ (d : Fin 4) (s : State), OnNext (exec (.hopEnSet d) s) (fun t => SameBut [.regs, .out, .plls, .hops, .ports, .tgs, .drives, .life, .sys, .keeper, .safety, .net] s t ∧ (s.parityOk (CLK.HOP_CFG (Die.drive d)) = true → RegsBut ([CLK.HOP_CFG (Die.drive d), CLK.HOP_FLAG (Die.drive d), CLK.HOP_STAT (Die.drive d), CLK.PLL_STAT (Die.drive d)]) s t))) ∧
  (∀ (d : Fin 4) (s : State), OnNext (exec (.hopEnClear d) s) (fun t => SameBut [.regs, .out, .plls, .hops, .ports, .tgs, .drives, .life, .sys, .keeper, .safety, .net] s t ∧ (s.parityOk (CLK.HOP_CFG (Die.drive d)) = true → RegsBut ([CLK.HOP_CFG (Die.drive d), CLK.HOP_FLAG (Die.drive d), CLK.HOP_STAT (Die.drive d), CLK.PLL_STAT (Die.drive d)]) s t))) ∧
  (∀ (d : Fin 4) (s : State), OnNext (exec (.hopBoundary d) s) (fun t => SameBut [.regs, .plls, .hops, .groups] s t ∧ RegsBut ([CLK.HOP_FLAG (Die.drive d), CLK.HOP_STAT (Die.drive d), CLK.PLL_STAT (Die.drive d)]) s t)) ∧
  (∀ (e : Die) (s : State), OnNext (exec (.hopSettleEnd e) s) (fun t => SameBut [.plls] s t)) ∧
  (∀ (k : Fin 10) (s : State), OnNext (exec (.ckmonLoss k) s) (fun t => SameBut [.regs, .out, .ports, .tgs, .drives, .life, .sys, .keeper, .arb, .safety] s t)) ∧
  (∀ (meas : Vector (BitVec 16 × Bool) 10) (s : State), OnNext (exec (.ckmonWindowEnd meas) s) (fun t => SameBut [.regs, .out, .ports, .tgs, .drives, .life, .sys, .keeper, .arb, .safety] s t)) ∧
  (∀ (s : State), OnNext (exec .rtcTrim s) (fun t => SameBut [.regs] s t ∧ RegsBut ([RTC.RTC_SEC, RTC.RTC_SUB]) s t)) ∧
  (∀ (s : State), OnNext (exec .rtcXtalFail s) (fun t => SameBut [.regs] s t ∧ RegsBut ([RTC.RTC_FLAG]) s t)) ∧
  (∀ (s : State), OnNext (exec .rtcSync s) (fun t => SameBut [.net] s t)) ∧
  (∀ (sec : Nat) (s : State), OnNext (exec (.rtcSyncApply sec) s) (fun t => SameBut [.regs, .net] s t ∧ RegsBut ([RTC.RTC_SEC, RTC.RTC_SUB]) s t)) ∧
  (∀ (d : Fin 4) (k : Fin 4) (s : State), OnNext (exec (.pwmGroupEnable d k) s) (fun t => SameBut [.regs, .out, .groups, .ports, .tgs, .drives, .life, .sys, .keeper, .safety, .net] s t ∧ (s.parityOk (PWM.GCFG d k) = true → RegsBut ([PWM.GCFG d k, PWM.STAT d k]) s t))) ∧
  (∀ (d : Fin 4) (k : Fin 4) (s : State), OnNext (exec (.pwmGroupStart d k) s) (fun t => SameBut [.regs, .mem, .out, .freeCnt, .plls, .hops, .groups, .ports, .tgs, .drives, .adcs, .pis, .cles, .grids, .acts, .maintSeq] s t)) ∧
  (∀ (d : Fin 4) (k : Fin 4) (s : State), OnNext (exec (.pwmGroupDisable d k) s) (fun t => SameBut [.regs, .out, .groups, .ports, .tgs, .drives, .life, .sys, .keeper, .safety, .net] s t ∧ (s.parityOk (PWM.GCFG d k) = true → RegsBut ([PWM.GCFG d k, PWM.STAT d k]) s t))) ∧
  (∀ (d : Fin 4) (k : Fin 4) (s : State), OnNext (exec (.pwmGroupStop d k) s) (fun t => SameBut [.regs, .out, .plls, .hops, .groups, .ports, .tgs, .drives, .acts, .maintSeq] s t)) ∧
  (∀ (d : Fin 4) (s : State), OnNext (exec (.timeEventArrival d) s) (fun t => SameBut [.regs, .mem, .out, .groups, .adcs] s t)) ∧
  (∀ (d : Fin 4) (k : Fin 4) (s : State), OnNext (exec (.controlPeriodBoundary d k) s) (fun t => SameBut [.regs, .mem, .out, .freeCnt, .plls, .hops, .groups, .ports, .tgs, .drives, .adcs, .pis, .cles, .grids, .acts, .maintSeq] s t)) ∧
  (∀ (d : Fin 4) (k : Fin 4) (s : State), OnNext (exec (.writePointDelivery d k) s) (fun t => SameBut [.regs, .groups, .cles, .cycles] s t)) ∧
  (∀ (d : Fin 4) (k : Fin 4) (s : State), OnNext (exec (.pwmCommit d k) s) (fun t => SameBut [.regs] s t ∧ RegsBut ([PWM.COMMIT d k]) s t)) ∧
  (∀ (d : Fin 4) (k : Fin 4) (s : State), OnNext (exec (.vpTriggerEdge d k) s) (fun t => SameBut [.regs, .mem, .out, .freeCnt, .plls, .hops, .groups, .ports, .tgs, .drives, .adcs, .pis, .cles, .grids, .acts, .maintSeq] s t)) ∧
  (∀ (d : Fin 4) (k : Fin 4) (s : State), OnNext (exec (.vpTimeout d k) s) (fun t => SameBut [.regs, .mem, .out, .freeCnt, .plls, .hops, .groups, .ports, .tgs, .drives, .adcs, .pis, .cles, .grids, .acts, .maintSeq] s t)) ∧
  (∀ (d : Fin 4) (j : Fin 7) (s : State), OnNext (exec (.commandEdge d j) s) (fun t => SameBut [.regs, .ports, .tgs, .drives, .grids] s t)) ∧
  (∀ (d : Fin 4) (j : Fin 7) (s : State), OnNext (exec (.deadTimeEnd d j) s) (fun t => SameBut [.regs, .ports, .tgs, .drives] s t ∧ RegsBut ([APB.APSTAT d, CYC.RFSTAT d] ++ (List.range 7).map (PORT.CHOP_STAT d) ++ (List.range 4).map (PWM.STAT d) ++ (List.range 2).map (TRIP.SRCACT d) ++ (List.range 2).map (TRIP.TGSTAT d)) s t)) ∧
  (∀ (d : Fin 4) (j : Fin 7) (m : Fin 4) (s : State), OnNext (exec (.pmodeWrite d j m) s) (fun t => SameBut [.regs, .ports, .tgs, .drives] s t ∧ RegsBut ([APB.APSTAT d, CYC.RFSTAT d, PORT.PMODE d j] ++ (List.range 7).map (PORT.CHOP_STAT d) ++ (List.range 2).map (TRIP.SRCACT d) ++ (List.range 2).map (TRIP.TGSTAT d)) s t)) ∧
  (∀ (d : Fin 4) (mon : BitVec 16) (s : State), OnNext (exec (.dlyMonUpdate d mon) s) (fun t => SameBut [.regs, .out] s t ∧ RegsBut ([PWM.DLY_MON d] ++ (List.range 7).map (PORT.DLY_STAT d)) s t)) ∧
  (∀ (d : Fin 4) (s : State), OnNext (exec (.driveDieHalt d) s) (fun t => SameBut [.regs, .ports, .tgs, .drives] s t)) ∧
  (∀ (d : Fin 4) (s : State), OnNext (exec (.driveDieHaltRelease d) s) (fun t => SameBut [.regs, .ports, .tgs, .drives] s t)) ∧
  (∀ (d : Fin 4) (s : State), OnNext (exec (.haltGuardExpire d) s) (fun t => SameBut [.regs, .ports, .tgs, .drives] s t)) ∧
  (∀ (d : Fin 4) (s : State), OnNext (exec (.stoBranchAssert d) s) (fun t => SameBut [.regs, .ports, .tgs, .drives] s t ∧ RegsBut ([APB.APSTAT d, CYC.RFSTAT d, HGRD.HGSTAT, SFN.SFSTAT] ++ (List.range 7).map (PORT.CHOP_STAT d) ++ (List.range 2).map (TRIP.SRCACT d) ++ (List.range 2).map (TRIP.TGSTAT d)) s t)) ∧
  (∀ (d : Fin 4) (s : State), OnNext (exec (.stoBranchRelease d) s) (fun t => SameBut [.regs, .ports, .tgs, .drives] s t ∧ RegsBut ([APB.APSTAT d, CYC.RFSTAT d, HGRD.HGSTAT, SFN.SFSTAT] ++ (List.range 7).map (PORT.CHOP_STAT d) ++ (List.range 2).map (TRIP.SRCACT d) ++ (List.range 2).map (TRIP.TGSTAT d)) s t)) ∧
  (∀ (d : Fin 4) (j : Fin 6) (s : State), OnNext (exec (.fltFall d j) s) (fun t => SameBut [.regs, .ports] s t ∧ RegsBut ([PORT.FLTSTAT d j]) s t)) ∧
  (∀ (d : Fin 4) (j : Fin 6) (width : Nat) (s : State), OnNext (exec (.fltPulseEnd d j width) s) (fun t => SameBut [.regs, .ports, .tgs, .drives] s t ∧ RegsBut ([APB.APSTAT d, CYC.RFSTAT d, PORT.FLTSTAT d j, PORT.FLTWID d j] ++ (List.range 7).map (PORT.CHOP_STAT d) ++ (List.range 2).map (TRIP.SRCACT d) ++ (List.range 2).map (TRIP.TGSTAT d)) s t)) ∧
  (∀ (d : Fin 4) (j : Fin 6) (s : State), OnNext (exec (.fltCode5 d j) s) (fun t => SameBut [.regs, .ports, .tgs, .drives] s t ∧ RegsBut ([APB.APSTAT d, CYC.RFSTAT d, PORT.FLTSTAT d j] ++ (List.range 7).map (PORT.CHOP_STAT d) ++ (List.range 2).map (TRIP.SRCACT d) ++ (List.range 2).map (TRIP.TGSTAT d)) s t)) ∧
  (∀ (d : Fin 4) (j : Fin 6) (s : State), OnNext (exec (.fltCode6 d j) s) (fun t => SameBut [.regs, .ports, .tgs, .drives] s t ∧ RegsBut ([APB.APSTAT d, CYC.RFSTAT d, PORT.FLTSTAT d j] ++ (List.range 7).map (PORT.CHOP_STAT d) ++ (List.range 2).map (TRIP.SRCACT d) ++ (List.range 2).map (TRIP.TGSTAT d)) s t)) ∧
  (∀ (d : Fin 4) (j : Fin 6) (s : State), OnNext (exec (.fltEarly d j) s) (fun t => SameBut [.regs, .ports, .tgs, .drives] s t ∧ RegsBut ([APB.APSTAT d, CYC.RFSTAT d, PORT.FLTSTAT d j] ++ (List.range 7).map (PORT.CHOP_STAT d) ++ (List.range 2).map (TRIP.SRCACT d) ++ (List.range 2).map (TRIP.TGSTAT d)) s t)) ∧
  (∀ (d : Fin 4) (j : Fin 6) (s : State), OnNext (exec (.fltClr d j) s) (fun t => SameBut [.regs, .ports, .tgs, .drives] s t ∧ RegsBut ([APB.APSTAT d, CYC.RFSTAT d, PORT.FLTSTAT d j] ++ (List.range 7).map (PORT.CHOP_STAT d) ++ (List.range 2).map (TRIP.SRCACT d) ++ (List.range 2).map (TRIP.TGSTAT d)) s t)) ∧
  (∀ (d : Fin 4) (j : Fin 6) (use : Bool) (s : State), OnNext (exec (.fltUseWrite d j use) s) (fun t => SameBut [.regs, .out, .ports, .tgs, .drives, .life, .sys, .keeper, .safety, .net] s t ∧ (s.parityOk (PORT.PCFG d j) = true → RegsBut ([APB.APSTAT d, CYC.RFSTAT d, PORT.FLTSTAT d j, PORT.PCFG d j] ++ (List.range 7).map (PORT.CHOP_STAT d) ++ (List.range 2).map (TRIP.SRCACT d) ++ (List.range 2).map (TRIP.TGSTAT d)) s t))) ∧
  (∀ (d : Fin 4) (k : Fin 2) (s : State), OnNext (exec (.tripGroupTrip d k) s) (fun t => SameBut [.regs, .out, .ports, .tgs, .drives, .life, .keeper, .grids] s t)) ∧
  (∀ (d : Fin 4) (j : Fin 7) (s : State), OnNext (exec (.ascShortSideOn d j) s) (fun t => SameBut [.regs, .ports, .tgs, .drives] s t ∧ RegsBut ([APB.APSTAT d, CYC.RFSTAT d] ++ (List.range 7).map (PORT.CHOP_STAT d) ++ (List.range 2).map (TRIP.SRCACT d) ++ (List.range 2).map (TRIP.TGSTAT d)) s t)) ∧
  (∀ (d : Fin 4) (i : Fin 16) (s : State), OnNext (exec (.cuffExpire d i) s) (fun t => SameBut [.regs, .ports, .tgs, .drives] s t ∧ RegsBut ([APB.APSTAT d, CYC.RFSTAT d] ++ (List.range 7).map (PORT.CHOP_STAT d) ++ (List.range 2).map (TRIP.SRCACT d) ++ (List.range 2).map (TRIP.TGSTAT d)) s t)) ∧
  (∀ (d : Fin 4) (x : Fin 4) (level : Bool) (s : State), OnNext (exec (.tripInputActive d x level) s) (fun t => SameBut [.regs, .ports, .tgs, .drives] s t ∧ RegsBut ([APB.APSTAT d, CYC.RFSTAT d, TRIP.PINSTAT d] ++ (List.range 7).map (PORT.CHOP_STAT d) ++ (List.range 2).map (TRIP.SRCACT d) ++ (List.range 2).map (TRIP.TGSTAT d)) s t)) ∧
  (∀ (d : Fin 4) (m : BitVec 7) (s : State), OnNext (exec (.membersWrite d m) s) (fun t => SameBut [.regs, .ports, .tgs, .drives] s t ∧ RegsBut ([APB.APSTAT d, CYC.RFSTAT d, TRIP.MEMBERS d] ++ (List.range 7).map (PORT.CHOP_STAT d) ++ (List.range 2).map (TRIP.SRCACT d) ++ (List.range 2).map (TRIP.SRCMASK d) ++ (List.range 2).map (TRIP.TGSTAT d)) s t)) ∧
  (∀ (d : Fin 4) (k : Fin 2) (w : Word) (s : State), OnNext (exec (.srcMaskWrite d k w) s) (fun t => SameBut [.regs, .ports, .tgs, .drives] s t ∧ RegsBut ([APB.APSTAT d, CYC.RFSTAT d] ++ (List.range 7).map (PORT.CHOP_STAT d) ++ (List.range 16).map (TRIP.CSRC d) ++ (List.range 2).map (TRIP.SRCACT d) ++ (List.range 2).map (TRIP.SRCMASK d) ++ (List.range 2).map (TRIP.TGSTAT d)) s t)) ∧
  (∀ (d : Fin 4) (k : Fin 2) (m : Fin 4) (s : State), OnNext (exec (.tgModeWrite d k m) s) (fun t => SameBut [.regs] s t ∧ RegsBut ((List.range 2).map (TRIP.TGCTL d) ++ (List.range 2).map (TRIP.TGSTAT d)) s t)) ∧
  (∀ (d : Fin 4) (x : Fin 4) (lowTicks : Nat) (s : State), OnNext (exec (.enPinRise d x lowTicks) s) (fun t => SameBut [.regs, .ports, .drives, .grids] s t ∧ RegsBut ([GSU.GSTAT d, RTS.RC_SEC d, RTS.RTSTAT d, TRIP.PINSTAT d] ++ (List.range 7).map (PORT.CHOP_STAT d) ++ (List.range 2).map (TRIP.TGSTAT d)) s t)) ∧
  (∀ (d : Fin 4) (j : Fin 6) (s : State), OnNext (exec (.chopperSwitch d j) s) (fun t => SameBut [.regs, .ports, .tgs, .drives] s t ∧ RegsBut ([APB.APSTAT d, CYC.RFSTAT d] ++ (List.range 7).map (PORT.CHOP_STAT d) ++ (List.range 2).map (TRIP.SRCACT d) ++ (List.range 2).map (TRIP.TGSTAT d)) s t)) ∧
  (∀ (d : Fin 4) (j : Fin 6) (s : State), OnNext (exec (.chopMinTimeEnd d j) s) (fun t => SameBut [.regs, .ports, .tgs, .drives] s t ∧ RegsBut ([APB.APSTAT d, CYC.RFSTAT d] ++ (List.range 7).map (PORT.CHOP_STAT d) ++ (List.range 2).map (TRIP.SRCACT d) ++ (List.range 2).map (TRIP.TGSTAT d)) s t)) ∧
  (∀ (d : Fin 4) (j : Fin 6) (en : Bool) (s : State), OnNext (exec (.chopEnWrite d j en) s) (fun t => SameBut [.regs, .out, .ports, .tgs, .drives, .life, .sys, .keeper, .safety, .net] s t ∧ (s.parityOk (PORT.PCFG d j) = true → RegsBut ([APB.APSTAT d, CYC.RFSTAT d, PORT.FLTSTAT d j, PORT.PCFG d j] ++ (List.range 7).map (PORT.CHOP_STAT d) ++ (List.range 2).map (TRIP.SRCACT d) ++ (List.range 2).map (TRIP.TGSTAT d)) s t))) ∧
  (∀ (d : Fin 4) (s : State), OnNext (exec (.apBootUv d) s) (fun t => SameBut [.regs, .ports, .tgs, .drives] s t ∧ RegsBut ([APB.APSTAT d, CYC.RFSTAT d] ++ (List.range 7).map (PORT.ACT_DUTY d) ++ (List.range 7).map (PORT.CHOP_STAT d) ++ (List.range 2).map (TRIP.SRCACT d) ++ (List.range 2).map (TRIP.TGSTAT d)) s t)) ∧
  (∀ (d : Fin 4) (s : State), OnNext (exec (.bootOkRise d) s) (fun t => SameBut [.regs] s t ∧ RegsBut ([APB.APSTAT d]) s t)) ∧
  (∀ (d : Fin 4) (s : State), OnNext (exec (.apBootUvClear d) s) (fun t => SameBut [.regs, .ports, .tgs, .drives] s t ∧ RegsBut ([APB.APSTAT d, CYC.RFSTAT d] ++ (List.range 7).map (PORT.ACT_DUTY d) ++ (List.range 7).map (PORT.CHOP_STAT d) ++ (List.range 2).map (TRIP.SRCACT d) ++ (List.range 2).map (TRIP.TGSTAT d)) s t)) ∧
  (∀ (d : Fin 4) (s : State), OnNext (exec (.apRefreshStart d) s) (fun t => SameBut [.regs, .ports, .tgs, .drives] s t ∧ RegsBut ([APB.APSTAT d, CYC.RFSTAT d] ++ (List.range 7).map (PORT.CHOP_STAT d) ++ (List.range 2).map (TRIP.SRCACT d) ++ (List.range 2).map (TRIP.TGSTAT d)) s t)) ∧
  (∀ (d : Fin 4) (s : State), OnNext (exec (.apRefreshLowOn d) s) (fun t => SameBut [.regs, .ports, .tgs, .drives] s t ∧ RegsBut ([APB.APSTAT d, CYC.RFSTAT d] ++ (List.range 7).map (PORT.CHOP_STAT d) ++ (List.range 2).map (TRIP.SRCACT d) ++ (List.range 2).map (TRIP.TGSTAT d)) s t)) ∧
  (∀ (d : Fin 4) (s : State), OnNext (exec (.apRefreshEnd d) s) (fun t => SameBut [.regs, .ports, .tgs, .drives] s t ∧ RegsBut ([APB.APSTAT d, CYC.RFSTAT d] ++ (List.range 7).map (PORT.CHOP_STAT d) ++ (List.range 2).map (TRIP.SRCACT d) ++ (List.range 2).map (TRIP.TGSTAT d)) s t)) ∧
  (∀ (d : Fin 4) (k : Fin 4) (src : Fin 16) (s : State), OnNext (exec (.adcRegularTrigger d k src) s) (fun t => SameBut [.regs, .mem, .out, .adcs] s t)) ∧
  (∀ (d : Fin 4) (k : Fin 4) (src : Fin 16) (s : State), OnNext (exec (.adcInjectedTrigger d k src) s) (fun t => SameBut [.regs, .mem, .adcs] s t)) ∧
  (∀ (d : Fin 4) (k : Fin 4) (s : State), OnNext (exec (.swReg d k) s) (fun t => SameBut [.regs, .mem, .out, .adcs] s t)) ∧
  (∀ (d : Fin 4) (k : Fin 4) (s : State), OnNext (exec (.swInj d k) s) (fun t => SameBut [.regs, .mem, .adcs] s t)) ∧
  (∀ (d : Fin 4) (k : Fin 4) (code : Int) (ovr : Bool) (s : State), OnNext (exec (.adcConversionComplete d k code ovr) s) (fun t => SameBut [.regs, .mem, .out, .adcs] s t)) ∧
  (∀ (d : Fin 4) (k : Fin 4) (s : State), OnNext (exec (.adcConversionTimeout d k) s) (fun t => SameBut [.regs, .mem, .adcs, .life, .keeper] s t)) ∧
  (∀ (d : Fin 4) (k : Fin 4) (s : State), OnNext (exec (.adcDisable d k) s) (fun t => SameBut [.regs, .out, .ports, .tgs, .drives, .adcs, .life, .sys, .keeper, .safety, .net] s t ∧ (s.parityOk (ADC.ACFG d k) = true → RegsBut ([ADC.ACFG d k, ADC.ASTAT d k]) s t))) ∧
  (∀ (d : Fin 4) (i : Fin 16) (vin : Int) (s : State), OnNext (exec (.cmpOutChange d i vin) s) (fun t => SameBut [.regs, .mem, .ports, .tgs, .drives, .adcs, .cmps] s t)) ∧
  (∀ (d : Fin 4) (i : Fin 16) (s : State), OnNext (exec (.cmpIrqEvent d i) s) (fun t => SameBut [.out, .cmps] s t))

/-- What the commands of comparators, positions, the control-law engine, the grid and metering leave as it was. -/
def Obligations.FramesOfControlAndGrid : Prop :=
  (∀ (d : Fin 4) (i : Fin 16) (s : State), OnNext (exec (.cmpEnable d i) s) (fun t => SameBut [.regs, .mem, .out, .ports, .tgs, .drives, .cmps, .life, .sys, .keeper, .safety, .net] s t)) ∧
  (∀ (d : Fin 4) (i : Fin 16) (vin : Int) (s : State), OnNext (exec (.cmpSettlingEnd d i vin) s) (fun t => SameBut [.regs, .mem, .ports, .tgs, .drives, .adcs, .cmps] s t)) ∧
  (∀ (d : Fin 4) (i : Fin 16) (s : State), OnNext (exec (.cmpDisable d i) s) (fun t => SameBut [.regs, .mem, .out, .ports, .tgs, .drives, .cmps, .life, .sys, .keeper, .safety, .net] s t)) ∧
  (∀ (d : Fin 4) (i : Fin 16) (s : State), OnNext (exec (.cmpLatWrite d i) s) (fun t => SameBut [.regs, .mem, .ports, .tgs, .drives] s t ∧ RegsBut ([APB.APSTAT d, CMP.CSTAT d i, CYC.RFSTAT d] ++ (List.range 7).map (PORT.CHOP_STAT d) ++ (List.range 2).map (TRIP.SRCACT d) ++ (List.range 2).map (TRIP.TGSTAT d)) s t)) ∧
  (∀ (d : Fin 4) (i : Fin 16) (v : Fin 8) (free : Bool) (s : State), OnNext (exec (.cmpChkWrite d i v free) s) (fun t => SameBut [.regs, .ports, .tgs, .drives, .cmps] s t ∧ RegsBut ([APB.APSTAT d, CMP.CSTAT d i, CMP.CTEST d i, CYC.RFSTAT d] ++ (List.range 7).map (PORT.CHOP_STAT d) ++ (List.range 2).map (TRIP.SRCACT d) ++ (List.range 2).map (TRIP.TGSTAT d)) s t)) ∧
  (∀ (d : Fin 4) (p : Fin 2) (s : State), OnNext (exec (.piEnable d p) s) (fun t => SameBut [.regs, .out, .ports, .tgs, .drives, .pis, .life, .sys, .keeper, .safety, .net] s t ∧ (s.parityOk (PI.PICFG d p) = true → RegsBut ([PI.PICFG d p]) s t))) ∧
  (∀ (d : Fin 4) (p : Fin 2) (a : Bool) (b : Bool) (s : State), OnNext (exec (.encoderEdge d p a b) s) (fun t => SameBut [.regs, .pis] s t)) ∧
  (∀ (d : Fin 4) (p : Fin 2) (s : State), OnNext (exec (.encoderZEdge d p) s) (fun t => SameBut [.regs, .pis] s t ∧ RegsBut ([PI.PIPOS d p, PI.PISTAT d p, PI.PIZCAP d p]) s t)) ∧
  (∀ (d : Fin 4) (c : Fin 2) (s : State), OnNext (exec (.cleEnable d c) s) (fun t => SameBut [.regs, .out, .ports, .tgs, .drives, .cles, .life, .sys, .keeper, .safety, .net] s t ∧ (s.parityOk (CLE.CLECFG d c) = true → RegsBut ([CLE.CLECFG d c, CLE.CYC d c, CLE.FLAGS d c]) s t))) ∧
  (∀ (d : Fin 4) (c : Fin 2) (s : State), OnNext (exec (.cleDisable d c) s) (fun t => SameBut [.regs, .out, .ports, .tgs, .drives, .cles, .life, .sys, .keeper, .safety, .net] s t ∧ (s.parityOk (CLE.CLECFG d c) = true → RegsBut ([CLE.CLECFG d c, CLE.CYC d c, CLE.FLAGS d c]) s t))) ∧
  (∀ (d : Fin 4) (c : Fin 2) (s : State), OnNext (exec (.cleProgramStart d c) s) (fun t => SameBut [.regs, .cles] s t ∧ RegsBut ([CLE.FLAGS d c]) s t)) ∧
  (∀ (d : Fin 4) (c : Fin 2) (s : State), OnNext (exec (.cleNop d c) s) (fun t => SameBut [.cles] s t)) ∧
  (∀ (d : Fin 4) (c : Fin 2) (s : State), OnNext (exec (.cleEnd d c) s) (fun t => SameBut [.regs, .cles] s t ∧ RegsBut ([CLE.CYC d c, CLE.FLAGS d c]) s t)) ∧
  (∀ (d : Fin 4) (c : Fin 2) (s : State), OnNext (exec (.cleLd d c) s) (fun t => SameBut [.regs, .cles] s t)) ∧
  (∀ (d : Fin 4) (c : Fin 2) (s : State), OnNext (exec (.cleLdx d c) s) (fun t => SameBut [.regs, .cles] s t)) ∧
  (∀ (d : Fin 4) (c : Fin 2) (s : State), OnNext (exec (.cleSt d c) s) (fun t => SameBut [.regs, .mem, .cles] s t ∧ RegsBut ([CLE.FLAGS d c]) s t)) ∧
  (∀ (d : Fin 4) (c : Fin 2) (s : State), OnNext (exec (.cleStx d c) s) (fun t => SameBut [.regs, .mem, .cles] s t ∧ RegsBut ([CLE.FLAGS d c]) s t)) ∧
  (∀ (d : Fin 4) (c : Fin 2) (s : State), OnNext (exec (.cleLdi d c) s) (fun t => SameBut [.regs, .cles] s t)) ∧
  (∀ (d : Fin 4) (c : Fin 2) (s : State), OnNext (exec (.cleLdc d c) s) (fun t => SameBut [.regs, .cles] s t)) ∧
  (∀ (d : Fin 4) (c : Fin 2) (s : State), OnNext (exec (.cleExt d c) s) (fun t => SameBut [.regs, .cles] s t)) ∧
  (∀ (d : Fin 4) (c : Fin 2) (s : State), OnNext (exec (.cleAdd d c) s) (fun t => SameBut [.regs, .cles] s t)) ∧
  (∀ (d : Fin 4) (c : Fin 2) (s : State), OnNext (exec (.cleSub d c) s) (fun t => SameBut [.regs, .cles] s t)) ∧
  (∀ (d : Fin 4) (c : Fin 2) (s : State), OnNext (exec (.cleAbs d c) s) (fun t => SameBut [.regs, .cles] s t)) ∧
  (∀ (d : Fin 4) (c : Fin 2) (s : State), OnNext (exec (.cleMin d c) s) (fun t => SameBut [.regs, .cles] s t)) ∧
  (∀ (d : Fin 4) (c : Fin 2) (s : State), OnNext (exec (.cleMax d c) s) (fun t => SameBut [.regs, .cles] s t)) ∧
  (∀ (d : Fin 4) (c : Fin 2) (s : State), OnNext (exec (.cleAsh d c) s) (fun t => SameBut [.regs, .cles] s t)) ∧
  (∀ (d : Fin 4) (c : Fin 2) (s : State), OnNext (exec (.cleAnd d c) s) (fun t => SameBut [.regs, .cles] s t)) ∧
  (∀ (d : Fin 4) (c : Fin 2) (s : State), OnNext (exec (.cleSel d c) s) (fun t => SameBut [.regs, .cles] s t)) ∧
  (∀ (d : Fin 4) (c : Fin 2) (s : State), OnNext (exec (.cleMul d c) s) (fun t => SameBut [.regs, .cles] s t)) ∧
  (∀ (d : Fin 4) (c : Fin 2) (s : State), OnNext (exec (.cleMulc d c) s) (fun t => SameBut [.regs, .cles] s t)) ∧
  (∀ (d : Fin 4) (c : Fin 2) (s : State), OnNext (exec (.cleMac d c) s) (fun t => SameBut [.cles] s t)) ∧
  (∀ (d : Fin 4) (c : Fin 2) (s : State), OnNext (exec (.cleMacc d c) s) (fun t => SameBut [.cles] s t)) ∧
  (∀ (d : Fin 4) (c : Fin 2) (s : State), OnNext (exec (.cleLda d c) s) (fun t => SameBut [.cles] s t)) ∧
  (∀ (d : Fin 4) (c : Fin 2) (s : State), OnNext (exec (.cleMova d c) s) (fun t => SameBut [.regs, .cles] s t)) ∧
  (∀ (d : Fin 4) (c : Fin 2) (s : State), OnNext (exec (.cleSincos d c) s) (fun t => SameBut [.regs, .cles] s t)) ∧
  (∀ (d : Fin 4) (c : Fin 2) (s : State), OnNext (exec (.clePark d c) s) (fun t => SameBut [.cles] s t)) ∧
  (∀ (d : Fin 4) (c : Fin 2) (s : State), OnNext (exec (.cleIpark d c) s) (fun t => SameBut [.cles] s t)) ∧
  (∀ (d : Fin 4) (c : Fin 2) (s : State), OnNext (exec (.cleLut d c) s) (fun t => SameBut [.regs, .cles] s t)) ∧
  (∀ (d : Fin 4) (c : Fin 2) (s : State), OnNext (exec (.cleRcp d c) s) (fun t => SameBut [.regs, .cles] s t)) ∧
  (∀ (d : Fin 4) (c : Fin 2) (s : State), OnNext (exec (.cleBr d c) s) (fun t => SameBut [.cles] s t)) ∧
  (∀ (d : Fin 4) (c : Fin 2) (s : State), OnNext (exec (.cleLoop d c) s) (fun t => SameBut [.cles] s t)) ∧
  (∀ (d : Fin 4) (c : Fin 2) (s : State), OnNext (exec (.cleIllegalOp d c) s) (fun t => SameBut [.regs, .ports, .tgs, .drives, .cles] s t ∧ RegsBut ([APB.APSTAT d, CLE.CYC d c, CLE.FLAGS d c, CYC.RFSTAT d] ++ (List.range 7).map (PORT.CHOP_STAT d) ++ (List.range 2).map (TRIP.SRCACT d) ++ (List.range 2).map (TRIP.TGSTAT d)) s t)) ∧
  (∀ (d : Fin 4) (c : Fin 2) (s : State), OnNext (exec (.cleOverrunStop d c) s) (fun t => SameBut [.regs, .ports, .tgs, .drives, .cles] s t ∧ RegsBut ([APB.APSTAT d, CLE.CYC d c, CLE.FLAGS d c, CYC.RFSTAT d] ++ (List.range 7).map (PORT.CHOP_STAT d) ++ (List.range 2).map (TRIP.SRCACT d) ++ (List.range 2).map (TRIP.TGSTAT d)) s t)) ∧
  (∀ (d : Fin 4) (c : Fin 2) (s : State), OnNext (exec (.cleEccCorrect d c) s) (fun t => SameBut [.regs] s t ∧ RegsBut ([CLE.ECC d c]) s t)) ∧
  (∀ (d : Fin 4) (c : Fin 2) (m : Fin 4) (a : BitVec 12) (s : State), OnNext (exec (.cleEccUncorrectable d c m a) s) (fun t => SameBut [.regs, .ports, .tgs, .drives, .cles, .life, .keeper, .grids] s t)) ∧
  (∀ (d : Fin 4) (c : Fin 2) (m : Fin 4) (w : BitVec 12) (x : Word) (s : State), OnNext (exec (.cleMemoryWrite d c m w x) s) (fun t => SameBut [.regs, .mem] s t ∧ RegsBut ([CLE.FLAGS d c]) s t)) ∧
  (∀ (d : Fin 4) (c : Fin 2) (s : State), OnNext (exec (.cwCommit d c) s) (fun t => SameBut [.regs] s t ∧ RegsBut ([CLE.CW_COMMIT d c]) s t)) ∧
  (∀ (d : Fin 4) (s : State), OnNext (exec (.gridEnable d) s) (fun t => SameBut [.regs, .out, .ports, .tgs, .drives, .life, .sys, .keeper, .grids, .safety, .net] s t ∧ (s.parityOk (GSU.GCFG d) = true → RegsBut ((List.range 4).map GSU.GCFG ++ (List.range 4).map GSU.GSTAT ++ (List.range 4).flatMap (fun d => (List.range 7).map (PORT.CHOP_STAT d)) ++ (List.range 4).map RTS.RC_SEC ++ (List.range 4).map RTS.RTSTAT) s t))) ∧
  (∀ (d : Fin 4) (s : State), OnNext (exec (.gridDisable d) s) (fun t => SameBut [.regs, .out, .ports, .tgs, .drives, .life, .sys, .keeper, .grids, .safety, .net] s t ∧ (s.parityOk (GSU.GCFG d) = true → RegsBut ((List.range 4).map GSU.GCFG ++ (List.range 4).map GSU.GSTAT ++ (List.range 4).flatMap (fun d => (List.range 7).map (PORT.CHOP_STAT d)) ++ (List.range 4).map RTS.RC_SEC ++ (List.range 4).map RTS.RTSTAT) s t))) ∧
  (∀ (d : Fin 4) (s : State), OnNext (exec (.gsuCoastTimeout d) s) (fun t => SameBut [.regs, .ports, .drives, .grids] s t ∧ RegsBut ([GSU.GSTAT d, RTS.RC_SEC d, RTS.RTSTAT d] ++ (List.range 7).map (PORT.CHOP_STAT d)) s t)) ∧
  (∀ (d : Fin 4) (s : State), OnNext (exec (.rtEvaluation d) s) (fun t => SameBut [.regs, .ports, .drives, .grids] s t ∧ RegsBut ([GSU.GSTAT d, RTS.RC_SEC d, RTS.RTOUT d, RTS.RTSTAT d, RTS.TDIST d] ++ (List.range 7).map (PORT.CHOP_STAT d)) s t)) ∧
  (∀ (d : Fin 4) (v : Bool) (s : State), OnNext (exec (.armWrite d v) s) (fun t => SameBut [.regs, .out, .ports, .tgs, .drives, .life, .sys, .keeper, .grids, .safety, .net] s t ∧ (s.parityOk (RTS.RTCFG d) = true → RegsBut ([GSU.GSTAT d, RTS.RTCFG d, RTS.RTSTAT d] ++ (List.range 7).map (PORT.CHOP_STAT d)) s t))) ∧
  (∀ (d : Fin 4) (c : Fin 16) (pt : Option (Fin 16)) (level : BitVec 16) (t : Word) (s : State), OnNext (exec (.curveWrite d c pt level t) s) (fun t => SameBut [.regs] s t)) ∧
  (∀ (d : Fin 4) (s : State), OnNext (exec (.gridZeroCrossing d) s) (fun t => SameBut [.regs, .out, .freeCnt, .ports, .drives, .grids, .cycles] s t ∧ RegsBut ([GSU.GSTAT d, GSU.ZMAG d, RTS.RC_SEC d, RTS.RTSTAT d] ++ (List.range 7).map (PORT.CHOP_STAT d)) s t)) ∧
  (∀ (d : Fin 4) (s : State), OnNext (exec (.rocofEvaluation d) s) (fun t => SameBut [.regs, .ports, .drives, .grids] s t ∧ RegsBut ([GSU.GSTAT d, RTS.RC_SEC d, RTS.RTSTAT d] ++ (List.range 7).map (PORT.CHOP_STAT d)) s t)) ∧
  (∀ (d : Fin 4) (s : State), OnNext (exec (.voteSend d) s) (fun t => SameBut [.regs, .out, .ports, .drives, .grids, .gridS] s t ∧ RegsBut ([GCON.GCSTAT] ++ (List.range 4).map GSU.GSTAT ++ (List.range 4).flatMap (fun d => (List.range 7).map (PORT.CHOP_STAT d)) ++ (List.range 4).map RTS.RC_SEC ++ (List.range 4).map RTS.RTSTAT) s t)) ∧
  (∀ (d : Fin 4) (s : State), OnNext (exec (.voteOpenDelay d) s) (fun t => SameBut [.regs, .ports, .drives, .grids] s t ∧ RegsBut ([GSU.GSTAT d, RTS.RC_SEC d, RTS.RTSTAT d] ++ (List.range 7).map (PORT.CHOP_STAT d)) s t)) ∧
  (∀ (s : State), OnNext (exec .gconUpdate s) (fun t => SameBut [.regs, .ports, .drives, .grids] s t ∧ RegsBut ([GCON.GCSTAT] ++ (List.range 4).map GSU.GSTAT ++ (List.range 4).flatMap (fun d => (List.range 7).map (PORT.CHOP_STAT d)) ++ (List.range 4).map RTS.RC_SEC ++ (List.range 4).map RTS.RTSTAT) s t)) ∧
  (∀ (d : Fin 4) (s : State), OnNext (exec (.voteMissingTimeout d) s) (fun t => SameBut [.gridS] s t)) ∧
  (∀ (which : Bool) (level : Bool) (s : State), OnNext (exec (.gfbChange which level) s) (fun t => SameBut [.regs, .ports, .drives, .grids] s t)) ∧
  (∀ (which : Bool) (s : State), OnNext (exec (.gconWeld which) s) (fun t => SameBut [.regs, .ports, .drives, .life, .keeper, .grids] s t ∧ RegsBut ([GCON.GCSTAT, KPR.KQ] ++ (List.range 4).map GSU.GSTAT ++ (List.range 4).flatMap (fun d => (List.range 7).map (PORT.CHOP_STAT d)) ++ (List.range 4).map RTS.RC_SEC ++ (List.range 4).map RTS.RTSTAT) s t)) ∧
  (∀ (d : Fin 4) (s : State), OnNext (exec (.rcSecond d) s) (fun t => SameBut [.regs, .grids] s t ∧ RegsBut ([RTS.RC_SEC d, RTS.RTSTAT d]) s t)) ∧
  (∀ (d : Fin 4) (s : State), OnNext (exec (.connect d) s) (fun t => SameBut [.regs, .ports, .drives, .grids] s t ∧ RegsBut ([GSU.GSTAT d, RTS.RC_SEC d, RTS.RTSTAT d] ++ (List.range 7).map (PORT.CHOP_STAT d)) s t)) ∧
  (∀ (d : Fin 4) (s : State), OnNext (exec (.disconnect d) s) (fun t => SameBut [.regs, .ports, .drives, .grids] s t ∧ RegsBut ([GSU.GSTAT d, RTS.RC_SEC d, RTS.RTSTAT d] ++ (List.range 7).map (PORT.CHOP_STAT d)) s t)) ∧
  (∀ (m : Fin 3) (ttime : BitVec 48) (hop : BitVec 16) (arrived : List SampleSeq) (s : State), OnNext (exec (.meterSample m ttime hop arrived) s) (fun t => SameBut [.regs, .mem, .keeper, .meters] s t)) ∧
  (∀ (zero : BitVec 56) (s : State), OnNext (exec (.meterCycleFlit zero) s) (fun t => SameBut [.regs, .mem, .keeper, .meters] s t)) ∧
  (∀ (m : Fin 3) (s : State), OnNext (exec (.meterWindowEnd m) s) (fun t => SameBut [.regs, .mem, .keeper, .meters] s t)) ∧
  (∀ (s : State), OnNext (exec .fundVoidTimeout s) (fun t => SameBut [.regs, .meters] s t ∧ RegsBut ((List.range 3).map MP.MSTAT ++ (List.range 3).map MP.RSTAT) s t)) ∧
  (∀ (m : Fin 3) (k : Fin 4) (s : State), OnNext (exec (.meterSrcLost m k) s) (fun t => SameBut [.regs, .mem, .keeper, .meters] s t)) ∧
  (∀ (m : Fin 3) (s : State), OnNext (exec (.meterEnable m) s) (fun t => SameBut [.regs, .out, .ports, .tgs, .drives, .life, .sys, .keeper, .meters, .safety, .net] s t ∧ (s.parityOk (MP.MCFG m) = true → RegsBut ([MP.MCFG m, MP.MSTAT m]) s t))) ∧
  (∀ (m : Fin 3) (s : State), OnNext (exec (.meterDisable m) s) (fun t => SameBut [.regs, .out, .ports, .tgs, .drives, .life, .sys, .keeper, .meters, .safety, .net] s t ∧ (s.parityOk (MP.MCFG m) = true → RegsBut ([MP.MCFG m, MP.MSTAT m]) s t))) ∧
  (∀ (m : Fin 3) (s : State), OnNext (exec (.meterCommit m) s) (fun t => SameBut [.regs, .keeper, .meters] s t ∧ RegsBut ([KPR.KQ]) s t)) ∧
  (∀ (c : Fin 2) (d : Fin 4) (s : State), OnNext (exec (.commandPeriodTick c d) s) (fun t => SameBut [.regs, .out, .life, .keeper, .cmds] s t)) ∧
  (∀ (c : Fin 2) (din : BitVec 16) (s : State), OnNext (exec (.snapshotClose c din) s) (fun t => SameBut [.regs, .out, .life, .keeper, .cmds] s t)) ∧
  (∀ (c : Fin 2) (d : Fin 4) (tick : Nat) (words : List Word) (s : State), OnNext (exec (.driveRecordArrival c d tick words) s) (fun t => SameBut [.regs, .cmds] s t ∧ RegsBut ((List.range 2).map CMD.SKIPCNT) s t)) ∧
  (∀ (c : Fin 2) (words : List Word) (s : State), OnNext (exec (.eventFlitArrival c words) s) (fun t => SameBut [.cmds] s t)) ∧
  (∀ (c : Fin 2) (s : State), OnNext (exec (.inputFrameArrival c) s) (fun t => SameBut [.regs, .mem, .out, .freeCnt, .plls, .hops, .groups, .ports, .tgs, .drives, .adcs, .cmps, .pis, .cles, .life, .sys, .power, .keeper, .grids, .gridS, .crcs, .acts, .maintSeq, .meters, .vars, .cmds, .arb, .safety, .net, .flows, .dict] s t)) ∧
  (∀ (c : Fin 2) (s : State), OnNext (exec (.descriptorReceived c) s) (fun t => SameBut [.regs, .out, .life, .keeper, .cmds] s t)) ∧
  (∀ (c : Fin 2) (s : State), OnNext (exec (.descriptorWaitTimeout c) s) (fun t => SameBut [.regs, .out, .life, .keeper, .cmds] s t))

/-- What the commands of the shell, the arbiter, safety, resets and the network leave as it was. -/
def Obligations.FramesOfShellAndSafety : Prop :=
  (∀ (c : Fin 2) (s : State), OnNext (exec (.fetchComplete c) s) (fun t => SameBut [.regs, .mem, .out, .life, .keeper, .cmds] s t)) ∧
  (∀ (c : Fin 2) (core : Fin 4) (s : State), OnNext (exec (.doneWrite c core) s) (fun t => SameBut [.regs, .out, .life, .keeper, .cmds] s t)) ∧
  (∀ (c : Fin 2) (eccUe : Bool) (wdog : Bool) (ce : Nat) (s : State), OnNext (exec (.healthChange c eccUe wdog ce) s) (fun t => SameBut [.regs, .cmds] s t ∧ RegsBut ([CMD.HEALTH c]) s t)) ∧
  (∀ (c : Fin 2) (late : Bool) (s : State), OnNext (exec (.heartbeatReceived c late) s) (fun t => SameBut [.regs, .out, .life, .keeper, .cmds, .arb] s t)) ∧
  (∀ (c : Fin 2) (s : State), OnNext (exec (.heartbeatTimeout c) s) (fun t => SameBut [.regs, .out, .life, .keeper, .arb] s t)) ∧
  (∀ (d : Fin 4) (s : State), OnNext (exec (.roleWireChange d) s) (fun t => SameBut [.regs] s t ∧ RegsBut ([DCMD.DCMDSTAT d] ++ (List.range 2).flatMap (fun j => (List.range 256).map (CLE.CWP d j)) ++ (List.range 2).map (CLE.CW_COMMIT d)) s t)) ∧
  (∀ (c : Fin 2) (s : State), OnNext (exec (.verdictReceived c) s) (fun t => SameBut [.regs, .out, .life, .keeper, .cmds] s t)) ∧
  (∀ (s : State), OnNext (exec .failoverAtN s) (fun t => SameBut [.mem, .arb, .flows] s t)) ∧
  (∀ (c : Fin 2) (len : Nat) (s : State), OnNext (exec (.claim c len) s) (fun t => SameBut [.regs, .out, .arb] s t)) ∧
  (∀ (c : Fin 2) (s : State), OnNext (exec (.grant c) s) (fun t => SameBut [.regs, .mem, .out, .freeCnt, .plls, .hops, .groups, .ports, .tgs, .drives, .adcs, .cmps, .pis, .cles, .life, .sys, .power, .keeper, .grids, .crcs, .acts, .maintSeq, .meters, .cmds, .arb, .safety, .net, .flows, .dict] s t)) ∧
  (∀ (s : State), OnNext (exec .claimTimeout s) (fun t => SameBut [.regs, .out, .life, .keeper, .cmds, .arb] s t)) ∧
  (∀ (c : Fin 2) (s : State), OnNext (exec (.joinReplayComplete c) s) (fun t => SameBut [.mem, .cmds] s t)) ∧
  (∀ (c : Fin 2) (s : State), OnNext (exec (.joinFail c) s) (fun t => SameBut [.regs, .life, .keeper, .cmds] s t)) ∧
  (∀ (c : Fin 2) (slot : Vector ImageSlot 2) (hot : Bool) (s : State), OnNext (exec (.commandDieRestartDone c slot hot) s) (fun t => SameBut [.regs, .mem, .life, .power, .keeper, .cmds] s t)) ∧
  (∀ (c : Fin 2) (s : State), OnNext (exec (.holdoffExpire c) s) (fun t => SameBut [.regs, .out, .arb] s t ∧ RegsBut ([ARB.ARBSTAT]) s t)) ∧
  (∀ (s : State), OnNext (exec .swap s) (fun t => SameBut [.regs, .out, .life, .keeper, .cmds, .arb] s t)) ∧
  (∀ (s : State), OnNext (exec .swapTimeout s) (fun t => SameBut [.regs, .out, .life, .keeper, .cmds, .arb] s t)) ∧
  (∀ (c : Fin 2) (s : State), OnNext (exec (.debugAttach c) s) (fun t => SameBut [.regs] s t ∧ RegsBut ((List.range 2).map CMD.DBGSTAT) s t)) ∧
  (∀ (c : Fin 2) (counts : List Nat) (s : State), OnNext (exec (.shellDebugHalt c counts) s) (fun t => SameBut [.regs, .cmds] s t ∧ RegsBut ((List.range 2).map CMD.DBGSTAT) s t)) ∧
  (∀ (c : Fin 2) (a : BitVec 32) (w : BitVec 32) (s : State), OnNext (exec (.debuggerWrite c a w) s) (fun t => SameBut [.regs, .mem, .out, .freeCnt, .plls, .hops, .groups, .ports, .tgs, .drives, .adcs, .cmps, .pis, .cles, .life, .sys, .power, .keeper, .grids, .crcs, .acts, .maintSeq, .meters, .cmds, .arb, .safety, .net, .flows, .dict] s t)) ∧
  (∀ (c : Fin 2) (s : State), OnNext (exec (.shellDebugResume c) s) (fun t => SameBut [.regs, .mem, .out, .freeCnt, .plls, .hops, .groups, .ports, .tgs, .drives, .adcs, .cmps, .pis, .cles, .life, .sys, .power, .keeper, .grids, .crcs, .acts, .maintSeq, .meters, .cmds, .arb, .safety, .net, .flows, .dict] s t)) ∧
  (∀ (bad : Bool) (s : State), OnNext (exec (.safetyCycleA bad) s) (fun t => SameBut [.regs, .ports, .tgs, .drives, .life, .sys, .keeper, .safety] s t)) ∧
  (∀ (bad : Bool) (s : State), OnNext (exec (.safetyCycleB bad) s) (fun t => SameBut [.regs, .ports, .tgs, .drives, .life, .sys, .keeper, .cycles, .safety] s t)) ∧
  (∀ (s : State), OnNext (exec .xdisc s) (fun t => SameBut [.regs, .ports, .tgs, .drives, .life, .sys, .keeper, .safety] s t)) ∧
  (∀ (s : State), OnNext (exec .ss1Standstill s) (fun t => SameBut [.regs, .ports, .tgs, .drives, .safety] s t)) ∧
  (∀ (s : State), OnNext (exec .ss1TmaxExpire s) (fun t => SameBut [.regs, .ports, .tgs, .drives, .safety] s t)) ∧
  (∀ (k : Fin 4) (s : State), OnNext (exec (.discVTimeout k) s) (fun t => SameBut [.regs, .safety] s t ∧ RegsBut ((List.range 8).map SFN.AXSTAT ++ (List.range 8).map SFN.POS_PI ++ (List.range 8).map SFN.POS_WS ++ (List.range 8).map SFN.VAX) s t)) ∧
  (∀ (s : State), OnNext (exec .degTimeout s) (fun t => SameBut [.regs, .safety] s t ∧ RegsBut ([SFN.SFCNT, SFN.SFREM, SFN.S_STATE]) s t)) ∧
  (∀ (src : AckSource) (s : State), OnNext (exec (.restartAck src) s) (fun t => SameBut [.regs, .ports, .tgs, .drives, .safety] s t)) ∧
  (∀ (d : Fin 4) (s : State), OnNext (exec (.piRecordSend d) s) (fun t => SameBut [.out, .safety] s t)) ∧
  (∀ (p : Fin 8) (angle : BitVec 16) (los : Bool) (seq : BitVec 8) (crcOk : Bool) (s : State), OnNext (exec (.piRecordReceived p angle los seq crcOk) s) (fun t => SameBut [.regs, .safety] s t ∧ RegsBut ((List.range 8).map SFN.AXSTAT ++ (List.range 8).map SFN.POS_PI ++ (List.range 8).map SFN.POS_WS ++ (List.range 8).map SFN.VAX) s t)) ∧
  (∀ (p : Fin 8) (s : State), OnNext (exec (.piRecordTimeout p) s) (fun t => SameBut [.regs, .safety] s t ∧ RegsBut ((List.range 8).map SFN.AXSTAT) s t)) ∧
  (∀ (n : Fin 8) (s : State), OnNext (exec (.siDisc n) s) (fun t => SameBut [.regs, .safety] s t ∧ RegsBut ([SFN.S_STATE, SIO.SISTAT]) s t)) ∧
  (∀ (tp : Fin 4) (pins : BitVec 16) (s : State), OnNext (exec (.testPulse tp pins) s) (fun t => SameBut [.regs, .out, .safety] s t ∧ RegsBut ([SFN.S_STATE, SIO.SISTAT, SIO.SOSTAT]) s t)) ∧
  (∀ (n : Fin 4) (b : Bool) (s : State), OnNext (exec (.soTestPulse n b) s) (fun t => SameBut [.out, .safety] s t)) ∧
  (∀ (n : Fin 4) (s : State), OnNext (exec (.soFlt n) s) (fun t => SameBut [.regs, .ports, .tgs, .drives, .life, .sys, .keeper, .safety] s t)) ∧
  (∀ (n : Fin 8) (s : State), OnNext (exec (.scmpWindowViolation n) s) (fun t => SameBut [.regs, .ports, .tgs, .drives, .safety] s t)) ∧
  (∀ (s : State), OnNext (exec .gtDue s) (fun t => SameBut [.regs] s t ∧ RegsBut ([SFN.SFSTAT]) s t)) ∧
  (∀ (ack : BitVec 4) (s : State), OnNext (exec (.guardTest ack) s) (fun t => SameBut [.regs, .ports, .tgs, .drives, .cles, .life, .sys, .keeper, .grids, .gridS, .cycles, .crcs, .safety] s t)) ∧
  (∀ (ctx : Fin 128) (pw : List (BitVec 8)) (s : State), OnNext (exec (.safetyLogin ctx pw) s) (fun t => SameBut [.regs, .keeper, .safety, .flows] s t ∧ RegsBut ([KPR.KQ, SFN.S_STATE]) s t)) ∧
  (∀ (s : State), OnNext (exec .safetyLogout s) (fun t => SameBut [.regs, .keeper, .safety, .flows] s t ∧ RegsBut ([KPR.KQ, SFN.S_STATE]) s t)) ∧
  (∀ (s : State), OnNext (exec .safetySessionTimeout s) (fun t => SameBut [.regs, .keeper, .safety, .flows] s t ∧ RegsBut ([KPR.KQ, SFN.S_STATE]) s t)) ∧
  (∀ (pw : List (BitVec 8)) (s : State), OnNext (exec (.newPassword pw) s) (fun t => SameBut [.regs, .freeCnt, .keeper, .safety] s t ∧ RegsBut ([KPR.KQ]) s t)) ∧
  (∀ (v : BitVec 32) (s : State), OnNext (exec (.apply v) s) (fun t => SameBut [.regs, .keeper, .safety] s t ∧ RegsBut ([KPR.KQ]) s t)) ∧
  (∀ (c : Fin 48) (payload : List (BitVec 8)) (s : State), OnNext (exec (.safetyFrameReceived c payload) s) (fun t => SameBut [.regs, .safety] s t ∧ RegsBut ([SCONN.SCAGE c, SCONN.SCREJ c, SCONN.SCSEQ c, SCONN.SCST c, SFN.S_STATE]) s t)) ∧
  (∀ (c : Fin 48) (s : State), OnNext (exec (.safetyConnTimeout c) s) (fun t => SameBut [.regs, .ports, .tgs, .drives, .safety] s t)) ∧
  (∀ (c : Fin 48) (pass : Bool) (s : State), OnNext (exec (.safetyFrameSend c pass) s) (fun t => SameBut [.regs, .ports, .safety, .net, .flows] s t ∧ RegsBut ([SCONN.SCSEQ c, SCONN.SCST c] ++ (List.range 3).map ETH.DROPCNT) s t)) ∧
  (∀ (s : State), OnNext (exec .sStatePublish s) (fun t => SameBut [.out, .cmds] s t)) ∧
  (∀ (c : Fin 2) (v : Bool) (s : State), OnNext (exec (.mbxStoReq c v) s) (fun t => SameBut [.regs, .ports, .tgs, .drives, .safety] s t)) ∧
  (∀ (c : Fin 2) (v : Bool) (s : State), OnNext (exec (.mbxSs1Req c v) s) (fun t => SameBut [.regs, .ports, .tgs, .drives, .safety] s t)) ∧
  (∀ (c : Fin 2) (s : State), OnNext (exec (.mbxReset c) s) (fun t => SameBut [.regs, .ports, .tgs, .drives, .safety] s t)) ∧
  (∀ (s : State), OnNext (exec .mainDomainsGood s) (fun t => SameBut [.power] s t)) ∧
  (∀ (vdd18 : Bool) (s : State), OnNext (exec (.mainSupplyFall vdd18) s) (fun t => SameBut [.regs, .copies, .mem, .linkEnds, .rsBlocks, .plls, .hops, .groups, .ports, .tgs, .drives, .adcs, .cmps, .pis, .cles, .life, .sys, .power, .keeper, .grids, .gridS, .cycles, .crcs, .acts, .maintSeq, .meters, .vars, .cmds, .arb, .safety, .net, .flows, .dict] s t)) ∧
  (∀ (s : State), OnNext (exec .resetNLow s) (fun t => SameBut [.regs, .copies, .mem, .linkEnds, .rsBlocks, .plls, .hops, .groups, .ports, .tgs, .drives, .adcs, .cmps, .pis, .cles, .life, .sys, .power, .keeper, .grids, .gridS, .cycles, .crcs, .acts, .maintSeq, .meters, .vars, .cmds, .arb, .safety, .net, .flows, .dict] s t)) ∧
  (∀ (x : StartInput) (s : State), OnNext (exec (.start x) s) (fun t => SameBut [.regs, .copies, .mem, .out, .freeCnt, .linkEnds, .rsBlocks, .plls, .hops, .groups, .ports, .tgs, .drives, .adcs, .cmps, .pis, .cles, .life, .sys, .power, .keeper, .grids, .gridS, .cycles, .crcs, .acts, .maintSeq, .meters, .vars, .cmds, .arb, .safety, .net, .flows, .dict, .persist] s t)) ∧
  (∀ (ms : BitVec 32) (s : State), OnNext (exec (.commandDieRelease ms) s) (fun t => SameBut [.regs, .power, .cmds, .arb] s t)) ∧
  (∀ (s : State), OnNext (exec .bootOk s) (fun t => SameBut [.regs, .sys, .keeper] s t ∧ RegsBut ([KPR.KQ, START.SMS, START.STSTAT]) s t)) ∧
  (∀ (s : State), OnNext (exec .bootTmoExpire s) (fun t => SameBut [.regs, .copies, .mem, .linkEnds, .rsBlocks, .plls, .hops, .groups, .ports, .tgs, .drives, .adcs, .cmps, .pis, .cles, .life, .sys, .power, .keeper, .grids, .gridS, .cycles, .crcs, .acts, .maintSeq, .meters, .vars, .cmds, .arb, .safety, .net, .flows, .dict] s t)) ∧
  (∀ (s : State), OnNext (exec .stop s) (fun t => SameBut [.regs, .ports, .tgs, .drives, .power, .grids, .safety] s t)) ∧
  (∀ (v : BitVec 8) (s : State), OnNext (exec (.restart v) s) (fun t => SameBut [.regs, .ports, .tgs, .drives, .sys, .power, .keeper, .grids, .safety] s t)) ∧
  (∀ (s : State), OnNext (exec .controlledStopCommit s) (fun t => SameBut [.regs, .ports, .life, .power, .keeper, .cycles, .meters] s t ∧ RegsBut ([KPR.KQ, LTN.LTCNT] ++ (List.range 4).flatMap (fun d => (List.range 64).map (CYC.DEPTH d)) ++ (List.range 4).map CYC.RFSTAT) s t)) ∧
  (∀ (s : State), OnNext (exec .controlledStopComplete s) (fun t => SameBut [.regs, .copies, .mem, .linkEnds, .rsBlocks, .plls, .hops, .groups, .ports, .tgs, .drives, .adcs, .cmps, .pis, .cles, .life, .sys, .power, .keeper, .grids, .gridS, .cycles, .crcs, .acts, .maintSeq, .meters, .vars, .cmds, .arb, .safety, .net, .flows, .dict] s t)) ∧
  (∀ (s : State), OnNext (exec .checkpointTimer s) (fun t => SameBut [.regs, .keeper] s t ∧ RegsBut ([KPR.KQ]) s t)) ∧
  (∀ (p : Fin 3) (bytes : List (BitVec 8)) (good : Bool) (ts : Int) (s : State), OnNext (exec (.ethFrameReceived p bytes good ts) s) (fun t => SameBut [.regs, .out, .ports, .cmds, .net, .flows, .dict] s t ∧ RegsBut ((List.range 8).map CRC.COUNT ++ (List.range 8).map CRC.RESULT ++ (List.range 8).map CRC.VAL ++ (List.range 3).map ETH.DROPCNT) s t)) ∧
  (∀ (p : Fin 3) (ts : Int) (s : State), OnNext (exec (.ethTransmitStart p ts) s) (fun t => SameBut [.regs, .ports, .net] s t ∧ RegsBut ((List.range 3).map ETH.OVERSIZE) s t)) ∧
  (∀ (p : Fin 3) (s : State), OnNext (exec (.ethTransmitEnd p) s) (fun t => SameBut [.regs, .out, .ports, .net] s t ∧ RegsBut ((List.range 8).map CRC.COUNT ++ (List.range 8).map CRC.RESULT ++ (List.range 8).map CRC.VAL) s t)) ∧
  (∀ (s : State), OnNext (exec .ringCheckSend s) (fun t => SameBut [.regs, .ports, .net] s t ∧ RegsBut ((List.range 3).map ETH.DROPCNT ++ (List.range 3).map ETH.PSTAT) s t)) ∧
  (∀ (p : Fin 3) (s : State), OnNext (exec (.portLinkDown p) s) (fun t => SameBut [.regs, .ports, .net] s t ∧ RegsBut ((List.range 3).map ETH.PSTAT) s t)) ∧
  (∀ (p : Fin 3) (s : State), OnNext (exec (.portLinkUp p) s) (fun t => SameBut [.regs] s t ∧ RegsBut ((List.range 3).map ETH.PSTAT) s t)) ∧
  (∀ (p : Fin 3) (s : State), OnNext (exec (.gateIntervalEnd p) s) (fun t => SameBut [.ports, .net] s t)) ∧
  (∀ (p : Fin 3) (s : State), OnNext (exec (.gateApply p) s) (fun t => SameBut [.regs, .ports, .tgs, .drives, .safety, .net] s t ∧ RegsBut ((List.range 3).map GATE.GSTAT) s t)) ∧
  (∀ (p : Fin 3) (s : State), OnNext (exec (.gateListSwitch p) s) (fun t => SameBut [.regs, .ports, .net] s t ∧ RegsBut ((List.range 3).map GATE.GSTAT ++ (List.range 3).flatMap (fun d => (List.range 256).map (GATE.OPER_GATES d)) ++ (List.range 3).flatMap (fun d => (List.range 256).map (GATE.OPER_INT d))) s t)) ∧
  (∀ (p : Fin 3) (m : PtpMsg) (ts : Int) (s : State), OnNext (exec (.ptpMessageReceived p m ts) s) (fun t => SameBut [.regs, .mem, .out, .freeCnt, .ports, .life, .keeper, .meters, .arb, .net] s t)) ∧
  (∀ (x : Fin 2) (announce : Bool) (s : State), OnNext (exec (.domainTimeout x announce) s) (fun t => SameBut [.regs, .mem, .out, .ports, .life, .keeper, .meters, .arb, .net] s t)) ∧
  (∀ (s : State), OnNext (exec .domainReturn s) (fun t => SameBut [.regs, .mem, .ports, .keeper, .meters, .net] s t)) ∧
  (∀ (s : State), OnNext (exec .ltToS s) (fun t => SameBut [.regs, .power, .safety] s t ∧ RegsBut ([SFN.S_STATE] ++ (List.range 16).map MAINT.ELAPSED) s t)) ∧
  (∀ (s : State), OnNext (exec .leapSecond s) (fun t => SameBut [.net] s t)) ∧
  (∀ (u : Fin 16) (s : State), OnNext (exec (.tuEnable u) s) (fun t => SameBut [.regs, .out, .ports, .tgs, .drives, .life, .sys, .keeper, .safety, .net] s t ∧ (s.parityOk (TU.TUCFG u) = true → RegsBut ([TU.TUCFG u, TU.TUSTAT u]) s t))) ∧
  (∀ (u : Fin 16) (w : Word) (s : State), OnNext (exec (.tuTargetWrite u w) s) (fun t => SameBut [.regs, .out, .net] s t ∧ RegsBut ([TU.TARGET u, TU.TUSTAT u]) s t))

/-- What the commands of time, CAN, the dictionary, the keeper, check units and maintenance leave as it was. -/
def Obligations.FramesOfServices : Prop :=
  (∀ (u : Fin 16) (s : State), OnNext (exec (.tuFire u) s) (fun t => SameBut [.regs, .out, .net] s t ∧ RegsBut ([TU.TARGET u, TU.TUSTAT u]) s t)) ∧
  (∀ (u : Fin 16) (s : State), OnNext (exec (.tioPulseEnd u) s) (fun t => SameBut [.net] s t)) ∧
  (∀ (u : Fin 16) (rising : Bool) (s : State), OnNext (exec (.tuCapture u rising) s) (fun t => SameBut [.regs] s t ∧ RegsBut ([TU.CAPT u, TU.TUSTAT u]) s t)) ∧
  (∀ (n : Fin 4) (f : CanReceived) (s : State), OnNext (exec (.canFrameReceived n f) s) (fun t => SameBut [.regs, .out, .cmds, .flows, .dict] s t ∧ RegsBut ([CAN.CCNT n, CAN.CSTAT n] ++ (List.range 8).map CRC.COUNT ++ (List.range 8).map CRC.RESULT ++ (List.range 8).map CRC.VAL) s t)) ∧
  (∀ (n : Fin 4) (how : CanTxEnd) (s : State), OnNext (exec (.canTransmitEnd n how) s) (fun t => SameBut [.regs, .out, .net] s t ∧ RegsBut ([CAN.CSTAT n] ++ (List.range 8).map CRC.COUNT ++ (List.range 8).map CRC.RESULT ++ (List.range 8).map CRC.VAL) s t)) ∧
  (∀ (n : Fin 4) (s : State), OnNext (exec (.canBusOff n) s) (fun t => SameBut [.regs, .net] s t ∧ RegsBut ([CAN.CCNT n, CAN.CSTAT n]) s t)) ∧
  (∀ (n : Fin 4) (s : State), OnNext (exec (.recover n) s) (fun t => SameBut [.net] s t)) ∧
  (∀ (n : Fin 4) (s : State), OnNext (exec (.canRecoveryComplete n) s) (fun t => SameBut [.regs, .net] s t ∧ RegsBut ([CAN.CSTAT n]) s t)) ∧
  (∀ (r : DictReq) (s : State), OnNext (exec (.dictOpen r) s) (fun t => SameBut [.regs, .mem, .out, .freeCnt, .plls, .hops, .groups, .ports, .tgs, .drives, .adcs, .cmps, .pis, .cles, .life, .sys, .power, .keeper, .grids, .gridS, .crcs, .acts, .maintSeq, .meters, .vars, .cmds, .arb, .safety, .net, .flows, .dict] s t)) ∧
  (∀ (r : DictReq) (s : State), OnNext (exec (.dictClose r) s) (fun t => SameBut [.regs, .mem, .out, .freeCnt, .plls, .hops, .groups, .ports, .tgs, .drives, .adcs, .cmps, .pis, .cles, .life, .sys, .power, .keeper, .grids, .gridS, .crcs, .acts, .maintSeq, .meters, .vars, .cmds, .arb, .safety, .net, .flows, .dict] s t)) ∧
  (∀ (r : DictReq) (s : State), OnNext (exec (.dictNop r) s) (fun t => SameBut [.regs, .mem, .out, .freeCnt, .plls, .hops, .groups, .ports, .tgs, .drives, .adcs, .cmps, .pis, .cles, .life, .sys, .power, .keeper, .grids, .gridS, .crcs, .acts, .maintSeq, .meters, .vars, .cmds, .arb, .safety, .net, .flows, .dict] s t)) ∧
  (∀ (r : DictReq) (s : State), OnNext (exec (.dictRead r) s) (fun t => SameBut [.regs, .mem, .out, .freeCnt, .plls, .hops, .groups, .ports, .tgs, .drives, .adcs, .cmps, .pis, .cles, .life, .sys, .power, .keeper, .grids, .gridS, .crcs, .acts, .maintSeq, .meters, .vars, .cmds, .arb, .safety, .net, .flows, .dict] s t)) ∧
  (∀ (r : DictReq) (s : State), OnNext (exec (.dictSegUp r) s) (fun t => SameBut [.regs, .mem, .out, .freeCnt, .plls, .hops, .groups, .ports, .tgs, .drives, .adcs, .cmps, .pis, .cles, .life, .sys, .power, .keeper, .grids, .gridS, .crcs, .acts, .maintSeq, .meters, .vars, .cmds, .arb, .safety, .net, .flows, .dict] s t)) ∧
  (∀ (r : DictReq) (s : State), OnNext (exec (.dictWrite r) s) (fun t => SameBut [.regs, .mem, .out, .freeCnt, .plls, .hops, .groups, .ports, .tgs, .drives, .adcs, .cmps, .pis, .cles, .life, .sys, .power, .keeper, .grids, .gridS, .crcs, .acts, .maintSeq, .meters, .vars, .cmds, .arb, .safety, .net, .flows, .dict] s t)) ∧
  (∀ (r : DictReq) (s : State), OnNext (exec (.dictSegDn r) s) (fun t => SameBut [.regs, .mem, .out, .freeCnt, .plls, .hops, .groups, .ports, .tgs, .drives, .adcs, .cmps, .pis, .cles, .life, .sys, .power, .keeper, .grids, .gridS, .crcs, .acts, .maintSeq, .meters, .vars, .cmds, .arb, .safety, .net, .flows, .dict] s t)) ∧
  (∀ (r : DictReq) (word : AbortMsg) (s : State), OnNext (exec (.dictAbort r word) s) (fun t => SameBut [.regs, .mem, .out, .freeCnt, .plls, .hops, .groups, .ports, .tgs, .drives, .adcs, .cmps, .pis, .cles, .life, .sys, .power, .keeper, .grids, .gridS, .crcs, .acts, .maintSeq, .meters, .vars, .cmds, .arb, .safety, .net, .flows, .dict] s t)) ∧
  (∀ (app : Bool) (s : State), OnNext (exec (.persistTimeout app) s) (fun t => SameBut [.regs, .mem, .out, .freeCnt, .plls, .hops, .groups, .ports, .tgs, .drives, .adcs, .cmps, .pis, .cles, .life, .sys, .power, .keeper, .grids, .gridS, .crcs, .acts, .maintSeq, .meters, .vars, .cmds, .arb, .safety, .net, .flows, .dict] s t)) ∧
  (∀ (r : DictReq) (s : State), OnNext (exec (.dictLogin r) s) (fun t => SameBut [.regs, .mem, .out, .freeCnt, .plls, .hops, .groups, .ports, .tgs, .drives, .adcs, .cmps, .pis, .cles, .life, .sys, .power, .keeper, .grids, .gridS, .crcs, .acts, .maintSeq, .meters, .vars, .cmds, .arb, .safety, .net, .flows, .dict] s t)) ∧
  (∀ (r : DictReq) (s : State), OnNext (exec (.dictLogout r) s) (fun t => SameBut [.regs, .mem, .out, .freeCnt, .plls, .hops, .groups, .ports, .tgs, .drives, .adcs, .cmps, .pis, .cles, .life, .sys, .power, .keeper, .grids, .gridS, .crcs, .acts, .maintSeq, .meters, .vars, .cmds, .arb, .safety, .net, .flows, .dict] s t)) ∧
  (∀ (r : DictReq) (s : State), OnNext (exec (.opPassword r) s) (fun t => SameBut [.regs, .mem, .out, .freeCnt, .plls, .hops, .groups, .ports, .tgs, .drives, .adcs, .cmps, .pis, .cles, .life, .sys, .power, .keeper, .grids, .gridS, .crcs, .acts, .maintSeq, .meters, .vars, .cmds, .arb, .safety, .net, .flows, .dict] s t)) ∧
  (∀ (r : DictReq) (s : State), OnNext (exec (.mntPassword r) s) (fun t => SameBut [.regs, .mem, .out, .freeCnt, .plls, .hops, .groups, .ports, .tgs, .drives, .adcs, .cmps, .pis, .cles, .life, .sys, .power, .keeper, .grids, .gridS, .crcs, .acts, .maintSeq, .meters, .vars, .cmds, .arb, .safety, .net, .flows, .dict] s t)) ∧
  (∀ (f : Fin 128) (s : State), OnNext (exec (.sessionTimeout f) s) (fun t => SameBut [.regs, .keeper, .vars, .safety, .flows, .dict] s t ∧ RegsBut ([DICT.DSTAT, KPR.KQ, SFN.S_STATE]) s t)) ∧
  (∀ (f : Fin 128) (s : State), OnNext (exec (.xferTimeout f) s) (fun t => SameBut [.regs, .out, .ports, .net, .flows] s t ∧ RegsBut ((List.range 3).map ETH.DROPCNT) s t)) ∧
  (∀ (r : DictReq) (s : State), OnNext (exec (.restore r) s) (fun t => SameBut [.regs, .mem, .out, .freeCnt, .plls, .hops, .groups, .ports, .tgs, .drives, .adcs, .cmps, .pis, .cles, .life, .sys, .power, .keeper, .grids, .gridS, .crcs, .acts, .maintSeq, .meters, .vars, .cmds, .arb, .safety, .net, .flows, .dict] s t)) ∧
  (∀ (f : Fin 128) (s : State), OnNext (exec (.processTxSlot f) s) (fun t => SameBut [.regs, .freeCnt, .ports, .net, .flows] s t ∧ RegsBut ((List.range 3).map ETH.DROPCNT) s t)) ∧
  (∀ (w : Fin 4) (m : BitVec 32) (s : State), OnNext (exec (.txRel w m) s) (fun t => SameBut [.flows] s t)) ∧
  (∀ (f : Fin 128) (s : State), OnNext (exec (.processRxLost f) s) (fun t => SameBut [.cmds, .flows, .dict] s t)) ∧
  (∀ (s : State), OnNext (exec .declCommit s) (fun t => SameBut [.regs, .freeCnt, .cmds, .dict] s t ∧ RegsBut ([DICT.DECL, DICT.DSTAT]) s t)) ∧
  (∀ (s : State), OnNext (exec .respGo s) (fun t => SameBut [.regs, .out, .ports, .keeper, .net, .flows, .dict] s t ∧ RegsBut ([DICT.DSTAT, KPR.KQ] ++ (List.range 3).map ETH.DROPCNT) s t)) ∧
  (∀ (f : Fin 128) (tid : BitVec 16) (s : State), OnNext (exec (.appTimeout f tid) s) (fun t => SameBut [.regs, .out, .ports, .net, .flows, .dict] s t ∧ RegsBut ([DICT.DCNT] ++ (List.range 3).map ETH.DROPCNT) s t)) ∧
  (∀ (on : Bool) (s : State), OnNext (exec (.vkinChange on) s) (fun t => SameBut [.regs, .keeper] s t ∧ RegsBut ([KPR.KSTAT]) s t)) ∧
  (∀ (s : State), OnNext (exec .keeperPowerOn s) (fun t => SameBut [.regs, .life, .sys, .keeper, .meters, .safety] s t)) ∧
  (∀ (s : State), OnNext (exec .keeperBrownOut s) (fun t => SameBut [.regs, .out, .life, .sys, .keeper, .acts, .maintSeq, .meters, .safety] s t ∧ RegsBut ([KPR.KQ, KPR.KSTAT, MAINT.MRUN] ++ (List.range 8).map MAINT.RES ++ (List.range 8).map MAINT.RESU ++ (List.range 16).map MAINT.SLOTS) s t)) ∧
  (∀ (vkin : KeeperInputs) (vstq : BitVec 16) (vstl : BitVec 16) (s : State), OnNext (exec (.keeperEvaluation vkin vstq vstl) s) (fun t => SameBut [.regs, .keeper] s t ∧ RegsBut ([KPR.E_ST, KPR.KSTAT, KPR.VST]) s t)) ∧
  (∀ (voc : BitVec 16) (s : State), OnNext (exec (.leanVocMeasure voc) s) (fun t => SameBut [.regs, .keeper] s t ∧ RegsBut ([KPR.KVOC]) s t)) ∧
  (∀ (charge : Nat) (voc : Option (BitVec 16)) (s : State), OnNext (exec (.richMpptStep charge voc) s) (fun t => SameBut [.regs, .keeper] s t ∧ RegsBut ([KPR.KVOC]) s t)) ∧
  (∀ (present : Bool) (s : State), OnNext (exec (.harvesterIdleCheck present) s) (fun t => SameBut [.regs, .keeper] s t ∧ RegsBut ([KPR.KSTAT]) s t)) ∧
  (∀ (c : Fin 10) (s : State), OnNext (exec (.burstRequest c) s) (fun t => SameBut [.regs, .keeper] s t ∧ RegsBut ([KPR.KQ]) s t)) ∧
  (∀ (s : State), OnNext (exec .burstStart s) (fun t => SameBut [.regs, .life, .keeper, .meters, .safety, .dict] s t ∧ RegsBut ([KPR.KQ, KPR.KSTAT] ++ (List.range 16).map MAINT.SLOTS) s t)) ∧
  (∀ (s : State), OnNext (exec .burstComplete s) (fun t => SameBut [.regs, .mem, .out, .freeCnt, .rsBlocks, .plls, .hops, .groups, .ports, .tgs, .drives, .adcs, .cmps, .pis, .cles, .life, .sys, .power, .keeper, .grids, .gridS, .crcs, .acts, .maintSeq, .meters, .vars, .cmds, .arb, .safety, .net, .flows, .dict, .persist] s t)) ∧
  (∀ (d : Fin 4) (i : Fin 16) (s : State), OnNext (exec (.wakeRequest d i) s) (fun t => SameBut [.regs] s t ∧ RegsBut ([KPR.KQ]) s t)) ∧
  (∀ (s : State), OnNext (exec .wakeAlarm s) (fun t => SameBut [.regs] s t ∧ RegsBut ([KPR.KQ, KPR.WAKE_AT]) s t)) ∧
  (∀ (s : State), OnNext (exec .wakePulseEnd s) (fun t => SameBut [.regs, .keeper] s t ∧ RegsBut ([KPR.KQ, KPR.KSTAT]) s t)) ∧
  (∀ (temps : List Int) (s : State), OnNext (exec (.rtcSecond temps) s) (fun t => SameBut [.regs, .life, .sys] s t ∧ RegsBut ([RTC.RTC_SEC, RTC.RTC_SUB, SFN.SFSTAT, START.STSTAT]) s t)) ∧
  (∀ (res : Option (BitVec 32)) (s : State), OnNext (exec (.dclHistSecond res) s) (fun t => SameBut [.regs, .life] s t ∧ RegsBut ([LTN.LTCNT]) s t)) ∧
  (∀ (s : State), OnNext (exec .lifetimeMerge s) (fun t => SameBut [.regs, .ports, .life, .keeper, .cycles] s t ∧ RegsBut ([KPR.KQ, LTN.LTCNT]) s t)) ∧
  (∀ (s : State), OnNext (exec .parkedMerge s) (fun t => SameBut [.regs, .life, .keeper] s t ∧ RegsBut ([KPR.KQ]) s t)) ∧
  (∀ (s : State), OnNext (exec .mergeCommitReport s) (fun t => SameBut [.regs, .ports, .life, .cycles] s t ∧ RegsBut ([LTN.LTCNT]) s t)) ∧
  (∀ (u : Fin 8) (s : State), OnNext (exec (.crcStart u) s) (fun t => SameBut [.regs, .out, .crcs, .acts, .maintSeq] s t)) ∧
  (∀ (u : Fin 8) (s : State), OnNext (exec (.crcStop u) s) (fun t => SameBut [.regs, .out, .crcs, .acts, .maintSeq] s t)) ∧
  (∀ (u : Fin 8) (s : State), OnNext (exec (.crcResume u) s) (fun t => SameBut [.regs, .out, .crcs, .acts, .maintSeq] s t)) ∧
  (∀ (u : Fin 8) (w : BitVec 32) (s : State), OnNext (exec (.crcData u w) s) (fun t => SameBut [.regs] s t ∧ RegsBut ([CRC.COUNT u, CRC.CSTAT u, CRC.RESULT u, CRC.VAL u]) s t)) ∧
  (∀ (u : Fin 8) (w : BitVec 16) (s : State), OnNext (exec (.crcDataH u w) s) (fun t => SameBut [.regs] s t ∧ RegsBut ([CRC.COUNT u, CRC.CSTAT u, CRC.RESULT u, CRC.VAL u]) s t)) ∧
  (∀ (u : Fin 8) (w : BitVec 8) (s : State), OnNext (exec (.crcDataB u w) s) (fun t => SameBut [.regs] s t ∧ RegsBut ([CRC.COUNT u, CRC.CSTAT u, CRC.RESULT u, CRC.VAL u]) s t)) ∧
  (∀ (u : Fin 8) (w : BitVec 32) (s : State), OnNext (exec (.crcValWrite u w) s) (fun t => SameBut [.regs] s t ∧ RegsBut ([CRC.CSTAT u, CRC.RESULT u, CRC.VAL u]) s t)) ∧
  (∀ (u : Fin 8) (b : List (BitVec 8)) (s : State), OnNext (exec (.feed u b) s) (fun t => SameBut [.regs] s t ∧ RegsBut ([CRC.COUNT u, CRC.CSTAT u, CRC.RESULT u, CRC.VAL u]) s t)) ∧
  (∀ (u : Fin 8) (fault : Bool) (s : State), OnNext (exec (.scanReadReturn u fault) s) (fun t => SameBut [.regs, .out, .ports, .tgs, .drives, .life, .sys, .keeper, .crcs, .safety, .net] s t)) ∧
  (∀ (u : Fin 8) (s : State), OnNext (exec (.crcDone u) s) (fun t => SameBut [.regs, .out, .crcs, .acts, .maintSeq] s t ∧ RegsBut ([CRC.CSTAT u, MAINT.MRUN] ++ (List.range 8).map MAINT.RES ++ (List.range 8).map MAINT.RESU ++ (List.range 16).map MAINT.SLOTS) s t)) ∧
  (∀ (unit : BitVec 8) (die : BitVec 4) (code : BitVec 4) (s : State), OnNext (exec (.maintRequest unit die code) s) (fun t => SameBut [.regs, .out, .freeCnt, .ports, .tgs, .drives, .cmps, .keeper, .crcs, .acts, .maintSeq] s t)) ∧
  (∀ (k : Fin 16) (s : State), OnNext (exec (.cancel k) s) (fun t => SameBut [.regs, .out, .hops, .ports, .keeper, .crcs, .acts, .maintSeq] s t ∧ RegsBut ([KPR.KQ, KPR.KSTAT, MAINT.MRUN] ++ (List.range 8).map CRC.CSTAT ++ (List.range 8).map MAINT.RES ++ (List.range 8).map MAINT.RESU ++ (List.range 16).map MAINT.SLOTS) s t)) ∧
  (∀ (k : Fin 16) (out : Bool) (s : State), OnNext (exec (.ma0CheckEnd k out) s) (fun t => SameBut [.regs, .out, .freeCnt, .ports, .tgs, .drives, .cmps, .life, .keeper, .acts, .maintSeq] s t)) ∧
  (∀ (k : Fin 16) (found : Option (BitVec 16 × BitVec 16 × Vector (BitVec 8) 64)) (s : State), OnNext (exec (.ma1CalibrationEnd k found) s) (fun t => SameBut [.regs, .out, .ports, .acts, .maintSeq] s t)) ∧
  (∀ (k : Fin 16) (found : Option (BitVec 32 × BitVec 32)) (s : State), OnNext (exec (.ma2CoreCalibrationEnd k found) s) (fun t => SameBut [.regs, .mem, .out, .adcs, .life, .keeper, .acts, .maintSeq] s t)) ∧
  (∀ (k : Fin 16) (band : BitVec 6) (tj : Int) (covers : Bool) (s : State), OnNext (exec (.ma4SearchEnd k band tj covers) s) (fun t => SameBut [.regs, .out, .plls, .hops, .sys, .keeper, .acts, .maintSeq] s t)) ∧
  (∀ (d : Fin 4) (s : State), OnNext (exec (.ma4BandApply d) s) (fun t => SameBut [.regs, .out, .plls, .hops, .sys, .keeper, .acts, .maintSeq] s t ∧ RegsBut ([CLK.PLL_STAT (Die.drive d), KPR.KQ, MAINT.MRUN] ++ (List.range 64).map (CLK.BAND (Die.drive d)) ++ (List.range 8).map MAINT.RES ++ (List.range 8).map MAINT.RESU ++ (List.range 16).map MAINT.SLOTS) s t)) ∧
  (∀ (k : Fin 16) (ok : Bool) (s : State), OnNext (exec (.ma5RetrainEnd k ok) s) (fun t => SameBut [.regs, .out, .linkEnds, .acts, .maintSeq] s t)) ∧
  (∀ (dv : Nat) (t : Nat) (s : State), OnNext (exec (.ma7End dv t) s) (fun t => SameBut [.regs, .out, .keeper, .acts, .maintSeq] s t ∧ RegsBut ([KPR.KQ, KPR.KSTAT, KPR.LCAP, MAINT.MRUN] ++ (List.range 8).map MAINT.RES ++ (List.range 8).map MAINT.RESU ++ (List.range 16).map MAINT.SLOTS) s t)) ∧
  (∀ (d : Fin 4) (s : State), OnNext (exec (.driveDieRetire d) s) (fun t => SameBut [.regs, .ports, .tgs, .drives, .cles, .life, .keeper, .grids, .gridS, .cycles, .crcs] s t)) ∧
  (∀ (d : Fin 4) (s : State), OnNext (exec (.ttimeLoRead d) s) (fun t => SameBut [.out, .drives] s t)) ∧
  (∀ (m : Fin 3) (a : Fin 13) (s : State), OnNext (exec (.accLoRead m a) s) (fun t => SameBut [.out, .meters] s t)) ∧
  (∀ (s : State), OnNext (exec .ltNsRead s) (fun t => SameBut [.out, .net] s t)) ∧
  (∀ (b : Fin 9) (s : State), OnNext (exec (.rsCopyRefresh b) s) (fun t => SameBut [.regs, .copies] s t)) ∧
  (∀ (p : Vector SafetyPins 2) (s : State), OnNext (exec (.safetyInputSample p) s) (fun t => SameBut [.regs, .safety] s t)) ∧
  (∀ (s : State), OnNext (exec .nLinkSilent s) (fun t => SameBut [.regs, .life, .sys, .keeper, .safety] s t ∧ RegsBut ([KPR.KQ, SFN.S_STATE] ++ (List.range 8).map SFN.AXSTAT) s t)) ∧
  (∀ (p : Fin 3) (s : State), OnNext (exec (.ptpDelayReqSend p) s) (fun t => SameBut [.regs, .ports, .net] s t ∧ RegsBut ((List.range 3).map ETH.DROPCNT) s t)) ∧
  (∀ (level : Bool) (s : State), OnNext (exec (.testEnChange level) s) (fun t => SameBut [.regs, .copies, .mem, .linkEnds, .rsBlocks, .plls, .hops, .groups, .ports, .tgs, .drives, .adcs, .cmps, .pis, .cles, .life, .sys, .power, .keeper, .grids, .gridS, .cycles, .crcs, .acts, .maintSeq, .meters, .vars, .cmds, .arb, .safety, .net, .flows, .dict] s t)) ∧
  (∀ (d : Fin 4) (s : State), OnNext (exec (.driveDieClockStop d) s) (fun t => SameBut [.drives] s t)) ∧
  (∀ (d : Fin 4) (s : State), OnNext (exec (.driveDieClockResume d) s) (fun t => SameBut [.regs, .ports, .tgs, .drives] s t ∧ RegsBut ([APB.APSTAT d, CYC.RFSTAT d] ++ (List.range 7).map (PORT.CHOP_STAT d) ++ (List.range 2).map (TRIP.SRCACT d) ++ (List.range 2).map (TRIP.TGSTAT d)) s t))

/-- Every step, of a command or of a tick, keeps the canonical form of the stores and takes exactly the front command off the queue. -/
def Obligations.EveryStepKeepsTheForm : Prop :=
  ∀ s t : State, s.canonical → step s = .next t → t.canonical ∧ t.pending = s.pending.tail

/-- Only the commands named change the memory windows, the persisted values, the working state of the safety functions. -/
def Obligations.OnlyTheseCommandsWrite : Prop :=
  (∀ (c : Instr) (s t : State), exec c s = .next t →
      (match c with
       | .driveWriteArrival _ _ _ _
       | .nWriteFromCommandDie _ _ _
       | .registerWrite _ _ _
       | .rsWriteComplete _
       | .pwmGroupStart _ _
       | .timeEventArrival _
       | .controlPeriodBoundary _ _
       | .vpTriggerEdge _ _
       | .vpTimeout _ _
       | .adcRegularTrigger _ _ _
       | .adcInjectedTrigger _ _ _
       | .swReg _ _
       | .swInj _ _
       | .adcConversionComplete _ _ _ _
       | .adcConversionTimeout _ _
       | .cmpOutChange _ _ _
       | .cmpEnable _ _
       | .cmpSettlingEnd _ _ _
       | .cmpDisable _ _
       | .cmpLatWrite _ _
       | .cleSt _ _
       | .cleStx _ _
       | .cleMemoryWrite _ _ _ _ _
       | .meterSample _ _ _ _
       | .meterCycleFlit _
       | .meterWindowEnd _
       | .meterSrcLost _ _
       | .inputFrameArrival _
       | .fetchComplete _
       | .failoverAtN
       | .grant _
       | .joinReplayComplete _
       | .commandDieRestartDone _ _ _
       | .debuggerWrite _ _ _
       | .shellDebugResume _
       | .mainSupplyFall _
       | .resetNLow
       | .start _
       | .bootTmoExpire
       | .controlledStopComplete
       | .ptpMessageReceived _ _ _
       | .domainTimeout _ _
       | .domainReturn
       | .dictOpen _
       | .dictClose _
       | .dictNop _
       | .dictRead _
       | .dictSegUp _
       | .dictWrite _
       | .dictSegDn _
       | .dictAbort _ _
       | .persistTimeout _
       | .dictLogin _
       | .dictLogout _
       | .opPassword _
       | .mntPassword _
       | .restore _
       | .burstComplete
       | .ma2CoreCalibrationEnd _ _
       | .testEnChange _ => True
       | _ => t.mem = s.mem)) ∧
  (∀ (c : Instr) (s t : State), exec c s = .next t →
      (match c with
       | .start _
       | .burstComplete => True
       | _ => t.persist = s.persist)) ∧
  (∀ (c : Instr) (s t : State), exec c s = .next t →
      (match c with
       | .laneCodeError _ _ _ _
       | .laneTimeout _ _ _ _
       | .driveWriteArrival _ _ _ _
       | .nWriteFromCommandDie _ _ _
       | .registerWrite _ _ _
       | .rwpRead _ _ _
       | .ma3Scrub _ _ _ _
       | .rsWriteComplete _
       | .hopEnSet _
       | .hopEnClear _
       | .ckmonLoss _
       | .ckmonWindowEnd _
       | .pwmGroupEnable _ _
       | .pwmGroupDisable _ _
       | .fltUseWrite _ _ _
       | .chopEnWrite _ _ _
       | .adcDisable _ _
       | .cmpEnable _ _
       | .cmpDisable _ _
       | .piEnable _ _
       | .cleEnable _ _
       | .cleDisable _ _
       | .gridEnable _
       | .gridDisable _
       | .armWrite _ _
       | .meterEnable _
       | .meterDisable _
       | .inputFrameArrival _
       | .grant _
       | .debuggerWrite _ _ _
       | .shellDebugResume _
       | .safetyCycleA _
       | .safetyCycleB _
       | .xdisc
       | .ss1Standstill
       | .ss1TmaxExpire
       | .discVTimeout _
       | .degTimeout
       | .restartAck _
       | .piRecordSend _
       | .piRecordReceived _ _ _ _ _
       | .piRecordTimeout _
       | .siDisc _
       | .testPulse _ _
       | .soTestPulse _ _
       | .soFlt _
       | .scmpWindowViolation _
       | .guardTest _
       | .safetyLogin _ _
       | .safetyLogout
       | .safetySessionTimeout
       | .newPassword _
       | .apply _
       | .safetyFrameReceived _ _
       | .safetyConnTimeout _
       | .safetyFrameSend _ _
       | .mbxStoReq _ _
       | .mbxSs1Req _ _
       | .mbxReset _
       | .mainSupplyFall _
       | .resetNLow
       | .start _
       | .bootTmoExpire
       | .stop
       | .restart _
       | .controlledStopComplete
       | .gateApply _
       | .ltToS
       | .tuEnable _
       | .dictOpen _
       | .dictClose _
       | .dictNop _
       | .dictRead _
       | .dictSegUp _
       | .dictWrite _
       | .dictSegDn _
       | .dictAbort _ _
       | .persistTimeout _
       | .dictLogin _
       | .dictLogout _
       | .opPassword _
       | .mntPassword _
       | .sessionTimeout _
       | .restore _
       | .keeperPowerOn
       | .keeperBrownOut
       | .burstStart
       | .burstComplete
       | .scanReadReturn _ _
       | .safetyInputSample _
       | .nLinkSilent
       | .testEnChange _ => True
       | _ => t.safety = s.safety))

/-- A scan with LEN = 0 completes in its START, without a read and without an activity (R582). -/
def Obligations.ScanOfNothing : Prop :=
  ∀ (u : Fin 8) (s : State), s.mainRuns = true → s.flag (CRC.CSTAT_BUSY u) = false → s.flag (CRC.CCFG_EN u) = true → crcSource (s.reg (CRC.CCFG u)) = 1 →
    s.get (CRC.LEN_LEN u) = 0 →
    Completes (exec (.crcStart u) s) (fun t => t.flag (CRC.CSTAT_BUSY u) = false ∧ t.flag (CRC.CSTAT_DONE u) = true ∧ t.crcOpen u = false ∧
      (∀ k : Fin 16, t.slotKey k = s.slotKey k ∨ t.slotKey k = none) ∧
      ∃ l : List Msg, t.out = l ++ s.out ∧ ∀ m ∈ l, m.kind = .crcDone ∨ m.kind = .maintResult)

/-- A computation over zero bytes yields (INIT XOR XOROUT) AND (2^WIDTH - 1) (R574), WIDTH as it acts (R572). -/
def Obligations.CheckOfNothing : Prop :=
  (∀ (u : Fin 8) (s : State), s.mainRuns = true → s.flag (CRC.CSTAT_BUSY u) = false → s.flag (CRC.CCFG_EN u) = true → crcSource (s.reg (CRC.CCFG u)) ≠ 1 →
    Completes (exec (.crcStart u) s) (fun t => Completes (exec (.crcStop u) t) (fun v => Completes (exec (.crcDone u) v) (fun w =>
      w.flag (CRC.CSTAT_DONE u) = true ∧ (w.reg (CRC.RESULT u)).toNat =
        ((s.reg (CRC.INIT u)).toNat ^^^ (s.reg (CRC.XOROUT u)).toNat) % 2 ^ crcWidth (s.reg (CRC.CCFG u)))))) ∧
  (∀ (u : Fin 8) (s : State), s.mainRuns = true → s.flag (CRC.CSTAT_BUSY u) = false → s.flag (CRC.CCFG_EN u) = true → crcSource (s.reg (CRC.CCFG u)) = 1 →
    s.get (CRC.LEN_LEN u) = 0 →
    Completes (exec (.crcStart u) s) (fun w => w.flag (CRC.CSTAT_DONE u) = true ∧ (w.reg (CRC.RESULT u)).toNat =
        ((s.reg (CRC.INIT u)).toNat ^^^ (s.reg (CRC.XOROUT u)).toNat) % 2 ^ crcWidth (s.reg (CRC.CCFG u))))

/-- PG_K is 0 from keeper power-on, rises at an evaluation at or above V_PGH, falls below V_PGL and keeps its value in the brim (R547). -/
def Obligations.PowerGoodHysteresis : Prop :=
  (∀ s : State, s.keeper.powered = false → Completes (exec .keeperPowerOn s) (fun t => t.flag KPR.KSTAT_PG_K = false)) ∧
  (∀ (x : KeeperInputs) (vstq vstl : BitVec 16) (rail : Nat) (s : State), s.keeper.powered = true → s.get KPR.KPG_V_PGL ≤ s.get KPR.KPG_V_PGH →
    rail = (if (if 3000 < x.vkin.toNat then true else if x.vkin.toNat < 2900 then false else s.flag KPR.KSTAT_VKIN_ON) then x.vkin.toNat else vstq.toNat) →
    Completes (exec (.keeperEvaluation x vstq vstl) s) (fun t => t.flag KPR.KSTAT_PG_K =
      if s.get KPR.KPG_V_PGH ≤ rail then true else if rail < s.get KPR.KPG_V_PGL then false else s.flag KPR.KSTAT_PG_K)) ∧
  (∀ s : State, step { s with pending := [] } = .next (State.tick { s with pending := [] }) ∧
    (State.tick { s with pending := [] }).flag KPR.KSTAT_PG_K = s.flag KPR.KSTAT_PG_K)

/-- At each RTC second each HOURS counter whose condition holds gains 1 s and no other does (R560, its table). -/
def Obligations.HoursCount : Prop :=
  ∀ (temps : List Int) (s : State), s.keeper.powered = true →
    Completes (exec (.rtcSecond temps) s) (fun t =>
      vget t.life.work.hours 0 = vget s.life.work.hours 0 + (if s.power.good = true ∧ s.flag START.STSTAT_BOOT_DONE = true then 1 else 0) ∧
      vget t.life.work.hours 1 = vget s.life.work.hours 1 + (if s.power.good = true ∧ s.flag START.STSTAT_BOOT_DONE = true ∧
        s.flag SFN.S_STATE_STO = false ∧ s.flag SFN.S_STATE_LOCKED = false then 1 else 0) ∧
      vget t.life.work.hours 2 = vget s.life.work.hours 2 +
        (if ∃ d : Fin 4, s.get (GSU.GCFG_BRIDGES d) ≠ 0 ∧ s.flag (RTS.RTSTAT_GCON_CLOSED d) = true then 1 else 0) ∧
      vget t.life.work.hours 3 = vget s.life.work.hours 3 + (if s.power.good = false then 1 else 0) ∧
      (∀ k : Fin 4, vget t.life.work.hours (4 + k) = vget s.life.work.hours (4 + k) +
        (if s.power.good = true ∧ s.flag START.STSTAT_BOOT_DONE = true ∧ s.get LTN.LTMODE_APP_MODE = k.val then 1 else 0)))
end

