-- ==== Sys2Proof/Laws/Checks.lean ====
section
/-!
SUPPORT. Sys2Proof/Laws/Checks.lean: check values stay within their width.
-/

namespace Sys2Proof.Machine

theorem crcShiftR_lt (p v : Nat) (hp : p < 2 ^ 32) (hv : v < 2 ^ 32) : crcShiftR p v < 2 ^ 32 := by
  unfold crcShiftR
  split
  · exact Nat.xor_lt_two_pow (by omega) hp
  · omega

theorem iter_lt (f : Nat → Nat) (n : Nat) (hf : ∀ v, v < 2 ^ 32 → f v < 2 ^ 32) : ∀ v, v < 2 ^ 32 → iter f n v < 2 ^ 32 := by
  induction n with
  | zero => intro v h; exact h
  | succ n ih => intro v h; exact ih _ (hf v h)

theorem crc32c_lt (l : List Nat) (h : ∀ b ∈ l, b < 256) : crc32c l < 2 ^ 32 := by
  have hp : reflectBits 0x1EDC6F41 32 < 2 ^ 32 := by decide
  have key : ∀ (l : List Nat) (v : Nat), (∀ b ∈ l, b < 256) → v < 2 ^ 32 → l.foldl (crcByte 32 0x1EDC6F41 true) v < 2 ^ 32 := by
    intro l
    induction l with
    | nil => intro v _ hv; exact hv
    | cons a r ih =>
      intro v hl hv
      refine ih _ (fun b hb => hl b (List.mem_cons_of_mem _ hb)) ?_
      simp only [crcByte, if_true]
      exact iter_lt _ _ (fun v hv => crcShiftR_lt _ v hp hv) _
        (Nat.xor_lt_two_pow hv (Nat.lt_trans (hl a (by simp)) (by decide)))
  exact Nat.xor_lt_two_pow (key l _ h (by decide)) (by decide)

theorem dictBytes_default_lt (k : Nat) : ∀ b ∈ dictBytes k (dictDefault k), b < 256 := by
  have hle : ∀ (n x : Nat) (b : Nat), b ∈ (bytesLE x n).map BitVec.toNat → b < 256 := by
    intro n
    induction n with
    | zero => intro x b hb; simp [bytesLE] at hb
    | succ n ih =>
      intro x b hb
      simp only [bytesLE, List.map_cons, List.mem_cons] at hb
      rcases hb with rfl | hb
      · exact (BitVec.ofNat 8 x).isLt
      · exact ih _ b hb
  intro b hb
  unfold dictDefault at hb
  split at hb
  · split at hb
    · simp [dictBytes] at hb
    · simp [dictBytes] at hb
    · exact hle _ _ b hb
  · exact hle _ _ b hb

theorem crc_default_lt (s : State) (h : s.vars = []) : s.safetyCrc [] < 2 ^ 32 := by
  refine crc32c_lt _ (fun b hb => ?_)
  obtain ⟨k, _, hk⟩ := List.mem_flatMap.1 hb
  have : s.dval k = dictDefault k := by simp [State.dval, h, Assoc.get]
  simp only [Assoc.get, Option.getD_none, this] at hk
  exact dictBytes_default_lt k b hk

end Sys2Proof.Machine
end

