-- ==== Sys2Proof/Laws/Stores.lean ====
section
/-!
SUPPORT. Sys2Proof/Laws/Stores.lean: reading after writing in the register store and the memory windows, and their canonical form.
-/

namespace Sys2Proof.Machine

/-! ### Sorted association lists -/

theorem Assoc.get_put_self {α : Type} (m : List (Nat × α)) (a : Nat) (v : α) : Assoc.get (Assoc.put m a v) a = some v := by
  induction m with
  | nil => simp [Assoc.put, Assoc.get]
  | cons p r ih =>
    obtain ⟨k, w⟩ := p
    simp only [Assoc.put]
    split
    · simp [Assoc.get]
    · split
      · simp [Assoc.get]
      · rename_i h1 h2
        simp [Assoc.get, Ne.symm h2, ih]

theorem Assoc.get_put_ne {α : Type} (m : List (Nat × α)) (a b : Nat) (v : α) (h : b ≠ a) :
    Assoc.get (Assoc.put m a v) b = Assoc.get m b := by
  induction m with
  | nil => simp [Assoc.put, Assoc.get, Ne.symm h]
  | cons p r ih =>
    obtain ⟨k, w⟩ := p
    simp only [Assoc.put]
    split
    · simp [Assoc.get, Ne.symm h]
    · split
      · rename_i _ hk
        subst hk
        simp [Assoc.get, Ne.symm h]
      · simp only [Assoc.get, ih]

theorem Assoc.get_del_self {α : Type} (m : List (Nat × α)) (a : Nat) : Assoc.get (Assoc.del m a) a = none := by
  induction m with
  | nil => rfl
  | cons p r ih =>
    obtain ⟨k, w⟩ := p
    unfold Assoc.del at ih ⊢
    by_cases h : k = a
    · simp only [List.filter, h]; simpa using ih
    · simp [List.filter, h, Assoc.get] at ih ⊢; exact ih

theorem Assoc.get_del_ne {α : Type} (m : List (Nat × α)) (a b : Nat) (h : b ≠ a) : Assoc.get (Assoc.del m a) b = Assoc.get m b := by
  induction m with
  | nil => rfl
  | cons p r ih =>
    obtain ⟨k, w⟩ := p
    unfold Assoc.del at ih ⊢
    by_cases hk : k = a
    · subst hk
      simp [List.filter, Assoc.get, Ne.symm h] at ih ⊢; exact ih
    · simp [List.filter, hk, Assoc.get] at ih ⊢; rw [ih]

/-- The keys rise strictly, as a property of pairs. -/
theorem Assoc.sorted_iff {α : Type} (m : List (Nat × α)) : Assoc.sorted m = true ↔ m.Pairwise (fun p q => p.1 < q.1) := by
  induction m with
  | nil => simp [Assoc.sorted]
  | cons p r ih =>
    obtain ⟨k, w⟩ := p
    cases r with
    | nil => simp [Assoc.sorted]
    | cons q r =>
      obtain ⟨k2, w2⟩ := q
      simp only [Assoc.sorted, Bool.and_eq_true, decide_eq_true_eq, ih, List.pairwise_cons]
      constructor
      · rintro ⟨h, h2, h3⟩
        refine ⟨?_, h2, h3⟩
        intro x hx
        rcases List.mem_cons.1 hx with rfl | hx
        · exact h
        · exact lt_trans h (h2 x hx)
      · rintro ⟨h, h2, h3⟩
        exact ⟨h (k2, w2) (by simp), h2, h3⟩

theorem Assoc.mem_put {α : Type} (m : List (Nat × α)) (a : Nat) (v : α) (c : Nat × α) (h : c ∈ Assoc.put m a v) : c = (a, v) ∨ c ∈ m := by
  induction m with
  | nil => simpa [Assoc.put] using h
  | cons p r ih =>
    obtain ⟨k, w⟩ := p
    simp only [Assoc.put] at h
    split at h
    · rcases List.mem_cons.1 h with h | h
      · exact .inl h
      · exact .inr h
    · split at h
      · rcases List.mem_cons.1 h with h | h
        · exact .inl h
        · exact .inr (List.mem_cons_of_mem _ h)
      · rcases List.mem_cons.1 h with h | h
        · exact .inr (by simp [h])
        · rcases ih h with h | h
          · exact .inl h
          · exact .inr (List.mem_cons_of_mem _ h)

theorem Assoc.sorted_put {α : Type} (m : List (Nat × α)) (a : Nat) (v : α) (h : Assoc.sorted m = true) :
    Assoc.sorted (Assoc.put m a v) = true := by
  rw [Assoc.sorted_iff] at h ⊢
  induction m with
  | nil => simp [Assoc.put]
  | cons p r ih =>
    obtain ⟨k, w⟩ := p
    have hk := List.pairwise_cons.1 h
    simp only [Assoc.put]
    split
    · rename_i h1
      refine List.pairwise_cons.2 ⟨?_, h⟩
      intro x hx
      rcases List.mem_cons.1 hx with rfl | hx
      · exact h1
      · exact lt_trans h1 (hk.1 x hx)
    · split
      · rename_i _ h2
        subst h2
        exact List.pairwise_cons.2 hk
      · rename_i h1 h2
        refine List.pairwise_cons.2 ⟨?_, ih hk.2⟩
        intro x hx
        rcases Assoc.mem_put r a v x hx with rfl | hx
        · exact lt_of_le_of_ne (Nat.le_of_not_lt h1) (Ne.symm h2)
        · exact hk.1 x hx

theorem Assoc.sorted_filter {α : Type} (m : List (Nat × α)) (p : Nat × α → Bool) (h : Assoc.sorted m = true) :
    Assoc.sorted (m.filter p) = true := by
  rw [Assoc.sorted_iff] at h ⊢
  exact h.filter p

/-! ### Memory windows -/

@[simp] theorem Memory.read_write_self (m : Memory) (a : Nat) (b : Byte) : Memory.read (Memory.write m a b) a = b := by
  unfold Memory.read Memory.write
  split
  · next h => simp [Assoc.get_del_self, h]
  · simp [Assoc.get_put_self]

theorem Memory.read_write_ne (m : Memory) (a c : Nat) (b : Byte) (h : c ≠ a) : Memory.read (Memory.write m a b) c = Memory.read m c := by
  unfold Memory.read Memory.write
  split
  · rw [Assoc.get_del_ne m a c h]
  · rw [Assoc.get_put_ne m a c b h]

theorem Memory.wf_write (m : Memory) (a : Nat) (b : Byte) (h : Memory.wf m = true) : Memory.wf (Memory.write m a b) = true := by
  unfold Memory.wf Memory.write at *
  rw [Bool.and_eq_true] at h ⊢
  split
  · refine ⟨Assoc.sorted_filter m _ h.1, ?_⟩
    rw [List.all_eq_true] at h ⊢
    intro x hx
    exact h.2 x (List.mem_filter.1 hx).1
  · next hb =>
    refine ⟨Assoc.sorted_put m a b h.1, ?_⟩
    rw [List.all_eq_true] at h ⊢
    intro x hx
    rcases Assoc.mem_put m a b x hx with rfl | hx
    · simpa using hb
    · exact h.2 x hx

theorem Memory.wf_writeBytes (l : List Byte) : ∀ (m : Memory) (a : Nat), Memory.wf m = true → Memory.wf (Memory.writeBytes m a l) = true := by
  induction l with
  | nil => intro m a h; exact h
  | cons b r ih => intro m a h; exact ih _ _ (Memory.wf_write m a b h)

theorem Memory.wf_clear (m : Memory) (a n : Nat) (h : Memory.wf m = true) : Memory.wf (Memory.clear m a n) = true := by
  unfold Memory.wf Memory.clear at *
  rw [Bool.and_eq_true] at h ⊢
  refine ⟨Assoc.sorted_filter m _ h.1, ?_⟩
  rw [List.all_eq_true] at h ⊢
  intro x hx
  exact h.2 x (List.mem_filter.1 hx).1

theorem Memory.wf_writes (l : List Host.Cell) : ∀ (m : Memory), Memory.wf m = true →
    Memory.wf (l.foldl (fun x (c : Host.Cell) => Memory.write x c.1 c.2) m) = true := by
  induction l with
  | nil => intro m h; exact h
  | cons b r ih => intro m h; exact ih _ (Memory.wf_write m b.1 b.2 h)

/-- Bytes outside a run of written bytes read as before. -/
theorem Memory.read_writeBytes_ne (l : List Byte) : ∀ (m : Memory) (a c : Nat), (c < a ∨ a + l.length ≤ c) →
    Memory.read (Memory.writeBytes m a l) c = Memory.read m c := by
  induction l with
  | nil => intro m a c _; rfl
  | cons b r ih =>
    intro m a c h
    simp only [List.length_cons] at h
    unfold Memory.writeBytes
    rw [ih (Memory.write m a b) (a + 1) c (by omega), Memory.read_write_ne m a c b (by omega)]

end Sys2Proof.Machine
end

