-- ==== Sys2Proof/Laws/Keeps.lean ====
section
/-!
SUPPORT. Sys2Proof/Laws/Keeps.lean: what every operation of the model leaves as it was: the queue of commands, the canonical form of the
stores, and every part of the state that it does not write.  One lemma for each shared operation (Laws/Keeps*.lean); a command's meaning is
made of them.
-/

namespace Sys2Proof.Machine

/-- From `r` to `t` the queue is unchanged, the canonical form of the stores is kept, and every part with `F` is the same. -/
structure Keeps (F : Part → Prop) (r t : State) : Prop where
  pending : t.pending = r.pending
  canonical : r.canonical → t.canonical
  same : ∀ p, F p → p.Same r t

/-- A part that is not among those to stay the same: an operation may write it. -/
class Open (F : Part → Prop) (p : Part) : Prop where
  no : ¬ F p

/-- A meaning that keeps them in every next state. -/
def KeepsOut (F : Part → Prop) (r : State) (o : Out) : Prop := OnNext o (Keeps F r)

theorem Part.same_refl (p : Part) (s : State) : p.Same s s := by cases p <;> rfl

theorem Keeps.refl (F : Part → Prop) (r : State) : Keeps F r r := ⟨rfl, id, fun p _ => p.same_refl r⟩

theorem Keeps.sameBut {l : List Part} {r t : State} (h : Keeps (fun p => p ∉ l) r t) : SameBut l r t := ⟨h.pending, h.same⟩

theorem keepsOut_next {F : Part → Prop} {r t : State} (h : Keeps F r t) : KeepsOut F r (.next t) := by
  intro t' ht
  cases ht
  exact h

theorem keepsOut_fault {F : Part → Prop} {r : State} (f : Fault) : KeepsOut F r (.fault f) := by
  intro t' ht
  cases ht

/-- What a named intermediate state keeps may be used for the rest. -/
theorem keeps_cut {F : Part → Prop} {r x : State} {P : Prop} (hp : Keeps F r x → P) (hx : Keeps F r x) : P := hp hx

theorem keeps_ite {F : Part → Prop} {r a b : State} {c : Prop} [Decidable c] (ha : Keeps F r a) (hb : Keeps F r b) :
    Keeps F r (if c then a else b) := by
  split
  · exact ha
  · exact hb

theorem keepsOut_ite {F : Part → Prop} {r : State} {a b : Out} {c : Prop} [Decidable c] (ha : KeepsOut F r a) (hb : KeepsOut F r b) :
    KeepsOut F r (if c then a else b) := by
  split
  · exact ha
  · exact hb

/-- A command of the main domains keeps what its effect keeps: held in reset it keeps everything. -/
theorem keepsOut_whileRuns {F : Part → Prop} {r s : State} {o : Out} (h : Keeps F r s) (ho : KeepsOut F r o) :
    KeepsOut F r (s.whileRuns o) := by
  unfold State.whileRuns
  split
  · exact ho
  · exact keepsOut_next h

theorem keeps_mk {α : Type} {F : Part → Prop} {r t : State} {x : α} (h : Keeps F r t) : Keeps F r (x, t).2 := h

theorem keeps_ite_snd {α : Type} {F : Part → Prop} {r : State} {c : Prop} [Decidable c] {a b : α × State} (ha : Keeps F r a.2)
    (hb : Keeps F r b.2) : Keeps F r (if c then a else b).2 := by
  split
  · exact ha
  · exact hb

theorem foldOver_keeps {F : Part → Prop} {r s : State} (l : List Nat) (f : Nat → State → State) (h : Keeps F r s)
    (hf : ∀ i t, Keeps F r t → Keeps F r (f i t)) : Keeps F r (foldOver l f s) := by
  unfold foldOver
  induction l generalizing s with
  | nil => exact h
  | cons i l ih => exact ih (hf i s h)

theorem foldl_keeps {α : Type} {F : Part → Prop} {r s : State} (l : List α) (f : State → α → State) (h : Keeps F r s)
    (hf : ∀ t x, Keeps F r t → Keeps F r (f t x)) : Keeps F r (l.foldl f s) := by
  induction l generalizing s with
  | nil => exact h
  | cons i l ih => exact ih (hf s i h)

/-! ### Writing one part -/

theorem Keeps.out {F : Part → Prop} {r s : State} [Open F .out] (h : Keeps F r s) (x : List Msg) : Keeps F r { s with out := x } :=
  ⟨h.pending, h.canonical, fun p hp => by cases p <;> first | exact absurd hp (Open.no (F := F)) | exact h.same _ hp⟩

theorem Keeps.freeCnt {F : Part → Prop} {r s : State} [Open F .freeCnt] (h : Keeps F r s) (x : Nat) : Keeps F r { s with freeCnt := x } :=
  ⟨h.pending, h.canonical, fun p hp => by cases p <;> first | exact absurd hp (Open.no (F := F)) | exact h.same _ hp⟩

theorem Keeps.linkEnds {F : Part → Prop} {r s : State} [Open F .linkEnds] (h : Keeps F r s) (x : Vector LinkEnd 56) : Keeps F r { s with linkEnds := x } :=
  ⟨h.pending, h.canonical, fun p hp => by cases p <;> first | exact absurd hp (Open.no (F := F)) | exact h.same _ hp⟩

theorem Keeps.rsBlocks {F : Part → Prop} {r s : State} [Open F .rsBlocks] (h : Keeps F r s) (x : Vector RsBlock 9) : Keeps F r { s with rsBlocks := x } :=
  ⟨h.pending, h.canonical, fun p hp => by cases p <;> first | exact absurd hp (Open.no (F := F)) | exact h.same _ hp⟩

theorem Keeps.plls {F : Part → Prop} {r s : State} [Open F .plls] (h : Keeps F r s) (x : Vector Pll 8) : Keeps F r { s with plls := x } :=
  ⟨h.pending, h.canonical, fun p hp => by cases p <;> first | exact absurd hp (Open.no (F := F)) | exact h.same _ hp⟩

theorem Keeps.hops {F : Part → Prop} {r s : State} [Open F .hops] (h : Keeps F r s) (x : Vector Hop 4) : Keeps F r { s with hops := x } :=
  ⟨h.pending, h.canonical, fun p hp => by cases p <;> first | exact absurd hp (Open.no (F := F)) | exact h.same _ hp⟩

theorem Keeps.groups {F : Part → Prop} {r s : State} [Open F .groups] (h : Keeps F r s) (x : Vector Group 16) : Keeps F r { s with groups := x } :=
  ⟨h.pending, h.canonical, fun p hp => by cases p <;> first | exact absurd hp (Open.no (F := F)) | exact h.same _ hp⟩

theorem Keeps.ports {F : Part → Prop} {r s : State} [Open F .ports] (h : Keeps F r s) (x : Vector Port 28) : Keeps F r { s with ports := x } :=
  ⟨h.pending, h.canonical, fun p hp => by cases p <;> first | exact absurd hp (Open.no (F := F)) | exact h.same _ hp⟩

theorem Keeps.tgs {F : Part → Prop} {r s : State} [Open F .tgs] (h : Keeps F r s) (x : Vector TripGroup 8) : Keeps F r { s with tgs := x } :=
  ⟨h.pending, h.canonical, fun p hp => by cases p <;> first | exact absurd hp (Open.no (F := F)) | exact h.same _ hp⟩

theorem Keeps.drives {F : Part → Prop} {r s : State} [Open F .drives] (h : Keeps F r s) (x : Vector DriveDie 4) : Keeps F r { s with drives := x } :=
  ⟨h.pending, h.canonical, fun p hp => by cases p <;> first | exact absurd hp (Open.no (F := F)) | exact h.same _ hp⟩

theorem Keeps.adcs {F : Part → Prop} {r s : State} [Open F .adcs] (h : Keeps F r s) (x : Vector AdcCore 16) : Keeps F r { s with adcs := x } :=
  ⟨h.pending, h.canonical, fun p hp => by cases p <;> first | exact absurd hp (Open.no (F := F)) | exact h.same _ hp⟩

theorem Keeps.cmps {F : Part → Prop} {r s : State} [Open F .cmps] (h : Keeps F r s) (x : Vector Comparator 64) : Keeps F r { s with cmps := x } :=
  ⟨h.pending, h.canonical, fun p hp => by cases p <;> first | exact absurd hp (Open.no (F := F)) | exact h.same _ hp⟩

theorem Keeps.pis {F : Part → Prop} {r s : State} [Open F .pis] (h : Keeps F r s) (x : Vector PosIf 8) : Keeps F r { s with pis := x } :=
  ⟨h.pending, h.canonical, fun p hp => by cases p <;> first | exact absurd hp (Open.no (F := F)) | exact h.same _ hp⟩

theorem Keeps.cles {F : Part → Prop} {r s : State} [Open F .cles] (h : Keeps F r s) (x : Vector CleCore 8) : Keeps F r { s with cles := x } :=
  ⟨h.pending, h.canonical, fun p hp => by cases p <;> first | exact absurd hp (Open.no (F := F)) | exact h.same _ hp⟩

theorem Keeps.life {F : Part → Prop} {r s : State} [Open F .life] (h : Keeps F r s) (x : Life) : Keeps F r { s with life := x } :=
  ⟨h.pending, h.canonical, fun p hp => by cases p <;> first | exact absurd hp (Open.no (F := F)) | exact h.same _ hp⟩

theorem Keeps.sys {F : Part → Prop} {r s : State} [Open F .sys] (h : Keeps F r s) (x : SysRegion) : Keeps F r { s with sys := x } :=
  ⟨h.pending, h.canonical, fun p hp => by cases p <;> first | exact absurd hp (Open.no (F := F)) | exact h.same _ hp⟩

theorem Keeps.power {F : Part → Prop} {r s : State} [Open F .power] (h : Keeps F r s) (x : Power) : Keeps F r { s with power := x } :=
  ⟨h.pending, h.canonical, fun p hp => by cases p <;> first | exact absurd hp (Open.no (F := F)) | exact h.same _ hp⟩

theorem Keeps.keeper {F : Part → Prop} {r s : State} [Open F .keeper] (h : Keeps F r s) (x : Keeper) : Keeps F r { s with keeper := x } :=
  ⟨h.pending, h.canonical, fun p hp => by cases p <;> first | exact absurd hp (Open.no (F := F)) | exact h.same _ hp⟩

theorem Keeps.grids {F : Part → Prop} {r s : State} [Open F .grids] (h : Keeps F r s) (x : Vector GridDie 4) : Keeps F r { s with grids := x } :=
  ⟨h.pending, h.canonical, fun p hp => by cases p <;> first | exact absurd hp (Open.no (F := F)) | exact h.same _ hp⟩

theorem Keeps.gridS {F : Part → Prop} {r s : State} [Open F .gridS] (h : Keeps F r s) (x : GridS) : Keeps F r { s with gridS := x } :=
  ⟨h.pending, h.canonical, fun p hp => by cases p <;> first | exact absurd hp (Open.no (F := F)) | exact h.same _ hp⟩

theorem Keeps.cycles {F : Part → Prop} {r s : State} [Open F .cycles] (h : Keeps F r s) (x : Vector CycleCounter 28) : Keeps F r { s with cycles := x } :=
  ⟨h.pending, h.canonical, fun p hp => by cases p <;> first | exact absurd hp (Open.no (F := F)) | exact h.same _ hp⟩

theorem Keeps.crcs {F : Part → Prop} {r s : State} [Open F .crcs] (h : Keeps F r s) (x : Vector CrcUnit 8) : Keeps F r { s with crcs := x } :=
  ⟨h.pending, h.canonical, fun p hp => by cases p <;> first | exact absurd hp (Open.no (F := F)) | exact h.same _ hp⟩

theorem Keeps.acts {F : Part → Prop} {r s : State} [Open F .acts] (h : Keeps F r s) (x : Vector Activity 16) : Keeps F r { s with acts := x } :=
  ⟨h.pending, h.canonical, fun p hp => by cases p <;> first | exact absurd hp (Open.no (F := F)) | exact h.same _ hp⟩

theorem Keeps.maintSeq {F : Part → Prop} {r s : State} [Open F .maintSeq] (h : Keeps F r s) (x : Nat) : Keeps F r { s with maintSeq := x } :=
  ⟨h.pending, h.canonical, fun p hp => by cases p <;> first | exact absurd hp (Open.no (F := F)) | exact h.same _ hp⟩

theorem Keeps.meters {F : Part → Prop} {r s : State} [Open F .meters] (h : Keeps F r s) (x : Vector MeterPoint 3) : Keeps F r { s with meters := x } :=
  ⟨h.pending, h.canonical, fun p hp => by cases p <;> first | exact absurd hp (Open.no (F := F)) | exact h.same _ hp⟩

theorem Keeps.vars {F : Part → Prop} {r s : State} [Open F .vars] (h : Keeps F r s) (x : List (Nat × DictVal)) : Keeps F r { s with vars := x } :=
  ⟨h.pending, h.canonical, fun p hp => by cases p <;> first | exact absurd hp (Open.no (F := F)) | exact h.same _ hp⟩

theorem Keeps.cmds {F : Part → Prop} {r s : State} [Open F .cmds] (h : Keeps F r s) (x : Vector CmdDie 2) : Keeps F r { s with cmds := x } :=
  ⟨h.pending, h.canonical, fun p hp => by cases p <;> first | exact absurd hp (Open.no (F := F)) | exact h.same _ hp⟩

theorem Keeps.arb {F : Part → Prop} {r s : State} [Open F .arb] (h : Keeps F r s) (x : Arbiter) : Keeps F r { s with arb := x } :=
  ⟨h.pending, h.canonical, fun p hp => by cases p <;> first | exact absurd hp (Open.no (F := F)) | exact h.same _ hp⟩

theorem Keeps.safety {F : Part → Prop} {r s : State} [Open F .safety] (h : Keeps F r s) (x : Safety) : Keeps F r { s with safety := x } :=
  ⟨h.pending, h.canonical, fun p hp => by cases p <;> first | exact absurd hp (Open.no (F := F)) | exact h.same _ hp⟩

theorem Keeps.net {F : Part → Prop} {r s : State} [Open F .net] (h : Keeps F r s) (x : Net) : Keeps F r { s with net := x } :=
  ⟨h.pending, h.canonical, fun p hp => by cases p <;> first | exact absurd hp (Open.no (F := F)) | exact h.same _ hp⟩

theorem Keeps.flows {F : Part → Prop} {r s : State} [Open F .flows] (h : Keeps F r s) (x : Vector FlowCtx 128) : Keeps F r { s with flows := x } :=
  ⟨h.pending, h.canonical, fun p hp => by cases p <;> first | exact absurd hp (Open.no (F := F)) | exact h.same _ hp⟩

theorem Keeps.dict {F : Part → Prop} {r s : State} [Open F .dict] (h : Keeps F r s) (x : Dict) : Keeps F r { s with dict := x } :=
  ⟨h.pending, h.canonical, fun p hp => by cases p <;> first | exact absurd hp (Open.no (F := F)) | exact h.same _ hp⟩

theorem Keeps.persist {F : Part → Prop} {r s : State} [Open F .persist] (h : Keeps F r s) (x : List (Nat × DictVal)) : Keeps F r { s with persist := x } :=
  ⟨h.pending, h.canonical, fun p hp => by cases p <;> first | exact absurd hp (Open.no (F := F)) | exact h.same _ hp⟩

theorem Keeps.regs {F : Part → Prop} {r s : State} [Open F .regs] (h : Keeps F r s) (x : List (Nat × RegCell))
    (hs : Assoc.sorted s.regs = true → Assoc.sorted x = true)
    (hn : (∀ c ∈ s.regs, c.2 ≠ ⟨resetWord c.1, parityOf (resetWord c.1)⟩) → ∀ c ∈ x, c.2 ≠ ⟨resetWord c.1, parityOf (resetWord c.1)⟩) :
    Keeps F r { s with regs := x } :=
  ⟨h.pending, fun hc => ⟨hs (h.canonical hc).1, hn (h.canonical hc).2.1, (h.canonical hc).2.2⟩,
    fun p hp => by cases p <;> first | exact absurd hp (Open.no (F := F)) | exact h.same _ hp⟩

theorem Keeps.copies {F : Part → Prop} {r s : State} [Open F .copies] (h : Keeps F r s) (x : List (Nat × Word))
    (hs : Assoc.sorted s.copies = true → Assoc.sorted x = true) : Keeps F r { s with copies := x } :=
  ⟨h.pending, fun hc => ⟨(h.canonical hc).1, (h.canonical hc).2.1, hs (h.canonical hc).2.2.1, (h.canonical hc).2.2.2⟩,
    fun p hp => by cases p <;> first | exact absurd hp (Open.no (F := F)) | exact h.same _ hp⟩

theorem Keeps.mem {F : Part → Prop} {r s : State} [Open F .mem] (h : Keeps F r s) (x : Memory)
    (hs : Memory.wf s.mem = true → Memory.wf x = true) : Keeps F r { s with mem := x } :=
  ⟨h.pending, fun hc => ⟨(h.canonical hc).1, (h.canonical hc).2.1, (h.canonical hc).2.2.1, hs (h.canonical hc).2.2.2⟩,
    fun p hp => by cases p <;> first | exact absurd hp (Open.no (F := F)) | exact h.same _ hp⟩

theorem State.setReg_keeps {F : Part → Prop} {r s : State} [Open F .regs] (h : Keeps F r s) (a : Nat) (w : Word) :
    Keeps F r (s.setReg a w) := by
  refine h.regs _ (fun h1 => ?_) (fun h2 c hc => ?_)
  · split
    · exact Assoc.sorted_filter _ _ h1
    · exact Assoc.sorted_put _ _ _ h1
  · split at hc
    · exact h2 c (List.mem_filter.1 hc).1
    · next hw =>
      rcases Assoc.mem_put _ _ _ c hc with rfl | hc
      · intro e
        exact hw (congrArg RegCell.val e)
      · exact h2 c hc

theorem State.putCell_keeps {F : Part → Prop} {r s : State} [Open F .regs] (h : Keeps F r s) (a : Nat) (x : RegCell) :
    Keeps F r (s.putCell a x) := by
  refine h.regs _ (fun h1 => ?_) (fun h2 c hc => ?_)
  · split
    · exact Assoc.sorted_filter _ _ h1
    · exact Assoc.sorted_put _ _ _ h1
  · split at hc
    · exact h2 c (List.mem_filter.1 hc).1
    · next hw =>
      rcases Assoc.mem_put _ _ _ c hc with rfl | hc
      · exact hw
      · exact h2 c hc

theorem State.setMemWord_keeps {F : Part → Prop} {r s : State} [Open F .mem] (h : Keeps F r s) (a : Nat) (w : Word) :
    Keeps F r (s.setMemWord a w) := h.mem _ (Memory.wf_writeBytes _ _ _)

end Sys2Proof.Machine
end

