-- ==== Sys2Proof/Laws/KeepsOps.lean ====
section
/-! SUPPORT.  What the operations of Machine/Ops.lean keep. -/

set_option linter.unusedTactic false
set_option linter.unreachableTactic false
set_option linter.unusedVariables false
set_option linter.unnecessarySeqFocus false

namespace Sys2Proof.Machine

theorem State.set_keeps {F : Part → Prop} {q0 s : State} [Open F .regs] (h : Keeps F q0 s) (f : RF) (x : Nat) : Keeps F q0 (State.set s f x) := by
  unfold State.set
  repeat' first
    | with_reducible assumption
    | with_reducible apply keeps_ite
    | with_reducible apply State.setReg_keeps
    | split

theorem State.setB_keeps {F : Part → Prop} {q0 s : State} [Open F .regs] (h : Keeps F q0 s) (f : RF) (b : Bool) : Keeps F q0 (State.setB s f b) := by
  unfold State.setB
  repeat' first
    | with_reducible assumption
    | with_reducible apply keeps_ite
    | with_reducible apply State.set_keeps
    | split

theorem State.showB_keeps {F : Part → Prop} {q0 s : State} [Open F .regs] (h : Keeps F q0 s) (f : RF) (b : Bool) : Keeps F q0 (State.showB s f b) := by
  unfold State.showB
  repeat' first
    | with_reducible assumption
    | with_reducible apply keeps_ite
    | (extract_lets -underBinder +onlyGivenNames xl; refine keeps_cut (F := F) (r := q0) (x := xl) (fun hx => ?_) ?_; (focus clear_value xl; rename' xl => y); rotate_left; (focus unfold xl; clear xl); rotate_left)
    | (extract_lets -underBinder +onlyGivenNames xl; clear_value xl; rename' xl => y)
    | with_reducible apply State.putCell_keeps
    | split

theorem State.addSat_keeps {F : Part → Prop} {q0 s : State} [Open F .regs] (h : Keeps F q0 s) (f : RF) (k : Nat) : Keeps F q0 (State.addSat s f k) := by
  unfold State.addSat
  repeat' first
    | with_reducible assumption
    | with_reducible apply keeps_ite
    | with_reducible apply State.set_keeps
    | split

theorem State.incSat_keeps {F : Part → Prop} {q0 s : State} [Open F .regs] (h : Keeps F q0 s) (f : RF) : Keeps F q0 (State.incSat s f) := by
  unfold State.incSat
  repeat' first
    | with_reducible assumption
    | with_reducible apply keeps_ite
    | with_reducible apply State.addSat_keeps
    | split

theorem State.incMod_keeps {F : Part → Prop} {q0 s : State} [Open F .regs] (h : Keeps F q0 s) (f : RF) : Keeps F q0 (State.incMod s f) := by
  unfold State.incMod
  repeat' first
    | with_reducible assumption
    | with_reducible apply keeps_ite
    | with_reducible apply State.set_keeps
    | split

theorem State.orBits_keeps {F : Part → Prop} {q0 s : State} [Open F .regs] (h : Keeps F q0 s) (f : RF) (m : Nat) : Keeps F q0 (State.orBits s f m) := by
  unfold State.orBits
  repeat' first
    | with_reducible assumption
    | with_reducible apply keeps_ite
    | with_reducible apply State.set_keeps
    | split

theorem State.clrBits_keeps {F : Part → Prop} {q0 s : State} [Open F .regs] (h : Keeps F q0 s) (f : RF) (m : Nat) : Keeps F q0 (State.clrBits s f m) := by
  unfold State.clrBits
  repeat' first
    | with_reducible assumption
    | with_reducible apply keeps_ite
    | with_reducible apply State.set_keeps
    | split

theorem State.setBit_keeps {F : Part → Prop} {q0 s : State} [Open F .regs] (h : Keeps F q0 s) (f : RF) (i : Nat) (b : Bool) : Keeps F q0 (State.setBit s f i b) := by
  unfold State.setBit
  repeat' first
    | with_reducible assumption
    | with_reducible apply keeps_ite
    | with_reducible apply State.clrBits_keeps
    | with_reducible apply State.orBits_keeps
    | split

theorem State.setSat_keeps {F : Part → Prop} {q0 s : State} [Open F .regs] (h : Keeps F q0 s) (f : RF) (i : Int) : Keeps F q0 (State.setSat s f i) := by
  unfold State.setSat
  repeat' first
    | with_reducible assumption
    | with_reducible apply keeps_ite
    | with_reducible apply State.set_keeps
    | split

theorem State.send_keeps {F : Part → Prop} {q0 s : State} [Open F .out] (h : Keeps F q0 s) (m : Msg) : Keeps F q0 (State.send s m) := by
  unfold State.send
  repeat' first
    | with_reducible assumption
    | with_reducible apply keeps_ite
    | split
    | refine Keeps.out ?_ _

theorem State.fresh_keeps {F : Part → Prop} {q0 s : State} [Open F .freeCnt] (h : Keeps F q0 s)  : Keeps F q0 (State.fresh s).2 := by
  unfold State.fresh
  repeat' first
    | with_reducible assumption
    | with_reducible apply keeps_ite
    | with_reducible apply keeps_ite_snd
    | split
    | dsimp only
    | refine Keeps.freeCnt ?_ _

end Sys2Proof.Machine
end

