-- ==== Sys2Proof/Laws/KeepsEvents.lean ====
section
/-! SUPPORT.  What the operations of Machine/Events.lean keep. -/

set_option linter.unusedTactic false
set_option linter.unreachableTactic false
set_option linter.unusedVariables false
set_option linter.unnecessarySeqFocus false

namespace Sys2Proof.Machine

theorem State.burstRequest_keeps {F : Part → Prop} {q0 s : State} [Open F .regs] [Open F .keeper] (h : Keeps F q0 s) (c : Nat) : Keeps F q0 (State.burstRequest s c) := by
  unfold State.burstRequest
  repeat' first
    | with_reducible assumption
    | with_reducible apply keeps_ite
    | (extract_lets -underBinder +onlyGivenNames xl; refine keeps_cut (F := F) (r := q0) (x := xl) (fun hx => ?_) ?_; (focus clear_value xl; rename' xl => y); rotate_left; (focus unfold xl; clear xl); rotate_left)
    | (extract_lets -underBinder +onlyGivenNames xl; clear_value xl; rename' xl => y)
    | with_reducible apply State.orBits_keeps
    | split
    | refine Keeps.keeper ?_ _

theorem State.countEvent_keeps {F : Part → Prop} {q0 s : State} [Open F .life] (h : Keeps F q0 s) (e : EvCounter) : Keeps F q0 (State.countEvent s e) := by
  unfold State.countEvent
  repeat' first
    | with_reducible assumption
    | with_reducible apply keeps_ite
    | split
    | refine Keeps.life ?_ _

theorem State.enterFault_keeps {F : Part → Prop} {q0 s : State} [Open F .regs] [Open F .life] [Open F .keeper] (h : Keeps F q0 s) (code : Nat) (die : Nat) (unit : Nat) (d1 : Nat) (d2 : Nat) : Keeps F q0 (State.enterFault s code die unit d1 d2) := by
  unfold State.enterFault
  repeat' first
    | with_reducible assumption
    | with_reducible apply keeps_ite
    | (extract_lets -underBinder +onlyGivenNames xl; refine keeps_cut (F := F) (r := q0) (x := xl) (fun hx => ?_) ?_; (focus clear_value xl; rename' xl => y); rotate_left; (focus unfold xl; clear xl); rotate_left)
    | (extract_lets -underBinder +onlyGivenNames xl; clear_value xl; rename' xl => y)
    | with_reducible apply State.burstRequest_keeps
    | split
    | refine Keeps.life ?_ _

theorem State.recordRetire_keeps {F : Part → Prop} {q0 s : State} [Open F .regs] [Open F .life] [Open F .keeper] (h : Keeps F q0 s) (k : UnitKind) (e : Die) (unit : Nat) : Keeps F q0 (State.recordRetire s k e unit) := by
  unfold State.recordRetire
  repeat' first
    | with_reducible assumption
    | with_reducible apply keeps_ite
    | with_reducible apply State.enterFault_keeps
    | with_reducible apply State.countEvent_keeps
    | with_reducible apply State.burstRequest_keeps
    | split

theorem State.parityRecord_keeps {F : Part → Prop} {q0 s : State} [Open F .regs] [Open F .life] [Open F .keeper] (h : Keeps F q0 s) (e : Die) (a : Nat) (byRead : Bool) : Keeps F q0 (State.parityRecord s e a byRead) := by
  unfold State.parityRecord
  repeat' first
    | with_reducible assumption
    | with_reducible apply keeps_ite
    | (extract_lets -underBinder +onlyGivenNames xl; refine keeps_cut (F := F) (r := q0) (x := xl) (fun hx => ?_) ?_; (focus clear_value xl; rename' xl => y); rotate_left; (focus unfold xl; clear xl); rotate_left)
    | (extract_lets -underBinder +onlyGivenNames xl; clear_value xl; rename' xl => y)
    | with_reducible apply State.enterFault_keeps
    | with_reducible apply State.countEvent_keeps
    | with_reducible apply State.incSat_keeps
    | with_reducible apply State.setB_keeps
    | with_reducible apply State.setReg_keeps
    | split

theorem State.event_keeps {F : Part → Prop} {q0 s : State} [Open F .out] (h : Keeps F q0 s) (k : MsgKind) (e : Die) (data : List Nat) : Keeps F q0 (State.event s k e data) := by
  unfold State.event
  repeat' first
    | with_reducible assumption
    | with_reducible apply keeps_ite
    | with_reducible apply State.send_keeps
    | split

theorem State.setTtime_keeps {F : Part → Prop} {q0 s : State} [Open F .regs] (h : Keeps F q0 s) (d : Nat) (t : Nat) : Keeps F q0 (State.setTtime s d t) := by
  unfold State.setTtime
  repeat' first
    | with_reducible assumption
    | with_reducible apply keeps_ite
    | with_reducible apply State.set_keeps
    | split

theorem State.modPort_keeps {F : Part → Prop} {q0 s : State} [Open F .ports] (h : Keeps F q0 s) (d : Nat) (j : Nat) (f : Port → Port) : Keeps F q0 (State.modPort s d j f) := by
  unfold State.modPort
  repeat' first
    | with_reducible assumption
    | with_reducible apply keeps_ite
    | split
    | refine Keeps.ports ?_ _

theorem State.modGrp_keeps {F : Part → Prop} {q0 s : State} [Open F .groups] (h : Keeps F q0 s) (d : Nat) (k : Nat) (f : Group → Group) : Keeps F q0 (State.modGrp s d k f) := by
  unfold State.modGrp
  repeat' first
    | with_reducible assumption
    | with_reducible apply keeps_ite
    | split
    | refine Keeps.groups ?_ _

theorem State.modDrive_keeps {F : Part → Prop} {q0 s : State} [Open F .drives] (h : Keeps F q0 s) (d : Nat) (f : DriveDie → DriveDie) : Keeps F q0 (State.modDrive s d f) := by
  unfold State.modDrive
  repeat' first
    | with_reducible assumption
    | with_reducible apply keeps_ite
    | split
    | refine Keeps.drives ?_ _

theorem State.modTg_keeps {F : Part → Prop} {q0 s : State} [Open F .tgs] (h : Keeps F q0 s) (d : Nat) (k : Nat) (f : TripGroup → TripGroup) : Keeps F q0 (State.modTg s d k f) := by
  unfold State.modTg
  repeat' first
    | with_reducible assumption
    | with_reducible apply keeps_ite
    | split
    | refine Keeps.tgs ?_ _

theorem State.modCmp_keeps {F : Part → Prop} {q0 s : State} [Open F .cmps] (h : Keeps F q0 s) (d : Nat) (i : Nat) (f : Comparator → Comparator) : Keeps F q0 (State.modCmp s d i f) := by
  unfold State.modCmp
  repeat' first
    | with_reducible assumption
    | with_reducible apply keeps_ite
    | split
    | refine Keeps.cmps ?_ _

theorem State.modAdc_keeps {F : Part → Prop} {q0 s : State} [Open F .adcs] (h : Keeps F q0 s) (d : Nat) (k : Nat) (f : AdcCore → AdcCore) : Keeps F q0 (State.modAdc s d k f) := by
  unfold State.modAdc
  repeat' first
    | with_reducible assumption
    | with_reducible apply keeps_ite
    | split
    | refine Keeps.adcs ?_ _

theorem State.setDval_keeps {F : Part → Prop} {q0 s : State} [Open F .vars] (h : Keeps F q0 s) (key : Nat) (v : DictVal) : Keeps F q0 (State.setDval s key v) := by
  unfold State.setDval
  repeat' first
    | with_reducible assumption
    | with_reducible apply keeps_ite
    | split
    | refine Keeps.vars ?_ _

end Sys2Proof.Machine
end

