-- ==== Sys2Proof/Laws/KeepsOutputs.lean ====
section
/-! SUPPORT.  What the operations of Machine/Outputs.lean keep. -/

set_option linter.unusedTactic false
set_option linter.unreachableTactic false
set_option linter.unusedVariables false
set_option linter.unnecessarySeqFocus false

namespace Sys2Proof.Machine

theorem State.refreshCuffs_keeps {F : Part → Prop} {q0 s : State} [Open F .regs] (h : Keeps F q0 s) (d : Nat) : Keeps F q0 (State.refreshCuffs s d) := by
  unfold State.refreshCuffs
  repeat' first
    | (intro i t ht)
    | with_reducible assumption
    | with_reducible apply keeps_ite
    | with_reducible apply State.showB_keeps
    | with_reducible apply foldOver_keeps
    | split

theorem State.outputEdge_keeps {F : Part → Prop} {q0 s : State} [Open F .drives] (h : Keeps F q0 s) (d : Nat) (j : Nat) (next : Bool) : Keeps F q0 (State.outputEdge s d j next) := by
  unfold State.outputEdge
  repeat' first
    | (intro i t ht)
    | with_reducible assumption
    | with_reducible apply keeps_ite
    | (extract_lets -underBinder +onlyGivenNames xl; refine keeps_cut (F := F) (r := q0) (x := xl) (fun hx => ?_) ?_; (focus clear_value xl; rename' xl => y); rotate_left; (focus unfold xl; clear xl); rotate_left)
    | (extract_lets -underBinder +onlyGivenNames xl; clear_value xl; rename' xl => y)
    | with_reducible apply State.modDrive_keeps
    | with_reducible apply foldl_keeps
    | split

theorem State.outputOff_keeps {F : Part → Prop} {q0 s : State} [Open F .regs] [Open F .ports] [Open F .drives] (h : Keeps F q0 s) (d : Nat) (j : Nat) (high : Bool) (next : Bool) : Keeps F q0 (State.outputOff s d j high next) := by
  unfold State.outputOff
  repeat' first
    | with_reducible assumption
    | with_reducible apply keeps_ite
    | (extract_lets -underBinder +onlyGivenNames xl; refine keeps_cut (F := F) (r := q0) (x := xl) (fun hx => ?_) ?_; (focus clear_value xl; rename' xl => y); rotate_left; (focus unfold xl; clear xl); rotate_left)
    | (extract_lets -underBinder +onlyGivenNames xl; clear_value xl; rename' xl => y)
    | with_reducible apply State.outputEdge_keeps
    | with_reducible apply State.modPort_keeps
    | with_reducible apply State.setB_keeps
    | split

theorem State.turnOffIn_keeps {F : Part → Prop} {q0 s : State} [Open F .regs] [Open F .ports] [Open F .drives] (h : Keeps F q0 s) (d : Nat) (j : Nat) (high : Bool) (next : Bool) : Keeps F q0 (State.turnOffIn s d j high next) := by
  unfold State.turnOffIn
  repeat' first
    | with_reducible assumption
    | with_reducible apply keeps_ite
    | (extract_lets -underBinder +onlyGivenNames xl; refine keeps_cut (F := F) (r := q0) (x := xl) (fun hx => ?_) ?_; (focus clear_value xl; rename' xl => y); rotate_left; (focus unfold xl; clear xl); rotate_left)
    | (extract_lets -underBinder +onlyGivenNames xl; clear_value xl; rename' xl => y)
    | with_reducible apply State.outputOff_keeps
    | with_reducible apply State.modPort_keeps
    | split

theorem State.turnOff_keeps {F : Part → Prop} {q0 s : State} [Open F .regs] [Open F .ports] [Open F .drives] (h : Keeps F q0 s) (d : Nat) (j : Nat) (high : Bool) : Keeps F q0 (State.turnOff s d j high) := by
  unfold State.turnOff
  repeat' first
    | with_reducible assumption
    | with_reducible apply keeps_ite
    | with_reducible apply State.turnOffIn_keeps
    | split

theorem State.turnOn_keeps {F : Part → Prop} {q0 s : State} [Open F .regs] [Open F .ports] [Open F .drives] (h : Keeps F q0 s) (d : Nat) (j : Nat) (high : Bool) : Keeps F q0 (State.turnOn s d j high) := by
  unfold State.turnOn
  repeat' first
    | with_reducible assumption
    | with_reducible apply keeps_ite
    | (extract_lets -underBinder +onlyGivenNames xl; refine keeps_cut (F := F) (r := q0) (x := xl) (fun hx => ?_) ?_; (focus clear_value xl; rename' xl => y); rotate_left; (focus unfold xl; clear xl); rotate_left)
    | (extract_lets -underBinder +onlyGivenNames xl; clear_value xl; rename' xl => y)
    | with_reducible apply State.outputEdge_keeps
    | with_reducible apply State.modPort_keeps
    | with_reducible apply State.setBit_keeps
    | with_reducible apply State.setB_keeps
    | split

theorem State.bothOffIn_keeps {F : Part → Prop} {q0 s : State} [Open F .regs] [Open F .ports] [Open F .drives] (h : Keeps F q0 s) (d : Nat) (j : Nat) (next : Bool) : Keeps F q0 (State.bothOffIn s d j next) := by
  unfold State.bothOffIn
  repeat' first
    | with_reducible assumption
    | with_reducible apply keeps_ite
    | with_reducible apply State.turnOffIn_keeps
    | with_reducible apply State.modPort_keeps
    | split

theorem State.bothOff_keeps {F : Part → Prop} {q0 s : State} [Open F .regs] [Open F .ports] [Open F .drives] (h : Keeps F q0 s) (d : Nat) (j : Nat) : Keeps F q0 (State.bothOff s d j) := by
  unfold State.bothOff
  repeat' first
    | with_reducible assumption
    | with_reducible apply keeps_ite
    | with_reducible apply State.bothOffIn_keeps
    | split

theorem State.modGrid_keeps {F : Part → Prop} {q0 s : State} [Open F .grids] (h : Keeps F q0 s) (d : Nat) (f : GridDie → GridDie) : Keeps F q0 (State.modGrid s d f) := by
  unfold State.modGrid
  repeat' first
    | with_reducible assumption
    | with_reducible apply keeps_ite
    | split
    | refine Keeps.grids ?_ _

theorem State.recordMember_keeps {F : Part → Prop} {q0 s : State} [Open F .regs] [Open F .life] [Open F .keeper] (h : Keeps F q0 s) (d : Nat) (b : Nat) : Keeps F q0 (State.recordMember s d b) := by
  unfold State.recordMember
  repeat' first
    | with_reducible assumption
    | with_reducible apply keeps_ite
    | with_reducible apply State.recordRetire_keeps
    | split

theorem State.rcRestart_keeps {F : Part → Prop} {q0 s : State} [Open F .regs] [Open F .grids] (h : Keeps F q0 s) (d : Nat) : Keeps F q0 (State.rcRestart s d) := by
  unfold State.rcRestart
  repeat' first
    | with_reducible assumption
    | with_reducible apply keeps_ite
    | with_reducible apply State.modGrid_keeps
    | with_reducible apply State.setB_keeps
    | with_reducible apply State.set_keeps
    | split

theorem State.setVote_keeps {F : Part → Prop} {q0 s : State} [Open F .regs] [Open F .grids] (h : Keeps F q0 s) (d : Nat) (v : Nat) : Keeps F q0 (State.setVote s d v) := by
  unfold State.setVote
  repeat' first
    | with_reducible assumption
    | with_reducible apply keeps_ite
    | (extract_lets -underBinder +onlyGivenNames xl; refine keeps_cut (F := F) (r := q0) (x := xl) (fun hx => ?_) ?_; (focus clear_value xl; rename' xl => y); rotate_left; (focus unfold xl; clear xl); rotate_left)
    | (extract_lets -underBinder +onlyGivenNames xl; clear_value xl; rename' xl => y)
    | with_reducible apply State.rcRestart_keeps
    | with_reducible apply State.set_keeps
    | split

theorem State.refreshVote_keeps {F : Part → Prop} {q0 s : State} [Open F .regs] [Open F .grids] (h : Keeps F q0 s) (d : Nat) : Keeps F q0 (State.refreshVote s d) := by
  unfold State.refreshVote
  repeat' first
    | with_reducible assumption
    | with_reducible apply keeps_ite
    | with_reducible apply State.setVote_keeps
    | split

theorem State.refreshBlock_keeps {F : Part → Prop} {q0 s : State} [Open F .regs] [Open F .ports] [Open F .drives] [Open F .grids] (h : Keeps F q0 s) (d : Nat) : Keeps F q0 (State.refreshBlock s d) := by
  unfold State.refreshBlock
  repeat' first
    | (intro i t ht)
    | with_reducible assumption
    | with_reducible apply keeps_ite
    | (extract_lets -underBinder +onlyGivenNames xl; refine keeps_cut (F := F) (r := q0) (x := xl) (fun hx => ?_) ?_; (focus clear_value xl; rename' xl => y); rotate_left; (focus unfold xl; clear xl); rotate_left)
    | (extract_lets -underBinder +onlyGivenNames xl; clear_value xl; rename' xl => y)
    | with_reducible apply State.modGrid_keeps
    | with_reducible apply State.turnOffIn_keeps
    | with_reducible apply State.modPort_keeps
    | with_reducible apply State.setB_keeps
    | with_reducible apply foldOver_keeps
    | split

theorem State.refreshGrid_keeps {F : Part → Prop} {q0 s : State} [Open F .regs] [Open F .ports] [Open F .drives] [Open F .grids] (h : Keeps F q0 s) (d : Nat) : Keeps F q0 (State.refreshGrid s d) := by
  unfold State.refreshGrid
  repeat' first
    | with_reducible assumption
    | with_reducible apply keeps_ite
    | with_reducible apply State.refreshBlock_keeps
    | with_reducible apply State.refreshVote_keeps
    | split

end Sys2Proof.Machine
end

