-- ==== Sys2Proof/Laws/KeepsPorts.lean ====
section
/-! SUPPORT.  What the operations of Machine/Ports.lean keep. -/

set_option linter.unusedTactic false
set_option linter.unreachableTactic false
set_option linter.unusedVariables false
set_option linter.unnecessarySeqFocus false

namespace Sys2Proof.Machine

theorem State.refreshCfgErr_keeps {F : Part → Prop} {q0 s : State} [Open F .regs] [Open F .tgs] (h : Keeps F q0 s) (d : Nat) (k : Nat) : Keeps F q0 (State.refreshCfgErr s d k) := by
  unfold State.refreshCfgErr
  repeat' first
    | with_reducible assumption
    | with_reducible apply keeps_ite
    | (extract_lets -underBinder +onlyGivenNames xl; refine keeps_cut (F := F) (r := q0) (x := xl) (fun hx => ?_) ?_; (focus clear_value xl; rename' xl => y); rotate_left; (focus unfold xl; clear xl); rotate_left)
    | (extract_lets -underBinder +onlyGivenNames xl; clear_value xl; rename' xl => y)
    | with_reducible apply State.modTg_keeps
    | with_reducible apply State.setB_keeps
    | split

theorem State.enterSafe_keeps {F : Part → Prop} {q0 s : State} [Open F .regs] [Open F .ports] [Open F .drives] (h : Keeps F q0 s) (d : Nat) (j : Nat) (t : PortSafe) : Keeps F q0 (State.enterSafe s d j t) := by
  unfold State.enterSafe
  repeat' first
    | with_reducible assumption
    | with_reducible apply keeps_ite
    | (extract_lets -underBinder +onlyGivenNames xl; refine keeps_cut (F := F) (r := q0) (x := xl) (fun hx => ?_) ?_; (focus clear_value xl; rename' xl => y); rotate_left; (focus unfold xl; clear xl); rotate_left)
    | (extract_lets -underBinder +onlyGivenNames xl; clear_value xl; rename' xl => y)
    | with_reducible apply State.turnOn_keeps
    | with_reducible apply State.turnOffIn_keeps
    | with_reducible apply State.modPort_keeps
    | with_reducible apply State.setB_keeps
    | split

theorem State.refreshAsc_keeps {F : Part → Prop} {q0 s : State} [Open F .regs] (h : Keeps F q0 s) (d : Nat) (k : Nat) : Keeps F q0 (State.refreshAsc s d k) := by
  unfold State.refreshAsc
  repeat' first
    | with_reducible assumption
    | with_reducible apply keeps_ite
    | with_reducible apply State.setB_keeps
    | split

theorem State.recheckSafe_keeps {F : Part → Prop} {q0 s : State} [Open F .regs] [Open F .ports] [Open F .drives] (h : Keeps F q0 s) (d : Nat) (k : Nat) (act : Nat) : Keeps F q0 (State.recheckSafe s d k act) := by
  unfold State.recheckSafe
  repeat' first
    | (intro i t ht)
    | with_reducible assumption
    | with_reducible apply keeps_ite
    | (extract_lets -underBinder +onlyGivenNames xl; refine keeps_cut (F := F) (r := q0) (x := xl) (fun hx => ?_) ?_; (focus clear_value xl; rename' xl => y); rotate_left; (focus unfold xl; clear xl); rotate_left)
    | (extract_lets -underBinder +onlyGivenNames xl; clear_value xl; rename' xl => y)
    | with_reducible apply State.refreshAsc_keeps
    | with_reducible apply State.enterSafe_keeps
    | with_reducible apply foldOver_keeps
    | split

theorem State.refreshGroup_keeps {F : Part → Prop} {q0 s : State} [Open F .regs] [Open F .ports] [Open F .tgs] [Open F .drives] (h : Keeps F q0 s) (d : Nat) (k : Nat) : Keeps F q0 (State.refreshGroup s d k) := by
  unfold State.refreshGroup
  repeat' first
    | with_reducible assumption
    | with_reducible apply keeps_ite
    | (extract_lets -underBinder +onlyGivenNames xl; refine keeps_cut (F := F) (r := q0) (x := xl) (fun hx => ?_) ?_; (focus clear_value xl; rename' xl => y); rotate_left; (focus unfold xl; clear xl); rotate_left)
    | (extract_lets -underBinder +onlyGivenNames xl; clear_value xl; rename' xl => y)
    | with_reducible apply State.recheckSafe_keeps
    | with_reducible apply State.refreshCfgErr_keeps
    | with_reducible apply State.setReg_keeps
    | split

theorem State.refreshTrips_keeps {F : Part → Prop} {q0 s : State} [Open F .regs] [Open F .ports] [Open F .tgs] [Open F .drives] (h : Keeps F q0 s) (d : Nat) : Keeps F q0 (State.refreshTrips s d) := by
  unfold State.refreshTrips
  repeat' first
    | with_reducible assumption
    | with_reducible apply keeps_ite
    | with_reducible apply State.refreshGroup_keeps
    | split

theorem State.writeCause_keeps {F : Part → Prop} {q0 s : State} [Open F .regs] (h : Keeps F q0 s) (d : Nat) (k : Nat) (order : List Nat) (i : Nat) : Keeps F q0 (State.writeCause s d k order i) := by
  unfold State.writeCause
  repeat' first
    | with_reducible assumption
    | with_reducible apply keeps_ite
    | with_reducible apply State.setReg_keeps
    | split

theorem State.recordCauses_keeps {F : Part → Prop} {q0 s : State} [Open F .regs] (h : Keeps F q0 s) (d : Nat) (k : Nat) (act : Nat) : Keeps F q0 (State.recordCauses s d k act) := by
  unfold State.recordCauses
  repeat' first
    | (intro i t ht)
    | with_reducible assumption
    | with_reducible apply keeps_ite
    | (extract_lets -underBinder +onlyGivenNames xl; refine keeps_cut (F := F) (r := q0) (x := xl) (fun hx => ?_) ?_; (focus clear_value xl; rename' xl => y); rotate_left; (focus unfold xl; clear xl); rotate_left)
    | (extract_lets -underBinder +onlyGivenNames xl; clear_value xl; rename' xl => y)
    | with_reducible apply State.writeCause_keeps
    | with_reducible apply State.setB_keeps
    | with_reducible apply State.set_keeps
    | with_reducible apply foldOver_keeps
    | with_reducible apply State.setReg_keeps
    | split

theorem State.trip_keeps {F : Part → Prop} {q0 s : State} [Open F .regs] [Open F .out] [Open F .ports] [Open F .drives] [Open F .life] [Open F .keeper] [Open F .grids] (h : Keeps F q0 s) (d : Nat) (k : Nat) (act : Nat) : Keeps F q0 (State.trip s d k act) := by
  unfold State.trip
  repeat' first
    | (intro i t ht)
    | with_reducible assumption
    | with_reducible apply keeps_ite
    | (extract_lets -underBinder +onlyGivenNames xl; refine keeps_cut (F := F) (r := q0) (x := xl) (fun hx => ?_) ?_; (focus clear_value xl; rename' xl => y); rotate_left; (focus unfold xl; clear xl); rotate_left)
    | (extract_lets -underBinder +onlyGivenNames xl; clear_value xl; rename' xl => y)
    | with_reducible apply State.recordCauses_keeps
    | with_reducible apply State.refreshAsc_keeps
    | with_reducible apply State.enterSafe_keeps
    | with_reducible apply State.refreshGrid_keeps
    | with_reducible apply State.enterFault_keeps
    | with_reducible apply State.countEvent_keeps
    | with_reducible apply State.send_keeps
    | with_reducible apply State.incSat_keeps
    | with_reducible apply State.setB_keeps
    | with_reducible apply foldOver_keeps
    | with_reducible apply State.setReg_keeps
    | split

theorem State.tripDie_keeps {F : Part → Prop} {q0 s : State} [Open F .regs] [Open F .out] [Open F .ports] [Open F .tgs] [Open F .drives] [Open F .life] [Open F .keeper] [Open F .grids] (h : Keeps F q0 s) (d : Nat) : Keeps F q0 (State.tripDie s d) := by
  unfold State.tripDie
  repeat' first
    | with_reducible assumption
    | with_reducible apply keeps_ite
    | (extract_lets -underBinder +onlyGivenNames xl; refine keeps_cut (F := F) (r := q0) (x := xl) (fun hx => ?_) ?_; (focus clear_value xl; rename' xl => y); rotate_left; (focus unfold xl; clear xl); rotate_left)
    | (extract_lets -underBinder +onlyGivenNames xl; clear_value xl; rename' xl => y)
    | with_reducible apply State.trip_keeps
    | with_reducible apply State.refreshTrips_keeps
    | split

theorem State.clearAttempt_keeps {F : Part → Prop} {q0 s : State} [Open F .regs] [Open F .ports] [Open F .drives] [Open F .grids] (h : Keeps F q0 s) (d : Nat) (k : Nat) : Keeps F q0 (State.clearAttempt s d k) := by
  unfold State.clearAttempt
  repeat' first
    | (intro i t ht)
    | with_reducible assumption
    | with_reducible apply keeps_ite
    | with_reducible apply State.refreshGrid_keeps
    | with_reducible apply State.modPort_keeps
    | with_reducible apply State.setB_keeps
    | with_reducible apply foldOver_keeps
    | split

end Sys2Proof.Machine
end

