-- ==== Sys2Proof/Laws/KeepsPwm.lean ====
section
/-! SUPPORT.  What the operations of Machine/Pwm.lean keep. -/

set_option linter.unusedTactic false
set_option linter.unreachableTactic false
set_option linter.unusedVariables false
set_option linter.unnecessarySeqFocus false

namespace Sys2Proof.Machine

theorem State.runAtSlot0_keeps {F : Part → Prop} {q0 s : State} [Open F .regs] (h : Keeps F q0 s) (d : Nat) : Keeps F q0 (State.runAtSlot0 s d) := by
  unfold State.runAtSlot0
  repeat' first
    | with_reducible assumption
    | with_reducible apply keeps_ite
    | (extract_lets -underBinder +onlyGivenNames xl; refine keeps_cut (F := F) (r := q0) (x := xl) (fun hx => ?_) ?_; (focus clear_value xl; rename' xl => y); rotate_left; (focus unfold xl; clear xl); rotate_left)
    | (extract_lets -underBinder +onlyGivenNames xl; clear_value xl; rename' xl => y)
    | with_reducible apply State.setB_keeps
    | with_reducible apply State.set_keeps
    | split

theorem State.hopReturn_keeps {F : Part → Prop} {q0 s : State} [Open F .regs] [Open F .plls] [Open F .hops] (h : Keeps F q0 s) (d : Nat) : Keeps F q0 (State.hopReturn s d) := by
  unfold State.hopReturn
  repeat' first
    | with_reducible assumption
    | with_reducible apply keeps_ite
    | (extract_lets -underBinder +onlyGivenNames xl; refine keeps_cut (F := F) (r := q0) (x := xl) (fun hx => ?_) ?_; (focus clear_value xl; rename' xl => y); rotate_left; (focus unfold xl; clear xl); rotate_left)
    | (extract_lets -underBinder +onlyGivenNames xl; clear_value xl; rename' xl => y)
    | with_reducible apply State.runAtSlot0_keeps
    | split
    | refine Keeps.plls ?_ _
    | refine Keeps.hops ?_ _

theorem State.seedHops_keeps {F : Part → Prop} {q0 s : State} [Open F .hops] (h : Keeps F q0 s) (d : Nat) : Keeps F q0 (State.seedHops s d) := by
  unfold State.seedHops
  repeat' first
    | with_reducible assumption
    | with_reducible apply keeps_ite
    | (extract_lets -underBinder +onlyGivenNames xl; refine keeps_cut (F := F) (r := q0) (x := xl) (fun hx => ?_) ?_; (focus clear_value xl; rename' xl => y); rotate_left; (focus unfold xl; clear xl); rotate_left)
    | (extract_lets -underBinder +onlyGivenNames xl; clear_value xl; rename' xl => y)
    | split
    | refine Keeps.hops ?_ _

theorem State.modHop_keeps {F : Part → Prop} {q0 s : State} [Open F .hops] (h : Keeps F q0 s) (d : Nat) (f : Hop → Hop) : Keeps F q0 (State.modHop s d f) := by
  unfold State.modHop
  repeat' first
    | with_reducible assumption
    | with_reducible apply keeps_ite
    | split
    | refine Keeps.hops ?_ _

theorem State.refreshHopNext_keeps {F : Part → Prop} {q0 s : State} [Open F .regs] (h : Keeps F q0 s) (d : Nat) : Keeps F q0 (State.refreshHopNext s d) := by
  unfold State.refreshHopNext
  repeat' first
    | with_reducible assumption
    | with_reducible apply keeps_ite
    | (extract_lets -underBinder +onlyGivenNames xl; refine keeps_cut (F := F) (r := q0) (x := xl) (fun hx => ?_) ?_; (focus clear_value xl; rename' xl => y); rotate_left; (focus unfold xl; clear xl); rotate_left)
    | (extract_lets -underBinder +onlyGivenNames xl; clear_value xl; rename' xl => y)
    | with_reducible apply State.set_keeps
    | split

theorem State.groupEnable_keeps {F : Part → Prop} {q0 s : State} [Open F .regs] [Open F .groups] (h : Keeps F q0 s) (d : Nat) (k : Nat) : Keeps F q0 (State.groupEnable s d k) := by
  unfold State.groupEnable
  repeat' first
    | with_reducible assumption
    | with_reducible apply keeps_ite
    | (extract_lets -underBinder +onlyGivenNames xl; refine keeps_cut (F := F) (r := q0) (x := xl) (fun hx => ?_) ?_; (focus clear_value xl; rename' xl => y); rotate_left; (focus unfold xl; clear xl); rotate_left)
    | (extract_lets -underBinder +onlyGivenNames xl; clear_value xl; rename' xl => y)
    | with_reducible apply State.modGrp_keeps
    | with_reducible apply State.setB_keeps
    | split

theorem State.groupDisable_keeps {F : Part → Prop} {q0 s : State} [Open F .groups] (h : Keeps F q0 s) (d : Nat) (k : Nat) : Keeps F q0 (State.groupDisable s d k) := by
  unfold State.groupDisable
  repeat' first
    | with_reducible assumption
    | with_reducible apply keeps_ite
    | with_reducible apply State.modGrp_keeps
    | split

theorem State.gcfgApply_keeps {F : Part → Prop} {q0 s : State} [Open F .regs] [Open F .groups] (h : Keeps F q0 s) (d : Nat) (k : Nat) (w : Word) : Keeps F q0 (State.gcfgApply s d k w) := by
  unfold State.gcfgApply
  repeat' first
    | with_reducible assumption
    | with_reducible apply keeps_ite
    | (extract_lets -underBinder +onlyGivenNames xl; refine keeps_cut (F := F) (r := q0) (x := xl) (fun hx => ?_) ?_; (focus clear_value xl; rename' xl => y); rotate_left; (focus unfold xl; clear xl); rotate_left)
    | (extract_lets -underBinder +onlyGivenNames xl; clear_value xl; rename' xl => y)
    | with_reducible apply State.groupDisable_keeps
    | with_reducible apply State.groupEnable_keeps
    | with_reducible apply State.modGrp_keeps
    | with_reducible apply State.setReg_keeps
    | split

theorem State.transferPort_keeps {F : Part → Prop} {q0 s : State} [Open F .regs] [Open F .ports] (h : Keeps F q0 s) (d : Nat) (k : Nat) (j : Nat) (per : Nat) : Keeps F q0 (State.transferPort s d k j per) := by
  unfold State.transferPort
  repeat' first
    | with_reducible assumption
    | with_reducible apply keeps_ite
    | (extract_lets -underBinder +onlyGivenNames xl; refine keeps_cut (F := F) (r := q0) (x := xl) (fun hx => ?_) ?_; (focus clear_value xl; rename' xl => y); rotate_left; (focus unfold xl; clear xl); rotate_left)
    | (extract_lets -underBinder +onlyGivenNames xl; clear_value xl; rename' xl => y)
    | with_reducible apply State.modPort_keeps
    | with_reducible apply State.setB_keeps
    | with_reducible apply State.setReg_keeps
    | split

theorem State.logSplit_keeps {F : Part → Prop} {q0 s : State} [Open F .regs] (h : Keeps F q0 s) (d : Nat) (k : Nat) : Keeps F q0 (State.logSplit s d k) := by
  unfold State.logSplit
  repeat' first
    | with_reducible assumption
    | with_reducible apply keeps_ite
    | (extract_lets -underBinder +onlyGivenNames xl; refine keeps_cut (F := F) (r := q0) (x := xl) (fun hx => ?_) ?_; (focus clear_value xl; rename' xl => y); rotate_left; (focus unfold xl; clear xl); rotate_left)
    | (extract_lets -underBinder +onlyGivenNames xl; clear_value xl; rename' xl => y)
    | with_reducible apply State.incSat_keeps
    | with_reducible apply State.setB_keeps
    | with_reducible apply State.set_keeps
    | split

theorem State.transferSet_keeps {F : Part → Prop} {q0 s : State} [Open F .regs] [Open F .groups] [Open F .ports] (h : Keeps F q0 s) (d : Nat) (k : Nat) : Keeps F q0 (State.transferSet s d k) := by
  unfold State.transferSet
  repeat' first
    | (intro i t ht)
    | with_reducible assumption
    | with_reducible apply keeps_ite
    | (extract_lets -underBinder +onlyGivenNames xl; refine keeps_cut (F := F) (r := q0) (x := xl) (fun hx => ?_) ?_; (focus clear_value xl; rename' xl => y); rotate_left; (focus unfold xl; clear xl); rotate_left)
    | (extract_lets -underBinder +onlyGivenNames xl; clear_value xl; rename' xl => y)
    | with_reducible apply State.logSplit_keeps
    | with_reducible apply State.transferPort_keeps
    | with_reducible apply State.modGrp_keeps
    | with_reducible apply State.setB_keeps
    | with_reducible apply foldOver_keeps
    | split

theorem State.transfer_keeps {F : Part → Prop} {q0 s : State} [Open F .regs] [Open F .out] [Open F .groups] [Open F .ports] (h : Keeps F q0 s) (d : Nat) (k : Nat) : Keeps F q0 (State.transfer s d k) := by
  unfold State.transfer
  repeat' first
    | with_reducible assumption
    | with_reducible apply keeps_ite
    | (extract_lets -underBinder +onlyGivenNames xl; refine keeps_cut (F := F) (r := q0) (x := xl) (fun hx => ?_) ?_; (focus clear_value xl; rename' xl => y); rotate_left; (focus unfold xl; clear xl); rotate_left)
    | (extract_lets -underBinder +onlyGivenNames xl; clear_value xl; rename' xl => y)
    | with_reducible apply State.transferSet_keeps
    | with_reducible apply State.event_keeps
    | split

theorem State.staticWrite_keeps {F : Part → Prop} {q0 s : State} [Open F .groups] (h : Keeps F q0 s) (d : Nat) (k : Nat) (wrpt : Bool) (perMin : Bool) : Keeps F q0 (State.staticWrite s d k wrpt perMin) := by
  unfold State.staticWrite
  repeat' first
    | with_reducible assumption
    | with_reducible apply keeps_ite
    | with_reducible apply State.modGrp_keeps
    | split

theorem State.checkStatics_keeps {F : Part → Prop} {q0 s : State} [Open F .regs] [Open F .groups] (h : Keeps F q0 s) (d : Nat) (k : Nat) : Keeps F q0 (State.checkStatics s d k) := by
  unfold State.checkStatics
  repeat' first
    | with_reducible assumption
    | with_reducible apply keeps_ite
    | (extract_lets -underBinder +onlyGivenNames xl; refine keeps_cut (F := F) (r := q0) (x := xl) (fun hx => ?_) ?_; (focus clear_value xl; rename' xl => y); rotate_left; (focus unfold xl; clear xl); rotate_left)
    | (extract_lets -underBinder +onlyGivenNames xl; clear_value xl; rename' xl => y)
    | with_reducible apply State.modGrp_keeps
    | with_reducible apply State.setB_keeps
    | split

theorem State.compareDelay_keeps {F : Part → Prop} {q0 s : State} [Open F .regs] [Open F .out] (h : Keeps F q0 s) (d : Nat) (j : Nat) : Keeps F q0 (State.compareDelay s d j) := by
  unfold State.compareDelay
  repeat' first
    | with_reducible assumption
    | with_reducible apply keeps_ite
    | (extract_lets -underBinder +onlyGivenNames xl; refine keeps_cut (F := F) (r := q0) (x := xl) (fun hx => ?_) ?_; (focus clear_value xl; rename' xl => y); rotate_left; (focus unfold xl; clear xl); rotate_left)
    | (extract_lets -underBinder +onlyGivenNames xl; clear_value xl; rename' xl => y)
    | with_reducible apply State.event_keeps
    | with_reducible apply State.setB_keeps
    | split

theorem State.loadDelays_keeps {F : Part → Prop} {q0 s : State} [Open F .regs] [Open F .out] [Open F .ports] (h : Keeps F q0 s) (d : Nat) (j : Nat) : Keeps F q0 (State.loadDelays s d j) := by
  unfold State.loadDelays
  repeat' first
    | (intro i t ht)
    | with_reducible assumption
    | with_reducible apply keeps_ite
    | (extract_lets -underBinder +onlyGivenNames xl; refine keeps_cut (F := F) (r := q0) (x := xl) (fun hx => ?_) ?_; (focus clear_value xl; rename' xl => y); rotate_left; (focus unfold xl; clear xl); rotate_left)
    | (extract_lets -underBinder +onlyGivenNames xl; clear_value xl; rename' xl => y)
    | with_reducible apply State.compareDelay_keeps
    | with_reducible apply State.modPort_keeps
    | with_reducible apply State.setB_keeps
    | with_reducible apply State.set_keeps
    | with_reducible apply foldOver_keeps
    | split

theorem State.startCounter_keeps {F : Part → Prop} {q0 s : State} [Open F .regs] [Open F .hops] [Open F .groups] [Open F .ports] (h : Keeps F q0 s) (d : Nat) (k : Nat) : Keeps F q0 (State.startCounter s d k) := by
  unfold State.startCounter
  repeat' first
    | (intro i t ht)
    | with_reducible assumption
    | with_reducible apply keeps_ite
    | (extract_lets -underBinder +onlyGivenNames xl; refine keeps_cut (F := F) (r := q0) (x := xl) (fun hx => ?_) ?_; (focus clear_value xl; rename' xl => y); rotate_left; (focus unfold xl; clear xl); rotate_left)
    | (extract_lets -underBinder +onlyGivenNames xl; clear_value xl; rename' xl => y)
    | with_reducible apply State.refreshHopNext_keeps
    | with_reducible apply State.seedHops_keeps
    | with_reducible apply State.modGrp_keeps
    | with_reducible apply State.modPort_keeps
    | with_reducible apply State.setB_keeps
    | with_reducible apply State.set_keeps
    | with_reducible apply foldOver_keeps
    | split

theorem State.stopCounter_keeps {F : Part → Prop} {q0 s : State} [Open F .regs] [Open F .out] [Open F .plls] [Open F .hops] [Open F .groups] [Open F .ports] [Open F .tgs] [Open F .drives] (h : Keeps F q0 s) (d : Nat) (k : Nat) : Keeps F q0 (State.stopCounter s d k) := by
  unfold State.stopCounter
  repeat' first
    | (intro i t ht)
    | with_reducible assumption
    | with_reducible apply keeps_ite
    | (extract_lets -underBinder +onlyGivenNames xl; refine keeps_cut (F := F) (r := q0) (x := xl) (fun hx => ?_) ?_; (focus clear_value xl; rename' xl => y); rotate_left; (focus unfold xl; clear xl); rotate_left)
    | (extract_lets -underBinder +onlyGivenNames xl; clear_value xl; rename' xl => y)
    | with_reducible apply State.loadDelays_keeps
    | with_reducible apply State.refreshHopNext_keeps
    | with_reducible apply State.hopReturn_keeps
    | with_reducible apply State.refreshTrips_keeps
    | with_reducible apply State.bothOff_keeps
    | with_reducible apply State.modGrp_keeps
    | with_reducible apply State.modPort_keeps
    | with_reducible apply State.setB_keeps
    | with_reducible apply foldOver_keeps
    | split

theorem State.keepFalls_keeps {F : Part → Prop} {q0 s : State} [Open F .ports] (h : Keeps F q0 s) (d : Nat) (k : Nat) : Keeps F q0 (State.keepFalls s d k) := by
  unfold State.keepFalls
  repeat' first
    | (intro i t ht)
    | with_reducible assumption
    | with_reducible apply keeps_ite
    | (extract_lets -underBinder +onlyGivenNames xl; refine keeps_cut (F := F) (r := q0) (x := xl) (fun hx => ?_) ?_; (focus clear_value xl; rename' xl => y); rotate_left; (focus unfold xl; clear xl); rotate_left)
    | (extract_lets -underBinder +onlyGivenNames xl; clear_value xl; rename' xl => y)
    | with_reducible apply State.modPort_keeps
    | with_reducible apply foldOver_keeps
    | split

theorem State.pulseOn_keeps {F : Part → Prop} {q0 s : State} [Open F .regs] [Open F .ports] [Open F .drives] (h : Keeps F q0 s) (d : Nat) (k : Nat) (j : Nat) (t : Nat) (high : Bool) : Keeps F q0 (State.pulseOn s d k j t high) := by
  unfold State.pulseOn
  repeat' first
    | with_reducible assumption
    | with_reducible apply keeps_ite
    | with_reducible apply State.turnOn_keeps
    | with_reducible apply State.setB_keeps
    | split

theorem State.planTurnOn_keeps {F : Part → Prop} {q0 s : State} [Open F .regs] [Open F .ports] [Open F .drives] (h : Keeps F q0 s) (d : Nat) (k : Nat) (j : Nat) (t : Nat) (dt : Nat) (high : Bool) : Keeps F q0 (State.planTurnOn s d k j t dt high) := by
  unfold State.planTurnOn
  repeat' first
    | with_reducible assumption
    | with_reducible apply keeps_ite
    | with_reducible apply State.pulseOn_keeps
    | with_reducible apply State.modPort_keeps
    | split

theorem State.dropPlanned_keeps {F : Part → Prop} {q0 s : State} [Open F .regs] [Open F .ports] (h : Keeps F q0 s) (d : Nat) (k : Nat) (j : Nat) (t : Nat) : Keeps F q0 (State.dropPlanned s d k j t) := by
  unfold State.dropPlanned
  repeat' first
    | with_reducible assumption
    | with_reducible apply keeps_ite
    | (extract_lets -underBinder +onlyGivenNames xl; refine keeps_cut (F := F) (r := q0) (x := xl) (fun hx => ?_) ?_; (focus clear_value xl; rename' xl => y); rotate_left; (focus unfold xl; clear xl); rotate_left)
    | (extract_lets -underBinder +onlyGivenNames xl; clear_value xl; rename' xl => y)
    | with_reducible apply State.modPort_keeps
    | with_reducible apply State.setB_keeps
    | split

theorem State.placeEdge_keeps {F : Part → Prop} {q0 s : State} [Open F .ports] (h : Keeps F q0 s) (d : Nat) (j : Nat) (fine : Nat) : Keeps F q0 (State.placeEdge s d j fine) := by
  unfold State.placeEdge
  repeat' first
    | with_reducible assumption
    | with_reducible apply keeps_ite
    | (extract_lets -underBinder +onlyGivenNames xl; refine keeps_cut (F := F) (r := q0) (x := xl) (fun hx => ?_) ?_; (focus clear_value xl; rename' xl => y); rotate_left; (focus unfold xl; clear xl); rotate_left)
    | (extract_lets -underBinder +onlyGivenNames xl; clear_value xl; rename' xl => y)
    | with_reducible apply State.modPort_keeps
    | split

theorem State.edgeOutputs_keeps {F : Part → Prop} {q0 s : State} [Open F .regs] [Open F .ports] [Open F .drives] (h : Keeps F q0 s) (d : Nat) (k : Nat) (j : Nat) (t : Nat) (rise : Bool) : Keeps F q0 (State.edgeOutputs s d k j t rise) := by
  unfold State.edgeOutputs
  repeat' first
    | with_reducible assumption
    | with_reducible apply keeps_ite
    | (extract_lets -underBinder +onlyGivenNames xl; refine keeps_cut (F := F) (r := q0) (x := xl) (fun hx => ?_) ?_; (focus clear_value xl; rename' xl => y); rotate_left; (focus unfold xl; clear xl); rotate_left)
    | (extract_lets -underBinder +onlyGivenNames xl; clear_value xl; rename' xl => y)
    | with_reducible apply State.dropPlanned_keeps
    | with_reducible apply State.planTurnOn_keeps
    | with_reducible apply State.turnOff_keeps
    | split

theorem State.commandEdge_keeps {F : Part → Prop} {q0 s : State} [Open F .regs] [Open F .ports] [Open F .tgs] [Open F .drives] [Open F .grids] (h : Keeps F q0 s) (d : Nat) (j : Nat) : Keeps F q0 (State.commandEdge s d j) := by
  unfold State.commandEdge
  repeat' first
    | with_reducible assumption
    | with_reducible apply keeps_ite
    | (extract_lets -underBinder +onlyGivenNames xl; refine keeps_cut (F := F) (r := q0) (x := xl) (fun hx => ?_) ?_; (focus clear_value xl; rename' xl => y); rotate_left; (focus unfold xl; clear xl); rotate_left)
    | (extract_lets -underBinder +onlyGivenNames xl; clear_value xl; rename' xl => y)
    | with_reducible apply State.edgeOutputs_keeps
    | with_reducible apply State.placeEdge_keeps
    | with_reducible apply State.clearAttempt_keeps
    | with_reducible apply State.refreshTrips_keeps
    | with_reducible apply State.refreshAsc_keeps
    | with_reducible apply State.modPort_keeps
    | split

theorem State.deadTimeEnd_keeps {F : Part → Prop} {q0 s : State} [Open F .regs] [Open F .ports] [Open F .tgs] [Open F .drives] (h : Keeps F q0 s) (d : Nat) (j : Nat) : Keeps F q0 (State.deadTimeEnd s d j) := by
  unfold State.deadTimeEnd
  repeat' first
    | with_reducible assumption
    | with_reducible apply keeps_ite
    | (extract_lets -underBinder +onlyGivenNames xl; refine keeps_cut (F := F) (r := q0) (x := xl) (fun hx => ?_) ?_; (focus clear_value xl; rename' xl => y); rotate_left; (focus unfold xl; clear xl); rotate_left)
    | (extract_lets -underBinder +onlyGivenNames xl; clear_value xl; rename' xl => y)
    | with_reducible apply State.placeEdge_keeps
    | with_reducible apply State.pulseOn_keeps
    | with_reducible apply State.refreshTrips_keeps
    | with_reducible apply State.modPort_keeps
    | split

theorem State.pmodeApply_keeps {F : Part → Prop} {q0 s : State} [Open F .regs] [Open F .ports] [Open F .tgs] [Open F .drives] (h : Keeps F q0 s) (d : Nat) (j : Nat) (w : Word) : Keeps F q0 (State.pmodeApply s d j w) := by
  unfold State.pmodeApply
  repeat' first
    | with_reducible assumption
    | with_reducible apply keeps_ite
    | (extract_lets -underBinder +onlyGivenNames xl; refine keeps_cut (F := F) (r := q0) (x := xl) (fun hx => ?_) ?_; (focus clear_value xl; rename' xl => y); rotate_left; (focus unfold xl; clear xl); rotate_left)
    | (extract_lets -underBinder +onlyGivenNames xl; clear_value xl; rename' xl => y)
    | with_reducible apply State.refreshTrips_keeps
    | with_reducible apply State.bothOffIn_keeps
    | with_reducible apply State.modPort_keeps
    | with_reducible apply State.setB_keeps
    | with_reducible apply State.setReg_keeps
    | split

theorem State.delayMonitor_keeps {F : Part → Prop} {q0 s : State} [Open F .regs] [Open F .out] (h : Keeps F q0 s) (d : Nat) (mon : Nat) : Keeps F q0 (State.delayMonitor s d mon) := by
  unfold State.delayMonitor
  repeat' first
    | (intro i t ht)
    | with_reducible assumption
    | with_reducible apply keeps_ite
    | with_reducible apply State.compareDelay_keeps
    | with_reducible apply State.set_keeps
    | with_reducible apply foldOver_keeps
    | split

end Sys2Proof.Machine
end

