-- ==== Sys2Proof/Laws/KeepsCrc.lean ====
section
/-! SUPPORT.  What the operations of Machine/Crc.lean keep. -/

set_option linter.unusedTactic false
set_option linter.unreachableTactic false
set_option linter.unusedVariables false
set_option linter.unnecessarySeqFocus false

namespace Sys2Proof.Machine

theorem State.modCrc_keeps {F : Part → Prop} {q0 s : State} [Open F .crcs] (h : Keeps F q0 s) (u : Nat) (f : CrcUnit → CrcUnit) : Keeps F q0 (State.modCrc s u f) := by
  unfold State.modCrc
  repeat' first
    | with_reducible assumption
    | with_reducible apply keeps_ite
    | split
    | refine Keeps.crcs ?_ _

theorem State.crcErr_keeps {F : Part → Prop} {q0 s : State} [Open F .regs] (h : Keeps F q0 s) (u : Nat) : Keeps F q0 (State.crcErr s u) := by
  unfold State.crcErr
  repeat' first
    | with_reducible assumption
    | with_reducible apply keeps_ite
    | with_reducible apply State.setB_keeps
    | split

theorem State.crcResult_keeps {F : Part → Prop} {q0 s : State} [Open F .regs] (h : Keeps F q0 s) (u : Nat) : Keeps F q0 (State.crcResult s u) := by
  unfold State.crcResult
  repeat' first
    | with_reducible assumption
    | with_reducible apply keeps_ite
    | with_reducible apply State.set_keeps
    | split

theorem State.crcFold_keeps {F : Part → Prop} {q0 s : State} [Open F .regs] (h : Keeps F q0 s) (u : Nat) (bytes : List Nat) : Keeps F q0 (State.crcFold s u bytes) := by
  unfold State.crcFold
  repeat' first
    | (intro i t ht)
    | with_reducible assumption
    | with_reducible apply keeps_ite
    | (extract_lets -underBinder +onlyGivenNames xl; refine keeps_cut (F := F) (r := q0) (x := xl) (fun hx => ?_) ?_; (focus clear_value xl; rename' xl => y); rotate_left; (focus unfold xl; clear xl); rotate_left)
    | (extract_lets -underBinder +onlyGivenNames xl; clear_value xl; rename' xl => y)
    | with_reducible apply State.crcResult_keeps
    | with_reducible apply State.set_keeps
    | with_reducible apply foldl_keeps
    | split

theorem State.crcItem_keeps {F : Part → Prop} {q0 s : State} [Open F .regs] (h : Keeps F q0 s) (src : Nat) (sel : Nat) (bytes : List Nat) : Keeps F q0 (State.crcItem s src sel bytes) := by
  unfold State.crcItem
  repeat' first
    | (intro i t ht)
    | with_reducible assumption
    | with_reducible apply keeps_ite
    | with_reducible apply State.crcFold_keeps
    | with_reducible apply foldOver_keeps
    | split

theorem State.crcBegin_keeps {F : Part → Prop} {q0 s : State} [Open F .regs] [Open F .crcs] (h : Keeps F q0 s) (u : Nat) : Keeps F q0 (State.crcBegin s u) := by
  unfold State.crcBegin
  repeat' first
    | with_reducible assumption
    | with_reducible apply keeps_ite
    | (extract_lets -underBinder +onlyGivenNames xl; refine keeps_cut (F := F) (r := q0) (x := xl) (fun hx => ?_) ?_; (focus clear_value xl; rename' xl => y); rotate_left; (focus unfold xl; clear xl); rotate_left)
    | (extract_lets -underBinder +onlyGivenNames xl; clear_value xl; rename' xl => y)
    | with_reducible apply State.crcErr_keeps
    | with_reducible apply State.modCrc_keeps
    | with_reducible apply State.setB_keeps
    | split

theorem State.crcLoadInit_keeps {F : Part → Prop} {q0 s : State} [Open F .regs] (h : Keeps F q0 s) (u : Nat) : Keeps F q0 (State.crcLoadInit s u) := by
  unfold State.crcLoadInit
  repeat' first
    | with_reducible assumption
    | with_reducible apply keeps_ite
    | with_reducible apply State.crcResult_keeps
    | with_reducible apply State.set_keeps
    | split

theorem State.modAct_keeps {F : Part → Prop} {q0 s : State} [Open F .acts] (h : Keeps F q0 s) (k : Nat) (f : Activity → Activity) : Keeps F q0 (State.modAct s k f) := by
  unfold State.modAct
  repeat' first
    | with_reducible assumption
    | with_reducible apply keeps_ite
    | split
    | refine Keeps.acts ?_ _

theorem State.refreshRun_keeps {F : Part → Prop} {q0 s : State} [Open F .regs] (h : Keeps F q0 s)  : Keeps F q0 (State.refreshRun s) := by
  unfold State.refreshRun
  repeat' first
    | (intro i t ht)
    | with_reducible assumption
    | with_reducible apply keeps_ite
    | (extract_lets -underBinder +onlyGivenNames xl; refine keeps_cut (F := F) (r := q0) (x := xl) (fun hx => ?_) ?_; (focus clear_value xl; rename' xl => y); rotate_left; (focus unfold xl; clear xl); rotate_left)
    | (extract_lets -underBinder +onlyGivenNames xl; clear_value xl; rename' xl => y)
    | with_reducible apply State.set_keeps
    | with_reducible apply foldl_keeps
    | split

theorem State.takeSlot_keeps {F : Part → Prop} {q0 s : State} [Open F .regs] [Open F .acts] (h : Keeps F q0 s) (k : Nat) (a : ActKey) (act : Activity) : Keeps F q0 (State.takeSlot s k a act) := by
  unfold State.takeSlot
  repeat' first
    | with_reducible assumption
    | with_reducible apply keeps_ite
    | (extract_lets -underBinder +onlyGivenNames xl; refine keeps_cut (F := F) (r := q0) (x := xl) (fun hx => ?_) ?_; (focus clear_value xl; rename' xl => y); rotate_left; (focus unfold xl; clear xl); rotate_left)
    | (extract_lets -underBinder +onlyGivenNames xl; clear_value xl; rename' xl => y)
    | with_reducible apply State.refreshRun_keeps
    | with_reducible apply State.modAct_keeps
    | with_reducible apply State.setReg_keeps
    | split

theorem State.endActivity_keeps {F : Part → Prop} {q0 s : State} [Open F .regs] [Open F .out] [Open F .acts] [Open F .maintSeq] (h : Keeps F q0 s) (k : Nat) (result : Nat) : Keeps F q0 (State.endActivity s k result) := by
  unfold State.endActivity
  repeat' first
    | with_reducible assumption
    | with_reducible apply keeps_ite
    | (extract_lets -underBinder +onlyGivenNames xl; refine keeps_cut (F := F) (r := q0) (x := xl) (fun hx => ?_) ?_; (focus clear_value xl; rename' xl => y); rotate_left; (focus unfold xl; clear xl); rotate_left)
    | (extract_lets -underBinder +onlyGivenNames xl; clear_value xl; rename' xl => y)
    | with_reducible apply State.refreshRun_keeps
    | with_reducible apply State.modAct_keeps
    | with_reducible apply State.send_keeps
    | with_reducible apply State.setReg_keeps
    | split
    | refine Keeps.maintSeq ?_ _

theorem State.ma1Finish_keeps {F : Part → Prop} {q0 s : State} [Open F .regs] [Open F .out] [Open F .acts] [Open F .maintSeq] (h : Keeps F q0 s) (d : Nat) : Keeps F q0 (State.ma1Finish s d) := by
  unfold State.ma1Finish
  repeat' first
    | with_reducible assumption
    | with_reducible apply keeps_ite
    | (extract_lets -underBinder +onlyGivenNames xl; refine keeps_cut (F := F) (r := q0) (x := xl) (fun hx => ?_) ?_; (focus clear_value xl; rename' xl => y); rotate_left; (focus unfold xl; clear xl); rotate_left)
    | (extract_lets -underBinder +onlyGivenNames xl; clear_value xl; rename' xl => y)
    | with_reducible apply State.endActivity_keeps
    | split

theorem State.crcFinish_keeps {F : Part → Prop} {q0 s : State} [Open F .regs] [Open F .out] [Open F .crcs] [Open F .acts] [Open F .maintSeq] (h : Keeps F q0 s) (u : Nat) : Keeps F q0 (State.crcFinish s u) := by
  unfold State.crcFinish
  repeat' first
    | with_reducible assumption
    | with_reducible apply keeps_ite
    | (extract_lets -underBinder +onlyGivenNames xl; refine keeps_cut (F := F) (r := q0) (x := xl) (fun hx => ?_) ?_; (focus clear_value xl; rename' xl => y); rotate_left; (focus unfold xl; clear xl); rotate_left)
    | (extract_lets -underBinder +onlyGivenNames xl; clear_value xl; rename' xl => y)
    | with_reducible apply State.endActivity_keeps
    | with_reducible apply State.modCrc_keeps
    | with_reducible apply State.send_keeps
    | with_reducible apply State.incMod_keeps
    | with_reducible apply State.setB_keeps
    | split

theorem State.crcScanStart_keeps {F : Part → Prop} {q0 s : State} [Open F .regs] [Open F .out] [Open F .crcs] [Open F .acts] [Open F .maintSeq] (h : Keeps F q0 s) (u : Nat) : Keeps F q0 (State.crcScanStart s u) := by
  unfold State.crcScanStart
  repeat' first
    | with_reducible assumption
    | with_reducible apply keeps_ite
    | (extract_lets -underBinder +onlyGivenNames xl; refine keeps_cut (F := F) (r := q0) (x := xl) (fun hx => ?_) ?_; (focus clear_value xl; rename' xl => y); rotate_left; (focus unfold xl; clear xl); rotate_left)
    | (extract_lets -underBinder +onlyGivenNames xl; clear_value xl; rename' xl => y)
    | with_reducible apply State.crcFinish_keeps
    | with_reducible apply State.takeSlot_keeps
    | with_reducible apply State.crcLoadInit_keeps
    | with_reducible apply State.crcBegin_keeps
    | with_reducible apply State.crcErr_keeps
    | with_reducible apply State.setB_keeps
    | with_reducible apply State.set_keeps
    | split

theorem State.crcStart_keeps {F : Part → Prop} {q0 s : State} [Open F .regs] [Open F .out] [Open F .crcs] [Open F .acts] [Open F .maintSeq] (h : Keeps F q0 s) (u : Nat) (resume : Bool) : Keeps F q0 (State.crcStart s u resume) := by
  unfold State.crcStart
  repeat' first
    | with_reducible assumption
    | with_reducible apply keeps_ite
    | with_reducible apply State.crcScanStart_keeps
    | with_reducible apply State.crcLoadInit_keeps
    | with_reducible apply State.crcBegin_keeps
    | with_reducible apply State.crcResult_keeps
    | with_reducible apply State.crcErr_keeps
    | split

theorem State.crcStop_keeps {F : Part → Prop} {q0 s : State} [Open F .regs] [Open F .crcs] (h : Keeps F q0 s) (u : Nat) : Keeps F q0 (State.crcStop s u) := by
  unfold State.crcStop
  repeat' first
    | with_reducible assumption
    | with_reducible apply keeps_ite
    | (extract_lets -underBinder +onlyGivenNames xl; refine keeps_cut (F := F) (r := q0) (x := xl) (fun hx => ?_) ?_; (focus clear_value xl; rename' xl => y); rotate_left; (focus unfold xl; clear xl); rotate_left)
    | (extract_lets -underBinder +onlyGivenNames xl; clear_value xl; rename' xl => y)
    | with_reducible apply State.crcErr_keeps
    | with_reducible apply State.modCrc_keeps
    | with_reducible apply State.setB_keeps
    | split

theorem State.crcFeed_keeps {F : Part → Prop} {q0 s : State} [Open F .regs] (h : Keeps F q0 s) (u : Nat) (bytes : List Nat) : Keeps F q0 (State.crcFeed s u bytes) := by
  unfold State.crcFeed
  repeat' first
    | with_reducible assumption
    | with_reducible apply keeps_ite
    | with_reducible apply State.crcFold_keeps
    | with_reducible apply State.crcErr_keeps
    | split

theorem State.crcVal_keeps {F : Part → Prop} {q0 s : State} [Open F .regs] (h : Keeps F q0 s) (u : Nat) (w : Nat) : Keeps F q0 (State.crcVal s u w) := by
  unfold State.crcVal
  repeat' first
    | with_reducible assumption
    | with_reducible apply keeps_ite
    | with_reducible apply State.crcResult_keeps
    | with_reducible apply State.crcErr_keeps
    | with_reducible apply State.set_keeps
    | split

theorem State.crcControl_keeps {F : Part → Prop} {q0 s : State} [Open F .regs] [Open F .out] [Open F .crcs] [Open F .acts] [Open F .maintSeq] (h : Keeps F q0 s) (u : Nat) (w : Nat) : Keeps F q0 (State.crcControl s u w) := by
  unfold State.crcControl
  repeat' first
    | with_reducible assumption
    | with_reducible apply keeps_ite
    | with_reducible apply State.crcStop_keeps
    | with_reducible apply State.crcStart_keeps
    | with_reducible apply State.crcErr_keeps
    | split

theorem State.scanFail_keeps {F : Part → Prop} {q0 s : State} [Open F .regs] [Open F .crcs] (h : Keeps F q0 s) (u : Nat) : Keeps F q0 (State.scanFail s u) := by
  unfold State.scanFail
  repeat' first
    | with_reducible assumption
    | with_reducible apply keeps_ite
    | with_reducible apply State.modCrc_keeps
    | with_reducible apply State.setB_keeps
    | split

theorem State.scanReturn_keeps {F : Part → Prop} {q0 s : State} [Open F .regs] [Open F .crcs] (h : Keeps F q0 s) (u : Nat) (fault : Bool) : Keeps F q0 (State.scanReturn s u fault) := by
  unfold State.scanReturn
  repeat' first
    | with_reducible assumption
    | with_reducible apply keeps_ite
    | (extract_lets -underBinder +onlyGivenNames xl; refine keeps_cut (F := F) (r := q0) (x := xl) (fun hx => ?_) ?_; (focus clear_value xl; rename' xl => y); rotate_left; (focus unfold xl; clear xl); rotate_left)
    | (extract_lets -underBinder +onlyGivenNames xl; clear_value xl; rename' xl => y)
    | with_reducible apply State.scanFail_keeps
    | with_reducible apply State.crcFold_keeps
    | with_reducible apply State.modCrc_keeps
    | split

end Sys2Proof.Machine
end

