-- ==== Sys2Proof/Laws/KeepsGate.lean ====
section
/-! SUPPORT.  What the operations of Machine/Gate.lean keep. -/

set_option linter.unusedTactic false
set_option linter.unreachableTactic false
set_option linter.unusedVariables false
set_option linter.unnecessarySeqFocus false

namespace Sys2Proof.Machine

theorem State.setBranchAck_keeps {F : Part → Prop} {q0 s : State} [Open F .regs] (h : Keeps F q0 s) (d : Nat) (level : Bool) : Keeps F q0 (State.setBranchAck s d level) := by
  unfold State.setBranchAck
  repeat' first
    | with_reducible assumption
    | with_reducible apply keeps_ite
    | with_reducible apply State.setBit_keeps
    | split

theorem State.branchAssert_keeps {F : Part → Prop} {q0 s : State} [Open F .regs] [Open F .ports] [Open F .tgs] [Open F .drives] (h : Keeps F q0 s) (d : Nat) : Keeps F q0 (State.branchAssert s d) := by
  unfold State.branchAssert
  repeat' first
    | (intro i t ht)
    | with_reducible assumption
    | with_reducible apply keeps_ite
    | (extract_lets -underBinder +onlyGivenNames xl; refine keeps_cut (F := F) (r := q0) (x := xl) (fun hx => ?_) ?_; (focus clear_value xl; rename' xl => y); rotate_left; (focus unfold xl; clear xl); rotate_left)
    | (extract_lets -underBinder +onlyGivenNames xl; clear_value xl; rename' xl => y)
    | with_reducible apply State.setBranchAck_keeps
    | with_reducible apply State.refreshTrips_keeps
    | with_reducible apply State.outputOff_keeps
    | with_reducible apply State.modPort_keeps
    | with_reducible apply State.setBit_keeps
    | with_reducible apply State.setB_keeps
    | with_reducible apply foldOver_keeps
    | split

theorem State.guardAssert_keeps {F : Part → Prop} {q0 s : State} [Open F .regs] [Open F .ports] [Open F .tgs] [Open F .drives] (h : Keeps F q0 s) (d : Nat) : Keeps F q0 (State.guardAssert s d) := by
  unfold State.guardAssert
  repeat' first
    | with_reducible assumption
    | with_reducible apply keeps_ite
    | (extract_lets -underBinder +onlyGivenNames xl; refine keeps_cut (F := F) (r := q0) (x := xl) (fun hx => ?_) ?_; (focus clear_value xl; rename' xl => y); rotate_left; (focus unfold xl; clear xl); rotate_left)
    | (extract_lets -underBinder +onlyGivenNames xl; clear_value xl; rename' xl => y)
    | with_reducible apply State.branchAssert_keeps
    | with_reducible apply State.modDrive_keeps
    | with_reducible apply State.setBit_keeps
    | with_reducible apply State.incSat_keeps
    | with_reducible apply State.set_keeps
    | split

theorem State.guardStart_keeps {F : Part → Prop} {q0 s : State} [Open F .regs] [Open F .ports] [Open F .tgs] [Open F .drives] (h : Keeps F q0 s) (d : Nat) (halt : Bool) : Keeps F q0 (State.guardStart s d halt) := by
  unfold State.guardStart
  repeat' first
    | with_reducible assumption
    | with_reducible apply keeps_ite
    | (extract_lets -underBinder +onlyGivenNames xl; refine keeps_cut (F := F) (r := q0) (x := xl) (fun hx => ?_) ?_; (focus clear_value xl; rename' xl => y); rotate_left; (focus unfold xl; clear xl); rotate_left)
    | (extract_lets -underBinder +onlyGivenNames xl; clear_value xl; rename' xl => y)
    | with_reducible apply State.guardAssert_keeps
    | with_reducible apply State.modDrive_keeps
    | with_reducible apply State.setBit_keeps
    | with_reducible apply State.set_keeps
    | split

theorem State.guardStop_keeps {F : Part → Prop} {q0 s : State} [Open F .regs] [Open F .drives] (h : Keeps F q0 s) (d : Nat) (halt : Bool) : Keeps F q0 (State.guardStop s d halt) := by
  unfold State.guardStop
  repeat' first
    | with_reducible assumption
    | with_reducible apply keeps_ite
    | (extract_lets -underBinder +onlyGivenNames xl; refine keeps_cut (F := F) (r := q0) (x := xl) (fun hx => ?_) ?_; (focus clear_value xl; rename' xl => y); rotate_left; (focus unfold xl; clear xl); rotate_left)
    | (extract_lets -underBinder +onlyGivenNames xl; clear_value xl; rename' xl => y)
    | with_reducible apply State.modDrive_keeps
    | with_reducible apply State.setBit_keeps
    | with_reducible apply State.set_keeps
    | split

theorem State.guardJudge_keeps {F : Part → Prop} {q0 s : State} [Open F .regs] [Open F .ports] [Open F .tgs] [Open F .drives] (h : Keeps F q0 s) (d : Nat) : Keeps F q0 (State.guardJudge s d) := by
  unfold State.guardJudge
  repeat' first
    | with_reducible assumption
    | with_reducible apply keeps_ite
    | (extract_lets -underBinder +onlyGivenNames xl; refine keeps_cut (F := F) (r := q0) (x := xl) (fun hx => ?_) ?_; (focus clear_value xl; rename' xl => y); rotate_left; (focus unfold xl; clear xl); rotate_left)
    | (extract_lets -underBinder +onlyGivenNames xl; clear_value xl; rename' xl => y)
    | with_reducible apply State.guardAssert_keeps
    | split

theorem execDriveDieHalt_keeps {F : Part → Prop} {q0 s : State} [Open F .regs] [Open F .ports] [Open F .tgs] [Open F .drives] (h : Keeps F q0 s) (d : Fin 4) : KeepsOut F q0 (execDriveDieHalt d s) := by
  unfold execDriveDieHalt
  repeat' first
    | (intro i t ht)
    | with_reducible assumption
    | with_reducible apply keeps_ite
    | with_reducible apply keepsOut_next
    | (refine keepsOut_whileRuns ?_ ?_)
    | with_reducible apply keepsOut_ite
    | with_reducible apply keepsOut_fault
    | (extract_lets -underBinder +onlyGivenNames xl; refine keeps_cut (F := F) (r := q0) (x := xl) (fun hx => ?_) ?_; (focus clear_value xl; rename' xl => y); rotate_left; (focus unfold xl; clear xl); rotate_left)
    | (extract_lets -underBinder +onlyGivenNames xl; clear_value xl; rename' xl => y)
    | with_reducible apply State.guardStart_keeps
    | with_reducible apply State.modDrive_keeps
    | with_reducible apply State.setBit_keeps
    | with_reducible apply State.setB_keeps
    | with_reducible apply foldOver_keeps
    | split

theorem State.thaw_keeps {F : Part → Prop} {q0 s : State} [Open F .regs] [Open F .ports] [Open F .tgs] [Open F .drives] (h : Keeps F q0 s) (d : Nat) : Keeps F q0 (State.thaw s d) := by
  unfold State.thaw
  repeat' first
    | (intro i t ht)
    | with_reducible assumption
    | with_reducible apply keeps_ite
    | (extract_lets -underBinder +onlyGivenNames xl; refine keeps_cut (F := F) (r := q0) (x := xl) (fun hx => ?_) ?_; (focus clear_value xl; rename' xl => y); rotate_left; (focus unfold xl; clear xl); rotate_left)
    | (extract_lets -underBinder +onlyGivenNames xl; clear_value xl; rename' xl => y)
    | with_reducible apply State.refreshTrips_keeps
    | with_reducible apply State.turnOn_keeps
    | with_reducible apply State.turnOff_keeps
    | with_reducible apply State.modPort_keeps
    | with_reducible apply foldOver_keeps
    | split

theorem execDriveDieHaltRelease_keeps {F : Part → Prop} {q0 s : State} [Open F .regs] [Open F .ports] [Open F .tgs] [Open F .drives] (h : Keeps F q0 s) (d : Fin 4) : KeepsOut F q0 (execDriveDieHaltRelease d s) := by
  unfold execDriveDieHaltRelease
  repeat' first
    | (intro i t ht)
    | with_reducible assumption
    | with_reducible apply keeps_ite
    | with_reducible apply keepsOut_next
    | (refine keepsOut_whileRuns ?_ ?_)
    | with_reducible apply keepsOut_ite
    | with_reducible apply keepsOut_fault
    | (extract_lets -underBinder +onlyGivenNames xl; refine keeps_cut (F := F) (r := q0) (x := xl) (fun hx => ?_) ?_; (focus clear_value xl; rename' xl => y); rotate_left; (focus unfold xl; clear xl); rotate_left)
    | (extract_lets -underBinder +onlyGivenNames xl; clear_value xl; rename' xl => y)
    | with_reducible apply State.thaw_keeps
    | with_reducible apply State.guardStop_keeps
    | with_reducible apply State.modDrive_keeps
    | with_reducible apply State.setBit_keeps
    | with_reducible apply State.setB_keeps
    | with_reducible apply foldOver_keeps
    | split

theorem execHaltGuardExpire_keeps {F : Part → Prop} {q0 s : State} [Open F .regs] [Open F .ports] [Open F .tgs] [Open F .drives] (h : Keeps F q0 s) (d : Fin 4) : KeepsOut F q0 (execHaltGuardExpire d s) := by
  unfold execHaltGuardExpire
  repeat' first
    | with_reducible assumption
    | with_reducible apply keeps_ite
    | with_reducible apply keepsOut_next
    | (refine keepsOut_whileRuns ?_ ?_)
    | with_reducible apply keepsOut_ite
    | with_reducible apply keepsOut_fault
    | with_reducible apply State.guardAssert_keeps
    | split

theorem execStoBranchAssert_keeps {F : Part → Prop} {q0 s : State} [Open F .regs] [Open F .ports] [Open F .tgs] [Open F .drives] (h : Keeps F q0 s) (d : Fin 4) : KeepsOut F q0 (execStoBranchAssert d s) := by
  unfold execStoBranchAssert
  repeat' first
    | with_reducible assumption
    | with_reducible apply keeps_ite
    | with_reducible apply keepsOut_next
    | (refine keepsOut_whileRuns ?_ ?_)
    | with_reducible apply keepsOut_ite
    | with_reducible apply keepsOut_fault
    | with_reducible apply State.branchAssert_keeps
    | split

theorem execStoBranchRelease_keeps {F : Part → Prop} {q0 s : State} [Open F .regs] [Open F .ports] [Open F .tgs] [Open F .drives] (h : Keeps F q0 s) (d : Fin 4) : KeepsOut F q0 (execStoBranchRelease d s) := by
  unfold execStoBranchRelease
  repeat' first
    | with_reducible assumption
    | with_reducible apply keeps_ite
    | with_reducible apply keepsOut_next
    | (refine keepsOut_whileRuns ?_ ?_)
    | with_reducible apply keepsOut_ite
    | with_reducible apply keepsOut_fault
    | (extract_lets -underBinder +onlyGivenNames xl; refine keeps_cut (F := F) (r := q0) (x := xl) (fun hx => ?_) ?_; (focus clear_value xl; rename' xl => y); rotate_left; (focus unfold xl; clear xl); rotate_left)
    | (extract_lets -underBinder +onlyGivenNames xl; clear_value xl; rename' xl => y)
    | with_reducible apply State.setBranchAck_keeps
    | with_reducible apply State.refreshTrips_keeps
    | with_reducible apply State.setBit_keeps
    | split

theorem execDriveDieClockStop_keeps {F : Part → Prop} {q0 s : State} [Open F .drives] (h : Keeps F q0 s) (d : Fin 4) : KeepsOut F q0 (execDriveDieClockStop d s) := by
  unfold execDriveDieClockStop
  repeat' first
    | with_reducible assumption
    | with_reducible apply keeps_ite
    | with_reducible apply keepsOut_next
    | (refine keepsOut_whileRuns ?_ ?_)
    | with_reducible apply keepsOut_ite
    | with_reducible apply keepsOut_fault
    | with_reducible apply State.modDrive_keeps
    | split

theorem execDriveDieClockResume_keeps {F : Part → Prop} {q0 s : State} [Open F .regs] [Open F .ports] [Open F .tgs] [Open F .drives] (h : Keeps F q0 s) (d : Fin 4) : KeepsOut F q0 (execDriveDieClockResume d s) := by
  unfold execDriveDieClockResume
  repeat' first
    | with_reducible assumption
    | with_reducible apply keeps_ite
    | with_reducible apply keepsOut_next
    | (refine keepsOut_whileRuns ?_ ?_)
    | with_reducible apply keepsOut_ite
    | with_reducible apply keepsOut_fault
    | with_reducible apply State.thaw_keeps
    | with_reducible apply State.refreshTrips_keeps
    | with_reducible apply State.modDrive_keeps
    | split

theorem execPwmGroupStop_keeps {F : Part → Prop} {q0 s : State} [Open F .regs] [Open F .out] [Open F .plls] [Open F .hops] [Open F .groups] [Open F .ports] [Open F .tgs] [Open F .drives] [Open F .acts] [Open F .maintSeq] (h : Keeps F q0 s) (d : Fin 4) (k : Fin 4) : KeepsOut F q0 (execPwmGroupStop d k s) := by
  unfold execPwmGroupStop
  repeat' first
    | with_reducible assumption
    | with_reducible apply keeps_ite
    | with_reducible apply keepsOut_next
    | (refine keepsOut_whileRuns ?_ ?_)
    | with_reducible apply keepsOut_ite
    | with_reducible apply keepsOut_fault
    | with_reducible apply State.ma1Finish_keeps
    | with_reducible apply State.stopCounter_keeps
    | split

theorem execPwmCommit_keeps {F : Part → Prop} {q0 s : State} [Open F .regs] (h : Keeps F q0 s) (d : Fin 4) (k : Fin 4) : KeepsOut F q0 (execPwmCommit d k s) := by
  unfold execPwmCommit
  repeat' first
    | with_reducible assumption
    | with_reducible apply keeps_ite
    | with_reducible apply keepsOut_next
    | (refine keepsOut_whileRuns ?_ ?_)
    | with_reducible apply keepsOut_ite
    | with_reducible apply keepsOut_fault
    | with_reducible apply State.setB_keeps
    | split

theorem execCommandEdge_keeps {F : Part → Prop} {q0 s : State} [Open F .regs] [Open F .ports] [Open F .tgs] [Open F .drives] [Open F .grids] (h : Keeps F q0 s) (d : Fin 4) (j : Fin 7) : KeepsOut F q0 (execCommandEdge d j s) := by
  unfold execCommandEdge
  repeat' first
    | with_reducible assumption
    | with_reducible apply keeps_ite
    | with_reducible apply keepsOut_next
    | (refine keepsOut_whileRuns ?_ ?_)
    | with_reducible apply keepsOut_ite
    | with_reducible apply keepsOut_fault
    | with_reducible apply State.commandEdge_keeps
    | split

theorem execDeadTimeEnd_keeps {F : Part → Prop} {q0 s : State} [Open F .regs] [Open F .ports] [Open F .tgs] [Open F .drives] (h : Keeps F q0 s) (d : Fin 4) (j : Fin 7) : KeepsOut F q0 (execDeadTimeEnd d j s) := by
  unfold execDeadTimeEnd
  repeat' first
    | with_reducible assumption
    | with_reducible apply keeps_ite
    | with_reducible apply keepsOut_next
    | (refine keepsOut_whileRuns ?_ ?_)
    | with_reducible apply keepsOut_ite
    | with_reducible apply keepsOut_fault
    | with_reducible apply State.deadTimeEnd_keeps
    | split

theorem execPmodeWrite_keeps {F : Part → Prop} {q0 s : State} [Open F .regs] [Open F .ports] [Open F .tgs] [Open F .drives] (h : Keeps F q0 s) (d : Fin 4) (j : Fin 7) (m : Fin 4) : KeepsOut F q0 (execPmodeWrite d j m s) := by
  unfold execPmodeWrite
  repeat' first
    | with_reducible assumption
    | with_reducible apply keeps_ite
    | with_reducible apply keepsOut_next
    | (refine keepsOut_whileRuns ?_ ?_)
    | with_reducible apply keepsOut_ite
    | with_reducible apply keepsOut_fault
    | with_reducible apply State.pmodeApply_keeps
    | split

theorem execDlyMonUpdate_keeps {F : Part → Prop} {q0 s : State} [Open F .regs] [Open F .out] (h : Keeps F q0 s) (d : Fin 4) (mon : BitVec 16) : KeepsOut F q0 (execDlyMonUpdate d mon s) := by
  unfold execDlyMonUpdate
  repeat' first
    | with_reducible assumption
    | with_reducible apply keeps_ite
    | with_reducible apply keepsOut_next
    | (refine keepsOut_whileRuns ?_ ?_)
    | with_reducible apply keepsOut_ite
    | with_reducible apply keepsOut_fault
    | with_reducible apply State.delayMonitor_keeps
    | split

theorem State.writeFaultCode_keeps {F : Part → Prop} {q0 s : State} [Open F .regs] [Open F .ports] (h : Keeps F q0 s) (d : Nat) (j : Nat) (code : Nat) : Keeps F q0 (State.writeFaultCode s d j code) := by
  unfold State.writeFaultCode
  repeat' first
    | with_reducible assumption
    | with_reducible apply keeps_ite
    | (extract_lets -underBinder +onlyGivenNames xl; refine keeps_cut (F := F) (r := q0) (x := xl) (fun hx => ?_) ?_; (focus clear_value xl; rename' xl => y); rotate_left; (focus unfold xl; clear xl); rotate_left)
    | (extract_lets -underBinder +onlyGivenNames xl; clear_value xl; rename' xl => y)
    | with_reducible apply State.modPort_keeps
    | with_reducible apply State.set_keeps
    | split

theorem execFltFall_keeps {F : Part → Prop} {q0 s : State} [Open F .regs] [Open F .ports] (h : Keeps F q0 s) (d : Fin 4) (j : Fin 6) : KeepsOut F q0 (execFltFall d j s) := by
  unfold execFltFall
  repeat' first
    | with_reducible assumption
    | with_reducible apply keeps_ite
    | with_reducible apply keepsOut_next
    | (refine keepsOut_whileRuns ?_ ?_)
    | with_reducible apply keepsOut_ite
    | with_reducible apply keepsOut_fault
    | (extract_lets -underBinder +onlyGivenNames xl; refine keeps_cut (F := F) (r := q0) (x := xl) (fun hx => ?_) ?_; (focus clear_value xl; rename' xl => y); rotate_left; (focus unfold xl; clear xl); rotate_left)
    | (extract_lets -underBinder +onlyGivenNames xl; clear_value xl; rename' xl => y)
    | with_reducible apply State.modPort_keeps
    | with_reducible apply State.setB_keeps
    | split

theorem execFltPulseEnd_keeps {F : Part → Prop} {q0 s : State} [Open F .regs] [Open F .ports] [Open F .tgs] [Open F .drives] (h : Keeps F q0 s) (d : Fin 4) (j : Fin 6) (width : Nat) : KeepsOut F q0 (execFltPulseEnd d j width s) := by
  unfold execFltPulseEnd
  repeat' first
    | with_reducible assumption
    | with_reducible apply keeps_ite
    | with_reducible apply keepsOut_next
    | (refine keepsOut_whileRuns ?_ ?_)
    | with_reducible apply keepsOut_ite
    | with_reducible apply keepsOut_fault
    | (extract_lets -underBinder +onlyGivenNames xl; refine keeps_cut (F := F) (r := q0) (x := xl) (fun hx => ?_) ?_; (focus clear_value xl; rename' xl => y); rotate_left; (focus unfold xl; clear xl); rotate_left)
    | (extract_lets -underBinder +onlyGivenNames xl; clear_value xl; rename' xl => y)
    | with_reducible apply State.writeFaultCode_keeps
    | with_reducible apply State.refreshTrips_keeps
    | with_reducible apply State.modPort_keeps
    | with_reducible apply State.incSat_keeps
    | with_reducible apply State.setB_keeps
    | with_reducible apply State.set_keeps
    | split

theorem execFltCode5_keeps {F : Part → Prop} {q0 s : State} [Open F .regs] [Open F .ports] [Open F .tgs] [Open F .drives] (h : Keeps F q0 s) (d : Fin 4) (j : Fin 6) : KeepsOut F q0 (execFltCode5 d j s) := by
  unfold execFltCode5
  repeat' first
    | with_reducible assumption
    | with_reducible apply keeps_ite
    | with_reducible apply keepsOut_next
    | (refine keepsOut_whileRuns ?_ ?_)
    | with_reducible apply keepsOut_ite
    | with_reducible apply keepsOut_fault
    | (extract_lets -underBinder +onlyGivenNames xl; refine keeps_cut (F := F) (r := q0) (x := xl) (fun hx => ?_) ?_; (focus clear_value xl; rename' xl => y); rotate_left; (focus unfold xl; clear xl); rotate_left)
    | (extract_lets -underBinder +onlyGivenNames xl; clear_value xl; rename' xl => y)
    | with_reducible apply State.writeFaultCode_keeps
    | with_reducible apply State.refreshTrips_keeps
    | with_reducible apply State.modPort_keeps
    | with_reducible apply State.incSat_keeps
    | split

theorem execFltCode6_keeps {F : Part → Prop} {q0 s : State} [Open F .regs] [Open F .ports] [Open F .tgs] [Open F .drives] (h : Keeps F q0 s) (d : Fin 4) (j : Fin 6) : KeepsOut F q0 (execFltCode6 d j s) := by
  unfold execFltCode6
  repeat' first
    | with_reducible assumption
    | with_reducible apply keeps_ite
    | with_reducible apply keepsOut_next
    | (refine keepsOut_whileRuns ?_ ?_)
    | with_reducible apply keepsOut_ite
    | with_reducible apply keepsOut_fault
    | (extract_lets -underBinder +onlyGivenNames xl; refine keeps_cut (F := F) (r := q0) (x := xl) (fun hx => ?_) ?_; (focus clear_value xl; rename' xl => y); rotate_left; (focus unfold xl; clear xl); rotate_left)
    | (extract_lets -underBinder +onlyGivenNames xl; clear_value xl; rename' xl => y)
    | with_reducible apply State.writeFaultCode_keeps
    | with_reducible apply State.refreshTrips_keeps
    | with_reducible apply State.modPort_keeps
    | with_reducible apply State.set_keeps
    | split

theorem execFltEarly_keeps {F : Part → Prop} {q0 s : State} [Open F .regs] [Open F .ports] [Open F .tgs] [Open F .drives] (h : Keeps F q0 s) (d : Fin 4) (j : Fin 6) : KeepsOut F q0 (execFltEarly d j s) := by
  unfold execFltEarly
  repeat' first
    | with_reducible assumption
    | with_reducible apply keeps_ite
    | with_reducible apply keepsOut_next
    | (refine keepsOut_whileRuns ?_ ?_)
    | with_reducible apply keepsOut_ite
    | with_reducible apply keepsOut_fault
    | (extract_lets -underBinder +onlyGivenNames xl; refine keeps_cut (F := F) (r := q0) (x := xl) (fun hx => ?_) ?_; (focus clear_value xl; rename' xl => y); rotate_left; (focus unfold xl; clear xl); rotate_left)
    | (extract_lets -underBinder +onlyGivenNames xl; clear_value xl; rename' xl => y)
    | with_reducible apply State.refreshTrips_keeps
    | with_reducible apply State.set_keeps
    | split

theorem State.faultClear_keeps {F : Part → Prop} {q0 s : State} [Open F .regs] [Open F .ports] [Open F .tgs] [Open F .drives] (h : Keeps F q0 s) (d : Nat) (j : Nat) : Keeps F q0 (State.faultClear s d j) := by
  unfold State.faultClear
  repeat' first
    | with_reducible assumption
    | with_reducible apply keeps_ite
    | with_reducible apply State.refreshTrips_keeps
    | with_reducible apply State.set_keeps
    | split

theorem execFltClr_keeps {F : Part → Prop} {q0 s : State} [Open F .regs] [Open F .ports] [Open F .tgs] [Open F .drives] (h : Keeps F q0 s) (d : Fin 4) (j : Fin 6) : KeepsOut F q0 (execFltClr d j s) := by
  unfold execFltClr
  repeat' first
    | with_reducible assumption
    | with_reducible apply keeps_ite
    | with_reducible apply keepsOut_next
    | (refine keepsOut_whileRuns ?_ ?_)
    | with_reducible apply keepsOut_ite
    | with_reducible apply keepsOut_fault
    | with_reducible apply State.faultClear_keeps
    | split

theorem State.pcfgApply_keeps {F : Part → Prop} {q0 s : State} [Open F .regs] [Open F .ports] [Open F .tgs] [Open F .drives] (h : Keeps F q0 s) (d : Nat) (j : Nat) (w : Word) : Keeps F q0 (State.pcfgApply s d j w) := by
  unfold State.pcfgApply
  repeat' first
    | with_reducible assumption
    | with_reducible apply keeps_ite
    | (extract_lets -underBinder +onlyGivenNames xl; refine keeps_cut (F := F) (r := q0) (x := xl) (fun hx => ?_) ?_; (focus clear_value xl; rename' xl => y); rotate_left; (focus unfold xl; clear xl); rotate_left)
    | (extract_lets -underBinder +onlyGivenNames xl; clear_value xl; rename' xl => y)
    | with_reducible apply State.refreshTrips_keeps
    | with_reducible apply State.enterSafe_keeps
    | with_reducible apply State.bothOffIn_keeps
    | with_reducible apply State.modPort_keeps
    | with_reducible apply State.setB_keeps
    | with_reducible apply State.set_keeps
    | with_reducible apply State.setReg_keeps
    | split

theorem execTripGroupTrip_keeps {F : Part → Prop} {q0 s : State} [Open F .regs] [Open F .out] [Open F .ports] [Open F .tgs] [Open F .drives] [Open F .life] [Open F .keeper] [Open F .grids] (h : Keeps F q0 s) (d : Fin 4) (k : Fin 2) : KeepsOut F q0 (execTripGroupTrip d k s) := by
  unfold execTripGroupTrip
  repeat' first
    | with_reducible assumption
    | with_reducible apply keeps_ite
    | with_reducible apply keepsOut_next
    | (refine keepsOut_whileRuns ?_ ?_)
    | with_reducible apply keepsOut_ite
    | with_reducible apply keepsOut_fault
    | with_reducible apply State.tripDie_keeps
    | split

theorem execAscShortSideOn_keeps {F : Part → Prop} {q0 s : State} [Open F .regs] [Open F .ports] [Open F .tgs] [Open F .drives] (h : Keeps F q0 s) (d : Fin 4) (j : Fin 7) : KeepsOut F q0 (execAscShortSideOn d j s) := by
  unfold execAscShortSideOn
  repeat' first
    | with_reducible assumption
    | with_reducible apply keeps_ite
    | with_reducible apply keepsOut_next
    | (refine keepsOut_whileRuns ?_ ?_)
    | with_reducible apply keepsOut_ite
    | with_reducible apply keepsOut_fault
    | with_reducible apply State.placeEdge_keeps
    | with_reducible apply State.refreshTrips_keeps
    | with_reducible apply State.turnOn_keeps
    | with_reducible apply State.modPort_keeps
    | split

theorem execCuffExpire_keeps {F : Part → Prop} {q0 s : State} [Open F .regs] [Open F .ports] [Open F .tgs] [Open F .drives] (h : Keeps F q0 s) (d : Fin 4) (i : Fin 16) : KeepsOut F q0 (execCuffExpire d i s) := by
  unfold execCuffExpire
  repeat' first
    | with_reducible assumption
    | with_reducible apply keeps_ite
    | with_reducible apply keepsOut_next
    | (refine keepsOut_whileRuns ?_ ?_)
    | with_reducible apply keepsOut_ite
    | with_reducible apply keepsOut_fault
    | with_reducible apply State.refreshTrips_keeps
    | split

theorem execTripInputActive_keeps {F : Part → Prop} {q0 s : State} [Open F .regs] [Open F .ports] [Open F .tgs] [Open F .drives] (h : Keeps F q0 s) (d : Fin 4) (x : Fin 4) (level : Bool) : KeepsOut F q0 (execTripInputActive d x level s) := by
  unfold execTripInputActive
  repeat' first
    | with_reducible assumption
    | with_reducible apply keeps_ite
    | with_reducible apply keepsOut_next
    | (refine keepsOut_whileRuns ?_ ?_)
    | with_reducible apply keepsOut_ite
    | with_reducible apply keepsOut_fault
    | (extract_lets -underBinder +onlyGivenNames xl; refine keeps_cut (F := F) (r := q0) (x := xl) (fun hx => ?_) ?_; (focus clear_value xl; rename' xl => y); rotate_left; (focus unfold xl; clear xl); rotate_left)
    | (extract_lets -underBinder +onlyGivenNames xl; clear_value xl; rename' xl => y)
    | with_reducible apply State.refreshTrips_keeps
    | with_reducible apply State.modDrive_keeps
    | with_reducible apply State.setBit_keeps
    | split

theorem State.membersApply_keeps {F : Part → Prop} {q0 s : State} [Open F .regs] [Open F .ports] [Open F .tgs] [Open F .drives] (h : Keeps F q0 s) (d : Nat) (w : Word) : Keeps F q0 (State.membersApply s d w) := by
  unfold State.membersApply
  repeat' first
    | with_reducible assumption
    | with_reducible apply keeps_ite
    | (extract_lets -underBinder +onlyGivenNames xl; refine keeps_cut (F := F) (r := q0) (x := xl) (fun hx => ?_) ?_; (focus clear_value xl; rename' xl => y); rotate_left; (focus unfold xl; clear xl); rotate_left)
    | (extract_lets -underBinder +onlyGivenNames xl; clear_value xl; rename' xl => y)
    | with_reducible apply State.refreshTrips_keeps
    | with_reducible apply State.setB_keeps
    | with_reducible apply State.set_keeps
    | split

theorem execMembersWrite_keeps {F : Part → Prop} {q0 s : State} [Open F .regs] [Open F .ports] [Open F .tgs] [Open F .drives] (h : Keeps F q0 s) (d : Fin 4) (m : BitVec 7) : KeepsOut F q0 (execMembersWrite d m s) := by
  unfold execMembersWrite
  repeat' first
    | with_reducible assumption
    | with_reducible apply keeps_ite
    | with_reducible apply keepsOut_next
    | (refine keepsOut_whileRuns ?_ ?_)
    | with_reducible apply keepsOut_ite
    | with_reducible apply keepsOut_fault
    | with_reducible apply State.membersApply_keeps
    | split

theorem State.srcMaskApply_keeps {F : Part → Prop} {q0 s : State} [Open F .regs] [Open F .ports] [Open F .tgs] [Open F .drives] (h : Keeps F q0 s) (d : Nat) (k : Nat) (w : Word) : Keeps F q0 (State.srcMaskApply s d k w) := by
  unfold State.srcMaskApply
  repeat' first
    | with_reducible assumption
    | with_reducible apply keeps_ite
    | (extract_lets -underBinder +onlyGivenNames xl; refine keeps_cut (F := F) (r := q0) (x := xl) (fun hx => ?_) ?_; (focus clear_value xl; rename' xl => y); rotate_left; (focus unfold xl; clear xl); rotate_left)
    | (extract_lets -underBinder +onlyGivenNames xl; clear_value xl; rename' xl => y)
    | with_reducible apply State.refreshTrips_keeps
    | with_reducible apply State.refreshCuffs_keeps
    | with_reducible apply State.setB_keeps
    | with_reducible apply State.setReg_keeps
    | split

theorem execSrcMaskWrite_keeps {F : Part → Prop} {q0 s : State} [Open F .regs] [Open F .ports] [Open F .tgs] [Open F .drives] (h : Keeps F q0 s) (d : Fin 4) (k : Fin 2) (w : Word) : KeepsOut F q0 (execSrcMaskWrite d k w s) := by
  unfold execSrcMaskWrite
  repeat' first
    | with_reducible assumption
    | with_reducible apply keeps_ite
    | with_reducible apply keepsOut_next
    | (refine keepsOut_whileRuns ?_ ?_)
    | with_reducible apply keepsOut_ite
    | with_reducible apply keepsOut_fault
    | with_reducible apply State.srcMaskApply_keeps
    | split

theorem State.tgModeApply_keeps {F : Part → Prop} {q0 s : State} [Open F .regs] (h : Keeps F q0 s) (d : Nat) (k : Nat) (m : Nat) : Keeps F q0 (State.tgModeApply s d k m) := by
  unfold State.tgModeApply
  repeat' first
    | with_reducible assumption
    | with_reducible apply keeps_ite
    | (extract_lets -underBinder +onlyGivenNames xl; refine keeps_cut (F := F) (r := q0) (x := xl) (fun hx => ?_) ?_; (focus clear_value xl; rename' xl => y); rotate_left; (focus unfold xl; clear xl); rotate_left)
    | (extract_lets -underBinder +onlyGivenNames xl; clear_value xl; rename' xl => y)
    | with_reducible apply State.setB_keeps
    | with_reducible apply State.set_keeps
    | split

theorem execTgModeWrite_keeps {F : Part → Prop} {q0 s : State} [Open F .regs] (h : Keeps F q0 s) (d : Fin 4) (k : Fin 2) (m : Fin 4) : KeepsOut F q0 (execTgModeWrite d k m s) := by
  unfold execTgModeWrite
  repeat' first
    | with_reducible assumption
    | with_reducible apply keeps_ite
    | with_reducible apply keepsOut_next
    | (refine keepsOut_whileRuns ?_ ?_)
    | with_reducible apply keepsOut_ite
    | with_reducible apply keepsOut_fault
    | with_reducible apply State.tgModeApply_keeps
    | split

theorem execEnPinRise_keeps {F : Part → Prop} {q0 s : State} [Open F .regs] [Open F .ports] [Open F .drives] [Open F .grids] (h : Keeps F q0 s) (d : Fin 4) (x : Fin 4) (lowTicks : Nat) : KeepsOut F q0 (execEnPinRise d x lowTicks s) := by
  unfold execEnPinRise
  repeat' first
    | (intro i t ht)
    | with_reducible assumption
    | with_reducible apply keeps_ite
    | with_reducible apply keepsOut_next
    | (refine keepsOut_whileRuns ?_ ?_)
    | with_reducible apply keepsOut_ite
    | with_reducible apply keepsOut_fault
    | (extract_lets -underBinder +onlyGivenNames xl; refine keeps_cut (F := F) (r := q0) (x := xl) (fun hx => ?_) ?_; (focus clear_value xl; rename' xl => y); rotate_left; (focus unfold xl; clear xl); rotate_left)
    | (extract_lets -underBinder +onlyGivenNames xl; clear_value xl; rename' xl => y)
    | with_reducible apply State.clearAttempt_keeps
    | with_reducible apply State.setBit_keeps
    | with_reducible apply foldOver_keeps
    | split

theorem State.chopperFollow_keeps {F : Part → Prop} {q0 s : State} [Open F .regs] [Open F .ports] [Open F .tgs] [Open F .drives] (h : Keeps F q0 s) (d : Nat) (j : Nat) : Keeps F q0 (State.chopperFollow s d j) := by
  unfold State.chopperFollow
  repeat' first
    | with_reducible assumption
    | with_reducible apply keeps_ite
    | (extract_lets -underBinder +onlyGivenNames xl; refine keeps_cut (F := F) (r := q0) (x := xl) (fun hx => ?_) ?_; (focus clear_value xl; rename' xl => y); rotate_left; (focus unfold xl; clear xl); rotate_left)
    | (extract_lets -underBinder +onlyGivenNames xl; clear_value xl; rename' xl => y)
    | with_reducible apply State.refreshTrips_keeps
    | with_reducible apply State.turnOn_keeps
    | with_reducible apply State.turnOff_keeps
    | split

theorem execChopperSwitch_keeps {F : Part → Prop} {q0 s : State} [Open F .regs] [Open F .ports] [Open F .tgs] [Open F .drives] (h : Keeps F q0 s) (d : Fin 4) (j : Fin 6) : KeepsOut F q0 (execChopperSwitch d j s) := by
  unfold execChopperSwitch
  repeat' first
    | with_reducible assumption
    | with_reducible apply keeps_ite
    | with_reducible apply keepsOut_next
    | (refine keepsOut_whileRuns ?_ ?_)
    | with_reducible apply keepsOut_ite
    | with_reducible apply keepsOut_fault
    | with_reducible apply State.chopperFollow_keeps
    | split

theorem execChopMinTimeEnd_keeps {F : Part → Prop} {q0 s : State} [Open F .regs] [Open F .ports] [Open F .tgs] [Open F .drives] (h : Keeps F q0 s) (d : Fin 4) (j : Fin 6) : KeepsOut F q0 (execChopMinTimeEnd d j s) := by
  unfold execChopMinTimeEnd
  repeat' first
    | with_reducible assumption
    | with_reducible apply keeps_ite
    | with_reducible apply keepsOut_next
    | (refine keepsOut_whileRuns ?_ ?_)
    | with_reducible apply keepsOut_ite
    | with_reducible apply keepsOut_fault
    | with_reducible apply State.chopperFollow_keeps
    | split

theorem execApBootUv_keeps {F : Part → Prop} {q0 s : State} [Open F .regs] [Open F .ports] [Open F .tgs] [Open F .drives] (h : Keeps F q0 s) (d : Fin 4) : KeepsOut F q0 (execApBootUv d s) := by
  unfold execApBootUv
  repeat' first
    | with_reducible assumption
    | with_reducible apply keeps_ite
    | with_reducible apply keepsOut_next
    | (refine keepsOut_whileRuns ?_ ?_)
    | with_reducible apply keepsOut_ite
    | with_reducible apply keepsOut_fault
    | (extract_lets -underBinder +onlyGivenNames xl; refine keeps_cut (F := F) (r := q0) (x := xl) (fun hx => ?_) ?_; (focus clear_value xl; rename' xl => y); rotate_left; (focus unfold xl; clear xl); rotate_left)
    | (extract_lets -underBinder +onlyGivenNames xl; clear_value xl; rename' xl => y)
    | with_reducible apply State.refreshTrips_keeps
    | with_reducible apply State.turnOff_keeps
    | with_reducible apply State.modPort_keeps
    | with_reducible apply State.incSat_keeps
    | with_reducible apply State.setB_keeps
    | with_reducible apply State.setReg_keeps
    | split

theorem execBootOkRise_keeps {F : Part → Prop} {q0 s : State} [Open F .regs] (h : Keeps F q0 s) (d : Fin 4) : KeepsOut F q0 (execBootOkRise d s) := by
  unfold execBootOkRise
  repeat' first
    | with_reducible assumption
    | with_reducible apply keeps_ite
    | with_reducible apply keepsOut_next
    | (refine keepsOut_whileRuns ?_ ?_)
    | with_reducible apply keepsOut_ite
    | with_reducible apply keepsOut_fault
    | with_reducible apply State.setB_keeps
    | split

theorem State.bootUvClear_keeps {F : Part → Prop} {q0 s : State} [Open F .regs] [Open F .ports] [Open F .tgs] [Open F .drives] (h : Keeps F q0 s) (d : Nat) : Keeps F q0 (State.bootUvClear s d) := by
  unfold State.bootUvClear
  repeat' first
    | with_reducible assumption
    | with_reducible apply keeps_ite
    | (extract_lets -underBinder +onlyGivenNames xl; refine keeps_cut (F := F) (r := q0) (x := xl) (fun hx => ?_) ?_; (focus clear_value xl; rename' xl => y); rotate_left; (focus unfold xl; clear xl); rotate_left)
    | (extract_lets -underBinder +onlyGivenNames xl; clear_value xl; rename' xl => y)
    | with_reducible apply State.refreshTrips_keeps
    | with_reducible apply State.setB_keeps
    | with_reducible apply State.setReg_keeps
    | split

theorem execApBootUvClear_keeps {F : Part → Prop} {q0 s : State} [Open F .regs] [Open F .ports] [Open F .tgs] [Open F .drives] (h : Keeps F q0 s) (d : Fin 4) : KeepsOut F q0 (execApBootUvClear d s) := by
  unfold execApBootUvClear
  repeat' first
    | with_reducible assumption
    | with_reducible apply keeps_ite
    | with_reducible apply keepsOut_next
    | (refine keepsOut_whileRuns ?_ ?_)
    | with_reducible apply keepsOut_ite
    | with_reducible apply keepsOut_fault
    | with_reducible apply State.bootUvClear_keeps
    | split

theorem execApRefreshStart_keeps {F : Part → Prop} {q0 s : State} [Open F .regs] [Open F .ports] [Open F .tgs] [Open F .drives] (h : Keeps F q0 s) (d : Fin 4) : KeepsOut F q0 (execApRefreshStart d s) := by
  unfold execApRefreshStart
  repeat' first
    | with_reducible assumption
    | with_reducible apply keeps_ite
    | with_reducible apply keepsOut_next
    | (refine keepsOut_whileRuns ?_ ?_)
    | with_reducible apply keepsOut_ite
    | with_reducible apply keepsOut_fault
    | (extract_lets -underBinder +onlyGivenNames xl; refine keeps_cut (F := F) (r := q0) (x := xl) (fun hx => ?_) ?_; (focus clear_value xl; rename' xl => y); rotate_left; (focus unfold xl; clear xl); rotate_left)
    | (extract_lets -underBinder +onlyGivenNames xl; clear_value xl; rename' xl => y)
    | with_reducible apply State.refreshTrips_keeps
    | with_reducible apply State.turnOff_keeps
    | with_reducible apply State.modPort_keeps
    | with_reducible apply State.setB_keeps
    | split

theorem execApRefreshLowOn_keeps {F : Part → Prop} {q0 s : State} [Open F .regs] [Open F .ports] [Open F .tgs] [Open F .drives] (h : Keeps F q0 s) (d : Fin 4) : KeepsOut F q0 (execApRefreshLowOn d s) := by
  unfold execApRefreshLowOn
  repeat' first
    | with_reducible assumption
    | with_reducible apply keeps_ite
    | with_reducible apply keepsOut_next
    | (refine keepsOut_whileRuns ?_ ?_)
    | with_reducible apply keepsOut_ite
    | with_reducible apply keepsOut_fault
    | (extract_lets -underBinder +onlyGivenNames xl; refine keeps_cut (F := F) (r := q0) (x := xl) (fun hx => ?_) ?_; (focus clear_value xl; rename' xl => y); rotate_left; (focus unfold xl; clear xl); rotate_left)
    | (extract_lets -underBinder +onlyGivenNames xl; clear_value xl; rename' xl => y)
    | with_reducible apply State.placeEdge_keeps
    | with_reducible apply State.refreshTrips_keeps
    | with_reducible apply State.turnOn_keeps
    | with_reducible apply State.modPort_keeps
    | split

theorem execApRefreshEnd_keeps {F : Part → Prop} {q0 s : State} [Open F .regs] [Open F .ports] [Open F .tgs] [Open F .drives] (h : Keeps F q0 s) (d : Fin 4) : KeepsOut F q0 (execApRefreshEnd d s) := by
  unfold execApRefreshEnd
  repeat' first
    | with_reducible assumption
    | with_reducible apply keeps_ite
    | with_reducible apply keepsOut_next
    | (refine keepsOut_whileRuns ?_ ?_)
    | with_reducible apply keepsOut_ite
    | with_reducible apply keepsOut_fault
    | (extract_lets -underBinder +onlyGivenNames xl; refine keeps_cut (F := F) (r := q0) (x := xl) (fun hx => ?_) ?_; (focus clear_value xl; rename' xl => y); rotate_left; (focus unfold xl; clear xl); rotate_left)
    | (extract_lets -underBinder +onlyGivenNames xl; clear_value xl; rename' xl => y)
    | with_reducible apply State.placeEdge_keeps
    | with_reducible apply State.refreshTrips_keeps
    | with_reducible apply State.turnOn_keeps
    | with_reducible apply State.turnOff_keeps
    | with_reducible apply State.modPort_keeps
    | with_reducible apply State.setB_keeps
    | split

end Sys2Proof.Machine
end

