-- ==== Sys2Proof/Laws/KeepsSensing.lean ====
section
/-! SUPPORT.  What the operations of Machine/Sensing.lean keep. -/

set_option linter.unusedTactic false
set_option linter.unreachableTactic false
set_option linter.unusedVariables false
set_option linter.unnecessarySeqFocus false

namespace Sys2Proof.Machine

theorem State.setCleData_keeps {F : Part → Prop} {q0 s : State} [Open F .mem] (h : Keeps F q0 s) (d : Nat) (c : Nat) (w : Nat) (x : Word) : Keeps F q0 (State.setCleData s d c w x) := by
  unfold State.setCleData
  repeat' first
    | with_reducible assumption
    | with_reducible apply keeps_ite
    | with_reducible apply State.setMemWord_keeps
    | split

theorem State.publishCmps_keeps {F : Part → Prop} {q0 s : State} [Open F .mem] (h : Keeps F q0 s) (d : Nat) : Keeps F q0 (State.publishCmps s d) := by
  unfold State.publishCmps
  repeat' first
    | (intro i t ht)
    | with_reducible assumption
    | with_reducible apply keeps_ite
    | (extract_lets -underBinder +onlyGivenNames xl; refine keeps_cut (F := F) (r := q0) (x := xl) (fun hx => ?_) ?_; (focus clear_value xl; rename' xl => y); rotate_left; (focus unfold xl; clear xl); rotate_left)
    | (extract_lets -underBinder +onlyGivenNames xl; clear_value xl; rename' xl => y)
    | with_reducible apply State.setCleData_keeps
    | with_reducible apply foldl_keeps
    | split

theorem State.clearValid_keeps {F : Part → Prop} {q0 s : State} [Open F .regs] [Open F .mem] (h : Keeps F q0 s) (d : Nat) (k : Nat) (inj : Bool) (e : Nat) : Keeps F q0 (State.clearValid s d k inj e) := by
  unfold State.clearValid
  repeat' first
    | with_reducible assumption
    | with_reducible apply keeps_ite
    | (extract_lets -underBinder +onlyGivenNames xl; refine keeps_cut (F := F) (r := q0) (x := xl) (fun hx => ?_) ?_; (focus clear_value xl; rename' xl => y); rotate_left; (focus unfold xl; clear xl); rotate_left)
    | (extract_lets -underBinder +onlyGivenNames xl; clear_value xl; rename' xl => y)
    | with_reducible apply State.setCleData_keeps
    | with_reducible apply State.setReg_keeps
    | split

theorem State.sendSamples_keeps {F : Part → Prop} {q0 s : State} [Open F .out] (h : Keeps F q0 s) (d : Nat) (k : Nat) (a : Nat) (b : Nat) : Keeps F q0 (State.sendSamples s d k a b) := by
  unfold State.sendSamples
  repeat' first
    | with_reducible assumption
    | with_reducible apply keeps_ite
    | with_reducible apply State.send_keeps
    | split

theorem State.startRegular_keeps {F : Part → Prop} {q0 s : State} [Open F .regs] [Open F .mem] [Open F .adcs] (h : Keeps F q0 s) (d : Nat) (k : Nat) : Keeps F q0 (State.startRegular s d k) := by
  unfold State.startRegular
  repeat' first
    | (intro i t ht)
    | with_reducible assumption
    | with_reducible apply keeps_ite
    | (extract_lets -underBinder +onlyGivenNames xl; refine keeps_cut (F := F) (r := q0) (x := xl) (fun hx => ?_) ?_; (focus clear_value xl; rename' xl => y); rotate_left; (focus unfold xl; clear xl); rotate_left)
    | (extract_lets -underBinder +onlyGivenNames xl; clear_value xl; rename' xl => y)
    | with_reducible apply State.clearValid_keeps
    | with_reducible apply State.modAdc_keeps
    | with_reducible apply State.set_keeps
    | with_reducible apply foldOver_keeps
    | split

theorem State.restoreValid_keeps {F : Part → Prop} {q0 s : State} [Open F .regs] [Open F .mem] [Open F .adcs] (h : Keeps F q0 s) (d : Nat) (k : Nat) : Keeps F q0 (State.restoreValid s d k) := by
  unfold State.restoreValid
  repeat' first
    | (intro i t ht)
    | with_reducible assumption
    | with_reducible apply keeps_ite
    | (extract_lets -underBinder +onlyGivenNames xl; refine keeps_cut (F := F) (r := q0) (x := xl) (fun hx => ?_) ?_; (focus clear_value xl; rename' xl => y); rotate_left; (focus unfold xl; clear xl); rotate_left)
    | (extract_lets -underBinder +onlyGivenNames xl; clear_value xl; rename' xl => y)
    | with_reducible apply State.setCleData_keeps
    | with_reducible apply State.modAdc_keeps
    | with_reducible apply State.setReg_keeps
    | with_reducible apply foldl_keeps
    | split

theorem State.triggerLost_keeps {F : Part → Prop} {q0 s : State} [Open F .regs] (h : Keeps F q0 s) (d : Nat) (k : Nat) (f : RF) : Keeps F q0 (State.triggerLost s d k f) := by
  unfold State.triggerLost
  repeat' first
    | with_reducible assumption
    | with_reducible apply keeps_ite
    | with_reducible apply State.incSat_keeps
    | with_reducible apply State.setB_keeps
    | split

theorem State.regTrigger_keeps {F : Part → Prop} {q0 s : State} [Open F .regs] [Open F .mem] [Open F .out] [Open F .adcs] (h : Keeps F q0 s) (d : Nat) (k : Nat) : Keeps F q0 (State.regTrigger s d k) := by
  unfold State.regTrigger
  repeat' first
    | with_reducible assumption
    | with_reducible apply keeps_ite
    | (extract_lets -underBinder +onlyGivenNames xl; refine keeps_cut (F := F) (r := q0) (x := xl) (fun hx => ?_) ?_; (focus clear_value xl; rename' xl => y); rotate_left; (focus unfold xl; clear xl); rotate_left)
    | (extract_lets -underBinder +onlyGivenNames xl; clear_value xl; rename' xl => y)
    | with_reducible apply State.triggerLost_keeps
    | with_reducible apply State.startRegular_keeps
    | with_reducible apply State.sendSamples_keeps
    | with_reducible apply State.modAdc_keeps
    | with_reducible apply State.setBit_keeps
    | with_reducible apply State.setB_keeps
    | split

theorem State.injTrigger_keeps {F : Part → Prop} {q0 s : State} [Open F .regs] [Open F .mem] [Open F .adcs] (h : Keeps F q0 s) (d : Nat) (k : Nat) : Keeps F q0 (State.injTrigger s d k) := by
  unfold State.injTrigger
  repeat' first
    | (intro i t ht)
    | with_reducible assumption
    | with_reducible apply keeps_ite
    | (extract_lets -underBinder +onlyGivenNames xl; refine keeps_cut (F := F) (r := q0) (x := xl) (fun hx => ?_) ?_; (focus clear_value xl; rename' xl => y); rotate_left; (focus unfold xl; clear xl); rotate_left)
    | (extract_lets -underBinder +onlyGivenNames xl; clear_value xl; rename' xl => y)
    | with_reducible apply State.triggerLost_keeps
    | with_reducible apply State.restoreValid_keeps
    | with_reducible apply State.clearValid_keeps
    | with_reducible apply State.modAdc_keeps
    | with_reducible apply State.setBit_keeps
    | with_reducible apply State.setB_keeps
    | with_reducible apply foldOver_keeps
    | split

theorem State.forward_keeps {F : Part → Prop} {q0 s : State} [Open F .regs] [Open F .out] [Open F .adcs] (h : Keeps F q0 s) (d : Nat) (k : Nat) (w : Word) (isLast : Bool) : Keeps F q0 (State.forward s d k w isLast) := by
  unfold State.forward
  repeat' first
    | with_reducible assumption
    | with_reducible apply keeps_ite
    | (extract_lets -underBinder +onlyGivenNames xl; refine keeps_cut (F := F) (r := q0) (x := xl) (fun hx => ?_) ?_; (focus clear_value xl; rename' xl => y); rotate_left; (focus unfold xl; clear xl); rotate_left)
    | (extract_lets -underBinder +onlyGivenNames xl; clear_value xl; rename' xl => y)
    | with_reducible apply State.sendSamples_keeps
    | with_reducible apply State.crcItem_keeps
    | with_reducible apply State.modAdc_keeps
    | split

theorem State.writeResult_keeps {F : Part → Prop} {q0 s : State} [Open F .regs] [Open F .mem] (h : Keeps F q0 s) (d : Nat) (k : Nat) (inj : Bool) (e : Nat) (w : Word) : Keeps F q0 (State.writeResult s d k inj e w) := by
  unfold State.writeResult
  repeat' first
    | (intro i t ht)
    | with_reducible assumption
    | with_reducible apply keeps_ite
    | (extract_lets -underBinder +onlyGivenNames xl; refine keeps_cut (F := F) (r := q0) (x := xl) (fun hx => ?_) ?_; (focus clear_value xl; rename' xl => y); rotate_left; (focus unfold xl; clear xl); rotate_left)
    | (extract_lets -underBinder +onlyGivenNames xl; clear_value xl; rename' xl => y)
    | with_reducible apply State.setCleData_keeps
    | with_reducible apply foldOver_keeps
    | with_reducible apply State.setReg_keeps
    | split

theorem State.gatherDec_keeps {F : Part → Prop} {q0 s : State} [Open F .adcs] (h : Keeps F q0 s) (d : Nat) (k : Nat) (e : Nat) (w : Word) (ent : Nat) : Keeps F q0 (State.gatherDec s d k e w ent) := by
  unfold State.gatherDec
  repeat' first
    | with_reducible assumption
    | with_reducible apply keeps_ite
    | with_reducible apply State.modAdc_keeps
    | split

theorem State.stopSequence_keeps {F : Part → Prop} {q0 s : State} [Open F .regs] [Open F .mem] [Open F .adcs] (h : Keeps F q0 s) (d : Nat) (k : Nat) : Keeps F q0 (State.stopSequence s d k) := by
  unfold State.stopSequence
  repeat' first
    | with_reducible assumption
    | with_reducible apply keeps_ite
    | (extract_lets -underBinder +onlyGivenNames xl; refine keeps_cut (F := F) (r := q0) (x := xl) (fun hx => ?_) ?_; (focus clear_value xl; rename' xl => y); rotate_left; (focus unfold xl; clear xl); rotate_left)
    | (extract_lets -underBinder +onlyGivenNames xl; clear_value xl; rename' xl => y)
    | with_reducible apply State.startRegular_keeps
    | with_reducible apply State.modAdc_keeps
    | with_reducible apply State.setB_keeps
    | split

theorem State.stopSequences_keeps {F : Part → Prop} {q0 s : State} [Open F .regs] [Open F .adcs] (h : Keeps F q0 s) (d : Nat) (k : Nat) : Keeps F q0 (State.stopSequences s d k) := by
  unfold State.stopSequences
  repeat' first
    | with_reducible assumption
    | with_reducible apply keeps_ite
    | (extract_lets -underBinder +onlyGivenNames xl; refine keeps_cut (F := F) (r := q0) (x := xl) (fun hx => ?_) ?_; (focus clear_value xl; rename' xl => y); rotate_left; (focus unfold xl; clear xl); rotate_left)
    | (extract_lets -underBinder +onlyGivenNames xl; clear_value xl; rename' xl => y)
    | with_reducible apply State.modAdc_keeps
    | with_reducible apply State.setB_keeps
    | split

theorem State.afterInjected_keeps {F : Part → Prop} {q0 s : State} [Open F .regs] [Open F .mem] [Open F .adcs] (h : Keeps F q0 s) (d : Nat) (k : Nat) (i : Nat) : Keeps F q0 (State.afterInjected s d k i) := by
  unfold State.afterInjected
  repeat' first
    | with_reducible assumption
    | with_reducible apply keeps_ite
    | (extract_lets -underBinder +onlyGivenNames xl; refine keeps_cut (F := F) (r := q0) (x := xl) (fun hx => ?_) ?_; (focus clear_value xl; rename' xl => y); rotate_left; (focus unfold xl; clear xl); rotate_left)
    | (extract_lets -underBinder +onlyGivenNames xl; clear_value xl; rename' xl => y)
    | with_reducible apply State.stopSequence_keeps
    | with_reducible apply State.startRegular_keeps
    | with_reducible apply State.modAdc_keeps
    | with_reducible apply State.setB_keeps
    | split

theorem State.afterRegular_keeps {F : Part → Prop} {q0 s : State} [Open F .regs] [Open F .mem] [Open F .adcs] (h : Keeps F q0 s) (d : Nat) (k : Nat) (e : Nat) : Keeps F q0 (State.afterRegular s d k e) := by
  unfold State.afterRegular
  repeat' first
    | with_reducible assumption
    | with_reducible apply keeps_ite
    | (extract_lets -underBinder +onlyGivenNames xl; refine keeps_cut (F := F) (r := q0) (x := xl) (fun hx => ?_) ?_; (focus clear_value xl; rename' xl => y); rotate_left; (focus unfold xl; clear xl); rotate_left)
    | (extract_lets -underBinder +onlyGivenNames xl; clear_value xl; rename' xl => y)
    | with_reducible apply State.stopSequence_keeps
    | with_reducible apply State.modAdc_keeps
    | with_reducible apply State.setB_keeps
    | with_reducible apply State.set_keeps
    | split

theorem State.conversionComplete_keeps {F : Part → Prop} {q0 s : State} [Open F .regs] [Open F .mem] [Open F .out] [Open F .adcs] (h : Keeps F q0 s) (d : Nat) (k : Nat) (code : Int) (ovr : Bool) : Keeps F q0 (State.conversionComplete s d k code ovr) := by
  unfold State.conversionComplete
  repeat' first
    | with_reducible assumption
    | with_reducible apply keeps_ite
    | (extract_lets -underBinder +onlyGivenNames xl; refine keeps_cut (F := F) (r := q0) (x := xl) (fun hx => ?_) ?_; (focus clear_value xl; rename' xl => y); rotate_left; (focus unfold xl; clear xl); rotate_left)
    | (extract_lets -underBinder +onlyGivenNames xl; clear_value xl; rename' xl => y)
    | with_reducible apply State.afterRegular_keeps
    | with_reducible apply State.afterInjected_keeps
    | with_reducible apply State.gatherDec_keeps
    | with_reducible apply State.writeResult_keeps
    | with_reducible apply State.forward_keeps
    | split

theorem State.retireCore_keeps {F : Part → Prop} {q0 s : State} [Open F .regs] [Open F .mem] [Open F .adcs] [Open F .life] [Open F .keeper] (h : Keeps F q0 s) (d : Nat) (k : Nat) : Keeps F q0 (State.retireCore s d k) := by
  unfold State.retireCore
  repeat' first
    | (intro i t ht)
    | with_reducible assumption
    | with_reducible apply keeps_ite
    | (extract_lets -underBinder +onlyGivenNames xl; refine keeps_cut (F := F) (r := q0) (x := xl) (fun hx => ?_) ?_; (focus clear_value xl; rename' xl => y); rotate_left; (focus unfold xl; clear xl); rotate_left)
    | (extract_lets -underBinder +onlyGivenNames xl; clear_value xl; rename' xl => y)
    | with_reducible apply State.stopSequences_keeps
    | with_reducible apply State.clearValid_keeps
    | with_reducible apply State.recordRetire_keeps
    | with_reducible apply State.setB_keeps
    | with_reducible apply foldOver_keeps
    | split

theorem State.acfgApply_keeps {F : Part → Prop} {q0 s : State} [Open F .regs] [Open F .adcs] (h : Keeps F q0 s) (d : Nat) (k : Nat) (w : Word) : Keeps F q0 (State.acfgApply s d k w) := by
  unfold State.acfgApply
  repeat' first
    | with_reducible assumption
    | with_reducible apply keeps_ite
    | (extract_lets -underBinder +onlyGivenNames xl; refine keeps_cut (F := F) (r := q0) (x := xl) (fun hx => ?_) ?_; (focus clear_value xl; rename' xl => y); rotate_left; (focus unfold xl; clear xl); rotate_left)
    | (extract_lets -underBinder +onlyGivenNames xl; clear_value xl; rename' xl => y)
    | with_reducible apply State.modAdc_keeps
    | with_reducible apply State.setB_keeps
    | with_reducible apply State.setReg_keeps
    | split

theorem State.sourceTick_keeps {F : Part → Prop} {q0 s : State} [Open F .regs] [Open F .mem] [Open F .out] [Open F .adcs] (h : Keeps F q0 s) (d : Nat) (k : Nat) (src : Nat) : Keeps F q0 (State.sourceTick s d k src) := by
  unfold State.sourceTick
  repeat' first
    | with_reducible assumption
    | with_reducible apply keeps_ite
    | (extract_lets -underBinder +onlyGivenNames xl; refine keeps_cut (F := F) (r := q0) (x := xl) (fun hx => ?_) ?_; (focus clear_value xl; rename' xl => y); rotate_left; (focus unfold xl; clear xl); rotate_left)
    | (extract_lets -underBinder +onlyGivenNames xl; clear_value xl; rename' xl => y)
    | with_reducible apply State.injTrigger_keeps
    | with_reducible apply State.regTrigger_keeps
    | split

theorem State.sourceTicks_keeps {F : Part → Prop} {q0 s : State} [Open F .regs] [Open F .mem] [Open F .out] [Open F .adcs] (h : Keeps F q0 s) (d : Nat) (src : Nat) : Keeps F q0 (State.sourceTicks s d src) := by
  unfold State.sourceTicks
  repeat' first
    | (intro i t ht)
    | with_reducible assumption
    | with_reducible apply keeps_ite
    | with_reducible apply State.sourceTick_keeps
    | with_reducible apply foldOver_keeps
    | split

theorem execAdcRegularTrigger_keeps {F : Part → Prop} {q0 s : State} [Open F .regs] [Open F .mem] [Open F .out] [Open F .adcs] (h : Keeps F q0 s) (d : Fin 4) (k : Fin 4) (src : Fin 16) : KeepsOut F q0 (execAdcRegularTrigger d k src s) := by
  unfold execAdcRegularTrigger
  repeat' first
    | with_reducible assumption
    | with_reducible apply keeps_ite
    | with_reducible apply keepsOut_next
    | (refine keepsOut_whileRuns ?_ ?_)
    | with_reducible apply keepsOut_ite
    | with_reducible apply keepsOut_fault
    | (extract_lets -underBinder +onlyGivenNames xl; refine keeps_cut (F := F) (r := q0) (x := xl) (fun hx => ?_) ?_; (focus clear_value xl; rename' xl => y); rotate_left; (focus unfold xl; clear xl); rotate_left)
    | (extract_lets -underBinder +onlyGivenNames xl; clear_value xl; rename' xl => y)
    | with_reducible apply State.regTrigger_keeps
    | with_reducible apply State.modAdc_keeps
    | split

theorem execAdcInjectedTrigger_keeps {F : Part → Prop} {q0 s : State} [Open F .regs] [Open F .mem] [Open F .adcs] (h : Keeps F q0 s) (d : Fin 4) (k : Fin 4) (src : Fin 16) : KeepsOut F q0 (execAdcInjectedTrigger d k src s) := by
  unfold execAdcInjectedTrigger
  repeat' first
    | with_reducible assumption
    | with_reducible apply keeps_ite
    | with_reducible apply keepsOut_next
    | (refine keepsOut_whileRuns ?_ ?_)
    | with_reducible apply keepsOut_ite
    | with_reducible apply keepsOut_fault
    | (extract_lets -underBinder +onlyGivenNames xl; refine keeps_cut (F := F) (r := q0) (x := xl) (fun hx => ?_) ?_; (focus clear_value xl; rename' xl => y); rotate_left; (focus unfold xl; clear xl); rotate_left)
    | (extract_lets -underBinder +onlyGivenNames xl; clear_value xl; rename' xl => y)
    | with_reducible apply State.injTrigger_keeps
    | with_reducible apply State.modAdc_keeps
    | split

theorem execSwReg_keeps {F : Part → Prop} {q0 s : State} [Open F .regs] [Open F .mem] [Open F .out] [Open F .adcs] (h : Keeps F q0 s) (d : Fin 4) (k : Fin 4) : KeepsOut F q0 (execSwReg d k s) := by
  unfold execSwReg
  repeat' first
    | with_reducible assumption
    | with_reducible apply keeps_ite
    | with_reducible apply keepsOut_next
    | (refine keepsOut_whileRuns ?_ ?_)
    | with_reducible apply keepsOut_ite
    | with_reducible apply keepsOut_fault
    | with_reducible apply State.regTrigger_keeps
    | split

theorem execSwInj_keeps {F : Part → Prop} {q0 s : State} [Open F .regs] [Open F .mem] [Open F .adcs] (h : Keeps F q0 s) (d : Fin 4) (k : Fin 4) : KeepsOut F q0 (execSwInj d k s) := by
  unfold execSwInj
  repeat' first
    | with_reducible assumption
    | with_reducible apply keeps_ite
    | with_reducible apply keepsOut_next
    | (refine keepsOut_whileRuns ?_ ?_)
    | with_reducible apply keepsOut_ite
    | with_reducible apply keepsOut_fault
    | with_reducible apply State.injTrigger_keeps
    | split

theorem execAdcConversionComplete_keeps {F : Part → Prop} {q0 s : State} [Open F .regs] [Open F .mem] [Open F .out] [Open F .adcs] (h : Keeps F q0 s) (d : Fin 4) (k : Fin 4) (code : Int) (ovr : Bool) : KeepsOut F q0 (execAdcConversionComplete d k code ovr s) := by
  unfold execAdcConversionComplete
  repeat' first
    | with_reducible assumption
    | with_reducible apply keeps_ite
    | with_reducible apply keepsOut_next
    | (refine keepsOut_whileRuns ?_ ?_)
    | with_reducible apply keepsOut_ite
    | with_reducible apply keepsOut_fault
    | with_reducible apply State.conversionComplete_keeps
    | split

theorem execAdcConversionTimeout_keeps {F : Part → Prop} {q0 s : State} [Open F .regs] [Open F .mem] [Open F .adcs] [Open F .life] [Open F .keeper] (h : Keeps F q0 s) (d : Fin 4) (k : Fin 4) : KeepsOut F q0 (execAdcConversionTimeout d k s) := by
  unfold execAdcConversionTimeout
  repeat' first
    | with_reducible assumption
    | with_reducible apply keeps_ite
    | with_reducible apply keepsOut_next
    | (refine keepsOut_whileRuns ?_ ?_)
    | with_reducible apply keepsOut_ite
    | with_reducible apply keepsOut_fault
    | with_reducible apply State.retireCore_keeps
    | split

theorem State.sendStateRecord_keeps {F : Part → Prop} {q0 s : State} [Open F .out] [Open F .adcs] (h : Keeps F q0 s) (d : Nat) : Keeps F q0 (State.sendStateRecord s d) := by
  unfold State.sendStateRecord
  repeat' first
    | (intro i t ht)
    | with_reducible assumption
    | with_reducible apply keeps_ite
    | with_reducible apply State.modAdc_keeps
    | with_reducible apply State.send_keeps
    | with_reducible apply foldOver_keeps
    | split

theorem State.cmpSettle_keeps {F : Part → Prop} {q0 s : State} [Open F .regs] [Open F .mem] [Open F .ports] [Open F .tgs] [Open F .drives] (h : Keeps F q0 s) (d : Nat) (i : Nat) : Keeps F q0 (State.cmpSettle s d i) := by
  unfold State.cmpSettle
  repeat' first
    | with_reducible assumption
    | with_reducible apply keeps_ite
    | (extract_lets -underBinder +onlyGivenNames xl; refine keeps_cut (F := F) (r := q0) (x := xl) (fun hx => ?_) ?_; (focus clear_value xl; rename' xl => y); rotate_left; (focus unfold xl; clear xl); rotate_left)
    | (extract_lets -underBinder +onlyGivenNames xl; clear_value xl; rename' xl => y)
    | with_reducible apply State.publishCmps_keeps
    | with_reducible apply State.refreshTrips_keeps
    | with_reducible apply State.setB_keeps
    | split

theorem State.armTriggers_keeps {F : Part → Prop} {q0 s : State} [Open F .adcs] (h : Keeps F q0 s) (d : Nat) (i : Nat) : Keeps F q0 (State.armTriggers s d i) := by
  unfold State.armTriggers
  repeat' first
    | (intro i t ht)
    | with_reducible assumption
    | with_reducible apply keeps_ite
    | (extract_lets -underBinder +onlyGivenNames xl; refine keeps_cut (F := F) (r := q0) (x := xl) (fun hx => ?_) ?_; (focus clear_value xl; rename' xl => y); rotate_left; (focus unfold xl; clear xl); rotate_left)
    | (extract_lets -underBinder +onlyGivenNames xl; clear_value xl; rename' xl => y)
    | with_reducible apply State.modAdc_keeps
    | with_reducible apply foldOver_keeps
    | split

theorem State.cmpEdge_keeps {F : Part → Prop} {q0 s : State} [Open F .regs] [Open F .mem] [Open F .ports] [Open F .tgs] [Open F .drives] [Open F .adcs] [Open F .cmps] (h : Keeps F q0 s) (d : Nat) (i : Nat) (v : Bool) : Keeps F q0 (State.cmpEdge s d i v) := by
  unfold State.cmpEdge
  repeat' first
    | with_reducible assumption
    | with_reducible apply keeps_ite
    | (extract_lets -underBinder +onlyGivenNames xl; refine keeps_cut (F := F) (r := q0) (x := xl) (fun hx => ?_) ?_; (focus clear_value xl; rename' xl => y); rotate_left; (focus unfold xl; clear xl); rotate_left)
    | (extract_lets -underBinder +onlyGivenNames xl; clear_value xl; rename' xl => y)
    | with_reducible apply State.armTriggers_keeps
    | with_reducible apply State.cmpSettle_keeps
    | with_reducible apply State.modCmp_keeps
    | with_reducible apply State.incSat_keeps
    | with_reducible apply State.setB_keeps
    | with_reducible apply State.set_keeps
    | split

theorem State.cthrApply_keeps {F : Part → Prop} {q0 s : State} [Open F .regs] [Open F .cmps] (h : Keeps F q0 s) (d : Nat) (i : Nat) (w : Word) : Keeps F q0 (State.cthrApply s d i w) := by
  unfold State.cthrApply
  repeat' first
    | with_reducible assumption
    | with_reducible apply keeps_ite
    | (extract_lets -underBinder +onlyGivenNames xl; refine keeps_cut (F := F) (r := q0) (x := xl) (fun hx => ?_) ?_; (focus clear_value xl; rename' xl => y); rotate_left; (focus unfold xl; clear xl); rotate_left)
    | (extract_lets -underBinder +onlyGivenNames xl; clear_value xl; rename' xl => y)
    | with_reducible apply State.modCmp_keeps
    | with_reducible apply State.setReg_keeps
    | split

theorem execCmpOutChange_keeps {F : Part → Prop} {q0 s : State} [Open F .regs] [Open F .mem] [Open F .ports] [Open F .tgs] [Open F .drives] [Open F .adcs] [Open F .cmps] (h : Keeps F q0 s) (d : Fin 4) (i : Fin 16) (vin : Int) : KeepsOut F q0 (execCmpOutChange d i vin s) := by
  unfold execCmpOutChange
  repeat' first
    | with_reducible assumption
    | with_reducible apply keeps_ite
    | with_reducible apply keepsOut_next
    | (refine keepsOut_whileRuns ?_ ?_)
    | with_reducible apply keepsOut_ite
    | with_reducible apply keepsOut_fault
    | with_reducible apply State.cmpEdge_keeps
    | with_reducible apply State.setB_keeps
    | split

theorem execCmpIrqEvent_keeps {F : Part → Prop} {q0 s : State} [Open F .out] [Open F .cmps] (h : Keeps F q0 s) (d : Fin 4) (i : Fin 16) : KeepsOut F q0 (execCmpIrqEvent d i s) := by
  unfold execCmpIrqEvent
  repeat' first
    | with_reducible assumption
    | with_reducible apply keeps_ite
    | with_reducible apply keepsOut_next
    | (refine keepsOut_whileRuns ?_ ?_)
    | with_reducible apply keepsOut_ite
    | with_reducible apply keepsOut_fault
    | with_reducible apply State.modCmp_keeps
    | with_reducible apply State.event_keeps
    | split

theorem State.ccfgApply_keeps {F : Part → Prop} {q0 s : State} [Open F .regs] [Open F .mem] [Open F .ports] [Open F .tgs] [Open F .drives] [Open F .cmps] (h : Keeps F q0 s) (d : Nat) (i : Nat) (w : Word) : Keeps F q0 (State.ccfgApply s d i w) := by
  unfold State.ccfgApply
  repeat' first
    | with_reducible assumption
    | with_reducible apply keeps_ite
    | (extract_lets -underBinder +onlyGivenNames xl; refine keeps_cut (F := F) (r := q0) (x := xl) (fun hx => ?_) ?_; (focus clear_value xl; rename' xl => y); rotate_left; (focus unfold xl; clear xl); rotate_left)
    | (extract_lets -underBinder +onlyGivenNames xl; clear_value xl; rename' xl => y)
    | with_reducible apply State.cmpSettle_keeps
    | with_reducible apply State.publishCmps_keeps
    | with_reducible apply State.refreshTrips_keeps
    | with_reducible apply State.refreshCuffs_keeps
    | with_reducible apply State.modCmp_keeps
    | with_reducible apply State.setB_keeps
    | with_reducible apply State.setReg_keeps
    | split

theorem execCmpSettlingEnd_keeps {F : Part → Prop} {q0 s : State} [Open F .regs] [Open F .mem] [Open F .ports] [Open F .tgs] [Open F .drives] [Open F .adcs] [Open F .cmps] (h : Keeps F q0 s) (d : Fin 4) (i : Fin 16) (vin : Int) : KeepsOut F q0 (execCmpSettlingEnd d i vin s) := by
  unfold execCmpSettlingEnd
  repeat' first
    | with_reducible assumption
    | with_reducible apply keeps_ite
    | with_reducible apply keepsOut_next
    | (refine keepsOut_whileRuns ?_ ?_)
    | with_reducible apply keepsOut_ite
    | with_reducible apply keepsOut_fault
    | (extract_lets -underBinder +onlyGivenNames xl; refine keeps_cut (F := F) (r := q0) (x := xl) (fun hx => ?_) ?_; (focus clear_value xl; rename' xl => y); rotate_left; (focus unfold xl; clear xl); rotate_left)
    | (extract_lets -underBinder +onlyGivenNames xl; clear_value xl; rename' xl => y)
    | with_reducible apply State.cmpEdge_keeps
    | with_reducible apply State.setB_keeps
    | split

theorem State.latWrite_keeps {F : Part → Prop} {q0 s : State} [Open F .regs] [Open F .mem] [Open F .ports] [Open F .tgs] [Open F .drives] (h : Keeps F q0 s) (d : Nat) (i : Nat) : Keeps F q0 (State.latWrite s d i) := by
  unfold State.latWrite
  repeat' first
    | with_reducible assumption
    | with_reducible apply keeps_ite
    | with_reducible apply State.publishCmps_keeps
    | with_reducible apply State.refreshTrips_keeps
    | with_reducible apply State.setB_keeps
    | split

theorem execCmpLatWrite_keeps {F : Part → Prop} {q0 s : State} [Open F .regs] [Open F .mem] [Open F .ports] [Open F .tgs] [Open F .drives] (h : Keeps F q0 s) (d : Fin 4) (i : Fin 16) : KeepsOut F q0 (execCmpLatWrite d i s) := by
  unfold execCmpLatWrite
  repeat' first
    | with_reducible assumption
    | with_reducible apply keeps_ite
    | with_reducible apply keepsOut_next
    | (refine keepsOut_whileRuns ?_ ?_)
    | with_reducible apply keepsOut_ite
    | with_reducible apply keepsOut_fault
    | with_reducible apply State.latWrite_keeps
    | split

theorem State.chkWrite_keeps {F : Part → Prop} {q0 s : State} [Open F .regs] [Open F .ports] [Open F .tgs] [Open F .drives] [Open F .cmps] (h : Keeps F q0 s) (d : Nat) (i : Nat) (v : Nat) (out : Bool) : Keeps F q0 (State.chkWrite s d i v out) := by
  unfold State.chkWrite
  repeat' first
    | with_reducible assumption
    | with_reducible apply keeps_ite
    | (extract_lets -underBinder +onlyGivenNames xl; refine keeps_cut (F := F) (r := q0) (x := xl) (fun hx => ?_) ?_; (focus clear_value xl; rename' xl => y); rotate_left; (focus unfold xl; clear xl); rotate_left)
    | (extract_lets -underBinder +onlyGivenNames xl; clear_value xl; rename' xl => y)
    | with_reducible apply State.refreshTrips_keeps
    | with_reducible apply State.modCmp_keeps
    | with_reducible apply State.setB_keeps
    | with_reducible apply State.set_keeps
    | split

theorem execCmpChkWrite_keeps {F : Part → Prop} {q0 s : State} [Open F .regs] [Open F .ports] [Open F .tgs] [Open F .drives] [Open F .cmps] (h : Keeps F q0 s) (d : Fin 4) (i : Fin 16) (v : Fin 8) (free : Bool) : KeepsOut F q0 (execCmpChkWrite d i v free s) := by
  unfold execCmpChkWrite
  repeat' first
    | with_reducible assumption
    | with_reducible apply keeps_ite
    | with_reducible apply keepsOut_next
    | (refine keepsOut_whileRuns ?_ ?_)
    | with_reducible apply keepsOut_ite
    | with_reducible apply keepsOut_fault
    | with_reducible apply State.chkWrite_keeps
    | split

theorem State.carrierLatches_keeps {F : Part → Prop} {q0 s : State} [Open F .regs] [Open F .mem] [Open F .ports] [Open F .tgs] [Open F .drives] (h : Keeps F q0 s) (d : Nat) (k : Nat) : Keeps F q0 (State.carrierLatches s d k) := by
  unfold State.carrierLatches
  repeat' first
    | (intro i t ht)
    | with_reducible assumption
    | with_reducible apply keeps_ite
    | (extract_lets -underBinder +onlyGivenNames xl; refine keeps_cut (F := F) (r := q0) (x := xl) (fun hx => ?_) ?_; (focus clear_value xl; rename' xl => y); rotate_left; (focus unfold xl; clear xl); rotate_left)
    | (extract_lets -underBinder +onlyGivenNames xl; clear_value xl; rename' xl => y)
    | with_reducible apply State.publishCmps_keeps
    | with_reducible apply State.refreshTrips_keeps
    | with_reducible apply State.setB_keeps
    | with_reducible apply foldOver_keeps
    | split

theorem State.modPi_keeps {F : Part → Prop} {q0 s : State} [Open F .pis] (h : Keeps F q0 s) (d : Nat) (p : Nat) (f : PosIf → PosIf) : Keeps F q0 (State.modPi s d p f) := by
  unfold State.modPi
  repeat' first
    | with_reducible assumption
    | with_reducible apply keeps_ite
    | split
    | refine Keeps.pis ?_ _

theorem State.picfgApply_keeps {F : Part → Prop} {q0 s : State} [Open F .regs] [Open F .pis] (h : Keeps F q0 s) (d : Nat) (p : Nat) (w : Word) : Keeps F q0 (State.picfgApply s d p w) := by
  unfold State.picfgApply
  repeat' first
    | with_reducible assumption
    | with_reducible apply keeps_ite
    | (extract_lets -underBinder +onlyGivenNames xl; refine keeps_cut (F := F) (r := q0) (x := xl) (fun hx => ?_) ?_; (focus clear_value xl; rename' xl => y); rotate_left; (focus unfold xl; clear xl); rotate_left)
    | (extract_lets -underBinder +onlyGivenNames xl; clear_value xl; rename' xl => y)
    | with_reducible apply State.modPi_keeps
    | with_reducible apply State.setReg_keeps
    | split

theorem State.piError_keeps {F : Part → Prop} {q0 s : State} [Open F .regs] (h : Keeps F q0 s) (d : Nat) (p : Nat) (f : RF) : Keeps F q0 (State.piError s d p f) := by
  unfold State.piError
  repeat' first
    | with_reducible assumption
    | with_reducible apply keeps_ite
    | with_reducible apply State.incSat_keeps
    | with_reducible apply State.setB_keeps
    | split

theorem State.piGather_keeps {F : Part → Prop} {q0 s : State} [Open F .regs] [Open F .pis] (h : Keeps F q0 s) (d : Nat) (p : Nat) (k : Nat) : Keeps F q0 (State.piGather s d p k) := by
  unfold State.piGather
  repeat' first
    | with_reducible assumption
    | with_reducible apply keeps_ite
    | (extract_lets -underBinder +onlyGivenNames xl; refine keeps_cut (F := F) (r := q0) (x := xl) (fun hx => ?_) ?_; (focus clear_value xl; rename' xl => y); rotate_left; (focus unfold xl; clear xl); rotate_left)
    | (extract_lets -underBinder +onlyGivenNames xl; clear_value xl; rename' xl => y)
    | with_reducible apply State.piError_keeps
    | with_reducible apply State.modPi_keeps
    | with_reducible apply State.setB_keeps
    | split

theorem State.piDemod_keeps {F : Part → Prop} {q0 s : State} [Open F .regs] [Open F .pis] (h : Keeps F q0 s) (d : Nat) (p : Nat) (k : Nat) : Keeps F q0 (State.piDemod s d p k) := by
  unfold State.piDemod
  repeat' first
    | with_reducible assumption
    | with_reducible apply keeps_ite
    | (extract_lets -underBinder +onlyGivenNames xl; refine keeps_cut (F := F) (r := q0) (x := xl) (fun hx => ?_) ?_; (focus clear_value xl; rename' xl => y); rotate_left; (focus unfold xl; clear xl); rotate_left)
    | (extract_lets -underBinder +onlyGivenNames xl; clear_value xl; rename' xl => y)
    | with_reducible apply State.piError_keeps
    | with_reducible apply State.modPi_keeps
    | with_reducible apply State.set_keeps
    | split

theorem State.piTrack_keeps {F : Part → Prop} {q0 s : State} [Open F .regs] [Open F .pis] (h : Keeps F q0 s) (d : Nat) (p : Nat) : Keeps F q0 (State.piTrack s d p) := by
  unfold State.piTrack
  repeat' first
    | with_reducible assumption
    | with_reducible apply keeps_ite
    | (extract_lets -underBinder +onlyGivenNames xl; refine keeps_cut (F := F) (r := q0) (x := xl) (fun hx => ?_) ?_; (focus clear_value xl; rename' xl => y); rotate_left; (focus unfold xl; clear xl); rotate_left)
    | (extract_lets -underBinder +onlyGivenNames xl; clear_value xl; rename' xl => y)
    | with_reducible apply State.modPi_keeps
    | with_reducible apply State.set_keeps
    | split

theorem State.piEncoder_keeps {F : Part → Prop} {q0 s : State} [Open F .regs] (h : Keeps F q0 s) (d : Nat) (p : Nat) : Keeps F q0 (State.piEncoder s d p) := by
  unfold State.piEncoder
  repeat' first
    | with_reducible assumption
    | with_reducible apply keeps_ite
    | (extract_lets -underBinder +onlyGivenNames xl; refine keeps_cut (F := F) (r := q0) (x := xl) (fun hx => ?_) ?_; (focus clear_value xl; rename' xl => y); rotate_left; (focus unfold xl; clear xl); rotate_left)
    | (extract_lets -underBinder +onlyGivenNames xl; clear_value xl; rename' xl => y)
    | with_reducible apply State.piError_keeps
    | with_reducible apply State.set_keeps
    | split

theorem State.piPeriod_keeps {F : Part → Prop} {q0 s : State} [Open F .regs] [Open F .pis] (h : Keeps F q0 s) (d : Nat) (p : Nat) (k : Nat) : Keeps F q0 (State.piPeriod s d p k) := by
  unfold State.piPeriod
  repeat' first
    | with_reducible assumption
    | with_reducible apply keeps_ite
    | with_reducible apply State.piEncoder_keeps
    | with_reducible apply State.piTrack_keeps
    | with_reducible apply State.piDemod_keeps
    | with_reducible apply State.piGather_keeps
    | split

theorem State.piBoundary_keeps {F : Part → Prop} {q0 s : State} [Open F .regs] [Open F .pis] (h : Keeps F q0 s) (d : Nat) (g : Nat) (k : Nat) : Keeps F q0 (State.piBoundary s d g k) := by
  unfold State.piBoundary
  repeat' first
    | (intro i t ht)
    | with_reducible assumption
    | with_reducible apply keeps_ite
    | with_reducible apply State.piPeriod_keeps
    | with_reducible apply State.modPi_keeps
    | with_reducible apply foldOver_keeps
    | split

theorem State.excite_keeps {F : Part → Prop} {q0 s : State} [Open F .freeCnt] [Open F .pis] (h : Keeps F q0 s) (d : Nat) (p : Nat) : Keeps F q0 (State.excite s d p) := by
  unfold State.excite
  repeat' first
    | with_reducible assumption
    | with_reducible apply keeps_ite
    | (extract_lets -underBinder +onlyGivenNames xl; refine keeps_cut (F := F) (r := q0) (x := xl) (fun hx => ?_) ?_; (focus clear_value xl; rename' xl => y); rotate_left; (focus unfold xl; clear xl); rotate_left)
    | (extract_lets -underBinder +onlyGivenNames xl; clear_value xl; rename' xl => y)
    | with_reducible apply State.modPi_keeps
    | with_reducible apply State.fresh_keeps
    | split

theorem execEncoderEdge_keeps {F : Part → Prop} {q0 s : State} [Open F .regs] [Open F .pis] (h : Keeps F q0 s) (d : Fin 4) (p : Fin 2) (a : Bool) (b : Bool) : KeepsOut F q0 (execEncoderEdge d p a b s) := by
  unfold execEncoderEdge
  repeat' first
    | with_reducible assumption
    | with_reducible apply keeps_ite
    | with_reducible apply keepsOut_next
    | (refine keepsOut_whileRuns ?_ ?_)
    | with_reducible apply keepsOut_ite
    | with_reducible apply keepsOut_fault
    | (extract_lets -underBinder +onlyGivenNames xl; refine keeps_cut (F := F) (r := q0) (x := xl) (fun hx => ?_) ?_; (focus clear_value xl; rename' xl => y); rotate_left; (focus unfold xl; clear xl); rotate_left)
    | (extract_lets -underBinder +onlyGivenNames xl; clear_value xl; rename' xl => y)
    | with_reducible apply State.piError_keeps
    | with_reducible apply State.modPi_keeps
    | with_reducible apply State.set_keeps
    | split

theorem execEncoderZEdge_keeps {F : Part → Prop} {q0 s : State} [Open F .regs] [Open F .pis] (h : Keeps F q0 s) (d : Fin 4) (p : Fin 2) : KeepsOut F q0 (execEncoderZEdge d p s) := by
  unfold execEncoderZEdge
  repeat' first
    | with_reducible assumption
    | with_reducible apply keeps_ite
    | with_reducible apply keepsOut_next
    | (refine keepsOut_whileRuns ?_ ?_)
    | with_reducible apply keepsOut_ite
    | with_reducible apply keepsOut_fault
    | (extract_lets -underBinder +onlyGivenNames xl; refine keeps_cut (F := F) (r := q0) (x := xl) (fun hx => ?_) ?_; (focus clear_value xl; rename' xl => y); rotate_left; (focus unfold xl; clear xl); rotate_left)
    | (extract_lets -underBinder +onlyGivenNames xl; clear_value xl; rename' xl => y)
    | with_reducible apply State.modPi_keeps
    | with_reducible apply State.setB_keeps
    | with_reducible apply State.set_keeps
    | split

end Sys2Proof.Machine
end

