-- ==== Sys2Proof/Laws/KeepsRainflow.lean ====
section
/-! SUPPORT.  What the operations of Machine/Rainflow.lean keep. -/

set_option linter.unusedTactic false
set_option linter.unreachableTactic false
set_option linter.unusedVariables false
set_option linter.unnecessarySeqFocus false

namespace Sys2Proof.Machine

theorem State.modCyc_keeps {F : Part → Prop} {q0 s : State} [Open F .cycles] (h : Keeps F q0 s) (d : Nat) (j : Nat) (f : CycleCounter → CycleCounter) : Keeps F q0 (State.modCyc s d j f) := by
  unfold State.modCyc
  repeat' first
    | with_reducible assumption
    | with_reducible apply keeps_ite
    | split
    | refine Keeps.cycles ?_ _

theorem State.countCycle_keeps {F : Part → Prop} {q0 s : State} [Open F .regs] [Open F .cycles] (h : Keeps F q0 s) (d : Nat) (j : Nat) (a : Int) (b : Int) (k : Nat) : Keeps F q0 (State.countCycle s d j a b k) := by
  unfold State.countCycle
  repeat' first
    | with_reducible assumption
    | with_reducible apply keeps_ite
    | (extract_lets -underBinder +onlyGivenNames xl; refine keeps_cut (F := F) (r := q0) (x := xl) (fun hx => ?_) ?_; (focus clear_value xl; rename' xl => y); rotate_left; (focus unfold xl; clear xl); rotate_left)
    | (extract_lets -underBinder +onlyGivenNames xl; clear_value xl; rename' xl => y)
    | with_reducible apply State.modCyc_keeps
    | with_reducible apply State.setBit_keeps
    | split

theorem State.closeCycles_keeps {F : Part → Prop} {r s : State} [Open F .regs] [Open F .cycles] (h : Keeps F r s) (d j fuel : Nat) : Keeps F r (State.closeCycles s d j fuel) := by
  induction fuel generalizing s with
  | zero => exact h
  | succ n ih =>
    unfold State.closeCycles
    split
    · split
      · exact ih (State.modCyc_keeps (State.countCycle_keeps h d j _ _ 2) d j _)
      · exact h
    · exact h

theorem State.pushReversal_keeps {F : Part → Prop} {q0 s : State} [Open F .regs] [Open F .cycles] (h : Keeps F q0 s) (d : Nat) (j : Nat) (x : Int) : Keeps F q0 (State.pushReversal s d j x) := by
  unfold State.pushReversal
  repeat' first
    | with_reducible assumption
    | with_reducible apply keeps_ite
    | (extract_lets -underBinder +onlyGivenNames xl; refine keeps_cut (F := F) (r := q0) (x := xl) (fun hx => ?_) ?_; (focus clear_value xl; rename' xl => y); rotate_left; (focus unfold xl; clear xl); rotate_left)
    | (extract_lets -underBinder +onlyGivenNames xl; clear_value xl; rename' xl => y)
    | with_reducible apply State.closeCycles_keeps
    | with_reducible apply State.countCycle_keeps
    | with_reducible apply State.modCyc_keeps
    | with_reducible apply State.setBit_keeps
    | with_reducible apply State.set_keeps
    | split

theorem State.countPairs_keeps {F : Part → Prop} {r s : State} [Open F .regs] [Open F .cycles] (h : Keeps F r s) (d j : Nat) (l : List Int) : Keeps F r (State.countPairs s d j l) := by
  induction l generalizing s with
  | nil => exact h
  | cons a l ih =>
    cases l with
    | nil => exact h
    | cons b l => exact ih (State.countCycle_keeps h d j a b 1)

theorem State.flushStack_keeps {F : Part → Prop} {q0 s : State} [Open F .regs] [Open F .cycles] (h : Keeps F q0 s) (d : Nat) (j : Nat) : Keeps F q0 (State.flushStack s d j) := by
  unfold State.flushStack
  repeat' first
    | with_reducible assumption
    | with_reducible apply keeps_ite
    | with_reducible apply State.countPairs_keeps
    | with_reducible apply State.modCyc_keeps
    | with_reducible apply State.set_keeps
    | split

theorem State.rainflow_keeps {F : Part → Prop} {r s : State} [Open F .regs] [Open F .cycles] (h : Keeps F r s) (d : Nat) (j : Nat) (x : Int) : Keeps F r (State.rainflow s d j x) := by
  have ht : ∀ (e : Int) (f : CycleCounter → CycleCounter), Keeps F r ((s.pushReversal d j e).modCyc d j f) := fun e f =>
    State.modCyc_keeps (State.pushReversal_keeps h d j e) d j f
  unfold State.rainflow
  dsimp only
  split
  · exact State.modCyc_keeps h d j _
  · split <;> (try split) <;> (try split) <;> (try split) <;> first | exact h | exact ht _ _ | exact State.modCyc_keeps h d j _

end Sys2Proof.Machine
end

