-- ==== Sys2Proof/Laws/KeepsCle.lean ====
section
/-! SUPPORT.  What the operations of Machine/Cle.lean keep. -/

set_option linter.unusedTactic false
set_option linter.unreachableTactic false
set_option linter.unusedVariables false
set_option linter.unnecessarySeqFocus false

namespace Sys2Proof.Machine

theorem State.modCle_keeps {F : Part → Prop} {q0 s : State} [Open F .cles] (h : Keeps F q0 s) (d : Nat) (c : Nat) (f : CleCore → CleCore) : Keeps F q0 (State.modCle s d c f) := by
  unfold State.modCle
  repeat' first
    | with_reducible assumption
    | with_reducible apply keeps_ite
    | split
    | refine Keeps.cles ?_ _

theorem State.clecfgApply_keeps {F : Part → Prop} {q0 s : State} [Open F .regs] [Open F .cles] (h : Keeps F q0 s) (d : Nat) (c : Nat) (w : Word) : Keeps F q0 (State.clecfgApply s d c w) := by
  unfold State.clecfgApply
  repeat' first
    | with_reducible assumption
    | with_reducible apply keeps_ite
    | (extract_lets -underBinder +onlyGivenNames xl; refine keeps_cut (F := F) (r := q0) (x := xl) (fun hx => ?_) ?_; (focus clear_value xl; rename' xl => y); rotate_left; (focus unfold xl; clear xl); rotate_left)
    | (extract_lets -underBinder +onlyGivenNames xl; clear_value xl; rename' xl => y)
    | with_reducible apply State.modCle_keeps
    | with_reducible apply State.setB_keeps
    | with_reducible apply State.set_keeps
    | with_reducible apply State.setReg_keeps
    | split

theorem State.takeCommit_keeps {F : Part → Prop} {q0 s : State} [Open F .regs] (h : Keeps F q0 s) (d : Nat) (c : Nat) : Keeps F q0 (State.takeCommit s d c) := by
  unfold State.takeCommit
  repeat' first
    | (intro i t ht)
    | with_reducible assumption
    | with_reducible apply keeps_ite
    | (extract_lets -underBinder +onlyGivenNames xl; refine keeps_cut (F := F) (r := q0) (x := xl) (fun hx => ?_) ?_; (focus clear_value xl; rename' xl => y); rotate_left; (focus unfold xl; clear xl); rotate_left)
    | (extract_lets -underBinder +onlyGivenNames xl; clear_value xl; rename' xl => y)
    | with_reducible apply State.incMod_keeps
    | with_reducible apply State.setB_keeps
    | with_reducible apply foldOver_keeps
    | with_reducible apply State.setReg_keeps
    | split

theorem State.copyCommand_keeps {F : Part → Prop} {q0 s : State} [Open F .regs] [Open F .mem] (h : Keeps F q0 s) (d : Nat) (c : Nat) : Keeps F q0 (State.copyCommand s d c) := by
  unfold State.copyCommand
  repeat' first
    | (intro i t ht)
    | with_reducible assumption
    | with_reducible apply keeps_ite
    | (extract_lets -underBinder +onlyGivenNames xl; refine keeps_cut (F := F) (r := q0) (x := xl) (fun hx => ?_) ?_; (focus clear_value xl; rename' xl => y); rotate_left; (focus unfold xl; clear xl); rotate_left)
    | (extract_lets -underBinder +onlyGivenNames xl; clear_value xl; rename' xl => y)
    | with_reducible apply State.takeCommit_keeps
    | with_reducible apply State.setCleData_keeps
    | with_reducible apply foldOver_keeps
    | split

theorem State.overrun_keeps {F : Part → Prop} {q0 s : State} [Open F .regs] [Open F .ports] [Open F .tgs] [Open F .drives] [Open F .cles] (h : Keeps F q0 s) (d : Nat) (c : Nat) : Keeps F q0 (State.overrun s d c) := by
  unfold State.overrun
  repeat' first
    | with_reducible assumption
    | with_reducible apply keeps_ite
    | (extract_lets -underBinder +onlyGivenNames xl; refine keeps_cut (F := F) (r := q0) (x := xl) (fun hx => ?_) ?_; (focus clear_value xl; rename' xl => y); rotate_left; (focus unfold xl; clear xl); rotate_left)
    | (extract_lets -underBinder +onlyGivenNames xl; clear_value xl; rename' xl => y)
    | with_reducible apply State.modCle_keeps
    | with_reducible apply State.refreshTrips_keeps
    | with_reducible apply State.incSat_keeps
    | with_reducible apply State.setB_keeps
    | with_reducible apply State.set_keeps
    | split

theorem State.scheduleCheck_keeps {F : Part → Prop} {q0 s : State} [Open F .regs] [Open F .ports] [Open F .tgs] [Open F .drives] [Open F .cles] (h : Keeps F q0 s) (d : Nat) (c : Nat) (k : Nat) : Keeps F q0 (State.scheduleCheck s d c k) := by
  unfold State.scheduleCheck
  repeat' first
    | with_reducible assumption
    | with_reducible apply keeps_ite
    | (extract_lets -underBinder +onlyGivenNames xl; refine keeps_cut (F := F) (r := q0) (x := xl) (fun hx => ?_) ?_; (focus clear_value xl; rename' xl => y); rotate_left; (focus unfold xl; clear xl); rotate_left)
    | (extract_lets -underBinder +onlyGivenNames xl; clear_value xl; rename' xl => y)
    | with_reducible apply State.overrun_keeps
    | with_reducible apply State.modCle_keeps
    | with_reducible apply State.setB_keeps
    | split

theorem State.updateFirst_keeps {F : Part → Prop} {q0 s : State} [Open F .cles] (h : Keeps F q0 s) (d : Nat) (c : Nat) : Keeps F q0 (State.updateFirst s d c) := by
  unfold State.updateFirst
  repeat' first
    | with_reducible assumption
    | with_reducible apply keeps_ite
    | (extract_lets -underBinder +onlyGivenNames xl; refine keeps_cut (F := F) (r := q0) (x := xl) (fun hx => ?_) ?_; (focus clear_value xl; rename' xl => y); rotate_left; (focus unfold xl; clear xl); rotate_left)
    | (extract_lets -underBinder +onlyGivenNames xl; clear_value xl; rename' xl => y)
    | with_reducible apply State.modCle_keeps
    | split

theorem State.periodWords_keeps {F : Part → Prop} {q0 s : State} [Open F .mem] (h : Keeps F q0 s) (d : Nat) (c : Nat) (k : Nat) : Keeps F q0 (State.periodWords s d c k) := by
  unfold State.periodWords
  repeat' first
    | with_reducible assumption
    | with_reducible apply keeps_ite
    | (extract_lets -underBinder +onlyGivenNames xl; refine keeps_cut (F := F) (r := q0) (x := xl) (fun hx => ?_) ?_; (focus clear_value xl; rename' xl => y); rotate_left; (focus unfold xl; clear xl); rotate_left)
    | (extract_lets -underBinder +onlyGivenNames xl; clear_value xl; rename' xl => y)
    | with_reducible apply State.setCleData_keeps
    | split

theorem State.cleBoundary_keeps {F : Part → Prop} {q0 s : State} [Open F .regs] [Open F .mem] [Open F .ports] [Open F .tgs] [Open F .drives] [Open F .cles] (h : Keeps F q0 s) (d : Nat) (c : Nat) (k : Nat) : Keeps F q0 (State.cleBoundary s d c k) := by
  unfold State.cleBoundary
  repeat' first
    | with_reducible assumption
    | with_reducible apply keeps_ite
    | (extract_lets -underBinder +onlyGivenNames xl; refine keeps_cut (F := F) (r := q0) (x := xl) (fun hx => ?_) ?_; (focus clear_value xl; rename' xl => y); rotate_left; (focus unfold xl; clear xl); rotate_left)
    | (extract_lets -underBinder +onlyGivenNames xl; clear_value xl; rename' xl => y)
    | with_reducible apply State.periodWords_keeps
    | with_reducible apply State.updateFirst_keeps
    | with_reducible apply State.scheduleCheck_keeps
    | with_reducible apply State.copyCommand_keeps
    | with_reducible apply State.modCle_keeps
    | split

theorem execCleProgramStart_keeps {F : Part → Prop} {q0 s : State} [Open F .regs] [Open F .cles] (h : Keeps F q0 s) (d : Fin 4) (c : Fin 2) : KeepsOut F q0 (execCleProgramStart d c s) := by
  unfold execCleProgramStart
  repeat' first
    | with_reducible assumption
    | with_reducible apply keeps_ite
    | with_reducible apply keepsOut_next
    | (refine keepsOut_whileRuns ?_ ?_)
    | with_reducible apply keepsOut_ite
    | with_reducible apply keepsOut_fault
    | with_reducible apply State.modCle_keeps
    | with_reducible apply State.setB_keeps
    | split

theorem State.cleRun_keeps {F : Part → Prop} {q0 s : State} [Open F .cles] (h : Keeps F q0 s) (d : Nat) (c : Nat) (op : Nat) (f : Word → CleCore → CleCore) : Keeps F q0 (State.cleRun s d c op f) := by
  unfold State.cleRun
  repeat' first
    | with_reducible assumption
    | with_reducible apply keeps_ite
    | (extract_lets -underBinder +onlyGivenNames xl; refine keeps_cut (F := F) (r := q0) (x := xl) (fun hx => ?_) ?_; (focus clear_value xl; rename' xl => y); rotate_left; (focus unfold xl; clear xl); rotate_left)
    | (extract_lets -underBinder +onlyGivenNames xl; clear_value xl; rename' xl => y)
    | with_reducible apply State.modCle_keeps
    | split

theorem State.cleStore_keeps {F : Part → Prop} {q0 s : State} [Open F .regs] [Open F .mem] [Open F .cles] (h : Keeps F q0 s) (d : Nat) (c : Nat) (m : Nat) (w : BitVec 32) : Keeps F q0 (State.cleStore s d c m w) := by
  unfold State.cleStore
  repeat' first
    | with_reducible assumption
    | with_reducible apply keeps_ite
    | with_reducible apply State.modCle_keeps
    | with_reducible apply State.setCleData_keeps
    | with_reducible apply State.setB_keeps
    | split

theorem execCleNop_keeps {F : Part → Prop} {q0 s : State} [Open F .cles] (h : Keeps F q0 s) (d : Fin 4) (c : Fin 2) : KeepsOut F q0 (execCleNop d c s) := by
  unfold execCleNop
  repeat' first
    | with_reducible assumption
    | with_reducible apply keeps_ite
    | with_reducible apply keepsOut_next
    | (refine keepsOut_whileRuns ?_ ?_)
    | with_reducible apply keepsOut_ite
    | with_reducible apply keepsOut_fault
    | with_reducible apply State.cleRun_keeps
    | split

theorem execCleEnd_keeps {F : Part → Prop} {q0 s : State} [Open F .regs] [Open F .cles] (h : Keeps F q0 s) (d : Fin 4) (c : Fin 2) : KeepsOut F q0 (execCleEnd d c s) := by
  unfold execCleEnd
  repeat' first
    | with_reducible assumption
    | with_reducible apply keeps_ite
    | with_reducible apply keepsOut_next
    | (refine keepsOut_whileRuns ?_ ?_)
    | with_reducible apply keepsOut_ite
    | with_reducible apply keepsOut_fault
    | (extract_lets -underBinder +onlyGivenNames xl; refine keeps_cut (F := F) (r := q0) (x := xl) (fun hx => ?_) ?_; (focus clear_value xl; rename' xl => y); rotate_left; (focus unfold xl; clear xl); rotate_left)
    | (extract_lets -underBinder +onlyGivenNames xl; clear_value xl; rename' xl => y)
    | with_reducible apply State.modCle_keeps
    | with_reducible apply State.setB_keeps
    | with_reducible apply State.set_keeps
    | split

theorem execCleLd_keeps {F : Part → Prop} {q0 s : State} [Open F .regs] [Open F .cles] (h : Keeps F q0 s) (d : Fin 4) (c : Fin 2) : KeepsOut F q0 (execCleLd d c s) := by
  unfold execCleLd
  repeat' first
    | with_reducible assumption
    | with_reducible apply keeps_ite
    | with_reducible apply keepsOut_next
    | (refine keepsOut_whileRuns ?_ ?_)
    | with_reducible apply keepsOut_ite
    | with_reducible apply keepsOut_fault
    | with_reducible apply State.cleRun_keeps
    | with_reducible apply State.setReg_keeps
    | split

theorem execCleLdx_keeps {F : Part → Prop} {q0 s : State} [Open F .regs] [Open F .cles] (h : Keeps F q0 s) (d : Fin 4) (c : Fin 2) : KeepsOut F q0 (execCleLdx d c s) := by
  unfold execCleLdx
  repeat' first
    | with_reducible assumption
    | with_reducible apply keeps_ite
    | with_reducible apply keepsOut_next
    | (refine keepsOut_whileRuns ?_ ?_)
    | with_reducible apply keepsOut_ite
    | with_reducible apply keepsOut_fault
    | with_reducible apply State.cleRun_keeps
    | with_reducible apply State.setReg_keeps
    | split

theorem execCleSt_keeps {F : Part → Prop} {q0 s : State} [Open F .regs] [Open F .mem] [Open F .cles] (h : Keeps F q0 s) (d : Fin 4) (c : Fin 2) : KeepsOut F q0 (execCleSt d c s) := by
  unfold execCleSt
  repeat' first
    | with_reducible assumption
    | with_reducible apply keeps_ite
    | with_reducible apply keepsOut_next
    | (refine keepsOut_whileRuns ?_ ?_)
    | with_reducible apply keepsOut_ite
    | with_reducible apply keepsOut_fault
    | with_reducible apply State.cleStore_keeps
    | with_reducible apply State.modCle_keeps
    | split

theorem execCleStx_keeps {F : Part → Prop} {q0 s : State} [Open F .regs] [Open F .mem] [Open F .cles] (h : Keeps F q0 s) (d : Fin 4) (c : Fin 2) : KeepsOut F q0 (execCleStx d c s) := by
  unfold execCleStx
  repeat' first
    | with_reducible assumption
    | with_reducible apply keeps_ite
    | with_reducible apply keepsOut_next
    | (refine keepsOut_whileRuns ?_ ?_)
    | with_reducible apply keepsOut_ite
    | with_reducible apply keepsOut_fault
    | (extract_lets -underBinder +onlyGivenNames xl; refine keeps_cut (F := F) (r := q0) (x := xl) (fun hx => ?_) ?_; (focus clear_value xl; rename' xl => y); rotate_left; (focus unfold xl; clear xl); rotate_left)
    | (extract_lets -underBinder +onlyGivenNames xl; clear_value xl; rename' xl => y)
    | with_reducible apply State.cleStore_keeps
    | with_reducible apply State.modCle_keeps
    | split

theorem execCleLdi_keeps {F : Part → Prop} {q0 s : State} [Open F .regs] [Open F .cles] (h : Keeps F q0 s) (d : Fin 4) (c : Fin 2) : KeepsOut F q0 (execCleLdi d c s) := by
  unfold execCleLdi
  repeat' first
    | with_reducible assumption
    | with_reducible apply keeps_ite
    | with_reducible apply keepsOut_next
    | (refine keepsOut_whileRuns ?_ ?_)
    | with_reducible apply keepsOut_ite
    | with_reducible apply keepsOut_fault
    | with_reducible apply State.cleRun_keeps
    | with_reducible apply State.setReg_keeps
    | split

theorem execCleLdc_keeps {F : Part → Prop} {q0 s : State} [Open F .regs] [Open F .cles] (h : Keeps F q0 s) (d : Fin 4) (c : Fin 2) : KeepsOut F q0 (execCleLdc d c s) := by
  unfold execCleLdc
  repeat' first
    | with_reducible assumption
    | with_reducible apply keeps_ite
    | with_reducible apply keepsOut_next
    | (refine keepsOut_whileRuns ?_ ?_)
    | with_reducible apply keepsOut_ite
    | with_reducible apply keepsOut_fault
    | with_reducible apply State.cleRun_keeps
    | with_reducible apply State.setReg_keeps
    | split

theorem execCleExt_keeps {F : Part → Prop} {q0 s : State} [Open F .regs] [Open F .cles] (h : Keeps F q0 s) (d : Fin 4) (c : Fin 2) : KeepsOut F q0 (execCleExt d c s) := by
  unfold execCleExt
  repeat' first
    | with_reducible assumption
    | with_reducible apply keeps_ite
    | with_reducible apply keepsOut_next
    | (refine keepsOut_whileRuns ?_ ?_)
    | with_reducible apply keepsOut_ite
    | with_reducible apply keepsOut_fault
    | with_reducible apply State.cleRun_keeps
    | with_reducible apply State.setReg_keeps
    | split

theorem execCleAdd_keeps {F : Part → Prop} {q0 s : State} [Open F .regs] [Open F .cles] (h : Keeps F q0 s) (d : Fin 4) (c : Fin 2) : KeepsOut F q0 (execCleAdd d c s) := by
  unfold execCleAdd
  repeat' first
    | with_reducible assumption
    | with_reducible apply keeps_ite
    | with_reducible apply keepsOut_next
    | (refine keepsOut_whileRuns ?_ ?_)
    | with_reducible apply keepsOut_ite
    | with_reducible apply keepsOut_fault
    | with_reducible apply State.cleRun_keeps
    | with_reducible apply State.setReg_keeps
    | split

theorem execCleSub_keeps {F : Part → Prop} {q0 s : State} [Open F .regs] [Open F .cles] (h : Keeps F q0 s) (d : Fin 4) (c : Fin 2) : KeepsOut F q0 (execCleSub d c s) := by
  unfold execCleSub
  repeat' first
    | with_reducible assumption
    | with_reducible apply keeps_ite
    | with_reducible apply keepsOut_next
    | (refine keepsOut_whileRuns ?_ ?_)
    | with_reducible apply keepsOut_ite
    | with_reducible apply keepsOut_fault
    | with_reducible apply State.cleRun_keeps
    | with_reducible apply State.setReg_keeps
    | split

theorem execCleAbs_keeps {F : Part → Prop} {q0 s : State} [Open F .regs] [Open F .cles] (h : Keeps F q0 s) (d : Fin 4) (c : Fin 2) : KeepsOut F q0 (execCleAbs d c s) := by
  unfold execCleAbs
  repeat' first
    | with_reducible assumption
    | with_reducible apply keeps_ite
    | with_reducible apply keepsOut_next
    | (refine keepsOut_whileRuns ?_ ?_)
    | with_reducible apply keepsOut_ite
    | with_reducible apply keepsOut_fault
    | with_reducible apply State.cleRun_keeps
    | with_reducible apply State.setReg_keeps
    | split

theorem execCleMin_keeps {F : Part → Prop} {q0 s : State} [Open F .regs] [Open F .cles] (h : Keeps F q0 s) (d : Fin 4) (c : Fin 2) : KeepsOut F q0 (execCleMin d c s) := by
  unfold execCleMin
  repeat' first
    | with_reducible assumption
    | with_reducible apply keeps_ite
    | with_reducible apply keepsOut_next
    | (refine keepsOut_whileRuns ?_ ?_)
    | with_reducible apply keepsOut_ite
    | with_reducible apply keepsOut_fault
    | with_reducible apply State.cleRun_keeps
    | with_reducible apply State.setReg_keeps
    | split

theorem execCleMax_keeps {F : Part → Prop} {q0 s : State} [Open F .regs] [Open F .cles] (h : Keeps F q0 s) (d : Fin 4) (c : Fin 2) : KeepsOut F q0 (execCleMax d c s) := by
  unfold execCleMax
  repeat' first
    | with_reducible assumption
    | with_reducible apply keeps_ite
    | with_reducible apply keepsOut_next
    | (refine keepsOut_whileRuns ?_ ?_)
    | with_reducible apply keepsOut_ite
    | with_reducible apply keepsOut_fault
    | with_reducible apply State.cleRun_keeps
    | with_reducible apply State.setReg_keeps
    | split

theorem execCleAsh_keeps {F : Part → Prop} {q0 s : State} [Open F .regs] [Open F .cles] (h : Keeps F q0 s) (d : Fin 4) (c : Fin 2) : KeepsOut F q0 (execCleAsh d c s) := by
  unfold execCleAsh
  repeat' first
    | with_reducible assumption
    | with_reducible apply keeps_ite
    | with_reducible apply keepsOut_next
    | (refine keepsOut_whileRuns ?_ ?_)
    | with_reducible apply keepsOut_ite
    | with_reducible apply keepsOut_fault
    | with_reducible apply State.cleRun_keeps
    | with_reducible apply State.setReg_keeps
    | split

theorem execCleAnd_keeps {F : Part → Prop} {q0 s : State} [Open F .regs] [Open F .cles] (h : Keeps F q0 s) (d : Fin 4) (c : Fin 2) : KeepsOut F q0 (execCleAnd d c s) := by
  unfold execCleAnd
  repeat' first
    | with_reducible assumption
    | with_reducible apply keeps_ite
    | with_reducible apply keepsOut_next
    | (refine keepsOut_whileRuns ?_ ?_)
    | with_reducible apply keepsOut_ite
    | with_reducible apply keepsOut_fault
    | with_reducible apply State.cleRun_keeps
    | with_reducible apply State.setReg_keeps
    | split

theorem execCleSel_keeps {F : Part → Prop} {q0 s : State} [Open F .regs] [Open F .cles] (h : Keeps F q0 s) (d : Fin 4) (c : Fin 2) : KeepsOut F q0 (execCleSel d c s) := by
  unfold execCleSel
  repeat' first
    | with_reducible assumption
    | with_reducible apply keeps_ite
    | with_reducible apply keepsOut_next
    | (refine keepsOut_whileRuns ?_ ?_)
    | with_reducible apply keepsOut_ite
    | with_reducible apply keepsOut_fault
    | with_reducible apply State.cleRun_keeps
    | with_reducible apply State.setReg_keeps
    | split

theorem execCleMul_keeps {F : Part → Prop} {q0 s : State} [Open F .regs] [Open F .cles] (h : Keeps F q0 s) (d : Fin 4) (c : Fin 2) : KeepsOut F q0 (execCleMul d c s) := by
  unfold execCleMul
  repeat' first
    | with_reducible assumption
    | with_reducible apply keeps_ite
    | with_reducible apply keepsOut_next
    | (refine keepsOut_whileRuns ?_ ?_)
    | with_reducible apply keepsOut_ite
    | with_reducible apply keepsOut_fault
    | with_reducible apply State.cleRun_keeps
    | with_reducible apply State.setReg_keeps
    | split

theorem execCleMulc_keeps {F : Part → Prop} {q0 s : State} [Open F .regs] [Open F .cles] (h : Keeps F q0 s) (d : Fin 4) (c : Fin 2) : KeepsOut F q0 (execCleMulc d c s) := by
  unfold execCleMulc
  repeat' first
    | with_reducible assumption
    | with_reducible apply keeps_ite
    | with_reducible apply keepsOut_next
    | (refine keepsOut_whileRuns ?_ ?_)
    | with_reducible apply keepsOut_ite
    | with_reducible apply keepsOut_fault
    | with_reducible apply State.cleRun_keeps
    | with_reducible apply State.setReg_keeps
    | split

theorem execCleMac_keeps {F : Part → Prop} {q0 s : State} [Open F .cles] (h : Keeps F q0 s) (d : Fin 4) (c : Fin 2) : KeepsOut F q0 (execCleMac d c s) := by
  unfold execCleMac
  repeat' first
    | with_reducible assumption
    | with_reducible apply keeps_ite
    | with_reducible apply keepsOut_next
    | (refine keepsOut_whileRuns ?_ ?_)
    | with_reducible apply keepsOut_ite
    | with_reducible apply keepsOut_fault
    | with_reducible apply State.cleRun_keeps
    | split

theorem execCleMacc_keeps {F : Part → Prop} {q0 s : State} [Open F .cles] (h : Keeps F q0 s) (d : Fin 4) (c : Fin 2) : KeepsOut F q0 (execCleMacc d c s) := by
  unfold execCleMacc
  repeat' first
    | with_reducible assumption
    | with_reducible apply keeps_ite
    | with_reducible apply keepsOut_next
    | (refine keepsOut_whileRuns ?_ ?_)
    | with_reducible apply keepsOut_ite
    | with_reducible apply keepsOut_fault
    | with_reducible apply State.cleRun_keeps
    | split

theorem execCleLda_keeps {F : Part → Prop} {q0 s : State} [Open F .cles] (h : Keeps F q0 s) (d : Fin 4) (c : Fin 2) : KeepsOut F q0 (execCleLda d c s) := by
  unfold execCleLda
  repeat' first
    | with_reducible assumption
    | with_reducible apply keeps_ite
    | with_reducible apply keepsOut_next
    | (refine keepsOut_whileRuns ?_ ?_)
    | with_reducible apply keepsOut_ite
    | with_reducible apply keepsOut_fault
    | with_reducible apply State.cleRun_keeps
    | split

theorem execCleMova_keeps {F : Part → Prop} {q0 s : State} [Open F .regs] [Open F .cles] (h : Keeps F q0 s) (d : Fin 4) (c : Fin 2) : KeepsOut F q0 (execCleMova d c s) := by
  unfold execCleMova
  repeat' first
    | with_reducible assumption
    | with_reducible apply keeps_ite
    | with_reducible apply keepsOut_next
    | (refine keepsOut_whileRuns ?_ ?_)
    | with_reducible apply keepsOut_ite
    | with_reducible apply keepsOut_fault
    | with_reducible apply State.cleRun_keeps
    | with_reducible apply State.setReg_keeps
    | split

theorem execCleSincos_keeps {F : Part → Prop} {q0 s : State} [Open F .regs] [Open F .cles] (h : Keeps F q0 s) (d : Fin 4) (c : Fin 2) : KeepsOut F q0 (execCleSincos d c s) := by
  unfold execCleSincos
  repeat' first
    | with_reducible assumption
    | with_reducible apply keeps_ite
    | with_reducible apply keepsOut_next
    | (refine keepsOut_whileRuns ?_ ?_)
    | with_reducible apply keepsOut_ite
    | with_reducible apply keepsOut_fault
    | (extract_lets -underBinder +onlyGivenNames xl; refine keeps_cut (F := F) (r := q0) (x := xl) (fun hx => ?_) ?_; (focus clear_value xl; rename' xl => y); rotate_left; (focus unfold xl; clear xl); rotate_left)
    | (extract_lets -underBinder +onlyGivenNames xl; clear_value xl; rename' xl => y)
    | with_reducible apply State.cleRun_keeps
    | with_reducible apply State.setReg_keeps
    | split

theorem execClePark_keeps {F : Part → Prop} {q0 s : State} [Open F .cles] (h : Keeps F q0 s) (d : Fin 4) (c : Fin 2) : KeepsOut F q0 (execClePark d c s) := by
  unfold execClePark
  repeat' first
    | with_reducible assumption
    | with_reducible apply keeps_ite
    | with_reducible apply keepsOut_next
    | (refine keepsOut_whileRuns ?_ ?_)
    | with_reducible apply keepsOut_ite
    | with_reducible apply keepsOut_fault
    | with_reducible apply State.cleRun_keeps
    | split

theorem execCleIpark_keeps {F : Part → Prop} {q0 s : State} [Open F .cles] (h : Keeps F q0 s) (d : Fin 4) (c : Fin 2) : KeepsOut F q0 (execCleIpark d c s) := by
  unfold execCleIpark
  repeat' first
    | with_reducible assumption
    | with_reducible apply keeps_ite
    | with_reducible apply keepsOut_next
    | (refine keepsOut_whileRuns ?_ ?_)
    | with_reducible apply keepsOut_ite
    | with_reducible apply keepsOut_fault
    | with_reducible apply State.cleRun_keeps
    | split

theorem execCleLut_keeps {F : Part → Prop} {q0 s : State} [Open F .regs] [Open F .cles] (h : Keeps F q0 s) (d : Fin 4) (c : Fin 2) : KeepsOut F q0 (execCleLut d c s) := by
  unfold execCleLut
  repeat' first
    | with_reducible assumption
    | with_reducible apply keeps_ite
    | with_reducible apply keepsOut_next
    | (refine keepsOut_whileRuns ?_ ?_)
    | with_reducible apply keepsOut_ite
    | with_reducible apply keepsOut_fault
    | with_reducible apply State.cleRun_keeps
    | with_reducible apply State.setReg_keeps
    | split

theorem execCleRcp_keeps {F : Part → Prop} {q0 s : State} [Open F .regs] [Open F .cles] (h : Keeps F q0 s) (d : Fin 4) (c : Fin 2) : KeepsOut F q0 (execCleRcp d c s) := by
  unfold execCleRcp
  repeat' first
    | with_reducible assumption
    | with_reducible apply keeps_ite
    | with_reducible apply keepsOut_next
    | (refine keepsOut_whileRuns ?_ ?_)
    | with_reducible apply keepsOut_ite
    | with_reducible apply keepsOut_fault
    | with_reducible apply State.cleRun_keeps
    | with_reducible apply State.setReg_keeps
    | split

theorem execCleBr_keeps {F : Part → Prop} {q0 s : State} [Open F .cles] (h : Keeps F q0 s) (d : Fin 4) (c : Fin 2) : KeepsOut F q0 (execCleBr d c s) := by
  unfold execCleBr
  repeat' first
    | with_reducible assumption
    | with_reducible apply keeps_ite
    | with_reducible apply keepsOut_next
    | (refine keepsOut_whileRuns ?_ ?_)
    | with_reducible apply keepsOut_ite
    | with_reducible apply keepsOut_fault
    | (extract_lets -underBinder +onlyGivenNames xl; refine keeps_cut (F := F) (r := q0) (x := xl) (fun hx => ?_) ?_; (focus clear_value xl; rename' xl => y); rotate_left; (focus unfold xl; clear xl); rotate_left)
    | (extract_lets -underBinder +onlyGivenNames xl; clear_value xl; rename' xl => y)
    | with_reducible apply State.modCle_keeps
    | split

theorem execCleLoop_keeps {F : Part → Prop} {q0 s : State} [Open F .cles] (h : Keeps F q0 s) (d : Fin 4) (c : Fin 2) : KeepsOut F q0 (execCleLoop d c s) := by
  unfold execCleLoop
  repeat' first
    | with_reducible assumption
    | with_reducible apply keeps_ite
    | with_reducible apply keepsOut_next
    | (refine keepsOut_whileRuns ?_ ?_)
    | with_reducible apply keepsOut_ite
    | with_reducible apply keepsOut_fault
    | (extract_lets -underBinder +onlyGivenNames xl; refine keeps_cut (F := F) (r := q0) (x := xl) (fun hx => ?_) ?_; (focus clear_value xl; rename' xl => y); rotate_left; (focus unfold xl; clear xl); rotate_left)
    | (extract_lets -underBinder +onlyGivenNames xl; clear_value xl; rename' xl => y)
    | with_reducible apply State.modCle_keeps
    | split

theorem execCleIllegalOp_keeps {F : Part → Prop} {q0 s : State} [Open F .regs] [Open F .ports] [Open F .tgs] [Open F .drives] [Open F .cles] (h : Keeps F q0 s) (d : Fin 4) (c : Fin 2) : KeepsOut F q0 (execCleIllegalOp d c s) := by
  unfold execCleIllegalOp
  repeat' first
    | with_reducible assumption
    | with_reducible apply keeps_ite
    | with_reducible apply keepsOut_next
    | (refine keepsOut_whileRuns ?_ ?_)
    | with_reducible apply keepsOut_ite
    | with_reducible apply keepsOut_fault
    | with_reducible apply State.overrun_keeps
    | with_reducible apply State.setB_keeps
    | split

theorem execCleOverrunStop_keeps {F : Part → Prop} {q0 s : State} [Open F .regs] [Open F .ports] [Open F .tgs] [Open F .drives] [Open F .cles] (h : Keeps F q0 s) (d : Fin 4) (c : Fin 2) : KeepsOut F q0 (execCleOverrunStop d c s) := by
  unfold execCleOverrunStop
  repeat' first
    | with_reducible assumption
    | with_reducible apply keeps_ite
    | with_reducible apply keepsOut_next
    | (refine keepsOut_whileRuns ?_ ?_)
    | with_reducible apply keepsOut_ite
    | with_reducible apply keepsOut_fault
    | with_reducible apply State.overrun_keeps
    | split

theorem execCleEccCorrect_keeps {F : Part → Prop} {q0 s : State} [Open F .regs] (h : Keeps F q0 s) (d : Fin 4) (c : Fin 2) : KeepsOut F q0 (execCleEccCorrect d c s) := by
  unfold execCleEccCorrect
  repeat' first
    | with_reducible assumption
    | with_reducible apply keeps_ite
    | with_reducible apply keepsOut_next
    | (refine keepsOut_whileRuns ?_ ?_)
    | with_reducible apply keepsOut_ite
    | with_reducible apply keepsOut_fault
    | with_reducible apply State.incSat_keeps
    | split

theorem State.cleRetired_keeps {F : Part → Prop} {q0 s : State} [Open F .regs] [Open F .cles] (h : Keeps F q0 s) (d : Nat) (c : Nat) : Keeps F q0 (State.cleRetired s d c) := by
  unfold State.cleRetired
  repeat' first
    | with_reducible assumption
    | with_reducible apply keeps_ite
    | (extract_lets -underBinder +onlyGivenNames xl; refine keeps_cut (F := F) (r := q0) (x := xl) (fun hx => ?_) ?_; (focus clear_value xl; rename' xl => y); rotate_left; (focus unfold xl; clear xl); rotate_left)
    | (extract_lets -underBinder +onlyGivenNames xl; clear_value xl; rename' xl => y)
    | with_reducible apply State.modCle_keeps
    | with_reducible apply State.setB_keeps
    | split

theorem State.retireCle_keeps {F : Part → Prop} {q0 s : State} [Open F .regs] [Open F .ports] [Open F .tgs] [Open F .drives] [Open F .cles] [Open F .life] [Open F .keeper] [Open F .grids] (h : Keeps F q0 s) (d : Nat) (c : Nat) : Keeps F q0 (State.retireCle s d c) := by
  unfold State.retireCle
  repeat' first
    | with_reducible assumption
    | with_reducible apply keeps_ite
    | with_reducible apply State.cleRetired_keeps
    | with_reducible apply State.refreshTrips_keeps
    | with_reducible apply State.refreshGrid_keeps
    | with_reducible apply State.recordMember_keeps
    | with_reducible apply State.recordRetire_keeps
    | split

theorem State.cleFlagsApply_keeps {F : Part → Prop} {q0 s : State} [Open F .regs] [Open F .ports] [Open F .tgs] [Open F .drives] (h : Keeps F q0 s) (d : Nat) (c : Nat) (w : Word) : Keeps F q0 (State.cleFlagsApply s d c w) := by
  unfold State.cleFlagsApply
  repeat' first
    | with_reducible assumption
    | with_reducible apply keeps_ite
    | (extract_lets -underBinder +onlyGivenNames xl; refine keeps_cut (F := F) (r := q0) (x := xl) (fun hx => ?_) ?_; (focus clear_value xl; rename' xl => y); rotate_left; (focus unfold xl; clear xl); rotate_left)
    | (extract_lets -underBinder +onlyGivenNames xl; clear_value xl; rename' xl => y)
    | with_reducible apply State.refreshTrips_keeps
    | with_reducible apply State.setReg_keeps
    | split

theorem execCleEccUncorrectable_keeps {F : Part → Prop} {q0 s : State} [Open F .regs] [Open F .ports] [Open F .tgs] [Open F .drives] [Open F .cles] [Open F .life] [Open F .keeper] [Open F .grids] (h : Keeps F q0 s) (d : Fin 4) (c : Fin 2) (m : Fin 4) (a : BitVec 12) : KeepsOut F q0 (execCleEccUncorrectable d c m a s) := by
  unfold execCleEccUncorrectable
  repeat' first
    | with_reducible assumption
    | with_reducible apply keeps_ite
    | with_reducible apply keepsOut_next
    | (refine keepsOut_whileRuns ?_ ?_)
    | with_reducible apply keepsOut_ite
    | with_reducible apply keepsOut_fault
    | with_reducible apply State.retireCle_keeps
    | with_reducible apply State.set_keeps
    | split

theorem State.cleMemWrite_keeps {F : Part → Prop} {q0 s : State} [Open F .regs] [Open F .mem] (h : Keeps F q0 s) (d : Nat) (c : Nat) (m : Nat) (w : Nat) (x : Word) : Keeps F q0 (State.cleMemWrite s d c m w x) := by
  unfold State.cleMemWrite
  repeat' first
    | with_reducible assumption
    | with_reducible apply keeps_ite
    | with_reducible apply State.setB_keeps
    | with_reducible apply State.setMemWord_keeps
    | split

theorem execCleMemoryWrite_keeps {F : Part → Prop} {q0 s : State} [Open F .regs] [Open F .mem] (h : Keeps F q0 s) (d : Fin 4) (c : Fin 2) (m : Fin 4) (w : BitVec 12) (x : Word) : KeepsOut F q0 (execCleMemoryWrite d c m w x s) := by
  unfold execCleMemoryWrite
  repeat' first
    | with_reducible assumption
    | with_reducible apply keeps_ite
    | with_reducible apply keepsOut_next
    | (refine keepsOut_whileRuns ?_ ?_)
    | with_reducible apply keepsOut_ite
    | with_reducible apply keepsOut_fault
    | with_reducible apply State.cleMemWrite_keeps
    | split

theorem execCwCommit_keeps {F : Part → Prop} {q0 s : State} [Open F .regs] (h : Keeps F q0 s) (d : Fin 4) (c : Fin 2) : KeepsOut F q0 (execCwCommit d c s) := by
  unfold execCwCommit
  repeat' first
    | with_reducible assumption
    | with_reducible apply keeps_ite
    | with_reducible apply keepsOut_next
    | (refine keepsOut_whileRuns ?_ ?_)
    | with_reducible apply keepsOut_ite
    | with_reducible apply keepsOut_fault
    | with_reducible apply State.setB_keeps
    | split

theorem State.portShadow_keeps {F : Part → Prop} {q0 s : State} [Open F .regs] (h : Keeps F q0 s) (d : Nat) (j : Nat) (f : Nat) (w : Word) : Keeps F q0 (State.portShadow s d j f w) := by
  unfold State.portShadow
  repeat' first
    | with_reducible assumption
    | with_reducible apply keeps_ite
    | (extract_lets -underBinder +onlyGivenNames xl; refine keeps_cut (F := F) (r := q0) (x := xl) (fun hx => ?_) ?_; (focus clear_value xl; rename' xl => y); rotate_left; (focus unfold xl; clear xl); rotate_left)
    | (extract_lets -underBinder +onlyGivenNames xl; clear_value xl; rename' xl => y)
    | with_reducible apply State.set_keeps
    | with_reducible apply State.setReg_keeps
    | split

theorem State.perShadow_keeps {F : Part → Prop} {q0 s : State} [Open F .regs] [Open F .groups] (h : Keeps F q0 s) (d : Nat) (k : Nat) (w : Word) : Keeps F q0 (State.perShadow s d k w) := by
  unfold State.perShadow
  repeat' first
    | with_reducible assumption
    | with_reducible apply keeps_ite
    | with_reducible apply State.staticWrite_keeps
    | with_reducible apply State.modGrp_keeps
    | with_reducible apply State.set_keeps
    | with_reducible apply State.setReg_keeps
    | split

theorem State.deliverSlot_keeps {F : Part → Prop} {q0 s : State} [Open F .regs] [Open F .groups] [Open F .cycles] (h : Keeps F q0 s) (d : Nat) (c : Nat) (k : Nat) (m : Nat) : Keeps F q0 (State.deliverSlot s d c k m) := by
  unfold State.deliverSlot
  repeat' first
    | with_reducible assumption
    | with_reducible apply keeps_ite
    | (extract_lets -underBinder +onlyGivenNames xl; refine keeps_cut (F := F) (r := q0) (x := xl) (fun hx => ?_) ?_; (focus clear_value xl; rename' xl => y); rotate_left; (focus unfold xl; clear xl); rotate_left)
    | (extract_lets -underBinder +onlyGivenNames xl; clear_value xl; rename' xl => y)
    | with_reducible apply State.perShadow_keeps
    | with_reducible apply State.portShadow_keeps
    | with_reducible apply State.rainflow_keeps
    | with_reducible apply State.setReg_keeps
    | split

theorem State.deliverCle_keeps {F : Part → Prop} {q0 s : State} [Open F .regs] [Open F .groups] [Open F .cles] [Open F .cycles] (h : Keeps F q0 s) (d : Nat) (c : Nat) (k : Nat) : Keeps F q0 (State.deliverCle s d c k) := by
  unfold State.deliverCle
  repeat' first
    | (intro i t ht)
    | with_reducible assumption
    | with_reducible apply keeps_ite
    | (extract_lets -underBinder +onlyGivenNames xl; refine keeps_cut (F := F) (r := q0) (x := xl) (fun hx => ?_) ?_; (focus clear_value xl; rename' xl => y); rotate_left; (focus unfold xl; clear xl); rotate_left)
    | (extract_lets -underBinder +onlyGivenNames xl; clear_value xl; rename' xl => y)
    | with_reducible apply State.deliverSlot_keeps
    | with_reducible apply State.modCle_keeps
    | with_reducible apply State.setB_keeps
    | with_reducible apply foldOver_keeps
    | split

theorem execWritePointDelivery_keeps {F : Part → Prop} {q0 s : State} [Open F .regs] [Open F .groups] [Open F .cles] [Open F .cycles] (h : Keeps F q0 s) (d : Fin 4) (k : Fin 4) : KeepsOut F q0 (execWritePointDelivery d k s) := by
  unfold execWritePointDelivery
  repeat' first
    | with_reducible assumption
    | with_reducible apply keeps_ite
    | with_reducible apply keepsOut_next
    | (refine keepsOut_whileRuns ?_ ?_)
    | with_reducible apply keepsOut_ite
    | with_reducible apply keepsOut_fault
    | (extract_lets -underBinder +onlyGivenNames xl; refine keeps_cut (F := F) (r := q0) (x := xl) (fun hx => ?_) ?_; (focus clear_value xl; rename' xl => y); rotate_left; (focus unfold xl; clear xl); rotate_left)
    | (extract_lets -underBinder +onlyGivenNames xl; clear_value xl; rename' xl => y)
    | with_reducible apply State.deliverCle_keeps
    | with_reducible apply State.setB_keeps
    | split

theorem State.sendReports_keeps {F : Part → Prop} {q0 s : State} [Open F .out] (h : Keeps F q0 s) (d : Nat) : Keeps F q0 (State.sendReports s d) := by
  unfold State.sendReports
  repeat' first
    | (intro i t ht)
    | with_reducible assumption
    | with_reducible apply keeps_ite
    | with_reducible apply State.event_keeps
    | with_reducible apply foldOver_keeps
    | split

end Sys2Proof.Machine
end

