-- ==== Sys2Proof/Laws/KeepsGrid.lean ====
section
/-! SUPPORT.  What the operations of Machine/Grid.lean keep. -/

set_option linter.unusedTactic false
set_option linter.unreachableTactic false
set_option linter.unusedVariables false
set_option linter.unnecessarySeqFocus false

namespace Sys2Proof.Machine

theorem State.openDecision_keeps {F : Part → Prop} {q0 s : State} [Open F .regs] [Open F .grids] (h : Keeps F q0 s) (d : Nat) : Keeps F q0 (State.openDecision s d) := by
  unfold State.openDecision
  repeat' first
    | with_reducible assumption
    | with_reducible apply keeps_ite
    | with_reducible apply State.setVote_keeps
    | with_reducible apply State.modGrid_keeps
    | split

theorem State.declareIsland_keeps {F : Part → Prop} {q0 s : State} [Open F .regs] [Open F .ports] [Open F .drives] [Open F .grids] (h : Keeps F q0 s) (d : Nat) (src : Nat) : Keeps F q0 (State.declareIsland s d src) := by
  unfold State.declareIsland
  repeat' first
    | with_reducible assumption
    | with_reducible apply keeps_ite
    | with_reducible apply State.openDecision_keeps
    | with_reducible apply State.refreshGrid_keeps
    | with_reducible apply State.setB_keeps
    | with_reducible apply State.set_keeps
    | split

theorem State.latchTripped_keeps {F : Part → Prop} {q0 s : State} [Open F .regs] [Open F .grids] (h : Keeps F q0 s) (d : Nat) : Keeps F q0 (State.latchTripped s d) := by
  unfold State.latchTripped
  repeat' first
    | with_reducible assumption
    | with_reducible apply keeps_ite
    | with_reducible apply State.openDecision_keeps
    | with_reducible apply State.incSat_keeps
    | with_reducible apply State.setB_keeps
    | split

theorem State.pushSet_keeps {F : Part → Prop} {q0 s : State} [Open F .grids] (h : Keeps F q0 s) (d : Nat) (k : Nat) (x : GsuSet) : Keeps F q0 (State.pushSet s d k x) := by
  unfold State.pushSet
  repeat' first
    | with_reducible assumption
    | with_reducible apply keeps_ite
    | (extract_lets -underBinder +onlyGivenNames xl; refine keeps_cut (F := F) (r := q0) (x := xl) (fun hx => ?_) ?_; (focus clear_value xl; rename' xl => y); rotate_left; (focus unfold xl; clear xl); rotate_left)
    | (extract_lets -underBinder +onlyGivenNames xl; clear_value xl; rename' xl => y)
    | with_reducible apply State.modGrid_keeps
    | split

theorem State.coastAdvance_keeps {F : Part → Prop} {q0 s : State} [Open F .regs] [Open F .grids] (h : Keeps F q0 s) (d : Nat) (k : Nat) : Keeps F q0 (State.coastAdvance s d k) := by
  unfold State.coastAdvance
  repeat' first
    | with_reducible assumption
    | with_reducible apply keeps_ite
    | (extract_lets -underBinder +onlyGivenNames xl; refine keeps_cut (F := F) (r := q0) (x := xl) (fun hx => ?_) ?_; (focus clear_value xl; rename' xl => y); rotate_left; (focus unfold xl; clear xl); rotate_left)
    | (extract_lets -underBinder +onlyGivenNames xl; clear_value xl; rename' xl => y)
    | with_reducible apply State.modGrid_keeps
    | with_reducible apply State.set_keeps
    | with_reducible apply State.setReg_keeps
    | split

theorem State.phaseJump_keeps {F : Part → Prop} {q0 s : State} [Open F .regs] [Open F .ports] [Open F .drives] [Open F .grids] (h : Keeps F q0 s) (d : Nat) (diff : Int) : Keeps F q0 (State.phaseJump s d diff) := by
  unfold State.phaseJump
  repeat' first
    | with_reducible assumption
    | with_reducible apply keeps_ite
    | (extract_lets -underBinder +onlyGivenNames xl; refine keeps_cut (F := F) (r := q0) (x := xl) (fun hx => ?_) ?_; (focus clear_value xl; rename' xl => y); rotate_left; (focus unfold xl; clear xl); rotate_left)
    | (extract_lets -underBinder +onlyGivenNames xl; clear_value xl; rename' xl => y)
    | with_reducible apply State.latchTripped_keeps
    | with_reducible apply State.declareIsland_keeps
    | with_reducible apply State.modGrid_keeps
    | with_reducible apply State.incSat_keeps
    | with_reducible apply State.setB_keeps
    | with_reducible apply State.set_keeps
    | split

theorem State.trackSet_keeps {F : Part → Prop} {q0 s : State} [Open F .regs] [Open F .ports] [Open F .drives] [Open F .grids] (h : Keeps F q0 s) (d : Nat) (k : Nat) (n : Nat) (x : GsuSet) : Keeps F q0 (State.trackSet s d k n x) := by
  unfold State.trackSet
  repeat' first
    | with_reducible assumption
    | with_reducible apply keeps_ite
    | (extract_lets -underBinder +onlyGivenNames xl; refine keeps_cut (F := F) (r := q0) (x := xl) (fun hx => ?_) ?_; (focus clear_value xl; rename' xl => y); rotate_left; (focus unfold xl; clear xl); rotate_left)
    | (extract_lets -underBinder +onlyGivenNames xl; clear_value xl; rename' xl => y)
    | with_reducible apply State.phaseJump_keeps
    | with_reducible apply State.modGrid_keeps
    | with_reducible apply State.set_keeps
    | with_reducible apply State.setReg_keeps
    | split

theorem State.acceptSet_keeps {F : Part → Prop} {q0 s : State} [Open F .regs] [Open F .freeCnt] [Open F .ports] [Open F .drives] [Open F .grids] (h : Keeps F q0 s) (d : Nat) (k : Nat) : Keeps F q0 (State.acceptSet s d k) := by
  unfold State.acceptSet
  repeat' first
    | with_reducible assumption
    | with_reducible apply keeps_ite
    | (extract_lets -underBinder +onlyGivenNames xl; refine keeps_cut (F := F) (r := q0) (x := xl) (fun hx => ?_) ?_; (focus clear_value xl; rename' xl => y); rotate_left; (focus unfold xl; clear xl); rotate_left)
    | (extract_lets -underBinder +onlyGivenNames xl; clear_value xl; rename' xl => y)
    | with_reducible apply State.trackSet_keeps
    | with_reducible apply State.coastAdvance_keeps
    | with_reducible apply State.pushSet_keeps
    | with_reducible apply State.modGrid_keeps
    | with_reducible apply State.fresh_keeps
    | with_reducible apply State.setB_keeps
    | with_reducible apply State.set_keeps
    | split

theorem State.discardSet_keeps {F : Part → Prop} {q0 s : State} [Open F .regs] [Open F .grids] (h : Keeps F q0 s) (d : Nat) (k : Nat) : Keeps F q0 (State.discardSet s d k) := by
  unfold State.discardSet
  repeat' first
    | with_reducible assumption
    | with_reducible apply keeps_ite
    | (extract_lets -underBinder +onlyGivenNames xl; refine keeps_cut (F := F) (r := q0) (x := xl) (fun hx => ?_) ?_; (focus clear_value xl; rename' xl => y); rotate_left; (focus unfold xl; clear xl); rotate_left)
    | (extract_lets -underBinder +onlyGivenNames xl; clear_value xl; rename' xl => y)
    | with_reducible apply State.coastAdvance_keeps
    | with_reducible apply State.pushSet_keeps
    | with_reducible apply State.modGrid_keeps
    | with_reducible apply State.setB_keeps
    | split

theorem State.checkLock_keeps {F : Part → Prop} {q0 s : State} [Open F .regs] [Open F .grids] (h : Keeps F q0 s) (d : Nat) : Keeps F q0 (State.checkLock s d) := by
  unfold State.checkLock
  repeat' first
    | with_reducible assumption
    | with_reducible apply keeps_ite
    | (extract_lets -underBinder +onlyGivenNames xl; refine keeps_cut (F := F) (r := q0) (x := xl) (fun hx => ?_) ?_; (focus clear_value xl; rename' xl => y); rotate_left; (focus unfold xl; clear xl); rotate_left)
    | (extract_lets -underBinder +onlyGivenNames xl; clear_value xl; rename' xl => y)
    | with_reducible apply State.modGrid_keeps
    | with_reducible apply State.setB_keeps
    | split

theorem State.refreshReady_keeps {F : Part → Prop} {q0 s : State} [Open F .regs] (h : Keeps F q0 s) (d : Nat) : Keeps F q0 (State.refreshReady s d) := by
  unfold State.refreshReady
  repeat' first
    | with_reducible assumption
    | with_reducible apply keeps_ite
    | (extract_lets -underBinder +onlyGivenNames xl; refine keeps_cut (F := F) (r := q0) (x := xl) (fun hx => ?_) ?_; (focus clear_value xl; rename' xl => y); rotate_left; (focus unfold xl; clear xl); rotate_left)
    | (extract_lets -underBinder +onlyGivenNames xl; clear_value xl; rename' xl => y)
    | with_reducible apply State.setB_keeps
    | split

theorem State.rcCheck_keeps {F : Part → Prop} {q0 s : State} [Open F .regs] [Open F .grids] (h : Keeps F q0 s) (d : Nat) : Keeps F q0 (State.rcCheck s d) := by
  unfold State.rcCheck
  repeat' first
    | with_reducible assumption
    | with_reducible apply keeps_ite
    | with_reducible apply State.rcRestart_keeps
    | split

theorem State.writeGridWords_keeps {F : Part → Prop} {q0 s : State} [Open F .mem] (h : Keeps F q0 s) (d : Nat) : Keeps F q0 (State.writeGridWords s d) := by
  unfold State.writeGridWords
  repeat' first
    | (intro i t ht)
    | with_reducible assumption
    | with_reducible apply keeps_ite
    | (extract_lets -underBinder +onlyGivenNames xl; refine keeps_cut (F := F) (r := q0) (x := xl) (fun hx => ?_) ?_; (focus clear_value xl; rename' xl => y); rotate_left; (focus unfold xl; clear xl); rotate_left)
    | (extract_lets -underBinder +onlyGivenNames xl; clear_value xl; rename' xl => y)
    | with_reducible apply State.setCleData_keeps
    | with_reducible apply foldOver_keeps
    | split

theorem State.gsuBoundary_keeps {F : Part → Prop} {q0 s : State} [Open F .regs] [Open F .mem] [Open F .freeCnt] [Open F .ports] [Open F .drives] [Open F .grids] (h : Keeps F q0 s) (d : Nat) (k : Nat) : Keeps F q0 (State.gsuBoundary s d k) := by
  unfold State.gsuBoundary
  repeat' first
    | with_reducible assumption
    | with_reducible apply keeps_ite
    | (extract_lets -underBinder +onlyGivenNames xl; refine keeps_cut (F := F) (r := q0) (x := xl) (fun hx => ?_) ?_; (focus clear_value xl; rename' xl => y); rotate_left; (focus unfold xl; clear xl); rotate_left)
    | (extract_lets -underBinder +onlyGivenNames xl; clear_value xl; rename' xl => y)
    | with_reducible apply State.writeGridWords_keeps
    | with_reducible apply State.rcCheck_keeps
    | with_reducible apply State.checkLock_keeps
    | with_reducible apply State.discardSet_keeps
    | with_reducible apply State.acceptSet_keeps
    | with_reducible apply State.refreshGrid_keeps
    | with_reducible apply State.modGrid_keeps
    | with_reducible apply State.setB_keeps
    | split

theorem State.refreshProbeDie_keeps {F : Part → Prop} {q0 s : State} [Open F .regs] [Open F .grids] (h : Keeps F q0 s)  : Keeps F q0 (State.refreshProbeDie s) := by
  unfold State.refreshProbeDie
  repeat' first
    | (intro i t ht)
    | with_reducible assumption
    | with_reducible apply keeps_ite
    | (extract_lets -underBinder +onlyGivenNames xl; refine keeps_cut (F := F) (r := q0) (x := xl) (fun hx => ?_) ?_; (focus clear_value xl; rename' xl => y); rotate_left; (focus unfold xl; clear xl); rotate_left)
    | (extract_lets -underBinder +onlyGivenNames xl; clear_value xl; rename' xl => y)
    | with_reducible apply State.modGrid_keeps
    | with_reducible apply State.setB_keeps
    | with_reducible apply State.set_keeps
    | with_reducible apply foldOver_keeps
    | split

theorem State.gcfgGridApply_keeps {F : Part → Prop} {q0 s : State} [Open F .regs] [Open F .ports] [Open F .drives] [Open F .grids] (h : Keeps F q0 s) (d : Nat) (w : Word) : Keeps F q0 (State.gcfgGridApply s d w) := by
  unfold State.gcfgGridApply
  repeat' first
    | with_reducible assumption
    | with_reducible apply keeps_ite
    | (extract_lets -underBinder +onlyGivenNames xl; refine keeps_cut (F := F) (r := q0) (x := xl) (fun hx => ?_) ?_; (focus clear_value xl; rename' xl => y); rotate_left; (focus unfold xl; clear xl); rotate_left)
    | (extract_lets -underBinder +onlyGivenNames xl; clear_value xl; rename' xl => y)
    | with_reducible apply State.refreshProbeDie_keeps
    | with_reducible apply State.refreshGrid_keeps
    | with_reducible apply State.rcRestart_keeps
    | with_reducible apply State.setB_keeps
    | with_reducible apply State.set_keeps
    | with_reducible apply State.setReg_keeps
    | split

theorem execGsuCoastTimeout_keeps {F : Part → Prop} {q0 s : State} [Open F .regs] [Open F .ports] [Open F .drives] [Open F .grids] (h : Keeps F q0 s) (d : Fin 4) : KeepsOut F q0 (execGsuCoastTimeout d s) := by
  unfold execGsuCoastTimeout
  repeat' first
    | with_reducible assumption
    | with_reducible apply keeps_ite
    | with_reducible apply keepsOut_next
    | (refine keepsOut_whileRuns ?_ ?_)
    | with_reducible apply keepsOut_ite
    | with_reducible apply keepsOut_fault
    | with_reducible apply State.rcCheck_keeps
    | with_reducible apply State.refreshGrid_keeps
    | with_reducible apply State.setB_keeps
    | split

theorem State.rtcfgApply_keeps {F : Part → Prop} {q0 s : State} [Open F .regs] [Open F .ports] [Open F .drives] [Open F .grids] (h : Keeps F q0 s) (d : Nat) (w : Word) : Keeps F q0 (State.rtcfgApply s d w) := by
  unfold State.rtcfgApply
  repeat' first
    | with_reducible assumption
    | with_reducible apply keeps_ite
    | (extract_lets -underBinder +onlyGivenNames xl; refine keeps_cut (F := F) (r := q0) (x := xl) (fun hx => ?_) ?_; (focus clear_value xl; rename' xl => y); rotate_left; (focus unfold xl; clear xl); rotate_left)
    | (extract_lets -underBinder +onlyGivenNames xl; clear_value xl; rename' xl => y)
    | with_reducible apply State.refreshBlock_keeps
    | with_reducible apply State.setB_keeps
    | with_reducible apply State.setReg_keeps
    | split

theorem State.curveApply_keeps {F : Part → Prop} {q0 s : State} [Open F .regs] (h : Keeps F q0 s) (d : Nat) (a : Nat) (w : Word) : Keeps F q0 (State.curveApply s d a w) := by
  unfold State.curveApply
  repeat' first
    | with_reducible assumption
    | with_reducible apply keeps_ite
    | with_reducible apply State.setB_keeps
    | with_reducible apply State.setReg_keeps
    | split

theorem execCurveWrite_keeps {F : Part → Prop} {q0 s : State} [Open F .regs] (h : Keeps F q0 s) (d : Fin 4) (c : Fin 16) (pt : Option (Fin 16)) (level : BitVec 16) (t : Word) : KeepsOut F q0 (execCurveWrite d c pt level t s) := by
  unfold execCurveWrite
  repeat' first
    | with_reducible assumption
    | with_reducible apply keeps_ite
    | with_reducible apply keepsOut_next
    | (refine keepsOut_whileRuns ?_ ?_)
    | with_reducible apply keepsOut_ite
    | with_reducible apply keepsOut_fault
    | with_reducible apply State.curveApply_keeps
    | split

theorem State.rtEvaluate_keeps {F : Part → Prop} {q0 s : State} [Open F .regs] [Open F .ports] [Open F .drives] [Open F .grids] (h : Keeps F q0 s) (d : Nat) : Keeps F q0 (State.rtEvaluate s d) := by
  unfold State.rtEvaluate
  repeat' first
    | (intro i t ht)
    | with_reducible assumption
    | with_reducible apply keeps_ite
    | (extract_lets -underBinder +onlyGivenNames xl; refine keeps_cut (F := F) (r := q0) (x := xl) (fun hx => ?_) ?_; (focus clear_value xl; rename' xl => y); rotate_left; (focus unfold xl; clear xl); rotate_left)
    | (extract_lets -underBinder +onlyGivenNames xl; clear_value xl; rename' xl => y)
    | with_reducible apply State.latchTripped_keeps
    | with_reducible apply State.refreshGrid_keeps
    | with_reducible apply State.modGrid_keeps
    | with_reducible apply State.set_keeps
    | with_reducible apply foldOver_keeps
    | with_reducible apply foldl_keeps
    | split

theorem execRtEvaluation_keeps {F : Part → Prop} {q0 s : State} [Open F .regs] [Open F .ports] [Open F .drives] [Open F .grids] (h : Keeps F q0 s) (d : Fin 4) : KeepsOut F q0 (execRtEvaluation d s) := by
  unfold execRtEvaluation
  repeat' first
    | with_reducible assumption
    | with_reducible apply keeps_ite
    | with_reducible apply keepsOut_next
    | (refine keepsOut_whileRuns ?_ ?_)
    | with_reducible apply keepsOut_ite
    | with_reducible apply keepsOut_fault
    | with_reducible apply State.rtEvaluate_keeps
    | split

theorem State.probeWindow_keeps {F : Part → Prop} {q0 s : State} [Open F .regs] [Open F .ports] [Open F .drives] [Open F .grids] (h : Keeps F q0 s) (d : Nat) (n : Nat) : Keeps F q0 (State.probeWindow s d n) := by
  unfold State.probeWindow
  repeat' first
    | with_reducible assumption
    | with_reducible apply keeps_ite
    | (extract_lets -underBinder +onlyGivenNames xl; refine keeps_cut (F := F) (r := q0) (x := xl) (fun hx => ?_) ?_; (focus clear_value xl; rename' xl => y); rotate_left; (focus unfold xl; clear xl); rotate_left)
    | (extract_lets -underBinder +onlyGivenNames xl; clear_value xl; rename' xl => y)
    | with_reducible apply State.declareIsland_keeps
    | with_reducible apply State.modGrid_keeps
    | with_reducible apply State.incSat_keeps
    | with_reducible apply State.setB_keeps
    | with_reducible apply State.set_keeps
    | with_reducible apply State.setReg_keeps
    | split

theorem State.probeEvaluate_keeps {F : Part → Prop} {q0 s : State} [Open F .regs] [Open F .freeCnt] [Open F .ports] [Open F .drives] [Open F .grids] [Open F .cycles] (h : Keeps F q0 s) (d : Nat) : Keeps F q0 (State.probeEvaluate s d) := by
  unfold State.probeEvaluate
  repeat' first
    | with_reducible assumption
    | with_reducible apply keeps_ite
    | (extract_lets -underBinder +onlyGivenNames xl; refine keeps_cut (F := F) (r := q0) (x := xl) (fun hx => ?_) ?_; (focus clear_value xl; rename' xl => y); rotate_left; (focus unfold xl; clear xl); rotate_left)
    | (extract_lets -underBinder +onlyGivenNames xl; clear_value xl; rename' xl => y)
    | with_reducible apply State.probeWindow_keeps
    | with_reducible apply State.modGrid_keeps
    | with_reducible apply State.fresh_keeps
    | with_reducible apply State.set_keeps
    | split
    | refine Keeps.cycles ?_ _

theorem State.cycleFlit_keeps {F : Part → Prop} {q0 s : State} [Open F .out] [Open F .freeCnt] (h : Keeps F q0 s) (d : Nat) : Keeps F q0 (State.cycleFlit s d) := by
  unfold State.cycleFlit
  repeat' first
    | with_reducible assumption
    | with_reducible apply keeps_ite
    | (extract_lets -underBinder +onlyGivenNames xl; refine keeps_cut (F := F) (r := q0) (x := xl) (fun hx => ?_) ?_; (focus clear_value xl; rename' xl => y); rotate_left; (focus unfold xl; clear xl); rotate_left)
    | (extract_lets -underBinder +onlyGivenNames xl; clear_value xl; rename' xl => y)
    | with_reducible apply State.fresh_keeps
    | with_reducible apply State.send_keeps
    | split

theorem State.zeroCrossing_keeps {F : Part → Prop} {q0 s : State} [Open F .regs] [Open F .out] [Open F .freeCnt] [Open F .ports] [Open F .drives] [Open F .grids] [Open F .cycles] (h : Keeps F q0 s) (d : Nat) : Keeps F q0 (State.zeroCrossing s d) := by
  unfold State.zeroCrossing
  repeat' first
    | with_reducible assumption
    | with_reducible apply keeps_ite
    | (extract_lets -underBinder +onlyGivenNames xl; refine keeps_cut (F := F) (r := q0) (x := xl) (fun hx => ?_) ?_; (focus clear_value xl; rename' xl => y); rotate_left; (focus unfold xl; clear xl); rotate_left)
    | (extract_lets -underBinder +onlyGivenNames xl; clear_value xl; rename' xl => y)
    | with_reducible apply State.cycleFlit_keeps
    | with_reducible apply State.probeEvaluate_keeps
    | with_reducible apply State.refreshReady_keeps
    | with_reducible apply State.checkLock_keeps
    | with_reducible apply State.refreshGrid_keeps
    | with_reducible apply State.modGrid_keeps
    | with_reducible apply State.incMod_keeps
    | split

theorem execGridZeroCrossing_keeps {F : Part → Prop} {q0 s : State} [Open F .regs] [Open F .out] [Open F .freeCnt] [Open F .ports] [Open F .drives] [Open F .grids] [Open F .cycles] (h : Keeps F q0 s) (d : Fin 4) : KeepsOut F q0 (execGridZeroCrossing d s) := by
  unfold execGridZeroCrossing
  repeat' first
    | with_reducible assumption
    | with_reducible apply keeps_ite
    | with_reducible apply keepsOut_next
    | (refine keepsOut_whileRuns ?_ ?_)
    | with_reducible apply keepsOut_ite
    | with_reducible apply keepsOut_fault
    | with_reducible apply State.zeroCrossing_keeps
    | split

theorem execRocofEvaluation_keeps {F : Part → Prop} {q0 s : State} [Open F .regs] [Open F .ports] [Open F .drives] [Open F .grids] (h : Keeps F q0 s) (d : Fin 4) : KeepsOut F q0 (execRocofEvaluation d s) := by
  unfold execRocofEvaluation
  repeat' first
    | with_reducible assumption
    | with_reducible apply keeps_ite
    | with_reducible apply keepsOut_next
    | (refine keepsOut_whileRuns ?_ ?_)
    | with_reducible apply keepsOut_ite
    | with_reducible apply keepsOut_fault
    | (extract_lets -underBinder +onlyGivenNames xl; refine keeps_cut (F := F) (r := q0) (x := xl) (fun hx => ?_) ?_; (focus clear_value xl; rename' xl => y); rotate_left; (focus unfold xl; clear xl); rotate_left)
    | (extract_lets -underBinder +onlyGivenNames xl; clear_value xl; rename' xl => y)
    | with_reducible apply State.declareIsland_keeps
    | with_reducible apply State.modGrid_keeps
    | split

theorem execVoteSend_keeps {F : Part → Prop} {q0 s : State} [Open F .regs] [Open F .out] [Open F .ports] [Open F .drives] [Open F .grids] [Open F .gridS] (h : Keeps F q0 s) (d : Fin 4) : KeepsOut F q0 (execVoteSend d s) := by
  unfold execVoteSend
  repeat' first
    | with_reducible assumption
    | with_reducible apply keeps_ite
    | with_reducible apply keepsOut_next
    | (refine keepsOut_whileRuns ?_ ?_)
    | with_reducible apply keepsOut_ite
    | with_reducible apply keepsOut_fault
    | (extract_lets -underBinder +onlyGivenNames xl; refine keeps_cut (F := F) (r := q0) (x := xl) (fun hx => ?_) ?_; (focus clear_value xl; rename' xl => y); rotate_left; (focus unfold xl; clear xl); rotate_left)
    | (extract_lets -underBinder +onlyGivenNames xl; clear_value xl; rename' xl => y)
    | with_reducible apply State.refreshGrid_keeps
    | with_reducible apply State.event_keeps
    | with_reducible apply State.setReg_keeps
    | split
    | refine Keeps.gridS ?_ _

theorem execVoteOpenDelay_keeps {F : Part → Prop} {q0 s : State} [Open F .regs] [Open F .ports] [Open F .drives] [Open F .grids] (h : Keeps F q0 s) (d : Fin 4) : KeepsOut F q0 (execVoteOpenDelay d s) := by
  unfold execVoteOpenDelay
  repeat' first
    | with_reducible assumption
    | with_reducible apply keeps_ite
    | with_reducible apply keepsOut_next
    | (refine keepsOut_whileRuns ?_ ?_)
    | with_reducible apply keepsOut_ite
    | with_reducible apply keepsOut_fault
    | (extract_lets -underBinder +onlyGivenNames xl; refine keeps_cut (F := F) (r := q0) (x := xl) (fun hx => ?_) ?_; (focus clear_value xl; rename' xl => y); rotate_left; (focus unfold xl; clear xl); rotate_left)
    | (extract_lets -underBinder +onlyGivenNames xl; clear_value xl; rename' xl => y)
    | with_reducible apply State.refreshGrid_keeps
    | with_reducible apply State.setVote_keeps
    | with_reducible apply State.modGrid_keeps
    | split

theorem State.reportGcon_keeps {F : Part → Prop} {q0 s : State} [Open F .regs] [Open F .ports] [Open F .drives] [Open F .grids] (h : Keeps F q0 s)  : Keeps F q0 (State.reportGcon s) := by
  unfold State.reportGcon
  repeat' first
    | (intro i t ht)
    | with_reducible assumption
    | with_reducible apply keeps_ite
    | (extract_lets -underBinder +onlyGivenNames xl; refine keeps_cut (F := F) (r := q0) (x := xl) (fun hx => ?_) ?_; (focus clear_value xl; rename' xl => y); rotate_left; (focus unfold xl; clear xl); rotate_left)
    | (extract_lets -underBinder +onlyGivenNames xl; clear_value xl; rename' xl => y)
    | with_reducible apply State.refreshGrid_keeps
    | with_reducible apply State.setB_keeps
    | with_reducible apply foldOver_keeps
    | split

theorem State.gconUpdate_keeps {F : Part → Prop} {q0 s : State} [Open F .regs] [Open F .ports] [Open F .drives] [Open F .grids] (h : Keeps F q0 s)  : Keeps F q0 (State.gconUpdate s) := by
  unfold State.gconUpdate
  repeat' first
    | with_reducible assumption
    | with_reducible apply keeps_ite
    | (extract_lets -underBinder +onlyGivenNames xl; refine keeps_cut (F := F) (r := q0) (x := xl) (fun hx => ?_) ?_; (focus clear_value xl; rename' xl => y); rotate_left; (focus unfold xl; clear xl); rotate_left)
    | (extract_lets -underBinder +onlyGivenNames xl; clear_value xl; rename' xl => y)
    | with_reducible apply State.reportGcon_keeps
    | with_reducible apply State.setB_keeps
    | split

theorem execGconUpdate_keeps {F : Part → Prop} {q0 s : State} [Open F .regs] [Open F .ports] [Open F .drives] [Open F .grids] (h : Keeps F q0 s)  : KeepsOut F q0 (execGconUpdate s) := by
  unfold execGconUpdate
  repeat' first
    | with_reducible assumption
    | with_reducible apply keeps_ite
    | with_reducible apply keepsOut_next
    | (refine keepsOut_whileRuns ?_ ?_)
    | with_reducible apply keepsOut_ite
    | with_reducible apply keepsOut_fault
    | with_reducible apply State.gconUpdate_keeps
    | split

theorem execVoteMissingTimeout_keeps {F : Part → Prop} {q0 s : State} [Open F .gridS] (h : Keeps F q0 s) (d : Fin 4) : KeepsOut F q0 (execVoteMissingTimeout d s) := by
  unfold execVoteMissingTimeout
  repeat' first
    | with_reducible assumption
    | with_reducible apply keeps_ite
    | with_reducible apply keepsOut_next
    | (refine keepsOut_whileRuns ?_ ?_)
    | with_reducible apply keepsOut_ite
    | with_reducible apply keepsOut_fault
    | split
    | refine Keeps.gridS ?_ _

theorem execGfbChange_keeps {F : Part → Prop} {q0 s : State} [Open F .regs] [Open F .ports] [Open F .drives] [Open F .grids] (h : Keeps F q0 s) (which : Bool) (level : Bool) : KeepsOut F q0 (execGfbChange which level s) := by
  unfold execGfbChange
  repeat' first
    | with_reducible assumption
    | with_reducible apply keeps_ite
    | with_reducible apply keepsOut_next
    | (refine keepsOut_whileRuns ?_ ?_)
    | with_reducible apply keepsOut_ite
    | with_reducible apply keepsOut_fault
    | with_reducible apply State.reportGcon_keeps
    | with_reducible apply State.setB_keeps
    | split

theorem execGconWeld_keeps {F : Part → Prop} {q0 s : State} [Open F .regs] [Open F .ports] [Open F .drives] [Open F .life] [Open F .keeper] [Open F .grids] (h : Keeps F q0 s) (which : Bool) : KeepsOut F q0 (execGconWeld which s) := by
  unfold execGconWeld
  repeat' first
    | with_reducible assumption
    | with_reducible apply keeps_ite
    | with_reducible apply keepsOut_next
    | (refine keepsOut_whileRuns ?_ ?_)
    | with_reducible apply keepsOut_ite
    | with_reducible apply keepsOut_fault
    | (extract_lets -underBinder +onlyGivenNames xl; refine keeps_cut (F := F) (r := q0) (x := xl) (fun hx => ?_) ?_; (focus clear_value xl; rename' xl => y); rotate_left; (focus unfold xl; clear xl); rotate_left)
    | (extract_lets -underBinder +onlyGivenNames xl; clear_value xl; rename' xl => y)
    | with_reducible apply State.reportGcon_keeps
    | with_reducible apply State.enterFault_keeps
    | with_reducible apply State.setB_keeps
    | split

theorem execRcSecond_keeps {F : Part → Prop} {q0 s : State} [Open F .regs] [Open F .grids] (h : Keeps F q0 s) (d : Fin 4) : KeepsOut F q0 (execRcSecond d s) := by
  unfold execRcSecond
  repeat' first
    | with_reducible assumption
    | with_reducible apply keeps_ite
    | with_reducible apply keepsOut_next
    | (refine keepsOut_whileRuns ?_ ?_)
    | with_reducible apply keepsOut_ite
    | with_reducible apply keepsOut_fault
    | (extract_lets -underBinder +onlyGivenNames xl; refine keeps_cut (F := F) (r := q0) (x := xl) (fun hx => ?_) ?_; (focus clear_value xl; rename' xl => y); rotate_left; (focus unfold xl; clear xl); rotate_left)
    | (extract_lets -underBinder +onlyGivenNames xl; clear_value xl; rename' xl => y)
    | with_reducible apply State.rcCheck_keeps
    | with_reducible apply State.refreshReady_keeps
    | with_reducible apply State.modGrid_keeps
    | with_reducible apply State.incSat_keeps
    | split

theorem State.connect_keeps {F : Part → Prop} {q0 s : State} [Open F .regs] [Open F .ports] [Open F .drives] [Open F .grids] (h : Keeps F q0 s) (d : Nat) : Keeps F q0 (State.connect s d) := by
  unfold State.connect
  repeat' first
    | with_reducible assumption
    | with_reducible apply keeps_ite
    | (extract_lets -underBinder +onlyGivenNames xl; refine keeps_cut (F := F) (r := q0) (x := xl) (fun hx => ?_) ?_; (focus clear_value xl; rename' xl => y); rotate_left; (focus unfold xl; clear xl); rotate_left)
    | (extract_lets -underBinder +onlyGivenNames xl; clear_value xl; rename' xl => y)
    | with_reducible apply State.refreshGrid_keeps
    | with_reducible apply State.setVote_keeps
    | with_reducible apply State.modGrid_keeps
    | with_reducible apply State.setB_keeps
    | with_reducible apply State.set_keeps
    | split

theorem execConnect_keeps {F : Part → Prop} {q0 s : State} [Open F .regs] [Open F .ports] [Open F .drives] [Open F .grids] (h : Keeps F q0 s) (d : Fin 4) : KeepsOut F q0 (execConnect d s) := by
  unfold execConnect
  repeat' first
    | with_reducible assumption
    | with_reducible apply keeps_ite
    | with_reducible apply keepsOut_next
    | (refine keepsOut_whileRuns ?_ ?_)
    | with_reducible apply keepsOut_ite
    | with_reducible apply keepsOut_fault
    | with_reducible apply State.connect_keeps
    | split

theorem State.disconnect_keeps {F : Part → Prop} {q0 s : State} [Open F .regs] [Open F .ports] [Open F .drives] [Open F .grids] (h : Keeps F q0 s) (d : Nat) : Keeps F q0 (State.disconnect s d) := by
  unfold State.disconnect
  repeat' first
    | with_reducible assumption
    | with_reducible apply keeps_ite
    | with_reducible apply State.openDecision_keeps
    | with_reducible apply State.refreshGrid_keeps
    | with_reducible apply State.modGrid_keeps
    | split

theorem execDisconnect_keeps {F : Part → Prop} {q0 s : State} [Open F .regs] [Open F .ports] [Open F .drives] [Open F .grids] (h : Keeps F q0 s) (d : Fin 4) : KeepsOut F q0 (execDisconnect d s) := by
  unfold execDisconnect
  repeat' first
    | with_reducible assumption
    | with_reducible apply keeps_ite
    | with_reducible apply keepsOut_next
    | (refine keepsOut_whileRuns ?_ ?_)
    | with_reducible apply keepsOut_ite
    | with_reducible apply keepsOut_fault
    | with_reducible apply State.disconnect_keeps
    | split

end Sys2Proof.Machine
end

