-- ==== Sys2Proof/Laws/KeepsMetering.lean ====
section
/-! SUPPORT.  What the operations of Machine/Metering.lean keep. -/

set_option linter.unusedTactic false
set_option linter.unreachableTactic false
set_option linter.unusedVariables false
set_option linter.unnecessarySeqFocus false

namespace Sys2Proof.Machine

theorem State.modMeter_keeps {F : Part → Prop} {q0 s : State} [Open F .meters] (h : Keeps F q0 s) (m : Nat) (f : MeterPoint → MeterPoint) : Keeps F q0 (State.modMeter s m f) := by
  unfold State.modMeter
  repeat' first
    | with_reducible assumption
    | with_reducible apply keeps_ite
    | split
    | refine Keeps.meters ?_ _

theorem State.modMeterAcc_keeps {F : Part → Prop} {q0 s : State} [Open F .meters] (h : Keeps F q0 s) (m : Nat) (f : MeterAcc → MeterAcc) : Keeps F q0 (State.modMeterAcc s m f) := by
  unfold State.modMeterAcc
  repeat' first
    | with_reducible assumption
    | with_reducible apply keeps_ite
    | with_reducible apply State.modMeter_keeps
    | split

theorem State.recordFlag_keeps {F : Part → Prop} {q0 s : State} [Open F .regs] [Open F .meters] (h : Keeps F q0 s) (m : Nat) (b : Nat) : Keeps F q0 (State.recordFlag s m b) := by
  unfold State.recordFlag
  repeat' first
    | with_reducible assumption
    | with_reducible apply keeps_ite
    | with_reducible apply State.modMeterAcc_keeps
    | with_reducible apply State.setReg_keeps
    | split

theorem State.meterUnsync_keeps {F : Part → Prop} {q0 s : State} [Open F .regs] [Open F .meters] (h : Keeps F q0 s)  : Keeps F q0 (State.meterUnsync s) := by
  unfold State.meterUnsync
  repeat' first
    | (intro i t ht)
    | with_reducible assumption
    | with_reducible apply keeps_ite
    | with_reducible apply State.recordFlag_keeps
    | with_reducible apply foldOver_keeps
    | split

theorem State.takeSeqs_keeps {F : Part → Prop} {q0 s : State} [Open F .regs] [Open F .meters] (h : Keeps F q0 s) (m : Nat) (lead : Nat) (l : List MeterSeq) (time : Int) : Keeps F q0 (State.takeSeqs s m lead l time) := by
  unfold State.takeSeqs
  repeat' first
    | (intro i t ht)
    | with_reducible assumption
    | with_reducible apply keeps_ite
    | (extract_lets -underBinder +onlyGivenNames xl; refine keeps_cut (F := F) (r := q0) (x := xl) (fun hx => ?_) ?_; (focus clear_value xl; rename' xl => y); rotate_left; (focus unfold xl; clear xl); rotate_left)
    | (extract_lets -underBinder +onlyGivenNames xl; clear_value xl; rename' xl => y)
    | with_reducible apply State.modMeter_keeps
    | with_reducible apply State.setB_keeps
    | with_reducible apply foldl_keeps
    | split

theorem State.leadStamp_keeps {F : Part → Prop} {q0 s : State} [Open F .meters] (h : Keeps F q0 s) (m : Nat) (st : MeterStamp) : Keeps F q0 (State.leadStamp s m st) := by
  unfold State.leadStamp
  repeat' first
    | with_reducible assumption
    | with_reducible apply keeps_ite
    | (extract_lets -underBinder +onlyGivenNames xl; refine keeps_cut (F := F) (r := q0) (x := xl) (fun hx => ?_) ?_; (focus clear_value xl; rename' xl => y); rotate_left; (focus unfold xl; clear xl); rotate_left)
    | (extract_lets -underBinder +onlyGivenNames xl; clear_value xl; rename' xl => y)
    | with_reducible apply State.modMeter_keeps
    | split

theorem State.accAdd_keeps {F : Part → Prop} {q0 s : State} [Open F .regs] [Open F .meters] (h : Keeps F q0 s) (m : Nat) (a : Nat) (x : Rat) : Keeps F q0 (State.accAdd s m a x) := by
  unfold State.accAdd
  repeat' first
    | with_reducible assumption
    | with_reducible apply keeps_ite
    | (extract_lets -underBinder +onlyGivenNames xl; refine keeps_cut (F := F) (r := q0) (x := xl) (fun hx => ?_) ?_; (focus clear_value xl; rename' xl => y); rotate_left; (focus unfold xl; clear xl); rotate_left)
    | (extract_lets -underBinder +onlyGivenNames xl; clear_value xl; rename' xl => y)
    | with_reducible apply State.modMeterAcc_keeps
    | with_reducible apply State.set_keeps
    | split

theorem State.intvAdd_keeps {F : Part → Prop} {q0 s : State} [Open F .regs] [Open F .meters] (h : Keeps F q0 s) (m : Nat) (a : Nat) (x : Rat) : Keeps F q0 (State.intvAdd s m a x) := by
  unfold State.intvAdd
  repeat' first
    | with_reducible assumption
    | with_reducible apply keeps_ite
    | (extract_lets -underBinder +onlyGivenNames xl; refine keeps_cut (F := F) (r := q0) (x := xl) (fun hx => ?_) ?_; (focus clear_value xl; rename' xl => y); rotate_left; (focus unfold xl; clear xl); rotate_left)
    | (extract_lets -underBinder +onlyGivenNames xl; clear_value xl; rename' xl => y)
    | with_reducible apply State.modMeterAcc_keeps
    | with_reducible apply State.setBit_keeps
    | with_reducible apply State.set_keeps
    | split

theorem State.intvSums_keeps {F : Part → Prop} {q0 s : State} [Open F .regs] [Open F .meters] (h : Keeps F q0 s) (m : Nat) (x : List Rat) : Keeps F q0 (State.intvSums s m x) := by
  unfold State.intvSums
  repeat' first
    | (intro i t ht)
    | with_reducible assumption
    | with_reducible apply keeps_ite
    | with_reducible apply State.intvAdd_keeps
    | with_reducible apply foldOver_keeps
    | split

theorem State.accSums_keeps {F : Part → Prop} {q0 s : State} [Open F .regs] [Open F .meters] (h : Keeps F q0 s) (m : Nat) (x : List Rat) : Keeps F q0 (State.accSums s m x) := by
  unfold State.accSums
  repeat' first
    | (intro i t ht)
    | with_reducible assumption
    | with_reducible apply keeps_ite
    | with_reducible apply State.accAdd_keeps
    | with_reducible apply foldOver_keeps
    | split

theorem State.meterCommit_keeps {F : Part → Prop} {q0 s : State} [Open F .regs] [Open F .keeper] [Open F .meters] (h : Keeps F q0 s) (m : Nat) : Keeps F q0 (State.meterCommit s m) := by
  unfold State.meterCommit
  repeat' first
    | with_reducible assumption
    | with_reducible apply keeps_ite
    | (extract_lets -underBinder +onlyGivenNames xl; refine keeps_cut (F := F) (r := q0) (x := xl) (fun hx => ?_) ?_; (focus clear_value xl; rename' xl => y); rotate_left; (focus unfold xl; clear xl); rotate_left)
    | (extract_lets -underBinder +onlyGivenNames xl; clear_value xl; rename' xl => y)
    | with_reducible apply State.modMeter_keeps
    | with_reducible apply State.burstRequest_keeps
    | split

theorem State.intervalClose_keeps {F : Part → Prop} {q0 s : State} [Open F .regs] [Open F .mem] [Open F .meters] (h : Keeps F q0 s) (m : Nat) : Keeps F q0 (State.intervalClose s m) := by
  unfold State.intervalClose
  repeat' first
    | (intro i t ht)
    | with_reducible assumption
    | with_reducible apply keeps_ite
    | (extract_lets -underBinder +onlyGivenNames xl; refine keeps_cut (F := F) (r := q0) (x := xl) (fun hx => ?_) ?_; (focus clear_value xl; rename' xl => y); rotate_left; (focus unfold xl; clear xl); rotate_left)
    | (extract_lets -underBinder +onlyGivenNames xl; clear_value xl; rename' xl => y)
    | with_reducible apply State.modMeterAcc_keeps
    | with_reducible apply foldOver_keeps
    | with_reducible apply State.setReg_keeps
    | split
    | (refine Keeps.mem ?_ _ ?_; rotate_left; (focus first | exact Memory.wf_writeBytes _ _ _ | exact fun hm => Memory.wf_writeBytes _ _ _ (Memory.wf_clear _ _ _ hm) | exact fun hm => Memory.wf_writes _ _ (Memory.wf_clear _ _ _ hm)))

theorem State.lastingFlags_keeps {F : Part → Prop} {q0 s : State} [Open F .regs] [Open F .meters] (h : Keeps F q0 s) (m : Nat) : Keeps F q0 (State.lastingFlags s m) := by
  unfold State.lastingFlags
  repeat' first
    | with_reducible assumption
    | with_reducible apply keeps_ite
    | (extract_lets -underBinder +onlyGivenNames xl; refine keeps_cut (F := F) (r := q0) (x := xl) (fun hx => ?_) ?_; (focus clear_value xl; rename' xl => y); rotate_left; (focus unfold xl; clear xl); rotate_left)
    | (extract_lets -underBinder +onlyGivenNames xl; clear_value xl; rename' xl => y)
    | with_reducible apply State.recordFlag_keeps
    | split

theorem State.intervalOpen_keeps {F : Part → Prop} {q0 s : State} [Open F .regs] [Open F .meters] (h : Keeps F q0 s) (m : Nat) (start : Nat) (l : Nat) : Keeps F q0 (State.intervalOpen s m start l) := by
  unfold State.intervalOpen
  repeat' first
    | with_reducible assumption
    | with_reducible apply keeps_ite
    | with_reducible apply State.lastingFlags_keeps
    | with_reducible apply State.modMeterAcc_keeps
    | with_reducible apply State.setReg_keeps
    | split

theorem State.boundary_keeps {F : Part → Prop} {q0 s : State} [Open F .regs] [Open F .mem] [Open F .meters] (h : Keeps F q0 s) (m : Nat) : Keeps F q0 (State.boundary s m) := by
  unfold State.boundary
  repeat' first
    | with_reducible assumption
    | with_reducible apply keeps_ite
    | (extract_lets -underBinder +onlyGivenNames xl; refine keeps_cut (F := F) (r := q0) (x := xl) (fun hx => ?_) ?_; (focus clear_value xl; rename' xl => y); rotate_left; (focus unfold xl; clear xl); rotate_left)
    | (extract_lets -underBinder +onlyGivenNames xl; clear_value xl; rename' xl => y)
    | with_reducible apply State.intervalOpen_keeps
    | with_reducible apply State.intervalClose_keeps
    | split

theorem State.awaitLen_keeps {F : Part → Prop} {q0 s : State} [Open F .meters] (h : Keeps F q0 s) (m : Nat) : Keeps F q0 (State.awaitLen s m) := by
  unfold State.awaitLen
  repeat' first
    | with_reducible assumption
    | with_reducible apply keeps_ite
    | (extract_lets -underBinder +onlyGivenNames xl; refine keeps_cut (F := F) (r := q0) (x := xl) (fun hx => ?_) ?_; (focus clear_value xl; rename' xl => y); rotate_left; (focus unfold xl; clear xl); rotate_left)
    | (extract_lets -underBinder +onlyGivenNames xl; clear_value xl; rename' xl => y)
    | with_reducible apply State.modMeterAcc_keeps
    | split

theorem State.intcfgApply_keeps {F : Part → Prop} {q0 s : State} [Open F .regs] [Open F .meters] (h : Keeps F q0 s) (m : Nat) (w : Word) : Keeps F q0 (State.intcfgApply s m w) := by
  unfold State.intcfgApply
  repeat' first
    | with_reducible assumption
    | with_reducible apply keeps_ite
    | (extract_lets -underBinder +onlyGivenNames xl; refine keeps_cut (F := F) (r := q0) (x := xl) (fun hx => ?_) ?_; (focus clear_value xl; rename' xl => y); rotate_left; (focus unfold xl; clear xl); rotate_left)
    | (extract_lets -underBinder +onlyGivenNames xl; clear_value xl; rename' xl => y)
    | with_reducible apply State.awaitLen_keeps
    | with_reducible apply State.modMeter_keeps
    | with_reducible apply State.setReg_keeps
    | split

theorem State.publishWindow_keeps {F : Part → Prop} {q0 s : State} [Open F .regs] (h : Keeps F q0 s) (m : Nat) (w : WindowMeans) (len : Rat) : Keeps F q0 (State.publishWindow s m w len) := by
  unfold State.publishWindow
  repeat' first
    | (intro i t ht)
    | with_reducible assumption
    | with_reducible apply keeps_ite
    | (extract_lets -underBinder +onlyGivenNames xl; refine keeps_cut (F := F) (r := q0) (x := xl) (fun hx => ?_) ?_; (focus clear_value xl; rename' xl => y); rotate_left; (focus unfold xl; clear xl); rotate_left)
    | (extract_lets -underBinder +onlyGivenNames xl; clear_value xl; rename' xl => y)
    | with_reducible apply State.setSat_keeps
    | with_reducible apply State.set_keeps
    | with_reducible apply foldOver_keeps
    | split

theorem State.countDirection_keeps {F : Part → Prop} {q0 s : State} [Open F .regs] [Open F .meters] (h : Keeps F q0 s) (m : Nat) (net : Rat) : Keeps F q0 (State.countDirection s m net) := by
  unfold State.countDirection
  repeat' first
    | with_reducible assumption
    | with_reducible apply keeps_ite
    | (extract_lets -underBinder +onlyGivenNames xl; refine keeps_cut (F := F) (r := q0) (x := xl) (fun hx => ?_) ?_; (focus clear_value xl; rename' xl => y); rotate_left; (focus unfold xl; clear xl); rotate_left)
    | (extract_lets -underBinder +onlyGivenNames xl; clear_value xl; rename' xl => y)
    | with_reducible apply State.modMeterAcc_keeps
    | with_reducible apply State.incSat_keeps
    | with_reducible apply State.setB_keeps
    | split

theorem State.cycleFund_keeps {F : Part → Prop} {q0 s : State} [Open F .regs] (h : Keeps F q0 s) (m : Nat) (l : List MeterStamp) (t0 : Rat) (len : Rat) : Keeps F q0 (State.cycleFund s m l t0 len).2 := by
  unfold State.cycleFund
  repeat' first
    | with_reducible assumption
    | with_reducible apply keeps_ite
    | with_reducible apply keeps_ite_snd
    | (extract_lets -underBinder +onlyGivenNames xl; refine keeps_cut (F := F) (r := q0) (x := xl) (fun hx => ?_) ?_; (focus clear_value xl; rename' xl => y); rotate_left; (focus unfold xl; clear xl); rotate_left)
    | (extract_lets -underBinder +onlyGivenNames xl; clear_value xl; rename' xl => y)
    | with_reducible apply State.setSat_keeps
    | split
    | dsimp only

theorem State.sift_keeps {F : Part → Prop} {q0 s : State} [Open F .regs] [Open F .meters] (h : Keeps F q0 s) (m : Nat) (len : Rat) (xs : List (MeterStamp × Rat)) : Keeps F q0 (State.sift s m len xs).2 := by
  unfold State.sift
  repeat' first
    | with_reducible assumption
    | with_reducible apply keeps_ite
    | with_reducible apply keeps_ite_snd
    | (extract_lets -underBinder +onlyGivenNames xl; refine keeps_cut (F := F) (r := q0) (x := xl) (fun hx => ?_) ?_; (focus clear_value xl; rename' xl => y); rotate_left; (focus unfold xl; clear xl); rotate_left)
    | (extract_lets -underBinder +onlyGivenNames xl; clear_value xl; rename' xl => y)
    | with_reducible apply State.modMeter_keeps
    | with_reducible apply State.setB_keeps
    | with_reducible apply State.set_keeps
    | split
    | dsimp only

theorem State.siftFlags_keeps {F : Part → Prop} {q0 s : State} [Open F .regs] [Open F .meters] (h : Keeps F q0 s) (m : Nat) (len : Rat) (xs : List (MeterStamp × Rat)) : Keeps F q0 (State.siftFlags s m len xs) := by
  unfold State.siftFlags
  repeat' first
    | with_reducible assumption
    | with_reducible apply keeps_ite
    | (extract_lets -underBinder +onlyGivenNames xl; refine keeps_cut (F := F) (r := q0) (x := xl) (fun hx => ?_) ?_; (focus clear_value xl; rename' xl => y); rotate_left; (focus unfold xl; clear xl); rotate_left)
    | (extract_lets -underBinder +onlyGivenNames xl; clear_value xl; rename' xl => y)
    | with_reducible apply State.recordFlag_keeps
    | split

theorem State.commitWindow_keeps {F : Part → Prop} {q0 s : State} [Open F .regs] [Open F .mem] [Open F .keeper] [Open F .meters] (h : Keeps F q0 s) (m : Nat) (raw : List (MeterStamp × Rat)) (xs : List (MeterStamp × Rat)) (fund : Option Rat) (endNs : Int) (len : Rat) (hold : Bool) : Keeps F q0 (State.commitWindow s m raw xs fund endNs len hold) := by
  unfold State.commitWindow
  repeat' first
    | with_reducible assumption
    | with_reducible apply keeps_ite
    | (extract_lets -underBinder +onlyGivenNames xl; refine keeps_cut (F := F) (r := q0) (x := xl) (fun hx => ?_) ?_; (focus clear_value xl; rename' xl => y); rotate_left; (focus unfold xl; clear xl); rotate_left)
    | (extract_lets -underBinder +onlyGivenNames xl; clear_value xl; rename' xl => y)
    | with_reducible apply State.siftFlags_keeps
    | with_reducible apply State.cycleFund_keeps
    | with_reducible apply State.countDirection_keeps
    | with_reducible apply State.publishWindow_keeps
    | with_reducible apply State.boundary_keeps
    | with_reducible apply State.meterCommit_keeps
    | with_reducible apply State.accSums_keeps
    | with_reducible apply State.intvSums_keeps
    | with_reducible apply State.recordFlag_keeps
    | with_reducible apply State.modMeterAcc_keeps
    | with_reducible apply State.incMod_keeps
    | with_reducible apply State.setB_keeps
    | split

theorem State.joinPre_keeps {F : Part → Prop} {q0 s : State} [Open F .regs] [Open F .meters] (h : Keeps F q0 s) (m : Nat) : Keeps F q0 (State.joinPre s m) := by
  unfold State.joinPre
  repeat' first
    | with_reducible assumption
    | with_reducible apply keeps_ite
    | (extract_lets -underBinder +onlyGivenNames xl; refine keeps_cut (F := F) (r := q0) (x := xl) (fun hx => ?_) ?_; (focus clear_value xl; rename' xl => y); rotate_left; (focus unfold xl; clear xl); rotate_left)
    | (extract_lets -underBinder +onlyGivenNames xl; clear_value xl; rename' xl => y)
    | with_reducible apply State.intvSums_keeps
    | with_reducible apply State.recordFlag_keeps
    | with_reducible apply State.modMeterAcc_keeps
    | with_reducible apply State.set_keeps
    | with_reducible apply State.setReg_keeps
    | split

theorem State.settleInterval_keeps {F : Part → Prop} {q0 s : State} [Open F .regs] [Open F .mem] [Open F .keeper] [Open F .meters] (h : Keeps F q0 s) (m : Nat) (utc : Nat) (opens : Bool) : Keeps F q0 (State.settleInterval s m utc opens) := by
  unfold State.settleInterval
  repeat' first
    | with_reducible assumption
    | with_reducible apply keeps_ite
    | (extract_lets -underBinder +onlyGivenNames xl; refine keeps_cut (F := F) (r := q0) (x := xl) (fun hx => ?_) ?_; (focus clear_value xl; rename' xl => y); rotate_left; (focus unfold xl; clear xl); rotate_left)
    | (extract_lets -underBinder +onlyGivenNames xl; clear_value xl; rename' xl => y)
    | with_reducible apply State.intervalOpen_keeps
    | with_reducible apply State.intervalClose_keeps
    | with_reducible apply State.meterCommit_keeps
    | with_reducible apply State.recordFlag_keeps
    | split

theorem State.meterStart_keeps {F : Part → Prop} {q0 s : State} [Open F .regs] [Open F .mem] [Open F .keeper] [Open F .meters] (h : Keeps F q0 s) (m : Nat) (endNs : Int) : Keeps F q0 (State.meterStart s m endNs) := by
  unfold State.meterStart
  repeat' first
    | with_reducible assumption
    | with_reducible apply keeps_ite
    | (extract_lets -underBinder +onlyGivenNames xl; refine keeps_cut (F := F) (r := q0) (x := xl) (fun hx => ?_) ?_; (focus clear_value xl; rename' xl => y); rotate_left; (focus unfold xl; clear xl); rotate_left)
    | (extract_lets -underBinder +onlyGivenNames xl; clear_value xl; rename' xl => y)
    | with_reducible apply State.settleInterval_keeps
    | with_reducible apply State.joinPre_keeps
    | with_reducible apply State.recordFlag_keeps
    | with_reducible apply State.modMeter_keeps
    | with_reducible apply State.setB_keeps
    | split

theorem State.windowClose_keeps {F : Part → Prop} {q0 s : State} [Open F .regs] [Open F .mem] [Open F .keeper] [Open F .meters] (h : Keeps F q0 s) (m : Nat) (cyc : Option Rat) (endNs : Int) (len : Rat) : Keeps F q0 (State.windowClose s m cyc endNs len) := by
  unfold State.windowClose
  repeat' first
    | with_reducible assumption
    | with_reducible apply keeps_ite
    | (extract_lets -underBinder +onlyGivenNames xl; refine keeps_cut (F := F) (r := q0) (x := xl) (fun hx => ?_) ?_; (focus clear_value xl; rename' xl => y); rotate_left; (focus unfold xl; clear xl); rotate_left)
    | (extract_lets -underBinder +onlyGivenNames xl; clear_value xl; rename' xl => y)
    | with_reducible apply State.commitWindow_keeps
    | with_reducible apply State.sift_keeps
    | with_reducible apply State.recordFlag_keeps
    | with_reducible apply State.modMeter_keeps
    | split

theorem State.closeGap_keeps {F : Part → Prop} {q0 s : State} [Open F .regs] [Open F .mem] [Open F .keeper] [Open F .meters] (h : Keeps F q0 s) (m : Nat) : Keeps F q0 (State.closeGap s m) := by
  unfold State.closeGap
  repeat' first
    | with_reducible assumption
    | with_reducible apply keeps_ite
    | with_reducible apply State.intervalClose_keeps
    | with_reducible apply State.meterCommit_keeps
    | with_reducible apply State.recordFlag_keeps
    | split

theorem State.meterStop_keeps {F : Part → Prop} {q0 s : State} [Open F .regs] [Open F .mem] [Open F .keeper] [Open F .meters] (h : Keeps F q0 s) (m : Nat) : Keeps F q0 (State.meterStop s m) := by
  unfold State.meterStop
  repeat' first
    | with_reducible assumption
    | with_reducible apply keeps_ite
    | (extract_lets -underBinder +onlyGivenNames xl; refine keeps_cut (F := F) (r := q0) (x := xl) (fun hx => ?_) ?_; (focus clear_value xl; rename' xl => y); rotate_left; (focus unfold xl; clear xl); rotate_left)
    | (extract_lets -underBinder +onlyGivenNames xl; clear_value xl; rename' xl => y)
    | with_reducible apply State.closeGap_keeps
    | with_reducible apply State.recordFlag_keeps
    | with_reducible apply State.modMeter_keeps
    | with_reducible apply State.setB_keeps
    | split

theorem State.meterReload_keeps {F : Part → Prop} {q0 s : State} [Open F .regs] [Open F .meters] (h : Keeps F q0 s) (m : Nat) (cfg : MeterCfg) : Keeps F q0 (State.meterReload s m cfg) := by
  unfold State.meterReload
  repeat' first
    | with_reducible assumption
    | with_reducible apply keeps_ite
    | with_reducible apply State.recordFlag_keeps
    | with_reducible apply State.modMeter_keeps
    | split

theorem State.windowEnd_keeps {F : Part → Prop} {q0 s : State} [Open F .regs] [Open F .mem] [Open F .keeper] [Open F .meters] (h : Keeps F q0 s) (m : Nat) (x : MeterDue) : Keeps F q0 (State.windowEnd s m x) := by
  unfold State.windowEnd
  repeat' first
    | with_reducible assumption
    | with_reducible apply keeps_ite
    | (extract_lets -underBinder +onlyGivenNames xl; refine keeps_cut (F := F) (r := q0) (x := xl) (fun hx => ?_) ?_; (focus clear_value xl; rename' xl => y); rotate_left; (focus unfold xl; clear xl); rotate_left)
    | (extract_lets -underBinder +onlyGivenNames xl; clear_value xl; rename' xl => y)
    | with_reducible apply State.meterReload_keeps
    | with_reducible apply State.meterStop_keeps
    | with_reducible apply State.windowClose_keeps
    | with_reducible apply State.meterStart_keeps
    | with_reducible apply State.awaitLen_keeps
    | with_reducible apply State.modMeter_keeps
    | split

theorem State.windowFlush_keeps {F : Part → Prop} {q0 s : State} [Open F .regs] [Open F .mem] [Open F .keeper] [Open F .meters] (h : Keeps F q0 s) (m : Nat) : Keeps F q0 (State.windowFlush s m) := by
  unfold State.windowFlush
  repeat' first
    | with_reducible assumption
    | with_reducible apply keeps_ite
    | with_reducible apply State.windowEnd_keeps
    | with_reducible apply State.modMeter_keeps
    | split

theorem State.windowEndAt_keeps {F : Part → Prop} {q0 s : State} [Open F .regs] [Open F .mem] [Open F .keeper] [Open F .meters] (h : Keeps F q0 s) (m : Nat) (cyc : Option Rat) (endNs : Int) (len : Rat) : Keeps F q0 (State.windowEndAt s m cyc endNs len) := by
  unfold State.windowEndAt
  repeat' first
    | with_reducible assumption
    | with_reducible apply keeps_ite
    | (extract_lets -underBinder +onlyGivenNames xl; refine keeps_cut (F := F) (r := q0) (x := xl) (fun hx => ?_) ?_; (focus clear_value xl; rename' xl => y); rotate_left; (focus unfold xl; clear xl); rotate_left)
    | (extract_lets -underBinder +onlyGivenNames xl; clear_value xl; rename' xl => y)
    | with_reducible apply State.windowFlush_keeps
    | with_reducible apply State.windowEnd_keeps
    | with_reducible apply State.modMeter_keeps
    | split

theorem execMeterSample_keeps {F : Part → Prop} {q0 s : State} [Open F .regs] [Open F .mem] [Open F .keeper] [Open F .meters] (h : Keeps F q0 s) (m : Fin 3) (ttime : BitVec 48) (hop : BitVec 16) (arrived : List SampleSeq) : KeepsOut F q0 (execMeterSample m ttime hop arrived s) := by
  unfold execMeterSample
  repeat' first
    | with_reducible assumption
    | with_reducible apply keeps_ite
    | with_reducible apply keepsOut_next
    | (refine keepsOut_whileRuns ?_ ?_)
    | with_reducible apply keepsOut_ite
    | with_reducible apply keepsOut_fault
    | (extract_lets -underBinder +onlyGivenNames xl; refine keeps_cut (F := F) (r := q0) (x := xl) (fun hx => ?_) ?_; (focus clear_value xl; rename' xl => y); rotate_left; (focus unfold xl; clear xl); rotate_left)
    | (extract_lets -underBinder +onlyGivenNames xl; clear_value xl; rename' xl => y)
    | with_reducible apply State.windowFlush_keeps
    | with_reducible apply State.leadStamp_keeps
    | with_reducible apply State.takeSeqs_keeps
    | split

theorem execMeterSrcLost_keeps {F : Part → Prop} {q0 s : State} [Open F .regs] [Open F .mem] [Open F .keeper] [Open F .meters] (h : Keeps F q0 s) (m : Fin 3) (k : Fin 4) : KeepsOut F q0 (execMeterSrcLost m k s) := by
  unfold execMeterSrcLost
  repeat' first
    | with_reducible assumption
    | with_reducible apply keeps_ite
    | with_reducible apply keepsOut_next
    | (refine keepsOut_whileRuns ?_ ?_)
    | with_reducible apply keepsOut_ite
    | with_reducible apply keepsOut_fault
    | (extract_lets -underBinder +onlyGivenNames xl; refine keeps_cut (F := F) (r := q0) (x := xl) (fun hx => ?_) ?_; (focus clear_value xl; rename' xl => y); rotate_left; (focus unfold xl; clear xl); rotate_left)
    | (extract_lets -underBinder +onlyGivenNames xl; clear_value xl; rename' xl => y)
    | with_reducible apply State.windowFlush_keeps
    | with_reducible apply State.recordFlag_keeps
    | with_reducible apply State.modMeter_keeps
    | with_reducible apply State.setB_keeps
    | split

theorem execMeterWindowEnd_keeps {F : Part → Prop} {q0 s : State} [Open F .regs] [Open F .mem] [Open F .keeper] [Open F .meters] (h : Keeps F q0 s) (m : Fin 3) : KeepsOut F q0 (execMeterWindowEnd m s) := by
  unfold execMeterWindowEnd
  repeat' first
    | with_reducible assumption
    | with_reducible apply keeps_ite
    | with_reducible apply keepsOut_next
    | (refine keepsOut_whileRuns ?_ ?_)
    | with_reducible apply keepsOut_ite
    | with_reducible apply keepsOut_fault
    | (extract_lets -underBinder +onlyGivenNames xl; refine keeps_cut (F := F) (r := q0) (x := xl) (fun hx => ?_) ?_; (focus clear_value xl; rename' xl => y); rotate_left; (focus unfold xl; clear xl); rotate_left)
    | (extract_lets -underBinder +onlyGivenNames xl; clear_value xl; rename' xl => y)
    | with_reducible apply State.windowEndAt_keeps
    | split

theorem execMeterCycleFlit_keeps {F : Part → Prop} {q0 s : State} [Open F .regs] [Open F .mem] [Open F .keeper] [Open F .meters] (h : Keeps F q0 s) (zero : BitVec 56) : KeepsOut F q0 (execMeterCycleFlit zero s) := by
  unfold execMeterCycleFlit
  repeat' first
    | with_reducible assumption
    | with_reducible apply keeps_ite
    | with_reducible apply keepsOut_next
    | (refine keepsOut_whileRuns ?_ ?_)
    | with_reducible apply keepsOut_ite
    | with_reducible apply keepsOut_fault
    | (extract_lets -underBinder +onlyGivenNames xl; refine keeps_cut (F := F) (r := q0) (x := xl) (fun hx => ?_) ?_; (focus clear_value xl; rename' xl => y); rotate_left; (focus unfold xl; clear xl); rotate_left)
    | (extract_lets -underBinder +onlyGivenNames xl; clear_value xl; rename' xl => y)
    | with_reducible apply State.windowEndAt_keeps
    | with_reducible apply State.modMeter_keeps
    | with_reducible apply State.setB_keeps
    | split

theorem execFundVoidTimeout_keeps {F : Part → Prop} {q0 s : State} [Open F .regs] [Open F .meters] (h : Keeps F q0 s)  : KeepsOut F q0 (execFundVoidTimeout s) := by
  unfold execFundVoidTimeout
  repeat' first
    | with_reducible assumption
    | with_reducible apply keeps_ite
    | with_reducible apply keepsOut_next
    | (refine keepsOut_whileRuns ?_ ?_)
    | with_reducible apply keepsOut_ite
    | with_reducible apply keepsOut_fault
    | with_reducible apply State.recordFlag_keeps
    | with_reducible apply State.modMeter_keeps
    | with_reducible apply State.setB_keeps
    | split

theorem State.mcfgApply_keeps {F : Part → Prop} {q0 s : State} [Open F .regs] [Open F .meters] (h : Keeps F q0 s) (m : Nat) (w : Word) : Keeps F q0 (State.mcfgApply s m w) := by
  unfold State.mcfgApply
  repeat' first
    | with_reducible assumption
    | with_reducible apply keeps_ite
    | (extract_lets -underBinder +onlyGivenNames xl; refine keeps_cut (F := F) (r := q0) (x := xl) (fun hx => ?_) ?_; (focus clear_value xl; rename' xl => y); rotate_left; (focus unfold xl; clear xl); rotate_left)
    | (extract_lets -underBinder +onlyGivenNames xl; clear_value xl; rename' xl => y)
    | with_reducible apply State.modMeter_keeps
    | with_reducible apply State.setB_keeps
    | with_reducible apply State.setReg_keeps
    | split

theorem execMeterCommit_keeps {F : Part → Prop} {q0 s : State} [Open F .regs] [Open F .keeper] [Open F .meters] (h : Keeps F q0 s) (m : Fin 3) : KeepsOut F q0 (execMeterCommit m s) := by
  unfold execMeterCommit
  repeat' first
    | with_reducible assumption
    | with_reducible apply keeps_ite
    | with_reducible apply keepsOut_next
    | (refine keepsOut_whileRuns ?_ ?_)
    | with_reducible apply keepsOut_ite
    | with_reducible apply keepsOut_fault
    | with_reducible apply State.meterCommit_keeps
    | split

theorem State.captureAcc_keeps {F : Part → Prop} {q0 s : State} [Open F .meters] (h : Keeps F q0 s) (m : Nat) (a : Nat) : Keeps F q0 (State.captureAcc s m a) := by
  unfold State.captureAcc
  repeat' first
    | with_reducible assumption
    | with_reducible apply keeps_ite
    | (extract_lets -underBinder +onlyGivenNames xl; refine keeps_cut (F := F) (r := q0) (x := xl) (fun hx => ?_) ?_; (focus clear_value xl; rename' xl => y); rotate_left; (focus unfold xl; clear xl); rotate_left)
    | (extract_lets -underBinder +onlyGivenNames xl; clear_value xl; rename' xl => y)
    | with_reducible apply State.modMeter_keeps
    | split

theorem execAccLoRead_keeps {F : Part → Prop} {q0 s : State} [Open F .out] [Open F .meters] (h : Keeps F q0 s) (m : Fin 3) (a : Fin 13) : KeepsOut F q0 (execAccLoRead m a s) := by
  unfold execAccLoRead
  repeat' first
    | with_reducible assumption
    | with_reducible apply keeps_ite
    | with_reducible apply keepsOut_next
    | (refine keepsOut_whileRuns ?_ ?_)
    | with_reducible apply keepsOut_ite
    | with_reducible apply keepsOut_fault
    | with_reducible apply State.captureAcc_keeps
    | with_reducible apply State.send_keeps
    | split

theorem State.meterPause_keeps {F : Part → Prop} {q0 s : State} [Open F .regs] [Open F .mem] [Open F .keeper] [Open F .meters] (h : Keeps F q0 s) (m : Nat) : Keeps F q0 (State.meterPause s m) := by
  unfold State.meterPause
  repeat' first
    | with_reducible assumption
    | with_reducible apply keeps_ite
    | (extract_lets -underBinder +onlyGivenNames xl; refine keeps_cut (F := F) (r := q0) (x := xl) (fun hx => ?_) ?_; (focus clear_value xl; rename' xl => y); rotate_left; (focus unfold xl; clear xl); rotate_left)
    | (extract_lets -underBinder +onlyGivenNames xl; clear_value xl; rename' xl => y)
    | with_reducible apply State.windowFlush_keeps
    | with_reducible apply State.commitWindow_keeps
    | with_reducible apply State.sift_keeps
    | with_reducible apply State.modMeter_keeps
    | split

theorem State.meterStep_keeps {F : Part → Prop} {q0 s : State} [Open F .regs] [Open F .mem] [Open F .keeper] [Open F .meters] (h : Keeps F q0 s) (m : Nat) : Keeps F q0 (State.meterStep s m) := by
  unfold State.meterStep
  repeat' first
    | with_reducible assumption
    | with_reducible apply keeps_ite
    | (extract_lets -underBinder +onlyGivenNames xl; refine keeps_cut (F := F) (r := q0) (x := xl) (fun hx => ?_) ?_; (focus clear_value xl; rename' xl => y); rotate_left; (focus unfold xl; clear xl); rotate_left)
    | (extract_lets -underBinder +onlyGivenNames xl; clear_value xl; rename' xl => y)
    | with_reducible apply State.closeGap_keeps
    | with_reducible apply State.settleInterval_keeps
    | with_reducible apply State.joinPre_keeps
    | with_reducible apply State.modMeter_keeps
    | split

theorem State.meterRestore_keeps {F : Part → Prop} {q0 s : State} [Open F .regs] [Open F .mem] [Open F .meters] (h : Keeps F q0 s) (m : Nat) : Keeps F q0 (State.meterRestore s m) := by
  unfold State.meterRestore
  repeat' first
    | (intro i t ht)
    | with_reducible assumption
    | with_reducible apply keeps_ite
    | (extract_lets -underBinder +onlyGivenNames xl; refine keeps_cut (F := F) (r := q0) (x := xl) (fun hx => ?_) ?_; (focus clear_value xl; rename' xl => y); rotate_left; (focus unfold xl; clear xl); rotate_left)
    | (extract_lets -underBinder +onlyGivenNames xl; clear_value xl; rename' xl => y)
    | with_reducible apply State.recordFlag_keeps
    | with_reducible apply State.modMeter_keeps
    | with_reducible apply State.setReg_keeps
    | with_reducible apply foldl_keeps
    | split
    | (refine Keeps.mem ?_ _ ?_; rotate_left; (focus first | exact Memory.wf_writeBytes _ _ _ | exact fun hm => Memory.wf_writeBytes _ _ _ (Memory.wf_clear _ _ _ hm) | exact fun hm => Memory.wf_writes _ _ (Memory.wf_clear _ _ _ hm)))

end Sys2Proof.Machine
end

