-- ==== Sys2Proof/Laws/KeepsShell.lean ====
section
/-! SUPPORT.  What the operations of Machine/Shell.lean keep. -/

set_option linter.unusedTactic false
set_option linter.unreachableTactic false
set_option linter.unusedVariables false
set_option linter.unnecessarySeqFocus false

namespace Sys2Proof.Machine

theorem State.modCmd_keeps {F : Part → Prop} {q0 s : State} [Open F .cmds] (h : Keeps F q0 s) (c : Nat) (f : CmdDie → CmdDie) : Keeps F q0 (State.modCmd s c f) := by
  unfold State.modCmd
  repeat' first
    | with_reducible assumption
    | with_reducible apply keeps_ite
    | split
    | refine Keeps.cmds ?_ _

theorem State.modArb_keeps {F : Part → Prop} {q0 s : State} [Open F .arb] (h : Keeps F q0 s) (f : Arbiter → Arbiter) : Keeps F q0 (State.modArb s f) := by
  unfold State.modArb
  repeat' first
    | with_reducible assumption
    | with_reducible apply keeps_ite
    | split
    | refine Keeps.arb ?_ _

theorem State.foldWrite_keeps {F : Part → Prop} {q0 s : State} [Open F .cmds] (h : Keeps F q0 s) (c : Nat) (k : Nat) (a : Nat) (w : Word) : Keeps F q0 (State.foldWrite s c k a w) := by
  unfold State.foldWrite
  repeat' first
    | with_reducible assumption
    | with_reducible apply keeps_ite
    | with_reducible apply State.modCmd_keeps
    | split

theorem State.sendHeartbeat_keeps {F : Part → Prop} {q0 s : State} [Open F .regs] [Open F .cmds] (h : Keeps F q0 s) (c : Nat) (sig : Option (BitVec 64)) : Keeps F q0 (State.sendHeartbeat s c sig) := by
  unfold State.sendHeartbeat
  repeat' first
    | with_reducible assumption
    | with_reducible apply keeps_ite
    | (extract_lets -underBinder +onlyGivenNames xl; refine keeps_cut (F := F) (r := q0) (x := xl) (fun hx => ?_) ?_; (focus clear_value xl; rename' xl => y); rotate_left; (focus unfold xl; clear xl); rotate_left)
    | (extract_lets -underBinder +onlyGivenNames xl; clear_value xl; rename' xl => y)
    | with_reducible apply State.modCmd_keeps
    | with_reducible apply State.setReg_keeps
    | split

theorem execHealthChange_keeps {F : Part → Prop} {q0 s : State} [Open F .regs] [Open F .cmds] (h : Keeps F q0 s) (c : Fin 2) (eccUe : Bool) (wdog : Bool) (ce : Nat) : KeepsOut F q0 (execHealthChange c eccUe wdog ce s) := by
  unfold execHealthChange
  repeat' first
    | with_reducible assumption
    | with_reducible apply keeps_ite
    | with_reducible apply keepsOut_next
    | (refine keepsOut_whileRuns ?_ ?_)
    | with_reducible apply keepsOut_ite
    | with_reducible apply keepsOut_fault
    | (extract_lets -underBinder +onlyGivenNames xl; refine keeps_cut (F := F) (r := q0) (x := xl) (fun hx => ?_) ?_; (focus clear_value xl; rename' xl => y); rotate_left; (focus unfold xl; clear xl); rotate_left)
    | (extract_lets -underBinder +onlyGivenNames xl; clear_value xl; rename' xl => y)
    | with_reducible apply State.sendHeartbeat_keeps
    | with_reducible apply State.modCmd_keeps
    | split

theorem State.checkOwn_keeps {F : Part → Prop} {q0 s : State} [Open F .regs] [Open F .out] [Open F .life] [Open F .keeper] (h : Keeps F q0 s) (c : Nat) (a : Nat) : Keeps F q0 (State.checkOwn s c a) := by
  unfold State.checkOwn
  repeat' first
    | with_reducible assumption
    | with_reducible apply keeps_ite
    | (extract_lets -underBinder +onlyGivenNames xl; refine keeps_cut (F := F) (r := q0) (x := xl) (fun hx => ?_) ?_; (focus clear_value xl; rename' xl => y); rotate_left; (focus unfold xl; clear xl); rotate_left)
    | (extract_lets -underBinder +onlyGivenNames xl; clear_value xl; rename' xl => y)
    | with_reducible apply State.parityRecord_keeps
    | with_reducible apply State.send_keeps
    | split

theorem State.applyDeviceFrame_keeps {F : Part → Prop} {q0 s : State} [Open F .regs] [Open F .out] [Open F .life] [Open F .keeper] (h : Keeps F q0 s) (c : Nat) (f : InputFrame) : Keeps F q0 (State.applyDeviceFrame s c f) := by
  unfold State.applyDeviceFrame
  repeat' first
    | (intro i t ht)
    | with_reducible assumption
    | with_reducible apply keeps_ite
    | (extract_lets -underBinder +onlyGivenNames xl; refine keeps_cut (F := F) (r := q0) (x := xl) (fun hx => ?_) ?_; (focus clear_value xl; rename' xl => y); rotate_left; (focus unfold xl; clear xl); rotate_left)
    | (extract_lets -underBinder +onlyGivenNames xl; clear_value xl; rename' xl => y)
    | with_reducible apply State.checkOwn_keeps
    | with_reducible apply State.set_keeps
    | with_reducible apply foldl_keeps
    | split

theorem State.dropDebug_keeps {F : Part → Prop} {q0 s : State} [Open F .regs] [Open F .cmds] (h : Keeps F q0 s)  : Keeps F q0 (State.dropDebug s) := by
  unfold State.dropDebug
  repeat' first
    | (intro i t ht)
    | with_reducible assumption
    | with_reducible apply keeps_ite
    | with_reducible apply State.modCmd_keeps
    | with_reducible apply State.setB_keeps
    | with_reducible apply foldOver_keeps
    | split

theorem State.takeRole_keeps {F : Part → Prop} {q0 s : State} [Open F .regs] [Open F .cmds] (h : Keeps F q0 s) (c : Nat) (r : Nat) : Keeps F q0 (State.takeRole s c r) := by
  unfold State.takeRole
  repeat' first
    | with_reducible assumption
    | with_reducible apply keeps_ite
    | with_reducible apply State.dropDebug_keeps
    | with_reducible apply State.set_keeps
    | split

theorem State.restartHoldoff_keeps {F : Part → Prop} {q0 s : State} [Open F .regs] (h : Keeps F q0 s)  : Keeps F q0 (State.restartHoldoff s) := by
  unfold State.restartHoldoff
  repeat' first
    | with_reducible assumption
    | with_reducible apply keeps_ite
    | with_reducible apply State.set_keeps
    | split

theorem State.joined_keeps {F : Part → Prop} {q0 s : State} [Open F .regs] (h : Keeps F q0 s) (c : Nat) : Keeps F q0 (State.joined s c) := by
  unfold State.joined
  repeat' first
    | with_reducible assumption
    | with_reducible apply keeps_ite
    | (extract_lets -underBinder +onlyGivenNames xl; refine keeps_cut (F := F) (r := q0) (x := xl) (fun hx => ?_) ?_; (focus clear_value xl; rename' xl => y); rotate_left; (focus unfold xl; clear xl); rotate_left)
    | (extract_lets -underBinder +onlyGivenNames xl; clear_value xl; rename' xl => y)
    | with_reducible apply State.restartHoldoff_keeps
    | with_reducible apply State.set_keeps
    | split

theorem State.applyRole_keeps {F : Part → Prop} {q0 s : State} [Open F .regs] [Open F .cmds] (h : Keeps F q0 s) (c : Nat) : Keeps F q0 (State.applyRole s c) := by
  unfold State.applyRole
  repeat' first
    | with_reducible assumption
    | with_reducible apply keeps_ite
    | (extract_lets -underBinder +onlyGivenNames xl; refine keeps_cut (F := F) (r := q0) (x := xl) (fun hx => ?_) ?_; (focus clear_value xl; rename' xl => y); rotate_left; (focus unfold xl; clear xl); rotate_left)
    | (extract_lets -underBinder +onlyGivenNames xl; clear_value xl; rename' xl => y)
    | with_reducible apply State.joined_keeps
    | with_reducible apply State.takeRole_keeps
    | with_reducible apply State.modCmd_keeps
    | split

theorem State.applySwap_keeps {F : Part → Prop} {q0 s : State} [Open F .regs] [Open F .out] [Open F .cmds] (h : Keeps F q0 s) (c : Nat) (cpn : Nat) : Keeps F q0 (State.applySwap s c cpn) := by
  unfold State.applySwap
  repeat' first
    | with_reducible assumption
    | with_reducible apply keeps_ite
    | (extract_lets -underBinder +onlyGivenNames xl; refine keeps_cut (F := F) (r := q0) (x := xl) (fun hx => ?_) ?_; (focus clear_value xl; rename' xl => y); rotate_left; (focus unfold xl; clear xl); rotate_left)
    | (extract_lets -underBinder +onlyGivenNames xl; clear_value xl; rename' xl => y)
    | with_reducible apply State.takeRole_keeps
    | with_reducible apply State.modCmd_keeps
    | with_reducible apply State.send_keeps
    | split

theorem State.beginPeriod_keeps {F : Part → Prop} {q0 s : State} [Open F .regs] [Open F .out] [Open F .life] [Open F .keeper] [Open F .cmds] (h : Keeps F q0 s) (c : Nat) (q : Snapshot) : Keeps F q0 (State.beginPeriod s c q) := by
  unfold State.beginPeriod
  repeat' first
    | (intro i t ht)
    | with_reducible assumption
    | with_reducible apply keeps_ite
    | (extract_lets -underBinder +onlyGivenNames xl; refine keeps_cut (F := F) (r := q0) (x := xl) (fun hx => ?_) ?_; (focus clear_value xl; rename' xl => y); rotate_left; (focus unfold xl; clear xl); rotate_left)
    | (extract_lets -underBinder +onlyGivenNames xl; clear_value xl; rename' xl => y)
    | with_reducible apply State.applySwap_keeps
    | with_reducible apply State.applyRole_keeps
    | with_reducible apply State.applyDeviceFrame_keeps
    | with_reducible apply State.modCmd_keeps
    | with_reducible apply State.setReg_keeps
    | with_reducible apply foldl_keeps
    | split

theorem State.tryStart_keeps {F : Part → Prop} {q0 s : State} [Open F .regs] [Open F .out] [Open F .life] [Open F .keeper] [Open F .cmds] (h : Keeps F q0 s) (c : Nat) : Keeps F q0 (State.tryStart s c) := by
  unfold State.tryStart
  repeat' first
    | with_reducible assumption
    | with_reducible apply keeps_ite
    | (extract_lets -underBinder +onlyGivenNames xl; refine keeps_cut (F := F) (r := q0) (x := xl) (fun hx => ?_) ?_; (focus clear_value xl; rename' xl => y); rotate_left; (focus unfold xl; clear xl); rotate_left)
    | (extract_lets -underBinder +onlyGivenNames xl; clear_value xl; rename' xl => y)
    | with_reducible apply State.beginPeriod_keeps
    | with_reducible apply State.modCmd_keeps
    | with_reducible apply State.send_keeps
    | with_reducible apply State.addSat_keeps
    | split

theorem State.decide'_keeps {F : Part → Prop} {q0 s : State} [Open F .regs] [Open F .life] [Open F .keeper] (h : Keeps F q0 s) (verdict : Nat) (cause : Nat) (ev : Option EvCounter) : Keeps F q0 (State.decide' s verdict cause ev) := by
  unfold State.decide'
  repeat' first
    | with_reducible assumption
    | with_reducible apply keeps_ite
    | (extract_lets -underBinder +onlyGivenNames xl; refine keeps_cut (F := F) (r := q0) (x := xl) (fun hx => ?_) ?_; (focus clear_value xl; rename' xl => y); rotate_left; (focus unfold xl; clear xl); rotate_left)
    | (extract_lets -underBinder +onlyGivenNames xl; clear_value xl; rename' xl => y)
    | with_reducible apply State.enterFault_keeps
    | with_reducible apply State.countEvent_keeps
    | with_reducible apply State.set_keeps
    | split

theorem State.joinFailed_keeps {F : Part → Prop} {q0 s : State} [Open F .regs] [Open F .life] [Open F .keeper] [Open F .cmds] (h : Keeps F q0 s) (c : Nat) : Keeps F q0 (State.joinFailed s c) := by
  unfold State.joinFailed
  repeat' first
    | with_reducible assumption
    | with_reducible apply keeps_ite
    | (extract_lets -underBinder +onlyGivenNames xl; refine keeps_cut (F := F) (r := q0) (x := xl) (fun hx => ?_) ?_; (focus clear_value xl; rename' xl => y); rotate_left; (focus unfold xl; clear xl); rotate_left)
    | (extract_lets -underBinder +onlyGivenNames xl; clear_value xl; rename' xl => y)
    | with_reducible apply State.decide'_keeps
    | with_reducible apply State.modCmd_keeps
    | with_reducible apply State.setB_keeps
    | with_reducible apply State.set_keeps
    | split

theorem State.joinSnapshot_keeps {F : Part → Prop} {q0 s : State} [Open F .regs] [Open F .out] [Open F .life] [Open F .keeper] [Open F .cmds] (h : Keeps F q0 s) (c : Nat) : Keeps F q0 (State.joinSnapshot s c) := by
  unfold State.joinSnapshot
  repeat' first
    | (intro i t ht)
    | with_reducible assumption
    | with_reducible apply keeps_ite
    | (extract_lets -underBinder +onlyGivenNames xl; refine keeps_cut (F := F) (r := q0) (x := xl) (fun hx => ?_) ?_; (focus clear_value xl; rename' xl => y); rotate_left; (focus unfold xl; clear xl); rotate_left)
    | (extract_lets -underBinder +onlyGivenNames xl; clear_value xl; rename' xl => y)
    | with_reducible apply State.joinFailed_keeps
    | with_reducible apply State.modCmd_keeps
    | with_reducible apply State.send_keeps
    | with_reducible apply State.set_keeps
    | with_reducible apply State.setReg_keeps
    | with_reducible apply foldl_keeps
    | split

theorem State.keepPage_keeps {F : Part → Prop} {q0 s : State} [Open F .regs] [Open F .mem] [Open F .life] [Open F .keeper] [Open F .cmds] (h : Keeps F q0 s) (c : Nat) (a : Nat) : Keeps F q0 (State.keepPage s c a) := by
  unfold State.keepPage
  repeat' first
    | with_reducible assumption
    | with_reducible apply keeps_ite
    | (extract_lets -underBinder +onlyGivenNames xl; refine keeps_cut (F := F) (r := q0) (x := xl) (fun hx => ?_) ?_; (focus clear_value xl; rename' xl => y); rotate_left; (focus unfold xl; clear xl); rotate_left)
    | (extract_lets -underBinder +onlyGivenNames xl; clear_value xl; rename' xl => y)
    | with_reducible apply State.joinFailed_keeps
    | with_reducible apply State.modCmd_keeps
    | split
    | (refine Keeps.mem ?_ _ ?_; rotate_left; (focus first | exact Memory.wf_writeBytes _ _ _ | exact fun hm => Memory.wf_writeBytes _ _ _ (Memory.wf_clear _ _ _ hm) | exact fun hm => Memory.wf_writes _ _ (Memory.wf_clear _ _ _ hm)))

theorem wf_pageTo (m : Memory) (a b : Nat) (h : Memory.wf m = true) : Memory.wf (pageTo m a b) = true :=
  Memory.wf_writes _ _ (Memory.wf_clear _ _ _ h)

theorem wf_pages {α : Type} (f g : α → Nat) (l : List α) : ∀ m : Memory, Memory.wf m = true →
    Memory.wf (l.foldl (fun m p => pageTo m (f p) (g p)) m) = true := by
  induction l with
  | nil => exact fun _ h => h
  | cons p l ih => exact fun m h => ih _ (wf_pageTo m _ _ h)

theorem State.joinLoad_keeps {F : Part → Prop} {r s : State} [Open F .mem] [Open F .cmds] (h : Keeps F r s) (j : Nat) : Keeps F r (State.joinLoad s j) := by
  unfold State.joinLoad
  exact State.modCmd_keeps (h.mem _ (wf_pages _ _ _ _)) _ _

theorem execCommandPeriodTick_keeps {F : Part → Prop} {q0 s : State} [Open F .regs] [Open F .out] [Open F .life] [Open F .keeper] [Open F .cmds] (h : Keeps F q0 s) (c : Fin 2) (d : Fin 4) : KeepsOut F q0 (execCommandPeriodTick c d s) := by
  unfold execCommandPeriodTick
  repeat' first
    | with_reducible assumption
    | with_reducible apply keeps_ite
    | with_reducible apply keepsOut_next
    | (refine keepsOut_whileRuns ?_ ?_)
    | with_reducible apply keepsOut_ite
    | with_reducible apply keepsOut_fault
    | (extract_lets -underBinder +onlyGivenNames xl; refine keeps_cut (F := F) (r := q0) (x := xl) (fun hx => ?_) ?_; (focus clear_value xl; rename' xl => y); rotate_left; (focus unfold xl; clear xl); rotate_left)
    | (extract_lets -underBinder +onlyGivenNames xl; clear_value xl; rename' xl => y)
    | with_reducible apply State.joinSnapshot_keeps
    | with_reducible apply State.modCmd_keeps
    | with_reducible apply State.incMod_keeps
    | split

theorem execDriveRecordArrival_keeps {F : Part → Prop} {q0 s : State} [Open F .regs] [Open F .cmds] (h : Keeps F q0 s) (c : Fin 2) (d : Fin 4) (tick : Nat) (words : List Word) : KeepsOut F q0 (execDriveRecordArrival c d tick words s) := by
  unfold execDriveRecordArrival
  repeat' first
    | with_reducible assumption
    | with_reducible apply keeps_ite
    | with_reducible apply keepsOut_next
    | (refine keepsOut_whileRuns ?_ ?_)
    | with_reducible apply keepsOut_ite
    | with_reducible apply keepsOut_fault
    | (extract_lets -underBinder +onlyGivenNames xl; refine keeps_cut (F := F) (r := q0) (x := xl) (fun hx => ?_) ?_; (focus clear_value xl; rename' xl => y); rotate_left; (focus unfold xl; clear xl); rotate_left)
    | (extract_lets -underBinder +onlyGivenNames xl; clear_value xl; rename' xl => y)
    | with_reducible apply State.modCmd_keeps
    | with_reducible apply State.incSat_keeps
    | split

theorem execEventFlitArrival_keeps {F : Part → Prop} {q0 s : State} [Open F .cmds] (h : Keeps F q0 s) (c : Fin 2) (words : List Word) : KeepsOut F q0 (execEventFlitArrival c words s) := by
  unfold execEventFlitArrival
  repeat' first
    | with_reducible assumption
    | with_reducible apply keeps_ite
    | with_reducible apply keepsOut_next
    | (refine keepsOut_whileRuns ?_ ?_)
    | with_reducible apply keepsOut_ite
    | with_reducible apply keepsOut_fault
    | with_reducible apply State.modCmd_keeps
    | split

theorem State.inputFrameArrival_keeps {F : Part → Prop} {q0 s : State} [Open F .cmds] (h : Keeps F q0 s) (c : Nat) : Keeps F q0 (State.inputFrameArrival s c) := by
  unfold State.inputFrameArrival
  repeat' first
    | with_reducible assumption
    | with_reducible apply keeps_ite
    | with_reducible apply State.modCmd_keeps
    | split

theorem State.compareDescriptors_keeps {F : Part → Prop} {q0 s : State} [Open F .regs] [Open F .cmds] (h : Keeps F q0 s) (c : Nat) (a : List Word) (b : List Word) : Keeps F q0 (State.compareDescriptors s c a b) := by
  unfold State.compareDescriptors
  repeat' first
    | (intro i t ht)
    | with_reducible assumption
    | with_reducible apply keeps_ite
    | (extract_lets -underBinder +onlyGivenNames xl; refine keeps_cut (F := F) (r := q0) (x := xl) (fun hx => ?_) ?_; (focus clear_value xl; rename' xl => y); rotate_left; (focus unfold xl; clear xl); rotate_left)
    | (extract_lets -underBinder +onlyGivenNames xl; clear_value xl; rename' xl => y)
    | with_reducible apply State.modCmd_keeps
    | with_reducible apply State.orBits_keeps
    | with_reducible apply State.incSat_keeps
    | with_reducible apply foldl_keeps
    | split

theorem execSnapshotClose_keeps {F : Part → Prop} {q0 s : State} [Open F .regs] [Open F .out] [Open F .life] [Open F .keeper] [Open F .cmds] (h : Keeps F q0 s) (c : Fin 2) (din : BitVec 16) : KeepsOut F q0 (execSnapshotClose c din s) := by
  unfold execSnapshotClose
  repeat' first
    | with_reducible assumption
    | with_reducible apply keeps_ite
    | with_reducible apply keepsOut_next
    | (refine keepsOut_whileRuns ?_ ?_)
    | with_reducible apply keepsOut_ite
    | with_reducible apply keepsOut_fault
    | (extract_lets -underBinder +onlyGivenNames xl; refine keeps_cut (F := F) (r := q0) (x := xl) (fun hx => ?_) ?_; (focus clear_value xl; rename' xl => y); rotate_left; (focus unfold xl; clear xl); rotate_left)
    | (extract_lets -underBinder +onlyGivenNames xl; clear_value xl; rename' xl => y)
    | with_reducible apply State.compareDescriptors_keeps
    | with_reducible apply State.tryStart_keeps
    | with_reducible apply State.modCmd_keeps
    | with_reducible apply State.send_keeps
    | split

theorem execDescriptorReceived_keeps {F : Part → Prop} {q0 s : State} [Open F .regs] [Open F .out] [Open F .life] [Open F .keeper] [Open F .cmds] (h : Keeps F q0 s) (c : Fin 2) : KeepsOut F q0 (execDescriptorReceived c s) := by
  unfold execDescriptorReceived
  repeat' first
    | with_reducible assumption
    | with_reducible apply keeps_ite
    | with_reducible apply keepsOut_next
    | (refine keepsOut_whileRuns ?_ ?_)
    | with_reducible apply keepsOut_ite
    | with_reducible apply keepsOut_fault
    | (extract_lets -underBinder +onlyGivenNames xl; refine keeps_cut (F := F) (r := q0) (x := xl) (fun hx => ?_) ?_; (focus clear_value xl; rename' xl => y); rotate_left; (focus unfold xl; clear xl); rotate_left)
    | (extract_lets -underBinder +onlyGivenNames xl; clear_value xl; rename' xl => y)
    | with_reducible apply State.compareDescriptors_keeps
    | with_reducible apply State.tryStart_keeps
    | with_reducible apply State.modCmd_keeps
    | split

theorem execDescriptorWaitTimeout_keeps {F : Part → Prop} {q0 s : State} [Open F .regs] [Open F .out] [Open F .life] [Open F .keeper] [Open F .cmds] (h : Keeps F q0 s) (c : Fin 2) : KeepsOut F q0 (execDescriptorWaitTimeout c s) := by
  unfold execDescriptorWaitTimeout
  repeat' first
    | with_reducible assumption
    | with_reducible apply keeps_ite
    | with_reducible apply keepsOut_next
    | (refine keepsOut_whileRuns ?_ ?_)
    | with_reducible apply keepsOut_ite
    | with_reducible apply keepsOut_fault
    | with_reducible apply State.tryStart_keeps
    | with_reducible apply State.modCmd_keeps
    | split

theorem State.enterJoin_keeps {F : Part → Prop} {q0 s : State} [Open F .regs] [Open F .cmds] (h : Keeps F q0 s) (c : Nat) : Keeps F q0 (State.enterJoin s c) := by
  unfold State.enterJoin
  repeat' first
    | with_reducible assumption
    | with_reducible apply keeps_ite
    | with_reducible apply State.takeRole_keeps
    | with_reducible apply State.modCmd_keeps
    | split

theorem State.haltCheck_keeps {F : Part → Prop} {q0 s : State} [Open F .regs] [Open F .cmds] (h : Keeps F q0 s) (c : Nat) : Keeps F q0 (State.haltCheck s c) := by
  unfold State.haltCheck
  repeat' first
    | with_reducible assumption
    | with_reducible apply keeps_ite
    | (extract_lets -underBinder +onlyGivenNames xl; refine keeps_cut (F := F) (r := q0) (x := xl) (fun hx => ?_) ?_; (focus clear_value xl; rename' xl => y); rotate_left; (focus unfold xl; clear xl); rotate_left)
    | (extract_lets -underBinder +onlyGivenNames xl; clear_value xl; rename' xl => y)
    | with_reducible apply State.modCmd_keeps
    | with_reducible apply State.setB_keeps
    | split

theorem State.coreIssued_keeps {F : Part → Prop} {q0 s : State} [Open F .regs] [Open F .cmds] (h : Keeps F q0 s) (c : Nat) (k : Nat) : Keeps F q0 (State.coreIssued s c k) := by
  unfold State.coreIssued
  repeat' first
    | with_reducible assumption
    | with_reducible apply keeps_ite
    | with_reducible apply State.haltCheck_keeps
    | with_reducible apply State.modCmd_keeps
    | split

theorem execFetchComplete_keeps {F : Part → Prop} {q0 s : State} [Open F .regs] [Open F .mem] [Open F .out] [Open F .life] [Open F .keeper] [Open F .cmds] (h : Keeps F q0 s) (c : Fin 2) : KeepsOut F q0 (execFetchComplete c s) := by
  unfold execFetchComplete
  repeat' first
    | with_reducible assumption
    | with_reducible apply keeps_ite
    | with_reducible apply keepsOut_next
    | (refine keepsOut_whileRuns ?_ ?_)
    | with_reducible apply keepsOut_ite
    | with_reducible apply keepsOut_fault
    | (extract_lets -underBinder +onlyGivenNames xl; refine keeps_cut (F := F) (r := q0) (x := xl) (fun hx => ?_) ?_; (focus clear_value xl; rename' xl => y); rotate_left; (focus unfold xl; clear xl); rotate_left)
    | (extract_lets -underBinder +onlyGivenNames xl; clear_value xl; rename' xl => y)
    | with_reducible apply State.haltCheck_keeps
    | with_reducible apply State.enterJoin_keeps
    | with_reducible apply State.joinLoad_keeps
    | with_reducible apply State.beginPeriod_keeps
    | with_reducible apply State.modCmd_keeps
    | with_reducible apply State.addSat_keeps
    | split

theorem State.closeWindow_keeps {F : Part → Prop} {q0 s : State} [Open F .regs] [Open F .life] [Open F .keeper] [Open F .cmds] (h : Keeps F q0 s) (c : Nat) (g : BitVec 64) : Keeps F q0 (State.closeWindow s c g) := by
  unfold State.closeWindow
  repeat' first
    | with_reducible assumption
    | with_reducible apply keeps_ite
    | (extract_lets -underBinder +onlyGivenNames xl; refine keeps_cut (F := F) (r := q0) (x := xl) (fun hx => ?_) ?_; (focus clear_value xl; rename' xl => y); rotate_left; (focus unfold xl; clear xl); rotate_left)
    | (extract_lets -underBinder +onlyGivenNames xl; clear_value xl; rename' xl => y)
    | with_reducible apply State.joinFailed_keeps
    | with_reducible apply State.modCmd_keeps
    | with_reducible apply State.set_keeps
    | split

theorem State.doneWrite_keeps {F : Part → Prop} {q0 s : State} [Open F .regs] [Open F .out] [Open F .life] [Open F .keeper] [Open F .cmds] (h : Keeps F q0 s) (c : Nat) (k : Nat) : Keeps F q0 (State.doneWrite s c k) := by
  unfold State.doneWrite
  repeat' first
    | with_reducible assumption
    | with_reducible apply keeps_ite
    | (extract_lets -underBinder +onlyGivenNames xl; refine keeps_cut (F := F) (r := q0) (x := xl) (fun hx => ?_) ?_; (focus clear_value xl; rename' xl => y); rotate_left; (focus unfold xl; clear xl); rotate_left)
    | (extract_lets -underBinder +onlyGivenNames xl; clear_value xl; rename' xl => y)
    | with_reducible apply State.closeWindow_keeps
    | with_reducible apply State.tryStart_keeps
    | with_reducible apply State.sendHeartbeat_keeps
    | with_reducible apply State.modCmd_keeps
    | with_reducible apply State.setBit_keeps
    | split

theorem State.doneRelease_keeps {F : Part → Prop} {q0 s : State} [Open F .regs] [Open F .out] [Open F .life] [Open F .keeper] [Open F .cmds] (h : Keeps F q0 s) (c : Nat) : Keeps F q0 (State.doneRelease s c) := by
  unfold State.doneRelease
  repeat' first
    | (intro i t ht)
    | with_reducible assumption
    | with_reducible apply keeps_ite
    | with_reducible apply State.doneWrite_keeps
    | with_reducible apply State.modCmd_keeps
    | with_reducible apply foldl_keeps
    | split

theorem execDoneWrite_keeps {F : Part → Prop} {q0 s : State} [Open F .regs] [Open F .out] [Open F .life] [Open F .keeper] [Open F .cmds] (h : Keeps F q0 s) (c : Fin 2) (core : Fin 4) : KeepsOut F q0 (execDoneWrite c core s) := by
  unfold execDoneWrite
  repeat' first
    | with_reducible assumption
    | with_reducible apply keeps_ite
    | with_reducible apply keepsOut_next
    | (refine keepsOut_whileRuns ?_ ?_)
    | with_reducible apply keepsOut_ite
    | with_reducible apply keepsOut_fault
    | with_reducible apply State.doneWrite_keeps
    | with_reducible apply State.coreIssued_keeps
    | split

theorem State.requestArbSs1_keeps {F : Part → Prop} {q0 s : State} [Open F .regs] [Open F .out] (h : Keeps F q0 s)  : Keeps F q0 (State.requestArbSs1 s) := by
  unfold State.requestArbSs1
  repeat' first
    | with_reducible assumption
    | with_reducible apply keeps_ite
    | with_reducible apply State.send_keeps
    | with_reducible apply State.setB_keeps
    | split

theorem State.removeDie_keeps {F : Part → Prop} {q0 s : State} [Open F .regs] [Open F .arb] (h : Keeps F q0 s) (c : Nat) : Keeps F q0 (State.removeDie s c) := by
  unfold State.removeDie
  repeat' first
    | with_reducible assumption
    | with_reducible apply keeps_ite
    | (extract_lets -underBinder +onlyGivenNames xl; refine keeps_cut (F := F) (r := q0) (x := xl) (fun hx => ?_) ?_; (focus clear_value xl; rename' xl => y); rotate_left; (focus unfold xl; clear xl); rotate_left)
    | (extract_lets -underBinder +onlyGivenNames xl; clear_value xl; rename' xl => y)
    | with_reducible apply State.modArb_keeps
    | with_reducible apply State.setB_keeps
    | with_reducible apply State.set_keeps
    | split

theorem State.failover_keeps {F : Part → Prop} {q0 s : State} [Open F .regs] [Open F .out] [Open F .life] [Open F .keeper] [Open F .arb] (h : Keeps F q0 s) (shell : Nat) (cause : Nat) : Keeps F q0 (State.failover s shell cause) := by
  unfold State.failover
  repeat' first
    | with_reducible assumption
    | with_reducible apply keeps_ite
    | (extract_lets -underBinder +onlyGivenNames xl; refine keeps_cut (F := F) (r := q0) (x := xl) (fun hx => ?_) ?_; (focus clear_value xl; rename' xl => y); rotate_left; (focus unfold xl; clear xl); rotate_left)
    | (extract_lets -underBinder +onlyGivenNames xl; clear_value xl; rename' xl => y)
    | with_reducible apply State.removeDie_keeps
    | with_reducible apply State.decide'_keeps
    | with_reducible apply State.modArb_keeps
    | with_reducible apply State.send_keeps
    | with_reducible apply State.incSat_keeps
    | with_reducible apply State.setB_keeps
    | with_reducible apply State.set_keeps
    | split

theorem State.judge_keeps {F : Part → Prop} {q0 s : State} [Open F .regs] [Open F .out] [Open F .life] [Open F .keeper] [Open F .arb] (h : Keeps F q0 s) (cause : Nat) : Keeps F q0 (State.judge s cause) := by
  unfold State.judge
  repeat' first
    | with_reducible assumption
    | with_reducible apply keeps_ite
    | (extract_lets -underBinder +onlyGivenNames xl; refine keeps_cut (F := F) (r := q0) (x := xl) (fun hx => ?_) ?_; (focus clear_value xl; rename' xl => y); rotate_left; (focus unfold xl; clear xl); rotate_left)
    | (extract_lets -underBinder +onlyGivenNames xl; clear_value xl; rename' xl => y)
    | with_reducible apply State.failover_keeps
    | with_reducible apply State.removeDie_keeps
    | with_reducible apply State.requestArbSs1_keeps
    | with_reducible apply State.decide'_keeps
    | with_reducible apply State.modArb_keeps
    | with_reducible apply State.incSat_keeps
    | with_reducible apply State.setB_keeps
    | with_reducible apply State.set_keeps
    | split

theorem State.matchSignatures_keeps {F : Part → Prop} {q0 s : State} [Open F .regs] [Open F .out] [Open F .life] [Open F .keeper] [Open F .arb] (h : Keeps F q0 s)  : Keeps F q0 (State.matchSignatures s) := by
  unfold State.matchSignatures
  repeat' first
    | with_reducible assumption
    | with_reducible apply keeps_ite
    | (extract_lets -underBinder +onlyGivenNames xl; refine keeps_cut (F := F) (r := q0) (x := xl) (fun hx => ?_) ?_; (focus clear_value xl; rename' xl => y); rotate_left; (focus unfold xl; clear xl); rotate_left)
    | (extract_lets -underBinder +onlyGivenNames xl; clear_value xl; rename' xl => y)
    | with_reducible apply State.judge_keeps
    | with_reducible apply State.restartHoldoff_keeps
    | with_reducible apply State.modArb_keeps
    | with_reducible apply State.incSat_keeps
    | split

theorem execHeartbeatReceived_keeps {F : Part → Prop} {q0 s : State} [Open F .regs] [Open F .out] [Open F .life] [Open F .keeper] [Open F .cmds] [Open F .arb] (h : Keeps F q0 s) (c : Fin 2) (late : Bool) : KeepsOut F q0 (execHeartbeatReceived c late s) := by
  unfold execHeartbeatReceived
  repeat' first
    | with_reducible assumption
    | with_reducible apply keeps_ite
    | with_reducible apply keepsOut_next
    | (refine keepsOut_whileRuns ?_ ?_)
    | with_reducible apply keepsOut_ite
    | with_reducible apply keepsOut_fault
    | (extract_lets -underBinder +onlyGivenNames xl; refine keeps_cut (F := F) (r := q0) (x := xl) (fun hx => ?_) ?_; (focus clear_value xl; rename' xl => y); rotate_left; (focus unfold xl; clear xl); rotate_left)
    | (extract_lets -underBinder +onlyGivenNames xl; clear_value xl; rename' xl => y)
    | with_reducible apply State.matchSignatures_keeps
    | with_reducible apply State.judge_keeps
    | with_reducible apply State.restartHoldoff_keeps
    | with_reducible apply State.modArb_keeps
    | with_reducible apply State.modCmd_keeps
    | with_reducible apply State.setReg_keeps
    | split

theorem State.heartbeatLost_keeps {F : Part → Prop} {q0 s : State} [Open F .regs] [Open F .out] [Open F .life] [Open F .keeper] [Open F .arb] (h : Keeps F q0 s) (c : Nat) : Keeps F q0 (State.heartbeatLost s c) := by
  unfold State.heartbeatLost
  repeat' first
    | with_reducible assumption
    | with_reducible apply keeps_ite
    | with_reducible apply State.judge_keeps
    | with_reducible apply State.restartHoldoff_keeps
    | with_reducible apply State.modArb_keeps
    | split

theorem execHeartbeatTimeout_keeps {F : Part → Prop} {q0 s : State} [Open F .regs] [Open F .out] [Open F .life] [Open F .keeper] [Open F .arb] (h : Keeps F q0 s) (c : Fin 2) : KeepsOut F q0 (execHeartbeatTimeout c s) := by
  unfold execHeartbeatTimeout
  repeat' first
    | with_reducible assumption
    | with_reducible apply keeps_ite
    | with_reducible apply keepsOut_next
    | (refine keepsOut_whileRuns ?_ ?_)
    | with_reducible apply keepsOut_ite
    | with_reducible apply keepsOut_fault
    | with_reducible apply State.heartbeatLost_keeps
    | split

theorem execRoleWireChange_keeps {F : Part → Prop} {q0 s : State} [Open F .regs] (h : Keeps F q0 s) (d : Fin 4) : KeepsOut F q0 (execRoleWireChange d s) := by
  unfold execRoleWireChange
  repeat' first
    | (intro i t ht)
    | with_reducible assumption
    | with_reducible apply keeps_ite
    | with_reducible apply keepsOut_next
    | (refine keepsOut_whileRuns ?_ ?_)
    | with_reducible apply keepsOut_ite
    | with_reducible apply keepsOut_fault
    | (extract_lets -underBinder +onlyGivenNames xl; refine keeps_cut (F := F) (r := q0) (x := xl) (fun hx => ?_) ?_; (focus clear_value xl; rename' xl => y); rotate_left; (focus unfold xl; clear xl); rotate_left)
    | (extract_lets -underBinder +onlyGivenNames xl; clear_value xl; rename' xl => y)
    | with_reducible apply State.incSat_keeps
    | with_reducible apply State.setB_keeps
    | with_reducible apply foldOver_keeps
    | with_reducible apply State.setReg_keeps
    | split

theorem execVerdictReceived_keeps {F : Part → Prop} {q0 s : State} [Open F .regs] [Open F .out] [Open F .life] [Open F .keeper] [Open F .cmds] (h : Keeps F q0 s) (c : Fin 2) : KeepsOut F q0 (execVerdictReceived c s) := by
  unfold execVerdictReceived
  repeat' first
    | with_reducible assumption
    | with_reducible apply keeps_ite
    | with_reducible apply keepsOut_next
    | (refine keepsOut_whileRuns ?_ ?_)
    | with_reducible apply keepsOut_ite
    | with_reducible apply keepsOut_fault
    | (extract_lets -underBinder +onlyGivenNames xl; refine keeps_cut (F := F) (r := q0) (x := xl) (fun hx => ?_) ?_; (focus clear_value xl; rename' xl => y); rotate_left; (focus unfold xl; clear xl); rotate_left)
    | (extract_lets -underBinder +onlyGivenNames xl; clear_value xl; rename' xl => y)
    | with_reducible apply State.tryStart_keeps
    | with_reducible apply State.takeRole_keeps
    | with_reducible apply State.modCmd_keeps
    | with_reducible apply State.setB_keeps
    | split

theorem execClaim_keeps {F : Part → Prop} {q0 s : State} [Open F .regs] [Open F .out] [Open F .arb] (h : Keeps F q0 s) (c : Fin 2) (len : Nat) : KeepsOut F q0 (execClaim c len s) := by
  unfold execClaim
  repeat' first
    | with_reducible assumption
    | with_reducible apply keeps_ite
    | with_reducible apply keepsOut_next
    | (refine keepsOut_whileRuns ?_ ?_)
    | with_reducible apply keepsOut_ite
    | with_reducible apply keepsOut_fault
    | (extract_lets -underBinder +onlyGivenNames xl; refine keeps_cut (F := F) (r := q0) (x := xl) (fun hx => ?_) ?_; (focus clear_value xl; rename' xl => y); rotate_left; (focus unfold xl; clear xl); rotate_left)
    | (extract_lets -underBinder +onlyGivenNames xl; clear_value xl; rename' xl => y)
    | with_reducible apply State.modArb_keeps
    | with_reducible apply State.send_keeps
    | with_reducible apply State.setB_keeps
    | with_reducible apply State.set_keeps
    | with_reducible apply State.setReg_keeps
    | split

theorem State.grant_keeps {F : Part → Prop} {q0 s : State} [Open F .regs] [Open F .out] [Open F .life] [Open F .keeper] [Open F .cmds] (h : Keeps F q0 s) (c : Nat) : Keeps F q0 (State.grant s c) := by
  unfold State.grant
  repeat' first
    | with_reducible assumption
    | with_reducible apply keeps_ite
    | (extract_lets -underBinder +onlyGivenNames xl; refine keeps_cut (F := F) (r := q0) (x := xl) (fun hx => ?_) ?_; (focus clear_value xl; rename' xl => y); rotate_left; (focus unfold xl; clear xl); rotate_left)
    | (extract_lets -underBinder +onlyGivenNames xl; clear_value xl; rename' xl => y)
    | with_reducible apply State.tryStart_keeps
    | with_reducible apply State.takeRole_keeps
    | with_reducible apply State.modCmd_keeps
    | with_reducible apply State.setB_keeps
    | split

theorem execClaimTimeout_keeps {F : Part → Prop} {q0 s : State} [Open F .regs] [Open F .out] [Open F .life] [Open F .keeper] [Open F .cmds] [Open F .arb] (h : Keeps F q0 s)  : KeepsOut F q0 (execClaimTimeout s) := by
  unfold execClaimTimeout
  repeat' first
    | with_reducible assumption
    | with_reducible apply keeps_ite
    | with_reducible apply keepsOut_next
    | (refine keepsOut_whileRuns ?_ ?_)
    | with_reducible apply keepsOut_ite
    | with_reducible apply keepsOut_fault
    | with_reducible apply State.removeDie_keeps
    | with_reducible apply State.requestArbSs1_keeps
    | with_reducible apply State.decide'_keeps
    | with_reducible apply State.applyRole_keeps
    | with_reducible apply State.modArb_keeps
    | split

theorem execJoinReplayComplete_keeps {F : Part → Prop} {q0 s : State} [Open F .mem] [Open F .cmds] (h : Keeps F q0 s) (c : Fin 2) : KeepsOut F q0 (execJoinReplayComplete c s) := by
  unfold execJoinReplayComplete
  repeat' first
    | with_reducible assumption
    | with_reducible apply keeps_ite
    | with_reducible apply keepsOut_next
    | (refine keepsOut_whileRuns ?_ ?_)
    | with_reducible apply keepsOut_ite
    | with_reducible apply keepsOut_fault
    | with_reducible apply State.joinLoad_keeps
    | with_reducible apply State.modCmd_keeps
    | split

theorem execJoinFail_keeps {F : Part → Prop} {q0 s : State} [Open F .regs] [Open F .life] [Open F .keeper] [Open F .cmds] (h : Keeps F q0 s) (c : Fin 2) : KeepsOut F q0 (execJoinFail c s) := by
  unfold execJoinFail
  repeat' first
    | with_reducible assumption
    | with_reducible apply keeps_ite
    | with_reducible apply keepsOut_next
    | (refine keepsOut_whileRuns ?_ ?_)
    | with_reducible apply keepsOut_ite
    | with_reducible apply keepsOut_fault
    | with_reducible apply State.joinFailed_keeps
    | split

theorem execHoldoffExpire_keeps {F : Part → Prop} {q0 s : State} [Open F .regs] [Open F .out] [Open F .arb] (h : Keeps F q0 s) (c : Fin 2) : KeepsOut F q0 (execHoldoffExpire c s) := by
  unfold execHoldoffExpire
  repeat' first
    | with_reducible assumption
    | with_reducible apply keeps_ite
    | with_reducible apply keepsOut_next
    | (refine keepsOut_whileRuns ?_ ?_)
    | with_reducible apply keepsOut_ite
    | with_reducible apply keepsOut_fault
    | (extract_lets -underBinder +onlyGivenNames xl; refine keeps_cut (F := F) (r := q0) (x := xl) (fun hx => ?_) ?_; (focus clear_value xl; rename' xl => y); rotate_left; (focus unfold xl; clear xl); rotate_left)
    | (extract_lets -underBinder +onlyGivenNames xl; clear_value xl; rename' xl => y)
    | with_reducible apply State.modArb_keeps
    | with_reducible apply State.send_keeps
    | with_reducible apply State.setB_keeps
    | split

theorem execSwap_keeps {F : Part → Prop} {q0 s : State} [Open F .regs] [Open F .out] [Open F .life] [Open F .keeper] [Open F .cmds] [Open F .arb] (h : Keeps F q0 s)  : KeepsOut F q0 (execSwap s) := by
  unfold execSwap
  repeat' first
    | with_reducible assumption
    | with_reducible apply keeps_ite
    | with_reducible apply keepsOut_next
    | (refine keepsOut_whileRuns ?_ ?_)
    | with_reducible apply keepsOut_ite
    | with_reducible apply keepsOut_fault
    | (extract_lets -underBinder +onlyGivenNames xl; refine keeps_cut (F := F) (r := q0) (x := xl) (fun hx => ?_) ?_; (focus clear_value xl; rename' xl => y); rotate_left; (focus unfold xl; clear xl); rotate_left)
    | (extract_lets -underBinder +onlyGivenNames xl; clear_value xl; rename' xl => y)
    | with_reducible apply State.grant_keeps
    | with_reducible apply State.decide'_keeps
    | with_reducible apply State.dropDebug_keeps
    | with_reducible apply State.modArb_keeps
    | with_reducible apply State.send_keeps
    | with_reducible apply State.incSat_keeps
    | with_reducible apply State.setB_keeps
    | with_reducible apply State.set_keeps
    | split

theorem execSwapTimeout_keeps {F : Part → Prop} {q0 s : State} [Open F .regs] [Open F .out] [Open F .life] [Open F .keeper] [Open F .cmds] [Open F .arb] (h : Keeps F q0 s)  : KeepsOut F q0 (execSwapTimeout s) := by
  unfold execSwapTimeout
  repeat' first
    | with_reducible assumption
    | with_reducible apply keeps_ite
    | with_reducible apply keepsOut_next
    | (refine keepsOut_whileRuns ?_ ?_)
    | with_reducible apply keepsOut_ite
    | with_reducible apply keepsOut_fault
    | (extract_lets -underBinder +onlyGivenNames xl; refine keeps_cut (F := F) (r := q0) (x := xl) (fun hx => ?_) ?_; (focus clear_value xl; rename' xl => y); rotate_left; (focus unfold xl; clear xl); rotate_left)
    | (extract_lets -underBinder +onlyGivenNames xl; clear_value xl; rename' xl => y)
    | with_reducible apply State.doneRelease_keeps
    | with_reducible apply State.decide'_keeps
    | with_reducible apply State.tryStart_keeps
    | with_reducible apply State.modArb_keeps
    | with_reducible apply State.modCmd_keeps
    | with_reducible apply State.setB_keeps
    | split

theorem execDebugAttach_keeps {F : Part → Prop} {q0 s : State} [Open F .regs] (h : Keeps F q0 s) (c : Fin 2) : KeepsOut F q0 (execDebugAttach c s) := by
  unfold execDebugAttach
  repeat' first
    | with_reducible assumption
    | with_reducible apply keeps_ite
    | with_reducible apply keepsOut_next
    | (refine keepsOut_whileRuns ?_ ?_)
    | with_reducible apply keepsOut_ite
    | with_reducible apply keepsOut_fault
    | with_reducible apply State.setB_keeps
    | split

theorem execShellDebugHalt_keeps {F : Part → Prop} {q0 s : State} [Open F .regs] [Open F .cmds] (h : Keeps F q0 s) (c : Fin 2) (counts : List Nat) : KeepsOut F q0 (execShellDebugHalt c counts s) := by
  unfold execShellDebugHalt
  repeat' first
    | with_reducible assumption
    | with_reducible apply keeps_ite
    | with_reducible apply keepsOut_next
    | (refine keepsOut_whileRuns ?_ ?_)
    | with_reducible apply keepsOut_ite
    | with_reducible apply keepsOut_fault
    | (extract_lets -underBinder +onlyGivenNames xl; refine keeps_cut (F := F) (r := q0) (x := xl) (fun hx => ?_) ?_; (focus clear_value xl; rename' xl => y); rotate_left; (focus unfold xl; clear xl); rotate_left)
    | (extract_lets -underBinder +onlyGivenNames xl; clear_value xl; rename' xl => y)
    | with_reducible apply State.haltCheck_keeps
    | with_reducible apply State.modCmd_keeps
    | with_reducible apply State.setB_keeps
    | split

theorem State.applyDebugWrites_keeps {F : Part → Prop} {q0 s : State} [Open F .cmds] (h : Keeps F q0 s) (l : Nat) (apply : State → Nat → Word → State) (h_apply : ∀ (x0 : State) (x1 : Nat) (x2 : Word), Keeps F q0 x0 → Keeps F q0 (apply x0 x1 x2)) : Keeps F q0 (State.applyDebugWrites s l apply) := by
  unfold State.applyDebugWrites
  repeat' first
    | (intro i t ht)
    | with_reducible assumption
    | with_reducible apply keeps_ite
    | with_reducible apply State.modCmd_keeps
    | with_reducible apply foldl_keeps
    | apply h_apply
    | split

theorem State.debugResume_keeps {F : Part → Prop} {q0 s : State} [Open F .regs] [Open F .out] [Open F .life] [Open F .keeper] [Open F .cmds] (h : Keeps F q0 s) (c : Nat) (apply : State → Nat → Word → State) (h_apply : ∀ (x0 : State) (x1 : Nat) (x2 : Word), Keeps F q0 x0 → Keeps F q0 (apply x0 x1 x2)) : Keeps F q0 (State.debugResume s c apply) := by
  unfold State.debugResume
  repeat' first
    | (intro i t ht)
    | with_reducible assumption
    | with_reducible apply keeps_ite
    | (extract_lets -underBinder +onlyGivenNames xl; refine keeps_cut (F := F) (r := q0) (x := xl) (fun hx => ?_) ?_; (focus clear_value xl; rename' xl => y); rotate_left; (focus unfold xl; clear xl); rotate_left)
    | (extract_lets -underBinder +onlyGivenNames xl; clear_value xl; rename' xl => y)
    | with_reducible apply State.applyDebugWrites_keeps
    | with_reducible apply State.tryStart_keeps
    | with_reducible apply State.modCmd_keeps
    | with_reducible apply State.setB_keeps
    | apply h_apply
    | split

theorem State.dieOut_keeps {F : Part → Prop} {q0 s : State} [Open F .regs] [Open F .ports] [Open F .tgs] [Open F .drives] [Open F .cles] [Open F .gridS] (h : Keeps F q0 s) (d : Nat) : Keeps F q0 (State.dieOut s d) := by
  unfold State.dieOut
  repeat' first
    | with_reducible assumption
    | with_reducible apply keeps_ite
    | (extract_lets -underBinder +onlyGivenNames xl; refine keeps_cut (F := F) (r := q0) (x := xl) (fun hx => ?_) ?_; (focus clear_value xl; rename' xl => y); rotate_left; (focus unfold xl; clear xl); rotate_left)
    | (extract_lets -underBinder +onlyGivenNames xl; clear_value xl; rename' xl => y)
    | with_reducible apply State.cleRetired_keeps
    | with_reducible apply State.guardAssert_keeps
    | with_reducible apply State.branchAssert_keeps
    | with_reducible apply State.modDrive_keeps
    | split
    | refine Keeps.gridS ?_ _

theorem State.retireDie_keeps {F : Part → Prop} {q0 s : State} [Open F .regs] [Open F .ports] [Open F .tgs] [Open F .drives] [Open F .cles] [Open F .life] [Open F .keeper] [Open F .grids] [Open F .gridS] [Open F .crcs] (h : Keeps F q0 s) (d : Nat) : Keeps F q0 (State.retireDie s d) := by
  unfold State.retireDie
  repeat' first
    | (intro i t ht)
    | with_reducible assumption
    | with_reducible apply keeps_ite
    | (extract_lets -underBinder +onlyGivenNames xl; refine keeps_cut (F := F) (r := q0) (x := xl) (fun hx => ?_) ?_; (focus clear_value xl; rename' xl => y); rotate_left; (focus unfold xl; clear xl); rotate_left)
    | (extract_lets -underBinder +onlyGivenNames xl; clear_value xl; rename' xl => y)
    | with_reducible apply State.dieOut_keeps
    | with_reducible apply State.refreshProbeDie_keeps
    | with_reducible apply State.scanFail_keeps
    | with_reducible apply State.refreshGrid_keeps
    | with_reducible apply State.recordMember_keeps
    | with_reducible apply State.recordRetire_keeps
    | with_reducible apply foldOver_keeps
    | split

end Sys2Proof.Machine
end

