-- ==== Sys2Proof/Laws/KeepsSafety.lean ====
section
/-! SUPPORT.  What the operations of Machine/Safety.lean keep. -/

set_option linter.unusedTactic false
set_option linter.unreachableTactic false
set_option linter.unusedVariables false
set_option linter.unnecessarySeqFocus false

namespace Sys2Proof.Machine

theorem State.modSafety_keeps {F : Part → Prop} {q0 s : State} [Open F .safety] (h : Keeps F q0 s) (f : Safety → Safety) : Keeps F q0 (State.modSafety s f) := by
  unfold State.modSafety
  repeat' first
    | with_reducible assumption
    | with_reducible apply keeps_ite
    | split
    | refine Keeps.safety ?_ _

theorem State.modChan_keeps {F : Part → Prop} {q0 s : State} [Open F .safety] (h : Keeps F q0 s) (ch : Nat) (f : SafeChannel → SafeChannel) : Keeps F q0 (State.modChan s ch f) := by
  unfold State.modChan
  repeat' first
    | with_reducible assumption
    | with_reducible apply keeps_ite
    | with_reducible apply State.modSafety_keeps
    | split

theorem State.modMon_keeps {F : Part → Prop} {q0 s : State} [Open F .safety] (h : Keeps F q0 s) (ch : Nat) (k : Nat) (f : AxisMon → AxisMon) : Keeps F q0 (State.modMon s ch k f) := by
  unfold State.modMon
  repeat' first
    | with_reducible assumption
    | with_reducible apply keeps_ite
    | with_reducible apply State.modChan_keeps
    | split

theorem State.modInput_keeps {F : Part → Prop} {q0 s : State} [Open F .safety] (h : Keeps F q0 s) (ch : Nat) (n : Nat) (f : SafeInput → SafeInput) : Keeps F q0 (State.modInput s ch n f) := by
  unfold State.modInput
  repeat' first
    | with_reducible assumption
    | with_reducible apply keeps_ite
    | with_reducible apply State.modChan_keeps
    | split

theorem State.modAxis_keeps {F : Part → Prop} {q0 s : State} [Open F .safety] (h : Keeps F q0 s) (k : Nat) (f : SafeAxis → SafeAxis) : Keeps F q0 (State.modAxis s k f) := by
  unfold State.modAxis
  repeat' first
    | with_reducible assumption
    | with_reducible apply keeps_ite
    | with_reducible apply State.modSafety_keeps
    | split

theorem State.modConn_keeps {F : Part → Prop} {q0 s : State} [Open F .safety] (h : Keeps F q0 s) (c : Nat) (f : SafeConn → SafeConn) : Keeps F q0 (State.modConn s c f) := by
  unfold State.modConn
  repeat' first
    | with_reducible assumption
    | with_reducible apply keeps_ite
    | with_reducible apply State.modSafety_keeps
    | split

theorem State.showAxis_keeps {F : Part → Prop} {q0 s : State} [Open F .regs] (h : Keeps F q0 s) (k : Nat) : Keeps F q0 (State.showAxis s k) := by
  unfold State.showAxis
  repeat' first
    | with_reducible assumption
    | with_reducible apply keeps_ite
    | (extract_lets -underBinder +onlyGivenNames xl; refine keeps_cut (F := F) (r := q0) (x := xl) (fun hx => ?_) ?_; (focus clear_value xl; rename' xl => y); rotate_left; (focus unfold xl; clear xl); rotate_left)
    | (extract_lets -underBinder +onlyGivenNames xl; clear_value xl; rename' xl => y)
    | with_reducible apply State.setB_keeps
    | with_reducible apply State.set_keeps
    | split

theorem State.showAxes_keeps {F : Part → Prop} {q0 s : State} [Open F .regs] (h : Keeps F q0 s)  : Keeps F q0 (State.showAxes s) := by
  unfold State.showAxes
  repeat' first
    | (intro i t ht)
    | with_reducible assumption
    | with_reducible apply keeps_ite
    | with_reducible apply State.showAxis_keeps
    | with_reducible apply foldOver_keeps
    | split

theorem State.failPi_keeps {F : Part → Prop} {q0 s : State} [Open F .regs] [Open F .safety] (h : Keeps F q0 s) (p : Nat) : Keeps F q0 (State.failPi s p) := by
  unfold State.failPi
  repeat' first
    | (intro i t ht)
    | with_reducible assumption
    | with_reducible apply keeps_ite
    | with_reducible apply State.modAxis_keeps
    | with_reducible apply State.setB_keeps
    | with_reducible apply foldOver_keeps
    | split

theorem State.failAllPi_keeps {F : Part → Prop} {q0 s : State} [Open F .regs] [Open F .safety] (h : Keeps F q0 s)  : Keeps F q0 (State.failAllPi s) := by
  unfold State.failAllPi
  repeat' first
    | (intro i t ht)
    | with_reducible assumption
    | with_reducible apply keeps_ite
    | with_reducible apply State.failPi_keeps
    | with_reducible apply foldOver_keeps
    | split

theorem State.failWs_keeps {F : Part → Prop} {q0 s : State} [Open F .regs] [Open F .safety] (h : Keeps F q0 s) (ch : Nat) (n : Nat) : Keeps F q0 (State.failWs s ch n) := by
  unfold State.failWs
  repeat' first
    | (intro i t ht)
    | with_reducible assumption
    | with_reducible apply keeps_ite
    | with_reducible apply State.showAxes_keeps
    | with_reducible apply State.modMon_keeps
    | with_reducible apply foldOver_keeps
    | split

theorem State.trackAxis_keeps {F : Part → Prop} {q0 s : State} [Open F .safety] (h : Keeps F q0 s) (ch : Nat) (k : Nat) (dt : Nat) : Keeps F q0 (State.trackAxis s ch k dt) := by
  unfold State.trackAxis
  repeat' first
    | with_reducible assumption
    | with_reducible apply keeps_ite
    | (extract_lets -underBinder +onlyGivenNames xl; refine keeps_cut (F := F) (r := q0) (x := xl) (fun hx => ?_) ?_; (focus clear_value xl; rename' xl => y); rotate_left; (focus unfold xl; clear xl); rotate_left)
    | (extract_lets -underBinder +onlyGivenNames xl; clear_value xl; rename' xl => y)
    | with_reducible apply State.modMon_keeps
    | split

theorem State.markViolation_keeps {F : Part → Prop} {q0 s : State} [Open F .regs] [Open F .safety] (h : Keeps F q0 s) (ch : Nat) (k : Nat) (cause : Nat) : Keeps F q0 (State.markViolation s ch k cause) := by
  unfold State.markViolation
  repeat' first
    | with_reducible assumption
    | with_reducible apply keeps_ite
    | (extract_lets -underBinder +onlyGivenNames xl; refine keeps_cut (F := F) (r := q0) (x := xl) (fun hx => ?_) ?_; (focus clear_value xl; rename' xl => y); rotate_left; (focus unfold xl; clear xl); rotate_left)
    | (extract_lets -underBinder +onlyGivenNames xl; clear_value xl; rename' xl => y)
    | with_reducible apply State.modMon_keeps
    | with_reducible apply State.setBit_keeps
    | with_reducible apply State.incSat_keeps
    | split

theorem State.driveSto_keeps {F : Part → Prop} {q0 s : State} [Open F .regs] [Open F .ports] [Open F .tgs] [Open F .drives] (h : Keeps F q0 s)  : Keeps F q0 (State.driveSto s) := by
  unfold State.driveSto
  repeat' first
    | (intro i t ht)
    | with_reducible assumption
    | with_reducible apply keeps_ite
    | (extract_lets -underBinder +onlyGivenNames xl; refine keeps_cut (F := F) (r := q0) (x := xl) (fun hx => ?_) ?_; (focus clear_value xl; rename' xl => y); rotate_left; (focus unfold xl; clear xl); rotate_left)
    | (extract_lets -underBinder +onlyGivenNames xl; clear_value xl; rename' xl => y)
    | with_reducible apply State.branchAssert_keeps
    | with_reducible apply State.setB_keeps
    | with_reducible apply foldOver_keeps
    | split

theorem State.refreshSState_keeps {F : Part → Prop} {q0 s : State} [Open F .regs] (h : Keeps F q0 s)  : Keeps F q0 (State.refreshSState s) := by
  unfold State.refreshSState
  repeat' first
    | with_reducible assumption
    | with_reducible apply keeps_ite
    | (extract_lets -underBinder +onlyGivenNames xl; refine keeps_cut (F := F) (r := q0) (x := xl) (fun hx => ?_) ?_; (focus clear_value xl; rename' xl => y); rotate_left; (focus unfold xl; clear xl); rotate_left)
    | (extract_lets -underBinder +onlyGivenNames xl; clear_value xl; rename' xl => y)
    | with_reducible apply State.setB_keeps
    | with_reducible apply State.setReg_keeps
    | split

theorem State.safetyFault_keeps {F : Part → Prop} {q0 s : State} [Open F .regs] [Open F .life] [Open F .sys] [Open F .keeper] (h : Keeps F q0 s)  : Keeps F q0 (State.safetyFault s) := by
  unfold State.safetyFault
  repeat' first
    | with_reducible assumption
    | with_reducible apply keeps_ite
    | (extract_lets -underBinder +onlyGivenNames xl; refine keeps_cut (F := F) (r := q0) (x := xl) (fun hx => ?_) ?_; (focus clear_value xl; rename' xl => y); rotate_left; (focus unfold xl; clear xl); rotate_left)
    | (extract_lets -underBinder +onlyGivenNames xl; clear_value xl; rename' xl => y)
    | with_reducible apply State.enterFault_keeps
    | with_reducible apply State.countEvent_keeps
    | with_reducible apply State.burstRequest_keeps
    | split
    | refine Keeps.sys ?_ _

theorem State.chanSto_keeps {F : Part → Prop} {q0 s : State} [Open F .regs] [Open F .safety] (h : Keeps F q0 s) (ch : Nat) : Keeps F q0 (State.chanSto s ch) := by
  unfold State.chanSto
  repeat' first
    | with_reducible assumption
    | with_reducible apply keeps_ite
    | (extract_lets -underBinder +onlyGivenNames xl; refine keeps_cut (F := F) (r := q0) (x := xl) (fun hx => ?_) ?_; (focus clear_value xl; rename' xl => y); rotate_left; (focus unfold xl; clear xl); rotate_left)
    | (extract_lets -underBinder +onlyGivenNames xl; clear_value xl; rename' xl => y)
    | with_reducible apply State.modChan_keeps
    | with_reducible apply State.incSat_keeps
    | with_reducible apply State.set_keeps
    | split

theorem State.chanSs1_keeps {F : Part → Prop} {q0 s : State} [Open F .regs] [Open F .safety] (h : Keeps F q0 s) (ch : Nat) : Keeps F q0 (State.chanSs1 s ch) := by
  unfold State.chanSs1
  repeat' first
    | with_reducible assumption
    | with_reducible apply keeps_ite
    | (extract_lets -underBinder +onlyGivenNames xl; refine keeps_cut (F := F) (r := q0) (x := xl) (fun hx => ?_) ?_; (focus clear_value xl; rename' xl => y); rotate_left; (focus unfold xl; clear xl); rotate_left)
    | (extract_lets -underBinder +onlyGivenNames xl; clear_value xl; rename' xl => y)
    | with_reducible apply State.modChan_keeps
    | with_reducible apply State.incSat_keeps
    | with_reducible apply State.set_keeps
    | split

theorem State.lock_keeps {F : Part → Prop} {q0 s : State} [Open F .regs] [Open F .ports] [Open F .tgs] [Open F .drives] [Open F .safety] (h : Keeps F q0 s) (cause : Nat) : Keeps F q0 (State.lock s cause) := by
  unfold State.lock
  repeat' first
    | with_reducible assumption
    | with_reducible apply keeps_ite
    | (extract_lets -underBinder +onlyGivenNames xl; refine keeps_cut (F := F) (r := q0) (x := xl) (fun hx => ?_) ?_; (focus clear_value xl; rename' xl => y); rotate_left; (focus unfold xl; clear xl); rotate_left)
    | (extract_lets -underBinder +onlyGivenNames xl; clear_value xl; rename' xl => y)
    | with_reducible apply State.refreshSState_keeps
    | with_reducible apply State.driveSto_keeps
    | with_reducible apply State.modChan_keeps
    | with_reducible apply State.set_keeps
    | split

theorem State.driveSo_keeps {F : Part → Prop} {q0 s : State} [Open F .regs] [Open F .safety] (h : Keeps F q0 s) (ch : Nat) : Keeps F q0 (State.driveSo s ch) := by
  unfold State.driveSo
  repeat' first
    | with_reducible assumption
    | with_reducible apply keeps_ite
    | (extract_lets -underBinder +onlyGivenNames xl; refine keeps_cut (F := F) (r := q0) (x := xl) (fun hx => ?_) ?_; (focus clear_value xl; rename' xl => y); rotate_left; (focus unfold xl; clear xl); rotate_left)
    | (extract_lets -underBinder +onlyGivenNames xl; clear_value xl; rename' xl => y)
    | with_reducible apply State.modChan_keeps
    | with_reducible apply State.set_keeps
    | split

theorem State.dropAck_keeps {F : Part → Prop} {q0 s : State} [Open F .safety] (h : Keeps F q0 s) (ch : Nat) : Keeps F q0 (State.dropAck s ch) := by
  unfold State.dropAck
  repeat' first
    | with_reducible assumption
    | with_reducible apply keeps_ite
    | with_reducible apply State.modChan_keeps
    | split

theorem State.evaluate_keeps {F : Part → Prop} {q0 s : State} [Open F .regs] [Open F .ports] [Open F .tgs] [Open F .drives] [Open F .safety] (h : Keeps F q0 s) (ch : Nat) (dt : Nat) : Keeps F q0 (State.evaluate s ch dt) := by
  unfold State.evaluate
  repeat' first
    | (intro i t ht)
    | with_reducible assumption
    | with_reducible apply keeps_ite
    | (extract_lets -underBinder +onlyGivenNames xl; refine keeps_cut (F := F) (r := q0) (x := xl) (fun hx => ?_) ?_; (focus clear_value xl; rename' xl => y); rotate_left; (focus unfold xl; clear xl); rotate_left)
    | (extract_lets -underBinder +onlyGivenNames xl; clear_value xl; rename' xl => y)
    | with_reducible apply State.dropAck_keeps
    | with_reducible apply State.driveSo_keeps
    | with_reducible apply State.chanSs1_keeps
    | with_reducible apply State.chanSto_keeps
    | with_reducible apply State.refreshSState_keeps
    | with_reducible apply State.driveSto_keeps
    | with_reducible apply State.markViolation_keeps
    | with_reducible apply State.trackAxis_keeps
    | with_reducible apply State.showAxes_keeps
    | with_reducible apply State.modChan_keeps
    | with_reducible apply foldOver_keeps
    | with_reducible apply foldl_keeps
    | split

theorem State.evaluateBoth_keeps {F : Part → Prop} {q0 s : State} [Open F .regs] [Open F .ports] [Open F .tgs] [Open F .drives] [Open F .safety] (h : Keeps F q0 s)  : Keeps F q0 (State.evaluateBoth s) := by
  unfold State.evaluateBoth
  repeat' first
    | with_reducible assumption
    | with_reducible apply keeps_ite
    | with_reducible apply State.evaluate_keeps
    | split

theorem State.release_keeps {F : Part → Prop} {q0 s : State} [Open F .drives] [Open F .safety] (h : Keeps F q0 s) (ch : Nat) : Keeps F q0 (State.release s ch) := by
  unfold State.release
  repeat' first
    | (intro i t ht)
    | with_reducible assumption
    | with_reducible apply keeps_ite
    | (extract_lets -underBinder +onlyGivenNames xl; refine keeps_cut (F := F) (r := q0) (x := xl) (fun hx => ?_) ?_; (focus clear_value xl; rename' xl => y); rotate_left; (focus unfold xl; clear xl); rotate_left)
    | (extract_lets -underBinder +onlyGivenNames xl; clear_value xl; rename' xl => y)
    | with_reducible apply State.modChan_keeps
    | with_reducible apply State.modDrive_keeps
    | with_reducible apply foldOver_keeps
    | split

theorem State.acknowledge_keeps {F : Part → Prop} {q0 s : State} [Open F .regs] [Open F .ports] [Open F .tgs] [Open F .drives] [Open F .safety] (h : Keeps F q0 s) (chs : List Nat) : Keeps F q0 (State.acknowledge s chs) := by
  unfold State.acknowledge
  repeat' first
    | (intro i t ht)
    | with_reducible assumption
    | with_reducible apply keeps_ite
    | (extract_lets -underBinder +onlyGivenNames xl; refine keeps_cut (F := F) (r := q0) (x := xl) (fun hx => ?_) ?_; (focus clear_value xl; rename' xl => y); rotate_left; (focus unfold xl; clear xl); rotate_left)
    | (extract_lets -underBinder +onlyGivenNames xl; clear_value xl; rename' xl => y)
    | with_reducible apply State.release_keeps
    | with_reducible apply State.driveSo_keeps
    | with_reducible apply State.refreshSState_keeps
    | with_reducible apply State.driveSto_keeps
    | with_reducible apply State.showAxes_keeps
    | with_reducible apply State.setB_keeps
    | with_reducible apply foldOver_keeps
    | split

theorem execRestartAck_keeps {F : Part → Prop} {q0 s : State} [Open F .regs] [Open F .ports] [Open F .tgs] [Open F .drives] [Open F .safety] (h : Keeps F q0 s) (src : AckSource) : KeepsOut F q0 (execRestartAck src s) := by
  unfold execRestartAck
  repeat' first
    | (intro i t ht)
    | with_reducible assumption
    | with_reducible apply keeps_ite
    | with_reducible apply keepsOut_next
    | (refine keepsOut_whileRuns ?_ ?_)
    | with_reducible apply keepsOut_ite
    | with_reducible apply keepsOut_fault
    | (extract_lets -underBinder +onlyGivenNames xl; refine keeps_cut (F := F) (r := q0) (x := xl) (fun hx => ?_) ?_; (focus clear_value xl; rename' xl => y); rotate_left; (focus unfold xl; clear xl); rotate_left)
    | (extract_lets -underBinder +onlyGivenNames xl; clear_value xl; rename' xl => y)
    | with_reducible apply State.acknowledge_keeps
    | with_reducible apply State.modInput_keeps
    | with_reducible apply State.modChan_keeps
    | with_reducible apply foldOver_keeps
    | split

theorem State.degEnd_keeps {F : Part → Prop} {q0 s : State} [Open F .regs] [Open F .safety] (h : Keeps F q0 s)  : Keeps F q0 (State.degEnd s) := by
  unfold State.degEnd
  repeat' first
    | with_reducible assumption
    | with_reducible apply keeps_ite
    | (extract_lets -underBinder +onlyGivenNames xl; refine keeps_cut (F := F) (r := q0) (x := xl) (fun hx => ?_) ?_; (focus clear_value xl; rename' xl => y); rotate_left; (focus unfold xl; clear xl); rotate_left)
    | (extract_lets -underBinder +onlyGivenNames xl; clear_value xl; rename' xl => y)
    | with_reducible apply State.chanSs1_keeps
    | with_reducible apply State.refreshSState_keeps
    | with_reducible apply State.modChan_keeps
    | split

theorem State.degEntry_keeps {F : Part → Prop} {q0 s : State} [Open F .regs] [Open F .safety] (h : Keeps F q0 s) (axis : Option Nat) : Keeps F q0 (State.degEntry s axis) := by
  unfold State.degEntry
  repeat' first
    | (intro i t ht)
    | with_reducible assumption
    | with_reducible apply keeps_ite
    | (extract_lets -underBinder +onlyGivenNames xl; refine keeps_cut (F := F) (r := q0) (x := xl) (fun hx => ?_) ?_; (focus clear_value xl; rename' xl => y); rotate_left; (focus unfold xl; clear xl); rotate_left)
    | (extract_lets -underBinder +onlyGivenNames xl; clear_value xl; rename' xl => y)
    | with_reducible apply State.modChan_keeps
    | with_reducible apply State.incSat_keeps
    | with_reducible apply State.set_keeps
    | with_reducible apply foldOver_keeps
    | split

theorem State.degCheck_keeps {F : Part → Prop} {q0 s : State} [Open F .regs] [Open F .safety] (h : Keeps F q0 s) (ch : Nat) : Keeps F q0 (State.degCheck s ch) := by
  unfold State.degCheck
  repeat' first
    | with_reducible assumption
    | with_reducible apply keeps_ite
    | (extract_lets -underBinder +onlyGivenNames xl; refine keeps_cut (F := F) (r := q0) (x := xl) (fun hx => ?_) ?_; (focus clear_value xl; rename' xl => y); rotate_left; (focus unfold xl; clear xl); rotate_left)
    | (extract_lets -underBinder +onlyGivenNames xl; clear_value xl; rename' xl => y)
    | with_reducible apply State.degEntry_keeps
    | with_reducible apply State.degEnd_keeps
    | split

theorem execDegTimeout_keeps {F : Part → Prop} {q0 s : State} [Open F .regs] [Open F .safety] (h : Keeps F q0 s)  : KeepsOut F q0 (execDegTimeout s) := by
  unfold execDegTimeout
  repeat' first
    | (intro i t ht)
    | with_reducible assumption
    | with_reducible apply keeps_ite
    | with_reducible apply keepsOut_next
    | (refine keepsOut_whileRuns ?_ ?_)
    | with_reducible apply keepsOut_ite
    | with_reducible apply keepsOut_fault
    | (extract_lets -underBinder +onlyGivenNames xl; refine keeps_cut (F := F) (r := q0) (x := xl) (fun hx => ?_) ?_; (focus clear_value xl; rename' xl => y); rotate_left; (focus unfold xl; clear xl); rotate_left)
    | (extract_lets -underBinder +onlyGivenNames xl; clear_value xl; rename' xl => y)
    | with_reducible apply State.degEnd_keeps
    | with_reducible apply State.modChan_keeps
    | with_reducible apply State.set_keeps
    | with_reducible apply foldOver_keeps
    | split

theorem State.copyMismatch_keeps {F : Part → Prop} {q0 s : State} [Open F .regs] [Open F .ports] [Open F .tgs] [Open F .drives] [Open F .life] [Open F .sys] [Open F .keeper] [Open F .safety] (h : Keeps F q0 s) (ch : Nat) : Keeps F q0 (State.copyMismatch s ch) := by
  unfold State.copyMismatch
  repeat' first
    | with_reducible assumption
    | with_reducible apply keeps_ite
    | (extract_lets -underBinder +onlyGivenNames xl; refine keeps_cut (F := F) (r := q0) (x := xl) (fun hx => ?_) ?_; (focus clear_value xl; rename' xl => y); rotate_left; (focus unfold xl; clear xl); rotate_left)
    | (extract_lets -underBinder +onlyGivenNames xl; clear_value xl; rename' xl => y)
    | with_reducible apply State.driveSo_keeps
    | with_reducible apply State.safetyFault_keeps
    | with_reducible apply State.refreshSState_keeps
    | with_reducible apply State.driveSto_keeps
    | with_reducible apply State.modChan_keeps
    | with_reducible apply State.setB_keeps
    | with_reducible apply State.set_keeps
    | split

theorem State.refreshRemaining_keeps {F : Part → Prop} {q0 s : State} [Open F .regs] (h : Keeps F q0 s)  : Keeps F q0 (State.refreshRemaining s) := by
  unfold State.refreshRemaining
  repeat' first
    | with_reducible assumption
    | with_reducible apply keeps_ite
    | (extract_lets -underBinder +onlyGivenNames xl; refine keeps_cut (F := F) (r := q0) (x := xl) (fun hx => ?_) ?_; (focus clear_value xl; rename' xl => y); rotate_left; (focus unfold xl; clear xl); rotate_left)
    | (extract_lets -underBinder +onlyGivenNames xl; clear_value xl; rename' xl => y)
    | with_reducible apply State.set_keeps
    | split

theorem State.checkDrift_keeps {F : Part → Prop} {q0 s : State} [Open F .safety] (h : Keeps F q0 s) (ch : Nat) : Keeps F q0 (State.checkDrift s ch) := by
  unfold State.checkDrift
  repeat' first
    | (intro i t ht)
    | with_reducible assumption
    | with_reducible apply keeps_ite
    | with_reducible apply State.modMon_keeps
    | with_reducible apply foldOver_keeps
    | split

theorem State.reference_keeps {F : Part → Prop} {q0 s : State} [Open F .safety] (h : Keeps F q0 s) (ch : Nat) (k : Nat) : Keeps F q0 (State.reference s ch k) := by
  unfold State.reference
  repeat' first
    | with_reducible assumption
    | with_reducible apply keeps_ite
    | (extract_lets -underBinder +onlyGivenNames xl; refine keeps_cut (F := F) (r := q0) (x := xl) (fun hx => ?_) ?_; (focus clear_value xl; rename' xl => y); rotate_left; (focus unfold xl; clear xl); rotate_left)
    | (extract_lets -underBinder +onlyGivenNames xl; clear_value xl; rename' xl => y)
    | with_reducible apply State.modMon_keeps
    | split

theorem State.referencing_keeps {F : Part → Prop} {q0 s : State} [Open F .safety] (h : Keeps F q0 s) (ch : Nat) : Keeps F q0 (State.referencing s ch) := by
  unfold State.referencing
  repeat' first
    | (intro i t ht)
    | with_reducible assumption
    | with_reducible apply keeps_ite
    | (extract_lets -underBinder +onlyGivenNames xl; refine keeps_cut (F := F) (r := q0) (x := xl) (fun hx => ?_) ?_; (focus clear_value xl; rename' xl => y); rotate_left; (focus unfold xl; clear xl); rotate_left)
    | (extract_lets -underBinder +onlyGivenNames xl; clear_value xl; rename' xl => y)
    | with_reducible apply State.reference_keeps
    | with_reducible apply State.modChan_keeps
    | with_reducible apply foldOver_keeps
    | split

theorem State.cycle_keeps {F : Part → Prop} {q0 s : State} [Open F .regs] [Open F .ports] [Open F .tgs] [Open F .drives] [Open F .safety] (h : Keeps F q0 s) (ch : Nat) (dt : Nat) : Keeps F q0 (State.cycle s ch dt) := by
  unfold State.cycle
  repeat' first
    | with_reducible assumption
    | with_reducible apply keeps_ite
    | (extract_lets -underBinder +onlyGivenNames xl; refine keeps_cut (F := F) (r := q0) (x := xl) (fun hx => ?_) ?_; (focus clear_value xl; rename' xl => y); rotate_left; (focus unfold xl; clear xl); rotate_left)
    | (extract_lets -underBinder +onlyGivenNames xl; clear_value xl; rename' xl => y)
    | with_reducible apply State.referencing_keeps
    | with_reducible apply State.checkDrift_keeps
    | with_reducible apply State.degCheck_keeps
    | with_reducible apply State.evaluate_keeps
    | with_reducible apply State.modChan_keeps
    | split

theorem execSafetyCycleA_keeps {F : Part → Prop} {q0 s : State} [Open F .regs] [Open F .ports] [Open F .tgs] [Open F .drives] [Open F .life] [Open F .sys] [Open F .keeper] [Open F .safety] (h : Keeps F q0 s) (bad : Bool) : KeepsOut F q0 (execSafetyCycleA bad s) := by
  unfold execSafetyCycleA
  repeat' first
    | (intro i t ht)
    | with_reducible assumption
    | with_reducible apply keeps_ite
    | with_reducible apply keepsOut_next
    | (refine keepsOut_whileRuns ?_ ?_)
    | with_reducible apply keepsOut_ite
    | with_reducible apply keepsOut_fault
    | (extract_lets -underBinder +onlyGivenNames xl; refine keeps_cut (F := F) (r := q0) (x := xl) (fun hx => ?_) ?_; (focus clear_value xl; rename' xl => y); rotate_left; (focus unfold xl; clear xl); rotate_left)
    | (extract_lets -underBinder +onlyGivenNames xl; clear_value xl; rename' xl => y)
    | with_reducible apply State.cycle_keeps
    | with_reducible apply State.copyMismatch_keeps
    | with_reducible apply State.modSafety_keeps
    | with_reducible apply State.incSat_keeps
    | with_reducible apply foldOver_keeps
    | split

theorem State.passCycle_keeps {F : Part → Prop} {q0 s : State} [Open F .regs] [Open F .cycles] [Open F .safety] (h : Keeps F q0 s)  : Keeps F q0 (State.passCycle s) := by
  unfold State.passCycle
  repeat' first
    | (intro i t ht)
    | with_reducible assumption
    | with_reducible apply keeps_ite
    | (extract_lets -underBinder +onlyGivenNames xl; refine keeps_cut (F := F) (r := q0) (x := xl) (fun hx => ?_) ?_; (focus clear_value xl; rename' xl => y); rotate_left; (focus unfold xl; clear xl); rotate_left)
    | (extract_lets -underBinder +onlyGivenNames xl; clear_value xl; rename' xl => y)
    | with_reducible apply State.modSafety_keeps
    | with_reducible apply State.addSat_keeps
    | with_reducible apply State.set_keeps
    | with_reducible apply foldOver_keeps
    | split
    | refine Keeps.cycles ?_ _

theorem execSafetyCycleB_keeps {F : Part → Prop} {q0 s : State} [Open F .regs] [Open F .ports] [Open F .tgs] [Open F .drives] [Open F .life] [Open F .sys] [Open F .keeper] [Open F .cycles] [Open F .safety] (h : Keeps F q0 s) (bad : Bool) : KeepsOut F q0 (execSafetyCycleB bad s) := by
  unfold execSafetyCycleB
  repeat' first
    | with_reducible assumption
    | with_reducible apply keeps_ite
    | with_reducible apply keepsOut_next
    | (refine keepsOut_whileRuns ?_ ?_)
    | with_reducible apply keepsOut_ite
    | with_reducible apply keepsOut_fault
    | (extract_lets -underBinder +onlyGivenNames xl; refine keeps_cut (F := F) (r := q0) (x := xl) (fun hx => ?_) ?_; (focus clear_value xl; rename' xl => y); rotate_left; (focus unfold xl; clear xl); rotate_left)
    | (extract_lets -underBinder +onlyGivenNames xl; clear_value xl; rename' xl => y)
    | with_reducible apply State.passCycle_keeps
    | with_reducible apply State.cycle_keeps
    | with_reducible apply State.refreshRemaining_keeps
    | with_reducible apply State.copyMismatch_keeps
    | split

theorem execXdisc_keeps {F : Part → Prop} {q0 s : State} [Open F .regs] [Open F .ports] [Open F .tgs] [Open F .drives] [Open F .life] [Open F .sys] [Open F .keeper] [Open F .safety] (h : Keeps F q0 s)  : KeepsOut F q0 (execXdisc s) := by
  unfold execXdisc
  repeat' first
    | with_reducible assumption
    | with_reducible apply keeps_ite
    | with_reducible apply keepsOut_next
    | (refine keepsOut_whileRuns ?_ ?_)
    | with_reducible apply keepsOut_ite
    | with_reducible apply keepsOut_fault
    | with_reducible apply State.lock_keeps
    | with_reducible apply State.safetyFault_keeps
    | with_reducible apply State.setB_keeps
    | split

theorem State.ss1Complete_keeps {F : Part → Prop} {q0 s : State} [Open F .regs] [Open F .ports] [Open F .tgs] [Open F .drives] [Open F .safety] (h : Keeps F q0 s) (chs : List Nat) : Keeps F q0 (State.ss1Complete s chs) := by
  unfold State.ss1Complete
  repeat' first
    | (intro i t ht)
    | with_reducible assumption
    | with_reducible apply keeps_ite
    | (extract_lets -underBinder +onlyGivenNames xl; refine keeps_cut (F := F) (r := q0) (x := xl) (fun hx => ?_) ?_; (focus clear_value xl; rename' xl => y); rotate_left; (focus unfold xl; clear xl); rotate_left)
    | (extract_lets -underBinder +onlyGivenNames xl; clear_value xl; rename' xl => y)
    | with_reducible apply State.driveSo_keeps
    | with_reducible apply State.lock_keeps
    | with_reducible apply State.chanSto_keeps
    | with_reducible apply State.refreshSState_keeps
    | with_reducible apply State.driveSto_keeps
    | with_reducible apply State.set_keeps
    | with_reducible apply foldOver_keeps
    | split

theorem execSs1Standstill_keeps {F : Part → Prop} {q0 s : State} [Open F .regs] [Open F .ports] [Open F .tgs] [Open F .drives] [Open F .safety] (h : Keeps F q0 s)  : KeepsOut F q0 (execSs1Standstill s) := by
  unfold execSs1Standstill
  repeat' first
    | with_reducible assumption
    | with_reducible apply keeps_ite
    | with_reducible apply keepsOut_next
    | (refine keepsOut_whileRuns ?_ ?_)
    | with_reducible apply keepsOut_ite
    | with_reducible apply keepsOut_fault
    | with_reducible apply State.ss1Complete_keeps
    | split

theorem execSs1TmaxExpire_keeps {F : Part → Prop} {q0 s : State} [Open F .regs] [Open F .ports] [Open F .tgs] [Open F .drives] [Open F .safety] (h : Keeps F q0 s)  : KeepsOut F q0 (execSs1TmaxExpire s) := by
  unfold execSs1TmaxExpire
  repeat' first
    | with_reducible assumption
    | with_reducible apply keeps_ite
    | with_reducible apply keepsOut_next
    | (refine keepsOut_whileRuns ?_ ?_)
    | with_reducible apply keepsOut_ite
    | with_reducible apply keepsOut_fault
    | with_reducible apply State.ss1Complete_keeps
    | split

theorem execDiscVTimeout_keeps {F : Part → Prop} {q0 s : State} [Open F .regs] [Open F .safety] (h : Keeps F q0 s) (k : Fin 4) : KeepsOut F q0 (execDiscVTimeout k s) := by
  unfold execDiscVTimeout
  repeat' first
    | (intro i t ht)
    | with_reducible assumption
    | with_reducible apply keeps_ite
    | with_reducible apply keepsOut_next
    | (refine keepsOut_whileRuns ?_ ?_)
    | with_reducible apply keepsOut_ite
    | with_reducible apply keepsOut_fault
    | (extract_lets -underBinder +onlyGivenNames xl; refine keeps_cut (F := F) (r := q0) (x := xl) (fun hx => ?_) ?_; (focus clear_value xl; rename' xl => y); rotate_left; (focus unfold xl; clear xl); rotate_left)
    | (extract_lets -underBinder +onlyGivenNames xl; clear_value xl; rename' xl => y)
    | with_reducible apply State.showAxes_keeps
    | with_reducible apply State.modMon_keeps
    | with_reducible apply foldOver_keeps
    | split

theorem State.showInput_keeps {F : Part → Prop} {q0 s : State} [Open F .regs] (h : Keeps F q0 s) (n : Nat) : Keeps F q0 (State.showInput s n) := by
  unfold State.showInput
  repeat' first
    | with_reducible assumption
    | with_reducible apply keeps_ite
    | (extract_lets -underBinder +onlyGivenNames xl; refine keeps_cut (F := F) (r := q0) (x := xl) (fun hx => ?_) ?_; (focus clear_value xl; rename' xl => y); rotate_left; (focus unfold xl; clear xl); rotate_left)
    | (extract_lets -underBinder +onlyGivenNames xl; clear_value xl; rename' xl => y)
    | with_reducible apply State.setBit_keeps
    | split

theorem State.sampleInput_keeps {F : Part → Prop} {q0 s : State} [Open F .safety] (h : Keeps F q0 s) (ch : Nat) (n : Nat) (pa : Bool) (pb : Bool) : Keeps F q0 (State.sampleInput s ch n pa pb) := by
  unfold State.sampleInput
  repeat' first
    | with_reducible assumption
    | with_reducible apply keeps_ite
    | (extract_lets -underBinder +onlyGivenNames xl; refine keeps_cut (F := F) (r := q0) (x := xl) (fun hx => ?_) ?_; (focus clear_value xl; rename' xl => y); rotate_left; (focus unfold xl; clear xl); rotate_left)
    | (extract_lets -underBinder +onlyGivenNames xl; clear_value xl; rename' xl => y)
    | with_reducible apply State.modInput_keeps
    | split

theorem State.sampleWheel_keeps {F : Part → Prop} {q0 s : State} [Open F .regs] [Open F .safety] (h : Keeps F q0 s) (ch : Nat) (n : Nat) (pa : Bool) (pb : Bool) : Keeps F q0 (State.sampleWheel s ch n pa pb) := by
  unfold State.sampleWheel
  repeat' first
    | with_reducible assumption
    | with_reducible apply keeps_ite
    | (extract_lets -underBinder +onlyGivenNames xl; refine keeps_cut (F := F) (r := q0) (x := xl) (fun hx => ?_) ?_; (focus clear_value xl; rename' xl => y); rotate_left; (focus unfold xl; clear xl); rotate_left)
    | (extract_lets -underBinder +onlyGivenNames xl; clear_value xl; rename' xl => y)
    | with_reducible apply State.failWs_keeps
    | with_reducible apply State.modChan_keeps
    | with_reducible apply State.setReg_keeps
    | split

theorem State.samplePins_keeps {F : Part → Prop} {q0 s : State} [Open F .regs] [Open F .safety] (h : Keeps F q0 s) (ch : Nat) (p : SafetyPins) : Keeps F q0 (State.samplePins s ch p) := by
  unfold State.samplePins
  repeat' first
    | (intro i t ht)
    | with_reducible assumption
    | with_reducible apply keeps_ite
    | (extract_lets -underBinder +onlyGivenNames xl; refine keeps_cut (F := F) (r := q0) (x := xl) (fun hx => ?_) ?_; (focus clear_value xl; rename' xl => y); rotate_left; (focus unfold xl; clear xl); rotate_left)
    | (extract_lets -underBinder +onlyGivenNames xl; clear_value xl; rename' xl => y)
    | with_reducible apply State.sampleWheel_keeps
    | with_reducible apply State.sampleInput_keeps
    | with_reducible apply State.modChan_keeps
    | with_reducible apply foldOver_keeps
    | with_reducible apply foldl_keeps
    | split

theorem execSafetyInputSample_keeps {F : Part → Prop} {q0 s : State} [Open F .regs] [Open F .safety] (h : Keeps F q0 s) (p : Vector SafetyPins 2) : KeepsOut F q0 (execSafetyInputSample p s) := by
  unfold execSafetyInputSample
  repeat' first
    | (intro i t ht)
    | with_reducible assumption
    | with_reducible apply keeps_ite
    | with_reducible apply keepsOut_next
    | (refine keepsOut_whileRuns ?_ ?_)
    | with_reducible apply keepsOut_ite
    | with_reducible apply keepsOut_fault
    | (extract_lets -underBinder +onlyGivenNames xl; refine keeps_cut (F := F) (r := q0) (x := xl) (fun hx => ?_) ?_; (focus clear_value xl; rename' xl => y); rotate_left; (focus unfold xl; clear xl); rotate_left)
    | (extract_lets -underBinder +onlyGivenNames xl; clear_value xl; rename' xl => y)
    | with_reducible apply State.samplePins_keeps
    | with_reducible apply State.showInput_keeps
    | with_reducible apply State.refreshSState_keeps
    | with_reducible apply State.modSafety_keeps
    | with_reducible apply State.setB_keeps
    | with_reducible apply State.set_keeps
    | with_reducible apply foldOver_keeps
    | split

theorem execSiDisc_keeps {F : Part → Prop} {q0 s : State} [Open F .regs] [Open F .safety] (h : Keeps F q0 s) (n : Fin 8) : KeepsOut F q0 (execSiDisc n s) := by
  unfold execSiDisc
  repeat' first
    | (intro i t ht)
    | with_reducible assumption
    | with_reducible apply keeps_ite
    | with_reducible apply keepsOut_next
    | (refine keepsOut_whileRuns ?_ ?_)
    | with_reducible apply keepsOut_ite
    | with_reducible apply keepsOut_fault
    | (extract_lets -underBinder +onlyGivenNames xl; refine keeps_cut (F := F) (r := q0) (x := xl) (fun hx => ?_) ?_; (focus clear_value xl; rename' xl => y); rotate_left; (focus unfold xl; clear xl); rotate_left)
    | (extract_lets -underBinder +onlyGivenNames xl; clear_value xl; rename' xl => y)
    | with_reducible apply State.showInput_keeps
    | with_reducible apply State.modInput_keeps
    | with_reducible apply foldOver_keeps
    | split

theorem execTestPulse_keeps {F : Part → Prop} {q0 s : State} [Open F .regs] [Open F .out] [Open F .safety] (h : Keeps F q0 s) (tp : Fin 4) (pins : BitVec 16) : KeepsOut F q0 (execTestPulse tp pins s) := by
  unfold execTestPulse
  repeat' first
    | (intro i t ht)
    | with_reducible assumption
    | with_reducible apply keeps_ite
    | with_reducible apply keepsOut_next
    | (refine keepsOut_whileRuns ?_ ?_)
    | with_reducible apply keepsOut_ite
    | with_reducible apply keepsOut_fault
    | (extract_lets -underBinder +onlyGivenNames xl; refine keeps_cut (F := F) (r := q0) (x := xl) (fun hx => ?_) ?_; (focus clear_value xl; rename' xl => y); rotate_left; (focus unfold xl; clear xl); rotate_left)
    | (extract_lets -underBinder +onlyGivenNames xl; clear_value xl; rename' xl => y)
    | with_reducible apply State.showInput_keeps
    | with_reducible apply State.modInput_keeps
    | with_reducible apply State.modSafety_keeps
    | with_reducible apply State.send_keeps
    | with_reducible apply State.set_keeps
    | with_reducible apply foldOver_keeps
    | split

theorem execSoTestPulse_keeps {F : Part → Prop} {q0 s : State} [Open F .out] [Open F .safety] (h : Keeps F q0 s) (n : Fin 4) (b : Bool) : KeepsOut F q0 (execSoTestPulse n b s) := by
  unfold execSoTestPulse
  repeat' first
    | with_reducible assumption
    | with_reducible apply keeps_ite
    | with_reducible apply keepsOut_next
    | (refine keepsOut_whileRuns ?_ ?_)
    | with_reducible apply keepsOut_ite
    | with_reducible apply keepsOut_fault
    | (extract_lets -underBinder +onlyGivenNames xl; refine keeps_cut (F := F) (r := q0) (x := xl) (fun hx => ?_) ?_; (focus clear_value xl; rename' xl => y); rotate_left; (focus unfold xl; clear xl); rotate_left)
    | (extract_lets -underBinder +onlyGivenNames xl; clear_value xl; rename' xl => y)
    | with_reducible apply State.modSafety_keeps
    | with_reducible apply State.send_keeps
    | split

theorem execSoFlt_keeps {F : Part → Prop} {q0 s : State} [Open F .regs] [Open F .ports] [Open F .tgs] [Open F .drives] [Open F .life] [Open F .sys] [Open F .keeper] [Open F .safety] (h : Keeps F q0 s) (n : Fin 4) : KeepsOut F q0 (execSoFlt n s) := by
  unfold execSoFlt
  repeat' first
    | with_reducible assumption
    | with_reducible apply keeps_ite
    | with_reducible apply keepsOut_next
    | (refine keepsOut_whileRuns ?_ ?_)
    | with_reducible apply keepsOut_ite
    | with_reducible apply keepsOut_fault
    | (extract_lets -underBinder +onlyGivenNames xl; refine keeps_cut (F := F) (r := q0) (x := xl) (fun hx => ?_) ?_; (focus clear_value xl; rename' xl => y); rotate_left; (focus unfold xl; clear xl); rotate_left)
    | (extract_lets -underBinder +onlyGivenNames xl; clear_value xl; rename' xl => y)
    | with_reducible apply State.evaluateBoth_keeps
    | with_reducible apply State.driveSo_keeps
    | with_reducible apply State.safetyFault_keeps
    | with_reducible apply State.refreshSState_keeps
    | with_reducible apply State.setBit_keeps
    | split

theorem execScmpWindowViolation_keeps {F : Part → Prop} {q0 s : State} [Open F .regs] [Open F .ports] [Open F .tgs] [Open F .drives] [Open F .safety] (h : Keeps F q0 s) (n : Fin 8) : KeepsOut F q0 (execScmpWindowViolation n s) := by
  unfold execScmpWindowViolation
  repeat' first
    | (intro i t ht)
    | with_reducible assumption
    | with_reducible apply keeps_ite
    | with_reducible apply keepsOut_next
    | (refine keepsOut_whileRuns ?_ ?_)
    | with_reducible apply keepsOut_ite
    | with_reducible apply keepsOut_fault
    | (extract_lets -underBinder +onlyGivenNames xl; refine keeps_cut (F := F) (r := q0) (x := xl) (fun hx => ?_) ?_; (focus clear_value xl; rename' xl => y); rotate_left; (focus unfold xl; clear xl); rotate_left)
    | (extract_lets -underBinder +onlyGivenNames xl; clear_value xl; rename' xl => y)
    | with_reducible apply State.evaluateBoth_keeps
    | with_reducible apply State.chanSs1_keeps
    | with_reducible apply State.refreshSState_keeps
    | with_reducible apply State.driveSto_keeps
    | with_reducible apply State.modChan_keeps
    | with_reducible apply State.setBit_keeps
    | with_reducible apply foldOver_keeps
    | split

theorem execGtDue_keeps {F : Part → Prop} {q0 s : State} [Open F .regs] (h : Keeps F q0 s)  : KeepsOut F q0 (execGtDue s) := by
  unfold execGtDue
  repeat' first
    | with_reducible assumption
    | with_reducible apply keeps_ite
    | with_reducible apply keepsOut_next
    | (refine keepsOut_whileRuns ?_ ?_)
    | with_reducible apply keepsOut_ite
    | with_reducible apply keepsOut_fault
    | with_reducible apply State.setB_keeps
    | split

theorem State.guardTest_keeps {F : Part → Prop} {q0 s : State} [Open F .regs] [Open F .ports] [Open F .tgs] [Open F .drives] [Open F .cles] [Open F .life] [Open F .sys] [Open F .keeper] [Open F .grids] [Open F .gridS] [Open F .crcs] [Open F .safety] (h : Keeps F q0 s) (ack : BitVec 4) : Keeps F q0 (State.guardTest s ack) := by
  unfold State.guardTest
  repeat' first
    | (intro i t ht)
    | with_reducible assumption
    | with_reducible apply keeps_ite
    | (extract_lets -underBinder +onlyGivenNames xl; refine keeps_cut (F := F) (r := q0) (x := xl) (fun hx => ?_) ?_; (focus clear_value xl; rename' xl => y); rotate_left; (focus unfold xl; clear xl); rotate_left)
    | (extract_lets -underBinder +onlyGivenNames xl; clear_value xl; rename' xl => y)
    | with_reducible apply State.lock_keeps
    | with_reducible apply State.safetyFault_keeps
    | with_reducible apply State.retireDie_keeps
    | with_reducible apply State.branchAssert_keeps
    | with_reducible apply State.burstRequest_keeps
    | with_reducible apply State.setBit_keeps
    | with_reducible apply State.setB_keeps
    | with_reducible apply foldOver_keeps
    | with_reducible apply foldl_keeps
    | split
    | refine Keeps.sys ?_ _

theorem execPiRecordSend_keeps {F : Part → Prop} {q0 s : State} [Open F .out] [Open F .safety] (h : Keeps F q0 s) (d : Fin 4) : KeepsOut F q0 (execPiRecordSend d s) := by
  unfold execPiRecordSend
  repeat' first
    | (intro i t ht)
    | with_reducible assumption
    | with_reducible apply keeps_ite
    | with_reducible apply keepsOut_next
    | (refine keepsOut_whileRuns ?_ ?_)
    | with_reducible apply keepsOut_ite
    | with_reducible apply keepsOut_fault
    | (extract_lets -underBinder +onlyGivenNames xl; refine keeps_cut (F := F) (r := q0) (x := xl) (fun hx => ?_) ?_; (focus clear_value xl; rename' xl => y); rotate_left; (focus unfold xl; clear xl); rotate_left)
    | (extract_lets -underBinder +onlyGivenNames xl; clear_value xl; rename' xl => y)
    | with_reducible apply State.modSafety_keeps
    | with_reducible apply State.send_keeps
    | with_reducible apply foldOver_keeps
    | split

theorem execPiRecordReceived_keeps {F : Part → Prop} {q0 s : State} [Open F .regs] [Open F .safety] (h : Keeps F q0 s) (p : Fin 8) (angle : BitVec 16) (los : Bool) (seq : BitVec 8) (crcOk : Bool) : KeepsOut F q0 (execPiRecordReceived p angle los seq crcOk s) := by
  unfold execPiRecordReceived
  repeat' first
    | (intro i t ht)
    | with_reducible assumption
    | with_reducible apply keeps_ite
    | with_reducible apply keepsOut_next
    | (refine keepsOut_whileRuns ?_ ?_)
    | with_reducible apply keepsOut_ite
    | with_reducible apply keepsOut_fault
    | (extract_lets -underBinder +onlyGivenNames xl; refine keeps_cut (F := F) (r := q0) (x := xl) (fun hx => ?_) ?_; (focus clear_value xl; rename' xl => y); rotate_left; (focus unfold xl; clear xl); rotate_left)
    | (extract_lets -underBinder +onlyGivenNames xl; clear_value xl; rename' xl => y)
    | with_reducible apply State.failPi_keeps
    | with_reducible apply State.showAxis_keeps
    | with_reducible apply State.modAxis_keeps
    | with_reducible apply State.modSafety_keeps
    | with_reducible apply State.setB_keeps
    | with_reducible apply foldOver_keeps
    | split

theorem execPiRecordTimeout_keeps {F : Part → Prop} {q0 s : State} [Open F .regs] [Open F .safety] (h : Keeps F q0 s) (p : Fin 8) : KeepsOut F q0 (execPiRecordTimeout p s) := by
  unfold execPiRecordTimeout
  repeat' first
    | with_reducible assumption
    | with_reducible apply keeps_ite
    | with_reducible apply keepsOut_next
    | (refine keepsOut_whileRuns ?_ ?_)
    | with_reducible apply keepsOut_ite
    | with_reducible apply keepsOut_fault
    | with_reducible apply State.failPi_keeps
    | split

theorem execNLinkSilent_keeps {F : Part → Prop} {q0 s : State} [Open F .regs] [Open F .life] [Open F .sys] [Open F .keeper] [Open F .safety] (h : Keeps F q0 s)  : KeepsOut F q0 (execNLinkSilent s) := by
  unfold execNLinkSilent
  repeat' first
    | with_reducible assumption
    | with_reducible apply keeps_ite
    | with_reducible apply keepsOut_next
    | (refine keepsOut_whileRuns ?_ ?_)
    | with_reducible apply keepsOut_ite
    | with_reducible apply keepsOut_fault
    | with_reducible apply State.safetyFault_keeps
    | with_reducible apply State.refreshSState_keeps
    | with_reducible apply State.failAllPi_keeps
    | with_reducible apply State.modSafety_keeps
    | split

theorem State.nHeard_keeps {F : Part → Prop} {q0 s : State} [Open F .regs] [Open F .safety] (h : Keeps F q0 s)  : Keeps F q0 (State.nHeard s) := by
  unfold State.nHeard
  repeat' first
    | with_reducible assumption
    | with_reducible apply keeps_ite
    | with_reducible apply State.refreshSState_keeps
    | with_reducible apply State.modSafety_keeps
    | split

theorem State.safRegionRequest_keeps {F : Part → Prop} {q0 s : State} [Open F .regs] [Open F .keeper] (h : Keeps F q0 s)  : Keeps F q0 (State.safRegionRequest s) := by
  unfold State.safRegionRequest
  repeat' first
    | with_reducible assumption
    | with_reducible apply keeps_ite
    | with_reducible apply State.burstRequest_keeps
    | split
    | refine Keeps.keeper ?_ _

theorem State.logEntry_keeps {F : Part → Prop} {q0 s : State} [Open F .regs] [Open F .keeper] [Open F .safety] (h : Keeps F q0 s) (ctx : Nat) (index : Nat) (sub : Nat) (flags : Nat) (oldCrc : Nat) (newCrc : Nat) (paramCrc : Nat) : Keeps F q0 (State.logEntry s ctx index sub flags oldCrc newCrc paramCrc) := by
  unfold State.logEntry
  repeat' first
    | with_reducible assumption
    | with_reducible apply keeps_ite
    | (extract_lets -underBinder +onlyGivenNames xl; refine keeps_cut (F := F) (r := q0) (x := xl) (fun hx => ?_) ?_; (focus clear_value xl; rename' xl => y); rotate_left; (focus unfold xl; clear xl); rotate_left)
    | (extract_lets -underBinder +onlyGivenNames xl; clear_value xl; rename' xl => y)
    | with_reducible apply State.modSafety_keeps
    | with_reducible apply State.burstRequest_keeps
    | split

theorem State.applyWithdraw_keeps {F : Part → Prop} {q0 s : State} [Open F .regs] [Open F .keeper] [Open F .safety] (h : Keeps F q0 s)  : Keeps F q0 (State.applyWithdraw s) := by
  unfold State.applyWithdraw
  repeat' first
    | with_reducible assumption
    | with_reducible apply keeps_ite
    | (extract_lets -underBinder +onlyGivenNames xl; refine keeps_cut (F := F) (r := q0) (x := xl) (fun hx => ?_) ?_; (focus clear_value xl; rename' xl => y); rotate_left; (focus unfold xl; clear xl); rotate_left)
    | (extract_lets -underBinder +onlyGivenNames xl; clear_value xl; rename' xl => y)
    | with_reducible apply State.safRegionRequest_keeps
    | with_reducible apply State.modSafety_keeps
    | split
    | refine Keeps.keeper ?_ _

theorem State.safetyClose_keeps {F : Part → Prop} {q0 s : State} [Open F .regs] [Open F .keeper] [Open F .safety] [Open F .flows] (h : Keeps F q0 s)  : Keeps F q0 (State.safetyClose s) := by
  unfold State.safetyClose
  repeat' first
    | with_reducible assumption
    | with_reducible apply keeps_ite
    | (extract_lets -underBinder +onlyGivenNames xl; refine keeps_cut (F := F) (r := q0) (x := xl) (fun hx => ?_) ?_; (focus clear_value xl; rename' xl => y); rotate_left; (focus unfold xl; clear xl); rotate_left)
    | (extract_lets -underBinder +onlyGivenNames xl; clear_value xl; rename' xl => y)
    | with_reducible apply State.applyWithdraw_keeps
    | with_reducible apply State.refreshSState_keeps
    | with_reducible apply State.modSafety_keeps
    | split
    | refine Keeps.flows ?_ _

theorem State.safetyLogin_keeps {F : Part → Prop} {q0 s : State} [Open F .regs] [Open F .keeper] [Open F .safety] [Open F .flows] (h : Keeps F q0 s) (ctx : Nat) (b : List Nat) : Keeps F q0 (State.safetyLogin s ctx b).2 := by
  unfold State.safetyLogin
  repeat' first
    | with_reducible assumption
    | with_reducible apply keeps_ite
    | with_reducible apply keeps_ite_snd
    | (extract_lets -underBinder +onlyGivenNames xl; refine keeps_cut (F := F) (r := q0) (x := xl) (fun hx => ?_) ?_; (focus clear_value xl; rename' xl => y); rotate_left; (focus unfold xl; clear xl); rotate_left)
    | (extract_lets -underBinder +onlyGivenNames xl; clear_value xl; rename' xl => y)
    | with_reducible apply State.logEntry_keeps
    | with_reducible apply State.safRegionRequest_keeps
    | with_reducible apply State.refreshSState_keeps
    | with_reducible apply State.modSafety_keeps
    | split
    | dsimp only
    | refine Keeps.flows ?_ _

theorem State.newPassword_keeps {F : Part → Prop} {q0 s : State} [Open F .regs] [Open F .freeCnt] [Open F .keeper] [Open F .safety] (h : Keeps F q0 s) (reply : Option (Nat × DictReq)) (b : List Nat) : Keeps F q0 (State.newPassword s reply b).2 := by
  unfold State.newPassword
  repeat' first
    | with_reducible assumption
    | with_reducible apply keeps_ite
    | with_reducible apply keeps_ite_snd
    | (extract_lets -underBinder +onlyGivenNames xl; refine keeps_cut (F := F) (r := q0) (x := xl) (fun hx => ?_) ?_; (focus clear_value xl; rename' xl => y); rotate_left; (focus unfold xl; clear xl); rotate_left)
    | (extract_lets -underBinder +onlyGivenNames xl; clear_value xl; rename' xl => y)
    | with_reducible apply State.safRegionRequest_keeps
    | with_reducible apply State.modSafety_keeps
    | with_reducible apply State.fresh_keeps
    | split
    | dsimp only

theorem State.passwordCommitted_keeps {F : Part → Prop} {q0 s : State} [Open F .regs] [Open F .keeper] [Open F .safety] (h : Keeps F q0 s) (p : Password) : Keeps F q0 (State.passwordCommitted s p) := by
  unfold State.passwordCommitted
  repeat' first
    | with_reducible assumption
    | with_reducible apply keeps_ite
    | (extract_lets -underBinder +onlyGivenNames xl; refine keeps_cut (F := F) (r := q0) (x := xl) (fun hx => ?_) ?_; (focus clear_value xl; rename' xl => y); rotate_left; (focus unfold xl; clear xl); rotate_left)
    | (extract_lets -underBinder +onlyGivenNames xl; clear_value xl; rename' xl => y)
    | with_reducible apply State.logEntry_keeps
    | with_reducible apply State.modSafety_keeps
    | split

theorem State.guardTimes_keeps {F : Part → Prop} {q0 s : State} [Open F .regs] [Open F .ports] [Open F .tgs] [Open F .drives] (h : Keeps F q0 s)  : Keeps F q0 (State.guardTimes s) := by
  unfold State.guardTimes
  repeat' first
    | (intro i t ht)
    | with_reducible assumption
    | with_reducible apply keeps_ite
    | (extract_lets -underBinder +onlyGivenNames xl; refine keeps_cut (F := F) (r := q0) (x := xl) (fun hx => ?_) ?_; (focus clear_value xl; rename' xl => y); rotate_left; (focus unfold xl; clear xl); rotate_left)
    | (extract_lets -underBinder +onlyGivenNames xl; clear_value xl; rename' xl => y)
    | with_reducible apply State.guardJudge_keeps
    | with_reducible apply State.set_keeps
    | with_reducible apply foldOver_keeps
    | split

theorem State.pendWrite_keeps {F : Part → Prop} {q0 s : State} [Open F .regs] [Open F .ports] [Open F .tgs] [Open F .drives] [Open F .vars] [Open F .safety] (h : Keeps F q0 s) (key : Nat) (v : DictVal) : Keeps F q0 (State.pendWrite s key v).2 := by
  unfold State.pendWrite
  repeat' first
    | with_reducible assumption
    | with_reducible apply keeps_ite
    | with_reducible apply keeps_ite_snd
    | with_reducible apply State.guardTimes_keeps
    | with_reducible apply State.modSafety_keeps
    | with_reducible apply State.setDval_keeps
    | split
    | dsimp only

theorem State.applyRequest_keeps {F : Part → Prop} {q0 s : State} [Open F .regs] [Open F .keeper] [Open F .safety] (h : Keeps F q0 s) (reply : Option (Nat × DictReq)) (v : Nat) : Keeps F q0 (State.applyRequest s reply v).2 := by
  unfold State.applyRequest
  repeat' first
    | (intro i t ht)
    | with_reducible assumption
    | with_reducible apply keeps_ite
    | with_reducible apply keeps_ite_snd
    | (extract_lets -underBinder +onlyGivenNames xl; refine keeps_cut (F := F) (r := q0) (x := xl) (fun hx => ?_) ?_; (focus clear_value xl; rename' xl => y); rotate_left; (focus unfold xl; clear xl); rotate_left)
    | (extract_lets -underBinder +onlyGivenNames xl; clear_value xl; rename' xl => y)
    | with_reducible apply State.logEntry_keeps
    | with_reducible apply State.safRegionRequest_keeps
    | with_reducible apply State.modSafety_keeps
    | with_reducible apply foldl_keeps
    | split
    | dsimp only

theorem State.openConn_keeps {F : Part → Prop} {q0 s : State} [Open F .regs] [Open F .safety] (h : Keeps F q0 s) (c : Nat) : Keeps F q0 (State.openConn s c) := by
  unfold State.openConn
  repeat' first
    | with_reducible assumption
    | with_reducible apply keeps_ite
    | (extract_lets -underBinder +onlyGivenNames xl; refine keeps_cut (F := F) (r := q0) (x := xl) (fun hx => ?_) ?_; (focus clear_value xl; rename' xl => y); rotate_left; (focus unfold xl; clear xl); rotate_left)
    | (extract_lets -underBinder +onlyGivenNames xl; clear_value xl; rename' xl => y)
    | with_reducible apply State.modConn_keeps
    | with_reducible apply State.set_keeps
    | with_reducible apply State.setReg_keeps
    | split

theorem State.refreshUses_keeps {F : Part → Prop} {q0 s : State} [Open F .vars] (h : Keeps F q0 s)  : Keeps F q0 (State.refreshUses s) := by
  unfold State.refreshUses
  repeat' first
    | (intro i t ht)
    | with_reducible assumption
    | with_reducible apply keeps_ite
    | (extract_lets -underBinder +onlyGivenNames xl; refine keeps_cut (F := F) (r := q0) (x := xl) (fun hx => ?_) ?_; (focus clear_value xl; rename' xl => y); rotate_left; (focus unfold xl; clear xl); rotate_left)
    | (extract_lets -underBinder +onlyGivenNames xl; clear_value xl; rename' xl => y)
    | with_reducible apply State.setDval_keeps
    | with_reducible apply foldOver_keeps
    | split

theorem State.dropPi_keeps {F : Part → Prop} {q0 s : State} [Open F .regs] [Open F .safety] (h : Keeps F q0 s) (k : Nat) : Keeps F q0 (State.dropPi s k) := by
  unfold State.dropPi
  repeat' first
    | with_reducible assumption
    | with_reducible apply keeps_ite
    | with_reducible apply State.modAxis_keeps
    | with_reducible apply State.setB_keeps
    | split

theorem State.applyCommitted_keeps {F : Part → Prop} {q0 s : State} [Open F .regs] [Open F .ports] [Open F .tgs] [Open F .drives] [Open F .vars] [Open F .safety] (h : Keeps F q0 s)  : Keeps F q0 (State.applyCommitted s) := by
  unfold State.applyCommitted
  repeat' first
    | (intro i t ht)
    | with_reducible assumption
    | with_reducible apply keeps_ite
    | (extract_lets -underBinder +onlyGivenNames xl; refine keeps_cut (F := F) (r := q0) (x := xl) (fun hx => ?_) ?_; (focus clear_value xl; rename' xl => y); rotate_left; (focus unfold xl; clear xl); rotate_left)
    | (extract_lets -underBinder +onlyGivenNames xl; clear_value xl; rename' xl => y)
    | with_reducible apply State.dropPi_keeps
    | with_reducible apply State.refreshUses_keeps
    | with_reducible apply State.openConn_keeps
    | with_reducible apply State.guardTimes_keeps
    | with_reducible apply State.refreshSState_keeps
    | with_reducible apply State.showAxes_keeps
    | with_reducible apply State.modSafety_keeps
    | with_reducible apply State.refreshRun_keeps
    | with_reducible apply State.setDval_keeps
    | with_reducible apply foldl_keeps
    | split

theorem State.askDone_keeps {F : Part → Prop} {q0 s : State} [Open F .regs] [Open F .ports] [Open F .tgs] [Open F .drives] [Open F .keeper] [Open F .vars] [Open F .safety] (h : Keeps F q0 s) (a : SafeAsk) : Keeps F q0 (State.askDone s a) := by
  unfold State.askDone
  repeat' first
    | with_reducible assumption
    | with_reducible apply keeps_ite
    | with_reducible apply State.applyCommitted_keeps
    | with_reducible apply State.passwordCommitted_keeps
    | split

theorem execSafetyLogin_keeps {F : Part → Prop} {q0 s : State} [Open F .regs] [Open F .keeper] [Open F .safety] [Open F .flows] (h : Keeps F q0 s) (ctx : Fin 128) (pw : List (BitVec 8)) : KeepsOut F q0 (execSafetyLogin ctx pw s) := by
  unfold execSafetyLogin
  repeat' first
    | with_reducible assumption
    | with_reducible apply keeps_ite
    | with_reducible apply keepsOut_next
    | (refine keepsOut_whileRuns ?_ ?_)
    | with_reducible apply keepsOut_ite
    | with_reducible apply keepsOut_fault
    | with_reducible apply State.safetyLogin_keeps
    | split

theorem execSafetyLogout_keeps {F : Part → Prop} {q0 s : State} [Open F .regs] [Open F .keeper] [Open F .safety] [Open F .flows] (h : Keeps F q0 s)  : KeepsOut F q0 (execSafetyLogout s) := by
  unfold execSafetyLogout
  repeat' first
    | with_reducible assumption
    | with_reducible apply keeps_ite
    | with_reducible apply keepsOut_next
    | (refine keepsOut_whileRuns ?_ ?_)
    | with_reducible apply keepsOut_ite
    | with_reducible apply keepsOut_fault
    | with_reducible apply State.safetyClose_keeps
    | split

theorem execSafetySessionTimeout_keeps {F : Part → Prop} {q0 s : State} [Open F .regs] [Open F .keeper] [Open F .safety] [Open F .flows] (h : Keeps F q0 s)  : KeepsOut F q0 (execSafetySessionTimeout s) := by
  unfold execSafetySessionTimeout
  repeat' first
    | with_reducible assumption
    | with_reducible apply keeps_ite
    | with_reducible apply keepsOut_next
    | (refine keepsOut_whileRuns ?_ ?_)
    | with_reducible apply keepsOut_ite
    | with_reducible apply keepsOut_fault
    | with_reducible apply State.safetyClose_keeps
    | split

theorem execNewPassword_keeps {F : Part → Prop} {q0 s : State} [Open F .regs] [Open F .freeCnt] [Open F .keeper] [Open F .safety] (h : Keeps F q0 s) (pw : List (BitVec 8)) : KeepsOut F q0 (execNewPassword pw s) := by
  unfold execNewPassword
  repeat' first
    | with_reducible assumption
    | with_reducible apply keeps_ite
    | with_reducible apply keepsOut_next
    | (refine keepsOut_whileRuns ?_ ?_)
    | with_reducible apply keepsOut_ite
    | with_reducible apply keepsOut_fault
    | with_reducible apply State.newPassword_keeps
    | split

theorem execApply_keeps {F : Part → Prop} {q0 s : State} [Open F .regs] [Open F .keeper] [Open F .safety] (h : Keeps F q0 s) (v : BitVec 32) : KeepsOut F q0 (execApply v s) := by
  unfold execApply
  repeat' first
    | with_reducible assumption
    | with_reducible apply keeps_ite
    | with_reducible apply keepsOut_next
    | (refine keepsOut_whileRuns ?_ ?_)
    | with_reducible apply keepsOut_ite
    | with_reducible apply keepsOut_fault
    | with_reducible apply State.applyRequest_keeps
    | split

theorem State.takeData_keeps {F : Part → Prop} {q0 s : State} [Open F .safety] (h : Keeps F q0 s) (c : Nat) (data : List Nat) : Keeps F q0 (State.takeData s c data) := by
  unfold State.takeData
  repeat' first
    | (intro i t ht)
    | with_reducible assumption
    | with_reducible apply keeps_ite
    | (extract_lets -underBinder +onlyGivenNames xl; refine keeps_cut (F := F) (r := q0) (x := xl) (fun hx => ?_) ?_; (focus clear_value xl; rename' xl => y); rotate_left; (focus unfold xl; clear xl); rotate_left)
    | (extract_lets -underBinder +onlyGivenNames xl; clear_value xl; rename' xl => y)
    | with_reducible apply State.modConn_keeps
    | with_reducible apply State.modChan_keeps
    | with_reducible apply foldOver_keeps
    | split

theorem State.safetyFrame_keeps {F : Part → Prop} {q0 s : State} [Open F .regs] [Open F .safety] (h : Keeps F q0 s) (c : Nat) (b : List Nat) : Keeps F q0 (State.safetyFrame s c b) := by
  unfold State.safetyFrame
  repeat' first
    | with_reducible assumption
    | with_reducible apply keeps_ite
    | (extract_lets -underBinder +onlyGivenNames xl; refine keeps_cut (F := F) (r := q0) (x := xl) (fun hx => ?_) ?_; (focus clear_value xl; rename' xl => y); rotate_left; (focus unfold xl; clear xl); rotate_left)
    | (extract_lets -underBinder +onlyGivenNames xl; clear_value xl; rename' xl => y)
    | with_reducible apply State.takeData_keeps
    | with_reducible apply State.refreshSState_keeps
    | with_reducible apply State.incMod_keeps
    | with_reducible apply State.incSat_keeps
    | with_reducible apply State.set_keeps
    | with_reducible apply State.setReg_keeps
    | split

theorem execSafetyFrameReceived_keeps {F : Part → Prop} {q0 s : State} [Open F .regs] [Open F .safety] (h : Keeps F q0 s) (c : Fin 48) (payload : List (BitVec 8)) : KeepsOut F q0 (execSafetyFrameReceived c payload s) := by
  unfold execSafetyFrameReceived
  repeat' first
    | with_reducible assumption
    | with_reducible apply keeps_ite
    | with_reducible apply keepsOut_next
    | (refine keepsOut_whileRuns ?_ ?_)
    | with_reducible apply keepsOut_ite
    | with_reducible apply keepsOut_fault
    | with_reducible apply State.safetyFrame_keeps
    | split

theorem execSafetyConnTimeout_keeps {F : Part → Prop} {q0 s : State} [Open F .regs] [Open F .ports] [Open F .tgs] [Open F .drives] [Open F .safety] (h : Keeps F q0 s) (c : Fin 48) : KeepsOut F q0 (execSafetyConnTimeout c s) := by
  unfold execSafetyConnTimeout
  repeat' first
    | with_reducible assumption
    | with_reducible apply keeps_ite
    | with_reducible apply keepsOut_next
    | (refine keepsOut_whileRuns ?_ ?_)
    | with_reducible apply keepsOut_ite
    | with_reducible apply keepsOut_fault
    | (extract_lets -underBinder +onlyGivenNames xl; refine keeps_cut (F := F) (r := q0) (x := xl) (fun hx => ?_) ?_; (focus clear_value xl; rename' xl => y); rotate_left; (focus unfold xl; clear xl); rotate_left)
    | (extract_lets -underBinder +onlyGivenNames xl; clear_value xl; rename' xl => y)
    | with_reducible apply State.evaluateBoth_keeps
    | with_reducible apply State.chanSs1_keeps
    | with_reducible apply State.refreshSState_keeps
    | with_reducible apply State.driveSto_keeps
    | with_reducible apply State.modConn_keeps
    | with_reducible apply State.incSat_keeps
    | with_reducible apply State.set_keeps
    | split

theorem execSStatePublish_keeps {F : Part → Prop} {q0 s : State} [Open F .out] [Open F .cmds] (h : Keeps F q0 s)  : KeepsOut F q0 (execSStatePublish s) := by
  unfold execSStatePublish
  repeat' first
    | with_reducible assumption
    | with_reducible apply keeps_ite
    | with_reducible apply keepsOut_next
    | (refine keepsOut_whileRuns ?_ ?_)
    | with_reducible apply keepsOut_ite
    | with_reducible apply keepsOut_fault
    | (extract_lets -underBinder +onlyGivenNames xl; refine keeps_cut (F := F) (r := q0) (x := xl) (fun hx => ?_) ?_; (focus clear_value xl; rename' xl => y); rotate_left; (focus unfold xl; clear xl); rotate_left)
    | (extract_lets -underBinder +onlyGivenNames xl; clear_value xl; rename' xl => y)
    | with_reducible apply State.modCmd_keeps
    | with_reducible apply State.send_keeps
    | split

theorem State.mailbox_keeps {F : Part → Prop} {q0 s : State} [Open F .regs] [Open F .ports] [Open F .tgs] [Open F .drives] [Open F .safety] (h : Keeps F q0 s) (c : Nat) (w : Word) : Keeps F q0 (State.mailbox s c w) := by
  unfold State.mailbox
  repeat' first
    | with_reducible assumption
    | with_reducible apply keeps_ite
    | (extract_lets -underBinder +onlyGivenNames xl; refine keeps_cut (F := F) (r := q0) (x := xl) (fun hx => ?_) ?_; (focus clear_value xl; rename' xl => y); rotate_left; (focus unfold xl; clear xl); rotate_left)
    | (extract_lets -underBinder +onlyGivenNames xl; clear_value xl; rename' xl => y)
    | with_reducible apply State.acknowledge_keeps
    | with_reducible apply State.evaluateBoth_keeps
    | with_reducible apply State.incSat_keeps
    | with_reducible apply State.setB_keeps
    | split

theorem execMbxStoReq_keeps {F : Part → Prop} {q0 s : State} [Open F .regs] [Open F .ports] [Open F .tgs] [Open F .drives] [Open F .safety] (h : Keeps F q0 s) (c : Fin 2) (v : Bool) : KeepsOut F q0 (execMbxStoReq c v s) := by
  unfold execMbxStoReq
  repeat' first
    | with_reducible assumption
    | with_reducible apply keeps_ite
    | with_reducible apply keepsOut_next
    | (refine keepsOut_whileRuns ?_ ?_)
    | with_reducible apply keepsOut_ite
    | with_reducible apply keepsOut_fault
    | with_reducible apply State.mailbox_keeps
    | split

theorem execMbxSs1Req_keeps {F : Part → Prop} {q0 s : State} [Open F .regs] [Open F .ports] [Open F .tgs] [Open F .drives] [Open F .safety] (h : Keeps F q0 s) (c : Fin 2) (v : Bool) : KeepsOut F q0 (execMbxSs1Req c v s) := by
  unfold execMbxSs1Req
  repeat' first
    | with_reducible assumption
    | with_reducible apply keeps_ite
    | with_reducible apply keepsOut_next
    | (refine keepsOut_whileRuns ?_ ?_)
    | with_reducible apply keepsOut_ite
    | with_reducible apply keepsOut_fault
    | with_reducible apply State.mailbox_keeps
    | split

theorem execMbxReset_keeps {F : Part → Prop} {q0 s : State} [Open F .regs] [Open F .ports] [Open F .tgs] [Open F .drives] [Open F .safety] (h : Keeps F q0 s) (c : Fin 2) : KeepsOut F q0 (execMbxReset c s) := by
  unfold execMbxReset
  repeat' first
    | with_reducible assumption
    | with_reducible apply keeps_ite
    | with_reducible apply keepsOut_next
    | (refine keepsOut_whileRuns ?_ ?_)
    | with_reducible apply keepsOut_ite
    | with_reducible apply keepsOut_fault
    | with_reducible apply State.mailbox_keeps
    | split

end Sys2Proof.Machine
end

