-- ==== Sys2Proof/Laws/KeepsNetwork.lean ====
section
/-! SUPPORT.  What the operations of Machine/Network.lean keep. -/

set_option linter.unusedTactic false
set_option linter.unreachableTactic false
set_option linter.unusedVariables false
set_option linter.unnecessarySeqFocus false

namespace Sys2Proof.Machine

theorem State.modNet_keeps {F : Part → Prop} {q0 s : State} [Open F .net] (h : Keeps F q0 s) (f : Net → Net) : Keeps F q0 (State.modNet s f) := by
  unfold State.modNet
  repeat' first
    | with_reducible assumption
    | with_reducible apply keeps_ite
    | split
    | refine Keeps.net ?_ _

theorem State.modEth_keeps {F : Part → Prop} {q0 s : State} [Open F .ports] [Open F .net] (h : Keeps F q0 s) (p : Nat) (f : EthPort → EthPort) : Keeps F q0 (State.modEth s p f) := by
  unfold State.modEth
  repeat' first
    | with_reducible assumption
    | with_reducible apply keeps_ite
    | with_reducible apply State.modNet_keeps
    | split
    | refine Keeps.ports ?_ _

theorem State.modDom_keeps {F : Part → Prop} {q0 s : State} [Open F .net] (h : Keeps F q0 s) (x : Nat) (f : PtpDomain → PtpDomain) : Keeps F q0 (State.modDom s x f) := by
  unfold State.modDom
  repeat' first
    | with_reducible assumption
    | with_reducible apply keeps_ite
    | with_reducible apply State.modNet_keeps
    | split

theorem State.modCan_keeps {F : Part → Prop} {q0 s : State} [Open F .net] (h : Keeps F q0 s) (n : Nat) (f : CanCtl → CanCtl) : Keeps F q0 (State.modCan s n f) := by
  unfold State.modCan
  repeat' first
    | with_reducible assumption
    | with_reducible apply keeps_ite
    | with_reducible apply State.modNet_keeps
    | split

theorem State.modFlow_keeps {F : Part → Prop} {q0 s : State} [Open F .flows] (h : Keeps F q0 s) (f : Nat) (g : FlowCtx → FlowCtx) : Keeps F q0 (State.modFlow s f g) := by
  unfold State.modFlow
  repeat' first
    | with_reducible assumption
    | with_reducible apply keeps_ite
    | split
    | refine Keeps.flows ?_ _

theorem State.setRing_keeps {F : Part → Prop} {q0 s : State} [Open F .regs] (h : Keeps F q0 s) (blocked : Bool) (opened : Bool) : Keeps F q0 (State.setRing s blocked opened) := by
  unfold State.setRing
  repeat' first
    | (intro i t ht)
    | with_reducible assumption
    | with_reducible apply keeps_ite
    | with_reducible apply State.setB_keeps
    | with_reducible apply foldOver_keeps
    | split

theorem State.setLt_keeps {F : Part → Prop} {q0 s : State} [Open F .regs] [Open F .net] (h : Keeps F q0 s) (lt : Nat) : Keeps F q0 (State.setLt s lt) := by
  unfold State.setLt
  repeat' first
    | with_reducible assumption
    | with_reducible apply keeps_ite
    | (extract_lets -underBinder +onlyGivenNames xl; refine keeps_cut (F := F) (r := q0) (x := xl) (fun hx => ?_) ?_; (focus clear_value xl; rename' xl => y); rotate_left; (focus unfold xl; clear xl); rotate_left)
    | (extract_lets -underBinder +onlyGivenNames xl; clear_value xl; rename' xl => y)
    | with_reducible apply State.modNet_keeps
    | with_reducible apply State.set_keeps
    | split

theorem State.ltTick_keeps {F : Part → Prop} {q0 s : State} [Open F .regs] [Open F .net] (h : Keeps F q0 s)  : Keeps F q0 (State.ltTick s) := by
  unfold State.ltTick
  repeat' first
    | with_reducible assumption
    | with_reducible apply keeps_ite
    | with_reducible apply State.setLt_keeps
    | split

theorem State.captureLt_keeps {F : Part → Prop} {q0 s : State} [Open F .net] (h : Keeps F q0 s)  : Keeps F q0 (State.captureLt s) := by
  unfold State.captureLt
  repeat' first
    | with_reducible assumption
    | with_reducible apply keeps_ite
    | (extract_lets -underBinder +onlyGivenNames xl; refine keeps_cut (F := F) (r := q0) (x := xl) (fun hx => ?_) ?_; (focus clear_value xl; rename' xl => y); rotate_left; (focus unfold xl; clear xl); rotate_left)
    | (extract_lets -underBinder +onlyGivenNames xl; clear_value xl; rename' xl => y)
    | with_reducible apply State.modNet_keeps
    | split

theorem execLtNsRead_keeps {F : Part → Prop} {q0 s : State} [Open F .out] [Open F .net] (h : Keeps F q0 s)  : KeepsOut F q0 (execLtNsRead s) := by
  unfold execLtNsRead
  repeat' first
    | with_reducible assumption
    | with_reducible apply keeps_ite
    | with_reducible apply keepsOut_next
    | (refine keepsOut_whileRuns ?_ ?_)
    | with_reducible apply keepsOut_ite
    | with_reducible apply keepsOut_fault
    | with_reducible apply State.captureLt_keeps
    | with_reducible apply State.send_keeps
    | split

theorem State.enqueue_keeps {F : Part → Prop} {q0 s : State} [Open F .regs] [Open F .ports] [Open F .net] (h : Keeps F q0 s) (p : Nat) (q : Nat) (f : NetFrame) : Keeps F q0 (State.enqueue s p q f) := by
  unfold State.enqueue
  repeat' first
    | with_reducible assumption
    | with_reducible apply keeps_ite
    | with_reducible apply State.modEth_keeps
    | with_reducible apply State.incSat_keeps
    | split

theorem State.originate_keeps {F : Part → Prop} {q0 s : State} [Open F .regs] [Open F .ports] [Open F .net] (h : Keeps F q0 s) (p : Nat) (q : Nat → Nat) (dst : Nat) (tag : Option Nat) (etype : Nat) (payload : List Nat) (flow : Option Nat) : Keeps F q0 (State.originate s p q dst tag etype payload flow) := by
  unfold State.originate
  repeat' first
    | (intro i t ht)
    | with_reducible assumption
    | with_reducible apply keeps_ite
    | with_reducible apply State.enqueue_keeps
    | with_reducible apply foldOver_keeps
    | split

theorem State.canSend_keeps {F : Part → Prop} {q0 s : State} [Open F .net] (h : Keeps F q0 s) (n : Nat) (f : CanFrame) (flow : Option Nat) : Keeps F q0 (State.canSend s n f flow) := by
  unfold State.canSend
  repeat' first
    | with_reducible assumption
    | with_reducible apply keeps_ite
    | with_reducible apply State.modCan_keeps
    | split

theorem State.streamFold_keeps {F : Part → Prop} {q0 s : State} [Open F .regs] (h : Keeps F q0 s) (mask : Nat) (bytes : List Nat) : Keeps F q0 (State.streamFold s mask bytes) := by
  unfold State.streamFold
  repeat' first
    | (intro i t ht)
    | with_reducible assumption
    | with_reducible apply keeps_ite
    | with_reducible apply State.crcFold_keeps
    | with_reducible apply foldOver_keeps
    | split

theorem State.sendOnFlow_keeps {F : Part → Prop} {q0 s : State} [Open F .regs] [Open F .ports] [Open F .net] [Open F .flows] (h : Keeps F q0 s) (f : Nat) (b : List Nat) : Keeps F q0 (State.sendOnFlow s f b) := by
  unfold State.sendOnFlow
  repeat' first
    | with_reducible assumption
    | with_reducible apply keeps_ite
    | (extract_lets -underBinder +onlyGivenNames xl; refine keeps_cut (F := F) (r := q0) (x := xl) (fun hx => ?_) ?_; (focus clear_value xl; rename' xl => y); rotate_left; (focus unfold xl; clear xl); rotate_left)
    | (extract_lets -underBinder +onlyGivenNames xl; clear_value xl; rename' xl => y)
    | with_reducible apply State.canSend_keeps
    | with_reducible apply State.originate_keeps
    | with_reducible apply State.modFlow_keeps
    | split

theorem State.inputFrameAt_keeps {F : Part → Prop} {q0 s : State} [Open F .cmds] [Open F .dict] (h : Keeps F q0 s) (fc : Nat) (kind : Nat) (payload : List Nat) (at0 : Nat) : Keeps F q0 (State.inputFrameAt s fc kind payload at0) := by
  unfold State.inputFrameAt
  repeat' first
    | (intro i t ht)
    | with_reducible assumption
    | with_reducible apply keeps_ite
    | (extract_lets -underBinder +onlyGivenNames xl; refine keeps_cut (F := F) (r := q0) (x := xl) (fun hx => ?_) ?_; (focus clear_value xl; rename' xl => y); rotate_left; (focus unfold xl; clear xl); rotate_left)
    | (extract_lets -underBinder +onlyGivenNames xl; clear_value xl; rename' xl => y)
    | with_reducible apply State.modCmd_keeps
    | with_reducible apply foldOver_keeps
    | split
    | refine Keeps.dict ?_ _

theorem State.inputFrame_keeps {F : Part → Prop} {q0 s : State} [Open F .cmds] [Open F .dict] (h : Keeps F q0 s) (fc : Nat) (kind : Nat) (payload : List Nat) : Keeps F q0 (State.inputFrame s fc kind payload) := by
  unfold State.inputFrame
  repeat' first
    | with_reducible assumption
    | with_reducible apply keeps_ite
    | with_reducible apply State.inputFrameAt_keeps
    | split

theorem State.flowReceive_keeps {F : Part → Prop} {q0 s : State} [Open F .regs] [Open F .out] [Open F .cmds] [Open F .flows] [Open F .dict] (h : Keeps F q0 s) (f : Nat) (payload : List Nat) (padded : Nat → Nat) (at0 : Nat) : Keeps F q0 (State.flowReceive s f payload padded at0) := by
  unfold State.flowReceive
  repeat' first
    | with_reducible assumption
    | with_reducible apply keeps_ite
    | (extract_lets -underBinder +onlyGivenNames xl; refine keeps_cut (F := F) (r := q0) (x := xl) (fun hx => ?_) ?_; (focus clear_value xl; rename' xl => y); rotate_left; (focus unfold xl; clear xl); rotate_left)
    | (extract_lets -underBinder +onlyGivenNames xl; clear_value xl; rename' xl => y)
    | with_reducible apply State.inputFrameAt_keeps
    | with_reducible apply State.streamFold_keeps
    | with_reducible apply State.modFlow_keeps
    | with_reducible apply State.send_keeps
    | split

theorem execProcessTxSlot_keeps {F : Part → Prop} {q0 s : State} [Open F .regs] [Open F .freeCnt] [Open F .ports] [Open F .net] [Open F .flows] (h : Keeps F q0 s) (f : Fin 128) : KeepsOut F q0 (execProcessTxSlot f s) := by
  unfold execProcessTxSlot
  repeat' first
    | with_reducible assumption
    | with_reducible apply keeps_ite
    | with_reducible apply keepsOut_next
    | (refine keepsOut_whileRuns ?_ ?_)
    | with_reducible apply keepsOut_ite
    | with_reducible apply keepsOut_fault
    | (extract_lets -underBinder +onlyGivenNames xl; refine keeps_cut (F := F) (r := q0) (x := xl) (fun hx => ?_) ?_; (focus clear_value xl; rename' xl => y); rotate_left; (focus unfold xl; clear xl); rotate_left)
    | (extract_lets -underBinder +onlyGivenNames xl; clear_value xl; rename' xl => y)
    | with_reducible apply State.sendOnFlow_keeps
    | with_reducible apply State.modFlow_keeps
    | with_reducible apply State.fresh_keeps
    | split

theorem State.releaseTx_keeps {F : Part → Prop} {q0 s : State} [Open F .flows] (h : Keeps F q0 s) (w : Nat) (m : Nat) : Keeps F q0 (State.releaseTx s w m) := by
  unfold State.releaseTx
  repeat' first
    | (intro i t ht)
    | with_reducible assumption
    | with_reducible apply keeps_ite
    | (extract_lets -underBinder +onlyGivenNames xl; refine keeps_cut (F := F) (r := q0) (x := xl) (fun hx => ?_) ?_; (focus clear_value xl; rename' xl => y); rotate_left; (focus unfold xl; clear xl); rotate_left)
    | (extract_lets -underBinder +onlyGivenNames xl; clear_value xl; rename' xl => y)
    | with_reducible apply State.modFlow_keeps
    | with_reducible apply foldOver_keeps
    | split

theorem execTxRel_keeps {F : Part → Prop} {q0 s : State} [Open F .flows] (h : Keeps F q0 s) (w : Fin 4) (m : BitVec 32) : KeepsOut F q0 (execTxRel w m s) := by
  unfold execTxRel
  repeat' first
    | with_reducible assumption
    | with_reducible apply keeps_ite
    | with_reducible apply keepsOut_next
    | (refine keepsOut_whileRuns ?_ ?_)
    | with_reducible apply keepsOut_ite
    | with_reducible apply keepsOut_fault
    | with_reducible apply State.releaseTx_keeps
    | split

theorem execProcessRxLost_keeps {F : Part → Prop} {q0 s : State} [Open F .cmds] [Open F .flows] [Open F .dict] (h : Keeps F q0 s) (f : Fin 128) : KeepsOut F q0 (execProcessRxLost f s) := by
  unfold execProcessRxLost
  repeat' first
    | with_reducible assumption
    | with_reducible apply keeps_ite
    | with_reducible apply keepsOut_next
    | (refine keepsOut_whileRuns ?_ ?_)
    | with_reducible apply keepsOut_ite
    | with_reducible apply keepsOut_fault
    | with_reducible apply State.inputFrame_keeps
    | with_reducible apply State.modFlow_keeps
    | split

theorem execFailoverAtN_keeps {F : Part → Prop} {r s : State} [Open F .mem] [Open F .arb] [Open F .flows] (h : Keeps F r s) : KeepsOut F r (execFailoverAtN s) := by
  unfold execFailoverAtN
  refine keepsOut_whileRuns h ?_
  apply keepsOut_next
  apply keeps_ite h
  refine foldOver_keeps _ _ (State.modArb_keeps h _) (fun i t ht => ?_)
  dsimp only
  apply keeps_ite _ ht
  apply State.modFlow_keeps
  exact ht.mem _ fun hm => Memory.wf_writeBytes _ _ _ (Memory.wf_clear _ _ _ hm)

theorem execSafetyFrameSend_keeps {F : Part → Prop} {q0 s : State} [Open F .regs] [Open F .ports] [Open F .safety] [Open F .net] [Open F .flows] (h : Keeps F q0 s) (c : Fin 48) (pass : Bool) : KeepsOut F q0 (execSafetyFrameSend c pass s) := by
  unfold execSafetyFrameSend
  repeat' first
    | with_reducible assumption
    | with_reducible apply keeps_ite
    | with_reducible apply keepsOut_next
    | (refine keepsOut_whileRuns ?_ ?_)
    | with_reducible apply keepsOut_ite
    | with_reducible apply keepsOut_fault
    | (extract_lets -underBinder +onlyGivenNames xl; refine keeps_cut (F := F) (r := q0) (x := xl) (fun hx => ?_) ?_; (focus clear_value xl; rename' xl => y); rotate_left; (focus unfold xl; clear xl); rotate_left)
    | (extract_lets -underBinder +onlyGivenNames xl; clear_value xl; rename' xl => y)
    | with_reducible apply State.sendOnFlow_keeps
    | with_reducible apply State.modConn_keeps
    | with_reducible apply State.incMod_keeps
    | with_reducible apply State.setReg_keeps
    | split

theorem State.checkMech_keeps {F : Part → Prop} {q0 s : State} [Open F .regs] (h : Keeps F q0 s)  : Keeps F q0 (State.checkMech s) := by
  unfold State.checkMech
  repeat' first
    | (intro i t ht)
    | with_reducible assumption
    | with_reducible apply keeps_ite
    | with_reducible apply State.setB_keeps
    | with_reducible apply foldOver_keeps
    | split

theorem State.pdelayResponse_keeps {F : Part → Prop} {q0 s : State} [Open F .regs] [Open F .ports] [Open F .net] (h : Keeps F q0 s) (p : Nat) (v : EthView) (ingress : Int) : Keeps F q0 (State.pdelayResponse s p v ingress) := by
  unfold State.pdelayResponse
  repeat' first
    | with_reducible assumption
    | with_reducible apply keeps_ite
    | (extract_lets -underBinder +onlyGivenNames xl; refine keeps_cut (F := F) (r := q0) (x := xl) (fun hx => ?_) ?_; (focus clear_value xl; rename' xl => y); rotate_left; (focus unfold xl; clear xl); rotate_left)
    | (extract_lets -underBinder +onlyGivenNames xl; clear_value xl; rename' xl => y)
    | with_reducible apply State.enqueue_keeps
    | split

theorem State.ipReceive_keeps {F : Part → Prop} {q0 s : State} [Open F .regs] [Open F .out] [Open F .ports] [Open F .net] (h : Keeps F q0 s) (p : Nat) (v : EthView) : Keeps F q0 (State.ipReceive s p v) := by
  unfold State.ipReceive
  repeat' first
    | (intro i t ht)
    | with_reducible assumption
    | with_reducible apply keeps_ite
    | (extract_lets -underBinder +onlyGivenNames xl; refine keeps_cut (F := F) (r := q0) (x := xl) (fun hx => ?_) ?_; (focus clear_value xl; rename' xl => y); rotate_left; (focus unfold xl; clear xl); rotate_left)
    | (extract_lets -underBinder +onlyGivenNames xl; clear_value xl; rename' xl => y)
    | with_reducible apply State.originate_keeps
    | with_reducible apply State.enqueue_keeps
    | with_reducible apply State.send_keeps
    | with_reducible apply foldOver_keeps
    | split

theorem State.deliver_keeps {F : Part → Prop} {q0 s : State} [Open F .regs] [Open F .out] [Open F .ports] [Open F .cmds] [Open F .net] [Open F .flows] [Open F .dict] (h : Keeps F q0 s) (p : Nat) (v : EthView) (ingress : Int) : Keeps F q0 (State.deliver s p v ingress) := by
  unfold State.deliver
  repeat' first
    | with_reducible assumption
    | with_reducible apply keeps_ite
    | (extract_lets -underBinder +onlyGivenNames xl; refine keeps_cut (F := F) (r := q0) (x := xl) (fun hx => ?_) ?_; (focus clear_value xl; rename' xl => y); rotate_left; (focus unfold xl; clear xl); rotate_left)
    | (extract_lets -underBinder +onlyGivenNames xl; clear_value xl; rename' xl => y)
    | with_reducible apply State.ipReceive_keeps
    | with_reducible apply State.pdelayResponse_keeps
    | with_reducible apply State.flowReceive_keeps
    | with_reducible apply State.modNet_keeps
    | with_reducible apply State.send_keeps
    | split

theorem State.forwardFrame_keeps {F : Part → Prop} {q0 s : State} [Open F .regs] [Open F .ports] [Open F .net] (h : Keeps F q0 s) (p : Nat) (b : List Nat) (v : EthView) (ingress : Int) : Keeps F q0 (State.forwardFrame s p b v ingress) := by
  unfold State.forwardFrame
  repeat' first
    | with_reducible assumption
    | with_reducible apply keeps_ite
    | (extract_lets -underBinder +onlyGivenNames xl; refine keeps_cut (F := F) (r := q0) (x := xl) (fun hx => ?_) ?_; (focus clear_value xl; rename' xl => y); rotate_left; (focus unfold xl; clear xl); rotate_left)
    | (extract_lets -underBinder +onlyGivenNames xl; clear_value xl; rename' xl => y)
    | with_reducible apply State.enqueue_keeps
    | split

theorem execEthFrameReceived_keeps {F : Part → Prop} {q0 s : State} [Open F .regs] [Open F .out] [Open F .ports] [Open F .cmds] [Open F .net] [Open F .flows] [Open F .dict] (h : Keeps F q0 s) (p : Fin 3) (bytes : List (BitVec 8)) (good : Bool) (ts : Int) : KeepsOut F q0 (execEthFrameReceived p bytes good ts s) := by
  unfold execEthFrameReceived
  repeat' first
    | with_reducible assumption
    | with_reducible apply keeps_ite
    | with_reducible apply keepsOut_next
    | (refine keepsOut_whileRuns ?_ ?_)
    | with_reducible apply keepsOut_ite
    | with_reducible apply keepsOut_fault
    | (extract_lets -underBinder +onlyGivenNames xl; refine keeps_cut (F := F) (r := q0) (x := xl) (fun hx => ?_) ?_; (focus clear_value xl; rename' xl => y); rotate_left; (focus unfold xl; clear xl); rotate_left)
    | (extract_lets -underBinder +onlyGivenNames xl; clear_value xl; rename' xl => y)
    | with_reducible apply State.forwardFrame_keeps
    | with_reducible apply State.deliver_keeps
    | with_reducible apply State.incSat_keeps
    | split

theorem State.dropOversize_keeps {F : Part → Prop} {r s : State} [Open F .regs] [Open F .ports] [Open F .net] (h : Keeps F r s) (p q fuel : Nat) : Keeps F r (State.dropOversize s p q fuel) := by
  induction fuel generalizing s with
  | zero => exact h
  | succ n ih =>
    unfold State.dropOversize
    split
    · split
      · exact ih (State.incSat_keeps (State.modEth_keeps h p _) _)
      · exact h
    · exact h

theorem execEthTransmitStart_keeps {F : Part → Prop} {q0 s : State} [Open F .regs] [Open F .ports] [Open F .net] (h : Keeps F q0 s) (p : Fin 3) (ts : Int) : KeepsOut F q0 (execEthTransmitStart p ts s) := by
  unfold execEthTransmitStart
  repeat' first
    | (intro i t ht)
    | with_reducible assumption
    | with_reducible apply keeps_ite
    | with_reducible apply keepsOut_next
    | (refine keepsOut_whileRuns ?_ ?_)
    | with_reducible apply keepsOut_ite
    | with_reducible apply keepsOut_fault
    | (extract_lets -underBinder +onlyGivenNames xl; refine keeps_cut (F := F) (r := q0) (x := xl) (fun hx => ?_) ?_; (focus clear_value xl; rename' xl => y); rotate_left; (focus unfold xl; clear xl); rotate_left)
    | (extract_lets -underBinder +onlyGivenNames xl; clear_value xl; rename' xl => y)
    | with_reducible apply State.dropOversize_keeps
    | with_reducible apply State.modDom_keeps
    | with_reducible apply State.modEth_keeps
    | with_reducible apply foldOver_keeps
    | split

theorem execEthTransmitEnd_keeps {F : Part → Prop} {q0 s : State} [Open F .regs] [Open F .out] [Open F .ports] [Open F .net] (h : Keeps F q0 s) (p : Fin 3) : KeepsOut F q0 (execEthTransmitEnd p s) := by
  unfold execEthTransmitEnd
  repeat' first
    | with_reducible assumption
    | with_reducible apply keeps_ite
    | with_reducible apply keepsOut_next
    | (refine keepsOut_whileRuns ?_ ?_)
    | with_reducible apply keepsOut_ite
    | with_reducible apply keepsOut_fault
    | (extract_lets -underBinder +onlyGivenNames xl; refine keeps_cut (F := F) (r := q0) (x := xl) (fun hx => ?_) ?_; (focus clear_value xl; rename' xl => y); rotate_left; (focus unfold xl; clear xl); rotate_left)
    | (extract_lets -underBinder +onlyGivenNames xl; clear_value xl; rename' xl => y)
    | with_reducible apply State.streamFold_keeps
    | with_reducible apply State.modEth_keeps
    | with_reducible apply State.send_keeps
    | split

theorem execGateIntervalEnd_keeps {F : Part → Prop} {q0 s : State} [Open F .ports] [Open F .net] (h : Keeps F q0 s) (p : Fin 3) : KeepsOut F q0 (execGateIntervalEnd p s) := by
  unfold execGateIntervalEnd
  repeat' first
    | with_reducible assumption
    | with_reducible apply keeps_ite
    | with_reducible apply keepsOut_next
    | (refine keepsOut_whileRuns ?_ ?_)
    | with_reducible apply keepsOut_ite
    | with_reducible apply keepsOut_fault
    | with_reducible apply State.modEth_keeps
    | split

theorem State.gateApply_keeps {F : Part → Prop} {q0 s : State} [Open F .regs] [Open F .ports] [Open F .tgs] [Open F .drives] [Open F .safety] [Open F .net] (h : Keeps F q0 s) (p : Nat) : Keeps F q0 (State.gateApply s p) := by
  unfold State.gateApply
  repeat' first
    | with_reducible assumption
    | with_reducible apply keeps_ite
    | (extract_lets -underBinder +onlyGivenNames xl; refine keeps_cut (F := F) (r := q0) (x := xl) (fun hx => ?_) ?_; (focus clear_value xl; rename' xl => y); rotate_left; (focus unfold xl; clear xl); rotate_left)
    | (extract_lets -underBinder +onlyGivenNames xl; clear_value xl; rename' xl => y)
    | with_reducible apply State.modEth_keeps
    | with_reducible apply State.cycle_keeps
    | with_reducible apply State.setB_keeps
    | split

theorem execGateApply_keeps {F : Part → Prop} {q0 s : State} [Open F .regs] [Open F .ports] [Open F .tgs] [Open F .drives] [Open F .safety] [Open F .net] (h : Keeps F q0 s) (p : Fin 3) : KeepsOut F q0 (execGateApply p s) := by
  unfold execGateApply
  repeat' first
    | with_reducible assumption
    | with_reducible apply keeps_ite
    | with_reducible apply keepsOut_next
    | (refine keepsOut_whileRuns ?_ ?_)
    | with_reducible apply keepsOut_ite
    | with_reducible apply keepsOut_fault
    | with_reducible apply State.gateApply_keeps
    | split

theorem execGateListSwitch_keeps {F : Part → Prop} {q0 s : State} [Open F .regs] [Open F .ports] [Open F .net] (h : Keeps F q0 s) (p : Fin 3) : KeepsOut F q0 (execGateListSwitch p s) := by
  unfold execGateListSwitch
  repeat' first
    | (intro i t ht)
    | with_reducible assumption
    | with_reducible apply keeps_ite
    | with_reducible apply keepsOut_next
    | (refine keepsOut_whileRuns ?_ ?_)
    | with_reducible apply keepsOut_ite
    | with_reducible apply keepsOut_fault
    | (extract_lets -underBinder +onlyGivenNames xl; refine keeps_cut (F := F) (r := q0) (x := xl) (fun hx => ?_) ?_; (focus clear_value xl; rename' xl => y); rotate_left; (focus unfold xl; clear xl); rotate_left)
    | (extract_lets -underBinder +onlyGivenNames xl; clear_value xl; rename' xl => y)
    | with_reducible apply State.modEth_keeps
    | with_reducible apply State.setB_keeps
    | with_reducible apply State.set_keeps
    | with_reducible apply foldOver_keeps
    | with_reducible apply State.setReg_keeps
    | split

theorem execRingCheckSend_keeps {F : Part → Prop} {q0 s : State} [Open F .regs] [Open F .ports] [Open F .net] (h : Keeps F q0 s)  : KeepsOut F q0 (execRingCheckSend s) := by
  unfold execRingCheckSend
  repeat' first
    | (intro i t ht)
    | with_reducible assumption
    | with_reducible apply keeps_ite
    | with_reducible apply keepsOut_next
    | (refine keepsOut_whileRuns ?_ ?_)
    | with_reducible apply keepsOut_ite
    | with_reducible apply keepsOut_fault
    | (extract_lets -underBinder +onlyGivenNames xl; refine keeps_cut (F := F) (r := q0) (x := xl) (fun hx => ?_) ?_; (focus clear_value xl; rename' xl => y); rotate_left; (focus unfold xl; clear xl); rotate_left)
    | (extract_lets -underBinder +onlyGivenNames xl; clear_value xl; rename' xl => y)
    | with_reducible apply State.enqueue_keeps
    | with_reducible apply State.setRing_keeps
    | with_reducible apply State.modNet_keeps
    | with_reducible apply foldOver_keeps
    | split

theorem execPortLinkDown_keeps {F : Part → Prop} {q0 s : State} [Open F .regs] [Open F .ports] [Open F .net] (h : Keeps F q0 s) (p : Fin 3) : KeepsOut F q0 (execPortLinkDown p s) := by
  unfold execPortLinkDown
  repeat' first
    | with_reducible assumption
    | with_reducible apply keeps_ite
    | with_reducible apply keepsOut_next
    | (refine keepsOut_whileRuns ?_ ?_)
    | with_reducible apply keepsOut_ite
    | with_reducible apply keepsOut_fault
    | (extract_lets -underBinder +onlyGivenNames xl; refine keeps_cut (F := F) (r := q0) (x := xl) (fun hx => ?_) ?_; (focus clear_value xl; rename' xl => y); rotate_left; (focus unfold xl; clear xl); rotate_left)
    | (extract_lets -underBinder +onlyGivenNames xl; clear_value xl; rename' xl => y)
    | with_reducible apply State.setRing_keeps
    | with_reducible apply State.modEth_keeps
    | with_reducible apply State.modNet_keeps
    | with_reducible apply State.setB_keeps
    | split

theorem execPortLinkUp_keeps {F : Part → Prop} {q0 s : State} [Open F .regs] (h : Keeps F q0 s) (p : Fin 3) : KeepsOut F q0 (execPortLinkUp p s) := by
  unfold execPortLinkUp
  repeat' first
    | with_reducible assumption
    | with_reducible apply keeps_ite
    | with_reducible apply keepsOut_next
    | (refine keepsOut_whileRuns ?_ ?_)
    | with_reducible apply keepsOut_ite
    | with_reducible apply keepsOut_fault
    | with_reducible apply State.setB_keeps
    | split

theorem State.takeUtc_keeps {F : Part → Prop} {q0 s : State} [Open F .regs] [Open F .net] (h : Keeps F q0 s)  : Keeps F q0 (State.takeUtc s) := by
  unfold State.takeUtc
  repeat' first
    | with_reducible assumption
    | with_reducible apply keeps_ite
    | (extract_lets -underBinder +onlyGivenNames xl; refine keeps_cut (F := F) (r := q0) (x := xl) (fun hx => ?_) ?_; (focus clear_value xl; rename' xl => y); rotate_left; (focus unfold xl; clear xl); rotate_left)
    | (extract_lets -underBinder +onlyGivenNames xl; clear_value xl; rename' xl => y)
    | with_reducible apply State.modNet_keeps
    | with_reducible apply State.setB_keeps
    | split

theorem State.ltStep_keeps {F : Part → Prop} {q0 s : State} [Open F .regs] [Open F .mem] [Open F .ports] [Open F .keeper] [Open F .meters] [Open F .net] (h : Keeps F q0 s) (x : Nat) : Keeps F q0 (State.ltStep s x) := by
  unfold State.ltStep
  repeat' first
    | (intro i t ht)
    | with_reducible assumption
    | with_reducible apply keeps_ite
    | (extract_lets -underBinder +onlyGivenNames xl; refine keeps_cut (F := F) (r := q0) (x := xl) (fun hx => ?_) ?_; (focus clear_value xl; rename' xl => y); rotate_left; (focus unfold xl; clear xl); rotate_left)
    | (extract_lets -underBinder +onlyGivenNames xl; clear_value xl; rename' xl => y)
    | with_reducible apply State.takeUtc_keeps
    | with_reducible apply State.setLt_keeps
    | with_reducible apply State.modEth_keeps
    | with_reducible apply State.modNet_keeps
    | with_reducible apply State.meterStep_keeps
    | with_reducible apply State.meterPause_keeps
    | with_reducible apply State.setB_keeps
    | with_reducible apply foldOver_keeps
    | split

theorem State.selectDomain_keeps {F : Part → Prop} {q0 s : State} [Open F .regs] [Open F .mem] [Open F .ports] [Open F .keeper] [Open F .meters] [Open F .net] (h : Keeps F q0 s) (x : Nat) : Keeps F q0 (State.selectDomain s x) := by
  unfold State.selectDomain
  repeat' first
    | with_reducible assumption
    | with_reducible apply keeps_ite
    | (extract_lets -underBinder +onlyGivenNames xl; refine keeps_cut (F := F) (r := q0) (x := xl) (fun hx => ?_) ?_; (focus clear_value xl; rename' xl => y); rotate_left; (focus unfold xl; clear xl); rotate_left)
    | (extract_lets -underBinder +onlyGivenNames xl; clear_value xl; rename' xl => y)
    | with_reducible apply State.ltStep_keeps
    | with_reducible apply State.incSat_keeps
    | with_reducible apply State.set_keeps
    | split

theorem State.domainSelect_keeps {F : Part → Prop} {q0 s : State} [Open F .regs] [Open F .mem] [Open F .ports] [Open F .keeper] [Open F .meters] [Open F .net] (h : Keeps F q0 s) (gmChanged : Bool) : Keeps F q0 (State.domainSelect s gmChanged) := by
  unfold State.domainSelect
  repeat' first
    | with_reducible assumption
    | with_reducible apply keeps_ite
    | (extract_lets -underBinder +onlyGivenNames xl; refine keeps_cut (F := F) (r := q0) (x := xl) (fun hx => ?_) ?_; (focus clear_value xl; rename' xl => y); rotate_left; (focus unfold xl; clear xl); rotate_left)
    | (extract_lets -underBinder +onlyGivenNames xl; clear_value xl; rename' xl => y)
    | with_reducible apply State.selectDomain_keeps
    | split

theorem State.refreshTime_keeps {F : Part → Prop} {q0 s : State} [Open F .regs] [Open F .meters] [Open F .net] (h : Keeps F q0 s)  : Keeps F q0 (State.refreshTime s) := by
  unfold State.refreshTime
  repeat' first
    | with_reducible assumption
    | with_reducible apply keeps_ite
    | (extract_lets -underBinder +onlyGivenNames xl; refine keeps_cut (F := F) (r := q0) (x := xl) (fun hx => ?_) ?_; (focus clear_value xl; rename' xl => y); rotate_left; (focus unfold xl; clear xl); rotate_left)
    | (extract_lets -underBinder +onlyGivenNames xl; clear_value xl; rename' xl => y)
    | with_reducible apply State.takeUtc_keeps
    | with_reducible apply State.meterUnsync_keeps
    | with_reducible apply State.setSat_keeps
    | with_reducible apply State.setB_keeps
    | with_reducible apply State.set_keeps
    | split

theorem State.servo_keeps {F : Part → Prop} {q0 s : State} [Open F .freeCnt] [Open F .net] (h : Keeps F q0 s) (x : Nat) : Keeps F q0 (State.servo s x) := by
  unfold State.servo
  repeat' first
    | with_reducible assumption
    | with_reducible apply keeps_ite
    | (extract_lets -underBinder +onlyGivenNames xl; refine keeps_cut (F := F) (r := q0) (x := xl) (fun hx => ?_) ?_; (focus clear_value xl; rename' xl => y); rotate_left; (focus unfold xl; clear xl); rotate_left)
    | (extract_lets -underBinder +onlyGivenNames xl; clear_value xl; rename' xl => y)
    | with_reducible apply State.modNet_keeps
    | with_reducible apply State.fresh_keeps
    | split

theorem State.syncMeasured_keeps {F : Part → Prop} {q0 s : State} [Open F .regs] [Open F .mem] [Open F .out] [Open F .freeCnt] [Open F .ports] [Open F .life] [Open F .keeper] [Open F .meters] [Open F .arb] [Open F .net] (h : Keeps F q0 s) (x : Nat) (p : Nat) (origin : Int) (receipt : Int) (correction : Int) : Keeps F q0 (State.syncMeasured s x p origin receipt correction) := by
  unfold State.syncMeasured
  repeat' first
    | with_reducible assumption
    | with_reducible apply keeps_ite
    | (extract_lets -underBinder +onlyGivenNames xl; refine keeps_cut (F := F) (r := q0) (x := xl) (fun hx => ?_) ?_; (focus clear_value xl; rename' xl => y); rotate_left; (focus unfold xl; clear xl); rotate_left)
    | (extract_lets -underBinder +onlyGivenNames xl; clear_value xl; rename' xl => y)
    | with_reducible apply State.servo_keeps
    | with_reducible apply State.refreshTime_keeps
    | with_reducible apply State.domainSelect_keeps
    | with_reducible apply State.modDom_keeps
    | with_reducible apply State.judge_keeps
    | with_reducible apply State.setSat_keeps
    | split

theorem State.announce_keeps {F : Part → Prop} {q0 s : State} [Open F .regs] [Open F .mem] [Open F .out] [Open F .ports] [Open F .life] [Open F .keeper] [Open F .meters] [Open F .arb] [Open F .net] (h : Keeps F q0 s) (x : Nat) (p : Nat) (sender : Nat) (a : PtpAnnounce) : Keeps F q0 (State.announce s x p sender a) := by
  unfold State.announce
  repeat' first
    | with_reducible assumption
    | with_reducible apply keeps_ite
    | (extract_lets -underBinder +onlyGivenNames xl; refine keeps_cut (F := F) (r := q0) (x := xl) (fun hx => ?_) ?_; (focus clear_value xl; rename' xl => y); rotate_left; (focus unfold xl; clear xl); rotate_left)
    | (extract_lets -underBinder +onlyGivenNames xl; clear_value xl; rename' xl => y)
    | with_reducible apply State.refreshTime_keeps
    | with_reducible apply State.domainSelect_keeps
    | with_reducible apply State.modDom_keeps
    | with_reducible apply State.judge_keeps
    | split

theorem execPtpMessageReceived_keeps {F : Part → Prop} {q0 s : State} [Open F .regs] [Open F .mem] [Open F .out] [Open F .freeCnt] [Open F .ports] [Open F .life] [Open F .keeper] [Open F .meters] [Open F .arb] [Open F .net] (h : Keeps F q0 s) (p : Fin 3) (m : PtpMsg) (ts : Int) : KeepsOut F q0 (execPtpMessageReceived p m ts s) := by
  unfold execPtpMessageReceived
  repeat' first
    | with_reducible assumption
    | with_reducible apply keeps_ite
    | with_reducible apply keepsOut_next
    | (refine keepsOut_whileRuns ?_ ?_)
    | with_reducible apply keepsOut_ite
    | with_reducible apply keepsOut_fault
    | (extract_lets -underBinder +onlyGivenNames xl; refine keeps_cut (F := F) (r := q0) (x := xl) (fun hx => ?_) ?_; (focus clear_value xl; rename' xl => y); rotate_left; (focus unfold xl; clear xl); rotate_left)
    | (extract_lets -underBinder +onlyGivenNames xl; clear_value xl; rename' xl => y)
    | with_reducible apply State.announce_keeps
    | with_reducible apply State.syncMeasured_keeps
    | with_reducible apply State.modDom_keeps
    | with_reducible apply State.modEth_keeps
    | with_reducible apply State.setSat_keeps
    | split

theorem execPtpDelayReqSend_keeps {F : Part → Prop} {q0 s : State} [Open F .regs] [Open F .ports] [Open F .net] (h : Keeps F q0 s) (p : Fin 3) : KeepsOut F q0 (execPtpDelayReqSend p s) := by
  unfold execPtpDelayReqSend
  repeat' first
    | (intro i t ht)
    | with_reducible assumption
    | with_reducible apply keeps_ite
    | with_reducible apply keepsOut_next
    | (refine keepsOut_whileRuns ?_ ?_)
    | with_reducible apply keepsOut_ite
    | with_reducible apply keepsOut_fault
    | (extract_lets -underBinder +onlyGivenNames xl; refine keeps_cut (F := F) (r := q0) (x := xl) (fun hx => ?_) ?_; (focus clear_value xl; rename' xl => y); rotate_left; (focus unfold xl; clear xl); rotate_left)
    | (extract_lets -underBinder +onlyGivenNames xl; clear_value xl; rename' xl => y)
    | with_reducible apply State.enqueue_keeps
    | with_reducible apply State.modDom_keeps
    | with_reducible apply State.modEth_keeps
    | with_reducible apply foldOver_keeps
    | split

theorem execDomainTimeout_keeps {F : Part → Prop} {q0 s : State} [Open F .regs] [Open F .mem] [Open F .out] [Open F .ports] [Open F .life] [Open F .keeper] [Open F .meters] [Open F .arb] [Open F .net] (h : Keeps F q0 s) (x : Fin 2) (announce : Bool) : KeepsOut F q0 (execDomainTimeout x announce s) := by
  unfold execDomainTimeout
  repeat' first
    | with_reducible assumption
    | with_reducible apply keeps_ite
    | with_reducible apply keepsOut_next
    | (refine keepsOut_whileRuns ?_ ?_)
    | with_reducible apply keepsOut_ite
    | with_reducible apply keepsOut_fault
    | (extract_lets -underBinder +onlyGivenNames xl; refine keeps_cut (F := F) (r := q0) (x := xl) (fun hx => ?_) ?_; (focus clear_value xl; rename' xl => y); rotate_left; (focus unfold xl; clear xl); rotate_left)
    | (extract_lets -underBinder +onlyGivenNames xl; clear_value xl; rename' xl => y)
    | with_reducible apply State.refreshTime_keeps
    | with_reducible apply State.domainSelect_keeps
    | with_reducible apply State.modDom_keeps
    | with_reducible apply State.judge_keeps
    | split

theorem State.portUnheard_keeps {F : Part → Prop} {q0 s : State} [Open F .regs] [Open F .mem] [Open F .out] [Open F .ports] [Open F .life] [Open F .keeper] [Open F .meters] [Open F .arb] [Open F .net] (h : Keeps F q0 s) (p : Nat) : Keeps F q0 (State.portUnheard s p) := by
  unfold State.portUnheard
  repeat' first
    | (intro i t ht)
    | with_reducible assumption
    | with_reducible apply keeps_ite
    | (extract_lets -underBinder +onlyGivenNames xl; refine keeps_cut (F := F) (r := q0) (x := xl) (fun hx => ?_) ?_; (focus clear_value xl; rename' xl => y); rotate_left; (focus unfold xl; clear xl); rotate_left)
    | (extract_lets -underBinder +onlyGivenNames xl; clear_value xl; rename' xl => y)
    | with_reducible apply State.refreshTime_keeps
    | with_reducible apply State.domainSelect_keeps
    | with_reducible apply State.modDom_keeps
    | with_reducible apply State.judge_keeps
    | with_reducible apply foldOver_keeps
    | split

theorem State.ethCfgApply_keeps {F : Part → Prop} {q0 s : State} [Open F .regs] [Open F .mem] [Open F .out] [Open F .ports] [Open F .life] [Open F .keeper] [Open F .meters] [Open F .arb] [Open F .net] (h : Keeps F q0 s) (p : Nat) (w : Word) : Keeps F q0 (State.ethCfgApply s p w) := by
  unfold State.ethCfgApply
  repeat' first
    | with_reducible assumption
    | with_reducible apply keeps_ite
    | (extract_lets -underBinder +onlyGivenNames xl; refine keeps_cut (F := F) (r := q0) (x := xl) (fun hx => ?_) ?_; (focus clear_value xl; rename' xl => y); rotate_left; (focus unfold xl; clear xl); rotate_left)
    | (extract_lets -underBinder +onlyGivenNames xl; clear_value xl; rename' xl => y)
    | with_reducible apply State.portUnheard_keeps
    | with_reducible apply State.checkMech_keeps
    | with_reducible apply State.setRing_keeps
    | with_reducible apply State.modEth_keeps
    | with_reducible apply State.modNet_keeps
    | with_reducible apply State.setReg_keeps
    | split

theorem execDomainReturn_keeps {F : Part → Prop} {q0 s : State} [Open F .regs] [Open F .mem] [Open F .ports] [Open F .keeper] [Open F .meters] [Open F .net] (h : Keeps F q0 s)  : KeepsOut F q0 (execDomainReturn s) := by
  unfold execDomainReturn
  repeat' first
    | with_reducible assumption
    | with_reducible apply keeps_ite
    | with_reducible apply keepsOut_next
    | (refine keepsOut_whileRuns ?_ ?_)
    | with_reducible apply keepsOut_ite
    | with_reducible apply keepsOut_fault
    | with_reducible apply State.refreshTime_keeps
    | with_reducible apply State.selectDomain_keeps
    | split

theorem State.timeCfgApply_keeps {F : Part → Prop} {q0 s : State} [Open F .regs] [Open F .mem] [Open F .ports] [Open F .keeper] [Open F .meters] [Open F .net] (h : Keeps F q0 s) (a : Nat) (w : Word) : Keeps F q0 (State.timeCfgApply s a w) := by
  unfold State.timeCfgApply
  repeat' first
    | with_reducible assumption
    | with_reducible apply keeps_ite
    | (extract_lets -underBinder +onlyGivenNames xl; refine keeps_cut (F := F) (r := q0) (x := xl) (fun hx => ?_) ?_; (focus clear_value xl; rename' xl => y); rotate_left; (focus unfold xl; clear xl); rotate_left)
    | (extract_lets -underBinder +onlyGivenNames xl; clear_value xl; rename' xl => y)
    | with_reducible apply State.refreshTime_keeps
    | with_reducible apply State.domainSelect_keeps
    | with_reducible apply State.modDom_keeps
    | with_reducible apply State.modNet_keeps
    | with_reducible apply State.setReg_keeps
    | split

theorem State.ageActivities_keeps {F : Part → Prop} {q0 s : State} [Open F .regs] (h : Keeps F q0 s)  : Keeps F q0 (State.ageActivities s) := by
  unfold State.ageActivities
  repeat' first
    | (intro i t ht)
    | with_reducible assumption
    | with_reducible apply keeps_ite
    | with_reducible apply State.incSat_keeps
    | with_reducible apply foldOver_keeps
    | split

theorem execLtToS_keeps {F : Part → Prop} {q0 s : State} [Open F .regs] [Open F .power] [Open F .safety] (h : Keeps F q0 s)  : KeepsOut F q0 (execLtToS s) := by
  unfold execLtToS
  repeat' first
    | with_reducible assumption
    | with_reducible apply keeps_ite
    | with_reducible apply keepsOut_next
    | (refine keepsOut_whileRuns ?_ ?_)
    | with_reducible apply keepsOut_ite
    | with_reducible apply keepsOut_fault
    | (extract_lets -underBinder +onlyGivenNames xl; refine keeps_cut (F := F) (r := q0) (x := xl) (fun hx => ?_) ?_; (focus clear_value xl; rename' xl => y); rotate_left; (focus unfold xl; clear xl); rotate_left)
    | (extract_lets -underBinder +onlyGivenNames xl; clear_value xl; rename' xl => y)
    | with_reducible apply State.ageActivities_keeps
    | with_reducible apply State.nHeard_keeps
    | with_reducible apply State.modSafety_keeps
    | split
    | refine Keeps.power ?_ _

theorem execLeapSecond_keeps {F : Part → Prop} {q0 s : State} [Open F .net] (h : Keeps F q0 s)  : KeepsOut F q0 (execLeapSecond s) := by
  unfold execLeapSecond
  repeat' first
    | with_reducible assumption
    | with_reducible apply keeps_ite
    | with_reducible apply keepsOut_next
    | (refine keepsOut_whileRuns ?_ ?_)
    | with_reducible apply keepsOut_ite
    | with_reducible apply keepsOut_fault
    | (extract_lets -underBinder +onlyGivenNames xl; refine keeps_cut (F := F) (r := q0) (x := xl) (fun hx => ?_) ?_; (focus clear_value xl; rename' xl => y); rotate_left; (focus unfold xl; clear xl); rotate_left)
    | (extract_lets -underBinder +onlyGivenNames xl; clear_value xl; rename' xl => y)
    | with_reducible apply State.modDom_keeps
    | with_reducible apply State.modNet_keeps
    | split

theorem State.armUnit_keeps {F : Part → Prop} {q0 s : State} [Open F .regs] [Open F .net] (h : Keeps F q0 s) (u : Nat) : Keeps F q0 (State.armUnit s u) := by
  unfold State.armUnit
  repeat' first
    | with_reducible assumption
    | with_reducible apply keeps_ite
    | with_reducible apply State.modNet_keeps
    | with_reducible apply State.setB_keeps
    | split

theorem State.tuCfgApply_keeps {F : Part → Prop} {q0 s : State} [Open F .regs] [Open F .net] (h : Keeps F q0 s) (u : Nat) (w : Word) : Keeps F q0 (State.tuCfgApply s u w) := by
  unfold State.tuCfgApply
  repeat' first
    | with_reducible assumption
    | with_reducible apply keeps_ite
    | (extract_lets -underBinder +onlyGivenNames xl; refine keeps_cut (F := F) (r := q0) (x := xl) (fun hx => ?_) ?_; (focus clear_value xl; rename' xl => y); rotate_left; (focus unfold xl; clear xl); rotate_left)
    | (extract_lets -underBinder +onlyGivenNames xl; clear_value xl; rename' xl => y)
    | with_reducible apply State.armUnit_keeps
    | with_reducible apply State.setB_keeps
    | with_reducible apply State.setReg_keeps
    | split

theorem State.tuFire_keeps {F : Part → Prop} {q0 s : State} [Open F .regs] [Open F .out] [Open F .net] (h : Keeps F q0 s) (u : Nat) : Keeps F q0 (State.tuFire s u) := by
  unfold State.tuFire
  repeat' first
    | (intro i t ht)
    | with_reducible assumption
    | with_reducible apply keeps_ite
    | (extract_lets -underBinder +onlyGivenNames xl; refine keeps_cut (F := F) (r := q0) (x := xl) (fun hx => ?_) ?_; (focus clear_value xl; rename' xl => y); rotate_left; (focus unfold xl; clear xl); rotate_left)
    | (extract_lets -underBinder +onlyGivenNames xl; clear_value xl; rename' xl => y)
    | with_reducible apply State.modNet_keeps
    | with_reducible apply State.send_keeps
    | with_reducible apply State.incMod_keeps
    | with_reducible apply State.setB_keeps
    | with_reducible apply State.set_keeps
    | with_reducible apply foldl_keeps
    | split

theorem execTuFire_keeps {F : Part → Prop} {q0 s : State} [Open F .regs] [Open F .out] [Open F .net] (h : Keeps F q0 s) (u : Fin 16) : KeepsOut F q0 (execTuFire u s) := by
  unfold execTuFire
  repeat' first
    | with_reducible assumption
    | with_reducible apply keeps_ite
    | with_reducible apply keepsOut_next
    | (refine keepsOut_whileRuns ?_ ?_)
    | with_reducible apply keepsOut_ite
    | with_reducible apply keepsOut_fault
    | with_reducible apply State.tuFire_keeps
    | split

theorem State.tuTarget_keeps {F : Part → Prop} {q0 s : State} [Open F .regs] [Open F .out] [Open F .net] (h : Keeps F q0 s) (u : Nat) (w : Word) : Keeps F q0 (State.tuTarget s u w) := by
  unfold State.tuTarget
  repeat' first
    | with_reducible assumption
    | with_reducible apply keeps_ite
    | (extract_lets -underBinder +onlyGivenNames xl; refine keeps_cut (F := F) (r := q0) (x := xl) (fun hx => ?_) ?_; (focus clear_value xl; rename' xl => y); rotate_left; (focus unfold xl; clear xl); rotate_left)
    | (extract_lets -underBinder +onlyGivenNames xl; clear_value xl; rename' xl => y)
    | with_reducible apply State.tuFire_keeps
    | with_reducible apply State.armUnit_keeps
    | with_reducible apply State.setReg_keeps
    | split

theorem execTuTargetWrite_keeps {F : Part → Prop} {q0 s : State} [Open F .regs] [Open F .out] [Open F .net] (h : Keeps F q0 s) (u : Fin 16) (w : Word) : KeepsOut F q0 (execTuTargetWrite u w s) := by
  unfold execTuTargetWrite
  repeat' first
    | with_reducible assumption
    | with_reducible apply keeps_ite
    | with_reducible apply keepsOut_next
    | (refine keepsOut_whileRuns ?_ ?_)
    | with_reducible apply keepsOut_ite
    | with_reducible apply keepsOut_fault
    | with_reducible apply State.tuTarget_keeps
    | split

theorem execTioPulseEnd_keeps {F : Part → Prop} {q0 s : State} [Open F .net] (h : Keeps F q0 s) (u : Fin 16) : KeepsOut F q0 (execTioPulseEnd u s) := by
  unfold execTioPulseEnd
  repeat' first
    | with_reducible assumption
    | with_reducible apply keeps_ite
    | with_reducible apply keepsOut_next
    | (refine keepsOut_whileRuns ?_ ?_)
    | with_reducible apply keepsOut_ite
    | with_reducible apply keepsOut_fault
    | with_reducible apply State.modNet_keeps
    | split

theorem execTuCapture_keeps {F : Part → Prop} {q0 s : State} [Open F .regs] (h : Keeps F q0 s) (u : Fin 16) (rising : Bool) : KeepsOut F q0 (execTuCapture u rising s) := by
  unfold execTuCapture
  repeat' first
    | with_reducible assumption
    | with_reducible apply keeps_ite
    | with_reducible apply keepsOut_next
    | (refine keepsOut_whileRuns ?_ ?_)
    | with_reducible apply keepsOut_ite
    | with_reducible apply keepsOut_fault
    | (extract_lets -underBinder +onlyGivenNames xl; refine keeps_cut (F := F) (r := q0) (x := xl) (fun hx => ?_) ?_; (focus clear_value xl; rename' xl => y); rotate_left; (focus unfold xl; clear xl); rotate_left)
    | (extract_lets -underBinder +onlyGivenNames xl; clear_value xl; rename' xl => y)
    | with_reducible apply State.incMod_keeps
    | with_reducible apply State.setB_keeps
    | with_reducible apply State.set_keeps
    | split

theorem State.canCfgApply_keeps {F : Part → Prop} {q0 s : State} [Open F .regs] [Open F .net] (h : Keeps F q0 s) (n : Nat) (w : Word) : Keeps F q0 (State.canCfgApply s n w) := by
  unfold State.canCfgApply
  repeat' first
    | with_reducible assumption
    | with_reducible apply keeps_ite
    | (extract_lets -underBinder +onlyGivenNames xl; refine keeps_cut (F := F) (r := q0) (x := xl) (fun hx => ?_) ?_; (focus clear_value xl; rename' xl => y); rotate_left; (focus unfold xl; clear xl); rotate_left)
    | (extract_lets -underBinder +onlyGivenNames xl; clear_value xl; rename' xl => y)
    | with_reducible apply State.modCan_keeps
    | with_reducible apply State.setReg_keeps
    | split

theorem State.canState_keeps {F : Part → Prop} {q0 s : State} [Open F .regs] (h : Keeps F q0 s) (n : Nat) : Keeps F q0 (State.canState s n) := by
  unfold State.canState
  repeat' first
    | with_reducible assumption
    | with_reducible apply keeps_ite
    | with_reducible apply State.set_keeps
    | split

theorem execCanFrameReceived_keeps {F : Part → Prop} {q0 s : State} [Open F .regs] [Open F .out] [Open F .cmds] [Open F .flows] [Open F .dict] (h : Keeps F q0 s) (n : Fin 4) (f : CanReceived) : KeepsOut F q0 (execCanFrameReceived n f s) := by
  unfold execCanFrameReceived
  repeat' first
    | with_reducible assumption
    | with_reducible apply keeps_ite
    | with_reducible apply keepsOut_next
    | (refine keepsOut_whileRuns ?_ ?_)
    | with_reducible apply keepsOut_ite
    | with_reducible apply keepsOut_fault
    | (extract_lets -underBinder +onlyGivenNames xl; refine keeps_cut (F := F) (r := q0) (x := xl) (fun hx => ?_) ?_; (focus clear_value xl; rename' xl => y); rotate_left; (focus unfold xl; clear xl); rotate_left)
    | (extract_lets -underBinder +onlyGivenNames xl; clear_value xl; rename' xl => y)
    | with_reducible apply State.canState_keeps
    | with_reducible apply State.flowReceive_keeps
    | with_reducible apply State.send_keeps
    | with_reducible apply State.incSat_keeps
    | with_reducible apply State.set_keeps
    | split

theorem execCanTransmitEnd_keeps {F : Part → Prop} {q0 s : State} [Open F .regs] [Open F .out] [Open F .net] (h : Keeps F q0 s) (n : Fin 4) (how : CanTxEnd) : KeepsOut F q0 (execCanTransmitEnd n how s) := by
  unfold execCanTransmitEnd
  repeat' first
    | with_reducible assumption
    | with_reducible apply keeps_ite
    | with_reducible apply keepsOut_next
    | (refine keepsOut_whileRuns ?_ ?_)
    | with_reducible apply keepsOut_ite
    | with_reducible apply keepsOut_fault
    | (extract_lets -underBinder +onlyGivenNames xl; refine keeps_cut (F := F) (r := q0) (x := xl) (fun hx => ?_) ?_; (focus clear_value xl; rename' xl => y); rotate_left; (focus unfold xl; clear xl); rotate_left)
    | (extract_lets -underBinder +onlyGivenNames xl; clear_value xl; rename' xl => y)
    | with_reducible apply State.canState_keeps
    | with_reducible apply State.streamFold_keeps
    | with_reducible apply State.modCan_keeps
    | with_reducible apply State.send_keeps
    | with_reducible apply State.addSat_keeps
    | with_reducible apply State.set_keeps
    | split

theorem execCanBusOff_keeps {F : Part → Prop} {q0 s : State} [Open F .regs] [Open F .net] (h : Keeps F q0 s) (n : Fin 4) : KeepsOut F q0 (execCanBusOff n s) := by
  unfold execCanBusOff
  repeat' first
    | with_reducible assumption
    | with_reducible apply keeps_ite
    | with_reducible apply keepsOut_next
    | (refine keepsOut_whileRuns ?_ ?_)
    | with_reducible apply keepsOut_ite
    | with_reducible apply keepsOut_fault
    | with_reducible apply State.modCan_keeps
    | with_reducible apply State.incSat_keeps
    | with_reducible apply State.set_keeps
    | split

theorem State.canRecover_keeps {F : Part → Prop} {q0 s : State} [Open F .net] (h : Keeps F q0 s) (n : Nat) : Keeps F q0 (State.canRecover s n) := by
  unfold State.canRecover
  repeat' first
    | with_reducible assumption
    | with_reducible apply keeps_ite
    | with_reducible apply State.modCan_keeps
    | split

theorem execRecover_keeps {F : Part → Prop} {q0 s : State} [Open F .net] (h : Keeps F q0 s) (n : Fin 4) : KeepsOut F q0 (execRecover n s) := by
  unfold execRecover
  repeat' first
    | with_reducible assumption
    | with_reducible apply keeps_ite
    | with_reducible apply keepsOut_next
    | (refine keepsOut_whileRuns ?_ ?_)
    | with_reducible apply keepsOut_ite
    | with_reducible apply keepsOut_fault
    | with_reducible apply State.canRecover_keeps
    | split

theorem execCanRecoveryComplete_keeps {F : Part → Prop} {q0 s : State} [Open F .regs] [Open F .net] (h : Keeps F q0 s) (n : Fin 4) : KeepsOut F q0 (execCanRecoveryComplete n s) := by
  unfold execCanRecoveryComplete
  repeat' first
    | with_reducible assumption
    | with_reducible apply keeps_ite
    | with_reducible apply keepsOut_next
    | (refine keepsOut_whileRuns ?_ ?_)
    | with_reducible apply keepsOut_ite
    | with_reducible apply keepsOut_fault
    | with_reducible apply State.modCan_keeps
    | with_reducible apply State.setReg_keeps
    | split

end Sys2Proof.Machine
end

