-- ==== Sys2Proof/Laws/KeepsKeeper.lean ====
section
/-! SUPPORT.  What the operations of Machine/Keeper.lean keep. -/

set_option linter.unusedTactic false
set_option linter.unreachableTactic false
set_option linter.unusedVariables false
set_option linter.unnecessarySeqFocus false

namespace Sys2Proof.Machine

theorem State.modDict_keeps {F : Part → Prop} {q0 s : State} [Open F .dict] (h : Keeps F q0 s) (f : Dict → Dict) : Keeps F q0 (State.modDict s f) := by
  unfold State.modDict
  repeat' first
    | with_reducible assumption
    | with_reducible apply keeps_ite
    | split
    | refine Keeps.dict ?_ _

theorem State.modKeeper_keeps {F : Part → Prop} {q0 s : State} [Open F .keeper] (h : Keeps F q0 s) (f : Keeper → Keeper) : Keeps F q0 (State.modKeeper s f) := by
  unfold State.modKeeper
  repeat' first
    | with_reducible assumption
    | with_reducible apply keeps_ite
    | split
    | refine Keeps.keeper ?_ _

theorem State.modLife_keeps {F : Part → Prop} {q0 s : State} [Open F .life] (h : Keeps F q0 s) (f : Life → Life) : Keeps F q0 (State.modLife s f) := by
  unfold State.modLife
  repeat' first
    | with_reducible assumption
    | with_reducible apply keeps_ite
    | split
    | refine Keeps.life ?_ _

theorem State.modSys_keeps {F : Part → Prop} {q0 s : State} [Open F .regs] [Open F .sys] [Open F .keeper] (h : Keeps F q0 s) (f : SysRegion → SysRegion) : Keeps F q0 (State.modSys s f) := by
  unfold State.modSys
  repeat' first
    | with_reducible assumption
    | with_reducible apply keeps_ite
    | with_reducible apply State.burstRequest_keeps
    | split
    | refine Keeps.sys ?_ _

theorem State.refreshHarvest_keeps {F : Part → Prop} {q0 s : State} [Open F .regs] [Open F .keeper] (h : Keeps F q0 s) (check : Bool) : Keeps F q0 (State.refreshHarvest s check) := by
  unfold State.refreshHarvest
  repeat' first
    | with_reducible assumption
    | with_reducible apply keeps_ite
    | (extract_lets -underBinder +onlyGivenNames xl; refine keeps_cut (F := F) (r := q0) (x := xl) (fun hx => ?_) ?_; (focus clear_value xl; rename' xl => y); rotate_left; (focus unfold xl; clear xl); rotate_left)
    | (extract_lets -underBinder +onlyGivenNames xl; clear_value xl; rename' xl => y)
    | with_reducible apply State.modKeeper_keeps
    | with_reducible apply State.set_keeps
    | split

theorem execVkinChange_keeps {F : Part → Prop} {q0 s : State} [Open F .regs] [Open F .keeper] (h : Keeps F q0 s) (on : Bool) : KeepsOut F q0 (execVkinChange on s) := by
  unfold execVkinChange
  repeat' first
    | with_reducible assumption
    | with_reducible apply keeps_ite
    | with_reducible apply keepsOut_next
    | (refine keepsOut_whileRuns ?_ ?_)
    | with_reducible apply keepsOut_ite
    | with_reducible apply keepsOut_fault
    | with_reducible apply State.refreshHarvest_keeps
    | with_reducible apply State.setB_keeps
    | split

theorem State.evaluatePg_keeps {F : Part → Prop} {q0 s : State} [Open F .regs] [Open F .keeper] (h : Keeps F q0 s) (rail : Nat) : Keeps F q0 (State.evaluatePg s rail) := by
  unfold State.evaluatePg
  repeat' first
    | with_reducible assumption
    | with_reducible apply keeps_ite
    | (extract_lets -underBinder +onlyGivenNames xl; refine keeps_cut (F := F) (r := q0) (x := xl) (fun hx => ?_) ?_; (focus clear_value xl; rename' xl => y); rotate_left; (focus unfold xl; clear xl); rotate_left)
    | (extract_lets -underBinder +onlyGivenNames xl; clear_value xl; rename' xl => y)
    | with_reducible apply State.modKeeper_keeps
    | with_reducible apply State.setB_keeps
    | split

theorem State.coldStart_keeps {F : Part → Prop} {q0 s : State} [Open F .keeper] (h : Keeps F q0 s) (vstq : Nat) : Keeps F q0 (State.coldStart s vstq) := by
  unfold State.coldStart
  repeat' first
    | with_reducible assumption
    | with_reducible apply keeps_ite
    | with_reducible apply State.modKeeper_keeps
    | split

theorem State.evaluateVkin_keeps {F : Part → Prop} {q0 s : State} [Open F .regs] (h : Keeps F q0 s) (vkin : Nat) : Keeps F q0 (State.evaluateVkin s vkin) := by
  unfold State.evaluateVkin
  repeat' first
    | with_reducible assumption
    | with_reducible apply keeps_ite
    | with_reducible apply State.setB_keeps
    | split

theorem execKeeperEvaluation_keeps {F : Part → Prop} {q0 s : State} [Open F .regs] [Open F .keeper] (h : Keeps F q0 s) (vkin : KeeperInputs) (vstq : BitVec 16) (vstl : BitVec 16) : KeepsOut F q0 (execKeeperEvaluation vkin vstq vstl s) := by
  unfold execKeeperEvaluation
  repeat' first
    | with_reducible assumption
    | with_reducible apply keeps_ite
    | with_reducible apply keepsOut_next
    | (refine keepsOut_whileRuns ?_ ?_)
    | with_reducible apply keepsOut_ite
    | with_reducible apply keepsOut_fault
    | (extract_lets -underBinder +onlyGivenNames xl; refine keeps_cut (F := F) (r := q0) (x := xl) (fun hx => ?_) ?_; (focus clear_value xl; rename' xl => y); rotate_left; (focus unfold xl; clear xl); rotate_left)
    | (extract_lets -underBinder +onlyGivenNames xl; clear_value xl; rename' xl => y)
    | with_reducible apply State.evaluateVkin_keeps
    | with_reducible apply State.coldStart_keeps
    | with_reducible apply State.evaluatePg_keeps
    | with_reducible apply State.refreshHarvest_keeps
    | with_reducible apply State.modKeeper_keeps
    | with_reducible apply State.setB_keeps
    | with_reducible apply State.set_keeps
    | split

theorem State.endKeeper_keeps {F : Part → Prop} {q0 s : State} [Open F .regs] [Open F .out] [Open F .keeper] [Open F .acts] [Open F .maintSeq] (h : Keeps F q0 s) (code : Nat) (result : Nat) : Keeps F q0 (State.endKeeper s code result) := by
  unfold State.endKeeper
  repeat' first
    | with_reducible assumption
    | with_reducible apply keeps_ite
    | (extract_lets -underBinder +onlyGivenNames xl; refine keeps_cut (F := F) (r := q0) (x := xl) (fun hx => ?_) ?_; (focus clear_value xl; rename' xl => y); rotate_left; (focus unfold xl; clear xl); rotate_left)
    | (extract_lets -underBinder +onlyGivenNames xl; clear_value xl; rename' xl => y)
    | with_reducible apply State.modKeeper_keeps
    | with_reducible apply State.endActivity_keeps
    | split

theorem State.dropWorking_keeps {F : Part → Prop} {q0 s : State} [Open F .life] [Open F .sys] [Open F .meters] [Open F .safety] (h : Keeps F q0 s)  : Keeps F q0 (State.dropWorking s) := by
  unfold State.dropWorking
  repeat' first
    | (intro i t ht)
    | with_reducible assumption
    | with_reducible apply keeps_ite
    | (extract_lets -underBinder +onlyGivenNames xl; refine keeps_cut (F := F) (r := q0) (x := xl) (fun hx => ?_) ?_; (focus clear_value xl; rename' xl => y); rotate_left; (focus unfold xl; clear xl); rotate_left)
    | (extract_lets -underBinder +onlyGivenNames xl; clear_value xl; rename' xl => y)
    | with_reducible apply State.modLife_keeps
    | with_reducible apply State.modSafety_keeps
    | with_reducible apply State.modMeter_keeps
    | with_reducible apply foldOver_keeps
    | split
    | refine Keeps.sys ?_ _

theorem execKeeperPowerOn_keeps {F : Part → Prop} {q0 s : State} [Open F .regs] [Open F .life] [Open F .sys] [Open F .keeper] [Open F .meters] [Open F .safety] (h : Keeps F q0 s)  : KeepsOut F q0 (execKeeperPowerOn s) := by
  unfold execKeeperPowerOn
  repeat' first
    | (intro i t ht)
    | with_reducible assumption
    | with_reducible apply keeps_ite
    | with_reducible apply keepsOut_next
    | (refine keepsOut_whileRuns ?_ ?_)
    | with_reducible apply keepsOut_ite
    | with_reducible apply keepsOut_fault
    | (extract_lets -underBinder +onlyGivenNames xl; refine keeps_cut (F := F) (r := q0) (x := xl) (fun hx => ?_) ?_; (focus clear_value xl; rename' xl => y); rotate_left; (focus unfold xl; clear xl); rotate_left)
    | (extract_lets -underBinder +onlyGivenNames xl; clear_value xl; rename' xl => y)
    | with_reducible apply State.dropWorking_keeps
    | with_reducible apply State.modKeeper_keeps
    | with_reducible apply State.enterFault_keeps
    | with_reducible apply State.countEvent_keeps
    | with_reducible apply State.setReg_keeps
    | with_reducible apply foldl_keeps
    | split

theorem execKeeperBrownOut_keeps {F : Part → Prop} {q0 s : State} [Open F .regs] [Open F .out] [Open F .life] [Open F .sys] [Open F .keeper] [Open F .acts] [Open F .maintSeq] [Open F .meters] [Open F .safety] (h : Keeps F q0 s)  : KeepsOut F q0 (execKeeperBrownOut s) := by
  unfold execKeeperBrownOut
  repeat' first
    | with_reducible assumption
    | with_reducible apply keeps_ite
    | with_reducible apply keepsOut_next
    | (refine keepsOut_whileRuns ?_ ?_)
    | with_reducible apply keepsOut_ite
    | with_reducible apply keepsOut_fault
    | (extract_lets -underBinder +onlyGivenNames xl; refine keeps_cut (F := F) (r := q0) (x := xl) (fun hx => ?_) ?_; (focus clear_value xl; rename' xl => y); rotate_left; (focus unfold xl; clear xl); rotate_left)
    | (extract_lets -underBinder +onlyGivenNames xl; clear_value xl; rename' xl => y)
    | with_reducible apply State.dropWorking_keeps
    | with_reducible apply State.endKeeper_keeps
    | with_reducible apply State.modKeeper_keeps
    | with_reducible apply State.setB_keeps
    | with_reducible apply State.set_keeps
    | split

theorem State.setTarget_keeps {F : Part → Prop} {q0 s : State} [Open F .regs] [Open F .keeper] (h : Keeps F q0 s) (t : Rat) : Keeps F q0 (State.setTarget s t) := by
  unfold State.setTarget
  repeat' first
    | with_reducible assumption
    | with_reducible apply keeps_ite
    | with_reducible apply State.modKeeper_keeps
    | with_reducible apply State.set_keeps
    | split

theorem execLeanVocMeasure_keeps {F : Part → Prop} {q0 s : State} [Open F .regs] [Open F .keeper] (h : Keeps F q0 s) (voc : BitVec 16) : KeepsOut F q0 (execLeanVocMeasure voc s) := by
  unfold execLeanVocMeasure
  repeat' first
    | with_reducible assumption
    | with_reducible apply keeps_ite
    | with_reducible apply keepsOut_next
    | (refine keepsOut_whileRuns ?_ ?_)
    | with_reducible apply keepsOut_ite
    | with_reducible apply keepsOut_fault
    | (extract_lets -underBinder +onlyGivenNames xl; refine keeps_cut (F := F) (r := q0) (x := xl) (fun hx => ?_) ?_; (focus clear_value xl; rename' xl => y); rotate_left; (focus unfold xl; clear xl); rotate_left)
    | (extract_lets -underBinder +onlyGivenNames xl; clear_value xl; rename' xl => y)
    | with_reducible apply State.setTarget_keeps
    | with_reducible apply State.set_keeps
    | split

theorem execRichMpptStep_keeps {F : Part → Prop} {q0 s : State} [Open F .regs] [Open F .keeper] (h : Keeps F q0 s) (charge : Nat) (voc : Option (BitVec 16)) : KeepsOut F q0 (execRichMpptStep charge voc s) := by
  unfold execRichMpptStep
  repeat' first
    | with_reducible assumption
    | with_reducible apply keeps_ite
    | with_reducible apply keepsOut_next
    | (refine keepsOut_whileRuns ?_ ?_)
    | with_reducible apply keepsOut_ite
    | with_reducible apply keepsOut_fault
    | (extract_lets -underBinder +onlyGivenNames xl; refine keeps_cut (F := F) (r := q0) (x := xl) (fun hx => ?_) ?_; (focus clear_value xl; rename' xl => y); rotate_left; (focus unfold xl; clear xl); rotate_left)
    | (extract_lets -underBinder +onlyGivenNames xl; clear_value xl; rename' xl => y)
    | with_reducible apply State.setTarget_keeps
    | with_reducible apply State.modKeeper_keeps
    | with_reducible apply State.set_keeps
    | split

theorem execHarvesterIdleCheck_keeps {F : Part → Prop} {q0 s : State} [Open F .regs] [Open F .keeper] (h : Keeps F q0 s) (present : Bool) : KeepsOut F q0 (execHarvesterIdleCheck present s) := by
  unfold execHarvesterIdleCheck
  repeat' first
    | with_reducible assumption
    | with_reducible apply keeps_ite
    | with_reducible apply keepsOut_next
    | (refine keepsOut_whileRuns ?_ ?_)
    | with_reducible apply keepsOut_ite
    | with_reducible apply keepsOut_fault
    | with_reducible apply State.refreshHarvest_keeps
    | with_reducible apply State.setB_keeps
    | split

theorem State.modCopies_keeps {F : Part → Prop} {q0 s : State} [Open F .keeper] (h : Keeps F q0 s) (r : Nat) (f : RegionCopies → RegionCopies) : Keeps F q0 (State.modCopies s r f) := by
  unfold State.modCopies
  repeat' first
    | with_reducible assumption
    | with_reducible apply keeps_ite
    | with_reducible apply State.modKeeper_keeps
    | split

theorem State.showDeferred_keeps {F : Part → Prop} {q0 s : State} [Open F .regs] (h : Keeps F q0 s) (c : Nat) (b : Bool) : Keeps F q0 (State.showDeferred s c b) := by
  unfold State.showDeferred
  repeat' first
    | with_reducible assumption
    | with_reducible apply keeps_ite
    | with_reducible apply State.setB_keeps
    | split

theorem State.deferBurst_keeps {F : Part → Prop} {q0 s : State} [Open F .regs] [Open F .life] [Open F .keeper] (h : Keeps F q0 s) (c : Nat) : Keeps F q0 (State.deferBurst s c) := by
  unfold State.deferBurst
  repeat' first
    | with_reducible assumption
    | with_reducible apply keeps_ite
    | (extract_lets -underBinder +onlyGivenNames xl; refine keeps_cut (F := F) (r := q0) (x := xl) (fun hx => ?_) ?_; (focus clear_value xl; rename' xl => y); rotate_left; (focus unfold xl; clear xl); rotate_left)
    | (extract_lets -underBinder +onlyGivenNames xl; clear_value xl; rename' xl => y)
    | with_reducible apply State.showDeferred_keeps
    | with_reducible apply State.modKeeper_keeps
    | with_reducible apply State.countEvent_keeps
    | with_reducible apply State.incSat_keeps
    | with_reducible apply State.set_keeps
    | split

theorem execBurstRequest_keeps {F : Part → Prop} {q0 s : State} [Open F .regs] [Open F .keeper] (h : Keeps F q0 s) (c : Fin 10) : KeepsOut F q0 (execBurstRequest c s) := by
  unfold execBurstRequest
  repeat' first
    | with_reducible assumption
    | with_reducible apply keeps_ite
    | with_reducible apply keepsOut_next
    | (refine keepsOut_whileRuns ?_ ?_)
    | with_reducible apply keepsOut_ite
    | with_reducible apply keepsOut_fault
    | with_reducible apply State.burstRequest_keeps
    | split

theorem State.takeWaiting_keeps {F : Part → Prop} {q0 s : State} [Open F .keeper] [Open F .safety] [Open F .dict] (h : Keeps F q0 s) (c : Nat) (regions : List Nat) : Keeps F q0 (State.takeWaiting s c regions) := by
  unfold State.takeWaiting
  repeat' first
    | with_reducible assumption
    | with_reducible apply keeps_ite
    | (extract_lets -underBinder +onlyGivenNames xl; refine keeps_cut (F := F) (r := q0) (x := xl) (fun hx => ?_) ?_; (focus clear_value xl; rename' xl => y); rotate_left; (focus unfold xl; clear xl); rotate_left)
    | (extract_lets -underBinder +onlyGivenNames xl; clear_value xl; rename' xl => y)
    | with_reducible apply State.modKeeper_keeps
    | with_reducible apply State.modDict_keeps
    | with_reducible apply State.modSafety_keeps
    | split

theorem State.takeContent_keeps {F : Part → Prop} {q0 s : State} [Open F .life] [Open F .meters] (h : Keeps F q0 s) (c : Nat) (meter : Nat) : Keeps F q0 (State.takeContent s c meter) := by
  unfold State.takeContent
  repeat' first
    | with_reducible assumption
    | with_reducible apply keeps_ite
    | with_reducible apply State.modLife_keeps
    | with_reducible apply State.modMeter_keeps
    | split

theorem State.startBurst_keeps {F : Part → Prop} {q0 s : State} [Open F .regs] [Open F .life] [Open F .keeper] [Open F .meters] [Open F .safety] [Open F .dict] (h : Keeps F q0 s) (c : Nat) : Keeps F q0 (State.startBurst s c) := by
  unfold State.startBurst
  repeat' first
    | (intro i t ht)
    | with_reducible assumption
    | with_reducible apply keeps_ite
    | (extract_lets -underBinder +onlyGivenNames xl; refine keeps_cut (F := F) (r := q0) (x := xl) (fun hx => ?_) ?_; (focus clear_value xl; rename' xl => y); rotate_left; (focus unfold xl; clear xl); rotate_left)
    | (extract_lets -underBinder +onlyGivenNames xl; clear_value xl; rename' xl => y)
    | with_reducible apply State.takeContent_keeps
    | with_reducible apply State.takeWaiting_keeps
    | with_reducible apply State.showDeferred_keeps
    | with_reducible apply State.modCopies_keeps
    | with_reducible apply State.modKeeper_keeps
    | with_reducible apply State.clrBits_keeps
    | with_reducible apply State.setB_keeps
    | with_reducible apply foldl_keeps
    | split

theorem execBurstStart_keeps {F : Part → Prop} {q0 s : State} [Open F .regs] [Open F .life] [Open F .keeper] [Open F .meters] [Open F .safety] [Open F .dict] (h : Keeps F q0 s)  : KeepsOut F q0 (execBurstStart s) := by
  unfold execBurstStart
  repeat' first
    | (intro i t ht)
    | with_reducible assumption
    | with_reducible apply keeps_ite
    | with_reducible apply keepsOut_next
    | (refine keepsOut_whileRuns ?_ ?_)
    | with_reducible apply keepsOut_ite
    | with_reducible apply keepsOut_fault
    | (extract_lets -underBinder +onlyGivenNames xl; refine keeps_cut (F := F) (r := q0) (x := xl) (fun hx => ?_) ?_; (focus clear_value xl; rename' xl => y); rotate_left; (focus unfold xl; clear xl); rotate_left)
    | (extract_lets -underBinder +onlyGivenNames xl; clear_value xl; rename' xl => y)
    | with_reducible apply State.startBurst_keeps
    | with_reducible apply State.deferBurst_keeps
    | with_reducible apply foldl_keeps
    | split

theorem State.burstOver_keeps {F : Part → Prop} {q0 s : State} [Open F .regs] [Open F .keeper] (h : Keeps F q0 s)  : Keeps F q0 (State.burstOver s) := by
  unfold State.burstOver
  repeat' first
    | with_reducible assumption
    | with_reducible apply keeps_ite
    | (extract_lets -underBinder +onlyGivenNames xl; refine keeps_cut (F := F) (r := q0) (x := xl) (fun hx => ?_) ?_; (focus clear_value xl; rename' xl => y); rotate_left; (focus unfold xl; clear xl); rotate_left)
    | (extract_lets -underBinder +onlyGivenNames xl; clear_value xl; rename' xl => y)
    | with_reducible apply State.modKeeper_keeps
    | with_reducible apply State.orBits_keeps
    | with_reducible apply State.setB_keeps
    | split

theorem State.wakeRequest_keeps {F : Part → Prop} {q0 s : State} [Open F .regs] (h : Keeps F q0 s)  : Keeps F q0 (State.wakeRequest s) := by
  unfold State.wakeRequest
  repeat' first
    | with_reducible assumption
    | with_reducible apply keeps_ite
    | with_reducible apply State.orBits_keeps
    | split

theorem execWakeRequest_keeps {F : Part → Prop} {q0 s : State} [Open F .regs] (h : Keeps F q0 s) (d : Fin 4) (i : Fin 16) : KeepsOut F q0 (execWakeRequest d i s) := by
  unfold execWakeRequest
  repeat' first
    | with_reducible assumption
    | with_reducible apply keeps_ite
    | with_reducible apply keepsOut_next
    | (refine keepsOut_whileRuns ?_ ?_)
    | with_reducible apply keepsOut_ite
    | with_reducible apply keepsOut_fault
    | with_reducible apply State.wakeRequest_keeps
    | split

theorem execWakeAlarm_keeps {F : Part → Prop} {q0 s : State} [Open F .regs] (h : Keeps F q0 s)  : KeepsOut F q0 (execWakeAlarm s) := by
  unfold execWakeAlarm
  repeat' first
    | with_reducible assumption
    | with_reducible apply keeps_ite
    | with_reducible apply keepsOut_next
    | (refine keepsOut_whileRuns ?_ ?_)
    | with_reducible apply keepsOut_ite
    | with_reducible apply keepsOut_fault
    | (extract_lets -underBinder +onlyGivenNames xl; refine keeps_cut (F := F) (r := q0) (x := xl) (fun hx => ?_) ?_; (focus clear_value xl; rename' xl => y); rotate_left; (focus unfold xl; clear xl); rotate_left)
    | (extract_lets -underBinder +onlyGivenNames xl; clear_value xl; rename' xl => y)
    | with_reducible apply State.wakeRequest_keeps
    | with_reducible apply State.setReg_keeps
    | split

theorem execWakePulseEnd_keeps {F : Part → Prop} {q0 s : State} [Open F .regs] [Open F .keeper] (h : Keeps F q0 s)  : KeepsOut F q0 (execWakePulseEnd s) := by
  unfold execWakePulseEnd
  repeat' first
    | with_reducible assumption
    | with_reducible apply keeps_ite
    | with_reducible apply keepsOut_next
    | (refine keepsOut_whileRuns ?_ ?_)
    | with_reducible apply keepsOut_ite
    | with_reducible apply keepsOut_fault
    | with_reducible apply State.burstOver_keeps
    | with_reducible apply State.modKeeper_keeps
    | split

theorem State.addTemp_keeps {F : Part → Prop} {q0 s : State} [Open F .life] (h : Keeps F q0 s) (h : Nat) (milli : Int) (secs : Nat) : Keeps F q0 (State.addTemp s h milli secs) := by
  unfold State.addTemp
  repeat' first
    | with_reducible assumption
    | with_reducible apply keeps_ite
    | with_reducible apply State.modLife_keeps
    | split

theorem execRtcSecond_keeps {F : Part → Prop} {q0 s : State} [Open F .regs] [Open F .life] [Open F .sys] (h : Keeps F q0 s) (temps : List Int) : KeepsOut F q0 (execRtcSecond temps s) := by
  unfold execRtcSecond
  repeat' first
    | (intro i t ht)
    | with_reducible assumption
    | with_reducible apply keeps_ite
    | with_reducible apply keepsOut_next
    | (refine keepsOut_whileRuns ?_ ?_)
    | with_reducible apply keepsOut_ite
    | with_reducible apply keepsOut_fault
    | (extract_lets -underBinder +onlyGivenNames xl; refine keeps_cut (F := F) (r := q0) (x := xl) (fun hx => ?_) ?_; (focus clear_value xl; rename' xl => y); rotate_left; (focus unfold xl; clear xl); rotate_left)
    | (extract_lets -underBinder +onlyGivenNames xl; clear_value xl; rename' xl => y)
    | with_reducible apply State.addTemp_keeps
    | with_reducible apply State.modLife_keeps
    | with_reducible apply State.setB_keeps
    | with_reducible apply State.set_keeps
    | with_reducible apply foldOver_keeps
    | with_reducible apply State.setReg_keeps
    | with_reducible apply foldl_keeps
    | split
    | refine Keeps.sys ?_ _

theorem execDclHistSecond_keeps {F : Part → Prop} {q0 s : State} [Open F .regs] [Open F .life] (h : Keeps F q0 s) (res : Option (BitVec 32)) : KeepsOut F q0 (execDclHistSecond res s) := by
  unfold execDclHistSecond
  repeat' first
    | with_reducible assumption
    | with_reducible apply keeps_ite
    | with_reducible apply keepsOut_next
    | (refine keepsOut_whileRuns ?_ ?_)
    | with_reducible apply keepsOut_ite
    | with_reducible apply keepsOut_fault
    | (extract_lets -underBinder +onlyGivenNames xl; refine keeps_cut (F := F) (r := q0) (x := xl) (fun hx => ?_) ?_; (focus clear_value xl; rename' xl => y); rotate_left; (focus unfold xl; clear xl); rotate_left)
    | (extract_lets -underBinder +onlyGivenNames xl; clear_value xl; rename' xl => y)
    | with_reducible apply State.modLife_keeps
    | with_reducible apply State.incSat_keeps
    | split

theorem State.subtract8_keeps {F : Part → Prop} {q0 s : State} [Open F .ports] [Open F .life] (h : Keeps F q0 s) (i : LifeInc) : Keeps F q0 (State.subtract8 s i) := by
  unfold State.subtract8
  repeat' first
    | (intro i t ht)
    | with_reducible assumption
    | with_reducible apply keeps_ite
    | (extract_lets -underBinder +onlyGivenNames xl; refine keeps_cut (F := F) (r := q0) (x := xl) (fun hx => ?_) ?_; (focus clear_value xl; rename' xl => y); rotate_left; (focus unfold xl; clear xl); rotate_left)
    | (extract_lets -underBinder +onlyGivenNames xl; clear_value xl; rename' xl => y)
    | with_reducible apply State.modLife_keeps
    | with_reducible apply foldl_keeps
    | split
    | refine Keeps.ports ?_ _

theorem State.subtract9_keeps {F : Part → Prop} {q0 s : State} [Open F .life] [Open F .cycles] (h : Keeps F q0 s) (i : LifeInc) : Keeps F q0 (State.subtract9 s i) := by
  unfold State.subtract9
  repeat' first
    | (intro i t ht)
    | with_reducible assumption
    | with_reducible apply keeps_ite
    | (extract_lets -underBinder +onlyGivenNames xl; refine keeps_cut (F := F) (r := q0) (x := xl) (fun hx => ?_) ?_; (focus clear_value xl; rename' xl => y); rotate_left; (focus unfold xl; clear xl); rotate_left)
    | (extract_lets -underBinder +onlyGivenNames xl; clear_value xl; rename' xl => y)
    | with_reducible apply State.modLife_keeps
    | with_reducible apply foldl_keeps
    | split
    | refine Keeps.cycles ?_ _

theorem State.reportMerge_keeps {F : Part → Prop} {q0 s : State} [Open F .regs] [Open F .ports] [Open F .life] [Open F .cycles] (h : Keeps F q0 s)  : Keeps F q0 (State.reportMerge s) := by
  unfold State.reportMerge
  repeat' first
    | with_reducible assumption
    | with_reducible apply keeps_ite
    | (extract_lets -underBinder +onlyGivenNames xl; refine keeps_cut (F := F) (r := q0) (x := xl) (fun hx => ?_) ?_; (focus clear_value xl; rename' xl => y); rotate_left; (focus unfold xl; clear xl); rotate_left)
    | (extract_lets -underBinder +onlyGivenNames xl; clear_value xl; rename' xl => y)
    | with_reducible apply State.subtract9_keeps
    | with_reducible apply State.subtract8_keeps
    | with_reducible apply State.modLife_keeps
    | with_reducible apply State.incMod_keeps
    | split

theorem State.startMerge_keeps {F : Part → Prop} {q0 s : State} [Open F .regs] [Open F .ports] [Open F .life] [Open F .keeper] [Open F .cycles] (h : Keeps F q0 s)  : Keeps F q0 (State.startMerge s) := by
  unfold State.startMerge
  repeat' first
    | with_reducible assumption
    | with_reducible apply keeps_ite
    | (extract_lets -underBinder +onlyGivenNames xl; refine keeps_cut (F := F) (r := q0) (x := xl) (fun hx => ?_) ?_; (focus clear_value xl; rename' xl => y); rotate_left; (focus unfold xl; clear xl); rotate_left)
    | (extract_lets -underBinder +onlyGivenNames xl; clear_value xl; rename' xl => y)
    | with_reducible apply State.reportMerge_keeps
    | with_reducible apply State.modLife_keeps
    | with_reducible apply State.burstRequest_keeps
    | split

theorem execLifetimeMerge_keeps {F : Part → Prop} {q0 s : State} [Open F .regs] [Open F .ports] [Open F .life] [Open F .keeper] [Open F .cycles] (h : Keeps F q0 s)  : KeepsOut F q0 (execLifetimeMerge s) := by
  unfold execLifetimeMerge
  repeat' first
    | with_reducible assumption
    | with_reducible apply keeps_ite
    | with_reducible apply keepsOut_next
    | (refine keepsOut_whileRuns ?_ ?_)
    | with_reducible apply keepsOut_ite
    | with_reducible apply keepsOut_fault
    | with_reducible apply State.startMerge_keeps
    | split

theorem execParkedMerge_keeps {F : Part → Prop} {q0 s : State} [Open F .regs] [Open F .life] [Open F .keeper] (h : Keeps F q0 s)  : KeepsOut F q0 (execParkedMerge s) := by
  unfold execParkedMerge
  repeat' first
    | with_reducible assumption
    | with_reducible apply keeps_ite
    | with_reducible apply keepsOut_next
    | (refine keepsOut_whileRuns ?_ ?_)
    | with_reducible apply keepsOut_ite
    | with_reducible apply keepsOut_fault
    | with_reducible apply State.modLife_keeps
    | with_reducible apply State.burstRequest_keeps
    | split

theorem execMergeCommitReport_keeps {F : Part → Prop} {q0 s : State} [Open F .regs] [Open F .ports] [Open F .life] [Open F .cycles] (h : Keeps F q0 s)  : KeepsOut F q0 (execMergeCommitReport s) := by
  unfold execMergeCommitReport
  repeat' first
    | with_reducible assumption
    | with_reducible apply keeps_ite
    | with_reducible apply keepsOut_next
    | (refine keepsOut_whileRuns ?_ ?_)
    | with_reducible apply keepsOut_ite
    | with_reducible apply keepsOut_fault
    | with_reducible apply State.reportMerge_keeps
    | split

end Sys2Proof.Machine
end

