-- ==== Sys2Proof/Laws/KeepsClocks.lean ====
section
/-! SUPPORT.  What the operations of Machine/Clocks.lean keep. -/

set_option linter.unusedTactic false
set_option linter.unreachableTactic false
set_option linter.unusedVariables false
set_option linter.unnecessarySeqFocus false

namespace Sys2Proof.Machine

theorem State.modPll_keeps {F : Part → Prop} {q0 s : State} [Open F .plls] (h : Keeps F q0 s) (e : Die) (f : Pll → Pll) : Keeps F q0 (State.modPll s e f) := by
  unfold State.modPll
  repeat' first
    | with_reducible assumption
    | with_reducible apply keeps_ite
    | split
    | refine Keeps.plls ?_ _

theorem State.writeBands_keeps {F : Part → Prop} {q0 s : State} [Open F .regs] (h : Keeps F q0 s) (e : Die) (slots : List Nat) (band : Nat) (tj : Int) : Keeps F q0 (State.writeBands s e slots band tj) := by
  unfold State.writeBands
  repeat' first
    | (intro i t ht)
    | with_reducible assumption
    | with_reducible apply keeps_ite
    | with_reducible apply State.setReg_keeps
    | with_reducible apply foldl_keeps
    | split

theorem State.bandSearch_keeps {F : Part → Prop} {q0 s : State} [Open F .regs] (h : Keeps F q0 s) (e : Die) (band : Nat) (tj : Int) (covers : Bool) : Keeps F q0 (State.bandSearch s e band tj covers) := by
  unfold State.bandSearch
  repeat' first
    | with_reducible assumption
    | with_reducible apply keeps_ite
    | (extract_lets -underBinder +onlyGivenNames xl; refine keeps_cut (F := F) (r := q0) (x := xl) (fun hx => ?_) ?_; (focus clear_value xl; rename' xl => y); rotate_left; (focus unfold xl; clear xl); rotate_left)
    | (extract_lets -underBinder +onlyGivenNames xl; clear_value xl; rename' xl => y)
    | with_reducible apply State.writeBands_keeps
    | with_reducible apply State.setB_keeps
    | with_reducible apply State.set_keeps
    | split

theorem State.commitBands_keeps {F : Part → Prop} {q0 s : State} [Open F .regs] [Open F .sys] [Open F .keeper] (h : Keeps F q0 s)  : Keeps F q0 (State.commitBands s) := by
  unfold State.commitBands
  repeat' first
    | with_reducible assumption
    | with_reducible apply keeps_ite
    | (extract_lets -underBinder +onlyGivenNames xl; refine keeps_cut (F := F) (r := q0) (x := xl) (fun hx => ?_) ?_; (focus clear_value xl; rename' xl => y); rotate_left; (focus unfold xl; clear xl); rotate_left)
    | (extract_lets -underBinder +onlyGivenNames xl; clear_value xl; rename' xl => y)
    | with_reducible apply State.modSys_keeps
    | split

theorem execBandSearchComplete_keeps {F : Part → Prop} {q0 s : State} [Open F .regs] (h : Keeps F q0 s) (e : Die) (band : BitVec 6) (tj : Int) (covers : Bool) : KeepsOut F q0 (execBandSearchComplete e band tj covers s) := by
  unfold execBandSearchComplete
  repeat' first
    | with_reducible assumption
    | with_reducible apply keeps_ite
    | with_reducible apply keepsOut_next
    | (refine keepsOut_whileRuns ?_ ?_)
    | with_reducible apply keepsOut_ite
    | with_reducible apply keepsOut_fault
    | with_reducible apply State.bandSearch_keeps
    | split

theorem State.pllLock_keeps {F : Part → Prop} {q0 s : State} [Open F .regs] (h : Keeps F q0 s) (e : Die) (hot : Bool) : Keeps F q0 (State.pllLock s e hot) := by
  unfold State.pllLock
  repeat' first
    | with_reducible assumption
    | with_reducible apply keeps_ite
    | (extract_lets -underBinder +onlyGivenNames xl; refine keeps_cut (F := F) (r := q0) (x := xl) (fun hx => ?_) ?_; (focus clear_value xl; rename' xl => y); rotate_left; (focus unfold xl; clear xl); rotate_left)
    | (extract_lets -underBinder +onlyGivenNames xl; clear_value xl; rename' xl => y)
    | with_reducible apply State.refreshHopNext_keeps
    | with_reducible apply State.runAtSlot0_keeps
    | with_reducible apply State.setB_keeps
    | with_reducible apply State.set_keeps
    | split

theorem execPllLock_keeps {F : Part → Prop} {q0 s : State} [Open F .regs] (h : Keeps F q0 s) (e : Die) (hot : Bool) : KeepsOut F q0 (execPllLock e hot s) := by
  unfold execPllLock
  repeat' first
    | with_reducible assumption
    | with_reducible apply keeps_ite
    | with_reducible apply keepsOut_next
    | (refine keepsOut_whileRuns ?_ ?_)
    | with_reducible apply keepsOut_ite
    | with_reducible apply keepsOut_fault
    | with_reducible apply State.pllLock_keeps
    | split

theorem execPllLossOfLock_keeps {F : Part → Prop} {q0 s : State} [Open F .regs] [Open F .out] (h : Keeps F q0 s) (e : Die) : KeepsOut F q0 (execPllLossOfLock e s) := by
  unfold execPllLossOfLock
  repeat' first
    | with_reducible assumption
    | with_reducible apply keeps_ite
    | with_reducible apply keepsOut_next
    | (refine keepsOut_whileRuns ?_ ?_)
    | with_reducible apply keepsOut_ite
    | with_reducible apply keepsOut_fault
    | (extract_lets -underBinder +onlyGivenNames xl; refine keeps_cut (F := F) (r := q0) (x := xl) (fun hx => ?_) ?_; (focus clear_value xl; rename' xl => y); rotate_left; (focus unfold xl; clear xl); rotate_left)
    | (extract_lets -underBinder +onlyGivenNames xl; clear_value xl; rename' xl => y)
    | with_reducible apply State.event_keeps
    | with_reducible apply State.incSat_keeps
    | with_reducible apply State.setB_keeps
    | split

theorem execPllHoldover_keeps {F : Part → Prop} {q0 s : State} [Open F .regs] (h : Keeps F q0 s) (e : Die) : KeepsOut F q0 (execPllHoldover e s) := by
  unfold execPllHoldover
  repeat' first
    | with_reducible assumption
    | with_reducible apply keeps_ite
    | with_reducible apply keepsOut_next
    | (refine keepsOut_whileRuns ?_ ?_)
    | with_reducible apply keepsOut_ite
    | with_reducible apply keepsOut_fault
    | with_reducible apply State.setB_keeps
    | split

theorem State.hopStart_keeps {F : Part → Prop} {q0 s : State} [Open F .regs] [Open F .hops] (h : Keeps F q0 s) (d : Nat) : Keeps F q0 (State.hopStart s d) := by
  unfold State.hopStart
  repeat' first
    | with_reducible assumption
    | with_reducible apply keeps_ite
    | (extract_lets -underBinder +onlyGivenNames xl; refine keeps_cut (F := F) (r := q0) (x := xl) (fun hx => ?_) ?_; (focus clear_value xl; rename' xl => y); rotate_left; (focus unfold xl; clear xl); rotate_left)
    | (extract_lets -underBinder +onlyGivenNames xl; clear_value xl; rename' xl => y)
    | with_reducible apply State.refreshHopNext_keeps
    | with_reducible apply State.modHop_keeps
    | with_reducible apply State.setB_keeps
    | split

theorem State.hopStop_keeps {F : Part → Prop} {q0 s : State} [Open F .regs] [Open F .plls] [Open F .hops] (h : Keeps F q0 s) (d : Nat) : Keeps F q0 (State.hopStop s d) := by
  unfold State.hopStop
  repeat' first
    | with_reducible assumption
    | with_reducible apply keeps_ite
    | (extract_lets -underBinder +onlyGivenNames xl; refine keeps_cut (F := F) (r := q0) (x := xl) (fun hx => ?_) ?_; (focus clear_value xl; rename' xl => y); rotate_left; (focus unfold xl; clear xl); rotate_left)
    | (extract_lets -underBinder +onlyGivenNames xl; clear_value xl; rename' xl => y)
    | with_reducible apply State.refreshHopNext_keeps
    | with_reducible apply State.modHop_keeps
    | with_reducible apply State.hopReturn_keeps
    | split

theorem State.hopCfgApply_keeps {F : Part → Prop} {q0 s : State} [Open F .regs] [Open F .plls] [Open F .hops] (h : Keeps F q0 s) (d : Nat) (w : Word) : Keeps F q0 (State.hopCfgApply s d w) := by
  unfold State.hopCfgApply
  repeat' first
    | with_reducible assumption
    | with_reducible apply keeps_ite
    | (extract_lets -underBinder +onlyGivenNames xl; refine keeps_cut (F := F) (r := q0) (x := xl) (fun hx => ?_) ?_; (focus clear_value xl; rename' xl => y); rotate_left; (focus unfold xl; clear xl); rotate_left)
    | (extract_lets -underBinder +onlyGivenNames xl; clear_value xl; rename' xl => y)
    | with_reducible apply State.hopStop_keeps
    | with_reducible apply State.hopStart_keeps
    | with_reducible apply State.setReg_keeps
    | split

theorem State.slotApply_keeps {F : Part → Prop} {q0 s : State} [Open F .regs] (h : Keeps F q0 s) (d : Nat) (k : Nat) (w : Word) : Keeps F q0 (State.slotApply s d k w) := by
  unfold State.slotApply
  repeat' first
    | with_reducible assumption
    | with_reducible apply keeps_ite
    | (extract_lets -underBinder +onlyGivenNames xl; refine keeps_cut (F := F) (r := q0) (x := xl) (fun hx => ?_) ?_; (focus clear_value xl; rename' xl => y); rotate_left; (focus unfold xl; clear xl); rotate_left)
    | (extract_lets -underBinder +onlyGivenNames xl; clear_value xl; rename' xl => y)
    | with_reducible apply State.refreshHopNext_keeps
    | with_reducible apply State.runAtSlot0_keeps
    | with_reducible apply State.setReg_keeps
    | split

theorem State.runAtSlot_keeps {F : Part → Prop} {q0 s : State} [Open F .regs] (h : Keeps F q0 s) (d : Nat) : Keeps F q0 (State.runAtSlot s d) := by
  unfold State.runAtSlot
  repeat' first
    | with_reducible assumption
    | with_reducible apply keeps_ite
    | (extract_lets -underBinder +onlyGivenNames xl; refine keeps_cut (F := F) (r := q0) (x := xl) (fun hx => ?_) ?_; (focus clear_value xl; rename' xl => y); rotate_left; (focus unfold xl; clear xl); rotate_left)
    | (extract_lets -underBinder +onlyGivenNames xl; clear_value xl; rename' xl => y)
    | with_reducible apply State.setB_keeps
    | with_reducible apply State.set_keeps
    | split

theorem execHopBoundary_keeps {F : Part → Prop} {q0 s : State} [Open F .regs] [Open F .plls] [Open F .hops] [Open F .groups] (h : Keeps F q0 s) (d : Fin 4) : KeepsOut F q0 (execHopBoundary d s) := by
  unfold execHopBoundary
  repeat' first
    | with_reducible assumption
    | with_reducible apply keeps_ite
    | with_reducible apply keepsOut_next
    | (refine keepsOut_whileRuns ?_ ?_)
    | with_reducible apply keepsOut_ite
    | with_reducible apply keepsOut_fault
    | (extract_lets -underBinder +onlyGivenNames xl; refine keeps_cut (F := F) (r := q0) (x := xl) (fun hx => ?_) ?_; (focus clear_value xl; rename' xl => y); rotate_left; (focus unfold xl; clear xl); rotate_left)
    | (extract_lets -underBinder +onlyGivenNames xl; clear_value xl; rename' xl => y)
    | with_reducible apply State.runAtSlot_keeps
    | with_reducible apply State.modPll_keeps
    | with_reducible apply State.refreshHopNext_keeps
    | with_reducible apply State.modHop_keeps
    | with_reducible apply State.modGrp_keeps
    | split

theorem execHopSettleEnd_keeps {F : Part → Prop} {q0 s : State} [Open F .plls] (h : Keeps F q0 s) (e : Die) : KeepsOut F q0 (execHopSettleEnd e s) := by
  unfold execHopSettleEnd
  repeat' first
    | with_reducible assumption
    | with_reducible apply keeps_ite
    | with_reducible apply keepsOut_next
    | (refine keepsOut_whileRuns ?_ ?_)
    | with_reducible apply keepsOut_ite
    | with_reducible apply keepsOut_fault
    | with_reducible apply State.modPll_keeps
    | split

theorem State.monitorReact_keeps {F : Part → Prop} {q0 s : State} [Open F .regs] [Open F .out] [Open F .ports] [Open F .tgs] [Open F .drives] [Open F .life] [Open F .sys] [Open F .keeper] [Open F .arb] [Open F .safety] (h : Keeps F q0 s) (k : Nat) (was : Bool) : Keeps F q0 (State.monitorReact s k was) := by
  unfold State.monitorReact
  repeat' first
    | with_reducible assumption
    | with_reducible apply keeps_ite
    | (extract_lets -underBinder +onlyGivenNames xl; refine keeps_cut (F := F) (r := q0) (x := xl) (fun hx => ?_) ?_; (focus clear_value xl; rename' xl => y); rotate_left; (focus unfold xl; clear xl); rotate_left)
    | (extract_lets -underBinder +onlyGivenNames xl; clear_value xl; rename' xl => y)
    | with_reducible apply State.evaluateBoth_keeps
    | with_reducible apply State.lock_keeps
    | with_reducible apply State.safetyFault_keeps
    | with_reducible apply State.modSafety_keeps
    | with_reducible apply State.heartbeatLost_keeps
    | with_reducible apply State.guardStop_keeps
    | with_reducible apply State.guardStart_keeps
    | with_reducible apply State.setBit_keeps
    | with_reducible apply State.setB_keeps
    | split

theorem execCkmonLoss_keeps {F : Part → Prop} {q0 s : State} [Open F .regs] [Open F .out] [Open F .ports] [Open F .tgs] [Open F .drives] [Open F .life] [Open F .sys] [Open F .keeper] [Open F .arb] [Open F .safety] (h : Keeps F q0 s) (k : Fin 10) : KeepsOut F q0 (execCkmonLoss k s) := by
  unfold execCkmonLoss
  repeat' first
    | with_reducible assumption
    | with_reducible apply keeps_ite
    | with_reducible apply keepsOut_next
    | (refine keepsOut_whileRuns ?_ ?_)
    | with_reducible apply keepsOut_ite
    | with_reducible apply keepsOut_fault
    | (extract_lets -underBinder +onlyGivenNames xl; refine keeps_cut (F := F) (r := q0) (x := xl) (fun hx => ?_) ?_; (focus clear_value xl; rename' xl => y); rotate_left; (focus unfold xl; clear xl); rotate_left)
    | (extract_lets -underBinder +onlyGivenNames xl; clear_value xl; rename' xl => y)
    | with_reducible apply State.monitorReact_keeps
    | with_reducible apply State.setB_keeps
    | split

theorem State.monitorWindow_keeps {F : Part → Prop} {q0 s : State} [Open F .regs] [Open F .out] [Open F .ports] [Open F .tgs] [Open F .drives] [Open F .life] [Open F .sys] [Open F .keeper] [Open F .arb] [Open F .safety] (h : Keeps F q0 s) (k : Nat) (meas : Nat) (full : Bool) : Keeps F q0 (State.monitorWindow s k meas full) := by
  unfold State.monitorWindow
  repeat' first
    | with_reducible assumption
    | with_reducible apply keeps_ite
    | (extract_lets -underBinder +onlyGivenNames xl; refine keeps_cut (F := F) (r := q0) (x := xl) (fun hx => ?_) ?_; (focus clear_value xl; rename' xl => y); rotate_left; (focus unfold xl; clear xl); rotate_left)
    | (extract_lets -underBinder +onlyGivenNames xl; clear_value xl; rename' xl => y)
    | with_reducible apply State.monitorReact_keeps
    | with_reducible apply State.setB_keeps
    | with_reducible apply State.set_keeps
    | split

theorem execCkmonWindowEnd_keeps {F : Part → Prop} {q0 s : State} [Open F .regs] [Open F .out] [Open F .ports] [Open F .tgs] [Open F .drives] [Open F .life] [Open F .sys] [Open F .keeper] [Open F .arb] [Open F .safety] (h : Keeps F q0 s) (meas : Vector (BitVec 16 × Bool) 10) : KeepsOut F q0 (execCkmonWindowEnd meas s) := by
  unfold execCkmonWindowEnd
  repeat' first
    | (intro i t ht)
    | with_reducible assumption
    | with_reducible apply keeps_ite
    | with_reducible apply keepsOut_next
    | (refine keepsOut_whileRuns ?_ ?_)
    | with_reducible apply keepsOut_ite
    | with_reducible apply keepsOut_fault
    | with_reducible apply State.monitorWindow_keeps
    | with_reducible apply foldOver_keeps
    | split

theorem execRtcTrim_keeps {F : Part → Prop} {q0 s : State} [Open F .regs] (h : Keeps F q0 s)  : KeepsOut F q0 (execRtcTrim s) := by
  unfold execRtcTrim
  repeat' first
    | with_reducible assumption
    | with_reducible apply keeps_ite
    | with_reducible apply keepsOut_next
    | (refine keepsOut_whileRuns ?_ ?_)
    | with_reducible apply keepsOut_ite
    | with_reducible apply keepsOut_fault
    | (extract_lets -underBinder +onlyGivenNames xl; refine keeps_cut (F := F) (r := q0) (x := xl) (fun hx => ?_) ?_; (focus clear_value xl; rename' xl => y); rotate_left; (focus unfold xl; clear xl); rotate_left)
    | (extract_lets -underBinder +onlyGivenNames xl; clear_value xl; rename' xl => y)
    | with_reducible apply State.set_keeps
    | split

theorem execRtcXtalFail_keeps {F : Part → Prop} {q0 s : State} [Open F .regs] (h : Keeps F q0 s)  : KeepsOut F q0 (execRtcXtalFail s) := by
  unfold execRtcXtalFail
  repeat' first
    | with_reducible assumption
    | with_reducible apply keeps_ite
    | with_reducible apply keepsOut_next
    | (refine keepsOut_whileRuns ?_ ?_)
    | with_reducible apply keepsOut_ite
    | with_reducible apply keepsOut_fault
    | with_reducible apply State.setB_keeps
    | split

theorem execRtcSync_keeps {F : Part → Prop} {q0 s : State} [Open F .net] (h : Keeps F q0 s)  : KeepsOut F q0 (execRtcSync s) := by
  unfold execRtcSync
  repeat' first
    | with_reducible assumption
    | with_reducible apply keeps_ite
    | with_reducible apply keepsOut_next
    | (refine keepsOut_whileRuns ?_ ?_)
    | with_reducible apply keepsOut_ite
    | with_reducible apply keepsOut_fault
    | with_reducible apply State.modNet_keeps
    | split

theorem execRtcSyncApply_keeps {F : Part → Prop} {q0 s : State} [Open F .regs] [Open F .net] (h : Keeps F q0 s) (sec : Nat) : KeepsOut F q0 (execRtcSyncApply sec s) := by
  unfold execRtcSyncApply
  repeat' first
    | with_reducible assumption
    | with_reducible apply keeps_ite
    | with_reducible apply keepsOut_next
    | (refine keepsOut_whileRuns ?_ ?_)
    | with_reducible apply keepsOut_ite
    | with_reducible apply keepsOut_fault
    | (extract_lets -underBinder +onlyGivenNames xl; refine keeps_cut (F := F) (r := q0) (x := xl) (fun hx => ?_) ?_; (focus clear_value xl; rename' xl => y); rotate_left; (focus unfold xl; clear xl); rotate_left)
    | (extract_lets -underBinder +onlyGivenNames xl; clear_value xl; rename' xl => y)
    | with_reducible apply State.modNet_keeps
    | with_reducible apply State.set_keeps
    | split

end Sys2Proof.Machine
end

