-- ==== Sys2Proof/Laws/KeepsLinks.lean ====
section
/-! SUPPORT.  What the operations of Machine/Links.lean keep. -/

set_option linter.unusedTactic false
set_option linter.unreachableTactic false
set_option linter.unusedVariables false
set_option linter.unnecessarySeqFocus false

namespace Sys2Proof.Machine

theorem State.modLink_keeps {F : Part → Prop} {q0 s : State} [Open F .linkEnds] (h : Keeps F q0 s) (e : Die) (k : Nat) (f : LinkEnd → LinkEnd) : Keeps F q0 (State.modLink s e k f) := by
  unfold State.modLink
  repeat' first
    | with_reducible assumption
    | with_reducible apply keeps_ite
    | split
    | refine Keeps.linkEnds ?_ _

theorem State.refreshLink_keeps {F : Part → Prop} {q0 s : State} [Open F .regs] (h : Keeps F q0 s) (e : Die) (k : Nat) : Keeps F q0 (State.refreshLink s e k) := by
  unfold State.refreshLink
  repeat' first
    | with_reducible assumption
    | with_reducible apply keeps_ite
    | with_reducible apply State.setB_keeps
    | split

theorem State.setLane_keeps {F : Part → Prop} {q0 s : State} [Open F .regs] (h : Keeps F q0 s) (e : Die) (k : Nat) (f : Die) (q : Nat) (lane : Nat) (up : Bool) : Keeps F q0 (State.setLane s e k f q lane up) := by
  unfold State.setLane
  repeat' first
    | with_reducible assumption
    | with_reducible apply keeps_ite
    | (extract_lets -underBinder +onlyGivenNames xl; refine keeps_cut (F := F) (r := q0) (x := xl) (fun hx => ?_) ?_; (focus clear_value xl; rename' xl => y); rotate_left; (focus unfold xl; clear xl); rotate_left)
    | (extract_lets -underBinder +onlyGivenNames xl; clear_value xl; rename' xl => y)
    | with_reducible apply State.refreshLink_keeps
    | with_reducible apply State.setBit_keeps
    | split

theorem State.resend_keeps {F : Part → Prop} {q0 s : State} [Open F .out] [Open F .linkEnds] (h : Keeps F q0 s) (e : Die) (k : Nat) (f : Die) (flit : Option (BitVec 72)) : Keeps F q0 (State.resend s e k f flit) := by
  unfold State.resend
  repeat' first
    | with_reducible assumption
    | with_reducible apply keeps_ite
    | with_reducible apply State.modLink_keeps
    | with_reducible apply State.send_keeps
    | split

theorem State.linkLost_keeps {F : Part → Prop} {q0 s : State} [Open F .regs] [Open F .crcs] [Open F .safety] (h : Keeps F q0 s) (e : Die) (k : Nat) (f : Die) : Keeps F q0 (State.linkLost s e k f) := by
  unfold State.linkLost
  repeat' first
    | (intro i t ht)
    | with_reducible assumption
    | with_reducible apply keeps_ite
    | (extract_lets -underBinder +onlyGivenNames xl; refine keeps_cut (F := F) (r := q0) (x := xl) (fun hx => ?_) ?_; (focus clear_value xl; rename' xl => y); rotate_left; (focus unfold xl; clear xl); rotate_left)
    | (extract_lets -underBinder +onlyGivenNames xl; clear_value xl; rename' xl => y)
    | with_reducible apply State.failAllPi_keeps
    | with_reducible apply State.scanFail_keeps
    | with_reducible apply foldOver_keeps
    | split

theorem State.laneRetire_keeps {F : Part → Prop} {q0 s : State} [Open F .regs] [Open F .out] [Open F .linkEnds] [Open F .life] [Open F .keeper] [Open F .crcs] [Open F .safety] (h : Keeps F q0 s) (e : Die) (k : Nat) (lane : Nat) (f : Die) (q : Nat) (cut : Option (BitVec 72)) : Keeps F q0 (State.laneRetire s e k lane f q cut) := by
  unfold State.laneRetire
  repeat' first
    | with_reducible assumption
    | with_reducible apply keeps_ite
    | (extract_lets -underBinder +onlyGivenNames xl; refine keeps_cut (F := F) (r := q0) (x := xl) (fun hx => ?_) ?_; (focus clear_value xl; rename' xl => y); rotate_left; (focus unfold xl; clear xl); rotate_left)
    | (extract_lets -underBinder +onlyGivenNames xl; clear_value xl; rename' xl => y)
    | with_reducible apply State.linkLost_keeps
    | with_reducible apply State.resend_keeps
    | with_reducible apply State.setLane_keeps
    | with_reducible apply State.recordRetire_keeps
    | with_reducible apply State.incSat_keeps
    | split

theorem State.laneFault_keeps {F : Part → Prop} {q0 s : State} [Open F .regs] [Open F .out] [Open F .linkEnds] [Open F .life] [Open F .keeper] [Open F .crcs] [Open F .safety] (h : Keeps F q0 s) (e : Die) (k : Nat) (lane : Nat) (flag : RF) (cut : Option (BitVec 72)) : KeepsOut F q0 (State.laneFault s e k lane flag cut) := by
  unfold State.laneFault
  repeat' first
    | with_reducible assumption
    | with_reducible apply keeps_ite
    | with_reducible apply keepsOut_next
    | (refine keepsOut_whileRuns ?_ ?_)
    | with_reducible apply keepsOut_ite
    | with_reducible apply keepsOut_fault
    | with_reducible apply State.laneRetire_keeps
    | with_reducible apply State.setB_keeps
    | split

theorem execLaneCodeError_keeps {F : Part → Prop} {q0 s : State} [Open F .regs] [Open F .out] [Open F .linkEnds] [Open F .life] [Open F .keeper] [Open F .crcs] [Open F .safety] (h : Keeps F q0 s) (e : Die) (k : Fin 7) (lane : Fin 4) (cut : Option (BitVec 72)) : KeepsOut F q0 (execLaneCodeError e k lane cut s) := by
  unfold execLaneCodeError
  repeat' first
    | with_reducible assumption
    | with_reducible apply keeps_ite
    | with_reducible apply keepsOut_next
    | (refine keepsOut_whileRuns ?_ ?_)
    | with_reducible apply keepsOut_ite
    | with_reducible apply keepsOut_fault
    | with_reducible apply State.laneFault_keeps
    | split

theorem execLaneTimeout_keeps {F : Part → Prop} {q0 s : State} [Open F .regs] [Open F .out] [Open F .linkEnds] [Open F .life] [Open F .keeper] [Open F .crcs] [Open F .safety] (h : Keeps F q0 s) (e : Die) (k : Fin 7) (lane : Fin 4) (cut : Option (BitVec 72)) : KeepsOut F q0 (execLaneTimeout e k lane cut s) := by
  unfold execLaneTimeout
  repeat' first
    | with_reducible assumption
    | with_reducible apply keeps_ite
    | with_reducible apply keepsOut_next
    | (refine keepsOut_whileRuns ?_ ?_)
    | with_reducible apply keepsOut_ite
    | with_reducible apply keepsOut_fault
    | with_reducible apply State.laneFault_keeps
    | split

theorem execCoreAccessFault_keeps {F : Part → Prop} {q0 s : State} [Open F .cmds] (h : Keeps F q0 s) (c : Fin 2) (k : Fin 4) (a : BitVec 32) (write : Bool) (size : Fin 9) : KeepsOut F q0 (execCoreAccessFault c k a write size s) := by
  unfold execCoreAccessFault
  repeat' first
    | with_reducible assumption
    | with_reducible apply keeps_ite
    | with_reducible apply keepsOut_next
    | (refine keepsOut_whileRuns ?_ ?_)
    | with_reducible apply keepsOut_ite
    | with_reducible apply keepsOut_fault
    | with_reducible apply State.modCmd_keeps
    | split

theorem State.parityFailure_keeps {F : Part → Prop} {q0 s : State} [Open F .regs] [Open F .out] [Open F .ports] [Open F .tgs] [Open F .drives] [Open F .life] [Open F .sys] [Open F .keeper] [Open F .safety] [Open F .net] (h : Keeps F q0 s) (a : Nat) (byRead : Bool) : Keeps F q0 (State.parityFailure s a byRead) := by
  unfold State.parityFailure
  repeat' first
    | with_reducible assumption
    | with_reducible apply keeps_ite
    | (extract_lets -underBinder +onlyGivenNames xl; refine keeps_cut (F := F) (r := q0) (x := xl) (fun hx => ?_) ?_; (focus clear_value xl; rename' xl => y); rotate_left; (focus unfold xl; clear xl); rotate_left)
    | (extract_lets -underBinder +onlyGivenNames xl; clear_value xl; rename' xl => y)
    | with_reducible apply State.modNet_keeps
    | with_reducible apply State.lock_keeps
    | with_reducible apply State.safetyFault_keeps
    | with_reducible apply State.refreshTrips_keeps
    | with_reducible apply State.parityRecord_keeps
    | with_reducible apply State.send_keeps
    | split

theorem State.parClear_keeps {F : Part → Prop} {q0 s : State} [Open F .regs] [Open F .ports] [Open F .tgs] [Open F .drives] [Open F .net] (h : Keeps F q0 s) (e : Die) (m : Nat) : Keeps F q0 (State.parClear s e m) := by
  unfold State.parClear
  repeat' first
    | with_reducible assumption
    | with_reducible apply keeps_ite
    | (extract_lets -underBinder +onlyGivenNames xl; refine keeps_cut (F := F) (r := q0) (x := xl) (fun hx => ?_) ?_; (focus clear_value xl; rename' xl => y); rotate_left; (focus unfold xl; clear xl); rotate_left)
    | (extract_lets -underBinder +onlyGivenNames xl; clear_value xl; rename' xl => y)
    | with_reducible apply State.modNet_keeps
    | with_reducible apply State.refreshTrips_keeps
    | with_reducible apply State.setReg_keeps
    | split

theorem State.checkParity_keeps {F : Part → Prop} {q0 s : State} [Open F .regs] [Open F .out] [Open F .ports] [Open F .tgs] [Open F .drives] [Open F .life] [Open F .sys] [Open F .keeper] [Open F .safety] [Open F .net] (h : Keeps F q0 s) (a : Nat) (byRead : Bool) : Keeps F q0 (State.checkParity s a byRead) := by
  unfold State.checkParity
  repeat' first
    | with_reducible assumption
    | with_reducible apply keeps_ite
    | with_reducible apply State.parityFailure_keeps
    | split

theorem State.checkParityClear_keeps {F : Part → Prop} {q0 s : State} [Open F .regs] [Open F .out] [Open F .ports] [Open F .tgs] [Open F .drives] [Open F .life] [Open F .sys] [Open F .keeper] [Open F .safety] [Open F .net] (h : Keeps F q0 s) (a : Nat) (byRead : Bool) (m : Nat) : Keeps F q0 (State.checkParityClear s a byRead m) := by
  unfold State.checkParityClear
  repeat' first
    | with_reducible assumption
    | with_reducible apply keeps_ite
    | (extract_lets -underBinder +onlyGivenNames xl; refine keeps_cut (F := F) (r := q0) (x := xl) (fun hx => ?_) ?_; (focus clear_value xl; rename' xl => y); rotate_left; (focus unfold xl; clear xl); rotate_left)
    | (extract_lets -underBinder +onlyGivenNames xl; clear_value xl; rename' xl => y)
    | with_reducible apply State.checkParity_keeps
    | with_reducible apply State.parClear_keeps
    | split

theorem State.upset_keeps {F : Part → Prop} {q0 s : State} [Open F .regs] (h : Keeps F q0 s) (a : Nat) (bits : Word) : Keeps F q0 (State.upset s a bits) := by
  unfold State.upset
  repeat' first
    | with_reducible assumption
    | with_reducible apply keeps_ite
    | with_reducible apply State.putCell_keeps
    | split

theorem execMa3Scrub_keeps {F : Part → Prop} {q0 s : State} [Open F .regs] [Open F .out] [Open F .ports] [Open F .tgs] [Open F .drives] [Open F .life] [Open F .sys] [Open F .keeper] [Open F .safety] [Open F .net] (h : Keeps F q0 s) (a : Nat) (bits : BitVec 32) (last : Bool) (clr : BitVec 3) : KeepsOut F q0 (execMa3Scrub a bits last clr s) := by
  unfold execMa3Scrub
  repeat' first
    | with_reducible assumption
    | with_reducible apply keeps_ite
    | with_reducible apply keepsOut_next
    | (refine keepsOut_whileRuns ?_ ?_)
    | with_reducible apply keepsOut_ite
    | with_reducible apply keepsOut_fault
    | (extract_lets -underBinder +onlyGivenNames xl; refine keeps_cut (F := F) (r := q0) (x := xl) (fun hx => ?_) ?_; (focus clear_value xl; rename' xl => y); rotate_left; (focus unfold xl; clear xl); rotate_left)
    | (extract_lets -underBinder +onlyGivenNames xl; clear_value xl; rename' xl => y)
    | with_reducible apply State.upset_keeps
    | with_reducible apply State.checkParityClear_keeps
    | with_reducible apply State.incMod_keeps
    | split

theorem State.modRs_keeps {F : Part → Prop} {q0 s : State} [Open F .rsBlocks] (h : Keeps F q0 s) (b : Nat) (f : RsBlock → RsBlock) : Keeps F q0 (State.modRs s b f) := by
  unfold State.modRs
  repeat' first
    | with_reducible assumption
    | with_reducible apply keeps_ite
    | split
    | refine Keeps.rsBlocks ?_ _

theorem State.showPend_keeps {F : Part → Prop} {q0 s : State} [Open F .regs] (h : Keeps F q0 s) (b : Nat) : Keeps F q0 (State.showPend s b) := by
  unfold State.showPend
  repeat' first
    | with_reducible assumption
    | with_reducible apply keeps_ite
    | with_reducible apply State.set_keeps
    | split

theorem State.rsAccept_keeps {F : Part → Prop} {q0 s : State} [Open F .regs] [Open F .rsBlocks] (h : Keeps F q0 s) (b : Nat) (x : RsWrite) : Keeps F q0 (State.rsAccept s b x) := by
  unfold State.rsAccept
  repeat' first
    | with_reducible assumption
    | with_reducible apply keeps_ite
    | with_reducible apply State.showPend_keeps
    | with_reducible apply State.modRs_keeps
    | with_reducible apply State.setB_keeps
    | split

theorem execRsRegisterWrite_keeps {F : Part → Prop} {q0 s : State} [Open F .regs] [Open F .rsBlocks] (h : Keeps F q0 s) (b : Fin 9) (off : Fin 0x4000) (w : BitVec 32) : KeepsOut F q0 (execRsRegisterWrite b off w s) := by
  unfold execRsRegisterWrite
  repeat' first
    | with_reducible assumption
    | with_reducible apply keeps_ite
    | with_reducible apply keepsOut_next
    | (refine keepsOut_whileRuns ?_ ?_)
    | with_reducible apply keepsOut_ite
    | with_reducible apply keepsOut_fault
    | with_reducible apply State.rsAccept_keeps
    | split

theorem State.rsPop_keeps {F : Part → Prop} {q0 s : State} [Open F .regs] [Open F .rsBlocks] (h : Keeps F q0 s) (b : Nat) : Keeps F q0 (State.rsPop s b) := by
  unfold State.rsPop
  repeat' first
    | with_reducible assumption
    | with_reducible apply keeps_ite
    | with_reducible apply State.showPend_keeps
    | with_reducible apply State.modRs_keeps
    | split

theorem execRsStaleTimeout_keeps {F : Part → Prop} {q0 s : State} [Open F .regs] (h : Keeps F q0 s) (b : Fin 9) : KeepsOut F q0 (execRsStaleTimeout b s) := by
  unfold execRsStaleTimeout
  repeat' first
    | with_reducible assumption
    | with_reducible apply keeps_ite
    | with_reducible apply keepsOut_next
    | (refine keepsOut_whileRuns ?_ ?_)
    | with_reducible apply keepsOut_ite
    | with_reducible apply keepsOut_fault
    | with_reducible apply State.setB_keeps
    | split

theorem execRsWriteLost_keeps {F : Part → Prop} {q0 s : State} [Open F .regs] [Open F .rsBlocks] (h : Keeps F q0 s) (b : Fin 9) : KeepsOut F q0 (execRsWriteLost b s) := by
  unfold execRsWriteLost
  repeat' first
    | with_reducible assumption
    | with_reducible apply keeps_ite
    | with_reducible apply keepsOut_next
    | (refine keepsOut_whileRuns ?_ ?_)
    | with_reducible apply keepsOut_ite
    | with_reducible apply keepsOut_fault
    | with_reducible apply State.rsPop_keeps
    | with_reducible apply State.setB_keeps
    | split

theorem State.captureRtc_keeps {F : Part → Prop} {q0 s : State} [Open F .rsBlocks] (h : Keeps F q0 s)  : Keeps F q0 (State.captureRtc s) := by
  unfold State.captureRtc
  repeat' first
    | with_reducible assumption
    | with_reducible apply keeps_ite
    | (extract_lets -underBinder +onlyGivenNames xl; refine keeps_cut (F := F) (r := q0) (x := xl) (fun hx => ?_) ?_; (focus clear_value xl; rename' xl => y); rotate_left; (focus unfold xl; clear xl); rotate_left)
    | (extract_lets -underBinder +onlyGivenNames xl; clear_value xl; rename' xl => y)
    | with_reducible apply State.modRs_keeps
    | split

theorem execRsLowWordRead_keeps {F : Part → Prop} {q0 s : State} [Open F .out] [Open F .rsBlocks] (h : Keeps F q0 s)  : KeepsOut F q0 (execRsLowWordRead s) := by
  unfold execRsLowWordRead
  repeat' first
    | with_reducible assumption
    | with_reducible apply keeps_ite
    | with_reducible apply keepsOut_next
    | (refine keepsOut_whileRuns ?_ ?_)
    | with_reducible apply keepsOut_ite
    | with_reducible apply keepsOut_fault
    | with_reducible apply State.captureRtc_keeps
    | with_reducible apply State.send_keeps
    | split

theorem Assoc.sorted_puts {α : Type} (l : List (Nat × α)) : ∀ m : List (Nat × α), Assoc.sorted m = true →
    Assoc.sorted (l.foldl (fun m c => Assoc.put m c.1 c.2) m) = true := by
  induction l with
  | nil => exact fun _ h => h
  | cons c l ih => exact fun m h => ih _ (Assoc.sorted_put _ _ _ h)

theorem execRsCopyRefresh_keeps {F : Part → Prop} {r s : State} [Open F .regs] [Open F .copies] (h : Keeps F r s) (b : Fin 9) : KeepsOut F r (execRsCopyRefresh b s) := by
  unfold execRsCopyRefresh
  refine keepsOut_whileRuns h ?_
  apply keepsOut_next
  dsimp only
  split
  · apply State.setB_keeps
    apply State.setB_keeps
    exact h.copies _ fun hm => Assoc.sorted_puts _ _ (Assoc.sorted_filter _ _ hm)
  · apply State.setB_keeps
    exact h.copies _ fun hm => Assoc.sorted_puts _ _ (Assoc.sorted_filter _ _ hm)

end Sys2Proof.Machine
end

