-- ==== Sys2Proof/Laws/KeepsFields.lean ====
section
/-! SUPPORT.  What the operations of Machine/Fields.lean keep. -/

set_option linter.unusedTactic false
set_option linter.unreachableTactic false
set_option linter.unusedVariables false
set_option linter.unnecessarySeqFocus false

namespace Sys2Proof.Machine

theorem execHopEnSet_keeps {F : Part → Prop} {q0 s : State} [Open F .regs] [Open F .out] [Open F .plls] [Open F .hops] [Open F .ports] [Open F .tgs] [Open F .drives] [Open F .life] [Open F .sys] [Open F .keeper] [Open F .safety] [Open F .net] (h : Keeps F q0 s) (d : Fin 4) : KeepsOut F q0 (execHopEnSet d s) := by
  unfold execHopEnSet
  repeat' first
    | with_reducible assumption
    | with_reducible apply keeps_ite
    | with_reducible apply keepsOut_next
    | (refine keepsOut_whileRuns ?_ ?_)
    | with_reducible apply keepsOut_ite
    | with_reducible apply keepsOut_fault
    | (extract_lets -underBinder +onlyGivenNames xl; refine keeps_cut (F := F) (r := q0) (x := xl) (fun hx => ?_) ?_; (focus clear_value xl; rename' xl => y); rotate_left; (focus unfold xl; clear xl); rotate_left)
    | (extract_lets -underBinder +onlyGivenNames xl; clear_value xl; rename' xl => y)
    | with_reducible apply State.checkParity_keeps
    | with_reducible apply State.hopCfgApply_keeps
    | split

theorem execHopEnClear_keeps {F : Part → Prop} {q0 s : State} [Open F .regs] [Open F .out] [Open F .plls] [Open F .hops] [Open F .ports] [Open F .tgs] [Open F .drives] [Open F .life] [Open F .sys] [Open F .keeper] [Open F .safety] [Open F .net] (h : Keeps F q0 s) (d : Fin 4) : KeepsOut F q0 (execHopEnClear d s) := by
  unfold execHopEnClear
  repeat' first
    | with_reducible assumption
    | with_reducible apply keeps_ite
    | with_reducible apply keepsOut_next
    | (refine keepsOut_whileRuns ?_ ?_)
    | with_reducible apply keepsOut_ite
    | with_reducible apply keepsOut_fault
    | (extract_lets -underBinder +onlyGivenNames xl; refine keeps_cut (F := F) (r := q0) (x := xl) (fun hx => ?_) ?_; (focus clear_value xl; rename' xl => y); rotate_left; (focus unfold xl; clear xl); rotate_left)
    | (extract_lets -underBinder +onlyGivenNames xl; clear_value xl; rename' xl => y)
    | with_reducible apply State.checkParity_keeps
    | with_reducible apply State.hopCfgApply_keeps
    | split

theorem execPwmGroupEnable_keeps {F : Part → Prop} {q0 s : State} [Open F .regs] [Open F .out] [Open F .groups] [Open F .ports] [Open F .tgs] [Open F .drives] [Open F .life] [Open F .sys] [Open F .keeper] [Open F .safety] [Open F .net] (h : Keeps F q0 s) (d : Fin 4) (k : Fin 4) : KeepsOut F q0 (execPwmGroupEnable d k s) := by
  unfold execPwmGroupEnable
  repeat' first
    | with_reducible assumption
    | with_reducible apply keeps_ite
    | with_reducible apply keepsOut_next
    | (refine keepsOut_whileRuns ?_ ?_)
    | with_reducible apply keepsOut_ite
    | with_reducible apply keepsOut_fault
    | (extract_lets -underBinder +onlyGivenNames xl; refine keeps_cut (F := F) (r := q0) (x := xl) (fun hx => ?_) ?_; (focus clear_value xl; rename' xl => y); rotate_left; (focus unfold xl; clear xl); rotate_left)
    | (extract_lets -underBinder +onlyGivenNames xl; clear_value xl; rename' xl => y)
    | with_reducible apply State.checkParity_keeps
    | with_reducible apply State.gcfgApply_keeps
    | split

theorem execPwmGroupDisable_keeps {F : Part → Prop} {q0 s : State} [Open F .regs] [Open F .out] [Open F .groups] [Open F .ports] [Open F .tgs] [Open F .drives] [Open F .life] [Open F .sys] [Open F .keeper] [Open F .safety] [Open F .net] (h : Keeps F q0 s) (d : Fin 4) (k : Fin 4) : KeepsOut F q0 (execPwmGroupDisable d k s) := by
  unfold execPwmGroupDisable
  repeat' first
    | with_reducible assumption
    | with_reducible apply keeps_ite
    | with_reducible apply keepsOut_next
    | (refine keepsOut_whileRuns ?_ ?_)
    | with_reducible apply keepsOut_ite
    | with_reducible apply keepsOut_fault
    | (extract_lets -underBinder +onlyGivenNames xl; refine keeps_cut (F := F) (r := q0) (x := xl) (fun hx => ?_) ?_; (focus clear_value xl; rename' xl => y); rotate_left; (focus unfold xl; clear xl); rotate_left)
    | (extract_lets -underBinder +onlyGivenNames xl; clear_value xl; rename' xl => y)
    | with_reducible apply State.checkParity_keeps
    | with_reducible apply State.gcfgApply_keeps
    | split

theorem execFltUseWrite_keeps {F : Part → Prop} {q0 s : State} [Open F .regs] [Open F .out] [Open F .ports] [Open F .tgs] [Open F .drives] [Open F .life] [Open F .sys] [Open F .keeper] [Open F .safety] [Open F .net] (h : Keeps F q0 s) (d : Fin 4) (j : Fin 6) (use : Bool) : KeepsOut F q0 (execFltUseWrite d j use s) := by
  unfold execFltUseWrite
  repeat' first
    | with_reducible assumption
    | with_reducible apply keeps_ite
    | with_reducible apply keepsOut_next
    | (refine keepsOut_whileRuns ?_ ?_)
    | with_reducible apply keepsOut_ite
    | with_reducible apply keepsOut_fault
    | (extract_lets -underBinder +onlyGivenNames xl; refine keeps_cut (F := F) (r := q0) (x := xl) (fun hx => ?_) ?_; (focus clear_value xl; rename' xl => y); rotate_left; (focus unfold xl; clear xl); rotate_left)
    | (extract_lets -underBinder +onlyGivenNames xl; clear_value xl; rename' xl => y)
    | with_reducible apply State.checkParity_keeps
    | with_reducible apply State.pcfgApply_keeps
    | split

theorem execChopEnWrite_keeps {F : Part → Prop} {q0 s : State} [Open F .regs] [Open F .out] [Open F .ports] [Open F .tgs] [Open F .drives] [Open F .life] [Open F .sys] [Open F .keeper] [Open F .safety] [Open F .net] (h : Keeps F q0 s) (d : Fin 4) (j : Fin 6) (en : Bool) : KeepsOut F q0 (execChopEnWrite d j en s) := by
  unfold execChopEnWrite
  repeat' first
    | with_reducible assumption
    | with_reducible apply keeps_ite
    | with_reducible apply keepsOut_next
    | (refine keepsOut_whileRuns ?_ ?_)
    | with_reducible apply keepsOut_ite
    | with_reducible apply keepsOut_fault
    | (extract_lets -underBinder +onlyGivenNames xl; refine keeps_cut (F := F) (r := q0) (x := xl) (fun hx => ?_) ?_; (focus clear_value xl; rename' xl => y); rotate_left; (focus unfold xl; clear xl); rotate_left)
    | (extract_lets -underBinder +onlyGivenNames xl; clear_value xl; rename' xl => y)
    | with_reducible apply State.checkParity_keeps
    | with_reducible apply State.pcfgApply_keeps
    | split

theorem execAdcDisable_keeps {F : Part → Prop} {q0 s : State} [Open F .regs] [Open F .out] [Open F .ports] [Open F .tgs] [Open F .drives] [Open F .adcs] [Open F .life] [Open F .sys] [Open F .keeper] [Open F .safety] [Open F .net] (h : Keeps F q0 s) (d : Fin 4) (k : Fin 4) : KeepsOut F q0 (execAdcDisable d k s) := by
  unfold execAdcDisable
  repeat' first
    | with_reducible assumption
    | with_reducible apply keeps_ite
    | with_reducible apply keepsOut_next
    | (refine keepsOut_whileRuns ?_ ?_)
    | with_reducible apply keepsOut_ite
    | with_reducible apply keepsOut_fault
    | (extract_lets -underBinder +onlyGivenNames xl; refine keeps_cut (F := F) (r := q0) (x := xl) (fun hx => ?_) ?_; (focus clear_value xl; rename' xl => y); rotate_left; (focus unfold xl; clear xl); rotate_left)
    | (extract_lets -underBinder +onlyGivenNames xl; clear_value xl; rename' xl => y)
    | with_reducible apply State.checkParity_keeps
    | with_reducible apply State.acfgApply_keeps
    | split

theorem execCmpEnable_keeps {F : Part → Prop} {q0 s : State} [Open F .regs] [Open F .mem] [Open F .out] [Open F .ports] [Open F .tgs] [Open F .drives] [Open F .cmps] [Open F .life] [Open F .sys] [Open F .keeper] [Open F .safety] [Open F .net] (h : Keeps F q0 s) (d : Fin 4) (i : Fin 16) : KeepsOut F q0 (execCmpEnable d i s) := by
  unfold execCmpEnable
  repeat' first
    | with_reducible assumption
    | with_reducible apply keeps_ite
    | with_reducible apply keepsOut_next
    | (refine keepsOut_whileRuns ?_ ?_)
    | with_reducible apply keepsOut_ite
    | with_reducible apply keepsOut_fault
    | (extract_lets -underBinder +onlyGivenNames xl; refine keeps_cut (F := F) (r := q0) (x := xl) (fun hx => ?_) ?_; (focus clear_value xl; rename' xl => y); rotate_left; (focus unfold xl; clear xl); rotate_left)
    | (extract_lets -underBinder +onlyGivenNames xl; clear_value xl; rename' xl => y)
    | with_reducible apply State.checkParity_keeps
    | with_reducible apply State.ccfgApply_keeps
    | split

theorem execCmpDisable_keeps {F : Part → Prop} {q0 s : State} [Open F .regs] [Open F .mem] [Open F .out] [Open F .ports] [Open F .tgs] [Open F .drives] [Open F .cmps] [Open F .life] [Open F .sys] [Open F .keeper] [Open F .safety] [Open F .net] (h : Keeps F q0 s) (d : Fin 4) (i : Fin 16) : KeepsOut F q0 (execCmpDisable d i s) := by
  unfold execCmpDisable
  repeat' first
    | with_reducible assumption
    | with_reducible apply keeps_ite
    | with_reducible apply keepsOut_next
    | (refine keepsOut_whileRuns ?_ ?_)
    | with_reducible apply keepsOut_ite
    | with_reducible apply keepsOut_fault
    | (extract_lets -underBinder +onlyGivenNames xl; refine keeps_cut (F := F) (r := q0) (x := xl) (fun hx => ?_) ?_; (focus clear_value xl; rename' xl => y); rotate_left; (focus unfold xl; clear xl); rotate_left)
    | (extract_lets -underBinder +onlyGivenNames xl; clear_value xl; rename' xl => y)
    | with_reducible apply State.checkParity_keeps
    | with_reducible apply State.ccfgApply_keeps
    | split

theorem execPiEnable_keeps {F : Part → Prop} {q0 s : State} [Open F .regs] [Open F .out] [Open F .ports] [Open F .tgs] [Open F .drives] [Open F .pis] [Open F .life] [Open F .sys] [Open F .keeper] [Open F .safety] [Open F .net] (h : Keeps F q0 s) (d : Fin 4) (p : Fin 2) : KeepsOut F q0 (execPiEnable d p s) := by
  unfold execPiEnable
  repeat' first
    | with_reducible assumption
    | with_reducible apply keeps_ite
    | with_reducible apply keepsOut_next
    | (refine keepsOut_whileRuns ?_ ?_)
    | with_reducible apply keepsOut_ite
    | with_reducible apply keepsOut_fault
    | (extract_lets -underBinder +onlyGivenNames xl; refine keeps_cut (F := F) (r := q0) (x := xl) (fun hx => ?_) ?_; (focus clear_value xl; rename' xl => y); rotate_left; (focus unfold xl; clear xl); rotate_left)
    | (extract_lets -underBinder +onlyGivenNames xl; clear_value xl; rename' xl => y)
    | with_reducible apply State.checkParity_keeps
    | with_reducible apply State.picfgApply_keeps
    | split

theorem execCleEnable_keeps {F : Part → Prop} {q0 s : State} [Open F .regs] [Open F .out] [Open F .ports] [Open F .tgs] [Open F .drives] [Open F .cles] [Open F .life] [Open F .sys] [Open F .keeper] [Open F .safety] [Open F .net] (h : Keeps F q0 s) (d : Fin 4) (c : Fin 2) : KeepsOut F q0 (execCleEnable d c s) := by
  unfold execCleEnable
  repeat' first
    | with_reducible assumption
    | with_reducible apply keeps_ite
    | with_reducible apply keepsOut_next
    | (refine keepsOut_whileRuns ?_ ?_)
    | with_reducible apply keepsOut_ite
    | with_reducible apply keepsOut_fault
    | (extract_lets -underBinder +onlyGivenNames xl; refine keeps_cut (F := F) (r := q0) (x := xl) (fun hx => ?_) ?_; (focus clear_value xl; rename' xl => y); rotate_left; (focus unfold xl; clear xl); rotate_left)
    | (extract_lets -underBinder +onlyGivenNames xl; clear_value xl; rename' xl => y)
    | with_reducible apply State.checkParity_keeps
    | with_reducible apply State.clecfgApply_keeps
    | split

theorem execCleDisable_keeps {F : Part → Prop} {q0 s : State} [Open F .regs] [Open F .out] [Open F .ports] [Open F .tgs] [Open F .drives] [Open F .cles] [Open F .life] [Open F .sys] [Open F .keeper] [Open F .safety] [Open F .net] (h : Keeps F q0 s) (d : Fin 4) (c : Fin 2) : KeepsOut F q0 (execCleDisable d c s) := by
  unfold execCleDisable
  repeat' first
    | with_reducible assumption
    | with_reducible apply keeps_ite
    | with_reducible apply keepsOut_next
    | (refine keepsOut_whileRuns ?_ ?_)
    | with_reducible apply keepsOut_ite
    | with_reducible apply keepsOut_fault
    | (extract_lets -underBinder +onlyGivenNames xl; refine keeps_cut (F := F) (r := q0) (x := xl) (fun hx => ?_) ?_; (focus clear_value xl; rename' xl => y); rotate_left; (focus unfold xl; clear xl); rotate_left)
    | (extract_lets -underBinder +onlyGivenNames xl; clear_value xl; rename' xl => y)
    | with_reducible apply State.checkParity_keeps
    | with_reducible apply State.clecfgApply_keeps
    | split

theorem execGridEnable_keeps {F : Part → Prop} {q0 s : State} [Open F .regs] [Open F .out] [Open F .ports] [Open F .tgs] [Open F .drives] [Open F .life] [Open F .sys] [Open F .keeper] [Open F .grids] [Open F .safety] [Open F .net] (h : Keeps F q0 s) (d : Fin 4) : KeepsOut F q0 (execGridEnable d s) := by
  unfold execGridEnable
  repeat' first
    | with_reducible assumption
    | with_reducible apply keeps_ite
    | with_reducible apply keepsOut_next
    | (refine keepsOut_whileRuns ?_ ?_)
    | with_reducible apply keepsOut_ite
    | with_reducible apply keepsOut_fault
    | (extract_lets -underBinder +onlyGivenNames xl; refine keeps_cut (F := F) (r := q0) (x := xl) (fun hx => ?_) ?_; (focus clear_value xl; rename' xl => y); rotate_left; (focus unfold xl; clear xl); rotate_left)
    | (extract_lets -underBinder +onlyGivenNames xl; clear_value xl; rename' xl => y)
    | with_reducible apply State.checkParity_keeps
    | with_reducible apply State.gcfgGridApply_keeps
    | split

theorem execGridDisable_keeps {F : Part → Prop} {q0 s : State} [Open F .regs] [Open F .out] [Open F .ports] [Open F .tgs] [Open F .drives] [Open F .life] [Open F .sys] [Open F .keeper] [Open F .grids] [Open F .safety] [Open F .net] (h : Keeps F q0 s) (d : Fin 4) : KeepsOut F q0 (execGridDisable d s) := by
  unfold execGridDisable
  repeat' first
    | with_reducible assumption
    | with_reducible apply keeps_ite
    | with_reducible apply keepsOut_next
    | (refine keepsOut_whileRuns ?_ ?_)
    | with_reducible apply keepsOut_ite
    | with_reducible apply keepsOut_fault
    | (extract_lets -underBinder +onlyGivenNames xl; refine keeps_cut (F := F) (r := q0) (x := xl) (fun hx => ?_) ?_; (focus clear_value xl; rename' xl => y); rotate_left; (focus unfold xl; clear xl); rotate_left)
    | (extract_lets -underBinder +onlyGivenNames xl; clear_value xl; rename' xl => y)
    | with_reducible apply State.checkParity_keeps
    | with_reducible apply State.gcfgGridApply_keeps
    | split

theorem execArmWrite_keeps {F : Part → Prop} {q0 s : State} [Open F .regs] [Open F .out] [Open F .ports] [Open F .tgs] [Open F .drives] [Open F .life] [Open F .sys] [Open F .keeper] [Open F .grids] [Open F .safety] [Open F .net] (h : Keeps F q0 s) (d : Fin 4) (v : Bool) : KeepsOut F q0 (execArmWrite d v s) := by
  unfold execArmWrite
  repeat' first
    | with_reducible assumption
    | with_reducible apply keeps_ite
    | with_reducible apply keepsOut_next
    | (refine keepsOut_whileRuns ?_ ?_)
    | with_reducible apply keepsOut_ite
    | with_reducible apply keepsOut_fault
    | (extract_lets -underBinder +onlyGivenNames xl; refine keeps_cut (F := F) (r := q0) (x := xl) (fun hx => ?_) ?_; (focus clear_value xl; rename' xl => y); rotate_left; (focus unfold xl; clear xl); rotate_left)
    | (extract_lets -underBinder +onlyGivenNames xl; clear_value xl; rename' xl => y)
    | with_reducible apply State.checkParity_keeps
    | with_reducible apply State.rtcfgApply_keeps
    | split

theorem execMeterEnable_keeps {F : Part → Prop} {q0 s : State} [Open F .regs] [Open F .out] [Open F .ports] [Open F .tgs] [Open F .drives] [Open F .life] [Open F .sys] [Open F .keeper] [Open F .meters] [Open F .safety] [Open F .net] (h : Keeps F q0 s) (m : Fin 3) : KeepsOut F q0 (execMeterEnable m s) := by
  unfold execMeterEnable
  repeat' first
    | with_reducible assumption
    | with_reducible apply keeps_ite
    | with_reducible apply keepsOut_next
    | (refine keepsOut_whileRuns ?_ ?_)
    | with_reducible apply keepsOut_ite
    | with_reducible apply keepsOut_fault
    | (extract_lets -underBinder +onlyGivenNames xl; refine keeps_cut (F := F) (r := q0) (x := xl) (fun hx => ?_) ?_; (focus clear_value xl; rename' xl => y); rotate_left; (focus unfold xl; clear xl); rotate_left)
    | (extract_lets -underBinder +onlyGivenNames xl; clear_value xl; rename' xl => y)
    | with_reducible apply State.checkParity_keeps
    | with_reducible apply State.mcfgApply_keeps
    | split

theorem execMeterDisable_keeps {F : Part → Prop} {q0 s : State} [Open F .regs] [Open F .out] [Open F .ports] [Open F .tgs] [Open F .drives] [Open F .life] [Open F .sys] [Open F .keeper] [Open F .meters] [Open F .safety] [Open F .net] (h : Keeps F q0 s) (m : Fin 3) : KeepsOut F q0 (execMeterDisable m s) := by
  unfold execMeterDisable
  repeat' first
    | with_reducible assumption
    | with_reducible apply keeps_ite
    | with_reducible apply keepsOut_next
    | (refine keepsOut_whileRuns ?_ ?_)
    | with_reducible apply keepsOut_ite
    | with_reducible apply keepsOut_fault
    | (extract_lets -underBinder +onlyGivenNames xl; refine keeps_cut (F := F) (r := q0) (x := xl) (fun hx => ?_) ?_; (focus clear_value xl; rename' xl => y); rotate_left; (focus unfold xl; clear xl); rotate_left)
    | (extract_lets -underBinder +onlyGivenNames xl; clear_value xl; rename' xl => y)
    | with_reducible apply State.checkParity_keeps
    | with_reducible apply State.mcfgApply_keeps
    | split

theorem execTuEnable_keeps {F : Part → Prop} {q0 s : State} [Open F .regs] [Open F .out] [Open F .ports] [Open F .tgs] [Open F .drives] [Open F .life] [Open F .sys] [Open F .keeper] [Open F .safety] [Open F .net] (h : Keeps F q0 s) (u : Fin 16) : KeepsOut F q0 (execTuEnable u s) := by
  unfold execTuEnable
  repeat' first
    | with_reducible assumption
    | with_reducible apply keeps_ite
    | with_reducible apply keepsOut_next
    | (refine keepsOut_whileRuns ?_ ?_)
    | with_reducible apply keepsOut_ite
    | with_reducible apply keepsOut_fault
    | (extract_lets -underBinder +onlyGivenNames xl; refine keeps_cut (F := F) (r := q0) (x := xl) (fun hx => ?_) ?_; (focus clear_value xl; rename' xl => y); rotate_left; (focus unfold xl; clear xl); rotate_left)
    | (extract_lets -underBinder +onlyGivenNames xl; clear_value xl; rename' xl => y)
    | with_reducible apply State.checkParity_keeps
    | with_reducible apply State.tuCfgApply_keeps
    | split

end Sys2Proof.Machine
end

