-- ==== Sys2Proof/Laws/KeepsMaint.lean ====
section
/-! SUPPORT.  What the operations of Machine/Maint.lean keep. -/

set_option linter.unusedTactic false
set_option linter.unreachableTactic false
set_option linter.unusedVariables false
set_option linter.unnecessarySeqFocus false

namespace Sys2Proof.Machine

theorem execCrcStart_keeps {F : Part → Prop} {q0 s : State} [Open F .regs] [Open F .out] [Open F .crcs] [Open F .acts] [Open F .maintSeq] (h : Keeps F q0 s) (u : Fin 8) : KeepsOut F q0 (execCrcStart u s) := by
  unfold execCrcStart
  repeat' first
    | with_reducible assumption
    | with_reducible apply keeps_ite
    | with_reducible apply keepsOut_next
    | (refine keepsOut_whileRuns ?_ ?_)
    | with_reducible apply keepsOut_ite
    | with_reducible apply keepsOut_fault
    | with_reducible apply State.crcControl_keeps
    | split

theorem execCrcStop_keeps {F : Part → Prop} {q0 s : State} [Open F .regs] [Open F .out] [Open F .crcs] [Open F .acts] [Open F .maintSeq] (h : Keeps F q0 s) (u : Fin 8) : KeepsOut F q0 (execCrcStop u s) := by
  unfold execCrcStop
  repeat' first
    | with_reducible assumption
    | with_reducible apply keeps_ite
    | with_reducible apply keepsOut_next
    | (refine keepsOut_whileRuns ?_ ?_)
    | with_reducible apply keepsOut_ite
    | with_reducible apply keepsOut_fault
    | with_reducible apply State.crcControl_keeps
    | split

theorem execCrcResume_keeps {F : Part → Prop} {q0 s : State} [Open F .regs] [Open F .out] [Open F .crcs] [Open F .acts] [Open F .maintSeq] (h : Keeps F q0 s) (u : Fin 8) : KeepsOut F q0 (execCrcResume u s) := by
  unfold execCrcResume
  repeat' first
    | with_reducible assumption
    | with_reducible apply keeps_ite
    | with_reducible apply keepsOut_next
    | (refine keepsOut_whileRuns ?_ ?_)
    | with_reducible apply keepsOut_ite
    | with_reducible apply keepsOut_fault
    | with_reducible apply State.crcControl_keeps
    | split

theorem execCrcData_keeps {F : Part → Prop} {q0 s : State} [Open F .regs] (h : Keeps F q0 s) (u : Fin 8) (w : BitVec 32) : KeepsOut F q0 (execCrcData u w s) := by
  unfold execCrcData
  repeat' first
    | with_reducible assumption
    | with_reducible apply keeps_ite
    | with_reducible apply keepsOut_next
    | (refine keepsOut_whileRuns ?_ ?_)
    | with_reducible apply keepsOut_ite
    | with_reducible apply keepsOut_fault
    | with_reducible apply State.crcFeed_keeps
    | split

theorem execCrcDataH_keeps {F : Part → Prop} {q0 s : State} [Open F .regs] (h : Keeps F q0 s) (u : Fin 8) (w : BitVec 16) : KeepsOut F q0 (execCrcDataH u w s) := by
  unfold execCrcDataH
  repeat' first
    | with_reducible assumption
    | with_reducible apply keeps_ite
    | with_reducible apply keepsOut_next
    | (refine keepsOut_whileRuns ?_ ?_)
    | with_reducible apply keepsOut_ite
    | with_reducible apply keepsOut_fault
    | with_reducible apply State.crcFeed_keeps
    | split

theorem execCrcDataB_keeps {F : Part → Prop} {q0 s : State} [Open F .regs] (h : Keeps F q0 s) (u : Fin 8) (w : BitVec 8) : KeepsOut F q0 (execCrcDataB u w s) := by
  unfold execCrcDataB
  repeat' first
    | with_reducible assumption
    | with_reducible apply keeps_ite
    | with_reducible apply keepsOut_next
    | (refine keepsOut_whileRuns ?_ ?_)
    | with_reducible apply keepsOut_ite
    | with_reducible apply keepsOut_fault
    | with_reducible apply State.crcFeed_keeps
    | split

theorem execCrcValWrite_keeps {F : Part → Prop} {q0 s : State} [Open F .regs] (h : Keeps F q0 s) (u : Fin 8) (w : BitVec 32) : KeepsOut F q0 (execCrcValWrite u w s) := by
  unfold execCrcValWrite
  repeat' first
    | with_reducible assumption
    | with_reducible apply keeps_ite
    | with_reducible apply keepsOut_next
    | (refine keepsOut_whileRuns ?_ ?_)
    | with_reducible apply keepsOut_ite
    | with_reducible apply keepsOut_fault
    | with_reducible apply State.crcVal_keeps
    | split

theorem State.feed_keeps {F : Part → Prop} {q0 s : State} [Open F .regs] (h : Keeps F q0 s) (u : Nat) (b : List Nat) : Keeps F q0 (State.feed s u b) := by
  unfold State.feed
  repeat' first
    | (intro i t ht)
    | with_reducible assumption
    | with_reducible apply keeps_ite
    | with_reducible apply State.crcFeed_keeps
    | with_reducible apply foldl_keeps
    | split

theorem execFeed_keeps {F : Part → Prop} {q0 s : State} [Open F .regs] (h : Keeps F q0 s) (u : Fin 8) (b : List (BitVec 8)) : KeepsOut F q0 (execFeed u b s) := by
  unfold execFeed
  repeat' first
    | with_reducible assumption
    | with_reducible apply keeps_ite
    | with_reducible apply keepsOut_next
    | (refine keepsOut_whileRuns ?_ ?_)
    | with_reducible apply keepsOut_ite
    | with_reducible apply keepsOut_fault
    | with_reducible apply State.feed_keeps
    | split

theorem execScanReadReturn_keeps {F : Part → Prop} {q0 s : State} [Open F .regs] [Open F .out] [Open F .ports] [Open F .tgs] [Open F .drives] [Open F .life] [Open F .sys] [Open F .keeper] [Open F .crcs] [Open F .safety] [Open F .net] (h : Keeps F q0 s) (u : Fin 8) (fault : Bool) : KeepsOut F q0 (execScanReadReturn u fault s) := by
  unfold execScanReadReturn
  repeat' first
    | (intro i t ht)
    | with_reducible assumption
    | with_reducible apply keeps_ite
    | with_reducible apply keepsOut_next
    | (refine keepsOut_whileRuns ?_ ?_)
    | with_reducible apply keepsOut_ite
    | with_reducible apply keepsOut_fault
    | (extract_lets -underBinder +onlyGivenNames xl; refine keeps_cut (F := F) (r := q0) (x := xl) (fun hx => ?_) ?_; (focus clear_value xl; rename' xl => y); rotate_left; (focus unfold xl; clear xl); rotate_left)
    | (extract_lets -underBinder +onlyGivenNames xl; clear_value xl; rename' xl => y)
    | with_reducible apply State.checkParity_keeps
    | with_reducible apply State.scanReturn_keeps
    | with_reducible apply foldl_keeps
    | split

theorem execCrcDone_keeps {F : Part → Prop} {q0 s : State} [Open F .regs] [Open F .out] [Open F .crcs] [Open F .acts] [Open F .maintSeq] (h : Keeps F q0 s) (u : Fin 8) : KeepsOut F q0 (execCrcDone u s) := by
  unfold execCrcDone
  repeat' first
    | with_reducible assumption
    | with_reducible apply keeps_ite
    | with_reducible apply keepsOut_next
    | (refine keepsOut_whileRuns ?_ ?_)
    | with_reducible apply keepsOut_ite
    | with_reducible apply keepsOut_fault
    | with_reducible apply State.crcFinish_keeps
    | split

theorem State.endCheck_keeps {F : Part → Prop} {q0 s : State} [Open F .regs] [Open F .ports] [Open F .tgs] [Open F .drives] [Open F .cmps] (h : Keeps F q0 s) (d : Nat) (i : Nat) : Keeps F q0 (State.endCheck s d i) := by
  unfold State.endCheck
  repeat' first
    | with_reducible assumption
    | with_reducible apply keeps_ite
    | with_reducible apply State.chkWrite_keeps
    | split

theorem State.ma0Seek_keeps {F : Part → Prop} {r s : State} [Open F .regs] [Open F .out] [Open F .freeCnt] [Open F .ports] [Open F .tgs] [Open F .drives] [Open F .cmps] [Open F .acts] [Open F .maintSeq] (h : Keeps F r s) (k d : Nat) (l : List Nat) : Keeps F r (State.ma0Seek s k d l) := by
  induction l generalizing s with
  | nil => exact State.endActivity_keeps h k _
  | cons i l ih =>
    unfold State.ma0Seek
    split
    · exact ih (State.modAct_keeps h k _)
    · exact State.chkWrite_keeps (State.fresh_keeps (State.modAct_keeps h k _)) d i 2 _

theorem State.retireCmp_keeps {F : Part → Prop} {q0 s : State} [Open F .regs] [Open F .ports] [Open F .tgs] [Open F .drives] [Open F .cmps] [Open F .life] [Open F .keeper] (h : Keeps F q0 s) (d : Nat) (i : Nat) : Keeps F q0 (State.retireCmp s d i) := by
  unfold State.retireCmp
  repeat' first
    | with_reducible assumption
    | with_reducible apply keeps_ite
    | with_reducible apply State.refreshTrips_keeps
    | with_reducible apply State.modCmp_keeps
    | with_reducible apply State.recordRetire_keeps
    | split

theorem State.restoreCmp_keeps {F : Part → Prop} {q0 s : State} [Open F .regs] [Open F .ports] [Open F .tgs] [Open F .drives] [Open F .cmps] (h : Keeps F q0 s) (d : Nat) (i : Nat) : Keeps F q0 (State.restoreCmp s d i) := by
  unfold State.restoreCmp
  repeat' first
    | with_reducible assumption
    | with_reducible apply keeps_ite
    | with_reducible apply State.refreshTrips_keeps
    | with_reducible apply State.modCmp_keeps
    | split

theorem State.ma0Check_keeps {F : Part → Prop} {q0 s : State} [Open F .regs] [Open F .out] [Open F .freeCnt] [Open F .ports] [Open F .tgs] [Open F .drives] [Open F .cmps] [Open F .life] [Open F .keeper] [Open F .acts] [Open F .maintSeq] (h : Keeps F q0 s) (k : Nat) (out : Bool) : Keeps F q0 (State.ma0Check s k out) := by
  unfold State.ma0Check
  repeat' first
    | with_reducible assumption
    | with_reducible apply keeps_ite
    | (extract_lets -underBinder +onlyGivenNames xl; refine keeps_cut (F := F) (r := q0) (x := xl) (fun hx => ?_) ?_; (focus clear_value xl; rename' xl => y); rotate_left; (focus unfold xl; clear xl); rotate_left)
    | (extract_lets -underBinder +onlyGivenNames xl; clear_value xl; rename' xl => y)
    | with_reducible apply State.restoreCmp_keeps
    | with_reducible apply State.retireCmp_keeps
    | with_reducible apply State.ma0Seek_keeps
    | with_reducible apply State.endCheck_keeps
    | with_reducible apply State.chkWrite_keeps
    | with_reducible apply State.endActivity_keeps
    | with_reducible apply State.modAct_keeps
    | with_reducible apply State.fresh_keeps
    | with_reducible apply State.setB_keeps
    | split

theorem execMa0CheckEnd_keeps {F : Part → Prop} {q0 s : State} [Open F .regs] [Open F .out] [Open F .freeCnt] [Open F .ports] [Open F .tgs] [Open F .drives] [Open F .cmps] [Open F .life] [Open F .keeper] [Open F .acts] [Open F .maintSeq] (h : Keeps F q0 s) (k : Fin 16) (out : Bool) : KeepsOut F q0 (execMa0CheckEnd k out s) := by
  unfold execMa0CheckEnd
  repeat' first
    | with_reducible assumption
    | with_reducible apply keeps_ite
    | with_reducible apply keepsOut_next
    | (refine keepsOut_whileRuns ?_ ?_)
    | with_reducible apply keepsOut_ite
    | with_reducible apply keepsOut_fault
    | with_reducible apply State.ma0Check_keeps
    | split

theorem State.unitDone_keeps {F : Part → Prop} {q0 s : State} [Open F .acts] (h : Keeps F q0 s) (k : Nat) (u : Nat) (fail : Bool) : Keeps F q0 (State.unitDone s k u fail) := by
  unfold State.unitDone
  repeat' first
    | with_reducible assumption
    | with_reducible apply keeps_ite
    | with_reducible apply State.modAct_keeps
    | split

theorem State.dropDelays_keeps {F : Part → Prop} {q0 s : State} [Open F .ports] (h : Keeps F q0 s) (d : Nat) : Keeps F q0 (State.dropDelays s d) := by
  unfold State.dropDelays
  repeat' first
    | (intro i t ht)
    | with_reducible assumption
    | with_reducible apply keeps_ite
    | with_reducible apply State.modPort_keeps
    | with_reducible apply foldOver_keeps
    | split

theorem execMa1CalibrationEnd_keeps {F : Part → Prop} {q0 s : State} [Open F .regs] [Open F .out] [Open F .ports] [Open F .acts] [Open F .maintSeq] (h : Keeps F q0 s) (k : Fin 16) (found : Option (BitVec 16 × BitVec 16 × Vector (BitVec 8) 64)) : KeepsOut F q0 (execMa1CalibrationEnd k found s) := by
  unfold execMa1CalibrationEnd
  repeat' first
    | with_reducible assumption
    | with_reducible apply keeps_ite
    | with_reducible apply keepsOut_next
    | (refine keepsOut_whileRuns ?_ ?_)
    | with_reducible apply keepsOut_ite
    | with_reducible apply keepsOut_fault
    | (extract_lets -underBinder +onlyGivenNames xl; refine keeps_cut (F := F) (r := q0) (x := xl) (fun hx => ?_) ?_; (focus clear_value xl; rename' xl => y); rotate_left; (focus unfold xl; clear xl); rotate_left)
    | (extract_lets -underBinder +onlyGivenNames xl; clear_value xl; rename' xl => y)
    | with_reducible apply State.dropDelays_keeps
    | with_reducible apply State.unitDone_keeps
    | with_reducible apply State.ma1Finish_keeps
    | with_reducible apply State.endActivity_keeps
    | with_reducible apply State.loadDelays_keeps
    | with_reducible apply State.modPort_keeps
    | split

theorem execMa2CoreCalibrationEnd_keeps {F : Part → Prop} {q0 s : State} [Open F .regs] [Open F .mem] [Open F .out] [Open F .adcs] [Open F .life] [Open F .keeper] [Open F .acts] [Open F .maintSeq] (h : Keeps F q0 s) (k : Fin 16) (found : Option (BitVec 32 × BitVec 32)) : KeepsOut F q0 (execMa2CoreCalibrationEnd k found s) := by
  unfold execMa2CoreCalibrationEnd
  repeat' first
    | with_reducible assumption
    | with_reducible apply keeps_ite
    | with_reducible apply keepsOut_next
    | (refine keepsOut_whileRuns ?_ ?_)
    | with_reducible apply keepsOut_ite
    | with_reducible apply keepsOut_fault
    | (extract_lets -underBinder +onlyGivenNames xl; refine keeps_cut (F := F) (r := q0) (x := xl) (fun hx => ?_) ?_; (focus clear_value xl; rename' xl => y); rotate_left; (focus unfold xl; clear xl); rotate_left)
    | (extract_lets -underBinder +onlyGivenNames xl; clear_value xl; rename' xl => y)
    | with_reducible apply State.unitDone_keeps
    | with_reducible apply State.retireCore_keeps
    | with_reducible apply State.endActivity_keeps
    | with_reducible apply State.setB_keeps
    | with_reducible apply State.setReg_keeps
    | split

theorem State.applyBand_keeps {F : Part → Prop} {q0 s : State} [Open F .regs] [Open F .plls] [Open F .sys] [Open F .keeper] (h : Keeps F q0 s) (e : Die) (slots : List Nat) (band : Nat) (tj : Int) : Keeps F q0 (State.applyBand s e slots band tj) := by
  unfold State.applyBand
  repeat' first
    | with_reducible assumption
    | with_reducible apply keeps_ite
    | (extract_lets -underBinder +onlyGivenNames xl; refine keeps_cut (F := F) (r := q0) (x := xl) (fun hx => ?_) ?_; (focus clear_value xl; rename' xl => y); rotate_left; (focus unfold xl; clear xl); rotate_left)
    | (extract_lets -underBinder +onlyGivenNames xl; clear_value xl; rename' xl => y)
    | with_reducible apply State.commitBands_keeps
    | with_reducible apply State.writeBands_keeps
    | with_reducible apply State.modPll_keeps
    | with_reducible apply State.set_keeps
    | split

theorem execMa4SearchEnd_keeps {F : Part → Prop} {q0 s : State} [Open F .regs] [Open F .out] [Open F .plls] [Open F .hops] [Open F .sys] [Open F .keeper] [Open F .acts] [Open F .maintSeq] (h : Keeps F q0 s) (k : Fin 16) (band : BitVec 6) (tj : Int) (covers : Bool) : KeepsOut F q0 (execMa4SearchEnd k band tj covers s) := by
  unfold execMa4SearchEnd
  repeat' first
    | with_reducible assumption
    | with_reducible apply keeps_ite
    | with_reducible apply keepsOut_next
    | (refine keepsOut_whileRuns ?_ ?_)
    | with_reducible apply keepsOut_ite
    | with_reducible apply keepsOut_fault
    | (extract_lets -underBinder +onlyGivenNames xl; refine keeps_cut (F := F) (r := q0) (x := xl) (fun hx => ?_) ?_; (focus clear_value xl; rename' xl => y); rotate_left; (focus unfold xl; clear xl); rotate_left)
    | (extract_lets -underBinder +onlyGivenNames xl; clear_value xl; rename' xl => y)
    | with_reducible apply State.applyBand_keeps
    | with_reducible apply State.endActivity_keeps
    | with_reducible apply State.modHop_keeps
    | with_reducible apply State.setB_keeps
    | split

theorem execMa4BandApply_keeps {F : Part → Prop} {q0 s : State} [Open F .regs] [Open F .out] [Open F .plls] [Open F .hops] [Open F .sys] [Open F .keeper] [Open F .acts] [Open F .maintSeq] (h : Keeps F q0 s) (d : Fin 4) : KeepsOut F q0 (execMa4BandApply d s) := by
  unfold execMa4BandApply
  repeat' first
    | with_reducible assumption
    | with_reducible apply keeps_ite
    | with_reducible apply keepsOut_next
    | (refine keepsOut_whileRuns ?_ ?_)
    | with_reducible apply keepsOut_ite
    | with_reducible apply keepsOut_fault
    | (extract_lets -underBinder +onlyGivenNames xl; refine keeps_cut (F := F) (r := q0) (x := xl) (fun hx => ?_) ?_; (focus clear_value xl; rename' xl => y); rotate_left; (focus unfold xl; clear xl); rotate_left)
    | (extract_lets -underBinder +onlyGivenNames xl; clear_value xl; rename' xl => y)
    | with_reducible apply State.applyBand_keeps
    | with_reducible apply State.endActivity_keeps
    | with_reducible apply State.modHop_keeps
    | split

theorem State.laneReturn_keeps {F : Part → Prop} {q0 s : State} [Open F .regs] [Open F .out] [Open F .linkEnds] (h : Keeps F q0 s) (e : Die) (k : Nat) (f : Die) (q : Nat) (u : Nat) : Keeps F q0 (State.laneReturn s e k f q u) := by
  unfold State.laneReturn
  repeat' first
    | with_reducible assumption
    | with_reducible apply keeps_ite
    | (extract_lets -underBinder +onlyGivenNames xl; refine keeps_cut (F := F) (r := q0) (x := xl) (fun hx => ?_) ?_; (focus clear_value xl; rename' xl => y); rotate_left; (focus unfold xl; clear xl); rotate_left)
    | (extract_lets -underBinder +onlyGivenNames xl; clear_value xl; rename' xl => y)
    | with_reducible apply State.resend_keeps
    | with_reducible apply State.setLane_keeps
    | with_reducible apply State.incSat_keeps
    | split

theorem execMa5RetrainEnd_keeps {F : Part → Prop} {q0 s : State} [Open F .regs] [Open F .out] [Open F .linkEnds] [Open F .acts] [Open F .maintSeq] (h : Keeps F q0 s) (k : Fin 16) (ok : Bool) : KeepsOut F q0 (execMa5RetrainEnd k ok s) := by
  unfold execMa5RetrainEnd
  repeat' first
    | (intro i t ht)
    | with_reducible assumption
    | with_reducible apply keeps_ite
    | with_reducible apply keepsOut_next
    | (refine keepsOut_whileRuns ?_ ?_)
    | with_reducible apply keepsOut_ite
    | with_reducible apply keepsOut_fault
    | (extract_lets -underBinder +onlyGivenNames xl; refine keeps_cut (F := F) (r := q0) (x := xl) (fun hx => ?_) ?_; (focus clear_value xl; rename' xl => y); rotate_left; (focus unfold xl; clear xl); rotate_left)
    | (extract_lets -underBinder +onlyGivenNames xl; clear_value xl; rename' xl => y)
    | with_reducible apply State.laneReturn_keeps
    | with_reducible apply State.unitDone_keeps
    | with_reducible apply State.endActivity_keeps
    | with_reducible apply State.modAct_keeps
    | with_reducible apply foldOver_keeps
    | split

theorem State.rewriteRequest_keeps {F : Part → Prop} {q0 s : State} [Open F .regs] [Open F .keeper] (h : Keeps F q0 s) (c : Nat) : Keeps F q0 (State.rewriteRequest s c) := by
  unfold State.rewriteRequest
  repeat' first
    | with_reducible assumption
    | with_reducible apply keeps_ite
    | (extract_lets -underBinder +onlyGivenNames xl; refine keeps_cut (F := F) (r := q0) (x := xl) (fun hx => ?_) ?_; (focus clear_value xl; rename' xl => y); rotate_left; (focus unfold xl; clear xl); rotate_left)
    | (extract_lets -underBinder +onlyGivenNames xl; clear_value xl; rename' xl => y)
    | with_reducible apply State.modKeeper_keeps
    | with_reducible apply State.orBits_keeps
    | split

theorem State.ma6Start_keeps {F : Part → Prop} {q0 s : State} [Open F .regs] [Open F .keeper] (h : Keeps F q0 s)  : Keeps F q0 (State.ma6Start s) := by
  unfold State.ma6Start
  repeat' first
    | (intro i t ht)
    | with_reducible assumption
    | with_reducible apply keeps_ite
    | (extract_lets -underBinder +onlyGivenNames xl; refine keeps_cut (F := F) (r := q0) (x := xl) (fun hx => ?_) ?_; (focus clear_value xl; rename' xl => y); rotate_left; (focus unfold xl; clear xl); rotate_left)
    | (extract_lets -underBinder +onlyGivenNames xl; clear_value xl; rename' xl => y)
    | with_reducible apply State.rewriteRequest_keeps
    | with_reducible apply State.modKeeper_keeps
    | with_reducible apply foldl_keeps
    | split

theorem State.ma6Burst_keeps {F : Part → Prop} {q0 s : State} [Open F .regs] [Open F .out] [Open F .keeper] [Open F .acts] [Open F .maintSeq] (h : Keeps F q0 s) (c : Nat) : Keeps F q0 (State.ma6Burst s c) := by
  unfold State.ma6Burst
  repeat' first
    | with_reducible assumption
    | with_reducible apply keeps_ite
    | (extract_lets -underBinder +onlyGivenNames xl; refine keeps_cut (F := F) (r := q0) (x := xl) (fun hx => ?_) ?_; (focus clear_value xl; rename' xl => y); rotate_left; (focus unfold xl; clear xl); rotate_left)
    | (extract_lets -underBinder +onlyGivenNames xl; clear_value xl; rename' xl => y)
    | with_reducible apply State.rewriteRequest_keeps
    | with_reducible apply State.endKeeper_keeps
    | with_reducible apply State.modKeeper_keeps
    | split

theorem State.ma6Drop_keeps {F : Part → Prop} {q0 s : State} [Open F .regs] [Open F .keeper] (h : Keeps F q0 s)  : Keeps F q0 (State.ma6Drop s) := by
  unfold State.ma6Drop
  repeat' first
    | with_reducible assumption
    | with_reducible apply keeps_ite
    | (extract_lets -underBinder +onlyGivenNames xl; refine keeps_cut (F := F) (r := q0) (x := xl) (fun hx => ?_) ?_; (focus clear_value xl; rename' xl => y); rotate_left; (focus unfold xl; clear xl); rotate_left)
    | (extract_lets -underBinder +onlyGivenNames xl; clear_value xl; rename' xl => y)
    | with_reducible apply State.modKeeper_keeps
    | with_reducible apply State.clrBits_keeps
    | split

theorem execMa7End_keeps {F : Part → Prop} {q0 s : State} [Open F .regs] [Open F .out] [Open F .keeper] [Open F .acts] [Open F .maintSeq] (h : Keeps F q0 s) (dv : Nat) (t : Nat) : KeepsOut F q0 (execMa7End dv t s) := by
  unfold execMa7End
  repeat' first
    | with_reducible assumption
    | with_reducible apply keeps_ite
    | with_reducible apply keepsOut_next
    | (refine keepsOut_whileRuns ?_ ?_)
    | with_reducible apply keepsOut_ite
    | with_reducible apply keepsOut_fault
    | (extract_lets -underBinder +onlyGivenNames xl; refine keeps_cut (F := F) (r := q0) (x := xl) (fun hx => ?_) ?_; (focus clear_value xl; rename' xl => y); rotate_left; (focus unfold xl; clear xl); rotate_left)
    | (extract_lets -underBinder +onlyGivenNames xl; clear_value xl; rename' xl => y)
    | with_reducible apply State.burstOver_keeps
    | with_reducible apply State.endKeeper_keeps
    | with_reducible apply State.setB_keeps
    | with_reducible apply State.set_keeps
    | split

theorem State.startActivity_keeps {F : Part → Prop} {q0 s : State} [Open F .regs] [Open F .out] [Open F .freeCnt] [Open F .ports] [Open F .tgs] [Open F .drives] [Open F .cmps] [Open F .keeper] [Open F .crcs] [Open F .acts] [Open F .maintSeq] (h : Keeps F q0 s) (k : Nat) (a : ActKey) : Keeps F q0 (State.startActivity s k a) := by
  unfold State.startActivity
  repeat' first
    | (intro i t ht)
    | with_reducible assumption
    | with_reducible apply keeps_ite
    | (extract_lets -underBinder +onlyGivenNames xl; refine keeps_cut (F := F) (r := q0) (x := xl) (fun hx => ?_) ?_; (focus clear_value xl; rename' xl => y); rotate_left; (focus unfold xl; clear xl); rotate_left)
    | (extract_lets -underBinder +onlyGivenNames xl; clear_value xl; rename' xl => y)
    | with_reducible apply State.ma6Start_keeps
    | with_reducible apply State.ma0Seek_keeps
    | with_reducible apply State.modKeeper_keeps
    | with_reducible apply State.crcStart_keeps
    | with_reducible apply State.endActivity_keeps
    | with_reducible apply State.takeSlot_keeps
    | with_reducible apply State.setB_keeps
    | with_reducible apply foldl_keeps
    | split

theorem State.maintRequest_keeps {F : Part → Prop} {q0 s : State} [Open F .regs] [Open F .out] [Open F .freeCnt] [Open F .ports] [Open F .tgs] [Open F .drives] [Open F .cmps] [Open F .keeper] [Open F .crcs] [Open F .acts] [Open F .maintSeq] (h : Keeps F q0 s) (unit : Nat) (die : Nat) (code : Nat) : Keeps F q0 (State.maintRequest s unit die code).2 := by
  unfold State.maintRequest
  repeat' first
    | with_reducible assumption
    | with_reducible apply keeps_ite
    | with_reducible apply keeps_ite_snd
    | (extract_lets -underBinder +onlyGivenNames xl; refine keeps_cut (F := F) (r := q0) (x := xl) (fun hx => ?_) ?_; (focus clear_value xl; rename' xl => y); rotate_left; (focus unfold xl; clear xl); rotate_left)
    | (extract_lets -underBinder +onlyGivenNames xl; clear_value xl; rename' xl => y)
    | with_reducible apply State.startActivity_keeps
    | with_reducible apply State.setB_keeps
    | with_reducible apply State.set_keeps
    | split
    | dsimp only

theorem State.requestWord_keeps {F : Part → Prop} {q0 s : State} [Open F .regs] [Open F .out] [Open F .freeCnt] [Open F .ports] [Open F .tgs] [Open F .drives] [Open F .cmps] [Open F .keeper] [Open F .crcs] [Open F .acts] [Open F .maintSeq] (h : Keeps F q0 s) (w : Nat) : Keeps F q0 (State.requestWord s w).2 := by
  unfold State.requestWord
  repeat' first
    | with_reducible assumption
    | with_reducible apply keeps_ite
    | with_reducible apply keeps_ite_snd
    | with_reducible apply State.maintRequest_keeps
    | split
    | dsimp only

theorem execMaintRequest_keeps {F : Part → Prop} {q0 s : State} [Open F .regs] [Open F .out] [Open F .freeCnt] [Open F .ports] [Open F .tgs] [Open F .drives] [Open F .cmps] [Open F .keeper] [Open F .crcs] [Open F .acts] [Open F .maintSeq] (h : Keeps F q0 s) (unit : BitVec 8) (die : BitVec 4) (code : BitVec 4) : KeepsOut F q0 (execMaintRequest unit die code s) := by
  unfold execMaintRequest
  repeat' first
    | with_reducible assumption
    | with_reducible apply keeps_ite
    | with_reducible apply keepsOut_next
    | (refine keepsOut_whileRuns ?_ ?_)
    | with_reducible apply keepsOut_ite
    | with_reducible apply keepsOut_fault
    | with_reducible apply State.maintRequest_keeps
    | split

theorem State.cancelSlot_keeps {F : Part → Prop} {q0 s : State} [Open F .regs] [Open F .out] [Open F .hops] [Open F .ports] [Open F .keeper] [Open F .crcs] [Open F .acts] [Open F .maintSeq] (h : Keeps F q0 s) (k : Nat) : Keeps F q0 (State.cancelSlot s k) := by
  unfold State.cancelSlot
  repeat' first
    | with_reducible assumption
    | with_reducible apply keeps_ite
    | (extract_lets -underBinder +onlyGivenNames xl; refine keeps_cut (F := F) (r := q0) (x := xl) (fun hx => ?_) ?_; (focus clear_value xl; rename' xl => y); rotate_left; (focus unfold xl; clear xl); rotate_left)
    | (extract_lets -underBinder +onlyGivenNames xl; clear_value xl; rename' xl => y)
    | with_reducible apply State.ma6Drop_keeps
    | with_reducible apply State.dropDelays_keeps
    | with_reducible apply State.burstOver_keeps
    | with_reducible apply State.endKeeper_keeps
    | with_reducible apply State.crcStop_keeps
    | with_reducible apply State.endActivity_keeps
    | with_reducible apply State.modAct_keeps
    | with_reducible apply State.modHop_keeps
    | split

theorem execCancel_keeps {F : Part → Prop} {q0 s : State} [Open F .regs] [Open F .out] [Open F .hops] [Open F .ports] [Open F .keeper] [Open F .crcs] [Open F .acts] [Open F .maintSeq] (h : Keeps F q0 s) (k : Fin 16) : KeepsOut F q0 (execCancel k s) := by
  unfold execCancel
  repeat' first
    | with_reducible assumption
    | with_reducible apply keeps_ite
    | with_reducible apply keepsOut_next
    | (refine keepsOut_whileRuns ?_ ?_)
    | with_reducible apply keepsOut_ite
    | with_reducible apply keepsOut_fault
    | with_reducible apply State.cancelSlot_keeps
    | split

theorem State.retireDrive_keeps {F : Part → Prop} {q0 s : State} [Open F .regs] [Open F .ports] [Open F .tgs] [Open F .drives] [Open F .cles] [Open F .life] [Open F .keeper] [Open F .grids] [Open F .gridS] [Open F .cycles] [Open F .crcs] (h : Keeps F q0 s) (d : Nat) : Keeps F q0 (State.retireDrive s d) := by
  unfold State.retireDrive
  repeat' first
    | with_reducible assumption
    | with_reducible apply keeps_ite
    | with_reducible apply State.startMerge_keeps
    | with_reducible apply State.retireDie_keeps
    | split

theorem State.runGuardTest_keeps {F : Part → Prop} {q0 s : State} [Open F .regs] [Open F .ports] [Open F .tgs] [Open F .drives] [Open F .cles] [Open F .life] [Open F .sys] [Open F .keeper] [Open F .grids] [Open F .gridS] [Open F .cycles] [Open F .crcs] [Open F .safety] (h : Keeps F q0 s) (ack : BitVec 4) : Keeps F q0 (State.runGuardTest s ack) := by
  unfold State.runGuardTest
  repeat' first
    | with_reducible assumption
    | with_reducible apply keeps_ite
    | (extract_lets -underBinder +onlyGivenNames xl; refine keeps_cut (F := F) (r := q0) (x := xl) (fun hx => ?_) ?_; (focus clear_value xl; rename' xl => y); rotate_left; (focus unfold xl; clear xl); rotate_left)
    | (extract_lets -underBinder +onlyGivenNames xl; clear_value xl; rename' xl => y)
    | with_reducible apply State.startMerge_keeps
    | with_reducible apply State.guardTest_keeps
    | split

theorem execGuardTest_keeps {F : Part → Prop} {q0 s : State} [Open F .regs] [Open F .ports] [Open F .tgs] [Open F .drives] [Open F .cles] [Open F .life] [Open F .sys] [Open F .keeper] [Open F .grids] [Open F .gridS] [Open F .cycles] [Open F .crcs] [Open F .safety] (h : Keeps F q0 s) (ack : BitVec 4) : KeepsOut F q0 (execGuardTest ack s) := by
  unfold execGuardTest
  repeat' first
    | with_reducible assumption
    | with_reducible apply keeps_ite
    | with_reducible apply keepsOut_next
    | (refine keepsOut_whileRuns ?_ ?_)
    | with_reducible apply keepsOut_ite
    | with_reducible apply keepsOut_fault
    | with_reducible apply State.runGuardTest_keeps
    | split

theorem execDriveDieRetire_keeps {F : Part → Prop} {q0 s : State} [Open F .regs] [Open F .ports] [Open F .tgs] [Open F .drives] [Open F .cles] [Open F .life] [Open F .keeper] [Open F .grids] [Open F .gridS] [Open F .cycles] [Open F .crcs] (h : Keeps F q0 s) (d : Fin 4) : KeepsOut F q0 (execDriveDieRetire d s) := by
  unfold execDriveDieRetire
  repeat' first
    | with_reducible assumption
    | with_reducible apply keeps_ite
    | with_reducible apply keepsOut_next
    | (refine keepsOut_whileRuns ?_ ?_)
    | with_reducible apply keepsOut_ite
    | with_reducible apply keepsOut_fault
    | with_reducible apply State.retireDrive_keeps
    | split

end Sys2Proof.Machine
end

