-- ==== Sys2Proof/Laws/KeepsPeriod.lean ====
section
/-! SUPPORT.  What the operations of Machine/Period.lean keep. -/

set_option linter.unusedTactic false
set_option linter.unreachableTactic false
set_option linter.unusedVariables false
set_option linter.unnecessarySeqFocus false

namespace Sys2Proof.Machine

theorem State.commandPeriod_keeps {F : Part → Prop} {q0 s : State} [Open F .regs] [Open F .out] [Open F .adcs] (h : Keeps F q0 s) (d : Nat) (n : Nat) : Keeps F q0 (State.commandPeriod s d n) := by
  unfold State.commandPeriod
  repeat' first
    | with_reducible assumption
    | with_reducible apply keeps_ite
    | (extract_lets -underBinder +onlyGivenNames xl; refine keeps_cut (F := F) (r := q0) (x := xl) (fun hx => ?_) ?_; (focus clear_value xl; rename' xl => y); rotate_left; (focus unfold xl; clear xl); rotate_left)
    | (extract_lets -underBinder +onlyGivenNames xl; clear_value xl; rename' xl => y)
    | with_reducible apply State.sendReports_keeps
    | with_reducible apply State.sendStateRecord_keeps
    | with_reducible apply State.send_keeps
    | with_reducible apply State.set_keeps
    | split

theorem State.piStart_keeps {F : Part → Prop} {q0 s : State} [Open F .regs] [Open F .pis] (h : Keeps F q0 s) (d : Nat) (k : Nat) (n : Nat) : Keeps F q0 (State.piStart s d k n) := by
  unfold State.piStart
  repeat' first
    | (intro i t ht)
    | with_reducible assumption
    | with_reducible apply keeps_ite
    | (extract_lets -underBinder +onlyGivenNames xl; refine keeps_cut (F := F) (r := q0) (x := xl) (fun hx => ?_) ?_; (focus clear_value xl; rename' xl => y); rotate_left; (focus unfold xl; clear xl); rotate_left)
    | (extract_lets -underBinder +onlyGivenNames xl; clear_value xl; rename' xl => y)
    | with_reducible apply State.piBoundary_keeps
    | with_reducible apply State.piEncoder_keeps
    | with_reducible apply State.modPi_keeps
    | with_reducible apply foldOver_keeps
    | split

theorem State.carrierStart_keeps {F : Part → Prop} {q0 s : State} [Open F .regs] [Open F .mem] [Open F .groups] [Open F .ports] [Open F .tgs] [Open F .drives] (h : Keeps F q0 s) (d : Nat) (k : Nat) (first : Bool) : Keeps F q0 (State.carrierStart s d k first) := by
  unfold State.carrierStart
  repeat' first
    | (intro i t ht)
    | with_reducible assumption
    | with_reducible apply keeps_ite
    | (extract_lets -underBinder +onlyGivenNames xl; refine keeps_cut (F := F) (r := q0) (x := xl) (fun hx => ?_) ?_; (focus clear_value xl; rename' xl => y); rotate_left; (focus unfold xl; clear xl); rotate_left)
    | (extract_lets -underBinder +onlyGivenNames xl; clear_value xl; rename' xl => y)
    | with_reducible apply State.carrierLatches_keeps
    | with_reducible apply State.modGrp_keeps
    | with_reducible apply State.modPort_keeps
    | with_reducible apply foldOver_keeps
    | split

theorem State.carrierReturn_keeps {F : Part → Prop} {q0 s : State} [Open F .regs] [Open F .plls] [Open F .hops] (h : Keeps F q0 s) (d : Nat) (k : Nat) : Keeps F q0 (State.carrierReturn s d k) := by
  unfold State.carrierReturn
  repeat' first
    | with_reducible assumption
    | with_reducible apply keeps_ite
    | with_reducible apply State.hopReturn_keeps
    | split

theorem State.carrierHop_keeps {F : Part → Prop} {q0 s : State} [Open F .regs] (h : Keeps F q0 s) (d : Nat) (k : Nat) : Keeps F q0 (State.carrierHop s d k) := by
  unfold State.carrierHop
  repeat' first
    | with_reducible assumption
    | with_reducible apply keeps_ite
    | with_reducible apply State.refreshHopNext_keeps
    | split

theorem State.periodStart_keeps {F : Part → Prop} {q0 s : State} [Open F .regs] [Open F .mem] [Open F .out] [Open F .freeCnt] [Open F .plls] [Open F .hops] [Open F .groups] [Open F .ports] [Open F .tgs] [Open F .drives] [Open F .adcs] [Open F .pis] [Open F .cles] [Open F .grids] [Open F .acts] [Open F .maintSeq] (h : Keeps F q0 s) (d : Nat) (k : Nat) (carrier : Bool) (first : Bool) : Keeps F q0 (State.periodStart s d k carrier first) := by
  unfold State.periodStart
  repeat' first
    | (intro i t ht)
    | with_reducible assumption
    | with_reducible apply keeps_ite
    | (extract_lets -underBinder +onlyGivenNames xl; refine keeps_cut (F := F) (r := q0) (x := xl) (fun hx => ?_) ?_; (focus clear_value xl; rename' xl => y); rotate_left; (focus unfold xl; clear xl); rotate_left)
    | (extract_lets -underBinder +onlyGivenNames xl; clear_value xl; rename' xl => y)
    | with_reducible apply State.carrierHop_keeps
    | with_reducible apply State.carrierReturn_keeps
    | with_reducible apply State.carrierStart_keeps
    | with_reducible apply State.piStart_keeps
    | with_reducible apply State.commandPeriod_keeps
    | with_reducible apply State.gsuBoundary_keeps
    | with_reducible apply State.cleBoundary_keeps
    | with_reducible apply State.sourceTicks_keeps
    | with_reducible apply State.ma1Finish_keeps
    | with_reducible apply State.loadDelays_keeps
    | with_reducible apply State.checkStatics_keeps
    | with_reducible apply State.modGrp_keeps
    | with_reducible apply State.incMod_keeps
    | with_reducible apply foldOver_keeps
    | split

theorem State.boundaryAt_keeps {F : Part → Prop} {q0 s : State} [Open F .regs] [Open F .mem] [Open F .out] [Open F .freeCnt] [Open F .plls] [Open F .hops] [Open F .groups] [Open F .ports] [Open F .tgs] [Open F .drives] [Open F .adcs] [Open F .pis] [Open F .cles] [Open F .grids] [Open F .acts] [Open F .maintSeq] (h : Keeps F q0 s) (d : Nat) (k : Nat) (carrier : Bool) : Keeps F q0 (State.boundaryAt s d k carrier) := by
  unfold State.boundaryAt
  repeat' first
    | with_reducible assumption
    | with_reducible apply keeps_ite
    | (extract_lets -underBinder +onlyGivenNames xl; refine keeps_cut (F := F) (r := q0) (x := xl) (fun hx => ?_) ?_; (focus clear_value xl; rename' xl => y); rotate_left; (focus unfold xl; clear xl); rotate_left)
    | (extract_lets -underBinder +onlyGivenNames xl; clear_value xl; rename' xl => y)
    | with_reducible apply State.periodStart_keeps
    | with_reducible apply State.keepFalls_keeps
    | with_reducible apply State.transfer_keeps
    | split

theorem State.stopAt_keeps {F : Part → Prop} {q0 s : State} [Open F .regs] [Open F .out] [Open F .plls] [Open F .hops] [Open F .groups] [Open F .ports] [Open F .tgs] [Open F .drives] [Open F .acts] [Open F .maintSeq] (h : Keeps F q0 s) (d : Nat) (k : Nat) : Keeps F q0 (State.stopAt s d k) := by
  unfold State.stopAt
  repeat' first
    | with_reducible assumption
    | with_reducible apply keeps_ite
    | with_reducible apply State.ma1Finish_keeps
    | with_reducible apply State.stopCounter_keeps
    | split

theorem execPwmGroupStart_keeps {F : Part → Prop} {q0 s : State} [Open F .regs] [Open F .mem] [Open F .out] [Open F .freeCnt] [Open F .plls] [Open F .hops] [Open F .groups] [Open F .ports] [Open F .tgs] [Open F .drives] [Open F .adcs] [Open F .pis] [Open F .cles] [Open F .grids] [Open F .acts] [Open F .maintSeq] (h : Keeps F q0 s) (d : Fin 4) (k : Fin 4) : KeepsOut F q0 (execPwmGroupStart d k s) := by
  unfold execPwmGroupStart
  repeat' first
    | with_reducible assumption
    | with_reducible apply keeps_ite
    | with_reducible apply keepsOut_next
    | (refine keepsOut_whileRuns ?_ ?_)
    | with_reducible apply keepsOut_ite
    | with_reducible apply keepsOut_fault
    | (extract_lets -underBinder +onlyGivenNames xl; refine keeps_cut (F := F) (r := q0) (x := xl) (fun hx => ?_) ?_; (focus clear_value xl; rename' xl => y); rotate_left; (focus unfold xl; clear xl); rotate_left)
    | (extract_lets -underBinder +onlyGivenNames xl; clear_value xl; rename' xl => y)
    | with_reducible apply State.periodStart_keeps
    | with_reducible apply State.startCounter_keeps
    | with_reducible apply State.transfer_keeps
    | with_reducible apply State.modGrp_keeps
    | split

theorem execControlPeriodBoundary_keeps {F : Part → Prop} {q0 s : State} [Open F .regs] [Open F .mem] [Open F .out] [Open F .freeCnt] [Open F .plls] [Open F .hops] [Open F .groups] [Open F .ports] [Open F .tgs] [Open F .drives] [Open F .adcs] [Open F .pis] [Open F .cles] [Open F .grids] [Open F .acts] [Open F .maintSeq] (h : Keeps F q0 s) (d : Fin 4) (k : Fin 4) : KeepsOut F q0 (execControlPeriodBoundary d k s) := by
  unfold execControlPeriodBoundary
  repeat' first
    | with_reducible assumption
    | with_reducible apply keeps_ite
    | with_reducible apply keepsOut_next
    | (refine keepsOut_whileRuns ?_ ?_)
    | with_reducible apply keepsOut_ite
    | with_reducible apply keepsOut_fault
    | (extract_lets -underBinder +onlyGivenNames xl; refine keeps_cut (F := F) (r := q0) (x := xl) (fun hx => ?_) ?_; (focus clear_value xl; rename' xl => y); rotate_left; (focus unfold xl; clear xl); rotate_left)
    | (extract_lets -underBinder +onlyGivenNames xl; clear_value xl; rename' xl => y)
    | with_reducible apply State.stopAt_keeps
    | with_reducible apply State.boundaryAt_keeps
    | with_reducible apply State.setB_keeps
    | with_reducible apply State.set_keeps
    | split

theorem State.endVariable_keeps {F : Part → Prop} {q0 s : State} [Open F .regs] [Open F .mem] [Open F .out] [Open F .freeCnt] [Open F .plls] [Open F .hops] [Open F .groups] [Open F .ports] [Open F .tgs] [Open F .drives] [Open F .adcs] [Open F .pis] [Open F .cles] [Open F .grids] [Open F .acts] [Open F .maintSeq] (h : Keeps F q0 s) (d : Nat) (k : Nat) : Keeps F q0 (State.endVariable s d k) := by
  unfold State.endVariable
  repeat' first
    | with_reducible assumption
    | with_reducible apply keeps_ite
    | (extract_lets -underBinder +onlyGivenNames xl; refine keeps_cut (F := F) (r := q0) (x := xl) (fun hx => ?_) ?_; (focus clear_value xl; rename' xl => y); rotate_left; (focus unfold xl; clear xl); rotate_left)
    | (extract_lets -underBinder +onlyGivenNames xl; clear_value xl; rename' xl => y)
    | with_reducible apply State.stopAt_keeps
    | with_reducible apply State.boundaryAt_keeps
    | with_reducible apply State.set_keeps
    | split

theorem execVpTriggerEdge_keeps {F : Part → Prop} {q0 s : State} [Open F .regs] [Open F .mem] [Open F .out] [Open F .freeCnt] [Open F .plls] [Open F .hops] [Open F .groups] [Open F .ports] [Open F .tgs] [Open F .drives] [Open F .adcs] [Open F .pis] [Open F .cles] [Open F .grids] [Open F .acts] [Open F .maintSeq] (h : Keeps F q0 s) (d : Fin 4) (k : Fin 4) : KeepsOut F q0 (execVpTriggerEdge d k s) := by
  unfold execVpTriggerEdge
  repeat' first
    | with_reducible assumption
    | with_reducible apply keeps_ite
    | with_reducible apply keepsOut_next
    | (refine keepsOut_whileRuns ?_ ?_)
    | with_reducible apply keepsOut_ite
    | with_reducible apply keepsOut_fault
    | with_reducible apply State.endVariable_keeps
    | with_reducible apply State.modGrp_keeps
    | split

theorem execVpTimeout_keeps {F : Part → Prop} {q0 s : State} [Open F .regs] [Open F .mem] [Open F .out] [Open F .freeCnt] [Open F .plls] [Open F .hops] [Open F .groups] [Open F .ports] [Open F .tgs] [Open F .drives] [Open F .adcs] [Open F .pis] [Open F .cles] [Open F .grids] [Open F .acts] [Open F .maintSeq] (h : Keeps F q0 s) (d : Fin 4) (k : Fin 4) : KeepsOut F q0 (execVpTimeout d k s) := by
  unfold execVpTimeout
  repeat' first
    | with_reducible assumption
    | with_reducible apply keeps_ite
    | with_reducible apply keepsOut_next
    | (refine keepsOut_whileRuns ?_ ?_)
    | with_reducible apply keepsOut_ite
    | with_reducible apply keepsOut_fault
    | with_reducible apply State.endVariable_keeps
    | with_reducible apply State.setB_keeps
    | split

theorem execTimeEventArrival_keeps {F : Part → Prop} {q0 s : State} [Open F .regs] [Open F .mem] [Open F .out] [Open F .groups] [Open F .adcs] (h : Keeps F q0 s) (d : Fin 4) : KeepsOut F q0 (execTimeEventArrival d s) := by
  unfold execTimeEventArrival
  repeat' first
    | (intro i t ht)
    | with_reducible assumption
    | with_reducible apply keeps_ite
    | with_reducible apply keepsOut_next
    | (refine keepsOut_whileRuns ?_ ?_)
    | with_reducible apply keepsOut_ite
    | with_reducible apply keepsOut_fault
    | (extract_lets -underBinder +onlyGivenNames xl; refine keeps_cut (F := F) (r := q0) (x := xl) (fun hx => ?_) ?_; (focus clear_value xl; rename' xl => y); rotate_left; (focus unfold xl; clear xl); rotate_left)
    | (extract_lets -underBinder +onlyGivenNames xl; clear_value xl; rename' xl => y)
    | with_reducible apply State.sourceTicks_keeps
    | with_reducible apply State.modGrp_keeps
    | with_reducible apply foldOver_keeps
    | split

theorem State.captureTtime_keeps {F : Part → Prop} {q0 s : State} [Open F .drives] (h : Keeps F q0 s) (d : Nat) : Keeps F q0 (State.captureTtime s d) := by
  unfold State.captureTtime
  repeat' first
    | with_reducible assumption
    | with_reducible apply keeps_ite
    | (extract_lets -underBinder +onlyGivenNames xl; refine keeps_cut (F := F) (r := q0) (x := xl) (fun hx => ?_) ?_; (focus clear_value xl; rename' xl => y); rotate_left; (focus unfold xl; clear xl); rotate_left)
    | (extract_lets -underBinder +onlyGivenNames xl; clear_value xl; rename' xl => y)
    | with_reducible apply State.modDrive_keeps
    | split

theorem execTtimeLoRead_keeps {F : Part → Prop} {q0 s : State} [Open F .out] [Open F .drives] (h : Keeps F q0 s) (d : Fin 4) : KeepsOut F q0 (execTtimeLoRead d s) := by
  unfold execTtimeLoRead
  repeat' first
    | with_reducible assumption
    | with_reducible apply keeps_ite
    | with_reducible apply keepsOut_next
    | (refine keepsOut_whileRuns ?_ ?_)
    | with_reducible apply keepsOut_ite
    | with_reducible apply keepsOut_fault
    | with_reducible apply State.captureTtime_keeps
    | with_reducible apply State.send_keeps
    | split

end Sys2Proof.Machine
end

