-- ==== Sys2Proof/Laws/KeepsStops.lean ====
section
/-! SUPPORT.  What the operations of Machine/Stops.lean keep. -/

set_option linter.unusedTactic false
set_option linter.unreachableTactic false
set_option linter.unusedVariables false
set_option linter.unnecessarySeqFocus false

namespace Sys2Proof.Machine

theorem State.modPower_keeps {F : Part → Prop} {q0 s : State} [Open F .power] (h : Keeps F q0 s) (f : Power → Power) : Keeps F q0 (State.modPower s f) := by
  unfold State.modPower
  repeat' first
    | with_reducible assumption
    | with_reducible apply keeps_ite
    | split
    | refine Keeps.power ?_ _

theorem State.resetMain_keeps {F : Part → Prop} {r s : State} [Open F .regs] [Open F .copies] [Open F .mem] [Open F .linkEnds] [Open F .rsBlocks] [Open F .plls] [Open F .hops] [Open F .groups] [Open F .ports] [Open F .tgs] [Open F .drives] [Open F .adcs] [Open F .cmps] [Open F .pis] [Open F .cles] [Open F .life] [Open F .power] [Open F .grids] [Open F .gridS] [Open F .cycles] [Open F .crcs] [Open F .acts] [Open F .maintSeq] [Open F .meters] [Open F .vars] [Open F .cmds] [Open F .arb] [Open F .safety] [Open F .net] [Open F .flows] [Open F .dict] (h : Keeps F r s) : Keeps F r (State.resetMain s) := by
  refine ⟨h.pending, fun hc => ?_, fun p hp => by cases p <;> first | exact absurd hp (Open.no (F := F)) | exact h.same _ hp⟩
  obtain ⟨h1, h2, -, -⟩ := h.canonical hc
  exact ⟨Assoc.sorted_filter _ _ h1, fun c hm => h2 c (List.mem_filter.1 hm).1, rfl, rfl⟩

theorem State.recordUncontrolled_keeps {F : Part → Prop} {q0 s : State} [Open F .regs] [Open F .life] [Open F .sys] [Open F .keeper] (h : Keeps F q0 s)  : Keeps F q0 (State.recordUncontrolled s) := by
  unfold State.recordUncontrolled
  repeat' first
    | with_reducible assumption
    | with_reducible apply keeps_ite
    | (extract_lets -underBinder +onlyGivenNames xl; refine keeps_cut (F := F) (r := q0) (x := xl) (fun hx => ?_) ?_; (focus clear_value xl; rename' xl => y); rotate_left; (focus unfold xl; clear xl); rotate_left)
    | (extract_lets -underBinder +onlyGivenNames xl; clear_value xl; rename' xl => y)
    | with_reducible apply State.modSys_keeps
    | with_reducible apply State.enterFault_keeps
    | with_reducible apply State.countEvent_keeps
    | split

theorem State.mainReset_keeps {F : Part → Prop} {q0 s : State} [Open F .regs] [Open F .copies] [Open F .mem] [Open F .linkEnds] [Open F .rsBlocks] [Open F .plls] [Open F .hops] [Open F .groups] [Open F .ports] [Open F .tgs] [Open F .drives] [Open F .adcs] [Open F .cmps] [Open F .pis] [Open F .cles] [Open F .life] [Open F .sys] [Open F .power] [Open F .keeper] [Open F .grids] [Open F .gridS] [Open F .cycles] [Open F .crcs] [Open F .acts] [Open F .maintSeq] [Open F .meters] [Open F .vars] [Open F .cmds] [Open F .arb] [Open F .safety] [Open F .net] [Open F .flows] [Open F .dict] (h : Keeps F q0 s)  : Keeps F q0 (State.mainReset s) := by
  unfold State.mainReset
  repeat' first
    | with_reducible assumption
    | with_reducible apply keeps_ite
    | with_reducible apply State.recordUncontrolled_keeps
    | with_reducible apply State.resetMain_keeps
    | split

theorem execMainDomainsGood_keeps {F : Part → Prop} {q0 s : State} [Open F .power] (h : Keeps F q0 s)  : KeepsOut F q0 (execMainDomainsGood s) := by
  unfold execMainDomainsGood
  repeat' first
    | with_reducible assumption
    | with_reducible apply keeps_ite
    | with_reducible apply keepsOut_next
    | (refine keepsOut_whileRuns ?_ ?_)
    | with_reducible apply keepsOut_ite
    | with_reducible apply keepsOut_fault
    | with_reducible apply State.modPower_keeps
    | split

theorem execMainSupplyFall_keeps {F : Part → Prop} {q0 s : State} [Open F .regs] [Open F .copies] [Open F .mem] [Open F .linkEnds] [Open F .rsBlocks] [Open F .plls] [Open F .hops] [Open F .groups] [Open F .ports] [Open F .tgs] [Open F .drives] [Open F .adcs] [Open F .cmps] [Open F .pis] [Open F .cles] [Open F .life] [Open F .sys] [Open F .power] [Open F .keeper] [Open F .grids] [Open F .gridS] [Open F .cycles] [Open F .crcs] [Open F .acts] [Open F .maintSeq] [Open F .meters] [Open F .vars] [Open F .cmds] [Open F .arb] [Open F .safety] [Open F .net] [Open F .flows] [Open F .dict] (h : Keeps F q0 s) (vdd18 : Bool) : KeepsOut F q0 (execMainSupplyFall vdd18 s) := by
  unfold execMainSupplyFall
  repeat' first
    | with_reducible assumption
    | with_reducible apply keeps_ite
    | with_reducible apply keepsOut_next
    | (refine keepsOut_whileRuns ?_ ?_)
    | with_reducible apply keepsOut_ite
    | with_reducible apply keepsOut_fault
    | with_reducible apply State.mainReset_keeps
    | with_reducible apply State.modPower_keeps
    | split

theorem execResetNLow_keeps {F : Part → Prop} {q0 s : State} [Open F .regs] [Open F .copies] [Open F .mem] [Open F .linkEnds] [Open F .rsBlocks] [Open F .plls] [Open F .hops] [Open F .groups] [Open F .ports] [Open F .tgs] [Open F .drives] [Open F .adcs] [Open F .cmps] [Open F .pis] [Open F .cles] [Open F .life] [Open F .sys] [Open F .power] [Open F .keeper] [Open F .grids] [Open F .gridS] [Open F .cycles] [Open F .crcs] [Open F .acts] [Open F .maintSeq] [Open F .meters] [Open F .vars] [Open F .cmds] [Open F .arb] [Open F .safety] [Open F .net] [Open F .flows] [Open F .dict] (h : Keeps F q0 s)  : KeepsOut F q0 (execResetNLow s) := by
  unfold execResetNLow
  repeat' first
    | with_reducible assumption
    | with_reducible apply keeps_ite
    | with_reducible apply keepsOut_next
    | (refine keepsOut_whileRuns ?_ ?_)
    | with_reducible apply keepsOut_ite
    | with_reducible apply keepsOut_fault
    | with_reducible apply State.mainReset_keeps
    | split

theorem execTestEnChange_keeps {F : Part → Prop} {q0 s : State} [Open F .regs] [Open F .copies] [Open F .mem] [Open F .linkEnds] [Open F .rsBlocks] [Open F .plls] [Open F .hops] [Open F .groups] [Open F .ports] [Open F .tgs] [Open F .drives] [Open F .adcs] [Open F .cmps] [Open F .pis] [Open F .cles] [Open F .life] [Open F .sys] [Open F .power] [Open F .keeper] [Open F .grids] [Open F .gridS] [Open F .cycles] [Open F .crcs] [Open F .acts] [Open F .maintSeq] [Open F .meters] [Open F .vars] [Open F .cmds] [Open F .arb] [Open F .safety] [Open F .net] [Open F .flows] [Open F .dict] (h : Keeps F q0 s) (level : Bool) : KeepsOut F q0 (execTestEnChange level s) := by
  unfold execTestEnChange
  repeat' first
    | with_reducible assumption
    | with_reducible apply keeps_ite
    | with_reducible apply keepsOut_next
    | (refine keepsOut_whileRuns ?_ ?_)
    | with_reducible apply keepsOut_ite
    | with_reducible apply keepsOut_fault
    | with_reducible apply State.mainReset_keeps
    | with_reducible apply State.modPower_keeps
    | split

theorem State.modAttempt_keeps {F : Part → Prop} {q0 s : State} [Open F .regs] [Open F .sys] [Open F .keeper] (h : Keeps F q0 s) (f : BootAttempt → BootAttempt) : Keeps F q0 (State.modAttempt s f) := by
  unfold State.modAttempt
  repeat' first
    | with_reducible assumption
    | with_reducible apply keeps_ite
    | with_reducible apply State.modSys_keeps
    | split

theorem State.failAttempt_keeps {F : Part → Prop} {q0 s : State} [Open F .regs] [Open F .life] [Open F .sys] [Open F .keeper] (h : Keeps F q0 s) (result : Nat) : Keeps F q0 (State.failAttempt s result) := by
  unfold State.failAttempt
  repeat' first
    | with_reducible assumption
    | with_reducible apply keeps_ite
    | (extract_lets -underBinder +onlyGivenNames xl; refine keeps_cut (F := F) (r := q0) (x := xl) (fun hx => ?_) ?_; (focus clear_value xl; rename' xl => y); rotate_left; (focus unfold xl; clear xl); rotate_left)
    | (extract_lets -underBinder +onlyGivenNames xl; clear_value xl; rename' xl => y)
    | with_reducible apply State.modAttempt_keeps
    | with_reducible apply State.modSys_keeps
    | with_reducible apply State.enterFault_keeps
    | with_reducible apply State.countEvent_keeps
    | with_reducible apply State.setB_keeps
    | with_reducible apply State.set_keeps
    | split

theorem State.bootOk_keeps {F : Part → Prop} {q0 s : State} [Open F .regs] [Open F .sys] [Open F .keeper] (h : Keeps F q0 s)  : Keeps F q0 (State.bootOk s) := by
  unfold State.bootOk
  repeat' first
    | with_reducible assumption
    | with_reducible apply keeps_ite
    | (extract_lets -underBinder +onlyGivenNames xl; refine keeps_cut (F := F) (r := q0) (x := xl) (fun hx => ?_) ?_; (focus clear_value xl; rename' xl => y); rotate_left; (focus unfold xl; clear xl); rotate_left)
    | (extract_lets -underBinder +onlyGivenNames xl; clear_value xl; rename' xl => y)
    | with_reducible apply State.modAttempt_keeps
    | with_reducible apply State.setB_keeps
    | with_reducible apply State.set_keeps
    | split

theorem execBootOk_keeps {F : Part → Prop} {q0 s : State} [Open F .regs] [Open F .sys] [Open F .keeper] (h : Keeps F q0 s)  : KeepsOut F q0 (execBootOk s) := by
  unfold execBootOk
  repeat' first
    | with_reducible assumption
    | with_reducible apply keeps_ite
    | with_reducible apply keepsOut_next
    | (refine keepsOut_whileRuns ?_ ?_)
    | with_reducible apply keepsOut_ite
    | with_reducible apply keepsOut_fault
    | with_reducible apply State.bootOk_keeps
    | split

theorem execBootTmoExpire_keeps {F : Part → Prop} {q0 s : State} [Open F .regs] [Open F .copies] [Open F .mem] [Open F .linkEnds] [Open F .rsBlocks] [Open F .plls] [Open F .hops] [Open F .groups] [Open F .ports] [Open F .tgs] [Open F .drives] [Open F .adcs] [Open F .cmps] [Open F .pis] [Open F .cles] [Open F .life] [Open F .sys] [Open F .power] [Open F .keeper] [Open F .grids] [Open F .gridS] [Open F .cycles] [Open F .crcs] [Open F .acts] [Open F .maintSeq] [Open F .meters] [Open F .vars] [Open F .cmds] [Open F .arb] [Open F .safety] [Open F .net] [Open F .flows] [Open F .dict] (h : Keeps F q0 s)  : KeepsOut F q0 (execBootTmoExpire s) := by
  unfold execBootTmoExpire
  repeat' first
    | with_reducible assumption
    | with_reducible apply keeps_ite
    | with_reducible apply keepsOut_next
    | (refine keepsOut_whileRuns ?_ ?_)
    | with_reducible apply keepsOut_ite
    | with_reducible apply keepsOut_fault
    | with_reducible apply State.failAttempt_keeps
    | with_reducible apply State.mainReset_keeps
    | split

theorem State.beginStop_keeps {F : Part → Prop} {q0 s : State} [Open F .regs] [Open F .ports] [Open F .tgs] [Open F .drives] [Open F .power] [Open F .grids] [Open F .safety] (h : Keeps F q0 s) (restart : Bool) : Keeps F q0 (State.beginStop s restart) := by
  unfold State.beginStop
  repeat' first
    | (intro i t ht)
    | with_reducible assumption
    | with_reducible apply keeps_ite
    | (extract_lets -underBinder +onlyGivenNames xl; refine keeps_cut (F := F) (r := q0) (x := xl) (fun hx => ?_) ?_; (focus clear_value xl; rename' xl => y); rotate_left; (focus unfold xl; clear xl); rotate_left)
    | (extract_lets -underBinder +onlyGivenNames xl; clear_value xl; rename' xl => y)
    | with_reducible apply State.modPower_keeps
    | with_reducible apply State.chanSs1_keeps
    | with_reducible apply State.driveSto_keeps
    | with_reducible apply State.disconnect_keeps
    | with_reducible apply State.setB_keeps
    | with_reducible apply foldOver_keeps
    | split

theorem State.stop_keeps {F : Part → Prop} {q0 s : State} [Open F .regs] [Open F .ports] [Open F .tgs] [Open F .drives] [Open F .power] [Open F .grids] [Open F .safety] (h : Keeps F q0 s)  : Keeps F q0 (State.stop s) := by
  unfold State.stop
  repeat' first
    | with_reducible assumption
    | with_reducible apply keeps_ite
    | with_reducible apply State.beginStop_keeps
    | with_reducible apply State.setB_keeps
    | split

theorem execStop_keeps {F : Part → Prop} {q0 s : State} [Open F .regs] [Open F .ports] [Open F .tgs] [Open F .drives] [Open F .power] [Open F .grids] [Open F .safety] (h : Keeps F q0 s)  : KeepsOut F q0 (execStop s) := by
  unfold execStop
  repeat' first
    | with_reducible assumption
    | with_reducible apply keeps_ite
    | with_reducible apply keepsOut_next
    | (refine keepsOut_whileRuns ?_ ?_)
    | with_reducible apply keepsOut_ite
    | with_reducible apply keepsOut_fault
    | with_reducible apply State.stop_keeps
    | split

theorem State.restart_keeps {F : Part → Prop} {q0 s : State} [Open F .regs] [Open F .ports] [Open F .tgs] [Open F .drives] [Open F .sys] [Open F .power] [Open F .keeper] [Open F .grids] [Open F .safety] (h : Keeps F q0 s) (v : Nat) : Keeps F q0 (State.restart s v).2 := by
  unfold State.restart
  repeat' first
    | with_reducible assumption
    | with_reducible apply keeps_ite
    | with_reducible apply keeps_ite_snd
    | (extract_lets -underBinder +onlyGivenNames xl; refine keeps_cut (F := F) (r := q0) (x := xl) (fun hx => ?_) ?_; (focus clear_value xl; rename' xl => y); rotate_left; (focus unfold xl; clear xl); rotate_left)
    | (extract_lets -underBinder +onlyGivenNames xl; clear_value xl; rename' xl => y)
    | with_reducible apply State.beginStop_keeps
    | with_reducible apply State.modSys_keeps
    | with_reducible apply State.setB_keeps
    | with_reducible apply State.set_keeps
    | split
    | dsimp only

theorem execRestart_keeps {F : Part → Prop} {q0 s : State} [Open F .regs] [Open F .ports] [Open F .tgs] [Open F .drives] [Open F .sys] [Open F .power] [Open F .keeper] [Open F .grids] [Open F .safety] (h : Keeps F q0 s) (v : BitVec 8) : KeepsOut F q0 (execRestart v s) := by
  unfold execRestart
  repeat' first
    | with_reducible assumption
    | with_reducible apply keeps_ite
    | with_reducible apply keepsOut_next
    | (refine keepsOut_whileRuns ?_ ?_)
    | with_reducible apply keepsOut_ite
    | with_reducible apply keepsOut_fault
    | with_reducible apply State.restart_keeps
    | split

theorem execControlledStopCommit_keeps {F : Part → Prop} {q0 s : State} [Open F .regs] [Open F .ports] [Open F .life] [Open F .power] [Open F .keeper] [Open F .cycles] [Open F .meters] (h : Keeps F q0 s)  : KeepsOut F q0 (execControlledStopCommit s) := by
  unfold execControlledStopCommit
  repeat' first
    | (intro i t ht)
    | with_reducible assumption
    | with_reducible apply keeps_ite
    | with_reducible apply keepsOut_next
    | (refine keepsOut_whileRuns ?_ ?_)
    | with_reducible apply keepsOut_ite
    | with_reducible apply keepsOut_fault
    | (extract_lets -underBinder +onlyGivenNames xl; refine keeps_cut (F := F) (r := q0) (x := xl) (fun hx => ?_) ?_; (focus clear_value xl; rename' xl => y); rotate_left; (focus unfold xl; clear xl); rotate_left)
    | (extract_lets -underBinder +onlyGivenNames xl; clear_value xl; rename' xl => y)
    | with_reducible apply State.modPower_keeps
    | with_reducible apply State.startMerge_keeps
    | with_reducible apply State.meterCommit_keeps
    | with_reducible apply State.flushStack_keeps
    | with_reducible apply State.burstRequest_keeps
    | with_reducible apply foldOver_keeps
    | split

theorem execControlledStopComplete_keeps {F : Part → Prop} {q0 s : State} [Open F .regs] [Open F .copies] [Open F .mem] [Open F .linkEnds] [Open F .rsBlocks] [Open F .plls] [Open F .hops] [Open F .groups] [Open F .ports] [Open F .tgs] [Open F .drives] [Open F .adcs] [Open F .cmps] [Open F .pis] [Open F .cles] [Open F .life] [Open F .sys] [Open F .power] [Open F .keeper] [Open F .grids] [Open F .gridS] [Open F .cycles] [Open F .crcs] [Open F .acts] [Open F .maintSeq] [Open F .meters] [Open F .vars] [Open F .cmds] [Open F .arb] [Open F .safety] [Open F .net] [Open F .flows] [Open F .dict] (h : Keeps F q0 s)  : KeepsOut F q0 (execControlledStopComplete s) := by
  unfold execControlledStopComplete
  repeat' first
    | with_reducible assumption
    | with_reducible apply keeps_ite
    | with_reducible apply keepsOut_next
    | (refine keepsOut_whileRuns ?_ ?_)
    | with_reducible apply keepsOut_ite
    | with_reducible apply keepsOut_fault
    | (extract_lets -underBinder +onlyGivenNames xl; refine keeps_cut (F := F) (r := q0) (x := xl) (fun hx => ?_) ?_; (focus clear_value xl; rename' xl => y); rotate_left; (focus unfold xl; clear xl); rotate_left)
    | (extract_lets -underBinder +onlyGivenNames xl; clear_value xl; rename' xl => y)
    | with_reducible apply State.restart_keeps
    | with_reducible apply State.modAttempt_keeps
    | with_reducible apply State.mainReset_keeps
    | with_reducible apply State.modPower_keeps
    | with_reducible apply State.modSys_keeps
    | with_reducible apply State.countEvent_keeps
    | split

theorem execCheckpointTimer_keeps {F : Part → Prop} {q0 s : State} [Open F .regs] [Open F .keeper] (h : Keeps F q0 s)  : KeepsOut F q0 (execCheckpointTimer s) := by
  unfold execCheckpointTimer
  repeat' first
    | with_reducible assumption
    | with_reducible apply keeps_ite
    | with_reducible apply keepsOut_next
    | (refine keepsOut_whileRuns ?_ ?_)
    | with_reducible apply keepsOut_ite
    | with_reducible apply keepsOut_fault
    | with_reducible apply State.burstRequest_keeps
    | split

end Sys2Proof.Machine
end

