-- ==== Sys2Proof/Laws/KeepsResponses.lean ====
section
/-! SUPPORT.  What the operations of Machine/Responses.lean keep. -/

set_option linter.unusedTactic false
set_option linter.unreachableTactic false
set_option linter.unusedVariables false
set_option linter.unnecessarySeqFocus false

namespace Sys2Proof.Machine

theorem State.modSession_keeps {F : Part → Prop} {q0 s : State} [Open F .flows] (h : Keeps F q0 s) (f : Nat) (g : Session → Session) : Keeps F q0 (State.modSession s f g) := by
  unfold State.modSession
  repeat' first
    | with_reducible assumption
    | with_reducible apply keeps_ite
    | with_reducible apply State.modFlow_keeps
    | split

theorem State.toClient_keeps {F : Part → Prop} {q0 s : State} [Open F .regs] [Open F .out] [Open F .ports] [Open F .net] (h : Keeps F q0 s) (c : DictClient) (m : List Nat) : Keeps F q0 (State.toClient s c m) := by
  unfold State.toClient
  repeat' first
    | with_reducible assumption
    | with_reducible apply keeps_ite
    | (extract_lets -underBinder +onlyGivenNames xl; refine keeps_cut (F := F) (r := q0) (x := xl) (fun hx => ?_) ?_; (focus clear_value xl; rename' xl => y); rotate_left; (focus unfold xl; clear xl); rotate_left)
    | (extract_lets -underBinder +onlyGivenNames xl; clear_value xl; rename' xl => y)
    | with_reducible apply State.canSend_keeps
    | with_reducible apply State.originate_keeps
    | with_reducible apply State.send_keeps
    | split

theorem State.answerWith_keeps {F : Part → Prop} {q0 s : State} [Open F .regs] [Open F .out] [Open F .ports] [Open F .net] [Open F .flows] (h : Keeps F q0 s) (svc : Nat) (r : DictReq) (m : List Nat) : Keeps F q0 (State.answerWith s svc r m) := by
  unfold State.answerWith
  repeat' first
    | with_reducible assumption
    | with_reducible apply keeps_ite
    | with_reducible apply State.toClient_keeps
    | with_reducible apply State.modSession_keeps
    | split

theorem State.answer_keeps {F : Part → Prop} {q0 s : State} [Open F .regs] [Open F .out] [Open F .ports] [Open F .net] [Open F .flows] (h : Keeps F q0 s) (svc : Nat) (r : DictReq) (flags : Nat) (data : List Nat) : Keeps F q0 (State.answer s svc r flags data) := by
  unfold State.answer
  repeat' first
    | with_reducible assumption
    | with_reducible apply keeps_ite
    | with_reducible apply State.answerWith_keeps
    | split

theorem State.abort_keeps {F : Part → Prop} {q0 s : State} [Open F .regs] [Open F .out] [Open F .ports] [Open F .net] [Open F .flows] (h : Keeps F q0 s) (svc : Nat) (r : DictReq) (word : Nat) : Keeps F q0 (State.abort s svc r word) := by
  unfold State.abort
  repeat' first
    | with_reducible assumption
    | with_reducible apply keeps_ite
    | with_reducible apply State.answerWith_keeps
    | split

theorem State.refuse_keeps {F : Part → Prop} {q0 s : State} [Open F .regs] [Open F .out] [Open F .ports] [Open F .net] (h : Keeps F q0 s) (r : DictReq) (word : Nat) : Keeps F q0 (State.refuse s r word) := by
  unfold State.refuse
  repeat' first
    | with_reducible assumption
    | with_reducible apply keeps_ite
    | with_reducible apply State.toClient_keeps
    | split

theorem State.sendValue_keeps {F : Part → Prop} {q0 s : State} [Open F .regs] [Open F .out] [Open F .ports] [Open F .net] [Open F .flows] (h : Keeps F q0 s) (svc : Nat) (r : DictReq) (v : List Nat) : Keeps F q0 (State.sendValue s svc r v) := by
  unfold State.sendValue
  repeat' first
    | with_reducible assumption
    | with_reducible apply keeps_ite
    | (extract_lets -underBinder +onlyGivenNames xl; refine keeps_cut (F := F) (r := q0) (x := xl) (fun hx => ?_) ?_; (focus clear_value xl; rename' xl => y); rotate_left; (focus unfold xl; clear xl); rotate_left)
    | (extract_lets -underBinder +onlyGivenNames xl; clear_value xl; rename' xl => y)
    | with_reducible apply State.answer_keeps
    | with_reducible apply State.modSession_keeps
    | split

theorem State.refreshDict_keeps {F : Part → Prop} {q0 s : State} [Open F .regs] (h : Keeps F q0 s)  : Keeps F q0 (State.refreshDict s) := by
  unfold State.refreshDict
  repeat' first
    | with_reducible assumption
    | with_reducible apply keeps_ite
    | (extract_lets -underBinder +onlyGivenNames xl; refine keeps_cut (F := F) (r := q0) (x := xl) (fun hx => ?_) ?_; (focus clear_value xl; rename' xl => y); rotate_left; (focus unfold xl; clear xl); rotate_left)
    | (extract_lets -underBinder +onlyGivenNames xl; clear_value xl; rename' xl => y)
    | with_reducible apply State.set_keeps
    | split

theorem State.closeSession_keeps {F : Part → Prop} {q0 s : State} [Open F .regs] [Open F .keeper] [Open F .vars] [Open F .safety] [Open F .flows] [Open F .dict] (h : Keeps F q0 s) (f : Nat) : Keeps F q0 (State.closeSession s f) := by
  unfold State.closeSession
  repeat' first
    | with_reducible assumption
    | with_reducible apply keeps_ite
    | (extract_lets -underBinder +onlyGivenNames xl; refine keeps_cut (F := F) (r := q0) (x := xl) (fun hx => ?_) ?_; (focus clear_value xl; rename' xl => y); rotate_left; (focus unfold xl; clear xl); rotate_left)
    | (extract_lets -underBinder +onlyGivenNames xl; clear_value xl; rename' xl => y)
    | with_reducible apply State.refreshDict_keeps
    | with_reducible apply State.modDict_keeps
    | with_reducible apply State.modFlow_keeps
    | with_reducible apply State.safetyClose_keeps
    | with_reducible apply State.setDval_keeps
    | split

theorem State.restoreValues_keeps {F : Part → Prop} {q0 s : State} [Open F .freeCnt] [Open F .cmds] [Open F .dict] (h : Keeps F q0 s) (l : List DeclEntry) : Keeps F q0 (State.restoreValues s l) := by
  unfold State.restoreValues
  repeat' first
    | (intro i t ht)
    | with_reducible assumption
    | with_reducible apply keeps_ite
    | (extract_lets -underBinder +onlyGivenNames xl; refine keeps_cut (F := F) (r := q0) (x := xl) (fun hx => ?_) ?_; (focus clear_value xl; rename' xl => y); rotate_left; (focus unfold xl; clear xl); rotate_left)
    | (extract_lets -underBinder +onlyGivenNames xl; clear_value xl; rename' xl => y)
    | with_reducible apply State.inputFrame_keeps
    | with_reducible apply State.fresh_keeps
    | with_reducible apply foldOver_keeps
    | with_reducible apply foldl_keeps
    | split

theorem State.declCommit_keeps {F : Part → Prop} {q0 s : State} [Open F .regs] [Open F .freeCnt] [Open F .cmds] [Open F .dict] (h : Keeps F q0 s)  : Keeps F q0 (State.declCommit s) := by
  unfold State.declCommit
  repeat' first
    | with_reducible assumption
    | with_reducible apply keeps_ite
    | (extract_lets -underBinder +onlyGivenNames xl; refine keeps_cut (F := F) (r := q0) (x := xl) (fun hx => ?_) ?_; (focus clear_value xl; rename' xl => y); rotate_left; (focus unfold xl; clear xl); rotate_left)
    | (extract_lets -underBinder +onlyGivenNames xl; clear_value xl; rename' xl => y)
    | with_reducible apply State.restoreValues_keeps
    | with_reducible apply State.modDict_keeps
    | with_reducible apply State.setB_keeps
    | with_reducible apply State.set_keeps
    | split

theorem execDeclCommit_keeps {F : Part → Prop} {q0 s : State} [Open F .regs] [Open F .freeCnt] [Open F .cmds] [Open F .dict] (h : Keeps F q0 s)  : KeepsOut F q0 (execDeclCommit s) := by
  unfold execDeclCommit
  repeat' first
    | with_reducible assumption
    | with_reducible apply keeps_ite
    | with_reducible apply keepsOut_next
    | (refine keepsOut_whileRuns ?_ ?_)
    | with_reducible apply keepsOut_ite
    | with_reducible apply keepsOut_fault
    | with_reducible apply State.declCommit_keeps
    | split

theorem State.respGo_keeps {F : Part → Prop} {q0 s : State} [Open F .regs] [Open F .out] [Open F .ports] [Open F .keeper] [Open F .net] [Open F .flows] [Open F .dict] (h : Keeps F q0 s)  : Keeps F q0 (State.respGo s) := by
  unfold State.respGo
  repeat' first
    | with_reducible assumption
    | with_reducible apply keeps_ite
    | (extract_lets -underBinder +onlyGivenNames xl; refine keeps_cut (F := F) (r := q0) (x := xl) (fun hx => ?_) ?_; (focus clear_value xl; rename' xl => y); rotate_left; (focus unfold xl; clear xl); rotate_left)
    | (extract_lets -underBinder +onlyGivenNames xl; clear_value xl; rename' xl => y)
    | with_reducible apply State.sendValue_keeps
    | with_reducible apply State.abort_keeps
    | with_reducible apply State.answer_keeps
    | with_reducible apply State.modDict_keeps
    | with_reducible apply State.burstRequest_keeps
    | with_reducible apply State.setB_keeps
    | split

theorem execRespGo_keeps {F : Part → Prop} {q0 s : State} [Open F .regs] [Open F .out] [Open F .ports] [Open F .keeper] [Open F .net] [Open F .flows] [Open F .dict] (h : Keeps F q0 s)  : KeepsOut F q0 (execRespGo s) := by
  unfold execRespGo
  repeat' first
    | with_reducible assumption
    | with_reducible apply keeps_ite
    | with_reducible apply keepsOut_next
    | (refine keepsOut_whileRuns ?_ ?_)
    | with_reducible apply keepsOut_ite
    | with_reducible apply keepsOut_fault
    | with_reducible apply State.respGo_keeps
    | split

theorem execAppTimeout_keeps {F : Part → Prop} {q0 s : State} [Open F .regs] [Open F .out] [Open F .ports] [Open F .net] [Open F .flows] [Open F .dict] (h : Keeps F q0 s) (f : Fin 128) (tid : BitVec 16) : KeepsOut F q0 (execAppTimeout f tid s) := by
  unfold execAppTimeout
  repeat' first
    | with_reducible assumption
    | with_reducible apply keeps_ite
    | with_reducible apply keepsOut_next
    | (refine keepsOut_whileRuns ?_ ?_)
    | with_reducible apply keepsOut_ite
    | with_reducible apply keepsOut_fault
    | (extract_lets -underBinder +onlyGivenNames xl; refine keeps_cut (F := F) (r := q0) (x := xl) (fun hx => ?_) ?_; (focus clear_value xl; rename' xl => y); rotate_left; (focus unfold xl; clear xl); rotate_left)
    | (extract_lets -underBinder +onlyGivenNames xl; clear_value xl; rename' xl => y)
    | with_reducible apply State.abort_keeps
    | with_reducible apply State.modDict_keeps
    | with_reducible apply State.incSat_keeps
    | split

end Sys2Proof.Machine
end

