-- ==== Sys2Proof/Laws/KeepsWrites.lean ====
section
/-! SUPPORT.  What the operations of Machine/Writes.lean keep. -/

set_option linter.unusedTactic false
set_option linter.unreachableTactic false
set_option linter.unusedVariables false
set_option linter.unnecessarySeqFocus false

namespace Sys2Proof.Machine

theorem State.portWrite_keeps {F : Part → Prop} {q0 s : State} [Open F .regs] [Open F .out] [Open F .ports] [Open F .tgs] [Open F .drives] (h : Keeps F q0 s) (d : Nat) (j : Nat) (off : Nat) (a : Nat) (w : Word) (act : Word) (clr : Word) : Keeps F q0 (State.portWrite s d j off a w act clr) := by
  unfold State.portWrite
  repeat' first
    | with_reducible assumption
    | with_reducible apply keeps_ite
    | with_reducible apply State.portShadow_keeps
    | with_reducible apply State.bootUvClear_keeps
    | with_reducible apply State.pcfgApply_keeps
    | with_reducible apply State.faultClear_keeps
    | with_reducible apply State.pmodeApply_keeps
    | with_reducible apply State.compareDelay_keeps
    | with_reducible apply State.setReg_keeps
    | split

theorem State.pwmWrite_keeps {F : Part → Prop} {q0 s : State} [Open F .regs] [Open F .groups] (h : Keeps F q0 s) (d : Nat) (k : Nat) (off : Nat) (a : Nat) (w : Word) : Keeps F q0 (State.pwmWrite s d k off a w) := by
  unfold State.pwmWrite
  repeat' first
    | with_reducible assumption
    | with_reducible apply keeps_ite
    | with_reducible apply State.perShadow_keeps
    | with_reducible apply State.staticWrite_keeps
    | with_reducible apply State.gcfgApply_keeps
    | with_reducible apply State.setReg_keeps
    | split

theorem State.holdChoppers_keeps {F : Part → Prop} {q0 s : State} [Open F .regs] [Open F .ports] [Open F .drives] (h : Keeps F q0 s) (d : Nat) (k : Nat) : Keeps F q0 (State.holdChoppers s d k) := by
  unfold State.holdChoppers
  repeat' first
    | (intro i t ht)
    | with_reducible assumption
    | with_reducible apply keeps_ite
    | with_reducible apply State.bothOff_keeps
    | with_reducible apply foldOver_keeps
    | split

theorem State.tripinApply_keeps {F : Part → Prop} {q0 s : State} [Open F .regs] [Open F .ports] [Open F .tgs] [Open F .drives] (h : Keeps F q0 s) (d : Nat) (w : Word) : Keeps F q0 (State.tripinApply s d w) := by
  unfold State.tripinApply
  repeat' first
    | with_reducible assumption
    | with_reducible apply keeps_ite
    | (extract_lets -underBinder +onlyGivenNames xl; refine keeps_cut (F := F) (r := q0) (x := xl) (fun hx => ?_) ?_; (focus clear_value xl; rename' xl => y); rotate_left; (focus unfold xl; clear xl); rotate_left)
    | (extract_lets -underBinder +onlyGivenNames xl; clear_value xl; rename' xl => y)
    | with_reducible apply State.refreshTrips_keeps
    | with_reducible apply State.modDrive_keeps
    | with_reducible apply State.setReg_keeps
    | split

theorem State.tgcfgApply_keeps {F : Part → Prop} {q0 s : State} [Open F .regs] [Open F .ports] [Open F .tgs] [Open F .drives] (h : Keeps F q0 s) (d : Nat) (k : Nat) (w : Word) : Keeps F q0 (State.tgcfgApply s d k w) := by
  unfold State.tgcfgApply
  repeat' first
    | with_reducible assumption
    | with_reducible apply keeps_ite
    | with_reducible apply State.holdChoppers_keeps
    | with_reducible apply State.refreshTrips_keeps
    | with_reducible apply State.setB_keeps
    | with_reducible apply State.setReg_keeps
    | split

theorem State.tripWrite_keeps {F : Part → Prop} {q0 s : State} [Open F .regs] [Open F .ports] [Open F .tgs] [Open F .drives] (h : Keeps F q0 s) (d : Nat) (i : Nat) (off : Nat) (a : Nat) (w : Word) : Keeps F q0 (State.tripWrite s d i off a w) := by
  unfold State.tripWrite
  repeat' first
    | with_reducible assumption
    | with_reducible apply keeps_ite
    | with_reducible apply State.tgcfgApply_keeps
    | with_reducible apply State.tripinApply_keeps
    | with_reducible apply State.tgModeApply_keeps
    | with_reducible apply State.srcMaskApply_keeps
    | with_reducible apply State.membersApply_keeps
    | with_reducible apply State.refreshTrips_keeps
    | with_reducible apply State.refreshCuffs_keeps
    | with_reducible apply State.setReg_keeps
    | split

theorem State.cmpWrite_keeps {F : Part → Prop} {q0 s : State} [Open F .regs] [Open F .mem] [Open F .freeCnt] [Open F .ports] [Open F .tgs] [Open F .drives] [Open F .cmps] (h : Keeps F q0 s) (d : Nat) (i : Nat) (off : Nat) (a : Nat) (w : Word) (clr : Word) : Keeps F q0 (State.cmpWrite s d i off a w clr) := by
  unfold State.cmpWrite
  repeat' first
    | with_reducible assumption
    | with_reducible apply keeps_ite
    | (extract_lets -underBinder +onlyGivenNames xl; refine keeps_cut (F := F) (r := q0) (x := xl) (fun hx => ?_) ?_; (focus clear_value xl; rename' xl => y); rotate_left; (focus unfold xl; clear xl); rotate_left)
    | (extract_lets -underBinder +onlyGivenNames xl; clear_value xl; rename' xl => y)
    | with_reducible apply State.chkWrite_keeps
    | with_reducible apply State.latWrite_keeps
    | with_reducible apply State.ccfgApply_keeps
    | with_reducible apply State.cthrApply_keeps
    | with_reducible apply State.fresh_keeps
    | with_reducible apply State.setReg_keeps
    | split

theorem State.adcWrite_keeps {F : Part → Prop} {q0 s : State} [Open F .regs] [Open F .mem] [Open F .out] [Open F .adcs] (h : Keeps F q0 s) (d : Nat) (k : Nat) (off : Nat) (a : Nat) (w : Word) (act : Word) : Keeps F q0 (State.adcWrite s d k off a w act) := by
  unfold State.adcWrite
  repeat' first
    | with_reducible assumption
    | with_reducible apply keeps_ite
    | (extract_lets -underBinder +onlyGivenNames xl; refine keeps_cut (F := F) (r := q0) (x := xl) (fun hx => ?_) ?_; (focus clear_value xl; rename' xl => y); rotate_left; (focus unfold xl; clear xl); rotate_left)
    | (extract_lets -underBinder +onlyGivenNames xl; clear_value xl; rename' xl => y)
    | with_reducible apply State.acfgApply_keeps
    | with_reducible apply State.injTrigger_keeps
    | with_reducible apply State.regTrigger_keeps
    | with_reducible apply State.setReg_keeps
    | split

theorem State.rtsWrite_keeps {F : Part → Prop} {q0 s : State} [Open F .regs] [Open F .ports] [Open F .drives] [Open F .grids] (h : Keeps F q0 s) (d : Nat) (off : Nat) (a : Nat) (w : Word) (act : Word) : Keeps F q0 (State.rtsWrite s d off a w act) := by
  unfold State.rtsWrite
  repeat' first
    | with_reducible assumption
    | with_reducible apply keeps_ite
    | (extract_lets -underBinder +onlyGivenNames xl; refine keeps_cut (F := F) (r := q0) (x := xl) (fun hx => ?_) ?_; (focus clear_value xl; rename' xl => y); rotate_left; (focus unfold xl; clear xl); rotate_left)
    | (extract_lets -underBinder +onlyGivenNames xl; clear_value xl; rename' xl => y)
    | with_reducible apply State.disconnect_keeps
    | with_reducible apply State.connect_keeps
    | with_reducible apply State.rtcfgApply_keeps
    | with_reducible apply State.rcCheck_keeps
    | with_reducible apply State.refreshReady_keeps
    | with_reducible apply State.setReg_keeps
    | split

theorem State.crcWrite_keeps {F : Part → Prop} {q0 s : State} [Open F .regs] [Open F .out] [Open F .crcs] [Open F .acts] [Open F .maintSeq] (h : Keeps F q0 s) (u : Nat) (off : Nat) (a : Nat) (w : Word) (act : Word) (al : Nat) (d : Word) : Keeps F q0 (State.crcWrite s u off a w act al d) := by
  unfold State.crcWrite
  repeat' first
    | with_reducible assumption
    | with_reducible apply keeps_ite
    | with_reducible apply State.crcControl_keeps
    | with_reducible apply State.crcVal_keeps
    | with_reducible apply State.crcFeed_keeps
    | with_reducible apply State.setReg_keeps
    | split

theorem State.dictBlockWrite_keeps {F : Part → Prop} {q0 s : State} [Open F .regs] [Open F .out] [Open F .freeCnt] [Open F .ports] [Open F .keeper] [Open F .cmds] [Open F .net] [Open F .flows] [Open F .dict] (h : Keeps F q0 s) (i : Nat) (off : Nat) (a : Nat) (w : Word) (act : Word) : Keeps F q0 (State.dictBlockWrite s i off a w act) := by
  unfold State.dictBlockWrite
  repeat' first
    | with_reducible assumption
    | with_reducible apply keeps_ite
    | (extract_lets -underBinder +onlyGivenNames xl; refine keeps_cut (F := F) (r := q0) (x := xl) (fun hx => ?_) ?_; (focus clear_value xl; rename' xl => y); rotate_left; (focus unfold xl; clear xl); rotate_left)
    | (extract_lets -underBinder +onlyGivenNames xl; clear_value xl; rename' xl => y)
    | with_reducible apply State.respGo_keeps
    | with_reducible apply State.declCommit_keeps
    | with_reducible apply State.releaseTx_keeps
    | with_reducible apply State.setReg_keeps
    | split

theorem State.applyReg_keeps {F : Part → Prop} {q0 s : State} [Open F .regs] [Open F .mem] [Open F .out] [Open F .freeCnt] [Open F .plls] [Open F .hops] [Open F .groups] [Open F .ports] [Open F .tgs] [Open F .drives] [Open F .adcs] [Open F .cmps] [Open F .pis] [Open F .cles] [Open F .life] [Open F .sys] [Open F .power] [Open F .keeper] [Open F .grids] [Open F .crcs] [Open F .acts] [Open F .maintSeq] [Open F .meters] [Open F .cmds] [Open F .arb] [Open F .safety] [Open F .net] [Open F .flows] [Open F .dict] (h : Keeps F q0 s) (r : RegInfo) (a : Nat) (w : Word) (act : Word) (clr : Word) (al : Nat) (dat : Word) : Keeps F q0 (State.applyReg s r a w act clr al dat) := by
  unfold State.applyReg
  repeat' first
    | (intro i t ht)
    | with_reducible assumption
    | with_reducible apply keeps_ite
    | (extract_lets -underBinder +onlyGivenNames xl; refine keeps_cut (F := F) (r := q0) (x := xl) (fun hx => ?_) ?_; (focus clear_value xl; rename' xl => y); rotate_left; (focus unfold xl; clear xl); rotate_left)
    | (extract_lets -underBinder +onlyGivenNames xl; clear_value xl; rename' xl => y)
    | with_reducible apply State.dictBlockWrite_keeps
    | with_reducible apply State.crcWrite_keeps
    | with_reducible apply State.rtsWrite_keeps
    | with_reducible apply State.adcWrite_keeps
    | with_reducible apply State.cmpWrite_keeps
    | with_reducible apply State.tripWrite_keeps
    | with_reducible apply State.pwmWrite_keeps
    | with_reducible apply State.portWrite_keeps
    | with_reducible apply State.stop_keeps
    | with_reducible apply State.bootOk_keeps
    | with_reducible apply State.cancelSlot_keeps
    | with_reducible apply State.requestWord_keeps
    | with_reducible apply State.parClear_keeps
    | with_reducible apply State.slotApply_keeps
    | with_reducible apply State.hopCfgApply_keeps
    | with_reducible apply State.refreshHarvest_keeps
    | with_reducible apply State.canRecover_keeps
    | with_reducible apply State.canCfgApply_keeps
    | with_reducible apply State.tuTarget_keeps
    | with_reducible apply State.tuCfgApply_keeps
    | with_reducible apply State.timeCfgApply_keeps
    | with_reducible apply State.ethCfgApply_keeps
    | with_reducible apply State.gateApply_keeps
    | with_reducible apply State.doneWrite_keeps
    | with_reducible apply State.mcfgApply_keeps
    | with_reducible apply State.intcfgApply_keeps
    | with_reducible apply State.curveApply_keeps
    | with_reducible apply State.gcfgGridApply_keeps
    | with_reducible apply State.cleFlagsApply_keeps
    | with_reducible apply State.clecfgApply_keeps
    | with_reducible apply State.picfgApply_keeps
    | with_reducible apply State.refreshTrips_keeps
    | with_reducible apply foldOver_keeps
    | with_reducible apply State.setReg_keeps
    | split

theorem State.windowWrite_keeps {F : Part → Prop} {q0 s : State} [Open F .regs] [Open F .mem] [Open F .flows] (h : Keeps F q0 s) (a : Nat) (w : Word) : Keeps F q0 (State.windowWrite s a w) := by
  unfold State.windowWrite
  repeat' first
    | with_reducible assumption
    | with_reducible apply keeps_ite
    | (extract_lets -underBinder +onlyGivenNames xl; refine keeps_cut (F := F) (r := q0) (x := xl) (fun hx => ?_) ?_; (focus clear_value xl; rename' xl => y); rotate_left; (focus unfold xl; clear xl); rotate_left)
    | (extract_lets -underBinder +onlyGivenNames xl; clear_value xl; rename' xl => y)
    | with_reducible apply State.modFlow_keeps
    | with_reducible apply State.curveApply_keeps
    | with_reducible apply State.cleMemWrite_keeps
    | with_reducible apply State.setMemWord_keeps
    | split

theorem State.writeAt_keeps {F : Part → Prop} {q0 s : State} [Open F .regs] [Open F .mem] [Open F .out] [Open F .freeCnt] [Open F .plls] [Open F .hops] [Open F .groups] [Open F .ports] [Open F .tgs] [Open F .drives] [Open F .adcs] [Open F .cmps] [Open F .pis] [Open F .cles] [Open F .life] [Open F .sys] [Open F .power] [Open F .keeper] [Open F .grids] [Open F .crcs] [Open F .acts] [Open F .maintSeq] [Open F .meters] [Open F .cmds] [Open F .arb] [Open F .safety] [Open F .net] [Open F .flows] [Open F .dict] (h : Keeps F q0 s) (a : Nat) (al : Nat) (d : Word) : Keeps F q0 (State.writeAt s a al d) := by
  unfold State.writeAt
  repeat' first
    | with_reducible assumption
    | with_reducible apply keeps_ite
    | (extract_lets -underBinder +onlyGivenNames xl; refine keeps_cut (F := F) (r := q0) (x := xl) (fun hx => ?_) ?_; (focus clear_value xl; rename' xl => y); rotate_left; (focus unfold xl; clear xl); rotate_left)
    | (extract_lets -underBinder +onlyGivenNames xl; clear_value xl; rename' xl => y)
    | with_reducible apply State.windowWrite_keeps
    | with_reducible apply State.applyReg_keeps
    | with_reducible apply State.checkParity_keeps
    | split

theorem State.writeAddr_keeps {F : Part → Prop} {q0 s : State} [Open F .regs] [Open F .mem] [Open F .out] [Open F .freeCnt] [Open F .plls] [Open F .hops] [Open F .groups] [Open F .ports] [Open F .tgs] [Open F .drives] [Open F .adcs] [Open F .cmps] [Open F .pis] [Open F .cles] [Open F .life] [Open F .sys] [Open F .power] [Open F .keeper] [Open F .grids] [Open F .crcs] [Open F .acts] [Open F .maintSeq] [Open F .meters] [Open F .cmds] [Open F .arb] [Open F .safety] [Open F .net] [Open F .flows] [Open F .dict] (h : Keeps F q0 s) (c : Nat) (a : Nat) (d : Word) : Keeps F q0 (State.writeAddr s c a d) := by
  unfold State.writeAddr
  repeat' first
    | with_reducible assumption
    | with_reducible apply keeps_ite
    | with_reducible apply State.writeAt_keeps
    | split

theorem State.ownWrite_keeps {F : Part → Prop} {q0 s : State} [Open F .regs] [Open F .mem] [Open F .out] [Open F .freeCnt] [Open F .plls] [Open F .hops] [Open F .groups] [Open F .ports] [Open F .tgs] [Open F .drives] [Open F .adcs] [Open F .cmps] [Open F .pis] [Open F .cles] [Open F .life] [Open F .sys] [Open F .power] [Open F .keeper] [Open F .grids] [Open F .crcs] [Open F .acts] [Open F .maintSeq] [Open F .meters] [Open F .cmds] [Open F .arb] [Open F .safety] [Open F .net] [Open F .flows] [Open F .dict] (h : Keeps F q0 s) (c : Nat) (a : Nat) (d : Word) : Keeps F q0 (State.ownWrite s c a d) := by
  unfold State.ownWrite
  repeat' first
    | with_reducible assumption
    | with_reducible apply keeps_ite
    | with_reducible apply State.writeAddr_keeps
    | with_reducible apply State.setMemWord_keeps
    | split

theorem State.captureFor_keeps {F : Part → Prop} {q0 s : State} [Open F .rsBlocks] [Open F .drives] [Open F .meters] [Open F .net] (h : Keeps F q0 s) (a : Nat) : Keeps F q0 (State.captureFor s a) := by
  unfold State.captureFor
  repeat' first
    | with_reducible assumption
    | with_reducible apply keeps_ite
    | with_reducible apply State.captureTtime_keeps
    | with_reducible apply State.captureRtc_keeps
    | with_reducible apply State.captureLt_keeps
    | with_reducible apply State.captureAcc_keeps
    | split

theorem State.heldWord_keeps {F : Part → Prop} {r s : State} [Open F .rsBlocks] [Open F .drives] [Open F .meters] [Open F .net] (h : Keeps F r s) (a : Nat) (x : Nat × State) (e : s.heldWord a = some x) : Keeps F r x.2 := by
  unfold State.heldWord at e
  split at e
  · obtain ⟨y, -, rfl⟩ := Option.map_eq_some_iff.mp e
    exact State.modRs_keeps h _ _
  · split at e
    · obtain ⟨y, -, rfl⟩ := Option.map_eq_some_iff.mp e
      exact State.modNet_keeps h (fun n => { n with holdLo := none })
    · split at e
      · obtain ⟨y, -, rfl⟩ := Option.map_eq_some_iff.mp e
        exact State.modNet_keeps h (fun n => { n with holdHi := none })
      · split at e
        · obtain ⟨y, -, rfl⟩ := Option.map_eq_some_iff.mp e
          exact State.modDrive_keeps h _ _
        · split at e
          · obtain ⟨y, -, rfl⟩ := Option.map_eq_some_iff.mp e
            exact State.modMeter_keeps h _ _
          · cases e

theorem State.readWord_keeps {F : Part → Prop} {r s : State} [Open F .rsBlocks] [Open F .drives] [Open F .meters] [Open F .net] (h : Keeps F r s) (a : Nat) : Keeps F r (State.readWord s a).2 := by
  unfold State.readWord
  have hc := State.captureFor_keeps h a
  dsimp only
  split
  · rename_i x e
    exact State.heldWord_keeps hc a x e
  · exact hc

theorem execRwpRead_keeps {F : Part → Prop} {q0 s : State} [Open F .regs] [Open F .out] [Open F .rsBlocks] [Open F .ports] [Open F .tgs] [Open F .drives] [Open F .life] [Open F .sys] [Open F .keeper] [Open F .meters] [Open F .safety] [Open F .net] (h : Keeps F q0 s) (c : Fin 2) (a : BitVec 32) (clr : BitVec 3) : KeepsOut F q0 (execRwpRead c a clr s) := by
  unfold execRwpRead
  repeat' first
    | with_reducible assumption
    | with_reducible apply keeps_ite
    | with_reducible apply keepsOut_next
    | (refine keepsOut_whileRuns ?_ ?_)
    | with_reducible apply keepsOut_ite
    | with_reducible apply keepsOut_fault
    | (extract_lets -underBinder +onlyGivenNames xl; refine keeps_cut (F := F) (r := q0) (x := xl) (fun hx => ?_) ?_; (focus clear_value xl; rename' xl => y); rotate_left; (focus unfold xl; clear xl); rotate_left)
    | (extract_lets -underBinder +onlyGivenNames xl; clear_value xl; rename' xl => y)
    | with_reducible apply State.readWord_keeps
    | with_reducible apply State.checkParityClear_keeps
    | with_reducible apply State.send_keeps
    | split

theorem State.arrive_keeps {F : Part → Prop} {q0 s : State} [Open F .regs] [Open F .mem] [Open F .out] [Open F .freeCnt] [Open F .plls] [Open F .hops] [Open F .groups] [Open F .ports] [Open F .tgs] [Open F .drives] [Open F .adcs] [Open F .cmps] [Open F .pis] [Open F .cles] [Open F .life] [Open F .sys] [Open F .power] [Open F .keeper] [Open F .grids] [Open F .crcs] [Open F .acts] [Open F .maintSeq] [Open F .meters] [Open F .cmds] [Open F .arb] [Open F .safety] [Open F .net] [Open F .flows] [Open F .dict] (h : Keeps F q0 s) (c : Nat) (a : Nat) (w : Word) : Keeps F q0 (State.arrive s c a w) := by
  unfold State.arrive
  repeat' first
    | with_reducible assumption
    | with_reducible apply keeps_ite
    | (extract_lets -underBinder +onlyGivenNames xl; refine keeps_cut (F := F) (r := q0) (x := xl) (fun hx => ?_) ?_; (focus clear_value xl; rename' xl => y); rotate_left; (focus unfold xl; clear xl); rotate_left)
    | (extract_lets -underBinder +onlyGivenNames xl; clear_value xl; rename' xl => y)
    | with_reducible apply State.writeAddr_keeps
    | with_reducible apply State.mailbox_keeps
    | with_reducible apply State.incSat_keeps
    | split

theorem execDriveWriteArrival_keeps {F : Part → Prop} {q0 s : State} [Open F .regs] [Open F .mem] [Open F .out] [Open F .freeCnt] [Open F .plls] [Open F .hops] [Open F .groups] [Open F .ports] [Open F .tgs] [Open F .drives] [Open F .adcs] [Open F .cmps] [Open F .pis] [Open F .cles] [Open F .life] [Open F .sys] [Open F .power] [Open F .keeper] [Open F .grids] [Open F .crcs] [Open F .acts] [Open F .maintSeq] [Open F .meters] [Open F .cmds] [Open F .arb] [Open F .safety] [Open F .net] [Open F .flows] [Open F .dict] (h : Keeps F q0 s) (d : Fin 4) (src : Option (Fin 2)) (off : BitVec 24) (w : BitVec 32) : KeepsOut F q0 (execDriveWriteArrival d src off w s) := by
  unfold execDriveWriteArrival
  repeat' first
    | with_reducible assumption
    | with_reducible apply keeps_ite
    | with_reducible apply keepsOut_next
    | (refine keepsOut_whileRuns ?_ ?_)
    | with_reducible apply keepsOut_ite
    | with_reducible apply keepsOut_fault
    | (extract_lets -underBinder +onlyGivenNames xl; refine keeps_cut (F := F) (r := q0) (x := xl) (fun hx => ?_) ?_; (focus clear_value xl; rename' xl => y); rotate_left; (focus unfold xl; clear xl); rotate_left)
    | (extract_lets -underBinder +onlyGivenNames xl; clear_value xl; rename' xl => y)
    | with_reducible apply State.arrive_keeps
    | with_reducible apply State.writeAddr_keeps
    | split

theorem execNWriteFromCommandDie_keeps {F : Part → Prop} {q0 s : State} [Open F .regs] [Open F .mem] [Open F .out] [Open F .freeCnt] [Open F .plls] [Open F .hops] [Open F .groups] [Open F .ports] [Open F .tgs] [Open F .drives] [Open F .adcs] [Open F .cmps] [Open F .pis] [Open F .cles] [Open F .life] [Open F .sys] [Open F .power] [Open F .keeper] [Open F .grids] [Open F .crcs] [Open F .acts] [Open F .maintSeq] [Open F .meters] [Open F .cmds] [Open F .arb] [Open F .safety] [Open F .net] [Open F .flows] [Open F .dict] (h : Keeps F q0 s) (c : Fin 2) (off : BitVec 26) (w : BitVec 32) : KeepsOut F q0 (execNWriteFromCommandDie c off w s) := by
  unfold execNWriteFromCommandDie
  repeat' first
    | with_reducible assumption
    | with_reducible apply keeps_ite
    | with_reducible apply keepsOut_next
    | (refine keepsOut_whileRuns ?_ ?_)
    | with_reducible apply keepsOut_ite
    | with_reducible apply keepsOut_fault
    | with_reducible apply State.arrive_keeps
    | split

theorem State.settleDebug_keeps {F : Part → Prop} {q0 s : State} [Open F .regs] [Open F .mem] [Open F .out] [Open F .freeCnt] [Open F .plls] [Open F .hops] [Open F .groups] [Open F .ports] [Open F .tgs] [Open F .drives] [Open F .adcs] [Open F .cmps] [Open F .pis] [Open F .cles] [Open F .life] [Open F .sys] [Open F .power] [Open F .keeper] [Open F .grids] [Open F .crcs] [Open F .acts] [Open F .maintSeq] [Open F .meters] [Open F .cmds] [Open F .arb] [Open F .safety] [Open F .net] [Open F .flows] [Open F .dict] (h : Keeps F q0 s) (c : Nat) : Keeps F q0 (State.settleDebug s c) := by
  unfold State.settleDebug
  repeat' first
    | (intro t k w ht)
    | with_reducible assumption
    | with_reducible apply keeps_ite
    | with_reducible apply State.ownWrite_keeps
    | with_reducible apply State.applyDebugWrites_keeps
    | split

theorem State.coreWrite_keeps {F : Part → Prop} {q0 s : State} [Open F .regs] [Open F .mem] [Open F .out] [Open F .freeCnt] [Open F .plls] [Open F .hops] [Open F .groups] [Open F .ports] [Open F .tgs] [Open F .drives] [Open F .adcs] [Open F .cmps] [Open F .pis] [Open F .cles] [Open F .life] [Open F .sys] [Open F .power] [Open F .keeper] [Open F .grids] [Open F .crcs] [Open F .acts] [Open F .maintSeq] [Open F .meters] [Open F .cmds] [Open F .arb] [Open F .safety] [Open F .net] [Open F .flows] [Open F .dict] (h : Keeps F q0 s) (c : Nat) (k : Nat) (a : Nat) (w : Word) : Keeps F q0 (State.coreWrite s c k a w) := by
  unfold State.coreWrite
  repeat' first
    | with_reducible assumption
    | with_reducible apply keeps_ite
    | (extract_lets -underBinder +onlyGivenNames xl; refine keeps_cut (F := F) (r := q0) (x := xl) (fun hx => ?_) ?_; (focus clear_value xl; rename' xl => y); rotate_left; (focus unfold xl; clear xl); rotate_left)
    | (extract_lets -underBinder +onlyGivenNames xl; clear_value xl; rename' xl => y)
    | with_reducible apply State.settleDebug_keeps
    | with_reducible apply State.arrive_keeps
    | with_reducible apply State.ownWrite_keeps
    | with_reducible apply State.coreIssued_keeps
    | with_reducible apply State.keepPage_keeps
    | with_reducible apply State.foldWrite_keeps
    | with_reducible apply State.modCmd_keeps
    | split

theorem execRegisterWrite_keeps {F : Part → Prop} {q0 s : State} [Open F .regs] [Open F .mem] [Open F .out] [Open F .freeCnt] [Open F .plls] [Open F .hops] [Open F .groups] [Open F .ports] [Open F .tgs] [Open F .drives] [Open F .adcs] [Open F .cmps] [Open F .pis] [Open F .cles] [Open F .life] [Open F .sys] [Open F .power] [Open F .keeper] [Open F .grids] [Open F .crcs] [Open F .acts] [Open F .maintSeq] [Open F .meters] [Open F .cmds] [Open F .arb] [Open F .safety] [Open F .net] [Open F .flows] [Open F .dict] (h : Keeps F q0 s) (by_ : RegWriter) (a : BitVec 32) (w : BitVec 32) : KeepsOut F q0 (execRegisterWrite by_ a w s) := by
  unfold execRegisterWrite
  repeat' first
    | with_reducible assumption
    | with_reducible apply keeps_ite
    | with_reducible apply keepsOut_next
    | (refine keepsOut_whileRuns ?_ ?_)
    | with_reducible apply keepsOut_ite
    | with_reducible apply keepsOut_fault
    | with_reducible apply State.coreWrite_keeps
    | with_reducible apply State.writeAddr_keeps
    | split

theorem execGrant_keeps {F : Part → Prop} {q0 s : State} [Open F .regs] [Open F .mem] [Open F .out] [Open F .freeCnt] [Open F .plls] [Open F .hops] [Open F .groups] [Open F .ports] [Open F .tgs] [Open F .drives] [Open F .adcs] [Open F .cmps] [Open F .pis] [Open F .cles] [Open F .life] [Open F .sys] [Open F .power] [Open F .keeper] [Open F .grids] [Open F .crcs] [Open F .acts] [Open F .maintSeq] [Open F .meters] [Open F .cmds] [Open F .arb] [Open F .safety] [Open F .net] [Open F .flows] [Open F .dict] (h : Keeps F q0 s) (c : Fin 2) : KeepsOut F q0 (execGrant c s) := by
  unfold execGrant
  repeat' first
    | (intro i t ht)
    | with_reducible assumption
    | with_reducible apply keeps_ite
    | with_reducible apply keepsOut_next
    | (refine keepsOut_whileRuns ?_ ?_)
    | with_reducible apply keepsOut_ite
    | with_reducible apply keepsOut_fault
    | (extract_lets -underBinder +onlyGivenNames xl; refine keeps_cut (F := F) (r := q0) (x := xl) (fun hx => ?_) ?_; (focus clear_value xl; rename' xl => y); rotate_left; (focus unfold xl; clear xl); rotate_left)
    | (extract_lets -underBinder +onlyGivenNames xl; clear_value xl; rename' xl => y)
    | with_reducible apply State.arrive_keeps
    | with_reducible apply State.grant_keeps
    | with_reducible apply State.doneRelease_keeps
    | with_reducible apply foldl_keeps
    | split

theorem State.writeField_keeps {F : Part → Prop} {q0 s : State} [Open F .regs] [Open F .mem] [Open F .out] [Open F .freeCnt] [Open F .plls] [Open F .hops] [Open F .groups] [Open F .ports] [Open F .tgs] [Open F .drives] [Open F .adcs] [Open F .cmps] [Open F .pis] [Open F .cles] [Open F .life] [Open F .sys] [Open F .power] [Open F .keeper] [Open F .grids] [Open F .crcs] [Open F .acts] [Open F .maintSeq] [Open F .meters] [Open F .cmds] [Open F .arb] [Open F .safety] [Open F .net] [Open F .flows] [Open F .dict] (h : Keeps F q0 s) (f : RF) (v : Nat) : Keeps F q0 (State.writeField s f v) := by
  unfold State.writeField
  repeat' first
    | with_reducible assumption
    | with_reducible apply keeps_ite
    | (extract_lets -underBinder +onlyGivenNames xl; refine keeps_cut (F := F) (r := q0) (x := xl) (fun hx => ?_) ?_; (focus clear_value xl; rename' xl => y); rotate_left; (focus unfold xl; clear xl); rotate_left)
    | (extract_lets -underBinder +onlyGivenNames xl; clear_value xl; rename' xl => y)
    | with_reducible apply State.writeAt_keeps
    | with_reducible apply State.checkParity_keeps
    | split

theorem execRsWriteComplete_keeps {F : Part → Prop} {q0 s : State} [Open F .regs] [Open F .mem] [Open F .out] [Open F .freeCnt] [Open F .rsBlocks] [Open F .plls] [Open F .hops] [Open F .groups] [Open F .ports] [Open F .tgs] [Open F .drives] [Open F .adcs] [Open F .cmps] [Open F .pis] [Open F .cles] [Open F .life] [Open F .sys] [Open F .power] [Open F .keeper] [Open F .grids] [Open F .crcs] [Open F .acts] [Open F .maintSeq] [Open F .meters] [Open F .cmds] [Open F .arb] [Open F .safety] [Open F .net] [Open F .flows] [Open F .dict] (h : Keeps F q0 s) (b : Fin 9) : KeepsOut F q0 (execRsWriteComplete b s) := by
  unfold execRsWriteComplete
  repeat' first
    | with_reducible assumption
    | with_reducible apply keeps_ite
    | with_reducible apply keepsOut_next
    | (refine keepsOut_whileRuns ?_ ?_)
    | with_reducible apply keepsOut_ite
    | with_reducible apply keepsOut_fault
    | (extract_lets -underBinder +onlyGivenNames xl; refine keeps_cut (F := F) (r := q0) (x := xl) (fun hx => ?_) ?_; (focus clear_value xl; rename' xl => y); rotate_left; (focus unfold xl; clear xl); rotate_left)
    | (extract_lets -underBinder +onlyGivenNames xl; clear_value xl; rename' xl => y)
    | with_reducible apply State.writeField_keeps
    | with_reducible apply State.writeAddr_keeps
    | with_reducible apply State.rsPop_keeps
    | split

theorem execDebuggerWrite_keeps {F : Part → Prop} {q0 s : State} [Open F .regs] [Open F .mem] [Open F .out] [Open F .freeCnt] [Open F .plls] [Open F .hops] [Open F .groups] [Open F .ports] [Open F .tgs] [Open F .drives] [Open F .adcs] [Open F .cmps] [Open F .pis] [Open F .cles] [Open F .life] [Open F .sys] [Open F .power] [Open F .keeper] [Open F .grids] [Open F .crcs] [Open F .acts] [Open F .maintSeq] [Open F .meters] [Open F .cmds] [Open F .arb] [Open F .safety] [Open F .net] [Open F .flows] [Open F .dict] (h : Keeps F q0 s) (c : Fin 2) (a : BitVec 32) (w : BitVec 32) : KeepsOut F q0 (execDebuggerWrite c a w s) := by
  unfold execDebuggerWrite
  repeat' first
    | with_reducible assumption
    | with_reducible apply keeps_ite
    | with_reducible apply keepsOut_next
    | (refine keepsOut_whileRuns ?_ ?_)
    | with_reducible apply keepsOut_ite
    | with_reducible apply keepsOut_fault
    | (extract_lets -underBinder +onlyGivenNames xl; refine keeps_cut (F := F) (r := q0) (x := xl) (fun hx => ?_) ?_; (focus clear_value xl; rename' xl => y); rotate_left; (focus unfold xl; clear xl); rotate_left)
    | (extract_lets -underBinder +onlyGivenNames xl; clear_value xl; rename' xl => y)
    | with_reducible apply State.settleDebug_keeps
    | with_reducible apply State.ownWrite_keeps
    | with_reducible apply State.keepPage_keeps
    | with_reducible apply State.modCmd_keeps
    | with_reducible apply State.setB_keeps
    | split

theorem execShellDebugResume_keeps {F : Part → Prop} {r s : State} [Open F .regs] [Open F .mem] [Open F .out] [Open F .freeCnt] [Open F .plls] [Open F .hops] [Open F .groups] [Open F .ports] [Open F .tgs] [Open F .drives] [Open F .adcs] [Open F .cmps] [Open F .pis] [Open F .cles] [Open F .life] [Open F .sys] [Open F .power] [Open F .keeper] [Open F .grids] [Open F .crcs] [Open F .acts] [Open F .maintSeq] [Open F .meters] [Open F .cmds] [Open F .arb] [Open F .safety] [Open F .net] [Open F .flows] [Open F .dict] (h : Keeps F r s) (c : Fin 2) : KeepsOut F r (execShellDebugResume c s) :=
  keepsOut_whileRuns h <| keepsOut_next (State.debugResume_keeps h c _ fun _ _ _ ht => State.ownWrite_keeps ht _ _ _)

end Sys2Proof.Machine
end

