-- ==== Sys2Proof/Laws/KeepsHomes.lean ====
section
/-! SUPPORT.  What the operations of Machine/Homes.lean keep. -/

set_option linter.unusedTactic false
set_option linter.unreachableTactic false
set_option linter.unusedVariables false
set_option linter.unnecessarySeqFocus false

namespace Sys2Proof.Machine

theorem State.writePieces_keeps {F : Part → Prop} {q0 s : State} [Open F .regs] [Open F .mem] [Open F .out] [Open F .freeCnt] [Open F .plls] [Open F .hops] [Open F .groups] [Open F .ports] [Open F .tgs] [Open F .drives] [Open F .adcs] [Open F .cmps] [Open F .pis] [Open F .cles] [Open F .life] [Open F .sys] [Open F .power] [Open F .keeper] [Open F .grids] [Open F .crcs] [Open F .acts] [Open F .maintSeq] [Open F .meters] [Open F .cmds] [Open F .arb] [Open F .safety] [Open F .net] [Open F .flows] [Open F .dict] (h : Keeps F q0 s) (l : List Piece) (v : Int) : Keeps F q0 (State.writePieces s l v) := by
  unfold State.writePieces
  repeat' first
    | (intro i t ht)
    | with_reducible assumption
    | with_reducible apply keeps_ite
    | (extract_lets -underBinder +onlyGivenNames xl; refine keeps_cut (F := F) (r := q0) (x := xl) (fun hx => ?_) ?_; (focus clear_value xl; rename' xl => y); rotate_left; (focus unfold xl; clear xl); rotate_left)
    | (extract_lets -underBinder +onlyGivenNames xl; clear_value xl; rename' xl => y)
    | with_reducible apply State.writeField_keeps
    | with_reducible apply foldl_keeps
    | split

theorem State.handshakePieces_keeps {F : Part → Prop} {q0 s : State} [Open F .regs] [Open F .rsBlocks] (h : Keeps F q0 s) (l : List Piece) (v : Int) : Keeps F q0 (State.handshakePieces s l v) := by
  unfold State.handshakePieces
  repeat' first
    | (intro i t ht)
    | with_reducible assumption
    | with_reducible apply keeps_ite
    | (extract_lets -underBinder +onlyGivenNames xl; refine keeps_cut (F := F) (r := q0) (x := xl) (fun hx => ?_) ?_; (focus clear_value xl; rename' xl => y); rotate_left; (focus unfold xl; clear xl); rotate_left)
    | (extract_lets -underBinder +onlyGivenNames xl; clear_value xl; rename' xl => y)
    | with_reducible apply State.rsAccept_keeps
    | with_reducible apply foldl_keeps
    | split

end Sys2Proof.Machine
end

