-- ==== Sys2Proof/Laws/KeepsEntries.lean ====
section
/-! SUPPORT.  What the operations of Machine/Entries.lean keep. -/

set_option linter.unusedTactic false
set_option linter.unreachableTactic false
set_option linter.unusedVariables false
set_option linter.unnecessarySeqFocus false

namespace Sys2Proof.Machine

theorem State.readDevice_keeps {F : Part → Prop} {q s : State} [Open F .regs] [Open F .out] [Open F .ports] [Open F .tgs] [Open F .drives] [Open F .life] [Open F .sys] [Open F .keeper] [Open F .safety] [Open F .net] (h : Keeps F q s) (f : Nat) (r : DictRow) (ix sub : Nat) :
    Keeps F q (State.readDevice s f r ix sub).2.2 := by
  unfold State.readDevice
  split
  · exact h
  · split
    · exact foldl_keeps _ _ h fun t x ht => State.checkParity_keeps ht _ _
    · split
      · exact h
      · dsimp only
        split
        · exact h
        · exact foldl_keeps _ _ h fun t x ht => State.checkParity_keeps ht _ _

theorem State.applyGateList_keeps {F : Part → Prop} {q0 s : State} [Open F .regs] [Open F .out] [Open F .ports] [Open F .tgs] [Open F .drives] [Open F .life] [Open F .sys] [Open F .keeper] [Open F .safety] [Open F .net] (h : Keeps F q0 s) (p : Nat) (b : List Nat) : Keeps F q0 (State.applyGateList s p b) := by
  unfold State.applyGateList
  repeat' first
    | (intro i t ht)
    | with_reducible assumption
    | with_reducible apply keeps_ite
    | (extract_lets -underBinder +onlyGivenNames xl; refine keeps_cut (F := F) (r := q0) (x := xl) (fun hx => ?_) ?_; (focus clear_value xl; rename' xl => y); rotate_left; (focus unfold xl; clear xl); rotate_left)
    | (extract_lets -underBinder +onlyGivenNames xl; clear_value xl; rename' xl => y)
    | with_reducible apply State.checkParity_keeps
    | with_reducible apply State.set_keeps
    | with_reducible apply foldOver_keeps
    | split

theorem State.applyMembers_keeps {F : Part → Prop} {q0 s : State} [Open F .regs] [Open F .mem] [Open F .out] [Open F .freeCnt] [Open F .plls] [Open F .hops] [Open F .groups] [Open F .ports] [Open F .tgs] [Open F .drives] [Open F .adcs] [Open F .cmps] [Open F .pis] [Open F .cles] [Open F .life] [Open F .sys] [Open F .power] [Open F .keeper] [Open F .grids] [Open F .gridS] [Open F .crcs] [Open F .acts] [Open F .maintSeq] [Open F .meters] [Open F .cmds] [Open F .arb] [Open F .safety] [Open F .net] [Open F .flows] [Open F .dict] (h : Keeps F q0 s) (v : Nat) : Keeps F q0 (State.applyMembers s v) := by
  unfold State.applyMembers
  repeat' first
    | (intro i t ht)
    | with_reducible assumption
    | with_reducible apply keeps_ite
    | (extract_lets -underBinder +onlyGivenNames xl; refine keeps_cut (F := F) (r := q0) (x := xl) (fun hx => ?_) ?_; (focus clear_value xl; rename' xl => y); rotate_left; (focus unfold xl; clear xl); rotate_left)
    | (extract_lets -underBinder +onlyGivenNames xl; clear_value xl; rename' xl => y)
    | with_reducible apply State.writeField_keeps
    | with_reducible apply State.refreshProbeDie_keeps
    | with_reducible apply State.refreshGrid_keeps
    | with_reducible apply foldOver_keeps
    | split
    | refine Keeps.gridS ?_ _

theorem State.applyUse_keeps {F : Part → Prop} {q0 s : State} [Open F .regs] [Open F .vars] [Open F .flows] (h : Keeps F q0 s) (f : Nat) (v : Nat) : Keeps F q0 (State.applyUse s f v) := by
  unfold State.applyUse
  repeat' first
    | with_reducible assumption
    | with_reducible apply keeps_ite
    | (extract_lets -underBinder +onlyGivenNames xl; refine keeps_cut (F := F) (r := q0) (x := xl) (fun hx => ?_) ?_; (focus clear_value xl; rename' xl => y); rotate_left; (focus unfold xl; clear xl); rotate_left)
    | (extract_lets -underBinder +onlyGivenNames xl; clear_value xl; rename' xl => y)
    | with_reducible apply State.refreshDict_keeps
    | with_reducible apply State.modFlow_keeps
    | with_reducible apply State.setDval_keeps
    | split

theorem State.applyDirect_keeps {F : Part → Prop} {q0 s : State} [Open F .regs] [Open F .mem] [Open F .out] [Open F .freeCnt] [Open F .plls] [Open F .hops] [Open F .groups] [Open F .ports] [Open F .tgs] [Open F .drives] [Open F .adcs] [Open F .cmps] [Open F .pis] [Open F .cles] [Open F .life] [Open F .sys] [Open F .power] [Open F .keeper] [Open F .grids] [Open F .gridS] [Open F .crcs] [Open F .acts] [Open F .maintSeq] [Open F .meters] [Open F .vars] [Open F .cmds] [Open F .arb] [Open F .safety] [Open F .net] [Open F .flows] [Open F .dict] (h : Keeps F q0 s) (key : Nat) (v : DictVal) : Keeps F q0 (State.applyDirect s key v) := by
  unfold State.applyDirect
  repeat' first
    | with_reducible assumption
    | with_reducible apply keeps_ite
    | (extract_lets -underBinder +onlyGivenNames xl; refine keeps_cut (F := F) (r := q0) (x := xl) (fun hx => ?_) ?_; (focus clear_value xl; rename' xl => y); rotate_left; (focus unfold xl; clear xl); rotate_left)
    | (extract_lets -underBinder +onlyGivenNames xl; clear_value xl; rename' xl => y)
    | with_reducible apply State.applyUse_keeps
    | with_reducible apply State.applyMembers_keeps
    | with_reducible apply State.applyGateList_keeps
    | with_reducible apply State.writePieces_keeps
    | with_reducible apply State.setDval_keeps
    | split

theorem State.noteCommit_keeps {F : Part → Prop} {q0 s : State} [Open F .regs] [Open F .life] [Open F .keeper] (h : Keeps F q0 s) (key : Nat) (v : DictVal) : Keeps F q0 (State.noteCommit s key v) := by
  unfold State.noteCommit
  repeat' first
    | with_reducible assumption
    | with_reducible apply keeps_ite
    | with_reducible apply State.enterFault_keeps
    | split

theorem State.login_keeps {F : Part → Prop} {q s : State} [Open F .regs] [Open F .sys] [Open F .keeper] [Open F .flows] (h : Keeps F q s) (f : Nat) (b : List Nat) : Keeps F q (State.login s f b).2 := by
  unfold State.login
  dsimp only
  have hp := fun g => State.modSys_keeps h g
  repeat' first
    | exact h
    | exact hp _
    | (dsimp only; exact hp _)
    | (refine State.modSession_keeps ?_ _ _)
    | split

theorem State.logout_keeps {F : Part → Prop} {q0 s : State} [Open F .regs] [Open F .keeper] [Open F .safety] [Open F .flows] (h : Keeps F q0 s) (f : Nat) : Keeps F q0 (State.logout s f) := by
  unfold State.logout
  repeat' first
    | with_reducible assumption
    | with_reducible apply keeps_ite
    | (extract_lets -underBinder +onlyGivenNames xl; refine keeps_cut (F := F) (r := q0) (x := xl) (fun hx => ?_) ?_; (focus clear_value xl; rename' xl => y); rotate_left; (focus unfold xl; clear xl); rotate_left)
    | (extract_lets -underBinder +onlyGivenNames xl; clear_value xl; rename' xl => y)
    | with_reducible apply State.modSession_keeps
    | with_reducible apply State.safetyClose_keeps
    | split

theorem State.writeNow_keeps {F : Part → Prop} {q s : State} [Open F .regs] [Open F .mem] [Open F .out] [Open F .freeCnt] [Open F .plls] [Open F .hops] [Open F .groups] [Open F .ports] [Open F .tgs] [Open F .drives] [Open F .adcs] [Open F .cmps] [Open F .pis] [Open F .cles] [Open F .life] [Open F .sys] [Open F .power] [Open F .keeper] [Open F .grids] [Open F .gridS] [Open F .crcs] [Open F .acts] [Open F .maintSeq] [Open F .meters] [Open F .vars] [Open F .cmds] [Open F .arb] [Open F .safety] [Open F .net] [Open F .flows] [Open F .dict] (h : Keeps F q s) (f key : Nat) (v : DictVal) (b : List Nat) :
    Keeps F q (State.writeNow s f key v b).2 := by
  unfold State.writeNow
  dsimp only
  split <;> (try dsimp only)
  · exact State.modDict_keeps h _
  · exact State.login_keeps h f b
  · exact keeps_ite (State.logout_keeps h f) h
  · exact keeps_ite (State.stop_keeps h) h
  · exact State.restart_keeps h _
  · exact keeps_ite (State.modNet_keeps h _) h
  · exact keeps_ite (foldOver_keeps _ _ h fun i t ht => State.connect_keeps ht i) h
  · exact keeps_ite (foldOver_keeps _ _ h fun i t ht => State.disconnect_keeps ht i) h
  · exact State.safetyLogin_keeps h f b
  · exact keeps_ite (State.safetyClose_keeps h) h
  · exact State.requestWord_keeps h _
  · exact State.cancelSlot_keeps h _
  · split
    · exact keeps_ite (State.gateApply_keeps h _) h
    · split
      · exact State.crcControl_keeps h _ _
      · split
        · exact State.feed_keeps h _ b
        · exact State.applyDirect_keeps h key v

end Sys2Proof.Machine
end

