-- ==== Sys2Proof/Laws/KeepsDictionary.lean ====
section
/-! SUPPORT.  What the operations of Machine/Dictionary.lean keep. -/

set_option linter.unusedTactic false
set_option linter.unreachableTactic false
set_option linter.unusedVariables false
set_option linter.unnecessarySeqFocus false

namespace Sys2Proof.Machine

theorem State.appRequest_keeps {F : Part → Prop} {q0 s : State} [Open F .cmds] [Open F .dict] (h : Keeps F q0 s) (svc : Nat) (r : Sys2Proof.DictReq) (e : DeclEntry) (write : Bool) (b : List Nat) : Keeps F q0 (State.appRequest s svc r e write b) := by
  unfold State.appRequest
  repeat' first
    | with_reducible assumption
    | with_reducible apply keeps_ite
    | (extract_lets -underBinder +onlyGivenNames xl; refine keeps_cut (F := F) (r := q0) (x := xl) (fun hx => ?_) ?_; (focus clear_value xl; rename' xl => y); rotate_left; (focus unfold xl; clear xl); rotate_left)
    | (extract_lets -underBinder +onlyGivenNames xl; clear_value xl; rename' xl => y)
    | with_reducible apply State.modDict_keeps
    | with_reducible apply State.inputFrame_keeps
    | split

theorem State.readReq_keeps {F : Part → Prop} {q0 s : State} [Open F .regs] [Open F .out] [Open F .ports] [Open F .tgs] [Open F .drives] [Open F .life] [Open F .sys] [Open F .keeper] [Open F .cmds] [Open F .safety] [Open F .net] [Open F .flows] [Open F .dict] (h : Keeps F q0 s) (svc : Nat) (r : Sys2Proof.DictReq) : Keeps F q0 (State.readReq s svc r) := by
  unfold State.readReq
  repeat' first
    | with_reducible assumption
    | with_reducible apply keeps_ite
    | (extract_lets -underBinder +onlyGivenNames xl; refine keeps_cut (F := F) (r := q0) (x := xl) (fun hx => ?_) ?_; (focus clear_value xl; rename' xl => y); rotate_left; (focus unfold xl; clear xl); rotate_left)
    | (extract_lets -underBinder +onlyGivenNames xl; clear_value xl; rename' xl => y)
    | with_reducible apply State.appRequest_keeps
    | with_reducible apply State.readDevice_keeps
    | with_reducible apply State.sendValue_keeps
    | with_reducible apply State.abort_keeps
    | with_reducible apply State.answer_keeps
    | split

theorem State.commandFrame_keeps {F : Part → Prop} {q0 s : State} [Open F .cmds] [Open F .dict] (h : Keeps F q0 s) (svc : Nat) (r : Sys2Proof.DictReq) (v : DictVal) : Keeps F q0 (State.commandFrame s svc r v) := by
  unfold State.commandFrame
  repeat' first
    | with_reducible assumption
    | with_reducible apply keeps_ite
    | (extract_lets -underBinder +onlyGivenNames xl; refine keeps_cut (F := F) (r := q0) (x := xl) (fun hx => ?_) ?_; (focus clear_value xl; rename' xl => y); rotate_left; (focus unfold xl; clear xl); rotate_left)
    | (extract_lets -underBinder +onlyGivenNames xl; clear_value xl; rename' xl => y)
    | with_reducible apply State.modDict_keeps
    | with_reducible apply State.inputFrame_keeps
    | split

theorem State.newPasswordOf_keeps {F : Part → Prop} {q0 s : State} [Open F .freeCnt] (h : Keeps F q0 s) (p : Password) (b : List Nat) : Keeps F q0 (State.newPasswordOf s p b).2 := by
  unfold State.newPasswordOf
  repeat' first
    | with_reducible assumption
    | with_reducible apply keeps_ite
    | with_reducible apply keeps_ite_snd
    | (extract_lets -underBinder +onlyGivenNames xl; refine keeps_cut (F := F) (r := q0) (x := xl) (fun hx => ?_) ?_; (focus clear_value xl; rename' xl => y); rotate_left; (focus unfold xl; clear xl); rotate_left)
    | (extract_lets -underBinder +onlyGivenNames xl; clear_value xl; rename' xl => y)
    | with_reducible apply State.fresh_keeps
    | split
    | dsimp only

theorem State.applyPersisted_keeps {F : Part → Prop} {q0 s : State} [Open F .regs] [Open F .mem] [Open F .out] [Open F .freeCnt] [Open F .rsBlocks] [Open F .plls] [Open F .hops] [Open F .groups] [Open F .ports] [Open F .tgs] [Open F .drives] [Open F .adcs] [Open F .cmps] [Open F .pis] [Open F .cles] [Open F .life] [Open F .sys] [Open F .power] [Open F .keeper] [Open F .grids] [Open F .gridS] [Open F .crcs] [Open F .acts] [Open F .maintSeq] [Open F .meters] [Open F .vars] [Open F .cmds] [Open F .arb] [Open F .safety] [Open F .net] [Open F .flows] [Open F .dict] (h : Keeps F q0 s) (svc : Nat) (r : Sys2Proof.DictReq) (key : Nat) (v : DictVal) : Keeps F q0 (State.applyPersisted s svc r key v) := by
  unfold State.applyPersisted
  repeat' first
    | with_reducible assumption
    | with_reducible apply keeps_ite
    | (extract_lets -underBinder +onlyGivenNames xl; refine keeps_cut (F := F) (r := q0) (x := xl) (fun hx => ?_) ?_; (focus clear_value xl; rename' xl => y); rotate_left; (focus unfold xl; clear xl); rotate_left)
    | (extract_lets -underBinder +onlyGivenNames xl; clear_value xl; rename' xl => y)
    | with_reducible apply State.commandFrame_keeps
    | with_reducible apply State.noteCommit_keeps
    | with_reducible apply State.applyDirect_keeps
    | with_reducible apply State.handshakePieces_keeps
    | with_reducible apply State.answer_keeps
    | split

theorem State.writeDevice_keeps {F : Part → Prop} {q0 s : State} [Open F .regs] [Open F .mem] [Open F .out] [Open F .freeCnt] [Open F .plls] [Open F .hops] [Open F .groups] [Open F .ports] [Open F .tgs] [Open F .drives] [Open F .adcs] [Open F .cmps] [Open F .pis] [Open F .cles] [Open F .life] [Open F .sys] [Open F .power] [Open F .keeper] [Open F .grids] [Open F .gridS] [Open F .crcs] [Open F .acts] [Open F .maintSeq] [Open F .meters] [Open F .vars] [Open F .cmds] [Open F .arb] [Open F .safety] [Open F .net] [Open F .flows] [Open F .dict] (h : Keeps F q0 s) (svc : Nat) (r : Sys2Proof.DictReq) (row : DictRow) (b : List Nat) : Keeps F q0 (State.writeDevice s svc r row b) := by
  unfold State.writeDevice
  repeat' first
    | with_reducible assumption
    | with_reducible apply keeps_ite
    | (extract_lets -underBinder +onlyGivenNames xl; refine keeps_cut (F := F) (r := q0) (x := xl) (fun hx => ?_) ?_; (focus clear_value xl; rename' xl => y); rotate_left; (focus unfold xl; clear xl); rotate_left)
    | (extract_lets -underBinder +onlyGivenNames xl; clear_value xl; rename' xl => y)
    | with_reducible apply State.newPasswordOf_keeps
    | with_reducible apply State.writeNow_keeps
    | with_reducible apply State.abort_keeps
    | with_reducible apply State.answer_keeps
    | with_reducible apply State.modDict_keeps
    | with_reducible apply State.applyRequest_keeps
    | with_reducible apply State.pendWrite_keeps
    | with_reducible apply State.newPassword_keeps
    | with_reducible apply State.burstRequest_keeps
    | split

theorem State.writeValue_keeps {F : Part → Prop} {q0 s : State} [Open F .regs] [Open F .mem] [Open F .out] [Open F .freeCnt] [Open F .plls] [Open F .hops] [Open F .groups] [Open F .ports] [Open F .tgs] [Open F .drives] [Open F .adcs] [Open F .cmps] [Open F .pis] [Open F .cles] [Open F .life] [Open F .sys] [Open F .power] [Open F .keeper] [Open F .grids] [Open F .gridS] [Open F .crcs] [Open F .acts] [Open F .maintSeq] [Open F .meters] [Open F .vars] [Open F .cmds] [Open F .arb] [Open F .safety] [Open F .net] [Open F .flows] [Open F .dict] (h : Keeps F q0 s) (svc : Nat) (r : Sys2Proof.DictReq) (b : List Nat) : Keeps F q0 (State.writeValue s svc r b) := by
  unfold State.writeValue
  repeat' first
    | with_reducible assumption
    | with_reducible apply keeps_ite
    | (extract_lets -underBinder +onlyGivenNames xl; refine keeps_cut (F := F) (r := q0) (x := xl) (fun hx => ?_) ?_; (focus clear_value xl; rename' xl => y); rotate_left; (focus unfold xl; clear xl); rotate_left)
    | (extract_lets -underBinder +onlyGivenNames xl; clear_value xl; rename' xl => y)
    | with_reducible apply State.writeDevice_keeps
    | with_reducible apply State.appRequest_keeps
    | with_reducible apply State.abort_keeps
    | split

theorem State.writeReq_keeps {F : Part → Prop} {q0 s : State} [Open F .regs] [Open F .mem] [Open F .out] [Open F .freeCnt] [Open F .plls] [Open F .hops] [Open F .groups] [Open F .ports] [Open F .tgs] [Open F .drives] [Open F .adcs] [Open F .cmps] [Open F .pis] [Open F .cles] [Open F .life] [Open F .sys] [Open F .power] [Open F .keeper] [Open F .grids] [Open F .gridS] [Open F .crcs] [Open F .acts] [Open F .maintSeq] [Open F .meters] [Open F .vars] [Open F .cmds] [Open F .arb] [Open F .safety] [Open F .net] [Open F .flows] [Open F .dict] (h : Keeps F q0 s) (svc : Nat) (r : Sys2Proof.DictReq) : Keeps F q0 (State.writeReq s svc r) := by
  unfold State.writeReq
  repeat' first
    | with_reducible assumption
    | with_reducible apply keeps_ite
    | (extract_lets -underBinder +onlyGivenNames xl; refine keeps_cut (F := F) (r := q0) (x := xl) (fun hx => ?_) ?_; (focus clear_value xl; rename' xl => y); rotate_left; (focus unfold xl; clear xl); rotate_left)
    | (extract_lets -underBinder +onlyGivenNames xl; clear_value xl; rename' xl => y)
    | with_reducible apply State.writeValue_keeps
    | with_reducible apply State.abort_keeps
    | with_reducible apply State.answer_keeps
    | with_reducible apply State.modSession_keeps
    | split

theorem State.endTransfer_keeps {F : Part → Prop} {q0 s : State} [Open F .flows] (h : Keeps F q0 s) (f : Nat) : Keeps F q0 (State.endTransfer s f) := by
  unfold State.endTransfer
  repeat' first
    | with_reducible assumption
    | with_reducible apply keeps_ite
    | with_reducible apply State.modSession_keeps
    | split

theorem State.segUp_keeps {F : Part → Prop} {q0 s : State} [Open F .regs] [Open F .out] [Open F .ports] [Open F .net] [Open F .flows] (h : Keeps F q0 s) (svc : Nat) (r : Sys2Proof.DictReq) (x : Transfer) : Keeps F q0 (State.segUp s svc r x) := by
  unfold State.segUp
  repeat' first
    | with_reducible assumption
    | with_reducible apply keeps_ite
    | (extract_lets -underBinder +onlyGivenNames xl; refine keeps_cut (F := F) (r := q0) (x := xl) (fun hx => ?_) ?_; (focus clear_value xl; rename' xl => y); rotate_left; (focus unfold xl; clear xl); rotate_left)
    | (extract_lets -underBinder +onlyGivenNames xl; clear_value xl; rename' xl => y)
    | with_reducible apply State.endTransfer_keeps
    | with_reducible apply State.answer_keeps
    | with_reducible apply State.modSession_keeps
    | split

theorem State.segDn_keeps {F : Part → Prop} {q0 s : State} [Open F .regs] [Open F .mem] [Open F .out] [Open F .freeCnt] [Open F .plls] [Open F .hops] [Open F .groups] [Open F .ports] [Open F .tgs] [Open F .drives] [Open F .adcs] [Open F .cmps] [Open F .pis] [Open F .cles] [Open F .life] [Open F .sys] [Open F .power] [Open F .keeper] [Open F .grids] [Open F .gridS] [Open F .crcs] [Open F .acts] [Open F .maintSeq] [Open F .meters] [Open F .vars] [Open F .cmds] [Open F .arb] [Open F .safety] [Open F .net] [Open F .flows] [Open F .dict] (h : Keeps F q0 s) (svc : Nat) (r : Sys2Proof.DictReq) (x : Transfer) : Keeps F q0 (State.segDn s svc r x) := by
  unfold State.segDn
  repeat' first
    | with_reducible assumption
    | with_reducible apply keeps_ite
    | (extract_lets -underBinder +onlyGivenNames xl; refine keeps_cut (F := F) (r := q0) (x := xl) (fun hx => ?_) ?_; (focus clear_value xl; rename' xl => y); rotate_left; (focus unfold xl; clear xl); rotate_left)
    | (extract_lets -underBinder +onlyGivenNames xl; clear_value xl; rename' xl => y)
    | with_reducible apply State.endTransfer_keeps
    | with_reducible apply State.writeValue_keeps
    | with_reducible apply State.abort_keeps
    | with_reducible apply State.answer_keeps
    | with_reducible apply State.modSession_keeps
    | split

theorem State.openReq_keeps {F : Part → Prop} {q s : State} [Open F .regs] [Open F .out] [Open F .ports] [Open F .keeper] [Open F .vars] [Open F .safety] [Open F .net] [Open F .flows] [Open F .dict] (h : Keeps F q s) (r : Sys2Proof.DictReq) : Keeps F q (State.openReq s r) := by
  unfold State.openReq
  extract_lets -underBinder s1
  have h1 : Keeps F q s1 := by
    unfold s1
    split
    · exact State.closeSession_keeps h _
    · exact h
  split
  · apply keeps_ite
    · exact State.refuse_keeps h1 r _
    · dsimp only
      refine State.toClient_keeps ?_ _ _
      refine State.refreshDict_keeps ?_
      refine State.setDval_keeps ?_ _ _
      exact State.modFlow_keeps h1 _ _
  · exact State.refuse_keeps h1 r _

theorem State.request_keeps {F : Part → Prop} {q s : State} [Open F .regs] [Open F .mem] [Open F .out] [Open F .freeCnt] [Open F .plls] [Open F .hops] [Open F .groups] [Open F .ports] [Open F .tgs] [Open F .drives] [Open F .adcs] [Open F .cmps] [Open F .pis] [Open F .cles] [Open F .life] [Open F .sys] [Open F .power] [Open F .keeper] [Open F .grids] [Open F .gridS] [Open F .crcs] [Open F .acts] [Open F .maintSeq] [Open F .meters] [Open F .vars] [Open F .cmds] [Open F .arb] [Open F .safety] [Open F .net] [Open F .flows] [Open F .dict] (h : Keeps F q s) (svc : Nat) (r : Sys2Proof.DictReq) (x : Session) :
    Keeps F q (State.request s svc r x) := by
  unfold State.request
  extract_lets f same next replay plain
  have hp : ∀ t, Keeps F q t → Keeps F q (plain t) := by
    intro t ht
    unfold plain
    split
    · exact State.closeSession_keeps (State.answer_keeps ht _ _ _ _) _
    · exact State.answer_keeps ht _ _ _ _
    · exact State.readReq_keeps ht _ _
    · exact State.writeReq_keeps ht _ _
    · exact State.abort_keeps ht _ _ _
  clear_value plain
  apply keeps_ite
  · split
    · exact keeps_ite (State.endTransfer_keeps h _) h
    · exact h
  · split
    · apply keeps_ite
      · apply keeps_ite
        · apply keeps_ite
          · exact State.segDn_keeps h _ _ _
          · exact State.segUp_keeps h _ _ _
        · exact State.abort_keeps (State.endTransfer_keeps h _) _ _ _
      · exact hp _ (State.toClient_keeps (State.endTransfer_keeps h _) _ _)
    · apply keeps_ite
      · exact State.abort_keeps h _ _ _
      · exact hp _ h

theorem State.process_keeps {F : Part → Prop} {q0 s : State} [Open F .regs] [Open F .mem] [Open F .out] [Open F .freeCnt] [Open F .plls] [Open F .hops] [Open F .groups] [Open F .ports] [Open F .tgs] [Open F .drives] [Open F .adcs] [Open F .cmps] [Open F .pis] [Open F .cles] [Open F .life] [Open F .sys] [Open F .power] [Open F .keeper] [Open F .grids] [Open F .gridS] [Open F .crcs] [Open F .acts] [Open F .maintSeq] [Open F .meters] [Open F .vars] [Open F .cmds] [Open F .arb] [Open F .safety] [Open F .net] [Open F .flows] [Open F .dict] (h : Keeps F q0 s) (svc : Nat) (r : Sys2Proof.DictReq) : Keeps F q0 (State.process s svc r) := by
  unfold State.process
  repeat' first
    | with_reducible assumption
    | with_reducible apply keeps_ite
    | (extract_lets -underBinder +onlyGivenNames xl; refine keeps_cut (F := F) (r := q0) (x := xl) (fun hx => ?_) ?_; (focus clear_value xl; rename' xl => y); rotate_left; (focus unfold xl; clear xl); rotate_left)
    | (extract_lets -underBinder +onlyGivenNames xl; clear_value xl; rename' xl => y)
    | with_reducible apply State.request_keeps
    | with_reducible apply State.openReq_keeps
    | with_reducible apply State.refuse_keeps
    | with_reducible apply State.abort_keeps
    | with_reducible apply State.toClient_keeps
    | with_reducible apply State.incSat_keeps
    | split

theorem State.serve_keeps {F : Part → Prop} {q0 s : State} [Open F .regs] [Open F .mem] [Open F .out] [Open F .freeCnt] [Open F .plls] [Open F .hops] [Open F .groups] [Open F .ports] [Open F .tgs] [Open F .drives] [Open F .adcs] [Open F .cmps] [Open F .pis] [Open F .cles] [Open F .life] [Open F .sys] [Open F .power] [Open F .keeper] [Open F .grids] [Open F .gridS] [Open F .crcs] [Open F .acts] [Open F .maintSeq] [Open F .meters] [Open F .vars] [Open F .cmds] [Open F .arb] [Open F .safety] [Open F .net] [Open F .flows] [Open F .dict] (h : Keeps F q0 s) (svc : Nat) (r : Sys2Proof.DictReq) : Keeps F q0 (State.serve s svc r) := by
  unfold State.serve
  repeat' first
    | with_reducible assumption
    | with_reducible apply keeps_ite
    | with_reducible apply State.process_keeps
    | with_reducible apply State.modDict_keeps
    | split

theorem State.drain_keeps {F : Part → Prop} {r s : State} [Open F .regs] [Open F .mem] [Open F .out] [Open F .freeCnt] [Open F .plls] [Open F .hops] [Open F .groups] [Open F .ports] [Open F .tgs] [Open F .drives] [Open F .adcs] [Open F .cmps] [Open F .pis] [Open F .cles] [Open F .life] [Open F .sys] [Open F .power] [Open F .keeper] [Open F .grids] [Open F .gridS] [Open F .crcs] [Open F .acts] [Open F .maintSeq] [Open F .meters] [Open F .vars] [Open F .cmds] [Open F .arb] [Open F .safety] [Open F .net] [Open F .flows] [Open F .dict] (h : Keeps F r s) (fuel : Nat) : Keeps F r (State.drain fuel s) := by
  induction fuel generalizing s with
  | zero => exact h
  | succ n ih =>
    unfold State.drain
    split
    · exact h
    · split
      · exact h
      · exact ih (State.process_keeps (State.modDict_keeps h _) _ _)

theorem State.resume_keeps {F : Part → Prop} {q0 s : State} [Open F .regs] [Open F .mem] [Open F .out] [Open F .freeCnt] [Open F .plls] [Open F .hops] [Open F .groups] [Open F .ports] [Open F .tgs] [Open F .drives] [Open F .adcs] [Open F .cmps] [Open F .pis] [Open F .cles] [Open F .life] [Open F .sys] [Open F .power] [Open F .keeper] [Open F .grids] [Open F .gridS] [Open F .crcs] [Open F .acts] [Open F .maintSeq] [Open F .meters] [Open F .vars] [Open F .cmds] [Open F .arb] [Open F .safety] [Open F .net] [Open F .flows] [Open F .dict] (h : Keeps F q0 s)  : Keeps F q0 (State.resume s) := by
  unfold State.resume
  repeat' first
    | with_reducible assumption
    | with_reducible apply keeps_ite
    | with_reducible apply State.drain_keeps
    | split

theorem execDictOpen_keeps {F : Part → Prop} {q0 s : State} [Open F .regs] [Open F .mem] [Open F .out] [Open F .freeCnt] [Open F .plls] [Open F .hops] [Open F .groups] [Open F .ports] [Open F .tgs] [Open F .drives] [Open F .adcs] [Open F .cmps] [Open F .pis] [Open F .cles] [Open F .life] [Open F .sys] [Open F .power] [Open F .keeper] [Open F .grids] [Open F .gridS] [Open F .crcs] [Open F .acts] [Open F .maintSeq] [Open F .meters] [Open F .vars] [Open F .cmds] [Open F .arb] [Open F .safety] [Open F .net] [Open F .flows] [Open F .dict] (h : Keeps F q0 s) (r : Sys2Proof.DictReq) : KeepsOut F q0 (execDictOpen r s) := by
  unfold execDictOpen
  repeat' first
    | with_reducible assumption
    | with_reducible apply keeps_ite
    | with_reducible apply keepsOut_next
    | (refine keepsOut_whileRuns ?_ ?_)
    | with_reducible apply keepsOut_ite
    | with_reducible apply keepsOut_fault
    | with_reducible apply State.serve_keeps
    | split

theorem execDictClose_keeps {F : Part → Prop} {q0 s : State} [Open F .regs] [Open F .mem] [Open F .out] [Open F .freeCnt] [Open F .plls] [Open F .hops] [Open F .groups] [Open F .ports] [Open F .tgs] [Open F .drives] [Open F .adcs] [Open F .cmps] [Open F .pis] [Open F .cles] [Open F .life] [Open F .sys] [Open F .power] [Open F .keeper] [Open F .grids] [Open F .gridS] [Open F .crcs] [Open F .acts] [Open F .maintSeq] [Open F .meters] [Open F .vars] [Open F .cmds] [Open F .arb] [Open F .safety] [Open F .net] [Open F .flows] [Open F .dict] (h : Keeps F q0 s) (r : Sys2Proof.DictReq) : KeepsOut F q0 (execDictClose r s) := by
  unfold execDictClose
  repeat' first
    | with_reducible assumption
    | with_reducible apply keeps_ite
    | with_reducible apply keepsOut_next
    | (refine keepsOut_whileRuns ?_ ?_)
    | with_reducible apply keepsOut_ite
    | with_reducible apply keepsOut_fault
    | with_reducible apply State.serve_keeps
    | split

theorem execDictNop_keeps {F : Part → Prop} {q0 s : State} [Open F .regs] [Open F .mem] [Open F .out] [Open F .freeCnt] [Open F .plls] [Open F .hops] [Open F .groups] [Open F .ports] [Open F .tgs] [Open F .drives] [Open F .adcs] [Open F .cmps] [Open F .pis] [Open F .cles] [Open F .life] [Open F .sys] [Open F .power] [Open F .keeper] [Open F .grids] [Open F .gridS] [Open F .crcs] [Open F .acts] [Open F .maintSeq] [Open F .meters] [Open F .vars] [Open F .cmds] [Open F .arb] [Open F .safety] [Open F .net] [Open F .flows] [Open F .dict] (h : Keeps F q0 s) (r : Sys2Proof.DictReq) : KeepsOut F q0 (execDictNop r s) := by
  unfold execDictNop
  repeat' first
    | with_reducible assumption
    | with_reducible apply keeps_ite
    | with_reducible apply keepsOut_next
    | (refine keepsOut_whileRuns ?_ ?_)
    | with_reducible apply keepsOut_ite
    | with_reducible apply keepsOut_fault
    | with_reducible apply State.serve_keeps
    | split

theorem execDictRead_keeps {F : Part → Prop} {q0 s : State} [Open F .regs] [Open F .mem] [Open F .out] [Open F .freeCnt] [Open F .plls] [Open F .hops] [Open F .groups] [Open F .ports] [Open F .tgs] [Open F .drives] [Open F .adcs] [Open F .cmps] [Open F .pis] [Open F .cles] [Open F .life] [Open F .sys] [Open F .power] [Open F .keeper] [Open F .grids] [Open F .gridS] [Open F .crcs] [Open F .acts] [Open F .maintSeq] [Open F .meters] [Open F .vars] [Open F .cmds] [Open F .arb] [Open F .safety] [Open F .net] [Open F .flows] [Open F .dict] (h : Keeps F q0 s) (r : Sys2Proof.DictReq) : KeepsOut F q0 (execDictRead r s) := by
  unfold execDictRead
  repeat' first
    | with_reducible assumption
    | with_reducible apply keeps_ite
    | with_reducible apply keepsOut_next
    | (refine keepsOut_whileRuns ?_ ?_)
    | with_reducible apply keepsOut_ite
    | with_reducible apply keepsOut_fault
    | with_reducible apply State.serve_keeps
    | split

theorem execDictSegUp_keeps {F : Part → Prop} {q0 s : State} [Open F .regs] [Open F .mem] [Open F .out] [Open F .freeCnt] [Open F .plls] [Open F .hops] [Open F .groups] [Open F .ports] [Open F .tgs] [Open F .drives] [Open F .adcs] [Open F .cmps] [Open F .pis] [Open F .cles] [Open F .life] [Open F .sys] [Open F .power] [Open F .keeper] [Open F .grids] [Open F .gridS] [Open F .crcs] [Open F .acts] [Open F .maintSeq] [Open F .meters] [Open F .vars] [Open F .cmds] [Open F .arb] [Open F .safety] [Open F .net] [Open F .flows] [Open F .dict] (h : Keeps F q0 s) (r : Sys2Proof.DictReq) : KeepsOut F q0 (execDictSegUp r s) := by
  unfold execDictSegUp
  repeat' first
    | with_reducible assumption
    | with_reducible apply keeps_ite
    | with_reducible apply keepsOut_next
    | (refine keepsOut_whileRuns ?_ ?_)
    | with_reducible apply keepsOut_ite
    | with_reducible apply keepsOut_fault
    | with_reducible apply State.serve_keeps
    | split

theorem execDictWrite_keeps {F : Part → Prop} {q0 s : State} [Open F .regs] [Open F .mem] [Open F .out] [Open F .freeCnt] [Open F .plls] [Open F .hops] [Open F .groups] [Open F .ports] [Open F .tgs] [Open F .drives] [Open F .adcs] [Open F .cmps] [Open F .pis] [Open F .cles] [Open F .life] [Open F .sys] [Open F .power] [Open F .keeper] [Open F .grids] [Open F .gridS] [Open F .crcs] [Open F .acts] [Open F .maintSeq] [Open F .meters] [Open F .vars] [Open F .cmds] [Open F .arb] [Open F .safety] [Open F .net] [Open F .flows] [Open F .dict] (h : Keeps F q0 s) (r : Sys2Proof.DictReq) : KeepsOut F q0 (execDictWrite r s) := by
  unfold execDictWrite
  repeat' first
    | with_reducible assumption
    | with_reducible apply keeps_ite
    | with_reducible apply keepsOut_next
    | (refine keepsOut_whileRuns ?_ ?_)
    | with_reducible apply keepsOut_ite
    | with_reducible apply keepsOut_fault
    | with_reducible apply State.serve_keeps
    | split

theorem execDictSegDn_keeps {F : Part → Prop} {q0 s : State} [Open F .regs] [Open F .mem] [Open F .out] [Open F .freeCnt] [Open F .plls] [Open F .hops] [Open F .groups] [Open F .ports] [Open F .tgs] [Open F .drives] [Open F .adcs] [Open F .cmps] [Open F .pis] [Open F .cles] [Open F .life] [Open F .sys] [Open F .power] [Open F .keeper] [Open F .grids] [Open F .gridS] [Open F .crcs] [Open F .acts] [Open F .maintSeq] [Open F .meters] [Open F .vars] [Open F .cmds] [Open F .arb] [Open F .safety] [Open F .net] [Open F .flows] [Open F .dict] (h : Keeps F q0 s) (r : Sys2Proof.DictReq) : KeepsOut F q0 (execDictSegDn r s) := by
  unfold execDictSegDn
  repeat' first
    | with_reducible assumption
    | with_reducible apply keeps_ite
    | with_reducible apply keepsOut_next
    | (refine keepsOut_whileRuns ?_ ?_)
    | with_reducible apply keepsOut_ite
    | with_reducible apply keepsOut_fault
    | with_reducible apply State.serve_keeps
    | split

theorem execDictAbort_keeps {F : Part → Prop} {q0 s : State} [Open F .regs] [Open F .mem] [Open F .out] [Open F .freeCnt] [Open F .plls] [Open F .hops] [Open F .groups] [Open F .ports] [Open F .tgs] [Open F .drives] [Open F .adcs] [Open F .cmps] [Open F .pis] [Open F .cles] [Open F .life] [Open F .sys] [Open F .power] [Open F .keeper] [Open F .grids] [Open F .gridS] [Open F .crcs] [Open F .acts] [Open F .maintSeq] [Open F .meters] [Open F .vars] [Open F .cmds] [Open F .arb] [Open F .safety] [Open F .net] [Open F .flows] [Open F .dict] (h : Keeps F q0 s) (r : Sys2Proof.DictReq) (word : AbortMsg) : KeepsOut F q0 (execDictAbort r word s) := by
  unfold execDictAbort
  repeat' first
    | with_reducible assumption
    | with_reducible apply keeps_ite
    | with_reducible apply keepsOut_next
    | (refine keepsOut_whileRuns ?_ ?_)
    | with_reducible apply keepsOut_ite
    | with_reducible apply keepsOut_fault
    | with_reducible apply State.serve_keeps
    | split

theorem execDictLogin_keeps {F : Part → Prop} {q0 s : State} [Open F .regs] [Open F .mem] [Open F .out] [Open F .freeCnt] [Open F .plls] [Open F .hops] [Open F .groups] [Open F .ports] [Open F .tgs] [Open F .drives] [Open F .adcs] [Open F .cmps] [Open F .pis] [Open F .cles] [Open F .life] [Open F .sys] [Open F .power] [Open F .keeper] [Open F .grids] [Open F .gridS] [Open F .crcs] [Open F .acts] [Open F .maintSeq] [Open F .meters] [Open F .vars] [Open F .cmds] [Open F .arb] [Open F .safety] [Open F .net] [Open F .flows] [Open F .dict] (h : Keeps F q0 s) (r : Sys2Proof.DictReq) : KeepsOut F q0 (execDictLogin r s) := by
  unfold execDictLogin
  repeat' first
    | with_reducible assumption
    | with_reducible apply keeps_ite
    | with_reducible apply keepsOut_next
    | (refine keepsOut_whileRuns ?_ ?_)
    | with_reducible apply keepsOut_ite
    | with_reducible apply keepsOut_fault
    | with_reducible apply State.serve_keeps
    | split

theorem execDictLogout_keeps {F : Part → Prop} {q0 s : State} [Open F .regs] [Open F .mem] [Open F .out] [Open F .freeCnt] [Open F .plls] [Open F .hops] [Open F .groups] [Open F .ports] [Open F .tgs] [Open F .drives] [Open F .adcs] [Open F .cmps] [Open F .pis] [Open F .cles] [Open F .life] [Open F .sys] [Open F .power] [Open F .keeper] [Open F .grids] [Open F .gridS] [Open F .crcs] [Open F .acts] [Open F .maintSeq] [Open F .meters] [Open F .vars] [Open F .cmds] [Open F .arb] [Open F .safety] [Open F .net] [Open F .flows] [Open F .dict] (h : Keeps F q0 s) (r : Sys2Proof.DictReq) : KeepsOut F q0 (execDictLogout r s) := by
  unfold execDictLogout
  repeat' first
    | with_reducible assumption
    | with_reducible apply keeps_ite
    | with_reducible apply keepsOut_next
    | (refine keepsOut_whileRuns ?_ ?_)
    | with_reducible apply keepsOut_ite
    | with_reducible apply keepsOut_fault
    | with_reducible apply State.serve_keeps
    | split

theorem execOpPassword_keeps {F : Part → Prop} {q0 s : State} [Open F .regs] [Open F .mem] [Open F .out] [Open F .freeCnt] [Open F .plls] [Open F .hops] [Open F .groups] [Open F .ports] [Open F .tgs] [Open F .drives] [Open F .adcs] [Open F .cmps] [Open F .pis] [Open F .cles] [Open F .life] [Open F .sys] [Open F .power] [Open F .keeper] [Open F .grids] [Open F .gridS] [Open F .crcs] [Open F .acts] [Open F .maintSeq] [Open F .meters] [Open F .vars] [Open F .cmds] [Open F .arb] [Open F .safety] [Open F .net] [Open F .flows] [Open F .dict] (h : Keeps F q0 s) (r : Sys2Proof.DictReq) : KeepsOut F q0 (execOpPassword r s) := by
  unfold execOpPassword
  repeat' first
    | with_reducible assumption
    | with_reducible apply keeps_ite
    | with_reducible apply keepsOut_next
    | (refine keepsOut_whileRuns ?_ ?_)
    | with_reducible apply keepsOut_ite
    | with_reducible apply keepsOut_fault
    | with_reducible apply State.serve_keeps
    | split

theorem execMntPassword_keeps {F : Part → Prop} {q0 s : State} [Open F .regs] [Open F .mem] [Open F .out] [Open F .freeCnt] [Open F .plls] [Open F .hops] [Open F .groups] [Open F .ports] [Open F .tgs] [Open F .drives] [Open F .adcs] [Open F .cmps] [Open F .pis] [Open F .cles] [Open F .life] [Open F .sys] [Open F .power] [Open F .keeper] [Open F .grids] [Open F .gridS] [Open F .crcs] [Open F .acts] [Open F .maintSeq] [Open F .meters] [Open F .vars] [Open F .cmds] [Open F .arb] [Open F .safety] [Open F .net] [Open F .flows] [Open F .dict] (h : Keeps F q0 s) (r : Sys2Proof.DictReq) : KeepsOut F q0 (execMntPassword r s) := by
  unfold execMntPassword
  repeat' first
    | with_reducible assumption
    | with_reducible apply keeps_ite
    | with_reducible apply keepsOut_next
    | (refine keepsOut_whileRuns ?_ ?_)
    | with_reducible apply keepsOut_ite
    | with_reducible apply keepsOut_fault
    | with_reducible apply State.serve_keeps
    | split

theorem execRestore_keeps {F : Part → Prop} {q0 s : State} [Open F .regs] [Open F .mem] [Open F .out] [Open F .freeCnt] [Open F .plls] [Open F .hops] [Open F .groups] [Open F .ports] [Open F .tgs] [Open F .drives] [Open F .adcs] [Open F .cmps] [Open F .pis] [Open F .cles] [Open F .life] [Open F .sys] [Open F .power] [Open F .keeper] [Open F .grids] [Open F .gridS] [Open F .crcs] [Open F .acts] [Open F .maintSeq] [Open F .meters] [Open F .vars] [Open F .cmds] [Open F .arb] [Open F .safety] [Open F .net] [Open F .flows] [Open F .dict] (h : Keeps F q0 s) (r : Sys2Proof.DictReq) : KeepsOut F q0 (execRestore r s) := by
  unfold execRestore
  repeat' first
    | with_reducible assumption
    | with_reducible apply keeps_ite
    | with_reducible apply keepsOut_next
    | (refine keepsOut_whileRuns ?_ ?_)
    | with_reducible apply keepsOut_ite
    | with_reducible apply keepsOut_fault
    | with_reducible apply State.serve_keeps
    | split

theorem execSessionTimeout_keeps {F : Part → Prop} {q0 s : State} [Open F .regs] [Open F .keeper] [Open F .vars] [Open F .safety] [Open F .flows] [Open F .dict] (h : Keeps F q0 s) (f : Fin 128) : KeepsOut F q0 (execSessionTimeout f s) := by
  unfold execSessionTimeout
  repeat' first
    | with_reducible assumption
    | with_reducible apply keeps_ite
    | with_reducible apply keepsOut_next
    | (refine keepsOut_whileRuns ?_ ?_)
    | with_reducible apply keepsOut_ite
    | with_reducible apply keepsOut_fault
    | with_reducible apply State.closeSession_keeps
    | split

theorem execXferTimeout_keeps {F : Part → Prop} {q0 s : State} [Open F .regs] [Open F .out] [Open F .ports] [Open F .net] [Open F .flows] (h : Keeps F q0 s) (f : Fin 128) : KeepsOut F q0 (execXferTimeout f s) := by
  unfold execXferTimeout
  repeat' first
    | with_reducible assumption
    | with_reducible apply keeps_ite
    | with_reducible apply keepsOut_next
    | (refine keepsOut_whileRuns ?_ ?_)
    | with_reducible apply keepsOut_ite
    | with_reducible apply keepsOut_fault
    | (extract_lets -underBinder +onlyGivenNames xl; refine keeps_cut (F := F) (r := q0) (x := xl) (fun hx => ?_) ?_; (focus clear_value xl; rename' xl => y); rotate_left; (focus unfold xl; clear xl); rotate_left)
    | (extract_lets -underBinder +onlyGivenNames xl; clear_value xl; rename' xl => y)
    | with_reducible apply State.endTransfer_keeps
    | with_reducible apply State.toClient_keeps
    | split

theorem State.persistFails_keeps {F : Part → Prop} {q0 s : State} [Open F .regs] [Open F .mem] [Open F .out] [Open F .freeCnt] [Open F .plls] [Open F .hops] [Open F .groups] [Open F .ports] [Open F .tgs] [Open F .drives] [Open F .adcs] [Open F .cmps] [Open F .pis] [Open F .cles] [Open F .life] [Open F .sys] [Open F .power] [Open F .keeper] [Open F .grids] [Open F .gridS] [Open F .crcs] [Open F .acts] [Open F .maintSeq] [Open F .meters] [Open F .vars] [Open F .cmds] [Open F .arb] [Open F .safety] [Open F .net] [Open F .flows] [Open F .dict] (h : Keeps F q0 s)  : Keeps F q0 (State.persistFails s) := by
  unfold State.persistFails
  repeat' first
    | with_reducible assumption
    | with_reducible apply keeps_ite
    | (extract_lets -underBinder +onlyGivenNames xl; refine keeps_cut (F := F) (r := q0) (x := xl) (fun hx => ?_) ?_; (focus clear_value xl; rename' xl => y); rotate_left; (focus unfold xl; clear xl); rotate_left)
    | (extract_lets -underBinder +onlyGivenNames xl; clear_value xl; rename' xl => y)
    | with_reducible apply State.resume_keeps
    | with_reducible apply State.abort_keeps
    | with_reducible apply State.modKeeper_keeps
    | with_reducible apply State.modDict_keeps
    | with_reducible apply State.applyWithdraw_keeps
    | with_reducible apply State.safRegionRequest_keeps
    | with_reducible apply State.modSafety_keeps
    | split
    | refine Keeps.sys ?_ _

theorem State.appPersistFails_keeps {F : Part → Prop} {q0 s : State} [Open F .regs] [Open F .out] [Open F .ports] [Open F .keeper] [Open F .net] [Open F .flows] [Open F .dict] (h : Keeps F q0 s)  : Keeps F q0 (State.appPersistFails s) := by
  unfold State.appPersistFails
  repeat' first
    | with_reducible assumption
    | with_reducible apply keeps_ite
    | (extract_lets -underBinder +onlyGivenNames xl; refine keeps_cut (F := F) (r := q0) (x := xl) (fun hx => ?_) ?_; (focus clear_value xl; rename' xl => y); rotate_left; (focus unfold xl; clear xl); rotate_left)
    | (extract_lets -underBinder +onlyGivenNames xl; clear_value xl; rename' xl => y)
    | with_reducible apply State.abort_keeps
    | with_reducible apply State.modKeeper_keeps
    | with_reducible apply State.modDict_keeps
    | split

theorem execPersistTimeout_keeps {F : Part → Prop} {q0 s : State} [Open F .regs] [Open F .mem] [Open F .out] [Open F .freeCnt] [Open F .plls] [Open F .hops] [Open F .groups] [Open F .ports] [Open F .tgs] [Open F .drives] [Open F .adcs] [Open F .cmps] [Open F .pis] [Open F .cles] [Open F .life] [Open F .sys] [Open F .power] [Open F .keeper] [Open F .grids] [Open F .gridS] [Open F .crcs] [Open F .acts] [Open F .maintSeq] [Open F .meters] [Open F .vars] [Open F .cmds] [Open F .arb] [Open F .safety] [Open F .net] [Open F .flows] [Open F .dict] (h : Keeps F q0 s) (app : Bool) : KeepsOut F q0 (execPersistTimeout app s) := by
  unfold execPersistTimeout
  repeat' first
    | with_reducible assumption
    | with_reducible apply keeps_ite
    | with_reducible apply keepsOut_next
    | (refine keepsOut_whileRuns ?_ ?_)
    | with_reducible apply keepsOut_ite
    | with_reducible apply keepsOut_fault
    | with_reducible apply State.appPersistFails_keeps
    | with_reducible apply State.persistFails_keeps
    | split

theorem State.answerRouted_keeps {F : Part → Prop} {q0 s : State} [Open F .regs] [Open F .mem] [Open F .out] [Open F .freeCnt] [Open F .plls] [Open F .hops] [Open F .groups] [Open F .ports] [Open F .tgs] [Open F .drives] [Open F .adcs] [Open F .cmps] [Open F .pis] [Open F .cles] [Open F .life] [Open F .sys] [Open F .power] [Open F .keeper] [Open F .grids] [Open F .gridS] [Open F .crcs] [Open F .acts] [Open F .maintSeq] [Open F .meters] [Open F .vars] [Open F .cmds] [Open F .arb] [Open F .safety] [Open F .net] [Open F .flows] [Open F .dict] (h : Keeps F q0 s)  : Keeps F q0 (State.answerRouted s) := by
  unfold State.answerRouted
  repeat' first
    | with_reducible assumption
    | with_reducible apply keeps_ite
    | with_reducible apply State.resume_keeps
    | with_reducible apply State.answer_keeps
    | with_reducible apply State.modDict_keeps
    | split

theorem execInputFrameArrival_keeps {F : Part → Prop} {q0 s : State} [Open F .regs] [Open F .mem] [Open F .out] [Open F .freeCnt] [Open F .plls] [Open F .hops] [Open F .groups] [Open F .ports] [Open F .tgs] [Open F .drives] [Open F .adcs] [Open F .cmps] [Open F .pis] [Open F .cles] [Open F .life] [Open F .sys] [Open F .power] [Open F .keeper] [Open F .grids] [Open F .gridS] [Open F .crcs] [Open F .acts] [Open F .maintSeq] [Open F .meters] [Open F .vars] [Open F .cmds] [Open F .arb] [Open F .safety] [Open F .net] [Open F .flows] [Open F .dict] (h : Keeps F q0 s) (c : Fin 2) : KeepsOut F q0 (execInputFrameArrival c s) := by
  unfold execInputFrameArrival
  repeat' first
    | with_reducible assumption
    | with_reducible apply keeps_ite
    | with_reducible apply keepsOut_next
    | (refine keepsOut_whileRuns ?_ ?_)
    | with_reducible apply keepsOut_ite
    | with_reducible apply keepsOut_fault
    | with_reducible apply State.answerRouted_keeps
    | with_reducible apply State.inputFrameArrival_keeps
    | split

end Sys2Proof.Machine
end

