-- ==== Sys2Proof/Laws/KeepsBursts.lean ====
section
/-! SUPPORT.  What the operations of Machine/Bursts.lean keep. -/

set_option linter.unusedTactic false
set_option linter.unreachableTactic false
set_option linter.unusedVariables false
set_option linter.unnecessarySeqFocus false

namespace Sys2Proof.Machine

theorem State.safCommitted_keeps {F : Part → Prop} {q0 s : State} [Open F .regs] [Open F .mem] [Open F .out] [Open F .freeCnt] [Open F .plls] [Open F .hops] [Open F .groups] [Open F .ports] [Open F .tgs] [Open F .drives] [Open F .adcs] [Open F .cmps] [Open F .pis] [Open F .cles] [Open F .life] [Open F .sys] [Open F .power] [Open F .keeper] [Open F .grids] [Open F .gridS] [Open F .crcs] [Open F .acts] [Open F .maintSeq] [Open F .meters] [Open F .vars] [Open F .cmds] [Open F .arb] [Open F .safety] [Open F .net] [Open F .flows] [Open F .dict] (h : Keeps F q0 s)  : Keeps F q0 (State.safCommitted s) := by
  unfold State.safCommitted
  repeat' first
    | with_reducible assumption
    | with_reducible apply keeps_ite
    | (extract_lets -underBinder +onlyGivenNames xl; refine keeps_cut (F := F) (r := q0) (x := xl) (fun hx => ?_) ?_; (focus clear_value xl; rename' xl => y); rotate_left; (focus unfold xl; clear xl); rotate_left)
    | (extract_lets -underBinder +onlyGivenNames xl; clear_value xl; rename' xl => y)
    | with_reducible apply State.resume_keeps
    | with_reducible apply State.abort_keeps
    | with_reducible apply State.answer_keeps
    | with_reducible apply State.askDone_keeps
    | with_reducible apply State.modSafety_keeps
    | split

theorem State.endBurst1_keeps {F : Part → Prop} {q0 s : State} [Open F .regs] [Open F .mem] [Open F .out] [Open F .freeCnt] [Open F .plls] [Open F .hops] [Open F .groups] [Open F .ports] [Open F .tgs] [Open F .drives] [Open F .adcs] [Open F .cmps] [Open F .pis] [Open F .cles] [Open F .life] [Open F .sys] [Open F .power] [Open F .keeper] [Open F .grids] [Open F .gridS] [Open F .crcs] [Open F .acts] [Open F .maintSeq] [Open F .meters] [Open F .vars] [Open F .cmds] [Open F .arb] [Open F .safety] [Open F .net] [Open F .flows] [Open F .dict] (h : Keeps F q0 s)  : Keeps F q0 (State.endBurst1 s) := by
  unfold State.endBurst1
  repeat' first
    | with_reducible assumption
    | with_reducible apply keeps_ite
    | (extract_lets -underBinder +onlyGivenNames xl; refine keeps_cut (F := F) (r := q0) (x := xl) (fun hx => ?_) ?_; (focus clear_value xl; rename' xl => y); rotate_left; (focus unfold xl; clear xl); rotate_left)
    | (extract_lets -underBinder +onlyGivenNames xl; clear_value xl; rename' xl => y)
    | with_reducible apply State.safCommitted_keeps
    | with_reducible apply State.modKeeper_keeps
    | with_reducible apply State.orBits_keeps
    | split

theorem State.writeCommitted_keeps {F : Part → Prop} {q0 s : State} [Open F .regs] [Open F .mem] [Open F .out] [Open F .freeCnt] [Open F .rsBlocks] [Open F .plls] [Open F .hops] [Open F .groups] [Open F .ports] [Open F .tgs] [Open F .drives] [Open F .adcs] [Open F .cmps] [Open F .pis] [Open F .cles] [Open F .life] [Open F .sys] [Open F .power] [Open F .keeper] [Open F .grids] [Open F .gridS] [Open F .crcs] [Open F .acts] [Open F .maintSeq] [Open F .meters] [Open F .vars] [Open F .cmds] [Open F .arb] [Open F .safety] [Open F .net] [Open F .flows] [Open F .dict] [Open F .persist] (h : Keeps F q0 s) (c : Nat) : Keeps F q0 (State.writeCommitted s c) := by
  unfold State.writeCommitted
  repeat' first
    | with_reducible assumption
    | with_reducible apply keeps_ite
    | (extract_lets -underBinder +onlyGivenNames xl; refine keeps_cut (F := F) (r := q0) (x := xl) (fun hx => ?_) ?_; (focus clear_value xl; rename' xl => y); rotate_left; (focus unfold xl; clear xl); rotate_left)
    | (extract_lets -underBinder +onlyGivenNames xl; clear_value xl; rename' xl => y)
    | with_reducible apply State.resume_keeps
    | with_reducible apply State.applyPersisted_keeps
    | with_reducible apply State.noteCommit_keeps
    | with_reducible apply State.answer_keeps
    | with_reducible apply State.modDict_keeps
    | split
    | refine Keeps.sys ?_ _
    | refine Keeps.persist ?_ _

theorem State.endBurst3_keeps {F : Part → Prop} {q0 s : State} [Open F .regs] [Open F .life] (h : Keeps F q0 s)  : Keeps F q0 (State.endBurst3 s) := by
  unfold State.endBurst3
  repeat' first
    | with_reducible assumption
    | with_reducible apply keeps_ite
    | (extract_lets -underBinder +onlyGivenNames xl; refine keeps_cut (F := F) (r := q0) (x := xl) (fun hx => ?_) ?_; (focus clear_value xl; rename' xl => y); rotate_left; (focus unfold xl; clear xl); rotate_left)
    | (extract_lets -underBinder +onlyGivenNames xl; clear_value xl; rename' xl => y)
    | with_reducible apply State.modLife_keeps
    | with_reducible apply State.orBits_keeps
    | split

theorem State.endBurst5_keeps {F : Part → Prop} {q0 s : State} [Open F .regs] [Open F .keeper] [Open F .meters] (h : Keeps F q0 s)  : Keeps F q0 (State.endBurst5 s) := by
  unfold State.endBurst5
  repeat' first
    | with_reducible assumption
    | with_reducible apply keeps_ite
    | (extract_lets -underBinder +onlyGivenNames xl; refine keeps_cut (F := F) (r := q0) (x := xl) (fun hx => ?_) ?_; (focus clear_value xl; rename' xl => y); rotate_left; (focus unfold xl; clear xl); rotate_left)
    | (extract_lets -underBinder +onlyGivenNames xl; clear_value xl; rename' xl => y)
    | with_reducible apply State.modKeeper_keeps
    | with_reducible apply State.modMeter_keeps
    | with_reducible apply State.orBits_keeps
    | split

theorem State.endBurst7_keeps {F : Part → Prop} {q0 s : State} [Open F .regs] [Open F .out] [Open F .ports] [Open F .keeper] [Open F .net] [Open F .flows] [Open F .dict] (h : Keeps F q0 s)  : Keeps F q0 (State.endBurst7 s) := by
  unfold State.endBurst7
  repeat' first
    | (intro i t ht)
    | with_reducible assumption
    | with_reducible apply keeps_ite
    | (extract_lets -underBinder +onlyGivenNames xl; refine keeps_cut (F := F) (r := q0) (x := xl) (fun hx => ?_) ?_; (focus clear_value xl; rename' xl => y); rotate_left; (focus unfold xl; clear xl); rotate_left)
    | (extract_lets -underBinder +onlyGivenNames xl; clear_value xl; rename' xl => y)
    | with_reducible apply State.answer_keeps
    | with_reducible apply State.modKeeper_keeps
    | with_reducible apply State.modDict_keeps
    | with_reducible apply State.orBits_keeps
    | with_reducible apply foldl_keeps
    | split

theorem State.endBurst8_keeps {F : Part → Prop} {q0 s : State} [Open F .ports] [Open F .life] (h : Keeps F q0 s)  : Keeps F q0 (State.endBurst8 s) := by
  unfold State.endBurst8
  repeat' first
    | with_reducible assumption
    | with_reducible apply keeps_ite
    | (extract_lets -underBinder +onlyGivenNames xl; refine keeps_cut (F := F) (r := q0) (x := xl) (fun hx => ?_) ?_; (focus clear_value xl; rename' xl => y); rotate_left; (focus unfold xl; clear xl); rotate_left)
    | (extract_lets -underBinder +onlyGivenNames xl; clear_value xl; rename' xl => y)
    | with_reducible apply State.subtract8_keeps
    | with_reducible apply State.modLife_keeps
    | split

theorem State.endBurst9_keeps {F : Part → Prop} {q0 s : State} [Open F .life] (h : Keeps F q0 s)  : Keeps F q0 (State.endBurst9 s) := by
  unfold State.endBurst9
  repeat' first
    | with_reducible assumption
    | with_reducible apply keeps_ite
    | with_reducible apply State.modLife_keeps
    | split

theorem State.endBurst_keeps {F : Part → Prop} {q0 s : State} [Open F .regs] [Open F .mem] [Open F .out] [Open F .freeCnt] [Open F .rsBlocks] [Open F .plls] [Open F .hops] [Open F .groups] [Open F .ports] [Open F .tgs] [Open F .drives] [Open F .adcs] [Open F .cmps] [Open F .pis] [Open F .cles] [Open F .life] [Open F .sys] [Open F .power] [Open F .keeper] [Open F .grids] [Open F .gridS] [Open F .crcs] [Open F .acts] [Open F .maintSeq] [Open F .meters] [Open F .vars] [Open F .cmds] [Open F .arb] [Open F .safety] [Open F .net] [Open F .flows] [Open F .dict] [Open F .persist] (h : Keeps F q0 s) (c : Nat) : Keeps F q0 (State.endBurst s c) := by
  unfold State.endBurst
  repeat' first
    | with_reducible assumption
    | with_reducible apply keeps_ite
    | with_reducible apply State.endBurst9_keeps
    | with_reducible apply State.endBurst8_keeps
    | with_reducible apply State.endBurst7_keeps
    | with_reducible apply State.endBurst5_keeps
    | with_reducible apply State.endBurst3_keeps
    | with_reducible apply State.writeCommitted_keeps
    | with_reducible apply State.endBurst1_keeps
    | with_reducible apply State.modKeeper_keeps
    | split
    | refine Keeps.sys ?_ _

theorem execBurstComplete_keeps {F : Part → Prop} {q0 s : State} [Open F .regs] [Open F .mem] [Open F .out] [Open F .freeCnt] [Open F .rsBlocks] [Open F .plls] [Open F .hops] [Open F .groups] [Open F .ports] [Open F .tgs] [Open F .drives] [Open F .adcs] [Open F .cmps] [Open F .pis] [Open F .cles] [Open F .life] [Open F .sys] [Open F .power] [Open F .keeper] [Open F .grids] [Open F .gridS] [Open F .crcs] [Open F .acts] [Open F .maintSeq] [Open F .meters] [Open F .vars] [Open F .cmds] [Open F .arb] [Open F .safety] [Open F .net] [Open F .flows] [Open F .dict] [Open F .persist] (h : Keeps F q0 s)  : KeepsOut F q0 (execBurstComplete s) := by
  unfold execBurstComplete
  repeat' first
    | (intro i t ht)
    | with_reducible assumption
    | with_reducible apply keeps_ite
    | with_reducible apply keepsOut_next
    | (refine keepsOut_whileRuns ?_ ?_)
    | with_reducible apply keepsOut_ite
    | with_reducible apply keepsOut_fault
    | (extract_lets -underBinder +onlyGivenNames xl; refine keeps_cut (F := F) (r := q0) (x := xl) (fun hx => ?_) ?_; (focus clear_value xl; rename' xl => y); rotate_left; (focus unfold xl; clear xl); rotate_left)
    | (extract_lets -underBinder +onlyGivenNames xl; clear_value xl; rename' xl => y)
    | with_reducible apply State.endBurst_keeps
    | with_reducible apply State.ma6Burst_keeps
    | with_reducible apply State.burstOver_keeps
    | with_reducible apply State.modCopies_keeps
    | with_reducible apply foldl_keeps
    | split

end Sys2Proof.Machine
end

