-- ==== Sys2Proof/Laws/KeepsStarts.lean ====
section
/-! SUPPORT.  What the operations of Machine/Starts.lean keep. -/

set_option linter.unusedTactic false
set_option linter.unreachableTactic false
set_option linter.unusedVariables false
set_option linter.unnecessarySeqFocus false

namespace Sys2Proof.Machine

theorem State.regionDefault_keeps {F : Part → Prop} {q0 s : State} [Open F .life] [Open F .sys] [Open F .keeper] [Open F .meters] [Open F .safety] [Open F .dict] [Open F .persist] (h : Keeps F q0 s) (r : Nat) : Keeps F q0 (State.regionDefault s r) := by
  unfold State.regionDefault
  repeat' first
    | with_reducible assumption
    | with_reducible apply keeps_ite
    | with_reducible apply State.modLife_keeps
    | with_reducible apply State.modKeeper_keeps
    | with_reducible apply State.modDict_keeps
    | with_reducible apply State.modSafety_keeps
    | with_reducible apply State.modMeter_keeps
    | split
    | refine Keeps.sys ?_ _
    | refine Keeps.persist ?_ _

theorem State.readRegions_keeps {F : Part → Prop} {q0 s : State} [Open F .regs] [Open F .life] [Open F .sys] [Open F .keeper] [Open F .meters] [Open F .safety] [Open F .dict] [Open F .persist] (h : Keeps F q0 s)  : Keeps F q0 (State.readRegions s) := by
  unfold State.readRegions
  repeat' first
    | (intro i t ht)
    | with_reducible assumption
    | with_reducible apply keeps_ite
    | with_reducible apply State.regionDefault_keeps
    | with_reducible apply State.enterFault_keeps
    | with_reducible apply foldl_keeps
    | split

theorem State.closeOpenAttempt_keeps {F : Part → Prop} {q0 s : State} [Open F .regs] [Open F .life] [Open F .sys] [Open F .keeper] (h : Keeps F q0 s)  : Keeps F q0 (State.closeOpenAttempt s) := by
  unfold State.closeOpenAttempt
  repeat' first
    | with_reducible assumption
    | with_reducible apply keeps_ite
    | with_reducible apply State.failAttempt_keeps
    | split

theorem State.commitSys_keeps {F : Part → Prop} {q0 s : State} [Open F .sys] [Open F .keeper] (h : Keeps F q0 s) (f : SysRegion → SysRegion) : Keeps F q0 (State.commitSys s f) := by
  unfold State.commitSys
  repeat' first
    | with_reducible assumption
    | with_reducible apply keeps_ite
    | (extract_lets -underBinder +onlyGivenNames xl; refine keeps_cut (F := F) (r := q0) (x := xl) (fun hx => ?_) ?_; (focus clear_value xl; rename' xl => y); rotate_left; (focus unfold xl; clear xl); rotate_left)
    | (extract_lets -underBinder +onlyGivenNames xl; clear_value xl; rename' xl => y)
    | with_reducible apply State.modCopies_keeps
    | with_reducible apply State.modKeeper_keeps
    | split
    | refine Keeps.sys ?_ _

theorem State.recordStart_keeps {F : Part → Prop} {q0 s : State} [Open F .regs] [Open F .life] [Open F .sys] [Open F .keeper] (h : Keeps F q0 s) (kind : Nat) (why : Nat) : Keeps F q0 (State.recordStart s kind why) := by
  unfold State.recordStart
  repeat' first
    | with_reducible assumption
    | with_reducible apply keeps_ite
    | (extract_lets -underBinder +onlyGivenNames xl; refine keeps_cut (F := F) (r := q0) (x := xl) (fun hx => ?_) ?_; (focus clear_value xl; rename' xl => y); rotate_left; (focus unfold xl; clear xl); rotate_left)
    | (extract_lets -underBinder +onlyGivenNames xl; clear_value xl; rename' xl => y)
    | with_reducible apply State.commitSys_keeps
    | with_reducible apply State.modLife_keeps
    | with_reducible apply State.modKeeper_keeps
    | with_reducible apply State.countEvent_keeps
    | with_reducible apply State.setB_keeps
    | with_reducible apply State.set_keeps
    | split

theorem State.restoreDefaults_keeps {F : Part → Prop} {q0 s : State} [Open F .regs] [Open F .sys] [Open F .keeper] [Open F .dict] [Open F .persist] (h : Keeps F q0 s)  : Keeps F q0 (State.restoreDefaults s) := by
  unfold State.restoreDefaults
  repeat' first
    | with_reducible assumption
    | with_reducible apply keeps_ite
    | (extract_lets -underBinder +onlyGivenNames xl; refine keeps_cut (F := F) (r := q0) (x := xl) (fun hx => ?_) ?_; (focus clear_value xl; rename' xl => y); rotate_left; (focus unfold xl; clear xl); rotate_left)
    | (extract_lets -underBinder +onlyGivenNames xl; clear_value xl; rename' xl => y)
    | with_reducible apply State.modSys_keeps
    | with_reducible apply State.modDict_keeps
    | split
    | refine Keeps.persist ?_ _

theorem State.loadClocks_keeps {F : Part → Prop} {q0 s : State} [Open F .regs] [Open F .mem] [Open F .out] [Open F .freeCnt] [Open F .plls] [Open F .hops] [Open F .groups] [Open F .ports] [Open F .tgs] [Open F .drives] [Open F .adcs] [Open F .cmps] [Open F .pis] [Open F .cles] [Open F .life] [Open F .sys] [Open F .power] [Open F .keeper] [Open F .grids] [Open F .gridS] [Open F .crcs] [Open F .acts] [Open F .maintSeq] [Open F .meters] [Open F .vars] [Open F .cmds] [Open F .arb] [Open F .safety] [Open F .net] [Open F .flows] [Open F .dict] (h : Keeps F q0 s)  : Keeps F q0 (State.loadClocks s) := by
  unfold State.loadClocks
  repeat' first
    | (intro i t ht)
    | with_reducible assumption
    | with_reducible apply keeps_ite
    | (extract_lets -underBinder +onlyGivenNames xl; refine keeps_cut (F := F) (r := q0) (x := xl) (fun hx => ?_) ?_; (focus clear_value xl; rename' xl => y); rotate_left; (focus unfold xl; clear xl); rotate_left)
    | (extract_lets -underBinder +onlyGivenNames xl; clear_value xl; rename' xl => y)
    | with_reducible apply State.applyDirect_keeps
    | with_reducible apply State.set_keeps
    | with_reducible apply foldl_keeps
    | split

theorem State.lockPlls_keeps {F : Part → Prop} {q0 s : State} [Open F .regs] [Open F .sys] [Open F .keeper] (h : Keeps F q0 s) (x : StartInput) (kind : Nat) : Keeps F q0 (State.lockPlls s x kind) := by
  unfold State.lockPlls
  repeat' first
    | (intro i t ht)
    | with_reducible assumption
    | with_reducible apply keeps_ite
    | (extract_lets -underBinder +onlyGivenNames xl; refine keeps_cut (F := F) (r := q0) (x := xl) (fun hx => ?_) ?_; (focus clear_value xl; rename' xl => y); rotate_left; (focus unfold xl; clear xl); rotate_left)
    | (extract_lets -underBinder +onlyGivenNames xl; clear_value xl; rename' xl => y)
    | with_reducible apply State.pllLock_keeps
    | with_reducible apply State.commitBands_keeps
    | with_reducible apply State.bandSearch_keeps
    | with_reducible apply State.setReg_keeps
    | with_reducible apply foldl_keeps
    | split

theorem State.restoreCheckpoint_keeps {F : Part → Prop} {q0 s : State} [Open F .regs] [Open F .ports] [Open F .tgs] [Open F .drives] [Open F .cmps] [Open F .cles] [Open F .gridS] [Open F .maintSeq] (h : Keeps F q0 s) (k : Checkpoint) : Keeps F q0 (State.restoreCheckpoint s k) := by
  unfold State.restoreCheckpoint
  repeat' first
    | (intro i t ht)
    | with_reducible assumption
    | with_reducible apply keeps_ite
    | (extract_lets -underBinder +onlyGivenNames xl; refine keeps_cut (F := F) (r := q0) (x := xl) (fun hx => ?_) ?_; (focus clear_value xl; rename' xl => y); rotate_left; (focus unfold xl; clear xl); rotate_left)
    | (extract_lets -underBinder +onlyGivenNames xl; clear_value xl; rename' xl => y)
    | with_reducible apply State.dieOut_keeps
    | with_reducible apply State.cleRetired_keeps
    | with_reducible apply State.modCmp_keeps
    | with_reducible apply State.setB_keeps
    | with_reducible apply State.set_keeps
    | with_reducible apply foldOver_keeps
    | with_reducible apply State.setReg_keeps
    | with_reducible apply foldl_keeps
    | split
    | refine Keeps.maintSeq ?_ _

theorem State.testUnits_keeps {F : Part → Prop} {q0 s : State} [Open F .regs] [Open F .out] [Open F .linkEnds] [Open F .ports] [Open F .tgs] [Open F .drives] [Open F .cles] [Open F .life] [Open F .keeper] [Open F .grids] [Open F .gridS] [Open F .cycles] [Open F .crcs] [Open F .safety] (h : Keeps F q0 s) (x : StartInput) (k : Option Checkpoint) : Keeps F q0 (State.testUnits s x k) := by
  unfold State.testUnits
  repeat' first
    | (intro i t ht)
    | with_reducible assumption
    | with_reducible apply keeps_ite
    | (extract_lets -underBinder +onlyGivenNames xl; refine keeps_cut (F := F) (r := q0) (x := xl) (fun hx => ?_) ?_; (focus clear_value xl; rename' xl => y); rotate_left; (focus unfold xl; clear xl); rotate_left)
    | (extract_lets -underBinder +onlyGivenNames xl; clear_value xl; rename' xl => y)
    | with_reducible apply State.retireDrive_keeps
    | with_reducible apply State.laneRetire_keeps
    | with_reducible apply State.retireCle_keeps
    | with_reducible apply foldOver_keeps
    | with_reducible apply foldl_keeps
    | split

theorem State.calibrate_keeps {F : Part → Prop} {q0 s : State} [Open F .regs] [Open F .mem] [Open F .out] [Open F .ports] [Open F .tgs] [Open F .drives] [Open F .adcs] [Open F .cmps] [Open F .life] [Open F .keeper] (h : Keeps F q0 s) (x : StartInput) : Keeps F q0 (State.calibrate s x) := by
  unfold State.calibrate
  repeat' first
    | (intro i t ht)
    | with_reducible assumption
    | with_reducible apply keeps_ite
    | (extract_lets -underBinder +onlyGivenNames xl; refine keeps_cut (F := F) (r := q0) (x := xl) (fun hx => ?_) ?_; (focus clear_value xl; rename' xl => y); rotate_left; (focus unfold xl; clear xl); rotate_left)
    | (extract_lets -underBinder +onlyGivenNames xl; clear_value xl; rename' xl => y)
    | with_reducible apply State.retireCmp_keeps
    | with_reducible apply State.retireCore_keeps
    | with_reducible apply State.loadDelays_keeps
    | with_reducible apply State.modPort_keeps
    | with_reducible apply foldOver_keeps
    | with_reducible apply State.setReg_keeps
    | split

theorem State.startValue_keeps {F : Part → Prop} {q0 s : State} [Open F .regs] [Open F .mem] [Open F .out] [Open F .freeCnt] [Open F .plls] [Open F .hops] [Open F .groups] [Open F .ports] [Open F .tgs] [Open F .drives] [Open F .adcs] [Open F .cmps] [Open F .pis] [Open F .cles] [Open F .life] [Open F .sys] [Open F .power] [Open F .keeper] [Open F .grids] [Open F .gridS] [Open F .crcs] [Open F .acts] [Open F .maintSeq] [Open F .meters] [Open F .vars] [Open F .cmds] [Open F .arb] [Open F .safety] [Open F .net] [Open F .flows] [Open F .dict] (h : Keeps F q0 s) (key : Nat) (v : DictVal) : Keeps F q0 (State.startValue s key v) := by
  unfold State.startValue
  repeat' first
    | (intro i t ht)
    | with_reducible assumption
    | with_reducible apply keeps_ite
    | (extract_lets -underBinder +onlyGivenNames xl; refine keeps_cut (F := F) (r := q0) (x := xl) (fun hx => ?_) ?_; (focus clear_value xl; rename' xl => y); rotate_left; (focus unfold xl; clear xl); rotate_left)
    | (extract_lets -underBinder +onlyGivenNames xl; clear_value xl; rename' xl => y)
    | with_reducible apply State.applyDirect_keeps
    | with_reducible apply State.setDval_keeps
    | with_reducible apply State.set_keeps
    | with_reducible apply foldOver_keeps
    | split

theorem State.loadPersisted_keeps {F : Part → Prop} {q0 s : State} [Open F .regs] [Open F .mem] [Open F .out] [Open F .freeCnt] [Open F .plls] [Open F .hops] [Open F .groups] [Open F .ports] [Open F .tgs] [Open F .drives] [Open F .adcs] [Open F .cmps] [Open F .pis] [Open F .cles] [Open F .life] [Open F .sys] [Open F .power] [Open F .keeper] [Open F .grids] [Open F .gridS] [Open F .crcs] [Open F .acts] [Open F .maintSeq] [Open F .meters] [Open F .vars] [Open F .cmds] [Open F .arb] [Open F .safety] [Open F .net] [Open F .flows] [Open F .dict] (h : Keeps F q0 s)  : Keeps F q0 (State.loadPersisted s) := by
  unfold State.loadPersisted
  repeat' first
    | (intro i t ht)
    | with_reducible assumption
    | with_reducible apply keeps_ite
    | (extract_lets -underBinder +onlyGivenNames xl; refine keeps_cut (F := F) (r := q0) (x := xl) (fun hx => ?_) ?_; (focus clear_value xl; rename' xl => y); rotate_left; (focus unfold xl; clear xl); rotate_left)
    | (extract_lets -underBinder +onlyGivenNames xl; clear_value xl; rename' xl => y)
    | with_reducible apply State.startValue_keeps
    | with_reducible apply State.gateApply_keeps
    | with_reducible apply State.modDrive_keeps
    | with_reducible apply State.set_keeps
    | with_reducible apply foldOver_keeps
    | with_reducible apply foldl_keeps
    | split

theorem State.loadSafety_keeps {F : Part → Prop} {q0 s : State} [Open F .regs] [Open F .ports] [Open F .tgs] [Open F .drives] [Open F .vars] [Open F .safety] (h : Keeps F q0 s)  : Keeps F q0 (State.loadSafety s) := by
  unfold State.loadSafety
  repeat' first
    | (intro i t ht)
    | with_reducible assumption
    | with_reducible apply keeps_ite
    | (extract_lets -underBinder +onlyGivenNames xl; refine keeps_cut (F := F) (r := q0) (x := xl) (fun hx => ?_) ?_; (focus clear_value xl; rename' xl => y); rotate_left; (focus unfold xl; clear xl); rotate_left)
    | (extract_lets -underBinder +onlyGivenNames xl; clear_value xl; rename' xl => y)
    | with_reducible apply State.refreshUses_keeps
    | with_reducible apply State.openConn_keeps
    | with_reducible apply State.guardTimes_keeps
    | with_reducible apply State.refreshSState_keeps
    | with_reducible apply State.showAxes_keeps
    | with_reducible apply State.refreshRun_keeps
    | with_reducible apply State.setDval_keeps
    | with_reducible apply State.setB_keeps
    | with_reducible apply foldOver_keeps
    | with_reducible apply foldl_keeps
    | split

theorem State.openFlash_keeps {F : Part → Prop} {q0 s : State} [Open F .power] (h : Keeps F q0 s) (tables : Vector FlashTable 2) : Keeps F q0 (State.openFlash s tables) := by
  unfold State.openFlash
  repeat' first
    | with_reducible assumption
    | with_reducible apply keeps_ite
    | with_reducible apply State.modPower_keeps
    | split

theorem State.loadImage_keeps {F : Part → Prop} {q0 s : State} [Open F .mem] [Open F .power] (h : Keeps F q0 s) (c : Nat) (i : ImageSlot) : Keeps F q0 (State.loadImage s c i) := by
  unfold State.loadImage
  repeat' first
    | with_reducible assumption
    | with_reducible apply keeps_ite
    | (extract_lets -underBinder +onlyGivenNames xl; refine keeps_cut (F := F) (r := q0) (x := xl) (fun hx => ?_) ?_; (focus clear_value xl; rename' xl => y); rotate_left; (focus unfold xl; clear xl); rotate_left)
    | (extract_lets -underBinder +onlyGivenNames xl; clear_value xl; rename' xl => y)
    | with_reducible apply State.modPower_keeps
    | split
    | (refine Keeps.mem ?_ _ ?_; rotate_left; (focus first | exact Memory.wf_writeBytes _ _ _ | exact fun hm => Memory.wf_writeBytes _ _ _ (Memory.wf_clear _ _ _ hm) | exact fun hm => Memory.wf_writes _ _ (Memory.wf_clear _ _ _ hm)))

theorem State.readSlots_keeps {F : Part → Prop} {q0 s : State} [Open F .mem] (h : Keeps F q0 s) (c : Nat) (slots : List ImageSlot) : Keeps F q0 (State.readSlots s c slots) := by
  unfold State.readSlots
  repeat' first
    | (intro i t ht)
    | with_reducible assumption
    | with_reducible apply keeps_ite
    | with_reducible apply foldl_keeps
    | split
    | (refine Keeps.mem ?_ _ ?_; rotate_left; (focus first | exact Memory.wf_writeBytes _ _ _ | exact fun hm => Memory.wf_writeBytes _ _ _ (Memory.wf_clear _ _ _ hm) | exact fun hm => Memory.wf_writes _ _ (Memory.wf_clear _ _ _ hm)))

theorem State.bootImages_keeps {F : Part → Prop} {q0 s : State} [Open F .regs] [Open F .mem] [Open F .life] [Open F .sys] [Open F .power] [Open F .keeper] (h : Keeps F q0 s) (images : Vector ImageSlot 4) : Keeps F q0 (State.bootImages s images) := by
  unfold State.bootImages
  repeat' first
    | (intro i t ht)
    | with_reducible assumption
    | with_reducible apply keeps_ite
    | (extract_lets -underBinder +onlyGivenNames xl; refine keeps_cut (F := F) (r := q0) (x := xl) (fun hx => ?_) ?_; (focus clear_value xl; rename' xl => y); rotate_left; (focus unfold xl; clear xl); rotate_left)
    | (extract_lets -underBinder +onlyGivenNames xl; clear_value xl; rename' xl => y)
    | with_reducible apply State.readSlots_keeps
    | with_reducible apply State.loadImage_keeps
    | with_reducible apply State.failAttempt_keeps
    | with_reducible apply State.modPower_keeps
    | with_reducible apply State.setB_keeps
    | with_reducible apply State.set_keeps
    | with_reducible apply foldOver_keeps
    | split

theorem State.resumeMaint_keeps {F : Part → Prop} {r s : State} [Open F .regs] [Open F .out] [Open F .keeper] [Open F .acts] [Open F .maintSeq] (h : Keeps F r s) : Keeps F r (State.resumeMaint s) := by
  unfold State.resumeMaint
  extract_lets take done s1 s2
  have ht : ∀ (t : State) (c : Nat), Keeps F r t → Keeps F r (take t c) := by
    intro t c h
    unfold take
    split
    · exact State.takeSlot_keeps h _ _ _
    · exact h
  clear_value take
  have h1 : Keeps F r s1 := by
    refine foldl_keeps _ _ (State.modKeeper_keeps h _) (fun t x h => ?_)
    dsimp only
    split
    · exact State.endActivity_keeps (ht _ _ h) _ _
    · exact ht _ _ h
  have h2 : Keeps F r s2 := by
    unfold s2
    split
    · exact h1
    · exact ht _ _ h1
  split
  · exact ht _ _ h2
  · exact h2

theorem State.holdCommandDies_keeps {F : Part → Prop} {q0 s : State} [Open F .regs] [Open F .power] [Open F .arb] (h : Keeps F q0 s)  : Keeps F q0 (State.holdCommandDies s) := by
  unfold State.holdCommandDies
  repeat' first
    | (intro i t ht)
    | with_reducible assumption
    | with_reducible apply keeps_ite
    | (extract_lets -underBinder +onlyGivenNames xl; refine keeps_cut (F := F) (r := q0) (x := xl) (fun hx => ?_) ?_; (focus clear_value xl; rename' xl => y); rotate_left; (focus unfold xl; clear xl); rotate_left)
    | (extract_lets -underBinder +onlyGivenNames xl; clear_value xl; rename' xl => y)
    | with_reducible apply State.modPower_keeps
    | with_reducible apply State.modArb_keeps
    | with_reducible apply State.setB_keeps
    | with_reducible apply State.set_keeps
    | with_reducible apply foldOver_keeps
    | split

theorem State.dropStandby_keeps {F : Part → Prop} {r s : State} [Open F .regs] [Open F .cmps] (h : Keeps F r s) : Keeps F r (State.dropStandby s) :=
  (h.regs _ (Assoc.sorted_filter _ _) fun hn x hm => hn x (List.mem_filter.1 hm).1).cmps _

theorem State.startSteps_keeps {F : Part → Prop} {q0 s : State} [Open F .regs] [Open F .copies] [Open F .mem] [Open F .out] [Open F .freeCnt] [Open F .linkEnds] [Open F .rsBlocks] [Open F .plls] [Open F .hops] [Open F .groups] [Open F .ports] [Open F .tgs] [Open F .drives] [Open F .adcs] [Open F .cmps] [Open F .pis] [Open F .cles] [Open F .life] [Open F .sys] [Open F .power] [Open F .keeper] [Open F .grids] [Open F .gridS] [Open F .cycles] [Open F .crcs] [Open F .acts] [Open F .maintSeq] [Open F .meters] [Open F .vars] [Open F .cmds] [Open F .arb] [Open F .safety] [Open F .net] [Open F .flows] [Open F .dict] [Open F .persist] (h : Keeps F q0 s) (x : StartInput) (kind : Nat) (why : Nat) (sec : Nat) : Keeps F q0 (State.startSteps s x kind why sec) := by
  unfold State.startSteps
  repeat' first
    | (intro i t ht)
    | with_reducible assumption
    | with_reducible apply keeps_ite
    | (extract_lets -underBinder +onlyGivenNames xl; refine keeps_cut (F := F) (r := q0) (x := xl) (fun hx => ?_) ?_; (focus clear_value xl; rename' xl => y); rotate_left; (focus unfold xl; clear xl); rotate_left)
    | (extract_lets -underBinder +onlyGivenNames xl; clear_value xl; rename' xl => y)
    | with_reducible apply State.dropStandby_keeps
    | with_reducible apply State.resumeMaint_keeps
    | with_reducible apply State.bootImages_keeps
    | with_reducible apply State.openFlash_keeps
    | with_reducible apply State.loadSafety_keeps
    | with_reducible apply State.loadPersisted_keeps
    | with_reducible apply State.calibrate_keeps
    | with_reducible apply State.testUnits_keeps
    | with_reducible apply State.restoreCheckpoint_keeps
    | with_reducible apply State.lockPlls_keeps
    | with_reducible apply State.loadClocks_keeps
    | with_reducible apply State.restoreDefaults_keeps
    | with_reducible apply State.recordStart_keeps
    | with_reducible apply State.refreshDict_keeps
    | with_reducible apply State.failAttempt_keeps
    | with_reducible apply State.mainReset_keeps
    | with_reducible apply State.modPower_keeps
    | with_reducible apply State.runGuardTest_keeps
    | with_reducible apply State.meterRestore_keeps
    | with_reducible apply State.refreshTrips_keeps
    | with_reducible apply State.refreshGrid_keeps
    | with_reducible apply State.modTg_keeps
    | with_reducible apply State.setB_keeps
    | with_reducible apply State.set_keeps
    | with_reducible apply foldOver_keeps
    | split

theorem execStart_keeps {F : Part → Prop} {q0 s : State} [Open F .regs] [Open F .copies] [Open F .mem] [Open F .out] [Open F .freeCnt] [Open F .linkEnds] [Open F .rsBlocks] [Open F .plls] [Open F .hops] [Open F .groups] [Open F .ports] [Open F .tgs] [Open F .drives] [Open F .adcs] [Open F .cmps] [Open F .pis] [Open F .cles] [Open F .life] [Open F .sys] [Open F .power] [Open F .keeper] [Open F .grids] [Open F .gridS] [Open F .cycles] [Open F .crcs] [Open F .acts] [Open F .maintSeq] [Open F .meters] [Open F .vars] [Open F .cmds] [Open F .arb] [Open F .safety] [Open F .net] [Open F .flows] [Open F .dict] [Open F .persist] (h : Keeps F q0 s) (x : StartInput) : KeepsOut F q0 (execStart x s) := by
  unfold execStart
  repeat' first
    | with_reducible assumption
    | with_reducible apply keeps_ite
    | with_reducible apply keepsOut_next
    | (refine keepsOut_whileRuns ?_ ?_)
    | with_reducible apply keepsOut_ite
    | with_reducible apply keepsOut_fault
    | (extract_lets -underBinder +onlyGivenNames xl; refine keeps_cut (F := F) (r := q0) (x := xl) (fun hx => ?_) ?_; (focus clear_value xl; rename' xl => y); rotate_left; (focus unfold xl; clear xl); rotate_left)
    | (extract_lets -underBinder +onlyGivenNames xl; clear_value xl; rename' xl => y)
    | with_reducible apply State.startSteps_keeps
    | with_reducible apply State.holdCommandDies_keeps
    | with_reducible apply State.closeOpenAttempt_keeps
    | with_reducible apply State.readRegions_keeps
    | split

theorem State.startPeriod_keeps {F : Part → Prop} {q0 s : State} [Open F .regs] [Open F .cmds] (h : Keeps F q0 s) (c : Nat) : Keeps F q0 (State.startPeriod s c) := by
  unfold State.startPeriod
  repeat' first
    | with_reducible assumption
    | with_reducible apply keeps_ite
    | with_reducible apply State.modCmd_keeps
    | with_reducible apply State.setReg_keeps
    | split

theorem execCommandDieRelease_keeps {F : Part → Prop} {q0 s : State} [Open F .regs] [Open F .power] [Open F .cmds] [Open F .arb] (h : Keeps F q0 s) (ms : BitVec 32) : KeepsOut F q0 (execCommandDieRelease ms s) := by
  unfold execCommandDieRelease
  repeat' first
    | (intro i t ht)
    | with_reducible assumption
    | with_reducible apply keeps_ite
    | with_reducible apply keepsOut_next
    | (refine keepsOut_whileRuns ?_ ?_)
    | with_reducible apply keepsOut_ite
    | with_reducible apply keepsOut_fault
    | (extract_lets -underBinder +onlyGivenNames xl; refine keeps_cut (F := F) (r := q0) (x := xl) (fun hx => ?_) ?_; (focus clear_value xl; rename' xl => y); rotate_left; (focus unfold xl; clear xl); rotate_left)
    | (extract_lets -underBinder +onlyGivenNames xl; clear_value xl; rename' xl => y)
    | with_reducible apply State.startPeriod_keeps
    | with_reducible apply State.modPower_keeps
    | with_reducible apply State.modArb_keeps
    | with_reducible apply State.setB_keeps
    | with_reducible apply State.set_keeps
    | with_reducible apply foldOver_keeps
    | split

theorem State.restoreOwn_keeps {F : Part → Prop} {q0 s : State} [Open F .regs] (h : Keeps F q0 s) (c : Fin 2) : Keeps F q0 (State.restoreOwn s c) := by
  unfold State.restoreOwn
  repeat' first
    | (intro i t ht)
    | with_reducible assumption
    | with_reducible apply keeps_ite
    | (extract_lets -underBinder +onlyGivenNames xl; refine keeps_cut (F := F) (r := q0) (x := xl) (fun hx => ?_) ?_; (focus clear_value xl; rename' xl => y); rotate_left; (focus unfold xl; clear xl); rotate_left)
    | (extract_lets -underBinder +onlyGivenNames xl; clear_value xl; rename' xl => y)
    | with_reducible apply State.set_keeps
    | with_reducible apply foldl_keeps
    | split

theorem execCommandDieRestartDone_keeps {F : Part → Prop} {r s : State} [Open F .regs] [Open F .mem] [Open F .life] [Open F .power] [Open F .keeper] [Open F .cmds] (h : Keeps F r s) (c : Fin 2) (slot : Vector ImageSlot 2) (hot : Bool) :
    KeepsOut F r (execCommandDieRestartDone c slot hot s) := by
  unfold execCommandDieRestartDone
  apply keepsOut_next
  apply keeps_ite h
  extract_lets -underBinder n s1 s2 s3 s4 s5 sel slots
  have h1 : Keeps F r s1 := (h.regs _ (Assoc.sorted_filter _ _) fun hn x hm => hn x (List.mem_filter.1 hm).1).mem _ (Memory.wf_clear _ _ _)
  have h2 : Keeps F r s2 := foldOver_keeps _ _ h1 fun i t ht => State.setB_keeps (State.setB_keeps ht _ _) _ _
  have h3 : Keeps F r s3 := State.pllLock_keeps (State.restoreOwn_keeps h2 _) _ _
  have h4 : Keeps F r s4 := State.modCmd_keeps (State.set_keeps h3 _ _) _ _
  have h5 : Keeps F r s5 := State.setB_keeps (State.set_keeps h4 _ _) _ _
  clear_value s5
  split
  · exact State.modCmd_keeps (State.takeRole_keeps (State.set_keeps (State.modPower_keeps (State.readSlots_keeps h5 _ _) _) _ _) _ _) _ _
  · exact State.set_keeps (State.joinFailed_keeps (State.readSlots_keeps h5 _ _) _) _ _

end Sys2Proof.Machine
end

