-- ==== Sys2Proof/Laws/KeepsTick.lean ====
section
/-! SUPPORT.  What the operations of Machine/Tick.lean keep. -/

set_option linter.unusedTactic false
set_option linter.unreachableTactic false
set_option linter.unusedVariables false
set_option linter.unnecessarySeqFocus false

namespace Sys2Proof.Machine

theorem State.countTick_keeps {F : Part → Prop} {q0 s : State} [Open F .regs] (h : Keeps F q0 s) (d : Nat) (k : Nat) : Keeps F q0 (State.countTick s d k) := by
  unfold State.countTick
  repeat' first
    | with_reducible assumption
    | with_reducible apply keeps_ite
    | (extract_lets -underBinder +onlyGivenNames xl; refine keeps_cut (F := F) (r := q0) (x := xl) (fun hx => ?_) ?_; (focus clear_value xl; rename' xl => y); rotate_left; (focus unfold xl; clear xl); rotate_left)
    | (extract_lets -underBinder +onlyGivenNames xl; clear_value xl; rename' xl => y)
    | with_reducible apply State.setB_keeps
    | with_reducible apply State.set_keeps
    | split

theorem State.cuffTick_keeps {F : Part → Prop} {q0 s : State} [Open F .regs] [Open F .ports] [Open F .tgs] [Open F .drives] (h : Keeps F q0 s) (d : Nat) : Keeps F q0 (State.cuffTick s d) := by
  unfold State.cuffTick
  repeat' first
    | with_reducible assumption
    | with_reducible apply keeps_ite
    | (extract_lets -underBinder +onlyGivenNames xl; refine keeps_cut (F := F) (r := q0) (x := xl) (fun hx => ?_) ?_; (focus clear_value xl; rename' xl => y); rotate_left; (focus unfold xl; clear xl); rotate_left)
    | (extract_lets -underBinder +onlyGivenNames xl; clear_value xl; rename' xl => y)
    | with_reducible apply State.refreshTrips_keeps
    | with_reducible apply State.modDrive_keeps
    | split

theorem State.excitationTick_keeps {F : Part → Prop} {q0 s : State} [Open F .freeCnt] [Open F .pis] (h : Keeps F q0 s) (d : Nat) : Keeps F q0 (State.excitationTick s d) := by
  unfold State.excitationTick
  repeat' first
    | (intro i t ht)
    | with_reducible assumption
    | with_reducible apply keeps_ite
    | with_reducible apply State.excite_keeps
    | with_reducible apply foldOver_keeps
    | split

theorem State.driveTick_keeps {F : Part → Prop} {q0 s : State} [Open F .regs] [Open F .out] [Open F .freeCnt] [Open F .ports] [Open F .tgs] [Open F .drives] [Open F .pis] [Open F .life] [Open F .keeper] [Open F .grids] (h : Keeps F q0 s) (d : Nat) : Keeps F q0 (State.driveTick s d) := by
  unfold State.driveTick
  repeat' first
    | (intro i t ht)
    | with_reducible assumption
    | with_reducible apply keeps_ite
    | (extract_lets -underBinder +onlyGivenNames xl; refine keeps_cut (F := F) (r := q0) (x := xl) (fun hx => ?_) ?_; (focus clear_value xl; rename' xl => y); rotate_left; (focus unfold xl; clear xl); rotate_left)
    | (extract_lets -underBinder +onlyGivenNames xl; clear_value xl; rename' xl => y)
    | with_reducible apply State.excitationTick_keeps
    | with_reducible apply State.cuffTick_keeps
    | with_reducible apply State.countTick_keeps
    | with_reducible apply State.tripDie_keeps
    | with_reducible apply State.modPort_keeps
    | with_reducible apply State.setTtime_keeps
    | with_reducible apply foldOver_keeps
    | split

theorem State.tick_keeps {F : Part → Prop} {q0 s : State} [Open F .regs] [Open F .mem] [Open F .out] [Open F .freeCnt] [Open F .plls] [Open F .hops] [Open F .groups] [Open F .ports] [Open F .tgs] [Open F .drives] [Open F .adcs] [Open F .cmps] [Open F .pis] [Open F .cles] [Open F .life] [Open F .sys] [Open F .power] [Open F .keeper] [Open F .grids] [Open F .gridS] [Open F .crcs] [Open F .acts] [Open F .maintSeq] [Open F .meters] [Open F .vars] [Open F .cmds] [Open F .arb] [Open F .safety] [Open F .net] [Open F .flows] [Open F .dict] (h : Keeps F q0 s)  : Keeps F q0 (State.tick s) := by
  unfold State.tick
  repeat' first
    | (intro i t ht)
    | with_reducible assumption
    | with_reducible apply keeps_ite
    | with_reducible apply State.driveTick_keeps
    | with_reducible apply State.answerRouted_keeps
    | with_reducible apply State.ltTick_keeps
    | with_reducible apply foldOver_keeps
    | split

end Sys2Proof.Machine
end

