-- ==== Sys2Proof/Laws/Registers.lean ====
section
/-! SUPPORT. Sys2Proof/Laws/Registers.lean: reading a register or a field after a write, and which registers the tails shared by many commands
leave as they were. -/

namespace Sys2Proof.Machine

/-! ### Bits of a word -/

theorem maskOf_getLsbD (lo n i : Nat) (hi : i < 32) (h : lo + n ≤ 32) : (maskOf lo n).getLsbD i = (decide (lo ≤ i) && decide (i < lo + n)) := by
  unfold maskOf
  simp only [BitVec.getLsbD_shiftLeft, BitVec.getLsbD_ofNat, Nat.testBit_two_pow_sub_one]
  by_cases h1 : i < lo
  · have : ¬ lo ≤ i := by omega
    simp [h1, this]
  · by_cases h2 : i < lo + n
    · have h3 : i - lo < n := by omega
      have h4 : lo ≤ i := by omega
      have h5 : i - lo < 32 := by omega
      simp [h1, h2, h3, h4, h5, hi]
    · have h3 : ¬ i - lo < n := by omega
      simp [h1, h2, h3]

theorem putBits_getLsbD (w : Word) (lo n x i : Nat) (hi : i < 32) (h : lo + n ≤ 32) :
    (putBits w lo n x).getLsbD i = if lo ≤ i ∧ i < lo + n then x.testBit (i - lo) else w.getLsbD i := by
  unfold putBits
  simp only [BitVec.getLsbD_or, BitVec.getLsbD_and, BitVec.getLsbD_not, maskOf_getLsbD lo n i hi h, BitVec.getLsbD_shiftLeft,
    BitVec.getLsbD_ofNat, Nat.testBit_mod_two_pow]
  by_cases h1 : lo ≤ i
  · have h0 : ¬ i < lo := by omega
    by_cases h2 : i < lo + n
    · have h3 : i - lo < n := by omega
      have h5 : i - lo < 32 := by omega
      simp [h1, h2, h3, h5, hi, h0]
    · have h3 : ¬ i - lo < n := by omega
      simp [h1, h2, h3, hi]
  · have h0 : i < lo := by omega
    simp [h1, hi, h0]

theorem getBits_testBit (w : Word) (lo n i : Nat) : (getBits w lo n).testBit i = (decide (i < n) && w.getLsbD (lo + i)) := by
  unfold getBits
  rw [Nat.testBit_mod_two_pow, Nat.testBit_shiftRight, ← BitVec.testBit_toNat]

theorem getBits_putBits_self (w : Word) (lo n x : Nat) (h : lo + n ≤ 32) : getBits (putBits w lo n x) lo n = x % 2 ^ n := by
  apply Nat.eq_of_testBit_eq
  intro i
  rw [getBits_testBit, Nat.testBit_mod_two_pow]
  by_cases h1 : i < n
  · rw [putBits_getLsbD w lo n x (lo + i) (by omega) h]
    have : lo ≤ lo + i ∧ lo + i < lo + n := by omega
    simp [h1, this]
  · simp [h1]

theorem getBits_putBits_disjoint (w : Word) (lo n x lo' n' : Nat) (h : lo + n ≤ 32) (h' : lo' + n' ≤ 32)
    (hd : lo' + n' ≤ lo ∨ lo + n ≤ lo') : getBits (putBits w lo n x) lo' n' = getBits w lo' n' := by
  apply Nat.eq_of_testBit_eq
  intro i
  rw [getBits_testBit, getBits_testBit]
  by_cases h1 : i < n'
  · rw [putBits_getLsbD w lo n x (lo' + i) (by omega) h]
    have : ¬ (lo ≤ lo' + i ∧ lo' + i < lo + n) := by omega
    simp [this]
  · simp [h1]

/-! ### Registers -/

theorem State.cell_setReg_self (s : State) (a : Nat) (w : Word) : (s.setReg a w).cell a = ⟨w, parityOf w⟩ := by
  unfold State.cell State.setReg
  by_cases h : w = resetWord a
  · simp [h, Assoc.get_del_self]
  · simp [h, Assoc.get_put_self]

theorem State.cell_setReg_ne (s : State) (a b : Nat) (w : Word) (h : b ≠ a) : (s.setReg a w).cell b = s.cell b := by
  unfold State.cell State.setReg
  by_cases hw : w = resetWord a
  · simp [hw, Assoc.get_del_ne _ _ _ h]
  · simp [hw, Assoc.get_put_ne _ _ _ _ h]

theorem State.reg_setReg_self (s : State) (a : Nat) (w : Word) : (s.setReg a w).reg a = w := by
  unfold State.reg
  rw [State.cell_setReg_self]

theorem State.reg_setReg_ne (s : State) (a b : Nat) (w : Word) (h : b ≠ a) : (s.setReg a w).reg b = s.reg b := by
  unfold State.reg
  rw [State.cell_setReg_ne s a b w h]

theorem State.get_set_self (s : State) (f : RF) (x : Nat) (h : f.lo + f.w ≤ 32) : (s.set f x).get f = x % 2 ^ f.w := by
  unfold State.get State.set
  rw [State.reg_setReg_self, getBits_putBits_self _ _ _ _ h]

theorem State.get_set_ne (s : State) (f g : RF) (x : Nat) (h : g.addr ≠ f.addr) : (s.set f x).get g = s.get g := by
  unfold State.get State.set
  rw [State.reg_setReg_ne _ _ _ _ h]

theorem State.get_set_disjoint (s : State) (f g : RF) (x : Nat) (ha : g.addr = f.addr) (h : f.lo + f.w ≤ 32) (h' : g.lo + g.w ≤ 32)
    (hd : g.lo + g.w ≤ f.lo ∨ f.lo + f.w ≤ g.lo) : (s.set f x).get g = s.get g := by
  unfold State.get State.set
  rw [ha, State.reg_setReg_self, getBits_putBits_disjoint _ _ _ _ _ _ h h' hd]

/-- A field after a write of another field, in another register or in other bits of the same. -/
theorem State.get_set_other (s : State) (f g : RF) (x : Nat) (h : f.lo + f.w ≤ 32) (h' : g.lo + g.w ≤ 32)
    (hd : g.addr ≠ f.addr ∨ g.lo + g.w ≤ f.lo ∨ f.lo + f.w ≤ g.lo) : (s.set f x).get g = s.get g := by
  by_cases ha : g.addr = f.addr
  · exact State.get_set_disjoint s f g x ha h h' (hd.resolve_left (fun hn => hn ha))
  · exact State.get_set_ne s f g x ha

theorem State.flag_setB_self (s : State) (f : RF) (b : Bool) (h : f.lo + f.w ≤ 32) (hw : 0 < f.w) : (s.setB f b).flag f = b := by
  unfold State.flag State.setB
  rw [State.get_set_self s f _ h]
  have h2 : 2 ≤ 2 ^ f.w := by
    calc 2 = 2 ^ 1 := rfl
      _ ≤ 2 ^ f.w := Nat.pow_le_pow_right (by decide) hw
  cases b
  · simp
  · rw [if_pos rfl, Nat.mod_eq_of_lt (by omega)]
    decide

theorem State.flag_setB_other (s : State) (f g : RF) (b : Bool) (h : f.lo + f.w ≤ 32) (h' : g.lo + g.w ≤ 32)
    (hd : g.addr ≠ f.addr ∨ g.lo + g.w ≤ f.lo ∨ f.lo + f.w ≤ g.lo) : (s.setB f b).flag g = s.flag g := by
  unfold State.flag State.setB
  rw [State.get_set_other s f g _ h h' hd]

theorem State.get_setB_other (s : State) (f g : RF) (b : Bool) (h : f.lo + f.w ≤ 32) (h' : g.lo + g.w ≤ 32)
    (hd : g.addr ≠ f.addr ∨ g.lo + g.w ≤ f.lo ∨ f.lo + f.w ≤ g.lo) : (s.setB f b).get g = s.get g :=
  State.get_set_other s f g _ h h' hd

theorem State.flag_set_other (s : State) (f g : RF) (x : Nat) (h : f.lo + f.w ≤ 32) (h' : g.lo + g.w ≤ 32)
    (hd : g.addr ≠ f.addr ∨ g.lo + g.w ≤ f.lo ∨ f.lo + f.w ≤ g.lo) : (s.set f x).flag g = s.flag g := by
  unfold State.flag
  rw [State.get_set_other s f g _ h h' hd]

/-! ### Registers through operations that write none or few -/

/-- The same registers give the same reads. -/
theorem State.cell_of_regs {s t : State} (h : t.regs = s.regs) (a : Nat) : t.cell a = s.cell a := by
  unfold State.cell
  rw [h]

theorem State.reg_of_cell {s t : State} {a : Nat} (h : t.cell a = s.cell a) : t.reg a = s.reg a := by
  unfold State.reg
  rw [h]

theorem State.get_of_cell {s t : State} {f : RF} (h : t.cell f.addr = s.cell f.addr) : t.get f = s.get f := by
  unfold State.get
  rw [State.reg_of_cell h]

theorem State.flag_of_cell {s t : State} {f : RF} (h : t.cell f.addr = s.cell f.addr) : t.flag f = s.flag f := by
  unfold State.flag
  rw [State.get_of_cell h]

theorem foldOver_cell (l : List Nat) (f : Nat → State → State) (a : Nat) (s : State)
    (h : ∀ i ∈ l, ∀ t : State, (f i t).cell a = t.cell a) : (foldOver l f s).cell a = s.cell a := by
  unfold foldOver
  induction l generalizing s with
  | nil => rfl
  | cons i l ih =>
    rw [List.foldl_cons, ih _ (fun j hj t => h j (List.mem_cons_of_mem _ hj) t)]
    exact h i List.mem_cons_self s

/-- Through an operation that writes registers nowhere. -/
theorem Keeps.cell {s t : State} (h : Keeps (fun p => p = .regs) s t) (a : Nat) : t.cell a = s.cell a :=
  State.cell_of_regs (h.same .regs rfl) a

theorem open_of_eq {p q : Part} (h : q ≠ p) : Open (fun x => x = p) q := ⟨h⟩

theorem open_of_mem {l : List Part} {p : Part} (h : p ∈ l) : Open (fun x => x ∉ l) p := ⟨fun hn => hn h⟩

/-! ### Registers that outputs, trips and the grid block write -/

theorem State.outputEdge_cell (s : State) (d j a : Nat) (next : Bool) : (s.outputEdge d j next).cell a = s.cell a := by
  unfold State.outputEdge
  dsimp only
  split <;> rfl

theorem State.modPort_cell (s : State) (d j a : Nat) (f : Port → Port) : (s.modPort d j f).cell a = s.cell a := rfl

theorem State.modTg_cell (s : State) (d k a : Nat) (f : TripGroup → TripGroup) : (s.modTg d k f).cell a = s.cell a := rfl

theorem State.modGrid_cell (s : State) (d a : Nat) (f : GridDie → GridDie) : (s.modGrid d f).cell a = s.cell a := rfl

theorem State.cell_setB_ne (s : State) (f : RF) (b : Bool) (a : Nat) (h : a ≠ f.addr) : (s.setB f b).cell a = s.cell a :=
  State.cell_setReg_ne s f.addr a _ h

theorem State.cell_set_ne (s : State) (f : RF) (x a : Nat) (h : a ≠ f.addr) : (s.set f x).cell a = s.cell a :=
  State.cell_setReg_ne s f.addr a _ h

theorem State.cell_setBit_ne (s : State) (f : RF) (i : Nat) (b : Bool) (a : Nat) (h : a ≠ f.addr) : (s.setBit f i b).cell a = s.cell a := by
  unfold State.setBit State.orBits State.clrBits
  split
  · exact State.cell_setReg_ne _ _ _ _ h
  · exact State.cell_setReg_ne _ _ _ _ h

/-- The registers that an output's change may write: CHOP_ON of a chopper, RF_SAT of its die. -/
def outRegs (d : Nat) : List Nat := CYC.RFSTAT d :: (List.range 6).map (PORT.CHOP_STAT d)

theorem chopStat_mem (d j : Nat) (h : j < 6) : (PORT.CHOP_STAT_CHOP_ON d j).addr ∈ outRegs d := by
  simp only [outRegs, List.mem_cons, List.mem_map, List.mem_range]
  exact .inr ⟨j, h, rfl⟩

theorem State.chopperSide_lt {s : State} {d j : Nat} {high : Bool} (h : s.chopperSide d j high = true) : j < 6 := by
  simp only [State.chopperSide, State.chopperRole, Bool.and_eq_true, decide_eq_true_eq] at h
  exact h.1.1

/-- CHOP_ON of the side that a chopper switches, written or not. -/
theorem State.chopOn_cell (s : State) (d j a : Nat) (high b : Bool) (h : a ∉ outRegs d) :
    (if s.chopperSide d j high then s.setB (PORT.CHOP_STAT_CHOP_ON d j) b else s).cell a = s.cell a := by
  split
  · next hc => exact State.cell_setB_ne _ _ _ _ fun e => h (e ▸ chopStat_mem d j (State.chopperSide_lt hc))
  · rfl

theorem State.turnOffIn_cell (s : State) (d j a : Nat) (high next : Bool) (h : a ∉ outRegs d) :
    (s.turnOffIn d j high next).cell a = s.cell a := by
  unfold State.turnOffIn State.outputOff
  extract_lets p
  generalize (!if high = true then p.gh else p.gl) = off
  cases off
  · rw [if_neg (by decide)]
    split
    · rfl
    · rw [State.outputEdge_cell, State.modPort_cell]
      exact State.chopOn_cell _ _ _ _ _ _ h
  · rfl

theorem State.turnOff_cell (s : State) (d j a : Nat) (high : Bool) (h : a ∉ outRegs d) : (s.turnOff d j high).cell a = s.cell a :=
  State.turnOffIn_cell s d j a high false h

theorem State.turnOn_cell (s : State) (d j a : Nat) (high : Bool) (h : a ∉ outRegs d) : (s.turnOn d j high).cell a = s.cell a := by
  have h1 : a ≠ (CYC.RFSTAT_RF_SAT d).addr := fun e => h (by simp [outRegs, e, CYC.RFSTAT_RF_SAT])
  unfold State.turnOn
  extract_lets p c t1 t2
  split
  · rfl
  · generalize (if high = true then p.gh else p.gl) = on
    cases on
    · rw [if_neg (by decide), State.outputEdge_cell, State.modPort_cell]
      unfold t2 t1
      split
      · rw [State.cell_setBit_ne _ _ _ _ _ h1, State.chopOn_cell _ _ _ _ _ _ h]
      · exact State.chopOn_cell _ _ _ _ _ _ h
    · rfl

/-- The registers that bringing the trip groups of a die up to date may write. -/
def tripRegs (d : Nat) : List Nat :=
  [TRIP.SRCACT d 0, TRIP.SRCACT d 1, TRIP.TGSTAT d 0, TRIP.TGSTAT d 1, APB.APSTAT d] ++ outRegs d

theorem State.enterSafe_cell (s : State) (d j a : Nat) (p : PortSafe) (h : a ∉ tripRegs d) :
    (s.enterSafe d j p).cell a = s.cell a := by
  have h1 : a ≠ (APB.APSTAT_REF_ACT d).addr := fun e => h (by simp [tripRegs, e, APB.APSTAT_REF_ACT])
  have h2 : a ∉ outRegs d := fun e => h (List.mem_append_right _ e)
  unfold State.enterSafe
  extract_lets s1 s2
  have e2 : s2.cell a = s.cell a := by
    unfold s2
    split
    · exact State.cell_setB_ne _ _ _ _ h1
    · rfl
  cases p <;> simp only [State.modPort_cell, State.turnOffIn_cell _ _ _ _ _ _ h2, State.turnOn_cell _ _ _ _ _ h2, e2]

theorem State.refreshAsc_cell (s : State) (d k a : Nat) (hk : k < 2) (h : a ∉ tripRegs d) : (s.refreshAsc d k).cell a = s.cell a := by
  refine State.cell_setB_ne _ _ _ _ (fun e => h ?_)
  have : k = 0 ∨ k = 1 := by omega
  rcases this with rfl | rfl <;> simp [tripRegs, e, TRIP.TGSTAT_ASC_ACT]

theorem State.refreshGroup_cell (s : State) (d k a : Nat) (hk : k < 2) (h : a ∉ tripRegs d) : (s.refreshGroup d k).cell a = s.cell a := by
  have hk' : k = 0 ∨ k = 1 := by omega
  have h1 : a ≠ TRIP.SRCACT d k := fun e => h (by rcases hk' with rfl | rfl <;> simp [tripRegs, e])
  have h2 : a ≠ (TRIP.TGSTAT_TG_CFG_ERR d k).addr := fun e => h (by rcases hk' with rfl | rfl <;> simp [tripRegs, e, TRIP.TGSTAT_TG_CFG_ERR])
  unfold State.refreshGroup
  extract_lets act s1
  have e1 : s1.cell a = s.cell a := by
    unfold s1 State.refreshCfgErr
    dsimp only
    split
    · rw [State.cell_setB_ne _ _ _ _ h2, State.modTg_cell, State.cell_setReg_ne _ _ _ _ h1]
    · rw [State.modTg_cell, State.cell_setReg_ne _ _ _ _ h1]
  split
  · unfold State.recheckSafe
    rw [State.refreshAsc_cell _ _ _ _ hk h, foldOver_cell, e1]
    intro j hj t
    dsimp only
    split
    · rfl
    · exact State.enterSafe_cell _ _ _ _ _ h
  · exact e1

/-- What `refreshTrips` leaves. -/
theorem State.refreshTrips_cell (s : State) (d a : Nat) (h : a ∉ tripRegs d) : (s.refreshTrips d).cell a = s.cell a := by
  unfold State.refreshTrips
  split
  · rfl
  · rw [State.refreshGroup_cell _ _ _ _ (by decide) h, State.refreshGroup_cell _ _ _ _ (by decide) h]

/-- The registers that the vote and the block of a die may write. -/
def gridRegs (d : Nat) : List Nat := [RTS.RC_SEC d, RTS.RTSTAT d, GSU.GSTAT d] ++ outRegs d

theorem State.setVote_cell (s : State) (d v a : Nat) (h : a ∉ gridRegs d) : (s.setVote d v).cell a = s.cell a := by
  have h1 : a ≠ (RTS.RC_SEC_RC_SEC d).addr := fun e => h (by simp [gridRegs, e, RTS.RC_SEC_RC_SEC])
  have h2 : a ≠ (RTS.RTSTAT_VOTE d).addr := fun e => h (by simp [gridRegs, e, RTS.RTSTAT_VOTE])
  have h3 : a ≠ (RTS.RTSTAT_RC_READY d).addr := h2
  unfold State.setVote State.rcRestart
  split
  · rfl
  · dsimp only
    split
    · rw [State.modGrid_cell, State.cell_setB_ne _ _ _ _ h3, State.cell_set_ne _ _ _ _ h1, State.cell_set_ne _ _ _ _ h2]
    · rw [State.cell_set_ne _ _ _ _ h2]

/-- What `refreshGrid` leaves. -/
theorem State.refreshGrid_cell (s : State) (d a : Nat) (h : a ∉ gridRegs d) : (s.refreshGrid d).cell a = s.cell a := by
  have h1 : a ≠ (GSU.GSTAT_BLOCK d).addr := fun e => h (by simp [gridRegs, e, GSU.GSTAT_BLOCK])
  have h2 : a ∉ outRegs d := fun e => h (List.mem_append_right _ e)
  unfold State.refreshGrid State.refreshBlock
  dsimp only
  rw [foldOver_cell, apply_ite (fun x : State => x.cell a), State.modGrid_cell, ite_self, State.cell_setB_ne _ _ _ _ h1]
  · unfold State.refreshVote
    split
    · rfl
    · split
      · exact State.setVote_cell _ _ _ _ h
      · split
        · exact State.setVote_cell _ _ _ _ h
        · rfl
  · intro j hj t
    rw [State.modPort_cell]
    split
    · rw [State.modPort_cell, State.turnOffIn_cell _ _ _ _ _ _ h2, State.turnOffIn_cell _ _ _ _ _ _ h2]
    · rfl

/-! ### Events, bursts and the fault history -/

theorem State.countEvent_cell (s : State) (e : EvCounter) (a : Nat) : (s.countEvent e).cell a = s.cell a := rfl

theorem State.send_cell (s : State) (m : Msg) (a : Nat) : (s.send m).cell a = s.cell a := rfl

theorem State.burstRequest_cell (s : State) (c a : Nat) (h : a ≠ KPR.KQ) : (s.burstRequest c).cell a = s.cell a := by
  unfold State.burstRequest
  dsimp only
  split
  · rfl
  split
  · rfl
  · exact State.cell_set_ne _ _ _ _ h

theorem State.enterFault_cell (s : State) (code die unit d1 d2 a : Nat) (h : a ≠ KPR.KQ) :
    (s.enterFault code die unit d1 d2).cell a = s.cell a := by
  unfold State.enterFault
  dsimp only
  rw [State.burstRequest_cell _ _ _ h]
  split
  · split <;> rfl
  · split <;> rfl
  · rfl

theorem State.recordRetire_cell (s : State) (k : UnitKind) (e : Die) (unit a : Nat) (h : a ≠ KPR.KQ) :
    (s.recordRetire k e unit).cell a = s.cell a := by
  unfold State.recordRetire
  rw [State.burstRequest_cell _ _ _ h, State.enterFault_cell _ _ _ _ _ _ _ h]
  rfl

/-! ### Units by number -/

theorem vget_vmod_self {α : Type} [Inhabited α] {n : Nat} (v : Vector α n) (i : Nat) (f : α → α) (h : i < n) :
    vget (vmod v i f) i = f (vget v i) := by
  simp [vget, vmod, vset, h]

theorem vget_vmod_ne {α : Type} [Inhabited α] {n : Nat} (v : Vector α n) (i j : Nat) (f : α → α) (h : j ≠ i) :
    vget (vmod v i f) j = vget v j := by
  simp [vget, vmod, vset, Ne.symm h]

theorem vget_vmod {α : Type} [Inhabited α] {n : Nat} (v : Vector α n) (i j : Nat) (f : α → α) (h : i < n) :
    vget (vmod v i f) j = if j = i then f (vget v i) else vget v j := by
  by_cases e : j = i
  · subst e
    rw [if_pos rfl, vget_vmod_self v j f h]
  · rw [if_neg e, vget_vmod_ne v i j f e]

theorem vget_vset_self {α : Type} [Inhabited α] {n : Nat} (v : Vector α n) (i : Nat) (x : α) (h : i < n) : vget (vset v i x) i = x := by
  simp [vget, vset, h]

theorem State.port_modPort_self (s : State) (d j : Nat) (f : Port → Port) (h : 7 * d + j < 28) :
    (s.modPort d j f).port d j = f (s.port d j) := vget_vmod_self _ _ _ h

theorem State.grp_modGrp_self (s : State) (d k : Nat) (f : Group → Group) (h : 4 * d + k < 16) :
    (s.modGrp d k f).grp d k = f (s.grp d k) := vget_vmod_self _ _ _ h

theorem State.drive_modDrive_self (s : State) (d : Nat) (f : DriveDie → DriveDie) (h : d < 4) :
    vget (s.modDrive d f).drives d = f (vget s.drives d) := vget_vmod_self _ _ _ h

/-! ### One bit of a field -/

theorem State.bit_setBit_self (s : State) (f : RF) (i : Nat) (b : Bool) (h : f.lo + f.w ≤ 32) (hi : i < f.w) : (s.setBit f i b).bit f i = b := by
  unfold State.bit State.setBit State.orBits State.clrBits
  cases b
  · rw [if_neg (by decide), State.get_set_self _ _ _ h]
    simp [Nat.testBit_mod_two_pow, Nat.testBit_and, Nat.testBit_xor, Nat.testBit_two_pow_sub_one, Nat.testBit_two_pow_self, hi]
  · rw [if_pos rfl, State.get_set_self _ _ _ h]
    simp [Nat.testBit_mod_two_pow, Nat.testBit_or, Nat.testBit_two_pow_self, hi]

theorem State.get_setBit_other (s : State) (f g : RF) (i : Nat) (b : Bool) (h : f.lo + f.w ≤ 32) (h' : g.lo + g.w ≤ 32)
    (hd : g.addr ≠ f.addr ∨ g.lo + g.w ≤ f.lo ∨ f.lo + f.w ≤ g.lo) : (s.setBit f i b).get g = s.get g := by
  unfold State.setBit State.orBits State.clrBits
  split
  · exact State.get_set_other _ _ _ _ h h' hd
  · exact State.get_set_other _ _ _ _ h h' hd

theorem State.bit_of_cell {s t : State} {f : RF} {i : Nat} (h : t.cell f.addr = s.cell f.addr) : t.bit f i = s.bit f i := by
  unfold State.bit
  rw [State.get_of_cell h]

theorem getBits_lt (w : Word) (lo n : Nat) : getBits w lo n < 2 ^ n := Nat.mod_lt _ (Nat.two_pow_pos n)

theorem State.get_lt (s : State) (f : RF) : s.get f < 2 ^ f.w := getBits_lt _ _ _

theorem State.get_incSat_self (s : State) (f : RF) (h : f.lo + f.w ≤ 32) : (s.incSat f).get f = min (s.get f + 1) (2 ^ f.w - 1) := by
  unfold State.incSat State.addSat
  rw [State.get_set_self _ _ _ h, Nat.mod_eq_of_lt]
  have := Nat.two_pow_pos f.w
  omega

theorem State.get_incMod_self (s : State) (f : RF) (h : f.lo + f.w ≤ 32) : (s.incMod f).get f = (s.get f + 1) % 2 ^ f.w :=
  State.get_set_self _ _ _ h

end Sys2Proof.Machine
end

