-- ==== Sys2Proof/Laws/State.lean ====
section
/-!
SUPPORT. Sys2Proof/Laws/State.lean: each update of one part of the state leaves every other part as it was, and gives the part that it
names its new value.
-/

namespace Sys2Proof.Machine

@[simp] theorem State.setReg_pending (s : State) (a : Nat) (w : Word) : (s.setReg a w).pending = s.pending := rfl
@[simp] theorem State.setReg_copies (s : State) (a : Nat) (w : Word) : (s.setReg a w).copies = s.copies := rfl
@[simp] theorem State.setReg_mem (s : State) (a : Nat) (w : Word) : (s.setReg a w).mem = s.mem := rfl
@[simp] theorem State.setReg_out (s : State) (a : Nat) (w : Word) : (s.setReg a w).out = s.out := rfl
@[simp] theorem State.setReg_freeCnt (s : State) (a : Nat) (w : Word) : (s.setReg a w).freeCnt = s.freeCnt := rfl
@[simp] theorem State.setReg_linkEnds (s : State) (a : Nat) (w : Word) : (s.setReg a w).linkEnds = s.linkEnds := rfl
@[simp] theorem State.setReg_rsBlocks (s : State) (a : Nat) (w : Word) : (s.setReg a w).rsBlocks = s.rsBlocks := rfl
@[simp] theorem State.setReg_plls (s : State) (a : Nat) (w : Word) : (s.setReg a w).plls = s.plls := rfl
@[simp] theorem State.setReg_hops (s : State) (a : Nat) (w : Word) : (s.setReg a w).hops = s.hops := rfl
@[simp] theorem State.setReg_groups (s : State) (a : Nat) (w : Word) : (s.setReg a w).groups = s.groups := rfl
@[simp] theorem State.setReg_ports (s : State) (a : Nat) (w : Word) : (s.setReg a w).ports = s.ports := rfl
@[simp] theorem State.setReg_tgs (s : State) (a : Nat) (w : Word) : (s.setReg a w).tgs = s.tgs := rfl
@[simp] theorem State.setReg_drives (s : State) (a : Nat) (w : Word) : (s.setReg a w).drives = s.drives := rfl
@[simp] theorem State.setReg_adcs (s : State) (a : Nat) (w : Word) : (s.setReg a w).adcs = s.adcs := rfl
@[simp] theorem State.setReg_cmps (s : State) (a : Nat) (w : Word) : (s.setReg a w).cmps = s.cmps := rfl
@[simp] theorem State.setReg_pis (s : State) (a : Nat) (w : Word) : (s.setReg a w).pis = s.pis := rfl
@[simp] theorem State.setReg_cles (s : State) (a : Nat) (w : Word) : (s.setReg a w).cles = s.cles := rfl
@[simp] theorem State.setReg_life (s : State) (a : Nat) (w : Word) : (s.setReg a w).life = s.life := rfl
@[simp] theorem State.setReg_sys (s : State) (a : Nat) (w : Word) : (s.setReg a w).sys = s.sys := rfl
@[simp] theorem State.setReg_power (s : State) (a : Nat) (w : Word) : (s.setReg a w).power = s.power := rfl
@[simp] theorem State.setReg_keeper (s : State) (a : Nat) (w : Word) : (s.setReg a w).keeper = s.keeper := rfl
@[simp] theorem State.setReg_grids (s : State) (a : Nat) (w : Word) : (s.setReg a w).grids = s.grids := rfl
@[simp] theorem State.setReg_gridS (s : State) (a : Nat) (w : Word) : (s.setReg a w).gridS = s.gridS := rfl
@[simp] theorem State.setReg_cycles (s : State) (a : Nat) (w : Word) : (s.setReg a w).cycles = s.cycles := rfl
@[simp] theorem State.setReg_crcs (s : State) (a : Nat) (w : Word) : (s.setReg a w).crcs = s.crcs := rfl
@[simp] theorem State.setReg_acts (s : State) (a : Nat) (w : Word) : (s.setReg a w).acts = s.acts := rfl
@[simp] theorem State.setReg_maintSeq (s : State) (a : Nat) (w : Word) : (s.setReg a w).maintSeq = s.maintSeq := rfl
@[simp] theorem State.setReg_meters (s : State) (a : Nat) (w : Word) : (s.setReg a w).meters = s.meters := rfl
@[simp] theorem State.setReg_vars (s : State) (a : Nat) (w : Word) : (s.setReg a w).vars = s.vars := rfl
@[simp] theorem State.setReg_cmds (s : State) (a : Nat) (w : Word) : (s.setReg a w).cmds = s.cmds := rfl
@[simp] theorem State.setReg_arb (s : State) (a : Nat) (w : Word) : (s.setReg a w).arb = s.arb := rfl
@[simp] theorem State.setReg_safety (s : State) (a : Nat) (w : Word) : (s.setReg a w).safety = s.safety := rfl
@[simp] theorem State.setReg_net (s : State) (a : Nat) (w : Word) : (s.setReg a w).net = s.net := rfl
@[simp] theorem State.setReg_flows (s : State) (a : Nat) (w : Word) : (s.setReg a w).flows = s.flows := rfl
@[simp] theorem State.setReg_dict (s : State) (a : Nat) (w : Word) : (s.setReg a w).dict = s.dict := rfl
@[simp] theorem State.setReg_persist (s : State) (a : Nat) (w : Word) : (s.setReg a w).persist = s.persist := rfl

@[simp] theorem State.set_pending (s : State) (f : RF) (x : Nat) : (s.set f x).pending = s.pending := rfl
@[simp] theorem State.set_copies (s : State) (f : RF) (x : Nat) : (s.set f x).copies = s.copies := rfl
@[simp] theorem State.set_mem (s : State) (f : RF) (x : Nat) : (s.set f x).mem = s.mem := rfl
@[simp] theorem State.set_out (s : State) (f : RF) (x : Nat) : (s.set f x).out = s.out := rfl
@[simp] theorem State.set_freeCnt (s : State) (f : RF) (x : Nat) : (s.set f x).freeCnt = s.freeCnt := rfl
@[simp] theorem State.set_linkEnds (s : State) (f : RF) (x : Nat) : (s.set f x).linkEnds = s.linkEnds := rfl
@[simp] theorem State.set_rsBlocks (s : State) (f : RF) (x : Nat) : (s.set f x).rsBlocks = s.rsBlocks := rfl
@[simp] theorem State.set_plls (s : State) (f : RF) (x : Nat) : (s.set f x).plls = s.plls := rfl
@[simp] theorem State.set_hops (s : State) (f : RF) (x : Nat) : (s.set f x).hops = s.hops := rfl
@[simp] theorem State.set_groups (s : State) (f : RF) (x : Nat) : (s.set f x).groups = s.groups := rfl
@[simp] theorem State.set_ports (s : State) (f : RF) (x : Nat) : (s.set f x).ports = s.ports := rfl
@[simp] theorem State.set_tgs (s : State) (f : RF) (x : Nat) : (s.set f x).tgs = s.tgs := rfl
@[simp] theorem State.set_drives (s : State) (f : RF) (x : Nat) : (s.set f x).drives = s.drives := rfl
@[simp] theorem State.set_adcs (s : State) (f : RF) (x : Nat) : (s.set f x).adcs = s.adcs := rfl
@[simp] theorem State.set_cmps (s : State) (f : RF) (x : Nat) : (s.set f x).cmps = s.cmps := rfl
@[simp] theorem State.set_pis (s : State) (f : RF) (x : Nat) : (s.set f x).pis = s.pis := rfl
@[simp] theorem State.set_cles (s : State) (f : RF) (x : Nat) : (s.set f x).cles = s.cles := rfl
@[simp] theorem State.set_life (s : State) (f : RF) (x : Nat) : (s.set f x).life = s.life := rfl
@[simp] theorem State.set_sys (s : State) (f : RF) (x : Nat) : (s.set f x).sys = s.sys := rfl
@[simp] theorem State.set_power (s : State) (f : RF) (x : Nat) : (s.set f x).power = s.power := rfl
@[simp] theorem State.set_keeper (s : State) (f : RF) (x : Nat) : (s.set f x).keeper = s.keeper := rfl
@[simp] theorem State.set_grids (s : State) (f : RF) (x : Nat) : (s.set f x).grids = s.grids := rfl
@[simp] theorem State.set_gridS (s : State) (f : RF) (x : Nat) : (s.set f x).gridS = s.gridS := rfl
@[simp] theorem State.set_cycles (s : State) (f : RF) (x : Nat) : (s.set f x).cycles = s.cycles := rfl
@[simp] theorem State.set_crcs (s : State) (f : RF) (x : Nat) : (s.set f x).crcs = s.crcs := rfl
@[simp] theorem State.set_acts (s : State) (f : RF) (x : Nat) : (s.set f x).acts = s.acts := rfl
@[simp] theorem State.set_maintSeq (s : State) (f : RF) (x : Nat) : (s.set f x).maintSeq = s.maintSeq := rfl
@[simp] theorem State.set_meters (s : State) (f : RF) (x : Nat) : (s.set f x).meters = s.meters := rfl
@[simp] theorem State.set_vars (s : State) (f : RF) (x : Nat) : (s.set f x).vars = s.vars := rfl
@[simp] theorem State.set_cmds (s : State) (f : RF) (x : Nat) : (s.set f x).cmds = s.cmds := rfl
@[simp] theorem State.set_arb (s : State) (f : RF) (x : Nat) : (s.set f x).arb = s.arb := rfl
@[simp] theorem State.set_safety (s : State) (f : RF) (x : Nat) : (s.set f x).safety = s.safety := rfl
@[simp] theorem State.set_net (s : State) (f : RF) (x : Nat) : (s.set f x).net = s.net := rfl
@[simp] theorem State.set_flows (s : State) (f : RF) (x : Nat) : (s.set f x).flows = s.flows := rfl
@[simp] theorem State.set_dict (s : State) (f : RF) (x : Nat) : (s.set f x).dict = s.dict := rfl
@[simp] theorem State.set_persist (s : State) (f : RF) (x : Nat) : (s.set f x).persist = s.persist := rfl

@[simp] theorem State.setB_pending (s : State) (f : RF) (b : Bool) : (s.setB f b).pending = s.pending := rfl
@[simp] theorem State.setB_copies (s : State) (f : RF) (b : Bool) : (s.setB f b).copies = s.copies := rfl
@[simp] theorem State.setB_mem (s : State) (f : RF) (b : Bool) : (s.setB f b).mem = s.mem := rfl
@[simp] theorem State.setB_out (s : State) (f : RF) (b : Bool) : (s.setB f b).out = s.out := rfl
@[simp] theorem State.setB_freeCnt (s : State) (f : RF) (b : Bool) : (s.setB f b).freeCnt = s.freeCnt := rfl
@[simp] theorem State.setB_linkEnds (s : State) (f : RF) (b : Bool) : (s.setB f b).linkEnds = s.linkEnds := rfl
@[simp] theorem State.setB_rsBlocks (s : State) (f : RF) (b : Bool) : (s.setB f b).rsBlocks = s.rsBlocks := rfl
@[simp] theorem State.setB_plls (s : State) (f : RF) (b : Bool) : (s.setB f b).plls = s.plls := rfl
@[simp] theorem State.setB_hops (s : State) (f : RF) (b : Bool) : (s.setB f b).hops = s.hops := rfl
@[simp] theorem State.setB_groups (s : State) (f : RF) (b : Bool) : (s.setB f b).groups = s.groups := rfl
@[simp] theorem State.setB_ports (s : State) (f : RF) (b : Bool) : (s.setB f b).ports = s.ports := rfl
@[simp] theorem State.setB_tgs (s : State) (f : RF) (b : Bool) : (s.setB f b).tgs = s.tgs := rfl
@[simp] theorem State.setB_drives (s : State) (f : RF) (b : Bool) : (s.setB f b).drives = s.drives := rfl
@[simp] theorem State.setB_adcs (s : State) (f : RF) (b : Bool) : (s.setB f b).adcs = s.adcs := rfl
@[simp] theorem State.setB_cmps (s : State) (f : RF) (b : Bool) : (s.setB f b).cmps = s.cmps := rfl
@[simp] theorem State.setB_pis (s : State) (f : RF) (b : Bool) : (s.setB f b).pis = s.pis := rfl
@[simp] theorem State.setB_cles (s : State) (f : RF) (b : Bool) : (s.setB f b).cles = s.cles := rfl
@[simp] theorem State.setB_life (s : State) (f : RF) (b : Bool) : (s.setB f b).life = s.life := rfl
@[simp] theorem State.setB_sys (s : State) (f : RF) (b : Bool) : (s.setB f b).sys = s.sys := rfl
@[simp] theorem State.setB_power (s : State) (f : RF) (b : Bool) : (s.setB f b).power = s.power := rfl
@[simp] theorem State.setB_keeper (s : State) (f : RF) (b : Bool) : (s.setB f b).keeper = s.keeper := rfl
@[simp] theorem State.setB_grids (s : State) (f : RF) (b : Bool) : (s.setB f b).grids = s.grids := rfl
@[simp] theorem State.setB_gridS (s : State) (f : RF) (b : Bool) : (s.setB f b).gridS = s.gridS := rfl
@[simp] theorem State.setB_cycles (s : State) (f : RF) (b : Bool) : (s.setB f b).cycles = s.cycles := rfl
@[simp] theorem State.setB_crcs (s : State) (f : RF) (b : Bool) : (s.setB f b).crcs = s.crcs := rfl
@[simp] theorem State.setB_acts (s : State) (f : RF) (b : Bool) : (s.setB f b).acts = s.acts := rfl
@[simp] theorem State.setB_maintSeq (s : State) (f : RF) (b : Bool) : (s.setB f b).maintSeq = s.maintSeq := rfl
@[simp] theorem State.setB_meters (s : State) (f : RF) (b : Bool) : (s.setB f b).meters = s.meters := rfl
@[simp] theorem State.setB_vars (s : State) (f : RF) (b : Bool) : (s.setB f b).vars = s.vars := rfl
@[simp] theorem State.setB_cmds (s : State) (f : RF) (b : Bool) : (s.setB f b).cmds = s.cmds := rfl
@[simp] theorem State.setB_arb (s : State) (f : RF) (b : Bool) : (s.setB f b).arb = s.arb := rfl
@[simp] theorem State.setB_safety (s : State) (f : RF) (b : Bool) : (s.setB f b).safety = s.safety := rfl
@[simp] theorem State.setB_net (s : State) (f : RF) (b : Bool) : (s.setB f b).net = s.net := rfl
@[simp] theorem State.setB_flows (s : State) (f : RF) (b : Bool) : (s.setB f b).flows = s.flows := rfl
@[simp] theorem State.setB_dict (s : State) (f : RF) (b : Bool) : (s.setB f b).dict = s.dict := rfl
@[simp] theorem State.setB_persist (s : State) (f : RF) (b : Bool) : (s.setB f b).persist = s.persist := rfl

@[simp] theorem State.putCell_pending (s : State) (a : Nat) (c : RegCell) : (s.putCell a c).pending = s.pending := rfl
@[simp] theorem State.putCell_copies (s : State) (a : Nat) (c : RegCell) : (s.putCell a c).copies = s.copies := rfl
@[simp] theorem State.putCell_mem (s : State) (a : Nat) (c : RegCell) : (s.putCell a c).mem = s.mem := rfl
@[simp] theorem State.putCell_out (s : State) (a : Nat) (c : RegCell) : (s.putCell a c).out = s.out := rfl
@[simp] theorem State.putCell_freeCnt (s : State) (a : Nat) (c : RegCell) : (s.putCell a c).freeCnt = s.freeCnt := rfl
@[simp] theorem State.putCell_linkEnds (s : State) (a : Nat) (c : RegCell) : (s.putCell a c).linkEnds = s.linkEnds := rfl
@[simp] theorem State.putCell_rsBlocks (s : State) (a : Nat) (c : RegCell) : (s.putCell a c).rsBlocks = s.rsBlocks := rfl
@[simp] theorem State.putCell_plls (s : State) (a : Nat) (c : RegCell) : (s.putCell a c).plls = s.plls := rfl
@[simp] theorem State.putCell_hops (s : State) (a : Nat) (c : RegCell) : (s.putCell a c).hops = s.hops := rfl
@[simp] theorem State.putCell_groups (s : State) (a : Nat) (c : RegCell) : (s.putCell a c).groups = s.groups := rfl
@[simp] theorem State.putCell_ports (s : State) (a : Nat) (c : RegCell) : (s.putCell a c).ports = s.ports := rfl
@[simp] theorem State.putCell_tgs (s : State) (a : Nat) (c : RegCell) : (s.putCell a c).tgs = s.tgs := rfl
@[simp] theorem State.putCell_drives (s : State) (a : Nat) (c : RegCell) : (s.putCell a c).drives = s.drives := rfl
@[simp] theorem State.putCell_adcs (s : State) (a : Nat) (c : RegCell) : (s.putCell a c).adcs = s.adcs := rfl
@[simp] theorem State.putCell_cmps (s : State) (a : Nat) (c : RegCell) : (s.putCell a c).cmps = s.cmps := rfl
@[simp] theorem State.putCell_pis (s : State) (a : Nat) (c : RegCell) : (s.putCell a c).pis = s.pis := rfl
@[simp] theorem State.putCell_cles (s : State) (a : Nat) (c : RegCell) : (s.putCell a c).cles = s.cles := rfl
@[simp] theorem State.putCell_life (s : State) (a : Nat) (c : RegCell) : (s.putCell a c).life = s.life := rfl
@[simp] theorem State.putCell_sys (s : State) (a : Nat) (c : RegCell) : (s.putCell a c).sys = s.sys := rfl
@[simp] theorem State.putCell_power (s : State) (a : Nat) (c : RegCell) : (s.putCell a c).power = s.power := rfl
@[simp] theorem State.putCell_keeper (s : State) (a : Nat) (c : RegCell) : (s.putCell a c).keeper = s.keeper := rfl
@[simp] theorem State.putCell_grids (s : State) (a : Nat) (c : RegCell) : (s.putCell a c).grids = s.grids := rfl
@[simp] theorem State.putCell_gridS (s : State) (a : Nat) (c : RegCell) : (s.putCell a c).gridS = s.gridS := rfl
@[simp] theorem State.putCell_cycles (s : State) (a : Nat) (c : RegCell) : (s.putCell a c).cycles = s.cycles := rfl
@[simp] theorem State.putCell_crcs (s : State) (a : Nat) (c : RegCell) : (s.putCell a c).crcs = s.crcs := rfl
@[simp] theorem State.putCell_acts (s : State) (a : Nat) (c : RegCell) : (s.putCell a c).acts = s.acts := rfl
@[simp] theorem State.putCell_maintSeq (s : State) (a : Nat) (c : RegCell) : (s.putCell a c).maintSeq = s.maintSeq := rfl
@[simp] theorem State.putCell_meters (s : State) (a : Nat) (c : RegCell) : (s.putCell a c).meters = s.meters := rfl
@[simp] theorem State.putCell_vars (s : State) (a : Nat) (c : RegCell) : (s.putCell a c).vars = s.vars := rfl
@[simp] theorem State.putCell_cmds (s : State) (a : Nat) (c : RegCell) : (s.putCell a c).cmds = s.cmds := rfl
@[simp] theorem State.putCell_arb (s : State) (a : Nat) (c : RegCell) : (s.putCell a c).arb = s.arb := rfl
@[simp] theorem State.putCell_safety (s : State) (a : Nat) (c : RegCell) : (s.putCell a c).safety = s.safety := rfl
@[simp] theorem State.putCell_net (s : State) (a : Nat) (c : RegCell) : (s.putCell a c).net = s.net := rfl
@[simp] theorem State.putCell_flows (s : State) (a : Nat) (c : RegCell) : (s.putCell a c).flows = s.flows := rfl
@[simp] theorem State.putCell_dict (s : State) (a : Nat) (c : RegCell) : (s.putCell a c).dict = s.dict := rfl
@[simp] theorem State.putCell_persist (s : State) (a : Nat) (c : RegCell) : (s.putCell a c).persist = s.persist := rfl

@[simp] theorem State.incSat_pending (s : State) (f : RF) : (s.incSat f).pending = s.pending := rfl
@[simp] theorem State.incSat_copies (s : State) (f : RF) : (s.incSat f).copies = s.copies := rfl
@[simp] theorem State.incSat_mem (s : State) (f : RF) : (s.incSat f).mem = s.mem := rfl
@[simp] theorem State.incSat_out (s : State) (f : RF) : (s.incSat f).out = s.out := rfl
@[simp] theorem State.incSat_freeCnt (s : State) (f : RF) : (s.incSat f).freeCnt = s.freeCnt := rfl
@[simp] theorem State.incSat_linkEnds (s : State) (f : RF) : (s.incSat f).linkEnds = s.linkEnds := rfl
@[simp] theorem State.incSat_rsBlocks (s : State) (f : RF) : (s.incSat f).rsBlocks = s.rsBlocks := rfl
@[simp] theorem State.incSat_plls (s : State) (f : RF) : (s.incSat f).plls = s.plls := rfl
@[simp] theorem State.incSat_hops (s : State) (f : RF) : (s.incSat f).hops = s.hops := rfl
@[simp] theorem State.incSat_groups (s : State) (f : RF) : (s.incSat f).groups = s.groups := rfl
@[simp] theorem State.incSat_ports (s : State) (f : RF) : (s.incSat f).ports = s.ports := rfl
@[simp] theorem State.incSat_tgs (s : State) (f : RF) : (s.incSat f).tgs = s.tgs := rfl
@[simp] theorem State.incSat_drives (s : State) (f : RF) : (s.incSat f).drives = s.drives := rfl
@[simp] theorem State.incSat_adcs (s : State) (f : RF) : (s.incSat f).adcs = s.adcs := rfl
@[simp] theorem State.incSat_cmps (s : State) (f : RF) : (s.incSat f).cmps = s.cmps := rfl
@[simp] theorem State.incSat_pis (s : State) (f : RF) : (s.incSat f).pis = s.pis := rfl
@[simp] theorem State.incSat_cles (s : State) (f : RF) : (s.incSat f).cles = s.cles := rfl
@[simp] theorem State.incSat_life (s : State) (f : RF) : (s.incSat f).life = s.life := rfl
@[simp] theorem State.incSat_sys (s : State) (f : RF) : (s.incSat f).sys = s.sys := rfl
@[simp] theorem State.incSat_power (s : State) (f : RF) : (s.incSat f).power = s.power := rfl
@[simp] theorem State.incSat_keeper (s : State) (f : RF) : (s.incSat f).keeper = s.keeper := rfl
@[simp] theorem State.incSat_grids (s : State) (f : RF) : (s.incSat f).grids = s.grids := rfl
@[simp] theorem State.incSat_gridS (s : State) (f : RF) : (s.incSat f).gridS = s.gridS := rfl
@[simp] theorem State.incSat_cycles (s : State) (f : RF) : (s.incSat f).cycles = s.cycles := rfl
@[simp] theorem State.incSat_crcs (s : State) (f : RF) : (s.incSat f).crcs = s.crcs := rfl
@[simp] theorem State.incSat_acts (s : State) (f : RF) : (s.incSat f).acts = s.acts := rfl
@[simp] theorem State.incSat_maintSeq (s : State) (f : RF) : (s.incSat f).maintSeq = s.maintSeq := rfl
@[simp] theorem State.incSat_meters (s : State) (f : RF) : (s.incSat f).meters = s.meters := rfl
@[simp] theorem State.incSat_vars (s : State) (f : RF) : (s.incSat f).vars = s.vars := rfl
@[simp] theorem State.incSat_cmds (s : State) (f : RF) : (s.incSat f).cmds = s.cmds := rfl
@[simp] theorem State.incSat_arb (s : State) (f : RF) : (s.incSat f).arb = s.arb := rfl
@[simp] theorem State.incSat_safety (s : State) (f : RF) : (s.incSat f).safety = s.safety := rfl
@[simp] theorem State.incSat_net (s : State) (f : RF) : (s.incSat f).net = s.net := rfl
@[simp] theorem State.incSat_flows (s : State) (f : RF) : (s.incSat f).flows = s.flows := rfl
@[simp] theorem State.incSat_dict (s : State) (f : RF) : (s.incSat f).dict = s.dict := rfl
@[simp] theorem State.incSat_persist (s : State) (f : RF) : (s.incSat f).persist = s.persist := rfl

@[simp] theorem State.incMod_pending (s : State) (f : RF) : (s.incMod f).pending = s.pending := rfl
@[simp] theorem State.incMod_copies (s : State) (f : RF) : (s.incMod f).copies = s.copies := rfl
@[simp] theorem State.incMod_mem (s : State) (f : RF) : (s.incMod f).mem = s.mem := rfl
@[simp] theorem State.incMod_out (s : State) (f : RF) : (s.incMod f).out = s.out := rfl
@[simp] theorem State.incMod_freeCnt (s : State) (f : RF) : (s.incMod f).freeCnt = s.freeCnt := rfl
@[simp] theorem State.incMod_linkEnds (s : State) (f : RF) : (s.incMod f).linkEnds = s.linkEnds := rfl
@[simp] theorem State.incMod_rsBlocks (s : State) (f : RF) : (s.incMod f).rsBlocks = s.rsBlocks := rfl
@[simp] theorem State.incMod_plls (s : State) (f : RF) : (s.incMod f).plls = s.plls := rfl
@[simp] theorem State.incMod_hops (s : State) (f : RF) : (s.incMod f).hops = s.hops := rfl
@[simp] theorem State.incMod_groups (s : State) (f : RF) : (s.incMod f).groups = s.groups := rfl
@[simp] theorem State.incMod_ports (s : State) (f : RF) : (s.incMod f).ports = s.ports := rfl
@[simp] theorem State.incMod_tgs (s : State) (f : RF) : (s.incMod f).tgs = s.tgs := rfl
@[simp] theorem State.incMod_drives (s : State) (f : RF) : (s.incMod f).drives = s.drives := rfl
@[simp] theorem State.incMod_adcs (s : State) (f : RF) : (s.incMod f).adcs = s.adcs := rfl
@[simp] theorem State.incMod_cmps (s : State) (f : RF) : (s.incMod f).cmps = s.cmps := rfl
@[simp] theorem State.incMod_pis (s : State) (f : RF) : (s.incMod f).pis = s.pis := rfl
@[simp] theorem State.incMod_cles (s : State) (f : RF) : (s.incMod f).cles = s.cles := rfl
@[simp] theorem State.incMod_life (s : State) (f : RF) : (s.incMod f).life = s.life := rfl
@[simp] theorem State.incMod_sys (s : State) (f : RF) : (s.incMod f).sys = s.sys := rfl
@[simp] theorem State.incMod_power (s : State) (f : RF) : (s.incMod f).power = s.power := rfl
@[simp] theorem State.incMod_keeper (s : State) (f : RF) : (s.incMod f).keeper = s.keeper := rfl
@[simp] theorem State.incMod_grids (s : State) (f : RF) : (s.incMod f).grids = s.grids := rfl
@[simp] theorem State.incMod_gridS (s : State) (f : RF) : (s.incMod f).gridS = s.gridS := rfl
@[simp] theorem State.incMod_cycles (s : State) (f : RF) : (s.incMod f).cycles = s.cycles := rfl
@[simp] theorem State.incMod_crcs (s : State) (f : RF) : (s.incMod f).crcs = s.crcs := rfl
@[simp] theorem State.incMod_acts (s : State) (f : RF) : (s.incMod f).acts = s.acts := rfl
@[simp] theorem State.incMod_maintSeq (s : State) (f : RF) : (s.incMod f).maintSeq = s.maintSeq := rfl
@[simp] theorem State.incMod_meters (s : State) (f : RF) : (s.incMod f).meters = s.meters := rfl
@[simp] theorem State.incMod_vars (s : State) (f : RF) : (s.incMod f).vars = s.vars := rfl
@[simp] theorem State.incMod_cmds (s : State) (f : RF) : (s.incMod f).cmds = s.cmds := rfl
@[simp] theorem State.incMod_arb (s : State) (f : RF) : (s.incMod f).arb = s.arb := rfl
@[simp] theorem State.incMod_safety (s : State) (f : RF) : (s.incMod f).safety = s.safety := rfl
@[simp] theorem State.incMod_net (s : State) (f : RF) : (s.incMod f).net = s.net := rfl
@[simp] theorem State.incMod_flows (s : State) (f : RF) : (s.incMod f).flows = s.flows := rfl
@[simp] theorem State.incMod_dict (s : State) (f : RF) : (s.incMod f).dict = s.dict := rfl
@[simp] theorem State.incMod_persist (s : State) (f : RF) : (s.incMod f).persist = s.persist := rfl

@[simp] theorem State.orBits_pending (s : State) (f : RF) (m : Nat) : (s.orBits f m).pending = s.pending := rfl
@[simp] theorem State.orBits_copies (s : State) (f : RF) (m : Nat) : (s.orBits f m).copies = s.copies := rfl
@[simp] theorem State.orBits_mem (s : State) (f : RF) (m : Nat) : (s.orBits f m).mem = s.mem := rfl
@[simp] theorem State.orBits_out (s : State) (f : RF) (m : Nat) : (s.orBits f m).out = s.out := rfl
@[simp] theorem State.orBits_freeCnt (s : State) (f : RF) (m : Nat) : (s.orBits f m).freeCnt = s.freeCnt := rfl
@[simp] theorem State.orBits_linkEnds (s : State) (f : RF) (m : Nat) : (s.orBits f m).linkEnds = s.linkEnds := rfl
@[simp] theorem State.orBits_rsBlocks (s : State) (f : RF) (m : Nat) : (s.orBits f m).rsBlocks = s.rsBlocks := rfl
@[simp] theorem State.orBits_plls (s : State) (f : RF) (m : Nat) : (s.orBits f m).plls = s.plls := rfl
@[simp] theorem State.orBits_hops (s : State) (f : RF) (m : Nat) : (s.orBits f m).hops = s.hops := rfl
@[simp] theorem State.orBits_groups (s : State) (f : RF) (m : Nat) : (s.orBits f m).groups = s.groups := rfl
@[simp] theorem State.orBits_ports (s : State) (f : RF) (m : Nat) : (s.orBits f m).ports = s.ports := rfl
@[simp] theorem State.orBits_tgs (s : State) (f : RF) (m : Nat) : (s.orBits f m).tgs = s.tgs := rfl
@[simp] theorem State.orBits_drives (s : State) (f : RF) (m : Nat) : (s.orBits f m).drives = s.drives := rfl
@[simp] theorem State.orBits_adcs (s : State) (f : RF) (m : Nat) : (s.orBits f m).adcs = s.adcs := rfl
@[simp] theorem State.orBits_cmps (s : State) (f : RF) (m : Nat) : (s.orBits f m).cmps = s.cmps := rfl
@[simp] theorem State.orBits_pis (s : State) (f : RF) (m : Nat) : (s.orBits f m).pis = s.pis := rfl
@[simp] theorem State.orBits_cles (s : State) (f : RF) (m : Nat) : (s.orBits f m).cles = s.cles := rfl
@[simp] theorem State.orBits_life (s : State) (f : RF) (m : Nat) : (s.orBits f m).life = s.life := rfl
@[simp] theorem State.orBits_sys (s : State) (f : RF) (m : Nat) : (s.orBits f m).sys = s.sys := rfl
@[simp] theorem State.orBits_power (s : State) (f : RF) (m : Nat) : (s.orBits f m).power = s.power := rfl
@[simp] theorem State.orBits_keeper (s : State) (f : RF) (m : Nat) : (s.orBits f m).keeper = s.keeper := rfl
@[simp] theorem State.orBits_grids (s : State) (f : RF) (m : Nat) : (s.orBits f m).grids = s.grids := rfl
@[simp] theorem State.orBits_gridS (s : State) (f : RF) (m : Nat) : (s.orBits f m).gridS = s.gridS := rfl
@[simp] theorem State.orBits_cycles (s : State) (f : RF) (m : Nat) : (s.orBits f m).cycles = s.cycles := rfl
@[simp] theorem State.orBits_crcs (s : State) (f : RF) (m : Nat) : (s.orBits f m).crcs = s.crcs := rfl
@[simp] theorem State.orBits_acts (s : State) (f : RF) (m : Nat) : (s.orBits f m).acts = s.acts := rfl
@[simp] theorem State.orBits_maintSeq (s : State) (f : RF) (m : Nat) : (s.orBits f m).maintSeq = s.maintSeq := rfl
@[simp] theorem State.orBits_meters (s : State) (f : RF) (m : Nat) : (s.orBits f m).meters = s.meters := rfl
@[simp] theorem State.orBits_vars (s : State) (f : RF) (m : Nat) : (s.orBits f m).vars = s.vars := rfl
@[simp] theorem State.orBits_cmds (s : State) (f : RF) (m : Nat) : (s.orBits f m).cmds = s.cmds := rfl
@[simp] theorem State.orBits_arb (s : State) (f : RF) (m : Nat) : (s.orBits f m).arb = s.arb := rfl
@[simp] theorem State.orBits_safety (s : State) (f : RF) (m : Nat) : (s.orBits f m).safety = s.safety := rfl
@[simp] theorem State.orBits_net (s : State) (f : RF) (m : Nat) : (s.orBits f m).net = s.net := rfl
@[simp] theorem State.orBits_flows (s : State) (f : RF) (m : Nat) : (s.orBits f m).flows = s.flows := rfl
@[simp] theorem State.orBits_dict (s : State) (f : RF) (m : Nat) : (s.orBits f m).dict = s.dict := rfl
@[simp] theorem State.orBits_persist (s : State) (f : RF) (m : Nat) : (s.orBits f m).persist = s.persist := rfl

@[simp] theorem State.clrBits_pending (s : State) (f : RF) (m : Nat) : (s.clrBits f m).pending = s.pending := rfl
@[simp] theorem State.clrBits_copies (s : State) (f : RF) (m : Nat) : (s.clrBits f m).copies = s.copies := rfl
@[simp] theorem State.clrBits_mem (s : State) (f : RF) (m : Nat) : (s.clrBits f m).mem = s.mem := rfl
@[simp] theorem State.clrBits_out (s : State) (f : RF) (m : Nat) : (s.clrBits f m).out = s.out := rfl
@[simp] theorem State.clrBits_freeCnt (s : State) (f : RF) (m : Nat) : (s.clrBits f m).freeCnt = s.freeCnt := rfl
@[simp] theorem State.clrBits_linkEnds (s : State) (f : RF) (m : Nat) : (s.clrBits f m).linkEnds = s.linkEnds := rfl
@[simp] theorem State.clrBits_rsBlocks (s : State) (f : RF) (m : Nat) : (s.clrBits f m).rsBlocks = s.rsBlocks := rfl
@[simp] theorem State.clrBits_plls (s : State) (f : RF) (m : Nat) : (s.clrBits f m).plls = s.plls := rfl
@[simp] theorem State.clrBits_hops (s : State) (f : RF) (m : Nat) : (s.clrBits f m).hops = s.hops := rfl
@[simp] theorem State.clrBits_groups (s : State) (f : RF) (m : Nat) : (s.clrBits f m).groups = s.groups := rfl
@[simp] theorem State.clrBits_ports (s : State) (f : RF) (m : Nat) : (s.clrBits f m).ports = s.ports := rfl
@[simp] theorem State.clrBits_tgs (s : State) (f : RF) (m : Nat) : (s.clrBits f m).tgs = s.tgs := rfl
@[simp] theorem State.clrBits_drives (s : State) (f : RF) (m : Nat) : (s.clrBits f m).drives = s.drives := rfl
@[simp] theorem State.clrBits_adcs (s : State) (f : RF) (m : Nat) : (s.clrBits f m).adcs = s.adcs := rfl
@[simp] theorem State.clrBits_cmps (s : State) (f : RF) (m : Nat) : (s.clrBits f m).cmps = s.cmps := rfl
@[simp] theorem State.clrBits_pis (s : State) (f : RF) (m : Nat) : (s.clrBits f m).pis = s.pis := rfl
@[simp] theorem State.clrBits_cles (s : State) (f : RF) (m : Nat) : (s.clrBits f m).cles = s.cles := rfl
@[simp] theorem State.clrBits_life (s : State) (f : RF) (m : Nat) : (s.clrBits f m).life = s.life := rfl
@[simp] theorem State.clrBits_sys (s : State) (f : RF) (m : Nat) : (s.clrBits f m).sys = s.sys := rfl
@[simp] theorem State.clrBits_power (s : State) (f : RF) (m : Nat) : (s.clrBits f m).power = s.power := rfl
@[simp] theorem State.clrBits_keeper (s : State) (f : RF) (m : Nat) : (s.clrBits f m).keeper = s.keeper := rfl
@[simp] theorem State.clrBits_grids (s : State) (f : RF) (m : Nat) : (s.clrBits f m).grids = s.grids := rfl
@[simp] theorem State.clrBits_gridS (s : State) (f : RF) (m : Nat) : (s.clrBits f m).gridS = s.gridS := rfl
@[simp] theorem State.clrBits_cycles (s : State) (f : RF) (m : Nat) : (s.clrBits f m).cycles = s.cycles := rfl
@[simp] theorem State.clrBits_crcs (s : State) (f : RF) (m : Nat) : (s.clrBits f m).crcs = s.crcs := rfl
@[simp] theorem State.clrBits_acts (s : State) (f : RF) (m : Nat) : (s.clrBits f m).acts = s.acts := rfl
@[simp] theorem State.clrBits_maintSeq (s : State) (f : RF) (m : Nat) : (s.clrBits f m).maintSeq = s.maintSeq := rfl
@[simp] theorem State.clrBits_meters (s : State) (f : RF) (m : Nat) : (s.clrBits f m).meters = s.meters := rfl
@[simp] theorem State.clrBits_vars (s : State) (f : RF) (m : Nat) : (s.clrBits f m).vars = s.vars := rfl
@[simp] theorem State.clrBits_cmds (s : State) (f : RF) (m : Nat) : (s.clrBits f m).cmds = s.cmds := rfl
@[simp] theorem State.clrBits_arb (s : State) (f : RF) (m : Nat) : (s.clrBits f m).arb = s.arb := rfl
@[simp] theorem State.clrBits_safety (s : State) (f : RF) (m : Nat) : (s.clrBits f m).safety = s.safety := rfl
@[simp] theorem State.clrBits_net (s : State) (f : RF) (m : Nat) : (s.clrBits f m).net = s.net := rfl
@[simp] theorem State.clrBits_flows (s : State) (f : RF) (m : Nat) : (s.clrBits f m).flows = s.flows := rfl
@[simp] theorem State.clrBits_dict (s : State) (f : RF) (m : Nat) : (s.clrBits f m).dict = s.dict := rfl
@[simp] theorem State.clrBits_persist (s : State) (f : RF) (m : Nat) : (s.clrBits f m).persist = s.persist := rfl

@[simp] theorem State.setMemWord_pending (s : State) (a : Nat) (w : Word) : (s.setMemWord a w).pending = s.pending := rfl
@[simp] theorem State.setMemWord_regs (s : State) (a : Nat) (w : Word) : (s.setMemWord a w).regs = s.regs := rfl
@[simp] theorem State.setMemWord_copies (s : State) (a : Nat) (w : Word) : (s.setMemWord a w).copies = s.copies := rfl
@[simp] theorem State.setMemWord_out (s : State) (a : Nat) (w : Word) : (s.setMemWord a w).out = s.out := rfl
@[simp] theorem State.setMemWord_freeCnt (s : State) (a : Nat) (w : Word) : (s.setMemWord a w).freeCnt = s.freeCnt := rfl
@[simp] theorem State.setMemWord_linkEnds (s : State) (a : Nat) (w : Word) : (s.setMemWord a w).linkEnds = s.linkEnds := rfl
@[simp] theorem State.setMemWord_rsBlocks (s : State) (a : Nat) (w : Word) : (s.setMemWord a w).rsBlocks = s.rsBlocks := rfl
@[simp] theorem State.setMemWord_plls (s : State) (a : Nat) (w : Word) : (s.setMemWord a w).plls = s.plls := rfl
@[simp] theorem State.setMemWord_hops (s : State) (a : Nat) (w : Word) : (s.setMemWord a w).hops = s.hops := rfl
@[simp] theorem State.setMemWord_groups (s : State) (a : Nat) (w : Word) : (s.setMemWord a w).groups = s.groups := rfl
@[simp] theorem State.setMemWord_ports (s : State) (a : Nat) (w : Word) : (s.setMemWord a w).ports = s.ports := rfl
@[simp] theorem State.setMemWord_tgs (s : State) (a : Nat) (w : Word) : (s.setMemWord a w).tgs = s.tgs := rfl
@[simp] theorem State.setMemWord_drives (s : State) (a : Nat) (w : Word) : (s.setMemWord a w).drives = s.drives := rfl
@[simp] theorem State.setMemWord_adcs (s : State) (a : Nat) (w : Word) : (s.setMemWord a w).adcs = s.adcs := rfl
@[simp] theorem State.setMemWord_cmps (s : State) (a : Nat) (w : Word) : (s.setMemWord a w).cmps = s.cmps := rfl
@[simp] theorem State.setMemWord_pis (s : State) (a : Nat) (w : Word) : (s.setMemWord a w).pis = s.pis := rfl
@[simp] theorem State.setMemWord_cles (s : State) (a : Nat) (w : Word) : (s.setMemWord a w).cles = s.cles := rfl
@[simp] theorem State.setMemWord_life (s : State) (a : Nat) (w : Word) : (s.setMemWord a w).life = s.life := rfl
@[simp] theorem State.setMemWord_sys (s : State) (a : Nat) (w : Word) : (s.setMemWord a w).sys = s.sys := rfl
@[simp] theorem State.setMemWord_power (s : State) (a : Nat) (w : Word) : (s.setMemWord a w).power = s.power := rfl
@[simp] theorem State.setMemWord_keeper (s : State) (a : Nat) (w : Word) : (s.setMemWord a w).keeper = s.keeper := rfl
@[simp] theorem State.setMemWord_grids (s : State) (a : Nat) (w : Word) : (s.setMemWord a w).grids = s.grids := rfl
@[simp] theorem State.setMemWord_gridS (s : State) (a : Nat) (w : Word) : (s.setMemWord a w).gridS = s.gridS := rfl
@[simp] theorem State.setMemWord_cycles (s : State) (a : Nat) (w : Word) : (s.setMemWord a w).cycles = s.cycles := rfl
@[simp] theorem State.setMemWord_crcs (s : State) (a : Nat) (w : Word) : (s.setMemWord a w).crcs = s.crcs := rfl
@[simp] theorem State.setMemWord_acts (s : State) (a : Nat) (w : Word) : (s.setMemWord a w).acts = s.acts := rfl
@[simp] theorem State.setMemWord_maintSeq (s : State) (a : Nat) (w : Word) : (s.setMemWord a w).maintSeq = s.maintSeq := rfl
@[simp] theorem State.setMemWord_meters (s : State) (a : Nat) (w : Word) : (s.setMemWord a w).meters = s.meters := rfl
@[simp] theorem State.setMemWord_vars (s : State) (a : Nat) (w : Word) : (s.setMemWord a w).vars = s.vars := rfl
@[simp] theorem State.setMemWord_cmds (s : State) (a : Nat) (w : Word) : (s.setMemWord a w).cmds = s.cmds := rfl
@[simp] theorem State.setMemWord_arb (s : State) (a : Nat) (w : Word) : (s.setMemWord a w).arb = s.arb := rfl
@[simp] theorem State.setMemWord_safety (s : State) (a : Nat) (w : Word) : (s.setMemWord a w).safety = s.safety := rfl
@[simp] theorem State.setMemWord_net (s : State) (a : Nat) (w : Word) : (s.setMemWord a w).net = s.net := rfl
@[simp] theorem State.setMemWord_flows (s : State) (a : Nat) (w : Word) : (s.setMemWord a w).flows = s.flows := rfl
@[simp] theorem State.setMemWord_dict (s : State) (a : Nat) (w : Word) : (s.setMemWord a w).dict = s.dict := rfl
@[simp] theorem State.setMemWord_persist (s : State) (a : Nat) (w : Word) : (s.setMemWord a w).persist = s.persist := rfl

@[simp] theorem State.send_pending (s : State) (m : Msg) : (s.send m).pending = s.pending := rfl
@[simp] theorem State.send_regs (s : State) (m : Msg) : (s.send m).regs = s.regs := rfl
@[simp] theorem State.send_copies (s : State) (m : Msg) : (s.send m).copies = s.copies := rfl
@[simp] theorem State.send_mem (s : State) (m : Msg) : (s.send m).mem = s.mem := rfl
@[simp] theorem State.send_freeCnt (s : State) (m : Msg) : (s.send m).freeCnt = s.freeCnt := rfl
@[simp] theorem State.send_linkEnds (s : State) (m : Msg) : (s.send m).linkEnds = s.linkEnds := rfl
@[simp] theorem State.send_rsBlocks (s : State) (m : Msg) : (s.send m).rsBlocks = s.rsBlocks := rfl
@[simp] theorem State.send_plls (s : State) (m : Msg) : (s.send m).plls = s.plls := rfl
@[simp] theorem State.send_hops (s : State) (m : Msg) : (s.send m).hops = s.hops := rfl
@[simp] theorem State.send_groups (s : State) (m : Msg) : (s.send m).groups = s.groups := rfl
@[simp] theorem State.send_ports (s : State) (m : Msg) : (s.send m).ports = s.ports := rfl
@[simp] theorem State.send_tgs (s : State) (m : Msg) : (s.send m).tgs = s.tgs := rfl
@[simp] theorem State.send_drives (s : State) (m : Msg) : (s.send m).drives = s.drives := rfl
@[simp] theorem State.send_adcs (s : State) (m : Msg) : (s.send m).adcs = s.adcs := rfl
@[simp] theorem State.send_cmps (s : State) (m : Msg) : (s.send m).cmps = s.cmps := rfl
@[simp] theorem State.send_pis (s : State) (m : Msg) : (s.send m).pis = s.pis := rfl
@[simp] theorem State.send_cles (s : State) (m : Msg) : (s.send m).cles = s.cles := rfl
@[simp] theorem State.send_life (s : State) (m : Msg) : (s.send m).life = s.life := rfl
@[simp] theorem State.send_sys (s : State) (m : Msg) : (s.send m).sys = s.sys := rfl
@[simp] theorem State.send_power (s : State) (m : Msg) : (s.send m).power = s.power := rfl
@[simp] theorem State.send_keeper (s : State) (m : Msg) : (s.send m).keeper = s.keeper := rfl
@[simp] theorem State.send_grids (s : State) (m : Msg) : (s.send m).grids = s.grids := rfl
@[simp] theorem State.send_gridS (s : State) (m : Msg) : (s.send m).gridS = s.gridS := rfl
@[simp] theorem State.send_cycles (s : State) (m : Msg) : (s.send m).cycles = s.cycles := rfl
@[simp] theorem State.send_crcs (s : State) (m : Msg) : (s.send m).crcs = s.crcs := rfl
@[simp] theorem State.send_acts (s : State) (m : Msg) : (s.send m).acts = s.acts := rfl
@[simp] theorem State.send_maintSeq (s : State) (m : Msg) : (s.send m).maintSeq = s.maintSeq := rfl
@[simp] theorem State.send_meters (s : State) (m : Msg) : (s.send m).meters = s.meters := rfl
@[simp] theorem State.send_vars (s : State) (m : Msg) : (s.send m).vars = s.vars := rfl
@[simp] theorem State.send_cmds (s : State) (m : Msg) : (s.send m).cmds = s.cmds := rfl
@[simp] theorem State.send_arb (s : State) (m : Msg) : (s.send m).arb = s.arb := rfl
@[simp] theorem State.send_safety (s : State) (m : Msg) : (s.send m).safety = s.safety := rfl
@[simp] theorem State.send_net (s : State) (m : Msg) : (s.send m).net = s.net := rfl
@[simp] theorem State.send_flows (s : State) (m : Msg) : (s.send m).flows = s.flows := rfl
@[simp] theorem State.send_dict (s : State) (m : Msg) : (s.send m).dict = s.dict := rfl
@[simp] theorem State.send_persist (s : State) (m : Msg) : (s.send m).persist = s.persist := rfl

@[simp] theorem State.modPort_pending (s : State) (d j : Nat) (f : Port → Port) : (s.modPort d j f).pending = s.pending := rfl
@[simp] theorem State.modPort_regs (s : State) (d j : Nat) (f : Port → Port) : (s.modPort d j f).regs = s.regs := rfl
@[simp] theorem State.modPort_copies (s : State) (d j : Nat) (f : Port → Port) : (s.modPort d j f).copies = s.copies := rfl
@[simp] theorem State.modPort_mem (s : State) (d j : Nat) (f : Port → Port) : (s.modPort d j f).mem = s.mem := rfl
@[simp] theorem State.modPort_out (s : State) (d j : Nat) (f : Port → Port) : (s.modPort d j f).out = s.out := rfl
@[simp] theorem State.modPort_freeCnt (s : State) (d j : Nat) (f : Port → Port) : (s.modPort d j f).freeCnt = s.freeCnt := rfl
@[simp] theorem State.modPort_linkEnds (s : State) (d j : Nat) (f : Port → Port) : (s.modPort d j f).linkEnds = s.linkEnds := rfl
@[simp] theorem State.modPort_rsBlocks (s : State) (d j : Nat) (f : Port → Port) : (s.modPort d j f).rsBlocks = s.rsBlocks := rfl
@[simp] theorem State.modPort_plls (s : State) (d j : Nat) (f : Port → Port) : (s.modPort d j f).plls = s.plls := rfl
@[simp] theorem State.modPort_hops (s : State) (d j : Nat) (f : Port → Port) : (s.modPort d j f).hops = s.hops := rfl
@[simp] theorem State.modPort_groups (s : State) (d j : Nat) (f : Port → Port) : (s.modPort d j f).groups = s.groups := rfl
@[simp] theorem State.modPort_tgs (s : State) (d j : Nat) (f : Port → Port) : (s.modPort d j f).tgs = s.tgs := rfl
@[simp] theorem State.modPort_drives (s : State) (d j : Nat) (f : Port → Port) : (s.modPort d j f).drives = s.drives := rfl
@[simp] theorem State.modPort_adcs (s : State) (d j : Nat) (f : Port → Port) : (s.modPort d j f).adcs = s.adcs := rfl
@[simp] theorem State.modPort_cmps (s : State) (d j : Nat) (f : Port → Port) : (s.modPort d j f).cmps = s.cmps := rfl
@[simp] theorem State.modPort_pis (s : State) (d j : Nat) (f : Port → Port) : (s.modPort d j f).pis = s.pis := rfl
@[simp] theorem State.modPort_cles (s : State) (d j : Nat) (f : Port → Port) : (s.modPort d j f).cles = s.cles := rfl
@[simp] theorem State.modPort_life (s : State) (d j : Nat) (f : Port → Port) : (s.modPort d j f).life = s.life := rfl
@[simp] theorem State.modPort_sys (s : State) (d j : Nat) (f : Port → Port) : (s.modPort d j f).sys = s.sys := rfl
@[simp] theorem State.modPort_power (s : State) (d j : Nat) (f : Port → Port) : (s.modPort d j f).power = s.power := rfl
@[simp] theorem State.modPort_keeper (s : State) (d j : Nat) (f : Port → Port) : (s.modPort d j f).keeper = s.keeper := rfl
@[simp] theorem State.modPort_grids (s : State) (d j : Nat) (f : Port → Port) : (s.modPort d j f).grids = s.grids := rfl
@[simp] theorem State.modPort_gridS (s : State) (d j : Nat) (f : Port → Port) : (s.modPort d j f).gridS = s.gridS := rfl
@[simp] theorem State.modPort_cycles (s : State) (d j : Nat) (f : Port → Port) : (s.modPort d j f).cycles = s.cycles := rfl
@[simp] theorem State.modPort_crcs (s : State) (d j : Nat) (f : Port → Port) : (s.modPort d j f).crcs = s.crcs := rfl
@[simp] theorem State.modPort_acts (s : State) (d j : Nat) (f : Port → Port) : (s.modPort d j f).acts = s.acts := rfl
@[simp] theorem State.modPort_maintSeq (s : State) (d j : Nat) (f : Port → Port) : (s.modPort d j f).maintSeq = s.maintSeq := rfl
@[simp] theorem State.modPort_meters (s : State) (d j : Nat) (f : Port → Port) : (s.modPort d j f).meters = s.meters := rfl
@[simp] theorem State.modPort_vars (s : State) (d j : Nat) (f : Port → Port) : (s.modPort d j f).vars = s.vars := rfl
@[simp] theorem State.modPort_cmds (s : State) (d j : Nat) (f : Port → Port) : (s.modPort d j f).cmds = s.cmds := rfl
@[simp] theorem State.modPort_arb (s : State) (d j : Nat) (f : Port → Port) : (s.modPort d j f).arb = s.arb := rfl
@[simp] theorem State.modPort_safety (s : State) (d j : Nat) (f : Port → Port) : (s.modPort d j f).safety = s.safety := rfl
@[simp] theorem State.modPort_net (s : State) (d j : Nat) (f : Port → Port) : (s.modPort d j f).net = s.net := rfl
@[simp] theorem State.modPort_flows (s : State) (d j : Nat) (f : Port → Port) : (s.modPort d j f).flows = s.flows := rfl
@[simp] theorem State.modPort_dict (s : State) (d j : Nat) (f : Port → Port) : (s.modPort d j f).dict = s.dict := rfl
@[simp] theorem State.modPort_persist (s : State) (d j : Nat) (f : Port → Port) : (s.modPort d j f).persist = s.persist := rfl
@[simp] theorem State.modPort_ports (s : State) (d j : Nat) (f : Port → Port) : (s.modPort d j f).ports = vmod s.ports (7 * d + j) f := rfl

@[simp] theorem State.modGrp_pending (s : State) (d k : Nat) (f : Group → Group) : (s.modGrp d k f).pending = s.pending := rfl
@[simp] theorem State.modGrp_regs (s : State) (d k : Nat) (f : Group → Group) : (s.modGrp d k f).regs = s.regs := rfl
@[simp] theorem State.modGrp_copies (s : State) (d k : Nat) (f : Group → Group) : (s.modGrp d k f).copies = s.copies := rfl
@[simp] theorem State.modGrp_mem (s : State) (d k : Nat) (f : Group → Group) : (s.modGrp d k f).mem = s.mem := rfl
@[simp] theorem State.modGrp_out (s : State) (d k : Nat) (f : Group → Group) : (s.modGrp d k f).out = s.out := rfl
@[simp] theorem State.modGrp_freeCnt (s : State) (d k : Nat) (f : Group → Group) : (s.modGrp d k f).freeCnt = s.freeCnt := rfl
@[simp] theorem State.modGrp_linkEnds (s : State) (d k : Nat) (f : Group → Group) : (s.modGrp d k f).linkEnds = s.linkEnds := rfl
@[simp] theorem State.modGrp_rsBlocks (s : State) (d k : Nat) (f : Group → Group) : (s.modGrp d k f).rsBlocks = s.rsBlocks := rfl
@[simp] theorem State.modGrp_plls (s : State) (d k : Nat) (f : Group → Group) : (s.modGrp d k f).plls = s.plls := rfl
@[simp] theorem State.modGrp_hops (s : State) (d k : Nat) (f : Group → Group) : (s.modGrp d k f).hops = s.hops := rfl
@[simp] theorem State.modGrp_ports (s : State) (d k : Nat) (f : Group → Group) : (s.modGrp d k f).ports = s.ports := rfl
@[simp] theorem State.modGrp_tgs (s : State) (d k : Nat) (f : Group → Group) : (s.modGrp d k f).tgs = s.tgs := rfl
@[simp] theorem State.modGrp_drives (s : State) (d k : Nat) (f : Group → Group) : (s.modGrp d k f).drives = s.drives := rfl
@[simp] theorem State.modGrp_adcs (s : State) (d k : Nat) (f : Group → Group) : (s.modGrp d k f).adcs = s.adcs := rfl
@[simp] theorem State.modGrp_cmps (s : State) (d k : Nat) (f : Group → Group) : (s.modGrp d k f).cmps = s.cmps := rfl
@[simp] theorem State.modGrp_pis (s : State) (d k : Nat) (f : Group → Group) : (s.modGrp d k f).pis = s.pis := rfl
@[simp] theorem State.modGrp_cles (s : State) (d k : Nat) (f : Group → Group) : (s.modGrp d k f).cles = s.cles := rfl
@[simp] theorem State.modGrp_life (s : State) (d k : Nat) (f : Group → Group) : (s.modGrp d k f).life = s.life := rfl
@[simp] theorem State.modGrp_sys (s : State) (d k : Nat) (f : Group → Group) : (s.modGrp d k f).sys = s.sys := rfl
@[simp] theorem State.modGrp_power (s : State) (d k : Nat) (f : Group → Group) : (s.modGrp d k f).power = s.power := rfl
@[simp] theorem State.modGrp_keeper (s : State) (d k : Nat) (f : Group → Group) : (s.modGrp d k f).keeper = s.keeper := rfl
@[simp] theorem State.modGrp_grids (s : State) (d k : Nat) (f : Group → Group) : (s.modGrp d k f).grids = s.grids := rfl
@[simp] theorem State.modGrp_gridS (s : State) (d k : Nat) (f : Group → Group) : (s.modGrp d k f).gridS = s.gridS := rfl
@[simp] theorem State.modGrp_cycles (s : State) (d k : Nat) (f : Group → Group) : (s.modGrp d k f).cycles = s.cycles := rfl
@[simp] theorem State.modGrp_crcs (s : State) (d k : Nat) (f : Group → Group) : (s.modGrp d k f).crcs = s.crcs := rfl
@[simp] theorem State.modGrp_acts (s : State) (d k : Nat) (f : Group → Group) : (s.modGrp d k f).acts = s.acts := rfl
@[simp] theorem State.modGrp_maintSeq (s : State) (d k : Nat) (f : Group → Group) : (s.modGrp d k f).maintSeq = s.maintSeq := rfl
@[simp] theorem State.modGrp_meters (s : State) (d k : Nat) (f : Group → Group) : (s.modGrp d k f).meters = s.meters := rfl
@[simp] theorem State.modGrp_vars (s : State) (d k : Nat) (f : Group → Group) : (s.modGrp d k f).vars = s.vars := rfl
@[simp] theorem State.modGrp_cmds (s : State) (d k : Nat) (f : Group → Group) : (s.modGrp d k f).cmds = s.cmds := rfl
@[simp] theorem State.modGrp_arb (s : State) (d k : Nat) (f : Group → Group) : (s.modGrp d k f).arb = s.arb := rfl
@[simp] theorem State.modGrp_safety (s : State) (d k : Nat) (f : Group → Group) : (s.modGrp d k f).safety = s.safety := rfl
@[simp] theorem State.modGrp_net (s : State) (d k : Nat) (f : Group → Group) : (s.modGrp d k f).net = s.net := rfl
@[simp] theorem State.modGrp_flows (s : State) (d k : Nat) (f : Group → Group) : (s.modGrp d k f).flows = s.flows := rfl
@[simp] theorem State.modGrp_dict (s : State) (d k : Nat) (f : Group → Group) : (s.modGrp d k f).dict = s.dict := rfl
@[simp] theorem State.modGrp_persist (s : State) (d k : Nat) (f : Group → Group) : (s.modGrp d k f).persist = s.persist := rfl
@[simp] theorem State.modGrp_groups (s : State) (d k : Nat) (f : Group → Group) : (s.modGrp d k f).groups = vmod s.groups (4 * d + k) f := rfl

@[simp] theorem State.modDrive_pending (s : State) (d : Nat) (f : DriveDie → DriveDie) : (s.modDrive d f).pending = s.pending := rfl
@[simp] theorem State.modDrive_regs (s : State) (d : Nat) (f : DriveDie → DriveDie) : (s.modDrive d f).regs = s.regs := rfl
@[simp] theorem State.modDrive_copies (s : State) (d : Nat) (f : DriveDie → DriveDie) : (s.modDrive d f).copies = s.copies := rfl
@[simp] theorem State.modDrive_mem (s : State) (d : Nat) (f : DriveDie → DriveDie) : (s.modDrive d f).mem = s.mem := rfl
@[simp] theorem State.modDrive_out (s : State) (d : Nat) (f : DriveDie → DriveDie) : (s.modDrive d f).out = s.out := rfl
@[simp] theorem State.modDrive_freeCnt (s : State) (d : Nat) (f : DriveDie → DriveDie) : (s.modDrive d f).freeCnt = s.freeCnt := rfl
@[simp] theorem State.modDrive_linkEnds (s : State) (d : Nat) (f : DriveDie → DriveDie) : (s.modDrive d f).linkEnds = s.linkEnds := rfl
@[simp] theorem State.modDrive_rsBlocks (s : State) (d : Nat) (f : DriveDie → DriveDie) : (s.modDrive d f).rsBlocks = s.rsBlocks := rfl
@[simp] theorem State.modDrive_plls (s : State) (d : Nat) (f : DriveDie → DriveDie) : (s.modDrive d f).plls = s.plls := rfl
@[simp] theorem State.modDrive_hops (s : State) (d : Nat) (f : DriveDie → DriveDie) : (s.modDrive d f).hops = s.hops := rfl
@[simp] theorem State.modDrive_groups (s : State) (d : Nat) (f : DriveDie → DriveDie) : (s.modDrive d f).groups = s.groups := rfl
@[simp] theorem State.modDrive_ports (s : State) (d : Nat) (f : DriveDie → DriveDie) : (s.modDrive d f).ports = s.ports := rfl
@[simp] theorem State.modDrive_tgs (s : State) (d : Nat) (f : DriveDie → DriveDie) : (s.modDrive d f).tgs = s.tgs := rfl
@[simp] theorem State.modDrive_adcs (s : State) (d : Nat) (f : DriveDie → DriveDie) : (s.modDrive d f).adcs = s.adcs := rfl
@[simp] theorem State.modDrive_cmps (s : State) (d : Nat) (f : DriveDie → DriveDie) : (s.modDrive d f).cmps = s.cmps := rfl
@[simp] theorem State.modDrive_pis (s : State) (d : Nat) (f : DriveDie → DriveDie) : (s.modDrive d f).pis = s.pis := rfl
@[simp] theorem State.modDrive_cles (s : State) (d : Nat) (f : DriveDie → DriveDie) : (s.modDrive d f).cles = s.cles := rfl
@[simp] theorem State.modDrive_life (s : State) (d : Nat) (f : DriveDie → DriveDie) : (s.modDrive d f).life = s.life := rfl
@[simp] theorem State.modDrive_sys (s : State) (d : Nat) (f : DriveDie → DriveDie) : (s.modDrive d f).sys = s.sys := rfl
@[simp] theorem State.modDrive_power (s : State) (d : Nat) (f : DriveDie → DriveDie) : (s.modDrive d f).power = s.power := rfl
@[simp] theorem State.modDrive_keeper (s : State) (d : Nat) (f : DriveDie → DriveDie) : (s.modDrive d f).keeper = s.keeper := rfl
@[simp] theorem State.modDrive_grids (s : State) (d : Nat) (f : DriveDie → DriveDie) : (s.modDrive d f).grids = s.grids := rfl
@[simp] theorem State.modDrive_gridS (s : State) (d : Nat) (f : DriveDie → DriveDie) : (s.modDrive d f).gridS = s.gridS := rfl
@[simp] theorem State.modDrive_cycles (s : State) (d : Nat) (f : DriveDie → DriveDie) : (s.modDrive d f).cycles = s.cycles := rfl
@[simp] theorem State.modDrive_crcs (s : State) (d : Nat) (f : DriveDie → DriveDie) : (s.modDrive d f).crcs = s.crcs := rfl
@[simp] theorem State.modDrive_acts (s : State) (d : Nat) (f : DriveDie → DriveDie) : (s.modDrive d f).acts = s.acts := rfl
@[simp] theorem State.modDrive_maintSeq (s : State) (d : Nat) (f : DriveDie → DriveDie) : (s.modDrive d f).maintSeq = s.maintSeq := rfl
@[simp] theorem State.modDrive_meters (s : State) (d : Nat) (f : DriveDie → DriveDie) : (s.modDrive d f).meters = s.meters := rfl
@[simp] theorem State.modDrive_vars (s : State) (d : Nat) (f : DriveDie → DriveDie) : (s.modDrive d f).vars = s.vars := rfl
@[simp] theorem State.modDrive_cmds (s : State) (d : Nat) (f : DriveDie → DriveDie) : (s.modDrive d f).cmds = s.cmds := rfl
@[simp] theorem State.modDrive_arb (s : State) (d : Nat) (f : DriveDie → DriveDie) : (s.modDrive d f).arb = s.arb := rfl
@[simp] theorem State.modDrive_safety (s : State) (d : Nat) (f : DriveDie → DriveDie) : (s.modDrive d f).safety = s.safety := rfl
@[simp] theorem State.modDrive_net (s : State) (d : Nat) (f : DriveDie → DriveDie) : (s.modDrive d f).net = s.net := rfl
@[simp] theorem State.modDrive_flows (s : State) (d : Nat) (f : DriveDie → DriveDie) : (s.modDrive d f).flows = s.flows := rfl
@[simp] theorem State.modDrive_dict (s : State) (d : Nat) (f : DriveDie → DriveDie) : (s.modDrive d f).dict = s.dict := rfl
@[simp] theorem State.modDrive_persist (s : State) (d : Nat) (f : DriveDie → DriveDie) : (s.modDrive d f).persist = s.persist := rfl
@[simp] theorem State.modDrive_drives (s : State) (d : Nat) (f : DriveDie → DriveDie) : (s.modDrive d f).drives = vmod s.drives d f := rfl

@[simp] theorem State.modTg_pending (s : State) (d k : Nat) (f : TripGroup → TripGroup) : (s.modTg d k f).pending = s.pending := rfl
@[simp] theorem State.modTg_regs (s : State) (d k : Nat) (f : TripGroup → TripGroup) : (s.modTg d k f).regs = s.regs := rfl
@[simp] theorem State.modTg_copies (s : State) (d k : Nat) (f : TripGroup → TripGroup) : (s.modTg d k f).copies = s.copies := rfl
@[simp] theorem State.modTg_mem (s : State) (d k : Nat) (f : TripGroup → TripGroup) : (s.modTg d k f).mem = s.mem := rfl
@[simp] theorem State.modTg_out (s : State) (d k : Nat) (f : TripGroup → TripGroup) : (s.modTg d k f).out = s.out := rfl
@[simp] theorem State.modTg_freeCnt (s : State) (d k : Nat) (f : TripGroup → TripGroup) : (s.modTg d k f).freeCnt = s.freeCnt := rfl
@[simp] theorem State.modTg_linkEnds (s : State) (d k : Nat) (f : TripGroup → TripGroup) : (s.modTg d k f).linkEnds = s.linkEnds := rfl
@[simp] theorem State.modTg_rsBlocks (s : State) (d k : Nat) (f : TripGroup → TripGroup) : (s.modTg d k f).rsBlocks = s.rsBlocks := rfl
@[simp] theorem State.modTg_plls (s : State) (d k : Nat) (f : TripGroup → TripGroup) : (s.modTg d k f).plls = s.plls := rfl
@[simp] theorem State.modTg_hops (s : State) (d k : Nat) (f : TripGroup → TripGroup) : (s.modTg d k f).hops = s.hops := rfl
@[simp] theorem State.modTg_groups (s : State) (d k : Nat) (f : TripGroup → TripGroup) : (s.modTg d k f).groups = s.groups := rfl
@[simp] theorem State.modTg_ports (s : State) (d k : Nat) (f : TripGroup → TripGroup) : (s.modTg d k f).ports = s.ports := rfl
@[simp] theorem State.modTg_drives (s : State) (d k : Nat) (f : TripGroup → TripGroup) : (s.modTg d k f).drives = s.drives := rfl
@[simp] theorem State.modTg_adcs (s : State) (d k : Nat) (f : TripGroup → TripGroup) : (s.modTg d k f).adcs = s.adcs := rfl
@[simp] theorem State.modTg_cmps (s : State) (d k : Nat) (f : TripGroup → TripGroup) : (s.modTg d k f).cmps = s.cmps := rfl
@[simp] theorem State.modTg_pis (s : State) (d k : Nat) (f : TripGroup → TripGroup) : (s.modTg d k f).pis = s.pis := rfl
@[simp] theorem State.modTg_cles (s : State) (d k : Nat) (f : TripGroup → TripGroup) : (s.modTg d k f).cles = s.cles := rfl
@[simp] theorem State.modTg_life (s : State) (d k : Nat) (f : TripGroup → TripGroup) : (s.modTg d k f).life = s.life := rfl
@[simp] theorem State.modTg_sys (s : State) (d k : Nat) (f : TripGroup → TripGroup) : (s.modTg d k f).sys = s.sys := rfl
@[simp] theorem State.modTg_power (s : State) (d k : Nat) (f : TripGroup → TripGroup) : (s.modTg d k f).power = s.power := rfl
@[simp] theorem State.modTg_keeper (s : State) (d k : Nat) (f : TripGroup → TripGroup) : (s.modTg d k f).keeper = s.keeper := rfl
@[simp] theorem State.modTg_grids (s : State) (d k : Nat) (f : TripGroup → TripGroup) : (s.modTg d k f).grids = s.grids := rfl
@[simp] theorem State.modTg_gridS (s : State) (d k : Nat) (f : TripGroup → TripGroup) : (s.modTg d k f).gridS = s.gridS := rfl
@[simp] theorem State.modTg_cycles (s : State) (d k : Nat) (f : TripGroup → TripGroup) : (s.modTg d k f).cycles = s.cycles := rfl
@[simp] theorem State.modTg_crcs (s : State) (d k : Nat) (f : TripGroup → TripGroup) : (s.modTg d k f).crcs = s.crcs := rfl
@[simp] theorem State.modTg_acts (s : State) (d k : Nat) (f : TripGroup → TripGroup) : (s.modTg d k f).acts = s.acts := rfl
@[simp] theorem State.modTg_maintSeq (s : State) (d k : Nat) (f : TripGroup → TripGroup) : (s.modTg d k f).maintSeq = s.maintSeq := rfl
@[simp] theorem State.modTg_meters (s : State) (d k : Nat) (f : TripGroup → TripGroup) : (s.modTg d k f).meters = s.meters := rfl
@[simp] theorem State.modTg_vars (s : State) (d k : Nat) (f : TripGroup → TripGroup) : (s.modTg d k f).vars = s.vars := rfl
@[simp] theorem State.modTg_cmds (s : State) (d k : Nat) (f : TripGroup → TripGroup) : (s.modTg d k f).cmds = s.cmds := rfl
@[simp] theorem State.modTg_arb (s : State) (d k : Nat) (f : TripGroup → TripGroup) : (s.modTg d k f).arb = s.arb := rfl
@[simp] theorem State.modTg_safety (s : State) (d k : Nat) (f : TripGroup → TripGroup) : (s.modTg d k f).safety = s.safety := rfl
@[simp] theorem State.modTg_net (s : State) (d k : Nat) (f : TripGroup → TripGroup) : (s.modTg d k f).net = s.net := rfl
@[simp] theorem State.modTg_flows (s : State) (d k : Nat) (f : TripGroup → TripGroup) : (s.modTg d k f).flows = s.flows := rfl
@[simp] theorem State.modTg_dict (s : State) (d k : Nat) (f : TripGroup → TripGroup) : (s.modTg d k f).dict = s.dict := rfl
@[simp] theorem State.modTg_persist (s : State) (d k : Nat) (f : TripGroup → TripGroup) : (s.modTg d k f).persist = s.persist := rfl
@[simp] theorem State.modTg_tgs (s : State) (d k : Nat) (f : TripGroup → TripGroup) : (s.modTg d k f).tgs = vmod s.tgs (2 * d + k) f := rfl

@[simp] theorem State.modCmp_pending (s : State) (d i : Nat) (f : Comparator → Comparator) : (s.modCmp d i f).pending = s.pending := rfl
@[simp] theorem State.modCmp_regs (s : State) (d i : Nat) (f : Comparator → Comparator) : (s.modCmp d i f).regs = s.regs := rfl
@[simp] theorem State.modCmp_copies (s : State) (d i : Nat) (f : Comparator → Comparator) : (s.modCmp d i f).copies = s.copies := rfl
@[simp] theorem State.modCmp_mem (s : State) (d i : Nat) (f : Comparator → Comparator) : (s.modCmp d i f).mem = s.mem := rfl
@[simp] theorem State.modCmp_out (s : State) (d i : Nat) (f : Comparator → Comparator) : (s.modCmp d i f).out = s.out := rfl
@[simp] theorem State.modCmp_freeCnt (s : State) (d i : Nat) (f : Comparator → Comparator) : (s.modCmp d i f).freeCnt = s.freeCnt := rfl
@[simp] theorem State.modCmp_linkEnds (s : State) (d i : Nat) (f : Comparator → Comparator) : (s.modCmp d i f).linkEnds = s.linkEnds := rfl
@[simp] theorem State.modCmp_rsBlocks (s : State) (d i : Nat) (f : Comparator → Comparator) : (s.modCmp d i f).rsBlocks = s.rsBlocks := rfl
@[simp] theorem State.modCmp_plls (s : State) (d i : Nat) (f : Comparator → Comparator) : (s.modCmp d i f).plls = s.plls := rfl
@[simp] theorem State.modCmp_hops (s : State) (d i : Nat) (f : Comparator → Comparator) : (s.modCmp d i f).hops = s.hops := rfl
@[simp] theorem State.modCmp_groups (s : State) (d i : Nat) (f : Comparator → Comparator) : (s.modCmp d i f).groups = s.groups := rfl
@[simp] theorem State.modCmp_ports (s : State) (d i : Nat) (f : Comparator → Comparator) : (s.modCmp d i f).ports = s.ports := rfl
@[simp] theorem State.modCmp_tgs (s : State) (d i : Nat) (f : Comparator → Comparator) : (s.modCmp d i f).tgs = s.tgs := rfl
@[simp] theorem State.modCmp_drives (s : State) (d i : Nat) (f : Comparator → Comparator) : (s.modCmp d i f).drives = s.drives := rfl
@[simp] theorem State.modCmp_adcs (s : State) (d i : Nat) (f : Comparator → Comparator) : (s.modCmp d i f).adcs = s.adcs := rfl
@[simp] theorem State.modCmp_pis (s : State) (d i : Nat) (f : Comparator → Comparator) : (s.modCmp d i f).pis = s.pis := rfl
@[simp] theorem State.modCmp_cles (s : State) (d i : Nat) (f : Comparator → Comparator) : (s.modCmp d i f).cles = s.cles := rfl
@[simp] theorem State.modCmp_life (s : State) (d i : Nat) (f : Comparator → Comparator) : (s.modCmp d i f).life = s.life := rfl
@[simp] theorem State.modCmp_sys (s : State) (d i : Nat) (f : Comparator → Comparator) : (s.modCmp d i f).sys = s.sys := rfl
@[simp] theorem State.modCmp_power (s : State) (d i : Nat) (f : Comparator → Comparator) : (s.modCmp d i f).power = s.power := rfl
@[simp] theorem State.modCmp_keeper (s : State) (d i : Nat) (f : Comparator → Comparator) : (s.modCmp d i f).keeper = s.keeper := rfl
@[simp] theorem State.modCmp_grids (s : State) (d i : Nat) (f : Comparator → Comparator) : (s.modCmp d i f).grids = s.grids := rfl
@[simp] theorem State.modCmp_gridS (s : State) (d i : Nat) (f : Comparator → Comparator) : (s.modCmp d i f).gridS = s.gridS := rfl
@[simp] theorem State.modCmp_cycles (s : State) (d i : Nat) (f : Comparator → Comparator) : (s.modCmp d i f).cycles = s.cycles := rfl
@[simp] theorem State.modCmp_crcs (s : State) (d i : Nat) (f : Comparator → Comparator) : (s.modCmp d i f).crcs = s.crcs := rfl
@[simp] theorem State.modCmp_acts (s : State) (d i : Nat) (f : Comparator → Comparator) : (s.modCmp d i f).acts = s.acts := rfl
@[simp] theorem State.modCmp_maintSeq (s : State) (d i : Nat) (f : Comparator → Comparator) : (s.modCmp d i f).maintSeq = s.maintSeq := rfl
@[simp] theorem State.modCmp_meters (s : State) (d i : Nat) (f : Comparator → Comparator) : (s.modCmp d i f).meters = s.meters := rfl
@[simp] theorem State.modCmp_vars (s : State) (d i : Nat) (f : Comparator → Comparator) : (s.modCmp d i f).vars = s.vars := rfl
@[simp] theorem State.modCmp_cmds (s : State) (d i : Nat) (f : Comparator → Comparator) : (s.modCmp d i f).cmds = s.cmds := rfl
@[simp] theorem State.modCmp_arb (s : State) (d i : Nat) (f : Comparator → Comparator) : (s.modCmp d i f).arb = s.arb := rfl
@[simp] theorem State.modCmp_safety (s : State) (d i : Nat) (f : Comparator → Comparator) : (s.modCmp d i f).safety = s.safety := rfl
@[simp] theorem State.modCmp_net (s : State) (d i : Nat) (f : Comparator → Comparator) : (s.modCmp d i f).net = s.net := rfl
@[simp] theorem State.modCmp_flows (s : State) (d i : Nat) (f : Comparator → Comparator) : (s.modCmp d i f).flows = s.flows := rfl
@[simp] theorem State.modCmp_dict (s : State) (d i : Nat) (f : Comparator → Comparator) : (s.modCmp d i f).dict = s.dict := rfl
@[simp] theorem State.modCmp_persist (s : State) (d i : Nat) (f : Comparator → Comparator) : (s.modCmp d i f).persist = s.persist := rfl
@[simp] theorem State.modCmp_cmps (s : State) (d i : Nat) (f : Comparator → Comparator) : (s.modCmp d i f).cmps = vmod s.cmps (16 * d + i) f := rfl

@[simp] theorem State.modAdc_pending (s : State) (d k : Nat) (f : AdcCore → AdcCore) : (s.modAdc d k f).pending = s.pending := rfl
@[simp] theorem State.modAdc_regs (s : State) (d k : Nat) (f : AdcCore → AdcCore) : (s.modAdc d k f).regs = s.regs := rfl
@[simp] theorem State.modAdc_copies (s : State) (d k : Nat) (f : AdcCore → AdcCore) : (s.modAdc d k f).copies = s.copies := rfl
@[simp] theorem State.modAdc_mem (s : State) (d k : Nat) (f : AdcCore → AdcCore) : (s.modAdc d k f).mem = s.mem := rfl
@[simp] theorem State.modAdc_out (s : State) (d k : Nat) (f : AdcCore → AdcCore) : (s.modAdc d k f).out = s.out := rfl
@[simp] theorem State.modAdc_freeCnt (s : State) (d k : Nat) (f : AdcCore → AdcCore) : (s.modAdc d k f).freeCnt = s.freeCnt := rfl
@[simp] theorem State.modAdc_linkEnds (s : State) (d k : Nat) (f : AdcCore → AdcCore) : (s.modAdc d k f).linkEnds = s.linkEnds := rfl
@[simp] theorem State.modAdc_rsBlocks (s : State) (d k : Nat) (f : AdcCore → AdcCore) : (s.modAdc d k f).rsBlocks = s.rsBlocks := rfl
@[simp] theorem State.modAdc_plls (s : State) (d k : Nat) (f : AdcCore → AdcCore) : (s.modAdc d k f).plls = s.plls := rfl
@[simp] theorem State.modAdc_hops (s : State) (d k : Nat) (f : AdcCore → AdcCore) : (s.modAdc d k f).hops = s.hops := rfl
@[simp] theorem State.modAdc_groups (s : State) (d k : Nat) (f : AdcCore → AdcCore) : (s.modAdc d k f).groups = s.groups := rfl
@[simp] theorem State.modAdc_ports (s : State) (d k : Nat) (f : AdcCore → AdcCore) : (s.modAdc d k f).ports = s.ports := rfl
@[simp] theorem State.modAdc_tgs (s : State) (d k : Nat) (f : AdcCore → AdcCore) : (s.modAdc d k f).tgs = s.tgs := rfl
@[simp] theorem State.modAdc_drives (s : State) (d k : Nat) (f : AdcCore → AdcCore) : (s.modAdc d k f).drives = s.drives := rfl
@[simp] theorem State.modAdc_cmps (s : State) (d k : Nat) (f : AdcCore → AdcCore) : (s.modAdc d k f).cmps = s.cmps := rfl
@[simp] theorem State.modAdc_pis (s : State) (d k : Nat) (f : AdcCore → AdcCore) : (s.modAdc d k f).pis = s.pis := rfl
@[simp] theorem State.modAdc_cles (s : State) (d k : Nat) (f : AdcCore → AdcCore) : (s.modAdc d k f).cles = s.cles := rfl
@[simp] theorem State.modAdc_life (s : State) (d k : Nat) (f : AdcCore → AdcCore) : (s.modAdc d k f).life = s.life := rfl
@[simp] theorem State.modAdc_sys (s : State) (d k : Nat) (f : AdcCore → AdcCore) : (s.modAdc d k f).sys = s.sys := rfl
@[simp] theorem State.modAdc_power (s : State) (d k : Nat) (f : AdcCore → AdcCore) : (s.modAdc d k f).power = s.power := rfl
@[simp] theorem State.modAdc_keeper (s : State) (d k : Nat) (f : AdcCore → AdcCore) : (s.modAdc d k f).keeper = s.keeper := rfl
@[simp] theorem State.modAdc_grids (s : State) (d k : Nat) (f : AdcCore → AdcCore) : (s.modAdc d k f).grids = s.grids := rfl
@[simp] theorem State.modAdc_gridS (s : State) (d k : Nat) (f : AdcCore → AdcCore) : (s.modAdc d k f).gridS = s.gridS := rfl
@[simp] theorem State.modAdc_cycles (s : State) (d k : Nat) (f : AdcCore → AdcCore) : (s.modAdc d k f).cycles = s.cycles := rfl
@[simp] theorem State.modAdc_crcs (s : State) (d k : Nat) (f : AdcCore → AdcCore) : (s.modAdc d k f).crcs = s.crcs := rfl
@[simp] theorem State.modAdc_acts (s : State) (d k : Nat) (f : AdcCore → AdcCore) : (s.modAdc d k f).acts = s.acts := rfl
@[simp] theorem State.modAdc_maintSeq (s : State) (d k : Nat) (f : AdcCore → AdcCore) : (s.modAdc d k f).maintSeq = s.maintSeq := rfl
@[simp] theorem State.modAdc_meters (s : State) (d k : Nat) (f : AdcCore → AdcCore) : (s.modAdc d k f).meters = s.meters := rfl
@[simp] theorem State.modAdc_vars (s : State) (d k : Nat) (f : AdcCore → AdcCore) : (s.modAdc d k f).vars = s.vars := rfl
@[simp] theorem State.modAdc_cmds (s : State) (d k : Nat) (f : AdcCore → AdcCore) : (s.modAdc d k f).cmds = s.cmds := rfl
@[simp] theorem State.modAdc_arb (s : State) (d k : Nat) (f : AdcCore → AdcCore) : (s.modAdc d k f).arb = s.arb := rfl
@[simp] theorem State.modAdc_safety (s : State) (d k : Nat) (f : AdcCore → AdcCore) : (s.modAdc d k f).safety = s.safety := rfl
@[simp] theorem State.modAdc_net (s : State) (d k : Nat) (f : AdcCore → AdcCore) : (s.modAdc d k f).net = s.net := rfl
@[simp] theorem State.modAdc_flows (s : State) (d k : Nat) (f : AdcCore → AdcCore) : (s.modAdc d k f).flows = s.flows := rfl
@[simp] theorem State.modAdc_dict (s : State) (d k : Nat) (f : AdcCore → AdcCore) : (s.modAdc d k f).dict = s.dict := rfl
@[simp] theorem State.modAdc_persist (s : State) (d k : Nat) (f : AdcCore → AdcCore) : (s.modAdc d k f).persist = s.persist := rfl
@[simp] theorem State.modAdc_adcs (s : State) (d k : Nat) (f : AdcCore → AdcCore) : (s.modAdc d k f).adcs = vmod s.adcs (4 * d + k) f := rfl

@[simp] theorem State.modGrid_pending (s : State) (d : Nat) (f : GridDie → GridDie) : (s.modGrid d f).pending = s.pending := rfl
@[simp] theorem State.modGrid_regs (s : State) (d : Nat) (f : GridDie → GridDie) : (s.modGrid d f).regs = s.regs := rfl
@[simp] theorem State.modGrid_copies (s : State) (d : Nat) (f : GridDie → GridDie) : (s.modGrid d f).copies = s.copies := rfl
@[simp] theorem State.modGrid_mem (s : State) (d : Nat) (f : GridDie → GridDie) : (s.modGrid d f).mem = s.mem := rfl
@[simp] theorem State.modGrid_out (s : State) (d : Nat) (f : GridDie → GridDie) : (s.modGrid d f).out = s.out := rfl
@[simp] theorem State.modGrid_freeCnt (s : State) (d : Nat) (f : GridDie → GridDie) : (s.modGrid d f).freeCnt = s.freeCnt := rfl
@[simp] theorem State.modGrid_linkEnds (s : State) (d : Nat) (f : GridDie → GridDie) : (s.modGrid d f).linkEnds = s.linkEnds := rfl
@[simp] theorem State.modGrid_rsBlocks (s : State) (d : Nat) (f : GridDie → GridDie) : (s.modGrid d f).rsBlocks = s.rsBlocks := rfl
@[simp] theorem State.modGrid_plls (s : State) (d : Nat) (f : GridDie → GridDie) : (s.modGrid d f).plls = s.plls := rfl
@[simp] theorem State.modGrid_hops (s : State) (d : Nat) (f : GridDie → GridDie) : (s.modGrid d f).hops = s.hops := rfl
@[simp] theorem State.modGrid_groups (s : State) (d : Nat) (f : GridDie → GridDie) : (s.modGrid d f).groups = s.groups := rfl
@[simp] theorem State.modGrid_ports (s : State) (d : Nat) (f : GridDie → GridDie) : (s.modGrid d f).ports = s.ports := rfl
@[simp] theorem State.modGrid_tgs (s : State) (d : Nat) (f : GridDie → GridDie) : (s.modGrid d f).tgs = s.tgs := rfl
@[simp] theorem State.modGrid_drives (s : State) (d : Nat) (f : GridDie → GridDie) : (s.modGrid d f).drives = s.drives := rfl
@[simp] theorem State.modGrid_adcs (s : State) (d : Nat) (f : GridDie → GridDie) : (s.modGrid d f).adcs = s.adcs := rfl
@[simp] theorem State.modGrid_cmps (s : State) (d : Nat) (f : GridDie → GridDie) : (s.modGrid d f).cmps = s.cmps := rfl
@[simp] theorem State.modGrid_pis (s : State) (d : Nat) (f : GridDie → GridDie) : (s.modGrid d f).pis = s.pis := rfl
@[simp] theorem State.modGrid_cles (s : State) (d : Nat) (f : GridDie → GridDie) : (s.modGrid d f).cles = s.cles := rfl
@[simp] theorem State.modGrid_life (s : State) (d : Nat) (f : GridDie → GridDie) : (s.modGrid d f).life = s.life := rfl
@[simp] theorem State.modGrid_sys (s : State) (d : Nat) (f : GridDie → GridDie) : (s.modGrid d f).sys = s.sys := rfl
@[simp] theorem State.modGrid_power (s : State) (d : Nat) (f : GridDie → GridDie) : (s.modGrid d f).power = s.power := rfl
@[simp] theorem State.modGrid_keeper (s : State) (d : Nat) (f : GridDie → GridDie) : (s.modGrid d f).keeper = s.keeper := rfl
@[simp] theorem State.modGrid_gridS (s : State) (d : Nat) (f : GridDie → GridDie) : (s.modGrid d f).gridS = s.gridS := rfl
@[simp] theorem State.modGrid_cycles (s : State) (d : Nat) (f : GridDie → GridDie) : (s.modGrid d f).cycles = s.cycles := rfl
@[simp] theorem State.modGrid_crcs (s : State) (d : Nat) (f : GridDie → GridDie) : (s.modGrid d f).crcs = s.crcs := rfl
@[simp] theorem State.modGrid_acts (s : State) (d : Nat) (f : GridDie → GridDie) : (s.modGrid d f).acts = s.acts := rfl
@[simp] theorem State.modGrid_maintSeq (s : State) (d : Nat) (f : GridDie → GridDie) : (s.modGrid d f).maintSeq = s.maintSeq := rfl
@[simp] theorem State.modGrid_meters (s : State) (d : Nat) (f : GridDie → GridDie) : (s.modGrid d f).meters = s.meters := rfl
@[simp] theorem State.modGrid_vars (s : State) (d : Nat) (f : GridDie → GridDie) : (s.modGrid d f).vars = s.vars := rfl
@[simp] theorem State.modGrid_cmds (s : State) (d : Nat) (f : GridDie → GridDie) : (s.modGrid d f).cmds = s.cmds := rfl
@[simp] theorem State.modGrid_arb (s : State) (d : Nat) (f : GridDie → GridDie) : (s.modGrid d f).arb = s.arb := rfl
@[simp] theorem State.modGrid_safety (s : State) (d : Nat) (f : GridDie → GridDie) : (s.modGrid d f).safety = s.safety := rfl
@[simp] theorem State.modGrid_net (s : State) (d : Nat) (f : GridDie → GridDie) : (s.modGrid d f).net = s.net := rfl
@[simp] theorem State.modGrid_flows (s : State) (d : Nat) (f : GridDie → GridDie) : (s.modGrid d f).flows = s.flows := rfl
@[simp] theorem State.modGrid_dict (s : State) (d : Nat) (f : GridDie → GridDie) : (s.modGrid d f).dict = s.dict := rfl
@[simp] theorem State.modGrid_persist (s : State) (d : Nat) (f : GridDie → GridDie) : (s.modGrid d f).persist = s.persist := rfl
@[simp] theorem State.modGrid_grids (s : State) (d : Nat) (f : GridDie → GridDie) : (s.modGrid d f).grids = vmod s.grids d f := rfl

@[simp] theorem State.modHop_pending (s : State) (d : Nat) (f : Hop → Hop) : (s.modHop d f).pending = s.pending := rfl
@[simp] theorem State.modHop_regs (s : State) (d : Nat) (f : Hop → Hop) : (s.modHop d f).regs = s.regs := rfl
@[simp] theorem State.modHop_copies (s : State) (d : Nat) (f : Hop → Hop) : (s.modHop d f).copies = s.copies := rfl
@[simp] theorem State.modHop_mem (s : State) (d : Nat) (f : Hop → Hop) : (s.modHop d f).mem = s.mem := rfl
@[simp] theorem State.modHop_out (s : State) (d : Nat) (f : Hop → Hop) : (s.modHop d f).out = s.out := rfl
@[simp] theorem State.modHop_freeCnt (s : State) (d : Nat) (f : Hop → Hop) : (s.modHop d f).freeCnt = s.freeCnt := rfl
@[simp] theorem State.modHop_linkEnds (s : State) (d : Nat) (f : Hop → Hop) : (s.modHop d f).linkEnds = s.linkEnds := rfl
@[simp] theorem State.modHop_rsBlocks (s : State) (d : Nat) (f : Hop → Hop) : (s.modHop d f).rsBlocks = s.rsBlocks := rfl
@[simp] theorem State.modHop_plls (s : State) (d : Nat) (f : Hop → Hop) : (s.modHop d f).plls = s.plls := rfl
@[simp] theorem State.modHop_groups (s : State) (d : Nat) (f : Hop → Hop) : (s.modHop d f).groups = s.groups := rfl
@[simp] theorem State.modHop_ports (s : State) (d : Nat) (f : Hop → Hop) : (s.modHop d f).ports = s.ports := rfl
@[simp] theorem State.modHop_tgs (s : State) (d : Nat) (f : Hop → Hop) : (s.modHop d f).tgs = s.tgs := rfl
@[simp] theorem State.modHop_drives (s : State) (d : Nat) (f : Hop → Hop) : (s.modHop d f).drives = s.drives := rfl
@[simp] theorem State.modHop_adcs (s : State) (d : Nat) (f : Hop → Hop) : (s.modHop d f).adcs = s.adcs := rfl
@[simp] theorem State.modHop_cmps (s : State) (d : Nat) (f : Hop → Hop) : (s.modHop d f).cmps = s.cmps := rfl
@[simp] theorem State.modHop_pis (s : State) (d : Nat) (f : Hop → Hop) : (s.modHop d f).pis = s.pis := rfl
@[simp] theorem State.modHop_cles (s : State) (d : Nat) (f : Hop → Hop) : (s.modHop d f).cles = s.cles := rfl
@[simp] theorem State.modHop_life (s : State) (d : Nat) (f : Hop → Hop) : (s.modHop d f).life = s.life := rfl
@[simp] theorem State.modHop_sys (s : State) (d : Nat) (f : Hop → Hop) : (s.modHop d f).sys = s.sys := rfl
@[simp] theorem State.modHop_power (s : State) (d : Nat) (f : Hop → Hop) : (s.modHop d f).power = s.power := rfl
@[simp] theorem State.modHop_keeper (s : State) (d : Nat) (f : Hop → Hop) : (s.modHop d f).keeper = s.keeper := rfl
@[simp] theorem State.modHop_grids (s : State) (d : Nat) (f : Hop → Hop) : (s.modHop d f).grids = s.grids := rfl
@[simp] theorem State.modHop_gridS (s : State) (d : Nat) (f : Hop → Hop) : (s.modHop d f).gridS = s.gridS := rfl
@[simp] theorem State.modHop_cycles (s : State) (d : Nat) (f : Hop → Hop) : (s.modHop d f).cycles = s.cycles := rfl
@[simp] theorem State.modHop_crcs (s : State) (d : Nat) (f : Hop → Hop) : (s.modHop d f).crcs = s.crcs := rfl
@[simp] theorem State.modHop_acts (s : State) (d : Nat) (f : Hop → Hop) : (s.modHop d f).acts = s.acts := rfl
@[simp] theorem State.modHop_maintSeq (s : State) (d : Nat) (f : Hop → Hop) : (s.modHop d f).maintSeq = s.maintSeq := rfl
@[simp] theorem State.modHop_meters (s : State) (d : Nat) (f : Hop → Hop) : (s.modHop d f).meters = s.meters := rfl
@[simp] theorem State.modHop_vars (s : State) (d : Nat) (f : Hop → Hop) : (s.modHop d f).vars = s.vars := rfl
@[simp] theorem State.modHop_cmds (s : State) (d : Nat) (f : Hop → Hop) : (s.modHop d f).cmds = s.cmds := rfl
@[simp] theorem State.modHop_arb (s : State) (d : Nat) (f : Hop → Hop) : (s.modHop d f).arb = s.arb := rfl
@[simp] theorem State.modHop_safety (s : State) (d : Nat) (f : Hop → Hop) : (s.modHop d f).safety = s.safety := rfl
@[simp] theorem State.modHop_net (s : State) (d : Nat) (f : Hop → Hop) : (s.modHop d f).net = s.net := rfl
@[simp] theorem State.modHop_flows (s : State) (d : Nat) (f : Hop → Hop) : (s.modHop d f).flows = s.flows := rfl
@[simp] theorem State.modHop_dict (s : State) (d : Nat) (f : Hop → Hop) : (s.modHop d f).dict = s.dict := rfl
@[simp] theorem State.modHop_persist (s : State) (d : Nat) (f : Hop → Hop) : (s.modHop d f).persist = s.persist := rfl
@[simp] theorem State.modHop_hops (s : State) (d : Nat) (f : Hop → Hop) : (s.modHop d f).hops = vmod s.hops d f := rfl

@[simp] theorem State.modCrc_pending (s : State) (u : Nat) (f : CrcUnit → CrcUnit) : (s.modCrc u f).pending = s.pending := rfl
@[simp] theorem State.modCrc_regs (s : State) (u : Nat) (f : CrcUnit → CrcUnit) : (s.modCrc u f).regs = s.regs := rfl
@[simp] theorem State.modCrc_copies (s : State) (u : Nat) (f : CrcUnit → CrcUnit) : (s.modCrc u f).copies = s.copies := rfl
@[simp] theorem State.modCrc_mem (s : State) (u : Nat) (f : CrcUnit → CrcUnit) : (s.modCrc u f).mem = s.mem := rfl
@[simp] theorem State.modCrc_out (s : State) (u : Nat) (f : CrcUnit → CrcUnit) : (s.modCrc u f).out = s.out := rfl
@[simp] theorem State.modCrc_freeCnt (s : State) (u : Nat) (f : CrcUnit → CrcUnit) : (s.modCrc u f).freeCnt = s.freeCnt := rfl
@[simp] theorem State.modCrc_linkEnds (s : State) (u : Nat) (f : CrcUnit → CrcUnit) : (s.modCrc u f).linkEnds = s.linkEnds := rfl
@[simp] theorem State.modCrc_rsBlocks (s : State) (u : Nat) (f : CrcUnit → CrcUnit) : (s.modCrc u f).rsBlocks = s.rsBlocks := rfl
@[simp] theorem State.modCrc_plls (s : State) (u : Nat) (f : CrcUnit → CrcUnit) : (s.modCrc u f).plls = s.plls := rfl
@[simp] theorem State.modCrc_hops (s : State) (u : Nat) (f : CrcUnit → CrcUnit) : (s.modCrc u f).hops = s.hops := rfl
@[simp] theorem State.modCrc_groups (s : State) (u : Nat) (f : CrcUnit → CrcUnit) : (s.modCrc u f).groups = s.groups := rfl
@[simp] theorem State.modCrc_ports (s : State) (u : Nat) (f : CrcUnit → CrcUnit) : (s.modCrc u f).ports = s.ports := rfl
@[simp] theorem State.modCrc_tgs (s : State) (u : Nat) (f : CrcUnit → CrcUnit) : (s.modCrc u f).tgs = s.tgs := rfl
@[simp] theorem State.modCrc_drives (s : State) (u : Nat) (f : CrcUnit → CrcUnit) : (s.modCrc u f).drives = s.drives := rfl
@[simp] theorem State.modCrc_adcs (s : State) (u : Nat) (f : CrcUnit → CrcUnit) : (s.modCrc u f).adcs = s.adcs := rfl
@[simp] theorem State.modCrc_cmps (s : State) (u : Nat) (f : CrcUnit → CrcUnit) : (s.modCrc u f).cmps = s.cmps := rfl
@[simp] theorem State.modCrc_pis (s : State) (u : Nat) (f : CrcUnit → CrcUnit) : (s.modCrc u f).pis = s.pis := rfl
@[simp] theorem State.modCrc_cles (s : State) (u : Nat) (f : CrcUnit → CrcUnit) : (s.modCrc u f).cles = s.cles := rfl
@[simp] theorem State.modCrc_life (s : State) (u : Nat) (f : CrcUnit → CrcUnit) : (s.modCrc u f).life = s.life := rfl
@[simp] theorem State.modCrc_sys (s : State) (u : Nat) (f : CrcUnit → CrcUnit) : (s.modCrc u f).sys = s.sys := rfl
@[simp] theorem State.modCrc_power (s : State) (u : Nat) (f : CrcUnit → CrcUnit) : (s.modCrc u f).power = s.power := rfl
@[simp] theorem State.modCrc_keeper (s : State) (u : Nat) (f : CrcUnit → CrcUnit) : (s.modCrc u f).keeper = s.keeper := rfl
@[simp] theorem State.modCrc_grids (s : State) (u : Nat) (f : CrcUnit → CrcUnit) : (s.modCrc u f).grids = s.grids := rfl
@[simp] theorem State.modCrc_gridS (s : State) (u : Nat) (f : CrcUnit → CrcUnit) : (s.modCrc u f).gridS = s.gridS := rfl
@[simp] theorem State.modCrc_cycles (s : State) (u : Nat) (f : CrcUnit → CrcUnit) : (s.modCrc u f).cycles = s.cycles := rfl
@[simp] theorem State.modCrc_acts (s : State) (u : Nat) (f : CrcUnit → CrcUnit) : (s.modCrc u f).acts = s.acts := rfl
@[simp] theorem State.modCrc_maintSeq (s : State) (u : Nat) (f : CrcUnit → CrcUnit) : (s.modCrc u f).maintSeq = s.maintSeq := rfl
@[simp] theorem State.modCrc_meters (s : State) (u : Nat) (f : CrcUnit → CrcUnit) : (s.modCrc u f).meters = s.meters := rfl
@[simp] theorem State.modCrc_vars (s : State) (u : Nat) (f : CrcUnit → CrcUnit) : (s.modCrc u f).vars = s.vars := rfl
@[simp] theorem State.modCrc_cmds (s : State) (u : Nat) (f : CrcUnit → CrcUnit) : (s.modCrc u f).cmds = s.cmds := rfl
@[simp] theorem State.modCrc_arb (s : State) (u : Nat) (f : CrcUnit → CrcUnit) : (s.modCrc u f).arb = s.arb := rfl
@[simp] theorem State.modCrc_safety (s : State) (u : Nat) (f : CrcUnit → CrcUnit) : (s.modCrc u f).safety = s.safety := rfl
@[simp] theorem State.modCrc_net (s : State) (u : Nat) (f : CrcUnit → CrcUnit) : (s.modCrc u f).net = s.net := rfl
@[simp] theorem State.modCrc_flows (s : State) (u : Nat) (f : CrcUnit → CrcUnit) : (s.modCrc u f).flows = s.flows := rfl
@[simp] theorem State.modCrc_dict (s : State) (u : Nat) (f : CrcUnit → CrcUnit) : (s.modCrc u f).dict = s.dict := rfl
@[simp] theorem State.modCrc_persist (s : State) (u : Nat) (f : CrcUnit → CrcUnit) : (s.modCrc u f).persist = s.persist := rfl
@[simp] theorem State.modCrc_crcs (s : State) (u : Nat) (f : CrcUnit → CrcUnit) : (s.modCrc u f).crcs = vmod s.crcs u f := rfl

@[simp] theorem State.modAct_pending (s : State) (k : Nat) (f : Activity → Activity) : (s.modAct k f).pending = s.pending := rfl
@[simp] theorem State.modAct_regs (s : State) (k : Nat) (f : Activity → Activity) : (s.modAct k f).regs = s.regs := rfl
@[simp] theorem State.modAct_copies (s : State) (k : Nat) (f : Activity → Activity) : (s.modAct k f).copies = s.copies := rfl
@[simp] theorem State.modAct_mem (s : State) (k : Nat) (f : Activity → Activity) : (s.modAct k f).mem = s.mem := rfl
@[simp] theorem State.modAct_out (s : State) (k : Nat) (f : Activity → Activity) : (s.modAct k f).out = s.out := rfl
@[simp] theorem State.modAct_freeCnt (s : State) (k : Nat) (f : Activity → Activity) : (s.modAct k f).freeCnt = s.freeCnt := rfl
@[simp] theorem State.modAct_linkEnds (s : State) (k : Nat) (f : Activity → Activity) : (s.modAct k f).linkEnds = s.linkEnds := rfl
@[simp] theorem State.modAct_rsBlocks (s : State) (k : Nat) (f : Activity → Activity) : (s.modAct k f).rsBlocks = s.rsBlocks := rfl
@[simp] theorem State.modAct_plls (s : State) (k : Nat) (f : Activity → Activity) : (s.modAct k f).plls = s.plls := rfl
@[simp] theorem State.modAct_hops (s : State) (k : Nat) (f : Activity → Activity) : (s.modAct k f).hops = s.hops := rfl
@[simp] theorem State.modAct_groups (s : State) (k : Nat) (f : Activity → Activity) : (s.modAct k f).groups = s.groups := rfl
@[simp] theorem State.modAct_ports (s : State) (k : Nat) (f : Activity → Activity) : (s.modAct k f).ports = s.ports := rfl
@[simp] theorem State.modAct_tgs (s : State) (k : Nat) (f : Activity → Activity) : (s.modAct k f).tgs = s.tgs := rfl
@[simp] theorem State.modAct_drives (s : State) (k : Nat) (f : Activity → Activity) : (s.modAct k f).drives = s.drives := rfl
@[simp] theorem State.modAct_adcs (s : State) (k : Nat) (f : Activity → Activity) : (s.modAct k f).adcs = s.adcs := rfl
@[simp] theorem State.modAct_cmps (s : State) (k : Nat) (f : Activity → Activity) : (s.modAct k f).cmps = s.cmps := rfl
@[simp] theorem State.modAct_pis (s : State) (k : Nat) (f : Activity → Activity) : (s.modAct k f).pis = s.pis := rfl
@[simp] theorem State.modAct_cles (s : State) (k : Nat) (f : Activity → Activity) : (s.modAct k f).cles = s.cles := rfl
@[simp] theorem State.modAct_life (s : State) (k : Nat) (f : Activity → Activity) : (s.modAct k f).life = s.life := rfl
@[simp] theorem State.modAct_sys (s : State) (k : Nat) (f : Activity → Activity) : (s.modAct k f).sys = s.sys := rfl
@[simp] theorem State.modAct_power (s : State) (k : Nat) (f : Activity → Activity) : (s.modAct k f).power = s.power := rfl
@[simp] theorem State.modAct_keeper (s : State) (k : Nat) (f : Activity → Activity) : (s.modAct k f).keeper = s.keeper := rfl
@[simp] theorem State.modAct_grids (s : State) (k : Nat) (f : Activity → Activity) : (s.modAct k f).grids = s.grids := rfl
@[simp] theorem State.modAct_gridS (s : State) (k : Nat) (f : Activity → Activity) : (s.modAct k f).gridS = s.gridS := rfl
@[simp] theorem State.modAct_cycles (s : State) (k : Nat) (f : Activity → Activity) : (s.modAct k f).cycles = s.cycles := rfl
@[simp] theorem State.modAct_crcs (s : State) (k : Nat) (f : Activity → Activity) : (s.modAct k f).crcs = s.crcs := rfl
@[simp] theorem State.modAct_maintSeq (s : State) (k : Nat) (f : Activity → Activity) : (s.modAct k f).maintSeq = s.maintSeq := rfl
@[simp] theorem State.modAct_meters (s : State) (k : Nat) (f : Activity → Activity) : (s.modAct k f).meters = s.meters := rfl
@[simp] theorem State.modAct_vars (s : State) (k : Nat) (f : Activity → Activity) : (s.modAct k f).vars = s.vars := rfl
@[simp] theorem State.modAct_cmds (s : State) (k : Nat) (f : Activity → Activity) : (s.modAct k f).cmds = s.cmds := rfl
@[simp] theorem State.modAct_arb (s : State) (k : Nat) (f : Activity → Activity) : (s.modAct k f).arb = s.arb := rfl
@[simp] theorem State.modAct_safety (s : State) (k : Nat) (f : Activity → Activity) : (s.modAct k f).safety = s.safety := rfl
@[simp] theorem State.modAct_net (s : State) (k : Nat) (f : Activity → Activity) : (s.modAct k f).net = s.net := rfl
@[simp] theorem State.modAct_flows (s : State) (k : Nat) (f : Activity → Activity) : (s.modAct k f).flows = s.flows := rfl
@[simp] theorem State.modAct_dict (s : State) (k : Nat) (f : Activity → Activity) : (s.modAct k f).dict = s.dict := rfl
@[simp] theorem State.modAct_persist (s : State) (k : Nat) (f : Activity → Activity) : (s.modAct k f).persist = s.persist := rfl
@[simp] theorem State.modAct_acts (s : State) (k : Nat) (f : Activity → Activity) : (s.modAct k f).acts = vmod s.acts k f := rfl

@[simp] theorem State.modPi_pending (s : State) (d p : Nat) (f : PosIf → PosIf) : (s.modPi d p f).pending = s.pending := rfl
@[simp] theorem State.modPi_regs (s : State) (d p : Nat) (f : PosIf → PosIf) : (s.modPi d p f).regs = s.regs := rfl
@[simp] theorem State.modPi_copies (s : State) (d p : Nat) (f : PosIf → PosIf) : (s.modPi d p f).copies = s.copies := rfl
@[simp] theorem State.modPi_mem (s : State) (d p : Nat) (f : PosIf → PosIf) : (s.modPi d p f).mem = s.mem := rfl
@[simp] theorem State.modPi_out (s : State) (d p : Nat) (f : PosIf → PosIf) : (s.modPi d p f).out = s.out := rfl
@[simp] theorem State.modPi_freeCnt (s : State) (d p : Nat) (f : PosIf → PosIf) : (s.modPi d p f).freeCnt = s.freeCnt := rfl
@[simp] theorem State.modPi_linkEnds (s : State) (d p : Nat) (f : PosIf → PosIf) : (s.modPi d p f).linkEnds = s.linkEnds := rfl
@[simp] theorem State.modPi_rsBlocks (s : State) (d p : Nat) (f : PosIf → PosIf) : (s.modPi d p f).rsBlocks = s.rsBlocks := rfl
@[simp] theorem State.modPi_plls (s : State) (d p : Nat) (f : PosIf → PosIf) : (s.modPi d p f).plls = s.plls := rfl
@[simp] theorem State.modPi_hops (s : State) (d p : Nat) (f : PosIf → PosIf) : (s.modPi d p f).hops = s.hops := rfl
@[simp] theorem State.modPi_groups (s : State) (d p : Nat) (f : PosIf → PosIf) : (s.modPi d p f).groups = s.groups := rfl
@[simp] theorem State.modPi_ports (s : State) (d p : Nat) (f : PosIf → PosIf) : (s.modPi d p f).ports = s.ports := rfl
@[simp] theorem State.modPi_tgs (s : State) (d p : Nat) (f : PosIf → PosIf) : (s.modPi d p f).tgs = s.tgs := rfl
@[simp] theorem State.modPi_drives (s : State) (d p : Nat) (f : PosIf → PosIf) : (s.modPi d p f).drives = s.drives := rfl
@[simp] theorem State.modPi_adcs (s : State) (d p : Nat) (f : PosIf → PosIf) : (s.modPi d p f).adcs = s.adcs := rfl
@[simp] theorem State.modPi_cmps (s : State) (d p : Nat) (f : PosIf → PosIf) : (s.modPi d p f).cmps = s.cmps := rfl
@[simp] theorem State.modPi_cles (s : State) (d p : Nat) (f : PosIf → PosIf) : (s.modPi d p f).cles = s.cles := rfl
@[simp] theorem State.modPi_life (s : State) (d p : Nat) (f : PosIf → PosIf) : (s.modPi d p f).life = s.life := rfl
@[simp] theorem State.modPi_sys (s : State) (d p : Nat) (f : PosIf → PosIf) : (s.modPi d p f).sys = s.sys := rfl
@[simp] theorem State.modPi_power (s : State) (d p : Nat) (f : PosIf → PosIf) : (s.modPi d p f).power = s.power := rfl
@[simp] theorem State.modPi_keeper (s : State) (d p : Nat) (f : PosIf → PosIf) : (s.modPi d p f).keeper = s.keeper := rfl
@[simp] theorem State.modPi_grids (s : State) (d p : Nat) (f : PosIf → PosIf) : (s.modPi d p f).grids = s.grids := rfl
@[simp] theorem State.modPi_gridS (s : State) (d p : Nat) (f : PosIf → PosIf) : (s.modPi d p f).gridS = s.gridS := rfl
@[simp] theorem State.modPi_cycles (s : State) (d p : Nat) (f : PosIf → PosIf) : (s.modPi d p f).cycles = s.cycles := rfl
@[simp] theorem State.modPi_crcs (s : State) (d p : Nat) (f : PosIf → PosIf) : (s.modPi d p f).crcs = s.crcs := rfl
@[simp] theorem State.modPi_acts (s : State) (d p : Nat) (f : PosIf → PosIf) : (s.modPi d p f).acts = s.acts := rfl
@[simp] theorem State.modPi_maintSeq (s : State) (d p : Nat) (f : PosIf → PosIf) : (s.modPi d p f).maintSeq = s.maintSeq := rfl
@[simp] theorem State.modPi_meters (s : State) (d p : Nat) (f : PosIf → PosIf) : (s.modPi d p f).meters = s.meters := rfl
@[simp] theorem State.modPi_vars (s : State) (d p : Nat) (f : PosIf → PosIf) : (s.modPi d p f).vars = s.vars := rfl
@[simp] theorem State.modPi_cmds (s : State) (d p : Nat) (f : PosIf → PosIf) : (s.modPi d p f).cmds = s.cmds := rfl
@[simp] theorem State.modPi_arb (s : State) (d p : Nat) (f : PosIf → PosIf) : (s.modPi d p f).arb = s.arb := rfl
@[simp] theorem State.modPi_safety (s : State) (d p : Nat) (f : PosIf → PosIf) : (s.modPi d p f).safety = s.safety := rfl
@[simp] theorem State.modPi_net (s : State) (d p : Nat) (f : PosIf → PosIf) : (s.modPi d p f).net = s.net := rfl
@[simp] theorem State.modPi_flows (s : State) (d p : Nat) (f : PosIf → PosIf) : (s.modPi d p f).flows = s.flows := rfl
@[simp] theorem State.modPi_dict (s : State) (d p : Nat) (f : PosIf → PosIf) : (s.modPi d p f).dict = s.dict := rfl
@[simp] theorem State.modPi_persist (s : State) (d p : Nat) (f : PosIf → PosIf) : (s.modPi d p f).persist = s.persist := rfl
@[simp] theorem State.modPi_pis (s : State) (d p : Nat) (f : PosIf → PosIf) : (s.modPi d p f).pis = vmod s.pis (2 * d + p) f := rfl

@[simp] theorem State.modCyc_pending (s : State) (d j : Nat) (f : CycleCounter → CycleCounter) : (s.modCyc d j f).pending = s.pending := rfl
@[simp] theorem State.modCyc_regs (s : State) (d j : Nat) (f : CycleCounter → CycleCounter) : (s.modCyc d j f).regs = s.regs := rfl
@[simp] theorem State.modCyc_copies (s : State) (d j : Nat) (f : CycleCounter → CycleCounter) : (s.modCyc d j f).copies = s.copies := rfl
@[simp] theorem State.modCyc_mem (s : State) (d j : Nat) (f : CycleCounter → CycleCounter) : (s.modCyc d j f).mem = s.mem := rfl
@[simp] theorem State.modCyc_out (s : State) (d j : Nat) (f : CycleCounter → CycleCounter) : (s.modCyc d j f).out = s.out := rfl
@[simp] theorem State.modCyc_freeCnt (s : State) (d j : Nat) (f : CycleCounter → CycleCounter) : (s.modCyc d j f).freeCnt = s.freeCnt := rfl
@[simp] theorem State.modCyc_linkEnds (s : State) (d j : Nat) (f : CycleCounter → CycleCounter) : (s.modCyc d j f).linkEnds = s.linkEnds := rfl
@[simp] theorem State.modCyc_rsBlocks (s : State) (d j : Nat) (f : CycleCounter → CycleCounter) : (s.modCyc d j f).rsBlocks = s.rsBlocks := rfl
@[simp] theorem State.modCyc_plls (s : State) (d j : Nat) (f : CycleCounter → CycleCounter) : (s.modCyc d j f).plls = s.plls := rfl
@[simp] theorem State.modCyc_hops (s : State) (d j : Nat) (f : CycleCounter → CycleCounter) : (s.modCyc d j f).hops = s.hops := rfl
@[simp] theorem State.modCyc_groups (s : State) (d j : Nat) (f : CycleCounter → CycleCounter) : (s.modCyc d j f).groups = s.groups := rfl
@[simp] theorem State.modCyc_ports (s : State) (d j : Nat) (f : CycleCounter → CycleCounter) : (s.modCyc d j f).ports = s.ports := rfl
@[simp] theorem State.modCyc_tgs (s : State) (d j : Nat) (f : CycleCounter → CycleCounter) : (s.modCyc d j f).tgs = s.tgs := rfl
@[simp] theorem State.modCyc_drives (s : State) (d j : Nat) (f : CycleCounter → CycleCounter) : (s.modCyc d j f).drives = s.drives := rfl
@[simp] theorem State.modCyc_adcs (s : State) (d j : Nat) (f : CycleCounter → CycleCounter) : (s.modCyc d j f).adcs = s.adcs := rfl
@[simp] theorem State.modCyc_cmps (s : State) (d j : Nat) (f : CycleCounter → CycleCounter) : (s.modCyc d j f).cmps = s.cmps := rfl
@[simp] theorem State.modCyc_pis (s : State) (d j : Nat) (f : CycleCounter → CycleCounter) : (s.modCyc d j f).pis = s.pis := rfl
@[simp] theorem State.modCyc_cles (s : State) (d j : Nat) (f : CycleCounter → CycleCounter) : (s.modCyc d j f).cles = s.cles := rfl
@[simp] theorem State.modCyc_life (s : State) (d j : Nat) (f : CycleCounter → CycleCounter) : (s.modCyc d j f).life = s.life := rfl
@[simp] theorem State.modCyc_sys (s : State) (d j : Nat) (f : CycleCounter → CycleCounter) : (s.modCyc d j f).sys = s.sys := rfl
@[simp] theorem State.modCyc_power (s : State) (d j : Nat) (f : CycleCounter → CycleCounter) : (s.modCyc d j f).power = s.power := rfl
@[simp] theorem State.modCyc_keeper (s : State) (d j : Nat) (f : CycleCounter → CycleCounter) : (s.modCyc d j f).keeper = s.keeper := rfl
@[simp] theorem State.modCyc_grids (s : State) (d j : Nat) (f : CycleCounter → CycleCounter) : (s.modCyc d j f).grids = s.grids := rfl
@[simp] theorem State.modCyc_gridS (s : State) (d j : Nat) (f : CycleCounter → CycleCounter) : (s.modCyc d j f).gridS = s.gridS := rfl
@[simp] theorem State.modCyc_crcs (s : State) (d j : Nat) (f : CycleCounter → CycleCounter) : (s.modCyc d j f).crcs = s.crcs := rfl
@[simp] theorem State.modCyc_acts (s : State) (d j : Nat) (f : CycleCounter → CycleCounter) : (s.modCyc d j f).acts = s.acts := rfl
@[simp] theorem State.modCyc_maintSeq (s : State) (d j : Nat) (f : CycleCounter → CycleCounter) : (s.modCyc d j f).maintSeq = s.maintSeq := rfl
@[simp] theorem State.modCyc_meters (s : State) (d j : Nat) (f : CycleCounter → CycleCounter) : (s.modCyc d j f).meters = s.meters := rfl
@[simp] theorem State.modCyc_vars (s : State) (d j : Nat) (f : CycleCounter → CycleCounter) : (s.modCyc d j f).vars = s.vars := rfl
@[simp] theorem State.modCyc_cmds (s : State) (d j : Nat) (f : CycleCounter → CycleCounter) : (s.modCyc d j f).cmds = s.cmds := rfl
@[simp] theorem State.modCyc_arb (s : State) (d j : Nat) (f : CycleCounter → CycleCounter) : (s.modCyc d j f).arb = s.arb := rfl
@[simp] theorem State.modCyc_safety (s : State) (d j : Nat) (f : CycleCounter → CycleCounter) : (s.modCyc d j f).safety = s.safety := rfl
@[simp] theorem State.modCyc_net (s : State) (d j : Nat) (f : CycleCounter → CycleCounter) : (s.modCyc d j f).net = s.net := rfl
@[simp] theorem State.modCyc_flows (s : State) (d j : Nat) (f : CycleCounter → CycleCounter) : (s.modCyc d j f).flows = s.flows := rfl
@[simp] theorem State.modCyc_dict (s : State) (d j : Nat) (f : CycleCounter → CycleCounter) : (s.modCyc d j f).dict = s.dict := rfl
@[simp] theorem State.modCyc_persist (s : State) (d j : Nat) (f : CycleCounter → CycleCounter) : (s.modCyc d j f).persist = s.persist := rfl
@[simp] theorem State.modCyc_cycles (s : State) (d j : Nat) (f : CycleCounter → CycleCounter) : (s.modCyc d j f).cycles = vmod s.cycles (7 * d + j) f := rfl

@[simp] theorem State.modCle_pending (s : State) (d c : Nat) (f : CleCore → CleCore) : (s.modCle d c f).pending = s.pending := rfl
@[simp] theorem State.modCle_regs (s : State) (d c : Nat) (f : CleCore → CleCore) : (s.modCle d c f).regs = s.regs := rfl
@[simp] theorem State.modCle_copies (s : State) (d c : Nat) (f : CleCore → CleCore) : (s.modCle d c f).copies = s.copies := rfl
@[simp] theorem State.modCle_mem (s : State) (d c : Nat) (f : CleCore → CleCore) : (s.modCle d c f).mem = s.mem := rfl
@[simp] theorem State.modCle_out (s : State) (d c : Nat) (f : CleCore → CleCore) : (s.modCle d c f).out = s.out := rfl
@[simp] theorem State.modCle_freeCnt (s : State) (d c : Nat) (f : CleCore → CleCore) : (s.modCle d c f).freeCnt = s.freeCnt := rfl
@[simp] theorem State.modCle_linkEnds (s : State) (d c : Nat) (f : CleCore → CleCore) : (s.modCle d c f).linkEnds = s.linkEnds := rfl
@[simp] theorem State.modCle_rsBlocks (s : State) (d c : Nat) (f : CleCore → CleCore) : (s.modCle d c f).rsBlocks = s.rsBlocks := rfl
@[simp] theorem State.modCle_plls (s : State) (d c : Nat) (f : CleCore → CleCore) : (s.modCle d c f).plls = s.plls := rfl
@[simp] theorem State.modCle_hops (s : State) (d c : Nat) (f : CleCore → CleCore) : (s.modCle d c f).hops = s.hops := rfl
@[simp] theorem State.modCle_groups (s : State) (d c : Nat) (f : CleCore → CleCore) : (s.modCle d c f).groups = s.groups := rfl
@[simp] theorem State.modCle_ports (s : State) (d c : Nat) (f : CleCore → CleCore) : (s.modCle d c f).ports = s.ports := rfl
@[simp] theorem State.modCle_tgs (s : State) (d c : Nat) (f : CleCore → CleCore) : (s.modCle d c f).tgs = s.tgs := rfl
@[simp] theorem State.modCle_drives (s : State) (d c : Nat) (f : CleCore → CleCore) : (s.modCle d c f).drives = s.drives := rfl
@[simp] theorem State.modCle_adcs (s : State) (d c : Nat) (f : CleCore → CleCore) : (s.modCle d c f).adcs = s.adcs := rfl
@[simp] theorem State.modCle_cmps (s : State) (d c : Nat) (f : CleCore → CleCore) : (s.modCle d c f).cmps = s.cmps := rfl
@[simp] theorem State.modCle_pis (s : State) (d c : Nat) (f : CleCore → CleCore) : (s.modCle d c f).pis = s.pis := rfl
@[simp] theorem State.modCle_life (s : State) (d c : Nat) (f : CleCore → CleCore) : (s.modCle d c f).life = s.life := rfl
@[simp] theorem State.modCle_sys (s : State) (d c : Nat) (f : CleCore → CleCore) : (s.modCle d c f).sys = s.sys := rfl
@[simp] theorem State.modCle_power (s : State) (d c : Nat) (f : CleCore → CleCore) : (s.modCle d c f).power = s.power := rfl
@[simp] theorem State.modCle_keeper (s : State) (d c : Nat) (f : CleCore → CleCore) : (s.modCle d c f).keeper = s.keeper := rfl
@[simp] theorem State.modCle_grids (s : State) (d c : Nat) (f : CleCore → CleCore) : (s.modCle d c f).grids = s.grids := rfl
@[simp] theorem State.modCle_gridS (s : State) (d c : Nat) (f : CleCore → CleCore) : (s.modCle d c f).gridS = s.gridS := rfl
@[simp] theorem State.modCle_cycles (s : State) (d c : Nat) (f : CleCore → CleCore) : (s.modCle d c f).cycles = s.cycles := rfl
@[simp] theorem State.modCle_crcs (s : State) (d c : Nat) (f : CleCore → CleCore) : (s.modCle d c f).crcs = s.crcs := rfl
@[simp] theorem State.modCle_acts (s : State) (d c : Nat) (f : CleCore → CleCore) : (s.modCle d c f).acts = s.acts := rfl
@[simp] theorem State.modCle_maintSeq (s : State) (d c : Nat) (f : CleCore → CleCore) : (s.modCle d c f).maintSeq = s.maintSeq := rfl
@[simp] theorem State.modCle_meters (s : State) (d c : Nat) (f : CleCore → CleCore) : (s.modCle d c f).meters = s.meters := rfl
@[simp] theorem State.modCle_vars (s : State) (d c : Nat) (f : CleCore → CleCore) : (s.modCle d c f).vars = s.vars := rfl
@[simp] theorem State.modCle_cmds (s : State) (d c : Nat) (f : CleCore → CleCore) : (s.modCle d c f).cmds = s.cmds := rfl
@[simp] theorem State.modCle_arb (s : State) (d c : Nat) (f : CleCore → CleCore) : (s.modCle d c f).arb = s.arb := rfl
@[simp] theorem State.modCle_safety (s : State) (d c : Nat) (f : CleCore → CleCore) : (s.modCle d c f).safety = s.safety := rfl
@[simp] theorem State.modCle_net (s : State) (d c : Nat) (f : CleCore → CleCore) : (s.modCle d c f).net = s.net := rfl
@[simp] theorem State.modCle_flows (s : State) (d c : Nat) (f : CleCore → CleCore) : (s.modCle d c f).flows = s.flows := rfl
@[simp] theorem State.modCle_dict (s : State) (d c : Nat) (f : CleCore → CleCore) : (s.modCle d c f).dict = s.dict := rfl
@[simp] theorem State.modCle_persist (s : State) (d c : Nat) (f : CleCore → CleCore) : (s.modCle d c f).persist = s.persist := rfl
@[simp] theorem State.modCle_cles (s : State) (d c : Nat) (f : CleCore → CleCore) : (s.modCle d c f).cles = vmod s.cles (2 * d + c) f := rfl

@[simp] theorem State.modMeter_pending (s : State) (m : Nat) (f : MeterPoint → MeterPoint) : (s.modMeter m f).pending = s.pending := rfl
@[simp] theorem State.modMeter_regs (s : State) (m : Nat) (f : MeterPoint → MeterPoint) : (s.modMeter m f).regs = s.regs := rfl
@[simp] theorem State.modMeter_copies (s : State) (m : Nat) (f : MeterPoint → MeterPoint) : (s.modMeter m f).copies = s.copies := rfl
@[simp] theorem State.modMeter_mem (s : State) (m : Nat) (f : MeterPoint → MeterPoint) : (s.modMeter m f).mem = s.mem := rfl
@[simp] theorem State.modMeter_out (s : State) (m : Nat) (f : MeterPoint → MeterPoint) : (s.modMeter m f).out = s.out := rfl
@[simp] theorem State.modMeter_freeCnt (s : State) (m : Nat) (f : MeterPoint → MeterPoint) : (s.modMeter m f).freeCnt = s.freeCnt := rfl
@[simp] theorem State.modMeter_linkEnds (s : State) (m : Nat) (f : MeterPoint → MeterPoint) : (s.modMeter m f).linkEnds = s.linkEnds := rfl
@[simp] theorem State.modMeter_rsBlocks (s : State) (m : Nat) (f : MeterPoint → MeterPoint) : (s.modMeter m f).rsBlocks = s.rsBlocks := rfl
@[simp] theorem State.modMeter_plls (s : State) (m : Nat) (f : MeterPoint → MeterPoint) : (s.modMeter m f).plls = s.plls := rfl
@[simp] theorem State.modMeter_hops (s : State) (m : Nat) (f : MeterPoint → MeterPoint) : (s.modMeter m f).hops = s.hops := rfl
@[simp] theorem State.modMeter_groups (s : State) (m : Nat) (f : MeterPoint → MeterPoint) : (s.modMeter m f).groups = s.groups := rfl
@[simp] theorem State.modMeter_ports (s : State) (m : Nat) (f : MeterPoint → MeterPoint) : (s.modMeter m f).ports = s.ports := rfl
@[simp] theorem State.modMeter_tgs (s : State) (m : Nat) (f : MeterPoint → MeterPoint) : (s.modMeter m f).tgs = s.tgs := rfl
@[simp] theorem State.modMeter_drives (s : State) (m : Nat) (f : MeterPoint → MeterPoint) : (s.modMeter m f).drives = s.drives := rfl
@[simp] theorem State.modMeter_adcs (s : State) (m : Nat) (f : MeterPoint → MeterPoint) : (s.modMeter m f).adcs = s.adcs := rfl
@[simp] theorem State.modMeter_cmps (s : State) (m : Nat) (f : MeterPoint → MeterPoint) : (s.modMeter m f).cmps = s.cmps := rfl
@[simp] theorem State.modMeter_pis (s : State) (m : Nat) (f : MeterPoint → MeterPoint) : (s.modMeter m f).pis = s.pis := rfl
@[simp] theorem State.modMeter_cles (s : State) (m : Nat) (f : MeterPoint → MeterPoint) : (s.modMeter m f).cles = s.cles := rfl
@[simp] theorem State.modMeter_life (s : State) (m : Nat) (f : MeterPoint → MeterPoint) : (s.modMeter m f).life = s.life := rfl
@[simp] theorem State.modMeter_sys (s : State) (m : Nat) (f : MeterPoint → MeterPoint) : (s.modMeter m f).sys = s.sys := rfl
@[simp] theorem State.modMeter_power (s : State) (m : Nat) (f : MeterPoint → MeterPoint) : (s.modMeter m f).power = s.power := rfl
@[simp] theorem State.modMeter_keeper (s : State) (m : Nat) (f : MeterPoint → MeterPoint) : (s.modMeter m f).keeper = s.keeper := rfl
@[simp] theorem State.modMeter_grids (s : State) (m : Nat) (f : MeterPoint → MeterPoint) : (s.modMeter m f).grids = s.grids := rfl
@[simp] theorem State.modMeter_gridS (s : State) (m : Nat) (f : MeterPoint → MeterPoint) : (s.modMeter m f).gridS = s.gridS := rfl
@[simp] theorem State.modMeter_cycles (s : State) (m : Nat) (f : MeterPoint → MeterPoint) : (s.modMeter m f).cycles = s.cycles := rfl
@[simp] theorem State.modMeter_crcs (s : State) (m : Nat) (f : MeterPoint → MeterPoint) : (s.modMeter m f).crcs = s.crcs := rfl
@[simp] theorem State.modMeter_acts (s : State) (m : Nat) (f : MeterPoint → MeterPoint) : (s.modMeter m f).acts = s.acts := rfl
@[simp] theorem State.modMeter_maintSeq (s : State) (m : Nat) (f : MeterPoint → MeterPoint) : (s.modMeter m f).maintSeq = s.maintSeq := rfl
@[simp] theorem State.modMeter_vars (s : State) (m : Nat) (f : MeterPoint → MeterPoint) : (s.modMeter m f).vars = s.vars := rfl
@[simp] theorem State.modMeter_cmds (s : State) (m : Nat) (f : MeterPoint → MeterPoint) : (s.modMeter m f).cmds = s.cmds := rfl
@[simp] theorem State.modMeter_arb (s : State) (m : Nat) (f : MeterPoint → MeterPoint) : (s.modMeter m f).arb = s.arb := rfl
@[simp] theorem State.modMeter_safety (s : State) (m : Nat) (f : MeterPoint → MeterPoint) : (s.modMeter m f).safety = s.safety := rfl
@[simp] theorem State.modMeter_net (s : State) (m : Nat) (f : MeterPoint → MeterPoint) : (s.modMeter m f).net = s.net := rfl
@[simp] theorem State.modMeter_flows (s : State) (m : Nat) (f : MeterPoint → MeterPoint) : (s.modMeter m f).flows = s.flows := rfl
@[simp] theorem State.modMeter_dict (s : State) (m : Nat) (f : MeterPoint → MeterPoint) : (s.modMeter m f).dict = s.dict := rfl
@[simp] theorem State.modMeter_persist (s : State) (m : Nat) (f : MeterPoint → MeterPoint) : (s.modMeter m f).persist = s.persist := rfl
@[simp] theorem State.modMeter_meters (s : State) (m : Nat) (f : MeterPoint → MeterPoint) : (s.modMeter m f).meters = vmod s.meters m f := rfl

@[simp] theorem State.modMeterAcc_pending (s : State) (m : Nat) (f : MeterAcc → MeterAcc) : (s.modMeterAcc m f).pending = s.pending := rfl
@[simp] theorem State.modMeterAcc_regs (s : State) (m : Nat) (f : MeterAcc → MeterAcc) : (s.modMeterAcc m f).regs = s.regs := rfl
@[simp] theorem State.modMeterAcc_copies (s : State) (m : Nat) (f : MeterAcc → MeterAcc) : (s.modMeterAcc m f).copies = s.copies := rfl
@[simp] theorem State.modMeterAcc_mem (s : State) (m : Nat) (f : MeterAcc → MeterAcc) : (s.modMeterAcc m f).mem = s.mem := rfl
@[simp] theorem State.modMeterAcc_out (s : State) (m : Nat) (f : MeterAcc → MeterAcc) : (s.modMeterAcc m f).out = s.out := rfl
@[simp] theorem State.modMeterAcc_freeCnt (s : State) (m : Nat) (f : MeterAcc → MeterAcc) : (s.modMeterAcc m f).freeCnt = s.freeCnt := rfl
@[simp] theorem State.modMeterAcc_linkEnds (s : State) (m : Nat) (f : MeterAcc → MeterAcc) : (s.modMeterAcc m f).linkEnds = s.linkEnds := rfl
@[simp] theorem State.modMeterAcc_rsBlocks (s : State) (m : Nat) (f : MeterAcc → MeterAcc) : (s.modMeterAcc m f).rsBlocks = s.rsBlocks := rfl
@[simp] theorem State.modMeterAcc_plls (s : State) (m : Nat) (f : MeterAcc → MeterAcc) : (s.modMeterAcc m f).plls = s.plls := rfl
@[simp] theorem State.modMeterAcc_hops (s : State) (m : Nat) (f : MeterAcc → MeterAcc) : (s.modMeterAcc m f).hops = s.hops := rfl
@[simp] theorem State.modMeterAcc_groups (s : State) (m : Nat) (f : MeterAcc → MeterAcc) : (s.modMeterAcc m f).groups = s.groups := rfl
@[simp] theorem State.modMeterAcc_ports (s : State) (m : Nat) (f : MeterAcc → MeterAcc) : (s.modMeterAcc m f).ports = s.ports := rfl
@[simp] theorem State.modMeterAcc_tgs (s : State) (m : Nat) (f : MeterAcc → MeterAcc) : (s.modMeterAcc m f).tgs = s.tgs := rfl
@[simp] theorem State.modMeterAcc_drives (s : State) (m : Nat) (f : MeterAcc → MeterAcc) : (s.modMeterAcc m f).drives = s.drives := rfl
@[simp] theorem State.modMeterAcc_adcs (s : State) (m : Nat) (f : MeterAcc → MeterAcc) : (s.modMeterAcc m f).adcs = s.adcs := rfl
@[simp] theorem State.modMeterAcc_cmps (s : State) (m : Nat) (f : MeterAcc → MeterAcc) : (s.modMeterAcc m f).cmps = s.cmps := rfl
@[simp] theorem State.modMeterAcc_pis (s : State) (m : Nat) (f : MeterAcc → MeterAcc) : (s.modMeterAcc m f).pis = s.pis := rfl
@[simp] theorem State.modMeterAcc_cles (s : State) (m : Nat) (f : MeterAcc → MeterAcc) : (s.modMeterAcc m f).cles = s.cles := rfl
@[simp] theorem State.modMeterAcc_life (s : State) (m : Nat) (f : MeterAcc → MeterAcc) : (s.modMeterAcc m f).life = s.life := rfl
@[simp] theorem State.modMeterAcc_sys (s : State) (m : Nat) (f : MeterAcc → MeterAcc) : (s.modMeterAcc m f).sys = s.sys := rfl
@[simp] theorem State.modMeterAcc_power (s : State) (m : Nat) (f : MeterAcc → MeterAcc) : (s.modMeterAcc m f).power = s.power := rfl
@[simp] theorem State.modMeterAcc_keeper (s : State) (m : Nat) (f : MeterAcc → MeterAcc) : (s.modMeterAcc m f).keeper = s.keeper := rfl
@[simp] theorem State.modMeterAcc_grids (s : State) (m : Nat) (f : MeterAcc → MeterAcc) : (s.modMeterAcc m f).grids = s.grids := rfl
@[simp] theorem State.modMeterAcc_gridS (s : State) (m : Nat) (f : MeterAcc → MeterAcc) : (s.modMeterAcc m f).gridS = s.gridS := rfl
@[simp] theorem State.modMeterAcc_cycles (s : State) (m : Nat) (f : MeterAcc → MeterAcc) : (s.modMeterAcc m f).cycles = s.cycles := rfl
@[simp] theorem State.modMeterAcc_crcs (s : State) (m : Nat) (f : MeterAcc → MeterAcc) : (s.modMeterAcc m f).crcs = s.crcs := rfl
@[simp] theorem State.modMeterAcc_acts (s : State) (m : Nat) (f : MeterAcc → MeterAcc) : (s.modMeterAcc m f).acts = s.acts := rfl
@[simp] theorem State.modMeterAcc_maintSeq (s : State) (m : Nat) (f : MeterAcc → MeterAcc) : (s.modMeterAcc m f).maintSeq = s.maintSeq := rfl
@[simp] theorem State.modMeterAcc_vars (s : State) (m : Nat) (f : MeterAcc → MeterAcc) : (s.modMeterAcc m f).vars = s.vars := rfl
@[simp] theorem State.modMeterAcc_cmds (s : State) (m : Nat) (f : MeterAcc → MeterAcc) : (s.modMeterAcc m f).cmds = s.cmds := rfl
@[simp] theorem State.modMeterAcc_arb (s : State) (m : Nat) (f : MeterAcc → MeterAcc) : (s.modMeterAcc m f).arb = s.arb := rfl
@[simp] theorem State.modMeterAcc_safety (s : State) (m : Nat) (f : MeterAcc → MeterAcc) : (s.modMeterAcc m f).safety = s.safety := rfl
@[simp] theorem State.modMeterAcc_net (s : State) (m : Nat) (f : MeterAcc → MeterAcc) : (s.modMeterAcc m f).net = s.net := rfl
@[simp] theorem State.modMeterAcc_flows (s : State) (m : Nat) (f : MeterAcc → MeterAcc) : (s.modMeterAcc m f).flows = s.flows := rfl
@[simp] theorem State.modMeterAcc_dict (s : State) (m : Nat) (f : MeterAcc → MeterAcc) : (s.modMeterAcc m f).dict = s.dict := rfl
@[simp] theorem State.modMeterAcc_persist (s : State) (m : Nat) (f : MeterAcc → MeterAcc) : (s.modMeterAcc m f).persist = s.persist := rfl

@[simp] theorem State.modCmd_pending (s : State) (c : Nat) (f : CmdDie → CmdDie) : (s.modCmd c f).pending = s.pending := rfl
@[simp] theorem State.modCmd_regs (s : State) (c : Nat) (f : CmdDie → CmdDie) : (s.modCmd c f).regs = s.regs := rfl
@[simp] theorem State.modCmd_copies (s : State) (c : Nat) (f : CmdDie → CmdDie) : (s.modCmd c f).copies = s.copies := rfl
@[simp] theorem State.modCmd_mem (s : State) (c : Nat) (f : CmdDie → CmdDie) : (s.modCmd c f).mem = s.mem := rfl
@[simp] theorem State.modCmd_out (s : State) (c : Nat) (f : CmdDie → CmdDie) : (s.modCmd c f).out = s.out := rfl
@[simp] theorem State.modCmd_freeCnt (s : State) (c : Nat) (f : CmdDie → CmdDie) : (s.modCmd c f).freeCnt = s.freeCnt := rfl
@[simp] theorem State.modCmd_linkEnds (s : State) (c : Nat) (f : CmdDie → CmdDie) : (s.modCmd c f).linkEnds = s.linkEnds := rfl
@[simp] theorem State.modCmd_rsBlocks (s : State) (c : Nat) (f : CmdDie → CmdDie) : (s.modCmd c f).rsBlocks = s.rsBlocks := rfl
@[simp] theorem State.modCmd_plls (s : State) (c : Nat) (f : CmdDie → CmdDie) : (s.modCmd c f).plls = s.plls := rfl
@[simp] theorem State.modCmd_hops (s : State) (c : Nat) (f : CmdDie → CmdDie) : (s.modCmd c f).hops = s.hops := rfl
@[simp] theorem State.modCmd_groups (s : State) (c : Nat) (f : CmdDie → CmdDie) : (s.modCmd c f).groups = s.groups := rfl
@[simp] theorem State.modCmd_ports (s : State) (c : Nat) (f : CmdDie → CmdDie) : (s.modCmd c f).ports = s.ports := rfl
@[simp] theorem State.modCmd_tgs (s : State) (c : Nat) (f : CmdDie → CmdDie) : (s.modCmd c f).tgs = s.tgs := rfl
@[simp] theorem State.modCmd_drives (s : State) (c : Nat) (f : CmdDie → CmdDie) : (s.modCmd c f).drives = s.drives := rfl
@[simp] theorem State.modCmd_adcs (s : State) (c : Nat) (f : CmdDie → CmdDie) : (s.modCmd c f).adcs = s.adcs := rfl
@[simp] theorem State.modCmd_cmps (s : State) (c : Nat) (f : CmdDie → CmdDie) : (s.modCmd c f).cmps = s.cmps := rfl
@[simp] theorem State.modCmd_pis (s : State) (c : Nat) (f : CmdDie → CmdDie) : (s.modCmd c f).pis = s.pis := rfl
@[simp] theorem State.modCmd_cles (s : State) (c : Nat) (f : CmdDie → CmdDie) : (s.modCmd c f).cles = s.cles := rfl
@[simp] theorem State.modCmd_life (s : State) (c : Nat) (f : CmdDie → CmdDie) : (s.modCmd c f).life = s.life := rfl
@[simp] theorem State.modCmd_sys (s : State) (c : Nat) (f : CmdDie → CmdDie) : (s.modCmd c f).sys = s.sys := rfl
@[simp] theorem State.modCmd_power (s : State) (c : Nat) (f : CmdDie → CmdDie) : (s.modCmd c f).power = s.power := rfl
@[simp] theorem State.modCmd_keeper (s : State) (c : Nat) (f : CmdDie → CmdDie) : (s.modCmd c f).keeper = s.keeper := rfl
@[simp] theorem State.modCmd_grids (s : State) (c : Nat) (f : CmdDie → CmdDie) : (s.modCmd c f).grids = s.grids := rfl
@[simp] theorem State.modCmd_gridS (s : State) (c : Nat) (f : CmdDie → CmdDie) : (s.modCmd c f).gridS = s.gridS := rfl
@[simp] theorem State.modCmd_cycles (s : State) (c : Nat) (f : CmdDie → CmdDie) : (s.modCmd c f).cycles = s.cycles := rfl
@[simp] theorem State.modCmd_crcs (s : State) (c : Nat) (f : CmdDie → CmdDie) : (s.modCmd c f).crcs = s.crcs := rfl
@[simp] theorem State.modCmd_acts (s : State) (c : Nat) (f : CmdDie → CmdDie) : (s.modCmd c f).acts = s.acts := rfl
@[simp] theorem State.modCmd_maintSeq (s : State) (c : Nat) (f : CmdDie → CmdDie) : (s.modCmd c f).maintSeq = s.maintSeq := rfl
@[simp] theorem State.modCmd_meters (s : State) (c : Nat) (f : CmdDie → CmdDie) : (s.modCmd c f).meters = s.meters := rfl
@[simp] theorem State.modCmd_vars (s : State) (c : Nat) (f : CmdDie → CmdDie) : (s.modCmd c f).vars = s.vars := rfl
@[simp] theorem State.modCmd_arb (s : State) (c : Nat) (f : CmdDie → CmdDie) : (s.modCmd c f).arb = s.arb := rfl
@[simp] theorem State.modCmd_safety (s : State) (c : Nat) (f : CmdDie → CmdDie) : (s.modCmd c f).safety = s.safety := rfl
@[simp] theorem State.modCmd_net (s : State) (c : Nat) (f : CmdDie → CmdDie) : (s.modCmd c f).net = s.net := rfl
@[simp] theorem State.modCmd_flows (s : State) (c : Nat) (f : CmdDie → CmdDie) : (s.modCmd c f).flows = s.flows := rfl
@[simp] theorem State.modCmd_dict (s : State) (c : Nat) (f : CmdDie → CmdDie) : (s.modCmd c f).dict = s.dict := rfl
@[simp] theorem State.modCmd_persist (s : State) (c : Nat) (f : CmdDie → CmdDie) : (s.modCmd c f).persist = s.persist := rfl
@[simp] theorem State.modCmd_cmds (s : State) (c : Nat) (f : CmdDie → CmdDie) : (s.modCmd c f).cmds = vmod s.cmds c f := rfl

@[simp] theorem State.modArb_pending (s : State) (f : Arbiter → Arbiter) : (s.modArb f).pending = s.pending := rfl
@[simp] theorem State.modArb_regs (s : State) (f : Arbiter → Arbiter) : (s.modArb f).regs = s.regs := rfl
@[simp] theorem State.modArb_copies (s : State) (f : Arbiter → Arbiter) : (s.modArb f).copies = s.copies := rfl
@[simp] theorem State.modArb_mem (s : State) (f : Arbiter → Arbiter) : (s.modArb f).mem = s.mem := rfl
@[simp] theorem State.modArb_out (s : State) (f : Arbiter → Arbiter) : (s.modArb f).out = s.out := rfl
@[simp] theorem State.modArb_freeCnt (s : State) (f : Arbiter → Arbiter) : (s.modArb f).freeCnt = s.freeCnt := rfl
@[simp] theorem State.modArb_linkEnds (s : State) (f : Arbiter → Arbiter) : (s.modArb f).linkEnds = s.linkEnds := rfl
@[simp] theorem State.modArb_rsBlocks (s : State) (f : Arbiter → Arbiter) : (s.modArb f).rsBlocks = s.rsBlocks := rfl
@[simp] theorem State.modArb_plls (s : State) (f : Arbiter → Arbiter) : (s.modArb f).plls = s.plls := rfl
@[simp] theorem State.modArb_hops (s : State) (f : Arbiter → Arbiter) : (s.modArb f).hops = s.hops := rfl
@[simp] theorem State.modArb_groups (s : State) (f : Arbiter → Arbiter) : (s.modArb f).groups = s.groups := rfl
@[simp] theorem State.modArb_ports (s : State) (f : Arbiter → Arbiter) : (s.modArb f).ports = s.ports := rfl
@[simp] theorem State.modArb_tgs (s : State) (f : Arbiter → Arbiter) : (s.modArb f).tgs = s.tgs := rfl
@[simp] theorem State.modArb_drives (s : State) (f : Arbiter → Arbiter) : (s.modArb f).drives = s.drives := rfl
@[simp] theorem State.modArb_adcs (s : State) (f : Arbiter → Arbiter) : (s.modArb f).adcs = s.adcs := rfl
@[simp] theorem State.modArb_cmps (s : State) (f : Arbiter → Arbiter) : (s.modArb f).cmps = s.cmps := rfl
@[simp] theorem State.modArb_pis (s : State) (f : Arbiter → Arbiter) : (s.modArb f).pis = s.pis := rfl
@[simp] theorem State.modArb_cles (s : State) (f : Arbiter → Arbiter) : (s.modArb f).cles = s.cles := rfl
@[simp] theorem State.modArb_life (s : State) (f : Arbiter → Arbiter) : (s.modArb f).life = s.life := rfl
@[simp] theorem State.modArb_sys (s : State) (f : Arbiter → Arbiter) : (s.modArb f).sys = s.sys := rfl
@[simp] theorem State.modArb_power (s : State) (f : Arbiter → Arbiter) : (s.modArb f).power = s.power := rfl
@[simp] theorem State.modArb_keeper (s : State) (f : Arbiter → Arbiter) : (s.modArb f).keeper = s.keeper := rfl
@[simp] theorem State.modArb_grids (s : State) (f : Arbiter → Arbiter) : (s.modArb f).grids = s.grids := rfl
@[simp] theorem State.modArb_gridS (s : State) (f : Arbiter → Arbiter) : (s.modArb f).gridS = s.gridS := rfl
@[simp] theorem State.modArb_cycles (s : State) (f : Arbiter → Arbiter) : (s.modArb f).cycles = s.cycles := rfl
@[simp] theorem State.modArb_crcs (s : State) (f : Arbiter → Arbiter) : (s.modArb f).crcs = s.crcs := rfl
@[simp] theorem State.modArb_acts (s : State) (f : Arbiter → Arbiter) : (s.modArb f).acts = s.acts := rfl
@[simp] theorem State.modArb_maintSeq (s : State) (f : Arbiter → Arbiter) : (s.modArb f).maintSeq = s.maintSeq := rfl
@[simp] theorem State.modArb_meters (s : State) (f : Arbiter → Arbiter) : (s.modArb f).meters = s.meters := rfl
@[simp] theorem State.modArb_vars (s : State) (f : Arbiter → Arbiter) : (s.modArb f).vars = s.vars := rfl
@[simp] theorem State.modArb_cmds (s : State) (f : Arbiter → Arbiter) : (s.modArb f).cmds = s.cmds := rfl
@[simp] theorem State.modArb_safety (s : State) (f : Arbiter → Arbiter) : (s.modArb f).safety = s.safety := rfl
@[simp] theorem State.modArb_net (s : State) (f : Arbiter → Arbiter) : (s.modArb f).net = s.net := rfl
@[simp] theorem State.modArb_flows (s : State) (f : Arbiter → Arbiter) : (s.modArb f).flows = s.flows := rfl
@[simp] theorem State.modArb_dict (s : State) (f : Arbiter → Arbiter) : (s.modArb f).dict = s.dict := rfl
@[simp] theorem State.modArb_persist (s : State) (f : Arbiter → Arbiter) : (s.modArb f).persist = s.persist := rfl
@[simp] theorem State.modArb_arb (s : State) (f : Arbiter → Arbiter) : (s.modArb f).arb = f s.arb := rfl

@[simp] theorem State.modSafety_pending (s : State) (f : Safety → Safety) : (s.modSafety f).pending = s.pending := rfl
@[simp] theorem State.modSafety_regs (s : State) (f : Safety → Safety) : (s.modSafety f).regs = s.regs := rfl
@[simp] theorem State.modSafety_copies (s : State) (f : Safety → Safety) : (s.modSafety f).copies = s.copies := rfl
@[simp] theorem State.modSafety_mem (s : State) (f : Safety → Safety) : (s.modSafety f).mem = s.mem := rfl
@[simp] theorem State.modSafety_out (s : State) (f : Safety → Safety) : (s.modSafety f).out = s.out := rfl
@[simp] theorem State.modSafety_freeCnt (s : State) (f : Safety → Safety) : (s.modSafety f).freeCnt = s.freeCnt := rfl
@[simp] theorem State.modSafety_linkEnds (s : State) (f : Safety → Safety) : (s.modSafety f).linkEnds = s.linkEnds := rfl
@[simp] theorem State.modSafety_rsBlocks (s : State) (f : Safety → Safety) : (s.modSafety f).rsBlocks = s.rsBlocks := rfl
@[simp] theorem State.modSafety_plls (s : State) (f : Safety → Safety) : (s.modSafety f).plls = s.plls := rfl
@[simp] theorem State.modSafety_hops (s : State) (f : Safety → Safety) : (s.modSafety f).hops = s.hops := rfl
@[simp] theorem State.modSafety_groups (s : State) (f : Safety → Safety) : (s.modSafety f).groups = s.groups := rfl
@[simp] theorem State.modSafety_ports (s : State) (f : Safety → Safety) : (s.modSafety f).ports = s.ports := rfl
@[simp] theorem State.modSafety_tgs (s : State) (f : Safety → Safety) : (s.modSafety f).tgs = s.tgs := rfl
@[simp] theorem State.modSafety_drives (s : State) (f : Safety → Safety) : (s.modSafety f).drives = s.drives := rfl
@[simp] theorem State.modSafety_adcs (s : State) (f : Safety → Safety) : (s.modSafety f).adcs = s.adcs := rfl
@[simp] theorem State.modSafety_cmps (s : State) (f : Safety → Safety) : (s.modSafety f).cmps = s.cmps := rfl
@[simp] theorem State.modSafety_pis (s : State) (f : Safety → Safety) : (s.modSafety f).pis = s.pis := rfl
@[simp] theorem State.modSafety_cles (s : State) (f : Safety → Safety) : (s.modSafety f).cles = s.cles := rfl
@[simp] theorem State.modSafety_life (s : State) (f : Safety → Safety) : (s.modSafety f).life = s.life := rfl
@[simp] theorem State.modSafety_sys (s : State) (f : Safety → Safety) : (s.modSafety f).sys = s.sys := rfl
@[simp] theorem State.modSafety_power (s : State) (f : Safety → Safety) : (s.modSafety f).power = s.power := rfl
@[simp] theorem State.modSafety_keeper (s : State) (f : Safety → Safety) : (s.modSafety f).keeper = s.keeper := rfl
@[simp] theorem State.modSafety_grids (s : State) (f : Safety → Safety) : (s.modSafety f).grids = s.grids := rfl
@[simp] theorem State.modSafety_gridS (s : State) (f : Safety → Safety) : (s.modSafety f).gridS = s.gridS := rfl
@[simp] theorem State.modSafety_cycles (s : State) (f : Safety → Safety) : (s.modSafety f).cycles = s.cycles := rfl
@[simp] theorem State.modSafety_crcs (s : State) (f : Safety → Safety) : (s.modSafety f).crcs = s.crcs := rfl
@[simp] theorem State.modSafety_acts (s : State) (f : Safety → Safety) : (s.modSafety f).acts = s.acts := rfl
@[simp] theorem State.modSafety_maintSeq (s : State) (f : Safety → Safety) : (s.modSafety f).maintSeq = s.maintSeq := rfl
@[simp] theorem State.modSafety_meters (s : State) (f : Safety → Safety) : (s.modSafety f).meters = s.meters := rfl
@[simp] theorem State.modSafety_vars (s : State) (f : Safety → Safety) : (s.modSafety f).vars = s.vars := rfl
@[simp] theorem State.modSafety_cmds (s : State) (f : Safety → Safety) : (s.modSafety f).cmds = s.cmds := rfl
@[simp] theorem State.modSafety_arb (s : State) (f : Safety → Safety) : (s.modSafety f).arb = s.arb := rfl
@[simp] theorem State.modSafety_net (s : State) (f : Safety → Safety) : (s.modSafety f).net = s.net := rfl
@[simp] theorem State.modSafety_flows (s : State) (f : Safety → Safety) : (s.modSafety f).flows = s.flows := rfl
@[simp] theorem State.modSafety_dict (s : State) (f : Safety → Safety) : (s.modSafety f).dict = s.dict := rfl
@[simp] theorem State.modSafety_persist (s : State) (f : Safety → Safety) : (s.modSafety f).persist = s.persist := rfl
@[simp] theorem State.modSafety_safety (s : State) (f : Safety → Safety) : (s.modSafety f).safety = f s.safety := rfl

@[simp] theorem State.modChan_pending (s : State) (ch : Nat) (f : SafeChannel → SafeChannel) : (s.modChan ch f).pending = s.pending := rfl
@[simp] theorem State.modChan_regs (s : State) (ch : Nat) (f : SafeChannel → SafeChannel) : (s.modChan ch f).regs = s.regs := rfl
@[simp] theorem State.modChan_copies (s : State) (ch : Nat) (f : SafeChannel → SafeChannel) : (s.modChan ch f).copies = s.copies := rfl
@[simp] theorem State.modChan_mem (s : State) (ch : Nat) (f : SafeChannel → SafeChannel) : (s.modChan ch f).mem = s.mem := rfl
@[simp] theorem State.modChan_out (s : State) (ch : Nat) (f : SafeChannel → SafeChannel) : (s.modChan ch f).out = s.out := rfl
@[simp] theorem State.modChan_freeCnt (s : State) (ch : Nat) (f : SafeChannel → SafeChannel) : (s.modChan ch f).freeCnt = s.freeCnt := rfl
@[simp] theorem State.modChan_linkEnds (s : State) (ch : Nat) (f : SafeChannel → SafeChannel) : (s.modChan ch f).linkEnds = s.linkEnds := rfl
@[simp] theorem State.modChan_rsBlocks (s : State) (ch : Nat) (f : SafeChannel → SafeChannel) : (s.modChan ch f).rsBlocks = s.rsBlocks := rfl
@[simp] theorem State.modChan_plls (s : State) (ch : Nat) (f : SafeChannel → SafeChannel) : (s.modChan ch f).plls = s.plls := rfl
@[simp] theorem State.modChan_hops (s : State) (ch : Nat) (f : SafeChannel → SafeChannel) : (s.modChan ch f).hops = s.hops := rfl
@[simp] theorem State.modChan_groups (s : State) (ch : Nat) (f : SafeChannel → SafeChannel) : (s.modChan ch f).groups = s.groups := rfl
@[simp] theorem State.modChan_ports (s : State) (ch : Nat) (f : SafeChannel → SafeChannel) : (s.modChan ch f).ports = s.ports := rfl
@[simp] theorem State.modChan_tgs (s : State) (ch : Nat) (f : SafeChannel → SafeChannel) : (s.modChan ch f).tgs = s.tgs := rfl
@[simp] theorem State.modChan_drives (s : State) (ch : Nat) (f : SafeChannel → SafeChannel) : (s.modChan ch f).drives = s.drives := rfl
@[simp] theorem State.modChan_adcs (s : State) (ch : Nat) (f : SafeChannel → SafeChannel) : (s.modChan ch f).adcs = s.adcs := rfl
@[simp] theorem State.modChan_cmps (s : State) (ch : Nat) (f : SafeChannel → SafeChannel) : (s.modChan ch f).cmps = s.cmps := rfl
@[simp] theorem State.modChan_pis (s : State) (ch : Nat) (f : SafeChannel → SafeChannel) : (s.modChan ch f).pis = s.pis := rfl
@[simp] theorem State.modChan_cles (s : State) (ch : Nat) (f : SafeChannel → SafeChannel) : (s.modChan ch f).cles = s.cles := rfl
@[simp] theorem State.modChan_life (s : State) (ch : Nat) (f : SafeChannel → SafeChannel) : (s.modChan ch f).life = s.life := rfl
@[simp] theorem State.modChan_sys (s : State) (ch : Nat) (f : SafeChannel → SafeChannel) : (s.modChan ch f).sys = s.sys := rfl
@[simp] theorem State.modChan_power (s : State) (ch : Nat) (f : SafeChannel → SafeChannel) : (s.modChan ch f).power = s.power := rfl
@[simp] theorem State.modChan_keeper (s : State) (ch : Nat) (f : SafeChannel → SafeChannel) : (s.modChan ch f).keeper = s.keeper := rfl
@[simp] theorem State.modChan_grids (s : State) (ch : Nat) (f : SafeChannel → SafeChannel) : (s.modChan ch f).grids = s.grids := rfl
@[simp] theorem State.modChan_gridS (s : State) (ch : Nat) (f : SafeChannel → SafeChannel) : (s.modChan ch f).gridS = s.gridS := rfl
@[simp] theorem State.modChan_cycles (s : State) (ch : Nat) (f : SafeChannel → SafeChannel) : (s.modChan ch f).cycles = s.cycles := rfl
@[simp] theorem State.modChan_crcs (s : State) (ch : Nat) (f : SafeChannel → SafeChannel) : (s.modChan ch f).crcs = s.crcs := rfl
@[simp] theorem State.modChan_acts (s : State) (ch : Nat) (f : SafeChannel → SafeChannel) : (s.modChan ch f).acts = s.acts := rfl
@[simp] theorem State.modChan_maintSeq (s : State) (ch : Nat) (f : SafeChannel → SafeChannel) : (s.modChan ch f).maintSeq = s.maintSeq := rfl
@[simp] theorem State.modChan_meters (s : State) (ch : Nat) (f : SafeChannel → SafeChannel) : (s.modChan ch f).meters = s.meters := rfl
@[simp] theorem State.modChan_vars (s : State) (ch : Nat) (f : SafeChannel → SafeChannel) : (s.modChan ch f).vars = s.vars := rfl
@[simp] theorem State.modChan_cmds (s : State) (ch : Nat) (f : SafeChannel → SafeChannel) : (s.modChan ch f).cmds = s.cmds := rfl
@[simp] theorem State.modChan_arb (s : State) (ch : Nat) (f : SafeChannel → SafeChannel) : (s.modChan ch f).arb = s.arb := rfl
@[simp] theorem State.modChan_net (s : State) (ch : Nat) (f : SafeChannel → SafeChannel) : (s.modChan ch f).net = s.net := rfl
@[simp] theorem State.modChan_flows (s : State) (ch : Nat) (f : SafeChannel → SafeChannel) : (s.modChan ch f).flows = s.flows := rfl
@[simp] theorem State.modChan_dict (s : State) (ch : Nat) (f : SafeChannel → SafeChannel) : (s.modChan ch f).dict = s.dict := rfl
@[simp] theorem State.modChan_persist (s : State) (ch : Nat) (f : SafeChannel → SafeChannel) : (s.modChan ch f).persist = s.persist := rfl

@[simp] theorem State.modAxis_pending (s : State) (k : Nat) (f : SafeAxis → SafeAxis) : (s.modAxis k f).pending = s.pending := rfl
@[simp] theorem State.modAxis_regs (s : State) (k : Nat) (f : SafeAxis → SafeAxis) : (s.modAxis k f).regs = s.regs := rfl
@[simp] theorem State.modAxis_copies (s : State) (k : Nat) (f : SafeAxis → SafeAxis) : (s.modAxis k f).copies = s.copies := rfl
@[simp] theorem State.modAxis_mem (s : State) (k : Nat) (f : SafeAxis → SafeAxis) : (s.modAxis k f).mem = s.mem := rfl
@[simp] theorem State.modAxis_out (s : State) (k : Nat) (f : SafeAxis → SafeAxis) : (s.modAxis k f).out = s.out := rfl
@[simp] theorem State.modAxis_freeCnt (s : State) (k : Nat) (f : SafeAxis → SafeAxis) : (s.modAxis k f).freeCnt = s.freeCnt := rfl
@[simp] theorem State.modAxis_linkEnds (s : State) (k : Nat) (f : SafeAxis → SafeAxis) : (s.modAxis k f).linkEnds = s.linkEnds := rfl
@[simp] theorem State.modAxis_rsBlocks (s : State) (k : Nat) (f : SafeAxis → SafeAxis) : (s.modAxis k f).rsBlocks = s.rsBlocks := rfl
@[simp] theorem State.modAxis_plls (s : State) (k : Nat) (f : SafeAxis → SafeAxis) : (s.modAxis k f).plls = s.plls := rfl
@[simp] theorem State.modAxis_hops (s : State) (k : Nat) (f : SafeAxis → SafeAxis) : (s.modAxis k f).hops = s.hops := rfl
@[simp] theorem State.modAxis_groups (s : State) (k : Nat) (f : SafeAxis → SafeAxis) : (s.modAxis k f).groups = s.groups := rfl
@[simp] theorem State.modAxis_ports (s : State) (k : Nat) (f : SafeAxis → SafeAxis) : (s.modAxis k f).ports = s.ports := rfl
@[simp] theorem State.modAxis_tgs (s : State) (k : Nat) (f : SafeAxis → SafeAxis) : (s.modAxis k f).tgs = s.tgs := rfl
@[simp] theorem State.modAxis_drives (s : State) (k : Nat) (f : SafeAxis → SafeAxis) : (s.modAxis k f).drives = s.drives := rfl
@[simp] theorem State.modAxis_adcs (s : State) (k : Nat) (f : SafeAxis → SafeAxis) : (s.modAxis k f).adcs = s.adcs := rfl
@[simp] theorem State.modAxis_cmps (s : State) (k : Nat) (f : SafeAxis → SafeAxis) : (s.modAxis k f).cmps = s.cmps := rfl
@[simp] theorem State.modAxis_pis (s : State) (k : Nat) (f : SafeAxis → SafeAxis) : (s.modAxis k f).pis = s.pis := rfl
@[simp] theorem State.modAxis_cles (s : State) (k : Nat) (f : SafeAxis → SafeAxis) : (s.modAxis k f).cles = s.cles := rfl
@[simp] theorem State.modAxis_life (s : State) (k : Nat) (f : SafeAxis → SafeAxis) : (s.modAxis k f).life = s.life := rfl
@[simp] theorem State.modAxis_sys (s : State) (k : Nat) (f : SafeAxis → SafeAxis) : (s.modAxis k f).sys = s.sys := rfl
@[simp] theorem State.modAxis_power (s : State) (k : Nat) (f : SafeAxis → SafeAxis) : (s.modAxis k f).power = s.power := rfl
@[simp] theorem State.modAxis_keeper (s : State) (k : Nat) (f : SafeAxis → SafeAxis) : (s.modAxis k f).keeper = s.keeper := rfl
@[simp] theorem State.modAxis_grids (s : State) (k : Nat) (f : SafeAxis → SafeAxis) : (s.modAxis k f).grids = s.grids := rfl
@[simp] theorem State.modAxis_gridS (s : State) (k : Nat) (f : SafeAxis → SafeAxis) : (s.modAxis k f).gridS = s.gridS := rfl
@[simp] theorem State.modAxis_cycles (s : State) (k : Nat) (f : SafeAxis → SafeAxis) : (s.modAxis k f).cycles = s.cycles := rfl
@[simp] theorem State.modAxis_crcs (s : State) (k : Nat) (f : SafeAxis → SafeAxis) : (s.modAxis k f).crcs = s.crcs := rfl
@[simp] theorem State.modAxis_acts (s : State) (k : Nat) (f : SafeAxis → SafeAxis) : (s.modAxis k f).acts = s.acts := rfl
@[simp] theorem State.modAxis_maintSeq (s : State) (k : Nat) (f : SafeAxis → SafeAxis) : (s.modAxis k f).maintSeq = s.maintSeq := rfl
@[simp] theorem State.modAxis_meters (s : State) (k : Nat) (f : SafeAxis → SafeAxis) : (s.modAxis k f).meters = s.meters := rfl
@[simp] theorem State.modAxis_vars (s : State) (k : Nat) (f : SafeAxis → SafeAxis) : (s.modAxis k f).vars = s.vars := rfl
@[simp] theorem State.modAxis_cmds (s : State) (k : Nat) (f : SafeAxis → SafeAxis) : (s.modAxis k f).cmds = s.cmds := rfl
@[simp] theorem State.modAxis_arb (s : State) (k : Nat) (f : SafeAxis → SafeAxis) : (s.modAxis k f).arb = s.arb := rfl
@[simp] theorem State.modAxis_net (s : State) (k : Nat) (f : SafeAxis → SafeAxis) : (s.modAxis k f).net = s.net := rfl
@[simp] theorem State.modAxis_flows (s : State) (k : Nat) (f : SafeAxis → SafeAxis) : (s.modAxis k f).flows = s.flows := rfl
@[simp] theorem State.modAxis_dict (s : State) (k : Nat) (f : SafeAxis → SafeAxis) : (s.modAxis k f).dict = s.dict := rfl
@[simp] theorem State.modAxis_persist (s : State) (k : Nat) (f : SafeAxis → SafeAxis) : (s.modAxis k f).persist = s.persist := rfl

@[simp] theorem State.modConn_pending (s : State) (c : Nat) (f : SafeConn → SafeConn) : (s.modConn c f).pending = s.pending := rfl
@[simp] theorem State.modConn_regs (s : State) (c : Nat) (f : SafeConn → SafeConn) : (s.modConn c f).regs = s.regs := rfl
@[simp] theorem State.modConn_copies (s : State) (c : Nat) (f : SafeConn → SafeConn) : (s.modConn c f).copies = s.copies := rfl
@[simp] theorem State.modConn_mem (s : State) (c : Nat) (f : SafeConn → SafeConn) : (s.modConn c f).mem = s.mem := rfl
@[simp] theorem State.modConn_out (s : State) (c : Nat) (f : SafeConn → SafeConn) : (s.modConn c f).out = s.out := rfl
@[simp] theorem State.modConn_freeCnt (s : State) (c : Nat) (f : SafeConn → SafeConn) : (s.modConn c f).freeCnt = s.freeCnt := rfl
@[simp] theorem State.modConn_linkEnds (s : State) (c : Nat) (f : SafeConn → SafeConn) : (s.modConn c f).linkEnds = s.linkEnds := rfl
@[simp] theorem State.modConn_rsBlocks (s : State) (c : Nat) (f : SafeConn → SafeConn) : (s.modConn c f).rsBlocks = s.rsBlocks := rfl
@[simp] theorem State.modConn_plls (s : State) (c : Nat) (f : SafeConn → SafeConn) : (s.modConn c f).plls = s.plls := rfl
@[simp] theorem State.modConn_hops (s : State) (c : Nat) (f : SafeConn → SafeConn) : (s.modConn c f).hops = s.hops := rfl
@[simp] theorem State.modConn_groups (s : State) (c : Nat) (f : SafeConn → SafeConn) : (s.modConn c f).groups = s.groups := rfl
@[simp] theorem State.modConn_ports (s : State) (c : Nat) (f : SafeConn → SafeConn) : (s.modConn c f).ports = s.ports := rfl
@[simp] theorem State.modConn_tgs (s : State) (c : Nat) (f : SafeConn → SafeConn) : (s.modConn c f).tgs = s.tgs := rfl
@[simp] theorem State.modConn_drives (s : State) (c : Nat) (f : SafeConn → SafeConn) : (s.modConn c f).drives = s.drives := rfl
@[simp] theorem State.modConn_adcs (s : State) (c : Nat) (f : SafeConn → SafeConn) : (s.modConn c f).adcs = s.adcs := rfl
@[simp] theorem State.modConn_cmps (s : State) (c : Nat) (f : SafeConn → SafeConn) : (s.modConn c f).cmps = s.cmps := rfl
@[simp] theorem State.modConn_pis (s : State) (c : Nat) (f : SafeConn → SafeConn) : (s.modConn c f).pis = s.pis := rfl
@[simp] theorem State.modConn_cles (s : State) (c : Nat) (f : SafeConn → SafeConn) : (s.modConn c f).cles = s.cles := rfl
@[simp] theorem State.modConn_life (s : State) (c : Nat) (f : SafeConn → SafeConn) : (s.modConn c f).life = s.life := rfl
@[simp] theorem State.modConn_sys (s : State) (c : Nat) (f : SafeConn → SafeConn) : (s.modConn c f).sys = s.sys := rfl
@[simp] theorem State.modConn_power (s : State) (c : Nat) (f : SafeConn → SafeConn) : (s.modConn c f).power = s.power := rfl
@[simp] theorem State.modConn_keeper (s : State) (c : Nat) (f : SafeConn → SafeConn) : (s.modConn c f).keeper = s.keeper := rfl
@[simp] theorem State.modConn_grids (s : State) (c : Nat) (f : SafeConn → SafeConn) : (s.modConn c f).grids = s.grids := rfl
@[simp] theorem State.modConn_gridS (s : State) (c : Nat) (f : SafeConn → SafeConn) : (s.modConn c f).gridS = s.gridS := rfl
@[simp] theorem State.modConn_cycles (s : State) (c : Nat) (f : SafeConn → SafeConn) : (s.modConn c f).cycles = s.cycles := rfl
@[simp] theorem State.modConn_crcs (s : State) (c : Nat) (f : SafeConn → SafeConn) : (s.modConn c f).crcs = s.crcs := rfl
@[simp] theorem State.modConn_acts (s : State) (c : Nat) (f : SafeConn → SafeConn) : (s.modConn c f).acts = s.acts := rfl
@[simp] theorem State.modConn_maintSeq (s : State) (c : Nat) (f : SafeConn → SafeConn) : (s.modConn c f).maintSeq = s.maintSeq := rfl
@[simp] theorem State.modConn_meters (s : State) (c : Nat) (f : SafeConn → SafeConn) : (s.modConn c f).meters = s.meters := rfl
@[simp] theorem State.modConn_vars (s : State) (c : Nat) (f : SafeConn → SafeConn) : (s.modConn c f).vars = s.vars := rfl
@[simp] theorem State.modConn_cmds (s : State) (c : Nat) (f : SafeConn → SafeConn) : (s.modConn c f).cmds = s.cmds := rfl
@[simp] theorem State.modConn_arb (s : State) (c : Nat) (f : SafeConn → SafeConn) : (s.modConn c f).arb = s.arb := rfl
@[simp] theorem State.modConn_net (s : State) (c : Nat) (f : SafeConn → SafeConn) : (s.modConn c f).net = s.net := rfl
@[simp] theorem State.modConn_flows (s : State) (c : Nat) (f : SafeConn → SafeConn) : (s.modConn c f).flows = s.flows := rfl
@[simp] theorem State.modConn_dict (s : State) (c : Nat) (f : SafeConn → SafeConn) : (s.modConn c f).dict = s.dict := rfl
@[simp] theorem State.modConn_persist (s : State) (c : Nat) (f : SafeConn → SafeConn) : (s.modConn c f).persist = s.persist := rfl

@[simp] theorem State.modNet_pending (s : State) (f : Net → Net) : (s.modNet f).pending = s.pending := rfl
@[simp] theorem State.modNet_regs (s : State) (f : Net → Net) : (s.modNet f).regs = s.regs := rfl
@[simp] theorem State.modNet_copies (s : State) (f : Net → Net) : (s.modNet f).copies = s.copies := rfl
@[simp] theorem State.modNet_mem (s : State) (f : Net → Net) : (s.modNet f).mem = s.mem := rfl
@[simp] theorem State.modNet_out (s : State) (f : Net → Net) : (s.modNet f).out = s.out := rfl
@[simp] theorem State.modNet_freeCnt (s : State) (f : Net → Net) : (s.modNet f).freeCnt = s.freeCnt := rfl
@[simp] theorem State.modNet_linkEnds (s : State) (f : Net → Net) : (s.modNet f).linkEnds = s.linkEnds := rfl
@[simp] theorem State.modNet_rsBlocks (s : State) (f : Net → Net) : (s.modNet f).rsBlocks = s.rsBlocks := rfl
@[simp] theorem State.modNet_plls (s : State) (f : Net → Net) : (s.modNet f).plls = s.plls := rfl
@[simp] theorem State.modNet_hops (s : State) (f : Net → Net) : (s.modNet f).hops = s.hops := rfl
@[simp] theorem State.modNet_groups (s : State) (f : Net → Net) : (s.modNet f).groups = s.groups := rfl
@[simp] theorem State.modNet_ports (s : State) (f : Net → Net) : (s.modNet f).ports = s.ports := rfl
@[simp] theorem State.modNet_tgs (s : State) (f : Net → Net) : (s.modNet f).tgs = s.tgs := rfl
@[simp] theorem State.modNet_drives (s : State) (f : Net → Net) : (s.modNet f).drives = s.drives := rfl
@[simp] theorem State.modNet_adcs (s : State) (f : Net → Net) : (s.modNet f).adcs = s.adcs := rfl
@[simp] theorem State.modNet_cmps (s : State) (f : Net → Net) : (s.modNet f).cmps = s.cmps := rfl
@[simp] theorem State.modNet_pis (s : State) (f : Net → Net) : (s.modNet f).pis = s.pis := rfl
@[simp] theorem State.modNet_cles (s : State) (f : Net → Net) : (s.modNet f).cles = s.cles := rfl
@[simp] theorem State.modNet_life (s : State) (f : Net → Net) : (s.modNet f).life = s.life := rfl
@[simp] theorem State.modNet_sys (s : State) (f : Net → Net) : (s.modNet f).sys = s.sys := rfl
@[simp] theorem State.modNet_power (s : State) (f : Net → Net) : (s.modNet f).power = s.power := rfl
@[simp] theorem State.modNet_keeper (s : State) (f : Net → Net) : (s.modNet f).keeper = s.keeper := rfl
@[simp] theorem State.modNet_grids (s : State) (f : Net → Net) : (s.modNet f).grids = s.grids := rfl
@[simp] theorem State.modNet_gridS (s : State) (f : Net → Net) : (s.modNet f).gridS = s.gridS := rfl
@[simp] theorem State.modNet_cycles (s : State) (f : Net → Net) : (s.modNet f).cycles = s.cycles := rfl
@[simp] theorem State.modNet_crcs (s : State) (f : Net → Net) : (s.modNet f).crcs = s.crcs := rfl
@[simp] theorem State.modNet_acts (s : State) (f : Net → Net) : (s.modNet f).acts = s.acts := rfl
@[simp] theorem State.modNet_maintSeq (s : State) (f : Net → Net) : (s.modNet f).maintSeq = s.maintSeq := rfl
@[simp] theorem State.modNet_meters (s : State) (f : Net → Net) : (s.modNet f).meters = s.meters := rfl
@[simp] theorem State.modNet_vars (s : State) (f : Net → Net) : (s.modNet f).vars = s.vars := rfl
@[simp] theorem State.modNet_cmds (s : State) (f : Net → Net) : (s.modNet f).cmds = s.cmds := rfl
@[simp] theorem State.modNet_arb (s : State) (f : Net → Net) : (s.modNet f).arb = s.arb := rfl
@[simp] theorem State.modNet_safety (s : State) (f : Net → Net) : (s.modNet f).safety = s.safety := rfl
@[simp] theorem State.modNet_flows (s : State) (f : Net → Net) : (s.modNet f).flows = s.flows := rfl
@[simp] theorem State.modNet_dict (s : State) (f : Net → Net) : (s.modNet f).dict = s.dict := rfl
@[simp] theorem State.modNet_persist (s : State) (f : Net → Net) : (s.modNet f).persist = s.persist := rfl
@[simp] theorem State.modNet_net (s : State) (f : Net → Net) : (s.modNet f).net = f s.net := rfl

@[simp] theorem State.modEth_pending (s : State) (p : Nat) (f : EthPort → EthPort) : (s.modEth p f).pending = s.pending := rfl
@[simp] theorem State.modEth_regs (s : State) (p : Nat) (f : EthPort → EthPort) : (s.modEth p f).regs = s.regs := rfl
@[simp] theorem State.modEth_copies (s : State) (p : Nat) (f : EthPort → EthPort) : (s.modEth p f).copies = s.copies := rfl
@[simp] theorem State.modEth_mem (s : State) (p : Nat) (f : EthPort → EthPort) : (s.modEth p f).mem = s.mem := rfl
@[simp] theorem State.modEth_out (s : State) (p : Nat) (f : EthPort → EthPort) : (s.modEth p f).out = s.out := rfl
@[simp] theorem State.modEth_freeCnt (s : State) (p : Nat) (f : EthPort → EthPort) : (s.modEth p f).freeCnt = s.freeCnt := rfl
@[simp] theorem State.modEth_linkEnds (s : State) (p : Nat) (f : EthPort → EthPort) : (s.modEth p f).linkEnds = s.linkEnds := rfl
@[simp] theorem State.modEth_rsBlocks (s : State) (p : Nat) (f : EthPort → EthPort) : (s.modEth p f).rsBlocks = s.rsBlocks := rfl
@[simp] theorem State.modEth_plls (s : State) (p : Nat) (f : EthPort → EthPort) : (s.modEth p f).plls = s.plls := rfl
@[simp] theorem State.modEth_hops (s : State) (p : Nat) (f : EthPort → EthPort) : (s.modEth p f).hops = s.hops := rfl
@[simp] theorem State.modEth_groups (s : State) (p : Nat) (f : EthPort → EthPort) : (s.modEth p f).groups = s.groups := rfl
@[simp] theorem State.modEth_ports (s : State) (p : Nat) (f : EthPort → EthPort) : (s.modEth p f).ports = s.ports := rfl
@[simp] theorem State.modEth_tgs (s : State) (p : Nat) (f : EthPort → EthPort) : (s.modEth p f).tgs = s.tgs := rfl
@[simp] theorem State.modEth_drives (s : State) (p : Nat) (f : EthPort → EthPort) : (s.modEth p f).drives = s.drives := rfl
@[simp] theorem State.modEth_adcs (s : State) (p : Nat) (f : EthPort → EthPort) : (s.modEth p f).adcs = s.adcs := rfl
@[simp] theorem State.modEth_cmps (s : State) (p : Nat) (f : EthPort → EthPort) : (s.modEth p f).cmps = s.cmps := rfl
@[simp] theorem State.modEth_pis (s : State) (p : Nat) (f : EthPort → EthPort) : (s.modEth p f).pis = s.pis := rfl
@[simp] theorem State.modEth_cles (s : State) (p : Nat) (f : EthPort → EthPort) : (s.modEth p f).cles = s.cles := rfl
@[simp] theorem State.modEth_life (s : State) (p : Nat) (f : EthPort → EthPort) : (s.modEth p f).life = s.life := rfl
@[simp] theorem State.modEth_sys (s : State) (p : Nat) (f : EthPort → EthPort) : (s.modEth p f).sys = s.sys := rfl
@[simp] theorem State.modEth_power (s : State) (p : Nat) (f : EthPort → EthPort) : (s.modEth p f).power = s.power := rfl
@[simp] theorem State.modEth_keeper (s : State) (p : Nat) (f : EthPort → EthPort) : (s.modEth p f).keeper = s.keeper := rfl
@[simp] theorem State.modEth_grids (s : State) (p : Nat) (f : EthPort → EthPort) : (s.modEth p f).grids = s.grids := rfl
@[simp] theorem State.modEth_gridS (s : State) (p : Nat) (f : EthPort → EthPort) : (s.modEth p f).gridS = s.gridS := rfl
@[simp] theorem State.modEth_cycles (s : State) (p : Nat) (f : EthPort → EthPort) : (s.modEth p f).cycles = s.cycles := rfl
@[simp] theorem State.modEth_crcs (s : State) (p : Nat) (f : EthPort → EthPort) : (s.modEth p f).crcs = s.crcs := rfl
@[simp] theorem State.modEth_acts (s : State) (p : Nat) (f : EthPort → EthPort) : (s.modEth p f).acts = s.acts := rfl
@[simp] theorem State.modEth_maintSeq (s : State) (p : Nat) (f : EthPort → EthPort) : (s.modEth p f).maintSeq = s.maintSeq := rfl
@[simp] theorem State.modEth_meters (s : State) (p : Nat) (f : EthPort → EthPort) : (s.modEth p f).meters = s.meters := rfl
@[simp] theorem State.modEth_vars (s : State) (p : Nat) (f : EthPort → EthPort) : (s.modEth p f).vars = s.vars := rfl
@[simp] theorem State.modEth_cmds (s : State) (p : Nat) (f : EthPort → EthPort) : (s.modEth p f).cmds = s.cmds := rfl
@[simp] theorem State.modEth_arb (s : State) (p : Nat) (f : EthPort → EthPort) : (s.modEth p f).arb = s.arb := rfl
@[simp] theorem State.modEth_safety (s : State) (p : Nat) (f : EthPort → EthPort) : (s.modEth p f).safety = s.safety := rfl
@[simp] theorem State.modEth_flows (s : State) (p : Nat) (f : EthPort → EthPort) : (s.modEth p f).flows = s.flows := rfl
@[simp] theorem State.modEth_dict (s : State) (p : Nat) (f : EthPort → EthPort) : (s.modEth p f).dict = s.dict := rfl
@[simp] theorem State.modEth_persist (s : State) (p : Nat) (f : EthPort → EthPort) : (s.modEth p f).persist = s.persist := rfl

@[simp] theorem State.modDom_pending (s : State) (x : Nat) (f : PtpDomain → PtpDomain) : (s.modDom x f).pending = s.pending := rfl
@[simp] theorem State.modDom_regs (s : State) (x : Nat) (f : PtpDomain → PtpDomain) : (s.modDom x f).regs = s.regs := rfl
@[simp] theorem State.modDom_copies (s : State) (x : Nat) (f : PtpDomain → PtpDomain) : (s.modDom x f).copies = s.copies := rfl
@[simp] theorem State.modDom_mem (s : State) (x : Nat) (f : PtpDomain → PtpDomain) : (s.modDom x f).mem = s.mem := rfl
@[simp] theorem State.modDom_out (s : State) (x : Nat) (f : PtpDomain → PtpDomain) : (s.modDom x f).out = s.out := rfl
@[simp] theorem State.modDom_freeCnt (s : State) (x : Nat) (f : PtpDomain → PtpDomain) : (s.modDom x f).freeCnt = s.freeCnt := rfl
@[simp] theorem State.modDom_linkEnds (s : State) (x : Nat) (f : PtpDomain → PtpDomain) : (s.modDom x f).linkEnds = s.linkEnds := rfl
@[simp] theorem State.modDom_rsBlocks (s : State) (x : Nat) (f : PtpDomain → PtpDomain) : (s.modDom x f).rsBlocks = s.rsBlocks := rfl
@[simp] theorem State.modDom_plls (s : State) (x : Nat) (f : PtpDomain → PtpDomain) : (s.modDom x f).plls = s.plls := rfl
@[simp] theorem State.modDom_hops (s : State) (x : Nat) (f : PtpDomain → PtpDomain) : (s.modDom x f).hops = s.hops := rfl
@[simp] theorem State.modDom_groups (s : State) (x : Nat) (f : PtpDomain → PtpDomain) : (s.modDom x f).groups = s.groups := rfl
@[simp] theorem State.modDom_ports (s : State) (x : Nat) (f : PtpDomain → PtpDomain) : (s.modDom x f).ports = s.ports := rfl
@[simp] theorem State.modDom_tgs (s : State) (x : Nat) (f : PtpDomain → PtpDomain) : (s.modDom x f).tgs = s.tgs := rfl
@[simp] theorem State.modDom_drives (s : State) (x : Nat) (f : PtpDomain → PtpDomain) : (s.modDom x f).drives = s.drives := rfl
@[simp] theorem State.modDom_adcs (s : State) (x : Nat) (f : PtpDomain → PtpDomain) : (s.modDom x f).adcs = s.adcs := rfl
@[simp] theorem State.modDom_cmps (s : State) (x : Nat) (f : PtpDomain → PtpDomain) : (s.modDom x f).cmps = s.cmps := rfl
@[simp] theorem State.modDom_pis (s : State) (x : Nat) (f : PtpDomain → PtpDomain) : (s.modDom x f).pis = s.pis := rfl
@[simp] theorem State.modDom_cles (s : State) (x : Nat) (f : PtpDomain → PtpDomain) : (s.modDom x f).cles = s.cles := rfl
@[simp] theorem State.modDom_life (s : State) (x : Nat) (f : PtpDomain → PtpDomain) : (s.modDom x f).life = s.life := rfl
@[simp] theorem State.modDom_sys (s : State) (x : Nat) (f : PtpDomain → PtpDomain) : (s.modDom x f).sys = s.sys := rfl
@[simp] theorem State.modDom_power (s : State) (x : Nat) (f : PtpDomain → PtpDomain) : (s.modDom x f).power = s.power := rfl
@[simp] theorem State.modDom_keeper (s : State) (x : Nat) (f : PtpDomain → PtpDomain) : (s.modDom x f).keeper = s.keeper := rfl
@[simp] theorem State.modDom_grids (s : State) (x : Nat) (f : PtpDomain → PtpDomain) : (s.modDom x f).grids = s.grids := rfl
@[simp] theorem State.modDom_gridS (s : State) (x : Nat) (f : PtpDomain → PtpDomain) : (s.modDom x f).gridS = s.gridS := rfl
@[simp] theorem State.modDom_cycles (s : State) (x : Nat) (f : PtpDomain → PtpDomain) : (s.modDom x f).cycles = s.cycles := rfl
@[simp] theorem State.modDom_crcs (s : State) (x : Nat) (f : PtpDomain → PtpDomain) : (s.modDom x f).crcs = s.crcs := rfl
@[simp] theorem State.modDom_acts (s : State) (x : Nat) (f : PtpDomain → PtpDomain) : (s.modDom x f).acts = s.acts := rfl
@[simp] theorem State.modDom_maintSeq (s : State) (x : Nat) (f : PtpDomain → PtpDomain) : (s.modDom x f).maintSeq = s.maintSeq := rfl
@[simp] theorem State.modDom_meters (s : State) (x : Nat) (f : PtpDomain → PtpDomain) : (s.modDom x f).meters = s.meters := rfl
@[simp] theorem State.modDom_vars (s : State) (x : Nat) (f : PtpDomain → PtpDomain) : (s.modDom x f).vars = s.vars := rfl
@[simp] theorem State.modDom_cmds (s : State) (x : Nat) (f : PtpDomain → PtpDomain) : (s.modDom x f).cmds = s.cmds := rfl
@[simp] theorem State.modDom_arb (s : State) (x : Nat) (f : PtpDomain → PtpDomain) : (s.modDom x f).arb = s.arb := rfl
@[simp] theorem State.modDom_safety (s : State) (x : Nat) (f : PtpDomain → PtpDomain) : (s.modDom x f).safety = s.safety := rfl
@[simp] theorem State.modDom_flows (s : State) (x : Nat) (f : PtpDomain → PtpDomain) : (s.modDom x f).flows = s.flows := rfl
@[simp] theorem State.modDom_dict (s : State) (x : Nat) (f : PtpDomain → PtpDomain) : (s.modDom x f).dict = s.dict := rfl
@[simp] theorem State.modDom_persist (s : State) (x : Nat) (f : PtpDomain → PtpDomain) : (s.modDom x f).persist = s.persist := rfl

@[simp] theorem State.modCan_pending (s : State) (n : Nat) (f : CanCtl → CanCtl) : (s.modCan n f).pending = s.pending := rfl
@[simp] theorem State.modCan_regs (s : State) (n : Nat) (f : CanCtl → CanCtl) : (s.modCan n f).regs = s.regs := rfl
@[simp] theorem State.modCan_copies (s : State) (n : Nat) (f : CanCtl → CanCtl) : (s.modCan n f).copies = s.copies := rfl
@[simp] theorem State.modCan_mem (s : State) (n : Nat) (f : CanCtl → CanCtl) : (s.modCan n f).mem = s.mem := rfl
@[simp] theorem State.modCan_out (s : State) (n : Nat) (f : CanCtl → CanCtl) : (s.modCan n f).out = s.out := rfl
@[simp] theorem State.modCan_freeCnt (s : State) (n : Nat) (f : CanCtl → CanCtl) : (s.modCan n f).freeCnt = s.freeCnt := rfl
@[simp] theorem State.modCan_linkEnds (s : State) (n : Nat) (f : CanCtl → CanCtl) : (s.modCan n f).linkEnds = s.linkEnds := rfl
@[simp] theorem State.modCan_rsBlocks (s : State) (n : Nat) (f : CanCtl → CanCtl) : (s.modCan n f).rsBlocks = s.rsBlocks := rfl
@[simp] theorem State.modCan_plls (s : State) (n : Nat) (f : CanCtl → CanCtl) : (s.modCan n f).plls = s.plls := rfl
@[simp] theorem State.modCan_hops (s : State) (n : Nat) (f : CanCtl → CanCtl) : (s.modCan n f).hops = s.hops := rfl
@[simp] theorem State.modCan_groups (s : State) (n : Nat) (f : CanCtl → CanCtl) : (s.modCan n f).groups = s.groups := rfl
@[simp] theorem State.modCan_ports (s : State) (n : Nat) (f : CanCtl → CanCtl) : (s.modCan n f).ports = s.ports := rfl
@[simp] theorem State.modCan_tgs (s : State) (n : Nat) (f : CanCtl → CanCtl) : (s.modCan n f).tgs = s.tgs := rfl
@[simp] theorem State.modCan_drives (s : State) (n : Nat) (f : CanCtl → CanCtl) : (s.modCan n f).drives = s.drives := rfl
@[simp] theorem State.modCan_adcs (s : State) (n : Nat) (f : CanCtl → CanCtl) : (s.modCan n f).adcs = s.adcs := rfl
@[simp] theorem State.modCan_cmps (s : State) (n : Nat) (f : CanCtl → CanCtl) : (s.modCan n f).cmps = s.cmps := rfl
@[simp] theorem State.modCan_pis (s : State) (n : Nat) (f : CanCtl → CanCtl) : (s.modCan n f).pis = s.pis := rfl
@[simp] theorem State.modCan_cles (s : State) (n : Nat) (f : CanCtl → CanCtl) : (s.modCan n f).cles = s.cles := rfl
@[simp] theorem State.modCan_life (s : State) (n : Nat) (f : CanCtl → CanCtl) : (s.modCan n f).life = s.life := rfl
@[simp] theorem State.modCan_sys (s : State) (n : Nat) (f : CanCtl → CanCtl) : (s.modCan n f).sys = s.sys := rfl
@[simp] theorem State.modCan_power (s : State) (n : Nat) (f : CanCtl → CanCtl) : (s.modCan n f).power = s.power := rfl
@[simp] theorem State.modCan_keeper (s : State) (n : Nat) (f : CanCtl → CanCtl) : (s.modCan n f).keeper = s.keeper := rfl
@[simp] theorem State.modCan_grids (s : State) (n : Nat) (f : CanCtl → CanCtl) : (s.modCan n f).grids = s.grids := rfl
@[simp] theorem State.modCan_gridS (s : State) (n : Nat) (f : CanCtl → CanCtl) : (s.modCan n f).gridS = s.gridS := rfl
@[simp] theorem State.modCan_cycles (s : State) (n : Nat) (f : CanCtl → CanCtl) : (s.modCan n f).cycles = s.cycles := rfl
@[simp] theorem State.modCan_crcs (s : State) (n : Nat) (f : CanCtl → CanCtl) : (s.modCan n f).crcs = s.crcs := rfl
@[simp] theorem State.modCan_acts (s : State) (n : Nat) (f : CanCtl → CanCtl) : (s.modCan n f).acts = s.acts := rfl
@[simp] theorem State.modCan_maintSeq (s : State) (n : Nat) (f : CanCtl → CanCtl) : (s.modCan n f).maintSeq = s.maintSeq := rfl
@[simp] theorem State.modCan_meters (s : State) (n : Nat) (f : CanCtl → CanCtl) : (s.modCan n f).meters = s.meters := rfl
@[simp] theorem State.modCan_vars (s : State) (n : Nat) (f : CanCtl → CanCtl) : (s.modCan n f).vars = s.vars := rfl
@[simp] theorem State.modCan_cmds (s : State) (n : Nat) (f : CanCtl → CanCtl) : (s.modCan n f).cmds = s.cmds := rfl
@[simp] theorem State.modCan_arb (s : State) (n : Nat) (f : CanCtl → CanCtl) : (s.modCan n f).arb = s.arb := rfl
@[simp] theorem State.modCan_safety (s : State) (n : Nat) (f : CanCtl → CanCtl) : (s.modCan n f).safety = s.safety := rfl
@[simp] theorem State.modCan_flows (s : State) (n : Nat) (f : CanCtl → CanCtl) : (s.modCan n f).flows = s.flows := rfl
@[simp] theorem State.modCan_dict (s : State) (n : Nat) (f : CanCtl → CanCtl) : (s.modCan n f).dict = s.dict := rfl
@[simp] theorem State.modCan_persist (s : State) (n : Nat) (f : CanCtl → CanCtl) : (s.modCan n f).persist = s.persist := rfl

@[simp] theorem State.modFlow_pending (s : State) (f : Nat) (g : FlowCtx → FlowCtx) : (s.modFlow f g).pending = s.pending := rfl
@[simp] theorem State.modFlow_regs (s : State) (f : Nat) (g : FlowCtx → FlowCtx) : (s.modFlow f g).regs = s.regs := rfl
@[simp] theorem State.modFlow_copies (s : State) (f : Nat) (g : FlowCtx → FlowCtx) : (s.modFlow f g).copies = s.copies := rfl
@[simp] theorem State.modFlow_mem (s : State) (f : Nat) (g : FlowCtx → FlowCtx) : (s.modFlow f g).mem = s.mem := rfl
@[simp] theorem State.modFlow_out (s : State) (f : Nat) (g : FlowCtx → FlowCtx) : (s.modFlow f g).out = s.out := rfl
@[simp] theorem State.modFlow_freeCnt (s : State) (f : Nat) (g : FlowCtx → FlowCtx) : (s.modFlow f g).freeCnt = s.freeCnt := rfl
@[simp] theorem State.modFlow_linkEnds (s : State) (f : Nat) (g : FlowCtx → FlowCtx) : (s.modFlow f g).linkEnds = s.linkEnds := rfl
@[simp] theorem State.modFlow_rsBlocks (s : State) (f : Nat) (g : FlowCtx → FlowCtx) : (s.modFlow f g).rsBlocks = s.rsBlocks := rfl
@[simp] theorem State.modFlow_plls (s : State) (f : Nat) (g : FlowCtx → FlowCtx) : (s.modFlow f g).plls = s.plls := rfl
@[simp] theorem State.modFlow_hops (s : State) (f : Nat) (g : FlowCtx → FlowCtx) : (s.modFlow f g).hops = s.hops := rfl
@[simp] theorem State.modFlow_groups (s : State) (f : Nat) (g : FlowCtx → FlowCtx) : (s.modFlow f g).groups = s.groups := rfl
@[simp] theorem State.modFlow_ports (s : State) (f : Nat) (g : FlowCtx → FlowCtx) : (s.modFlow f g).ports = s.ports := rfl
@[simp] theorem State.modFlow_tgs (s : State) (f : Nat) (g : FlowCtx → FlowCtx) : (s.modFlow f g).tgs = s.tgs := rfl
@[simp] theorem State.modFlow_drives (s : State) (f : Nat) (g : FlowCtx → FlowCtx) : (s.modFlow f g).drives = s.drives := rfl
@[simp] theorem State.modFlow_adcs (s : State) (f : Nat) (g : FlowCtx → FlowCtx) : (s.modFlow f g).adcs = s.adcs := rfl
@[simp] theorem State.modFlow_cmps (s : State) (f : Nat) (g : FlowCtx → FlowCtx) : (s.modFlow f g).cmps = s.cmps := rfl
@[simp] theorem State.modFlow_pis (s : State) (f : Nat) (g : FlowCtx → FlowCtx) : (s.modFlow f g).pis = s.pis := rfl
@[simp] theorem State.modFlow_cles (s : State) (f : Nat) (g : FlowCtx → FlowCtx) : (s.modFlow f g).cles = s.cles := rfl
@[simp] theorem State.modFlow_life (s : State) (f : Nat) (g : FlowCtx → FlowCtx) : (s.modFlow f g).life = s.life := rfl
@[simp] theorem State.modFlow_sys (s : State) (f : Nat) (g : FlowCtx → FlowCtx) : (s.modFlow f g).sys = s.sys := rfl
@[simp] theorem State.modFlow_power (s : State) (f : Nat) (g : FlowCtx → FlowCtx) : (s.modFlow f g).power = s.power := rfl
@[simp] theorem State.modFlow_keeper (s : State) (f : Nat) (g : FlowCtx → FlowCtx) : (s.modFlow f g).keeper = s.keeper := rfl
@[simp] theorem State.modFlow_grids (s : State) (f : Nat) (g : FlowCtx → FlowCtx) : (s.modFlow f g).grids = s.grids := rfl
@[simp] theorem State.modFlow_gridS (s : State) (f : Nat) (g : FlowCtx → FlowCtx) : (s.modFlow f g).gridS = s.gridS := rfl
@[simp] theorem State.modFlow_cycles (s : State) (f : Nat) (g : FlowCtx → FlowCtx) : (s.modFlow f g).cycles = s.cycles := rfl
@[simp] theorem State.modFlow_crcs (s : State) (f : Nat) (g : FlowCtx → FlowCtx) : (s.modFlow f g).crcs = s.crcs := rfl
@[simp] theorem State.modFlow_acts (s : State) (f : Nat) (g : FlowCtx → FlowCtx) : (s.modFlow f g).acts = s.acts := rfl
@[simp] theorem State.modFlow_maintSeq (s : State) (f : Nat) (g : FlowCtx → FlowCtx) : (s.modFlow f g).maintSeq = s.maintSeq := rfl
@[simp] theorem State.modFlow_meters (s : State) (f : Nat) (g : FlowCtx → FlowCtx) : (s.modFlow f g).meters = s.meters := rfl
@[simp] theorem State.modFlow_vars (s : State) (f : Nat) (g : FlowCtx → FlowCtx) : (s.modFlow f g).vars = s.vars := rfl
@[simp] theorem State.modFlow_cmds (s : State) (f : Nat) (g : FlowCtx → FlowCtx) : (s.modFlow f g).cmds = s.cmds := rfl
@[simp] theorem State.modFlow_arb (s : State) (f : Nat) (g : FlowCtx → FlowCtx) : (s.modFlow f g).arb = s.arb := rfl
@[simp] theorem State.modFlow_safety (s : State) (f : Nat) (g : FlowCtx → FlowCtx) : (s.modFlow f g).safety = s.safety := rfl
@[simp] theorem State.modFlow_net (s : State) (f : Nat) (g : FlowCtx → FlowCtx) : (s.modFlow f g).net = s.net := rfl
@[simp] theorem State.modFlow_dict (s : State) (f : Nat) (g : FlowCtx → FlowCtx) : (s.modFlow f g).dict = s.dict := rfl
@[simp] theorem State.modFlow_persist (s : State) (f : Nat) (g : FlowCtx → FlowCtx) : (s.modFlow f g).persist = s.persist := rfl
@[simp] theorem State.modFlow_flows (s : State) (f : Nat) (g : FlowCtx → FlowCtx) : (s.modFlow f g).flows = vmod s.flows f g := rfl

@[simp] theorem State.modDict_pending (s : State) (f : Dict → Dict) : (s.modDict f).pending = s.pending := rfl
@[simp] theorem State.modDict_regs (s : State) (f : Dict → Dict) : (s.modDict f).regs = s.regs := rfl
@[simp] theorem State.modDict_copies (s : State) (f : Dict → Dict) : (s.modDict f).copies = s.copies := rfl
@[simp] theorem State.modDict_mem (s : State) (f : Dict → Dict) : (s.modDict f).mem = s.mem := rfl
@[simp] theorem State.modDict_out (s : State) (f : Dict → Dict) : (s.modDict f).out = s.out := rfl
@[simp] theorem State.modDict_freeCnt (s : State) (f : Dict → Dict) : (s.modDict f).freeCnt = s.freeCnt := rfl
@[simp] theorem State.modDict_linkEnds (s : State) (f : Dict → Dict) : (s.modDict f).linkEnds = s.linkEnds := rfl
@[simp] theorem State.modDict_rsBlocks (s : State) (f : Dict → Dict) : (s.modDict f).rsBlocks = s.rsBlocks := rfl
@[simp] theorem State.modDict_plls (s : State) (f : Dict → Dict) : (s.modDict f).plls = s.plls := rfl
@[simp] theorem State.modDict_hops (s : State) (f : Dict → Dict) : (s.modDict f).hops = s.hops := rfl
@[simp] theorem State.modDict_groups (s : State) (f : Dict → Dict) : (s.modDict f).groups = s.groups := rfl
@[simp] theorem State.modDict_ports (s : State) (f : Dict → Dict) : (s.modDict f).ports = s.ports := rfl
@[simp] theorem State.modDict_tgs (s : State) (f : Dict → Dict) : (s.modDict f).tgs = s.tgs := rfl
@[simp] theorem State.modDict_drives (s : State) (f : Dict → Dict) : (s.modDict f).drives = s.drives := rfl
@[simp] theorem State.modDict_adcs (s : State) (f : Dict → Dict) : (s.modDict f).adcs = s.adcs := rfl
@[simp] theorem State.modDict_cmps (s : State) (f : Dict → Dict) : (s.modDict f).cmps = s.cmps := rfl
@[simp] theorem State.modDict_pis (s : State) (f : Dict → Dict) : (s.modDict f).pis = s.pis := rfl
@[simp] theorem State.modDict_cles (s : State) (f : Dict → Dict) : (s.modDict f).cles = s.cles := rfl
@[simp] theorem State.modDict_life (s : State) (f : Dict → Dict) : (s.modDict f).life = s.life := rfl
@[simp] theorem State.modDict_sys (s : State) (f : Dict → Dict) : (s.modDict f).sys = s.sys := rfl
@[simp] theorem State.modDict_power (s : State) (f : Dict → Dict) : (s.modDict f).power = s.power := rfl
@[simp] theorem State.modDict_keeper (s : State) (f : Dict → Dict) : (s.modDict f).keeper = s.keeper := rfl
@[simp] theorem State.modDict_grids (s : State) (f : Dict → Dict) : (s.modDict f).grids = s.grids := rfl
@[simp] theorem State.modDict_gridS (s : State) (f : Dict → Dict) : (s.modDict f).gridS = s.gridS := rfl
@[simp] theorem State.modDict_cycles (s : State) (f : Dict → Dict) : (s.modDict f).cycles = s.cycles := rfl
@[simp] theorem State.modDict_crcs (s : State) (f : Dict → Dict) : (s.modDict f).crcs = s.crcs := rfl
@[simp] theorem State.modDict_acts (s : State) (f : Dict → Dict) : (s.modDict f).acts = s.acts := rfl
@[simp] theorem State.modDict_maintSeq (s : State) (f : Dict → Dict) : (s.modDict f).maintSeq = s.maintSeq := rfl
@[simp] theorem State.modDict_meters (s : State) (f : Dict → Dict) : (s.modDict f).meters = s.meters := rfl
@[simp] theorem State.modDict_vars (s : State) (f : Dict → Dict) : (s.modDict f).vars = s.vars := rfl
@[simp] theorem State.modDict_cmds (s : State) (f : Dict → Dict) : (s.modDict f).cmds = s.cmds := rfl
@[simp] theorem State.modDict_arb (s : State) (f : Dict → Dict) : (s.modDict f).arb = s.arb := rfl
@[simp] theorem State.modDict_safety (s : State) (f : Dict → Dict) : (s.modDict f).safety = s.safety := rfl
@[simp] theorem State.modDict_net (s : State) (f : Dict → Dict) : (s.modDict f).net = s.net := rfl
@[simp] theorem State.modDict_flows (s : State) (f : Dict → Dict) : (s.modDict f).flows = s.flows := rfl
@[simp] theorem State.modDict_persist (s : State) (f : Dict → Dict) : (s.modDict f).persist = s.persist := rfl
@[simp] theorem State.modDict_dict (s : State) (f : Dict → Dict) : (s.modDict f).dict = f s.dict := rfl

@[simp] theorem State.modKeeper_pending (s : State) (f : Keeper → Keeper) : (s.modKeeper f).pending = s.pending := rfl
@[simp] theorem State.modKeeper_regs (s : State) (f : Keeper → Keeper) : (s.modKeeper f).regs = s.regs := rfl
@[simp] theorem State.modKeeper_copies (s : State) (f : Keeper → Keeper) : (s.modKeeper f).copies = s.copies := rfl
@[simp] theorem State.modKeeper_mem (s : State) (f : Keeper → Keeper) : (s.modKeeper f).mem = s.mem := rfl
@[simp] theorem State.modKeeper_out (s : State) (f : Keeper → Keeper) : (s.modKeeper f).out = s.out := rfl
@[simp] theorem State.modKeeper_freeCnt (s : State) (f : Keeper → Keeper) : (s.modKeeper f).freeCnt = s.freeCnt := rfl
@[simp] theorem State.modKeeper_linkEnds (s : State) (f : Keeper → Keeper) : (s.modKeeper f).linkEnds = s.linkEnds := rfl
@[simp] theorem State.modKeeper_rsBlocks (s : State) (f : Keeper → Keeper) : (s.modKeeper f).rsBlocks = s.rsBlocks := rfl
@[simp] theorem State.modKeeper_plls (s : State) (f : Keeper → Keeper) : (s.modKeeper f).plls = s.plls := rfl
@[simp] theorem State.modKeeper_hops (s : State) (f : Keeper → Keeper) : (s.modKeeper f).hops = s.hops := rfl
@[simp] theorem State.modKeeper_groups (s : State) (f : Keeper → Keeper) : (s.modKeeper f).groups = s.groups := rfl
@[simp] theorem State.modKeeper_ports (s : State) (f : Keeper → Keeper) : (s.modKeeper f).ports = s.ports := rfl
@[simp] theorem State.modKeeper_tgs (s : State) (f : Keeper → Keeper) : (s.modKeeper f).tgs = s.tgs := rfl
@[simp] theorem State.modKeeper_drives (s : State) (f : Keeper → Keeper) : (s.modKeeper f).drives = s.drives := rfl
@[simp] theorem State.modKeeper_adcs (s : State) (f : Keeper → Keeper) : (s.modKeeper f).adcs = s.adcs := rfl
@[simp] theorem State.modKeeper_cmps (s : State) (f : Keeper → Keeper) : (s.modKeeper f).cmps = s.cmps := rfl
@[simp] theorem State.modKeeper_pis (s : State) (f : Keeper → Keeper) : (s.modKeeper f).pis = s.pis := rfl
@[simp] theorem State.modKeeper_cles (s : State) (f : Keeper → Keeper) : (s.modKeeper f).cles = s.cles := rfl
@[simp] theorem State.modKeeper_life (s : State) (f : Keeper → Keeper) : (s.modKeeper f).life = s.life := rfl
@[simp] theorem State.modKeeper_sys (s : State) (f : Keeper → Keeper) : (s.modKeeper f).sys = s.sys := rfl
@[simp] theorem State.modKeeper_power (s : State) (f : Keeper → Keeper) : (s.modKeeper f).power = s.power := rfl
@[simp] theorem State.modKeeper_grids (s : State) (f : Keeper → Keeper) : (s.modKeeper f).grids = s.grids := rfl
@[simp] theorem State.modKeeper_gridS (s : State) (f : Keeper → Keeper) : (s.modKeeper f).gridS = s.gridS := rfl
@[simp] theorem State.modKeeper_cycles (s : State) (f : Keeper → Keeper) : (s.modKeeper f).cycles = s.cycles := rfl
@[simp] theorem State.modKeeper_crcs (s : State) (f : Keeper → Keeper) : (s.modKeeper f).crcs = s.crcs := rfl
@[simp] theorem State.modKeeper_acts (s : State) (f : Keeper → Keeper) : (s.modKeeper f).acts = s.acts := rfl
@[simp] theorem State.modKeeper_maintSeq (s : State) (f : Keeper → Keeper) : (s.modKeeper f).maintSeq = s.maintSeq := rfl
@[simp] theorem State.modKeeper_meters (s : State) (f : Keeper → Keeper) : (s.modKeeper f).meters = s.meters := rfl
@[simp] theorem State.modKeeper_vars (s : State) (f : Keeper → Keeper) : (s.modKeeper f).vars = s.vars := rfl
@[simp] theorem State.modKeeper_cmds (s : State) (f : Keeper → Keeper) : (s.modKeeper f).cmds = s.cmds := rfl
@[simp] theorem State.modKeeper_arb (s : State) (f : Keeper → Keeper) : (s.modKeeper f).arb = s.arb := rfl
@[simp] theorem State.modKeeper_safety (s : State) (f : Keeper → Keeper) : (s.modKeeper f).safety = s.safety := rfl
@[simp] theorem State.modKeeper_net (s : State) (f : Keeper → Keeper) : (s.modKeeper f).net = s.net := rfl
@[simp] theorem State.modKeeper_flows (s : State) (f : Keeper → Keeper) : (s.modKeeper f).flows = s.flows := rfl
@[simp] theorem State.modKeeper_dict (s : State) (f : Keeper → Keeper) : (s.modKeeper f).dict = s.dict := rfl
@[simp] theorem State.modKeeper_persist (s : State) (f : Keeper → Keeper) : (s.modKeeper f).persist = s.persist := rfl
@[simp] theorem State.modKeeper_keeper (s : State) (f : Keeper → Keeper) : (s.modKeeper f).keeper = f s.keeper := rfl

@[simp] theorem State.modLife_pending (s : State) (f : Life → Life) : (s.modLife f).pending = s.pending := rfl
@[simp] theorem State.modLife_regs (s : State) (f : Life → Life) : (s.modLife f).regs = s.regs := rfl
@[simp] theorem State.modLife_copies (s : State) (f : Life → Life) : (s.modLife f).copies = s.copies := rfl
@[simp] theorem State.modLife_mem (s : State) (f : Life → Life) : (s.modLife f).mem = s.mem := rfl
@[simp] theorem State.modLife_out (s : State) (f : Life → Life) : (s.modLife f).out = s.out := rfl
@[simp] theorem State.modLife_freeCnt (s : State) (f : Life → Life) : (s.modLife f).freeCnt = s.freeCnt := rfl
@[simp] theorem State.modLife_linkEnds (s : State) (f : Life → Life) : (s.modLife f).linkEnds = s.linkEnds := rfl
@[simp] theorem State.modLife_rsBlocks (s : State) (f : Life → Life) : (s.modLife f).rsBlocks = s.rsBlocks := rfl
@[simp] theorem State.modLife_plls (s : State) (f : Life → Life) : (s.modLife f).plls = s.plls := rfl
@[simp] theorem State.modLife_hops (s : State) (f : Life → Life) : (s.modLife f).hops = s.hops := rfl
@[simp] theorem State.modLife_groups (s : State) (f : Life → Life) : (s.modLife f).groups = s.groups := rfl
@[simp] theorem State.modLife_ports (s : State) (f : Life → Life) : (s.modLife f).ports = s.ports := rfl
@[simp] theorem State.modLife_tgs (s : State) (f : Life → Life) : (s.modLife f).tgs = s.tgs := rfl
@[simp] theorem State.modLife_drives (s : State) (f : Life → Life) : (s.modLife f).drives = s.drives := rfl
@[simp] theorem State.modLife_adcs (s : State) (f : Life → Life) : (s.modLife f).adcs = s.adcs := rfl
@[simp] theorem State.modLife_cmps (s : State) (f : Life → Life) : (s.modLife f).cmps = s.cmps := rfl
@[simp] theorem State.modLife_pis (s : State) (f : Life → Life) : (s.modLife f).pis = s.pis := rfl
@[simp] theorem State.modLife_cles (s : State) (f : Life → Life) : (s.modLife f).cles = s.cles := rfl
@[simp] theorem State.modLife_sys (s : State) (f : Life → Life) : (s.modLife f).sys = s.sys := rfl
@[simp] theorem State.modLife_power (s : State) (f : Life → Life) : (s.modLife f).power = s.power := rfl
@[simp] theorem State.modLife_keeper (s : State) (f : Life → Life) : (s.modLife f).keeper = s.keeper := rfl
@[simp] theorem State.modLife_grids (s : State) (f : Life → Life) : (s.modLife f).grids = s.grids := rfl
@[simp] theorem State.modLife_gridS (s : State) (f : Life → Life) : (s.modLife f).gridS = s.gridS := rfl
@[simp] theorem State.modLife_cycles (s : State) (f : Life → Life) : (s.modLife f).cycles = s.cycles := rfl
@[simp] theorem State.modLife_crcs (s : State) (f : Life → Life) : (s.modLife f).crcs = s.crcs := rfl
@[simp] theorem State.modLife_acts (s : State) (f : Life → Life) : (s.modLife f).acts = s.acts := rfl
@[simp] theorem State.modLife_maintSeq (s : State) (f : Life → Life) : (s.modLife f).maintSeq = s.maintSeq := rfl
@[simp] theorem State.modLife_meters (s : State) (f : Life → Life) : (s.modLife f).meters = s.meters := rfl
@[simp] theorem State.modLife_vars (s : State) (f : Life → Life) : (s.modLife f).vars = s.vars := rfl
@[simp] theorem State.modLife_cmds (s : State) (f : Life → Life) : (s.modLife f).cmds = s.cmds := rfl
@[simp] theorem State.modLife_arb (s : State) (f : Life → Life) : (s.modLife f).arb = s.arb := rfl
@[simp] theorem State.modLife_safety (s : State) (f : Life → Life) : (s.modLife f).safety = s.safety := rfl
@[simp] theorem State.modLife_net (s : State) (f : Life → Life) : (s.modLife f).net = s.net := rfl
@[simp] theorem State.modLife_flows (s : State) (f : Life → Life) : (s.modLife f).flows = s.flows := rfl
@[simp] theorem State.modLife_dict (s : State) (f : Life → Life) : (s.modLife f).dict = s.dict := rfl
@[simp] theorem State.modLife_persist (s : State) (f : Life → Life) : (s.modLife f).persist = s.persist := rfl
@[simp] theorem State.modLife_life (s : State) (f : Life → Life) : (s.modLife f).life = f s.life := rfl

@[simp] theorem State.modCopies_pending (s : State) (r : Nat) (f : RegionCopies → RegionCopies) : (s.modCopies r f).pending = s.pending := rfl
@[simp] theorem State.modCopies_regs (s : State) (r : Nat) (f : RegionCopies → RegionCopies) : (s.modCopies r f).regs = s.regs := rfl
@[simp] theorem State.modCopies_copies (s : State) (r : Nat) (f : RegionCopies → RegionCopies) : (s.modCopies r f).copies = s.copies := rfl
@[simp] theorem State.modCopies_mem (s : State) (r : Nat) (f : RegionCopies → RegionCopies) : (s.modCopies r f).mem = s.mem := rfl
@[simp] theorem State.modCopies_out (s : State) (r : Nat) (f : RegionCopies → RegionCopies) : (s.modCopies r f).out = s.out := rfl
@[simp] theorem State.modCopies_freeCnt (s : State) (r : Nat) (f : RegionCopies → RegionCopies) : (s.modCopies r f).freeCnt = s.freeCnt := rfl
@[simp] theorem State.modCopies_linkEnds (s : State) (r : Nat) (f : RegionCopies → RegionCopies) : (s.modCopies r f).linkEnds = s.linkEnds := rfl
@[simp] theorem State.modCopies_rsBlocks (s : State) (r : Nat) (f : RegionCopies → RegionCopies) : (s.modCopies r f).rsBlocks = s.rsBlocks := rfl
@[simp] theorem State.modCopies_plls (s : State) (r : Nat) (f : RegionCopies → RegionCopies) : (s.modCopies r f).plls = s.plls := rfl
@[simp] theorem State.modCopies_hops (s : State) (r : Nat) (f : RegionCopies → RegionCopies) : (s.modCopies r f).hops = s.hops := rfl
@[simp] theorem State.modCopies_groups (s : State) (r : Nat) (f : RegionCopies → RegionCopies) : (s.modCopies r f).groups = s.groups := rfl
@[simp] theorem State.modCopies_ports (s : State) (r : Nat) (f : RegionCopies → RegionCopies) : (s.modCopies r f).ports = s.ports := rfl
@[simp] theorem State.modCopies_tgs (s : State) (r : Nat) (f : RegionCopies → RegionCopies) : (s.modCopies r f).tgs = s.tgs := rfl
@[simp] theorem State.modCopies_drives (s : State) (r : Nat) (f : RegionCopies → RegionCopies) : (s.modCopies r f).drives = s.drives := rfl
@[simp] theorem State.modCopies_adcs (s : State) (r : Nat) (f : RegionCopies → RegionCopies) : (s.modCopies r f).adcs = s.adcs := rfl
@[simp] theorem State.modCopies_cmps (s : State) (r : Nat) (f : RegionCopies → RegionCopies) : (s.modCopies r f).cmps = s.cmps := rfl
@[simp] theorem State.modCopies_pis (s : State) (r : Nat) (f : RegionCopies → RegionCopies) : (s.modCopies r f).pis = s.pis := rfl
@[simp] theorem State.modCopies_cles (s : State) (r : Nat) (f : RegionCopies → RegionCopies) : (s.modCopies r f).cles = s.cles := rfl
@[simp] theorem State.modCopies_life (s : State) (r : Nat) (f : RegionCopies → RegionCopies) : (s.modCopies r f).life = s.life := rfl
@[simp] theorem State.modCopies_sys (s : State) (r : Nat) (f : RegionCopies → RegionCopies) : (s.modCopies r f).sys = s.sys := rfl
@[simp] theorem State.modCopies_power (s : State) (r : Nat) (f : RegionCopies → RegionCopies) : (s.modCopies r f).power = s.power := rfl
@[simp] theorem State.modCopies_grids (s : State) (r : Nat) (f : RegionCopies → RegionCopies) : (s.modCopies r f).grids = s.grids := rfl
@[simp] theorem State.modCopies_gridS (s : State) (r : Nat) (f : RegionCopies → RegionCopies) : (s.modCopies r f).gridS = s.gridS := rfl
@[simp] theorem State.modCopies_cycles (s : State) (r : Nat) (f : RegionCopies → RegionCopies) : (s.modCopies r f).cycles = s.cycles := rfl
@[simp] theorem State.modCopies_crcs (s : State) (r : Nat) (f : RegionCopies → RegionCopies) : (s.modCopies r f).crcs = s.crcs := rfl
@[simp] theorem State.modCopies_acts (s : State) (r : Nat) (f : RegionCopies → RegionCopies) : (s.modCopies r f).acts = s.acts := rfl
@[simp] theorem State.modCopies_maintSeq (s : State) (r : Nat) (f : RegionCopies → RegionCopies) : (s.modCopies r f).maintSeq = s.maintSeq := rfl
@[simp] theorem State.modCopies_meters (s : State) (r : Nat) (f : RegionCopies → RegionCopies) : (s.modCopies r f).meters = s.meters := rfl
@[simp] theorem State.modCopies_vars (s : State) (r : Nat) (f : RegionCopies → RegionCopies) : (s.modCopies r f).vars = s.vars := rfl
@[simp] theorem State.modCopies_cmds (s : State) (r : Nat) (f : RegionCopies → RegionCopies) : (s.modCopies r f).cmds = s.cmds := rfl
@[simp] theorem State.modCopies_arb (s : State) (r : Nat) (f : RegionCopies → RegionCopies) : (s.modCopies r f).arb = s.arb := rfl
@[simp] theorem State.modCopies_safety (s : State) (r : Nat) (f : RegionCopies → RegionCopies) : (s.modCopies r f).safety = s.safety := rfl
@[simp] theorem State.modCopies_net (s : State) (r : Nat) (f : RegionCopies → RegionCopies) : (s.modCopies r f).net = s.net := rfl
@[simp] theorem State.modCopies_flows (s : State) (r : Nat) (f : RegionCopies → RegionCopies) : (s.modCopies r f).flows = s.flows := rfl
@[simp] theorem State.modCopies_dict (s : State) (r : Nat) (f : RegionCopies → RegionCopies) : (s.modCopies r f).dict = s.dict := rfl
@[simp] theorem State.modCopies_persist (s : State) (r : Nat) (f : RegionCopies → RegionCopies) : (s.modCopies r f).persist = s.persist := rfl

@[simp] theorem State.modPll_pending (s : State) (e : Die) (f : Pll → Pll) : (s.modPll e f).pending = s.pending := rfl
@[simp] theorem State.modPll_regs (s : State) (e : Die) (f : Pll → Pll) : (s.modPll e f).regs = s.regs := rfl
@[simp] theorem State.modPll_copies (s : State) (e : Die) (f : Pll → Pll) : (s.modPll e f).copies = s.copies := rfl
@[simp] theorem State.modPll_mem (s : State) (e : Die) (f : Pll → Pll) : (s.modPll e f).mem = s.mem := rfl
@[simp] theorem State.modPll_out (s : State) (e : Die) (f : Pll → Pll) : (s.modPll e f).out = s.out := rfl
@[simp] theorem State.modPll_freeCnt (s : State) (e : Die) (f : Pll → Pll) : (s.modPll e f).freeCnt = s.freeCnt := rfl
@[simp] theorem State.modPll_linkEnds (s : State) (e : Die) (f : Pll → Pll) : (s.modPll e f).linkEnds = s.linkEnds := rfl
@[simp] theorem State.modPll_rsBlocks (s : State) (e : Die) (f : Pll → Pll) : (s.modPll e f).rsBlocks = s.rsBlocks := rfl
@[simp] theorem State.modPll_hops (s : State) (e : Die) (f : Pll → Pll) : (s.modPll e f).hops = s.hops := rfl
@[simp] theorem State.modPll_groups (s : State) (e : Die) (f : Pll → Pll) : (s.modPll e f).groups = s.groups := rfl
@[simp] theorem State.modPll_ports (s : State) (e : Die) (f : Pll → Pll) : (s.modPll e f).ports = s.ports := rfl
@[simp] theorem State.modPll_tgs (s : State) (e : Die) (f : Pll → Pll) : (s.modPll e f).tgs = s.tgs := rfl
@[simp] theorem State.modPll_drives (s : State) (e : Die) (f : Pll → Pll) : (s.modPll e f).drives = s.drives := rfl
@[simp] theorem State.modPll_adcs (s : State) (e : Die) (f : Pll → Pll) : (s.modPll e f).adcs = s.adcs := rfl
@[simp] theorem State.modPll_cmps (s : State) (e : Die) (f : Pll → Pll) : (s.modPll e f).cmps = s.cmps := rfl
@[simp] theorem State.modPll_pis (s : State) (e : Die) (f : Pll → Pll) : (s.modPll e f).pis = s.pis := rfl
@[simp] theorem State.modPll_cles (s : State) (e : Die) (f : Pll → Pll) : (s.modPll e f).cles = s.cles := rfl
@[simp] theorem State.modPll_life (s : State) (e : Die) (f : Pll → Pll) : (s.modPll e f).life = s.life := rfl
@[simp] theorem State.modPll_sys (s : State) (e : Die) (f : Pll → Pll) : (s.modPll e f).sys = s.sys := rfl
@[simp] theorem State.modPll_power (s : State) (e : Die) (f : Pll → Pll) : (s.modPll e f).power = s.power := rfl
@[simp] theorem State.modPll_keeper (s : State) (e : Die) (f : Pll → Pll) : (s.modPll e f).keeper = s.keeper := rfl
@[simp] theorem State.modPll_grids (s : State) (e : Die) (f : Pll → Pll) : (s.modPll e f).grids = s.grids := rfl
@[simp] theorem State.modPll_gridS (s : State) (e : Die) (f : Pll → Pll) : (s.modPll e f).gridS = s.gridS := rfl
@[simp] theorem State.modPll_cycles (s : State) (e : Die) (f : Pll → Pll) : (s.modPll e f).cycles = s.cycles := rfl
@[simp] theorem State.modPll_crcs (s : State) (e : Die) (f : Pll → Pll) : (s.modPll e f).crcs = s.crcs := rfl
@[simp] theorem State.modPll_acts (s : State) (e : Die) (f : Pll → Pll) : (s.modPll e f).acts = s.acts := rfl
@[simp] theorem State.modPll_maintSeq (s : State) (e : Die) (f : Pll → Pll) : (s.modPll e f).maintSeq = s.maintSeq := rfl
@[simp] theorem State.modPll_meters (s : State) (e : Die) (f : Pll → Pll) : (s.modPll e f).meters = s.meters := rfl
@[simp] theorem State.modPll_vars (s : State) (e : Die) (f : Pll → Pll) : (s.modPll e f).vars = s.vars := rfl
@[simp] theorem State.modPll_cmds (s : State) (e : Die) (f : Pll → Pll) : (s.modPll e f).cmds = s.cmds := rfl
@[simp] theorem State.modPll_arb (s : State) (e : Die) (f : Pll → Pll) : (s.modPll e f).arb = s.arb := rfl
@[simp] theorem State.modPll_safety (s : State) (e : Die) (f : Pll → Pll) : (s.modPll e f).safety = s.safety := rfl
@[simp] theorem State.modPll_net (s : State) (e : Die) (f : Pll → Pll) : (s.modPll e f).net = s.net := rfl
@[simp] theorem State.modPll_flows (s : State) (e : Die) (f : Pll → Pll) : (s.modPll e f).flows = s.flows := rfl
@[simp] theorem State.modPll_dict (s : State) (e : Die) (f : Pll → Pll) : (s.modPll e f).dict = s.dict := rfl
@[simp] theorem State.modPll_persist (s : State) (e : Die) (f : Pll → Pll) : (s.modPll e f).persist = s.persist := rfl
@[simp] theorem State.modPll_plls (s : State) (e : Die) (f : Pll → Pll) : (s.modPll e f).plls = vmod s.plls e.code f := rfl

@[simp] theorem State.modLink_pending (s : State) (e : Die) (k : Nat) (f : LinkEnd → LinkEnd) : (s.modLink e k f).pending = s.pending := rfl
@[simp] theorem State.modLink_regs (s : State) (e : Die) (k : Nat) (f : LinkEnd → LinkEnd) : (s.modLink e k f).regs = s.regs := rfl
@[simp] theorem State.modLink_copies (s : State) (e : Die) (k : Nat) (f : LinkEnd → LinkEnd) : (s.modLink e k f).copies = s.copies := rfl
@[simp] theorem State.modLink_mem (s : State) (e : Die) (k : Nat) (f : LinkEnd → LinkEnd) : (s.modLink e k f).mem = s.mem := rfl
@[simp] theorem State.modLink_out (s : State) (e : Die) (k : Nat) (f : LinkEnd → LinkEnd) : (s.modLink e k f).out = s.out := rfl
@[simp] theorem State.modLink_freeCnt (s : State) (e : Die) (k : Nat) (f : LinkEnd → LinkEnd) : (s.modLink e k f).freeCnt = s.freeCnt := rfl
@[simp] theorem State.modLink_rsBlocks (s : State) (e : Die) (k : Nat) (f : LinkEnd → LinkEnd) : (s.modLink e k f).rsBlocks = s.rsBlocks := rfl
@[simp] theorem State.modLink_plls (s : State) (e : Die) (k : Nat) (f : LinkEnd → LinkEnd) : (s.modLink e k f).plls = s.plls := rfl
@[simp] theorem State.modLink_hops (s : State) (e : Die) (k : Nat) (f : LinkEnd → LinkEnd) : (s.modLink e k f).hops = s.hops := rfl
@[simp] theorem State.modLink_groups (s : State) (e : Die) (k : Nat) (f : LinkEnd → LinkEnd) : (s.modLink e k f).groups = s.groups := rfl
@[simp] theorem State.modLink_ports (s : State) (e : Die) (k : Nat) (f : LinkEnd → LinkEnd) : (s.modLink e k f).ports = s.ports := rfl
@[simp] theorem State.modLink_tgs (s : State) (e : Die) (k : Nat) (f : LinkEnd → LinkEnd) : (s.modLink e k f).tgs = s.tgs := rfl
@[simp] theorem State.modLink_drives (s : State) (e : Die) (k : Nat) (f : LinkEnd → LinkEnd) : (s.modLink e k f).drives = s.drives := rfl
@[simp] theorem State.modLink_adcs (s : State) (e : Die) (k : Nat) (f : LinkEnd → LinkEnd) : (s.modLink e k f).adcs = s.adcs := rfl
@[simp] theorem State.modLink_cmps (s : State) (e : Die) (k : Nat) (f : LinkEnd → LinkEnd) : (s.modLink e k f).cmps = s.cmps := rfl
@[simp] theorem State.modLink_pis (s : State) (e : Die) (k : Nat) (f : LinkEnd → LinkEnd) : (s.modLink e k f).pis = s.pis := rfl
@[simp] theorem State.modLink_cles (s : State) (e : Die) (k : Nat) (f : LinkEnd → LinkEnd) : (s.modLink e k f).cles = s.cles := rfl
@[simp] theorem State.modLink_life (s : State) (e : Die) (k : Nat) (f : LinkEnd → LinkEnd) : (s.modLink e k f).life = s.life := rfl
@[simp] theorem State.modLink_sys (s : State) (e : Die) (k : Nat) (f : LinkEnd → LinkEnd) : (s.modLink e k f).sys = s.sys := rfl
@[simp] theorem State.modLink_power (s : State) (e : Die) (k : Nat) (f : LinkEnd → LinkEnd) : (s.modLink e k f).power = s.power := rfl
@[simp] theorem State.modLink_keeper (s : State) (e : Die) (k : Nat) (f : LinkEnd → LinkEnd) : (s.modLink e k f).keeper = s.keeper := rfl
@[simp] theorem State.modLink_grids (s : State) (e : Die) (k : Nat) (f : LinkEnd → LinkEnd) : (s.modLink e k f).grids = s.grids := rfl
@[simp] theorem State.modLink_gridS (s : State) (e : Die) (k : Nat) (f : LinkEnd → LinkEnd) : (s.modLink e k f).gridS = s.gridS := rfl
@[simp] theorem State.modLink_cycles (s : State) (e : Die) (k : Nat) (f : LinkEnd → LinkEnd) : (s.modLink e k f).cycles = s.cycles := rfl
@[simp] theorem State.modLink_crcs (s : State) (e : Die) (k : Nat) (f : LinkEnd → LinkEnd) : (s.modLink e k f).crcs = s.crcs := rfl
@[simp] theorem State.modLink_acts (s : State) (e : Die) (k : Nat) (f : LinkEnd → LinkEnd) : (s.modLink e k f).acts = s.acts := rfl
@[simp] theorem State.modLink_maintSeq (s : State) (e : Die) (k : Nat) (f : LinkEnd → LinkEnd) : (s.modLink e k f).maintSeq = s.maintSeq := rfl
@[simp] theorem State.modLink_meters (s : State) (e : Die) (k : Nat) (f : LinkEnd → LinkEnd) : (s.modLink e k f).meters = s.meters := rfl
@[simp] theorem State.modLink_vars (s : State) (e : Die) (k : Nat) (f : LinkEnd → LinkEnd) : (s.modLink e k f).vars = s.vars := rfl
@[simp] theorem State.modLink_cmds (s : State) (e : Die) (k : Nat) (f : LinkEnd → LinkEnd) : (s.modLink e k f).cmds = s.cmds := rfl
@[simp] theorem State.modLink_arb (s : State) (e : Die) (k : Nat) (f : LinkEnd → LinkEnd) : (s.modLink e k f).arb = s.arb := rfl
@[simp] theorem State.modLink_safety (s : State) (e : Die) (k : Nat) (f : LinkEnd → LinkEnd) : (s.modLink e k f).safety = s.safety := rfl
@[simp] theorem State.modLink_net (s : State) (e : Die) (k : Nat) (f : LinkEnd → LinkEnd) : (s.modLink e k f).net = s.net := rfl
@[simp] theorem State.modLink_flows (s : State) (e : Die) (k : Nat) (f : LinkEnd → LinkEnd) : (s.modLink e k f).flows = s.flows := rfl
@[simp] theorem State.modLink_dict (s : State) (e : Die) (k : Nat) (f : LinkEnd → LinkEnd) : (s.modLink e k f).dict = s.dict := rfl
@[simp] theorem State.modLink_persist (s : State) (e : Die) (k : Nat) (f : LinkEnd → LinkEnd) : (s.modLink e k f).persist = s.persist := rfl
@[simp] theorem State.modLink_linkEnds (s : State) (e : Die) (k : Nat) (f : LinkEnd → LinkEnd) : (s.modLink e k f).linkEnds = vmod s.linkEnds (linkIndex e k) f := rfl

@[simp] theorem State.modRs_pending (s : State) (b : Nat) (f : RsBlock → RsBlock) : (s.modRs b f).pending = s.pending := rfl
@[simp] theorem State.modRs_regs (s : State) (b : Nat) (f : RsBlock → RsBlock) : (s.modRs b f).regs = s.regs := rfl
@[simp] theorem State.modRs_copies (s : State) (b : Nat) (f : RsBlock → RsBlock) : (s.modRs b f).copies = s.copies := rfl
@[simp] theorem State.modRs_mem (s : State) (b : Nat) (f : RsBlock → RsBlock) : (s.modRs b f).mem = s.mem := rfl
@[simp] theorem State.modRs_out (s : State) (b : Nat) (f : RsBlock → RsBlock) : (s.modRs b f).out = s.out := rfl
@[simp] theorem State.modRs_freeCnt (s : State) (b : Nat) (f : RsBlock → RsBlock) : (s.modRs b f).freeCnt = s.freeCnt := rfl
@[simp] theorem State.modRs_linkEnds (s : State) (b : Nat) (f : RsBlock → RsBlock) : (s.modRs b f).linkEnds = s.linkEnds := rfl
@[simp] theorem State.modRs_plls (s : State) (b : Nat) (f : RsBlock → RsBlock) : (s.modRs b f).plls = s.plls := rfl
@[simp] theorem State.modRs_hops (s : State) (b : Nat) (f : RsBlock → RsBlock) : (s.modRs b f).hops = s.hops := rfl
@[simp] theorem State.modRs_groups (s : State) (b : Nat) (f : RsBlock → RsBlock) : (s.modRs b f).groups = s.groups := rfl
@[simp] theorem State.modRs_ports (s : State) (b : Nat) (f : RsBlock → RsBlock) : (s.modRs b f).ports = s.ports := rfl
@[simp] theorem State.modRs_tgs (s : State) (b : Nat) (f : RsBlock → RsBlock) : (s.modRs b f).tgs = s.tgs := rfl
@[simp] theorem State.modRs_drives (s : State) (b : Nat) (f : RsBlock → RsBlock) : (s.modRs b f).drives = s.drives := rfl
@[simp] theorem State.modRs_adcs (s : State) (b : Nat) (f : RsBlock → RsBlock) : (s.modRs b f).adcs = s.adcs := rfl
@[simp] theorem State.modRs_cmps (s : State) (b : Nat) (f : RsBlock → RsBlock) : (s.modRs b f).cmps = s.cmps := rfl
@[simp] theorem State.modRs_pis (s : State) (b : Nat) (f : RsBlock → RsBlock) : (s.modRs b f).pis = s.pis := rfl
@[simp] theorem State.modRs_cles (s : State) (b : Nat) (f : RsBlock → RsBlock) : (s.modRs b f).cles = s.cles := rfl
@[simp] theorem State.modRs_life (s : State) (b : Nat) (f : RsBlock → RsBlock) : (s.modRs b f).life = s.life := rfl
@[simp] theorem State.modRs_sys (s : State) (b : Nat) (f : RsBlock → RsBlock) : (s.modRs b f).sys = s.sys := rfl
@[simp] theorem State.modRs_power (s : State) (b : Nat) (f : RsBlock → RsBlock) : (s.modRs b f).power = s.power := rfl
@[simp] theorem State.modRs_keeper (s : State) (b : Nat) (f : RsBlock → RsBlock) : (s.modRs b f).keeper = s.keeper := rfl
@[simp] theorem State.modRs_grids (s : State) (b : Nat) (f : RsBlock → RsBlock) : (s.modRs b f).grids = s.grids := rfl
@[simp] theorem State.modRs_gridS (s : State) (b : Nat) (f : RsBlock → RsBlock) : (s.modRs b f).gridS = s.gridS := rfl
@[simp] theorem State.modRs_cycles (s : State) (b : Nat) (f : RsBlock → RsBlock) : (s.modRs b f).cycles = s.cycles := rfl
@[simp] theorem State.modRs_crcs (s : State) (b : Nat) (f : RsBlock → RsBlock) : (s.modRs b f).crcs = s.crcs := rfl
@[simp] theorem State.modRs_acts (s : State) (b : Nat) (f : RsBlock → RsBlock) : (s.modRs b f).acts = s.acts := rfl
@[simp] theorem State.modRs_maintSeq (s : State) (b : Nat) (f : RsBlock → RsBlock) : (s.modRs b f).maintSeq = s.maintSeq := rfl
@[simp] theorem State.modRs_meters (s : State) (b : Nat) (f : RsBlock → RsBlock) : (s.modRs b f).meters = s.meters := rfl
@[simp] theorem State.modRs_vars (s : State) (b : Nat) (f : RsBlock → RsBlock) : (s.modRs b f).vars = s.vars := rfl
@[simp] theorem State.modRs_cmds (s : State) (b : Nat) (f : RsBlock → RsBlock) : (s.modRs b f).cmds = s.cmds := rfl
@[simp] theorem State.modRs_arb (s : State) (b : Nat) (f : RsBlock → RsBlock) : (s.modRs b f).arb = s.arb := rfl
@[simp] theorem State.modRs_safety (s : State) (b : Nat) (f : RsBlock → RsBlock) : (s.modRs b f).safety = s.safety := rfl
@[simp] theorem State.modRs_net (s : State) (b : Nat) (f : RsBlock → RsBlock) : (s.modRs b f).net = s.net := rfl
@[simp] theorem State.modRs_flows (s : State) (b : Nat) (f : RsBlock → RsBlock) : (s.modRs b f).flows = s.flows := rfl
@[simp] theorem State.modRs_dict (s : State) (b : Nat) (f : RsBlock → RsBlock) : (s.modRs b f).dict = s.dict := rfl
@[simp] theorem State.modRs_persist (s : State) (b : Nat) (f : RsBlock → RsBlock) : (s.modRs b f).persist = s.persist := rfl
@[simp] theorem State.modRs_rsBlocks (s : State) (b : Nat) (f : RsBlock → RsBlock) : (s.modRs b f).rsBlocks = vmod s.rsBlocks b f := rfl

@[simp] theorem State.modPower_pending (s : State) (f : Power → Power) : (s.modPower f).pending = s.pending := rfl
@[simp] theorem State.modPower_regs (s : State) (f : Power → Power) : (s.modPower f).regs = s.regs := rfl
@[simp] theorem State.modPower_copies (s : State) (f : Power → Power) : (s.modPower f).copies = s.copies := rfl
@[simp] theorem State.modPower_mem (s : State) (f : Power → Power) : (s.modPower f).mem = s.mem := rfl
@[simp] theorem State.modPower_out (s : State) (f : Power → Power) : (s.modPower f).out = s.out := rfl
@[simp] theorem State.modPower_freeCnt (s : State) (f : Power → Power) : (s.modPower f).freeCnt = s.freeCnt := rfl
@[simp] theorem State.modPower_linkEnds (s : State) (f : Power → Power) : (s.modPower f).linkEnds = s.linkEnds := rfl
@[simp] theorem State.modPower_rsBlocks (s : State) (f : Power → Power) : (s.modPower f).rsBlocks = s.rsBlocks := rfl
@[simp] theorem State.modPower_plls (s : State) (f : Power → Power) : (s.modPower f).plls = s.plls := rfl
@[simp] theorem State.modPower_hops (s : State) (f : Power → Power) : (s.modPower f).hops = s.hops := rfl
@[simp] theorem State.modPower_groups (s : State) (f : Power → Power) : (s.modPower f).groups = s.groups := rfl
@[simp] theorem State.modPower_ports (s : State) (f : Power → Power) : (s.modPower f).ports = s.ports := rfl
@[simp] theorem State.modPower_tgs (s : State) (f : Power → Power) : (s.modPower f).tgs = s.tgs := rfl
@[simp] theorem State.modPower_drives (s : State) (f : Power → Power) : (s.modPower f).drives = s.drives := rfl
@[simp] theorem State.modPower_adcs (s : State) (f : Power → Power) : (s.modPower f).adcs = s.adcs := rfl
@[simp] theorem State.modPower_cmps (s : State) (f : Power → Power) : (s.modPower f).cmps = s.cmps := rfl
@[simp] theorem State.modPower_pis (s : State) (f : Power → Power) : (s.modPower f).pis = s.pis := rfl
@[simp] theorem State.modPower_cles (s : State) (f : Power → Power) : (s.modPower f).cles = s.cles := rfl
@[simp] theorem State.modPower_life (s : State) (f : Power → Power) : (s.modPower f).life = s.life := rfl
@[simp] theorem State.modPower_sys (s : State) (f : Power → Power) : (s.modPower f).sys = s.sys := rfl
@[simp] theorem State.modPower_keeper (s : State) (f : Power → Power) : (s.modPower f).keeper = s.keeper := rfl
@[simp] theorem State.modPower_grids (s : State) (f : Power → Power) : (s.modPower f).grids = s.grids := rfl
@[simp] theorem State.modPower_gridS (s : State) (f : Power → Power) : (s.modPower f).gridS = s.gridS := rfl
@[simp] theorem State.modPower_cycles (s : State) (f : Power → Power) : (s.modPower f).cycles = s.cycles := rfl
@[simp] theorem State.modPower_crcs (s : State) (f : Power → Power) : (s.modPower f).crcs = s.crcs := rfl
@[simp] theorem State.modPower_acts (s : State) (f : Power → Power) : (s.modPower f).acts = s.acts := rfl
@[simp] theorem State.modPower_maintSeq (s : State) (f : Power → Power) : (s.modPower f).maintSeq = s.maintSeq := rfl
@[simp] theorem State.modPower_meters (s : State) (f : Power → Power) : (s.modPower f).meters = s.meters := rfl
@[simp] theorem State.modPower_vars (s : State) (f : Power → Power) : (s.modPower f).vars = s.vars := rfl
@[simp] theorem State.modPower_cmds (s : State) (f : Power → Power) : (s.modPower f).cmds = s.cmds := rfl
@[simp] theorem State.modPower_arb (s : State) (f : Power → Power) : (s.modPower f).arb = s.arb := rfl
@[simp] theorem State.modPower_safety (s : State) (f : Power → Power) : (s.modPower f).safety = s.safety := rfl
@[simp] theorem State.modPower_net (s : State) (f : Power → Power) : (s.modPower f).net = s.net := rfl
@[simp] theorem State.modPower_flows (s : State) (f : Power → Power) : (s.modPower f).flows = s.flows := rfl
@[simp] theorem State.modPower_dict (s : State) (f : Power → Power) : (s.modPower f).dict = s.dict := rfl
@[simp] theorem State.modPower_persist (s : State) (f : Power → Power) : (s.modPower f).persist = s.persist := rfl
@[simp] theorem State.modPower_power (s : State) (f : Power → Power) : (s.modPower f).power = f s.power := rfl

end Sys2Proof.Machine
end

