-- ==== Sys2Proof/Tests/Slice0.lean ====
section
/-!
SUPPORT. Sys2Proof/Tests/Slice0.lean: the model's own tests, each of one step or one function, and for every statement with conditions a
state and operands that meet them.
-/

set_option Elab.async false

open Sys2Proof Sys2Proof.Machine

/-! ### Well-formed commands -/

theorem test_link_of_die : (Instr.laneTimeout .d0 3 0 none).wellFormed = false := by decide

theorem test_link_of_n : (Instr.laneTimeout .n 6 0 none).wellFormed = true := by decide
theorem test_second_needs_nine_temperatures : (Instr.rtcSecond [25000]).wellFormed = false := by decide

theorem test_no_link_code_at_s : (Instr.laneCodeError .s 5 0 none).wellFormed = false := by decide

theorem test_can_frame_of_three_bytes : (Instr.canFrameReceived 0 { (default : CanReceived) with data := [1, 2, 3] }).wellFormed = true := by decide

theorem test_can_frame_too_long : (Instr.canFrameReceived 0 { (default : CanReceived) with data := List.replicate 65 0 }).wellFormed = false := by decide

theorem test_can_brs_needs_fd : (Instr.canFrameReceived 0 { (default : CanReceived) with brs := true }).wellFormed = false := by decide

theorem test_feed_too_long : (Instr.feed 0 (List.replicate 1025 0)).wellFormed = false := by decide +kernel

/-! ### Values of the spec -/

/-- The byte fold of R573 with the polynomial 0x04C11DB7, reflected: the check value of the digits 1 to 9 is 0xCBF43926, the published one of
that CRC. -/
theorem test_crc32_check : (([0x31, 0x32, 0x33, 0x34, 0x35, 0x36, 0x37, 0x38, 0x39].foldl (crcByte 32 0x04C11DB7 true) 0xFFFFFFFF) ^^^ 0xFFFFFFFF)
    = 0xCBF43926 := by decide +kernel

/-- SHA-256 of the three bytes "abc" begins with ba7816bf. -/
theorem test_sha256_abc : (sha256 [0x61, 0x62, 0x63]).take 4 = [0xba, 0x78, 0x16, 0xbf] := by decide +kernel

/-- R561: bin 0 takes what lies below -40 °C, bin 31 what lies at 115 °C and above. -/
theorem test_tempBin : tempBin (-41000) = 0 ∧ tempBin (-35000) = 1 ∧ tempBin 115000 = 31 ∧ tempBin 200000 = 31 := by decide

/-- R551: 10 uJ and 2 nJ for each byte: the rainflow matrices cost 125 uJ by the table. -/
theorem test_burst_costs : State.reset.burstCost 9 = 20000 * 125 ∧ State.reset.burstCost 4 = 20000 * 43 ∧ State.reset.burstCost 0 = 20000 * 20 := by
  decide +kernel

/-- R549: at the example's VSTL = 2,431 mV and LCAP = 920 mF the stored energy is 0.690 J. -/
theorem test_energy_of_the_example :
    (((State.reset.set KPR.VST_VSTL_MV 2431).set KPR.LCAP_LCAP 920).setB KPR.KSTAT_CAP_VALID true).energy / 20000 / 1000 = 689 := by decide +kernel

/-! ### Witnesses -/

def lateReset : State := { State.reset with net := { State.reset.net with lt := 50000000 * 2 ^ 32 } }

def goodSlot : ImageSlot := ⟨#v[0x4D494E47, 1, 1, 0, 0, 0, 0, 3216991119], [0x5A]⟩

/-- A start at which every unit passes its test and no image is found. -/
def noInput : StartInput where
  bands := Vector.replicate 8 (32, 40000, true)
  hot := 0
  bistN := false
  bistS := false
  bistDies := 0
  bistCles := 0
  lanes := []
  delays := Vector.replicate 28 none
  cmps := 0
  acal := Vector.replicate 16 none
  flash := Vector.replicate 2 ⟨true, 250⟩
  images := Vector.replicate 4 default
  ack := 15

/-- A master heard on port 0. -/
def theMaster : PtpMaster where
  rank := []
  sender := 1
  port := 0
  gm := 1
  utc := none
  leap := 0
  heard := 0
  before := none
  interval := 0
  qual := true

/-- The state after reset with the addresses of the Ethernet ports known. -/
def wmac : State := { State.reset with regs :=
  ([0, 1, 2].flatMap (fun p => [(ETH.MAC_HI p, (⟨0x0203, parityOf 0x0203⟩ : RegCell)), (ETH.MAC_LO p, ⟨BitVec.ofNat 32 p, parityOf (BitVec.ofNat 32 p)⟩)])).foldl (fun m c => Assoc.put m c.1 c.2) [] }

/-- A request of client 15 of CAN3 in session 127. -/
def wreq (index : BitVec 16) (sub : BitVec 8) (data : List (BitVec 8)) : DictReq :=
  { client := .can 3 15, flags := 0, session := 127, gen := 0, tid := 1, index := index, sub := sub, segno := 0
    len := BitVec.ofNat 16 data.length, data := data }

/-- The state after reset with that client's session open in a role, a transfer in progress or not. -/
def wopen (role : Nat) (x : Option Transfer) : State :=
  (State.reset.modFlow 127 (fun y => { y with session := some { client := .can 3 15, role := role, xfer := x } })).setDval (DP.FC_TYPE 127) (.num 4)

/-- A keeper whose queue holds a burst of class 9, with no VKIN and a store that cannot pay for it. -/
def brokeKeeper : State := ((((State.reset.setB KPR.KSTAT_VKIN_ON false).set KPR.VST_VSTL_MV 0).set KPR.KQ_QUEUE 0x200).set KPR.KQ_DEFER_CNT 65535).modKeeper (fun k => { k with powered := true })

/-- A check-value unit that computes: its configuration word latched, a 32-bit CRC. -/
def crcRunning (u : Nat) (cfg : Word) : State :=
  (State.reset.setB (CRC.CSTAT_BUSY u) true).modCrc u (fun _ => { cfg := cfg, poly := 0x04C11DB7, start := 0xFFFFFFFF, xorout := 0, base := 0x48280000, len := 9, ended := false })

/-- A slot that runs an activity. -/
def inSlot (k code die unit : Nat) (act : Activity) : State := State.reset.takeSlot k ⟨code, die, unit⟩ act

theorem witness_StepRunsTheFrontCommand : State.reset.pending = [] := rfl

theorem witness_EveryCommandCompletes : (Die.farEnd .d0 3).isSome = false ∧ (Die.farEnd .d0 2).isSome = true := by decide

theorem witness_LanesAndParity_1 : ∃ (s : State) (e : Die) (f : Die) (k : Fin 7) (q : Nat) (lane : Fin 4), (e.farEnd k = some (f, q)) ∧
  (s.bit (ELINK.STAT_LANE_UP_RX e k) lane = true) ∧ (s.mainRuns = true) :=
  ⟨State.reset.setBit (ELINK.STAT_LANE_UP_RX .n 6) 3 true, .n, .s, 6, 2, 3, by decide +kernel⟩

theorem witness_LanesAndParity_2 : ∃ (s : State) (e : Die) (f : Die) (k : Fin 7) (q : Nat) (lane : Fin 4), (e.farEnd k = some (f, q)) ∧
  (s.bit (ELINK.STAT_LANE_UP_RX e k) lane = true) ∧ (s.mainRuns = true) :=
  ⟨State.reset.setBit (ELINK.STAT_LANE_UP_RX .c0 0) 0 true, .c0, .c1, 0, 0, 0, by decide +kernel⟩

theorem witness_LanesAndParity_3 : ∃ (s : State) (u : Fin 8), (s.parityOk (CRC.POLY u) = false) ∧ (s.flag (REGCTL.PAR_STAT_CFG_PARITY .n) = false) ∧
  (s.mainRuns = true) :=
  ⟨State.reset.putCell (CRC.POLY 7) ⟨1, 0⟩, 7, by decide +kernel⟩

theorem witness_LanesAndParity_4 : ∃ (s : State) (d : Fin 4) (j : Fin 6), (s.parityOk (PORT.PCFG d j) = false) ∧
  (s.flag (REGCTL.PAR_STAT_CFG_PARITY (Die.drive d)) = false) ∧ (s.mainRuns = true) :=
  ⟨State.reset.putCell (PORT.PCFG 3 5) ⟨0, 1⟩, 3, 5, by decide +kernel⟩

theorem witness_LanesAndParity_5 : ∃ (s : State) (u : Fin 8), (s.parityOk (CRC.POLY u) = true) ∧ (s.mainRuns = true) :=
  ⟨State.reset, 7, by decide +kernel⟩

theorem witness_LanesAndParity_6 : ∃ (s : State) (u : Fin 8), (s.parityOk (CRC.POLY u) = false) ∧ (s.flag (REGCTL.PAR_STAT_CFG_PARITY .n) = true) ∧
  (s.mainRuns = true) :=
  ⟨(State.reset.putCell (CRC.POLY 7) ⟨1, 0⟩).setB (REGCTL.PAR_STAT_CFG_PARITY .n) true, 7, by decide +kernel⟩

theorem witness_LanesAndParity_7 : ∃ (s : State) (u : Fin 8) (bits : BitVec 32),
  ((parityOf (s.reg (CRC.POLY u) ^^^ bits) ≠ (s.cell (CRC.POLY u)).par)) ∧ (s.mainRuns = true) :=
  ⟨State.reset, 0, 0x80000000, by decide +kernel⟩

theorem witness_RegisterAccesses_1 : ∃ (s : State) (a : BitVec 32) (write : Bool) (size : Fin 9), (accessFaults a.toNat size write = true) ∧
  (s.mainRuns = true) :=
  ⟨State.reset, 0xFFFFFFFF, true, 4, by decide +kernel⟩

theorem witness_RegisterAccesses_2 : ∃ (s : State) (c : Fin 2) (k : Fin 4) (a : BitVec 32), (s.coreRuns c k = true) ∧
  (accessFaults a.toNat 4 true = true) ∧ (s.mainRuns = true) :=
  ⟨State.reset.set (CMD.CMDSTAT_ROLE 0) 3, 0, 0, 0x4C000000, by decide +kernel⟩

theorem witness_RegisterAccesses_3 : ∃ (s : State), (s.mainRuns = true) :=
  ⟨State.reset, by decide +kernel⟩

theorem witness_RegisterAccesses_4 : ∃ (s : State) (w : BitVec 32), (w ≠ 0) ∧ (s.mainRuns = true) :=
  ⟨State.reset.setReg (CRC.POLY 7) 0xFF00, 0x0FF0, by decide +kernel⟩

theorem witness_RegisterAccesses_5 : ∃ (s : State) (w : BitVec 32), (w ≠ 0) ∧ (s.mainRuns = true) :=
  ⟨State.reset.setReg (CRC.POLY 7) 0xFF00, 0x0FF0, by decide +kernel⟩

theorem witness_RegisterAccesses_6 : ∃ (s : State) (w : BitVec 32), (w ≠ 0) ∧ (s.mainRuns = true) :=
  ⟨State.reset.setReg (CRC.POLY 7) 0xFF00, 0x0FF0, by decide +kernel⟩

theorem witness_RegisterAccesses_7 : ∃ (s : State) (d : Fin 4) (c : Fin 2), (s.flag (ELINK.STAT_LINK_DOWN (Die.command c) (1 + d)) = false) ∧
  (s.flag (if c = 0 then DCMD.DCMDSTAT_ROLE_C0 d else DCMD.DCMDSTAT_ROLE_C1 d) = true) ∧ (s.mainRuns = true) :=
  ⟨State.reset.setB (DCMD.DCMDSTAT_ROLE_C1 3) true, 3, 1, by decide +kernel⟩

theorem witness_RegisterAccesses_8 : ∃ (s : State) (d : Fin 4) (c : Fin 2), (s.flag (ELINK.STAT_LINK_DOWN (Die.command c) (1 + d)) = false) ∧
  (s.flag (if c = 0 then DCMD.DCMDSTAT_ROLE_C0 d else DCMD.DCMDSTAT_ROLE_C1 d) = false) ∧ (s.mainRuns = true) :=
  ⟨State.reset.setB (DCMD.DCMDSTAT_ROLE_C0 3) false, 3, 0, by decide +kernel⟩

theorem witness_RegisterAccesses_9 : ∃ (s : State) (c : Fin 2), (s.flag (ELINK.STAT_LINK_DOWN (Die.command c) 5) = false) ∧
  (s.arb.nShell = some c.val) ∧ (s.mainRuns = true) :=
  ⟨State.reset.modArb (fun a => { a with nShell := some 1 }), 1, by decide +kernel⟩

theorem witness_RegisterAccesses_10 : ∃ (s : State) (d : Fin 4) (c : Fin 2), (s.flag (ELINK.STAT_LINK_DOWN (Die.command c) (1 + d)) = true) ∧
  (s.mainRuns = true) :=
  ⟨State.reset.setB (ELINK.STAT_LINK_DOWN .c1 4) true, 3, 1, by decide +kernel⟩

theorem witness_RegisterAccesses_11 : ∃ (s : State) (c : Fin 2), (s.arb.nShell ≠ some c.val) ∧ (s.mainRuns = true) :=
  ⟨State.reset.modArb (fun a => { a with nShell := none }), 1, by decide +kernel⟩

theorem witness_RsInterface_1 : ∃ (s : State) (b : Fin 9), ((vget s.rsBlocks b).inflight.length < 4) ∧ (s.mainRuns = true) :=
  ⟨State.reset, 8, by decide +kernel⟩

theorem witness_RsInterface_2 : ∃ (s : State) (b : Fin 9), (4 ≤ (vget s.rsBlocks b).inflight.length) ∧ (s.mainRuns = true) :=
  ⟨State.reset.modRs 8 (fun r => { r with inflight := List.replicate 4 ⟨0, 0, none⟩ }), 8, by decide +kernel⟩

theorem witness_RsInterface_3 : ∃ (s : State) (b : Fin 9) (x : RsWrite) (l : List RsWrite), ((vget s.rsBlocks b).inflight = x :: l) ∧
  (s.keeper.powered = true) ∧ (s.mainRuns = true) :=
  ⟨State.reset.modRs 7 (fun r => { r with inflight := [⟨0x4C0C0000, 0, none⟩] }), 7, ⟨0x4C0C0000, 0, none⟩, [], by decide +kernel⟩

theorem witness_RsInterface_4 : ∃ (s : State) (w : BitVec 32) (l : List RsWrite), ((vget s.rsBlocks 1).inflight = ⟨RTC.RTC_TRIM, w, none⟩ :: l) ∧
  (s.keeper.powered = true) ∧ (s.mainRuns = true) :=
  ⟨State.reset.modRs 1 (fun r => { r with inflight := [⟨RTC.RTC_TRIM, 0xFFFFFFFF, none⟩] }), 0xFFFFFFFF, [], by decide +kernel⟩

theorem witness_RsInterface_5 : ∃ (s : State), (s.mainRuns = true) :=
  ⟨State.reset, by decide +kernel⟩

theorem witness_RsInterface_6 : ∃ (s : State) (b : Fin 9) (x : RsWrite) (l : List RsWrite), ((vget s.rsBlocks b).inflight = x :: l) ∧
  (s.mainRuns = true) :=
  ⟨State.reset.modRs 0 (fun r => { r with inflight := [⟨0x4C040000, 0, none⟩] }), 0, ⟨0x4C040000, 0, none⟩, [], by decide +kernel⟩

theorem witness_RsInterface_7 : ∃ (s : State), (s.mainRuns = true) :=
  ⟨State.reset, by decide +kernel⟩

theorem witness_RsInterface_8 : ∃ (s : State), (Assoc.sorted s.regs = true) ∧ (s.mainRuns = true) :=
  ⟨State.reset, by decide +kernel⟩

theorem witness_ClocksAndTime_1 : ∃ (s : State) (e : Die), (s.settling e = false) ∧ (s.mainRuns = true) :=
  ⟨State.reset, .d3, by decide +kernel⟩

theorem witness_ClocksAndTime_2 : ∃ (s : State) (e : Die), (s.flag (CLK.PLL_STAT_LOCK e) = true) ∧ (s.settling e = false) ∧ (s.mainRuns = true) :=
  ⟨State.reset.setB (CLK.PLL_STAT_LOCK .s) true, .s, by decide +kernel⟩

theorem witness_ClocksAndTime_3 : ∃ (s : State), (s.mainRuns = true) :=
  ⟨State.reset, by decide +kernel⟩

theorem witness_ClocksAndTime_4 : ∃ (s : State), (s.mainRuns = true) :=
  ⟨State.reset, by decide +kernel⟩

theorem witness_ClocksAndTime_5 : ∃ (s : State), (s.mainRuns = true) :=
  ⟨State.reset, by decide +kernel⟩

theorem witness_ClocksAndTime_6 : ∃ (s : State), (s.mainRuns = true) :=
  ⟨State.reset, by decide +kernel⟩

theorem witness_ClocksAndTime_7 : ∃ (s : State), (s.keeper.powered = true) :=
  ⟨State.reset, by decide +kernel⟩

theorem witness_ClocksAndTime_8 : ∃ (s : State), (s.keeper.powered = true) :=
  ⟨State.reset, by decide +kernel⟩

theorem witness_ClocksAndTime_9 : ∃ (s : State), (s.lockA = true) ∧ (s.mainRuns = true) :=
  ⟨State.reset.setB TIME.TSTAT_LOCK_A true, by decide +kernel⟩

theorem witness_ClocksAndTime_10 : ∃ (s : State), (s.net.rtcSync = true) ∧ (s.keeper.powered = true) ∧ (s.mainRuns = true) :=
  ⟨State.reset.modNet (fun n => { n with rtcSync := true }), by decide +kernel⟩

theorem witness_Hopping_1 : ∃ (s : State) (d : Fin 4), (s.flag (CLK.HOP_CFG_HOP_EN (Die.drive d)) = false) ∧
  (slotInRange (s.reg (CLK.SLOT (Die.drive d) 0)).toNat = false) ∧ (s.mainRuns = true) ∧ (s.parityOk (CLK.HOP_CFG (Die.drive d)) = true) :=
  ⟨State.reset.setReg (CLK.SLOT .d3 0) 0, 3, by decide +kernel⟩

theorem witness_Hopping_2 : ∃ (s : State) (d : Fin 4), (s.flag (CLK.HOP_CFG_HOP_EN (Die.drive d)) = false) ∧
  (s.get (CLK.HOP_CFG_HOP_LEN (Die.drive d)) ≤ 1) ∧ (slotInRange (s.reg (CLK.SLOT (Die.drive d) 0)).toNat = true) ∧ (s.hopMaster d = none) ∧
  (s.flag (CLK.BAND_VALID (Die.drive d) 0) = true) ∧ (s.mainRuns = true) ∧ (s.parityOk (CLK.HOP_CFG (Die.drive d)) = true) :=
  ⟨((State.reset.set (CLK.HOP_CFG_HOP_LEN .d3) 1).setReg (CLK.BAND .d3 0) 0x80000005), 3, by decide +kernel⟩

theorem witness_Hopping_3 : ∃ (s : State) (d : Fin 4), (s.flag (CLK.HOP_CFG_HOP_EN (Die.drive d)) = true) ∧ (s.hopMaster d = none) ∧
  (s.mainRuns = true) ∧ (s.parityOk (CLK.HOP_CFG (Die.drive d)) = true) :=
  ⟨State.reset.setB (CLK.HOP_CFG_HOP_EN .d3) true, 3, by decide +kernel⟩

theorem witness_Hopping_4 : ∃ (s : State) (d : Fin 4) (m : Nat), (s.flag (CLK.HOP_CFG_HOP_EN (Die.drive d)) = true) ∧ (s.hopMaster d = some m) ∧
  (s.mainRuns = true) ∧ (s.parityOk (CLK.HOP_CFG (Die.drive d)) = true) :=
  ⟨(State.reset.setB (CLK.HOP_CFG_HOP_EN .d3) true).setB (PWM.STAT_RUN 3 1) true, 3, 1, by decide +kernel⟩

theorem witness_Hopping_5 : ∃ (s : State) (d : Fin 4) (m : Nat), (s.hopMaster d = some m) ∧ (s.dieRuns d = true) ∧
  (s.hopDue d (s.hopCarriers d) (s.hopTaken d) = true) ∧ (s.mainRuns = true) :=
  ⟨((State.reset.setB (PWM.STAT_RUN 3 1) true).modGrp 3 1 (fun g => { g with carriers := 1 })).modHop 3 (fun h =>
    { h with latched := true, div := 1, len := 2 }), 3, 1, by decide +kernel⟩

theorem witness_Hopping_6 : ∃ (s : State), (s.mainRuns = true) :=
  ⟨State.reset, by decide +kernel⟩

theorem witness_PwmGroups_1 : ∃ (s : State) (d : Fin 4) (k : Fin 4), (s.flag (PWM.GCFG_EN d k) = false) ∧ ((s.grp d k).stopping = false) ∧
  (s.enableRefused d k = false) ∧ (s.mainRuns = true) ∧ (s.parityOk (PWM.GCFG d k) = true) :=
  ⟨State.reset.set (PWM.GCFG_PORTS 3 3) 0x7F, 3, 3, by decide +kernel⟩

theorem witness_PwmGroups_2 : ∃ (s : State) (d : Fin 4) (k : Fin 4), (s.flag (PWM.GCFG_EN d k) = false) ∧ ((s.grp d k).stopping = false) ∧
  (s.enableRefused d k = true) ∧ (s.mainRuns = true) ∧ (s.parityOk (PWM.GCFG d k) = true) :=
  ⟨(State.reset.set (PWM.GCFG_PORTS 3 3) 0x7F).modGrp 3 0 (fun g => { g with enabled := true, ports := 0x40 }), 3, 3, by decide +kernel⟩

theorem witness_PwmGroups_3 : ∃ (s : State) (d : Fin 4) (k : Fin 4), (s.flag (PWM.GCFG_EN d k) = true) ∧ (s.grpRuns d k = true) ∧
  (s.mainRuns = true) ∧ (s.parityOk (PWM.GCFG d k) = true) :=
  ⟨((State.reset.modGrp 1 2 (fun g => { g with enabled := true, aPer := 100, carrierPer := 100, ports := 1 })).setB (PWM.STAT_RUN 1 2) true).setB
    (PWM.GCFG_EN 1 2) true, 1, 2, by decide +kernel⟩

theorem witness_PwmGroups_4 : ∃ (s : State) (d : Fin 4) (k : Fin 4), (s.flag (PWM.GCFG_EN d k) = true) ∧ (s.grpRuns d k = false) ∧
  (s.mainRuns = true) ∧ (s.parityOk (PWM.GCFG d k) = true) :=
  ⟨State.reset.setB (PWM.GCFG_EN 1 2) true, 1, 2, by decide +kernel⟩

theorem witness_PwmGroups_5 : ∃ (s : State) (d : Fin 4) (k : Fin 4), (s.grpRuns d k = true) ∧ ((s.grp d k).stopping = true) ∧ (s.dieRuns d = true) ∧
  (s.mainRuns = true) :=
  ⟨((State.reset.modGrp 1 2 (fun g => { g with enabled := true, aPer := 100, carrierPer := 100, ports := 1 })).setB (PWM.STAT_RUN 1 2) true).modGrp 1
    2 (fun g => { g with stopping := true }), 1, 2, by decide +kernel⟩

theorem witness_PwmGroups_6 : ∃ (s : State), (s.mainRuns = true) :=
  ⟨State.reset, by decide +kernel⟩

theorem witness_PwmGroups_7 : ∃ (s : State) (d : Fin 4), (s.dieRuns d = true) ∧ (s.mainRuns = true) :=
  ⟨State.reset.modGrp 0 0 (fun g => { g with waiting := true }), 0, by decide +kernel⟩

theorem witness_PwmPeriodsAndEdges_1 : ∃ (s : State) (d : Fin 4) (k : Fin 4), ((s.grp d k).due = true) ∧ (s.grpRuns d k = false) ∧
  (s.dieRuns d = true) ∧ (s.get (PWM.PER_PER d k) = 0) ∧ (s.mainRuns = true) :=
  ⟨State.reset.modGrp 2 0 (fun g => { g with enabled := true, due := true }), 2, 0, by decide +kernel⟩

theorem witness_PwmPeriodsAndEdges_2 : ∃ (s : State) (d : Fin 4) (k : Fin 4), ((s.grp d k).due = true) ∧ (s.grpRuns d k = false) ∧
  (s.dieRuns d = true) ∧ (s.get (PWM.PER_PER d k) ≠ 0) ∧ (s.mainRuns = true) :=
  ⟨(State.reset.set (PWM.PER_PER 2 0) 1000).modGrp 2 0 (fun g => { g with enabled := true, due := true }), 2, 0, by decide +kernel⟩

theorem witness_PwmPeriodsAndEdges_3 : ∃ (s : State) (d : Fin 4) (k : Fin 4), (s.grpRuns d k = true) ∧ (s.dieRuns d = true) ∧
  ((s.grp d k).mode < 2) ∧ ((s.grp d k).stopping = false) ∧ (s.mainRuns = true) :=
  ⟨((State.reset.modGrp 1 2 (fun g => { g with enabled := true, aPer := 100, carrierPer := 100, ports := 1 })).setB (PWM.STAT_RUN 1 2) true), 1, 2,
    by decide +kernel⟩

theorem witness_PwmPeriodsAndEdges_4 : ∃ (s : State) (d : Fin 4) (k : Fin 4), (s.grpRuns d k = true) ∧ (s.dieRuns d = true) ∧
  (2 ≤ (s.grp d k).mode) ∧ (s.fixedPhase d k ≤ 64 * s.get (PWM.CNT_COUNT d k)) ∧ (s.perMinActs d k ≤ s.get (PWM.CNT_COUNT d k)) ∧
  ((s.grp d k).stopping = false) ∧ (s.mainRuns = true) :=
  ⟨(((State.reset.modGrp 1 2 (fun g => { g with enabled := true, aPer := 100, carrierPer := 100, ports := 1 })).setB (PWM.STAT_RUN 1 2) true).modGrp
    1 2 (fun g => { g with mode := 2 })).set (PWM.CNT_COUNT 1 2) 0xFFFFF, 1, 2, by decide +kernel⟩

theorem witness_PwmPeriodsAndEdges_5 : ∃ (s : State) (d : Fin 4) (k : Fin 4), (s.grpRuns d k = true) ∧ (s.dieRuns d = true) ∧
  (2 ≤ (s.grp d k).mode) ∧ (s.fixedPhase d k ≤ 64 * s.get (PWM.CNT_COUNT d k)) ∧ (s.get (PWM.CNT_COUNT d k) < s.perMinActs d k) ∧
  (s.mainRuns = true) :=
  ⟨((State.reset.modGrp 1 2 (fun g => { g with enabled := true, aPer := 100, carrierPer := 100, ports := 1 })).setB (PWM.STAT_RUN 1 2) true).modGrp 1
    2 (fun g => { g with mode := 2, perMin := 16 }), 1, 2, by decide +kernel⟩

theorem witness_PwmPeriodsAndEdges_6 : ∃ (s : State) (d : Fin 4) (k : Fin 4), (s.grpRuns d k = true) ∧ (s.dieRuns d = true) ∧
  (2 ≤ (s.grp d k).mode) ∧ ((s.grp d k).stopping = false) ∧ (s.mainRuns = true) :=
  ⟨((State.reset.modGrp 1 2 (fun g => { g with enabled := true, aPer := 100, carrierPer := 100, ports := 1 })).setB (PWM.STAT_RUN 1 2) true).modGrp 1
    2 (fun g => { g with mode := 2 }), 1, 2, by decide +kernel⟩

theorem witness_PwmPeriodsAndEdges_7 : ∃ (s : State) (d : Fin 4) (j : Fin 7) (k : Nat) (tap : Nat) (rise : Bool), (s.groupOf d j = some k) ∧
  (s.dieRuns d = true) ∧ (s.edgeDue d k j = some (tap, rise)) ∧ (s.mainRuns = true) :=
  ⟨((State.reset.modGrp 1 2 (fun g => { g with enabled := true, aPer := 100, carrierPer := 100, ports := 1 })).setB (PWM.STAT_RUN 1 2) true), 1, 0,
    2, 0, false, by decide +kernel⟩

theorem witness_PwmPeriodsAndEdges_8 : ∃ (s : State) (d : Fin 4) (j : Fin 7) (k : Nat) (tap : Nat), (s.groupOf d j = some k) ∧ (s.dieRuns d = true) ∧
  (s.edgeDue d k j = some (tap, true)) ∧ (s.get (PORT.PMODE_PMODE d j) = 1) ∧ (s.flag (TRIP.TGSTAT_TRIPPED d (s.tgOf d j)) = false) ∧
  (s.stoBranch d = false) ∧ (s.chopperRole d j = false) ∧ ((s.port d j).refresh = 0) ∧ (s.mainRuns = true) :=
  ⟨(((((State.reset.modGrp 1 2 (fun g => { g with enabled := true, aPer := 100, carrierPer := 100, ports := 1 })).setB (PWM.STAT_RUN 1 2)
    true).setReg (PORT.ACT_DUTY 1 0) 0xFFFF).set (PORT.PMODE_PMODE 1 0) 1).setB (TRIP.TGSTAT_TRIPPED 1 0) false).setBit SFN.SFSTAT_NET 1 false, 1, 0,
    2, 0, by decide +kernel⟩

theorem witness_PwmPeriodsAndEdges_9 : ∃ (s : State) (d : Fin 4) (j : Fin 7) (k : Nat) (w : TurnOn), ((s.port d j).pendOn = some w) ∧ (w.ticks = 0) ∧
  (s.dieRuns d = true) ∧ (s.follows d j = true) ∧ (s.groupOf d j = some k) ∧
  ((match s.edgeWidth d k j (64 * s.carrierPos d k + w.fine) w.high with | some n => decide (128 ≤ n) | none => true) = true) ∧
  (s.chopperRole d j = false) ∧ ((s.port d j).blocked = false) ∧ (s.stoBranch d = false) ∧ (s.flag (TRIP.TGSTAT_TRIPPED d (s.tgOf d j)) = false) ∧
  ((s.flag (APB.APSTAT_AP_BOOT_UV d) = false ∨ j ≠ 6)) ∧ (s.mainRuns = true) :=
  ⟨(((((State.reset.modGrp 1 2 (fun g => { g with enabled := true, aPer := 100, carrierPer := 100, ports := 1 })).setB (PWM.STAT_RUN 1 2)
    true).modPort 1 0 (fun p => { p with pendOn := some ⟨false, 0, 0⟩, safe := .none })).setB (TRIP.TGSTAT_TRIPPED 1 0) false).setBit SFN.SFSTAT_NET
    1 false), 1, 0, 2, ⟨false, 0, 0⟩, by decide +kernel⟩

theorem witness_PwmPeriodsAndEdges_10 : ∃ (s : State) (d : Fin 4) (j : Fin 7) (k : Nat) (n : Nat) (w : TurnOn), ((s.port d j).pendOn = some w) ∧
  (w.ticks = 0) ∧ (s.dieRuns d = true) ∧ (s.follows d j = true) ∧ (s.groupOf d j = some k) ∧
  (s.edgeWidth d k j (64 * s.carrierPos d k + w.fine) w.high = some n) ∧ (0 < n) ∧ (n < 128) ∧ (s.chopperRole d j = false) ∧
  (s.flag (TRIP.TGSTAT_TRIPPED d (s.tgOf d j)) = false) ∧ ((s.flag (APB.APSTAT_AP_BOOT_UV d) = false ∨ j ≠ 6)) ∧ (s.mainRuns = true) :=
  ⟨((((((State.reset.modGrp 1 2 (fun g => { g with enabled := true, aPer := 100, carrierPer := 100, ports := 1 })).setB (PWM.STAT_RUN 1 2)
    true).modGrp 1 2 (fun g => { g with mode := 0 })).modPort 1 0 (fun p => { p with pendOn := some ⟨true, 0, 0⟩, safe := .none })).setReg
    (PORT.ACT_DUTY 1 0) 100).setB (TRIP.TGSTAT_TRIPPED 1 0) false), 1, 0, 2, 100, ⟨true, 0, 0⟩, by decide +kernel⟩

theorem witness_PwmPeriodsAndEdges_11 : ∃ (s : State), (s.mainRuns = true) :=
  ⟨State.reset, by decide +kernel⟩

theorem witness_PwmPeriodsAndEdges_12 : ∃ (s : State), (s.mainRuns = true) :=
  ⟨State.reset, by decide +kernel⟩

theorem witness_HaltGuardAndService_1 : ∃ (s : State), (s.mainRuns = true) :=
  ⟨State.reset, by decide +kernel⟩

theorem witness_HaltGuardAndService_2 : ∃ (s : State), (s.mainRuns = true) :=
  ⟨State.reset, by decide +kernel⟩

theorem witness_HaltGuardAndService_3 : ∃ (s : State) (d : Fin 4), (s.bit HGRD.HGSTAT_TIMING d = true) ∧ (s.mainRuns = true) :=
  ⟨State.reset.setBit HGRD.HGSTAT_TIMING 0 true, 0, by decide +kernel⟩

theorem witness_HaltGuardAndService_4 : ∃ (s : State), (s.mainRuns = true) :=
  ⟨State.reset, by decide +kernel⟩

theorem witness_HaltGuardAndService_5 : ∃ (s : State) (d : Fin 4), (s.flag SFN.SFSTAT_A_REQ = false) ∧ (s.flag SFN.SFSTAT_B_REQ = false) ∧
  ((s.bit HGRD.HGSTAT_ASSERT d = false ∨ (s.bit HGRD.HGSTAT_HALT d = false ∧ s.bit HGRD.HGSTAT_CLK_LOST d = false ∧
  (vget s.drives d).released = 3))) ∧ ((vget s.drives d).retired = false) ∧ (s.mainRuns = true) :=
  ⟨(((State.reset.setB SFN.SFSTAT_A_REQ false).setB SFN.SFSTAT_B_REQ false).setBit HGRD.HGSTAT_ASSERT 1 true).modDrive 1 (fun x =>
    { x with released := 3 }), 1, by decide +kernel⟩

theorem witness_HaltGuardAndService_6 : ∃ (s : State) (d : Fin 4), (((vget s.drives d).retired = true ∨ (s.bit HGRD.HGSTAT_ASSERT d = true ∧
  (vget s.drives d).released ≠ 3))) ∧ (s.mainRuns = true) :=
  ⟨(((State.reset.setB SFN.SFSTAT_A_REQ false).setB SFN.SFSTAT_B_REQ false).setBit HGRD.HGSTAT_ASSERT 1 true).modDrive 1 (fun x =>
    { x with released := 1 }), 1, by decide +kernel⟩

theorem witness_HaltGuardAndService_7 : ∃ (s : State), (s.mainRuns = true) :=
  ⟨State.reset, by decide +kernel⟩

theorem witness_HaltGuardAndService_8 : ∃ (s : State), (s.mainRuns = true) :=
  ⟨State.reset.modDrive 3 (fun x => { x with clockStopped := true }), by decide +kernel⟩

theorem witness_HaltGuardAndService_9 : ∃ (s : State), (s.mainRuns = true) :=
  ⟨State.reset, by decide +kernel⟩

theorem witness_HaltGuardAndService_10 : ∃ (s : State), (s.mainRuns = true) :=
  ⟨State.reset.modDrive 3 (fun x => { x with clockStopped := true }), by decide +kernel⟩

theorem witness_HaltGuardAndService_11 : ∃ (s : State) (d : Fin 4), ((vget s.drives d).retired = false) ∧ (s.mainRuns = true) :=
  ⟨State.reset, 3, by decide +kernel⟩

theorem witness_HaltGuardAndService_12 : ∃ (s : State), (s.mainRuns = true) :=
  ⟨State.reset, by decide +kernel⟩

theorem witness_TripsAndClears_1 : ∃ (s : State) (d : Fin 4) (k : Fin 2), (s.flag (TRIP.TGSTAT_TRIPPED d k) = false) ∧
  ((vget s.drives d).clockStopped = false) ∧ (s.activeSources d k ≠ 0) ∧ (s.mainRuns = true) :=
  ⟨((State.reset.modDrive 1 (fun x => { x with tripIn := 1 })).setReg (TRIP.SRCMASK 1 1) 0x01000000).setB (TRIP.TGSTAT_TRIPPED 1 1) false, 1, 1,
    by decide +kernel⟩

theorem witness_TripsAndClears_2 : ∃ (s : State) (d : Fin 4), (s.flag (TRIP.TGSTAT_TRIPPED d 0) = true) ∧ (s.flag (TRIP.TGSTAT_TRIPPED d 1) = true) ∧
  (s.mainRuns = true) :=
  ⟨(State.reset.setB (TRIP.TGSTAT_TRIPPED 3 0) true).setB (TRIP.TGSTAT_TRIPPED 3 1) true, 3, by decide +kernel⟩

theorem witness_TripsAndClears_3 : ∃ (s : State) (d : Fin 4) (k : Fin 2), (s.flag (TRIP.TGSTAT_TRIPPED d k) = true) ∧ (s.mainRuns = true) :=
  ⟨State.reset.setB (TRIP.TGSTAT_TRIPPED 0 1) true, 0, 1, by decide +kernel⟩

theorem witness_TripsAndClears_4 : ∃ (s : State) (d : Fin 4) (k : Fin 2), ((vget s.tgs (2 * d.val + k.val)).modeFixed = false) ∧
  (s.flag (TRIP.TGSTAT_TRIPPED d k) = false) ∧ (s.mainRuns = true) :=
  ⟨State.reset.setB (TRIP.TGSTAT_TRIPPED 3 1) false, 3, 1, by decide +kernel⟩

theorem witness_TripsAndClears_5 : ∃ (s : State), (s.mainRuns = true) :=
  ⟨State.reset, by decide +kernel⟩

theorem witness_TripsAndClears_6 : ∃ (s : State), (s.mainRuns = true) :=
  ⟨State.reset, by decide +kernel⟩

theorem witness_TripsAndClears_7 : ∃ (s : State) (d : Fin 4) (k : Fin 2) (m : Fin 4), ((vget s.tgs (2 * d.val + k.val)).modeFixed = false) ∧
  (s.flag (TRIP.TGSTAT_TRIPPED d k) = true) ∧ (s.get (TRIP.TGCTL_TG_MODE d k) = 0) ∧ (m ≠ 0) ∧ (s.mainRuns = true) :=
  ⟨(State.reset.setB (TRIP.TGSTAT_TRIPPED 3 1) true).set (TRIP.TGCTL_TG_MODE 3 1) 0, 3, 1, 3, by decide +kernel⟩

theorem witness_TripsAndClears_8 : ∃ (s : State) (d : Fin 4) (i : Fin 16), (vget (vget s.drives d).cuffs i = 0) ∧
  ((vget s.drives d).clockStopped = false) ∧ (s.flag (TRIP.TGSTAT_TRIPPED d 0) = false) ∧ (s.flag (TRIP.TGSTAT_TRIPPED d 1) = false) ∧
  (s.mainRuns = true) :=
  ⟨((State.reset.setB (TRIP.TGSTAT_TRIPPED 2 0) false).setB (TRIP.TGSTAT_TRIPPED 2 1) false), 2, 15, by decide +kernel⟩

theorem witness_TripsAndClears_9 : ∃ (s : State) (d : Fin 4) (i : Fin 16), (0 < vget (vget s.drives d).cuffs i) ∧ (s.mainRuns = true) :=
  ⟨State.reset.modDrive 2 (fun x => { x with cuffs := vset x.cuffs 15 1 }), 2, 15, by decide +kernel⟩

theorem witness_TripsAndClears_10 : ∃ (s : State) (d : Fin 4) (j : Fin 7) (w : TurnOn), ((s.port d j).ascWait = some w) ∧ (w.ticks = 0) ∧
  (s.dieRuns d = true) ∧ ((s.port d j).blocked = false) ∧ (s.stoBranch d = false) ∧ (s.mainRuns = true) :=
  ⟨((State.reset.modPort 1 6 (fun p => { p with ascWait := some ⟨true, 0, 5⟩, safe := .ascHigh })).setB (TRIP.TGSTAT_TRIPPED 1 0) false).setBit
    SFN.SFSTAT_NET 1 false, 1, 6, ⟨true, 0, 5⟩, by decide +kernel⟩

theorem witness_TripsAndClears_11 : ∃ (s : State) (d : Fin 4) (x : Fin 4) (lowTicks : Nat), (800 ≤ lowTicks) ∧
  ((vget s.drives d).clockStopped = false) ∧ (s.bit (TRIP.TGCFG_EN_SEL d 0) x = true) ∧ (s.bit (TRIP.TGCFG_EN_SEL d 1) x = false) ∧
  (s.flag (TRIP.TGSTAT_TRIPPED d 0) = true) ∧ (s.activeSources d 0 ≠ 0) ∧ (s.mainRuns = true) :=
  ⟨((((State.reset.modDrive 0 (fun x => { x with tripIn := 1 })).setReg (TRIP.SRCMASK 0 0) 0x01000000).set (TRIP.TGCFG_EN_SEL 0 0) 1).set
    (TRIP.TGCFG_EN_SEL 0 1) 2).setB (TRIP.TGSTAT_TRIPPED 0 0) true, 0, 0, 800, by decide +kernel⟩

theorem witness_TripsAndClears_12 : ∃ (s : State) (d : Fin 4) (x : Fin 4) (lowTicks : Nat), (800 ≤ lowTicks) ∧
  ((vget s.drives d).clockStopped = false) ∧ (s.bit (TRIP.TGCFG_EN_SEL d 0) x = true) ∧ (s.bit (TRIP.TGCFG_EN_SEL d 1) x = false) ∧
  (s.flag (TRIP.TGSTAT_TRIPPED d 0) = true) ∧ (s.activeSources d 0 = 0) ∧ (∀ j : Fin 6, s.tgOf d j = 0 → s.flag (PORT.PCFG_FLT_USE d j) = true →
  s.flag (PORT.FLTSTAT_FLT_LINE d j) = true) ∧ (s.mainRuns = true) :=
  ⟨foldOver (List.range 6) (fun j t => t.setB (PORT.FLTSTAT_FLT_LINE 0 j) true) ((((State.reset.setReg (TRIP.SRCMASK 0 0) 0).set (TRIP.TGCFG_EN_SEL 0
    0) 1).set (TRIP.TGCFG_EN_SEL 0 1) 2).setB (TRIP.TGSTAT_TRIPPED 0 0) true), 0, 0, 800, by decide +kernel⟩

theorem witness_TripsAndClears_13 : ∃ (s : State) (lowTicks : Nat), (lowTicks < 800) ∧ (s.mainRuns = true) :=
  ⟨State.reset, 799, by decide +kernel⟩

theorem witness_FaultLine_1 : ∃ (s : State), (s.mainRuns = true) :=
  ⟨State.reset, by decide +kernel⟩

theorem witness_FaultLine_2 : ∃ (s : State) (d : Fin 4) (j : Fin 6), (s.faultUsed d j = true) ∧ (s.mainRuns = true) :=
  ⟨State.reset.setB (PORT.PCFG_FLT_USE 3 5) true, 3, 5, by decide +kernel⟩

theorem witness_FaultLine_3 : ∃ (s : State) (d : Fin 4) (j : Fin 6) (width : Nat), ((s.port d j).measuring = true) ∧ (s.faultUsed d j = true) ∧
  ((s.port d j).declared = false) ∧ (0 < width) ∧ (width < 200) ∧ (s.mainRuns = true) :=
  ⟨(State.reset.setB (PORT.PCFG_FLT_USE 0 0) true).modPort 0 0 (fun p => { p with measuring := true }), 0, 0, 199, by decide +kernel⟩

theorem witness_FaultLine_4 : ∃ (s : State), (s.mainRuns = true) :=
  ⟨State.reset, by decide +kernel⟩

theorem witness_FaultLine_5 : ∃ (s : State) (d : Fin 4) (j : Fin 6) (width : Nat), ((s.port d j).measuring = true) ∧ (s.faultUsed d j = true) ∧
  ((s.port d j).declared = false) ∧ (200 ≤ width) ∧ (s.get (PORT.FLTSTAT_FLT_CODE d j) = 0) ∧ (s.mainRuns = true) :=
  ⟨(State.reset.setB (PORT.PCFG_FLT_USE 0 0) true).modPort 0 0 (fun p => { p with measuring := true }), 0, 0, 200, by decide +kernel⟩

theorem witness_FaultLine_6 : ∃ (s : State) (d : Fin 4) (j : Fin 6), ((s.port d j).measuring = true) ∧ (s.faultUsed d j = true) ∧
  ((s.port d j).declared = false) ∧ (s.get (PORT.FLTSTAT_FLT_CODE d j) = 0) ∧ (s.mainRuns = true) :=
  ⟨(State.reset.setB (PORT.PCFG_FLT_USE 1 2) true).modPort 1 2 (fun p => { p with measuring := true }), 1, 2, by decide +kernel⟩

theorem witness_FaultLine_7 : ∃ (s : State) (d : Fin 4) (j : Fin 6), ((s.port d j).measuring = true) ∧ (s.faultUsed d j = true) ∧
  ((s.port d j).declared = true) ∧ ((s.port d j).own5 = true) ∧ (s.mainRuns = true) :=
  ⟨(State.reset.setB (PORT.PCFG_FLT_USE 1 2) true).modPort 1 2 (fun p => { p with measuring := true, declared := true, own5 := true }), 1, 2,
    by decide +kernel⟩

theorem witness_FaultLine_8 : ∃ (s : State) (d : Fin 4) (j : Fin 6), ((s.port d j).measuring = true) ∧ (s.faultUsed d j = true) ∧
  ((s.port d j).declared = true) ∧ ((s.port d j).own5 = false) ∧
  ((s.codeTrips d (s.tgOf d j) (s.get (PORT.FLTSTAT_FLT_CODE d j)) = false ∨ s.get (PORT.FLTSTAT_FLT_CODE d j) = 7)) ∧ (s.mainRuns = true) :=
  ⟨((State.reset.setB (PORT.PCFG_FLT_USE 1 2) true).modPort 1 2 (fun p => { p with measuring := true, declared := true })).set (PORT.FLTSTAT_FLT_CODE
    1 2) 2 |>.set (TRIP.TGCFG_SUP_SEL 1 0) 1 |>.set (TRIP.TGCFG_SUP_SEL 1 1) 1, 1, 2, by decide +kernel⟩

theorem witness_FaultLine_9 : ∃ (s : State) (d : Fin 4) (j : Fin 6), (s.flag (TRIP.TGCFG_FLT_EARLY d (s.tgOf d j)) = true) ∧
  (s.faultUsed d j = true) ∧ ((s.port d j).measuring = true) ∧ (s.get (PORT.FLTSTAT_FLT_CODE d j) = 0) ∧ (s.mainRuns = true) :=
  ⟨((State.reset.setB (PORT.PCFG_FLT_USE 1 2) true).setB (TRIP.TGCFG_FLT_EARLY 1 0) true).modPort 1 2 (fun p => { p with measuring := true }), 1, 2,
    by decide +kernel⟩

theorem witness_FaultLine_10 : ∃ (s : State) (d : Fin 4) (j : Fin 6), (s.flag (PORT.FLTSTAT_FLT_LINE d j) = true) ∧
  ((s.port d j).measuring = false) ∧ (s.mainRuns = true) :=
  ⟨(State.reset.setB (PORT.FLTSTAT_FLT_LINE 2 1) true).modPort 2 1 (fun p => { p with measuring := false }), 2, 1, by decide +kernel⟩

theorem witness_FaultLine_11 : ∃ (s : State) (d : Fin 4) (j : Fin 6), (s.mainRuns = true) ∧ (s.parityOk (PORT.PCFG d j) = true) :=
  ⟨State.reset, 3, 5, by decide +kernel⟩

theorem witness_ChopperAndAuxiliary_1 : ∃ (s : State) (d : Fin 4) (j : Fin 6), (s.mainRuns = true) ∧ (s.parityOk (PORT.PCFG d j) = true) :=
  ⟨State.reset, 3, 5, by decide +kernel⟩

theorem witness_ChopperAndAuxiliary_2 : ∃ (s : State) (d : Fin 4) (j : Fin 6) (high : Bool), (s.chopperFree d j = true) ∧
  (s.flag (PORT.PCFG_CHOP_SIDE d j) = !high) ∧ (s.flag (TRIP.TGSTAT_TRIPPED d (s.tgOf d j)) = false) ∧ ((s.port d j).blocked = false) ∧
  (s.stoBranch d = false) ∧
  ((if (if high then (s.port d j).gh else (s.port d j).gl) = true then s.get (PORT.CHOP_TON_TON d j) else s.get (PORT.CHOP_TOFF_TOFF d j)) ≤ (if high
  then (s.port d j).sinceH else (s.port d j).sinceL)) ∧ (s.mainRuns = true) :=
  ⟨((((State.reset.setB (PORT.PCFG_CHOP_EN 1 3) true).set (TRIP.TGCFG_SUP_SEL 1 0) 1).modPort 1 3 (fun p =>
    { p with safe := .none, gh := true })).setB (TRIP.TGSTAT_TRIPPED 1 0) false).setBit SFN.SFSTAT_NET 1 false, 1, 3, true, by decide +kernel⟩

theorem witness_ChopperAndAuxiliary_3 : ∃ (s : State) (d : Fin 4) (j : Fin 6) (high : Bool), (s.chopperFree d j = true) ∧
  (s.flag (PORT.PCFG_CHOP_SIDE d j) = !high) ∧ (s.flag (TRIP.TGSTAT_TRIPPED d (s.tgOf d j)) = false) ∧ ((s.port d j).blocked = false) ∧
  (s.stoBranch d = false) ∧
  ((if (if high then (s.port d j).gh else (s.port d j).gl) = true then s.get (PORT.CHOP_TON_TON d j) else s.get (PORT.CHOP_TOFF_TOFF d j)) ≤ (if high
  then (s.port d j).sinceH else (s.port d j).sinceL)) ∧ (s.mainRuns = true) :=
  ⟨((((State.reset.setB (PORT.PCFG_CHOP_EN 1 3) true).set (TRIP.TGCFG_SUP_SEL 1 0) 1).modPort 1 3 (fun p =>
    { p with safe := .none, gh := true })).setB (TRIP.TGSTAT_TRIPPED 1 0) false).setBit SFN.SFSTAT_NET 1 false, 1, 3, true, by decide +kernel⟩

theorem witness_ChopperAndAuxiliary_4 : ∃ (s : State) (d : Fin 4) (j : Fin 6) (high : Bool), (s.flag (PORT.PCFG_CHOP_SIDE d j) = !high) ∧
  ((if high then (s.port d j).sinceH else (s.port d j).sinceL) < (if (if high then (s.port d j).gh else (s.port d j).gl) = true then s.get
  (PORT.CHOP_TON_TON d j) else s.get (PORT.CHOP_TOFF_TOFF d j))) ∧ (s.mainRuns = true) :=
  ⟨(State.reset.set (PORT.CHOP_TON_TON 1 3) 100).modPort 1 3 (fun p => { p with gh := true, sinceH := 99 }), 1, 3, true, by decide +kernel⟩

theorem witness_ChopperAndAuxiliary_5 : ∃ (s : State), (s.mainRuns = true) :=
  ⟨State.reset, by decide +kernel⟩

theorem witness_ChopperAndAuxiliary_6 : ∃ (s : State), (s.mainRuns = true) :=
  ⟨State.reset, by decide +kernel⟩

theorem witness_ChopperAndAuxiliary_7 : ∃ (s : State) (d : Fin 4), (s.flag (APB.APSTAT_BOOT_OK d) = true) ∧ (s.mainRuns = true) :=
  ⟨State.reset.setB (APB.APSTAT_BOOT_OK 3) true, 3, by decide +kernel⟩

theorem witness_ChopperAndAuxiliary_8 : ∃ (s : State) (d : Fin 4), (s.refreshWanted d = true) ∧
  (s.flag (TRIP.TGSTAT_TRIPPED d (s.tgOf d 6)) = false) ∧ (s.mainRuns = true) :=
  ⟨((((State.reset.setB (APB.APCFG_REF_EN 2) true).modPort 2 6 (fun p => { p with safe := .none, gh := true, mode := 1, refCount := 2 ^ 24 })).modGrp
    2 1 (fun g => { g with ports := 0x40 })).setB (PWM.STAT_RUN 2 1) true).setB (TRIP.TGSTAT_TRIPPED 2 0) false, 2, by decide +kernel⟩

theorem witness_ChopperAndAuxiliary_9 : ∃ (s : State) (d : Fin 4), ((s.port d 6).refresh = 1) ∧ ((s.port d 6).refWait = 0) ∧ (s.follows d 6 = true) ∧
  (s.dieRuns d = true) ∧ ((s.port d 6).blocked = false) ∧ (s.stoBranch d = false) ∧ (s.flag (TRIP.TGSTAT_TRIPPED d (s.tgOf d 6)) = false) ∧
  (s.mainRuns = true) :=
  ⟨((State.reset.modPort 0 6 (fun p => { p with safe := .none, refresh := 1 })).setB (TRIP.TGSTAT_TRIPPED 0 0) false).setBit SFN.SFSTAT_NET 0 false,
    0, by decide +kernel⟩

theorem witness_ChopperAndAuxiliary_10 : ∃ (s : State) (d : Fin 4), ((s.port d 6).refresh = 2) ∧ ((s.port d 6).refWait = 0) ∧
  (s.follows d 6 = true) ∧ (s.dieRuns d = true) ∧ (s.flag (TRIP.TGSTAT_TRIPPED d (s.tgOf d 6)) = false) ∧ (s.mainRuns = true) :=
  ⟨(State.reset.modPort 0 6 (fun p => { p with safe := .none, refresh := 2, gl := true })).setB (TRIP.TGSTAT_TRIPPED 0 0) false, 0, by decide +kernel⟩

theorem witness_AdcSequences_1 : ∃ (s : State) (d : Fin 4) (k : Fin 4), (s.get (ADC.SEQCFG_REG_TRIG d k) = 10) ∧
  (s.get (ADC.SEQCFG_INJ_TRIG d k) ≠ 10) ∧ (s.dieRuns d = true) ∧ (s.flag (ADC.ASTAT_RETIRED d k) = false) ∧ (s.flag (ADC.ACFG_EN d k) = true) ∧
  (s.get (ADC.SEQCFG_REG_LEN d k) ≠ 0) ∧ (s.flag (ADC.ASTAT_REG_BUSY d k) = false) ∧ (s.flag (ADC.ACFG_FWD_N d k) = false) ∧
  ((s.adc d k).injAt = none) ∧ (s.mainRuns = true) :=
  ⟨(((((State.reset.setB (ADC.ACFG_EN 3 3) true).set (ADC.SEQCFG_REG_LEN 3 3) 16).set (ADC.SEQCFG_INJ_LEN 3 3) 4).set (ADC.SEQCFG_REG_TRIG 3 3)
    10).set (ADC.SEQCFG_INJ_TRIG 3 3) 9), 3, 3, by decide +kernel⟩

theorem witness_AdcSequences_2 : ∃ (s : State) (d : Fin 4) (k : Fin 4), (s.get (ADC.SEQCFG_INJ_TRIG d k) = 10) ∧
  (s.get (ADC.SEQCFG_REG_TRIG d k) ≠ 10) ∧ (s.dieRuns d = true) ∧ (s.flag (ADC.ASTAT_RETIRED d k) = false) ∧ (s.flag (ADC.ACFG_EN d k) = true) ∧
  (s.get (ADC.SEQCFG_INJ_LEN d k) ≠ 0) ∧ ((s.adc d k).injAt = none) ∧ (s.mainRuns = true) :=
  ⟨(((((State.reset.setB (ADC.ACFG_EN 3 3) true).set (ADC.SEQCFG_REG_LEN 3 3) 16).set (ADC.SEQCFG_INJ_LEN 3 3) 4).set (ADC.SEQCFG_REG_TRIG 3 3)
    9).set (ADC.SEQCFG_INJ_TRIG 3 3) 10), 3, 3, by decide +kernel⟩

theorem witness_AdcSequences_3 : ∃ (s : State) (d : Fin 4) (k : Fin 4) (m : Fin 4), (s.get (ADC.SEQCFG_REG_TRIG d k) = m.val + 1) ∧
  (s.get (ADC.SEQCFG_INJ_TRIG d k) ≠ m.val + 1) ∧ (s.grpRuns d m = true) ∧ (s.dieRuns d = true) ∧ ((s.grp d m).mode = 0) ∧
  ((s.grp d m).stopping = false) ∧ (s.flag (ADC.ASTAT_RETIRED d k) = false) ∧ (s.flag (ADC.ACFG_EN d k) = true) ∧
  (s.get (ADC.SEQCFG_REG_LEN d k) ≠ 0) ∧ (s.flag (ADC.ASTAT_REG_BUSY d k) = false) ∧ (s.flag (ADC.ACFG_FWD_N d k) = false) ∧
  ((s.adc d k).injAt = none) ∧ (s.mainRuns = true) :=
  ⟨(((((State.reset.setB (ADC.ACFG_EN 3 3) true).set (ADC.SEQCFG_REG_LEN 3 3) 16).set (ADC.SEQCFG_INJ_LEN 3 3) 4).set (ADC.SEQCFG_REG_TRIG 3 3)
    4).set (ADC.SEQCFG_INJ_TRIG 3 3) 9).setB (PWM.STAT_RUN 3 3) true |>.modGrp 3 3 (fun g => { g with mode := 0, periods := 5, trigSel := 0 }), 3, 3,
    3, by decide +kernel⟩

theorem witness_AdcSequences_4 : ∃ (s : State) (src : Fin 16), (src.val < 5 ∨ 9 < src.val) ∧ (s.mainRuns = true) :=
  ⟨(((((State.reset.setB (ADC.ACFG_EN 3 3) true).set (ADC.SEQCFG_REG_LEN 3 3) 16).set (ADC.SEQCFG_INJ_LEN 3 3) 4).set (ADC.SEQCFG_REG_TRIG 3 3)
    10).set (ADC.SEQCFG_INJ_TRIG 3 3) 10), 10, by decide +kernel⟩

theorem witness_AdcSequences_5 : ∃ (s : State) (src : Fin 16), (src.val < 5 ∨ 9 < src.val) ∧ (s.mainRuns = true) :=
  ⟨(((((State.reset.setB (ADC.ACFG_EN 3 3) true).set (ADC.SEQCFG_REG_LEN 3 3) 16).set (ADC.SEQCFG_INJ_LEN 3 3) 4).set (ADC.SEQCFG_REG_TRIG 3 3)
    10).set (ADC.SEQCFG_INJ_TRIG 3 3) 10), 10, by decide +kernel⟩

theorem witness_AdcSequences_6 : ∃ (s : State) (d : Fin 4) (k : Fin 4) (src : Fin 16), (5 ≤ src.val) ∧ (src.val ≤ 8) ∧
  (s.get (ADC.SEQCFG_REG_TRIG d k) = src.val) ∧ ((s.adc d k).regMark ≠ some (s.ttime d)) ∧ (s.grpRuns d (src.val - 5) = true) ∧
  (s.get (PWM.CNT_COUNT d (src.val - 5)) = getBits (s.reg (ADC.RTRIG d k)) 0 20) ∧ (s.flag (ADC.ASTAT_RETIRED d k) = false) ∧
  (s.flag (ADC.ACFG_EN d k) = true) ∧ (s.get (ADC.SEQCFG_REG_LEN d k) ≠ 0) ∧ (s.flag (ADC.ASTAT_REG_BUSY d k) = false) ∧
  (s.flag (ADC.ACFG_FWD_N d k) = false) ∧ ((s.adc d k).injAt = none) ∧ (s.mainRuns = true) :=
  ⟨((((((State.reset.setB (ADC.ACFG_EN 3 3) true).set (ADC.SEQCFG_REG_LEN 3 3) 16).set (ADC.SEQCFG_INJ_LEN 3 3) 4).set (ADC.SEQCFG_REG_TRIG 3 3)
    8).set (ADC.SEQCFG_INJ_TRIG 3 3) 8)).setB (PWM.STAT_RUN 3 3) true, 3, 3, 8, by decide +kernel⟩

theorem witness_AdcSequences_7 : ∃ (s : State) (d : Fin 4) (k : Fin 4), (s.get (ADC.SEQCFG_REG_TRIG d k) = 9) ∧
  (s.edgeTick d (s.adc d k).regEdge = true) ∧ (s.flag (ADC.ASTAT_RETIRED d k) = false) ∧ (s.flag (ADC.ACFG_EN d k) = true) ∧
  (s.get (ADC.SEQCFG_REG_LEN d k) ≠ 0) ∧ (s.flag (ADC.ASTAT_REG_BUSY d k) = false) ∧ (s.flag (ADC.ACFG_FWD_N d k) = false) ∧
  ((s.adc d k).injAt = none) ∧ (s.mainRuns = true) :=
  ⟨(((((((State.reset.setB (ADC.ACFG_EN 3 3) true).set (ADC.SEQCFG_REG_LEN 3 3) 16).set (ADC.SEQCFG_INJ_LEN 3 3) 4).set (ADC.SEQCFG_REG_TRIG 3 3)
    9).set (ADC.SEQCFG_INJ_TRIG 3 3) 9)).modAdc 3 3 (fun c => { c with regEdge := some 5 })).setTtime 3 8, 3, 3, by decide +kernel⟩

theorem witness_AdcSequences_8 : ∃ (s : State) (d : Fin 4) (k : Fin 4) (src : Fin 16), (src.val ≠ 9) ∧ ((s.adc d k).regMark = some (s.ttime d)) ∧
  (s.mainRuns = true) :=
  ⟨(State.reset.modAdc 3 3 (fun c => { c with regMark := some 8 })).setTtime 3 8, 3, 3, 4, by decide +kernel⟩

theorem witness_AdcSequences_9 : ∃ (s : State) (d : Fin 4) (k : Fin 4) (src : Fin 16), (5 ≤ src.val) ∧ (src.val ≤ 8) ∧
  (s.get (ADC.SEQCFG_INJ_TRIG d k) = src.val) ∧ ((s.adc d k).injMark ≠ some (s.ttime d)) ∧ (s.grpRuns d (src.val - 5) = true) ∧
  (s.get (PWM.CNT_COUNT d (src.val - 5)) = getBits (s.reg (ADC.ITRIG d k)) 0 20) ∧ (s.flag (ADC.ASTAT_RETIRED d k) = false) ∧
  (s.flag (ADC.ACFG_EN d k) = true) ∧ (s.get (ADC.SEQCFG_INJ_LEN d k) ≠ 0) ∧ ((s.adc d k).injAt = none) ∧ (s.mainRuns = true) :=
  ⟨((((((State.reset.setB (ADC.ACFG_EN 3 3) true).set (ADC.SEQCFG_REG_LEN 3 3) 16).set (ADC.SEQCFG_INJ_LEN 3 3) 4).set (ADC.SEQCFG_REG_TRIG 3 3)
    8).set (ADC.SEQCFG_INJ_TRIG 3 3) 8)).setB (PWM.STAT_RUN 3 3) true, 3, 3, 8, by decide +kernel⟩

theorem witness_AdcSequences_10 : ∃ (s : State) (d : Fin 4) (k : Fin 4), (s.get (ADC.SEQCFG_INJ_TRIG d k) = 9) ∧
  (s.edgeTick d (s.adc d k).injEdge = true) ∧ (s.flag (ADC.ASTAT_RETIRED d k) = false) ∧ (s.flag (ADC.ACFG_EN d k) = true) ∧
  (s.get (ADC.SEQCFG_INJ_LEN d k) ≠ 0) ∧ ((s.adc d k).injAt = none) ∧ (s.mainRuns = true) :=
  ⟨(((((((State.reset.setB (ADC.ACFG_EN 3 3) true).set (ADC.SEQCFG_REG_LEN 3 3) 16).set (ADC.SEQCFG_INJ_LEN 3 3) 4).set (ADC.SEQCFG_REG_TRIG 3 3)
    9).set (ADC.SEQCFG_INJ_TRIG 3 3) 9)).modAdc 3 3 (fun c => { c with injEdge := some 5 })).setTtime 3 8, 3, 3, by decide +kernel⟩

theorem witness_AdcSequences_11 : ∃ (s : State) (d : Fin 4) (k : Fin 4) (src : Fin 16), (src.val ≠ 9) ∧ ((s.adc d k).injMark = some (s.ttime d)) ∧
  (s.mainRuns = true) :=
  ⟨(State.reset.modAdc 3 3 (fun c => { c with injMark := some 8 })).setTtime 3 8, 3, 3, 4, by decide +kernel⟩

theorem witness_AdcSequences_12 : ∃ (s : State) (d : Fin 4) (k : Fin 4), (s.flag (ADC.ASTAT_RETIRED d k) = false) ∧
  (s.flag (ADC.ACFG_EN d k) = true) ∧ (s.get (ADC.SEQCFG_REG_LEN d k) ≠ 0) ∧ (s.flag (ADC.ASTAT_REG_BUSY d k) = false) ∧
  (s.flag (ADC.ACFG_FWD_N d k) = false) ∧ ((s.adc d k).injAt = none) ∧ (s.mainRuns = true) :=
  ⟨(((((State.reset.setB (ADC.ACFG_EN 3 3) true).set (ADC.SEQCFG_REG_LEN 3 3) 1).set (ADC.SEQCFG_INJ_LEN 3 3) 1).set (ADC.SEQCFG_REG_TRIG 3 3) 8).set
    (ADC.SEQCFG_INJ_TRIG 3 3) 8), 3, 3, by decide +kernel⟩

theorem witness_AdcSequences_13 : ∃ (s : State) (d : Fin 4) (k : Fin 4), (s.flag (ADC.ASTAT_RETIRED d k) = false) ∧
  (s.flag (ADC.ACFG_EN d k) = true) ∧ (s.get (ADC.SEQCFG_REG_LEN d k) ≠ 0) ∧ (s.flag (ADC.ASTAT_REG_BUSY d k) = false) ∧
  (s.flag (ADC.ACFG_FWD_N d k) = true) ∧ ((s.adc d k).injAt = none) ∧ ((s.adc d k).lastTrig = none) ∧ (s.mainRuns = true) :=
  ⟨(((((State.reset.setB (ADC.ACFG_EN 3 3) true).set (ADC.SEQCFG_REG_LEN 3 3) 2).set (ADC.SEQCFG_INJ_LEN 3 3) 1).set (ADC.SEQCFG_REG_TRIG 3 3) 8).set
    (ADC.SEQCFG_INJ_TRIG 3 3) 8).setB (ADC.ACFG_FWD_N 3 3) true, 3, 3, by decide +kernel⟩

theorem witness_AdcSequences_14 : ∃ (s : State) (d : Fin 4) (k : Fin 4) (l : Nat), (s.flag (ADC.ASTAT_RETIRED d k) = false) ∧
  (s.flag (ADC.ACFG_EN d k) = true) ∧ (s.get (ADC.SEQCFG_REG_LEN d k) ≠ 0) ∧ (s.flag (ADC.ASTAT_REG_BUSY d k) = false) ∧
  (s.flag (ADC.ACFG_FWD_N d k) = true) ∧ ((s.adc d k).lastTrig = some l) ∧ ((s.ttime d + (2 ^ 48 - l)) % 2 ^ 48 < 1600) ∧ (s.mainRuns = true) :=
  ⟨(((((State.reset.setB (ADC.ACFG_EN 3 3) true).set (ADC.SEQCFG_REG_LEN 3 3) 2).set (ADC.SEQCFG_INJ_LEN 3 3) 1).set (ADC.SEQCFG_REG_TRIG 3 3) 8).set
    (ADC.SEQCFG_INJ_TRIG 3 3) 8).setB (ADC.ACFG_FWD_N 3 3) true |>.modAdc 3 3 (fun c => { c with lastTrig := some 0 }), 3, 3, 0, by decide +kernel⟩

theorem witness_AdcSequences_15 : ∃ (s : State) (d : Fin 4) (k : Fin 4), (s.flag (ADC.ASTAT_RETIRED d k) = false) ∧
  (s.flag (ADC.ACFG_EN d k) = true) ∧ (s.get (ADC.SEQCFG_INJ_LEN d k) ≠ 0) ∧ ((s.adc d k).injAt = none) ∧ (s.mainRuns = true) :=
  ⟨(((((State.reset.setB (ADC.ACFG_EN 3 3) true).set (ADC.SEQCFG_REG_LEN 3 3) 1).set (ADC.SEQCFG_INJ_LEN 3 3) 1).set (ADC.SEQCFG_REG_TRIG 3 3) 8).set
    (ADC.SEQCFG_INJ_TRIG 3 3) 8), 3, 3, by decide +kernel⟩

theorem witness_AdcSequences_16 : ∃ (s : State) (d : Fin 4) (k : Fin 4), (s.flag (ADC.ASTAT_RETIRED d k) = false) ∧
  (s.flag (ADC.ACFG_EN d k) = true) ∧ (s.get (ADC.SEQCFG_REG_LEN d k) ≠ 0) ∧ (s.flag (ADC.ASTAT_REG_BUSY d k) = true) ∧ (s.mainRuns = true) :=
  ⟨(((((State.reset.setB (ADC.ACFG_EN 3 3) true).set (ADC.SEQCFG_REG_LEN 3 3) 1).set (ADC.SEQCFG_INJ_LEN 3 3) 1).set (ADC.SEQCFG_REG_TRIG 3 3) 8).set
    (ADC.SEQCFG_INJ_TRIG 3 3) 8).setB (ADC.ASTAT_REG_BUSY 3 3) true, 3, 3, by decide +kernel⟩

theorem witness_AdcSequences_17 : ∃ (s : State) (d : Fin 4) (k : Fin 4), (s.flag (ADC.ASTAT_RETIRED d k) = false) ∧
  (s.flag (ADC.ACFG_EN d k) = false) ∧ (s.mainRuns = true) :=
  ⟨State.reset, 3, 3, by decide +kernel⟩

theorem witness_AdcSequences_18 : ∃ (s : State) (d : Fin 4) (k : Fin 4) (i : Nat), ((s.adc d k).injAt = some i) ∧ (i < 4) ∧
  ((s.adc d k).deferred = false) ∧ (s.mainRuns = true) :=
  ⟨State.reset.modAdc 3 3 (fun c => { c with inj := [5, 6, 7, 8], injAt := some 3 }), 3, 3, 3, by decide +kernel⟩

theorem witness_AdcSequences_19 : ∃ (s : State) (d : Fin 4) (k : Fin 4) (e : Nat), ((s.adc d k).injAt = none) ∧ ((s.adc d k).regAt = some e) ∧
  (e < 16) ∧ (s.get (ADC.ACFG_CLE_DST d k) = 1) ∧ (s.flag (ADC.ACFG_FWD_N d k) = false) ∧ (s.mainRuns = true) :=
  ⟨(State.reset.set (ADC.ACFG_CLE_DST 3 3) 1).modAdc 3 3 (fun c => { c with reg := List.replicate 16 5, regAt := some 15 }), 3, 3, 15,
    by decide +kernel⟩

theorem witness_AdcSequences_20 : ∃ (s : State) (d : Fin 4) (k : Fin 4), ((s.adc d k).regAt.isSome = true) ∧ (s.mainRuns = true) :=
  ⟨State.reset.modAdc 3 3 (fun c => { c with reg := [5], regAt := some 0 }), 3, 3, by decide +kernel⟩

theorem witness_AdcSequences_21 : ∃ (s : State) (d : Fin 4) (k : Fin 4), (s.flag (ADC.ACFG_EN d k) = true) ∧ ((s.adc d k).regAt.isSome = true) ∧
  (s.mainRuns = true) ∧ (s.parityOk (ADC.ACFG d k) = true) :=
  ⟨(((((State.reset.setB (ADC.ACFG_EN 3 3) true).set (ADC.SEQCFG_REG_LEN 3 3) 1).set (ADC.SEQCFG_INJ_LEN 3 3) 1).set (ADC.SEQCFG_REG_TRIG 3 3) 8).set
    (ADC.SEQCFG_INJ_TRIG 3 3) 8).modAdc 3 3 (fun c => { c with reg := [5], regAt := some 0 }), 3, 3, by decide +kernel⟩

theorem witness_ComparatorsAndChecks_1 : ∃ (s : State) (d : Fin 4) (i : Fin 16) (vin : Int) (v : Bool), (s.cmpSense d i vin = some v) ∧
  (s.flag (CMP.CCFG_EN d i) = true) ∧ (s.flag (CMP.CSTAT_SETTLING d i) = false) ∧ (s.flag (CMP.CSTAT_CHK_ACT d i) = false) ∧
  (s.flag (CMP.CSTAT_OUT d i) ≠ v) ∧ (s.mainRuns = true) :=
  ⟨(State.reset.setB (CMP.CCFG_EN 3 15) true).modPower (fun x => { x with good := true, reset := false }), 3, 15, 3300000000, true, by decide +kernel⟩

theorem witness_ComparatorsAndChecks_2 : ∃ (s : State) (d : Fin 4) (i : Fin 16) (vin : Int), (s.cmpSense d i vin = none) :=
  ⟨(State.reset.set (CMP.CTHR_THRESH 3 15) 2048).set (CMP.CTHR_HYST 3 15) 100, 3, 15, 1640000000, by decide +kernel⟩

theorem witness_ComparatorsAndChecks_3 : ∃ (s : State) (d : Fin 4) (i : Fin 16) (vin : Int), (s.cmpInv d i = false) ∧
  (3300000000 * (s.thresh d i : Int) < 4096 * vin) ∧ (s.flag (CMP.CCFG_EN d i) = true) ∧ (s.flag (CMP.CSTAT_SETTLING d i) = false) ∧
  (s.flag (CMP.CSTAT_CHK_ACT d i) = false) :=
  ⟨State.reset.setB (CMP.CCFG_EN 3 15) true, 3, 15, 3300000000, by decide +kernel⟩

theorem witness_ComparatorsAndChecks_4 : ∃ (s : State) (d : Fin 4) (i : Fin 16), (s.flag (CMP.CCFG_EN d i) = false) ∧
  (s.flag (CMP.CSTAT_CHK_ACT d i) = false) ∧ (s.mainRuns = true) ∧ (s.parityOk (CMP.CCFG d i) = true) :=
  ⟨State.reset.setB (CMP.CCFG_INIT 3 15) true, 3, 15, by decide +kernel⟩

theorem witness_ComparatorsAndChecks_5 : ∃ (s : State) (d : Fin 4) (i : Fin 16), (s.flag (CMP.CCFG_EN d i) = true) ∧ (s.mainRuns = true) ∧
  (s.parityOk (CMP.CCFG d i) = true) :=
  ⟨(State.reset.setB (CMP.CCFG_EN 3 15) true).setB (CMP.CSTAT_OUT 3 15) true, 3, 15, by decide +kernel⟩

theorem witness_ComparatorsAndChecks_6 : ∃ (s : State) (d : Fin 4) (i : Fin 16), (s.flag (CMP.CSTAT_SETTLING d i) = true) ∧
  (s.flag (CMP.CSTAT_CHK_ACT d i) = false) ∧ (s.mainRuns = true) :=
  ⟨(State.reset.setB (CMP.CCFG_EN 3 15) true).setB (CMP.CSTAT_SETTLING 3 15) true, 3, 15, by decide +kernel⟩

theorem witness_ComparatorsAndChecks_7 : ∃ (s : State) (d : Fin 4) (i : Fin 16), (s.flag (CMP.CSTAT_CHK_ACT d i) = false) ∧ (s.mainRuns = true) :=
  ⟨State.reset.setB (CMP.CSTAT_LAT 3 15) true, 3, 15, by decide +kernel⟩

theorem witness_ComparatorsAndChecks_8 : ∃ (s : State) (d : Fin 4) (i : Fin 16), (s.flag (CMP.CCFG_IRQ_EN d i) = true) ∧ (0 < (s.cmp d i).edges) ∧
  (s.mainRuns = true) :=
  ⟨(State.reset.setB (CMP.CCFG_IRQ_EN 3 15) true).modCmp 3 15 (fun c => { c with edges := 256 }), 3, 15, by decide +kernel⟩

theorem witness_ComparatorsAndChecks_9 : ∃ (s : State) (d : Fin 4) (i : Fin 16) (v : Fin 8), (1 ≤ v.val) ∧ (v.val ≤ 4) ∧
  (s.checkAllowed d i = true) ∧ (s.mainRuns = true) :=
  ⟨State.reset.setB (CMP.CCFG_EN 3 15) true, 3, 15, 4, by decide +kernel⟩

theorem witness_ComparatorsAndChecks_10 : ∃ (s : State) (d : Fin 4) (i : Fin 16) (v : Fin 8), (v = 2 ∨ v = 3) ∧ (s.checkAllowed d i = true) ∧
  (s.cmpInv d i = false) ∧ (373 ≤ s.thresh d i) ∧ (s.thresh d i ≤ 3723) ∧ (s.mainRuns = true) :=
  ⟨(State.reset.setB (CMP.CCFG_EN 3 15) true).set (CMP.CTHR_THRESH 3 15) 373, 3, 15, 3, by decide +kernel⟩

theorem witness_ComparatorsAndChecks_11 : ∃ (s : State) (d : Fin 4) (i : Fin 16) (v : Fin 8), (1 ≤ v.val) ∧ (v.val ≤ 4) ∧
  (s.checkAllowed d i = false) ∧ (s.mainRuns = true) :=
  ⟨(((State.reset.setB (CMP.CCFG_EN 3 15) true).set (TRIP.CSRC_PARTNER 3 15) 15).set (TRIP.SRCMASK_CMP 3 0) 0x8000).setB (TRIP.TGSTAT_TRIPPED 3 0)
    false, 3, 15, 1, by decide +kernel⟩

theorem witness_ComparatorsAndChecks_12 : ∃ (s : State) (d : Fin 4) (i : Fin 16) (v : Fin 8), (4 < v.val) ∧ (s.flag (CMP.CSTAT_CHK_ACT d i) = true) ∧
  (s.mainRuns = true) :=
  ⟨(State.reset.setB (CMP.CCFG_EN 3 15) true).setB (CMP.CSTAT_CHK_ACT 3 15) true, 3, 15, 5, by decide +kernel⟩

theorem witness_PositionInterfaces_1 : ∃ (s : State) (d : Fin 4) (p : Fin 2), (s.flag (PI.PICFG_EN d p) = false) ∧ (s.mainRuns = true) ∧
  (s.parityOk (PI.PICFG d p) = true) :=
  ⟨State.reset, 3, 1, by decide +kernel⟩

theorem witness_PositionInterfaces_2 : ∃ (s : State) (d : Fin 4) (p : Fin 2) (a : Bool) (b : Bool), (s.flag (PI.PICFG_EN d p) = true) ∧
  ((s.pi d p).encoder = true) ∧ (((s.pi d p).a ≠ a) ≠ ((s.pi d p).b ≠ b)) ∧ ((s.pi d p).zTick ≠ some (s.ttime d)) ∧ (s.mainRuns = true) :=
  ⟨((State.reset.setB (PI.PICFG_EN 3 1) true).modPi 3 1 (fun x => { x with encoder := true, a := true, b := true, zrst := true })).set (PI.PIPOS_POS
    3 1) 0xFFFFFFFF, 3, 1, false, true, by decide +kernel⟩

theorem witness_PositionInterfaces_3 : ∃ (s : State) (d : Fin 4) (p : Fin 2) (a : Bool) (b : Bool), (((s.pi d p).a ≠ a) ≠ ((s.pi d p).b ≠ b)) ∧
  ((s.pi d p).zTick = some (s.ttime d)) ∧ (s.mainRuns = true) :=
  ⟨(((State.reset.setB (PI.PICFG_EN 3 1) true).modPi 3 1 (fun x => { x with encoder := true, a := true, b := true, zrst := true })).set (PI.PIPOS_POS
    3 1) 0xFFFFFFFF).modPi 3 1 (fun x => { x with zTick := some 0 }), 3, 1, false, true, by decide +kernel⟩

theorem witness_PositionInterfaces_4 : ∃ (s : State) (d : Fin 4) (p : Fin 2) (a : Bool) (b : Bool), (s.flag (PI.PICFG_EN d p) = true) ∧
  ((s.pi d p).encoder = true) ∧ ((s.pi d p).a ≠ a) ∧ ((s.pi d p).b ≠ b) ∧ (s.mainRuns = true) :=
  ⟨((State.reset.setB (PI.PICFG_EN 3 1) true).modPi 3 1 (fun x => { x with encoder := true, a := true, b := true, zrst := true })).set (PI.PIPOS_POS
    3 1) 0xFFFFFFFF, 3, 1, false, false, by decide +kernel⟩

theorem witness_PositionInterfaces_5 : ∃ (s : State) (d : Fin 4) (p : Fin 2), (s.flag (PI.PICFG_EN d p) = true) ∧ ((s.pi d p).encoder = true) ∧
  ((s.pi d p).a = true) ∧ ((s.pi d p).b = true) ∧ (s.mainRuns = true) :=
  ⟨((State.reset.setB (PI.PICFG_EN 3 1) true).modPi 3 1 (fun x => { x with encoder := true, a := true, b := true, zrst := true })).set (PI.PIPOS_POS
    3 1) 0xFFFFFFFF, 3, 1, by decide +kernel⟩

theorem witness_CleMovesAndControl_1 : ∃ (s : State) (d : Fin 4) (c : Fin 2), (s.cleReady d c 0x00 = true) ∧ (s.mainRuns = true) :=
  ⟨((((State.reset.setB (CLE.FLAGS_RUNNING 3 1) true).setMemWord (cleMemBase 3 1 0) 0x3fee800).setCleData 3 1 0x61 0x00100000).modCle 3 1 (fun x =>
    { x with cyc := 15 })), 3, 1, by decide +kernel⟩

theorem witness_CleMovesAndControl_2 : ∃ (s : State) (d : Fin 4) (c : Fin 2), (s.cleReady d c 0x02 = true) ∧ (s.mainRuns = true) :=
  ⟨((((State.reset.setB (CLE.FLAGS_RUNNING 3 1) true).setMemWord (cleMemBase 3 1 0) 0xbfee9ff).setCleData 3 1 0x61 0x00100000).modCle 3 1 (fun x =>
    { x with cyc := 14 })), 3, 1, by decide +kernel⟩

theorem witness_CleMovesAndControl_3 : ∃ (s : State) (d : Fin 4) (c : Fin 2), (s.cleReady d c 0x03 = true) ∧ (s.mainRuns = true) :=
  ⟨((((State.reset.setB (CLE.FLAGS_RUNNING 3 1) true).setMemWord (cleMemBase 3 1 0) 0xffee9ff).setCleData 3 1 0x61 0x00100000).modCle 3 1 (fun x =>
    { x with cyc := 14 })), 3, 1, by decide +kernel⟩

theorem witness_CleMovesAndControl_4 : ∃ (s : State) (d : Fin 4) (c : Fin 2), (s.cleReady d c 0x06 = true) ∧ (s.mainRuns = true) :=
  ⟨((((State.reset.setB (CLE.FLAGS_RUNNING 3 1) true).setMemWord (cleMemBase 3 1 0) 0x1bfe8000).setCleData 3 1 0x61 0x00100000).modCle 3 1 (fun x =>
    { x with cyc := 15 })), 3, 1, by decide +kernel⟩

theorem witness_CleMovesAndControl_5 : ∃ (s : State) (d : Fin 4) (c : Fin 2), (s.cleReady d c 0x07 = true) ∧ (s.mainRuns = true) :=
  ⟨((((State.reset.setB (CLE.FLAGS_RUNNING 3 1) true).setMemWord (cleMemBase 3 1 0) 0x1ffee827).setCleData 3 1 0x61 0x00100000).modCle 3 1 (fun x =>
    { x with cyc := 14 })), 3, 1, by decide +kernel⟩

theorem witness_CleMovesAndControl_6 : ∃ (s : State) (d : Fin 4) (c : Fin 2), (s.flag (CLE.CLECFG_EN d c) = false) ∧ (s.mainRuns = true) ∧
  (s.parityOk (CLE.CLECFG d c) = true) :=
  ⟨State.reset, 3, 1, by decide +kernel⟩

theorem witness_CleMovesAndControl_7 : ∃ (s : State) (d : Fin 4) (c : Fin 2), (s.flag (CLE.CLECFG_EN d c) = true) ∧ (s.mainRuns = true) ∧
  (s.parityOk (CLE.CLECFG d c) = true) :=
  ⟨State.reset.setB (CLE.CLECFG_EN 3 1) true, 3, 1, by decide +kernel⟩

theorem witness_CleMovesAndControl_8 : ∃ (s : State) (d : Fin 4) (c : Fin 2), ((s.cle d c).scheduled = true) ∧ (s.flag (CLE.CLECFG_EN d c) = true) ∧
  (s.dieRuns d = true) ∧ (s.mainRuns = true) :=
  ⟨(State.reset.setB (CLE.CLECFG_EN 3 1) true).modCle 3 1 (fun x => { x with scheduled := true }), 3, 1, by decide +kernel⟩

theorem witness_CleMovesAndControl_9 : ∃ (s : State), (s.mainRuns = true) :=
  ⟨State.reset, by decide +kernel⟩

theorem witness_CleMovesAndControl_10 : ∃ (s : State), (s.mainRuns = true) :=
  ⟨State.reset, by decide +kernel⟩

theorem witness_CleMovesAndControl_11 : ∃ (s : State) (d : Fin 4) (c : Fin 2) (m : Fin 4) (w : BitVec 12), (w.toNat < cleMemWords m) ∧
  (s.cleWriteRefused d c m w.toNat = false) ∧ (s.mainRuns = true) :=
  ⟨State.reset, 3, 1, 0, 0xFFF, by decide +kernel⟩

theorem witness_CleMovesAndControl_12 : ∃ (s : State) (d : Fin 4) (c : Fin 2) (m : Fin 4) (w : BitVec 12), (w.toNat < cleMemWords m) ∧
  (s.cleWriteRefused d c m w.toNat = true) ∧ (s.mainRuns = true) :=
  ⟨State.reset, 3, 1, 1, 0xCF, by decide +kernel⟩

theorem witness_CleMovesAndControl_13 : ∃ (s : State), (s.mainRuns = true) :=
  ⟨State.reset, by decide +kernel⟩

theorem witness_CleMovesAndControl_14 : ∃ (s : State) (d : Fin 4) (k : Fin 4), (s.grpRuns d k = true) ∧ (variableMode (s.grp d k).mode = false) ∧
  (s.dieRuns d = true) ∧ (s.flag (CLE.CLECFG_EN d 0) = true) ∧ ((s.cle d 0).sched = k.val) ∧ (s.flag (CLE.CLECFG_EN d 1) = false) ∧
  ((s.cle d 0).deliver = true) ∧ ((s.cle d 0).marks = 2 ^ 32) ∧ (s.mainRuns = true) :=
  ⟨((State.reset.setB (PWM.STAT_RUN 3 0) true).setB (CLE.CLECFG_EN 3 0) true).modCle 3 0 (fun x => { x with deliver := true, marks := 2 ^ 32 }), 3,
    0, by decide +kernel⟩

theorem witness_CleArithmetic_1 : ∃ (s : State) (d : Fin 4) (c : Fin 2), (s.cleReady d c 0x08 = true) ∧ (s.mainRuns = true) :=
  ⟨((((State.reset.setB (CLE.FLAGS_RUNNING 3 1) true).setMemWord (cleMemBase 3 1 0) 0x23fee803).setCleData 3 1 0x61 0x00100000).modCle 3 1 (fun x =>
    { x with cyc := 15 })), 3, 1, by decide +kernel⟩

theorem witness_CleArithmetic_2 : ∃ (s : State) (d : Fin 4) (c : Fin 2), (s.cleReady d c 0x09 = true) ∧ (s.mainRuns = true) :=
  ⟨((((State.reset.setB (CLE.FLAGS_RUNNING 3 1) true).setMemWord (cleMemBase 3 1 0) 0x27fee800).setCleData 3 1 0x61 0x00100000).modCle 3 1 (fun x =>
    { x with cyc := 15 })), 3, 1, by decide +kernel⟩

theorem witness_CleArithmetic_3 : ∃ (s : State) (d : Fin 4) (c : Fin 2), (s.cleReady d c 0x0A = true) ∧ (s.mainRuns = true) :=
  ⟨((((State.reset.setB (CLE.FLAGS_RUNNING 3 1) true).setMemWord (cleMemBase 3 1 0) 0x2bfee800).setCleData 3 1 0x61 0x00100000).modCle 3 1 (fun x =>
    { x with cyc := 15 })), 3, 1, by decide +kernel⟩

theorem witness_CleArithmetic_4 : ∃ (s : State) (d : Fin 4) (c : Fin 2), (s.cleReady d c 0x0B = true) ∧ (s.mainRuns = true) :=
  ⟨((((State.reset.setB (CLE.FLAGS_RUNNING 3 1) true).setMemWord (cleMemBase 3 1 0) 0x2ffee800).setCleData 3 1 0x61 0x00100000).modCle 3 1 (fun x =>
    { x with cyc := 15 })), 3, 1, by decide +kernel⟩

theorem witness_CleArithmetic_5 : ∃ (s : State) (d : Fin 4) (c : Fin 2), (s.cleReady d c 0x0C = true) ∧ (s.mainRuns = true) :=
  ⟨((((State.reset.setB (CLE.FLAGS_RUNNING 3 1) true).setMemWord (cleMemBase 3 1 0) 0x33fee800).setCleData 3 1 0x61 0x00100000).modCle 3 1 (fun x =>
    { x with cyc := 15 })), 3, 1, by decide +kernel⟩

theorem witness_CleArithmetic_6 : ∃ (s : State) (d : Fin 4) (c : Fin 2), (s.cleReady d c 0x0D = true) ∧ (s.mainRuns = true) :=
  ⟨((((State.reset.setB (CLE.FLAGS_RUNNING 3 1) true).setMemWord (cleMemBase 3 1 0) 0x37fee800).setCleData 3 1 0x61 0x00100000).modCle 3 1 (fun x =>
    { x with cyc := 15 })), 3, 1, by decide +kernel⟩

theorem witness_CleArithmetic_7 : ∃ (s : State) (d : Fin 4) (c : Fin 2), (s.cleReady d c 0x0E = true) ∧ (s.mainRuns = true) :=
  ⟨((((State.reset.setB (CLE.FLAGS_RUNNING 3 1) true).setMemWord (cleMemBase 3 1 0) 0x3bfee820).setCleData 3 1 0x61 0x00100000).modCle 3 1 (fun x =>
    { x with cyc := 15 })), 3, 1, by decide +kernel⟩

theorem witness_CleArithmetic_8 : ∃ (s : State) (d : Fin 4) (c : Fin 2), (s.cleReady d c 0x0F = true) ∧ (s.mainRuns = true) :=
  ⟨((((State.reset.setB (CLE.FLAGS_RUNNING 3 1) true).setMemWord (cleMemBase 3 1 0) 0x3ffee800).setCleData 3 1 0x61 0x00100000).modCle 3 1 (fun x =>
    { x with cyc := 15 })), 3, 1, by decide +kernel⟩

theorem witness_CleArithmetic_9 : ∃ (s : State) (d : Fin 4) (c : Fin 2), (s.cleReady d c 0x10 = true) ∧ (s.mainRuns = true) :=
  ⟨((((State.reset.setB (CLE.FLAGS_RUNNING 3 1) true).setMemWord (cleMemBase 3 1 0) 0x43feefc0).setCleData 3 1 0x61 0x00100000).modCle 3 1 (fun x =>
    { x with cyc := 15 })), 3, 1, by decide +kernel⟩

theorem witness_CleArithmetic_10 : ∃ (s : State) (d : Fin 4) (c : Fin 2), (s.cleReady d c 0x1B = true) ∧ (s.mainRuns = true) :=
  ⟨((((State.reset.setB (CLE.FLAGS_RUNNING 3 1) true).setMemWord (cleMemBase 3 1 0) 0x6ffee800).setCleData 3 1 0x61 0x00100000).modCle 3 1 (fun x =>
    { x with cyc := 10 })), 3, 1, by decide +kernel⟩

theorem witness_CleMultiply_1 : ∃ (s : State) (d : Fin 4) (c : Fin 2), (s.cleReady d c 0x11 = true) ∧ (s.mainRuns = true) :=
  ⟨((((State.reset.setB (CLE.FLAGS_RUNNING 3 1) true).setMemWord (cleMemBase 3 1 0) 0x47fee81f).setCleData 3 1 0x61 0x00100000).modCle 3 1 (fun x =>
    { x with cyc := 14 })), 3, 1, by decide +kernel⟩

theorem witness_CleMultiply_2 : ∃ (s : State) (d : Fin 4) (c : Fin 2), (s.cleReady d c 0x12 = true) ∧ (s.mainRuns = true) :=
  ⟨((((State.reset.setB (CLE.FLAGS_RUNNING 3 1) true).setMemWord (cleMemBase 3 1 0) 0x4bfee827).setCleData 3 1 0x61 0x00100000).modCle 3 1 (fun x =>
    { x with cyc := 14 })), 3, 1, by decide +kernel⟩

theorem witness_CleMultiply_3 : ∃ (s : State) (d : Fin 4) (c : Fin 2), (s.cleReady d c 0x13 = true) ∧ (s.mainRuns = true) :=
  ⟨((((State.reset.setB (CLE.FLAGS_RUNNING 3 1) true).setMemWord (cleMemBase 3 1 0) 0x4ffee81f).setCleData 3 1 0x61 0x00100000).modCle 3 1 (fun x =>
    { x with cyc := 14 })), 3, 1, by decide +kernel⟩

theorem witness_CleMultiply_4 : ∃ (s : State) (d : Fin 4) (c : Fin 2), (s.cleReady d c 0x14 = true) ∧ (s.mainRuns = true) :=
  ⟨((((State.reset.setB (CLE.FLAGS_RUNNING 3 1) true).setMemWord (cleMemBase 3 1 0) 0x53fee827).setCleData 3 1 0x61 0x00100000).modCle 3 1 (fun x =>
    { x with cyc := 14 })), 3, 1, by decide +kernel⟩

theorem witness_CleMultiply_5 : ∃ (s : State) (d : Fin 4) (c : Fin 2), (s.cleReady d c 0x15 = true) ∧ (s.mainRuns = true) :=
  ⟨((((State.reset.setB (CLE.FLAGS_RUNNING 3 1) true).setMemWord (cleMemBase 3 1 0) 0x57fee81f).setCleData 3 1 0x61 0x00100000).modCle 3 1 (fun x =>
    { x with cyc := 15 })), 3, 1, by decide +kernel⟩

theorem witness_CleMultiply_6 : ∃ (s : State) (d : Fin 4) (c : Fin 2), (s.cleReady d c 0x16 = true) ∧ (s.mainRuns = true) :=
  ⟨((((State.reset.setB (CLE.FLAGS_RUNNING 3 1) true).setMemWord (cleMemBase 3 1 0) 0x5bfee81f).setCleData 3 1 0x61 0x00100000).modCle 3 1 (fun x =>
    { x with cyc := 15 })), 3, 1, by decide +kernel⟩

theorem witness_CleMultiply_7 : ∃ (s : State) (d : Fin 4) (c : Fin 2), (s.cleReady d c 0x18 = true) ∧ (s.mainRuns = true) :=
  ⟨((((State.reset.setB (CLE.FLAGS_RUNNING 3 1) true).setMemWord (cleMemBase 3 1 0) 0x63fee800).setCleData 3 1 0x61 0x00100000).modCle 3 1 (fun x =>
    { x with cyc := 13 })), 3, 1, by decide +kernel⟩

theorem witness_CleMultiply_8 : ∃ (s : State) (d : Fin 4) (c : Fin 2), (s.cleReady d c 0x19 = true) ∧ (s.mainRuns = true) :=
  ⟨((((State.reset.setB (CLE.FLAGS_RUNNING 3 1) true).setMemWord (cleMemBase 3 1 0) 0x67fee800).setCleData 3 1 0x61 0x00100000).modCle 3 1 (fun x =>
    { x with cyc := 13 })), 3, 1, by decide +kernel⟩

theorem witness_CleMultiply_9 : ∃ (s : State) (d : Fin 4) (c : Fin 2), (s.cleReady d c 0x1A = true) ∧ (s.mainRuns = true) :=
  ⟨((((State.reset.setB (CLE.FLAGS_RUNNING 3 1) true).setMemWord (cleMemBase 3 1 0) 0x6bfee801).setCleData 3 1 0x61 0x00100000).modCle 3 1 (fun x =>
    { x with cyc := 13 })), 3, 1, by decide +kernel⟩

theorem witness_CleMultiply_10 : ∃ (s : State) (d : Fin 4) (c : Fin 2), (s.cleReady d c 0x17 = true) ∧ (s.mainRuns = true) :=
  ⟨((((State.reset.setB (CLE.FLAGS_RUNNING 3 1) true).setMemWord (cleMemBase 3 1 0) 0x5ffee800).setCleData 3 1 0x61 0x00100000).modCle 3 1 (fun x =>
    { x with cyc := 12 })), 3, 1, by decide +kernel⟩

theorem witness_CleMultiply_11 : (sin64 true 65535).natAbs ≤ 2 ^ 64 := by decide +kernel

theorem witness_CleStoresAndBranches_1 : ∃ (s : State) (d : Fin 4) (c : Fin 2), (s.cleReady d c 0x04 = true) ∧ (0xA0 ≤ fM (s.cleWord d c)) ∧
  (fM (s.cleWord d c) < 0xC8) ∧ (s.mainRuns = true) :=
  ⟨((((State.reset.setB (CLE.FLAGS_RUNNING 3 1) true).setMemWord (cleMemBase 3 1 0) 0x13fee8c7).setCleData 3 1 0x61 0x00100000).modCle 3 1 (fun x =>
    { x with cyc := 0 })), 3, 1, by decide +kernel⟩

theorem witness_CleStoresAndBranches_2 : ∃ (s : State) (d : Fin 4) (c : Fin 2), (s.cleReady d c 0x04 = true) ∧
  (fM (s.cleWord d c) < 0xA0 ∨ (0xC8 ≤ fM (s.cleWord d c) ∧ fM (s.cleWord d c) < 0x170)) ∧ (s.mainRuns = true) :=
  ⟨((((State.reset.setB (CLE.FLAGS_RUNNING 3 1) true).setMemWord (cleMemBase 3 1 0) 0x13fee96f).setCleData 3 1 0x61 0x00100000).modCle 3 1 (fun x =>
    { x with cyc := 0 })), 3, 1, by decide +kernel⟩

theorem witness_CleStoresAndBranches_3 : ∃ (s : State) (d : Fin 4) (c : Fin 2) (m : Nat), (s.cleReady d c 0x05 = true) ∧
  (m = (getBits ((s.cle d c).reg (fB (s.cleWord d c))) 0 9 + fM (s.cleWord d c)) % 512) ∧ (0x170 ≤ m) ∧ (s.mainRuns = true) :=
  ⟨((((State.reset.setB (CLE.FLAGS_RUNNING 3 1) true).setMemWord (cleMemBase 3 1 0) 0x17fee9ff).setCleData 3 1 0x61 0x00100000).modCle 3 1 (fun x =>
    { x with cyc := 0 })), 3, 1, 511, by decide +kernel⟩

theorem witness_CleStoresAndBranches_4 : ∃ (s : State) (d : Fin 4) (c : Fin 2), (s.cleReady d c 0x01 = true) ∧ ((s.cle d c).cyc < 65535) ∧
  (s.mainRuns = true) :=
  ⟨((((State.reset.setB (CLE.FLAGS_RUNNING 3 1) true).setMemWord (cleMemBase 3 1 0) 0x7fee800).setCleData 3 1 0x61 0x00100000).modCle 3 1 (fun x =>
    { x with cyc := 15 })), 3, 1, by decide +kernel⟩

theorem witness_CleStoresAndBranches_5 : ∃ (s : State) (d : Fin 4) (c : Fin 2), (s.cleReady d c 0x1C = true) ∧ (s.mainRuns = true) :=
  ⟨((((State.reset.setB (CLE.FLAGS_RUNNING 3 1) true).setMemWord (cleMemBase 3 1 0) 0x701e07ff).setCleData 3 1 0x61 0x00100000).modCle 3 1 (fun x =>
    { x with cyc := 14 })), 3, 1, by decide +kernel⟩

theorem witness_CleStoresAndBranches_6 : ∃ (s : State) (d : Fin 4) (c : Fin 2), (s.cleReady d c 0x1D = true) ∧ (s.mainRuns = true) :=
  ⟨((((State.reset.setB (CLE.FLAGS_RUNNING 3 1) true).setMemWord (cleMemBase 3 1 0) 0x740107ff).setCleData 3 1 0x61 0x00100000).modCle 3 1 (fun x =>
    { x with cyc := 15 })), 3, 1, by decide +kernel⟩

theorem witness_CleStoresAndBranches_7 : ∃ (s : State) (d : Fin 4) (c : Fin 2), (s.flag (CLE.FLAGS_RUNNING d c) = true) ∧ (s.dieRuns d = true) ∧
  (s.cleIllegal d c = true) ∧ ((s.cle d c).cyc < s.cbLen d c) ∧ (s.mainRuns = true) :=
  ⟨((((State.reset.setB (CLE.FLAGS_RUNNING 3 1) true).setMemWord (cleMemBase 3 1 0) 0x7bfee800).setCleData 3 1 0x61 0x00100000).modCle 3 1 (fun x =>
    { x with cyc := 0 })), 3, 1, by decide +kernel⟩

theorem witness_CleStoresAndBranches_8 : ∃ (s : State) (d : Fin 4) (c : Fin 2), (s.flag (CLE.FLAGS_RUNNING d c) = true) ∧ (s.dieRuns d = true) ∧
  (s.cbLen d c ≤ (s.cle d c).cyc) ∧ (s.mainRuns = true) :=
  ⟨((((State.reset.setB (CLE.FLAGS_RUNNING 3 1) true).setMemWord (cleMemBase 3 1 0) 0x3fee800).setCleData 3 1 0x61 0x00100000).modCle 3 1 (fun x =>
    { x with cyc := 16 })), 3, 1, by decide +kernel⟩

theorem witness_GridConnection_1 : ∃ (s : State) (d : Fin 4), (s.flag (GSU.GCFG_GRID_EN d) = false) ∧ (s.gridRefused d = false) ∧
  (s.mainRuns = true) ∧ (s.parityOk (GSU.GCFG d) = true) :=
  ⟨((((((State.reset.set (GSU.GCFG_BRIDGES 3) 1).modGrp 3 0 (fun g => { g with ports := 7 })).set (PORT.PMODE_PMODE 3 0) 1).set (PORT.PMODE_PMODE 3
    1) 1).set (PORT.PMODE_PMODE 3 2) 1).setB (PWM.STAT_RUN 3 0) true).setB (RTS.RTCFG_ARM 3) true, 3, by decide +kernel⟩

theorem witness_GridConnection_2 : ∃ (s : State) (d : Fin 4), (s.flag (GSU.GCFG_GRID_EN d) = false) ∧ (s.gridRefused d = true) ∧
  (s.mainRuns = true) ∧ (s.parityOk (GSU.GCFG d) = true) :=
  ⟨State.reset, 3, by decide +kernel⟩

theorem witness_GridConnection_3 : ∃ (s : State) (d : Fin 4), (s.flag (GSU.GCFG_GRID_EN d) = true) ∧ (s.flag (RTS.RTSTAT_GCON_CLOSED d) = false) ∧
  ((s.gridTgs d).any (fun q => !s.flag (TRIP.TGSTAT_TRIPPED d q)) = false) ∧ (s.mainRuns = true) ∧ (s.parityOk (GSU.GCFG d) = true) :=
  ⟨State.reset.setB (GSU.GCFG_GRID_EN 3) true, 3, by decide +kernel⟩

theorem witness_GridConnection_4 : ∃ (s : State) (d : Fin 4), (s.flag (GSU.GCFG_GRID_EN d) = true) ∧ (s.flag (RTS.RTSTAT_GCON_CLOSED d) = true) ∧
  (s.mainRuns = true) ∧ (s.parityOk (GSU.GCFG d) = true) :=
  ⟨(State.reset.setB (GSU.GCFG_GRID_EN 3) true).setB (RTS.RTSTAT_GCON_CLOSED 3) true, 3, by decide +kernel⟩

theorem witness_GridConnection_5 : ∃ (s : State) (d : Fin 4), ((vget s.drives d).retired = false) ∧ (s.rcHolds d = true) ∧
  ((s.grid d).rcFailed = false) ∧ (s.mainRuns = true) :=
  ⟨State.reset.setB (GSU.GSTAT_LOCKED 3) true |>.set (RTS.RCV_RC_VMIN 3) 0 |>.set (RTS.RCV_RC_VMAX 3) 0xFFFF |>.set (RTS.RCF_RC_FMIN 3) 0 |>.set
    (RTS.RCF_RC_FMAX 3) 0xFFFF, 3, by decide +kernel⟩

theorem witness_GridConnection_6 : ∃ (s : State) (d : Fin 4), ((vget s.drives d).retired = false) ∧ (s.rcHolds d = false) ∧ (s.mainRuns = true) :=
  ⟨State.reset.set (RTS.RC_SEC_RC_SEC 3) 9, 3, by decide +kernel⟩

theorem witness_GridConnection_7 : ∃ (s : State) (d : Fin 4), (s.flag (RTS.RTSTAT_RC_READY d) = true) ∧ (s.get (RTS.RTSTAT_REGION d) = 0) ∧
  (s.flag (GSU.GSTAT_GSU_FAIL d) = false) ∧ (s.flag (RTS.RTSTAT_GCON_WELD d) = false) ∧ (s.mainRuns = true) :=
  ⟨(State.reset.setB (RTS.RTSTAT_RC_READY 3) true).setB (GSU.GSTAT_ISLAND 3) true, 3, by decide +kernel⟩

theorem witness_GridConnection_8 : ∃ (s : State) (d : Fin 4), (s.flag (RTS.RTSTAT_RC_READY d) = false) ∧ (s.mainRuns = true) :=
  ⟨State.reset, 3, by decide +kernel⟩

theorem witness_GridConnection_9 : ∃ (s : State), (s.mainRuns = true) :=
  ⟨State.reset.setB (GSU.GCFG_GRID_EN 3) true, by decide +kernel⟩

theorem witness_RideThrough_1 : ∃ (s : State) (d : Fin 4), (s.flag (RTS.RTCFG_ARM d) = false) ∧
  ((List.range 16).any (fun c => decide (16 < s.get (CURVE.HEAD_NPTS d c)) || !timesRise (s.curve d c)) = false) ∧ (s.mainRuns = true) ∧
  (s.parityOk (RTS.RTCFG d) = true) :=
  ⟨State.reset, 3, by decide +kernel⟩

theorem witness_RideThrough_2 : ∃ (s : State) (d : Fin 4), (s.flag (RTS.RTCFG_ARM d) = false) ∧
  ((List.range 16).any (fun c => decide (16 < s.get (CURVE.HEAD_NPTS d c)) || !timesRise (s.curve d c)) = true) ∧ (s.mainRuns = true) ∧
  (s.parityOk (RTS.RTCFG d) = true) :=
  ⟨State.reset.set (CURVE.HEAD_NPTS 3 15) 17, 3, by decide +kernel⟩

theorem witness_RideThrough_3 : ∃ (s : State) (d : Fin 4), (s.flag (RTS.RTCFG_ARM d) = true) ∧ (s.flag (GSU.GCFG_GRID_EN d) = false) ∧
  (s.mainRuns = true) ∧ (s.parityOk (RTS.RTCFG d) = true) :=
  ⟨State.reset.setB (RTS.RTCFG_ARM 3) true, 3, by decide +kernel⟩

theorem witness_RideThrough_4 : ∃ (s : State) (d : Fin 4), (s.flag (RTS.RTCFG_ARM d) = false) ∧ (s.mainRuns = true) :=
  ⟨State.reset, 3, by decide +kernel⟩

theorem witness_RideThrough_5 : ∃ (s : State) (d : Fin 4), (s.flag (RTS.RTCFG_ARM d) = true) ∧ (s.mainRuns = true) :=
  ⟨State.reset.setB (RTS.RTCFG_ARM 3) true, 3, by decide +kernel⟩

theorem witness_RideThrough_6 : ∃ (s : State) (d : Fin 4), ((vget s.drives d).retired = false) ∧ (s.mainRuns = true) :=
  ⟨State.reset, 3, by decide +kernel⟩

theorem witness_RideThrough_7 : ∃ (s : State) (d : Fin 4), ((vget s.drives d).retired = true) ∧ (s.mainRuns = true) :=
  ⟨State.reset.modDrive 3 (fun x => { x with retired := true }), 3, by decide +kernel⟩

theorem witness_RideThrough_8 : ∃ (s : State) (d : Fin 4), (s.flag (GSU.GSTAT_COAST d) = true) ∧ (s.mainRuns = true) :=
  ⟨(State.reset.setB (GSU.GSTAT_COAST 3) true).setB (GSU.GSTAT_LOCKED 3) true, 3, by decide +kernel⟩

theorem witness_IslandingAndContactors_1 : ∃ (s : State) (d : Fin 4), ((vget s.drives d).retired = false) ∧ (s.mainRuns = true) :=
  ⟨State.reset.set (GSU.GSTAT_GCYC 3) 0xFFFF, 3, by decide +kernel⟩

theorem witness_IslandingAndContactors_2 : ∃ (s : State) (d : Fin 4), ((vget s.drives d).retired = false) ∧ (s.flag (GSU.ISLCFG_ROCOF_EN d) = true) ∧
  (s.get (GSU.ROCOF_TH_ROCOF_TH d) < (s.getS (GSU.ROCOF_ROCOF d)).natAbs) ∧ ((s.grid d).rocofHits + 1 < s.get (GSU.ISLCFG_ROCOF_N d)) ∧
  (s.mainRuns = true) :=
  ⟨((State.reset.setB (GSU.ISLCFG_ROCOF_EN 3) true).set (GSU.ROCOF_ROCOF 3) 0x80000000).set (GSU.ISLCFG_ROCOF_N 3) 2, 3, by decide +kernel⟩

theorem witness_IslandingAndContactors_3 : ∃ (s : State) (d : Fin 4), ((vget s.drives d).retired = false) ∧ (s.flag (GSU.ISLCFG_ROCOF_EN d) = true) ∧
  (s.get (GSU.ROCOF_TH_ROCOF_TH d) < (s.getS (GSU.ROCOF_ROCOF d)).natAbs) ∧ (max 1 (s.get (GSU.ISLCFG_ROCOF_N d)) ≤ (s.grid d).rocofHits + 1) ∧
  (s.flag (GSU.GSTAT_ISLAND d) = false) ∧ (s.mainRuns = true) :=
  ⟨((State.reset.setB (GSU.ISLCFG_ROCOF_EN 3) true).set (GSU.ROCOF_ROCOF 3) 0x80000000).set (GSU.ISLCFG_ROCOF_N 3) 1, 3, by decide +kernel⟩

theorem witness_IslandingAndContactors_4 : ∃ (s : State) (d : Fin 4), ((vget s.drives d).retired = false) ∧ (s.flag (GSU.ISLCFG_ROCOF_EN d) = true) ∧
  ((s.getS (GSU.ROCOF_ROCOF d)).natAbs ≤ s.get (GSU.ROCOF_TH_ROCOF_TH d)) ∧ (s.mainRuns = true) :=
  ⟨(State.reset.setB (GSU.ISLCFG_ROCOF_EN 3) true).modGrid 3 (fun g => { g with rocofHits := 3 }), 3, by decide +kernel⟩

theorem witness_IslandingAndContactors_5 : ∃ (s : State) (d : Fin 4), ((vget s.drives d).retired = false) ∧ (s.flag (GSU.GCFG_GRID_EN d) = true) ∧
  (s.mainRuns = true) :=
  ⟨(State.reset.setB (GSU.GCFG_GRID_EN 3) true).set (RTS.RTSTAT_VOTE 3) 2, 3, by decide +kernel⟩

theorem witness_IslandingAndContactors_6 : ∃ (s : State) (d : Fin 4), ((s.grid d).openWait = true) ∧ (s.mainRuns = true) :=
  ⟨(State.reset.set (RTS.RTSTAT_VOTE 3) 1).modGrid 3 (fun g => { g with openWait := true }), 3, by decide +kernel⟩

theorem witness_IslandingAndContactors_7 : ∃ (s : State), (s.mainRuns = true) :=
  ⟨State.reset, by decide +kernel⟩

theorem witness_IslandingAndContactors_8 : ∃ (s : State), (s.mainRuns = true) :=
  ⟨State.reset, by decide +kernel⟩

theorem witness_IslandingAndContactors_9 : ∃ (s : State), (s.mainRuns = true) :=
  ⟨State.reset, by decide +kernel⟩

theorem witness_IslandingAndContactors_10 : ∃ (s : State) (which : Bool), (s.flag (if which then GCON.GCSTAT_GFB1 else GCON.GCSTAT_GFB0) = true) ∧
  (s.flag (if which then GCON.GCSTAT_GCON1 else GCON.GCSTAT_GCON0) = false) ∧ (s.mainRuns = true) :=
  ⟨State.reset.setB GCON.GCSTAT_GFB1 true, true, by decide +kernel⟩

theorem witness_MeteringSamples_1 : ∃ (s : State) (m : Fin 3), ((s.flag (MP.MSTAT_RUN m) || (s.meter m).starting) = true) ∧
  ((s.meter m).due = none) ∧ ((s.meter m).lost = 0) ∧ ((s.meter m).last = none) ∧ (s.mainRuns = true) :=
  ⟨State.reset.setB (MP.MSTAT_RUN 2) true, 2, by decide +kernel⟩

theorem witness_MeteringSamples_2 : ∃ (s : State) (m : Fin 3) (a : MeterStamp), ((s.flag (MP.MSTAT_RUN m) || (s.meter m).starting) = true) ∧
  ((s.meter m).due = none) ∧ ((s.meter m).lost = 0) ∧ ((s.meter m).last = some a) ∧ (s.mainRuns = true) :=
  ⟨(State.reset.setB (MP.MSTAT_RUN 2) true).modMeter 2 (fun p => { p with last := some ⟨100, 32768, 5, 5, 0⟩ }), 2, ⟨100, 32768, 5, 5, 0⟩,
    by decide +kernel⟩

theorem witness_MeteringSamples_3 : ∃ (s : State) (m : Fin 3), ((s.flag (MP.MSTAT_RUN m) || (s.meter m).starting) = true) ∧
  ((s.meter m).due = none) ∧ (s.mainRuns = true) :=
  ⟨(State.reset.setB (MP.MSTAT_RUN 2) true).modMeter 2 (fun p => { p with lost := 9 }), 2, by decide +kernel⟩

theorem witness_MeteringSamples_4 : ∃ (s : State) (m : Fin 3) (e : Int), (s.flag (MP.MSTAT_RUN m) = true) ∧ ((s.meter m).due = none) ∧ ((m = 0 →
  s.flag (MP.MSTAT_FUND_VOID 0) = true)) ∧ (s.windowDue m = some e) ∧ ((s.meter m).last.any (fun a => decide (a.time < e)) = false) ∧
  (((s.meter m).samples.filter (fun x => decide (x.1.time < e))).any (fun x => !(s.meter m).contributes m (e - (s.meter m).winStart : Int) x.1) =
  true) ∧ (s.mainRuns = true) :=
  ⟨(lateReset.setB (MP.MSTAT_RUN 2) true).modMeter 2 (fun p => { p with samples := [(⟨100, 32768, 5, 5, 0⟩, 80000)] }), 2, 20000000,
    by decide +kernel⟩

theorem witness_MeteringSamples_5 : ∃ (s : State) (m : Fin 3), (s.flag (MP.MSTAT_RUN m) = true) ∧ ((s.meter m).due = none) ∧ (s.mainRuns = true) :=
  ⟨State.reset.setB (MP.MSTAT_RUN 2) true, 2, by decide +kernel⟩

theorem witness_MeteringSamples_6 : ∃ (s : State), (s.mainRuns = true) :=
  ⟨State.reset, by decide +kernel⟩

theorem witness_MeteringSamples_7 : ∃ (m : Fin 3) (a : Fin 13) (x : Rat) (s : State), (s.meter m).acc.res.length = 13 ∧ 0 ≤ nthRat (s.meter m).acc.res a + x ∧
  s.acc m a + (ratFloor (nthRat (s.meter m).acc.res a + x)).toNat < 2 ^ 64 := ⟨2, 12, 5 / 2, State.reset, by decide +kernel⟩

theorem witness_MeterWindows_1 : ∃ (s : State) (m : Fin 3), (s.flag (MP.MSTAT_RUN m) = true) ∧ ((s.meter m).due = none) ∧ (m ≠ 0) ∧
  (((s.meter m).winStart / 20000000 + 1) * 20000000 ≤ (s.ltNs : Int)) ∧
  ((s.meter m).last.any (fun a => decide (a.time < ((s.meter m).winStart / 20000000 + 1) * 20000000)) = true) ∧ (s.mainRuns = true) :=
  ⟨lateReset.setB (MP.MSTAT_RUN 2) true |>.modMeter 2 (fun p => { p with last := some ⟨100, 32768, 5, 5, 0⟩ }), 2, by decide +kernel⟩

theorem witness_MeterWindows_2 : ∃ (s : State) (m : Fin 3) (x : MeterDue), ((s.flag (MP.MSTAT_RUN m) || (s.meter m).starting) = true) ∧
  ((s.meter m).due = some x) ∧ (s.mainRuns = true) :=
  ⟨(State.reset.setB (MP.MSTAT_RUN 2) true).modMeter 2 (fun p => { p with due := some ⟨none, 5, 5, {}⟩ }), 2, ⟨none, 5, 5, {}⟩, by decide +kernel⟩

theorem witness_MeterWindows_3 : ∃ (s : State) (m : Fin 3), (s.flag (MP.MSTAT_RUN m) = true) ∧ ((s.meter m).due = none) ∧ (m ≠ 0) ∧
  (((s.meter m).winStart / 20000000 + 1) * 20000000 ≤ (s.ltNs : Int)) ∧
  ((s.meter m).last.any (fun a => decide (a.time < ((s.meter m).winStart / 20000000 + 1) * 20000000)) = false) ∧ (s.mainRuns = true) :=
  ⟨lateReset.setB (MP.MSTAT_RUN 2) true, 2, by decide +kernel⟩

theorem witness_MeterWindows_4 : ∃ (s : State), (s.flag (MP.MSTAT_RUN 0) = true) ∧ ((s.meter 0).due = none) ∧
  ((s.meter 0).last.any (fun a => decide (a.time < (s.meter 0).winStart + 20000000)) = false) ∧ (s.flag (MP.MSTAT_FUND_VOID 0) = true) ∧
  (s.flag TIME.TSTAT_STEPPED = true) ∧ ((s.meter 0).winStart + 20000000 ≤ (s.ltNs : Int)) ∧ (s.mainRuns = true) :=
  ⟨((lateReset.setB (MP.MSTAT_RUN 0) true).setB (MP.MSTAT_FUND_VOID 0) true).setB TIME.TSTAT_STEPPED true, by decide +kernel⟩

theorem witness_MeterWindows_5 : ∃ (s : State) (m : Fin 3), (s.flag (MP.MSTAT_RUN m) = false) ∧ ((s.meter m).due = none) ∧
  ((s.meter m).starting = true) ∧ (((s.meter m).winStart / 20000000 + 1) * 20000000 ≤ (s.ltNs : Int)) ∧ ((m = 0 →
  s.flag (MP.MSTAT_FUND_VOID 0) = true)) ∧ (s.mainRuns = true) :=
  ⟨lateReset.modMeter 2 (fun p => { p with starting := true }), 2, by decide +kernel⟩

theorem witness_MeterWindows_6 : ∃ (s : State) (zero : BitVec 56), (s.flag (MP.MSTAT_RUN 0) = true) ∧ ((s.meter 0).due = none) ∧
  ((s.meter 0).last.any (fun a => decide (a.time < (s.zeroPlace (zero.toNat / 256)).2)) = false) ∧ (s.mainRuns = true) :=
  ⟨lateReset.setB (MP.MSTAT_RUN 0) true, 1000, by decide +kernel⟩

theorem witness_MeterWindows_7 : ∃ (s : State), ((s.flag (MP.MSTAT_RUN 0) || (s.meter 0).starting) = true) ∧ (s.mainRuns = true) :=
  ⟨State.reset.setB (MP.MSTAT_RUN 0) true, by decide +kernel⟩

theorem witness_MeterWindows_8 : ∃ (s : State) (m : Fin 3), (s.flag (MP.MCFG_EN m) = false) ∧
  ((meterChannels m).any (fun c => !s.flag (ADC.ACFG_FWD_N (s.get (MP.MCFG_DIE m)) (s.get (MP.CHSEL_CORE m c))) || decide (s.get (ADC.SEQCFG_REG_LEN
  (s.get (MP.MCFG_DIE m)) (s.get (MP.CHSEL_CORE m c))) ≤ s.get (MP.CHSEL_ENTRY m c))) = false) ∧ (s.flag (MP.MSTAT_RUN m) = false) ∧
  (s.mainRuns = true) ∧ (s.parityOk (MP.MCFG m) = true) :=
  ⟨(State.reset.setB (ADC.ACFG_FWD_N 0 0) true).set (ADC.SEQCFG_REG_LEN 0 0) 16, 2, by decide +kernel⟩

theorem witness_MeterWindows_9 : ∃ (s : State) (m : Fin 3), (s.flag (MP.MCFG_EN m) = false) ∧
  ((meterChannels m).any (fun c => !s.flag (ADC.ACFG_FWD_N (s.get (MP.MCFG_DIE m)) (s.get (MP.CHSEL_CORE m c))) || decide (s.get (ADC.SEQCFG_REG_LEN
  (s.get (MP.MCFG_DIE m)) (s.get (MP.CHSEL_CORE m c))) ≤ s.get (MP.CHSEL_ENTRY m c))) = false) ∧ (s.flag (MP.MSTAT_RUN m) = true) ∧
  (s.mainRuns = true) ∧ (s.parityOk (MP.MCFG m) = true) :=
  ⟨((State.reset.setB (ADC.ACFG_FWD_N 0 0) true).set (ADC.SEQCFG_REG_LEN 0 0) 16).setB (MP.MSTAT_RUN 2) true, 2, by decide +kernel⟩

theorem witness_MeterWindows_10 : ∃ (s : State) (m : Fin 3), (s.flag (MP.MCFG_EN m) = false) ∧
  ((meterChannels m).any (fun c => !s.flag (ADC.ACFG_FWD_N (s.get (MP.MCFG_DIE m)) (s.get (MP.CHSEL_CORE m c))) || decide (s.get (ADC.SEQCFG_REG_LEN
  (s.get (MP.MCFG_DIE m)) (s.get (MP.CHSEL_CORE m c))) ≤ s.get (MP.CHSEL_ENTRY m c))) = true) ∧ (s.mainRuns = true) ∧
  (s.parityOk (MP.MCFG m) = true) :=
  ⟨State.reset, 2, by decide +kernel⟩

theorem witness_MeterWindows_11 : ∃ (s : State) (m : Fin 3), (s.flag (MP.MCFG_EN m) = true) ∧ (s.mainRuns = true) ∧ (s.parityOk (MP.MCFG m) = true) :=
  ⟨State.reset.setB (MP.MCFG_EN 2) true, 2, by decide +kernel⟩

theorem witness_MeterWindows_12 : ∃ (s : State), (s.keeper.powered = true) ∧ (s.keeper.running ≠ some 5) ∧ (s.mainRuns = true) :=
  ⟨State.reset, by decide +kernel⟩

theorem witness_SnapshotsAndPeriods_1 : ∃ (s : State) (c : Fin 2), (s.role c ≠ 0) ∧ ((s.cmd c).counted = false) ∧ (s.mainRuns = true) :=
  ⟨(State.reset.set (CMD.CMDSTAT_ROLE 1) 3).set (CMD.CPN_CPN 1) 0xFFFFFFFF, 1, by decide +kernel⟩

theorem witness_SnapshotsAndPeriods_2 : ∃ (s : State) (c : Fin 2), (s.role c ≠ 0) ∧ ((s.cmd c).counted = true) ∧ (s.mainRuns = true) :=
  ⟨(State.reset.set (CMD.CMDSTAT_ROLE 1) 1).modCmd 1 (fun x => { x with counted := true }), 1, by decide +kernel⟩

theorem witness_SnapshotsAndPeriods_3 : ∃ (s : State) (c : Fin 2), (s.role c = 3) ∧ (s.role (otherCmd c) = 1) ∧
  ((s.cmd (otherCmd c)).joinWait = true) ∧ (s.get (CMD.JRNL_RGN_JRNL_LEN c) ≠ 0) ∧ (s.mainRuns = true) :=
  ⟨(((State.reset.set (CMD.CMDSTAT_ROLE 1) 3).set (CMD.CMDSTAT_ROLE 0) 1).set (CMD.JRNL_RGN_JRNL_LEN 1) 1).modCmd 0 (fun x =>
    { x with joinWait := true }), 1, by decide +kernel⟩

theorem witness_SnapshotsAndPeriods_4 : ∃ (s : State) (c : Fin 2) (tick : Nat), ((tick = s.get (CMD.CPN_CPN c) → (s.cmd c).tick.isSome = true)) ∧
  ((tick ≠ s.get (CMD.CPN_CPN c) → cpnReached (s.get (CMD.CPN_CPN c)) tick = false)) ∧ (s.mainRuns = true) :=
  ⟨State.reset.modCmd 1 (fun x => { x with tick := some 0 }), 1, 0, by decide +kernel⟩

theorem witness_SnapshotsAndPeriods_5 : ∃ (s : State) (c : Fin 2) (tick : Nat), ((tick = s.get (CMD.CPN_CPN c) → (s.cmd c).tick = none)) ∧
  ((tick ≠ s.get (CMD.CPN_CPN c) → cpnReached (s.get (CMD.CPN_CPN c)) tick = true)) ∧ (s.mainRuns = true) :=
  ⟨State.reset, 1, 0, by decide +kernel⟩

theorem witness_SnapshotsAndPeriods_6 : ∃ (s : State), (s.mainRuns = true) :=
  ⟨State.reset, by decide +kernel⟩

theorem witness_SnapshotsAndPeriods_7 : ∃ (s : State) (c : Fin 2) (f : InputFrame) (r : List InputFrame), ((s.cmd c).inFrames = f :: r) ∧
  (s.dict.cmdWait = none) ∧ ((s.cmd c).bsnLast < f.bsn) ∧ (s.mainRuns = true) :=
  ⟨State.reset.modCmd 1 (fun x => { x with inFrames := [{ (default : InputFrame) with bsn := 1 }] }), 1, { (default : InputFrame) with bsn := 1 },
    [], by decide +kernel⟩

theorem witness_SnapshotsAndPeriods_8 : ∃ (s : State) (c : Fin 2) (f : InputFrame) (r : List InputFrame), ((s.cmd c).inFrames = f :: r) ∧
  (s.dict.cmdWait = none) ∧ (f.bsn ≤ (s.cmd c).bsnLast) ∧ (s.mainRuns = true) :=
  ⟨State.reset.modCmd 1 (fun x => { x with inFrames := [default] }), 1, default, [], by decide +kernel⟩

theorem witness_SnapshotsAndPeriods_9 : ∃ (s : State) (c : Fin 2) (k : Nat), ((s.cmd c).tick = some k) ∧ (s.peerGone c = false) ∧
  (s.mainRuns = true) :=
  ⟨State.reset.modCmd 1 (fun x => { x with tick := some 0 }), 1, 0, by decide +kernel⟩

theorem witness_SnapshotsAndPeriods_10 : ∃ (s : State) (c : Fin 2) (k : Nat), ((s.cmd c).tick = some k) ∧ (s.peerGone c = true) ∧
  (s.mainRuns = true) :=
  ⟨(State.reset.modCmd 1 (fun x => { x with tick := some 0 })).setB (ELINK.STAT_LINK_DOWN .c1 0) true, 1, 0, by decide +kernel⟩

theorem witness_SnapshotsAndPeriods_11 : ∃ (s : State) (c : Fin 2) (d : List Word) (r : List (List Word)), ((s.cmd c).inbox = d :: r) ∧
  (s.mainRuns = true) :=
  ⟨State.reset.modCmd 1 (fun x => { x with inbox := [[7]] }), 1, [7], [], by decide +kernel⟩

theorem witness_SnapshotsAndPeriods_12 : ∃ (s : State) (c : Fin 2) (d : List Word) (r : List (List Word)) (q : Snapshot),
  ((s.cmd c).inbox = d :: r) ∧ ((s.cmd c).own.find? (fun x => decide (x.word 0 = d.getD 0 0)) = some q) ∧
  ((List.range 10).any (fun i => decide (q.desc.getD i 0 ≠ d.getD i 0)) = true) ∧ (s.mainRuns = true) :=
  ⟨State.reset.modCmd 1 (fun x => { x with inbox := [[7, 1]], own := [⟨[7], [], [], []⟩] }), 1, [7, 1], [], ⟨[7], [], [], []⟩, by decide +kernel⟩

theorem witness_SnapshotsAndPeriods_13 : ∃ (s : State) (c : Fin 2) (q : Snapshot), (s.role c = 3) ∧ ((s.cmd c).run = none) ∧
  ((s.cmd c).closed.getLast? = some q) ∧ ((s.cmd c).claim = false) ∧ (s.flag (CMD.DBGSTAT_HALTED c) = false) ∧
  (s.flag (CMD.CMDSTAT_TAKE c) = false) ∧ (s.role (otherCmd c) ≠ 0) ∧ ((s.cmd (otherCmd c)).joinWait = false) ∧ (s.peerGone c = false) ∧
  (s.mainRuns = true) :=
  ⟨((State.reset.set (CMD.CMDSTAT_ROLE 1) 3).set (CMD.CMDSTAT_ROLE 0) 2).modCmd 1 (fun x => { x with run := none, closed := [⟨[7], [], [], []⟩] }),
    1, ⟨[7], [], [], []⟩, by decide +kernel⟩

theorem witness_SnapshotsAndPeriods_14 : ∃ (s : State) (c : Fin 2) (q : Snapshot), (s.role c = 3) ∧ ((s.cmd c).run = none) ∧
  ((s.cmd c).closed.getLast? = some q) ∧ ((s.cmd c).claim = false) ∧ (s.flag (CMD.DBGSTAT_HALTED c) = false) ∧ (s.flag (CMD.CMDSTAT_TAKE c) = true) ∧
  (s.mainRuns = true) :=
  ⟨((State.reset.set (CMD.CMDSTAT_ROLE 1) 3).setB (CMD.CMDSTAT_TAKE 1) true).modCmd 1 (fun x =>
    { x with run := none, closed := [⟨[7], [], [], []⟩] }), 1, ⟨[7], [], [], []⟩, by decide +kernel⟩

theorem witness_SnapshotsAndPeriods_15 : ∃ (s : State) (c : Fin 2) (q : Snapshot) (r : List Snapshot), (s.role c = 2 ∧
  (s.cmd c).received.any (fun x => decide (x.getD 0 0 = q.word 0)) = true ∨ s.role c = 1) ∧ ((s.cmd c).run = none) ∧ ((s.cmd c).toRun = q :: r) ∧
  (s.flag (CMD.CMDSTAT_TAKE c) = false) ∧ (s.flag (CMD.DBGSTAT_HALTED c) = false) ∧ ((s.cmd c).nextRole ≠ some 1) ∧ (s.mainRuns = true) :=
  ⟨(State.reset.set (CMD.CMDSTAT_ROLE 1) 2).modCmd 1 (fun x => { x with run := none, received := [[7]], toRun := [⟨[7], [], [], []⟩] }), 1, ⟨[7], [],
    [], []⟩, [], by decide +kernel⟩

theorem witness_SnapshotsAndPeriods_16 : ∃ (s : State) (c : Fin 2) (q : Snapshot) (r : List Snapshot), (s.role c = 2) ∧
  ((s.cmd c).received.any (fun x => decide (x.getD 0 0 = q.word 0)) = true) ∧ ((s.cmd c).run = none) ∧ ((s.cmd c).toRun = q :: r) ∧
  (s.flag (CMD.CMDSTAT_TAKE c) = false) ∧ (s.flag (CMD.DBGSTAT_HALTED c) = false) ∧ ((s.cmd c).nextRole = some 1) ∧ (s.mainRuns = true) :=
  ⟨(State.reset.set (CMD.CMDSTAT_ROLE 1) 2).modCmd 1 (fun x =>
    { x with run := none, received := [[7]], toRun := [⟨[7], [], [], []⟩], nextRole := some 1 }), 1, ⟨[7], [], [], []⟩, [], by decide +kernel⟩

theorem witness_SnapshotsAndPeriods_17 : ∃ (s : State) (c : Fin 2) (core : Fin 4), (s.coreRuns c core = true) ∧
  (((s.cmd c).claim && (s.cmd c).heldWrites.any (fun w => decide (w.1 = core.val))) = true) ∧ (s.mainRuns = true) :=
  ⟨(State.reset.set (CMD.CMDSTAT_ROLE 1) 2).modCmd 1 (fun x => { x with claim := true, heldWrites := [(3, 0, 0)] }), 1, 3, by decide +kernel⟩

theorem witness_SnapshotsAndPeriods_18 : ∃ (s : State) (c : Fin 2) (core : Fin 4), (s.coreRuns c core = false) ∧ (s.mainRuns = true) :=
  ⟨(State.reset.set (CMD.CMDSTAT_ROLE 1) 3).setB (CMD.DBGSTAT_HALTED 1) true, 1, 3, by decide +kernel⟩

theorem witness_SnapshotsAndPeriods_19 : ∃ (s : State) (c : Fin 2) (core : Fin 4),
  (((s.cmd c).claim && (s.cmd c).heldWrites.any (fun w => decide (w.1 = core.val))) = false) ∧ (s.coreRuns c core = true) ∧
  ((s.cmd c).run = none ∨ (s.get (CMD.DONE_DONE c) ||| 2 ^ core.val) &&& s.get (CMD.CMDCFG_CP_CORES c) ≠ s.get (CMD.CMDCFG_CP_CORES c)) ∧
  (s.mainRuns = true) :=
  ⟨(State.reset.set (CMD.CMDSTAT_ROLE 1) 3).modCmd 1 (fun x => { x with run := none }), 1, 3, by decide +kernel⟩

theorem witness_SnapshotsAndPeriods_20 : ∃ (s : State) (c : Fin 2) (core : Fin 4),
  (((s.cmd c).claim && (s.cmd c).heldWrites.any (fun w => decide (w.1 = core.val))) = false) ∧ (s.coreRuns c core = true) ∧
  ((s.cmd c).run.isSome = true) ∧ ((s.get (CMD.DONE_DONE c) ||| 2 ^ core.val) &&& s.get (CMD.CMDCFG_CP_CORES c) = s.get (CMD.CMDCFG_CP_CORES c)) ∧
  (s.mainRuns = true) :=
  ⟨(((State.reset.set (CMD.CMDSTAT_ROLE 1) 3).modCmd 1 (fun x => { x with run := some ⟨[7], [], [], []⟩ })).set (CMD.DONE_DONE 1) 7).set
    (CMD.CMDCFG_CP_CORES 1) 15, 1, 3, by decide +kernel⟩

theorem witness_SnapshotsAndPeriods_21 : ∃ (s : State) (c : Fin 2), (getBits (s.reg (CMD.HEALTH c)) 0 1 = 0) ∧ (s.mainRuns = true) :=
  ⟨State.reset, 1, by decide +kernel⟩

theorem witness_Arbiter_1 : ∃ (s : State) (c : Fin 2) (h : Heartbeat) (r : List Heartbeat), ((s.cmd c).hb = h :: r) ∧ (s.mainRuns = true) :=
  ⟨State.reset.modCmd 1 (fun x => { x with hb := [default] }), 1, default, [], by decide +kernel⟩

theorem witness_Arbiter_2 : ∃ (s : State) (c : Fin 2) (h : Heartbeat) (r : List Heartbeat), ((s.cmd c).hb = h :: r) ∧ (s.get (arbRole c) = 2) ∧
  (s.arbActive = true) ∧ (s.mainRuns = true) :=
  ⟨(State.reset.set (arbRole 1) 2).modCmd 1 (fun x => { x with hb := [default] }), 1, default, [], by decide +kernel⟩

theorem witness_Arbiter_3 : ∃ (s : State) (c : Fin 2), (2 ≤ s.get (arbRole c)) ∧ (s.arb.timed = true) ∧ (s.arbActive = true) ∧ (s.mainRuns = true) :=
  ⟨(State.reset.set (arbRole 1) 3).modArb (fun a => { a with timed := true }), 1, by decide +kernel⟩

theorem witness_Arbiter_4 : ∃ (s : State), (s.arb.timed = false ∨ s.arbActive = false) ∧ (s.mainRuns = true) :=
  ⟨State.reset, by decide +kernel⟩

theorem witness_Arbiter_5 : ∃ (s : State), (s.mainRuns = true) :=
  ⟨State.reset, by decide +kernel⟩

theorem witness_Arbiter_6 : ∃ (s : State) (c : Fin 2), (s.get (arbRole c) ≠ s.role c) ∧ (s.get (arbRole c) ≠ 0) ∧ (s.mainRuns = true) :=
  ⟨State.reset.set (arbRole 1) 3, 1, by decide +kernel⟩

theorem witness_Arbiter_7 : ∃ (s : State) (c : Fin 2), (s.role c ≠ 0) ∧ (s.get (arbRole c) = 0) ∧ (s.mainRuns = true) :=
  ⟨(State.reset.set (arbRole 1) 0).set (CMD.CMDSTAT_ROLE 1) 3, 1, by decide +kernel⟩

theorem witness_Arbiter_8 : ∃ (s : State) (c : Fin 2) (n : Nat), (s.get (arbRole c) ≠ 0) ∧ (s.arb.swapN = some n) ∧ (s.mainRuns = true) :=
  ⟨(State.reset.set (arbRole 1) 3).modArb (fun a => { a with swapN := some 16 }), 1, 16, by decide +kernel⟩

theorem witness_Arbiter_9 : ∃ (s : State), (s.arb.failN = true) ∧ (s.mainRuns = true) :=
  ⟨State.reset.modArb (fun a => { a with failN := true }), by decide +kernel⟩

theorem witness_Arbiter_10 : ∃ (s : State) (c : Fin 2), ((s.cmd c).claim = false) ∧ (s.mainRuns = true) :=
  ⟨State.reset.modArb (fun a => { a with takeTo := some 1 }), 1, by decide +kernel⟩

theorem witness_Arbiter_11 : ∃ (s : State) (c : Fin 2), ((s.cmd c).claim = true) ∧ (s.arb.takeTo ≠ some c.val) ∧
  (s.arb.swapN = some (s.cmd c).lastCpn) ∧ (s.arbShell ≠ some c.val) ∧ (s.mainRuns = true) :=
  ⟨(State.reset.modArb (fun a => { a with swapN := some 0, takeTo := none })).set (arbRole 1) 2 |>.modCmd 1 (fun x =>
    { x with claim := true, lastCpn := 0 }), 1, by decide +kernel⟩

theorem witness_Arbiter_12 : ∃ (s : State) (c : Fin 2), ((s.cmd c).claim = true) ∧ (s.arb.takeTo = some c.val) ∧ (s.mainRuns = true) :=
  ⟨(State.reset.modArb (fun a => { a with takeTo := some 1 })).modCmd 1 (fun x => { x with claim := true }), 1, by decide +kernel⟩

theorem witness_Arbiter_13 : ∃ (s : State) (c : Fin 2), ((s.cmd c).claim = true) ∧ (s.flag (CMD.CMDSTAT_TAKE c) = true) ∧
  ((s.cmd c).heldWrites = []) ∧ ((s.cmd c).doneWait = []) ∧ ((s.cmd c).swapAt = none) ∧ (s.mainRuns = true) :=
  ⟨(State.reset.setB (CMD.CMDSTAT_TAKE 1) true).modCmd 1 (fun x => { x with claim := true }), 1, by decide +kernel⟩

theorem witness_Arbiter_14 : ∃ (s : State) (c : Fin 2), ((s.cmd c).claim = true) ∧ (s.flag (CMD.CMDSTAT_TAKE c) = false) ∧
  ((s.cmd c).heldWrites = []) ∧ ((s.cmd c).doneWait = []) ∧ (s.mainRuns = true) :=
  ⟨State.reset.modCmd 1 (fun x => { x with claim := true, held := true }), 1, by decide +kernel⟩

theorem witness_Arbiter_15 : ∃ (s : State) (c : Fin 2), ((s.cmd c).claim = true) ∧ (s.flag (CMD.CMDSTAT_TAKE c) = false) ∧ (s.mainRuns = true) :=
  ⟨State.reset.modCmd 1 (fun x => { x with claim := true, held := true, heldWrites := [(3, 0, 0)] }), 1, by decide +kernel⟩

theorem witness_Arbiter_16 : ∃ (s : State) (l : Nat), (s.arb.takeTo = some l) ∧ (s.mainRuns = true) :=
  ⟨State.reset.modArb (fun a => { a with takeTo := some 1 }), 1, by decide +kernel⟩

theorem witness_Arbiter_17 : ∃ (s : State) (c : Fin 2), (s.get (arbRole c) = 1) ∧ ((s.cmd c).joinWait = false) ∧ ((s.cmd c).toRun = []) ∧
  (s.mainRuns = true) :=
  ⟨State.reset.set (arbRole 1) 1, 1, by decide +kernel⟩

theorem witness_Arbiter_18 : ∃ (s : State) (c : Fin 2) (q : Snapshot) (r : List Snapshot), (s.role c = 1) ∧ ((s.cmd c).run = none) ∧
  ((s.cmd c).toRun = q :: r) ∧ (s.flag (CMD.CMDSTAT_TAKE c) = false) ∧ (s.flag (CMD.DBGSTAT_HALTED c) = false) ∧ ((s.cmd c).nextRole = some 2) ∧
  ((s.cmd c).win = none) ∧ ((s.cmd c).swapAt = none) ∧ (s.mainRuns = true) :=
  ⟨((State.reset.set (CMD.CMDSTAT_ROLE 1) 1).set (arbRole 1) 1).modCmd 1 (fun x =>
    { x with nextRole := some 2, win := none, run := none, toRun := [⟨[7], [], [], []⟩] }), 1, ⟨[7], [], [], []⟩, [], by decide +kernel⟩

theorem witness_Arbiter_19 : ∃ (s : State) (c : Fin 2), (s.get (arbRole c) = 1) ∧ ((s.cmd c).joinFails < 7) ∧ (s.mainRuns = true) :=
  ⟨(State.reset.set (arbRole 1) 1).modCmd 1 (fun x => { x with joinFails := 6 }), 1, by decide +kernel⟩

theorem witness_Arbiter_20 : ∃ (s : State) (c : Fin 2), (s.get (arbRole c) = 1) ∧ (7 ≤ (s.cmd c).joinFails) ∧ (s.mainRuns = true) :=
  ⟨(State.reset.set (arbRole 1) 1).modCmd 1 (fun x => { x with joinFails := 7 }), 1, by decide +kernel⟩

theorem witness_SwapsAndDebug_1 : ∃ (s : State) (c : Fin 2), (s.get (arbRole c) = 2) ∧ (s.get ARB.ARBSTAT_HOME = c.val) ∧
  (s.dnat DP.ARBP_AUTO_RETURN = 1) ∧ (s.arb.swapN = none) ∧ (s.get ARB.HOLD_REM_HOLD_REM = 0) ∧ (s.mainRuns = true) :=
  ⟨((State.reset.set (arbRole 1) 2).set ARB.ARBSTAT_HOME 1).setDval DP.ARBP_AUTO_RETURN (.num 1), 1, by decide +kernel⟩

theorem witness_SwapsAndDebug_2 : ∃ (s : State) (n : Nat) (c : Nat), (s.arb.swapN = some n) ∧ (s.arbShell = some c) ∧ (s.arb.swapClaim = true) ∧
  (s.arb.swapHb = true) ∧ (s.mainRuns = true) :=
  ⟨((State.reset.set (arbRole 0) 2).set (arbRole 1) 3).modArb (fun a => { a with swapN := some 16, swapClaim := true, swapHb := true }), 16, 1,
    by decide +kernel⟩

theorem witness_SwapsAndDebug_3 : ∃ (s : State) (n : Nat) (c : Nat), (s.arb.swapN = some n) ∧ (s.arbShell = some c) ∧
  ((s.arb.swapClaim && s.arb.swapHb) = false) ∧ (s.mainRuns = true) :=
  ⟨((State.reset.set (arbRole 0) 2).set (arbRole 1) 3).modArb (fun a => { a with swapN := some 16 }), 16, 1, by decide +kernel⟩

theorem witness_SwapsAndDebug_4 : ∃ (s : State) (c : Fin 2), (s.role c = 3) ∧ (s.dnat DP.ARBP_DBG_ALLOW = 1) ∧ (s.mainRuns = true) :=
  ⟨(State.reset.set (CMD.CMDSTAT_ROLE 1) 3).setDval DP.ARBP_DBG_ALLOW (.num 1), 1, by decide +kernel⟩

theorem witness_SwapsAndDebug_5 : ∃ (s : State) (c : Fin 2), (s.role c ≠ 3 ∨ s.dnat DP.ARBP_DBG_ALLOW ≠ 1) ∧ (s.mainRuns = true) :=
  ⟨State.reset, 1, by decide +kernel⟩

theorem witness_SwapsAndDebug_6 : ∃ (s : State) (c : Fin 2), (s.role c = 3) ∧ (s.flag (CMD.DBGSTAT_ATTACHED c) = true) ∧
  (s.flag (CMD.DBGSTAT_HALTED c) = false) ∧ (s.mainRuns = true) :=
  ⟨((State.reset.set (CMD.CMDSTAT_ROLE 1) 3).set (CMD.CMDSTAT_ROLE 0) 2).setB (CMD.DBGSTAT_ATTACHED 1) true, 1, by decide +kernel⟩

theorem witness_SwapsAndDebug_7 : ∃ (s : State) (c : Fin 2) (a : BitVec 32), (s.role c = 3) ∧ (s.flag (CMD.DBGSTAT_HALTED c) = true) ∧
  ((s.cmd c).sending = []) ∧ (s.flag (CMD.DBGSTAT_HALTED (otherCmd c)) = false) ∧ ((s.cmd (otherCmd c)).haltAt.isSome = true) ∧
  (a.toNat < 0x200000) ∧ (a.toNat % 4 = 0) ∧ (s.mainRuns = true) :=
  ⟨(State.reset.set (CMD.CMDSTAT_ROLE 1) 3).setB (CMD.DBGSTAT_HALTED 1) true |>.modCmd 0 (fun x =>
    { x with haltAt := some (7, Vector.replicate 4 0) }), 1, 0x1FFFFC, by decide +kernel⟩

theorem witness_SwapsAndDebug_8 : ∃ (s : State) (c : Fin 2) (a : BitVec 32), (s.role c = 3) ∧ (s.flag (CMD.DBGSTAT_HALTED c) = true) ∧
  ((s.cmd c).sending = []) ∧ (s.flag (CMD.DBGSTAT_HALTED (otherCmd c)) = true) ∧ ((s.cmd (otherCmd c)).debugWrites = []) ∧ (a.toNat < 0x200000) ∧
  (a.toNat % 4 = 0) ∧ (s.mainRuns = true) :=
  ⟨((State.reset.set (CMD.CMDSTAT_ROLE 1) 3).setB (CMD.DBGSTAT_HALTED 1) true).setB (CMD.DBGSTAT_HALTED 0) true, 1, 0x1FFFFC, by decide +kernel⟩

theorem witness_SwapsAndDebug_9 : ∃ (s : State) (c : Fin 2), (s.flag (CMD.DBGSTAT_HALTED c) = true) ∧ (s.mainRuns = true) :=
  ⟨(State.reset.set (CMD.CMDSTAT_ROLE 1) 3).setB (CMD.DBGSTAT_HALTED 1) true, 1, by decide +kernel⟩

theorem witness_SwapsAndDebug_10 : ∃ (s : State) (c : Fin 2) (slot : Vector ImageSlot 2), (s.mainRuns = true) ∧ (s.get (arbRole c) = 0) ∧
  (s.flag (arbLockout c) = false) ∧ (s.flag (arbJoinFail c) = false) ∧ (s.power.runs.testBit c = true) ∧ (s.arbShell = some (1 - c.val)) ∧
  (ImageSlot.valid (vget slot (s.dnat DP.IMG_SLOT_SEL % 2)) = true) ∧
  (ImageSlot.digest (vget slot (s.dnat DP.IMG_SLOT_SEL % 2)) = vget s.power.digests (1 - c.val)) :=
  ⟨((State.reset.set (arbRole 1) 0).set (arbRole 0) 3).modPower (fun p =>
    { p with good := true, reset := false, runs := 3, digests := vset p.digests 0 (ImageSlot.digest (goodSlot)) }), 1, Vector.replicate 2 goodSlot,
    by decide +kernel⟩

theorem witness_SwapsAndDebug_11 : ∃ (s : State) (c : Fin 2) (slot : Vector ImageSlot 2), (s.mainRuns = true) ∧ (s.get (arbRole c) = 0) ∧
  (s.flag (arbLockout c) = false) ∧ (s.flag (arbJoinFail c) = false) ∧ (s.power.runs.testBit c = true) ∧ ((s.cmd c).joinFails < 7) ∧
  (ImageSlot.valid (vget slot 0) = false) ∧ (ImageSlot.valid (vget slot 1) = false) :=
  ⟨(State.reset.set (arbRole 1) 0).modPower (fun p => { p with good := true, reset := false, runs := 3 }), 1, Vector.replicate 2 default,
    by decide +kernel⟩

theorem witness_SwapsAndDebug_12 : ∃ (s : State) (c : Fin 2), (s.power.runs.testBit c = false) :=
  ⟨State.reset.modPower (fun p => { p with runs := 1 }), 1, by decide +kernel⟩

theorem witness_SafetyCyclesAndPositions_1 : ∃ (s : State), ((s.chan 0).stopped = false) ∧ (s.inputLow 0 1 (fun _ => true) = true) ∧
  (s.mainRuns = true) :=
  ⟨(((State.reset.setDval (DP.SI_FUNC 7) (.num 1))).modChan 0 (fun c => { c with st := .run, stopped := false })).modChan 1 (fun c =>
    { c with st := .run, stopped := false }), by decide +kernel⟩

theorem witness_SafetyCyclesAndPositions_2 : ∃ (s : State), ((s.chan 1).stopped = false) ∧ (s.inputLow 1 1 (fun _ => true) = true) ∧
  (s.mainRuns = true) :=
  ⟨(((State.reset.setDval (DP.SI_FUNC 7) (.num 1))).modChan 0 (fun c => { c with st := .run, stopped := false })).modChan 1 (fun c =>
    { c with st := .run, stopped := false }), by decide +kernel⟩

theorem witness_SafetyCyclesAndPositions_3 : ∃ (s : State), ((s.chan 0).stopped = false) ∧ (s.mainRuns = true) :=
  ⟨((State.reset).modChan 0 (fun c => { c with st := .run, stopped := false })).modChan 1 (fun c => { c with st := .run, stopped := false }),
    by decide +kernel⟩

theorem witness_SafetyCyclesAndPositions_4 : ∃ (s : State) (k : Fin 4) (r : RampRef), ((s.chan 1).stopped = false) ∧ (s.axEn k = true) ∧
  (s.srcOk 1 k false = true) ∧ (s.slsOn 1 k = true) ∧ (vget (s.mon 1 k).ramps 0 = some r) ∧
  (overLimit (s.dnat (DP.AX_SLS_LIM k)) (s.dnat (DP.AX_SLS_DEC k)) (r.t + 1) (s.srcV 1 k false) r.vPi = true) ∧ (s.mainRuns = true) :=
  ⟨((((((State.reset).modChan 0 (fun c => { c with st := .run, stopped := false })).modChan 1 (fun c =>
    { c with st := .run, stopped := false })).setDval (DP.AX_AX_EN 3) (.num 1)).setDval (DP.SI_FUNC 7) (.num 3)).setDval (DP.SI_AXES 7) (.num
    8)).setDval (DP.AX_GEAR 3) (.num 1) |>.setB (SFN.AXSTAT_PI_OK 3) true |>.modMon 1 3 (fun m =>
    { m with ramps := vset m.ramps 0 (some ⟨0, 0, 0⟩) }) |>.modAxis 3 (fun a => { a with hist := [1, 0] }), 3, ⟨0, 0, 0⟩, by decide +kernel⟩

theorem witness_SafetyCyclesAndPositions_5 : ∃ (s : State), (16 < s.safety.diff) ∧ (s.mainRuns = true) :=
  ⟨State.reset.modSafety (fun x => { x with diff := 17 }), by decide +kernel⟩

theorem witness_SafetyCyclesAndPositions_6 : ∃ (s : State), (s.safety.diff ≤ 16) ∧ (s.mainRuns = true) :=
  ⟨State.reset, by decide +kernel⟩

theorem witness_SafetyCyclesAndPositions_7 : ∃ (s : State), ((s.chan 0).stopped = false) ∧ (s.chanWord 0 ≠ s.chanWord 1) ∧ (s.mainRuns = true) :=
  ⟨State.reset.modChan 1 (fun c => { c with st := .run }), by decide +kernel⟩

theorem witness_SafetyCyclesAndPositions_8 : ∃ (s : State), (s.mainRuns = true) :=
  ⟨State.reset.setB (PI.PICFG_EN 3 1) true, by decide +kernel⟩

theorem witness_SafetyCyclesAndPositions_9 : ∃ (s : State) (p : Fin 8) (seq : BitVec 8),
  ((match vget s.safety.lastSeq p with | some l => decide ((l + 1) % 256 = seq.toNat) | none => true) = true) ∧ (s.mainRuns = true) :=
  ⟨State.reset.setDval (DP.AX_PI 3) (.num 7), 7, 255, by decide +kernel⟩

theorem witness_SafetyCyclesAndPositions_10 : ∃ (s : State), (s.mainRuns = true) :=
  ⟨State.reset.setDval (DP.AX_PI 3) (.num 7), by decide +kernel⟩

theorem witness_SafetyCyclesAndPositions_11 : ∃ (s : State), (s.mainRuns = true) :=
  ⟨State.reset.setDval (DP.AX_PI 3) (.num 7), by decide +kernel⟩

theorem witness_SafetyCyclesAndPositions_12 : ∃ (s : State), (s.mainRuns = true) :=
  ⟨State.reset.setDval (DP.AX_PI 3) (.num 7), by decide +kernel⟩

theorem witness_Stops1AndReleases_1 : ∃ (s : State), ((s.chan 0).st = .ss1) ∧ ((s.chan 0).thenLock = false) ∧ ((s.chan 1).thenLock = false) ∧
  ((List.range 4).all (fun k => !s.axEn k || s.standstill 0 k) = true) ∧ (s.mainRuns = true) :=
  ⟨((State.reset.modChan 0 (fun c => { c with st := .ss1, t := 4000000 })).modChan 1 (fun c => { c with st := .ss1 })), by decide +kernel⟩

theorem witness_Stops1AndReleases_2 : ∃ (s : State), ((s.chan 0).st = .ss1) ∧ ((s.chan 0).thenLock = false) ∧ ((s.chan 1).thenLock = false) ∧
  (4 * s.dnat DP.SAF_SS1_TMAX ≤ (s.chan 0).t) ∧ (s.mainRuns = true) :=
  ⟨((State.reset.modChan 0 (fun c => { c with st := .ss1, t := 4000000 })).modChan 1 (fun c => { c with st := .ss1 })), by decide +kernel⟩

theorem witness_Stops1AndReleases_3 : ∃ (s : State), ((s.chan 0).st ≠ .ss1 ∨ (s.chan 0).t < 4 * s.dnat DP.SAF_SS1_TMAX) ∧
  ((s.chan 1).st ≠ .ss1 ∨ (s.chan 1).t < 4 * s.dnat DP.SAF_SS1_TMAX) ∧ (s.mainRuns = true) :=
  ⟨State.reset, by decide +kernel⟩

theorem witness_Stops1AndReleases_4 : ∃ (s : State) (ch : Fin 2) (k : Fin 4), (s.axEn k = true) ∧ (s.srcOk ch k false = true) ∧
  (s.srcOk ch k true = true) ∧ (s.dnat (DP.AX_DISC_V k) < (s.srcV ch k false - s.srcV ch k true).natAbs) ∧ (s.mainRuns = true) :=
  ⟨((((State.reset.setDval (DP.AX_AX_EN 3) (.num 1)).setDval (DP.AX_WS 3) (.num 1)).setB (SFN.AXSTAT_PI_OK 3) true).setDval (DP.AX_DISC_V 3) (.num
    10)).setDval (DP.AX_GEAR 3) (.num 1) |>.modAxis 3 (fun a => { a with hist := [1, 0] }), 1, 3, by decide +kernel⟩

theorem witness_Stops1AndReleases_5 : ∃ (s : State) (ch : Fin 2), ((s.chan ch).degAxis.isSome = true) ∧
  (4000 * s.dnat DP.SAF_DEG_T ≤ (s.chan ch).degT) ∧ ((s.chan ch).st = .run ∨ (s.chan ch).st = .ss1) ∧ ((s.chan 0).thenLock = false) ∧
  (s.mainRuns = true) :=
  ⟨State.reset.modChan 0 (fun c => { c with st := .run, degAxis := some 3, degT := 4000000 }), 0, by decide +kernel⟩

theorem witness_Stops1AndReleases_6 : ∃ (s : State), ((s.chan 0).degAxis.isSome = true) ∧ (4000 * s.dnat DP.SAF_DEG_T ≤ (s.chan 0).degT) ∧
  ((s.chan 0).st = .sto ∨ (s.chan 0).st = .locked) ∧ ((s.chan 1).st = .sto ∨ (s.chan 1).st = .locked) ∧ (s.mainRuns = true) :=
  ⟨State.reset.modChan 0 (fun c => { c with st := .sto, degAxis := some 3, degT := 4000000 }), by decide +kernel⟩

theorem witness_Stops1AndReleases_7 : ∃ (s : State), ((s.chan 0).degAxis = none ∨ (s.chan 0).degT < 4000 * s.dnat DP.SAF_DEG_T) ∧
  ((s.chan 1).degAxis = none ∨ (s.chan 1).degT < 4000 * s.dnat DP.SAF_DEG_T) ∧ (s.mainRuns = true) :=
  ⟨State.reset, by decide +kernel⟩

theorem witness_Stops1AndReleases_8 : ∃ (s : State) (ch : Fin 2), ((s.chan ch).resetEdge = true) ∧ (s.mayRelease ch = true) ∧ (s.mainRuns = true) :=
  ⟨(((State.reset.modConn 47 (fun x => { x with data := [255, 255, 255, 255] })).setB SFN.SFSTAT_GT_DONE true).setDval DP.SAF_CTRL_CONN (.num
    47)).modChan 1 (fun c => { c with resetEdge := true }), 1, by decide +kernel⟩

theorem witness_Stops1AndReleases_9 : ∃ (s : State), ((s.chan 0).resetEdge = false) ∧ ((s.chan 1).resetEdge = false) ∧ (s.mainRuns = true) :=
  ⟨State.reset, by decide +kernel⟩

theorem witness_Stops1AndReleases_10 : ∃ (s : State) (ch : Fin 2) (n : Fin 8), (s.dnat (DP.SI_FUNC n) = 8) ∧ (2000 ≤ (s.safeInput ch n).pulse) ∧
  ((s.safeInput ch n).pulse ≤ 60000) ∧ (s.mayRelease ch = true) ∧ (s.mainRuns = true) :=
  ⟨((((State.reset.modConn 47 (fun x => { x with data := [255, 255, 255, 255] })).setB SFN.SFSTAT_GT_DONE true).setDval DP.SAF_CTRL_CONN (.num
    47)).setDval (DP.SI_FUNC 7) (.num 8)).modInput 1 7 (fun y => { y with pulse := 60000 }), 1, 7, by decide +kernel⟩

theorem witness_Stops1AndReleases_11 : ∃ (s : State) (n : Fin 8), ((s.safeInput 0 n).pulse < 2000 ∨ 60000 < (s.safeInput 0 n).pulse) ∧
  ((s.safeInput 1 n).pulse < 2000 ∨ 60000 < (s.safeInput 1 n).pulse) ∧ (s.mainRuns = true) :=
  ⟨State.reset, 7, by decide +kernel⟩

theorem witness_Stops1AndReleases_12 : ∃ (s : State) (c : Fin 2), (s.get (arbRole c) = 3) ∧ (s.mainRuns = true) :=
  ⟨State.reset.set (arbRole 1) 3, 1, by decide +kernel⟩

theorem witness_Stops1AndReleases_13 : ∃ (s : State) (c : Fin 2), (s.get (arbRole c) = 3) ∧ (s.mainRuns = true) :=
  ⟨State.reset.set (arbRole 1) 3, 1, by decide +kernel⟩

theorem witness_Stops1AndReleases_14 : ∃ (s : State) (c : Fin 2), (s.get (arbRole c) = 3) ∧ (s.dnat DP.SAF_RST_MBX = 1) ∧
  ((((s.setB MBX.MBXREQ_STO_REQ (s.flag MBX.MBXREQ_STO_REQ)).setB MBX.MBXREQ_SS1_REQ (s.flag MBX.MBXREQ_SS1_REQ)).evaluateBoth).mayRelease 0 = true)
  ∧ (s.mainRuns = true) :=
  ⟨((((State.reset.modConn 47 (fun x => { x with data := [255, 255, 255, 255] })).setB SFN.SFSTAT_GT_DONE true).setDval DP.SAF_CTRL_CONN (.num
    47)).setDval DP.SAF_RST_MBX (.num 1)).set (arbRole 1) 3, 1, by decide +kernel⟩

theorem witness_Stops1AndReleases_15 : ∃ (s : State) (c : Fin 2), (s.get (arbRole c) ≠ 3) ∧ (s.mainRuns = true) :=
  ⟨State.reset, 1, by decide +kernel⟩

theorem witness_SafeInputsAndOutputs_1 : ∃ (s : State), (s.mainRuns = true) :=
  ⟨State.reset, by decide +kernel⟩

theorem witness_SafeInputsAndOutputs_2 : ∃ (s : State) (ch : Fin 2) (n : Fin 8),
  (pairValue (decide (s.dnat (DP.SI_TYPE n) = 1)) (s.safeInput ch n).a (s.safeInput ch n).b = none) ∧ (s.mainRuns = true) :=
  ⟨State.reset.modInput 1 7 (fun y => { y with a := true }), 1, 7, by decide +kernel⟩

theorem witness_SafeInputsAndOutputs_3 : ∃ (s : State), ((List.range 8).any (fun n => decide (s.dnat (DP.SI_TP_EN n) = 1)) = true) ∧
  (s.mainRuns = true) :=
  ⟨(State.reset.setDval (DP.SI_TP_EN 7) (.num 1)).setDval (DP.SI_TPA 7) (.num 3), by decide +kernel⟩

theorem witness_SafeInputsAndOutputs_4 : ∃ (s : State) (n : Fin 4) (b : Bool), (s.dnat (DP.SO_TEST n) = 1) ∧
  (vget s.safety.soLeft (n.val + (if b then 0 else 4)) = 0) ∧ (s.mainRuns = true) :=
  ⟨State.reset.setDval (DP.SO_TEST 3) (.num 1), 3, true, by decide +kernel⟩

theorem witness_SafeInputsAndOutputs_5 : ∃ (s : State) (n : Fin 4) (b : Bool), (vget s.safety.soLeft (n.val + (if b then 0 else 4)) ≠ 0) ∧
  (s.mainRuns = true) :=
  ⟨(State.reset.setDval (DP.SO_TEST 3) (.num 1)).modSafety (fun x => { x with soLeft := vset x.soLeft 3 10 }), 3, true, by decide +kernel⟩

theorem witness_SafeInputsAndOutputs_6 : ∃ (s : State) (n : Fin 4), ((s.soDiffers n 0 || s.soDiffers n 1) = true) ∧ (s.mainRuns = true) :=
  ⟨State.reset.modChan 1 (fun c => { c with so := 8 }), 3, by decide +kernel⟩

theorem witness_SafeInputsAndOutputs_7 : ∃ (s : State) (n : Fin 4), ((s.soDiffers n 0 || s.soDiffers n 1) = false) ∧ (s.mainRuns = true) :=
  ⟨State.reset.modSafety (fun x => { x with soLeft := Vector.replicate 8 1 }), 3, by decide +kernel⟩

theorem witness_SafeInputsAndOutputs_8 : ∃ (s : State) (ch : Fin 2) (n : Fin 8), (s.dnat (DP.SCMP_EN n) = 1) ∧
  ((s.chan ch).scmpOut.testBit n = true) ∧ (s.mainRuns = true) :=
  ⟨(State.reset.setDval (DP.SCMP_EN 7) (.num 1)).modChan 1 (fun c => { c with scmpOut := 128 }), 1, 7, by decide +kernel⟩

theorem witness_SafeInputsAndOutputs_9 : ∃ (s : State) (n : Fin 8), (s.dnat (DP.SCMP_EN n) ≠ 1 ∨ ((s.chan 0).scmpOut.testBit n = false ∧
  (s.chan 1).scmpOut.testBit n = false)) ∧ (s.mainRuns = true) :=
  ⟨State.reset, 7, by decide +kernel⟩

theorem witness_SafeInputsAndOutputs_10 : ∃ (s : State), (2592000 ≤ s.sys.gtSecs) ∧ (s.mainRuns = true) :=
  ⟨{ State.reset with sys := { State.reset.sys with gtSecs := 2592000 } }, by decide +kernel⟩

theorem witness_SafeInputsAndOutputs_11 : ∃ (s : State), (s.sys.gtSecs < 2592000) ∧ (s.mainRuns = true) :=
  ⟨State.reset, by decide +kernel⟩

theorem witness_SafeInputsAndOutputs_12 : ∃ (s : State) (ack : BitVec 4), (∀ e : Fin 4, (vget s.drives e).retired = false → ack.getLsbD e = true) ∧
  (s.mainRuns = true) :=
  ⟨State.reset.modDrive 3 (fun x => { x with retired := true }), 7, by decide +kernel⟩

theorem witness_SafeInputsAndOutputs_13 : ∃ (s : State) (ack : BitVec 4) (d : Fin 4), ((vget s.drives d).retired = false) ∧ (ack.getLsbD d = false) ∧
  (s.mainRuns = true) :=
  ⟨State.reset, 7, 3, by decide +kernel⟩

theorem witness_SafetyLinksAndSession_1 : ∃ (s : State) (c : Fin 48) (payload : List (BitVec 8)), (s.dnat (DP.CONN_EN c) = 1) ∧
  (s.dnat (DP.CONN_DIR c) % 2 = 0) ∧ (s.get (SCONN.SCST_STATE c) = 1) ∧
  ((payload.map BitVec.toNat).length = 12 + (payload.map BitVec.toNat).getD 0 0) ∧ ((payload.map BitVec.toNat).getD 0 0 ≤ 32) ∧
  ((payload.map BitVec.toNat).getD 1 0 = 1) ∧ (s.dnat (DP.CONN_MAX_AGE c) = 0) ∧
  (frameCheck (s.dnat (DP.CONN_CONN_ID c)) 0 ((payload.map BitVec.toNat).take (8 + (payload.map BitVec.toNat).getD 0 0)) = leNum (((payload.map
  BitVec.toNat).drop (8 + (payload.map BitVec.toNat).getD 0 0)).take 4)) ∧ (s.mainRuns = true) :=
  ⟨(((State.reset.setDval (DP.CONN_EN 47) (.num 1)).setDval (DP.CONN_DIR 47) (.num 0)).set (SCONN.SCST_STATE 47) 1).setDval (DP.CONN_MAX_AGE 47)
    (.num 0), 47, [0, 1, 0, 0, 0, 0, 0, 0, 163, 220, 222, 139], by decide +kernel⟩

theorem witness_SafetyLinksAndSession_2 : ∃ (s : State) (c : Fin 48) (payload : List (BitVec 8)), (s.dnat (DP.CONN_EN c) = 1) ∧
  (s.dnat (DP.CONN_DIR c) % 2 = 0) ∧ ((payload.map BitVec.toNat).length ≠ 12 + (payload.map BitVec.toNat).getD 0 0) ∧ (s.mainRuns = true) :=
  ⟨(State.reset.setDval (DP.CONN_EN 47) (.num 1)).setDval (DP.CONN_DIR 47) (.num 0), 47, [0], by decide +kernel⟩

theorem witness_SafetyLinksAndSession_3 : ∃ (s : State) (c : Fin 48), (s.dnat (DP.CONN_EN c) = 1) ∧ (s.dnat (DP.CONN_DIR c) % 2 = 0) ∧
  (s.mainRuns = true) :=
  ⟨(State.reset.setDval (DP.CONN_EN 47) (.num 1)).setDval (DP.CONN_DIR 47) (.num 0), 47, by decide +kernel⟩

theorem witness_SafetyLinksAndSession_4 : ∃ (s : State) (c : Fin 48), (s.dnat (DP.CONN_EN c) = 1) ∧ (s.dnat (DP.CONN_DIR c) % 2 = 1) ∧
  (s.mainRuns = true) :=
  ⟨(State.reset.setDval (DP.CONN_EN 47) (.num 1)).setDval (DP.CONN_DIR 47) (.num 1), 47, by decide +kernel⟩

theorem witness_SafetyLinksAndSession_5 : ∃ (s : State), (s.mainRuns = true) :=
  ⟨State.reset, by decide +kernel⟩

theorem witness_SafetyLinksAndSession_6 : ∃ (s : State) (pw : List (BitVec 8)), (s.safety.session = none) ∧
  (s.safety.pw.locked (s.get RTC.RTC_SEC_SEC) = false) ∧ (s.safety.pw.unchecked (pw.map BitVec.toNat) = false) ∧
  (s.safety.pw.matches (pw.map BitVec.toNat) = true) ∧ (s.mainRuns = true) :=
  ⟨State.reset, [], by decide +kernel⟩

theorem witness_SafetyLinksAndSession_7 : ∃ (s : State) (pw : List (BitVec 8)), (s.safety.session = none) ∧
  (s.safety.pw.locked (s.get RTC.RTC_SEC_SEC) = false) ∧ (s.safety.pw.unchecked (pw.map BitVec.toNat) = false) ∧
  (s.safety.pw.matches (pw.map BitVec.toNat) = false) ∧ (s.mainRuns = true) :=
  ⟨State.reset.modSafety (fun x => { x with pw := { x.pw with hash := some [], fails := 4 } }), List.replicate 8 1, by decide +kernel⟩

theorem witness_SafetyLinksAndSession_8 : ∃ (s : State), (s.mainRuns = true) :=
  ⟨State.reset, by decide +kernel⟩

theorem witness_SafetyLinksAndSession_9 : ∃ (s : State), (s.mainRuns = true) :=
  ⟨State.reset, by decide +kernel⟩

theorem witness_SafetyLinksAndSession_10 : ∃ (s : State) (pw : List (BitVec 8)), (s.safety.asked = none) ∧ (s.safety.session.isSome = true) ∧
  (8 ≤ pw.length) ∧ (pw.length ≤ 64) ∧ (s.mainRuns = true) :=
  ⟨State.reset.modSafety (fun x => { x with session := some 127 }), List.replicate 64 1, by decide +kernel⟩

theorem witness_SafetyLinksAndSession_11 : ∃ (s : State), (s.safety.asked.isSome = true) ∧ (s.mainRuns = true) :=
  ⟨State.reset.modSafety (fun x => { x with asked := some {} }), by decide +kernel⟩

theorem witness_SafetyLinksAndSession_12 : ∃ (s : State) (v : BitVec 32), (s.safety.asked = none) ∧ (s.safety.session.isSome = true) ∧ (s.safety.pw.hash.isSome = true) ∧
  ((s.chan 0).st = .sto ∨ (s.chan 0).st = .locked) ∧ ((s.chan 1).st = .sto ∨ (s.chan 1).st = .locked) ∧
  ((s.connFlows s.safety.pend).any (fun f => decide (s.dnat (DP.FC_TYPE f) = 1 ∨ s.dnat (DP.FC_TYPE f) = 2 ∨ s.dnat (DP.FC_TYPE f) = 4)) = false) ∧
  ((s.connFlows s.safety.pend).Nodup) ∧ (v.toNat = s.safetyCrc s.safety.pend) ∧ (s.mainRuns = true) :=
  ⟨State.reset.modSafety (fun x => { x with session := some 127, pw := { x.pw with hash := some [] } }),
    BitVec.ofNat 32 (State.safetyCrc (State.reset.modSafety (fun x => { x with session := some 127, pw := { x.pw with hash := some [] } })) []),
    by decide +kernel, by decide +kernel, by decide +kernel, by decide +kernel, by decide +kernel, by decide +kernel, by decide +kernel, by
    rw [BitVec.toNat_ofNat]; exact Nat.mod_eq_of_lt (crc_default_lt _ rfl), by decide +kernel⟩

theorem witness_SafetyLinksAndSession_13 : ∃ (s : State), (s.safety.session = none ∨ s.safety.asked.isSome = true) ∧ (s.mainRuns = true) :=
  ⟨State.reset, by decide +kernel⟩

theorem witness_ResetsAndStarts_1 : ∃ s : State, s.mainRuns = false :=
  ⟨State.reset.modPower (fun p => { p with reset := true }), by decide +kernel⟩

theorem witness_ResetsAndStarts_2 : ∃ (s : State), (s.mayStart = true) :=
  ⟨(State.reset.modPower (fun p => { p with good := true, reset := true })).modKeeper (fun k => { k with powered := true }) |>.setB KPR.KSTAT_PG_K
    true, by decide +kernel⟩

theorem witness_ResetsAndStarts_3 : ∃ (s : State), (s.mainRuns = true) ∧ (s.power.released = false) ∧ (s.get START.STSTAT_KIND ≠ 2) ∧
  (s.power.runs ≠ 0) :=
  ⟨State.reset.modPower (fun p => { p with good := true, reset := false, released := false, runs := 2 }), by decide +kernel⟩

theorem witness_ResetsAndStarts_4 : ∃ (s : State), (s.mainRuns = true) ∧ (s.power.released = false) ∧ (s.get START.STSTAT_KIND ≠ 2) ∧
  (s.power.runs = 3) :=
  ⟨State.reset.modPower (fun p => { p with good := true, reset := false, released := false, runs := 3 }), by decide +kernel⟩

theorem witness_ResetsAndStarts_5 : ∃ (s : State), (s.power.released = true) ∧ (s.flag START.STSTAT_BOOT_DONE = false) ∧
  (s.flag START.STSTAT_RECOV = false) ∧ (s.mainRuns = true) :=
  ⟨State.reset.modPower (fun p => { p with good := true, reset := false, released := true, ms := 70000 }), by decide +kernel⟩

theorem witness_ResetsAndStarts_6 : ∃ (s : State), (s.mainRuns = true) ∧ (s.power.released = true) ∧ (s.flag START.STSTAT_BOOT_DONE = false) ∧
  (s.power.stopStep = 0) :=
  ⟨State.reset.modPower (fun p => { p with good := true, reset := false, released := true }), by decide +kernel⟩

theorem witness_ControlledStops_1 : ∃ (s : State), (s.flag START.STSTAT_BOOT_DONE = true) ∧ (s.flag START.STSTAT_STOPPING = false) ∧
  (s.mainRuns = true) :=
  ⟨State.reset.setB START.STSTAT_BOOT_DONE true, by decide +kernel⟩

theorem witness_ControlledStops_2 : ∃ (s : State), (s.flag START.STSTAT_BOOT_DONE = false) ∧ (s.mainRuns = true) :=
  ⟨State.reset, by decide +kernel⟩

theorem witness_ControlledStops_3 : ∃ (s : State) (v : BitVec 8), (v.toNat = 1 ∨ v.toNat = 2) ∧ (s.flag START.STSTAT_STOPPING = false) ∧
  (s.mainRuns = true) :=
  ⟨State.reset, 1, by decide +kernel⟩

theorem witness_ControlledStops_4 : ∃ (s : State) (v : BitVec 8), (v.toNat = 1 ∨ v.toNat = 2) ∧ (s.flag START.STSTAT_STOPPING = true) ∧
  (s.mainRuns = true) :=
  ⟨State.reset.setB START.STSTAT_STOPPING true, 2, by decide +kernel⟩

theorem witness_ControlledStops_5 : ∃ (s : State) (v : BitVec 8), (v.toNat ≠ 1) ∧ (v.toNat ≠ 2) ∧ (s.mainRuns = true) :=
  ⟨State.reset, 3, by decide +kernel⟩

theorem witness_ControlledStops_6 : ∃ (s : State), (s.power.stopStep = 1) ∧ (s.bothRemoved = true) ∧ (s.mainRuns = true) :=
  ⟨State.reset.modPower (fun p => { p with stopStep := 1 }), by decide +kernel⟩

theorem witness_ControlledStops_7 : ∃ (s : State), (s.power.stopStep = 2) ∧ (s.stopCommitsWait = false) ∧ (s.power.restart = false) ∧
  (s.mainRuns = true) :=
  ⟨State.reset.modPower (fun p => { p with stopStep := 2 }), by decide +kernel⟩

theorem witness_ControlledStops_8 : ∃ (s : State), (s.power.stopStep = 2) ∧ (s.stopCommitsWait = false) ∧ (s.power.restart = true) ∧
  (s.mainRuns = true) :=
  ⟨State.reset.modPower (fun p => { p with stopStep := 2, restart := true }), by decide +kernel⟩

theorem witness_ControlledStops_9 : ∃ (s : State), (s.mainRuns = true) ∧ (s.keeper.powered = true) ∧ (s.keeper.running ≠ some 4) :=
  ⟨State.reset.modPower (fun p => { p with good := true, reset := false }), by decide +kernel⟩

theorem witness_EthernetFrames_1 : ∃ (s : State) (bytes : List (BitVec 8)), (s.portUp 0 = true) ∧ (s.portUp 1 = true) ∧ (60 ≤ bytes.length) ∧
  (bytes.length ≤ 1514) ∧ ((ethView (bytes.map BitVec.toNat)).tag = none) ∧ ((ethView (bytes.map BitVec.toNat)).dst ≠ s.mac 0) ∧
  ((ethView (bytes.map BitVec.toNat)).dst / 2 ^ 40 % 2 = 0) ∧ (∀ q : Fin 3, (ethView (bytes.map BitVec.toNat)).src ≠ s.mac q) ∧
  ((ethView (bytes.map BitVec.toNat)).etype ≠ 0x88F7) ∧ (s.flag (ETH.PSTAT_BLOCKED 1) = false) ∧ ((s.eth 1).queue = []) ∧ (s.mainRuns = true) :=
  ⟨(wmac.setB (ETH.PCFG_EN 0) true).setB (ETH.PSTAT_LINK_UP 0) true |>.setB (ETH.PCFG_EN 1) true |>.setB (ETH.PSTAT_LINK_UP 1) true |>.setB
    (ETH.PSTAT_BLOCKED 1) false, List.replicate 60 8, by decide +kernel⟩

theorem witness_EthernetFrames_2 : ∃ (s : State) (p : Fin 3), (s.portUp p = true) ∧ (s.mainRuns = true) :=
  ⟨(State.reset.setB (ETH.PCFG_EN 2) true).setB (ETH.PSTAT_LINK_UP 2) true, 2, by decide +kernel⟩

theorem witness_EthernetFrames_3 : ∃ (s : State) (p : Fin 3) (q : Fin 8) (f : NetFrame), (s.portUp p = true) ∧ ((s.eth p).tx = none) ∧
  (s.gateList p = none) ∧ ((s.eth p).queue = [(q.val, f)]) ∧ (s.mainRuns = true) :=
  ⟨((State.reset.setB (ETH.PCFG_EN 2) true).setB (ETH.PSTAT_LINK_UP 2) true).modEth 2 (fun x => { x with queue := [(7, { bytes := [1] })] }), 2, 7,
    { bytes := [1] }, by decide +kernel⟩

theorem witness_EthernetFrames_4 : ∃ (s : State) (p : Fin 3) (f : NetFrame), ((s.eth p).tx = some f) ∧ (f.flow = none) ∧ (s.mainRuns = true) :=
  ⟨State.reset.modEth 2 (fun x => { x with tx := some { bytes := [1] } }), 2, { bytes := [1] }, by decide +kernel⟩

theorem witness_EthernetFrames_5 : ∃ (s : State), (s.manager = true) ∧ (s.mainRuns = true) :=
  ⟨State.reset.setB (ETH.PCFG_RING_MGR 0) true, by decide +kernel⟩

theorem witness_EthernetFrames_6 : ∃ (s : State), (s.mainRuns = true) :=
  ⟨State.reset, by decide +kernel⟩

theorem witness_EthernetFrames_7 : ∃ (s : State), (s.mainRuns = true) :=
  ⟨State.reset, by decide +kernel⟩

theorem witness_GatesAndProcessData_1 : ∃ (s : State) (p : Fin 3), (1000 ≤ (s.adminList p).cycle) ∧ (s.get (GATE.GCFG_ADM_LEN p) ≤ 64) ∧
  (s.mainRuns = true) :=
  ⟨State.reset.set (GATE.ADM_CYCLE_ADM_CYCLE 2) 1000, 2, by decide +kernel⟩

theorem witness_GatesAndProcessData_2 : ∃ (s : State) (p : Fin 3), ((s.adminList p).cycle < 1000) ∧ (s.mainRuns = true) :=
  ⟨State.reset.set (GATE.ADM_CYCLE_ADM_CYCLE 2) 999, 2, by decide +kernel⟩

theorem witness_GatesAndProcessData_3 : ∃ (s : State) (p : Fin 3) (g : GateList) (at0 : Nat), ((s.eth p).pend = some (at0, g)) ∧ (at0 ≤ s.ltNs) ∧
  (s.mainRuns = true) :=
  ⟨State.reset.modEth 2 (fun x => { x with pend := some (0, { base := 0, cycle := 1000, entries := [(255, 1000)] }) }), 2,
    { base := 0, cycle := 1000, entries := [(255, 1000)] }, 0, by decide +kernel⟩

theorem witness_GatesAndProcessData_4 : ∃ (s : State), (s.mainRuns = true) :=
  ⟨State.reset, by decide +kernel⟩

theorem witness_GatesAndProcessData_5 : ∃ (s : State) (f : Fin 128) (b : List Nat), ((vget s.flows f).released = some b) ∧ (s.use f = 2) ∧
  ((if s.dnat (DP.FC_PERIOD f) = 0 then (vget s.flows f).fresh else s.slotNow f) = true) ∧ (s.mainRuns = true) :=
  ⟨(State.reset.setDval (DP.FC_TYPE 127) (.num 2)).modFlow 127 (fun x => { x with released := some [], fresh := true }), 127, [], by decide +kernel⟩

theorem witness_GatesAndProcessData_6 : ∃ (s : State) (f : Fin 128) (b : List Nat), ((vget s.flows f).released = some b) ∧ (s.use f = 2) ∧
  (s.dnat (DP.FC_PERIOD f) ≠ 0) ∧ (s.slotNow f = true) ∧ (s.mainRuns = true) :=
  ⟨(((State.reset.setDval (DP.FC_TYPE 127) (.num 2)).setDval (DP.FC_PERIOD 127) (.num 1000)).modFlow 127 (fun x =>
    { x with released := some [] })).modNet (fun n => { n with lt := 1000 * 2 ^ 32, rate := 2 ^ 33 }), 127, [], by decide +kernel⟩

theorem witness_GatesAndProcessData_7 : ∃ (s : State) (f : Fin 128), (s.dnat (DP.FC_PERIOD f) ≠ 0) ∧ (s.slotNow f = false) ∧ (s.mainRuns = true) :=
  ⟨((State.reset.setDval (DP.FC_TYPE 127) (.num 2)).setDval (DP.FC_PERIOD 127) (.num 1000)).modNet (fun n =>
    { n with lt := 1010 * 2 ^ 32, rate := 2 ^ 33 }), 127, by decide +kernel⟩

theorem witness_GatesAndProcessData_8 : ∃ (s : State), (s.mainRuns = true) :=
  ⟨State.reset.setDval (DP.FC_TYPE 127) (.num 2), by decide +kernel⟩

theorem witness_GatesAndProcessData_9 : ∃ (s : State) (f : Fin 128), (s.use f = 1) ∧ (s.dnat (DP.FC_PERIOD f) ≠ 0) ∧
  ((vget s.flows f).rxLost = false) ∧ (s.mainRuns = true) :=
  ⟨(State.reset.setDval (DP.FC_TYPE 127) (.num 1)).setDval (DP.FC_PERIOD 127) (.num 1000), 127, by decide +kernel⟩

theorem witness_TimeAndDomains_1 : ∃ (s : State), (s.mainRuns = true) :=
  ⟨State.reset, by decide +kernel⟩

theorem witness_TimeAndDomains_2 : ∃ (s : State) (p : Fin 3) (m : PtpMsg) (receipt : Int) (t1 : Int), (s.flag (ETH.PCFG_PTP_EN p) = true) ∧
  (m.body = .pdelayResp true receipt) ∧ (s.peerDelay p = true) ∧ (m.seq.toNat = (s.eth p).pSeq) ∧ ((s.eth p).pReq = some t1) ∧ (s.mainRuns = true) :=
  ⟨((State.reset.setB (ETH.PCFG_PTP_EN 2) true).set (ETH.PCFG_DELAY_MECH 2) 1).modEth 2 (fun x => { x with pSeq := 65535, pReq := some 5 }), 2,
    { domain := 0, sender := 0, seq := 65535, correction := 0, body := .pdelayResp true 7 }, 7, 5, by decide +kernel⟩

theorem witness_TimeAndDomains_3 : ∃ (s : State) (p : Fin 3), (s.flag (ETH.PCFG_PTP_EN p) = true) ∧ (s.peerDelay p = true) ∧ (s.mainRuns = true) :=
  ⟨((State.reset.setB (ETH.PCFG_PTP_EN 2) true).set (ETH.PCFG_DELAY_MECH 2) 1).modEth 2 (fun x => { x with pSeq := 65535 }), 2, by decide +kernel⟩

theorem witness_TimeAndDomains_4 : ∃ (s : State), (s.mainRuns = true) :=
  ⟨State.reset, by decide +kernel⟩

theorem witness_TimeAndDomains_5 : ∃ (s : State) (x : Fin 2) (m : PtpMaster), ((s.dom x).best = some m) ∧ (s.mainRuns = true) :=
  ⟨State.reset.modDom 1 (fun d => { d with masters := [theMaster] }), 1, theMaster, by decide +kernel⟩

theorem witness_TimeAndDomains_6 : ∃ (s : State), (s.sel = 2) ∧ (s.flag TIME.TCFG_A_PREF = true) ∧ ((s.dom 0).valid = true) ∧ (s.mainRuns = true) :=
  ⟨((State.reset.set TIME.TSTAT_SEL 2).setB TIME.TCFG_A_PREF true).modDom 0 (fun d => { d with sync := true, masters := [theMaster] }),
    by decide +kernel⟩

theorem witness_TimeAndDomains_7 : ∃ (s : State), (s.mainRuns = true) :=
  ⟨State.reset, by decide +kernel⟩

theorem witness_TimeAndDomains_8 : ∃ (s : State) (m : PtpMaster), (s.sel ≠ 0) ∧ ((s.dom (s.sel - 1)).best = some m) ∧ (m.leap ≠ 0) ∧
  (s.mainRuns = true) :=
  ⟨(State.reset.set TIME.TSTAT_SEL 2).modDom 1 (fun d => { d with masters := [{ theMaster with leap := -1 }] }), { theMaster with leap := -1 },
    by decide +kernel⟩

theorem witness_TimeUnits_1 : ∃ (s : State) (u : Fin 16), (s.flag (TU.TUCFG_EN u) = false) ∧ (s.mainRuns = true) ∧ (s.parityOk (TU.TUCFG u) = true) :=
  ⟨State.reset, 15, by decide +kernel⟩

theorem witness_TimeUnits_2 : ∃ (s : State) (u : Fin 16), (s.tuDue u = false) ∧ (s.mainRuns = true) :=
  ⟨((((State.reset.setB (TU.TUCFG_EN 15) true).set (TU.TUCFG_MODE 15) 1).setB (TU.TUSTAT_ARMED 15) true).set (TU.TUCFG_EDGE 15) 3), 15,
    by decide +kernel⟩

theorem witness_TimeUnits_3 : ∃ (s : State) (u : Fin 16), (s.tuDue u = true) ∧ (s.mainRuns = true) :=
  ⟨((((State.reset.setB (TU.TUCFG_EN 15) true).set (TU.TUCFG_MODE 15) 0).setB (TU.TUSTAT_ARMED 15) true).set (TU.TUCFG_EDGE 15) 3), 15,
    by decide +kernel⟩

theorem witness_TimeUnits_4 : ∃ (s : State) (u : Fin 16), (s.flag (TU.TUSTAT_ARMED u) = true) ∧ (s.flag (TU.TUCFG_EN u) = true) ∧
  (s.get (TU.TUCFG_MODE u) = 0) ∧ (s.tuReached u = true) ∧ (s.flag (TU.TUCFG_PERIODIC u) = false) ∧ (s.mainRuns = true) :=
  ⟨((((State.reset.setB (TU.TUCFG_EN 15) true).set (TU.TUCFG_MODE 15) 0).setB (TU.TUSTAT_ARMED 15) true).set (TU.TUCFG_EDGE 15) 3), 15,
    by decide +kernel⟩

theorem witness_TimeUnits_5 : ∃ (s : State) (u : Fin 16), (s.flag (TU.TUSTAT_ARMED u) = true) ∧ (s.flag (TU.TUCFG_EN u) = true) ∧
  (s.get (TU.TUCFG_MODE u) = 0) ∧ (s.tuReached u = true) ∧ (s.flag (TU.TUCFG_PERIODIC u) = true) ∧ (s.get (TU.PERIOD_PERIOD u) ≠ 0) ∧
  (s.mainRuns = true) :=
  ⟨(((((State.reset.setB (TU.TUCFG_EN 15) true).set (TU.TUCFG_MODE 15) 0).setB (TU.TUSTAT_ARMED 15) true).set (TU.TUCFG_EDGE 15) 3).setB
    (TU.TUCFG_PERIODIC 15) true).set (TU.PERIOD_PERIOD 15) 1, 15, by decide +kernel⟩

theorem witness_TimeUnits_6 : ∃ (s : State), (s.mainRuns = true) :=
  ⟨State.reset, by decide +kernel⟩

theorem witness_TimeUnits_7 : ∃ (s : State) (u : Fin 16), (s.flag (TU.TUCFG_EN u) = true) ∧ (s.get (TU.TUCFG_MODE u) = 1) ∧
  (s.get (TU.TUCFG_EDGE u) = 3) ∧ (s.mainRuns = true) :=
  ⟨((((State.reset.setB (TU.TUCFG_EN 15) true).set (TU.TUCFG_MODE 15) 1).setB (TU.TUSTAT_ARMED 15) true).set (TU.TUCFG_EDGE 15) 3), 15,
    by decide +kernel⟩

theorem witness_CanControllers_1 : ∃ (s : State) (n : Fin 4) (f : CanReceived), (s.flag (CAN.CCFG_EN n) = true) ∧ (s.get (CAN.CSTAT_STATE n) < 2) ∧
  (f.fd = true → s.flag (CAN.CCFG_FD_EN n) = true) ∧ (s.mainRuns = true) :=
  ⟨(State.reset.setB (CAN.CCFG_EN 3) true).set (CAN.CSTAT_STATE 3) 0 |>.set (CAN.CSTAT_REC 3) 128 |>.setB (CAN.CCFG_FD_EN 3) true, 3,
    { ide := true, id := 0, fd := true, rtr := false, data := [], sof := 7 }, by decide +kernel⟩

theorem witness_CanControllers_2 : ∃ (s : State) (n : Fin 4) (i : Nat) (b : CanBuf), (s.flag (CAN.CCFG_EN n) = true) ∧
  (s.flag (CAN.CCFG_LISTEN_ONLY n) = false) ∧ (s.get (CAN.CSTAT_STATE n) < 2) ∧ (s.canOffer n = some (i, b)) ∧ (s.mainRuns = true) :=
  ⟨((State.reset.setB (CAN.CCFG_EN 3) true).set (CAN.CSTAT_STATE 3) 0).modCan 3 (fun c =>
    { c with bufs := vset c.bufs 15 (some { frame := { ide := true, id := 0, fd := false, rtr := false, data := [] }, flow := none }) }), 3, 15,
    { frame := { ide := true, id := 0, fd := false, rtr := false, data := [] }, flow := none }, by decide +kernel⟩

theorem witness_CanControllers_3 : ∃ (s : State) (n : Fin 4), (s.flag (CAN.CCFG_EN n) = true) ∧ (s.flag (CAN.CCFG_LISTEN_ONLY n) = false) ∧
  (s.get (CAN.CSTAT_STATE n) < 2) ∧ ((s.canOffer n).isSome = true) ∧ (s.mainRuns = true) :=
  ⟨((State.reset.setB (CAN.CCFG_EN 3) true).set (CAN.CSTAT_STATE 3) 0).modCan 3 (fun c =>
    { c with bufs := vset c.bufs 15 (some { frame := { ide := true, id := 0, fd := false, rtr := false, data := [] }, flow := none }) }), 3,
    by decide +kernel⟩

theorem witness_CanControllers_4 : ∃ (s : State) (n : Fin 4), (s.flag (CAN.CCFG_EN n) = true) ∧ (s.mainRuns = true) :=
  ⟨(State.reset.setB (CAN.CCFG_EN 3) true).set (CAN.CSTAT_STATE 3) 0, 3, by decide +kernel⟩

theorem witness_CanControllers_5 : ∃ (s : State) (n : Fin 4), (s.get (CAN.CSTAT_STATE n) = 2) ∧ (s.mainRuns = true) :=
  ⟨State.reset.set (CAN.CSTAT_STATE 3) 2, 3, by decide +kernel⟩

theorem witness_CanControllers_6 : ∃ (s : State) (n : Fin 4), (s.get (CAN.CSTAT_STATE n) = 2) ∧ ((vget s.net.cans n).recovering = true) ∧
  (s.mainRuns = true) :=
  ⟨(State.reset.set (CAN.CSTAT_STATE 3) 2).modCan 3 (fun c => { c with recovering := true }), 3, by decide +kernel⟩

theorem witness_SessionsAndRoles_1 : ∃ (s : State) (r : DictReq) (f : Nat), (s.engineWaits = false) ∧ (DictReq.headerOk 1 r = true) ∧
  (s.sessions.find? (fun k => match (vget s.flows k).session with | some x => x.client.same r.client | none => false) = none) ∧
  ((List.range 128).find? (fun k => decide (s.use k = 0)) = some f) ∧ (s.sessions.length < 32) ∧ (s.mainRuns = true) :=
  ⟨State.reset, wreq 0 0 [], 0, by decide +kernel⟩

theorem witness_SessionsAndRoles_2 : ∃ (s : State) (r : DictReq) (x : Session), (s.engineWaits = false) ∧ (DictReq.headerOk 2 r = true) ∧
  (s.sessionOf r = some x) ∧ (x.client.same r.client = true) ∧ (x.last = none) ∧ (s.dict.appReqs = []) ∧ (s.dict.appCommits = []) ∧ (x.xfer = none) ∧
  (s.mainRuns = true) :=
  ⟨wopen 0 none, wreq 0 0 [], { client := .can 3 15, role := 0, xfer := none }, by decide +kernel⟩

theorem witness_SessionsAndRoles_3 : ∃ (s : State) (r : DictReq) (x : Session), (s.engineWaits = false) ∧ (DictReq.headerOk 3 r = true) ∧
  (s.sessionOf r = some x) ∧ (x.client.same r.client = true) ∧ (x.last = none) ∧ (s.dict.appReqs = []) ∧ (s.dict.appCommits = []) ∧ (x.xfer = none) ∧
  (s.mainRuns = true) :=
  ⟨wopen 0 none, wreq 0 0 [], { client := .can 3 15, role := 0, xfer := none }, by decide +kernel⟩

theorem witness_SessionsAndRoles_4 : ∃ (s : State) (f : Fin 128), ((vget s.flows f).session.isSome = true) ∧ (s.mainRuns = true) :=
  ⟨wopen 0 none, 127, by decide +kernel⟩

theorem witness_SessionsAndRoles_5 : ∃ (s : State) (f : Fin 128) (y : Session), ((vget s.flows f).session = some y) ∧ (y.xfer.isSome = true) ∧
  (s.mainRuns = true) :=
  ⟨wopen 0 (some { down := false, tid := 1, key := 0x100002, data := List.replicate 60 7, total := 60, next := 1 }), 127,
    { client := .can 3 15, role := 0, xfer := (some { down := false, tid := 1, key := 0x100002, data := List.replicate 60 7, total := 60, next := 1 }) },
    by decide +kernel⟩

theorem witness_SessionsAndRoles_6 : ∃ (s : State) (r : DictReq) (svc : BitVec 8) (x : Session), (s.engineWaits = false) ∧ ([1, 2, 3, 0x10, 0x11,
  0x20, 0x21, 0x7F].contains svc.toNat = false) ∧ (s.sessionOf r = some x) ∧ (x.client.same r.client = true) ∧ (s.mainRuns = true) :=
  ⟨wopen 0 none, wreq 0 0 [], 0x22, { client := .can 3 15, role := 0, xfer := none }, by decide +kernel⟩

theorem witness_SessionsAndRoles_7 : ∃ (s : State) (r : DictReq) (x : Session) (tr : Transfer), (s.engineWaits = false) ∧ (s.sessionOf r = some x) ∧
  (x.client.same r.client = true) ∧ (x.last = none) ∧ (s.dict.appReqs = []) ∧ (s.dict.appCommits = []) ∧ (x.xfer = some tr) ∧
  (tr.tid = r.tid.toNat) ∧ (s.mainRuns = true) :=
  ⟨wopen 0 (some { down := false, tid := 1, key := 0x100002, data := List.replicate 60 7, total := 60, next := 1 }), wreq 0 0 [],
    { client := .can 3 15, role := 0, xfer := (some { down := false, tid := 1, key := 0x100002, data := List.replicate 60 7, total := 60, next := 1 }) },
    { down := false, tid := 1, key := 0x100002, data := List.replicate 60 7, total := 60, next := 1 }, by decide +kernel⟩

theorem witness_SessionsAndRoles_8 : ∃ (s : State) (r : DictReq) (x : Session), (s.engineWaits = false) ∧
  (DictReq.headerOk 0x20 (DictReq.to r 0x1400 2) = true) ∧ (s.sessionOf r = some x) ∧ (x.client.same r.client = true) ∧ (x.last = none) ∧
  (s.dict.appReqs = []) ∧ (s.dict.appCommits = []) ∧ (x.xfer = none) ∧ (r.flags.getLsbD 0 = false) ∧
  (s.writeCheck (DictReq.to r 0x1400 2) r.bytes.length = 0) ∧ ((s.login r.session.toNat r.bytes).1 = 0) ∧ (s.mainRuns = true) :=
  ⟨wopen 0 none, wreq 0 0 [2], { client := .can 3 15, role := 0, xfer := none }, by decide +kernel⟩

theorem witness_SessionsAndRoles_9 : ∃ (s : State) (r : DictReq) (x : Session), (s.engineWaits = false) ∧
  (DictReq.headerOk 0x20 (DictReq.to r 0x1400 3) = true) ∧ (s.sessionOf r = some x) ∧ (x.client.same r.client = true) ∧ (x.last = none) ∧
  (s.dict.appReqs = []) ∧ (s.dict.appCommits = []) ∧ (x.xfer = none) ∧ (r.flags.getLsbD 0 = false) ∧ (r.bytes = [1]) ∧
  (s.writeCheck (DictReq.to r 0x1400 3) 1 = 0) ∧ (s.mainRuns = true) :=
  ⟨wopen 2 none, wreq 0 0 [1], { client := .can 3 15, role := 2, xfer := none }, by decide +kernel⟩

theorem witness_SessionsAndRoles_10 : ∃ (s : State) (r : DictReq) (x : Session), (s.engineWaits = false) ∧
  (DictReq.headerOk 0x20 (DictReq.to r 0x1400 4) = true) ∧ (s.sessionOf r = some x) ∧ (x.client.same r.client = true) ∧ (x.last = none) ∧
  (s.dict.appReqs = []) ∧ (s.dict.appCommits = []) ∧ (x.xfer = none) ∧ (r.flags.getLsbD 0 = false) ∧ (r.bytes.length = 0 ∨ 8 ≤ r.bytes.length) ∧
  (s.writeCheck (DictReq.to r 0x1400 4) r.bytes.length = 0) ∧ (s.mainRuns = true) :=
  ⟨wopen 2 none, wreq 0 0 [], { client := .can 3 15, role := 2, xfer := none }, by decide +kernel⟩

theorem witness_SessionsAndRoles_11 : ∃ (s : State) (r : DictReq) (x : Session), (s.engineWaits = false) ∧
  (DictReq.headerOk 0x20 (DictReq.to r 0x1400 5) = true) ∧ (s.sessionOf r = some x) ∧ (x.client.same r.client = true) ∧ (x.last = none) ∧
  (s.dict.appReqs = []) ∧ (s.dict.appCommits = []) ∧ (x.xfer = none) ∧ (r.flags.getLsbD 0 = false) ∧ (8 ≤ r.bytes.length) ∧
  (s.writeCheck (DictReq.to r 0x1400 5) r.bytes.length = 0) ∧ (s.mainRuns = true) :=
  ⟨wopen 2 none, wreq 0 0 (List.replicate 8 65), { client := .can 3 15, role := 2, xfer := none }, by decide +kernel⟩

theorem witness_DictionaryReads_1 : ∃ (s : State) (r : DictReq) (x : Session), (s.engineWaits = false) ∧ (DictReq.headerOk 0x10 r = true) ∧
  (s.sessionOf r = some x) ∧ (x.client.same r.client = true) ∧ (x.last = none) ∧ (s.dict.appReqs = []) ∧ (s.dict.appCommits = []) ∧ (x.xfer = none) ∧
  (r.index = 0x1400) ∧ (r.sub = 1) ∧ (s.mainRuns = true) :=
  ⟨wopen 2 none, wreq 0x1400 1 [], { client := .can 3 15, role := 2, xfer := none }, by decide +kernel⟩

theorem witness_DictionaryReads_2 : ∃ (s : State) (r : DictReq) (x : Session) (n : Nat), (s.engineWaits = false) ∧ (DictReq.headerOk 0x10 r = true) ∧
  (s.sessionOf r = some x) ∧ (x.client.same r.client = true) ∧ (x.last = none) ∧ (s.dict.appReqs = []) ∧ (s.dict.appCommits = []) ∧ (x.xfer = none) ∧
  (r.index.toNat < 0x8000) ∧ (nsubOf r.index.toNat = some n) ∧ (r.sub = 0) ∧ (s.mainRuns = true) :=
  ⟨wopen 0 none, wreq 0x1000 0 [], { client := .can 3 15, role := 0, xfer := none }, 10, by decide +kernel⟩

theorem witness_DictionaryReads_3 : ∃ (s : State) (r : DictReq) (x : Session), (s.engineWaits = false) ∧ (DictReq.headerOk 0x10 r = true) ∧
  (s.sessionOf r = some x) ∧ (x.client.same r.client = true) ∧ (x.last = none) ∧ (s.dict.appReqs = []) ∧ (s.dict.appCommits = []) ∧ (x.xfer = none) ∧
  (r.index.toNat < 0x8000) ∧ (nsubOf r.index.toNat = none) ∧ (s.mainRuns = true) :=
  ⟨wopen 0 none, wreq 0x7FFF 1 [], { client := .can 3 15, role := 0, xfer := none }, by decide +kernel⟩

theorem witness_DictionaryReads_4 : ∃ (s : State) (r : DictReq) (x : Session) (tr : Transfer), (s.engineWaits = false) ∧
  (DictReq.headerOk 0x11 r = true) ∧ (s.sessionOf r = some x) ∧ (x.client.same r.client = true) ∧ (x.last = none) ∧ (s.dict.appReqs = []) ∧
  (s.dict.appCommits = []) ∧ (x.xfer = some tr) ∧ (tr.tid = r.tid.toNat) ∧ (tr.down = false) ∧ (r.segno.toNat = tr.next) ∧ (r.key = tr.key) ∧
  (r.client.maxLen * tr.next < tr.total) ∧ (s.mainRuns = true) :=
  ⟨wopen 0 (some { down := false, tid := 1, key := 0x100002, data := List.replicate 60 7, total := 60, next := 1 }),
    { wreq 0x1000 2 [] with segno := 1 },
    { client := .can 3 15, role := 0, xfer := (some { down := false, tid := 1, key := 0x100002, data := List.replicate 60 7, total := 60, next := 1 }) },
    { down := false, tid := 1, key := 0x100002, data := List.replicate 60 7, total := 60, next := 1 }, by decide +kernel⟩

theorem witness_DictionaryReads_5 : ∃ (s : State) (r : DictReq) (x : Session) (tr : Transfer), (s.engineWaits = false) ∧
  (DictReq.headerOk 0x11 r = true) ∧ (s.sessionOf r = some x) ∧ (x.client.same r.client = true) ∧ (x.last = none) ∧ (s.dict.appReqs = []) ∧
  (s.dict.appCommits = []) ∧ (x.xfer = some tr) ∧ (tr.tid = r.tid.toNat) ∧ (tr.down = false) ∧ (r.segno.toNat = tr.next) ∧ (r.key = tr.key) ∧
  (tr.total ≤ r.client.maxLen * tr.next) ∧ (s.mainRuns = true) :=
  ⟨wopen 0 (some { down := false, tid := 1, key := 0x100002, data := List.replicate 60 7, total := 60, next := 2 }),
    { wreq 0x1000 2 [] with segno := 2 },
    { client := .can 3 15, role := 0, xfer := (some { down := false, tid := 1, key := 0x100002, data := List.replicate 60 7, total := 60, next := 2 }) },
    { down := false, tid := 1, key := 0x100002, data := List.replicate 60 7, total := 60, next := 2 }, by decide +kernel⟩

theorem witness_DictionaryWrites_1 : ∃ (s : State) (r : DictReq) (x : Session), (s.engineWaits = false) ∧ (DictReq.headerOk 0x20 r = true) ∧
  (s.sessionOf r = some x) ∧ (x.client.same r.client = true) ∧ (x.last = none) ∧ (s.dict.appReqs = []) ∧ (s.dict.appCommits = []) ∧ (x.xfer = none) ∧
  (r.flags.getLsbD 0 = true) ∧ (leNum r.bytes ≠ 0) ∧ (s.writeCheck r (leNum r.bytes) = 0) ∧ (s.mainRuns = true) :=
  ⟨wopen 2 none, { wreq 0x1000 9 [32, 0, 0, 0] with flags := 1 }, { client := .can 3 15, role := 2, xfer := none }, by decide +kernel⟩

theorem witness_DictionaryWrites_2 : ∃ (s : State) (r : DictReq) (x : Session), (s.engineWaits = false) ∧ (DictReq.headerOk 0x20 r = true) ∧
  (s.sessionOf r = some x) ∧ (x.client.same r.client = true) ∧ (x.last = none) ∧ (s.dict.appReqs = []) ∧ (s.dict.appCommits = []) ∧ (x.xfer = none) ∧
  (r.flags.getLsbD 0 = false) ∧ (s.writeCheck r r.bytes.length ≠ 0) ∧ (s.mainRuns = true) :=
  ⟨wopen 0 none, wreq 0x1000 9 [65], { client := .can 3 15, role := 0, xfer := none }, by decide +kernel⟩

theorem witness_DictionaryWrites_3 : ∃ (s : State) (r : DictReq) (x : Session) (tr : Transfer), (s.engineWaits = false) ∧
  (DictReq.headerOk 0x21 r = true) ∧ (s.sessionOf r = some x) ∧ (x.client.same r.client = true) ∧ (x.last = none) ∧ (s.dict.appReqs = []) ∧
  (s.dict.appCommits = []) ∧ (x.xfer = some tr) ∧ (tr.tid = r.tid.toNat) ∧ (tr.down = true) ∧ (r.segno.toNat = tr.next) ∧ (r.key = tr.key) ∧
  (r.flags.getLsbD 1 = false) ∧ (r.len.toNat = r.client.maxLen) ∧ ((tr.data ++ r.bytes).length < tr.total) ∧ (s.mainRuns = true) :=
  ⟨wopen 2 (some { down := true, tid := 1, key := 0x100009, data := [], total := 60, next := 1 }),
    { wreq 0x1000 9 (List.replicate 50 65) with segno := 1 },
    { client := .can 3 15, role := 2, xfer := (some { down := true, tid := 1, key := 0x100009, data := [], total := 60, next := 1 }) },
    { down := true, tid := 1, key := 0x100009, data := [], total := 60, next := 1 }, by decide +kernel⟩

theorem witness_DictionaryWrites_4 : ∃ (s : State) (r : DictReq) (x : Session), (s.engineWaits = false) ∧
  (DictReq.headerOk 0x20 (DictReq.to r 0x1000 10) = true) ∧ (s.sessionOf r = some x) ∧ (x.client.same r.client = true) ∧ (x.last = none) ∧
  (s.dict.appReqs = []) ∧ (s.dict.appCommits = []) ∧ (x.xfer = none) ∧ (r.flags.getLsbD 0 = false) ∧ (r.bytes = [1]) ∧
  (s.writeCheck (DictReq.to r 0x1000 10) 1 = 0) ∧ (s.mainRuns = true) :=
  ⟨wopen 2 none, wreq 0 0 [1], { client := .can 3 15, role := 2, xfer := none }, by decide +kernel⟩

theorem witness_DictionaryWrites_5 : ∃ (s : State) (c : DictCommit), (s.dict.commit = some c) ∧ (s.dict.waiting = []) ∧ (s.dict.cmdWait = none) ∧
  (s.mainRuns = true) :=
  ⟨State.reset.modDict (fun d => { d with commit := some { key := 0x100009, val := .bytes [65], svc := 0x20, req := wreq 0x1000 9 [65] } }),
    { key := 0x100009, val := .bytes [65], svc := 0x20, req := wreq 0x1000 9 [65] }, by decide +kernel⟩

theorem witness_DictionaryWrites_6 : ∃ (s : State) (a : SafeAsk), (s.dict.commit = none) ∧ (s.safety.asked = some a) ∧ (s.dict.waiting = []) ∧
  (s.mainRuns = true) :=
  ⟨State.reset.modSafety (fun x => { x with asked := some { reply := some (0x20, wreq 0 0 []) } }), { reply := some (0x20, wreq 0 0 []) },
    by decide +kernel⟩

theorem witness_DictionaryWrites_7 : ∃ (s : State) (a : AppReq) (l : List AppReq), (s.dict.appCommits = a :: l) ∧ (s.mainRuns = true) :=
  ⟨State.reset.modDict (fun d => { d with appCommits := [default] }), default, [], by decide +kernel⟩

theorem witness_ApplicationObjects_1 : ∃ (s : State), (s.flag DICT.DSTAT_DECL_DONE = false) ∧ (s.get DICT.DECL_DECL_LEN ≤ 512) ∧
  (firstBad ((List.range (s.get DICT.DECL_DECL_LEN)).map (fun i => s.declEntry i)) 0 0 = none) ∧ (s.mainRuns = true) :=
  ⟨State.reset, by decide +kernel⟩

theorem witness_ApplicationObjects_2 : ∃ (s : State) (i : Nat), (s.flag DICT.DSTAT_DECL_DONE = false) ∧ (s.get DICT.DECL_DECL_LEN ≤ 512) ∧
  (firstBad ((List.range (s.get DICT.DECL_DECL_LEN)).map (fun i => s.declEntry i)) 0 0 = some i) ∧ (s.mainRuns = true) :=
  ⟨State.reset.set DICT.DECL_DECL_LEN 1, 0, by decide +kernel⟩

theorem witness_ApplicationObjects_3 : ∃ (s : State) (a : AppReq),
  (s.dict.appReqs.find? (fun a => decide (a.req.session.toNat = s.get DICT.RESP_SESSION) && decide (a.req.gen.toNat = s.get DICT.RESP_GEN) && decide
  (a.req.tid.toNat = s.get DICT.RESP_TID)) = some a) ∧ (s.mainRuns = true) :=
  ⟨State.reset.modDict (fun d => { d with appReqs := [default] }), default, by decide +kernel⟩

theorem witness_ApplicationObjects_4 : ∃ (s : State),
  (s.dict.appReqs.find? (fun a => decide (a.req.session.toNat = s.get DICT.RESP_SESSION) && decide (a.req.gen.toNat = s.get DICT.RESP_GEN) && decide
  (a.req.tid.toNat = s.get DICT.RESP_TID)) = none) ∧ (s.mainRuns = true) :=
  ⟨State.reset, by decide +kernel⟩

theorem witness_ApplicationObjects_5 : ∃ (s : State) (f : Fin 128) (tid : BitVec 16) (a : AppReq),
  (s.dict.appReqs.find? (fun a => decide (a.req.session.toNat = f.val) && decide (a.req.tid = tid)) = some a) ∧ (s.mainRuns = true) :=
  ⟨State.reset.modDict (fun d => { d with appReqs := [default] }), 0, 0, default, by decide +kernel⟩

theorem witness_KeeperPower_1 : ∃ (s : State), (s.keeper.powered = false) :=
  ⟨State.reset.modKeeper (fun k => { k with powered := false }), by decide +kernel⟩

theorem witness_KeeperPower_2 : ∃ (s : State), (s.keeper.powered = true) :=
  ⟨State.reset, by decide +kernel⟩

theorem witness_KeeperPower_3 : ∃ (s : State), (s.keeper.powered = true) :=
  ⟨State.reset, by decide +kernel⟩

theorem witness_KeeperPower_4 : ∃ (s : State), (s.keeper.powered = true) :=
  ⟨State.reset, by decide +kernel⟩

theorem witness_KeeperPower_5 : ∃ (s : State), (s.keeper.powered = false) :=
  ⟨State.reset.modKeeper (fun k => { k with powered := false, starting := true }), by decide +kernel⟩

theorem witness_KeeperPower_6 : ∃ (s : State), (s.keeper.powered = true) ∧ (s.get KPR.KSTAT_HMODE = 1) :=
  ⟨State.reset.set KPR.KSTAT_HMODE 1, by decide +kernel⟩

theorem witness_KeeperPower_7 : ∃ (s : State), (s.keeper.powered = true) ∧ (s.get KPR.KSTAT_HMODE = 2) :=
  ⟨State.reset.set KPR.KSTAT_HMODE 2, by decide +kernel⟩

theorem witness_KeeperPower_8 : ∃ (s : State) (charge : Nat), (s.keeper.powered = true) ∧ (s.get KPR.KSTAT_HMODE = 2) ∧ (s.keeper.charge < charge) ∧
  (s.keeper.up = true) :=
  ⟨State.reset.set KPR.KSTAT_HMODE 2, 1, by decide +kernel⟩

theorem witness_KeeperPower_9 : ∃ (s : State) (charge : Nat), (s.keeper.powered = true) ∧ (s.get KPR.KSTAT_HMODE = 2) ∧ (charge ≤ s.keeper.charge) ∧
  (s.keeper.up = true) :=
  ⟨State.reset.set KPR.KSTAT_HMODE 2, 0, by decide +kernel⟩

theorem witness_KeeperPower_10 : ∃ (s : State), (s.keeper.powered = true) ∧ (s.harvestStopped = false) ∧ (s.flag KPR.KSTAT_STL_FULL = false) ∧
  (s.flag KPR.KCFG_HV_EN = true) ∧ (s.keeper.rich = false) ∧ (s.get KPR.VST_VSTL_MV < s.get KPR.KV_V_RICH) :=
  ⟨((State.reset.setB KPR.KCFG_HV_EN true).setB KPR.KSTAT_VKIN_ON false).set KPR.VST_VSTL_MV 0, by decide +kernel⟩

theorem witness_KeeperPower_11 : ∃ (s : State), (s.keeper.powered = true) ∧ (s.harvestStopped = false) :=
  ⟨State.reset.setB KPR.KSTAT_VKIN_ON false, by decide +kernel⟩

theorem witness_Bursts_1 : ∃ (s : State) (c : Fin 10), (s.keeper.powered = true) ∧ (s.keeper.running ≠ some c.val) :=
  ⟨State.reset, 9, by decide +kernel⟩

theorem witness_Bursts_2 : ∃ (s : State) (c : Fin 10), (s.keeper.powered = true) ∧ (s.keeper.running = some c.val) :=
  ⟨State.reset.modKeeper (fun k => { k with running := some 9 }), 9, by decide +kernel⟩

theorem witness_Bursts_3 : ∃ (s : State) (c : Nat), (s.keeper.powered = true) ∧ (s.keeper.running = none) ∧ (c ∈ s.waitingBursts) ∧
  (s.flag KPR.KSTAT_VKIN_ON = true) ∧ (∀ b ∈ s.waitingBursts, c ≤ b) :=
  ⟨(State.reset.setB KPR.KSTAT_VKIN_ON true).set KPR.KQ_QUEUE 0x210, 4, by decide +kernel⟩

theorem witness_Bursts_4 : ∃ (s : State), (s.keeper.powered = true) ∧ (s.keeper.running = none) ∧ (s.waitingBursts = [6]) ∧
  (s.flag KPR.KSTAT_VKIN_ON = true) ∧ ((vget s.keeper.regions 2).okA = true) ∧ ((vget s.keeper.regions 2).okB = true) ∧
  (((vget s.keeper.regions 2).seqA - (vget s.keeper.regions 2).seqB).msb = true) :=
  ⟨((State.reset.setB KPR.KSTAT_VKIN_ON true).set KPR.KQ_QUEUE 64).modCopies 2 (fun _ => { seqA := 1, seqB := 2 }), by decide +kernel⟩

theorem witness_Bursts_5 : ∃ (s : State) (c : Nat), (s.keeper.powered = true) ∧ (s.keeper.running = none) ∧ (s.waitingBursts = [c]) ∧
  (s.flag KPR.KSTAT_VKIN_ON = false) ∧ (s.keeper.est < s.burstCost c + 20000 * s.get KPR.KRES_E_RES) ∧ (s.keeper.deferred.testBit c = false) :=
  ⟨brokeKeeper, 9, by decide +kernel⟩

theorem witness_Bursts_6 : ∃ (s : State) (c : Nat), (s.keeper.running = some c) ∧ (1 ≤ c) ∧ (c ≤ 9) :=
  ⟨State.reset.modKeeper (fun k => { k with running := some 9 }), 9, by decide +kernel⟩

theorem witness_Bursts_7 : ∃ (s : State) (c : Nat) (r : Nat), (s.keeper.running = some c) ∧ (1 ≤ c) ∧ (c ≤ 9) ∧ (s.keeper.writing = [r]) ∧ (r < 10) ∧
  ((vget s.keeper.regions r).okA = false) :=
  ⟨State.reset.modKeeper (fun k => { k with running := some 4, writing := [1] }), 4, 1, by decide +kernel⟩

theorem witness_Bursts_8 : ∃ (s : State) (c : Nat) (r : Nat), (s.keeper.running = some c) ∧ (1 ≤ c) ∧ (c ≤ 9) ∧ (s.keeper.writing = [r]) ∧ (r < 10) ∧
  ((vget s.keeper.regions r).okA = true) ∧ ((vget s.keeper.regions r).okB = false) :=
  ⟨(State.reset.modKeeper (fun k => { k with running := some 6, writing := [2] })).modCopies 2 RegionCopies.begun, 6, 2, by decide +kernel⟩

theorem witness_Bursts_9 : ∃ (s : State), (s.keeper.running = some 4) ∧ (s.keeper.rewriting = false) :=
  ⟨State.reset.modKeeper (fun k => { k with running := some 4 }), by decide +kernel⟩

theorem witness_Bursts_10 : ∃ (s : State) (d : Fin 4) (i : Fin 16), (s.keeper.powered = true) ∧ (s.keeper.running ≠ some 0) ∧
  (s.flag (CMP.CSTAT_CHK_ACT d i) = false) ∧ (s.flag (CMP.CCFG_WAKE_EN d i) = true) ∧ (s.flag (CMP.CSTAT_OUT d i) = true) ∧
  (s.power.standby = false) :=
  ⟨(State.reset.setB (CMP.CCFG_WAKE_EN 3 15) true).setB (CMP.CSTAT_OUT 3 15) true, 3, 15, by decide +kernel⟩

theorem witness_Bursts_11 : ∃ (s : State) (d : Fin 4) (i : Fin 16), (s.flag (CMP.CSTAT_CHK_ACT d i) = false) ∧
  (s.flag (CMP.CCFG_WAKE_EN d i) = false ∨ s.flag (CMP.CSTAT_OUT d i) = false) :=
  ⟨State.reset, 3, 15, by decide +kernel⟩

theorem witness_Bursts_12 : ∃ (s : State), (s.keeper.powered = true) ∧ (s.keeper.running ≠ some 0) ∧ (s.get KPR.WAKE_AT_WAKE_AT ≠ 0) ∧
  (s.get KPR.WAKE_AT_WAKE_AT = s.get RTC.RTC_SEC_SEC) :=
  ⟨(State.reset.set KPR.WAKE_AT_WAKE_AT 7).set RTC.RTC_SEC_SEC 7, by decide +kernel⟩

theorem witness_Bursts_13 : ∃ (s : State), (s.get KPR.WAKE_AT_WAKE_AT ≠ s.get RTC.RTC_SEC_SEC) :=
  ⟨State.reset.set RTC.RTC_SEC_SEC 7, by decide +kernel⟩

theorem witness_Bursts_14 : ∃ (s : State), (s.keeper.running = some 0) :=
  ⟨State.reset.modKeeper (fun k => { k with running := some 0, wakeOut := true }), by decide +kernel⟩

theorem witness_LifetimeRecord_1 : ∃ (s : State), (s.keeper.powered = true) :=
  ⟨State.reset, by decide +kernel⟩

theorem witness_LifetimeRecord_2 : ∃ (s : State) (temps : List Int), (s.keeper.powered = true) ∧ (s.power.good = true) ∧ (temps.length = 9) ∧
  (s.life.inc.temps = []) :=
  ⟨State.reset.modLife (fun l => { l with inc := { l.inc with temps := [] } }), [115000, 0, 0, 0, 0, 0, 0, -41000, 0], by decide +kernel⟩

theorem witness_LifetimeRecord_3 : ∃ (s : State), (s.power.good = true) ∧ (s.mainRuns = true) :=
  ⟨State.reset, by decide +kernel⟩

theorem witness_LifetimeRecord_4 : ∃ (s : State) (w : BitVec 32), (s.power.good = true) ∧
  (s.flag (ADC.ACFG_FWD_N (s.get LTN.DCLSRC_DIE) (s.get LTN.DCLSRC_CORE)) = true) ∧ (w.getLsbD 30 = true) ∧ (selDiff (getBits w 24 5) = false) ∧
  (s.life.inc.dcl = []) ∧ (s.getS LTN.DCL_GAIN_DCL_GAIN = 65536) ∧ (s.get LTN.DCL_BIN_DCL_BIN = 1) ∧ (s.mainRuns = true) :=
  ⟨((State.reset.setB (ADC.ACFG_FWD_N (State.reset.get LTN.DCLSRC_DIE) (State.reset.get LTN.DCLSRC_CORE)) true).set LTN.DCL_GAIN_DCL_GAIN 65536).set
    LTN.DCL_BIN_DCL_BIN 1, 0x4000FFFF, by decide +kernel⟩

theorem witness_LifetimeRecord_5 : ∃ (s : State), (s.mainRuns = true) ∧ (s.keeper.powered = true) ∧ (s.get RTC.RTC_SEC_SEC % 600 = 0) ∧
  (s.life.done8 = none) ∧ (s.life.done9 = none) ∧ (s.keeper.running = none) :=
  ⟨{ State.reset.set RTC.RTC_SEC_SEC 1200 with power := { State.reset.power with good := true, reset := false } }, by decide +kernel⟩

theorem witness_LifetimeRecord_6 : ∃ (s : State), (s.get RTC.RTC_SEC_SEC % 600 ≠ 0) :=
  ⟨State.reset.set RTC.RTC_SEC_SEC 7, by decide +kernel⟩

theorem witness_LifetimeRecord_7 : ∃ (s : State), (s.power.good = false) ∧ (s.keeper.powered = true) ∧ (s.get RTC.RTC_SEC_SEC % 600 = 0) ∧
  (s.keeper.running = none) :=
  ⟨{ State.reset with power := { State.reset.power with good := false } }, by decide +kernel⟩

theorem witness_LifetimeRecord_8 : ∃ (s : State) (i : LifeInc) (j : LifeInc), (s.life.done8 = some i) ∧ (s.life.done9 = some j) ∧
  (s.mainRuns = true) :=
  ⟨State.reset.modLife (fun l => { l with done8 := some {}, done9 := some {} }), {}, {}, by decide +kernel⟩

theorem witness_CheckUnits_1 : ∃ (s : State) (u : Fin 8), (s.flag (CRC.CSTAT_BUSY u) = false) ∧ (s.flag (CRC.CCFG_EN u) = true) ∧
  (crcSource (s.reg (CRC.CCFG u)) ≠ 1) ∧ (s.mainRuns = true) :=
  ⟨((State.reset.setB (CRC.CCFG_EN 7) true).set (CRC.CCFG_WIDTH 7) 16), 7, by decide +kernel⟩

theorem witness_CheckUnits_2 : ∃ (s : State) (u : Fin 8), (s.flag (CRC.CSTAT_BUSY u) = true ∨ s.flag (CRC.CCFG_EN u) = false) ∧ (s.mainRuns = true) :=
  ⟨State.reset, 7, by decide +kernel⟩

theorem witness_CheckUnits_3 : ∃ (s : State) (u : Fin 8), (s.flag (CRC.CSTAT_BUSY u) = false) ∧ (s.flag (CRC.CCFG_EN u) = true) ∧
  (crcSource (s.reg (CRC.CCFG u)) ≠ 1) ∧ (s.mainRuns = true) :=
  ⟨((State.reset.setB (CRC.CCFG_EN 7) true).set (CRC.CCFG_WIDTH 7) 16), 7, by decide +kernel⟩

theorem witness_CheckUnits_4 : ∃ (s : State) (u : Fin 8), (s.crcOpen u = true) ∧ (s.mainRuns = true) :=
  ⟨crcRunning 7 0x2003, 7, by decide +kernel⟩

theorem witness_CheckUnits_5 : ∃ (s : State) (u : Fin 8), (s.crcOpen u = true) ∧ (crcSource (s.crcUnit u).cfg = 0) ∧ (s.mainRuns = true) :=
  ⟨crcRunning 0 0x2001, 0, by decide +kernel⟩

theorem witness_CheckUnits_6 : ∃ (s : State) (u : Fin 8), (s.crcOpen u = true) ∧ (crcSource (s.crcUnit u).cfg = 0) ∧ (s.mainRuns = true) :=
  ⟨crcRunning 0 0x2011, 0, by decide +kernel⟩

theorem witness_CheckUnits_7 : ∃ (s : State) (u : Fin 8), (s.crcOpen u = true) ∧ (crcSource (s.crcUnit u).cfg = 0) ∧ (s.mainRuns = true) :=
  ⟨crcRunning 0 0x2011, 0, by decide +kernel⟩

theorem witness_CheckUnits_8 : ∃ (s : State) (u : Fin 8) (b : List (BitVec 8)), (b.length ≤ 1024) ∧ (s.crcOpen u = true) ∧
  (crcSource (s.crcUnit u).cfg = 0) ∧ (s.mainRuns = true) :=
  ⟨crcRunning 0 0x2001, 0, [0x31, 0x32, 0x33], by decide +kernel⟩

theorem witness_CheckUnits_9 : ∃ (s : State) (u : Fin 8), (s.flag (CRC.CSTAT_BUSY u) = false ∨ crcSource (s.crcUnit u).cfg = 0) ∧
  (s.mainRuns = true) :=
  ⟨State.reset, 7, by decide +kernel⟩

theorem witness_CheckUnits_10 : ∃ (s : State) (u : Fin 8), (s.crcOpen u = true) ∧ (crcSource (s.crcUnit u).cfg = 1) ∧ (s.mainRuns = true) :=
  ⟨crcRunning 3 0x2003, 3, by decide +kernel⟩

theorem witness_CheckUnits_11 : ∃ (s : State) (u : Fin 8), (s.crcOpen u = true) ∧ (crcSource (s.crcUnit u).cfg = 1) ∧
  (s.get (CRC.COUNT_COUNT u) ≤ (s.crcUnit u).len) ∧ ((s.crcUnit u).len < 2 ^ 32) ∧ (s.mainRuns = true) :=
  ⟨crcRunning 3 0x2003, 3, by decide +kernel⟩

theorem witness_CheckUnits_12 : ∃ (s : State) (u : Fin 8), (s.crcOpen u = true) ∧ (crcSource (s.crcUnit u).cfg = 1) ∧
  (s.get (CRC.COUNT_COUNT u) ≤ (s.crcUnit u).len) ∧ ((s.crcUnit u).len < 2 ^ 32) ∧ (∀ i : Nat, i < 8 →
  s.parityOk (((s.crcUnit u).base + s.get (CRC.COUNT_COUNT u) + i) / 4 * 4) = true) ∧ (s.mainRuns = true) :=
  ⟨crcRunning 3 0x2003, 3, by decide +kernel⟩

theorem witness_CheckUnits_13 : ∃ (s : State) (u : Fin 8), (s.flag (CRC.CSTAT_BUSY u) = true) ∧ ((s.crcUnit u).ended = true) ∧
  (s.itemPasses u = false) ∧ (s.mainRuns = true) :=
  ⟨(crcRunning 3 0x2003).modCrc 3 (fun c => { c with ended := true }), 3, by decide +kernel⟩

theorem witness_CheckUnits_14 : ∃ (s : State) (u : Fin 8), (s.itemPasses u = true) ∧ (s.mainRuns = true) :=
  ⟨{ State.reset with net := { State.reset.net with ports := Vector.replicate 3 { tx := some { bytes := [], crcs := 128 } } } }, 7, by decide +kernel⟩

theorem witness_Maintenance_1 : ∃ (s : State) (code : BitVec 4), (s.mainRuns = true) ∧ (code = 3 ∨ code = 8 ∨ 10 ≤ code) ∧ (s.mainRuns = true) :=
  ⟨State.reset, 10, by decide +kernel⟩

theorem witness_Maintenance_2 : ∃ (s : State) (unit : BitVec 8) (k : Nat), (s.mainRuns = true) ∧ (s.keeper.powered = true) ∧ (s.conflictWith ⟨7, 8,
  unit.toNat⟩ = none) ∧ (s.freeSlot = some k) ∧ (s.mainRuns = true) :=
  ⟨State.reset, 255, 0, by decide +kernel⟩

theorem witness_Maintenance_3 : ∃ (s : State) (unit : BitVec 8) (c : Nat), (s.mainRuns = true) ∧ (s.keeper.powered = true) ∧ (s.conflictWith ⟨7, 8,
  unit.toNat⟩ = some c) ∧ (s.mainRuns = true) :=
  ⟨inSlot 3 6 8 0 {}, 0, 6, by decide +kernel⟩

theorem witness_Maintenance_4 : ∃ (s : State) (k : Fin 16) (die : Nat) (unit : Nat), (s.slotKey k = some ⟨2, die, unit⟩) ∧ (s.mainRuns = true) :=
  ⟨inSlot 15 2 5 3 { units := [3] }, 15, 5, 3, by decide +kernel⟩

theorem witness_Maintenance_5 : ∃ (s : State) (k : Fin 16), (s.slotKey k = none) ∧ (s.mainRuns = true) :=
  ⟨State.reset, 15, by decide +kernel⟩

theorem witness_Maintenance_6 : ∃ (s : State) (k : Fin 16) (d : Fin 4) (i : Fin 16) (unit : Nat) (rest : List Nat) (out : Bool),
  (s.slotKey k = some ⟨0, d.val + 2, unit⟩) ∧ ((s.activity k).units = i.val :: rest) ∧ ((s.activity k).checks = [1]) ∧
  ((s.activity k).cancel = false) ∧ (s.checkExpected d i 1 = some (!out)) ∧ ((s.cmp d i).retired = false) ∧ (s.mainRuns = true) :=
  ⟨(inSlot 1 0 3 15 { units := [15], checks := [1] }).set (CMP.CTHR_THRESH 1 15) 2048, 1, 1, 15, 15, [], false, by decide +kernel⟩

theorem witness_Maintenance_7 : ∃ (s : State) (k : Fin 16) (d : Fin 4) (i : Fin 16) (unit : Nat) (rest : List Nat) (out : Bool),
  (s.slotKey k = some ⟨0, d.val + 2, unit⟩) ∧ ((s.activity k).units = i.val :: rest) ∧ ((s.activity k).checks = [1]) ∧
  ((s.activity k).cancel = false) ∧ (s.checkExpected d i 1 = some out) ∧ (s.mainRuns = true) :=
  ⟨((inSlot 1 0 3 15 { units := [15], checks := [1] }).set (CMP.CTHR_THRESH 1 15) 2048).modCmp 1 15 (fun c => { c with retired := true }), 1, 1, 15,
    15, [], true, by decide +kernel⟩

theorem witness_Maintenance_8 : ∃ (s : State) (k : Fin 16) (d : Fin 4) (j : Fin 7), (s.unitOf k 1 = some (d.val + 2, j.val)) ∧
  ((s.activity k).cancel = false) ∧ ((s.groupOf d j).isSome = true) ∧ (s.mainRuns = true) :=
  ⟨((inSlot 0 1 5 6 { units := [6] }).modGrp 3 0 (fun g => { g with ports := 0x40 })).setB (PWM.STAT_RUN 3 0) true, 0, 3, 6, by decide +kernel⟩

theorem witness_Maintenance_9 : ∃ (s : State) (k : Fin 16) (d : Fin 4) (j : Fin 7), (s.unitOf k 1 = some (d.val + 2, j.val)) ∧
  ((s.activity k).cancel = false) ∧ (s.mainRuns = true) :=
  ⟨inSlot 0 1 5 6 { units := [6] }, 0, 3, 6, by decide +kernel⟩

theorem witness_Maintenance_10 : ∃ (s : State) (k : Fin 16) (d : Fin 4) (c : Fin 4), (s.unitOf k 2 = some (d.val + 2, c.val)) ∧
  ((s.activity k).cancel = false) ∧ (s.mainRuns = true) :=
  ⟨inSlot 4 2 5 3 { units := [3] }, 4, 3, 3, by decide +kernel⟩

theorem witness_Maintenance_11 : ∃ (s : State) (k : Fin 16) (d : Fin 4) (c : Fin 4), (s.unitOf k 2 = some (d.val + 2, c.val)) ∧
  ((s.activity k).cancel = false) ∧ (s.mainRuns = true) :=
  ⟨inSlot 4 2 5 3 { units := [3] }, 4, 3, 3, by decide +kernel⟩

theorem witness_Maintenance_12 : ∃ (s : State) (k : Fin 16) (e : Die) (unit : Nat), (s.slotKey k = some ⟨4, e.code, unit⟩) ∧
  (s.flag (CLK.PLL_STAT_SEARCH_ACT e) = true) ∧ ((s.activity k).cancel = false) ∧ (s.mainRuns = true) :=
  ⟨(inSlot 4 4 6 0 {}).setB (CLK.PLL_STAT_SEARCH_ACT .n) true, 4, .n, 0, by decide +kernel⟩

theorem witness_Maintenance_13 : ∃ (s : State) (k : Fin 16) (e : Die) (unit : Nat), (s.slotKey k = some ⟨4, e.code, unit⟩) ∧
  (s.flag (CLK.PLL_STAT_SEARCH_ACT e) = true) ∧ ((s.activity k).cancel = false) ∧ (e.isDrive = false) ∧ (s.mainRuns = true) :=
  ⟨(inSlot 4 4 6 0 {}).setB (CLK.PLL_STAT_SEARCH_ACT .n) true, 4, .n, 0, by decide +kernel⟩

theorem witness_Maintenance_14 : ∃ (s : State) (k : Fin 16) (d : Fin 4) (unit : Nat), (s.slotKey k = some ⟨4, d.val + 2, unit⟩) ∧
  (s.flag (CLK.PLL_STAT_SEARCH_ACT (Die.drive d)) = true) ∧ ((s.activity k).cancel = false) ∧ ((s.hopMaster d).isSome = true) ∧ (s.mainRuns = true) :=
  ⟨((inSlot 4 4 5 0 { units := [0, 3] }).setB (CLK.PLL_STAT_SEARCH_ACT (Die.drive 3)) true).setB (PWM.STAT_RUN 3 0) true, 4, 3, 0, by decide +kernel⟩

theorem witness_Maintenance_15 : ∃ (s : State) (d : Fin 4) (band : Nat) (tj : Int) (slots : List Nat), ((s.hop d).newBand = some (band, tj, slots)) ∧
  (s.hopMaster d = none ∨ s.hopCarrier d ≠ (s.hop d).bandAt) ∧ (band < 64) ∧ (s.mainRuns = true) :=
  ⟨((State.reset.modHop 3 (fun h => { h with newBand := some (63, 40, [0]), bandAt := some (0, 4) })).setB (PWM.STAT_RUN 3 0) true).modGrp 3 0 (fun g
    => { g with carriers := 5 }), 3, 63, 40, [0], by decide +kernel⟩

theorem witness_Maintenance_16 : ∃ (s : State) (d : Fin 4), ((s.hopMaster d).isSome = true) ∧ (s.hopCarrier d = (s.hop d).bandAt) ∧
  (s.mainRuns = true) :=
  ⟨((State.reset.modHop 3 (fun h => { h with newBand := some (63, 40, [0]), bandAt := some (0, 5) })).setB (PWM.STAT_RUN 3 0) true).modGrp 3 0 (fun g
    => { g with carriers := 5 }), 3, by decide +kernel⟩

theorem witness_Maintenance_17 : ∃ (s : State) (k : Fin 16) (e : Die) (f : Die) (l : Nat) (q : Nat) (u : Nat), (s.unitOf k 5 = some (e.code, u)) ∧
  (s.slotKey k = some ⟨5, e.code, l⟩) ∧ (e.farEnd l = some (f, q)) ∧ ((s.activity k).cancel = false) ∧ ((s.activity k).units = [u]) ∧ (u < 4) ∧
  (s.mainRuns = true) :=
  ⟨inSlot 2 5 6 2 { units := [3] }, 2, .n, .d0, 2, 2, 3, by decide +kernel⟩

theorem witness_Maintenance_18 : ∃ (s : State) (k : Fin 16) (e : Die) (f : Die) (l : Nat) (q : Nat) (u : Nat), (s.unitOf k 5 = some (e.code, u)) ∧
  (s.slotKey k = some ⟨5, e.code, l⟩) ∧ (e.farEnd l = some (f, q)) ∧ ((s.activity k).cancel = false) ∧ ((s.activity k).passed = 0) ∧
  (s.mainRuns = true) :=
  ⟨inSlot 2 5 6 2 { units := [3] }, 2, .n, .d0, 2, 2, 3, by decide +kernel⟩

theorem witness_Maintenance_19 : ∃ (s : State) (k : Fin 16) (e : Die) (f : Die) (l : Nat) (q : Nat) (u : Nat) (v : Nat) (rest : List Nat),
  (s.slotKey k = some ⟨5, e.code, l⟩) ∧ (e.farEnd l = some (f, q)) ∧ ((s.activity k).cancel = false) ∧ ((s.activity k).units = u :: v :: rest) ∧
  (s.mainRuns = true) :=
  ⟨inSlot 2 5 6 2 { units := [0, 3] }, 2, .n, .d0, 2, 2, 0, 3, [], by decide +kernel⟩

theorem witness_Maintenance_20 : ∃ (s : State) (dv : Nat) (ms : Nat), (s.keeper.running = some 10) ∧ (40 ≤ dv ∨ 600000 ≤ ms) ∧ (0 < dv) ∧
  ((roundDiv ms dv).toNat ≤ 65535) :=
  ⟨State.reset.modKeeper (fun k => { k with running := some 10 }), 40, 36801, by decide +kernel⟩

theorem witness_Maintenance_21 : ∃  (dv : Nat) (ms : Nat), (dv < 40) ∧ (ms < 600000) :=
  ⟨39, 599999, by decide +kernel⟩

theorem witness_EveryStepKeepsTheForm : ∃ s t : State, s.canonical ∧ step s = .next t :=
  ⟨{ State.reset with pending := [.wakePulseEnd] }, _, by unfold State.canonical; decide +kernel, rfl⟩

theorem witness_ScanOfNothing : ∃ (u : Fin 8) (s : State), s.mainRuns = true ∧ s.flag (CRC.CSTAT_BUSY u) = false ∧ s.flag (CRC.CCFG_EN u) = true ∧
    crcSource (s.reg (CRC.CCFG u)) = 1 ∧ s.get (CRC.LEN_LEN u) = 0 :=
  ⟨7, (State.reset.setB (CRC.CCFG_EN 7) true).set (CRC.CCFG_SRC 7) 1, by decide +kernel⟩

theorem witness_CheckOfNothing_1 : ∃ (u : Fin 8) (s : State), s.mainRuns = true ∧ s.flag (CRC.CSTAT_BUSY u) = false ∧ s.flag (CRC.CCFG_EN u) = true ∧
    crcSource (s.reg (CRC.CCFG u)) ≠ 1 :=
  ⟨7, State.reset.setB (CRC.CCFG_EN 7) true, by decide +kernel⟩

theorem witness_CheckOfNothing_2 : ∃ (u : Fin 8) (s : State), s.mainRuns = true ∧ s.flag (CRC.CSTAT_BUSY u) = false ∧ s.flag (CRC.CCFG_EN u) = true ∧
    crcSource (s.reg (CRC.CCFG u)) = 1 ∧ s.get (CRC.LEN_LEN u) = 0 :=
  ⟨0, (State.reset.setB (CRC.CCFG_EN 0) true).set (CRC.CCFG_SRC 0) 1, by decide +kernel⟩

theorem witness_PowerGoodHysteresis_1 : ∃ s : State, s.keeper.powered = false :=
  ⟨State.reset.modKeeper (fun k => { k with powered := false }), by decide +kernel⟩

theorem witness_PowerGoodHysteresis_2 : ∃ (x : KeeperInputs) (vstq : BitVec 16) (rail : Nat) (s : State), s.keeper.powered = true ∧
    s.get KPR.KPG_V_PGL ≤ s.get KPR.KPG_V_PGH ∧
    rail = (if (if 3000 < x.vkin.toNat then true else if x.vkin.toNat < 2900 then false else s.flag KPR.KSTAT_VKIN_ON) then x.vkin.toNat else vstq.toNat) :=
  ⟨⟨2899, 0⟩, 2500, 2500, State.reset, by decide +kernel⟩

theorem witness_HoursCount : State.reset.keeper.powered = true := by decide +kernel
end

section
/-! SUPPORT and the obligation on completion (O2): commands that answer a next state in every state. -/

namespace Sys2Proof.Machine

/-! ### Commands that answer a next state -/

theorem whileRuns_running {s : State} (o : Out) (h : s.mainRuns = true) : s.whileRuns o = o := if_pos h

theorem whileRuns_inReset {s : State} (o : Out) (h : s.mainRuns = false) : s.whileRuns o = .next s := by
  unfold State.whileRuns
  rw [if_neg (by simp [h])]

/-- A command of the main domains whose effect is a next state answers one in reset too (R443). -/
theorem whileRuns_next_answers (s t : State) : ∃ u : State, s.whileRuns (.next t) = .next u := by
  unfold State.whileRuns
  split
  · exact ⟨t, rfl⟩
  · exact ⟨s, rfl⟩

/-- Every command that is no lane event answers a next state: those at work in reset too (keeper, supplies, starts) by their effect alone, the
others through `whileRuns`. -/
theorem exec_answers (c : Instr) (s : State) (hCode : ∀ e k lane cut, c ≠ .laneCodeError e k lane cut)
    (hTimeout : ∀ e k lane cut, c ≠ .laneTimeout e k lane cut) : ∃ t : State, exec c s = .next t := by
  cases c
  case laneCodeError e k lane cut => exact absurd rfl (hCode e k lane cut)
  case laneTimeout e k lane cut => exact absurd rfl (hTimeout e k lane cut)
  case cmpOutChange | rtcTrim | rtcXtalFail | mainDomainsGood | mainSupplyFall | resetNLow | testEnChange | start | commandDieRelease
      | commandDieRestartDone | bootTmoExpire | checkpointTimer | vkinChange | keeperPowerOn | keeperBrownOut | keeperEvaluation
      | leanVocMeasure | richMpptStep | harvesterIdleCheck | burstRequest | burstStart | burstComplete | wakeRequest | wakeAlarm
      | wakePulseEnd | rtcSecond | lifetimeMerge | parkedMerge | ma7End =>
    exact ⟨_, rfl⟩
  all_goals exact whileRuns_next_answers s _

/-- A lane event at an end of a link of the die answers a next state. -/
theorem laneFault_answers (s : State) (e : Die) (k lane : Nat) (flag : RF) (cut : Option (BitVec 72)) (h : (e.farEnd k).isSome) :
    ∃ t : State, s.laneFault e k lane flag cut = .next t := by
  obtain ⟨⟨f, q⟩, hf⟩ := Option.isSome_iff_exists.1 h
  unfold State.laneFault
  rw [hf]
  exact ⟨_, rfl⟩

/-- A lane event of a link that the die does not terminate stops (assumption 10). -/
theorem laneFault_noLink (s : State) (e : Die) (k lane : Nat) (flag : RF) (cut : Option (BitVec 72)) (h : e.farEnd k = none) :
    s.laneFault e k lane flag cut = .fault .noSuchUnit := by
  unfold State.laneFault
  rw [h]

/-- Both lane events are one lane fault, with different flags. -/
theorem laneFault_whileRuns (s : State) (e : Die) (k lane : Nat) (flag : RF) (cut : Option (BitVec 72)) :
    if (e.farEnd k).isSome ∨ s.mainRuns = false then ∃ t : State, s.whileRuns (s.laneFault e k lane flag cut) = .next t
    else s.whileRuns (s.laneFault e k lane flag cut) = .fault .noSuchUnit := by
  cases hr : s.mainRuns
  case false => simp [whileRuns_inReset _ hr]
  case true =>
    rw [whileRuns_running _ hr]
    cases hf : e.farEnd k
    case none => simpa using laneFault_noLink s e k lane flag cut hf
    case some => simpa using laneFault_answers s e k lane flag cut (by simp [hf])

/-- Settles O2: outside the lane events no arm of `exec` has an outcome but a next state; a lane event has one where the die has the link. -/
theorem everyCommandCompletes : Obligations.EveryCommandCompletes := by
  unfold Obligations.EveryCommandCompletes
  refine ⟨fun c s hc => exec_answers c s ?_ ?_, fun e k lane cut s => ?_⟩
  · rintro e k lane cut rfl
    exact hc
  · rintro e k lane cut rfl
    exact hc
  · have hCode := laneFault_whileRuns s e k lane (ELINK.STAT_LANE_CODE e k) cut
    have hTimeout := laneFault_whileRuns s e k lane (ELINK.STAT_LANE_TIMEOUT e k) cut
    split at hCode
    next h =>
      rw [if_pos h] at hTimeout ⊢
      exact ⟨hCode, hTimeout⟩
    next h =>
      rw [if_neg h] at hTimeout ⊢
      exact ⟨hCode, hTimeout⟩

end Sys2Proof.Machine
end

section
/-! SUPPORT. Fields that share no bit, folds that keep a property, and the drive dies and ports through outputs, trips and STO branches. -/

namespace Sys2Proof.Machine

/-! ### Fields that share no bit -/

/-- The field lies within its register. -/
def RF.fits (f : RF) : Bool := decide (f.lo + f.w ≤ 32)

/-- Two fields of registers that share no bit: they lie in other bits, or in another register.  The bits stand first, so that the check of
two fields of one register computes for any index of it. -/
def RF.apart (f g : RF) : Bool :=
  f.fits && g.fits && (decide (g.lo + g.w ≤ f.lo) || decide (f.lo + f.w ≤ g.lo) || decide (g.addr ≠ f.addr))

theorem RF.apart_iff (f g : RF) : f.apart g = true ↔
    f.lo + f.w ≤ 32 ∧ g.lo + g.w ≤ 32 ∧ (g.addr ≠ f.addr ∨ g.lo + g.w ≤ f.lo ∨ f.lo + f.w ≤ g.lo) := by
  simp only [RF.apart, RF.fits, Bool.and_eq_true, Bool.or_eq_true, decide_eq_true_eq]
  tauto

theorem RF.apart_of_addr_ne {f g : RF} (hf : f.fits = true) (hg : g.fits = true) (h : g.addr ≠ f.addr) : f.apart g = true :=
  (RF.apart_iff f g).2 ⟨of_decide_eq_true hf, of_decide_eq_true hg, .inl h⟩

theorem State.get_set_apart (s : State) {f g : RF} (x : Nat) (h : f.apart g = true) : (s.set f x).get g = s.get g := by
  obtain ⟨hf, hg, hd⟩ := (RF.apart_iff f g).1 h
  exact State.get_set_other s f g x hf hg hd

theorem State.get_setB_apart (s : State) {f g : RF} (b : Bool) (h : f.apart g = true) : (s.setB f b).get g = s.get g :=
  State.get_set_apart s _ h

theorem State.get_incSat_apart (s : State) {f g : RF} (h : f.apart g = true) : (s.incSat f).get g = s.get g :=
  State.get_set_apart s _ h

theorem State.get_setBit_apart (s : State) {f g : RF} (i : Nat) (b : Bool) (h : f.apart g = true) : (s.setBit f i b).get g = s.get g := by
  obtain ⟨hf, hg, hd⟩ := (RF.apart_iff f g).1 h
  exact State.get_setBit_other s f g i b hf hg hd

theorem State.flag_of_get {s t : State} {f : RF} (h : t.get f = s.get f) : t.flag f = s.flag f := by
  unfold State.flag
  rw [h]

theorem State.bit_of_get {s t : State} {f : RF} {i : Nat} (h : t.get f = s.get f) : t.bit f i = s.bit f i := by
  unfold State.bit
  rw [h]

/-! ### Folds -/

/-- A property that every pass keeps holds at the end. -/
theorem foldOver_preserves {P : State → Prop} (l : List Nat) (f : Nat → State → State) (s : State) (hs : P s)
    (h : ∀ i ∈ l, ∀ t, P t → P (f i t)) : P (foldOver l f s) := by
  unfold foldOver
  induction l generalizing s with
  | nil => exact hs
  | cons i l ih => exact ih (f i s) (h i List.mem_cons_self s hs) (fun j hj => h j (List.mem_cons_of_mem i hj))

/-- What pass `i` establishes for `i`, and the others keep, holds of every number at the end. -/
theorem foldOver_each {Q : Nat → State → Prop} (l : List Nat) (f : Nat → State → State) (s : State)
    (hnew : ∀ i ∈ l, ∀ t, Q i (f i t)) (hkeep : ∀ i ∈ l, ∀ j t, Q j t → Q j (f i t)) : ∀ j ∈ l, Q j (foldOver l f s) := by
  unfold foldOver
  induction l generalizing s with
  | nil => intro j hj; cases hj
  | cons i l ih =>
    intro j hj
    rcases List.mem_cons.1 hj with rfl | hj
    · exact foldOver_preserves (P := Q j) l f (f j s) (hnew j List.mem_cons_self s)
        (fun k hk t => hkeep k (List.mem_cons_of_mem j hk) j t)
    · exact ih (f i s) (fun k hk => hnew k (List.mem_cons_of_mem i hk)) (fun k hk => hkeep k (List.mem_cons_of_mem i hk)) j hj

/-- A part of each unit that a change of one unit leaves is the same in all units. -/
theorem vget_vmod_proj {α β : Type} [Inhabited α] {n : Nat} (p : α → β) (v : Vector α n) (i j : Nat) (f : α → α) (h : ∀ x, p (f x) = p x) :
    p (vget (vmod v i f) j) = p (vget v j) := by
  by_cases e : j = i
  · subst e
    by_cases hj : j < n
    · rw [vget_vmod_self v j f hj, h]
    · simp [vget, vmod, vset, hj]
  · rw [vget_vmod_ne v i j f e]

/-! ### Drive dies, but for their cuffs -/

/-- A drive die without the cuffs that output edges set (R146). -/
def DriveDie.uncuffed (x : DriveDie) : DriveDie := { x with cuffs := Vector.replicate 16 0, cuffNext := 0 }

/-- From `s` to `t` the drive dies are as they were, but for their cuffs. -/
def DrivesSame (s t : State) : Prop := ∀ e : Nat, (vget t.drives e).uncuffed = (vget s.drives e).uncuffed

theorem DrivesSame.of_eq {s t : State} (h : t.drives = s.drives) : DrivesSame s t := fun e => by rw [h]

theorem DrivesSame.trans {s t u : State} (h : DrivesSame s t) (h' : DrivesSame t u) : DrivesSame s u := fun e => (h' e).trans (h e)

theorem DrivesSame.halted {s t : State} (h : DrivesSame s t) (e : Nat) : (vget t.drives e).halted = (vget s.drives e).halted :=
  by
  simpa [DriveDie.uncuffed] using congrArg DriveDie.halted (h e)

theorem DrivesSame.clockStopped {s t : State} (h : DrivesSame s t) (e : Nat) :
    (vget t.drives e).clockStopped = (vget s.drives e).clockStopped := by
  simpa [DriveDie.uncuffed] using congrArg DriveDie.clockStopped (h e)

theorem DrivesSame.retired {s t : State} (h : DrivesSame s t) (e : Nat) : (vget t.drives e).retired = (vget s.drives e).retired :=
  by
  simpa [DriveDie.uncuffed] using congrArg DriveDie.retired (h e)

theorem State.setBit_drives (s : State) (f : RF) (i : Nat) (b : Bool) : (s.setBit f i b).drives = s.drives := by
  unfold State.setBit
  split
  · exact State.set_drives _ _ _
  · exact State.set_drives _ _ _

theorem State.modDrive_drivesSame (s : State) (d : Nat) (f : DriveDie → DriveDie) (h : ∀ x, (f x).uncuffed = x.uncuffed) :
    DrivesSame s (s.modDrive d f) := fun e => vget_vmod_proj DriveDie.uncuffed s.drives d e f h

theorem foldOver_drivesSame (l : List Nat) (f : Nat → State → State) (s : State) (h : ∀ i ∈ l, ∀ t, DrivesSame t (f i t)) :
    DrivesSame s (foldOver l f s) :=
  foldOver_preserves l f s (DrivesSame.of_eq rfl) (fun i hi t ht => ht.trans (h i hi t))

theorem State.outputEdge_drivesSame (s : State) (d j : Nat) (next : Bool) : DrivesSame s (s.outputEdge d j next) := by
  unfold State.outputEdge
  extract_lets l
  split
  · exact State.modDrive_drivesSame _ _ _ (fun _ => rfl)
  · exact State.modDrive_drivesSame _ _ _ (fun _ => rfl)

theorem State.outputOff_drivesSame (s : State) (d j : Nat) (high next : Bool) : DrivesSame s (s.outputOff d j high next) := by
  unfold State.outputOff
  refine DrivesSame.trans (DrivesSame.of_eq ?_) (State.outputEdge_drivesSame _ _ _ _)
  rw [State.modPort_drives, apply_ite State.drives, State.setB_drives, ite_self]

theorem State.turnOffIn_drivesSame (s : State) (d j : Nat) (high next : Bool) : DrivesSame s (s.turnOffIn d j high next) := by
  unfold State.turnOffIn
  extract_lets p
  generalize (!if high = true then p.gh else p.gl) = off
  cases off
  case true => exact DrivesSame.of_eq rfl
  case false =>
    rw [if_neg (by decide)]
    split
    · exact DrivesSame.of_eq (State.modPort_drives _ _ _ _)
    · exact State.outputOff_drivesSame _ _ _ _ _

theorem State.turnOn_drivesSame (s : State) (d j : Nat) (high : Bool) : DrivesSame s (s.turnOn d j high) := by
  unfold State.turnOn
  extract_lets p c t1 t2
  generalize (if high = true then p.gh else p.gl) = on
  split
  case isTrue => exact DrivesSame.of_eq rfl
  case isFalse =>
    cases on
    case true => exact DrivesSame.of_eq rfl
    case false =>
      rw [if_neg (by decide)]
      have h1 : t1.drives = s.drives := by unfold t1; rw [apply_ite State.drives, State.setB_drives, ite_self]
      have h2 : t2.drives = s.drives := by unfold t2; rw [apply_ite State.drives, State.setBit_drives, ite_self, h1]
      exact DrivesSame.trans (DrivesSame.of_eq (by rw [State.modPort_drives, h2])) (State.outputEdge_drivesSame _ _ _ _)

theorem State.enterSafe_drivesSame (s : State) (d j : Nat) (p : PortSafe) : DrivesSame s (s.enterSafe d j p) := by
  unfold State.enterSafe
  extract_lets s1 s2
  have h2 : DrivesSame s s2 := DrivesSame.of_eq (by unfold s2; rw [apply_ite State.drives, State.setB_drives, ite_self]; exact State.modPort_drives _ _ _ _)
  cases p
  case none => exact h2
  case opened => exact h2.trans ((State.turnOffIn_drivesSame _ _ _ _ _).trans (State.turnOffIn_drivesSame _ _ _ _ _))
  case ascLow => exact (h2.trans (State.turnOffIn_drivesSame _ _ _ _ _)).trans (DrivesSame.of_eq (State.modPort_drives _ _ _ _))
  case ascHigh => exact (h2.trans (State.turnOffIn_drivesSame _ _ _ _ _)).trans (DrivesSame.of_eq (State.modPort_drives _ _ _ _))
  case chopper => exact h2
  case auxLow => exact h2.trans ((State.turnOffIn_drivesSame _ _ _ _ _).trans (State.turnOn_drivesSame _ _ _ _))

theorem State.refreshCfgErr_drives (s : State) (d k : Nat) : (s.refreshCfgErr d k).drives = s.drives := by
  unfold State.refreshCfgErr
  extract_lets now was t
  rw [apply_ite State.drives, State.setB_drives, ite_self]
  exact State.modTg_drives _ _ _ _

theorem State.refreshAsc_drives (s : State) (d k : Nat) : (s.refreshAsc d k).drives = s.drives := by
  unfold State.refreshAsc
  rw [State.setB_drives]

theorem State.recheckSafe_drivesSame (s : State) (d k act : Nat) : DrivesSame s (s.recheckSafe d k act) := by
  unfold State.recheckSafe
  refine (foldOver_drivesSame _ _ _ fun j _ t => ?_).trans (DrivesSame.of_eq (State.refreshAsc_drives _ _ _))
  extract_lets now
  split
  · exact DrivesSame.of_eq rfl
  · exact State.enterSafe_drivesSame _ _ _ _

theorem State.setReg_refreshCfgErr_drivesSame (s : State) (d k a : Nat) (w : Word) : DrivesSame s ((s.setReg a w).refreshCfgErr d k) :=
  DrivesSame.of_eq (by rw [State.refreshCfgErr_drives, State.setReg_drives])

theorem State.refreshGroup_drivesSame (s : State) (d k : Nat) : DrivesSame s (s.refreshGroup d k) := by
  unfold State.refreshGroup
  extract_lets act s1
  have h1 : DrivesSame s s1 := State.setReg_refreshCfgErr_drivesSame _ _ _ _ _
  clear_value s1
  split
  · exact h1.trans (State.recheckSafe_drivesSame _ _ _ _)
  · exact h1

theorem State.refreshTrips_drivesSame (s : State) (d : Nat) : DrivesSame s (s.refreshTrips d) := by
  unfold State.refreshTrips
  split
  · exact DrivesSame.of_eq rfl
  · exact (State.refreshGroup_drivesSame _ _ _).trans (State.refreshGroup_drivesSame _ _ _)

theorem State.thaw_drivesSame (s : State) (d : Nat) : DrivesSame s (s.thaw d) := by
  unfold State.thaw
  split
  case isTrue => exact DrivesSame.of_eq rfl
  case isFalse =>
    refine DrivesSame.trans (foldOver_drivesSame _ _ _ fun j _ t => ?_) (State.refreshTrips_drivesSame _ _)
    extract_lets due t1 t2 t3
    have h1 : DrivesSame t t1 := DrivesSame.of_eq (State.modPort_drives _ _ _ _)
    have h2 : DrivesSame t t2 := by
      unfold t2
      split
      · exact h1.trans (State.turnOffIn_drivesSame _ _ _ _ _)
      · exact h1
    have h3 : DrivesSame t t3 := by
      unfold t3
      split
      · exact h2.trans (State.turnOffIn_drivesSame _ _ _ _ _)
      · exact h2
    split
    · exact h3.trans (State.turnOn_drivesSame _ _ _ _)
    · exact h3

theorem State.setBranchAck_drives (s : State) (d : Nat) (level : Bool) : (s.setBranchAck d level).drives = s.drives := by
  unfold State.setBranchAck
  rw [apply_ite State.drives, State.setBit_drives, ite_self]

/-! ### An asserted STO branch -/

/-- Port `j` of the die under a branch that is asserted: off by a path that needs no clock, in OPEN (R121). -/
def State.portDead (t : State) (d j : Nat) : State :=
  let p := t.port d j
  let t := if p.gh then t.outputOff d j true true else t
  let t := if p.gl then t.outputOff d j false true else t
  let t := if j = 6 then t.setB (APB.APSTAT_REF_ACT d) false else t
  t.modPort d j (fun p => { p with pendOn := none, ascWait := none, dueOff := 0, safe := .opened, held := false, refresh := 0 })

theorem State.branchAssert_eq (s : State) (d : Nat) : s.branchAssert d =
    (foldOver (List.range 7) (fun j t => t.portDead d j) ((s.setBit SFN.SFSTAT_NET d true).setBranchAck d true)).refreshTrips d := rfl

theorem State.outputOff_cell (s : State) (d j a : Nat) (high next : Bool) (h : a ∉ outRegs d) :
    (s.outputOff d j high next).cell a = s.cell a := by
  unfold State.outputOff
  rw [State.outputEdge_cell, State.modPort_cell]
  exact State.chopOn_cell _ _ _ _ _ _ h

theorem State.portDead_cell (t : State) (d j a : Nat) (h : a ∉ tripRegs d) : (t.portDead d j).cell a = t.cell a := by
  have h1 : a ≠ (APB.APSTAT_REF_ACT d).addr := fun e => h (by simp [tripRegs, e, APB.APSTAT_REF_ACT])
  have h2 : a ∉ outRegs d := fun e => h (List.mem_append_right _ e)
  unfold State.portDead
  extract_lets p t1 t2 t3
  have e1 : t1.cell a = t.cell a := by
    unfold t1
    split
    · exact State.outputOff_cell _ _ _ _ _ _ h2
    · rfl
  have e2 : t2.cell a = t.cell a := by
    unfold t2
    split
    · rw [State.outputOff_cell _ _ _ _ _ _ h2, e1]
    · exact e1
  rw [State.modPort_cell]
  unfold t3
  split
  · rw [State.cell_setB_ne _ _ _ _ h1, e2]
  · exact e2

theorem State.portDead_drivesSame (t : State) (d j : Nat) : DrivesSame t (t.portDead d j) := by
  unfold State.portDead
  extract_lets p t1 t2 t3
  have h1 : DrivesSame t t1 := by
    unfold t1
    split
    · exact State.outputOff_drivesSame _ _ _ _ _
    · exact DrivesSame.of_eq rfl
  have h2 : DrivesSame t t2 := by
    unfold t2
    split
    · exact h1.trans (State.outputOff_drivesSame _ _ _ _ _)
    · exact h1
  exact h2.trans (DrivesSame.of_eq (by rw [State.modPort_drives]; unfold t3; rw [apply_ite State.drives, State.setB_drives, ite_self]))

theorem State.branchAssert_drivesSame (s : State) (d : Nat) : DrivesSame s (s.branchAssert d) := by
  rw [State.branchAssert_eq]
  have h0 : DrivesSame s ((s.setBit SFN.SFSTAT_NET d true).setBranchAck d true) := DrivesSame.of_eq (by
    rw [State.setBranchAck_drives, State.setBit_drives])
  exact h0.trans ((foldOver_drivesSame _ _ _ fun j _ t => State.portDead_drivesSame t d j).trans (State.refreshTrips_drivesSame _ _))

end Sys2Proof.Machine
end

section
/-! SUPPORT. Outputs under an asserted STO branch, and the registers of S that the halt guard writes. -/

namespace Sys2Proof.Machine

/-! ### Both outputs of a port, off -/

/-- Both outputs of port `j` of the die are off. -/
def State.portOff (s : State) (d j : Nat) : Prop := (s.port d j).gh = false ∧ (s.port d j).gl = false

theorem State.portOff_of_ports {s t : State} {d j : Nat} (h : t.ports = s.ports) (hs : s.portOff d j) : t.portOff d j := by
  unfold State.portOff State.port
  rw [h]
  exact hs

/-- A change of a port that turns nothing on leaves off what is off. -/
theorem State.modPort_portOff {s : State} {d j : Nat} (d' j' : Nat) (f : Port → Port) (hs : s.portOff d j)
    (hh : ∀ p, p.gh = false → (f p).gh = false) (hl : ∀ p, p.gl = false → (f p).gl = false) : (s.modPort d' j' f).portOff d j := by
  obtain ⟨h1, h2⟩ := hs
  unfold State.portOff State.port State.modPort at *
  dsimp only
  by_cases e : 7 * d + j = 7 * d' + j'
  · rw [e] at h1 h2 ⊢
    by_cases hb : 7 * d' + j' < 28
    · rw [vget_vmod_self _ _ _ hb]
      exact ⟨hh _ h1, hl _ h2⟩
    · have hv : vmod s.ports (7 * d' + j') f = s.ports := by
        unfold vmod vset
        exact Vector.setIfInBounds_eq_of_size_le (by omega)
      rw [hv]
      exact ⟨h1, h2⟩
  · rw [vget_vmod_ne _ _ _ _ e]
    exact ⟨h1, h2⟩

theorem State.outputEdge_ports (s : State) (d j : Nat) (next : Bool) : (s.outputEdge d j next).ports = s.ports := by
  unfold State.outputEdge
  extract_lets l
  split
  · exact State.modDrive_ports _ _ _
  · exact State.modDrive_ports _ _ _

/-- What turning an output off does to the ports. -/
theorem State.outputOff_ports (s : State) (d j : Nat) (high next : Bool) : (s.outputOff d j high next).ports =
    vmod s.ports (7 * d + j) (fun p => if high then { p with gh := false, sinceH := 0 } else { p with gl := false, sinceL := 0 }) := by
  unfold State.outputOff
  extract_lets t
  have ht : t.ports = s.ports := by
    unfold t
    rw [apply_ite State.ports, State.setB_ports, ite_self]
  rw [State.outputEdge_ports, State.modPort_ports, ht]

/-- An output that goes off: it is off, and the other output of the port stays as it is. -/
theorem State.outputOff_port_self (s : State) (d j : Nat) (high next : Bool) (h : 7 * d + j < 28) :
    (s.outputOff d j high next).port d j =
      (if high then { s.port d j with gh := false, sinceH := 0 } else { s.port d j with gl := false, sinceL := 0 }) := by
  unfold State.port
  rw [State.outputOff_ports, vget_vmod_self _ _ _ h]

theorem State.outputOff_portOff {s : State} {d j : Nat} (d' j' : Nat) (high next : Bool) (hs : s.portOff d j) :
    (s.outputOff d' j' high next).portOff d j := by
  refine State.portOff_of_ports (s := s.modPort d' j' (fun p => if high then { p with gh := false, sinceH := 0 }
    else { p with gl := false, sinceL := 0 })) ?_ (State.modPort_portOff _ _ _ hs ?_ ?_)
  · rw [State.outputOff_ports, State.modPort_ports]
  · intro p hp
    cases high
    · exact hp
    · rfl
  · intro p hp
    cases high
    · rfl
    · exact hp

theorem State.turnOffIn_portOff {s : State} {d j : Nat} (d' j' : Nat) (high next : Bool) (hs : s.portOff d j) :
    (s.turnOffIn d' j' high next).portOff d j := by
  unfold State.turnOffIn
  extract_lets p
  generalize (!if high = true then p.gh else p.gl) = off
  cases off
  case true => exact hs
  case false =>
    rw [if_neg (by decide)]
    split
    · exact State.modPort_portOff _ _ _ hs (fun _ hp => hp) (fun _ hp => hp)
    · exact State.outputOff_portOff _ _ _ _ hs

/-- Under an asserted branch nothing is turned on (R121). -/
theorem State.turnOn_of_stoBranch (s : State) (d j : Nat) (high : Bool) (h : s.stoBranch d = true) : s.turnOn d j high = s := by
  unfold State.turnOn
  extract_lets p c t1 t2
  rw [if_pos (by rw [h, Bool.or_true])]

/-- The branch of the die is asserted, and port `j` of it is off. -/
def State.deadPort (d j : Nat) (s : State) : Prop := s.stoBranch d = true ∧ s.portOff d j

theorem State.stoBranch_of_cell {s t : State} {d : Nat} (h : t.cell SFN.SFSTAT = s.cell SFN.SFSTAT) : t.stoBranch d = s.stoBranch d :=
  State.bit_of_cell (f := SFN.SFSTAT_NET) h

theorem State.deadPort_of_eq {s t : State} {d j : Nat} (hc : t.cell SFN.SFSTAT = s.cell SFN.SFSTAT) (hp : t.ports = s.ports)
    (h : s.deadPort d j) : t.deadPort d j :=
  ⟨(State.stoBranch_of_cell hc).trans h.1, State.portOff_of_ports hp h.2⟩

/-- The registers of a drive die that outputs and trip groups write lie in its own window, below that of N. -/
theorem tripRegs_lt {d a : Nat} (hd : d < 4) (h : a ∈ tripRegs d) : a < 0x44000000 := by
  simp only [tripRegs, outRegs, List.mem_append, List.mem_cons, List.mem_map, List.mem_range, List.not_mem_nil, or_false, TRIP.SRCACT,
    TRIP.TGSTAT, APB.APSTAT, CYC.RFSTAT, PORT.CHOP_STAT] at h
  rcases h with (rfl | rfl | rfl | rfl | rfl) | rfl | ⟨j, hj, rfl⟩ <;> omega

theorem notMem_tripRegs {d a : Nat} (hd : d < 4) (h : 0x44000000 ≤ a) : a ∉ tripRegs d :=
  fun ha => absurd (tripRegs_lt hd ha) (by omega)

theorem notMem_outRegs {d a : Nat} (hd : d < 4) (h : 0x44000000 ≤ a) : a ∉ outRegs d :=
  fun ha => notMem_tripRegs hd h (List.mem_append_right _ ha)

theorem State.enterSafe_deadPort {s : State} {d j : Nat} (j' : Nat) (p : PortSafe) (hd : d < 4) (h : s.deadPort d j) :
    (s.enterSafe d j' p).deadPort d j := by
  obtain ⟨hb, ho⟩ := h
  refine ⟨(State.stoBranch_of_cell (State.enterSafe_cell s d j' _ p (notMem_tripRegs hd (by decide)))).trans hb, ?_⟩
  unfold State.enterSafe
  extract_lets s1 s2
  have h1 : s1.portOff d j := State.modPort_portOff _ _ _ ho (fun _ hp => hp) (fun _ hp => hp)
  have h2 : s2.portOff d j := State.portOff_of_ports (by unfold s2; rw [apply_ite State.ports, State.setB_ports, ite_self]) h1
  have hs2 : s2.cell SFN.SFSTAT = s.cell SFN.SFSTAT := by
    have hr : SFN.SFSTAT ≠ (APB.APSTAT_REF_ACT d).addr := by
      simp only [SFN.SFSTAT, APB.APSTAT_REF_ACT, APB.APSTAT]
      omega
    unfold s2
    rw [apply_ite (fun x : State => x.cell SFN.SFSTAT), State.cell_setB_ne _ _ _ _ hr, ite_self]
    exact State.modPort_cell _ _ _ _ _
  cases p
  case none => exact h2
  case chopper => exact h2
  case opened => exact State.turnOffIn_portOff _ _ _ _ (State.turnOffIn_portOff _ _ _ _ h2)
  case ascLow => exact State.modPort_portOff _ _ _ (State.turnOffIn_portOff _ _ _ _ h2) (fun _ hp => hp) (fun _ hp => hp)
  case ascHigh => exact State.modPort_portOff _ _ _ (State.turnOffIn_portOff _ _ _ _ h2) (fun _ hp => hp) (fun _ hp => hp)
  case auxLow =>
    dsimp only
    rw [State.turnOn_of_stoBranch _ _ _ _ ((State.stoBranch_of_cell ((State.turnOffIn_cell _ _ _ _ _ _
      (notMem_outRegs hd (by decide))).trans hs2)).trans hb)]
    exact State.turnOffIn_portOff _ _ _ _ h2

theorem State.setReg_refreshCfgErr_ports (s : State) (d k a : Nat) (w : Word) : ((s.setReg a w).refreshCfgErr d k).ports = s.ports := by
  unfold State.refreshCfgErr
  extract_lets now was t
  rw [apply_ite State.ports, State.setB_ports, ite_self]
  unfold t
  rw [State.modTg_ports, State.setReg_ports]

theorem State.setReg_refreshCfgErr_cell (s : State) (d k a b : Nat) (w : Word) (ha : b ≠ a) (hb : b ≠ TRIP.TGSTAT d k) :
    ((s.setReg a w).refreshCfgErr d k).cell b = s.cell b := by
  unfold State.refreshCfgErr
  extract_lets now was t
  rw [apply_ite (fun x : State => x.cell b), State.cell_setB_ne _ _ _ _ hb, ite_self]
  unfold t
  rw [State.modTg_cell, State.cell_setReg_ne _ _ _ _ ha]

theorem State.refreshGroup_deadPort {s : State} {d j : Nat} (k : Nat) (hd : d < 4) (h : s.deadPort d j) :
    (s.refreshGroup d k).deadPort d j := by
  have hr : SFN.SFSTAT ≠ TRIP.SRCACT d k ∧ SFN.SFSTAT ≠ TRIP.TGSTAT d k := by
    simp only [SFN.SFSTAT, TRIP.SRCACT, TRIP.TGSTAT]
    omega
  unfold State.refreshGroup
  extract_lets act s1
  have h1 : s1.deadPort d j := State.deadPort_of_eq (State.setReg_refreshCfgErr_cell _ _ _ _ _ _ hr.1 hr.2)
    (State.setReg_refreshCfgErr_ports _ _ _ _ _) h
  clear_value s1
  split
  case isFalse => exact h1
  case isTrue =>
    unfold State.recheckSafe
    have hf : (foldOver (s1.tgPorts d k) (fun i t => if t.safeNow d k i act = (t.port d i).safe then t
        else t.enterSafe d i (t.safeNow d k i act)) s1).deadPort d j :=
      foldOver_preserves _ _ _ h1 (fun i _ t ht => by
        split
        · exact ht
        · exact State.enterSafe_deadPort _ _ hd ht)
    refine State.deadPort_of_eq (State.cell_setB_ne _ _ _ _ hr.2) ?_ hf
    unfold State.refreshAsc
    rw [State.setB_ports]

theorem State.refreshTrips_deadPort {s : State} {d j : Nat} (hd : d < 4) (h : s.deadPort d j) : (s.refreshTrips d).deadPort d j := by
  unfold State.refreshTrips
  split
  · exact h
  · exact State.refreshGroup_deadPort 1 hd (State.refreshGroup_deadPort 0 hd h)

theorem State.portDead_portOff_self (t : State) (d j : Nat) (h : 7 * d + j < 28) : (t.portDead d j).portOff d j := by
  unfold State.portDead
  extract_lets p t1 t2 t3
  have h1 : (t1.port d j).gh = false ∧ (t1.port d j).gl = p.gl := by
    unfold t1
    split
    · rw [State.outputOff_port_self _ _ _ _ _ h]
      exact ⟨rfl, rfl⟩
    next hp => exact ⟨by simpa using hp, rfl⟩
  have h2 : t2.portOff d j := by
    unfold t2
    split
    · unfold State.portOff
      rw [State.outputOff_port_self _ _ _ _ _ h]
      exact ⟨h1.1, rfl⟩
    next hp => exact ⟨h1.1, h1.2.trans (by simpa using hp)⟩
  have h3 : t3.portOff d j := State.portOff_of_ports (by unfold t3; rw [apply_ite State.ports, State.setB_ports, ite_self]) h2
  exact State.modPort_portOff _ _ _ h3 (fun _ hp => hp) (fun _ hp => hp)

theorem State.portDead_portOff {t : State} {d j : Nat} (i : Nat) (h : t.portOff d j) : (t.portDead d i).portOff d j := by
  unfold State.portDead
  extract_lets p t1 t2 t3
  have h1 : t1.portOff d j := by
    unfold t1
    split
    · exact State.outputOff_portOff _ _ _ _ h
    · exact h
  have h2 : t2.portOff d j := by
    unfold t2
    split
    · exact State.outputOff_portOff _ _ _ _ h1
    · exact h1
  have h3 : t3.portOff d j := State.portOff_of_ports (by unfold t3; rw [apply_ite State.ports, State.setB_ports, ite_self]) h2
  exact State.modPort_portOff _ _ _ h3 (fun _ hp => hp) (fun _ hp => hp)

/-! ### Registers through a branch and the halt guard -/

theorem State.setBranchAck_get (s : State) (d : Nat) (level : Bool) {g : RF} (hg : HGRD.HGSTAT_ACK.apart g = true) :
    (s.setBranchAck d level).get g = s.get g := by
  unfold State.setBranchAck
  split
  · rfl
  · exact State.get_setBit_apart _ _ _ hg

/-- The fields that an asserted branch leaves: all but NET and ACK of S and those of the die's outputs and trip groups. -/
theorem State.branchAssert_get_after (s : State) (d : Nat) {g : RF} (hAck : HGRD.HGSTAT_ACK.apart g = true) (hg : g.addr ∉ tripRegs d) :
    (s.branchAssert d).get g = (s.setBit SFN.SFSTAT_NET d true).get g := by
  rw [State.branchAssert_eq, State.get_of_cell (State.refreshTrips_cell _ _ _ hg),
    State.get_of_cell (foldOver_cell _ _ _ _ fun j _ t => State.portDead_cell t d j _ hg), State.setBranchAck_get _ _ _ hAck]

theorem State.branchAssert_get (s : State) (d : Nat) {g : RF} (hNet : SFN.SFSTAT_NET.apart g = true)
    (hAck : HGRD.HGSTAT_ACK.apart g = true) (hg : g.addr ∉ tripRegs d) : (s.branchAssert d).get g = s.get g := by
  rw [State.branchAssert_get_after s d hAck hg, State.get_setBit_apart _ _ _ hNet]

/-- R121: the branch shows asserted, whatever the trip groups then do. -/
theorem State.branchAssert_stoBranch (s : State) (d : Nat) (hd : d < 4) : (s.branchAssert d).stoBranch d = true := by
  have h : (s.branchAssert d).bit SFN.SFSTAT_NET d = (s.setBit SFN.SFSTAT_NET d true).bit SFN.SFSTAT_NET d :=
    State.bit_of_get (State.branchAssert_get_after s d rfl (notMem_tripRegs hd (by decide)))
  exact h.trans (State.bit_setBit_self _ _ _ _ (by decide) hd)

/-- R121: every output of the die is off. -/
theorem State.branchAssert_portOff (s : State) (d j : Nat) (hd : d < 4) (hj : j < 7) : (s.branchAssert d).portOff d j := by
  rw [State.branchAssert_eq]
  have hsto : ((s.setBit SFN.SFSTAT_NET d true).setBranchAck d true).stoBranch d = true :=
    (State.bit_of_get (State.setBranchAck_get _ _ _ rfl)).trans (State.bit_setBit_self _ _ _ _ (by decide) hd)
  refine (State.refreshTrips_deadPort hd ⟨?_, ?_⟩).2
  · exact (State.stoBranch_of_cell (foldOver_cell _ _ _ _ fun i _ t =>
      State.portDead_cell t d i _ (notMem_tripRegs hd (by decide)))).trans hsto
  · refine foldOver_each (Q := fun i t => t.portOff d i) _ _ _ (fun i hi t => ?_) (fun i _ k t ht => ?_) j (List.mem_range.2 hj)
    · exact State.portDead_portOff_self t d i (by have := List.mem_range.1 hi; omega)
    · exact State.portDead_portOff i ht

end Sys2Proof.Machine
end

section
/-! SUPPORT. The halt guard, and the obligation on halts, STO branches and service (O12). -/

namespace Sys2Proof.Machine

/-! ### Commands that complete -/

theorem completes_next {t : State} {P : State → Prop} (h : P t) : Completes (.next t) P := ⟨t, rfl, h⟩

/-- A command of the main domains completes by its effect while they run. -/
theorem completes_whileRuns {s : State} {o : Out} {P : State → Prop} (hr : s.mainRuns = true) (h : Completes o P) :
    Completes (s.whileRuns o) P := by
  rw [whileRuns_running o hr]
  exact h

/-! ### The halt guard -/

theorem elapsed_ne_hgstat (d : Nat) : HGRD.HGSTAT ≠ HGRD.ELAPSED d := by
  simp only [HGRD.HGSTAT, HGRD.ELAPSED]
  omega

/-- The counter of the halt guard for a die. -/
def hgCount (d : Nat) : RF :=
  match d with
  | 0 => HGRD.HGCNT_HG_CNT0 | 1 => HGRD.HGCNT_HG_CNT1 | 2 => HGRD.HGCNT_HG_CNT2 | _ => HGRD.HGCNT_HG_CNT3

theorem hgCount_addr (d : Nat) : (hgCount d).addr = HGRD.HGCNT := by
  unfold hgCount
  split <;> rfl

/-- The registers of the halt guard that its assertion writes before the branch. -/
def State.guardShown (s : State) (d : Nat) : State :=
  (((((s.setBit HGRD.HGSTAT_ASSERT d true).setBit HGRD.HGSTAT_TIMING d false).set (HGRD.ELAPSED_ELAPSEDd d) 0).setBit SFN.SFSTAT_HG d
    true).modDrive d (fun x => { x with released := 0 })).incSat (hgCount d)

theorem State.guardAssert_eq (s : State) (d : Nat) : s.guardAssert d = (s.guardShown d).branchAssert d := rfl

/-- A field of HGSTAT outside ASSERT's and TIMING's bits, or of another register that the guard does not write. -/
theorem State.guardShown_get_after (s : State) (d : Nat) {g : RF} (hTim : HGRD.HGSTAT_TIMING.apart g = true) (hg : g.addr = HGRD.HGSTAT) :
    (s.guardShown d).get g = (s.setBit HGRD.HGSTAT_ASSERT d true).get g := by
  unfold State.guardShown State.incSat State.addSat
  have hc : g.addr ≠ (hgCount d).addr := by rw [hgCount_addr, hg]; decide
  have hf : g.addr ≠ SFN.SFSTAT := by rw [hg]; decide
  have he : g.addr ≠ (HGRD.ELAPSED_ELAPSEDd d).addr := by rw [hg]; exact elapsed_ne_hgstat d
  rw [State.get_of_cell (State.cell_set_ne _ _ _ _ hc), State.get_of_cell (State.cell_of_regs (State.modDrive_regs _ _ _) _),
    State.get_of_cell (State.cell_setBit_ne _ _ _ _ _ hf), State.get_of_cell (State.cell_set_ne _ _ _ _ he),
    State.get_setBit_apart _ _ _ hTim]

theorem State.guardAssert_get_after (s : State) (d : Nat) (hd : d < 4) {g : RF} (hTim : HGRD.HGSTAT_TIMING.apart g = true)
    (hAck : HGRD.HGSTAT_ACK.apart g = true) (hNet : SFN.SFSTAT_NET.apart g = true) (hg : g.addr = HGRD.HGSTAT) :
    (s.guardAssert d).get g = (s.setBit HGRD.HGSTAT_ASSERT d true).get g := by
  rw [State.guardAssert_eq, State.branchAssert_get _ d hNet hAck (notMem_tripRegs hd (by rw [hg]; decide)),
    State.guardShown_get_after s d hTim hg]

/-- R120: the guard shows its assertion. -/
theorem State.guardAssert_assert (s : State) (d : Nat) (hd : d < 4) : (s.guardAssert d).bit HGRD.HGSTAT_ASSERT d = true :=
  (State.bit_of_get (State.guardAssert_get_after s d hd rfl rfl rfl rfl)).trans (State.bit_setBit_self _ _ _ _ (by decide) hd)

/-- The halt that the guard was told of stays shown. -/
theorem State.guardAssert_halt (s : State) (d : Nat) (hd : d < 4) : (s.guardAssert d).get HGRD.HGSTAT_HALT = s.get HGRD.HGSTAT_HALT :=
  (State.guardAssert_get_after s d hd rfl rfl rfl rfl).trans (State.get_setBit_apart _ _ _ rfl)

theorem State.guardAssert_stoBranch (s : State) (d : Nat) (hd : d < 4) : (s.guardAssert d).stoBranch d = true := by
  rw [State.guardAssert_eq]
  exact State.branchAssert_stoBranch _ d hd

/-- The guard's assertion begins the count of releases anew, and leaves the rest of the die's state. -/
theorem State.guardShown_drives (s : State) (d : Nat) : (s.guardShown d).drives = vmod s.drives d (fun x => { x with released := 0 }) := by
  unfold State.guardShown State.incSat State.addSat
  rw [State.set_drives, State.modDrive_drives, State.setBit_drives, State.set_drives, State.setBit_drives, State.setBit_drives]

theorem State.guardAssert_halted (s : State) (d e : Nat) : (vget (s.guardAssert d).drives e).halted = (vget s.drives e).halted := by
  rw [State.guardAssert_eq, (State.branchAssert_drivesSame _ d).halted, State.guardShown_drives]
  exact vget_vmod_proj DriveDie.halted _ _ _ _ (fun _ => rfl)

theorem State.guardAssert_retired (s : State) (d e : Nat) : (vget (s.guardAssert d).drives e).retired = (vget s.drives e).retired := by
  rw [State.guardAssert_eq, (State.branchAssert_drivesSame _ d).retired, State.guardShown_drives]
  exact vget_vmod_proj DriveDie.retired _ _ _ _ (fun _ => rfl)

/-- ELAPSED at the detection of a cause, and what the guard notes of it. -/
theorem State.guardStart_cases (s : State) (d : Nat) (halt : Bool) : ∃ u : State,
    (s.guardStart d halt = u ∨ s.guardStart d halt = u.guardAssert d ∨ s.guardStart d halt = u.setBit HGRD.HGSTAT_TIMING d true) ∧
    u.get HGRD.HGSTAT_HALT = s.get HGRD.HGSTAT_HALT ∧ ∀ e, (vget u.drives e).halted = (vget s.drives e).halted := by
  unfold State.guardStart
  split
  case isTrue =>
    refine ⟨_, .inl rfl, State.get_of_cell (State.cell_of_regs (State.modDrive_regs _ _ _) _), fun e => ?_⟩
    exact vget_vmod_proj DriveDie.halted _ _ _ _ (fun _ => rfl)
  case isFalse =>
    extract_lets s1 now s2
    refine ⟨s2, ?_, ?_, fun e => ?_⟩
    · exact .inr (ite_eq_or_eq _ _ _)
    · refine (State.get_of_cell (State.cell_of_regs (State.modDrive_regs _ _ _) _)).trans ?_
      unfold s1
      split
      · rfl
      · exact State.get_of_cell (State.cell_set_ne _ _ _ _ (elapsed_ne_hgstat d))
    · have h1 : s1.drives = s.drives := by
        unfold s1
        rw [apply_ite State.drives, State.set_drives, ite_self]
      refine (vget_vmod_proj DriveDie.halted _ _ _ _ fun x => ?_).trans (by rw [h1])
      cases halt <;> rfl

theorem State.guardStart_halt (s : State) (d : Nat) (halt : Bool) (hd : d < 4) :
    (s.guardStart d halt).get HGRD.HGSTAT_HALT = s.get HGRD.HGSTAT_HALT := by
  obtain ⟨u, hu | hu | hu, hh, -⟩ := State.guardStart_cases s d halt
  · rw [hu, hh]
  · rw [hu, State.guardAssert_halt u d hd, hh]
  · rw [hu, State.get_setBit_apart _ _ _ rfl, hh]

theorem State.guardStart_halted (s : State) (d e : Nat) (halt : Bool) :
    (vget (s.guardStart d halt).drives e).halted = (vget s.drives e).halted := by
  obtain ⟨u, hu | hu | hu, -, hh⟩ := State.guardStart_cases s d halt
  · rw [hu, hh]
  · rw [hu, State.guardAssert_halted, hh]
  · rw [hu, State.setBit_drives, hh]

theorem State.guardStop_halt (s : State) (d : Nat) (halt : Bool) : (s.guardStop d halt).get HGRD.HGSTAT_HALT = s.get HGRD.HGSTAT_HALT := by
  unfold State.guardStop
  split
  case isTrue => rfl
  case isFalse =>
    extract_lets x other from_ s1
    split
    · refine (State.get_of_cell (State.cell_of_regs (State.modDrive_regs _ _ _) _)).trans ?_
      exact State.get_of_cell (State.cell_set_ne _ _ _ _ (elapsed_ne_hgstat d))
    · rw [State.get_of_cell (State.cell_set_ne _ _ _ _ (elapsed_ne_hgstat d)), State.get_setBit_apart _ _ _ rfl]

theorem State.guardStop_halted (s : State) (d e : Nat) (halt : Bool) :
    (vget (s.guardStop d halt).drives e).halted = (vget s.drives e).halted := by
  unfold State.guardStop
  split
  case isTrue => rfl
  case isFalse =>
    extract_lets x other from_ s1
    split
    · rw [State.modDrive_drives, State.set_drives]
      exact vget_vmod_proj DriveDie.halted _ _ _ _ fun _ => rfl
    · rw [State.set_drives, State.setBit_drives]

theorem State.thaw_cell (s : State) (d a : Nat) (h : a ∉ tripRegs d) : (s.thaw d).cell a = s.cell a := by
  have h2 : a ∉ outRegs d := fun e => h (List.mem_append_right _ e)
  unfold State.thaw
  split
  case isTrue => rfl
  case isFalse =>
    rw [State.refreshTrips_cell _ _ _ h]
    refine foldOver_cell _ _ _ _ fun j _ t => ?_
    extract_lets due t1 t2 t3
    have h2' : t2.cell a = t.cell a := by
      unfold t2
      split
      · rw [State.turnOff_cell _ _ _ _ _ h2]
        exact State.modPort_cell _ _ _ _ _
      · exact State.modPort_cell _ _ _ _ _
    have h3 : t3.cell a = t.cell a := by
      unfold t3
      split
      · rw [State.turnOff_cell _ _ _ _ _ h2, h2']
      · exact h2'
    split
    · rw [State.turnOn_cell _ _ _ _ _ h2, h3]
    · exact h3

end Sys2Proof.Machine
end

section
/-! SUPPORT and the obligation on halts, STO branches and service (O12): what a retirement of a drive die leaves, and each command's clause. -/

namespace Sys2Proof.Machine

/-! ### The retirement of a drive die (R24) -/

theorem State.refreshBlock_drivesSame (s : State) (d : Nat) : DrivesSame s (s.refreshBlock d) := by
  unfold State.refreshBlock
  extract_lets want ports s1 s2
  have h2 : DrivesSame s s2 := DrivesSame.of_eq (by
    unfold s2
    rw [apply_ite State.drives, State.modGrid_drives, ite_self]
    exact State.setB_drives _ _ _)
  clear_value s2
  refine h2.trans (foldOver_drivesSame _ _ _ fun j _ t => ?_)
  extract_lets b t1
  have h1 : DrivesSame t t1 := by
    unfold t1
    split
    · exact ((State.turnOffIn_drivesSame _ _ _ _ _).trans (State.turnOffIn_drivesSame _ _ _ _ _)).trans
        (DrivesSame.of_eq (State.modPort_drives _ _ _ _))
    · exact DrivesSame.of_eq rfl
  exact h1.trans (DrivesSame.of_eq (State.modPort_drives _ _ _ _))

theorem State.refreshVote_drives (s : State) (d : Nat) : (s.refreshVote d).drives = s.drives :=
  have : Open (fun p => p = .drives) .regs := open_of_eq (by decide)
  have : Open (fun p => p = .drives) .grids := open_of_eq (by decide)
  (State.refreshVote_keeps (F := fun p => p = .drives) (Keeps.refl _ s) d).same .drives rfl

theorem State.refreshGrid_drivesSame (s : State) (d : Nat) : DrivesSame s (s.refreshGrid d) :=
  (DrivesSame.of_eq (State.refreshVote_drives s d)).trans (State.refreshBlock_drivesSame _ d)

theorem State.refreshGrid_gridS (s : State) (d : Nat) : (s.refreshGrid d).gridS = s.gridS :=
  have : Open (fun p => p = .gridS) .regs := open_of_eq (by decide)
  have : Open (fun p => p = .gridS) .ports := open_of_eq (by decide)
  have : Open (fun p => p = .gridS) .drives := open_of_eq (by decide)
  have : Open (fun p => p = .gridS) .grids := open_of_eq (by decide)
  (State.refreshGrid_keeps (F := fun p => p = .gridS) (Keeps.refl _ s) d).same .gridS rfl

/-- A die out of service is marked retired and S knows it, and so it stays. -/
def State.knowsRetired (s : State) (d : Nat) : Prop := (vget s.drives d).retired = true ∧ s.gridS.retired.testBit d = true

theorem State.knowsRetired_of_same {s t : State} {d : Nat} (hd : DrivesSame s t) (hg : t.gridS = s.gridS) (h : s.knowsRetired d) :
    t.knowsRetired d := ⟨(hd.retired d).trans h.1, by rw [hg]; exact h.2⟩

theorem Keeps.knowsRetired {s t : State} {d : Nat} (hk : Keeps (fun p => p = .drives ∨ p = .gridS) s t) (h : s.knowsRetired d) :
    t.knowsRetired d :=
  State.knowsRetired_of_same (DrivesSame.of_eq (hk.same .drives (.inl rfl))) (hk.same .gridS (.inr rfl)) h

theorem State.cleRetired_drives (s : State) (d c : Nat) : (s.cleRetired d c).drives = s.drives := by
  unfold State.cleRetired
  rw [State.modCle_drives, State.setB_drives, State.setB_drives, State.setB_drives, State.setB_drives]

theorem State.knowsRetired_mark (s : State) (d : Nat) (h : (vget s.drives d).retired = true) :
    { s with gridS := { s.gridS with retired := s.gridS.retired ||| 2 ^ d } }.knowsRetired d :=
  ⟨h, by rw [Nat.testBit_or, Nat.testBit_two_pow_self, Bool.or_true]⟩

theorem State.dieOut_knowsRetired (s : State) (d : Nat) (hd : d < 4) : (s.dieOut d).knowsRetired d := by
  unfold State.dieOut
  extract_lets s1 s2 s3
  have h1 : (vget s1.drives d).retired = true := by
    unfold s1
    rw [State.drive_modDrive_self _ _ _ hd]
  have h2 : (vget s2.drives d).retired = true := by
    unfold s2
    split
    · exact ((State.branchAssert_drivesSame s1 d).retired d).trans h1
    · exact (State.guardAssert_retired s1 d d).trans h1
  have h3 : (vget s3.drives d).retired = true := by
    unfold s3
    rw [State.cleRetired_drives, State.cleRetired_drives, h2]
  exact State.knowsRetired_mark s3 d h3

/-- R24: a die that is retired is out of service and S knows it. -/
theorem State.retireDrive_knowsRetired (s : State) (d : Nat) (hd : d < 4) (h : (vget s.drives d).retired = false) :
    (s.retireDrive d).knowsRetired d := by
  have hOpen : ∀ p, p ≠ .drives → p ≠ .gridS → Open (fun p => p = .drives ∨ p = .gridS) p := fun p h1 h2 => ⟨fun hp => hp.elim h1 h2⟩
  have := hOpen .regs (by decide) (by decide)
  have := hOpen .life (by decide) (by decide)
  have := hOpen .keeper (by decide) (by decide)
  have := hOpen .grids (by decide) (by decide)
  have := hOpen .ports (by decide) (by decide)
  have := hOpen .cycles (by decide) (by decide)
  have := hOpen .crcs (by decide) (by decide)
  unfold State.retireDrive State.retireDie
  rw [if_neg (by simp [h]), if_neg (by simp [h])]
  refine Keeps.knowsRetired (State.startMerge_keeps (Keeps.refl _ _)) ?_
  extract_lets s1 s2
  have h1 : s1.knowsRetired d := Keeps.knowsRetired
    (State.recordMember_keeps (State.recordMember_keeps (State.recordRetire_keeps (Keeps.refl _ (s.dieOut d)) _ _ _) _ _) _ _)
    (State.dieOut_knowsRetired s d hd)
  have h2 : s2.knowsRetired d := State.knowsRetired_of_same (State.refreshGrid_drivesSame _ _) (State.refreshGrid_gridS _ _)
    (Keeps.knowsRetired (State.refreshProbeDie_keeps (Keeps.refl _ s1)) h1)
  refine foldOver_preserves (P := fun t => t.knowsRetired d) _ _ _ h2 fun u _ t ht => ?_
  split
  · exact Keeps.knowsRetired (State.scanFail_keeps (Keeps.refl _ t) u) ht
  · exact ht

/-! ### Halts and branches -/

theorem State.modDrive_sameBut (s : State) (d : Nat) (f : DriveDie → DriveDie) : SameBut [.drives] s (s.modDrive d f) :=
  have : Open (fun p => p ∉ [Part.drives]) .drives := open_of_mem (by decide)
  Keeps.sameBut (State.modDrive_keeps (Keeps.refl _ s) d f)

/-- R119, R120: the die is halted and the halt guard shows it. -/
theorem driveDieHalt_completes (d : Fin 4) (s : State) (hr : s.mainRuns = true) :
    Completes (exec (.driveDieHalt d) s) (fun t => (vget t.drives d).halted = true ∧ t.bit HGRD.HGSTAT_HALT d = true) := by
  refine completes_whileRuns hr (completes_next ⟨?_, ?_⟩)
  · rw [State.guardStart_halted, State.setBit_drives]
    refine foldOver_preserves (P := fun t => (vget t.drives d).halted = true) _ _ _ ?_ fun k _ t ht => ?_
    · rw [State.drive_modDrive_self _ _ _ d.isLt]
    · split
      · rw [State.setB_drives]
        exact ht
      · exact ht
  · exact (State.bit_of_get (State.guardStart_halt _ _ _ d.isLt)).trans (State.bit_setBit_self _ _ _ _ (by decide) d.isLt)

/-- R119: the halt is released and the halt guard shows it. -/
theorem driveDieHaltRelease_completes (d : Fin 4) (s : State) (hr : s.mainRuns = true) :
    Completes (exec (.driveDieHaltRelease d) s) (fun t => (vget t.drives d).halted = false ∧ t.bit HGRD.HGSTAT_HALT d = false) := by
  refine completes_whileRuns hr (completes_next ⟨?_, ?_⟩)
  · rw [(State.thaw_drivesSame _ _).halted, State.guardStop_halted, State.setBit_drives]
    refine foldOver_preserves (P := fun t => (vget t.drives d).halted = false) _ _ _ ?_ fun k _ t ht => ?_
    · rw [State.drive_modDrive_self _ _ _ d.isLt]
    · rw [State.setB_drives]
      exact ht
  · refine (State.bit_of_cell (State.thaw_cell _ _ _ (notMem_tripRegs d.isLt (by decide)))).trans ?_
    exact (State.bit_of_get (State.guardStop_halt _ _ _)).trans (State.bit_setBit_self _ _ _ _ (by decide) d.isLt)

/-- R120: the guard time has elapsed, and the branch is asserted. -/
theorem haltGuardExpire_completes (d : Fin 4) (s : State) (ht : s.bit HGRD.HGSTAT_TIMING d = true) (hr : s.mainRuns = true) :
    Completes (exec (.haltGuardExpire d) s) (fun t => t.bit HGRD.HGSTAT_ASSERT d = true ∧ t.bit SFN.SFSTAT_NET d = true) := by
  refine completes_whileRuns hr (completes_next ?_)
  rw [if_pos ht]
  exact ⟨State.guardAssert_assert s d d.isLt, State.guardAssert_stoBranch s d d.isLt⟩

/-- R121: an asserted branch, and every output of the die off. -/
theorem stoBranchAssert_completes (d : Fin 4) (s : State) (hr : s.mainRuns = true) :
    Completes (exec (.stoBranchAssert d) s) (fun t => t.bit SFN.SFSTAT_NET d = true ∧ (∀ j : Fin 7, (t.port d j).gh = false ∧
      (t.port d j).gl = false)) :=
  completes_whileRuns hr (completes_next ⟨State.branchAssert_stoBranch s d d.isLt,
    fun j => State.branchAssert_portOff s d j d.isLt j.isLt⟩)

/-- R423: with both channels released, a branch that the guard no longer has a cause to assert is released. -/
theorem stoBranchRelease_completes (d : Fin 4) (s : State) (ha : s.flag SFN.SFSTAT_A_REQ = false) (hb : s.flag SFN.SFSTAT_B_REQ = false)
    (hg : s.bit HGRD.HGSTAT_ASSERT d = false ∨ (s.bit HGRD.HGSTAT_HALT d = false ∧ s.bit HGRD.HGSTAT_CLK_LOST d = false ∧
      (vget s.drives d).released = 3)) (hn : (vget s.drives d).retired = false) (hr : s.mainRuns = true) :
    Completes (exec (.stoBranchRelease d) s) (fun t => t.bit SFN.SFSTAT_NET d = false ∧ t.bit HGRD.HGSTAT_ASSERT d = false) := by
  refine completes_whileRuns hr (completes_next ?_)
  have hfree : (s.bit HGRD.HGSTAT_ASSERT d && (s.bit HGRD.HGSTAT_HALT d || s.bit HGRD.HGSTAT_CLK_LOST d ||
      decide ((vget s.drives d).released ≠ 3))) = false := by
    rcases hg with h | ⟨h1, h2, h3⟩
    · rw [h, Bool.false_and]
    · rw [h1, h2, h3]
      simp
  rw [ha, hb, hn, hfree, if_neg (by decide), if_neg (by decide)]
  have hout : ∀ g : RF, 0x44000000 ≤ g.addr → ∀ u : State, (u.refreshTrips d).bit g d = u.bit g d :=
    fun g h u => State.bit_of_cell (State.refreshTrips_cell u d g.addr (notMem_tripRegs d.isLt h))
  refine ⟨?_, ?_⟩
  · rw [hout _ (by decide), State.bit_of_get (State.setBranchAck_get _ _ _ rfl)]
    exact State.bit_setBit_self _ _ _ _ (by decide) d.isLt
  · rw [hout _ (by decide), State.bit_of_get (State.setBranchAck_get _ _ _ rfl), State.bit_of_get (State.get_setBit_apart _ _ _ rfl),
      State.bit_of_get (State.get_setBit_apart _ _ _ rfl)]
    exact State.bit_setBit_self _ _ _ _ (by decide) d.isLt

/-- R24, R423: a branch of a retired die, or one that the guard asserts and the channels have not both released since, stays. -/
theorem stoBranchRelease_stays (d : Fin 4) (s : State)
    (h : (vget s.drives d).retired = true ∨ (s.bit HGRD.HGSTAT_ASSERT d = true ∧ (vget s.drives d).released ≠ 3)) (hr : s.mainRuns = true) :
    Completes (exec (.stoBranchRelease d) s) (fun t => t = s) := by
  refine completes_whileRuns hr (completes_next ?_)
  have hheld : ((vget s.drives d).retired || (s.bit HGRD.HGSTAT_ASSERT d && (s.bit HGRD.HGSTAT_HALT d || s.bit HGRD.HGSTAT_CLK_LOST d ||
      decide ((vget s.drives d).released ≠ 3)))) = true := by
    rcases h with h | ⟨h1, h2⟩
    · rw [h, Bool.true_or]
    · rw [h1, decide_eq_true h2, Bool.or_true, Bool.and_true, Bool.or_true]
  rw [if_pos hheld, ite_self]

/-- R119: the clock of the die stops, and nothing else changes. -/
theorem driveDieClockStop_completes (d : Fin 4) (s : State) (hr : s.mainRuns = true) :
    Completes (exec (.driveDieClockStop d) s) (fun t => (vget t.drives d).clockStopped = true ∧ SameBut [.drives] s t) := by
  refine completes_whileRuns hr (completes_next ⟨?_, State.modDrive_sameBut _ _ _⟩)
  rw [State.drive_modDrive_self _ _ _ d.isLt]

/-- R423: the clock of the die runs again. -/
theorem driveDieClockResume_completes (d : Fin 4) (s : State) (hr : s.mainRuns = true) :
    Completes (exec (.driveDieClockResume d) s) (fun t => (vget t.drives d).clockStopped = false) := by
  refine completes_whileRuns hr (completes_next ?_)
  rw [(State.thaw_drivesSame _ _).clockStopped, (State.refreshTrips_drivesSame _ _).clockStopped, State.drive_modDrive_self _ _ _ d.isLt]

/-- R156: a read of TTIME_LO returns it and captures TTIME_HI of the same tick. -/
theorem ttimeLoRead_completes (d : Fin 4) (s : State) (hr : s.mainRuns = true) :
    Completes (exec (.ttimeLoRead d) s) (fun t => (vget t.drives d).ttHold = some (s.ttime d / 2 ^ 32) ∧
      t.out = ⟨.readReturn, (Die.drive d).code, [TRIP.TTIME_LO d, s.ttime d % 2 ^ 32]⟩ :: s.out ∧ SameBut [.drives, .out] s t) := by
  have : Open (fun p => p ∉ [Part.drives, .out]) .drives := open_of_mem (by decide)
  have : Open (fun p => p ∉ [Part.drives, .out]) .out := open_of_mem (by decide)
  refine completes_whileRuns hr (completes_next ⟨?_, rfl, ?_⟩)
  · unfold State.captureTtime
    rw [State.send_drives, State.drive_modDrive_self _ _ _ d.isLt]
  · exact Keeps.sameBut (State.send_keeps (State.captureTtime_keeps (Keeps.refl _ s) d) _)

/-- Settles O12: one lemma for each command and outcome; the clauses of the clock stand in the statement twice. -/
theorem haltGuardAndService : Obligations.HaltGuardAndService := by
  unfold Obligations.HaltGuardAndService
  exact ⟨driveDieHalt_completes, driveDieHaltRelease_completes, haltGuardExpire_completes, stoBranchAssert_completes,
    stoBranchRelease_completes, stoBranchRelease_stays, driveDieClockStop_completes, driveDieClockResume_completes,
    driveDieClockStop_completes, driveDieClockResume_completes,
    fun d s hn hr => completes_whileRuns hr (completes_next (State.retireDrive_knowsRetired s d d.isLt hn)), ttimeLoRead_completes⟩

end Sys2Proof.Machine
end

section
/-! SUPPORT and the obligation on ride-through (O24): the grid block and the vote leave the supervisor's fields, and each command's clause. -/

namespace Sys2Proof.Machine

/-! ### Fields through the vote and the grid block -/

theorem RTS.rtstat_ne_gstat (d : Nat) : RTS.RTSTAT d ≠ GSU.GSTAT d := by
  simp only [RTS.RTSTAT, GSU.GSTAT]
  omega

theorem RTS.rtstat_ne_rcSec (d : Nat) : RTS.RTSTAT d ≠ RTS.RC_SEC d := by
  simp only [RTS.RTSTAT, RTS.RC_SEC]
  omega

theorem RTS.rtstat_notMem_outRegs (d : Nat) : RTS.RTSTAT d ∉ outRegs d := by
  simp only [outRegs, List.mem_cons, List.mem_map, List.mem_range, RTS.RTSTAT, CYC.RFSTAT, PORT.CHOP_STAT, not_or, not_exists, not_and]
  exact ⟨by omega, fun j _ => by omega⟩

theorem GSU.gstat_notMem_outRegs (d : Nat) : GSU.GSTAT d ∉ outRegs d := by
  simp only [outRegs, List.mem_cons, List.mem_map, List.mem_range, GSU.GSTAT, CYC.RFSTAT, PORT.CHOP_STAT, not_or, not_exists, not_and]
  exact ⟨by omega, fun j _ => by omega⟩

theorem RTS.rtcfg_notMem_outRegs (d : Nat) : RTS.RTCFG d ∉ outRegs d := by
  simp only [outRegs, List.mem_cons, List.mem_map, List.mem_range, RTS.RTCFG, CYC.RFSTAT, PORT.CHOP_STAT, not_or, not_exists, not_and]
  exact ⟨by omega, fun j _ => by omega⟩

/-- The fields that the block leaves: all but BLOCK and those of the die's outputs. -/
theorem State.refreshBlock_get (s : State) (d : Nat) {g : RF} (hBlock : (GSU.GSTAT_BLOCK d).apart g = true) (hg : g.addr ∉ outRegs d) :
    (s.refreshBlock d).get g = s.get g := by
  unfold State.refreshBlock
  extract_lets want ports s1 s2
  have h2 : s2.get g = s.get g := by
    have h1 : s1.get g = s.get g := State.get_setB_apart _ _ hBlock
    unfold s2
    split
    · exact (State.get_of_cell (State.modGrid_cell _ _ _ _)).trans h1
    · exact h1
  refine (State.get_of_cell (foldOver_cell _ _ _ _ fun j _ t => ?_)).trans h2
  extract_lets b t1
  refine (State.modPort_cell _ _ _ _ _).trans ?_
  unfold t1
  split
  · rw [State.modPort_cell, State.turnOffIn_cell _ _ _ _ _ _ hg, State.turnOffIn_cell _ _ _ _ _ _ hg]
  · rfl

/-- The fields that a vote writes: VOTE, RC_READY, RC_SEC. -/
def voteFields (d : Nat) : List RF := [RTS.RTSTAT_VOTE d, RTS.RTSTAT_RC_READY d, RTS.RC_SEC_RC_SEC d]

theorem State.rcRestart_get (s : State) (d : Nat) {g : RF} (hg : ∀ f ∈ voteFields d, f.apart g = true) :
    (s.rcRestart d).get g = s.get g := by
  unfold State.rcRestart
  rw [State.get_of_cell (State.modGrid_cell _ _ _ _), State.get_setB_apart _ _ (hg _ (by simp [voteFields])),
    State.get_set_apart _ _ (hg _ (by simp [voteFields]))]

theorem State.setVote_get (s : State) (d v : Nat) {g : RF} (hg : ∀ f ∈ voteFields d, f.apart g = true) :
    (s.setVote d v).get g = s.get g := by
  unfold State.setVote
  extract_lets s1
  have h1 : s1.get g = s.get g := State.get_set_apart _ _ (hg _ (by simp [voteFields]))
  split
  · rfl
  · split
    · exact (State.rcRestart_get s1 d hg).trans h1
    · exact h1

theorem State.refreshVote_cases (s : State) (d : Nat) : s.refreshVote d = s ∨ ∃ v, s.refreshVote d = s.setVote d v := by
  unfold State.refreshVote
  split
  · exact .inl rfl
  · split
    · exact .inr ⟨0, rfl⟩
    · split
      · exact .inr ⟨2, rfl⟩
      · exact .inl rfl

/-- The fields that vote and block leave. -/
theorem State.refreshGrid_get (s : State) (d : Nat) {g : RF} (hVote : ∀ f ∈ voteFields d, f.apart g = true)
    (hBlock : (GSU.GSTAT_BLOCK d).apart g = true) (hg : g.addr ∉ outRegs d) : (s.refreshGrid d).get g = s.get g := by
  unfold State.refreshGrid
  rw [State.refreshBlock_get _ d hBlock hg]
  obtain h | ⟨v, h⟩ := State.refreshVote_cases s d
  · rw [h]
  · rw [h, State.setVote_get s d v hVote]

/-! ### The sides of the supervisor through vote and block -/

theorem State.modGrid_sides (s : State) (d e : Nat) (f : GridDie → GridDie) (h : ∀ g, (f g).sides = g.sides) :
    ((s.modGrid d f).grid e).sides = (s.grid e).sides := vget_vmod_proj GridDie.sides s.grids d e f h

theorem State.sides_of_grids {s t : State} (h : t.grids = s.grids) (e : Nat) : (t.grid e).sides = (s.grid e).sides := by
  unfold State.grid
  rw [h]

theorem State.rcRestart_sides (s : State) (d e : Nat) : ((s.rcRestart d).grid e).sides = (s.grid e).sides := by
  unfold State.rcRestart
  rw [State.modGrid_sides _ _ _ _ (fun _ => by rfl), State.sides_of_grids (State.setB_grids _ _ _), State.sides_of_grids (State.set_grids _ _ _)]

theorem State.setVote_sides (s : State) (d v e : Nat) : ((s.setVote d v).grid e).sides = (s.grid e).sides := by
  unfold State.setVote
  split
  · rfl
  · split
    · rw [State.rcRestart_sides, State.sides_of_grids (State.set_grids _ _ _)]
    · rw [State.sides_of_grids (State.set_grids _ _ _)]

theorem State.latchTripped_sides (s : State) (d e : Nat) : ((s.latchTripped d).grid e).sides = (s.grid e).sides := by
  unfold State.latchTripped State.openDecision
  have h : (((s.setB (RTS.RTSTAT_TRIPPED d) true).incSat (RTS.RTSTAT_GTRIP_CNT d)).grid e).sides = (s.grid e).sides :=
    (State.sides_of_grids (State.set_grids _ _ _) e).trans (State.sides_of_grids (State.setB_grids _ _ _) e)
  split
  · split
    · split
      · exact h
      · exact (State.setVote_sides _ _ _ _).trans h
    · exact (State.modGrid_sides _ _ _ _ (fun _ => by rfl)).trans h
  · rfl

theorem State.turnOffIn_grids (s : State) (d j : Nat) (high next : Bool) : (s.turnOffIn d j high next).grids = s.grids :=
  have : Open (fun p => p = .grids) .regs := open_of_eq (by decide)
  have : Open (fun p => p = .grids) .ports := open_of_eq (by decide)
  have : Open (fun p => p = .grids) .drives := open_of_eq (by decide)
  (State.turnOffIn_keeps (F := fun p => p = .grids) (Keeps.refl _ s) d j high next).same .grids rfl

theorem State.refreshBlock_sides (s : State) (d e : Nat) : ((s.refreshBlock d).grid e).sides = (s.grid e).sides := by
  unfold State.refreshBlock
  extract_lets want ports s1 s2
  have h2 : (s2.grid e).sides = (s.grid e).sides := by
    have h1 : (s1.grid e).sides = (s.grid e).sides := State.sides_of_grids (State.setB_grids _ _ _) e
    unfold s2
    split
    · exact (State.modGrid_sides _ _ _ _ (fun _ => by rfl)).trans h1
    · exact h1
  clear_value s2
  refine foldOver_preserves (P := fun t => (t.grid e).sides = (s.grid e).sides) _ _ _ h2 fun j _ t ht => ?_
  extract_lets b t1
  refine (State.sides_of_grids (s := t) ?_ e).trans ht
  rw [State.modPort_grids]
  unfold t1
  split
  · rw [State.modPort_grids, State.turnOffIn_grids, State.turnOffIn_grids]
  · rfl

theorem State.refreshGrid_sides (s : State) (d e : Nat) : ((s.refreshGrid d).grid e).sides = (s.grid e).sides := by
  unfold State.refreshGrid
  rw [State.refreshBlock_sides]
  obtain h | ⟨v, h⟩ := State.refreshVote_cases s d
  · rw [h]
  · rw [h, State.setVote_sides]

/-! ### ARM (R273) -/

/-- A field after a write of its whole register. -/
theorem State.get_setReg_self (s : State) (f : RF) (w : Word) : (s.setReg f.addr w).get f = getBits w f.lo f.w := by
  unfold State.get
  rw [State.reg_setReg_self]

/-- A check of a register with correct parity finds nothing. -/
theorem State.checkParity_of_ok (s : State) (a : Nat) (byRead : Bool) (h : s.parityOk a = true) : s.checkParity a byRead = s := by
  unfold State.checkParity
  split
  · rfl
  · rw [if_neg (by simp [h])]

/-- ARM as a write of RTCFG leaves it before the rules of R273 judge it. -/
theorem rtcfg_arm_written (s : State) (d x : Nat) (w : Word) (hx : x < 2) :
    (s.setReg (RTS.RTCFG d) (putBits w 0 1 x)).flag (RTS.RTCFG_ARM d) = decide (x ≠ 0) := by
  have h : getBits (putBits w 0 1 x) (RTS.RTCFG_ARM d).lo (RTS.RTCFG_ARM d).w = x := by
    rw [show (RTS.RTCFG_ARM d).lo = 0 from rfl, show (RTS.RTCFG_ARM d).w = 1 from rfl, getBits_putBits_self _ _ _ _ (by decide)]
    omega
  exact congrArg (fun n => decide (n ≠ 0)) ((State.get_setReg_self s (RTS.RTCFG_ARM d) _).trans h)

theorem State.refreshBlock_arm (s : State) (d : Nat) : (s.refreshBlock d).flag (RTS.RTCFG_ARM d) = s.flag (RTS.RTCFG_ARM d) := by
  refine State.flag_of_get (State.refreshBlock_get s d (RF.apart_of_addr_ne rfl rfl ?_) (RTS.rtcfg_notMem_outRegs d))
  simp only [RTS.RTCFG_ARM, RTS.RTCFG, GSU.GSTAT_BLOCK, GSU.GSTAT]
  omega

theorem State.refreshBlock_cfgErr (s : State) (d : Nat) :
    (s.refreshBlock d).flag (RTS.RTSTAT_RT_CFG_ERR d) = s.flag (RTS.RTSTAT_RT_CFG_ERR d) :=
  State.flag_of_get (State.refreshBlock_get s d (RF.apart_of_addr_ne rfl rfl (RTS.rtstat_ne_gstat d)) (RTS.rtstat_notMem_outRegs d))

/-- Some curve of the die is not one that ARM accepts: more than 16 points, or times that do not rise (R273). -/
def State.badCurves (s : State) (d : Nat) : Bool :=
  (List.range 16).any (fun c => decide (16 < s.get (CURVE.HEAD_NPTS d c)) || !timesRise (s.curve d c))

/-- R273: ARM is set where the curves are good. -/
theorem armWrite_arms (d : Fin 4) (s : State) (harm : s.flag (RTS.RTCFG_ARM d) = false) (hcurves : s.badCurves d = false)
    (hr : s.mainRuns = true) (hp : s.parityOk (RTS.RTCFG d) = true) :
    Completes (exec (.armWrite d true) s) (fun t => t.flag (RTS.RTCFG_ARM d) = true) := by
  refine completes_whileRuns hr (completes_next ?_)
  rw [State.checkParity_of_ok _ _ _ hp]
  unfold State.rtcfgApply
  extract_lets was t now t'
  have hnow : now = true := rtcfg_arm_written s d 1 _ (by decide)
  have ht' : t' = t := by
    have hwas : was = false := harm
    have hbad : ((List.range 16).any (fun c => decide (16 < s.get (CURVE.HEAD_NPTS d c)) || !timesRise (s.curve d c))) = false := hcurves
    unfold t'
    rw [hwas, hbad, Bool.and_false, if_neg (by decide), Bool.false_and, Bool.false_and, if_neg (by decide)]
  rw [State.refreshBlock_arm, ht']
  exact hnow

/-- R273: ARM is refused on bad curves. -/
theorem armWrite_refused (d : Fin 4) (s : State) (harm : s.flag (RTS.RTCFG_ARM d) = false) (hcurves : s.badCurves d = true)
    (hr : s.mainRuns = true) (hp : s.parityOk (RTS.RTCFG d) = true) :
    Completes (exec (.armWrite d true) s) (fun t => t.flag (RTS.RTCFG_ARM d) = false ∧ t.flag (RTS.RTSTAT_RT_CFG_ERR d) = true) := by
  refine completes_whileRuns hr (completes_next ?_)
  rw [State.checkParity_of_ok _ _ _ hp]
  unfold State.rtcfgApply
  extract_lets was t now t'
  have hnow : now = true := rtcfg_arm_written s d 1 _ (by decide)
  have ht' : t' = (t.setB (RTS.RTCFG_ARM d) false).setB (RTS.RTSTAT_RT_CFG_ERR d) true := by
    have hwas : was = false := harm
    have hbad : ((List.range 16).any (fun c => decide (16 < s.get (CURVE.HEAD_NPTS d c)) || !timesRise (s.curve d c))) = true := hcurves
    unfold t'
    rw [hwas, hbad, hnow, if_pos (by decide)]
  have hne : (RTS.RTCFG_ARM d).addr ≠ (RTS.RTSTAT_RT_CFG_ERR d).addr := by
    simp only [RTS.RTCFG_ARM, RTS.RTCFG, RTS.RTSTAT_RT_CFG_ERR, RTS.RTSTAT]
    omega
  rw [State.refreshBlock_arm, State.refreshBlock_cfgErr, ht']
  refine ⟨?_, State.flag_setB_self _ _ _ (of_decide_eq_true rfl) (of_decide_eq_true rfl)⟩
  rw [State.flag_of_get (State.get_setB_apart _ _ (RF.apart_of_addr_ne rfl rfl hne))]
  exact State.flag_setB_self _ _ _ (of_decide_eq_true rfl) (of_decide_eq_true rfl)

/-- R273: ARM clears while GRID_EN = 0. -/
theorem armWrite_clears (d : Fin 4) (s : State) (harm : s.flag (RTS.RTCFG_ARM d) = true) (hgrid : s.flag (GSU.GCFG_GRID_EN d) = false)
    (hr : s.mainRuns = true) (hp : s.parityOk (RTS.RTCFG d) = true) :
    Completes (exec (.armWrite d false) s) (fun t => t.flag (RTS.RTCFG_ARM d) = false) := by
  refine completes_whileRuns hr (completes_next ?_)
  rw [State.checkParity_of_ok _ _ _ hp]
  unfold State.rtcfgApply
  extract_lets was t now t'
  have hnow : now = false := rtcfg_arm_written s d 0 _ (by decide)
  have ht' : t' = t := by
    have hwas : was = true := harm
    unfold t'
    rw [hwas, hgrid, Bool.and_false, Bool.not_true, Bool.false_and, Bool.false_and, if_neg Bool.false_ne_true, if_neg Bool.false_ne_true]
  rw [State.refreshBlock_arm, ht']
  exact hnow

/-! ### Curves (R273) -/

theorem State.setReg_sameBut (s : State) (a : Nat) (w : Word) : SameBut [.regs] s (s.setReg a w) :=
  have : Open (fun p => p ∉ [Part.regs]) .regs := open_of_mem (by decide)
  Keeps.sameBut (State.setReg_keeps (Keeps.refl _ s) a w)

theorem SameBut.trans {l : List Part} {s t u : State} (h : SameBut l s t) (h' : SameBut l t u) : SameBut l s u := by
  obtain ⟨hq, hp⟩ := h
  obtain ⟨hq', hp'⟩ := h'
  refine ⟨hq'.trans hq, fun p hl => ?_⟩
  have h1 := hp p hl
  have h2 := hp' p hl
  cases p <;> exact h2.trans h1

theorem State.setReg_regsBut (s : State) (a : Nat) (w : Word) {l : List Nat} (h : a ∈ l) : RegsBut l s (s.setReg a w) :=
  fun _ hb => State.cell_setReg_ne _ _ _ _ fun e => hb (e ▸ h)

theorem RegsBut.trans {l : List Nat} {s t u : State} (h : RegsBut l s t) (h' : RegsBut l t u) : RegsBut l s u :=
  fun a ha => (h' a ha).trans (h a ha)

theorem State.curveApply_unarmed (s : State) (d a : Nat) (w : Word) (h : s.flag (RTS.RTCFG_ARM d) = false) :
    s.curveApply d a w = s.setReg a w := by
  unfold State.curveApply
  rw [if_neg (by simp [h])]

theorem State.curveApply_armed (s : State) (d a : Nat) (w : Word) (h : s.flag (RTS.RTCFG_ARM d) = true) :
    s.curveApply d a w = s.setB (RTS.RTSTAT_RT_WR_REJ d) true := by
  unfold State.curveApply
  rw [if_pos h]

/-- R273: a point of a curve is written while the supervisor is not armed, and nothing else. -/
theorem curveWrite_unarmed (d : Fin 4) (c i : Fin 16) (level : BitVec 16) (tm : Word) (s : State)
    (harm : s.flag (RTS.RTCFG_ARM d) = false) (hr : s.mainRuns = true) :
    Completes (exec (.curveWrite d c (some i) level tm) s) (fun t => t.reg (CURVE.LEVEL d c i) = BitVec.ofNat 32 level.toNat ∧
      t.reg (CURVE.TIME d c i) = tm ∧ SameBut [.regs] s t ∧ RegsBut [CURVE.LEVEL d c i, CURVE.TIME d c i] s t) := by
  refine completes_whileRuns hr (completes_next ?_)
  have hne : (RTS.RTCFG_ARM d).addr ≠ CURVE.LEVEL d c i ∧ CURVE.LEVEL d c i ≠ CURVE.TIME d c i := by
    simp only [RTS.RTCFG_ARM, RTS.RTCFG, CURVE.LEVEL, CURVE.TIME]
    omega
  have harm' : (s.setReg (CURVE.LEVEL d c i) (BitVec.ofNat 32 level.toNat)).flag (RTS.RTCFG_ARM d) = false :=
    (State.flag_of_cell (State.cell_setReg_ne _ _ _ _ hne.1)).trans harm
  dsimp only
  rw [State.curveApply_unarmed _ _ _ _ harm, State.curveApply_unarmed _ _ _ _ harm']
  refine ⟨?_, State.reg_setReg_self _ _ _, (State.setReg_sameBut _ _ _).trans (State.setReg_sameBut _ _ _),
    (State.setReg_regsBut _ _ _ (by simp)).trans (State.setReg_regsBut _ _ _ (by simp))⟩
  rw [State.reg_setReg_ne _ _ _ _ hne.2, State.reg_setReg_self]

/-- R273: while the supervisor is armed a write to a curve is rejected. -/
theorem curveWrite_armed (d : Fin 4) (c : Fin 16) (pt : Option (Fin 16)) (level : BitVec 16) (tm : Word) (s : State)
    (harm : s.flag (RTS.RTCFG_ARM d) = true) (hr : s.mainRuns = true) :
    Completes (exec (.curveWrite d c pt level tm) s) (fun t => t.flag (RTS.RTSTAT_RT_WR_REJ d) = true ∧ SameBut [.regs] s t ∧
      RegsBut [RTS.RTSTAT d] s t) := by
  refine completes_whileRuns hr (completes_next ?_)
  have hset : ∀ u : State, (u.setB (RTS.RTSTAT_RT_WR_REJ d) true).flag (RTS.RTSTAT_RT_WR_REJ d) = true :=
    fun u => State.flag_setB_self _ _ _ (of_decide_eq_true rfl) (of_decide_eq_true rfl)
  have hparts : ∀ u : State, SameBut [.regs] u (u.setB (RTS.RTSTAT_RT_WR_REJ d) true) := fun u => State.setReg_sameBut _ _ _
  have hregs : ∀ u : State, RegsBut [RTS.RTSTAT d] u (u.setB (RTS.RTSTAT_RT_WR_REJ d) true) :=
    fun u => State.setReg_regsBut _ _ _ List.mem_cons_self
  cases pt with
  | none =>
    dsimp only
    rw [State.curveApply_armed _ _ _ _ harm]
    exact ⟨hset s, hparts s, hregs s⟩
  | some i =>
    have hne : (RTS.RTCFG_ARM d).addr ≠ RTS.RTSTAT d := by
      simp only [RTS.RTCFG_ARM, RTS.RTCFG, RTS.RTSTAT]
      omega
    have harm' : (s.setB (RTS.RTSTAT_RT_WR_REJ d) true).flag (RTS.RTCFG_ARM d) = true :=
      (State.flag_of_cell (State.cell_setReg_ne _ _ _ _ hne)).trans harm
    dsimp only
    rw [State.curveApply_armed _ _ _ _ harm, State.curveApply_armed _ _ _ _ harm']
    exact ⟨hset _, (hparts s).trans (hparts _), (hregs s).trans (hregs _)⟩

/-! ### The supervisor's evaluation (R271, R272) -/

theorem State.sideRegion_le (s : State) (d q t : Nat) : s.sideRegion d q t ≤ 4 := by
  unfold State.sideRegion
  split
  · exact Nat.sub_le _ _
  · exact Nat.zero_le _

/-- The largest of numbers that `b` bounds is bounded too. -/
theorem foldl_max_le (l : List Nat) (a b : Nat) (ha : a ≤ b) (h : ∀ x ∈ l, x ≤ b) : l.foldl max a ≤ b := by
  induction l generalizing a with
  | nil => exact ha
  | cons x l ih =>
    exact ih _ (Nat.max_le.2 ⟨ha, h x List.mem_cons_self⟩) (fun y hy => h y (List.mem_cons_of_mem x hy))

/-- One evaluation's step of the first `n` sides, with the regions `r`. -/
def State.stepSides (s : State) (d n : Nat) (r : List Nat) (rst : Nat) : State :=
  foldOver (List.range n) (fun q t => t.modGrid d (fun g => { g with sides := vmod g.sides q (fun x => x.step (r.getD q 0) rst) })) s

theorem State.stepSides_cell (s : State) (d n : Nat) (r : List Nat) (rst a : Nat) : (s.stepSides d n r rst).cell a = s.cell a :=
  foldOver_cell _ _ _ _ fun _ _ _ => State.modGrid_cell _ _ _ _

/-- Each side takes its own step, once. -/
theorem State.stepSides_side (s : State) (d n : Nat) (r : List Nat) (rst q : Nat) (hd : d < 4) (hn : n ≤ 4) :
    vget ((s.stepSides d n r rst).grid d).sides q =
      if q < n then (vget (s.grid d).sides q).step (r.getD q 0) rst else vget (s.grid d).sides q := by
  induction n with
  | zero => rfl
  | succ n ih =>
    have hs : s.stepSides d (n + 1) r rst = (s.stepSides d n r rst).modGrid d
        (fun g => { g with sides := vmod g.sides n (fun x => x.step (r.getD n 0) rst) }) := by
      unfold State.stepSides foldOver
      rw [List.range_succ, List.foldl_append]
      rfl
    have hg : ((s.stepSides d (n + 1) r rst).grid d).sides =
        vmod ((s.stepSides d n r rst).grid d).sides n (fun x => x.step (r.getD n 0) rst) := by
      rw [hs]
      exact congrArg GridDie.sides (vget_vmod_self _ _ _ hd)
    rw [hg, vget_vmod _ _ _ _ (by omega)]
    by_cases hq : q = n
    · subst hq
      rw [if_pos rfl, ih (by omega), if_neg (by omega), if_pos (by omega)]
    · rw [if_neg hq, ih (by omega)]
      by_cases hlt : q < n
      · rw [if_pos hlt, if_pos (by omega)]
      · rw [if_neg hlt, if_neg (by omega)]

theorem State.latchTripped_get (s : State) (d : Nat) {g : RF} (hVote : ∀ f ∈ voteFields d, f.apart g = true)
    (hTrip : (RTS.RTSTAT_TRIPPED d).apart g = true) (hCnt : (RTS.RTSTAT_GTRIP_CNT d).apart g = true) :
    (s.latchTripped d).get g = s.get g := by
  unfold State.latchTripped State.openDecision
  have h : ((s.setB (RTS.RTSTAT_TRIPPED d) true).incSat (RTS.RTSTAT_GTRIP_CNT d)).get g = s.get g := by
    rw [State.get_incSat_apart _ hCnt, State.get_setB_apart _ _ hTrip]
  split
  · split
    · split
      · exact h
      · rw [State.setVote_get _ _ _ hVote, h]
    · exact (State.get_of_cell (State.modGrid_cell _ _ _ _)).trans h
  · rfl

/-! ### Evaluations and the clauses of O24 -/

theorem RTS.rtstat_ne_tdist (d : Nat) : RTS.RTSTAT d ≠ RTS.TDIST d := by
  simp only [RTS.RTSTAT, RTS.TDIST]
  omega

theorem RTS.rtstat_ne_rtout (d : Nat) : RTS.RTSTAT d ≠ RTS.RTOUT d := by
  simp only [RTS.RTSTAT, RTS.RTOUT]
  omega

/-- The vote's fields share no bit with REGION. -/
theorem voteFields_apart_region (d : Nat) : ∀ f ∈ voteFields d, f.apart (RTS.RTSTAT_REGION d) = true := by
  intro f hf
  simp only [voteFields, List.mem_cons, List.not_mem_nil, or_false] at hf
  rcases hf with rfl | rfl | rfl
  · rfl
  · rfl
  · exact RF.apart_of_addr_ne rfl rfl (RTS.rtstat_ne_rcSec d)

/-- The regions of the four sides, each at its own time (R271). -/
def State.regions (s : State) (d : Nat) : List Nat :=
  (List.range 4).map (fun q => s.sideRegion d q (((vget (s.grid d).sides q).t).getD 0))

theorem State.regions_getD (s : State) (d q : Nat) (hq : q < 4) :
    (s.regions d).getD q 0 = s.sideRegion d q (((vget (s.grid d).sides q).t).getD 0) := by
  unfold State.regions
  rw [List.getD_eq_getElem?_getD, List.getElem?_map, List.getElem?_range hq]
  rfl

theorem State.regions_top_le (s : State) (d : Nat) : (s.regions d).foldl max 0 ≤ 4 := by
  refine foldl_max_le _ _ _ (Nat.zero_le 4) fun x hx => ?_
  obtain ⟨q, -, rfl⟩ := List.mem_map.1 hx
  exact State.sideRegion_le _ _ _ _

/-- R271, R272: an evaluation shows the highest region and steps every side. -/
theorem State.rtEvaluate_region_sides (s : State) (d : Nat) (hd : d < 4) :
    (s.rtEvaluate d).get (RTS.RTSTAT_REGION d) = (s.regions d).foldl max 0 ∧ ∀ q, q < 4 →
      vget ((s.rtEvaluate d).grid d).sides q = (vget (s.grid d).sides q).step ((s.regions d).getD q 0) (s.get (RTS.RTCFG_RST_MS d)) := by
  unfold State.rtEvaluate
  extract_lets g time regions top side rst s1 s2 s3 iq s4 s5 s6
  have hr1 : s1.get (RTS.RTSTAT_REGION d) = top := by
    have htop : top ≤ 4 := State.regions_top_le s d
    refine (State.get_set_apart _ _ rfl).trans ((State.get_set_self _ _ _ (of_decide_eq_true rfl)).trans (Nat.mod_eq_of_lt ?_))
    exact Nat.lt_of_le_of_lt htop (of_decide_eq_true rfl)
  have hg1 : s1.grids = s.grids := (State.set_grids _ _ _).trans (State.set_grids _ _ _)
  clear_value s1
  have hr2 : s2.get (RTS.RTSTAT_REGION d) = top :=
    (State.get_of_cell (State.cell_set_ne _ _ _ _ (RTS.rtstat_ne_tdist d))).trans hr1
  have hg2 : s2.grids = s.grids := (State.set_grids _ _ _).trans hg1
  clear_value s2
  have hr3 : s3.get (RTS.RTSTAT_REGION d) = top := (State.get_of_cell (State.stepSides_cell s2 d 4 regions rst _)).trans hr2
  have hs3 : ∀ q, q < 4 → vget (s3.grid d).sides q = (vget (s.grid d).sides q).step (regions.getD q 0) rst := fun q hq => by
    refine (State.stepSides_side s2 d 4 regions rst q hd (Nat.le_refl 4)).trans ?_
    rw [if_pos hq, State.sides_of_grids hg2]
  clear_value s3
  have hr5 : s5.get (RTS.RTSTAT_REGION d) = top :=
    (State.get_of_cell (State.cell_set_ne _ _ _ _ (RTS.rtstat_ne_rtout d))).trans
      ((State.get_of_cell (State.cell_set_ne _ _ _ _ (RTS.rtstat_ne_rtout d))).trans
        ((State.get_of_cell (State.modGrid_cell _ _ _ _)).trans hr3))
  have hs5 : (s5.grid d).sides = (s3.grid d).sides :=
    (State.sides_of_grids ((State.set_grids _ _ _).trans (State.set_grids _ _ _)) d).trans
      (State.modGrid_sides s3 d d _ (fun _ => by rfl))
  clear_value s5
  have hr6 : s6.get (RTS.RTSTAT_REGION d) = top := by
    unfold s6
    split
    · rw [State.latchTripped_get _ _ (voteFields_apart_region d) rfl rfl, hr5]
    · exact hr5
  have hs6 : (s6.grid d).sides = (s3.grid d).sides := by
    unfold s6
    split
    · rw [State.latchTripped_sides, hs5]
    · exact hs5
  clear_value s6
  refine ⟨?_, fun q hq => ?_⟩
  · rw [State.refreshGrid_get _ _ (voteFields_apart_region d) (RF.apart_of_addr_ne rfl rfl (RTS.rtstat_ne_gstat d))
      (RTS.rtstat_notMem_outRegs d), hr6]
    rfl
  · rw [State.refreshGrid_sides, hs6, hs3 q hq]
    rfl

/-- R271, R272: the supervisor of a die in service. -/
theorem rtEvaluation_evaluates (d : Fin 4) (s : State) (hn : (vget s.drives d).retired = false) (hr : s.mainRuns = true) :
    Completes (exec (.rtEvaluation d) s) (fun t => t.get (RTS.RTSTAT_REGION d) =
      ((List.range 4).map (fun q => s.sideRegion d q (((vget (s.grid d).sides q).t).getD 0))).foldl max 0 ∧
      ∀ q : Fin 4, vget (t.grid d).sides q =
        (vget (s.grid d).sides q).step (s.sideRegion d q (((vget (s.grid d).sides q).t).getD 0)) (s.get (RTS.RTCFG_RST_MS d))) := by
  refine completes_whileRuns hr (completes_next ?_)
  rw [if_neg (by simp [hn])]
  obtain ⟨hregion, hsides⟩ := State.rtEvaluate_region_sides s d d.isLt
  refine ⟨hregion, fun q => ?_⟩
  rw [hsides q q.isLt, State.regions_getD s d q q.isLt]

/-- R24: the supervisor of a retired die evaluates nothing. -/
theorem rtEvaluation_retired (d : Fin 4) (s : State) (hn : (vget s.drives d).retired = true) (hr : s.mainRuns = true) :
    Completes (exec (.rtEvaluation d) s) (fun t => t = s) := by
  refine completes_whileRuns hr (completes_next ?_)
  rw [if_pos hn]

/-! ### Coast (R265) -/

/-- The vote's fields share no bit with LOCKED. -/
theorem voteFields_apart_locked (d : Nat) : ∀ f ∈ voteFields d, f.apart (GSU.GSTAT_LOCKED d) = true := by
  intro f hf
  simp only [voteFields, List.mem_cons, List.not_mem_nil, or_false] at hf
  rcases hf with rfl | rfl | rfl
  · exact RF.apart_of_addr_ne rfl rfl (RTS.rtstat_ne_gstat d).symm
  · exact RF.apart_of_addr_ne rfl rfl (RTS.rtstat_ne_gstat d).symm
  · refine RF.apart_of_addr_ne rfl rfl ?_
    simp only [GSU.GSTAT_LOCKED, GSU.GSTAT, RTS.RC_SEC_RC_SEC, RTS.RC_SEC]
    omega

theorem State.refreshGrid_locked (s : State) (d : Nat) : (s.refreshGrid d).flag (GSU.GSTAT_LOCKED d) = s.flag (GSU.GSTAT_LOCKED d) := by
  exact State.flag_of_get (State.refreshGrid_get s d (voteFields_apart_locked d) rfl (GSU.gstat_notMem_outRegs d))

theorem State.rcCheck_locked (s : State) (d : Nat) : (s.rcCheck d).flag (GSU.GSTAT_LOCKED d) = s.flag (GSU.GSTAT_LOCKED d) := by
  unfold State.rcCheck
  split
  · rfl
  · exact State.flag_of_get (State.rcRestart_get s d (voteFields_apart_locked d))

/-- R265: 100 ms of coast end the lock. -/
theorem gsuCoastTimeout_unlocks (d : Fin 4) (s : State) (hc : s.flag (GSU.GSTAT_COAST d) = true) (hr : s.mainRuns = true) :
    Completes (exec (.gsuCoastTimeout d) s) (fun t => t.flag (GSU.GSTAT_LOCKED d) = false) := by
  refine completes_whileRuns hr (completes_next ?_)
  rw [if_pos hc, State.refreshGrid_locked, State.rcCheck_locked]
  exact State.flag_setB_self _ _ _ (of_decide_eq_true rfl) (of_decide_eq_true rfl)

/-- Settles O24: one lemma for each command and outcome. -/
theorem rideThrough : Obligations.RideThrough := by
  unfold Obligations.RideThrough
  exact ⟨armWrite_arms, armWrite_refused, armWrite_clears, curveWrite_unarmed, curveWrite_armed, rtEvaluation_evaluates,
    rtEvaluation_retired, gsuCoastTimeout_unlocks⟩

end Sys2Proof.Machine
end

section
/-! SUPPORT. Registers of the map, their parity checks, and reads and writes of one register (for O5 and O6). -/

namespace Sys2Proof.Machine

/-! ### Rows of the register map -/

/-- What the map says of CRCu.POLY. -/
def polyInfo (u : Nat) : RegInfo where
  block := ⟨"CRC", .n, 0x300000, 8, false, regRows_CRC⟩
  inst := u
  row := ⟨"POLY", 0x4, 0x0, 1, 0x0, 1, true, [⟨0, 32, .rw⟩], fun _ _ _ => 0x4C11DB7⟩
  i := 0
  j := 0

theorem regInfo_poly (u : Fin 8) : regInfo (CRC.POLY u) = some (polyInfo u) := by
  fin_cases u <;> rfl

/-- What the map says of CTHR of comparator `i`. -/
def cthrInfo (i : Nat) : RegInfo where
  block := ⟨"CMP", .drive, 0x150000, 1, false, regRows_CMP⟩
  inst := 0
  row := ⟨"CTHR", 0x4, 0x40, 16, 0x0, 1, true, [⟨16, 10, .rw⟩, ⟨0, 12, .rw⟩], fun _ _ _ => 0x80800⟩
  i := i
  j := 0

theorem regInfo_cthr (d : Fin 4) (i : Fin 16) : regInfo (CMP.CTHR d i) = some (cthrInfo i) := by
  fin_cases d <;> fin_cases i <;> rfl

theorem dieOfKey_poly : ∀ u : Fin 8, dieOfKey (CRC.POLY u) = some .n := by decide +kernel

theorem dieOfKey_pcfg : ∀ (d : Fin 4) (j : Fin 6), dieOfKey (PORT.PCFG d j) = some (Die.drive d) := by decide +kernel

theorem dieOfKey_cthr : ∀ (d : Fin 4) (i : Fin 16), dieOfKey (CMP.CTHR d i) = some (Die.drive d) := by decide +kernel

theorem poly_toNat : ∀ (u : Fin 8) (al : Fin 4), (BitVec.ofNat 32 (CRC.POLY u + 0x1000 * al)).toNat = CRC.POLY u + 0x1000 * al := by
  decide +kernel

theorem normalKey_poly : ∀ (c : Fin 2) (u : Fin 8) (al : Fin 4), normalKey c (CRC.POLY u + 0x1000 * al) = CRC.POLY u := by decide +kernel

theorem aliasOf_poly : ∀ (u : Fin 8) (al : Fin 4), aliasOf (CRC.POLY u + 0x1000 * al) = al := by decide +kernel

/-- Does the map hold a register with parity at the key (RWP)? -/
def rwpAt (a : Nat) : Bool :=
  match regInfo a with
  | some r => r.row.rwp
  | none => false

theorem rwpAt_poly : ∀ u : Fin 8, rwpAt (CRC.POLY u) = true := by decide +kernel

theorem rwpAt_pcfg : ∀ (d : Fin 4) (j : Fin 6), rwpAt (PORT.PCFG d j) = true := by decide +kernel

/-! ### Parity checks (R37-R43) -/

theorem State.checkParity_eq (s : State) (a : Nat) (byRead : Bool) :
    s.checkParity a byRead = if rwpAt a && !s.parityOk a then s.parityFailure a byRead else s := by
  unfold State.checkParity rwpAt
  cases regInfo a <;> rfl

theorem State.checkParityClear_eq (s : State) {a : Nat} {e : Die} (byRead : Bool) (m : Nat) (he : dieOfKey a = some e) :
    s.checkParityClear a byRead m = if rwpAt a && !s.parityOk a then (s.parClear e (m &&& 6)).checkParity a byRead
      else (s.parClear e m).checkParity a byRead := by
  unfold State.checkParityClear rwpAt
  rw [he]
  cases regInfo a <;> rfl

theorem State.checkParity_fails (s : State) (a : Nat) (byRead : Bool) (hw : rwpAt a = true) (hp : s.parityOk a = false) :
    s.checkParity a byRead = s.parityFailure a byRead := by
  rw [State.checkParity_eq, hw, hp]
  rfl

theorem State.parityOk_of_cell {s t : State} {a : Nat} (h : t.cell a = s.cell a) : t.parityOk a = s.parityOk a := by
  unfold State.parityOk
  rw [h]

/-- The registers that the record of a parity failure may write. -/
def parityRegs (e : Die) : List Nat := [REGCTL.PAR_STAT e, REGCTL.PAR_FIRST e, REGCTL.PAR_LAST e, KPR.KQ]

theorem parityRegs_distinct (e : Die) : REGCTL.PAR_STAT e ≠ REGCTL.PAR_FIRST e ∧ REGCTL.PAR_STAT e ≠ REGCTL.PAR_LAST e ∧
    REGCTL.PAR_FIRST e ≠ REGCTL.PAR_LAST e ∧ REGCTL.PAR_STAT e ≠ KPR.KQ ∧ REGCTL.PAR_FIRST e ≠ KPR.KQ ∧ REGCTL.PAR_LAST e ≠ KPR.KQ := by
  cases e <;> decide

/-- The state that the record of a failure leaves before the fault history: what the flags and addresses show. -/
def State.parityShown (s : State) (e : Die) (a : Nat) (byRead : Bool) : State :=
  let was := s.flag (REGCTL.PAR_STAT_CFG_PARITY e)
  let s := s.setB (REGCTL.PAR_STAT_CFG_PARITY e) true
  let s := if was then s else s.setReg (REGCTL.PAR_FIRST e) (BitVec.ofNat 32 (coreAddr a))
  let s := (s.setReg (REGCTL.PAR_LAST e) (BitVec.ofNat 32 (coreAddr a))).incSat (REGCTL.PAR_STAT_ERR_CNT e)
  s.setB (if byRead then REGCTL.PAR_STAT_BY_READ e else REGCTL.PAR_STAT_BY_SCRUB e) true

theorem State.parityRecord_cell (s : State) (e : Die) (a : Nat) (byRead : Bool) {x : Nat} (hx : x ≠ KPR.KQ) :
    (s.parityRecord e a byRead).cell x = (s.parityShown e a byRead).cell x := by
  unfold State.parityRecord
  extract_lets was s1 s2 s3 s4
  rw [State.enterFault_cell _ _ _ _ _ _ _ hx, State.countEvent_cell]
  rfl

theorem parityBy_addr (e : Die) (byRead : Bool) :
    (if byRead then REGCTL.PAR_STAT_BY_READ e else REGCTL.PAR_STAT_BY_SCRUB e).addr = REGCTL.PAR_STAT e := by
  cases byRead <;> rfl

theorem State.parityShown_cell_other (s : State) (e : Die) (a : Nat) (byRead : Bool) {x : Nat} (hx : x ∉ parityRegs e) :
    (s.parityShown e a byRead).cell x = s.cell x := by
  simp only [parityRegs, List.mem_cons, List.not_mem_nil, or_false, not_or] at hx
  obtain ⟨h1, h2, h3, -⟩ := hx
  unfold State.parityShown State.incSat State.addSat
  extract_lets was s1 s2 s3
  have e1 : s1.cell x = s.cell x := State.cell_setB_ne _ _ _ _ h1
  have e2 : s2.cell x = s.cell x := by
    unfold s2
    split
    · exact e1
    · rw [State.cell_setReg_ne _ _ _ _ h2, e1]
  rw [State.cell_setB_ne _ _ _ _ (by rw [parityBy_addr]; exact h1)]
  exact (State.cell_set_ne _ _ _ _ h1).trans ((State.cell_setReg_ne _ _ _ _ h3).trans e2)

theorem State.parityShown_cfgParity (s : State) (e : Die) (a : Nat) (byRead : Bool) :
    (s.parityShown e a byRead).flag (REGCTL.PAR_STAT_CFG_PARITY e) = true := by
  obtain ⟨h1, h2, -⟩ := parityRegs_distinct e
  unfold State.parityShown
  extract_lets was s1 s2 s3
  have e1 : s1.flag (REGCTL.PAR_STAT_CFG_PARITY e) = true := State.flag_setB_self _ _ _ (of_decide_eq_true rfl) (of_decide_eq_true rfl)
  have e2 : s2.flag (REGCTL.PAR_STAT_CFG_PARITY e) = true := by
    unfold s2
    split
    · exact e1
    · exact (State.flag_of_cell (State.cell_setReg_ne _ _ _ _ h1)).trans e1
  have e3 : s3.flag (REGCTL.PAR_STAT_CFG_PARITY e) = true :=
    (State.flag_of_get (State.get_incSat_apart _ rfl)).trans ((State.flag_of_cell (State.cell_setReg_ne _ _ _ _ h2)).trans e2)
  clear_value s3
  refine (State.flag_of_get (State.get_setB_apart _ _ ?_)).trans e3
  cases byRead <;> rfl

theorem State.parityShown_by (s : State) (e : Die) (a : Nat) (byRead : Bool) :
    (s.parityShown e a byRead).flag (if byRead then REGCTL.PAR_STAT_BY_READ e else REGCTL.PAR_STAT_BY_SCRUB e) = true := by
  unfold State.parityShown
  exact State.flag_setB_self _ _ _ (by cases byRead <;> exact of_decide_eq_true rfl) (by cases byRead <;> exact of_decide_eq_true rfl)

/-- PAR_FIRST keeps the first failure while CFG_PARITY stands (R38). -/
theorem State.parityShown_first (s : State) (e : Die) (a : Nat) (byRead : Bool) :
    (s.parityShown e a byRead).reg (REGCTL.PAR_FIRST e) =
      if s.flag (REGCTL.PAR_STAT_CFG_PARITY e) then s.reg (REGCTL.PAR_FIRST e) else BitVec.ofNat 32 (coreAddr a) := by
  obtain ⟨h1, -, h3, -⟩ := parityRegs_distinct e
  unfold State.parityShown State.incSat State.addSat
  extract_lets was s1 s2 s3
  have e3 : s3.reg (REGCTL.PAR_FIRST e) = s2.reg (REGCTL.PAR_FIRST e) :=
    (State.reg_setReg_ne _ _ _ _ h1.symm).trans (State.reg_setReg_ne _ _ _ _ h3)
  rw [State.reg_of_cell (State.cell_setB_ne _ _ _ _ (by rw [parityBy_addr]; exact h1.symm)), e3]
  unfold s2 was
  split
  · exact State.reg_setReg_ne _ _ _ _ h1.symm
  · exact State.reg_setReg_self _ _ _

theorem State.parityShown_last (s : State) (e : Die) (a : Nat) (byRead : Bool) :
    (s.parityShown e a byRead).reg (REGCTL.PAR_LAST e) = BitVec.ofNat 32 (coreAddr a) := by
  obtain ⟨-, h2, -⟩ := parityRegs_distinct e
  unfold State.parityShown State.incSat State.addSat
  extract_lets was s1 s2 s3
  rw [State.reg_of_cell (State.cell_setB_ne _ _ _ _ (by rw [parityBy_addr]; exact h2.symm))]
  exact (State.reg_setReg_ne _ _ _ _ h2.symm).trans (State.reg_setReg_self _ _ _)

/-- Registers after a failure on N: what the record shows. -/
theorem State.parityFailure_n_cell (s : State) {a x : Nat} (byRead : Bool) (he : dieOfKey a = some .n) (hx : x ≠ KPR.KQ) :
    (s.parityFailure a byRead).cell x = (s.parityShown .n a byRead).cell x := by
  unfold State.parityFailure
  rw [he]
  dsimp only
  rw [if_neg (by decide), if_pos rfl, State.send_cell, State.cell_of_regs (State.modNet_regs _ _), State.parityRecord_cell _ _ _ _ hx]

/-- Registers after a failure on a drive die: what the record shows, but for those of its trip groups, which see the parity source. -/
theorem State.parityFailure_drive_cell (s : State) (d : Fin 4) {a x : Nat} (byRead : Bool) (he : dieOfKey a = some (Die.drive d))
    (hx : x ≠ KPR.KQ) (ht : x ∉ tripRegs d) : (s.parityFailure a byRead).cell x = (s.parityShown (Die.drive d) a byRead).cell x := by
  have hd : (Die.drive d).isDrive = true ∧ (Die.drive d).driveNo = d := by fin_cases d <;> decide
  unfold State.parityFailure
  rw [he]
  dsimp only
  rw [if_pos hd.1, hd.2, State.refreshTrips_cell _ _ _ ht, State.parityRecord_cell _ _ _ _ hx]

/-! ### A write that clears flags of N's PAR_STAT -/

theorem State.parClear_n_cell_or (s : State) (m : Nat) (x : Nat) : (s.parClear .n m).cell x = s.cell x ∨
    (s.parClear .n m).cell x =
      (s.setReg (REGCTL.PAR_STAT .n) (s.reg (REGCTL.PAR_STAT .n) &&& ~~~(BitVec.ofNat 32 (m % 8)))).cell x := by
  unfold State.parClear
  split
  · exact .inl rfl
  · extract_lets s1 s2
    refine .inr ?_
    rw [if_neg (by decide)]
    unfold s2
    split
    · exact State.cell_of_regs (State.modNet_regs _ _) _
    · rfl

theorem State.parClear_n_cell (s : State) (m : Nat) {x : Nat} (hx : x ≠ REGCTL.PAR_STAT .n) : (s.parClear .n m).cell x = s.cell x := by
  obtain h | h := State.parClear_n_cell_or s m x
  · exact h
  · rw [h, State.cell_setReg_ne _ _ _ _ hx]

theorem getBits_zero_one_andNot (w : Word) (k : Nat) (hk : k.testBit 0 = false) :
    getBits (w &&& ~~~(BitVec.ofNat 32 k)) 0 1 = getBits w 0 1 := by
  apply Nat.eq_of_testBit_eq
  intro i
  rw [getBits_testBit, getBits_testBit]
  by_cases hi : i < 1
  · obtain rfl : i = 0 := by omega
    rw [Nat.zero_add, BitVec.getLsbD_and, BitVec.getLsbD_not, BitVec.getLsbD_ofNat, hk]
    simp
  · simp [hi]

/-- A write that does not clear CFG_PARITY leaves it. -/
theorem State.parClear_n_cfgParity (s : State) (m : Nat) :
    (s.parClear .n (m &&& 6)).flag (REGCTL.PAR_STAT_CFG_PARITY .n) = s.flag (REGCTL.PAR_STAT_CFG_PARITY .n) := by
  obtain h | h := State.parClear_n_cell_or s (m &&& 6) (REGCTL.PAR_STAT .n)
  · exact State.flag_of_cell h
  · refine State.flag_of_get ?_
    have hb : ((m &&& 6) % 8).testBit 0 = false := by
      rw [Nat.testBit_mod_two_pow _ 3, Nat.testBit_and, show Nat.testBit 6 0 = false from rfl, Bool.and_false, Bool.and_false]
    exact (State.get_of_cell (f := REGCTL.PAR_STAT_CFG_PARITY .n) h).trans
      ((State.get_setReg_self s (REGCTL.PAR_STAT_CFG_PARITY .n) _).trans (getBits_zero_one_andNot _ _ hb))

end Sys2Proof.Machine
end

section
/-! SUPPORT and the obligation on lanes and parity (O5). -/

namespace Sys2Proof.Machine

/-! ### A lane is retired (R15) -/

/-- The registers of PI sources and of scans lie nowhere among the link registers. -/
theorem ELINK.stat_ne (e : Die) (k : Nat) : (∀ j, ELINK.STAT e k ≠ SFN.AXSTAT j) ∧ (∀ u, ELINK.STAT e k ≠ CRC.CSTAT u) ∧
    ELINK.STAT e k ≠ KPR.KQ := by
  cases e <;> simp only [ELINK.STAT, Die.base, SFN.AXSTAT, CRC.CSTAT, KPR.KQ] <;>
    exact ⟨fun j => by omega, fun u => by omega, by omega⟩

theorem State.failAllPi_cell (s : State) {x : Nat} (hx : ∀ j, x ≠ SFN.AXSTAT j) : s.failAllPi.cell x = s.cell x := by
  unfold State.failAllPi State.failPi
  refine foldOver_cell _ _ _ _ fun p _ t => foldOver_cell _ _ _ _ fun k _ u => ?_
  split
  · exact (State.cell_setB_ne _ _ _ _ (hx k)).trans (State.cell_of_regs (State.modAxis_regs _ _ _) _)
  · rfl

theorem State.scanFail_cell (s : State) (u : Nat) {x : Nat} (hx : x ≠ CRC.CSTAT u) : (s.scanFail u).cell x = s.cell x := by
  unfold State.scanFail
  rw [State.cell_of_regs (State.modCrc_regs _ _ _), State.cell_setB_ne _ _ _ _ hx, State.cell_setB_ne _ _ _ _ hx]

theorem State.linkLost_cell (s : State) (e f : Die) (k : Nat) {x : Nat} (hpi : ∀ j, x ≠ SFN.AXSTAT j) (hscan : ∀ u, x ≠ CRC.CSTAT u) :
    (s.linkLost e k f).cell x = s.cell x := by
  unfold State.linkLost
  extract_lets s1 other
  have h1 : s1.cell x = s.cell x := by
    unfold s1
    split
    · exact State.failAllPi_cell s hpi
    · rfl
  clear_value s1 other
  split
  · rfl
  · cases other
    case none => exact h1
    case some g =>
      refine (foldOver_cell _ _ _ _ fun u _ t => ?_).trans h1
      split
      · exact State.scanFail_cell t u (hscan u)
      · rfl

theorem State.resend_cell (s : State) (e f : Die) (k x : Nat) (flit : Option (BitVec 72)) : (s.resend e k f flit).cell x = s.cell x := by
  unfold State.resend
  split
  · rfl
  · split
    · exact State.cell_of_regs (State.modLink_regs _ _ _ _) _
    · exact (State.send_cell _ _ _).trans (State.cell_of_regs (State.modLink_regs _ _ _ _) _)

/-- A field of a link register that a retirement leaves: none of LINK_DOWN and RETIRE_CNT, which it writes at both ends. -/
def linkKept (g : RF) : Prop :=
  (∃ e k, g.addr = ELINK.STAT e k) ∧ ∀ e k, (ELINK.STAT_LINK_DOWN e k).apart g = true ∧ (ELINK.STAT_RETIRE_CNT e k).apart g = true

/-- Of the other fields, a retirement writes the lane's bits at both ends only. -/
theorem State.laneRetire_get (s : State) (e f : Die) (k q lane : Nat) (cut : Option (BitVec 72)) {g : RF} (hg : linkKept g) :
    (s.laneRetire e k lane f q cut).get g =
      ((s.setBit (ELINK.STAT_LANE_UP_RX e k) lane false).setBit (ELINK.STAT_LANE_UP_TX f q) lane false).get g := by
  obtain ⟨⟨e', k', ha⟩, hd⟩ := hg
  obtain ⟨hpi, hscan, hq⟩ := ELINK.stat_ne e' k'
  rw [← ha] at hpi hscan hq
  unfold State.laneRetire State.setLane State.refreshLink
  rw [State.get_of_cell (State.linkLost_cell _ _ _ _ hpi hscan), State.get_of_cell (State.resend_cell _ _ _ _ _ _),
    State.get_of_cell (State.recordRetire_cell _ _ _ _ _ hq), State.get_incSat_apart _ (hd f q).2, State.get_incSat_apart _ (hd e k).2,
    State.get_setB_apart _ _ (hd f q).1, State.get_setB_apart _ _ (hd e k).1]

/-- R15: the lane goes down at both ends, and the flag of its fault is set. -/
theorem laneFault_retires (s : State) (e f : Die) (k q : Nat) (lane : Fin 4) (flag : RF) (cut : Option (BitVec 72))
    (hf : e.farEnd k = some (f, q)) (hup : s.bit (ELINK.STAT_LANE_UP_RX e k) lane = true) (hflag : linkKept flag)
    (hrx : (ELINK.STAT_LANE_UP_RX e k).apart flag = true) (htx : (ELINK.STAT_LANE_UP_TX f q).apart flag = true) (hw : 0 < flag.w) :
    Completes (s.laneFault e k lane flag cut) (fun t => t.bit (ELINK.STAT_LANE_UP_RX e k) lane = false ∧
      t.bit (ELINK.STAT_LANE_UP_TX f q) lane = false ∧ t.flag flag = true) := by
  obtain ⟨hfit, -⟩ := (RF.apart_iff _ _).1 hrx
  obtain ⟨-, hfit', -⟩ := (RF.apart_iff _ _).1 hrx
  unfold State.laneFault
  rw [hf]
  refine completes_next ?_
  rw [hup, if_neg (by decide)]
  refine ⟨?_, ?_, ?_⟩
  · rw [State.bit_of_get (State.laneRetire_get _ e f k q lane cut ⟨⟨e, k, rfl⟩, fun _ _ => ⟨rfl, rfl⟩⟩),
      State.bit_of_get (State.get_setBit_apart _ _ _ rfl)]
    exact State.bit_setBit_self _ _ _ _ hfit lane.isLt
  · rw [State.bit_of_get (State.laneRetire_get _ e f k q lane cut ⟨⟨f, q, rfl⟩, fun _ _ => ⟨rfl, rfl⟩⟩)]
    exact State.bit_setBit_self _ _ _ _ (of_decide_eq_true rfl) lane.isLt
  · rw [State.flag_of_get (State.laneRetire_get _ e f k q lane cut hflag), State.flag_of_get (State.get_setBit_apart _ _ _ htx),
      State.flag_of_get (State.get_setBit_apart _ _ _ hrx)]
    exact State.flag_setB_self _ _ _ hfit' hw

theorem laneCodeError_retires (e f : Die) (k : Fin 7) (q : Nat) (lane : Fin 4) (cut : Option (BitVec 72)) (s : State)
    (hf : e.farEnd k = some (f, q)) (hup : s.bit (ELINK.STAT_LANE_UP_RX e k) lane = true) (hr : s.mainRuns = true) :
    Completes (exec (.laneCodeError e k lane cut) s) (fun t => t.bit (ELINK.STAT_LANE_UP_RX e k) lane = false ∧
      t.bit (ELINK.STAT_LANE_UP_TX f q) lane = false ∧ t.flag (ELINK.STAT_LANE_CODE e k) = true) :=
  completes_whileRuns hr (laneFault_retires s e f k q lane _ cut hf hup ⟨⟨e, k, rfl⟩, fun _ _ => ⟨rfl, rfl⟩⟩ rfl rfl
    (of_decide_eq_true rfl))

theorem laneTimeout_retires (e f : Die) (k : Fin 7) (q : Nat) (lane : Fin 4) (cut : Option (BitVec 72)) (s : State)
    (hf : e.farEnd k = some (f, q)) (hup : s.bit (ELINK.STAT_LANE_UP_RX e k) lane = true) (hr : s.mainRuns = true) :
    Completes (exec (.laneTimeout e k lane cut) s) (fun t => t.bit (ELINK.STAT_LANE_UP_RX e k) lane = false ∧
      t.bit (ELINK.STAT_LANE_UP_TX f q) lane = false ∧ t.flag (ELINK.STAT_LANE_TIMEOUT e k) = true) :=
  completes_whileRuns hr (laneFault_retires s e f k q lane _ cut hf hup ⟨⟨e, k, rfl⟩, fun _ _ => ⟨rfl, rfl⟩⟩ rfl rfl
    (of_decide_eq_true rfl))

/-! ### A check of POLY that fails -/

theorem poly_notMem_parityRegs : ∀ u : Fin 8, CRC.POLY u ∉ parityRegs .n := by decide

theorem coreAddr_poly : ∀ u : Fin 8, (BitVec.ofNat 32 (coreAddr (CRC.POLY u))).toNat = CRC.POLY u := by decide +kernel

/-- What a check of POLY that fails leaves in the registers of N, `byRead` found by a read, else by the scrub (R37, R38, R43). -/
structure ParityFound (s t : State) (u : Fin 8) (byRead : Bool) : Prop where
  cfgParity : t.flag (REGCTL.PAR_STAT_CFG_PARITY .n) = true
  found : t.flag (if byRead then REGCTL.PAR_STAT_BY_READ .n else REGCTL.PAR_STAT_BY_SCRUB .n) = true
  first : t.reg (REGCTL.PAR_FIRST .n) = if s.flag (REGCTL.PAR_STAT_CFG_PARITY .n) then s.reg (REGCTL.PAR_FIRST .n)
    else BitVec.ofNat 32 (coreAddr (CRC.POLY u))
  last : t.reg (REGCTL.PAR_LAST .n) = BitVec.ofNat 32 (coreAddr (CRC.POLY u))
  kept : t.cell (CRC.POLY u) = s.cell (CRC.POLY u)

theorem State.checkParityClear_poly_fails (s : State) (u : Fin 8) (byRead : Bool) (m : Nat) (hp : s.parityOk (CRC.POLY u) = false) :
    ParityFound s (s.checkParityClear (CRC.POLY u) byRead m) u byRead := by
  have hpoly : CRC.POLY u ≠ REGCTL.PAR_STAT .n ∧ CRC.POLY u ≠ KPR.KQ := by
    have h := poly_notMem_parityRegs u
    simp only [parityRegs, List.mem_cons, not_or] at h
    exact ⟨h.1, h.2.2.2.1⟩
  have hp' : (s.parClear .n (m &&& 6)).parityOk (CRC.POLY u) = false :=
    (State.parityOk_of_cell (State.parClear_n_cell s _ hpoly.1)).trans hp
  rw [State.checkParityClear_eq s byRead m (dieOfKey_poly u), if_pos (by rw [rwpAt_poly, hp]; rfl),
    State.checkParity_fails _ _ _ (rwpAt_poly u) hp']
  have hcell : ∀ x, x ≠ KPR.KQ → ((s.parClear .n (m &&& 6)).parityFailure (CRC.POLY u) byRead).cell x =
      ((s.parClear .n (m &&& 6)).parityShown .n (CRC.POLY u) byRead).cell x :=
    fun x hx => State.parityFailure_n_cell _ byRead (dieOfKey_poly u) hx
  refine ⟨?_, ?_, ?_, ?_, ?_⟩
  · exact (State.flag_of_cell (hcell _ (by decide))).trans (State.parityShown_cfgParity _ _ _ _)
  · exact (State.flag_of_cell (hcell _ (by cases byRead <;> decide))).trans (State.parityShown_by _ _ _ _)
  · rw [State.reg_of_cell (hcell _ (by decide)), State.parityShown_first, State.parClear_n_cfgParity,
      State.reg_of_cell (State.parClear_n_cell _ _ (by decide))]
  · rw [State.reg_of_cell (hcell _ (by decide)), State.parityShown_last]
  · rw [hcell _ hpoly.2, State.parityShown_cell_other _ _ _ _ (poly_notMem_parityRegs u), State.parClear_n_cell _ _ hpoly.1]

/-- A check of POLY with correct parity: a write of PAR_STAT in the same cycle sends nothing and leaves POLY. -/
theorem State.checkParityClear_poly_ok (s : State) (u : Fin 8) (byRead : Bool) (m : Nat) (hp : s.parityOk (CRC.POLY u) = true) :
    (s.checkParityClear (CRC.POLY u) byRead m).cell (CRC.POLY u) = s.cell (CRC.POLY u) ∧
      (s.checkParityClear (CRC.POLY u) byRead m).out = s.out := by
  have hpoly : CRC.POLY u ≠ REGCTL.PAR_STAT .n := by
    have h := poly_notMem_parityRegs u
    simp only [parityRegs, List.mem_cons, not_or] at h
    exact h.1
  have hcell := State.parClear_n_cell s m hpoly
  have hOpen : ∀ p, p ≠ .out → Open (fun p => p = Part.out) p := fun p h => open_of_eq h
  have := hOpen .regs (by decide)
  have := hOpen .ports (by decide)
  have := hOpen .tgs (by decide)
  have := hOpen .drives (by decide)
  have := hOpen .net (by decide)
  rw [State.checkParityClear_eq s byRead m (dieOfKey_poly u), if_neg (by rw [hp]; simp),
    State.checkParity_of_ok _ _ _ ((State.parityOk_of_cell hcell).trans hp)]
  exact ⟨hcell, (State.parClear_keeps (F := fun p => p = .out) (Keeps.refl _ s) .n m).same .out rfl⟩

/-! ### Reads of POLY -/

/-- POLY is no half of a pair, and its read captures nothing. -/
theorem poly_noPair : ∀ u : Fin 8, CRC.POLY u ≠ RTC.RTC_SUB ∧ CRC.POLY u ≠ TIME.LT_NS ∧
    (List.range 4).find? (fun d => decide (CRC.POLY u = TRIP.TTIME_LO d)) = none ∧
    (List.range 39).find? (fun i => decide (CRC.POLY u = MP.ACC_LO (i / 13) (i % 13))) = none := by decide +kernel

theorem poly_noHold : ∀ u : Fin 8, CRC.POLY u ≠ RTC.RTC_SEC ∧ CRC.POLY u ≠ TIME.LT_SEC_LO ∧ CRC.POLY u ≠ TIME.LT_SEC_HI ∧
    (List.range 4).find? (fun d => decide (CRC.POLY u = TRIP.TTIME_HI d)) = none ∧
    (List.range 39).find? (fun i => decide (CRC.POLY u = MP.ACC_HI (i / 13) (i % 13))) = none := by decide +kernel

/-- A read of POLY returns the stored content and changes nothing (R39). -/
theorem State.readWord_poly (s : State) (u : Fin 8) : s.readWord (CRC.POLY u) = ((s.reg (CRC.POLY u)).toNat, s) := by
  obtain ⟨h1, h2, h3, h4⟩ := poly_noPair u
  obtain ⟨g1, g2, g3, g4, g5⟩ := poly_noHold u
  have hcapture : s.captureFor (CRC.POLY u) = s := by
    unfold State.captureFor
    rw [if_neg h1, if_neg h2, h3, h4]
  have hheld : s.heldWord (CRC.POLY u) = none := by
    unfold State.heldWord
    rw [if_neg g1, if_neg g2, if_neg g3, g4, g5]
  have hshown : s.shownWord (CRC.POLY u) = s.reg (CRC.POLY u) := by
    unfold State.shownWord
    rw [regInfo_poly]
    rfl
  unfold State.readWord
  rw [hcapture]
  dsimp only
  rw [hheld, hshown]

/-- A read of POLY by a core: the check, then the word that the read returns. -/
theorem execRwpRead_poly (c : Fin 2) (u : Fin 8) (clr : BitVec 3) (s : State) (hr : s.mainRuns = true) :
    exec (.rwpRead c (BitVec.ofNat 32 (CRC.POLY u)) clr) s = .next ((s.checkParityClear (CRC.POLY u) true clr.toNat).send
      ⟨.readReturn, (Die.command c).code, [CRC.POLY u, ((s.checkParityClear (CRC.POLY u) true clr.toNat).reg (CRC.POLY u)).toNat]⟩) := by
  refine (whileRuns_running _ hr).trans ?_
  have ha : (BitVec.ofNat 32 (CRC.POLY u)).toNat = CRC.POLY u := poly_toNat u 0
  have hk : normalKey c (CRC.POLY u) = CRC.POLY u := normalKey_poly c u 0
  dsimp only
  rw [ha, hk, State.readWord_poly]

/-- R37, R38: a read that finds the first failure. -/
theorem rwpRead_finds_first (c : Fin 2) (u : Fin 8) (clr : BitVec 3) (s : State) (hp : s.parityOk (CRC.POLY u) = false)
    (hfirst : s.flag (REGCTL.PAR_STAT_CFG_PARITY .n) = false) (hr : s.mainRuns = true) :
    Completes (exec (.rwpRead c (BitVec.ofNat 32 (CRC.POLY u)) clr) s) (fun t => t.flag (REGCTL.PAR_STAT_CFG_PARITY .n) = true ∧
      t.flag (REGCTL.PAR_STAT_BY_READ .n) = true ∧ (t.reg (REGCTL.PAR_FIRST .n)).toNat = CRC.POLY u ∧
      t.cell (CRC.POLY u) = s.cell (CRC.POLY u)) := by
  rw [execRwpRead_poly c u clr s hr]
  have h := State.checkParityClear_poly_fails s u true clr.toNat hp
  refine completes_next ⟨h.cfgParity, h.found, ?_, h.kept⟩
  have hf := h.first
  rw [hfirst, if_neg (by decide)] at hf
  exact (congrArg BitVec.toNat hf).trans (coreAddr_poly u)

/-- R38, R43: a read that finds a further failure leaves PAR_FIRST. -/
theorem rwpRead_finds_further (c : Fin 2) (u : Fin 8) (clr : BitVec 3) (s : State) (hp : s.parityOk (CRC.POLY u) = false)
    (hfirst : s.flag (REGCTL.PAR_STAT_CFG_PARITY .n) = true) (hr : s.mainRuns = true) :
    Completes (exec (.rwpRead c (BitVec.ofNat 32 (CRC.POLY u)) clr) s) (fun t => t.flag (REGCTL.PAR_STAT_CFG_PARITY .n) = true ∧
      t.reg (REGCTL.PAR_FIRST .n) = s.reg (REGCTL.PAR_FIRST .n) ∧ (t.reg (REGCTL.PAR_LAST .n)).toNat = CRC.POLY u) := by
  rw [execRwpRead_poly c u clr s hr]
  have h := State.checkParityClear_poly_fails s u true clr.toNat hp
  refine completes_next ⟨h.cfgParity, ?_, (congrArg BitVec.toNat h.last).trans (coreAddr_poly u)⟩
  have hf := h.first
  rw [hfirst, if_pos rfl] at hf
  exact hf

theorem State.out_send (s : State) (m : Msg) : (s.send m).out = m :: s.out := rfl

/-- R30, R37: a read of a register with correct parity returns its content. -/
theorem rwpRead_returns (c : Fin 2) (u : Fin 8) (clr : BitVec 3) (s : State) (hp : s.parityOk (CRC.POLY u) = true) (hr : s.mainRuns = true) :
    Completes (exec (.rwpRead c (BitVec.ofNat 32 (CRC.POLY u)) clr) s) (fun t =>
      t.out = ⟨.readReturn, (Die.command c).code, [CRC.POLY u, (s.reg (CRC.POLY u)).toNat]⟩ :: s.out) := by
  rw [execRwpRead_poly c u clr s hr]
  obtain ⟨hcell, hout⟩ := State.checkParityClear_poly_ok s u true clr.toNat hp
  refine completes_next ?_
  rw [State.out_send, State.reg_of_cell hcell, hout]

/-! ### FLT_USE and the scrub -/

theorem State.cell_putCell_self (s : State) (a : Nat) (c : RegCell) : (s.putCell a c).cell a = c := by
  unfold State.cell State.putCell
  by_cases h : c = ⟨resetWord a, parityOf (resetWord a)⟩
  · simp [h, Assoc.get_del_self]
  · simp [h, Assoc.get_put_self]

theorem pcfg_notMem_tripRegs (d : Fin 4) (j : Fin 6) : PORT.PCFG d j ∉ tripRegs d := by
  revert d j
  decide

theorem pcfg_ne_fltstat (d j : Nat) : PORT.PCFG d j ≠ PORT.FLTSTAT d j := by
  simp only [PORT.PCFG, PORT.FLTSTAT]
  omega

theorem parStat_notMem_tripRegs : ∀ d : Fin 4, REGCTL.PAR_STAT (Die.drive d) ∉ tripRegs d ∧ REGCTL.PAR_FIRST (Die.drive d) ∉ tripRegs d := by
  decide

theorem parStat_ne_port : ∀ (d : Fin 4) (j : Fin 6), REGCTL.PAR_STAT (Die.drive d) ≠ PORT.FLTSTAT d j ∧
    REGCTL.PAR_FIRST (Die.drive d) ≠ PORT.FLTSTAT d j ∧ REGCTL.PAR_STAT (Die.drive d) ≠ PORT.PCFG d j ∧
    REGCTL.PAR_FIRST (Die.drive d) ≠ PORT.PCFG d j := by decide

theorem coreAddr_pcfg : ∀ (d : Fin 4) (j : Fin 6), (BitVec.ofNat 32 (coreAddr (PORT.PCFG d j))).toNat = PORT.PCFG d j := by decide +kernel

theorem State.bothOffIn_cell (s : State) (d j a : Nat) (next : Bool) (h : a ∉ outRegs d) : (s.bothOffIn d j next).cell a = s.cell a := by
  unfold State.bothOffIn
  rw [State.modPort_cell, State.turnOffIn_cell _ _ _ _ _ _ h, State.turnOffIn_cell _ _ _ _ _ _ h]

/-- Beside PCFG itself, a write of it touches FLTSTAT of the port and the registers of the die's outputs and trip groups only. -/
theorem State.pcfgApply_cell (s : State) (d j : Nat) (w : Word) {x : Nat} (hj : j < 6) (hx : x ∉ tripRegs d) (hf : x ≠ PORT.FLTSTAT d j) :
    (s.pcfgApply d j w).cell x = (s.setReg (PORT.PCFG d j) w).cell x := by
  have hout : x ∉ outRegs d := fun e => hx (List.mem_append_right _ e)
  have hchop : x ≠ (PORT.CHOP_STAT_CHOP_ON d j).addr := fun e => hout (e ▸ chopStat_mem d j hj)
  unfold State.pcfgApply
  extract_lets use chop side s1 s2 k t s3
  have h2 : s2.cell x = s1.cell x := by
    unfold s2
    split
    · exact (State.modPort_cell _ _ _ _ _).trans (State.cell_set_ne _ _ _ _ hf)
    · split
      · exact State.modPort_cell _ _ _ _ _
      · rfl
  clear_value s2
  have ht : t.cell x = s2.cell x := State.bothOffIn_cell _ _ _ _ _ hout
  clear_value t
  have hoff : ((s2.bothOffIn d j true).setB (PORT.CHOP_STAT_CHOP_ON d j) false).cell x = s2.cell x :=
    (State.cell_setB_ne _ _ _ _ hchop).trans (State.bothOffIn_cell _ _ _ _ _ hout)
  have h3 : s3.cell x = s2.cell x := by
    unfold s3
    split
    · exact (State.modPort_cell _ _ _ _ _).trans hoff
    · split
      · split
        · exact ht
        · split
          · exact (State.enterSafe_cell _ _ _ _ _ hx).trans ht
          · exact (State.modPort_cell _ _ _ _ _).trans ht
      · split
        · exact hoff
        · rfl
  rw [State.refreshTrips_cell _ _ _ hx, h3, h2]

/-- R38, R41: a write of FLT_USE begins with a read, whose check records the failure; the write then gives fresh parity. -/
theorem fltUseWrite_finds_first (d : Fin 4) (j : Fin 6) (use : Bool) (s : State) (hp : s.parityOk (PORT.PCFG d j) = false)
    (hfirst : s.flag (REGCTL.PAR_STAT_CFG_PARITY (Die.drive d)) = false) (hr : s.mainRuns = true) :
    Completes (exec (.fltUseWrite d j use) s) (fun t => t.flag (REGCTL.PAR_STAT_CFG_PARITY (Die.drive d)) = true ∧
      (t.reg (REGCTL.PAR_FIRST (Die.drive d))).toNat = PORT.PCFG d j ∧ t.faultUsed d j = use ∧ t.parityOk (PORT.PCFG d j) = true) := by
  refine completes_whileRuns hr (completes_next ?_)
  rw [State.checkParity_fails _ _ _ (rwpAt_pcfg d j) hp]
  generalize hw : putBits ((s.parityFailure (PORT.PCFG d j) true).reg (PORT.PCFG d j)) 0 1 (if use = true then 1 else 0) = w
  obtain ⟨hstat, hfirstReg⟩ := parStat_notMem_tripRegs d
  obtain ⟨hstat', hfirst', hstatP, hfirstP⟩ := parStat_ne_port d j
  have hkq : REGCTL.PAR_STAT (Die.drive d) ≠ KPR.KQ ∧ REGCTL.PAR_FIRST (Die.drive d) ≠ KPR.KQ :=
    ⟨(parityRegs_distinct _).2.2.2.1, (parityRegs_distinct _).2.2.2.2.1⟩
  have hcell : ∀ x, x ∉ tripRegs d → x ≠ PORT.FLTSTAT d j → x ≠ PORT.PCFG d j → x ≠ KPR.KQ →
      ((s.parityFailure (PORT.PCFG d j) true).pcfgApply d j w).cell x =
        (s.parityShown (Die.drive d) (PORT.PCFG d j) true).cell x := fun x h1 h2 h3 h4 => by
    rw [State.pcfgApply_cell _ _ _ _ j.isLt h1 h2, State.cell_setReg_ne _ _ _ _ h3,
      State.parityFailure_drive_cell s d true (dieOfKey_pcfg d j) h4 h1]
  have hself : ((s.parityFailure (PORT.PCFG d j) true).pcfgApply d j w).cell (PORT.PCFG d j) = ⟨w, parityOf w⟩ := by
    rw [State.pcfgApply_cell _ _ _ _ j.isLt (pcfg_notMem_tripRegs d j) (pcfg_ne_fltstat d j), State.cell_setReg_self]
  refine ⟨?_, ?_, ?_, ?_⟩
  · exact (State.flag_of_cell (hcell _ hstat hstat' hstatP hkq.1)).trans (State.parityShown_cfgParity _ _ _ _)
  · rw [State.reg_of_cell (hcell _ hfirstReg hfirst' hfirstP hkq.2), State.parityShown_first, hfirst, if_neg (by decide)]
    exact coreAddr_pcfg d j
  · unfold State.faultUsed State.flag State.get State.reg
    rw [show (PORT.PCFG_FLT_USE d j).addr = PORT.PCFG d j from rfl, hself, ← hw]
    dsimp only
    rw [show (PORT.PCFG_FLT_USE d j).lo = 0 from rfl, show (PORT.PCFG_FLT_USE d j).w = 1 from rfl, getBits_putBits_self _ _ _ _ (by decide)]
    cases use <;> rfl
  · unfold State.parityOk
    rw [hself]
    exact decide_eq_true rfl

theorem poly_ne_scrub : ∀ u : Fin 8, CRC.POLY u ≠ REGCTL.SCRUB .n := by decide

theorem implemented_poly : ∀ u : Fin 8, (polyInfo u).implemented = BitVec.allOnes 32 := by decide +kernel

/-- Upsets of POLY flip its bits; its parity stays as it was stored. -/
theorem State.upset_poly_cell (s : State) (u : Fin 8) (bits : Word) :
    (s.upset (CRC.POLY u) bits).cell (CRC.POLY u) = ⟨s.reg (CRC.POLY u) ^^^ bits, (s.cell (CRC.POLY u)).par⟩ := by
  unfold State.upset
  rw [regInfo_poly]
  dsimp only
  rw [State.cell_putCell_self, implemented_poly, BitVec.and_allOnes]

/-- R37, R38: the scrub finds upsets of a register and leaves them. -/
theorem ma3Scrub_finds (u : Fin 8) (bits : BitVec 32) (last : Bool) (clr : BitVec 3) (s : State)
    (hp : parityOf (s.reg (CRC.POLY u) ^^^ bits) ≠ (s.cell (CRC.POLY u)).par) (hr : s.mainRuns = true) :
    Completes (exec (.ma3Scrub (CRC.POLY u) bits last clr) s) (fun t => t.flag (REGCTL.PAR_STAT_CFG_PARITY .n) = true ∧
      t.flag (REGCTL.PAR_STAT_BY_SCRUB .n) = true ∧ t.reg (CRC.POLY u) = s.reg (CRC.POLY u) ^^^ bits) := by
  refine completes_whileRuns hr (completes_next ?_)
  rw [regInfo_poly, dieOfKey_poly]
  dsimp only
  rw [if_neg (by rw [show (polyInfo u).row.rwp = true from rfl]; decide)]
  have hbad : (s.upset (CRC.POLY u) bits).parityOk (CRC.POLY u) = false := by
    unfold State.parityOk
    rw [State.upset_poly_cell]
    exact decide_eq_false (fun h => hp h.symm)
  have h := State.checkParityClear_poly_fails _ u false clr.toNat hbad
  generalize (s.upset (CRC.POLY u) bits).checkParityClear (CRC.POLY u) false clr.toNat = t at h ⊢
  have hreg : t.reg (CRC.POLY u) = s.reg (CRC.POLY u) ^^^ bits := by
    unfold State.reg
    rw [h.kept, State.upset_poly_cell]
    rfl
  split
  · unfold State.incMod
    refine ⟨?_, ?_, ?_⟩
    · exact (State.flag_of_cell (State.cell_set_ne _ _ _ _ (by decide))).trans h.cfgParity
    · exact (State.flag_of_cell (State.cell_set_ne _ _ _ _ (by decide))).trans h.found
    · exact (State.reg_of_cell (State.cell_set_ne _ _ _ _ (poly_ne_scrub u))).trans hreg
  · exact ⟨h.cfgParity, h.found, hreg⟩

/-- Settles O5: one lemma for each command and outcome. -/
theorem lanesAndParity : Obligations.LanesAndParity := by
  unfold Obligations.LanesAndParity
  exact ⟨laneCodeError_retires, laneTimeout_retires, rwpRead_finds_first, fltUseWrite_finds_first, rwpRead_returns, rwpRead_finds_further,
    ma3Scrub_finds⟩

end Sys2Proof.Machine
end

section
/-! SUPPORT and the obligation on accesses and arrivals (O6): what a write of POLY and of CTHR leaves, and each command's clause. -/

namespace Sys2Proof.Machine

/-! ### Access faults (R26, R27, R29) -/

theorem State.modCmd_sameBut (s : State) (c : Nat) (f : CmdDie → CmdDie) : SameBut [.cmds] s (s.modCmd c f) :=
  have : Open (fun p => p ∉ [Part.cmds]) .cmds := open_of_mem (by decide)
  Keeps.sameBut (State.modCmd_keeps (Keeps.refl _ s) c f)

/-- The fault that a core has taken, and nothing else. -/
theorem State.takeFault_effect (s : State) (c : Fin 2) (k : Fin 4) (x : AccessFault) :
    vget ((s.modCmd c (fun y => { y with faults := vset y.faults k (some x) })).cmd c).faults k = some x ∧
      SameBut [.cmds] s (s.modCmd c (fun y => { y with faults := vset y.faults k (some x) })) := by
  refine ⟨?_, State.modCmd_sameBut _ _ _⟩
  unfold State.cmd
  rw [State.modCmd_cmds, vget_vmod_self _ _ _ c.isLt]
  exact vget_vset_self _ _ _ k.isLt

theorem coreAccessFault_taken (c : Fin 2) (k : Fin 4) (a : BitVec 32) (write : Bool) (size : Fin 9) (s : State)
    (hf : accessFaults a.toNat size write = true) (hr : s.mainRuns = true) :
    Completes (exec (.coreAccessFault c k a write size) s) (fun t => vget (t.cmd c).faults k = some ⟨a.toNat, write⟩ ∧ SameBut [.cmds] s t) := by
  refine completes_whileRuns hr (completes_next ?_)
  rw [if_pos hf]
  exact State.takeFault_effect s c k _

theorem registerWrite_faults (c : Fin 2) (k : Fin 4) (a w : BitVec 32) (s : State) (hc : s.coreRuns c k = true)
    (hf : accessFaults a.toNat 4 true = true) (hr : s.mainRuns = true) :
    Completes (exec (.registerWrite (.core c k) a w) s) (fun t => vget (t.cmd c).faults k = some ⟨a.toNat, true⟩ ∧ SameBut [.cmds] s t) := by
  refine completes_whileRuns hr (completes_next ?_)
  dsimp only
  unfold State.coreWrite
  rw [hc, if_neg (by decide), if_pos hf]
  exact State.takeFault_effect s c k _

/-! ### The word that a write leaves (R32) -/

theorem getBits_full (w : Word) : getBits w 0 32 = w.toNat := by
  unfold getBits
  rw [Nat.shiftRight_zero]
  exact Nat.mod_eq_of_lt w.isLt

theorem putBits_full (w : Word) (x : Nat) : putBits w 0 32 x = BitVec.ofNat 32 x := by
  have h : maskOf 0 32 = BitVec.allOnes 32 := by decide
  unfold putBits
  rw [h, BitVec.not_allOnes, BitVec.and_zero, BitVec.zero_or, BitVec.shiftLeft_zero]
  apply BitVec.eq_of_toNat_eq
  rw [BitVec.toNat_ofNat, BitVec.toNat_ofNat, Nat.mod_mod]

/-- POLY is one field of 32 bits: a write leaves what its access code gives. -/
theorem written_poly (u al : Nat) (old d : Word) :
    (polyInfo u).row.written al old d = BitVec.ofNat 32 (Acc.rw.written al old.toNat d.toNat) := by
  show putBits old 0 32 (Acc.rw.written al (getBits old 0 32) (getBits d 0 32)) = _
  rw [putBits_full, getBits_full, getBits_full]

theorem acc_rw_normal (v d : Word) : BitVec.ofNat 32 (Acc.rw.written 0 v.toNat d.toNat) = d := by
  show BitVec.ofNat 32 d.toNat = d
  rw [BitVec.ofNat_toNat, BitVec.setWidth_eq]

theorem acc_rw_set (v d : Word) : BitVec.ofNat 32 (Acc.rw.written 1 v.toNat d.toNat) = v ||| d := by
  show BitVec.ofNat 32 (v.toNat ||| d.toNat) = _
  rw [← BitVec.toNat_or, BitVec.ofNat_toNat, BitVec.setWidth_eq]

theorem acc_rw_toggle (v d : Word) : BitVec.ofNat 32 (Acc.rw.written 3 v.toNat d.toNat) = v ^^^ d := by
  show BitVec.ofNat 32 (v.toNat ^^^ d.toNat) = _
  rw [← BitVec.toNat_xor, BitVec.ofNat_toNat, BitVec.setWidth_eq]

theorem acc_rw_clear (v d : Word) : BitVec.ofNat 32 (Acc.rw.written 2 v.toNat d.toNat) = v &&& ~~~d := by
  show BitVec.ofNat 32 (v.toNat ^^^ (v.toNat &&& d.toNat)) = _
  rw [← BitVec.toNat_and, ← BitVec.toNat_xor, BitVec.ofNat_toNat, BitVec.setWidth_eq]
  ext i hi
  cases hv : v[i] <;> simp [hv]

/-! ### A write of POLY -/

theorem applyReg_poly (s : State) (u a : Nat) (w act clr : Word) (al : Nat) (dat : Word) :
    s.applyReg (polyInfo u) a w act clr al dat = s.setReg a w := rfl

theorem poly_aligned : ∀ u : Fin 8, CRC.POLY u % 4 = 0 ∧ inMemWindow (CRC.POLY u) = false := by decide +kernel

/-- A check of POLY leaves its content, failed or not (R38). -/
theorem State.checkParity_poly_cell (s : State) (u : Fin 8) (byRead : Bool) :
    (s.checkParity (CRC.POLY u) byRead).cell (CRC.POLY u) = s.cell (CRC.POLY u) := by
  have hkq : CRC.POLY u ≠ KPR.KQ := by
    have h := poly_notMem_parityRegs u
    simp only [parityRegs, List.mem_cons, not_or] at h
    exact h.2.2.2.1
  rw [State.checkParity_eq]
  split
  · rw [State.parityFailure_n_cell _ _ (dieOfKey_poly u) hkq, State.parityShown_cell_other _ _ _ _ (poly_notMem_parityRegs u)]
  · rfl

/-- What a write leaves in POLY through each of its aliases; only the normal one acts on data 0 (R35). -/
theorem State.writeAt_poly (s : State) (u : Fin 8) (al : Nat) (d : Word) (h : al = 0 ∨ d ≠ 0) :
    (s.writeAt (CRC.POLY u) al d).reg (CRC.POLY u) = BitVec.ofNat 32 (Acc.rw.written al (s.reg (CRC.POLY u)).toNat d.toNat) := by
  obtain ⟨h4, hwin⟩ := poly_aligned u
  unfold State.writeAt
  rw [if_neg (by rw [h4]; decide), hwin, if_neg (by decide), regInfo_poly]
  dsimp only
  rw [if_neg (by tauto), applyReg_poly, State.reg_setReg_self, implemented_poly, BitVec.and_allOnes, written_poly]
  have hreg : (if al ≠ 0 then s.checkParity (CRC.POLY u) true else s).reg (CRC.POLY u) = s.reg (CRC.POLY u) := by
    split
    · exact State.reg_of_cell (State.checkParity_poly_cell s u true)
    · rfl
  rw [hreg]

/-- A write by an address of the core map reaches POLY through the one of its aliases that the address names. -/
theorem State.writeAddr_poly (s : State) (c : Fin 2) (u : Fin 8) (al : Fin 4) (d : Word) :
    s.writeAddr c (CRC.POLY u + 0x1000 * al) d = s.writeAt (CRC.POLY u) al d := by
  unfold State.writeAddr
  rw [normalKey_poly, aliasOf_poly]

/-- R32: what a write by an engine leaves in POLY through each of its aliases. -/
theorem registerWrite_engine_poly (u : Fin 8) (al : Fin 4) (w : BitVec 32) (s : State) (hal : al = 0 ∨ w ≠ 0) (hr : s.mainRuns = true) :
    Completes (exec (.registerWrite .engine (BitVec.ofNat 32 (CRC.POLY u + 0x1000 * al)) w) s) (fun t =>
      t.reg (CRC.POLY u) = BitVec.ofNat 32 (Acc.rw.written al (s.reg (CRC.POLY u)).toNat w.toNat)) := by
  refine completes_whileRuns hr (completes_next ?_)
  dsimp only
  have haddr : s.writeAddr 0 (CRC.POLY u + 0x1000 * al) w = s.writeAt (CRC.POLY u) al w := State.writeAddr_poly s 0 u al w
  rw [poly_toNat, haddr]
  exact State.writeAt_poly s u al w (hal.imp_left fun h => by rw [h]; rfl)

theorem registerWrite_normal (u : Fin 8) (w : BitVec 32) (s : State) (hr : s.mainRuns = true) :
    Completes (exec (.registerWrite .engine (BitVec.ofNat 32 (CRC.POLY u)) w) s) (fun t => t.reg (CRC.POLY u) = w) := by
  obtain ⟨t, ht, h⟩ := registerWrite_engine_poly u 0 w s (.inl rfl) hr
  exact ⟨t, ht, h.trans (acc_rw_normal _ _)⟩

theorem registerWrite_set (u : Fin 8) (w : BitVec 32) (s : State) (hw : w ≠ 0) (hr : s.mainRuns = true) :
    Completes (exec (.registerWrite .engine (BitVec.ofNat 32 (CRC.POLY u + 0x1000)) w) s) (fun t =>
      t.reg (CRC.POLY u) = s.reg (CRC.POLY u) ||| w) := by
  obtain ⟨t, ht, h⟩ := registerWrite_engine_poly u 1 w s (.inr hw) hr
  exact ⟨t, ht, h.trans (acc_rw_set _ _)⟩

theorem registerWrite_clear (u : Fin 8) (w : BitVec 32) (s : State) (hw : w ≠ 0) (hr : s.mainRuns = true) :
    Completes (exec (.registerWrite .engine (BitVec.ofNat 32 (CRC.POLY u + 0x2000)) w) s) (fun t =>
      t.reg (CRC.POLY u) = s.reg (CRC.POLY u) &&& ~~~w) := by
  obtain ⟨t, ht, h⟩ := registerWrite_engine_poly u 2 w s (.inr hw) hr
  exact ⟨t, ht, h.trans (acc_rw_clear _ _)⟩

theorem registerWrite_toggle (u : Fin 8) (w : BitVec 32) (s : State) (hw : w ≠ 0) (hr : s.mainRuns = true) :
    Completes (exec (.registerWrite .engine (BitVec.ofNat 32 (CRC.POLY u + 0x3000)) w) s) (fun t =>
      t.reg (CRC.POLY u) = s.reg (CRC.POLY u) ^^^ w) := by
  obtain ⟨t, ht, h⟩ := registerWrite_engine_poly u 3 w s (.inr hw) hr
  exact ⟨t, ht, h.trans (acc_rw_toggle _ _)⟩

/-! ### A write of CTHR -/

theorem applyReg_cthr (s : State) (d : Fin 4) (i : Fin 16) (w act clr : Word) (al : Nat) (dat : Word) :
    s.applyReg (cthrInfo i) (CMP.CTHR d i) w act clr al dat = s.cthrApply d i w := by
  have hd : (Die.drive d).driveNo = d := by fin_cases d <;> rfl
  unfold State.applyReg
  rw [dieOfKey_cthr]
  dsimp only
  rw [hd]
  rfl

theorem getBits_and (v w : Word) (lo n : Nat) : getBits (v &&& w) lo n = getBits v lo n &&& getBits w lo n := by
  apply Nat.eq_of_testBit_eq
  intro i
  rw [Nat.testBit_and, getBits_testBit, getBits_testBit, getBits_testBit, BitVec.getLsbD_and]
  cases decide (i < n) <;> simp

/-- THRESH of the word that a normal write leaves in CTHR. -/
theorem thresh_written (i : Fin 16) (old d : Word) :
    getBits ((cthrInfo i).row.written 0 old d &&& (cthrInfo i).implemented) 0 12 = getBits d 0 12 := by
  have himpl : getBits (cthrInfo i).implemented 0 12 = 2 ^ 12 - 1 := by revert i; decide +kernel
  have hrow : (cthrInfo i).row.written 0 old d = putBits (putBits old 16 10 (getBits d 16 10)) 0 12 (getBits d 0 12) := rfl
  rw [getBits_and, himpl, hrow, getBits_putBits_self _ _ _ _ (by decide), Nat.and_two_pow_sub_one_eq_mod, Nat.mod_mod,
    Nat.mod_eq_of_lt (getBits_lt _ _ _)]

theorem cthr_plain : ∀ (d : Fin 4) (i : Fin 16), CMP.CTHR d i % 4 = 0 ∧ inMemWindow (CMP.CTHR d i) = false ∧
    (∀ c : Fin 2, normalKey c (CMP.CTHR d i) = CMP.CTHR d i) ∧ aliasOf (CMP.CTHR d i) = 0 := by decide +kernel

/-- A write of CTHR, as a command die addresses it, gives THRESH its bits. -/
theorem State.writeAddr_thresh (s : State) (c : Fin 2) (d : Fin 4) (i : Fin 16) (w : Word) :
    (s.writeAddr c (CMP.CTHR d i) w).get (CMP.CTHR_THRESH d i) = getBits w 0 12 := by
  obtain ⟨h4, hwin, hkey, hal⟩ := cthr_plain d i
  unfold State.writeAddr State.writeAt
  rw [hkey, hal, if_neg (by rw [h4]; decide), hwin, if_neg (by decide), regInfo_cthr]
  dsimp only
  rw [if_neg (by simp), if_neg (by simp), applyReg_cthr]
  exact (State.get_setReg_self _ (CMP.CTHR_THRESH d i) _).trans (thresh_written i _ _)

/-! ### Arrivals (R21, R24, R339) -/

/-- The address of an offset in the window of a drive die lies there, and names the die. -/
theorem driveAddr_bounds (d : Fin 4) (off : BitVec 24) : 0x40000000 + d * 0x1000000 + off.toNat < 0x44000000 ∧
    (0x40000000 + d * 0x1000000 + off.toNat - 0x40000000) / 0x1000000 = d := by
  have h := off.isLt
  omega

/-- The link by which a command die reaches a drive die. -/
theorem State.linkGone_drive (s : State) (c : Fin 2) (d : Fin 4) (off : BitVec 24) :
    s.linkGone c (0x40000000 + d * 0x1000000 + off.toNat) = s.flag (ELINK.STAT_LINK_DOWN (Die.command c) (1 + d)) := by
  obtain ⟨hlt, hd⟩ := driveAddr_bounds d off
  unfold State.linkGone
  rw [if_pos hlt, hd]

/-- The link by which a command die reaches N. -/
theorem State.linkGone_poly (s : State) (c : Fin 2) (u : Fin 8) :
    s.linkGone c (CRC.POLY u) = s.flag (ELINK.STAT_LINK_DOWN (Die.command c) 5) := by
  have h : ¬ CRC.POLY u < 0x44000000 ∧ CRC.POLY u < 0x4C000000 := by revert u; decide
  unfold State.linkGone
  rw [if_neg h.1, if_pos h.2]

theorem role_cases (c : Fin 2) (d : Fin 4) : (if (c : Nat) = 0 then DCMD.DCMDSTAT_ROLE_C0 d else DCMD.DCMDSTAT_ROLE_C1 d) =
    if c = 0 then DCMD.DCMDSTAT_ROLE_C0 d else DCMD.DCMDSTAT_ROLE_C1 d := by
  fin_cases c <;> rfl

/-- R21: what the role net makes of a write that a command die sends to a drive die. -/
theorem State.arrive_drive (s : State) (c : Fin 2) (d : Fin 4) (off : BitVec 24) (w : Word)
    (hl : s.flag (ELINK.STAT_LINK_DOWN (Die.command c) (1 + d)) = false) :
    s.arrive c (0x40000000 + d * 0x1000000 + off.toNat) w =
      if s.flag (if c = 0 then DCMD.DCMDSTAT_ROLE_C0 d else DCMD.DCMDSTAT_ROLE_C1 d) then
        s.writeAddr c (0x40000000 + d * 0x1000000 + off.toNat) w
      else s.incSat (DCMD.DCMDSTAT_STRAY_CNT d) := by
  obtain ⟨hlt, hd⟩ := driveAddr_bounds d off
  unfold State.arrive
  rw [State.linkGone_drive, hl, if_neg (by decide), if_pos hlt, hd]
  dsimp only
  rw [role_cases]

theorem cthr_offset : ∀ (d : Fin 4) (i : Fin 16),
    0x40000000 + d * 0x1000000 + (BitVec.ofNat 24 (CMP.CTHR d i - 0x40000000 - 0x1000000 * d.val)).toNat = CMP.CTHR d i := by decide +kernel

theorem driveWriteArrival_applies (d : Fin 4) (c : Fin 2) (i : Fin 16) (w : BitVec 32) (s : State)
    (hl : s.flag (ELINK.STAT_LINK_DOWN (Die.command c) (1 + d)) = false)
    (hrole : s.flag (if c = 0 then DCMD.DCMDSTAT_ROLE_C0 d else DCMD.DCMDSTAT_ROLE_C1 d) = true) (hr : s.mainRuns = true) :
    Completes (exec (.driveWriteArrival d (some c) (BitVec.ofNat 24 (CMP.CTHR d i - 0x40000000 - 0x1000000 * d.val)) w) s) (fun t =>
      t.get (CMP.CTHR_THRESH d i) = getBits w (CMP.CTHR_THRESH d i).lo (CMP.CTHR_THRESH d i).w) := by
  refine completes_whileRuns hr (completes_next ?_)
  dsimp only
  rw [State.arrive_drive s c d _ w hl, if_pos hrole, cthr_offset]
  exact State.writeAddr_thresh s c d i w

theorem driveWriteArrival_strays (d : Fin 4) (c : Fin 2) (off : BitVec 24) (w : BitVec 32) (s : State)
    (hl : s.flag (ELINK.STAT_LINK_DOWN (Die.command c) (1 + d)) = false)
    (hrole : s.flag (if c = 0 then DCMD.DCMDSTAT_ROLE_C0 d else DCMD.DCMDSTAT_ROLE_C1 d) = false) (hr : s.mainRuns = true) :
    Completes (exec (.driveWriteArrival d (some c) off w) s) (fun t =>
      t.get (DCMD.DCMDSTAT_STRAY_CNT d) = min (s.get (DCMD.DCMDSTAT_STRAY_CNT d) + 1) (2 ^ (DCMD.DCMDSTAT_STRAY_CNT d).w - 1) ∧
      SameBut [.regs] s t ∧ RegsBut [(DCMD.DCMDSTAT_STRAY_CNT d).addr] s t) := by
  refine completes_whileRuns hr (completes_next ?_)
  dsimp only
  rw [State.arrive_drive s c d _ w hl, if_neg (by rw [hrole]; decide)]
  exact ⟨State.get_incSat_self _ _ (of_decide_eq_true rfl), State.setReg_sameBut _ _ _, State.setReg_regsBut _ _ _ List.mem_cons_self⟩

theorem driveWriteArrival_noLane (d : Fin 4) (c : Fin 2) (off : BitVec 24) (w : BitVec 32) (s : State)
    (hl : s.flag (ELINK.STAT_LINK_DOWN (Die.command c) (1 + d)) = true) (hr : s.mainRuns = true) :
    Completes (exec (.driveWriteArrival d (some c) off w) s) (fun t => t = s) := by
  refine completes_whileRuns hr (completes_next ?_)
  dsimp only
  unfold State.arrive
  rw [State.linkGone_drive, hl, if_pos rfl]

theorem poly_offset : ∀ u : Fin 8, 0x48000000 + (BitVec.ofNat 26 (CRC.POLY u - 0x48000000)).toNat = CRC.POLY u := by decide +kernel

/-- R339: N accepts the writes of the shell that the latest verdict names, over a link that has a lane left. -/
theorem State.arrive_poly (s : State) (c : Fin 2) (u : Fin 8) (w : Word) : s.arrive c (CRC.POLY u) w =
    if s.flag (ELINK.STAT_LINK_DOWN (Die.command c) 5) then s else if s.arb.nShell = some c.val then s.writeAddr c (CRC.POLY u) w else s := by
  have h : ¬ CRC.POLY u < 0x44000000 ∧ CRC.POLY u < 0x4C000000 := by revert u; decide
  unfold State.arrive
  rw [State.linkGone_poly, if_neg h.1, if_pos h.2]

theorem nWrite_accepted (c : Fin 2) (u : Fin 8) (w : BitVec 32) (s : State)
    (hl : s.flag (ELINK.STAT_LINK_DOWN (Die.command c) 5) = false) (hn : s.arb.nShell = some c.val) (hr : s.mainRuns = true) :
    Completes (exec (.nWriteFromCommandDie c (BitVec.ofNat 26 (CRC.POLY u - 0x48000000)) w) s) (fun t => t.reg (CRC.POLY u) = w) := by
  refine completes_whileRuns hr (completes_next ?_)
  rw [poly_offset, State.arrive_poly, hl, if_neg (by decide), if_pos hn]
  have haddr : s.writeAddr c (CRC.POLY u) w = s.writeAt (CRC.POLY u) 0 w := State.writeAddr_poly s c u 0 w
  rw [haddr, State.writeAt_poly s u 0 w (.inl rfl)]
  exact acc_rw_normal _ _

theorem nWrite_refused (c : Fin 2) (u : Fin 8) (w : BitVec 32) (s : State) (hn : s.arb.nShell ≠ some c.val) (hr : s.mainRuns = true) :
    Completes (exec (.nWriteFromCommandDie c (BitVec.ofNat 26 (CRC.POLY u - 0x48000000)) w) s) (fun t => t = s) := by
  refine completes_whileRuns hr (completes_next ?_)
  rw [poly_offset, State.arrive_poly, if_neg hn, ite_self]

/-- Settles O6: one lemma for each command and outcome. -/
theorem registerAccesses : Obligations.RegisterAccesses := by
  unfold Obligations.RegisterAccesses
  exact ⟨coreAccessFault_taken, registerWrite_faults, registerWrite_normal, registerWrite_set, registerWrite_clear, registerWrite_toggle,
    driveWriteArrival_applies, driveWriteArrival_strays, nWrite_accepted, driveWriteArrival_noLane, nWrite_refused⟩

end Sys2Proof.Machine
end

section
/-! SUPPORT and the obligation on RS registers (O7): the queue of writes of a block, the action of the oldest one, and the refresh of the copies
that reads return. -/

namespace Sys2Proof.Machine

/-! ### Association lists, filtered, mapped and put one after another -/

theorem Assoc.get_filter_key {α : Type} (m : List (Nat × α)) (p : Nat → Bool) (a : Nat) :
    Assoc.get (m.filter (fun c => p c.1)) a = if p a then Assoc.get m a else none := by
  induction m with
  | nil => simp [Assoc.get]
  | cons c r ih =>
    obtain ⟨k, v⟩ := c
    by_cases hk : k = a
    · subst hk
      cases hp : p k
      · simpa [hp] using ih
      · simp [hp, Assoc.get]
    · cases hp : p k <;> simp [hp, Assoc.get, hk, ih]

theorem Assoc.get_map_val {α β : Type} (m : List (Nat × α)) (f : α → β) (a : Nat) :
    Assoc.get (m.map (fun c => (c.1, f c.2))) a = (Assoc.get m a).map f := by
  induction m with
  | nil => rfl
  | cons c r ih =>
    obtain ⟨k, v⟩ := c
    by_cases hk : k = a
    · simp [Assoc.get, hk]
    · simp [Assoc.get, hk, ih]

theorem Assoc.sorted_map_val {α β : Type} {m : List (Nat × α)} (f : α → β) (h : Assoc.sorted m = true) :
    Assoc.sorted (m.map (fun c => (c.1, f c.2))) = true := by
  rw [Assoc.sorted_iff] at h ⊢
  exact List.pairwise_map.2 h

theorem Assoc.get_of_lt {α : Type} {m : List (Nat × α)} {a : Nat} (h : ∀ c ∈ m, a < c.1) : Assoc.get m a = none := by
  induction m with
  | nil => rfl
  | cons c r ih =>
    obtain ⟨k, v⟩ := c
    have hk : k ≠ a := (h (k, v) List.mem_cons_self).ne'
    simpa [Assoc.get, hk] using ih fun c hc => h c (List.mem_cons_of_mem _ hc)

/-- The entries of a list in key order, put into another one, win over what stood there. -/
theorem Assoc.get_foldl_put {α : Type} {l : List (Nat × α)} (hl : Assoc.sorted l = true) (m : List (Nat × α)) (a : Nat) :
    Assoc.get (l.foldl (fun m c => Assoc.put m c.1 c.2) m) a = (Assoc.get l a).or (Assoc.get m a) := by
  rw [Assoc.sorted_iff] at hl
  induction l generalizing m with
  | nil => rfl
  | cons c r ih =>
    obtain ⟨k, v⟩ := c
    obtain ⟨hk, hr⟩ := List.pairwise_cons.1 hl
    rw [List.foldl_cons, ih hr]
    by_cases h : k = a
    · subst h
      simp [Assoc.get, Assoc.get_of_lt hk, Assoc.get_put_self]
    · simp [Assoc.get, h, Assoc.get_put_ne _ _ _ _ (Ne.symm h)]

/-! ### The queue of a block (R47, R48) -/

theorem State.rsBlock_modRs_self (s : State) (b : Fin 9) (f : RsBlock → RsBlock) :
    vget (s.modRs b f).rsBlocks b = f (vget s.rsBlocks b) := vget_vmod_self _ _ _ b.isLt

@[simp] theorem State.showPend_rsBlocks (s : State) (b : Nat) : (s.showPend b).rsBlocks = s.rsBlocks := State.set_rsBlocks _ _ _

/-- PEND_CNT shares no bit with the flags of WR_PEND. -/
theorem State.showPend_flag (s : State) (b : Nat) {g : RF} (h : (rsField b 0 3).apart g = true) : (s.showPend b).flag g = s.flag g :=
  State.flag_of_get (State.get_set_apart s _ h)

theorem rsField_flag_set (s : State) (b lo : Nat) (v : Bool) (h : lo < 32) : (s.setB (rsField b lo 1) v).flag (rsField b lo 1) = v :=
  State.flag_setB_self s (rsField b lo 1) v h Nat.one_pos

theorem State.rsAccept_room (s : State) (b : Nat) (x : RsWrite) (h : (vget s.rsBlocks b).inflight.length < 4) :
    s.rsAccept b x = ((s.modRs b (fun r => { r with inflight := r.inflight ++ [x] })).setB (rsField b 8 1) true).showPend b := if_pos h

theorem State.rsAccept_full (s : State) (b : Nat) (x : RsWrite) (h : 4 ≤ (vget s.rsBlocks b).inflight.length) :
    s.rsAccept b x = s.modRs b (fun r => { r with stalled := r.stalled ++ [x] }) := if_neg (Nat.not_lt.2 h)

theorem State.rsPop_inflight (s : State) (b : Fin 9) :
    (vget (s.rsPop b).rsBlocks b).inflight = (vget s.rsBlocks b).inflight.drop 1 ++ (vget s.rsBlocks b).stalled.take 1 := by
  unfold State.rsPop
  rw [State.showPend_rsBlocks, State.rsBlock_modRs_self]

theorem State.rsPop_copies (s : State) (b : Nat) : (s.rsPop b).copies = s.copies := State.set_copies _ _ _

/-- A block's queue moves no register but its WR_PEND. -/
theorem State.rsPop_regsBut (s : State) (b : Nat) : RegsBut [rsBase b + 0xFFC] s (s.rsPop b) :=
  State.setReg_regsBut (s.modRs b _) (rsBase b + 0xFFC) _ List.mem_cons_self

/-- R47: a write with a free place is in flight, and PEND shows it. -/
theorem rsRegisterWrite_accepted (b : Fin 9) (off : Fin 0x4000) (w : BitVec 32) (s : State) (hq : (vget s.rsBlocks b).inflight.length < 4)
    (hr : s.mainRuns = true) :
    Completes (exec (.rsRegisterWrite b off w) s) (fun t =>
      (vget t.rsBlocks b).inflight = (vget s.rsBlocks b).inflight ++ [⟨rsBase b + off.val, w, none⟩] ∧ t.flag (rsField b 8 1) = true) := by
  refine completes_whileRuns hr (completes_next ?_)
  rw [State.rsAccept_room _ _ _ hq]
  refine ⟨?_, ?_⟩
  · rw [State.showPend_rsBlocks, State.setB_rsBlocks, State.rsBlock_modRs_self]
  · rw [State.showPend_flag _ _ rfl, rsField_flag_set _ _ _ _ (by decide)]

/-- R48: a fifth write stalls its source. -/
theorem rsRegisterWrite_stalls (b : Fin 9) (off : Fin 0x4000) (w : BitVec 32) (s : State) (hq : 4 ≤ (vget s.rsBlocks b).inflight.length)
    (hr : s.mainRuns = true) :
    Completes (exec (.rsRegisterWrite b off w) s) (fun t =>
      (vget t.rsBlocks b).stalled = (vget s.rsBlocks b).stalled ++ [⟨rsBase b + off.val, w, none⟩] ∧ t.regs = s.regs) := by
  refine completes_whileRuns hr (completes_next ?_)
  rw [State.rsAccept_full _ _ _ hq]
  exact ⟨by rw [State.rsBlock_modRs_self], rfl⟩

/-- R52: the oldest write in flight is discarded, and WR_LOST shows it. -/
theorem rsWriteLost_discards (b : Fin 9) (x : RsWrite) (l : List RsWrite) (s : State) (hq : (vget s.rsBlocks b).inflight = x :: l)
    (hr : s.mainRuns = true) :
    Completes (exec (.rsWriteLost b) s) (fun t => (vget t.rsBlocks b).inflight = l ++ (vget s.rsBlocks b).stalled.take 1 ∧
      t.flag (rsField b 30 1) = true ∧ RegsBut [rsBase b + 0xFFC] s t) := by
  refine completes_whileRuns hr (completes_next ?_)
  rw [if_neg (by rw [hq]; exact List.cons_ne_nil _ _)]
  refine ⟨?_, rsField_flag_set _ _ _ _ (by decide), (State.rsPop_regsBut s b).trans (State.setReg_regsBut _ _ _ List.mem_cons_self)⟩
  rw [State.setB_rsBlocks, State.rsPop_inflight, hq, List.drop_one, List.tail_cons]

/-! ### The action of a write in its source domain (R47, R49) -/

/-- What a write that reaches its source domain does there: to a whole register, or to one field of it. -/
def State.rsAct (s : State) (x : RsWrite) : State :=
  match x.part with
  | none => s.writeAddr 0 x.addr x.data
  | some (lo, w) => s.writeField ⟨x.addr, lo, w⟩ x.data.toNat

/-- The oldest write leaves the queue of its block and acts. -/
theorem execRsWriteComplete_acts (b : Fin 9) (x : RsWrite) (l : List RsWrite) (s : State) (hq : (vget s.rsBlocks b).inflight = x :: l)
    (hk : s.keeper.powered = true) : execRsWriteComplete b s = s.whileRuns (.next ((s.rsPop b).rsAct x)) := by
  unfold execRsWriteComplete
  rw [hq]
  dsimp only
  rw [if_neg (by simp [hk])]
  rfl

/-- No register write reaches the queues of the RS blocks or the copies that reads return. -/
theorem State.rsAct_keeps (s : State) (x : RsWrite) : Keeps (fun p => p ∈ [Part.rsBlocks, .copies]) s (s.rsAct x) := by
  have hOpen : ∀ p, p ∉ [Part.rsBlocks, .copies] → Open (fun p => p ∈ [Part.rsBlocks, .copies]) p := fun _ h => ⟨h⟩
  have := hOpen .regs (by decide)
  have := hOpen .mem (by decide)
  have := hOpen .out (by decide)
  have := hOpen .freeCnt (by decide)
  have := hOpen .plls (by decide)
  have := hOpen .hops (by decide)
  have := hOpen .groups (by decide)
  have := hOpen .ports (by decide)
  have := hOpen .tgs (by decide)
  have := hOpen .drives (by decide)
  have := hOpen .adcs (by decide)
  have := hOpen .cmps (by decide)
  have := hOpen .pis (by decide)
  have := hOpen .cles (by decide)
  have := hOpen .life (by decide)
  have := hOpen .sys (by decide)
  have := hOpen .power (by decide)
  have := hOpen .keeper (by decide)
  have := hOpen .grids (by decide)
  have := hOpen .crcs (by decide)
  have := hOpen .acts (by decide)
  have := hOpen .maintSeq (by decide)
  have := hOpen .meters (by decide)
  have := hOpen .cmds (by decide)
  have := hOpen .arb (by decide)
  have := hOpen .safety (by decide)
  have := hOpen .net (by decide)
  have := hOpen .flows (by decide)
  have := hOpen .dict (by decide)
  unfold State.rsAct
  split
  · exact State.writeAddr_keeps (Keeps.refl _ s) _ _ _
  · exact State.writeField_keeps (Keeps.refl _ s) _ _

theorem State.rsAct_rsBlocks (s : State) (x : RsWrite) : (s.rsAct x).rsBlocks = s.rsBlocks :=
  (s.rsAct_keeps x).same .rsBlocks (by decide)

theorem State.rsAct_copies (s : State) (x : RsWrite) : (s.rsAct x).copies = s.copies := (s.rsAct_keeps x).same .copies (by decide)

/-- R49: the write leaves its place, and a stalled one takes it. -/
theorem rsWriteComplete_frees (b : Fin 9) (x : RsWrite) (l : List RsWrite) (s : State) (hq : (vget s.rsBlocks b).inflight = x :: l)
    (hk : s.keeper.powered = true) (hr : s.mainRuns = true) :
    Completes (exec (.rsWriteComplete b) s) (fun t => (vget t.rsBlocks b).inflight = l ++ (vget s.rsBlocks b).stalled.take 1) := by
  show Completes (execRsWriteComplete b s) _
  rw [execRsWriteComplete_acts b x l s hq hk]
  refine completes_whileRuns hr (completes_next ?_)
  rw [State.rsAct_rsBlocks, State.rsPop_inflight, hq, List.drop_one, List.tail_cons]

/-! ### A write of RTC_TRIM -/

/-- What the map says of RTC_TRIM. -/
def rtcTrimInfo : RegInfo where
  block := ⟨"RTC", .s, 0x50000, 1, true, regRows_RTC⟩
  inst := 0
  row := ⟨"RTC_TRIM", 0x8, 0x0, 1, 0x0, 1, true, [⟨0, 11, .rw⟩], fun _ _ _ => 0x0⟩
  i := 0
  j := 0

theorem regInfo_rtcTrim : regInfo RTC.RTC_TRIM = some rtcTrimInfo := rfl

theorem rtcTrim_plain : RTC.RTC_TRIM % 4 = 0 ∧ inMemWindow RTC.RTC_TRIM = false ∧ normalKey 0 RTC.RTC_TRIM = RTC.RTC_TRIM ∧
    aliasOf RTC.RTC_TRIM = 0 := by decide +kernel

theorem applyReg_rtcTrim (s : State) (a : Nat) (w act clr : Word) (al : Nat) (dat : Word) :
    s.applyReg rtcTrimInfo a w act clr al dat = s.setReg a w := rfl

/-- TRIM of the word that a normal write leaves in RTC_TRIM. -/
theorem trim_written (old d : Word) : getBits (rtcTrimInfo.row.written 0 old d &&& rtcTrimInfo.implemented) 0 11 = getBits d 0 11 := by
  have himpl : getBits rtcTrimInfo.implemented 0 11 = 2 ^ 11 - 1 := by decide +kernel
  have hrow : rtcTrimInfo.row.written 0 old d = putBits old 0 11 (getBits d 0 11) := rfl
  rw [getBits_and, himpl, hrow, getBits_putBits_self _ _ _ _ (by decide), Nat.and_two_pow_sub_one_eq_mod, Nat.mod_mod,
    Nat.mod_eq_of_lt (getBits_lt _ _ _)]

theorem State.writeAddr_trim (s : State) (w : Word) : (s.writeAddr 0 RTC.RTC_TRIM w).get RTC.RTC_TRIM_TRIM = getBits w 0 11 := by
  obtain ⟨h4, hwin, hkey, hal⟩ := rtcTrim_plain
  unfold State.writeAddr State.writeAt
  rw [hkey, hal, if_neg (by rw [h4]; decide), hwin, if_neg (by decide), regInfo_rtcTrim]
  dsimp only
  rw [if_neg (by simp), if_neg (by simp), applyReg_rtcTrim]
  exact (State.get_setReg_self _ RTC.RTC_TRIM_TRIM _).trans (trim_written _ _)

/-! ### The copies that reads return (R44, R50, R51) -/

theorem State.rsCopy_of_copies {s t : State} (h : t.copies = s.copies) (a : Nat) : t.rsCopy a = s.rsCopy a := by
  unfold State.rsCopy
  rw [h]

/-- R44, R47: the write acts on the live register, and its copy waits for a refresh. -/
theorem rsWriteComplete_trim (w : BitVec 32) (l : List RsWrite) (s : State)
    (hq : (vget s.rsBlocks 1).inflight = ⟨RTC.RTC_TRIM, w, none⟩ :: l) (hk : s.keeper.powered = true) (hr : s.mainRuns = true) :
    Completes (exec (.rsWriteComplete 1) s) (fun t =>
      t.get RTC.RTC_TRIM_TRIM = getBits w RTC.RTC_TRIM_TRIM.lo RTC.RTC_TRIM_TRIM.w ∧ t.rsCopy RTC.RTC_TRIM = s.rsCopy RTC.RTC_TRIM) := by
  show Completes (execRsWriteComplete 1 s) _
  rw [execRsWriteComplete_acts 1 _ l s hq hk]
  exact completes_whileRuns hr (completes_next ⟨State.writeAddr_trim _ w,
    State.rsCopy_of_copies ((State.rsAct_copies _ _).trans (State.rsPop_copies s 1)) _⟩)

/-- Does the key lie in the window of an RS block? -/
def inRsBlock (b a : Nat) : Bool := decide (rsBase b ≤ a) && decide (a < rsBase b + 0x1000)

/-- The registers of a block, as they stand, replace its copies. -/
def State.recopied (s : State) (b : Nat) : List (Nat × Word) :=
  ((s.regs.filter (fun c => inRsBlock b c.1)).map (fun c => (c.1, c.2.val))).foldl (fun m c => Assoc.put m c.1 c.2)
    (s.copies.filter (fun c => !inRsBlock b c.1))

/-- A block's copies after a refresh, and STALE as it leaves it. -/
def State.refreshed (s : State) (b : Nat) : State := { s with copies := s.recopied b }.setB (rsField b 31 1) false

theorem execRsCopyRefresh_eq (b : Fin 9) (s : State) : execRsCopyRefresh b s = s.whileRuns (.next
    (if (vget (s.refreshed b).rsBlocks b).inflight.isEmpty then (s.refreshed b).setB (rsField b 8 1) false else s.refreshed b)) := rfl

theorem State.recopied_get (s : State) (b a : Nat) (hs : Assoc.sorted s.regs = true) (h : inRsBlock b a = true) :
    Assoc.get (s.recopied b) a = (Assoc.get s.regs a).map RegCell.val := by
  unfold State.recopied
  rw [Assoc.get_foldl_put (Assoc.sorted_map_val _ (Assoc.sorted_filter _ _ hs)), Assoc.get_map_val, Assoc.get_filter_key, if_pos h,
    Assoc.get_filter_key s.copies (fun k => !inRsBlock b k), h, if_neg (by decide), Option.or_none]

/-- R44: a refreshed copy is the register. -/
theorem State.refreshed_rsCopy (s : State) (b a : Nat) (hs : Assoc.sorted s.regs = true) (h : inRsBlock b a = true) :
    (s.refreshed b).rsCopy a = s.reg a := by
  have hget : Assoc.get (s.refreshed b).copies a = (Assoc.get s.regs a).map RegCell.val := State.recopied_get s b a hs h
  unfold State.rsCopy State.reg State.cell
  rw [hget]
  cases Assoc.get s.regs a <;> rfl

/-- R44, R51: every copy of the block is refreshed, and STALE clears. -/
theorem rsCopyRefresh_refreshes (b : Fin 9) (s : State) (hs : Assoc.sorted s.regs = true) (hr : s.mainRuns = true) :
    Completes (exec (.rsCopyRefresh b) s) (fun t => t.flag (rsField b 31 1) = false ∧
      (∀ a, rsBase b ≤ a → a < rsBase b + 0x1000 → t.rsCopy a = s.reg a)) := by
  have hstale : (s.refreshed b).flag (rsField b 31 1) = false := rsField_flag_set _ _ _ _ (by decide)
  have hcopy : ∀ a, rsBase b ≤ a → a < rsBase b + 0x1000 → (s.refreshed b).rsCopy a = s.reg a :=
    fun a h1 h2 => s.refreshed_rsCopy b a hs (by simp [inRsBlock, h1, h2])
  show Completes (execRsCopyRefresh b s) _
  rw [execRsCopyRefresh_eq]
  refine completes_whileRuns hr (completes_next ?_)
  split
  · exact ⟨(State.flag_of_get (State.get_setB_apart _ _ rfl)).trans hstale,
      fun a h1 h2 => (State.rsCopy_of_copies (State.setB_copies _ _ _) a).trans (hcopy a h1 h2)⟩
  · exact ⟨hstale, hcopy⟩

/-- R51: STALE is set, and nothing else changes. -/
theorem rsStaleTimeout_marks (b : Fin 9) (s : State) (hr : s.mainRuns = true) :
    Completes (exec (.rsStaleTimeout b) s) (fun t => t.flag (rsField b 31 1) = true ∧ SameBut [.regs] s t ∧
      RegsBut [rsBase b + 0xFFC] s t) :=
  completes_whileRuns hr (completes_next ⟨rsField_flag_set _ _ _ _ (by decide), State.setReg_sameBut _ _ _,
    State.setReg_regsBut _ _ _ List.mem_cons_self⟩)

/-- R46: a read of RTC_SUB returns its copy and captures that of RTC_SEC. -/
theorem rsLowWordRead_captures (s : State) (hr : s.mainRuns = true) :
    Completes (exec .rsLowWordRead s) (fun t => (vget t.rsBlocks 1).hold = some (RTC.RTC_SEC, s.rsCopy RTC.RTC_SEC) ∧
      t.out = ⟨.readReturn, Die.s.code, [RTC.RTC_SUB, (s.rsCopy RTC.RTC_SUB).toNat]⟩ :: s.out ∧ SameBut [.rsBlocks, .out] s t) := by
  have : Open (fun p => p ∉ [Part.rsBlocks, .out]) .rsBlocks := open_of_mem (by decide)
  have : Open (fun p => p ∉ [Part.rsBlocks, .out]) .out := open_of_mem (by decide)
  refine completes_whileRuns hr (completes_next ⟨?_, rfl, ?_⟩)
  · exact congrArg RsBlock.hold (State.rsBlock_modRs_self s 1 _)
  · exact Keeps.sameBut (State.send_keeps (State.captureRtc_keeps (Keeps.refl _ s)) _)

/-- Settles O7: one lemma for each command and outcome. -/
theorem rsInterface : Obligations.RsInterface := by
  unfold Obligations.RsInterface
  exact ⟨rsRegisterWrite_accepted, rsRegisterWrite_stalls, rsWriteComplete_frees, rsWriteComplete_trim, rsStaleTimeout_marks,
    rsWriteLost_discards, rsLowWordRead_captures, rsCopyRefresh_refreshes⟩

end Sys2Proof.Machine
end

section
/-! SUPPORT. The clock monitor's reactions (arbiter, halt guard, safety functions) leave the registers of the monitor itself. -/

namespace Sys2Proof.Machine

/-! ### Registers that no reaction writes -/

/-- A register of N, or of S below the arbiter's block, the clock monitor's among them: what arbiter, halt guard and safety functions write
lies in the windows of the drive dies, in the upper blocks of S and in the windows of the command dies. -/
def lowerReg (a : Nat) : Bool := decide (0x44000000 ≤ a) && decide (a < 0x4C070000)

theorem lowerReg_of_le {a : Nat} (h : 0x4C070000 ≤ a) : lowerReg a = false := by
  rw [lowerReg, decide_eq_false (Nat.not_lt.2 h), Bool.and_false]

theorem ne_of_lowerReg {a b : Nat} (ha : lowerReg a = true) (hb : lowerReg b = false) : a ≠ b := by
  rintro rfl
  exact absurd (ha.symm.trans hb) (by decide)

theorem lowerReg_notMem_tripRegs {d a : Nat} (hd : d < 4) (ha : lowerReg a = true) : a ∉ tripRegs d :=
  notMem_tripRegs hd (of_decide_eq_true (Bool.and_eq_true_iff.1 ha).1)

/-- From `r` to `t` these registers hold what they held, parity bits included. -/
def LowerSame (r t : State) : Prop := ∀ a : Nat, lowerReg a = true → t.cell a = r.cell a

theorem LowerSame.refl (s : State) : LowerSame s s := fun _ _ => rfl

theorem LowerSame.trans {r s t : State} (h : LowerSame r s) (h' : LowerSame s t) : LowerSame r t := fun a ha => (h' a ha).trans (h a ha)

theorem LowerSame.ite {c : Prop} [Decidable c] {r s t : State} (hs : LowerSame r s) (ht : LowerSame r t) :
    LowerSame r (if c then s else t) := by
  split
  · exact hs
  · exact ht

theorem LowerSame.of_regs {r s t : State} (h : LowerSame r s) (ht : t.regs = s.regs) : LowerSame r t :=
  h.trans fun a _ => State.cell_of_regs ht a

theorem LowerSame.setReg {r s : State} (h : LowerSame r s) {a : Nat} (w : Word) (ha : lowerReg a = false) : LowerSame r (s.setReg a w) :=
  h.trans fun b hb => State.cell_setReg_ne s a b w (ne_of_lowerReg hb ha)

theorem LowerSame.set {r s : State} (h : LowerSame r s) {f : RF} (x : Nat) (hf : lowerReg f.addr = false) : LowerSame r (s.set f x) :=
  h.setReg _ hf

theorem LowerSame.setB {r s : State} (h : LowerSame r s) {f : RF} (b : Bool) (hf : lowerReg f.addr = false) : LowerSame r (s.setB f b) :=
  h.set _ hf

theorem LowerSame.incSat {r s : State} (h : LowerSame r s) {f : RF} (hf : lowerReg f.addr = false) : LowerSame r (s.incSat f) :=
  h.set _ hf

theorem LowerSame.setBit {r s : State} (h : LowerSame r s) {f : RF} (i : Nat) (b : Bool) (hf : lowerReg f.addr = false) :
    LowerSame r (s.setBit f i b) := h.trans fun a ha => State.cell_setBit_ne s f i b a (ne_of_lowerReg ha hf)

theorem LowerSame.send {r s : State} (h : LowerSame r s) (m : Msg) : LowerSame r (s.send m) := h.of_regs rfl

theorem LowerSame.countEvent {r s : State} (h : LowerSame r s) (e : EvCounter) : LowerSame r (s.countEvent e) := h.of_regs rfl

theorem LowerSame.modArb {r s : State} (h : LowerSame r s) (f : Arbiter → Arbiter) : LowerSame r (s.modArb f) := h.of_regs rfl

theorem LowerSame.modDrive {r s : State} (h : LowerSame r s) (d : Nat) (f : DriveDie → DriveDie) : LowerSame r (s.modDrive d f) := h.of_regs rfl

theorem LowerSame.modSafety {r s : State} (h : LowerSame r s) (f : Safety → Safety) : LowerSame r (s.modSafety f) := h.of_regs rfl

theorem LowerSame.modChan {r s : State} (h : LowerSame r s) (ch : Nat) (f : SafeChannel → SafeChannel) : LowerSame r (s.modChan ch f) :=
  h.modSafety _

theorem LowerSame.foldOver {r s : State} (h : LowerSame r s) (l : List Nat) (f : Nat → State → State)
    (hf : ∀ i ∈ l, ∀ t, LowerSame r t → LowerSame r (f i t)) : LowerSame r (foldOver l f s) := foldOver_preserves l f s h hf

theorem LowerSame.foldl {α : Type} {r s : State} (h : LowerSame r s) (l : List α) (f : State → α → State)
    (hf : ∀ t x, LowerSame r t → LowerSame r (f t x)) : LowerSame r (l.foldl f s) :=
  List.foldlRecOn l f h fun t ht x _ => hf t x ht

/-! ### The arbiter (R359-R370) -/

theorem LowerSame.burstRequest {r s : State} (h : LowerSame r s) (c : Nat) : LowerSame r (s.burstRequest c) :=
  h.trans fun a ha => State.burstRequest_cell s c a (ne_of_lowerReg ha rfl)

theorem LowerSame.enterFault {r s : State} (h : LowerSame r s) (code die unit d1 d2 : Nat) : LowerSame r (s.enterFault code die unit d1 d2) :=
  h.trans fun a ha => State.enterFault_cell s code die unit d1 d2 a (ne_of_lowerReg ha rfl)

theorem LowerSame.decide' {r s : State} (h : LowerSame r s) (verdict cause : Nat) (ev : Option EvCounter) :
    LowerSame r (s.decide' verdict cause ev) := by
  unfold State.decide'
  extract_lets cpn s1 s2
  have h1 : LowerSame r s1 := ((h.set _ rfl).set _ rfl).set _ rfl
  have h2 : LowerSame r s2 := by
    unfold s2
    cases ev
    case none => exact h1
    case some e => exact h1.countEvent e
  exact h2.ite (h2.enterFault _ _ _ _ _)

theorem LowerSame.requestArbSs1 {r s : State} (h : LowerSame r s) : LowerSame r s.requestArbSs1 := (h.setB true rfl).send _

theorem lowerReg_arbRole (c : Nat) : lowerReg (arbRole c).addr = false := by
  unfold arbRole
  split <;> rfl

theorem lowerReg_arbLockout (c : Nat) : lowerReg (arbLockout c).addr = false := by
  unfold arbLockout
  split <;> rfl

theorem lowerReg_cmdstat (c : Nat) : lowerReg (CMD.CMDSTAT c) = false := lowerReg_of_le (by unfold CMD.CMDSTAT; omega)

theorem LowerSame.removeDie {r s : State} (h : LowerSame r s) (c : Nat) : LowerSame r (s.removeDie c) := by
  unfold State.removeDie
  extract_lets now old s1 s2
  have h1 : LowerSame r s1 := (h.set 0 (lowerReg_arbRole c)).modArb _
  have h2 : LowerSame r s2 := ((h1.setB (f := ARB.ARBSTAT_SWAP_PEND) false rfl).modArb _).ite h1
  exact (h2.setB true (lowerReg_arbLockout c)).ite h2

theorem LowerSame.failover {r s : State} (h : LowerSame r s) (shell cause : Nat) : LowerSame r (s.failover shell cause) := by
  unfold State.failover
  extract_lets liner s1 s2 s3 s4 s5
  have h1 : LowerSame r s1 := h.decide' 2 cause _
  have h2 : LowerSame r s2 := (h1.incSat (f := ARB.ARBCNT_FO_CNT) rfl).setB true rfl
  have h3 : LowerSame r s3 := h2.set shell rfl
  have h4 : LowerSame r s4 := (h3.setB (f := CMD.CMDSTAT_HOME shell) true (lowerReg_cmdstat shell)).setB false (lowerReg_cmdstat liner)
  exact ((h4.removeDie shell).modArb _).send _

theorem LowerSame.judge {r s : State} (h : LowerSame r s) (cause : Nat) : LowerSame r (s.judge cause) := by
  unfold State.judge
  split
  case h_1 => exact h
  case h_2 c _ =>
    extract_lets l ls now old s1 s2 s3 s4
    have h1 : LowerSame r s1 := ((h.decide' 0 1 _).incSat (f := ARB.ARBCNT_MM_UNRES) rfl).modArb _
    have h2 : LowerSame r s2 := (h1.set 1 (lowerReg_arbRole l)).ite h1
    have h3 : LowerSame r s3 := h.decide' 3 _ none
    have h4 : LowerSame r s4 := h3.ite (h3.removeDie l)
    have h5 : LowerSame r (s4.setB ARB.ARBSTAT_MITTEN true) := h4.setB true rfl
    refine .ite (.ite (.ite (h2.requestArbSs1.modArb _) h2) ((h.decide' 1 _ none).removeDie l)) (.ite (h.failover c _) ?_)
    exact (h5.modArb _).requestArbSs1

theorem LowerSame.heartbeatLost {r s : State} (h : LowerSame r s) (c : Nat) : LowerSame r (s.heartbeatLost c) :=
  .ite h (((h.modArb _).set (f := ARB.HOLD_REM_HOLD_REM) _ rfl).judge _)

/-! ### Branches and the halt guard (R119-R121) -/

theorem LowerSame.branchAssert {r s : State} (h : LowerSame r s) {d : Nat} (hd : d < 4) : LowerSame r (s.branchAssert d) := by
  have h1 : LowerSame r ((s.setBit SFN.SFSTAT_NET d true).setBranchAck d true) :=
    have hn := h.setBit (f := SFN.SFSTAT_NET) d true rfl
    hn.ite (hn.setBit d true rfl)
  rw [State.branchAssert_eq]
  refine (h1.foldOver _ _ fun j _ t ht => ?_).trans fun a ha => State.refreshTrips_cell _ _ _ (lowerReg_notMem_tripRegs hd ha)
  exact ht.trans fun a ha => State.portDead_cell t d j a (lowerReg_notMem_tripRegs hd ha)

theorem lowerReg_elapsed (d : Nat) : lowerReg (HGRD.ELAPSED d) = false := lowerReg_of_le (by unfold HGRD.ELAPSED; omega)

theorem LowerSame.guardAssert {r s : State} (h : LowerSame r s) {d : Nat} (hd : d < 4) : LowerSame r (s.guardAssert d) := by
  have h1 : LowerSame r ((s.setBit HGRD.HGSTAT_ASSERT d true).setBit HGRD.HGSTAT_TIMING d false) := (h.setBit d true rfl).setBit d false rfl
  have h2 : LowerSame r (s.guardShown d) :=
    (((h1.set 0 (lowerReg_elapsed d)).setBit d true rfl).modDrive d _).incSat (by rw [hgCount_addr]; rfl)
  exact h2.branchAssert hd

theorem LowerSame.guardStart {r s : State} (h : LowerSame r s) {d : Nat} (halt : Bool) (hd : d < 4) : LowerSame r (s.guardStart d halt) := by
  unfold State.guardStart
  extract_lets s1 now s2
  have h1 : LowerSame r s1 := h.ite (h.set 0 (lowerReg_elapsed d))
  have h2 : LowerSame r s2 := h1.modDrive d _
  exact .ite (h.modDrive d _) (.ite (h2.guardAssert hd) (h2.setBit d true rfl))

theorem LowerSame.guardStop {r s : State} (h : LowerSame r s) (d : Nat) (halt : Bool) : LowerSame r (s.guardStop d halt) :=
  .ite h (.ite ((h.set _ (lowerReg_elapsed d)).modDrive d _) ((h.setBit d false rfl).set 0 (lowerReg_elapsed d)))

/-! ### The safety functions (R386-R420) -/

theorem LowerSame.safetyFault {r s : State} (h : LowerSame r s) : LowerSame r s.safetyFault := by
  unfold State.safetyFault
  extract_lets s1 _ s2
  have h2 : LowerSame r s2 := (h.countEvent .safety).of_regs rfl
  exact (h2.enterFault _ _ _ _ _).burstRequest 2

theorem LowerSame.driveSto {r s : State} (h : LowerSame r s) : LowerSame r s.driveSto := by
  unfold State.driveSto
  extract_lets a b s1 s2
  have h1 : LowerSame r s1 := (h.setB _ rfl).setB _ rfl
  have h2 : LowerSame r s2 := (h1.setB _ rfl).setB _ rfl
  exact h2.ite (h2.foldOver _ _ fun d hd t ht => ht.ite (ht.branchAssert (List.mem_range.1 hd)))

theorem LowerSame.refreshSState {r s : State} (h : LowerSame r s) : LowerSame r s.refreshSState :=
  ((((h.setReg _ (a := SFN.S_STATE) rfl).setB _ rfl).setB _ rfl).setB _ rfl).setB _ rfl

theorem LowerSame.lock {r s : State} (h : LowerSame r s) (cause : Nat) : LowerSame r (s.lock cause) := by
  have h1 : LowerSame r (if s.get SFN.SFSTAT_LOCK_CAUSE = 0 then s.set SFN.SFSTAT_LOCK_CAUSE cause else s) := (h.set cause rfl).ite h
  exact ((h1.modChan 0 _).modChan 1 _).driveSto.refreshSState

theorem LowerSame.chanSto {r s : State} (h : LowerSame r s) (ch : Nat) : LowerSame r (s.chanSto ch) := by
  unfold State.chanSto
  extract_lets c s1 s2
  have h1 : LowerSame r s1 := (h.incSat rfl).ite h
  have h2 : LowerSame r s2 := (h1.set 5 rfl).ite h1
  exact .ite (h2.modChan ch _) h

theorem LowerSame.chanSs1 {r s : State} (h : LowerSame r s) (ch : Nat) : LowerSame r (s.chanSs1 ch) := by
  unfold State.chanSs1
  extract_lets s1 s2
  have h1 : LowerSame r s1 := (h.incSat rfl).ite h
  exact .ite ((h1.set _ rfl).modChan ch _) h

theorem LowerSame.markViolation {r s : State} (h : LowerSame r s) (ch k cause : Nat) : LowerSame r (s.markViolation ch k cause) := by
  unfold State.markViolation
  extract_lets s1
  have h1 : LowerSame r s1 := h.ite (h.incSat rfl)
  exact (h1.setBit k true rfl).modChan ch _

theorem LowerSame.showAxes {r s : State} (h : LowerSame r s) : LowerSame r s.showAxes := by
  refine h.foldOver _ _ fun k _ t ht => ?_
  have hv : lowerReg (SFN.VAX k) = false := lowerReg_of_le (by unfold SFN.VAX; omega)
  have hx : lowerReg (SFN.AXSTAT k) = false := lowerReg_of_le (by unfold SFN.AXSTAT; omega)
  have hp : lowerReg (SFN.POS_PI k) = false := lowerReg_of_le (by unfold SFN.POS_PI; omega)
  have hw : lowerReg (SFN.POS_WS k) = false := lowerReg_of_le (by unfold SFN.POS_WS; omega)
  unfold State.showAxis
  extract_lets m v w p q ok cause s1 s2
  have h1 : LowerSame r s1 := ((ht.set v hv).set w hv).setB ok hx
  have h2 : LowerSame r s2 := ((h1.set p hp).set q hw).set cause hx
  exact ((h2.setB _ hx).setB _ hx).setB _ hx

theorem LowerSame.evaluate {r s : State} (h : LowerSame r s) (ch dt : Nat) : LowerSame r (s.evaluate ch dt) := by
  unfold State.evaluate
  extract_lets s1 s2 vs s3 inSs1 broken s4 s5
  have h2 : LowerSame r s2 := (h.modChan ch _).foldOver _ _ fun k _ t ht => ht.modChan ch _
  have h3 : LowerSame r s3 := h2.foldl _ _ fun t v ht => ht.markViolation ch v.1 v.2
  have h4 : LowerSame r s4 := h3.foldl _ _ fun t k ht => ht.markViolation ch k 4
  have h5 : LowerSame r s5 := (h4.chanSto ch).ite ((h4.chanSs1 ch).ite h4)
  have h6 : LowerSame r (s5.dropAck ch) := h5.ite (h5.modChan ch _)
  have h7 : LowerSame r (((s5.dropAck ch).driveSto).driveSo ch) := (h6.driveSto.modChan ch _).set _ rfl
  exact h.ite h7.refreshSState.showAxes

/-! ### What follows from the flags of a source (R75, R76) -/

theorem LowerSame.monitorReact {r s : State} (h : LowerSame r s) (k : Nat) (was : Bool) : LowerSame r (s.monitorReact k was) := by
  unfold State.monitorReact
  extract_lets now s1 lost s2
  refine .ite (.ite (h.heartbeatLost k) h) ?_
  split
  case isTrue hk =>
    have h1 : LowerSame r s1 := h.setBit (k - 2) now rfl
    exact .ite h (.ite (h1.guardStart false (by omega)) (h1.guardStop (k - 2) false))
  case isFalse =>
    have h2 : LowerSame r s2 := ((h.modSafety _).evaluate 0 0).evaluate 1 0
    have h3 : LowerSame r (s.setB (if k = 8 then SFN.SFSTAT_A_FAIL else SFN.SFSTAT_B_FAIL) true) := h.setB true (by split <;> rfl)
    exact .ite (.ite h (h2.safetyFault.ite h2)) (.ite (h3.lock 3).safetyFault h)

end Sys2Proof.Machine
end

section
/-! SUPPORT and the obligation on PLLs, clock monitor and real-time clock (O8). -/

namespace Sys2Proof.Machine

/-! ### Registers of the clock block of one die -/

theorem hopStat_ne_pllStat (e : Die) : CLK.PLL_STAT e ≠ CLK.HOP_STAT e := by
  simp only [CLK.PLL_STAT, CLK.HOP_STAT]
  omega

theorem hopFlag_ne_pllStat (e : Die) : CLK.PLL_STAT e ≠ CLK.HOP_FLAG e := by
  simp only [CLK.PLL_STAT, CLK.HOP_FLAG]
  omega

theorem band_ne_pllStat (e : Die) (q : Nat) : CLK.BAND e q ≠ CLK.PLL_STAT e := by
  simp only [CLK.BAND, CLK.PLL_STAT]
  omega

/-- A drive die's number names it. -/
theorem Die.drive_driveNo {e : Die} (h : e.isDrive = true) : Die.drive e.driveNo = e := by
  cases e
  case d0 | d1 | d2 | d3 => rfl
  all_goals exact absurd h (by decide)

theorem State.refreshHopNext_cell (s : State) (d : Nat) {a : Nat} (hs : a ≠ CLK.HOP_STAT (Die.drive d)) (hf : a ≠ CLK.HOP_FLAG (Die.drive d)) :
    (s.refreshHopNext d).cell a = s.cell a := (State.cell_set_ne _ _ _ _ hf).trans (State.cell_set_ne _ _ _ _ hs)

/-- Outside HOP_STAT and HOP_FLAG the timebase at SLOT0 shows in SLOT_NOW alone. -/
theorem State.runAtSlot0_cell_after (s : State) (d : Nat) {a : Nat} (hs : a ≠ CLK.HOP_STAT (Die.drive d)) (hf : a ≠ CLK.HOP_FLAG (Die.drive d)) :
    (s.runAtSlot0 d).cell a = (s.set (CLK.PLL_STAT_SLOT_NOW (Die.drive d)) 0).cell a := by
  unfold State.runAtSlot0
  extract_lets e w s1 s2
  have h1 : s1.cell a = (s.set (CLK.PLL_STAT_SLOT_NOW e) 0).cell a := State.cell_setB_ne _ _ _ _ hf
  have h2 : s2.cell a = s1.cell a := (State.cell_set_ne _ _ _ _ hs).trans (State.cell_set_ne _ _ _ _ hs)
  exact ((State.cell_setB_ne _ _ _ _ hf).trans (State.cell_set_ne _ _ _ _ hf)).trans (h2.trans h1)

/-- The timebase at SLOT0 leaves the fields of PLL_STAT but SLOT_NOW. -/
theorem State.runAtSlot0_get (s : State) (d : Nat) {g : RF} (ha : g.addr = CLK.PLL_STAT (Die.drive d))
    (hg : (CLK.PLL_STAT_SLOT_NOW (Die.drive d)).apart g = true) : (s.runAtSlot0 d).get g = s.get g :=
  (State.get_of_cell (s.runAtSlot0_cell_after d (ha ▸ hopStat_ne_pllStat _) (ha ▸ hopFlag_ne_pllStat _))).trans (State.get_set_apart _ _ hg)

/-! ### Lock (R62-R64) -/

/-- A lock leaves what PLL_STAT shows once LOCK is set and HOLDOVER cleared, but for BAND and SLOT_NOW. -/
theorem State.pllLock_get (s : State) (e : Die) (hot : Bool) {g : RF} (ha : g.addr = CLK.PLL_STAT e)
    (hb : (CLK.PLL_STAT_BAND e).apart g = true) (hn : (CLK.PLL_STAT_SLOT_NOW e).apart g = true) :
    (s.pllLock e hot).get g = ((s.setB (CLK.PLL_STAT_LOCK e) true).setB (CLK.PLL_STAT_HOLDOVER e) false).get g := by
  unfold State.pllLock
  extract_lets s1 s2
  have h2 : s2.get g = s1.get g := by
    unfold s2
    split
    · exact State.get_set_apart _ _ hb
    · rfl
  clear_value s2
  split
  case isFalse => exact h2
  case isTrue hd =>
    have he : Die.drive e.driveNo = e := Die.drive_driveNo (Bool.and_eq_true_iff.1 hd).1
    refine (State.get_of_cell (State.refreshHopNext_cell _ _ ?_ ?_)).trans ((State.runAtSlot0_get _ _ ?_ ?_).trans h2)
    · rw [he, ha]; exact hopStat_ne_pllStat e
    · rw [he, ha]; exact hopFlag_ne_pllStat e
    · rw [he, ha]
    · rw [he]; exact hn

/-- R62, R64: a lock shows LOCK and ends holdover. -/
theorem pllLock_shows (e : Die) (hot : Bool) (s : State) (hs : s.settling e = false) (hr : s.mainRuns = true) :
    Completes (exec (.pllLock e hot) s) (fun t => t.flag (CLK.PLL_STAT_LOCK e) = true ∧ t.flag (CLK.PLL_STAT_HOLDOVER e) = false) := by
  refine completes_whileRuns hr (completes_next ?_)
  rw [if_neg (by simp [hs])]
  refine ⟨(State.flag_of_get (State.pllLock_get s e hot rfl rfl rfl)).trans ?_,
    (State.flag_of_get (State.pllLock_get s e hot rfl rfl rfl)).trans ?_⟩
  · exact (State.flag_of_get (State.get_setB_apart _ _ rfl)).trans (State.flag_setB_self _ _ _ (of_decide_eq_true rfl) Nat.one_pos)
  · exact State.flag_setB_self _ _ _ (of_decide_eq_true rfl) Nat.one_pos

/-- What the registers show of a loss of lock. -/
def State.lockLost (s : State) (e : Die) : State := (s.setB (CLK.PLL_STAT_LOCK e) false).incSat (CLK.PLL_STAT_LOL_CNT e)

theorem execPllLossOfLock_eq (e : Die) (s : State) (hl : s.flag (CLK.PLL_STAT_LOCK e) = true) (hs : s.settling e = false) :
    execPllLossOfLock e s = s.whileRuns (.next (if e.isDrive then (s.lockLost e).event .flagEvent e [CLK.PLL_STAT e,
      (s.lockLost e).get (CLK.PLL_STAT_LOL_CNT e)] else s.lockLost e)) := by
  unfold execPllLossOfLock
  rw [if_neg (by simp [hl, hs])]
  rfl

/-- R63: LOCK clears and LOL_CNT counts; a drive die sends an event besides. -/
theorem pllLossOfLock_counts (e : Die) (s : State) (hl : s.flag (CLK.PLL_STAT_LOCK e) = true) (hs : s.settling e = false)
    (hr : s.mainRuns = true) :
    Completes (exec (.pllLossOfLock e) s) (fun t => t.flag (CLK.PLL_STAT_LOCK e) = false ∧
      t.get (CLK.PLL_STAT_LOL_CNT e) = min (s.get (CLK.PLL_STAT_LOL_CNT e) + 1) (2 ^ (CLK.PLL_STAT_LOL_CNT e).w - 1) ∧
      SameBut [.regs, .out] s t ∧ RegsBut [(CLK.PLL_STAT_LOCK e).addr] s t) := by
  have : Open (fun p => p ∉ [Part.regs, .out]) .regs := open_of_mem (by decide)
  have : Open (fun p => p ∉ [Part.regs, .out]) .out := open_of_mem (by decide)
  have hlock : (s.lockLost e).flag (CLK.PLL_STAT_LOCK e) = false :=
    (State.flag_of_get (State.get_incSat_apart _ rfl)).trans (State.flag_setB_self _ _ _ (of_decide_eq_true rfl) Nat.one_pos)
  have hcnt : (s.lockLost e).get (CLK.PLL_STAT_LOL_CNT e) =
      min (s.get (CLK.PLL_STAT_LOL_CNT e) + 1) (2 ^ (CLK.PLL_STAT_LOL_CNT e).w - 1) := by
    unfold State.lockLost
    rw [State.get_incSat_self _ _ (of_decide_eq_true rfl), State.get_setB_apart _ _ rfl]
  have hkeep : Keeps (fun p => p ∉ [Part.regs, .out]) s (s.lockLost e) :=
    State.incSat_keeps (State.setB_keeps (Keeps.refl _ s) _ _) _
  have hregs : RegsBut [(CLK.PLL_STAT_LOCK e).addr] s (s.lockLost e) :=
    (State.setReg_regsBut _ _ _ List.mem_cons_self).trans (State.setReg_regsBut _ _ _ List.mem_cons_self)
  show Completes (execPllLossOfLock e s) _
  rw [execPllLossOfLock_eq e s hl hs]
  refine completes_whileRuns hr (completes_next ?_)
  split
  · have hcell : ∀ a, ((s.lockLost e).event .flagEvent e [CLK.PLL_STAT e, (s.lockLost e).get (CLK.PLL_STAT_LOL_CNT e)]).cell a =
        (s.lockLost e).cell a := fun a => State.send_cell _ _ a
    exact ⟨(State.flag_of_cell (hcell _)).trans hlock, (State.get_of_cell (hcell _)).trans hcnt,
      (State.event_keeps hkeep _ _ _).sameBut, hregs.trans fun a _ => hcell a⟩
  · exact ⟨hlock, hcnt, hkeep.sameBut, hregs⟩

/-- R64: holdover begins with the loss of the reference. -/
theorem pllHoldover_shows (e : Die) (s : State) (hr : s.mainRuns = true) :
    Completes (exec (.pllHoldover e) s) (fun t => t.flag (CLK.PLL_STAT_HOLDOVER e) = true ∧ t.flag (CLK.PLL_STAT_REF_LOST e) = true ∧
      SameBut [.regs] s t ∧ RegsBut [(CLK.PLL_STAT_HOLDOVER e).addr] s t) := by
  refine completes_whileRuns hr (completes_next ⟨?_, ?_, ?_, ?_⟩)
  · exact (State.flag_of_get (State.get_setB_apart _ _ rfl)).trans (State.flag_setB_self _ _ _ (of_decide_eq_true rfl) Nat.one_pos)
  · exact State.flag_setB_self _ _ _ (of_decide_eq_true rfl) Nat.one_pos
  · exact (State.setReg_sameBut _ _ _).trans (State.setReg_sameBut _ _ _)
  · exact (State.setReg_regsBut _ _ _ List.mem_cons_self).trans (State.setReg_regsBut _ _ _ List.mem_cons_self)

/-! ### Bands (R61, R65) -/

theorem ofSigned_lt (n : Nat) (i : Int) : ofSigned n i < 2 ^ n := by
  have hpos : (0 : Int) < ((2 ^ n : Nat) : Int) := by exact_mod_cast Nat.two_pow_pos n
  have h0 := Int.emod_nonneg i hpos.ne'
  have h1 := Int.emod_lt_of_pos i hpos
  unfold ofSigned
  omega

theorem bandWord_toNat (band : Nat) (tj : Int) : (bandWord band tj).toNat = 2 ^ 31 + 256 * ofSigned 8 tj + band % 64 := by
  have h := ofSigned_lt 8 tj
  unfold bandWord
  rw [BitVec.toNat_ofNat]
  omega

theorem bandWord_valid (band : Nat) (tj : Int) : getBits (bandWord band tj) 31 1 = 1 := by
  have h := ofSigned_lt 8 tj
  unfold getBits
  rw [bandWord_toNat, Nat.shiftRight_eq_div_pow]
  omega

theorem bandWord_band (band : Nat) (tj : Int) : getBits (bandWord band tj) 0 6 = band % 64 := by
  unfold getBits
  rw [bandWord_toNat, Nat.shiftRight_zero]
  omega

/-- A search writes the entry of every slot it was for. -/
theorem State.writeBands_reg (s : State) (e : Die) (slots : List Nat) (band : Nat) (tj : Int) : ∀ k ∈ slots,
    (s.writeBands e slots band tj).reg (CLK.BAND e (2 * k + tempClass tj)) = bandWord band tj := by
  refine foldOver_each (Q := fun k t => t.reg (CLK.BAND e (2 * k + tempClass tj)) = bandWord band tj) slots _ s
    (fun k _ t => State.reg_setReg_self _ _ _) (fun k _ j t ht => ?_)
  by_cases h : CLK.BAND e (2 * j + tempClass tj) = CLK.BAND e (2 * k + tempClass tj)
  · rw [h, State.reg_setReg_self]
  · rw [State.reg_setReg_ne _ _ _ _ h, ht]

theorem State.zero_mem_slotsInUse (s : State) (e : Die) : 0 ∈ s.slotsInUse e := by
  unfold State.slotsInUse
  split
  · exact List.mem_cons_self
  · exact List.mem_range.2 (by omega)

/-- R61, R65: the band is in force, and stands in the entry of SLOT0 for the present class. -/
theorem bandSearchComplete_shows (e : Die) (band : BitVec 6) (tj : Int) (covers : Bool) (s : State) (hr : s.mainRuns = true) :
    Completes (exec (.bandSearchComplete e band tj covers) s) (fun t => t.get (CLK.PLL_STAT_BAND e) = band.toNat ∧
      t.flag (CLK.PLL_STAT_SEARCH_ACT e) = false ∧ t.flag (CLK.BAND_VALID e (tempClass tj)) = true ∧
      t.get (CLK.BAND_BAND e (tempClass tj)) = band.toNat) := by
  have hb : band.toNat % 64 = band.toNat := Nat.mod_eq_of_lt band.isLt
  have h0 : 0 ∈ (if covers then s.slotsInUse e else [0]) := by
    split
    · exact s.zero_mem_slotsInUse e
    · exact List.mem_cons_self
  have hreg : (s.bandSearch e band.toNat tj covers).reg (CLK.BAND e (tempClass tj)) = bandWord band.toNat tj := by
    refine (State.reg_of_cell ((State.cell_setB_ne _ _ _ _ (band_ne_pllStat e _)).trans (State.cell_set_ne _ _ _ _ (band_ne_pllStat e _)))).trans ?_
    simpa using s.writeBands_reg e _ band.toNat tj 0 h0
  refine completes_whileRuns hr (completes_next ⟨?_, ?_, ?_, ?_⟩)
  · exact (State.get_setB_apart _ _ rfl).trans ((State.get_set_self _ _ _ (of_decide_eq_true rfl)).trans hb)
  · exact State.flag_setB_self _ _ _ (of_decide_eq_true rfl) Nat.one_pos
  · have hv : getBits ((s.bandSearch e band.toNat tj covers).reg (CLK.BAND e (tempClass tj))) 31 1 ≠ 0 := by
      rw [hreg, bandWord_valid]
      decide
    exact decide_eq_true hv
  · have hv : getBits ((s.bandSearch e band.toNat tj covers).reg (CLK.BAND e (tempClass tj))) 0 6 = band.toNat := by
      rw [hreg, bandWord_band, hb]
    exact hv

/-! ### Clock monitor (R75) -/

theorem lowerReg_mon {k : Nat} (hk : k < 10) : lowerReg (CKMON.MON k) = true := by
  unfold lowerReg CKMON.MON
  rw [decide_eq_true (by omega), decide_eq_true (by omega), Bool.and_self]

theorem mon_ne {i j : Nat} (h : j ≠ i) : CKMON.MON j ≠ CKMON.MON i := by
  simp only [CKMON.MON]
  omega

/-- What follows from the flags leaves what the monitor shows of a source. -/
theorem State.monitorReact_mon (s : State) (i : Nat) (was : Bool) {k : Nat} (hk : k < 10) :
    (s.monitorReact i was).cell (CKMON.MON k) = s.cell (CKMON.MON k) :=
  (LowerSame.refl s).monitorReact i was (CKMON.MON k) (lowerReg_mon hk)

/-- R75: LOSS stands, whatever follows from it. -/
theorem ckmonLoss_shows (k : Fin 10) (s : State) (hr : s.mainRuns = true) :
    Completes (exec (.ckmonLoss k) s) (fun t => t.flag (CKMON.MON_LOSS k) = true) := by
  refine completes_whileRuns hr (completes_next ?_)
  exact (State.flag_of_cell (State.monitorReact_mon _ k _ k.isLt)).trans (State.flag_setB_self _ _ _ (of_decide_eq_true rfl) Nat.one_pos)

/-- What the register of source `k` shows of a measurement. -/
def State.monShown (s : State) (k meas : Nat) (full : Bool) : State :=
  if s.outOfWindow meas then (s.set (CKMON.MON_MEAS k) meas).setB (CKMON.MON_OOR k) true
  else if full then ((s.set (CKMON.MON_MEAS k) meas).setB (CKMON.MON_OOR k) false).setB (CKMON.MON_LOSS k) false
  else s.set (CKMON.MON_MEAS k) meas

theorem State.monitorWindow_eq (s : State) (k meas : Nat) (full : Bool) :
    s.monitorWindow k meas full = (s.monShown k meas full).monitorReact k (s.flag (CKMON.MON_LOSS k) || s.flag (CKMON.MON_OOR k)) := rfl

theorem State.monShown_meas (s : State) (k meas : Nat) (full : Bool) :
    (s.monShown k meas full).get (CKMON.MON_MEAS k) = meas % 2 ^ (CKMON.MON_MEAS k).w := by
  have h : (s.set (CKMON.MON_MEAS k) meas).get (CKMON.MON_MEAS k) = meas % 2 ^ (CKMON.MON_MEAS k).w :=
    State.get_set_self _ _ _ (of_decide_eq_true rfl)
  unfold State.monShown
  split
  · exact (State.get_setB_apart _ _ rfl).trans h
  · split
    · exact (State.get_setB_apart _ _ rfl).trans ((State.get_setB_apart _ _ rfl).trans h)
    · exact h

theorem State.monShown_oor (s : State) (k meas : Nat) (full : Bool) (h : s.outOfWindow meas = true) :
    (s.monShown k meas full).flag (CKMON.MON_OOR k) = true := by
  unfold State.monShown
  rw [if_pos h]
  exact State.flag_setB_self _ _ _ (of_decide_eq_true rfl) Nat.one_pos

theorem State.monShown_other (s : State) (i meas : Nat) (full : Bool) {k : Nat} (h : k ≠ i) :
    (s.monShown i meas full).cell (CKMON.MON k) = s.cell (CKMON.MON k) := by
  have hset : (s.set (CKMON.MON_MEAS i) meas).cell (CKMON.MON k) = s.cell (CKMON.MON k) := State.cell_set_ne _ _ _ _ (mon_ne h)
  unfold State.monShown
  split
  · exact (State.cell_setB_ne _ _ _ _ (mon_ne h)).trans hset
  · split
    · exact (State.cell_setB_ne _ _ _ _ (mon_ne h)).trans ((State.cell_setB_ne _ _ _ _ (mon_ne h)).trans hset)
    · exact hset

/-- The window W is a dictionary value, which no measurement changes. -/
theorem State.outOfWindow_of_vars {s t : State} (h : t.vars = s.vars) (meas : Nat) : t.outOfWindow meas = s.outOfWindow meas := by
  unfold State.outOfWindow State.dnat State.dint State.dval
  rw [h]

theorem State.monitorWindow_vars (s : State) (k meas : Nat) (full : Bool) : (s.monitorWindow k meas full).vars = s.vars := by
  have h : ∀ q : Part, q ≠ .vars → Open (fun p => p = .vars) q := fun _ hq => open_of_eq hq
  have := h .regs (by decide)
  have := h .out (by decide)
  have := h .ports (by decide)
  have := h .tgs (by decide)
  have := h .drives (by decide)
  have := h .life (by decide)
  have := h .sys (by decide)
  have := h .keeper (by decide)
  have := h .arb (by decide)
  have := h .safety (by decide)
  exact (State.monitorWindow_keeps (Keeps.refl (fun p => p = .vars) s) k meas full).same .vars rfl

/-- What the register of source `k` is to show at the end of a window. -/
def State.measured (t : State) (meas : Nat) (k : Nat) : Prop :=
  t.get (CKMON.MON_MEAS k) = meas % 2 ^ (CKMON.MON_MEAS k).w ∧ (t.outOfWindow meas = true → t.flag (CKMON.MON_OOR k) = true)

theorem State.monitorWindow_measured (s : State) {k : Nat} (meas : Nat) (full : Bool) (hk : k < 10) :
    (s.monitorWindow k meas full).measured meas k := by
  have hcell : (s.monitorWindow k meas full).cell (CKMON.MON k) = (s.monShown k meas full).cell (CKMON.MON k) :=
    State.monitorReact_mon _ k _ hk
  refine ⟨(State.get_of_cell hcell).trans (s.monShown_meas k meas full), fun hw => ?_⟩
  rw [State.outOfWindow_of_vars (s.monitorWindow_vars k meas full)] at hw
  exact (State.flag_of_cell hcell).trans (s.monShown_oor k meas full hw)

/-- The measurement of one source leaves what another shows. -/
theorem State.monitorWindow_measured_other (s : State) {i k : Nat} (meas meas' : Nat) (full : Bool) (hk : k < 10) (h : k ≠ i)
    (hs : s.measured meas k) : (s.monitorWindow i meas' full).measured meas k := by
  have hcell : (s.monitorWindow i meas' full).cell (CKMON.MON k) = s.cell (CKMON.MON k) :=
    (State.monitorReact_mon _ i _ hk).trans (s.monShown_other i meas' full h)
  refine ⟨(State.get_of_cell hcell).trans hs.1, fun hw => (State.flag_of_cell hcell).trans (hs.2 ?_)⟩
  rwa [State.outOfWindow_of_vars (s.monitorWindow_vars i meas' full)] at hw

/-- R75: every source shows its measurement, and OOR outside the window. -/
theorem ckmonWindowEnd_shows (meas : Vector (BitVec 16 × Bool) 10) (s : State) (hr : s.mainRuns = true) :
    Completes (exec (.ckmonWindowEnd meas) s) (fun t => ∀ k : Fin 10,
      t.get (CKMON.MON_MEAS k) = (vget meas k).1.toNat % 2 ^ (CKMON.MON_MEAS k).w ∧
      (s.outOfWindow (vget meas k).1.toNat = true → t.flag (CKMON.MON_OOR k) = true)) := by
  refine completes_whileRuns hr (completes_next fun k => ?_)
  have hvars : (foldOver (List.range 10) (fun k t => t.monitorWindow k (vget meas k).1.toNat (vget meas k).2) s).vars = s.vars :=
    foldOver_preserves (P := fun t => t.vars = s.vars) _ _ s rfl fun i _ t ht => (t.monitorWindow_vars i _ _).trans ht
  rw [← State.outOfWindow_of_vars hvars]
  refine foldOver_each (Q := fun i t => i < 10 → t.measured (vget meas i).1.toNat i) (List.range 10) _ s
    (fun i _ t hi => t.monitorWindow_measured _ _ hi) (fun i _ j t ht hj => ?_) k (List.mem_range.2 k.isLt) k.isLt
  by_cases h : j = i
  · subst h
    exact t.monitorWindow_measured _ _ hj
  · exact t.monitorWindow_measured_other _ _ _ hj h (ht hj)

/-! ### Real-time clock (R77-R79) -/

/-- RTC_SEC and RTC_SUB set together. -/
def State.setRtc (s : State) (sec sub : Nat) : State := (s.set RTC.RTC_SEC_SEC sec).set RTC.RTC_SUB_SUB sub

theorem State.setRtc_sec (s : State) (sec sub : Nat) : (s.setRtc sec sub).get RTC.RTC_SEC_SEC = sec % 2 ^ 32 :=
  (State.get_set_ne _ _ _ _ (by decide)).trans (State.get_set_self _ _ _ (by decide))

theorem State.setRtc_sub (s : State) (sec sub : Nat) : (s.setRtc sec sub).get RTC.RTC_SUB_SUB = sub % 2 ^ 15 :=
  State.get_set_self _ _ _ (by decide)

theorem State.setRtc_sameBut (s : State) (sec sub : Nat) : SameBut [.regs] s (s.setRtc sec sub) :=
  (State.setReg_sameBut _ _ _).trans (State.setReg_sameBut _ _ _)

theorem State.setRtc_regsBut (s : State) (sec sub : Nat) : RegsBut [RTC.RTC_SEC, RTC.RTC_SUB] s (s.setRtc sec sub) :=
  (State.setReg_regsBut _ _ _ List.mem_cons_self).trans (State.setReg_regsBut _ _ _ (List.mem_cons_of_mem _ List.mem_cons_self))

theorem ofSigned_cast (n : Nat) (i : Int) : (ofSigned n i : Int) = i % 2 ^ n := by
  unfold ofSigned
  rw [Int.toNat_of_nonneg (Int.emod_nonneg i (by positivity))]
  push_cast
  rfl

/-- R77: TRIM is added to the 47 bits of SEC and SUB. -/
theorem rtcTrim_adds (s : State) (hk : s.keeper.powered = true) :
    Completes (exec .rtcTrim s) (fun t => (t.get RTC.RTC_SEC_SEC : Int) * 32768 + t.get RTC.RTC_SUB_SUB = ((s.get RTC.RTC_SEC_SEC : Int) * 32768 +
      s.get RTC.RTC_SUB_SUB + s.getS RTC.RTC_TRIM_TRIM) % 2 ^ 47 ∧ SameBut [.regs] s t ∧ RegsBut [RTC.RTC_SEC, RTC.RTC_SUB] s t) := by
  refine completes_next ?_
  rw [if_neg (by simp [hk])]
  refine ⟨?_, State.setRtc_sameBut s _ _, State.setRtc_regsBut s _ _⟩
  have hn := ofSigned_lt 47 ((s.get RTC.RTC_SEC_SEC : Int) * 32768 + s.get RTC.RTC_SUB_SUB + s.getS RTC.RTC_TRIM_TRIM)
  rw [← ofSigned_cast 47]
  refine (congrArg₂ (fun a b : Nat => (a : Int) * 32768 + b) (State.setRtc_sec s _ _) (State.setRtc_sub s _ _)).trans ?_
  omega

/-- R78. -/
theorem rtcXtalFail_shows (s : State) (hk : s.keeper.powered = true) :
    Completes (exec .rtcXtalFail s) (fun t => t.flag RTC.RTC_FLAG_RTC_XTAL_FAIL = true ∧ SameBut [.regs] s t ∧ RegsBut [RTC.RTC_FLAG] s t) := by
  refine completes_next ?_
  rw [if_pos hk]
  exact ⟨State.flag_setB_self _ _ _ (by decide) Nat.one_pos, State.setReg_sameBut _ _ _, State.setReg_regsBut _ _ _ List.mem_cons_self⟩

theorem State.modNet_sameBut (s : State) (f : Net → Net) : SameBut [.net] s (s.modNet f) :=
  have : Open (fun p => p ∉ [Part.net]) .net := open_of_mem (by decide)
  Keeps.sameBut (State.modNet_keeps (Keeps.refl _ s) f)

/-- R79: the request waits for the next second of domain A. -/
theorem rtcSync_accepted (s : State) (hl : s.lockA = true) (hr : s.mainRuns = true) :
    Completes (exec .rtcSync s) (fun t => t.net.rtcSync = true ∧ SameBut [.net] s t) := by
  refine completes_whileRuns hr (completes_next ?_)
  rw [if_pos hl]
  exact ⟨rfl, State.modNet_sameBut s _⟩

/-- The request that RTC_SYNC left, taken. -/
def State.syncTaken (s : State) : State := s.modNet (fun n => { n with rtcSync := false })

theorem execRtcSyncApply_eq (sec : Nat) (s : State) (hn : s.net.rtcSync = true) (hk : s.keeper.powered = true) :
    execRtcSyncApply sec s = s.whileRuns (.next (s.syncTaken.setRtc (ofSigned 32 ((sec : Int) - s.utcOfsA - 946684800)) 0)) := by
  have hk' : ¬(!s.syncTaken.keeper.powered) = true := by
    rw [show s.syncTaken.keeper.powered = true from hk]
    decide
  unfold execRtcSyncApply
  rw [if_neg (by simp [hn])]
  exact congrArg (fun t => s.whileRuns (.next t)) (if_neg hk')

theorem SameBut.mono {l l' : List Part} {s t : State} (h : SameBut l s t) (hl : ∀ p ∈ l, p ∈ l') : SameBut l' s t :=
  ⟨h.1, fun p hp => h.2 p fun hm => hp (hl p hm)⟩

/-- R79: the second of UTC since 2000 is taken, SUB is 0. -/
theorem rtcSyncApply_sets (sec : Nat) (s : State) (hn : s.net.rtcSync = true) (hk : s.keeper.powered = true) (hr : s.mainRuns = true) :
    Completes (exec (.rtcSyncApply sec) s) (fun t => t.net.rtcSync = false ∧
      (t.get RTC.RTC_SEC_SEC : Int) = ((sec : Int) - s.utcOfsA - 946684800) % 2 ^ 32 ∧ t.get RTC.RTC_SUB_SUB = 0 ∧ SameBut [.regs, .net] s t ∧
      RegsBut [RTC.RTC_SEC, RTC.RTC_SUB] s t) := by
  show Completes (execRtcSyncApply sec s) _
  rw [execRtcSyncApply_eq sec s hn hk]
  refine completes_whileRuns hr (completes_next ⟨rfl, ?_, State.setRtc_sub _ _ _, ?_, State.setRtc_regsBut s.syncTaken _ _⟩)
  · rw [State.setRtc_sec, Nat.mod_eq_of_lt (ofSigned_lt 32 _), ofSigned_cast]
  · exact ((State.modNet_sameBut s _).mono (by decide)).trans ((State.setRtc_sameBut s.syncTaken _ _).mono (by decide))

/-- Settles O8: one lemma for each command. -/
theorem clocksAndTime : Obligations.ClocksAndTime := by
  unfold Obligations.ClocksAndTime
  exact ⟨pllLock_shows, pllLossOfLock_counts, pllHoldover_shows, bandSearchComplete_shows, ckmonLoss_shows, ckmonWindowEnd_shows, rtcTrim_adds,
    rtcXtalFail_shows, rtcSync_accepted, rtcSyncApply_sets⟩

end Sys2Proof.Machine
end

section
/-! SUPPORT and the obligation on hopping (O9). -/

namespace Sys2Proof.Machine

/-! ### The clock block of a drive die -/

theorem Die.base_drive (d : Fin 4) : (Die.drive d).base = 0x40000000 + d * 0x1000000 := by
  fin_cases d <;> rfl

theorem Die.code_lt (e : Die) : e.code < 8 := by
  cases e <;> decide

theorem hopCfg_ne_slot (e : Die) (k : Nat) : CLK.SLOT e k ≠ CLK.HOP_CFG e := by
  simp only [CLK.SLOT, CLK.HOP_CFG]
  omega

theorem hopCfg_ne_band (e : Die) (k : Nat) : CLK.BAND e k ≠ CLK.HOP_CFG e := by
  simp only [CLK.BAND, CLK.HOP_CFG]
  omega

theorem hopCfg_ne_pwmStat (d : Fin 4) (k : Nat) : PWM.STAT d k ≠ CLK.HOP_CFG (Die.drive d) := by
  simp only [PWM.STAT, CLK.HOP_CFG, Die.base_drive]
  omega

theorem hopCfg_ne_shown (e : Die) : CLK.HOP_CFG e ≠ CLK.PLL_STAT e ∧ CLK.HOP_CFG e ≠ CLK.HOP_STAT e ∧ CLK.HOP_CFG e ≠ CLK.HOP_FLAG e := by
  simp only [CLK.HOP_CFG, CLK.PLL_STAT, CLK.HOP_STAT, CLK.HOP_FLAG]
  omega

theorem hopFlag_ne_hopStat (e : Die) : CLK.HOP_STAT e ≠ CLK.HOP_FLAG e := by
  simp only [CLK.HOP_STAT, CLK.HOP_FLAG]
  omega

theorem vget_ofFn {α : Type} [Inhabited α] {n : Nat} (f : Fin n → α) (i : Fin n) : vget (Vector.ofFn f) i = f i := by
  simp [vget]

theorem State.hop_modHop_self (s : State) (d : Fin 4) (f : Hop → Hop) : (s.modHop d f).hop d = f (s.hop d) := vget_vmod_self _ _ _ d.isLt

theorem State.hop_of_hops {s t : State} (h : t.hops = s.hops) (d : Nat) : t.hop d = s.hop d := by
  unfold State.hop
  rw [h]

theorem SameBut.same {l : List Part} {s t : State} (h : SameBut l s t) (p : Part) (hp : p ∉ l) : p.Same s t := h.2 p hp

theorem State.refreshHopNext_sameBut (s : State) (d : Nat) : SameBut [.regs] s (s.refreshHopNext d) :=
  have : Open (fun p => p ∉ [Part.regs]) .regs := open_of_mem (by decide)
  Keeps.sameBut (State.refreshHopNext_keeps (Keeps.refl _ s) d)

theorem State.refreshHopNext_hops (s : State) (d : Nat) : (s.refreshHopNext d).hops = s.hops :=
  (s.refreshHopNext_sameBut d).same .hops (by decide)

theorem State.runAtSlot0_hops (s : State) (d : Nat) : (s.runAtSlot0 d).hops = s.hops :=
  have : Open (fun p => p = Part.hops) .regs := open_of_eq (by decide)
  (State.runAtSlot0_keeps (Keeps.refl (fun p => p = .hops) s) d).same .hops rfl

theorem State.runAtSlot0_cell (s : State) (d : Nat) {a : Nat} (hp : a ≠ CLK.PLL_STAT (Die.drive d)) (hs : a ≠ CLK.HOP_STAT (Die.drive d))
    (hf : a ≠ CLK.HOP_FLAG (Die.drive d)) : (s.runAtSlot0 d).cell a = s.cell a :=
  (s.runAtSlot0_cell_after d hs hf).trans (State.cell_set_ne _ _ _ _ hp)

theorem State.hopMaster_of_cell {s t : State} {d : Nat} (h : ∀ k, t.cell (PWM.STAT d k) = s.cell (PWM.STAT d k)) :
    t.hopMaster d = s.hopMaster d := by
  have hk : ∀ k, t.grpRuns d k = s.grpRuns d k := fun k => State.flag_of_cell (f := PWM.STAT_RUN d k) (h k)
  unfold State.hopMaster
  rw [funext hk]

/-- The hop-master group is one of the four groups of its die. -/
theorem State.hopMaster_lt {s : State} {d m : Nat} (h : s.hopMaster d = some m) : m < 4 :=
  List.mem_range.1 (List.mem_of_find?_eq_some h)

/-! ### HOP_EN written (R68, R74) -/

theorem State.checkParity_ok (s : State) (a : Nat) (byRead : Bool) (h : s.parityOk a = true) : s.checkParity a byRead = s := by
  rw [State.checkParity_eq, h, Bool.not_true, Bool.and_false, if_neg Bool.false_ne_true]

/-- HOP_EN written. -/
def State.withHopEn (s : State) (d : Nat) (en : Bool) : State := s.setB (CLK.HOP_CFG_HOP_EN (Die.drive d)) en

theorem State.withHopEn_flag (s : State) (d : Nat) (en : Bool) : (s.withHopEn d en).flag (CLK.HOP_CFG_HOP_EN (Die.drive d)) = en :=
  State.flag_setB_self _ _ _ (of_decide_eq_true rfl) Nat.one_pos

theorem State.withHopEn_cell (s : State) (d : Nat) (en : Bool) {a : Nat} (h : a ≠ CLK.HOP_CFG (Die.drive d)) :
    (s.withHopEn d en).cell a = s.cell a := State.cell_setB_ne _ _ _ _ h

theorem State.withHopEn_hopMaster (s : State) (d : Fin 4) (en : Bool) : (s.withHopEn d en).hopMaster d = s.hopMaster d :=
  State.hopMaster_of_cell fun k => s.withHopEn_cell d en (hopCfg_ne_pwmStat d k)

/-- A write that sets HOP_EN starts hopping. -/
theorem State.hopCfgApply_rises (s : State) (d : Nat) (h : s.flag (CLK.HOP_CFG_HOP_EN (Die.drive d)) = false) :
    s.hopCfgApply d (putBits (s.reg (CLK.HOP_CFG (Die.drive d))) 0 1 1) = (s.withHopEn d true).hopStart d := by
  show (if s.flag _ = (s.withHopEn d true).flag _ then _ else if (s.withHopEn d true).flag _ then _ else _) = _
  rw [h, State.withHopEn_flag, if_neg Bool.false_ne_true, if_pos rfl]
  rfl

/-- A write that clears HOP_EN ends hopping. -/
theorem State.hopCfgApply_falls (s : State) (d : Nat) (h : s.flag (CLK.HOP_CFG_HOP_EN (Die.drive d)) = true) :
    s.hopCfgApply d (putBits (s.reg (CLK.HOP_CFG (Die.drive d))) 0 1 0) = (s.withHopEn d false).hopStop d := by
  show (if s.flag _ = (s.withHopEn d false).flag _ then _ else if (s.withHopEn d false).flag _ then _ else _) = _
  rw [h, State.withHopEn_flag, if_neg Bool.false_ne_true.symm, if_neg Bool.false_ne_true]
  rfl

theorem execHopEnSet_eq (d : Fin 4) (s : State) (h : s.flag (CLK.HOP_CFG_HOP_EN (Die.drive d)) = false)
    (hp : s.parityOk (CLK.HOP_CFG (Die.drive d)) = true) : execHopEnSet d s = s.whileRuns (.next ((s.withHopEn d true).hopStart d)) := by
  unfold execHopEnSet
  rw [State.checkParity_ok _ _ _ hp]
  exact congrArg (fun t => s.whileRuns (.next t)) (s.hopCfgApply_rises d h)

theorem execHopEnClear_eq (d : Fin 4) (s : State) (h : s.flag (CLK.HOP_CFG_HOP_EN (Die.drive d)) = true)
    (hp : s.parityOk (CLK.HOP_CFG (Die.drive d)) = true) : execHopEnClear d s = s.whileRuns (.next ((s.withHopEn d false).hopStop d)) := by
  unfold execHopEnClear
  rw [State.checkParity_ok _ _ _ hp]
  exact congrArg (fun t => s.whileRuns (.next t)) (s.hopCfgApply_falls d h)

/-! ### The start of hopping (R68-R70) -/

/-- R69: a first slot out of range refuses the list, whatever the bands. -/
theorem State.hopStart_refused (s : State) (d : Nat) (h : slotInRange (s.reg (CLK.SLOT (Die.drive d) 0)).toNat = false) :
    (s.hopStart d).flag (CLK.HOP_FLAG_HOP_CFG_ERR (Die.drive d)) = true ∧ (s.hopStart d).hops = s.hops := by
  unfold State.hopStart
  extract_lets e list cfgErr bandErr s1 s2 slots mode div len seed
  have hcfg : cfgErr = true := by
    have h0 : list.any (fun k => !slotInRange (s.reg (CLK.SLOT e k)).toNat) = true :=
      List.any_eq_true.2 ⟨0, List.mem_range.2 (by omega), by rw [h]; rfl⟩
    unfold cfgErr
    rw [h0, Bool.true_or]
  have h1 : s1 = s.setB (CLK.HOP_FLAG_HOP_CFG_ERR e) true := if_pos hcfg
  rw [if_pos (by rw [hcfg, Bool.true_or])]
  have hflag : s1.flag (CLK.HOP_FLAG_HOP_CFG_ERR e) = true := by
    rw [h1]
    exact State.flag_setB_self _ _ _ (of_decide_eq_true rfl) Nat.one_pos
  have hhops : s1.hops = s.hops := by rw [h1, State.setB_hops]
  unfold s2
  split
  · exact ⟨(State.flag_of_get (State.get_setB_apart _ _ rfl)).trans hflag, (State.setB_hops _ _ _).trans hhops⟩
  · exact ⟨hflag, hhops⟩

/-- The configuration as written, latched into a schedule (R68). -/
def State.latchHop (s : State) (d : Nat) (h : Hop) : Hop :=
  { h with
    latched := true
    mode := s.get (CLK.HOP_CFG_HOP_MODE (Die.drive d))
    div := s.get (CLK.HOP_CFG_HOP_DIV (Die.drive d))
    len := s.get (CLK.HOP_CFG_HOP_LEN (Die.drive d))
    seed := s.get (CLK.HOP_CFG_HOP_SEED (Die.drive d))
    slots := Vector.ofFn (fun k : Fin 8 => (s.reg (CLK.SLOT (Die.drive d) k)).toNat) }

/-- R68, R70: a list of SLOT0 alone is latched where SLOT0 is in range, has a band, and no group runs. -/
theorem State.hopStart_latches (s : State) (d : Nat) (hlen : s.get (CLK.HOP_CFG_HOP_LEN (Die.drive d)) ≤ 1)
    (hslot : slotInRange (s.reg (CLK.SLOT (Die.drive d) 0)).toNat = true) (hm : s.hopMaster d = none)
    (hv : s.flag (CLK.BAND_VALID (Die.drive d) 0) = true) : s.hopStart d = (s.modHop d (s.latchHop d)).refreshHopNext d := by
  unfold State.hopStart
  extract_lets e list cfgErr bandErr s1 s2 slots mode div len seed
  have hlen' : s.get (CLK.HOP_CFG_HOP_LEN e) ≤ 1 := hlen
  have hlist : list = [0] := congrArg List.range (by omega : max 1 (min 8 (s.get (CLK.HOP_CFG_HOP_LEN e))) = 1)
  have hdiffer : s.groupsDiffer d = false := by
    unfold State.groupsDiffer
    rw [hm]
  have hcfg : cfgErr = false := by
    unfold cfgErr
    rw [hlist, hdiffer, Bool.or_false, List.any_cons, List.any_nil, hslot]
    rfl
  have hband : bandErr = false := by
    have hhas : s.slotHasBand e 0 (s.get (CLK.BAND_BAND e 0)) = true :=
      List.any_eq_true.2 ⟨0, List.mem_cons_self, by rw [hv, decide_eq_true rfl]; rfl⟩
    have hany : (List.range 64).any (fun b => list.all (fun k => s.slotHasBand e k b)) = true :=
      List.any_eq_true.2 ⟨_, List.mem_range.2 (s.get_lt (CLK.BAND_BAND e 0)), by rw [hlist, List.all_cons, hhas]; rfl⟩
    unfold bandErr
    rw [hany]
    rfl
  have h1 : s1 = s := if_neg (by rw [hcfg]; exact Bool.false_ne_true)
  have h2 : s2 = s := (if_neg (by rw [hband]; exact Bool.false_ne_true)).trans h1
  rw [if_neg (by rw [hcfg, hband]; decide)]
  clear_value s2
  subst h2
  rfl

/-- R69: HOP_CFG_ERR, and no list is latched. -/
theorem hopEnSet_refused (d : Fin 4) (s : State) (h : s.flag (CLK.HOP_CFG_HOP_EN (Die.drive d)) = false)
    (hslot : slotInRange (s.reg (CLK.SLOT (Die.drive d) 0)).toNat = false) (hr : s.mainRuns = true)
    (hp : s.parityOk (CLK.HOP_CFG (Die.drive d)) = true) :
    Completes (exec (.hopEnSet d) s) (fun t => t.flag (CLK.HOP_FLAG_HOP_CFG_ERR (Die.drive d)) = true ∧ t.hops = s.hops) := by
  have hslot' : slotInRange ((s.withHopEn d true).reg (CLK.SLOT (Die.drive d) 0)).toNat = false := by
    rw [State.reg_of_cell (s.withHopEn_cell d true (hopCfg_ne_slot _ 0)), hslot]
  show Completes (execHopEnSet d s) _
  rw [execHopEnSet_eq d s h hp]
  obtain ⟨hflag, hhops⟩ := State.hopStart_refused _ d hslot'
  exact completes_whileRuns hr (completes_next ⟨hflag, hhops.trans (State.setB_hops _ _ _)⟩)

/-- R68, R70: a list of one slot is latched. -/
theorem hopEnSet_latches (d : Fin 4) (s : State) (h : s.flag (CLK.HOP_CFG_HOP_EN (Die.drive d)) = false)
    (hlen : s.get (CLK.HOP_CFG_HOP_LEN (Die.drive d)) ≤ 1) (hslot : slotInRange (s.reg (CLK.SLOT (Die.drive d) 0)).toNat = true)
    (hm : s.hopMaster d = none) (hv : s.flag (CLK.BAND_VALID (Die.drive d) 0) = true) (hr : s.mainRuns = true)
    (hp : s.parityOk (CLK.HOP_CFG (Die.drive d)) = true) :
    Completes (exec (.hopEnSet d) s) (fun t => (t.hop d).latched = true ∧ (t.hop d).seed = s.get (CLK.HOP_CFG_HOP_SEED (Die.drive d)) ∧
      vget (t.hop d).slots 0 = (s.reg (CLK.SLOT (Die.drive d) 0)).toNat) := by
  have hslotEq : (s.withHopEn d true).reg (CLK.SLOT (Die.drive d) 0) = s.reg (CLK.SLOT (Die.drive d) 0) :=
    State.reg_of_cell (s.withHopEn_cell d true (hopCfg_ne_slot _ 0))
  have hstart : (s.withHopEn d true).hopStart d = _ := State.hopStart_latches _ d
    ((State.get_setB_apart _ _ rfl).trans_le hlen) (by rw [hslotEq, hslot]) (by rw [s.withHopEn_hopMaster, hm])
    ((State.flag_of_cell (s.withHopEn_cell d true (hopCfg_ne_band _ 0))).trans hv)
  show Completes (execHopEnSet d s) _
  rw [execHopEnSet_eq d s h hp, hstart]
  refine completes_whileRuns hr (completes_next ?_)
  rw [State.hop_of_hops (State.refreshHopNext_hops _ _), State.hop_modHop_self]
  refine ⟨rfl, State.get_setB_apart _ _ rfl, ?_⟩
  rw [← hslotEq]
  exact vget_ofFn _ (0 : Fin 8)

/-! ### The end of hopping (R74) -/

/-- What the end of hopping does first: the latched values are in use no longer. -/
def State.unlatch (s : State) (d : Nat) : State := s.modHop d (fun h => { h with latched := false })

theorem State.unlatch_hop (s : State) (d : Fin 4) : (s.unlatch d).hop d = { s.hop d with latched := false } := State.hop_modHop_self s d _

theorem State.unlatch_cell (s : State) (d a : Nat) : (s.unlatch d).cell a = s.cell a := State.cell_of_regs (State.modHop_regs _ _ _) a

theorem State.unlatch_hopMaster (s : State) (d : Nat) : (s.unlatch d).hopMaster d = s.hopMaster d :=
  State.hopMaster_of_cell fun k => s.unlatch_cell d (PWM.STAT d k)

theorem State.hopStop_atOnce (s : State) (d : Nat) (h : s.hopMaster d = none) : s.hopStop d = (s.unlatch d).hopReturn d :=
  if_pos (congrArg Option.isNone ((s.unlatch_hopMaster d).trans h))

theorem State.hopStop_waits (s : State) (d m : Nat) (h : s.hopMaster d = some m) :
    s.hopStop d = ((s.unlatch d).modHop d (fun h => { h with returning := true })).refreshHopNext d :=
  if_neg (ne_true_of_eq_false (congrArg Option.isNone ((s.unlatch_hopMaster d).trans h)))

/-- A schedule after the return to SLOT0. -/
def Hop.returned (h : Hop) : Hop := { h with active := false, returning := false, last := 0 }

/-- Lock evaluation is suspended where the return changes the slot (R72). -/
def State.returnSettles (s : State) (d : Nat) : State :=
  if s.get (CLK.PLL_STAT_SLOT_NOW (Die.drive d)) = 0 then s else s.modPll (Die.drive d) (fun p => { p with settling := true })

theorem State.hopReturn_eq (s : State) (d : Nat) : s.hopReturn d = ((s.returnSettles d).runAtSlot0 d).modHop d Hop.returned := rfl

theorem State.returnSettles_hops (s : State) (d : Nat) : (s.returnSettles d).hops = s.hops := by
  unfold State.returnSettles
  rw [apply_ite State.hops, State.modPll_hops, ite_self]

theorem State.returnSettles_regs (s : State) (d : Nat) : (s.returnSettles d).regs = s.regs := by
  unfold State.returnSettles
  rw [apply_ite State.regs, State.modPll_regs, ite_self]

theorem State.hopReturn_hop (s : State) (d : Fin 4) : (s.hopReturn d).hop d = (s.hop d).returned := by
  rw [State.hopReturn_eq, State.hop_modHop_self,
    State.hop_of_hops ((State.runAtSlot0_hops _ _).trans (s.returnSettles_hops d))]

theorem State.hopReturn_cell (s : State) (d : Nat) {a : Nat} (hp : a ≠ CLK.PLL_STAT (Die.drive d)) (hs : a ≠ CLK.HOP_STAT (Die.drive d))
    (hf : a ≠ CLK.HOP_FLAG (Die.drive d)) : (s.hopReturn d).cell a = s.cell a := by
  rw [State.hopReturn_eq, State.cell_of_regs (State.modHop_regs _ _ _), State.runAtSlot0_cell _ _ hp hs hf,
    State.cell_of_regs (s.returnSettles_regs d)]

/-- R74: with no group running the timebase returns at once. -/
theorem hopEnClear_returns (d : Fin 4) (s : State) (h : s.flag (CLK.HOP_CFG_HOP_EN (Die.drive d)) = true) (hm : s.hopMaster d = none)
    (hr : s.mainRuns = true) (hp : s.parityOk (CLK.HOP_CFG (Die.drive d)) = true) :
    Completes (exec (.hopEnClear d) s) (fun t => (t.hop d).latched = false ∧ (t.hop d).active = false ∧
      t.flag (CLK.HOP_CFG_HOP_EN (Die.drive d)) = false) := by
  obtain ⟨hpll, hstat, hflag⟩ := hopCfg_ne_shown (Die.drive d)
  show Completes (execHopEnClear d s) _
  rw [execHopEnClear_eq d s h hp, State.hopStop_atOnce _ _ ((s.withHopEn_hopMaster d false).trans hm)]
  refine completes_whileRuns hr (completes_next ?_)
  have hcell : (((s.withHopEn d false).unlatch d).hopReturn d).cell (CLK.HOP_CFG (Die.drive d)) =
      (s.withHopEn d false).cell (CLK.HOP_CFG (Die.drive d)) :=
    (State.hopReturn_cell _ d hpll hstat hflag).trans (State.unlatch_cell _ _ _)
  have hen : (((s.withHopEn d false).unlatch d).hopReturn d).flag (CLK.HOP_CFG_HOP_EN (Die.drive d)) = false :=
    (State.flag_of_cell (f := CLK.HOP_CFG_HOP_EN (Die.drive d)) hcell).trans (s.withHopEn_flag d false)
  rw [State.hopReturn_hop, State.unlatch_hop]
  exact ⟨rfl, rfl, hen⟩

/-- R74: with a group running the return waits for its carrier boundary. -/
theorem hopEnClear_waits (d : Fin 4) (m : Nat) (s : State) (h : s.flag (CLK.HOP_CFG_HOP_EN (Die.drive d)) = true)
    (hm : s.hopMaster d = some m) (hr : s.mainRuns = true) (hp : s.parityOk (CLK.HOP_CFG (Die.drive d)) = true) :
    Completes (exec (.hopEnClear d) s) (fun t => (t.hop d).returning = true) := by
  show Completes (execHopEnClear d s) _
  rw [execHopEnClear_eq d s h hp, State.hopStop_waits _ _ m ((s.withHopEn_hopMaster d false).trans hm)]
  refine completes_whileRuns hr (completes_next ?_)
  rw [State.hop_of_hops (State.refreshHopNext_hops _ _), State.hop_modHop_self]

/-! ### A hop boundary (R71-R73) -/

/-- The schedule after the hop boundary that is due. -/
def State.hopStepped (s : State) (d : Nat) : Hop := (s.hop d).step (s.hopCarriers d / s.hopDiv d)

/-- The boundary taken: the schedule steps, the hop-master group notes the carrier. -/
def State.boundaryTaken (s : State) (d k : Nat) : State :=
  (s.modHop d (fun _ => s.hopStepped d)).modGrp d k (fun g => { g with hopTaken := s.hopCarriers d })

/-- What the boundary shows: an active schedule its slot, and another slot than before suspends lock evaluation (R72). -/
def State.boundaryShown (s : State) (d k : Nat) : State :=
  if !(s.hopStepped d).active then s.boundaryTaken d k
  else if (s.hopStepped d).last ≠ s.get (CLK.PLL_STAT_SLOT_NOW (Die.drive d)) then
    ((s.boundaryTaken d k).runAtSlot d).modPll (Die.drive d) (fun p => { p with settling := true })
  else (s.boundaryTaken d k).runAtSlot d

theorem execHopBoundary_eq (d : Fin 4) (m : Nat) (s : State) (hm : s.hopMaster d = some m) (hd : s.dieRuns d = true)
    (hdue : s.hopDue d (s.hopCarriers d) (s.hopTaken d) = true) :
    execHopBoundary d s = s.whileRuns (.next ((s.boundaryShown d m).refreshHopNext d)) := by
  unfold execHopBoundary
  rw [hm]
  dsimp only
  rw [if_neg (by rw [hd, hdue]; decide)]
  rfl

theorem State.boundaryTaken_hop (s : State) (d : Fin 4) (k : Nat) : (s.boundaryTaken d k).hop d = s.hopStepped d :=
  (State.hop_of_hops (State.modGrp_hops _ _ _ _) _).trans (State.hop_modHop_self s d _)

theorem State.runAtSlot_sameBut (s : State) (d : Nat) : SameBut [.regs] s (s.runAtSlot d) :=
  have : Open (fun p => p ∉ [Part.regs]) .regs := open_of_mem (by decide)
  Keeps.sameBut (State.runAtSlot_keeps (Keeps.refl _ s) d)

theorem State.runAtSlot_hops (s : State) (d : Nat) : (s.runAtSlot d).hops = s.hops := (s.runAtSlot_sameBut d).same .hops (by decide)

theorem State.runAtSlot_groups (s : State) (d : Nat) : (s.runAtSlot d).groups = s.groups := (s.runAtSlot_sameBut d).same .groups (by decide)

theorem State.boundaryShown_hops (s : State) (d k : Nat) : (s.boundaryShown d k).hops = (s.boundaryTaken d k).hops := by
  unfold State.boundaryShown
  split
  · rfl
  · split
    · exact (State.modPll_hops _ _ _).trans (State.runAtSlot_hops _ _)
    · exact State.runAtSlot_hops _ _

theorem State.boundaryShown_groups (s : State) (d k : Nat) : (s.boundaryShown d k).groups = (s.boundaryTaken d k).groups := by
  unfold State.boundaryShown
  split
  · rfl
  · split
    · exact (State.modPll_groups _ _ _).trans (State.runAtSlot_groups _ _)
    · exact State.runAtSlot_groups _ _

/-- The registers of an active schedule are those of its slot. -/
theorem State.boundaryShown_regs (s : State) (d k : Nat) (h : (s.hopStepped d).active = true) :
    (s.boundaryShown d k).regs = ((s.boundaryTaken d k).runAtSlot d).regs := by
  unfold State.boundaryShown
  rw [if_neg (by rw [h]; decide)]
  split
  · exact State.modPll_regs _ _ _
  · rfl

theorem State.runAtSlot_slotNow (s : State) (d : Nat) : (s.runAtSlot d).get (CLK.PLL_STAT_SLOT_NOW (Die.drive d)) = (s.hop d).last % 8 := by
  unfold State.runAtSlot
  extract_lets e h s1
  have hs : CLK.PLL_STAT e ≠ CLK.HOP_STAT e := hopStat_ne_pllStat e
  have hf : CLK.PLL_STAT e ≠ CLK.HOP_FLAG e := hopFlag_ne_pllStat e
  refine (State.get_of_cell ((State.cell_set_ne _ _ _ _ hs).trans ((State.cell_setB_ne _ _ _ _ hf).trans (State.cell_setB_ne _ _ _ _ hf)))).trans ?_
  exact State.get_set_self _ _ _ (of_decide_eq_true rfl)

theorem State.runAtSlot_hopNow (s : State) (d : Nat) : (s.runAtSlot d).get (CLK.HOP_STAT_HOP_NOW (Die.drive d)) =
    hopFactor (s.hop d).word % 2 ^ (CLK.HOP_STAT_HOP_NOW (Die.drive d)).w := State.get_set_self _ _ _ (of_decide_eq_true rfl)

/-- HOP_NEXT lies in other bits than HOP_NOW. -/
theorem State.refreshHopNext_hopNow (s : State) (d : Nat) :
    (s.refreshHopNext d).get (CLK.HOP_STAT_HOP_NOW (Die.drive d)) = s.get (CLK.HOP_STAT_HOP_NOW (Die.drive d)) :=
  (State.get_of_cell (State.cell_set_ne _ _ _ _ (hopFlag_ne_hopStat _))).trans (State.get_set_apart _ _ rfl)

theorem State.settling_of_plls {s t : State} (h : t.plls = s.plls) (e : Die) : t.settling e = s.settling e := by
  unfold State.settling
  rw [h]

theorem State.settling_modPll_self (s : State) (e : Die) (f : Pll → Pll) : (s.modPll e f).settling e = (f (vget s.plls e.code)).settling :=
  congrArg Pll.settling (vget_vmod_self _ _ _ (Die.code_lt e))

/-- R72: a hop to another slot suspends lock evaluation. -/
theorem State.boundaryShown_settling (s : State) (d k : Nat) (h : (s.hopStepped d).active = true)
    (hn : (s.hopStepped d).last ≠ s.get (CLK.PLL_STAT_SLOT_NOW (Die.drive d))) : (s.boundaryShown d k).settling (Die.drive d) = true := by
  unfold State.boundaryShown
  rw [if_neg (by rw [h]; decide), if_pos hn, State.settling_modPll_self]

/-- R71-R73: the schedule steps, and an active one shows its slot and factor. -/
theorem hopBoundary_hops (d : Fin 4) (m : Nat) (s : State) (hm : s.hopMaster d = some m) (hd : s.dieRuns d = true)
    (hdue : s.hopDue d (s.hopCarriers d) (s.hopTaken d) = true) (hr : s.mainRuns = true) :
    Completes (exec (.hopBoundary d) s) (fun t => t.hop d = (s.hop d).step (s.hopCarriers d / s.hopDiv d) ∧
      (t.grp d m).hopTaken = (s.grp d m).carriers ∧ ((t.hop d).active = true → t.get (CLK.PLL_STAT_SLOT_NOW (Die.drive d)) = (t.hop d).last % 8 ∧
      t.get (CLK.HOP_STAT_HOP_NOW (Die.drive d)) = hopFactor (t.hop d).word % 2 ^ (CLK.HOP_STAT_HOP_NOW (Die.drive d)).w) ∧
      (((t.hop d).active = true ∧ (t.hop d).last ≠ s.get (CLK.PLL_STAT_SLOT_NOW (Die.drive d))) → t.settling (Die.drive d) = true)) := by
  have hhop : ((s.boundaryShown d m).refreshHopNext d).hop d = s.hopStepped d :=
    (State.hop_of_hops ((State.refreshHopNext_hops _ _).trans (s.boundaryShown_hops d m)) d).trans (s.boundaryTaken_hop d m)
  have htaken : (((s.boundaryShown d m).refreshHopNext d).grp d m).hopTaken = (s.grp d m).carriers := by
    have hlt : 4 * (d : Nat) + m < 16 := by
      have := State.hopMaster_lt hm
      omega
    have hc : s.hopCarriers d = (s.grp d m).carriers := by
      unfold State.hopCarriers
      rw [hm]
    have hg : ((s.boundaryShown d m).refreshHopNext d).grp d m = (s.boundaryTaken d m).grp d m :=
      congrArg (fun v => vget v (4 * (d : Nat) + m)) (((State.refreshHopNext_sameBut _ _).same .groups (by decide)).trans (s.boundaryShown_groups d m))
    rw [hg, State.boundaryTaken, State.grp_modGrp_self _ _ _ _ hlt, hc]
  show Completes (execHopBoundary d s) _
  rw [execHopBoundary_eq d m s hm hd hdue]
  refine completes_whileRuns hr (completes_next ⟨hhop, htaken, fun ha => ?_, fun ⟨ha, hn⟩ => ?_⟩)
  · rw [hhop] at ha ⊢
    have hregs := s.boundaryShown_regs d m ha
    constructor
    · refine (State.get_of_cell (State.refreshHopNext_cell _ _ (hopStat_ne_pllStat _) (hopFlag_ne_pllStat _))).trans ?_
      rw [State.get_of_cell (State.cell_of_regs hregs _), State.runAtSlot_slotNow, State.boundaryTaken_hop]
    · rw [State.refreshHopNext_hopNow, State.get_of_cell (State.cell_of_regs hregs _), State.runAtSlot_hopNow, State.boundaryTaken_hop]
  · rw [hhop] at ha hn
    exact (State.settling_of_plls ((State.refreshHopNext_sameBut _ _).same .plls (by decide)) _).trans (s.boundaryShown_settling d m ha hn)

/-- R72: lock evaluation goes on. -/
theorem hopSettleEnd_resumes (e : Die) (s : State) (hr : s.mainRuns = true) :
    Completes (exec (.hopSettleEnd e) s) (fun t => t.settling e = false ∧ t.regs = s.regs) :=
  completes_whileRuns hr (completes_next ⟨State.settling_modPll_self s e _, State.modPll_regs _ _ _⟩)

/-- Settles O9: one lemma for each command and outcome. -/
theorem hopping : Obligations.Hopping := by
  unfold Obligations.Hopping
  exact ⟨hopEnSet_refused, hopEnSet_latches, hopEnClear_returns, hopEnClear_waits, hopBoundary_hops, hopSettleEnd_resumes⟩

end Sys2Proof.Machine
end

section
/-! SUPPORT and the obligation on enabling, disabling and stopping a PWM group (O10). -/

namespace Sys2Proof.Machine

/-! ### The registers of the groups -/

theorem gcfg_ne_stat (d k q : Nat) : PWM.STAT d q ≠ PWM.GCFG d k := by
  simp only [PWM.STAT, PWM.GCFG]
  omega

theorem State.grp_of_groups {s t : State} (h : t.groups = s.groups) (d k : Nat) : t.grp d k = s.grp d k := by
  unfold State.grp
  rw [h]

theorem State.grpRuns_of_cell {s t : State} {d k : Nat} (h : t.cell (PWM.STAT d k) = s.cell (PWM.STAT d k)) : t.grpRuns d k = s.grpRuns d k :=
  State.flag_of_cell (f := PWM.STAT_RUN d k) h

/-! ### EN of a group written (R83, R84, R88) -/

/-- EN of GCFG written. -/
def State.withGrpEn (s : State) (d k : Nat) (en : Bool) : State := s.setB (PWM.GCFG_EN d k) en

theorem State.withGrpEn_flag (s : State) (d k : Nat) (en : Bool) : (s.withGrpEn d k en).flag (PWM.GCFG_EN d k) = en :=
  State.flag_setB_self _ _ _ (of_decide_eq_true rfl) Nat.one_pos

theorem State.withGrpEn_groups (s : State) (d k : Nat) (en : Bool) : (s.withGrpEn d k en).groups = s.groups := State.setB_groups _ _ _

theorem State.withGrpEn_grpRuns (s : State) (d k q : Nat) (en : Bool) : (s.withGrpEn d k en).grpRuns d q = s.grpRuns d q :=
  State.grpRuns_of_cell (State.cell_setB_ne _ _ _ _ (gcfg_ne_stat d k q))

/-- A write that sets EN of a group that is not stopping enables it. -/
theorem State.gcfgApply_rises (s : State) (d k : Nat) (h : s.flag (PWM.GCFG_EN d k) = false) (hs : (s.grp d k).stopping = false) :
    s.gcfgApply d k (putBits (s.reg (PWM.GCFG d k)) 0 1 1) = (s.withGrpEn d k true).groupEnable d k := by
  show (if s.flag _ = (s.withGrpEn d k true).flag _ then _ else if (s.withGrpEn d k true).flag _ then (if (s.grp d k).stopping then _ else _)
    else _) = _
  rw [h, State.withGrpEn_flag, if_neg Bool.false_ne_true, if_pos rfl, hs, if_neg Bool.false_ne_true]
  rfl

/-- A write that clears EN disables the group. -/
theorem State.gcfgApply_falls (s : State) (d k : Nat) (h : s.flag (PWM.GCFG_EN d k) = true) :
    s.gcfgApply d k (putBits (s.reg (PWM.GCFG d k)) 0 1 0) = (s.withGrpEn d k false).groupDisable d k := by
  show (if s.flag _ = (s.withGrpEn d k false).flag _ then _ else if (s.withGrpEn d k false).flag _ then _ else _) = _
  rw [h, State.withGrpEn_flag, if_neg Bool.false_ne_true.symm, if_neg Bool.false_ne_true]
  rfl

theorem execPwmGroupEnable_eq (d k : Fin 4) (s : State) (h : s.flag (PWM.GCFG_EN d k) = false) (hs : (s.grp d k).stopping = false)
    (hp : s.parityOk (PWM.GCFG d k) = true) : execPwmGroupEnable d k s = s.whileRuns (.next ((s.withGrpEn d k true).groupEnable d k)) := by
  unfold execPwmGroupEnable
  rw [State.checkParity_ok _ _ _ hp]
  exact congrArg (fun t => s.whileRuns (.next t)) (s.gcfgApply_rises d k h hs)

theorem execPwmGroupDisable_eq (d k : Fin 4) (s : State) (h : s.flag (PWM.GCFG_EN d k) = true) (hp : s.parityOk (PWM.GCFG d k) = true) :
    execPwmGroupDisable d k s = s.whileRuns (.next ((s.withGrpEn d k false).groupDisable d k)) := by
  unfold execPwmGroupDisable
  rw [State.checkParity_ok _ _ _ hp]
  exact congrArg (fun t => s.whileRuns (.next t)) (s.gcfgApply_falls d k h)

/-! ### Enabling (R83, R84, R86) -/

/-- R84: the refusal rests on the configuration beside EN. -/
theorem State.withGrpEn_enableRefused (s : State) (d k : Nat) (en : Bool) :
    (s.withGrpEn d k en).enableRefused d k = s.enableRefused d k := by
  have hports : (s.withGrpEn d k en).get (PWM.GCFG_PORTS d k) = s.get (PWM.GCFG_PORTS d k) := State.get_setB_apart _ _ rfl
  have hmode : (s.withGrpEn d k en).get (PWM.GCFG_MODE d k) = s.get (PWM.GCFG_MODE d k) := State.get_setB_apart _ _ rfl
  have htrig : (s.withGrpEn d k en).get (PWM.GCFG_TRIG_SEL d k) = s.get (PWM.GCFG_TRIG_SEL d k) := State.get_setB_apart _ _ rfl
  have hgrp : ∀ q, (s.withGrpEn d k en).grp d q = s.grp d q := State.grp_of_groups (s.withGrpEn_groups d k en) d
  have hruns : ∀ q, (s.withGrpEn d k en).grpRuns d q = s.grpRuns d q := fun q => s.withGrpEn_grpRuns d k q en
  unfold State.enableRefused
  simp only [hports, hmode, htrig, hgrp, hruns]

/-- What an enabled group latches (R83), and how it waits for its start (R86). -/
def State.latchGroup (s : State) (d k : Nat) (g : Group) : Group :=
  { g with
    enabled := true, waiting := decide (s.get (PWM.GCFG_START_SRC d k) = 1), due := !decide (s.get (PWM.GCFG_START_SRC d k) = 1)
    stopping := false, mode := s.get (PWM.GCFG_MODE d k)
    dbl := s.flag (PWM.GCFG_DBL_UPD d k) && decide (s.get (PWM.GCFG_MODE d k) = 1), auto := s.flag (PWM.GCFG_COMMIT_MODE d k)
    ports := s.get (PWM.GCFG_PORTS d k), trigSel := s.get (PWM.GCFG_TRIG_SEL d k), trigPol := s.flag (PWM.GCFG_TRIG_POL d k) }

theorem State.groupEnable_latches (s : State) (d k : Nat) (h : s.enableRefused d k = false) :
    s.groupEnable d k = s.modGrp d k (s.latchGroup d k) := if_neg (ne_true_of_eq_false h)

theorem State.groupEnable_refused (s : State) (d k : Nat) (h : s.enableRefused d k = true) :
    s.groupEnable d k = s.setB (PWM.STAT_GRP_CFG_ERR d k) true := if_pos h

/-- R83, R86: the group takes its configuration as written. -/
theorem pwmGroupEnable_latches (d k : Fin 4) (s : State) (h : s.flag (PWM.GCFG_EN d k) = false) (hs : (s.grp d k).stopping = false)
    (he : s.enableRefused d k = false) (hr : s.mainRuns = true) (hp : s.parityOk (PWM.GCFG d k) = true) :
    Completes (exec (.pwmGroupEnable d k) s) (fun t => (t.grp d k).enabled = true ∧ (t.grp d k).mode = s.get (PWM.GCFG_MODE d k) ∧
      (t.grp d k).ports = s.get (PWM.GCFG_PORTS d k) ∧ (t.grp d k).waiting = decide (s.get (PWM.GCFG_START_SRC d k) = 1)) := by
  have hmode : (s.withGrpEn d k true).get (PWM.GCFG_MODE d k) = s.get (PWM.GCFG_MODE d k) := State.get_setB_apart _ _ rfl
  have hports : (s.withGrpEn d k true).get (PWM.GCFG_PORTS d k) = s.get (PWM.GCFG_PORTS d k) := State.get_setB_apart _ _ rfl
  have hsrc : (s.withGrpEn d k true).get (PWM.GCFG_START_SRC d k) = s.get (PWM.GCFG_START_SRC d k) := State.get_setB_apart _ _ rfl
  show Completes (execPwmGroupEnable d k s) _
  rw [execPwmGroupEnable_eq d k s h hs hp, State.groupEnable_latches _ _ _ ((s.withGrpEn_enableRefused d k true).trans he)]
  refine completes_whileRuns hr (completes_next ?_)
  rw [State.grp_modGrp_self _ _ _ _ (by omega)]
  exact ⟨rfl, hmode, hports, congrArg (fun x => decide (x = 1)) hsrc⟩

/-- R84: GRP_CFG_ERR, and no group changes. -/
theorem pwmGroupEnable_refused (d k : Fin 4) (s : State) (h : s.flag (PWM.GCFG_EN d k) = false) (hs : (s.grp d k).stopping = false)
    (he : s.enableRefused d k = true) (hr : s.mainRuns = true) (hp : s.parityOk (PWM.GCFG d k) = true) :
    Completes (exec (.pwmGroupEnable d k) s) (fun t => t.flag (PWM.STAT_GRP_CFG_ERR d k) = true ∧ t.groups = s.groups) := by
  show Completes (execPwmGroupEnable d k s) _
  rw [execPwmGroupEnable_eq d k s h hs hp, State.groupEnable_refused _ _ _ ((s.withGrpEn_enableRefused d k true).trans he)]
  exact completes_whileRuns hr (completes_next ⟨State.flag_setB_self _ _ _ (of_decide_eq_true rfl) Nat.one_pos,
    (State.setB_groups _ _ _).trans (s.withGrpEn_groups d k true)⟩)

/-! ### Disabling and stopping (R88) -/

theorem State.groupDisable_running (s : State) (d k : Nat) (h : s.grpRuns d k = true) :
    s.groupDisable d k = s.modGrp d k (fun g => { g with stopping := true }) := if_pos h

theorem State.groupDisable_stopped (s : State) (d k : Nat) (h : s.grpRuns d k = false) :
    s.groupDisable d k = s.modGrp d k (fun g => { g with enabled := false, waiting := false, due := false }) := if_neg (ne_true_of_eq_false h)

/-- R88: a running group completes its carrier period. -/
theorem pwmGroupDisable_completesCarrier (d k : Fin 4) (s : State) (h : s.flag (PWM.GCFG_EN d k) = true) (hg : s.grpRuns d k = true)
    (hr : s.mainRuns = true) (hp : s.parityOk (PWM.GCFG d k) = true) :
    Completes (exec (.pwmGroupDisable d k) s) (fun t => (t.grp d k).stopping = true ∧ t.grpRuns d k = true) := by
  have hruns : (s.withGrpEn d k false).grpRuns d k = true := (s.withGrpEn_grpRuns d k k false).trans hg
  have hcell : ∀ f, ((s.withGrpEn d k false).modGrp d k f).cell (PWM.STAT d k) = (s.withGrpEn d k false).cell (PWM.STAT d k) := fun f =>
    State.cell_of_regs (State.modGrp_regs _ _ _ _) _
  show Completes (execPwmGroupDisable d k s) _
  rw [execPwmGroupDisable_eq d k s h hp, State.groupDisable_running _ _ _ hruns]
  refine completes_whileRuns hr (completes_next ⟨?_, (State.grpRuns_of_cell (hcell _)).trans hruns⟩)
  rw [State.grp_modGrp_self _ _ _ _ (by omega)]

/-- R88: a group that does not run stops at once. -/
theorem pwmGroupDisable_atOnce (d k : Fin 4) (s : State) (h : s.flag (PWM.GCFG_EN d k) = true) (hg : s.grpRuns d k = false)
    (hr : s.mainRuns = true) (hp : s.parityOk (PWM.GCFG d k) = true) :
    Completes (exec (.pwmGroupDisable d k) s) (fun t => (t.grp d k).enabled = false) := by
  show Completes (execPwmGroupDisable d k s) _
  rw [execPwmGroupDisable_eq d k s h hp, State.groupDisable_stopped _ _ _ ((s.withGrpEn_grpRuns d k k false).trans hg)]
  refine completes_whileRuns hr (completes_next ?_)
  rw [State.grp_modGrp_self _ _ _ _ (by omega)]

theorem Keeps.groups_eq {s t : State} (h : Keeps (fun p => p = .groups) s t) : t.groups = s.groups := h.same .groups rfl

/-- The end of a carrier stops the group, and what follows leaves the groups. -/
theorem State.stopCounter_groups (s : State) (d k : Nat) : ∃ u : State, (s.stopCounter d k).groups =
    (u.modGrp d k (fun g => { g with enabled := false, stopping := false, early := false })).groups := by
  have hOpen : ∀ p, p ≠ .groups → Open (fun p => p = .groups) p := fun _ h => open_of_eq h
  have := hOpen .regs (by decide)
  have := hOpen .plls (by decide)
  have := hOpen .hops (by decide)
  have := hOpen .ports (by decide)
  have := hOpen .tgs (by decide)
  have := hOpen .drives (by decide)
  refine ⟨_, Keeps.groups_eq (State.refreshTrips_keeps (keeps_ite ?_ (Keeps.refl _ _)) d)⟩
  exact State.refreshHopNext_keeps (State.hopReturn_keeps (Keeps.refl _ _) d) d

theorem State.ma1Finish_groups (s : State) (d : Nat) : (s.ma1Finish d).groups = s.groups :=
  have : Open (fun p => p = Part.groups) .regs := open_of_eq (by decide)
  have : Open (fun p => p = Part.groups) .out := open_of_eq (by decide)
  have : Open (fun p => p = Part.groups) .acts := open_of_eq (by decide)
  have : Open (fun p => p = Part.groups) .maintSeq := open_of_eq (by decide)
  Keeps.groups_eq (State.ma1Finish_keeps (Keeps.refl _ s) d)

/-- R88: the group is stopped where its carrier ends. -/
theorem State.stopAt_stopped (s : State) (d k : Fin 4) :
    (((s.stopCounter d k).ma1Finish d).grp d k).enabled = false ∧ (((s.stopCounter d k).ma1Finish d).grp d k).stopping = false := by
  obtain ⟨u, hu⟩ := s.stopCounter_groups d k
  rw [State.grp_of_groups ((State.ma1Finish_groups _ _).trans hu), State.grp_modGrp_self _ _ _ _ (by omega)]
  exact ⟨rfl, rfl⟩

/-- R88: a group that completes its carrier stops at its end. -/
theorem pwmGroupStop_stops (d k : Fin 4) (s : State) (hg : s.grpRuns d k = true) (hs : (s.grp d k).stopping = true)
    (hd : s.dieRuns d = true) (hr : s.mainRuns = true) :
    Completes (exec (.pwmGroupStop d k) s) (fun t => (t.grp d k).enabled = false ∧ (t.grp d k).stopping = false) := by
  refine completes_whileRuns hr (completes_next ?_)
  rw [if_pos (by rw [hg, hs, hd]; rfl)]
  exact s.stopAt_stopped d k

/-! ### Commits and start events (R86, R100) -/

/-- R100: COMMIT is set, and nothing else changes. -/
theorem pwmCommit_sets (d k : Fin 4) (s : State) (hr : s.mainRuns = true) :
    Completes (exec (.pwmCommit d k) s) (fun t => t.flag (PWM.COMMIT_COMMIT d k) = true ∧ SameBut [.regs] s t ∧ RegsBut [PWM.COMMIT d k] s t) := by
  have : Open (fun p => p ∉ [Part.regs]) .regs := open_of_mem (by decide)
  refine completes_whileRuns hr (completes_next ⟨State.flag_setB_self _ _ _ (of_decide_eq_true rfl) Nat.one_pos, ?_, fun a ha => ?_⟩)
  · exact Keeps.sameBut (State.setB_keeps (Keeps.refl _ s) _ _)
  · exact State.cell_setB_ne _ _ _ _ fun e => ha (List.mem_singleton.2 e)

/-- The start event reaches group `k`: one that waits is due (R86). -/
def State.startEvent (t : State) (d k : Nat) : State :=
  if (t.grp d k).waiting then t.modGrp d k (fun g => { g with waiting := false, due := true }) else t

/-- What the start event does to each group. -/
theorem State.startEvent_grp (t : State) (d : Nat) {i : Nat} (hi : 4 * d + i < 16) (k : Nat) : (t.startEvent d i).grp d k =
    if k = i ∧ (t.grp d k).waiting = true then { t.grp d k with waiting := false, due := true } else t.grp d k := by
  unfold State.startEvent
  by_cases hk : k = i
  · subst hk
    cases hw : (t.grp d k).waiting
    · rw [if_neg Bool.false_ne_true, if_neg (by simp)]
    · rw [if_pos rfl, if_pos ⟨rfl, rfl⟩, State.grp_modGrp_self _ _ _ _ hi]
  · have hne : ∀ f, (t.modGrp d i f).grp d k = t.grp d k := fun _ => vget_vmod_ne _ _ _ _ (by omega)
    rw [apply_ite (fun u : State => u.grp d k), hne, ite_self, if_neg (fun h => hk h.1)]

theorem State.sourceTicks_groups (s : State) (d src : Nat) : (s.sourceTicks d src).groups = s.groups :=
  have : Open (fun p => p = Part.groups) .regs := open_of_eq (by decide)
  have : Open (fun p => p = Part.groups) .mem := open_of_eq (by decide)
  have : Open (fun p => p = Part.groups) .out := open_of_eq (by decide)
  have : Open (fun p => p = Part.groups) .adcs := open_of_eq (by decide)
  Keeps.groups_eq (State.sourceTicks_keeps (Keeps.refl _ s) d src)

/-- R86: after the pass over the groups none waits, and those that waited are due. -/
theorem State.startEvents_due (s : State) (d : Fin 4) {k : Nat} (hk : k < 4) (hw : (s.grp d k).waiting = true) :
    ((foldOver (List.range 4) (fun i t => t.startEvent d i) s).grp d k).waiting = false ∧
      ((foldOver (List.range 4) (fun i t => t.startEvent d i) s).grp d k).due = true := by
  have hlt : ∀ i ∈ List.range 4, 4 * (d : Nat) + i < 16 := fun i hi => by have := List.mem_range.1 hi; omega
  have hnone : ((foldOver (List.range 4) (fun i t => t.startEvent d i) s).grp d k).waiting = false := by
    refine foldOver_each (Q := fun j t => (t.grp d j).waiting = false) _ _ _ (fun i hi t => ?_) (fun i hi j t ht => ?_) k (List.mem_range.2 hk)
    · rw [State.startEvent_grp _ _ (hlt i hi)]
      split
      · rfl
      next h => simpa using h
    · rw [State.startEvent_grp _ _ (hlt i hi)]
      split
      · rfl
      · exact ht
  have hkept : ((foldOver (List.range 4) (fun i t => t.startEvent d i) s).grp d k).waiting = true ∨
      ((foldOver (List.range 4) (fun i t => t.startEvent d i) s).grp d k).due = true := by
    refine foldOver_preserves (P := fun t => (t.grp d k).waiting = true ∨ (t.grp d k).due = true) _ _ _ (.inl hw) fun i hi t ht => ?_
    rw [State.startEvent_grp _ _ (hlt i hi)]
    split
    · exact .inr rfl
    · exact ht
  exact ⟨hnone, hkept.resolve_left (ne_true_of_eq_false hnone)⟩

/-- R86: the groups that wait for a start event are due. -/
theorem timeEventArrival_due (d : Fin 4) (s : State) (hd : s.dieRuns d = true) (hr : s.mainRuns = true) :
    Completes (exec (.timeEventArrival d) s) (fun t => ∀ k : Fin 4, (s.grp d k).waiting = true → (t.grp d k).waiting = false ∧
      (t.grp d k).due = true) := by
  refine completes_whileRuns hr (completes_next fun k hw => ?_)
  rw [if_neg (by rw [hd]; decide), State.grp_of_groups (State.sourceTicks_groups _ _ _)]
  exact s.startEvents_due d k.isLt hw

/-- Settles O10: one lemma for each command and outcome. -/
theorem pwmGroups : Obligations.PwmGroups := by
  unfold Obligations.PwmGroups
  exact ⟨pwmGroupEnable_latches, pwmGroupEnable_refused, pwmGroupDisable_completesCarrier, pwmGroupDisable_atOnce, pwmGroupStop_stops,
    pwmCommit_sets, timeEventArrival_due⟩

end Sys2Proof.Machine
end

section
/-! SUPPORT. What a control-period start does beside the PWM block of its die leaves the registers of that block. -/

namespace Sys2Proof.Machine

/-! ### Registers of a set that operations leave -/

/-- From `r` to `t` the registers of a set hold what they held, parity bits included. -/
def CellsSame (A : Nat → Prop) (r t : State) : Prop := ∀ a : Nat, A a → t.cell a = r.cell a

section
variable {A : Nat → Prop} {r s t : State}

theorem CellsSame.refl (A : Nat → Prop) (s : State) : CellsSame A s s := fun _ _ => rfl

theorem CellsSame.trans (h : CellsSame A r s) (h' : CellsSame A s t) : CellsSame A r t := fun a ha => (h' a ha).trans (h a ha)

theorem CellsSame.of_regs (h : CellsSame A r s) (ht : t.regs = s.regs) : CellsSame A r t := h.trans fun a _ => State.cell_of_regs ht a

theorem CellsSame.ite {c : Prop} [Decidable c] (hs : CellsSame A r s) (ht : CellsSame A r t) : CellsSame A r (if c then s else t) := by
  split
  · exact hs
  · exact ht

theorem CellsSame.setReg (h : CellsSame A r s) {a : Nat} (w : Word) (ha : ¬ A a) : CellsSame A r (s.setReg a w) :=
  h.trans fun b hb => State.cell_setReg_ne s a b w fun e => ha (e ▸ hb)

theorem CellsSame.set (h : CellsSame A r s) {f : RF} (x : Nat) (hf : ¬ A f.addr) : CellsSame A r (s.set f x) := h.setReg _ hf

theorem CellsSame.setB (h : CellsSame A r s) {f : RF} (b : Bool) (hf : ¬ A f.addr) : CellsSame A r (s.setB f b) := h.set _ hf

theorem CellsSame.incSat (h : CellsSame A r s) {f : RF} (hf : ¬ A f.addr) : CellsSame A r (s.incSat f) := h.set _ hf

theorem CellsSame.incMod (h : CellsSame A r s) {f : RF} (hf : ¬ A f.addr) : CellsSame A r (s.incMod f) := h.set _ hf

theorem CellsSame.setBit (h : CellsSame A r s) {f : RF} (i : Nat) (b : Bool) (hf : ¬ A f.addr) : CellsSame A r (s.setBit f i b) :=
  h.trans fun a ha => State.cell_setBit_ne s f i b a fun e => hf (e ▸ ha)

theorem CellsSame.foldOver (h : CellsSame A r s) (l : List Nat) (f : Nat → State → State)
    (hf : ∀ i ∈ l, ∀ t, CellsSame A r t → CellsSame A r (f i t)) : CellsSame A r (foldOver l f s) := foldOver_preserves l f s h hf

theorem CellsSame.setMemWord (h : CellsSame A r s) (a : Nat) (w : Word) : CellsSame A r (s.setMemWord a w) := h.of_regs rfl

theorem CellsSame.setCleData (h : CellsSame A r s) (d c w : Nat) (x : Word) : CellsSame A r (s.setCleData d c w x) := h.setMemWord _ _

theorem CellsSame.send (h : CellsSame A r s) (m : Msg) : CellsSame A r (s.send m) := h.of_regs rfl

theorem CellsSame.event (h : CellsSame A r s) (k : MsgKind) (e : Die) (l : List Nat) : CellsSame A r (s.event k e l) := h.send _

theorem CellsSame.modGrp (h : CellsSame A r s) (d k : Nat) (f : Group → Group) : CellsSame A r (s.modGrp d k f) := h.of_regs rfl

theorem CellsSame.modPort (h : CellsSame A r s) (d j : Nat) (f : Port → Port) : CellsSame A r (s.modPort d j f) := h.of_regs rfl

theorem CellsSame.modPi (h : CellsSame A r s) (d p : Nat) (f : PosIf → PosIf) : CellsSame A r (s.modPi d p f) := h.of_regs rfl

theorem CellsSame.modCle (h : CellsSame A r s) (d c : Nat) (f : CleCore → CleCore) : CellsSame A r (s.modCle d c f) := h.of_regs rfl

theorem CellsSame.modGrid (h : CellsSame A r s) (d : Nat) (f : GridDie → GridDie) : CellsSame A r (s.modGrid d f) := h.of_regs rfl

theorem CellsSame.modAdc (h : CellsSame A r s) (d k : Nat) (f : AdcCore → AdcCore) : CellsSame A r (s.modAdc d k f) := h.of_regs rfl

theorem CellsSame.modAct (h : CellsSame A r s) (k : Nat) (f : Activity → Activity) : CellsSame A r (s.modAct k f) := h.of_regs rfl

end

/-! ### The PWM block of a die -/

/-- A register of the PWM block of a drive die. -/
def pwmReg (d a : Nat) : Prop := d * 0x1000000 + 0x40100000 ≤ a ∧ a < d * 0x1000000 + 0x40104000

/-- The registers of the PWM block hold what they held. -/
abbrev PwmSame (d : Nat) (r t : State) : Prop := CellsSame (pwmReg d) r t

theorem pwmReg_ne {d a b : Nat} (ha : pwmReg d a) (hb : ¬ pwmReg d b) : a ≠ b := fun e => hb (e ▸ ha)

theorem pwmReg_stat (d : Nat) {k : Nat} (hk : k < 4) : pwmReg d (PWM.STAT d k) := by
  unfold pwmReg PWM.STAT
  omega

theorem pwmReg_cnt (d : Nat) {k : Nat} (hk : k < 4) : pwmReg d (PWM.CNT d k) := by
  unfold pwmReg PWM.CNT
  omega

theorem pwmReg_dlyMon (d : Nat) : pwmReg d (PWM.DLY_MON d) := by
  unfold pwmReg PWM.DLY_MON
  omega

/-- The blocks of a die that lie above its PWM block. -/
theorem not_pwmReg_of_le {d a : Nat} (h : d * 0x1000000 + 0x40104000 ≤ a) : ¬ pwmReg d a := fun ha => absurd ha.2 (Nat.not_lt.2 h)

theorem port_notPwm (d j : Nat) : ¬ pwmReg d (PORT.DLY_CAL d j) ∧ ¬ pwmReg d (PORT.DLY_STAT d j) ∧ (∀ k, ¬ pwmReg d (PORT.LIN d j k)) := by
  refine ⟨not_pwmReg_of_le ?_, not_pwmReg_of_le ?_, fun k => not_pwmReg_of_le ?_⟩ <;>
    simp only [PORT.DLY_CAL, PORT.DLY_STAT, PORT.LIN] <;> omega

theorem portAct_notPwm (d j : Nat) : ¬ pwmReg d (PORT.ACT_DUTY d j) ∧ ¬ pwmReg d (PORT.ACT_DT_RISE d j) ∧ ¬ pwmReg d (PORT.ACT_DT_FALL d j) := by
  refine ⟨not_pwmReg_of_le ?_, not_pwmReg_of_le ?_, not_pwmReg_of_le ?_⟩ <;>
    simp only [PORT.ACT_DUTY, PORT.ACT_DT_RISE, PORT.ACT_DT_FALL] <;> omega

theorem cmp_notPwm (d i : Nat) : ¬ pwmReg d (CMP.CSTAT d i) := not_pwmReg_of_le (by unfold CMP.CSTAT; omega)

theorem pi_notPwm (d p : Nat) : ¬ pwmReg d (PI.PISTAT d p) ∧ ¬ pwmReg d (PI.PIAMPS d p) ∧ ¬ pwmReg d (PI.PIANG d p) := by
  refine ⟨not_pwmReg_of_le ?_, not_pwmReg_of_le ?_, not_pwmReg_of_le ?_⟩ <;> simp only [PI.PISTAT, PI.PIAMPS, PI.PIANG] <;> omega

/-- The registers of the grid port that a set of samples bears on. -/
def gridSetRegs (d : Nat) : List Nat := [GSU.FREQ d, GSU.ROCOF d, GSU.VSEQ d, GSU.VPH01 d, GSU.VPH2R d, GSU.ANG d, GSU.JUMP d, GSU.GSTAT d,
  RTS.RTSTAT d, RTS.RC_SEC d]

theorem gridSetRegs_notPwm {d a : Nat} (h : a ∈ gridSetRegs d) : ¬ pwmReg d a := by
  refine not_pwmReg_of_le ?_
  simp only [gridSetRegs, List.mem_cons, List.not_mem_nil, or_false, GSU.FREQ, GSU.ROCOF, GSU.VSEQ, GSU.VPH01, GSU.VPH2R, GSU.ANG, GSU.JUMP,
    GSU.GSTAT, RTS.RTSTAT, RTS.RC_SEC] at h
  omega

theorem cle_notPwm (d c : Nat) : ¬ pwmReg d (CLE.FLAGS d c) ∧ ¬ pwmReg d (CLE.CYC d c) ∧ ¬ pwmReg d (CLE.CW_COMMIT d c) ∧
    (∀ w, ¬ pwmReg d (CLE.CWC d c w)) := by
  refine ⟨not_pwmReg_of_le ?_, not_pwmReg_of_le ?_, not_pwmReg_of_le ?_, fun w => not_pwmReg_of_le ?_⟩ <;>
    simp only [CLE.FLAGS, CLE.CYC, CLE.CW_COMMIT, CLE.CWC] <;> omega

theorem adc_notPwm (d k : Nat) : ¬ pwmReg d (ADC.ASTAT d k) ∧ (∀ inj e, ¬ pwmReg d (slotReg d k inj e)) := by
  refine ⟨not_pwmReg_of_le (by unfold ADC.ASTAT; omega), fun inj e => not_pwmReg_of_le ?_⟩
  cases inj
  · show _ ≤ ADC.RRES d k e
    unfold ADC.RRES
    omega
  · show _ ≤ ADC.IRES d k e
    unfold ADC.IRES
    omega

theorem dcmd_notPwm (d : Nat) : ¬ pwmReg d (DCMD.DCMDSTAT d) := not_pwmReg_of_le (by unfold DCMD.DCMDSTAT; omega)

theorem maint_notPwm (d : Fin 4) {a : Nat} (h : 0x48000000 ≤ a) : ¬ pwmReg d a := not_pwmReg_of_le (by omega)

theorem tripRegs_notPwm {d a : Nat} (h : a ∈ tripRegs d) : ¬ pwmReg d a := by
  refine not_pwmReg_of_le ?_
  simp only [tripRegs, outRegs, List.mem_append, List.mem_cons, List.mem_map, List.mem_range, List.not_mem_nil, or_false, TRIP.SRCACT,
    TRIP.TGSTAT, APB.APSTAT, CYC.RFSTAT, PORT.CHOP_STAT] at h
  rcases h with (rfl | rfl | rfl | rfl | rfl) | rfl | ⟨j, _, rfl⟩ <;> omega

theorem gridRegs_notPwm {d a : Nat} (h : a ∈ gridRegs d) : ¬ pwmReg d a := by
  rcases List.mem_append.1 h with h | h
  · refine gridSetRegs_notPwm ?_
    simp only [List.mem_cons, List.not_mem_nil, or_false] at h
    rcases h with rfl | rfl | rfl <;> simp [gridSetRegs]
  · exact tripRegs_notPwm (List.mem_append_right _ h)

theorem clk_notPwm (d : Fin 4) : ¬ pwmReg d (CLK.PLL_STAT (Die.drive d)) ∧ ¬ pwmReg d (CLK.HOP_STAT (Die.drive d)) ∧
    ¬ pwmReg d (CLK.HOP_FLAG (Die.drive d)) := by
  simp only [pwmReg, CLK.PLL_STAT, CLK.HOP_STAT, CLK.HOP_FLAG, Die.base_drive]
  omega

section
variable {d : Fin 4} {r s : State}

theorem PwmSame.refreshTrips (h : PwmSame d r s) : PwmSame d r (s.refreshTrips d) :=
  h.trans fun _ ha => State.refreshTrips_cell _ _ _ fun hm => tripRegs_notPwm hm ha

theorem PwmSame.refreshGrid (h : PwmSame d r s) : PwmSame d r (s.refreshGrid d) :=
  h.trans fun _ ha => State.refreshGrid_cell _ _ _ fun hm => gridRegs_notPwm hm ha

theorem PwmSame.setVote (h : PwmSame d r s) (v : Nat) : PwmSame d r (s.setVote d v) :=
  h.trans fun _ ha => State.setVote_cell _ _ _ _ fun hm => gridRegs_notPwm hm ha

/-! ### Delay registers and maintenance (R115-R118, R590) -/

theorem PwmSame.compareDelay (h : PwmSame d r s) (j : Nat) : PwmSame d r (s.compareDelay d j) := by
  obtain ⟨_, hstat, _⟩ := port_notPwm d j
  unfold State.compareDelay
  extract_lets mon ref tol diff drift coarse e s1
  have h1 : PwmSame d r s1 := ((h.setB (f := PORT.DLY_STAT_DLY_DRIFT d j) _ hstat).event _ _ _).ite h
  exact ((h1.setB (f := PORT.DLY_STAT_DLY_COARSE d j) _ hstat).event _ _ _).ite h1

theorem PwmSame.loadDelays (h : PwmSame d r s) (j : Nat) : PwmSame d r (s.loadDelays d j) := by
  obtain ⟨hcal, hstat, hlin⟩ := port_notPwm d j
  unfold State.loadDelays
  split
  case h_1 => exact h
  case h_2 n _ =>
    have h1 : PwmSame d r ((s.set (PORT.DLY_CAL_DLY_REF d j) n.ref).set (PORT.DLY_CAL_DLY_TPT d j) n.tpt) := (h.set _ hcal).set _ hcal
    have h2 := h1.foldOver (List.range 64) (fun f t => t.set (PORT.LIN_ELEM d j f) (n.lin.getD f 0)) fun f _ t ht => ht.set _ (hlin f)
    exact PwmSame.compareDelay (((h2.setB (f := PORT.DLY_STAT_DLY_DRIFT d j) _ hstat).setB (f := PORT.DLY_STAT_DLY_COARSE d j) _ hstat).modPort d j _) j

theorem PwmSame.endActivity (h : PwmSame d r s) (k result : Nat) : PwmSame d r (s.endActivity k result) := by
  unfold State.endActivity
  split
  case h_1 => exact h
  case h_2 a _ =>
    extract_lets n act w s1 s2 s3 s4
    have h2 : PwmSame d r s2 := (h.setReg _ (maint_notPwm d (by unfold MAINT.RES; omega))).setReg _ (maint_notPwm d (by unfold MAINT.RESU; omega))
    have h3 : PwmSame d r s3 := h2.of_regs rfl
    have h4 : PwmSame d r s4 := (h3.setReg _ (maint_notPwm d (by unfold MAINT.SLOTS; omega))).modAct k _
    exact (h4.set _ (maint_notPwm d (by decide))).send _

theorem PwmSame.ma1Finish (h : PwmSame d r s) : PwmSame d r (s.ma1Finish d) := by
  unfold State.ma1Finish
  split
  · exact h
  · exact (h.endActivity _ _).ite h

/-! ### Carriers and hopping (R74, R204) -/

theorem PwmSame.carrierLatches (h : PwmSame d r s) (k : Nat) : PwmSame d r (s.carrierLatches d k) := by
  unfold State.carrierLatches
  extract_lets s1
  have h1 : PwmSame d r s1 := h.foldOver _ _ fun i _ t ht => (ht.setB (f := CMP.CSTAT_LAT d i) _ (cmp_notPwm d i)).ite ht
  exact PwmSame.refreshTrips ((h1.setCleData _ _ _ _).setCleData _ _ _ _)

theorem PwmSame.hopReturn (h : PwmSame d r s) : PwmSame d r (s.hopReturn d) := by
  obtain ⟨hpll, hstat, hflag⟩ := clk_notPwm d
  exact h.trans fun _ ha => State.hopReturn_cell _ _ (pwmReg_ne ha hpll) (pwmReg_ne ha hstat) (pwmReg_ne ha hflag)

theorem PwmSame.refreshHopNext (h : PwmSame d r s) : PwmSame d r (s.refreshHopNext d) := by
  obtain ⟨_, hstat, hflag⟩ := clk_notPwm d
  exact h.trans fun _ ha => State.refreshHopNext_cell _ _ (pwmReg_ne ha hstat) (pwmReg_ne ha hflag)

theorem PwmSame.carrierReturn (h : PwmSame d r s) (k : Nat) : PwmSame d r (s.carrierReturn d k) := h.hopReturn.ite h

theorem PwmSame.carrierHop (h : PwmSame d r s) (k : Nat) : PwmSame d r (s.carrierHop d k) := h.ite (h.ite h.refreshHopNext)

theorem PwmSame.carrierStart (h : PwmSame d r s) (k : Nat) (first : Bool) : PwmSame d r (s.carrierStart d k first) := by
  unfold State.carrierStart
  extract_lets s1 s2 s3
  have h2 : PwmSame d r s2 := (h.modGrp d k _).foldOver _ _ fun j _ t ht => ht.modPort d j _
  have h3 : PwmSame d r s3 := PwmSame.carrierLatches h2 k
  exact h3.ite (h3.modGrp d k _)

/-! ### Position interfaces (R213-R217) -/

theorem PwmSame.piError (h : PwmSame d r s) (p : Nat) {f : RF} (hf : ¬ pwmReg d f.addr) : PwmSame d r (s.piError d p f) :=
  (h.setB true hf).incSat (pi_notPwm d p).1

theorem PwmSame.piEncoder (h : PwmSame d r s) (p : Nat) : PwmSame d r (s.piEncoder d p) := by
  obtain ⟨hstat, _, hang⟩ := pi_notPwm d p
  unfold State.piEncoder
  extract_lets cpr a was
  refine .ite (PwmSame.piError ?_ p hstat) ?_
  · exact (h.set (f := PI.PIANG_ANGLE d p) _ hang).set (f := PI.PIANG_SPEED d p) _ hang
  · exact (h.set (f := PI.PIANG_ANGLE d p) _ hang).set (f := PI.PIANG_SPEED d p) _ hang

theorem PwmSame.piGather (h : PwmSame d r s) (p k : Nat) : PwmSame d r (s.piGather d p k) := by
  obtain ⟨hstat, _, _⟩ := pi_notPwm d p
  unfold State.piGather
  extract_lets x
  split
  · exact h.modPi d p _
  · have h1 := (h.setB (f := PI.PISTAT_MISS d p) true hstat).modPi d p (fun x => { x with skipped := x.skipped + 1 })
    exact .ite (PwmSame.piError h1 p hstat) ((h1.setB (f := PI.PISTAT_LOS d p) true hstat).ite h1)

theorem PwmSame.piDemod (h : PwmSame d r s) (p k : Nat) : PwmSame d r (s.piDemod d p k) := by
  obtain ⟨hstat, hamps, _⟩ := pi_notPwm d p
  unfold State.piDemod
  extract_lets x sD cD a s1 s2 a2
  have h1 : PwmSame d r s1 := h.ite ((h.modPi d p _).set (f := PI.PIAMPS_AMP d p) _ hamps)
  have h2 : PwmSame d r s2 := h1.modPi d p _
  exact h.ite (.ite (PwmSame.piError h2 p hstat) h2)

theorem PwmSame.piTrack (h : PwmSame d r s) (p : Nat) : PwmSame d r (s.piTrack d p) := by
  obtain ⟨_, _, hang⟩ := pi_notPwm d p
  exact ((h.modPi d p _).set (f := PI.PIANG_ANGLE d p) _ hang).set (f := PI.PIANG_SPEED d p) _ hang

theorem PwmSame.piBoundary (h : PwmSame d r s) (g k : Nat) : PwmSame d r (s.piBoundary d g k) := by
  refine h.foldOver _ _ fun p _ t ht => ?_
  have h1 := ht.modPi d p (fun x => { x with exc := (k + 1) % x.excDiv })
  exact .ite (.ite (PwmSame.piEncoder h1 p) (PwmSame.piTrack (PwmSame.piDemod (PwmSame.piGather h1 p k) p k) p)) ht

theorem PwmSame.piStart (h : PwmSame d r s) (k n : Nat) : PwmSame d r (s.piStart d k n) := by
  refine .ite (h.foldOver _ _ fun p _ t ht => ?_) (h.piBoundary k _)
  extract_lets t1
  have h1 : PwmSame d r t1 := (ht.modPi d p _).ite ht
  exact .ite (PwmSame.piEncoder h1 p) h1

/-! ### The grid port (R260-R267, R293) -/

theorem PwmSame.openDecision (h : PwmSame d r s) : PwmSame d r (s.openDecision d) := .ite (h.ite (h.setVote 2)) (h.modGrid d _)

theorem PwmSame.latchTripped (h : PwmSame d r s) : PwmSame d r (s.latchTripped d) := by
  have hr : ¬ pwmReg d (RTS.RTSTAT d) := gridSetRegs_notPwm (by simp [gridSetRegs])
  exact .ite (PwmSame.openDecision ((h.setB (f := RTS.RTSTAT_TRIPPED d) _ hr).incSat (f := RTS.RTSTAT_GTRIP_CNT d) hr)) h

theorem PwmSame.declareIsland (h : PwmSame d r s) (src : Nat) : PwmSame d r (s.declareIsland d src) := by
  have hg : ¬ pwmReg d (GSU.GSTAT d) := gridSetRegs_notPwm (by simp [gridSetRegs])
  have h1 := (h.setB (f := GSU.GSTAT_ISLAND d) true hg).set (f := GSU.GSTAT_ISL_SRC d) src hg
  exact h.ite (PwmSame.refreshGrid (PwmSame.openDecision h1))

theorem PwmSame.coastAdvance (h : PwmSame d r s) (k : Nat) : PwmSame d r (s.coastAdvance d k) := by
  have ha : ¬ pwmReg d (GSU.ANG d) := gridSetRegs_notPwm (by simp [gridSetRegs])
  have hf : ¬ pwmReg d (GSU.ROCOF d) := gridSetRegs_notPwm (by simp [gridSetRegs])
  exact ((h.set (f := GSU.ANG_ANG_P d) _ ha).setReg _ hf).modGrid d _

theorem PwmSame.phaseJump (h : PwmSame d r s) (diff : Int) : PwmSame d r (s.phaseJump d diff) := by
  have hj : ¬ pwmReg d (GSU.JUMP d) := gridSetRegs_notPwm (by simp [gridSetRegs])
  have hg : ¬ pwmReg d (GSU.GSTAT d) := gridSetRegs_notPwm (by simp [gridSetRegs])
  unfold State.phaseJump
  extract_lets s1 s2 big s3
  have h1 : PwmSame d r s1 := (h.set (f := GSU.JUMP_VSHIFT d) _ hj).incSat (f := GSU.JUMP_JUMP_CNT d) hj
  have h2 : PwmSame d r s2 := (h1.setB (f := GSU.GSTAT_PHASE_JUMP d) _ hg).modGrid d _
  have h3 : PwmSame d r s3 := by
    refine h2.ite ?_
    split
    · exact h2
    · exact h2.modGrid d _
    · exact h2.latchTripped
  exact .ite (h3.declareIsland 3) h3

theorem PwmSame.trackSet (h : PwmSame d r s) (k n : Nat) (x : GsuSet) : PwmSame d r (s.trackSet d k n x) := by
  have ha : ¬ pwmReg d (GSU.ANG d) := gridSetRegs_notPwm (by simp [gridSetRegs])
  have hq : ¬ pwmReg d (GSU.FREQ d) := gridSetRegs_notPwm (by simp [gridSetRegs])
  have hf : ¬ pwmReg d (GSU.ROCOF d) := gridSetRegs_notPwm (by simp [gridSetRegs])
  unfold State.trackSet
  extract_lets g sets fine tracked free m diff f rocof s1 s2 adv s3
  have h1 : PwmSame d r s1 := (h.setReg _ hq).setReg _ hf
  have h2 : PwmSame d r s2 := (h1.set (f := GSU.ANG_ANG_P d) _ ha).set (f := GSU.ANG_ANG_N d) _ ha
  have h3 : PwmSame d r s3 := h2.modGrid d _
  exact .ite (h3.phaseJump diff) h3

theorem PwmSame.pushSet (h : PwmSame d r s) (k : Nat) (x : GsuSet) : PwmSame d r (s.pushSet d k x) := h.modGrid d _

theorem PwmSame.acceptSet (h : PwmSame d r s) (k : Nat) : PwmSame d r (s.acceptSet d k) := by
  have hv : ¬ pwmReg d (GSU.VSEQ d) := gridSetRegs_notPwm (by simp [gridSetRegs])
  have hp : ¬ pwmReg d (GSU.VPH01 d) := gridSetRegs_notPwm (by simp [gridSetRegs])
  have hq : ¬ pwmReg d (GSU.VPH2R d) := gridSetRegs_notPwm (by simp [gridSetRegs])
  have hg : ¬ pwmReg d (GSU.GSTAT d) := gridSetRegs_notPwm (by simp [gridSetRegs])
  unfold State.acceptSet
  split
  next n s0 hs0 =>
  extract_lets hist x0 x w v seq vpos vneg vph s1 s2 s3 s4 coast s5
  have h0 : PwmSame d r s0 := h.of_regs (congrArg (fun q => q.2.regs) hs0).symm
  have h1 : PwmSame d r s1 := h0.modGrid d _
  have h2 : PwmSame d r s2 := (h1.set (f := GSU.VSEQ_VPOS d) _ hv).set (f := GSU.VSEQ_VNEG d) _ hv
  have h3 : PwmSame d r s3 := (h2.set (f := GSU.VPH01_VPH0 d) _ hp).set (f := GSU.VPH01_VPH1 d) _ hp
  have h5 : PwmSame d r s5 := (h3.set (f := GSU.VPH2R_VPH2 d) _ hq).setB (f := GSU.GSTAT_COAST d) _ hg
  exact PwmSame.pushSet (.ite (h5.coastAdvance k) (h5.trackSet k _ x)) k x

theorem PwmSame.discardSet (h : PwmSame d r s) (k : Nat) : PwmSame d r (s.discardSet d k) := by
  have hg : ¬ pwmReg d (GSU.GSTAT d) := gridSetRegs_notPwm (by simp [gridSetRegs])
  unfold State.discardSet
  extract_lets s1
  have h1 : PwmSame d r s1 := PwmSame.pushSet ((h.coastAdvance k).modGrid d _) k {}
  exact .ite ((h1.setB (f := GSU.GSTAT_GSU_FAIL d) _ hg).setB (f := GSU.GSTAT_LOCKED d) _ hg) h1

theorem PwmSame.checkLock (h : PwmSame d r s) : PwmSame d r (s.checkLock d) := by
  have hg : ¬ pwmReg d (GSU.GSTAT d) := gridSetRegs_notPwm (by simp [gridSetRegs])
  unfold State.checkLock
  extract_lets f inRange s1
  have h1 : PwmSame d r s1 := h.ite (h.modGrid d _)
  exact .ite ((h1.setB (f := GSU.GSTAT_LOCKED d) _ hg).setB (f := GSU.GSTAT_GSU_FAIL d) _ hg) h1

theorem PwmSame.rcCheck (h : PwmSame d r s) : PwmSame d r (s.rcCheck d) := by
  have hc : ¬ pwmReg d (RTS.RC_SEC d) := gridSetRegs_notPwm (by simp [gridSetRegs])
  have hr : ¬ pwmReg d (RTS.RTSTAT d) := gridSetRegs_notPwm (by simp [gridSetRegs])
  exact h.ite (((h.set (f := RTS.RC_SEC_RC_SEC d) _ hc).setB (f := RTS.RTSTAT_RC_READY d) _ hr).modGrid d _)

theorem PwmSame.writeGridWords (h : PwmSame d r s) : PwmSame d r (s.writeGridWords d) :=
  h.foldOver _ _ fun _ _ _ ht => (ht.setCleData _ _ _ _).setCleData _ _ _ _

theorem PwmSame.gsuBoundary (h : PwmSame d r s) (k : Nat) : PwmSame d r (s.gsuBoundary d k) := by
  have hg : ¬ pwmReg d (GSU.GSTAT d) := gridSetRegs_notPwm (by simp [gridSetRegs])
  unfold State.gsuBoundary
  extract_lets block s1 s2 s3 s4
  have h1 : PwmSame d r s1 := h.modGrid d _
  have h2 : PwmSame d r s2 := .ite (h1.discardSet k) (h1.acceptSet k)
  have h3 : PwmSame d r s3 := PwmSame.rcCheck h2.checkLock
  have h4 : PwmSame d r s4 := (h3.setB (f := GSU.GSTAT_PROBE_CFG_ERR d) _ hg).ite h3
  exact h.ite (PwmSame.writeGridWords h4.refreshGrid)

/-! ### Control-law engines (R18, R224-R230) -/

theorem PwmSame.copyCommand (h : PwmSame d r s) (c : Nat) : PwmSame d r (s.copyCommand d c) := by
  obtain ⟨_, _, hcommit, hcwc⟩ := cle_notPwm d c
  have h1 : PwmSame d r (s.takeCommit d c) := by
    refine .ite ?_ h
    have hf := h.foldOver (List.range 64) (fun w t => t.setReg (CLE.CWC d c w) (t.reg (CLE.CWP d c w))) fun w _ t ht => ht.setReg _ (hcwc w)
    exact (hf.setB (f := CLE.CW_COMMIT_COMMIT d c) _ hcommit).incMod (f := CLE.CW_COMMIT_CW_TAKEN d c) hcommit
  exact h1.foldOver _ _ fun w _ t ht => ht.setCleData _ _ _ _

theorem PwmSame.overrun (h : PwmSame d r s) (c : Nat) : PwmSame d r (s.overrun d c) := by
  obtain ⟨hflags, hcyc, _, _⟩ := cle_notPwm d c
  have h1 := (h.setB (f := CLE.FLAGS_CLE_OVERRUN d c) true hflags).incSat (f := CLE.FLAGS_OVR_CNT d c) hflags
  have h2 := (h1.set (f := CLE.CYC_LAST_CYC d c) 0xFFFF hcyc).setB (f := CLE.FLAGS_RUNNING d c) false hflags
  exact PwmSame.refreshTrips (h2.modCle d c _)

theorem PwmSame.scheduleCheck (h : PwmSame d r s) (c k : Nat) : PwmSame d r (s.scheduleCheck d c k) := by
  obtain ⟨hflags, _, _, _⟩ := cle_notPwm d c
  unfold State.scheduleCheck
  extract_lets len s1 s2 never s3
  have h1 : PwmSame d r s1 := h.modCle d c _
  have h2 : PwmSame d r s2 := (h1.setB (f := CLE.FLAGS_CFG_ERR d c) _ hflags).ite h1
  have h3 : PwmSame d r s3 := (h2.setB (f := CLE.FLAGS_CFG_ERR d c) _ hflags).ite h2
  exact h1.ite (.ite (PwmSame.overrun (h3.setB (f := CLE.FLAGS_CFG_ERR d c) _ hflags) c) (h3.ite (h3.modCle d c _)))

theorem PwmSame.periodWords (h : PwmSame d r s) (c k : Nat) : PwmSame d r (s.periodWords d c k) :=
  (((((h.setCleData _ _ _ _).setCleData _ _ _ _).setCleData _ _ _ _).setCleData _ _ _ _).setCleData _ _ _ _).setCleData _ _ _ _

theorem PwmSame.cleBoundary (h : PwmSame d r s) (c k : Nat) : PwmSame d r (s.cleBoundary d c k) := by
  unfold State.cleBoundary
  extract_lets s1 s2 s3
  have h1 : PwmSame d r s1 := (h.copyCommand c).modCle d c _
  have h3 : PwmSame d r s3 := PwmSame.periodWords (PwmSame.scheduleCheck (h1.modCle d c _) c k) c k
  exact h.ite (.ite (h1.periodWords c k) (.ite (h3.modCle d c _) h3))

/-! ### Command period and ADC triggers (R186-R193, R340) -/

theorem PwmSame.commandPeriod (h : PwmSame d r s) (n : Nat) : PwmSame d r (s.commandPeriod d n) := by
  unfold State.commandPeriod
  extract_lets cpc s1 s2
  have h1 : PwmSame d r s1 := h.set _ (dcmd_notPwm d)
  have h2 : PwmSame d r s2 := (h1.send _).ite h1
  have h3 : PwmSame d r (s2.sendStateRecord d) := (h2.send _).foldOver _ _ fun k _ t ht => ht.modAdc d k _
  exact h1.ite (h3.foldOver _ _ fun c _ t ht => (ht.event _ _ _).ite ht)

theorem PwmSame.clearValid (h : PwmSame d r s) (k : Nat) (inj : Bool) (e : Nat) : PwmSame d r (s.clearValid d k inj e) :=
  ((h.setReg _ ((adc_notPwm d k).2 inj e)).setCleData _ _ _ _).setCleData _ _ _ _

theorem PwmSame.startRegular (h : PwmSame d r s) (k : Nat) : PwmSame d r (s.startRegular d k) := by
  unfold State.startRegular
  extract_lets es had s1
  have h1 : PwmSame d r s1 := h.foldOver _ _ fun e _ t ht => PwmSame.clearValid ht k false e
  exact (h1.modAdc d k _).set (f := ADC.ASTAT_CUR_ENTRY d k) _ (adc_notPwm d k).1

theorem PwmSame.restoreValid (h : PwmSame d r s) (k : Nat) : PwmSame d r (s.restoreValid d k) := by
  unfold State.restoreValid
  extract_lets put s1
  refine CellsSame.modAdc ?_ d k _
  exact List.foldlRecOn _ _ h fun t ht b _ => ((ht.setReg _ ((adc_notPwm d k).2 false b.1)).setCleData _ _ _ _).setCleData _ _ _ _

theorem PwmSame.triggerLost (h : PwmSame d r s) (k : Nat) {f : RF} (hf : ¬ pwmReg d f.addr) : PwmSame d r (s.triggerLost d k f) :=
  (h.setB true hf).incSat (adc_notPwm d k).1

theorem PwmSame.regTrigger (h : PwmSame d r s) (k : Nat) : PwmSame d r (s.regTrigger d k) := by
  obtain ⟨hstat, _⟩ := adc_notPwm d k
  unfold State.regTrigger
  extract_lets c es s1 s2 s3
  have h2 : PwmSame d r s2 := (h.modAdc d k _).setB (f := ADC.ASTAT_REG_BUSY d k) _ hstat
  have h3 : PwmSame d r s3 := (h2.send _).ite h2
  have hlate : PwmSame d r ((s3.modAdc d k (fun c => { c with deferred := true })).setB (ADC.ASTAT_REG_LATE d k) true) :=
    (h3.modAdc d k _).setB _ hstat
  exact h.ite (.ite (h.setBit (f := ADC.ASTAT_SEQ_EMPTY d k) 0 true hstat) (.ite (PwmSame.triggerLost h k hstat)
    (.ite (PwmSame.triggerLost h k hstat) (hlate.ite (h3.startRegular k)))))

theorem PwmSame.injTrigger (h : PwmSame d r s) (k : Nat) : PwmSame d r (s.injTrigger d k) := by
  obtain ⟨hstat, _⟩ := adc_notPwm d k
  unfold State.injTrigger
  extract_lets c now es s1 s2 s3
  have h1 : PwmSame d r s1 := h.setB (f := ADC.ASTAT_PREEMPT d k) _ hstat
  have h2 : PwmSame d r s2 := by
    unfold s2
    split
    · exact h
    · refine .ite (.ite ?_ h) (.ite ?_ h1)
      · exact ((h.restoreValid k).modAdc d k _).setB (f := ADC.ASTAT_REG_LATE d k) _ hstat
      · exact (h1.modAdc d k _).setB (f := ADC.ASTAT_REG_BUSY d k) _ hstat
  have h3 : PwmSame d r s3 := h2.foldOver _ _ fun e _ t ht => PwmSame.clearValid ht k true e
  exact h.ite (.ite (h.setBit (f := ADC.ASTAT_SEQ_EMPTY d k) 1 true hstat) (.ite (PwmSame.triggerLost h k hstat)
    ((h3.modAdc d k _).setB (f := ADC.ASTAT_INJ_BUSY d k) _ hstat)))

theorem PwmSame.sourceTicks (h : PwmSame d r s) (src : Nat) : PwmSame d r (s.sourceTicks d src) := by
  refine h.foldOver _ _ fun k _ t ht => ?_
  unfold State.sourceTick
  extract_lets t1
  have h1 : PwmSame d r t1 := (PwmSame.injTrigger ht k).ite ht
  exact .ite (h1.regTrigger k) h1

end

end Sys2Proof.Machine
end

section
/-! SUPPORT. The shadow transfer, the start of a counter and a control-period start: what they leave of the group and of its registers (for O11). -/

namespace Sys2Proof.Machine

/-! ### The shadow transfer (R98-R106) -/

theorem State.transfer_regs (s : State) (d k : Nat) : (s.transfer d k).regs = (s.transferSet d k).regs := by
  unfold State.transfer
  extract_lets t was now
  split
  · rfl
  · exact State.send_regs _ _

theorem State.transfer_groups (s : State) (d k : Nat) : (s.transfer d k).groups = (s.transferSet d k).groups := by
  unfold State.transfer
  extract_lets t was now
  split
  · rfl
  · exact State.send_groups _ _

/-- R105: a set with PER = 0 is rejected. -/
theorem State.transferSet_invalid (s : State) (d k : Nat) (h : s.get (PWM.PER_PER d k) = 0) :
    s.transferSet d k = (s.setB (PWM.STAT_SET_INVALID d k) true).setB (PWM.COMMIT_COMMIT d k) false := if_pos h

/-- The fields of a group's registers that a boundary may write beside its counter: those of a transfer, and what judging the static fields
may set (R97, R106). -/
def boundaryFields (d k : Nat) : List RF := [PWM.STAT_GRP_CFG_ERR d k, PWM.STAT_SET_INVALID d k, PWM.STAT_SET_CLAMPED d k, PWM.STAT_SPLIT_UPDATE d k,
  PWM.SPLIT_LOG_SPLIT_CNT d k, PWM.SPLIT_LOG_PORT d k, PWM.SPLIT_LOG_DUTY_TAG d k, PWM.SPLIT_LOG_PER_TAG d k, PWM.COMMIT_COMMIT d k]

section
variable {d k : Nat} {g : RF} (hg : ∀ f ∈ boundaryFields d k, f.apart g = true)
include hg

theorem State.logSplit_get (s : State) : (s.logSplit d k).get g = s.get g := by
  unfold State.logSplit
  split
  case h_1 => rfl
  case h_2 j _ =>
    extract_lets s1 s2
    rw [State.get_set_apart _ _ (hg _ (by simp [boundaryFields])), State.get_set_apart _ _ (hg _ (by simp [boundaryFields])),
      State.get_set_apart _ _ (hg _ (by simp [boundaryFields])), State.get_incSat_apart _ (hg _ (by simp [boundaryFields])),
      State.get_setB_apart _ _ (hg _ (by simp [boundaryFields]))]

theorem State.setClamped_get (s : State) (c : Prop) [Decidable c] :
    (if c then s.setB (PWM.STAT_SET_CLAMPED d k) true else s).get g = s.get g := by
  rw [apply_ite (fun t : State => t.get g), State.get_setB_apart _ _ (hg _ (by simp [boundaryFields])), ite_self]

theorem State.transferPort_get (s : State) (j per : Nat) (hp : pwmReg d g.addr) : (s.transferPort d k j per).get g = s.get g := by
  obtain ⟨hduty, hrise, hfall⟩ := portAct_notPwm d j
  unfold State.transferPort
  extract_lets duty lim act s1 s2 s3
  have h3 : PwmSame d s1 ((s3.setReg (PORT.ACT_DT_RISE d j) (s3.reg (PORT.DT_RISE d j))).setReg (PORT.ACT_DT_FALL d j)
      (s3.reg (PORT.DT_FALL d j))) :=
    (((((CellsSame.refl _ s1).modPort d j _).setReg _ hduty).setReg _ hrise).setReg _ hfall)
  exact (State.get_of_cell (h3 _ hp)).trans (s.setClamped_get hg (lim < duty))

/-- A transfer writes no other field of the PWM block. -/
theorem State.transfer_get (s : State) (hp : pwmReg d g.addr) : (s.transfer d k).get g = s.get g := by
  refine (State.get_of_cell (State.cell_of_regs (s.transfer_regs d k) _)).trans ?_
  unfold State.transferSet
  extract_lets per perA phase phaseA s1 s2 s3 s4
  have hcommit : ∀ u : State, (u.setB (PWM.COMMIT_COMMIT d k) false).get g = u.get g := fun u =>
    State.get_setB_apart _ _ (hg _ (by simp [boundaryFields]))
  have h2 : s2.get g = s.get g := (s1.setClamped_get hg _).trans (s.logSplit_get hg)
  have h3 : s3.get g = s.get g := foldOver_preserves (P := fun t => t.get g = s.get g) _ _ _ h2 fun j _ t ht =>
    (t.transferPort_get hg j _ hp).trans ht
  have h4 : s4.get g = s.get g := by
    unfold s4
    rw [apply_ite (fun t : State => t.get g), hcommit, ite_self, h3]
  split
  · rw [hcommit, State.get_setB_apart _ _ (hg _ (by simp [boundaryFields]))]
  · exact (State.get_of_cell (State.cell_of_regs (State.modGrp_regs _ _ _ _) _)).trans h4

end

/-- What a transfer takes into the group (R98, R106). -/
theorem State.transfer_grp (s : State) (d k : Fin 4) (h : s.get (PWM.PER_PER d k) ≠ 0) : ∃ phase : Nat, (s.transfer d k).grp d k =
    { s.grp d k with aPer := perActs (s.grp d k).mode (s.get (PWM.PER_PER d k)), aPhase := phase, perWritten := false } := by
  have : Open (fun p => p = Part.groups) .regs := open_of_eq (by decide)
  have : Open (fun p => p = Part.groups) .ports := open_of_eq (by decide)
  unfold State.grp
  rw [s.transfer_groups d k]
  unfold State.transferSet
  extract_lets per perA phase phaseA s1 s2 s3 s4
  have h2 : Keeps (fun p => p = .groups) s s2 :=
    have h1 : Keeps (fun p => p = .groups) s s1 := State.logSplit_keeps (Keeps.refl _ s) d k
    keeps_ite (State.setB_keeps h1 _ _) h1
  have h3 : Keeps (fun p => p = .groups) s s3 := foldOver_keeps _ _ h2 fun j t ht => State.transferPort_keeps ht d k j _
  have h4 : Keeps (fun p => p = .groups) s s4 := keeps_ite h3 (State.setB_keeps h3 _ _)
  rw [if_neg h]
  exact ⟨phaseA, (State.grp_modGrp_self s4 d k _ (by omega)).trans (by rw [State.grp_of_groups h4.groups_eq]; rfl)⟩

theorem State.transfer_periods (s : State) (d k : Fin 4) : ((s.transfer d k).grp d k).periods = (s.grp d k).periods := by
  by_cases h : s.get (PWM.PER_PER d k) = 0
  · have hgroups : (s.transfer d k).groups = s.groups := by
      rw [s.transfer_groups d k, s.transferSet_invalid d k h, State.setB_groups, State.setB_groups]
    rw [State.grp_of_groups hgroups]
  · obtain ⟨phase, hgrp⟩ := s.transfer_grp d k h
    rw [hgrp]

/-! ### The start of a counter (R90) -/

theorem State.startCounter_runs (s : State) (d k : Fin 4) : (s.startCounter d k).grpRuns d k = true := by
  unfold State.startCounter
  extract_lets g h down c first s1 s2 s3 s4
  have h2 : s2.grpRuns d k = true := State.flag_setB_self _ _ _ (of_decide_eq_true rfl) Nat.one_pos
  have h4 : PwmSame d s2 s4 := ((CellsSame.refl _ s2).modGrp d k _).foldOver _ _ fun j _ t ht => ht.modPort d j _
  have hseed : PwmSame d s2 (s4.seedHops d) := h4.of_regs rfl
  exact (State.grpRuns_of_cell ((hseed.refreshHopNext.ite h4) _ (pwmReg_stat d k.isLt))).trans h2

/-- The group of a counter that has been set going. -/
def Group.begun (g : Group) : Group :=
  { g with waiting := false, due := false, carrierPer := g.aPer, early := false, periods := 0, carriers := 0, hopTaken := 0 }

theorem State.startCounter_grp (s : State) (d k : Fin 4) : (s.startCounter d k).grp d k = (s.grp d k).begun := by
  have : Open (fun p => p = Part.groups) .regs := open_of_eq (by decide)
  have : Open (fun p => p = Part.groups) .ports := open_of_eq (by decide)
  have : Open (fun p => p = Part.groups) .hops := open_of_eq (by decide)
  unfold State.startCounter
  extract_lets g h down c first s1 s2 s3 s4
  have h2 : Keeps (fun p => p = .groups) s s2 := State.setB_keeps (State.setB_keeps (State.set_keeps (Keeps.refl _ s) _ _) _ _) _ _
  have h4 : Keeps (fun p => p = .groups) s3 s4 := foldOver_keeps _ _ (Keeps.refl _ s3) fun j t ht => State.modPort_keeps ht d j _
  have h5 : Keeps (fun p => p = .groups) s3 (if first then (s4.seedHops d).refreshHopNext d else s4) :=
    keeps_ite (State.refreshHopNext_keeps (State.seedHops_keeps h4 d) d) h4
  have h3 : s3.grp d k = (s2.grp d k).begun := State.grp_modGrp_self _ _ _ _ (by omega)
  rw [State.grp_of_groups h5.groups_eq, h3, State.grp_of_groups h2.groups_eq]

/-! ### Groups, but for what a period start brings up to date -/

/-- A group without the PER of its carrier, its carrier counts and the static fields in force, which every period start brings up to date. -/
def Group.lasting (g : Group) : Group :=
  { g with carrierPer := 0, carriers := 0, hopTaken := 0, wrpt := 0, perMin := 0, wrptPend := false, perMinPend := false }

/-- From `s` to `t` the groups are as they were, but for what a period start brings up to date. -/
def LastingSame (s t : State) : Prop := ∀ n : Nat, (vget t.groups n).lasting = (vget s.groups n).lasting

theorem LastingSame.of_eq {s t : State} (h : t.groups = s.groups) : LastingSame s t := fun n => by rw [h]

theorem LastingSame.trans {s t u : State} (h : LastingSame s t) (h' : LastingSame t u) : LastingSame s u := fun n => (h' n).trans (h n)

theorem LastingSame.of_keeps {s t u : State} (h : LastingSame s t) (hk : Keeps (fun p => p = .groups) t u) : LastingSame s u :=
  h.trans (.of_eq hk.groups_eq)

theorem LastingSame.modGrp {s t : State} (h : LastingSame s t) (d k : Nat) {f : Group → Group} (hf : ∀ g, (f g).lasting = g.lasting) :
    LastingSame s (t.modGrp d k f) := h.trans fun n => vget_vmod_proj Group.lasting t.groups _ n f hf

theorem LastingSame.ite {c : Prop} [Decidable c] {s t u : State} (ht : LastingSame s t) (hu : LastingSame s u) :
    LastingSame s (if c then t else u) := by
  split
  · exact ht
  · exact hu

theorem LastingSame.grp {s t : State} (h : LastingSame s t) (d k : Nat) : (t.grp d k).lasting = (s.grp d k).lasting := h _

theorem State.checkStatics_lasting (s : State) (d k : Nat) : LastingSame s (s.checkStatics d k) := by
  have : Open (fun p => p = Part.groups) .regs := open_of_eq (by decide)
  unfold State.checkStatics
  extract_lets g l w m s1 s2
  have h1 : LastingSame s s1 := LastingSame.modGrp (.of_eq rfl) d k fun _ => rfl
  have h2 : LastingSame s s2 := .ite ((h1.of_keeps (State.setB_keeps (Keeps.refl _ s1) _ _)).modGrp d k fun _ => rfl) h1
  exact .ite ((h2.of_keeps (State.setB_keeps (Keeps.refl _ s2) _ _)).modGrp d k fun _ => rfl) h2

theorem State.carrierStart_lasting (s : State) (d k : Nat) (first : Bool) : LastingSame s (s.carrierStart d k first) := by
  have hOpen : ∀ p, p ≠ .groups → Open (fun p => p = .groups) p := fun _ h => open_of_eq h
  have := hOpen .regs (by decide)
  have := hOpen .mem (by decide)
  have := hOpen .ports (by decide)
  have := hOpen .tgs (by decide)
  have := hOpen .drives (by decide)
  unfold State.carrierStart
  extract_lets s1 s2 s3
  have h1 : LastingSame s s1 := LastingSame.modGrp (.of_eq rfl) d k fun _ => rfl
  have h2 : Keeps (fun p => p = .groups) s1 s2 := foldOver_keeps _ _ (Keeps.refl _ s1) fun j t ht => State.modPort_keeps ht d j _
  have h3 : LastingSame s s3 := h1.of_keeps (State.carrierLatches_keeps h2 d k)
  exact .ite h3 (h3.modGrp d k fun _ => rfl)

/-! ### A control-period start (R95, R623) -/

theorem State.checkStatics_get (s : State) (d k : Nat) {g : RF} (hg : ∀ f ∈ boundaryFields d k, f.apart g = true) :
    (s.checkStatics d k).get g = s.get g := by
  have hgrp : ∀ (u : State) (f : Group → Group), (u.modGrp d k f).get g = u.get g := fun u f =>
    State.get_of_cell (State.cell_of_regs (State.modGrp_regs _ _ _ _) _)
  unfold State.checkStatics
  extract_lets q l w m s1 s2
  have h1 : s1.get g = s.get g := hgrp _ _
  have h2 : s2.get g = s.get g := by
    unfold s2
    rw [apply_ite (fun t : State => t.get g), hgrp, State.get_setB_apart _ _ (hg _ (by simp [boundaryFields])), ite_self, h1]
  rw [apply_ite (fun t : State => t.get g), hgrp, State.get_setB_apart _ _ (hg _ (by simp [boundaryFields])), ite_self, h2]

/-- R95: beside PCNT and the flags of the static fields a period start leaves the PWM block. -/
theorem State.periodStart_get (s : State) (d k : Fin 4) (carrier first : Bool) {g : RF} (hp : pwmReg d g.addr)
    (hg : ∀ f ∈ boundaryFields d k, f.apart g = true) : (s.periodStart d k carrier first).get g = (s.incMod (PWM.CNT_PCNT d k)).get g := by
  unfold State.periodStart
  extract_lets n s1 s2 s3 s4 s5 s6 s7 s8
  have h1 : s1.get g = (s.incMod (PWM.CNT_PCNT d k)).get g := State.get_of_cell (State.cell_of_regs (State.modGrp_regs _ _ _ _) _)
  have h2 : PwmSame d s1 s2 := (PwmSame.carrierReturn (PwmSame.carrierStart (.refl _ s1) k first) k).ite (.refl _ s1)
  have h3 : s3.get g = s2.get g := State.checkStatics_get _ _ _ hg
  have h4 : PwmSame d s3 s4 := PwmSame.ma1Finish ((CellsSame.refl _ s3).foldOver _ _ fun j _ t ht => PwmSame.loadDelays ht j)
  have h6 : PwmSame d s3 s6 := ((h4.piStart k n).gsuBoundary k).foldOver _ _ fun c _ t ht => PwmSame.cleBoundary ht c k
  have h7 : PwmSame d s3 s7 := (h6.carrierHop k).ite h6
  have h8 : PwmSame d s3 s8 := (h7.commandPeriod n).ite h7
  calc (s8.sourceTicks d (k + 1)).get g = s3.get g := State.get_of_cell (h8.sourceTicks (k + 1) _ hp)
    _ = s2.get g := h3
    _ = s1.get g := State.get_of_cell (h2 _ hp)
    _ = _ := h1

/-- R95: the period is counted, and what the group holds beyond what a period start brings up to date stays. -/
theorem State.periodStart_lasting (s : State) (d k : Nat) (carrier first : Bool) :
    LastingSame (s.modGrp d k (fun g => { g with periods := (s.grp d k).periods + 1, early := false })) (s.periodStart d k carrier first) := by
  have hOpen : ∀ p, p ≠ .groups → Open (fun p => p = .groups) p := fun _ h => open_of_eq h
  have := hOpen .regs (by decide)
  have := hOpen .mem (by decide)
  have := hOpen .out (by decide)
  have := hOpen .freeCnt (by decide)
  have := hOpen .plls (by decide)
  have := hOpen .hops (by decide)
  have := hOpen .ports (by decide)
  have := hOpen .tgs (by decide)
  have := hOpen .drives (by decide)
  have := hOpen .adcs (by decide)
  have := hOpen .pis (by decide)
  have := hOpen .cles (by decide)
  have := hOpen .grids (by decide)
  have := hOpen .acts (by decide)
  have := hOpen .maintSeq (by decide)
  unfold State.periodStart
  extract_lets n s1 s2 s3 s4 s5 s6 s7 s8
  have h1 : s1.groups = (s.modGrp d k (fun g => { g with periods := (s.grp d k).periods + 1, early := false })).groups := by
    unfold s1
    rw [State.modGrp_groups, State.modGrp_groups, State.incMod_groups]
  have h2 : LastingSame s1 s2 := .ite ((s1.carrierStart_lasting d k first).of_keeps (State.carrierReturn_keeps (Keeps.refl _ _) d k)) (.of_eq rfl)
  have h3 : LastingSame s1 s3 := h2.trans (s2.checkStatics_lasting d k)
  have h4 : Keeps (fun p => p = .groups) s3 s4 :=
    State.ma1Finish_keeps (foldOver_keeps _ _ (Keeps.refl _ s3) fun j t ht => State.loadDelays_keeps ht d j) d
  have h6 : Keeps (fun p => p = .groups) s3 s6 := foldOver_keeps _ _ (State.gsuBoundary_keeps (State.piStart_keeps h4 d k n) d k)
    fun c t ht => State.cleBoundary_keeps ht d c k
  have h7 : Keeps (fun p => p = .groups) s3 s7 := keeps_ite (State.carrierHop_keeps h6 d k) h6
  have h8 : Keeps (fun p => p = .groups) s3 s8 := keeps_ite (State.commandPeriod_keeps h7 d n) h7
  exact (LastingSame.of_eq h1).trans (h3.of_keeps (State.sourceTicks_keeps h8 d (k + 1)))

/-- The group after a period start. -/
theorem State.periodStart_grp (s : State) (d k : Fin 4) (carrier first : Bool) : ((s.periodStart d k carrier first).grp d k).lasting =
    ({ s.grp d k with periods := (s.grp d k).periods + 1, early := false } : Group).lasting := by
  rw [(s.periodStart_lasting d k carrier first).grp, State.grp_modGrp_self _ _ _ _ (by omega)]

/-! ### A boundary (R95, R98) -/

theorem State.keepFalls_regs (s : State) (d k : Nat) : (s.keepFalls d k).regs = s.regs :=
  have : Open (fun p => p = Part.regs) .ports := open_of_eq (by decide)
  (State.keepFalls_keeps (F := fun p => p = .regs) (Keeps.refl _ s) d k).same .regs rfl

theorem State.keepFalls_groups (s : State) (d k : Nat) : (s.keepFalls d k).groups = s.groups :=
  have : Open (fun p => p = Part.groups) .ports := open_of_eq (by decide)
  (State.keepFalls_keeps (Keeps.refl _ s) d k).groups_eq

/-- A boundary, but for PCNT, leaves the fields of the PWM block that neither a transfer nor the static fields write. -/
theorem State.boundaryAt_get (s : State) (d k : Fin 4) (carrier : Bool) {g : RF} (hp : pwmReg d g.addr)
    (hg : ∀ f ∈ boundaryFields d k, f.apart g = true) :
    ∃ u : State, u.get g = s.get g ∧ (s.boundaryAt d k carrier).get g = (u.incMod (PWM.CNT_PCNT d k)).get g := by
  unfold State.boundaryAt
  extract_lets s1 s2
  have h1 : s1.get g = s.get g := by
    unfold s1
    split
    · exact State.get_of_cell (State.cell_of_regs (s.keepFalls_regs d k) _)
    · rfl
  refine ⟨s2, ?_, s2.periodStart_get d k carrier false hp hg⟩
  unfold s2
  rw [apply_ite (fun t : State => t.get g), s1.transfer_get hg hp, ite_self, h1]

/-- R95: the period is counted. -/
theorem State.boundaryAt_periods (s : State) (d k : Fin 4) (carrier : Bool) :
    ((s.boundaryAt d k carrier).grp d k).periods = (s.grp d k).periods + 1 := by
  unfold State.boundaryAt
  extract_lets s1 s2
  have h1 : s1.groups = s.groups := by
    unfold s1
    split
    · exact s.keepFalls_groups d k
    · rfl
  have h2 : (s2.grp d k).periods = (s.grp d k).periods := by
    unfold s2
    rw [apply_ite (fun t : State => (t.grp d k).periods), s1.transfer_periods, ite_self, State.grp_of_groups h1]
  exact (congrArg Group.periods (s2.periodStart_grp d k carrier false)).trans (congrArg (· + 1) h2)

end Sys2Proof.Machine
end

section
/-! SUPPORT. The commands that start and end a period of a PWM group (for O11). -/

namespace Sys2Proof.Machine

/-! ### Fields that a boundary leaves -/

/-- The fields of a group's counter, its RUN and its VP_TIMEOUT. -/
def counterFields (d k : Nat) : List RF := [PWM.CNT_PCNT d k, PWM.CNT_COUNT d k, PWM.STAT_RUN d k, PWM.STAT_VP_TIMEOUT d k]

/-- No boundary writes them beside PCNT. -/
theorem boundaryFields_apart (d k : Nat) : ∀ g ∈ counterFields d k, ∀ f ∈ boundaryFields d k, f.apart g = true := by
  have hne : PWM.CNT d k ≠ PWM.STAT d k ∧ PWM.CNT d k ≠ PWM.SPLIT_LOG d k ∧ PWM.CNT d k ≠ PWM.COMMIT d k ∧
      PWM.STAT d k ≠ PWM.SPLIT_LOG d k ∧ PWM.STAT d k ≠ PWM.COMMIT d k := by
    simp only [PWM.CNT, PWM.STAT, PWM.SPLIT_LOG, PWM.COMMIT]
    omega
  simp only [boundaryFields, counterFields, List.forall_mem_cons]
  simp [RF.apart_iff, PWM.CNT_PCNT, PWM.CNT_COUNT, PWM.STAT_RUN, PWM.STAT_VP_TIMEOUT, PWM.STAT_GRP_CFG_ERR,
    PWM.STAT_SET_INVALID, PWM.STAT_SET_CLAMPED, PWM.STAT_SPLIT_UPDATE, PWM.SPLIT_LOG_SPLIT_CNT, PWM.SPLIT_LOG_PORT, PWM.SPLIT_LOG_DUTY_TAG,
    PWM.SPLIT_LOG_PER_TAG, PWM.COMMIT_COMMIT, hne]

theorem counterFields_pwm (d k : Fin 4) : ∀ g ∈ counterFields d k, pwmReg d g.addr := by
  simp only [counterFields, List.forall_mem_cons]
  exact ⟨pwmReg_cnt d k.isLt, pwmReg_cnt d k.isLt, pwmReg_stat d k.isLt, pwmReg_stat d k.isLt, fun _ h => absurd h List.not_mem_nil⟩

/-- R95: a boundary adds 1 to PCNT. -/
theorem State.boundaryAt_pcnt (s : State) (d k : Fin 4) (carrier : Bool) : (s.boundaryAt d k carrier).get (PWM.CNT_PCNT d k) =
    (s.get (PWM.CNT_PCNT d k) + 1) % 2 ^ (PWM.CNT_PCNT d k).w := by
  have hm : PWM.CNT_PCNT d k ∈ counterFields d k := by simp [counterFields]
  obtain ⟨u, hu, hb⟩ := s.boundaryAt_get d k carrier (counterFields_pwm d k _ hm) (boundaryFields_apart d k _ hm)
  rw [hb, State.get_incMod_self _ _ (of_decide_eq_true rfl), hu]

/-- A boundary leaves the others. -/
theorem State.boundaryAt_counter (s : State) (d k : Fin 4) (carrier : Bool) {g : RF} (hm : g ∈ counterFields d k)
    (hg : (PWM.CNT_PCNT d k).apart g = true) : (s.boundaryAt d k carrier).get g = s.get g := by
  obtain ⟨u, hu, hb⟩ := s.boundaryAt_get d k carrier (counterFields_pwm d k _ hm) (boundaryFields_apart d k _ hm)
  rw [hb, State.incMod, State.get_set_apart _ _ hg, hu]

theorem pcnt_apart_stat (d k : Nat) {g : RF} (ha : g.addr = PWM.STAT d k) (hg : g.fits = true) : (PWM.CNT_PCNT d k).apart g = true :=
  RF.apart_of_addr_ne rfl hg (by rw [ha]; simp only [PWM.CNT_PCNT, PWM.CNT, PWM.STAT]; omega)

/-! ### Starting a group (R85, R105) -/

/-- R105: a set with PER = 0 is rejected, and the group does not start. -/
theorem pwmGroupStart_invalid (d k : Fin 4) (s : State) (hdue : (s.grp d k).due = true) (hg : s.grpRuns d k = false) (hd : s.dieRuns d = true)
    (hper : s.get (PWM.PER_PER d k) = 0) (hr : s.mainRuns = true) :
    Completes (exec (.pwmGroupStart d k) s) (fun t => (t.grp d k).enabled = false ∧ (t.grp d k).due = false ∧ t.grpRuns d k = false ∧
      t.flag (PWM.STAT_SET_INVALID d k) = true) := by
  have hne : (PWM.COMMIT_COMMIT d k).apart (PWM.STAT_SET_INVALID d k) = true :=
    RF.apart_of_addr_ne rfl rfl (by simp only [PWM.STAT_SET_INVALID, PWM.COMMIT_COMMIT, PWM.STAT, PWM.COMMIT]; omega)
  have hcell : ∀ (f : Group → Group) a, ((s.transfer d k).modGrp d k f).cell a =
      ((s.setB (PWM.STAT_SET_INVALID d k) true).setB (PWM.COMMIT_COMMIT d k) false).cell a := fun f a =>
    State.cell_of_regs ((State.modGrp_regs _ _ _ _).trans ((s.transfer_regs d k).trans (congrArg State.regs (s.transferSet_invalid d k hper)))) a
  refine completes_whileRuns hr (completes_next ?_)
  rw [if_neg (by rw [hdue, hg, hd]; decide)]
  dsimp only
  rw [if_pos hper, State.grp_modGrp_self _ _ _ _ (by omega)]
  refine ⟨rfl, rfl, ?_, ?_⟩
  · rw [State.grpRuns_of_cell (hcell _ _)]
    exact (State.flag_of_get ((State.get_setB_apart _ _ rfl).trans (State.get_setB_apart _ _ rfl))).trans hg
  · rw [State.flag_of_cell (hcell _ _), State.flag_of_get (State.get_setB_apart _ _ hne)]
    exact State.flag_setB_self _ _ _ (of_decide_eq_true rfl) Nat.one_pos

/-- The group runs, started with the set of the transfer. -/
def State.startedBy (t s : State) (d k : Nat) : Prop :=
  (t.grp d k).due = false ∧ (t.grp d k).waiting = false ∧ t.grpRuns d k = true ∧
    (t.grp d k).aPer = perActs (s.grp d k).mode (s.get (PWM.PER_PER d k))

theorem State.startCounter_startedBy (s : State) (d k : Fin 4) (hper : s.get (PWM.PER_PER d k) ≠ 0) :
    ((s.transfer d k).startCounter d k).startedBy s d k := by
  obtain ⟨phase, hgrp⟩ := s.transfer_grp d k hper
  unfold State.startedBy
  rw [State.startCounter_grp, hgrp]
  exact ⟨rfl, rfl, State.startCounter_runs _ d k, rfl⟩

/-- A period start leaves a group started. -/
theorem State.periodStart_startedBy {t s : State} {d k : Fin 4} (h : t.startedBy s d k) (carrier first : Bool) :
    (t.periodStart d k carrier first).startedBy s d k := by
  obtain ⟨hdue, hwaiting, hruns, hper⟩ := h
  have hgrp := t.periodStart_grp d k carrier first
  have hm : PWM.STAT_RUN d k ∈ counterFields d k := by simp [counterFields]
  have hrun : (t.periodStart d k carrier first).get (PWM.STAT_RUN d k) = t.get (PWM.STAT_RUN d k) :=
    (t.periodStart_get d k carrier first (counterFields_pwm d k _ hm) (boundaryFields_apart d k _ hm)).trans
      (State.get_set_apart _ _ (pcnt_apart_stat d k rfl rfl))
  exact ⟨(congrArg Group.due hgrp).trans hdue, (congrArg Group.waiting hgrp).trans hwaiting, (State.flag_of_get hrun).trans hruns,
    (congrArg Group.aPer hgrp).trans hper⟩

/-- R85: the group starts with the set of its start transfer. -/
theorem pwmGroupStart_starts (d k : Fin 4) (s : State) (hdue : (s.grp d k).due = true) (hg : s.grpRuns d k = false) (hd : s.dieRuns d = true)
    (hper : s.get (PWM.PER_PER d k) ≠ 0) (hr : s.mainRuns = true) :
    Completes (exec (.pwmGroupStart d k) s) (fun t => (t.grp d k).due = false ∧ (t.grp d k).waiting = false ∧ t.grpRuns d k = true ∧
      (t.grp d k).aPer = perActs (s.grp d k).mode (s.get (PWM.PER_PER d k))) := by
  have hstart := s.startCounter_startedBy d k hper
  refine completes_whileRuns hr (completes_next ?_)
  rw [if_neg (by rw [hdue, hg, hd]; decide)]
  dsimp only
  rw [if_neg hper]
  split
  · exact State.periodStart_startedBy hstart _ true
  · exact hstart

/-! ### Boundaries and variable periods (R91, R92, R95) -/

theorem variableMode_of_le {m : Nat} (h : 2 ≤ m) : variableMode m = true := decide_eq_true h

theorem variableMode_of_lt {m : Nat} (h : m < 2) : variableMode m = false := decide_eq_false (Nat.not_le.2 h)

/-- R95: the boundary counts the period, in the group and in PCNT. -/
theorem controlPeriodBoundary_counts (d k : Fin 4) (s : State) (hg : s.grpRuns d k = true) (hd : s.dieRuns d = true)
    (hmode : (s.grp d k).mode < 2) (hs : (s.grp d k).stopping = false) (hr : s.mainRuns = true) :
    Completes (exec (.controlPeriodBoundary d k) s) (fun t => (t.grp d k).periods = (s.grp d k).periods + 1 ∧
      t.get (PWM.CNT_PCNT d k) = (s.get (PWM.CNT_PCNT d k) + 1) % 2 ^ (PWM.CNT_PCNT d k).w) := by
  refine completes_whileRuns hr (completes_next ?_)
  extract_lets g peak s1
  have hgroups : s1.groups = s.groups := (State.setB_groups _ _ _).trans (State.set_groups _ _ _)
  have hpcnt : s1.get (PWM.CNT_PCNT d k) = s.get (PWM.CNT_PCNT d k) := (State.get_setB_apart _ _ rfl).trans (State.get_set_apart _ _ rfl)
  rw [if_neg (by rw [hg, hd]; decide), if_neg (by rw [variableMode_of_lt hmode]; exact Bool.false_ne_true),
    if_neg (by rw [hs]; exact Bool.false_ne_true)]
  exact ⟨(s1.boundaryAt_periods d k _).trans (by rw [State.grp_of_groups hgroups]), (s1.boundaryAt_pcnt d k _).trans (by rw [hpcnt])⟩

/-- The end of a variable period counts it and sets the counter to 0. -/
theorem State.endVariable_counts (s : State) (d k : Fin 4) (hs : (s.grp d k).stopping = false) :
    ((s.endVariable d k).grp d k).periods = (s.grp d k).periods + 1 ∧ (s.endVariable d k).get (PWM.CNT_COUNT d k) = 0 ∧
      (s.endVariable d k).get (PWM.STAT_VP_TIMEOUT d k) = s.get (PWM.STAT_VP_TIMEOUT d k) := by
  have hgroups : (s.set (PWM.CNT_COUNT d k) 0).groups = s.groups := State.set_groups _ _ _
  have hgrp := State.grp_of_groups hgroups d k
  have htimeout : (PWM.CNT_COUNT d k).apart (PWM.STAT_VP_TIMEOUT d k) = true :=
    RF.apart_of_addr_ne rfl rfl (by simp only [PWM.STAT_VP_TIMEOUT, PWM.CNT_COUNT, PWM.STAT, PWM.CNT]; omega)
  unfold State.endVariable
  dsimp only
  rw [if_neg (by rw [hgrp, hs]; decide), State.boundaryAt_periods, hgrp, State.boundaryAt_counter _ d k true (by simp [counterFields]) rfl,
    State.boundaryAt_counter _ d k true (by simp [counterFields]) (pcnt_apart_stat d k rfl rfl), State.get_set_apart _ _ htimeout]
  exact ⟨rfl, State.get_set_self _ _ _ (of_decide_eq_true rfl), rfl⟩

/-- R91: a trigger edge behind the fixed phase and PER_MIN ends the period. -/
theorem vpTriggerEdge_ends (d k : Fin 4) (s : State) (hg : s.grpRuns d k = true) (hd : s.dieRuns d = true) (hmode : 2 ≤ (s.grp d k).mode)
    (hphase : s.fixedPhase d k ≤ 64 * s.get (PWM.CNT_COUNT d k)) (hmin : s.perMinActs d k ≤ s.get (PWM.CNT_COUNT d k))
    (hs : (s.grp d k).stopping = false) (hr : s.mainRuns = true) :
    Completes (exec (.vpTriggerEdge d k) s) (fun t => (t.grp d k).periods = (s.grp d k).periods + 1 ∧ t.get (PWM.CNT_COUNT d k) = 0) := by
  obtain ⟨hperiods, hcount, _⟩ := s.endVariable_counts d k hs
  refine completes_whileRuns hr (completes_next ?_)
  rw [if_neg (by rw [hg, hd, variableMode_of_le hmode, decide_eq_false (Nat.not_lt.2 hphase)]; decide), if_neg (Nat.not_lt.2 hmin)]
  exact ⟨hperiods, hcount⟩

/-- R91: an edge before PER_MIN is held. -/
theorem vpTriggerEdge_held (d k : Fin 4) (s : State) (hg : s.grpRuns d k = true) (hd : s.dieRuns d = true) (hmode : 2 ≤ (s.grp d k).mode)
    (hphase : s.fixedPhase d k ≤ 64 * s.get (PWM.CNT_COUNT d k)) (hmin : s.get (PWM.CNT_COUNT d k) < s.perMinActs d k) (hr : s.mainRuns = true) :
    Completes (exec (.vpTriggerEdge d k) s) (fun t => (t.grp d k).early = true ∧ t.regs = s.regs) := by
  refine completes_whileRuns hr (completes_next ?_)
  rw [if_neg (by rw [hg, hd, variableMode_of_le hmode, decide_eq_false (Nat.not_lt.2 hphase)]; decide), if_pos hmin,
    State.grp_modGrp_self _ _ _ _ (by omega)]
  exact ⟨rfl, State.modGrp_regs _ _ _ _⟩

/-- R92: PER ticks without an edge end the period, and VP_TIMEOUT shows it. -/
theorem vpTimeout_ends (d k : Fin 4) (s : State) (hg : s.grpRuns d k = true) (hd : s.dieRuns d = true) (hmode : 2 ≤ (s.grp d k).mode)
    (hs : (s.grp d k).stopping = false) (hr : s.mainRuns = true) :
    Completes (exec (.vpTimeout d k) s) (fun t => (t.grp d k).periods = (s.grp d k).periods + 1 ∧ t.flag (PWM.STAT_VP_TIMEOUT d k) = true) := by
  have hgrp : (s.setB (PWM.STAT_VP_TIMEOUT d k) true).grp d k = s.grp d k := State.grp_of_groups (State.setB_groups _ _ _) d k
  obtain ⟨hperiods, _, hflag⟩ := (s.setB (PWM.STAT_VP_TIMEOUT d k) true).endVariable_counts d k (by rw [hgrp]; exact hs)
  refine completes_whileRuns hr (completes_next ?_)
  rw [if_neg (by rw [hg, hd, variableMode_of_le hmode]; decide)]
  rw [hgrp] at hperiods
  exact ⟨hperiods, (State.flag_of_get hflag).trans (State.flag_setB_self _ _ _ (of_decide_eq_true rfl) Nat.one_pos)⟩

end Sys2Proof.Machine
end

section
/-! SUPPORT. Ports through outputs and trip groups: what turning on and off does to one port, and which ports a trip group leaves (for O11). -/

namespace Sys2Proof.Machine

/-! ### One port at a time -/

theorem State.port_of_ports {s t : State} (h : t.ports = s.ports) (d j : Nat) : t.port d j = s.port d j := by
  unfold State.port
  rw [h]

/-- A part of each port that a change of one port leaves is the same in all. -/
theorem State.modPort_proj {β : Type} (p : Port → β) (s : State) (d j d' j' : Nat) {f : Port → Port} (h : ∀ x, p (f x) = p x) :
    p ((s.modPort d' j' f).port d j) = p (s.port d j) := vget_vmod_proj p s.ports _ _ f h

/-- From `s` to `t` no port but `j` of die `d` has changed. -/
def OnlyPort (d j : Nat) (s t : State) : Prop := ∀ n : Nat, n ≠ 7 * d + j → vget t.ports n = vget s.ports n

theorem OnlyPort.of_eq {d j : Nat} {s t : State} (h : t.ports = s.ports) : OnlyPort d j s t := fun n _ => by rw [h]

theorem OnlyPort.trans {d j : Nat} {s t u : State} (h : OnlyPort d j s t) (h' : OnlyPort d j t u) : OnlyPort d j s u :=
  fun n hn => (h' n hn).trans (h n hn)

theorem OnlyPort.of_vmod {d j : Nat} {s t : State} {f : Port → Port} (h : t.ports = vmod s.ports (7 * d + j) f) : OnlyPort d j s t :=
  fun n hn => by rw [h, vget_vmod_ne _ _ _ _ hn]

theorem OnlyPort.port {d i : Nat} {s t : State} (h : OnlyPort d i s t) {j : Nat} (hj : j ≠ i) : t.port d j = s.port d j :=
  h _ (by omega)

/-! ### Outputs -/

/-- A port one of whose outputs goes on, counted (R563) or not. -/
def Port.turnedOn (p : Port) (high : Bool) (c : Nat) : Port :=
  { p with
    gh := p.gh || high, gl := p.gl || !high, switches := min (p.switches + c) (2 ^ 32 - 1)
    sinceH := if high then 0 else p.sinceH, sinceL := if high then p.sinceL else 0 }

/-- Is this output of the port on? -/
def Port.on (p : Port) (high : Bool) : Bool := if high then p.gh else p.gl

theorem Port.turnedOn_on (p : Port) (high : Bool) (c : Nat) : (p.turnedOn high c).on high = true := by
  cases high
  · exact Bool.or_true _
  · exact Bool.or_true _

/-- What turning an output on does to the ports: nothing where it is suppressed or on already. -/
theorem State.turnOn_ports (s : State) (d j : Nat) (high : Bool) : ((s.turnOn d j high).ports = s.ports ∧
    (s.dieRuns d = true → (s.port d j).blocked = false → s.stoBranch d = false → (s.port d j).on high = true)) ∨
    ∃ c, (s.turnOn d j high).ports = vmod s.ports (7 * d + j) (fun p => p.turnedOn high c) := by
  unfold State.turnOn
  extract_lets p c t1 t2
  have hon : (if high = true then p.gh else p.gl) = p.on high := rfl
  rw [hon]
  split
  case isTrue h =>
    refine .inl ⟨rfl, fun hd hb hs => absurd h ?_⟩
    have hb' : p.blocked = false := hb
    rw [hd, hb', hs]
    decide
  case isFalse =>
    split
    case isTrue h => exact .inl ⟨rfl, fun _ _ _ => h⟩
    case isFalse =>
      have h1 : t1.ports = s.ports := by unfold t1; rw [apply_ite State.ports, State.setB_ports, ite_self]
      have h2 : t2.ports = s.ports := by
        unfold t2 State.setBit State.orBits
        rw [if_pos rfl, apply_ite State.ports, State.set_ports, ite_self, h1]
      exact .inr ⟨c, by rw [State.outputEdge_ports, State.modPort_ports, h2]; rfl⟩

/-- R109: an output that nothing suppresses is on. -/
theorem State.turnOn_on (s : State) (d j : Nat) (high : Bool) (hj : 7 * d + j < 28) (hd : s.dieRuns d = true) (hb : (s.port d j).blocked = false)
    (hs : s.stoBranch d = false) : ((s.turnOn d j high).port d j).on high = true := by
  obtain ⟨h, hon⟩ | ⟨c, h⟩ := s.turnOn_ports d j high
  · rw [State.port_of_ports h, hon hd hb hs]
  · unfold State.port
    rw [h, vget_vmod_self _ _ _ hj, Port.turnedOn_on]

theorem State.turnOn_proj {β : Type} (p : Port → β) (s : State) (d j : Nat) (high : Bool) (hp : ∀ x c, p (Port.turnedOn x high c) = p x) :
    p ((s.turnOn d j high).port d j) = p (s.port d j) := by
  obtain ⟨h, _⟩ | ⟨c, h⟩ := s.turnOn_ports d j high
  · rw [State.port_of_ports h]
  · unfold State.port
    rw [h, vget_vmod_proj p _ _ _ _ fun x => hp x c]

theorem State.turnOn_onlyPort (s : State) (d j : Nat) (high : Bool) : OnlyPort d j s (s.turnOn d j high) := by
  obtain ⟨h, _⟩ | ⟨c, h⟩ := s.turnOn_ports d j high
  · exact .of_eq h
  · exact .of_vmod h

/-- A port one of whose outputs goes off. -/
def Port.turnedOff (p : Port) (high : Bool) : Port := if high then { p with gh := false, sinceH := 0 } else { p with gl := false, sinceL := 0 }

/-- A port whose turn-off waits for its die to run (R119). -/
def Port.dueOffWith (p : Port) (high : Bool) : Port := { p with dueOff := p.dueOff ||| (if high then 2 else 1) }

/-- What turning an output off does to the ports: nothing where it is off already; on a frozen die the turn-off waits. -/
theorem State.turnOffIn_ports (s : State) (d j : Nat) (high next : Bool) :
    ((s.turnOffIn d j high next).ports = s.ports ∧ (s.port d j).on high = false) ∨
      (s.dieRuns d = false ∧ (s.turnOffIn d j high next).ports = vmod s.ports (7 * d + j) (fun p => p.dueOffWith high)) ∨
      (s.turnOffIn d j high next).ports = vmod s.ports (7 * d + j) (fun p => p.turnedOff high) := by
  unfold State.turnOffIn
  extract_lets p
  have hon : (if high = true then p.gh else p.gl) = p.on high := rfl
  rw [hon]
  cases hp : p.on high
  case false => exact .inl ⟨rfl, rfl⟩
  case true =>
    rw [if_neg (by decide)]
    cases hd : s.dieRuns d
    case false => exact .inr (.inl ⟨rfl, State.modPort_ports _ _ _ _⟩)
    case true => exact .inr (.inr (State.outputOff_ports s d j high next))

theorem State.turnOff_proj {β : Type} (p : Port → β) (s : State) (d j : Nat) (high : Bool) (hoff : ∀ x, p (Port.turnedOff x high) = p x)
    (hdue : ∀ x, p (Port.dueOffWith x high) = p x) : p ((s.turnOff d j high).port d j) = p (s.port d j) := by
  unfold State.turnOff
  obtain ⟨h, _⟩ | ⟨_, h⟩ | h := s.turnOffIn_ports d j high false
  · rw [State.port_of_ports h]
  · unfold State.port
    rw [h, vget_vmod_proj p _ _ _ _ hdue]
  · unfold State.port
    rw [h, vget_vmod_proj p _ _ _ _ hoff]

/-- R109: in a die that runs the output goes off. -/
theorem State.turnOff_off (s : State) (d j : Nat) (high : Bool) (hj : 7 * d + j < 28) (hd : s.dieRuns d = true) :
    ((s.turnOff d j high).port d j).on high = false := by
  unfold State.turnOff
  obtain ⟨h, hoff⟩ | ⟨hf, _⟩ | h := s.turnOffIn_ports d j high false
  · rw [State.port_of_ports h, hoff]
  · exact absurd (hd.symm.trans hf) (by decide)
  · unfold State.port
    rw [h, vget_vmod_self _ _ _ hj]
    cases high <;> rfl

theorem State.turnOffIn_onlyPort (s : State) (d j : Nat) (high next : Bool) : OnlyPort d j s (s.turnOffIn d j high next) := by
  obtain ⟨h, _⟩ | ⟨_, h⟩ | h := s.turnOffIn_ports d j high next
  · exact .of_eq h
  · exact .of_vmod h
  · exact .of_vmod h

/-! ### Safe states and trip groups (R141-R145) -/

theorem State.enterSafe_onlyPort (s : State) (d j : Nat) (p : PortSafe) : OnlyPort d j s (s.enterSafe d j p) := by
  unfold State.enterSafe
  extract_lets s1 s2
  have h1 : OnlyPort d j s s1 := .of_vmod (State.modPort_ports _ _ _ _)
  have h2 : OnlyPort d j s s2 := h1.trans (.of_eq (by unfold s2; rw [apply_ite State.ports, State.setB_ports, ite_self]))
  cases p
  case none => exact h2
  case chopper => exact h2
  case opened => exact h2.trans ((State.turnOffIn_onlyPort _ _ _ _ _).trans (State.turnOffIn_onlyPort _ _ _ _ _))
  case ascLow => exact (h2.trans (State.turnOffIn_onlyPort _ _ _ _ _)).trans (.of_vmod (State.modPort_ports _ _ _ _))
  case ascHigh => exact (h2.trans (State.turnOffIn_onlyPort _ _ _ _ _)).trans (.of_vmod (State.modPort_ports _ _ _ _))
  case auxLow => exact h2.trans ((State.turnOffIn_onlyPort _ _ _ _ _).trans (State.turnOn_onlyPort _ _ _ _))

/-- A safe state writes REF_ACT of the auxiliary port and the registers of the outputs. -/
theorem State.enterSafe_cell_of_outRegs (s : State) (d j a : Nat) (p : PortSafe) (h1 : a ≠ APB.APSTAT d) (h2 : a ∉ outRegs d) :
    (s.enterSafe d j p).cell a = s.cell a := by
  unfold State.enterSafe
  extract_lets s1 s2
  have e2 : s2.cell a = s.cell a := by
    unfold s2
    rw [apply_ite (fun t : State => t.cell a), State.cell_setB_ne _ _ _ _ h1, ite_self]
    exact State.modPort_cell _ _ _ _ _
  cases p <;> simp only [State.modPort_cell, State.turnOffIn_cell _ _ _ _ _ _ h2, State.turnOn_cell _ _ _ _ _ h2, e2]

theorem tgstat_notMem_outRegs (d k : Nat) : TRIP.TGSTAT d k ≠ APB.APSTAT d ∧ TRIP.TGSTAT d k ∉ outRegs d := by
  simp only [outRegs, List.mem_cons, List.mem_map, List.mem_range, TRIP.TGSTAT, APB.APSTAT, CYC.RFSTAT, PORT.CHOP_STAT, not_or, not_exists,
    not_and]
  exact ⟨by omega, by omega, fun j _ => by omega⟩

theorem members_notMem (d : Nat) : TRIP.MEMBERS d ∉ tripRegs d ∧ TRIP.MEMBERS d ∉ gridRegs d := by
  simp only [tripRegs, gridRegs, outRegs, List.mem_append, List.mem_cons, List.mem_map, List.mem_range, List.not_mem_nil, TRIP.SRCACT,
    TRIP.TGSTAT, TRIP.MEMBERS, APB.APSTAT, CYC.RFSTAT, PORT.CHOP_STAT, RTS.RC_SEC, RTS.RTSTAT, GSU.GSTAT, not_or, not_exists, not_and]
  refine ⟨⟨⟨by omega, by omega, by omega, by omega, by omega, ?_⟩, by omega, fun j _ => by omega⟩, ⟨by omega, by omega, by omega, ?_⟩,
    by omega, fun j _ => by omega⟩ <;> exact id

theorem State.tgOf_of_cell {s t : State} {d : Nat} (h : t.cell (TRIP.MEMBERS d) = s.cell (TRIP.MEMBERS d)) (j : Nat) : t.tgOf d j = s.tgOf d j := by
  have hb : t.bit (TRIP.MEMBERS_MEMB1 d) j = s.bit (TRIP.MEMBERS_MEMB1 d) j := State.bit_of_cell h
  unfold State.tgOf
  rw [hb]

/-- SRC_ACT and TG_CFG_ERR leave TRIPPED. -/
theorem State.setReg_refreshCfgErr_tripped (s : State) (d k q : Nat) (w : Word) :
    ((s.setReg (TRIP.SRCACT d k) w).refreshCfgErr d k).flag (TRIP.TGSTAT_TRIPPED d q) = s.flag (TRIP.TGSTAT_TRIPPED d q) := by
  have hsrc : TRIP.TGSTAT d q ≠ TRIP.SRCACT d k := by
    simp only [TRIP.TGSTAT, TRIP.SRCACT]
    omega
  have h0 : ∀ f, ((s.setReg (TRIP.SRCACT d k) w).modTg d k f).get (TRIP.TGSTAT_TRIPPED d q) = s.get (TRIP.TGSTAT_TRIPPED d q) := fun f =>
    State.get_of_cell ((State.modTg_cell _ _ _ _ _).trans (State.cell_setReg_ne _ _ _ _ hsrc))
  refine State.flag_of_get ?_
  unfold State.refreshCfgErr
  dsimp only
  rw [apply_ite (fun t : State => t.get (TRIP.TGSTAT_TRIPPED d q)), State.get_setB_apart _ _ rfl, ite_self, h0]

/-- Bringing a trip group up to date trips and clears none. -/
theorem State.refreshGroup_tripped (s : State) (d k q : Nat) :
    (s.refreshGroup d k).flag (TRIP.TGSTAT_TRIPPED d q) = s.flag (TRIP.TGSTAT_TRIPPED d q) := by
  obtain ⟨hap, hout⟩ := tgstat_notMem_outRegs d q
  unfold State.refreshGroup
  extract_lets act s1
  have h1 : s1.flag (TRIP.TGSTAT_TRIPPED d q) = s.flag (TRIP.TGSTAT_TRIPPED d q) := State.setReg_refreshCfgErr_tripped _ _ _ _ _
  split
  case isFalse => exact h1
  case isTrue =>
    refine Eq.trans (State.flag_of_get (State.get_setB_apart _ _ rfl)) (Eq.trans (State.flag_of_cell (foldOver_cell _ _ _ _ fun j _ t => ?_)) h1)
    dsimp only
    split
    · rfl
    · exact State.enterSafe_cell_of_outRegs _ _ _ _ _ hap hout

/-- A port that is no member of the group, or whose group is not tripped, stays as it is. -/
theorem State.refreshGroup_port (s : State) (d k j : Nat) (hk : k < 2) (h : s.tgOf d j = k → s.flag (TRIP.TGSTAT_TRIPPED d k) = false) :
    (s.refreshGroup d k).port d j = s.port d j := by
  have hmembers : TRIP.MEMBERS d ≠ TRIP.SRCACT d k ∧ TRIP.MEMBERS d ≠ TRIP.TGSTAT d k := by
    simp only [TRIP.MEMBERS, TRIP.SRCACT, TRIP.TGSTAT]
    omega
  unfold State.refreshGroup
  extract_lets act s1
  have h1 : s1.port d j = s.port d j := State.port_of_ports (State.setReg_refreshCfgErr_ports _ _ _ _ _) d j
  have htg : s1.tgOf d j = s.tgOf d j := State.tgOf_of_cell (State.setReg_refreshCfgErr_cell _ _ _ _ _ _ hmembers.1 hmembers.2) j
  have htrip : s1.flag (TRIP.TGSTAT_TRIPPED d k) = s.flag (TRIP.TGSTAT_TRIPPED d k) := State.setReg_refreshCfgErr_tripped _ _ _ _ _
  clear_value s1
  split
  case isFalse => exact h1
  case isTrue hs1 =>
    have hother : ∀ i ∈ s1.tgPorts d k, j ≠ i := by
      rintro i hi rfl
      have hik : s1.tgOf d j = k := of_decide_eq_true (List.mem_filter.1 hi).2
      exact absurd ((htrip.trans (h (htg.symm.trans hik))).symm.trans hs1) (by decide)
    refine Eq.trans (State.port_of_ports (State.setB_ports _ _ _) d j) ?_
    refine foldOver_preserves (P := fun t => t.port d j = s.port d j) _ _ _ h1 fun i hi t ht => ?_
    dsimp only
    split
    · exact ht
    · exact ((State.enterSafe_onlyPort _ _ _ _).port (hother i hi)).trans ht

/-- Bringing the trip groups up to date leaves a port whose group is not tripped. -/
theorem State.refreshTrips_port (s : State) (d j : Nat) (h : s.flag (TRIP.TGSTAT_TRIPPED d (s.tgOf d j)) = false) :
    (s.refreshTrips d).port d j = s.port d j := by
  unfold State.refreshTrips
  split
  case isTrue => rfl
  case isFalse =>
    have htg : (s.refreshGroup d 0).tgOf d j = s.tgOf d j := State.tgOf_of_cell (State.refreshGroup_cell _ _ _ _ (by decide) (members_notMem d).1) j
    rw [State.refreshGroup_port _ _ _ _ (by decide) ?_, State.refreshGroup_port _ _ _ _ (by decide) ?_]
    · rintro hk
      rw [← hk]
      exact h
    · rintro hk
      rw [State.refreshGroup_tripped, ← hk, htg]
      exact h

end Sys2Proof.Machine
end

section
/-! SUPPORT and the obligation on periods and edges of the PWM groups (O11): command edges, dead times, PMODE and the delay monitor. -/

namespace Sys2Proof.Machine

/-! ### Turn-ons that wait or are dropped (R109-R112) -/

/-- A turn-on behind an edge: made, dropped with PULSE_DROP or without. -/
theorem State.pulseOn_cases (s : State) (d k j t : Nat) (high : Bool) : s.pulseOn d k j t high = s.turnOn d j high ∨
    s.pulseOn d k j t high = s ∨ s.pulseOn d k j t high = s.setB (PWM.STAT_PULSE_DROP d k) true := by
  unfold State.pulseOn
  split
  · exact .inl rfl
  · exact .inr (.inl rfl)
  · split
    · exact .inr (.inr rfl)
    · exact .inl rfl

/-- R112: a pulse of 2 ticks or more is made. -/
theorem State.pulseOn_made (s : State) (d k j t : Nat) (high : Bool) (h : ∀ n, s.edgeWidth d k j t high = some n → 128 ≤ n) :
    s.pulseOn d k j t high = s.turnOn d j high := by
  unfold State.pulseOn
  split
  next => rfl
  next hw => exact absurd (h 0 hw) (by decide)
  next w _ hw => exact if_neg (Nat.not_lt.2 (h w hw))

/-- R112: a shorter one is dropped. -/
theorem State.pulseOn_dropped (s : State) (d k j t n : Nat) (high : Bool) (hw : s.edgeWidth d k j t high = some n) (h0 : 0 < n) (h : n < 128) :
    s.pulseOn d k j t high = s.setB (PWM.STAT_PULSE_DROP d k) true := by
  obtain ⟨m, rfl⟩ := Nat.exists_eq_succ_of_ne_zero (Nat.pos_iff_ne_zero.1 h0)
  unfold State.pulseOn
  rw [hw]
  exact if_pos h

section
variable {β : Type} (p : Port → β)

theorem State.pulseOn_proj (s : State) (d k j t : Nat) (high : Bool) (hon : ∀ x c, p (Port.turnedOn x high c) = p x) :
    p ((s.pulseOn d k j t high).port d j) = p (s.port d j) := by
  obtain h | h | h := s.pulseOn_cases d k j t high
  · rw [h, State.turnOn_proj p _ _ _ _ hon]
  · rw [h]
  · rw [h, State.port_of_ports (State.setB_ports _ _ _)]

theorem State.planTurnOn_proj (s : State) (d k j t dt : Nat) (high : Bool) (hon : ∀ x c, p (Port.turnedOn x high c) = p x)
    (hpend : ∀ (x : Port) w, p { x with pendOn := w } = p x) : p ((s.planTurnOn d k j t dt high).port d j) = p (s.port d j) := by
  unfold State.planTurnOn
  split
  · rfl
  · split
    · exact s.pulseOn_proj p d k j t high hon
    · exact s.modPort_proj p _ _ _ _ fun x => hpend x _

theorem State.dropPlanned_proj (s : State) (d k j t : Nat) (hpend : ∀ (x : Port) w, p { x with pendOn := w } = p x) :
    p ((s.dropPlanned d k j t).port d j) = p (s.port d j) := by
  unfold State.dropPlanned
  extract_lets s1
  have h1 : s1.ports = s.ports := by
    unfold s1
    split
    · rw [apply_ite State.ports, State.setB_ports, ite_self]
    · rfl
  rw [s1.modPort_proj p _ _ _ _ fun x => hpend x _, State.port_of_ports h1]

end

theorem State.dropPlanned_drives (s : State) (d k j t : Nat) : (s.dropPlanned d k j t).drives = s.drives := by
  unfold State.dropPlanned
  extract_lets s1
  refine (State.modPort_drives _ _ _ _).trans ?_
  unfold s1
  split
  · rw [apply_ite State.drives, State.setB_drives, ite_self]
  · rfl

/-! ### The outputs at a command edge (R109, R618) -/

/-- The registers that the outputs at a command edge may write: those of the outputs and PULSE_DROP. -/
def edgeRegs (d k : Nat) : List Nat := PWM.STAT d k :: outRegs d

theorem notMem_edgeRegs_iff {d k a : Nat} : a ∉ edgeRegs d k ↔ a ≠ PWM.STAT d k ∧ a ∉ outRegs d := by
  rw [edgeRegs, List.mem_cons, not_or]

theorem State.pulseOn_cell (s : State) (d k j t a : Nat) (high : Bool) (h : a ∉ edgeRegs d k) : (s.pulseOn d k j t high).cell a = s.cell a := by
  obtain ⟨hstat, hout⟩ := notMem_edgeRegs_iff.1 h
  obtain h | h | h := s.pulseOn_cases d k j t high
  · rw [h, State.turnOn_cell _ _ _ _ _ hout]
  · rw [h]
  · rw [h, State.cell_setB_ne _ _ _ _ hstat]

theorem State.planTurnOn_cell (s : State) (d k j t dt a : Nat) (high : Bool) (h : a ∉ edgeRegs d k) :
    (s.planTurnOn d k j t dt high).cell a = s.cell a := by
  unfold State.planTurnOn
  split
  · rfl
  · split
    · exact s.pulseOn_cell d k j t a high h
    · exact State.modPort_cell _ _ _ _ _

theorem State.dropPlanned_cell (s : State) (d k j t a : Nat) (h : a ∉ edgeRegs d k) : (s.dropPlanned d k j t).cell a = s.cell a := by
  obtain ⟨hstat, _⟩ := notMem_edgeRegs_iff.1 h
  unfold State.dropPlanned
  extract_lets s1
  refine (State.modPort_cell _ _ _ _ _).trans ?_
  unfold s1
  split
  · rw [apply_ite (fun u : State => u.cell a), State.cell_setB_ne _ _ _ _ hstat, ite_self]
  · rfl

/-- What follows the planned turn-on that an edge drops: each output goes off, waits for its dead time, or stays. -/
theorem State.edgeOutputs_cases (s : State) (d k j t : Nat) (rise : Bool) : ∃ (u : State) (high : Bool),
    u = (s.dropPlanned d k j t).turnOff d j high ∧ (s.edgeOutputs d k j t rise = u.turnOff d j false ∨
      ∃ dt, s.edgeOutputs d k j t rise = u.planTurnOn d k j t dt (!high)) := by
  unfold State.edgeOutputs
  extract_lets dtr dtf s1
  split
  · exact ⟨_, false, rfl, .inr ⟨dtr, rfl⟩⟩
  · exact ⟨_, true, rfl, .inr ⟨dtf, rfl⟩⟩
  · exact ⟨_, false, rfl, .inr ⟨dtr, rfl⟩⟩
  · exact ⟨_, true, rfl, .inl rfl⟩
  · exact ⟨_, true, rfl, .inl rfl⟩
  · exact ⟨_, true, rfl, .inr ⟨dtf, rfl⟩⟩
  · exact ⟨_, true, rfl, .inl rfl⟩

/-- R109: complementary outputs at a rise: the low side goes off, the high side follows behind the dead time. -/
theorem State.edgeOutputs_rise (s : State) (d k j t : Nat) (h : (s.port d j).mode = 1) : ∃ dt,
    s.edgeOutputs d k j t true = ((s.dropPlanned d k j t).turnOff d j false).planTurnOn d k j t dt true := by
  have hmode : ((s.dropPlanned d k j t).port d j).mode = 1 := (s.dropPlanned_proj Port.mode d k j t fun _ _ => rfl).trans h
  unfold State.edgeOutputs
  dsimp only
  rw [hmode]
  exact ⟨_, rfl⟩

theorem State.edgeOutputs_cell (s : State) (d k j t a : Nat) (rise : Bool) (h : a ∉ edgeRegs d k) :
    (s.edgeOutputs d k j t rise).cell a = s.cell a := by
  obtain ⟨_, hout⟩ := notMem_edgeRegs_iff.1 h
  obtain ⟨u, high, rfl, he⟩ := s.edgeOutputs_cases d k j t rise
  obtain he | ⟨dt, he⟩ := he
  · rw [he, State.turnOff_cell _ _ _ _ _ hout, State.turnOff_cell _ _ _ _ _ hout, State.dropPlanned_cell _ _ _ _ _ _ h]
  · rw [he, State.planTurnOn_cell _ _ _ _ _ _ _ _ h, State.turnOff_cell _ _ _ _ _ hout, State.dropPlanned_cell _ _ _ _ _ _ h]

/-- The command of a port: its level, and the tap from which its next edge is looked for. -/
def Port.command (p : Port) : Option Bool × Nat := (p.level, p.edgeTap)

theorem State.turnOff_command (s : State) (d j : Nat) (high : Bool) : ((s.turnOff d j high).port d j).command = (s.port d j).command :=
  s.turnOff_proj Port.command d j high (fun _ => by cases high <;> rfl) fun _ => rfl

/-- The outputs leave the command. -/
theorem State.edgeOutputs_command (s : State) (d k j t : Nat) (rise : Bool) :
    ((s.edgeOutputs d k j t rise).port d j).command = (s.port d j).command := by
  have hdrop := s.dropPlanned_proj Port.command d k j t fun _ _ => rfl
  obtain ⟨u, high, rfl, he⟩ := s.edgeOutputs_cases d k j t rise
  obtain he | ⟨dt, he⟩ := he
  · rw [he, State.turnOff_command, State.turnOff_command, hdrop]
  · rw [he, State.planTurnOn_proj Port.command _ _ _ _ _ _ _ (fun _ _ => rfl) (fun _ _ => rfl), State.turnOff_command, hdrop]

/-! ### A command edge (R107, R108, R111) -/

theorem State.placeEdge_eq (s : State) (d j fine : Nat) : ∃ e late, s.placeEdge d j fine =
    s.modPort d j (fun p => { p with elem := e, late := late }) := by
  unfold State.placeEdge
  split
  · exact ⟨_, _, rfl⟩
  · exact ⟨_, _, rfl⟩

/-- The clear that an edge of modes 1-3 attempts (R162). -/
def State.edgeClear (s : State) (d j : Nat) : State :=
  if decide (s.get (TRIP.TGCTL_TG_MODE d (s.tgOf d j)) ≠ 0) then s.clearAttempt d (s.tgOf d j) else s

theorem State.clearAttempt_untripped (s : State) (d k : Nat) (h : s.flag (TRIP.TGSTAT_TRIPPED d k) = false) : s.clearAttempt d k = s := by
  unfold State.clearAttempt
  rw [h]
  exact if_pos rfl

/-- The command edge itself: the new level, behind the clear. -/
def State.edgeTaken (s : State) (d j t : Nat) (rise : Bool) : State :=
  ((s.edgeClear d j).modPort d j (fun p => { p with level := some rise, edgeTap := t + 1 })).placeEdge d j (t % 64)

/-- A port that the edge frees from its safe state follows the generator, under PMODE as written (R618). -/
def State.edgeFreed (s : State) (d j : Nat) : State :=
  s.modPort d j (fun p => { p with safe := .none, held := false, ascWait := none, mode := s.get (PORT.PMODE_PMODE d j) })

theorem State.edgeFreed_command (s : State) (d j : Nat) : ((s.edgeFreed d j).port d j).command = (s.port d j).command :=
  s.modPort_proj Port.command _ _ _ _ fun _ => rfl

/-- Something else than the generator drives the port (R121, R150, R169, R176). -/
def State.overridden (s : State) (d j tg : Nat) : Bool :=
  s.chopperRole d j || s.flag (TRIP.TGSTAT_TRIPPED d tg) || s.stoBranch d || decide ((s.port d j).refresh ≠ 0)

theorem State.commandEdge_eq (s : State) (d j k t : Nat) (rise : Bool) (hk : s.groupOf d j = some k) (hd : s.dieRuns d = true)
    (he : s.edgeDue d k j = some (t, rise)) : s.commandEdge d j =
      if (s.edgeTaken d j t rise).overridden d j (s.tgOf d j) then s.edgeTaken d j t rise
      else ((((s.edgeTaken d j t rise).edgeFreed d j).edgeOutputs d k j t rise).refreshAsc d (s.tgOf d j)).refreshTrips d := by
  unfold State.commandEdge
  rw [hk]
  dsimp only
  rw [hd, if_pos rfl, he]
  rfl

theorem members_notMem_edgeRegs (d : Nat) {k : Nat} (_hk : k < 4) : TRIP.MEMBERS d ∉ edgeRegs d k := by
  refine notMem_edgeRegs_iff.2 ⟨?_, fun h => (members_notMem d).1 (List.mem_append_right _ h)⟩
  simp only [TRIP.MEMBERS, PWM.STAT]
  omega

theorem tgstat_notMem_edgeRegs (d q : Nat) {k : Nat} (_hk : k < 4) : TRIP.TGSTAT d q ∉ edgeRegs d k := by
  refine notMem_edgeRegs_iff.2 ⟨?_, (tgstat_notMem_outRegs d q).2⟩
  simp only [TRIP.TGSTAT, PWM.STAT]
  omega

theorem State.tgOf_lt (s : State) (d j : Nat) : s.tgOf d j < 2 := by
  unfold State.tgOf
  split <;> decide

theorem State.clearAttempt_cell (s : State) (d k a : Nat) (hs : a ≠ TRIP.TGSTAT d k) (hg : a ∉ gridRegs d) :
    (s.clearAttempt d k).cell a = s.cell a := by
  unfold State.clearAttempt
  split
  · rfl
  · split
    · exact State.cell_setB_ne _ _ _ _ hs
    · rw [State.refreshGrid_cell _ _ _ hg, foldOver_cell, State.cell_setB_ne _ _ _ _ hs]
      intro j _ t
      split <;> exact State.modPort_cell _ _ _ _ _

theorem State.edgeTaken_cell (s : State) (d j t a : Nat) (rise : Bool) : (s.edgeTaken d j t rise).cell a = (s.edgeClear d j).cell a := by
  unfold State.edgeTaken
  obtain ⟨e, late, h⟩ := ((s.edgeClear d j).modPort d j (fun p => { p with level := some rise, edgeTap := t + 1 })).placeEdge_eq d j (t % 64)
  rw [h, State.modPort_cell, State.modPort_cell]

theorem State.edgeTaken_drives (s : State) (d j t : Nat) (rise : Bool) : (s.edgeTaken d j t rise).drives = (s.edgeClear d j).drives := by
  unfold State.edgeTaken
  obtain ⟨e, late, h⟩ := ((s.edgeClear d j).modPort d j (fun p => { p with level := some rise, edgeTap := t + 1 })).placeEdge_eq d j (t % 64)
  rw [h, State.modPort_drives, State.modPort_drives]

theorem State.edgeTaken_tgOf (s : State) (d j t : Nat) (rise : Bool) : (s.edgeTaken d j t rise).tgOf d j = s.tgOf d j := by
  have hne : TRIP.MEMBERS d ≠ TRIP.TGSTAT d (s.tgOf d j) := by
    have := s.tgOf_lt d j
    simp only [TRIP.MEMBERS, TRIP.TGSTAT]
    omega
  refine State.tgOf_of_cell ((s.edgeTaken_cell d j t _ rise).trans ?_) j
  unfold State.edgeClear
  rw [apply_ite (fun u : State => u.cell (TRIP.MEMBERS d)), State.clearAttempt_cell _ _ _ _ hne (members_notMem d).2, ite_self]

/-- A port, once the edge is made. -/
theorem State.edgeTaken_port (s : State) (d : Fin 4) (j : Fin 7) (t : Nat) (rise : Bool) : ∃ e late, (s.edgeTaken d j t rise).port d j =
    { (s.edgeClear d j).port d j with level := some rise, edgeTap := t + 1, elem := e, late := late } := by
  unfold State.edgeTaken
  obtain ⟨e, late, h⟩ := ((s.edgeClear d j).modPort d j (fun p => { p with level := some rise, edgeTap := t + 1 })).placeEdge_eq d j (t % 64)
  refine ⟨e, late, ?_⟩
  rw [h, State.port_modPort_self _ _ _ _ (by omega), State.port_modPort_self _ _ _ _ (by omega)]

theorem State.groupOf_lt {s : State} {d j k : Nat} (h : s.groupOf d j = some k) : k < 4 := List.mem_range.1 (List.mem_of_find?_eq_some h)

/-- Where the generator drives the port, the trip groups leave it after the edge. -/
theorem State.commandEdge_port (s : State) (d : Fin 4) (j : Fin 7) {k t : Nat} {rise : Bool} (hk : s.groupOf d j = some k)
    (hd : s.dieRuns d = true) (he : s.edgeDue d k j = some (t, rise)) : (s.commandEdge d j).port d j =
      if (s.edgeTaken d j t rise).overridden d j (s.tgOf d j) then (s.edgeTaken d j t rise).port d j
      else (((s.edgeTaken d j t rise).edgeFreed d j).edgeOutputs d k j t rise).port d j := by
  have hk4 : k < 4 := State.groupOf_lt hk
  rw [s.commandEdge_eq d j k t rise hk hd he]
  split
  case isTrue => rfl
  case isFalse hfree =>
    have htrip : (s.edgeTaken d j t rise).flag (TRIP.TGSTAT_TRIPPED d (s.tgOf d j)) = false := by
      simp only [State.overridden, Bool.or_eq_true, not_or] at hfree
      exact eq_false_of_ne_true hfree.1.1.2
    have htg : ∀ u : State, (u.refreshAsc d (s.tgOf d j)).tgOf d j = u.tgOf d j := fun u => by
      refine State.tgOf_of_cell (State.refreshAsc_cell u d _ _ (s.tgOf_lt d j) (members_notMem d).1) j
    have hout : (((s.edgeTaken d j t rise).edgeFreed d j).edgeOutputs d k j t rise).tgOf d j = s.tgOf d j :=
      (State.tgOf_of_cell ((State.edgeOutputs_cell _ _ _ _ _ _ _ (members_notMem_edgeRegs d hk4)).trans (State.modPort_cell _ _ _ _ _)) j).trans
        (s.edgeTaken_tgOf d j t rise)
    refine (State.refreshTrips_port _ _ _ ?_).trans (State.port_of_ports (State.setB_ports _ _ _) _ _)
    rw [htg, hout]
    calc
      _ = State.flag _ _ := State.flag_of_get (State.get_setB_apart _ _ rfl)
      _ = State.flag _ _ := State.flag_of_cell (State.edgeOutputs_cell _ _ _ _ _ _ _ (tgstat_notMem_edgeRegs d _ hk4))
      _ = (s.edgeTaken d j t rise).flag (TRIP.TGSTAT_TRIPPED d (s.tgOf d j)) := State.flag_of_cell (State.modPort_cell _ _ _ _ _)
      _ = false := htrip

/-- R107, R108, R111: the command takes the level of the edge that is due. -/
theorem commandEdge_level (d : Fin 4) (j : Fin 7) (k tap : Nat) (rise : Bool) (s : State) (hk : s.groupOf d j = some k)
    (hd : s.dieRuns d = true) (he : s.edgeDue d k j = some (tap, rise)) (hr : s.mainRuns = true) :
    Completes (exec (.commandEdge d j) s) (fun t => (t.port d j).level = some rise ∧ (t.port d j).edgeTap = tap + 1) := by
  have htaken : ((s.edgeTaken d j tap rise).port d j).command = (some rise, tap + 1) := by
    obtain ⟨e, late, h⟩ := s.edgeTaken_port d j tap rise
    rw [h]
    rfl
  have hcommand : ((s.commandEdge d j).port d j).command = (some rise, tap + 1) := by
    rw [s.commandEdge_port d j hk hd he, apply_ite Port.command, State.edgeOutputs_command, State.edgeFreed_command, ite_self, htaken]
  exact completes_whileRuns hr (completes_next ⟨congrArg Prod.fst hcommand, congrArg Prod.snd hcommand⟩)

/-- What a rise under PMODE 1 leaves of a port beside its high side: the level, the low side, the safe state. -/
def Port.lowShown (p : Port) : Option Bool × Bool × PortSafe := (p.level, p.gl, p.safe)

theorem Port.turnedOn_lowShown (p : Port) (c : Nat) : (p.turnedOn true c).lowShown = p.lowShown :=
  congrArg (fun b => (p.level, b, p.safe)) (Bool.or_false p.gl)

/-- The level and the safe state of a port, which its turn-offs leave. -/
def Port.levelSafe (p : Port) : Option Bool × PortSafe := (p.level, p.safe)

theorem Port.lowShown_of {p : Port} {l : Option Bool} {x : PortSafe} (h : p.levelSafe = (l, x)) (hoff : p.on false = false) :
    p.lowShown = (l, false, x) := by
  rw [← hoff]
  exact congrArg (fun y => (y.1, p.gl, y.2)) h

/-- R109: the outputs at a rise of complementary outputs: the low side is off, level and safe state are left. -/
theorem State.edgeOutputs_rise_lowShown (s : State) (d : Fin 4) (j : Fin 7) (k t : Nat) (hmode : (s.port d j).mode = 1)
    (hd : s.dieRuns d = true) :
    ((s.edgeOutputs d k j t true).port d j).lowShown = ((s.port d j).level, false, (s.port d j).safe) := by
  obtain ⟨dt, h⟩ := s.edgeOutputs_rise d k j t hmode
  have hd' : (s.dropPlanned d k j t).dieRuns d = true := by
    unfold State.dieRuns
    rw [State.dropPlanned_drives]
    exact hd
  have hoff := (s.dropPlanned d k j t).turnOff_off d j false (by omega) hd'
  have hkept : (((s.dropPlanned d k j t).turnOff d j false).port d j).levelSafe = (s.port d j).levelSafe :=
    (State.turnOff_proj Port.levelSafe _ _ _ _ (fun _ => rfl) fun _ => rfl).trans
      (s.dropPlanned_proj Port.levelSafe d k j t fun _ _ => rfl)
  rw [h, State.planTurnOn_proj Port.lowShown _ _ _ _ _ _ _ Port.turnedOn_lowShown fun _ _ => rfl]
  exact Port.lowShown_of hkept hoff

/-- R109, R618: a rise of a port that nothing overrides turns its low side off, under PMODE as written. -/
theorem commandEdge_rise (d : Fin 4) (j : Fin 7) (k tap : Nat) (s : State) (hk : s.groupOf d j = some k) (hd : s.dieRuns d = true)
    (he : s.edgeDue d k j = some (tap, true)) (hmode : s.get (PORT.PMODE_PMODE d j) = 1)
    (htrip : s.flag (TRIP.TGSTAT_TRIPPED d (s.tgOf d j)) = false) (hsto : s.stoBranch d = false) (hchop : s.chopperRole d j = false)
    (href : (s.port d j).refresh = 0) (hr : s.mainRuns = true) :
    Completes (exec (.commandEdge d j) s) (fun t => (t.port d j).level = some true ∧ (t.port d j).gl = false ∧ (t.port d j).safe = .none) := by
  have hclear : s.edgeClear d j = s := by
    unfold State.edgeClear
    rw [s.clearAttempt_untripped _ _ htrip, ite_self]
  obtain ⟨e, late, htaken⟩ := s.edgeTaken_port d j tap true
  have hcell : ∀ a, (s.edgeTaken d j tap true).cell a = s.cell a := fun a => (s.edgeTaken_cell d j tap a true).trans (by rw [hclear])
  have hfree : (s.edgeTaken d j tap true).overridden d j (s.tgOf d j) = false := by
    have hchop' : (s.edgeTaken d j tap true).chopperRole d j = s.chopperRole d j :=
      congrArg (fun b => decide ((j : Nat) < 6) && b) (State.flag_of_cell (f := PORT.PCFG_CHOP_EN d j) (hcell _))
    unfold State.overridden
    rw [hchop', hchop, State.flag_of_cell (hcell _), htrip, State.stoBranch_of_cell (hcell _), hsto, htaken, hclear, href]
    rfl
  have hport : ((s.edgeTaken d j tap true).edgeFreed d j).port d j =
      { (s.edgeTaken d j tap true).port d j with
        safe := .none, held := false, ascWait := none, mode := (s.edgeTaken d j tap true).get (PORT.PMODE_PMODE d j) } :=
    State.port_modPort_self _ _ _ _ (by omega)
  have hmode' : ((s.edgeTaken d j tap true).get (PORT.PMODE_PMODE d j)) = 1 := (State.get_of_cell (hcell _)).trans hmode
  have hruns : ((s.edgeTaken d j tap true).edgeFreed d j).dieRuns d = true := by
    unfold State.dieRuns State.edgeFreed
    rw [State.modPort_drives, State.edgeTaken_drives, hclear]
    exact hd
  have hshown : ((s.commandEdge d j).port d j).lowShown = (some true, false, PortSafe.none) := by
    rw [s.commandEdge_port d j hk hd he, if_neg (by rw [hfree]; decide),
      State.edgeOutputs_rise_lowShown _ d j k tap (by rw [hport]; exact hmode') hruns, hport, htaken]
  exact completes_whileRuns hr (completes_next ⟨congrArg Prod.fst hshown, congrArg (fun x => x.2.1) hshown, congrArg (fun x => x.2.2) hshown⟩)

end Sys2Proof.Machine
end

section
/-! SUPPORT and the obligation on periods and edges of the PWM groups (O11): the end of a dead time, PMODE and the delay monitor. -/

namespace Sys2Proof.Machine

/-! ### The end of a dead time (R109, R110, R112) -/

/-- The dead time of a port ends: no turn-on waits any more, and the edge's fine part is placed. -/
def State.delayEnded (s : State) (d j fine : Nat) : State := (s.modPort d j (fun p => { p with pendOn := none })).placeEdge d j fine

/-- The end of a dead time changes that port alone, in its waiting turn-on and the place of the edge. -/
theorem State.delayEnded_eq (s : State) (d : Fin 4) (j : Fin 7) (fine : Nat) : ∃ v e late, s.delayEnded d j fine = { s with ports := v } ∧
    (s.delayEnded d j fine).port d j = { s.port d j with pendOn := none, elem := e, late := late } := by
  unfold State.delayEnded
  obtain ⟨e, late, h⟩ := (s.modPort d j (fun p => { p with pendOn := none })).placeEdge_eq d j fine
  refine ⟨_, e, late, h, ?_⟩
  rw [h, State.port_modPort_self _ _ _ _ (by omega), State.port_modPort_self _ _ _ _ (by omega)]

/-- The width of a pulse (R112) rests on the late fall of the port, and on nothing else of the ports. -/
theorem State.edgeWidth_of_ports {s t : State} {d j : Nat} (v : Vector Port 28) (ht : t = { s with ports := v })
    (hfall : (t.port d j).lateFall = (s.port d j).lateFall) (k x : Nat) (high : Bool) : t.edgeWidth d k j x high = s.edgeWidth d k j x high := by
  have hby : ∀ duty u, t.commandBy d k j duty u = s.commandBy d k j duty u := fun duty u => by
    unfold State.commandBy
    rw [hfall, ht]
    rfl
  have htaps : ∀ duty, t.edgeTaps d k j duty = s.edgeTaps d k j duty := fun duty => by
    unfold State.edgeTaps
    rw [hfall, ht]
    rfl
  unfold State.edgeWidth
  simp only [hby, htaps]
  rw [ht]
  rfl

/-- The turn-on `w` that is due, unless something else drives the port meanwhile. -/
def State.dueTurnOn (s : State) (d j : Nat) (w : TurnOn) : State :=
  if !s.follows d j || s.chopperRole d j then s
  else if w.high && decide (j = 6) && s.flag (APB.APSTAT_AP_BOOT_UV d) then s
  else match s.groupOf d j with
    | some k => (s.pulseOn d k j (64 * s.carrierPos d k + w.fine) w.high).refreshTrips d
    | none => s

theorem State.deadTimeEnd_due (s : State) (d j : Nat) (w : TurnOn) (hw : (s.port d j).pendOn = some w) (h0 : w.ticks = 0)
    (hd : s.dieRuns d = true) : s.deadTimeEnd d j = (s.delayEnded d j w.fine).dueTurnOn d j w := by
  unfold State.deadTimeEnd
  rw [hw]
  dsimp only
  rw [if_neg (by rw [hd, h0]; decide)]
  rfl

theorem State.dueTurnOn_free (s : State) (d j k : Nat) (w : TurnOn) (hf : s.follows d j = true) (hchop : s.chopperRole d j = false)
    (hboot : s.flag (APB.APSTAT_AP_BOOT_UV d) = false ∨ j ≠ 6) (hk : s.groupOf d j = some k) :
    s.dueTurnOn d j w = (s.pulseOn d k j (64 * s.carrierPos d k + w.fine) w.high).refreshTrips d := by
  have hboot' : ¬ (w.high && decide (j = 6) && s.flag (APB.APSTAT_AP_BOOT_UV d)) = true := by
    rw [Bool.and_eq_true, Bool.and_eq_true, decide_eq_true_eq]
    rintro ⟨⟨_, rfl⟩, hb⟩
    obtain hb' | hj := hboot
    · exact absurd (hb'.symm.trans hb) (by decide)
    · exact hj rfl
  unfold State.dueTurnOn
  rw [if_neg (by rw [hf, hchop]; decide), if_neg hboot', hk]

/-- The end of a dead time of a port that follows the generator: its turn-on, if its pulse is wide enough. -/
theorem State.deadTimeEnd_eq (s : State) (d : Fin 4) (j : Fin 7) (k : Nat) (w : TurnOn) (hw : (s.port d j).pendOn = some w) (h0 : w.ticks = 0)
    (hd : s.dieRuns d = true) (hf : s.follows d j = true) (hk : s.groupOf d j = some k) (hchop : s.chopperRole d j = false)
    (hboot : s.flag (APB.APSTAT_AP_BOOT_UV d) = false ∨ j ≠ 6) : s.deadTimeEnd d j =
      ((s.delayEnded d j w.fine).pulseOn d k j (64 * s.carrierPos d k + w.fine) w.high).refreshTrips d := by
  obtain ⟨v, _, _, h, hport⟩ := s.delayEnded_eq d j w.fine
  have hfollows : (s.delayEnded d j w.fine).follows d j = true := by
    unfold State.follows
    rw [hport]
    exact hf
  rw [s.deadTimeEnd_due d j w hw h0 hd]
  rw [h] at hfollows ⊢
  exact State.dueTurnOn_free _ d j k w hfollows hchop (hboot.imp_right fun hj hj' => hj (Fin.ext hj')) hk

/-- The turn-on behind a dead time, with the trip groups brought up to date: they leave the port, whose group is not tripped. -/
theorem State.pulseOn_refreshTrips_port (s : State) (d : Fin 4) (j t : Nat) {k : Nat} (hk : k < 4) (high : Bool)
    (htrip : s.flag (TRIP.TGSTAT_TRIPPED d (s.tgOf d j)) = false) :
    ((s.pulseOn d k j t high).refreshTrips d).port d j = (s.pulseOn d k j t high).port d j := by
  refine State.refreshTrips_port _ _ _ ?_
  rw [State.tgOf_of_cell (s.pulseOn_cell d k j t _ high (members_notMem_edgeRegs d hk)) j,
    State.flag_of_cell (s.pulseOn_cell d k j t _ high (tgstat_notMem_edgeRegs d _ hk)), htrip]

/-- What the turn-on looks at besides its port: the end of the dead time leaves it. -/
theorem State.delayEnded_holds (s : State) (d : Fin 4) (j : Fin 7) (k x fine : Nat) (high : Bool) :
    (s.delayEnded d j fine).edgeWidth d k j x high = s.edgeWidth d k j x high ∧
      (s.delayEnded d j fine).flag (TRIP.TGSTAT_TRIPPED d ((s.delayEnded d j fine).tgOf d j)) = s.flag (TRIP.TGSTAT_TRIPPED d (s.tgOf d j)) ∧
      (s.delayEnded d j fine).dieRuns d = s.dieRuns d ∧ (s.delayEnded d j fine).stoBranch d = s.stoBranch d := by
  obtain ⟨v, _, _, h, hport⟩ := s.delayEnded_eq d j fine
  have hfall : ((s.delayEnded d j fine).port d j).lateFall = (s.port d j).lateFall := by rw [hport]
  refine ⟨State.edgeWidth_of_ports v h hfall k x high, ?_⟩
  rw [h]
  exact ⟨rfl, rfl, rfl⟩

/-- R109, R110: the output goes on where its pulse is 2 ticks or more. -/
theorem deadTimeEnd_turnsOn (d : Fin 4) (j : Fin 7) (k : Nat) (w : TurnOn) (s : State) (hw : (s.port d j).pendOn = some w) (h0 : w.ticks = 0)
    (hd : s.dieRuns d = true) (hf : s.follows d j = true) (hk : s.groupOf d j = some k)
    (hwidth : (match s.edgeWidth d k j (64 * s.carrierPos d k + w.fine) w.high with | some n => decide (128 ≤ n) | none => true) = true)
    (hchop : s.chopperRole d j = false) (hblocked : (s.port d j).blocked = false) (hsto : s.stoBranch d = false)
    (htrip : s.flag (TRIP.TGSTAT_TRIPPED d (s.tgOf d j)) = false) (hboot : s.flag (APB.APSTAT_AP_BOOT_UV d) = false ∨ j ≠ 6)
    (hr : s.mainRuns = true) : Completes (exec (.deadTimeEnd d j) s)
      (fun t => (t.port d j).pendOn = none ∧ (if w.high then (t.port d j).gh else (t.port d j).gl) = true) := by
  obtain ⟨_, _, _, _, hport⟩ := s.delayEnded_eq d j w.fine
  obtain ⟨hwidth', htrip', hd', hsto'⟩ := s.delayEnded_holds d j k (64 * s.carrierPos d k + w.fine) w.fine w.high
  have hmade := (s.delayEnded d j w.fine).pulseOn_made d k j (64 * s.carrierPos d k + w.fine) w.high (fun n hn => by
    rw [hwidth'] at hn
    rw [hn] at hwidth
    exact of_decide_eq_true hwidth)
  have hon := (s.delayEnded d j w.fine).turnOn_on d j w.high (by omega) (hd'.trans hd) (by rw [hport]; exact hblocked) (hsto'.trans hsto)
  have hpend := (s.delayEnded d j w.fine).turnOn_proj Port.pendOn d j w.high (fun _ _ => rfl)
  refine completes_whileRuns hr (completes_next ?_)
  rw [s.deadTimeEnd_eq d j k w hw h0 hd hf hk hchop hboot,
    State.pulseOn_refreshTrips_port _ d j _ (State.groupOf_lt hk) _ (htrip'.trans htrip), hmade]
  exact ⟨hpend.trans (by rw [hport]), hon⟩

/-- R112: a pulse below 2 ticks is dropped, and PULSE_DROP shows it. -/
theorem deadTimeEnd_drops (d : Fin 4) (j : Fin 7) (k n : Nat) (w : TurnOn) (s : State) (hw : (s.port d j).pendOn = some w) (h0 : w.ticks = 0)
    (hd : s.dieRuns d = true) (hf : s.follows d j = true) (hk : s.groupOf d j = some k)
    (hwidth : s.edgeWidth d k j (64 * s.carrierPos d k + w.fine) w.high = some n) (hpos : 0 < n) (hshort : n < 128)
    (hchop : s.chopperRole d j = false) (htrip : s.flag (TRIP.TGSTAT_TRIPPED d (s.tgOf d j)) = false)
    (hboot : s.flag (APB.APSTAT_AP_BOOT_UV d) = false ∨ j ≠ 6) (hr : s.mainRuns = true) : Completes (exec (.deadTimeEnd d j) s)
      (fun t => (t.port d j).pendOn = none ∧ (t.port d j).gh = (s.port d j).gh ∧ (t.port d j).gl = (s.port d j).gl ∧
        t.flag (PWM.STAT_PULSE_DROP d k) = true) := by
  obtain ⟨_, e, late, _, hport⟩ := s.delayEnded_eq d j w.fine
  obtain ⟨hwidth', htrip', _⟩ := s.delayEnded_holds d j k (64 * s.carrierPos d k + w.fine) w.fine w.high
  have hk4 : k < 4 := State.groupOf_lt hk
  have hdropped := (s.delayEnded d j w.fine).pulseOn_dropped d k j _ n w.high (hwidth'.trans hwidth) hpos hshort
  have hshown : ((s.deadTimeEnd d j).flag (PWM.STAT_PULSE_DROP d k)) = true := by
    rw [s.deadTimeEnd_eq d j k w hw h0 hd hf hk hchop hboot, hdropped,
      State.flag_of_cell (State.refreshTrips_cell _ _ _ fun hm => tripRegs_notPwm hm (pwmReg_stat d hk4))]
    exact State.flag_setB_self _ _ _ (of_decide_eq_true rfl) Nat.one_pos
  have hkept : (s.deadTimeEnd d j).port d j = { s.port d j with pendOn := none, elem := e, late := late } := by
    rw [s.deadTimeEnd_eq d j k w hw h0 hd hf hk hchop hboot, State.pulseOn_refreshTrips_port _ d j _ hk4 _ (htrip'.trans htrip), hdropped,
      State.port_of_ports (State.setB_ports _ _ _), hport]
  refine completes_whileRuns hr (completes_next ?_)
  rw [hkept]
  exact ⟨rfl, rfl, rfl, hshown⟩

/-! ### PMODE (R618) and the delay monitor (R115) -/

theorem pmode_notMem_tripRegs (d : Fin 4) (j : Fin 7) : PORT.PMODE d j ≠ APB.APSTAT d ∧ PORT.PMODE d j ∉ tripRegs d := by
  simp only [tripRegs, outRegs, List.mem_append, List.mem_cons, List.mem_map, List.mem_range, List.not_mem_nil, TRIP.SRCACT,
    TRIP.TGSTAT, APB.APSTAT, CYC.RFSTAT, PORT.CHOP_STAT, PORT.PMODE, not_or, not_exists, not_and]
  refine ⟨by omega, ⟨by omega, by omega, by omega, by omega, by omega, id⟩, by omega, fun i _ => by omega⟩

/-- What a write of PMODE does besides leaves PMODE as written. -/
theorem State.pmodeApply_cell (s : State) (d : Fin 4) (j : Fin 7) (w : Word) :
    (s.pmodeApply d j w).cell (PORT.PMODE d j) = (s.setReg (PORT.PMODE d j) w).cell (PORT.PMODE d j) := by
  obtain ⟨hap, htrip⟩ := pmode_notMem_tripRegs d j
  have hout : PORT.PMODE d j ∉ outRegs d := fun h => htrip (List.mem_append_right _ h)
  unfold State.pmodeApply
  extract_lets was s1 now off s2
  have hoff : off.cell (PORT.PMODE d j) = s1.cell (PORT.PMODE d j) := by
    refine (State.modPort_cell _ _ _ _ _).trans ((State.modPort_cell _ _ _ _ _).trans ?_)
    rw [State.turnOffIn_cell _ _ _ _ _ _ hout, State.turnOffIn_cell _ _ _ _ _ _ hout]
  refine (State.refreshTrips_cell _ _ _ htrip).trans ?_
  unfold s2
  split
  case isFalse => rfl
  case isTrue =>
    split
    · exact (State.cell_setB_ne _ _ _ _ hap).trans hoff
    · exact hoff

/-- R618: PMODE reads as written. -/
theorem pmodeWrite_written (d : Fin 4) (j : Fin 7) (m : Fin 4) (s : State) (hr : s.mainRuns = true) :
    Completes (exec (.pmodeWrite d j m) s) (fun t => t.get (PORT.PMODE_PMODE d j) = m.val) := by
  refine completes_whileRuns hr (completes_next ?_)
  calc
    _ = (s.setReg (PORT.PMODE d j) (putBits (s.reg (PORT.PMODE d j)) 0 2 m)).get (PORT.PMODE_PMODE d j) :=
      State.get_of_cell (s.pmodeApply_cell d j _)
    _ = m.val % 2 ^ 2 := State.get_set_self s (PORT.PMODE_PMODE d j) m (of_decide_eq_true rfl)
    _ = m.val := Nat.mod_eq_of_lt m.isLt

/-- R115: DLY_MON holds the reading, whatever the comparisons find. -/
theorem dlyMonUpdate_published (d : Fin 4) (mon : BitVec 16) (s : State) (hr : s.mainRuns = true) :
    Completes (exec (.dlyMonUpdate d mon) s) (fun t => t.get (PWM.DLY_MON_MON_TPT d) = mon.toNat) := by
  have hcompared : PwmSame d (s.set (PWM.DLY_MON_MON_TPT d) mon.toNat) (s.delayMonitor d mon.toNat) :=
    foldOver_preserves (P := PwmSame d (s.set (PWM.DLY_MON_MON_TPT d) mon.toNat)) _ _ _ (CellsSame.refl _ _) fun j _ _ h => h.compareDelay j
  refine completes_whileRuns hr (completes_next ?_)
  rw [State.get_of_cell (hcompared _ (pwmReg_dlyMon d)), State.get_set_self _ _ _ (of_decide_eq_true rfl)]
  exact Nat.mod_eq_of_lt mon.isLt

/-- Settles O11: one lemma for each command and outcome. -/
theorem pwmPeriodsAndEdges : Obligations.PwmPeriodsAndEdges :=
  ⟨pwmGroupStart_invalid, pwmGroupStart_starts, controlPeriodBoundary_counts, vpTriggerEdge_ends, vpTriggerEdge_held, vpTimeout_ends,
    commandEdge_level, commandEdge_rise, deadTimeEnd_turnsOn, deadTimeEnd_drops, pmodeWrite_written, dlyMonUpdate_published⟩

end Sys2Proof.Machine
end

section
/-! SUPPORT and the obligation on driver fault lines (O14). -/

namespace Sys2Proof.Machine

/-! ### Fault registers of a port -/

theorem fltRegs_notMem_tripRegs : ∀ (d : Fin 4) (j : Fin 6), PORT.FLTSTAT d j ∉ tripRegs d ∧ PORT.FLTWID d j ∉ tripRegs d := by decide

theorem fltstat_ne_fltwid (d j : Nat) : PORT.FLTSTAT d j ≠ PORT.FLTWID d j := by
  simp only [PORT.FLTSTAT, PORT.FLTWID]
  omega

/-- What the trip groups then do leaves FLTSTAT of a port. -/
theorem State.refreshTrips_fltstat (s : State) (d : Fin 4) (j : Fin 6) {g : RF} (hg : g.addr = PORT.FLTSTAT d j) :
    (s.refreshTrips d).get g = s.get g :=
  State.get_of_cell (State.refreshTrips_cell _ _ _ (by rw [hg]; exact (fltRegs_notMem_tripRegs d j).1))

theorem State.faultUsed_of_cell {s t : State} {d j : Nat} (h : t.cell (PORT.PCFG d j) = s.cell (PORT.PCFG d j)) :
    t.faultUsed d j = s.faultUsed d j := State.flag_of_cell (f := PORT.PCFG_FLT_USE d j) h

theorem State.setB_fltLine_faultUsed (s : State) (d j : Nat) (b : Bool) :
    (s.setB (PORT.FLTSTAT_FLT_LINE d j) b).faultUsed d j = s.faultUsed d j :=
  State.faultUsed_of_cell (State.cell_setB_ne _ _ _ _ (pcfg_ne_fltstat d j))

theorem State.get_modPort (s : State) (d j : Nat) (f : Port → Port) (g : RF) : (s.modPort d j f).get g = s.get g :=
  State.get_of_cell (State.modPort_cell _ _ _ _ _)

/-! ### The code of a fault (R127, R129) -/

theorem codeOfWidth_lt (w : Nat) : codeOfWidth w < 8 := by
  unfold codeOfWidth
  split_ifs <;> decide

theorem codeOfWidth_glitch {w : Nat} (h : w < 200) : codeOfWidth w = 0 := if_pos h

theorem codeOfWidth_ne_zero {w : Nat} (h : 200 ≤ w) : codeOfWidth w ≠ 0 := by
  unfold codeOfWidth
  rw [if_neg (Nat.not_lt.2 h)]
  split_ifs <;> decide

theorem State.get_set_fltCode (s : State) (d j : Nat) {code : Nat} (h : code < 8) :
    (s.set (PORT.FLTSTAT_FLT_CODE d j) code).get (PORT.FLTSTAT_FLT_CODE d j) = code :=
  (State.get_set_self _ _ _ (of_decide_eq_true rfl)).trans (Nat.mod_eq_of_lt h)

/-- R129: a code that replaces the present one stands in FLT_CODE. -/
theorem State.writeFaultCode_written (s : State) (d j : Nat) {code : Nat} (hcode : code < 8)
    (h : s.get (PORT.FLTSTAT_FLT_CODE d j) = 0 ∨ s.get (PORT.FLTSTAT_FLT_CODE d j) = 7 ∨
      (s.codeTrips d (s.tgOf d j) code ∧ ¬ s.codeTrips d (s.tgOf d j) (s.get (PORT.FLTSTAT_FLT_CODE d j)))) :
    (s.writeFaultCode d j code).get (PORT.FLTSTAT_FLT_CODE d j) = code := by
  unfold State.writeFaultCode
  rw [if_pos h, State.get_modPort]
  exact s.get_set_fltCode d j hcode

/-- A code written and its own pulse: the registers of other units stay. -/
theorem State.writeFaultCode_cell (s : State) (d j code : Nat) {a : Nat} (h : a ≠ PORT.FLTSTAT d j) :
    (s.writeFaultCode d j code).cell a = s.cell a := by
  unfold State.writeFaultCode
  extract_lets tg cur
  split
  · exact (State.modPort_cell _ _ _ _ _).trans (State.cell_set_ne _ _ _ _ h)
  · rfl

/-! ### The end of a pulse (R127) -/

/-- FLTn is high, and no pulse is measured any more. -/
def State.pulseEnded (s : State) (d j : Nat) : State :=
  (s.setB (PORT.FLTSTAT_FLT_LINE d j) true).modPort d j (fun p => { p with measuring := false, declared := false, own5 := false })

theorem State.pulseEnded_line (s : State) (d j : Nat) : (s.pulseEnded d j).flag (PORT.FLTSTAT_FLT_LINE d j) = true := by
  unfold State.pulseEnded
  rw [State.flag_of_get (State.get_modPort _ _ _ _ _), State.flag_setB_self _ _ _ (of_decide_eq_true rfl) Nat.one_pos]

theorem State.pulseEnded_get (s : State) (d j : Nat) {g : RF} (h : (PORT.FLTSTAT_FLT_LINE d j).apart g = true) :
    (s.pulseEnded d j).get g = s.get g := by
  unfold State.pulseEnded
  rw [State.get_modPort, State.get_setB_apart s true h]

theorem State.pulseEnded_faultUsed (s : State) (d j : Nat) : (s.pulseEnded d j).faultUsed d j = s.faultUsed d j :=
  (State.faultUsed_of_cell (State.modPort_cell _ _ _ _ _)).trans (s.setB_fltLine_faultUsed d j true)

/-- A pulse of a port that declares its faults when it ends: counted, its code and its width recorded. -/
def State.pulseDeclared (s : State) (d j width : Nat) : State :=
  ((((s.set (PORT.FLTWID_WIDTH d j) (min width 0xFFFFF)).incSat (PORT.FLTSTAT_FLT_CNT d j)).writeFaultCode d j (codeOfWidth width)).modPort d j
    (fun p => { p with own5 := false })).refreshTrips d

section
variable {d : Fin 4} {j : Fin 6} {width : Nat} {s : State}

theorem execFltPulseEnd_none (hr : s.mainRuns = true) : execFltPulseEnd d j 0 s = .next (s.pulseEnded d j) := by
  unfold execFltPulseEnd
  rw [whileRuns_running _ hr]
  exact congrArg _ (if_pos (by rw [decide_eq_true rfl, Bool.or_true]))

/-- A measured pulse that nothing has declared yet ends: a glitch, or a fault of its width's code. -/
theorem execFltPulseEnd_measured (hm : (s.port d j).measuring = true) (hu : s.faultUsed d j = true) (hd : (s.port d j).declared = false)
    (h0 : 0 < width) (hr : s.mainRuns = true) : execFltPulseEnd d j width s =
      .next (if codeOfWidth width = 0 then (s.pulseEnded d j).incSat (PORT.FLTSTAT_GLITCH_CNT d j)
        else (s.pulseEnded d j).pulseDeclared d j width) := by
  have hport : (s.setB (PORT.FLTSTAT_FLT_LINE d j) true).port d j = s.port d j := State.port_of_ports (State.setB_ports _ _ _) d j
  have hused : (s.pulseEnded d j).faultUsed d j = true := (s.pulseEnded_faultUsed d j).trans hu
  unfold execFltPulseEnd
  rw [whileRuns_running _ hr]
  dsimp only
  rw [hport, hm, hd]
  change Host.Outcome.next (if (!true || !(s.pulseEnded d j).faultUsed d j || decide (width = 0)) = true then _ else _) = _
  rw [hused, decide_eq_false (Nat.pos_iff_ne_zero.1 h0), if_neg (by decide)]
  by_cases hcode : codeOfWidth width = 0
  · rw [if_pos hcode, if_pos (by rw [hcode]; decide)]
    rfl
  · rw [if_neg hcode, if_neg (by rw [decide_eq_false hcode]; decide), if_neg (by decide)]
    rfl

end

/-! ### Pulses (R127) -/

theorem fltFall_line (d : Fin 4) (j : Fin 6) (s : State) (hr : s.mainRuns = true) :
    Completes (exec (.fltFall d j) s) (fun t => t.flag (PORT.FLTSTAT_FLT_LINE d j) = false) := by
  refine completes_whileRuns hr (completes_next ?_)
  have hline : (s.setB (PORT.FLTSTAT_FLT_LINE d j) false).flag (PORT.FLTSTAT_FLT_LINE d j) = false :=
    State.flag_setB_self _ _ _ (of_decide_eq_true rfl) Nat.one_pos
  split
  · exact (State.flag_of_cell (State.modPort_cell _ _ _ _ _)).trans hline
  · exact hline

theorem fltFall_measures (d : Fin 4) (j : Fin 6) (s : State) (hu : s.faultUsed d j = true) (hr : s.mainRuns = true) :
    Completes (exec (.fltFall d j) s) (fun t => (t.port d j).measuring = true) := by
  refine completes_whileRuns hr (completes_next ?_)
  rw [State.setB_fltLine_faultUsed, hu, Bool.true_and]
  split
  case isTrue => rw [State.port_modPort_self _ _ _ _ (by omega)]
  case isFalse h => simpa using h

/-- R127: a low below 200 ticks is a glitch, counted and no fault. -/
theorem fltPulseEnd_glitch (d : Fin 4) (j : Fin 6) (width : Nat) (s : State) (hm : (s.port d j).measuring = true)
    (hu : s.faultUsed d j = true) (hd : (s.port d j).declared = false) (h0 : 0 < width) (hw : width < 200) (hr : s.mainRuns = true) :
    Completes (exec (.fltPulseEnd d j width) s) (fun t => t.flag (PORT.FLTSTAT_FLT_LINE d j) = true ∧
      t.get (PORT.FLTSTAT_FLT_CODE d j) = s.get (PORT.FLTSTAT_FLT_CODE d j) ∧
      t.get (PORT.FLTSTAT_GLITCH_CNT d j) = min (s.get (PORT.FLTSTAT_GLITCH_CNT d j) + 1) (2 ^ (PORT.FLTSTAT_GLITCH_CNT d j).w - 1)) := by
  refine ⟨_, execFltPulseEnd_measured hm hu hd h0 hr, ?_⟩
  rw [if_pos (codeOfWidth_glitch hw)]
  refine ⟨?_, ?_, ?_⟩
  · exact (State.flag_of_get (State.get_incSat_apart _ rfl)).trans (s.pulseEnded_line d j)
  · exact (State.get_incSat_apart _ rfl).trans (s.pulseEnded_get d j rfl)
  · rw [State.get_incSat_self _ _ (of_decide_eq_true rfl), s.pulseEnded_get d j rfl]

/-- Assumption 63: a width of 0 says that there was no pulse; the measurement ends and the code stays. -/
theorem fltPulseEnd_noPulse (d : Fin 4) (j : Fin 6) (s : State) (hr : s.mainRuns = true) :
    Completes (exec (.fltPulseEnd d j 0) s) (fun t => t.flag (PORT.FLTSTAT_FLT_LINE d j) = true ∧ (t.port d j).measuring = false ∧
      t.get (PORT.FLTSTAT_FLT_CODE d j) = s.get (PORT.FLTSTAT_FLT_CODE d j)) := by
  refine ⟨_, execFltPulseEnd_none hr, s.pulseEnded_line d j, ?_, s.pulseEnded_get d j rfl⟩
  unfold State.pulseEnded
  rw [State.port_modPort_self _ _ _ _ (by omega)]

/-- R127: a longer one is the fault that its width codes. -/
theorem fltPulseEnd_coded (d : Fin 4) (j : Fin 6) (width : Nat) (s : State) (hm : (s.port d j).measuring = true)
    (hu : s.faultUsed d j = true) (hd : (s.port d j).declared = false) (hw : 200 ≤ width)
    (hcode : s.get (PORT.FLTSTAT_FLT_CODE d j) = 0) (hr : s.mainRuns = true) :
    Completes (exec (.fltPulseEnd d j width) s) (fun t => t.get (PORT.FLTSTAT_FLT_CODE d j) = codeOfWidth width ∧
      t.get (PORT.FLTWID_WIDTH d j) = min width 0xFFFFF) := by
  have hwid : PORT.FLTWID d j ≠ PORT.FLTSTAT d j := (fltstat_ne_fltwid d j).symm
  have hpresent : (((s.pulseEnded d j).set (PORT.FLTWID_WIDTH d j) (min width 0xFFFFF)).incSat (PORT.FLTSTAT_FLT_CNT d j)).get
      (PORT.FLTSTAT_FLT_CODE d j) = 0 :=
    calc
      _ = _ := State.get_incSat_apart _ rfl
      _ = _ := State.get_of_cell (State.cell_set_ne _ _ _ _ (fltstat_ne_fltwid d j))
      _ = _ := s.pulseEnded_get d j rfl
      _ = 0 := hcode
  refine ⟨_, execFltPulseEnd_measured hm hu hd (by omega) hr, ?_⟩
  rw [if_neg (codeOfWidth_ne_zero hw)]
  unfold State.pulseDeclared
  refine ⟨?_, ?_⟩
  · rw [State.refreshTrips_fltstat _ d j rfl, State.get_modPort,
      State.writeFaultCode_written _ _ _ (codeOfWidth_lt width) (.inl hpresent)]
  · rw [State.get_of_cell (State.refreshTrips_cell _ _ _ (fltRegs_notMem_tripRegs d j).2), State.get_modPort,
      State.get_of_cell (State.writeFaultCode_cell _ _ _ _ hwid)]
    refine (State.get_of_cell (State.cell_set_ne _ _ _ _ hwid)).trans ((State.get_set_self _ _ _ (of_decide_eq_true rfl)).trans ?_)
    exact Nat.mod_eq_of_lt (Nat.lt_of_le_of_lt (Nat.min_le_right _ 0xFFFFF) (of_decide_eq_true rfl))

/-! ### Faults of a pulse that has not ended (R127, R129, R132) -/

theorem fltCode5_declares (d : Fin 4) (j : Fin 6) (s : State) (hm : (s.port d j).measuring = true) (hu : s.faultUsed d j = true)
    (hd : (s.port d j).declared = false) (hcode : s.get (PORT.FLTSTAT_FLT_CODE d j) = 0) (hr : s.mainRuns = true) :
    Completes (exec (.fltCode5 d j) s) (fun t => t.get (PORT.FLTSTAT_FLT_CODE d j) = 5) := by
  refine completes_whileRuns hr (completes_next ?_)
  rw [hm, hd, hu, if_pos (by decide), State.refreshTrips_fltstat _ d j rfl]
  exact State.writeFaultCode_written _ _ _ (by decide) (.inl ((State.get_incSat_apart _ rfl).trans hcode))

/-- R127, R129: code 6 replaces code 5 of the same pulse. -/
theorem fltCode6_replacesOwn (d : Fin 4) (j : Fin 6) (s : State) (hm : (s.port d j).measuring = true) (hu : s.faultUsed d j = true)
    (hd : (s.port d j).declared = true) (hown : (s.port d j).own5 = true) (hr : s.mainRuns = true) :
    Completes (exec (.fltCode6 d j) s) (fun t => t.get (PORT.FLTSTAT_FLT_CODE d j) = 6) := by
  refine completes_whileRuns hr (completes_next ?_)
  rw [hm, hd, hu, hown, if_pos (by decide), State.refreshTrips_fltstat _ d j rfl, if_pos rfl, State.get_modPort]
  exact s.get_set_fltCode d j (by decide)

/-- R129: beside that it replaces what any code replaces that trips. -/
theorem fltCode6_replaces (d : Fin 4) (j : Fin 6) (s : State) (hm : (s.port d j).measuring = true) (hu : s.faultUsed d j = true)
    (hd : (s.port d j).declared = true) (hown : (s.port d j).own5 = false)
    (hcode : s.codeTrips d (s.tgOf d j) (s.get (PORT.FLTSTAT_FLT_CODE d j)) = false ∨ s.get (PORT.FLTSTAT_FLT_CODE d j) = 7)
    (hr : s.mainRuns = true) : Completes (exec (.fltCode6 d j) s) (fun t => t.get (PORT.FLTSTAT_FLT_CODE d j) = 6) := by
  refine completes_whileRuns hr (completes_next ?_)
  rw [hm, hd, hu, hown, if_pos (by decide), State.refreshTrips_fltstat _ d j rfl, if_neg (by decide)]
  refine State.writeFaultCode_written s _ _ (by decide) (.inr ?_)
  obtain hno | h7 := hcode
  · exact .inr ⟨rfl, ne_true_of_eq_false hno⟩
  · exact .inl h7

theorem fltEarly_pending (d : Fin 4) (j : Fin 6) (s : State) (he : s.flag (TRIP.TGCFG_FLT_EARLY d (s.tgOf d j)) = true)
    (hu : s.faultUsed d j = true) (hm : (s.port d j).measuring = true) (hcode : s.get (PORT.FLTSTAT_FLT_CODE d j) = 0)
    (hr : s.mainRuns = true) : Completes (exec (.fltEarly d j) s) (fun t => t.get (PORT.FLTSTAT_FLT_CODE d j) = 7) := by
  have hno : ¬ s.codeTrips d (s.tgOf d j) 0 = true := Bool.false_ne_true
  refine completes_whileRuns hr (completes_next ?_)
  rw [he, hu, hm, hcode, if_pos (by decide), if_neg hno, State.refreshTrips_fltstat _ d j rfl]
  exact s.get_set_fltCode d j (by decide)

/-! ### FLT_CLR and FLT_USE (R130, R131) -/

theorem fltClr_clears (d : Fin 4) (j : Fin 6) (s : State) (hl : s.flag (PORT.FLTSTAT_FLT_LINE d j) = true)
    (hm : (s.port d j).measuring = false) (hr : s.mainRuns = true) :
    Completes (exec (.fltClr d j) s) (fun t => t.get (PORT.FLTSTAT_FLT_CODE d j) = 0) := by
  refine completes_whileRuns hr (completes_next ?_)
  unfold State.faultClear
  rw [hl, hm, if_pos (by decide), State.refreshTrips_fltstat _ d j rfl]
  exact s.get_set_fltCode d j (by decide)

/-- Whatever follows from a write of PCFG, the register holds the word written. -/
theorem State.pcfgApply_pcfg (s : State) (d : Fin 4) (j : Fin 6) (w : Word) : (s.pcfgApply d j w).reg (PORT.PCFG d j) = w := by
  rw [State.reg_of_cell (s.pcfgApply_cell d j w j.isLt (pcfg_notMem_tripRegs d j) (pcfg_ne_fltstat d j)), State.reg_setReg_self]

/-- One bit of PCFG written, the others kept, reads as written. -/
theorem State.pcfgApply_flag (s : State) (d : Fin 4) (j : Fin 6) (lo : Nat) (b : Bool) (h : lo < 32) (v : Word) :
    (s.pcfgApply d j (putBits v lo 1 (if b then 1 else 0))).flag ⟨PORT.PCFG d j, lo, 1⟩ = b := by
  unfold State.flag State.get
  rw [State.pcfgApply_pcfg, getBits_putBits_self _ _ _ _ (by omega)]
  cases b <;> rfl

theorem fltUseWrite_written (d : Fin 4) (j : Fin 6) (use : Bool) (s : State) (hr : s.mainRuns = true)
    (hp : s.parityOk (PORT.PCFG d j) = true) : Completes (exec (.fltUseWrite d j use) s) (fun t => t.faultUsed d j = use) := by
  refine completes_whileRuns hr (completes_next ?_)
  rw [State.checkParity_of_ok _ _ _ hp]
  exact s.pcfgApply_flag d j 0 use (by decide) _

/-- Settles O14: one lemma for each command and outcome. -/
theorem faultLine : Obligations.FaultLine :=
  ⟨fltFall_line, fltFall_measures, fltPulseEnd_glitch, fltPulseEnd_noPulse, fltPulseEnd_coded, fltCode5_declares, fltCode6_replacesOwn,
    fltCode6_replaces, fltEarly_pending, fltClr_clears, fltUseWrite_written⟩

end Sys2Proof.Machine
end

section
/-! SUPPORT. The trip groups of a die brought up to date: what they leave of a port whose group is not tripped, and what they never do (for O13 and
O15). -/

namespace Sys2Proof.Machine

/-! ### Trip groups, one change at a time -/

theorem State.refreshCfgErr_cell (s : State) (d k : Nat) {a : Nat} (h : a ≠ TRIP.TGSTAT d k) : (s.refreshCfgErr d k).cell a = s.cell a := by
  unfold State.refreshCfgErr
  extract_lets now was t
  rw [apply_ite (fun u : State => u.cell a), State.cell_setB_ne _ _ _ _ h, ite_self]
  exact State.modTg_cell _ _ _ _ _

/-- A trip group that is not tripped shows its sources and its configuration errors only. -/
theorem State.refreshGroup_untripped (s : State) (d k : Nat) (h : s.flag (TRIP.TGSTAT_TRIPPED d k) = false) :
    s.refreshGroup d k = (s.setReg (TRIP.SRCACT d k) (BitVec.ofNat 32 (s.activeSources d k))).refreshCfgErr d k := by
  unfold State.refreshGroup
  dsimp only
  rw [State.setReg_refreshCfgErr_tripped, h, if_neg (by decide)]

theorem State.setReg_refreshCfgErr_tgOf (s : State) (d : Nat) {k : Nat} (hk : k < 2) (w : Word) (j : Nat) :
    ((s.setReg (TRIP.SRCACT d k) w).refreshCfgErr d k).tgOf d j = s.tgOf d j := by
  have hmembers : TRIP.MEMBERS d ≠ TRIP.SRCACT d k ∧ TRIP.MEMBERS d ≠ TRIP.TGSTAT d k := by
    simp only [TRIP.MEMBERS, TRIP.SRCACT, TRIP.TGSTAT]
    omega
  exact State.tgOf_of_cell (State.setReg_refreshCfgErr_cell _ _ _ _ _ _ hmembers.1 hmembers.2) j

theorem State.mem_tgPorts {s : State} {d k j : Nat} : j ∈ s.tgPorts d k ↔ j < 7 ∧ s.tgOf d j = k := by
  unfold State.tgPorts
  rw [List.mem_filter, List.mem_range, decide_eq_true_iff]

section
variable {P : State → Prop} {s : State} {d : Nat}

/-- A property that holds once a group shows its sources, and that safe states of its members and ASC_ACT keep, holds of the group brought up to
date. -/
theorem State.refreshGroup_preserves {k : Nat} (hk : k < 2)
    (hshow : P ((s.setReg (TRIP.SRCACT d k) (BitVec.ofNat 32 (s.activeSources d k))).refreshCfgErr d k))
    (henter : s.flag (TRIP.TGSTAT_TRIPPED d k) = true → ∀ j < 7, s.tgOf d j = k → ∀ t p, P t → P (t.enterSafe d j p))
    (hasc : ∀ t, P t → P (t.refreshAsc d k)) : P (s.refreshGroup d k) := by
  cases htrip : s.flag (TRIP.TGSTAT_TRIPPED d k)
  case false =>
    rw [State.refreshGroup_untripped s d k htrip]
    exact hshow
  case true =>
    unfold State.refreshGroup
    dsimp only
    rw [State.setReg_refreshCfgErr_tripped, htrip, if_pos rfl]
    refine hasc _ (foldOver_preserves _ _ _ hshow fun j hj t ht => ?_)
    rw [State.mem_tgPorts, State.setReg_refreshCfgErr_tgOf s d hk] at hj
    obtain ⟨hj7, htg⟩ := hj
    dsimp only
    split
    · exact ht
    · exact henter htrip j hj7 htg t _ ht

theorem State.refreshGroup_tgOf (s : State) (d k j : Nat) (hk : k < 2) : (s.refreshGroup d k).tgOf d j = s.tgOf d j :=
  State.tgOf_of_cell (State.refreshGroup_cell _ _ _ _ hk (members_notMem d).1) j

/-- The same for the die: only members of tripped groups take safe states. -/
theorem State.refreshTrips_preserves (hs : P s) (hshow : ∀ k < 2, ∀ t w, P t → P ((t.setReg (TRIP.SRCACT d k) w).refreshCfgErr d k))
    (henter : ∀ j < 7, s.flag (TRIP.TGSTAT_TRIPPED d (s.tgOf d j)) = true → ∀ t p, P t → P (t.enterSafe d j p))
    (hasc : ∀ k < 2, ∀ t, P t → P (t.refreshAsc d k)) : P (s.refreshTrips d) := by
  unfold State.refreshTrips
  split
  case isTrue => exact hs
  case isFalse =>
    have h0 : P (s.refreshGroup d 0) := State.refreshGroup_preserves (by decide) (hshow 0 (by decide) _ _ hs)
      (fun htrip j hj htg => henter j hj (by rw [htg, htrip])) (hasc 0 (by decide))
    refine State.refreshGroup_preserves (by decide) (hshow 1 (by decide) _ _ h0) (fun htrip j hj htg => henter j hj ?_) (hasc 1 (by decide))
    rw [State.refreshGroup_tgOf _ _ _ _ (by decide)] at htg
    rw [State.refreshGroup_tripped] at htrip
    rw [htg, htrip]

end

/-- Bringing the trip groups up to date trips and clears none. -/
theorem State.refreshTrips_tripped (s : State) (d q : Nat) :
    (s.refreshTrips d).flag (TRIP.TGSTAT_TRIPPED d q) = s.flag (TRIP.TGSTAT_TRIPPED d q) := by
  unfold State.refreshTrips
  split
  · rfl
  · rw [State.refreshGroup_tripped, State.refreshGroup_tripped]

/-! ### The registers of one port's outputs -/

/-- Turning an output off writes no register but CHOP_ON of its port. -/
theorem State.turnOffIn_cell_other (s : State) (d j : Nat) (high next : Bool) {a : Nat} (h : a ≠ PORT.CHOP_STAT d j) :
    (s.turnOffIn d j high next).cell a = s.cell a := by
  unfold State.turnOffIn State.outputOff
  extract_lets p t
  have ht : t.cell a = s.cell a := by
    unfold t
    rw [apply_ite (fun u : State => u.cell a), State.cell_setB_ne _ _ _ _ h, ite_self]
  generalize (!if high = true then p.gh else p.gl) = off
  cases off
  case true => rfl
  case false =>
    rw [if_neg (by decide)]
    split
    · exact State.modPort_cell _ _ _ _ _
    · exact (State.outputEdge_cell _ _ _ _ _).trans ((State.modPort_cell _ _ _ _ _).trans ht)

/-- Turning one on writes RF_SAT of its die besides. -/
theorem State.turnOn_cell_other (s : State) (d j : Nat) (high : Bool) {a : Nat} (h : a ≠ PORT.CHOP_STAT d j) (hsat : a ≠ CYC.RFSTAT d) :
    (s.turnOn d j high).cell a = s.cell a := by
  unfold State.turnOn
  extract_lets p c t1 t2
  have h1 : t1.cell a = s.cell a := by
    unfold t1
    rw [apply_ite (fun u : State => u.cell a), State.cell_setB_ne _ _ _ _ h, ite_self]
  have h2 : t2.cell a = s.cell a := by
    unfold t2
    rw [apply_ite (fun u : State => u.cell a), State.cell_setBit_ne _ _ _ _ _ hsat, ite_self, h1]
  split
  · rfl
  · generalize (if high = true then p.gh else p.gl) = on
    cases on
    · rw [if_neg (by decide)]
      exact (State.outputEdge_cell _ _ _ _ _).trans ((State.modPort_cell _ _ _ _ _).trans h2)
    · rfl

theorem State.enterSafe_cell_other (s : State) (d j : Nat) (p : PortSafe) {a : Nat} (h : a ≠ PORT.CHOP_STAT d j) (hsat : a ≠ CYC.RFSTAT d)
    (hap : j = 6 → a ≠ APB.APSTAT d) : (s.enterSafe d j p).cell a = s.cell a := by
  unfold State.enterSafe
  extract_lets s1 s2
  have h2 : s2.cell a = s.cell a := by
    unfold s2
    split
    next hj => exact (State.cell_setB_ne _ _ _ _ (hap hj)).trans (State.modPort_cell _ _ _ _ _)
    next => exact State.modPort_cell _ _ _ _ _
  cases p <;> simp only [State.modPort_cell, State.turnOffIn_cell_other _ _ _ _ _ h, State.turnOn_cell_other _ _ _ _ h hsat, h2]

/-- The status register that goes with a port: APSTAT of the auxiliary port, CHOP_STAT of a gate port. -/
def portReg (d j : Nat) : Nat := if j = 6 then APB.APSTAT d else PORT.CHOP_STAT d j

theorem portReg_gate (d : Nat) (j : Fin 6) : portReg d j = PORT.CHOP_STAT d j := if_neg (by omega)

/-- The register of one port is written for no other. -/
theorem portReg_other (d : Nat) {i j : Nat} (hj : j < 7) (hij : i ≠ j) :
    portReg d j ≠ PORT.CHOP_STAT d i ∧ portReg d j ≠ CYC.RFSTAT d ∧ (i = 6 → portReg d j ≠ APB.APSTAT d) := by
  unfold portReg
  split <;> simp only [PORT.CHOP_STAT, CYC.RFSTAT, APB.APSTAT] <;> omega

theorem portReg_notTrip (d : Nat) {j k : Nat} : portReg d j ≠ TRIP.SRCACT d k ∧ portReg d j ≠ TRIP.TGSTAT d k := by
  unfold portReg
  split <;> simp only [PORT.CHOP_STAT, TRIP.SRCACT, TRIP.TGSTAT, APB.APSTAT] <;> omega

/-- Bringing the trip groups up to date leaves the register of a port whose group is not tripped. -/
theorem State.refreshTrips_portReg (s : State) (d : Nat) {j : Nat} (hj : j < 7) (h : s.flag (TRIP.TGSTAT_TRIPPED d (s.tgOf d j)) = false) :
    (s.refreshTrips d).cell (portReg d j) = s.cell (portReg d j) := by
  refine State.refreshTrips_preserves (P := fun t => t.cell (portReg d j) = s.cell (portReg d j)) rfl ?_ ?_ ?_
  · exact fun k _ t w ht => (State.setReg_refreshCfgErr_cell _ _ _ _ _ _ (portReg_notTrip d).1 (portReg_notTrip d).2).trans ht
  · rintro i - htrip t p ht
    have hij : i ≠ j := by
      rintro rfl
      exact absurd (h.symm.trans htrip) (by decide)
    obtain ⟨hchop, hsat, hap⟩ := portReg_other d hj hij
    exact (State.enterSafe_cell_other _ _ _ _ hchop hsat hap).trans ht
  · exact fun k _ t ht => (State.cell_setB_ne _ _ _ _ (portReg_notTrip d).2).trans ht

/-! ### Ports whose group is not tripped -/

/-- MEMBERS and TGSTAT: the registers that say which ports are under a trip. -/
def memberReg (d a : Nat) : Prop := a = TRIP.MEMBERS d ∨ ∃ k, a = TRIP.TGSTAT d k

theorem memberReg_notMem_outRegs {d a : Nat} (h : memberReg d a) : a ∉ outRegs d := by
  obtain rfl | ⟨k, rfl⟩ := h
  · exact fun hm => (members_notMem d).1 (List.mem_append_right _ hm)
  · exact (tgstat_notMem_outRegs d k).2

theorem apstat_notMemberReg (d : Nat) : ¬ memberReg d (APB.APSTAT d) := by
  rintro (h | ⟨k, h⟩) <;> simp only [APB.APSTAT, TRIP.MEMBERS, TRIP.TGSTAT] at h <;> omega

/-- The group of port `j` is not tripped. -/
def State.untripped (s : State) (d j : Nat) : Prop := s.flag (TRIP.TGSTAT_TRIPPED d (s.tgOf d j)) = false

theorem State.untripped_of_cells {s t : State} {d j : Nat} (hs : s.untripped d j) (h : CellsSame (memberReg d) s t) : t.untripped d j := by
  unfold State.untripped
  rw [State.tgOf_of_cell (h _ (.inl rfl)), State.flag_of_cell (h _ (.inr ⟨_, rfl⟩))]
  exact hs

section
variable {A : Nat → Prop} {r s : State} {d : Nat}

theorem CellsSame.turnOff (h : CellsSame A r s) (hA : ∀ a, A a → a ∉ outRegs d) (j : Nat) (high : Bool) : CellsSame A r (s.turnOff d j high) :=
  h.trans fun a ha => State.turnOff_cell s d j a high (hA a ha)

theorem CellsSame.turnOn (h : CellsSame A r s) (hA : ∀ a, A a → a ∉ outRegs d) (j : Nat) (high : Bool) : CellsSame A r (s.turnOn d j high) :=
  h.trans fun a ha => State.turnOn_cell s d j a high (hA a ha)

theorem CellsSame.placeEdge (h : CellsSame A r s) (d j fine : Nat) : CellsSame A r (s.placeEdge d j fine) := by
  obtain ⟨e, late, he⟩ := s.placeEdge_eq d j fine
  rw [he]
  exact h.modPort _ _ _

end

theorem State.dieRuns_of_drivesSame {s t : State} (h : DrivesSame s t) (d : Nat) : t.dieRuns d = s.dieRuns d := by
  unfold State.dieRuns
  rw [h.halted, h.clockStopped]

/-! ### What no safe state does -/

theorem State.turnOffIn_proj {β : Type} (p : Port → β) (s : State) (d j : Nat) (high next : Bool) (hoff : ∀ x, p (Port.turnedOff x high) = p x)
    (hdue : ∀ x, p (Port.dueOffWith x high) = p x) : p ((s.turnOffIn d j high next).port d j) = p (s.port d j) := by
  obtain ⟨h, _⟩ | ⟨_, h⟩ | h := s.turnOffIn_ports d j high next
  · rw [State.port_of_ports h]
  · unfold State.port
    rw [h, vget_vmod_proj p _ _ _ _ hdue]
  · unfold State.port
    rw [h, vget_vmod_proj p _ _ _ _ hoff]

/-- The high side of port `j` is off. -/
def State.highOff (s : State) (d j : Nat) : Prop := (s.port d j).gh = false

/-- What a change of units keeps holds of every unit. -/
theorem vget_vmod_of {α : Type} [Inhabited α] {n : Nat} {P : α → Prop} (v : Vector α n) (i j : Nat) (f : α → α) (h : P (vget v j))
    (hf : ∀ x, P x → P (f x)) : P (vget (vmod v i f) j) := by
  by_cases e : j = i
  · subst e
    by_cases hj : j < n
    · rw [vget_vmod_self v j f hj]
      exact hf _ h
    · rwa [show vget (vmod v j f) j = vget v j by simp [vget, vmod, vset, hj]]
  · rwa [vget_vmod_ne v i j f e]

theorem State.highOff_of_ports {s t : State} {d j : Nat} (hs : s.highOff d j) (h : t.ports = s.ports) : t.highOff d j := by
  unfold State.highOff
  rw [State.port_of_ports h]
  exact hs

theorem State.highOff_of_vmod {s t : State} {d j : Nat} (hs : s.highOff d j) {i : Nat} {f : Port → Port} (h : t.ports = vmod s.ports i f)
    (hf : ∀ p : Port, p.gh = false → (f p).gh = false) : t.highOff d j := by
  unfold State.highOff State.port at hs ⊢
  rw [h]
  exact vget_vmod_of (P := fun p : Port => p.gh = false) s.ports i _ f hs hf

theorem State.turnOffIn_highOff {s : State} {d j : Nat} (hs : s.highOff d j) (i : Nat) (high next : Bool) :
    (s.turnOffIn d i high next).highOff d j := by
  obtain ⟨h, _⟩ | ⟨_, h⟩ | h := s.turnOffIn_ports d i high next
  · exact State.highOff_of_ports hs h
  · exact State.highOff_of_vmod hs h fun _ hp => hp
  · refine State.highOff_of_vmod hs h fun _ hp => ?_
    cases high
    · exact hp
    · rfl

theorem State.turnOn_low_highOff {s : State} {d j : Nat} (hs : s.highOff d j) (i : Nat) : (s.turnOn d i false).highOff d j := by
  obtain ⟨h, _⟩ | ⟨c, h⟩ := s.turnOn_ports d i false
  · exact State.highOff_of_ports hs h
  · exact State.highOff_of_vmod hs h fun p hp => (Bool.or_false p.gh).trans hp

/-- A safe state turns no high side on: those of an active short circuit wait (R142), and the auxiliary port's turns the low side on (R175). -/
theorem State.enterSafe_highOff {s : State} {d j : Nat} (hs : s.highOff d j) (i : Nat) (p : PortSafe) : (s.enterSafe d i p).highOff d j := by
  unfold State.enterSafe
  extract_lets s1 s2
  have h1 : s1.highOff d j := State.highOff_of_vmod hs (State.modPort_ports _ _ _ _) fun _ hp => hp
  have h2 : s2.highOff d j := State.highOff_of_ports h1 (by unfold s2; rw [apply_ite State.ports, State.setB_ports, ite_self])
  clear_value s2
  cases p
  case none => exact h2
  case chopper => exact h2
  case opened => exact State.turnOffIn_highOff (State.turnOffIn_highOff h2 _ _ _) _ _ _
  case ascLow => exact State.highOff_of_vmod (State.turnOffIn_highOff h2 i true true) (State.modPort_ports _ _ _ _) fun _ hp => hp
  case ascHigh => exact State.highOff_of_vmod (State.turnOffIn_highOff h2 i false true) (State.modPort_ports _ _ _ _) fun _ hp => hp
  case auxLow => exact State.turnOn_low_highOff (State.turnOffIn_highOff h2 _ _ _) _

theorem State.refreshTrips_highOff {s : State} {d j : Nat} (hs : s.highOff d j) : (s.refreshTrips d).highOff d j :=
  State.refreshTrips_preserves (P := fun t => t.highOff d j) hs
    (fun _ _ _ _ ht => State.highOff_of_ports ht (State.setReg_refreshCfgErr_ports _ _ _ _ _))
    (fun i _ _ _ p ht => State.enterSafe_highOff ht i p) (fun _ _ _ ht => State.highOff_of_ports ht (State.setB_ports _ _ _))

theorem apstat_notMem_outRegs (d : Nat) : APB.APSTAT d ∉ outRegs d := by
  simp only [outRegs, List.mem_cons, List.mem_map, List.mem_range, APB.APSTAT, CYC.RFSTAT, PORT.CHOP_STAT, not_or, not_exists, not_and]
  exact ⟨by omega, fun j _ => by omega⟩

/-- Safe states show REF_ACT of the auxiliary port alone in APSTAT. -/
theorem State.enterSafe_bootUv (s : State) (d j : Nat) (p : PortSafe) :
    (s.enterSafe d j p).get (APB.APSTAT_AP_BOOT_UV d) = s.get (APB.APSTAT_AP_BOOT_UV d) := by
  have hout := apstat_notMem_outRegs d
  have hoff : ∀ (t : State) high, (t.turnOffIn d j high true).get (APB.APSTAT_AP_BOOT_UV d) = t.get (APB.APSTAT_AP_BOOT_UV d) :=
    fun t high => State.get_of_cell (State.turnOffIn_cell _ _ _ _ _ _ hout)
  unfold State.enterSafe
  extract_lets s1 s2
  have h2 : s2.get (APB.APSTAT_AP_BOOT_UV d) = s.get (APB.APSTAT_AP_BOOT_UV d) := by
    unfold s2
    rw [apply_ite (fun t : State => t.get (APB.APSTAT_AP_BOOT_UV d)), State.get_setB_apart _ _ rfl, ite_self]
    exact State.get_modPort _ _ _ _ _
  clear_value s2
  cases p
  case none => exact h2
  case chopper => exact h2
  case opened => exact (hoff _ _).trans ((hoff _ _).trans h2)
  case ascLow => exact (State.get_modPort _ _ _ _ _).trans ((hoff _ _).trans h2)
  case ascHigh => exact (State.get_modPort _ _ _ _ _).trans ((hoff _ _).trans h2)
  case auxLow => exact (State.get_of_cell (State.turnOn_cell _ _ _ _ _ hout)).trans ((hoff _ _).trans h2)

theorem State.refreshTrips_bootUv (s : State) (d : Nat) :
    (s.refreshTrips d).get (APB.APSTAT_AP_BOOT_UV d) = s.get (APB.APSTAT_AP_BOOT_UV d) := by
  have hne : ∀ k, APB.APSTAT d ≠ TRIP.SRCACT d k ∧ APB.APSTAT d ≠ TRIP.TGSTAT d k := fun k => portReg_notTrip d (j := 6)
  refine State.refreshTrips_preserves (P := fun t => t.get (APB.APSTAT_AP_BOOT_UV d) = s.get (APB.APSTAT_AP_BOOT_UV d)) rfl ?_ ?_ ?_
  · exact fun k _ t w ht => (State.get_of_cell (State.setReg_refreshCfgErr_cell _ _ _ _ _ _ (hne k).1 (hne k).2)).trans ht
  · exact fun i _ _ t p ht => (t.enterSafe_bootUv d i p).trans ht
  · exact fun k _ t ht => (State.get_of_cell (State.cell_setB_ne _ _ _ _ (hne k).2)).trans ht

end Sys2Proof.Machine
end

section
/-! SUPPORT and the obligation on the brake chopper and the auxiliary port (O15). -/

namespace Sys2Proof.Machine

/-! ### CHOP_EN and the chopper's output (R168-R170, R620) -/

theorem chopEnWrite_written (d : Fin 4) (j : Fin 6) (en : Bool) (s : State) (hr : s.mainRuns = true)
    (hp : s.parityOk (PORT.PCFG d j) = true) : Completes (exec (.chopEnWrite d j en) s) (fun t => t.chopperRole d j = en) := by
  have hj : decide ((j : Nat) < 6) = true := decide_eq_true j.isLt
  refine completes_whileRuns hr (completes_next ?_)
  rw [State.checkParity_of_ok _ _ _ hp]
  unfold State.chopperRole
  rw [hj, Bool.true_and]
  exact s.pcfgApply_flag d j 1 en (by decide) _

/-- R169: CHOP_ON shows an output that the chopper switches on. -/
theorem State.turnOn_chopOn (s : State) (d j : Nat) (high : Bool) (hside : s.chopperSide d j high = true) (hoff : (s.port d j).on high = false)
    (hd : s.dieRuns d = true) (hb : (s.port d j).blocked = false) (hs : s.stoBranch d = false) :
    (s.turnOn d j high).flag (PORT.CHOP_STAT_CHOP_ON d j) = true := by
  have hsat : PORT.CHOP_STAT d j ≠ CYC.RFSTAT d := by
    simp only [PORT.CHOP_STAT, CYC.RFSTAT]
    omega
  unfold State.turnOn
  extract_lets p c t1 t2
  have hon : (if high = true then p.gh else p.gl) = false := hoff
  have hb' : p.blocked = false := hb
  have h1 : t1.flag (PORT.CHOP_STAT_CHOP_ON d j) = true := by
    unfold t1
    rw [hside, if_pos rfl, State.flag_setB_self _ _ _ (of_decide_eq_true rfl) Nat.one_pos]
  have h2 : t2.flag (PORT.CHOP_STAT_CHOP_ON d j) = true := by
    unfold t2
    split
    · exact (State.flag_of_cell (State.cell_setBit_ne _ _ _ _ _ hsat)).trans h1
    · exact h1
  clear_value t2
  rw [if_neg (by rw [hd, hb', hs]; decide), hon, if_neg (by decide), State.flag_of_cell (State.outputEdge_cell _ _ _ _ _),
    State.flag_of_get (State.get_modPort _ _ _ _ _), h2]

/-- R169: and one that it switches off. -/
theorem State.turnOff_chopOn (s : State) (d j : Nat) (high : Bool) (hside : s.chopperSide d j high = true) (hon : (s.port d j).on high = true)
    (hd : s.dieRuns d = true) : (s.turnOff d j high).flag (PORT.CHOP_STAT_CHOP_ON d j) = false := by
  unfold State.turnOff State.turnOffIn State.outputOff
  extract_lets p t
  have hon' : (if high = true then p.gh else p.gl) = true := hon
  have ht : t.flag (PORT.CHOP_STAT_CHOP_ON d j) = false := by
    unfold t
    rw [hside, if_pos rfl, State.flag_setB_self _ _ _ (of_decide_eq_true rfl) Nat.one_pos]
  clear_value t
  rw [hon', hd, if_neg (by decide), if_neg (by decide), State.flag_of_cell (State.outputEdge_cell _ _ _ _ _),
    State.flag_of_get (State.get_modPort _ _ _ _ _), ht]

/-- The ticks that the chopper's output stays as it is at least (R170): CHOP_TON where it is on, CHOP_TOFF where it is off. -/
def State.chopperLeast (s : State) (d j : Nat) (high : Bool) : Nat :=
  if (s.port d j).on high then s.get (PORT.CHOP_TON_TON d j) else s.get (PORT.CHOP_TOFF_TOFF d j)

/-- The ticks since an output changed. -/
def Port.since (p : Port) (high : Bool) : Nat := if high then p.sinceH else p.sinceL

/-- What the chopper's comparator asks (R169). -/
def State.chopperWant (s : State) (d j : Nat) : Bool := s.flag (CMP.CSTAT_OUT d (s.get (PORT.PCFG_CHOP_CMP d j)))

theorem State.chopperFollow_eq (s : State) (d j : Nat) (high : Bool) (hside : s.flag (PORT.PCFG_CHOP_SIDE d j) = !high) :
    s.chopperFollow d j =
      if !s.chopperFree d j || decide (s.chopperWant d j = (s.port d j).on high) || decide ((s.port d j).since high < s.chopperLeast d j high) then s
      else (if s.chopperWant d j then (s.turnOff d j (!high)).turnOn d j high else (s.turnOff d j (!high)).turnOff d j high).refreshTrips d := by
  unfold State.chopperFollow
  dsimp only
  rw [hside, Bool.not_not]
  rfl

/-- R170: before its minimum time has passed the chopper changes nothing. -/
theorem State.chopperFollow_early (s : State) (d j : Nat) (high : Bool) (hside : s.flag (PORT.PCFG_CHOP_SIDE d j) = !high)
    (h : (s.port d j).since high < s.chopperLeast d j high) : s.chopperFollow d j = s := by
  rw [s.chopperFollow_eq d j high hside, decide_eq_true h, Bool.or_true, if_pos rfl]

/-- The other output off: the chopper's own output, the suppression and the registers of a port but its own stay. -/
theorem State.turnOff_other_on (s : State) (d j : Nat) (high : Bool) :
    ((s.turnOff d j (!high)).port d j).on high = (s.port d j).on high ∧ ((s.turnOff d j (!high)).port d j).blocked = (s.port d j).blocked :=
  ⟨s.turnOff_proj (fun p => p.on high) d j (!high) (fun _ => by cases high <;> rfl) (fun _ => by cases high <;> rfl),
    s.turnOff_proj Port.blocked d j (!high) (fun _ => by cases high <;> rfl) (fun _ => rfl)⟩

theorem State.turnOff_dieRuns (s : State) (d j : Nat) (high : Bool) : (s.turnOff d j high).dieRuns d = s.dieRuns d :=
  State.dieRuns_of_drivesSame (State.turnOffIn_drivesSame s d j high false) d

theorem State.turnOff_stoBranch (s : State) (d : Fin 4) (j : Nat) (high : Bool) : (s.turnOff d j high).stoBranch d = s.stoBranch d :=
  State.stoBranch_of_cell (State.turnOff_cell _ _ _ _ _ (notMem_outRegs d.isLt (by decide)))

theorem pcfg_notMem_outRegs (d : Fin 4) (j : Fin 6) : PORT.PCFG d j ∉ outRegs d := fun h => pcfg_notMem_tripRegs d j (List.mem_append_right _ h)

theorem State.turnOff_chopperSide (s : State) (d : Fin 4) (j : Fin 6) (high : Bool) (b : Bool) :
    (s.turnOff d j b).chopperSide d j high = s.chopperSide d j high := by
  have hcell := State.turnOff_cell s d j _ b (pcfg_notMem_outRegs d j)
  unfold State.chopperSide State.chopperRole
  rw [State.flag_of_cell (f := PORT.PCFG_CHOP_EN d j) hcell, State.flag_of_cell (f := PORT.PCFG_CHOP_SIDE d j) hcell]

theorem State.chopperSide_of_free {s : State} {d j : Nat} {high : Bool} (hfree : s.chopperFree d j = true)
    (hside : s.flag (PORT.PCFG_CHOP_SIDE d j) = !high) : s.chopperSide d j high = true ∧ s.dieRuns d = true := by
  simp only [State.chopperFree, Bool.and_eq_true] at hfree
  unfold State.chopperSide
  rw [hside, Bool.not_not, decide_eq_true rfl, Bool.and_true]
  exact ⟨hfree.1.1.1, hfree.1.2⟩

/-- R169, R170: the chopper's output as its comparator asks, and CHOP_ON where it changes. -/
theorem State.chopperFollow_follows (s : State) (d : Fin 4) (j : Fin 6) (high : Bool) (hfree : s.chopperFree d j = true)
    (hside : s.flag (PORT.PCFG_CHOP_SIDE d j) = !high) (htrip : s.untripped d j) (hb : (s.port d j).blocked = false)
    (hs : s.stoBranch d = false) (hleast : s.chopperLeast d j high ≤ (s.port d j).since high) :
    ((s.chopperFollow d j).port d j).on high = s.chopperWant d j ∧
      ((s.port d j).on high ≠ s.chopperWant d j → (s.chopperFollow d j).flag (PORT.CHOP_STAT_CHOP_ON d j) = s.chopperWant d j) := by
  rw [s.chopperFollow_eq d j high hside, hfree, decide_eq_false (Nat.not_lt.2 hleast), Bool.not_true, Bool.false_or, Bool.or_false]
  by_cases hsame : s.chopperWant d j = (s.port d j).on high
  case pos =>
    rw [decide_eq_true hsame, if_pos rfl]
    exact ⟨hsame.symm, fun h => absurd hsame.symm h⟩
  case neg =>
    rw [decide_eq_false hsame, if_neg Bool.false_ne_true]
    obtain ⟨hown, hd⟩ := State.chopperSide_of_free hfree hside
    obtain ⟨hon1, hb1⟩ := s.turnOff_other_on d j high
    have hown1 := (s.turnOff_chopperSide d j high (!high)).trans hown
    have hd1 := (s.turnOff_dieRuns d j (!high)).trans hd
    have hs1 := (s.turnOff_stoBranch d j (!high)).trans hs
    have hcells1 := (CellsSame.refl (memberReg d) s).turnOff (fun _ => memberReg_notMem_outRegs) j (!high)
    have hj : 7 * d.val + j.val < 28 := by omega
    cases hwant : s.chopperWant d j
    case true =>
      have hoff : (s.port d j).on high = false := by simpa [hwant] using hsame
      have htrip2 := State.untripped_of_cells htrip (hcells1.turnOn (fun _ => memberReg_notMem_outRegs) j high)
      rw [if_pos rfl, State.refreshTrips_port _ _ _ htrip2,
        State.flag_of_cell (f := PORT.CHOP_STAT_CHOP_ON d j) (portReg_gate d j ▸ State.refreshTrips_portReg _ d (by omega) htrip2)]
      exact ⟨State.turnOn_on _ _ _ _ hj hd1 (hb1.trans hb) hs1,
        fun _ => State.turnOn_chopOn _ _ _ _ hown1 (hon1.trans hoff) hd1 (hb1.trans hb) hs1⟩
    case false =>
      have hon : (s.port d j).on high = true := by simpa [hwant] using hsame
      have htrip2 := State.untripped_of_cells htrip (hcells1.turnOff (fun _ => memberReg_notMem_outRegs) j high)
      rw [if_neg Bool.false_ne_true, State.refreshTrips_port _ _ _ htrip2,
        State.flag_of_cell (f := PORT.CHOP_STAT_CHOP_ON d j) (portReg_gate d j ▸ State.refreshTrips_portReg _ d (by omega) htrip2)]
      exact ⟨State.turnOff_off _ _ _ _ hj hd1, fun _ => State.turnOff_chopOn _ _ _ _ hown1 (hon1.trans hon) hd1⟩

section
variable (d : Fin 4) (j : Fin 6) (high : Bool) (s : State)

theorem chopperSwitch_follows (hfree : s.chopperFree d j = true) (hside : s.flag (PORT.PCFG_CHOP_SIDE d j) = !high)
    (htrip : s.flag (TRIP.TGSTAT_TRIPPED d (s.tgOf d j)) = false) (hb : (s.port d j).blocked = false) (hs : s.stoBranch d = false)
    (hleast : s.chopperLeast d j high ≤ (s.port d j).since high) (hr : s.mainRuns = true) :
    Completes (exec (.chopperSwitch d j) s) (fun t => (t.port d j).on high = s.chopperWant d j ∧
      ((s.port d j).on high ≠ s.chopperWant d j → t.flag (PORT.CHOP_STAT_CHOP_ON d j) = s.chopperWant d j)) :=
  completes_whileRuns hr (completes_next (s.chopperFollow_follows d j high hfree hside htrip hb hs hleast))

theorem chopMinTimeEnd_follows (hfree : s.chopperFree d j = true) (hside : s.flag (PORT.PCFG_CHOP_SIDE d j) = !high)
    (htrip : s.flag (TRIP.TGSTAT_TRIPPED d (s.tgOf d j)) = false) (hb : (s.port d j).blocked = false) (hs : s.stoBranch d = false)
    (hleast : s.chopperLeast d j high ≤ (s.port d j).since high) (hr : s.mainRuns = true) :
    Completes (exec (.chopMinTimeEnd d j) s) (fun t => (t.port d j).on high = s.chopperWant d j ∧
      ((s.port d j).on high ≠ s.chopperWant d j → t.flag (PORT.CHOP_STAT_CHOP_ON d j) = s.chopperWant d j)) :=
  completes_whileRuns hr (completes_next (s.chopperFollow_follows d j high hfree hside htrip hb hs hleast))

theorem chopperSwitch_early (hside : s.flag (PORT.PCFG_CHOP_SIDE d j) = !high) (h : (s.port d j).since high < s.chopperLeast d j high)
    (hr : s.mainRuns = true) : Completes (exec (.chopperSwitch d j) s) (fun t => t = s) :=
  completes_whileRuns hr (completes_next (s.chopperFollow_early d j high hside h))

end

/-! ### The boot supply (R172-R174) -/

theorem apRegs_notMem_tripRegs : ∀ d : Fin 4, PORT.ACT_DUTY d 6 ∉ tripRegs d ∧ APB.APSTAT d ≠ PORT.ACT_DUTY d 6 := by decide

/-- R173: AP_BOOT_UV turns the high side off and forces the active DUTY to 0. -/
theorem apBootUv_forces (d : Fin 4) (s : State) (hr : s.mainRuns = true) :
    Completes (exec (.apBootUv d) s) (fun t => t.flag (APB.APSTAT_AP_BOOT_UV d) = true ∧ t.reg (PORT.ACT_DUTY d 6) = 0 ∧
      (s.dieRuns d = true → (t.port d 6).gh = false)) := by
  obtain ⟨hduty, hap⟩ := apRegs_notMem_tripRegs d
  refine completes_whileRuns hr (completes_next ⟨?_, ?_, fun hd => ?_⟩)
  · refine (State.flag_of_get ((State.refreshTrips_bootUv _ _).trans (State.get_of_cell (State.cell_setReg_ne _ _ _ _ hap)))).trans ?_
    rw [State.flag_of_get (State.get_incSat_apart _ rfl), State.flag_of_get (State.get_setB_apart _ _ rfl),
      State.flag_setB_self _ _ _ (of_decide_eq_true rfl) Nat.one_pos]
  · rw [State.reg_of_cell (State.refreshTrips_cell _ _ _ hduty), State.reg_setReg_self]
  · have hoff : (s.turnOff d 6 true).highOff d 6 := s.turnOff_off d 6 true (by omega) hd
    refine State.refreshTrips_highOff (State.highOff_of_vmod hoff (i := 7 * d + 6)
      (f := fun p => { p with pendOn := p.pendOn.filter (fun w => !w.high) }) ?_ fun _ hp => hp)
    unfold State.incSat State.addSat
    rw [State.setReg_ports, State.set_ports, State.setB_ports, State.setB_ports, State.modPort_ports]

theorem bootOkRise_shows (d : Fin 4) (s : State) (hr : s.mainRuns = true) :
    Completes (exec (.bootOkRise d) s) (fun t => t.flag (APB.APSTAT_BOOT_OK d) = true ∧ SameBut [.regs] s t ∧ RegsBut [APB.APSTAT d] s t) :=
  completes_whileRuns hr (completes_next ⟨State.flag_setB_self _ _ _ (of_decide_eq_true rfl) Nat.one_pos, State.setReg_sameBut _ _ _,
    State.setReg_regsBut _ _ _ (List.mem_singleton.2 rfl)⟩)

/-- R174: with the supply good, AP_BOOT_UV goes and the active DUTY is the port's own again. -/
theorem apBootUvClear_restores (d : Fin 4) (s : State) (hok : s.flag (APB.APSTAT_BOOT_OK d) = true) (hr : s.mainRuns = true) :
    Completes (exec (.apBootUvClear d) s) (fun t => t.flag (APB.APSTAT_AP_BOOT_UV d) = false ∧
      (t.reg (PORT.ACT_DUTY d 6)).toNat = (s.port d 6).duty % 2 ^ 32) := by
  obtain ⟨hduty, hap⟩ := apRegs_notMem_tripRegs d
  refine completes_whileRuns hr (completes_next ?_)
  unfold State.bootUvClear
  rw [hok, if_pos rfl]
  refine ⟨?_, ?_⟩
  · rw [State.flag_of_get (State.refreshTrips_bootUv _ _), State.flag_of_cell (State.cell_setReg_ne _ _ _ _ hap),
      State.flag_setB_self _ _ _ (of_decide_eq_true rfl) Nat.one_pos]
  · rw [State.reg_of_cell (State.refreshTrips_cell _ _ _ hduty), State.reg_setReg_self, BitVec.toNat_ofNat]

/-! ### The refresh of the boot supply (R176, R177) -/

/-- The auxiliary port under no trip: bringing the trip groups up to date leaves it, and APSTAT. -/
theorem State.refreshTrips_aux {s : State} {d : Nat} (h : s.untripped d 6) :
    (s.refreshTrips d).port d 6 = s.port d 6 ∧ (s.refreshTrips d).cell (APB.APSTAT d) = s.cell (APB.APSTAT d) :=
  ⟨State.refreshTrips_port _ _ _ h, State.refreshTrips_portReg s d (j := 6) (by decide) h⟩

/-- R176, step 1: AHG off, and ALG due behind the dead time. -/
theorem apRefreshStart_starts (d : Fin 4) (s : State) (hw : s.refreshWanted d = true)
    (htrip : s.flag (TRIP.TGSTAT_TRIPPED d (s.tgOf d 6)) = false) (hr : s.mainRuns = true) :
    Completes (exec (.apRefreshStart d) s) (fun t => (t.port d 6).gh = false ∧ (t.port d 6).refresh = 1 ∧
      t.flag (APB.APSTAT_REF_ACT d) = true ∧ (t.port d 6).refWait = (s.reg (PORT.ACT_DT_FALL d 6)).toNat / 64 ∧
      (t.port d 6).refFine = (s.reg (PORT.ACT_DT_FALL d 6)).toNat % 64) := by
  have hd : s.dieRuns d = true := by
    simp only [State.refreshWanted, Bool.and_eq_true] at hw
    exact hw.1.1.1.1.2
  have hoff : ((s.turnOff d 6 true).port d 6).gh = false := s.turnOff_off d 6 true (by omega) hd
  have hcells := (((CellsSame.refl (memberReg d) s).turnOff (fun _ => memberReg_notMem_outRegs) 6 true).setB
    (f := APB.APSTAT_REF_ACT d) true (apstat_notMemberReg d)).modPort d 6 (fun p => { p with
      refresh := 1, refWait := (s.reg (PORT.ACT_DT_FALL d 6)).toNat / 64, refFine := (s.reg (PORT.ACT_DT_FALL d 6)).toNat % 64, pendOn := none })
  obtain ⟨hport, hap⟩ := State.refreshTrips_aux (State.untripped_of_cells htrip hcells)
  refine completes_whileRuns hr (completes_next ?_)
  rw [hw, if_pos rfl, hport, State.flag_of_cell (f := APB.APSTAT_REF_ACT d) hap, State.flag_of_get (State.get_modPort _ _ _ _ _),
    State.port_modPort_self _ _ _ _ (by omega), State.port_of_ports (State.setB_ports _ _ _)]
  exact ⟨hoff, rfl, State.flag_setB_self _ _ _ (of_decide_eq_true rfl) Nat.one_pos, rfl, rfl⟩

/-- R176, step 2: ALG on for REF_W ticks. -/
theorem apRefreshLowOn_turnsOn (d : Fin 4) (s : State) (h1 : (s.port d 6).refresh = 1) (hwait : (s.port d 6).refWait = 0)
    (hf : s.follows d 6 = true) (hd : s.dieRuns d = true) (hb : (s.port d 6).blocked = false) (hs : s.stoBranch d = false)
    (htrip : s.flag (TRIP.TGSTAT_TRIPPED d (s.tgOf d 6)) = false) (hr : s.mainRuns = true) :
    Completes (exec (.apRefreshLowOn d) s) (fun t => (t.port d 6).gl = true ∧ (t.port d 6).refresh = 2 ∧
      (t.port d 6).refWait = max 16 (s.get (APB.APREF_W_REF_W d))) := by
  obtain ⟨e, late, hplaced⟩ := s.placeEdge_eq d 6 (s.port d 6).refFine
  have hon := (s.modPort d 6 (fun p => { p with elem := e, late := late })).turnOn_on d 6 false (by omega) hd
    (by rw [State.port_modPort_self _ _ _ _ (by omega)]; exact hb) hs
  have hcells := (((CellsSame.refl (memberReg d) s).placeEdge d 6 (s.port d 6).refFine).turnOn (fun _ => memberReg_notMem_outRegs) 6 false).modPort
    d 6 (fun p => { p with refresh := 2, refWait := s.refW d })
  refine completes_whileRuns hr (completes_next ?_)
  rw [h1, hwait, hf, hd, if_pos (by decide), (State.refreshTrips_aux (State.untripped_of_cells htrip hcells)).1,
    State.port_modPort_self _ _ _ _ (by omega), hplaced]
  exact ⟨hon, rfl, rfl⟩

/-- R176, step 3: ALG is off, and the count restarts. -/
def State.refreshEnded (s : State) (d : Nat) : State :=
  (((s.placeEdge d 6 (s.port d 6).refFine).turnOff d 6 false).setB (APB.APSTAT_REF_ACT d) false).modPort d 6 (fun p => { p with
    refresh := 0, refCount := 0, refFine := 0 })

/-- What the end of a refresh shows of the auxiliary port: its low side, the refresh and its count. -/
def Port.refreshShown (p : Port) : Bool × Nat × Nat := (p.gl, p.refresh, p.refCount)

theorem Port.turnedOn_refreshShown (p : Port) (c : Nat) : (p.turnedOn true c).refreshShown = p.refreshShown :=
  congrArg (fun b => (b, p.refresh, p.refCount)) (Bool.or_false p.gl)

/-- A refresh that has ended, seen from the state `s` in which it ran: step 4 leaves it so. -/
structure RefreshOver (d : Nat) (s t : State) : Prop where
  shown : (t.port d 6).refreshShown = (false, 0, 0)
  notActive : t.flag (APB.APSTAT_REF_ACT d) = false
  members : CellsSame (memberReg d) s t

theorem State.refreshEnded_over (s : State) (d : Fin 4) (hd : s.dieRuns d = true) : RefreshOver d s (s.refreshEnded d) where
  shown := by
    have hlow : (((s.placeEdge d 6 (s.port d 6).refFine).turnOff d 6 false).port d 6).gl = false := by
      obtain ⟨e, late, hplaced⟩ := s.placeEdge_eq d 6 (s.port d 6).refFine
      rw [hplaced]
      exact State.turnOff_off _ d 6 false (by omega) hd
    unfold State.refreshEnded Port.refreshShown
    rw [State.port_modPort_self _ _ _ _ (by omega), State.port_of_ports (State.setB_ports _ _ _), hlow]
  notActive := by
    unfold State.refreshEnded
    rw [State.flag_of_get (State.get_modPort _ _ _ _ _), State.flag_setB_self _ _ _ (of_decide_eq_true rfl) Nat.one_pos]
  members := ((((CellsSame.refl (memberReg d) s).placeEdge d 6 _).turnOff (fun _ => memberReg_notMem_outRegs) 6 false).setB
    (f := APB.APSTAT_REF_ACT d) false (apstat_notMemberReg d)).modPort d 6 _

theorem RefreshOver.turnOn {d : Nat} {s t : State} (h : RefreshOver d s t) : RefreshOver d s (t.turnOn d 6 true) where
  shown := (State.turnOn_proj Port.refreshShown _ _ _ _ Port.turnedOn_refreshShown).trans h.shown
  notActive := (State.flag_of_cell (State.turnOn_cell _ _ _ _ _ (apstat_notMem_outRegs d))).trans h.notActive
  members := h.members.turnOn (fun _ => memberReg_notMem_outRegs) 6 true

theorem RefreshOver.modPort {d : Nat} {s t : State} (h : RefreshOver d s t) (f : Port → Port)
    (hf : ∀ p, (f p).refreshShown = p.refreshShown) : RefreshOver d s (t.modPort d 6 f) where
  shown := (t.modPort_proj Port.refreshShown d 6 d 6 hf).trans h.shown
  notActive := (State.flag_of_get (t.get_modPort d 6 f _)).trans h.notActive
  members := h.members.modPort d 6 f

/-- R176, steps 3 and 4: ALG off, and the refresh is over, whether AHG goes on again or not. -/
theorem apRefreshEnd_ends (d : Fin 4) (s : State) (h2 : (s.port d 6).refresh = 2) (hwait : (s.port d 6).refWait = 0)
    (hf : s.follows d 6 = true) (hd : s.dieRuns d = true) (htrip : s.flag (TRIP.TGSTAT_TRIPPED d (s.tgOf d 6)) = false)
    (hr : s.mainRuns = true) : Completes (exec (.apRefreshEnd d) s) (fun t => (t.port d 6).gl = false ∧ (t.port d 6).refresh = 0 ∧
      (t.port d 6).refCount = 0 ∧ t.flag (APB.APSTAT_REF_ACT d) = false) := by
  have hover := s.refreshEnded_over d hd
  refine completes_whileRuns hr (completes_next ?_)
  rw [h2, hwait, hf, hd, if_pos (by decide)]
  extract_lets fine u dt drives v
  have hv : RefreshOver d s v := by
    unfold v
    split
    · split
      · exact hover.turnOn
      · exact hover.modPort _ fun _ => rfl
    · exact hover
  clear_value v
  obtain ⟨hport, hap⟩ := State.refreshTrips_aux (State.untripped_of_cells htrip hv.members)
  have hshown := hv.shown
  rw [hport, State.flag_of_cell (f := APB.APSTAT_REF_ACT d) hap]
  exact ⟨congrArg Prod.fst hshown, congrArg (fun x => x.2.1) hshown, congrArg (fun x => x.2.2) hshown, hv.notActive⟩

/-- Settles O15: one lemma for each command and outcome. -/
theorem chopperAndAuxiliary : Obligations.ChopperAndAuxiliary :=
  ⟨chopEnWrite_written, chopperSwitch_follows, chopMinTimeEnd_follows, chopperSwitch_early, apBootUv_forces, bootOkRise_shows,
    apBootUvClear_restores, apRefreshStart_starts, apRefreshLowOn_turnsOn, apRefreshEnd_ends⟩

end Sys2Proof.Machine
end

section
/-! SUPPORT. What makes the sources of a trip group, the record of a trip and a clear (for O13). -/

namespace Sys2Proof.Machine

/-! ### Trip sources (R136) -/

/-- Registers of the trip block that no source of a trip group rests on: pin levels, the sources shown, the status. -/
def shownRegs (d : Nat) : List Nat := [TRIP.PINSTAT d, TRIP.SRCACT d 0, TRIP.SRCACT d 1, TRIP.TGSTAT d 0, TRIP.TGSTAT d 1]

/-- From `s` to `t` everything is as it was that a trip source of the die rests on. -/
structure SourcesSame (d : Nat) (s t : State) : Prop where
  cmps : t.cmps = s.cmps
  drives : t.drives = s.drives
  cells : CellsSame (fun a => a ∉ shownRegs d) s t

theorem csrc_notShown (d : Nat) {i : Nat} (h : i < 16) : TRIP.CSRC d i ∉ shownRegs d := by
  simp only [shownRegs, List.mem_cons, List.not_mem_nil, or_false, TRIP.CSRC, TRIP.PINSTAT, TRIP.SRCACT, TRIP.TGSTAT]
  omega

theorem cmp_notShown (d i : Nat) : CMP.CCFG d i ∉ shownRegs d ∧ CMP.CSTAT d i ∉ shownRegs d := by
  simp only [shownRegs, List.mem_cons, List.not_mem_nil, or_false, CMP.CCFG, CMP.CSTAT, TRIP.PINSTAT, TRIP.SRCACT, TRIP.TGSTAT]
  omega

theorem tripCfg_notShown (d k : Nat) : TRIP.TGCFG d k ∉ shownRegs d ∧ TRIP.SRCMASK d k ∉ shownRegs d := by
  simp only [shownRegs, List.mem_cons, List.not_mem_nil, or_false, TRIP.TGCFG, TRIP.SRCMASK, TRIP.PINSTAT, TRIP.SRCACT, TRIP.TGSTAT]
  omega

theorem fltstat_notShown (d : Nat) {j : Nat} (h : j < 6) : PORT.FLTSTAT d j ∉ shownRegs d := by
  simp only [shownRegs, List.mem_cons, List.not_mem_nil, or_false, PORT.FLTSTAT, TRIP.PINSTAT, TRIP.SRCACT, TRIP.TGSTAT]
  omega

theorem unit_notShown (d n : Nat) : APB.APSTAT d ∉ shownRegs d ∧ CLE.FLAGS d n ∉ shownRegs d := by
  simp only [shownRegs, List.mem_cons, List.not_mem_nil, or_false, APB.APSTAT, CLE.FLAGS, TRIP.PINSTAT, TRIP.SRCACT, TRIP.TGSTAT]
  omega

theorem die_notShown : ∀ d : Fin 4, (REGCTL.PAR_STAT_CFG_PARITY (Die.drive d)).addr ∉ shownRegs d ∧ SFN.SFSTAT_NET.addr ∉ shownRegs d := by
  decide

theorem SourcesSame.get {d : Nat} {s t : State} (h : SourcesSame d s t) {f : RF} (hf : f.addr ∉ shownRegs d) : t.get f = s.get f :=
  State.get_of_cell (h.cells _ hf)

theorem SourcesSame.flag {d : Nat} {s t : State} (h : SourcesSame d s t) {f : RF} (hf : f.addr ∉ shownRegs d) : t.flag f = s.flag f :=
  State.flag_of_get (h.get hf)

theorem SourcesSame.bit {d : Nat} {s t : State} (h : SourcesSame d s t) {f : RF} (hf : f.addr ∉ shownRegs d) (i : Nat) : t.bit f i = s.bit f i :=
  State.bit_of_get (h.get hf)

section
variable {d : Nat} {s t : State} (h : SourcesSame d s t)
include h

theorem SourcesSame.cmp (i : Nat) : t.cmp d i = s.cmp d i := by
  unfold State.cmp
  rw [h.cmps]

theorem SourcesSame.cmpInsel (i : Nat) : t.cmpInsel d i = s.cmpInsel d i := by
  obtain ⟨hcfg, _⟩ := cmp_notShown d i
  unfold State.cmpInsel
  rw [h.cmp, h.flag (f := CMP.CCFG_EN d i) hcfg, h.get (f := CMP.CCFG_INSEL d i) hcfg]

theorem SourcesSame.cmpMapped (k i : Nat) : t.cmpMapped d k i = s.cmpMapped d k i :=
  h.bit (f := TRIP.SRCMASK_CMP d k) (tripCfg_notShown d k).2 i

theorem SourcesSame.cuffed {i : Nat} (hi : i < 16) : t.cuffed d i = s.cuffed d i := by
  have hcsrc := csrc_notShown d hi
  have hpartner : t.get (TRIP.CSRC_PARTNER d i) = s.get (TRIP.CSRC_PARTNER d i) := h.get hcsrc
  have hq : s.get (TRIP.CSRC_PARTNER d i) < 16 := State.get_lt s (TRIP.CSRC_PARTNER d i)
  unfold State.cuffed
  dsimp only
  rw [hpartner, h.get (f := TRIP.CSRC_CUFF d i) hcsrc, h.get (f := TRIP.CSRC_PORT d i) hcsrc,
    h.get (f := TRIP.CSRC_CUFF d _) (csrc_notShown d hq), h.cmpInsel, h.cmpInsel, h.cmpMapped, h.cmpMapped, h.cmpMapped, h.cmpMapped]

theorem SourcesSame.cmpTrips {i : Nat} (hi : i < 16) : t.cmpTrips d i = s.cmpTrips d i := by
  obtain ⟨hcfg, hstat⟩ := cmp_notShown d i
  unfold State.cmpTrips
  rw [h.cmp, h.flag (f := CMP.CCFG_EN d i) hcfg, h.flag (f := CMP.CSTAT_CHK_ACT d i) hstat, h.cuffed hi, h.flag (f := CMP.CSTAT_OUT d i) hstat,
    h.drives, h.flag (f := CMP.CCFG_TRIP_LAT d i) hcfg, h.flag (f := CMP.CSTAT_LAT d i) hstat]

theorem SourcesSame.selectsUvlo (k : Nat) : t.selectsUvlo d k = s.selectsUvlo d k := by
  obtain ⟨hcfg, _⟩ := tripCfg_notShown d k
  unfold State.selectsUvlo
  rw [h.bit (f := TRIP.TGCFG_SUP_SEL d k) hcfg, h.get (f := TRIP.TGCFG_SUP_SEL d k) hcfg]

theorem SourcesSame.codeTrips (k code : Nat) : t.codeTrips d k code = s.codeTrips d k code := by
  unfold State.codeTrips
  rw [h.selectsUvlo]

end

theorem SourcesSame.faultCode {d : Nat} {s t : State} (h : SourcesSame d s t) {j : Nat} (hj : j < 6) :
    t.get (PORT.FLTSTAT_FLT_CODE d j) = s.get (PORT.FLTSTAT_FLT_CODE d j) := h.get (fltstat_notShown d hj)

theorem SourcesSame.bootUv {d : Nat} {s t : State} (h : SourcesSame d s t) :
    t.flag (APB.APSTAT_AP_BOOT_UV d) = s.flag (APB.APSTAT_AP_BOOT_UV d) := h.flag (unit_notShown d 0).1

theorem SourcesSame.cleOverrun {d : Nat} {s t : State} (h : SourcesSame d s t) (c : Nat) :
    t.flag (CLE.FLAGS_CLE_OVERRUN d c) = s.flag (CLE.FLAGS_CLE_OVERRUN d c) := h.flag (unit_notShown d c).2

theorem SourcesSame.cfgParity {d : Fin 4} {s t : State} (h : SourcesSame d s t) :
    t.flag (REGCTL.PAR_STAT_CFG_PARITY (Die.drive d)) = s.flag (REGCTL.PAR_STAT_CFG_PARITY (Die.drive d)) := h.flag (die_notShown d).1

theorem SourcesSame.stoBranch {d : Fin 4} {s t : State} (h : SourcesSame d s t) : t.stoBranch d = s.stoBranch d := h.bit (die_notShown d).2 d

/-- R136: comparators, driver faults and the other sources of a die rest on nothing that its trip groups show. -/
theorem SourcesSame.sourceActive {d : Fin 4} {s t : State} (h : SourcesSame d s t) (k n : Nat) : t.sourceActive d k n = s.sourceActive d k n := by
  unfold State.sourceActive
  by_cases hcmp : n < 0x10
  case pos => rw [if_pos hcmp, if_pos hcmp, h.cmpTrips hcmp]
  case neg =>
    by_cases hflt : n < 0x16
    case pos =>
      have hj : n - 0x10 < 6 := by omega
      rw [if_neg hcmp, if_neg hcmp, if_pos hflt, if_pos hflt, h.codeTrips, h.faultCode hj]
    case neg =>
      rw [if_neg hcmp, if_neg hcmp, if_neg hflt, if_neg hflt, h.bootUv, h.selectsUvlo, h.drives, h.cleOverrun, h.cfgParity, h.stoBranch]

theorem SourcesSame.activeSources {d : Fin 4} {s t : State} (h : SourcesSame d s t) (k : Nat) : t.activeSources d k = s.activeSources d k := by
  unfold State.activeSources
  rw [State.reg_of_cell (h.cells _ (tripCfg_notShown d k).2)]
  simp only [h.sourceActive]

/-- Showing the sources of an untripped group changes none. -/
theorem State.refreshGroup_sourcesSame (s : State) (d : Nat) {k : Nat} (hk : k < 2) (h : s.flag (TRIP.TGSTAT_TRIPPED d k) = false) :
    SourcesSame d s (s.refreshGroup d k) := by
  have hshown : TRIP.SRCACT d k ∈ shownRegs d ∧ TRIP.TGSTAT d k ∈ shownRegs d := by
    obtain rfl | rfl : k = 0 ∨ k = 1 := by omega
    · simp [shownRegs]
    · simp [shownRegs]
  rw [State.refreshGroup_untripped s d k h]
  unfold State.refreshCfgErr
  extract_lets now was t
  refine ⟨?_, ?_, ?_⟩
  · rw [apply_ite State.cmps, State.setB_cmps, ite_self, State.modTg_cmps, State.setReg_cmps]
  · rw [apply_ite State.drives, State.setB_drives, ite_self, State.modTg_drives, State.setReg_drives]
  · have ht : CellsSame (fun a => a ∉ shownRegs d) s t :=
      ((CellsSame.refl _ s).setReg _ (fun hn => hn hshown.1)).of_regs (State.modTg_regs _ _ _ _)
    exact (ht.setB _ (fun hn => hn hshown.2)).ite ht

/-- A group that is not tripped shows its sources in SRC_ACT. -/
theorem State.refreshGroup_srcAct (s : State) (d k : Nat) (h : s.flag (TRIP.TGSTAT_TRIPPED d k) = false) :
    (s.refreshGroup d k).reg (TRIP.SRCACT d k) = BitVec.ofNat 32 (s.activeSources d k) := by
  have hne : TRIP.SRCACT d k ≠ TRIP.TGSTAT d k := by
    simp only [TRIP.SRCACT, TRIP.TGSTAT]
    omega
  rw [State.refreshGroup_untripped s d k h, State.reg_of_cell (State.refreshCfgErr_cell _ _ _ hne), State.reg_setReg_self]

/-- R152: so do both groups of a die whose clock runs. -/
theorem State.refreshTrips_srcAct (s : State) (d : Fin 4) (k : Fin 2) (hclk : (vget s.drives d).clockStopped = false)
    (h0 : s.flag (TRIP.TGSTAT_TRIPPED d 0) = false) (h1 : s.flag (TRIP.TGSTAT_TRIPPED d 1) = false) :
    (s.refreshTrips d).reg (TRIP.SRCACT d k) = BitVec.ofNat 32 (s.activeSources d k) := by
  have h1' : (s.refreshGroup d 0).flag (TRIP.TGSTAT_TRIPPED d 1) = false := (State.refreshGroup_tripped s d 0 1).trans h1
  have hne : TRIP.SRCACT d 0 ≠ TRIP.SRCACT d 1 ∧ TRIP.SRCACT d 0 ≠ TRIP.TGSTAT d 1 := by
    simp only [TRIP.SRCACT, TRIP.TGSTAT]
    omega
  unfold State.refreshTrips
  rw [hclk, if_neg Bool.false_ne_true]
  match k with
  | 0 =>
    rw [State.refreshGroup_untripped (s.refreshGroup d 0) d 1 h1']
    exact (State.reg_of_cell (State.setReg_refreshCfgErr_cell _ _ _ _ _ _ hne.1 hne.2)).trans (s.refreshGroup_srcAct d 0 h0)
  | 1 =>
    exact (State.refreshGroup_srcAct _ d 1 h1').trans (congrArg _ ((s.refreshGroup_sourcesSame d (by decide) h0).activeSources 1))

/-! ### The record of a trip (R137, R152) -/

/-- Registers that a trip of a group writes beside its first-cause vector and its status. -/
def tripWritten (d k : Nat) : List Nat :=
  [TRIP.SRCACT d k, TRIP.FCTIME_LO d k, TRIP.FCTIME_HI d k, KPR.KQ, APB.APSTAT d] ++ (List.range 8).map (TRIP.FCENT d k) ++ gridRegs d

/-- The fields of its status that it writes beside TRIPPED. -/
def tripStatus (d k : Nat) : List RF := [TRIP.TGSTAT_FC_NUM d k, TRIP.TGSTAT_FC_OVF d k, TRIP.TGSTAT_TRIP_CNT d k, TRIP.TGSTAT_ASC_ACT d k]

theorem notMem_tripWritten {d k a : Nat} (h : a ∉ tripWritten d k) : a ≠ TRIP.SRCACT d k ∧ a ≠ TRIP.FCTIME_LO d k ∧ a ≠ TRIP.FCTIME_HI d k ∧
    a ≠ KPR.KQ ∧ a ≠ APB.APSTAT d ∧ (∀ i < 8, a ≠ TRIP.FCENT d k i) ∧ a ∉ gridRegs d := by
  simp only [tripWritten, List.mem_append, List.mem_cons, List.mem_map, List.mem_range, List.not_mem_nil, or_false, not_or, not_exists,
    not_and] at h
  obtain ⟨⟨⟨h1, h2, h3, h4, h5⟩, hent⟩, hgrid⟩ := h
  exact ⟨h1, h2, h3, h4, h5, fun i hi e => hent i hi e.symm, hgrid⟩

theorem State.writeCause_cell (s : State) (d k i : Nat) (order : List Nat) {a : Nat} (h : a ≠ TRIP.FCENT d k i) :
    (s.writeCause d k order i).cell a = s.cell a := by
  unfold State.writeCause
  split
  · exact State.cell_setReg_ne _ _ _ _ h
  · exact State.cell_setReg_ne _ _ _ _ h

theorem State.recordCauses_get (s : State) (d k act : Nat) {g : RF} (hr : g.addr ∉ tripWritten d k) (hf : ∀ f ∈ tripStatus d k, f.apart g = true) :
    (s.recordCauses d k act).get g = (s.setReg (TRIP.FCVEC d k) (BitVec.ofNat 32 act)).get g := by
  obtain ⟨_, hlo, hhi, _, _, hent, _⟩ := notMem_tripWritten hr
  unfold State.recordCauses
  extract_lets order t1 t2 t3
  calc
    _ = t3.get g := State.get_of_cell (foldOver_cell _ _ _ _ fun i hi t => State.writeCause_cell t d k i _ (hent i (List.mem_range.1 hi)))
    _ = (t2.set (TRIP.TGSTAT_FC_NUM d k) (min order.length 255)).get g := State.get_setB_apart _ _ (hf _ (by simp [tripStatus]))
    _ = t2.get g := State.get_set_apart _ _ (hf _ (by simp [tripStatus]))
    _ = (t1.set (TRIP.FCTIME_LO_FCT_LO d k) (s.ttime d)).get g := State.get_of_cell (State.cell_set_ne _ _ _ _ hhi)
    _ = t1.get g := State.get_of_cell (State.cell_set_ne _ _ _ _ hlo)

/-- What a trip leaves of a field that is in none of the registers above: its first-cause vector and TRIPPED as the trip writes them. -/
theorem State.trip_get (s : State) (d k act : Nat) {g : RF} (hr : g.addr ∉ tripWritten d k) (hf : ∀ f ∈ tripStatus d k, f.apart g = true) :
    (s.trip d k act).get g = (((s.setReg (TRIP.SRCACT d k) (BitVec.ofNat 32 act)).setB (TRIP.TGSTAT_TRIPPED d k) true).setReg (TRIP.FCVEC d k)
      (BitVec.ofNat 32 act)).get g := by
  obtain ⟨_, _, _, hkq, hap, _, hgrid⟩ := notMem_tripWritten hr
  have hout : g.addr ∉ outRegs d := fun h => hgrid (List.mem_append_right _ h)
  unfold State.trip
  extract_lets s1 s2 s3 s4 s5
  calc
    _ = _ := State.get_of_cell (State.refreshGrid_cell _ _ _ hgrid)
    _ = _ := State.get_setB_apart _ _ (hf _ (by simp [tripStatus]))
    _ = s5.get g := State.get_of_cell (foldOver_cell _ _ _ _ fun j _ t => State.enterSafe_cell_of_outRegs t d j _ _ hap hout)
    _ = (s4.countEvent _).get g := State.get_of_cell (State.enterFault_cell _ _ _ _ _ _ _ hkq)
    _ = s4.get g := State.get_of_cell (State.countEvent_cell _ _ _)
    _ = s3.get g := State.get_of_cell (State.send_cell _ _ _)
    _ = s2.get g := State.get_incSat_apart _ (hf _ (by simp [tripStatus]))
    _ = _ := State.recordCauses_get _ d k act hr hf

/-- A group is tripped, and its first-cause vector holds the sources `act`. -/
def State.tripShown (s : State) (d k act : Nat) : Prop :=
  s.flag (TRIP.TGSTAT_TRIPPED d k) = true ∧ s.get ⟨TRIP.FCVEC d k, 0, 32⟩ = act % 2 ^ 32

theorem fcvec_outside : ∀ (d : Fin 4), ∀ k < 2, ∀ q < 2, TRIP.FCVEC d q ∉ tripWritten d k ∧
    (∀ f ∈ tripStatus d k, f.apart ⟨TRIP.FCVEC d q, 0, 32⟩ = true) := by decide +kernel

theorem tripped_outside : ∀ (d : Fin 4), ∀ k < 2, ∀ q < 2, TRIP.TGSTAT d q ∉ tripWritten d k ∧
    (∀ f ∈ tripStatus d k, f.apart (TRIP.TGSTAT_TRIPPED d q) = true) := by decide +kernel

theorem fcvec_notMem_tripRegs : ∀ (d : Fin 4), ∀ k < 2, TRIP.FCVEC d k ∉ tripRegs d := by decide

theorem tripRegs_distinct (d k q : Nat) : TRIP.TGSTAT d q ≠ TRIP.FCVEC d k ∧
    TRIP.SRCACT d k ≠ TRIP.FCVEC d q ∧ TRIP.SRCACT d k ≠ TRIP.TGSTAT d q ∧
    (q ≠ k → TRIP.TGSTAT d q ≠ TRIP.TGSTAT d k ∧ TRIP.FCVEC d q ≠ TRIP.FCVEC d k) := by
  simp only [TRIP.TGSTAT, TRIP.FCVEC, TRIP.SRCACT]
  omega

/-- R137, R152: a trip shows. -/
theorem State.trip_shows (s : State) (d : Fin 4) {k : Nat} (hk : k < 2) (act : Nat) : (s.trip d k act).tripShown d k act := by
  obtain ⟨hvec, hvec'⟩ := fcvec_outside d k hk k hk
  obtain ⟨hstat, hstat'⟩ := tripped_outside d k hk k hk
  obtain ⟨hne, _⟩ := tripRegs_distinct d k k
  refine ⟨?_, ?_⟩
  · rw [State.flag_of_get (s.trip_get d k act hstat hstat'), State.flag_of_cell (State.cell_setReg_ne _ _ _ _ hne),
      State.flag_setB_self _ _ _ (of_decide_eq_true rfl) Nat.one_pos]
  · rw [s.trip_get d k act hvec hvec', State.get_setReg_self _ ⟨TRIP.FCVEC d k, 0, 32⟩]
    unfold getBits
    rw [BitVec.toNat_ofNat, Nat.shiftRight_zero, Nat.mod_mod]

/-- A trip of the die's other group leaves it. -/
theorem State.tripShown.trip {s : State} {d : Fin 4} {k q act : Nat} (h : s.tripShown d q act) (hk : k < 2) (hq : q < 2) (hne : q ≠ k)
    (other : Nat) : (s.trip d k other).tripShown d q act := by
  obtain ⟨hvec, hvec'⟩ := fcvec_outside d k hk q hq
  obtain ⟨hstat, hstat'⟩ := tripped_outside d k hk q hq
  obtain ⟨hstatVec, hactVec, hactStat, hother⟩ := tripRegs_distinct d k q
  obtain ⟨hvecStat, _⟩ := tripRegs_distinct d q k
  obtain ⟨hstats, hvecs⟩ := hother hne
  obtain ⟨htrip, hact⟩ := h
  refine ⟨?_, ?_⟩
  · rw [State.flag_of_get (s.trip_get d k other hstat hstat'), State.flag_of_cell (State.cell_setReg_ne _ _ _ _ hstatVec),
      State.flag_of_cell (State.cell_setB_ne _ _ _ _ hstats), State.flag_of_cell (State.cell_setReg_ne _ _ _ _ hactStat.symm), htrip]
  · rw [s.trip_get d k other hvec hvec', State.get_of_cell (State.cell_setReg_ne _ _ _ _ hvecs),
      State.get_of_cell (State.cell_setB_ne _ _ _ _ hvecStat.symm), State.get_of_cell (State.cell_setReg_ne _ _ _ _ hactVec.symm), hact]

theorem State.tripShown.refreshTrips {s : State} {d : Fin 4} {k act : Nat} (hk : k < 2) (h : s.tripShown d k act) :
    (s.refreshTrips d).tripShown d k act := by
  obtain ⟨htrip, hact⟩ := h
  exact ⟨(s.refreshTrips_tripped d k).trans htrip, (State.get_of_cell (State.refreshTrips_cell _ _ _ (fcvec_notMem_tripRegs d k hk))).trans hact⟩

/-- R137, R154: a group with a cause trips by it in the tick that judges the die. -/
theorem State.tripDie_shows (s : State) (d : Fin 4) {k : Nat} (hk : k < 2) (h : s.tripCause d k ≠ 0) :
    (s.tripDie d).tripShown d k (s.tripCause d k) := by
  unfold State.tripDie
  extract_lets a b t1 t2
  have h2 : t2.tripShown d k (s.tripCause d k) := by
    unfold t2
    obtain rfl | rfl : k = 0 ∨ k = 1 := by omega
    case inl =>
      have h1 : t1.tripShown d 0 a := by
        unfold t1
        rw [if_neg h]
        exact s.trip_shows d hk a
      split
      · exact h1
      · exact h1.trip (by decide) hk (by decide) b
    case inr =>
      rw [if_neg h]
      exact t1.trip_shows d hk b
  split
  · exact h2
  · exact h2.refreshTrips hk

end Sys2Proof.Machine
end

section
/-! SUPPORT. A port of a trip group that is brought up to date or cleared (for O13). -/

namespace Sys2Proof.Machine

/-! ### A port that takes a safe state -/

/-- The safe state of a port, with the turn-on of an active short circuit that waits. -/
def Port.safeWait (p : Port) : PortSafe × Option TurnOn := (p.safe, p.ascWait)

/-- A safe state that is no active short circuit leaves no turn-on waiting (R142). -/
theorem State.enterSafe_safeWait (s : State) (d j : Nat) (p : PortSafe) (hj : 7 * d + j < 28) (hp : p.isAsc = false) :
    ((s.enterSafe d j p).port d j).safeWait = (p, none) := by
  have hoff : ∀ (t : State) high, ((t.turnOffIn d j high true).port d j).safeWait = (t.port d j).safeWait := fun t high =>
    t.turnOffIn_proj Port.safeWait d j high true (fun _ => by cases high <;> rfl) (fun _ => rfl)
  unfold State.enterSafe
  extract_lets s1 s2
  have h1 : (s1.port d j).safeWait = (p, none) := by
    unfold s1
    rw [State.port_modPort_self _ _ _ _ hj]
    rfl
  have h2 : (s2.port d j).safeWait = (p, none) := by
    rw [← h1]
    refine congrArg Port.safeWait (State.port_of_ports ?_ d j)
    unfold s2
    rw [apply_ite State.ports, State.setB_ports, ite_self]
  clear_value s2
  cases p
  case ascLow => exact absurd hp (by decide)
  case ascHigh => exact absurd hp (by decide)
  case none => exact h2
  case chopper => exact h2
  case opened => exact (hoff _ _).trans ((hoff _ _).trans h2)
  case auxLow => exact (State.turnOn_proj Port.safeWait _ _ _ _ (fun _ _ => rfl)).trans ((hoff _ _).trans h2)

/-- Where the safe state of a port changes within a trip it becomes none of the active short circuits (R144, R175). -/
theorem State.safeNow_isAsc (s : State) (d k j act : Nat) (h : s.safeNow d k j act ≠ (s.port d j).safe) :
    (s.safeNow d k j act).isAsc = false := by
  revert h
  unfold State.safeNow State.auxTarget
  dsimp only
  split_ifs with h1 h2 h3 h4 h5
  · exact fun _ => rfl
  · exact fun _ => rfl
  · exact fun h => absurd rfl h
  · exact fun _ => rfl
  · exact fun _ => rfl
  · exact fun h => absurd rfl h

/-- A pass for number `j`, made once, turns `P` into `Q`; the others keep both. -/
theorem foldOver_once {P Q : State → Prop} {l : List Nat} {j : Nat} (f : Nat → State → State) (s : State) (hl : l.Nodup) (hj : j ∈ l) (hs : P s)
    (hP : ∀ i ≠ j, ∀ t, P t → P (f i t)) (hPQ : ∀ t, P t → Q (f j t)) (hQ : ∀ i ≠ j, ∀ t, Q t → Q (f i t)) : Q (foldOver l f s) := by
  obtain ⟨a, b, rfl⟩ := List.append_of_mem hj
  obtain ⟨_, hb, hab⟩ := List.nodup_append.1 hl
  have hb' : j ∉ b := (List.nodup_cons.1 hb).1
  have ha' : j ∉ a := fun h => hab j h j List.mem_cons_self rfl
  have hsplit : foldOver (a ++ j :: b) f s = foldOver b f (f j (foldOver a f s)) := by
    unfold foldOver
    rw [List.foldl_append, List.foldl_cons]
  rw [hsplit]
  refine foldOver_preserves b f _ (hPQ _ (foldOver_preserves a f s hs fun i hi => hP i ?_)) fun i hi => hQ i ?_
  · rintro rfl
    exact ha' hi
  · rintro rfl
    exact hb' hi

/-- A port before and after its trip group is brought up to date: as it was, or in another safe state with no turn-on waiting. -/
def Port.keptOrOther (p q : Port) : Prop := q = p ∨ (q.safe ≠ p.safe ∧ q.ascWait = none)

theorem State.recheckSafe_port (s : State) (d k j act : Nat) (hj : 7 * d + j < 28) (hj7 : j ∈ s.tgPorts d k) :
    (s.port d j).keptOrOther ((s.recheckSafe d k act).port d j) := by
  have hnodup : (s.tgPorts d k).Nodup := List.Nodup.filter _ List.nodup_range
  have hother : ∀ i ≠ j, ∀ t : State,
      (if t.safeNow d k i act = (t.port d i).safe then t else t.enterSafe d i (t.safeNow d k i act)).port d j = t.port d j := by
    intro i hi t
    split
    · rfl
    · exact (t.enterSafe_onlyPort d i _).port hi.symm
  unfold State.recheckSafe State.refreshAsc
  rw [State.port_of_ports (State.setB_ports _ _ _)]
  refine foldOver_once (P := fun t => t.port d j = s.port d j) (Q := fun t => (s.port d j).keptOrOther (t.port d j)) _ _ hnodup hj7 rfl
    (fun i hi t ht => (hother i hi t).trans ht) (fun t ht => ?_) (fun i hi t ht => ?_)
  · dsimp only
    split
    case isTrue => exact .inl ht
    case isFalse hnow =>
      have hsafe := t.enterSafe_safeWait d j _ hj (t.safeNow_isAsc d k j act hnow)
      refine .inr ⟨?_, congrArg Prod.snd hsafe⟩
      rw [show ((t.enterSafe d j (t.safeNow d k j act)).port d j).safe = _ from congrArg Prod.fst hsafe, ← ht]
      exact hnow
  · dsimp only
    rw [hother i hi t]
    exact ht

/-- R144: what bringing a trip group up to date does to a port. -/
theorem State.refreshGroup_port_cases (s : State) (d k j : Nat) (hk : k < 2) (hj : 7 * d + j < 28) (hj7 : j < 7) :
    (s.port d j).keptOrOther ((s.refreshGroup d k).port d j) := by
  by_cases hmember : s.tgOf d j = k
  case neg => exact .inl (State.refreshGroup_port s d k j hk fun h => absurd h hmember)
  case pos =>
    cases htrip : s.flag (TRIP.TGSTAT_TRIPPED d k)
    case false => exact .inl (State.refreshGroup_port s d k j hk fun _ => htrip)
    case true =>
      have hmem : j ∈ ((s.setReg (TRIP.SRCACT d k) (BitVec.ofNat 32 (s.activeSources d k))).refreshCfgErr d k).tgPorts d k :=
        State.mem_tgPorts.2 ⟨hj7, (s.setReg_refreshCfgErr_tgOf d hk _ j).trans hmember⟩
      unfold State.refreshGroup
      dsimp only
      rw [State.setReg_refreshCfgErr_tripped, htrip, if_pos rfl,
        ← State.port_of_ports (State.setReg_refreshCfgErr_ports s d k (TRIP.SRCACT d k) (BitVec.ofNat 32 (s.activeSources d k))) d j]
      exact State.recheckSafe_port _ d k j _ hj hmem

/-- The same for the die: a port is a member of one group. -/
theorem State.refreshTrips_port_cases (s : State) (d j : Nat) (hj : 7 * d + j < 28) (hj7 : j < 7) :
    (s.port d j).keptOrOther ((s.refreshTrips d).port d j) := by
  unfold State.refreshTrips
  split
  case isTrue => exact .inl rfl
  case isFalse =>
    by_cases htg : s.tgOf d j = 0
    case pos =>
      have hother : (s.refreshGroup d 0).tgOf d j ≠ 1 := by
        rw [s.refreshGroup_tgOf d 0 j (by decide), htg]
        decide
      rw [State.refreshGroup_port _ d 1 j (by decide) fun h => absurd h hother]
      exact s.refreshGroup_port_cases d 0 j (by decide) hj hj7
    case neg =>
      rw [← State.refreshGroup_port s d 0 j (by decide) fun h => absurd h htg]
      exact State.refreshGroup_port_cases _ d 1 j (by decide) hj hj7

/-! ### A clear (R160, R163) -/

/-- What a clear looks at of the driver faults: a used FLTn of a member that is low (R133). -/
def State.clearBlocked (s : State) (d k : Nat) : Bool :=
  (s.tgPorts d k).any fun j => decide (j < 6) && s.flag (PORT.PCFG_FLT_USE d j) && !s.flag (PORT.FLTSTAT_FLT_LINE d j)

/-- A member port of a group that is cleared: a chopper is free at once, any other keeps its safe state until its next edge (R150). -/
def State.portCleared (s : State) (d j : Nat) : State :=
  if s.chopperRole d j then s.modPort d j (fun p => { p with held := false, safe := .none })
  else s.modPort d j (fun p => { p with held := true })

/-- A group cleared. -/
def State.cleared (s : State) (d k : Nat) : State :=
  (foldOver (s.tgPorts d k) (fun j t => t.portCleared d j) (s.setB (TRIP.TGSTAT_TRIPPED d k) false)).refreshGrid d

theorem State.clearAttempt_eq (s : State) (d k : Nat) (h : s.flag (TRIP.TGSTAT_TRIPPED d k) = true) : s.clearAttempt d k =
    if decide (s.activeSources d k ≠ 0) || s.clearBlocked d k then s.setB (TRIP.TGSTAT_TRIP_CLR_REJ d k) true else s.cleared d k := by
  unfold State.clearAttempt
  rw [h]
  rfl

/-- R160: an active source refuses the clear. -/
theorem State.clearAttempt_refused (s : State) (d k : Nat) (h : s.flag (TRIP.TGSTAT_TRIPPED d k) = true) (ha : s.activeSources d k ≠ 0) :
    s.clearAttempt d k = s.setB (TRIP.TGSTAT_TRIP_CLR_REJ d k) true := by
  rw [s.clearAttempt_eq d k h, decide_eq_true ha, Bool.true_or, if_pos rfl]

/-- R163: nothing that stands against it, and the group is cleared. -/
theorem State.clearAttempt_cleared (s : State) (d k : Nat) (h : s.flag (TRIP.TGSTAT_TRIPPED d k) = true) (ha : s.activeSources d k = 0)
    (hb : s.clearBlocked d k = false) : s.clearAttempt d k = s.cleared d k := by
  rw [s.clearAttempt_eq d k h, ha, hb]
  rfl

theorem State.portCleared_cell (s : State) (d j a : Nat) : (s.portCleared d j).cell a = s.cell a := by
  unfold State.portCleared
  split <;> exact State.modPort_cell _ _ _ _ _

theorem State.portCleared_chopperRole (s : State) (d i j : Nat) : (s.portCleared d i).chopperRole d j = s.chopperRole d j := by
  unfold State.chopperRole
  rw [State.flag_of_cell (s.portCleared_cell d i _)]

theorem State.portCleared_onlyPort (s : State) (d j : Nat) : OnlyPort d j s (s.portCleared d j) := by
  unfold State.portCleared
  split <;> exact .of_vmod (State.modPort_ports _ _ _ _)

/-- A cleared group is tripped no more. -/
theorem State.cleared_tripped (s : State) (d k : Nat) : (s.cleared d k).flag (TRIP.TGSTAT_TRIPPED d k) = false := by
  have hgrid : TRIP.TGSTAT d k ∉ gridRegs d := by
    rw [gridRegs, List.mem_append, not_or]
    refine ⟨?_, (tgstat_notMem_outRegs d k).2⟩
    simp only [List.mem_cons, List.not_mem_nil, or_false, TRIP.TGSTAT, RTS.RC_SEC, RTS.RTSTAT, GSU.GSTAT]
    omega
  unfold State.cleared
  rw [State.flag_of_cell (State.refreshGrid_cell _ _ _ hgrid), State.flag_of_cell (foldOver_cell _ _ _ _ fun j _ t => t.portCleared_cell d j _),
    State.flag_setB_self _ _ _ (of_decide_eq_true rfl) Nat.one_pos]

/-- The safe state of a port and whether it holds until the next edge. -/
def Port.safeHeld (p : Port) : PortSafe × Bool := (p.safe, p.held)

theorem State.refreshVote_ports (s : State) (d : Nat) : (s.refreshVote d).ports = s.ports :=
  have : Open (fun p => p = .ports) .regs := open_of_eq (by decide)
  have : Open (fun p => p = .ports) .grids := open_of_eq (by decide)
  (State.refreshVote_keeps (F := fun p => p = .ports) (Keeps.refl _ s) d).same .ports rfl

/-- The grid block leaves the safe states of the ports. -/
theorem State.refreshBlock_safeHeld (s : State) (d j : Nat) : ((s.refreshBlock d).port d j).safeHeld = (s.port d j).safeHeld := by
  have hoff : ∀ (t : State) i high, ((t.turnOffIn d i high true).port d j).safeHeld = (t.port d j).safeHeld := by
    intro t i high
    by_cases hi : j = i
    · subst hi
      exact t.turnOffIn_proj Port.safeHeld d j high true (fun _ => by cases high <;> rfl) (fun _ => rfl)
    · rw [(t.turnOffIn_onlyPort d i high true).port hi]
  have hmod : ∀ (t : State) i (f : Port → Port), (∀ x, (f x).safeHeld = x.safeHeld) → ((t.modPort d i f).port d j).safeHeld = (t.port d j).safeHeld :=
    fun t i _ hf => t.modPort_proj Port.safeHeld d j d i hf
  unfold State.refreshBlock
  extract_lets want ports s1 s2
  have h2 : (s2.port d j).safeHeld = (s.port d j).safeHeld := by
    refine congrArg Port.safeHeld (State.port_of_ports ?_ d j)
    unfold s2
    rw [apply_ite State.ports, State.modGrid_ports, ite_self, State.setB_ports]
  clear_value s2
  refine foldOver_preserves (P := fun t => (t.port d j).safeHeld = (s.port d j).safeHeld) _ _ _ h2 fun i _ t ht => ?_
  extract_lets b t1
  refine (hmod t1 i _ ?_).trans (Eq.trans ?_ ht)
  · exact fun _ => rfl
  unfold t1
  split
  · refine (hmod _ i _ ?_).trans ((hoff _ i false).trans (hoff t i true))
    exact fun _ => rfl
  · rfl

theorem State.refreshGrid_safeHeld (s : State) (d j : Nat) : ((s.refreshGrid d).port d j).safeHeld = (s.port d j).safeHeld := by
  unfold State.refreshGrid
  rw [State.refreshBlock_safeHeld, State.port_of_ports (s.refreshVote_ports d)]

/-- R163: a member of a cleared group that is no chopper keeps its safe state until its next command edge. -/
theorem State.cleared_safeHeld (s : State) (d : Nat) {k j : Nat} (hj : 7 * d + j < 28) (hmem : j ∈ s.tgPorts d k)
    (hchop : s.chopperRole d j = false) : ((s.cleared d k).port d j).safeHeld = ((s.port d j).safe, true) := by
  have hpcfg : PORT.PCFG d j ≠ TRIP.TGSTAT d k := by
    simp only [PORT.PCFG, TRIP.TGSTAT]
    omega
  have hstart : (s.setB (TRIP.TGSTAT_TRIPPED d k) false).chopperRole d j = false ∧
      ((s.setB (TRIP.TGSTAT_TRIPPED d k) false).port d j).safe = (s.port d j).safe := by
    refine ⟨?_, by rw [State.port_of_ports (State.setB_ports _ _ _)]⟩
    unfold State.chopperRole
    rw [State.flag_of_cell (State.cell_setB_ne _ _ _ _ hpcfg)]
    exact hchop
  unfold State.cleared
  rw [State.refreshGrid_safeHeld]
  refine foldOver_once (P := fun t => t.chopperRole d j = false ∧ (t.port d j).safe = (s.port d j).safe)
    (Q := fun t => (t.port d j).safeHeld = ((s.port d j).safe, true)) _ _ (List.Nodup.filter _ List.nodup_range) hmem hstart
    (fun i hi t ht => ?_) (fun t ht => ?_) (fun i hi t ht => ?_)
  · rw [t.portCleared_chopperRole, (t.portCleared_onlyPort d i).port hi.symm]
    exact ht
  · obtain ⟨hrole, hsafe⟩ := ht
    unfold State.portCleared
    rw [hrole, if_neg Bool.false_ne_true, State.port_modPort_self _ _ _ _ hj, ← hsafe]
    rfl
  · rw [(t.portCleared_onlyPort d i).port hi.symm]
    exact ht

end Sys2Proof.Machine
end

section
/-! SUPPORT and the obligation on trips and clears (O13). -/

namespace Sys2Proof.Machine

/-! ### Trips (R137, R152) -/

theorem State.get_word (s : State) (a : Nat) : s.get ⟨a, 0, 32⟩ = (s.reg a).toNat := by
  unfold State.get getBits
  rw [Nat.shiftRight_zero, Nat.mod_eq_of_lt (s.reg a).isLt]

/-- R137: a group that is not tripped, in a die whose clock runs, has its active sources as causes. -/
theorem State.tripCause_eq (s : State) (d k : Nat) (h : s.flag (TRIP.TGSTAT_TRIPPED d k) = false) (hclk : (vget s.drives d).clockStopped = false) :
    s.tripCause d k = s.activeSources d k := by
  unfold State.tripCause
  rw [h, hclk]
  rfl

theorem tripGroupTrip_trips (d : Fin 4) (k : Fin 2) (s : State) (h : s.flag (TRIP.TGSTAT_TRIPPED d k) = false)
    (hclk : (vget s.drives d).clockStopped = false) (ha : s.activeSources d k ≠ 0) (hr : s.mainRuns = true) :
    Completes (exec (.tripGroupTrip d k) s) (fun t => t.flag (TRIP.TGSTAT_TRIPPED d k) = true ∧
      (t.reg (TRIP.FCVEC d k)).toNat = s.activeSources d k % 2 ^ 32) := by
  have hcause := s.tripCause_eq d k h hclk
  have hne : s.tripCause d k ≠ 0 := by
    rw [hcause]
    exact ha
  obtain ⟨htrip, hact⟩ := s.tripDie_shows d k.isLt hne
  rw [hcause, State.get_word] at hact
  refine completes_whileRuns hr (completes_next ?_)
  rw [if_neg hne]
  exact ⟨htrip, hact⟩

/-! ### Writes to a trip group (R135, R139, R164) -/

theorem tripCfg_notMem_tripRegs : ∀ (d : Fin 4), TRIP.MEMBERS d ∉ tripRegs d ∧ TRIP.PINSTAT d ∉ tripRegs d ∧
    (∀ k : Fin 2, TRIP.SRCMASK d k ∉ tripRegs d) := by decide

theorem xor_seven_bits : ∀ m < 128, 127 ^^^ m = 127 - m := by decide

/-- R135: the members of group 1 as written, the driver faults of the ports mapped to their groups. -/
theorem membersWrite_applied (d : Fin 4) (m : BitVec 7) (s : State) (h0 : s.flag (TRIP.TGSTAT_TRIPPED d 0) = true)
    (h1 : s.flag (TRIP.TGSTAT_TRIPPED d 1) = true) (hr : s.mainRuns = true) :
    Completes (exec (.membersWrite d m) s) (fun t => t.get (TRIP.MEMBERS_MEMB1 d) = m.toNat ∧ t.get (TRIP.SRCMASK_PORTSRC d 1) = m.toNat ∧
      t.get (TRIP.SRCMASK_PORTSRC d 0) = 127 - m.toNat) := by
  obtain ⟨hmem, _, hmask⟩ := tripCfg_notMem_tripRegs d
  have hm : m.toNat < 128 := m.isLt
  have hbits : getBits (BitVec.ofNat 32 m.toNat) 0 7 = m.toNat := by
    unfold getBits
    rw [BitVec.toNat_ofNat, Nat.shiftRight_zero]
    omega
  have hne : TRIP.MEMBERS d ≠ TRIP.SRCMASK d 0 ∧ TRIP.MEMBERS d ≠ TRIP.SRCMASK d 1 ∧ TRIP.SRCMASK d 1 ≠ TRIP.SRCMASK d 0 := by
    simp only [TRIP.MEMBERS, TRIP.SRCMASK]
    omega
  refine completes_whileRuns hr (completes_next ?_)
  unfold State.membersApply
  rw [h0, h1, if_pos (by decide), hbits]
  refine ⟨?_, ?_, ?_⟩
  · rw [State.get_of_cell (State.refreshTrips_cell _ _ _ hmem), State.get_of_cell (State.cell_set_ne _ _ _ _ hne.1),
      State.get_of_cell (State.cell_set_ne _ _ _ _ hne.2.1), State.get_set_self _ _ _ (of_decide_eq_true rfl)]
    exact Nat.mod_eq_of_lt hm
  · rw [State.get_of_cell (State.refreshTrips_cell _ _ _ (hmask 1)), State.get_of_cell (State.cell_set_ne _ _ _ _ hne.2.2),
      State.get_set_self _ _ _ (of_decide_eq_true rfl)]
    exact Nat.mod_eq_of_lt hm
  · rw [State.get_of_cell (State.refreshTrips_cell _ _ _ (hmask 0)), State.get_set_self _ _ _ (of_decide_eq_true rfl), xor_seven_bits _ hm]
    exact Nat.mod_eq_of_lt (Nat.lt_of_le_of_lt (Nat.sub_le 127 _) (of_decide_eq_true rfl))

theorem State.cell_putCell_ne (s : State) (a b : Nat) (c : RegCell) (h : b ≠ a) : (s.putCell a c).cell b = s.cell b := by
  unfold State.cell State.putCell
  by_cases hc : c = ⟨resetWord a, parityOf (resetWord a)⟩
  · simp [hc, Assoc.get_del_ne _ _ _ h]
  · simp [hc, Assoc.get_put_ne _ _ _ _ h]

/-- CUFF_OK of the comparators is all that R148 writes. -/
theorem State.refreshCuffs_cell (s : State) (d : Nat) {a : Nat} (h : ∀ i < 16, a ≠ TRIP.CSRC d i) : (s.refreshCuffs d).cell a = s.cell a :=
  foldOver_cell _ _ _ _ fun i hi _ => State.cell_putCell_ne _ _ _ _ (h i (List.mem_range.1 hi))

/-- R139: during a trip SRC_MASK keeps the bits that it has. -/
theorem srcMaskWrite_keepsBits (d : Fin 4) (k : Fin 2) (w : Word) (s : State) (h : s.flag (TRIP.TGSTAT_TRIPPED d k) = true)
    (hr : s.mainRuns = true) : Completes (exec (.srcMaskWrite d k w) s)
      (fun t => t.reg (TRIP.SRCMASK d k) = s.reg (TRIP.SRCMASK d k) ||| (w &&& srcMaskRw)) := by
  obtain ⟨_, _, hmask⟩ := tripCfg_notMem_tripRegs d
  have hcsrc : ∀ i < 16, TRIP.SRCMASK d k ≠ TRIP.CSRC d i := by
    simp only [TRIP.SRCMASK, TRIP.CSRC]
    omega
  have hstat : TRIP.SRCMASK d k ≠ TRIP.TGSTAT d k := by
    simp only [TRIP.SRCMASK, TRIP.TGSTAT]
    omega
  have hor : ∀ was : Word, was ||| (was &&& ~~~srcMaskRw ||| w &&& srcMaskRw) = was ||| (w &&& srcMaskRw) := fun was => by
    rw [← BitVec.or_assoc]
    congr 1
    ext i hi
    simp only [BitVec.getElem_or, BitVec.getElem_and]
    cases was[i] <;> rfl
  refine completes_whileRuns hr (completes_next ?_)
  unfold State.srcMaskApply
  rw [h, if_pos rfl, State.reg_of_cell (State.refreshTrips_cell _ _ _ (hmask k)), State.reg_of_cell (State.refreshCuffs_cell _ _ hcsrc)]
  split
  · rw [State.reg_setReg_self, hor]
  · rw [State.reg_of_cell (State.cell_setB_ne _ _ _ _ hstat), State.reg_setReg_self, hor]

theorem tgModeWrite_written (d : Fin 4) (k : Fin 2) (m : Fin 4) (s : State) (hfix : (vget s.tgs (2 * d.val + k.val)).modeFixed = false)
    (h : s.flag (TRIP.TGSTAT_TRIPPED d k) = false) (hr : s.mainRuns = true) :
    Completes (exec (.tgModeWrite d k m) s) (fun t => t.get (TRIP.TGCTL_TG_MODE d k) = if m = 3 then 1 else m.val) := by
  refine completes_whileRuns hr (completes_next ?_)
  unfold State.tgModeApply
  rw [hfix, h, if_neg Bool.false_ne_true, if_neg (by simp), State.get_set_self _ _ _ (of_decide_eq_true rfl)]
  fin_cases m <;> rfl

/-- R164: mode 0 of a tripped group stays, and the write is refused. -/
theorem tgModeWrite_refused (d : Fin 4) (k : Fin 2) (m : Fin 4) (s : State) (hfix : (vget s.tgs (2 * d.val + k.val)).modeFixed = false)
    (h : s.flag (TRIP.TGSTAT_TRIPPED d k) = true) (hmode : s.get (TRIP.TGCTL_TG_MODE d k) = 0) (hm : m ≠ 0) (hr : s.mainRuns = true) :
    Completes (exec (.tgModeWrite d k m) s) (fun t => t.get (TRIP.TGCTL_TG_MODE d k) = 0 ∧ t.flag (TRIP.TGSTAT_TRIP_CLR_REJ d k) = true) := by
  have hne : TRIP.TGCTL d k ≠ TRIP.TGSTAT d k := by
    simp only [TRIP.TGCTL, TRIP.TGSTAT]
    omega
  have hnow : (if m.val = 3 then 1 else m.val) ≠ 0 := by
    split
    · decide
    · exact fun h0 => hm (Fin.ext h0)
  refine completes_whileRuns hr (completes_next ?_)
  unfold State.tgModeApply
  dsimp only
  rw [hfix, if_neg Bool.false_ne_true, if_pos ⟨h, hmode, hnow⟩]
  exact ⟨(State.get_of_cell (State.cell_setB_ne _ _ _ _ hne)).trans hmode, State.flag_setB_self _ _ _ (of_decide_eq_true rfl) Nat.one_pos⟩

/-! ### Pins (R158, R161) -/

theorem tripInputActive_shows (d x : Fin 4) (level : Bool) (s : State) (hr : s.mainRuns = true) :
    Completes (exec (.tripInputActive d x level) s) (fun t => t.bit (TRIP.PINSTAT_TRIP_LVL d) x = level) := by
  obtain ⟨_, hpin, _⟩ := tripCfg_notMem_tripRegs d
  refine completes_whileRuns hr (completes_next ?_)
  rw [State.bit_of_cell (State.refreshTrips_cell _ _ _ hpin)]
  exact (State.bit_of_cell (State.cell_of_regs (State.modDrive_regs _ _ _) _)).trans
    (State.bit_setBit_self _ _ _ _ (of_decide_eq_true rfl) x.isLt)

/-- The level of ENx shown high. -/
def State.enShown (s : State) (d x : Nat) : State := s.setBit (TRIP.PINSTAT_EN_LVL d) x true

theorem State.enShown_bit (s : State) (d x : Fin 4) : (s.enShown d x).bit (TRIP.PINSTAT_EN_LVL d) x = true :=
  State.bit_setBit_self _ _ _ _ (of_decide_eq_true rfl) x.isLt

theorem State.enShown_cell (s : State) (d x : Nat) {a : Nat} (h : a ≠ TRIP.PINSTAT d) : (s.enShown d x).cell a = s.cell a :=
  State.cell_setBit_ne _ _ _ _ _ h

theorem State.enShown_eq (s : State) (d x : Nat) : ∃ v, s.enShown d x = s.set (TRIP.PINSTAT_EN_LVL d) v := by
  unfold State.enShown State.setBit State.orBits
  rw [if_pos rfl]
  exact ⟨_, rfl⟩

theorem State.enShown_sourcesSame (s : State) (d x : Nat) : SourcesSame d s (s.enShown d x) := by
  refine ⟨?_, ?_, fun a ha => s.enShown_cell d x fun e => ha (by rw [e]; exact List.mem_cons_self)⟩
  · obtain ⟨v, h⟩ := s.enShown_eq d x
    rw [h, State.set_cmps]
  · obtain ⟨v, h⟩ := s.enShown_eq d x
    rw [h, State.set_drives]

theorem State.enShown_port (s : State) (d x j : Nat) : (s.enShown d x).port d j = s.port d j := by
  obtain ⟨v, h⟩ := s.enShown_eq d x
  rw [h, State.port_of_ports (State.set_ports _ _ _)]

theorem pinstat_apart : ∀ d : Fin 4, TRIP.PINSTAT d ∉ gridRegs d ∧ (∀ k < 2, TRIP.TGSTAT d k ≠ TRIP.PINSTAT d) := by decide

theorem tgcfg_apart : ∀ (d : Fin 4), ∀ k < 2, TRIP.TGCFG d k ∉ gridRegs d ∧ TRIP.TGCFG d k ≠ TRIP.PINSTAT d := by decide

theorem State.enShown_tripped (s : State) (d : Fin 4) (x : Nat) {k : Nat} (hk : k < 2) :
    (s.enShown d x).flag (TRIP.TGSTAT_TRIPPED d k) = s.flag (TRIP.TGSTAT_TRIPPED d k) :=
  State.flag_of_cell (s.enShown_cell d x ((pinstat_apart d).2 k hk))

/-- The groups that ENx selects attempt a clear (R161). -/
def State.enClears (s : State) (d x : Nat) : State :=
  foldOver [0, 1] (fun k t => if t.bit (TRIP.TGCFG_EN_SEL d k) x then t.clearAttempt d k else t) s

theorem execEnPinRise_eq (d x : Fin 4) (lowTicks : Nat) (s : State) (hr : s.mainRuns = true) : execEnPinRise d x lowTicks s =
    .next (if lowTicks < 800 || (vget s.drives d).clockStopped then s.enShown d x else (s.enShown d x).enClears d x) := by
  unfold execEnPinRise
  rw [whileRuns_running _ hr, ← (s.enShown_sourcesSame d x).drives]
  rfl

theorem State.enClears_cell (s : State) (d x : Nat) {a : Nat} (hs : ∀ k < 2, a ≠ TRIP.TGSTAT d k) (hg : a ∉ gridRegs d) :
    (s.enClears d x).cell a = s.cell a := by
  refine foldOver_cell _ _ _ _ fun k hk t => ?_
  have hk2 : k < 2 := by
    simp only [List.mem_cons, List.not_mem_nil, or_false] at hk
    omega
  split
  · exact t.clearAttempt_cell d k a (hs k hk2) hg
  · rfl

/-- A pin that group 0 alone selects attempts a clear of group 0. -/
theorem State.enClears_first (s : State) (d x : Fin 4) (h0 : s.bit (TRIP.TGCFG_EN_SEL d 0) x = true)
    (h1 : s.bit (TRIP.TGCFG_EN_SEL d 1) x = false) : s.enClears d x = s.clearAttempt d 0 := by
  have hne : TRIP.TGCFG d 1 ≠ TRIP.TGSTAT d 0 := by
    simp only [TRIP.TGCFG, TRIP.TGSTAT]
    omega
  have h1' : (s.clearAttempt d 0).bit (TRIP.TGCFG_EN_SEL d 1) x = false :=
    (State.bit_of_cell (s.clearAttempt_cell d 0 _ hne (tgcfg_apart d 1 (by decide)).1)).trans h1
  unfold State.enClears foldOver
  rw [List.foldl_cons, List.foldl_cons, List.foldl_nil]
  dsimp only
  rw [h0, if_pos rfl, h1', if_neg Bool.false_ne_true]

theorem enPinRise_shows (d x : Fin 4) (lowTicks : Nat) (s : State) (hr : s.mainRuns = true) :
    Completes (exec (.enPinRise d x lowTicks) s) (fun t => t.bit (TRIP.PINSTAT_EN_LVL d) x = true) := by
  obtain ⟨hgrid, hstat⟩ := pinstat_apart d
  refine ⟨_, execEnPinRise_eq d x lowTicks s hr, ?_⟩
  split
  · exact s.enShown_bit d x
  · exact (State.bit_of_cell (State.enClears_cell _ d x (fun k hk => (hstat k hk).symm) hgrid)).trans (s.enShown_bit d x)

/-- R161: a pin that was low for less than 800 ticks clears nothing. -/
theorem enPinRise_short (d x : Fin 4) (lowTicks : Nat) (s : State) (h : lowTicks < 800) (hr : s.mainRuns = true) :
    Completes (exec (.enPinRise d x lowTicks) s) (fun t => t.flag (TRIP.TGSTAT_TRIPPED d 0) = s.flag (TRIP.TGSTAT_TRIPPED d 0) ∧
      t.flag (TRIP.TGSTAT_TRIPPED d 1) = s.flag (TRIP.TGSTAT_TRIPPED d 1)) := by
  refine ⟨_, execEnPinRise_eq d x lowTicks s hr, ?_⟩
  rw [decide_eq_true h, Bool.true_or, if_pos rfl]
  exact ⟨s.enShown_tripped d x (by decide), s.enShown_tripped d x (by decide)⟩

/-- R160, R161: a pin that clears group 0 alone. -/
theorem execEnPinRise_first (d x : Fin 4) (lowTicks : Nat) (s : State) (hlow : 800 ≤ lowTicks) (hclk : (vget s.drives d).clockStopped = false)
    (h0 : s.bit (TRIP.TGCFG_EN_SEL d 0) x = true) (h1 : s.bit (TRIP.TGCFG_EN_SEL d 1) x = false) (hr : s.mainRuns = true) :
    execEnPinRise d x lowTicks s = .next ((s.enShown d x).clearAttempt d 0) := by
  have hsel : ∀ k < 2, (s.enShown d x).bit (TRIP.TGCFG_EN_SEL d k) x = s.bit (TRIP.TGCFG_EN_SEL d k) x := fun k hk =>
    State.bit_of_cell (s.enShown_cell d x (tgcfg_apart d k hk).2)
  rw [execEnPinRise_eq d x lowTicks s hr, hclk, decide_eq_false (Nat.not_lt.2 hlow), if_neg (by decide),
    State.enClears_first _ d x ((hsel 0 (by decide)).trans h0) ((hsel 1 (by decide)).trans h1)]

/-- R160: with a source active the clear is refused. -/
theorem enPinRise_refused (d x : Fin 4) (lowTicks : Nat) (s : State) (hlow : 800 ≤ lowTicks) (hclk : (vget s.drives d).clockStopped = false)
    (h0 : s.bit (TRIP.TGCFG_EN_SEL d 0) x = true) (h1 : s.bit (TRIP.TGCFG_EN_SEL d 1) x = false)
    (htrip : s.flag (TRIP.TGSTAT_TRIPPED d 0) = true) (ha : s.activeSources d 0 ≠ 0) (hr : s.mainRuns = true) :
    Completes (exec (.enPinRise d x lowTicks) s) (fun t => t.flag (TRIP.TGSTAT_TRIPPED d 0) = true ∧
      t.flag (TRIP.TGSTAT_TRIP_CLR_REJ d 0) = true) := by
  have htrip' : (s.enShown d x).flag (TRIP.TGSTAT_TRIPPED d 0) = true := (s.enShown_tripped d x (by decide)).trans htrip
  refine ⟨_, execEnPinRise_first d x lowTicks s hlow hclk h0 h1 hr, ?_⟩
  rw [State.clearAttempt_refused _ d 0 htrip' (by rw [(s.enShown_sourcesSame d x).activeSources]; exact ha)]
  exact ⟨(State.flag_of_get (State.get_setB_apart _ _ rfl)).trans htrip', State.flag_setB_self _ _ _ (of_decide_eq_true rfl) Nat.one_pos⟩

/-- R133, R160: no used FLTn of a member is low. -/
theorem State.clearBlocked_false {s : State} {d k : Nat}
    (h : ∀ j < 6, s.tgOf d j = k → s.flag (PORT.PCFG_FLT_USE d j) = true → s.flag (PORT.FLTSTAT_FLT_LINE d j) = true) :
    s.clearBlocked d k = false := by
  refine List.any_eq_false.2 fun j hj hlow => ?_
  obtain ⟨_, htg⟩ := State.mem_tgPorts.1 hj
  simp only [Bool.and_eq_true, decide_eq_true_eq, Bool.not_eq_true'] at hlow
  obtain ⟨⟨hj6, huse⟩, hline⟩ := hlow
  exact absurd ((h j hj6 htg huse).symm.trans hline) (by decide)

theorem portRegs_ne_pinstat : ∀ (d : Fin 4), ∀ j < 7, PORT.PCFG d j ≠ TRIP.PINSTAT d ∧ PORT.FLTSTAT d j ≠ TRIP.PINSTAT d := by decide

theorem members_ne_pinstat (d : Nat) : TRIP.MEMBERS d ≠ TRIP.PINSTAT d := by
  simp only [TRIP.MEMBERS, TRIP.PINSTAT]
  omega

/-- R163: with none active the group is cleared, and its members keep their safe states until their next command edges. -/
theorem enPinRise_clears (d x : Fin 4) (lowTicks : Nat) (s : State) (hlow : 800 ≤ lowTicks) (hclk : (vget s.drives d).clockStopped = false)
    (h0 : s.bit (TRIP.TGCFG_EN_SEL d 0) x = true) (h1 : s.bit (TRIP.TGCFG_EN_SEL d 1) x = false)
    (htrip : s.flag (TRIP.TGSTAT_TRIPPED d 0) = true) (ha : s.activeSources d 0 = 0)
    (hflt : ∀ j : Fin 6, s.tgOf d j = 0 → s.flag (PORT.PCFG_FLT_USE d j) = true → s.flag (PORT.FLTSTAT_FLT_LINE d j) = true)
    (hr : s.mainRuns = true) : Completes (exec (.enPinRise d x lowTicks) s) (fun t => t.flag (TRIP.TGSTAT_TRIPPED d 0) = false ∧
      (∀ j : Fin 7, s.tgOf d j = 0 → s.chopperRole d j = false → (t.port d j).held = true ∧ (t.port d j).safe = (s.port d j).safe)) := by
  have htg : ∀ j, (s.enShown d x).tgOf d j = s.tgOf d j := State.tgOf_of_cell (s.enShown_cell d x (members_ne_pinstat d))
  have hblocked : (s.enShown d x).clearBlocked d 0 = false := State.clearBlocked_false fun j hj hmember huse => by
    obtain ⟨hpcfg, hstat⟩ := portRegs_ne_pinstat d j (by omega)
    rw [State.flag_of_cell (s.enShown_cell d x hstat)]
    rw [State.flag_of_cell (s.enShown_cell d x hpcfg)] at huse
    exact hflt ⟨j, hj⟩ ((htg j).symm.trans hmember) huse
  refine ⟨_, execEnPinRise_first d x lowTicks s hlow hclk h0 h1 hr, ?_⟩
  rw [State.clearAttempt_cleared _ d 0 ((s.enShown_tripped d x (by decide)).trans htrip)
    (((s.enShown_sourcesSame d x).activeSources 0).trans ha) hblocked]
  refine ⟨State.cleared_tripped _ d 0, fun j hmember hchop => ?_⟩
  have hchop' : (s.enShown d x).chopperRole d j = false := by
    unfold State.chopperRole
    rw [State.flag_of_cell (s.enShown_cell d x (portRegs_ne_pinstat d j j.isLt).1)]
    exact hchop
  have hkept := State.cleared_safeHeld (s.enShown d x) d (k := 0) (j := j) (by omega)
    (State.mem_tgPorts.2 ⟨j.isLt, (htg j).trans hmember⟩) hchop'
  rw [State.enShown_port] at hkept
  exact ⟨congrArg Prod.snd hkept, congrArg Prod.fst hkept⟩

/-! ### Cuffs and the ASC interval (R142, R146) -/

theorem cuffExpire_refreshes (d : Fin 4) (i : Fin 16) (k : Fin 2) (s : State) (hcuff : vget (vget s.drives d).cuffs i = 0)
    (hclk : (vget s.drives d).clockStopped = false) (h0 : s.flag (TRIP.TGSTAT_TRIPPED d 0) = false)
    (h1 : s.flag (TRIP.TGSTAT_TRIPPED d 1) = false) (hr : s.mainRuns = true) :
    Completes (exec (.cuffExpire d i) s) (fun t => (t.reg (TRIP.SRCACT d k)).toNat = s.activeSources d k % 2 ^ 32) := by
  refine completes_whileRuns hr (completes_next ?_)
  rw [if_neg (not_not.2 hcuff), s.refreshTrips_srcAct d k hclk h0 h1, BitVec.toNat_ofNat]

theorem cuffExpire_early (d : Fin 4) (i : Fin 16) (s : State) (hcuff : 0 < vget (vget s.drives d).cuffs i) (hr : s.mainRuns = true) :
    Completes (exec (.cuffExpire d i) s) (fun t => t = s) :=
  completes_whileRuns hr (completes_next (if_pos (Nat.pos_iff_ne_zero.1 hcuff)))

/-- The ASC interval of a port has ended: its turn-on waits no more and is made. -/
def State.ascEnded (s : State) (d j : Nat) (w : TurnOn) : State :=
  ((s.modPort d j (fun p => { p with ascWait := none })).placeEdge d j w.fine).turnOn d j w.high

theorem execAscShortSideOn_eq (d : Fin 4) (j : Fin 7) (w : TurnOn) (s : State) (hw : (s.port d j).ascWait = some w) (h0 : w.ticks = 0)
    (hd : s.dieRuns d = true) (hr : s.mainRuns = true) : execAscShortSideOn d j s = .next ((s.ascEnded d j w).refreshTrips d) := by
  unfold execAscShortSideOn
  rw [whileRuns_running _ hr, hw]
  dsimp only
  rw [hd, h0, if_neg (by decide)]
  rfl

/-- R142: the output on, no turn-on waiting, the safe state as it was. -/
theorem State.ascEnded_port (s : State) (d : Fin 4) (j : Fin 7) (w : TurnOn) (hd : s.dieRuns d = true) (hb : (s.port d j).blocked = false)
    (hs : s.stoBranch d = false) : ((s.ascEnded d j w).port d j).on w.high = true ∧
      ((s.ascEnded d j w).port d j).safeWait = ((s.port d j).safe, none) := by
  obtain ⟨e, late, hplaced⟩ := (s.modPort d j (fun p => { p with ascWait := none })).placeEdge_eq d j w.fine
  unfold State.ascEnded
  rw [hplaced]
  refine ⟨State.turnOn_on _ _ _ _ (by omega) hd ?_ hs, (State.turnOn_proj Port.safeWait _ _ _ _ fun _ _ => rfl).trans ?_⟩
  · rw [State.port_modPort_self _ _ _ _ (by omega), State.port_modPort_self _ _ _ _ (by omega)]
    exact hb
  · rw [State.port_modPort_self _ _ _ _ (by omega), State.port_modPort_self _ _ _ _ (by omega)]
    rfl

theorem State.ascEnded_members (s : State) (d j : Nat) (w : TurnOn) : CellsSame (memberReg d) s (s.ascEnded d j w) :=
  (((CellsSame.refl _ s).modPort d j _).placeEdge d j w.fine).turnOn (fun _ => memberReg_notMem_outRegs) j w.high

/-- R142: the short side goes on, unless the port's safe state changes in the tick. -/
theorem ascShortSideOn_turnsOn (d : Fin 4) (j : Fin 7) (w : TurnOn) (s : State) (hw : (s.port d j).ascWait = some w) (h0 : w.ticks = 0)
    (hd : s.dieRuns d = true) (hb : (s.port d j).blocked = false) (hs : s.stoBranch d = false) (hr : s.mainRuns = true) :
    Completes (exec (.ascShortSideOn d j) s) (fun t => (t.port d j).ascWait = none ∧
      ((t.port d j).safe = (s.port d j).safe → (if w.high then (t.port d j).gh else (t.port d j).gl) = true) ∧
      (s.flag (TRIP.TGSTAT_TRIPPED d (s.tgOf d j)) = false → (t.port d j).safe = (s.port d j).safe)) := by
  obtain ⟨hon, hsafeWait⟩ := s.ascEnded_port d j w hd hb hs
  have hsafe : ((s.ascEnded d j w).port d j).safe = (s.port d j).safe := congrArg Prod.fst hsafeWait
  have hwait : ((s.ascEnded d j w).port d j).ascWait = none := congrArg Prod.snd hsafeWait
  refine ⟨_, execAscShortSideOn_eq d j w s hw h0 hd hr, ?_⟩
  have huntripped : s.flag (TRIP.TGSTAT_TRIPPED d (s.tgOf d j)) = false →
      (((s.ascEnded d j w).refreshTrips d).port d j).safe = (s.port d j).safe := fun h => by
    rw [State.refreshTrips_port _ d j (State.untripped_of_cells h (s.ascEnded_members d j w)), hsafe]
  obtain hkept | ⟨hother, hnone⟩ := (s.ascEnded d j w).refreshTrips_port_cases d j (by omega) j.isLt
  · dsimp only
    rw [hkept] at huntripped ⊢
    exact ⟨hwait, fun _ => hon, huntripped⟩
  · exact ⟨hnone, fun h => absurd (h.trans hsafe.symm) hother, huntripped⟩

/-- Settles O13: one lemma for each command and outcome. -/
theorem tripsAndClears : Obligations.TripsAndClears :=
  ⟨tripGroupTrip_trips, membersWrite_applied, srcMaskWrite_keepsBits, tgModeWrite_written, enPinRise_shows, tripInputActive_shows,
    tgModeWrite_refused, cuffExpire_refreshes, cuffExpire_early, ascShortSideOn_turnsOn, enPinRise_refused, enPinRise_clears, enPinRise_short⟩

end Sys2Proof.Machine
end

section
/-! SUPPORT and the obligation on the sequences of the ADC cores (O16): ADC_DISABLE while an injected sequence has pre-empted a regular one. -/

namespace Sys2Proof.Machine

/-! ### EN of a core written (R194) -/

/-- EN of ACFG written 0. -/
def State.withoutAdcEn (s : State) (d k : Nat) : State := s.setB (ADC.ACFG_EN d k) false

theorem State.withoutAdcEn_flag (s : State) (d k : Nat) : (s.withoutAdcEn d k).flag (ADC.ACFG_EN d k) = false :=
  State.flag_setB_self _ _ _ (of_decide_eq_true rfl) Nat.one_pos

theorem State.withoutAdcEn_adc (s : State) (d k : Nat) : (s.withoutAdcEn d k).adc d k = s.adc d k := by
  unfold State.adc State.withoutAdcEn
  rw [State.setB_adcs]

/-- A core whose injected conversion completes and stops its sequence; no regular sequence is left to resume. -/
def AdcCore.stoppingInjected (c : AdcCore) : AdcCore := { c with stopping := true, regAt := none, deferred := false, half := none }

/-- R194: while an injected conversion is in progress, EN written 0 stops a regular sequence that waits behind it at once, and REG_BUSY falls. -/
theorem State.acfgApply_falls_injected (s : State) (d k : Nat) (h : s.flag (ADC.ACFG_EN d k) = true) (hi : (s.adc d k).injAt.isSome = true) :
    s.acfgApply d k (putBits (s.reg (ADC.ACFG d k)) 0 1 0) =
      ((s.withoutAdcEn d k).modAdc d k AdcCore.stoppingInjected).setB (ADC.ASTAT_REG_BUSY d k) false := by
  show (if s.flag _ && !(s.withoutAdcEn d k).flag _ then
    (if ((s.withoutAdcEn d k).adc d k).injAt.isSome then _ else _) else _) = _
  rw [h, State.withoutAdcEn_flag, State.withoutAdcEn_adc, hi, if_pos (by decide), if_pos rfl]
  rfl

/-- R194: ADC_DISABLE while an injected conversion is in progress clears REG_BUSY. -/
theorem adcDisable_clears_regBusy (d k : Fin 4) (s : State) (h : s.flag (ADC.ACFG_EN d k) = true) (hi : (s.adc d k).injAt.isSome = true)
    (hr : s.mainRuns = true) (hp : s.parityOk (ADC.ACFG d k) = true) :
    Completes (exec (.adcDisable d k) s) (fun t => t.flag (ADC.ASTAT_REG_BUSY d k) = false) := by
  refine completes_whileRuns hr (completes_next ?_)
  rw [State.checkParity_ok _ _ _ hp, State.acfgApply_falls_injected _ _ _ h hi]
  exact State.flag_setB_self _ _ _ (of_decide_eq_true rfl) Nat.one_pos

/-! ### A pre-empted regular sequence -/

/-- ADC0 of D0 enabled after reset with a regular sequence of two entries and an injected one of one; SW_REG, and SW_INJ 8 ticks later, in the
regular conversion that it aborts. -/
def preemptedCore : State :=
  ((((State.reset.setB (ADC.ACFG_EN 0 0) true).set (ADC.SEQCFG_REG_LEN 0 0) 2).set (ADC.SEQCFG_INJ_LEN 0 0) 1).regTrigger 0 0).setTtime 0 8
    |>.injTrigger 0 0

/-- The regular sequence stands at its first entry, pre-empted by the injected one, and REG_BUSY shows it. -/
theorem preemptedCore_busy : preemptedCore.flag (ADC.ACFG_EN 0 0) = true ∧ (preemptedCore.adc 0 0).regAt.isSome = true ∧
    (preemptedCore.adc 0 0).injAt.isSome = true ∧ preemptedCore.mainRuns = true ∧ preemptedCore.parityOk (ADC.ACFG 0 0) = true ∧
    preemptedCore.flag (ADC.ASTAT_REG_BUSY 0 0) = true := by decide +kernel

/-- Two properties of the one state in which a command completes. -/
theorem Completes.and {o : Out} {P Q : State → Prop} (hP : Completes o P) (hQ : Completes o Q) : ∃ t, P t ∧ Q t := by
  obtain ⟨t, rfl, hPt⟩ := hP
  obtain ⟨u, hu, hQu⟩ := hQ
  cases hu
  exact ⟨t, hPt, hQu⟩

/-- Refutes O16: its clause on ADC_DISABLE (R194) has no register change but ACFG.  With a regular sequence that an injected one has pre-empted,
a state that SW_REG and SW_INJ bring about, the sequence stops and REG_BUSY in ASTAT falls from 1 to 0. -/
theorem not_adcSequences : ¬ Obligations.AdcSequences := by
  unfold Obligations.AdcSequences
  rintro ⟨-, -, -, -, -, -, -, -, -, -, -, -, -, -, -, -, -, -, -, -, hdisable⟩
  obtain ⟨hen, hreg, hinj, hruns, hparity, hbusy⟩ := preemptedCore_busy
  obtain ⟨t, ⟨_, _, _, hregs⟩, hidle⟩ :=
    (hdisable 0 0 preemptedCore hen hreg hruns hparity).and (adcDisable_clears_regBusy 0 0 preemptedCore hen hinj hruns hparity)
  have hkept : t.flag (ADC.ASTAT_REG_BUSY 0 0) = true := (State.flag_of_cell (hregs (ADC.ASTAT 0 0) (by decide))).trans hbusy
  exact absurd (hkept.symm.trans hidle) (by decide)

end Sys2Proof.Machine
end

section
/-! SUPPORT and the obligation on position interfaces (O18): enabling, counting the edges of an encoder, captures at Z. -/

namespace Sys2Proof.Machine

/-! ### What the commands of an interface touch -/

theorem State.pi_modPi_self (s : State) (d : Fin 4) (p : Fin 2) (f : PosIf → PosIf) : (s.modPi d p f).pi d p = f (s.pi d p) :=
  vget_vmod_self _ _ _ (by omega)

theorem State.modPi_cell (s : State) (d p a : Nat) (f : PosIf → PosIf) : (s.modPi d p f).cell a = s.cell a := rfl

theorem State.modPi_get (s : State) (d p : Nat) (f : PosIf → PosIf) (g : RF) : (s.modPi d p f).get g = s.get g :=
  State.get_of_cell (State.modPi_cell _ _ _ _ _)

/-- From `s` to `t` nothing has changed but position interfaces and the registers `l`. -/
def PiChanged (l : List Nat) (s t : State) : Prop := SameBut [.regs, .pis] s t ∧ RegsBut l s t

theorem PiChanged.refl (l : List Nat) (s : State) : PiChanged l s s := ⟨⟨rfl, fun p _ => p.same_refl s⟩, fun _ _ => rfl⟩

theorem PiChanged.modPi {l : List Nat} {s t : State} (h : PiChanged l s t) (d p : Nat) (f : PosIf → PosIf) : PiChanged l s (t.modPi d p f) :=
  have : Open (fun q => q ∉ [Part.pis]) .pis := open_of_mem (by decide)
  have hpi : SameBut [.pis] t (t.modPi d p f) := Keeps.sameBut (State.modPi_keeps (Keeps.refl _ t) d p f)
  ⟨h.1.trans (hpi.mono (by decide)), h.2⟩

theorem PiChanged.set {l : List Nat} {s t : State} (h : PiChanged l s t) {f : RF} (x : Nat) (hf : f.addr ∈ l) : PiChanged l s (t.set f x) :=
  ⟨h.1.trans ((State.setReg_sameBut t f.addr _).mono (by decide)), h.2.trans (State.setReg_regsBut t f.addr _ hf)⟩

theorem PiChanged.setB {l : List Nat} {s t : State} (h : PiChanged l s t) {f : RF} (b : Bool) (hf : f.addr ∈ l) : PiChanged l s (t.setB f b) :=
  h.set _ hf

/-! ### Enabling (R212) -/

/-- EN of PICFG written 1. -/
def State.withPiEn (s : State) (d p : Nat) : State := s.setB (PI.PICFG_EN d p) true

theorem State.withPiEn_flag (s : State) (d p : Nat) : (s.withPiEn d p).flag (PI.PICFG_EN d p) = true :=
  State.flag_setB_self _ _ _ (of_decide_eq_true rfl) Nat.one_pos

/-- An interface with the configuration that the registers hold, its demodulator anew. -/
def State.latchPi (s : State) (d p : Nat) (x : PosIf) : PosIf :=
  { x with
    encoder := s.flag (PI.PICFG_TYPE d p), grp := s.get (PI.PICFG_GRP d p), excDiv := excDivActs (s.get (PI.PICFG_EXC_DIV d p))
    zrst := s.flag (PI.PICFG_ZRST d p), src := s.reg (PI.PISRC d p), filt := s.get (PI.PICFG_FILT d p)
    exc := 0, sAcc := 0, cAcc := 0, n := 0, skipped := 0 }

/-- A write that sets EN latches the configuration. -/
theorem State.picfgApply_rises (s : State) (d p : Nat) (h : s.flag (PI.PICFG_EN d p) = false) :
    s.picfgApply d p (putBits (s.reg (PI.PICFG d p)) 0 1 1) = (s.withPiEn d p).modPi d p ((s.withPiEn d p).latchPi d p) := by
  unfold State.picfgApply
  extract_lets was s1
  have hnow : s1.flag (PI.PICFG_EN d p) = true := s.withPiEn_flag d p
  have hwas : was = false := h
  rw [hnow, hwas, if_neg (by decide)]
  rfl

/-- R212: the interface takes its configuration as written. -/
theorem piEnable_latches (d : Fin 4) (p : Fin 2) (s : State) (h : s.flag (PI.PICFG_EN d p) = false) (hr : s.mainRuns = true)
    (hp : s.parityOk (PI.PICFG d p) = true) :
    Completes (exec (.piEnable d p) s) (fun t => t.flag (PI.PICFG_EN d p) = true ∧ (t.pi d p).encoder = s.flag (PI.PICFG_TYPE d p) ∧
      (t.pi d p).grp = s.get (PI.PICFG_GRP d p) ∧ (t.pi d p).zrst = s.flag (PI.PICFG_ZRST d p) ∧ (t.pi d p).filt = s.get (PI.PICFG_FILT d p) ∧
      (t.pi d p).src = s.reg (PI.PISRC d p) ∧ SameBut [.regs, .pis] s t ∧ RegsBut [PI.PICFG d p] s t) := by
  have hsrc : PI.PISRC d p ≠ PI.PICFG d p := by
    simp only [PI.PISRC, PI.PICFG]
    omega
  refine completes_whileRuns hr (completes_next ?_)
  rw [State.checkParity_ok _ _ _ hp, State.picfgApply_rises _ _ _ h, State.pi_modPi_self, State.flag_of_get (State.modPi_get _ _ _ _ _)]
  exact ⟨s.withPiEn_flag d p, State.flag_of_get (State.get_setB_apart _ _ rfl), State.get_setB_apart _ _ rfl,
    State.flag_of_get (State.get_setB_apart _ _ rfl), State.get_setB_apart _ _ rfl, State.reg_setReg_ne _ _ _ _ hsrc,
    ((PiChanged.refl _ s).setB _ (List.mem_singleton.2 rfl)).modPi d p _⟩

/-! ### Edges of an encoder (R216) -/

/-- Exactly one of the two levels has changed. -/
theorem one_level_changed {x a y b : Bool} (h : (x ≠ a) ≠ (y ≠ b)) : ¬ (x = a ∧ y = b) ∧ ¬ (x ≠ a ∧ y ≠ b) := by
  constructor
  · rintro ⟨hx, hy⟩
    exact h (propext (iff_of_false (not_not_intro hx) (not_not_intro hy)))
  · rintro ⟨hx, hy⟩
    exact h (propext (iff_of_true hx hy))

/-- Storing a signed number and reading it again changes it by a multiple of the field's range. -/
theorem toSigned_ofSigned_emod (n : Nat) (i : Int) : (toSigned n (ofSigned n i) - i) % 2 ^ n = 0 := by
  have hmod : (2 : Int) ^ n ∣ i % 2 ^ n - i := by
    rw [← Int.neg_sub]
    exact (Int.dvd_self_sub_emod).neg_right
  refine Int.emod_eq_zero_of_dvd ?_
  unfold toSigned
  rw [Nat.mod_eq_of_lt (ofSigned_lt n i), ofSigned_cast]
  split
  · exact hmod
  · rw [sub_right_comm, Nat.cast_pow]
    exact hmod.sub (dvd_refl _)

theorem State.getS_set_ofSigned (s : State) (f : RF) (i : Int) (h : f.lo + f.w ≤ 32) :
    (s.set f (ofSigned f.w i)).getS f = toSigned f.w (ofSigned f.w i) := by
  unfold State.getS
  rw [State.get_set_self _ _ _ h, Nat.mod_eq_of_lt (ofSigned_lt _ _)]

section
variable {d : Fin 4} {p : Fin 2} {a b : Bool} {s : State}

/-- R216: an edge of one level counts. -/
theorem encoderEdge_counts (hen : s.flag (PI.PICFG_EN d p) = true) (henc : (s.pi d p).encoder = true)
    (hone : ((s.pi d p).a ≠ a) ≠ ((s.pi d p).b ≠ b)) (hz : (s.pi d p).zTick ≠ some (s.ttime d)) (hr : s.mainRuns = true) :
    Completes (exec (.encoderEdge d p a b) s) (fun t =>
      (t.getS (PI.PIPOS_POS d p) - s.getS (PI.PIPOS_POS d p) - quadStep (s.pi d p).a (s.pi d p).b a b) % 2 ^ 32 = 0 ∧
      SameBut [.regs, .pis] s t ∧ RegsBut [PI.PIPOS d p] s t) := by
  obtain ⟨hsome, hboth⟩ := one_level_changed hone
  refine completes_whileRuns hr (completes_next ?_)
  rw [hen, henc, decide_eq_false hsome, if_neg (by decide)]
  dsimp only
  rw [if_neg hboth, if_neg hz]
  refine ⟨?_, ((PiChanged.refl _ s).modPi d p _).set _ (List.mem_singleton.2 rfl)⟩
  refine Eq.trans (congrArg (fun i : Int => (i - _ - _) % 2 ^ 32) (State.getS_set_ofSigned _ _ _ (of_decide_eq_true rfl))) ?_
  rw [sub_sub]
  exact toSigned_ofSigned_emod 32 _

/-- R218: in the tick of a reset by Z an edge does not count. -/
theorem encoderEdge_resetTick (hone : ((s.pi d p).a ≠ a) ≠ ((s.pi d p).b ≠ b)) (hz : (s.pi d p).zTick = some (s.ttime d))
    (hr : s.mainRuns = true) :
    Completes (exec (.encoderEdge d p a b) s) (fun t => t.get (PI.PIPOS_POS d p) = s.get (PI.PIPOS_POS d p)) := by
  obtain ⟨_, hboth⟩ := one_level_changed hone
  refine completes_whileRuns hr (completes_next ?_)
  rw [if_neg hboth, if_pos hz, apply_ite (fun t : State => t.get (PI.PIPOS_POS d p)), State.modPi_get, ite_self]

theorem pistat_apart_pipos (d p : Nat) {f : RF} (ha : f.addr = PI.PISTAT d p) (hf : f.fits = true) : f.apart (PI.PIPOS_POS d p) = true :=
  RF.apart_of_addr_ne hf rfl (by rw [ha]; simp only [PI.PIPOS_POS, PI.PIPOS, PI.PISTAT]; omega)

/-- R216: both levels at once are an error, and POS stays. -/
theorem encoderEdge_error (hen : s.flag (PI.PICFG_EN d p) = true) (henc : (s.pi d p).encoder = true) (ha : (s.pi d p).a ≠ a)
    (hb : (s.pi d p).b ≠ b) (hr : s.mainRuns = true) :
    Completes (exec (.encoderEdge d p a b) s) (fun t => t.flag (PI.PISTAT_ENC_ERR d p) = true ∧
      t.get (PI.PIPOS_POS d p) = s.get (PI.PIPOS_POS d p)) := by
  refine completes_whileRuns hr (completes_next ?_)
  rw [hen, henc, decide_eq_false fun h => ha h.1, if_neg (by decide)]
  dsimp only
  rw [if_pos ⟨ha, hb⟩]
  exact ⟨(State.flag_of_get (State.get_incSat_apart _ rfl)).trans (State.flag_setB_self _ _ _ (of_decide_eq_true rfl) Nat.one_pos),
    (State.get_incSat_apart _ (pistat_apart_pipos d p rfl rfl)).trans ((State.get_setB_apart _ _ (pistat_apart_pipos d p rfl rfl)).trans
      (State.modPi_get _ _ _ _ _))⟩

/-! ### Z (R218) -/

/-- POS captured at Z. -/
def State.zCaptured (s : State) (d p : Nat) : State :=
  (s.set (PI.PIZCAP_ZCAP d p) (s.get (PI.PIPOS_POS d p))).setB (PI.PISTAT_Z_SEEN d p) true

theorem pizcap_ne (d p : Nat) : PI.PIZCAP d p ≠ PI.PISTAT d p ∧ PI.PIZCAP d p ≠ PI.PIPOS d p ∧ PI.PISTAT d p ≠ PI.PIPOS d p := by
  simp only [PI.PIZCAP, PI.PISTAT, PI.PIPOS]
  omega

theorem State.zCaptured_shows (s : State) (d p : Nat) : (s.zCaptured d p).get (PI.PIZCAP_ZCAP d p) = s.get (PI.PIPOS_POS d p) ∧
    (s.zCaptured d p).flag (PI.PISTAT_Z_SEEN d p) = true ∧ (s.zCaptured d p).get (PI.PIPOS_POS d p) = s.get (PI.PIPOS_POS d p) := by
  obtain ⟨hstat, hpos, _⟩ := pizcap_ne d p
  refine ⟨?_, State.flag_setB_self _ _ _ (of_decide_eq_true rfl) Nat.one_pos, ?_⟩
  · rw [State.zCaptured, State.get_setB_apart _ _ (RF.apart_of_addr_ne rfl rfl hstat), State.get_set_self _ _ _ (of_decide_eq_true rfl)]
    exact Nat.mod_eq_of_lt (s.get_lt (PI.PIPOS_POS d p))
  · exact (State.get_setB_apart _ _ (pistat_apart_pipos d p rfl rfl)).trans
      (State.get_set_apart _ _ (RF.apart_of_addr_ne rfl rfl hpos.symm))

theorem State.zCaptured_changed (s : State) (d p : Nat) : PiChanged [PI.PIZCAP d p, PI.PISTAT d p, PI.PIPOS d p] s (s.zCaptured d p) :=
  ((PiChanged.refl _ s).set (f := PI.PIZCAP_ZCAP d p) _ List.mem_cons_self).setB (f := PI.PISTAT_Z_SEEN d p) _
    (List.mem_cons_of_mem _ List.mem_cons_self)

/-- R218: Z with A and B high captures POS, and resets it where ZRST asks. -/
theorem encoderZEdge_captures (hen : s.flag (PI.PICFG_EN d p) = true) (henc : (s.pi d p).encoder = true) (ha : (s.pi d p).a = true)
    (hb : (s.pi d p).b = true) (hr : s.mainRuns = true) :
    Completes (exec (.encoderZEdge d p) s) (fun t => t.get (PI.PIZCAP_ZCAP d p) = s.get (PI.PIPOS_POS d p) ∧
      t.flag (PI.PISTAT_Z_SEEN d p) = true ∧ t.get (PI.PIPOS_POS d p) = (if (s.pi d p).zrst then 0 else s.get (PI.PIPOS_POS d p)) ∧
      SameBut [.regs, .pis] s t ∧ RegsBut [PI.PIZCAP d p, PI.PISTAT d p, PI.PIPOS d p] s t) := by
  obtain ⟨_, hpos, hstat⟩ := pizcap_ne d p
  obtain ⟨hcap, hseen, hkept⟩ := s.zCaptured_shows d p
  refine completes_whileRuns hr (completes_next ?_)
  rw [hen, henc, ha, hb, if_pos (by decide)]
  show _ ∧ _
  cases hz : (s.pi d p).zrst
  case false => exact ⟨hcap, hseen, hkept, s.zCaptured_changed d p⟩
  case true =>
    exact ⟨(State.get_set_apart _ _ (RF.apart_of_addr_ne rfl rfl hpos)).trans ((State.modPi_get _ _ _ _ _).trans hcap),
      (State.flag_of_get ((State.get_set_apart _ _ (RF.apart_of_addr_ne rfl rfl hstat)).trans (State.modPi_get _ _ _ _ _))).trans hseen,
      State.get_set_self _ _ _ (of_decide_eq_true rfl),
      ((s.zCaptured_changed d p).modPi d p _).set _ (List.mem_cons_of_mem _ (List.mem_cons_of_mem _ List.mem_cons_self))⟩

end

/-- Settles O18: one lemma for each command and outcome. -/
theorem positionInterfaces : Obligations.PositionInterfaces :=
  ⟨piEnable_latches, fun _ _ _ _ _ => encoderEdge_counts, fun _ _ _ _ _ => encoderEdge_resetTick, fun _ _ _ _ _ => encoderEdge_error,
    fun _ _ _ => encoderZEdge_captures⟩

end Sys2Proof.Machine
end

section
/-! SUPPORT. The status of a comparator through an edge of its output and through what follows it in the tick (for O17). -/

namespace Sys2Proof.Machine

/-! ### The registers of a comparator -/

/-- CSTAT and CCFG of a comparator. -/
def cmpReg (d i a : Nat) : Prop := a = CMP.CSTAT d i ∨ a = CMP.CCFG d i

theorem cmpRegs_notMem_tripRegs : ∀ (d : Fin 4) (i : Fin 16), CMP.CSTAT d i ∉ tripRegs d ∧ CMP.CCFG d i ∉ tripRegs d := by decide

theorem cmpReg_notTrip {d : Fin 4} {i : Fin 16} {a : Nat} (h : cmpReg d i a) : a ∉ tripRegs d := by
  obtain ⟨hstat, hcfg⟩ := cmpRegs_notMem_tripRegs d i
  rcases h with rfl | rfl
  · exact hstat
  · exact hcfg

theorem cmpReg_ne_csrc {d i a q : Nat} (h : cmpReg d i a) (hq : q < 16) : a ≠ TRIP.CSRC d q := by
  simp only [cmpReg, CMP.CSTAT, CMP.CCFG, TRIP.CSRC] at h ⊢
  omega

theorem ccfg_ne_cstat (d i : Nat) : CMP.CCFG d i ≠ CMP.CSTAT d i := by
  simp only [CMP.CCFG, CMP.CSTAT]
  omega

/-- A field of CCFG shares no bit with one of CSTAT. -/
theorem cstat_apart_ccfg {d i : Nat} {f g : RF} (hf : f.addr = CMP.CSTAT d i) (hg : g.addr = CMP.CCFG d i) (hff : f.fits = true)
    (hgf : g.fits = true) : f.apart g = true := RF.apart_of_addr_ne hff hgf (by rw [hf, hg]; exact ccfg_ne_cstat d i)

theorem State.modCmp_get (s : State) (d i : Nat) (f : Comparator → Comparator) (g : RF) : (s.modCmp d i f).get g = s.get g :=
  State.get_of_cell (State.cell_of_regs (State.modCmp_regs _ _ _ _) _)

theorem State.cmp_modCmp_self (s : State) (d : Fin 4) (i : Fin 16) (f : Comparator → Comparator) : (s.modCmp d i f).cmp d i = f (s.cmp d i) :=
  vget_vmod_self _ _ _ (by omega)

/-! ### What follows a change of a comparator (R196, R204) -/

theorem State.publishCmps_cell (s : State) (d a : Nat) : (s.publishCmps d).cell a = s.cell a := State.cell_of_regs rfl a

/-- The copies in the CLEs and the trip groups leave a comparator's registers. -/
theorem State.publishTrips_cell (s : State) {d : Fin 4} {i : Fin 16} {a : Nat} (ha : cmpReg d i a) :
    ((s.publishCmps d).refreshTrips d).cell a = s.cell a :=
  (State.refreshTrips_cell _ _ _ (cmpReg_notTrip ha)).trans (State.publishCmps_cell _ _ _)

/-- So do the cuffs and the trip groups. -/
theorem State.refreshCuffsTrips_cell (s : State) {d : Fin 4} {i : Fin 16} {a : Nat} (ha : cmpReg d i a) :
    ((s.refreshCuffs d).refreshTrips d).cell a = s.cell a :=
  (State.refreshTrips_cell _ _ _ (cmpReg_notTrip ha)).trans (State.refreshCuffs_cell _ _ fun _ hq => cmpReg_ne_csrc ha hq)

/-- The end of the tick shows no other field than LAT. -/
theorem State.cmpSettle_get (s : State) {d : Fin 4} {i : Fin 16} {g : RF} (ha : cmpReg d i g.addr) (hg : (CMP.CSTAT_LAT d i).apart g = true) :
    (s.cmpSettle d i).get g = s.get g := by
  unfold State.cmpSettle
  extract_lets s1
  have h1 : s1.get g = s.get g := by
    unfold s1
    rw [apply_ite (fun t : State => t.get g), State.get_setB_apart _ _ hg, ite_self]
  exact (State.get_of_cell (State.publishTrips_cell s1 ha)).trans h1

/-- R204: LAT takes OUT. -/
theorem State.cmpSettle_lat (s : State) (d : Fin 4) (i : Fin 16) (h : s.flag (CMP.CSTAT_OUT d i) = true) :
    (s.cmpSettle d i).flag (CMP.CSTAT_LAT d i) = true := by
  unfold State.cmpSettle
  rw [h, if_pos rfl, State.flag_of_cell (State.publishTrips_cell _ (.inl rfl))]
  exact State.flag_setB_self _ _ _ (of_decide_eq_true rfl) Nat.one_pos

/-! ### An edge of OUT (R206) -/

/-- OUT at its new level, a rising edge counted. -/
def State.cmpMoved (s : State) (d i : Nat) (v : Bool) : State :=
  if v then (s.setB (CMP.CSTAT_OUT d i) v).incSat (CMP.CSTAT_EDGE_CNT d i) else s.setB (CMP.CSTAT_OUT d i) v

theorem ccap_ne_cstat (d i : Nat) : CMP.CCAPT d i ≠ CMP.CSTAT d i ∧ CMP.CCAPC d i ≠ CMP.CSTAT d i := by
  simp only [CMP.CCAPT, CMP.CCAPC, CMP.CSTAT]
  omega

/-- An edge is OUT moved and the end of its tick; triggers and captures leave the status. -/
theorem State.cmpEdge_settles (s : State) (d i : Nat) (v : Bool) : ∃ u : State, u.cell (CMP.CSTAT d i) = (s.cmpMoved d i v).cell (CMP.CSTAT d i) ∧
    s.cmpEdge d i v = u.cmpSettle d i := by
  obtain ⟨hcapt, hcapc⟩ := ccap_ne_cstat d i
  unfold State.cmpEdge
  extract_lets s1 s2 k s4 s5 s3
  refine ⟨s3, ?_, rfl⟩
  have h2 : CellsSame (fun a => a = CMP.CSTAT d i) (s.cmpMoved d i v) s2 := by
    have harm : CellsSame (fun a => a = CMP.CSTAT d i) (s1.incSat (CMP.CSTAT_EDGE_CNT d i))
        ((s1.incSat (CMP.CSTAT_EDGE_CNT d i)).armTriggers d i) := (CellsSame.refl _ _).foldOver _ _ fun k _ t ht => ht.modAdc d k _
    unfold s2 State.cmpMoved
    cases v
    case false =>
      rw [if_neg Bool.false_ne_true, if_neg Bool.false_ne_true]
      exact .refl _ _
    case true =>
      rw [if_pos rfl, if_pos rfl]
      exact harm
  have h3 : CellsSame (fun a => a = CMP.CSTAT d i) (s.cmpMoved d i v) s3 := by
    refine .ite ?_ h2
    have h4 : CellsSame (fun a => a = CMP.CSTAT d i) (s.cmpMoved d i v) s4 :=
      (h2.set (f := CMP.CCAPT_CAP_T d i) _ hcapt).setB (f := CMP.CCAPC_CAP_NEW d i) _ hcapc
    have h5 : CellsSame (fun a => a = CMP.CSTAT d i) (s.cmpMoved d i v) s5 :=
      (h4.setB (f := CMP.CCAPC_CAP_RISE d i) _ hcapc).setB (f := CMP.CCAPC_CAP_DIR d i) _ hcapc
    exact (h5.set (f := CMP.CCAPC_CAP_CNT d i) _ hcapc).of_regs (State.modCmp_regs _ _ _ _)
  exact h3 _ rfl

/-- A field of the status but LAT after an edge. -/
theorem State.cmpEdge_get (s : State) {d : Fin 4} {i : Fin 16} (v : Bool) {g : RF} (ha : g.addr = CMP.CSTAT d i)
    (hg : (CMP.CSTAT_LAT d i).apart g = true) : (s.cmpEdge d i v).get g = (s.cmpMoved d i v).get g := by
  obtain ⟨u, hu, he⟩ := s.cmpEdge_settles d i v
  rw [he, State.cmpSettle_get _ (.inl ha) hg]
  exact State.get_of_cell (by rw [ha, hu])

theorem State.cmpMoved_out (s : State) (d i : Nat) (v : Bool) : (s.cmpMoved d i v).flag (CMP.CSTAT_OUT d i) = v := by
  have hself : (s.setB (CMP.CSTAT_OUT d i) v).flag (CMP.CSTAT_OUT d i) = v := State.flag_setB_self _ _ _ (of_decide_eq_true rfl) Nat.one_pos
  unfold State.cmpMoved
  rw [apply_ite (fun t : State => t.flag (CMP.CSTAT_OUT d i)), State.flag_of_get (State.get_incSat_apart _ rfl), ite_self, hself]

/-- A field of the status that an edge does not move. -/
theorem State.cmpMoved_get (s : State) (d i : Nat) (v : Bool) {g : RF} (hout : (CMP.CSTAT_OUT d i).apart g = true)
    (hcnt : (CMP.CSTAT_EDGE_CNT d i).apart g = true) : (s.cmpMoved d i v).get g = s.get g := by
  unfold State.cmpMoved
  rw [apply_ite (fun t : State => t.get g), State.get_incSat_apart _ hcnt, ite_self, State.get_setB_apart _ _ hout]

/-- R199: OUT has its new level. -/
theorem State.cmpEdge_out (s : State) (d : Fin 4) (i : Fin 16) (v : Bool) : (s.cmpEdge d i v).flag (CMP.CSTAT_OUT d i) = v :=
  (State.flag_of_get (s.cmpEdge_get v rfl rfl)).trans (s.cmpMoved_out d i v)

/-- R204, R206: a rising edge sets LAT and counts. -/
theorem State.cmpEdge_rises (s : State) (d : Fin 4) (i : Fin 16) : (s.cmpEdge d i true).flag (CMP.CSTAT_LAT d i) = true ∧
    (s.cmpEdge d i true).get (CMP.CSTAT_EDGE_CNT d i) = min (s.get (CMP.CSTAT_EDGE_CNT d i) + 1) (2 ^ (CMP.CSTAT_EDGE_CNT d i).w - 1) := by
  constructor
  · obtain ⟨u, hu, he⟩ := s.cmpEdge_settles d i true
    rw [he]
    exact u.cmpSettle_lat d i ((State.flag_of_cell hu).trans (s.cmpMoved_out d i true))
  · rw [s.cmpEdge_get true rfl rfl, State.cmpMoved, if_pos rfl, State.get_incSat_self _ _ (of_decide_eq_true rfl), State.get_setB_apart _ _ rfl]

/-! ### The input of a comparator (R199) -/

/-- A level code that a register can hold stands for its own level. -/
theorem levelSide_of_lt (vin : Int) {code : Nat} (h : code < 4096) : levelSide vin code = compare (4096 * vin) (3300000000 * (code : Int)) := by
  have hcode : max 0 (min 4095 (code : Int)) = code := by omega
  rw [levelSide, hcode]

theorem State.thresh_lt (s : State) (d i : Nat) : s.thresh d i < 4096 := getBits_lt _ _ _

/-- Above THRESH the output is high. -/
theorem State.cmpSense_above (s : State) (d i : Nat) (vin : Int) (hinv : s.cmpInv d i = false)
    (h : 3300000000 * (s.thresh d i : Int) < 4096 * vin) : s.cmpSense d i vin = some true := by
  unfold State.cmpSense
  rw [hinv, if_neg Bool.false_ne_true]
  exact if_pos ((levelSide_of_lt vin (s.thresh_lt d i)).trans (compare_gt_iff_gt.2 h))

/-- The comparator's judgement rests on its configuration, CTHR, TTIME and what it has latched. -/
theorem State.cmpSense_congr {s t : State} {d i : Nat} (hcfg : t.cell (CMP.CCFG d i) = s.cell (CMP.CCFG d i))
    (hthr : t.cell (CMP.CTHR d i) = s.cell (CMP.CTHR d i)) (htime : t.ttime d = s.ttime d) (hcmp : t.cmp d i = s.cmp d i) (vin : Int) :
    t.cmpSense d i vin = s.cmpSense d i vin := by
  have hinv : t.cmpInv d i = s.cmpInv d i := by
    have hen : t.flag (CMP.CCFG_EN d i) = s.flag (CMP.CCFG_EN d i) := State.flag_of_cell hcfg
    have hbit : t.flag (CMP.CCFG_INV d i) = s.flag (CMP.CCFG_INV d i) := State.flag_of_cell hcfg
    unfold State.cmpInv
    rw [hen, hbit, hcmp]
  have hcthr : t.cthr d i = s.cthr d i := by
    unfold State.cthr
    rw [htime, hcmp, State.reg_of_cell hthr]
  unfold State.cmpSense State.thresh
  rw [hinv, hcthr]

/-- A status bit of the comparator bears on none of these. -/
theorem State.cmpSense_setB_cstat (s : State) (d i : Nat) {f : RF} (b : Bool) (hf : f.addr = CMP.CSTAT d i) (vin : Int) :
    (s.setB f b).cmpSense d i vin = s.cmpSense d i vin := by
  have hne : CMP.CTHR d i ≠ f.addr ∧ TRIP.TTIME_LO d ≠ f.addr ∧ TRIP.TTIME_HI d ≠ f.addr := by
    rw [hf]
    simp only [CMP.CTHR, CMP.CSTAT, TRIP.TTIME_LO, TRIP.TTIME_HI]
    omega
  obtain ⟨hthr, hlo, hhi⟩ := hne
  refine State.cmpSense_congr (State.cell_setB_ne _ _ _ _ (hf ▸ ccfg_ne_cstat d i)) (State.cell_setB_ne _ _ _ _ hthr) ?_ ?_ vin
  · unfold State.ttime
    rw [State.get_of_cell (State.cell_setB_ne _ _ _ _ hlo), State.get_of_cell (State.cell_setB_ne _ _ _ _ hhi)]
  · unfold State.cmp
    rw [State.setB_cmps]

end Sys2Proof.Machine
end

section
/-! SUPPORT and the obligation on comparators and their checks (O17). -/

namespace Sys2Proof.Machine

/-! ### The input changes (R199) -/

section
variable {d : Fin 4} {i : Fin 16} {vin : Int} {s : State}

/-- Of an enabled comparator that neither settles nor is checked OUT takes what its input says. -/
theorem execCmpOutChange_eq {v : Bool} (hsense : s.cmpSense d i vin = some v) (hen : s.flag (CMP.CCFG_EN d i) = true)
    (hset : s.flag (CMP.CSTAT_SETTLING d i) = false) (hact : s.flag (CMP.CSTAT_CHK_ACT d i) = false) : execCmpOutChange d i vin s =
      .next (if s.flag (CMP.CSTAT_OUT d i) = v then s else if s.mainRuns then s.cmpEdge d i v else s.setB (CMP.CSTAT_OUT d i) v) := by
  unfold execCmpOutChange
  rw [hsense]
  dsimp only
  rw [hact, hen, hset, if_neg Bool.false_ne_true, Bool.not_true, Bool.or_false, Bool.false_or]
  congr 2
  exact decide_eq_true_eq

/-- R199, R204, R206: OUT moves with an edge. -/
theorem cmpOutChange_edge (v : Bool) (hsense : s.cmpSense d i vin = some v) (hen : s.flag (CMP.CCFG_EN d i) = true)
    (hset : s.flag (CMP.CSTAT_SETTLING d i) = false) (hact : s.flag (CMP.CSTAT_CHK_ACT d i) = false)
    (hout : s.flag (CMP.CSTAT_OUT d i) ≠ v) (hr : s.mainRuns = true) :
    Completes (exec (.cmpOutChange d i vin) s) (fun t => t.flag (CMP.CSTAT_OUT d i) = v ∧ (v = true → t.flag (CMP.CSTAT_LAT d i) = true ∧
      t.get (CMP.CSTAT_EDGE_CNT d i) = min (s.get (CMP.CSTAT_EDGE_CNT d i) + 1) (2 ^ (CMP.CSTAT_EDGE_CNT d i).w - 1))) := by
  refine ⟨_, execCmpOutChange_eq hsense hen hset hact, ?_⟩
  rw [if_neg hout, hr, if_pos rfl]
  refine ⟨s.cmpEdge_out d i v, ?_⟩
  rintro rfl
  exact s.cmpEdge_rises d i

/-- In the hysteresis band nothing changes. -/
theorem cmpOutChange_inBand (hsense : s.cmpSense d i vin = none) : Completes (exec (.cmpOutChange d i vin) s) (fun t => t = s) := by
  refine completes_next ?_
  rw [hsense]

/-- R199: with INV = 0 an input above THRESH shows OUT high. -/
theorem cmpOutChange_above (hinv : s.cmpInv d i = false) (h : 3300000000 * (s.thresh d i : Int) < 4096 * vin)
    (hen : s.flag (CMP.CCFG_EN d i) = true) (hset : s.flag (CMP.CSTAT_SETTLING d i) = false) (hact : s.flag (CMP.CSTAT_CHK_ACT d i) = false) :
    Completes (exec (.cmpOutChange d i vin) s) (fun t => t.flag (CMP.CSTAT_OUT d i) = true) := by
  refine ⟨_, execCmpOutChange_eq (s.cmpSense_above d i vin hinv h) hen hset hact, ?_⟩
  split
  case isTrue hout => exact hout
  case isFalse =>
    split
    · exact s.cmpEdge_out d i true
    · exact State.flag_setB_self _ _ _ (of_decide_eq_true rfl) Nat.one_pos

end

/-! ### EN written (R200, R202, R203) -/

/-- EN of CCFG written. -/
def State.withCmpEn (s : State) (d i : Nat) (en : Bool) : State := s.setB (CMP.CCFG_EN d i) en

theorem State.withCmpEn_flag (s : State) (d i : Nat) (en : Bool) : (s.withCmpEn d i en).flag (CMP.CCFG_EN d i) = en :=
  State.flag_setB_self _ _ _ (of_decide_eq_true rfl) Nat.one_pos

theorem State.withCmpEn_cstat (s : State) (d i : Nat) (en : Bool) : (s.withCmpEn d i en).cell (CMP.CSTAT d i) = s.cell (CMP.CSTAT d i) :=
  State.cell_setB_ne _ _ _ _ (ccfg_ne_cstat d i).symm

/-- The configuration that an enabled comparator latches (R200). -/
def State.latchCmp (s : State) (d i : Nat) : State :=
  s.modCmp d i (fun c => { c with
    mode := s.get (CMP.CCFG_MODE d i), insel := s.get (CMP.CCFG_INSEL d i)
    inv := s.flag (CMP.CCFG_INV d i) })

/-- OUT at INIT, settling (R202). -/
def State.beginSettling (s : State) (d i : Nat) : State :=
  (s.setB (CMP.CSTAT_OUT d i) (s.flag (CMP.CCFG_INIT d i))).setB (CMP.CSTAT_SETTLING d i) true

/-- OUT and LAT dropped (R203). -/
def State.cmpDropped (s : State) (d i : Nat) : State :=
  ((s.setB (CMP.CSTAT_OUT d i) false).setB (CMP.CSTAT_LAT d i) false).setB (CMP.CSTAT_SETTLING d i) false

/-- R202: a write that sets EN outside a check. -/
theorem State.ccfgApply_rises (s : State) (d i : Nat) (h : s.flag (CMP.CCFG_EN d i) = false) (hact : s.flag (CMP.CSTAT_CHK_ACT d i) = false) :
    s.ccfgApply d i (putBits (s.reg (CMP.CCFG d i)) 17 1 1) =
      (((((s.withCmpEn d i true).latchCmp d i).beginSettling d i).cmpSettle d i).refreshCuffs d).refreshTrips d := by
  unfold State.ccfgApply
  extract_lets was s1 now s2 s3 s4 s5
  have hnow : now = true := s.withCmpEn_flag d i true
  have hwas : was = false := h
  have hs2 : s2.flag (CMP.CSTAT_CHK_ACT d i) = false :=
    (State.flag_of_get (State.modCmp_get _ _ _ _ _)).trans ((State.flag_of_cell (s.withCmpEn_cstat d i true)).trans hact)
  have hs5 : s5 = s3.cmpSettle d i := by
    unfold s5
    rw [hwas, hnow, if_pos (by decide), hs2, if_neg Bool.false_ne_true]
  rw [hs5]
  rfl

/-- R203: a write that clears EN. -/
theorem State.ccfgApply_falls (s : State) (d i : Nat) (h : s.flag (CMP.CCFG_EN d i) = true) :
    s.ccfgApply d i (putBits (s.reg (CMP.CCFG d i)) 17 1 0) =
      ((((s.withCmpEn d i false).cmpDropped d i).publishCmps d).refreshCuffs d).refreshTrips d := by
  unfold State.ccfgApply
  extract_lets was s1 now s2 s3 s4 s5
  have hnow : now = false := s.withCmpEn_flag d i false
  have hwas : was = true := h
  have hs5 : s5 = s4.publishCmps d := by
    unfold s5
    rw [hwas, hnow, if_neg (by decide), if_pos (by decide)]
  rw [hs5]
  rfl

/-- A field that neither OUT nor SETTLING bears on. -/
theorem State.beginSettling_get (s : State) (d i : Nat) {g : RF} (hout : (CMP.CSTAT_OUT d i).apart g = true)
    (hset : (CMP.CSTAT_SETTLING d i).apart g = true) : (s.beginSettling d i).get g = s.get g :=
  (State.get_setB_apart _ _ hset).trans (State.get_setB_apart _ _ hout)

theorem State.beginSettling_shows (s : State) (d i : Nat) : (s.beginSettling d i).flag (CMP.CSTAT_OUT d i) = s.flag (CMP.CCFG_INIT d i) ∧
    (s.beginSettling d i).flag (CMP.CSTAT_SETTLING d i) = true :=
  ⟨(State.flag_of_get (State.get_setB_apart _ _ rfl)).trans (State.flag_setB_self _ _ _ (of_decide_eq_true rfl) Nat.one_pos),
    State.flag_setB_self _ _ _ (of_decide_eq_true rfl) Nat.one_pos⟩

/-- R200, R202: the comparator is enabled with OUT at INIT, settles, and counts no edge. -/
theorem cmpEnable_settles (d : Fin 4) (i : Fin 16) (s : State) (h : s.flag (CMP.CCFG_EN d i) = false)
    (hact : s.flag (CMP.CSTAT_CHK_ACT d i) = false) (hr : s.mainRuns = true) (hp : s.parityOk (CMP.CCFG d i) = true) :
    Completes (exec (.cmpEnable d i) s) (fun t => t.flag (CMP.CCFG_EN d i) = true ∧ t.flag (CMP.CSTAT_OUT d i) = s.flag (CMP.CCFG_INIT d i) ∧
      t.flag (CMP.CSTAT_SETTLING d i) = true ∧ t.get (CMP.CSTAT_EDGE_CNT d i) = s.get (CMP.CSTAT_EDGE_CNT d i)) := by
  refine completes_whileRuns hr (completes_next ?_)
  rw [State.checkParity_ok _ _ _ hp, State.ccfgApply_rises _ _ _ h hact]
  have hlatched : ∀ g : RF, (((s.withCmpEn d i true).latchCmp d i).get g) = (s.withCmpEn d i true).get g := fun g => State.modCmp_get _ _ _ _ _
  obtain ⟨hout, hset⟩ := ((s.withCmpEn d i true).latchCmp d i).beginSettling_shows d i
  have hinit := (State.flag_of_get (hlatched (CMP.CCFG_INIT d i))).trans
    (State.flag_of_get (State.get_setB_apart s (f := CMP.CCFG_EN d i) true rfl))
  generalize hu : (s.withCmpEn d i true).latchCmp d i = u at hlatched hout hset hinit ⊢
  have hshown : ∀ {g : RF}, cmpReg d i g.addr → (CMP.CSTAT_LAT d i).apart g = true →
      ((((u.beginSettling d i).cmpSettle d i).refreshCuffs d).refreshTrips d).get g = (u.beginSettling d i).get g := fun ha hg =>
    (State.get_of_cell (State.refreshCuffsTrips_cell _ ha)).trans (State.cmpSettle_get _ ha hg)
  refine ⟨?_, (State.flag_of_get (hshown (.inl rfl) rfl)).trans (hout.trans hinit), (State.flag_of_get (hshown (.inl rfl) rfl)).trans hset, ?_⟩
  · have hen := u.beginSettling_get d i (g := CMP.CCFG_EN d i) (cstat_apart_ccfg rfl rfl rfl rfl) (cstat_apart_ccfg rfl rfl rfl rfl)
    exact (State.flag_of_get ((hshown (.inr rfl) (cstat_apart_ccfg rfl rfl rfl rfl)).trans (hen.trans (hlatched _)))).trans (s.withCmpEn_flag d i true)
  · exact (hshown (.inl rfl) rfl).trans ((u.beginSettling_get d i rfl rfl).trans ((hlatched _).trans (State.get_of_cell (s.withCmpEn_cstat d i true))))

/-- R203: the comparator is disabled with OUT and LAT low, and counts no edge. -/
theorem cmpDisable_drops (d : Fin 4) (i : Fin 16) (s : State) (h : s.flag (CMP.CCFG_EN d i) = true) (hr : s.mainRuns = true)
    (hp : s.parityOk (CMP.CCFG d i) = true) :
    Completes (exec (.cmpDisable d i) s) (fun t => t.flag (CMP.CCFG_EN d i) = false ∧ t.flag (CMP.CSTAT_OUT d i) = false ∧
      t.flag (CMP.CSTAT_LAT d i) = false ∧ t.get (CMP.CSTAT_EDGE_CNT d i) = s.get (CMP.CSTAT_EDGE_CNT d i)) := by
  refine completes_whileRuns hr (completes_next ?_)
  rw [State.checkParity_ok _ _ _ hp, State.ccfgApply_falls _ _ _ h]
  have hshown : ∀ {g : RF}, cmpReg d i g.addr →
      (((((s.withCmpEn d i false).cmpDropped d i).publishCmps d).refreshCuffs d).refreshTrips d).get g =
        ((s.withCmpEn d i false).cmpDropped d i).get g := fun ha =>
    (State.get_of_cell (State.refreshCuffsTrips_cell _ ha)).trans (State.get_of_cell (State.publishCmps_cell _ _ _))
  have hkept : ∀ {g : RF}, (CMP.CSTAT_OUT d i).apart g = true → (CMP.CSTAT_LAT d i).apart g = true → (CMP.CSTAT_SETTLING d i).apart g = true →
      ((s.withCmpEn d i false).cmpDropped d i).get g = (s.withCmpEn d i false).get g := fun ho hl hs =>
    (State.get_setB_apart _ _ hs).trans ((State.get_setB_apart _ _ hl).trans (State.get_setB_apart _ _ ho))
  refine ⟨?_, ?_, ?_, ?_⟩
  · exact (State.flag_of_get ((hshown (.inr rfl)).trans (hkept (cstat_apart_ccfg rfl rfl rfl rfl) (cstat_apart_ccfg rfl rfl rfl rfl)
      (cstat_apart_ccfg rfl rfl rfl rfl)))).trans (s.withCmpEn_flag d i false)
  · exact (State.flag_of_get ((hshown (.inl rfl)).trans ((State.get_setB_apart _ _ rfl).trans (State.get_setB_apart _ _ rfl)))).trans
      (State.flag_setB_self _ _ _ (of_decide_eq_true rfl) Nat.one_pos)
  · exact (State.flag_of_get ((hshown (.inl rfl)).trans (State.get_setB_apart _ _ rfl))).trans
      (State.flag_setB_self _ _ _ (of_decide_eq_true rfl) Nat.one_pos)
  · exact (hshown (.inl rfl)).trans ((hkept rfl rfl rfl).trans (State.get_of_cell (s.withCmpEn_cstat d i false)))

/-! ### Settling ends (R202) -/

/-- The evaluation of the input as settling ends. -/
def State.cmpEvaluated (s : State) (d i : Nat) (vin : Int) : State :=
  (s.cmpSense d i vin).elim (s.setB (CMP.CSTAT_INBAND_AT_START d i) true)
    fun v => if v = s.flag (CMP.CSTAT_OUT d i) then s else s.cmpEdge d i v

theorem execCmpSettlingEnd_eq (d : Fin 4) (i : Fin 16) (vin : Int) (s : State) (hset : s.flag (CMP.CSTAT_SETTLING d i) = true)
    (hact : s.flag (CMP.CSTAT_CHK_ACT d i) = false) :
    execCmpSettlingEnd d i vin s = s.whileRuns (.next ((s.setB (CMP.CSTAT_SETTLING d i) false).cmpEvaluated d i vin)) := by
  unfold execCmpSettlingEnd
  rw [hset, hact, if_neg (by decide), State.cmpEvaluated]
  dsimp only
  cases (s.setB (CMP.CSTAT_SETTLING d i) false).cmpSense d i vin with
  | none => rfl
  | some v => rfl

/-- An evaluation moves OUT where the input says so; it leaves SETTLING. -/
theorem State.cmpEvaluated_shows (s : State) (d : Fin 4) (i : Fin 16) (vin : Int) :
    (s.cmpEvaluated d i vin).flag (CMP.CSTAT_SETTLING d i) = s.flag (CMP.CSTAT_SETTLING d i) ∧
    (s.cmpEvaluated d i vin).flag (CMP.CSTAT_OUT d i) = (s.cmpSense d i vin).getD (s.flag (CMP.CSTAT_OUT d i)) ∧
    (s.cmpSense d i vin = none → (s.cmpEvaluated d i vin).flag (CMP.CSTAT_INBAND_AT_START d i) = true) := by
  unfold State.cmpEvaluated
  cases s.cmpSense d i vin with
  | none =>
    dsimp only [Option.elim_none, Option.getD_none]
    exact ⟨State.flag_of_get (State.get_setB_apart _ _ rfl), State.flag_of_get (State.get_setB_apart _ _ rfl),
      fun _ => State.flag_setB_self _ _ _ (of_decide_eq_true rfl) Nat.one_pos⟩
  | some v =>
    dsimp only [Option.elim_some, Option.getD_some]
    split
    case isTrue h => exact ⟨rfl, h.symm, fun hn => absurd hn (Option.some_ne_none v)⟩
    case isFalse =>
      exact ⟨State.flag_of_get ((s.cmpEdge_get v rfl rfl).trans (s.cmpMoved_get d i v rfl rfl)), s.cmpEdge_out d i v,
        fun hn => absurd hn (Option.some_ne_none v)⟩

/-- R202: the input is evaluated once; in the hysteresis band OUT stays, and INBAND_AT_START shows it. -/
theorem cmpSettlingEnd_evaluates (d : Fin 4) (i : Fin 16) (vin : Int) (s : State) (hset : s.flag (CMP.CSTAT_SETTLING d i) = true)
    (hact : s.flag (CMP.CSTAT_CHK_ACT d i) = false) (hr : s.mainRuns = true) :
    Completes (exec (.cmpSettlingEnd d i vin) s) (fun t => t.flag (CMP.CSTAT_SETTLING d i) = false ∧
      t.flag (CMP.CSTAT_OUT d i) = (s.cmpSense d i vin).getD (s.flag (CMP.CSTAT_OUT d i)) ∧ (s.cmpSense d i vin = none →
      t.flag (CMP.CSTAT_INBAND_AT_START d i) = true)) := by
  have hsense := s.cmpSense_setB_cstat d i (f := CMP.CSTAT_SETTLING d i) false rfl vin
  have hout : (s.setB (CMP.CSTAT_SETTLING d i) false).flag (CMP.CSTAT_OUT d i) = s.flag (CMP.CSTAT_OUT d i) :=
    State.flag_of_get (State.get_setB_apart _ _ rfl)
  obtain ⟨hkept, hmoved, hband⟩ := (s.setB (CMP.CSTAT_SETTLING d i) false).cmpEvaluated_shows d i vin
  rw [hsense, hout] at hmoved
  rw [hsense] at hband
  show Completes (execCmpSettlingEnd d i vin s) _
  rw [execCmpSettlingEnd_eq d i vin s hset hact]
  exact completes_whileRuns hr (completes_next
    ⟨hkept.trans (State.flag_setB_self _ _ _ (of_decide_eq_true rfl) Nat.one_pos), hmoved, hband⟩)

/-! ### LAT and interrupts (R204, R207) -/

/-- R204: a write of LAT leaves what OUT holds. -/
theorem cmpLatWrite_takesOut (d : Fin 4) (i : Fin 16) (s : State) (hact : s.flag (CMP.CSTAT_CHK_ACT d i) = false) (hr : s.mainRuns = true) :
    Completes (exec (.cmpLatWrite d i) s) (fun t => t.flag (CMP.CSTAT_LAT d i) = s.flag (CMP.CSTAT_OUT d i) ∧
      t.flag (CMP.CSTAT_OUT d i) = s.flag (CMP.CSTAT_OUT d i)) := by
  refine completes_whileRuns hr (completes_next ?_)
  unfold State.latWrite
  rw [hact, if_neg Bool.false_ne_true, State.flag_of_cell (State.publishTrips_cell _ (.inl rfl)),
    State.flag_of_cell (State.publishTrips_cell _ (.inl rfl))]
  exact ⟨State.flag_setB_self _ _ _ (of_decide_eq_true rfl) Nat.one_pos, State.flag_of_get (State.get_setB_apart _ _ rfl)⟩

/-- R207: the event carries the edges captured since the last, and their count begins anew. -/
theorem cmpIrqEvent_reports (d : Fin 4) (i : Fin 16) (s : State) (hirq : s.flag (CMP.CCFG_IRQ_EN d i) = true) (hedges : 0 < (s.cmp d i).edges)
    (hr : s.mainRuns = true) :
    Completes (exec (.cmpIrqEvent d i) s) (fun t => (t.cmp d i).edges = 0 ∧ t.out = ⟨.cmpEvent, (Die.drive d).code, [16 * d.val + i.val,
      min (s.cmp d i).edges 255, (s.reg (CMP.CCAPT d i)).toNat, (s.reg (CMP.CCAPC d i)).toNat]⟩ :: s.out ∧ SameBut [.cmps, .out] s t) := by
  refine completes_whileRuns hr (completes_next ?_)
  rw [hirq, decide_eq_true hedges, if_pos (by decide), State.cmp_modCmp_self, State.modCmp_out]
  refine ⟨rfl, rfl, ?_⟩
  have : Open (fun p => p ∉ [Part.cmps, .out]) .cmps := open_of_mem (by decide)
  have : Open (fun p => p ∉ [Part.cmps, .out]) .out := open_of_mem (by decide)
  exact Keeps.sameBut (State.modCmp_keeps (State.event_keeps (Keeps.refl _ s) _ _ _) _ _ _)

/-! ### Checks (R209-R211) -/

/-- What a check holds from before it: the trip source and the wake request; a check that goes on keeps them. -/
def State.checkHeld (s : State) (d i : Nat) : State :=
  if s.flag (CMP.CSTAT_CHK_ACT d i) then s
  else s.modCmp d i (fun c => { c with
    heldTrip := s.cmpTrips d i, heldWake := s.flag (CMP.CCFG_WAKE_EN d i) && s.flag (CMP.CSTAT_OUT d i) })

theorem State.checkHeld_cell (s : State) (d i a : Nat) : (s.checkHeld d i).cell a = s.cell a := by
  unfold State.checkHeld
  rw [apply_ite (fun t : State => t.cell a), State.cell_of_regs (State.modCmp_regs _ _ _ _), ite_self]

theorem State.checkHeld_sameBut (s : State) (d i : Nat) : SameBut [.cmps] s (s.checkHeld d i) :=
  have : Open (fun p => p ∉ [Part.cmps]) .cmps := open_of_mem (by decide)
  Keeps.sameBut (keeps_ite (Keeps.refl _ s) (State.modCmp_keeps (Keeps.refl _ s) _ _ _))

/-- CHK written, the check shown with what the comparator shows under it. -/
def State.checkBegun (s : State) (d i v : Nat) (out : Bool) : State :=
  ((s.set (CMP.CTEST_CHK d i) v).setB (CMP.CSTAT_CHK_ACT d i) true).setB (CMP.CSTAT_CHK_OUT d i) out

theorem ctest_ne_cstat (d i : Nat) : CMP.CTEST d i ≠ CMP.CSTAT d i := by
  simp only [CMP.CTEST, CMP.CSTAT]
  omega

/-- A field of CTEST shares no bit with one of CSTAT. -/
theorem cstat_apart_ctest {d i : Nat} {f : RF} (hf : f.addr = CMP.CSTAT d i) (hff : f.fits = true) : f.apart (CMP.CTEST_CHK d i) = true :=
  RF.apart_of_addr_ne hff rfl (by rw [hf]; exact ctest_ne_cstat d i)

section
variable {d : Fin 4} {i : Fin 16} {v : Fin 8} {free : Bool} {s : State}

/-- R209: a write of CHK that R210 allows begins the check. -/
theorem execCmpChkWrite_allowed (h1 : 1 ≤ v.val) (h4 : v.val ≤ 4) (ha : s.checkAllowed d i = true) :
    execCmpChkWrite d i v free s = s.whileRuns (.next ((s.checkHeld d i).checkBegun d i v (s.checkShows d i v free))) := by
  unfold execCmpChkWrite State.chkWrite
  rw [if_neg (by omega), ha, if_neg (by decide)]
  rfl

theorem State.checkBegun_shows (s : State) (d i v : Nat) (out : Bool) (hv : v < 8) : (s.checkBegun d i v out).get (CMP.CTEST_CHK d i) = v ∧
    (s.checkBegun d i v out).flag (CMP.CSTAT_CHK_ACT d i) = true ∧ (s.checkBegun d i v out).flag (CMP.CSTAT_CHK_OUT d i) = out ∧
    (s.checkBegun d i v out).flag (CMP.CSTAT_OUT d i) = s.flag (CMP.CSTAT_OUT d i) := by
  refine ⟨?_, ?_, State.flag_setB_self _ _ _ (of_decide_eq_true rfl) Nat.one_pos, State.flag_of_get ?_⟩
  · refine (State.get_setB_apart _ _ (cstat_apart_ctest rfl rfl)).trans ((State.get_setB_apart _ _ (cstat_apart_ctest rfl rfl)).trans ?_)
    rw [State.get_set_self _ _ _ (of_decide_eq_true rfl)]
    exact Nat.mod_eq_of_lt hv
  · exact (State.flag_of_get (State.get_setB_apart _ _ rfl)).trans (State.flag_setB_self _ _ _ (of_decide_eq_true rfl) Nat.one_pos)
  · refine (State.get_setB_apart _ _ rfl).trans ((State.get_setB_apart _ _ rfl).trans (State.get_set_ne _ _ _ _ (ctest_ne_cstat d i).symm))

theorem State.checkBegun_changes (s : State) (d i v : Nat) (out : Bool) : SameBut [.regs] s (s.checkBegun d i v out) ∧
    RegsBut [(CMP.CTEST_CHK d i).addr, (CMP.CSTAT_CHK_ACT d i).addr, (CMP.CSTAT_CHK_OUT d i).addr] s (s.checkBegun d i v out) :=
  ⟨((State.setReg_sameBut _ _ _).trans (State.setReg_sameBut _ _ _)).trans (State.setReg_sameBut _ _ _),
    ((State.setReg_regsBut _ _ _ (by simp)).trans (State.setReg_regsBut _ _ _ (by simp))).trans (State.setReg_regsBut _ _ _ (by simp))⟩

/-- R209: the check shows, and OUT holds its value. -/
theorem cmpChkWrite_begins (h1 : 1 ≤ v.val) (h4 : v.val ≤ 4) (ha : s.checkAllowed d i = true) (hr : s.mainRuns = true) :
    Completes (exec (.cmpChkWrite d i v free) s) (fun t => t.get (CMP.CTEST_CHK d i) = v.val ∧ t.flag (CMP.CSTAT_CHK_ACT d i) = true ∧
      t.flag (CMP.CSTAT_CHK_OUT d i) = s.checkShows d i v free ∧ t.flag (CMP.CSTAT_OUT d i) = s.flag (CMP.CSTAT_OUT d i) ∧
      SameBut [.regs, .cmps] s t ∧
      RegsBut [(CMP.CTEST_CHK d i).addr, (CMP.CSTAT_CHK_ACT d i).addr, (CMP.CSTAT_CHK_OUT d i).addr] s t) := by
  obtain ⟨hchk, hact, hshow, hout⟩ := (s.checkHeld d i).checkBegun_shows d i v (s.checkShows d i v free) v.isLt
  obtain ⟨hparts, hregs⟩ := (s.checkHeld d i).checkBegun_changes d i v (s.checkShows d i v free)
  show Completes (execCmpChkWrite d i v free s) _
  rw [execCmpChkWrite_allowed h1 h4 ha]
  exact completes_whileRuns hr (completes_next ⟨hchk, hact, hshow, hout.trans (State.flag_of_cell (s.checkHeld_cell d i _)),
    ((s.checkHeld_sameBut d i).mono (by decide)).trans (hparts.mono (by decide)),
    RegsBut.trans (fun a _ => s.checkHeld_cell d i a) hregs⟩)

/-- R209: with the input tied to 3.0 V or 0.3 V a threshold between them shows the tied level. -/
theorem State.checkShows_tied (hv : v = 2 ∨ v = 3) (hinv : s.cmpInv d i = false) (hlo : 373 ≤ s.thresh d i) (hhi : s.thresh d i ≤ 3723) :
    s.checkShows d i v free = decide (v = 2) := by
  have hlow : levelSide 300000000 (s.thresh d i) = .lt :=
    (levelSide_of_lt _ (s.thresh_lt d i)).trans (compare_lt_iff_lt.2 (by omega))
  have hhigh : levelSide 3000000000 (s.thresh d i) = .gt :=
    (levelSide_of_lt _ (s.thresh_lt d i)).trans (compare_gt_iff_gt.2 (by omega))
  have hrange : (!s.cmpInv d i && decide (levelSide 300000000 (s.thresh d i) = .lt) &&
      decide (levelSide 3000000000 (s.thresh d i) = .gt)) = true := by
    rw [hinv, hlow, hhigh]
    decide
  unfold State.checkShows
  rw [hrange]
  rcases hv with rfl | rfl
  · rfl
  · rfl

theorem cmpChkWrite_tied (hv : v = 2 ∨ v = 3) (ha : s.checkAllowed d i = true) (hinv : s.cmpInv d i = false) (hlo : 373 ≤ s.thresh d i)
    (hhi : s.thresh d i ≤ 3723) (hr : s.mainRuns = true) :
    Completes (exec (.cmpChkWrite d i v free) s) (fun t => t.flag (CMP.CSTAT_CHK_OUT d i) = decide (v = 2)) := by
  have hrange : 1 ≤ v.val ∧ v.val ≤ 4 := by
    rcases hv with rfl | rfl <;> decide
  obtain ⟨t, ht, _, _, hshow, _⟩ := cmpChkWrite_begins (free := free) hrange.1 hrange.2 ha hr
  exact ⟨t, ht, hshow.trans (State.checkShows_tied hv hinv hlo hhi)⟩

/-- R210: a check that may not begin is refused. -/
theorem cmpChkWrite_refused (h1 : 1 ≤ v.val) (h4 : v.val ≤ 4) (ha : s.checkAllowed d i = false) (hr : s.mainRuns = true) :
    Completes (exec (.cmpChkWrite d i v free) s) (fun t => t.flag (CMP.CSTAT_CHK_REJ d i) = true ∧
      t.get (CMP.CTEST_CHK d i) = s.get (CMP.CTEST_CHK d i) ∧ SameBut [.regs] s t ∧ RegsBut [(CMP.CSTAT_CHK_REJ d i).addr] s t) := by
  refine completes_whileRuns hr (completes_next ?_)
  unfold State.chkWrite
  rw [if_neg (by omega), ha, if_pos (by decide)]
  exact ⟨State.flag_setB_self _ _ _ (of_decide_eq_true rfl) Nat.one_pos, State.get_setB_apart _ _ (cstat_apart_ctest rfl rfl),
    State.setReg_sameBut _ _ _, State.setReg_regsBut _ _ _ (List.mem_singleton.2 rfl)⟩

/-- A check ended: the comparator settles if it is enabled (R211). -/
def State.checkEnded (s : State) (d i : Nat) : State :=
  (s.setB (CMP.CSTAT_CHK_ACT d i) false).setB (CMP.CSTAT_SETTLING d i) (s.flag (CMP.CCFG_EN d i))

theorem ctest_notMem_tripRegs : ∀ (d : Fin 4) (i : Fin 16), CMP.CTEST d i ∉ tripRegs d := by decide

theorem ctest_ne_ccfg (d i : Nat) : CMP.CCFG d i ≠ CMP.CTEST d i := by
  simp only [CMP.CTEST, CMP.CCFG]
  omega

/-- R209, R211: a code above 4 acts as 0 and ends a check. -/
theorem cmpChkWrite_ends (h4 : 4 < v.val) (hact : s.flag (CMP.CSTAT_CHK_ACT d i) = true) (hr : s.mainRuns = true) :
    Completes (exec (.cmpChkWrite d i v free) s) (fun t => t.get (CMP.CTEST_CHK d i) = 0 ∧ t.flag (CMP.CSTAT_CHK_ACT d i) = false ∧
      t.flag (CMP.CSTAT_SETTLING d i) = s.flag (CMP.CCFG_EN d i)) := by
  have hact' : (s.set (CMP.CTEST_CHK d i) 0).flag (CMP.CSTAT_CHK_ACT d i) = true :=
    (State.flag_of_get (State.get_set_ne _ _ _ _ (ctest_ne_cstat d i).symm)).trans hact
  have hen : (s.set (CMP.CTEST_CHK d i) 0).flag (CMP.CCFG_EN d i) = s.flag (CMP.CCFG_EN d i) :=
    State.flag_of_get (State.get_set_ne _ _ _ _ (ctest_ne_ccfg d i))
  refine completes_whileRuns hr (completes_next ?_)
  unfold State.chkWrite
  rw [if_pos (.inr h4)]
  dsimp only
  rw [hact', if_pos rfl, ← State.checkEnded, State.get_of_cell (State.refreshTrips_cell _ _ _ (ctest_notMem_tripRegs d i)),
    State.flag_of_cell (State.refreshTrips_cell _ _ _ (cmpReg_notTrip (.inl rfl))),
    State.flag_of_cell (State.refreshTrips_cell _ _ _ (cmpReg_notTrip (.inl rfl)))]
  refine ⟨?_, ?_, (State.flag_setB_self _ _ _ (of_decide_eq_true rfl) Nat.one_pos).trans hen⟩
  · exact (State.get_setB_apart _ _ (cstat_apart_ctest rfl rfl)).trans ((State.get_setB_apart _ _ (cstat_apart_ctest rfl rfl)).trans
      (State.get_set_self _ _ _ (of_decide_eq_true rfl)))
  · exact (State.flag_of_get (State.get_setB_apart _ _ rfl)).trans (State.flag_setB_self _ _ _ (of_decide_eq_true rfl) Nat.one_pos)

end

/-- Settles O17: one lemma for each command and outcome. -/
theorem comparatorsAndChecks : Obligations.ComparatorsAndChecks :=
  ⟨fun _ _ _ v _ => cmpOutChange_edge v, fun _ _ _ _ => cmpOutChange_inBand, fun _ _ _ _ => cmpOutChange_above, cmpEnable_settles,
    cmpDisable_drops, cmpSettlingEnd_evaluates, cmpLatWrite_takesOut, cmpIrqEvent_reports, fun _ _ _ _ _ => cmpChkWrite_begins,
    fun _ _ _ _ _ => cmpChkWrite_tied, fun _ _ _ _ _ => cmpChkWrite_refused, fun _ _ _ _ _ => cmpChkWrite_ends⟩

end Sys2Proof.Machine
end

section
/-! SUPPORT. What a word of a memory window reads after a store, what a change of one control-law engine leaves as it was, and the one rule for
an instruction that changes its engine alone. -/

namespace Sys2Proof.Machine

/-! ### Words of a memory window -/

theorem length_bytesLE (n : Nat) : ∀ x : Nat, (bytesLE x n).length = n := by
  induction n with
  | zero => intro x; rfl
  | succ n ih => intro x; exact congrArg (· + 1) (ih (x / 256))

/-- Bytes written least significant first spell the number again, up to what `n` bytes hold. -/
theorem Memory.readLE_writeBytes_bytesLE (n : Nat) : ∀ (m : Memory) (a x : Nat),
    Memory.readLE (Memory.writeBytes m a (bytesLE x n)) a n = x % 256 ^ n := by
  induction n with
  | zero => intro m a x; exact (Nat.mod_one x).symm
  | succ n ih =>
    intro m a x
    have hlow : Memory.read (Memory.writeBytes m a (bytesLE x (n + 1))) a = BitVec.ofNat 8 x :=
      (Memory.read_writeBytes_ne _ _ _ _ (.inl a.lt_succ_self)).trans (Memory.read_write_self m a _)
    rw [Memory.readLE, hlow, bytesLE, Memory.writeBytes, ih, Nat.pow_succ', Nat.mod_mul, BitVec.toNat_ofNat]

theorem State.memWord_setMemWord_self (s : State) (a : Nat) (w : Word) : (s.setMemWord a w).memWord a = w := by
  unfold State.memWord State.setMemWord
  rw [Memory.readLE_writeBytes_bytesLE, show 256 ^ 4 = 2 ^ 32 by decide, Nat.mod_eq_of_lt w.isLt, BitVec.ofNat_toNat, BitVec.setWidth_eq]

theorem State.setMemWord_memBut (s : State) (a : Nat) (w : Word) : MemBut a 4 s (s.setMemWord a w) := fun x hx =>
  Memory.read_writeBytes_ne _ _ _ _ (by rwa [length_bytesLE])

theorem State.setMemWord_sameBut (s : State) (a : Nat) (w : Word) : SameBut [.mem] s (s.setMemWord a w) :=
  have : Open (fun p => p ∉ [Part.mem]) .mem := open_of_mem (by decide)
  Keeps.sameBut (State.setMemWord_keeps (Keeps.refl _ s) a w)

/-! ### A change of one engine -/

theorem State.cle_modCle_self (s : State) (d : Fin 4) (c : Fin 2) (f : CleCore → CleCore) : (s.modCle d c f).cle d c = f (s.cle d c) :=
  vget_vmod_self _ _ _ (by omega)

theorem State.cle_of_cles {s t : State} (h : t.cles = s.cles) (d c : Nat) : t.cle d c = s.cle d c := by
  rw [State.cle, h, ← State.cle]

@[simp] theorem State.modCle_cell (s : State) (d c a : Nat) (f : CleCore → CleCore) : (s.modCle d c f).cell a = s.cell a := rfl

@[simp] theorem State.modCle_reg (s : State) (d c a : Nat) (f : CleCore → CleCore) : (s.modCle d c f).reg a = s.reg a := rfl

@[simp] theorem State.modCle_get (s : State) (d c : Nat) (f : CleCore → CleCore) (g : RF) : (s.modCle d c f).get g = s.get g := rfl

@[simp] theorem State.modCle_flag (s : State) (d c : Nat) (f : CleCore → CleCore) (g : RF) : (s.modCle d c f).flag g = s.flag g := rfl

@[simp] theorem State.modCle_cleData (s : State) (d c e b w : Nat) (f : CleCore → CleCore) : (s.modCle d c f).cleData e b w = s.cleData e b w := rfl

theorem State.cleData_setCleData_self (s : State) (d c w : Nat) (x : Word) : (s.setCleData d c w x).cleData d c w = x :=
  s.memWord_setMemWord_self _ x

theorem State.modCle_sameBut (s : State) (d c : Nat) (f : CleCore → CleCore) : SameBut [.cles] s (s.modCle d c f) :=
  have : Open (fun p => p ∉ [Part.cles]) .cles := open_of_mem (by decide)
  Keeps.sameBut (State.modCle_keeps (Keeps.refl _ s) d c f)

/-- A change of one engine: its new value, no other part of the state, no other engine. -/
theorem State.modCle_changes (s : State) (d : Fin 4) (c : Fin 2) (f : CleCore → CleCore) : (s.modCle d c f).cle d c = f (s.cle d c) ∧
    SameBut [.cles] s (s.modCle d c f) ∧ ∀ i : Nat, i ≠ 2 * d.val + c.val → vget (s.modCle d c f).cles i = vget s.cles i :=
  ⟨s.cle_modCle_self d c f, s.modCle_sameBut d c f, fun i hi => vget_vmod_ne _ _ i f hi⟩

/-- From `s` to `t` nothing has changed but engines and the registers `l`. -/
def CleChanged (l : List Nat) (s t : State) : Prop := SameBut [.regs, .cles] s t ∧ RegsBut l s t

theorem CleChanged.refl (l : List Nat) (s : State) : CleChanged l s s := ⟨⟨rfl, fun p _ => p.same_refl s⟩, fun _ _ => rfl⟩

theorem CleChanged.modCle {l : List Nat} {s t : State} (h : CleChanged l s t) (d c : Nat) (f : CleCore → CleCore) :
    CleChanged l s (t.modCle d c f) := ⟨h.1.trans ((t.modCle_sameBut d c f).mono (by decide)), h.2⟩

theorem CleChanged.setReg {l : List Nat} {s t : State} (h : CleChanged l s t) {a : Nat} (w : Word) (ha : a ∈ l) :
    CleChanged l s (t.setReg a w) := ⟨h.1.trans ((t.setReg_sameBut a w).mono (by decide)), h.2.trans (t.setReg_regsBut a w ha)⟩

theorem CleChanged.set {l : List Nat} {s t : State} (h : CleChanged l s t) (f : RF) (x : Nat) (hf : f.addr ∈ l) : CleChanged l s (t.set f x) :=
  h.setReg _ hf

theorem CleChanged.setB {l : List Nat} {s t : State} (h : CleChanged l s t) (f : RF) (b : Bool) (hf : f.addr ∈ l) : CleChanged l s (t.setB f b) :=
  h.setReg _ hf

/-! ### Registers of an engine -/

theorem State.flag_setB_apart (s : State) {f g : RF} (b : Bool) (h : f.apart g = true) : (s.setB f b).flag g = s.flag g :=
  State.flag_of_get (s.get_setB_apart b h)

theorem State.flag_set_apart (s : State) {f g : RF} (x : Nat) (h : f.apart g = true) : (s.set f x).flag g = s.flag g :=
  State.flag_of_get (s.get_set_apart x h)

theorem State.flag_incSat_apart (s : State) {f g : RF} (h : f.apart g = true) : (s.incSat f).flag g = s.flag g :=
  State.flag_of_get (s.get_incSat_apart h)

theorem cleRegs_ne (d c : Nat) : CLE.CLECFG d c ≠ CLE.FLAGS d c ∧ CLE.CLECFG d c ≠ CLE.CYC d c ∧ CLE.FLAGS d c ≠ CLE.CYC d c := by
  simp only [CLE.CLECFG, CLE.FLAGS, CLE.CYC]
  omega

theorem cleRegs_notMem_tripRegs : ∀ (d : Fin 4) (c : Fin 2), CLE.FLAGS d c ∉ tripRegs d ∧ CLE.CYC d c ∉ tripRegs d ∧ CLE.ECC d c ∉ tripRegs d := by
  decide

theorem cleRegs_notMem_gridRegs : ∀ (d : Fin 4) (c : Fin 2), CLE.FLAGS d c ∉ gridRegs d ∧ CLE.ECC d c ∉ gridRegs d := by decide

theorem cleRegs_ne_kq : ∀ (d : Fin 4) (c : Fin 2), CLE.FLAGS d c ≠ KPR.KQ ∧ CLE.ECC d c ≠ KPR.KQ := by decide

/-! ### Instructions that change the engine alone (R239) -/

/-- An instruction that executes has its effect on the engine, takes its cycles and moves the program counter; nothing else changes. -/
theorem completes_cleRun {d : Fin 4} {c : Fin 2} {s : State} {op : Nat} {f : Word → CleCore → CleCore}
    (h : s.cleReady d c op = true) (hr : s.mainRuns = true) : Completes (s.whileRuns (.next (s.cleRun d c op f))) (fun t =>
      t.cle d c = ({ f (s.cleWord d c) (s.cle d c) with cyc := (f (s.cleWord d c) (s.cle d c)).cyc + cleCost op } : CleCore).advance ∧
      SameBut [.cles] s t ∧ ∀ i : Nat, i ≠ 2 * d.val + c.val → vget t.cles i = vget s.cles i) := by
  refine completes_whileRuns hr (completes_next ?_)
  rw [State.cleRun, if_pos h]
  exact s.modCle_changes d c _

end Sys2Proof.Machine
end

section
/-! The obligation on the register instructions (O20). -/

namespace Sys2Proof.Machine

/-- Settles O20: each command is one run of its instruction, with its own effect and cycles. -/
theorem cleArithmetic : Obligations.CleArithmetic :=
  ⟨fun _ _ _ => completes_cleRun (op := 0x08), fun _ _ _ => completes_cleRun (op := 0x09), fun _ _ _ => completes_cleRun (op := 0x0A),
    fun _ _ _ => completes_cleRun (op := 0x0B), fun _ _ _ => completes_cleRun (op := 0x0C), fun _ _ _ => completes_cleRun (op := 0x0D),
    fun _ _ _ => completes_cleRun (op := 0x0E), fun _ _ _ => completes_cleRun (op := 0x0F), fun _ _ _ => completes_cleRun (op := 0x10),
    fun _ _ _ => completes_cleRun (op := 0x1B)⟩

end Sys2Proof.Machine
end

section
/-! SUPPORT and the obligation on multiplies, accumulators, rotations and tables (O21). -/

namespace Sys2Proof.Machine

/-- R239: SINCOS gives a value within 32 units of Q1.31 of the exact one: the free value is held between two bounds of that distance, and
the saturation to full scale brings it no further off, since the exact one lies within full scale. -/
theorem sincosValue_close (cosine : Bool) (a : Nat) (h : (sin64 cosine a).natAbs ≤ 2 ^ 64) :
    (2 ^ 33 * sincosValue cosine a - sin64 cosine a).natAbs ≤ 2 ^ 38 := by
  unfold sincosValue
  extract_lets r lo hi
  generalize Config.sincos cosine (a % 65536) = x
  change r.natAbs ≤ 2 ^ 64 at h
  change (2 ^ 33 * _ - r).natAbs ≤ 2 ^ 38
  have hlo : r - 2 ^ 38 ≤ 2 ^ 33 * lo ∧ 2 ^ 33 * lo < r - 2 ^ 38 + 2 ^ 33 := by unfold lo; omega
  have hhi : r + 2 ^ 38 - 2 ^ 33 < 2 ^ 33 * hi ∧ 2 ^ 33 * hi ≤ r + 2 ^ 38 := by unfold hi; omega
  have hheld : lo ≤ max lo (min hi x) ∧ max lo (min hi x) ≤ hi := ⟨le_max_left _ _, max_le (by omega) (min_le_left _ _)⟩
  generalize max lo (min hi x) = y at hheld ⊢
  omega

/-- Settles O21: each command is one run of its instruction; SINCOS keeps its bound. -/
theorem cleMultiply : Obligations.CleMultiply :=
  ⟨fun _ _ _ => completes_cleRun (op := 0x11), fun _ _ _ => completes_cleRun (op := 0x12), fun _ _ _ => completes_cleRun (op := 0x13),
    fun _ _ _ => completes_cleRun (op := 0x14), fun _ _ _ => completes_cleRun (op := 0x15), fun _ _ _ => completes_cleRun (op := 0x16),
    fun _ _ _ => completes_cleRun (op := 0x18), fun _ _ _ => completes_cleRun (op := 0x19), fun _ _ _ => completes_cleRun (op := 0x1A),
    fun _ _ _ => completes_cleRun (op := 0x17), sincosValue_close⟩

end Sys2Proof.Machine
end

section
/-! SUPPORT and the obligation on stores, END, branches, loops, illegal instructions and overruns (O22). -/

namespace Sys2Proof.Machine

/-! ### Stores (R240) -/

theorem CleCore.advance_marks (x : CleCore) : x.advance.marks = x.marks := by
  unfold CleCore.advance
  cases x.loop
  case none => rfl
  case some l =>
    dsimp only
    split
    · split <;> rfl
    · rfl

/-- A store to the output area is marked. -/
theorem State.cleStore_output (s : State) (d c : Nat) {m : Nat} (w : Word) (h : 0xA0 ≤ m ∧ m < 0xC8) : s.cleStore d c m w =
    (s.setCleData d c m w).modCle d c (fun x => { x with marks := x.marks ||| 2 ^ (m - 0xA0) }) := if_pos h

theorem State.cleStore_working (s : State) (d c : Nat) {m : Nat} (w : Word) (h : 0x170 ≤ m ∧ m < 0x200) :
    s.cleStore d c m w = s.setCleData d c m w := by
  rw [State.cleStore, if_neg (by omega), if_pos h]

theorem State.cleStore_error (s : State) (d c : Nat) {m : Nat} (w : Word) (h : m < 0xA0 ∨ (0xC8 ≤ m ∧ m < 0x170)) :
    s.cleStore d c m w = s.setB (CLE.FLAGS_ST_ERR d c) true := by
  rw [State.cleStore, if_neg (by omega), if_neg (by omega)]

section
variable {d : Fin 4} {c : Fin 2} {s : State}

theorem cleSt_output (h : s.cleReady d c 0x04 = true) (hlo : 0xA0 ≤ fM (s.cleWord d c)) (hhi : fM (s.cleWord d c) < 0xC8)
    (hr : s.mainRuns = true) :
    Completes (exec (.cleSt d c) s) (fun t => t.cleData d c (fM (s.cleWord d c)) = (s.cle d c).reg (fA (s.cleWord d c)) ∧
      (t.cle d c).marks.testBit (fM (s.cleWord d c) - 0xA0) = true ∧ t.regs = s.regs ∧ SameBut [.mem, .cles] s t ∧
      MemBut (cleDataAddr d c (fM (s.cleWord d c))) 4 s t) := by
  refine completes_whileRuns hr (completes_next ?_)
  rw [if_pos h, State.cleStore_output _ _ _ _ ⟨hlo, hhi⟩]
  rw [State.modCle_cleData, State.modCle_cleData, State.cleData_setCleData_self]
  refine ⟨rfl, ?_, rfl, ?_, State.setMemWord_memBut _ _ _⟩
  · rw [State.cle_modCle_self, State.cle_modCle_self, CleCore.advance_marks]
    simp
  · exact ((State.setMemWord_sameBut _ _ _).mono (by decide)).trans
      (((State.modCle_sameBut _ _ _ _).trans (State.modCle_sameBut _ _ _ _)).mono (by decide))

theorem cleSt_error (h : s.cleReady d c 0x04 = true)
    (hm : fM (s.cleWord d c) < 0xA0 ∨ (0xC8 ≤ fM (s.cleWord d c) ∧ fM (s.cleWord d c) < 0x170)) (hr : s.mainRuns = true) :
    Completes (exec (.cleSt d c) s) (fun t => t.flag (CLE.FLAGS_ST_ERR d c) = true ∧ t.mem = s.mem ∧ (t.cle d c).marks = (s.cle d c).marks ∧
      SameBut [.regs, .cles] s t ∧ RegsBut [CLE.FLAGS d c] s t) := by
  refine completes_whileRuns hr (completes_next ?_)
  rw [if_pos h, State.cleStore_error _ _ _ _ hm]
  rw [State.modCle_flag]
  refine ⟨State.flag_setB_self _ _ _ (of_decide_eq_true rfl) Nat.one_pos, (State.modCle_mem _ _ _ _).trans (State.setB_mem _ _ _), ?_,
    ((CleChanged.refl _ s).setB (CLE.FLAGS_ST_ERR d c) true (List.mem_singleton.2 rfl)).modCle d c _⟩
  rw [State.cle_modCle_self, CleCore.advance_marks, State.cle_of_cles (State.setB_cles _ _ _)]

theorem cleStx_working {m : Nat} (h : s.cleReady d c 0x05 = true)
    (hm : m = (getBits ((s.cle d c).reg (fB (s.cleWord d c))) 0 9 + fM (s.cleWord d c)) % 512) (hlo : 0x170 ≤ m) (hr : s.mainRuns = true) :
    Completes (exec (.cleStx d c) s) (fun t => t.cleData d c m = (s.cle d c).reg (fA (s.cleWord d c)) ∧ t.regs = s.regs ∧
      SameBut [.mem, .cles] s t ∧ MemBut (cleDataAddr d c m) 4 s t) := by
  refine completes_whileRuns hr (completes_next ?_)
  rw [if_pos h]
  dsimp only
  rw [← hm, State.cleStore_working _ _ _ _ ⟨hlo, hm ▸ Nat.mod_lt _ (by decide)⟩, State.modCle_cleData, State.cleData_setCleData_self]
  exact ⟨rfl, rfl, ((State.setMemWord_sameBut _ _ _).mono (by decide)).trans
    ((State.modCle_sameBut _ _ _ _).mono (by decide)), State.setMemWord_memBut _ _ _⟩

/-! ### END, branches and loops (R228, R243) -/

/-- The end of a program as the registers show it. -/
def State.cleEnded (s : State) (d c : Nat) : State := (s.setB (CLE.FLAGS_RUNNING d c) false).set (CLE.CYC_LAST_CYC d c) (s.cle d c).cyc

theorem State.cleEnded_shows (s : State) (d c : Nat) : (s.cleEnded d c).flag (CLE.FLAGS_RUNNING d c) = false ∧
    (s.cleEnded d c).get (CLE.CYC_LAST_CYC d c) = (s.cle d c).cyc % 65536 ∧
    (s.cleEnded d c).get (CLE.CYC_MAX_CYC d c) = s.get (CLE.CYC_MAX_CYC d c) := by
  obtain ⟨_, _, hne⟩ := cleRegs_ne d c
  refine ⟨?_, State.get_set_self _ _ _ (of_decide_eq_true rfl), ?_⟩
  · exact (State.flag_of_get (State.get_set_apart _ _ (RF.apart_of_addr_ne rfl rfl hne))).trans
      (State.flag_setB_self _ _ _ (of_decide_eq_true rfl) Nat.one_pos)
  · exact (State.get_set_apart _ _ rfl).trans (State.get_setB_apart _ _ (RF.apart_of_addr_ne rfl rfl hne.symm))

theorem State.cleEnded_changed (s : State) (d c : Nat) : CleChanged [CLE.FLAGS d c, CLE.CYC d c] s (s.cleEnded d c) :=
  ((CleChanged.refl _ s).setB (CLE.FLAGS_RUNNING d c) false List.mem_cons_self).set (CLE.CYC_LAST_CYC d c) _
    (List.mem_cons_of_mem _ List.mem_cons_self)

/-- R228: END clears RUNNING and gives LAST_CYC and MAX_CYC the cycle it stands at. -/
theorem cleEnd_ends (h : s.cleReady d c 0x01 = true) (hcyc : (s.cle d c).cyc < 65535) (hr : s.mainRuns = true) :
    Completes (exec (.cleEnd d c) s) (fun t => t.flag (CLE.FLAGS_RUNNING d c) = false ∧ t.get (CLE.CYC_LAST_CYC d c) = (s.cle d c).cyc ∧
      t.get (CLE.CYC_MAX_CYC d c) = max (s.get (CLE.CYC_MAX_CYC d c)) (s.cle d c).cyc ∧ SameBut [.regs, .cles] s t ∧
      RegsBut [CLE.FLAGS d c, CLE.CYC d c] s t) := by
  obtain ⟨_, _, hne⟩ := cleRegs_ne d c
  obtain ⟨hrun, hlast, hmax⟩ := s.cleEnded_shows d c
  have hlast := hlast.trans (Nat.mod_eq_of_lt (by omega))
  refine completes_whileRuns hr (completes_next ?_)
  rw [if_pos h]
  dsimp only
  rw [← State.cleEnded, hmax, State.modCle_flag, State.modCle_get, State.modCle_get]
  by_cases hlt : s.get (CLE.CYC_MAX_CYC d c) < (s.cle d c).cyc
  · rw [if_pos ⟨hcyc, hlt⟩, max_eq_right hlt.le]
    exact ⟨(State.flag_of_get (State.get_set_apart _ _ (RF.apart_of_addr_ne rfl rfl hne))).trans hrun,
      (State.get_set_apart _ _ rfl).trans hlast,
      (State.get_set_self _ _ _ (of_decide_eq_true rfl)).trans (Nat.mod_eq_of_lt (Nat.lt_succ_of_lt hcyc)),
      ((s.cleEnded_changed d c).set (CLE.CYC_MAX_CYC d c) _ (List.mem_cons_of_mem _ List.mem_cons_self)).modCle d c _⟩
  · rw [if_neg fun hlate => hlt hlate.2, max_eq_left (Nat.le_of_not_lt hlt)]
    exact ⟨hrun, hlast, hmax, (s.cleEnded_changed d c).modCle d c _⟩

/-- R243: a branch takes its two cycles, and where it is taken stays in the page and ends the loop. -/
theorem cleBr_branches (h : s.cleReady d c 0x1C = true) (hr : s.mainRuns = true) :
    Completes (exec (.cleBr d c) s) (fun t => t.cle d c = (if brTaken (getBits (s.cleWord d c) 24 2) ((s.cle d c).val (fA (s.cleWord d c))) then
      { s.cle d c with cyc := (s.cle d c).cyc + 2, pc := 2048 * ((s.cle d c).pc / 2048) + getBits (s.cleWord d c) 0 11, loop := none } else
      ({ s.cle d c with cyc := (s.cle d c).cyc + 2 } : CleCore).advance) ∧ SameBut [.cles] s t ∧ (∀ i : Nat, i ≠ 2 * d.val + c.val →
      vget t.cles i = vget s.cles i)) := by
  refine completes_whileRuns hr (completes_next ?_)
  rw [if_pos h]
  exact s.modCle_changes d c _

theorem cleLoop_begins (h : s.cleReady d c 0x1D = true) (hr : s.mainRuns = true) :
    Completes (exec (.cleLoop d c) s) (fun t => t.cle d c =
      { s.cle d c with
        cyc := (s.cle d c).cyc + 1, pc := nextPc (s.cle d c).pc
        loop := some ⟨((s.cle d c).pc + 1) % 2048, getBits (s.cleWord d c) 0 11, getBits (s.cleWord d c) 16 10 + 1⟩ } ∧
      SameBut [.cles] s t ∧ (∀ i : Nat, i ≠ 2 * d.val + c.val → vget t.cles i = vget s.cles i)) := by
  refine completes_whileRuns hr (completes_next ?_)
  rw [if_pos h]
  exact s.modCle_changes d c _

/-! ### Overruns (R229, R241) -/

/-- An engine that has stopped and delivers nothing. -/
def CleCore.stopped (x : CleCore) : CleCore := { x with scheduled := false, deliver := false, loop := none }

/-- An overrun before the trip groups take notice of it. -/
def State.overrunShown (s : State) (d c : Nat) : State :=
  (((((s.setB (CLE.FLAGS_CLE_OVERRUN d c) true).incSat (CLE.FLAGS_OVR_CNT d c)).set (CLE.CYC_LAST_CYC d c) 0xFFFF).setB
    (CLE.FLAGS_RUNNING d c) false).modCle d c CleCore.stopped)

theorem State.overrun_eq (s : State) (d c : Nat) : s.overrun d c = (s.overrunShown d c).refreshTrips d := rfl

theorem State.refreshTrips_cle (s : State) (e d c : Nat) : (s.refreshTrips e).cle d c = s.cle d c := by
  have : Open (fun p => p = .cles) .regs := open_of_eq (by decide)
  have : Open (fun p => p = .cles) .ports := open_of_eq (by decide)
  have : Open (fun p => p = .cles) .tgs := open_of_eq (by decide)
  have : Open (fun p => p = .cles) .drives := open_of_eq (by decide)
  exact State.cle_of_cles ((State.refreshTrips_keeps (F := fun p => p = .cles) (Keeps.refl _ s) e).same .cles rfl) d c

theorem State.overrun_cell (s : State) (d c : Nat) {a : Nat} (ha : a ∉ tripRegs d) :
    (s.overrun d c).cell a = (s.overrunShown d c).cell a := State.refreshTrips_cell _ _ _ ha

/-- The other flags of the engine stay through an overrun. -/
theorem State.overrunShown_flag (s : State) (d c : Nat) {g : RF} (hrun : (CLE.FLAGS_RUNNING d c).apart g = true)
    (hlast : (CLE.CYC_LAST_CYC d c).apart g = true) (hcnt : (CLE.FLAGS_OVR_CNT d c).apart g = true) :
    (s.overrunShown d c).flag g = (s.setB (CLE.FLAGS_CLE_OVERRUN d c) true).flag g := by
  rw [State.overrunShown, State.modCle_flag, State.flag_setB_apart _ _ hrun, State.flag_set_apart _ _ hlast, State.flag_incSat_apart _ hcnt]

/-- R229: what an overrun leaves. -/
theorem State.overrun_shows (s : State) (d : Fin 4) (c : Fin 2) : (s.overrun d c).flag (CLE.FLAGS_CLE_OVERRUN d c) = true ∧
    (s.overrun d c).flag (CLE.FLAGS_RUNNING d c) = false ∧ (s.overrun d c).get (CLE.CYC_LAST_CYC d c) = 0xFFFF ∧
    ((s.overrun d c).cle d c).deliver = false := by
  obtain ⟨_, _, hne⟩ := cleRegs_ne d c
  obtain ⟨hflags, hcyc, _⟩ := cleRegs_notMem_tripRegs d c
  refine ⟨(State.flag_of_cell (s.overrun_cell d c hflags)).trans ?_, (State.flag_of_cell (s.overrun_cell d c hflags)).trans ?_,
    (State.get_of_cell (s.overrun_cell d c hcyc)).trans ?_, ?_⟩
  · rw [State.overrunShown_flag _ _ _ rfl (RF.apart_of_addr_ne rfl rfl hne) rfl]
    exact State.flag_setB_self _ _ _ (of_decide_eq_true rfl) Nat.one_pos
  · rw [State.overrunShown, State.modCle_flag]
    exact State.flag_setB_self _ _ _ (of_decide_eq_true rfl) Nat.one_pos
  · rw [State.overrunShown, State.modCle_get, State.get_setB_apart _ _ (RF.apart_of_addr_ne rfl rfl hne.symm)]
    exact State.get_set_self _ _ _ (of_decide_eq_true rfl)
  · rw [State.overrun_eq, State.refreshTrips_cle, State.overrunShown, State.cle_modCle_self]
    rfl

theorem State.overrun_illOp (s : State) (d : Fin 4) (c : Fin 2) : (s.overrun d c).flag (CLE.FLAGS_ILL_OP d c) = s.flag (CLE.FLAGS_ILL_OP d c) := by
  obtain ⟨_, _, hne⟩ := cleRegs_ne d c
  obtain ⟨hflags, _, _⟩ := cleRegs_notMem_tripRegs d c
  refine (State.flag_of_cell (s.overrun_cell d c hflags)).trans ?_
  rw [State.overrunShown_flag _ _ _ rfl (RF.apart_of_addr_ne rfl rfl hne) rfl]
  exact State.flag_setB_apart _ _ rfl

theorem cleIllegalOp_overruns (hrun : s.flag (CLE.FLAGS_RUNNING d c) = true) (hd : s.dieRuns d = true) (hill : s.cleIllegal d c = true)
    (hcyc : (s.cle d c).cyc < s.cbLen d c) (hr : s.mainRuns = true) :
    Completes (exec (.cleIllegalOp d c) s) (fun t => t.flag (CLE.FLAGS_ILL_OP d c) = true ∧ t.flag (CLE.FLAGS_CLE_OVERRUN d c) = true ∧
      t.flag (CLE.FLAGS_RUNNING d c) = false ∧ t.get (CLE.CYC_LAST_CYC d c) = 0xFFFF ∧ (t.cle d c).deliver = false) := by
  refine completes_whileRuns hr (completes_next ?_)
  rw [hrun, hd, hill, decide_eq_true hcyc, if_pos (by decide)]
  exact ⟨(State.overrun_illOp _ d c).trans (State.flag_setB_self _ _ _ (of_decide_eq_true rfl) Nat.one_pos), State.overrun_shows _ d c⟩

theorem cleOverrunStop_overruns (hrun : s.flag (CLE.FLAGS_RUNNING d c) = true) (hd : s.dieRuns d = true) (hcyc : s.cbLen d c ≤ (s.cle d c).cyc)
    (hr : s.mainRuns = true) :
    Completes (exec (.cleOverrunStop d c) s) (fun t => t.flag (CLE.FLAGS_CLE_OVERRUN d c) = true ∧ t.flag (CLE.FLAGS_RUNNING d c) = false ∧
      t.get (CLE.CYC_LAST_CYC d c) = 0xFFFF ∧ (t.cle d c).deliver = false) := by
  refine completes_whileRuns hr (completes_next ?_)
  rw [hrun, hd, decide_eq_true hcyc, Bool.true_or, if_pos (by decide)]
  exact s.overrun_shows d c

end

/-- Settles O22: one lemma for each command and outcome. -/
theorem cleStoresAndBranches : Obligations.CleStoresAndBranches :=
  ⟨fun _ _ _ => cleSt_output, fun _ _ _ => cleSt_error, fun _ _ _ _ => cleStx_working, fun _ _ _ => cleEnd_ends, fun _ _ _ => cleBr_branches,
    fun _ _ _ => cleLoop_begins, fun _ _ _ => cleIllegalOp_overruns, fun _ _ _ => cleOverrunStop_overruns⟩

end Sys2Proof.Machine
end

section
/-! SUPPORT and the obligation on loads and moves, enabling, starts, memory, commits and the write point of the engines (O19). -/

namespace Sys2Proof.Machine

section
variable {d : Fin 4} {c : Fin 2} {s : State}

/-! ### Enabling, disabling and the start of a program (R220, R227, R621) -/

/-- EN of CLECFG as written. -/
def State.withCleEn (s : State) (d c : Nat) (en : Bool) : State := s.setB (CLE.CLECFG_EN d c) en

theorem State.withCleEn_flag (s : State) (d c : Nat) (en : Bool) : (s.withCleEn d c en).flag (CLE.CLECFG_EN d c) = en :=
  State.flag_setB_self _ _ _ (of_decide_eq_true rfl) Nat.one_pos

/-- An engine as EN clears it: SCHED latched, FIRST to be shown. -/
def State.clearedCle (s : State) (d c : Nat) (x : CleCore) : CleCore :=
  { sched := s.get (CLE.CLECFG_SCHED d c), first := true, lastPcnt := x.lastPcnt, rptEn := x.rptEn }

/-- A write that sets EN clears the engine and MAX_CYC. -/
theorem State.clecfgApply_rises (s : State) (d c : Nat) (h : s.flag (CLE.CLECFG_EN d c) = false) :
    s.clecfgApply d c (putBits (s.reg (CLE.CLECFG d c)) 0 1 1) =
      ((s.withCleEn d c true).modCle d c ((s.withCleEn d c true).clearedCle d c)).set (CLE.CYC_MAX_CYC d c) 0 := by
  unfold State.clecfgApply
  extract_lets was s1 now
  have hnow : now = true := s.withCleEn_flag d c true
  have hwas : was = false := h
  rw [hnow, hwas, if_pos (by decide)]
  rfl

/-- A write that clears EN stops the engine. -/
theorem State.clecfgApply_falls (s : State) (d c : Nat) (h : s.flag (CLE.CLECFG_EN d c) = true) :
    s.clecfgApply d c (putBits (s.reg (CLE.CLECFG d c)) 0 1 0) =
      ((s.withCleEn d c false).setB (CLE.FLAGS_RUNNING d c) false).modCle d c CleCore.stopped := by
  unfold State.clecfgApply
  extract_lets was s1 now
  have hnow : now = false := s.withCleEn_flag d c false
  have hwas : was = true := h
  rw [hnow, hwas, if_neg (by decide), if_pos (by decide)]
  rfl

theorem cleEnable_clears (h : s.flag (CLE.CLECFG_EN d c) = false) (hr : s.mainRuns = true) (hp : s.parityOk (CLE.CLECFG d c) = true) :
    Completes (exec (.cleEnable d c) s) (fun t => t.flag (CLE.CLECFG_EN d c) = true ∧
      t.cle d c = { sched := s.get (CLE.CLECFG_SCHED d c), first := true, lastPcnt := (s.cle d c).lastPcnt, rptEn := (s.cle d c).rptEn } ∧
      t.get (CLE.CYC_MAX_CYC d c) = 0 ∧ SameBut [.regs, .cles] s t ∧ RegsBut [CLE.CLECFG d c, CLE.CYC d c] s t) := by
  obtain ⟨_, hne, _⟩ := cleRegs_ne d c
  have hsched : (s.withCleEn d c true).get (CLE.CLECFG_SCHED d c) = s.get (CLE.CLECFG_SCHED d c) := State.get_setB_apart _ _ rfl
  refine completes_whileRuns hr (completes_next ?_)
  rw [State.checkParity_ok _ _ _ hp, State.clecfgApply_rises _ _ _ h]
  refine ⟨(State.flag_set_apart _ _ (RF.apart_of_addr_ne rfl rfl hne)).trans ((State.modCle_flag _ _ _ _ _).trans (s.withCleEn_flag d c true)), ?_,
    State.get_set_self _ _ _ (of_decide_eq_true rfl), (((CleChanged.refl _ s).setB (CLE.CLECFG_EN d c) true List.mem_cons_self).modCle d c _).set
      (CLE.CYC_MAX_CYC d c) _ (List.mem_cons_of_mem _ List.mem_cons_self)⟩
  refine (State.cle_of_cles (State.set_cles _ _ _) d c).trans ((State.cle_modCle_self _ d c _).trans ?_)
  rw [State.clearedCle, hsched, State.withCleEn, State.cle_of_cles (State.setB_cles _ _ _)]

theorem cleDisable_stops (h : s.flag (CLE.CLECFG_EN d c) = true) (hr : s.mainRuns = true) (hp : s.parityOk (CLE.CLECFG d c) = true) :
    Completes (exec (.cleDisable d c) s) (fun t => t.flag (CLE.CLECFG_EN d c) = false ∧ t.flag (CLE.FLAGS_RUNNING d c) = false ∧
      (t.cle d c).deliver = false ∧ (t.cle d c).v = (s.cle d c).v ∧ SameBut [.regs, .cles] s t ∧
      RegsBut [CLE.CLECFG d c, CLE.FLAGS d c] s t) := by
  obtain ⟨hne, _, _⟩ := cleRegs_ne d c
  have hcle : ((s.withCleEn d c false).setB (CLE.FLAGS_RUNNING d c) false).cle d c = s.cle d c :=
    State.cle_of_cles ((State.setB_cles _ _ _).trans (State.setB_cles _ _ _)) d c
  refine completes_whileRuns hr (completes_next ?_)
  rw [State.checkParity_ok _ _ _ hp, State.clecfgApply_falls _ _ _ h, State.cle_modCle_self, hcle, State.modCle_flag, State.modCle_flag]
  exact ⟨(State.flag_setB_apart _ _ (RF.apart_of_addr_ne rfl rfl hne)).trans (s.withCleEn_flag d c false),
    State.flag_setB_self _ _ _ (of_decide_eq_true rfl) Nat.one_pos, rfl, rfl,
    (((CleChanged.refl _ s).setB (CLE.CLECFG_EN d c) false List.mem_cons_self).setB (CLE.FLAGS_RUNNING d c) false
      (List.mem_cons_of_mem _ List.mem_cons_self)).modCle d c _⟩

theorem cleProgramStart_starts (hs : (s.cle d c).scheduled = true) (hen : s.flag (CLE.CLECFG_EN d c) = true) (hd : s.dieRuns d = true)
    (hr : s.mainRuns = true) :
    Completes (exec (.cleProgramStart d c) s) (fun t => t.flag (CLE.FLAGS_RUNNING d c) = true ∧ (t.cle d c).pc = s.cbEntry d c ∧
      (t.cle d c).cyc = 0 ∧ SameBut [.regs, .cles] s t ∧ RegsBut [CLE.FLAGS d c] s t) := by
  refine completes_whileRuns hr (completes_next ?_)
  rw [hs, hen, hd, if_pos (by decide), State.cle_modCle_self, State.modCle_flag]
  exact ⟨State.flag_setB_self _ _ _ (of_decide_eq_true rfl) Nat.one_pos, rfl, rfl,
    ((CleChanged.refl _ s).setB (CLE.FLAGS_RUNNING d c) true (List.mem_singleton.2 rfl)).modCle d c _⟩

/-! ### Memory errors and retirement (R244) -/

theorem cleEccCorrect_counts (hr : s.mainRuns = true) :
    Completes (exec (.cleEccCorrect d c) s) (fun t => t.get (CLE.ECC_ECC_CNT d c) = min (s.get (CLE.ECC_ECC_CNT d c) + 1)
      (2 ^ (CLE.ECC_ECC_CNT d c).w - 1) ∧ SameBut [.regs] s t ∧ RegsBut [CLE.ECC d c] s t) :=
  completes_whileRuns hr (completes_next ⟨State.get_incSat_self _ _ (of_decide_eq_true rfl), State.setReg_sameBut _ _ _,
    State.setReg_regsBut _ _ _ (List.mem_singleton.2 rfl)⟩)

theorem State.recordMember_cell (s : State) (d b a : Nat) (h : a ≠ KPR.KQ) : (s.recordMember d b).cell a = s.cell a := by
  unfold State.recordMember
  split
  · exact State.recordRetire_cell _ _ _ _ _ h
  · rfl

/-- The record of a retirement, its trip sources and its grid block leave the other registers as the retired engine shows them. -/
theorem State.retireCle_cell (s : State) (d c : Nat) {a : Nat} (hq : a ≠ KPR.KQ) (ht : a ∉ tripRegs d) (hg : a ∉ gridRegs d) :
    (s.retireCle d c).cell a = (s.cleRetired d c).cell a := by
  unfold State.retireCle
  split
  · rfl
  · rw [State.refreshGrid_cell _ _ _ hg, State.refreshTrips_cell _ _ _ ht, State.recordMember_cell _ _ _ _ hq, State.recordRetire_cell _ _ _ _ _ hq]

theorem State.cleRetired_shows (s : State) (d c : Nat) : (s.cleRetired d c).flag (CLE.FLAGS_ECC_UE d c) = true ∧
    (s.cleRetired d c).flag (CLE.FLAGS_RETIRED d c) = true ∧ (s.cleRetired d c).flag (CLE.FLAGS_CLE_OVERRUN d c) = true ∧
    (s.cleRetired d c).flag (CLE.FLAGS_RUNNING d c) = false := by
  have hrun {g : RF} (hg : (CLE.FLAGS_RUNNING d c).apart g = true) : (s.cleRetired d c).flag g =
      (((s.setB (CLE.FLAGS_ECC_UE d c) true).setB (CLE.FLAGS_RETIRED d c) true).setB (CLE.FLAGS_CLE_OVERRUN d c) true).flag g := by
    rw [State.cleRetired, State.modCle_flag, State.flag_setB_apart _ _ hg]
  refine ⟨?_, ?_, ?_, ?_⟩
  · rw [hrun rfl]
    exact (State.flag_setB_apart _ _ rfl).trans ((State.flag_setB_apart _ _ rfl).trans
      (State.flag_setB_self _ _ _ (of_decide_eq_true rfl) Nat.one_pos))
  · rw [hrun rfl]
    exact (State.flag_setB_apart _ _ rfl).trans (State.flag_setB_self _ _ _ (of_decide_eq_true rfl) Nat.one_pos)
  · rw [hrun rfl]
    exact State.flag_setB_self _ _ _ (of_decide_eq_true rfl) Nat.one_pos
  · rw [State.cleRetired, State.modCle_flag]
    exact State.flag_setB_self _ _ _ (of_decide_eq_true rfl) Nat.one_pos

theorem State.cleRetired_cell (s : State) (d c a : Nat) (h : a ≠ CLE.FLAGS d c) : (s.cleRetired d c).cell a = s.cell a := by
  unfold State.cleRetired
  dsimp only
  rw [State.modCle_cell, State.cell_setB_ne _ _ _ _ h, State.cell_setB_ne _ _ _ _ h, State.cell_setB_ne _ _ _ _ h, State.cell_setB_ne _ _ _ _ h]

theorem ecc_ne_flags (d c : Nat) : CLE.ECC d c ≠ CLE.FLAGS d c := by
  simp only [CLE.ECC, CLE.FLAGS]
  omega

theorem cleEccUncorrectable_retires (m : Fin 4) (a : BitVec 12) (hr : s.mainRuns = true) :
    Completes (exec (.cleEccUncorrectable d c m a) s) (fun t => t.flag (CLE.FLAGS_ECC_UE d c) = true ∧ t.flag (CLE.FLAGS_RETIRED d c) = true ∧
      t.get (CLE.ECC_UE_MEM d c) = m.val ∧ t.flag (CLE.FLAGS_CLE_OVERRUN d c) = true ∧ t.flag (CLE.FLAGS_RUNNING d c) = false) := by
  refine completes_whileRuns hr (completes_next ?_)
  generalize hu : (s.set (CLE.ECC_UE_MEM d c) m).set (CLE.ECC_UE_ADDR d c) a.toNat = u
  have hmem : u.get (CLE.ECC_UE_MEM d c) = m.val := by
    rw [← hu, State.get_set_apart _ _ rfl, State.get_set_self _ _ _ (of_decide_eq_true rfl)]
    exact Nat.mod_eq_of_lt m.isLt
  obtain ⟨hqf, hqe⟩ := cleRegs_ne_kq d c
  obtain ⟨htf, _, hte⟩ := cleRegs_notMem_tripRegs d c
  obtain ⟨hgf, hge⟩ := cleRegs_notMem_gridRegs d c
  have hflags : (u.retireCle d c).cell (CLE.FLAGS d c) = (u.cleRetired d c).cell (CLE.FLAGS d c) := u.retireCle_cell d c hqf htf hgf
  have hecc : (u.retireCle d c).cell (CLE.ECC d c) = u.cell (CLE.ECC d c) :=
    (u.retireCle_cell d c hqe hte hge).trans (u.cleRetired_cell d c _ (ecc_ne_flags d c))
  obtain ⟨hue, hret, hovr, hrun⟩ := u.cleRetired_shows d c
  exact ⟨(State.flag_of_cell hflags).trans hue, (State.flag_of_cell hflags).trans hret, (State.get_of_cell hecc).trans hmem,
    (State.flag_of_cell hflags).trans hovr, (State.flag_of_cell hflags).trans hrun⟩

/-! ### Memory writes and commits (R18, R249) -/

theorem cleMemoryWrite_stores (m : Fin 4) (w : BitVec 12) (x : Word) (hw : w.toNat < cleMemWords m)
    (hok : s.cleWriteRefused d c m w.toNat = false) (hr : s.mainRuns = true) :
    Completes (exec (.cleMemoryWrite d c m w x) s) (fun t => t.memWord (cleMemBase d c m + 4 * w.toNat) = x ∧ SameBut [.mem] s t ∧
      MemBut (cleMemBase d c m + 4 * w.toNat) 4 s t) := by
  refine completes_whileRuns hr (completes_next ?_)
  rw [State.cleMemWrite, if_neg (Nat.not_le.2 hw), hok, if_neg (by decide)]
  exact ⟨State.memWord_setMemWord_self _ _ _, State.setMemWord_sameBut _ _ _, State.setMemWord_memBut _ _ _⟩

theorem cleMemoryWrite_refused (m : Fin 4) (w : BitVec 12) (x : Word) (hw : w.toNat < cleMemWords m)
    (hno : s.cleWriteRefused d c m w.toNat = true) (hr : s.mainRuns = true) :
    Completes (exec (.cleMemoryWrite d c m w x) s) (fun t => t.flag (CLE.FLAGS_CLE_WR_REJ d c) = true ∧ t.mem = s.mem ∧ SameBut [.regs] s t ∧
      RegsBut [CLE.FLAGS d c] s t) := by
  refine completes_whileRuns hr (completes_next ?_)
  rw [State.cleMemWrite, if_neg (Nat.not_le.2 hw), hno, if_pos rfl]
  exact ⟨State.flag_setB_self _ _ _ (of_decide_eq_true rfl) Nat.one_pos, State.setB_mem _ _ _, State.setReg_sameBut _ _ _,
    State.setReg_regsBut _ _ _ (List.mem_singleton.2 rfl)⟩

theorem cwCommit_sets (hr : s.mainRuns = true) :
    Completes (exec (.cwCommit d c) s) (fun t => t.flag (CLE.CW_COMMIT_COMMIT d c) = true ∧ SameBut [.regs] s t ∧
      RegsBut [CLE.CW_COMMIT d c] s t) :=
  completes_whileRuns hr (completes_next ⟨State.flag_setB_self _ _ _ (of_decide_eq_true rfl) Nat.one_pos, State.setReg_sameBut _ _ _,
    State.setReg_regsBut _ _ _ (List.mem_singleton.2 rfl)⟩)

end

/-! ### The write point (R245, R246) -/

/-- An engine that has produced report word 0 alone delivers no shadow field. -/
theorem State.deliversShadow_report (s : State) (d c k : Nat) (hm : (s.cle d c).marks = 2 ^ 32) :
    (List.range 23).any (fun m => s.deliversShadow d c k m) = false := by
  refine List.any_eq_false.2 fun m hmem => ?_
  have hlt := List.mem_range.1 hmem
  rw [State.deliversShadow, hm, Nat.testBit_two_pow_of_ne (by omega), Bool.and_false, Bool.false_and]
  decide

/-- The delivery of report word 0 alone. -/
def State.reportDelivered (s : State) (d c k : Nat) : State :=
  (s.setReg (CLE.REPORT d c 0) (s.cleData d c 0xC0)).modCle d c (fun x => { x with deliver := false, lastPcnt := s.get (PWM.CNT_PCNT d k) })

theorem cnt_ne_report (d c k : Nat) : PWM.CNT d k ≠ CLE.REPORT d c 0 := by
  simp only [PWM.CNT, CLE.REPORT]
  omega

theorem State.deliverCle_report (s : State) (d c k : Nat) (hd : (s.cle d c).deliver = true)
    (hm : (s.cle d c).marks = 2 ^ 32) : s.deliverCle d c k = s.reportDelivered d c k := by
  have hslots : bitsOf 40 (2 ^ 32) = [32] := by decide
  have hslot : s.deliverSlot d c k 32 = s.setReg (CLE.REPORT d c 0) (s.cleData d c 0xC0) := rfl
  have hcnt : (s.setReg (CLE.REPORT d c 0) (s.cleData d c 0xC0)).get (PWM.CNT_PCNT d k) = s.get (PWM.CNT_PCNT d k) :=
    State.get_of_cell (State.cell_setReg_ne _ _ _ _ (cnt_ne_report d c k))
  unfold State.deliverCle
  dsimp only
  rw [s.deliversShadow_report d c k hm, hd, hm, hslots, if_neg (by decide), Bool.false_and, if_neg (by decide), foldOver, List.foldl_cons,
    List.foldl_nil, hslot, hcnt, State.reportDelivered]

theorem writePointDelivery_reports (d k : Fin 4) (s : State) (hgrp : s.grpRuns d k = true) (hvar : variableMode (s.grp d k).mode = false)
    (hrun : s.dieRuns d = true) (hen : s.flag (CLE.CLECFG_EN d 0) = true) (hsched : (s.cle d 0).sched = k.val)
    (hoff : s.flag (CLE.CLECFG_EN d 1) = false) (hd : (s.cle d 0).deliver = true) (hm : (s.cle d 0).marks = 2 ^ 32) (hr : s.mainRuns = true) :
    Completes (exec (.writePointDelivery d k) s) (fun t => t.reg (CLE.REPORT d 0 0) = s.cleData d 0 0xC0 ∧ (t.cle d 0).deliver = false ∧
      (t.cle d 0).lastPcnt = s.get (PWM.CNT_PCNT d k) ∧ SameBut [.regs, .cles] s t ∧ RegsBut [CLE.REPORT d 0 0] s t) := by
  have hcle (t : State) (f : CleCore → CleCore) : (t.modCle d 0 f).cle d 0 = f (t.cle d 0) := t.cle_modCle_self d (0 : Fin 2) f
  refine completes_whileRuns hr (completes_next ?_)
  rw [hgrp, hvar, hrun, if_neg (by decide)]
  extract_lets mine clash t0 t1
  have hmine0 : mine 0 = true := Bool.and_eq_true_iff.2 ⟨hen, decide_eq_true hsched⟩
  have hmine1 : mine 1 = false := Bool.and_eq_false_iff.2 (.inl hoff)
  have ht0 : t0 = s.reportDelivered d 0 k := (if_pos hmine0).trans (State.deliverCle_report s d 0 k hd hm)
  have ht1 : t1 = s.reportDelivered d 0 k := (if_neg (by rw [hmine1]; decide)).trans ht0
  have hclash : clash = false := Bool.and_eq_false_iff.2 (.inl (Bool.and_eq_false_iff.2 (.inr hmine1)))
  rw [hclash, if_neg (by decide), ht1, State.reportDelivered, State.modCle_reg, hcle]
  exact ⟨State.reg_setReg_self _ _ _, rfl, rfl, ((CleChanged.refl _ s).setReg _ (List.mem_singleton.2 rfl)).modCle d 0 _⟩

/-- Settles O19: loads and moves are runs of their instruction, and one lemma for each other command and outcome. -/
theorem cleMovesAndControl : Obligations.CleMovesAndControl :=
  ⟨fun _ _ _ => completes_cleRun (op := 0x00), fun _ _ _ => completes_cleRun (op := 0x02), fun _ _ _ => completes_cleRun (op := 0x03),
    fun _ _ _ => completes_cleRun (op := 0x06), fun _ _ _ => completes_cleRun (op := 0x07), fun _ _ _ => cleEnable_clears,
    fun _ _ _ => cleDisable_stops, fun _ _ _ => cleProgramStart_starts, fun _ _ _ => cleEccCorrect_counts,
    fun _ _ m a _ => cleEccUncorrectable_retires m a, fun _ _ m w x _ => cleMemoryWrite_stores m w x,
    fun _ _ m w x _ => cleMemoryWrite_refused m w x, fun _ _ _ => cwCommit_sets, writePointDelivery_reports⟩

end Sys2Proof.Machine
end

section
/-! SUPPORT. A field of a register and a part of a grid port through decisions, votes and the grid block. -/

namespace Sys2Proof.Machine

/-! ### A field that operations leave -/

/-- From `r` to `t` a field of a register reads the same. -/
def FieldSame (g : RF) (r t : State) : Prop := t.get g = r.get g

section
variable {g : RF} {r s t : State} {d : Nat}

theorem FieldSame.refl (g : RF) (s : State) : FieldSame g s s := rfl

theorem FieldSame.flag (h : FieldSame g r t) : t.flag g = r.flag g := State.flag_of_get h

theorem FieldSame.of_cell (h : FieldSame g r s) (ht : t.cell g.addr = s.cell g.addr) : FieldSame g r t := (State.get_of_cell ht).trans h

theorem FieldSame.ite {c : Prop} [Decidable c] (hs : FieldSame g r s) (ht : FieldSame g r t) : FieldSame g r (if c then s else t) := by
  split
  · exact hs
  · exact ht

theorem FieldSame.set (h : FieldSame g r s) (f : RF) (x : Nat) (hf : f.apart g = true) : FieldSame g r (s.set f x) :=
  (s.get_set_apart x hf).trans h

theorem FieldSame.setB (h : FieldSame g r s) (f : RF) (b : Bool) (hf : f.apart g = true) : FieldSame g r (s.setB f b) := h.set f _ hf

theorem FieldSame.incSat (h : FieldSame g r s) (f : RF) (hf : f.apart g = true) : FieldSame g r (s.incSat f) := h.set f _ hf

theorem FieldSame.modGrid (h : FieldSame g r s) (e : Nat) (f : GridDie → GridDie) : FieldSame g r (s.modGrid e f) := h.of_cell rfl

theorem FieldSame.foldOver (h : FieldSame g r s) (l : List Nat) (f : Nat → State → State)
    (hf : ∀ i ∈ l, ∀ t, FieldSame g r t → FieldSame g r (f i t)) : FieldSame g r (foldOver l f s) := foldOver_preserves l f s h hf

/-! ### Fields of GSTAT and RTSTAT through votes, decisions and the block -/

theorem voteFields_apart_gstat (ha : g.addr = GSU.GSTAT d) (hf : g.fits = true) : ∀ f ∈ voteFields d, f.apart g = true := by
  intro f hmem
  have hsec : GSU.GSTAT d ≠ RTS.RC_SEC d := by
    simp only [GSU.GSTAT, RTS.RC_SEC]
    omega
  simp only [voteFields, List.mem_cons, List.not_mem_nil, or_false] at hmem
  rcases hmem with rfl | rfl | rfl
  · exact RF.apart_of_addr_ne rfl hf (ha ▸ (RTS.rtstat_ne_gstat d).symm)
  · exact RF.apart_of_addr_ne rfl hf (ha ▸ (RTS.rtstat_ne_gstat d).symm)
  · exact RF.apart_of_addr_ne rfl hf (ha ▸ hsec)

theorem voteFields_apart_rtstat (ha : g.addr = RTS.RTSTAT d) (hf : g.fits = true) (hv : (RTS.RTSTAT_VOTE d).apart g = true)
    (hr : (RTS.RTSTAT_RC_READY d).apart g = true) : ∀ f ∈ voteFields d, f.apart g = true := by
  intro f hmem
  simp only [voteFields, List.mem_cons, List.not_mem_nil, or_false] at hmem
  rcases hmem with rfl | rfl | rfl
  · exact hv
  · exact hr
  · exact RF.apart_of_addr_ne rfl hf (ha ▸ RTS.rtstat_ne_rcSec d)

theorem FieldSame.setVote (h : FieldSame g r s) (v : Nat) (hv : ∀ f ∈ voteFields d, f.apart g = true) : FieldSame g r (s.setVote d v) :=
  (s.setVote_get d v hv).trans h

theorem FieldSame.openDecision (h : FieldSame g r s) (hv : ∀ f ∈ voteFields d, f.apart g = true) : FieldSame g r (s.openDecision d) :=
  .ite (h.ite (h.setVote 2 hv)) (h.modGrid d _)

/-- Vote and block leave every field of GSTAT but BLOCK. -/
theorem FieldSame.refreshGrid (h : FieldSame g r s) (ha : g.addr = GSU.GSTAT d) (hf : g.fits = true)
    (hb : (GSU.GSTAT_BLOCK d).apart g = true) : FieldSame g r (s.refreshGrid d) :=
  (s.refreshGrid_get d (voteFields_apart_gstat ha hf) hb (ha ▸ GSU.gstat_notMem_outRegs d)).trans h

end

/-! ### Registers of S -/

/-- The registers of a drive die that vote and block write lie in its own window, below that of N. -/
theorem notMem_gridRegs {d a : Nat} (hd : d < 4) (h : 0x44000000 ≤ a) : a ∉ gridRegs d := by
  rw [gridRegs, List.mem_append, not_or]
  refine ⟨?_, notMem_outRegs hd h⟩
  simp only [List.mem_cons, List.not_mem_nil, or_false, RTS.RC_SEC, RTS.RTSTAT, GSU.GSTAT]
  omega

/-! ### The vote (R290) -/

theorem State.rcRestart_vote (s : State) (d : Nat) : (s.rcRestart d).get (RTS.RTSTAT_VOTE d) = s.get (RTS.RTSTAT_VOTE d) :=
  (((FieldSame.refl _ s).set (RTS.RC_SEC_RC_SEC d) 0 (RF.apart_of_addr_ne rfl rfl (RTS.rtstat_ne_rcSec d))).setB
    (RTS.RTSTAT_RC_READY d) false rfl).modGrid d _

theorem State.setVote_vote (s : State) (d : Nat) {v : Nat} (hv : v < 4) : (s.setVote d v).get (RTS.RTSTAT_VOTE d) = v := by
  have hset : (s.set (RTS.RTSTAT_VOTE d) v).get (RTS.RTSTAT_VOTE d) = v :=
    (s.get_set_self _ v (of_decide_eq_true rfl)).trans (Nat.mod_eq_of_lt hv)
  unfold State.setVote
  split
  · assumption
  · dsimp only
    split
    · exact (State.rcRestart_vote _ d).trans hset
    · exact hset

theorem State.refreshBlock_vote (s : State) (d : Nat) : (s.refreshBlock d).get (RTS.RTSTAT_VOTE d) = s.get (RTS.RTSTAT_VOTE d) :=
  s.refreshBlock_get d (RF.apart_of_addr_ne rfl rfl (RTS.rtstat_ne_gstat d)) (RTS.rtstat_notMem_outRegs d)

/-- A die that does not vote OUT keeps a vote that is not OUT. -/
theorem State.refreshVote_of_in (s : State) (d : Nat) (hin : s.votesOut d = false) (hv : s.get (RTS.RTSTAT_VOTE d) ≠ 0) :
    s.refreshVote d = s := by
  unfold State.refreshVote
  rw [hin, if_neg Bool.false_ne_true, if_neg hv, ite_self]

/-- No refresh of the vote makes it CLOSE. -/
theorem State.refreshVote_notClose (s : State) (d : Nat) (hv : s.get (RTS.RTSTAT_VOTE d) ≠ 1) :
    (s.refreshVote d).get (RTS.RTSTAT_VOTE d) ≠ 1 := by
  unfold State.refreshVote
  split
  · exact hv
  · split
    · rw [State.setVote_vote _ _ (by decide)]
      decide
    · split
      · rw [State.setVote_vote _ _ (by decide)]
        decide
      · exact hv

/-! ### A part of a grid port -/

theorem State.grid_of_grids {s t : State} (h : t.grids = s.grids) (e : Nat) : t.grid e = s.grid e := congrArg (fun v => vget v e) h

theorem State.grid_modGrid_self (s : State) (d : Nat) (f : GridDie → GridDie) (h : d < 4) : (s.modGrid d f).grid d = f (s.grid d) :=
  vget_vmod_self s.grids d f h

/-- What the grid port of a die holds of its decisions: a DISCONNECT, and an OPEN that waits for GCON_DLY. -/
def GridDie.decisions (g : GridDie) : Bool × Bool := (g.discon, g.openWait)

theorem State.modGrid_decisions (s : State) (d e : Nat) (f : GridDie → GridDie) (h : ∀ g, (f g).decisions = g.decisions) :
    ((s.modGrid d f).grid e).decisions = (s.grid e).decisions := vget_vmod_proj GridDie.decisions s.grids d e f h

theorem State.decisions_of_grids {s t : State} (h : t.grids = s.grids) (e : Nat) : (t.grid e).decisions = (s.grid e).decisions :=
  congrArg GridDie.decisions (State.grid_of_grids h e)

theorem State.setVote_decisions (s : State) (d v e : Nat) : ((s.setVote d v).grid e).decisions = (s.grid e).decisions := by
  have hset : ((s.set (RTS.RTSTAT_VOTE d) v).grid e).decisions = (s.grid e).decisions := State.decisions_of_grids (State.set_grids _ _ _) e
  unfold State.setVote State.rcRestart
  split
  · rfl
  · dsimp only
    split
    · rw [State.modGrid_decisions _ _ _ _ (fun _ => by rfl), State.decisions_of_grids (State.setB_grids _ _ _),
        State.decisions_of_grids (State.set_grids _ _ _), hset]
    · exact hset

theorem State.refreshVote_decisions (s : State) (d e : Nat) : ((s.refreshVote d).grid e).decisions = (s.grid e).decisions := by
  obtain h | ⟨v, h⟩ := s.refreshVote_cases d
  · rw [h]
  · rw [h, State.setVote_decisions]

theorem State.refreshBlock_decisions (s : State) (d e : Nat) : ((s.refreshBlock d).grid e).decisions = (s.grid e).decisions := by
  unfold State.refreshBlock
  extract_lets want ports s1 s2
  have h1 : (s1.grid e).decisions = (s.grid e).decisions := State.decisions_of_grids (State.setB_grids _ _ _) e
  have h2 : (s2.grid e).decisions = (s.grid e).decisions := by
    unfold s2
    split
    · exact (State.modGrid_decisions _ _ _ _ (fun _ => by rfl)).trans h1
    · exact h1
  clear_value s2
  refine foldOver_preserves (P := fun t => (t.grid e).decisions = (s.grid e).decisions) _ _ _ h2 fun j _ t ht => ?_
  extract_lets b t1
  refine (State.decisions_of_grids (s := t) ?_ e).trans ht
  rw [State.modPort_grids]
  unfold t1
  split
  · rw [State.modPort_grids, State.turnOffIn_grids, State.turnOffIn_grids]
  · rfl

theorem State.refreshGrid_decisions (s : State) (d e : Nat) : ((s.refreshGrid d).grid e).decisions = (s.grid e).decisions :=
  (State.refreshBlock_decisions _ d e).trans (s.refreshVote_decisions d e)

end Sys2Proof.Machine
end

section
/-! SUPPORT and the obligation on the grid connection (O23): GRID_EN, the reconnection count, CONNECT and DISCONNECT. -/

namespace Sys2Proof.Machine

/-! ### GRID_EN written (R254, R255) -/

/-- GRID_EN of GCFG written. -/
def State.withGridEn (s : State) (d : Nat) (en : Bool) : State := s.setB (GSU.GCFG_GRID_EN d) en

theorem State.withGridEn_flag (s : State) (d : Nat) (en : Bool) : (s.withGridEn d en).flag (GSU.GCFG_GRID_EN d) = en :=
  State.flag_setB_self _ _ _ (of_decide_eq_true rfl) Nat.one_pos

theorem State.withGridEn_get (s : State) (d : Nat) (en : Bool) {f : RF} (h : (GSU.GCFG_GRID_EN d).apart f = true) :
    (s.withGridEn d en).get f = s.get f := s.get_setB_apart en h

/-- A field of another register than GCFG shares no bit with GRID_EN. -/
theorem gridEn_apart {d : Nat} {f : RF} (hf : f.fits = true) (h : f.addr ≠ GSU.GCFG d) : (GSU.GCFG_GRID_EN d).apart f = true :=
  RF.apart_of_addr_ne rfl hf h

theorem State.gridTgs_lt {s : State} {d q : Nat} (h : q ∈ s.gridTgs d) : q < 2 := by
  have hmem := List.mem_of_mem_filter h
  simp only [List.mem_cons, List.not_mem_nil, or_false] at hmem
  omega

section
variable (s : State) (d : Nat) (en : Bool)

theorem State.withGridEn_gridPorts : (s.withGridEn d en).gridPorts d = s.gridPorts d := by
  unfold State.gridPorts
  rw [s.withGridEn_get d en rfl]

theorem State.withGridEn_gridTgs : (s.withGridEn d en).gridTgs d = s.gridTgs d := by
  have htg (j : Nat) : (s.withGridEn d en).tgOf d j = s.tgOf d j :=
    State.tgOf_of_cell (State.cell_setB_ne _ _ _ _ (by simp only [TRIP.MEMBERS, GSU.GCFG_GRID_EN, GSU.GCFG]; omega)) j
  unfold State.gridTgs
  simp only [s.withGridEn_gridPorts, htg]

theorem State.withGridEn_tripped (q : Nat) :
    (s.withGridEn d en).flag (TRIP.TGSTAT_TRIPPED d q) = s.flag (TRIP.TGSTAT_TRIPPED d q) :=
  State.flag_of_get (s.withGridEn_get d en (gridEn_apart rfl (by simp only [TRIP.TGSTAT_TRIPPED, TRIP.TGSTAT, GSU.GCFG]; omega)))

/-- The trip groups of the member ports stand as before: tripped, with their SAFE. -/
theorem State.withGridEn_groupsRefused :
    ((s.withGridEn d en).gridTgs d).any (fun q => !(s.withGridEn d en).flag (TRIP.TGSTAT_TRIPPED d q) ||
      decide ((s.withGridEn d en).get (TRIP.TGCFG_SAFE d q) ≠ 0)) =
    (s.gridTgs d).any (fun q => !s.flag (TRIP.TGSTAT_TRIPPED d q) || decide (s.get (TRIP.TGCFG_SAFE d q) ≠ 0)) := by
  have hsafe (q : Nat) (hq : q < 2) : (s.withGridEn d en).get (TRIP.TGCFG_SAFE d q) = s.get (TRIP.TGCFG_SAFE d q) :=
    s.withGridEn_get d en (gridEn_apart rfl (by simp only [TRIP.TGCFG_SAFE, TRIP.TGCFG, GSU.GCFG]; omega))
  rw [Bool.eq_iff_iff, List.any_eq_true, List.any_eq_true, s.withGridEn_gridTgs]
  exact exists_congr fun q => and_congr_right fun hq => by rw [s.withGridEn_tripped, hsafe q (State.gridTgs_lt hq)]

/-- What R254 judges does not include GRID_EN. -/
theorem State.withGridEn_refused : (s.withGridEn d en).gridRefused d = s.gridRefused d := by
  have hggrp : (s.withGridEn d en).get (GSU.GCFG_GGRP d) = s.get (GSU.GCFG_GGRP d) := s.withGridEn_get d en rfl
  have hbridges : (s.withGridEn d en).get (GSU.GCFG_BRIDGES d) = s.get (GSU.GCFG_BRIDGES d) := s.withGridEn_get d en rfl
  have hpmode (j : Nat) : (s.withGridEn d en).get (PORT.PMODE_PMODE d j) = s.get (PORT.PMODE_PMODE d j) :=
    s.withGridEn_get d en (gridEn_apart rfl (by simp only [PORT.PMODE_PMODE, PORT.PMODE, GSU.GCFG]; omega))
  have hrole (j : Nat) : (s.withGridEn d en).chopperRole d j = s.chopperRole d j :=
    congrArg (fun b => decide (j < 6) && b) (State.flag_of_get (s.withGridEn_get d en (f := PORT.PCFG_CHOP_EN d j) rfl))
  have hgrp (k : Nat) : (s.withGridEn d en).grp d k = s.grp d k := congrArg (fun v => vget v (4 * d + k)) (State.setB_groups _ _ _)
  have hruns (k : Nat) : (s.withGridEn d en).grpRuns d k = s.grpRuns d k :=
    State.flag_of_get (s.withGridEn_get d en (f := PWM.STAT_RUN d k) rfl)
  have harm : (s.withGridEn d en).flag (RTS.RTCFG_ARM d) = s.flag (RTS.RTCFG_ARM d) :=
    State.flag_of_get (s.withGridEn_get d en (gridEn_apart rfl (by simp only [RTS.RTCFG_ARM, RTS.RTCFG, GSU.GCFG]; omega)))
  unfold State.gridRefused
  simp only [hggrp, hbridges, hpmode, hrole, hgrp, hruns, harm, s.withGridEn_gridPorts, s.withGridEn_groupsRefused]

end

/-- GRID_EN as R254 or R255 leaves it against what was written, and the error. -/
def State.gridEnBack (s : State) (d : Nat) (en : Bool) : State :=
  ((s.withGridEn d en).setB (GSU.GCFG_GRID_EN d) (!en)).setB (GSU.GSTAT_GRID_CFG_ERR d) true

theorem gcfg_ne_gstat (d : Nat) : GSU.GCFG d ≠ GSU.GSTAT d := by
  simp only [GSU.GCFG, GSU.GSTAT]
  omega

theorem State.gridEnBack_shows (s : State) (d : Nat) (en : Bool) : (s.gridEnBack d en).flag (GSU.GCFG_GRID_EN d) = !en ∧
    (s.gridEnBack d en).flag (GSU.GSTAT_GRID_CFG_ERR d) = true :=
  ⟨(State.flag_of_cell (State.cell_setB_ne _ _ _ _ (gcfg_ne_gstat d))).trans (State.flag_setB_self _ _ _ (of_decide_eq_true rfl) Nat.one_pos),
    State.flag_setB_self _ _ _ (of_decide_eq_true rfl) Nat.one_pos⟩

/-- The probe die is told in GSTAT alone: no other field of the grid port changes. -/
theorem State.refreshProbeDie_get (s : State) {g : RF} (hi : ∀ e, (GSU.GSTAT_ISL_CNT e).apart g = true)
    (hp : ∀ e, (GSU.GSTAT_PROBE_DIE e).apart g = true) : s.refreshProbeDie.get g = s.get g := by
  unfold State.refreshProbeDie
  extract_lets low after
  refine (FieldSame.refl g s).foldOver _ _ fun e _ t ht => ?_
  exact FieldSame.setB (.ite ((ht.set _ 0 (hi e)).modGrid e _) ht) _ _ (hp e)

theorem gcfg_notMem_gridRegs : ∀ d : Fin 4, GSU.GCFG d ∉ gridRegs d := by decide

/-- The end of a write to GCFG: GRID_EN and its error stay as R254 and R255 have left them. -/
theorem State.gcfgRefreshed_flags (s : State) (d : Fin 4) :
    (s.refreshProbeDie.refreshGrid d).flag (GSU.GCFG_GRID_EN d) = s.flag (GSU.GCFG_GRID_EN d) ∧
    (s.refreshProbeDie.refreshGrid d).flag (GSU.GSTAT_GRID_CFG_ERR d) = s.flag (GSU.GSTAT_GRID_CFG_ERR d) :=
  ⟨(State.flag_of_cell (State.refreshGrid_cell _ _ _ (gcfg_notMem_gridRegs d))).trans
      (State.flag_of_get (s.refreshProbeDie_get (fun _ => rfl) (fun _ => rfl))),
    FieldSame.flag (FieldSame.refreshGrid (r := s) (s.refreshProbeDie_get (fun _ => rfl) (fun _ => rfl)) rfl rfl rfl)⟩

/-- A write that sets GRID_EN: refused, or the die votes OPEN and the reconnection count begins. -/
theorem State.gcfgGridApply_rises (s : State) (d : Nat) (h : s.flag (GSU.GCFG_GRID_EN d) = false) :
    s.gcfgGridApply d (putBits (s.reg (GSU.GCFG d)) 0 1 1) =
      (if s.gridRefused d then s.gridEnBack d true
        else ((s.withGridEn d true).set (RTS.RTSTAT_VOTE d) 2).rcRestart d).refreshProbeDie.refreshGrid d := by
  unfold State.gcfgGridApply
  extract_lets was t now t'
  have hwas : was = false := h
  have hnow : now = true := s.withGridEn_flag d true
  have hrefused : t.gridRefused d = s.gridRefused d := s.withGridEn_refused d true
  have ht' : t' = if s.gridRefused d then s.gridEnBack d true else ((s.withGridEn d true).set (RTS.RTSTAT_VOTE d) 2).rcRestart d := by
    unfold t'
    rw [hwas, hnow, if_pos (by decide), hrefused]
    rfl
  rw [ht']

/-- A write that clears GRID_EN: refused while the contactors are closed or a group of a member port is not tripped. -/
theorem State.gcfgGridApply_falls (s : State) (d : Nat) (h : s.flag (GSU.GCFG_GRID_EN d) = true) :
    s.gcfgGridApply d (putBits (s.reg (GSU.GCFG d)) 0 1 0) =
      (if s.flag (RTS.RTSTAT_GCON_CLOSED d) || (s.gridTgs d).any (fun q => !s.flag (TRIP.TGSTAT_TRIPPED d q)) then s.gridEnBack d false
        else s.withGridEn d false).refreshProbeDie.refreshGrid d := by
  unfold State.gcfgGridApply
  extract_lets was t now t'
  have hwas : was = true := h
  have hnow : now = false := s.withGridEn_flag d false
  have ht' : t' = if s.flag (RTS.RTSTAT_GCON_CLOSED d) || (s.gridTgs d).any (fun q => !s.flag (TRIP.TGSTAT_TRIPPED d q))
      then s.gridEnBack d false else s.withGridEn d false := by
    unfold t'
    rw [hwas, hnow, if_neg (by decide), Bool.not_false, Bool.and_self, Bool.true_and]
    rfl
  rw [ht']

section
variable (d : Fin 4) (s : State)

theorem gridEnable_taken (h : s.flag (GSU.GCFG_GRID_EN d) = false) (hok : s.gridRefused d = false) (hr : s.mainRuns = true)
    (hp : s.parityOk (GSU.GCFG d) = true) : Completes (exec (.gridEnable d) s) (fun t => t.flag (GSU.GCFG_GRID_EN d) = true) := by
  refine completes_whileRuns hr (completes_next ?_)
  rw [State.checkParity_of_ok _ _ _ hp, State.gcfgGridApply_rises _ _ h, hok, if_neg Bool.false_ne_true, (State.gcfgRefreshed_flags _ d).1]
  have hvote : ((s.withGridEn d true).set (RTS.RTSTAT_VOTE d) 2).flag (GSU.GCFG_GRID_EN d) = true :=
    (State.flag_set_apart _ _ rfl).trans (s.withGridEn_flag d true)
  have hsec : (GSU.GCFG_GRID_EN d).addr ≠ RTS.RC_SEC d := by
    simp only [GSU.GCFG_GRID_EN, GSU.GCFG, RTS.RC_SEC]
    omega
  exact (FieldSame.flag ((((FieldSame.refl _ _).set (RTS.RC_SEC_RC_SEC d) 0 (RF.apart_of_addr_ne rfl rfl hsec)).setB
    (RTS.RTSTAT_RC_READY d) false rfl).modGrid d _)).trans hvote

theorem gridEnable_refused (h : s.flag (GSU.GCFG_GRID_EN d) = false) (hno : s.gridRefused d = true) (hr : s.mainRuns = true)
    (hp : s.parityOk (GSU.GCFG d) = true) : Completes (exec (.gridEnable d) s) (fun t =>
      t.flag (GSU.GCFG_GRID_EN d) = false ∧ t.flag (GSU.GSTAT_GRID_CFG_ERR d) = true) := by
  refine completes_whileRuns hr (completes_next ?_)
  obtain ⟨hen, herr⟩ := State.gcfgRefreshed_flags (s.gridEnBack d true) d
  rw [State.checkParity_of_ok _ _ _ hp, State.gcfgGridApply_rises _ _ h, hno, if_pos rfl, hen, herr]
  exact s.gridEnBack_shows d true

theorem gridDisable_taken (h : s.flag (GSU.GCFG_GRID_EN d) = true) (hopen : s.flag (RTS.RTSTAT_GCON_CLOSED d) = false)
    (htrip : (s.gridTgs d).any (fun q => !s.flag (TRIP.TGSTAT_TRIPPED d q)) = false) (hr : s.mainRuns = true)
    (hp : s.parityOk (GSU.GCFG d) = true) : Completes (exec (.gridDisable d) s) (fun t => t.flag (GSU.GCFG_GRID_EN d) = false) := by
  refine completes_whileRuns hr (completes_next ?_)
  rw [State.checkParity_of_ok _ _ _ hp, State.gcfgGridApply_falls _ _ h, hopen, htrip, if_neg (by decide), (State.gcfgRefreshed_flags _ d).1]
  exact s.withGridEn_flag d false

theorem gridDisable_refused (h : s.flag (GSU.GCFG_GRID_EN d) = true) (hclosed : s.flag (RTS.RTSTAT_GCON_CLOSED d) = true)
    (hr : s.mainRuns = true) (hp : s.parityOk (GSU.GCFG d) = true) : Completes (exec (.gridDisable d) s) (fun t =>
      t.flag (GSU.GCFG_GRID_EN d) = true ∧ t.flag (GSU.GSTAT_GRID_CFG_ERR d) = true) := by
  refine completes_whileRuns hr (completes_next ?_)
  obtain ⟨hen, herr⟩ := State.gcfgRefreshed_flags (s.gridEnBack d false) d
  rw [State.checkParity_of_ok _ _ _ hp, State.gcfgGridApply_falls _ _ h, hclosed, Bool.true_or, if_pos rfl, hen, herr]
  exact s.gridEnBack_shows d false

end

/-! ### The reconnection count (R293) -/

theorem State.modGrid_sameBut (s : State) (d : Nat) (f : GridDie → GridDie) : SameBut [.grids] s (s.modGrid d f) :=
  have : Open (fun p => p ∉ [Part.grids]) .grids := open_of_mem (by decide)
  Keeps.sameBut (State.modGrid_keeps (Keeps.refl _ s) d f)

/-- From `s` to `t` nothing has changed but grid ports and the registers `l`. -/
def GridChanged (l : List Nat) (s t : State) : Prop := SameBut [.regs, .grids] s t ∧ RegsBut l s t

theorem GridChanged.refl (l : List Nat) (s : State) : GridChanged l s s := ⟨⟨rfl, fun p _ => p.same_refl s⟩, fun _ _ => rfl⟩

section
variable {l : List Nat} {s t : State}

theorem GridChanged.modGrid (h : GridChanged l s t) (d : Nat) (f : GridDie → GridDie) : GridChanged l s (t.modGrid d f) :=
  ⟨h.1.trans ((t.modGrid_sameBut d f).mono (by decide)), h.2⟩

theorem GridChanged.set (h : GridChanged l s t) (f : RF) (x : Nat) (hf : f.addr ∈ l) : GridChanged l s (t.set f x) :=
  ⟨h.1.trans ((t.setReg_sameBut f.addr _).mono (by decide)), h.2.trans (t.setReg_regsBut f.addr _ hf)⟩

theorem GridChanged.rcRestart (h : GridChanged l s t) {d : Nat} (hsec : RTS.RC_SEC d ∈ l) (hstat : RTS.RTSTAT d ∈ l) :
    GridChanged l s (t.rcRestart d) := ((h.set (RTS.RC_SEC_RC_SEC d) 0 hsec).set (RTS.RTSTAT_RC_READY d) 0 hstat).modGrid d _

end

theorem State.rcRestart_rcSec (s : State) (d : Nat) : (s.rcRestart d).get (RTS.RC_SEC_RC_SEC d) = 0 := by
  unfold State.rcRestart
  rw [State.get_of_cell (State.modGrid_cell _ _ _ _), State.get_of_cell (State.cell_setB_ne _ _ _ _ (RTS.rtstat_ne_rcSec d).symm),
    s.get_set_self _ 0 (of_decide_eq_true rfl), Nat.zero_mod]

theorem State.rcRestart_rcFailed (s : State) (d : Nat) (hd : d < 4) : ((s.rcRestart d).grid d).rcFailed = true := by
  unfold State.rcRestart
  rw [State.grid_modGrid_self _ _ _ hd]

/-- The count of a second, unless a condition has failed since the last one. -/
def State.rcCounted (s : State) (d : Nat) : State := if (s.grid d).rcFailed then s else s.incSat (RTS.RC_SEC_RC_SEC d)

/-- The end of a second: whether a condition fails now is kept for the next one, and RC_READY follows. -/
def State.rcSecondEnd (s : State) (d : Nat) : State := (s.modGrid d (fun g => { g with rcFailed := !s.rcHolds d })).refreshReady d

theorem execRcSecond_eq (d : Fin 4) (s : State) (hn : (vget s.drives d).retired = false) (hr : s.mainRuns = true) :
    execRcSecond d s = .next (((s.rcCheck d).rcCounted d).rcSecondEnd d) := by
  unfold execRcSecond
  rw [whileRuns_running _ hr, hn, if_neg Bool.false_ne_true]
  rfl

/-- RC_READY and the grid port leave the count. -/
theorem State.rcSecondEnd_rcSec (s : State) (d : Nat) : (s.rcSecondEnd d).get (RTS.RC_SEC_RC_SEC d) = s.get (RTS.RC_SEC_RC_SEC d) :=
  State.get_of_cell (State.cell_setB_ne _ _ _ _ (RTS.rtstat_ne_rcSec d).symm)

theorem GridChanged.rcSecondEnd {l : List Nat} {s t : State} (h : GridChanged l s t) {d : Nat} (hstat : RTS.RTSTAT d ∈ l) :
    GridChanged l s (t.rcSecondEnd d) := (h.modGrid d _).set (RTS.RTSTAT_RC_READY d) _ hstat

theorem rcSecond_counts (d : Fin 4) (s : State) (hn : (vget s.drives d).retired = false) (hold : s.rcHolds d = true)
    (hnf : (s.grid d).rcFailed = false) (hr : s.mainRuns = true) :
    Completes (exec (.rcSecond d) s) (fun t => t.get (RTS.RC_SEC_RC_SEC d) = min (s.get (RTS.RC_SEC_RC_SEC d) + 1)
      (2 ^ (RTS.RC_SEC_RC_SEC d).w - 1) ∧ SameBut [.regs, .grids] s t ∧ RegsBut [RTS.RC_SEC d, RTS.RTSTAT d] s t) := by
  have hcheck : s.rcCheck d = s := if_pos hold
  have hcount : s.rcCounted d = s.incSat (RTS.RC_SEC_RC_SEC d) := if_neg (by rw [hnf]; exact Bool.false_ne_true)
  refine ⟨_, execRcSecond_eq d s hn hr, ?_⟩
  dsimp only
  rw [hcheck, hcount, State.rcSecondEnd_rcSec]
  exact ⟨s.get_incSat_self _ (of_decide_eq_true rfl), ((GridChanged.refl _ s).set (RTS.RC_SEC_RC_SEC d) _ List.mem_cons_self).rcSecondEnd
    (List.mem_cons_of_mem _ List.mem_cons_self)⟩

theorem rcSecond_restarts (d : Fin 4) (s : State) (hn : (vget s.drives d).retired = false) (hfail : s.rcHolds d = false)
    (hr : s.mainRuns = true) : Completes (exec (.rcSecond d) s) (fun t => t.get (RTS.RC_SEC_RC_SEC d) = 0 ∧
      SameBut [.regs, .grids] s t ∧ RegsBut [RTS.RC_SEC d, RTS.RTSTAT d] s t) := by
  have hcheck : s.rcCheck d = s.rcRestart d := if_neg (by rw [hfail]; exact Bool.false_ne_true)
  have hcount : (s.rcRestart d).rcCounted d = s.rcRestart d := if_pos (s.rcRestart_rcFailed d d.isLt)
  have hstat : RTS.RTSTAT d ∈ [RTS.RC_SEC d, RTS.RTSTAT d] := List.mem_cons_of_mem _ List.mem_cons_self
  refine ⟨_, execRcSecond_eq d s hn hr, ?_⟩
  dsimp only
  rw [hcheck, hcount, State.rcSecondEnd_rcSec]
  exact ⟨s.rcRestart_rcSec d, ((GridChanged.refl _ s).rcRestart List.mem_cons_self hstat).rcSecondEnd hstat⟩

/-! ### CONNECT (R294) -/

theorem tgstat_notMem_gridRegs (d k : Nat) : TRIP.TGSTAT d k ∉ gridRegs d := by
  rw [gridRegs, List.mem_append, not_or]
  refine ⟨?_, (tgstat_notMem_outRegs d k).2⟩
  simp only [List.mem_cons, List.not_mem_nil, or_false, TRIP.TGSTAT, RTS.RC_SEC, RTS.RTSTAT, GSU.GSTAT]
  omega

theorem cleFlags_notMem_gridRegs (d b : Nat) : CLE.FLAGS d b ∉ gridRegs d := by
  simp only [gridRegs, outRegs, List.mem_append, List.mem_cons, List.mem_map, List.mem_range, List.not_mem_nil, or_false, CLE.FLAGS,
    RTS.RC_SEC, RTS.RTSTAT, GSU.GSTAT, CYC.RFSTAT, PORT.CHOP_STAT, not_or, not_exists, not_and]
  exact ⟨by omega, by omega, fun j _ => by omega⟩

/-- A bridge is out or in by the trip groups, the engine and the die: not by what vote and block write. -/
theorem State.bridgeOut_of_cells {s t : State} {d : Nat} (hc : ∀ a, a ∉ gridRegs d → t.cell a = s.cell a) (hd : t.drives = s.drives)
    (b : Nat) : t.bridgeOut d b = s.bridgeOut d b := by
  have htg (j : Nat) : t.tgOf d j = s.tgOf d j := State.tgOf_of_cell (hc _ (members_notMem d).2) j
  have htripped (k : Nat) : t.flag (TRIP.TGSTAT_TRIPPED d k) = s.flag (TRIP.TGSTAT_TRIPPED d k) :=
    State.flag_of_cell (hc _ (tgstat_notMem_gridRegs d k))
  have hcle : t.flag (CLE.FLAGS_RETIRED d b) = s.flag (CLE.FLAGS_RETIRED d b) := State.flag_of_cell (hc _ (cleFlags_notMem_gridRegs d b))
  unfold State.bridgeOut
  simp only [htg, htripped, hcle, hd]

theorem State.votesOut_of_cells {s t : State} {d : Fin 4} (hc : ∀ a, a ∉ gridRegs d → t.cell a = s.cell a) (hd : t.drives = s.drives)
    (hf : t.flag (GSU.GSTAT_GSU_FAIL d) = s.flag (GSU.GSTAT_GSU_FAIL d)) : t.votesOut d = s.votesOut d := by
  have hbridges : t.get (GSU.GCFG_BRIDGES d) = s.get (GSU.GCFG_BRIDGES d) := State.get_of_cell (hc _ (gcfg_notMem_gridRegs d))
  unfold State.votesOut
  simp only [hf, hbridges, State.bridgeOut_of_cells hc hd]

/-- The latches that CONNECT clears. -/
def State.connectCleared (s : State) (d : Nat) : State :=
  ((((s.setB (RTS.RTSTAT_TRIPPED d) false).setB (GSU.GSTAT_ISLAND d) false).setB (GSU.GSTAT_PROBE_FAIL d) false).set
    (GSU.GSTAT_ISL_CNT d) 0).modGrid d (fun g => { g with discon := false, openWait := false, lowWins := 0 })

theorem State.connect_allowed (s : State) (d : Nat) (hready : s.flag (RTS.RTSTAT_RC_READY d) = true)
    (hreg : s.get (RTS.RTSTAT_REGION d) = 0) (hfail : s.flag (GSU.GSTAT_GSU_FAIL d) = false)
    (hweld : s.flag (RTS.RTSTAT_GCON_WELD d) = false) : s.connect d = ((s.connectCleared d).setVote d 1).refreshGrid d := by
  unfold State.connect
  rw [hready, hreg, hfail, hweld, if_pos (by decide)]
  rfl

theorem State.connectCleared_drives (s : State) (d : Nat) : (s.connectCleared d).drives = s.drives := by
  unfold State.connectCleared
  rw [State.modGrid_drives, State.set_drives, State.setB_drives, State.setB_drives, State.setB_drives]

theorem State.connectCleared_cell (s : State) (d : Nat) {a : Nat} (h : a ∉ gridRegs d) : (s.connectCleared d).cell a = s.cell a := by
  have hg : a ≠ GSU.GSTAT d := fun e => h (by simp [gridRegs, e])
  have ht : a ≠ RTS.RTSTAT d := fun e => h (by simp [gridRegs, e])
  unfold State.connectCleared
  rw [State.modGrid_cell, State.cell_set_ne _ _ _ _ hg, State.cell_setB_ne _ _ _ _ hg, State.cell_setB_ne _ _ _ _ hg,
    State.cell_setB_ne _ _ _ _ ht]

theorem State.setVote_drives (s : State) (d v : Nat) : (s.setVote d v).drives = s.drives :=
  have : Open (fun p => p = .drives) .regs := open_of_eq (by decide)
  have : Open (fun p => p = .drives) .grids := open_of_eq (by decide)
  (State.setVote_keeps (F := fun p => p = .drives) (Keeps.refl _ s) d v).same .drives rfl

/-- A die that does not vote OUT votes CLOSE after CONNECT. -/
theorem State.connectCleared_votesClose (s : State) (d : Fin 4) (hin : s.votesOut d = false) :
    (((s.connectCleared d).setVote d 1).refreshGrid d).get (RTS.RTSTAT_VOTE d) = 1 := by
  have hvote := State.setVote_vote (s.connectCleared d) d (v := 1) (by decide)
  have hfail : FieldSame (GSU.GSTAT_GSU_FAIL d) s ((s.connectCleared d).setVote d 1) :=
    FieldSame.setVote ((((((FieldSame.refl _ s).setB _ _ rfl).setB _ _ rfl).setB _ _ rfl).set _ _ rfl).modGrid d _) 1
      (voteFields_apart_gstat rfl rfl)
  have hdrives : ((s.connectCleared d).setVote d 1).drives = s.drives := (State.setVote_drives _ d 1).trans (s.connectCleared_drives d)
  have hout : ((s.connectCleared d).setVote d 1).votesOut d = false :=
    (State.votesOut_of_cells (fun a ha => (State.setVote_cell _ _ _ _ ha).trans (s.connectCleared_cell d ha)) hdrives hfail.flag).trans hin
  rw [State.refreshGrid, State.refreshVote_of_in _ _ hout (by rw [hvote]; decide), State.refreshBlock_vote, hvote]

/-- A latch that CONNECT has cleared stays cleared through the vote and the block. -/
theorem State.voted_tripped (s : State) (d v : Nat) :
    ((s.setVote d v).refreshGrid d).flag (RTS.RTSTAT_TRIPPED d) = s.flag (RTS.RTSTAT_TRIPPED d) := by
  have hv : ∀ f ∈ voteFields d, f.apart (RTS.RTSTAT_TRIPPED d) = true := voteFields_apart_rtstat rfl rfl rfl rfl
  exact State.flag_of_get ((State.refreshGrid_get _ d hv (RF.apart_of_addr_ne rfl rfl (RTS.rtstat_ne_gstat d))
    (RTS.rtstat_notMem_outRegs d)).trans (s.setVote_get d v hv))

theorem State.voted_gstat (s : State) (d v : Nat) {g : RF} (ha : g.addr = GSU.GSTAT d) (hf : g.fits = true)
    (hb : (GSU.GSTAT_BLOCK d).apart g = true) : ((s.setVote d v).refreshGrid d).flag g = s.flag g :=
  (((FieldSame.refl g s).setVote v (voteFields_apart_gstat ha hf)).refreshGrid ha hf hb).flag

theorem State.connectCleared_shows (s : State) (d : Nat) : (s.connectCleared d).flag (RTS.RTSTAT_TRIPPED d) = false ∧
    (s.connectCleared d).flag (GSU.GSTAT_ISLAND d) = false ∧ (s.connectCleared d).flag (GSU.GSTAT_PROBE_FAIL d) = false := by
  have hkeep {g : RF} (hg : (GSU.GSTAT_ISL_CNT d).apart g = true) : (s.connectCleared d).flag g =
      (((s.setB (RTS.RTSTAT_TRIPPED d) false).setB (GSU.GSTAT_ISLAND d) false).setB (GSU.GSTAT_PROBE_FAIL d) false).flag g :=
    (((FieldSame.refl g _).set (GSU.GSTAT_ISL_CNT d) 0 hg).modGrid d _).flag
  refine ⟨?_, ?_, ?_⟩
  · rw [hkeep rfl, State.flag_setB_apart _ _ rfl, State.flag_setB_apart _ _ rfl]
    exact State.flag_setB_self _ _ _ (of_decide_eq_true rfl) Nat.one_pos
  · rw [hkeep rfl, State.flag_setB_apart _ _ rfl]
    exact State.flag_setB_self _ _ _ (of_decide_eq_true rfl) Nat.one_pos
  · rw [hkeep rfl]
    exact State.flag_setB_self _ _ _ (of_decide_eq_true rfl) Nat.one_pos

theorem connect_votesClose (d : Fin 4) (s : State) (hready : s.flag (RTS.RTSTAT_RC_READY d) = true) (hreg : s.get (RTS.RTSTAT_REGION d) = 0)
    (hfail : s.flag (GSU.GSTAT_GSU_FAIL d) = false) (hweld : s.flag (RTS.RTSTAT_GCON_WELD d) = false) (hr : s.mainRuns = true) :
    Completes (exec (.connect d) s) (fun t => t.flag (RTS.RTSTAT_TRIPPED d) = false ∧ t.flag (GSU.GSTAT_ISLAND d) = false ∧
      t.flag (GSU.GSTAT_PROBE_FAIL d) = false ∧ (s.votesOut d = false → t.get (RTS.RTSTAT_VOTE d) = 1)) := by
  refine completes_whileRuns hr (completes_next ?_)
  obtain ⟨htrip, hisland, hprobe⟩ := s.connectCleared_shows d
  rw [s.connect_allowed d hready hreg hfail hweld]
  exact ⟨(State.voted_tripped _ d 1).trans htrip, (State.voted_gstat _ d 1 rfl rfl rfl).trans hisland,
    (State.voted_gstat _ d 1 rfl rfl rfl).trans hprobe, s.connectCleared_votesClose d⟩

theorem connect_rejected (d : Fin 4) (s : State) (hready : s.flag (RTS.RTSTAT_RC_READY d) = false) (hr : s.mainRuns = true) :
    Completes (exec (.connect d) s) (fun t => t.flag (RTS.RTSTAT_CONN_REJ d) = true ∧
      t.get (RTS.RTSTAT_VOTE d) = s.get (RTS.RTSTAT_VOTE d) ∧ SameBut [.regs] s t ∧ RegsBut [RTS.RTSTAT d] s t) := by
  have hrej : s.connect d = s.setB (RTS.RTSTAT_CONN_REJ d) true := by
    unfold State.connect
    rw [hready, Bool.false_and, Bool.false_and, Bool.false_and, if_neg Bool.false_ne_true]
  refine completes_whileRuns hr (completes_next ?_)
  rw [hrej]
  exact ⟨State.flag_setB_self _ _ _ (of_decide_eq_true rfl) Nat.one_pos, s.get_setB_apart true rfl, State.setReg_sameBut _ _ _,
    State.setReg_regsBut _ _ _ (List.mem_singleton.2 rfl)⟩

/-! ### DISCONNECT (R259, R295) -/

/-- What waits of a decision does not concern DISCONNECT. -/
theorem State.openDecision_discon (s : State) (d e : Nat) : ((s.openDecision d).grid e).discon = (s.grid e).discon := by
  unfold State.openDecision
  split
  · split
    · rfl
    · exact congrArg Prod.fst (s.setVote_decisions d 2 e)
  · exact vget_vmod_proj GridDie.discon s.grids d e _ fun _ => by rfl

theorem State.openDecision_cell (s : State) (d : Nat) {a : Nat} (h : a ∉ gridRegs d) : (s.openDecision d).cell a = s.cell a := by
  unfold State.openDecision
  split
  · split
    · rfl
    · exact s.setVote_cell d 2 a h
  · rfl

theorem State.refreshVote_cell (s : State) (d : Nat) {a : Nat} (h : a ∉ gridRegs d) : (s.refreshVote d).cell a = s.cell a := by
  obtain he | ⟨v, he⟩ := s.refreshVote_cases d
  · rw [he]
  · rw [he, s.setVote_cell d v a h]

/-- The block shows what R259 asks for. -/
theorem State.refreshBlock_block (s : State) (d : Nat) : (s.refreshBlock d).flag (GSU.GSTAT_BLOCK d) = s.blockWanted d := by
  have hout : (GSU.GSTAT_BLOCK d).addr ∉ outRegs d := GSU.gstat_notMem_outRegs d
  unfold State.refreshBlock
  extract_lets want ports s1 s2
  have h2 : s2.flag (GSU.GSTAT_BLOCK d) = want := by
    have h1 : s1.flag (GSU.GSTAT_BLOCK d) = want := State.flag_setB_self _ _ _ (of_decide_eq_true rfl) Nat.one_pos
    unfold s2
    split
    · exact (State.flag_of_cell (State.modGrid_cell _ _ _ _)).trans h1
    · exact h1
  refine (State.flag_of_cell (foldOver_cell _ _ _ _ fun j _ t => ?_)).trans h2
  extract_lets b t1
  refine (State.modPort_cell _ _ _ _ _).trans ?_
  unfold t1
  split
  · rw [State.modPort_cell, State.turnOffIn_cell _ _ _ _ _ _ hout, State.turnOffIn_cell _ _ _ _ _ _ hout]
  · rfl

/-- R259: a disconnected die with GRID_EN set is blocked. -/
theorem State.blockWanted_of_discon (s : State) (d : Nat) (hen : s.flag (GSU.GCFG_GRID_EN d) = true) (hd : (s.grid d).discon = true) :
    s.blockWanted d = true := by
  unfold State.blockWanted
  rw [hen, hd, Bool.or_true, Bool.and_self]

theorem disconnect_blocks (d : Fin 4) (s : State) (hr : s.mainRuns = true) : Completes (exec (.disconnect d) s) (fun t =>
    (t.grid d).discon = true ∧ (s.flag (GSU.GCFG_GRID_EN d) = true → t.flag (GSU.GSTAT_BLOCK d) = true)) := by
  refine completes_whileRuns hr (completes_next ?_)
  unfold State.disconnect
  generalize hu : (s.modGrid d (fun g => { g with discon := true })).openDecision d = u
  have hdiscon : (u.grid d).discon = true := by
    rw [← hu, State.openDecision_discon, State.grid_modGrid_self _ _ _ d.isLt]
  have hen : u.cell (GSU.GCFG d) = s.cell (GSU.GCFG d) := by
    rw [← hu]
    exact State.openDecision_cell _ d (gcfg_notMem_gridRegs d)
  refine ⟨(congrArg Prod.fst (u.refreshGrid_decisions d d)).trans hdiscon, fun h => (State.refreshBlock_block _ d).trans ?_⟩
  exact State.blockWanted_of_discon _ d ((State.flag_of_cell ((u.refreshVote_cell d (gcfg_notMem_gridRegs d)).trans hen)).trans h)
    ((congrArg Prod.fst (u.refreshVote_decisions d d)).trans hdiscon)

/-- Settles O23: one lemma for each command and outcome. -/
theorem gridConnection : Obligations.GridConnection :=
  ⟨gridEnable_taken, gridEnable_refused, gridDisable_taken, gridDisable_refused, rcSecond_counts, rcSecond_restarts, connect_votesClose,
    connect_rejected, disconnect_blocks⟩

end Sys2Proof.Machine
end

section
/-! SUPPORT and the obligation on islanding, votes and contactors (O25): the zero crossing, ROCOF, the votes of the dies, the contactors of S. -/

namespace Sys2Proof.Machine

/-! ### An island is declared (R286) -/

/-- ISLAND and its source shown. -/
def State.islandShown (s : State) (d src : Nat) : State := (s.setB (GSU.GSTAT_ISLAND d) true).set (GSU.GSTAT_ISL_SRC d) src

theorem State.declareIsland_first (s : State) (d src : Nat) (h : s.flag (GSU.GSTAT_ISLAND d) = false) :
    s.declareIsland d src = ((s.islandShown d src).openDecision d).refreshGrid d := if_neg (by rw [h]; exact Bool.false_ne_true)

/-- The first island of a die shows ISLAND and its source, which vote and block leave. -/
theorem State.declareIsland_shows (s : State) (d : Nat) {src : Nat} (h : s.flag (GSU.GSTAT_ISLAND d) = false) (hsrc : src < 8) :
    (s.declareIsland d src).flag (GSU.GSTAT_ISLAND d) = true ∧ (s.declareIsland d src).get (GSU.GSTAT_ISL_SRC d) = src := by
  have hkeep {g : RF} (ha : g.addr = GSU.GSTAT d) (hf : g.fits = true) (hb : (GSU.GSTAT_BLOCK d).apart g = true) :
      FieldSame g (s.islandShown d src) (((s.islandShown d src).openDecision d).refreshGrid d) :=
    ((FieldSame.refl g _).openDecision (voteFields_apart_gstat ha hf)).refreshGrid ha hf hb
  rw [s.declareIsland_first d src h]
  refine ⟨(hkeep rfl rfl rfl).flag.trans ?_, (hkeep rfl rfl rfl).trans ?_⟩
  · exact (State.flag_set_apart _ _ rfl).trans (State.flag_setB_self _ _ _ (of_decide_eq_true rfl) Nat.one_pos)
  · exact (State.get_set_self _ _ _ (of_decide_eq_true rfl)).trans (Nat.mod_eq_of_lt hsrc)

/-! ### The zero crossing (R283): what follows the count of GCYC leaves it -/

/-- From `r` to `t` the grid cycle counter of the die reads the same. -/
abbrev GcycSame (d : Nat) (r t : State) : Prop := FieldSame (GSU.GSTAT_GCYC d) r t

section
variable {d : Nat} {r s : State}

theorem GcycSame.declareIsland (h : GcycSame d r s) (src : Nat) : GcycSame d r (s.declareIsland d src) := by
  have hshown : GcycSame d r (s.islandShown d src) := (h.setB _ true rfl).set _ src rfl
  exact h.ite ((hshown.openDecision (voteFields_apart_gstat rfl rfl)).refreshGrid rfl rfl rfl)

theorem GcycSame.probeWindow (h : GcycSame d r s) (n : Nat) : GcycSame d r (s.probeWindow d n) := by
  have hzmag : (GSU.GSTAT_GCYC d).addr ≠ GSU.ZMAG d := by
    simp only [GSU.GSTAT_GCYC, GSU.GSTAT, GSU.ZMAG]
    omega
  unfold State.probeWindow
  extract_lets pn pd w v i low fail z count
  have hlow : GcycSame d r low := ((h.setB (GSU.GSTAT_PROBE_LOW d) true rfl).set (GSU.GSTAT_ISL_CNT d) 0 rfl).modGrid d _
  have hfail : GcycSame d r fail := hlow.setB (GSU.GSTAT_PROBE_FAIL d) true rfl
  have hz : GcycSame d r z := (h.of_cell (State.cell_setReg_ne _ _ _ _ hzmag)).modGrid d _
  have hcount : GcycSame d r count := hz.incSat (GSU.GSTAT_ISL_CNT d) rfl
  exact .ite (.ite (.ite (hfail.declareIsland 4) hfail) hlow)
    (.ite hz (.ite (.ite (hcount.declareIsland 1) hcount) (hz.set (GSU.GSTAT_ISL_CNT d) 0 rfl)))

theorem GcycSame.fresh (h : GcycSame d r s) : GcycSame d r s.fresh.2 := h.of_cell rfl

theorem GcycSame.probeEvaluate (h : GcycSame d r s) : GcycSame d r (s.probeEvaluate d) := by
  unfold State.probeEvaluate
  extract_lets g ran s1
  have h1 : GcycSame d r s1 := h.modGrid d _
  exact .ite (h1.modGrid d _) (.ite ((h1.set (GSU.GSTAT_ISL_CNT d) 0 rfl).modGrid d _) (h1.fresh.probeWindow _))

theorem GcycSame.checkLock (h : GcycSame d r s) : GcycSame d r (s.checkLock d) := by
  unfold State.checkLock
  extract_lets f inRange s1
  have h1 : GcycSame d r s1 := h.ite (h.modGrid d _)
  exact .ite ((h1.setB (GSU.GSTAT_LOCKED d) true rfl).setB (GSU.GSTAT_GSU_FAIL d) false rfl) h1

theorem GcycSame.cycleFlit (h : GcycSame d r s) : GcycSame d r (s.cycleFlit d) := h.of_cell rfl

theorem GcycSame.refreshReady (h : GcycSame d r s) : GcycSame d r (s.refreshReady d) := h.setB (RTS.RTSTAT_RC_READY d) _ rfl

/-- Everything of a zero crossing but the count itself leaves GCYC. -/
theorem State.zeroCrossing_gcycSame (s : State) (d : Nat) : GcycSame d (s.incMod (GSU.GSTAT_GCYC d)) (s.zeroCrossing d) := by
  unfold State.zeroCrossing
  extract_lets s1 held s2 s3 s4 s5
  have h2 : GcycSame d s1 s2 := (FieldSame.refl _ s1).modGrid d _
  have h3 : GcycSame d s1 s3 := .ite h2.cycleFlit h2
  have h4 : GcycSame d s1 s4 := h3.probeEvaluate.checkLock
  have h5 : GcycSame d s1 s5 := .ite h4.refreshReady h4
  exact h5.refreshGrid rfl rfl rfl

end

theorem gridZeroCrossing_counts (d : Fin 4) (s : State) (hn : (vget s.drives d).retired = false) (hr : s.mainRuns = true) :
    Completes (exec (.gridZeroCrossing d) s) (fun t =>
      t.get (GSU.GSTAT_GCYC d) = (s.get (GSU.GSTAT_GCYC d) + 1) % 2 ^ (GSU.GSTAT_GCYC d).w) := by
  refine completes_whileRuns hr (completes_next ?_)
  rw [hn, if_neg Bool.false_ne_true]
  exact (s.zeroCrossing_gcycSame d).trans (s.get_incMod_self _ (of_decide_eq_true rfl))

/-! ### ROCOF (R279) -/

/-- ROCOF above its threshold at one more half-cycle. -/
def State.rocofHit (s : State) (d : Nat) : State := s.modGrid d (fun g => { g with rocofHits := g.rocofHits + 1 })

theorem State.rocofHit_hits (s : State) (d : Nat) (hd : d < 4) : ((s.rocofHit d).grid d).rocofHits = (s.grid d).rocofHits + 1 := by
  unfold State.rocofHit
  rw [State.grid_modGrid_self _ _ _ hd]

section
variable (d : Fin 4) (s : State)

/-- An evaluation above the threshold: one more hit, and an island with the last of ROCOF_N. -/
theorem execRocofEvaluation_above (hn : (vget s.drives d).retired = false) (hen : s.flag (GSU.ISLCFG_ROCOF_EN d) = true)
    (hth : s.get (GSU.ROCOF_TH_ROCOF_TH d) < (s.getS (GSU.ROCOF_ROCOF d)).natAbs) (hr : s.mainRuns = true) :
    execRocofEvaluation d s = .next (if max 1 (s.get (GSU.ISLCFG_ROCOF_N d)) ≤ (s.grid d).rocofHits + 1
      then (s.rocofHit d).declareIsland d 2 else s.rocofHit d) := by
  unfold execRocofEvaluation
  rw [whileRuns_running _ hr, hn, hen, if_neg Bool.false_ne_true, if_neg (by decide), if_neg (Nat.not_le.2 hth), ← s.rocofHit_hits d d.isLt]
  rfl

theorem rocofEvaluation_counts (hn : (vget s.drives d).retired = false) (hen : s.flag (GSU.ISLCFG_ROCOF_EN d) = true)
    (hth : s.get (GSU.ROCOF_TH_ROCOF_TH d) < (s.getS (GSU.ROCOF_ROCOF d)).natAbs)
    (hfew : (s.grid d).rocofHits + 1 < s.get (GSU.ISLCFG_ROCOF_N d)) (hr : s.mainRuns = true) :
    Completes (exec (.rocofEvaluation d) s) (fun t => (t.grid d).rocofHits = (s.grid d).rocofHits + 1 ∧ SameBut [.grids] s t) := by
  refine ⟨s.rocofHit d, (execRocofEvaluation_above d s hn hen hth hr).trans ?_, s.rocofHit_hits d d.isLt, s.modGrid_sameBut d _⟩
  rw [if_neg (by omega)]

theorem rocofEvaluation_declares (hn : (vget s.drives d).retired = false) (hen : s.flag (GSU.ISLCFG_ROCOF_EN d) = true)
    (hth : s.get (GSU.ROCOF_TH_ROCOF_TH d) < (s.getS (GSU.ROCOF_ROCOF d)).natAbs)
    (hmany : max 1 (s.get (GSU.ISLCFG_ROCOF_N d)) ≤ (s.grid d).rocofHits + 1) (hno : s.flag (GSU.GSTAT_ISLAND d) = false)
    (hr : s.mainRuns = true) : Completes (exec (.rocofEvaluation d) s) (fun t =>
      t.flag (GSU.GSTAT_ISLAND d) = true ∧ t.get (GSU.GSTAT_ISL_SRC d) = 2) := by
  refine ⟨(s.rocofHit d).declareIsland d 2, (execRocofEvaluation_above d s hn hen hth hr).trans ?_,
    State.declareIsland_shows (s.rocofHit d) d hno (by decide)⟩
  rw [if_pos hmany]

theorem rocofEvaluation_clears (hn : (vget s.drives d).retired = false) (hen : s.flag (GSU.ISLCFG_ROCOF_EN d) = true)
    (hth : (s.getS (GSU.ROCOF_ROCOF d)).natAbs ≤ s.get (GSU.ROCOF_TH_ROCOF_TH d)) (hr : s.mainRuns = true) :
    Completes (exec (.rocofEvaluation d) s) (fun t => (t.grid d).rocofHits = 0 ∧ SameBut [.grids] s t) := by
  refine completes_whileRuns hr (completes_next ?_)
  rw [hn, hen, if_neg Bool.false_ne_true, if_neg (by decide), if_pos hth, State.grid_modGrid_self _ _ _ d.isLt]
  exact ⟨rfl, s.modGrid_sameBut d _⟩

/-! ### Votes (R290, R291) -/

/-- A vote as it reaches S: it stands in GCSTAT, and the die is missing no more. -/
def State.voteReceived (s : State) (d v : Nat) : State :=
  let t := s.setReg GCON.GCSTAT (putBits (s.reg GCON.GCSTAT) (16 + 2 * d) 2 v)
  { t with gridS := { t.gridS with missing := t.gridS.missing &&& (15 ^^^ 2 ^ d) } }

theorem State.voteReceived_voteAtS {v : Nat} (hv : v < 4) : (s.voteReceived d v).voteAtS d = v := by
  have hreg : (s.voteReceived d v).reg GCON.GCSTAT = putBits (s.reg GCON.GCSTAT) (16 + 2 * d) 2 v := State.reg_setReg_self _ _ _
  unfold State.voteAtS
  rw [hreg, getBits_putBits_self _ _ _ _ (by omega)]
  exact Nat.mod_eq_of_lt hv

theorem State.voteReceived_notMissing (v : Nat) : (s.voteReceived d v).gridS.missing.testBit d = false := by
  have hmask : ∀ d : Fin 4, (15 ^^^ 2 ^ d.val).testBit d = false := by decide
  unfold State.voteReceived
  rw [Nat.testBit_and, hmask, Bool.and_false]

/-- What S holds of a vote leaves the die's own. -/
theorem State.voteReceived_vote (v : Nat) : (s.voteReceived d v).get (RTS.RTSTAT_VOTE d) = s.get (RTS.RTSTAT_VOTE d) := by
  have hne : (RTS.RTSTAT_VOTE d).addr ≠ GCON.GCSTAT := by
    simp only [RTS.RTSTAT_VOTE, RTS.RTSTAT, GCON.GCSTAT]
    omega
  exact State.get_of_cell (State.cell_setReg_ne _ _ _ _ hne)

theorem voteSend_reaches (hn : (vget s.drives d).retired = false) (hen : s.flag (GSU.GCFG_GRID_EN d) = true) (hr : s.mainRuns = true) :
    Completes (exec (.voteSend d) s) (fun t => t.voteAtS d = t.get (RTS.RTSTAT_VOTE d) ∧ t.gridS.missing.testBit d = false) := by
  have hen' : (s.refreshGrid d).flag (GSU.GCFG_GRID_EN d) = true :=
    (State.flag_of_cell (s.refreshGrid_cell d _ (gcfg_notMem_gridRegs d))).trans hen
  refine completes_whileRuns hr (completes_next ?_)
  rw [hn, if_neg Bool.false_ne_true]
  dsimp only
  rw [hen', if_neg (by decide)]
  generalize s.refreshGrid d = u
  have hv := u.get_lt (RTS.RTSTAT_VOTE d)
  exact ⟨(State.voteReceived_voteAtS d u hv).trans (State.voteReceived_vote d u _).symm, State.voteReceived_notMissing d u _⟩

theorem voteOpenDelay_opens (hw : (s.grid d).openWait = true) (hr : s.mainRuns = true) :
    Completes (exec (.voteOpenDelay d) s) (fun t => (t.grid d).openWait = false ∧ t.get (RTS.RTSTAT_VOTE d) ≠ 1) := by
  refine completes_whileRuns hr (completes_next ?_)
  rw [hw, if_pos rfl]
  extract_lets u
  have hwait : (u.grid d).openWait = false := by
    unfold u
    rw [State.grid_modGrid_self _ _ _ d.isLt]
  clear_value u
  generalize hx : (if u.get (RTS.RTSTAT_VOTE d) = 0 then u else u.setVote d 2) = x
  have hdec : (x.grid d).decisions = (u.grid d).decisions ∧ x.get (RTS.RTSTAT_VOTE d) ≠ 1 := by
    rw [← hx]
    split
    · next h => exact ⟨rfl, by rw [h]; decide⟩
    · exact ⟨u.setVote_decisions d 2 d, by rw [u.setVote_vote d (by decide)]; decide⟩
  obtain ⟨hsame, hvote⟩ := hdec
  refine ⟨(congrArg Prod.snd ((x.refreshGrid_decisions d d).trans hsame)).trans hwait, ?_⟩
  rw [State.refreshGrid, State.refreshBlock_vote]
  exact x.refreshVote_notClose d hvote

theorem voteMissingTimeout_marks (hr : s.mainRuns = true) : Completes (exec (.voteMissingTimeout d) s) (fun t =>
    t.gridS.missing = s.gridS.missing ||| 2 ^ d.val ∧ SameBut [.gridS] s t) :=
  have : Open (fun p => p ∉ [Part.gridS]) .gridS := open_of_mem (by decide)
  completes_whileRuns hr (completes_next ⟨rfl, Keeps.sameBut ((Keeps.refl _ s).gridS _)⟩)

end

/-! ### Contactors (R291, R292) -/

/-- The report of S to the dies leaves the registers of S. -/
theorem State.reportGcon_cell (s : State) {a : Nat} (h : 0x44000000 ≤ a) : s.reportGcon.cell a = s.cell a := by
  unfold State.reportGcon
  extract_lets closed
  refine foldOver_cell _ _ _ _ fun d hd t => ?_
  have hmem : a ∉ gridRegs d := notMem_gridRegs (List.mem_range.1 hd) h
  have hstat : a ≠ RTS.RTSTAT d := fun e => hmem (by simp [gridRegs, e])
  split
  · rw [State.refreshGrid_cell _ _ _ hmem, State.cell_setB_ne _ _ _ _ hstat, State.cell_setB_ne _ _ _ _ hstat]
  · rfl

theorem State.reportGcon_gcstat (s : State) {g : RF} (hg : g.addr = GCON.GCSTAT) : s.reportGcon.flag g = s.flag g :=
  State.flag_of_cell (s.reportGcon_cell (hg ▸ by decide))

theorem gconUpdate_follows (s : State) (hr : s.mainRuns = true) : Completes (exec .gconUpdate s) (fun t =>
    t.flag GCON.GCSTAT_GCON0 = s.gconHolds ∧ t.flag GCON.GCSTAT_GCON1 = s.gconHolds) := by
  refine completes_whileRuns hr (completes_next ?_)
  unfold State.gconUpdate
  dsimp only
  rw [State.reportGcon_gcstat _ rfl, State.reportGcon_gcstat _ rfl]
  exact ⟨(State.flag_setB_apart _ _ rfl).trans (State.flag_setB_self _ _ _ (by decide) (by decide)),
    State.flag_setB_self _ _ _ (by decide) (by decide)⟩

theorem gfbChange_shows (which level : Bool) (s : State) (hr : s.mainRuns = true) : Completes (exec (.gfbChange which level) s) (fun t =>
    t.flag (if which then GCON.GCSTAT_GFB1 else GCON.GCSTAT_GFB0) = level) := by
  refine completes_whileRuns hr (completes_next ?_)
  cases which
  · exact (State.reportGcon_gcstat _ rfl).trans (State.flag_setB_self _ _ _ (by decide) (by decide))
  · exact (State.reportGcon_gcstat _ rfl).trans (State.flag_setB_self _ _ _ (by decide) (by decide))

theorem gconWeld_shows (which : Bool) (s : State) (hfb : s.flag (if which then GCON.GCSTAT_GFB1 else GCON.GCSTAT_GFB0) = true)
    (hout : s.flag (if which then GCON.GCSTAT_GCON1 else GCON.GCSTAT_GCON0) = false) (hr : s.mainRuns = true) :
    Completes (exec (.gconWeld which) s) (fun t => t.flag GCON.GCSTAT_WELD = true) := by
  refine completes_whileRuns hr (completes_next ?_)
  rw [hfb, hout]
  cases hweld : s.flag GCON.GCSTAT_WELD
  case true => exact hweld
  case false =>
    have hkq : GCON.GCSTAT_WELD.addr ≠ KPR.KQ := by decide
    exact (State.flag_of_cell (State.enterFault_cell _ _ _ _ _ _ _ hkq)).trans
      ((State.reportGcon_gcstat _ rfl).trans (State.flag_setB_self _ _ _ (by decide) (by decide)))

/-- Settles O25: one lemma for each command and outcome. -/
theorem islandingAndContactors : Obligations.IslandingAndContactors :=
  ⟨gridZeroCrossing_counts, rocofEvaluation_counts, rocofEvaluation_declares, rocofEvaluation_clears, voteSend_reaches, voteOpenDelay_opens,
    gconUpdate_follows, voteMissingTimeout_marks, gfbChange_shows, gconWeld_shows⟩

end Sys2Proof.Machine
end

section
/-! SUPPORT. The accounting of a metering point: what booking a window's sums, flags, interval and record leaves of the point and of its status
(for O26 and O27). -/

namespace Sys2Proof.Machine

/-! ### One metering point -/

theorem State.meter_modMeter_self (s : State) {m : Nat} (hm : m < 3) (f : MeterPoint → MeterPoint) :
    (s.modMeter m f).meter m = f (s.meter m) := vget_vmod_self _ _ _ hm

theorem State.modMeter_get (s : State) (m : Nat) (f : MeterPoint → MeterPoint) (g : RF) : (s.modMeter m f).get g = s.get g := rfl

theorem State.modMeter_flag (s : State) (m : Nat) (f : MeterPoint → MeterPoint) (g : RF) : (s.modMeter m f).flag g = s.flag g :=
  State.flag_of_get (State.modMeter_get s m f g)

/-- A point without what the accounting of a window changes: the results with OVR = 1 that have been counted, the carried state and the commit
that waits. -/
def MeterPoint.unbooked (p : MeterPoint) : MeterPoint := { p with ovrDone := [], acc := {}, waiting := none }

/-- A field before the readings of the point, other than the direction, the no-load flag and the count of its windows: none that the
accounting writes. -/
def Spared (m : Nat) (g : RF) : Prop :=
  g.addr < MP.VRMS m 0 ∧ g.addr ≠ KPR.KQ ∧ (MP.MSTAT_DIR m).apart g = true ∧ (MP.MSTAT_NOLOAD m).apart g = true ∧
    (MP.MSTAT_WIN_CNT m).apart g = true

theorem spared_of_mstat {m : Fin 3} {g : RF} (ha : g.addr = MP.MSTAT m) (hb : (MP.MSTAT_DIR m).apart g = true ∧
    (MP.MSTAT_NOLOAD m).apart g = true ∧ (MP.MSTAT_WIN_CNT m).apart g = true) : Spared m g := by
  refine ⟨?_, ?_, hb⟩
  · rw [ha, MP.MSTAT, MP.VRMS]
    omega
  · rw [ha, MP.MSTAT, KPR.KQ]
    omega

theorem mcnt_ne_mstat (m : Nat) : MP.MCNT m ≠ MP.MSTAT m := by
  rw [MP.MCNT, MP.MSTAT]
  omega

theorem spared_missCnt (m : Fin 3) : Spared m (MP.MCNT_MISS_CNT m) := by
  have hap {f : RF} (hf : f.addr = MP.MSTAT m) (hfit : f.fits = true) : f.apart (MP.MCNT_MISS_CNT m) = true :=
    RF.apart_of_addr_ne hfit rfl (hf ▸ mcnt_ne_mstat m)
  refine ⟨?_, ?_, hap rfl rfl, hap rfl rfl, hap rfl rfl⟩
  · simp only [MP.MCNT_MISS_CNT, MP.MCNT, MP.VRMS]
    omega
  · simp only [MP.MCNT_MISS_CNT, MP.MCNT, KPR.KQ]
    omega

/-- From `r` to `t` only the accounts of point `m` have changed. -/
structure Booked (m : Nat) (r t : State) : Prop where
  field : ∀ g, Spared m g → FieldSame g r t
  point : (t.meter m).unbooked = (r.meter m).unbooked

section
variable {m : Nat} {r s t : State}

theorem Booked.refl (m : Nat) (s : State) : Booked m s s := ⟨fun g _ => FieldSame.refl g s, rfl⟩

theorem Booked.ite {c : Prop} [Decidable c] (hs : Booked m r s) (ht : Booked m r t) : Booked m r (if c then s else t) := by
  split
  · exact hs
  · exact ht

theorem Booked.of_same (h : Booked m r s) (hr : t.regs = s.regs) (hm : t.meters = s.meters) : Booked m r t :=
  ⟨fun g hg => (h.field g hg).of_cell (State.cell_of_regs hr _),
    (congrArg (fun v => (vget v m).unbooked) hm).trans h.point⟩

theorem Booked.setReg (h : Booked m r s) {a : Nat} (w : Word) (ha : MP.VRMS m 0 ≤ a) : Booked m r (s.setReg a w) :=
  ⟨fun g hg => (h.field g hg).of_cell (State.cell_setReg_ne _ _ _ _ (Nat.ne_of_lt (Nat.lt_of_lt_of_le hg.1 ha))), h.point⟩

theorem Booked.set (h : Booked m r s) (f : RF) (x : Nat) (hf : MP.VRMS m 0 ≤ f.addr) : Booked m r (s.set f x) := h.setReg _ hf

theorem Booked.setStatus (h : Booked m r s) (f : RF) (x : Nat) (hf : ∀ g, Spared m g → f.apart g = true) : Booked m r (s.set f x) :=
  ⟨fun g hg => (h.field g hg).set f x (hf g hg), h.point⟩

theorem Booked.modMeter (h : Booked m r s) (f : MeterPoint → MeterPoint) (hf : ∀ p, (f p).unbooked = p.unbooked) :
    Booked m r (s.modMeter m f) := ⟨h.field, (vget_vmod_proj MeterPoint.unbooked s.meters m m f hf).trans h.point⟩

theorem Booked.modMeterAcc (h : Booked m r s) (f : MeterAcc → MeterAcc) : Booked m r (s.modMeterAcc m f) := h.modMeter _ fun _ => rfl

theorem Booked.foldOver (h : Booked m r s) (l : List Nat) (f : Nat → State → State)
    (hf : ∀ i ∈ l, ∀ t, Booked m r t → Booked m r (f i t)) : Booked m r (foldOver l f s) := foldOver_preserves l f s h hf

/-! ### Flags and sums (R313, R322, R327) -/

theorem rstat_high (m : Nat) : MP.VRMS m 0 ≤ MP.RSTAT m := by
  simp only [MP.VRMS, MP.RSTAT]
  omega

theorem intv_high (m a : Nat) : MP.VRMS m 0 ≤ MP.INTV m a := by
  simp only [MP.VRMS, MP.INTV]
  omega

theorem iwCnt_high (m a : Nat) : MP.VRMS m 0 ≤ MP.IW_CNT m a := by
  simp only [MP.VRMS, MP.IW_CNT]
  omega

theorem Booked.recordFlag (h : Booked m r s) (b : Nat) : Booked m r (s.recordFlag m b) :=
  .ite (h.modMeterAcc _) (.ite (h.setReg _ (rstat_high m)) h)

theorem Booked.accAdd (h : Booked m r s) (a : Nat) (x : Rat) : Booked m r (s.accAdd m a x) := by
  have hlo : MP.VRMS m 0 ≤ MP.ACC_LO m a := by
    simp only [MP.VRMS, MP.ACC_LO]
    omega
  have hhi : MP.VRMS m 0 ≤ MP.ACC_HI m a := by
    simp only [MP.VRMS, MP.ACC_HI]
    omega
  unfold State.accAdd
  exact ((h.set (MP.ACC_LO_VAL m a) _ hlo).set (MP.ACC_HI_VAL m a) _ hhi).modMeterAcc _

theorem Booked.accSums (h : Booked m r s) (x : List Rat) : Booked m r (s.accSums m x) :=
  h.foldOver _ _ fun a _ _ ht => ht.accAdd a _

theorem Booked.setWrap (h : Booked m r s) (a : Nat) (b : Bool) : Booked m r (s.setBit (MP.INTV_WRAP_VAL m) a b) := by
  have hwrap : MP.VRMS m 0 ≤ MP.INTV_WRAP m := by
    simp only [MP.VRMS, MP.INTV_WRAP]
    omega
  exact .ite (h.set (MP.INTV_WRAP_VAL m) _ hwrap) (h.set (MP.INTV_WRAP_VAL m) _ hwrap)

theorem Booked.intvAdd (h : Booked m r s) (a : Nat) (x : Rat) : Booked m r (s.intvAdd m a x) := by
  unfold State.intvAdd
  extract_lets t n v s1 s2
  have h1 : Booked m r s1 := h.set (MP.INTV_VAL m a) _ (intv_high m a)
  have h2 : Booked m r s2 := .ite h1 ((h1.setWrap a true).set (iwCnt m a) _ (iwCnt_high m _))
  exact h2.modMeterAcc _

theorem Booked.intvSums (h : Booked m r s) (x : List Rat) : Booked m r (s.intvSums m x) :=
  .ite (h.foldOver _ _ fun a _ _ ht => ht.intvAdd a _) h

/-! ### Commits and intervals (R330, R331, R333) -/

theorem State.burstRequest_meters (s : State) (c : Nat) : (s.burstRequest c).meters = s.meters :=
  have : Open (fun p => p = .meters) .regs := open_of_eq (by decide)
  have : Open (fun p => p = .meters) .keeper := open_of_eq (by decide)
  (State.burstRequest_keeps (F := fun p => p = .meters) (Keeps.refl _ s) c).same .meters rfl

/-- The burst class that a commit asks for is queued in a register of S. -/
theorem Booked.burstRequest (h : Booked m r s) (c : Nat) : Booked m r (s.burstRequest c) :=
  ⟨fun g hg => (h.field g hg).of_cell (State.burstRequest_cell _ _ _ hg.2.1),
    (congrArg (fun v => (vget v m).unbooked) (s.burstRequest_meters c)).trans h.point⟩

theorem Booked.meterCommit (h : Booked m r s) : Booked m r (s.meterCommit m) := by
  unfold State.meterCommit
  extract_lets lo saved
  exact (h.modMeter (fun p => { p with waiting := some saved }) fun _ => rfl).burstRequest 5

theorem Booked.intervalClose (h : Booked m r s) : Booked m r (s.intervalClose m) := by
  unfold State.intervalClose
  extract_lets ws bytes crc rseq s1 s2 s3 s4
  have h1 : Booked m r s1 := h.of_same rfl rfl
  have h2 : Booked m r s2 := h1.foldOver _ _ fun a _ _ ht => ht.setReg 0 (intv_high m a)
  have h3 : Booked m r s3 := h2.foldOver _ _ fun w _ _ ht => ht.setReg 0 (iwCnt_high m w)
  have h4 : Booked m r s4 := h3.setReg _ (rstat_high m)
  exact h4.modMeterAcc _

theorem Booked.lastingFlags (h : Booked m r s) : Booked m r (s.lastingFlags m) :=
  have hlost := Booked.ite (c := s.flag (MP.MSTAT_SRC_LOST m) = true) (h.recordFlag 29) h
  .ite hlost (hlost.recordFlag 27)

theorem Booked.intervalOpen (h : Booked m r s) (start l : Nat) : Booked m r (s.intervalOpen m start l) := by
  have hstart : MP.VRMS m 0 ≤ MP.ISTART m := by
    simp only [MP.VRMS, MP.ISTART]
    omega
  exact .ite (h.modMeterAcc _) ((h.setReg _ hstart).modMeterAcc _).lastingFlags

theorem Booked.boundary (h : Booked m r s) : Booked m r (s.boundary m) :=
  (Booked.ite h.intervalClose h).intervalOpen _ _

theorem Booked.awaitLen (h : Booked m r s) : Booked m r (s.awaitLen m) := .ite h (h.modMeterAcc _)

theorem Booked.closeGap (h : Booked m r s) : Booked m r (s.closeGap m) := .ite (h.recordFlag 24).intervalClose.meterCommit h

theorem Booked.settleInterval (h : Booked m r s) (utc : Nat) (opens : Bool) : Booked m r (s.settleInterval m utc opens) := by
  unfold State.settleInterval
  extract_lets a within s1 l s2
  have h1 : Booked m r s1 := .ite (h.recordFlag 24).intervalClose h
  have h2 : Booked m r s2 := .ite (h1.intervalOpen _ _) h1
  exact .ite h (.ite h2.meterCommit h2)

theorem Booked.joinPre (h : Booked m r s) : Booked m r (s.joinPre m) := by
  unfold State.joinPre
  extract_lets c s1 s2 s3
  have h1 : Booked m r s1 := (h.intvSums _).modMeterAcc _
  have h2 : Booked m r s2 := h1.setReg _ (rstat_high m)
  have h3 : Booked m r s3 := h2.set _ _ (rstat_high m)
  exact .ite h1 ((h3.recordFlag 24).recordFlag 27)

/-! ### The commit of a window (R308, R317-R321) -/

theorem Booked.publishWindow (h : Booked m r s) (w : WindowMeans) (len : Rat) : Booked m r (s.publishWindow m w len) := by
  have hdur : MP.VRMS m 0 ≤ MP.WDUR m := by
    simp only [MP.VRMS, MP.WDUR]
    omega
  refine Booked.set (h.foldOver _ _ fun k _ t ht => ?_) (MP.WDUR_VAL m) _ hdur
  have haddr : MP.VRMS m 0 ≤ MP.VRMS m k ∧ MP.VRMS m 0 ≤ MP.IRMS m k ∧ MP.VRMS m 0 ≤ MP.P m k ∧ MP.VRMS m 0 ≤ MP.Q m k ∧
      MP.VRMS m 0 ≤ MP.S m k ∧ MP.VRMS m 0 ≤ MP.PF m k := by
    simp only [MP.VRMS, MP.IRMS, MP.P, MP.Q, MP.S, MP.PF]
    omega
  obtain ⟨hv, hi, hp, hq, hs, hpf⟩ := haddr
  extract_lets vv ii t1 t2 sk t3
  have h2 : Booked m r t2 := ((ht.set (MP.VRMS_VAL m k) _ hv).set (MP.IRMS_VAL m k) _ hi).set (MP.P_VAL m k) _ hp
  have h3 : Booked m r t3 := (h2.set (MP.Q_VAL m k) _ hq).set (MP.S_VAL m k) _ hs
  exact .ite h2 (h3.set (MP.PF_VAL m k) _ hpf)

theorem Booked.countDirection (h : Booked m r s) (net : Rat) : Booked m r (s.countDirection m net) := by
  unfold State.countDirection
  extract_lets e rev s1
  have h1 : Booked m r s1 := (h.setStatus (MP.MSTAT_DIR m) _ fun _ hg => hg.2.2.1).modMeterAcc _
  exact .ite h (.ite h1 (.ite (h1.modMeterAcc _) (.ite (h1.set _ _ (rstat_high m)) h1)))

theorem Booked.cycleFund (h : Booked m r s) (l : List MeterStamp) (t0 len : Rat) : Booked m r (s.cycleFund m l t0 len).2 := by
  have haddr : MP.VRMS m 0 ≤ MP.P1 m ∧ MP.VRMS m 0 ≤ MP.Q1 m := by
    simp only [MP.VRMS, MP.P1, MP.Q1]
    omega
  exact (h.set (MP.P1_VAL m) _ haddr.1).set (MP.Q1_VAL m) _ haddr.2

theorem Booked.siftFlags (h : Booked m r s) (len : Rat) (xs : List (MeterStamp × Rat)) : Booked m r (s.siftFlags m len xs) :=
  have hmissing := Booked.ite (c := xs.all (fun x => (s.meter m).contributes m len x.1) = true) h (h.recordFlag 26)
  .ite (hmissing.recordFlag 25) hmissing

theorem Booked.commitWindow (h : Booked m r s) (raw xs : List (MeterStamp × Rat)) (fund : Option Rat) (endNs : Int) (len : Rat) (hold : Bool) :
    Booked m r (s.commitWindow m raw xs fund endNs len hold) := by
  unfold State.commitWindow
  extract_lets p b crosses late s1 means quiet s2 s3 before after tBefore tAfter around app
  have h1 : Booked m r s1 := h.siftFlags _ _
  have h2 : Booked m r s2 := h1.setStatus (MP.MSTAT_NOLOAD m) _ fun _ hg => hg.2.2.2.1
  have h3 : Booked m r s3 := .ite (h2.recordFlag 28) h2
  clear_value quiet
  split
  next fSums s4 hfund =>
    have h4 : Booked m r s4 := by
      split at hfund
      · have hs4 : (s3.cycleFund m around _ len).2 = s4 := congrArg Prod.snd hfund
        exact hs4 ▸ h3.cycleFund around _ len
      · have hs4 : s3 = s4 := congrArg Prod.snd hfund
        exact hs4 ▸ h3
    extract_lets endSums all net s5 s6 s7 s8 s9 s10
    have h5 : Booked m r s5 :=
      .ite h4 (((h4.accSums all).publishWindow means len).setStatus (MP.MSTAT_WIN_CNT m) _ fun _ hg => hg.2.2.2.2)
    refine .ite ((Booked.ite h5 (h5.countDirection net)).modMeterAcc _) ?_
    have h6 : Booked m r s6 := h5.intvSums _
    have h7 : Booked m r s7 := .ite h6 (.ite h6 (h6.countDirection net))
    have h8 : Booked m r s8 := .ite (h7.boundary.siftFlags len _) h7
    have h9 : Booked m r s9 := h8.intvSums _
    have h10 : Booked m r s10 := .ite (.ite h9 (h9.countDirection net)) h8
    exact .ite h10.meterCommit h10

end

end Sys2Proof.Machine
end

section
/-! SUPPORT. The end of a metering window: how an engine stops, starts and takes its configuration, and where the next window begins
(for O26 and O27). -/

namespace Sys2Proof.Machine

/-! ### What a point is after each part of a window's end -/

/-- The samples of the window that ends at `endNs`. -/
def State.windowSamples (s : State) (m : Nat) (endNs : Int) : List (MeterStamp × Rat) :=
  (s.meter m).samples.filter (fun x => decide (x.1.time < endNs))

/-- The samples of a point from `endNs` on. -/
def MeterPoint.samplesFrom (p : MeterPoint) (endNs : Int) : List (MeterStamp × Rat) := p.samples.filter (fun x => decide (endNs ≤ x.1.time))

/-- A point behind a window with the samples `xs`. -/
def MeterPoint.closeAt (endNs : Int) (len : Rat) (xs : List (MeterStamp × Rat)) (p : MeterPoint) : MeterPoint :=
  { p.prune endNs len xs with samples := p.samplesFrom endNs, winStart := endNs }

/-- A point whose engine has stopped (R332). -/
def MeterPoint.atStop (p : MeterPoint) : MeterPoint := { p with
  stopping := false, last := none, samples := [], past := [], seqs := [], ovrDone := [], lost := 0, gaps := [], due := none }

/-- What an enable latched while the engine still ran comes into force. -/
def MeterPoint.takeNext (p : MeterPoint) : MeterPoint :=
  match p.next with
  | some (d, ll, c) => { p with die := d, ll := ll, csrc := c, next := none }
  | none => p

/-- A point whose engine starts at `endNs` (R332). -/
def MeterPoint.beginAt (endNs : Int) (p : MeterPoint) : MeterPoint :=
  { p.takeNext with starting := false, winStart := endNs, samples := p.takeNext.samplesFrom endNs }

/-- The next window begins at `endNs`: no end waits, and every sample held is of that window or a later one. -/
def MeterPoint.opensAt (endNs : Int) (p : MeterPoint) : Prop :=
  p.due = none ∧ p.winStart = endNs ∧ ∀ x ∈ p.samples, endNs ≤ x.1.time

theorem MeterPoint.le_of_mem_samplesFrom {p : MeterPoint} {endNs : Int} : ∀ x ∈ p.samplesFrom endNs, endNs ≤ x.1.time :=
  fun _ hx => of_decide_eq_true (List.mem_filter.1 hx).2

theorem MeterPoint.takeNext_due (p : MeterPoint) : p.takeNext.due = p.due := by
  unfold MeterPoint.takeNext
  split <;> rfl

theorem MeterPoint.beginAt_opensAt {p : MeterPoint} (endNs : Int) (hdue : p.due = none) : (p.beginAt endNs).opensAt endNs :=
  ⟨p.takeNext_due.trans hdue, rfl, MeterPoint.le_of_mem_samplesFrom⟩

section
variable {m : Nat} {r t : State}

/-- A part of a point that is none of its accounts is the same. -/
theorem Booked.part {α : Sort*} (h : Booked m r t) (π : MeterPoint → α) (hπ : ∀ p, π p.unbooked = π p) : π (t.meter m) = π (r.meter m) :=
  (hπ _).symm.trans ((congrArg π h.point).trans (hπ _))

theorem Booked.due (h : Booked m r t) : (t.meter m).due = (r.meter m).due := h.part MeterPoint.due fun _ => rfl

theorem Booked.opensAt (h : Booked m r t) {endNs : Int} (hr : (r.meter m).opensAt endNs) : (t.meter m).opensAt endNs :=
  (h.part (MeterPoint.opensAt endNs) fun _ => rfl).mpr hr

end

/-! ### The samples of a window are sifted (R308) -/

section
variable (s : State) (m : Nat) (len : Rat) (xs : List (MeterStamp × Rat))

theorem State.sift_point : ((s.sift m len xs).2.meter m).unbooked = (s.meter m).unbooked := by
  unfold State.sift
  extract_lets p good bad ids new s1 s2
  have h1 : s1.meters = s.meters := by
    unfold s1
    split <;> rfl
  have h2 : s2.meters = s.meters := by
    unfold s2
    split
    · exact h1
    · exact h1
  exact (vget_vmod_proj MeterPoint.unbooked s2.meters m m (fun p => { p with ovrDone := p.ovrDone ++ new }) fun _ => rfl).trans
    (congrArg (fun v => (vget v m).unbooked) h2)

theorem State.sift_fundVoid : FieldSame (MP.MSTAT_FUND_VOID m) s (s.sift m len xs).2 := by
  have hcnt : (MP.MSTAT_FUND_VOID m).addr ≠ MP.MCNT m := (mcnt_ne_mstat m).symm
  unfold State.sift
  extract_lets p good bad ids new s1 s2
  have h1 : FieldSame (MP.MSTAT_FUND_VOID m) s s1 :=
    .ite (.refl _ s) (((FieldSame.refl _ s).set (MP.MCNT_MISS_CNT m) _ (RF.apart_of_addr_ne rfl rfl hcnt)).setB (MP.MSTAT_MISS m) _ rfl)
  have h2 : FieldSame (MP.MSTAT_FUND_VOID m) s s2 :=
    .ite h1 ((h1.set (MP.MCNT_OVR_CNT m) _ (RF.apart_of_addr_ne rfl rfl hcnt)).setB (MP.MSTAT_OVR_SEEN m) _ rfl)
  exact h2

/-- A sample that does not contribute is counted. -/
theorem State.sift_misses (h : xs.any (fun x => !(s.meter m).contributes m len x.1) = true) :
    (s.sift m len xs).2.flag (MP.MSTAT_MISS m) = true ∧ (s.sift m len xs).2.get (MP.MCNT_MISS_CNT m) ≠ 0 := by
  have hcnt := mcnt_ne_mstat m
  unfold State.sift
  extract_lets p good bad ids new s1 s2
  have hbad : bad ≠ 0 := by
    have hlt : good.length < xs.length := by
      rw [List.length_filter_lt_length_iff_exists]
      simpa using h
    exact Nat.sub_ne_zero_of_lt hlt
  have hs1 : s1 = (s.set (MP.MCNT_MISS_CNT m) (min 65535 (s.get (MP.MCNT_MISS_CNT m) + bad))).setB (MP.MSTAT_MISS m) true := if_neg hbad
  have hmiss1 : s1.flag (MP.MSTAT_MISS m) = true := hs1 ▸ State.flag_setB_self _ _ _ (of_decide_eq_true rfl) Nat.one_pos
  have hcount1 : s1.get (MP.MCNT_MISS_CNT m) ≠ 0 := by
    have hlt : min 65535 (s.get (MP.MCNT_MISS_CNT m) + bad) < 2 ^ (MP.MCNT_MISS_CNT m).w :=
      Nat.lt_of_le_of_lt (Nat.min_le_left _ _) (of_decide_eq_true rfl)
    rw [hs1, State.get_setB_apart _ _ (RF.apart_of_addr_ne rfl rfl hcnt), State.get_set_self _ _ _ (of_decide_eq_true rfl),
      Nat.mod_eq_of_lt hlt]
    omega
  have hmiss2 : FieldSame (MP.MSTAT_MISS m) s1 s2 :=
    .ite (.refl _ _) (((FieldSame.refl _ _).set (MP.MCNT_OVR_CNT m) _ (RF.apart_of_addr_ne rfl rfl hcnt.symm)).setB (MP.MSTAT_OVR_SEEN m) _ rfl)
  have hcount2 : FieldSame (MP.MCNT_MISS_CNT m) s1 s2 :=
    .ite (.refl _ _) (((FieldSame.refl _ _).set (MP.MCNT_OVR_CNT m) _ rfl).setB (MP.MSTAT_OVR_SEEN m) _ (RF.apart_of_addr_ne rfl rfl hcnt))
  exact ⟨hmiss2.flag.trans hmiss1, fun h0 => hcount1 (hcount2.symm.trans h0)⟩

end

/-! ### Close, stop, start and configuration (R312, R332) -/

section
variable (s : State) (m : Nat)

theorem State.windowClose_booked (cyc : Option Rat) (endNs : Int) (len : Rat) : ∃ u : State,
    Booked m (s.sift m len (s.windowSamples m endNs)).2 u ∧
    s.windowClose m cyc endNs len = u.modMeter m (MeterPoint.closeAt endNs len (s.windowSamples m endNs)) := by
  refine ⟨_, ?_, rfl⟩
  exact (Booked.ite ((Booked.refl _ _).recordFlag 30) (.refl _ _)).commitWindow _ _ _ _ _ _

theorem State.meterStop_booked : ∃ u : State, Booked m s u ∧ s.meterStop m = (u.setB (MP.MSTAT_RUN m) false).modMeter m MeterPoint.atStop :=
  have h := (Booked.refl m s).recordFlag 31
  ⟨_, .ite h.closeGap (h.recordFlag 24), rfl⟩

theorem State.meterStart_booked (endNs : Int) :
    Booked m ((s.setB (MP.MSTAT_RUN m) true).modMeter m (MeterPoint.beginAt endNs)) (s.meterStart m endNs) := by
  have h0 := Booked.refl m ((s.setB (MP.MSTAT_RUN m) true).modMeter m (MeterPoint.beginAt endNs))
  have h1 := h0.settleInterval (State.utcOf ((s.setB (MP.MSTAT_RUN m) true).modMeter m (MeterPoint.beginAt endNs)) endNs) true
  exact .ite ((h0.recordFlag 24).recordFlag 31) (((Booked.ite h1.joinPre h1).recordFlag 24).recordFlag 31)

theorem State.meterReload_booked (hm : m < 3) (cfg : MeterCfg) :
    Booked m (s.modMeter m (fun p => { p with cfg := cfg })) (s.meterReload m cfg) := by
  unfold State.meterReload
  split
  next h =>
    refine ⟨fun g _ => FieldSame.refl g s, ?_⟩
    rw [State.meter_modMeter_self _ hm, h]
  · exact (Booked.refl _ _).recordFlag 31

/-- A part of a point that is neither of its accounts nor its configuration outlives a new configuration. -/
theorem State.meterReload_part (hm : m < 3) (cfg : MeterCfg) {α : Sort*} (π : MeterPoint → α) (hπ : ∀ p, π p.unbooked = π p)
    (hcfg : ∀ (p : MeterPoint) c, π { p with cfg := c } = π p) : π ((s.meterReload m cfg).meter m) = π (s.meter m) :=
  ((s.meterReload_booked m hm cfg).part π hπ).trans ((congrArg π (s.meter_modMeter_self hm _)).trans (hcfg _ _))

/-- What a point is, but for its accounts, when its engine has started. -/
theorem State.meterStart_part (hm : m < 3) (endNs : Int) {α : Sort*} (π : MeterPoint → α) (hπ : ∀ p, π p.unbooked = π p) :
    π ((s.meterStart m endNs).meter m) = π ((s.meter m).beginAt endNs) :=
  ((s.meterStart_booked m endNs).part π hπ).trans (congrArg π (State.meter_modMeter_self _ hm _))

end

/-! ### The end of a window in three parts -/

/-- Behind a window an engine that is to stop stops; another one waits for its interval where LT has been stepped. -/
def State.windowStopped (s : State) (m : Nat) : State :=
  if (s.meter m).stopping then s.meterStop m else if s.flag TIME.TSTAT_STEPPED then s.awaitLen m else s

/-- A running engine closes the window. -/
def State.windowLeft (s : State) (m : Nat) (x : MeterDue) : State :=
  ((s.windowClose m x.cyc x.endNs x.len).windowStopped m).modMeter m
    (fun p => { p with lens := p.lens.filter (fun y => decide (x.endNs < y.1)) })

/-- An engine that waits for a window start begins there. -/
def State.windowBegun (s : State) (m : Nat) (endNs : Int) : State :=
  if (s.meter m).starting && decide ((s.meter m).winStart ≤ endNs) then s.meterStart m endNs else s

section
variable (s : State) {m : Nat} (x : MeterDue)

theorem State.windowEnd_running (hrun : s.flag (MP.MSTAT_RUN m) = true) :
    s.windowEnd m x = ((s.windowLeft m x).windowBegun m x.endNs).meterReload m x.cfg :=
  congrArg (fun t : State => (t.windowBegun m x.endNs).meterReload m x.cfg) (if_pos hrun)

theorem State.windowEnd_idle (hrun : s.flag (MP.MSTAT_RUN m) = false) :
    s.windowEnd m x = (s.windowBegun m x.endNs).meterReload m x.cfg :=
  congrArg (fun t : State => (t.windowBegun m x.endNs).meterReload m x.cfg) (if_neg (Bool.eq_false_iff.1 hrun))

theorem State.windowClose_opensAt (hm : m < 3) (hdue : (s.meter m).due = none) :
    ((s.windowClose m x.cyc x.endNs x.len).meter m).opensAt x.endNs := by
  obtain ⟨u, hu, ht⟩ := s.windowClose_booked m x.cyc x.endNs x.len
  have hsift : ((s.sift m x.len (s.windowSamples m x.endNs)).2.meter m).due = none :=
    (congrArg MeterPoint.due (s.sift_point m x.len _)).trans hdue
  rw [ht, State.meter_modMeter_self _ hm]
  exact ⟨hu.due.trans hsift, rfl, MeterPoint.le_of_mem_samplesFrom⟩

theorem State.windowStopped_opensAt (hm : m < 3) {endNs : Int} (h : (s.meter m).opensAt endNs) :
    ((s.windowStopped m).meter m).opensAt endNs := by
  unfold State.windowStopped
  split
  · obtain ⟨v, hv, hstop⟩ := s.meterStop_booked m
    rw [hstop, State.meter_modMeter_self _ hm]
    exact ⟨rfl, (hv.opensAt h).2.1, fun y hy => absurd hy List.not_mem_nil⟩
  · split
    · exact (Booked.refl m s).awaitLen.opensAt h
    · exact h

theorem State.windowLeft_opensAt (hm : m < 3) (hdue : (s.meter m).due = none) : ((s.windowLeft m x).meter m).opensAt x.endNs := by
  rw [State.windowLeft, State.meter_modMeter_self _ hm]
  exact State.windowStopped_opensAt _ hm (s.windowClose_opensAt x hm hdue)

theorem State.windowBegun_of_due (hm : m < 3) {endNs : Int} (hdue : (s.meter m).due = none) : ((s.windowBegun m endNs).meter m).due = none := by
  unfold State.windowBegun
  split
  · exact (s.meterStart_part m hm endNs MeterPoint.due fun _ => rfl).trans ((MeterPoint.takeNext_due _).trans hdue)
  · exact hdue

theorem State.windowBegun_opensAt (hm : m < 3) {endNs : Int} (h : (s.meter m).opensAt endNs) :
    ((s.windowBegun m endNs).meter m).opensAt endNs := by
  unfold State.windowBegun
  split
  · exact (s.meterStart_part m hm endNs (MeterPoint.opensAt endNs) fun _ => rfl).mpr (MeterPoint.beginAt_opensAt endNs h.1)
  · exact h

/-- R312: where a running engine closes a window the next one begins. -/
theorem State.windowEnd_opensAt (hm : m < 3) (hrun : s.flag (MP.MSTAT_RUN m) = true) (hdue : (s.meter m).due = none) :
    ((s.windowEnd m x).meter m).opensAt x.endNs := by
  rw [s.windowEnd_running x hrun]
  exact (State.meterReload_part _ m hm x.cfg (MeterPoint.opensAt x.endNs) (fun _ => rfl) fun _ _ => rfl).mpr
    (State.windowBegun_opensAt _ hm (s.windowLeft_opensAt x hm hdue))

theorem State.windowEnd_due (hm : m < 3) (hdue : (s.meter m).due = none) : ((s.windowEnd m x).meter m).due = none := by
  cases hrun : s.flag (MP.MSTAT_RUN m)
  case true => exact (s.windowEnd_opensAt x hm hrun hdue).1
  case false =>
    rw [s.windowEnd_idle x hrun]
    exact (State.meterReload_part _ m hm x.cfg MeterPoint.due (fun _ => rfl) fun _ _ => rfl).trans (s.windowBegun_of_due hm hdue)

/-- R312, R332: an engine that waits for its first window starts with it. -/
theorem State.windowEnd_starts (m : Fin 3) (hrun : s.flag (MP.MSTAT_RUN m) = false) (hstart : (s.meter m).starting = true)
    (hle : (s.meter m).winStart ≤ x.endNs) : (s.windowEnd m x).flag (MP.MSTAT_RUN m) = true ∧
      ((s.windowEnd m x).meter m).starting = false ∧ ((s.windowEnd m x).meter m).winStart = x.endNs ∧
      ((s.windowEnd m x).meter m).cfg = x.cfg := by
  have hbegun : s.windowBegun m x.endNs = s.meterStart m x.endNs :=
    if_pos (by rw [hstart, decide_eq_true hle, Bool.and_self])
  have hloaded := (s.meterStart m x.endNs).meterReload_booked m m.isLt x.cfg
  have hpart {α : Type} (π : MeterPoint → α) (hπ : ∀ p, π p.unbooked = π p)
      (hcfg : ∀ (p : MeterPoint) c, π { p with cfg := c } = π p) :=
    ((s.meterStart m x.endNs).meterReload_part m m.isLt x.cfg π hπ hcfg).trans (s.meterStart_part m m.isLt x.endNs π hπ)
  rw [s.windowEnd_idle x hrun, hbegun]
  refine ⟨?_, hpart MeterPoint.starting (fun _ => rfl) (fun _ _ => rfl), hpart MeterPoint.winStart (fun _ => rfl) (fun _ _ => rfl), ?_⟩
  · have hspared : Spared m (MP.MSTAT_RUN m) := spared_of_mstat rfl ⟨rfl, rfl, rfl⟩
    exact (hloaded.field _ hspared).flag.trans (((s.meterStart_booked m x.endNs).field _ hspared).flag.trans
      ((State.modMeter_flag _ _ _ _).trans (State.flag_setB_self _ _ _ (of_decide_eq_true rfl) Nat.one_pos)))
  · exact (hloaded.part MeterPoint.cfg fun _ => rfl).trans (congrArg MeterPoint.cfg (State.meter_modMeter_self _ m.isLt _))

/-- What the sifting of a window shows stands at its end. -/
theorem State.windowEnd_field (hm : m < 3) (hrun : s.flag (MP.MSTAT_RUN m) = true) {g : RF} (hg : Spared m g)
    (hr : (MP.MSTAT_RUN m).apart g = true) : FieldSame g (s.sift m x.len (s.windowSamples m x.endNs)).2 (s.windowEnd m x) := by
  have hclose : FieldSame g (s.sift m x.len (s.windowSamples m x.endNs)).2 (s.windowClose m x.cyc x.endNs x.len) := by
    obtain ⟨u, hu, ht⟩ := s.windowClose_booked m x.cyc x.endNs x.len
    rw [ht]
    exact hu.field g hg
  have hstop (t : State) : FieldSame g t (t.meterStop m) := by
    obtain ⟨v, hv, ht⟩ := t.meterStop_booked m
    rw [ht]
    exact (hv.field g hg).setB _ _ hr
  have hleft : FieldSame g (s.windowClose m x.cyc x.endNs x.len) ((s.windowClose m x.cyc x.endNs x.len).windowStopped m) :=
    .ite (hstop _) (.ite ((Booked.refl m _).awaitLen.field g hg) (.refl g _))
  have hbegun (t : State) : FieldSame g t (t.windowBegun m x.endNs) :=
    .ite (((t.meterStart_booked m x.endNs).field g hg).trans ((FieldSame.refl g t).setB _ _ hr)) (.refl g t)
  rw [s.windowEnd_running x hrun]
  exact ((State.meterReload_booked _ m hm x.cfg).field g hg).trans ((hbegun _).trans (hleft.trans hclose))

end

/-! ### Ends that wait, and ends that come (R307, R312) -/

theorem State.windowFlush_of_none {s : State} {m : Nat} (h : (s.meter m).due = none) : s.windowFlush m = s := by
  unfold State.windowFlush
  rw [h]

/-- No end waits behind a flush. -/
theorem State.windowFlush_due (s : State) {m : Nat} (hm : m < 3) : ((s.windowFlush m).meter m).due = none := by
  unfold State.windowFlush
  split
  · refine State.windowEnd_due _ _ hm ?_
    rw [State.meter_modMeter_self _ hm]
  next h => exact h

section
variable {s : State} {m : Nat} {cyc : Option Rat} {endNs : Int} {len : Rat} (hdue : (s.meter m).due = none)
include hdue

theorem State.windowEndAt_waits (hrun : s.flag (MP.MSTAT_RUN m) = true)
    (hlast : (s.meter m).last.any (fun a => decide (a.time < endNs)) = true) :
    s.windowEndAt m cyc endNs len = s.modMeter m (fun p => { p with due := some ⟨cyc, endNs, len, s.meterCfg m⟩ }) := by
  unfold State.windowEndAt
  rw [State.windowFlush_of_none hdue]
  exact if_pos (by rw [hrun, hlast]; rfl)

theorem State.windowEndAt_ends (hlast : (s.meter m).last.any (fun a => decide (a.time < endNs)) = false) :
    s.windowEndAt m cyc endNs len = s.windowEnd m ⟨cyc, endNs, len, s.meterCfg m⟩ := by
  unfold State.windowEndAt
  rw [State.windowFlush_of_none hdue]
  exact if_neg (by rw [hlast, Bool.and_false]; exact Bool.false_ne_true)

theorem State.windowEndAt_idle (hrun : s.flag (MP.MSTAT_RUN m) = false) :
    s.windowEndAt m cyc endNs len = s.windowEnd m ⟨cyc, endNs, len, s.meterCfg m⟩ := by
  unfold State.windowEndAt
  rw [State.windowFlush_of_none hdue]
  exact if_neg (by rw [hrun, Bool.false_and]; exact Bool.false_ne_true)

end

end Sys2Proof.Machine
end

section
/-! SUPPORT and the obligation on metering samples (O26): stamps, sequences and lost cores, missed samples, reads and sums of accumulators. -/

namespace Sys2Proof.Machine

/-! ### What the commands of a point touch -/

theorem State.modMeter_sameBut (s : State) (m : Nat) (f : MeterPoint → MeterPoint) : SameBut [.meters] s (s.modMeter m f) :=
  have : Open (fun p => p ∉ [Part.meters]) .meters := open_of_mem (by decide)
  Keeps.sameBut (State.modMeter_keeps (Keeps.refl _ s) m f)

/-- From `s` to `t` nothing has changed but metering points and the registers `l`. -/
def MeterChanged (l : List Nat) (s t : State) : Prop := SameBut [.regs, .meters] s t ∧ RegsBut l s t

section
variable {l : List Nat} {s t : State}

theorem MeterChanged.refl (l : List Nat) (s : State) : MeterChanged l s s := ⟨⟨rfl, fun p _ => p.same_refl s⟩, fun _ _ => rfl⟩

theorem MeterChanged.modMeter (h : MeterChanged l s t) (m : Nat) (f : MeterPoint → MeterPoint) : MeterChanged l s (t.modMeter m f) :=
  ⟨h.1.trans ((t.modMeter_sameBut m f).mono (by decide)), h.2⟩

theorem MeterChanged.setReg (h : MeterChanged l s t) {a : Nat} (w : Word) (ha : a ∈ l) : MeterChanged l s (t.setReg a w) :=
  ⟨h.1.trans ((t.setReg_sameBut a w).mono (by decide)), h.2.trans (t.setReg_regsBut a w ha)⟩

theorem MeterChanged.setB (h : MeterChanged l s t) (f : RF) (b : Bool) (hf : f.addr ∈ l) : MeterChanged l s (t.setB f b) := h.setReg _ hf

theorem MeterChanged.recordFlag (h : MeterChanged l s t) {m : Nat} (b : Nat) (hm : MP.RSTAT m ∈ l) : MeterChanged l s (t.recordFlag m b) := by
  unfold State.recordFlag
  split
  · exact h.modMeter m _
  · split
    · exact h.setReg _ hm
    · exact h

end

/-! ### Cores whose stamps stayed out (R309) -/

/-- The cores that stay out when the sequences of the cores `ks` have arrived. -/
def coresOut (lost : Nat) (ks : List Nat) : Nat := ks.foldl (fun x k => x &&& (15 ^^^ 2 ^ k)) lost

theorem coresOut_zero (ks : List Nat) : coresOut 0 ks = 0 := by
  unfold coresOut
  induction ks with
  | nil => rfl
  | cons k ks ih => rw [List.foldl_cons, Nat.zero_and, ih]

theorem coresOut_testBit_of_not (ks : List Nat) {lost j : Nat} (h : lost.testBit j = false) : (coresOut lost ks).testBit j = false := by
  unfold coresOut
  induction ks generalizing lost with
  | nil => exact h
  | cons k ks ih => exact ih (by rw [Nat.testBit_and, h, Bool.false_and])

/-- A core whose sequences have arrived is back. -/
theorem coresOut_testBit_of_mem {ks : List Nat} (lost : Nat) {k : Nat} (hk : k ∈ ks) (h4 : k < 4) : (coresOut lost ks).testBit k = false := by
  induction ks generalizing lost with
  | nil => exact absurd hk List.not_mem_nil
  | cons i ks ih =>
    rcases List.mem_cons.1 hk with rfl | hk
    · refine coresOut_testBit_of_not ks ?_
      have hmask : (15 ^^^ 2 ^ k).testBit k = false := by
        rw [Nat.testBit_xor, Nat.testBit_two_pow_self, show (15 : Nat) = 2 ^ 4 - 1 from rfl, Nat.testBit_two_pow_sub_one, decide_eq_true h4]
        rfl
      rw [Nat.testBit_and, hmask, Bool.and_false]
    · exact ih _ hk

/-! ### Sequences and stamps (R305, R307, R310) -/

/-- The sequences that have arrived, as a point holds them. -/
def heldSeqs (arrived : List SampleSeq) : List MeterSeq := arrived.map (fun q => ⟨q.core, q.ttime.toNat, q.words⟩)

/-- The cores whose sequences have come with a stamp. -/
def arrivedCores (lead : Nat) (arrived : List SampleSeq) : List Nat := lead :: (heldSeqs arrived).map (fun q => q.core)

section
variable (s : State) {m : Nat} (lead : Nat) (arrived : List SampleSeq) (time : Int)

/-- The point behind the sequences: they are held, and their cores are back. -/
theorem State.takeSeqs_point (hm : m < 3) : ∃ gaps, (s.takeSeqs m lead (heldSeqs arrived) time).meter m = { s.meter m with
    seqs := (s.meter m).seqs ++ heldSeqs arrived, lost := coresOut (s.meter m).lost (arrivedCores lead arrived), gaps := gaps } :=
  ⟨_, State.meter_modMeter_self s hm _⟩

theorem State.takeSeqs_srcLost : (s.takeSeqs m lead (heldSeqs arrived) time).flag (MP.MSTAT_SRC_LOST m) =
    decide (coresOut (s.meter m).lost (arrivedCores lead arrived) ≠ 0) :=
  State.flag_setB_self _ _ _ (of_decide_eq_true rfl) Nat.one_pos

theorem State.leadStamp_point (hm : m < 3) (st : MeterStamp) : ∃ x samples, (s.leadStamp m st).meter m = { s.meter m with
    samples := samples, last := if (s.meter m).lost = 0 then some x else none } := by
  unfold State.leadStamp
  rw [State.meter_modMeter_self _ hm]
  exact ⟨_, _, rfl⟩

theorem State.leadStamp_first (hm : m < 3) {st : MeterStamp} (hlast : (s.meter m).last = none) (hlost : (s.meter m).lost = 0) :
    (s.leadStamp m st).meter m = { s.meter m with last := some st } := by
  unfold State.leadStamp
  rw [State.meter_modMeter_self _ hm, hlast]
  dsimp only
  rw [if_pos hlost]

theorem State.leadStamp_next (hm : m < 3) {st a : MeterStamp} (hlast : (s.meter m).last = some a) (hlost : (s.meter m).lost = 0) :
    (s.leadStamp m st).meter m = { s.meter m with
      samples := (s.meter m).samples ++ [({ a with interval := (ticksFrom a.ttime st.ttime).toNat }, stampWeight a st)]
      last := some { st with pos := a.pos + stampWeight a st } } := by
  unfold State.leadStamp
  rw [State.meter_modMeter_self _ hm, hlast]
  dsimp only
  rw [if_pos hlost]

end

/-- The stamp that METER_SAMPLE brings: N places it 30 ns before its arrival (R310). -/
def State.stampNow (s : State) (ttime : BitVec 48) (hop : BitVec 16) : MeterStamp :=
  ⟨ttime.toNat, hop.toNat, (s.ltNs : Int) - 30, ((s.ltNs : Int) - 30 : Int), 0⟩

/-- The point with the sequences and the stamp of METER_SAMPLE. -/
def State.sampled (s : State) (m : Nat) (ttime : BitVec 48) (hop : BitVec 16) (arrived : List SampleSeq) : State :=
  (s.takeSeqs m ((s.meter m).core 3) (heldSeqs arrived) ((s.ltNs : Int) - 30)).leadStamp m (s.stampNow ttime hop)

section
variable (m : Fin 3) (ttime : BitVec 48) (hop : BitVec 16) (arrived : List SampleSeq) (s : State)

theorem execMeterSample_eq (hrun : (s.flag (MP.MSTAT_RUN m) || (s.meter m).starting) = true) (hr : s.mainRuns = true) :
    exec (.meterSample m ttime hop arrived) s = .next ((s.sampled m ttime hop arrived).windowFlush m) := by
  refine (whileRuns_running _ hr).trans ?_
  rw [if_neg (by rw [← Bool.not_or, hrun]; decide)]
  rfl

theorem State.sampled_changes : MeterChanged [MP.MSTAT m] s (s.sampled m ttime hop arrived) :=
  (((MeterChanged.refl _ s).modMeter m _).setB (MP.MSTAT_SRC_LOST m) _ (List.mem_singleton.2 rfl)).modMeter m _

theorem State.sampled_due : ((s.sampled m ttime hop arrived).meter m).due = (s.meter m).due := by
  obtain ⟨gaps, hseqs⟩ := s.takeSeqs_point ((s.meter m).core 3) arrived ((s.ltNs : Int) - 30) m.isLt
  obtain ⟨x, samples, hstamp⟩ :=
    State.leadStamp_point (s.takeSeqs m ((s.meter m).core 3) (heldSeqs arrived) ((s.ltNs : Int) - 30)) m.isLt (s.stampNow ttime hop)
  rw [State.sampled, hstamp, hseqs]

/-- While no end waits METER_SAMPLE is the sequences and the stamp. -/
theorem execMeterSample_of_none (hrun : (s.flag (MP.MSTAT_RUN m) || (s.meter m).starting) = true) (hdue : (s.meter m).due = none)
    (hr : s.mainRuns = true) : exec (.meterSample m ttime hop arrived) s = .next (s.sampled m ttime hop arrived) := by
  rw [execMeterSample_eq m ttime hop arrived s hrun hr, State.windowFlush_of_none ((s.sampled_due m ttime hop arrived).trans hdue)]

theorem State.sampled_srcLost : (s.sampled m ttime hop arrived).flag (MP.MSTAT_SRC_LOST m) =
    decide (coresOut (s.meter m).lost (arrivedCores ((s.meter m).core 3) arrived) ≠ 0) :=
  s.takeSeqs_srcLost _ arrived _

theorem meterSample_first (hrun : (s.flag (MP.MSTAT_RUN m) || (s.meter m).starting) = true) (hdue : (s.meter m).due = none)
    (hlost : (s.meter m).lost = 0) (hlast : (s.meter m).last = none) (hr : s.mainRuns = true) :
    Completes (exec (.meterSample m ttime hop arrived) s) (fun t => (t.meter m).last = some ⟨ttime.toNat, hop.toNat, s.ltNs - 30,
      ((s.ltNs : Int) - 30 : Int), 0⟩ ∧ (t.meter m).samples = (s.meter m).samples ∧ t.flag (MP.MSTAT_SRC_LOST m) = false ∧
      (t.meter m).seqs = (s.meter m).seqs ++ arrived.map (fun q => ⟨q.core, q.ttime.toNat, q.words⟩) ∧ SameBut [.regs, .meters] s t ∧
      RegsBut [MP.MSTAT m] s t) := by
  obtain ⟨gaps, hseqs⟩ := s.takeSeqs_point ((s.meter m).core 3) arrived ((s.ltNs : Int) - 30) m.isLt
  have hout : coresOut (s.meter m).lost (arrivedCores ((s.meter m).core 3) arrived) = 0 := by rw [hlost, coresOut_zero]
  rw [hout] at hseqs
  have hpoint := State.leadStamp_first (s.takeSeqs m ((s.meter m).core 3) (heldSeqs arrived) ((s.ltNs : Int) - 30)) m.isLt
    (st := s.stampNow ttime hop) (by rw [hseqs]; exact hlast) (by rw [hseqs])
  rw [hseqs] at hpoint
  refine ⟨_, execMeterSample_of_none m ttime hop arrived s hrun hdue hr, congrArg MeterPoint.last hpoint, (congrArg MeterPoint.samples hpoint :),
    ?_, congrArg MeterPoint.seqs hpoint, s.sampled_changes m ttime hop arrived⟩
  rw [s.sampled_srcLost, hout]
  rfl

theorem meterSample_weighs (a : MeterStamp) (hrun : (s.flag (MP.MSTAT_RUN m) || (s.meter m).starting) = true)
    (hdue : (s.meter m).due = none) (hlost : (s.meter m).lost = 0) (hlast : (s.meter m).last = some a) (hr : s.mainRuns = true) :
    Completes (exec (.meterSample m ttime hop arrived) s) (fun t => (t.meter m).samples = (s.meter m).samples ++
      [({ a with interval := (ticksFrom a.ttime ttime.toNat).toNat }, (ticksFrom a.ttime ttime.toNat : Rat) * (5 / 2) * a.hop / 32768)] ∧
      (t.meter m).seqs = (s.meter m).seqs ++ arrived.map (fun q => ⟨q.core, q.ttime.toNat, q.words⟩) ∧ (t.meter m).last = some ⟨ttime.toNat,
      hop.toNat, s.ltNs - 30, a.pos + (ticksFrom a.ttime ttime.toNat : Rat) * (5 / 2) * a.hop / 32768, 0⟩ ∧ SameBut [.regs, .meters] s t ∧
      RegsBut [MP.MSTAT m] s t) := by
  obtain ⟨gaps, hseqs⟩ := s.takeSeqs_point ((s.meter m).core 3) arrived ((s.ltNs : Int) - 30) m.isLt
  rw [hlost, coresOut_zero] at hseqs
  have hpoint := State.leadStamp_next (s.takeSeqs m ((s.meter m).core 3) (heldSeqs arrived) ((s.ltNs : Int) - 30)) m.isLt
    (st := s.stampNow ttime hop) (by rw [hseqs]; exact hlast) (by rw [hseqs])
  rw [hseqs] at hpoint
  exact ⟨_, execMeterSample_of_none m ttime hop arrived s hrun hdue hr, (congrArg MeterPoint.samples hpoint :), congrArg MeterPoint.seqs hpoint,
    congrArg MeterPoint.last hpoint, s.sampled_changes m ttime hop arrived⟩

theorem meterSample_returns (hrun : (s.flag (MP.MSTAT_RUN m) || (s.meter m).starting) = true) (hdue : (s.meter m).due = none)
    (hr : s.mainRuns = true) :
    Completes (exec (.meterSample m ttime hop arrived) s) (fun t => Nat.testBit (t.meter m).lost ((s.meter m).core 3) = false ∧ (∀ q ∈ arrived,
      Nat.testBit (t.meter m).lost q.core = false) ∧ t.flag (MP.MSTAT_SRC_LOST m) = decide ((t.meter m).lost ≠ 0) ∧ ((t.meter m).lost ≠ 0 →
      (t.meter m).last = none) ∧ SameBut [.regs, .meters] s t ∧ RegsBut [MP.MSTAT m] s t) := by
  obtain ⟨gaps, hseqs⟩ := s.takeSeqs_point ((s.meter m).core 3) arrived ((s.ltNs : Int) - 30) m.isLt
  obtain ⟨x, samples, hpoint⟩ :=
    State.leadStamp_point (s.takeSeqs m ((s.meter m).core 3) (heldSeqs arrived) ((s.ltNs : Int) - 30)) m.isLt (s.stampNow ttime hop)
  rw [hseqs] at hpoint
  have hlost : ((s.sampled m ttime hop arrived).meter m).lost = coresOut (s.meter m).lost (arrivedCores ((s.meter m).core 3) arrived) :=
    congrArg MeterPoint.lost hpoint
  refine ⟨_, execMeterSample_of_none m ttime hop arrived s hrun hdue hr, ?_, fun q hq => ?_, ?_, fun hne => ?_,
    s.sampled_changes m ttime hop arrived⟩
  · rw [hlost]
    exact coresOut_testBit_of_mem _ List.mem_cons_self (getBits_lt _ 0 2)
  · rw [hlost]
    exact coresOut_testBit_of_mem _ (List.mem_cons_of_mem _ (List.mem_map_of_mem (List.mem_map_of_mem hq))) q.core.isLt
  · rw [hlost, s.sampled_srcLost]
  · rw [hlost] at hne
    exact (congrArg MeterPoint.last hpoint).trans (if_neg hne)

end

/-! ### Missed samples and lost sources (R308, R309) -/

section
variable (m : Fin 3) (s : State)

theorem meterAc_eq_true_iff : meterAc m = true ↔ m = 0 := decide_eq_true_iff.trans Fin.val_eq_zero_iff

theorem execMeterWindowEnd_eq {e : Int} (hvoid : m = 0 → s.flag (MP.MSTAT_FUND_VOID 0) = true) (he : s.windowDue m = some e)
    (hr : s.mainRuns = true) : exec (.meterWindowEnd m) s =
      .next (s.windowEndAt m none e ((if s.flag (MP.MSTAT_RUN m) then e - (s.meter m).started else windowNs : Int) : Rat)) := by
  have hends : (meterAc m && !s.flag (MP.MSTAT_FUND_VOID 0)) = false := by
    cases hac : meterAc m
    case false => rfl
    case true => rw [hvoid ((meterAc_eq_true_iff m).1 hac)]; rfl
  refine (whileRuns_running _ hr).trans ?_
  rw [hends, he]
  rfl

theorem MeterPoint.started_of_none {p : MeterPoint} (h : p.due = none) : p.started = p.winStart := by
  unfold MeterPoint.started
  rw [h]

/-- The length of a window of a running engine. -/
theorem State.windowLen_running {e : Int} (hrun : s.flag (MP.MSTAT_RUN m) = true) (hdue : (s.meter m).due = none) :
    (if s.flag (MP.MSTAT_RUN m) then e - (s.meter m).started else windowNs) = e - (s.meter m).winStart := by
  rw [if_pos hrun, MeterPoint.started_of_none hdue]

theorem meterWindowEnd_misses (e : Int) (hrun : s.flag (MP.MSTAT_RUN m) = true) (hdue : (s.meter m).due = none)
    (hvoid : m = 0 → s.flag (MP.MSTAT_FUND_VOID 0) = true) (he : s.windowDue m = some e)
    (hlast : ((s.meter m).last.any (fun a => decide (a.time < e)) = false))
    (hmiss : ((s.meter m).samples.filter (fun x => decide (x.1.time < e))).any
      (fun x => !(s.meter m).contributes m (e - (s.meter m).winStart : Int) x.1) = true) (hr : s.mainRuns = true) :
    Completes (exec (.meterWindowEnd m) s) (fun t => t.flag (MP.MSTAT_MISS m) = true ∧ t.get (MP.MCNT_MISS_CNT m) ≠ 0) := by
  obtain ⟨hflag, hcount⟩ := s.sift_misses m (e - (s.meter m).winStart : Int) (s.windowSamples m e) hmiss
  refine ⟨_, execMeterWindowEnd_eq m s hvoid he hr, ?_⟩
  rw [s.windowLen_running m hrun hdue, State.windowEndAt_ends hdue hlast]
  have hcnt := s.windowEnd_field ⟨none, e, (e - (s.meter m).winStart : Int), s.meterCfg m⟩ m.isLt hrun (spared_missCnt m)
    (RF.apart_of_addr_ne rfl rfl (mcnt_ne_mstat m))
  exact ⟨(s.windowEnd_field _ m.isLt hrun (spared_of_mstat rfl ⟨rfl, rfl, rfl⟩) rfl).flag.trans hflag, fun h => hcount (hcnt.symm.trans h)⟩

theorem meterSrcLost_loses (k : Fin 4) (hrun : s.flag (MP.MSTAT_RUN m) = true) (hdue : (s.meter m).due = none) (hr : s.mainRuns = true) :
    Completes (exec (.meterSrcLost m k) s) (fun t => t.flag (MP.MSTAT_SRC_LOST m) = true ∧ (t.meter m).last = none ∧
      Nat.testBit (t.meter m).lost k = true ∧ SameBut [.regs, .meters] s t ∧ RegsBut [MP.MSTAT m, MP.RSTAT m] s t) := by
  refine completes_whileRuns hr (completes_next ?_)
  rw [hrun, if_neg (by decide)]
  extract_lets p end_ keep lost from_
  have hflagged := (Booked.refl m (s.setB (MP.MSTAT_SRC_LOST m) true)).recordFlag 29
  have hflag : ((s.setB (MP.MSTAT_SRC_LOST m) true).recordFlag m 29).flag (MP.MSTAT_SRC_LOST m) = true :=
    (hflagged.field _ (spared_of_mstat rfl ⟨rfl, rfl, rfl⟩)).flag.trans (State.flag_setB_self _ _ _ (of_decide_eq_true rfl) Nat.one_pos)
  rw [State.windowFlush_of_none (by rw [State.meter_modMeter_self _ m.isLt]; exact hflagged.due.trans hdue), State.meter_modMeter_self _ m.isLt,
    State.modMeter_flag]
  refine ⟨hflag, rfl, ?_, ((((MeterChanged.refl _ s).setB (MP.MSTAT_SRC_LOST m) true List.mem_cons_self).recordFlag 29
    (List.mem_cons_of_mem _ List.mem_cons_self)).modMeter m _)⟩
  change Nat.testBit (_ ||| 2 ^ (k : Nat)) k = true
  rw [Nat.testBit_or, Nat.testBit_two_pow_self, Bool.or_true]

end

/-! ### Accumulators (R322, R324) -/

theorem accLoRead_captures (m : Fin 3) (a : Fin 13) (s : State) (hr : s.mainRuns = true) :
    Completes (exec (.accLoRead m a) s) (fun t => vget (t.meter m).hold a = some (s.reg (MP.ACC_HI m a)) ∧ t.out = ⟨.readReturn, Die.n.code,
      [MP.ACC_LO m a, (s.reg (MP.ACC_LO m a)).toNat]⟩ :: s.out ∧ SameBut [.meters, .out] s t) := by
  have hpoint : (s.captureAcc m a).meter m = { s.meter m with hold := vset (s.meter m).hold a (some (s.reg (MP.ACC_HI m a))) } :=
    State.meter_modMeter_self s m.isLt _
  refine completes_whileRuns hr (completes_next ⟨?_, rfl, ?_⟩)
  · refine (congrArg (fun p : MeterPoint => vget p.hold a) hpoint).trans ?_
    exact vget_vset_self _ _ _ a.isLt
  · have : Open (fun p => p ∉ [Part.meters, .out]) .meters := open_of_mem (by decide)
    have : Open (fun p => p ∉ [Part.meters, .out]) .out := open_of_mem (by decide)
    exact Keeps.sameBut (State.send_keeps (State.captureAcc_keeps (Keeps.refl _ s) m a) _)

theorem ratFloor_eq_floor (x : Rat) : ratFloor x = ⌊x⌋ := (Rat.floor_def x).symm

/-- The two words of an accumulator after an amount below its range. -/
theorem State.acc_stored (s : State) (m a v : Nat) (hv : v < 2 ^ 64) :
    ((s.set (MP.ACC_LO_VAL m a) v).set (MP.ACC_HI_VAL m a) (v / 2 ^ 32)).acc m a = v := by
  have hne : (MP.ACC_LO_VAL m a).addr ≠ (MP.ACC_HI_VAL m a).addr := by
    simp only [MP.ACC_LO_VAL, MP.ACC_HI_VAL, MP.ACC_LO, MP.ACC_HI]
    omega
  unfold State.acc
  rw [State.get_set_ne _ _ _ _ hne, State.get_set_self _ _ _ (of_decide_eq_true rfl), State.get_set_self _ _ _ (of_decide_eq_true rfl)]
  change v % 2 ^ 32 + 2 ^ 32 * (v / 2 ^ 32 % 2 ^ 32) = v
  omega

/-- R322: an amount goes to the accumulator in whole units, and what is below one stays as residue. -/
theorem accAdd_conserves (m : Fin 3) (a : Fin 13) (x : Rat) (s : State) (hlen : (s.meter m).acc.res.length = 13)
    (hpos : 0 ≤ nthRat (s.meter m).acc.res a + x)
    (hfit : s.acc m a + (ratFloor (nthRat (s.meter m).acc.res a + x)).toNat < 2 ^ 64) :
    ((s.accAdd m a x).acc m a : Rat) + nthRat ((s.accAdd m a x).meter m).acc.res a = (s.acc m a : Rat) + nthRat (s.meter m).acc.res a + x ∧
    0 ≤ nthRat ((s.accAdd m a x).meter m).acc.res a ∧ nthRat ((s.accAdd m a x).meter m).acc.res a < 1 := by
  have hacc : (s.accAdd m a x).acc m a = s.acc m a + (ratFloor (nthRat (s.meter m).acc.res a + x)).toNat := by
    unfold State.accAdd
    dsimp only
    rw [Nat.mod_eq_of_lt hfit]
    exact State.acc_stored s m a _ hfit
  have hres : nthRat ((s.accAdd m a x).meter m).acc.res a = Int.fract (nthRat (s.meter m).acc.res a + x) := by
    have hpoint : ((s.accAdd m a x).meter m).acc.res = (s.meter m).acc.res.set a
        (nthRat (s.meter m).acc.res a + x - ratFloor (nthRat (s.meter m).acc.res a + x)) :=
      congrArg (fun p : MeterPoint => p.acc.res) (State.meter_modMeter_self _ m.isLt _)
    rw [hpoint, nthRat, List.getD_eq_getElem?_getD, List.getElem?_set_self (by omega), ratFloor_eq_floor]
    rfl
  rw [hacc, hres, add_assoc]
  generalize nthRat (s.meter m).acc.res a + x = t at hpos
  have hfloor : ((ratFloor t).toNat : Rat) = ⌊t⌋ := by
    rw [ratFloor_eq_floor]
    exact_mod_cast Int.toNat_of_nonneg (Int.floor_nonneg.2 hpos)
  refine ⟨?_, Int.fract_nonneg t, Int.fract_lt_one t⟩
  rw [Nat.cast_add, hfloor, add_assoc, Int.floor_add_fract]

/-- Settles O26: one lemma for each command and outcome. -/
theorem meteringSamples : Obligations.MeteringSamples :=
  ⟨meterSample_first, fun m ttime hop arrived a s => meterSample_weighs m ttime hop arrived s a, meterSample_returns,
    fun m e s => meterWindowEnd_misses m s e, fun m k s => meterSrcLost_loses m s k, accLoRead_captures, accAdd_conserves⟩

end Sys2Proof.Machine
end

section
/-! SUPPORT and the obligation on metering windows (O27): the ends of windows, EN of a point and its commit. -/

namespace Sys2Proof.Machine

/-! ### Where a window ends (R312, R313) -/

section
variable {m : Nat} {s : State} (hdue : (s.meter m).due = none)
include hdue

/-- The next multiple of 20 ms, where LT has not been stepped in a running AC point. -/
theorem State.windowDue_multiple (hkind : (s.flag (MP.MSTAT_RUN m) && meterAc m && s.flag TIME.TSTAT_STEPPED) = false)
    (hle : ((s.meter m).winStart / 20000000 + 1) * 20000000 ≤ (s.ltNs : Int)) :
    s.windowDue m = some (((s.meter m).winStart / 20000000 + 1) * 20000000) := by
  unfold State.windowDue
  rw [hkind, MeterPoint.started_of_none hdue]
  exact if_pos hle

/-- 20 ms after the start, where it has. -/
theorem State.windowDue_stepped (hkind : (s.flag (MP.MSTAT_RUN m) && meterAc m && s.flag TIME.TSTAT_STEPPED) = true)
    (hle : (s.meter m).winStart + 20000000 ≤ (s.ltNs : Int)) : s.windowDue m = some ((s.meter m).winStart + 20000000) := by
  unfold State.windowDue
  rw [hkind, MeterPoint.started_of_none hdue]
  exact if_pos hle

end

/-- A DC point has no stepped windows. -/
theorem State.dcWindow (s : State) {m : Fin 3} (h0 : m ≠ 0) : (s.flag (MP.MSTAT_RUN m) && meterAc m && s.flag TIME.TSTAT_STEPPED) = false := by
  rw [Bool.eq_false_iff.2 (mt (meterAc_eq_true_iff m).1 h0), Bool.and_false, Bool.false_and]

section
variable (m : Fin 3) (s : State)

theorem meterWindowEnd_waits (hrun : s.flag (MP.MSTAT_RUN m) = true) (hdue : (s.meter m).due = none) (h0 : m ≠ 0)
    (hle : ((s.meter m).winStart / 20000000 + 1) * 20000000 ≤ (s.ltNs : Int))
    (hlast : ((s.meter m).last.any (fun a => decide (a.time < ((s.meter m).winStart / 20000000 + 1) * 20000000)) = true))
    (hr : s.mainRuns = true) :
    Completes (exec (.meterWindowEnd m) s) (fun t => (t.meter m).winStart = (s.meter m).winStart ∧ (t.meter m).due = some ⟨none,
      ((s.meter m).winStart / 20000000 + 1) * 20000000, (((s.meter m).winStart / 20000000 + 1) * 20000000 - (s.meter m).winStart : Int),
      s.meterCfg m⟩ ∧ SameBut [.meters] s t) := by
  refine ⟨_, execMeterWindowEnd_eq m s (fun h => absurd h h0) (State.windowDue_multiple hdue (s.dcWindow h0) hle) hr, ?_⟩
  dsimp only
  rw [s.windowLen_running m hrun hdue, State.windowEndAt_waits hdue hrun hlast, State.meter_modMeter_self _ m.isLt]
  exact ⟨rfl, rfl, s.modMeter_sameBut m _⟩

theorem meterSample_flushes (ttime : BitVec 48) (hop : BitVec 16) (arrived : List SampleSeq)
    (hrun : (s.flag (MP.MSTAT_RUN m) || (s.meter m).starting) = true) (hr : s.mainRuns = true) :
    Completes (exec (.meterSample m ttime hop arrived) s) (fun t => (t.meter m).due = none) :=
  ⟨_, execMeterSample_eq m ttime hop arrived s hrun hr, State.windowFlush_due _ m.isLt⟩

theorem meterWindowEnd_ends (hrun : s.flag (MP.MSTAT_RUN m) = true) (hdue : (s.meter m).due = none) (h0 : m ≠ 0)
    (hle : ((s.meter m).winStart / 20000000 + 1) * 20000000 ≤ (s.ltNs : Int))
    (hlast : ((s.meter m).last.any (fun a => decide (a.time < ((s.meter m).winStart / 20000000 + 1) * 20000000)) = false))
    (hr : s.mainRuns = true) :
    Completes (exec (.meterWindowEnd m) s) (fun t => (t.meter m).winStart = ((s.meter m).winStart / 20000000 + 1) * 20000000 ∧
      ∀ x ∈ (t.meter m).samples, ((s.meter m).winStart / 20000000 + 1) * 20000000 ≤ x.1.time) := by
  refine ⟨_, execMeterWindowEnd_eq m s (fun h => absurd h h0) (State.windowDue_multiple hdue (s.dcWindow h0) hle) hr, ?_⟩
  rw [State.windowEndAt_ends hdue hlast]
  exact (s.windowEnd_opensAt _ m.isLt hrun hdue).2

/-- FUND_VOID outlives the end of a window. -/
theorem State.windowEnd_fundVoid (x : MeterDue) (hrun : s.flag (MP.MSTAT_RUN m) = true) :
    (s.windowEnd m x).flag (MP.MSTAT_FUND_VOID m) = s.flag (MP.MSTAT_FUND_VOID m) :=
  (s.windowEnd_field x m.isLt hrun (spared_of_mstat rfl ⟨rfl, rfl, rfl⟩) rfl).flag.trans (s.sift_fundVoid m _ _).flag

theorem meterWindowEnd_voidEnds (hrun : s.flag (MP.MSTAT_RUN 0) = true) (hdue : (s.meter 0).due = none)
    (hlast : ((s.meter 0).last.any (fun a => decide (a.time < (s.meter 0).winStart + 20000000)) = false))
    (hvoid : s.flag (MP.MSTAT_FUND_VOID 0) = true) (hstep : s.flag TIME.TSTAT_STEPPED = true)
    (hle : (s.meter 0).winStart + 20000000 ≤ (s.ltNs : Int)) (hr : s.mainRuns = true) :
    Completes (exec (.meterWindowEnd 0) s) (fun t => (t.meter 0).winStart = (s.meter 0).winStart + 20000000 ∧ ∀ x ∈ (t.meter 0).samples,
      (s.meter 0).winStart + 20000000 ≤ x.1.time ∧ t.flag (MP.MSTAT_FUND_VOID 0) = true) := by
  have he := State.windowDue_stepped hdue (by rw [hrun, hstep]; rfl) hle
  obtain ⟨len, hexec⟩ : ∃ len, exec (.meterWindowEnd 0) s = .next (s.windowEndAt 0 none ((s.meter 0).winStart + 20000000) len) :=
    ⟨_, execMeterWindowEnd_eq 0 s (fun _ => hvoid) he hr⟩
  rw [State.windowEndAt_ends hdue hlast] at hexec
  refine ⟨_, hexec, ?_⟩
  obtain ⟨_, hstart, hsamples⟩ :=
    s.windowEnd_opensAt ⟨none, (s.meter 0).winStart + 20000000, len, s.meterCfg 0⟩ (m := 0) (by decide) hrun hdue
  exact ⟨hstart, fun x hx => ⟨hsamples x hx, (s.windowEnd_fundVoid 0 _ hrun).trans hvoid⟩⟩

theorem meterWindowEnd_starts (hrun : s.flag (MP.MSTAT_RUN m) = false) (hdue : (s.meter m).due = none) (hstart : (s.meter m).starting = true)
    (hle : ((s.meter m).winStart / 20000000 + 1) * 20000000 ≤ (s.ltNs : Int)) (hvoid : m = 0 → s.flag (MP.MSTAT_FUND_VOID 0) = true)
    (hr : s.mainRuns = true) :
    Completes (exec (.meterWindowEnd m) s) (fun t => t.flag (MP.MSTAT_RUN m) = true ∧ (t.meter m).starting = false ∧
      (t.meter m).winStart = ((s.meter m).winStart / 20000000 + 1) * 20000000 ∧ (t.meter m).cfg = s.meterCfg m) := by
  have he := State.windowDue_multiple hdue (by rw [hrun, Bool.false_and, Bool.false_and]) hle
  refine ⟨_, execMeterWindowEnd_eq m s hvoid he hr, ?_⟩
  rw [State.windowEndAt_idle hdue hrun]
  refine s.windowEnd_starts _ m hrun hstart ?_
  change (s.meter m).winStart ≤ ((s.meter m).winStart / 20000000 + 1) * 20000000
  omega

/-! ### Grid cycles (R311, R312) -/

theorem execMeterCycleFlit_eq (zero : BitVec 56) (hr : s.mainRuns = true) : ∃ cyc len, exec (.meterCycleFlit zero) s =
    .next (((s.windowEndAt 0 cyc (s.zeroPlace (zero.toNat / 256)).2 len).setB (MP.MSTAT_FUND_VOID 0) false).modMeter 0
      (fun p => { p with cyc := some (s.zeroPlace (zero.toNat / 256)).1 })) :=
  ⟨_, _, whileRuns_running _ hr⟩

theorem meterCycleFlit_ends (zero : BitVec 56) (hrun : s.flag (MP.MSTAT_RUN 0) = true) (hdue : (s.meter 0).due = none)
    (hlast : ((s.meter 0).last.any (fun a => decide (a.time < (s.zeroPlace (zero.toNat / 256)).2)) = false)) (hr : s.mainRuns = true) :
    Completes (exec (.meterCycleFlit zero) s) (fun t => (t.meter 0).winStart = (s.zeroPlace (zero.toNat / 256)).2 ∧ (∀ x ∈ (t.meter 0).samples,
      (s.zeroPlace (zero.toNat / 256)).2 ≤ x.1.time) ∧ (t.meter 0).cyc = some (s.zeroPlace (zero.toNat / 256)).1 ∧
      t.flag (MP.MSTAT_FUND_VOID 0) = false) := by
  obtain ⟨cyc, len, he⟩ := execMeterCycleFlit_eq s zero hr
  obtain ⟨_, hstart, hsamples⟩ :=
    s.windowEnd_opensAt ⟨cyc, (s.zeroPlace (zero.toNat / 256)).2, len, s.meterCfg 0⟩ (m := 0) (by decide) hrun hdue
  refine ⟨_, he, ?_⟩
  dsimp only
  rw [State.windowEndAt_ends hdue hlast, State.meter_modMeter_self _ (by decide), State.modMeter_flag]
  exact ⟨hstart, hsamples, rfl, State.flag_setB_self _ _ _ (of_decide_eq_true rfl) Nat.one_pos⟩

theorem fundVoidTimeout_voids (hrun : (s.flag (MP.MSTAT_RUN 0) || (s.meter 0).starting) = true) (hr : s.mainRuns = true) :
    Completes (exec .fundVoidTimeout s) (fun t => t.flag (MP.MSTAT_FUND_VOID 0) = true ∧ (t.meter 0).cyc = none ∧ SameBut [.regs, .meters] s t ∧
      RegsBut [MP.MSTAT 0, MP.RSTAT 0] s t) := by
  have hflagged := (Booked.refl 0 (s.setB (MP.MSTAT_FUND_VOID 0) true)).recordFlag 30
  refine completes_whileRuns hr (completes_next ?_)
  rw [if_pos hrun, State.meter_modMeter_self _ (by decide), State.modMeter_flag]
  exact ⟨(hflagged.field _ (spared_of_mstat (m := 0) rfl ⟨rfl, rfl, rfl⟩)).flag.trans
      (State.flag_setB_self _ _ _ (of_decide_eq_true rfl) Nat.one_pos), rfl,
    ((((MeterChanged.refl _ s).setB (MP.MSTAT_FUND_VOID 0) true List.mem_cons_self).recordFlag 30
      (List.mem_cons_of_mem _ List.mem_cons_self)).modMeter 0 _)⟩

/-! ### EN written (R303, R332) -/

/-- MCFG with EN as written and the TYPE that the point has. -/
def State.withMeterEn (s : State) (m : Nat) (en : Bool) : State :=
  s.setReg (MP.MCFG m) (putBits (putBits (s.reg (MP.MCFG m)) 0 1 (if en then 1 else 0)) 1 1 (if meterAc m then 0 else 1))

theorem State.withMeterEn_flag (m : Nat) (en : Bool) : (s.withMeterEn m en).flag (MP.MCFG_EN m) = en := by
  have hget : (s.withMeterEn m en).get (MP.MCFG_EN m) = if en then 1 else 0 := by
    refine (State.get_setReg_self s (MP.MCFG_EN m) _).trans ?_
    change getBits (putBits (putBits _ 0 1 _) 1 1 _) 0 1 = _
    rw [getBits_putBits_disjoint _ 1 1 _ 0 1 (by decide) (by decide) (.inl (by decide)), getBits_putBits_self _ 0 1 _ (by decide)]
    cases en <;> rfl
  unfold State.flag
  rw [hget]
  cases en <;> rfl

/-- The other fields of MCFG stay. -/
theorem State.withMeterEn_get (m : Nat) (en : Bool) {g : RF} (ha : g.addr = MP.MCFG m) (hlo : 2 ≤ g.lo) (hf : g.lo + g.w ≤ 32) :
    (s.withMeterEn m en).get g = s.get g := by
  unfold State.get State.withMeterEn
  rw [ha, State.reg_setReg_self, getBits_putBits_disjoint _ 1 1 _ _ _ (by decide) hf (.inr hlo),
    getBits_putBits_disjoint _ 0 1 _ _ _ (by decide) hf (.inr (Nat.le_of_succ_le hlo))]

/-- R303: a channel of the point whose core does not forward, or whose entry lies beyond the sequence of its core. -/
def State.meterRefused (s : State) (m : Nat) : Bool :=
  (meterChannels m).any (fun c => !s.flag (ADC.ACFG_FWD_N (s.get (MP.MCFG_DIE m)) (s.get (MP.CHSEL_CORE m c))) ||
    decide (s.get (ADC.SEQCFG_REG_LEN (s.get (MP.MCFG_DIE m)) (s.get (MP.CHSEL_CORE m c))) ≤ s.get (MP.CHSEL_ENTRY m c)))

/-- What an enable latches: DIE, VTYPE and the channel words. -/
def State.meterLatch (s : State) (m : Nat) : Nat × Bool × List Word :=
  (s.get (MP.MCFG_DIE m), (meterAc m && s.flag (MP.MCFG_VTYPE m)), (List.range 6).map (fun c => s.reg (MP.CHSEL m c)))

/-- A point that is enabled: while its engine runs, for the time behind its stop. -/
def State.enabledPoint (s : State) (m : Nat) (p : MeterPoint) : MeterPoint :=
  if s.flag (MP.MSTAT_RUN m) then { p with starting := true, next := some (s.meterLatch m) }
  else { p with starting := true, die := (s.meterLatch m).1, ll := (s.meterLatch m).2.1, csrc := (s.meterLatch m).2.2, winStart := s.ltNs }

/-- A write that sets EN: refused with the error, or latched. -/
theorem State.mcfgApply_rises (m : Nat) (h : s.flag (MP.MCFG_EN m) = false) : s.mcfgApply m (putBits (s.reg (MP.MCFG m)) 0 1 1) =
    if s.meterRefused m then ((s.withMeterEn m true).setB (MP.MCFG_EN m) false).setB (MP.MSTAT_MP_CFG_ERR m) true
    else (s.withMeterEn m true).modMeter m (s.enabledPoint m) := by
  have hdie : (s.withMeterEn m true).get (MP.MCFG_DIE m) = s.get (MP.MCFG_DIE m) :=
    s.withMeterEn_get m true rfl (of_decide_eq_true rfl) (of_decide_eq_true rfl)
  have hvtype : (s.withMeterEn m true).flag (MP.MCFG_VTYPE m) = s.flag (MP.MCFG_VTYPE m) :=
    State.flag_of_get (s.withMeterEn_get m true rfl (of_decide_eq_true rfl) (of_decide_eq_true rfl))
  unfold State.mcfgApply
  extract_lets was w t now d ll csrc
  have hnow : now = true := s.withMeterEn_flag m true
  have hwas : was = false := h
  have hd : d = s.get (MP.MCFG_DIE m) := hdie
  have hll : ll = (meterAc m && s.flag (MP.MCFG_VTYPE m)) := congrArg (meterAc m && ·) hvtype
  rw [hnow, hwas, if_pos (by decide), hd, hll]
  rfl

/-- A write that clears EN: the engine stops with the window in progress. -/
theorem State.mcfgApply_falls (m : Nat) (h : s.flag (MP.MCFG_EN m) = true) : s.mcfgApply m (putBits (s.reg (MP.MCFG m)) 0 1 0) =
    (s.withMeterEn m false).modMeter m (fun p => { p with stopping := s.flag (MP.MSTAT_RUN m), starting := false, next := none }) := by
  unfold State.mcfgApply
  extract_lets was w t now d ll csrc
  have hnow : now = false := s.withMeterEn_flag m false
  have hwas : was = true := h
  rw [hnow, hwas, if_neg (by decide), if_pos (by decide)]
  rfl

theorem State.withMeterEn_changes (m : Nat) (en : Bool) {l : List Nat} (h : MP.MCFG m ∈ l) : MeterChanged l s (s.withMeterEn m en) :=
  (MeterChanged.refl _ s).setReg _ h

/-- An enable that is not refused. -/
theorem execMeterEnable_eq (hen : s.flag (MP.MCFG_EN m) = false) (hok : s.meterRefused m = false) (hr : s.mainRuns = true)
    (hp : s.parityOk (MP.MCFG m) = true) : exec (.meterEnable m) s = .next ((s.withMeterEn m true).modMeter m (s.enabledPoint m)) := by
  refine (whileRuns_running _ hr).trans ?_
  rw [State.checkParity_ok _ _ _ hp, State.mcfgApply_rises _ _ hen, hok, if_neg Bool.false_ne_true]

theorem meterEnable_latches (hen : s.flag (MP.MCFG_EN m) = false) (hok : s.meterRefused m = false) (hrun : s.flag (MP.MSTAT_RUN m) = false)
    (hr : s.mainRuns = true) (hp : s.parityOk (MP.MCFG m) = true) :
    Completes (exec (.meterEnable m) s) (fun t => t.flag (MP.MCFG_EN m) = true ∧ (t.meter m).starting = true ∧ (t.meter m).winStart = s.ltNs ∧
      (t.meter m).die = s.get (MP.MCFG_DIE m) ∧ (t.meter m).ll = (meterAc m && s.flag (MP.MCFG_VTYPE m)) ∧
      (t.meter m).csrc = (List.range 6).map (fun c => s.reg (MP.CHSEL m c)) ∧ SameBut [.regs, .meters] s t ∧ RegsBut [MP.MCFG m] s t) := by
  refine ⟨_, execMeterEnable_eq m s hen hok hr hp, ?_⟩
  dsimp only
  rw [State.meter_modMeter_self _ m.isLt, State.enabledPoint, if_neg (Bool.eq_false_iff.1 hrun)]
  exact ⟨(State.modMeter_flag _ _ _ _).trans (s.withMeterEn_flag m true), rfl, rfl, rfl, rfl, rfl,
    (s.withMeterEn_changes m true (List.mem_singleton.2 rfl)).modMeter m _⟩

theorem meterEnable_waits (hen : s.flag (MP.MCFG_EN m) = false) (hok : s.meterRefused m = false) (hrun : s.flag (MP.MSTAT_RUN m) = true)
    (hr : s.mainRuns = true) (hp : s.parityOk (MP.MCFG m) = true) :
    Completes (exec (.meterEnable m) s) (fun t => t.flag (MP.MCFG_EN m) = true ∧ (t.meter m).starting = true ∧
      (t.meter m).next = some (s.get (MP.MCFG_DIE m), (meterAc m && s.flag (MP.MCFG_VTYPE m)),
      (List.range 6).map (fun c => s.reg (MP.CHSEL m c))) ∧ (t.meter m).csrc = (s.meter m).csrc ∧ SameBut [.regs, .meters] s t ∧
      RegsBut [MP.MCFG m] s t) := by
  refine ⟨_, execMeterEnable_eq m s hen hok hr hp, ?_⟩
  dsimp only
  rw [State.meter_modMeter_self _ m.isLt, State.enabledPoint, if_pos hrun]
  exact ⟨(State.modMeter_flag _ _ _ _).trans (s.withMeterEn_flag m true), rfl, rfl, rfl,
    (s.withMeterEn_changes m true (List.mem_singleton.2 rfl)).modMeter m _⟩

theorem meterEnable_refused (hen : s.flag (MP.MCFG_EN m) = false) (hno : s.meterRefused m = true) (hr : s.mainRuns = true)
    (hp : s.parityOk (MP.MCFG m) = true) :
    Completes (exec (.meterEnable m) s) (fun t => t.flag (MP.MCFG_EN m) = false ∧ t.flag (MP.MSTAT_MP_CFG_ERR m) = true ∧ SameBut [.regs] s t ∧
      RegsBut [MP.MCFG m, MP.MSTAT m] s t) := by
  have hne : MP.MCFG m ≠ MP.MSTAT m := by
    rw [MP.MCFG, MP.MSTAT]
    omega
  refine completes_whileRuns hr (completes_next ?_)
  rw [State.checkParity_ok _ _ _ hp, State.mcfgApply_rises _ _ hen, hno, if_pos rfl]
  exact ⟨(State.flag_of_cell (State.cell_setB_ne _ _ _ _ hne)).trans (State.flag_setB_self _ _ _ (of_decide_eq_true rfl) Nat.one_pos),
    State.flag_setB_self _ _ _ (of_decide_eq_true rfl) Nat.one_pos,
    ((State.setReg_sameBut _ _ _).trans (State.setReg_sameBut _ _ _)).trans (State.setReg_sameBut _ _ _),
    ((State.setReg_regsBut _ _ _ List.mem_cons_self).trans (State.setReg_regsBut _ _ _ List.mem_cons_self)).trans
      (State.setReg_regsBut _ _ _ (List.mem_cons_of_mem _ List.mem_cons_self))⟩

theorem meterDisable_stops (hen : s.flag (MP.MCFG_EN m) = true) (hr : s.mainRuns = true) (hp : s.parityOk (MP.MCFG m) = true) :
    Completes (exec (.meterDisable m) s) (fun t => t.flag (MP.MCFG_EN m) = false ∧ (t.meter m).stopping = s.flag (MP.MSTAT_RUN m) ∧
      (t.meter m).starting = false ∧ (t.meter m).next = none ∧ SameBut [.regs, .meters] s t ∧ RegsBut [MP.MCFG m] s t) := by
  refine completes_whileRuns hr (completes_next ?_)
  rw [State.checkParity_ok _ _ _ hp, State.mcfgApply_falls _ _ hen, State.meter_modMeter_self _ m.isLt]
  exact ⟨(State.modMeter_flag _ _ _ _).trans (s.withMeterEn_flag m false), rfl, rfl, rfl,
    (s.withMeterEn_changes m false (List.mem_singleton.2 rfl)).modMeter m _⟩

/-! ### The commit of a point (R333) -/

/-- A burst request for a class that is not being written joins the queue. -/
theorem State.burstRequest_queued (c : Nat) (hc : c < 10) (hpow : s.keeper.powered = true) (hrun : s.keeper.running ≠ some c) :
    (s.burstRequest c).bit KPR.KQ_QUEUE c = true := by
  unfold State.burstRequest
  rw [hpow, Bool.not_true, if_neg Bool.false_ne_true]
  extract_lets w k u
  rw [if_neg hrun]
  exact u.bit_setBit_self KPR.KQ_QUEUE c true (by decide) hc

theorem meterCommit_saves (hpow : s.keeper.powered = true) (hrun : s.keeper.running ≠ some 5) (hr : s.mainRuns = true) :
    Completes (exec (.meterCommit m) s) (fun t => (t.meter m).waiting.map (fun c => c.words) = some ((meterRegs m).map s.reg) ∧
      (t.meter m).waiting.map (fun c => c.acc) = some (s.meter m).acc ∧ t.bit KPR.KQ_QUEUE 5 = true ∧ SameBut [.regs, .meters, .keeper] s t ∧
      RegsBut [KPR.KQ] s t) := by
  refine completes_whileRuns hr (completes_next ?_)
  have hparts : SameBut [.regs, .meters, .keeper] s (s.meterCommit m) :=
    have : Open (fun p => p ∉ [Part.regs, .meters, .keeper]) .regs := open_of_mem (by decide)
    have : Open (fun p => p ∉ [Part.regs, .meters, .keeper]) .meters := open_of_mem (by decide)
    have : Open (fun p => p ∉ [Part.regs, .meters, .keeper]) .keeper := open_of_mem (by decide)
    Keeps.sameBut (State.meterCommit_keeps (Keeps.refl _ s) m)
  have hpoint (u : State) : (u.burstRequest 5).meter m = u.meter m := congrArg (fun v => vget v m) (u.burstRequest_meters 5)
  unfold State.meterCommit at hparts ⊢
  rw [hpoint, State.meter_modMeter_self _ m.isLt]
  exact ⟨rfl, rfl, State.burstRequest_queued _ 5 (by decide) hpow hrun, hparts,
    fun a ha => State.burstRequest_cell _ _ _ fun e => ha (List.mem_singleton.2 e)⟩

end

/-- Settles O27: one lemma for each command and outcome. -/
theorem meterWindows : Obligations.MeterWindows :=
  ⟨meterWindowEnd_waits, fun m ttime hop arrived _ s hrun _ => meterSample_flushes m s ttime hop arrived hrun, meterWindowEnd_ends,
    meterWindowEnd_voidEnds, meterWindowEnd_starts, fun zero s => meterCycleFlit_ends s zero, fundVoidTimeout_voids, meterEnable_latches,
    meterEnable_waits, meterEnable_refused, meterDisable_stops, meterCommit_saves⟩

end Sys2Proof.Machine
end

section
/-! SUPPORT. Command dies: one die at a time, and what the start of a command period changes of them. -/

namespace Sys2Proof.Machine

theorem completes_of_eq {o : Out} {t : State} {P : State → Prop} (h : o = .next t) (ht : P t) : Completes o P := ⟨t, h, ht⟩

/-! ### One command die at a time -/

theorem State.cmd_modCmd_self (s : State) {c : Nat} (f : CmdDie → CmdDie) (hc : c < 2) : (s.modCmd c f).cmd c = f (s.cmd c) :=
  vget_vmod_self _ _ _ hc

theorem State.cmd_modCmd_ne (s : State) {c j : Nat} (f : CmdDie → CmdDie) (h : j ≠ c) : (s.modCmd c f).cmd j = s.cmd j :=
  vget_vmod_ne _ _ _ _ h

theorem State.cmd_of_cmds {s t : State} (h : t.cmds = s.cmds) (j : Nat) : t.cmd j = s.cmd j := congrArg (vget · j) h

theorem State.cmd_setReg (s : State) (a : Nat) (w : Word) (j : Nat) : (s.setReg a w).cmd j = s.cmd j := State.cmd_of_cmds (s.setReg_cmds a w) j

theorem State.cmd_set (s : State) (f : RF) (x j : Nat) : (s.set f x).cmd j = s.cmd j := State.cmd_of_cmds (s.set_cmds f x) j

theorem State.cmd_setB (s : State) (f : RF) (b : Bool) (j : Nat) : (s.setB f b).cmd j = s.cmd j := State.cmd_of_cmds (s.setB_cmds f b) j

theorem State.cmd_setBit (s : State) (f : RF) (i : Nat) (b : Bool) (j : Nat) : (s.setBit f i b).cmd j = s.cmd j := by
  unfold State.setBit
  split
  · exact s.cmd_set f _ j
  · exact s.cmd_set f _ j

theorem State.cmd_send (s : State) (m : Msg) (j : Nat) : (s.send m).cmd j = s.cmd j := State.cmd_of_cmds (s.send_cmds m) j

theorem State.modCmd_cell (s : State) (c : Nat) (f : CmdDie → CmdDie) (a : Nat) : (s.modCmd c f).cell a = s.cell a :=
  State.cell_of_regs (s.modCmd_regs c f) a

theorem State.modCmd_get (s : State) (c : Nat) (f : CmdDie → CmdDie) (g : RF) : (s.modCmd c f).get g = s.get g :=
  State.get_of_cell (s.modCmd_cell c f g.addr)

theorem otherCmd_lt (c : Nat) : otherCmd c < 2 := by
  unfold otherCmd
  omega

theorem otherCmd_ne (c : Nat) : otherCmd c ≠ c := by
  unfold otherCmd
  omega

theorem otherCmd_otherCmd {c : Nat} (hc : c < 2) : otherCmd (otherCmd c) = c := by
  unfold otherCmd
  omega

/-! ### Changes of command dies that leave some of their fields -/

/-- From `x` to `y` a command die changes in what `e` blanks alone; of its held writes all or none stay, and a SWAP that it awaits stays or goes. -/
structure CmdDie.Steps (e : CmdDie → CmdDie) (x y : CmdDie) : Prop where
  kept : e y = e x
  held : y.heldWrites = x.heldWrites ∨ y.heldWrites = []
  swap : y.swapAt = x.swapAt ∨ y.swapAt = none

theorem CmdDie.Steps.refl (e : CmdDie → CmdDie) (x : CmdDie) : x.Steps e x := ⟨rfl, .inl rfl, .inl rfl⟩

theorem CmdDie.Steps.trans {e : CmdDie → CmdDie} {x y z : CmdDie} (h : x.Steps e y) (h' : y.Steps e z) : x.Steps e z where
  kept := h'.kept.trans h.kept
  held := h'.held.elim (fun hz => hz ▸ h.held) .inr
  swap := h'.swap.elim (fun hz => hz ▸ h.swap) .inr

theorem CmdDie.Steps.mono {e e' : CmdDie → CmdDie} (he : ∀ x, e' (e x) = e' x) {x y : CmdDie} (h : x.Steps e y) : x.Steps e' y where
  kept := (he y).symm.trans ((congrArg e' h.kept).trans (he x))
  held := h.held
  swap := h.swap

/-- What `e` does not blank is the same. -/
theorem CmdDie.Steps.same {e : CmdDie → CmdDie} {x y : CmdDie} (h : x.Steps e y) {α : Type} (p : CmdDie → α) (hp : ∀ z, p (e z) = p z) :
    p y = p x := (hp y).symm.trans ((congrArg p h.kept).trans (hp x))

/-- From `r` to `t` both command dies change so. -/
def DiesStep (e : CmdDie → CmdDie) (r t : State) : Prop := ∀ j : Nat, (r.cmd j).Steps e (t.cmd j)

section
variable {e : CmdDie → CmdDie} {r s t : State}

theorem DiesStep.refl (e : CmdDie → CmdDie) (s : State) : DiesStep e s s := fun _ => .refl e _

theorem DiesStep.trans (h : DiesStep e r s) (h' : DiesStep e s t) : DiesStep e r t := fun j => (h j).trans (h' j)

theorem DiesStep.mono {e' : CmdDie → CmdDie} (he : ∀ x, e' (e x) = e' x) (h : DiesStep e r t) : DiesStep e' r t := fun j => (h j).mono he

theorem DiesStep.of_cmds (h : DiesStep e r s) (ht : t.cmds = s.cmds) : DiesStep e r t := fun j => State.cmd_of_cmds ht j ▸ h j

theorem DiesStep.setReg (h : DiesStep e r s) (a : Nat) (w : Word) : DiesStep e r (s.setReg a w) := h.of_cmds (State.setReg_cmds s a w)

theorem DiesStep.set (h : DiesStep e r s) (f : RF) (x : Nat) : DiesStep e r (s.set f x) := h.of_cmds (State.set_cmds s f x)

theorem DiesStep.setB (h : DiesStep e r s) (f : RF) (b : Bool) : DiesStep e r (s.setB f b) := h.set f _

theorem DiesStep.send (h : DiesStep e r s) (m : Msg) : DiesStep e r (s.send m) := h.of_cmds rfl

theorem DiesStep.modCmd (h : DiesStep e r s) (c : Nat) (f : CmdDie → CmdDie) (hf : ∀ x : CmdDie, x.Steps e (f x)) :
    DiesStep e r (s.modCmd c f) := fun j =>
  vget_vmod_of (P := fun y => (r.cmd j).Steps e y) s.cmds c j f (h j) (fun x hx => hx.trans (hf x))

theorem DiesStep.ite {c : Prop} [Decidable c] (hs : DiesStep e r s) (ht : DiesStep e r t) : DiesStep e r (if c then s else t) := by
  split
  · exact hs
  · exact ht

theorem DiesStep.foldOver (h : DiesStep e r s) (l : List Nat) (f : Nat → State → State)
    (hf : ∀ i ∈ l, ∀ t, DiesStep e r t → DiesStep e r (f i t)) : DiesStep e r (foldOver l f s) := foldOver_preserves l f s h hf

theorem DiesStep.foldl {α : Type} (h : DiesStep e r s) (l : List α) (f : State → α → State)
    (hf : ∀ t x, DiesStep e r t → DiesStep e r (f t x)) : DiesStep e r (l.foldl f s) :=
  List.foldlRecOn l f h fun t ht x _ => hf t x ht

/-- What an operation that writes no command die keeps. -/
theorem DiesStep.keeps (h : DiesStep e r s) (hk : Keeps (fun p => p = .cmds) s t) : DiesStep e r t := h.of_cmds (hk.same .cmds rfl)

end

/-! ### The start of a command period (R338, R349-R352, R377) -/

/-- A command die without what the end of a debug connection changes (R381). -/
def CmdDie.offDebug (x : CmdDie) : CmdDie := { x with haltAt := none, counts := [] }

/-- A command die without what the start of a period changes. -/
def CmdDie.offPeriod (x : CmdDie) : CmdDie :=
  { x with claim := false, run := none, lastCpn := 0, fetch := false, frames := [], issued := Vector.replicate 4 0, win := none
           m := Vector.replicate 4 0, nextRole := none, held := false, heldWrites := [], swapAt := none, haltAt := none, counts := [] }

/-- A command die without what the shell's choice of a snapshot changes. -/
def CmdDie.offTaken (x : CmdDie) : CmdDie := { x with closed := [], ready := false, late := false, failover := false, resumed := false, toRun := [] }

/-- A command die without both. -/
def CmdDie.offStart (x : CmdDie) : CmdDie := x.offPeriod.offTaken

theorem CmdDie.offPeriod_offDebug (x : CmdDie) : x.offDebug.offPeriod = x.offPeriod := rfl

theorem CmdDie.offStart_offPeriod (x : CmdDie) : x.offPeriod.offStart = x.offStart := rfl

theorem CmdDie.offStart_offTaken (x : CmdDie) : x.offTaken.offStart = x.offStart := rfl

/-- The state of a period's start after the frames that it delivers (R350, R385). -/
def State.framesApplied (s : State) (c : Nat) (q : Snapshot) : State :=
  (s.cmd c).framesFor q |>.foldl (fun t f => t.applyDeviceFrame c f) (s.setReg (CMD.DONE c) 0)

/-- The state after its roles, too. -/
def State.rolesApplied (s : State) (c : Nat) (q : Snapshot) : State := ((s.framesApplied c q).applyRole c).applySwap c q.cpn

/-- A command die at the start of its period on `q`, with windows of `n` periods. -/
def CmdDie.begun (q : Snapshot) (n : Nat) (x : CmdDie) : CmdDie :=
  { x with
    run := some q, lastCpn := q.cpn, fetch := false
    frames := x.frames.filter (fun f => decide ((q.word 4).toNat < f.bsn))
    issued := Vector.replicate 4 0
    win := some (x.win.getD (min (2 ^ 32 - 1) (q.cpn / n * n + (n - 1))))
    m := if x.win.isSome then x.m else Vector.replicate 4 0xFFFFFFFFFFFFFFFF }

theorem State.beginPeriod_eq (s : State) (c : Nat) (q : Snapshot) :
    s.beginPeriod c q = (s.rolesApplied c q).modCmd c (CmdDie.begun q ((s.rolesApplied c q).sigWin c)) := rfl

theorem State.applyDeviceFrame_cmds (s : State) (c : Nat) (f : InputFrame) : (s.applyDeviceFrame c f).cmds = s.cmds :=
  have : Open (fun p => p = Part.cmds) .regs := open_of_eq (by decide)
  have : Open (fun p => p = Part.cmds) .out := open_of_eq (by decide)
  have : Open (fun p => p = Part.cmds) .life := open_of_eq (by decide)
  have : Open (fun p => p = Part.cmds) .keeper := open_of_eq (by decide)
  (State.applyDeviceFrame_keeps (Keeps.refl (fun p => p = .cmds) s) c f).same .cmds rfl

theorem State.framesApplied_cmds (s : State) (c : Nat) (q : Snapshot) : (s.framesApplied c q).cmds = s.cmds :=
  List.foldlRecOn (motive := fun t : State => t.cmds = s.cmds) _ _ (State.setReg_cmds _ _ _) fun t ht f _ => (t.applyDeviceFrame_cmds c f).trans ht

theorem State.dropDebug_step (s : State) : DiesStep CmdDie.offDebug s s.dropDebug := by
  unfold State.dropDebug
  refine (DiesStep.refl _ s).foldOver _ _ fun c _ t ht => ?_
  exact (((ht.setB _ _).setB _ _).setB _ _).modCmd c _ fun _ => ⟨rfl, .inl rfl, .inl rfl⟩

theorem State.takeRole_step (s : State) (c role : Nat) : DiesStep CmdDie.offDebug s (s.takeRole c role) := by
  unfold State.takeRole
  exact (DiesStep.refl _ s).ite (((DiesStep.refl _ s).set _ _).trans (State.dropDebug_step _))

section
variable {r s : State}

theorem DiesStep.takeRole (h : DiesStep CmdDie.offPeriod r s) (c role : Nat) : DiesStep CmdDie.offPeriod r (s.takeRole c role) :=
  h.trans ((s.takeRole_step c role).mono CmdDie.offPeriod_offDebug)

theorem State.joined_cmds (s : State) (c : Nat) : (s.joined c).cmds = s.cmds := by
  unfold State.joined
  extract_lets t
  split <;> rfl

theorem DiesStep.applyRole (h : DiesStep CmdDie.offPeriod r s) (c : Nat) : DiesStep CmdDie.offPeriod r (s.applyRole c) := by
  unfold State.applyRole
  split
  · exact h
  · exact h.ite (((h.of_cmds (s.joined_cmds c)).ite h |>.takeRole c _).modCmd c _ fun _ => ⟨rfl, .inr rfl, .inl rfl⟩)

theorem DiesStep.applySwap (h : DiesStep CmdDie.offPeriod r s) (c cpn : Nat) : DiesStep CmdDie.offPeriod r (s.applySwap c cpn) := by
  unfold State.applySwap
  extract_lets u
  have hu : DiesStep CmdDie.offPeriod r u := h.modCmd c _ fun _ => ⟨rfl, .inl rfl, .inr rfl⟩
  have hclaim := (hu.takeRole c 3).modCmd c (fun x => { x with claim := true, held := true }) fun _ => ⟨rfl, .inl rfl, .inl rfl⟩
  exact .ite (.ite (hu.takeRole c 2) (.ite (hclaim.send _) hu)) h

theorem DiesStep.rolesApplied (h : DiesStep CmdDie.offPeriod r s) (c : Nat) (q : Snapshot) :
    DiesStep CmdDie.offPeriod r (s.rolesApplied c q) :=
  ((h.of_cmds (s.framesApplied_cmds c q)).applyRole c).applySwap c q.cpn

theorem DiesStep.beginPeriod (h : DiesStep CmdDie.offPeriod r s) (c : Nat) (q : Snapshot) : DiesStep CmdDie.offPeriod r (s.beginPeriod c q) :=
  (h.rolesApplied c q).modCmd c _ fun _ => ⟨rfl, .inl rfl, .inl rfl⟩

end

/-! ### The start on the latest closed snapshot (R349, R351, R369) -/

/-- A die that holds TAKE sends CLAIM for a period. -/
def State.claimSent (s : State) (c cpn : Nat) : State := (s.modCmd c (fun x => { x with claim := true })).send ⟨.claim, c, [cpn]⟩

/-- The shell's snapshot taken, and the one that it skipped counted. -/
def State.snapshotTaken (s : State) (c : Nat) : State :=
  let skipped := (s.cmd c).closed.length - 1
  (s.addSat (CMD.SKIPCNT_SKIP_CNT c) skipped).modCmd c (fun x =>
    { x with closed := [], ready := false, late := decide (0 < skipped), failover := false, resumed := false })

/-- The other die is to run the same, unless it is OFF, waits for its join, or is out of reach. -/
def State.toldOther (s : State) (c : Nat) (q : Snapshot) : State :=
  if s.role (otherCmd c) = 0 || (s.cmd (otherCmd c)).joinWait || s.peerGone c then s
  else s.modCmd (otherCmd c) (fun x => { x with toRun := x.toRun ++ [q] })

/-- The start of the shell's period on the snapshot `d`. -/
def State.startOn (s : State) (c : Nat) (d : Snapshot) : State :=
  let q := d.mark (s.cmd c).failover (s.cmd c).resumed
  ((s.snapshotTaken c).toldOther c q).beginPeriod c q

/-- The three outcomes of a start: nothing, a CLAIM by a die that holds TAKE, a period. -/
theorem State.tryStart_cases (s : State) (c : Nat) : s.tryStart c = s ∨
    (∃ cpn, s.flag (CMD.CMDSTAT_TAKE c) = true ∧ s.tryStart c = s.claimSent c cpn) ∨
    ∃ d, s.flag (CMD.CMDSTAT_TAKE c) = false ∧ s.tryStart c = s.startOn c d := by
  unfold State.tryStart
  extract_lets x
  split
  case h_2 => exact .inl rfl
  case h_1 d _ _ =>
    split
    · exact .inl rfl
    split
    · next htake => exact .inr (.inl ⟨d.cpn, htake, rfl⟩)
    · next htake =>
      split
      · exact .inr (.inr ⟨d, Bool.not_eq_true _ ▸ htake, rfl⟩)
      · exact .inl rfl

/-- A die that holds TAKE starts nothing: it claims at most. -/
theorem State.tryStart_take (s : State) (c : Nat) (h : s.flag (CMD.CMDSTAT_TAKE c) = true) :
    s.tryStart c = s ∨ ∃ cpn, s.tryStart c = s.claimSent c cpn := by
  rcases s.tryStart_cases c with h0 | ⟨cpn, -, h1⟩ | ⟨d, hd, _⟩
  · exact .inl h0
  · exact .inr ⟨cpn, h1⟩
  · exact absurd (hd.symm.trans h) Bool.false_ne_true

theorem State.snapshotTaken_step (s : State) (c : Nat) : DiesStep CmdDie.offTaken s (s.snapshotTaken c) := by
  unfold State.snapshotTaken
  extract_lets skipped
  exact ((DiesStep.refl _ s).set (CMD.SKIPCNT_SKIP_CNT c) _).modCmd c _ fun _ => ⟨rfl, .inl rfl, .inl rfl⟩

theorem DiesStep.toldOther {r s : State} (h : DiesStep CmdDie.offTaken r s) (c : Nat) (q : Snapshot) :
    DiesStep CmdDie.offTaken r (s.toldOther c q) := by
  unfold State.toldOther
  exact h.ite (h.modCmd _ _ fun _ => ⟨rfl, .inl rfl, .inl rfl⟩)

/-- What precedes the start itself changes in the dies the choice of a snapshot alone. -/
theorem State.startChosen_step (s : State) (c : Nat) (q : Snapshot) : DiesStep CmdDie.offTaken s ((s.snapshotTaken c).toldOther c q) :=
  (s.snapshotTaken_step c).toldOther c q

section
variable {r s : State}

theorem DiesStep.tryStart (h : DiesStep CmdDie.offStart r s) (c : Nat) : DiesStep CmdDie.offStart r (s.tryStart c) := by
  rcases s.tryStart_cases c with h0 | ⟨cpn, -, h1⟩ | ⟨d, -, h2⟩
  · rw [h0]
    exact h
  · rw [h1]
    exact (h.modCmd c (fun x => { x with claim := true }) fun _ => ⟨rfl, .inl rfl, .inl rfl⟩).send _
  · rw [h2]
    unfold State.startOn
    extract_lets q
    have hbegin := (DiesStep.refl CmdDie.offPeriod ((s.snapshotTaken c).toldOther c q)).beginPeriod c q
    exact (h.trans ((s.startChosen_step c q).mono CmdDie.offStart_offTaken)).trans (hbegin.mono CmdDie.offStart_offPeriod)

end

end Sys2Proof.Machine
end

section
/-! SUPPORT. Registers and fields through the start of a command period. -/

namespace Sys2Proof.Machine

/-! ### Device frames (R385) -/

/-- The registers that device frames write in a command die: the homes of the entries of the command route, and those of a parity failure. -/
def frameRegs (c : Nat) : List Nat :=
  [CMD.CMDCFG c, CMD.SNAP_RGN c, CMD.CBUF_RGN c, CMD.JRNL_RGN c, CLK.LOCK_CFG (if c = 0 then .c0 else .c1)] ++
    parityRegs (if c = 0 then .c0 else .c1)

theorem cmdEntry_addr {c sub : Nat} {f : RF} (h : cmdEntry c sub = some f) : f.addr ∈ frameRegs c := by
  unfold cmdEntry at h
  split at h <;> cases h <;> simp [frameRegs, CMD.CMDCFG_SIG_WIN, CMD.CMDCFG_SNAP_WIN, CMD.CMDCFG_CP_CORES]

theorem State.checkOwn_cell (s : State) (c x : Nat) {a : Nat} (ha : a ∉ frameRegs c) : (s.checkOwn c x).cell a = s.cell a := by
  have hp : a ∉ parityRegs (if c = 0 then .c0 else .c1) := fun h => ha (List.mem_append_right _ h)
  have hq : a ≠ KPR.KQ := fun h => hp (by simp [h, parityRegs])
  unfold State.checkOwn
  split
  · rfl
  · rw [State.send_cell, State.parityRecord_cell _ _ _ _ hq, State.parityShown_cell_other _ _ _ _ hp]

theorem State.applyDeviceFrame_cell (s : State) (c : Nat) (f : InputFrame) {a : Nat} (ha : a ∉ frameRegs c) :
    (s.applyDeviceFrame c f).cell a = s.cell a := by
  unfold State.applyDeviceFrame
  extract_lets ix sub e home v
  have hlock : CLK.LOCK_CFG e ∈ frameRegs c := by simp [frameRegs, e]
  have hhome : ∀ g, home = some g → g.addr ∈ frameRegs c := by
    intro g hg
    unfold home at hg
    split at hg
    · exact cmdEntry_addr hg
    split at hg
    · cases hg
    generalize sub = i at hg
    split at hg <;> cases hg <;> exact hlock
  clear_value home
  split
  case h_2 => rfl
  case h_1 g =>
    split
    case isFalse => rfl
    case isTrue =>
      have hne : a ≠ g.addr := fun h => ha (h ▸ hhome g rfl)
      rw [State.cell_set_ne _ _ _ _ hne, State.checkOwn_cell _ _ _ ha]

theorem State.framesApplied_cell (s : State) (c : Nat) (q : Snapshot) {a : Nat} (ha : a ∉ frameRegs c) :
    (s.framesApplied c q).cell a = (s.setReg (CMD.DONE c) 0).cell a :=
  List.foldlRecOn (motive := fun t : State => t.cell a = (s.setReg (CMD.DONE c) 0).cell a) _ _ rfl
    fun t ht f _ => (t.applyDeviceFrame_cell c f ha).trans ht

/-! ### What a period start keeps -/

/-- A property of states that the writes of a period start of die `c` keep. -/
structure StartKeeps (c : Nat) (P : State → Prop) : Prop where
  frame : ∀ s t : State, CellsSame (· ∉ frameRegs c) s t → P s → P t
  set : ∀ (s : State) (x : Nat), ∀ f ∈ [CMD.CMDSTAT_ROLE c, arbRole c, ARB.HOLD_REM_HOLD_REM, CMD.SKIPCNT_SKIP_CNT c], P s → P (s.set f x)
  drop : ∀ s : State, P s → P s.dropDebug

section
variable {c : Nat} {P : State → Prop} {s : State}

theorem StartKeeps.of_regs (h : StartKeeps c P) (hs : P s) {t : State} (ht : t.regs = s.regs) : P t :=
  h.frame s t (fun a _ => State.cell_of_regs ht a) hs

theorem StartKeeps.modCmd (h : StartKeeps c P) (hs : P s) (j : Nat) (f : CmdDie → CmdDie) : P (s.modCmd j f) :=
  h.of_regs hs (State.modCmd_regs s j f)

theorem StartKeeps.send (h : StartKeeps c P) (hs : P s) (m : Msg) : P (s.send m) := h.of_regs hs (State.send_regs s m)

theorem StartKeeps.takeRole (h : StartKeeps c P) (role : Nat) (hs : P s) : P (s.takeRole c role) := by
  unfold State.takeRole
  split
  · exact hs
  · exact h.drop _ (h.set s role _ (by simp) hs)

theorem StartKeeps.joined (h : StartKeeps c P) (hs : P s) : P (s.joined c) := by
  have h1 : P (s.set (arbRole c) 2) := h.set s 2 _ (by simp) hs
  unfold State.joined
  extract_lets t
  split
  · exact h.set t _ _ (by simp) h1
  · exact h1

theorem StartKeeps.applyRole (h : StartKeeps c P) (hs : P s) : P (s.applyRole c) := by
  unfold State.applyRole
  split
  · exact hs
  split
  · exact hs
  extract_lets t
  have ht : P t := by
    unfold t
    split
    · exact h.joined hs
    · exact hs
  exact h.modCmd (h.takeRole _ ht) c _

theorem StartKeeps.applySwap (h : StartKeeps c P) (cpn : Nat) (hs : P s) : P (s.applySwap c cpn) := by
  unfold State.applySwap
  split
  case isFalse => exact hs
  extract_lets t
  have ht : P t := h.modCmd hs c _
  split
  · exact h.takeRole 2 ht
  split
  · exact h.send (h.modCmd (h.takeRole 3 ht) c _) _
  · exact ht

theorem StartKeeps.rolesApplied (h : StartKeeps c P) (q : Snapshot) (hs : P (s.setReg (CMD.DONE c) 0)) : P (s.rolesApplied c q) :=
  h.applySwap _ (h.applyRole (h.frame _ _ (fun _ ha => s.framesApplied_cell c q ha) hs))

theorem StartKeeps.beginPeriod (h : StartKeeps c P) (q : Snapshot) (hs : P (s.setReg (CMD.DONE c) 0)) : P (s.beginPeriod c q) :=
  s.beginPeriod_eq c q ▸ h.modCmd (h.rolesApplied q hs) c _

theorem State.toldOther_regs (s : State) (c : Nat) (q : Snapshot) : (s.toldOther c q).regs = s.regs := by
  unfold State.toldOther
  split <;> rfl

theorem StartKeeps.startOn (h : StartKeeps c P) (hdone : ∀ t, P t → P (t.setReg (CMD.DONE c) 0)) (d : Snapshot) (hs : P s) :
    P (s.startOn c d) := by
  have h1 : P (s.snapshotTaken c) := h.modCmd (h.set s _ (CMD.SKIPCNT_SKIP_CNT c) (by simp) hs) c _
  exact h.beginPeriod _ (hdone _ (h.of_regs h1 (State.toldOther_regs _ _ _)))

theorem StartKeeps.tryStart (h : StartKeeps c P) (hdone : ∀ t, P t → P (t.setReg (CMD.DONE c) 0)) (hs : P s) : P (s.tryStart c) := by
  rcases s.tryStart_cases c with h0 | ⟨cpn, -, h1⟩ | ⟨d, -, h2⟩
  · rw [h0]
    exact hs
  · rw [h1]
    exact h.send (h.modCmd hs c _) _
  · rw [h2]
    exact h.startOn hdone d hs

end

/-! ### Fields that a period start leaves -/

/-- The fields that the role changes of a period start write. -/
def roleFields (c : Nat) : List RF :=
  [CMD.CMDSTAT_ROLE c, arbRole c, ARB.HOLD_REM_HOLD_REM, CMD.SKIPCNT_SKIP_CNT c] ++
    [0, 1].flatMap (fun j => [CMD.DBGSTAT_ATTACHED j, CMD.DBGSTAT_HALTED j, CMD.DBGSTAT_DBG_DROP j])

/-- A field that no period start of die `c` writes, but for DONE. -/
def RF.offStart (g : RF) (c : Nat) : Bool := (frameRegs c).all (fun a => decide (g.addr ≠ a)) && (roleFields c).all (fun f => f.apart g)

theorem RF.offStart_iff (g : RF) (c : Nat) : g.offStart c = true ↔ g.addr ∉ frameRegs c ∧ ∀ f ∈ roleFields c, f.apart g = true := by
  rw [RF.offStart, Bool.and_eq_true, List.all_eq_true, List.all_eq_true]
  exact and_congr_left fun _ => ⟨fun h hm => of_decide_eq_true (h _ hm) rfl, fun h a ha => decide_eq_true fun e => h (e ▸ ha)⟩

theorem FieldSame.modCmd {g : RF} {r s : State} (h : FieldSame g r s) (c : Nat) (f : CmdDie → CmdDie) : FieldSame g r (s.modCmd c f) :=
  h.of_cell rfl

theorem FieldSame.dropDebug {g : RF} {r s : State} (h : FieldSame g r s)
    (hg : ∀ j ∈ [0, 1], ∀ f ∈ [CMD.DBGSTAT_ATTACHED j, CMD.DBGSTAT_HALTED j, CMD.DBGSTAT_DBG_DROP j], f.apart g = true) :
    FieldSame g r s.dropDebug :=
  h.foldOver _ _ fun j hj t ht => by
    have hf := hg j hj
    exact (((ht.setB _ false (hf _ (by simp))).setB _ false (hf _ (by simp))).setB _ true (hf _ (by simp))).modCmd j _

theorem fieldSame_startKeeps {g : RF} {c : Nat} (r : State) (hg : g.offStart c = true) : StartKeeps c (FieldSame g r) := by
  obtain ⟨hregs, hfields⟩ := (g.offStart_iff c).1 hg
  refine ⟨fun s t hst hs => hs.of_cell (hst _ hregs), fun s x f hf hs => hs.set f x (hfields f (List.mem_append_left _ hf)), fun s hs => ?_⟩
  exact hs.dropDebug fun j hj f hf => hfields f (List.mem_append_right _ (List.mem_flatMap.2 ⟨j, hj, hf⟩))

theorem FieldSame.setDone {g : RF} {c : Nat} {r s : State} (h : FieldSame g r s) (hg : g.addr ≠ CMD.DONE c) :
    FieldSame g r (s.setReg (CMD.DONE c) 0) := h.of_cell (State.cell_setReg_ne _ _ _ _ hg)

theorem State.beginPeriod_field (s : State) {g : RF} {c : Nat} (q : Snapshot) (hg : g.offStart c = true) (hd : g.addr ≠ CMD.DONE c) :
    (s.beginPeriod c q).get g = s.get g := (fieldSame_startKeeps s hg).beginPeriod q ((FieldSame.refl g s).setDone hd)

theorem State.tryStart_field (s : State) {g : RF} {c : Nat} (hg : g.offStart c = true) (hd : g.addr ≠ CMD.DONE c) :
    (s.tryStart c).get g = s.get g := (fieldSame_startKeeps s hg).tryStart (fun _ ht => ht.setDone hd) (FieldSame.refl g s)

/-- The whole of DONE, as a field. -/
theorem done_offStart : ∀ c : Fin 2, RF.offStart ⟨CMD.DONE c, 0, 32⟩ c = true := by decide

theorem State.reg_of_word {s : State} {a : Nat} {w : Word} (h : s.get ⟨a, 0, 32⟩ = w.toNat) : s.reg a = w :=
  BitVec.eq_of_toNat_eq ((s.get_word a).symm.trans h)

/-- DONE is clear at the start of a period. -/
theorem State.beginPeriod_done (s : State) (c : Fin 2) (q : Snapshot) : (s.beginPeriod c q).reg (CMD.DONE c) = 0 := by
  have h : FieldSame ⟨CMD.DONE c, 0, 32⟩ (s.setReg (CMD.DONE c) 0) (s.beginPeriod c q) :=
    (fieldSame_startKeeps _ (done_offStart c)).beginPeriod q (FieldSame.refl _ _)
  refine State.reg_of_word (h.trans ((State.get_word _ _).trans ?_))
  rw [State.reg_setReg_self]

/-! ### Halts end with the debug connection (R381) -/

/-- No command die is halted for debug. -/
def NoHalt (s : State) : Prop := ∀ k : Fin 2, s.flag (CMD.DBGSTAT_HALTED k) = false

theorem halted_notMem_frameRegs : ∀ c k : Fin 2, (CMD.DBGSTAT_HALTED k).addr ∉ frameRegs c := by decide

theorem halted_apart_role : ∀ c k : Fin 2, ∀ f ∈ [CMD.CMDSTAT_ROLE c, arbRole c, ARB.HOLD_REM_HOLD_REM, CMD.SKIPCNT_SKIP_CNT c],
    f.apart (CMD.DBGSTAT_HALTED k) = true := by decide

theorem halted_apart_debug : ∀ j k : Fin 2, (CMD.DBGSTAT_ATTACHED j).apart (CMD.DBGSTAT_HALTED k) = true ∧
    (CMD.DBGSTAT_DBG_DROP j).apart (CMD.DBGSTAT_HALTED k) = true ∧ (j ≠ k → (CMD.DBGSTAT_HALTED j).apart (CMD.DBGSTAT_HALTED k) = true) := by
  decide

theorem NoHalt.set {s : State} (h : NoHalt s) {f : RF} (x : Nat) (hf : ∀ k : Fin 2, f.apart (CMD.DBGSTAT_HALTED k) = true) : NoHalt (s.set f x) :=
  fun k => (State.flag_set_apart s x (hf k)).trans (h k)

theorem NoHalt.modCmd {s : State} (h : NoHalt s) (c : Nat) (f : CmdDie → CmdDie) : NoHalt (s.modCmd c f) :=
  fun k => (State.flag_of_cell (State.cell_of_regs (State.modCmd_regs s c f) _)).trans (h k)

/-- A halt of one die that ends. -/
theorem State.flag_halted_cleared (s : State) (j k : Fin 2) (h : j = k ∨ s.flag (CMD.DBGSTAT_HALTED k) = false) :
    (s.setB (CMD.DBGSTAT_HALTED j) false).flag (CMD.DBGSTAT_HALTED k) = false := by
  by_cases e : j = k
  · subst e
    exact State.flag_setB_self _ _ _ (of_decide_eq_true rfl) Nat.one_pos
  · obtain ⟨-, -, hne⟩ := halted_apart_debug j k
    exact (State.flag_setB_apart _ _ (hne e)).trans (h.resolve_left e)

theorem NoHalt.dropDebug {s : State} (h : NoHalt s) : NoHalt s.dropDebug := by
  refine foldOver_preserves (P := NoHalt) _ _ s h fun i hi t ht => ?_
  have hi2 : i < 2 := by
    simp only [List.mem_cons, List.not_mem_nil, or_false] at hi
    omega
  lift i to Fin 2 using hi2
  have hclear : NoHalt ((t.setB (CMD.DBGSTAT_ATTACHED i) false).setB (CMD.DBGSTAT_HALTED i) false) := fun k =>
    State.flag_halted_cleared _ i k (.inr (ht.set _ (fun k => (halted_apart_debug i k).1) k))
  exact (hclear.set (f := CMD.DBGSTAT_DBG_DROP i) 1 fun k => (halted_apart_debug i k).2.1).modCmd i _

theorem noHalt_startKeeps (c : Fin 2) : StartKeeps c NoHalt where
  frame _ _ hst hs k := (State.flag_of_cell (hst _ (halted_notMem_frameRegs c k))).trans (hs k)
  set _ x f hf hs := hs.set x fun k => halted_apart_role c k f hf
  drop _ hs := hs.dropDebug

theorem NoHalt.tryStart {s : State} (h : NoHalt s) (c : Fin 2) : NoHalt (s.tryStart c) :=
  (noHalt_startKeeps c).tryStart (fun t ht k => (State.flag_of_cell (State.cell_setReg_ne t _ _ _ (by revert c k; decide))).trans (ht k)) h

end Sys2Proof.Machine
end

section
/-! SUPPORT. Decisions, failed joins and the tick of a command period: what they leave of the registers and of the command dies. -/

namespace Sys2Proof.Machine

/-! ### Decisions and failed joins (R362, R375) -/

theorem State.decide'_cell (s : State) (verdict cause : Nat) (ev : Option EvCounter) {a : Nat} (hdec : a ≠ ARB.ARBDEC) (hkq : a ≠ KPR.KQ) :
    (s.decide' verdict cause ev).cell a = s.cell a := by
  unfold State.decide'
  extract_lets cpn s1 s2
  have h1 : s1.cell a = s.cell a := by
    unfold s1
    rw [State.cell_set_ne _ _ _ _ hdec, State.cell_set_ne _ _ _ _ hdec, State.cell_set_ne _ _ _ _ hdec]
  have h2 : s2.cell a = s.cell a := by
    unfold s2
    cases ev
    case none => exact h1
    case some e => exact (s1.countEvent_cell e a).trans h1
  split
  · exact h2
  · rw [State.enterFault_cell _ _ _ _ _ _ _ hkq, h2]

theorem State.decide'_get (s : State) (verdict cause : Nat) (ev : Option EvCounter) {g : RF} (hdec : g.addr ≠ ARB.ARBDEC)
    (hkq : g.addr ≠ KPR.KQ) : (s.decide' verdict cause ev).get g = s.get g := State.get_of_cell (s.decide'_cell verdict cause ev hdec hkq)

/-- A decision leaves what is neither a register nor the keeper's. -/
theorem State.decide'_same (s : State) (verdict cause : Nat) (ev : Option EvCounter) {p : Part} (hp : p ∉ [Part.regs, .life, .keeper]) :
    p.Same s (s.decide' verdict cause ev) :=
  have : Open (fun p => p ∉ [Part.regs, .life, .keeper]) .regs := open_of_mem (by decide)
  have : Open (fun p => p ∉ [Part.regs, .life, .keeper]) .life := open_of_mem (by decide)
  have : Open (fun p => p ∉ [Part.regs, .life, .keeper]) .keeper := open_of_mem (by decide)
  (State.decide'_keeps (Keeps.refl (fun p => p ∉ [Part.regs, .life, .keeper]) s) verdict cause ev).same p hp

theorem State.decide'_cmds (s : State) (verdict cause : Nat) (ev : Option EvCounter) : (s.decide' verdict cause ev).cmds = s.cmds :=
  s.decide'_same verdict cause ev (p := .cmds) (by decide)

theorem State.decide'_arb (s : State) (verdict cause : Nat) (ev : Option EvCounter) : (s.decide' verdict cause ev).arb = s.arb :=
  s.decide'_same verdict cause ev (p := .arb) (by decide)

theorem arbRole_addr (c : Nat) : (arbRole c).addr = ARB.ARBSTAT := by
  unfold arbRole
  split <;> rfl

theorem arbJoinFail_addr (c : Nat) : (arbJoinFail c).addr = ARB.ARBSTAT := by
  unfold arbJoinFail
  split <;> rfl

/-- What the other die sends to a joining die ends with its join, and so does what the joining die has compared. -/
def State.joinDropped (s : State) (j : Nat) : State :=
  (s.modCmd (otherCmd j) (fun x => { x with sending := [], copied := [] })).modCmd j (fun x => { x with joinSigs := [] })

theorem State.joinDropped_cell (s : State) (j a : Nat) : (s.joinDropped j).cell a = s.cell a :=
  (State.modCmd_cell _ _ _ _).trans (State.modCmd_cell _ _ _ _)

theorem State.joinFailed_few (s : State) (j : Nat) (h : (s.cmd j).joinFails < 7) : s.joinFailed j =
    ((s.joinDropped j).set (arbRole j) 1).modCmd j (fun x => { x with joinFails := (s.cmd j).joinFails + 1, joinWait := true, nextRole := none }) := by
  unfold State.joinFailed
  exact if_neg (by omega)

theorem State.joinFailed_many (s : State) (j : Nat) (h : 7 ≤ (s.cmd j).joinFails) : s.joinFailed j =
    ((((s.joinDropped j).decide' 1 5 none).setB (arbJoinFail j) true).set (arbRole j) 0).modCmd j
      (fun x => { x with joinFails := 0, joinWait := false, nextRole := none }) := by
  unfold State.joinFailed
  exact if_pos (by omega)

theorem State.joinFailed_cell (s : State) (j : Nat) {a : Nat} (hstat : a ≠ ARB.ARBSTAT) (hdec : a ≠ ARB.ARBDEC) (hkq : a ≠ KPR.KQ) :
    (s.joinFailed j).cell a = s.cell a := by
  have hrole : a ≠ (arbRole j).addr := arbRole_addr j ▸ hstat
  rcases Nat.lt_or_ge (s.cmd j).joinFails 7 with h | h
  · rw [s.joinFailed_few j h, State.modCmd_cell, State.cell_set_ne _ _ _ _ hrole, State.joinDropped_cell]
  · rw [s.joinFailed_many j h, State.modCmd_cell, State.cell_set_ne _ _ _ _ hrole, State.cell_setB_ne _ _ _ _ (arbJoinFail_addr j ▸ hstat),
      State.decide'_cell _ _ _ _ hdec hkq, State.joinDropped_cell]

/-- A command die without what a join that begins, ends or fails changes. -/
def CmdDie.offJoin (x : CmdDie) : CmdDie :=
  { x with sending := [], copied := [], joinSigs := [], joinFails := 0, joinWait := false, nextRole := none }

section
variable {e : CmdDie → CmdDie} {r s : State}

theorem DiesStep.decide' (h : DiesStep e r s) (verdict cause : Nat) (ev : Option EvCounter) : DiesStep e r (s.decide' verdict cause ev) :=
  h.of_cmds (s.decide'_cmds verdict cause ev)

theorem DiesStep.joinDropped (h : DiesStep CmdDie.offJoin r s) (j : Nat) : DiesStep CmdDie.offJoin r (s.joinDropped j) := by
  unfold State.joinDropped
  refine (h.modCmd (otherCmd j) _ ?_).modCmd j _ ?_
  · exact fun _ => ⟨rfl, .inl rfl, .inl rfl⟩
  · exact fun _ => ⟨rfl, .inl rfl, .inl rfl⟩

theorem DiesStep.joinFailed (h : DiesStep CmdDie.offJoin r s) (j : Nat) : DiesStep CmdDie.offJoin r (s.joinFailed j) := by
  have hdrop := h.joinDropped j
  rcases Nat.lt_or_ge (s.cmd j).joinFails 7 with hf | hf
  · rw [s.joinFailed_few j hf]
    exact (hdrop.set _ _).modCmd j _ fun _ => ⟨rfl, .inl rfl, .inl rfl⟩
  · rw [s.joinFailed_many j hf]
    exact (((hdrop.decide' 1 5 none).setB _ _).set _ _).modCmd j _ fun _ => ⟨rfl, .inl rfl, .inl rfl⟩

end

/-! ### JOIN_SNAPSHOT_SEND (R373) -/

/-- The joining die as a boundary makes it (R373). -/
def State.joinMade (s : State) (c : Nat) : State :=
  s.modCmd (otherCmd c) (fun y => { y with
    joinWait := false, run := none, toRun := [], sigs := [], joinSigs := [], bsnLast := (s.cmd c).bsnLast, win := none, counted := y.tick.isNone
    whole := (s.cmd c).win.isNone, frames := y.frames.filter (fun f => decide ((s.cmd c).bsnLast < f.bsn)) })

/-- The joining die takes CPN and the CMD configuration of the shell. -/
def State.joinConfigured (s : State) (c : Nat) : State :=
  [CMD.CMDCFG, CMD.SNAP_RGN, CMD.CBUF_RGN, CMD.JRNL_RGN].foldl (fun t f => t.setReg (f (otherCmd c)) (t.reg (f c)))
    (s.set (CMD.CPN_CPN (otherCmd c)) (s.get (CMD.CPN_CPN c)))

/-- The pages of the state region are to be sent. -/
def State.joinSent (s : State) (c : Nat) : State :=
  let first := s.get (CMD.SNAP_RGN_SNAP_BASE c)
  let n := s.get (CMD.SNAP_RGN_SNAP_LEN c)
  let t := s.modCmd c (fun y => { y with sending := (List.range n).map (fun p => first + p), copied := [] })
  t.send ⟨.joinSnapshot, c, [t.get (CMD.CPN_CPN c), 4096 * first, 4096 * n]⟩

theorem State.joinSent_get (s : State) (c : Nat) (g : RF) : (s.joinSent c).get g = s.get g :=
  (State.get_of_cell (State.cell_of_regs (State.send_regs _ _) _)).trans (s.modCmd_get c _ g)

/-- The shell with pages to send. -/
theorem State.joinSent_cmd_self (s : State) {c : Nat} (hc : c < 2) : ∃ l, (s.joinSent c).cmd c = { s.cmd c with sending := l, copied := [] } :=
  ⟨_, (State.cmd_send _ _ c).trans (s.cmd_modCmd_self _ hc)⟩

theorem State.joinSent_cmd_other (s : State) (c : Nat) : (s.joinSent c).cmd (otherCmd c) = s.cmd (otherCmd c) :=
  (State.cmd_send _ _ _).trans (s.cmd_modCmd_ne _ (otherCmd_ne c))

theorem State.joinSnapshot_sends (s : State) (c : Nat) (hc : s.role c = 3) (hj : s.role (otherCmd c) = 1)
    (hw : (s.cmd (otherCmd c)).joinWait = true) (hl : s.get (CMD.JRNL_RGN_JRNL_LEN c) ≠ 0) :
    s.joinSnapshot c = ((s.joinMade c).joinConfigured c).joinSent c := by
  unfold State.joinSnapshot
  dsimp only
  rw [if_pos (by rw [hc, hj, hw]; rfl), if_neg hl]
  rfl

theorem State.joinSnapshot_cases (s : State) (c : Nat) : s.joinSnapshot c = s ∨ s.joinSnapshot c = s.joinFailed (otherCmd c) ∨
    s.joinSnapshot c = ((s.joinMade c).joinConfigured c).joinSent c := by
  unfold State.joinSnapshot
  extract_lets j
  split
  case isFalse => exact .inl rfl
  split
  · exact .inr (.inl rfl)
  · exact .inr (.inr rfl)

/-- The registers that the joining die takes from the shell. -/
def joinRegs (c : Nat) : List Nat := [CMD.CPN c, CMD.CMDCFG c, CMD.SNAP_RGN c, CMD.CBUF_RGN c, CMD.JRNL_RGN c]

theorem State.joinConfigured_cell (s : State) (c : Nat) {a : Nat} (ha : a ∉ [CMD.CMDCFG, CMD.SNAP_RGN, CMD.CBUF_RGN, CMD.JRNL_RGN].map
    (fun f => f (otherCmd c))) : (s.joinConfigured c).cell a = (s.set (CMD.CPN_CPN (otherCmd c)) (s.get (CMD.CPN_CPN c))).cell a :=
  List.foldlRecOn (motive := fun t : State => t.cell a = (s.set (CMD.CPN_CPN (otherCmd c)) (s.get (CMD.CPN_CPN c))).cell a) _ _ rfl
    fun t ht f hf => (State.cell_setReg_ne t (f (otherCmd c)) a _ fun e => ha (e ▸ List.mem_map_of_mem hf)).trans ht

theorem State.joinConfigured_cmds (s : State) (c : Nat) : (s.joinConfigured c).cmds = s.cmds :=
  List.foldlRecOn (motive := fun t : State => t.cmds = s.cmds) _ _ (State.set_cmds _ _ _) fun t ht _ _ => (t.setReg_cmds _ _).trans ht

theorem cpn_notMem : ∀ c : Fin 2, ∀ j ∈ [c.val, otherCmd c],
    (CMD.CPN_CPN j).addr ∉ [CMD.CMDCFG, CMD.SNAP_RGN, CMD.CBUF_RGN, CMD.JRNL_RGN].map (fun f => f (otherCmd c)) := by decide

theorem cpn_ne_other : ∀ c : Fin 2, (CMD.CPN_CPN c).addr ≠ (CMD.CPN_CPN (otherCmd c)).addr := by decide

theorem State.joinConfigured_cpn (s : State) (c : Fin 2) : (s.joinConfigured c).get (CMD.CPN_CPN c) = s.get (CMD.CPN_CPN c) :=
  (State.get_of_cell (s.joinConfigured_cell c (cpn_notMem c _ (by simp)))).trans (State.get_set_ne _ _ _ _ (cpn_ne_other c))

/-- The joining die takes the shell's CPN. -/
theorem State.joinConfigured_cpnOther (s : State) (c : Fin 2) :
    (s.joinConfigured c).get (CMD.CPN_CPN (otherCmd c)) = s.get (CMD.CPN_CPN c) := by
  refine (State.get_of_cell (s.joinConfigured_cell c (cpn_notMem c _ (by simp)))).trans ?_
  exact (State.get_set_self s _ _ (of_decide_eq_true rfl)).trans (Nat.mod_eq_of_lt (s.get_lt (CMD.CPN_CPN c)))

/-- A join at a boundary leaves the shell's CPN. -/
theorem State.joinSnapshot_cpn (s : State) (c : Fin 2) : (s.joinSnapshot c).get (CMD.CPN_CPN c) = s.get (CMD.CPN_CPN c) := by
  have hne : ∀ c : Fin 2, CMD.CPN c ≠ ARB.ARBSTAT ∧ CMD.CPN c ≠ ARB.ARBDEC ∧ CMD.CPN c ≠ KPR.KQ := by decide
  obtain ⟨hstat, hdec, hkq⟩ := hne c
  rcases s.joinSnapshot_cases c with h | h | h <;> rw [h]
  · exact State.get_of_cell (s.joinFailed_cell _ hstat hdec hkq)
  · rw [State.joinSent_get, State.joinConfigured_cpn]
    exact State.modCmd_get _ _ _ _

/-- A join at a boundary changes of the shell what it has to send. -/
theorem State.joinSnapshot_tick (s : State) (c : Fin 2) : ((s.joinSnapshot c).cmd c).tick = (s.cmd c).tick ∧
    ((s.joinSnapshot c).cmd c).counted = (s.cmd c).counted := by
  rcases s.joinSnapshot_cases c with h | h | h <;> rw [h]
  · exact ⟨rfl, rfl⟩
  · have hj := (DiesStep.refl CmdDie.offJoin s).joinFailed (otherCmd c) c
    exact ⟨hj.same CmdDie.tick fun _ => rfl, hj.same CmdDie.counted fun _ => rfl⟩
  · obtain ⟨l, hl⟩ := ((s.joinMade c).joinConfigured c).joinSent_cmd_self c.isLt
    have hmade : ((s.joinMade c).joinConfigured c).cmd c = s.cmd c :=
      (State.cmd_of_cmds ((s.joinMade c).joinConfigured_cmds c) c).trans (s.cmd_modCmd_ne _ (otherCmd_ne c).symm)
    rw [hl, hmade]
    exact ⟨rfl, rfl⟩

/-! ### COMMAND_PERIOD_TICK (R343, R373) -/

/-- A tick that is counted, and the source of its time. -/
def State.ticked (s : State) (c d : Nat) : State :=
  (if (s.cmd c).counted then s else s.incMod (CMD.CPN_CPN c)).modCmd c (fun x => { x with tick := some d, counted := false })

theorem State.ticked_get (s : State) {c : Nat} (d : Nat) {g : RF} (hg : (CMD.CPN_CPN c).apart g = true) : (s.ticked c d).get g = s.get g := by
  unfold State.ticked
  rw [State.modCmd_get]
  split
  · rfl
  · exact State.get_set_apart s _ hg

theorem State.ticked_cmds (s : State) (c d : Nat) : (s.ticked c d).cmds = vmod s.cmds c (fun x => { x with tick := some d, counted := false }) := by
  unfold State.ticked
  rw [State.modCmd_cmds]
  split
  · rfl
  · rw [State.incMod_cmds]

theorem commandPeriodTick_next (c : Fin 2) (d : Fin 4) (s : State) (hc : s.role c ≠ 0) (hr : s.mainRuns = true) {P : State → Prop}
    (h : P ((s.ticked c d).joinSnapshot c)) : Completes (exec (.commandPeriodTick c d) s) P := by
  refine completes_whileRuns hr (completes_next ?_)
  rw [if_neg hc]
  exact h

theorem State.ticked_tick (s : State) (c : Fin 2) (d : Nat) : (((s.ticked c d).joinSnapshot c).cmd c).tick = some d ∧
    (((s.ticked c d).joinSnapshot c).cmd c).counted = false := by
  have hself : (s.ticked c d).cmd c = { s.cmd c with tick := some d, counted := false } :=
    (congrArg (vget · c.val) (s.ticked_cmds c d)).trans (vget_vmod_self _ _ _ c.isLt)
  obtain ⟨htick, hcounted⟩ := (s.ticked c d).joinSnapshot_tick c
  exact ⟨htick.trans (hself ▸ rfl), hcounted.trans (hself ▸ rfl)⟩

theorem commandPeriodTick_counts (c : Fin 2) (d : Fin 4) (s : State) (hc : s.role c ≠ 0) (hn : (s.cmd c).counted = false)
    (hr : s.mainRuns = true) : Completes (exec (.commandPeriodTick c d) s) (fun t =>
      t.get (CMD.CPN_CPN c) = (s.get (CMD.CPN_CPN c) + 1) % 2 ^ 32 ∧ (t.cmd c).tick = some d.val) := by
  refine commandPeriodTick_next c d s hc hr ⟨((s.ticked c d).joinSnapshot_cpn c).trans ?_, (s.ticked_tick c d).1⟩
  unfold State.ticked
  rw [hn, if_neg Bool.false_ne_true, State.modCmd_get]
  exact s.get_incMod_self _ (of_decide_eq_true rfl)

theorem commandPeriodTick_counted (c : Fin 2) (d : Fin 4) (s : State) (hc : s.role c ≠ 0) (hn : (s.cmd c).counted = true)
    (hr : s.mainRuns = true) : Completes (exec (.commandPeriodTick c d) s) (fun t =>
      t.get (CMD.CPN_CPN c) = s.get (CMD.CPN_CPN c) ∧ (t.cmd c).tick = some d.val ∧ (t.cmd c).counted = false) := by
  refine commandPeriodTick_next c d s hc hr ⟨((s.ticked c d).joinSnapshot_cpn c).trans ?_, s.ticked_tick c d⟩
  unfold State.ticked
  rw [hn, if_pos rfl, State.modCmd_get]

theorem cpn_apart : ∀ c : Fin 2, ∀ g ∈ [CMD.CMDSTAT_ROLE c, CMD.CMDSTAT_ROLE (otherCmd c), CMD.JRNL_RGN_JRNL_LEN c],
    (CMD.CPN_CPN c).apart g = true := by decide

theorem commandPeriodTick_joins (c : Fin 2) (d : Fin 4) (s : State) (hc : s.role c = 3) (hj : s.role (otherCmd c) = 1)
    (hw : (s.cmd (otherCmd c)).joinWait = true) (hl : s.get (CMD.JRNL_RGN_JRNL_LEN c) ≠ 0) (hr : s.mainRuns = true) :
    Completes (exec (.commandPeriodTick c d) s) (fun t => (t.cmd (otherCmd c)).joinWait = false ∧
      t.get (CMD.CPN_CPN (otherCmd c)) = t.get (CMD.CPN_CPN c) ∧ (t.cmd (otherCmd c)).toRun = []) := by
  refine commandPeriodTick_next c d s (by rw [hc]; decide) hr ?_
  have hother : (s.ticked c d).cmd (otherCmd c) = s.cmd (otherCmd c) :=
    (congrArg (vget · (otherCmd c)) (s.ticked_cmds c d)).trans (vget_vmod_ne _ _ _ _ (otherCmd_ne c))
  have hget : ∀ g ∈ [CMD.CMDSTAT_ROLE c, CMD.CMDSTAT_ROLE (otherCmd c), CMD.JRNL_RGN_JRNL_LEN c], (s.ticked c d).get g = s.get g :=
    fun g hg => s.ticked_get d (cpn_apart c g hg)
  rw [(s.ticked c d).joinSnapshot_sends c ((hget _ (by simp)).trans hc) ((hget _ (by simp)).trans hj) (hother ▸ hw)
    (hget (CMD.JRNL_RGN_JRNL_LEN c) (by simp) ▸ hl)]
  have hmade : ((((s.ticked c d).joinMade c).joinConfigured c).joinSent c).cmd (otherCmd c) = ((s.ticked c d).joinMade c).cmd (otherCmd c) :=
    (State.joinSent_cmd_other _ c).trans (State.cmd_of_cmds (((s.ticked c d).joinMade c).joinConfigured_cmds c) _)
  rw [hmade, State.joinSent_get, State.joinSent_get, State.joinConfigured_cpnOther, State.joinConfigured_cpn]
  refine ⟨?_, rfl, ?_⟩
  · exact congrArg CmdDie.joinWait (State.cmd_modCmd_self _ _ (otherCmd_lt c))
  · exact congrArg CmdDie.toRun (State.cmd_modCmd_self _ _ (otherCmd_lt c))

end Sys2Proof.Machine
end

section
/-! SUPPORT. Records, events and input frames that reach a command die, the close of a snapshot, descriptors, and the start of the shell's
period (for O28). -/

namespace Sys2Proof.Machine

/-! ### Records, events and input frames (R346, R347, R350, R521) -/

theorem execDriveRecordArrival_eq (c : Fin 2) (d : Fin 4) (tick : Nat) (words : List Word) (s : State) {closed : Bool}
    (hc : (if tick = s.get (CMD.CPN_CPN c) then (s.cmd c).tick.isNone else cpnReached (s.get (CMD.CPN_CPN c)) tick) = closed)
    (hr : s.mainRuns = true) : execDriveRecordArrival c d tick words s = .next (if closed then s.incSat (CMD.SKIPCNT_REC_LATE_CNT c)
      else s.modCmd c (fun x => { x with recs := x.recs ++ [⟨tick, d, words⟩] })) := by
  unfold execDriveRecordArrival
  rw [whileRuns_running _ hr]
  dsimp only
  rw [hc]

theorem driveRecordArrival_kept (c : Fin 2) (d : Fin 4) (tick : Nat) (words : List Word) (s : State)
    (hnow : tick = s.get (CMD.CPN_CPN c) → (s.cmd c).tick.isSome = true)
    (hlater : tick ≠ s.get (CMD.CPN_CPN c) → cpnReached (s.get (CMD.CPN_CPN c)) tick = false) (hr : s.mainRuns = true) :
    Completes (exec (.driveRecordArrival c d tick words) s) (fun t =>
      (t.cmd c).recs = (s.cmd c).recs ++ [⟨tick, d, words⟩] ∧ SameBut [.cmds] s t) := by
  refine ⟨_, (execDriveRecordArrival_eq c d tick words s (closed := false) ?_ hr).trans rfl, ?_, State.modCmd_sameBut _ _ _⟩
  · split
    · next h => rw [Option.isNone_eq_false_iff]; exact hnow h
    · next h => exact hlater h
  · exact congrArg CmdDie.recs (State.cmd_modCmd_self _ _ c.isLt)

theorem driveRecordArrival_late (c : Fin 2) (d : Fin 4) (tick : Nat) (words : List Word) (s : State)
    (hnow : tick = s.get (CMD.CPN_CPN c) → (s.cmd c).tick = none)
    (hlater : tick ≠ s.get (CMD.CPN_CPN c) → cpnReached (s.get (CMD.CPN_CPN c)) tick = true) (hr : s.mainRuns = true) :
    Completes (exec (.driveRecordArrival c d tick words) s) (fun t => t.get (CMD.SKIPCNT_REC_LATE_CNT c) =
      min (s.get (CMD.SKIPCNT_REC_LATE_CNT c) + 1) (2 ^ (CMD.SKIPCNT_REC_LATE_CNT c).w - 1) ∧ SameBut [.regs] s t ∧
      RegsBut [CMD.SKIPCNT c] s t) := by
  refine ⟨_, (execDriveRecordArrival_eq c d tick words s (closed := true) ?_ hr).trans rfl, State.get_incSat_self _ _ (of_decide_eq_true rfl),
    State.setReg_sameBut _ _ _, State.setReg_regsBut _ _ _ List.mem_cons_self⟩
  split
  · next h => rw [hnow h]; rfl
  · next h => exact hlater h

theorem eventFlitArrival_kept (c : Fin 2) (words : List Word) (s : State) (hr : s.mainRuns = true) :
    Completes (exec (.eventFlitArrival c words) s) (fun t => (t.cmd c).events = (s.cmd c).events ++ [words] ∧ SameBut [.cmds] s t) :=
  completes_whileRuns hr (completes_next ⟨congrArg CmdDie.events (State.cmd_modCmd_self _ _ c.isLt), State.modCmd_sameBut _ _ _⟩)

theorem State.answerRouted_none (s : State) (h : s.dict.cmdWait = none) : s.answerRouted = s := by
  unfold State.answerRouted
  rw [h]

/-- The oldest frame in transit arrives, while no write waits for an answer. -/
theorem execInputFrameArrival_eq (c : Fin 2) (f : InputFrame) (r : List InputFrame) (s : State) (hf : (s.cmd c).inFrames = f :: r)
    (hw : s.dict.cmdWait = none) (hr : s.mainRuns = true) : execInputFrameArrival c s = .next (s.modCmd c (fun x =>
      { x with inFrames := r, frames := if f.bsn ≤ x.bsnLast then x.frames else x.frames ++ [f] })) := by
  unfold execInputFrameArrival State.inputFrameArrival
  rw [whileRuns_running _ hr, hf]
  dsimp only
  rw [State.answerRouted_none _ (by rw [State.modCmd_dict]; exact hw)]

theorem inputFrameArrival_kept (c : Fin 2) (f : InputFrame) (r : List InputFrame) (s : State) (hf : (s.cmd c).inFrames = f :: r)
    (hw : s.dict.cmdWait = none) (hb : (s.cmd c).bsnLast < f.bsn) (hr : s.mainRuns = true) :
    Completes (exec (.inputFrameArrival c) s) (fun t => (t.cmd c).inFrames = r ∧ (t.cmd c).frames = (s.cmd c).frames ++ [f] ∧
      SameBut [.cmds] s t) := by
  refine completes_of_eq (execInputFrameArrival_eq c f r s hf hw hr) ?_
  rw [State.cmd_modCmd_self _ _ c.isLt]
  exact ⟨rfl, if_neg (Nat.not_le.2 hb), State.modCmd_sameBut _ _ _⟩

theorem inputFrameArrival_covered (c : Fin 2) (f : InputFrame) (r : List InputFrame) (s : State) (hf : (s.cmd c).inFrames = f :: r)
    (hw : s.dict.cmdWait = none) (hb : f.bsn ≤ (s.cmd c).bsnLast) (hr : s.mainRuns = true) :
    Completes (exec (.inputFrameArrival c) s) (fun t => (t.cmd c).inFrames = r ∧ (t.cmd c).frames = (s.cmd c).frames ∧ SameBut [.cmds] s t) := by
  refine completes_of_eq (execInputFrameArrival_eq c f r s hf hw hr) ?_
  rw [State.cmd_modCmd_self _ _ c.isLt]
  exact ⟨rfl, if_pos hb, State.modCmd_sameBut _ _ _⟩

/-! ### Descriptors compared (R353) -/

/-- A command die without what a start changes nor what the comparison of two descriptors does. -/
def CmdDie.offCompare (x : CmdDie) : CmdDie := { x.offStart with diff := false }

theorem CmdDie.offCompare_offStart (x : CmdDie) : x.offStart.offCompare = x.offCompare := rfl

/-- The words in which two descriptors differ. -/
def descriptorDiff (a b : List Word) : List Nat := (List.range 10).filter (fun i => decide (a.getD i 0 ≠ b.getD i 0))

theorem State.compareDescriptors_eq (s : State) (c : Nat) (a b : List Word) : s.compareDescriptors c a b =
    if (descriptorDiff a b).isEmpty then s.modCmd c (fun x => { x with diff := !(descriptorDiff a b).isEmpty })
    else ((s.modCmd c (fun x => { x with diff := !(descriptorDiff a b).isEmpty })).incSat (CMD.SNAPCNT_DIFF_CNT c)).orBits
      (CMD.SNAP_LOG_SNAP_LOG c) ((descriptorDiff a b).foldl (fun m i => m + 2 ^ i) 0) := rfl

theorem DiesStep.compareDescriptors {r s : State} (h : DiesStep CmdDie.offCompare r s) (c : Nat) (a b : List Word) :
    DiesStep CmdDie.offCompare r (s.compareDescriptors c a b) := by
  have hdiff : DiesStep CmdDie.offCompare r (s.modCmd c (fun x => { x with diff := !(descriptorDiff a b).isEmpty })) :=
    h.modCmd c _ fun _ => ⟨rfl, .inl rfl, .inl rfl⟩
  rw [State.compareDescriptors_eq]
  exact hdiff.ite ((hdiff.set (CMD.SNAPCNT_DIFF_CNT c) _).set (CMD.SNAP_LOG_SNAP_LOG c) _)

theorem DiesStep.compareStart {r s : State} (h : DiesStep CmdDie.offCompare r s) (c : Nat) : DiesStep CmdDie.offCompare r (s.tryStart c) :=
  h.trans (((DiesStep.refl CmdDie.offStart s).tryStart c).mono CmdDie.offCompare_offStart)

/-- Two descriptors that differ are counted, and the die shows it. -/
theorem State.compareDescriptors_differs (s : State) (c : Fin 2) {a b : List Word}
    (h : (List.range 10).any (fun i => decide (a.getD i 0 ≠ b.getD i 0)) = true) : ((s.compareDescriptors c a b).cmd c).diff = true ∧
      (s.compareDescriptors c a b).get (CMD.SNAPCNT_DIFF_CNT c) = min (s.get (CMD.SNAPCNT_DIFF_CNT c) + 1) (2 ^ (CMD.SNAPCNT_DIFF_CNT c).w - 1) := by
  have hne : (descriptorDiff a b).isEmpty = false := by
    obtain ⟨i, hi, hd⟩ := List.any_eq_true.1 h
    exact List.isEmpty_eq_false_iff_exists_mem.2 ⟨i, List.mem_filter.2 ⟨hi, hd⟩⟩
  have hlog : (CMD.SNAP_LOG_SNAP_LOG c).apart (CMD.SNAPCNT_DIFF_CNT c) = true := by revert c; decide
  rw [State.compareDescriptors_eq, hne, if_neg Bool.false_ne_true]
  refine ⟨?_, ?_⟩
  · rw [State.cmd_of_cmds (State.orBits_cmds _ _ _), State.cmd_of_cmds (State.incSat_cmds _ _), State.cmd_modCmd_self _ _ c.isLt]
    rfl
  · refine (State.get_set_apart _ _ hlog).trans ((State.get_incSat_self _ _ (of_decide_eq_true rfl)).trans ?_)
    rw [State.modCmd_get]

/-! ### SNAPSHOT_CLOSE (R345, R348) -/

/-- The die as its snapshot `q` closes. -/
def CmdDie.closing (q : Snapshot) (x : CmdDie) : CmdDie :=
  { x with
    tick := none, events := [], bsnLast := (q.word 4).toNat
    recs := x.recs.filter (fun r => !cpnReached q.cpn r.tick)
    closed := x.closed ++ [q], own := (x.own ++ [q]).drop (x.own.length - 7), ready := false }

/-- The closed snapshot's descriptor goes to the other die over the link that is left. -/
def State.descriptorSent (s : State) (c : Nat) (q : Snapshot) : State :=
  if s.peerGone c then s
  else (s.modCmd (otherCmd c) (fun x => { x with inbox := x.inbox ++ [q.desc] })).send ⟨.descriptor, c, q.desc.map BitVec.toNat⟩

/-- The other die's descriptor of the same tick, where it has come. -/
def State.descriptorMatched (s : State) (c : Nat) (q : Snapshot) : State :=
  match (s.cmd c).received.find? (fun r => decide (r.getD 0 0 = q.word 0)) with
  | some r => (s.compareDescriptors c q.desc r).modCmd c (fun x => { x with ready := true })
  | none => s

theorem execSnapshotClose_eq (c : Fin 2) (din : BitVec 16) {k : Nat} (s : State) (hk : (s.cmd c).tick = some k) (hr : s.mainRuns = true) :
    execSnapshotClose c din s = .next (((((s.modCmd c (CmdDie.closing (s.snapshot c k din))).descriptorSent c (s.snapshot c k din)).descriptorMatched
      c (s.snapshot c k din))).tryStart c) := by
  unfold execSnapshotClose
  rw [whileRuns_running _ hr, hk]
  rfl

theorem DiesStep.descriptorMatched {r s : State} (h : DiesStep CmdDie.offCompare r s) (c : Nat) (q : Snapshot) :
    DiesStep CmdDie.offCompare r (s.descriptorMatched c q) := by
  unfold State.descriptorMatched
  split
  · exact (h.compareDescriptors c _ _).modCmd c _ fun _ => ⟨rfl, .inl rfl, .inl rfl⟩
  · exact h

theorem State.descriptorSent_cmd_self (s : State) (c : Nat) (q : Snapshot) : (s.descriptorSent c q).cmd c = s.cmd c := by
  unfold State.descriptorSent
  split
  · rfl
  · rw [State.cmd_send, State.cmd_modCmd_ne _ _ (otherCmd_ne c).symm]

theorem State.descriptorSent_inbox (s : State) (c : Nat) (q : Snapshot) : ((s.descriptorSent c q).cmd (otherCmd c)).inbox =
    if s.peerGone c then (s.cmd (otherCmd c)).inbox else (s.cmd (otherCmd c)).inbox ++ [q.desc] := by
  unfold State.descriptorSent
  split
  · rfl
  · rw [State.cmd_send, State.cmd_modCmd_self _ _ (otherCmd_lt c)]

/-- What a closed snapshot makes of the die's own list. -/
theorem getLast?_own (l : List Snapshot) (q : Snapshot) : ((l ++ [q]).drop (l.length - 7)).getLast? = some q := by
  rw [List.getLast?_drop, if_neg (by rw [List.length_append, List.length_singleton]; omega), List.getLast?_concat]

theorem State.modCmd_peerGone (s : State) (c j : Nat) (f : CmdDie → CmdDie) : (s.modCmd j f).peerGone c = s.peerGone c :=
  State.flag_of_cell (s.modCmd_cell j f _)

/-- The close of a snapshot at the die and, by its descriptor, at the other one, whatever starts then. -/
theorem snapshotClose_closes (c : Fin 2) (din : BitVec 16) (k : Nat) (s : State) (hk : (s.cmd c).tick = some k) (hr : s.mainRuns = true) :
    Completes (exec (.snapshotClose c din) s) (fun t => (t.cmd c).tick = none ∧ (t.cmd c).events = [] ∧
      (t.cmd c).own.getLast? = some (s.snapshot c k din) ∧ (t.cmd c).bsnLast = ((s.snapshot c k din).word 4).toNat ∧
      (t.cmd (otherCmd c)).inbox = if s.peerGone c then (s.cmd (otherCmd c)).inbox
        else (s.cmd (otherCmd c)).inbox ++ [(s.snapshot c k din).desc]) := by
  refine completes_of_eq (execSnapshotClose_eq c din s hk hr) ?_
  generalize s.snapshot c k din = q
  have hstep := ((DiesStep.refl CmdDie.offCompare ((s.modCmd c (CmdDie.closing q)).descriptorSent c q)).descriptorMatched c q).compareStart c
  have hself : ((s.modCmd c (CmdDie.closing q)).descriptorSent c q).cmd c = (s.cmd c).closing q :=
    (State.descriptorSent_cmd_self _ c q).trans (s.cmd_modCmd_self _ c.isLt)
  have hinbox := (s.modCmd c (CmdDie.closing q)).descriptorSent_inbox c q
  rw [s.modCmd_peerGone, s.cmd_modCmd_ne _ (otherCmd_ne c)] at hinbox
  refine ⟨((hstep c).same CmdDie.tick fun _ => rfl).trans ?_, ((hstep c).same CmdDie.events fun _ => rfl).trans ?_, ?_,
    ((hstep c).same CmdDie.bsnLast fun _ => rfl).trans ?_, ((hstep (otherCmd c)).same CmdDie.inbox fun _ => rfl).trans hinbox⟩
  · rw [hself]
    rfl
  · rw [hself]
    rfl
  · rw [(hstep c).same CmdDie.own fun _ => rfl, hself]
    exact getLast?_own _ q
  · rw [hself]
    rfl

theorem snapshotClose_tells (c : Fin 2) (din : BitVec 16) (k : Nat) (s : State) (hk : (s.cmd c).tick = some k) (hp : s.peerGone c = false)
    (hr : s.mainRuns = true) : Completes (exec (.snapshotClose c din) s) (fun t => (t.cmd c).tick = none ∧ (t.cmd c).events = [] ∧
      (t.cmd c).own.getLast? = some (s.snapshot c k din) ∧ (t.cmd c).bsnLast = ((s.snapshot c k din).word 4).toNat ∧
      (t.cmd (otherCmd c)).inbox = (s.cmd (otherCmd c)).inbox ++ [(s.snapshot c k din).desc]) := by
  have h := snapshotClose_closes c din k s hk hr
  rwa [hp] at h

theorem snapshotClose_alone (c : Fin 2) (din : BitVec 16) (k : Nat) (s : State) (hk : (s.cmd c).tick = some k) (hp : s.peerGone c = true)
    (hr : s.mainRuns = true) : Completes (exec (.snapshotClose c din) s) (fun t => (t.cmd c).tick = none ∧
      (t.cmd c).own.getLast? = some (s.snapshot c k din) ∧ (t.cmd (otherCmd c)).inbox = (s.cmd (otherCmd c)).inbox) := by
  obtain ⟨t, ht, htick, -, hown, -, hinbox⟩ := snapshotClose_closes c din k s hk hr
  rw [hp] at hinbox
  exact ⟨t, ht, htick, hown, hinbox⟩

/-! ### DESCRIPTOR_RECEIVED (R349, R353) -/

/-- The oldest descriptor in transit is taken in; the last eight are held. -/
def State.descriptorTaken (s : State) (c : Nat) (d : List Word) (r : List (List Word)) : State :=
  s.modCmd c (fun x => { x with inbox := r, received := (x.received ++ [d]).drop (x.received.length - 7) })

/-- The die's newest closed snapshot is that of descriptor `d`. -/
def State.newestIs (s : State) (c : Nat) (d : List Word) : Bool :=
  match (s.cmd c).closed.getLast? with | some q => decide (q.word 0 = d.getD 0 0) | none => false

/-- What a descriptor brings for the tick of the die's own snapshot `q`. -/
def State.descriptorAnswered (s : State) (c : Nat) (q : Snapshot) (d : List Word) : State :=
  let t := s.compareDescriptors c q.desc d
  if t.newestIs c d then t.modCmd c (fun x => { x with ready := true }) else t

theorem execDescriptorReceived_eq (c : Fin 2) {d : List Word} {r : List (List Word)} (s : State) (hi : (s.cmd c).inbox = d :: r)
    (hr : s.mainRuns = true) : execDescriptorReceived c s = .next (
      match ((s.descriptorTaken c d r).cmd c).own.find? (fun x => decide (x.word 0 = d.getD 0 0)) with
      | some q => ((s.descriptorTaken c d r).descriptorAnswered c q d).tryStart c
      | none => s.descriptorTaken c d r) := by
  unfold execDescriptorReceived
  rw [whileRuns_running _ hr, hi]
  rfl

theorem DiesStep.descriptorAnswered {r s : State} (h : DiesStep CmdDie.offCompare r s) (c : Nat) (q : Snapshot) (d : List Word) :
    DiesStep CmdDie.offCompare r (s.descriptorAnswered c q d) := by
  have hcmp := h.compareDescriptors c q.desc d
  unfold State.descriptorAnswered
  refine DiesStep.ite (hcmp.modCmd c _ ?_) hcmp
  exact fun _ => ⟨rfl, .inl rfl, .inl rfl⟩

theorem descriptorReceived_held (c : Fin 2) (d : List Word) (r : List (List Word)) (s : State) (hi : (s.cmd c).inbox = d :: r)
    (hr : s.mainRuns = true) : Completes (exec (.descriptorReceived c) s) (fun t => (t.cmd c).inbox = r ∧
      (t.cmd c).received = ((s.cmd c).received ++ [d]).drop ((s.cmd c).received.length - 7)) := by
  refine completes_of_eq (execDescriptorReceived_eq c s hi hr) ?_
  have hself : (s.descriptorTaken c d r).cmd c =
      { s.cmd c with inbox := r, received := ((s.cmd c).received ++ [d]).drop ((s.cmd c).received.length - 7) } := s.cmd_modCmd_self _ c.isLt
  split
  case h_1 q _ =>
    have hstep := ((DiesStep.refl CmdDie.offCompare (s.descriptorTaken c d r)).descriptorAnswered c q d).compareStart c c
    rw [hstep.same CmdDie.inbox fun _ => rfl, hstep.same CmdDie.received fun _ => rfl, hself]
    exact ⟨rfl, rfl⟩
  case h_2 =>
    rw [hself]
    exact ⟨rfl, rfl⟩

theorem diffCnt_offStart : ∀ c : Fin 2, (CMD.SNAPCNT_DIFF_CNT c).offStart c = true := by decide

theorem diffCnt_ne_done : ∀ c : Fin 2, (CMD.SNAPCNT_DIFF_CNT c).addr ≠ CMD.DONE c := by decide

theorem descriptorReceived_differs (c : Fin 2) (d : List Word) (r : List (List Word)) (q : Snapshot) (s : State)
    (hi : (s.cmd c).inbox = d :: r) (hq : (s.cmd c).own.find? (fun x => decide (x.word 0 = d.getD 0 0)) = some q)
    (hd : (List.range 10).any (fun i => decide (q.desc.getD i 0 ≠ d.getD i 0)) = true) (hr : s.mainRuns = true) :
    Completes (exec (.descriptorReceived c) s) (fun t => (t.cmd c).diff = true ∧
      t.get (CMD.SNAPCNT_DIFF_CNT c) = min (s.get (CMD.SNAPCNT_DIFF_CNT c) + 1) (2 ^ (CMD.SNAPCNT_DIFF_CNT c).w - 1)) := by
  refine completes_of_eq (execDescriptorReceived_eq c s hi hr) ?_
  have hown : ((s.descriptorTaken c d r).cmd c).own = (s.cmd c).own := by
    unfold State.descriptorTaken
    rw [State.cmd_modCmd_self _ _ c.isLt]
  rw [hown, hq]
  dsimp only
  obtain ⟨hdiff, hcnt⟩ := (s.descriptorTaken c d r).compareDescriptors_differs c hd
  have hready : (((s.descriptorTaken c d r).descriptorAnswered c q d).cmd c).diff = true ∧
      ((s.descriptorTaken c d r).descriptorAnswered c q d).get (CMD.SNAPCNT_DIFF_CNT c) =
        ((s.descriptorTaken c d r).compareDescriptors c q.desc d).get (CMD.SNAPCNT_DIFF_CNT c) := by
    unfold State.descriptorAnswered
    extract_lets t
    split
    · rw [State.cmd_modCmd_self _ _ c.isLt, State.modCmd_get]
      exact ⟨hdiff, rfl⟩
    · exact ⟨hdiff, rfl⟩
  refine ⟨?_, ?_⟩
  · rw [((DiesStep.refl CmdDie.offStart _).tryStart c c).same CmdDie.diff fun _ => rfl]
    exact hready.1
  · rw [State.tryStart_field _ (diffCnt_offStart c) (diffCnt_ne_done c), hready.2, hcnt]
    unfold State.descriptorTaken
    rw [State.modCmd_get]

/-! ### DESCRIPTOR_WAIT_TIMEOUT (R349, R351, R369) -/

/-- The mark of a fail-over or of a halt leaves a snapshot's CPN. -/
theorem Snapshot.mark_cpn (q : Snapshot) (failover resumed : Bool) : (q.mark failover resumed).cpn = q.cpn := by
  unfold Snapshot.mark
  split
  case isFalse => rfl
  case isTrue =>
    unfold Snapshot.cpn Snapshot.word
    dsimp only
    cases q.desc
    case nil =>
      change (BitVec.ofNat 32 (crcWords [])).toNat = 0
      decide
    case cons w ws => rfl

theorem State.tryStart_starts (s : State) (c : Nat) {q : Snapshot} (hc : s.role c = 3) (hrun : (s.cmd c).run = none)
    (hq : (s.cmd c).closed.getLast? = some q) (hready : (s.cmd c).ready = true) (hclaim : (s.cmd c).claim = false)
    (hhalt : s.flag (CMD.DBGSTAT_HALTED c) = false) (htake : s.flag (CMD.CMDSTAT_TAKE c) = false) : s.tryStart c = s.startOn c q := by
  unfold State.tryStart
  dsimp only
  rw [hrun, hq, hready, hclaim, hhalt, htake, hc]
  rfl

theorem State.tryStart_claims (s : State) (c : Nat) {q : Snapshot} (hrun : (s.cmd c).run = none)
    (hq : (s.cmd c).closed.getLast? = some q) (hready : (s.cmd c).ready = true) (hclaim : (s.cmd c).claim = false)
    (hhalt : s.flag (CMD.DBGSTAT_HALTED c) = false) (htake : s.flag (CMD.CMDSTAT_TAKE c) = true) : s.tryStart c = s.claimSent c q.cpn := by
  unfold State.tryStart
  dsimp only
  rw [hrun, hq, hready, hclaim, hhalt, htake]
  rfl

/-- The die is ready for its newest snapshot. -/
def State.madeReady (s : State) (c : Nat) : State := s.modCmd c (fun x => { x with ready := !x.closed.isEmpty })

theorem State.madeReady_cmd (s : State) (c : Fin 2) {q : Snapshot} (hq : (s.cmd c).closed.getLast? = some q) :
    (s.madeReady c).cmd c = { s.cmd c with ready := true } := by
  have hne : (s.cmd c).closed.isEmpty = false := by
    cases hl : (s.cmd c).closed
    case nil =>
      rw [hl] at hq
      cases hq
    case cons => rfl
  unfold State.madeReady
  rw [State.cmd_modCmd_self _ _ c.isLt, hne]
  rfl

theorem execDescriptorWaitTimeout_eq (c : Fin 2) (s : State) (hc : s.role c = 3) (hr : s.mainRuns = true) :
    execDescriptorWaitTimeout c s = .next ((s.madeReady c).tryStart c) := by
  unfold execDescriptorWaitTimeout
  rw [whileRuns_running _ hr, if_pos hc]
  rfl

theorem descriptorWaitTimeout_claims (c : Fin 2) (q : Snapshot) (s : State) (hc : s.role c = 3) (hrun : (s.cmd c).run = none)
    (hq : (s.cmd c).closed.getLast? = some q) (hclaim : (s.cmd c).claim = false) (hhalt : s.flag (CMD.DBGSTAT_HALTED c) = false)
    (htake : s.flag (CMD.CMDSTAT_TAKE c) = true) (hr : s.mainRuns = true) : Completes (exec (.descriptorWaitTimeout c) s) (fun t =>
      (t.cmd c).claim = true ∧ (t.cmd c).run = none ∧ t.out = ⟨.claim, c, [q.cpn]⟩ :: s.out ∧ SameBut [.cmds, .out] s t) := by
  have hcmd := s.madeReady_cmd c hq
  have hstart : (s.madeReady c).tryStart c = (s.madeReady c).claimSent c q.cpn := by
    refine State.tryStart_claims _ c (by rw [hcmd]; exact hrun) (by rw [hcmd]; exact hq) (by rw [hcmd]) (by rw [hcmd]; exact hclaim) ?_ ?_
    · exact (State.flag_of_get (s.modCmd_get c _ _)).trans hhalt
    · exact (State.flag_of_get (s.modCmd_get c _ _)).trans htake
  have : Open (fun p => p ∉ [Part.cmds, .out]) .cmds := open_of_mem (by decide)
  have : Open (fun p => p ∉ [Part.cmds, .out]) .out := open_of_mem (by decide)
  have hself : ((s.madeReady c).claimSent c q.cpn).cmd c = { (s.madeReady c).cmd c with claim := true } :=
    (State.cmd_send _ _ c).trans (State.cmd_modCmd_self _ _ c.isLt)
  refine completes_of_eq ((execDescriptorWaitTimeout_eq c s hc hr).trans (congrArg _ hstart)) ⟨?_, ?_, rfl, ?_⟩
  · rw [hself]
  · rw [hself, hcmd]
    exact hrun
  · exact Keeps.sameBut (State.send_keeps (State.modCmd_keeps (State.modCmd_keeps (Keeps.refl _ s) c _) c _) _)

theorem State.snapshotTaken_closed (s : State) (c : Fin 2) : ((s.snapshotTaken c).cmd c).closed = [] := by
  unfold State.snapshotTaken
  extract_lets skipped
  rw [State.cmd_modCmd_self _ _ c.isLt]

theorem State.snapshotTaken_other (s : State) (c : Nat) : (s.snapshotTaken c).cmd (otherCmd c) = s.cmd (otherCmd c) :=
  (State.cmd_modCmd_ne _ _ (otherCmd_ne c)).trans (State.cmd_set _ _ _ _)

theorem State.snapshotTaken_get (s : State) (c : Nat) {g : RF} (hg : (CMD.SKIPCNT_SKIP_CNT c).apart g = true) :
    (s.snapshotTaken c).get g = s.get g := (State.modCmd_get _ _ _ _).trans (State.get_set_apart _ _ hg)

/-- The other die is told: it runs, waits for no join, and is in reach. -/
theorem State.toldOther_tells (s : State) (c : Nat) (q : Snapshot) (hl : s.role (otherCmd c) ≠ 0)
    (hw : (s.cmd (otherCmd c)).joinWait = false) (hp : s.peerGone c = false) :
    s.toldOther c q = s.modCmd (otherCmd c) (fun x => { x with toRun := x.toRun ++ [q] }) := by
  unfold State.toldOther
  rw [hw, hp, decide_eq_false hl]
  rfl

/-- A period that begins on `q` runs it. -/
theorem State.beginPeriod_runs (s : State) (c : Fin 2) (q : Snapshot) : ((s.beginPeriod c q).cmd c).run = some q ∧
    ((s.beginPeriod c q).cmd c).lastCpn = q.cpn := by
  rw [State.beginPeriod_eq, State.cmd_modCmd_self _ _ c.isLt]
  exact ⟨rfl, rfl⟩

theorem skipCnt_apart : ∀ c : Fin 2, ∀ g ∈ [CMD.CMDSTAT_ROLE (otherCmd c), ELINK.STAT_LINK_DOWN (Die.command c) 0],
    (CMD.SKIPCNT_SKIP_CNT c).apart g = true := by decide

theorem descriptorWaitTimeout_starts (c : Fin 2) (q : Snapshot) (s : State) (hc : s.role c = 3) (hrun : (s.cmd c).run = none)
    (hq : (s.cmd c).closed.getLast? = some q) (hclaim : (s.cmd c).claim = false) (hhalt : s.flag (CMD.DBGSTAT_HALTED c) = false)
    (htake : s.flag (CMD.CMDSTAT_TAKE c) = false) (hl : s.role (otherCmd c) ≠ 0) (hw : (s.cmd (otherCmd c)).joinWait = false)
    (hp : s.peerGone c = false) (hr : s.mainRuns = true) : Completes (exec (.descriptorWaitTimeout c) s) (fun t =>
      (t.cmd c).run = some (q.mark (s.cmd c).failover (s.cmd c).resumed) ∧ (t.cmd c).lastCpn = q.cpn ∧ (t.cmd c).closed = [] ∧
      t.reg (CMD.DONE c) = 0 ∧ (t.cmd (otherCmd c)).toRun = (s.cmd (otherCmd c)).toRun ++ [q.mark (s.cmd c).failover (s.cmd c).resumed]) := by
  have hcmd := s.madeReady_cmd c hq
  have hget : ∀ g, (s.madeReady c).get g = s.get g := fun g => s.modCmd_get c _ g
  have hother : (s.madeReady c).cmd (otherCmd c) = s.cmd (otherCmd c) := s.cmd_modCmd_ne _ (otherCmd_ne c)
  have hstart : (s.madeReady c).tryStart c = (s.madeReady c).startOn c q :=
    State.tryStart_starts _ c ((hget _).trans hc) (by rw [hcmd]; exact hrun) (by rw [hcmd]; exact hq) (by rw [hcmd])
      (by rw [hcmd]; exact hclaim) ((State.flag_of_get (hget _)).trans hhalt) ((State.flag_of_get (hget _)).trans htake)
  refine completes_of_eq ((execDescriptorWaitTimeout_eq c s hc hr).trans (congrArg _ hstart)) ?_
  unfold State.startOn
  rw [hcmd]
  dsimp only
  generalize hm : q.mark (s.cmd c).failover (s.cmd c).resumed = m
  have htold := ((s.madeReady c).snapshotTaken c).toldOther_tells c m
    (fun h => hl (((State.snapshotTaken_get _ c (skipCnt_apart c _ (by simp))).trans (hget _)).symm.trans h))
    (by rw [State.snapshotTaken_other, hother]; exact hw)
    ((State.flag_of_get (State.snapshotTaken_get _ c (skipCnt_apart c _ (by simp)))).trans ((State.flag_of_get (hget _)).trans hp))
  rw [htold]
  generalize hu : State.modCmd _ (otherCmd c) _ = u
  obtain ⟨hruns, hcpn⟩ := u.beginPeriod_runs c m
  have hstep := (DiesStep.refl CmdDie.offPeriod u).beginPeriod c m
  refine ⟨hruns, hcpn.trans (hm ▸ q.mark_cpn _ _), ((hstep c).same CmdDie.closed fun _ => rfl).trans ?_, u.beginPeriod_done c m,
    ((hstep (otherCmd c)).same CmdDie.toRun fun _ => rfl).trans ?_⟩
  · rw [← hu, State.cmd_modCmd_ne _ _ (otherCmd_ne c).symm, State.snapshotTaken_closed]
  · rw [← hu, State.cmd_modCmd_self _ _ (otherCmd_lt c), State.snapshotTaken_other, hother]

end Sys2Proof.Machine
end

section
/-! SUPPORT and the obligation on snapshots and periods (O28): the liner's fetch and its return to JOIN, DONE and the heartbeat. -/

namespace Sys2Proof.Machine

/-! ### A halt that is reached (R382) -/

/-- A command die without what a core that issues a write changes: its count, and a halt that it reaches. -/
def CmdDie.offIssue (x : CmdDie) : CmdDie := { x with issued := Vector.replicate 4 0, haltAt := none }

theorem DiesStep.haltCheck {r s : State} (h : DiesStep CmdDie.offIssue r s) (c : Nat) : DiesStep CmdDie.offIssue r (s.haltCheck c) := by
  unfold State.haltCheck
  extract_lets x
  split
  case h_2 => exact h
  case h_1 n v =>
    refine DiesStep.ite ((h.setB _ true).modCmd c _ ?_) h
    exact fun _ => ⟨rfl, .inl rfl, .inl rfl⟩

theorem State.haltCheck_cell (s : State) (c : Nat) {a : Nat} (ha : a ≠ CMD.DBGSTAT c) : (s.haltCheck c).cell a = s.cell a := by
  unfold State.haltCheck
  extract_lets x
  split
  case h_2 => rfl
  case h_1 n v =>
    split
    · rw [State.modCmd_cell, State.cell_setB_ne _ _ _ _ ha]
    · rfl

theorem DiesStep.coreIssued {r s : State} (h : DiesStep CmdDie.offIssue r s) (c k : Nat) : DiesStep CmdDie.offIssue r (s.coreIssued c k) := by
  have hcount : DiesStep CmdDie.offIssue r (s.modCmd c (fun x => { x with issued := vmod x.issued k (· + 1) })) :=
    h.modCmd c _ fun _ => ⟨rfl, .inl rfl, .inl rfl⟩
  exact hcount.haltCheck c

theorem State.coreIssued_cell (s : State) (c k : Nat) {a : Nat} (ha : a ≠ CMD.DBGSTAT c) : (s.coreIssued c k).cell a = s.cell a :=
  (State.haltCheck_cell _ c ha).trans (s.modCmd_cell c _ a)

theorem State.coreIssued_sameBut (s : State) (c k : Nat) : SameBut [.regs, .cmds] s (s.coreIssued c k) :=
  have : Open (fun p => p ∉ [Part.regs, .cmds]) .regs := open_of_mem (by decide)
  have : Open (fun p => p ∉ [Part.regs, .cmds]) .cmds := open_of_mem (by decide)
  Keeps.sameBut (State.coreIssued_keeps (Keeps.refl _ s) c k)

/-! ### FETCH_COMPLETE (R338, R350, R372, R374) -/

/-- The liner takes `d` and what follows it out of its queue; a joining die first loads the state region. -/
def State.fetchTaken (s : State) (c : Nat) (d : Snapshot) (rest : List Snapshot) (n : Nat) : State :=
  ((if s.role c = 1 then s.joinLoad c else s).addSat (CMD.SNAPCNT_FETCH_CNT c) n).modCmd c (fun x => { x with
    toRun := rest, closed := x.closed.filter (fun r => !cpnReached d.cpn r.cpn)
    bsnLast := if x.own.any (fun r => !cpnReached d.cpn r.cpn) then x.bsnLast else (d.word 4).toNat })

/-- The liner's period on `q`, of which it fetched `n` items. -/
def State.fetchedPeriod (s : State) (c : Nat) (q : Snapshot) (n : Nat) : State :=
  ((s.beginPeriod c q).modCmd c (fun x => { x with fetch := decide (0 < n), late := false, resumed := false })).haltCheck c

/-- The conditions under which the next snapshot of the queue is run (R350, R352, R374, R382). -/
structure State.Fetches (s : State) (c : Nat) (q : Snapshot) (r : List Snapshot) : Prop where
  follows : (s.role c = 2 ∧ (s.cmd c).received.any (fun x => decide (x.getD 0 0 = q.word 0)) = true) ∨ s.role c = 1
  run : (s.cmd c).run = none
  toRun : (s.cmd c).toRun = q :: r
  take : s.flag (CMD.CMDSTAT_TAKE c) = false
  halted : s.flag (CMD.DBGSTAT_HALTED c) = false

theorem execFetchComplete_eq (c : Fin 2) {q : Snapshot} {r : List Snapshot} (s : State) (h : s.Fetches c q r) (hr : s.mainRuns = true) :
    execFetchComplete c s = .next (if (s.cmd c).nextRole = some 1 then s.enterJoin c
      else (s.fetchTaken c q r ((s.cmd c).fetch' q).2).fetchedPeriod c ((s.cmd c).fetch' q).1 ((s.cmd c).fetch' q).2) := by
  obtain ⟨hfollows, hrun, htoRun, htake, hhalt⟩ := h
  unfold execFetchComplete
  rw [whileRuns_running _ hr]
  dsimp only
  rw [hrun, htoRun, htake, hhalt]
  dsimp only
  have hgo : (!(decide (s.role c = 1) || ((decide (s.role c = 2) || decide ((s.cmd c).nextRole = some 2)) &&
      (s.cmd c).received.any (fun r => decide (r.getD 0 0 = q.word 0)))) || false || false) = false := by
    rcases hfollows with ⟨h2, hrec⟩ | h1
    · rw [h2, hrec]
      simp
    · rw [h1]
      simp
  rw [hgo, if_neg Bool.false_ne_true]
  rfl

theorem State.get_addSat_self (s : State) (f : RF) (k : Nat) (h : f.lo + f.w ≤ 32) :
    (s.addSat f k).get f = min (s.get f + k) (2 ^ f.w - 1) := by
  unfold State.addSat
  rw [State.get_set_self _ _ _ h, Nat.mod_eq_of_lt]
  have := Nat.two_pow_pos f.w
  omega

theorem State.joinLoad_get (s : State) (j : Nat) (g : RF) : (s.joinLoad j).get g = s.get g :=
  have : Open (fun p => p = Part.regs) .mem := open_of_eq (by decide)
  have : Open (fun p => p = Part.regs) .cmds := open_of_eq (by decide)
  State.get_of_cell (Keeps.cell (State.joinLoad_keeps (Keeps.refl (fun p => p = .regs) s) j) g.addr)

theorem State.joinLoad_cmd (s : State) (j : Nat) : (s.joinLoad j).cmd j = s.cmd j := by
  unfold State.joinLoad
  exact State.cmd_modCmd_ne _ _ (otherCmd_ne j).symm

theorem State.fetchTaken_cmd (s : State) (c : Fin 2) (d : Snapshot) (rest : List Snapshot) (n : Nat) :
    (s.fetchTaken c d rest n).cmd c = { s.cmd c with
      toRun := rest, closed := (s.cmd c).closed.filter (fun r => !cpnReached d.cpn r.cpn)
      bsnLast := if (s.cmd c).own.any (fun r => !cpnReached d.cpn r.cpn) then (s.cmd c).bsnLast else (d.word 4).toNat } := by
  have hload : (if s.role c = 1 then s.joinLoad c else s).cmd c = s.cmd c := by
    split
    · exact s.joinLoad_cmd c
    · rfl
  unfold State.fetchTaken
  rw [State.cmd_modCmd_self _ _ c.isLt]
  unfold State.addSat
  rw [State.cmd_set, hload]

theorem State.loaded_get (s : State) (c : Nat) (g : RF) : (if s.role c = 1 then s.joinLoad c else s).get g = s.get g := by
  split
  · exact s.joinLoad_get c g
  · rfl

theorem State.fetchTaken_get (s : State) (c : Nat) (d : Snapshot) (rest : List Snapshot) (n : Nat) {g : RF}
    (hg : (CMD.SNAPCNT_FETCH_CNT c).apart g = true) : (s.fetchTaken c d rest n).get g = s.get g :=
  (State.modCmd_get _ _ _ _).trans ((State.get_set_apart _ _ hg).trans (s.loaded_get c g))

/-- What was fetched is counted. -/
theorem State.fetchTaken_count (s : State) (c : Nat) (d : Snapshot) (rest : List Snapshot) (n : Nat) :
    (s.fetchTaken c d rest n).get (CMD.SNAPCNT_FETCH_CNT c) = min (s.get (CMD.SNAPCNT_FETCH_CNT c) + n) (2 ^ (CMD.SNAPCNT_FETCH_CNT c).w - 1) := by
  unfold State.fetchTaken
  rw [State.modCmd_get, State.get_addSat_self _ _ _ (of_decide_eq_true rfl), s.loaded_get]

theorem State.fetchedPeriod_get (s : State) (c : Nat) (q : Snapshot) (n : Nat) {g : RF} (hg : g.addr ≠ CMD.DBGSTAT c) :
    (s.fetchedPeriod c q n).get g = (s.beginPeriod c q).get g :=
  (State.get_of_cell (State.haltCheck_cell _ c hg)).trans (State.modCmd_get _ _ _ g)

theorem fetchCnt_offStart : ∀ c : Fin 2, (CMD.SNAPCNT_FETCH_CNT c).offStart c = true := by decide

theorem fetchCnt_ne : ∀ c : Fin 2, (CMD.SNAPCNT_FETCH_CNT c).addr ≠ CMD.DONE c ∧ (CMD.SNAPCNT_FETCH_CNT c).addr ≠ CMD.DBGSTAT c ∧
    CMD.DONE c ≠ CMD.DBGSTAT c := by decide

theorem fetchComplete_runs (c : Fin 2) (q : Snapshot) (r : List Snapshot) (s : State)
    (hf : s.role c = 2 ∧ (s.cmd c).received.any (fun x => decide (x.getD 0 0 = q.word 0)) = true ∨ s.role c = 1)
    (hrun : (s.cmd c).run = none) (hq : (s.cmd c).toRun = q :: r) (htake : s.flag (CMD.CMDSTAT_TAKE c) = false)
    (hhalt : s.flag (CMD.DBGSTAT_HALTED c) = false) (hnext : (s.cmd c).nextRole ≠ some 1) (hr : s.mainRuns = true) :
    Completes (exec (.fetchComplete c) s) (fun t => (t.cmd c).run = some ((s.cmd c).fetch' q).1 ∧ (t.cmd c).toRun = r ∧ t.reg (CMD.DONE c) = 0 ∧
      t.get (CMD.SNAPCNT_FETCH_CNT c) =
        min (s.get (CMD.SNAPCNT_FETCH_CNT c) + ((s.cmd c).fetch' q).2) (2 ^ (CMD.SNAPCNT_FETCH_CNT c).w - 1)) := by
  obtain ⟨hdone, hdbg, hdd⟩ := fetchCnt_ne c
  refine completes_of_eq ((execFetchComplete_eq c s ⟨hf, hrun, hq, htake, hhalt⟩ hr).trans (congrArg _ (if_neg hnext))) ?_
  rw [← s.fetchTaken_count c q r]
  have htoRun : ((s.fetchTaken c q r ((s.cmd c).fetch' q).2).cmd c).toRun = r := by rw [State.fetchTaken_cmd]
  generalize s.fetchTaken c q r ((s.cmd c).fetch' q).2 = u at htoRun
  generalize (s.cmd c).fetch' q = x
  have hcheck := (DiesStep.refl CmdDie.offIssue ((u.beginPeriod c x.1).modCmd c
    (fun y => { y with fetch := decide (0 < x.2), late := false, resumed := false }))).haltCheck c c
  have hself := (u.beginPeriod c x.1).cmd_modCmd_self (fun y => { y with fetch := decide (0 < x.2), late := false, resumed := false }) c.isLt
  have hbegin := (DiesStep.refl CmdDie.offPeriod u).beginPeriod c x.1 c
  refine ⟨(hcheck.same CmdDie.run fun _ => rfl).trans ?_, (hcheck.same CmdDie.toRun fun _ => rfl).trans ?_, ?_, ?_⟩
  · rw [hself]
    exact (u.beginPeriod_runs c x.1).1
  · rw [hself]
    exact (hbegin.same CmdDie.toRun fun _ => rfl).trans htoRun
  · refine State.reg_of_word ((State.fetchedPeriod_get u c x.1 x.2 hdd).trans ((State.get_word _ _).trans ?_))
    rw [u.beginPeriod_done]
  · rw [State.fetchedPeriod_get u c x.1 x.2 hdbg, State.beginPeriod_field u x.1 (fetchCnt_offStart c) hdone]

/-! ### Back to JOIN (R338, R372) -/

theorem role_apart_debug : ∀ c : Fin 2, ∀ j ∈ [0, 1], ∀ f ∈ [CMD.DBGSTAT_ATTACHED j, CMD.DBGSTAT_HALTED j, CMD.DBGSTAT_DBG_DROP j],
    f.apart (CMD.CMDSTAT_ROLE c) = true := by decide

/-- A die that takes a role holds it. -/
theorem State.takeRole_role (s : State) (c : Fin 2) {role : Nat} (h : role < 4) : (s.takeRole c role).role c = role := by
  unfold State.takeRole
  split
  · next e => exact e.symm
  · have hset : (s.set (CMD.CMDSTAT_ROLE c) role).get (CMD.CMDSTAT_ROLE c) = role :=
      (State.get_set_self _ _ _ (of_decide_eq_true rfl)).trans (Nat.mod_eq_of_lt h)
    exact ((FieldSame.refl (CMD.CMDSTAT_ROLE c) _).dropDebug (role_apart_debug c)).trans hset

theorem fetchComplete_rejoins (c : Fin 2) (q : Snapshot) (r : List Snapshot) (s : State) (hc : s.role c = 2)
    (hrec : (s.cmd c).received.any (fun x => decide (x.getD 0 0 = q.word 0)) = true) (hrun : (s.cmd c).run = none)
    (hq : (s.cmd c).toRun = q :: r) (htake : s.flag (CMD.CMDSTAT_TAKE c) = false) (hhalt : s.flag (CMD.DBGSTAT_HALTED c) = false)
    (hnext : (s.cmd c).nextRole = some 1) (hr : s.mainRuns = true) : Completes (exec (.fetchComplete c) s) (fun t =>
      t.role c = 1 ∧ (t.cmd c).joinWait = true ∧ (t.cmd c).run = none ∧ SameBut [.regs, .cmds] s t) := by
  refine completes_of_eq ((execFetchComplete_eq c s ⟨.inl ⟨hc, hrec⟩, hrun, hq, htake, hhalt⟩ hr).trans (congrArg _ (if_pos hnext))) ?_
  have : Open (fun p => p ∉ [Part.regs, .cmds]) .regs := open_of_mem (by decide)
  have : Open (fun p => p ∉ [Part.regs, .cmds]) .cmds := open_of_mem (by decide)
  have hself : (s.enterJoin c).cmd c = { (s.takeRole c 1).cmd c with nextRole := none, joinWait := true, toRun := [], win := none } :=
    State.cmd_modCmd_self _ _ c.isLt
  refine ⟨?_, ?_, ?_, Keeps.sameBut (State.enterJoin_keeps (Keeps.refl _ s) c)⟩
  · exact (State.modCmd_get _ c _ _).trans (s.takeRole_role c (by decide))
  · rw [hself]
  · rw [hself]
    exact ((s.takeRole_step c 1 c).same CmdDie.run fun _ => rfl).trans hrun

/-! ### DONE (R344) -/

theorem execDoneWrite_eq (c : Fin 2) (core : Fin 4) (s : State) (hc : s.coreRuns c core = true) (hr : s.mainRuns = true) :
    execDoneWrite c core s = .next ((s.coreIssued c core).doneWrite c core) := by
  unfold execDoneWrite
  rw [whileRuns_running _ hr, if_pos hc]

theorem doneWrite_halted (c : Fin 2) (core : Fin 4) (s : State) (hc : s.coreRuns c core = false) (hr : s.mainRuns = true) :
    Completes (exec (.doneWrite c core) s) (fun t => t = s) := by
  refine completes_whileRuns hr (completes_next ?_)
  rw [hc, if_neg Bool.false_ne_true]

/-- A core's writes that a CLAIM holds back keep its DONE back. -/
def CmdDie.holdsDone (x : CmdDie) (k : Nat) : Bool := x.claim && x.heldWrites.any (fun w => decide (w.1 = k))

/-- A core that issues a write leaves of its die all but its count and a halt. -/
theorem State.coreIssued_same (s : State) (c k : Nat) {α : Type} (p : CmdDie → α) (hp : ∀ x : CmdDie, p x.offIssue = p x) :
    p ((s.coreIssued c k).cmd c) = p (s.cmd c) := ((DiesStep.refl CmdDie.offIssue s).coreIssued c k c).same p hp

theorem State.doneWrite_waits (s : State) (c k : Nat) (h : (s.cmd c).holdsDone k = true) :
    s.doneWrite c k = s.modCmd c (fun x => { x with doneWait := x.doneWait ++ [k] }) := if_pos h

theorem doneWrite_waits (c : Fin 2) (core : Fin 4) (s : State) (hc : s.coreRuns c core = true)
    (hw : ((s.cmd c).claim && (s.cmd c).heldWrites.any (fun w => decide (w.1 = core.val))) = true) (hr : s.mainRuns = true) :
    Completes (exec (.doneWrite c core) s) (fun t => (t.cmd c).doneWait = (s.cmd c).doneWait ++ [core.val] ∧ SameBut [.regs, .cmds] s t ∧
      RegsBut [CMD.DBGSTAT c] s t) := by
  have hholds : ((s.coreIssued c core).cmd c).holdsDone core = true :=
    (s.coreIssued_same c core (fun x => x.holdsDone core) fun _ => rfl).trans hw
  refine completes_of_eq ((execDoneWrite_eq c core s hc hr).trans (congrArg _ (State.doneWrite_waits _ _ _ hholds))) ⟨?_, ?_, ?_⟩
  · rw [State.cmd_modCmd_self _ _ c.isLt, s.coreIssued_same c core CmdDie.doneWait fun _ => rfl]
  · exact (s.coreIssued_sameBut c core).trans ((State.modCmd_sameBut _ c _).mono (by simp))
  · intro a ha
    rw [State.modCmd_cell, s.coreIssued_cell c core (by simpa using ha)]

/-- Every core of the period has written DONE. -/
def State.periodDone (s : State) (c : Nat) : Bool :=
  decide (s.get (CMD.DONE_DONE c) &&& s.get (CMD.CMDCFG_CP_CORES c) = s.get (CMD.CMDCFG_CP_CORES c))

/-- The end of a period at its last DONE: its window closes where it ends with it, and the heartbeat leaves. -/
def State.periodClosed (s : State) (c : Nat) : State :=
  let x := s.cmd c
  let t := s.modCmd c (fun x => { x with run := none })
  if cpnReached x.lastCpn (x.win.getD x.lastCpn) then (t.closeWindow c x.signature).sendHeartbeat c (some x.signature)
  else t.sendHeartbeat c none

theorem State.doneWrite_eq (s : State) (c k : Nat) (h : (s.cmd c).holdsDone k = false) : s.doneWrite c k =
    if (s.cmd c).run.isNone || !(s.setBit (CMD.DONE_DONE c) k true).periodDone c then s.setBit (CMD.DONE_DONE c) k true
    else ((s.setBit (CMD.DONE_DONE c) k true).periodClosed c).tryStart c := by
  have hcmd : (s.setBit (CMD.DONE_DONE c) k true).cmd c = s.cmd c := s.cmd_setBit _ _ _ c
  have hholds : ((s.cmd c).claim && (s.cmd c).heldWrites.any (fun w => decide (w.1 = k))) = false := h
  unfold State.doneWrite
  rw [hholds, if_neg Bool.false_ne_true]
  dsimp only
  rw [← hcmd, State.periodDone, ← decide_not]
  rfl

/-- DONE after a core's bit is set (R344). -/
theorem State.setDone_periodDone (s : State) (c : Fin 2) (k : Fin 4) : (s.setBit (CMD.DONE_DONE c) k true).periodDone c =
    decide ((s.get (CMD.DONE_DONE c) ||| 2 ^ k.val) &&& s.get (CMD.CMDCFG_CP_CORES c) = s.get (CMD.CMDCFG_CP_CORES c)) := by
  have hcores : (CMD.DONE_DONE c).apart (CMD.CMDCFG_CP_CORES c) = true := by revert c; decide
  have hdone : (s.setBit (CMD.DONE_DONE c) k true).get (CMD.DONE_DONE c) = s.get (CMD.DONE_DONE c) ||| 2 ^ k.val := by
    refine (State.get_set_self _ _ _ (of_decide_eq_true rfl)).trans (Nat.mod_eq_of_lt (Nat.or_lt_two_pow (s.get_lt (CMD.DONE_DONE c)) ?_))
    exact Nat.pow_lt_pow_right (by decide) k.isLt
  unfold State.periodDone
  rw [State.get_setBit_apart _ _ _ hcores, hdone]

theorem State.setBit_sameBut (s : State) (f : RF) (k : Nat) (b : Bool) : SameBut [.regs] s (s.setBit f k b) :=
  have : Open (fun p => p ∉ [Part.regs]) .regs := open_of_mem (by decide)
  Keeps.sameBut (State.setBit_keeps (Keeps.refl _ s) f k b)

theorem doneWrite_shows (c : Fin 2) (core : Fin 4) (s : State)
    (hw : ((s.cmd c).claim && (s.cmd c).heldWrites.any (fun w => decide (w.1 = core.val))) = false) (hc : s.coreRuns c core = true)
    (hopen : (s.cmd c).run = none ∨
      (s.get (CMD.DONE_DONE c) ||| 2 ^ core.val) &&& s.get (CMD.CMDCFG_CP_CORES c) ≠ s.get (CMD.CMDCFG_CP_CORES c)) (hr : s.mainRuns = true) :
    Completes (exec (.doneWrite c core) s) (fun t => t.bit (CMD.DONE_DONE c) core = true ∧ SameBut [.regs, .cmds] s t ∧
      RegsBut [CMD.DONE c, CMD.DBGSTAT c] s t) := by
  have hholds : ((s.coreIssued c core).cmd c).holdsDone core = false :=
    (s.coreIssued_same c core (fun x => x.holdsDone core) fun _ => rfl).trans hw
  have hdbg : ∀ c : Fin 2, (CMD.DONE_DONE c).addr ≠ CMD.DBGSTAT c ∧ (CMD.CMDCFG_CP_CORES c).addr ≠ CMD.DBGSTAT c := by decide
  have hstays : (((s.coreIssued c core).cmd c).run.isNone || !((s.coreIssued c core).setBit (CMD.DONE_DONE c) core true).periodDone c) = true := by
    rw [s.coreIssued_same c core CmdDie.run fun _ => rfl, State.setDone_periodDone, State.get_of_cell (s.coreIssued_cell c core (hdbg c).1),
      State.get_of_cell (s.coreIssued_cell c core (hdbg c).2)]
    rcases hopen with h | h
    · rw [h]
      rfl
    · rw [decide_eq_false h, Bool.or_comm]
      rfl
  refine completes_of_eq ((execDoneWrite_eq c core s hc hr).trans (congrArg _ ((State.doneWrite_eq _ _ _ hholds).trans (if_pos hstays)))) ⟨?_, ?_, ?_⟩
  · exact State.bit_setBit_self _ _ _ _ (of_decide_eq_true rfl) core.isLt
  · exact (s.coreIssued_sameBut c core).trans ((State.setBit_sameBut _ _ _ _).mono (by simp))
  · intro a ha
    simp only [List.mem_cons, List.not_mem_nil, or_false, not_or] at ha
    obtain ⟨h1, h2⟩ := ha
    rw [State.cell_setBit_ne _ _ _ _ _ h1, s.coreIssued_cell c core h2]

/-! ### The heartbeat at the end of a period (R344, R356, R357) -/

/-- A command die without what the close of a window changes. -/
def CmdDie.offWindow (x : CmdDie) : CmdDie := { x.offJoin with win := none, whole := false, sigs := [] }

theorem CmdDie.offWindow_offJoin (x : CmdDie) : x.offJoin.offWindow = x.offWindow := rfl

theorem DiesStep.closeWindow {r s : State} (h : DiesStep CmdDie.offWindow r s) (c : Nat) (g : BitVec 64) :
    DiesStep CmdDie.offWindow r (s.closeWindow c g) := by
  have hfail {t : State} (j : Nat) (ht : DiesStep CmdDie.offWindow r t) : DiesStep CmdDie.offWindow r (t.joinFailed j) :=
    ht.trans (((DiesStep.refl CmdDie.offJoin t).joinFailed j).mono CmdDie.offWindow_offJoin)
  unfold State.closeWindow
  extract_lets x s1 s2 l differs s3 s4
  have h2 : DiesStep CmdDie.offWindow r s2 := ((h.set _ _).set _ _).modCmd c _ fun _ => ⟨rfl, .inl rfl, .inl rfl⟩
  have h3 : DiesStep CmdDie.offWindow r s3 := h2.modCmd l _ fun _ => ⟨rfl, .inl rfl, .inl rfl⟩
  have h4 : DiesStep CmdDie.offWindow r s4 := h2.modCmd c _ fun _ => ⟨rfl, .inl rfl, .inl rfl⟩
  exact .ite (.ite (hfail l h3) h3) (.ite (.ite (hfail c h4) h4) h2)

/-- The heartbeat that a die sends now. -/
def State.heartbeat (s : State) (c : Nat) (sig : Option (BitVec 64)) : Heartbeat :=
  { cpn := (s.cmd c).lastCpn, health := s.healthWord c, sig := sig, pv := [0, 1, 2, 3].map (fun k => s.reg (CMD.PV c k)) }

theorem State.sendHeartbeat_cmd (s : State) (c : Fin 2) (sig : Option (BitVec 64)) : (s.sendHeartbeat c sig).cmd c =
    { s.cmd c with hb := (s.cmd c).hb ++ [s.heartbeat c sig], eccUe := false, wdog := false, ce := 0 } := by
  unfold State.sendHeartbeat
  extract_lets h hb
  rw [State.cmd_modCmd_self _ _ c.isLt, State.cmd_setReg]
  rfl

/-- A heartbeat names the period that runs or ran last. -/
theorem State.sendHeartbeat_hb (s : State) (c : Fin 2) (sig : Option (BitVec 64)) :
    ((s.sendHeartbeat c sig).cmd c).hb.map (fun h => h.cpn) = (s.cmd c).hb.map (fun h => h.cpn) ++ [(s.cmd c).lastCpn] := by
  rw [State.sendHeartbeat_cmd]
  exact List.map_append

theorem State.periodClosed_hb (s : State) (c : Fin 2) :
    ((s.periodClosed c).cmd c).hb.map (fun h => h.cpn) = (s.cmd c).hb.map (fun h => h.cpn) ++ [(s.cmd c).lastCpn] := by
  unfold State.periodClosed
  extract_lets x t
  have ht : t.cmd c = { s.cmd c with run := none } := s.cmd_modCmd_self _ c.isLt
  split
  · have hstep := (DiesStep.refl CmdDie.offWindow t).closeWindow c x.signature c
    rw [State.sendHeartbeat_hb, hstep.same CmdDie.hb fun _ => rfl, hstep.same CmdDie.lastCpn fun _ => rfl, ht]
  · rw [State.sendHeartbeat_hb, ht]

theorem doneWrite_ends (c : Fin 2) (core : Fin 4) (s : State)
    (hw : ((s.cmd c).claim && (s.cmd c).heldWrites.any (fun w => decide (w.1 = core.val))) = false) (hc : s.coreRuns c core = true)
    (hrun : (s.cmd c).run.isSome = true)
    (hall : (s.get (CMD.DONE_DONE c) ||| 2 ^ core.val) &&& s.get (CMD.CMDCFG_CP_CORES c) = s.get (CMD.CMDCFG_CP_CORES c)) (hr : s.mainRuns = true) :
    Completes (exec (.doneWrite c core) s) (fun t =>
      (t.cmd c).hb.map (fun h => h.cpn) = (s.cmd c).hb.map (fun h => h.cpn) ++ [(s.cmd c).lastCpn]) := by
  have hholds : ((s.coreIssued c core).cmd c).holdsDone core = false :=
    (s.coreIssued_same c core (fun x => x.holdsDone core) fun _ => rfl).trans hw
  have hdbg : ∀ c : Fin 2, (CMD.DONE_DONE c).addr ≠ CMD.DBGSTAT c ∧ (CMD.CMDCFG_CP_CORES c).addr ≠ CMD.DBGSTAT c := by decide
  have hends : (((s.coreIssued c core).cmd c).run.isNone || !((s.coreIssued c core).setBit (CMD.DONE_DONE c) core true).periodDone c) = false := by
    rw [s.coreIssued_same c core CmdDie.run fun _ => rfl, State.setDone_periodDone, State.get_of_cell (s.coreIssued_cell c core (hdbg c).1),
      State.get_of_cell (s.coreIssued_cell c core (hdbg c).2), decide_eq_true hall, Option.isNone_eq_false_iff.2 hrun]
    rfl
  refine completes_of_eq ((execDoneWrite_eq c core s hc hr).trans (congrArg _ ((State.doneWrite_eq _ _ _ hholds).trans
    (if_neg (hends ▸ Bool.false_ne_true))))) ?_
  rw [((DiesStep.refl CmdDie.offStart _).tryStart c c).same CmdDie.hb fun _ => rfl, State.periodClosed_hb, State.cmd_setBit,
    s.coreIssued_same c core CmdDie.hb fun _ => rfl, s.coreIssued_same c core CmdDie.lastCpn fun _ => rfl]

/-! ### HEALTH_CHANGE (R357) -/

/-- What has arisen on the die. -/
def CmdDie.harmed (eccUe wdog : Bool) (ce : Nat) (x : CmdDie) : CmdDie :=
  { x with eccUe := x.eccUe || eccUe, wdog := x.wdog || wdog, ce := x.ce + ce }

theorem odd_add_even {a b : Nat} (ha : a % 2 = 1) (hb : 2 ∣ b) : (a + b) % 2 = 1 := by omega

theorem even_flag (f : Prop) [Decidable f] (n : Nat) : 2 ∣ if f then 2 ^ (n + 1) else 0 := by
  split
  · exact Nat.pow_succ' ▸ Nat.dvd_mul_right 2 _
  · exact Nat.dvd_zero 2

/-- The lowest bit of a health word shows an uncorrectable SRAM error. -/
theorem State.healthWord_eccUe (s : State) (c : Nat) (h : (s.cmd c).eccUe = true) : (s.healthWord c).toNat % 2 = 1 := by
  unfold State.healthWord
  dsimp only
  rw [h, BitVec.toNat_ofNat, Nat.mod_mod_of_dvd _ (by decide)]
  refine odd_add_even ?_ (Dvd.dvd.mul_right (by decide) _)
  repeat refine odd_add_even ?_ (even_flag _ _)
  rfl

theorem getBits_low (w : Word) : getBits w 0 16 % 2 = w.toNat % 2 := by
  unfold getBits
  rw [Nat.shiftRight_zero, Nat.mod_mod_of_dvd _ (by decide)]

theorem State.sendHeartbeat_sameBut (s : State) (c : Nat) (sig : Option (BitVec 64)) : SameBut [.regs, .cmds] s (s.sendHeartbeat c sig) :=
  have : Open (fun p => p ∉ [Part.regs, .cmds]) .regs := open_of_mem (by decide)
  have : Open (fun p => p ∉ [Part.regs, .cmds]) .cmds := open_of_mem (by decide)
  Keeps.sameBut (State.sendHeartbeat_keeps (Keeps.refl _ s) c sig)

theorem healthChange_tells (c : Fin 2) (wdog : Bool) (ce : Nat) (s : State) (hh : getBits (s.reg (CMD.HEALTH c)) 0 1 = 0)
    (hr : s.mainRuns = true) : Completes (exec (.healthChange c true wdog ce) s) (fun t => (t.cmd c).hb.length = (s.cmd c).hb.length + 1 ∧
      (t.cmd c).eccUe = false ∧ (t.cmd c).ce = 0 ∧ SameBut [.regs, .cmds] s t ∧ RegsBut [CMD.HEALTH c] s t) := by
  have hself : (s.modCmd c (CmdDie.harmed true wdog ce)).cmd c = (s.cmd c).harmed true wdog ce := s.cmd_modCmd_self _ c.isLt
  have hodd : ((s.modCmd c (CmdDie.harmed true wdog ce)).healthWord c).toNat % 2 = 1 :=
    State.healthWord_eccUe _ c (by rw [hself]; exact Bool.or_true _)
  have heven : (s.reg (CMD.HEALTH c)).toNat % 2 = 0 := by
    unfold getBits at hh
    rwa [Nat.shiftRight_zero, pow_one] at hh
  have hreg : (s.modCmd c (CmdDie.harmed true wdog ce)).reg (CMD.HEALTH c) = s.reg (CMD.HEALTH c) := State.reg_of_cell (s.modCmd_cell c _ _)
  have hdiffers : getBits ((s.modCmd c (CmdDie.harmed true wdog ce)).healthWord c) 0 16 ≠
      getBits ((s.modCmd c (CmdDie.harmed true wdog ce)).reg (CMD.HEALTH c)) 0 16 := by
    intro h
    have h2 := congrArg (· % 2) h
    simp only [getBits_low, hreg] at h2
    omega
  have hexec : execHealthChange c true wdog ce s = .next ((s.modCmd c (CmdDie.harmed true wdog ce)).sendHeartbeat c none) := by
    unfold execHealthChange
    rw [whileRuns_running _ hr]
    exact congrArg _ (if_neg hdiffers)
  refine completes_of_eq hexec ?_
  generalize hu : s.modCmd c (CmdDie.harmed true wdog ce) = u at hself
  rw [State.sendHeartbeat_cmd, hself]
  refine ⟨List.length_append, rfl, rfl, ?_, ?_⟩
  · exact ((hu ▸ s.modCmd_sameBut c _ : SameBut [.cmds] s u).mono (by simp)).trans (u.sendHeartbeat_sameBut c none)
  · intro a ha
    unfold State.sendHeartbeat
    rw [State.modCmd_cell, State.cell_setReg_ne _ _ _ _ (by simpa using ha), ← hu, State.modCmd_cell]

/-- Settles O28: one lemma for each command and outcome. -/
theorem snapshotsAndPeriods : Obligations.SnapshotsAndPeriods :=
  ⟨commandPeriodTick_counts, commandPeriodTick_counted, commandPeriodTick_joins, driveRecordArrival_kept, driveRecordArrival_late,
    eventFlitArrival_kept, inputFrameArrival_kept, inputFrameArrival_covered, snapshotClose_tells, snapshotClose_alone, descriptorReceived_held,
    descriptorReceived_differs, descriptorWaitTimeout_starts, descriptorWaitTimeout_claims, fetchComplete_runs, fetchComplete_rejoins,
    doneWrite_waits, doneWrite_halted, doneWrite_shows, doneWrite_ends, healthChange_tells⟩

end Sys2Proof.Machine
end

section
/-! SUPPORT. What the arbiter holds of the heartbeats, through its judgement (for O29). -/

namespace Sys2Proof.Machine

/-! ### Heartbeats held by the arbiter (R359) -/

/-- From `r` to `t` the arbiter holds the same of the heartbeats: CPN, plausibility vectors, health words, and which are lost. -/
structure HeardSame (r t : State) : Prop where
  cpn : t.arb.cpn = r.arb.cpn
  pv : t.arb.pv = r.arb.pv
  lost : t.arb.lost = r.arb.lost
  health : CellsSame (· ∈ [ARB.HW_C0, ARB.HW_C1]) r t

theorem arbstat_notHealth : ARB.ARBSTAT ∉ [ARB.HW_C0, ARB.HW_C1] := by decide

theorem cmdstat_notHealth (c : Nat) : CMD.CMDSTAT c ∉ [ARB.HW_C0, ARB.HW_C1] := by
  simp only [CMD.CMDSTAT, ARB.HW_C0, ARB.HW_C1, List.mem_cons, List.not_mem_nil, or_false]
  omega

theorem arbLockout_addr (c : Nat) : (arbLockout c).addr = ARB.ARBSTAT := by
  unfold arbLockout
  split <;> rfl

section
variable {r s t : State}

theorem HeardSame.refl (s : State) : HeardSame s s := ⟨rfl, rfl, rfl, .refl _ s⟩

theorem HeardSame.ite {c : Prop} [Decidable c] (hs : HeardSame r s) (ht : HeardSame r t) : HeardSame r (if c then s else t) := by
  split
  · exact hs
  · exact ht

theorem HeardSame.modArb (h : HeardSame r s) (f : Arbiter → Arbiter) (hf : ∀ a, (f a).cpn = a.cpn ∧ (f a).pv = a.pv ∧ (f a).lost = a.lost) :
    HeardSame r (s.modArb f) := by
  obtain ⟨hcpn, hpv, hlost⟩ := hf s.arb
  exact ⟨hcpn.trans h.cpn, hpv.trans h.pv, hlost.trans h.lost, h.health.of_regs (State.modArb_regs s f)⟩

theorem HeardSame.set (h : HeardSame r s) {f : RF} (x : Nat) (hf : f.addr ∉ [ARB.HW_C0, ARB.HW_C1]) : HeardSame r (s.set f x) := by
  have harb := s.set_arb f x
  exact ⟨harb ▸ h.cpn, harb ▸ h.pv, harb ▸ h.lost, h.health.set x hf⟩

theorem HeardSame.setB (h : HeardSame r s) {f : RF} (b : Bool) (hf : f.addr ∉ [ARB.HW_C0, ARB.HW_C1]) : HeardSame r (s.setB f b) := h.set _ hf

theorem HeardSame.incSat (h : HeardSame r s) {f : RF} (hf : f.addr ∉ [ARB.HW_C0, ARB.HW_C1]) : HeardSame r (s.incSat f) := h.set _ hf

theorem HeardSame.send (h : HeardSame r s) (m : Msg) : HeardSame r (s.send m) := ⟨h.cpn, h.pv, h.lost, h.health.send m⟩

theorem HeardSame.decide' (h : HeardSame r s) (verdict cause : Nat) (ev : Option EvCounter) : HeardSame r (s.decide' verdict cause ev) := by
  have harb := s.decide'_arb verdict cause ev
  refine ⟨harb ▸ h.cpn, harb ▸ h.pv, harb ▸ h.lost, h.health.trans fun a ha => s.decide'_cell verdict cause ev ?_ ?_⟩
  · rintro rfl
    exact absurd ha (by decide)
  · rintro rfl
    exact absurd ha (by decide)

theorem HeardSame.restartHoldoff (h : HeardSame r s) : HeardSame r s.restartHoldoff := h.set _ (by decide)

theorem HeardSame.requestArbSs1 (h : HeardSame r s) : HeardSame r s.requestArbSs1 := (h.setB true arbstat_notHealth).send _

theorem HeardSame.removeDie (h : HeardSame r s) (c : Nat) : HeardSame r (s.removeDie c) := by
  unfold State.removeDie
  extract_lets now old s1 s2
  have h1 : HeardSame r s1 := (h.set 0 (arbRole_addr c ▸ arbstat_notHealth)).modArb _ fun _ => ⟨rfl, rfl, rfl⟩
  have h2 : HeardSame r s2 := .ite ((h1.setB (f := ARB.ARBSTAT_SWAP_PEND) false arbstat_notHealth).modArb _ fun _ => ⟨rfl, rfl, rfl⟩) h1
  exact .ite (h2.setB true (arbLockout_addr c ▸ arbstat_notHealth)) h2

theorem HeardSame.failover (h : HeardSame r s) (shell cause : Nat) : HeardSame r (s.failover shell cause) := by
  unfold State.failover
  extract_lets liner s1 s2 s3 s4 s5
  have h1 : HeardSame r s1 := h.decide' 2 cause _
  have h3 : HeardSame r s3 := ((h1.incSat (f := ARB.ARBCNT_FO_CNT) (by decide)).setB true arbstat_notHealth).set shell arbstat_notHealth
  have h4 : HeardSame r s4 := (h3.setB true (cmdstat_notHealth shell)).setB false (cmdstat_notHealth liner)
  have h5 : HeardSame r s5 := (h4.removeDie shell).modArb _ fun _ => ⟨rfl, rfl, rfl⟩
  exact h5.send _

theorem HeardSame.judge (h : HeardSame r s) (cause : Nat) : HeardSame r (s.judge cause) := by
  unfold State.judge
  split
  case h_1 => exact h
  case h_2 c _ =>
    extract_lets l ls now old s1 s2 s3 s4
    have h1 : HeardSame r s1 := ((h.decide' 0 1 _).incSat (f := ARB.ARBCNT_MM_UNRES) (by decide)).modArb _ fun _ => ⟨rfl, rfl, rfl⟩
    have h2 : HeardSame r s2 := .ite (h1.set 1 (arbRole_addr l ▸ arbstat_notHealth)) h1
    have h3 : HeardSame r s3 := h.decide' 3 _ none
    have h4 : HeardSame r s4 := .ite h3 (h3.removeDie l)
    have h5 : HeardSame r ((s4.setB ARB.ARBSTAT_MITTEN true).modArb (fun a => { a with wire := none })) :=
      (h4.setB true arbstat_notHealth).modArb _ fun _ => ⟨rfl, rfl, rfl⟩
    refine .ite (.ite (.ite (h2.requestArbSs1.modArb _ ?_) h2) ((h.decide' 1 _ none).removeDie l)) (.ite (h.failover c _) h5.requestArbSs1)
    exact fun _ => ⟨rfl, rfl, rfl⟩

theorem HeardSame.matchSignatures (h : HeardSame r s) : HeardSame r s.matchSignatures := by
  unfold State.matchSignatures
  split
  · exact h
  split
  · exact h
  split
  · exact h
  next x _ y _ =>
    extract_lets t
    have ht : HeardSame r t := h.modArb _ fun _ => ⟨rfl, rfl, rfl⟩
    exact .ite ht (HeardSame.judge (.restartHoldoff (ht.incSat (f := ARB.ARBCNT_MM_CNT) (by decide))) 1)

end

theorem State.judge_cmds (s : State) (cause : Nat) : (s.judge cause).cmds = s.cmds :=
  have : Open (fun p => p = Part.cmds) .regs := open_of_eq (by decide)
  have : Open (fun p => p = Part.cmds) .out := open_of_eq (by decide)
  have : Open (fun p => p = Part.cmds) .life := open_of_eq (by decide)
  have : Open (fun p => p = Part.cmds) .keeper := open_of_eq (by decide)
  have : Open (fun p => p = Part.cmds) .arb := open_of_eq (by decide)
  (State.judge_keeps (Keeps.refl (fun p => p = .cmds) s) cause).same .cmds rfl

theorem State.matchSignatures_cmds (s : State) : s.matchSignatures.cmds = s.cmds :=
  have : Open (fun p => p = Part.cmds) .regs := open_of_eq (by decide)
  have : Open (fun p => p = Part.cmds) .out := open_of_eq (by decide)
  have : Open (fun p => p = Part.cmds) .life := open_of_eq (by decide)
  have : Open (fun p => p = Part.cmds) .keeper := open_of_eq (by decide)
  have : Open (fun p => p = Part.cmds) .arb := open_of_eq (by decide)
  (State.matchSignatures_keeps (Keeps.refl (fun p => p = .cmds) s)).same .cmds rfl

/-! ### HEARTBEAT_RECEIVED (R359) -/

/-- The arbiter with the heartbeat `h` of die `c`, whose role it holds as `role`. -/
def Arbiter.hearing (c role : Nat) (h : Heartbeat) (a : Arbiter) : Arbiter :=
  { a with
    cpn := vset a.cpn c h.cpn, pv := vset a.pv c h.pv, lost := vset a.lost c false
    timed := a.timed || decide (role = 3)
    sigs := match h.sig with | some g => if 2 ≤ role then a.sigs ++ [(c, h.cpn, g)] else a.sigs | none => a.sigs }

/-- A heartbeat that has reached the arbiter. -/
def State.heartbeatTaken (s : State) (c : Nat) (h : Heartbeat) (rest : List Heartbeat) : State :=
  let t := (s.modCmd c (fun x => { x with hb := rest })).setReg (arbHealth c).addr h.health
  t.modArb (Arbiter.hearing c (t.get (arbRole c)) h)

/-- The old shell's heartbeat before a SWAP. -/
def State.swapHeard (s : State) (c : Nat) (h : Heartbeat) : State :=
  match s.arb.swapN with
  | some n => if s.get (arbRole c) = 3 ∧ (h.cpn + 1) % 2 ^ 32 = n then s.modArb (fun a => { a with swapHb := true }) else s
  | none => s

/-- The heartbeat of a die counts as lost, and the arbiter judges. -/
def State.lostJudged (s : State) (c cause : Nat) : State := ((s.modArb (fun a => { a with lost := vset a.lost c true })).restartHoldoff).judge cause

theorem execHeartbeatReceived_eq (c : Fin 2) (late : Bool) {h : Heartbeat} {r : List Heartbeat} (s : State) (hh : (s.cmd c).hb = h :: r)
    (hr : s.mainRuns = true) : execHeartbeatReceived c late s = .next (
      let u := (s.heartbeatTaken c h r).swapHeard c h
      if late && decide (u.get (arbRole c) = 2) && u.arbActive then u.lostJudged c 3 else u.matchSignatures) := by
  unfold execHeartbeatReceived
  rw [whileRuns_running _ hr, hh]
  rfl

theorem HeardSame.swapHeard {r s : State} (hs : HeardSame r s) (c : Nat) (h : Heartbeat) : HeardSame r (s.swapHeard c h) := by
  unfold State.swapHeard
  split
  · exact .ite (hs.modArb _ fun _ => ⟨rfl, rfl, rfl⟩) hs
  · exact hs

theorem State.swapHeard_regs (s : State) (c : Nat) (h : Heartbeat) : (s.swapHeard c h).regs = s.regs := by
  unfold State.swapHeard
  split
  · split <;> rfl
  · rfl

theorem State.swapHeard_cmds (s : State) (c : Nat) (h : Heartbeat) : (s.swapHeard c h).cmds = s.cmds := by
  unfold State.swapHeard
  split
  · split <;> rfl
  · rfl

theorem State.heartbeatTaken_cell (s : State) (c : Nat) (h : Heartbeat) (rest : List Heartbeat) (a : Nat) :
    (s.heartbeatTaken c h rest).cell a = (s.setReg (arbHealth c).addr h.health).cell a := by
  have hregs : (s.heartbeatTaken c h rest).regs = (s.setReg (arbHealth c).addr h.health).regs := rfl
  exact State.cell_of_regs hregs a

theorem State.heartbeatTaken_cmd (s : State) (c : Fin 2) (h : Heartbeat) (rest : List Heartbeat) :
    (s.heartbeatTaken c h rest).cmd c = { s.cmd c with hb := rest } := by
  have hcmds : (s.heartbeatTaken c h rest).cmds = (s.modCmd c (fun x => { x with hb := rest })).cmds := rfl
  exact (State.cmd_of_cmds hcmds c).trans (s.cmd_modCmd_self _ c.isLt)

/-- What the arbiter has heard of the die, whatever it judges of it then. -/
theorem HeardSame.hears {s u : State} (c : Fin 2) {h : Heartbeat} {r : List Heartbeat} (hu : HeardSame (s.heartbeatTaken c h r) u) :
    vget u.arb.cpn c = h.cpn ∧ vget u.arb.pv c = h.pv ∧ vget u.arb.lost c = false ∧ u.reg (arbHealth c).addr = h.health := by
  have hmem : ∀ c : Fin 2, (arbHealth c).addr ∈ [ARB.HW_C0, ARB.HW_C1] := by decide
  refine ⟨?_, ?_, ?_, ?_⟩
  · rw [hu.cpn]
    exact vget_vset_self _ _ _ c.isLt
  · rw [hu.pv]
    exact vget_vset_self _ _ _ c.isLt
  · rw [hu.lost]
    exact vget_vset_self _ _ _ c.isLt
  · rw [State.reg_of_cell ((hu.health _ (hmem c)).trans (s.heartbeatTaken_cell c h r _))]
    exact State.reg_setReg_self _ _ _

theorem heartbeatReceived_heard (c : Fin 2) (h : Heartbeat) (r : List Heartbeat) (s : State) (hh : (s.cmd c).hb = h :: r)
    (hr : s.mainRuns = true) : Completes (exec (.heartbeatReceived c false) s) (fun t => (t.cmd c).hb = r ∧ vget t.arb.cpn c = h.cpn ∧
      vget t.arb.pv c = h.pv ∧ vget t.arb.lost c = false ∧ t.reg (arbHealth c).addr = h.health) := by
  refine completes_of_eq (execHeartbeatReceived_eq c false s hh hr) ?_
  dsimp only
  rw [Bool.false_and, Bool.false_and, if_neg Bool.false_ne_true]
  refine ⟨?_, (((HeardSame.refl _).swapHeard c h).matchSignatures).hears c⟩
  rw [State.cmd_of_cmds (State.matchSignatures_cmds _), State.cmd_of_cmds (State.swapHeard_cmds _ _ _), State.heartbeatTaken_cmd]

/-- Whether the arbiter judges depends on the roles that it holds and on the halts alone. -/
theorem State.arbActive_of_cell {s t : State} (hstat : t.cell ARB.ARBSTAT = s.cell ARB.ARBSTAT)
    (hdbg : ∀ c ∈ [0, 1], t.cell (CMD.DBGSTAT c) = s.cell (CMD.DBGSTAT c)) : t.arbActive = s.arbActive := by
  have hany : ∀ c ∈ [0, 1], (decide (t.get (arbRole c) = 3) && t.flag (CMD.DBGSTAT_HALTED c)) =
      (decide (s.get (arbRole c) = 3) && s.flag (CMD.DBGSTAT_HALTED c)) := fun c hc => by
    rw [State.get_of_cell (f := arbRole c) ((arbRole_addr c).symm ▸ hstat), State.flag_of_cell (f := CMD.DBGSTAT_HALTED c) (hdbg c hc)]
  simp only [State.arbActive, List.any_cons, List.any_nil, hany 0 (by simp), hany 1 (by simp)]

theorem State.lostJudged_lost (s : State) (c : Fin 2) (cause : Nat) : vget (s.lostJudged c cause).arb.lost c = true := by
  have hsame : HeardSame (s.modArb (fun a => { a with lost := vset a.lost c true })) (s.lostJudged c cause) :=
    (HeardSame.restartHoldoff (.refl _)).judge cause
  rw [hsame.lost]
  exact vget_vset_self _ _ _ c.isLt

theorem heartbeatReceived_late (c : Fin 2) (h : Heartbeat) (r : List Heartbeat) (s : State) (hh : (s.cmd c).hb = h :: r)
    (hrole : s.get (arbRole c) = 2) (hact : s.arbActive = true) (hr : s.mainRuns = true) :
    Completes (exec (.heartbeatReceived c true) s) (fun t => (t.cmd c).hb = r ∧ vget t.arb.cpn c = h.cpn ∧ vget t.arb.lost c = true) := by
  have hne : ∀ c : Fin 2, ARB.ARBSTAT ≠ (arbHealth c).addr ∧ ∀ j ∈ [0, 1], CMD.DBGSTAT j ≠ (arbHealth c).addr := by decide
  have hcell {a : Nat} (ha : a ≠ (arbHealth c).addr) : ((s.heartbeatTaken c h r).swapHeard c h).cell a = s.cell a :=
    (State.cell_of_regs (State.swapHeard_regs _ _ _) a).trans ((s.heartbeatTaken_cell c h r a).trans (State.cell_setReg_ne _ _ _ _ ha))
  have hrole' : ((s.heartbeatTaken c h r).swapHeard c h).get (arbRole c) = 2 :=
    (State.get_of_cell (f := arbRole c) ((arbRole_addr c).symm ▸ hcell (hne c).1)).trans hrole
  have hact' : ((s.heartbeatTaken c h r).swapHeard c h).arbActive = true :=
    (State.arbActive_of_cell (hcell (hne c).1) fun j hj => hcell ((hne c).2 j hj)).trans hact
  refine completes_of_eq (execHeartbeatReceived_eq c true s hh hr) ?_
  dsimp only
  rw [hrole', hact', if_pos (by rfl)]
  refine ⟨?_, ?_, State.lostJudged_lost _ c 3⟩
  · unfold State.lostJudged
    rw [State.cmd_of_cmds (State.judge_cmds _ _), State.restartHoldoff, State.cmd_set,
      State.cmd_of_cmds ((State.modArb_cmds _ _).trans (State.swapHeard_cmds _ _ _)), State.heartbeatTaken_cmd]
  · have hsame : HeardSame (((s.heartbeatTaken c h r).swapHeard c h).modArb (fun a => { a with lost := vset a.lost c true }))
        (((s.heartbeatTaken c h r).swapHeard c h).lostJudged c 3) := (HeardSame.restartHoldoff (.refl _)).judge 3
    rw [hsame.cpn]
    exact (((HeardSame.refl _).swapHeard c h).hears c).1

/-! ### HEARTBEAT_TIMEOUT (R359, R384, R452) -/

theorem heartbeatTimeout_loses (c : Fin 2) (s : State) (hrole : 2 ≤ s.get (arbRole c)) (ht : s.arb.timed = true) (hact : s.arbActive = true)
    (hr : s.mainRuns = true) : Completes (exec (.heartbeatTimeout c) s) (fun t => vget t.arb.lost c = true) := by
  refine completes_whileRuns hr (completes_next ?_)
  have hlost : s.heartbeatLost c = s.lostJudged c (if s.get (arbRole c) = 3 then 2 else 3) :=
    if_neg (not_or.2 ⟨Nat.not_lt.2 hrole, by rw [hact]; decide⟩)
  rw [ht, if_pos rfl, hlost]
  exact State.lostJudged_lost s c _

theorem heartbeatTimeout_untimed (c : Fin 2) (s : State) (h : s.arb.timed = false ∨ s.arbActive = false) (hr : s.mainRuns = true) :
    Completes (exec (.heartbeatTimeout c) s) (fun t => t = s) := by
  refine completes_whileRuns hr (completes_next ?_)
  rcases h with h | h
  · rw [h, if_neg Bool.false_ne_true]
  · have hstays : s.heartbeatLost c = s := if_pos (.inr (by rw [h]; rfl))
    rw [hstays, ite_self]

end Sys2Proof.Machine
end

section
/-! SUPPORT. The verdicts of the arbiter at a drive die, at a command die and at N (for O29). -/

namespace Sys2Proof.Machine

/-! ### ROLE_WIRE_CHANGE (R367) -/

/-- The write points of the CLEs of drive die `d` fall back to their committed state, and the mitten is counted. -/
def State.mittenStarts (s : State) (d : Nat) : State :=
  (foldOver [0, 1] (fun k t =>
    (foldOver (List.range 64) (fun w u => u.setReg (CLE.CWP d k w) (u.reg (CLE.CWC d k w))) t).setB (CLE.CW_COMMIT_COMMIT d k) false) s).incSat
      (DCMD.DCMDSTAT_MITTEN_CNT d)

/-- No write point stands at DCMDSTAT. -/
theorem dcmdstat_notWritePoint (d k w : Nat) (hw : w < 64) :
    DCMD.DCMDSTAT d ≠ CLE.CWP d k w ∧ DCMD.DCMDSTAT d ≠ CLE.CW_COMMIT d k := by
  simp only [DCMD.DCMDSTAT, CLE.CWP, CLE.CW_COMMIT]
  omega

theorem State.mittenStarts_field (s : State) {d : Nat} {g : RF} (haddr : g.addr = DCMD.DCMDSTAT d)
    (hcnt : (DCMD.DCMDSTAT_MITTEN_CNT d).apart g = true) : FieldSame g s (s.mittenStarts d) := by
  refine FieldSame.incSat (FieldSame.foldOver (.refl g s) _ _ fun k _ t ht => ?_) _ hcnt
  have hpoints := ht.foldOver (List.range 64) (fun w u => u.setReg (CLE.CWP d k w) (u.reg (CLE.CWC d k w))) fun w hw u hu =>
    hu.of_cell (State.cell_setReg_ne _ _ _ _ (haddr ▸ (dcmdstat_notWritePoint d k w (List.mem_range.1 hw)).1))
  exact hpoints.of_cell (State.cell_setB_ne _ _ _ _ (haddr ▸ (dcmdstat_notWritePoint d k 0 (by decide)).2))

theorem roleWires_apart : ∀ d : Fin 4, (DCMD.DCMDSTAT_MITTEN_CNT d).apart (DCMD.DCMDSTAT_ROLE_C0 d) = true ∧
    (DCMD.DCMDSTAT_MITTEN_CNT d).apart (DCMD.DCMDSTAT_ROLE_C1 d) = true ∧
    (DCMD.DCMDSTAT_ROLE_C1 d).apart (DCMD.DCMDSTAT_ROLE_C0 d) = true := by decide

theorem roleWireChange_shows (d : Fin 4) (s : State) (hr : s.mainRuns = true) : Completes (exec (.roleWireChange d) s) (fun t =>
    t.flag (DCMD.DCMDSTAT_ROLE_C0 d) = decide (s.arb.wire = some 0) ∧ t.flag (DCMD.DCMDSTAT_ROLE_C1 d) = decide (s.arb.wire = some 1)) := by
  obtain ⟨hcnt0, hcnt1, h10⟩ := roleWires_apart d
  refine completes_whileRuns hr (completes_next ?_)
  extract_lets was u
  have hshown {g : RF} (haddr : g.addr = DCMD.DCMDSTAT d) (hcnt : (DCMD.DCMDSTAT_MITTEN_CNT d).apart g = true) :
      FieldSame g u (if was && u.arb.wire.isNone then u.mittenStarts d else u) := .ite (u.mittenStarts_field haddr hcnt) (.refl g u)
  constructor
  · refine (hshown rfl hcnt0).flag.trans ((State.flag_setB_apart _ _ h10).trans ?_)
    exact State.flag_setB_self _ _ _ (of_decide_eq_true rfl) Nat.one_pos
  · exact (hshown rfl hcnt1).flag.trans (State.flag_setB_self _ _ _ (of_decide_eq_true rfl) Nat.one_pos)

/-! ### VERDICT_RECEIVED (R338, R377) -/

/-- TAKE of the die to which the shell's role goes. -/
def State.takeShown (s : State) (c : Nat) : State := if decide (s.arb.takeTo = some c) then s.setB (CMD.CMDSTAT_TAKE c) true else s

/-- The period of a SWAP, as the arbiter names it. -/
def State.swapShown (s : State) (c : Nat) : State :=
  match s.arb.swapN with
  | some n => (s.setB (CMD.CMDSTAT_SWAP_PEND c) true).modCmd c (fun x => { x with swapAt := some n })
  | none => (s.setB (CMD.CMDSTAT_SWAP_PEND c) false).modCmd c (fun x => { x with swapAt := none })

/-- The die goes OFF: nothing of its periods stays. -/
def CmdDie.removed (x : CmdDie) : CmdDie :=
  { x with
    run := none, closed := [], ready := false, toRun := [], sigs := [], received := [], own := [], tick := none, claim := false, sending := [], copied := [], joinSigs := []
    held := false, heldWrites := [], doneWait := [], debugWrites := [], swapAt := none, nextRole := none, win := none, failover := false, resumed := false }

/-- The role `r` that a verdict names for the die. -/
def State.roleNamed (s : State) (c r : Nat) : State :=
  if r = s.role c then s.modCmd c (fun x => { x with nextRole := if r = 1 ∧ x.nextRole = some 2 then some 2 else none })
  else if r = 0 then ((s.setB (CMD.CMDSTAT_TAKE c) false).takeRole c 0).modCmd c CmdDie.removed
  else s.modCmd c (fun x => { x with nextRole := some r })

/-- What the verdict names, before a die that takes over goes on. -/
def State.verdictShown (s : State) (c : Nat) : State := ((s.takeShown c).swapShown c).roleNamed c (s.get (arbRole c))

theorem execVerdictReceived_eq (c : Fin 2) (s : State) (hr : s.mainRuns = true) : execVerdictReceived c s =
    .next (if decide (s.arb.takeTo = some c.val) then (s.verdictShown c).tryStart c else s.verdictShown c) := by
  unfold execVerdictReceived
  rw [whileRuns_running _ hr]
  rfl

theorem State.swapShown_field (s : State) (c : Nat) {g : RF} (hg : (CMD.CMDSTAT_SWAP_PEND c).apart g = true) : FieldSame g s (s.swapShown c) := by
  unfold State.swapShown
  split
  · exact ((FieldSame.refl g s).setB _ _ hg).modCmd c _
  · exact ((FieldSame.refl g s).setB _ _ hg).modCmd c _

theorem State.takeShown_field (s : State) (c : Nat) {g : RF} (hg : (CMD.CMDSTAT_TAKE c).apart g = true) : FieldSame g s (s.takeShown c) :=
  .ite ((FieldSame.refl g s).setB _ _ hg) (.refl g s)

theorem cmdstat_apart : ∀ c : Fin 2, (CMD.CMDSTAT_SWAP_PEND c).apart (CMD.CMDSTAT_ROLE c) = true ∧
    (CMD.CMDSTAT_TAKE c).apart (CMD.CMDSTAT_ROLE c) = true ∧ (CMD.CMDSTAT_SWAP_PEND c).apart (CMD.CMDSTAT_TAKE c) = true := by decide

theorem State.swapShown_role (s : State) (c : Fin 2) : ((s.takeShown c).swapShown c).role c = s.role c := by
  obtain ⟨hswap, htake, -⟩ := cmdstat_apart c
  exact ((s.takeShown c).swapShown_field c hswap).trans (s.takeShown_field c htake)

theorem State.roleNamed_regs (s : State) (c : Nat) {role : Nat} (h : role ≠ 0) : (s.roleNamed c role).regs = s.regs := by
  unfold State.roleNamed
  rw [if_neg h]
  split <;> exact State.modCmd_regs _ _ _

theorem State.roleNamed_swapAt (s : State) (c : Fin 2) {role : Nat} (h : role ≠ 0) : ((s.roleNamed c role).cmd c).swapAt = (s.cmd c).swapAt := by
  unfold State.roleNamed
  rw [if_neg h]
  split
  · rw [s.cmd_modCmd_self _ c.isLt]
  · rw [s.cmd_modCmd_self _ c.isLt]

theorem State.roleNamed_next (s : State) (c : Fin 2) {role : Nat} (h : role ≠ 0) (hrole : role ≠ s.role c) :
    ((s.roleNamed c role).cmd c).nextRole = some role := by
  unfold State.roleNamed
  rw [if_neg hrole, if_neg h]
  exact congrArg CmdDie.nextRole (s.cmd_modCmd_self _ c.isLt)

/-- A start of a die that holds TAKE writes no register and changes CLAIM of the die at most. -/
theorem State.tryStart_ofTake (s : State) (c : Fin 2) (h : s.flag (CMD.CMDSTAT_TAKE c) = true) :
    (s.tryStart c).regs = s.regs ∧ ∃ b, (s.tryStart c).cmd c = { s.cmd c with claim := b } := by
  rcases s.tryStart_take c h with h0 | ⟨cpn, h1⟩
  · rw [h0]
    exact ⟨rfl, _, rfl⟩
  · rw [h1]
    exact ⟨(State.send_regs _ _).trans (State.modCmd_regs _ _ _), true, (State.cmd_send _ _ _).trans (s.cmd_modCmd_self _ c.isLt)⟩

theorem State.verdictShown_take (s : State) (c : Fin 2) (hrole : s.get (arbRole c) ≠ 0) (htake : s.arb.takeTo = some c.val) :
    (s.verdictShown c).flag (CMD.CMDSTAT_TAKE c) = true := by
  obtain ⟨-, -, happart⟩ := cmdstat_apart c
  have hshown : (s.takeShown c).flag (CMD.CMDSTAT_TAKE c) = true := by
    unfold State.takeShown
    rw [if_pos (decide_eq_true htake)]
    exact State.flag_setB_self _ _ _ (of_decide_eq_true rfl) Nat.one_pos
  have hregs : (s.verdictShown c).flag (CMD.CMDSTAT_TAKE c) = ((s.takeShown c).swapShown c).flag (CMD.CMDSTAT_TAKE c) :=
    State.flag_of_cell (State.cell_of_regs (State.roleNamed_regs _ _ hrole) _)
  exact hregs.trans (((s.takeShown c).swapShown_field c happart).flag.trans hshown)

/-- The answer to a verdict that leaves the die a role: its registers, and the die but for CLAIM, are what the verdict names. -/
theorem verdictReceived_alive (c : Fin 2) (s : State) (hrole : s.get (arbRole c) ≠ 0) (hr : s.mainRuns = true) :
    Completes (exec (.verdictReceived c) s) (fun t => t.regs = ((s.takeShown c).swapShown c).regs ∧
      ∃ b, t.cmd c = { (s.verdictShown c).cmd c with claim := b }) := by
  have hregs : (s.verdictShown c).regs = ((s.takeShown c).swapShown c).regs := State.roleNamed_regs _ _ hrole
  refine completes_of_eq (execVerdictReceived_eq c s hr) ?_
  split
  · next htake =>
    obtain ⟨hstart, hcmd⟩ := (s.verdictShown c).tryStart_ofTake c (s.verdictShown_take c hrole (of_decide_eq_true htake))
    exact ⟨hstart.trans hregs, hcmd⟩
  · exact ⟨hregs, _, rfl⟩

theorem verdictReceived_names (c : Fin 2) (s : State) (hne : s.get (arbRole c) ≠ s.role c) (hrole : s.get (arbRole c) ≠ 0) (hr : s.mainRuns = true) :
    Completes (exec (.verdictReceived c) s) (fun t => (t.cmd c).nextRole = some (s.get (arbRole c)) ∧ t.role c = s.role c) := by
  obtain ⟨t, ht, hregs, b, hcmd⟩ := verdictReceived_alive c s hrole hr
  refine ⟨t, ht, ?_, (State.get_of_cell (State.cell_of_regs hregs _)).trans (s.swapShown_role c)⟩
  rw [hcmd]
  exact State.roleNamed_next _ c hrole ((s.swapShown_role c).symm ▸ hne)

theorem State.tryStart_closed (s : State) (c : Nat) (h : (s.cmd c).closed = []) : s.tryStart c = s := by
  unfold State.tryStart
  dsimp only
  rw [h]
  split
  · next heq => exact absurd heq (by simp)
  · rfl

theorem State.roleNamed_off (s : State) (c : Nat) (h : s.role c ≠ 0) :
    s.roleNamed c 0 = ((s.setB (CMD.CMDSTAT_TAKE c) false).takeRole c 0).modCmd c CmdDie.removed := by
  unfold State.roleNamed
  rw [if_neg h.symm, if_pos rfl]

theorem State.roleNamed_off_role (s : State) (c : Fin 2) (h : s.role c ≠ 0) : (s.roleNamed c 0).role c = 0 := by
  rw [s.roleNamed_off c h]
  exact (State.modCmd_get _ _ _ _).trans (State.takeRole_role _ c (by decide))

theorem State.roleNamed_off_cmd (s : State) (c : Fin 2) (h : s.role c ≠ 0) : ∃ x : CmdDie, (s.roleNamed c 0).cmd c = x.removed := by
  rw [s.roleNamed_off c h]
  exact ⟨_, State.cmd_modCmd_self _ _ c.isLt⟩

/-- A verdict of OFF leaves the die without a role and without anything of its periods. -/
theorem State.verdictShown_off (s : State) (c : Fin 2) (hc : s.role c ≠ 0) (hrole : s.get (arbRole c) = 0) :
    (s.verdictShown c).role c = 0 ∧ ∃ x : CmdDie, (s.verdictShown c).cmd c = x.removed := by
  have hc' : ((s.takeShown c).swapShown c).role c ≠ 0 := (s.swapShown_role c).symm ▸ hc
  unfold State.verdictShown
  rw [hrole]
  exact ⟨State.roleNamed_off_role _ c hc', State.roleNamed_off_cmd _ c hc'⟩

theorem verdictReceived_removes (c : Fin 2) (s : State) (hc : s.role c ≠ 0) (hrole : s.get (arbRole c) = 0) (hr : s.mainRuns = true) :
    Completes (exec (.verdictReceived c) s) (fun t => t.role c = 0 ∧ (t.cmd c).run = none ∧ (t.cmd c).claim = false ∧ (t.cmd c).toRun = []) := by
  obtain ⟨hoff, x, hcmd⟩ := s.verdictShown_off c hc hrole
  have hstart : (s.verdictShown c).tryStart c = s.verdictShown c := State.tryStart_closed _ _ (congrArg CmdDie.closed hcmd)
  refine completes_of_eq (execVerdictReceived_eq c s hr) ?_
  rw [hstart, ite_self, hcmd]
  exact ⟨hoff, rfl, rfl, rfl⟩

theorem State.takeShown_arb (s : State) (c : Nat) : (s.takeShown c).arb = s.arb := by
  unfold State.takeShown
  split
  · exact State.setB_arb _ _ _
  · rfl

theorem State.swapShown_named (s : State) (c : Fin 2) {n : Nat} (hn : s.arb.swapN = some n) :
    ((s.swapShown c).cmd c).swapAt = some n ∧ (s.swapShown c).flag (CMD.CMDSTAT_SWAP_PEND c) = true := by
  unfold State.swapShown
  rw [hn]
  refine ⟨?_, ?_⟩
  · rw [State.cmd_modCmd_self _ _ c.isLt]
  · refine (State.flag_of_get (State.modCmd_get _ _ _ _)).trans ?_
    exact State.flag_setB_self _ _ _ (of_decide_eq_true rfl) Nat.one_pos

theorem verdictReceived_swap (c : Fin 2) (n : Nat) (s : State) (hrole : s.get (arbRole c) ≠ 0) (hn : s.arb.swapN = some n) (hr : s.mainRuns = true) :
    Completes (exec (.verdictReceived c) s) (fun t => (t.cmd c).swapAt = some n ∧ t.flag (CMD.CMDSTAT_SWAP_PEND c) = true) := by
  have harb : (s.takeShown c).arb.swapN = some n := (congrArg Arbiter.swapN (s.takeShown_arb c)).trans hn
  obtain ⟨hat, hpend⟩ := (s.takeShown c).swapShown_named c harb
  obtain ⟨t, ht, hregs, b, hcmd⟩ := verdictReceived_alive c s hrole hr
  refine ⟨t, ht, ?_, (State.flag_of_cell (State.cell_of_regs hregs _)).trans hpend⟩
  rw [hcmd]
  exact (State.roleNamed_swapAt _ c hrole).trans hat

/-! ### FAILOVER_AT_N (R368) -/

/-- The transmit buffer of flow `f` goes back to the content last released. -/
def State.flowReverted (t : State) (f : Nat) : State :=
  let x := vget t.flows f
  if x.begun then
    let a := 0x48280000 + 0x800 * f
    let m := Memory.writeBytes (Memory.clear t.mem a 0x800) a ((x.released.getD []).map (BitVec.ofNat 8))
    ({ t with mem := m }).modFlow f (fun x => { x with begun := false })
  else t

theorem State.flowReverted_begun (t : State) {f : Nat} (hf : f < 128) : (vget (t.flowReverted f).flows f).begun = false := by
  unfold State.flowReverted
  dsimp only
  split
  · exact congrArg FlowCtx.begun (vget_vmod_self t.flows f _ hf)
  · next h => exact Bool.not_eq_true _ ▸ h

theorem State.flowReverted_keeps (t : State) (f j : Nat) (h : (vget t.flows j).begun = false) : (vget (t.flowReverted f).flows j).begun = false := by
  unfold State.flowReverted
  dsimp only
  split
  · next hbegun =>
    rcases eq_or_ne j f with rfl | hne
    · exact absurd (hbegun.symm.trans h) (by decide)
    · exact (congrArg FlowCtx.begun (vget_vmod_ne t.flows f j _ hne)).trans h
  · exact h

theorem State.flowReverted_arb (t : State) (f : Nat) : (t.flowReverted f).arb = t.arb := by
  unfold State.flowReverted
  dsimp only
  split <;> rfl

theorem failoverAtN_reverts (s : State) (hn : s.arb.failN = true) (hr : s.mainRuns = true) : Completes (exec .failoverAtN s) (fun t =>
    t.arb.failN = false ∧ t.arb.nShell = none ∧ ∀ f : Fin 128, (vget t.flows f).begun = false ∧ SameBut [.arb, .mem, .flows] s t) := by
  let u := s.modArb (fun a => { a with failN := false, nShell := none })
  have heq : execFailoverAtN s = .next (foldOver (List.range 128) (fun f t => t.flowReverted f) u) := by
    unfold execFailoverAtN
    rw [whileRuns_running _ hr, hn]
    rfl
  have : Open (fun p => p ∉ [Part.arb, .mem, .flows]) .arb := open_of_mem (by decide)
  have : Open (fun p => p ∉ [Part.arb, .mem, .flows]) .mem := open_of_mem (by decide)
  have : Open (fun p => p ∉ [Part.arb, .mem, .flows]) .flows := open_of_mem (by decide)
  have hsame : KeepsOut (fun p => p ∉ [Part.arb, .mem, .flows]) s (execFailoverAtN s) := execFailoverAtN_keeps (Keeps.refl _ s)
  have harb : (foldOver (List.range 128) (fun f t => t.flowReverted f) u).arb = u.arb :=
    foldOver_preserves (P := fun t => t.arb = u.arb) _ _ u rfl fun f _ t ht => (t.flowReverted_arb f).trans ht
  have hflows : ∀ f ∈ List.range 128, (vget (foldOver (List.range 128) (fun f t => t.flowReverted f) u).flows f).begun = false :=
    foldOver_each (Q := fun f t => (vget t.flows f).begun = false) _ _ u (fun f hf t => t.flowReverted_begun (List.mem_range.1 hf))
      fun f _ j t ht => t.flowReverted_keeps f j ht
  refine completes_of_eq heq ⟨?_, ?_, fun f => ⟨hflows f (List.mem_range.2 f.isLt), Keeps.sameBut (hsame _ heq)⟩⟩
  · rw [harb]
    rfl
  · rw [harb]
    rfl

end Sys2Proof.Machine
end

section
/-! SUPPORT. A claim, its grant, and the joins that end well or fail (for O29). -/

namespace Sys2Proof.Machine

/-! ### CLAIM (R369, R377) -/

theorem arbstat_apart : ∀ c : Fin 2, ARB.ARBSTAT_MITTEN.apart (arbRole c) = true ∧ (arbJoinFail c).apart (arbRole c) = true ∧
    (arbRole c).apart (arbJoinFail c) = true := by decide

theorem arbRole_fits : ∀ c : Fin 2, (arbRole c).lo + (arbRole c).w ≤ 32 ∧ (arbRole c).w = 2 := by decide

theorem arbJoinFail_fits : ∀ c : Fin 2, (arbJoinFail c).lo + (arbJoinFail c).w ≤ 32 ∧ 0 < (arbJoinFail c).w := by decide

/-- The role that the arbiter holds of a die, once it is set. -/
theorem State.get_set_arbRole (s : State) (c : Fin 2) {role : Nat} (h : role < 4) : (s.set (arbRole c) role).get (arbRole c) = role := by
  obtain ⟨hfits, hw⟩ := arbRole_fits c
  rw [State.get_set_self _ _ _ hfits, hw]
  exact Nat.mod_eq_of_lt h

theorem claim_unclaimed (c : Fin 2) (len : Nat) (s : State) (hc : (s.cmd c).claim = false) (hr : s.mainRuns = true) :
    Completes (exec (.claim c len) s) (fun t => t = s) := by
  refine completes_whileRuns hr (completes_next ?_)
  rw [hc]
  rfl

theorem claim_swaps (c : Fin 2) (len : Nat) (s : State) (hc : (s.cmd c).claim = true) (htake : s.arb.takeTo ≠ some c.val)
    (hswap : s.arb.swapN = some (s.cmd c).lastCpn) (hshell : s.arbShell ≠ some c.val) (hr : s.mainRuns = true) :
    Completes (exec (.claim c len) s) (fun t => t.arb.swapClaim = true ∧ SameBut [.arb] s t) := by
  have : Open (fun p => p ∉ [Part.arb]) .arb := open_of_mem (by decide)
  refine completes_whileRuns hr (completes_next ?_)
  rw [hc, if_neg (by decide), if_neg htake, if_pos ⟨hswap, hshell⟩]
  exact ⟨rfl, Keeps.sameBut (State.modArb_keeps (Keeps.refl _ s) _)⟩

/-- The die that claimed becomes the shell (R369). -/
def State.shellGiven (s : State) (c : Nat) (len : Nat) : State :=
  (((s.set (arbRole c) 3).setB ARB.ARBSTAT_MITTEN false).setReg ARB.MIT_LEN (BitVec.ofNat 32 len)).modArb
    (fun a => { a with takeTo := none, wire := some c, nShell := some c })

theorem execClaim_eq (c : Fin 2) (len : Nat) (s : State) (hc : (s.cmd c).claim = true) (htake : s.arb.takeTo = some c.val) (hr : s.mainRuns = true) :
    execClaim c len s = .next ((s.shellGiven c len).send ⟨.grant, Die.s.code, [c.val]⟩) := by
  unfold execClaim
  rw [whileRuns_running _ hr, hc, if_neg (by decide), if_pos htake]
  rfl

theorem State.shellGiven_get (s : State) (c len : Nat) {g : RF} (hg : g.addr ≠ ARB.MIT_LEN) :
    (s.shellGiven c len).get g = ((s.set (arbRole c) 3).setB ARB.ARBSTAT_MITTEN false).get g := by
  unfold State.shellGiven
  rw [State.get_of_cell (State.cell_of_regs (State.modArb_regs _ _) _), State.get_of_cell (State.cell_setReg_ne _ _ _ _ hg)]

theorem State.shellGiven_regsBut (s : State) (c len : Nat) : RegsBut [ARB.ARBSTAT, ARB.MIT_LEN] s (s.shellGiven c len) := by
  intro a ha
  obtain ⟨hstat, hlen⟩ : a ≠ ARB.ARBSTAT ∧ a ≠ ARB.MIT_LEN := by simpa using ha
  unfold State.shellGiven
  rw [State.cell_of_regs (State.modArb_regs _ _), State.cell_setReg_ne _ _ _ _ hlen, State.cell_setB_ne _ _ _ _ hstat,
    State.cell_set_ne _ _ _ _ (arbRole_addr c ▸ hstat)]

theorem claim_takesOver (c : Fin 2) (len : Nat) (s : State) (hc : (s.cmd c).claim = true) (htake : s.arb.takeTo = some c.val) (hr : s.mainRuns = true) :
    Completes (exec (.claim c len) s) (fun t => t.get (arbRole c) = 3 ∧ t.flag ARB.ARBSTAT_MITTEN = false ∧ t.arb.wire = some c.val ∧
      t.arb.takeTo = none ∧ t.reg ARB.MIT_LEN = BitVec.ofNat 32 len ∧ SameBut [.regs, .arb, .out] s t ∧ RegsBut [ARB.ARBSTAT, ARB.MIT_LEN] s t) := by
  have : Open (fun p => p ∉ [Part.regs, .arb, .out]) .regs := open_of_mem (by decide)
  have : Open (fun p => p ∉ [Part.regs, .arb, .out]) .arb := open_of_mem (by decide)
  have : Open (fun p => p ∉ [Part.regs, .arb, .out]) .out := open_of_mem (by decide)
  have hsame : Keeps (fun p => p ∉ [Part.regs, .arb, .out]) s ((s.shellGiven c len).send ⟨.grant, Die.s.code, [c.val]⟩) :=
    State.send_keeps (State.modArb_keeps (State.setReg_keeps (State.setB_keeps (State.set_keeps (Keeps.refl _ s) _ _) _ _) _ _) _) _
  have hcell (a : Nat) : ((s.shellGiven c len).send ⟨.grant, Die.s.code, [c.val]⟩).cell a = (s.shellGiven c len).cell a :=
    State.cell_of_regs (State.send_regs _ _) a
  have hrole : (arbRole c).addr ≠ ARB.MIT_LEN := by
    rw [arbRole_addr]
    decide
  refine completes_of_eq (execClaim_eq c len s hc htake hr) ⟨?_, ?_, rfl, rfl, ?_, hsame.sameBut, fun a ha =>
    (hcell a).trans (s.shellGiven_regsBut c len a ha)⟩
  · rw [State.get_of_cell (hcell _), s.shellGiven_get c len hrole, State.get_setB_apart _ _ (arbstat_apart c).1]
    exact s.get_set_arbRole c (by decide)
  · rw [State.flag_of_cell (hcell _), State.flag_of_get (s.shellGiven_get c len (g := ARB.ARBSTAT_MITTEN) (by decide))]
    exact State.flag_setB_self _ _ _ (of_decide_eq_true rfl) Nat.one_pos
  · rw [State.reg_of_cell (hcell _), State.shellGiven, State.reg_of_cell (State.cell_of_regs (State.modArb_regs _ _) _)]
    exact State.reg_setReg_self _ _ _

/-! ### GRANT (R344, R369, R377) -/

theorem State.rolesApplied_none (s : State) (c : Nat) (q : Snapshot) (hnext : (s.cmd c).nextRole = none) (hswap : (s.cmd c).swapAt = none) :
    s.rolesApplied c q = s.framesApplied c q := by
  have hcmd : (s.framesApplied c q).cmd c = s.cmd c := State.cmd_of_cmds (s.framesApplied_cmds c q) c
  have hrole : (s.framesApplied c q).applyRole c = s.framesApplied c q := by
    unfold State.applyRole
    rw [hcmd, hnext]
  unfold State.rolesApplied
  rw [hrole]
  unfold State.applySwap
  rw [hcmd, hswap]
  exact if_neg (by simp)

theorem cmdstat_notFrame : ∀ c : Fin 2, (CMD.CMDSTAT_ROLE c).addr ∉ frameRegs c ∧ (CMD.CMDSTAT_ROLE c).addr ≠ CMD.DONE c := by decide

/-- A period start with no role change and no SWAP leaves the role and CLAIM. -/
theorem State.beginPeriod_settled (s : State) (c : Fin 2) (q : Snapshot) (hnext : (s.cmd c).nextRole = none) (hswap : (s.cmd c).swapAt = none) :
    (s.beginPeriod c q).role c = s.role c ∧ ((s.beginPeriod c q).cmd c).claim = (s.cmd c).claim := by
  obtain ⟨hframe, hdone⟩ := cmdstat_notFrame c
  rw [State.beginPeriod_eq, State.rolesApplied_none s c q hnext hswap]
  constructor
  · refine (State.modCmd_get _ _ _ _).trans ((State.get_of_cell (s.framesApplied_cell c q hframe)).trans ?_)
    exact State.get_of_cell (State.cell_setReg_ne _ _ _ _ hdone)
  · rw [State.cmd_modCmd_self _ _ c.isLt, State.cmd_of_cmds (s.framesApplied_cmds c q)]
    rfl

theorem State.startChosen_role (s : State) (c : Fin 2) (q : Snapshot) : ((s.snapshotTaken c).toldOther c q).role c = s.role c := by
  have hskip : (CMD.SKIPCNT_SKIP_CNT c).apart (CMD.CMDSTAT_ROLE c) = true := by revert c; decide
  exact (State.get_of_cell (State.cell_of_regs (State.toldOther_regs _ _ _) _)).trans (s.snapshotTaken_get c hskip)

/-- A start with no role change, no SWAP and no TAKE leaves the role and CLAIM. -/
theorem State.tryStart_settled (s : State) (c : Fin 2) (hnext : (s.cmd c).nextRole = none) (hswap : (s.cmd c).swapAt = none)
    (htake : s.flag (CMD.CMDSTAT_TAKE c) = false) : (s.tryStart c).role c = s.role c ∧ ((s.tryStart c).cmd c).claim = (s.cmd c).claim := by
  rcases s.tryStart_cases c with h0 | ⟨_, htaken, _⟩ | ⟨d, -, hstart⟩
  · rw [h0]
    exact ⟨rfl, rfl⟩
  · exact absurd (htake.symm.trans htaken) Bool.false_ne_true
  · rw [hstart]
    let q := d.mark (s.cmd c).failover (s.cmd c).resumed
    have hstep := s.startChosen_step c q c
    have hnext' := (hstep.same CmdDie.nextRole fun _ => rfl).trans hnext
    have hswap' : (((s.snapshotTaken c).toldOther c q).cmd c).swapAt = none := hstep.swap.elim (fun e => e.trans hswap) id
    obtain ⟨hrole, hclaim⟩ := State.beginPeriod_settled _ c q hnext' hswap'
    exact ⟨hrole.trans (s.startChosen_role c q), hclaim.trans (hstep.same CmdDie.claim fun _ => rfl)⟩

/-- The die that holds TAKE becomes the shell at GRANT, before it starts. -/
def State.granted (s : State) (c : Nat) : State :=
  ((s.setB (CMD.CMDSTAT_TAKE c) false).takeRole c 3).modCmd c (fun x => { x with claim := false, nextRole := none, toRun := [], failover := true })

theorem State.grant_take (s : State) (c : Nat) (hc : (s.cmd c).claim = true) (htake : s.flag (CMD.CMDSTAT_TAKE c) = true) :
    s.grant c = (s.granted c).tryStart c := by
  unfold State.grant
  rw [hc, if_neg (by decide), if_pos htake]
  rfl

theorem State.grant_noTake (s : State) (c : Nat) (hc : (s.cmd c).claim = true) (htake : s.flag (CMD.CMDSTAT_TAKE c) = false) :
    s.grant c = s.modCmd c (fun x => { x with claim := false, held := false }) := by
  unfold State.grant
  rw [hc, if_neg (by decide), htake, if_neg Bool.false_ne_true]

theorem FieldSame.takeRole {g : RF} {r s : State} (h : FieldSame g r s) (c role : Nat) (hrole : (CMD.CMDSTAT_ROLE c).apart g = true)
    (hg : ∀ j ∈ [0, 1], ∀ f ∈ [CMD.DBGSTAT_ATTACHED j, CMD.DBGSTAT_HALTED j, CMD.DBGSTAT_DBG_DROP j], f.apart g = true) :
    FieldSame g r (s.takeRole c role) := .ite h ((h.set _ _ hrole).dropDebug hg)

theorem take_apart : ∀ c : Fin 2, (CMD.CMDSTAT_ROLE c).apart (CMD.CMDSTAT_TAKE c) = true ∧
    ∀ j ∈ [0, 1], ∀ f ∈ [CMD.DBGSTAT_ATTACHED j, CMD.DBGSTAT_HALTED j, CMD.DBGSTAT_DBG_DROP j], f.apart (CMD.CMDSTAT_TAKE c) = true := by decide

theorem take_offStart : ∀ c : Fin 2, (CMD.CMDSTAT_TAKE c).offStart c = true ∧ (CMD.CMDSTAT_TAKE c).addr ≠ CMD.DONE c := by decide

theorem State.granted_take (s : State) (c : Fin 2) : (s.granted c).flag (CMD.CMDSTAT_TAKE c) = false := by
  obtain ⟨hrole, hdebug⟩ := take_apart c
  have hsame := ((FieldSame.refl (CMD.CMDSTAT_TAKE c) (s.setB (CMD.CMDSTAT_TAKE c) false)).takeRole c 3 hrole hdebug).modCmd c
    (fun x => { x with claim := false, nextRole := none, toRun := [], failover := true })
  exact hsame.flag.trans (State.flag_setB_self _ _ _ (of_decide_eq_true rfl) Nat.one_pos)

theorem State.granted_role (s : State) (c : Fin 2) : (s.granted c).role c = 3 :=
  (State.modCmd_get _ _ _ _).trans (State.takeRole_role _ c (by decide))

/-- What the die that takes over has held back and is named for stays as it was. -/
theorem State.granted_cmd (s : State) (c : Fin 2) : ((s.granted c).cmd c).claim = false ∧ ((s.granted c).cmd c).nextRole = none ∧
    ((s.granted c).cmd c).doneWait = (s.cmd c).doneWait ∧ ((s.cmd c).heldWrites = [] → ((s.granted c).cmd c).heldWrites = []) ∧
    ((s.cmd c).swapAt = none → ((s.granted c).cmd c).swapAt = none) := by
  have hstep := (s.setB (CMD.CMDSTAT_TAKE c) false).takeRole_step c 3 c
  rw [State.cmd_setB] at hstep
  unfold State.granted
  rw [State.cmd_modCmd_self _ _ c.isLt]
  exact ⟨rfl, rfl, hstep.same CmdDie.doneWait fun _ => rfl, fun h => hstep.held.elim (fun e => e.trans h) id,
    fun h => hstep.swap.elim (fun e => e.trans h) id⟩

/-- GRANT with nothing held back: nothing goes out behind the grant. -/
theorem grant_nothingHeld {c : Fin 2} {s : State} {P : State → Prop} (hr : s.mainRuns = true) (hheld : ((s.grant c).cmd c).heldWrites = [])
    (hwait : ((s.grant c).cmd c).doneWait = []) (hP : P (s.grant c))
    (hP' : P ((s.grant c).modCmd c (fun x => { x with doneWait := [], heldWrites := [] }))) : Completes (exec (.grant c) s) P := by
  refine completes_whileRuns hr (completes_next ?_)
  dsimp only
  rw [hheld, List.foldl_nil]
  unfold State.doneRelease
  rw [hwait, List.foldl_nil]
  split
  · exact hP
  · exact hP'

theorem grant_takesOver (c : Fin 2) (s : State) (hc : (s.cmd c).claim = true) (htake : s.flag (CMD.CMDSTAT_TAKE c) = true)
    (hheld : (s.cmd c).heldWrites = []) (hwait : (s.cmd c).doneWait = []) (hswap : (s.cmd c).swapAt = none) (hr : s.mainRuns = true) :
    Completes (exec (.grant c) s) (fun t => t.role c = 3 ∧ t.flag (CMD.CMDSTAT_TAKE c) = false ∧ (t.cmd c).claim = false) := by
  obtain ⟨hclaim, hnext, hdone, hwrites, hat⟩ := s.granted_cmd c
  obtain ⟨hoff, haddr⟩ := take_offStart c
  obtain ⟨hrole, hstill⟩ := (s.granted c).tryStart_settled c hnext (hat hswap) (s.granted_take c)
  have hstep := (DiesStep.refl CmdDie.offStart (s.granted c)).tryStart c c
  have heq := s.grant_take c hc htake
  have hflag : ((s.granted c).tryStart c).flag (CMD.CMDSTAT_TAKE c) = false :=
    (State.flag_of_get ((s.granted c).tryStart_field hoff haddr)).trans (s.granted_take c)
  refine grant_nothingHeld hr ?_ ?_ ?_ ?_
  · rw [heq]
    exact hstep.held.elim (fun e => e.trans (hwrites hheld)) id
  · rw [heq]
    exact (hstep.same CmdDie.doneWait fun _ => rfl).trans (hdone.trans hwait)
  · rw [heq]
    exact ⟨hrole.trans (s.granted_role c), hflag, hstill.trans hclaim⟩
  · rw [heq]
    refine ⟨(State.modCmd_get _ _ _ _).trans (hrole.trans (s.granted_role c)), (State.flag_of_get (State.modCmd_get _ _ _ _)).trans hflag, ?_⟩
    rw [State.cmd_modCmd_self _ _ c.isLt]
    exact hstill.trans hclaim

theorem grant_ends (c : Fin 2) (s : State) (hc : (s.cmd c).claim = true) (htake : s.flag (CMD.CMDSTAT_TAKE c) = false)
    (hheld : (s.cmd c).heldWrites = []) (hwait : (s.cmd c).doneWait = []) (hr : s.mainRuns = true) :
    Completes (exec (.grant c) s) (fun t => (t.cmd c).claim = false ∧ (t.cmd c).held = false ∧ SameBut [.cmds] s t) := by
  have heq := s.grant_noTake c hc htake
  have hcmd : (s.grant c).cmd c = { s.cmd c with claim := false, held := false } := by
    rw [heq]
    exact s.cmd_modCmd_self _ c.isLt
  have hsame : SameBut [.cmds] s (s.grant c) := by
    rw [heq]
    exact s.modCmd_sameBut c _
  refine grant_nothingHeld hr ?_ ?_ ⟨?_, ?_, hsame⟩ ⟨?_, ?_, hsame.trans (State.modCmd_sameBut _ c _)⟩
  · rw [hcmd]
    exact hheld
  · rw [hcmd]
    exact hwait
  · rw [hcmd]
  · rw [hcmd]
  · rw [State.cmd_modCmd_self _ _ c.isLt, hcmd]
  · rw [State.cmd_modCmd_self _ _ c.isLt, hcmd]

/-- A command die of which nothing is told apart: `Steps` of it speaks of the held writes and the SWAP alone. -/
def CmdDie.offAll (_ : CmdDie) : CmdDie := default

theorem CmdDie.offAll_eq (x y : CmdDie) : x.offAll = y.offAll := rfl

section
variable {r s : State}

theorem DiesStep.offAll {e : CmdDie → CmdDie} {t : State} (h : DiesStep CmdDie.offAll r s) (h' : DiesStep e s t) : DiesStep CmdDie.offAll r t :=
  h.trans (h'.mono fun x => CmdDie.offAll_eq (e x) x)

theorem DiesStep.sendHeartbeat (h : DiesStep CmdDie.offAll r s) (c : Nat) (sig : Option (BitVec 64)) :
    DiesStep CmdDie.offAll r (s.sendHeartbeat c sig) := by
  unfold State.sendHeartbeat
  extract_lets h0 h1
  refine (h.setReg _ _).modCmd c _ ?_
  exact fun _ => ⟨rfl, .inl rfl, .inl rfl⟩

theorem DiesStep.periodClosed (h : DiesStep CmdDie.offAll r s) (c : Nat) : DiesStep CmdDie.offAll r (s.periodClosed c) := by
  unfold State.periodClosed
  extract_lets x t
  have ht : DiesStep CmdDie.offAll r t := h.modCmd c _ fun _ => ⟨rfl, .inl rfl, .inl rfl⟩
  exact .ite ((ht.offAll ((DiesStep.refl CmdDie.offWindow t).closeWindow c _)).sendHeartbeat c _) (ht.sendHeartbeat c _)

theorem DiesStep.doneWrite (h : DiesStep CmdDie.offAll r s) (c k : Nat) : DiesStep CmdDie.offAll r (s.doneWrite c k) := by
  rcases Bool.eq_false_or_eq_true ((s.cmd c).holdsDone k) with hh | hh
  · rw [s.doneWrite_waits c k hh]
    exact h.modCmd c _ fun _ => ⟨rfl, .inl rfl, .inl rfl⟩
  · rw [s.doneWrite_eq c k hh]
    have hset : DiesStep CmdDie.offAll r (s.setBit (CMD.DONE_DONE c) k true) := h.set _ _
    exact .ite hset ((hset.periodClosed c).offAll ((DiesStep.refl CmdDie.offStart _).tryStart c))

/-- After the DONE writes that waited, no write of the die is held (R344). -/
theorem State.doneRelease_heldWrites (s : State) (c : Fin 2) : ((s.doneRelease c).cmd c).heldWrites = [] := by
  unfold State.doneRelease
  have hstep := (DiesStep.refl CmdDie.offAll (s.modCmd c (fun x => { x with doneWait := [], heldWrites := [] }))).foldl (s.cmd c).doneWait
    (fun t k => t.doneWrite c k) (fun _ k ht => ht.doneWrite c k) c
  refine hstep.held.elim (fun e => e.trans ?_) id
  rw [s.cmd_modCmd_self _ c.isLt]

end

theorem grant_releases (c : Fin 2) (s : State) (hc : (s.cmd c).claim = true) (htake : s.flag (CMD.CMDSTAT_TAKE c) = false) (hr : s.mainRuns = true) :
    Completes (exec (.grant c) s) (fun t => (t.cmd c).heldWrites = []) := by
  have hheld : ((s.grant c).cmd c).held = false := by
    rw [s.grant_noTake c hc htake, s.cmd_modCmd_self _ c.isLt]
  refine completes_whileRuns hr (completes_next ?_)
  dsimp only
  rw [hheld, if_neg Bool.false_ne_true]
  exact State.doneRelease_heldWrites _ c

/-! ### CLAIM_TIMEOUT (R370) -/

theorem claimTimeout_stops (l : Nat) (s : State) (hl : s.arb.takeTo = some l) (hr : s.mainRuns = true) :
    Completes (exec .claimTimeout s) (fun t => t.arb.takeTo = none ∧ t.flag ARB.ARBSTAT_SS1_REQ = true) := by
  refine completes_whileRuns hr (completes_next ?_)
  rw [hl]
  refine ⟨rfl, ?_⟩
  exact (State.flag_of_cell (State.cell_of_regs (State.send_regs _ _) _)).trans
    (State.flag_setB_self _ ARB.ARBSTAT_SS1_REQ true (of_decide_eq_true rfl) Nat.one_pos)

/-! ### The end of a join (R374, R375) -/

theorem joinReplayComplete_names (c : Fin 2) (s : State) (hrole : s.get (arbRole c) = 1) (hwait : (s.cmd c).joinWait = false)
    (hrun : (s.cmd c).toRun = []) (hr : s.mainRuns = true) : Completes (exec (.joinReplayComplete c) s) (fun t =>
      (t.cmd c).nextRole = some 2 ∧ (t.cmd c).joinFails = 0 ∧ SameBut [.mem, .cmds] s t) := by
  have : Open (fun p => p ∉ [Part.mem, .cmds]) .mem := open_of_mem (by decide)
  have : Open (fun p => p ∉ [Part.mem, .cmds]) .cmds := open_of_mem (by decide)
  refine completes_whileRuns hr (completes_next ?_)
  rw [hrole, hwait, hrun, if_neg (by simp)]
  refine ⟨?_, ?_, Keeps.sameBut (State.modCmd_keeps (State.joinLoad_keeps (Keeps.refl _ s) c) c _)⟩
  · rw [State.cmd_modCmd_self _ _ c.isLt]
  · rw [State.cmd_modCmd_self _ _ c.isLt]

theorem joinFail_again (c : Fin 2) (s : State) (hrole : s.get (arbRole c) = 1) (hfew : (s.cmd c).joinFails < 7) (hr : s.mainRuns = true) :
    Completes (exec (.joinFail c) s) (fun t => (t.cmd c).joinFails = (s.cmd c).joinFails + 1 ∧ (t.cmd c).joinWait = true ∧
      t.get (arbRole c) = 1 ∧ SameBut [.regs, .cmds] s t ∧ RegsBut [ARB.ARBSTAT] s t) := by
  have : Open (fun p => p ∉ [Part.regs, .cmds]) .regs := open_of_mem (by decide)
  have : Open (fun p => p ∉ [Part.regs, .cmds]) .cmds := open_of_mem (by decide)
  refine completes_whileRuns hr (completes_next ?_)
  rw [hrole, if_neg (by decide), s.joinFailed_few c hfew]
  refine ⟨?_, ?_, ?_, Keeps.sameBut ?_, fun a ha => ?_⟩
  · rw [State.cmd_modCmd_self _ _ c.isLt]
  · rw [State.cmd_modCmd_self _ _ c.isLt]
  · rw [State.modCmd_get]
    exact State.get_set_arbRole _ c (by decide)
  · exact State.modCmd_keeps (State.set_keeps (State.modCmd_keeps (State.modCmd_keeps (Keeps.refl _ s) _ _) _ _) _ _) _ _
  · rw [State.modCmd_cell, State.cell_set_ne _ _ _ _ (arbRole_addr c ▸ List.ne_of_not_mem_cons ha), State.joinDropped_cell]

theorem joinFail_held (c : Fin 2) (s : State) (hrole : s.get (arbRole c) = 1) (hmany : 7 ≤ (s.cmd c).joinFails) (hr : s.mainRuns = true) :
    Completes (exec (.joinFail c) s) (fun t => t.get (arbRole c) = 0 ∧ t.flag (arbJoinFail c) = true) := by
  obtain ⟨hfits, hw⟩ := arbJoinFail_fits c
  refine completes_whileRuns hr (completes_next ?_)
  rw [hrole, if_neg (by decide), s.joinFailed_many c hmany]
  constructor
  · rw [State.modCmd_get]
    exact State.get_set_arbRole _ c (by decide)
  · rw [State.flag_of_get (State.modCmd_get _ _ _ _), State.flag_set_apart _ _ (arbstat_apart c).2.2]
    exact State.flag_setB_self _ _ _ hfits hw

/-! ### Into LINER (R374) -/

theorem State.applyRole_enters (s : State) (c : Nat) (hnext : (s.cmd c).nextRole = some 2) (hrole : s.role c = 1) (hwin : (s.cmd c).win = none) :
    s.applyRole c = ((s.joined c).takeRole c 2).modCmd c (fun x => { x with nextRole := none, held := false, heldWrites := [] }) := by
  unfold State.applyRole
  rw [hnext]
  dsimp only
  rw [hrole, hwin]
  rfl

theorem arbRole_apart : ∀ c : Fin 2, ARB.HOLD_REM_HOLD_REM.apart (arbRole c) = true ∧ (CMD.CMDSTAT_ROLE c).apart (arbRole c) = true ∧
    ∀ j ∈ [0, 1], ∀ f ∈ [CMD.DBGSTAT_ATTACHED j, CMD.DBGSTAT_HALTED j, CMD.DBGSTAT_DBG_DROP j], f.apart (arbRole c) = true := by decide

theorem State.joined_arbRole (s : State) (c : Fin 2) : (s.joined c).get (arbRole c) = 2 := by
  have hset := s.get_set_arbRole c (role := 2) (by decide)
  unfold State.joined State.restartHoldoff
  extract_lets t
  split
  · exact (State.get_set_apart _ _ (arbRole_apart c).1).trans hset
  · exact hset

theorem State.applyRole_joins (s : State) (c : Fin 2) (hnext : (s.cmd c).nextRole = some 2) (hrole : s.role c = 1) (hwin : (s.cmd c).win = none) :
    (s.applyRole c).role c = 2 ∧ (s.applyRole c).get (arbRole c) = 2 := by
  obtain ⟨-, hstat, hdebug⟩ := arbRole_apart c
  rw [s.applyRole_enters c hnext hrole hwin]
  constructor
  · exact (State.modCmd_get _ _ _ _).trans (State.takeRole_role _ c (by decide))
  · rw [State.modCmd_get]
    exact ((FieldSame.refl (arbRole c) (s.joined c)).takeRole c 2 hstat hdebug).trans (s.joined_arbRole c)

/-- The first period of a die that has joined makes it the liner. -/
theorem State.beginPeriod_joins (s : State) (c : Fin 2) (q : Snapshot) (hnext : (s.cmd c).nextRole = some 2) (hrole : s.role c = 1)
    (hwin : (s.cmd c).win = none) (hswap : (s.cmd c).swapAt = none) :
    (s.beginPeriod c q).role c = 2 ∧ (s.beginPeriod c q).get (arbRole c) = 2 := by
  obtain ⟨hframe, hdone⟩ := cmdstat_notFrame c
  have hcmd : (s.framesApplied c q).cmd c = s.cmd c := State.cmd_of_cmds (s.framesApplied_cmds c q) c
  have hrole' : (s.framesApplied c q).role c = 1 :=
    (State.get_of_cell (s.framesApplied_cell c q hframe)).trans ((State.get_of_cell (State.cell_setReg_ne _ _ _ _ hdone)).trans hrole)
  rw [← hcmd] at hnext hwin hswap
  have hstep := (DiesStep.refl CmdDie.offPeriod (s.framesApplied c q)).applyRole c c
  have hnoswap : (((s.framesApplied c q).applyRole c).cmd c).swapAt ≠ some q.cpn := by
    rw [hstep.swap.elim (fun e => e.trans hswap) id]
    simp
  have hroles : s.rolesApplied c q = (s.framesApplied c q).applyRole c := if_neg hnoswap
  obtain ⟨hdie, harb⟩ := State.applyRole_joins _ c hnext hrole' hwin
  rw [State.beginPeriod_eq, hroles]
  exact ⟨(State.modCmd_get _ _ _ _).trans hdie, (State.modCmd_get _ _ _ _).trans harb⟩

theorem roles_apart_fetch : ∀ c : Fin 2, (CMD.SNAPCNT_FETCH_CNT c).apart (CMD.CMDSTAT_ROLE c) = true ∧
    (CMD.CMDSTAT_ROLE c).addr ≠ CMD.DBGSTAT c ∧ (arbRole c).addr ≠ CMD.DBGSTAT c := by decide

theorem fetchComplete_joins (c : Fin 2) (q : Snapshot) (r : List Snapshot) (s : State) (hrole : s.role c = 1) (hrun : (s.cmd c).run = none)
    (hq : (s.cmd c).toRun = q :: r) (htake : s.flag (CMD.CMDSTAT_TAKE c) = false) (hhalt : s.flag (CMD.DBGSTAT_HALTED c) = false)
    (hnext : (s.cmd c).nextRole = some 2) (hwin : (s.cmd c).win = none) (hswap : (s.cmd c).swapAt = none) (hr : s.mainRuns = true) :
    Completes (exec (.fetchComplete c) s) (fun t => t.role c = 2 ∧ t.get (arbRole c) = 2) := by
  let x := (s.cmd c).fetch' q
  obtain ⟨hcnt, hstat, harb⟩ := roles_apart_fetch c
  have hcmd := s.fetchTaken_cmd c q r x.2
  have hbegun := (s.fetchTaken c q r x.2).beginPeriod_joins c x.1 (by rw [hcmd]; exact hnext) ((s.fetchTaken_get c q r x.2 hcnt).trans hrole)
    (by rw [hcmd]; exact hwin) (by rw [hcmd]; exact hswap)
  refine completes_of_eq ((execFetchComplete_eq c s ⟨.inr hrole, hrun, hq, htake, hhalt⟩ hr).trans (congrArg _ (if_neg (by rw [hnext]; decide)))) ?_
  exact ⟨(State.fetchedPeriod_get _ c _ _ hstat).trans hbegun.1, (State.fetchedPeriod_get _ c _ _ harb).trans hbegun.2⟩

/-! ### The clauses together -/

/-- Settles O29: one lemma for each command and outcome. -/
theorem arbiter : Obligations.Arbiter :=
  ⟨heartbeatReceived_heard, heartbeatReceived_late, heartbeatTimeout_loses, heartbeatTimeout_untimed, roleWireChange_shows, verdictReceived_names,
    verdictReceived_removes, verdictReceived_swap, failoverAtN_reverts, claim_unclaimed, claim_swaps, claim_takesOver, grant_takesOver, grant_ends,
    grant_releases, claimTimeout_stops, joinReplayComplete_names, fetchComplete_joins, joinFail_again, joinFail_held⟩

end Sys2Proof.Machine
end

section
/-! SUPPORT. Swaps named, done and cancelled, and a debugger that attaches and halts (for O30). -/

namespace Sys2Proof.Machine

/-! ### HOLDOFF_EXPIRE (R376, R377) -/

theorem holdoffExpire_names (c : Fin 2) (s : State) (hrole : s.get (arbRole c) = 2) (hhome : s.get ARB.ARBSTAT_HOME = c.val)
    (hauto : s.dnat DP.ARBP_AUTO_RETURN = 1) (hnone : s.arb.swapN = none) (hrem : s.get ARB.HOLD_REM_HOLD_REM = 0) (hr : s.mainRuns = true) :
    Completes (exec (.holdoffExpire c) s) (fun t => t.arb.swapN = some (if 2 ^ 32 ≤ ((s.get (CMD.CPN_CPN (otherCmd c)) + 2) % 2 ^ 32 + s.sigWin
      (otherCmd c) - 1) / s.sigWin (otherCmd c) * s.sigWin (otherCmd c) then 0 else ((s.get (CMD.CPN_CPN (otherCmd c)) + 2) % 2 ^ 32 + s.sigWin
      (otherCmd c) - 1) / s.sigWin (otherCmd c) * s.sigWin (otherCmd c)) ∧ t.flag ARB.ARBSTAT_SWAP_PEND = true ∧ SameBut [.regs, .arb, .out] s t ∧
      RegsBut [ARB.ARBSTAT] s t) := by
  have : Open (fun p => p ∉ [Part.regs, .arb, .out]) .regs := open_of_mem (by decide)
  have : Open (fun p => p ∉ [Part.regs, .arb, .out]) .arb := open_of_mem (by decide)
  have : Open (fun p => p ∉ [Part.regs, .arb, .out]) .out := open_of_mem (by decide)
  refine completes_whileRuns hr (completes_next ?_)
  have hdue : (decide (s.get (arbRole c) = 2) && decide (s.get ARB.ARBSTAT_HOME = c.val) && decide (s.dnat DP.ARBP_AUTO_RETURN = 1) &&
      s.arb.swapN.isNone && decide (s.get ARB.HOLD_REM_HOLD_REM = 0)) = true := by
    rw [hrole, hhome, hauto, hnone, hrem]
    simp
  rw [if_pos hdue]
  extract_lets w p n u
  have hregs : ((u.modArb (fun a => { a with swapN := some n, swapClaim := false, swapHb := false })).send ⟨.verdict, Die.s.code, [4, c.val, n]⟩).regs = u.regs :=
    (State.send_regs _ _).trans (State.modArb_regs _ _)
  refine ⟨rfl, ?_, Keeps.sameBut ?_, fun a ha => ?_⟩
  · rw [State.flag_of_cell (State.cell_of_regs hregs _)]
    exact State.flag_setB_self _ _ _ (of_decide_eq_true rfl) Nat.one_pos
  · exact State.send_keeps (State.modArb_keeps (State.setB_keeps (Keeps.refl _ s) _ _) _) _
  · rw [State.cell_of_regs hregs]
    exact State.cell_setB_ne _ _ _ _ (List.ne_of_not_mem_cons ha)

/-! ### SWAP (R377) -/

/-- The die that the arbiter holds as shell is one of the two. -/
theorem State.arbShell_lt {s : State} {c : Nat} (h : s.arbShell = some c) : c < 2 := by
  have hmem := List.mem_of_find?_eq_some h
  simp only [List.mem_cons, List.not_mem_nil, or_false] at hmem
  omega

/-- The shell's role goes from die `o` to die `n`. -/
def State.swapped (s : State) (o n : Nat) : State :=
  let t := (s.decide' 4 6 (some .ret)).incSat ARB.ARBCNT_RET_CNT
  let t := ((t.set (arbRole o) 2).set (arbRole n) 3).setB ARB.ARBSTAT_SWAP_PEND false
  ((t.setB (CMD.CMDSTAT_SWAP_PEND o) false).setB (CMD.CMDSTAT_SWAP_PEND n) false).dropDebug

theorem execSwap_eq {n c : Nat} (s : State) (hn : s.arb.swapN = some n) (hc : s.arbShell = some c) (hclaim : s.arb.swapClaim = true)
    (hhb : s.arb.swapHb = true) (hr : s.mainRuns = true) : execSwap s = .next (((s.swapped c (otherCmd c)).modArb (fun a => { a with
      swapN := none, swapClaim := false, swapHb := false, wire := some (otherCmd c), nShell := some (otherCmd c) })).send
        ⟨.grant, Die.s.code, [otherCmd c]⟩) := by
  unfold execSwap
  rw [whileRuns_running _ hr, hn, hc]
  dsimp only
  rw [hclaim, hhb]
  rfl

theorem swapFields_apart : ∀ c : Fin 2, ARB.ARBSTAT_SWAP_PEND.apart (arbRole c) = true ∧ (arbRole (otherCmd c)).apart (arbRole c) = true := by decide

theorem swapPend_apart_arb : ∀ c j : Fin 2, (CMD.CMDSTAT_SWAP_PEND j).apart (arbRole c) = true ∧
    (CMD.CMDSTAT_SWAP_PEND j).apart ARB.ARBSTAT_SWAP_PEND = true := by decide

theorem swapPend_apart_debug : ∀ j ∈ [0, 1], ∀ f ∈ [CMD.DBGSTAT_ATTACHED j, CMD.DBGSTAT_HALTED j, CMD.DBGSTAT_DBG_DROP j],
    f.apart ARB.ARBSTAT_SWAP_PEND = true := by decide

/-- The other command die, as a number below two. -/
def otherDie (c : Fin 2) : Fin 2 := ⟨otherCmd c, otherCmd_lt c⟩

/-- What the end of a SWAP's decision leaves of a field of ARBSTAT. -/
theorem FieldSame.swapEnds {r s : State} {g : RF} (h : FieldSame g r s) (o : Fin 2) (hpend : ∀ j : Fin 2, (CMD.CMDSTAT_SWAP_PEND j).apart g = true)
    (hdebug : ∀ j ∈ [0, 1], ∀ f ∈ [CMD.DBGSTAT_ATTACHED j, CMD.DBGSTAT_HALTED j, CMD.DBGSTAT_DBG_DROP j], f.apart g = true) :
    FieldSame g r ((s.setB (CMD.CMDSTAT_SWAP_PEND o) false).setB (CMD.CMDSTAT_SWAP_PEND (otherCmd o)) false).dropDebug :=
  ((h.setB _ _ (hpend o)).setB _ _ (hpend (otherDie o))).dropDebug hdebug

theorem State.swapped_roles (s : State) (o : Fin 2) : (s.swapped o (otherCmd o)).get (arbRole o) = 2 ∧
    (s.swapped o (otherCmd o)).get (arbRole (otherCmd o)) = 3 := by
  have hends (c : Fin 2) {t : State} := ((FieldSame.refl (arbRole c) t).setB ARB.ARBSTAT_SWAP_PEND false (swapFields_apart c).1).swapEnds o
    (fun j => (swapPend_apart_arb c j).1) (arbRole_apart c).2.2
  unfold State.swapped
  extract_lets t u
  constructor
  · exact (hends o).trans ((State.get_set_apart _ _ (swapFields_apart o).2).trans (t.get_set_arbRole o (by decide)))
  · exact (hends (otherDie o)).trans (State.get_set_arbRole _ (otherDie o) (by decide))

theorem State.swapped_pend (s : State) (o : Fin 2) : (s.swapped o (otherCmd o)).flag ARB.ARBSTAT_SWAP_PEND = false := by
  have hends {t : State} := (FieldSame.refl ARB.ARBSTAT_SWAP_PEND t).swapEnds o (fun j => (swapPend_apart_arb o j).2) swapPend_apart_debug
  unfold State.swapped
  extract_lets t u
  exact hends.flag.trans (State.flag_setB_self _ _ _ (of_decide_eq_true rfl) Nat.one_pos)

theorem swap_returns (n c : Nat) (s : State) (hn : s.arb.swapN = some n) (hc : s.arbShell = some c) (hclaim : s.arb.swapClaim = true)
    (hhb : s.arb.swapHb = true) (hr : s.mainRuns = true) : Completes (exec .swap s) (fun t => t.get (arbRole c) = 2 ∧
      t.get (arbRole (otherCmd c)) = 3 ∧ t.arb.swapN = none ∧ t.arb.wire = some (otherCmd c) ∧ t.flag ARB.ARBSTAT_SWAP_PEND = false) := by
  refine completes_of_eq (execSwap_eq s hn hc hclaim hhb hr) ?_
  lift c to Fin 2 using State.arbShell_lt hc
  have hcell (a : Nat) : (((s.swapped c (otherCmd c)).modArb (fun a => { a with
      swapN := none, swapClaim := false, swapHb := false, wire := some (otherCmd c), nShell := some (otherCmd c) })).send
        ⟨.grant, Die.s.code, [otherCmd c]⟩).cell a = (s.swapped c (otherCmd c)).cell a :=
    State.cell_of_regs ((State.send_regs _ _).trans (State.modArb_regs _ _)) a
  obtain ⟨hold, hnew⟩ := s.swapped_roles c
  exact ⟨(State.get_of_cell (hcell _)).trans hold, (State.get_of_cell (hcell _)).trans hnew, rfl, rfl,
    (State.flag_of_cell (hcell _)).trans (s.swapped_pend c)⟩

/-! ### SWAP_TIMEOUT (R378) -/

/-- A field that neither the end of a period of die `c` nor the start of the next writes. -/
def RF.offDone (g : RF) (c : Nat) : Bool :=
  g.offStart c && [CMD.DONE c, CMD.SIG_LO c, CMD.SIG_HI c, CMD.HEALTH c, ARB.ARBDEC, KPR.KQ].all (fun a => decide (g.addr ≠ a)) &&
    [arbRole 0, arbRole 1, arbJoinFail 0, arbJoinFail 1].all (fun f => f.apart g)

theorem RF.offDone_iff (g : RF) (c : Nat) : g.offDone c = true ↔ g.offStart c = true ∧
    (∀ a ∈ [CMD.DONE c, CMD.SIG_LO c, CMD.SIG_HI c, CMD.HEALTH c, ARB.ARBDEC, KPR.KQ], g.addr ≠ a) ∧
    ∀ f ∈ [arbRole 0, arbRole 1, arbJoinFail 0, arbJoinFail 1], f.apart g = true := by
  simp only [RF.offDone, Bool.and_eq_true, List.all_eq_true, decide_eq_true_eq, and_assoc]

/-- The arbiter's fields of a die are those of one of the two. -/
theorem arbFields_mem (j : Nat) : arbRole j ∈ [arbRole 0, arbRole 1, arbJoinFail 0, arbJoinFail 1] ∧
    arbJoinFail j ∈ [arbRole 0, arbRole 1, arbJoinFail 0, arbJoinFail 1] := by
  rcases Nat.eq_zero_or_pos j with rfl | hj
  · decide
  · have hrole : arbRole j = arbRole 1 := if_neg (by omega)
    have hfail : arbJoinFail j = arbJoinFail 1 := if_neg (by omega)
    rw [hrole, hfail]
    decide

section
variable {g : RF} {c : Nat} {r s : State}

theorem FieldSame.joinFailed (h : FieldSame g r s) (hg : g.offDone c = true) (j : Nat) : FieldSame g r (s.joinFailed j) := by
  obtain ⟨-, haddr, harb⟩ := (g.offDone_iff c).1 hg
  obtain ⟨hrole, hfail⟩ := arbFields_mem j
  have hdrop : FieldSame g r (s.joinDropped j) := h.of_cell (s.joinDropped_cell j _)
  rcases Nat.lt_or_ge (s.cmd j).joinFails 7 with hf | hf
  · rw [s.joinFailed_few j hf]
    exact (hdrop.set _ _ (harb _ hrole)).modCmd j _
  · rw [s.joinFailed_many j hf]
    have hdec : FieldSame g r ((s.joinDropped j).decide' 1 5 none) :=
      hdrop.of_cell (State.decide'_cell _ _ _ _ (haddr _ (by simp)) (haddr _ (by simp)))
    exact ((hdec.setB _ _ (harb _ hfail)).set _ _ (harb _ hrole)).modCmd j _

theorem FieldSame.closeWindow (h : FieldSame g r s) (hg : g.offDone c = true) (sig : BitVec 64) : FieldSame g r (s.closeWindow c sig) := by
  obtain ⟨-, haddr, -⟩ := (g.offDone_iff c).1 hg
  unfold State.closeWindow
  extract_lets x s1 s2 l differs s3 s4
  have h1 : FieldSame g r s1 :=
    (h.of_cell (State.cell_set_ne _ _ _ _ (haddr _ (by simp [CMD.SIG_LO_SIG_LO])))).of_cell
      (State.cell_set_ne _ _ _ _ (haddr _ (by simp [CMD.SIG_HI_SIG_HI])))
  have h2 : FieldSame g r s2 := h1.modCmd c _
  have h3 : FieldSame g r s3 := h2.modCmd l _
  have h4 : FieldSame g r s4 := h2.modCmd c _
  exact .ite (.ite (h3.joinFailed hg l) h3) (.ite (.ite (h4.joinFailed hg c) h4) h2)

theorem FieldSame.sendHeartbeat (h : FieldSame g r s) (hg : g.offDone c = true) (sig : Option (BitVec 64)) :
    FieldSame g r (s.sendHeartbeat c sig) := by
  obtain ⟨-, haddr, -⟩ := (g.offDone_iff c).1 hg
  unfold State.sendHeartbeat
  extract_lets h0 h1
  have hset : FieldSame g r (s.setReg (CMD.HEALTH c) h0) := h.of_cell (State.cell_setReg_ne _ _ _ _ (haddr _ (by simp)))
  exact hset.modCmd c _

theorem FieldSame.periodClosed (h : FieldSame g r s) (hg : g.offDone c = true) : FieldSame g r (s.periodClosed c) := by
  unfold State.periodClosed
  extract_lets x t
  have ht : FieldSame g r t := h.modCmd c _
  exact .ite ((ht.closeWindow hg _).sendHeartbeat hg _) (ht.sendHeartbeat hg _)

theorem FieldSame.tryStart (h : FieldSame g r s) (hg : g.offDone c = true) : FieldSame g r (s.tryStart c) := by
  obtain ⟨hstart, haddr, -⟩ := (g.offDone_iff c).1 hg
  exact (s.tryStart_field hstart (haddr _ (by simp))).trans h

theorem FieldSame.doneWrite (h : FieldSame g r s) (hg : g.offDone c = true) (k : Nat) : FieldSame g r (s.doneWrite c k) := by
  obtain ⟨-, haddr, -⟩ := (g.offDone_iff c).1 hg
  rcases Bool.eq_false_or_eq_true ((s.cmd c).holdsDone k) with hh | hh
  · rw [s.doneWrite_waits c k hh]
    exact h.modCmd c _
  · rw [s.doneWrite_eq c k hh]
    have hset : FieldSame g r (s.setBit (CMD.DONE_DONE c) k true) :=
      h.of_cell (State.cell_setBit_ne _ _ _ _ _ (haddr _ (by simp [CMD.DONE_DONE])))
    exact .ite hset ((hset.periodClosed hg).tryStart hg)

theorem FieldSame.doneRelease (h : FieldSame g r s) (hg : g.offDone c = true) : FieldSame g r (s.doneRelease c) := by
  unfold State.doneRelease
  exact List.foldlRecOn (motive := fun t : State => FieldSame g r t) _ _ (h.modCmd c _) fun t ht k _ => ht.doneWrite hg k

theorem DiesStep.doneRelease (h : DiesStep CmdDie.offAll r s) (c : Nat) : DiesStep CmdDie.offAll r (s.doneRelease c) := by
  unfold State.doneRelease
  refine DiesStep.foldl (h.modCmd c _ ?_) _ _ fun _ k ht => ht.doneWrite c k
  exact fun _ => ⟨rfl, .inr rfl, .inl rfl⟩

end

/-- The SWAP that dies `o` and `n` wait for is called off. -/
def State.swapCancelled (s : State) (o n : Nat) : State :=
  let t := (s.decide' 5 6 none).setB ARB.ARBSTAT_SWAP_PEND false
  let t := (t.setB (CMD.CMDSTAT_SWAP_PEND o) false).setB (CMD.CMDSTAT_SWAP_PEND n) false
  let t := t.modCmd o (fun x => { x with nextRole := if t.role o = 3 then none else some 3, swapAt := none })
  t.modCmd n (fun x => { x with nextRole := if t.role n = 3 then some 2 else none, swapAt := none, claim := false })

theorem execSwapTimeout_eq {n c : Nat} (s : State) (hn : s.arb.swapN = some n) (hc : s.arbShell = some c)
    (hdue : (s.arb.swapClaim && s.arb.swapHb) = false) (hr : s.mainRuns = true) : execSwapTimeout s =
      .next ((((s.swapCancelled c (otherCmd c)).doneRelease (otherCmd c)).modArb (fun a => { a with
        swapN := none, swapClaim := false, swapHb := false })).tryStart c) := by
  unfold execSwapTimeout
  rw [whileRuns_running _ hr, hn, hc]
  dsimp only
  rw [hdue, if_neg Bool.false_ne_true]
  rfl

theorem swapPend_offDone : ∀ c j : Fin 2, ARB.ARBSTAT_SWAP_PEND.offDone j = true ∧ (CMD.CMDSTAT_SWAP_PEND c).offDone j = true := by decide

theorem swapPend_apart_other : ∀ c : Fin 2, (CMD.CMDSTAT_SWAP_PEND (otherCmd c)).apart (CMD.CMDSTAT_SWAP_PEND c) = true := by decide

theorem State.swapCancelled_flags (s : State) (o : Fin 2) : (s.swapCancelled o (otherCmd o)).flag ARB.ARBSTAT_SWAP_PEND = false ∧
    (s.swapCancelled o (otherCmd o)).flag (CMD.CMDSTAT_SWAP_PEND o) = false := by
  unfold State.swapCancelled
  extract_lets t u v
  have hcell (f : CmdDie → CmdDie) (a : Nat) : (v.modCmd (otherCmd o) f).cell a = u.cell a :=
    (State.modCmd_cell _ _ _ _).trans (State.modCmd_cell _ _ _ _)
  constructor
  · refine (State.flag_of_cell (hcell _ _)).trans ?_
    exact (State.flag_setB_apart _ _ (swapPend_apart_arb o (otherDie o)).2).trans ((State.flag_setB_apart _ _ (swapPend_apart_arb o o).2).trans
      (State.flag_setB_self _ _ _ (of_decide_eq_true rfl) Nat.one_pos))
  · refine (State.flag_of_cell (hcell _ _)).trans ?_
    exact (State.flag_setB_apart _ _ (swapPend_apart_other o)).trans (State.flag_setB_self _ _ _ (of_decide_eq_true rfl) Nat.one_pos)

theorem State.swapCancelled_swapAt (s : State) (o : Fin 2) : ((s.swapCancelled o (otherCmd o)).cmd o).swapAt = none := by
  unfold State.swapCancelled
  extract_lets t u v
  rw [State.cmd_modCmd_ne _ _ (otherCmd_ne o).symm, State.cmd_modCmd_self _ _ o.isLt]

/-- A start leaves the arbiter. -/
theorem State.tryStart_arb (s : State) (c : Nat) : (s.tryStart c).arb = s.arb :=
  have : Open (fun p => p = Part.arb) .regs := open_of_eq (by decide)
  have : Open (fun p => p = Part.arb) .out := open_of_eq (by decide)
  have : Open (fun p => p = Part.arb) .life := open_of_eq (by decide)
  have : Open (fun p => p = Part.arb) .keeper := open_of_eq (by decide)
  have : Open (fun p => p = Part.arb) .cmds := open_of_eq (by decide)
  (State.tryStart_keeps (Keeps.refl (fun p => p = .arb) s) c).same .arb rfl

theorem swapTimeout_cancels (n c : Nat) (s : State) (hn : s.arb.swapN = some n) (hc : s.arbShell = some c)
    (hdue : (s.arb.swapClaim && s.arb.swapHb) = false) (hr : s.mainRuns = true) : Completes (exec .swapTimeout s) (fun t =>
      t.arb.swapN = none ∧ t.flag ARB.ARBSTAT_SWAP_PEND = false ∧ (t.cmd c).swapAt = none ∧ t.flag (CMD.CMDSTAT_SWAP_PEND c) = false) := by
  refine completes_of_eq (execSwapTimeout_eq s hn hc hdue hr) ?_
  lift c to Fin 2 using State.arbShell_lt hc
  have hfield {g : RF} (hg : ∀ j : Fin 2, g.offDone j = true) :=
    ((((FieldSame.refl g (s.swapCancelled c (otherCmd c))).doneRelease (hg (otherDie c))).of_cell
      (State.cell_of_regs (State.modArb_regs _ (fun a => { a with swapN := none, swapClaim := false, swapHb := false })) _)).tryStart (hg c)).flag
  have hdies := ((((DiesStep.refl CmdDie.offAll (s.swapCancelled c (otherCmd c))).doneRelease (otherCmd c)).of_cmds
    (State.modArb_cmds _ (fun a => { a with swapN := none, swapClaim := false, swapHb := false }))).offAll
      ((DiesStep.refl CmdDie.offStart _).tryStart c)) c
  obtain ⟨harb, hcmd⟩ := s.swapCancelled_flags c
  refine ⟨?_, (hfield fun j => (swapPend_offDone c j).1).trans harb, hdies.swap.elim (fun e => e.trans (s.swapCancelled_swapAt c)) id,
    (hfield fun j => (swapPend_offDone c j).2).trans hcmd⟩
  rw [State.tryStart_arb]
  rfl

end Sys2Proof.Machine
end

section
/-! SUPPORT. A debugger that attaches, halts, writes and goes on, and the restart of a removed command die (for O30). -/

namespace Sys2Proof.Machine

/-! ### DEBUG_ATTACH (R380) -/

theorem State.setB_sameBut (s : State) (f : RF) (b : Bool) : SameBut [.regs] s (s.setB f b) := s.setReg_sameBut _ _

theorem State.setB_regsBut (s : State) (f : RF) (b : Bool) {l : List Nat} (h : f.addr ∈ l) : RegsBut l s (s.setB f b) := s.setReg_regsBut _ _ h

theorem debugAttach_attaches (c : Fin 2) (s : State) (hc : s.role c = 3) (hallow : s.dnat DP.ARBP_DBG_ALLOW = 1) (hr : s.mainRuns = true) :
    Completes (exec (.debugAttach c) s) (fun t => t.flag (CMD.DBGSTAT_ATTACHED c) = true ∧ SameBut [.regs] s t ∧ RegsBut [CMD.DBGSTAT c] s t) := by
  refine completes_whileRuns hr (completes_next ?_)
  rw [if_pos ⟨hc, hallow⟩]
  exact ⟨State.flag_setB_self _ _ _ (of_decide_eq_true rfl) Nat.one_pos, s.setB_sameBut _ _, s.setB_regsBut _ _ List.mem_cons_self⟩

theorem attached_apart : ∀ c : Fin 2, (CMD.DBGSTAT_DBG_REJ c).apart (CMD.DBGSTAT_ATTACHED c) = true := by decide

theorem debugAttach_rejects (c : Fin 2) (s : State) (h : s.role c ≠ 3 ∨ s.dnat DP.ARBP_DBG_ALLOW ≠ 1) (hr : s.mainRuns = true) :
    Completes (exec (.debugAttach c) s) (fun t => t.flag (CMD.DBGSTAT_DBG_REJ c) = true ∧
      t.flag (CMD.DBGSTAT_ATTACHED c) = s.flag (CMD.DBGSTAT_ATTACHED c) ∧ SameBut [.regs] s t ∧ RegsBut [CMD.DBGSTAT c] s t) := by
  refine completes_whileRuns hr (completes_next ?_)
  rw [if_neg (not_and_or.2 h)]
  exact ⟨State.flag_setB_self _ _ _ (of_decide_eq_true rfl) Nat.one_pos, State.flag_setB_apart _ _ (attached_apart c), s.setB_sameBut _ _,
    s.setB_regsBut _ _ List.mem_cons_self⟩

/-! ### SHELL_DEBUG_HALT (R382) -/

/-- The shell halts. -/
def State.shellHalted (s : State) (c : Nat) (counts : List Nat) : State :=
  (s.setB (CMD.DBGSTAT_HALTED c) true).modCmd c (fun x => { x with counts := counts, haltCpn := x.lastCpn })

/-- The liner is to halt where the shell `x` has. -/
def CmdDie.toHalt (counts : List Nat) (x : CmdDie) (y : CmdDie) : CmdDie :=
  { y with counts := counts, haltCpn := x.lastCpn, haltAt := some (x.lastCpn, x.issued) }

/-- Has the liner `y` reached the place where the shell `x` has halted? -/
def CmdDie.reached (y x : CmdDie) : Bool :=
  decide (y.lastCpn = x.lastCpn) && [0, 1, 2, 3].all (fun k => decide (vget x.issued k ≤ vget y.issued k))

theorem execShellDebugHalt_eq (c : Fin 2) (counts : List Nat) (s : State) (hc : s.role c = 3) (hatt : s.flag (CMD.DBGSTAT_ATTACHED c) = true)
    (hhalt : s.flag (CMD.DBGSTAT_HALTED c) = false) (hr : s.mainRuns = true) : execShellDebugHalt c counts s =
      .next (if (s.shellHalted c counts).role (otherCmd c) = 2 then
        ((s.shellHalted c counts).modCmd (otherCmd c) (CmdDie.toHalt counts (s.cmd c))).haltCheck (otherCmd c) else s.shellHalted c counts) := by
  have hgo : (decide (s.role c = 3) && s.flag (CMD.DBGSTAT_ATTACHED c) && !s.flag (CMD.DBGSTAT_HALTED c)) = true := by
    rw [hc, hatt, hhalt]
    rfl
  unfold execShellDebugHalt
  rw [whileRuns_running _ hr]
  exact congrArg _ (if_pos hgo)

/-- A die that is to halt stands halted as soon as it has reached the place. -/
theorem State.haltCheck_armed (s : State) (c : Nat) {x : CmdDie} (h : (s.cmd c).haltAt = some (x.lastCpn, x.issued)) :
    s.haltCheck c = if (s.cmd c).reached x then (s.setB (CMD.DBGSTAT_HALTED c) true).modCmd c (fun y => { y with haltAt := none }) else s := by
  unfold State.haltCheck
  dsimp only
  rw [h]
  rfl

/-- At its end `haltCheck` shows whether the place was reached, and leaves the die but for the order to halt. -/
theorem State.haltCheck_shows (s : State) (c : Fin 2) {x : CmdDie} (h : (s.cmd c).haltAt = some (x.lastCpn, x.issued)) :
    (s.haltCheck c).flag (CMD.DBGSTAT_HALTED c) = (s.flag (CMD.DBGSTAT_HALTED c) || (s.cmd c).reached x) ∧
      ((s.haltCheck c).cmd c).counts = (s.cmd c).counts ∧ ((s.haltCheck c).cmd c).haltCpn = (s.cmd c).haltCpn := by
  rw [s.haltCheck_armed c h]
  split
  · next hreached =>
    rw [hreached, Bool.or_true, State.cmd_modCmd_self _ _ c.isLt, State.cmd_setB]
    refine ⟨(State.flag_of_get (State.modCmd_get _ _ _ _)).trans ?_, rfl, rfl⟩
    exact State.flag_setB_self _ _ _ (of_decide_eq_true rfl) Nat.one_pos
  · next hnot =>
    rw [Bool.eq_false_of_not_eq_true hnot, Bool.or_false]
    exact ⟨rfl, rfl, rfl⟩

theorem State.haltCheck_cmd_other (s : State) (c : Nat) {j : Nat} (hj : j ≠ c) : (s.haltCheck c).cmd j = s.cmd j := by
  unfold State.haltCheck
  dsimp only
  split
  · split
    · rw [State.cmd_modCmd_ne _ _ hj, State.cmd_setB]
    · rfl
  · rfl

theorem halt_addr : ∀ c : Fin 2, CMD.DBGSTAT c ≠ CMD.DBGSTAT (otherCmd c) ∧ CMD.CMDSTAT (otherCmd c) ≠ CMD.DBGSTAT c := by decide

theorem State.shellHalted_flag (s : State) (c : Fin 2) (counts : List Nat) : (s.shellHalted c counts).flag (CMD.DBGSTAT_HALTED c) = true :=
  (State.flag_of_get (State.modCmd_get _ _ _ _)).trans (State.flag_setB_self _ _ _ (of_decide_eq_true rfl) Nat.one_pos)

theorem State.shellHalted_cell (s : State) (c : Nat) (counts : List Nat) {a : Nat} (ha : a ≠ CMD.DBGSTAT c) :
    (s.shellHalted c counts).cell a = s.cell a := (State.modCmd_cell _ _ _ _).trans (State.cell_setB_ne _ _ _ _ ha)

theorem State.shellHalted_cmd (s : State) (c : Fin 2) (counts : List Nat) :
    (s.shellHalted c counts).cmd c = { s.cmd c with counts := counts, haltCpn := (s.cmd c).lastCpn } ∧
      (s.shellHalted c counts).cmd (otherCmd c) = s.cmd (otherCmd c) := by
  constructor
  · rw [State.shellHalted, State.cmd_modCmd_self _ _ c.isLt, State.cmd_setB]
  · rw [State.shellHalted, State.cmd_modCmd_ne _ _ (otherCmd_ne c), State.cmd_setB]

theorem State.shellHalted_sameBut (s : State) (c : Nat) (counts : List Nat) : SameBut [.regs, .cmds] s (s.shellHalted c counts) :=
  ((s.setB_sameBut _ _).mono (by decide)).trans ((State.modCmd_sameBut _ _ _).mono (by decide))

theorem State.haltCheck_sameBut (s : State) (c : Nat) : SameBut [.regs, .cmds] s (s.haltCheck c) :=
  have : Open (fun p => p ∉ [Part.regs, .cmds]) .regs := open_of_mem (by decide)
  have : Open (fun p => p ∉ [Part.regs, .cmds]) .cmds := open_of_mem (by decide)
  Keeps.sameBut (State.haltCheck_keeps (Keeps.refl _ s) c)

theorem shellDebugHalt_halts (c : Fin 2) (counts : List Nat) (s : State) (hc : s.role c = 3) (hatt : s.flag (CMD.DBGSTAT_ATTACHED c) = true)
    (hhalt : s.flag (CMD.DBGSTAT_HALTED c) = false) (hr : s.mainRuns = true) :
    Completes (exec (.shellDebugHalt c counts) s) (fun t => t.flag (CMD.DBGSTAT_HALTED c) = true ∧ (t.cmd c).counts = counts ∧
      (t.cmd c).haltCpn = (s.cmd c).lastCpn ∧ (s.role (otherCmd c) = 2 → (t.cmd (otherCmd c)).counts = counts ∧
      (t.cmd (otherCmd c)).haltCpn = (s.cmd c).lastCpn ∧
      t.flag (CMD.DBGSTAT_HALTED (otherCmd c)) = (s.flag (CMD.DBGSTAT_HALTED (otherCmd c)) || (decide ((s.cmd (otherCmd c)).lastCpn = (s.cmd
      c).lastCpn) && [0, 1, 2, 3].all (fun k => decide (vget (s.cmd c).issued k ≤ vget (s.cmd (otherCmd c)).issued k))))) ∧ SameBut [.regs,
      .cmds] s t ∧ RegsBut [CMD.DBGSTAT c, CMD.DBGSTAT (otherCmd c)] s t) := by
  obtain ⟨hne, hstat⟩ := halt_addr c
  obtain ⟨hcmd, hother⟩ := s.shellHalted_cmd c counts
  have hrole : (s.shellHalted c counts).role (otherCmd c) = s.role (otherCmd c) := State.get_of_cell (s.shellHalted_cell c counts hstat)
  have hshell := s.shellHalted_flag c counts
  have hsame := s.shellHalted_sameBut c counts
  refine completes_of_eq (execShellDebugHalt_eq c counts s hc hatt hhalt hr) ?_
  rw [hrole]
  split
  · generalize hu : (s.shellHalted c counts).modCmd (otherCmd c) (CmdDie.toHalt counts (s.cmd c)) = u
    have hl : u.cmd (otherCmd c) = CmdDie.toHalt counts (s.cmd c) (s.cmd (otherCmd c)) := by
      rw [← hu, State.cmd_modCmd_self _ _ (otherCmd_lt c), hother]
    have hself : u.cmd c = { s.cmd c with counts := counts, haltCpn := (s.cmd c).lastCpn } := by
      rw [← hu, State.cmd_modCmd_ne _ _ (otherCmd_ne c).symm, hcmd]
    have hcell (a : Nat) : u.cell a = (s.shellHalted c counts).cell a := by
      rw [← hu, State.modCmd_cell]
    have husame : SameBut [.regs, .cmds] s u := hu ▸ hsame.trans ((State.modCmd_sameBut _ _ _).mono (by decide))
    have harmed : (u.cmd (otherDie c)).haltAt = some ((s.cmd c).lastCpn, (s.cmd c).issued) := congrArg CmdDie.haltAt hl
    obtain ⟨hflag, hcounts, hcpn⟩ := u.haltCheck_shows (otherDie c) harmed
    have hreached : (u.cmd (otherDie c)).reached (s.cmd c) = (s.cmd (otherCmd c)).reached (s.cmd c) :=
      Eq.trans (congrArg (CmdDie.reached · (s.cmd c)) hl) rfl
    refine ⟨?_, ?_, ?_, fun _ => ⟨?_, ?_, ?_⟩, husame.trans (u.haltCheck_sameBut _), fun a ha => ?_⟩
    · rw [State.flag_of_cell (u.haltCheck_cell _ hne), State.flag_of_cell (hcell _), hshell]
    · rw [u.haltCheck_cmd_other _ (otherCmd_ne c).symm, hself]
    · rw [u.haltCheck_cmd_other _ (otherCmd_ne c).symm, hself]
    · exact hcounts.trans (congrArg CmdDie.counts hl)
    · exact hcpn.trans (congrArg CmdDie.haltCpn hl)
    · have hstill : u.flag (CMD.DBGSTAT_HALTED (otherCmd c)) = s.flag (CMD.DBGSTAT_HALTED (otherCmd c)) :=
        State.flag_of_cell ((hcell _).trans (s.shellHalted_cell c counts hne.symm))
      exact hflag.trans (congrArg₂ _ hstill hreached)
    · obtain ⟨hac, hal⟩ : a ≠ CMD.DBGSTAT c ∧ a ≠ CMD.DBGSTAT (otherCmd c) := by simpa using ha
      rw [u.haltCheck_cell _ hal, hcell, s.shellHalted_cell c counts hac]
  · next hrole2 =>
    rw [hcmd]
    refine ⟨hshell, rfl, rfl, fun h => absurd h hrole2, hsame, fun a ha => s.shellHalted_cell c counts (List.ne_of_not_mem_cons ha)⟩

/-! ### DEBUGGER_WRITE (R383) -/

theorem Memory.readLE_congr {m m' : Memory} (n : Nat) : ∀ a : Nat, (∀ x, a ≤ x → x < a + n → Memory.read m' x = Memory.read m x) →
    Memory.readLE m' a n = Memory.readLE m a n := by
  induction n with
  | zero => exact fun _ _ => rfl
  | succ n ih =>
    intro a h
    rw [Memory.readLE, Memory.readLE, h a (Nat.le_refl a) (by omega), ih (a + 1) fun x hx hx' => h x (by omega) (by omega)]

theorem State.memWord_setMemWord_ne (s : State) {a b : Nat} (w : Word) (h : b + 4 ≤ a ∨ a + 4 ≤ b) : (s.setMemWord a w).memWord b = s.memWord b := by
  unfold State.memWord
  rw [Memory.readLE_congr 4 b fun x hx hx' => s.setMemWord_memBut a w x (by omega)]

theorem State.keepPage_idle (s : State) (c a : Nat) (h : (s.cmd c).sending = []) : s.keepPage c a = s := by
  unfold State.keepPage
  dsimp only
  rw [h]
  rfl

theorem State.ownWrite_sram (s : State) (c : Nat) {a : Nat} (w : Word) (h : a < 0x200000) : s.ownWrite c a w = s.setMemWord (a + c * 2 ^ 32) w := if_pos h

/-- The debugger's write in the other die: at once where it stands halted, kept until then otherwise. -/
def State.debugShared (s : State) (l x : Nat) (w : Word) : State :=
  if s.flag (CMD.DBGSTAT_HALTED l) then (s.settleDebug l).ownWrite l x w
  else if (s.cmd l).haltAt.isSome then s.modCmd l (fun y => { y with debugWrites := y.debugWrites ++ [(x, w)] })
  else s

theorem execDebuggerWrite_eq (c : Fin 2) (a : BitVec 32) (w : BitVec 32) (s : State) (hc : s.role c = 3)
    (hhalt : s.flag (CMD.DBGSTAT_HALTED c) = true) (hsend : (s.cmd c).sending = []) (ha : a.toNat < 0x200000) (hal : a.toNat % 4 = 0)
    (hr : s.mainRuns = true) :
    execDebuggerWrite c a w s = .next ((s.setMemWord (a.toNat + c.val * 2 ^ 32) w).debugShared (otherCmd c) a.toNat w) := by
  have hown : (decide (a.toNat < 0x200000) || (decide (0x50000000 ≤ a.toNat) && decide (a.toNat < 0x51000000))) = true := by
    rw [decide_eq_true ha, Bool.true_or]
  unfold execDebuggerWrite
  rw [whileRuns_running _ hr]
  dsimp only
  rw [if_pos ⟨hc, hhalt, hown, hal⟩, if_pos ha, s.keepPage_idle c _ hsend, s.ownWrite_sram c w ha]
  rfl

theorem debuggerWrite_journals (c : Fin 2) (a : BitVec 32) (w : BitVec 32) (s : State) (hc : s.role c = 3)
    (hhalt : s.flag (CMD.DBGSTAT_HALTED c) = true) (hsend : (s.cmd c).sending = []) (hrun : s.flag (CMD.DBGSTAT_HALTED (otherCmd c)) = false)
    (hat : (s.cmd (otherCmd c)).haltAt.isSome = true) (ha : a.toNat < 0x200000) (hal : a.toNat % 4 = 0) (hr : s.mainRuns = true) :
    Completes (exec (.debuggerWrite c a w) s) (fun t => t.memWord (a.toNat + c.val * 2 ^ 32) = w ∧
      (t.cmd (otherCmd c)).debugWrites = (s.cmd (otherCmd c)).debugWrites ++ [(a.toNat, w)] ∧ SameBut [.mem, .cmds] s t ∧
      MemBut (a.toNat + c.val * 2 ^ 32) 4 s t) := by
  refine completes_of_eq (execDebuggerWrite_eq c a w s hc hhalt hsend ha hal hr) ?_
  have hshared : (s.setMemWord (a.toNat + c.val * 2 ^ 32) w).debugShared (otherCmd c) a.toNat w =
      (s.setMemWord (a.toNat + c.val * 2 ^ 32) w).modCmd (otherCmd c) (fun y => { y with debugWrites := y.debugWrites ++ [(a.toNat, w)] }) :=
    (if_neg (ne_true_of_eq_false hrun)).trans (if_pos hat)
  rw [hshared]
  refine ⟨s.memWord_setMemWord_self _ w, ?_, ?_, s.setMemWord_memBut _ w⟩
  · rw [State.cmd_modCmd_self _ _ (otherCmd_lt c)]
    rfl
  · exact ((s.setMemWord_sameBut _ w).mono (by decide)).trans ((State.modCmd_sameBut _ _ _).mono (by decide))

/-- With nothing left to apply, nothing but the order to apply goes. -/
theorem State.settleDebug_none (s : State) (c : Nat) (h : (s.cmd c).debugWrites = []) :
    s.settleDebug c = s ∨ s.settleDebug c = s.modCmd c (fun x => { x with debugWrites := [] }) := by
  unfold State.settleDebug
  split
  · exact .inl rfl
  · refine .inr ?_
    unfold State.applyDebugWrites
    rw [h, List.foldl_nil]

theorem debuggerWrite_both (c : Fin 2) (a : BitVec 32) (w : BitVec 32) (s : State) (hc : s.role c = 3)
    (hhalt : s.flag (CMD.DBGSTAT_HALTED c) = true) (hsend : (s.cmd c).sending = []) (hother : s.flag (CMD.DBGSTAT_HALTED (otherCmd c)) = true)
    (hnone : (s.cmd (otherCmd c)).debugWrites = []) (ha : a.toNat < 0x200000) (hal : a.toNat % 4 = 0) (hr : s.mainRuns = true) :
    Completes (exec (.debuggerWrite c a w) s) (fun t => t.memWord (a.toNat + c.val * 2 ^ 32) = w ∧
      t.memWord (a.toNat + otherCmd c * 2 ^ 32) = w ∧ SameBut [.mem, .cmds] s t) := by
  refine completes_of_eq (execDebuggerWrite_eq c a w s hc hhalt hsend ha hal hr) ?_
  generalize hu : s.setMemWord (a.toNat + c.val * 2 ^ 32) w = u
  have hword : u.memWord (a.toNat + c.val * 2 ^ 32) = w := hu ▸ s.memWord_setMemWord_self _ w
  have hsame : SameBut [.mem, .cmds] s u := hu ▸ (s.setMemWord_sameBut _ w).mono (by decide)
  have hhalted : u.flag (CMD.DBGSTAT_HALTED (otherCmd c)) = true := hu ▸ hother
  have hwrites : (u.cmd (otherCmd c)).debugWrites = [] := hu ▸ hnone
  have hsettled : (u.settleDebug (otherCmd c)).mem = u.mem ∧ SameBut [.mem, .cmds] u (u.settleDebug (otherCmd c)) := by
    rcases u.settleDebug_none _ hwrites with h | h
    · rw [h]
      exact ⟨rfl, rfl, fun p _ => p.same_refl u⟩
    · rw [h]
      exact ⟨rfl, (State.modCmd_sameBut _ _ _).mono (by decide)⟩
  have hapart : a.toNat + c.val * 2 ^ 32 + 4 ≤ a.toNat + otherCmd c * 2 ^ 32 ∨ a.toNat + otherCmd c * 2 ^ 32 + 4 ≤ a.toNat + c.val * 2 ^ 32 := by
    unfold otherCmd
    omega
  have hshared : u.debugShared (otherCmd c) a.toNat w = (u.settleDebug (otherCmd c)).setMemWord (a.toNat + otherCmd c * 2 ^ 32) w :=
    (if_pos hhalted).trans (State.ownWrite_sram _ _ _ ha)
  rw [hshared]
  refine ⟨?_, State.memWord_setMemWord_self _ _ w, hsame.trans (hsettled.2.trans ((State.setMemWord_sameBut _ _ w).mono (by decide)))⟩
  rw [State.memWord_setMemWord_ne _ w hapart]
  exact (congrArg (fun m => BitVec.ofNat 32 (Memory.readLE m _ 4)) hsettled.1).trans hword

/-! ### SHELL_DEBUG_RESUME (R384) -/

theorem noHalt_cleared (s : State) (c : Fin 2) :
    NoHalt ((s.setB (CMD.DBGSTAT_HALTED c) false).setB (CMD.DBGSTAT_HALTED (otherCmd c)) false) := by
  intro k
  have hk : ∀ c k : Fin 2, c = k ∨ otherDie c = k := by decide
  refine State.flag_halted_cleared _ (otherDie c) k ((hk c k).symm.imp_right fun h => ?_)
  exact State.flag_halted_cleared s c k (.inl h)

theorem NoHalt.debugResume (s : State) (c : Fin 2) (apply : State → Nat → Word → State) (h : s.flag (CMD.DBGSTAT_HALTED c) = true) :
    NoHalt (s.debugResume c apply) := by
  unfold State.debugResume
  rw [h, if_neg (by decide)]
  extract_lets l was u v x
  exact (((noHalt_cleared u c).modCmd c _).modCmd l _).tryStart c

theorem shellDebugResume_resumes (c : Fin 2) (s : State) (h : s.flag (CMD.DBGSTAT_HALTED c) = true) (hr : s.mainRuns = true) :
    Completes (exec (.shellDebugResume c) s) (fun t =>
      t.flag (CMD.DBGSTAT_HALTED c) = false ∧ t.flag (CMD.DBGSTAT_HALTED (otherCmd c)) = false) := by
  refine completes_whileRuns hr (completes_next ?_)
  have hno := NoHalt.debugResume s c (fun t k w => t.ownWrite (otherCmd c) k w) h
  exact ⟨hno c, hno (otherDie c)⟩

end Sys2Proof.Machine
end

section
/-! SUPPORT. The restart of a removed command die (for O30). -/

namespace Sys2Proof.Machine

/-! ### COMMAND_DIE_RESTART_DONE (R372, R375, R463, R464) -/

/-- The own blocks and the SRAM of a die at its restart. -/
def State.ownReset (s : State) (c : Fin 2) : State :=
  { s with regs := s.regs.filter (fun (x : Nat × RegCell) => !ownBlock c x.1), mem := Memory.clear s.mem (c * 2 ^ 32) 0x200000 }

/-- The lanes of a die's links show no code at its restart. -/
def State.lanesReset (s : State) (c : Fin 2) : State :=
  foldOver (List.range 7) (fun k t =>
    (t.setB (ELINK.STAT_LANE_CODE (Die.command c) k) false).setB (ELINK.STAT_LANE_TIMEOUT (Die.command c) k) false) s

/-- What a command die keeps over its restart. -/
def CmdDie.afresh (x : CmdDie) : CmdDie := { joinFails := x.joinFails, inFrames := x.inFrames, faults := x.faults }

/-- A die at its restart, before it reads its slots. -/
def State.restarted (s : State) (c : Fin 2) (hot : Bool) : State :=
  let t := (((s.ownReset c).lanesReset c).restoreOwn c).pllLock (Die.command c) hot
  let t := (t.set (CMD.CMDCFG_CMD_N c) (s.get (CMD.CMDCFG_CMD_N c))).modCmd c CmdDie.afresh
  (t.set (CMD.CMDSTAT_ROLE c) 0).setB (CMD.CMDSTAT_HOME c) (decide (t.get ARB.ARBSTAT_HOME = c.val))

/-- The slots of a die, the one that SLOT_SEL names first. -/
def State.slotOrder (s : State) (slot : Vector ImageSlot 2) : List ImageSlot :=
  [vget slot (s.dnat DP.IMG_SLOT_SEL % 2), vget slot (1 - s.dnat DP.IMG_SLOT_SEL % 2)]

/-- The die has read what the shell runs and asks to join. -/
def State.rejoins (s : State) (c : Fin 2) (slots : List ImageSlot) : State :=
  let t := (s.readSlots c slots).modPower (fun p => { p with digests := vset p.digests c (vget p.digests (1 - c)) })
  ((t.set (arbRole c) 1).takeRole c 1).modCmd c (fun x => { x with joinWait := true })

/-- The conditions under which a removed die restarts. -/
structure State.Restarts (s : State) (c : Fin 2) : Prop where
  runs : s.mainRuns = true
  off : s.get (arbRole c) = 0
  lockout : s.flag (arbLockout c) = false
  joinFail : s.flag (arbJoinFail c) = false
  power : s.power.runs.testBit c = true

theorem execCommandDieRestartDone_eq (c : Fin 2) (slot : Vector ImageSlot 2) (hot : Bool) (s : State) (h : s.Restarts c) :
    execCommandDieRestartDone c slot hot s = .next (
      let t := s.restarted c hot
      match (t.slotOrder slot).findIdx? (t.runsAtShell c) with
      | some i => t.rejoins c ((t.slotOrder slot).take (i + 1))
      | none => ((t.readSlots c (t.slotOrder slot)).joinFailed c).set (arbRole c) 0) := by
  obtain ⟨hruns, hoff, hlock, hfail, hpower⟩ := h
  have hgo : ¬ (!s.mainRuns ∨ s.get (arbRole c) ≠ 0 ∨ s.flag (arbLockout c) ∨ s.flag (arbJoinFail c) ∨ !s.power.runs.testBit c) := by
    simp [hruns, hoff, hlock, hfail, hpower]
  unfold execCommandDieRestartDone
  rw [if_neg hgo]
  extract_lets n s1 s2 s3 s4 s5 sel slots t
  have ht : s5 = t := rfl
  rw [ht]
  rfl

/-! #### What a restart leaves -/

theorem arbstat_notOwn : ∀ c : Fin 2, ownBlock c ARB.ARBSTAT = false ∧ ARB.ARBSTAT ∉ frameRegs c ∧
    decide (ARB.ARBSTAT / 0x4000 = ELINK.STAT (Die.command c) 0 / 0x4000) = false ∧ ARB.ARBSTAT ≠ CLK.LOCK_CFG (Die.command c) ∧
    ARB.ARBSTAT ≠ CLK.PLL_STAT (Die.command c) ∧ ARB.ARBSTAT ≠ CMD.CMDCFG c ∧ ARB.ARBSTAT ≠ CMD.CMDSTAT c ∧
    ∀ k ∈ List.range 7, ARB.ARBSTAT ≠ ELINK.STAT (Die.command c) k := by decide

theorem State.ownReset_arbstat (s : State) (c : Fin 2) : (s.ownReset c).cell ARB.ARBSTAT = s.cell ARB.ARBSTAT := by
  have hget : Assoc.get (s.regs.filter (fun x => !ownBlock c x.1)) ARB.ARBSTAT = Assoc.get s.regs ARB.ARBSTAT :=
    (Assoc.get_filter_key s.regs (fun a => !ownBlock c a) ARB.ARBSTAT).trans (if_pos (by rw [(arbstat_notOwn c).1]; rfl))
  unfold State.cell State.ownReset
  dsimp only
  rw [hget]

theorem State.lanesReset_arbstat (s : State) (c : Fin 2) : (s.lanesReset c).cell ARB.ARBSTAT = s.cell ARB.ARBSTAT := by
  obtain ⟨-, -, -, -, -, -, -, hlane⟩ := arbstat_notOwn c
  exact foldOver_cell _ _ _ _ fun k hk t =>
    (State.cell_setB_ne _ _ _ _ (hlane k hk)).trans (State.cell_setB_ne _ _ _ _ (hlane k hk))

/-- The register field of a persisted value that a die restores at its restart. -/
def restoredField (c : Fin 2) (key : Nat) : Option RF :=
  if key / 256 = 0x6000 then cmdEntry c (key % 256)
  else if key = DP.CLKP_LOCK_WIN then some (CLK.LOCK_CFG_LOCK_WIN (Die.command c))
  else if key = DP.CLKP_LOCK_N then some (CLK.LOCK_CFG_LOCK_N (Die.command c))
  else if key = DP.CLKP_LOSS_M then some (CLK.LOCK_CFG_LOSS_M (Die.command c))
  else none

theorem restoredField_addr {c : Fin 2} {key : Nat} {f : RF} (h : restoredField c key = some f) :
    f.addr ∈ frameRegs c ∨ f.addr = CLK.LOCK_CFG (Die.command c) := by
  unfold restoredField at h
  split at h
  · exact .inl (cmdEntry_addr h)
  split at h
  · cases h
    exact .inr rfl
  split at h
  · cases h
    exact .inr rfl
  split at h
  · cases h
    exact .inr rfl
  · cases h

theorem State.restoreOwn_arbstat (s : State) (c : Fin 2) : (s.restoreOwn c).cell ARB.ARBSTAT = s.cell ARB.ARBSTAT := by
  obtain ⟨hown, hframe, hlink, hlock, -⟩ := arbstat_notOwn c
  unfold State.restoreOwn
  extract_lets e own t
  have ht : t.cell ARB.ARBSTAT = s.cell ARB.ARBSTAT := by
    refine List.foldlRecOn (motive := fun u : State => u.cell ARB.ARBSTAT = s.cell ARB.ARBSTAT) _ _ rfl fun u hu v _ => ?_
    extract_lets field
    split
    · next f _ hf _ =>
      refine (State.cell_set_ne _ _ _ _ fun haddr => ?_).trans hu
      exact (restoredField_addr hf).elim (fun hm => hframe (haddr ▸ hm)) fun ha => hlock (haddr.trans ha)
    · exact hu
  split
  · refine List.foldlRecOn (motive := fun u : State => u.cell ARB.ARBSTAT = s.cell ARB.ARBSTAT) _ _ ht fun u hu x _ => ?_
    split
    · next hx =>
      refine (State.cell_set_ne _ _ _ _ fun haddr => ?_).trans hu
      have hnot : own x.1 = false := by
        simp only [own, ← haddr, hown, hlink, e, Bool.or_self]
      exact absurd (hx.symm.trans hnot) (by decide)
    · exact hu
  · exact ht

theorem State.pllLock_arbstat (s : State) (c : Fin 2) (hot : Bool) : (s.pllLock (Die.command c) hot).cell ARB.ARBSTAT = s.cell ARB.ARBSTAT := by
  obtain ⟨-, -, -, -, hpll, -⟩ := arbstat_notOwn c
  have hdrive : ∀ c : Fin 2, (Die.command c).isDrive = false := by decide
  unfold State.pllLock
  extract_lets t u
  have ht : t.cell ARB.ARBSTAT = s.cell ARB.ARBSTAT := (State.cell_setB_ne _ _ _ _ hpll).trans (State.cell_setB_ne _ _ _ _ hpll)
  have hu : u.cell ARB.ARBSTAT = s.cell ARB.ARBSTAT := by
    unfold u
    split
    · exact (State.cell_set_ne _ _ _ _ hpll).trans ht
    · exact ht
  rw [hdrive, Bool.false_and, if_neg Bool.false_ne_true]
  exact hu

theorem State.restarted_arbstat (s : State) (c : Fin 2) (hot : Bool) : (s.restarted c hot).cell ARB.ARBSTAT = s.cell ARB.ARBSTAT := by
  obtain ⟨-, -, -, -, -, hcfg, hstat, -⟩ := arbstat_notOwn c
  unfold State.restarted
  extract_lets t u
  have ht : t.cell ARB.ARBSTAT = s.cell ARB.ARBSTAT := (State.pllLock_arbstat _ c hot).trans ((State.restoreOwn_arbstat _ c).trans
    ((State.lanesReset_arbstat _ c).trans (s.ownReset_arbstat c)))
  have hu : u.cell ARB.ARBSTAT = s.cell ARB.ARBSTAT := (State.modCmd_cell _ _ _ _).trans ((State.cell_set_ne _ _ _ _ hcfg).trans ht)
  exact (State.cell_setB_ne _ _ _ _ hstat).trans ((State.cell_set_ne _ _ _ _ hstat).trans hu)

theorem State.restarted_role (s : State) (c : Fin 2) (hot : Bool) : (s.restarted c hot).role c = 0 := by
  have happart : (CMD.CMDSTAT_HOME c).apart (CMD.CMDSTAT_ROLE c) = true := by revert c; decide
  unfold State.restarted
  extract_lets t u
  exact (State.get_setB_apart _ _ happart).trans (State.get_set_self _ _ _ (of_decide_eq_true rfl))

/-- A restart reaches registers and SRAM only, until the die's own record is made afresh. -/
theorem State.restoredOwn_keeps {F : Part → Prop} [Open F .regs] [Open F .mem] (s : State) (c : Fin 2) (hot : Bool) :
    Keeps F s ((((s.ownReset c).lanesReset c).restoreOwn c).pllLock (Die.command c) hot) := by
  have hreset : Keeps F s (s.ownReset c) :=
    ((Keeps.refl F s).regs _ (Assoc.sorted_filter _ _) fun hn x hm => hn x (List.mem_filter.1 hm).1).mem _ (Memory.wf_clear _ _ _)
  have hlanes : Keeps F s ((s.ownReset c).lanesReset c) := foldOver_keeps _ _ hreset fun i t ht => State.setB_keeps (State.setB_keeps ht _ _) _ _
  exact State.pllLock_keeps (State.restoreOwn_keeps hlanes c) _ hot

theorem State.restarted_cmd (s : State) (c : Fin 2) (hot : Bool) : (s.restarted c hot).cmd c = (s.cmd c).afresh := by
  have : Open (fun p => p = Part.cmds) .regs := open_of_eq (by decide)
  have : Open (fun p => p = Part.cmds) .mem := open_of_eq (by decide)
  have hcmds := (State.restoredOwn_keeps (F := fun p => p = .cmds) s c hot).same .cmds rfl
  unfold State.restarted
  extract_lets t u
  rw [State.cmd_setB, State.cmd_set, State.cmd_modCmd_self _ _ c.isLt, State.cmd_set, State.cmd_of_cmds hcmds]

theorem State.restarted_sameBut (s : State) (c : Fin 2) (hot : Bool) : SameBut [.regs, .mem, .cmds] s (s.restarted c hot) := by
  have : Open (fun p => p ∉ [Part.regs, .mem, .cmds]) .regs := open_of_mem (by decide)
  have : Open (fun p => p ∉ [Part.regs, .mem, .cmds]) .mem := open_of_mem (by decide)
  have : Open (fun p => p ∉ [Part.regs, .mem, .cmds]) .cmds := open_of_mem (by decide)
  refine Keeps.sameBut (State.setB_keeps (State.set_keeps (State.modCmd_keeps (State.set_keeps ?_ _ _) _ _) _ _) _ _)
  exact s.restoredOwn_keeps c hot

theorem State.dnat_of_vars {s t : State} (h : t.vars = s.vars) (key : Nat) : t.dnat key = s.dnat key := by
  unfold State.dnat State.dint State.dval
  rw [h]

theorem State.arbShell_of_cell {s t : State} (h : t.cell ARB.ARBSTAT = s.cell ARB.ARBSTAT) : t.arbShell = s.arbShell := by
  have hrole (c : Nat) : t.get (arbRole c) = s.get (arbRole c) := State.get_of_cell ((arbRole_addr c).symm ▸ h)
  unfold State.arbShell
  simp only [hrole]

/-! #### How it ends -/

theorem commandDieRestartDone_joins (c : Fin 2) (slot : Vector ImageSlot 2) (hot : Bool) (s : State) (hr : s.mainRuns = true)
    (hoff : s.get (arbRole c) = 0) (hlock : s.flag (arbLockout c) = false) (hfail : s.flag (arbJoinFail c) = false)
    (hpower : s.power.runs.testBit c = true) (hshell : s.arbShell = some (1 - c.val))
    (hvalid : ImageSlot.valid (vget slot (s.dnat DP.IMG_SLOT_SEL % 2)) = true)
    (hdigest : ImageSlot.digest (vget slot (s.dnat DP.IMG_SLOT_SEL % 2)) = vget s.power.digests (1 - c.val)) :
    Completes (exec (.commandDieRestartDone c slot hot) s) (fun t => t.get (arbRole c) = 1 ∧ t.role c = 1 ∧ (t.cmd c).joinWait = true) := by
  obtain ⟨-, hstat, hdebug⟩ := arbRole_apart c
  have hsame := s.restarted_sameBut c hot
  have hpow : (s.restarted c hot).power = s.power := hsame.same .power (by decide)
  have hsel : (s.restarted c hot).dnat DP.IMG_SLOT_SEL = s.dnat DP.IMG_SLOT_SEL := State.dnat_of_vars (hsame.same .vars (by decide)) _
  have hfirst : (s.restarted c hot).runsAtShell c (vget slot (s.dnat DP.IMG_SLOT_SEL % 2)) = true := by
    unfold State.runsAtShell
    rw [State.arbShell_of_cell (s.restarted_arbstat c hot), hpow, hvalid, hshell, hdigest]
    simp
  have hfound : ((s.restarted c hot).slotOrder slot).findIdx? ((s.restarted c hot).runsAtShell c) = some 0 := by
    unfold State.slotOrder
    rw [hsel, List.findIdx?_cons, hfirst, if_pos rfl]
  refine completes_of_eq (execCommandDieRestartDone_eq c slot hot s ⟨hr, hoff, hlock, hfail, hpower⟩) ?_
  dsimp only
  rw [hfound]
  dsimp only
  unfold State.rejoins
  extract_lets t
  refine ⟨?_, (State.modCmd_get _ _ _ _).trans (State.takeRole_role _ c (by decide)), ?_⟩
  · exact (State.modCmd_get _ _ _ _).trans (((FieldSame.refl (arbRole c) _).takeRole c 1 hstat hdebug).trans (t.get_set_arbRole c (by decide)))
  · rw [State.cmd_modCmd_self _ _ c.isLt]

theorem State.readSlots_cmds (s : State) (c : Nat) (slots : List ImageSlot) : (s.readSlots c slots).cmds = s.cmds :=
  have : Open (fun p => p = Part.cmds) .mem := open_of_eq (by decide)
  (State.readSlots_keeps (Keeps.refl (fun p => p = .cmds) s) c slots).same .cmds rfl

theorem State.readSlots_cell (s : State) (c : Nat) (slots : List ImageSlot) (a : Nat) : (s.readSlots c slots).cell a = s.cell a :=
  have : Open (fun p => p = Part.regs) .mem := open_of_eq (by decide)
  (State.readSlots_keeps (Keeps.refl (fun p => p = .regs) s) c slots).cell a

theorem cmdstat_notArb : ∀ c : Fin 2, (CMD.CMDSTAT_ROLE c).addr ≠ ARB.ARBSTAT ∧ (CMD.CMDSTAT_ROLE c).addr ≠ ARB.ARBDEC ∧
    (CMD.CMDSTAT_ROLE c).addr ≠ KPR.KQ := by decide

theorem State.runsAtShell_invalid (s : State) (c : Nat) {i : ImageSlot} (h : ImageSlot.valid i = false) : s.runsAtShell c i = false := by
  unfold State.runsAtShell
  rw [h, Bool.false_and, Bool.false_and]

/-- With no slot that holds an image, neither is what the shell runs. -/
theorem State.slotOrder_none (s : State) (c : Nat) (slot : Vector ImageSlot 2) (h0 : ImageSlot.valid (vget slot 0) = false)
    (h1 : ImageSlot.valid (vget slot 1) = false) : (s.slotOrder slot).findIdx? (s.runsAtShell c) = none := by
  have hslot (k : Nat) (hk : k < 2) : s.runsAtShell c (vget slot k) = false := by
    refine s.runsAtShell_invalid c ?_
    interval_cases k
    · exact h0
    · exact h1
  unfold State.slotOrder
  rw [List.findIdx?_cons, hslot _ (by omega), if_neg Bool.false_ne_true, List.findIdx?_cons, hslot _ (by omega), if_neg Bool.false_ne_true]
  rfl

theorem commandDieRestartDone_fails (c : Fin 2) (slot : Vector ImageSlot 2) (hot : Bool) (s : State) (hr : s.mainRuns = true)
    (hoff : s.get (arbRole c) = 0) (hlock : s.flag (arbLockout c) = false) (hfail : s.flag (arbJoinFail c) = false)
    (hpower : s.power.runs.testBit c = true) (hfew : (s.cmd c).joinFails < 7) (h0 : ImageSlot.valid (vget slot 0) = false)
    (h1 : ImageSlot.valid (vget slot 1) = false) : Completes (exec (.commandDieRestartDone c slot hot) s) (fun t =>
      t.get (arbRole c) = 0 ∧ t.role c = 0 ∧ (t.cmd c).joinFails = (s.cmd c).joinFails + 1) := by
  obtain ⟨hstat, hdec, hkq⟩ := cmdstat_notArb c
  refine completes_of_eq (execCommandDieRestartDone_eq c slot hot s ⟨hr, hoff, hlock, hfail, hpower⟩) ?_
  dsimp only
  rw [State.slotOrder_none _ c slot h0 h1]
  generalize hu : (s.restarted c hot).readSlots c ((s.restarted c hot).slotOrder slot) = u
  have hcmd : u.cmd c = (s.cmd c).afresh := hu ▸ (State.cmd_of_cmds (State.readSlots_cmds _ _ _) c).trans (s.restarted_cmd c hot)
  have hrole : u.role c = 0 := hu ▸ (State.get_of_cell (State.readSlots_cell _ _ _ _)).trans (s.restarted_role c hot)
  have hfails : (u.cmd c).joinFails = (s.cmd c).joinFails := by
    rw [hcmd]
    rfl
  refine ⟨State.get_set_arbRole _ c (by decide), ?_, ?_⟩
  · refine (State.get_of_cell (State.cell_set_ne _ _ _ _ (arbRole_addr c ▸ hstat))).trans ?_
    exact (State.get_of_cell (u.joinFailed_cell c hstat hdec hkq)).trans hrole
  · rw [State.cmd_set, u.joinFailed_few c (hfails.symm ▸ hfew), State.cmd_modCmd_self _ _ c.isLt, hfails]

theorem commandDieRestartDone_held (c : Fin 2) (slot : Vector ImageSlot 2) (hot : Bool) (s : State) (hpower : s.power.runs.testBit c = false) :
    Completes (exec (.commandDieRestartDone c slot hot) s) (fun t => t = s) :=
  completes_next (if_pos (.inr (.inr (.inr (.inr (by rw [hpower]; rfl))))))

/-! ### The clauses together -/

/-- Settles O30: one lemma for each command and outcome. -/
theorem swapsAndDebug : Obligations.SwapsAndDebug :=
  ⟨holdoffExpire_names, swap_returns, swapTimeout_cancels, debugAttach_attaches, debugAttach_rejects, shellDebugHalt_halts, debuggerWrite_journals,
    debuggerWrite_both, shellDebugResume_resumes, commandDieRestartDone_joins, commandDieRestartDone_fails, commandDieRestartDone_held⟩

end Sys2Proof.Machine
end
